-- ==== Sys2Proof/Word.lean ====
section
/-! DEFINITION. The word types: a byte of memory and a management-space word (R5). Beats, frames, turns, counts and
register fields are natural numbers, because the spec counts and compares them without wrapping (R12); what wraps is
reduced where the spec says so. -/

namespace Sys2Proof

/-- One byte. -/
abbrev Byte := BitVec 8

/-- One management-space word, 32 bits (R5). -/
abbrev Word := BitVec 32

end Sys2Proof
end

