-- ==== Sys2Proof/Syntax.lean ====
section
/-! DEFINITION. The commands the block takes, one constructor per row of the table of operations and events, and the
types of their operands. A command's operands carry what comes from outside the package (an address and a value, a
received message, a pin or analogue outcome); what the package decides by itself is no operand. -/

namespace Sys2Proof

/-- A Movement die, MV0 to MV3. -/
abbrev Mv := Fin 4

/-- A Crown die, CR0 or CR1. -/
abbrev Crown := Fin 2

/-- A die of the package. -/
inductive Die where
  | mv (m : Mv)
  | cr (c : Crown)
  deriving DecidableEq, Repr

/-- One end of a link: an Ikiper link end by its die and slot (R62), or a tray port T0 to T7. -/
inductive LinkEnd where
  | ikl (d : Die) (slot : Fin 4)
  | tray (n : Fin 8)
  deriving DecidableEq, Repr

/-- The path an MS access takes into the package (R411, R501): the BAR0 of a Crown die, the SMBus, or the TAP. -/
inductive Path where
  | bar0 (c : Crown)
  | smbus
  | tap
  deriving DecidableEq, Repr

/-- A power monitor: CR0's and CR1's AON monitors, and CR0's bus and hold-up monitors (R373). -/
inductive Monitor where
  | aon (c : Crown)
  | bus
  | holdUp
  deriving DecidableEq, Repr

/-- A switched domain instance, numbered as `PWR.DOM` numbers them: MVC, MVS and MVL of MV0 to MV3, then CRX and CRF of
CR0 and of CR1. -/
abbrev Domain := Fin 16

/-- A function of a die: a block, or a part of one, with its own `CTL.ENABLE` (R415, R418). `phy`, `cal` and `ll` are the
three functions of an `IKL` instance, `port` and `portLl` the two of a tray port. -/
inductive Fn where
  | pad | bal | pwr | thm | phy | cal | ll | gtr | tray | port | portLl | eng | seq | syn | dma | mem | pci | ethPort
  | ptp | fus | ldg | boot | rcv
  deriving DecidableEq, Repr

/-- A context as a calibre image declares it (R223, R449): its number, its kind, its action, the memory it is granted as
package address and bytes, and the head of its stream on each engine it is bound to. -/
structure ImgCtx where
  num : Fin 32
  onDemand : Bool
  hold : Bool
  grants : List (Nat × Nat)
  heads : List (Mv × Fin 16 × Nat)
  deriving DecidableEq, Repr

/-- A record of a table that an image carries: table space, die, bank, direction, slot, index and value. -/
structure ImgRec where
  space : Nat
  die : Die
  bank : Fin 2
  dir : Fin 2
  slot : Fin 8
  idx : Nat
  val : Nat
  deriving DecidableEq, Repr

/-- An output descriptor (R292): the Crown die, the host ring or else the Ethernet port, the header fields of the frame,
where its records stand, and its output beats, as a period, an anchor and an offset in beats. -/
structure ImgOut where
  crown : Crown
  ring : Option (Fin 16)
  port : Fin 4
  mac : Nat
  vlan : Nat
  pcp : Nat
  ipv6 : Bool
  dstIp : Nat
  srcPort : Nat
  dstPort : Nat
  dscp : Nat
  source : Nat
  rfmt : Fin 2
  last : Bool
  base : Nat
  count : Nat
  pa : Nat
  period : Nat
  offset : Nat
  deriving DecidableEq, Repr

/-- What a sync descriptor does beside its header's wait and signal (R218, R260, R262): nothing more, a fence, or an
arrival at a barrier; the address of the result. -/
inductive SyncOp where
  | plain
  | fence (result : Nat)
  | arrive (bar : Fin 256) (result : Nat)
  deriving DecidableEq, Repr

/-- An element format of the engines (R213): the six concrete MX formats, BF16 and FP32. -/
inductive Fmt where
  | mxfp4 | mxfp6e3m2 | mxfp6e2m3 | mxfp8e4m3 | mxfp8e5m2 | mxint8 | bf16 | fp32
  deriving DecidableEq, Repr

/-- A matrix of elements in memory: its format, the tray address of its first row, bytes from row to row, and the same for the
E8M0 scales of an MX format, one byte for 32 elements of a row (R213) (log entry 150, DESIGN CHOICE). -/
structure Tensor where
  fmt : Fmt
  base : Nat
  pitch : Nat
  scale : Nat
  scalePitch : Nat
  deriving DecidableEq, Repr

/-- An element-wise operation of the vector unit (R218); `other` is an activation or another function by its number. -/
inductive MapFn where
  | add | sub | mul | fma | max | min
  | other (code : Nat)
  deriving DecidableEq, Repr

/-- A reduction (R218). -/
inductive RedFn where
  | sum | max | min
  deriving DecidableEq, Repr

/-- A sequence (R231, R234): its elements, one row a position and one column a channel; its length less one; the summary keys of
its blocks, one row a block, and whether their width is 128 or else 64. -/
structure Seq where
  elems : Tensor
  len1 : Fin 16777216
  summary : Tensor
  wide : Bool
  deriving DecidableEq, Repr

/-- A coefficient of a scan (R232): read from the sequence, one row a position, or computed from x_t by a gate function. -/
inductive Coef where
  | read (t : Tensor)
  | gate (code : Nat)
  deriving DecidableEq, Repr

/-- Which outputs a scan writes (R232): every 2ᵏ-th position (`k` 0: all positions), or the last only. -/
inductive ScanOut where
  | each (k : Fin 17)
  | last
  deriving DecidableEq, Repr

/-- A scan (R232): channels less one, state width less one, sequence, start and count less one, coefficients a, b, c, the row of
d, the initial state where it is not zero, where the final state goes, and the outputs. -/
structure ScanOp where
  chan1 : Fin 4096
  width1 : Fin 64
  seq : Seq
  start : Fin 16777216
  count1 : Fin 16777216
  a : Coef
  b : Coef
  c : Coef
  d : Tensor
  init : Option Nat
  final : Nat
  out : Tensor
  which : ScanOut
  deriving DecidableEq, Repr

/-- A retrieval (R234): queries, one row each, K less one, sequence, start and count less one, the channel
each query reads, and where the results go, one row a query. -/
structure RetrieveOp where
  query : Tensor
  keep1 : Fin 64
  seq : Seq
  start : Fin 16777216
  count1 : Fin 16777216
  chans : List Nat
  out : Tensor
  deriving DecidableEq, Repr

/-- Where a move reads or writes (R238): a tray address, or host memory through a Crown die. -/
inductive MoveEnd where
  | mem (a : Nat)
  | host (c : Crown) (a : Nat)
  deriving DecidableEq, Repr

/-- A move (R238): source, destination, bytes of a row, rows less one, and the pitches. -/
structure MoveOp where
  src : MoveEnd
  dst : MoveEnd
  width : Nat
  rows1 : Fin 65536
  srcPitch : Nat
  dstPitch : Nat
  deriving DecidableEq, Repr

/-- What a descriptor does (R218). A matrix product takes the tile B with a row for each column of the product, and adds the
products of an element in the order the descriptor fixes (R214); a reduction likewise. -/
inductive Work where
  | nop
  | jump (pos : Nat)
  | yield
  | matrix (a b : Tensor) (c : Option Tensor) (dst : Tensor) (m n : Nat) (order : List Nat)
  | map (fn : MapFn) (srcs : List Tensor) (dst : Tensor) (rows cols : Nat)
  | reduce (fn : RedFn) (src dst : Tensor) (rows : Nat) (order : List Nat)
  | layout (turned : Bool) (src dst : Tensor) (rows cols : Nat)
  | gather (src : Tensor) (index : Nat) (dst : Tensor) (rows cols : Nat)
  | scatter (src : Tensor) (index : Nat) (dst : Tensor) (rows cols : Nat)
  | sparse (vals : Tensor) (index : Nat) (b dst : Tensor) (m n nnz : Nat)
  | scan (x : ScanOp)
  | retrieve (x : RetrieveOp)
  | move (x : MoveOp)
  | sync (o : SyncOp)
  deriving DecidableEq, Repr

/-- What the operation table of a silicon revision says of a descriptor; the calibre compiler owns it and the manual does not
list it (R219) (log entry 45, DESIGN CHOICE): whether the OP is defined, what the descriptor does, the scan engine or mover it
names (R233), and the positions it appends to a sequence (R231, R234). -/
structure OpInfo where
  defined : Bool
  work : Work
  unit : Fin 4
  appends : Option (Seq × Nat)
  deriving DecidableEq, Repr

/-- What an endpoint says of itself (R267, R268). -/
inductive Feature where
  | maxSpeed | maxWidth | functions | srIov | ats | pasid | maxPayload | maxReadRequest | tagBits | outstanding | aspm | l1Substates
  | d3hot | aer | ecrc | functionReset | timeoutRanges | timeoutDisable | msixVectors | msi | intx
  | barSize (n : Fin 3) | barPrefetchable (n : Fin 3)
  deriving DecidableEq, Repr

/-- A request of the host to a function's configuration space, or to BAR4 (R267, R268, R272): a read of what it offers; a read of
a word of BAR4; the Completion Timeout Value; MSI-X Enable and Function Mask; a vector's address, data and mask; a read of the
Device Serial Number; a read of another word. -/
inductive CfgReq where
  | feature (id : Nat) (k : Feature)
  | bar4 (id : Nat) (off : Nat)
  | completionTimeout (v : Fin 16)
  | msix (en mask : Bool)
  | vector (v : Fin 64) (addr data : Nat) (masked : Bool)
  | serialNumber (id : Nat)
  | read (id : Nat)
  deriving DecidableEq, Repr

/-- The addresses the configuration record gives an Ethernet port (R277); the manual does not say where in the record they
stand: MAC, IPv4, IPv6 global and link-local addresses, VLAN IDs, multicast groups. -/
structure PortAddr where
  crown : Crown
  port : Fin 4
  mac : Nat
  ip4 : Nat
  ip6 : Nat
  ip6ll : Nat
  vlans : List Nat
  groups : List Nat
  deriving DecidableEq, Repr

/-- What a private JTAG instruction asks for (R410, R411): a read of a management-space register or of a word of package
memory; a halt of a die's control cores, or its end; a write of a control core. -/
inductive PrivOp where
  | msRead (addr : BitVec 32)
  | memRead (pa : BitVec 48)
  | halt (d : Die) (on : Bool)
  | write (d : Die)
  deriving DecidableEq, Repr

/-- The body of an ARM_CONFIRM container (R429), but for its operation. -/
structure ArmMsg where
  setId : Nat
  die : Nat
  pkg : Nat
  turn : Nat
  cls : Nat
  ok : Bool
  reason : Nat
  hackLen : Nat
  tray : Bool
  deriving DecidableEq, Repr

/-- What the flash at CR0 reports of itself (R381): whether its SFDP table has its signature, and 8D-8D-8D mode; log₂ of its
capacity in bits, the highest clock in MHz of that mode, log₂ of its erase size in bytes. -/
structure FlashInfo where
  sfdp : Bool
  octal : Bool
  density : Nat
  mhz : Nat
  erase : Nat
  deriving DecidableEq, Repr

/-- A sideband slot as a link end receives it: its number in the frame; on an Ikiper link the 128-bit segment that the track lane
of each bundle carried; on a tray port what its nine physical lanes carried of the codewords that hold the field (R71, R181). -/
structure SbSlot where
  slot : Fin 32
  segs : List Nat
  deriving DecidableEq, Repr

/-- A calibre image as its loader reads it; the manual does not give the layout of an image's body. -/
structure Image where
  /-- HBM per Movement die in GiB, stacks per Movement die, and Crown dies it needs (R29). -/
  hbm : Nat
  stackNeed : Nat
  crowns : Nat
  /-- Dies and tray ports its schedule names (R29). -/
  names : List Die
  ports : List (Fin 8)
  contexts : List ImgCtx
  /-- Sequence ranges of fixed descriptors: positions up to the write head, sequence length, count (R231). -/
  ranges : List (Nat × Nat × Nat)
  records : List ImgRec
  /-- Hack window: first frame, `HACK_MAX` (R50). -/
  hackStart : Nat
  hackMax : Nat
  /-- Declared latency budgets, and tray routes: at a package, for a destination package, the outgoing port (R186, R192). -/
  budgets : List (Fin 8 × Nat)
  routes : List (Nat × Nat × Nat)
  /-- RESERVE_d in W by die code (R355). -/
  reserve : List Nat
  /-- PKG_IDs of a multi-package image; empty for a single-package image (R400). -/
  packages : List Nat
  /-- The fault granule of each Movement die (R450). -/
  faultAt : List (Mv × Nat)
  /-- Host-owned counters; barriers with their member count, paired counter and the value signalled (R237). -/
  hostCtrs : List (Mv × Nat)
  barriers : List (Mv × Nat × Nat × Nat × Nat)
  outputs : List ImgOut
  /-- Landing areas it reserves in the Crown buffers: offset and bytes (R325). -/
  landing : List (Crown × Nat × Nat)
  /-- ARM registers it sets, as MS offset and word. -/
  regs : List (Nat × Nat)
  deriving DecidableEq, Repr

/-- The commands (log entry 121, DESIGN CHOICE). -/
inductive Instr where
  /-- `POWER_ON_RESET` (R7). Power-on reset of a die's always-on domain brings registers to their Reset values and starts the AON power-on-reset monitor. -/
  | powerOnReset (c : Crown)
  /-- `MONITOR_GOOD` (R374). A monitor declares good once its input has stayed at or above the rising threshold for 1 ms; T0 follows when CR0's AON and bus monitors are both good. -/
  | monitorGood (m : Monitor) (mv : Nat) (variant : Fin 4) (pkg : Fin 16) (refSel : Bool) (pfLow : Bool)
  /-- `MONITOR_NOT_GOOD` (R374). A monitor declares not good when its input falls below the falling threshold. -/
  | monitorNotGood (m : Monitor) (mv : Nat)
  /-- `MONITOR_BAND_TIMEOUT` (R375). After a monitor input has stayed 500 ms inside its hysteresis band, the monitor latches RC 0x2001, sets BAND and asserts TRAY_ALERT#. -/
  | monitorBandTimeout (m : Monitor) (mv : Nat)
  /-- `REFERENCE_DETECT` (R379). CR0 detects the crystal or the PREF_IN clock and starts PREF. -/
  | referenceDetect
  /-- `REFERENCE_TIMEOUT` (R379). When no reference is detected within 20 ms (crystal) or 1 ms (PREF_IN), CR0 logs RC 0x2005 and halts. -/
  | referenceTimeout
  /-- `PLL_LOCK` (R34). A die's beat PLL locks, and its BEAT starts counting from zero. -/
  | pllLock (d : Die)
  /-- `PLL_LOCK_TIMEOUT` (R379). A beat PLL that has not locked within 3 ms logs RC 0x2006 and start-up halts. -/
  | pllLockTimeout (d : Die)
  /-- `FLASH_DISCOVER` (R381). CR0 reads the SFDP table, switches the flash to 8D-8D-8D mode, or logs RC 0x2002 and halts. -/
  | flashDiscover (f : Option FlashInfo)
  /-- `FLASH_PASS` (R383). The single ascending read pass of the configuration flash reads the record copies, the firmware bundle and the seeds. -/
  | flashPass (copyA : List Byte) (copyB : List Byte) (fw : List Byte) (seedBytes : List Byte) (cr1fw : List Byte) (cr1Seeds : List Byte) (ports : List PortAddr)
  /-- `FLASH_PASS_RESUME` (R383). Once MV0's HBM is trained, the flash pass resumes and reads the calibre image into the staging range. -/
  | flashPassResume (image : List Byte)
  /-- `DOMAIN_SWITCH_REQUEST` (R354). A write to PWR.DOM.ON requests domain switches, which are checked as one request and refused as a whole on any failure. -/
  | domainSwitchRequest (w : BitVec 16)
  /-- `DOMAIN_ON` (R353). A power domain reaches its on state, after which CR0 applies the record entries for it, enables its functions and switches the next domain. -/
  | domainOn (ok : Bool)
  /-- `PERST_DEASSERT` (R394). Deassertion of PERST# lets the Crown endpoint enter Detect within 20 ms. -/
  | perstDeassert (c : Crown) (width : Fin 8) (speed : Fin 8)
  /-- `HBM_TRAINING_DONE` (R395). An HBM training attempt ends; a stack that fails every attempt logs RC 0x2007 and halts start-up. -/
  | hbmTrainingDone (m : Mv) (stack : Fin 2) (ok : Bool)
  /-- `IMAGE_LOAD` (R399). The loader checks a calibre image in order, loads it or returns to WAIT_IMAGE with the failing check's code. -/
  | imageLoad (img : Image) (ldgOk : Bool)
  /-- `IMAGE_LOAD_HOST` (R398). Writing 1 to BOOT.IMG_CTL.LOAD starts a host image load from the staging PA, or is refused. -/
  | imageLoadHost
  /-- `IMAGE_UNLOAD` (R403). Writing 1 to BOOT.IMG_CTL.UNLOAD in RUN schedules the stop of the schedule 8 turns later, or is refused with RC 0x1003. -/
  | imageUnload
  /-- `IMAGE_STOP` (R403). At the turn boundary named by an unload, the schedule stops, the image functions' enables clear and the package returns to WAIT_IMAGE. -/
  | imageStop
  /-- `LOAD_REPORT` (R401). The master receives a package's passed checks and image hash and names the activation turn of a multi-package image. -/
  | loadReport (pkg : Fin 16) (hash : BitVec 384)
  /-- `IMAGE_ACTIVATE` (R402). At the activation turn, the image functions are enabled and the schedule starts. -/
  | imageActivate
  /-- `RESTART` (R407). Writing 1 to BOOT.CTL.RESTART in HALTED restarts start-up at step 3, or is refused with RC 0x1007. -/
  | restart
  /-- `ROLLBACK_COMMIT` (R388). Writing SEC.RB_COMMIT GO requests a raise of a rollback counter, which is checked and starts blowing fuses or is refused. -/
  | rollbackCommit (w : Word)
  /-- `ROLLBACK_COMMIT_DONE` (R388). The fuse blow of a rollback commit completes within 50 ms and BUSY clears. -/
  | rollbackCommitDone
  /-- `FLASH_READ` (R408). Flash-port command 1 reads 256 B into FL_DATA. -/
  | flashRead
  /-- `FLASH_PROGRAM` (R408). Flash-port command 2 programs one aligned 256 B page, with a write enable sent first. -/
  | flashProgram
  /-- `FLASH_ERASE` (R408). Flash-port command 3 erases one aligned sector of the smallest erase size of at least 4 KiB. -/
  | flashErase
  /-- `FLASH_STATUS` (R408). Flash-port command 4 reads the flash status. -/
  | flashStatus
  /-- `FLASH_COMMAND_DONE` (R408). The flash completes a port command, and BUSY clears, with ERR set on a flash error. -/
  | flashCommandDone (err : Bool) (data : List Byte)
  /-- `DEBUG_TOKEN_SUBMIT` (R412). A debug token submitted through DBG_GO or the UNLOCK data register is verified, and its scope is unlocked or RC 0xA003 is logged. -/
  | debugTokenSubmit
  /-- `JTAG_UNLOCK` (R411). The UNLOCK instruction delivers a debug token through the TAP. -/
  | jtagUnlock (token : List Byte)
  /-- `DEBUG_LOCK` (R412). Writing 1 to SEC.DBG.LOCK clears the unlocked scope. -/
  | debugLock
  /-- `DEBUG_LIFETIME_EXPIRY` (R412). SCOPE clears when DBG_LEFT reaches zero at a turn boundary. -/
  | debugLifetimeExpiry
  /-- `BYPASS` (R410). The JTAG BYPASS instruction. -/
  | bypass (tdi : List Bool)
  /-- `IDCODE` (R410). The JTAG IDCODE instruction returns the revision, part number and manufacturer identity. -/
  | idcode (tdi : List Bool)
  /-- `SAMPLE_PRELOAD` (R410). The JTAG SAMPLE/PRELOAD instruction. -/
  | samplePreload (tdi : List Bool)
  /-- `EXTEST` (R410). The JTAG EXTEST instruction, which acts as BYPASS from step 6 unless scope bit 0 is set. -/
  | extest (tdi : List Bool)
  /-- `CLAMP` (R410). The JTAG CLAMP instruction, gated like EXTEST. -/
  | clamp (tdi : List Bool)
  /-- `HIGHZ` (R410). The JTAG HIGHZ instruction, gated like EXTEST. -/
  | highz (tdi : List Bool)
  /-- `MS_BAD_ACCESS` (R14). An MS access that is not a naturally aligned 32-bit access is discarded or reads all ones, and is counted. -/
  | msBadAccess (c : Crown) (rd : Bool)
  /-- `REGISTER_WRITE` (R8). A write to a register with no row of its own acts according to its access code (RW, W1C, ARM, LCK and so on). -/
  | registerWrite (c : Crown) (a : Word) (w : Word) (ok : Bool)
  /-- `BEAT_LO_READ` (R37). A read of BAL.BEAT_LO returns the low word of BEAT and latches the upper word for BEAT_HI on that path. -/
  | beatLoRead (p : Path) (d : Die)
  /-- `FUNCTION_ENABLE` (R418). Setting a function's CTL.ENABLE runs its ordered consistency check and enables the function or refuses. -/
  | functionEnable (d : Die) (fn : Fn) (inst : Fin 4) (ok : Bool)
  /-- `FUNCTION_DISABLE` (R421). Clearing CTL.ENABLE takes effect at once, except that image functions refuse it with RC 0x1007 while an image is loaded. -/
  | functionDisable (d : Die) (fn : Fn) (inst : Fin 4)
  /-- `BEAT_LOAD_SEND` (R38). CR0 sends a BEAT_LOAD on the sideband to a die whose link has passed PIN, carrying its BEAT plus the path latency. -/
  | beatLoadSend (d : Die)
  /-- `BEAT_LOAD` (R36). A die whose BEAT_VALID is clear applies a received BEAT load, records LOAD_DELTA and sets BEAT_VALID. -/
  | beatLoad (e : LinkEnd) (r : SbSlot)
  /-- `BEAT_SYNC_ATTEMPT` (R39). The master sends a BEAT_SYNC_REQ stamped with its BEAT to a follower, once per frame during synchronisation and once per turn in service. -/
  | beatSyncAttempt (n : Fin 8)
  /-- `BEAT_SYNC_REQ` (R39). A follower receives a beat-sync request and answers with a BEAT_SYNC_RESP that carries its hold time. -/
  | beatSyncReq (n : Fin 8) (r : SbSlot)
  /-- `BEAT_SYNC_RESP` (R39). The master receives a response, computes the one-way latency and sends a BEAT_LOAD, or in service measures the phase error. -/
  | beatSyncResp (n : Fin 8) (r : SbSlot) (stamp : Fin 32) (err : Int)
  /-- `BEAT_SYNC_TIMEOUT` (R40). A beat-sync attempt without a response within 8 µs fails, and after 64 failures the port is handled as a training failure. -/
  | beatSyncTimeout (n : Fin 8)
  /-- `SYNC_PORT_LOSS` (R44). When its active sync port leaves LIVE, a follower freezes its reference PLL frequency control and switches to the next sync port. -/
  | syncPortLoss
  /-- `SYNC_HOLDOVER_EXPIRY` (R44). With no sync port remaining for one turn, the follower sets SYNC_LOST and stops SC on its tray ports. -/
  | syncHoldoverExpiry
  /-- `SERVO_MAP_UPDATE` (R46). At a turn boundary, the servo updates ANCHOR_BEAT, ANCHOR_TAI and RATE, slewing RATE or stepping ANCHOR_TAI. -/
  | servoMapUpdate
  /-- `TAI_MAP_SEND` (R47). The master sends TAI_MAP_0 and TAI_MAP_1 on tray sideband during each turn. -/
  | taiMapSend (e : LinkEnd)
  /-- `TAI_MAP_APPLY` (R148). At a turn boundary, a die applies a TAI map held with matching EPOCH, together with its TAI_VALID and HOLDOVER. -/
  | taiMapApply (d : Die)
  /-- `HACK_START` (R49). At the first frame of a hack, every die in scope stops transmitting on D lanes and freezes UC timers. -/
  | hackStart
  /-- `HACK_END` (R49). After N frames of a hack, every die in scope resumes transmitting together. -/
  | hackEnd
  /-- `CDC_STALE` (R54). When a crossing has accepted no value for 128 beats while its source changed, the destination holds the value, sets CDC_STALE and records the crossing. -/
  | cdcStale (d : Die) (kind : Fin 5) (blk : Nat) (inst : Nat)
  /-- `CDC_STALE_TURN_EXPIRY` (R54). A crossing still stale after one turn applies its consequence: retrain, throttle with RC 0x8003, or floor budget with RC 0x8002. -/
  | cdcStaleTurnExpiry (d : Die) (accepted : List (Fin 5 × Nat × Nat))
  /-- `PTR_REQ` (R55). The partner receives a pointer request and answers at its next frame boundary with PTR_RESP naming frame N. -/
  | ptrReq (e : LinkEnd) (r : SbSlot)
  /-- `PTR_RESP` (R55). The side that left reset receives the answer naming frame N. -/
  | ptrResp (e : LinkEnd) (r : SbSlot)
  /-- `POINTER_SET` (R55). Both sides set the latency-pin buffer read pointer at the boundary of frame N. -/
  | pointerSet (e : LinkEnd)
  /-- `PTR_HANDSHAKE_TIMEOUT` (R56). A pointer handshake not complete within one turn logs RC 0x3009 and returns the link to RESET. -/
  | ptrHandshakeTimeout (e : LinkEnd)
  /-- `FP_RESET_REQ` (R57). CR0, or a relaying die, receives an FP_RESET_REQ and asserts that FP link's joint reset line. -/
  | fpResetReq (e : LinkEnd) (r : SbSlot)
  /-- `FP_JOINT_RESET_RELEASE` (R57). After at least two frames, CR0 releases an FP link's joint reset at a frame boundary, so that both ends leave reset together. -/
  | fpJointResetRelease (f : Fin 4)
  /-- `RESET_RETRY` (R149). A link end in RESET moves to CALIB when its reset is released and its retry conditions are met. -/
  | resetRetry (e : LinkEnd)
  /-- `TRAINING_TIMEOUT` (R149). The time limit of a training state expires, and the link returns to RESET or LISTEN with its reason code. -/
  | trainingTimeout (e : LinkEnd)
  /-- `SEARCH_POINT_END` (R92). The dwell of one tap-search point ends, and the point passes or fails before the next setting is applied. -/
  | searchPointEnd (e : LinkEnd) (b : Fin 16) (bits : List (List Bool)) (eyes : List Nat) (taps : List Nat) (snr : List Nat)
  /-- `CK_COUNT_CHECK` (R82). At the end of each frame, each receiver checks the CK cycle count of every bundle against its range. -/
  | ckCountCheck (e : LinkEnd) (counts : List Nat)
  /-- `LANETEST_END` (R96). An end's lane test completes, and it stops counting and sets DONE in its markers. -/
  | lanetestEnd (e : LinkEnd) (bits : List (List (List Bool)))
  /-- `LANETEST_EXIT` (R96). At a frame boundary with its own test complete and DONE received, an end computes its lane map and enters DESKEW. -/
  | lanetestExit (e : LinkEnd)
  /-- `LANEMAP` (R98). The transmitter receives a lane-map message and acknowledges it. -/
  | lanemap (e : LinkEnd) (r : SbSlot)
  /-- `LANEMAP_APPLY` (R98). Both ends apply a lane map at the first frame boundary after the acknowledgement arrives. -/
  | lanemapApply (e : LinkEnd)
  /-- `FRAME_MARKER` (R72). A receiver takes a frame marker and updates marker lock or loss, the SYNC/LIVE latency check, and the HACK, CAL, RETIRE and DONE flags. -/
  | frameMarker (e : LinkEnd) (unit : Fin 16) (seg : Nat)
  /-- `SIDEBAND_CONTAINER` (R73). A receiver takes a sideband slot from its lead bundle and delivers the container to the link layer, or drops it and counts it. -/
  | sidebandContainer (e : LinkEnd) (r : SbSlot)
  /-- `SIDEBAND_SLOT_TRANSMIT` (R145). In each sideband slot, the sender transmits the flow message or the highest-priority pending queued message, or NOP. -/
  | sidebandSlotTransmit (e : LinkEnd)
  /-- `SB_ACK` (R146). The sender receives an SB_ACK and stops repeating the acknowledged message. -/
  | sbAck (e : LinkEnd) (r : SbSlot)
  /-- `SB_MESSAGE_REPEAT` (R146). An unacknowledged message is repeated once per frame. -/
  | sbMessageRepeat (e : LinkEnd)
  /-- `SB_ACK_TIMEOUT` (R146). No SB_ACK has come one turn after the first copy was sent, so the sender logs RC 0x3009 and retrains the link. -/
  | sbAckTimeout (e : LinkEnd)
  /-- `BUNDLE_RETIRE` (R83). The transmitting end receives a bundle-retire notice and sends RETIRE in its next marker. -/
  | bundleRetire (e : LinkEnd) (r : SbSlot)
  /-- `BUNDLE_TX_STOP` (R83). At the first frame boundary after the notice, the transmitter stops transmitting on the bundle, which becomes RETIRED at both ends. -/
  | bundleTxStop (e : LinkEnd) (b : Fin 16)
  /-- `PIN_PROBE` (R124). The far end receives a PIN_PROBE and answers with a PIN_ECHO carrying HOLD. -/
  | pinProbe (e : LinkEnd) (r : SbSlot)
  /-- `PIN_ECHO` (R124). The prober receives a PIN_ECHO and sets each bundle's arrival offset and buffer depth, or fails with RC 0x3004. -/
  | pinEcho (e : LinkEnd) (r : SbSlot) (arrivals : List Nat)
  /-- `FLIT_RECEIVE` (R122). A flit is decoded and delivered or discarded exactly L beats after its slot begins, with SC landing, UC acceptance and error counting. -/
  | flitReceive (e : LinkEnd) (b : Fin 16) (lanes : List Nat)
  /-- `LANE_NO_TRANSITION` (R106). A lane that shows no transition for 256 UI is declared failed. -/
  | laneNoTransition (e : LinkEnd) (b : Fin 16) (lane : Fin 21) (ui : Nat)
  /-- `ERR_WINDOW_ROLL` (R105). At a turn that is a multiple of WINDOW, each lane's error window count restarts. -/
  | errWindowRoll (e : LinkEnd)
  /-- `LANE_REPAIR` (R109). The transmitter receives a lane-repair message and acknowledges it. -/
  | laneRepair (e : LinkEnd) (r : SbSlot)
  /-- `JEWEL_STREAM_START` (R109). At the frame boundary after its first acknowledgement, the transmitter sends the failed lane's stream on the jewel as well. -/
  | jewelStreamStart (e : LinkEnd) (b : Fin 16)
  /-- `LANE_REPAIR_TAKEOVER` (R109). At turn E, the receiver switches to the jewel if the acknowledgement arrived a frame earlier, and otherwise moves E and resends. -/
  | laneRepairTakeover (e : LinkEnd) (b : Fin 16)
  /-- `LANE_REPAIR_TX_CUTOVER` (R109). At the turn E it has acknowledged, the transmitter drives the failed lane low. -/
  | laneRepairTxCutover (e : LinkEnd) (b : Fin 16)
  /-- `JEWEL_RECENTRE` (R111). Each turn, an unassigned jewel receiver re-centres its delay and threshold by at most one step. -/
  | jewelRecentre (e : LinkEnd) (b : Fin 16) (jewel : Fin 2) (delay : Fin 3) (thresh : Fin 3) (bits : List Bool)
  /-- `RECAL_GO` (R113). Writing RECAL.GO arms a run-time recalibration or refuses it. -/
  | recalGo (e : LinkEnd)
  /-- `RECAL_ARM` (R113). A die receives a RECAL_ARM message and confirms the arm. -/
  | recalArm (e : LinkEnd) (r : SbSlot)
  /-- `RECAL_ARM_DEADLINE` (R113). Eight turns before T, a recalibration is aborted with RC 0x1006 if some die has not confirmed. -/
  | recalArmDeadline (e : LinkEnd)
  /-- `RECAL_START` (R114). At turn T, the bundle goes out of service, joins the loss set and begins its seed check. -/
  | recalStart (e : LinkEnd)
  /-- `RECAL_LANETEST_START` (R114). At frame 376 of turn T, the recalibrating bundle begins its lane test. -/
  | recalLanetestStart (e : LinkEnd)
  /-- `RECAL_RETURN_MISSION` (R114). At frame 768 of T + 1, every lane is checked at depth and the bundle returns to mission data. -/
  | recalReturnMission (e : LinkEnd) (near : List (List Bool)) (far : List (List Bool))
  /-- `RECAL_END` (R114). At T + 2, the bundle is back in service and leaves the loss set, or failed lanes are repaired or the bundle is retired. -/
  | recalEnd (e : LinkEnd) (near : BitVec 21) (far : BitVec 21)
  /-- `SC_NAK` (R130). The transmitter receives an SC_NAK and schedules one re-send in a REPAIR slot. -/
  | scNak (e : LinkEnd) (r : SbSlot)
  /-- `SLOT_TRANSMIT` (R167). In each slot, the transmitter sends an SC flit, a re-send, a notice, a replay or a new UC flit under the arbiter, or NULL. -/
  | slotTransmit (e : LinkEnd) (b : Fin 16)
  /-- `SC_HOLD_EXPIRY` (R129). An SC flit leaves the holding store when its retention ends. -/
  | scHoldExpiry (e : LinkEnd)
  /-- `SC_RESEND_DEADLINE` (R132). No good re-send by the deadline makes an SC delivery failure: the granule is poisoned, RC 0x4004 is logged and a context fault is raised. -/
  | scResendDeadline (e : LinkEnd)
  /-- `SC_LOST_BUNDLE_REPORT` (R133). Each frame until the fallback takes effect, transfers scheduled on a lost bundle are reported as SC delivery failures. -/
  | scLostBundleReport (e : LinkEnd)
  /-- `UC_ACK` (R138). The transmitter receives a UC_ACK, frees acknowledged flits and replays on a NAK. -/
  | ucAck (e : LinkEnd) (r : SbSlot)
  /-- `CREDIT` (R135). The transmitter receives a CREDIT container and updates its available credit. -/
  | credit (e : LinkEnd) (r : SbSlot)
  /-- `UC_REPLAY_TIMEOUT` (R139). A UC flit still unacknowledged 3,200 beats after its slot starts a replay from the oldest unacknowledged flit. -/
  | ucReplayTimeout (e : LinkEnd) (b : Fin 16)
  /-- `UC_REQUEUE` (R142). Once replay buffers have drained after a change of the bundle set, the transmitter resends the leaving bundles' flits and resumes UC. -/
  | ucRequeue (e : LinkEnd)
  /-- `VARIANT_SELECT` (R162). At each turn boundary, every die joins due losses and selects the Ikiper variant, or applies NOFIT with RC 0x4002. -/
  | variantSelect (d : Die)
  /-- `LOSS_NOTICE` (R164). A die receives a loss notice, forwards it once, discards duplicates and marks it late where due. -/
  | lossNotice (e : LinkEnd) (payload : List Byte)
  /-- `GTR_TABLE_WRITE` (R160). A write to word 3 of GTR.TBL_DATA stores the selected record in the shadow bank, or is ignored and counted for the active bank. -/
  | gtrTableWrite (d : Die) (w : Word)
  /-- `GTR_TABLE_READ` (R154). A read of word 0 of GTR.TBL_DATA loads all four words of the selected record. -/
  | gtrTableRead (p : Path) (d : Die)
  /-- `BEACON_BURST` (R200). Every 10 ms in LISTEN, a tray port sends a 1 ms beacon burst. -/
  | beaconBurst (n : Fin 8)
  /-- `BEACON_BLOCK` (R201). A tray port receives a beacon block and checks its identity, logs RC 0xB004 on a mismatch, or moves to SEEK or CALIB. -/
  | beaconBlock (n : Fin 8) (block : BitVec 256) (locked : Bool)
  /-- `NO_PARTNER_SIGNAL` (R202). No partner signal for 100 ms in LISTEN logs RC 0xB001 once per episode. -/
  | noPartnerSignal (n : Fin 8)
  /-- `SEEK_TIMEOUT` (R202). After 50 ms in SEEK, the port returns to LISTEN with RC 0xB002 and doubles its back-off. -/
  | seekTimeout (n : Fin 8)
  /-- `PARTNER_SIGNAL_LOST` (R202). Partner signal lost on every lane for 1 ms during training returns the port to LISTEN with RC 0xB002. -/
  | partnerSignalLost (n : Fin 8)
  /-- `TRAY_LOSS_NOTICE` (R206). A package receives a tray-loss notice and floods it once on its other LIVE ports and to its dies. -/
  | trayLossNotice (e : LinkEnd) (payload : List Byte)
  /-- `START_WINDOW_END` (R203). At the end of the start window, ports without a LIVE peer log RC 0xB003 and set TRY.MISSING. -/
  | startWindowEnd (c : Crown)
  /-- `TRAY_VARIANT_SELECT` (R208). At each turn boundary, each Crown die joins due cable losses and selects the tray variant, or applies R209. -/
  | trayVariantSelect (c : Crown)
  /-- `TRY_TABLE_WRITE` (R212). A write to the last word of TRY.TBL_DATA stores the selected tray schedule record. -/
  | tryTableWrite (c : Crown) (w : Word)
  /-- `TRY_TABLE_READ` (R212). A read of word 0 of TRY.TBL_DATA loads the selected tray schedule record. -/
  | tryTableRead (p : Path) (c : Crown)
  /-- `RUN_SELECT` (R224). At each frame boundary, each engine selects the first active run-table entry, or the next on-demand context for an OPEN run. -/
  | runSelect (m : Mv) (e : Fin 16)
  /-- `DESCRIPTOR_START` (R220). An engine starts a descriptor once fence, wait, token and run time allow, or defers it, or faults it. -/
  | descriptorStart (m : Mv) (e : Fin 16) (i : OpInfo)
  /-- `DESCRIPTOR_COMPLETE` (R221). A descriptor completes: its signal is added, its checkpoint recorded, its tokens returned, and LAST makes an on-demand context idle. -/
  | descriptorComplete (m : Mv) (u : Fin 22)
  /-- `DESCRIPTOR_BOUND_EXPIRY` (R222). A descriptor that has not completed by its BOUND faults with detail 0x04 or 0x05. -/
  | descriptorBoundExpiry (m : Mv) (u : Fin 22)
  /-- `DOORBELL_RING` (R227). Writing ENG.DOORBELL RING starts an on-demand context's streams from their heads, or is ignored and counted. -/
  | doorbellRing (m : Mv) (w : Word)
  /-- `COUNTER_SIGNAL` (R235). A signal adds its value to a click counter, modulo 2³². -/
  | counterSignal (m : Mv) (n : Fin 4096) (value : Word)
  /-- `SYN_CTR_WRITE` (R235). A host write to SYN.CTR adds the value to a host-owned counter, or is ignored and counted. -/
  | synCtrWrite (m : Mv) (n : Fin 4096) (w : Word)
  /-- `BARRIER_ARRIVAL` (R237). An arrival reaches a barrier after its fence, and the M-th arrival toggles the generation and signals the paired counter. -/
  | barrierArrival (m : Mv) (ctx : Fin 32)
  /-- `LOCKSTEP_MISMATCH` (R239). The die controller's cores disagree, so the controller stops and the die's heartbeat ceases. -/
  | lockstepMismatch (m : Mv)
  /-- `WRITE` (R257). A destination receives a WRITE message and writes or merges its granules, or fails it with a cause and sends PW_FAIL. -/
  | write (d : Die) (cmd : List Byte) (data : List (List Byte)) (bad : List Nat) (dead : List Nat)
  /-- `SIGNAL` (R254). A destination receives a SIGNAL message and signals the counter, or fails it. -/
  | signal (m : Mv) (cmd : List Byte)
  /-- `READ` (R252). A destination receives a READ message and answers with READ_DATA, poison marked. -/
  | read (d : Die) (cmd : List Byte) (bad : List Nat) (corr : Nat)
  /-- `READ_DATA` (R252). The originator receives READ_DATA, and poisoned data raises a context fault at an engine. -/
  | readData (d : Die) (cmd : List Byte) (data : List (List Byte))
  /-- `FENCE_PROBE` (R260). A destination receives a FENCE_PROBE and answers at once with FENCE_RESP carrying its counts. -/
  | fenceProbe (d : Die) (cmd : List Byte)
  /-- `FENCE_RESP` (R260). The fencing engine receives a FENCE_RESP, and the fence completes and writes its result when every destination has accepted all. -/
  | fenceResp (d : Die) (cmd : List Byte)
  /-- `FENCE_PROBE_RETRY` (R260). Every 64 beats, a fence re-probes each destination whose accepted count still differs. -/
  | fenceProbeRetry (d : Die) (ctx : Fin 33)
  /-- `PW_FAIL` (R258). The origin receives a PW_FAIL notice and records or folds its details. -/
  | pwFail (d : Die) (cmd : List Byte) (full : Bool)
  /-- `SCRUB_PASS` (R251). The memory controller scrubs the granules of HBM each SCRUB_H hours and of the scratchpad each hour. -/
  | scrubPass (m : Mv) (hbm : Bool) (bad : List Nat) (corr : Nat)
  /-- `BAR2_WRITE` (R263). A host write through BAR2 is posted to package memory, or dropped with RC 0x5004. -/
  | bar2Write (c : Crown) (x : Nat) (bytes : List Byte)
  /-- `BAR2_READ` (R263). A host read through BAR2 runs a fence and then completes, or answers UR or a poisoned completion. -/
  | bar2Read (c : Crown) (id : Nat) (x : Nat) (len : Nat)
  /-- `BAR2_READ_ABORT` (R270). A BAR2 read not answered within RD_LIMIT returns Completer Abort and is counted. -/
  | bar2ReadAbort (c : Crown) (id : Nat)
  /-- `FUNCTION_LEVEL_RESET` (R274). FLR, hot reset or link-down resets a Crown function's configuration, MSI-X table, apertures and rings. -/
  | functionLevelReset (c : Crown) (kind : Fin 3)
  /-- `HOST_READ_COMPLETION` (R273). A move's host read gets UR, CA or EP, so its destination is poisoned, RC 0x5003 logged and a context fault raised. -/
  | hostReadCompletion (c : Crown) (id : Nat) (status : Fin 3) (bytes : List Byte)
  /-- `HOST_READ_TIMEOUT` (R273). A move's host read times out under the requester completion timeout and is handled as a failed read. -/
  | hostReadTimeout (c : Crown) (id : Nat)
  /-- `MSIX_MESSAGE` (R275). A vector whose cause bit is set sends one message once its function, MSI-X and the vector are enabled and unmasked. -/
  | msixMessage (c : Crown) (v : Fin 64)
  /-- `ETH_FRAME_RECEIVE` (R278). A received Ethernet frame is checked, answered (ARP, ND), passed to PTP, or accepted as a measurement frame, stamped and converted. -/
  | ethFrameReceive (c : Crown) (p : Fin 4) (frame : List Byte)
  /-- `PTP_SYNC_TIMEOUT` (R283). No Sync within three Announce intervals clears TAI_VALID and starts holdover. -/
  | ptpSyncTimeout
  /-- `LEAP_SECOND` (R284). At the end of a UTC day announced with leap61 or leap59, the UTC offset changes by one. -/
  | leapSecond
  /-- `OUTPUT_GUARD_START` (R294). 1,184 beats before a result frame's output beat, the port stops starting other frames. -/
  | outputGuardStart (i : Nat)
  /-- `RESULT_OUTPUT` (R295). At a result's output beat, the frame leaves stamped with TOUT, or the ring record is written with HEAD and vector, or dropped and counted. -/
  | resultOutput (i : Nat)
  /-- `ETH_TABLE_READ` (R507). A read of word 0 of ETH.TBL_DATA loads the selected stream-table entry or header-store chunk. -/
  | ethTableRead (p : Path) (c : Crown)
  /-- `SNAPSHOT_LIMIT_CLOSE` (R307). At D_k + 256, an open snapshot closes with cause LIMIT. -/
  | snapshotLimitClose (c : Crown) (g : Fin 16)
  /-- `SNAPSHOT_SELECT` (R309). At beat S, a group selects the newest closed snapshot, counts skips or a REPEAT, and starts correction. -/
  | snapshotSelect (c : Crown) (g : Fin 16)
  /-- `SNAPSHOT_RELEASE` (R311). At RB, the corrected snapshot and its header are complete in the release area, with RC 0x6001 when streams are missing. -/
  | snapshotRelease (c : Crown) (g : Fin 16)
  /-- `RESIDUAL_BATCH_START` (R315). At the frame boundary after residuals land, a calibration batch starts, or is discarded as stale. -/
  | residualBatchStart (c : Crown) (g : Fin 16)
  /-- `CALIB_BATCH_APPLY` (R318). At the frame boundary after a batch ends, its coefficient updates take effect together, with clamping and freezing (RC 0x6002). -/
  | calibBatchApply (c : Crown) (g : Fin 16)
  /-- `MODE_SET_PROCESS` (R319). At the frame boundary after a candidate set lands, the tracker predicts, runs the auction, updates tracks and opens new ones. -/
  | modeSetProcess (c : Crown)
  /-- `TRACK_TABLE_PUBLISH` (R324). At its frame boundary, the tracker publishes the track table into the other half, which becomes current. -/
  | trackTablePublish (c : Crown)
  /-- `FUS_TABLE_WRITE` (R318). A write to the last word of the fusion table port stores the record as ARM. -/
  | fusTableWrite (c : Crown) (w : Word)
  /-- `FUS_TABLE_READ` (R303). A read of word 0 of the fusion table port loads the selected record. -/
  | fusTableRead (p : Path) (c : Crown)
  /-- `TARIFF_CHANGE_EFFECT` (R330). At the first beat at or after its time, a pending change copies SOURCE into TARGET and clears VALID. -/
  | tariffChangeEffect
  /-- `INTERVAL_CLOSE` (R332). At an interval's boundary beat, the ledger closes the interval, values its accounts and starts the commit. -/
  | intervalClose
  /-- `SETPOINT_SET_PROCESS` (R334). At the frame boundary after a setpoint set lands, the ledger processes it, discarding it while waiting or counting it late. -/
  | setpointSetProcess
  /-- `SETPOINT_SET_EFFECTIVE` (R336). At a set's EFF_BEAT, its values become the accounts' power. -/
  | setpointSetEffective
  /-- `LEDGER_OPEN` (R337). When TAI_VALID has been set since the start, the ledger opens the interval in progress, marked PARTIAL_START. -/
  | ledgerOpen
  /-- `INTERVAL_COMMIT` (R340). Within 64 frames of a close, the ledger writes the block records and then the control record to FRAM, with read-back. -/
  | intervalCommit (bad : List (Nat × List Byte))
  /-- `INTERVAL_COMMIT_DONE` (R340). A commit completes when its control record is whole. -/
  | intervalCommitDone (bad : Option (List Byte))
  /-- `TABLE_IMAGE_WRITE` (R343). After a commit that changes ledger tables, or a pending-change effect, and any interval commit in progress, the table image is written. -/
  | tableImageWrite (bad : List (Nat × List Byte))
  /-- `LEDGER_OUTPUT_COPY` (R347). Within 64 frames of a commit, the committed records are copied into the output area. -/
  | ledgerOutputCopy
  /-- `LDG_TABLE_WRITE` (R331). A write to the last word of the ledger table port stores a record as ARM. -/
  | ldgTableWrite (w : Word)
  /-- `LDG_TABLE_READ` (R339). A read of word 0 of the ledger table port loads a record of spaces 0 to 3. -/
  | ldgTableRead (p : Path)
  /-- `LDG_FRAM_READ_START` (R339). A write to LDG INDEX in spaces 4 to 7 starts a FRAM read of that record and sets BUSY. -/
  | ldgFramReadStart (w : Word)
  /-- `LDG_FRAM_READ_DONE` (R339). The FRAM read completes, BUSY clears and the record becomes readable. -/
  | ldgFramReadDone
  /-- `BUDGET_WRITE` (R355). A write to PWR.BUDGET is checked and takes effect at the next allocation, or is refused. -/
  | budgetWrite (w : Word)
  /-- `BUDGET_REPORT` (R358). In frames 0 to 448 of each turn, every die sends a BUDGET report to CR0. -/
  | budgetReport (d : Die) (meas : Nat)
  /-- `GRANT_ALLOCATION` (R359). At frame 512, CR0 computes the next turn's grants and starts sending them. -/
  | grantAllocation
  /-- `BUDGET_GRANT` (R360). A die receives a BUDGET grant for the next turn. -/
  | budgetGrant (e : LinkEnd) (r : SbSlot)
  /-- `ALLOWANCE_TAKE` (R360). At each turn boundary, a die takes its last grant as its allowance, or its floor with RC 0x8002. -/
  | allowanceTake (d : Die)
  /-- `TOKEN_GRANT` (R362). The admission governor grants the request at the head of its queue when it fits the allowance. -/
  | tokenGrant (d : Die)
  /-- `ADMISSION_WAIT_TIMEOUT` (R363). A request not granted within WAIT_LIMIT frames is withdrawn, with RC 0x8001. -/
  | admissionWaitTimeout (d : Die)
  /-- `THERMAL_SAMPLE` (R365). Once per frame, a die samples Tj and its HBM temperatures and enters or leaves throttling. -/
  | thermalSample (d : Die) (tj : Int) (h0 : Int) (h1 : Int)
  /-- `THERMAL_SHUTDOWN` (R367). Within a frame of a trip notice, CR0 switches off every other domain, the ledger closes, and then CRF switches off. -/
  | thermalShutdown
  /-- `POWER_FAIL` (R368). At P, when PWR_FAIL# has been low 1,600 beats or BUS_SENSE falls, CR0 logs RC 0x8005 and every die stops issuing. -/
  | powerFail (cause : Fin 4)
  /-- `POWER_FAIL_DOMAINS_OFF` (R368). At the first frame boundary after P, CR0 switches off every switched domain except its CRF. -/
  | powerFailDomainsOff
  /-- `LEDGER_HALTED_CRF_OFF` (R368). When the ledger reaches HALTED after a power fail, CR0 switches off its CRF. -/
  | ledgerHaltedCrfOff
  /-- `POWER_RETURN` (R370). After 100 ms of good power while in the power-fail state, CR0 asserts PWRCYC_REQ# and logs RC 0x9005. -/
  | powerReturn
  /-- `RAIL_SAMPLE` (R497). Once per frame, each rail voltage is sampled into PWR.RAIL and LOW or HIGH is set. -/
  | railSample (mv : List Nat)
  /-- `ARM_GO` (R426). Writing CFG.ARM GO runs the arm checks and sends ARM to the dies of the scope, or refuses. -/
  | armGo (w : Word)
  /-- `ARM_DISCARD` (R428). Writing CFG.ARM.DISCARD resets the shadow copies, or aborts an armed set with RC 0x1006. -/
  | armDiscard (w : Word)
  /-- `ARM` (R430). A die receives an ARM, freezes its shadow part, checks it and returns a CONFIRM within two turns. -/
  | arm (e : LinkEnd) (r : SbSlot)
  /-- `CONFIRM` (R431). CR0 or the master receives a CONFIRM and records it. -/
  | confirm (e : LinkEnd) (r : SbSlot)
  /-- `PACKAGE_CONFIRM` (R431). At the boundary of T − 9, each package's CR0 sends one combined CONFIRM to the master. -/
  | packageConfirm
  /-- `ARM_DECISION` (R431). At the boundary of T − 8, CR0 or the master sends COMMIT or ABORT. -/
  | armDecision
  /-- `COMMIT` (R434). A die receives COMMIT, records the committed set and forwards it. -/
  | commit (e : LinkEnd) (r : SbSlot)
  /-- `ABORT` (R432). A die receives ABORT and keeps its values; CR0 logs RC 0x1006, sets STATE 3 and raises vector 1. -/
  | abort (e : LinkEnd) (r : SbSlot)
  /-- `CHANGE_SET_APPLY` (R435). At turn T, the dies apply class A members, switch bank, start the hack for class B members, or apply nothing and raise DISAGREE. -/
  | changeSetApply
  /-- `HEARTBEAT_SEND` (R447). In frame 256 of every turn, each Movement die controller sends a heartbeat to CR0. -/
  | heartbeatSend (m : Mv)
  /-- `HEARTBEAT_CHECK` (R447). At the end of each turn, CR0 counts a missed heartbeat for a die, and partition level starts after eight misses. -/
  | heartbeatCheck (m : Mv)
  /-- `HEARTBEAT_STATE_SEND` (R450). In frame 512, CR0 sends each die a state heartbeat with the combined FAULTED mask. -/
  | heartbeatStateSend (m : Mv)
  /-- `FAULT_GRANULE_WRITE` (R450). At every frame boundary, each die controller writes the fault granule. -/
  | faultGranuleWrite (m : Mv)
  /-- `WATCHDOG_KICK` (R448). Every 10 ms, a regulator controller restarts its AON watchdog. -/
  | watchdogKick (c : Crown)
  /-- `WATCHDOG_EXPIRY` (R448). After eight missed restarts, the watchdog leads CR0 to request a power cycle. -/
  | watchdogExpiry (c : Crown)
  /-- `CONTEXT_RELEASE` (R449). Writing RCV.CTX_RELEASE releases held contexts. -/
  | contextRelease (w : Word)
  /-- `ENGINE_HANG_DETECT` (R443). An engine or shared unit still busy 4,096 beats after an abort starts engine or partition level. -/
  | engineHangDetect (m : Mv) (u : Fin 22)
  /-- `RECOVERY_FENCE_END` (R451). 4,096 beats after the trigger, the fence ends and the crash dump starts. -/
  | recoveryFenceEnd (k : Fin 5)
  /-- `CRASH_DUMP_DONE` (R452). The crash dump is written to its slot, and the reset of the level follows. -/
  | crashDumpDone (m : Mv)
  /-- `CHIP_RESET` (R457). Chip level stops outputs, resets every MVC, retrains the links, recalibrates HBM, reloads the image and checks it. -/
  | chipReset
  /-- `RECOVERY_BOUND_EXPIRY` (R455). A recovery level that misses its bound hands the fault to the next level. -/
  | recoveryBoundExpiry (k : Fin 5)
  /-- `REPLAY_START` (R461). After a reset for a hang, culprit replay saves the engine buffer, requests a token and runs the first suspect. -/
  | replayStart (m : Mv)
  /-- `REPLAY_SUSPECT_END` (R462). A suspect's replay ends on reproduction, completion or REPLAY_LIM, and the next suspect runs or the verdict is logged. -/
  | replaySuspectEnd (m : Mv)
  /-- `DOMAIN_REJOIN` (R456). At the first turn boundary at least one frame after reset or replay, the domain's engines rejoin the schedule. -/
  | domainRejoin (m : Mv)
  /-- `PACKAGE_HEARTBEAT` (R458). The master receives a package heartbeat, and on LEVEL 4 sends a tray order. -/
  | packageHeartbeat (n : Fin 8) (r : SbSlot)
  /-- `TRAY_ORDER` (R458). A package receives a tray order naming stop turn S. -/
  | trayOrder (n : Fin 8) (r : SbSlot)
  /-- `TRAY_STOP` (R458). At S, the package stops SC and runs chip level with cause 0x09. -/
  | trayStop
  /-- `OOS_CLEAR` (R466). Writing RCV.OOS.CLEAR deasserts OOS, empties the record and resets compute without activation. -/
  | oosClear
  /-- `FORCE_ENGINE_RESET` (R470). RCV.FORCE GO with LEVEL 2 starts engine level on a named engine. -/
  | forceEngineReset (die : Fin 8) (eng : Fin 16)
  /-- `FORCE_PARTITION_RESET` (R470). RCV.FORCE GO with LEVEL 3 starts partition level on a named die. -/
  | forcePartitionReset (die : Fin 8)
  /-- `FORCE_CHIP_RESET` (R470). RCV.FORCE GO with LEVEL 4 starts chip level. -/
  | forceChipReset (die : Fin 8)
  /-- `SMBUS_WRITE` (R500). SMBus command 0x10 writes a register of the subset and sets the pointer, or is NACKed. -/
  | smbusWrite (a : Word) (w : Word) (pec : Bool)
  /-- `SMBUS_SET_POINTER` (R499). SMBus command 0x11 sets the pointer. -/
  | smbusSetPointer (a : Word) (pec : Bool)
  /-- `SMBUS_READ` (R499). SMBus command 0x12 reads the register at the pointer with STATUS and advances the pointer. -/
  | smbusRead
  /-- `PWR_FAIL_RELEASE` (R491). When PWR_FAIL# goes high while CR0 holds start-up in step 2, start-up leaves step 2 and continues. -/
  | pwrFailRelease (variant : Fin 4) (pkg : Fin 16) (refSel : Bool)
  /-- `MS_READ` (R270). An MS read through BAR0 is completed within 4 µs, travelling as UC to a Movement die's window, and returns 0xFFFF_FFFF and counts MS_UNREACH when the die is unreachable. -/
  | msRead (c : Crown) (a : Word)
  /-- `CONFIGURATION_REQUEST` (R394). A PCIe configuration request from the host is answered with Request Retry Status until the record's PCI entries have been applied, and otherwise acts on configuration space such as the Device Control 2 completion timeout value. -/
  | configurationRequest (c : Crown) (q : CfgReq)
  /-- `PRIVATE_INSTRUCTION` (R410). A private JTAG instruction other than UNLOCK acts as BYPASS unless the scope bit it needs is set, in which case it performs its debug read, halt or write. -/
  | privateInstruction (op : PrivOp) (tdi : List Bool)
  /-- `ABORTED_ARM_REARM` (R401). An activation arm of a multi-package image that aborted with RC 0x1006 is armed again 64 turns later while the packages stay in LOADING. -/
  | abortedArmRearm
  deriving DecidableEq, Repr

end Sys2Proof
end

