-- ==== Sys2Proof/Config.lean ====
section
/-! DEFINITION. The free values: constants with no body, so that no proof can see what they are. -/

namespace Sys2Proof.Config

/-- The value of the `n`-th choice the spec leaves open in a run (log entry 2, DESIGN CHOICE). -/
opaque freeValue : Nat → Nat

/-- By how much the servo slews `RATE` for an offset in ns, before the limit of R46 (log entry 15, DESIGN CHOICE). -/
opaque servoStep : Int → Int

/-- Cosine and sine of an FP32 angle in rad, and the angle of a point (x, y), as the hardware rounds them to FP32; the
spec states no rounding for them (log entry 22, PRESUMED). -/
opaque fpCos : Nat → Nat
opaque fpSin : Nat → Nat
opaque fpAngle : Nat → Nat → Nat

/-- A function of the vector unit by its number, on FP32 operands; a gate function by its number, for x_t and an element of the
state; the weight of one of the scores a softmax is taken over; one number of the summary key of a block, from the block's
elements: the spec names these and states no formula or rounding (R218, R232, R234; log entry 151, DESIGN CHOICE). -/
opaque vectorFn : Nat → List Nat → Nat
opaque gateFn : Nat → Nat → Nat → Nat
opaque softmax : List Nat → Nat → Nat
opaque summaryKey : List (List Nat) → Nat → Nat

/-- An element of a block that holds a NaN or an infinity: only the block's scale is stated (R215; log entry 152, DESIGN
CHOICE). -/
opaque nanElement : List Nat → Nat → Nat

/-- Garvanto's JEDEC manufacturer identity, which the spec does not give (log entry 26, DESIGN CHOICE). -/
opaque jedecId : Nat

end Sys2Proof.Config
end

