-- ==== Sys2Proof/Machine/Bits.lean ====
section
/-! DEFINITION. Bit fields, byte orders and small arithmetic. -/

namespace Sys2Proof.Machine

/-- Beats in a frame. -/
def frameBeats : Nat := 2048

/-- Beats in a turn, 1,024 frames. -/
def turnBeats : Nat := 2097152

/-- Beats in one millisecond at 1.6 GHz (R2). -/
def msBeats : Nat := 1600000

/-- Bits `lo` to `lo + w − 1` of `v`. -/
def bitsOf (v lo w : Nat) : Nat := v / 2 ^ lo % 2 ^ w

/-- Bit `i` of `v`. -/
def bit (v i : Nat) : Bool := v / 2 ^ i % 2 == 1

/-- `v` with bit `i` set. -/
def setBit (v i : Nat) : Nat := if bit v i then v else v + 2 ^ i

/-- `v` with bit `i` clear. -/
def clrBit (v i : Nat) : Nat := if bit v i then v - 2 ^ i else v

/-- The bits of `v` that are clear in `m`. -/
def andNot (v m : Nat) : Nat := v - (Nat.land v m)

/-- `n` little-endian bytes of `v` (R5). -/
def leBytes : Nat → Nat → List Byte
  | 0, _ => []
  | n + 1, v => BitVec.ofNat 8 v :: leBytes n (v / 256)

/-- The number that little-endian bytes spell. -/
def leNat : List Byte → Nat
  | [] => 0
  | b :: t => b.toNat + 256 * leNat t

/-- The number that big-endian bytes spell. -/
def beNat (l : List Byte) : Nat := leNat l.reverse

/-- `n` big-endian bytes of `v`. -/
def beBytes (n v : Nat) : List Byte := (leBytes n v).reverse

/-- A two's-complement field of `w` bits as an integer. -/
def signed (w v : Nat) : Int := if v % 2 ^ w < 2 ^ (w - 1) then (v % 2 ^ w : Int) else (v % 2 ^ w : Int) - 2 ^ w

/-- An integer as a field of `w` bits, two's complement. -/
def unsigned (w : Nat) (i : Int) : Nat := (i % (2 ^ w : Int)).toNat

/-- The least number at least `a / b`. -/
def ceilDiv (a b : Nat) : Nat := (a + b - 1) / b

/-- One, or zero. -/
def b2n (b : Bool) : Nat := if b then 1 else 0

/-- The first boundary of `g` beats at or after `b`. -/
def boundaryAtOrAfter (g b : Nat) : Nat := ceilDiv b g * g

/-- How many bits of `v` are set, over the lowest `n`. -/
def popcount (v : Nat) : Nat → Nat
  | 0 => 0
  | n + 1 => b2n (bit v n) + popcount v n

/-- The positions of the set bits of `v` below `n`, ascending. -/
def bitsSet (v n : Nat) : List Nat := (List.range n).filter (bit v)

end Sys2Proof.Machine
end

