-- ==== Sys2Proof/Machine/RegTypes.lean ====
section
/-! DEFINITION. What a register field, a register and a block of the management space are (R5 to R8, R420). -/

namespace Sys2Proof.Machine

/-- The access codes of R8; `w1c` clears bit by bit, `w1k` is the saturating count that all ones clear. -/
inductive Acc where
  | ro | rw | w1c | w1k | wo | arm | lck | fuse
  deriving DecidableEq, Repr

/-- A register field: the offset of its word in its block instance, its lowest bit, its width, its access code, its
Reset value, and whether the Reset column says cfg (R7). -/
structure Fld where
  off : Nat
  lo : Nat
  w : Nat
  acc : Acc
  reset : Nat
  cfg : Bool
  deriving DecidableEq, Repr

/-- A register, or an array of `n` registers `stride` bytes apart, each of them `n2` words `stride2` bytes apart. -/
structure RegRow where
  off : Nat
  n : Nat
  stride : Nat
  n2 : Nat
  stride2 : Nat
  flds : List Fld
  deriving DecidableEq, Repr

/-- The kinds of register block. `trayPort` and `ethPort` are the per-port instances of `TRY` and `ETH`. -/
inductive Blk where
  | cfg | bal | pwr | thm | ikl | gtr | tray | trayPort | eng | seq | syn | dma | mem | pci | eth | ethPort | ptp
  | fus | ldg | boot | sec | rcv | log
  deriving DecidableEq, Repr

/-- The block codes of R420. -/
def Blk.code : Blk → Nat
  | .cfg => 0 | .bal => 1 | .pwr => 2 | .thm => 3 | .ikl => 4 | .gtr => 5 | .tray => 6 | .trayPort => 6
  | .eng => 7 | .seq => 8 | .syn => 9 | .dma => 10 | .mem => 11 | .pci => 12 | .eth => 13 | .ethPort => 13
  | .ptp => 14 | .fus => 15 | .ldg => 16 | .boot => 17 | .sec => 18 | .rcv => 19 | .log => 20

end Sys2Proof.Machine
end

