-- ==== Sys2Proof/Machine/RegMap.lean ====
section
/-! DEFINITION. The register map: every field of every management-space register of the spec, with its offset
inside its block instance, its place, its access code and its Reset value (R5 to R8), and per block the list of its
registers. The values follow the register tables of the chapters; the block bases follow R62, R268 and
18_address_map_and_reason_codes.md. A Reset marked fuse is the value of the fuse of log entry 3, DESIGN CHOICE. -/

namespace Sys2Proof.Machine.Reg

-- `CFG.VARIANT` (01_package_and_variants)
abbrev CFG_VARIANT : Fld := ⟨0x10, 0, 2, .fuse, 3, false⟩
abbrev CFG_VARIANT_STRAP : Fld := ⟨0x10, 4, 2, .ro, 0, false⟩
abbrev CFG_VARIANT_MISMATCH : Fld := ⟨0x10, 6, 1, .ro, 0, false⟩
abbrev CFG_VARIANT_SAMPLED : Fld := ⟨0x10, 7, 1, .ro, 0, false⟩
abbrev CFG_VARIANT_SILICON_REV : Fld := ⟨0x10, 8, 8, .fuse, 0, false⟩
-- `CFG.DIE_ID` (01_package_and_variants)
abbrev CFG_DIE_ID_ID : Fld := ⟨0x20, 0, 32, .fuse, 0, false⟩
-- `CFG.LAST_REASON` (15_configuration_and_live_change)
abbrev CFG_LAST_REASON_REASON : Fld := ⟨0x0, 0, 16, .ro, 0, false⟩
abbrev CFG_LAST_REASON_DIE : Fld := ⟨0x0, 16, 3, .ro, 0, false⟩
abbrev CFG_LAST_REASON_BLOCK : Fld := ⟨0x0, 19, 5, .ro, 0, false⟩
abbrev CFG_LAST_REASON_INSTANCE : Fld := ⟨0x0, 24, 8, .ro, 0, false⟩
-- `CFG.REFUSALS` (15_configuration_and_live_change)
abbrev CFG_REFUSALS_COUNT : Fld := ⟨0x4, 0, 16, .w1k, 0, false⟩
-- `CFG.SHADOW` (15_configuration_and_live_change)
abbrev CFG_SHADOW_PENDING : Fld := ⟨0x30, 0, 1, .ro, 0, false⟩
abbrev CFG_SHADOW_CLASS : Fld := ⟨0x30, 1, 2, .ro, 0, false⟩
abbrev CFG_SHADOW_FROZEN : Fld := ⟨0x30, 3, 1, .ro, 0, false⟩
-- `CFG.ARM` (15_configuration_and_live_change)
abbrev CFG_ARM_GO : Fld := ⟨0x40, 0, 1, .wo, 0, false⟩
abbrev CFG_ARM_DISCARD : Fld := ⟨0x40, 1, 1, .wo, 0, false⟩
abbrev CFG_ARM_SCOPE : Fld := ⟨0x40, 2, 1, .rw, 0, false⟩
abbrev CFG_ARM_BY_TAI : Fld := ⟨0x40, 3, 1, .rw, 0, false⟩
abbrev CFG_ARM_BANK : Fld := ⟨0x40, 4, 1, .rw, 0, false⟩
abbrev CFG_ARM_HACK_LEN : Fld := ⟨0x40, 5, 7, .rw, 0, false⟩
abbrev CFG_ARM_STATE : Fld := ⟨0x40, 16, 3, .ro, 0, false⟩
abbrev CFG_ARM_SET_ID : Fld := ⟨0x40, 20, 8, .rw, 0, false⟩
-- `CFG.COMMIT_TURN_LO` (15_configuration_and_live_change)
abbrev CFG_COMMIT_TURN_LO_TURN : Fld := ⟨0x44, 0, 32, .rw, 0, false⟩
-- `CFG.COMMIT_TURN_HI` (15_configuration_and_live_change)
abbrev CFG_COMMIT_TURN_HI_TURN : Fld := ⟨0x48, 0, 11, .rw, 0, false⟩
-- `CFG.COMMIT_TAI_LO` (15_configuration_and_live_change)
abbrev CFG_COMMIT_TAI_LO_TAI : Fld := ⟨0x4c, 0, 32, .rw, 0, false⟩
-- `CFG.COMMIT_TAI_HI` (15_configuration_and_live_change)
abbrev CFG_COMMIT_TAI_HI_TAI : Fld := ⟨0x50, 0, 32, .rw, 0, false⟩
-- `CFG.ARM_STATUS` (15_configuration_and_live_change)
abbrev CFG_ARM_STATUS_REASON : Fld := ⟨0x54, 0, 16, .ro, 0, false⟩
abbrev CFG_ARM_STATUS_CONFIRMED : Fld := ⟨0x54, 16, 6, .ro, 0, false⟩
abbrev CFG_ARM_STATUS_CLASS : Fld := ⟨0x54, 22, 2, .ro, 0, false⟩
abbrev CFG_ARM_STATUS_DISAGREE : Fld := ⟨0x54, 24, 1, .w1c, 0, false⟩
abbrev CFG_ARM_STATUS_LATE_WR : Fld := ⟨0x54, 25, 7, .w1k, 0, false⟩
-- `CFG.ARM_TRAY` (15_configuration_and_live_change)
abbrev CFG_ARM_TRAY_PKG_OK : Fld := ⟨0x58, 0, 16, .ro, 0, false⟩
abbrev CFG_ARM_TRAY_PKG_NEEDED : Fld := ⟨0x58, 16, 16, .ro, 0, false⟩
-- `CFG.STAGE_OFF` (15_configuration_and_live_change)
abbrev CFG_STAGE_OFF_OFFSET : Fld := ⟨0x100, 0, 27, .rw, 0, false⟩
abbrev CFG_STAGE_OFF_VALID : Fld := ⟨0x100, 31, 1, .rw, 0, false⟩
-- `CFG.STAGE_VAL` (15_configuration_and_live_change)
abbrev CFG_STAGE_VAL_VALUE : Fld := ⟨0x104, 0, 32, .rw, 0, false⟩
-- `CFG.PAD_CTL` (17_balls_and_electrical)
abbrev CFG_PAD_CTL_ENABLE : Fld := ⟨0x300, 0, 1, .rw, 1, false⟩
abbrev CFG_PAD_CTL_EXPERT : Fld := ⟨0x300, 1, 1, .lck, 0, false⟩
abbrev CFG_PAD_CTL_PROFILE : Fld := ⟨0x300, 2, 2, .lck, 0, false⟩
abbrev CFG_PAD_CTL_FL_DRV : Fld := ⟨0x300, 4, 2, .lck, 1, false⟩
abbrev CFG_PAD_CTL_LD_DRV : Fld := ⟨0x300, 6, 2, .lck, 1, false⟩
abbrev CFG_PAD_CTL_MGMT_FAST : Fld := ⟨0x300, 8, 1, .lck, 0, false⟩
-- `CFG.PAD_STATUS` (17_balls_and_electrical)
abbrev CFG_PAD_STATUS_REFUSED : Fld := ⟨0x304, 0, 1, .ro, 0, false⟩
abbrev CFG_PAD_STATUS_ZREF_BAD : Fld := ⟨0x304, 1, 1, .ro, 0, false⟩
abbrev CFG_PAD_STATUS_REASON : Fld := ⟨0x304, 16, 16, .ro, 0, false⟩
-- `BAL.CTL` (02_beat_and_balance)
abbrev BAL_CTL_ENABLE : Fld := ⟨0x0, 0, 1, .rw, 0, true⟩
abbrev BAL_CTL_EXPERT : Fld := ⟨0x0, 1, 1, .lck, 0, true⟩
abbrev BAL_CTL_PROFILE : Fld := ⟨0x0, 4, 4, .lck, 0, true⟩
abbrev BAL_CTL_MASTER_PKG : Fld := ⟨0x0, 8, 4, .lck, 0, true⟩
-- `BAL.STATUS` (02_beat_and_balance)
abbrev BAL_STATUS_REFUSED : Fld := ⟨0x4, 0, 1, .ro, 0, false⟩
abbrev BAL_STATUS_REF_OK : Fld := ⟨0x4, 1, 1, .ro, 0, false⟩
abbrev BAL_STATUS_PLL_LOCK : Fld := ⟨0x4, 2, 1, .ro, 0, false⟩
abbrev BAL_STATUS_BEAT_VALID : Fld := ⟨0x4, 3, 1, .ro, 0, false⟩
abbrev BAL_STATUS_IS_MASTER : Fld := ⟨0x4, 4, 1, .ro, 0, false⟩
abbrev BAL_STATUS_TAI_VALID : Fld := ⟨0x4, 5, 1, .ro, 0, false⟩
abbrev BAL_STATUS_HOLDOVER : Fld := ⟨0x4, 6, 1, .ro, 0, false⟩
abbrev BAL_STATUS_SYNC_LOST : Fld := ⟨0x4, 7, 1, .w1c, 0, false⟩
abbrev BAL_STATUS_HACK_ACTIVE : Fld := ⟨0x4, 8, 1, .ro, 0, false⟩
abbrev BAL_STATUS_CDC_STALE : Fld := ⟨0x4, 9, 1, .w1c, 0, false⟩
abbrev BAL_STATUS_REASON : Fld := ⟨0x4, 16, 16, .ro, 0, false⟩
-- `BAL.BEAT_LO` (02_beat_and_balance)
abbrev BAL_BEAT_LO_BEAT : Fld := ⟨0x8, 0, 32, .ro, 0, false⟩
-- `BAL.BEAT_HI` (02_beat_and_balance)
abbrev BAL_BEAT_HI_BEAT : Fld := ⟨0xc, 0, 32, .ro, 0, false⟩
-- `BAL.REF` (02_beat_and_balance)
abbrev BAL_REF_SRC : Fld := ⟨0x10, 0, 1, .lck, 0, true⟩
abbrev BAL_REF_SYNTONISE : Fld := ⟨0x10, 1, 1, .lck, 0, true⟩
abbrev BAL_REF_ACTIVE_PORT : Fld := ⟨0x10, 4, 3, .ro, 0, false⟩
abbrev BAL_REF_PORT_VALID : Fld := ⟨0x10, 7, 1, .ro, 0, false⟩
abbrev BAL_REF_SYNC_PORTS : Fld := ⟨0x10, 8, 8, .lck, 0, true⟩
abbrev BAL_REF_HOPS : Fld := ⟨0x10, 16, 3, .ro, 0, false⟩
abbrev BAL_REF_PHASE_ERR : Fld := ⟨0x10, 24, 8, .ro, 0, false⟩
-- `BAL.LOAD_DELTA_LO` (02_beat_and_balance)
abbrev BAL_LOAD_DELTA_LO_DELTA : Fld := ⟨0x14, 0, 32, .ro, 0, false⟩
-- `BAL.LOAD_DELTA_HI` (02_beat_and_balance)
abbrev BAL_LOAD_DELTA_HI_DELTA : Fld := ⟨0x18, 0, 32, .ro, 0, false⟩
-- `BAL.LOADS` (02_beat_and_balance)
abbrev BAL_LOADS : Fld := ⟨0x1c, 0, 32, .ro, 0, false⟩
-- `BAL.ANCHOR_BEAT_LO` (02_beat_and_balance)
abbrev BAL_ANCHOR_BEAT_LO : Fld := ⟨0x30, 0, 32, .arm, 0, false⟩
-- `BAL.ANCHOR_BEAT_HI` (02_beat_and_balance)
abbrev BAL_ANCHOR_BEAT_HI : Fld := ⟨0x34, 0, 32, .arm, 0, false⟩
-- `BAL.ANCHOR_TAI_LO` (02_beat_and_balance)
abbrev BAL_ANCHOR_TAI_LO : Fld := ⟨0x38, 0, 32, .arm, 0, false⟩
-- `BAL.ANCHOR_TAI_HI` (02_beat_and_balance)
abbrev BAL_ANCHOR_TAI_HI : Fld := ⟨0x3c, 0, 32, .arm, 0, false⟩
-- `BAL.RATE` (02_beat_and_balance)
abbrev BAL_RATE : Fld := ⟨0x40, 0, 32, .arm, 0, false⟩
-- `BAL.CDC` (02_beat_and_balance)
abbrev BAL_CDC_STALE_COUNT : Fld := ⟨0x50, 0, 16, .w1k, 0, false⟩
abbrev BAL_CDC_LAST_INST : Fld := ⟨0x50, 16, 8, .ro, 0, false⟩
abbrev BAL_CDC_LAST_BLOCK : Fld := ⟨0x50, 24, 5, .ro, 0, false⟩
abbrev BAL_CDC_LAST_KIND : Fld := ⟨0x50, 29, 3, .ro, 0, false⟩
-- `BAL.HACK` (02_beat_and_balance)
abbrev BAL_HACK_WIN_START : Fld := ⟨0x54, 0, 10, .ro, 0, false⟩
abbrev BAL_HACK_HACK_MAX : Fld := ⟨0x54, 16, 7, .ro, 0, false⟩
abbrev BAL_HACK_COUNT : Fld := ⟨0x54, 24, 8, .ro, 0, false⟩
-- `PWR.CTL` (13_power_admission_and_thermal)
abbrev PWR_CTL_ENABLE : Fld := ⟨0x0, 0, 1, .rw, 0, true⟩
abbrev PWR_CTL_EXPERT : Fld := ⟨0x0, 1, 1, .lck, 0, true⟩
abbrev PWR_CTL_PROFILE : Fld := ⟨0x0, 2, 2, .lck, 0, true⟩
-- `PWR.STATUS` (13_power_admission_and_thermal)
abbrev PWR_STATUS_REFUSED : Fld := ⟨0x4, 0, 1, .ro, 0, false⟩
abbrev PWR_STATUS_PF : Fld := ⟨0x4, 1, 1, .ro, 0, false⟩
abbrev PWR_STATUS_LEDGER_ONLY : Fld := ⟨0x4, 2, 1, .ro, 0, false⟩
abbrev PWR_STATUS_THSD : Fld := ⟨0x4, 3, 1, .ro, 0, false⟩
abbrev PWR_STATUS_FLOOR : Fld := ⟨0x4, 4, 6, .ro, 0, false⟩
abbrev PWR_STATUS_REASON : Fld := ⟨0x4, 16, 16, .ro, 0, false⟩
-- `PWR.BUDGET` (13_power_admission_and_thermal)
abbrev PWR_BUDGET : Fld := ⟨0x8, 0, 11, .rw, 0, true⟩
abbrev PWR_BUDGET_IN_EFFECT : Fld := ⟨0x8, 16, 11, .ro, 0, false⟩
-- `PWR.RESERVE` (13_power_admission_and_thermal)
abbrev PWR_RESERVE : Fld := ⟨0xc, 0, 11, .ro, 0, false⟩
abbrev PWR_RESERVE_FLOORS : Fld := ⟨0xc, 16, 11, .ro, 0, false⟩
-- `PWR.DOM` (13_power_admission_and_thermal)
abbrev PWR_DOM_ON : Fld := ⟨0x10, 0, 16, .rw, 0, true⟩
abbrev PWR_DOM_STATE : Fld := ⟨0x10, 16, 16, .ro, 0, false⟩
-- `PWR.ADM` (13_power_admission_and_thermal)
abbrev PWR_ADM_WAIT_LIMIT : Fld := ⟨0x14, 0, 16, .lck, 1024, false⟩
-- `PWR.TOKEN` (13_power_admission_and_thermal)
abbrev PWR_TOKEN_MATRIX : Fld := ⟨0x18, 0, 8, .lck, 128, false⟩
abbrev PWR_TOKEN_SCAN : Fld := ⟨0x18, 8, 8, .lck, 64, false⟩
abbrev PWR_TOKEN_HOST : Fld := ⟨0x18, 16, 8, .lck, 32, false⟩
abbrev PWR_TOKEN_RECAL : Fld := ⟨0x18, 24, 8, .lck, 16, false⟩
-- `PWR.FLOOR` (13_power_admission_and_thermal)
abbrev PWR_FLOOR_MV_FLOOR : Fld := ⟨0x1c, 0, 8, .lck, 128, false⟩
abbrev PWR_FLOOR_CR_FLOOR : Fld := ⟨0x1c, 8, 8, .lck, 32, false⟩
-- `PWR.COUNT` (13_power_admission_and_thermal)
abbrev PWR_COUNT_LOST : Fld := ⟨0x20, 0, 8, .w1k, 0, false⟩
abbrev PWR_COUNT_WAIT_FAIL : Fld := ⟨0x20, 8, 8, .w1k, 0, false⟩
abbrev PWR_COUNT_GRANTED : Fld := ⟨0x20, 16, 16, .w1k, 0, false⟩
-- `PWR.DIE_A` (13_power_admission_and_thermal)
abbrev PWR_DIE_A_ALLOW : Fld := ⟨0x40, 0, 16, .ro, 0, false⟩
abbrev PWR_DIE_A_HELD : Fld := ⟨0x40, 16, 16, .ro, 0, false⟩
-- `PWR.DIE_B` (13_power_admission_and_thermal)
abbrev PWR_DIE_B_MEAS : Fld := ⟨0x44, 0, 16, .ro, 0, false⟩
abbrev PWR_DIE_B_DEMAND : Fld := ⟨0x44, 16, 16, .ro, 0, false⟩
-- `PWR.RAIL` (17_balls_and_electrical)
abbrev PWR_RAIL_MV : Fld := ⟨0x80, 0, 16, .ro, 0, false⟩
abbrev PWR_RAIL_LOW : Fld := ⟨0x80, 16, 1, .w1c, 0, false⟩
abbrev PWR_RAIL_HIGH : Fld := ⟨0x80, 17, 1, .w1c, 0, false⟩
-- `THM.CTL` (13_power_admission_and_thermal)
abbrev THM_CTL_ENABLE : Fld := ⟨0x0, 0, 1, .rw, 0, true⟩
abbrev THM_CTL_EXPERT : Fld := ⟨0x0, 1, 1, .lck, 0, true⟩
abbrev THM_CTL_PROFILE : Fld := ⟨0x0, 2, 2, .lck, 0, true⟩
-- `THM.STATUS` (13_power_admission_and_thermal)
abbrev THM_STATUS_REFUSED : Fld := ⟨0x4, 0, 1, .ro, 0, false⟩
abbrev THM_STATUS_THROT : Fld := ⟨0x4, 1, 1, .ro, 0, false⟩
abbrev THM_STATUS_TRIP : Fld := ⟨0x4, 2, 1, .ro, 0, false⟩
abbrev THM_STATUS_STALE : Fld := ⟨0x4, 3, 1, .ro, 0, false⟩
abbrev THM_STATUS_REASON : Fld := ⟨0x4, 16, 16, .ro, 0, false⟩
-- `THM.TEMP` (13_power_admission_and_thermal)
abbrev THM_TEMP_TJ : Fld := ⟨0x8, 0, 8, .ro, 0, false⟩
abbrev THM_TEMP_TJ_MAX : Fld := ⟨0x8, 8, 8, .w1k, 0, false⟩
abbrev THM_TEMP_HBM0 : Fld := ⟨0x8, 16, 8, .ro, 0, false⟩
abbrev THM_TEMP_HBM1 : Fld := ⟨0x8, 24, 8, .ro, 0, false⟩
-- `THM.LIMIT` (13_power_admission_and_thermal)
abbrev THM_LIMIT_THROT_C : Fld := ⟨0xc, 0, 8, .lck, 100, false⟩
abbrev THM_LIMIT_HYST : Fld := ⟨0xc, 8, 4, .lck, 5, false⟩
-- `IKL.PHY_CTL` (03_ikiper_physical_layer)
abbrev IKL_PHY_CTL_ENABLE : Fld := ⟨0x0, 0, 1, .rw, 0, true⟩
abbrev IKL_PHY_CTL_EXPERT : Fld := ⟨0x0, 1, 1, .lck, 0, true⟩
abbrev IKL_PHY_CTL_PROFILE : Fld := ⟨0x0, 2, 2, .lck, 0, true⟩
abbrev IKL_PHY_CTL_MODE : Fld := ⟨0x0, 4, 2, .lck, 0, true⟩
abbrev IKL_PHY_CTL_SWING : Fld := ⟨0x0, 6, 2, .lck, 0, true⟩
abbrev IKL_PHY_CTL_PATTERN : Fld := ⟨0x0, 8, 2, .lck, 0, true⟩
-- `IKL.PHY_STATUS` (03_ikiper_physical_layer)
abbrev IKL_PHY_STATUS_REFUSED : Fld := ⟨0x4, 0, 1, .ro, 0, false⟩
abbrev IKL_PHY_STATUS_MODCLK_OK : Fld := ⟨0x4, 1, 1, .ro, 0, false⟩
abbrev IKL_PHY_STATUS_SB_UP : Fld := ⟨0x4, 2, 1, .ro, 0, false⟩
abbrev IKL_PHY_STATUS_LEAD : Fld := ⟨0x4, 4, 4, .ro, 0, false⟩
abbrev IKL_PHY_STATUS_REASON : Fld := ⟨0x4, 16, 16, .ro, 0, false⟩
-- `IKL.BUNDLE_EN` (03_ikiper_physical_layer)
abbrev IKL_BUNDLE_EN_EN : Fld := ⟨0x8, 0, 16, .lck, 0, true⟩
-- `IKL.CK_FAIL` (03_ikiper_physical_layer)
abbrev IKL_CK_FAIL_FAIL : Fld := ⟨0xc, 0, 16, .w1c, 0, false⟩
abbrev IKL_CK_FAIL_CK_OK : Fld := ⟨0xc, 16, 16, .ro, 0, false⟩
-- `IKL.SB_ERR` (03_ikiper_physical_layer)
abbrev IKL_SB_ERR_CRC_ERR : Fld := ⟨0x10, 0, 16, .w1k, 0, false⟩
abbrev IKL_SB_ERR_MARKER_ERR : Fld := ⟨0x10, 16, 16, .w1k, 0, false⟩
-- `IKL.CAL_CTL` (04_jewel_lanes_and_calibration)
abbrev IKL_CAL_CTL_ENABLE : Fld := ⟨0x20, 0, 1, .rw, 0, true⟩
abbrev IKL_CAL_CTL_EXPERT : Fld := ⟨0x20, 1, 1, .lck, 0, true⟩
abbrev IKL_CAL_CTL_PROFILE : Fld := ⟨0x20, 2, 2, .lck, 0, true⟩
abbrev IKL_CAL_CTL_DWELL : Fld := ⟨0x20, 4, 3, .lck, 0, true⟩
abbrev IKL_CAL_CTL_LT_FULL : Fld := ⟨0x20, 8, 4, .lck, 0, true⟩
abbrev IKL_CAL_CTL_LT_SEEDED : Fld := ⟨0x20, 12, 4, .lck, 0, true⟩
-- `IKL.CAL_STATUS` (04_jewel_lanes_and_calibration)
abbrev IKL_CAL_STATUS_REFUSED : Fld := ⟨0x24, 0, 1, .ro, 0, false⟩
abbrev IKL_CAL_STATUS_DONE : Fld := ⟨0x24, 1, 1, .ro, 0, false⟩
abbrev IKL_CAL_STATUS_MODE : Fld := ⟨0x24, 2, 2, .ro, 0, false⟩
abbrev IKL_CAL_STATUS_TIME : Fld := ⟨0x24, 4, 12, .ro, 0, false⟩
abbrev IKL_CAL_STATUS_REASON : Fld := ⟨0x24, 16, 16, .ro, 0, false⟩
-- `IKL.RECAL` (04_jewel_lanes_and_calibration)
abbrev IKL_RECAL_BUNDLE : Fld := ⟨0x28, 0, 4, .rw, 0, false⟩
abbrev IKL_RECAL_GO : Fld := ⟨0x28, 4, 1, .wo, 0, false⟩
abbrev IKL_RECAL_STATE : Fld := ⟨0x28, 5, 2, .ro, 0, false⟩
-- `IKL.ERR_CFG` (04_jewel_lanes_and_calibration)
abbrev IKL_ERR_CFG_WINDOW : Fld := ⟨0x34, 0, 8, .arm, 16, false⟩
abbrev IKL_ERR_CFG_THRESH : Fld := ⟨0x34, 8, 16, .arm, 1024, false⟩
-- `IKL.ERR_CFG2` (04_jewel_lanes_and_calibration)
abbrev IKL_ERR_CFG2_T_THRESH : Fld := ⟨0x38, 0, 16, .arm, 64, false⟩
abbrev IKL_ERR_CFG2_J_THRESH : Fld := ⟨0x38, 16, 16, .arm, 1024, false⟩
-- `IKL.LINK_ERR` (04_jewel_lanes_and_calibration)
abbrev IKL_LINK_ERR_UNCORR : Fld := ⟨0x3c, 0, 16, .w1k, 0, false⟩
abbrev IKL_LINK_ERR_LOCATE : Fld := ⟨0x3c, 16, 8, .w1k, 0, false⟩
-- `IKL.LL_CTL` (05_ikiper_link_layer)
abbrev IKL_LL_CTL_ENABLE : Fld := ⟨0x80, 0, 1, .rw, 0, true⟩
abbrev IKL_LL_CTL_EXPERT : Fld := ⟨0x80, 1, 1, .lck, 0, true⟩
abbrev IKL_LL_CTL_PROFILE : Fld := ⟨0x80, 2, 2, .lck, 0, true⟩
abbrev IKL_LL_CTL_REPLAY_MAX : Fld := ⟨0x80, 4, 4, .lck, 0, true⟩
abbrev IKL_LL_CTL_TRAIN_MAX : Fld := ⟨0x80, 8, 4, .lck, 0, true⟩
-- `IKL.LL_STATUS` (05_ikiper_link_layer)
abbrev IKL_LL_STATUS_REFUSED : Fld := ⟨0x84, 0, 1, .ro, 0, false⟩
abbrev IKL_LL_STATUS_UC_QUIESCE : Fld := ⟨0x84, 1, 1, .ro, 0, false⟩
abbrev IKL_LL_STATUS_STATE : Fld := ⟨0x84, 4, 4, .ro, 0, false⟩
abbrev IKL_LL_STATUS_ATTEMPTS : Fld := ⟨0x84, 8, 4, .ro, 0, false⟩
abbrev IKL_LL_STATUS_REASON : Fld := ⟨0x84, 16, 16, .ro, 0, false⟩
-- `IKL.PIN` (05_ikiper_link_layer)
abbrev IKL_PIN_LATENCY : Fld := ⟨0x88, 0, 16, .ro, 0, true⟩
abbrev IKL_PIN_ARRIVAL : Fld := ⟨0x88, 16, 8, .ro, 0, false⟩
-- `IKL.FEC_CORR` (05_ikiper_link_layer)
abbrev IKL_FEC_CORR_CORR : Fld := ⟨0x94, 0, 32, .w1k, 0, false⟩
-- `IKL.SC_ERR` (05_ikiper_link_layer)
abbrev IKL_SC_ERR_RESENT : Fld := ⟨0x98, 0, 16, .w1k, 0, false⟩
abbrev IKL_SC_ERR_DOUBLE : Fld := ⟨0x98, 16, 16, .w1k, 0, false⟩
-- `IKL.UC_ERR` (05_ikiper_link_layer)
abbrev IKL_UC_ERR_REPLAY : Fld := ⟨0x9c, 0, 16, .w1k, 0, false⟩
abbrev IKL_UC_ERR_TIMEOUT : Fld := ⟨0x9c, 16, 8, .w1k, 0, false⟩
abbrev IKL_UC_ERR_LIMIT : Fld := ⟨0x9c, 24, 8, .w1k, 0, false⟩
-- `IKL.LL_ERR` (05_ikiper_link_layer)
abbrev IKL_LL_ERR_BAD_CLASS : Fld := ⟨0xa8, 0, 8, .w1k, 0, false⟩
abbrev IKL_LL_ERR_TAG_MISMATCH : Fld := ⟨0xa8, 8, 8, .w1k, 0, false⟩
abbrev IKL_LL_ERR_BAD_MTYPE : Fld := ⟨0xa8, 16, 8, .w1k, 0, false⟩
abbrev IKL_LL_ERR_SB_REPEAT : Fld := ⟨0xa8, 24, 8, .w1k, 0, false⟩
-- `IKL.RECAL_TURN_LO` (04_jewel_lanes_and_calibration)
abbrev IKL_RECAL_TURN_LO_TURN : Fld := ⟨0x2c, 0, 32, .rw, 0, false⟩
-- `IKL.RECAL_TURN_HI` (04_jewel_lanes_and_calibration)
abbrev IKL_RECAL_TURN_HI_TURN : Fld := ⟨0x30, 0, 11, .rw, 0, false⟩
-- `IKL.PIN_DEPTH` (05_ikiper_link_layer)
abbrev IKL_PIN_DEPTH_DEPTH0 : Fld := ⟨0x8c, 0, 4, .ro, 0, false⟩
abbrev IKL_PIN_DEPTH_DEPTH1 : Fld := ⟨0x8c, 4, 4, .ro, 0, false⟩
abbrev IKL_PIN_DEPTH_DEPTH2 : Fld := ⟨0x8c, 8, 4, .ro, 0, false⟩
abbrev IKL_PIN_DEPTH_DEPTH3 : Fld := ⟨0x8c, 12, 4, .ro, 0, false⟩
abbrev IKL_PIN_DEPTH_DEPTH4 : Fld := ⟨0x8c, 16, 4, .ro, 0, false⟩
abbrev IKL_PIN_DEPTH_DEPTH5 : Fld := ⟨0x8c, 20, 4, .ro, 0, false⟩
abbrev IKL_PIN_DEPTH_DEPTH6 : Fld := ⟨0x8c, 24, 4, .ro, 0, false⟩
abbrev IKL_PIN_DEPTH_DEPTH7 : Fld := ⟨0x8c, 28, 4, .ro, 0, false⟩
-- `IKL.CREDIT_POOL` (05_ikiper_link_layer)
abbrev IKL_CREDIT_POOL_RSP : Fld := ⟨0xa0, 0, 8, .ro, 0, true⟩
abbrev IKL_CREDIT_POOL_PW : Fld := ⟨0xa0, 8, 8, .ro, 0, true⟩
abbrev IKL_CREDIT_POOL_MSG : Fld := ⟨0xa0, 16, 8, .ro, 0, true⟩
abbrev IKL_CREDIT_POOL_REQ : Fld := ⟨0xa0, 24, 8, .ro, 0, true⟩
-- `IKL.CREDIT_AVAIL` (05_ikiper_link_layer)
abbrev IKL_CREDIT_AVAIL_RSP : Fld := ⟨0xa4, 0, 8, .ro, 0, false⟩
abbrev IKL_CREDIT_AVAIL_PW : Fld := ⟨0xa4, 8, 8, .ro, 0, false⟩
abbrev IKL_CREDIT_AVAIL_MSG : Fld := ⟨0xa4, 16, 8, .ro, 0, false⟩
abbrev IKL_CREDIT_AVAIL_REQ : Fld := ⟨0xa4, 24, 8, .ro, 0, false⟩
-- `IKL.BPHY` (03_ikiper_physical_layer)
abbrev IKL_BPHY_CK_OK : Fld := ⟨0x100, 0, 1, .ro, 0, false⟩
abbrev IKL_BPHY_MARKER_LOCK : Fld := ⟨0x100, 1, 1, .ro, 0, false⟩
abbrev IKL_BPHY_LEAD : Fld := ⟨0x100, 2, 1, .ro, 0, false⟩
abbrev IKL_BPHY_RETIRED : Fld := ⟨0x100, 3, 1, .ro, 0, false⟩
abbrev IKL_BPHY_CAL_OUT : Fld := ⟨0x100, 4, 1, .ro, 0, false⟩
abbrev IKL_BPHY_CK_DEV : Fld := ⟨0x100, 8, 8, .ro, 0, false⟩
-- `IKL.LANEMAP` (04_jewel_lanes_and_calibration)
abbrev IKL_LANEMAP_J0_TGT : Fld := ⟨0x120, 0, 5, .arm, 31, false⟩
abbrev IKL_LANEMAP_J0_BAD : Fld := ⟨0x120, 5, 1, .ro, 0, false⟩
abbrev IKL_LANEMAP_J1_TGT : Fld := ⟨0x120, 8, 5, .arm, 31, false⟩
abbrev IKL_LANEMAP_J1_BAD : Fld := ⟨0x120, 13, 1, .ro, 0, false⟩
abbrev IKL_LANEMAP_RETIRED : Fld := ⟨0x120, 16, 1, .ro, 0, false⟩
-- `IKL.LANEMAP_TX` (04_jewel_lanes_and_calibration)
abbrev IKL_LANEMAP_TX_J0_TGT : Fld := ⟨0x124, 0, 5, .ro, 31, false⟩
abbrev IKL_LANEMAP_TX_J0_BAD : Fld := ⟨0x124, 5, 1, .ro, 0, false⟩
abbrev IKL_LANEMAP_TX_J1_TGT : Fld := ⟨0x124, 8, 5, .ro, 31, false⟩
abbrev IKL_LANEMAP_TX_J1_BAD : Fld := ⟨0x124, 13, 1, .ro, 0, false⟩
abbrev IKL_LANEMAP_TX_RETIRED : Fld := ⟨0x124, 16, 1, .ro, 0, false⟩
-- `IKL.FUSEMAP` (04_jewel_lanes_and_calibration)
abbrev IKL_FUSEMAP_J0_TGT : Fld := ⟨0x128, 0, 5, .fuse, 31, false⟩
abbrev IKL_FUSEMAP_J0_BAD : Fld := ⟨0x128, 5, 1, .fuse, 0, false⟩
abbrev IKL_FUSEMAP_J1_TGT : Fld := ⟨0x128, 8, 5, .fuse, 31, false⟩
abbrev IKL_FUSEMAP_J1_BAD : Fld := ⟨0x128, 13, 1, .fuse, 0, false⟩
-- `IKL.FUSEMAP_TX` (04_jewel_lanes_and_calibration)
abbrev IKL_FUSEMAP_TX_J0_TGT : Fld := ⟨0x12c, 0, 5, .fuse, 31, false⟩
abbrev IKL_FUSEMAP_TX_J0_BAD : Fld := ⟨0x12c, 5, 1, .fuse, 0, false⟩
abbrev IKL_FUSEMAP_TX_J1_TGT : Fld := ⟨0x12c, 8, 5, .fuse, 31, false⟩
abbrev IKL_FUSEMAP_TX_J1_BAD : Fld := ⟨0x12c, 13, 1, .fuse, 0, false⟩
-- `IKL.BADMASK` (04_jewel_lanes_and_calibration)
abbrev IKL_BADMASK_BAD : Fld := ⟨0x130, 0, 21, .ro, 0, false⟩
-- `IKL.EYE_SUM` (04_jewel_lanes_and_calibration)
abbrev IKL_EYE_SUM_MIN_W : Fld := ⟨0x134, 0, 6, .ro, 0, false⟩
abbrev IKL_EYE_SUM_MIN_H : Fld := ⟨0x134, 6, 7, .ro, 0, false⟩
abbrev IKL_EYE_SUM_WORST : Fld := ⟨0x134, 16, 5, .ro, 0, false⟩
-- `IKL.COEF` (04_jewel_lanes_and_calibration)
abbrev IKL_COEF_DELAY : Fld := ⟨0x140, 0, 6, .ro, 0, false⟩
abbrev IKL_COEF_THRESH : Fld := ⟨0x140, 6, 6, .ro, 0, false⟩
abbrev IKL_COEF_CTLE : Fld := ⟨0x140, 12, 3, .ro, 0, false⟩
abbrev IKL_COEF_DFE1 : Fld := ⟨0x140, 15, 5, .ro, 0, false⟩
abbrev IKL_COEF_DFE2 : Fld := ⟨0x140, 20, 5, .ro, 0, false⟩
abbrev IKL_COEF_VALID : Fld := ⟨0x140, 31, 1, .ro, 0, false⟩
-- `IKL.EYE` (04_jewel_lanes_and_calibration)
abbrev IKL_EYE_EYE_W : Fld := ⟨0x144, 0, 6, .ro, 0, false⟩
abbrev IKL_EYE_EYE_H : Fld := ⟨0x144, 6, 7, .ro, 0, false⟩
abbrev IKL_EYE_LB : Fld := ⟨0x144, 13, 1, .ro, 0, false⟩
abbrev IKL_EYE_FLOOR_FAIL : Fld := ⟨0x144, 14, 1, .ro, 0, false⟩
abbrev IKL_EYE_WIN_ERR : Fld := ⟨0x144, 16, 16, .ro, 0, false⟩
-- `GTR.CTL` (06_gear_train)
abbrev GTR_CTL_ENABLE : Fld := ⟨0x0, 0, 1, .rw, 0, false⟩
abbrev GTR_CTL_EXPERT : Fld := ⟨0x0, 1, 1, .lck, 0, false⟩
abbrev GTR_CTL_PROFILE : Fld := ⟨0x0, 2, 2, .lck, 0, false⟩
-- `GTR.STATUS` (06_gear_train)
abbrev GTR_STATUS_REFUSED : Fld := ⟨0x4, 0, 1, .ro, 0, false⟩
abbrev GTR_STATUS_ACTIVE_BANK : Fld := ⟨0x4, 1, 1, .ro, 0, false⟩
abbrev GTR_STATUS_VARIANT : Fld := ⟨0x4, 2, 3, .ro, 0, false⟩
abbrev GTR_STATUS_NOFIT : Fld := ⟨0x4, 5, 1, .ro, 0, false⟩
abbrev GTR_STATUS_LATE : Fld := ⟨0x4, 6, 1, .w1c, 0, false⟩
abbrev GTR_STATUS_ACTIVE_WR : Fld := ⟨0x4, 7, 1, .w1c, 0, false⟩
abbrev GTR_STATUS_REASON : Fld := ⟨0x4, 16, 16, .ro, 0, false⟩
-- `GTR.ARB` (06_gear_train)
abbrev GTR_ARB_MSG_N : Fld := ⟨0x1c, 0, 8, .lck, 64, false⟩
abbrev GTR_ARB_REQ_N : Fld := ⟨0x1c, 8, 8, .lck, 64, false⟩
-- `GTR.NOTICE` (06_gear_train)
abbrev GTR_NOTICE_RECEIVED : Fld := ⟨0x20, 0, 16, .w1k, 0, false⟩
abbrev GTR_NOTICE_FORWARDED : Fld := ⟨0x20, 16, 16, .w1k, 0, false⟩
-- `GTR.TBL_SEL` (06_gear_train)
abbrev GTR_TBL_SEL_SPACE : Fld := ⟨0x80, 0, 2, .rw, 0, false⟩
abbrev GTR_TBL_SEL_BANK : Fld := ⟨0x80, 2, 1, .rw, 0, false⟩
abbrev GTR_TBL_SEL_DIR : Fld := ⟨0x80, 3, 1, .rw, 0, false⟩
abbrev GTR_TBL_SEL_SLOT : Fld := ⟨0x80, 4, 2, .rw, 0, false⟩
-- `GTR.TBL_IDX` (06_gear_train)
abbrev GTR_TBL_IDX_INDEX : Fld := ⟨0x84, 0, 14, .rw, 0, false⟩
-- `GTR.SWITCH_LO` (06_gear_train)
abbrev GTR_SWITCH_LO_TURN : Fld := ⟨0x8, 0, 32, .ro, 0, false⟩
-- `GTR.SWITCH_HI` (06_gear_train)
abbrev GTR_SWITCH_HI_TURN : Fld := ⟨0xc, 0, 11, .ro, 0, false⟩
-- `GTR.LOSS` (06_gear_train)
abbrev GTR_LOSS_LOST : Fld := ⟨0x10, 0, 32, .ro, 0, false⟩
-- `GTR.MARGIN` (06_gear_train)
abbrev GTR_MARGIN_PLUS : Fld := ⟨0x40, 0, 16, .w1k, 0, false⟩
abbrev GTR_MARGIN_MINUS : Fld := ⟨0x40, 16, 16, .w1k, 0, false⟩
-- `GTR.TBL_DATA` (06_gear_train)
abbrev GTR_TBL_DATA_DATA : Fld := ⟨0x90, 0, 32, .rw, 0, false⟩
-- `TRY.CTL` (07_tray_ports)
abbrev TRY_CTL_ENABLE : Fld := ⟨0x0, 0, 1, .rw, 0, true⟩
abbrev TRY_CTL_EXPERT : Fld := ⟨0x0, 1, 1, .lck, 0, true⟩
abbrev TRY_CTL_START_WIN : Fld := ⟨0x0, 8, 8, .lck, 0, true⟩
-- `TRY.TRAY_ID` (07_tray_ports)
abbrev TRY_TRAY_ID : Fld := ⟨0x4, 0, 32, .lck, 0, true⟩
-- `TRY.STATUS` (07_tray_ports)
abbrev TRY_STATUS_REFUSED : Fld := ⟨0x8, 0, 1, .ro, 0, false⟩
abbrev TRY_STATUS_WIN_DONE : Fld := ⟨0x8, 1, 1, .ro, 0, false⟩
abbrev TRY_STATUS_TVARIANT : Fld := ⟨0x8, 2, 3, .ro, 0, false⟩
abbrev TRY_STATUS_PKG_ID : Fld := ⟨0x8, 8, 4, .ro, 0, false⟩
abbrev TRY_STATUS_REASON : Fld := ⟨0x8, 16, 16, .ro, 0, false⟩
-- `TRY.MISSING` (07_tray_ports)
abbrev TRY_MISSING : Fld := ⟨0xc, 0, 8, .ro, 0, false⟩
-- `TRY.TLOSS` (07_tray_ports)
abbrev TRY_TLOSS_LOST : Fld := ⟨0x10, 0, 32, .ro, 0, false⟩
-- `TRY.TBL_SEL` (07_tray_ports)
abbrev TRY_TBL_SEL_SPACE : Fld := ⟨0x40, 0, 2, .rw, 0, false⟩
abbrev TRY_TBL_SEL_BANK : Fld := ⟨0x40, 2, 1, .rw, 0, false⟩
abbrev TRY_TBL_SEL_DIR : Fld := ⟨0x40, 3, 1, .rw, 0, false⟩
abbrev TRY_TBL_SEL_SLOT : Fld := ⟨0x40, 4, 2, .rw, 0, false⟩
-- `TRY.TBL_IDX` (07_tray_ports)
abbrev TRY_TBL_IDX_INDEX : Fld := ⟨0x44, 0, 14, .rw, 0, false⟩
-- `TRY.TBL_DATA` (07_tray_ports)
abbrev TRY_TBL_DATA_DATA : Fld := ⟨0x50, 0, 32, .rw, 0, false⟩
-- `TRYP.PORT_CTL` (07_tray_ports)
abbrev TRYP_PORT_CTL_ENABLE : Fld := ⟨0x0, 0, 1, .rw, 0, true⟩
abbrev TRYP_PORT_CTL_EXPERT : Fld := ⟨0x0, 1, 1, .lck, 0, true⟩
abbrev TRYP_PORT_CTL_PROFILE : Fld := ⟨0x0, 2, 2, .lck, 0, true⟩
abbrev TRYP_PORT_CTL_PEER_PKG : Fld := ⟨0x0, 4, 4, .lck, 0, true⟩
abbrev TRYP_PORT_CTL_PEER_PORT : Fld := ⟨0x0, 8, 3, .lck, 0, true⟩
abbrev TRYP_PORT_CTL_PEER_VALID : Fld := ⟨0x0, 11, 1, .lck, 0, true⟩
-- `TRYP.PORT_STATUS` (07_tray_ports)
abbrev TRYP_PORT_STATUS_REFUSED : Fld := ⟨0x4, 0, 1, .ro, 0, false⟩
abbrev TRYP_PORT_STATUS_PRESENT : Fld := ⟨0x4, 1, 1, .ro, 0, false⟩
abbrev TRYP_PORT_STATUS_SIGNAL : Fld := ⟨0x4, 2, 1, .ro, 0, false⟩
abbrev TRYP_PORT_STATUS_ID_OK : Fld := ⟨0x4, 3, 1, .ro, 0, false⟩
abbrev TRYP_PORT_STATUS_ID_MISMATCH : Fld := ⟨0x4, 4, 1, .w1c, 0, false⟩
abbrev TRYP_PORT_STATUS_TLOST : Fld := ⟨0x4, 5, 1, .ro, 0, false⟩
abbrev TRYP_PORT_STATUS_SEEN_PKG : Fld := ⟨0x4, 8, 4, .ro, 0, false⟩
abbrev TRYP_PORT_STATUS_SEEN_PORT : Fld := ⟨0x4, 12, 3, .ro, 0, false⟩
abbrev TRYP_PORT_STATUS_SEEN_VALID : Fld := ⟨0x4, 15, 1, .ro, 0, false⟩
abbrev TRYP_PORT_STATUS_REASON : Fld := ⟨0x4, 16, 16, .ro, 0, false⟩
-- `TRYP.LAT` (07_tray_ports)
abbrev TRYP_LAT_LAT_BUDGET : Fld := ⟨0x8, 0, 16, .arm, 0, true⟩
abbrev TRYP_LAT_ARRIVAL : Fld := ⟨0x8, 16, 16, .ro, 0, false⟩
-- `TRYP.RETRY` (07_tray_ports)
abbrev TRYP_RETRY_LAST_RC : Fld := ⟨0xc, 0, 16, .ro, 0, false⟩
abbrev TRYP_RETRY_BACKOFF : Fld := ⟨0xc, 16, 8, .ro, 0, false⟩
abbrev TRYP_RETRY_ATTEMPTS : Fld := ⟨0xc, 24, 8, .w1k, 0, false⟩
-- `TRYP.FEC` (07_tray_ports)
abbrev TRYP_FEC_CORR_CW : Fld := ⟨0x10, 0, 24, .w1k, 0, false⟩
abbrev TRYP_FEC_UNCORR_CW : Fld := ⟨0x10, 24, 8, .w1k, 0, false⟩
-- `TRYP.ERR_CFG` (07_tray_ports)
abbrev TRYP_ERR_CFG_WINDOW : Fld := ⟨0x14, 0, 8, .arm, 0, true⟩
abbrev TRYP_ERR_CFG_THRESH : Fld := ⟨0x14, 8, 16, .arm, 0, true⟩
-- `TRYP.LL_CTL` (05_ikiper_link_layer)
abbrev TRYP_LL_CTL_ENABLE : Fld := ⟨0x80, 0, 1, .rw, 0, true⟩
abbrev TRYP_LL_CTL_EXPERT : Fld := ⟨0x80, 1, 1, .lck, 0, true⟩
abbrev TRYP_LL_CTL_PROFILE : Fld := ⟨0x80, 2, 2, .lck, 0, true⟩
abbrev TRYP_LL_CTL_REPLAY_MAX : Fld := ⟨0x80, 4, 4, .lck, 0, true⟩
abbrev TRYP_LL_CTL_TRAIN_MAX : Fld := ⟨0x80, 8, 4, .lck, 0, true⟩
-- `TRYP.LL_STATUS` (05_ikiper_link_layer)
abbrev TRYP_LL_STATUS_REFUSED : Fld := ⟨0x84, 0, 1, .ro, 0, false⟩
abbrev TRYP_LL_STATUS_UC_QUIESCE : Fld := ⟨0x84, 1, 1, .ro, 0, false⟩
abbrev TRYP_LL_STATUS_STATE : Fld := ⟨0x84, 4, 4, .ro, 0, false⟩
abbrev TRYP_LL_STATUS_ATTEMPTS : Fld := ⟨0x84, 8, 4, .ro, 0, false⟩
abbrev TRYP_LL_STATUS_REASON : Fld := ⟨0x84, 16, 16, .ro, 0, false⟩
-- `TRYP.FEC_CORR` (05_ikiper_link_layer)
abbrev TRYP_FEC_CORR_CORR : Fld := ⟨0x94, 0, 32, .w1k, 0, false⟩
-- `TRYP.SC_ERR` (05_ikiper_link_layer)
abbrev TRYP_SC_ERR_RESENT : Fld := ⟨0x98, 0, 16, .w1k, 0, false⟩
abbrev TRYP_SC_ERR_DOUBLE : Fld := ⟨0x98, 16, 16, .w1k, 0, false⟩
-- `TRYP.UC_ERR` (05_ikiper_link_layer)
abbrev TRYP_UC_ERR_REPLAY : Fld := ⟨0x9c, 0, 16, .w1k, 0, false⟩
abbrev TRYP_UC_ERR_TIMEOUT : Fld := ⟨0x9c, 16, 8, .w1k, 0, false⟩
abbrev TRYP_UC_ERR_LIMIT : Fld := ⟨0x9c, 24, 8, .w1k, 0, false⟩
-- `TRYP.LL_ERR` (05_ikiper_link_layer)
abbrev TRYP_LL_ERR_BAD_CLASS : Fld := ⟨0xa8, 0, 8, .w1k, 0, false⟩
abbrev TRYP_LL_ERR_TAG_MISMATCH : Fld := ⟨0xa8, 8, 8, .w1k, 0, false⟩
abbrev TRYP_LL_ERR_BAD_MTYPE : Fld := ⟨0xa8, 16, 8, .w1k, 0, false⟩
abbrev TRYP_LL_ERR_SB_REPEAT : Fld := ⟨0xa8, 24, 8, .w1k, 0, false⟩
-- `TRYP.PIN` (07_tray_ports)
abbrev TRYP_PIN_LATENCY : Fld := ⟨0x88, 0, 16, .ro, 0, true⟩
abbrev TRYP_PIN_ARRIVAL : Fld := ⟨0x88, 16, 16, .ro, 0, false⟩
-- `TRYP.PIN_DEPTH` (07_tray_ports)
abbrev TRYP_PIN_DEPTH_DEPTH0 : Fld := ⟨0x8c, 0, 16, .ro, 0, false⟩
-- `TRYP.CREDIT_POOL` (07_tray_ports)
abbrev TRYP_CREDIT_POOL_RSP : Fld := ⟨0xa0, 0, 8, .ro, 0, true⟩
abbrev TRYP_CREDIT_POOL_PW : Fld := ⟨0xa0, 8, 8, .ro, 0, true⟩
abbrev TRYP_CREDIT_POOL_MSG : Fld := ⟨0xa0, 16, 8, .ro, 0, true⟩
abbrev TRYP_CREDIT_POOL_REQ : Fld := ⟨0xa0, 24, 8, .ro, 0, true⟩
-- `TRYP.CREDIT_AVAIL` (07_tray_ports)
abbrev TRYP_CREDIT_AVAIL_RSP : Fld := ⟨0xa4, 0, 8, .ro, 0, false⟩
abbrev TRYP_CREDIT_AVAIL_PW : Fld := ⟨0xa4, 8, 8, .ro, 0, false⟩
abbrev TRYP_CREDIT_AVAIL_MSG : Fld := ⟨0xa4, 16, 8, .ro, 0, false⟩
abbrev TRYP_CREDIT_AVAIL_REQ : Fld := ⟨0xa4, 24, 8, .ro, 0, false⟩
-- `TRYP.LANEMAP` (07_tray_ports)
abbrev TRYP_LANEMAP_SPARE_TGT : Fld := ⟨0x100, 0, 4, .arm, 15, false⟩
abbrev TRYP_LANEMAP_SPARE_BAD : Fld := ⟨0x100, 4, 1, .ro, 0, false⟩
abbrev TRYP_LANEMAP_RETIRED : Fld := ⟨0x100, 5, 1, .ro, 0, false⟩
-- `TRYP.LANEMAP_TX` (07_tray_ports)
abbrev TRYP_LANEMAP_TX_SPARE_TGT : Fld := ⟨0x104, 0, 4, .ro, 15, false⟩
abbrev TRYP_LANEMAP_TX_SPARE_BAD : Fld := ⟨0x104, 4, 1, .ro, 0, false⟩
abbrev TRYP_LANEMAP_TX_RETIRED : Fld := ⟨0x104, 5, 1, .ro, 0, false⟩
-- `TRYP.FUSEMAP` (07_tray_ports)
abbrev TRYP_FUSEMAP_SPARE_TGT : Fld := ⟨0x108, 0, 4, .fuse, 15, false⟩
abbrev TRYP_FUSEMAP_SPARE_BAD : Fld := ⟨0x108, 4, 1, .fuse, 0, false⟩
-- `TRYP.COEF` (07_tray_ports)
abbrev TRYP_COEF_TXPRE : Fld := ⟨0x110, 0, 4, .ro, 0, false⟩
abbrev TRYP_COEF_TXPOST : Fld := ⟨0x110, 4, 4, .ro, 0, false⟩
abbrev TRYP_COEF_CTLE : Fld := ⟨0x110, 8, 4, .ro, 0, false⟩
abbrev TRYP_COEF_VALID : Fld := ⟨0x110, 31, 1, .ro, 0, false⟩
-- `TRYP.EYE` (07_tray_ports)
abbrev TRYP_EYE_SNR : Fld := ⟨0x114, 0, 10, .ro, 0, false⟩
abbrev TRYP_EYE_FLOOR_FAIL : Fld := ⟨0x114, 10, 1, .ro, 0, false⟩
abbrev TRYP_EYE_WIN_ERR : Fld := ⟨0x114, 16, 16, .ro, 0, false⟩
-- `ENG.CTL` (08_movement_engines)
abbrev ENG_CTL_ENABLE : Fld := ⟨0x0, 0, 1, .rw, 0, false⟩
abbrev ENG_CTL_EXPERT : Fld := ⟨0x0, 1, 1, .lck, 0, false⟩
abbrev ENG_CTL_PROFILE : Fld := ⟨0x0, 2, 2, .lck, 0, false⟩
-- `ENG.STATUS` (08_movement_engines)
abbrev ENG_STATUS_REFUSED : Fld := ⟨0x4, 0, 1, .ro, 0, false⟩
abbrev ENG_STATUS_FAULT : Fld := ⟨0x4, 1, 1, .w1c, 0, false⟩
abbrev ENG_STATUS_REASON : Fld := ⟨0x4, 16, 16, .ro, 0, false⟩
-- `ENG.DOORBELL` (08_movement_engines)
abbrev ENG_DOORBELL_CTX : Fld := ⟨0x8, 0, 5, .wo, 0, false⟩
abbrev ENG_DOORBELL_RING : Fld := ⟨0x8, 8, 1, .wo, 0, false⟩
-- `ENG.HEAVY` (08_movement_engines)
abbrev ENG_HEAVY_HEAVY_MIN : Fld := ⟨0xc, 0, 8, .lck, 16, false⟩
-- `ENG.CTX_STATE` (08_movement_engines)
abbrev ENG_CTX_STATE_STATE : Fld := ⟨0x100, 0, 3, .ro, 0, false⟩
abbrev ENG_CTX_STATE_KIND : Fld := ⟨0x100, 3, 1, .ro, 0, false⟩
abbrev ENG_CTX_STATE_DROPPED : Fld := ⟨0x100, 8, 8, .w1k, 0, false⟩
abbrev ENG_CTX_STATE_ENGMASK : Fld := ⟨0x100, 16, 16, .ro, 0, false⟩
-- `ENG.CTX_FAULT` (08_movement_engines)
abbrev ENG_CTX_FAULT_CAUSE : Fld := ⟨0x104, 0, 8, .ro, 0, false⟩
abbrev ENG_CTX_FAULT_ENGINE : Fld := ⟨0x104, 8, 4, .ro, 0, false⟩
abbrev ENG_CTX_FAULT_RC : Fld := ⟨0x104, 16, 16, .ro, 0, false⟩
-- `ENG.CTX_CHKPT_POS` (08_movement_engines)
abbrev ENG_CTX_CHKPT_POS_POS : Fld := ⟨0x108, 0, 32, .ro, 0, false⟩
-- `ENG.CTX_CHKPT_BEAT` (08_movement_engines)
abbrev ENG_CTX_CHKPT_BEAT_BEAT : Fld := ⟨0x10c, 0, 32, .ro, 0, false⟩
-- `ENG.E` (08_movement_engines)
abbrev ENG_E_CUR_CTX : Fld := ⟨0x400, 0, 5, .ro, 0, false⟩
abbrev ENG_E_BUSY : Fld := ⟨0x400, 5, 1, .ro, 0, false⟩
abbrev ENG_E_IDLE_RUN : Fld := ⟨0x400, 6, 1, .ro, 0, false⟩
abbrev ENG_E_DEFERRED : Fld := ⟨0x400, 16, 16, .w1k, 0, false⟩
-- `SEQ.CTL` (08_movement_engines)
abbrev SEQ_CTL_ENABLE : Fld := ⟨0x0, 0, 1, .rw, 0, false⟩
abbrev SEQ_CTL_PROFILE : Fld := ⟨0x0, 2, 2, .lck, 0, false⟩
-- `SEQ.STATUS` (08_movement_engines)
abbrev SEQ_STATUS_REFUSED : Fld := ⟨0x4, 0, 1, .ro, 0, false⟩
abbrev SEQ_STATUS_REASON : Fld := ⟨0x4, 16, 16, .ro, 0, false⟩
-- `SYN.CTL` (08_movement_engines)
abbrev SYN_CTL_ENABLE : Fld := ⟨0x0, 0, 1, .rw, 0, false⟩
abbrev SYN_CTL_PROFILE : Fld := ⟨0x0, 2, 2, .lck, 0, false⟩
-- `SYN.STATUS` (08_movement_engines)
abbrev SYN_STATUS_REFUSED : Fld := ⟨0x4, 0, 1, .ro, 0, false⟩
abbrev SYN_STATUS_IGNORED : Fld := ⟨0x4, 8, 8, .w1k, 0, false⟩
abbrev SYN_STATUS_REASON : Fld := ⟨0x4, 16, 16, .ro, 0, false⟩
-- `DMA.CTL` (08_movement_engines)
abbrev DMA_CTL_ENABLE : Fld := ⟨0x0, 0, 1, .rw, 0, false⟩
abbrev DMA_CTL_PROFILE : Fld := ⟨0x0, 2, 2, .lck, 0, false⟩
-- `DMA.STATUS` (08_movement_engines)
abbrev DMA_STATUS_REFUSED : Fld := ⟨0x4, 0, 1, .ro, 0, false⟩
abbrev DMA_STATUS_REASON : Fld := ⟨0x4, 16, 16, .ro, 0, false⟩
-- `SEQ.Q` (08_movement_engines)
abbrev SEQ_Q_POS : Fld := ⟨0x10, 0, 24, .ro, 0, false⟩
abbrev SEQ_Q_CTX : Fld := ⟨0x10, 24, 5, .ro, 0, false⟩
abbrev SEQ_Q_BUSY : Fld := ⟨0x10, 29, 1, .ro, 0, false⟩
-- `SEQ.QOCC` (08_movement_engines)
abbrev SEQ_QOCC_OCC : Fld := ⟨0x14, 0, 5, .ro, 0, false⟩
-- `DMA.M` (08_movement_engines)
abbrev DMA_M_POS : Fld := ⟨0x10, 0, 24, .ro, 0, false⟩
abbrev DMA_M_CTX : Fld := ⟨0x10, 24, 5, .ro, 0, false⟩
abbrev DMA_M_BUSY : Fld := ⟨0x10, 29, 1, .ro, 0, false⟩
-- `SYN.BAR` (08_movement_engines)
abbrev SYN_BAR_ARRIVED : Fld := ⟨0x400, 0, 11, .ro, 0, false⟩
abbrev SYN_BAR_GEN : Fld := ⟨0x400, 11, 1, .ro, 0, false⟩
abbrev SYN_BAR_MEMBERS : Fld := ⟨0x400, 16, 16, .ro, 0, false⟩
-- `SYN.CTR` (08_movement_engines)
abbrev SYN_CTR_VALUE : Fld := ⟨0x1000, 0, 32, .rw, 0, false⟩
-- `MEM.CTL` (09_memory_and_posted_writes)
abbrev MEM_CTL_ENABLE : Fld := ⟨0x0, 0, 1, .rw, 0, true⟩
abbrev MEM_CTL_EXPERT : Fld := ⟨0x0, 1, 1, .lck, 0, true⟩
abbrev MEM_CTL_PROFILE : Fld := ⟨0x0, 2, 2, .lck, 0, true⟩
abbrev MEM_CTL_MODE : Fld := ⟨0x0, 4, 2, .lck, 0, true⟩
abbrev MEM_CTL_SCRUB_H : Fld := ⟨0x0, 8, 8, .lck, 0, true⟩
-- `MEM.STATUS` (09_memory_and_posted_writes)
abbrev MEM_STATUS_REFUSED : Fld := ⟨0x4, 0, 1, .ro, 0, false⟩
abbrev MEM_STATUS_TRAINED : Fld := ⟨0x4, 1, 2, .ro, 0, false⟩
abbrev MEM_STATUS_MODE_EFF : Fld := ⟨0x4, 3, 2, .ro, 0, false⟩
abbrev MEM_STATUS_REASON : Fld := ⟨0x4, 16, 16, .ro, 0, false⟩
-- `MEM.ECC` (09_memory_and_posted_writes)
abbrev MEM_ECC_SP_CORR : Fld := ⟨0x8, 0, 16, .w1k, 0, false⟩
abbrev MEM_ECC_HBM_CORR : Fld := ⟨0x8, 16, 16, .w1k, 0, false⟩
-- `MEM.POISON` (09_memory_and_posted_writes)
abbrev MEM_POISON_MADE : Fld := ⟨0xc, 0, 16, .w1k, 0, false⟩
abbrev MEM_POISON_READS : Fld := ⟨0xc, 16, 16, .w1k, 0, false⟩
-- `MEM.SCRUB` (09_memory_and_posted_writes)
abbrev MEM_SCRUB_PASSES : Fld := ⟨0x18, 0, 16, .ro, 0, false⟩
-- `MEM.LAST_UE_LO` (09_memory_and_posted_writes)
abbrev MEM_LAST_UE_LO_PA : Fld := ⟨0x10, 0, 32, .ro, 0, false⟩
-- `MEM.LAST_UE_HI` (09_memory_and_posted_writes)
abbrev MEM_LAST_UE_HI_PA : Fld := ⟨0x14, 0, 16, .ro, 0, false⟩
-- `MEM.PWSTAT` (09_memory_and_posted_writes)
abbrev MEM_PWSTAT_EPOCH : Fld := ⟨0x100, 0, 1, .ro, 0, false⟩
abbrev MEM_PWSTAT_FENCING : Fld := ⟨0x100, 1, 1, .ro, 0, false⟩
abbrev MEM_PWSTAT_FOLDED : Fld := ⟨0x100, 2, 1, .w1c, 0, false⟩
abbrev MEM_PWSTAT_FAIL_COUNT : Fld := ⟨0x100, 16, 16, .w1k, 0, false⟩
-- `MEM.FIRST_TAG` (09_memory_and_posted_writes)
abbrev MEM_FIRST_TAG_TAG : Fld := ⟨0x104, 0, 16, .ro, 0, false⟩
abbrev MEM_FIRST_TAG_CAUSE : Fld := ⟨0x104, 16, 8, .ro, 0, false⟩
abbrev MEM_FIRST_TAG_VALID : Fld := ⟨0x104, 24, 1, .ro, 0, false⟩
-- `MEM.FIRST_PA_LO` (09_memory_and_posted_writes)
abbrev MEM_FIRST_PA_LO_ADDR : Fld := ⟨0x108, 0, 32, .ro, 0, false⟩
-- `MEM.FIRST_PA_HI` (09_memory_and_posted_writes)
abbrev MEM_FIRST_PA_HI_ADDR : Fld := ⟨0x10c, 0, 20, .ro, 0, false⟩
-- `PCI.CTL` (10_crown_host_and_network)
abbrev PCI_CTL_ENABLE : Fld := ⟨0x0, 0, 1, .rw, 0, true⟩
abbrev PCI_CTL_EXPERT : Fld := ⟨0x0, 1, 1, .lck, 0, true⟩
abbrev PCI_CTL_PROFILE : Fld := ⟨0x0, 2, 2, .lck, 0, true⟩
abbrev PCI_CTL_RD_LIMIT : Fld := ⟨0x0, 16, 16, .lck, 0, true⟩
-- `PCI.STATUS` (10_crown_host_and_network)
abbrev PCI_STATUS_REFUSED : Fld := ⟨0x4, 0, 1, .ro, 0, false⟩
abbrev PCI_STATUS_LINK_UP : Fld := ⟨0x4, 1, 1, .ro, 0, false⟩
abbrev PCI_STATUS_WIDTH : Fld := ⟨0x4, 2, 3, .ro, 0, false⟩
abbrev PCI_STATUS_SPEED : Fld := ⟨0x4, 5, 3, .ro, 0, false⟩
abbrev PCI_STATUS_MS_BAD_ACCESS : Fld := ⟨0x4, 8, 8, .w1k, 0, false⟩
abbrev PCI_STATUS_REASON : Fld := ⟨0x4, 16, 16, .ro, 0, false⟩
-- `PCI.ERR` (10_crown_host_and_network)
abbrev PCI_ERR_MS_UNREACH : Fld := ⟨0x8, 0, 8, .w1k, 0, false⟩
abbrev PCI_ERR_RD_ABORT : Fld := ⟨0x8, 8, 8, .w1k, 0, false⟩
abbrev PCI_ERR_CPL_TO : Fld := ⟨0x8, 16, 8, .w1k, 0, false⟩
abbrev PCI_ERR_OUTSIDE : Fld := ⟨0x8, 24, 8, .w1k, 0, false⟩
-- `PCI.EVT` (10_crown_host_and_network)
abbrev PCI_EVT_CAUSE : Fld := ⟨0xc, 0, 8, .w1c, 0, false⟩
abbrev PCI_EVT_RING : Fld := ⟨0xc, 8, 16, .w1c, 0, false⟩
-- `PCI.EVT_CTX` (10_crown_host_and_network)
abbrev PCI_EVT_CTX_CTX : Fld := ⟨0x10, 0, 32, .w1c, 0, false⟩
-- `PCI.BAR2_AP` (10_crown_host_and_network)
abbrev PCI_BAR2_AP_BASE : Fld := ⟨0x40, 0, 16, .rw, 0, false⟩
abbrev PCI_BAR2_AP_VALID : Fld := ⟨0x40, 16, 1, .rw, 0, false⟩
-- `PCI.RING_BASE_LO` (10_crown_host_and_network)
abbrev PCI_RING_BASE_LO : Fld := ⟨0x100, 0, 32, .rw, 0, false⟩
-- `PCI.RING_BASE_HI` (10_crown_host_and_network)
abbrev PCI_RING_BASE_HI : Fld := ⟨0x104, 0, 32, .rw, 0, false⟩
-- `PCI.RING_CFG` (10_crown_host_and_network)
abbrev PCI_RING_CFG_EN : Fld := ⟨0x108, 0, 1, .rw, 0, false⟩
abbrev PCI_RING_CFG_LOG2_N : Fld := ⟨0x108, 4, 4, .rw, 0, false⟩
-- `PCI.RING_HEAD` (10_crown_host_and_network)
abbrev PCI_RING_HEAD_HEAD : Fld := ⟨0x10c, 0, 15, .ro, 0, false⟩
-- `PCI.RING_TAIL` (10_crown_host_and_network)
abbrev PCI_RING_TAIL_TAIL : Fld := ⟨0x110, 0, 15, .rw, 0, false⟩
-- `PCI.RING_DROPPED` (10_crown_host_and_network)
abbrev PCI_RING_DROPPED_DROPPED : Fld := ⟨0x114, 0, 32, .w1k, 0, false⟩
-- `ETH.TBL_SEL` (10_crown_host_and_network)
abbrev ETH_TBL_SEL_SPACE : Fld := ⟨0x40, 0, 2, .rw, 0, false⟩
abbrev ETH_TBL_SEL_BANK : Fld := ⟨0x40, 2, 1, .rw, 0, false⟩
abbrev ETH_TBL_SEL_DIR : Fld := ⟨0x40, 3, 1, .rw, 0, false⟩
abbrev ETH_TBL_SEL_SLOT : Fld := ⟨0x40, 4, 2, .rw, 0, false⟩
abbrev ETH_TBL_SEL_CHUNK : Fld := ⟨0x40, 8, 4, .rw, 0, false⟩
-- `ETH.TBL_IDX` (10_crown_host_and_network)
abbrev ETH_TBL_IDX_INDEX : Fld := ⟨0x44, 0, 14, .rw, 0, false⟩
-- `ETH.TBL_DATA` (10_crown_host_and_network)
abbrev ETH_TBL_DATA_DATA : Fld := ⟨0x50, 0, 32, .ro, 0, false⟩
-- `ETHP.CTL` (10_crown_host_and_network)
abbrev ETHP_CTL_ENABLE : Fld := ⟨0x0, 0, 1, .rw, 0, true⟩
abbrev ETHP_CTL_EXPERT : Fld := ⟨0x0, 1, 1, .lck, 0, true⟩
abbrev ETHP_CTL_PROFILE : Fld := ⟨0x0, 2, 2, .lck, 0, true⟩
abbrev ETHP_CTL_UNTAGGED : Fld := ⟨0x0, 4, 1, .lck, 0, true⟩
abbrev ETHP_CTL_MAX_FRAME : Fld := ⟨0x0, 16, 14, .lck, 0, true⟩
-- `ETHP.STATUS` (10_crown_host_and_network)
abbrev ETHP_STATUS_LINK : Fld := ⟨0x4, 0, 1, .ro, 0, false⟩
abbrev ETHP_STATUS_AN_DONE : Fld := ⟨0x4, 1, 1, .ro, 0, false⟩
abbrev ETHP_STATUS_FEC_LOCK : Fld := ⟨0x4, 2, 1, .ro, 0, false⟩
abbrev ETHP_STATUS_REFUSED : Fld := ⟨0x4, 3, 1, .ro, 0, false⟩
abbrev ETHP_STATUS_REASON : Fld := ⟨0x4, 16, 16, .ro, 0, false⟩
-- `ETHP.DROP` (10_crown_host_and_network)
abbrev ETHP_DROP_ERR : Fld := ⟨0x8, 0, 8, .w1k, 0, false⟩
abbrev ETHP_DROP_FILT : Fld := ⟨0x8, 8, 8, .w1k, 0, false⟩
abbrev ETHP_DROP_IP : Fld := ⟨0x8, 16, 8, .w1k, 0, false⟩
-- `ETHP.REJECT` (10_crown_host_and_network)
abbrev ETHP_REJECT_COUNT : Fld := ⟨0xc, 0, 32, .w1k, 0, false⟩
-- `ETHP.RX_OK` (10_crown_host_and_network)
abbrev ETHP_RX_OK_COUNT : Fld := ⟨0x10, 0, 32, .w1k, 0, false⟩
-- `PTP.CTL` (10_crown_host_and_network)
abbrev PTP_CTL_ENABLE : Fld := ⟨0x0, 0, 1, .rw, 0, true⟩
abbrev PTP_CTL_EXPERT : Fld := ⟨0x0, 1, 1, .lck, 0, true⟩
abbrev PTP_CTL_PROFILE : Fld := ⟨0x0, 2, 2, .lck, 0, true⟩
abbrev PTP_CTL_PORTS : Fld := ⟨0x0, 4, 4, .lck, 0, true⟩
abbrev PTP_CTL_DOMAIN : Fld := ⟨0x0, 8, 8, .lck, 0, true⟩
-- `PTP.STATUS` (10_crown_host_and_network)
abbrev PTP_STATUS_REFUSED : Fld := ⟨0x4, 0, 1, .ro, 0, false⟩
abbrev PTP_STATUS_SEL_PORT_VALID : Fld := ⟨0x4, 1, 1, .ro, 0, false⟩
abbrev PTP_STATUS_SEL_PORT : Fld := ⟨0x4, 2, 2, .ro, 0, false⟩
abbrev PTP_STATUS_OFFSET : Fld := ⟨0x4, 4, 12, .ro, 0, false⟩
abbrev PTP_STATUS_REASON : Fld := ⟨0x4, 16, 16, .ro, 0, false⟩
-- `PTP.UTC` (10_crown_host_and_network)
abbrev PTP_UTC_OFFSET : Fld := ⟨0x8, 0, 16, .lck, 0, true⟩
abbrev PTP_UTC_IN_USE : Fld := ⟨0x8, 16, 16, .ro, 0, false⟩
-- `PTP.GM` (10_crown_host_and_network)
abbrev PTP_GM_INACC : Fld := ⟨0xc, 0, 32, .ro, 0, false⟩
-- `PTP.DELAY` (10_crown_host_and_network)
abbrev PTP_DELAY_RX : Fld := ⟨0x10, 0, 16, .fuse, 0, false⟩
abbrev PTP_DELAY_TX : Fld := ⟨0x10, 16, 16, .fuse, 0, false⟩
-- `FUS.CTL` (11_fusion_front_end)
abbrev FUS_CTL_ENABLE : Fld := ⟨0x0, 0, 1, .rw, 0, true⟩
abbrev FUS_CTL_EXPERT : Fld := ⟨0x0, 1, 1, .lck, 0, true⟩
abbrev FUS_CTL_PROFILE : Fld := ⟨0x0, 2, 2, .lck, 0, true⟩
-- `FUS.STATUS` (11_fusion_front_end)
abbrev FUS_STATUS_REFUSED : Fld := ⟨0x4, 0, 1, .ro, 0, false⟩
abbrev FUS_STATUS_REASON : Fld := ⟨0x4, 16, 16, .ro, 0, false⟩
-- `FUS.BUF` (11_fusion_front_end)
abbrev FUS_BUF_USED : Fld := ⟨0x8, 0, 19, .ro, 0, false⟩
-- `FUS.COUNT` (11_fusion_front_end)
abbrev FUS_COUNT_FROZEN : Fld := ⟨0xc, 0, 18, .ro, 0, false⟩
abbrev FUS_COUNT_MODE_BAD : Fld := ⟨0xc, 18, 6, .w1k, 0, false⟩
abbrev FUS_COUNT_TRK_FULL : Fld := ⟨0xc, 24, 8, .w1k, 0, false⟩
-- `FUS.TBL_SPACE` (11_fusion_front_end)
abbrev FUS_TBL_SPACE_SPACE : Fld := ⟨0x10, 0, 2, .rw, 0, false⟩
-- `FUS.TBL_INDEX` (11_fusion_front_end)
abbrev FUS_TBL_INDEX_INDEX : Fld := ⟨0x14, 0, 18, .rw, 0, false⟩
-- `FUS.TBL_DATA` (11_fusion_front_end)
abbrev FUS_TBL_DATA_DATA : Fld := ⟨0x40, 0, 32, .rw, 0, false⟩
-- `FUS.PAR_LAMBDA` (11_fusion_front_end)
abbrev FUS_PAR_LAMBDA : Fld := ⟨0x80, 0, 32, .arm, 1065336439, false⟩
-- `FUS.PAR_P0` (11_fusion_front_end)
abbrev FUS_PAR_P0 : Fld := ⟨0x84, 0, 32, .arm, 1008981770, false⟩
-- `FUS.PAR_RATE_MAG` (11_fusion_front_end)
abbrev FUS_PAR_RATE_MAG : Fld := ⟨0x88, 0, 32, .arm, 953267991, false⟩
-- `FUS.PAR_RATE_PH` (11_fusion_front_end)
abbrev FUS_PAR_RATE_PH : Fld := ⟨0x8c, 0, 32, .arm, 953267991, false⟩
-- `FUS.PAR_B_MAG` (11_fusion_front_end)
abbrev FUS_PAR_B_MAG : Fld := ⟨0x90, 0, 32, .arm, 1028443341, false⟩
-- `FUS.PAR_B_PH` (11_fusion_front_end)
abbrev FUS_PAR_B_PH : Fld := ⟨0x94, 0, 32, .arm, 1035123357, false⟩
-- `FUS.PAR_BETA` (11_fusion_front_end)
abbrev FUS_PAR_BETA : Fld := ⟨0x98, 0, 32, .arm, 1065185444, false⟩
-- `FUS.PAR_GATE` (11_fusion_front_end)
abbrev FUS_PAR_GATE : Fld := ⟨0xa0, 0, 32, .arm, 1098907648, false⟩
-- `FUS.PAR_W_S` (11_fusion_front_end)
abbrev FUS_PAR_W_S : Fld := ⟨0xa4, 0, 32, .arm, 1090519040, false⟩
-- `FUS.PAR_EPS` (11_fusion_front_end)
abbrev FUS_PAR_EPS : Fld := ⟨0xa8, 0, 32, .arm, 1008981770, false⟩
-- `FUS.PAR_Q_F` (11_fusion_front_end)
abbrev FUS_PAR_Q_F : Fld := ⟨0xac, 0, 32, .arm, 953267991, false⟩
-- `FUS.PAR_Q_Z` (11_fusion_front_end)
abbrev FUS_PAR_Q_Z : Fld := ⟨0xb0, 0, 32, .arm, 897988541, false⟩
-- `FUS.PAR_PR_F` (11_fusion_front_end)
abbrev FUS_PAR_PR_F : Fld := ⟨0xb4, 0, 32, .arm, 1008981770, false⟩
-- `FUS.PAR_PR_Z` (11_fusion_front_end)
abbrev FUS_PAR_PR_Z : Fld := ⟨0xb8, 0, 32, .arm, 953267991, false⟩
-- `FUS.MODE_CFG` (11_fusion_front_end)
abbrev FUS_MODE_CFG_ITER_MAX : Fld := ⟨0xc0, 0, 16, .arm, 8192, false⟩
abbrev FUS_MODE_CFG_CONFIRM_N : Fld := ⟨0xc0, 16, 4, .arm, 3, false⟩
abbrev FUS_MODE_CFG_COAST_N : Fld := ⟨0xc0, 20, 8, .arm, 10, false⟩
-- `FUS.MODE_CFG2` (11_fusion_front_end)
abbrev FUS_MODE_CFG2_MODE_TAG : Fld := ⟨0xc4, 0, 14, .arm, 0, true⟩
abbrev FUS_MODE_CFG2_MODE_VALID : Fld := ⟨0xc4, 31, 1, .arm, 0, true⟩
-- `FUS.TRK_AREA` (11_fusion_front_end)
abbrev FUS_TRK_AREA_AREA : Fld := ⟨0xc8, 0, 19, .arm, 0, true⟩
-- `FUS.ALIGN` (11_fusion_front_end)
abbrev FUS_ALIGN_TQ_MAX : Fld := ⟨0xcc, 0, 4, .arm, 5, false⟩
-- `FUS.GRP_LAST_K` (11_fusion_front_end)
abbrev FUS_GRP_LAST_K_LAST_K : Fld := ⟨0x100, 0, 32, .ro, 0, false⟩
-- `FUS.GRP_MISSING` (11_fusion_front_end)
abbrev FUS_GRP_MISSING_MISSING : Fld := ⟨0x104, 0, 32, .ro, 0, false⟩
-- `FUS.GRP_SKIP` (11_fusion_front_end)
abbrev FUS_GRP_SKIP_SKIP : Fld := ⟨0x108, 0, 16, .w1k, 0, false⟩
abbrev FUS_GRP_SKIP_REPEAT : Fld := ⟨0x108, 16, 16, .w1k, 0, false⟩
-- `FUS.GRP_STALE` (11_fusion_front_end)
abbrev FUS_GRP_STALE_RES_STALE : Fld := ⟨0x10c, 0, 16, .w1k, 0, false⟩
abbrev FUS_GRP_STALE_COMPLETE : Fld := ⟨0x10c, 16, 16, .w1k, 0, false⟩
-- `LDG.CTL` (12_interval_ledger)
abbrev LDG_CTL_ENABLE : Fld := ⟨0x0, 0, 1, .rw, 0, true⟩
abbrev LDG_CTL_EXPERT : Fld := ⟨0x0, 1, 1, .lck, 0, true⟩
abbrev LDG_CTL_PROFILE : Fld := ⟨0x0, 2, 3, .lck, 0, true⟩
-- `LDG.STATUS` (12_interval_ledger)
abbrev LDG_STATUS_REFUSED : Fld := ⟨0x4, 0, 1, .ro, 0, false⟩
abbrev LDG_STATUS_STATE : Fld := ⟨0x4, 1, 3, .ro, 0, false⟩
abbrev LDG_STATUS_FRAM_FAULT : Fld := ⟨0x4, 4, 1, .w1c, 0, false⟩
abbrev LDG_STATUS_HOLDOVER : Fld := ⟨0x4, 5, 1, .ro, 0, false⟩
abbrev LDG_STATUS_TORN : Fld := ⟨0x4, 6, 1, .w1c, 0, false⟩
abbrev LDG_STATUS_REASON : Fld := ⟨0x4, 16, 16, .ro, 0, false⟩
-- `LDG.INTERVAL` (12_interval_ledger)
abbrev LDG_INTERVAL_LEN : Fld := ⟨0x8, 0, 3, .lck, 0, true⟩
abbrev LDG_INTERVAL_INT_OFFSET : Fld := ⟨0x8, 16, 16, .lck, 0, true⟩
-- `LDG.FRAM` (12_interval_ledger)
abbrev LDG_FRAM_SCLK_MHZ : Fld := ⟨0xc, 0, 6, .lck, 0, true⟩
abbrev LDG_FRAM_VERIFY : Fld := ⟨0xc, 6, 1, .lck, 0, true⟩
abbrev LDG_FRAM_HOLDUP_MS : Fld := ⟨0xc, 8, 8, .lck, 0, true⟩
-- `LDG.IN` (12_interval_ledger)
abbrev LDG_IN_TAG : Fld := ⟨0x10, 0, 14, .arm, 0, true⟩
abbrev LDG_IN_VALID : Fld := ⟨0x10, 31, 1, .arm, 0, true⟩
-- `LDG.IN_AREA` (12_interval_ledger)
abbrev LDG_IN_AREA_AREA : Fld := ⟨0x14, 0, 19, .arm, 0, true⟩
-- `LDG.OUT_AREA` (12_interval_ledger)
abbrev LDG_OUT_AREA_AREA : Fld := ⟨0x18, 0, 19, .arm, 0, true⟩
-- `LDG.CUR_LO` (12_interval_ledger)
abbrev LDG_CUR_LO_CUR : Fld := ⟨0x1c, 0, 32, .ro, 0, false⟩
-- `LDG.CUR_HI` (12_interval_ledger)
abbrev LDG_CUR_HI_CUR : Fld := ⟨0x20, 0, 32, .ro, 0, false⟩
-- `LDG.SEQ` (12_interval_ledger)
abbrev LDG_SEQ : Fld := ⟨0x24, 0, 32, .ro, 0, false⟩
-- `LDG.COUNT` (12_interval_ledger)
abbrev LDG_COUNT_LATE : Fld := ⟨0x28, 0, 16, .w1k, 0, false⟩
abbrev LDG_COUNT_VERIFY_FAIL : Fld := ⟨0x28, 16, 8, .w1k, 0, false⟩
abbrev LDG_COUNT_DISCARDED : Fld := ⟨0x28, 24, 8, .w1k, 0, false⟩
-- `LDG.COUNT2` (12_interval_ledger)
abbrev LDG_COUNT2_SKIPPED : Fld := ⟨0x2c, 0, 16, .w1k, 0, false⟩
-- `LDG.TBL_SPACE` (12_interval_ledger)
abbrev LDG_TBL_SPACE_SPACE : Fld := ⟨0x40, 0, 3, .rw, 0, false⟩
abbrev LDG_TBL_SPACE_BUSY : Fld := ⟨0x40, 3, 1, .ro, 0, false⟩
-- `LDG.TBL_INDEX` (12_interval_ledger)
abbrev LDG_TBL_INDEX_INDEX : Fld := ⟨0x44, 0, 12, .rw, 0, false⟩
-- `LDG.TBL_DATA` (12_interval_ledger)
abbrev LDG_TBL_DATA_DATA : Fld := ⟨0x80, 0, 32, .rw, 0, false⟩
-- `BOOT.CTL` (14_start_up_and_trust)
abbrev BOOT_CTL_ENABLE : Fld := ⟨0x0, 0, 1, .rw, 0, true⟩
abbrev BOOT_CTL_EXPERT : Fld := ⟨0x0, 1, 1, .lck, 0, true⟩
abbrev BOOT_CTL_PROFILE : Fld := ⟨0x0, 2, 2, .lck, 0, true⟩
abbrev BOOT_CTL_HBM_TRIES : Fld := ⟨0x0, 4, 3, .lck, 0, true⟩
abbrev BOOT_CTL_RESTART : Fld := ⟨0x0, 8, 1, .wo, 0, false⟩
-- `BOOT.STATUS` (14_start_up_and_trust)
abbrev BOOT_STATUS_REFUSED : Fld := ⟨0x4, 0, 1, .ro, 0, false⟩
abbrev BOOT_STATUS_FLASH_DONE : Fld := ⟨0x4, 1, 1, .ro, 0, false⟩
abbrev BOOT_STATUS_CFG_COPY : Fld := ⟨0x4, 2, 1, .ro, 0, false⟩
abbrev BOOT_STATUS_IMG_SRC : Fld := ⟨0x4, 3, 1, .ro, 0, false⟩
abbrev BOOT_STATUS_PHASE : Fld := ⟨0x4, 4, 4, .ro, 0, false⟩
abbrev BOOT_STATUS_REASON : Fld := ⟨0x4, 16, 16, .ro, 0, false⟩
-- `BOOT.HALT` (14_start_up_and_trust)
abbrev BOOT_HALT_HALT_RC : Fld := ⟨0x8, 0, 16, .ro, 0, false⟩
abbrev BOOT_HALT_HALT_PHASE : Fld := ⟨0x8, 16, 4, .ro, 0, false⟩
-- `BOOT.MON` (14_start_up_and_trust)
abbrev BOOT_MON_GOOD : Fld := ⟨0xc, 0, 4, .ro, 0, false⟩
abbrev BOOT_MON_BAND : Fld := ⟨0xc, 4, 4, .w1c, 0, false⟩
abbrev BOOT_MON_HU_LOW : Fld := ⟨0xc, 8, 1, .w1c, 0, false⟩
-- `BOOT.STRAP` (14_start_up_and_trust)
abbrev BOOT_STRAP_PKG_ID : Fld := ⟨0x10, 0, 4, .ro, 0, false⟩
abbrev BOOT_STRAP_REF_SEL : Fld := ⟨0x10, 4, 1, .ro, 0, false⟩
-- `BOOT.FLASH` (14_start_up_and_trust)
abbrev BOOT_FLASH_DENSITY : Fld := ⟨0x14, 0, 6, .ro, 0, false⟩
abbrev BOOT_FLASH_CLK_MHZ : Fld := ⟨0x14, 6, 8, .ro, 0, false⟩
abbrev BOOT_FLASH_ERASE : Fld := ⟨0x14, 14, 5, .ro, 0, false⟩
abbrev BOOT_FLASH_CR1_FLASH : Fld := ⟨0x14, 19, 1, .ro, 0, false⟩
-- `BOOT.IMG_LEN` (14_start_up_and_trust)
abbrev BOOT_IMG_LEN : Fld := ⟨0x58, 0, 32, .rw, 0, false⟩
-- `BOOT.IMG_CTL` (14_start_up_and_trust)
abbrev BOOT_IMG_CTL_LOAD : Fld := ⟨0x5c, 0, 1, .wo, 0, false⟩
abbrev BOOT_IMG_CTL_UNLOAD : Fld := ⟨0x5c, 1, 1, .wo, 0, false⟩
-- `BOOT.IMG_STATUS` (14_start_up_and_trust)
abbrev BOOT_IMG_STATUS_FAILED_CHECK : Fld := ⟨0x60, 0, 4, .ro, 0, false⟩
abbrev BOOT_IMG_STATUS_IMG_RC : Fld := ⟨0x60, 16, 16, .ro, 0, false⟩
-- `BOOT.STEP` (14_start_up_and_trust)
abbrev BOOT_STEP : Fld := ⟨0x20, 0, 24, .ro, 0, false⟩
-- `BOOT.IMG_PA_LO` (14_start_up_and_trust)
abbrev BOOT_IMG_PA_LO_PA : Fld := ⟨0x50, 0, 32, .rw, 0, false⟩
-- `BOOT.IMG_PA_HI` (14_start_up_and_trust)
abbrev BOOT_IMG_PA_HI_PA : Fld := ⟨0x54, 0, 16, .rw, 0, false⟩
-- `BOOT.ACT_TURN_LO` (14_start_up_and_trust)
abbrev BOOT_ACT_TURN_LO_TURN : Fld := ⟨0x64, 0, 32, .ro, 0, false⟩
-- `BOOT.ACT_TURN_HI` (14_start_up_and_trust)
abbrev BOOT_ACT_TURN_HI_TURN : Fld := ⟨0x68, 0, 11, .ro, 0, false⟩
-- `BOOT.FL_ADDR` (14_start_up_and_trust)
abbrev BOOT_FL_ADDR : Fld := ⟨0x80, 0, 26, .rw, 0, false⟩
-- `BOOT.FL_CMD` (14_start_up_and_trust)
abbrev BOOT_FL_CMD_CMD : Fld := ⟨0x84, 0, 3, .rw, 0, false⟩
abbrev BOOT_FL_CMD_GO : Fld := ⟨0x84, 3, 1, .wo, 0, false⟩
abbrev BOOT_FL_CMD_BUSY : Fld := ⟨0x84, 4, 1, .ro, 0, false⟩
abbrev BOOT_FL_CMD_ERR : Fld := ⟨0x84, 5, 1, .w1c, 0, false⟩
-- `BOOT.FL_DATA` (14_start_up_and_trust)
abbrev BOOT_FL_DATA_DATA : Fld := ⟨0x100, 0, 32, .rw, 0, false⟩
-- `SEC.ROOT_HASH` (14_start_up_and_trust)
abbrev SEC_ROOT_HASH : Fld := ⟨0x0, 0, 32, .fuse, 0, false⟩
-- `SEC.DEVICE_ID` (14_start_up_and_trust)
abbrev SEC_DEVICE_ID : Fld := ⟨0x30, 0, 32, .fuse, 0, false⟩
-- `SEC.MIN` (14_start_up_and_trust)
abbrev SEC_MIN : Fld := ⟨0x40, 0, 7, .fuse, 0, false⟩
-- `SEC.VERSION` (14_start_up_and_trust)
abbrev SEC_VERSION : Fld := ⟨0x50, 0, 32, .ro, 0, false⟩
-- `SEC.RB_COMMIT` (14_start_up_and_trust)
abbrev SEC_RB_COMMIT_CTR : Fld := ⟨0x60, 0, 2, .rw, 0, false⟩
abbrev SEC_RB_COMMIT_VALUE : Fld := ⟨0x60, 2, 7, .rw, 0, false⟩
abbrev SEC_RB_COMMIT_BUSY : Fld := ⟨0x60, 30, 1, .ro, 0, false⟩
abbrev SEC_RB_COMMIT_GO : Fld := ⟨0x60, 31, 1, .wo, 0, false⟩
-- `SEC.DBG` (14_start_up_and_trust)
abbrev SEC_DBG_SCOPE : Fld := ⟨0x70, 0, 3, .ro, 0, false⟩
abbrev SEC_DBG_LOCK : Fld := ⟨0x70, 8, 1, .wo, 0, false⟩
-- `SEC.DBG_LEFT` (14_start_up_and_trust)
abbrev SEC_DBG_LEFT_LEFT : Fld := ⟨0x74, 0, 32, .ro, 0, false⟩
-- `SEC.DBG_NONCE` (14_start_up_and_trust)
abbrev SEC_DBG_NONCE : Fld := ⟨0x80, 0, 32, .ro, 0, false⟩
-- `SEC.DBG_TOKEN` (14_start_up_and_trust)
abbrev SEC_DBG_TOKEN : Fld := ⟨0x100, 0, 32, .wo, 0, false⟩
-- `SEC.DBG_GO` (14_start_up_and_trust)
abbrev SEC_DBG_GO_GO : Fld := ⟨0x250, 0, 1, .wo, 0, false⟩
-- `RCV.CTL` (16_faults_and_recovery)
abbrev RCV_CTL_ENABLE : Fld := ⟨0x0, 0, 1, .ro, 0, false⟩
abbrev RCV_CTL_EXPERT : Fld := ⟨0x0, 1, 1, .lck, 0, true⟩
abbrev RCV_CTL_PROFILE : Fld := ⟨0x0, 2, 2, .lck, 0, true⟩
-- `RCV.STATUS` (16_faults_and_recovery)
abbrev RCV_STATUS_REFUSED : Fld := ⟨0x4, 0, 1, .ro, 0, false⟩
abbrev RCV_STATUS_LEVEL : Fld := ⟨0x4, 1, 3, .ro, 0, false⟩
abbrev RCV_STATUS_OOS : Fld := ⟨0x4, 4, 1, .ro, 0, false⟩
abbrev RCV_STATUS_PWRCYC : Fld := ⟨0x4, 5, 1, .ro, 0, false⟩
abbrev RCV_STATUS_REPLAY : Fld := ⟨0x4, 6, 1, .ro, 0, false⟩
abbrev RCV_STATUS_OUT_LOST : Fld := ⟨0x4, 7, 9, .w1k, 0, false⟩
abbrev RCV_STATUS_REASON : Fld := ⟨0x4, 16, 16, .ro, 0, false⟩
-- `RCV.OOSCFG` (16_faults_and_recovery)
abbrev RCV_OOSCFG_CHIP_MAX : Fld := ⟨0x8, 0, 4, .lck, 4, false⟩
abbrev RCV_OOSCFG_WIN_S : Fld := ⟨0x8, 8, 17, .lck, 3600, false⟩
-- `RCV.OOS` (16_faults_and_recovery)
abbrev RCV_OOS_COUNT : Fld := ⟨0xc, 0, 4, .ro, 0, false⟩
abbrev RCV_OOS_CLEAR : Fld := ⟨0xc, 8, 1, .wo, 0, false⟩
abbrev RCV_OOS_TOTAL : Fld := ⟨0xc, 16, 16, .ro, 0, false⟩
-- `RCV.PARAM` (16_faults_and_recovery)
abbrev RCV_PARAM_SAMPLE_KIB : Fld := ⟨0x10, 0, 7, .lck, 16, false⟩
abbrev RCV_PARAM_REPLAY_LIM : Fld := ⟨0x10, 8, 8, .lck, 16, false⟩
abbrev RCV_PARAM_CTX_REPEAT : Fld := ⟨0x10, 16, 4, .lck, 3, false⟩
-- `RCV.MISSED` (16_faults_and_recovery)
abbrev RCV_MISSED : Fld := ⟨0x14, 0, 16, .ro, 0, false⟩
abbrev RCV_MISSED_WDOG : Fld := ⟨0x14, 16, 2, .w1c, 0, false⟩
-- `RCV.LAST` (16_faults_and_recovery)
abbrev RCV_LAST_LAST_RC : Fld := ⟨0x18, 0, 16, .ro, 0, false⟩
abbrev RCV_LAST_LAST_CAUSE : Fld := ⟨0x18, 16, 8, .ro, 0, false⟩
abbrev RCV_LAST_LAST_DIE : Fld := ⟨0x18, 24, 3, .ro, 0, false⟩
-- `RCV.FAULTED` (16_faults_and_recovery)
abbrev RCV_FAULTED : Fld := ⟨0x24, 0, 32, .ro, 0, false⟩
-- `RCV.HELD` (16_faults_and_recovery)
abbrev RCV_HELD : Fld := ⟨0x28, 0, 32, .ro, 0, false⟩
-- `RCV.CTX_RELEASE` (16_faults_and_recovery)
abbrev RCV_CTX_RELEASE : Fld := ⟨0x2c, 0, 32, .wo, 0, false⟩
-- `RCV.CULPRIT` (16_faults_and_recovery)
abbrev RCV_CULPRIT : Fld := ⟨0x30, 0, 32, .w1c, 0, false⟩
-- `RCV.INCONCL` (16_faults_and_recovery)
abbrev RCV_INCONCL : Fld := ⟨0x34, 0, 32, .w1c, 0, false⟩
-- `RCV.FORCE` (16_faults_and_recovery)
abbrev RCV_FORCE_LEVEL : Fld := ⟨0x40, 0, 3, .rw, 0, false⟩
abbrev RCV_FORCE_DIE : Fld := ⟨0x40, 4, 3, .rw, 0, false⟩
abbrev RCV_FORCE_ENGINE : Fld := ⟨0x40, 8, 4, .rw, 0, false⟩
abbrev RCV_FORCE_GO : Fld := ⟨0x40, 31, 1, .wo, 0, false⟩
-- `RCV.LAST_BEAT_LO` (16_faults_and_recovery)
abbrev RCV_LAST_BEAT_LO_BEAT : Fld := ⟨0x1c, 0, 32, .ro, 0, false⟩
-- `RCV.LAST_BEAT_HI` (16_faults_and_recovery)
abbrev RCV_LAST_BEAT_HI_BEAT : Fld := ⟨0x20, 0, 32, .ro, 0, false⟩
-- `RCV.SUSPECT` (16_faults_and_recovery)
abbrev RCV_SUSPECT_MASK : Fld := ⟨0x80, 0, 32, .ro, 0, false⟩
-- `RCV.DUMP` (16_faults_and_recovery)
abbrev RCV_DUMP_SEQ : Fld := ⟨0x84, 0, 16, .ro, 0, false⟩
abbrev RCV_DUMP_SLOT : Fld := ⟨0x84, 16, 4, .ro, 0, false⟩
-- `RCV.HIST_LO` (16_faults_and_recovery)
abbrev RCV_HIST_LO_BEAT : Fld := ⟨0x100, 0, 32, .ro, 0, false⟩
-- `RCV.HIST_HI` (16_faults_and_recovery)
abbrev RCV_HIST_HI_BEAT : Fld := ⟨0x104, 0, 32, .ro, 0, false⟩
-- `LOG.STATUS` (16_faults_and_recovery)
abbrev LOG_STATUS_HEAD : Fld := ⟨0x0, 0, 12, .ro, 0, false⟩
abbrev LOG_STATUS_WRAPPED : Fld := ⟨0x0, 12, 1, .ro, 0, false⟩
-- `LOG.COUNT` (16_faults_and_recovery)
abbrev LOG_COUNT : Fld := ⟨0x4, 0, 32, .ro, 0, false⟩

/-- The registers of one `CFG` instance. -/
def cfgRows0 : List RegRow :=
  [⟨0x10, 1, 0x4, 1, 4, [CFG_VARIANT, CFG_VARIANT_STRAP, CFG_VARIANT_MISMATCH, CFG_VARIANT_SAMPLED, CFG_VARIANT_SILICON_REV]⟩,
   ⟨0x20, 4, 0x4, 1, 4, [CFG_DIE_ID_ID]⟩,
   ⟨0x0, 1, 0x4, 1, 4, [CFG_LAST_REASON_REASON, CFG_LAST_REASON_DIE, CFG_LAST_REASON_BLOCK, CFG_LAST_REASON_INSTANCE]⟩,
   ⟨0x4, 1, 0x4, 1, 4, [CFG_REFUSALS_COUNT]⟩,
   ⟨0x30, 1, 0x4, 1, 4, [CFG_SHADOW_PENDING, CFG_SHADOW_CLASS, CFG_SHADOW_FROZEN]⟩,
   ⟨0x40, 1, 0x4, 1, 4, [CFG_ARM_GO, CFG_ARM_DISCARD, CFG_ARM_SCOPE, CFG_ARM_BY_TAI, CFG_ARM_BANK, CFG_ARM_HACK_LEN, CFG_ARM_STATE, CFG_ARM_SET_ID]⟩,
   ⟨0x44, 1, 0x4, 1, 4, [CFG_COMMIT_TURN_LO_TURN]⟩,
   ⟨0x48, 1, 0x4, 1, 4, [CFG_COMMIT_TURN_HI_TURN]⟩,
   ⟨0x4c, 1, 0x4, 1, 4, [CFG_COMMIT_TAI_LO_TAI]⟩,
   ⟨0x50, 1, 0x4, 1, 4, [CFG_COMMIT_TAI_HI_TAI]⟩,
   ⟨0x54, 1, 0x4, 1, 4, [CFG_ARM_STATUS_REASON, CFG_ARM_STATUS_CONFIRMED, CFG_ARM_STATUS_CLASS, CFG_ARM_STATUS_DISAGREE, CFG_ARM_STATUS_LATE_WR]⟩,
   ⟨0x58, 1, 0x4, 1, 4, [CFG_ARM_TRAY_PKG_OK, CFG_ARM_TRAY_PKG_NEEDED]⟩]
/-- More of `CFG`. -/
def cfgRows1 : List RegRow :=
  [⟨0x100, 64, 0x8, 1, 4, [CFG_STAGE_OFF_OFFSET, CFG_STAGE_OFF_VALID]⟩,
   ⟨0x104, 64, 0x8, 1, 4, [CFG_STAGE_VAL_VALUE]⟩,
   ⟨0x300, 1, 0x4, 1, 4, [CFG_PAD_CTL_ENABLE, CFG_PAD_CTL_EXPERT, CFG_PAD_CTL_PROFILE, CFG_PAD_CTL_FL_DRV, CFG_PAD_CTL_LD_DRV, CFG_PAD_CTL_MGMT_FAST]⟩,
   ⟨0x304, 1, 0x4, 1, 4, [CFG_PAD_STATUS_REFUSED, CFG_PAD_STATUS_ZREF_BAD, CFG_PAD_STATUS_REASON]⟩]
/-- All registers of one `CFG` instance. -/
def cfgRows : List RegRow := cfgRows0 ++ cfgRows1

/-- The registers of one `BAL` instance. -/
def balRows0 : List RegRow :=
  [⟨0x0, 1, 0x4, 1, 4, [BAL_CTL_ENABLE, BAL_CTL_EXPERT, BAL_CTL_PROFILE, BAL_CTL_MASTER_PKG]⟩,
   ⟨0x4, 1, 0x4, 1, 4, [BAL_STATUS_REFUSED, BAL_STATUS_REF_OK, BAL_STATUS_PLL_LOCK, BAL_STATUS_BEAT_VALID, BAL_STATUS_IS_MASTER, BAL_STATUS_TAI_VALID, BAL_STATUS_HOLDOVER, BAL_STATUS_SYNC_LOST, BAL_STATUS_HACK_ACTIVE, BAL_STATUS_CDC_STALE, BAL_STATUS_REASON]⟩,
   ⟨0x8, 1, 0x4, 1, 4, [BAL_BEAT_LO_BEAT]⟩,
   ⟨0xc, 1, 0x4, 1, 4, [BAL_BEAT_HI_BEAT]⟩,
   ⟨0x10, 1, 0x4, 1, 4, [BAL_REF_SRC, BAL_REF_SYNTONISE, BAL_REF_ACTIVE_PORT, BAL_REF_PORT_VALID, BAL_REF_SYNC_PORTS, BAL_REF_HOPS, BAL_REF_PHASE_ERR]⟩,
   ⟨0x14, 1, 0x4, 1, 4, [BAL_LOAD_DELTA_LO_DELTA]⟩,
   ⟨0x18, 1, 0x4, 1, 4, [BAL_LOAD_DELTA_HI_DELTA]⟩,
   ⟨0x1c, 1, 0x4, 1, 4, [BAL_LOADS]⟩,
   ⟨0x30, 1, 0x4, 1, 4, [BAL_ANCHOR_BEAT_LO]⟩,
   ⟨0x34, 1, 0x4, 1, 4, [BAL_ANCHOR_BEAT_HI]⟩,
   ⟨0x38, 1, 0x4, 1, 4, [BAL_ANCHOR_TAI_LO]⟩,
   ⟨0x3c, 1, 0x4, 1, 4, [BAL_ANCHOR_TAI_HI]⟩]
/-- More of `BAL`. -/
def balRows1 : List RegRow :=
  [⟨0x40, 1, 0x4, 1, 4, [BAL_RATE]⟩,
   ⟨0x50, 1, 0x4, 1, 4, [BAL_CDC_STALE_COUNT, BAL_CDC_LAST_INST, BAL_CDC_LAST_BLOCK, BAL_CDC_LAST_KIND]⟩,
   ⟨0x54, 1, 0x4, 1, 4, [BAL_HACK_WIN_START, BAL_HACK_HACK_MAX, BAL_HACK_COUNT]⟩]
/-- All registers of one `BAL` instance. -/
def balRows : List RegRow := balRows0 ++ balRows1

/-- The registers of one `PWR` instance. -/
def pwrRows : List RegRow :=
  [⟨0x0, 1, 0x4, 1, 4, [PWR_CTL_ENABLE, PWR_CTL_EXPERT, PWR_CTL_PROFILE]⟩,
   ⟨0x4, 1, 0x4, 1, 4, [PWR_STATUS_REFUSED, PWR_STATUS_PF, PWR_STATUS_LEDGER_ONLY, PWR_STATUS_THSD, PWR_STATUS_FLOOR, PWR_STATUS_REASON]⟩,
   ⟨0x8, 1, 0x4, 1, 4, [PWR_BUDGET, PWR_BUDGET_IN_EFFECT]⟩,
   ⟨0xc, 1, 0x4, 1, 4, [PWR_RESERVE, PWR_RESERVE_FLOORS]⟩,
   ⟨0x10, 1, 0x4, 1, 4, [PWR_DOM_ON, PWR_DOM_STATE]⟩,
   ⟨0x14, 1, 0x4, 1, 4, [PWR_ADM_WAIT_LIMIT]⟩,
   ⟨0x18, 1, 0x4, 1, 4, [PWR_TOKEN_MATRIX, PWR_TOKEN_SCAN, PWR_TOKEN_HOST, PWR_TOKEN_RECAL]⟩,
   ⟨0x1c, 1, 0x4, 1, 4, [PWR_FLOOR_MV_FLOOR, PWR_FLOOR_CR_FLOOR]⟩,
   ⟨0x20, 1, 0x4, 1, 4, [PWR_COUNT_LOST, PWR_COUNT_WAIT_FAIL, PWR_COUNT_GRANTED]⟩,
   ⟨0x40, 6, 0x8, 1, 4, [PWR_DIE_A_ALLOW, PWR_DIE_A_HELD]⟩,
   ⟨0x44, 6, 0x8, 1, 4, [PWR_DIE_B_MEAS, PWR_DIE_B_DEMAND]⟩,
   ⟨0x80, 18, 0x4, 1, 4, [PWR_RAIL_MV, PWR_RAIL_LOW, PWR_RAIL_HIGH]⟩]

/-- The registers of one `THM` instance. -/
def thmRows : List RegRow :=
  [⟨0x0, 1, 0x4, 1, 4, [THM_CTL_ENABLE, THM_CTL_EXPERT, THM_CTL_PROFILE]⟩,
   ⟨0x4, 1, 0x4, 1, 4, [THM_STATUS_REFUSED, THM_STATUS_THROT, THM_STATUS_TRIP, THM_STATUS_STALE, THM_STATUS_REASON]⟩,
   ⟨0x8, 1, 0x4, 1, 4, [THM_TEMP_TJ, THM_TEMP_TJ_MAX, THM_TEMP_HBM0, THM_TEMP_HBM1]⟩,
   ⟨0xc, 1, 0x4, 1, 4, [THM_LIMIT_THROT_C, THM_LIMIT_HYST]⟩]

/-- The registers of one `IKL` instance. -/
def iklRows0 : List RegRow :=
  [⟨0x0, 1, 0x4, 1, 4, [IKL_PHY_CTL_ENABLE, IKL_PHY_CTL_EXPERT, IKL_PHY_CTL_PROFILE, IKL_PHY_CTL_MODE, IKL_PHY_CTL_SWING, IKL_PHY_CTL_PATTERN]⟩,
   ⟨0x4, 1, 0x4, 1, 4, [IKL_PHY_STATUS_REFUSED, IKL_PHY_STATUS_MODCLK_OK, IKL_PHY_STATUS_SB_UP, IKL_PHY_STATUS_LEAD, IKL_PHY_STATUS_REASON]⟩,
   ⟨0x8, 1, 0x4, 1, 4, [IKL_BUNDLE_EN_EN]⟩,
   ⟨0xc, 1, 0x4, 1, 4, [IKL_CK_FAIL_FAIL, IKL_CK_FAIL_CK_OK]⟩,
   ⟨0x10, 1, 0x4, 1, 4, [IKL_SB_ERR_CRC_ERR, IKL_SB_ERR_MARKER_ERR]⟩,
   ⟨0x20, 1, 0x4, 1, 4, [IKL_CAL_CTL_ENABLE, IKL_CAL_CTL_EXPERT, IKL_CAL_CTL_PROFILE, IKL_CAL_CTL_DWELL, IKL_CAL_CTL_LT_FULL, IKL_CAL_CTL_LT_SEEDED]⟩,
   ⟨0x24, 1, 0x4, 1, 4, [IKL_CAL_STATUS_REFUSED, IKL_CAL_STATUS_DONE, IKL_CAL_STATUS_MODE, IKL_CAL_STATUS_TIME, IKL_CAL_STATUS_REASON]⟩,
   ⟨0x28, 1, 0x4, 1, 4, [IKL_RECAL_BUNDLE, IKL_RECAL_GO, IKL_RECAL_STATE]⟩,
   ⟨0x34, 1, 0x4, 1, 4, [IKL_ERR_CFG_WINDOW, IKL_ERR_CFG_THRESH]⟩,
   ⟨0x38, 1, 0x4, 1, 4, [IKL_ERR_CFG2_T_THRESH, IKL_ERR_CFG2_J_THRESH]⟩,
   ⟨0x3c, 1, 0x4, 1, 4, [IKL_LINK_ERR_UNCORR, IKL_LINK_ERR_LOCATE]⟩,
   ⟨0x80, 1, 0x4, 1, 4, [IKL_LL_CTL_ENABLE, IKL_LL_CTL_EXPERT, IKL_LL_CTL_PROFILE, IKL_LL_CTL_REPLAY_MAX, IKL_LL_CTL_TRAIN_MAX]⟩]
/-- More of `IKL`. -/
def iklRows1 : List RegRow :=
  [⟨0x84, 1, 0x4, 1, 4, [IKL_LL_STATUS_REFUSED, IKL_LL_STATUS_UC_QUIESCE, IKL_LL_STATUS_STATE, IKL_LL_STATUS_ATTEMPTS, IKL_LL_STATUS_REASON]⟩,
   ⟨0x88, 1, 0x4, 1, 4, [IKL_PIN_LATENCY, IKL_PIN_ARRIVAL]⟩,
   ⟨0x94, 1, 0x4, 1, 4, [IKL_FEC_CORR_CORR]⟩,
   ⟨0x98, 1, 0x4, 1, 4, [IKL_SC_ERR_RESENT, IKL_SC_ERR_DOUBLE]⟩,
   ⟨0x9c, 1, 0x4, 1, 4, [IKL_UC_ERR_REPLAY, IKL_UC_ERR_TIMEOUT, IKL_UC_ERR_LIMIT]⟩,
   ⟨0xa8, 1, 0x4, 1, 4, [IKL_LL_ERR_BAD_CLASS, IKL_LL_ERR_TAG_MISMATCH, IKL_LL_ERR_BAD_MTYPE, IKL_LL_ERR_SB_REPEAT]⟩,
   ⟨0x2c, 1, 0x4, 1, 4, [IKL_RECAL_TURN_LO_TURN]⟩,
   ⟨0x30, 1, 0x4, 1, 4, [IKL_RECAL_TURN_HI_TURN]⟩,
   ⟨0x8c, 2, 0x4, 1, 4, [IKL_PIN_DEPTH_DEPTH0, IKL_PIN_DEPTH_DEPTH1, IKL_PIN_DEPTH_DEPTH2, IKL_PIN_DEPTH_DEPTH3, IKL_PIN_DEPTH_DEPTH4, IKL_PIN_DEPTH_DEPTH5, IKL_PIN_DEPTH_DEPTH6, IKL_PIN_DEPTH_DEPTH7]⟩,
   ⟨0xa0, 1, 0x4, 1, 4, [IKL_CREDIT_POOL_RSP, IKL_CREDIT_POOL_PW, IKL_CREDIT_POOL_MSG, IKL_CREDIT_POOL_REQ]⟩,
   ⟨0xa4, 1, 0x4, 1, 4, [IKL_CREDIT_AVAIL_RSP, IKL_CREDIT_AVAIL_PW, IKL_CREDIT_AVAIL_MSG, IKL_CREDIT_AVAIL_REQ]⟩,
   ⟨0x100, 16, 0x100, 1, 4, [IKL_BPHY_CK_OK, IKL_BPHY_MARKER_LOCK, IKL_BPHY_LEAD, IKL_BPHY_RETIRED, IKL_BPHY_CAL_OUT, IKL_BPHY_CK_DEV]⟩]
/-- More of `IKL`. -/
def iklRows2 : List RegRow :=
  [⟨0x120, 16, 0x100, 1, 4, [IKL_LANEMAP_J0_TGT, IKL_LANEMAP_J0_BAD, IKL_LANEMAP_J1_TGT, IKL_LANEMAP_J1_BAD, IKL_LANEMAP_RETIRED]⟩,
   ⟨0x124, 16, 0x100, 1, 4, [IKL_LANEMAP_TX_J0_TGT, IKL_LANEMAP_TX_J0_BAD, IKL_LANEMAP_TX_J1_TGT, IKL_LANEMAP_TX_J1_BAD, IKL_LANEMAP_TX_RETIRED]⟩,
   ⟨0x128, 16, 0x100, 1, 4, [IKL_FUSEMAP_J0_TGT, IKL_FUSEMAP_J0_BAD, IKL_FUSEMAP_J1_TGT, IKL_FUSEMAP_J1_BAD]⟩,
   ⟨0x12c, 16, 0x100, 1, 4, [IKL_FUSEMAP_TX_J0_TGT, IKL_FUSEMAP_TX_J0_BAD, IKL_FUSEMAP_TX_J1_TGT, IKL_FUSEMAP_TX_J1_BAD]⟩,
   ⟨0x130, 16, 0x100, 1, 4, [IKL_BADMASK_BAD]⟩,
   ⟨0x134, 16, 0x100, 1, 4, [IKL_EYE_SUM_MIN_W, IKL_EYE_SUM_MIN_H, IKL_EYE_SUM_WORST]⟩,
   ⟨0x140, 16, 0x100, 21, 8, [IKL_COEF_DELAY, IKL_COEF_THRESH, IKL_COEF_CTLE, IKL_COEF_DFE1, IKL_COEF_DFE2, IKL_COEF_VALID]⟩,
   ⟨0x144, 16, 0x100, 21, 8, [IKL_EYE_EYE_W, IKL_EYE_EYE_H, IKL_EYE_LB, IKL_EYE_FLOOR_FAIL, IKL_EYE_WIN_ERR]⟩]
/-- All registers of one `IKL` instance. -/
def iklRows : List RegRow := iklRows0 ++ iklRows1 ++ iklRows2

/-- The registers of one `GTR` instance. -/
def gtrRows : List RegRow :=
  [⟨0x0, 1, 0x4, 1, 4, [GTR_CTL_ENABLE, GTR_CTL_EXPERT, GTR_CTL_PROFILE]⟩,
   ⟨0x4, 1, 0x4, 1, 4, [GTR_STATUS_REFUSED, GTR_STATUS_ACTIVE_BANK, GTR_STATUS_VARIANT, GTR_STATUS_NOFIT, GTR_STATUS_LATE, GTR_STATUS_ACTIVE_WR, GTR_STATUS_REASON]⟩,
   ⟨0x1c, 1, 0x4, 1, 4, [GTR_ARB_MSG_N, GTR_ARB_REQ_N]⟩,
   ⟨0x20, 1, 0x4, 1, 4, [GTR_NOTICE_RECEIVED, GTR_NOTICE_FORWARDED]⟩,
   ⟨0x80, 1, 0x4, 1, 4, [GTR_TBL_SEL_SPACE, GTR_TBL_SEL_BANK, GTR_TBL_SEL_DIR, GTR_TBL_SEL_SLOT]⟩,
   ⟨0x84, 1, 0x4, 1, 4, [GTR_TBL_IDX_INDEX]⟩,
   ⟨0x8, 1, 0x4, 1, 4, [GTR_SWITCH_LO_TURN]⟩,
   ⟨0xc, 1, 0x4, 1, 4, [GTR_SWITCH_HI_TURN]⟩,
   ⟨0x10, 3, 0x4, 1, 4, [GTR_LOSS_LOST]⟩,
   ⟨0x40, 4, 0x4, 1, 4, [GTR_MARGIN_PLUS, GTR_MARGIN_MINUS]⟩,
   ⟨0x90, 4, 0x4, 1, 4, [GTR_TBL_DATA_DATA]⟩]

/-- The registers of one `TRY` instance. -/
def tryRows : List RegRow :=
  [⟨0x0, 1, 0x4, 1, 4, [TRY_CTL_ENABLE, TRY_CTL_EXPERT, TRY_CTL_START_WIN]⟩,
   ⟨0x4, 1, 0x4, 1, 4, [TRY_TRAY_ID]⟩,
   ⟨0x8, 1, 0x4, 1, 4, [TRY_STATUS_REFUSED, TRY_STATUS_WIN_DONE, TRY_STATUS_TVARIANT, TRY_STATUS_PKG_ID, TRY_STATUS_REASON]⟩,
   ⟨0xc, 1, 0x4, 1, 4, [TRY_MISSING]⟩,
   ⟨0x10, 4, 0x4, 1, 4, [TRY_TLOSS_LOST]⟩,
   ⟨0x40, 1, 0x4, 1, 4, [TRY_TBL_SEL_SPACE, TRY_TBL_SEL_BANK, TRY_TBL_SEL_DIR, TRY_TBL_SEL_SLOT]⟩,
   ⟨0x44, 1, 0x4, 1, 4, [TRY_TBL_IDX_INDEX]⟩,
   ⟨0x50, 4, 0x4, 1, 4, [TRY_TBL_DATA_DATA]⟩]

/-- The registers of one `TRYP` instance. -/
def trypRows0 : List RegRow :=
  [⟨0x0, 1, 0x4, 1, 4, [TRYP_PORT_CTL_ENABLE, TRYP_PORT_CTL_EXPERT, TRYP_PORT_CTL_PROFILE, TRYP_PORT_CTL_PEER_PKG, TRYP_PORT_CTL_PEER_PORT, TRYP_PORT_CTL_PEER_VALID]⟩,
   ⟨0x4, 1, 0x4, 1, 4, [TRYP_PORT_STATUS_REFUSED, TRYP_PORT_STATUS_PRESENT, TRYP_PORT_STATUS_SIGNAL, TRYP_PORT_STATUS_ID_OK, TRYP_PORT_STATUS_ID_MISMATCH, TRYP_PORT_STATUS_TLOST, TRYP_PORT_STATUS_SEEN_PKG, TRYP_PORT_STATUS_SEEN_PORT, TRYP_PORT_STATUS_SEEN_VALID, TRYP_PORT_STATUS_REASON]⟩,
   ⟨0x8, 1, 0x4, 1, 4, [TRYP_LAT_LAT_BUDGET, TRYP_LAT_ARRIVAL]⟩,
   ⟨0xc, 1, 0x4, 1, 4, [TRYP_RETRY_LAST_RC, TRYP_RETRY_BACKOFF, TRYP_RETRY_ATTEMPTS]⟩,
   ⟨0x10, 1, 0x4, 1, 4, [TRYP_FEC_CORR_CW, TRYP_FEC_UNCORR_CW]⟩,
   ⟨0x14, 1, 0x4, 1, 4, [TRYP_ERR_CFG_WINDOW, TRYP_ERR_CFG_THRESH]⟩,
   ⟨0x80, 1, 0x4, 1, 4, [TRYP_LL_CTL_ENABLE, TRYP_LL_CTL_EXPERT, TRYP_LL_CTL_PROFILE, TRYP_LL_CTL_REPLAY_MAX, TRYP_LL_CTL_TRAIN_MAX]⟩,
   ⟨0x84, 1, 0x4, 1, 4, [TRYP_LL_STATUS_REFUSED, TRYP_LL_STATUS_UC_QUIESCE, TRYP_LL_STATUS_STATE, TRYP_LL_STATUS_ATTEMPTS, TRYP_LL_STATUS_REASON]⟩,
   ⟨0x94, 1, 0x4, 1, 4, [TRYP_FEC_CORR_CORR]⟩,
   ⟨0x98, 1, 0x4, 1, 4, [TRYP_SC_ERR_RESENT, TRYP_SC_ERR_DOUBLE]⟩,
   ⟨0x9c, 1, 0x4, 1, 4, [TRYP_UC_ERR_REPLAY, TRYP_UC_ERR_TIMEOUT, TRYP_UC_ERR_LIMIT]⟩,
   ⟨0xa8, 1, 0x4, 1, 4, [TRYP_LL_ERR_BAD_CLASS, TRYP_LL_ERR_TAG_MISMATCH, TRYP_LL_ERR_BAD_MTYPE, TRYP_LL_ERR_SB_REPEAT]⟩]
/-- More of `TRYP`. -/
def trypRows1 : List RegRow :=
  [⟨0x88, 1, 0x4, 1, 4, [TRYP_PIN_LATENCY, TRYP_PIN_ARRIVAL]⟩,
   ⟨0x8c, 1, 0x4, 1, 4, [TRYP_PIN_DEPTH_DEPTH0]⟩,
   ⟨0xa0, 1, 0x4, 1, 4, [TRYP_CREDIT_POOL_RSP, TRYP_CREDIT_POOL_PW, TRYP_CREDIT_POOL_MSG, TRYP_CREDIT_POOL_REQ]⟩,
   ⟨0xa4, 1, 0x4, 1, 4, [TRYP_CREDIT_AVAIL_RSP, TRYP_CREDIT_AVAIL_PW, TRYP_CREDIT_AVAIL_MSG, TRYP_CREDIT_AVAIL_REQ]⟩,
   ⟨0x100, 1, 0x4, 1, 4, [TRYP_LANEMAP_SPARE_TGT, TRYP_LANEMAP_SPARE_BAD, TRYP_LANEMAP_RETIRED]⟩,
   ⟨0x104, 1, 0x4, 1, 4, [TRYP_LANEMAP_TX_SPARE_TGT, TRYP_LANEMAP_TX_SPARE_BAD, TRYP_LANEMAP_TX_RETIRED]⟩,
   ⟨0x108, 1, 0x4, 1, 4, [TRYP_FUSEMAP_SPARE_TGT, TRYP_FUSEMAP_SPARE_BAD]⟩,
   ⟨0x110, 9, 0x8, 1, 4, [TRYP_COEF_TXPRE, TRYP_COEF_TXPOST, TRYP_COEF_CTLE, TRYP_COEF_VALID]⟩,
   ⟨0x114, 9, 0x8, 1, 4, [TRYP_EYE_SNR, TRYP_EYE_FLOOR_FAIL, TRYP_EYE_WIN_ERR]⟩]
/-- All registers of one `TRYP` instance. -/
def trypRows : List RegRow := trypRows0 ++ trypRows1

/-- The registers of one `ENG` instance. -/
def engRows : List RegRow :=
  [⟨0x0, 1, 0x4, 1, 4, [ENG_CTL_ENABLE, ENG_CTL_EXPERT, ENG_CTL_PROFILE]⟩,
   ⟨0x4, 1, 0x4, 1, 4, [ENG_STATUS_REFUSED, ENG_STATUS_FAULT, ENG_STATUS_REASON]⟩,
   ⟨0x8, 1, 0x4, 1, 4, [ENG_DOORBELL_CTX, ENG_DOORBELL_RING]⟩,
   ⟨0xc, 1, 0x4, 1, 4, [ENG_HEAVY_HEAVY_MIN]⟩,
   ⟨0x100, 32, 0x10, 1, 4, [ENG_CTX_STATE_STATE, ENG_CTX_STATE_KIND, ENG_CTX_STATE_DROPPED, ENG_CTX_STATE_ENGMASK]⟩,
   ⟨0x104, 32, 0x10, 1, 4, [ENG_CTX_FAULT_CAUSE, ENG_CTX_FAULT_ENGINE, ENG_CTX_FAULT_RC]⟩,
   ⟨0x108, 32, 0x10, 1, 4, [ENG_CTX_CHKPT_POS_POS]⟩,
   ⟨0x10c, 32, 0x10, 1, 4, [ENG_CTX_CHKPT_BEAT_BEAT]⟩,
   ⟨0x400, 16, 0x4, 1, 4, [ENG_E_CUR_CTX, ENG_E_BUSY, ENG_E_IDLE_RUN, ENG_E_DEFERRED]⟩]

/-- The registers of one `SEQ` instance. -/
def seqRows : List RegRow :=
  [⟨0x0, 1, 0x4, 1, 4, [SEQ_CTL_ENABLE, SEQ_CTL_PROFILE]⟩,
   ⟨0x4, 1, 0x4, 1, 4, [SEQ_STATUS_REFUSED, SEQ_STATUS_REASON]⟩,
   ⟨0x10, 2, 0x10, 1, 4, [SEQ_Q_POS, SEQ_Q_CTX, SEQ_Q_BUSY]⟩,
   ⟨0x14, 2, 0x10, 1, 4, [SEQ_QOCC_OCC]⟩]

/-- The registers of one `SYN` instance. -/
def synRows : List RegRow :=
  [⟨0x0, 1, 0x4, 1, 4, [SYN_CTL_ENABLE, SYN_CTL_PROFILE]⟩,
   ⟨0x4, 1, 0x4, 1, 4, [SYN_STATUS_REFUSED, SYN_STATUS_IGNORED, SYN_STATUS_REASON]⟩,
   ⟨0x400, 256, 0x4, 1, 4, [SYN_BAR_ARRIVED, SYN_BAR_GEN, SYN_BAR_MEMBERS]⟩,
   ⟨0x1000, 4096, 0x4, 1, 4, [SYN_CTR_VALUE]⟩]

/-- The registers of one `DMA` instance. -/
def dmaRows : List RegRow :=
  [⟨0x0, 1, 0x4, 1, 4, [DMA_CTL_ENABLE, DMA_CTL_PROFILE]⟩,
   ⟨0x4, 1, 0x4, 1, 4, [DMA_STATUS_REFUSED, DMA_STATUS_REASON]⟩,
   ⟨0x10, 4, 0x4, 1, 4, [DMA_M_POS, DMA_M_CTX, DMA_M_BUSY]⟩]

/-- The registers of one `MEM` instance. -/
def memRows : List RegRow :=
  [⟨0x0, 1, 0x4, 1, 4, [MEM_CTL_ENABLE, MEM_CTL_EXPERT, MEM_CTL_PROFILE, MEM_CTL_MODE, MEM_CTL_SCRUB_H]⟩,
   ⟨0x4, 1, 0x4, 1, 4, [MEM_STATUS_REFUSED, MEM_STATUS_TRAINED, MEM_STATUS_MODE_EFF, MEM_STATUS_REASON]⟩,
   ⟨0x8, 1, 0x4, 1, 4, [MEM_ECC_SP_CORR, MEM_ECC_HBM_CORR]⟩,
   ⟨0xc, 1, 0x4, 1, 4, [MEM_POISON_MADE, MEM_POISON_READS]⟩,
   ⟨0x18, 1, 0x4, 1, 4, [MEM_SCRUB_PASSES]⟩,
   ⟨0x10, 1, 0x4, 1, 4, [MEM_LAST_UE_LO_PA]⟩,
   ⟨0x14, 1, 0x4, 1, 4, [MEM_LAST_UE_HI_PA]⟩,
   ⟨0x100, 32, 0x10, 1, 4, [MEM_PWSTAT_EPOCH, MEM_PWSTAT_FENCING, MEM_PWSTAT_FOLDED, MEM_PWSTAT_FAIL_COUNT]⟩,
   ⟨0x104, 32, 0x10, 1, 4, [MEM_FIRST_TAG_TAG, MEM_FIRST_TAG_CAUSE, MEM_FIRST_TAG_VALID]⟩,
   ⟨0x108, 32, 0x10, 1, 4, [MEM_FIRST_PA_LO_ADDR]⟩,
   ⟨0x10c, 32, 0x10, 1, 4, [MEM_FIRST_PA_HI_ADDR]⟩]

/-- The registers of one `PCI` instance. -/
def pciRows : List RegRow :=
  [⟨0x0, 1, 0x4, 1, 4, [PCI_CTL_ENABLE, PCI_CTL_EXPERT, PCI_CTL_PROFILE, PCI_CTL_RD_LIMIT]⟩,
   ⟨0x4, 1, 0x4, 1, 4, [PCI_STATUS_REFUSED, PCI_STATUS_LINK_UP, PCI_STATUS_WIDTH, PCI_STATUS_SPEED, PCI_STATUS_MS_BAD_ACCESS, PCI_STATUS_REASON]⟩,
   ⟨0x8, 1, 0x4, 1, 4, [PCI_ERR_MS_UNREACH, PCI_ERR_RD_ABORT, PCI_ERR_CPL_TO, PCI_ERR_OUTSIDE]⟩,
   ⟨0xc, 1, 0x4, 1, 4, [PCI_EVT_CAUSE, PCI_EVT_RING]⟩,
   ⟨0x10, 1, 0x4, 1, 4, [PCI_EVT_CTX_CTX]⟩,
   ⟨0x40, 16, 0x4, 1, 4, [PCI_BAR2_AP_BASE, PCI_BAR2_AP_VALID]⟩,
   ⟨0x100, 16, 0x20, 1, 4, [PCI_RING_BASE_LO]⟩,
   ⟨0x104, 16, 0x20, 1, 4, [PCI_RING_BASE_HI]⟩,
   ⟨0x108, 16, 0x20, 1, 4, [PCI_RING_CFG_EN, PCI_RING_CFG_LOG2_N]⟩,
   ⟨0x10c, 16, 0x20, 1, 4, [PCI_RING_HEAD_HEAD]⟩,
   ⟨0x110, 16, 0x20, 1, 4, [PCI_RING_TAIL_TAIL]⟩,
   ⟨0x114, 16, 0x20, 1, 4, [PCI_RING_DROPPED_DROPPED]⟩]

/-- The registers of one `ETH` instance. -/
def ethRows : List RegRow :=
  [⟨0x40, 1, 0x4, 1, 4, [ETH_TBL_SEL_SPACE, ETH_TBL_SEL_BANK, ETH_TBL_SEL_DIR, ETH_TBL_SEL_SLOT, ETH_TBL_SEL_CHUNK]⟩,
   ⟨0x44, 1, 0x4, 1, 4, [ETH_TBL_IDX_INDEX]⟩,
   ⟨0x50, 4, 0x4, 1, 4, [ETH_TBL_DATA_DATA]⟩]

/-- The registers of one `ETHP` instance. -/
def ethpRows : List RegRow :=
  [⟨0x0, 1, 0x4, 1, 4, [ETHP_CTL_ENABLE, ETHP_CTL_EXPERT, ETHP_CTL_PROFILE, ETHP_CTL_UNTAGGED, ETHP_CTL_MAX_FRAME]⟩,
   ⟨0x4, 1, 0x4, 1, 4, [ETHP_STATUS_LINK, ETHP_STATUS_AN_DONE, ETHP_STATUS_FEC_LOCK, ETHP_STATUS_REFUSED, ETHP_STATUS_REASON]⟩,
   ⟨0x8, 1, 0x4, 1, 4, [ETHP_DROP_ERR, ETHP_DROP_FILT, ETHP_DROP_IP]⟩,
   ⟨0xc, 1, 0x4, 1, 4, [ETHP_REJECT_COUNT]⟩,
   ⟨0x10, 1, 0x4, 1, 4, [ETHP_RX_OK_COUNT]⟩]

/-- The registers of one `PTP` instance. -/
def ptpRows : List RegRow :=
  [⟨0x0, 1, 0x4, 1, 4, [PTP_CTL_ENABLE, PTP_CTL_EXPERT, PTP_CTL_PROFILE, PTP_CTL_PORTS, PTP_CTL_DOMAIN]⟩,
   ⟨0x4, 1, 0x4, 1, 4, [PTP_STATUS_REFUSED, PTP_STATUS_SEL_PORT_VALID, PTP_STATUS_SEL_PORT, PTP_STATUS_OFFSET, PTP_STATUS_REASON]⟩,
   ⟨0x8, 1, 0x4, 1, 4, [PTP_UTC_OFFSET, PTP_UTC_IN_USE]⟩,
   ⟨0xc, 1, 0x4, 1, 4, [PTP_GM_INACC]⟩,
   ⟨0x10, 1, 0x4, 1, 4, [PTP_DELAY_RX, PTP_DELAY_TX]⟩]

/-- The registers of one `FUS` instance. -/
def fusRows0 : List RegRow :=
  [⟨0x0, 1, 0x4, 1, 4, [FUS_CTL_ENABLE, FUS_CTL_EXPERT, FUS_CTL_PROFILE]⟩,
   ⟨0x4, 1, 0x4, 1, 4, [FUS_STATUS_REFUSED, FUS_STATUS_REASON]⟩,
   ⟨0x8, 1, 0x4, 1, 4, [FUS_BUF_USED]⟩,
   ⟨0xc, 1, 0x4, 1, 4, [FUS_COUNT_FROZEN, FUS_COUNT_MODE_BAD, FUS_COUNT_TRK_FULL]⟩,
   ⟨0x10, 1, 0x4, 1, 4, [FUS_TBL_SPACE_SPACE]⟩,
   ⟨0x14, 1, 0x4, 1, 4, [FUS_TBL_INDEX_INDEX]⟩,
   ⟨0x40, 16, 0x4, 1, 4, [FUS_TBL_DATA_DATA]⟩,
   ⟨0x80, 1, 0x4, 1, 4, [FUS_PAR_LAMBDA]⟩,
   ⟨0x84, 1, 0x4, 1, 4, [FUS_PAR_P0]⟩,
   ⟨0x88, 1, 0x4, 1, 4, [FUS_PAR_RATE_MAG]⟩,
   ⟨0x8c, 1, 0x4, 1, 4, [FUS_PAR_RATE_PH]⟩,
   ⟨0x90, 1, 0x4, 1, 4, [FUS_PAR_B_MAG]⟩]
/-- More of `FUS`. -/
def fusRows1 : List RegRow :=
  [⟨0x94, 1, 0x4, 1, 4, [FUS_PAR_B_PH]⟩,
   ⟨0x98, 1, 0x4, 1, 4, [FUS_PAR_BETA]⟩,
   ⟨0xa0, 1, 0x4, 1, 4, [FUS_PAR_GATE]⟩,
   ⟨0xa4, 1, 0x4, 1, 4, [FUS_PAR_W_S]⟩,
   ⟨0xa8, 1, 0x4, 1, 4, [FUS_PAR_EPS]⟩,
   ⟨0xac, 1, 0x4, 1, 4, [FUS_PAR_Q_F]⟩,
   ⟨0xb0, 1, 0x4, 1, 4, [FUS_PAR_Q_Z]⟩,
   ⟨0xb4, 1, 0x4, 1, 4, [FUS_PAR_PR_F]⟩,
   ⟨0xb8, 1, 0x4, 1, 4, [FUS_PAR_PR_Z]⟩,
   ⟨0xc0, 1, 0x4, 1, 4, [FUS_MODE_CFG_ITER_MAX, FUS_MODE_CFG_CONFIRM_N, FUS_MODE_CFG_COAST_N]⟩,
   ⟨0xc4, 1, 0x4, 1, 4, [FUS_MODE_CFG2_MODE_TAG, FUS_MODE_CFG2_MODE_VALID]⟩,
   ⟨0xc8, 1, 0x4, 1, 4, [FUS_TRK_AREA_AREA]⟩]
/-- More of `FUS`. -/
def fusRows2 : List RegRow :=
  [⟨0xcc, 1, 0x4, 1, 4, [FUS_ALIGN_TQ_MAX]⟩,
   ⟨0x100, 16, 0x10, 1, 4, [FUS_GRP_LAST_K_LAST_K]⟩,
   ⟨0x104, 16, 0x10, 1, 4, [FUS_GRP_MISSING_MISSING]⟩,
   ⟨0x108, 16, 0x10, 1, 4, [FUS_GRP_SKIP_SKIP, FUS_GRP_SKIP_REPEAT]⟩,
   ⟨0x10c, 16, 0x10, 1, 4, [FUS_GRP_STALE_RES_STALE, FUS_GRP_STALE_COMPLETE]⟩]
/-- All registers of one `FUS` instance. -/
def fusRows : List RegRow := fusRows0 ++ fusRows1 ++ fusRows2

/-- The registers of one `LDG` instance. -/
def ldgRows0 : List RegRow :=
  [⟨0x0, 1, 0x4, 1, 4, [LDG_CTL_ENABLE, LDG_CTL_EXPERT, LDG_CTL_PROFILE]⟩,
   ⟨0x4, 1, 0x4, 1, 4, [LDG_STATUS_REFUSED, LDG_STATUS_STATE, LDG_STATUS_FRAM_FAULT, LDG_STATUS_HOLDOVER, LDG_STATUS_TORN, LDG_STATUS_REASON]⟩,
   ⟨0x8, 1, 0x4, 1, 4, [LDG_INTERVAL_LEN, LDG_INTERVAL_INT_OFFSET]⟩,
   ⟨0xc, 1, 0x4, 1, 4, [LDG_FRAM_SCLK_MHZ, LDG_FRAM_VERIFY, LDG_FRAM_HOLDUP_MS]⟩,
   ⟨0x10, 1, 0x4, 1, 4, [LDG_IN_TAG, LDG_IN_VALID]⟩,
   ⟨0x14, 1, 0x4, 1, 4, [LDG_IN_AREA_AREA]⟩,
   ⟨0x18, 1, 0x4, 1, 4, [LDG_OUT_AREA_AREA]⟩,
   ⟨0x1c, 1, 0x4, 1, 4, [LDG_CUR_LO_CUR]⟩,
   ⟨0x20, 1, 0x4, 1, 4, [LDG_CUR_HI_CUR]⟩,
   ⟨0x24, 1, 0x4, 1, 4, [LDG_SEQ]⟩,
   ⟨0x28, 1, 0x4, 1, 4, [LDG_COUNT_LATE, LDG_COUNT_VERIFY_FAIL, LDG_COUNT_DISCARDED]⟩,
   ⟨0x2c, 1, 0x4, 1, 4, [LDG_COUNT2_SKIPPED]⟩]
/-- More of `LDG`. -/
def ldgRows1 : List RegRow :=
  [⟨0x40, 1, 0x4, 1, 4, [LDG_TBL_SPACE_SPACE, LDG_TBL_SPACE_BUSY]⟩,
   ⟨0x44, 1, 0x4, 1, 4, [LDG_TBL_INDEX_INDEX]⟩,
   ⟨0x80, 32, 0x4, 1, 4, [LDG_TBL_DATA_DATA]⟩]
/-- All registers of one `LDG` instance. -/
def ldgRows : List RegRow := ldgRows0 ++ ldgRows1

/-- The registers of one `BOOT` instance. -/
def bootRows0 : List RegRow :=
  [⟨0x0, 1, 0x4, 1, 4, [BOOT_CTL_ENABLE, BOOT_CTL_EXPERT, BOOT_CTL_PROFILE, BOOT_CTL_HBM_TRIES, BOOT_CTL_RESTART]⟩,
   ⟨0x4, 1, 0x4, 1, 4, [BOOT_STATUS_REFUSED, BOOT_STATUS_FLASH_DONE, BOOT_STATUS_CFG_COPY, BOOT_STATUS_IMG_SRC, BOOT_STATUS_PHASE, BOOT_STATUS_REASON]⟩,
   ⟨0x8, 1, 0x4, 1, 4, [BOOT_HALT_HALT_RC, BOOT_HALT_HALT_PHASE]⟩,
   ⟨0xc, 1, 0x4, 1, 4, [BOOT_MON_GOOD, BOOT_MON_BAND, BOOT_MON_HU_LOW]⟩,
   ⟨0x10, 1, 0x4, 1, 4, [BOOT_STRAP_PKG_ID, BOOT_STRAP_REF_SEL]⟩,
   ⟨0x14, 1, 0x4, 1, 4, [BOOT_FLASH_DENSITY, BOOT_FLASH_CLK_MHZ, BOOT_FLASH_ERASE, BOOT_FLASH_CR1_FLASH]⟩,
   ⟨0x58, 1, 0x4, 1, 4, [BOOT_IMG_LEN]⟩,
   ⟨0x5c, 1, 0x4, 1, 4, [BOOT_IMG_CTL_LOAD, BOOT_IMG_CTL_UNLOAD]⟩,
   ⟨0x60, 1, 0x4, 1, 4, [BOOT_IMG_STATUS_FAILED_CHECK, BOOT_IMG_STATUS_IMG_RC]⟩,
   ⟨0x20, 11, 0x4, 1, 4, [BOOT_STEP]⟩,
   ⟨0x50, 1, 0x4, 1, 4, [BOOT_IMG_PA_LO_PA]⟩,
   ⟨0x54, 1, 0x4, 1, 4, [BOOT_IMG_PA_HI_PA]⟩]
/-- More of `BOOT`. -/
def bootRows1 : List RegRow :=
  [⟨0x64, 1, 0x4, 1, 4, [BOOT_ACT_TURN_LO_TURN]⟩,
   ⟨0x68, 1, 0x4, 1, 4, [BOOT_ACT_TURN_HI_TURN]⟩,
   ⟨0x80, 1, 0x4, 1, 4, [BOOT_FL_ADDR]⟩,
   ⟨0x84, 1, 0x4, 1, 4, [BOOT_FL_CMD_CMD, BOOT_FL_CMD_GO, BOOT_FL_CMD_BUSY, BOOT_FL_CMD_ERR]⟩,
   ⟨0x100, 64, 0x4, 1, 4, [BOOT_FL_DATA_DATA]⟩]
/-- All registers of one `BOOT` instance. -/
def bootRows : List RegRow := bootRows0 ++ bootRows1

/-- The registers of one `SEC` instance. -/
def secRows : List RegRow :=
  [⟨0x0, 12, 0x4, 1, 4, [SEC_ROOT_HASH]⟩,
   ⟨0x30, 4, 0x4, 1, 4, [SEC_DEVICE_ID]⟩,
   ⟨0x40, 3, 0x4, 1, 4, [SEC_MIN]⟩,
   ⟨0x50, 3, 0x4, 1, 4, [SEC_VERSION]⟩,
   ⟨0x60, 1, 0x4, 1, 4, [SEC_RB_COMMIT_CTR, SEC_RB_COMMIT_VALUE, SEC_RB_COMMIT_BUSY, SEC_RB_COMMIT_GO]⟩,
   ⟨0x70, 1, 0x4, 1, 4, [SEC_DBG_SCOPE, SEC_DBG_LOCK]⟩,
   ⟨0x74, 1, 0x4, 1, 4, [SEC_DBG_LEFT_LEFT]⟩,
   ⟨0x80, 4, 0x4, 1, 4, [SEC_DBG_NONCE]⟩,
   ⟨0x100, 84, 0x4, 1, 4, [SEC_DBG_TOKEN]⟩,
   ⟨0x250, 1, 0x4, 1, 4, [SEC_DBG_GO_GO]⟩]

/-- The registers of one `RCV` instance. -/
def rcvRows0 : List RegRow :=
  [⟨0x0, 1, 0x4, 1, 4, [RCV_CTL_ENABLE, RCV_CTL_EXPERT, RCV_CTL_PROFILE]⟩,
   ⟨0x4, 1, 0x4, 1, 4, [RCV_STATUS_REFUSED, RCV_STATUS_LEVEL, RCV_STATUS_OOS, RCV_STATUS_PWRCYC, RCV_STATUS_REPLAY, RCV_STATUS_OUT_LOST, RCV_STATUS_REASON]⟩,
   ⟨0x8, 1, 0x4, 1, 4, [RCV_OOSCFG_CHIP_MAX, RCV_OOSCFG_WIN_S]⟩,
   ⟨0xc, 1, 0x4, 1, 4, [RCV_OOS_COUNT, RCV_OOS_CLEAR, RCV_OOS_TOTAL]⟩,
   ⟨0x10, 1, 0x4, 1, 4, [RCV_PARAM_SAMPLE_KIB, RCV_PARAM_REPLAY_LIM, RCV_PARAM_CTX_REPEAT]⟩,
   ⟨0x14, 1, 0x4, 1, 4, [RCV_MISSED, RCV_MISSED_WDOG]⟩,
   ⟨0x18, 1, 0x4, 1, 4, [RCV_LAST_LAST_RC, RCV_LAST_LAST_CAUSE, RCV_LAST_LAST_DIE]⟩,
   ⟨0x24, 1, 0x4, 1, 4, [RCV_FAULTED]⟩,
   ⟨0x28, 1, 0x4, 1, 4, [RCV_HELD]⟩,
   ⟨0x2c, 1, 0x4, 1, 4, [RCV_CTX_RELEASE]⟩,
   ⟨0x30, 1, 0x4, 1, 4, [RCV_CULPRIT]⟩,
   ⟨0x34, 1, 0x4, 1, 4, [RCV_INCONCL]⟩]
/-- More of `RCV`. -/
def rcvRows1 : List RegRow :=
  [⟨0x40, 1, 0x4, 1, 4, [RCV_FORCE_LEVEL, RCV_FORCE_DIE, RCV_FORCE_ENGINE, RCV_FORCE_GO]⟩,
   ⟨0x1c, 1, 0x4, 1, 4, [RCV_LAST_BEAT_LO_BEAT]⟩,
   ⟨0x20, 1, 0x4, 1, 4, [RCV_LAST_BEAT_HI_BEAT]⟩,
   ⟨0x80, 1, 0x4, 1, 4, [RCV_SUSPECT_MASK]⟩,
   ⟨0x84, 1, 0x4, 1, 4, [RCV_DUMP_SEQ, RCV_DUMP_SLOT]⟩,
   ⟨0x100, 15, 0x8, 1, 4, [RCV_HIST_LO_BEAT]⟩,
   ⟨0x104, 15, 0x8, 1, 4, [RCV_HIST_HI_BEAT]⟩]
/-- All registers of one `RCV` instance. -/
def rcvRows : List RegRow := rcvRows0 ++ rcvRows1

/-- The registers of one `LOG` instance. -/
def logRows : List RegRow :=
  [⟨0x0, 1, 0x4, 1, 4, [LOG_STATUS_HEAD, LOG_STATUS_WRAPPED]⟩,
   ⟨0x4, 1, 0x4, 1, 4, [LOG_COUNT]⟩]

end Sys2Proof.Machine.Reg
end

