-- ==== Sys2Proof/Machine/Tab.lean ====
section
/-! DEFINITION. A table: a finite map from natural numbers in ONE canonical form, a list of pairs with strictly rising
keys in which no pair holds the default. Registers, memory bytes and per-unit state are held so, and equal tables are
equal lists. -/

namespace Sys2Proof.Machine

/-- A table over `α`; an unlisted key reads as the default its reader names. -/
abbrev Tab (α : Type) := List (Nat × α)

/-- The value at key `k`, `d` where no pair has that key. -/
def Tab.get {α : Type} (d : α) : Tab α → Nat → α
  | [], _ => d
  | (a, v) :: t, k => if a = k then v else Tab.get d t k

/-- The table without key `k`. -/
def Tab.erase {α : Type} : Tab α → Nat → Tab α
  | [], _ => []
  | (a, v) :: t, k => if a = k then Tab.erase t k else (a, v) :: Tab.erase t k

/-- The table with `v` at key `k`, placed in rising order. -/
def Tab.insert {α : Type} : Tab α → Nat → α → Tab α
  | [], k, v => [(k, v)]
  | (a, w) :: t, k, v =>
    if k < a then (k, v) :: (a, w) :: t
    else if a = k then (k, v) :: t
    else (a, w) :: Tab.insert t k v

/-- Write `v` at `k`: a value equal to the default is not listed, so equal tables are equal lists. -/
def Tab.set {α : Type} [DecidableEq α] (d : α) (t : Tab α) (k : Nat) (v : α) : Tab α :=
  if v = d then Tab.erase t k else Tab.insert t k v

/-- Every key of the table is above `b`, keys rise strictly, and no value is the default. -/
def Tab.wfFrom {α : Type} [DecidableEq α] (d : α) : Nat → Tab α → Bool
  | _, [] => true
  | b, (a, v) :: t => decide (b ≤ a) && decide (v ≠ d) && Tab.wfFrom d (a + 1) t

/-- The canonical form: keys strictly rising, no entry equal to what an unlisted key reads as. -/
def Tab.wf {α : Type} [DecidableEq α] (d : α) (t : Tab α) : Bool := Tab.wfFrom d 0 t

/-- The keys of a table rise strictly from `b` on. -/
def Tab.risingFrom {α : Type} : Nat → Tab α → Prop
  | _, [] => True
  | b, (a, _) :: t => b ≤ a ∧ Tab.risingFrom (a + 1) t

end Sys2Proof.Machine
end

