-- ==== Sys2Proof/Machine/Parts.lean ====
section
/-! DEFINITION. The parts of the state that the engines, the posted writes, the host and Ethernet ports, the fusion front
ends, the ledger, start-up, change sets and recovery keep beside their registers. -/

namespace Sys2Proof.Machine

/-! ### Engines (08_movement_engines) -/

/-- A descriptor that a unit executes or holds: its context, the engine that issued it, its stream position and that of the
descriptor that follows it, its header words, what it does, the `BEAT` at which it was accepted and by which it must complete, and
whether it runs in a replay sandbox; and its number at the unit, which its reads carry. -/
structure Desc where
  num : Nat
  ctx : Nat
  eng : Nat
  pos : Nat
  next : Nat
  words : List Nat
  op : OpInfo
  start : Nat
  deadline : Nat
  sandbox : Bool := false
  deriving DecidableEq, Repr

/-- An engine: the context of its run (none when idle), the OPEN entry that its last selection named, the context it served in
its previous OPEN run, the descriptor it executes, model's time of the abort it has not come to rest from plus one, the contexts
that it ran or started in the current and in the previous turn, and that turn. -/
structure EngSt where
  run : Option Nat := none
  entry : Option Nat := none
  lastOpen : Nat := 31
  desc : Option Desc := none
  /-- The engine starts nothing more of its context in this run (R225). -/
  deferred : Bool := false
  /-- Descriptors the unit has accepted so far. -/
  count : Nat := 0
  /-- Bytes of other dies that have come for what the unit executes, by tray address. -/
  got : List Host.Cell := []
  abortAt : Nat := 0
  /-- The R222 cause of that abort plus one (R461). -/
  cause : Nat := 0
  suspNow : Nat := 0
  suspWas : Nat := 0
  suspTurn : Nat := 0
  /-- The engine that issued the last descriptor of a scan engine or mover (R461). -/
  lastEng : Nat := 0
  /-- The last scratchpad granule it accessed (R453). -/
  lastGran : Nat := 0
  deriving DecidableEq, Repr

/-- A stream of a context on an engine: its head, its position in 16 B units, `BEAT` at which the head descriptor reached
the head plus one, whether it was deferred since and its BOUND runs anew (R225), the checkpoint position, descriptors started since the
checkpoint, and whether it is stopped until the next doorbell. -/
structure StreamSt where
  head : Nat := 0
  bound : Bool := false
  pos : Nat := 0
  headAt : Nat := 0
  deferred : Bool := false
  chkpt : Nat := 0
  started : Nat := 0
  stopped : Bool := false
  /-- Descriptors handed to a scan engine, a mover or a fence that have not completed. -/
  away : Nat := 0
  deriving DecidableEq, Repr

/-! ### Posted writes, reads and fences (09_memory_and_posted_writes) -/

/-- A fence in progress: the epoch it closes, its destinations still to agree, model's time of the last probe, where its
result goes, what it serves: 0 a fence descriptor, 1 a barrier arrival of barrier `arg`, 2 the host read `arg`, 3 an arrival
whose fence is over; the growth of FAILED so far and the messages of the epoch. -/
structure FenceSt where
  old : Nat
  left : List Nat
  sentAt : Nat
  result : Nat
  kind : Nat
  arg : Nat
  eng : Nat
  grown : Nat := 0
  count : Nat := 0
  deriving DecidableEq, Repr

/-- A read that a die has sent and waits for: its TAG, context, whether the host's, target, bytes, where the data goes (none: it
stays at the unit, or completes the host's read), the unit, and the host's read or the descriptor by its number there. -/
structure ReadReq where
  tag : Nat
  ctx : Nat
  host : Bool
  target : Nat
  len : Nat
  dst : Option MoveEnd
  eng : Nat
  id : Nat := 0
  deriving DecidableEq, Repr

/-- A host read through BAR2: its request time, address and length, and whether its fence is over. -/
structure HostRd where
  id : Nat
  at_ : Nat
  pa : Nat
  len : Nat
  fenced : Bool
  deriving DecidableEq, Repr

/-- A mover's read of host memory that is outstanding: its number, the descriptor's at its unit, host address, Movement die, context,
unit, destination, bytes, request time. -/
structure HostMove where
  id : Nat
  num : Nat
  addr : Nat
  die : Nat
  ctx : Nat
  eng : Nat
  dst : Nat
  len : Nat
  at_ : Nat
  deriving DecidableEq, Repr

/-! ### Crown dies (10_crown_host_and_network) -/

/-- The answer of a Crown die to a host read: a completion with data, EP set or not, Completer Abort, Unsupported Request,
or Request Retry Status. -/
inductive Cpl where
  | data (id : Nat) (ep : Bool) (bytes : List Byte)
  | abort (id : Nat)
  | unsupported (id : Nat)
  | retry
  deriving DecidableEq, Repr

/-- What one Crown die keeps of its host and network ports. -/
structure HostSt where
  /-- `PERST#` is deasserted; model's time at which the endpoint enters Detect plus one; the record's `PCI` entries have
  been applied (R394). -/
  perst : Bool := false
  detectAt : Nat := 0
  pciReady : Bool := false
  /-- Configuration space: Completion Timeout Value, MSI-X enable, function mask, vectors unmasked, table address and data. -/
  cplTo : Nat := 0
  msixEn : Bool := false
  funMask : Bool := false
  unmasked : Nat := 0
  msixTab : Tab (Nat × Nat) := []
  /-- Vectors that have sent their message since their cause was cleared (R275). -/
  sent : Nat := 0
  lastMsix : Option (Nat × Nat × Nat) := none
  reads : List HostRd := []
  moves : List HostMove := []
  /-- The number of the next read of host memory. -/
  nextReq : Nat := 0
  lastCpl : Option Cpl := none
  /-- Words that the last ring record, host write or move wrote to host memory, in order. -/
  hostWr : List (Nat × List Byte) := []
  /-- Per Ethernet port: the last frames sent with their beats, newest first, at most eight; frames that wait for the gap
  before a result frame; the beat up to which no other frame starts; addresses. -/
  ethTx : Tab (List (Nat × List Byte)) := []
  txq : Tab (List (List Byte)) := []
  guard : Tab Nat := []
  mac : Tab Nat := []
  ip4 : Tab Nat := []
  ip6 : Tab (Nat × Nat) := []
  vlans : Tab (List Nat) := []
  groups : Tab (List Nat) := []
  /-- Per stream: accepted CFG-2 body, header store, accepted times or sequence numbers with their arrival, times of the
  last RC 0x6004 by cause. -/
  cfg2 : Tab (List Byte) := []
  hdr : Tab (List Byte) := []
  seen : Tab (List (Nat × Nat)) := []
  rejAt : Tab Nat := []
  /-- Per output descriptor: SEQ of the next frame. -/
  outSeq : Tab Nat := []
  deriving DecidableEq, Repr

/-- A grandmaster that a PTP port has heard (R281): port; priority1, class, accuracy, variance, priority2 and identity as
one number; steps removed; identity of the sending port; logarithm of the announce interval; UTC offset and whether it is
valid; inaccuracy in ns; arrival time. -/
structure Master where
  port : Nat
  rank : Nat
  steps : Nat
  ident : Nat
  logInt : Int
  utc : Int
  utcOk : Bool
  inacc : Nat
  at_ : Nat
  deriving DecidableEq, Repr

/-- The time service of CR0 (R281 to R284); times are TAI ns. -/
structure PtpSt where
  masters : List Master := []
  sel : Option Master := none
  /-- Offsets in a row within ±100 ns, and beyond ±1,000 ns. -/
  good : Nat := 0
  bad : Nat := 0
  /-- Model's time of the last Sync from the selected master. -/
  lastSync : Nat := 0
  /-- A two-step Sync that waits for its Follow_Up: sequence, arrival time, correction. -/
  wait : Option (Nat × Int × Int) := none
  /-- Mean path delay, the last arrival less origin, and the last delay request: sequence and transmit time. -/
  delay : Int := 0
  raw : Int := 0
  req : Option (Nat × Int) := none
  reqSeq : Nat := 0
  /-- A two-step Pdelay_Resp that waits for its follow-up: sequence, round trip, time at the responder. -/
  pd : Option (Nat × Int × Int) := none
  /-- Announces ignored for want of ptpTimescale. -/
  ignored : Nat := 0
  /-- UTC offset in use once a master is selected; a leap announced: +1, −1 or 0, with the SOC of the end of its day; the
  last leap that has happened, with the SOC of the end of its day. -/
  utc : Int := 0
  leap : Int := 0
  leapAt : Int := 0
  pastLeap : Int := 0
  pastAt : Int := 0
  deriving DecidableEq, Repr

/-! ### Fusion (11_fusion_front_end) -/

/-- A snapshot of a group: values (one more than the bits, the imaginary part above the real one) and flags by channel, why
it closed (0 open), and the frames that came on the deadline or later: stream, and channels with value and flag. -/
structure Snap where
  k : Int
  vals : Tab Nat := []
  flags : Tab Nat := []
  cause : Nat := 0
  tail : List (Nat × List (Nat × Nat × Nat)) := []
  deriving DecidableEq, Repr

/-- A calibration batch in hand (R315 to R318): its snapshot, the frame at which it takes effect, the new coefficients
and gain states by channel. -/
structure BatchSt where
  k : Int
  at_ : Nat
  upd : Tab (Nat × Nat × Nat × Nat) := []
  deriving DecidableEq, Repr

/-- An alignment group on a Crown die. -/
structure GrpSt where
  snaps : List Snap := []
  /-- The last snapshot selected; none before the first. -/
  last : Option Int := none
  cur : Option Snap := none
  held : List Snap := []
  /-- The selection in hand: release beat, snapshot, REPEAT, SKIP. -/
  sel : Option (Nat × Snap × Bool × Bool) := none
  batch : Option BatchSt := none
  deriving DecidableEq, Repr

/-- A mode track (R319 to R324); numbers are FP32 bits. -/
structure Track where
  state : Nat := 0
  hits : Nat := 0
  misses : Nat := 0
  id : Nat := 0
  x : List Nat := []
  /-- Covariance of (f, ḟ) and of (ζ, ζ̇), each as three numbers. -/
  pf : List Nat := []
  pz : List Nat := []
  shape : List Nat := []
  deriving DecidableEq, Repr

/-- The fusion front end of a Crown die. -/
structure FusSt where
  groups : Tab GrpSt := []
  /-- Gain state P and rms² of each phasor channel. -/
  gain : Tab (Nat × Nat) := []
  tracks : Tab Track := []
  modeTime : Option Int := none
  nextId : Nat := 0
  /-- Track tables to be published, oldest first, with their beats. -/
  pubs : List (Nat × Tab Track) := []
  half : Nat := 0
  /-- Coefficient records as they stood before the latest beat that changed any, one more than the record; that beat; and
  the channels that a commit wrote on it; the gain states, one more, with rms², that a batch replaced on it (R310, R318). -/
  was : Tab Nat := []
  wasBeat : Nat := 0
  wrote : List Nat := []
  gainWas : Tab (Nat × Nat) := []
  deriving DecidableEq, Repr

/-! ### The ledger (12_interval_ledger) -/

/-- An account: its power in W, exact sums in W·beats and in W·beats × 10⁻⁶ currency units, the largest power. -/
structure Acct where
  pow : Int := 0
  acc : Int := 0
  cost : Int := 0
  peak : Option Int := none
  deriving DecidableEq, Repr

/-- A setpoint set that has been processed and waits for its beat (R334). -/
structure SetPt where
  eff : Nat
  first : Nat
  vals : List Int
  late : Bool
  deriving DecidableEq, Repr

/-- Interval records that wait for their commit (R340, R341): the control record's fields and the accounts' values. -/
structure Closing where
  flags : Nat
  n : Int
  start : Nat
  stop : Nat
  taiStart : Nat
  taiStop : Nat
  switched : Nat
  count : Nat
  late : Nat
  vals : List (Int × Int × Int)
  deriving DecidableEq, Repr

/-- The ledger's state beside its registers. -/
structure LdgSt where
  /-- Beat of the enable; the ledger has opened since the start. -/
  enAt : Nat := 0
  everOpen : Bool := false
  /-- The open interval: its number, first beat and that beat's TAI, flags, SWITCHED, sets applied late. -/
  n : Int := 0
  start : Nat := 0
  startTai : Nat := 0
  flags : Nat := 0
  switched : Nat := 0
  late : Nat := 0
  /-- Beat up to which the accounts are summed, and the maps that have been replaced since, each with the beat at which it
  ended, oldest first. -/
  upTo : Nat := 0
  maps : List (Nat × Nat × Nat × Nat) := []
  accts : Tab Acct := []
  sets : List SetPt := []
  /-- Closed intervals that wait for their commit; the commit being written, and model's time of its start; the commit to
  copy to the output area, as its SEQ and its blocks. -/
  wait : List Closing := []
  busy : Option Closing := none
  busyAt : Nat := 0
  out : Option (Nat × Nat) := none
  seq : Nat := 0
  tseq : Nat := 0
  tabDirty : Bool := false
  /-- Beat P of a power fail plus one, and whether the interval open at P has been dealt with. -/
  pfAt : Nat := 0
  pfPart : Bool := false
  /-- A FRAM read in progress, and the record last read. -/
  rd : Option (Nat × Nat) := none
  buf : List Byte := []
  deriving DecidableEq, Repr

/-! ### Start-up (14_start_up_and_trust) -/

/-- Start-up and trust. -/
structure BootSt where
  /-- Model's time of T0, plus one; of entry into the present step. -/
  t0 : Nat := 0
  since : Nat := 0
  /-- Start-up waits in step 2 for `PWR_FAIL#` to go high. -/
  held : Bool := false
  pref : Bool := false
  prefAt : Nat := 0
  flashOk : Bool := false
  /-- Model's time since which a monitor is not good, by its number; zero from the first supply on (R374, R375). -/
  monAt : Tab Nat := []
  /-- The configuration record has been applied to the AON domains (R7, R391). -/
  applied : Bool := false
  /-- Record entries for this package (offset, value) in order. -/
  record : List (Nat × Nat) := []
  /-- The verified firmware bundle, and the one that CR1 runs (R384). -/
  fw : List Byte := []
  fw1 : List Byte := []
  /-- Domains still to be switched: instance and on or off; the one being switched. -/
  todo : List (Nat × Bool) := []
  busyDom : Option (Nat × Bool) := none
  /-- Failed HBM training attempts, and trained stacks, by 2 × die + stack. -/
  hbmTries : Tab Nat := []
  hbmOk : Nat := 0
  /-- A restart of domain switching waits for the tray load (R396). -/
  waitLoad : Bool := false
  /-- A follower has gone on as a stand-alone package: it is out of its tray until the next start (R396). -/
  alone : Bool := false
  /-- Flash image: its bytes in staging; the load in hand is of the flash image, or of the host's. -/
  imgBytes : Nat := 0
  loadSrc : Nat := 0
  /-- The image in hand, its hash, and whether it is loaded. -/
  image : Option Image := none
  hash : Nat := 0
  loaded : Bool := false
  /-- Reports of a multi-package image: package, hash, beat of receipt (R401). -/
  reports : List (Nat × Nat × Nat) := []
  sentReport : Option (Nat × Nat) := none
  /-- Activation turn and stop turn plus one; turn at which an aborted activation is armed again, plus one. -/
  actTurn : Nat := 0
  stopTurn : Nat := 0
  rearm : Nat := 0
  /-- Command in hand at the flash port. -/
  flCmd : Nat := 0
  flTx : Option (Nat × Nat × List Byte) := none
  /-- Fuse blow in hand: counter, value, start. -/
  blow : Option (Nat × Nat × Nat) := none
  /-- The turn from which the debug lifetime counts down. -/
  dbgTurn : Nat := 0
  /-- The TAP's instruction (0 BYPASS, 1 IDCODE, 2 SAMPLE/PRELOAD, 3 EXTEST, 4 CLAMP, 5 HIGHZ, 6 UNLOCK, 7 private), the bits
  its data register last shifted out, first bit first, and what the boundary register holds. -/
  jtagIr : Nat := 1
  jtagOut : List Bool := []
  jtagBsr : List Bool := []
  /-- SMBus pointer, and the STATUS byte and word of the last read (R499). -/
  smPtr : Nat := 0
  smOut : Option (Nat × Nat) := none
  smNack : Bool := false
  deriving DecidableEq, Repr

/-! ### Change sets (15_configuration_and_live_change) -/

/-- A die's part of an armed set (R430): its commit turn, the frozen shadow copies of its fields (key and value) and of its
tables, class, whether it passed, and whether it holds a COMMIT (1) or no decision (0). -/
structure Part where
  turn : Nat
  fields : List (Nat × Nat)
  tables : List (Nat × Nat)
  cls : Nat
  ok : Bool
  decision : Nat
  deriving DecidableEq, Repr

/-- The change set in hand. -/
structure ChgSt where
  armed : Bool := false
  tray : Bool := false
  setId : Nat := 0
  turn : Nat := 0
  bank : Bool := false
  hackLen : Nat := 0
  /-- This set is the activation of a multi-package image (R401). -/
  act : Bool := false
  decided : Nat := 0
  pkgSent : Bool := false
  reason : Nat := 0
  parts : Tab (Option Part) := []
  /-- Class B members that wait for the hack of the set: key of the field and value. -/
  waitB : List (Nat × Nat) := []
  /-- Body of the last ARM_CONFIRM that this package sent to another, and to which package. -/
  lastOut : Option (Nat × Nat) := none
  deriving DecidableEq, Repr

/-! ### Run-time recalibration (R113, R114) -/

/-- A run-time recalibration in hand: the end that asked, its bundle, T, and how far it is: 0 armed, 1 seed check, 2 lane
test, 3 returning. -/
structure Recal where
  end_ : Nat
  bundle : Nat
  turn : Nat
  step : Nat
  deriving DecidableEq, Repr

/-! ### Recovery (16_faults_and_recovery) -/

/-- Culprit replay in hand (R461): die, unit, engine, suspects still to run, the one that runs and the time since which it runs, its
stream position and the descriptors it has completed, the R222 cause it has met plus one, whether the fault is reproduced; suspects,
culprits, and those at their limit, as masks; the buffer as it was. -/
structure Replay where
  die : Nat
  unit : Nat
  eng : Nat
  /-- The R222 cause of the fault before the hang; zero for none. -/
  cause : Nat
  todo : List Nat
  cur : Option Nat := none
  since : Nat := 0
  pos : Nat := 0
  done : Nat := 0
  hit : Nat := 0
  suspects : Nat := 0
  culprits : Nat := 0
  limited : Nat := 0
  save : List Host.Cell := []
  deriving DecidableEq, Repr

/-- Recovery's state beside the levels in hand. -/
structure RecSt where
  /-- Turn of the last kind 0 heartbeat of a die, plus one. -/
  seen : Tab Nat := []
  /-- Movement dies whose control cores disagree; dies whose control cores a debug instruction has halted, by die code. -/
  lockstep : Nat := 0
  halted : Nat := 0
  /-- Model's time of the last restart of each watchdog. -/
  kicked : Tab Nat := []
  /-- Beat from which the reset of a domain is over and it may rejoin, plus one, by die code. -/
  doneAt : Tab Nat := []
  replays : Tab (Option Replay) := []
  /-- Stop turn of a tray order, plus one; packages that have reported READY. -/
  stopTurn : Nat := 0
  ready : List Nat := []
  /-- Stop turn of the last order received, plus one: its copies over other ports are the same order. -/
  lastOrder : Nat := 0
  /-- Contexts idle at the fence, held only as suspects, by die code (R462); contexts held until the level ends. -/
  asIs : Tab Nat := []
  lvlHeld : Tab Nat := []
  /-- FAULTED masks that CR0 has received, by die code. -/
  masks : Tab Nat := []
  /-- HBM stacks that chip level still has to recalibrate, as 2 × die code + stack (R454). -/
  hbmRecal : Nat := 0
  deriving DecidableEq, Repr

end Sys2Proof.Machine
end

