-- ==== Sys2Proof/Machine/State.lean ====
section
/-! DEFINITION. The state of the package: its registers, its dies, its links, its memories and everything the spec says
it keeps, with the queue of commands that are waiting; and the state right after power is applied. -/

namespace Sys2Proof.Machine

/-- The faults of the block. There is none: the spec gives every command an effect, and a run stops on no command. -/
inductive Fault where
  deriving DecidableEq, Repr

/-- Why the model gives a command no meaning. -/
inductive Refusal where
  /-- Raised by the dispatch of a command this model has not reached. Safe: it stops instead of inventing an effect. -/
  | notModelled (mnemonic : String)
  deriving DecidableEq, Repr

/-- An error-log record (R441): bytes 16 to 31 are `detail`, padded with zeros when read. -/
structure LogRec where
  beat : Nat
  rc : Nat
  die : Nat
  blk : Nat
  inst : Nat
  ctx : Nat
  sev : Nat
  detail : List Byte
  deriving DecidableEq, Repr

/-- A sideband message waiting at a link end (R145, R146). Its value is held as container bits with MTYPE and MSEQ zero;
what depends on the slot it leaves in (a `BEAT`, a hold time, a count) is filled in when it is sent, from `aux`. -/
structure SbMsg where
  mtype : Nat
  body : Nat := 0
  aux : Nat := 0
  mseq : Nat := 0
  /-- Zero before the first copy; else one more than the model's time at which the first copy was sent. -/
  first : Nat := 0
  /-- Model's time of the latest copy. -/
  last : Nat := 0
  /-- Copies still to send of a message that is sent more than once without acknowledgement (R129). -/
  copies : Nat := 1
  deriving DecidableEq, Repr

/-- A flit of the unscheduled channels: channel, SOM, EOM, payload, and the number that chooses its bundle (R121, R141). -/
structure UcFlit where
  chan : Nat
  som : Bool
  eom : Bool
  sel : Nat
  payload : List Byte
  /-- A flit in transit: one plus 16 × the code of the link end that received its message + the bundle it began on; zero for a flit
  of this die (R169). -/
  via : Nat := 0
  deriving DecidableEq, Repr

/-- A UC flit sent and not yet acknowledged (R136). `slotAt` is its slot on the clock that stands still in a hack. -/
structure TxUc where
  seq : Nat
  flit : UcFlit
  slotAt : Nat
  replays : Nat
  deriving DecidableEq, Repr

/-- An SC flit in the holding store (R129). -/
structure ScHeld where
  bundle : Nat
  slot : Nat
  frame : Nat
  slotBeat : Nat
  tag : Nat
  payload : List Byte
  deriving DecidableEq, Repr

/-- An SC re-send the receiver waits for (R132): what failed, its owner, its landing granule and whether that is its transfer's
last, and its deadline. -/
structure ScWait where
  bundle : Nat
  slot : Nat
  tag : Nat
  land : Nat
  ctx : Nat
  last : Bool
  deadline : Nat
  deriving DecidableEq, Repr

/-- What a link end last sent in a slot: its header and payload, and what each of the bundle's lanes carried: two lane words of an
Ikiper lane, the first beat in the low half; the flit field of a tray port (R68, R118, R181). -/
structure TxFlit where
  bundle : Nat
  header : Nat
  payload : List Byte
  lanes : List Nat
  deriving DecidableEq, Repr

/-- A lane repair in hand at the receiver (R109): the lane, its jewel, the turn E, and the model's time plus one at which its
acknowledgement came. -/
structure RxRepair where
  lane : Nat
  jewel : Nat
  eff : Nat
  ack : Nat := 0
  deriving DecidableEq, Repr

/-- A lane repair in hand at the transmitter (R109): the lane, its jewel, the latest E acknowledged, the MSEQ of the first message,
the frame plus one in which the first acknowledgement left, and whether the stream runs on the jewel. -/
structure TxRepair where
  lane : Nat
  jewel : Nat
  eff : Nat
  mseq : Nat
  sent : Nat := 0
  stream : Bool := false
  deriving DecidableEq, Repr

/-- A lane map of one direction of a bundle: the lanes J0 and J1 replace, which of them is unusable, and whether the bundle
is retired (R88, R147). -/
structure LaneMap where
  t0 : Nat
  bad0 : Bool
  t1 : Nat
  bad1 : Bool
  retired : Bool
  deriving DecidableEq, Repr

/-- The tap search of one bundle (R92 to R94, R102). -/
structure SearchSt where
  /-- 0 not searching, 1 full search, 2 seed check, 3 searched. -/
  mode : Nat := 0
  step : Nat := 0
  point : Nat := 0
  /-- Model's time at which the running point began. -/
  at_ : Nat := 0
  /-- Per finished point of the running step, newest first, the lanes that passed, as a mask, and those that were skipped. -/
  hist : List (Nat × Nat) := []
  /-- Lanes that failed the seed check so far, as a mask. -/
  bad : Nat := 0
  /-- The bundle was seeded and not searched in full. -/
  seeded : Bool := false
  /-- The bundle fell back from its seeds to a full search (R103). -/
  fell : Bool := false
  deriving DecidableEq, Repr

/-- What a link end keeps for one bundle. -/
structure BundleSt where
  /-- Frame of the last marker that passed, one more than it; consecutive markers that passed, and that failed; model's time plus
one of the last marker that passed; frame plus one in which the last one was checked (R72, R179). -/
  lastFrame : Nat := 0
  good : Nat := 0
  badRun : Nat := 0
  goodAt : Nat := 0
  checked : Nat := 0
  /-- CAL, RETIRE and DONE of the last good marker. -/
  cal : Bool := false
  retire : Bool := false
  done : Bool := false
  /-- Model's time since which CK has been out of range, plus one; zero when in range. -/
  ckBad : Nat := 0
  search : SearchSt := {}
  /-- Lanes that failed the start lane test, as a mask, whether this bundle's test is over, and model's time at which it began. -/
  testBad : Nat := 0
  tested : Bool := false
  testAt : Nat := 0
  /-- Maps of `DESKEW` and of a hack: the received map, pending until its frame boundary (R98). -/
  rxPend : Option LaneMap := none
  txPend : Option LaneMap := none
  rxApplied : Bool := false
  txApplied : Bool := false
  /-- The lane map sent is acknowledged; MSEQ plus one of the map received, and model's time plus one at which its acknowledgement
  has arrived. -/
  mapAcked : Bool := false
  mapSeq : Nat := 0
  txAckAt : Nat := 0
  /-- Arrival offset and buffer depth (R123, R124). -/
  arrival : Nat := 0
  depth : Nat := 0
  /-- Lanes declared failed that no jewel has taken over; the decoder erases the D and K lanes among them (R108). -/
  failed : List Nat := []
  /-- Consecutive uncorrectable flits; locator position plus one, zero when it is not stepping (R107). -/
  uncorr : Nat := 0
  loc : Nat := 0
  /-- Repairs in hand as receiver, and as transmitter (R109). -/
  repairs : List RxRepair := []
  txRepairs : List TxRepair := []
  /-- Lanes this end drives low (R64). -/
  low : List Nat := []
  /-- Receive side: expected sequence, NAK to report, discarding until it arrives (R137). -/
  es : Nat := 0
  nak : Bool := false
  drop : Bool := false
  /-- Final expected sequence of a bundle that left service, and its validity (R142, R506). -/
  finalEs : Nat := 0
  finalOk : Bool := false
  /-- Transmit side: next sequence, unacknowledged flits oldest first, the sequences of those that wait to be replayed, in order,
  the expected sequence of the last NAK acted on plus one (R136, R138). -/
  seq : Nat := 0
  unacked : List TxUc := []
  replayQ : List Nat := []
  nakSeen : Nat := 0
  /-- The beat from which nothing is delivered from this bundle (R83). -/
  rxStop : Option Nat := none
  /-- The final expected sequence of this bundle, which is leaving service or retraining, has come (R142, R506); model's time plus
  one at which it last stopped sending. -/
  txFinal : Bool := false
  gone : Nat := 0
  /-- Its retirement is declared and it still sends, until the frame boundary of its stop (R83). -/
  dying : Bool := false
  /-- Model's time of the last slot sent, plus one. -/
  lastSlot : Nat := 0
  /-- The partner asked this end to stop transmitting; it stops at the next frame boundary (R83). -/
  stopAt : Option Nat := none
  /-- It is retired because the link's counted attempts reached `TRAIN_MAX`, and for nothing else (R149). -/
  byMax : Bool := false
  /-- Run-time recalibration: its turn T plus one at the partner of the end that asked, whether the partner has confirmed,
  and the lanes that failed. -/
  recalT : Nat := 0
  recalOk : Bool := false
  recalBad : Nat := 0
  deriving DecidableEq, Repr

/-- What a link end keeps beside its registers. -/
structure LinkSt where
  /-- Model's time at which the present training state was entered. -/
  since : Nat := 0
  /-- It has been in `LIVE` since its enable was set (R149). -/
  everLive : Bool := false
  /-- It has completed a calibration since power came on (R150). -/
  calibrated : Bool := false
  /-- It is retraining from service, and its UC state is kept (R506). -/
  returning : Bool := false
  /-- Model's time of the last return from `CALIB` without partner, plus one (R149). -/
  noPartner : Nat := 0
  /-- Model's time at which `CALIB` began, for `CAL_STATUS.TIME`. -/
  calAt : Nat := 0
  /-- Own lane test complete, DONE received (R96). -/
  testDone : Bool := false
  testDoneAt : Nat := 0
  gotDone : Bool := false
  /-- Depths set by a probe and echo (R124). -/
  pinned : Bool := false
  /-- Pointer handshake: model's time of the request plus one, frame N plus one, read pointer set; frame plus one in which this end
  decided to ask, and in which a request came that it has not answered (R55). -/
  ptrReqAt : Nat := 0
  ptrFrame : Nat := 0
  ptrSet : Bool := false
  ptrWant : Nat := 0
  ptrOwe : Nat := 0
  /-- `PIN_PROBE` under way: its identity, and model's time plus one at which its first UI left (R124). -/
  probeId : Nat := 0
  probeAt : Nat := 0
  /-- FP: the joint reset has been released and this end has not left `RESET` since (R81). -/
  jointFree : Bool := false
  /-- The last marker offsets checked in `SYNC`, and off-markers in a row in service (R125, R126). -/
  offs : List Int := []
  offRun : Nat := 0
  /-- Bundles in service that a change of the set has just dropped, and those it now has (R142). -/
  leaving : List Nat := []
  /-- Sideband: queue, sent messages that wait for their acknowledgement, next MSEQ, messages acted on, last container. -/
  q : List SbMsg := []
  unacked : List SbMsg := []
  mseq : Nat := 0
  acted : List (Nat × Nat) := []
  lastSb : Nat := 0
  /-- Turn counts passed to sinks per channel, sent totals per channel, last counts reported by the partner (R135). -/
  passed : Tab Nat := []
  sent : Tab Nat := []
  reported : Tab Nat := []
  /-- New UC flits waiting, per channel (R141). -/
  ucq : Tab (List UcFlit) := []
  /-- Flits that wait to be sent again before any new one (R142, R506). -/
  requeue : List UcFlit := []
  /-- Loss notices waiting to be sent, as payloads, and whether they are forwarded (R164, R173). -/
  notices : List (List Byte × Bool) := []
  /-- By 4 × bundle + channel, the message whose first flit has left on the bundle and whose last has not: one more than its `via`,
  and the number that chooses its bundle (R141). -/
  txOpen : Tab (Nat × Nat) := []
  /-- Arbiter counters (R167). -/
  msgRun : Nat := 0
  reqRun : Nat := 0
  /-- SC: holding store, re-sends waiting for a REPAIR slot with the model's time of their NAK, NAKs acted on (R129, R130). -/
  hold : List ScHeld := []
  resend : List (ScHeld × Nat) := []
  naked : List (Nat × Nat × Nat) := []
  /-- SC re-sends this end waits for as receiver, oldest first (R132). -/
  wait : List ScWait := []
  /-- The UC flit delivered last, and by 4 × bundle + channel where the running message goes: link end code plus one (33 to
  40 a tray port, 48 this die), the number that chooses its bundle, and its `via` (R141, R168). -/
  lastRx : Option UcFlit := none
  rxOpen : Tab (Nat × Nat × Nat) := []
  /-- The container delivered last, and the segment or field sent last in a sideband slot. -/
  lastBox : Nat := 0
  lastSeg : Nat := 0
  /-- The frame markers sent last, by bundle, or the alignment blocks, by tray lane. -/
  marks : List Nat := []
  /-- What was sent last in a slot. -/
  lastTx : Option TxFlit := none
  /-- Tray port: the message stream of the present frame, its frame plus one, the frame plus one and the codewords received of it,
  and the frame plus one in which DOWN is sent (R178, R180, R181). -/
  txStream : Nat := 0
  txFrame : Nat := 0
  cwFrame : Nat := 0
  cwSeen : List Nat := []
  down : Nat := 0
  /-- SC is not issued on this end (R43, R166, R209, R458). -/
  scStop : Bool := false
  /-- Bundle loss already reported in this frame: frame plus one (R133). -/
  lostRep : Nat := 0
  bundles : Tab BundleSt := []
  /-- Tray port: model's time of the last block heard and of the last beacon burst, the block sent, back-off in ms, distinct
  wrong blocks seen, no-signal logged in this episode, whether it sends ACK, last return to LISTEN. -/
  sigAt : Nat := 0
  beaconAt : Nat := 0
  lastBlock : Nat := 0
  backoff : Nat := 0
  wrong : List Nat := []
  noSigLogged : Bool := false
  ackSend : Bool := false
  backAt : Nat := 0
  peerBv : Bool := false
  /-- Tray port: model's time at which both ends reached `LIVE` after a loss, plus one (R210). -/
  liveAt : Nat := 0
  /-- Beat synchronisation on this tray port (R39, R40): a request waits for its slot, outstanding request `BEAT` plus one, failed
  attempts, peer loaded. -/
  syncWait : Bool := false
  syncReq : Nat := 0
  syncFails : Nat := 0
  peerLoaded : Bool := false
  deriving DecidableEq, Repr

/-- A loss a die knows of: a bundle of an Ikiper link (`link` is the link code), or a cable (`link` 16 + its A-end
PKG_ID, `bundle` its A-end port), its declaration `BEAT`, the beat of the boundary at which it joins, and whether it has
joined. -/
structure Loss where
  link : Nat
  bundle : Nat
  decl : Nat
  joinAt : Nat
  joined : Bool
  deriving DecidableEq, Repr

/-- What a die's gear train had in effect before the turn in which it last changed: that turn, the variant, the tray variant, the
bank, the loss set and the tray loss set. A flit of an earlier frame is resolved by them (R156). -/
structure SchedPrev where
  turn : Nat := 0
  variant : Nat := 0
  tvariant : Nat := 0
  bank : Nat := 0
  loss : Nat := 0
  tloss : Nat := 0
  deriving DecidableEq, Repr

/-- A request for admission tokens (R361): 0 an engine's descriptor, 1 a run-time recalibration, 2 a replay run; its tokens
in 1/8 W, the model's time at which it was made, the context, and the engine or the link end. -/
structure AdmReq where
  kind : Nat
  tok : Nat
  at_ : Nat
  ctx : Nat
  who : Nat
  deriving DecidableEq, Repr

/-- A BUDGET report as CR0 holds it (R357, R359): turn, demand, throttled, tokens held, measured power. -/
structure Report where
  turn : Nat
  demand : Nat
  throt : Bool
  held : Nat
  meas : Nat
  deriving DecidableEq, Repr

/-- The power and thermal state of a die beside its registers (R360 to R367). -/
structure PowerSt where
  /-- Requests waiting, oldest first, and tokens lent. -/
  queue : List AdmReq := []
  lent : List AdmReq := []
  /-- The last grant received: bits 31:0 of its turn, and its value. -/
  grant : Option (Nat × Nat) := none
  /-- Consecutive samples: Tj at the throttle limit, a stack at 95 °C, everything cool, Tj at 110 °C, a stack at 105 °C. -/
  hotJ : Nat := 0
  hotH : Nat := 0
  cool : Nat := 0
  tripJ : Nat := 0
  tripH : Nat := 0
  /-- Throttled, or on its floor, by a stale crossing (R54). -/
  staleThrot : Bool := false
  staleFloor : Bool := false
  /-- CR0: model's time plus one at which it declared the power fail (R368, R370). -/
  pfAt : Nat := 0
  deriving DecidableEq, Repr

/-- What one die keeps beside its registers. -/
structure DieSt where
  /-- `BEAT` (R34). -/
  beat : Nat := 0
  /-- The beat PLL has locked and the count runs (R34). -/
  run : Bool := false
  /-- Phase of its reference or beat PLL against `PREF`, in 1/32 beat (R39, R43). -/
  phaseTrim : Int := 0
  /-- The error log, newest record first, at most 4,096 of them (R440). -/
  log : List LogRec := []
  /-- Records written since the ring's domain came on (`LOG.COUNT`). -/
  logCount : Nat := 0
  /-- TAI maps received and not yet applied: anchor beat, rate, epoch; anchor TAI, epoch, VALID, HOLDOVER (R148). -/
  map0 : Option (Nat × Nat × Nat) := none
  map1 : Option (Nat × Nat × Bool × Bool) := none
  /-- `TAI_VALID` has been set at some time; the beat at which it first was (R48, R337). -/
  taiEver : Bool := false
  taiAt : Nat := 0
  /-- The map this die uses (R45): anchor beat, anchor TAI, rate in two's complement. -/
  tai : Nat × Nat × Nat := (0, 0, 0)
  /-- Stale crossings: kind, block code, instance, model's time since (R54). -/
  stale : List (Nat × Nat × Nat × Nat) := []
  /-- Losses this die knows of (R163, R165); tray-loss notices it has seen, as cable code and declaration `BEAT` (R206); what the
  gear train had in effect before, and whether no variant, and no tray variant, fits now (R166, R209). -/
  losses : List Loss := []
  seenLoss : List (Nat × Nat) := []
  prev : SchedPrev := {}
  noFitI : Bool := false
  noFitT : Bool := false
  /-- Contexts faulted and held on this die, `BEAT` of the last change of the combined mask, last combined mask (R450). -/
  faulted : Nat := 0
  combined : Nat := 0
  faultBeat : Nat := 0
  /-- Crown die: model's time at which `TRY.CTL.ENABLE` was set, plus one (R203). -/
  trayAt : Nat := 0
  power : PowerSt := {}
  /-- Model's time of the last scrub pass of the HBM and of the scratchpad (R251). -/
  scrubH : Nat := 0
  scrubS : Nat := 0
  /-- Model's time at which the domain that holds its beat PLL came on (R379). -/
  onAt : Nat := 0
  deriving DecidableEq, Repr

/-- A context on a die (R229, R230, R449). -/
structure CtxSt where
  /-- The image's action: 0 RESTORE, 1 HOLD. -/
  action : Nat := 0
  /-- It has recorded a checkpoint; faults since the last one. -/
  chk : Bool := false
  faults : Nat := 0
  /-- Beat from which it resumes, plus one; zero when it does not. -/
  resumeAt : Nat := 0
  /-- It resumes at its position, without going back (action 4, R462). -/
  asIs : Bool := false
  /-- Model's time of its last fault on this die. -/
  stoppedAt : Nat := 0
  /-- The die controller did not run when it faulted, and has still to answer the fault (R239). -/
  owed : Bool := false
  deriving DecidableEq, Repr

/-- The joint reset line of an FP link (R57): asserted, since which time. -/
structure FpLine where
  asserted : Bool := true
  since : Nat := 0
  deriving DecidableEq, Repr

/-- A seed record of the configuration flash (R409): identity, link code and end, bundle, revision, CRC verdict and the
21 `COEF` words. -/
structure SeedRec where
  ident : List Nat
  die : Nat
  slot : Nat
  bundle : Nat
  rev : Nat
  crcOk : Bool
  coef : List Nat
  deriving DecidableEq, Repr

/-- The signals the package drives (17_balls_and_electrical.md). -/
structure Pins where
  oos : Bool := false
  pwrcycReq : Bool := false
  /-- What the pads last took into effect: flash drive and slow or fast management edges by Crown die, FRAM drive of CR0
  (R496). -/
  flDrv : Tab Nat := []
  mgmtFast : Tab Bool := []
  ldDrv : Nat := 1
  deriving DecidableEq, Repr

/-- A hack in hand: first frame, length, whether its scope is the whole tray, whether it runs; the last one that began, as its
first frame, its length and its scope (R49). -/
structure HackSt where
  due : Option (Nat × Nat) := none
  tray : Bool := false
  active : Bool := false
  last : Option (Nat × Nat × Bool) := none
  /-- Beats that all hacks have covered so far; the UC timers run without them. -/
  frozen : Nat := 0
  deriving DecidableEq, Repr

/-- The time service and the follower's synchronisation (R43, R44, R46). -/
structure SyncSt where
  /-- Frequency control of the reference PLL is frozen; model's time since no sync port remains, plus one. -/
  frozen : Bool := false
  noPort : Nat := 0
  /-- EPOCH of the map now sent. -/
  epoch : Nat := 0
  /-- The map that the CR0 which runs the servo has ready for the next turn boundary (R47). -/
  next : Option (Nat × Nat × Nat) := none
  /-- Last offset of the local time from the grandmaster, in ns, as the servo measured it, and whether no turn boundary
  has taken it yet. -/
  offset : Int := 0
  sample : Bool := false
  deriving DecidableEq, Repr

/-- A recovery in hand in a domain (R443, R444): its level (2 engine, 3 partition, 4 chip), its cause, the faulting
engine, the code that raised it, when it began, and the step it has reached (1 fence, 2 dump, 3 reset, 4 replay, 5 waiting
to rejoin). -/
structure RcvDom where
  level : Nat := 0
  cause : Nat := 0
  eng : Nat := 0xFF
  rc : Nat := 0
  since : Nat := 0
  beat : Nat := 0
  step : Nat := 0
  /-- The first cause of a fault handed up, for the replay rule of R459. -/
  origin : Nat := 0
  /-- Chip level ends out of service instead of in a reset (R465). -/
  oos : Bool := false
  deriving DecidableEq, Repr

/-- The state of the package. -/
structure State where
  /-- The commands that wait, first in, first out. -/
  pending : List Instr := []
  /-- The model's own clock: beats since power was applied. -/
  time : Nat := 0
  /-- The model's own counter of free values already drawn. -/
  free : Nat := 0
  /-- The register fields that differ from their Reset value, keyed by 32 × MS address + lowest bit. -/
  regs : Tab Nat := []
  /-- Reserved bits written as non-zero, by MS address (R6). -/
  resv : Tab Nat := []
  /-- Shadow copies of ARM fields, by the key of the field, one more than the value (R8). -/
  shadow : Tab Nat := []
  /-- The value each LCK field had in effect when its function's enable was last cleared, one more than it (R423). -/
  inForce : Tab Nat := []
  /-- What each die keeps, by die code. -/
  dies : Tab DieSt := []
  /-- What each link end keeps, by link-end code. -/
  links : Tab LinkSt := []
  /-- Records of the table ports, by space, die, bank, direction, slot and index. -/
  tables : Tab Nat := []
  /-- Memory of the package by package address: one byte a key (R242). -/
  mem : List Host.Cell := []
  /-- Poisoned granules, by package address over 64 (R248). -/
  poison : Tab Bool := []
  /-- Contexts, by 32 × die code + context. -/
  ctxs : Tab CtxSt := []
  /-- The fused 128-bit identities of the dies, by die code: no two alike (R24) (log entry 3, DESIGN CHOICE). -/
  dieIds : List Nat := [1, 2, 3, 4, 5, 6]
  /-- CR1's own fused root-key hash, laid out as `SEC.ROOT_HASH` of CR0 is (R384) (log entry 172, DESIGN CHOICE). -/
  cr1Root : Nat := 0
  /-- The fused transmit maps of the tray ports, by port: the lane TLS replaces, 15 for none, plus 16 where TLS is unusable
  (R88, R195). -/
  trayFuse : Tab Nat := []
  /-- The joint reset lines of F01, F12, F23 and F30. -/
  fpLines : Tab FpLine := []
  seeds : List SeedRec := []
  pins : Pins := {}
  hack : HackSt := {}
  sync : SyncSt := {}
  /-- Last word a path read (R270, R499), and the `BEAT_HI` latch of each path (R37, R501): BAR0 of CR0, of CR1, SMBus. -/
  rdData : Tab Nat := []
  beatHi : Tab Nat := []
  /-- Cables of the tray the configuration record declares: package and port of either end. -/
  topo : List (Nat × Nat × Nat × Nat) := []
  /-- The tray route table of the active image: destination package and outgoing port (R192). -/
  routes : List (Nat × Nat) := []
  /-- RESERVE_d of the loaded image, in W, by die code (R355). -/
  reserve : List Nat := []
  /-- The grants of the last allocation, and the last report of each die, by die code (R359). -/
  grants : Tab Nat := []
  reports : Tab (Option Report) := []
  /-- Recoveries in hand: by die code for engine and partition level, under 4 for chip level. -/
  rcv : Tab RcvDom := []
  /-- Units of the Movement dies by 32 × die + unit: E0 to E15, Q0 and Q1 (16, 17), M0 to M3 (18 to 21). -/
  engs : Tab EngSt := []
  /-- Queues of the scan engines and movers, oldest first, by the same number. -/
  queues : Tab (List Desc) := []
  /-- Streams by (16 × die + engine) × 32 + context. -/
  streams : Tab StreamSt := []
  /-- The operation table as far as descriptors have been read by it: what descriptors mean, and which OPs are defined (1) or not
  (2), for a silicon revision (R217, R219). -/
  opTable : Tab (Option OpInfo) := []
  opDefs : Tab Nat := []
  /-- Write heads of the sequences, by the tray address of their elements (R231). -/
  heads : Tab Nat := []
  /-- Posted writes (R259): issued by origin, epoch and destination; accepted and failed by destination, origin package,
  origin and epoch; what the last fence of an origin, epoch and destination saw; the next TAG of an origin. -/
  issued : Tab Nat := []
  accepted : Tab Nat := []
  failed : Tab Nat := []
  seenIssued : Tab Nat := []
  seenFailed : Tab Nat := []
  nextTag : Tab Nat := []
  /-- Epoch bits of the Crown functions, and fences in progress by origin (64 × die + context, 32 for the function). -/
  hostEpoch : Tab Nat := []
  fences : Tab (Option FenceSt) := []
  /-- Reads that wait for their data, by die code. -/
  rdReqs : Tab (List ReadReq) := []
  /-- The Crown dies, by number. -/
  hosts : Tab HostSt := []
  ptp : PtpSt := {}
  fus : Tab FusSt := []
  ldg : LdgSt := {}
  /-- The ledger's FRAM. -/
  fram : List Host.Cell := []
  boot : BootSt := {}
  chg : ChgSt := {}
  /-- Shadow copies of table records, by the key of the record, one more than the value (R8). -/
  tshadow : Tab Nat := []
  recals : List Recal := []
  /-- Beat at which the last granule of a transfer last landed, plus one, by 2¹⁴ × die code + tag. -/
  landed : Tab Nat := []
  recov : RecSt := {}
  deriving DecidableEq, Repr

/-- The package right after power is applied: every register at its Reset value, every die's count at rest (R7, R34)
(log entry 123, DESIGN CHOICE) (log entry 127, DESIGN CHOICE). -/
def State.reset : State := {}

end Sys2Proof.Machine
end

