-- ==== Sys2Proof/Machine/Ops.lean ====
section
/-! DEFINITION. The named operations over the registers, the error log, the interrupt vectors and refusals that every
command's meaning is written with. -/

namespace Sys2Proof.Machine

/-! ### Dies and places -/

/-- The die codes of R441: MV0 to MV3 are 0 to 3, CR0 is 4 and CR1 is 5. -/
def dieCode : Die → Nat
  | .mv m => m.val
  | .cr c => 4 + c.val

/-- The management-space window of a die (the window table of 18_address_map_and_reason_codes.md). -/
def winBase : Die → Nat
  | .cr c => c.val * 0x1000000
  | .mv m => (2 + m.val) * 0x1000000

/-- The offset of a block instance in its die's window. -/
def blkOff (b : Blk) (i : Nat) : Nat :=
  match b with
  | .cfg => 0 | .bal => 0x10000 | .pwr => 0x20000 | .thm => 0x21000
  | .ikl => 0x40000 + 0x2000 * i | .gtr => 0x80000
  | .eng => 0x100000 | .seq => 0x120000 | .syn => 0x140000 | .dma => 0x160000
  | .pci => 0x100000 | .mem => 0x180000 | .eth => 0x180000 | .ethPort => 0x181000 + 0x1000 * i
  | .ptp => 0x1C0000 | .fus => 0x200000 | .ldg => 0x300000
  | .tray => 0x380000 | .trayPort => 0x380000 + 0x2000 * (i + 1)
  | .boot => 0x400000 | .sec => 0x410000 | .rcv => 0x480000 | .log => 0x490000

/-- The registers of a block. -/
def blkRows : Blk → List RegRow
  | .cfg => Reg.cfgRows | .bal => Reg.balRows | .pwr => Reg.pwrRows | .thm => Reg.thmRows | .ikl => Reg.iklRows
  | .gtr => Reg.gtrRows | .tray => Reg.tryRows | .trayPort => Reg.trypRows | .eng => Reg.engRows | .seq => Reg.seqRows
  | .syn => Reg.synRows | .dma => Reg.dmaRows | .mem => Reg.memRows | .pci => Reg.pciRows | .eth => Reg.ethRows
  | .ethPort => Reg.ethpRows | .ptp => Reg.ptpRows | .fus => Reg.fusRows | .ldg => Reg.ldgRows | .boot => Reg.bootRows
  | .sec => Reg.secRows | .rcv => Reg.rcvRows | .log => Reg.logRows

/-- A number for each kind of block. -/
def blkTag : Blk → Nat
  | .cfg => 0 | .bal => 1 | .pwr => 2 | .thm => 3 | .ikl => 4 | .gtr => 5 | .tray => 6 | .trayPort => 7 | .eng => 8 | .seq => 9
  | .syn => 10 | .dma => 11 | .mem => 12 | .pci => 13 | .eth => 14 | .ethPort => 15 | .ptp => 16 | .fus => 17 | .ldg => 18
  | .boot => 19 | .sec => 20 | .rcv => 21 | .log => 22

/-- Which field of a kind of block a field is, whatever the die, the instance and the array element. -/
def regTag (b : Blk) (f : Fld) : Nat := (blkTag b * 2 ^ 16 + f.off % 2 ^ 16) * 32 + f.lo % 32

/-- The key of a field of a block instance: its address, its lowest bit and which field it is; `k` is the byte offset of the
array element. -/
def fkey (d : Die) (b : Blk) (i : Nat) (f : Fld) (k : Nat) : Nat :=
  ((winBase d + blkOff b i + f.off + k) * 32 + f.lo) * 2 ^ 26 + regTag b f

/-- The address that a key names. -/
def keyAddr (key : Nat) : Nat := key / 2 ^ 31

/-- The lowest bit that a key names. -/
def keyLo (key : Nat) : Nat := key / 2 ^ 26 % 32

/-! ### Register fields -/

/-- The value a register field holds. -/
def State.getF (s : State) (d : Die) (b : Blk) (i : Nat) (f : Fld) (k : Nat := 0) : Nat :=
  Tab.get f.reset s.regs (fkey d b i f k)

/-- The state with `v`, cut to the field's width, in a register field. -/
def State.setF (s : State) (d : Die) (b : Blk) (i : Nat) (f : Fld) (v : Nat) (k : Nat := 0) : State :=
  { s with regs := Tab.set f.reset s.regs (fkey d b i f k) (v % 2 ^ f.w) }

/-- Whether a one-bit field is set. -/
def State.isF (s : State) (d : Die) (b : Blk) (i : Nat) (f : Fld) (k : Nat := 0) : Bool := s.getF d b i f k == 1

/-- Count one more in a saturating field. -/
def State.bumpF (s : State) (d : Die) (b : Blk) (i : Nat) (f : Fld) (k : Nat := 0) : State :=
  s.setF d b i f (min (s.getF d b i f k + 1) (2 ^ f.w - 1)) k

/-- Count `n` more in a saturating field. -/
def State.addF (s : State) (d : Die) (b : Blk) (i : Nat) (f : Fld) (n : Nat) (k : Nat := 0) : State :=
  s.setF d b i f (min (s.getF d b i f k + n) (2 ^ f.w - 1)) k

/-- Put a number of 64 bits into a low and a high field. -/
def State.set64 (s : State) (d : Die) (b : Blk) (i : Nat) (lo hi : Fld) (v : Nat) (k : Nat := 0) : State :=
  (s.setF d b i lo v k).setF d b i hi (v / 2 ^ 32) k

/-- The number that a low and a high field hold. -/
def State.get64 (s : State) (d : Die) (b : Blk) (i : Nat) (lo hi : Fld) (k : Nat := 0) : Nat :=
  s.getF d b i lo k + 2 ^ 32 * s.getF d b i hi k

/-! ### Dies -/

/-- What a die keeps. -/
def State.die (s : State) (d : Die) : DieSt := Tab.get {} s.dies (dieCode d)

/-- The state with another content of a die. -/
def State.setDie (s : State) (d : Die) (x : DieSt) : State := { s with dies := Tab.set {} s.dies (dieCode d) x }

/-- `BEAT` of a die (log entry 126, DESIGN CHOICE). -/
def State.beat (s : State) (d : Die) : Nat := (s.die d).beat

/-- The frame a die is in, as a count from `BEAT` zero (R4). -/
def State.frame (s : State) (d : Die) : Nat := s.beat d / frameBeats

/-- The turn a die is in (R4). -/
def State.turn (s : State) (d : Die) : Nat := s.beat d / turnBeats

/-- Whether the die stands on the first beat of a frame (R4) (log entry 120, DESIGN CHOICE). -/
def State.atFrame (s : State) (d : Die) : Bool := s.beat d % frameBeats == 0

/-- Whether the die stands on the first beat of a turn (R4). -/
def State.atTurn (s : State) (d : Die) : Bool := s.beat d % turnBeats == 0

/-- CR0. -/
abbrev cr0 : Die := .cr 0

/-- Whether the fused variant has CR1 (R18, R21). -/
def State.x2 (s : State) : Bool := bit (s.getF cr0 .cfg 0 Reg.CFG_VARIANT) 0

/-- Whether the fused variant has eight stacks (R21). -/
def State.h8 (s : State) : Bool := bit (s.getF cr0 .cfg 0 Reg.CFG_VARIANT) 1

/-- Whether the variant contains a die (R18). -/
def State.hasDie (s : State) : Die → Bool
  | .mv _ => true
  | .cr c => c == 0 || s.x2

/-- All die names, in the order of their codes. -/
def allDies : List Die := [.mv 0, .mv 1, .mv 2, .mv 3, .cr 0, .cr 1]

/-- The dies the variant contains. -/
def State.dieList (s : State) : List Die := allDies.filter s.hasDie

/-- The Crown dies the variant contains. -/
def State.crowns (s : State) : List Crown := if s.x2 then [0, 1] else [0]

/-- `BOOT.STATUS.PHASE`, package-wide (R404). -/
def State.phase (s : State) : Nat := s.getF cr0 .boot 0 Reg.BOOT_STATUS_PHASE

/-- The switched domain that holds a block of a die, in the numbering of `PWR.DOM`; none for what is always on (R352). -/
def domOf (d : Die) (b : Blk) : Option Nat :=
  match d with
  | .mv m => match b with
    | .eng | .seq | .syn | .dma => some m.val
    | _ => some (8 + m.val)
  | .cr c => match b with
    | .pci | .eth | .ethPort | .ptp | .tray | .trayPort | .gtr | .ikl => some (12 + 2 * c.val)
    | .fus | .ldg => some (13 + 2 * c.val)
    | _ => none

/-- Whether a domain instance is on (`PWR.DOM.STATE`). -/
def State.domOn (s : State) (k : Nat) : Bool := bit (s.getF cr0 .pwr 0 Reg.PWR_DOM_STATE) k

/-- Whether the domain that holds a block of a die is on. -/
def State.powered (s : State) (d : Die) (b : Blk) : Bool :=
  match domOf d b with
  | some k => s.domOn k
  | none => true

/-- The number of an access path: BAR0 of CR0 and of CR1, SMBus, TAP (log entry 84, DESIGN CHOICE). -/
def pathCode : Path → Nat
  | .bar0 c => c.val
  | .smbus => 2
  | .tap => 3

/-- The identity of a die (R24). -/
def State.dieId (s : State) (d : Die) : Nat := s.dieIds.getD (dieCode d) 0

/-- This package's PKG_ID (R377). -/
def State.pkgId (s : State) : Nat := s.getF cr0 .boot 0 Reg.BOOT_STRAP_PKG_ID

/-- `TRAY_ALERT#` is asserted while any cause of it is uncleared (R23, R367, R375, R376, R406, R465). -/
def State.trayAlert (s : State) : Bool :=
  s.getF cr0 .boot 0 Reg.BOOT_MON_BAND != 0 || s.isF cr0 .boot 0 Reg.BOOT_MON_HU_LOW ||
    s.isF cr0 .cfg 0 Reg.CFG_VARIANT_MISMATCH || s.phase == 15 || s.isF cr0 .pwr 0 Reg.PWR_STATUS_THSD || s.pins.oos

/-! ### Free values -/

/-- A value the spec leaves open, below `2 ^ w`, and the state that has drawn it. -/
def State.draw (s : State) (w : Nat) : Nat × State :=
  (Config.freeValue s.free % 2 ^ w, { s with free := s.free + 1 })

/-! ### Vectors, log records and refusals -/

/-- Set the cause bit of vector `v` on one function (R275). -/
def State.raiseOn (s : State) (v : Nat) (c : Crown) : State :=
  if v < 8 then s.setF (.cr c) .pci 0 Reg.PCI_EVT_CAUSE (setBit (s.getF (.cr c) .pci 0 Reg.PCI_EVT_CAUSE) v)
  else if v < 24 then s.setF (.cr c) .pci 0 Reg.PCI_EVT_RING (setBit (s.getF (.cr c) .pci 0 Reg.PCI_EVT_RING) (v - 8))
  else s.setF (.cr c) .pci 0 Reg.PCI_EVT_CTX_CTX (setBit (s.getF (.cr c) .pci 0 Reg.PCI_EVT_CTX_CTX) (v - 24))

/-- Raise vector `v` on the functions a scope names: one Crown die's own, or every function of the package (R275). -/
def State.raise (s : State) (own : Option Crown) (v : Nat) : State :=
  match own with
  | some c => s.raiseOn v c
  | none => s.crowns.foldl (fun t c => t.raiseOn v c) s

/-- The function an event of a block belongs to: a Crown die's own blocks raise there only (R275). -/
def ownOf (d : Die) (b : Blk) : Option Crown :=
  match d, b with
  | .cr c, .ikl | .cr c, .thm | .cr c, .gtr | .cr c, .pci | .cr c, .eth | .cr c, .ethPort | .cr c, .fus
  | .cr c, .tray | .cr c, .trayPort => some c
  | _, _ => none

/-- The severity of a reason code (R442). -/
def severity (rc : Nat) : Nat :=
  if rc ∈ [0x4004, 0x5003, 0x5004, 0x9001] then 3
  else if rc ∈ [0x4002, 0x9002, 0x9003, 0x9004] then 4
  else if rc ∈ [0x2002, 0x2004, 0x2005, 0x2006, 0x2007, 0x2008, 0x8004, 0x8005, 0x9005, 0x9006] then 5
  else if rc ∈ [0x3001, 0x3006, 0x3007, 0x6001, 0x6004, 0x8001, 0xB001, 0xB002] then 1
  else if rc / 0x1000 = 1 ∨ rc ∈ [0x4001, 0x4005, 0x7003, 0x7004, 0x9007, 0x9008, 0xA003] then 0
  else 2

/-- The vectors a record of a class raises beside vector 0 (R442). -/
def classVec (rc : Nat) : Option Nat :=
  match rc / 0x1000 with
  | 9 => some 3
  | 8 => some 4
  | 7 => some 5
  | 6 => some 6
  | _ => none

/-- Write one error-log record on die `d`, for block `b` of die `dd`, and raise its vectors (R440 to R442). -/
def State.logAs (s : State) (d dd : Die) (b : Blk) (inst rc : Nat) (detail : List Byte) (ctx : Nat) : State :=
  let x := s.die d
  let r : LogRec := ⟨x.beat, rc, dieCode dd, b.code, inst, ctx, severity rc, detail⟩
  let s1 := s.setDie d { x with log := (r :: x.log).take 4096, logCount := x.logCount + 1 }
  let s2 := s1.raise (ownOf d b) 0
  match classVec rc with
  | some v => s2.raise (ownOf d b) v
  | none => s2

/-- Write one error-log record on the die it concerns. -/
def State.log (s : State) (d : Die) (b : Blk) (inst rc : Nat) (detail : List Byte := []) (ctx : Nat := 0xFF) : State :=
  s.logAs d d b inst rc detail ctx

/-- Name a refusal in `CFG.LAST_REASON` and count it in `CFG.REFUSALS` (R419). -/
def State.lastReason (s : State) (d : Die) (b : Blk) (inst rc : Nat) : State :=
  ((((s.setF cr0 .cfg 0 Reg.CFG_LAST_REASON_REASON rc).setF cr0 .cfg 0 Reg.CFG_LAST_REASON_DIE (dieCode d)).setF
    cr0 .cfg 0 Reg.CFG_LAST_REASON_BLOCK b.code).setF cr0 .cfg 0 Reg.CFG_LAST_REASON_INSTANCE inst).bumpF
    cr0 .cfg 0 Reg.CFG_REFUSALS_COUNT

/-- The fields of a function: its block, its enable, and where it shows a refusal. -/
structure FnRegs where
  blk : Blk
  enable : Fld
  refused : Fld
  reason : Fld

/-- Where each function keeps its enable and reports a refusal. -/
def fnRegs : Fn → FnRegs
  | .pad => ⟨.cfg, Reg.CFG_PAD_CTL_ENABLE, Reg.CFG_PAD_STATUS_REFUSED, Reg.CFG_PAD_STATUS_REASON⟩
  | .bal => ⟨.bal, Reg.BAL_CTL_ENABLE, Reg.BAL_STATUS_REFUSED, Reg.BAL_STATUS_REASON⟩
  | .pwr => ⟨.pwr, Reg.PWR_CTL_ENABLE, Reg.PWR_STATUS_REFUSED, Reg.PWR_STATUS_REASON⟩
  | .thm => ⟨.thm, Reg.THM_CTL_ENABLE, Reg.THM_STATUS_REFUSED, Reg.THM_STATUS_REASON⟩
  | .phy => ⟨.ikl, Reg.IKL_PHY_CTL_ENABLE, Reg.IKL_PHY_STATUS_REFUSED, Reg.IKL_PHY_STATUS_REASON⟩
  | .cal => ⟨.ikl, Reg.IKL_CAL_CTL_ENABLE, Reg.IKL_CAL_STATUS_REFUSED, Reg.IKL_CAL_STATUS_REASON⟩
  | .ll => ⟨.ikl, Reg.IKL_LL_CTL_ENABLE, Reg.IKL_LL_STATUS_REFUSED, Reg.IKL_LL_STATUS_REASON⟩
  | .gtr => ⟨.gtr, Reg.GTR_CTL_ENABLE, Reg.GTR_STATUS_REFUSED, Reg.GTR_STATUS_REASON⟩
  | .tray => ⟨.tray, Reg.TRY_CTL_ENABLE, Reg.TRY_STATUS_REFUSED, Reg.TRY_STATUS_REASON⟩
  | .port => ⟨.trayPort, Reg.TRYP_PORT_CTL_ENABLE, Reg.TRYP_PORT_STATUS_REFUSED, Reg.TRYP_PORT_STATUS_REASON⟩
  | .portLl => ⟨.trayPort, Reg.TRYP_LL_CTL_ENABLE, Reg.TRYP_LL_STATUS_REFUSED, Reg.TRYP_LL_STATUS_REASON⟩
  | .eng => ⟨.eng, Reg.ENG_CTL_ENABLE, Reg.ENG_STATUS_REFUSED, Reg.ENG_STATUS_REASON⟩
  | .seq => ⟨.seq, Reg.SEQ_CTL_ENABLE, Reg.SEQ_STATUS_REFUSED, Reg.SEQ_STATUS_REASON⟩
  | .syn => ⟨.syn, Reg.SYN_CTL_ENABLE, Reg.SYN_STATUS_REFUSED, Reg.SYN_STATUS_REASON⟩
  | .dma => ⟨.dma, Reg.DMA_CTL_ENABLE, Reg.DMA_STATUS_REFUSED, Reg.DMA_STATUS_REASON⟩
  | .mem => ⟨.mem, Reg.MEM_CTL_ENABLE, Reg.MEM_STATUS_REFUSED, Reg.MEM_STATUS_REASON⟩
  | .pci => ⟨.pci, Reg.PCI_CTL_ENABLE, Reg.PCI_STATUS_REFUSED, Reg.PCI_STATUS_REASON⟩
  | .ethPort => ⟨.ethPort, Reg.ETHP_CTL_ENABLE, Reg.ETHP_STATUS_REFUSED, Reg.ETHP_STATUS_REASON⟩
  | .ptp => ⟨.ptp, Reg.PTP_CTL_ENABLE, Reg.PTP_STATUS_REFUSED, Reg.PTP_STATUS_REASON⟩
  | .fus => ⟨.fus, Reg.FUS_CTL_ENABLE, Reg.FUS_STATUS_REFUSED, Reg.FUS_STATUS_REASON⟩
  | .ldg => ⟨.ldg, Reg.LDG_CTL_ENABLE, Reg.LDG_STATUS_REFUSED, Reg.LDG_STATUS_REASON⟩
  | .boot => ⟨.boot, Reg.BOOT_CTL_ENABLE, Reg.BOOT_STATUS_REFUSED, Reg.BOOT_STATUS_REASON⟩
  | .rcv => ⟨.rcv, Reg.RCV_CTL_ENABLE, Reg.RCV_STATUS_REFUSED, Reg.RCV_STATUS_REASON⟩

/-- Report a refusal of a block with no status of its own: `CFG.LAST_REASON`, `CFG.REFUSALS`, one log record, vector 1
(R419). -/
def State.refuseBlk (s : State) (d : Die) (b : Blk) (inst rc : Nat) : State :=
  ((s.lastReason d b inst rc).log d b inst rc).raise (ownOf d b) 1

/-- Report a refusal of a function: its `STATUS`, `CFG.LAST_REASON`, `CFG.REFUSALS`, one log record, vector 1 (R419). -/
def State.refuse (s : State) (fn : Fn) (d : Die) (inst rc : Nat) : State :=
  let r := fnRegs fn
  ((s.setF d r.blk inst r.refused 1).setF d r.blk inst r.reason rc).refuseBlk d r.blk inst rc

/-- Report a refusal of an instance the variant does not contain: CR0 logs it, naming the absent die, and the instance's
own status stays zero (R9). -/
def State.refuseAbsent (s : State) (d : Die) (b : Blk) (inst : Nat) : State :=
  ((s.lastReason d b inst 0x1009).logAs cr0 d b inst 0x1009 [] 0xFF).raise none 1

/-- Whether a function is enabled. -/
def State.enabled (s : State) (fn : Fn) (d : Die) (inst : Nat := 0) : Bool :=
  s.isF d (fnRegs fn).blk inst (fnRegs fn).enable

/-- One beat passes: the model's clock and the count of every die whose beat PLL is locked go on by one (R34); the UC timers
stand still in a hack (R49) (log entry 10, DESIGN CHOICE). -/
def State.tick (s : State) : State :=
  { s with time := s.time + 1,
           hack := { s.hack with frozen := s.hack.frozen + b2n s.hack.active },
           dies := s.dies.map (fun p => (p.1, if p.2.run then { p.2 with beat := p.2.beat + 1 } else p.2)) }

end Sys2Proof.Machine
end

