-- ==== Sys2Proof/Machine/Mem.lean ====
section
/-! DEFINITION. The bytes and granules of package memory (R242, R248 to R250). -/

namespace Sys2Proof.Machine

/-- What a byte that nothing has written reads as (log entry 4, DESIGN CHOICE). -/
def memDefault : Byte := 0

/-- The canonical form of a memory: addresses strictly rising, no entry equal to what an unlisted address reads as. -/
def Memory.wf (m : List Host.Cell) : Bool := Tab.wf memDefault m

/-- The byte at a package address. -/
def State.rdByte (s : State) (pa : Nat) : Byte := Tab.get memDefault s.mem pa

/-- Bytes from a package address. -/
def State.rdBytes (s : State) (pa : Nat) : Nat → List Byte
  | 0 => []
  | n + 1 => s.rdByte pa :: s.rdBytes (pa + 1) n

/-- Memory with bytes written from an address on. -/
def memPut : List Host.Cell → Nat → List Byte → List Host.Cell
  | m, _, [] => m
  | m, pa, b :: t => memPut (Tab.set memDefault m pa b) (pa + 1) t

/-- Write bytes from a package address on. -/
def State.wrBytes (s : State) (pa : Nat) (l : List Byte) : State := { s with mem := memPut s.mem pa l }

/-- Whether the granule that holds an address is poisoned: the one bit that its copies read as (R248)
(log entry 180, DESIGN CHOICE). -/
def State.poisoned (s : State) (pa : Nat) : Bool := Tab.get false s.poison (pa / 64)

/-- Set or clear the poison of the granule that holds an address. -/
def State.setPoison (s : State) (pa : Nat) (p : Bool) : State := { s with poison := Tab.set false s.poison (pa / 64) p }

/-- Write a whole granule: new data, poison clear (R250). -/
def State.wrGranule (s : State) (pa : Nat) (l : List Byte) : State := (s.wrBytes pa (l.take 64)).setPoison pa false

/-- Poisoned granules among the `n` from an address on. -/
def State.poisonCount (s : State) (pa : Nat) : Nat → Nat
  | 0 => 0
  | n + 1 => b2n (s.poisoned pa) + s.poisonCount (pa + 64) n

/-- A 32-bit little-endian word of memory. -/
def State.rd32 (s : State) (pa : Nat) : Nat := leNat (s.rdBytes pa 4)

/-- A record of a table port: space, die, bank, direction, slot, index. -/
def tblKey (space d bank dir slot idx : Nat) : Nat :=
  ((((space * 8 + d) * 2 + bank) * 2 + dir) * 8 + slot) * 131072 + idx

/-- The record of a table. -/
def State.tbl (s : State) (space d bank dir slot idx : Nat) : Nat := Tab.get 0 s.tables (tblKey space d bank dir slot idx)

/-- The state with another record of a table. -/
def State.setTbl (s : State) (space d bank dir slot idx v : Nat) : State :=
  { s with tables := Tab.set 0 s.tables (tblKey space d bank dir slot idx) v }

end Sys2Proof.Machine
end

