-- ==== Sys2Proof/Machine/Context.lean ====
section
/-! DEFINITION. Context faults, shared by every unit that can raise one (R230, R449). -/

namespace Sys2Proof.Machine

/-- What a die keeps for a context. -/
def State.ctx (s : State) (d : Die) (n : Nat) : CtxSt := Tab.get {} s.ctxs (32 * dieCode d + n)

/-- The state with another content of a context on a die. -/
def State.setCtx (s : State) (d : Die) (n : Nat) (c : CtxSt) : State :=
  { s with ctxs := Tab.set {} s.ctxs (32 * dieCode d + n) c }

/-- The recovery in hand of a domain: a Movement die, or the package (key 4). -/
def State.dom (s : State) (k : Nat) : RcvDom := Tab.get {} s.rcv k

/-- A recovery holds its MVCs in reset: partition level from its dump until the heartbeat that ends it, chip level until it resets
the package (R454, R455) (log entry 169, DEDUCED). -/
def RcvDom.inReset (x : RcvDom) : Bool := (x.level == 3 && x.step == 4) || (x.level == 4 && x.step == 3)

/-- The state with another recovery in hand. -/
def State.setDom (s : State) (k : Nat) (x : RcvDom) : State := { s with rcv := Tab.set {} s.rcv k x }

/-- Whether the die controller of a Movement die runs: its MVL is on, its cores agree, and it is not in reset (R239,
R454). -/
def State.ctlRuns (s : State) (m : Mv) : Bool :=
  s.domOn (8 + m.val) && !bit s.recov.lockstep m.val && !bit s.recov.halted m.val &&
    !(s.dom 4).inReset

/-- Whether the controller of a die answers context faults (R239). -/
def State.answers (s : State) (d : Die) : Bool :=
  match d with
  | .mv m => s.ctlRuns m
  | .cr _ => true

/-- The Movement dies. -/
def mvDies : List Die := [.mv 0, .mv 1, .mv 2, .mv 3]

/-- Byte offset of context `n` in `ENG.CTX`. -/
def ctxOff (n : Nat) : Nat := 0x10 * n

/-- `ENG.CTX[n].STATE.STATE` on a die: 0 unbound, 1 idle, 2 running, 3 faulted. -/
def State.ctxState (s : State) (d : Die) (n : Nat) : Nat := s.getF d .eng 0 Reg.ENG_CTX_STATE_STATE (ctxOff n)

/-- Put a context's state on a die. -/
def State.setCtxState (s : State) (d : Die) (n v : Nat) : State := s.setF d .eng 0 Reg.ENG_CTX_STATE_STATE v (ctxOff n)

/-- Whether the context is an on-demand one on a die. -/
def State.ctxOnDemand (s : State) (d : Die) (n : Nat) : Bool := s.isF d .eng 0 Reg.ENG_CTX_STATE_KIND (ctxOff n)

/-- `CTX_REPEAT` in effect (R449, R468, R469). -/
def State.ctxRepeat (s : State) : Nat :=
  if s.isF cr0 .rcv 0 Reg.RCV_CTL_EXPERT then s.getF cr0 .rcv 0 Reg.RCV_PARAM_CTX_REPEAT else 3

/-- Show that the context is faulted, with its cause, in the FAULTED mask of the die and note the change (R449, R450). -/
def State.markFaulted (s : State) (d : Die) (n : Nat) : State :=
  let x := s.die d
  s.setDie d { x with faulted := setBit x.faulted n,
                      faultBeat := if bit (Nat.lor x.faulted x.combined) n then x.faultBeat else x.beat }

/-- The action a fault of the context takes: on-demand contexts, contexts of action HOLD and contexts that have faulted
`CTX_REPEAT` times without a checkpoint are held (3); others resume from their checkpoint (1) or stream heads (2)
(R449). `hold` forces HOLD, as the fence of R451 does. -/
def ctxAction (s : State) (d : Die) (n : Nat) (hold : Bool) : Nat :=
  let c := s.ctx d n
  if hold || s.ctxOnDemand d n || c.action == 1 || decide (s.ctxRepeat ≤ c.faults + 1) then 3
  else if c.chk then 1 else 2

/-- The die controller answers a context fault: the FAULTED mask, and the action: a restore at the first run that begins a frame
from now, or a hold (R449, R450). -/
def State.answerFault (s : State) (d : Die) (n act : Nat) : State :=
  let s1 := (s.setCtx d n { s.ctx d n with owed := false, resumeAt := if act == 3 then 0 else s.beat d + frameBeats + 1 }).markFaulted
    d n
  if act == 3 then s1.setF cr0 .rcv 0 Reg.RCV_HELD (setBit (s1.getF cr0 .rcv 0 Reg.RCV_HELD) n) else s1

/-- A chip or partition reset of a die is being entered (R444). -/
def State.entering (s : State) (d : Die) : Bool :=
  let on (x : RcvDom) : Bool := decide (3 ≤ x.level) && (decide (1 ≤ x.step ∧ x.step ≤ 2) || x.inReset)
  on (s.dom (dieCode d)) || on (s.dom 4)

/-- The action of a context fault that arises while its die's reset is being entered is dropped; the context waits for the end of
the level (R444) (log entry 175, DEDUCED). -/
def State.dropAction (s : State) (d : Die) (n : Nat) : State :=
  let s1 := (s.setCtx d n { s.ctx d n with owed := false }).markFaulted d n
  { s1 with recov := { s1.recov with lvlHeld := Tab.set 0 s1.recov.lvlHeld (dieCode d) (setBit (Tab.get 0 s1.recov.lvlHeld (dieCode d)) n) } }

/-- Raise a context fault on one die to which the context is bound (R230, R449). `logged` is set where RC 0x9001 has been
written already (R222); `cause` is detail byte 0 and `rc` the other code. A controller that has stopped answers it when it is
restarted (R239). -/
def State.ctxFaultOn (s : State) (n cause eng rc : Nat) (hold logged : Bool) (d : Die) : State :=
  if s.ctxState d n == 0 || s.ctxState d n == 3 then s
  else
    let act := ctxAction s d n hold
    let c := s.ctx d n
    let s1 := (((s.setCtxState d n 3).setF d .eng 0 Reg.ENG_CTX_FAULT_CAUSE cause (ctxOff n)).setF d .eng 0
      Reg.ENG_CTX_FAULT_ENGINE eng (ctxOff n)).setF d .eng 0 Reg.ENG_CTX_FAULT_RC rc (ctxOff n)
    let s2 := (s1.setCtx d n { c with faults := c.faults + 1, stoppedAt := s.time, resumeAt := 0, owed := true }).setF d .eng 0
      Reg.ENG_STATUS_FAULT 1
    let s3 := if logged then s2
      else s2.log d .eng 0 0x9001 ([BitVec.ofNat 8 cause, BitVec.ofNat 8 act] ++ if cause == 0x10 then leBytes 2 rc else []) n
    let s4 := if s3.entering d && !hold then s3.dropAction d n else if s3.answers d then s3.answerFault d n act else s3
    if s.ctxOnDemand d n then s4.raise none (24 + n) else s4

/-- Raise a context fault under a code of another unit, on every die to which the context is bound (R132, R252, R273). -/
def State.ctxFault (s : State) (n rc : Nat) : State :=
  mvDies.foldl (fun t d => t.ctxFaultOn n 0x10 0 rc false false d) s

end Sys2Proof.Machine
end

