-- ==== Sys2Proof/Machine/Fp.lean ====
section
/-! DEFINITION. IEEE 754 FP32 arithmetic on bit patterns, rounding to nearest even (R288, R316, R322; log entry 22, PRESUMED). A
finite value is held as an integer number of units of 2⁻¹⁴⁹. -/

namespace Sys2Proof.Machine

/-- The quiet NaN of R306. -/
def fpNan : Nat := 0x7FC00000

/-- The sign, exponent and fraction fields. -/
def fpSign (b : Nat) : Bool := bit b 31
def fpExp (b : Nat) : Nat := bitsOf b 23 8
def fpFrac (b : Nat) : Nat := b % 2 ^ 23

/-- NaN, infinity, zero. -/
def fpIsNan (b : Nat) : Bool := fpExp b == 255 && fpFrac b != 0
def fpIsInf (b : Nat) : Bool := fpExp b == 255 && fpFrac b == 0
def fpIsZero (b : Nat) : Bool := b % 2 ^ 31 == 0

/-- A finite value in units of 2⁻¹⁴⁹, without its sign, and with it. -/
def fpMag (b : Nat) : Nat := if fpExp b == 0 then fpFrac b else (2 ^ 23 + fpFrac b) * 2 ^ (fpExp b - 1)
def fpInt (b : Nat) : Int := if fpSign b then -(fpMag b : Int) else fpMag b

/-- Infinity and zero of a sign. -/
def fpInf (neg : Bool) : Nat := 0x7F800000 + 2 ^ 31 * b2n neg

/-- The quotient `num / den`, rounded to the nearest integer, halves to even. -/
def divEven (num den : Nat) : Nat :=
  let q := num / den
  let r := num % den
  if 2 * r < den then q else if den < 2 * r then q + 1 else q + q % 2

/-- The FP32 value nearest to ± `num / den` (`den` not zero). -/
def fpRound (neg : Bool) (num den : Nat) : Nat :=
  if num == 0 then 2 ^ 31 * b2n neg
  else
    let e0 : Int := (Nat.log2 num : Int) - Nat.log2 den
    let below : Bool := if 0 ≤ e0 then decide (num < den * 2 ^ e0.toNat) else decide (num * 2 ^ (-e0).toNat < den)
    let e := max (if below then e0 - 1 else e0) (-126)
    let sh := 23 - e
    let r := if 0 ≤ sh then divEven (num * 2 ^ sh.toNat) den else divEven num (den * 2 ^ (-sh).toNat)
    min ((e + 126).toNat * 2 ^ 23 + r) 0x7F800000 + 2 ^ 31 * b2n neg

/-- The FP32 value nearest to a rational. -/
def fpOfRat (num : Int) (den : Nat) : Nat := fpRound (decide (num < 0)) num.natAbs den

/-- The FP32 value nearest to an integer. -/
def fpOfInt (i : Int) : Nat := fpOfRat i 1

/-- The negative. -/
def fpNeg (a : Nat) : Nat := if fpSign a then a % 2 ^ 31 else a % 2 ^ 31 + 2 ^ 31

/-- Addition. -/
def fpAdd (a b : Nat) : Nat :=
  if fpIsNan a || fpIsNan b then fpNan
  else if fpIsInf a then (if fpIsInf b && fpSign a != fpSign b then fpNan else a)
  else if fpIsInf b then b
  else
    let s := fpInt a + fpInt b
    if s == 0 then 2 ^ 31 * b2n (fpSign a && fpSign b) else fpOfRat s (2 ^ 149)

/-- Subtraction. -/
def fpSub (a b : Nat) : Nat := fpAdd a (fpNeg b)

/-- Multiplication. -/
def fpMul (a b : Nat) : Nat :=
  let neg := fpSign a != fpSign b
  if fpIsNan a || fpIsNan b then fpNan
  else if fpIsInf a || fpIsInf b then (if fpIsZero a || fpIsZero b then fpNan else fpInf neg)
  else fpRound neg (fpMag a * fpMag b) (2 ^ 298)

/-- Division. -/
def fpDiv (a b : Nat) : Nat :=
  let neg := fpSign a != fpSign b
  if fpIsNan a || fpIsNan b then fpNan
  else if fpIsInf a then (if fpIsInf b then fpNan else fpInf neg)
  else if fpIsInf b then 2 ^ 31 * b2n neg
  else if fpIsZero b then (if fpIsZero a then fpNan else fpInf neg)
  else fpRound neg (fpMag a) (fpMag b)

/-- The integer square root, bit by bit from bit `n − 1` down. -/
def isqrtFrom (v : Nat) : Nat → Nat → Nat
  | 0, r => r
  | n + 1, r => if (r + 2 ^ n) * (r + 2 ^ n) ≤ v then isqrtFrom v n (r + 2 ^ n) else isqrtFrom v n r

/-- The integer square root. -/
def isqrt (v : Nat) : Nat := isqrtFrom v (Nat.log2 v / 2 + 1) 0

/-- The square root. -/
def fpSqrt (a : Nat) : Nat :=
  if fpIsNan a then fpNan
  else if fpIsZero a then a
  else if fpSign a then fpNan
  else if fpIsInf a then a
  else
    let v := fpMag a * 2 ^ 149
    let r := isqrt v
    fpRound false (2 * r + (if r * r == v then 0 else 1)) (2 ^ 150)

/-- Whether `a < b`; false where either is a NaN. -/
def fpLt (a b : Nat) : Bool :=
  if fpIsNan a || fpIsNan b then false
  else
    let v (x : Nat) : Int := if fpIsInf x then (if fpSign x then -(2 ^ 300) else 2 ^ 300) else fpInt x
    decide (v a < v b)

/-- Whether `a ≤ b`. -/
def fpLe (a b : Nat) : Bool := !fpIsNan a && !fpIsNan b && !fpLt b a

/-- The absolute value. -/
def fpAbs (a : Nat) : Nat := a % 2 ^ 31

/-- `v` brought into the interval from `lo` to `hi`. -/
def fpClamp (lo hi v : Nat) : Nat := if fpLt v lo then lo else if fpLt hi v then hi else v

/-- One, zero, π and 2π. -/
def fpOne : Nat := 0x3F800000
def fpPi : Nat := 0x40490FDB
def fpTwoPi : Nat := 0x40C90FDB

/-- Cosine, sine and the angle of a point (log entry 22, PRESUMED). -/
def fpCos (a : Nat) : Nat := Config.fpCos a % 2 ^ 32
def fpSin (a : Nat) : Nat := Config.fpSin a % 2 ^ 32
def fpAngle (x y : Nat) : Nat := Config.fpAngle x y % 2 ^ 32

/-- Whether the value of a register lies from `lo` to `hi`, both given in units of 10⁻⁹ (R327). -/
def fpWithin (v : Nat) (lo hi : Nat) : Bool :=
  !fpIsNan v && !fpIsInf v && decide ((lo : Int) * 2 ^ 149 ≤ fpInt v * 10 ^ 9 ∧ fpInt v * 10 ^ 9 ≤ (hi : Int) * 2 ^ 149)

/-! ### Complex values, as pairs of FP32 -/

/-- Addition, subtraction, multiplication, conjugate, division by a real, squared magnitude, magnitude. -/
def cAdd (a b : Nat × Nat) : Nat × Nat := (fpAdd a.1 b.1, fpAdd a.2 b.2)
def cSub (a b : Nat × Nat) : Nat × Nat := (fpSub a.1 b.1, fpSub a.2 b.2)
def cMul (a b : Nat × Nat) : Nat × Nat :=
  (fpSub (fpMul a.1 b.1) (fpMul a.2 b.2), fpAdd (fpMul a.1 b.2) (fpMul a.2 b.1))
def cConj (a : Nat × Nat) : Nat × Nat := (a.1, fpNeg a.2)
def cScale (k : Nat) (a : Nat × Nat) : Nat × Nat := (fpMul k a.1, fpMul k a.2)
def cOver (a : Nat × Nat) (k : Nat) : Nat × Nat := (fpDiv a.1 k, fpDiv a.2 k)
def cSq (a : Nat × Nat) : Nat := fpAdd (fpMul a.1 a.1) (fpMul a.2 a.2)
def cAbs (a : Nat × Nat) : Nat := fpSqrt (cSq a)
def cPolar (r th : Nat) : Nat × Nat := (fpMul r (fpCos th), fpMul r (fpSin th))

end Sys2Proof.Machine
end

