-- ==== Sys2Proof/Machine/Sha.lean ====
section
/-! DEFINITION. The cryptography of signed objects (R386): SHA-384 as FIPS 180-4 defines it, and ECDSA verification on the curve
P-384 as FIPS 186-5 defines it. The constants are the standards' own; the spec names the functions and not their
constants. -/

namespace Sys2Proof.Machine

/-! ### SHA-384 -/

/-- The first 80 prime numbers. -/
def shaPrimes : List Nat := (List.range 410).filter fun n => decide (2 ≤ n) && (List.range 20).all fun d => n % (d + 2) != 0 || n == d + 2

/-- The integer cube root, bit by bit from bit `n − 1` down. -/
def icbrtFrom (v : Nat) : Nat → Nat → Nat
  | 0, r => r
  | n + 1, r => icbrtFrom v n (if (r + 2 ^ n) ^ 3 ≤ v then r + 2 ^ n else r)

/-- The round constants: the first 64 bits of the fractions of the cube roots of the first 80 primes. -/
def shaRounds : List Nat := shaPrimes.map fun p => icbrtFrom (p * 2 ^ 192) 67 0 % 2 ^ 64

/-- The initial hash value of SHA-384: the same of the square roots of the ninth to the sixteenth prime. -/
def shaStart : List Nat := ((shaPrimes.drop 8).take 8).map fun p => isqrt (p * 2 ^ 128) % 2 ^ 64

/-- A word turned right by each of the numbers of places, and shifted right by the last number, where it is not zero, combined by
exclusive or: the functions Σ and σ of the standard. -/
def shaMix (turns : List Nat) (shift x : Nat) : Nat :=
  (turns.map fun n => x / 2 ^ n + x % 2 ^ n * 2 ^ (64 - n)).foldl Nat.xor (if shift == 0 then 0 else x / 2 ^ shift)

/-- Word `t` of the message schedule from the words before it, newest first. -/
def shaNext (w : List Nat) : Nat :=
  (shaMix [19, 61] 6 (w.getD 1 0) + w.getD 6 0 + shaMix [1, 8] 7 (w.getD 14 0) + w.getD 15 0) % 2 ^ 64

/-- The working variables after a round, as the two series they are: a and the three values it had before, e and the three it
had before. -/
def shaRound (v : List Nat × List Nat) (kw : Nat) : List Nat × List Nat :=
  let pick := Nat.xor (Nat.land (v.2.getD 0 0) (v.2.getD 1 0)) (Nat.land (2 ^ 64 - 1 - v.2.getD 0 0) (v.2.getD 2 0))
  let most := Nat.xor (Nat.land (v.1.getD 0 0) (Nat.xor (v.1.getD 1 0) (v.1.getD 2 0))) (Nat.land (v.1.getD 1 0) (v.1.getD 2 0))
  let fresh := v.2.getD 3 0 + shaMix [14, 18, 41] 0 (v.2.getD 0 0) + pick + kw
  (((fresh + shaMix [28, 34, 39] 0 (v.1.getD 0 0) + most) % 2 ^ 64) :: v.1.take 3, ((v.1.getD 3 0 + fresh) % 2 ^ 64) :: v.2.take 3)

/-- All rounds over a block: one word of the schedule a round, the latest sixteen kept newest first. -/
def shaRun : List Nat → List Nat → List Nat × List Nat → List Nat × List Nat
  | [], _, v => v
  | k :: ks, w, v => shaRun ks ((shaNext w :: w).take 16) (shaRound v (k + w.getD 15 0))

/-- The hash value after a block of 128 bytes. -/
def shaBlock (rounds hash : List Nat) (block : List Byte) : List Nat :=
  let words := (List.range 16).map fun i => beNat ((block.drop (8 * (15 - i))).take 8)
  let v := shaRun rounds words (hash.take 4, hash.drop 4)
  (hash.zip (v.1 ++ v.2)).map fun p => (p.1 + p.2) % 2 ^ 64

/-- A message padded to whole blocks: a one bit, zeros, the length in bits. -/
def shaPad (l : List Byte) : List Byte :=
  l ++ 0x80 :: List.replicate ((239 - l.length % 128) % 128) 0 ++ beBytes 16 (8 * l.length)

/-- SHA-384 of a message, as a number of 384 bits, its first byte most significant (log entry 73, PRESUMED). -/
def sha384 (l : List Byte) : Nat :=
  let p := shaPad l
  let rounds := shaRounds
  let hash := (List.range (p.length / 128)).foldl (fun h j => shaBlock rounds h ((p.drop (128 * j)).take 128)) shaStart
  hash.foldl (fun t w => t * 2 ^ 64 + w) 0 / 2 ^ 128

/-! ### ECDSA on P-384 -/

/-- The prime of the field, the order of the base point, the coefficient b and the base point. -/
def ecP : Nat := 0xfffffffffffffffffffffffffffffffffffffffffffffffffffffffffffffffeffffffff0000000000000000ffffffff
def ecN : Nat := 0xffffffffffffffffffffffffffffffffffffffffffffffffc7634d81f4372ddf581a0db248b0a77aecec196accc52973
def ecB : Nat := 0xb3312fa7e23ee7e4988e056be3f82d19181d9c6efe8141120314088f5013875ac656398d8a2ed19d2a85c8edd3ec2aef
def ecGx : Nat := 0xaa87ca22be8b05378eb1c71ef320ad746e1d3b628ba79b9859f741e082542a385502f25dbf55296c3a545e3872760ab7
def ecGy : Nat := 0x3617de4a96262c6f5d9e98bf9292dc29f8f41dbd289a147ce9da3113b5f0b8c00a60b1ce1d7e819d7a431d7c90ea0e5f

/-- A point in Jacobian coordinates over the field; z = 0 is the point at infinity. -/
structure EcPoint where
  x : Nat
  y : Nat
  z : Nat

/-- Difference in the field. -/
def ecSub (a b : Nat) : Nat := (a + ecP - b % ecP) % ecP

/-- Twice a point; the curve's a is −3. -/
def EcPoint.double (p : EcPoint) : EcPoint :=
  let yy := p.y * p.y % ecP
  let zz := p.z * p.z % ecP
  let s := 4 * p.x * yy % ecP
  let m := 3 * ecSub p.x zz * (p.x + zz) % ecP
  let x := ecSub (m * m) (2 * s)
  ⟨x, ecSub (m * ecSub s x) (8 * yy * yy), 2 * p.y * p.z % ecP⟩

/-- The sum of two points. -/
def EcPoint.add (p q : EcPoint) : EcPoint :=
  if p.z == 0 then q
  else if q.z == 0 then p
  else
    let zp := p.z * p.z % ecP
    let zq := q.z * q.z % ecP
    let u1 := p.x * zq % ecP
    let u2 := q.x * zp % ecP
    let s1 := p.y * zq * q.z % ecP
    let s2 := q.y * zp * p.z % ecP
    if u1 == u2 then (if s1 == s2 then p.double else ⟨1, 1, 0⟩)
    else
      let h := ecSub u2 u1
      let r := ecSub s2 s1
      let hh := h * h % ecP
      let v := u1 * hh % ecP
      let x := ecSub (ecSub (r * r) (hh * h)) (2 * v)
      ⟨x, ecSub (r * ecSub v x) (s1 * hh * h), h * p.z * q.z % ecP⟩

/-- `k` times a point, over the lowest `n` bits of `k`. -/
def EcPoint.mul (p : EcPoint) (k : Nat) : Nat → EcPoint
  | 0 => ⟨1, 1, 0⟩
  | n + 1 =>
    let q := (p.mul (k / 2) n).double
    if bit k 0 then q.add p else q

/-- `b ^ e` modulo `m`, over the lowest `n` bits of `e`. -/
def powMod (b m e : Nat) : Nat → Nat
  | 0 => 1 % m
  | n + 1 =>
    let r := powMod b m (e / 2) n
    let r2 := r * r % m
    if bit e 0 then r2 * b % m else r2

/-- Whether (x, y) is a point of the curve. -/
def onCurve (x y : Nat) : Bool :=
  decide (x < ecP ∧ y < ecP) && y * y % ecP == (x * x * x + 3 * (ecP - x) + ecB) % ecP

/-- Whether (r, s) is the signature of a message under the key (qx, qy). -/
def ecdsaOk (qx qy : Nat) (msg : List Byte) (r s : Nat) : Bool :=
  if !decide (0 < r ∧ r < ecN ∧ 0 < s ∧ s < ecN) || !onCurve qx qy then false
  else
    let w := powMod s ecN (ecN - 2) 384
    let u1 := sha384 msg % ecN * w % ecN
    let u2 := r * w % ecN
    let g : EcPoint := ⟨ecGx, ecGy, 1⟩
    let q : EcPoint := ⟨qx, qy, 1⟩
    let p := (g.mul u1 384).add (q.mul u2 384)
    if p.z == 0 then false
    else
      let zi := powMod p.z ecP (ecP - 2) 384
      p.x * zi % ecP * zi % ecP % ecN == r

end Sys2Proof.Machine
end

