-- ==== Sys2Proof/Machine/Signed.lean ====
section
/-! DEFINITION. Signed objects: the header of R385, its verification (R386) and the rollback minimum (R387). -/

namespace Sys2Proof.Machine

/-- The sizes of the flash areas (R382). -/
def areaRecord : Nat := 0x100000
def areaFw : Nat := 0x400000
def areaImage : Nat := 0x3800000

/-- Bytes of a signed object's header. -/
def hdrLen : Nat := 272

/-- `n` bytes from an offset. -/
def cut (l : List Byte) (at_ n : Nat) : List Byte := (l.drop at_).take n

/-- Fields of the header (R385). -/
def oMagic (l : List Byte) : Nat := beNat (cut l 0 4)
def oType (l : List Byte) : Nat := beNat (cut l 4 1)
def oLen (l : List Byte) : Nat := beNat (cut l 8 4)
def oRbId (l : List Byte) : Nat := beNat (cut l 12 1)
def oRev (l : List Byte) : Nat := beNat (cut l 13 1)
def oVersion (l : List Byte) : Nat := beNat (cut l 16 4)
def oBodyHash (l : List Byte) : Nat := beNat (cut l 128 48)

/-- The body. -/
def oBody (l : List Byte) : List Byte := cut l hdrLen (oLen l)

/-- `SEC.ROOT_HASH` as a number of 384 bits, word 0 first; a word's bits 7:0 are the first of its bytes, as for the
identities of R24 (log entry 77, DEDUCED). -/
def State.rootHash (s : State) : Nat :=
  beNat ((List.range 12).map fun i => leBytes 4 (s.getF cr0 .sec 0 Reg.SEC_ROOT_HASH (4 * i))).flatten

/-- An object verifies for its type and area (R386). -/
def verifies (root type area : Nat) (l : List Byte) : Bool :=
  oMagic l == 0x54534F31 && oType l == type &&
    beNat (cut l 5 3) == 0 && beNat (cut l 14 2) == 0 && beNat (cut l 20 12) == 0 &&
    decide (hdrLen + oLen l ≤ area) && decide (hdrLen + oLen l ≤ l.length) &&
    sha384 (cut l 32 96) == root && sha384 (oBody l) == oBodyHash l &&
    ecdsaOk (beNat (cut l 32 48)) (beNat (cut l 80 48)) (cut l 0 176) (beNat (cut l 176 48)) (beNat (cut l 224 48))

/-- The minimum of a rollback counter (R387); a number that no counter has has none (log entry 76, DEDUCED). -/
def State.rbMin (s : State) (ctr : Nat) : Nat := if ctr < 3 then s.getF cr0 .sec 0 Reg.SEC_MIN (4 * ctr) else 0

/-- Why an object fails under a root-key hash, and under CR0's: RC 0xA001, RC 0x1009 for another silicon revision, RC 0xA002
below its rollback minimum; none when it passes (R386, R387). CR1's own bundle too is held to CR0's revision and minima
(log entry 75, PRESUMED). -/
def State.objectFaultBy (s : State) (root type area : Nat) (l : List Byte) : Option Nat :=
  if !verifies root type area l then some 0xA001
  else if oRev l != 0 && oRev l != s.getF cr0 .cfg 0 Reg.CFG_VARIANT_SILICON_REV then some 0x1009
  else if decide (oVersion l < s.rbMin (oRbId l)) then some 0xA002
  else none

def State.objectFault (s : State) (type area : Nat) (l : List Byte) : Option Nat := s.objectFaultBy s.rootHash type area l

/-- Log why an object failed; RC 0xA001 carries the index of its flash area (R386) (log entry 125, DEDUCED). -/
def State.logFault (s : State) (b : Blk) (area rc : Nat) : State :=
  s.log cr0 b 0 rc (if rc == 0xA001 then [BitVec.ofNat 8 area] else [])

/-- Show the VERSION of a verified object, by its counter (R388). -/
def State.noteVersion (s : State) (l : List Byte) : State :=
  if oRbId l < 3 then s.setF cr0 .sec 0 Reg.SEC_VERSION (oVersion l) (4 * oRbId l) else s

end Sys2Proof.Machine
end

