-- ==== Sys2Proof/Machine/Mx.lean ====
section
/-! DEFINITION. The element formats of the engines, FP32 accumulation, and conversion to an MX format (R213 to R215; the OCP
formats by log entry 154, PRESUMED). -/

namespace Sys2Proof.Machine

/-! ### Values -/

/-- The value of an element: not a number, an infinity, or ± `m` × 2ᵉ. -/
inductive Val where
  | nan
  | inf (neg : Bool)
  | fin (neg : Bool) (m : Nat) (e : Int)
  deriving DecidableEq, Repr

/-- The value of an FP32 pattern. -/
def Val.ofFp (b : Nat) : Val :=
  if fpIsNan b then .nan else if fpIsInf b then .inf (fpSign b) else .fin (fpSign b) (fpMag b) (-149)

/-- The nearest FP32 value, halves to even. -/
def Val.toFp : Val → Nat
  | .nan => fpNan
  | .inf neg => fpInf neg
  | .fin neg m e => if 0 ≤ e then fpRound neg (m * 2 ^ e.toNat) 1 else fpRound neg m (2 ^ (-e).toNat)

/-- The exact product. -/
def Val.mul : Val → Val → Val
  | .nan, _ => .nan
  | _, .nan => .nan
  | .inf a, .inf b => .inf (a != b)
  | .inf a, .fin b m _ => if m == 0 then .nan else .inf (a != b)
  | .fin a m _, .inf b => if m == 0 then .nan else .inf (a != b)
  | .fin a m e, .fin b n f => .fin (a != b) (m * n) (e + f)

/-- A value added to an FP32 accumulator, rounded once to nearest even; subnormal results are kept (R214) (log entry 155,
DEDUCED). -/
def accumulate (acc : Nat) (v : Val) : Nat :=
  match Val.ofFp acc, v with
  | .nan, _ => fpNan
  | _, .nan => fpNan
  | .inf a, .inf b => if a == b then fpInf a else fpNan
  | .inf a, .fin _ _ _ => fpInf a
  | .fin _ _ _, .inf b => fpInf b
  | .fin a m e, .fin b n f =>
    let low := min e f
    let part (neg : Bool) (k : Nat) (x : Int) : Int := (if neg then -1 else 1) * ((k * 2 ^ (x - low).toNat : Nat) : Int)
    let sum := part a m e + part b n f
    if sum == 0 then 2 ^ 31 * b2n (a && b) else Val.toFp (.fin (decide (sum < 0)) sum.natAbs low)

/-- A fused multiply-add of FP32 values (R216). -/
def fpFma (a b c : Nat) : Nat := accumulate c ((Val.ofFp a).mul (Val.ofFp b))

/-! ### Formats (R213) -/

/-- Bits of an element. -/
def fmtBits : Fmt → Nat
  | .mxfp4 => 4
  | .mxfp6e3m2 => 6
  | .mxfp6e2m3 => 6
  | .mxfp8e4m3 => 8
  | .mxfp8e5m2 => 8
  | .mxint8 => 8
  | .bf16 => 16
  | .fp32 => 32

/-- Whether 32 elements share a scale. -/
def fmtMx : Fmt → Bool
  | .bf16 => false
  | .fp32 => false
  | _ => true

/-- Fraction bits, exponent bias and largest finite code of a floating-point element format. -/
def fmtShape : Fmt → Nat × Nat × Nat
  | .mxfp4 => (1, 1, 0x7)
  | .mxfp6e3m2 => (2, 3, 0x1F)
  | .mxfp6e2m3 => (3, 1, 0x1F)
  | .mxfp8e4m3 => (3, 7, 0x7E)
  | .mxfp8e5m2 => (2, 15, 0x7B)
  | _ => (0, 0, 0)

/-- The largest exponent of an MX element format. -/
def fmtEmax : Fmt → Int
  | .mxfp4 => 2
  | .mxfp6e3m2 => 4
  | .mxfp6e2m3 => 2
  | .mxfp8e4m3 => 8
  | .mxfp8e5m2 => 15
  | _ => 0

/-- The value of an element code without its scale. -/
def fmtValue (f : Fmt) (code : Nat) : Val :=
  match f with
  | .fp32 => Val.ofFp code
  | .bf16 => Val.ofFp (code * 2 ^ 16)
  | .mxint8 => if code < 128 then .fin false code (-6) else .fin true (256 - code) (-6)
  | _ =>
    let (k, bias, _) := fmtShape f
    let neg := bit code (fmtBits f - 1)
    let u := code % 2 ^ (fmtBits f - 1)
    let e := u / 2 ^ k
    let m := u % 2 ^ k
    if f == .mxfp8e4m3 && u == 0x7F then .nan
    else if f == .mxfp8e5m2 && e == 31 then (if m == 0 then .inf neg else .nan)
    else if e == 0 then .fin neg m (1 - (bias : Int) - k)
    else .fin neg (2 ^ k + m) ((e : Int) - bias - k)

/-- The value of an element under an E8M0 scale; 0xFF is NaN. -/
def Val.scaled (v : Val) (scale : Nat) : Val :=
  if scale == 255 then .nan
  else match v with
    | .fin neg m e => .fin neg m (e + scale - 127)
    | x => x

/-! ### Conversion to an MX format (R215) -/

/-- The code of a magnitude `num / den` in a floating-point element format, rounded to nearest even and saturated. -/
def fmtCode (f : Fmt) (num den : Nat) : Nat :=
  let (k, bias, top) := fmtShape f
  if num == 0 then 0
  else
    let e0 : Int := (Nat.log2 num : Int) - Nat.log2 den
    let below : Bool := if 0 ≤ e0 then decide (num < den * 2 ^ e0.toNat) else decide (num * 2 ^ (-e0).toNat < den)
    let least : Int := 1 - (bias : Int)
    let e := max (if below then e0 - 1 else e0) least
    let sh := (k : Int) - e
    let r := if 0 ≤ sh then divEven (num * 2 ^ sh.toNat) den else divEven num (den * 2 ^ (-sh).toNat)
    min ((e - least).toNat * 2 ^ k + r) top

/-- The code of an FP32 value in an MX element format under a scale (log entry 154, PRESUMED: MXINT8 saturates to ±127). -/
def fmtElement (f : Fmt) (scale v : Nat) : Nat :=
  let sh : Int := (scale : Int) - 127 + 149
  let num := if 0 ≤ sh then fpMag v else fpMag v * 2 ^ (-sh).toNat
  let den := if 0 ≤ sh then 2 ^ sh.toNat else 1
  if f == .mxint8 then
    let r := min (divEven (num * 64) den) 127
    if fpSign v && r != 0 then 256 - r else r
  else fmtCode f num den + 2 ^ (fmtBits f - 1) * b2n (fpSign v)

/-- The scale of a block of FP32 values (R215); a scale below the least code is the least code (log entry 154, PRESUMED). -/
def fmtScale (f : Fmt) (l : List Nat) : Nat :=
  let amax := (l.map fpMag).foldl max 0
  if l.any fun v => fpIsNan v || fpIsInf v then 255
  else if amax == 0 then 0
  else ((Nat.log2 amax : Int) - 149 - fmtEmax f + 127).toNat

/-- A block of FP32 values in an MX format: its scale and its element codes. -/
def fmtBlock (f : Fmt) (l : List Nat) : Nat × List Nat :=
  let s := fmtScale f l
  if s == 255 then (s, (List.range l.length).map fun i => Config.nanElement l i % 2 ^ fmtBits f)
  else (s, l.map (fmtElement f s))

/-- A BF16 pattern nearest to an FP32 value, halves to even. -/
def bf16Of (v : Nat) : Nat := if fpIsNan v then 0x7FC0 else divEven (v % 2 ^ 31) (2 ^ 16) + 2 ^ 15 * b2n (fpSign v)

/-! ### Rows of a tensor in memory -/

/-- The bytes that `n` elements of a format take. -/
def fmtBytes (f : Fmt) (n : Nat) : Nat := (n * fmtBits f + 7) / 8

/-- A number read from `n` bytes, little-endian. -/
def numAt (rd : Nat → Byte) (a n : Nat) : Nat := leNat ((List.range n).map fun i => rd (a + i))

/-- The code of an element: row `r`, column `c`. -/
def tCode (t : Tensor) (rd : Nat → Byte) (r c : Nat) : Nat :=
  let b := c * fmtBits t.fmt
  numAt rd (t.base + r * t.pitch + b / 8) ((b % 8 + fmtBits t.fmt + 7) / 8) / 2 ^ (b % 8) % 2 ^ fmtBits t.fmt

/-- Its value. -/
def tVal (t : Tensor) (rd : Nat → Byte) (r c : Nat) : Val :=
  let v := fmtValue t.fmt (tCode t rd r c)
  if fmtMx t.fmt then v.scaled (rd (t.scale + r * t.scalePitch + c / 32)).toNat else v

/-- Its value in FP32. -/
def tFp (t : Tensor) (rd : Nat → Byte) (r c : Nat) : Nat :=
  if t.fmt == .fp32 then tCode t rd r c else (tVal t rd r c).toFp

/-- Codes of `w` bits one after the other, from the lowest bit up. -/
def packCodes (w : Nat) : List Nat → Nat
  | [] => 0
  | c :: t => c % 2 ^ w + 2 ^ w * packCodes w t

/-- The blocks of a row. -/
def rowBlocks (l : List Nat) : List (List Nat) := (List.range ((l.length + 31) / 32)).map fun j => (l.drop (32 * j)).take 32

/-- What a row of FP32 values becomes in memory: addresses and bytes. -/
def tPut (t : Tensor) (r : Nat) (l : List Nat) : List (Nat × List Byte) :=
  let at_ := t.base + r * t.pitch
  let bytes (codes : List Nat) : Nat × List Byte := (at_, leBytes (fmtBytes t.fmt l.length) (packCodes (fmtBits t.fmt) codes))
  if fmtMx t.fmt then
    let bs := (rowBlocks l).map (fmtBlock t.fmt)
    [bytes (bs.map (·.2)).flatten, (t.scale + r * t.scalePitch, bs.map fun b => BitVec.ofNat 8 b.1)]
  else if t.fmt == .bf16 then [bytes (l.map bf16Of)]
  else [bytes l]

/-- The ranges that some rows of `n` elements take. -/
def tRows (t : Tensor) (rs : List Nat) (n : Nat) : List (Nat × Nat) :=
  (rs.map fun r => (t.base + r * t.pitch, fmtBytes t.fmt n) ::
    if fmtMx t.fmt then [(t.scale + r * t.scalePitch, (n + 31) / 32)] else []).flatten

end Sys2Proof.Machine
end

