-- ==== Sys2Proof/Machine/Compute.lean ====
section
/-! DEFINITION. What a descriptor computes from the bytes it reads: its results, the memory it reads and writes, its multiply-
accumulates and the beats it takes at least (R214 to R216, R218, R231, R232, R234, R238). `rd` gives the byte at a tray address. -/

namespace Sys2Proof.Machine

/-! ### The matrix and vector units (R214, R218) -/

/-- Row `r` of a product: for each column the products of the row of A with the row of B, added in the descriptor's order. -/
def productRow (rd : Nat → Byte) (a b : Tensor) (c : Option Tensor) (order : List Nat) (n r : Nat) : List Nat :=
  (List.range n).map fun j =>
    let first := match c with
      | some t => tFp t rd r j
      | none => 0
    order.foldl (fun acc k => accumulate acc ((tVal a rd r k).mul (tVal b rd j k))) first

/-- An element-wise operation on FP32 values. -/
def mapFn (fn : MapFn) (l : List Nat) : Nat :=
  let x := l.getD 0 0
  let y := l.getD 1 0
  match fn with
  | .add => fpAdd x y
  | .sub => fpSub x y
  | .mul => fpMul x y
  | .fma => fpFma x y (l.getD 2 0)
  | .max => if fpIsNan x || fpIsNan y then fpNan else if fpLt x y then y else x
  | .min => if fpIsNan x || fpIsNan y then fpNan else if fpLt y x then y else x
  | .other code => Config.vectorFn code l % 2 ^ 32

/-- A reduction of FP32 values in the order given. -/
def redFn (fn : RedFn) : List Nat → Nat
  | [] => 0
  | x :: l => l.foldl (fun acc y => match fn with
    | .sum => fpAdd acc y
    | .max => mapFn .max [acc, y]
    | .min => mapFn .min [acc, y]) x

/-- The index at a place of an index list: 32 bits, little-endian (log entry 150, DESIGN CHOICE). -/
def indexAt (rd : Nat → Byte) (base i : Nat) : Nat := numAt rd (base + 4 * i) 4

/-! ### The scan engine (R232) -/

/-- The row of a position in the ring of a sequence (R231) (log entry 150, DESIGN CHOICE). -/
def seqRow (q : Seq) (p : Nat) : Nat := p % 16777216 % (q.len1.val + 1)

/-- A coefficient at a position: for channel `c` and element `j` of the state. -/
def coefAt (rd : Nat → Byte) (x : ScanOp) (k : Coef) (p c j v : Nat) : Nat :=
  match k with
  | .read t => tFp t rd (seqRow x.seq p) (c * (x.width1.val + 1) + j)
  | .gate code => Config.gateFn code v j % 2 ^ 32

/-- The state of a channel after a position: h_t = a_t ⊙ h_(t−1) + b_t ⊙ x_t, in FP32. -/
def scanState (rd : Nat → Byte) (x : ScanOp) (p c : Nat) (h : List Nat) : List Nat :=
  let v := tFp x.seq.elems rd (seqRow x.seq p) c
  (List.range (x.width1.val + 1)).map fun j =>
    fpAdd (fpMul (coefAt rd x x.a p c j v) (h.getD j 0)) (fpMul (coefAt rd x x.b p c j v) v)

/-- The output of a channel at a position: y_t = ⟨c_t, h_t⟩ + d ⊙ x_t. -/
def scanOutput (rd : Nat → Byte) (x : ScanOp) (p c : Nat) (h : List Nat) : Nat :=
  let v := tFp x.seq.elems rd (seqRow x.seq p) c
  let dot := (List.range (x.width1.val + 1)).foldl (fun acc j => fpAdd acc (fpMul (coefAt rd x x.c p c j v) (h.getD j 0))) 0
  fpAdd dot (fpMul (tFp x.d rd 0 c) v)

/-- Whether the `i`-th position of the range has an output (log entry 150, DESIGN CHOICE: the last of each 2ᵏ). -/
def scanEmits (x : ScanOp) (i : Nat) : Bool :=
  match x.which with
  | .each k => (i + 1) % 2 ^ k.val == 0
  | .last => i == x.count1.val

/-- The initial state: zero, or read. -/
def scanInit (rd : Nat → Byte) (x : ScanOp) : List (List Nat) :=
  let n := x.width1.val + 1
  (List.range (x.chan1.val + 1)).map fun c => (List.range n).map fun j =>
    match x.init with
    | some a => numAt rd (a + 4 * (c * n + j)) 4
    | none => 0

/-- A scan over its range: the final state, and the outputs, one list of channels an output. -/
def scanRun (rd : Nat → Byte) (x : ScanOp) : List (List Nat) × List (List Nat) :=
  (List.range (x.count1.val + 1)).foldl (fun acc i =>
    let p := x.start.val + i
    let hs := acc.1.mapIdx fun c h => scanState rd x p c h
    (hs, if scanEmits x i then acc.2 ++ [hs.mapIdx fun c h => scanOutput rd x p c h] else acc.2)) (scanInit rd x, [])

/-! ### Retrieval (R234) -/

/-- The width of a sequence's keys. -/
def keyWidth (q : Seq) : Nat := if q.wide then 128 else 64

/-- The blocks of the range, 256 positions each. -/
def retrieveBlocks (x : RetrieveOp) : List Nat :=
  (List.range ((x.start.val % 256 + x.count1.val + 256) / 256)).map fun i => (x.start.val / 256 + i) % 65536

/-- The score of a block for a query: the dot product with its summary key. -/
def blockScore (rd : Nat → Byte) (x : RetrieveOp) (q b : Nat) : Nat :=
  (List.range (keyWidth x.seq)).foldl (fun acc k => accumulate acc ((tVal x.query rd q k).mul (tVal x.seq.summary rd b k))) 0

/-- Put a scored block into a list by falling score, and by rising number within a score (log entry 153, DESIGN CHOICE: a score
that is not a number comes last). -/
def rank (s b : Nat) : List (Nat × Nat) → List (Nat × Nat)
  | [] => [(s, b)]
  | (t, c) :: l =>
    let before := if fpIsNan s then fpIsNan t && decide (b < c) else fpIsNan t || fpLt t s || (!fpLt s t && decide (b < c))
    if before then (s, b) :: (t, c) :: l else (t, c) :: rank s b l

/-- The blocks a query selects: the K of highest score, the lower number winning a tie. -/
def selected (rd : Nat → Byte) (x : RetrieveOp) (q : Nat) : List (Nat × Nat) :=
  ((retrieveBlocks x).foldl (fun l b => rank (blockScore rd x q b) b l) []).take (x.keep1.val + 1)

/-- What a query retrieves: the softmax-weighted sum of its channel over the positions of the selected blocks, each weighted by
its block's score, in the order of selection (log entry 153, DESIGN CHOICE). -/
def retrieved (rd : Nat → Byte) (x : RetrieveOp) (q : Nat) : Nat :=
  let ps := ((selected rd x q).map fun sb => (List.range 256).map fun i => (sb.1, 256 * sb.2 + i)).flatten
  let scores := ps.map (·.1)
  let terms := ps.mapIdx fun i sp => (Config.softmax scores i % 2 ^ 32, tFp x.seq.elems rd (seqRow x.seq sp.2) (x.chans.getD q 0))
  terms.foldl (fun acc w => accumulate acc ((Val.ofFp w.1).mul (Val.ofFp w.2))) 0

/-- The blocks whose last position is among `n` positions from one on. -/
def blocksDone (head n : Nat) : List Nat :=
  ((List.range n).filter fun i => (head + i) % 256 == 255).map fun i => (head + i) % 16777216 / 256

/-- What the summary key of a block becomes. -/
def summaryOf (rd : Nat → Byte) (q : Seq) (b : Nat) : List (Nat × List Byte) :=
  let rows := (List.range 256).map fun i => (List.range (keyWidth q)).map fun c => tFp q.elems rd (seqRow q (256 * b + i)) c
  tPut q.summary b ((List.range (keyWidth q)).map fun k => Config.summaryKey rows k % 2 ^ 32)

/-! ### Sequences (R231) -/

/-- Whether a range is refused: longer than the sequence, or past the write head, which only a full ring of all 24-bit positions
reaches by starting at it (log entry 156, DEDUCED). -/
def rangeRefused (q : Seq) (head start count : Nat) : Bool :=
  let d := (head + 16777216 - start) % 16777216
  let held := if d == 0 && q.len1.val == 16777215 then 16777216 else d
  decide (q.len1.val + 1 < count) || decide (held < count)

/-- The sequence range of a descriptor, with its start and its count. -/
def workRange : Work → Option (Seq × Nat × Nat)
  | .scan x => some (x.seq, x.start.val, x.count1.val + 1)
  | .retrieve x => some (x.seq, x.start.val, x.count1.val + 1)
  | _ => none

/-! ### Results -/

/-- What a descriptor writes, but for a move's and a fence's: addresses and bytes, in order. -/
def results (rd : Nat → Byte) (w : Work) : List (Nat × List Byte) :=
  match w with
  | .matrix a b c dst m n order => ((List.range m).map fun r => tPut dst r (productRow rd a b c order n r)).flatten
  | .map fn srcs dst rows cols =>
    ((List.range rows).map fun r => tPut dst r ((List.range cols).map fun j => mapFn fn (srcs.map fun t => tFp t rd r j))).flatten
  | .reduce fn src dst rows order =>
    ((List.range rows).map fun r => tPut dst r [redFn fn (order.map fun k => tFp src rd r k)]).flatten
  | .layout turned src dst rows cols =>
    if !turned && src.fmt == dst.fmt then
      ((List.range rows).map fun r =>
        (dst.base + r * dst.pitch, (List.range (fmtBytes src.fmt cols)).map fun i => rd (src.base + r * src.pitch + i)) ::
          if fmtMx src.fmt then [(dst.scale + r * dst.scalePitch,
            (List.range ((cols + 31) / 32)).map fun i => rd (src.scale + r * src.scalePitch + i))] else []).flatten
    else ((List.range rows).map fun r => tPut dst r ((List.range cols).map fun j =>
      if turned then tFp src rd j r else tFp src rd r j)).flatten
  | .gather src index dst rows cols =>
    ((List.range rows).map fun r => tPut dst r ((List.range cols).map fun j => tFp src rd (indexAt rd index r) j)).flatten
  | .scatter src index dst rows cols =>
    ((List.range rows).map fun r => tPut dst (indexAt rd index r) ((List.range cols).map fun j => tFp src rd r j)).flatten
  | .sparse vals index b dst m n nnz =>
    ((List.range m).map fun r => tPut dst r ((List.range n).map fun j => (List.range nnz).foldl (fun acc k =>
      accumulate acc ((tVal vals rd r k).mul (tVal b rd j (indexAt rd index (r * nnz + k))))) 0)).flatten
  | .scan x =>
    let (hs, ys) := scanRun rd x
    (ys.mapIdx fun i y => tPut x.out i y).flatten ++ [(x.final, (hs.flatten.map (leBytes 4)).flatten)]
  | .retrieve x => (x.chans.mapIdx fun q _ => tPut x.out q [retrieved rd x q]).flatten
  | _ => []

/-! ### The memory it reads and writes (R222) -/

/-- The ranges a scan or retrieval reads of its sequence: the rows of its positions. -/
def seqRows (q : Seq) (start count cols : Nat) : List (Nat × Nat) :=
  tRows q.elems ((List.range count).map fun i => seqRow q (start + i)) cols

/-- The ranges it reads. -/
def workReads (rd : Nat → Byte) (w : Work) : List (Nat × Nat) :=
  match w with
  | .matrix a b c _ m n order =>
    tRows a (List.range m) order.length ++ tRows b (List.range n) order.length ++ (match c with
      | some t => tRows t (List.range m) n
      | none => [])
  | .map _ srcs _ rows cols => (srcs.map fun t => tRows t (List.range rows) cols).flatten
  | .reduce _ src _ rows order => tRows src (List.range rows) order.length
  | .layout turned src _ rows cols => if turned then tRows src (List.range cols) rows else tRows src (List.range rows) cols
  | .gather src index _ rows cols => (index, 4 * rows) :: tRows src ((List.range rows).map (indexAt rd index)) cols
  | .scatter src index _ rows cols => (index, 4 * rows) :: tRows src (List.range rows) cols
  | .sparse vals index b _ m n nnz =>
    let cols := 1 + ((List.range (m * nnz)).map (indexAt rd index)).foldl max 0
    (index, 4 * (m * nnz)) :: tRows vals (List.range m) nnz ++ tRows b (List.range n) cols
  | .scan x =>
    let n := x.width1.val + 1
    let chans := x.chan1.val + 1
    let count := x.count1.val + 1
    let coef (k : Coef) : List (Nat × Nat) := match k with
      | .read t => tRows t ((List.range count).map fun i => seqRow x.seq (x.start.val + i)) (chans * n)
      | .gate _ => []
    seqRows x.seq x.start.val count chans ++ coef x.a ++ coef x.b ++ coef x.c ++ tRows x.d [0] chans ++ (match x.init with
      | some a => [(a, 4 * (chans * n))]
      | none => [])
  | .retrieve x =>
    tRows x.query (List.range x.chans.length) (keyWidth x.seq) ++ tRows x.seq.summary (retrieveBlocks x) (keyWidth x.seq) ++
      seqRows x.seq x.start.val (x.count1.val + 1) (1 + x.chans.foldl max 0)
  | .move x => match x.src with
    | .mem a => (List.range (x.rows1.val + 1)).map fun r => (a + r * x.srcPitch, x.width)
    | .host _ _ => []
  | _ => []

/-- The ranges it writes. -/
def workWrites (rd : Nat → Byte) (w : Work) : List (Nat × Nat) :=
  match w with
  | .matrix _ _ _ dst m n _ => tRows dst (List.range m) n
  | .map _ _ dst rows cols => tRows dst (List.range rows) cols
  | .reduce _ _ dst rows _ => tRows dst (List.range rows) 1
  | .layout _ _ dst rows cols => tRows dst (List.range rows) cols
  | .gather _ _ dst rows cols => tRows dst (List.range rows) cols
  | .scatter _ index dst rows cols => tRows dst ((List.range rows).map (indexAt rd index)) cols
  | .sparse _ _ _ dst m n _ => tRows dst (List.range m) n
  | .scan x =>
    let chans := x.chan1.val + 1
    let outs := ((List.range (x.count1.val + 1)).filter (scanEmits x)).length
    (x.final, 4 * (chans * (x.width1.val + 1))) :: tRows x.out (List.range outs) chans
  | .retrieve x => tRows x.out (List.range x.chans.length) 1
  | .move x => match x.dst with
    | .mem a => (List.range (x.rows1.val + 1)).map fun r => (a + r * x.dstPitch, x.width)
    | .host _ _ => []
  | .sync (.fence r) => [(r, 8)]
  | .sync (.arrive _ r) => [(r, 8)]
  | _ => []

/-! ### Category, limits, work and time -/

/-- The category that does it (R218). -/
def workCat : Work → Nat
  | .nop => 0
  | .jump _ => 0
  | .yield => 0
  | .matrix _ _ _ _ _ _ _ => 1
  | .map _ _ _ _ _ => 2
  | .reduce _ _ _ _ _ => 2
  | .layout _ _ _ _ _ => 3
  | .gather _ _ _ _ _ => 4
  | .scatter _ _ _ _ _ => 4
  | .sparse _ _ _ _ _ _ _ => 4
  | .scan _ => 5
  | .retrieve _ => 6
  | .move _ => 7
  | .sync _ => 8

/-- Whether an address of a die lies in its scratchpad (R243). -/
def inScratch (a len : Nat) : Bool := bit a 44 && decide (a % 2 ^ 44 + len ≤ 0x3000000)

/-- The limits beside those of the types: tiles of MX or BF16 elements (R218), elements of a sequence (R231), states in the
scratchpad (R232), 1 to 256 queries (R234), 1 B to 256 MiB and one host side at most (R238), each element taken once (R214). -/
def workOk (w : Work) : Bool :=
  let elems (f : Fmt) : Bool := f == .bf16 || f == .fp32 || f == .mxfp8e4m3 || f == .mxfp8e5m2
  match w with
  | .matrix a b _ _ _ _ order => a.fmt != .fp32 && b.fmt != .fp32 && decide (order.Nodup ∧ ∀ k ∈ order, k < order.length)
  | .reduce _ _ _ _ order => decide (order.Nodup ∧ ∀ k ∈ order, k < order.length)
  | .scan x =>
    let size := 4 * ((x.chan1.val + 1) * (x.width1.val + 1))
    elems x.seq.elems.fmt && inScratch x.final size && (match x.init with
      | some a => inScratch a size
      | none => true)
  | .retrieve x => decide (1 ≤ x.chans.length ∧ x.chans.length ≤ 256) && elems x.seq.elems.fmt
  | .move x =>
    let n := x.width * (x.rows1.val + 1)
    decide (1 ≤ n ∧ n ≤ 0x10000000) && (match x.src, x.dst with
      | .host _ _, .host _ _ => false
      | _, _ => true)
  | _ => true

/-- Multiply-accumulates of a matrix descriptor (R227). -/
def workMacs : Work → Nat
  | .matrix _ _ _ _ m n order => m * n * order.length
  | _ => 0

/-- Multiply-accumulates per frame of the matrix unit on a format (R216). -/
def macRate : Fmt → Nat
  | .mxfp4 => 640000000
  | .bf16 => 80000000
  | .fp32 => 80000000
  | _ => 320000000

/-- The beats a descriptor takes at least (R216, R232). -/
def workBeats (w : Work) : Nat :=
  match w with
  | .matrix a b _ _ m n order => ceilDiv (m * n * order.length * 2048) (min (macRate a.fmt) (macRate b.fmt))
  | .map _ _ _ rows cols => ceilDiv (rows * cols) 256
  | .scan x =>
    let c := x.chan1.val + 1
    let p := x.count1.val + 1
    max (ceilDiv (c * (x.width1.val + 1)) 2048 * p) (ceilDiv (c * p * fmtBits x.seq.elems.fmt / 8) 512)
  | .move x => ceilDiv (x.width * (x.rows1.val + 1)) 256
  | _ => 0

end Sys2Proof.Machine
end

