-- ==== Sys2Proof/Machine/Crc.lean ====
section
/-! DEFINITION. The cyclic redundancy checks of the spec: CRC-16 of R71 and CRC-32 of IEEE 802.3 (R200). -/

namespace Sys2Proof.Machine

/-- One bit of the CRC-16 of R71: the register shifts left, and takes 0x1021 when the bit differs from its old bit 15. -/
def crc16Step (r : Nat) (b : Bool) : Nat :=
  let sh := r * 2 % 65536
  if b != bit r 15 then Nat.xor sh 0x1021 else sh

/-- The CRC-16 of the lowest `n` bits of `v`, bit 0 first. -/
def crc16 (v n : Nat) : Nat := (List.range n).foldl (fun r i => crc16Step r (bit v i)) 0xFFFF

/-- One bit of the reflected CRC-32. -/
def crc32Bit (r : Nat) : Nat := if r % 2 == 1 then Nat.xor (r / 2) 0xEDB88320 else r / 2

/-- One byte of the CRC-32. -/
def crc32Byte (r : Nat) (b : Byte) : Nat := (List.range 8).foldl (fun t _ => crc32Bit t) (Nat.xor r b.toNat)

/-- The CRC-32 of a list of bytes. -/
def crc32 (l : List Byte) : Nat := Nat.xor (l.foldl crc32Byte 0xFFFFFFFF) 0xFFFFFFFF

end Sys2Proof.Machine
end

