-- ==== Sys2Proof/Machine/Rs.lean ====
section
/-! DEFINITION. Reed-Solomon codes: RS(72,66) over GF(2⁸), the flit code of an Ikiper bundle (R119, R120), and RS(544,514)
over GF(2¹⁰), the code of a tray port (R177, R180). Field elements are natural numbers below 2 ^ m, whose bits are the
coefficients of a polynomial in α = 2. -/

namespace Sys2Proof.Machine

/-- A code: degree of its field, primitive polynomial, length and check symbols; its generator is (x + α⁰)(x + α¹)… . -/
structure RsCode where
  m : Nat
  poly : Nat
  n : Nat
  r : Nat
  deriving DecidableEq, Repr

/-- The flit code (R119). -/
def rsFlit : RsCode := ⟨8, 0x11D, 72, 6⟩

/-- The code of a tray port (R177); its primitive polynomial and generator are those of IEEE 802.3
(log entry 129, PRESUMED). -/
def rsTray : RsCode := ⟨10, 0x409, 544, 30⟩

/-! ### The field -/

/-- α times an element. -/
def RsCode.alphaMul (c : RsCode) (a : Nat) : Nat := if bit a (c.m - 1) then Nat.xor (2 * a) c.poly else 2 * a

/-- The product of two elements; the first number counts the bits of `b` still to take. -/
def RsCode.mulBits (c : RsCode) : Nat → Nat → Nat → Nat
  | 0, _, _ => 0
  | k + 1, a, b => Nat.xor (if b % 2 == 1 then a else 0) (c.mulBits k (c.alphaMul a) (b / 2))

/-- The product of two elements. -/
def RsCode.mul (c : RsCode) (a b : Nat) : Nat := if a == 0 || b == 0 then 0 else c.mulBits c.m a b

/-- Powers of α. -/
def RsCode.alpha (c : RsCode) : Nat → Nat
  | 0 => 1
  | k + 1 => c.alphaMul (c.alpha k)

/-- An element squared `k` times over, each time times the element: a ^ (2 ^ (k + 1) − 1). -/
def RsCode.powOnes (c : RsCode) (a : Nat) : Nat → Nat
  | 0 => a
  | k + 1 => let p := c.powOnes a k; c.mul (c.mul p p) a

/-- The inverse of an element other than zero: a ^ (2 ^ m − 2). -/
def RsCode.inv (c : RsCode) (a : Nat) : Nat := let p := c.powOnes a (c.m - 2); c.mul p p

/-! ### Polynomials, as lists of coefficients from degree zero up -/

/-- The value of a polynomial at an element. -/
def RsCode.eval (c : RsCode) (p : List Nat) (x : Nat) : Nat := p.foldr (fun a v => Nat.xor a (c.mul v x)) 0

/-- A polynomial times an element. -/
def RsCode.scale (c : RsCode) (a : Nat) (p : List Nat) : List Nat := p.map (c.mul a)

/-- The sum of two polynomials. -/
def polyAdd : List Nat → List Nat → List Nat
  | [], q => q
  | p, [] => p
  | a :: p, b :: q => Nat.xor a b :: polyAdd p q

/-- The product of two polynomials. -/
def RsCode.polyMul (c : RsCode) : List Nat → List Nat → List Nat
  | [], _ => []
  | a :: p, q => polyAdd (c.scale a q) (0 :: c.polyMul p q)

/-- The generator polynomial g(x) = (x + α⁰)(x + α¹)… (R119). -/
def RsCode.gen (c : RsCode) : List Nat := (List.range c.r).foldl (fun g i => c.polyMul g [c.alpha i, 1]) [1]

/-! ### Encoding (R119) -/

/-- One message symbol enters the division by g(x); the register holds the remainder, highest degree first. -/
def RsCode.shiftIn (c : RsCode) (g : List Nat) (reg : List Nat) (sym : Nat) : List Nat :=
  let f := Nat.xor (reg.headD 0) sym
  polyAdd (reg.drop 1 ++ [0]) (c.scale f g)

/-- The check symbols of a message: P(x) = M(x) mod g(x), c₀ first. -/
def RsCode.checks (c : RsCode) (msg : List Nat) : List Nat :=
  let g := (c.gen.take c.r).reverse
  msg.foldl (c.shiftIn g) (List.replicate c.r 0)

/-- The codeword of a message: its symbols, then the check symbols. -/
def RsCode.encode (c : RsCode) (msg : List Nat) : List Nat := msg ++ c.checks msg

/-! ### Decoding (R120, R180) -/

/-- The syndromes of a received word: its polynomial at α⁰, α¹, … . -/
def RsCode.syndromes (c : RsCode) (w : List Nat) : List Nat := (List.range c.r).map fun i => c.eval w.reverse (c.alpha i)

/-- The locator of the symbol at a place: α to the power of its degree. -/
def RsCode.place (c : RsCode) (j : Nat) : Nat := c.alpha (c.n - 1 - j)

/-- The polynomial whose roots are the inverses of the locators of the places erased. -/
def RsCode.erasurePoly (c : RsCode) (gone : List Nat) : List Nat := gone.foldl (fun p j => c.polyMul p [1, c.place j]) [1]

/-- What the search for the error locator holds: the locator, the last correction, and the register length. -/
structure RsStep where
  loc : List Nat
  cor : List Nat
  len : Nat
  deriving DecidableEq, Repr

/-- One step of the search for the error locator, over syndrome `k`, with `gone` symbols erased. -/
def RsCode.step (c : RsCode) (syn : List Nat) (gone : Nat) (x : RsStep) (k : Nat) : RsStep :=
  let d := (List.range (x.len + 1)).foldl (fun t j =>
    if j ≤ k then Nat.xor t (c.mul (x.loc.getD j 0) (syn.getD (k - j) 0)) else t) 0
  let up := 0 :: x.cor
  if d == 0 then { x with cor := up }
  else
    let loc := polyAdd x.loc (c.scale d up)
    if 2 * x.len ≤ k + gone then ⟨loc, c.scale (c.inv d) x.loc, k + 1 + gone - x.len⟩
    else { x with loc := loc, cor := up }

/-- The polynomial that locates the errors and the erasures. -/
def RsCode.locator (c : RsCode) (syn : List Nat) (gone : List Nat) : RsStep :=
  let p := c.erasurePoly gone
  let ks := (List.range c.r).drop gone.length
  ks.foldl (c.step syn gone.length) ⟨p, p, gone.length⟩

/-- The coefficients of odd degree, as the polynomial of a derivative. -/
def polyDeriv (p : List Nat) : List Nat := (List.range (p.length - 1)).map fun i => if i % 2 == 0 then p.getD (i + 1) 0 else 0

/-- The value to add at a place that the locator names. -/
def RsCode.fix (c : RsCode) (loc om : List Nat) (j : Nat) : Nat :=
  let x := c.place j
  let xi := c.inv x
  c.mul x (c.mul (c.eval om xi) (c.inv (c.eval (polyDeriv loc) xi)))

/-- Decode a received word with the places `gone` erased: the corrected word and the places outside `gone` that were
corrected; none where 2e + f exceeds the number of check symbols (R120, R180). -/
def RsCode.decode (c : RsCode) (w : List Nat) (gone : List Nat) : Option (List Nat × List Nat) :=
  let syn := c.syndromes w
  if syn.all (· == 0) then some (w, [])
  else if c.r < gone.length then none
  else
    let x := c.locator syn gone
    let found := (List.range c.n).filter fun j => c.eval x.loc (c.inv (c.place j)) == 0
    if found.length != x.len || decide (c.r < 2 * x.len - gone.length) then none
    else
      let om := (c.polyMul syn x.loc).take c.r
      let y := found.foldl (fun (v : List Nat) j => v.set j (Nat.xor (v.getD j 0) (c.fix x.loc om j))) w
      if (c.syndromes y).all (· == 0) then some (y, found.filter fun j => !decide (j ∈ gone)) else none

end Sys2Proof.Machine
end

