-- ==== Sys2Proof/Machine/Phy.lean ====
section
/-! DEFINITION. What travels on the lanes: the scrambler and its checker, lane words and symbols of a flit, frame markers,
sideband slots and the frame of a tray port (R61, R63, R68 to R71, R91, R118, R177, R178, R181). -/

namespace Sys2Proof.Machine

/-! ### The scrambler (R69, R178) -/

/-- seed(c) of lane code `c` (R69). -/
def scrSeed (c : Nat) : Nat := Nat.xor 0x12345678 (c * 0x01010101)

/-- The bit that a scrambler in state `r` puts onto the data: x³¹ + x²⁸ + 1 (R69). -/
def scrBit (r : Nat) : Bool := bit r 30 != bit r 27

/-- A scrambler's next state. -/
def scrNext (r : Nat) : Nat := r * 2 % 2 ^ 31 + b2n (scrBit r)

/-- A scrambler's state after some unit intervals. -/
def scrAfter (r : Nat) : Nat → Nat
  | 0 => r
  | k + 1 => scrNext (scrAfter r k)

/-- The bits that a scrambler puts out from a state on, bit 0 first. -/
def scrBits : Nat → Nat → Nat
  | _, 0 => 0
  | r, k + 1 => b2n (scrBit r) + 2 * scrBits (scrNext r) k

/-- A scrambler's state after `m` intervals, 28 at most, in one go: the bits that enter depend on the state alone. -/
def scrJump (r m : Nat) : Nat := (r * 2 ^ m + Nat.xor (r / 8) r % 2 ^ 28 / 2 ^ (28 - m)) % 2 ^ 31

/-- A scrambler's state after 28 intervals, over and over. -/
def scrJumps (r : Nat) : Nat → Nat
  | 0 => r
  | k + 1 => scrJump (scrJumps r k) 28

/-- What `scrAfter` gives (`scrSkip_eq`), 28 intervals at a time. -/
def scrSkip (r k : Nat) : Nat := scrJump (scrJumps r (k / 28)) (k % 28)

/-- The `n` bits with which a lane of code `c` is scrambled from unit interval `u` of a frame on; loaded at the first interval of
every frame (R69). A tray lane's scrambler goes on by one for every bit (log entry 130, DEDUCED). -/
def scrSpan (c u n : Nat) : Nat := scrBits (scrSkip (scrSeed c) u) n

/-! ### The checker of the training pattern (R91) -/

/-- The bits of a lane of code `c` that the checker finds wrong: it locks on 31 received bits and predicts every later one;
the scrambler is loaded at the start of every frame of `ui` bits; the bits of a frame that `skip` names are left out. The
numbers that change are the place in the frame, the checker's register and the bits it has locked on
(log entry 130, DEDUCED). -/
def checkerErrs (c ui : Nat) (skip : Nat → Bool) : Nat → Nat → Nat → List Bool → List Bool
  | _, _, _, [] => []
  | u, reg, seen, b :: t =>
    let r := if u == 0 && seen == 31 then scrSeed c else reg
    let next := (u + 1) % ui
    if skip u then false :: checkerErrs c ui skip next (if seen == 31 then scrNext r else r) seen t
    else if seen < 31 then false :: checkerErrs c ui skip next (r * 2 % 2 ^ 31 + b2n b) (seen + 1) t
    else (scrBit r != b) :: checkerErrs c ui skip next (scrNext r) 31 t

/-- Bits of a frame on one lane: 16 a beat on an Ikiper link, 35 a beat on a tray port. -/
def frameUi (tray : Bool) : Nat := if tray then 71680 else 32768

/-- What of a frame a checker leaves out: segment 0 of the track lane, and the alignment block of a tray lane (R91, R178); of a
track lane that carries its structure, every segment but the idle ones (R114). -/
def checkSkip (tray idle : Bool) (c u : Nat) : Bool :=
  if tray then decide (u < 280) else c == 18 && (if idle then u / 128 % 8 == 0 else decide (u < 128))

/-- The bits found wrong among the bits received on a lane from the start of a frame on; `idle` where the track lane carries its
structure. -/
def laneErrs (tray idle : Bool) (c : Nat) (bits : List Bool) : List Bool :=
  checkerErrs c (frameUi tray) (checkSkip tray idle c) 0 0 0 bits

/-- The lanes below `n`, lane `c` carrying the code `code c`, on which some bit was wrong, as a mask. -/
def errMask (tray idle : Bool) (n : Nat) (code : Nat → Nat) (bits : List (List Bool)) : Nat :=
  (List.range n).foldl (fun m c => if (laneErrs tray idle (code c) (bits.getD c [])).any id then setBit m c else m) 0

/-- How many bits were wrong. -/
def errCount (l : List Bool) : Nat := (l.filter id).length

/-- How many symbols of two bits were wrong (R176, R196). -/
def symErrCount : List Bool → Nat
  | a :: b :: t => b2n (a || b) + symErrCount t
  | [a] => b2n a
  | [] => 0

/-! ### Bundles, modules and lanes (R61, R63) -/

/-- The module of a bundle (R61). -/
def moduleOf (b : Nat) : Nat := b / 4

/-- The code of the track lane; the jewels are 19 and 20 (R63). -/
def trackCode : Nat := 18

/-! ### Flits on lanes (R68, R118, R119) -/

/-- The codeword of a flit: payload bytes, header low byte first, check symbols (R119). -/
def flitSyms (header : Nat) (payload : List Byte) : List Nat :=
  rsFlit.encode (((List.range 64).map fun i => (payload.getD i 0).toNat) ++ [header % 256, header / 256 % 256])

/-- The two lane words of a D or K lane of a slot, the first beat in the low half: symbol *j* of lane *l* is symbol 4*l* + *j* of the
codeword (R118). -/
def laneOfSyms (syms : List Nat) (l : Nat) : Nat :=
  ((List.range 4).map fun j => syms.getD (4 * l + j) 0 % 256 * 2 ^ (8 * j)).sum

/-- The symbols that 18 pairs of lane words hold. -/
def symsOfLanes (lanes : List Nat) : List Nat := (List.range 72).map fun i => bitsOf (lanes.getD (i / 4) 0) (8 * (i % 4)) 8

/-- What a logical D or K lane carries in slot `k`, scrambled with the lane's code (R68, R69). -/
def slotOnLane (syms : List Nat) (l k : Nat) : Nat := Nat.xor (laneOfSyms syms l) (scrSpan l (32 * k) 32)

/-- The header and the payload of a codeword. -/
def headerOf (syms : List Nat) : Nat := syms.getD 64 0 + 256 * syms.getD 65 0
def payloadOf (syms : List Nat) : List Byte := (syms.take 64).map (BitVec.ofNat 8)

/-! ### The track lane (R71) -/

/-- The marker word of a frame. -/
def markerWord : Nat := 0xFFFF0000F0F0CC33

/-- A marker as fields: frame number, flags HACK, CAL, RETIRE and DONE, CRC. -/
def markerPlain (frame flags : Nat) : Nat :=
  let body := frame % 2 ^ 32 + flags % 256 * 2 ^ 32
  markerWord + body * 2 ^ 64 + crc16 body 48 * 2 ^ 112

/-- Segment 0 of the track lane as it is sent: the marker word unscrambled, the rest scrambled. -/
def markerSeg (frame flags : Nat) : Nat := Nat.xor (markerPlain frame flags) (scrSpan trackCode 64 64 * 2 ^ 64)

/-- The frame number and the flags of a marker received; none where its word or its CRC is wrong. -/
def readMarker (seg : Nat) : Option (Nat × Nat) :=
  let v := Nat.xor seg (scrSpan trackCode 64 64 * 2 ^ 64)
  if bitsOf v 0 64 == markerWord && bitsOf v 112 16 == crc16 (bitsOf v 64 48) 48 then some (bitsOf v 64 32, bitsOf v 96 8) else none

/-- Sideband slot `k` of the track lane: sync 0xA5, a container, its CRC; all but the sync scrambled. -/
def sidebandSeg (k box : Nat) : Nat :=
  let b := box % 2 ^ 104
  Nat.xor (0xA5 + b * 2 ^ 8 + crc16 b 104 * 2 ^ 112) (scrSpan trackCode (1024 * k + 8) 120 * 2 ^ 8)

/-- The container of a slot received; none where its sync or its CRC is wrong. -/
def readSeg (k seg : Nat) : Option Nat :=
  let v := Nat.xor seg (scrSpan trackCode (1024 * k + 8) 120 * 2 ^ 8)
  if bitsOf v 0 8 == 0xA5 && bitsOf v 112 16 == crc16 (bitsOf v 8 104) 104 then some (bitsOf v 8 104) else none

/-! ### The frame of a tray port (R177, R178, R181) -/

/-- An alignment block, with the lane code it names: HACK, BV, DOWN and DONE are bits 0 to 3 of the flags. -/
def alignBlock (code frame flags : Nat) : Nat :=
  let body := code % 16 + frame % 2 ^ 32 * 2 ^ 4 + flags % 16 * 2 ^ 36
  markerWord + body * 2 ^ 64 + crc16 body 44 * 2 ^ 108

/-- The frame number and the flags of a block received on the lane that carries `code`; none where it fails a check. -/
def readBlock (code seg : Nat) : Option (Nat × Nat) :=
  if bitsOf seg 0 64 == markerWord && bitsOf seg 64 4 == code && bitsOf seg 108 16 == crc16 (bitsOf seg 64 44) 44 then
    some (bitsOf seg 68 32, bitsOf seg 100 4)
  else none

/-- Where the flit field of a slot, and a sideband field, begin in the message stream of a frame. -/
def trayFlitPos (s : Nat) : Nat := 528 * s + 128 * min (s / 32) 31
def traySbPos (k : Nat) : Nat := 528 * (32 * k) + 128 * (k - 1)

/-- Bits of a codeword's message. -/
def trayMsgBits : Nat := 5140

/-- The first and the last codeword that a field of the message stream overlaps. -/
def trayCws (pos len : Nat) : Nat × Nat := (pos / trayMsgBits, (pos + len - 1) / trayMsgBits)

/-- A flit field, and a sideband field. -/
def trayFlitField (header : Nat) (payload : List Byte) : Nat :=
  header % 65536 + ((List.range 64).map fun i => (payload.getD i 0).toNat * 2 ^ (16 + 8 * i)).sum
def traySbField (box : Nat) : Nat := let b := box % 2 ^ 104; b + crc16 b 104 * 2 ^ 104

/-- The container of a sideband field; none where its CRC is wrong. -/
def readSbField (f : Nat) : Option Nat := if bitsOf f 104 16 == crc16 (bitsOf f 0 104) 104 then some (bitsOf f 0 104) else none

/-- Codeword `j` of a frame whose message stream is `stream`: symbol *i* of the message is its bits 10*i* to 10*i* + 9. -/
def trayCodeword (stream j : Nat) : List Nat :=
  rsTray.encode ((List.range 514).map fun i => bitsOf stream (trayMsgBits * j + 10 * i) 10)

/-- What tray lane `l` carries of codeword `j`: the symbols *l*, *l* + 8, … of it, scrambled with the lane's code (R177, R178). -/
def cwOnLane (cw : List Nat) (l j : Nat) : Nat :=
  Nat.xor ((List.range 68).map fun i => cw.getD (8 * i + l) 0 * 2 ^ (10 * i)).sum (scrSpan l (280 + 680 * j) 680)

/-- The symbols of a codeword from what the eight lanes carry of it, as place `n` of the codewords received. -/
def cwOfLanes (lanes : List Nat) (n j : Nat) : List Nat :=
  let plain := (List.range 8).map fun l => Nat.xor (bitsOf (lanes.getD l 0) (680 * n) 680) (scrSpan l (280 + 680 * j) 680)
  (List.range 544).map fun i => bitsOf (plain.getD (i % 8) 0) (10 * (i / 8)) 10

end Sys2Proof.Machine
end

