-- ==== Sys2Proof/Machine/Link.lean ====
section
/-! DEFINITION. Link ends: their registers and constants, their training states, the sideband queue, lane maps and the
retirement of bundles (chapters 03 to 07). -/

namespace Sys2Proof.Machine

/-! ### Places and constants of a link end -/

/-- The number of a link end. -/
def leCode : LinkEnd → Nat
  | .ikl d sl => 4 * dieCode d + sl.val
  | .tray n => 32 + n.val

/-- The Crown die of a tray port: T0 to T3 are CR0's, T4 to T7 CR1's (R175). -/
def trayCrown (n : Fin 8) : Crown := ⟨n.val / 4, by omega⟩

/-- The die of a link end. -/
def leDie : LinkEnd → Die
  | .ikl d _ => d
  | .tray n => .cr (trayCrown n)

/-- Its block. -/
def leBlk : LinkEnd → Blk
  | .ikl _ _ => .ikl
  | .tray _ => .trayPort

/-- Its instance in the register map of its die. -/
def leInst : LinkEnd → Nat
  | .ikl _ sl => sl.val
  | .tray n => n.val % 4

/-- Its instance in log records and refusals (R420). -/
def leLog : LinkEnd → Nat
  | .ikl _ sl => sl.val
  | .tray n => n.val

/-- An end of an FP link (R62). -/
def isFp : LinkEnd → Bool
  | .ikl (.mv _) sl => decide (sl.val < 2)
  | _ => false

/-- An end of a tray port. -/
def isTray : LinkEnd → Bool
  | .tray _ => true
  | _ => false

/-- The other end of an Ikiper link (R62); a tray port's other end is in another package. -/
def farEnd : LinkEnd → Option LinkEnd
  | .ikl (.mv m) ⟨0, _⟩ => some (.ikl (.mv (m + 1)) 1)
  | .ikl (.mv m) ⟨1, _⟩ => some (.ikl (.mv (m - 1)) 0)
  | .ikl (.mv m) ⟨2, _⟩ => some (.ikl (.cr 0) m)
  | .ikl (.mv m) ⟨_ + 3, _⟩ => some (.ikl (.cr 1) m)
  | .ikl (.cr c) sl => some (.ikl (.mv sl) ⟨2 + c.val, by omega⟩)
  | .tray _ => none

/-- The link code of R164: F01, F12, F23 and F30 are 0 to 3, S00 to S31 are 4 to 11; tray ports have none. -/
def linkCode : LinkEnd → Nat
  | .ikl (.mv m) ⟨0, _⟩ => m.val
  | .ikl (.mv m) ⟨1, _⟩ => (m.val + 3) % 4
  | .ikl (.mv m) ⟨k + 2, _⟩ => 4 + 2 * m.val + k
  | .ikl (.cr c) sl => 4 + 2 * sl.val + c.val
  | .tray _ => 16

/-- The end of FP link `f` on the die that is its A end (R59). -/
def fpA (f : Fin 4) : LinkEnd := .ikl (.mv f) 0

/-- The end of FP link `f` on the die that is its B end. -/
def fpB (f : Fin 4) : LinkEnd := .ikl (.mv (f + 1)) 1

/-- The ends of the S links at CR`c`, by Movement die. -/
def spCrown (m : Mv) (c : Crown) : LinkEnd := .ikl (.cr c) m

/-- The end of S*m*`c` at MV*m*. -/
def spMv (m : Mv) (c : Crown) : LinkEnd := .ikl (.mv m) ⟨2 + c.val, by omega⟩

/-- Bundles of a link (R61, R175). -/
def nBundles (e : LinkEnd) : Nat := if isTray e then 1 else if isFp e then 16 else 2

/-- Single-ended lanes of a bundle, its jewels or spare included (R63, R174). -/
def nLanes (e : LinkEnd) : Nat := if isTray e then 9 else 21

/-- Lanes a jewel can replace. -/
def nMain (e : LinkEnd) : Nat := if isTray e then 8 else 19

/-- Modules of a link end: four bundles, or the two of an SP link, share a clock generator (R61). -/
def nModules (e : LinkEnd) : Nat := if isFp e then 4 else 1

/-- What a link end keeps. -/
def State.link (s : State) (e : LinkEnd) : LinkSt := Tab.get {} s.links (leCode e)

/-- The state with another content of a link end. -/
def State.setLink (s : State) (e : LinkEnd) (l : LinkSt) : State := { s with links := Tab.set {} s.links (leCode e) l }

/-- What a link end keeps for a bundle. -/
def LinkSt.bundle (l : LinkSt) (b : Nat) : BundleSt := Tab.get {} l.bundles b

/-- The link end with another content of a bundle. -/
def LinkSt.setBundle (l : LinkSt) (b : Nat) (x : BundleSt) : LinkSt := { l with bundles := Tab.set {} l.bundles b x }

/-- What a link end keeps for a bundle. -/
def State.bun (s : State) (e : LinkEnd) (b : Nat) : BundleSt := (s.link e).bundle b

/-- The state with another content of a bundle. -/
def State.setBun (s : State) (e : LinkEnd) (b : Nat) (x : BundleSt) : State := s.setLink e ((s.link e).setBundle b x)

/-- A field of a link end: an `IKL` field, or the tray port's field of the same meaning. -/
def State.lf (s : State) (e : LinkEnd) (fi ft : Fld) (k : Nat := 0) : Nat :=
  s.getF (leDie e) (leBlk e) (leInst e) (if isTray e then ft else fi) k

/-- Put a field of a link end. -/
def State.setLf (s : State) (e : LinkEnd) (fi ft : Fld) (v : Nat) (k : Nat := 0) : State :=
  s.setF (leDie e) (leBlk e) (leInst e) (if isTray e then ft else fi) v k

/-- Count in a field of a link end. -/
def State.bumpLf (s : State) (e : LinkEnd) (fi ft : Fld) (k : Nat := 0) : State :=
  s.bumpF (leDie e) (leBlk e) (leInst e) (if isTray e then ft else fi) k

/-- Log against a link end. -/
def State.logLink (s : State) (e : LinkEnd) (rc : Nat) (detail : List Byte := []) (ctx : Nat := 0xFF) : State :=
  s.log (leDie e) (leBlk e) (leLog e) rc detail ctx

/-! ### Training states (R149, R202) -/

/-- The values of `LL_STATUS.STATE`. -/
abbrev stOff : Nat := 0
abbrev stReset : Nat := 1
abbrev stCalib : Nat := 2
abbrev stLanetest : Nat := 3
abbrev stDeskew : Nat := 4
abbrev stPin : Nat := 5
abbrev stSync : Nat := 6
abbrev stLive : Nat := 7
abbrev stDegraded : Nat := 8
abbrev stRetired : Nat := 9
abbrev stListen : Nat := 10
abbrev stSeek : Nat := 11

/-- The training state of a link end. -/
def State.lst (s : State) (e : LinkEnd) : Nat := s.lf e Reg.IKL_LL_STATUS_STATE Reg.TRYP_LL_STATUS_STATE

/-- Whether a link end is in `LIVE` or `DEGRADED`. -/
def State.inService (s : State) (e : LinkEnd) : Bool := s.lst e == stLive || s.lst e == stDegraded

/-- The pinned latency L of a link (R122, R184): 14 beats on FP links, 24 on SP links, `LAT_BUDGET` on tray ports. -/
def State.latL (s : State) (e : LinkEnd) : Nat :=
  if isTray e then
    if s.lf e Reg.IKL_PHY_CTL_EXPERT Reg.TRYP_PORT_CTL_EXPERT == 1 then s.lf e Reg.IKL_PIN_LATENCY Reg.TRYP_LAT_LAT_BUDGET
    else 1600
  else if isFp e then 14 else 24

/-- The fixed stages before the latency-pin buffer (R122, R184). -/
def finBeats (e : LinkEnd) : Nat := if isTray e then 670 else if isFp e then 4 else 6

/-- The fixed stages after it. -/
def foutBeats (e : LinkEnd) : Nat := if isTray e then 8 else 7

/-- The clock generator of a module runs from `CALIB` on (R67, R80); of `CK` it drives every bundle of the module (R61, R85). -/
def moduleRuns (st _m : Nat) : Bool := decide (stCalib ≤ st ∧ st ≤ stDegraded)

/-- Put a training state: the register, the time of entry, `SB_UP`, `MODCLK_OK` (a module clock that runs is taken as locked),
vector 2 (R75, R149, R275). -/
def State.toSt (s : State) (e : LinkEnd) (st : Nat) : State :=
  let s1 := (s.setLf e Reg.IKL_LL_STATUS_STATE Reg.TRYP_LL_STATUS_STATE st).setLink e { s.link e with since := s.time }
  let s2 := if isTray e then s1
    else (s1.setF (leDie e) .ikl (leInst e) Reg.IKL_PHY_STATUS_SB_UP (b2n (decide (4 ≤ st ∧ st ≤ 8)))).setF (leDie e) .ikl (leInst e)
      Reg.IKL_PHY_STATUS_MODCLK_OK (b2n ((List.range (nModules e)).all (moduleRuns st)))
  s2.raise (ownOf (leDie e) (leBlk e)) 2

/-- Model's time in the present state. -/
def State.inState (s : State) (e : LinkEnd) : Nat := s.time - (s.link e).since

/-- `REPLAY_MAX` in effect (R151). -/
def State.replayMax (s : State) (e : LinkEnd) : Nat :=
  if s.lf e Reg.IKL_LL_CTL_EXPERT Reg.TRYP_LL_CTL_EXPERT == 1
  then s.lf e Reg.IKL_LL_CTL_REPLAY_MAX Reg.TRYP_LL_CTL_REPLAY_MAX else 4

/-- `TRAIN_MAX` in effect (R151). -/
def State.trainMax (s : State) (e : LinkEnd) : Nat :=
  if s.lf e Reg.IKL_LL_CTL_EXPERT Reg.TRYP_LL_CTL_EXPERT == 1
  then s.lf e Reg.IKL_LL_CTL_TRAIN_MAX Reg.TRYP_LL_CTL_TRAIN_MAX
  else if s.lf e Reg.IKL_LL_CTL_PROFILE Reg.TRYP_LL_CTL_PROFILE == 1 then 1 else 3

/-! ### Lane maps (R88, R89, R97, R98) -/

/-- Byte offset of a bundle's registers. -/
def bOff (b : Nat) : Nat := 0x100 * b

/-- Whether a bundle is retired at this end. `LANEMAP.RETIRED` shows a retirement of R112 from its declaration on, while the bundle
still delivers; the bundle's own `RETIRED` shows every one from the stop of R83 on. -/
def State.retired (s : State) (e : LinkEnd) (b : Nat) : Bool :=
  if isTray e then s.lf e Reg.IKL_BPHY_RETIRED Reg.TRYP_LANEMAP_RETIRED == 1
  else s.lf e Reg.IKL_BPHY_RETIRED Reg.TRYP_LANEMAP_RETIRED (bOff b) == 1

/-- Whether a bundle is out for run-time recalibration. -/
def State.calOut (s : State) (e : LinkEnd) (b : Nat) : Bool :=
  !isTray e && s.lf e Reg.IKL_BPHY_CAL_OUT Reg.TRYP_LANEMAP_RETIRED (bOff b) == 1

/-- The bundles of a link that are not retired, ascending. -/
def State.live (s : State) (e : LinkEnd) : List Nat := (List.range (nBundles e)).filter fun b => !s.retired e b

/-- The bundles in service: neither retired, nor declared so, nor recalibrating, ascending (R141). -/
def State.serving (s : State) (e : LinkEnd) : List Nat :=
  (List.range (nBundles e)).filter fun b => !s.retired e b && !s.calOut e b && !(s.bun e b).dying

/-- The bundles that send and are read: not retired and not recalibrating; one declared retired sends until its stop (R83). -/
def State.sending (s : State) (e : LinkEnd) : List Nat :=
  (List.range (nBundles e)).filter fun b => !s.retired e b && !s.calOut e b

/-- The code of an unassigned jewel: 31, or 15 on a tray port. -/
def noTgt (e : LinkEnd) : Nat := if isTray e then 15 else 31

/-- The receive map in `LANEMAP`. A tray port's one spare stands as J0; its J1 is unusable (R195). -/
def State.rxMap (s : State) (e : LinkEnd) (b : Nat) : LaneMap :=
  if isTray e then
    ⟨s.lf e Reg.IKL_LANEMAP_J0_TGT Reg.TRYP_LANEMAP_SPARE_TGT, s.lf e Reg.IKL_LANEMAP_J0_BAD Reg.TRYP_LANEMAP_SPARE_BAD == 1,
     15, true, s.retired e b⟩
  else
    ⟨s.lf e Reg.IKL_LANEMAP_J0_TGT Reg.TRYP_LANEMAP_SPARE_TGT (bOff b),
     s.lf e Reg.IKL_LANEMAP_J0_BAD Reg.TRYP_LANEMAP_SPARE_BAD (bOff b) == 1,
     s.lf e Reg.IKL_LANEMAP_J1_TGT Reg.TRYP_LANEMAP_SPARE_TGT (bOff b),
     s.lf e Reg.IKL_LANEMAP_J1_BAD Reg.TRYP_LANEMAP_SPARE_BAD (bOff b) == 1,
     s.lf e Reg.IKL_LANEMAP_RETIRED Reg.TRYP_LANEMAP_RETIRED (bOff b) == 1⟩

/-- The lanes a map takes out of service, as a mask: those its jewels replace and its unusable jewels. -/
def mapBad (e : LinkEnd) (m : LaneMap) : Nat :=
  let j0 := nMain e
  let v0 := if m.t0 < nMain e then setBit 0 m.t0 else 0
  let v1 := if m.t1 < nMain e then setBit v0 m.t1 else v0
  let v2 := if m.bad0 then setBit v1 j0 else v1
  if m.bad1 && !isTray e then setBit v2 (j0 + 1) else v2

/-- The lanes of a bundle that have failed and that no map has taken out, as a mask: in the start lane test, or since. -/
def BundleSt.failMask (x : BundleSt) : Nat := x.failed.foldl setBit x.testBad

/-- Put a receive map into `LANEMAP` and `BADMASK`; a bundle that is retired keeps the lanes already out of service, and the lanes
that have failed go out with it. -/
def State.setRxMap (s : State) (e : LinkEnd) (b : Nat) (m : LaneMap) : State :=
  if isTray e then
    ((s.setLf e Reg.IKL_LANEMAP_J0_TGT Reg.TRYP_LANEMAP_SPARE_TGT m.t0).setLf e Reg.IKL_LANEMAP_J0_BAD
      Reg.TRYP_LANEMAP_SPARE_BAD (b2n m.bad0)).setLf e Reg.IKL_LANEMAP_RETIRED Reg.TRYP_LANEMAP_RETIRED (b2n m.retired)
  else
    let d := leDie e; let i := leInst e; let k := bOff b
    ((((((s.setF d .ikl i Reg.IKL_LANEMAP_J0_TGT m.t0 k).setF d .ikl i Reg.IKL_LANEMAP_J0_BAD (b2n m.bad0) k).setF d .ikl i
      Reg.IKL_LANEMAP_J1_TGT m.t1 k).setF d .ikl i Reg.IKL_LANEMAP_J1_BAD (b2n m.bad1) k).setF d .ikl i
      Reg.IKL_LANEMAP_RETIRED (b2n m.retired) k).setF d .ikl i Reg.IKL_BADMASK_BAD
        (if m.retired then Nat.lor (Nat.lor (s.getF d .ikl i Reg.IKL_BADMASK_BAD k) (mapBad e m)) (s.bun e b).failMask else mapBad e m) k)

/-- Show at one end whether a bundle is retired: its own `RETIRED`, and its maps' (R83). -/
def State.setRetired (s : State) (e : LinkEnd) (b : Nat) (v : Bool) : State :=
  let s1 := s.setRxMap e b { s.rxMap e b with retired := v }
  if isTray e then s1 else s1.setF (leDie e) .ikl (leInst e) Reg.IKL_BPHY_RETIRED (b2n v) (bOff b)

/-- The map received from the peer, in `LANEMAP_TX`. -/
def State.txMapOf (s : State) (e : LinkEnd) (b : Nat) : LaneMap :=
  if isTray e then
    ⟨s.lf e Reg.IKL_LANEMAP_TX_J0_TGT Reg.TRYP_LANEMAP_TX_SPARE_TGT,
     s.lf e Reg.IKL_LANEMAP_TX_J0_BAD Reg.TRYP_LANEMAP_TX_SPARE_BAD == 1, 15, true,
     s.lf e Reg.IKL_LANEMAP_TX_RETIRED Reg.TRYP_LANEMAP_TX_RETIRED == 1⟩
  else
    ⟨s.lf e Reg.IKL_LANEMAP_TX_J0_TGT Reg.TRYP_LANEMAP_TX_SPARE_TGT (bOff b),
     s.lf e Reg.IKL_LANEMAP_TX_J0_BAD Reg.TRYP_LANEMAP_TX_SPARE_BAD (bOff b) == 1,
     s.lf e Reg.IKL_LANEMAP_TX_J1_TGT Reg.TRYP_LANEMAP_TX_SPARE_TGT (bOff b),
     s.lf e Reg.IKL_LANEMAP_TX_J1_BAD Reg.TRYP_LANEMAP_TX_SPARE_BAD (bOff b) == 1,
     s.lf e Reg.IKL_LANEMAP_TX_RETIRED Reg.TRYP_LANEMAP_TX_RETIRED (bOff b) == 1⟩

/-- Put the map received from the peer into `LANEMAP_TX`. -/
def State.setTxMap (s : State) (e : LinkEnd) (b : Nat) (m : LaneMap) : State :=
  if isTray e then
    ((s.setLf e Reg.IKL_LANEMAP_TX_J0_TGT Reg.TRYP_LANEMAP_TX_SPARE_TGT m.t0).setLf e Reg.IKL_LANEMAP_TX_J0_BAD
      Reg.TRYP_LANEMAP_TX_SPARE_BAD (b2n m.bad0)).setLf e Reg.IKL_LANEMAP_TX_RETIRED Reg.TRYP_LANEMAP_TX_RETIRED
        (b2n m.retired)
  else
    let d := leDie e; let i := leInst e; let k := bOff b
    ((((s.setF d .ikl i Reg.IKL_LANEMAP_TX_J0_TGT m.t0 k).setF d .ikl i Reg.IKL_LANEMAP_TX_J0_BAD (b2n m.bad0) k).setF d .ikl i
      Reg.IKL_LANEMAP_TX_J1_TGT m.t1 k).setF d .ikl i Reg.IKL_LANEMAP_TX_J1_BAD (b2n m.bad1) k).setF d .ikl i
      Reg.IKL_LANEMAP_TX_RETIRED (b2n m.retired) k

/-- The fused map of the receive direction (R88). -/
def State.fuseMap (s : State) (e : LinkEnd) (b : Nat) : LaneMap :=
  if isTray e then ⟨s.lf e Reg.IKL_FUSEMAP_J0_TGT Reg.TRYP_FUSEMAP_SPARE_TGT,
    s.lf e Reg.IKL_FUSEMAP_J0_BAD Reg.TRYP_FUSEMAP_SPARE_BAD == 1, 15, true, false⟩
  else ⟨s.lf e Reg.IKL_FUSEMAP_J0_TGT Reg.TRYP_FUSEMAP_SPARE_TGT (bOff b),
    s.lf e Reg.IKL_FUSEMAP_J0_BAD Reg.TRYP_FUSEMAP_SPARE_BAD (bOff b) == 1,
    s.lf e Reg.IKL_FUSEMAP_J1_TGT Reg.TRYP_FUSEMAP_SPARE_TGT (bOff b),
    s.lf e Reg.IKL_FUSEMAP_J1_BAD Reg.TRYP_FUSEMAP_SPARE_BAD (bOff b) == 1, false⟩

/-- The fused map of the transmit direction (R88, R195). -/
def State.fuseMapTx (s : State) (e : LinkEnd) (b : Nat) : LaneMap :=
  match e with
  | .tray n => let v := Tab.get 15 s.trayFuse n.val; ⟨v % 16, bit v 4, 15, true, false⟩
  | .ikl d sl =>
    let g (f : Fld) : Nat := s.getF d .ikl sl.val f (bOff b)
    ⟨g Reg.IKL_FUSEMAP_TX_J0_TGT, g Reg.IKL_FUSEMAP_TX_J0_BAD == 1, g Reg.IKL_FUSEMAP_TX_J1_TGT, g Reg.IKL_FUSEMAP_TX_J1_BAD == 1, false⟩

/-- Both maps of every bundle of a link end take the fused maps, as its domain comes on (R88, R98)
(log entry 111, DEDUCED). -/
def State.loadFuseMaps (s : State) (e : LinkEnd) : State :=
  (List.range (nBundles e)).foldl (fun (t : State) b => (t.setRxMap e b (t.fuseMap e b)).setTxMap e b (t.fuseMapTx e b)) s

/-- The receive map by which lanes are read: the fused one until the maps of `DESKEW` are applied (R89, R98). -/
def State.useMap (s : State) (e : LinkEnd) (b : Nat) : LaneMap :=
  if decide (s.lst e ≤ stDeskew) && !(s.bun e b).rxApplied then s.fuseMap e b else s.rxMap e b

/-- The transmit map by which lanes are driven. -/
def State.useMapTx (s : State) (e : LinkEnd) (b : Nat) : LaneMap :=
  if decide (s.lst e ≤ stDeskew) && !(s.bun e b).txApplied then s.fuseMapTx e b else s.txMapOf e b

/-- The map procedure of R97: lanes replaced in the base map or failing the test are bad; the usable jewels take the bad
lanes in ascending code, J0 first; more bad lanes than jewels retire the bundle. `fail` is the mask of lanes that failed. -/
def laneMapOf (e : LinkEnd) (base : LaneMap) (fail : Nat) : LaneMap :=
  let n := nMain e
  let bad := (List.range n).filter fun c => c == base.t0 || c == base.t1 || bit fail c
  let bad0 := base.bad0 || bit fail n
  let bad1 := base.bad1 || bit fail (n + 1)
  let jewels := (if bad0 then [] else [0]) ++ (if bad1 then [] else [1])
  if base.retired then { base with bad0 := bad0, bad1 := bad1 }
  else if jewels.length < bad.length then ⟨base.t0, bad0, base.t1, bad1, true⟩
  else
    let tgt (j : Nat) : Nat := match jewels.findIdx? (· == j) with
      | some i => bad.getD i (noTgt e)
      | none => noTgt e
    ⟨tgt 0, bad0, tgt 1, bad1, false⟩

/-! ### The sideband queue (R143 to R147) -/

/-- Whether a message type is acknowledged (R147). -/
def sbAcked (mtype : Nat) : Bool := mtype ∈ [0x09, 0x10, 0x11, 0x12, 0x13, 0x14, 0x1C]

/-- Whether R147 lists a message type. -/
def sbKnown (mtype : Nat) : Bool :=
  decide (mtype ≤ 0x0B) || decide (0x10 ≤ mtype ∧ mtype ≤ 0x14) || decide (0x18 ≤ mtype ∧ mtype ≤ 0x1C)

/-- The priority of a message type, 1 the highest (R147). -/
def sbPrio (mtype : Nat) : Nat :=
  if mtype ∈ [0x04, 0x05, 0x06, 0x07, 0x08, 0x09, 0x0A, 0x0B] then 1
  else if mtype ∈ [0x03, 0x10, 0x11, 0x12, 0x13, 0x14] then 2
  else if mtype == 0x02 then 3
  else if mtype ∈ [0x18, 0x19, 0x1A, 0x1B, 0x1C] then 4 else 5

/-- Queue a message at a link end. An acknowledged message takes the next MSEQ (R146). -/
def State.sbSend (s : State) (e : LinkEnd) (mtype body : Nat) (aux : Nat := 0) (copies : Nat := 1) : State :=
  let l := s.link e
  if sbAcked mtype then
    s.setLink e { l with q := l.q ++ [{ mtype := mtype, body := body, aux := aux, mseq := l.mseq, copies := copies }],
                         mseq := (l.mseq + 1) % 256 }
  else s.setLink e { l with q := l.q ++ [{ mtype := mtype, body := body, aux := aux, copies := copies }] }

/-- Take an acknowledged message: queue its SB_ACK, and say whether this is its first copy (R146). The last 128 messages
are remembered (log entry 12, DESIGN CHOICE). -/
def State.sbTake (s : State) (e : LinkEnd) (mtype mseq : Nat) : Bool × State :=
  let l := s.link e
  let first := !decide ((mtype, mseq) ∈ l.acted)
  let l1 := if first then { l with acted := ((mtype, mseq) :: l.acted).take 128 } else l
  (first, (s.setLink e l1).sbSend e 0x03 (mtype % 64 * 2 ^ 6 + mseq % 256 * 2 ^ 12))

/-! ### Losses and retirement (R83, R84, R112, R163, R164, R206) -/

/-- The first turn boundary that begins at least `n` beats after `b`. -/
def turnAfter (n b : Nat) : Nat := boundaryAtOrAfter turnBeats (b + n)

/-- A die learns of a loss: it joins at the boundary R163 names, or, when that has begun, at the first boundary at least
one frame later, with LATE set (R165). A duplicate is dropped. -/
def State.addLoss (s : State) (d : Die) (link b decl joinAt : Nat) : State :=
  let x := s.die d
  if x.losses.any (fun l => l.link == link && l.bundle == b && l.decl == decl) then s
  else if joinAt ≤ x.beat then
    (s.setF d .gtr 0 Reg.GTR_STATUS_LATE 1).setDie d
      { x with losses := x.losses ++ [⟨link, b, decl, turnAfter frameBeats x.beat, false⟩] }
  else s.setDie d { x with losses := x.losses ++ [⟨link, b, decl, joinAt, false⟩] }

/-- The link ends of a die to its neighbours that the variant contains. -/
def State.ends (s : State) (d : Die) : List LinkEnd :=
  ((List.finRange 4).map (LinkEnd.ikl d)).filter fun e =>
    s.hasDie d && match farEnd e with
      | some f => s.hasDie (leDie f)
      | none => false

/-- Queue a loss notice on link ends, as this die's own or as one it forwards (R164, R173, R206). -/
def State.sendNotice (s : State) (es : List LinkEnd) (payload : List Byte) (fwd : Bool := false) : State :=
  es.foldl (fun t e => t.setLink e { t.link e with notices := (t.link e).notices ++ [(payload, fwd)] }) s

/-- The payload of a loss notice (R164), or of a tray-loss notice with code 0x0048 (R206). -/
def noticePayload (code a b rc decl : Nat) : List Byte :=
  leBytes 2 code ++ [BitVec.ofNat 8 a, BitVec.ofNat 8 b] ++ leBytes 2 rc ++ [0, 0] ++ leBytes 8 decl ++ List.replicate 48 0

/-- A retirement declared at an end: the end's die notes the loss and sends a notice to every other die (R163, R164). -/
def State.declareLoss (s : State) (e : LinkEnd) (b rc : Nat) : State :=
  let d := leDie e
  let decl := s.beat d
  (s.addLoss d (linkCode e) b decl (turnAfter 16384 decl)).sendNotice (s.ends d)
    (noticePayload 0x0047 (linkCode e) b rc decl)

/-- Bundles leave service at an end: they stop sending, and what the partner reports of them from a round trip later on is final
(R142). -/
def State.noteGone (s : State) (e : LinkEnd) (bs : List Nat) : State :=
  bs.foldl (fun (t : State) b => t.setBun e b { t.bun e b with txFinal := false, gone := s.time + 1 }) s

/-- Begin the change of R142: UC stops until the bundles that stay are drained. -/
def State.quiesce (s : State) (e : LinkEnd) (leaving : List Nat) : State :=
  if s.inService e then
    let fresh := leaving.filter fun b => !decide (b ∈ (s.link e).leaving)
    ((s.setLf e Reg.IKL_LL_STATUS_UC_QUIESCE Reg.TRYP_LL_STATUS_UC_QUIESCE 1).setLink e
      { s.link e with leaving := (s.link e).leaving ++ fresh }).noteGone e fresh
  else s

/-- The end of a link whose set of bundles in service has shrunk: `DEGRADED`, or `RETIRED` with no bundle left (R149). -/
def State.degrade (s : State) (e : LinkEnd) : State :=
  if s.sending e == [] then (if decide (stCalib ≤ s.lst e ∧ s.lst e ≤ stDegraded) then s.toSt e stRetired else s)
  else if s.lst e == stLive then s.toSt e stDegraded else s

/-- A bundle is retired at this end: it stops in both directions, and what it expected next is final (R83, R142, R149). -/
def State.markRetired (s : State) (e : LinkEnd) (b : Nat) : State :=
  let x := s.bun e b
  let s0 := s.setRetired e b true
  let s1 := s0.setBun e b { x with byMax := false, dying := false, stopAt := none, finalEs := x.es, finalOk := true,
                                   rxStop := some (x.rxStop.getD (s.beat (leDie e))), failed := [], repairs := [], txRepairs := [],
                                   loc := 0, uncorr := 0, gone := s.time + 1 }
  (s1.setTxMap e b { s1.txMapOf e b with retired := true }).degrade e

/-- The tray loss of R206: the cable's loss is noted, and notices go out on the other `LIVE` ports and to every die. The reason a
notice can carry is that of a port lost or of a port retired (log entry 131, DEDUCED). -/
def State.declareTrayLoss (s : State) (n : Fin 8) (rc : Nat) : State :=
  let e : LinkEnd := .tray n
  let c := trayCrown n
  let me := s.getF cr0 .boot 0 Reg.BOOT_STRAP_PKG_ID
  let peer := s.lf e Reg.IKL_PHY_CTL_MODE Reg.TRYP_PORT_CTL_PEER_PKG
  let pport := s.lf e Reg.IKL_PHY_CTL_MODE Reg.TRYP_PORT_CTL_PEER_PORT
  let ap := if me < peer then me else peer
  let an := if me < peer then n.val else pport
  let decl := s.beat (.cr c)
  let why := if rc == 0xB005 then 0xB005 else 0x3002
  let others := ((List.finRange 8).filter fun m => m != n && trayCrown m == c && s.lst (.tray m) == stLive).map LinkEnd.tray
  let s1 := s.setDie (.cr c) { s.die (.cr c) with seenLoss := (s.die (.cr c)).seenLoss ++ [(16 * ap + an, decl)] }
  (s1.addLoss (.cr c) (16 + ap) an decl (turnAfter turnBeats decl)).sendNotice (others ++ s.ends (.cr c))
    (noticePayload 0x0048 ap an why decl)

/-- Retire a bundle for a reason (R83, R112, R140, R142). Its loss is declared and the change of UC begins. With the sideband up the
partner is told (BUNDLE_RETIRE, and RETIRE in the next marker), delivery stops at the next frame boundary, unless `keep`, and
the bundle sends until its stop; without a sideband it is retired at once. A tray port is retired at once, with DOWN in its
next blocks and its tray loss declared (R197, R202) (log entry 124, DEDUCED). -/
def State.retireBundle (s : State) (e : LinkEnd) (b rc : Nat) (keep : Bool := false) : State :=
  let x := s.bun e b
  if s.retired e b || x.dying then s
  else
    match e with
    | .tray n =>
      let s1 := s.logLink e rc
      let was := s.inService e
      let s2 := ((s1.setRetired e 0 true).toSt e stRetired).setLink e
        { (s1.toSt e stRetired).link e with down := s.frame (leDie e) + 2 }
      if was then s2.declareTrayLoss n rc else s2
    | .ikl _ _ =>
      let s1 := (s.logLink e rc).declareLoss e b rc
      if decide (stDeskew ≤ s.lst e ∧ s.lst e ≤ stDegraded) then
        let s2 := (s1.sbSend e 0x12 (b % 16 * 2 ^ 14 + rc % 65536 * 2 ^ 18)).quiesce e [b]
        let stop := if keep then x.rxStop else some (x.rxStop.getD (boundaryAtOrAfter frameBeats (s.beat (leDie e))))
        let s3 := s2.setBun e b { s2.bun e b with dying := true, rxStop := stop }
        if s3.lst e == stLive then s3.toSt e stDegraded else s3
      else s1.markRetired e b

/-- The bundle stops at the next frame boundary (R83). -/
def State.stopNext (s : State) (e : LinkEnd) (b : Nat) : State :=
  let x := s.bun e b
  if s.retired e b || x.stopAt != none then s
  else s.setBun e b { x with stopAt := some (s.frame (leDie e) + 1) }

/-! ### Joint reset of FP links (R57) -/

/-- The joint reset line of FP link `f`. -/
def State.fpLine (s : State) (f : Nat) : FpLine := Tab.get {} s.fpLines f

/-- A Movement die asks for the joint reset of an FP link: over S*m*0 when it is in service, else over its other FP link
when that is; with no path no request is made (R57). -/
def State.askFpReset (s : State) (m : Mv) (f : Nat) : State :=
  let msg := f % 4 * 2 ^ 14
  if s.inService (spMv m 0) then s.sbSend (spMv m 0) 0x14 msg
  else
    let other : LinkEnd := if f == m.val then .ikl (.mv m) 1 else .ikl (.mv m) 0
    if s.inService other then s.sbSend other 0x14 msg else s

/-! ### Returning to RESET or LISTEN -/

/-- The end's state of a retrain from service (R506): receive sequences become final, the holding store empties. -/
def LinkSt.leaveService (l : LinkSt) (n : Nat) : LinkSt :=
  (List.range n).foldl (fun l b => let x := l.bundle b
      l.setBundle b { x with finalEs := x.es, finalOk := true, replayQ := [], failed := [], repairs := [], txRepairs := [],
                             uncorr := 0, loc := 0, txFinal := false })
    { l with returning := true, hold := [], resend := [], naked := [] }

/-- Forget what belongs to one pass through training. -/
def LinkSt.retrain (l : LinkSt) (n : Nat) : LinkSt :=
  (List.range n).foldl (fun l b => let x := l.bundle b
      l.setBundle b { x with lastFrame := 0, good := 0, badRun := 0, goodAt := 0, checked := 0, done := false, cal := false,
                             retire := false, ckBad := 0, search := {}, testBad := 0, tested := false, testAt := 0, rxPend := none,
                             txPend := none, rxApplied := false, txApplied := false, mapAcked := false, txAckAt := 0 })
    { l with testDone := false, gotDone := false, pinned := false, ptrReqAt := 0, ptrFrame := 0, ptrSet := false, ptrWant := 0,
             ptrOwe := 0, probeAt := 0, jointFree := false, offs := [], offRun := 0, q := [], unacked := [],
             acted := [], ackSend := false, peerBv := false, syncWait := false, syncReq := 0, syncFails := 0 }

/-- The back-off after a failure: 10 ms, then doubled up to 1,280 ms (R202). -/
def nextBackoff (b : Nat) : Nat := if b == 0 then 10 else min (2 * b) 1280

/-- `TRAIN_MAX` is reached: every bundle not retired yet is marked so, its loss declared as R163 and R164 lay down. -/
def State.retireAll (s : State) (e : LinkEnd) (rc : Nat) : State :=
  (s.live e).foldl (fun (t : State) b =>
    let u := (t.setRetired e b true).declareLoss e b rc
    u.setBun e b { u.bun e b with byMax := true }) s

/-- An end leaves service: bundles whose retirement is declared are retired, and what UC keeps through a retrain is kept (R83,
R506). -/
def State.endService (s : State) (e : LinkEnd) : State :=
  if !s.inService e then s
  else
    let s1 := ((List.range (nBundles e)).filter fun b => (s.bun e b).dying).foldl (fun (t : State) b => t.markRetired e b) s
    s1.setLink e ((s1.link e).leaveService (nBundles e))

/-- A link end leaves training or service: an Ikiper end goes to `RESET`, counting the attempt where R149 says so, and to
`RETIRED` when counted attempts reach `TRAIN_MAX`; a tray port goes to `LISTEN`, with RC 0xB002 from training and RC
0xB005 and its tray loss from service, after the code that sends it there where R185, R126 or R146 gives one (R202). `rc` is
zero where no code is logged; an FP end asks for the joint reset unless that is what brought it here
(log entry 27, DEDUCED) (log entry 91, DEDUCED) (log entry 132, DEDUCED). -/
def State.linkReturn (s : State) (e : LinkEnd) (rc : Nat) (counted : Bool) (ask : Bool := true) : State :=
  let was := s.inService e
  let pinning := s.lst e == stPin && rc == 0x3004
  let s0 := s.endService e
  let l1 := (s0.link e).retrain (nBundles e + if isTray e then 24 else 0)
  match e with
  | .tray n =>
    let code := if was then 0xB005 else 0xB002
    let bo := if was then l1.backoff else nextBackoff l1.backoff
    let s1 := s0.setLink e { l1 with backoff := bo, backAt := s.time }
    let s2 := if (was || pinning) && rc != 0 && rc != code then s1.logLink e rc else s1
    let s3 := (s2.logLink e code).setF (leDie e) .trayPort (leInst e) Reg.TRYP_RETRY_LAST_RC code
    let s4 := (s3.setF (leDie e) .trayPort (leInst e) Reg.TRYP_RETRY_BACKOFF (bo / 10)).toSt e stListen
    if was then s4.declareTrayLoss n 0xB005 else s4
  | .ikl d _ =>
    let s1 := s0.setLink e l1
    let s2 := if rc == 0 then s1 else s1.logLink e rc
    let s3 := if counted then s2.bumpF d .ikl (leInst e) Reg.IKL_LL_STATUS_ATTEMPTS else s2
    let s4 := match d with
      | .mv m => if isFp e && ask then s3.askFpReset m (linkCode e) else s3
      | .cr _ => s3
    if counted && decide (s.trainMax e ≤ s3.getF d .ikl (leInst e) Reg.IKL_LL_STATUS_ATTEMPTS) then
      (s4.retireAll e rc).toSt e stRetired
    else if s0.lst e == stRetired then s4
    else s4.toSt e stReset

end Sys2Proof.Machine
end

