-- ==== Sys2Proof/Machine/Recover.lean ====
section
/-! DEFINITION. Entering the escalation ladder (R443, R444, R463). -/

namespace Sys2Proof.Machine

/-! ### Parameters in effect (R468, R469) -/

/-- The expert fields of `RCV` govern. -/
def State.rcvExpert (s : State) : Bool := s.isF cr0 .rcv 0 Reg.RCV_CTL_EXPERT
def State.sampleKib (s : State) : Nat := if s.rcvExpert then s.getF cr0 .rcv 0 Reg.RCV_PARAM_SAMPLE_KIB else 16
def State.replayLim (s : State) : Nat := if s.rcvExpert then s.getF cr0 .rcv 0 Reg.RCV_PARAM_REPLAY_LIM else 16
def State.chipMax (s : State) : Nat := if s.rcvExpert then s.getF cr0 .rcv 0 Reg.RCV_OOSCFG_CHIP_MAX else 4
def State.winS (s : State) : Nat := if s.rcvExpert then s.getF cr0 .rcv 0 Reg.RCV_OOSCFG_WIN_S else 3600

/-- Beats of a second. -/
def secBeats : Nat := 1000 * msBeats

/-- `RCV.STATUS.LEVEL`: the highest level in progress. -/
def State.showLevel (s : State) : State :=
  s.setF cr0 .rcv 0 Reg.RCV_STATUS_LEVEL (([0, 1, 2, 3, 4].map fun k => (s.dom k).level).foldl max 0)

/-- Note the last level entered, from engine level up (`RCV.LAST`) (log entry 174, DEDUCED). -/
def State.noteLast (s : State) (rc cause : Nat) (d : Die) : State :=
  (((s.setF cr0 .rcv 0 Reg.RCV_LAST_LAST_RC rc).setF cr0 .rcv 0 Reg.RCV_LAST_LAST_CAUSE cause).setF cr0 .rcv 0
    Reg.RCV_LAST_LAST_DIE (dieCode d)).set64 cr0 .rcv 0 Reg.RCV_LAST_BEAT_LO_BEAT Reg.RCV_LAST_BEAT_HI_BEAT (s.beat d)

/-- Request a power cycle (R443, R463): RC 0x9005 with its cause, PWRCYC, and the pin; never while `OOS` is asserted. -/
def State.powerCycle (s : State) (cause : Nat) : State :=
  if s.pins.oos then s
  else
    let s1 := ((s.log cr0 .rcv 0 0x9005 [BitVec.ofNat 8 cause]).noteLast 0x9005 cause cr0).setF cr0 .rcv 0 Reg.RCV_STATUS_PWRCYC 1
    { s1 with pins := { s1.pins with pwrcycReq := true } }

/-! ### The record of chip-level escalations (R465) -/

/-- The recorded escalations, by their `BEAT`, oldest first. -/
def State.history (s : State) : List Nat :=
  ((List.range 15).map fun i => s.get64 cr0 .rcv 0 Reg.RCV_HIST_LO_BEAT Reg.RCV_HIST_HI_BEAT (8 * i)).filter (· != 0)

/-- Put them. -/
def State.setHistory (s : State) (l : List Nat) : State :=
  (List.range 15).foldl (fun (t : State) i =>
    t.set64 cr0 .rcv 0 Reg.RCV_HIST_LO_BEAT Reg.RCV_HIST_HI_BEAT (l.getD i 0) (8 * i)) s

/-- The recorded escalations within the last `WIN_S` seconds. -/
def State.chipCount (s : State) : Nat :=
  (s.history.filter fun b => decide (s.beat cr0 ≤ b + s.winS * secBeats)).length

/-- Record one more (log entry 97, DEDUCED). -/
def State.noteChip (s : State) : State :=
  let l := s.history ++ [s.beat cr0]
  s.setHistory (l.drop (l.length - 15))

/-! ### Heartbeats and the tray (R41, R446, R458) -/

/-- The profile of `BAL` (R58). -/
def State.balProfile (s : State) : Nat := s.getF cr0 .bal 0 Reg.BAL_CTL_PROFILE

/-- Whether the package belongs to a tray and is not its master (R41, R58); one that went on stand-alone is no follower (R396). -/
def State.isFollower (s : State) : Bool :=
  decide (2 ≤ s.balProfile) && s.pkgId != s.getF cr0 .bal 0 Reg.BAL_CTL_MASTER_PKG && !s.boot.alone

/-- The body of a HEARTBEAT container. -/
def hbBody (kind die pkg turn level : Nat) (ready : Bool) (faulted cause : Nat) : Nat :=
  kind * 2 ^ 6 + die * 2 ^ 9 + pkg * 2 ^ 12 + turn % 2 ^ 43 * 2 ^ 16 + level * 2 ^ 59 + b2n ready * 2 ^ 62 +
    faulted % 2 ^ 32 * 2 ^ 64 + cause % 256 * 2 ^ 96

/-- Whether the image names other packages (R400). -/
def State.multiPkg (s : State) : Bool :=
  match s.boot.image with
  | some i => decide (1 < i.packages.length)
  | none => false

/-- The `LIVE` tray ports. -/
def State.livePorts (s : State) : List (Fin 8) := (List.finRange 8).filter fun n => s.inService (.tray n)

/-- The sync port in use (R41). -/
def State.syncPort (s : State) : Option (Fin 8) :=
  if s.isF cr0 .bal 0 Reg.BAL_REF_PORT_VALID then some (Fin.ofNat 8 (s.getF cr0 .bal 0 Reg.BAL_REF_ACTIVE_PORT)) else none

/-- Send a heartbeat to the tray master along the sync path (R458). -/
def State.tellMaster (s : State) (level : Nat) (ready : Bool) (cause : Nat) : State :=
  match s.syncPort with
  | some n => s.sbSend (.tray n) 0x18 (hbBody 1 4 s.pkgId (s.turn cr0) level ready 0 cause)
  | none => s

/-- Stop SC on every link end (R458). -/
def State.stopAllSc (s : State) : State :=
  ((s.dieList.map fun d => s.ends d).flatten ++ (List.finRange 8).map LinkEnd.tray).foldl (fun t e =>
    t.setLink e { t.link e with scStop := true }) s

/-- The tray order of a master: the first turn boundary that begins at least 2 turns after it (R458). -/
def State.sendOrder (s : State) (cause : Nat) : State :=
  let stop := turnAfter (2 * turnBeats) (s.beat cr0) / turnBeats
  let body := hbBody 3 0 s.pkgId stop (s.dom 4).level false 0 cause
  let s1 := s.livePorts.foldl (fun t n => t.sbSend (.tray n) 0x18 body) s
  { s1 with recov := { s1.recov with stopTurn := stop + 1, lastOrder := stop + 1 } }

/-- A package of a multi-package image reaches chip level: SC stops at once, and the master learns of it, or orders the tray
(R458). -/
def State.chipTray (s : State) (cause : Nat) : State :=
  if !s.multiPkg then s
  else
    let s1 := s.stopAllSc
    if cause == 0x09 then s1
    else if s.isFollower then s1.tellMaster 4 false cause else s1.sendOrder cause

/-- The sequence number of the crash dump of a die's recovery: of the one it has in hand once written, else of the next (R443,
R453) (log entry 173, DEDUCED). A Crown die writes none. -/
def State.dumpNum (s : State) (key : Nat) (d : Die) : Nat :=
  match d with
  | .cr _ => 0
  | .mv _ => s.getF d .rcv 0 Reg.RCV_DUMP_SEQ + b2n (decide ((s.dom key).step ≤ 2))

/-- A trigger of the ladder (R443): the level's code is logged with its detail; the level starts unless the domain is
already in one at least as high, and a higher one abandons the lower (R444). One of chip level is recorded before it is acted
on, but for a tray order's; when the count is reached, the package is to go out of service, and SC stops; else the tray learns of
it (R458, R465). `lvl` is 2 for engine, 3 for partition and 4 for chip level; a chip level is the package's and is logged on
CR0. -/
def State.trigger (s : State) (lvl cause : Nat) (d : Die) (eng : Nat := 0xFF) (rc : Nat := 0) (origin : Nat := 0) : State :=
  let key := if lvl == 4 then 4 else dieCode d
  let ld := if lvl == 4 then cr0 else d
  let detail := [BitVec.ofNat 8 cause, BitVec.ofNat 8 eng] ++ leBytes 2 rc ++
    leBytes 4 (s.getF d .rcv 0 Reg.RCV_SUSPECT_MASK) ++ leBytes 4 (s.dumpNum key d)
  let s1 := s.log ld .rcv 0 (0x9000 + lvl) detail
  if decide (lvl ≤ (s.dom key).level) || decide (lvl ≤ (s.dom 4).level) then s1
  else
    let s2 := s1.noteLast (0x9000 + lvl) cause d
    let x : RcvDom := { level := lvl, cause := cause, eng := eng, rc := rc, since := s.time, beat := s.beat d, step := 1,
                        origin := if origin == 0 then cause else origin }
    if lvl != 4 then (s2.setDom key x).showLevel
    else
      let s3 := mvDies.foldl (fun t m => t.setDom (dieCode m) {}) s2
      let s4 := if cause == 0x09 then s3 else s3.noteChip
      let oos := cause != 0x09 && decide (s4.chipMax ≤ s4.chipCount)
      let s5 := (s4.setDom 4 { x with oos := oos }).showLevel
      if oos then s5.stopAllSc else s5.chipTray cause

end Sys2Proof.Machine
end

