-- ==== Sys2Proof/Machine/Startup.lean ====
section
/-! DEFINITION. How start-up moves on: its steps and phases, and the domains it still has to switch (R393, R396, R397, R404). -/

namespace Sys2Proof.Machine

/-- Put the phase (R404). -/
def State.setPhase (s : State) (p : Nat) : State := s.setF cr0 .boot 0 Reg.BOOT_STATUS_PHASE p

/-- Record the end of a step, in units of 10 µs after T0 (R404). -/
def State.endStep (s : State) (k : Nat) : State :=
  s.setF cr0 .boot 0 Reg.BOOT_STEP (if s.boot.t0 == 0 then 0 else (s.time + 1 - s.boot.t0) / 16000) (4 * (k - 1))

/-- CR0 switches no domain on: in a power fail, or after a thermal shutdown, until the next power-on reset (R367, R368). -/
def State.switchesHeld (s : State) : Bool := s.isF cr0 .pwr 0 Reg.PWR_STATUS_PF || s.isF cr0 .pwr 0 Reg.PWR_STATUS_THSD

/-- Close the switch of the next domain, one at a time (R353, R393). The Movement domains of a follower wait for its `BEAT`
(R396); nothing is switched on while the switches are held, or on a halt. -/
def State.nextDomain (s : State) : State :=
  match s.boot.busyDom, s.boot.todo with
  | none, k :: rest =>
    if (s.boot.waitLoad && decide (k.1 < 12)) || s.switchesHeld || s.phase == 15 then s
    else { s with boot := { s.boot with busyDom := some k, todo := rest } }
  | _, _ => s

/-- Stacks of a Movement die. -/
def State.hbmStacks (s : State) : List Nat := if s.h8 then [0, 1] else [0]

/-- Every stack of a Movement die has trained. -/
def State.hbmTrained (s : State) (d : Die) : Bool := s.hbmStacks.all fun k => bit s.boot.hbmOk (2 * dieCode d + k)

/-- A link end works towards service: its two enables are set and its die is supplied. -/
def State.endOn (s : State) (e : LinkEnd) : Bool :=
  s.powered (leDie e) .ikl && s.enabled .phy (leDie e) (leInst e) && s.enabled .ll (leDie e) (leInst e)

/-- Step 7 is over: every Ikiper link with both ends at work is in service or retired, and every stack of a supplied Movement
die has trained. -/
def State.calibrated (s : State) : Bool :=
  (s.dieList.all fun d => (s.ends d).all fun e =>
    match farEnd e with
    | some f => !(s.endOn e && s.endOn f) || s.inService e || s.lst e == stRetired
    | none => true) &&
  mvDies.all fun d => !s.powered d .mem || s.hbmTrained d

/-- Step 8 is over: every supplied die holds `BEAT_VALID`. -/
def State.synced (s : State) : Bool := s.dieList.all fun d => !s.powered d .bal || s.isF d .bal 0 Reg.BAL_STATUS_BEAT_VALID

/-- Go on with start-up where a step has ended (R397, R404): after step 8 the package waits for an image, or loads the flash
image once its pass has brought one (log entry 72, DEDUCED). Step 6 does not end while the switches are held. -/
def State.bootAdvance (s : State) : State :=
  let s1 := if s.phase == 5 && !s.switchesHeld && s.boot.todo == [] && s.boot.busyDom == none then (s.endStep 6).setPhase 6 else s
  let s2 := if s1.phase == 6 && s1.calibrated then (s1.endStep 7).setPhase 7 else s1
  if s2.phase == 7 && s2.synced then
    let own := s2.isF cr0 .boot 0 Reg.BOOT_CTL_ENABLE && s2.getF cr0 .boot 0 Reg.BOOT_CTL_PROFILE == 0
    if !own then (s2.endStep 8).setPhase 8
    else if !s2.isF cr0 .boot 0 Reg.BOOT_STATUS_FLASH_DONE then s2
    else if s2.boot.imgBytes == 0 then (s2.endStep 8).setPhase 8
    else ({ s2 with boot := { s2.boot with loadSrc := 0 } }.endStep 8).setPhase 9
  else s2

end Sys2Proof.Machine
end

