-- ==== Sys2Proof/Machine/TimeBase.lean ====
section
/-! DEFINITION. The time base: `BEAT` loads and beat synchronisation, the map to TAI, clock-domain crossings, the pointer
handshake and the joint reset of FP links (02_beat_and_balance). -/

namespace Sys2Proof.Machine

/-! ### The time base in effect -/

/-- The packages at most `n` hops from the packages of a mask, over the declared cables. -/
def spread (topo : List (Nat × Nat × Nat × Nat)) : Nat → Nat → Nat
  | m, 0 => m
  | m, n + 1 => spread topo (topo.foldl (fun a c =>
      let a1 := if bit m c.1 then setBit a c.2.2.1 else a
      if bit m c.2.2.1 then setBit a1 c.1 else a1) m) n

/-- Hops from package `p` to package `q` over the declared cables; 16 where there is no path. -/
def hopsTo (topo : List (Nat × Nat × Nat × Nat)) (q p : Nat) : Nat :=
  ((List.range 16).find? fun n => bit (spread topo (2 ^ q) n) p).getD 16

/-- Whether tray port `n` is a sync port: enabled as one, with its declared peer on a shortest path to the master (R41).
With the profile in force every port is enabled (log entry 14, DEDUCED). -/
def State.isSyncPort (s : State) (n : Fin 8) : Bool :=
  let en := if s.isF cr0 .bal 0 Reg.BAL_CTL_EXPERT then bit (s.getF cr0 .bal 0 Reg.BAL_REF_SYNC_PORTS) n.val else true
  let m := s.getF cr0 .bal 0 Reg.BAL_CTL_MASTER_PKG
  let e : LinkEnd := .tray n
  let peer := s.lf e Reg.IKL_PHY_CTL_MODE Reg.TRYP_PORT_CTL_PEER_PKG
  en && s.lf e Reg.IKL_PHY_CTL_MODE Reg.TRYP_PORT_CTL_PEER_VALID == 1 &&
    decide (hopsTo s.topo m peer + 1 = hopsTo s.topo m s.pkgId)

/-- Make the lowest sync port that is `LIVE` the active one, which ends a freeze, or show that there is none (R41, R44). -/
def State.pickSyncPort (s : State) : State :=
  match (List.finRange 8).find? fun n => s.isSyncPort n && s.lst (.tray n) == stLive with
  | some n => { (s.setF cr0 .bal 0 Reg.BAL_REF_ACTIVE_PORT n.val).setF cr0 .bal 0 Reg.BAL_REF_PORT_VALID 1 with
                sync := { s.sync with noPort := 0, frozen := false } }
  | none => { s.setF cr0 .bal 0 Reg.BAL_REF_PORT_VALID 0 with
              sync := { s.sync with noPort := if s.sync.noPort == 0 then s.time + 1 else s.sync.noPort } }

/-- What a package's `PREF` follows (R31, R41, R44, R58). -/
inductive PrefSource where
  /-- The crystal. -/
  | crystal
  /-- The clock on `PREF_IN`. -/
  | input
  /-- The symbol clock recovered on the active sync port. -/
  | port (n : Nat)
  /-- The frequency held since the last sync port went. -/
  | held
  deriving DecidableEq, Repr

/-- What `PREF` follows now. -/
def State.prefSource (s : State) : PrefSource :=
  let p := s.balProfile
  if p == 1 || p == 3 then .input
  else if p == 2 && s.isFollower then
    (if s.sync.frozen then .held
     else if s.isF cr0 .bal 0 Reg.BAL_REF_PORT_VALID then .port (s.getF cr0 .bal 0 Reg.BAL_REF_ACTIVE_PORT) else .crystal)
  else .crystal

/-- SC is no longer issued on the tray ports. -/
def State.stopTraySc (s : State) : State :=
  (List.finRange 8).foldl (fun t n => t.setLink (.tray n) { t.link (.tray n) with scStop := true }) s

/-- Set `SYNC_LOST`: SC stops on the tray ports and the package enters chip level with cause 0x06 (R43, R44, R443). -/
def State.syncLost (s : State) : State :=
  ((s.setF cr0 .bal 0 Reg.BAL_STATUS_SYNC_LOST 1).stopTraySc).trigger 4 0x06 cr0

/-! ### The map to TAI (R45) -/

/-- The map of CR0: anchor beat, anchor TAI, rate in two's complement. -/
def State.cr0Map (s : State) : Nat × Nat × Nat :=
  (s.get64 cr0 .bal 0 Reg.BAL_ANCHOR_BEAT_LO Reg.BAL_ANCHOR_BEAT_HI,
   s.get64 cr0 .bal 0 Reg.BAL_ANCHOR_TAI_LO Reg.BAL_ANCHOR_TAI_HI, s.getF cr0 .bal 0 Reg.BAL_RATE)

/-- Put the map of CR0; while the ledger waits or runs it keeps the map that ends, for what lies under it (R45, R335). -/
def State.setCr0Map (s : State) (m : Nat × Nat × Nat) : State :=
  let s1 := if decide (s.getF cr0 .ldg 0 Reg.LDG_STATUS_STATE ∈ [1, 2, 3]) then
      { s with ldg := { s.ldg with maps := s.ldg.maps ++ [(s.beat cr0, s.cr0Map)] } }
    else s
  ((s1.set64 cr0 .bal 0 Reg.BAL_ANCHOR_BEAT_LO Reg.BAL_ANCHOR_BEAT_HI m.1).set64 cr0 .bal 0 Reg.BAL_ANCHOR_TAI_LO
    Reg.BAL_ANCHOR_TAI_HI m.2.1).setF cr0 .bal 0 Reg.BAL_RATE m.2.2

/-- The map a die uses. -/
def State.mapOf (s : State) (d : Die) : Nat × Nat × Nat := if d = cr0 then s.cr0Map else (s.die d).tai

/-- TAI(b) of a map, rounded to the nearest nanosecond with halves up (R45): 0.625 ns is 5/8 ns, and the rate counts
units of 10⁻¹⁰. -/
def taiAt (m : Nat × Nat × Nat) (b : Nat) : Nat :=
  let num : Int := ((b : Int) - m.1) * 5 * (10000000000 + signed 32 m.2.2)
  ((m.2.1 : Int) + (2 * num + 80000000000).fdiv 160000000000).toNat

/-- TAI of the present beat of a die. -/
def State.taiNow (s : State) (d : Die) : Nat := taiAt (s.mapOf d) (s.beat d)

/-- The first beat at or after a TAI time (R13): the least `b` with TAI(b) at least `t`, near the linear estimate. -/
def beatOfTai (m : Nat × Nat × Nat) (t : Nat) : Nat :=
  let est : Int := (m.1 : Int) + (((t : Int) - m.2.1) * 80000000000).fdiv (5 * (10000000000 + signed 32 m.2.2))
  let lo := (est - 4).toNat
  ((List.range 9).map (lo + ·)).find? (fun b => decide (t ≤ taiAt m b)) |>.getD (lo + 9)

/-- Put `TAI_VALID` and `HOLDOVER` of a die; a change raises vector 7, and a running ledger shows whether it marks its records
(R48, R275, R337). -/
def State.setTaiFlags (s : State) (d : Die) (valid hold : Bool) : State :=
  let same := s.isF d .bal 0 Reg.BAL_STATUS_TAI_VALID == valid && s.isF d .bal 0 Reg.BAL_STATUS_HOLDOVER == hold
  let s1 := (s.setF d .bal 0 Reg.BAL_STATUS_TAI_VALID (b2n valid)).setF d .bal 0 Reg.BAL_STATUS_HOLDOVER (b2n hold)
  let x := s1.die d
  let s2 := s1.setDie d { x with taiEver := x.taiEver || valid, taiAt := if valid && !x.taiEver then x.beat else x.taiAt }
  let s3 := if d = cr0 ∧ s2.getF cr0 .ldg 0 Reg.LDG_STATUS_STATE = 2 then
      s2.setF cr0 .ldg 0 Reg.LDG_STATUS_HOLDOVER (b2n hold)
    else s2
  if same then s3 else s3.raise none 7

/-! ### Meanings -/

/-- A value as a path reads it is kept for that path. -/
def State.putRd (s : State) (p : Path) (v : Nat) : State := { s with rdData := Tab.set 0 s.rdData (pathCode p) v }

/-- A Movement die's MVC is held in reset (R454, R504). -/
def State.heldInReset (s : State) (d : Die) (b : Blk) : Bool :=
  match d, domOf d b with
  | .mv m, some k => decide (k < 4) && ((s.dom m.val).inReset || (s.dom 4).inReset)
  | _, _ => false

/-- What a path reads from a register of a die that is absent, that its SP link does not reach, or in a domain that is off or held in
reset (R9, R270, R504); a Crown die counts a read that a Movement die does not answer. -/
def State.deadRead (s : State) (p : Path) (d : Die) (b : Blk) : Option (Nat × State) :=
  if !s.hasDie d then some (0, s)
  else
    let c : Crown := match p with
      | .bar0 c => c
      | _ => 0
    let cut := match d with
      | .mv m => !s.powered d .ikl || !s.inService (spCrown m c)
      | .cr _ => false
    if cut then some (0xFFFFFFFF, match p with
      | .bar0 c => s.bumpF (.cr c) .pci 0 Reg.PCI_ERR_MS_UNREACH
      | _ => s)
    else if !s.powered d b || s.heldInReset d b then some (0xFFFFFFFF, s)
    else none

/-- R37, R501: a read of `BEAT_LO` returns the low word of the die's `BEAT` and latches the upper word for this path's
`BEAT_HI`: one latch for the path, whichever die's window it reads (log entry 149, DESIGN CHOICE). -/
def State.readBeatLo (s : State) (p : Path) (d : Die) : Nat × State :=
  (s.beat d % 2 ^ 32, { s with beatHi := Tab.set 0 s.beatHi (pathCode p) (s.beat d / 2 ^ 32) })

/-- `BEAT_LO_READ` (R37, R501). -/
def execBeatLoRead (p : Path) (d : Die) (s : State) : Host.Outcome State Fault Refusal :=
  let (v, s1) := (s.deadRead p d .bal).getD (s.readBeatLo p d)
  .next (s1.putRd p v)

/-- `BEAT_LOAD_SEND` (R38): CR0, with a valid `BEAT`, sends a load to a die whose link has passed `PIN`; CR1's goes over
S00, to be relayed by MV0. VALUE is filled in at the slot the message leaves in. -/
def execBeatLoadSend (d : Die) (s : State) : Host.Outcome State Fault Refusal :=
  let ok (e : LinkEnd) : Bool := decide (stSync ≤ s.lst e ∧ s.lst e ≤ stDegraded)
  match d with
  | .mv m => if s.isF cr0 .bal 0 Reg.BAL_STATUS_BEAT_VALID && ok (spCrown m 0) then .next (s.sbSend (spCrown m 0) 0x09 0)
    else .next s
  | .cr c =>
    if s.isF cr0 .bal 0 Reg.BAL_STATUS_BEAT_VALID && c == 1 && s.x2 && ok (spCrown 0 0) then
      .next (s.sbSend (spCrown 0 0) 0x09 0)
    else .next s

/-- A die applies a `BEAT` load (R36): only while `BEAT_VALID` is clear; the signed difference and the count are kept.
A follower's CR0 then switches on its Movement domains (R396). -/
def State.applyLoad (s : State) (d : Die) (value : Nat) (frac : Int) : State :=
  let x := s.die d
  let s1 := (s.setDie d { x with beat := value, phaseTrim := x.phaseTrim + frac }).set64 d .bal 0
    Reg.BAL_LOAD_DELTA_LO_DELTA Reg.BAL_LOAD_DELTA_HI_DELTA (unsigned 64 ((value : Int) - x.beat))
  let s2 := (s1.setF d .bal 0 Reg.BAL_LOADS (s1.getF d .bal 0 Reg.BAL_LOADS + 1)).setF d .bal 0 Reg.BAL_STATUS_BEAT_VALID 1
  let s3 := if d = cr0 && s2.boot.waitLoad then { s2 with boot := { s2.boot with waitLoad := false } }.nextDomain else s2
  s3.bootAdvance

/-- Tray port `n` leads away from the master, so the package acts as master for the package beyond it (R39, R40). -/
def State.leadsAway (s : State) (n : Fin 8) : Bool :=
  let m := s.getF cr0 .bal 0 Reg.BAL_CTL_MASTER_PKG
  let e : LinkEnd := .tray n
  let peer := s.lf e Reg.IKL_PHY_CTL_MODE Reg.TRYP_PORT_CTL_PEER_PKG
  s.lf e Reg.IKL_PHY_CTL_MODE Reg.TRYP_PORT_CTL_PEER_VALID == 1 &&
    decide (hopsTo s.topo m peer = hopsTo s.topo m s.pkgId + 1)

/-- Whether tray port `n` is the active sync port of a follower. -/
def State.isActivePort (s : State) (n : Fin 8) : Bool :=
  s.isFollower && s.isF cr0 .bal 0 Reg.BAL_REF_PORT_VALID && s.getF cr0 .bal 0 Reg.BAL_REF_ACTIVE_PORT == n.val

/-- `BEAT_SYNC_ATTEMPT` (R39, R40, R43): with its own `BEAT` valid, in a tray, the package queues a request: once a frame on a port
that leads to a package not yet loaded, whose markers do not carry BV; once a turn, as a follower, on its active sync port.
The request counts from the slot it leaves in. -/
def execBeatSyncAttempt (n : Fin 8) (s : State) : Host.Outcome State Fault Refusal :=
  let e : LinkEnd := .tray n
  let d := leDie e
  let l := s.link e
  let due := (s.atFrame d && s.leadsAway n && !l.peerBv) || (s.atTurn d && s.isActivePort n)
  if s.isF d .bal 0 Reg.BAL_STATUS_BEAT_VALID && decide (2 ≤ s.balProfile) && !s.boot.alone && due && l.syncReq == 0 && !l.syncWait &&
      decide (l.syncFails < 64) && decide (stSync ≤ s.lst e ∧ s.lst e ≤ stDegraded) then
    .next ((s.sbSend e 0x0A 0).setLink e { (s.sbSend e 0x0A 0).link e with syncWait := true })
  else .next s

/-- The follower's correction of R43: the error is shown in `PHASE_ERR`, at most 1/32 beat is trimmed, in profile 3 on
every die alike, and an error of more than one beat sets `SYNC_LOST`. -/
def State.phaseStep (s : State) (err : Int) : State :=
  let shown := max (-128) (min 127 err)
  let step := max (-1) (min 1 err)
  let s1 := s.setF cr0 .bal 0 Reg.BAL_REF_PHASE_ERR (unsigned 8 shown)
  let trim (t : State) (d : Die) : State := t.setDie d { t.die d with phaseTrim := (t.die d).phaseTrim - step }
  let s2 := if s.balProfile == 3 then s.dieList.foldl trim s1 else trim s1 cr0
  if decide (32 < err.natAbs) then s2.syncLost else s2

/-- `BEAT_SYNC_TIMEOUT` (R40): 12,800 beats without a response fail the attempt; the 64th failure is a training failure
of the port. -/
def execBeatSyncTimeout (n : Fin 8) (s : State) : Host.Outcome State Fault Refusal :=
  let e : LinkEnd := .tray n
  let l := s.link e
  if l.syncReq == 0 || decide (s.beat (leDie e) < l.syncReq - 1 + 12800) then .next s
  else
    let s1 := s.setLink e { l with syncReq := 0, syncFails := l.syncFails + 1 }
    if l.syncFails + 1 == 64 then .next ((s1.setLink e { s1.link e with syncFails := 0 }).linkReturn e 0xB002 true)
    else .next s1

/-- `SYNC_PORT_LOSS` (R44): a follower whose active sync port has left `LIVE` freezes its reference PLL's frequency and
takes the next sync port. -/
def execSyncPortLoss (s : State) : Host.Outcome State Fault Refusal :=
  let a := s.getF cr0 .bal 0 Reg.BAL_REF_ACTIVE_PORT
  if s.isFollower && s.isF cr0 .bal 0 Reg.BAL_REF_PORT_VALID && s.lst (.tray (Fin.ofNat 8 a)) != stLive then
    .next { s with sync := { s.sync with frozen := true } }.pickSyncPort
  else .next s

/-- `SYNC_HOLDOVER_EXPIRY` (R44): one turn after the last sync port went, `SYNC_LOST`. -/
def execSyncHoldoverExpiry (s : State) : Host.Outcome State Fault Refusal :=
  if s.isFollower && s.sync.noPort != 0 && decide (s.sync.noPort - 1 + turnBeats ≤ s.time) then
    .next { s with sync := { s.sync with noPort := 0 } }.syncLost
  else .next s

/-- The map that CR0, which runs the servo, makes of its offset for the next turn boundary, at `b`: an offset of up to 10 µs changes
the rate by at most 1,000 units (which change, the spec leaves to the servo: log entry 15, DESIGN CHOICE), a larger one steps
the anchor (R46). -/
def State.servoMap (s : State) (b : Nat) : Nat × Nat × Nat :=
  let m := s.cr0Map
  let off := s.sync.offset
  if off.natAbs ≤ 10000 then
    (b, taiAt m b, unsigned 32 (signed 32 m.2.2 + max (-1000) (min 1000 (Config.servoStep off))))
  else (b, ((taiAt m b : Int) - off).toNat, m.2.2)

/-- `SERVO_MAP_UPDATE` (R46, R47): at a turn boundary the CR0 that runs the servo takes the map it made in the turn that ends, as every
other die does; with a new offset measured, it makes the next one, which it sends during this turn
(log entry 133, DEDUCED). -/
def execServoMapUpdate (s : State) : Host.Outcome State Fault Refusal :=
  if s.atTurn cr0 && s.isF cr0 .bal 0 Reg.BAL_STATUS_IS_MASTER then
    let s1 := match s.sync.next with
      | some m => { s.setCr0Map m with sync := { s.sync with next := none } }
      | none => s
    .next (if s1.sync.sample then
        { s1 with sync := { s1.sync with next := some (s1.servoMap (s.beat cr0 + turnBeats)), epoch := (s1.sync.epoch + 1) % 4,
                                         sample := false } }
      else s1)
  else .next s

/-- `TAI_MAP_SEND` (R47): the two containers of the map in effect from the next turn boundary on are queued on a link end, with one
EPOCH; a follower's CR0 passes on the map it holds (log entry 11, DEDUCED). -/
def execTaiMapSend (e : LinkEnd) (s : State) : Host.Outcome State Fault Refusal :=
  let x := s.die cr0
  let held := match x.map0, x.map1 with
    | some (ab, rate, e0), some (at_, e1, v, h) => if e0 == e1 then some (ab, at_, rate, v, h) else none
    | _, _ => none
  let own := s.sync.next.getD s.cr0Map
  let (ab, at_, rate, v, h) := held.getD (own.1, own.2.1, own.2.2, s.isF cr0 .bal 0 Reg.BAL_STATUS_TAI_VALID,
    s.isF cr0 .bal 0 Reg.BAL_STATUS_HOLDOVER)
  let ep := match held, x.map0 with
    | some _, some m => m.2.2
    | _, _ => s.sync.epoch
  .next ((s.sbSend e 0x1A (ab % 2 ^ 64 * 2 ^ 6 + rate % 2 ^ 32 * 2 ^ 70 + ep % 4 * 2 ^ 102)).sbSend e 0x1B
    (at_ % 2 ^ 64 * 2 ^ 6 + ep % 4 * 2 ^ 70 + b2n v * 2 ^ 72 + b2n h * 2 ^ 73))

/-- `TAI_MAP_APPLY` (R47, R48, R148): at a turn boundary a die takes the map it holds whole, with its two flags. -/
def execTaiMapApply (d : Die) (s : State) : Host.Outcome State Fault Refusal :=
  let x := s.die d
  match x.map0, x.map1 with
  | some (ab, rate, e0), some (at_, e1, v, h) =>
    if s.atTurn d && e0 == e1 then
      let s1 := s.setDie d { x with map0 := none, map1 := none, tai := (ab, at_, rate) }
      let s2 := if d = cr0 then s1.setCr0Map (ab, at_, rate) else s1
      .next (s2.setTaiFlags d v h)
    else .next s
  | _, _ => .next s

/-- Whether a crossing of a kind is stale at a block instance of a die: 0 the `BEAT` copy of an Ethernet PHY, 1 that of a link
serialiser, 2 a temperature code, 3 a budget value, 4 another timestamp (R54). -/
def State.staleAt (s : State) (d : Die) (kind blk inst : Nat) : Bool :=
  (s.die d).stale.any fun x => x.1 == kind && x.2.1 == blk && x.2.2.1 == inst

/-- A timestamp of a die's block instance carries an invalid mark: its `BEAT` copy, or the timestamp itself, is stale (R54). -/
def State.stampBad (s : State) (d : Die) (b : Blk) (inst : Nat) : Bool :=
  s.staleAt d 0 b.code inst || s.staleAt d 4 b.code inst

/-- A crossing has accepted a value: its record goes (R54) (log entry 134, DEDUCED). -/
def State.crossed (s : State) (d : Die) (kind blk inst : Nat) : State :=
  let x := s.die d
  s.setDie d { x with stale := x.stale.filter fun y => !(y.1 == kind && y.2.1 == blk && y.2.2.1 == inst) }

/-- `CDC_STALE` (R54): a crossing that has accepted nothing for 128 beats is recorded and counted. -/
def execCdcStale (d : Die) (kind : Fin 5) (blk inst : Nat) (s : State) : Host.Outcome State Fault Refusal :=
  let x := s.die d
  let s1 := if s.staleAt d kind.val blk inst then s
    else s.setDie d { x with stale := x.stale ++ [(kind.val, blk, inst, s.time)] }
  let s2 := (s1.setF d .bal 0 Reg.BAL_STATUS_CDC_STALE 1).bumpF d .bal 0 Reg.BAL_CDC_STALE_COUNT
  let s3 := ((s2.setF d .bal 0 Reg.BAL_CDC_LAST_INST inst).setF d .bal 0 Reg.BAL_CDC_LAST_BLOCK blk).setF d .bal 0
    Reg.BAL_CDC_LAST_KIND kind.val
  .next (if kind.val == 2 then s3.setF d .thm 0 Reg.THM_STATUS_STALE 1 else s3)

/-- The frame N of R55, for a partner that answers at the boundary of frame F: the first that begins at least L + 512
beats after it. -/
def ptrFrameOf (f l : Nat) : Nat := f + ceilDiv (l + 512) frameBeats

/-- `POINTER_SET` (R55, R149): at the boundary of frame N the read pointer is set; an end in `PIN` with its depths set goes
to `SYNC`. -/
def execPointerSet (e : LinkEnd) (s : State) : Host.Outcome State Fault Refusal :=
  let l := s.link e
  let d := leDie e
  if l.ptrFrame != 0 && !l.ptrSet && s.atFrame d && s.frame d % 2 ^ 32 == (l.ptrFrame - 1) % 2 ^ 32 then
    let s1 := s.setLink e { l with ptrSet := true, ptrReqAt := 0 }
    if s.lst e == stPin && l.pinned then .next (s1.toSt e stSync) else .next s1
  else .next s

/-- `PTR_HANDSHAKE_TIMEOUT` (R56, R149): one turn after its request a handshake not complete returns the link. -/
def execPtrHandshakeTimeout (e : LinkEnd) (s : State) : Host.Outcome State Fault Refusal :=
  let l := s.link e
  if l.ptrReqAt != 0 && !l.ptrSet && decide (l.ptrReqAt - 1 + turnBeats ≤ s.time) then
    .next ((s.setLink e { l with ptrReqAt := 0 }).linkReturn e 0x3009 true)
  else .next s

end Sys2Proof.Machine
end

