-- ==== Sys2Proof/Machine/Train.lean ====
section
/-! DEFINITION. Link training: calibration and its tap search, the start lane test, lane maps, pinning and the frame
markers (R57, R72, R90 to R103, R123 to R126, R149). -/

namespace Sys2Proof.Machine

/-! ### The tap search (R92 to R95, R102) -/

/-- What a step of a search sweeps: 0 threshold, 1 delay, 2 delay for each CTLE setting, 3 DFE tap 1, 4 DFE tap 2, 5
CTLE; with its number of points. -/
def searchPlan (fp seeded : Bool) : List (Nat × Nat) :=
  if seeded then (if fp then [(1, 17), (0, 17)] else [(1, 17), (0, 17), (5, 3), (3, 5), (4, 5)])
  else if fp then [(0, 32), (1, 64), (0, 32)]
  else [(0, 64), (2, 512), (3, 32), (4, 32), (1, 64), (0, 64)]

/-- Threshold steps of a lane (R77). -/
def threshSteps (fp : Bool) : Nat := if fp then 32 else 64

/-- The floors of R95: width and height. -/
def eyeFloors (fp : Bool) : Nat × Nat := if fp then (12, 6) else (10, 8)

/-- Length of the run of passing points that begins a list. -/
def headRun : List Bool → Nat
  | true :: t => 1 + headRun t
  | _ => 0

/-- The longest run of passing points, as its first step and its length; the lower of two equal ones (R92). -/
def longestRun : Nat → List Bool → Nat × Nat
  | _, [] => (0, 0)
  | i, b :: t =>
    let n := headRun (b :: t)
    let r := longestRun (i + 1) t
    if n ≠ 0 ∧ r.2 ≤ n then (i, n) else r

/-- The run of passing points that contains step `c`: its first step and its length, zero when `c` does not pass. -/
def runAt (l : List Bool) (c : Nat) : Nat × Nat :=
  if !(l.getD c false) then (c, 0)
  else
    let back := headRun ((l.take (c + 1)).reverse)
    let fwd := headRun (l.drop c)
    (c + 1 - back, back + fwd - 1)

/-- The centre of a run from step `a` of length `n` (R92): ⌊(a + b) ÷ 2⌋. -/
def runCentre (a n : Nat) : Nat := (a + (a + n - 1)) / 2

/-- Results of a lane over the points of a finished step, in order. -/
def lanePasses (h : List (Nat × Nat)) (c : Nat) : List Bool := h.reverse.map fun p => bit p.1 c

/-- Points of a finished step that a lane skipped, in order. -/
def laneSkips (h : List (Nat × Nat)) (c : Nat) : List Bool := h.reverse.map fun p => bit p.2 c

/-- Whether a lane of a bundle is calibrated and tested: all but a jewel the fused map marks unusable (R89, R91). -/
def State.laneUsed (s : State) (e : LinkEnd) (b c : Nat) : Bool :=
  let m := s.fuseMap e b
  !((c == nMain e && m.bad0) || (c == nMain e + 1 && m.bad1))

/-- Byte offset of a lane's `COEF` and `EYE` words. -/
def laneOff (e : LinkEnd) (b c : Nat) : Nat := if isTray e then 8 * c else bOff b + 8 * c

/-- A tap of a lane of an Ikiper link. -/
def State.tap (s : State) (e : LinkEnd) (b c : Nat) (f : Fld) : Nat := s.getF (leDie e) .ikl (leInst e) f (laneOff e b c)

/-- Put a tap of a lane of an Ikiper link. -/
def State.setTap (s : State) (e : LinkEnd) (b c : Nat) (f : Fld) (v : Nat) : State :=
  s.setF (leDie e) .ikl (leInst e) f v (laneOff e b c)

/-- Put the eye of a lane: its width when `w`, else its height, saturated (R94). -/
def State.setEye (s : State) (e : LinkEnd) (b c : Nat) (w : Bool) (n : Nat) : State :=
  if w then s.setTap e b c Reg.IKL_EYE_EYE_W (min n 32)
  else s.setTap e b c Reg.IKL_EYE_EYE_H (min n (if isFp e then 32 else 64))

/-- End a step of the full search for one lane: the tap goes to the centre of the longest passing run, and the eye is the
run that holds it (R92 to R94). A lane with no passing point keeps its tap, and its eye is zero. Step 2 on SP, whose rule sets CTLE
alone, leaves DELAY at the centre of the run of the CTLE kept (log entry 136, DESIGN CHOICE). -/
def State.endFull (s : State) (e : LinkEnd) (b : Nat) (kind : Nat) (h : List (Nat × Nat)) (c : Nat) : State :=
  let l := lanePasses h c
  match kind with
  | 2 =>
    let per := (List.range 8).map fun g => longestRun 0 ((l.drop (64 * g)).take 64)
    let best := (List.range 8).foldl (fun k g => if (per.getD k (0, 0)).2 < (per.getD g (0, 0)).2 then g else k) 0
    let r := per.getD best (0, 0)
    let s1 := s.setTap e b c Reg.IKL_COEF_CTLE best
    (if r.2 == 0 then s1 else s1.setTap e b c Reg.IKL_COEF_DELAY (runCentre r.1 r.2)).setEye e b c true r.2
  | 1 =>
    let r := longestRun 0 l
    (if r.2 == 0 then s else s.setTap e b c Reg.IKL_COEF_DELAY (runCentre r.1 r.2)).setEye e b c true r.2
  | 0 =>
    let r := longestRun 0 l
    (if r.2 == 0 then s else s.setTap e b c Reg.IKL_COEF_THRESH (runCentre r.1 r.2)).setEye e b c false r.2
  | 3 => let r := longestRun 0 l; if r.2 == 0 then s else s.setTap e b c Reg.IKL_COEF_DFE1 (runCentre r.1 r.2)
  | _ => let r := longestRun 0 l; if r.2 == 0 then s else s.setTap e b c Reg.IKL_COEF_DFE2 (runCentre r.1 r.2)

/-- The value the points of a seed sweep start from and the range of the tap: kind, seed. -/
def seedRange (fp : Bool) (kind : Nat) : Nat × Nat :=
  match kind with
  | 1 => (8, 64) | 0 => (8, threshSteps fp) | 5 => (1, 8) | _ => (2, 32)

/-- The tap a step of the search moves. -/
def tapOf (kind : Nat) : Fld :=
  match kind with
  | 0 => Reg.IKL_COEF_THRESH | 3 => Reg.IKL_COEF_DFE1 | 4 => Reg.IKL_COEF_DFE2 | 5 => Reg.IKL_COEF_CTLE
  | _ => Reg.IKL_COEF_DELAY

/-- Lanes whose point `i` of a seed step would fall outside the tap's range (R102). -/
def State.seedSkips (s : State) (e : LinkEnd) (b kind i : Nat) : Nat :=
  let r := seedRange (isFp e) kind
  (List.range 21).foldl (fun m c =>
    let v := s.tap e b c (tapOf kind) + i
    if v < r.1 || decide (r.2 + r.1 ≤ v) then setBit m c else m) 0

/-- End a step of the seed check for one lane (R102): whether the lane still keeps its seed, with its eye shown. A run that ends
where the tap's range ends, the points beyond being skipped, reaches the window's edge, and that end is no edge the sweep
finds (log entry 137, DESIGN CHOICE). `recentre` moves the tap to the centre of its passing run, as the run-time
recalibration does (R114). -/
def State.endSeed (s : State) (e : LinkEnd) (b kind : Nat) (h : List (Nat × Nat)) (recentre : Bool) (c : Nat) : Bool × State :=
  let l := lanePasses h c
  let sk := laneSkips h c
  let r := seedRange (isFp e) kind
  let l1 := (l.zip sk).map fun p => p.1 && !p.2
  let run := runAt l1 r.1
  let centred (t : State) : State := if recentre && run.2 != 0 then
    t.setTap e b c (tapOf kind) (s.tap e b c (tapOf kind) + runCentre run.1 run.2 - r.1) else t
  if kind == 0 || kind == 1 then
    let lo := headRun sk
    let hi := 16 - headRun sk.reverse
    let floor := if kind == 1 then (eyeFloors (isFp e)).1 else (eyeFloors (isFp e)).2
    let lowOpen := run.1 == lo
    let highOpen := run.1 + run.2 == hi + 1
    let ok := decide (floor ≤ run.2) && (lowOpen || decide (run.1 + 3 ≤ r.1)) && (highOpen || decide (r.1 + 4 ≤ run.1 + run.2))
    let opened := run.2 != 0 && (lowOpen || highOpen)
    let lb := opened || (kind == 0 && s.tap e b c Reg.IKL_EYE_LB == 1)
    (ok, centred ((s.setEye e b c (kind == 1) run.2).setTap e b c Reg.IKL_EYE_LB (b2n lb)))
  else ((l.zip sk).all (fun p => p.1 || p.2), centred s)

/-- Frames of one dwell (R92). -/
def State.dwellFrames (s : State) (e : LinkEnd) : Nat :=
  if s.getF (leDie e) .ikl (leInst e) Reg.IKL_CAL_CTL_EXPERT == 1
  then 2 ^ s.getF (leDie e) .ikl (leInst e) Reg.IKL_CAL_CTL_DWELL else 8

/-- Begin the full search of a bundle: taps at nominal, nothing valid yet (R93). -/
def State.beginFull (s : State) (e : LinkEnd) (b : Nat) (fell : Bool) : State :=
  let s1 := (List.range 21).foldl (fun t c =>
    ((((((t.setTap e b c Reg.IKL_COEF_DELAY 32).setTap e b c Reg.IKL_COEF_THRESH (threshSteps (isFp e) / 2)).setTap e b c
      Reg.IKL_COEF_CTLE 0).setTap e b c Reg.IKL_COEF_DFE1 0).setTap e b c Reg.IKL_COEF_DFE2 0).setTap e b c
      Reg.IKL_COEF_VALID 0).setTap e b c Reg.IKL_EYE_LB 0) s
  s1.setBun e b { s1.bun e b with search := { mode := 1, at_ := s.time, fell := fell }, tested := false,
                                   testBad := 0, testAt := 0 }

/-- Whether a seed record is rejected (R101): its CRC, its revision, or a needed lane without valid taps. -/
def State.seedBad (s : State) (e : LinkEnd) (b : Nat) (r : SeedRec) : Bool :=
  !r.crcOk || r.rev != s.getF cr0 .cfg 0 Reg.CFG_VARIANT_SILICON_REV ||
    (List.range 21).any fun c => s.laneUsed e b c && !bit (r.coef.getD c 0) 31

/-- Put the taps of a seed record (R100). -/
def State.putSeed (s : State) (e : LinkEnd) (b : Nat) (r : SeedRec) : State :=
  (List.range 21).foldl (fun t c =>
    let w := r.coef.getD c 0
    ((((t.setTap e b c Reg.IKL_COEF_DELAY (bitsOf w 0 6)).setTap e b c Reg.IKL_COEF_THRESH (bitsOf w 6 6)).setTap e b c
      Reg.IKL_COEF_CTLE (bitsOf w 12 3)).setTap e b c Reg.IKL_COEF_DFE1 (bitsOf w 15 5)).setTap e b c Reg.IKL_COEF_DFE2
      (bitsOf w 20 5)) s

/-- Begin the calibration of a bundle: from the taps in use at a retrain, from a seed record the receiver owns, or by a
full search; a rejected record logs RC 0x3006 (R100, R101, R150). -/
def State.beginCal (s : State) (e : LinkEnd) (b : Nat) : State :=
  let seeded := fun (t : State) => t.setBun e b { t.bun e b with search := { mode := 2, at_ := s.time, seeded := true },
                                                                  tested := false, testBad := 0, testAt := 0 }
  if isTray e then s.setBun e b { s.bun e b with search := { mode := 1, at_ := s.time }, tested := false, testBad := 0, testAt := 0 }
  else if s.getF (leDie e) .ikl (leInst e) Reg.IKL_CAL_CTL_PROFILE == 1 then s.beginFull e b false
  else if (s.link e).calibrated then seeded s
  else
    let mine := s.seeds.filter fun r => r.ident == (List.range 4).map (fun i => s.dieId (leDie e) / 2 ^ (32 * i) % 2 ^ 32) && r.slot == leInst e && r.die == dieCode (leDie e) &&
      r.bundle == b
    match mine.getLast? with
    | none => s.beginFull e b false
    | some r => if s.seedBad e b r then (s.logLink e 0x3006).beginFull e b false else seeded (s.putSeed e b r)

/-- An SP end's impedance calibration measures its die's `ZREF` (R90, R485): what it finds is left free. -/
def State.measureZref (s : State) (e : LinkEnd) : State :=
  if isTray e || isFp e then s
  else let (v, t) := s.draw 1; t.setF (leDie e) .cfg 0 Reg.CFG_PAD_STATUS_ZREF_BAD v

/-- Enter `CALIB` (R149): CK starts, every bundle not retired begins its calibration, and the last one is complete no more. -/
def State.enterCalib (s : State) (e : LinkEnd) : State :=
  let s0 := if isTray e then s else s.setF (leDie e) .ikl (leInst e) Reg.IKL_CAL_STATUS_DONE 0
  let s1 := ((s0.measureZref e).setLink e
    { s0.link e with calAt := s.time, testDone := false, gotDone := false, jointFree := false }).toSt e stCalib
  (s1.live e).foldl (fun t b => t.beginCal e b) s1

/-- An FP end at the release of its joint reset (R57, R81): from `RESET` it goes to `CALIB`, or waits there, released, until its
calibration is enabled. -/
def State.fpFree (s : State) (e : LinkEnd) : State :=
  if s.lst e != stReset then s
  else if s.enabled .cal (leDie e) (leInst e) then s.enterCalib e
  else s.setLink e { s.link e with jointFree := true }

/-- `FP_JOINT_RESET_RELEASE` (R57, R81): after at least two frames CR0 releases the line at a frame boundary, and both ends leave
reset on that beat. -/
def execFpJointResetRelease (f : Fin 4) (s : State) : Host.Outcome State Fault Refusal :=
  let x := s.fpLine f.val
  if x.asserted && decide (x.since + 2 * frameBeats ≤ s.time) && s.atFrame cr0 then
    let s1 := { s with fpLines := Tab.set {} s.fpLines f.val { x with asserted := false } }
    .next ((s1.fpFree (fpA f)).fpFree (fpB f))
  else .next s

/-- `RESET_RETRY` (R149, R81): an end in `RESET` goes to `CALIB` once calibration is enabled and its reset is released: on FP by a
release of the joint reset since it entered `RESET`; on SP its own, and at least 16 turns after a return without partner. -/
def execResetRetry (e : LinkEnd) (s : State) : Host.Outcome State Fault Refusal :=
  let l := s.link e
  let free := if isFp e then l.jointFree && !(s.fpLine (linkCode e)).asserted
    else l.noPartner == 0 || decide (l.noPartner - 1 + 16 * turnBeats ≤ s.time)
  if !isTray e && s.lst e == stReset && s.enabled .cal (leDie e) (leInst e) && free then .next (s.enterCalib e)
  else .next s

/-- Lanes whose eye is below a floor, as a mask (R95). -/
def State.floorFails (s : State) (e : LinkEnd) (b : Nat) : Nat :=
  let f := eyeFloors (isFp e)
  (List.range 21).foldl (fun m c =>
    if s.laneUsed e b c && (decide (s.tap e b c Reg.IKL_EYE_EYE_W < f.1) || decide (s.tap e b c Reg.IKL_EYE_EYE_H < f.2))
    then setBit m c else m) 0

/-- Show the smallest eye of the lanes in service (`EYE_SUM`). -/
def State.eyeSummary (s : State) (e : LinkEnd) (b : Nat) : State :=
  let out := s.getF (leDie e) .ikl (leInst e) Reg.IKL_BADMASK_BAD (bOff b)
  let ls := (List.range 21).filter fun c => s.laneUsed e b c && !bit out c
  let w := fun c => s.tap e b c Reg.IKL_EYE_EYE_W
  let worst := ls.foldl (fun a c => if w c < w a then c else a) (ls.headD 0)
  let minH := ls.foldl (fun a c => min a (s.tap e b c Reg.IKL_EYE_EYE_H)) 64
  let i := leInst e; let d := leDie e
  ((s.setF d .ikl i Reg.IKL_EYE_SUM_MIN_W (w worst) (bOff b)).setF d .ikl i Reg.IKL_EYE_SUM_MIN_H minH (bOff b)).setF d .ikl i
    Reg.IKL_EYE_SUM_WORST worst (bOff b)

/-- A bundle's search is over: its taps are valid, and lanes below the floors log RC 0x3005 (R95). -/
def State.searchDone (s : State) (e : LinkEnd) (b : Nat) (x : SearchSt) : State :=
  let fails := s.floorFails e b
  let s1 := (List.range 21).foldl (fun t c =>
    if t.laneUsed e b c then
      let t1 := (t.setTap e b c Reg.IKL_COEF_VALID 1).setTap e b c Reg.IKL_EYE_FLOOR_FAIL (b2n (bit fails c))
      if bit fails c then t1.logLink e 0x3005 else t1
    else t) s
  (s1.eyeSummary e b).setBun e b { s1.bun e b with search := { x with mode := 3, hist := [] } }

/-- `CAL_STATUS.MODE` (R103). -/
def State.calMode (s : State) (e : LinkEnd) : Nat :=
  let xs := (s.live e).map fun b => (s.bun e b).search
  if xs.any (·.fell) then 2 else if xs.all (·.seeded) then 1 else 0

/-- The lane tests of the bundles that are searched and not tested begin (R96). -/
def State.startTests (s : State) (e : LinkEnd) : State :=
  (s.live e).foldl (fun (t : State) b =>
    let x := t.bun e b
    if x.search.mode == 3 && !x.tested && x.testAt == 0 then t.setBun e b { x with testAt := s.time + 1 } else t) s

/-- When every bundle not retired is searched, `CALIB` becomes `LANETEST`; there the test of a bundle searched again begins anew
(R103, R149). -/
def State.afterSearch (s : State) (e : LinkEnd) : State :=
  let all := (s.live e).all fun b => (s.bun e b).search.mode == 3
  let s1 := if all && !isTray e then s.setF (leDie e) .ikl (leInst e) Reg.IKL_CAL_STATUS_MODE (s.calMode e) else s
  let s2 := if all && s.lst e == stCalib && s.live e != [] then s1.toSt e stLanetest else s1
  if s2.lst e == stLanetest then s2.startTests e else s2

/-- The logical lane that a physical lane carries: a jewel carries its target; none for a replaced lane or a free jewel. -/
def logicalLane (e : LinkEnd) (m : LaneMap) (c : Nat) : Option Nat :=
  if c == nMain e then (if m.t0 < nMain e then some m.t0 else none)
  else if c == nMain e + 1 then (if m.t1 < nMain e then some m.t1 else none)
  else if c == m.t0 || c == m.t1 then none else some c

/-- The code with which a lane sends the pattern of R91: its own in training, that of the lane it carries in service (R63, R64). -/
def State.laneCode (s : State) (e : LinkEnd) (b c : Nat) : Nat :=
  if decide (stPin ≤ s.lst e) then (logicalLane e (s.rxMap e b) c).getD c else c

/-- The lanes of a bundle that a search sets: those calibrated, in a recalibration those in service. -/
def State.calLanes (s : State) (e : LinkEnd) (b : Nat) : List Nat :=
  let out := if s.calOut e b then s.getF (leDie e) .ikl (leInst e) Reg.IKL_BADMASK_BAD (bOff b) else 0
  (List.range 21).filter fun c => s.laneUsed e b c && !bit out c

/-- The mode of a link end's physical layer (R86): 0 mission, 1 near-end loopback, 2 compliance, 3 clock only. -/
def State.linkMode (s : State) (e : LinkEnd) : Nat :=
  let g (f : Fld) : Nat := s.getF (leDie e) .ikl (leInst e) f
  if isTray e then 0 else if g Reg.IKL_PHY_CTL_EXPERT == 1 then g Reg.IKL_PHY_CTL_MODE else g Reg.IKL_PHY_CTL_PROFILE

/-- A window count of a lane goes up by `n` (R105, R197). -/
def State.addWin (s : State) (e : LinkEnd) (b c n : Nat) : State :=
  if isTray e then s.addF (leDie e) .trayPort (leInst e) Reg.TRYP_EYE_WIN_ERR n (8 * c)
  else s.addF (leDie e) .ikl (leInst e) Reg.IKL_EYE_WIN_ERR n (laneOff e b c)

/-- A window count of a lane. -/
def State.winErr (s : State) (e : LinkEnd) (b c : Nat) : Nat :=
  if isTray e then s.getF (leDie e) .trayPort (leInst e) Reg.TRYP_EYE_WIN_ERR (8 * c)
  else s.getF (leDie e) .ikl (leInst e) Reg.IKL_EYE_WIN_ERR (laneOff e b c)

/-- In compliance mode the error counter of every lane counts the bits received wrong (R86). -/
def State.compliance (s : State) (e : LinkEnd) (b : Nat) (bits : List (List Bool)) : State :=
  if s.linkMode e == 2 then
    (List.range 21).foldl (fun (t : State) c => t.addWin e b c (errCount (laneErrs false false c (bits.getD c [])))) s
  else s

/-- The width of a lane's eye at its final threshold, from the delay steps that pass there, as a mask (R94)
(log entry 6, DESIGN CHOICE). -/
def State.finalWidth (s : State) (e : LinkEnd) (b : Nat) (eyes : List Nat) (c : Nat) : State :=
  s.setEye e b c true (runAt ((List.range 64).map (bit (eyes.getD c 0))) (s.tap e b c Reg.IKL_COEF_DELAY)).2

/-- Lanes below the floors show it and log RC 0x3005 (R95, R115). -/
def State.showFloors (s : State) (e : LinkEnd) (b : Nat) : State :=
  let fails := s.floorFails e b
  (s.calLanes e b).foldl (fun (t : State) c =>
    let t1 := t.setTap e b c Reg.IKL_EYE_FLOOR_FAIL (b2n (bit fails c))
    if bit fails c then t1.logLink e 0x3005 else t1) s

/-- The end of one point of the search of an Ikiper bundle: the bits each lane received in its dwell, and the delay steps that pass
at the final threshold, which count when the last step ends. -/
def State.pointEnd (s : State) (e : LinkEnd) (b : Nat) (bits : List (List Bool)) (eyes : List Nat) : State :=
  let x := (s.bun e b).search
  let fp := isFp e
  let recal := s.calOut e b
  let plan := searchPlan fp (x.mode == 2)
  let (kind, n) := plan.getD x.step (0, 0)
  let skip := if x.mode == 2 then s.seedSkips e b kind x.point else 0
  let bad := errMask false recal 21 (s.laneCode e b) bits
  let pass := (List.range 21).foldl (fun m c => if bit bad c then m else setBit m c) 0
  let x1 := { x with hist := (pass, skip) :: x.hist, point := x.point + 1, at_ := s.time }
  if x1.point < n then s.setBun e b { s.bun e b with search := x1 }
  else
    let lanes := s.calLanes e b
    let (lost, s1) := if x.mode == 1 then (0, lanes.foldl (fun t c => t.endFull e b kind x1.hist c) s)
      else lanes.foldl (fun (m, t) c => let r := t.endSeed e b kind x1.hist recal c; (if r.1 then m else setBit m c, r.2))
        (x.bad, s)
    let x2 := { x1 with step := x.step + 1, point := 0, hist := [], bad := lost }
    if x2.step < plan.length then s1.setBun e b { s1.bun e b with search := x2 }
    else if recal then
      let s2 := (s1.showFloors e b).eyeSummary e b
      s2.setBun e b { s2.bun e b with search := { x2 with mode := 3 }, recalBad := s2.floorFails e b }
    else
      let s2 := if x.mode == 1 then lanes.foldl (fun t c => t.finalWidth e b eyes c) s1 else s1
      if lost == 0 then (s2.searchDone e b x2).afterSearch e
      else (s2.logLink e 0x3006).beginFull e b true

/-- The end of a tray port's adaptation, with each lane's taps and signal-to-noise ratio in 0.1 dB (R196); a TLS fused unusable is
not calibrated (R89, R195). -/
def State.trayCal (s : State) (e : LinkEnd) (taps snr : List Nat) : State :=
  let d := leDie e; let i := leInst e
  let s1 := ((List.range 9).filter (s.laneUsed e 0)).foldl (fun t c =>
    let w := taps.getD c 0
    let q := snr.getD c 0
    let t1 := (((t.setF d .trayPort i Reg.TRYP_COEF_TXPRE (bitsOf w 0 4) (8 * c)).setF d .trayPort i Reg.TRYP_COEF_TXPOST
      (bitsOf w 4 4) (8 * c)).setF d .trayPort i Reg.TRYP_COEF_CTLE (bitsOf w 8 4) (8 * c)).setF d .trayPort i
      Reg.TRYP_COEF_VALID 1 (8 * c)
    let t2 := (t1.setF d .trayPort i Reg.TRYP_EYE_SNR q (8 * c)).setF d .trayPort i Reg.TRYP_EYE_FLOOR_FAIL
      (b2n (decide (q < 175))) (8 * c)
    if q < 175 then t2.logLink e 0x3005 else t2) s
  (s1.setBun e 0 { s1.bun e 0 with search := { (s1.bun e 0).search with mode := 3 } }).afterSearch e

/-- `SEARCH_POINT_END` (R86, R91 to R95, R102, R114, R196): the dwell of one point ends with the bits that each lane received in it,
which the lane's checker judges; the end of a tray port's adaptation brings the taps and ratios it found. -/
def execSearchPointEnd (e : LinkEnd) (b : Fin 16) (bits : List (List Bool)) (eyes taps snr : List Nat) (s : State) :
    Host.Outcome State Fault Refusal :=
  let x := (s.bun e b).search
  let st := s.lst e
  if x.mode == 0 || x.mode == 3 || !(st == stCalib || st == stLanetest || s.calOut e b) then .next s
  else if isTray e then .next (s.trayCal e taps snr)
  else if x.at_ + (if s.calOut e b then 8 else s.dwellFrames e) * frameBeats ≤ s.time then
    .next ((s.compliance e b bits).pointEnd e b bits eyes)
  else .next s

/-! ### The start lane test and the lane map (R96 to R98) -/

/-- Turns of the lane test of a bundle (R96, R196): one after a seeded calibration, eight after a full search. -/
def State.testTurns (s : State) (e : LinkEnd) (b : Nat) : Nat :=
  if isTray e then 1
  else
    let x := (s.bun e b).search
    let ex := s.getF (leDie e) .ikl (leInst e) Reg.IKL_CAL_CTL_EXPERT == 1
    if x.seeded && !x.fell then (if ex then s.getF (leDie e) .ikl (leInst e) Reg.IKL_CAL_CTL_LT_SEEDED else 1)
    else (if ex then s.getF (leDie e) .ikl (leInst e) Reg.IKL_CAL_CTL_LT_FULL else 8)

/-- Lanes of a bundle that failed its floor, whatever the link. -/
def State.floorMask (s : State) (e : LinkEnd) (b : Nat) : Nat :=
  if isTray e then (List.range 9).foldl (fun m c =>
    if s.getF (leDie e) .trayPort (leInst e) Reg.TRYP_EYE_FLOOR_FAIL (8 * c) == 1 then setBit m c else m) 0
  else s.floorFails e b

/-- The lanes that fail a lane test by the bits they received: an Ikiper lane by any error, a tray lane by a symbol error ratio
above 10⁻⁵ (R96, R196). -/
def State.testFails (s : State) (e : LinkEnd) (b : Nat) (bits : List (List Bool)) : Nat :=
  if isTray e then
    (List.range 9).foldl (fun m c =>
      let errs := symErrCount (laneErrs true false c (bits.getD c []))
      if (bits.getD c []).length / 2 < 100000 * errs then setBit m c else m) 0
  else errMask false false 21 (s.laneCode e b) bits

/-- One bundle's lane test ends: a seeded bundle with a failure searches in full and is tested again (R103). -/
def State.testEnd (s : State) (e : LinkEnd) (b mask : Nat) : State :=
  let x := s.bun e b
  let used := (List.range (nLanes e)).foldl (fun m c => if s.laneUsed e b c then setBit m c else m) 0
  let bad := Nat.land (Nat.lor mask (s.floorMask e b)) used
  if x.search.seeded && bad != 0 && !isTray e then (s.logLink e 0x3006).beginFull e b true
  else s.setBun e b { x with testBad := bad, tested := true }

/-- `LANETEST_END` (R86, R91, R96, R103, R196): the test of every bundle that has run its length ends, with the bits that each of its
lanes received; when every bundle has passed its test, the end sets DONE. -/
def execLanetestEnd (e : LinkEnd) (bits : List (List (List Bool))) (s : State) : Host.Outcome State Fault Refusal :=
  if s.lst e == stLanetest && !(s.link e).testDone then
    let due (b : Nat) : Bool :=
      let x := s.bun e b
      x.search.mode == 3 && !x.tested && x.testAt != 0 && decide (x.testAt - 1 + s.testTurns e b * turnBeats ≤ s.time)
    let s1 := ((s.live e).filter due).foldl (fun t b =>
      (t.compliance e b (bits.getD b [])).testEnd e b (t.testFails e b (bits.getD b []))) s
    if (s1.live e).all fun b => (s1.bun e b).tested then
      .next (s1.setLink e { s1.link e with testDone := true, testDoneAt := s.time, calibrated := true })
    else .next s1
  else .next s

/-- The body of a lane-map message (R147). -/
def laneMapBody (b : Nat) (m : LaneMap) : Nat :=
  b % 16 * 2 ^ 14 + m.t0 % 32 * 2 ^ 18 + b2n m.bad0 * 2 ^ 23 + m.t1 % 32 * 2 ^ 24 + b2n m.bad1 * 2 ^ 29 + b2n m.retired * 2 ^ 30

/-- The receiver computes the map of a bundle, logs each lane newly out of service, retires a bundle that has too few jewels,
and sends the map to the transmitter (R97, R98). -/
def State.computeMap (s : State) (e : LinkEnd) (b : Nat) : State :=
  let base := s.rxMap e b
  let x := s.bun e b
  let m := laneMapOf e base x.testBad
  let newly := (List.range (nMain e)).filter fun c => bit x.testBad c && c != base.t0 && c != base.t1
  let s1 := newly.foldl (fun t _ => t.logLink e 0x3001) s
  if m.retired then
    let s2 := s1.retireBundle e b 0x3002
    if s2.lst e == stRetired then s2 else s2.sbSend e 0x10 (laneMapBody b m)
  else (s1.setBun e b { s1.bun e b with rxPend := some m, rxApplied := false, txApplied := false }).sbSend e 0x10
    (laneMapBody b m)

/-- `LANETEST_EXIT` (R96, R97, R149): at a frame boundary with its own test complete and DONE received, the maps are
computed and the end enters `DESKEW`; with every bundle retired it is `RETIRED`. -/
def execLanetestExit (e : LinkEnd) (s : State) : Host.Outcome State Fault Refusal :=
  if s.lst e == stLanetest && (s.link e).testDone && (s.link e).gotDone && s.atFrame (leDie e) then
    let bs := s.live e
    let s1 := bs.foldl (fun t b => t.computeMap e b) s
    if s1.live e == [] then .next (if s1.lst e == stRetired then s1 else s1.toSt e stRetired)
    else .next ((if isTray e then s1 else s1.setF (leDie e) .ikl (leInst e) Reg.IKL_CAL_STATUS_DONE 1).toSt e stDeskew)
  else .next s

/-- Enter `PIN`: a probe goes out, and on SP links and tray ports the pointer request at the next frame boundary (R55, R124). -/
def State.enterPin (s : State) (e : LinkEnd) : State :=
  let l := s.link e
  let s1 := (s.toSt e stPin).sbSend e 0x05 (l.probeId % 256 * 2 ^ 6)
  if isFp e then s1
  else s1.setLink e { s1.link e with ptrWant := s.frame (leDie e) + 2, ptrSet := false }

/-- Apply the maps of a bundle that are due at this frame boundary: the own one once its acknowledgement has come, the peer's once
the acknowledgement sent for it has arrived (R98). A bundle that the peer has retired is retired at this end too (R83). -/
def State.applyMaps (s : State) (e : LinkEnd) (b : Nat) : State :=
  let x := s.bun e b
  let s1 := match x.rxPend with
    | some m => if x.mapAcked then
        (s.setRxMap e b { m with retired := m.retired || s.retired e b }).setBun e b
          { x with rxPend := none, rxApplied := true, mapAcked := false }
      else s
    | none => s
  let y := s1.bun e b
  match y.txPend with
  | some m =>
    if y.txAckAt == 0 || decide (s.time < y.txAckAt - 1) then s1
    else
      let s2 := (s1.setTxMap e b { m with retired := m.retired || s1.retired e b }).setBun e b
        { y with txPend := none, txApplied := true, txAckAt := 0 }
      if m.retired && !s1.retired e b then s2.markRetired e b else s2
  | none => s1

/-- `LANEMAP_APPLY` (R98, R149): at a frame boundary both ends apply what has been acknowledged; an end in `DESKEW` with
both directions of every bundle applied enters `PIN`. -/
def execLanemapApply (e : LinkEnd) (s : State) : Host.Outcome State Fault Refusal :=
  if !s.atFrame (leDie e) then .next s
  else
    let s1 := (List.range (nBundles e)).foldl (fun t b => t.applyMaps e b) s
    if s1.lst e == stDeskew && (s1.live e).all fun b => (s1.bun e b).rxApplied && (s1.bun e b).txApplied then
      .next (s1.enterPin e)
    else .next s1

/-! ### Pinning (R123, R124) -/

/-- The depth a bundle needs (R123, R185): L − F_in − F_out − A. -/
def depthFor (e : LinkEnd) (l : Nat) (a : Int) : Int := (l : Int) - finBeats e - foutBeats e - a

/-- Put a bundle's depth (`PIN_DEPTH` shows P − 1). -/
def State.setDepth (s : State) (e : LinkEnd) (b : Nat) (a p : Nat) : State :=
  let s1 := s.setBun e b { s.bun e b with arrival := a, depth := p }
  if isTray e then s1.setF (leDie e) .trayPort (leInst e) Reg.TRYP_PIN_DEPTH_DEPTH0 (p - 1)
  else s1.setF (leDie e) .ikl (leInst e) { Reg.IKL_PIN_DEPTH_DEPTH0 with lo := 4 * (b % 8) } (p - 1) (4 * (b / 8))

/-- Depths set (R123, R124, R149, R185): with the round trip of the lead bundle less HOLD, and how much later each bundle's copy of
the echo came; a bundle that would need less than one beat fails training with RC 0x3004. -/
def State.setPins (s : State) (e : LinkEnd) (rt : Int) (later : Nat → Int) : State :=
  let l := s.latL e
  let a0 : Int := -((2 * (finBeats e : Int) - rt).fdiv 2)
  let bs := s.live e
  let at_ (b : Nat) : Int := a0 + later b
  if bs.any fun b => decide (depthFor e l (at_ b) < 1) then s.linkReturn e 0x3004 true
  else
    let s1 := bs.foldl (fun t b => t.setDepth e b (at_ b).toNat (depthFor e l (at_ b)).toNat) s
    let s2 := s1.setLf e Reg.IKL_PIN_ARRIVAL Reg.TRYP_PIN_ARRIVAL a0.toNat
    let s3 := (if isTray e then s2.setF (leDie e) .trayPort (leInst e) Reg.TRYP_LAT_ARRIVAL (at_ 0).toNat else s2)
    let s4 := s3.setLink e { s3.link e with pinned := true, probeAt := 0, probeId := ((s3.link e).probeId + 1) % 256 }
    if isFp e || (s4.link e).ptrSet then s4.toSt e stSync else s4

/-! ### Entering service (R149, R506) -/

/-- A bundle whose sequences restart at zero with empty replay buffers. -/
def BundleSt.fresh (x : BundleSt) : BundleSt :=
  { x with es := 0, nak := false, drop := false, seq := 0, unacked := [], replayQ := [], nakSeen := 0, txFinal := false,
           rxStop := none, gone := 0 }

/-- The UC state of a link end on its first entry to `LIVE`: sequences, counts and totals are zero. -/
def LinkSt.freshUc (l : LinkSt) (n : Nat) : LinkSt :=
  (List.range n).foldl (fun l b => l.setBundle b { (l.bundle b).fresh with finalEs := 0, finalOk := false })
    { l with passed := [], sent := [], reported := [], requeue := [], rxOpen := [], txOpen := [], msgRun := 0, reqRun := 0,
             returning := false, hold := [], resend := [], naked := [], wait := [], leaving := [] }

/-- The UC state on re-entry after a retrain: sequences restart at zero, the totals carry over, and every flit of the
replay buffers, from the final sequence reported on, is sent again before any new one (R506). -/
def LinkSt.resumeUc (l : LinkSt) (n : Nat) : LinkSt :=
  let again := ((List.range n).map fun b => (l.bundle b).unacked.map (·.flit)).flatten
  (List.range n).foldl (fun l b => l.setBundle b (l.bundle b).fresh)
    { l with requeue := again ++ l.requeue, returning := false, txOpen := [], leaving := [] }

/-- A link end that returns may enter service: the partner has reported the final sequence of every bundle that holds flits
(R506). -/
def LinkSt.resumeReady (l : LinkSt) (n : Nat) : Bool :=
  !l.returning || (List.range n).all fun b => (l.bundle b).unacked == [] || (l.bundle b).txFinal

/-- Enter `LIVE`, or `DEGRADED` with a bundle retired (R149): UC opens; an FP end that returns reports its counts anew (R135); a
follower chooses its active sync port (R41). -/
def State.goLive (s : State) (e : LinkEnd) : State :=
  let l := s.link e
  let l1 := if l.everLive then l.resumeUc (nBundles e) else l.freshUc (nBundles e)
  let s1 := s.setLink e { l1 with everLive := true, backoff := 0, offs := [], offRun := 0, liveAt := s.time + 1, scStop := false }
  let s2 := (s1.setLf e Reg.IKL_LL_STATUS_ATTEMPTS Reg.TRYP_LL_STATUS_ATTEMPTS 0).setLf e Reg.IKL_LL_STATUS_UC_QUIESCE
    Reg.TRYP_LL_STATUS_UC_QUIESCE 0
  let s3 := if isTray e then
      (s2.setF (leDie e) .trayPort (leInst e) Reg.TRYP_RETRY_BACKOFF 0).setF (leDie e) .trayPort (leInst e)
        Reg.TRYP_RETRY_ATTEMPTS 0
    else s2.setF (leDie e) .ikl (leInst e) Reg.IKL_CAL_STATUS_TIME (min ((s.time - l.calAt) / 16384) 4095)
  let s4 := if isFp e && l.everLive then s3.sbSend e 0x02 0 else s3
  let s5 := (s4.toSt e (if (List.range (nBundles e)).any (s4.retired e) then stDegraded else stLive)).bootAdvance
  if isTray e && s5.isFollower then s5.pickSyncPort else s5

/-! ### Frame markers (R72, R125, R126, R179) -/

/-- The lowest bundle of a link that serves as lead for markers. -/
def State.leadBundle (s : State) (e : LinkEnd) : Nat := if isTray e then 0 else (s.live e).headD 0

/-- The check of one marker of the lead bundle in `SYNC` or in service: `off` is how many beats late it was delivered
(log entry 33, DEDUCED). -/
def State.markerCheck (s : State) (e : LinkEnd) (off : Int) : State :=
  let l := s.link e
  if s.lst e == stSync then
    if !s.isF (leDie e) .bal 0 Reg.BAL_STATUS_BEAT_VALID || (isTray e && !l.peerBv) then s
    else
      let offs := off :: l.offs
      if offs.length < 4 then s.setLink e { l with offs := offs }
      else if offs.all (· == 0) then
        if l.resumeReady (nBundles e) then s.goLive e else s.setLink e { l with offs := offs.take 3 }
      else if offs.all (· == off) then
        let bs := s.live e
        let hi : Int := if isTray e then 39322 else 16
        let ok := bs.all fun b => decide (1 ≤ ((s.bun e b).depth : Int) - off ∧ ((s.bun e b).depth : Int) - off ≤ hi)
        let s1 := s.setLink e { l with offs := [] }
        if ok then bs.foldl (fun t b => t.setDepth e b (t.bun e b).arrival (((t.bun e b).depth : Int) - off).toNat) s1 else s1
      else s.setLink e { l with offs := [] }
  else if s.inService e then
    if off == 0 then s.setLink e { l with offRun := 0 }
    else if l.offRun + 1 == 4 then s.linkReturn e 0x3004 true
    else s.setLink e { l with offRun := l.offRun + 1 }
  else s

/-- Show marker lock of a bundle (R72); a tray lane's lock is what its own count says (R179). -/
def State.setLock (s : State) (e : LinkEnd) (u : Nat) (v : Bool) : State :=
  if isTray e then s else s.setF (leDie e) .ikl (leInst e) Reg.IKL_BPHY_MARKER_LOCK (b2n v) (bOff u)

end Sys2Proof.Machine
end

