-- ==== Sys2Proof/Machine/GearTrain.lean ====
section
/-! DEFINITION. The gear train: table ports, marks of slots, transfers, loss sets and the choice of variants
(06_gear_train, R206 to R209). -/

namespace Sys2Proof.Machine

/-! ### Tables (R153 to R157, R212) -/

/-- The table spaces: 0 entries, 1 variant records, 2 cadences, 3 transfers of `GTR`; 4 entries and 5 variant records of
`TRY`. -/
def gtrSpace (e : LinkEnd) (variants : Bool) : Nat := (if isTray e then 4 else 0) + b2n variants

/-- The bank in effect on a die. -/
def State.bank (s : State) (d : Die) : Nat := s.getF d .gtr 0 Reg.GTR_STATUS_ACTIVE_BANK

/-- An entry of the schedule table of a link end (`dir` 0 transmit, 1 receive). -/
def State.entry (s : State) (e : LinkEnd) (bank dir i : Nat) : Nat :=
  s.tbl (gtrSpace e false) (dieCode (leDie e)) bank dir (leInst e) i

/-- A variant record of the table of a link end. -/
def State.varRec (s : State) (e : LinkEnd) (bank dir v : Nat) : Nat :=
  s.tbl (gtrSpace e true) (dieCode (leDie e)) bank dir (leInst e) v

/-- A cadence of a die: period and anchor; cadence 0 is one frame (R155). -/
def State.cadence (s : State) (d : Die) (bank c : Nat) : Nat × Nat :=
  if c == 0 then (1, 0) else let r := s.tbl 2 (dieCode d) bank 0 0 c; (bitsOf r 0 32, bitsOf r 32 32)

/-- A transfer record of a die. -/
def State.transfer (s : State) (d : Die) (bank tag : Nat) : Nat := s.tbl 3 (dieCode d) bank 0 0 tag

/-- A field of an entry: word, lowest bit, width (R154). -/
def eField (r w lo n : Nat) : Nat := bitsOf r (32 * w + lo) n

/-- Owner context, direction, granules and base address of a transfer record (R157). -/
def xferCtx (r : Nat) : Nat := bitsOf r 0 5
def xferDir (r : Nat) : Nat := bitsOf r 5 1
def xferGran (r : Nat) : Nat := bitsOf r 8 24
def xferBase (r : Nat) : Nat := bitsOf r 32 32 + 2 ^ 32 * bitsOf r 64 16

/-! ### Loss sets (R161, R163) -/

/-- The place of a bundle in `GTR.LOSS`. -/
def lossBit (link b : Nat) : Nat := if link < 4 then 16 * link + b else 64 + 2 * (link - 4) + b

/-- The loss set in effect on a die, as the 80 bits of `GTR.LOSS0` to `LOSS2`. -/
def State.lossSet (s : State) (d : Die) : Nat :=
  s.getF d .gtr 0 Reg.GTR_LOSS_LOST 0 + 2 ^ 32 * s.getF d .gtr 0 Reg.GTR_LOSS_LOST 4 +
    2 ^ 64 * s.getF d .gtr 0 Reg.GTR_LOSS_LOST 8

/-- Put the loss set of a die. -/
def State.setLossSet (s : State) (d : Die) (v : Nat) : State :=
  ((s.setF d .gtr 0 Reg.GTR_LOSS_LOST v 0).setF d .gtr 0 Reg.GTR_LOSS_LOST (v / 2 ^ 32) 4).setF d .gtr 0 Reg.GTR_LOSS_LOST
    (v / 2 ^ 64) 8

/-- Bundles of a link in a loss set. -/
def lostOf (set link : Nat) : Nat :=
  ((List.range (if link < 4 then 16 else 2)).filter fun b => bit set (lossBit link b)).length

/-- `LOSSMAX` of a variant record for a link (R161): variant 0 tolerates none. -/
def lossMax (r v link : Nat) : Nat := if v == 0 then 0 else if link < 8 then bitsOf r (32 + 4 * link) 4 else bitsOf r (64 + 4 * (link - 8)) 4

/-- Whether a variant is provided (R153). -/
def provided (r v : Nat) : Bool := v == 0 || bit r 31

/-- The image in hand needs one Crown die only: what hangs on CR1 it does not name, and that stays idle (R30). -/
def State.oneCrown (s : State) : Bool :=
  match s.boot.image with
  | some i => decide (i.crowns < 2)
  | none => false

/-- The image in hand names a die (R30) (log entry 167, DEDUCED). -/
def State.dieNamed (s : State) (d : Die) : Bool := !(s.oneCrown && d == .cr 1)

/-- The image in hand names a link, by its code: those of CR1 are 5, 7, 9 and 11 (R30, R164). -/
def State.linkNamed (s : State) (k : Nat) : Bool := !(s.oneCrown && decide (4 ≤ k) && k % 2 == 1)

/-- The lowest provided variant from 1 that covers a loss set, variant 0 for an empty set, none otherwise (R162). Losses of links
that the image does not name do not count (R30). -/
def State.pickVariant (s : State) (d : Die) (bank set : Nat) : Option Nat :=
  let ks := (List.range 12).filter s.linkNamed
  if !s.dieNamed d || ks.all (fun k => lostOf set k == 0) then some 0
  else ((List.range 8).drop 1).find? fun v =>
    let r := s.tbl 1 (dieCode d) bank 0 0 v
    provided r v && ks.all fun k => decide (lostOf set k ≤ lossMax r v k)

/-- The tray loss set in effect on a Crown die, 128 bits. -/
def State.trayLoss (s : State) (c : Crown) : Nat :=
  (List.range 4).foldl (fun v i => v + 2 ^ (32 * i) * s.getF (.cr c) .tray 0 Reg.TRY_TLOSS_LOST (4 * i)) 0

/-- The cable of a tray port, as its place in the tray loss set: its A end is the end with the lower PKG_ID (R175). -/
def State.cableBit (s : State) (n : Fin 8) : Nat :=
  let e : LinkEnd := .tray n
  let peer := s.lf e Reg.IKL_PHY_CTL_MODE Reg.TRYP_PORT_CTL_PEER_PKG
  let pport := s.lf e Reg.IKL_PHY_CTL_MODE Reg.TRYP_PORT_CTL_PEER_PORT
  if s.pkgId < peer then 8 * s.pkgId + n.val else 8 * peer + pport

/-- Whether a tray-variant record lists a cable (R208, R212). -/
def listsCable (r i : Nat) : Bool :=
  (List.range 4).any fun k => let c := bitsOf r (32 + 8 * k) 8; bit c 0 && bitsOf c 4 4 == i / 8 && bitsOf c 1 3 == i % 8

/-- The lowest tray variant that lists every lost cable (R208), by the records of the die's first port; every port's table carries
the same ones (log entry 138, DESIGN CHOICE). Cables of ports that the image does not name do not count (R30). -/
def State.pickTrayVariant (s : State) (c : Crown) (bank set : Nat) : Option Nat :=
  let idle := ((List.finRange 8).filter fun n => !s.dieNamed (.cr (trayCrown n)) &&
    s.lf (.tray n) Reg.IKL_PHY_CTL_MODE Reg.TRYP_PORT_CTL_PEER_VALID == 1).map s.cableBit
  let lost := (bitsSet set 128).filter fun i => !idle.contains i
  if !s.dieNamed (.cr c) then some 0
  else (List.range 8).find? fun v =>
    let r := s.tbl 5 (4 + c.val) bank 0 0 v
    provided r v && lost.all fun i => listsCable r i

/-! ### What is in effect in a frame -/

/-- What the gear train of a die has in effect now. -/
def State.schedNow (s : State) (d : Die) : SchedPrev :=
  { turn := s.turn d, variant := s.getF d .gtr 0 Reg.GTR_STATUS_VARIANT, bank := s.bank d, loss := s.lossSet d,
    tvariant := match d with
      | .cr _ => s.getF d .tray 0 Reg.TRY_STATUS_TVARIANT
      | .mv _ => 0,
    tloss := match d with
      | .cr c => s.trayLoss c
      | .mv _ => 0 }

/-- What it had in effect in a frame: flits of the frames before the last change come after it (R122, R156). -/
def State.schedAt (s : State) (d : Die) (frame : Nat) : SchedPrev :=
  let p := (s.die d).prev
  if frame / 1024 < p.turn then p else s.schedNow d

/-- Keep what is in effect before its first change in a turn. -/
def State.noteSched (s : State) (d : Die) : State :=
  if (s.die d).prev.turn == s.turn d then s else s.setDie d { s.die d with prev := s.schedNow d }

/-- A hack covers a frame of a link end: every Ikiper link; a tray port when the whole tray is its scope
(R49, R156) (log entry 140, DEDUCED). -/
def State.hackCovers (s : State) (e : LinkEnd) (frame : Nat) : Bool :=
  match s.hack.last with
  | some (f, n, tray) => decide (f ≤ frame ∧ frame < f + n) && (!isTray e || tray)
  | none => false

/-! ### The mark of a slot (R156) -/

/-- What a slot carries. -/
inductive Mark where
  | none | nop | uc | cal | repair
  | sc (tag : Nat)
  deriving DecidableEq, Repr

/-- The variant of a link end's tables. -/
def SchedPrev.variantOf (p : SchedPrev) (e : LinkEnd) : Nat := if isTray e then p.tvariant else p.variant

/-- The bundles of a link that are not in a loss set, ascending (R161) (log entry 8, DEDUCED). -/
def State.notLost (s : State) (p : SchedPrev) (e : LinkEnd) : List Nat :=
  match e with
  | .tray n => if bit p.tloss (s.cableBit n) then [] else [0]
  | .ikl _ _ => (List.range (nBundles e)).filter fun b => !bit p.loss (lossBit (linkCode e) b)

/-- The logical bundles of a link end: its bundles not lost, as many as the variant keeps (R161). -/
def State.logical (s : State) (p : SchedPrev) (e : LinkEnd) : List Nat :=
  if isTray e then s.notLost p e
  else (s.notLost p e).take (nBundles e - lossMax (s.varRec e p.bank 0 p.variant) p.variant (linkCode e))

/-- Whether an entry covers a slot (R154). -/
def covers (r slot : Nat) : Bool :=
  let a := eField r 0 8 10
  let n := eField r 0 18 10
  (List.range (eField r 3 0 4 + 1)).any fun j => decide (a + 64 * j ≤ slot ∧ slot ≤ a + 64 * j + n)

/-- Phase of a cadence in a frame (R155). -/
def phaseOf (cad : Nat × Nat) (frame : Nat) : Nat :=
  (((frame : Int) - cad.2) % (max cad.1 1 : Int)).toNat

/-- Whether an entry is active in a frame (R155). -/
def State.active (s : State) (d : Die) (bank r frame : Nat) : Bool :=
  let ph := phaseOf (s.cadence d bank (eField r 0 4 4)) frame
  decide (eField r 2 0 24 ≤ ph ∧ ph ≤ eField r 2 0 24 + eField r 2 24 8)

/-- The entries of a variant of a table, in order. -/
def State.range (s : State) (e : LinkEnd) (bank dir v : Nat) : List Nat :=
  let r := s.varRec e bank dir v
  if provided r v then (List.range (bitsOf r 16 14)).map fun i => s.entry e bank dir (bitsOf r 0 13 + i) else []

/-- The mark of physical bundle `p` in a slot of a frame (R156). With the gear train disabled no table governs and every slot but a
REPAIR slot is UC (log entry 139, DESIGN CHOICE). -/
def State.markOf (s : State) (e : LinkEnd) (dir p slot frame : Nat) : Mark :=
  let d := leDie e
  let w := s.schedAt d frame
  if s.hackCovers e frame then .none
  else if slot % 64 == 63 then .repair
  else if !s.enabled .gtr d then .uc
  else
    match (s.logical w e).findIdx? (· == p) with
    | Option.none => .uc
    | some i =>
      match (s.range e w.bank dir (w.variantOf e)).find? fun r =>
        covers r slot && bit (eField r 1 0 16) i && s.active d w.bank r frame with
      | Option.none => .uc
      | some r => match eField r 0 0 3 with
        | 0 => .nop
        | 2 => .sc (eField r 1 16 14)
        | 3 => .cal
        | _ => .uc

/-- Covered slots of an entry below `slot`, REPAIR slots left out. -/
def coveredBelow (r slot : Nat) : Nat :=
  let a := eField r 0 8 10
  let n := eField r 0 18 10 + 1
  (List.range (eField r 3 0 4 + 1)).foldl (fun t j =>
    let x := a + 64 * j
    let m := min n (slot - x)
    t + (m - ((x + m) / 64 - x / 64))) 0

/-- SC slots of a transfer in one frame before a slot and logical bundle (R157). -/
def State.scBefore (s : State) (d : Die) (bank : Nat) (rs : List Nat) (frame slot i : Nat) : Nat :=
  rs.foldl (fun t r =>
    if s.active d bank r frame then
      t + coveredBelow r slot * popcount (eField r 1 0 16) 16 + (if covers r slot then popcount (eField r 1 0 16) i else 0)
    else t) 0

/-- The number *k* of an SC slot within its occurrence (R157). -/
def State.scIndex (s : State) (e : LinkEnd) (dir tag p slot frame : Nat) : Nat :=
  let d := leDie e
  let w := s.schedAt d frame
  let rs := (s.range e w.bank dir (w.variantOf e)).filter fun r => eField r 0 0 3 == 2 && eField r 1 16 14 == tag
  let i := ((s.logical w e).findIdx? (· == p)).getD 0
  match rs with
  | [] => 0
  | r0 :: _ =>
    let lo := rs.foldl (fun m r => min m (eField r 2 0 24)) (eField r0 2 0 24)
    let back := phaseOf (s.cadence d w.bank (eField r0 0 4 4)) frame - lo
    (List.range back).foldl (fun t j => t + s.scBefore d w.bank rs (frame - back + j) 1024 0) 0 + s.scBefore d w.bank rs frame slot i

/-- The address of the granule an SC slot carries, its context, and whether it is its transfer's last; none when the slot carries
NULL (R157). -/
def State.scPlace (s : State) (e : LinkEnd) (dir tag p slot frame : Nat) : Option (Nat × Nat × Bool) :=
  let r := s.transfer (leDie e) (s.schedAt (leDie e) frame).bank tag
  let k := s.scIndex e dir tag p slot frame
  if xferDir r == dir && decide (k < xferGran r) then some (xferBase r + 64 * k, xferCtx r, k + 1 == xferGran r) else Option.none

/-! ### Meanings -/

/-- A variant switch is logged with the old and new variant, the kind and whether the bank switched, and its turn is kept
(R503). -/
def State.logSwitch (s : State) (d : Die) (b : Blk) (old new kind bankSw : Nat) : State :=
  (s.log d b 0 0x4003 [BitVec.ofNat 8 old, BitVec.ofNat 8 new, BitVec.ofNat 8 kind, BitVec.ofNat 8 bankSw]).set64 d .gtr 0
    Reg.GTR_SWITCH_LO_TURN Reg.GTR_SWITCH_HI_TURN (s.turn d)

/-- The tray ports of a die. -/
def traysOf (d : Die) : List LinkEnd := ((List.finRange 8).map LinkEnd.tray).filter fun e => leDie e = d

/-- SC is no longer issued on link ends. -/
def State.stopSc (s : State) (es : List LinkEnd) : State :=
  es.foldl (fun t e => t.setLink e { t.link e with scStop := true }) s

/-- No Ikiper variant, or no tray variant, fits on a die any more: RC 0x4002, NOFIT, chip level with cause 0x07; SC stops on every
link of the die, or on its tray ports (R166, R209). It is said once for each kind, for as long as none fits. -/
def State.noFit (s : State) (d : Die) (tray : Bool) : State :=
  let x := s.die d
  if (if tray then x.noFitT else x.noFitI) then s
  else
    let s0 := s.setDie d (if tray then { x with noFitT := true } else { x with noFitI := true })
    let s1 := (s0.log d (if tray then .tray else .gtr) 0 0x4002).setF d .gtr 0 Reg.GTR_STATUS_NOFIT 1
    (s1.stopSc (if tray then traysOf d else s.ends d ++ traysOf d)).trigger 4 0x07 d 0xFF 0x4002

/-- A die's choice of variants begins anew: no kind is known not to fit. -/
def State.clearNoFit (s : State) (d : Die) : State :=
  (s.setF d .gtr 0 Reg.GTR_STATUS_NOFIT 0).setDie d { s.die d with noFitI := false, noFitT := false }

/-- Select the variant of a die from its loss set, logging a change (R162, R166, R503). -/
def State.selectVariant (s : State) (d : Die) : State :=
  match s.pickVariant d (s.bank d) (s.lossSet d) with
  | Option.none => s.noFit d false
  | some v =>
    let old := s.getF d .gtr 0 Reg.GTR_STATUS_VARIANT
    if v == old then s else ((s.noteSched d).setF d .gtr 0 Reg.GTR_STATUS_VARIANT v).logSwitch d .gtr old v 0 0

/-- Note that a loss of a bundle, or of a cable, has joined once its boundary has come. -/
def Loss.join (tray : Bool) (b : Nat) (l : Loss) : Loss :=
  if decide (16 ≤ l.link) == tray && decide (l.joinAt ≤ b) then { l with joined := true } else l

/-- Join the losses that are due into the loss set of a die (R163). -/
def State.joinLosses (s : State) (d : Die) : State :=
  let x := s.die d
  let due := x.losses.filter fun l => !l.joined && decide (l.link < 16 ∧ l.joinAt ≤ x.beat)
  if due == [] then s
  else
    let set := due.foldl (fun v l => setBit v (lossBit l.link l.bundle)) (s.lossSet d)
    let s1 := (s.noteSched d).setLossSet d set
    s1.setDie d { s1.die d with losses := x.losses.map (Loss.join false x.beat) }

/-- `VARIANT_SELECT` (R162, R163, R166): at a turn boundary a die joins the losses due and selects its variant. -/
def execVariantSelect (d : Die) (s : State) : Host.Outcome State Fault Refusal :=
  if s.hasDie d && s.atTurn d then
    let s1 := s.joinLosses d
    .next (if s1.enabled .gtr d then s1.selectVariant d else s1)
  else .next s

/-- Select the tray variant of a Crown die (R208, R209, R503). -/
def State.selectTrayVariant (s : State) (c : Crown) : State :=
  let d : Die := .cr c
  match s.pickTrayVariant c (s.bank d) (s.trayLoss c) with
  | Option.none => s.noFit d true
  | some v =>
    let old := s.getF d .tray 0 Reg.TRY_STATUS_TVARIANT
    if v == old then s else ((s.noteSched d).setF d .tray 0 Reg.TRY_STATUS_TVARIANT v).logSwitch d .tray old v 1 0

/-- Put the tray loss set of a Crown die and show each port whose cable it holds. -/
def State.setTrayLoss (s : State) (c : Crown) (v : Nat) : State :=
  let s1 := (List.range 4).foldl (fun t i => t.setF (.cr c) .tray 0 Reg.TRY_TLOSS_LOST (v / 2 ^ (32 * i)) (4 * i)) s
  ((List.finRange 8).filter fun n => trayCrown n == c).foldl (fun t n =>
    t.setF (.cr c) .trayPort (leInst (.tray n)) Reg.TRYP_PORT_STATUS_TLOST (b2n (bit v (t.cableBit n)))) s1

/-- Join the cable losses that are due into the tray loss set of a Crown die (R207). -/
def State.joinTrayLosses (s : State) (c : Crown) : State :=
  let d : Die := .cr c
  let x := s.die d
  let due := x.losses.filter fun l => !l.joined && decide (16 ≤ l.link ∧ l.joinAt ≤ x.beat)
  if due == [] then s
  else
    let set := due.foldl (fun v l => setBit v (8 * (l.link - 16) + l.bundle)) (s.trayLoss c)
    let s1 := (s.noteSched d).setTrayLoss c set
    s1.setDie d { s1.die d with losses := x.losses.map (Loss.join true x.beat) }

/-- `TRAY_VARIANT_SELECT` (R207 to R209): at a turn boundary a Crown die joins the cable losses due and selects its tray
variant. -/
def execTrayVariantSelect (c : Crown) (s : State) : Host.Outcome State Fault Refusal :=
  let d : Die := .cr c
  if s.hasDie d && s.atTurn d then
    let s1 := s.joinTrayLosses c
    .next (if s1.enabled .gtr d && s1.enabled .tray d then s1.selectTrayVariant c else s1)
  else .next s

/-- The fields of a loss notice (R164, R206): its code, bytes 2 and 3, the reason, the declaration `BEAT`. -/
def noticeCode (p : List Byte) : Nat := leNat (p.take 2)
def noticeA (p : List Byte) : Nat := (p.getD 2 0).toNat
def noticeB (p : List Byte) : Nat := (p.getD 3 0).toNat
def noticeRc (p : List Byte) : Nat := leNat ((p.drop 4).take 2)
def noticeDecl (p : List Byte) : Nat := leNat ((p.drop 8).take 8)

/-- `LOSS_NOTICE` (R164, R165): a die takes a loss notice on a link end; a first copy is noted, LATE where its boundary has
begun, and forwarded to every other neighbour. -/
def execLossNotice (e : LinkEnd) (p : List Byte) (s : State) : Host.Outcome State Fault Refusal :=
  let d := leDie e
  let (link, b, decl) := (noticeA p, noticeB p, noticeDecl p)
  if noticeCode p != 0x47 || decide (12 ≤ link) || decide (16 ≤ b) then .next s
  else
    let s1 := s.bumpF d .gtr 0 Reg.GTR_NOTICE_RECEIVED
    if (s.die d).losses.any (fun l => l.link == link && l.bundle == b && l.decl == decl) then .next s1
    else
      .next ((s1.addLoss d link b decl (turnAfter 16384 decl)).sendNotice ((s.ends d).filter (· != e))
        (noticePayload 0x0047 link b (noticeRc p) decl) true)

/-- A cable loss declared at a beat, as a die takes it (R207): the earliest declaration governs until the cable has joined; one
whose boundary has begun is LATE and joins a turn boundary later. -/
def State.addTrayLoss (s : State) (d : Die) (pkg port decl : Nat) : State :=
  let x := s.die d
  let due := turnAfter turnBeats decl
  let same (l : Loss) : Bool := l.link == 16 + pkg && l.bundle == port && !l.joined
  let earlier (l : Loss) : Loss := if same l && decide (due < l.joinAt) then { l with joinAt := due, decl := decl } else l
  if x.losses.any same then s.setDie d { x with losses := x.losses.map earlier }
  else if due ≤ x.beat then
    (s.setF d .gtr 0 Reg.GTR_STATUS_LATE 1).setDie d
      { x with losses := x.losses ++ [⟨16 + pkg, port, decl, turnAfter 1 x.beat, false⟩] }
  else s.setDie d { x with losses := x.losses ++ [⟨16 + pkg, port, decl, due, false⟩] }

/-- `TRAY_LOSS_NOTICE` (R206, R207): a Crown or Movement die takes a tray-loss notice; a first copy is noted and flooded on
every other `LIVE` tray port of the die and to the neighbouring dies. A duplicate is known by its cable and declaration. -/
def execTrayLossNotice (e : LinkEnd) (p : List Byte) (s : State) : Host.Outcome State Fault Refusal :=
  let d := leDie e
  let (pkg, port, decl) := (noticeA p % 16, noticeB p % 8, noticeDecl p)
  if noticeCode p != 0x48 then .next s
  else
    let s0 := s.bumpF d .gtr 0 Reg.GTR_NOTICE_RECEIVED
    if decide ((16 * pkg + port, decl) ∈ (s.die d).seenLoss) then .next s0
    else
      let s1 := s0.setDie d { s0.die d with seenLoss := (s0.die d).seenLoss ++ [(16 * pkg + port, decl)] }
      let es := ((traysOf d).filter (fun n => s.lst n == stLive) ++ s.ends d).filter (· != e)
      .next ((s1.addTrayLoss d pkg port decl).sendNotice es (noticePayload 0x0048 pkg port (noticeRc p) decl) true)

/-! ### Table ports (R154, R160, R212, R505) -/

/-- Records in each space of a schedule port. -/
def spaceSize (space : Nat) : Nat := match space with
  | 0 => 8192 | 1 => 8 | 2 => 16 | _ => 16384

/-- Where a schedule port points: space, die, bank, direction, slot, index. `tray` is the port of `TRY`. -/
def State.portSel (s : State) (d : Die) (tray : Bool) : Nat × Nat × Nat × Nat × Nat :=
  let b : Blk := if tray then .tray else .gtr
  let f (x y : Fld) : Nat := s.getF d b 0 (if tray then y else x)
  let sp := f Reg.GTR_TBL_SEL_SPACE Reg.TRY_TBL_SEL_SPACE
  let shared := decide (2 ≤ sp)
  (sp, f Reg.GTR_TBL_SEL_BANK Reg.TRY_TBL_SEL_BANK, if shared then 0 else f Reg.GTR_TBL_SEL_DIR Reg.TRY_TBL_SEL_DIR,
   if shared then 0 else f Reg.GTR_TBL_SEL_SLOT Reg.TRY_TBL_SEL_SLOT, f Reg.GTR_TBL_IDX_INDEX Reg.TRY_TBL_IDX_INDEX)

/-- The space number of a port's space in the store. -/
def storeSpace (tray : Bool) (sp : Nat) : Nat := if tray && decide (sp < 2) then sp + 4 else sp

/-- What a schedule port selects holds; nothing is selected beyond a space. -/
def State.schedSel (s : State) (d : Die) (tray : Bool) : Option Nat :=
  let (sp, bank, dir, slot, idx) := s.portSel d tray
  if spaceSize sp ≤ idx then none
  else if sp == 2 && idx == 0 then some 1
  else some (s.tbl (storeSpace tray sp) (dieCode d) bank dir slot idx)

/-- A write to word 3 stores the four words, unless the index selects nothing (nothing is written then, not even the port's own
word), the bank is active (ignored, `ACTIVE_WR`) or the record is cadence 0 (R155, R160, R505). -/
def State.schedWrite (s : State) (d : Die) (tray : Bool) (w : Nat) : State :=
  let b : Blk := if tray then .tray else .gtr
  let f : Fld := if tray then Reg.TRY_TBL_DATA_DATA else Reg.GTR_TBL_DATA_DATA
  let (sp, bank, dir, slot, idx) := s.portSel d tray
  if spaceSize sp ≤ idx then s
  else
    let s0 := s.setF d b 0 f w 12
    if bank == s.bank d then s0.setF d .gtr 0 Reg.GTR_STATUS_ACTIVE_WR 1
    else if sp == 2 && idx == 0 then s0
    else
      let v := s.getF d b 0 f 0 + 2 ^ 32 * s.getF d b 0 f 4 + 2 ^ 64 * s.getF d b 0 f 8 + 2 ^ 96 * (w % 2 ^ 32)
      s0.setTbl (storeSpace tray sp) (dieCode d) bank dir slot idx v

/-- A read of word 0 loads the four words of the record selected; nothing is selected beyond a space (R505). -/
def State.schedRead (s : State) (d : Die) (tray : Bool) : State :=
  let b : Blk := if tray then .tray else .gtr
  let f : Fld := if tray then Reg.TRY_TBL_DATA_DATA else Reg.GTR_TBL_DATA_DATA
  let v := (s.schedSel d tray).getD 0
  (List.range 4).foldl (fun t i => t.setF d b 0 f (v / 2 ^ (32 * i)) (4 * i)) s

/-- `GTR_TABLE_WRITE` (R160): a write of word 3 of a die's schedule port. -/
def execGtrTableWrite (d : Die) (w : Word) (s : State) : Host.Outcome State Fault Refusal :=
  if s.hasDie d && s.powered d .gtr then .next (s.schedWrite d false w.toNat) else .next s

/-- `GTR_TABLE_READ` (R154): a read of word 0 of a die's schedule port. -/
def execGtrTableRead (p : Path) (d : Die) (s : State) : Host.Outcome State Fault Refusal :=
  match s.deadRead p d .gtr with
  | some a => .next (a.2.putRd p a.1)
  | Option.none => let s1 := s.schedRead d false; .next (s1.putRd p (s1.getF d .gtr 0 Reg.GTR_TBL_DATA_DATA 0))

/-- `TRY_TABLE_WRITE` (R212): a write of the last word of a Crown die's tray schedule port. -/
def execTryTableWrite (c : Crown) (w : Word) (s : State) : Host.Outcome State Fault Refusal :=
  if s.hasDie (.cr c) && s.powered (.cr c) .tray then .next (s.schedWrite (.cr c) true w.toNat) else .next s

/-- `TRY_TABLE_READ` (R212): a read of word 0 of a Crown die's tray schedule port. -/
def execTryTableRead (p : Path) (c : Crown) (s : State) : Host.Outcome State Fault Refusal :=
  match s.deadRead p (.cr c) .tray with
  | some a => .next (a.2.putRd p a.1)
  | Option.none => let s1 := s.schedRead (.cr c) true; .next (s1.putRd p (s1.getF (.cr c) .tray 0 Reg.TRY_TBL_DATA_DATA 0))

end Sys2Proof.Machine
end

