-- ==== Sys2Proof/Machine/LinkFault.lean ====
section
/-! DEFINITION. Lane faults and their repair, CK failures, the retirement of bundles, frame markers and the limits of the
training states (R72, R82, R83, R105 to R112, R149, R179, R197). -/

namespace Sys2Proof.Machine

/-! ### Lane failures (R105 to R112, R197) -/

/-- The physical lane that carries logical lane `c` under a receive map. -/
def physLane (e : LinkEnd) (m : LaneMap) (c : Nat) : Nat :=
  if m.t0 == c then nMain e else if m.t1 == c then nMain e + 1 else c

/-- The message body of a lane repair (R147). -/
def repairBody (b lane jewel turn : Nat) : Nat :=
  b % 16 * 2 ^ 14 + lane % 32 * 2 ^ 18 + jewel % 2 * 2 ^ 23 + turn % 2 ^ 43 * 2 ^ 24

/-- The jewels of a bundle that no lane has and no repair in hand has chosen, and that are usable, J0 first (R109). -/
def State.freeJewels (s : State) (e : LinkEnd) (b : Nat) : List Nat :=
  let m := s.rxMap e b
  let used := (s.bun e b).repairs.map fun r => r.jewel
  [0, 1].filter fun j =>
    let t := if j == 0 then m.t0 else m.t1
    let bad := if j == 0 then m.bad0 else m.bad1
    decide (nMain e ≤ t) && !bad && !decide (j ∈ used)

/-- Begin the repair of a logical lane, or retire the bundle when no jewel is left (R109, R112). `eff` is the turn E. A bundle whose
only failed lane this is delivers on, with the lane erased, until it stops. -/
def State.repairLane (s : State) (e : LinkEnd) (b lane eff : Nat) : State :=
  let x := s.bun e b
  let failed := if decide (lane ∈ x.failed) then x.failed else x.failed ++ [lane]
  match s.freeJewels e b with
  | j :: _ =>
    let s1 := s.logLink e 0x3007
    (s1.setBun e b { s1.bun e b with repairs := x.repairs ++ [⟨lane, j, eff, 0⟩], failed := failed, loc := 0 }).sbSend e
      0x11 (repairBody b lane j eff)
  | [] =>
    let s1 := (s.setBun e b { x with failed := failed, loc := 0 }).retireBundle e b 0x3002 (failed == [lane])
    if isTray e then s1 else s1.setRxMap e b { s1.rxMap e b with retired := true }

/-- A physical lane is declared permanently failed (R106, R111): a lane in service is repaired, a jewel that carries a lane
gives it up and is marked unusable, an unassigned jewel is marked unusable. -/
def State.failLane (s : State) (e : LinkEnd) (b c : Nat) : State :=
  let m := s.rxMap e b
  let eff := turnAfter frameBeats (s.beat (leDie e)) / turnBeats
  let known (lane : Nat) : Bool := decide (lane ∈ (s.bun e b).failed)
  if s.retired e b then s
  else if c < nMain e then
    match logicalLane e m c with
    | none => s
    | some lane => if known lane then s else s.repairLane e b lane eff
  else
    let j := c - nMain e
    let gone := if j == 0 then m.bad0 else m.bad1
    if gone then s
    else
      let s1 := s.setRxMap e b (if j == 0 then { m with bad0 := true } else { m with bad1 := true })
      match logicalLane e m c with
      | some lane => if known lane then s1 else s1.repairLane e b lane eff
      | none =>
        let taken := (s.bun e b).repairs.filter fun r => r.jewel == j
        let s2 := (s1.logLink e 0x3007).setBun e b { s.bun e b with repairs := (s.bun e b).repairs.filter fun r => r.jewel != j }
        taken.foldl (fun t r => t.repairLane e b r.lane eff) s2

/-- The threshold of a physical lane's window count (R105, R197, R211). -/
def State.laneThresh (s : State) (e : LinkEnd) (b c : Nat) : Nat :=
  let d := leDie e; let i := leInst e
  if isTray e then
    if s.isF d .trayPort i Reg.TRYP_PORT_CTL_EXPERT then s.getF d .trayPort i Reg.TRYP_ERR_CFG_THRESH else 32768
  else match logicalLane e (s.rxMap e b) c with
    | some 18 => s.getF d .ikl i Reg.IKL_ERR_CFG2_T_THRESH
    | some _ => s.getF d .ikl i Reg.IKL_ERR_CFG_THRESH
    | none => if c < nMain e then s.getF d .ikl i Reg.IKL_ERR_CFG_THRESH else s.getF d .ikl i Reg.IKL_ERR_CFG2_J_THRESH

/-- Count `n` events on a physical lane; a count above its threshold declares the lane failed (R105, R106). -/
def State.countLane (s : State) (e : LinkEnd) (b c n : Nat) : State :=
  let s1 := s.addWin e b c n
  if s1.laneThresh e b c < s1.winErr e b c then s1.failLane e b c else s1

/-- `LANE_NO_TRANSITION` (R106, R111): a lane in use has shown no transition for `ui` unit intervals; 256 fail it. -/
def execLaneNoTransition (e : LinkEnd) (b : Fin 16) (lane : Fin 21) (ui : Nat) (s : State) : Host.Outcome State Fault Refusal :=
  if s.inService e && decide (256 ≤ ui) && decide (b.val < nBundles e ∧ lane.val < nLanes e) then .next (s.failLane e b lane)
  else .next s

/-- The window length in turns in effect (R105, R211). -/
def State.errWindow (s : State) (e : LinkEnd) : Nat :=
  max 1 (if isTray e then
    (if s.isF (leDie e) .trayPort (leInst e) Reg.TRYP_PORT_CTL_EXPERT
     then s.getF (leDie e) .trayPort (leInst e) Reg.TRYP_ERR_CFG_WINDOW else 16)
    else s.getF (leDie e) .ikl (leInst e) Reg.IKL_ERR_CFG_WINDOW)

/-- `ERR_WINDOW_ROLL` (R105): at a turn that is a multiple of `WINDOW` every window count restarts. -/
def execErrWindowRoll (e : LinkEnd) (s : State) : Host.Outcome State Fault Refusal :=
  if s.atTurn (leDie e) && s.turn (leDie e) % s.errWindow e == 0 then
    .next ((List.range (nBundles e)).foldl (fun t b => (List.range (nLanes e)).foldl (fun u c =>
      if isTray e then u.setF (leDie e) .trayPort (leInst e) Reg.TRYP_EYE_WIN_ERR 0 (8 * c)
      else u.setF (leDie e) .ikl (leInst e) Reg.IKL_EYE_WIN_ERR 0 (laneOff e b c)) t) s)
  else .next s

/-- `JEWEL_STREAM_START` (R109, R64): from the first frame boundary after its first acknowledgement for a lane left, the transmitter
sends the lane's stream on the jewel as well. -/
def execJewelStreamStart (e : LinkEnd) (b : Fin 16) (s : State) : Host.Outcome State Fault Refusal :=
  if s.atFrame (leDie e) then
    let x := s.bun e b
    let due (r : TxRepair) : Bool := r.sent != 0 && decide (r.sent ≤ s.frame (leDie e))
    .next (s.setBun e b { x with txRepairs := x.txRepairs.map fun r => if due r then { r with stream := true } else r })
  else .next s

/-- A map with lane `lane` on jewel `j`; a jewel that carried it before carries nothing. -/
def LaneMap.assign (e : LinkEnd) (m : LaneMap) (lane j : Nat) : LaneMap :=
  let m1 := { m with t0 := if m.t0 == lane then noTgt e else m.t0, t1 := if m.t1 == lane then noTgt e else m.t1 }
  if j == 0 then { m1 with t0 := lane } else { m1 with t1 := lane }

/-- One repair in hand at its turn E (R109): taken over when its acknowledgement came a frame before E, else moved to the
next turn boundary with a new message (log entry 32, DEDUCED). -/
def State.takeover (s : State) (e : LinkEnd) (b : Nat) (r : RxRepair) : State :=
  let turn := s.turn (leDie e)
  let x := s.bun e b
  if turn < r.eff then s
  else if r.ack != 0 && decide (r.ack - 1 + frameBeats ≤ s.time) then
    (s.setBun e b { x with repairs := x.repairs.filter (fun q => q.lane != r.lane), failed := x.failed.filter (· != r.lane) }).setRxMap
      e b ((s.rxMap e b).assign e r.lane r.jewel)
  else
    (s.setBun e b { x with repairs := x.repairs.map fun q => if q.lane == r.lane then { r with eff := turn + 1, ack := 0 } else q }).sbSend
      e 0x11 (repairBody b r.lane r.jewel (turn + 1))

/-- `LANE_REPAIR_TAKEOVER` (R109, R110): at a turn boundary the receiver takes over, or moves, every repair that is due. -/
def execLaneRepairTakeover (e : LinkEnd) (b : Fin 16) (s : State) : Host.Outcome State Fault Refusal :=
  if s.atTurn (leDie e) then .next ((s.bun e b).repairs.foldl (fun t r => t.takeover e b r) s) else .next s

/-- `LANE_REPAIR_TX_CUTOVER` (R109, R64): at the turn boundary E it has acknowledged the transmitter drives the failed lane
low and keeps the stream on the jewel. -/
def execLaneRepairTxCutover (e : LinkEnd) (b : Fin 16) (s : State) : Host.Outcome State Fault Refusal :=
  if s.atTurn (leDie e) then
    let x := s.bun e b
    let due (r : TxRepair) : Bool := r.sent != 0 && decide (r.eff ≤ s.turn (leDie e))
    let now := x.txRepairs.filter due
    let s1 := now.foldl (fun t r => t.setTxMap e b ((t.txMapOf e b).assign e r.lane r.jewel)) s
    .next (s1.setBun e b { x with txRepairs := x.txRepairs.filter (fun r => !due r),
                                  low := now.foldl (fun l r => if decide (r.lane ∈ l) then l else l ++ [r.lane]) x.low })
  else .next s

/-- A tap moved by at most one step within its range; `dir` 0 down, 1 stays, 2 up. -/
def stepTap (range v : Nat) (dir : Fin 3) : Nat := min (range - 1) (v + dir.val - 1)

/-- `JEWEL_RECENTRE` (R65, R105, R111): each turn an unassigned usable jewel moves its delay and threshold by at most one
step, and the idle bits it received wrong in the turn are counted. -/
def execJewelRecentre (e : LinkEnd) (b : Fin 16) (jewel : Fin 2) (delay thresh : Fin 3) (bits : List Bool) (s : State) :
    Host.Outcome State Fault Refusal :=
  let c := nMain e + jewel.val
  if s.atTurn (leDie e) && s.inService e && !isTray e && decide (b.val < nBundles e) && decide (jewel.val ∈ s.freeJewels e b) then
    let s1 := s.setTap e b c Reg.IKL_COEF_DELAY (stepTap 64 (s.tap e b c Reg.IKL_COEF_DELAY) delay)
    let s2 := s1.setTap e b c Reg.IKL_COEF_THRESH (stepTap (threshSteps (isFp e)) (s1.tap e b c Reg.IKL_COEF_THRESH) thresh)
    .next (s2.countLane e b c (errCount (laneErrs false false c bits)))
  else .next s

/-! ### CK failure and retirement (R82 to R84, R149) -/

/-- Whether a CK count is in range (R82). -/
def ckOk (n : Nat) : Bool := decide (16380 ≤ n ∧ n ≤ 16388)

/-- Show the CK counts of a frame, of the bundles counted. -/
def State.showCk (s : State) (e : LinkEnd) (bs : List Nat) (counts : List Nat) : State :=
  let d := leDie e; let i := leInst e
  bs.foldl (fun t b =>
    let n := counts.getD b 0
    let dev : Int := max (-127) (min 127 ((n : Int) - 16384))
    let t1 := (t.setF d .ikl i Reg.IKL_BPHY_CK_OK (b2n (ckOk n)) (bOff b)).setF d .ikl i Reg.IKL_BPHY_CK_DEV (unsigned 8 dev)
      (bOff b)
    let v := t1.getF d .ikl i Reg.IKL_CK_FAIL_CK_OK
    t1.setF d .ikl i Reg.IKL_CK_FAIL_CK_OK (if ckOk n then setBit v b else clrBit v b)) s

/-- Declare CK failure on a bundle (R82, R83). -/
def State.ckFailure (s : State) (e : LinkEnd) (b : Nat) : State :=
  let d := leDie e; let i := leInst e
  (s.setF d .ikl i Reg.IKL_CK_FAIL_FAIL (setBit (s.getF d .ikl i Reg.IKL_CK_FAIL_FAIL) b)).retireBundle e b 0x3003

/-- Note since when CK of the bundles counted has been out of range. -/
def State.noteCk (s : State) (e : LinkEnd) (bs : List Nat) (counts : List Nat) : State :=
  bs.foldl (fun t b =>
    let x := t.bun e b
    let bad := if ckOk (counts.getD b 0) then 0 else if x.ckBad == 0 then s.time + 1 else x.ckBad
    t.setBun e b { x with ckBad := bad }) s

/-- The CK check of an end in `CALIB` (R149): no partner for one turn returns it, not counted; a bundle out of range for
one turn beside others in range is retired. -/
def State.ckCalib (s : State) (e : LinkEnd) (bs : List Nat) (counts : List Nat) : State :=
  let late (b : Nat) : Bool :=
    let x := s.bun e b
    x.ckBad != 0 && decide (max (x.ckBad - 1) (s.link e).since + turnBeats ≤ s.time)
  if bs != [] && bs.all late then
    let s1 := s.linkReturn e 0 false false
    s1.setLink e { s1.link e with noPartner := s.time + 1 }
  else if bs.any fun b => ckOk (counts.getD b 0) then
    ((bs.filter late).foldl (fun t b => t.ckFailure e b) s).afterSearch e
  else s

/-- The CK check of an end from `LANETEST` on (R82, R149): with CK out on every bundle in service, or in training on every bundle
not retired, the partner is gone. -/
def State.ckService (s : State) (e : LinkEnd) (bs : List Nat) (counts : List Nat) : State :=
  let bad (b : Nat) : Bool := !ckOk (counts.getD b 0)
  let all := if s.inService e then bs.filter fun b => !s.calOut e b else bs
  if all != [] && all.all bad then
    if s.inService e then s.linkReturn e 0x3003 true else s.linkReturn e 0 false
  else
    let s1 := (bs.filter bad).foldl (fun t b => t.ckFailure e b) s
    if s.lst e == stLanetest then s1.afterSearch e else s1

/-- `CK_COUNT_CHECK` (R82, R85, R149): at the end of a frame the receiver checks the CK count of every bundle it counts. -/
def execCkCountCheck (e : LinkEnd) (counts : List Nat) (s : State) : Host.Outcome State Fault Refusal :=
  if isTray e || !s.atFrame (leDie e) then .next s
  else
    let en := s.getF (leDie e) .ikl (leInst e) Reg.IKL_BUNDLE_EN_EN
    let bs := (s.live e).filter (bit en)
    let s1 := (s.showCk e bs counts).noteCk e bs counts
    if s.lst e == stCalib then .next (s1.ckCalib e bs counts)
    else if decide (stLanetest ≤ s.lst e ∧ s.lst e ≤ stDegraded) then .next (s1.ckService e bs counts)
    else .next s1

/-- `BUNDLE_TX_STOP` (R83, R142): at the frame boundary of its stop the bundle stops in both directions and is retired at this
end. -/
def execBundleTxStop (e : LinkEnd) (b : Fin 16) (s : State) : Host.Outcome State Fault Refusal :=
  match (s.bun e b).stopAt with
  | none => .next s
  | some f =>
    if s.atFrame (leDie e) && decide (f ≤ s.frame (leDie e)) then .next ((s.quiesce e [b.val]).markRetired e b)
    else .next s

/-! ### Frame markers (R72, R105, R125, R126, R179) -/

/-- Whether a marker passes the check of R72 and R179: its CRC, and, against the last one that did, a frame number that follows and
a distance of whole frames. With nothing to compare, or after four failures, any frame number begins the sequence anew
(log entry 141, DESIGN CHOICE). -/
def BundleSt.markOk (x : BundleSt) (now frame : Nat) : Bool :=
  x.lastFrame == 0 || decide (4 ≤ x.badRun) ||
    (x.lastFrame % 2 ^ 32 == frame % 2 ^ 32 && (now + 1 - x.goodAt) % frameBeats == 0)

/-- The lock counters of a bundle, or of a tray lane, after one marker, and whether it passed: a frame number and flags, or none
where its CRC fails. `at_` is the frame in which it came. -/
def BundleSt.mark (x : BundleSt) (now at_ : Nat) (got : Option (Nat × Nat)) : Bool × BundleSt :=
  let bad := { x with good := 0, badRun := min (x.badRun + 1) 4, lastFrame := x.lastFrame + b2n (x.lastFrame != 0), checked := at_ + 1 }
  match got with
  | none => (false, bad)
  | some (frame, flags) =>
    if x.markOk now frame then
      (true, { x with lastFrame := frame + 1, goodAt := now + 1, badRun := 0, checked := at_ + 1,
                      good := if x.lastFrame == 0 || decide (4 ≤ x.badRun) then 1 else min (x.good + 1) 4,
                      cal := bit flags 1, retire := bit flags 2, done := bit flags 3 })
    else (false, bad)

/-- A frame number of 32 bits as the frame nearest the die's present one. -/
def State.nearFrame (s : State) (d : Die) (f : Nat) : Int :=
  let now : Int := s.frame d
  let diff := signed 32 (unsigned 32 ((f : Int) - now))
  now + diff

/-- How many beats late a marker of a frame number was delivered (R125). -/
def State.markLate (s : State) (e : LinkEnd) (frame : Nat) : Int :=
  (s.beat (leDie e) : Int) - (s.nearFrame (leDie e) frame * frameBeats + s.latL e)

/-- A frame marker of an Ikiper bundle: what its segment 0 carried. -/
def State.iklMarker (s : State) (e : LinkEnd) (b seg : Nat) : State :=
  let d := leDie e
  let got := readMarker seg
  let (ok, y) := (s.bun e b).mark s.time (s.frame d) got
  let s1 := s.setBun e b y
  let s2 := if ok then s1 else s1.bumpF d .ikl (leInst e) Reg.IKL_SB_ERR_MARKER_ERR
  let s3 := if decide (4 ≤ y.badRun) then s2.setLock e b false else if decide (4 ≤ y.good) then s2.setLock e b true else s2
  let s4 := if got.isNone then s3.countLane e b (physLane e (s3.useMap e b) 18) 1 else s3
  if !ok then s4
  else
    let x := s4.bun e b
    let s5 := if y.retire && !s4.retired e b then
        (s4.setBun e b { x with rxStop := some (x.rxStop.getD (boundaryAtOrAfter frameBeats (s.beat d + 1))) }).stopNext e b
      else s4
    let s6 := if y.done && s5.lst e == stLanetest && s5.isF d .ikl (leInst e) Reg.IKL_BPHY_MARKER_LOCK (bOff b) then
        s5.setLink e { s5.link e with gotDone := true }
      else s5
    if b == s6.leadBundle e then s6.markerCheck e (s.markLate e (y.lastFrame - 1)) else s6

/-- The physical lanes of a tray port that carry its eight logical lanes. -/
def State.trayLanes (s : State) (e : LinkEnd) : List Nat := (List.range 8).map (physLane e (s.useMap e 0))

/-- Once every lane in service has been checked in a frame (R197, R202): with marker loss on all of them the port is lost; with it
on some, each that has just lost it fails. -/
def State.trayLock (s : State) (n : Fin 8) : State :=
  let e : LinkEnd := .tray n
  let use := s.trayLanes e
  let x (c : Nat) : BundleSt := s.bun e (16 + c)
  if !s.inService e || !use.all (fun c => (x c).checked == s.frame (leDie e) + 1) then s
  else if use.all fun c => decide (4 ≤ (x c).badRun) then s.linkReturn e 0xB005 true
  else (use.filter fun c => decide (4 ≤ (x c).badRun)).foldl (fun (t : State) c => t.failLane e 0 c) s

/-- The alignment block of one lane of a tray port (R178, R179): BV, DOWN and DONE are bits 1 to 3 of its flags. A port that receives
DOWN is retired as well, its cable lost with reason 0x3002, and logs nothing: its partner has retired it
(log entry 142, DESIGN CHOICE). -/
def State.trayMarker (s : State) (n : Fin 8) (lane seg : Nat) : State :=
  let e : LinkEnd := .tray n
  let got := readBlock ((logicalLane e (s.useMap e 0) lane).getD lane) seg
  let (ok, y) := (s.bun e (16 + lane)).mark s.time (s.frame (leDie e)) got
  let s1 := s.setBun e (16 + lane) y
  if !ok then s1.trayLock n
  else
    let flags := (got.getD (0, 0)).2
    let done := bit flags 3 && s1.lst e == stLanetest && decide (4 ≤ y.good)
    let s2 := s1.setLink e { s1.link e with peerBv := bit flags 1, gotDone := (s1.link e).gotDone || done, sigAt := s.time }
    if s2.inService e && bit flags 2 then ((s2.setRetired e 0 true).toSt e stRetired).declareTrayLoss n 0x3002
    else
      let s3 := if lane == (s2.trayLanes e).headD 0 then s2.markerCheck e (s.markLate e (y.lastFrame - 1)) else s2
      s3.trayLock n

/-- `FRAME_MARKER` (R71, R72, R105, R125, R126, R149, R178, R179): a receiver takes the marker of a bundle, or of a tray lane, as the
bits that stood where it should be. -/
def execFrameMarker (e : LinkEnd) (unit : Fin 16) (seg : Nat) (s : State) : Host.Outcome State Fault Refusal :=
  if s.lst e < stLanetest || decide (stDegraded < s.lst e) then .next s
  else match e with
    | .tray n => .next (if unit.val < 9 then s.trayMarker n unit seg else s)
    | .ikl _ _ => .next (if unit.val < nBundles e && !s.retired e unit then s.iklMarker e unit seg else s)

/-! ### Limits of the training states (R149) -/

/-- `TRAINING_TIMEOUT` (R149, R202): the limit of the present training state has passed: 64 turns for DONE, one turn in
`DESKEW`, one for the echo of `PIN`, 64 in `SYNC`. -/
def execTrainingTimeout (e : LinkEnd) (s : State) : Host.Outcome State Fault Refusal :=
  let l := s.link e
  let st := s.lst e
  let t := s.inState e
  if st == stLanetest then
    if l.testDone && !l.gotDone && decide (l.testDoneAt + 64 * turnBeats ≤ s.time) then .next (s.linkReturn e 0x3009 true)
    else .next s
  else if st == stDeskew then (if turnBeats ≤ t then .next (s.linkReturn e 0x3009 true) else .next s)
  else if st == stPin then (if !l.pinned && decide (turnBeats ≤ t) then .next (s.linkReturn e 0x3009 true) else .next s)
  else if st == stSync then (if 64 * turnBeats ≤ t then .next (s.linkReturn e 0x3004 true) else .next s)
  else .next s

end Sys2Proof.Machine
end

