-- ==== Sys2Proof/Machine/Sideband.lean ====
section
/-! DEFINITION. The sideband and the frame markers: what each slot sends, acknowledgements and their limits, and how a slot is
received (R71, R73, R74, R105, R129, R135, R143 to R148, R178, R180, R181). -/

namespace Sys2Proof.Machine

/-- Whether a link end's sideband runs (R75). -/
def State.sbUp (s : State) (e : LinkEnd) : Bool := decide (stDeskew ≤ s.lst e ∧ s.lst e ≤ stDegraded)

/-- The counts of flits passed to their sinks as a CREDIT message carries them, without its MTYPE (R135, R147). -/
def LinkSt.creditBody (l : LinkSt) : Nat :=
  (List.range 4).foldl (fun v c => v + Tab.get 0 l.passed c % 65536 * 2 ^ (6 + 16 * c)) 0

/-- A UC_ACK for eight bundles, without its MTYPE (R138, R142, R147, R506). VALID stands for a bundle that is in service or
whose final expected sequence is held (log entry 16, PRESUMED). -/
def State.ucAckBody (s : State) (e : LinkEnd) (g : Nat) : Nat :=
  (List.range 8).foldl (fun v i =>
    let b := 8 * g + i
    if b < nBundles e then
      let x := s.bun e b
      let fin := x.finalOk && (s.retired e b || s.calOut e b || !s.inService e)
      let es := if fin then x.finalEs else x.es
      let valid := fin || (s.inService e && !s.retired e b)
      v + (es + 511) % 256 * 2 ^ (8 + 8 * i) + b2n valid * 2 ^ (72 + i) + b2n x.nak * 2 ^ (80 + i)
    else v) (g * 2 ^ 6)

/-- A UC_ACK carries the NAK bits of its group once (R137). -/
def State.clearNaks (s : State) (e : LinkEnd) (g : Nat) : State :=
  (List.range 8).foldl (fun t i => if 8 * g + i < nBundles e then t.setBun e (8 * g + i) { t.bun e (8 * g + i) with nak := false }
    else t) s

/-- A container (R143): an acknowledged message carries its MSEQ in bits 13:6. -/
def container (mtype mseq body : Nat) : Nat := mtype + (if sbAcked mtype then mseq % 256 * 2 ^ 6 else 0) + body

/-- What a message carries that depends on the slot it leaves in: `BEAT`s, hold times, counts (R38, R39, R124, R135). -/
def State.sbFill (s : State) (e : LinkEnd) (m : SbMsg) : Nat :=
  let d := leDie e
  let b := s.beat d
  match m.mtype with
  | 0x02 => (s.link e).creditBody
  | 0x06 => m.body + (s.time - m.aux) % 65536 * 2 ^ 14
  | 0x09 =>
    if isTray e then (b + m.aux / 32) % 2 ^ 64 * 2 ^ 14 + m.aux % 32 * 2 ^ 78
    else (b + s.latL e) % 2 ^ 64 * 2 ^ 14
  | 0x0A => b % 2 ^ 64 * 2 ^ 6
  | 0x0B => m.body + (b - m.aux) % 65536 * 2 ^ 70
  | _ => m.body

/-- The message a queue slot takes: the oldest of the highest priority present; slot 29 takes priority 4 first (R145). -/
def sbPick (q : List SbMsg) (slot : Nat) : Option Nat :=
  let at_ (p : Nat) : Option Nat := q.findIdx? fun m => sbPrio m.mtype == p
  let order := if slot == 29 then [4, 1, 2, 3, 5] else [1, 2, 3, 4, 5]
  order.findSome? at_

/-- What an acknowledgement that leaves means at the transmitter: a lane map may be applied at the frame boundary after it arrives,
a lane repair has its first one (R98, R109). -/
def BundleSt.ackLeft (x : BundleSt) (acked mseq arrives frame : Nat) : BundleSt :=
  if acked == 0x10 && x.txPend.isSome && x.mapSeq == mseq + 1 && x.txAckAt == 0 then { x with txAckAt := arrives + 1 }
  else if acked == 0x11 then
    { x with txRepairs := x.txRepairs.map fun r => if r.mseq == mseq && r.sent == 0 then { r with sent := frame + 1 } else r }
  else x

/-- What an end notes as a message leaves: when its probe's first UI left, the `BEAT` its request carries, what it acknowledges
(R39, R98, R109, R124). -/
def State.sbLeft (s : State) (e : LinkEnd) (m : SbMsg) : State :=
  let l := s.link e
  match m.mtype with
  | 0x03 =>
    (List.range (nBundles e)).foldl (fun (t : State) b =>
      t.setBun e b ((t.bun e b).ackLeft (bitsOf m.body 6 6) (bitsOf m.body 12 8) (s.time + s.latL e + 8) (s.frame (leDie e)))) s
  | 0x05 => s.setLink e { l with probeAt := s.time + 1 }
  | 0x0A => s.setLink e { l with syncReq := s.beat (leDie e) + 1, syncWait := false }
  | _ => s

/-- The message stream of a tray port's frame with a field put at a place of it; every place not filled is zero (R181). -/
def State.putStream (s : State) (e : LinkEnd) (frame pos field : Nat) : State :=
  let l := s.link e
  let old := if l.txFrame == frame + 1 then l.txStream else 0
  s.setLink e { l with txFrame := frame + 1, txStream := Nat.lor old (field * 2 ^ pos) }

/-- Note the container that a slot carries, and its bits (R71, R181). -/
def State.sendBox (s : State) (e : LinkEnd) (k box : Nat) : State :=
  let s1 := s.setLink e { s.link e with lastSb := box, lastSeg := if isTray e then traySbField box else sidebandSeg k box }
  if isTray e then s1.putStream e (s.frame (leDie e)) (traySbPos k) (traySbField box) else s1

/-- Send the message at place `i` of the queue in slot `k`: a message sent more than once stays at its place, an acknowledged one is
kept until its SB_ACK (R129, R146). Every copy of a load carries the value of its own slot (R38). -/
def State.sbSendSlot (s : State) (e : LinkEnd) (k i : Nat) (m : SbMsg) : State :=
  let l := s.link e
  let q := if 1 < m.copies then l.q.set i { m with copies := m.copies - 1 } else l.q.eraseIdx i
  let box := container m.mtype m.mseq (s.sbFill e m)
  let un := if sbAcked m.mtype && m.first == 0 then
    l.unacked ++ [{ m with body := box, first := s.time + 1, last := s.time }] else l.unacked
  let box1 := if m.first == 0 || m.mtype == 0x09 then box else m.body
  ((s.setLink e { l with q := q, unacked := un }).sbLeft e m).sendBox e k box1

/-! ### Frame markers sent (R71, R178) -/

/-- The marker that bundle `b` of an Ikiper link end sends at the start of this frame: HACK, CAL, RETIRE and DONE as its state says.
It stands on the frame, as R55 asks from frame N on. -/
def State.txMarker (s : State) (e : LinkEnd) (b : Nat) : Nat :=
  let x := s.bun e b
  markerSeg (s.frame (leDie e)) (b2n (s.hackCovers e (s.frame (leDie e))) + 2 * b2n (s.calOut e b) +
    4 * b2n (x.dying || x.stopAt.isSome) + 8 * b2n (s.lst e == stLanetest && (s.link e).testDone))

/-- The alignment block that physical lane `c` of a tray port sends at the start of this frame. -/
def State.txBlock (s : State) (e : LinkEnd) (c : Nat) : Nat :=
  alignBlock ((logicalLane e (s.useMapTx e 0) c).getD c) (s.frame (leDie e))
    (b2n (s.hackCovers e (s.frame (leDie e))) + 2 * b2n (s.isF (leDie e) .bal 0 Reg.BAL_STATUS_BEAT_VALID) +
      4 * b2n ((s.link e).down == s.frame (leDie e) + 1) + 8 * b2n (s.lst e == stLanetest && (s.link e).testDone))

/-- A link end sends frame markers: from `LANETEST` on, and DOWN once more from `RETIRED`; not in compliance or clock-only mode
(R86), nor in training while the `BEAT` copy of its serialiser is stale (R54). -/
def State.sendsMarkers (s : State) (e : LinkEnd) : Bool :=
  let run := decide (stLanetest ≤ s.lst e ∧ s.lst e ≤ stDegraded)
  let stale := !s.inService e && s.staleAt (leDie e) 1 (leBlk e).code (leInst e)
  (run && decide (s.linkMode e < 2) && !stale) || (isTray e && (s.link e).down == s.frame (leDie e) + 1)

/-- The markers of every bundle that sends, or of every tray lane, leave at the start of a frame. -/
def State.sendMarkers (s : State) (e : LinkEnd) : State :=
  if s.sendsMarkers e then
    s.setLink e { s.link e with marks := if isTray e then (List.range 9).map (s.txBlock e)
      else (List.range (nBundles e)).map fun b => if s.retired e b then 0 else s.txMarker e b }
  else s

/-! ### Slots sent (R143 to R145) -/

/-- Pointer messages that are due from this frame boundary on (R55): the request of the end that left reset, and the answer to a
request, which names frame N. -/
def State.ptrDue (s : State) (e : LinkEnd) : State :=
  let f := s.frame (leDie e)
  let l := s.link e
  let s1 := if l.ptrWant != 0 && decide (l.ptrWant ≤ f + 1) then
      (s.setLink e { l with ptrWant := 0, ptrReqAt := s.time + 1 }).sbSend e 0x07 0
    else s
  let l1 := s1.link e
  if l1.ptrOwe != 0 && decide (l1.ptrOwe ≤ f) then
    let n := ptrFrameOf l1.ptrOwe (s.latL e)
    (s1.setLink e { l1 with ptrOwe := 0, ptrFrame := n + 1, ptrSet := false }).sbSend e 0x08 (n % 2 ^ 32 * 2 ^ 6)
  else s1

/-- `SIDEBAND_SLOT_TRANSMIT` (R71, R143 to R145, R178, R190): at the beat of a sideband slot the end sends its flow message, its
pending message, or NOP; at the start of a frame, where slot 0 would stand, its markers (log entry 143, DESIGN CHOICE). -/
def execSidebandSlotTransmit (e : LinkEnd) (s : State) : Host.Outcome State Fault Refusal :=
  let r := s.beat (leDie e) % frameBeats
  let k := r / 64
  if r == 0 then .next (s.sendMarkers e)
  else if !s.sbUp e || r % 64 != 0 || decide (2 ≤ s.linkMode e) then .next s
  else if k % 4 == 2 then .next ((s.sendBox e k (1 + s.ucAckBody e 0)).clearNaks e 0)
  else if k % 4 == 3 then
    if isFp e then .next ((s.sendBox e k (1 + s.ucAckBody e 1)).clearNaks e 1)
    else .next (s.sendBox e k (2 + (s.link e).creditBody))
  else
    let s1 := s.ptrDue e
    match sbPick (s1.link e).q k with
    | none => .next (s1.sendBox e k 0)
    | some i => .next (s1.sbSendSlot e k i ((s1.link e).q.getD i { mtype := 0 }))

/-- `SB_MESSAGE_REPEAT` (R146): every acknowledged message a frame after its last copy, within one turn of its first, is
queued again and counted. -/
def execSbMessageRepeat (e : LinkEnd) (s : State) : Host.Outcome State Fault Refusal :=
  let l := s.link e
  let due (m : SbMsg) : Bool := decide (m.last + frameBeats ≤ s.time ∧ s.time < m.first - 1 + turnBeats)
  let again := l.unacked.filter due
  let q := l.q ++ again.map fun m => { m with copies := 1 }
  let un := l.unacked.map fun m => if due m then { m with last := s.time } else m
  let s1 := s.setLink e { l with q := q, unacked := un }
  .next (again.foldl (fun t _ => t.bumpLf e Reg.IKL_LL_ERR_SB_REPEAT Reg.TRYP_LL_ERR_SB_REPEAT) s1)

/-- `SB_ACK_TIMEOUT` (R146, R149): one turn after a message's first copy without an SB_ACK the link retrains with
RC 0x3009. -/
def execSbAckTimeout (e : LinkEnd) (s : State) : Host.Outcome State Fault Refusal :=
  if (s.link e).unacked.any (fun m => decide (m.first - 1 + turnBeats ≤ s.time)) then .next (s.linkReturn e 0x3009 true)
  else .next s

/-- What an SB_ACK releases at the sender: a lane map may be applied, a lane repair knows its acknowledgement, a declared
retirement its stop, a recalibration its confirmation (R83, R98, R109, R113). -/
def State.ackEffect (s : State) (e : LinkEnd) (m : SbMsg) : State :=
  let b := bitsOf m.body 14 4
  let x := s.bun e b
  match m.mtype with
  | 0x10 => s.setBun e b { x with mapAcked := true }
  | 0x11 =>
    let lane := bitsOf m.body 18 5
    let eff := bitsOf m.body 24 43
    let upd (r : RxRepair) : RxRepair := if r.lane == lane && r.eff == eff && r.ack == 0 then { r with ack := s.time + 1 } else r
    s.setBun e b { x with repairs := x.repairs.map upd }
  | 0x12 => s.stopNext e b
  | 0x13 => s.setBun e b { x with recalOk := true }
  | _ => s

/-! ### Codewords of a tray port (R177, R180, R181, R212) -/

/-- The message bits of a codeword's symbols. -/
def msgBits (w : List Nat) : Nat := (w.take 514).foldr (fun x v => x + 1024 * v) 0

/-- Codeword `j` of a frame is decoded, as the `n`-th of those that came on a port's lanes: its message, or none, with what R105,
R197 and R212 count of it, the first time in the frame that a field of it is read; and the symbols corrected. -/
def State.takeCw (s : State) (e : LinkEnd) (frame : Nat) (lanes : List Nat) (n j : Nat) : Option (Nat × List Nat) × State :=
  let m := s.useMap e 0
  let r := rsTray.decode (cwOfLanes ((List.range 8).map fun c => lanes.getD (physLane e m c) 0) n j) []
  let l := s.link e
  let seen := if l.cwFrame == frame + 1 then l.cwSeen else []
  let out := r.map fun p => (msgBits p.1, p.2)
  if decide (j ∈ seen) then (out, s)
  else
    let s1 := s.setLink e { l with cwFrame := frame + 1, cwSeen := j :: seen }
    match r with
    | none => (out, s1.bumpF (leDie e) .trayPort (leInst e) Reg.TRYP_FEC_UNCORR_CW)
    | some (_, bad) =>
      let s2 := if bad == [] then s1 else s1.bumpF (leDie e) .trayPort (leInst e) Reg.TRYP_FEC_CORR_CW
      (out, bad.foldl (fun (t : State) i => t.countLane e 0 (physLane e m (i % 8)) 1) s2)

/-- Whether a corrected symbol of codeword `j` lies in a field of the message stream. -/
def trayHit (pos len j : Nat) (bad : List Nat) : Bool :=
  bad.any fun i => decide (i < 514 ∧ trayMsgBits * j + 10 * i < pos + len ∧ pos < trayMsgBits * j + 10 * i + 10)

/-- A field of `len` bits at `pos` of a frame's message stream, from the one or two codewords that hold it, and whether a symbol of it
was corrected; none where a codeword is uncorrectable. -/
def State.takeField (s : State) (e : LinkEnd) (frame pos len : Nat) (lanes : List Nat) : Option (Nat × Bool) × State :=
  let (j0, j1) := trayCws pos len
  let (a, s1) := s.takeCw e frame lanes 0 j0
  if j0 == j1 then (a.map fun v => (bitsOf v.1 (pos - trayMsgBits * j0) len, trayHit pos len j0 v.2), s1)
  else
    let (b, s2) := s1.takeCw e frame lanes 1 j1
    match a, b with
    | some v, some w =>
      (some (bitsOf (v.1 + w.1 * 2 ^ trayMsgBits) (pos - trayMsgBits * j0) len, trayHit pos len j0 v.2 || trayHit pos len j1 w.2), s2)
    | _, _ => (none, s2)

/-! ### Slots received (R73, R74, R105, R148, R205) -/

/-- Show the lead bundle of the slot delivered last. -/
def State.showLead (s : State) (e : LinkEnd) (b : Nat) : State :=
  if isTray e then s
  else
    let d := leDie e; let i := leInst e
    (List.range (nBundles e)).foldl (fun t k => t.setF d .ikl i Reg.IKL_BPHY_LEAD (b2n (k == b)) (bOff k))
      (s.setF d .ikl i Reg.IKL_PHY_STATUS_LEAD b)

/-- A TAI map message as the die keeps it until it holds both with one EPOCH (R148). -/
def State.takeTaiMap (s : State) (d : Die) (box : Nat) : State :=
  let x := s.die d
  if bitsOf box 0 6 == 0x1A then s.setDie d { x with map0 := some (bitsOf box 6 64, bitsOf box 70 32, bitsOf box 102 2) }
  else s.setDie d { x with map1 := some (bitsOf box 6 64, bitsOf box 70 2, bit box 72, bit box 73) }

/-- The bundles whose copies of the sideband a receiver takes (R73): those that are not retired, recalibrating or stopped. -/
def State.sbBundles (s : State) (e : LinkEnd) : List Nat :=
  if isTray e then [0]
  else (s.sending e).filter fun b => match (s.bun e b).rxStop with
    | some r => decide (s.beat (leDie e) < r)
    | none => true

/-- A slot is delivered now (R74, R182): in service, L + 8 beats after it left. In training, before the depths and the count are
set, the spec gives no such beat, and the messages that a tray port times at its decoder come past the buffer (R205)
(log entry 144, DEDUCED). -/
def State.slotDue (s : State) (e : LinkEnd) (slot : Nat) : Bool :=
  !s.inService e || (decide (s.latL e + 8 ≤ s.beat (leDie e)) && (s.beat (leDie e) - s.latL e - 8) % frameBeats == 64 * slot)

/-- The container of a slot on an Ikiper link: the lowest-numbered bundle's whose copy passes. Every failing copy counts on its T
lane; with none passing, the slot is dropped and counted (R73, R105). -/
def State.iklSlot (s : State) (e : LinkEnd) (r : SbSlot) : Option Nat × State :=
  let bs := s.sbBundles e
  let got (b : Nat) : Option Nat := readSeg r.slot (r.segs.getD b 0)
  let s1 := (bs.filter fun b => (got b).isNone).foldl (fun (t : State) b => t.countLane e b (physLane e (t.useMap e b) 18) 1) s
  match bs.find? fun b => (got b).isSome with
  | none => (none, s1.bumpF (leDie e) .ikl (leInst e) Reg.IKL_SB_ERR_CRC_ERR)
  | some b => (got b, s1.showLead e b)

/-- The container of a sideband field of a tray port, where its codewords and its CRC are good (R180, R181). -/
def State.traySlot (s : State) (e : LinkEnd) (r : SbSlot) : Option Nat × State :=
  let t := s.beat (leDie e) - s.latL e - 8
  let (f, s1) := s.takeField e (t / frameBeats) (traySbPos r.slot) 128 r.segs
  (f.bind fun v => readSbField v.1, s1)

/-- A sideband slot arrives: its container, where one is delivered. A container of an unknown MTYPE is discarded and counted
(R148). -/
def State.sbReceive (s : State) (e : LinkEnd) (r : SbSlot) : Option Nat × State :=
  if !s.sbUp e || r.slot == 0 then (none, s)
  else
    let (got, s1) := if isTray e then s.traySlot e r else s.iklSlot e r
    match got with
    | none => (none, s1)
    | some box =>
      let s2 := s1.setLink e { s1.link e with lastBox := box }
      if sbKnown (bitsOf box 0 6) then (some box, s2)
      else (none, s2.bumpLf e Reg.IKL_LL_ERR_BAD_MTYPE Reg.TRYP_LL_ERR_BAD_MTYPE)

/-- A slot that brings a message of one type; a container of another type is another command's, and this one then does nothing. -/
def State.sbTakes (s : State) (e : LinkEnd) (r : SbSlot) (mtype : Nat) (anytime : Bool := false) : Option Nat × State :=
  if !anytime && !s.slotDue e r.slot then (none, s)
  else match s.sbReceive e r with
    | (some box, t) => if bitsOf box 0 6 == mtype then (some box, t) else (none, s)
    | (none, t) => (none, t)

/-- A slot that brings an acknowledged message (R146): its container where it is the first copy; every copy is acknowledged. -/
def State.sbTakesFirst (s : State) (e : LinkEnd) (r : SbSlot) (mtype : Nat) (anytime : Bool := false) : Option Nat × State :=
  match s.sbTakes e r mtype anytime with
  | (some box, t) => let (first, u) := t.sbTake e mtype (bitsOf box 6 8); (if first then some box else none, u)
  | (none, t) => (none, t)

end Sys2Proof.Machine
end

