-- ==== Sys2Proof/Machine/Message.lean ====
section
/-! DEFINITION. What a link end does with the sideband messages of the time base and of training: `BEAT` loads and
synchronisation, the pointer and pin handshakes, the joint reset, lane maps and repairs, retirements and acknowledgements
(R36, R38 to R40, R43, R55, R57, R83, R98, R109, R123, R124, R146). -/

namespace Sys2Proof.Machine

/-! ### The count (R36, R38 to R40, R43, R205) -/

/-- A die takes a load (R36): one whose `BEAT_VALID` is clear applies it. On an Ikiper link it comes eight beats after its reference
instant (R74); on a tray port CR0 applies it at its timestamp, and only from a sync port in `SYNC` or service whose partner's
markers carry BV (R205). MV0, once loaded, relays CR0's to CR1 over S01 (log entry 5, DESIGN CHOICE). -/
def State.takeLoad (s : State) (e : LinkEnd) (box : Nat) : State :=
  let value := bitsOf box 14 64
  match e with
  | .tray n =>
    if !s.isF cr0 .bal 0 Reg.BAL_STATUS_BEAT_VALID && s.isSyncPort n && (s.link e).peerBv &&
        decide (stSync ≤ s.lst e ∧ s.lst e ≤ stDegraded) then s.applyLoad cr0 value (bitsOf box 78 5)
    else s
  | .ikl d sl =>
    if !s.isF d .bal 0 Reg.BAL_STATUS_BEAT_VALID then s.applyLoad d (value + 8) 0
    else if d = .mv 0 && sl == 2 && s.x2 then s.sbSend (spMv 0 1) 0x09 0
    else s

/-- `BEAT_LOAD` (R36, R38, R39): every copy is acknowledged and the first one acts. -/
def execBeatLoad (e : LinkEnd) (r : SbSlot) (s : State) : Host.Outcome State Fault Refusal :=
  match s.sbTakesFirst e r 0x09 (isTray e || !s.isF (leDie e) .bal 0 Reg.BAL_STATUS_BEAT_VALID) with
  | (some box, t) => .next (t.takeLoad e box)
  | (none, t) => .next t

/-- `BEAT_SYNC_REQ` (R39): the follower queues its answer, which echoes the request's `BEAT`; the hold time is filled in
when it leaves. -/
def execBeatSyncReq (n : Fin 8) (r : SbSlot) (s : State) : Host.Outcome State Fault Refusal :=
  match s.sbTakes (.tray n) r 0x0A true with
  | (some box, t) => .next (t.sbSend (.tray n) 0x0B (bitsOf box 6 64 * 2 ^ 6) (s.beat (leDie (.tray n))))
  | (none, t) => .next t

/-- A response that came in time completes the attempt (R39, R40): the package that acts as master sends a load with half the round
trip less the hold time; a follower corrects the phase error measured (log entry 7, DESIGN CHOICE). The round trip runs from
the request's slot to the response's timestamp, in 1/32 beat. -/
def State.syncDone (s : State) (n : Fin 8) (hold stamp : Nat) (err : Int) : State :=
  let e : LinkEnd := .tray n
  let l := s.link e
  let rt32 := 32 * (s.beat (leDie e) - (l.syncReq - 1)) + stamp
  let s1 := s.setLink e { l with syncReq := 0, syncFails := 0, peerLoaded := true }
  if s.isActivePort n then s1.phaseStep err else s1.sbSend e 0x09 0 ((rt32 - 32 * hold) / 2)

/-- `BEAT_SYNC_RESP` (R39, R40, R43): the answer to the request outstanding, within 12,800 beats of it; `stamp` is the fraction of its
timestamp in 1/32 beat, `err` the phase error that a follower measures. -/
def execBeatSyncResp (n : Fin 8) (r : SbSlot) (stamp : Fin 32) (err : Int) (s : State) : Host.Outcome State Fault Refusal :=
  let e : LinkEnd := .tray n
  match s.sbTakes e r 0x0B true with
  | (some box, t) =>
    let l := t.link e
    if l.syncReq != 0 && (l.syncReq - 1) % 2 ^ 64 == bitsOf box 6 64 && decide (t.beat (leDie e) ≤ l.syncReq - 1 + 12800) then
      .next (t.syncDone n (bitsOf box 70 16) stamp err)
    else .next t
  | (none, t) => .next t

/-! ### Pointers and pins (R55, R124) -/

/-- `PTR_REQ` (R55): the partner answers at its next frame boundary. -/
def execPtrReq (e : LinkEnd) (r : SbSlot) (s : State) : Host.Outcome State Fault Refusal :=
  match s.sbTakes e r 0x07 with
  | (some _, t) => .next (t.setLink e { t.link e with ptrOwe := t.frame (leDie e) + 1 })
  | (none, t) => .next t

/-- `PTR_RESP` (R55): the side that asked learns N. -/
def execPtrResp (e : LinkEnd) (r : SbSlot) (s : State) : Host.Outcome State Fault Refusal :=
  match s.sbTakes e r 0x08 with
  | (some box, t) => if (t.link e).ptrReqAt == 0 then .next t
    else .next (t.setLink e { t.link e with ptrFrame := bitsOf box 6 32 + 1 })
  | (none, t) => .next t

/-- `PIN_PROBE` (R124): the far end answers with an echo of its identity; its HOLD is filled in when it leaves. -/
def execPinProbe (e : LinkEnd) (r : SbSlot) (s : State) : Host.Outcome State Fault Refusal :=
  match s.sbTakes e r 0x05 with
  | (some box, t) => .next (t.sbSend e 0x06 (bitsOf box 6 8 * 2 ^ 6) t.time)
  | (none, t) => .next t

/-- `PIN_ECHO` (R123, R124, R149, R185): the echo of the probe sent last; `arrivals` are the beats, on the clock by which the probe's
first UI left, at which each bundle's copy reached its buffer. The identity of a probe is a count of them
(log entry 145, DESIGN CHOICE). -/
def execPinEcho (e : LinkEnd) (r : SbSlot) (arrivals : List Nat) (s : State) : Host.Outcome State Fault Refusal :=
  match s.sbTakes e r 0x06 with
  | (some box, t) =>
    let l := t.link e
    let lead := if isTray e then 0 else t.getF (leDie e) .ikl (leInst e) Reg.IKL_PHY_STATUS_LEAD
    let at_ (b : Nat) : Int := arrivals.getD b 0
    if t.lst e == stPin && l.probeAt != 0 && bitsOf box 6 8 == l.probeId % 256 then
      .next (t.setPins e (at_ lead - (l.probeAt - 1 : Nat) - bitsOf box 14 16) fun b => at_ b - at_ lead)
    else .next t
  | (none, t) => .next t

/-! ### Joint reset (R57) -/

/-- Assert the joint reset of an FP link: both ends leave what they do and wait in `RESET` (R57). -/
def State.assertFp (s : State) (f : Fin 4) : State :=
  let s1 := { s with fpLines := Tab.set {} s.fpLines f.val { asserted := true, since := s.time } }
  [fpA f, fpB f].foldl (fun t e =>
    if t.lst e == stOff || t.lst e == stRetired then t
    else if t.lst e == stReset then t.setLink e { t.link e with jointFree := false }
    else t.linkReturn e 0 (t.inService e) false) s1

/-- `FP_RESET_REQ` (R57): CR0 asserts the link's line; a Movement die relays the request over its own S link to CR0. -/
def execFpResetReq (e : LinkEnd) (r : SbSlot) (s : State) : Host.Outcome State Fault Refusal :=
  match s.sbTakesFirst e r 0x14 with
  | (some box, t) =>
    let f : Fin 4 := Fin.ofNat 4 (bitsOf box 14 2)
    match leDie e with
    | .cr _ => .next (t.assertFp f)
    | .mv m => .next (t.sbSend (spMv m 0) 0x14 (f.val * 2 ^ 14))
  | (none, t) => .next t

/-! ### Lane maps, repairs and retirements (R83, R98, R109, R146) -/

/-- `LANEMAP` (R98): the transmitter takes a lane map; it acknowledges every copy and keeps the first until its frame
boundary. -/
def execLanemap (e : LinkEnd) (r : SbSlot) (s : State) : Host.Outcome State Fault Refusal :=
  match s.sbTakesFirst e r 0x10 with
  | (some box, t) =>
    let b := bitsOf box 14 4
    let m : LaneMap := ⟨bitsOf box 18 5, bit box 23, bitsOf box 24 5, bit box 29, bit box 30⟩
    if b < nBundles e then .next (t.setBun e b { t.bun e b with txPend := some m, mapSeq := bitsOf box 6 8 + 1, txAckAt := 0 })
    else .next t
  | (none, t) => .next t

/-- `LANE_REPAIR` (R109): the transmitter acknowledges every copy and keeps the lane, the jewel and the latest E. -/
def execLaneRepair (e : LinkEnd) (r : SbSlot) (s : State) : Host.Outcome State Fault Refusal :=
  match s.sbTakesFirst e r 0x11 with
  | (some box, t) =>
    let b := bitsOf box 14 4
    let lane := bitsOf box 18 5
    let jewel := bitsOf box 23 1
    let x := t.bun e b
    let old := x.txRepairs.find? fun q => q.lane == lane && q.jewel == jewel
    let streams := match old with
      | some q => q.stream
      | none => decide (lane ∈ x.low)
    let sent := match old with
      | some q => q.sent
      | none => 0
    let rest := x.txRepairs.filter fun q => q.lane != lane
    if b < nBundles e then
      .next (t.setBun e b { x with txRepairs := rest ++ [⟨lane, jewel, bitsOf box 24 43, bitsOf box 6 8, sent, streams⟩] })
    else .next t
  | (none, t) => .next t

/-- `BUNDLE_RETIRE` (R83): the transmitting end takes a bundle-retire notice; it sends RETIRE in its next marker and stops
at the first frame boundary. -/
def execBundleRetire (e : LinkEnd) (r : SbSlot) (s : State) : Host.Outcome State Fault Refusal :=
  match s.sbTakesFirst e r 0x12 with
  | (some box, t) =>
    let b := bitsOf box 14 4
    if b < nBundles e then .next ((t.quiesce e [b]).stopNext e b) else .next t
  | (none, t) => .next t

/-- `SB_ACK` (R146): the sender stops repeating the message that the acknowledgement names. -/
def execSbAck (e : LinkEnd) (r : SbSlot) (s : State) : Host.Outcome State Fault Refusal :=
  match s.sbTakes e r 0x03 with
  | (some box, t) =>
    let l := t.link e
    let named (m : SbMsg) : Bool := m.mtype == bitsOf box 6 6 && m.mseq == bitsOf box 12 8
    match l.unacked.find? named with
    | none => .next t
    | some m =>
      let t1 := t.setLink e { l with unacked := l.unacked.filter (fun x => !named x),
                                     q := l.q.filter (fun x => !(named x && x.first != 0)) }
      .next (t1.ackEffect e m)
  | (none, t) => .next t

end Sys2Proof.Machine
end

