-- ==== Sys2Proof/Machine/Lanes.lean ====
section
/-! DEFINITION. What the transmit bumps of a link end carry: the drive of every lane in each training state, mode and lane map, and
the bits that follow from it (R63 to R70, R75, R80, R86, R91, R98, R109, R177, R178). -/

namespace Sys2Proof.Machine

/-- What a transmitter does with one lane. -/
inductive Drive where
  /-- High impedance (R80). -/
  | highZ
  /-- Statically low. -/
  | low
  /-- Scrambled all-zero data with a lane's code: the training pattern and the idle of a jewel (R65, R91). -/
  | idle (code : Nat)
  /-- The flit stream of a logical D or K lane, scrambled with that lane's code (R64, R68, R69). -/
  | data (lane : Nat)
  /-- The track lane in `LANETEST`: markers, and the training pattern in every other segment (R75). -/
  | trackTest
  /-- The track lane from `DESKEW` on: markers, sideband slots and idle segments (R71, R75). -/
  | track
  deriving DecidableEq, Repr

/-- The transmitter of an Ikiper end is off: it is in `OFF`, or its domain is (R80). -/
def State.txOff (s : State) (e : LinkEnd) : Bool := s.lst e == stOff || !s.powered (leDie e) (leBlk e)

/-- Whether CK of a bundle runs, from its module's clock generator (R61, R67, R80, R85, R86): not in near-end loopback, where
every bump is low, nor on a bundle that is retired. -/
def State.ckRuns (s : State) (e : LinkEnd) (b : Nat) : Bool :=
  !s.txOff e && moduleRuns (s.lst e) (moduleOf b) && s.linkMode e != 1 && !s.retired e b

/-- The logical lane whose stream a physical lane carries as transmitter: under the transmit map, or as the jewel of a repair whose
stream has begun (R64, R98, R109). -/
def State.txLogical (s : State) (e : LinkEnd) (b c : Nat) : Option Nat :=
  let x := s.bun e b
  match x.txRepairs.find? fun r => r.stream && nMain e + r.jewel == c with
  | some r => some r.lane
  | none => logicalLane e (s.useMapTx e b) c

/-- A lane that carries logical lane `c` in a state. -/
def mainDrive (st : Nat) (c : Nat) : Drive :=
  if st == stCalib then .idle c
  else if c == trackCode then (if st == stLanetest then .trackTest else .track)
  else if st == stLive || st == stDegraded then .data c
  else .idle c

/-- A lane of an Ikiper bundle as it is driven in mission mode. In `CALIB` and `LANETEST` every lane sends its own pattern; from
`DESKEW` on the transmit map stands, a replaced lane is low, and D and K lanes outside service send their scrambled idle
(log entry 165, DEDUCED). -/
def State.missionDrive (s : State) (e : LinkEnd) (b c : Nat) : Drive :=
  let st := s.lst e
  if st == stReset || st == stRetired || s.retired e b then .low
  else if st == stCalib || st == stLanetest || s.calOut e b then
    (if s.calOut e b then (match s.txLogical e b c with
      | some l => if l == trackCode then .track else .idle l
      | none => if nMain e ≤ c then .idle c else .low)
     else mainDrive st c)
  else if decide (c ∈ (s.bun e b).low) then .low
  else match s.txLogical e b c with
    | some l => mainDrive st l
    | none => if nMain e ≤ c then .idle c else .low

/-- How the transmitter drives lane `c` of bundle `b` of an Ikiper link (R80, R86): in loopback its bumps are low, in compliance
every lane sends scrambled zeros, with clock only every lane is low. -/
def State.drive (s : State) (e : LinkEnd) (b c : Nat) : Drive :=
  if s.txOff e then .highZ
  else match s.linkMode e with
    | 1 => .low
    | 2 => if decide (s.lst e < stCalib) then .low else .idle c
    | 3 => .low
    | _ => s.missionDrive e b c

/-- The 32 bits of the track lane in slot `k`: the marker in segment 0, a sideband slot in segments 8, 16, …, zeros scrambled in every
other one (R71); in `LANETEST` no sideband slots. -/
def State.trackBits (s : State) (e : LinkEnd) (b k : Nat) (sideband : Bool) : Nat :=
  let l := s.link e
  let part (seg : Nat) : Nat := bitsOf seg (32 * (k % 4)) 32
  if k < 4 then part (l.marks.getD b 0)
  else if sideband && k / 4 % 8 == 0 then part l.lastSeg
  else scrSpan trackCode (32 * k) 32

/-- The 32 bits, or two lane words, that a driven lane carries in slot `k` of a frame, with the codeword its bundle sends there. -/
def State.driveBits (s : State) (e : LinkEnd) (b k : Nat) (syms : List Nat) : Drive → Nat
  | .highZ => 0
  | .low => 0
  | .idle c => scrSpan c (32 * k) 32
  | .data l => slotOnLane syms l k
  | .trackTest => s.trackBits e b k false
  | .track => s.trackBits e b k true

/-- What the 21 lanes of an Ikiper bundle carry in slot `k` of a frame, with a flit in it. -/
def State.slotLanes (s : State) (e : LinkEnd) (b k header : Nat) (payload : List Byte) : List Nat :=
  let syms := flitSyms header payload
  (List.range 21).map fun c => s.driveBits e b k syms (s.drive e b c)

/-- What physical lane `c` of a tray port carries of codeword `j` of the frame now sent: zero on a lane it replaced
(R177, R178, R181, R195). -/
def State.trayLaneOut (s : State) (e : LinkEnd) (c j : Nat) : Nat :=
  match s.txLogical e 0 c with
  | some l => if l < 8 then cwOnLane (trayCodeword (s.link e).txStream j) l j else 0
  | none => 0

end Sys2Proof.Machine
end

