-- ==== Sys2Proof/Machine/Traffic.lean ====
section
/-! DEFINITION. Flits: routes between dies, the arbiter of a slot, decoding, scheduled landings and re-sends, credits,
acknowledgement and replay (R118 to R142, R152, R167 to R171, R180 to R192). -/

namespace Sys2Proof.Machine

/-! ### Routes and messages (R168, R192, R254) -/

/-- The link end of die `d` towards die `t` of the same package: the link between them, or the first link of the route
R168 gives. -/
def routeEnd (d t : Die) : Option LinkEnd :=
  match d, t with
  | .mv a, .mv b =>
    if b == a + 1 then some (.ikl (.mv a) 0)
    else if a == b + 1 then some (.ikl (.mv a) 1)
    else if a == b then none
    else if a == 0 || a == 1 then some (.ikl (.mv a) 0) else some (.ikl (.mv a) 1)
  | .mv a, .cr c => some (spMv a c)
  | .cr c, .mv b => some (spCrown b c)
  | .cr c, .cr c' => if c == c' then none else some (spCrown 0 c)

/-- The die of a die code. -/
def dieOfCode (n : Nat) : Option Die :=
  if h : n < 4 then some (.mv ⟨n, h⟩) else if n == 4 then some (.cr 0) else if n == 5 then some (.cr 1) else none

/-- The next link end of a message at die `d` for a die of a package: within the package by R168; to another package by
the tray route table, over the Crown die that has the port (R192). -/
def State.route (s : State) (d : Die) (pkg : Nat) (t : Die) : Option LinkEnd :=
  if pkg == s.pkgId then (if s.hasDie t then routeEnd d t else none)
  else match s.routes.find? (fun r => r.1 == pkg) with
    | none => none
    | some r =>
      let n : Fin 8 := Fin.ofNat 8 r.2
      if leDie (.tray n) == d then some (.tray n) else routeEnd d (leDie (.tray n))

/-- Queue a UC message on a channel of a link end: its flits in order, SOM on the first and EOM on the last. -/
def State.queueMsg (s : State) (e : LinkEnd) (chan sel : Nat) (flits : List (List Byte)) : State :=
  let l := s.link e
  let n := flits.length
  let fs := (List.range n).map fun i => (⟨chan, i == 0, i + 1 == n, sel, flits.getD i [], 0⟩ : UcFlit)
  s.setLink e { l with ucq := Tab.set [] l.ucq chan (Tab.get [] l.ucq chan ++ fs) }

/-- Send a UC message from die `d` to a die of a package; with no route it is lost. -/
def State.sendMsg (s : State) (d : Die) (pkg : Nat) (t : Die) (chan sel : Nat) (flits : List (List Byte)) : State :=
  match s.route d pkg t with
  | some e => s.queueMsg e chan sel flits
  | none => s

/-- Target tray address, origin die, origin package and context of a command flit (R254). -/
def cmdTarget (p : List Byte) : Nat := leNat ((p.drop 8).take 7) % 2 ^ 52
def cmdOrigin (p : List Byte) : Nat × Nat := ((p.getD 2 0).toNat % 8, (p.getD 3 0).toNat % 16)
def cmdCtx (p : List Byte) : Nat := (p.getD 4 0).toNat % 32

/-- Where a message goes, from its channel and command flit: requests and posted writes to their target, responses and
notices to their origin (R254): package and die code. -/
def msgDest (chan : Nat) (p : List Byte) : Nat × Nat :=
  if chan == 1 || chan == 3 then (cmdTarget p / 2 ^ 48, cmdTarget p / 2 ^ 45 % 8) else ((cmdOrigin p).2, (cmdOrigin p).1)

/-! ### Slots (R68, R128, R182) -/

/-- The reference beat of a slot in its frame (R68, R182). -/
def slotBeat (e : LinkEnd) (k : Nat) : Nat := if isTray e then 8 + 51 * k / 25 else 2 * k

/-- Slots of a frame (R68, R181). -/
def slotsOf (e : LinkEnd) : Nat := if isTray e then 1000 else 1024

/-- The slot that begins at a beat of the frame, if one does. -/
def slotAtBeat (e : LinkEnd) (r : Nat) : Option Nat :=
  if isTray e then
    let k := (r - 8) * 25 / 51
    [k, k + 1].find? fun j => decide (8 ≤ r ∧ j < 1000 ∧ slotBeat e j = r)
  else if r % 2 == 0 then some (r / 2) else none

/-! ### Credits and pools (R134, R135, R191) -/

/-- The buffer pool of a channel at the receiver (R134, R191). -/
def poolOf (e : LinkEnd) (chan : Nat) : Nat :=
  if isTray e then [512, 512, 64, 256].getD chan 0
  else if isFp e then [1024, 1024, 128, 256].getD chan 0 else [256, 256, 64, 128].getD chan 0

/-- Available credit of a channel (R135). -/
def State.credit (s : State) (e : LinkEnd) (chan : Nat) : Nat :=
  let l := s.link e
  let used := (Tab.get 0 l.sent chan + 65536 - Tab.get 0 l.reported chan % 65536) % 65536
  poolOf e chan - used

/-- Retention of the holding store, acceptance window of a re-send, UC timeout (R129, R132, R139, R187). -/
def State.scHoldBeats (s : State) (e : LinkEnd) : Nat := (if isTray e then 2 * s.latL e else 0) + 4096
def State.scAccept (s : State) (e : LinkEnd) : Nat := (if isTray e then 2 * s.latL e else 0) + 2047
def State.ucTimeout (s : State) (e : LinkEnd) : Nat := (if isTray e then 2 * s.latL e else 0) + 3200

/-- The clock of the UC timers, which stands still in a hack (R49, R139). -/
def State.ucClock (s : State) : Nat := s.time - s.hack.frozen

/-! ### Sending a slot (R127 to R130, R133, R136, R141, R167, R198) -/

/-- Send a flit in the slot of a frame that begins now, and note what every lane carries of it. -/
def State.sendFlit (s : State) (e : LinkEnd) (b slot header : Nat) (payload : List Byte) : State :=
  if isTray e then
    let field := trayFlitField header payload
    let s1 := s.putStream e (s.frame (leDie e)) (trayFlitPos slot) field
    s1.setLink e { s1.link e with lastTx := some ⟨b, header, payload, [field]⟩ }
  else s.setLink e { s.link e with lastTx := some ⟨b, header, payload, s.slotLanes e b slot header payload⟩ }

/-- Send NULL: scrambled zeros, as in every slot of a hack (R70, R152). -/
def State.sendNull (s : State) (e : LinkEnd) (b slot : Nat) : State := s.sendFlit e b slot 0 (List.replicate 64 0)

/-- The header of a UC flit (R121). -/
def ucHeader (f : UcFlit) (seq : Nat) : Nat := 2 + f.chan % 4 * 4 + b2n f.som * 16 + b2n f.eom * 32 + seq % 512 * 128

/-- Send a new UC flit on a bundle: it takes the next sequence number and is kept until acknowledged (R136). -/
def State.sendUc (s : State) (e : LinkEnd) (b slot : Nat) (f : UcFlit) : State :=
  let x := s.bun e b
  let s1 := s.setBun e b { x with seq := (x.seq + 1) % 512, unacked := x.unacked ++ [⟨x.seq, f, s.ucClock, 0⟩] }
  s1.sendFlit e b slot (ucHeader f x.seq) f.payload

/-- What stands in `txOpen` for the message of a flit. -/
def UcFlit.key (f : UcFlit) : Nat × Nat := (f.via + 1, f.sel)

/-- The message of a bundle and channel that has begun and not ended. -/
def LinkSt.openMsg (l : LinkSt) (b chan : Nat) : Nat × Nat := Tab.get (0, 0) l.txOpen (4 * b + chan)

/-- The bundle of a flit (R141): the one on which its message began, while that is in service; else the one that the list of the
bundles in service chooses; none with no bundle in service. -/
def State.bundleFor (s : State) (e : LinkEnd) (f : UcFlit) : Option Nat :=
  let bs := s.serving e
  let began := if f.som then none else bs.find? fun b => (s.link e).openMsg b f.chan == f.key
  match began with
  | some b => some b
  | none => bs[(f.sel + f.chan) % bs.length]?

/-- The first flit of a list that a bundle may send: it is the bundle's, no flit of its message or of one with the same choice waits
before it, and no other message of its channel is under way on the bundle. -/
def State.nextFlit (s : State) (e : LinkEnd) (b : Nat) (ahead q : List UcFlit) (may : UcFlit → Bool) : Option Nat :=
  (List.range q.length).find? fun i =>
    match q[i]? with
    | none => false
    | some f =>
      let o := (s.link e).openMsg b f.chan
      let same (g : UcFlit) : Bool := g.chan == f.chan && g.key == f.key
      may f && s.bundleFor e f == some b && (o.1 == 0 || o == f.key) && !(ahead ++ q.take i).any same

/-- A message goes on on a bundle, and on no other, with a flit sent; its last flit ends it (R141). -/
def LinkSt.noteOpen (l : LinkSt) (n b : Nat) (f : UcFlit) : LinkSt :=
  let cleared := (List.range n).foldl (fun (t : Tab (Nat × Nat)) k =>
    if Tab.get (0, 0) t (4 * k + f.chan) == f.key then Tab.set (0, 0) t (4 * k + f.chan) (0, 0) else t) l.txOpen
  { l with txOpen := if f.eom then cleared else Tab.set (0, 0) cleared (4 * b + f.chan) f.key }

/-- The order in which the arbiter looks at the channels (R167): RSP, PW, MSG, REQ, with MSG, then REQ, ahead once its
counter has run out (log entry 30, DEDUCED). -/
def State.chanOrder (s : State) (e : LinkEnd) : List Nat :=
  let l := s.link e
  let d := leDie e
  let ex := s.isF d .gtr 0 Reg.GTR_CTL_EXPERT
  let msgN := if ex then s.getF d .gtr 0 Reg.GTR_ARB_MSG_N else 64
  let reqN := if ex then s.getF d .gtr 0 Reg.GTR_ARB_REQ_N else 64
  (if msgN ≤ l.msgRun then [2] else []) ++ (if reqN ≤ l.reqRun then [3] else []) ++ [0, 1, 2, 3]

/-- The flit of a channel that the slot of a bundle may send, with credit. While flits wait to be sent again, only the rest of a
message under way may go before them, since its bundle carries no other till it ends (log entry 147, DESIGN CHOICE). -/
def State.readyFlit (s : State) (e : LinkEnd) (b chan : Nat) : Option (Nat × UcFlit) :=
  let l := s.link e
  let q := Tab.get [] l.ucq chan
  if s.credit e chan == 0 then none
  else match s.nextFlit e b l.requeue q (fun f => l.requeue == [] || (!f.som && l.openMsg b f.chan == f.key)) with
    | some i => q[i]?.map fun f => (i, f)
    | none => none

/-- Count a new flit in the arbiter's counters (R167), which are one pair for all the bundles of a link end
(log entry 148, DESIGN CHOICE). -/
def LinkSt.count (l : LinkSt) (chan : Nat) : LinkSt :=
  let m := if chan == 2 then 0 else if chan ≤ 1 then l.msgRun + 1 else l.msgRun
  let r := if chan == 3 then 0 else l.reqRun + 1
  { l with msgRun := m, reqRun := r, sent := Tab.set 0 l.sent chan ((Tab.get 0 l.sent chan + 1) % 65536) }

/-- The receiver's counts of flits passed have changed: an FP end keeps one CREDIT pending (R135). -/
def State.creditChanged (s : State) (e : LinkEnd) : State :=
  if isFp e && !(s.link e).q.any (fun m => m.mtype == 2) then s.sbSend e 0x02 0 else s

/-- The link end of a code. -/
def leOfCode (n : Nat) : LinkEnd :=
  if 32 ≤ n then .tray (Fin.ofNat 8 n) else .ikl ((dieOfCode (n / 4)).getD cr0) (Fin.ofNat 4 n)

/-- One flit more of a channel has left a link end's pool: its credit returns to the partner (R135). -/
def State.returnCredit (s : State) (e : LinkEnd) (chan : Nat) : State :=
  let l := s.link e
  (s.setLink e { l with passed := Tab.set 0 l.passed chan ((Tab.get 0 l.passed chan + 1) % 65536) }).creditChanged e

/-- The onward link has accepted a flit in transit, so its credit returns where it came from (R169)
(log entry 13, DEDUCED). -/
def State.leaveTransit (s : State) (f : UcFlit) : State :=
  if f.via == 0 then s else s.returnCredit (leOfCode ((f.via - 1) / 16)) f.chan

/-- New UC flits are held on a link end: while its set of bundles changes, and on a tray port from the failure of a lane until its
repair (R142, R198). -/
def State.ucHeld (s : State) (e : LinkEnd) : Bool :=
  let x := s.bun e 0
  s.lf e Reg.IKL_LL_STATUS_UC_QUIESCE Reg.TRYP_LL_STATUS_UC_QUIESCE == 1 || (isTray e && (x.repairs != [] || x.txRepairs != []))

/-- Send a flit that waits to be sent again, else a new one by the arbiter, or NULL (R141, R142, R167, R506). -/
def State.sendNew (s : State) (e : LinkEnd) (b slot : Nat) : State :=
  let l := s.link e
  let n := nBundles e
  match s.nextFlit e b [] l.requeue (fun _ => true) with
  | some i =>
    let f := l.requeue.getD i ⟨0, true, true, 0, [], 0⟩
    (s.setLink e ({ l with requeue := l.requeue.eraseIdx i }.noteOpen n b f)).sendUc e b slot f
  | none =>
    match (s.chanOrder e).findSome? (fun c => (s.readyFlit e b c).map fun p => (c, p)) with
    | none => s.sendNull e b slot
    | some (c, i, f) =>
      let q := (Tab.get [] l.ucq c).eraseIdx i
      ((s.setLink e (({ l with ucq := Tab.set [] l.ucq c q }.count c).noteOpen n b f)).sendUc e b slot f).leaveTransit f

/-- Send the next flit of a replay: it is counted as it goes out, but not while a tray lane is being repaired; one replayed more often
than `REPLAY_MAX` retires the bundle (R138 to R140, R198). -/
def State.sendReplay (s : State) (e : LinkEnd) (b slot : Nat) (u : TxUc) : State :=
  let x := s.bun e b
  let v := { u with slotAt := s.ucClock, replays := if isTray e && s.ucHeld e then u.replays else u.replays + 1 }
  let put (w : TxUc) : TxUc := if w.seq == u.seq then v else w
  let s1 := (s.setBun e b { x with replayQ := x.replayQ.drop 1, unacked := x.unacked.map put }).sendFlit e b slot
    (ucHeader u.flit u.seq) u.flit.payload
  if s.replayMax e < v.replays then (s1.bumpLf e Reg.IKL_UC_ERR_LIMIT Reg.TRYP_UC_ERR_LIMIT).retireBundle e b 0x3008 else s1

/-- A UC-capable slot (R167): a pending loss notice, which is a new UC flit and waits as one, then a replay, then a new flit. A
forwarded notice counts as it is sent (R173). -/
def State.sendUcSlot (s : State) (e : LinkEnd) (b slot : Nat) : State :=
  let l := s.link e
  let x := s.bun e b
  let room := !s.ucHeld e && decide (x.unacked.length < 255) && decide (b ∈ s.serving e)
  match (if room && l.requeue == [] then l.notices.head? else none) with
  | some (p, fwd) =>
    let s1 := if fwd then s.bumpF (leDie e) .gtr 0 Reg.GTR_NOTICE_FORWARDED else s
    (s1.setLink e { s1.link e with notices := l.notices.drop 1 }).sendUc e b slot ⟨2, true, true, 0, p, 0⟩
  | none =>
    match x.unacked.find? fun u => x.replayQ.head? == some u.seq with
    | some u => s.sendReplay e b slot u
    | none => if room then s.sendNew e b slot else s.sendNull e b slot

/-- The pending re-sends that are due: their SC_NAK was delivered at least 2 beats ago (R130). -/
def State.dueResends (s : State) (e : LinkEnd) : List ScHeld :=
  ((s.link e).resend.filter fun p => decide (p.2 + 2 ≤ s.time)).map (·.1)

/-- The re-send a REPAIR slot of a bundle takes (R130): the oldest of its own; else the oldest one whose bundle is out of
service, when no lower bundle has this slot free. -/
def State.pickResend (s : State) (e : LinkEnd) (b : Nat) : Option ScHeld :=
  let due := s.dueResends e
  let bs := s.sending e
  match due.find? (fun h => h.bundle == b) with
  | some h => some h
  | none =>
    let lower := bs.filter (· < b)
    let taken := lower.all fun c => due.any (fun h => h.bundle == c) || (s.bun e c).lastSlot == s.time + 1
    if taken then due.find? (fun h => !decide (h.bundle ∈ bs)) else none

/-- Send an SC flit of a transfer: its granule, or NULL past its end; it is kept in the holding store (R127, R129, R157). -/
def State.sendSc (s : State) (e : LinkEnd) (b tag slot frame : Nat) : State :=
  if (s.link e).scStop then s.sendNull e b slot
  else match s.scPlace e 0 tag b slot frame with
    | none => s.sendNull e b slot
    | some (pa, _) =>
      let l := s.link e
      let p := s.rdBytes pa 64
      let h : ScHeld := ⟨b, slot, frame, s.beat (leDie e), tag, p⟩
      (s.setLink e { l with hold := l.hold ++ [h] }).sendFlit e b slot (1 + tag % 16384 * 4) p

/-- A REPAIR slot (R130, R152): a pending re-send, else as any UC-capable slot. -/
def State.sendRepair (s : State) (e : LinkEnd) (b slot : Nat) : State :=
  match s.pickResend e b with
  | some h =>
    let l := s.link e
    (s.setLink e { l with resend := l.resend.eraseP (fun p => p.1 == h) }).sendFlit e b slot
      (1 + h.slot % 1024 * 4 + h.bundle % 16 * 4096) h.payload
  | none => s.sendUcSlot e b slot

/-- `SLOT_TRANSMIT` (R70, R127 to R130, R133, R152, R156, R167): at the beat on which a slot begins, a bundle that sends puts out
what the slot's mark and the arbiter give it, and zeros in a hack, a NOP or a CAL slot. -/
def execSlotTransmit (e : LinkEnd) (b : Fin 16) (s : State) : Host.Outcome State Fault Refusal :=
  let d := leDie e
  match slotAtBeat e (s.beat d % frameBeats) with
  | none => .next s
  | some slot =>
    if !s.inService e || !decide (b.val ∈ s.sending e) || s.isF cr0 .pwr 0 Reg.PWR_STATUS_PF then .next s
    else
      let frame := s.frame d
      let s0 := s.setBun e b { s.bun e b with lastSlot := s.time + 1 }
      match s.markOf e 0 b slot frame with
      | .sc tag => .next (s0.sendSc e b tag slot frame)
      | .repair => .next (s0.sendRepair e b slot)
      | .uc => .next (s0.sendUcSlot e b slot)
      | _ => .next (s0.sendNull e b slot)

/-! ### Receiving a flit (R105 to R108, R120 to R122, R127, R132, R137, R152) -/

/-- The lane a symbol of a codeword travels on: D0 to D15 are lanes 0 to 15, K0 and K1 lanes 16 and 17 (R118). -/
def symLane (i : Nat) : Nat := i / 4

/-- The D and K lanes of a bundle that are erased: those declared failed (R108). -/
def BundleSt.gone18 (x : BundleSt) : List Nat := x.failed.filter (· < 18)

/-- The lanes the decoder takes as erased: those declared failed, or the one the locator tries (R107, R108). -/
def BundleSt.erasures (x : BundleSt) : List Nat := if x.gone18 != [] then x.gone18 else if x.loc != 0 then [x.loc - 1] else []

/-- The symbols of lanes. -/
def laneSyms (lanes : List Nat) : List Nat := (List.range 72).filter fun i => decide (symLane i ∈ lanes)

/-- What a bundle's lanes carried in a slot, as the receiver decodes it: lanes by the receive map, descrambled, the lanes `gone`
erased (R64, R69, R118 to R120). -/
def State.rsFlitOf (s : State) (e : LinkEnd) (b slot : Nat) (gone lanes : List Nat) : Option (List Nat × List Nat) :=
  let m := s.useMap e b
  let word (l : Nat) : Nat := Nat.xor (lanes.getD (physLane e m l) 0 % 2 ^ 32) (scrSpan l (32 * slot) 32)
  rsFlit.decode (symsOfLanes ((List.range 18).map word)) (laneSyms gone)

/-- Count the symbols corrected in a flit of an Ikiper bundle: the flit once, each symbol on its lane (R105)
(log entry 29, DEDUCED). -/
def State.countCorrected (s : State) (e : LinkEnd) (b : Nat) (bad : List Nat) : State :=
  if bad == [] then s
  else
    bad.foldl (fun t i => t.countLane e b (physLane e (t.useMap e b) (symLane i)) 1)
      (s.bumpF (leDie e) .ikl (leInst e) Reg.IKL_FEC_CORR_CORR)

/-- The locator and the counts after a flit that decoded, with the symbols corrected in it: the lane whose erasure let it decode has
failed (R105, R107). -/
def State.goodFlit (s : State) (e : LinkEnd) (b : Nat) (bad : List Nat) : State :=
  let x := s.bun e b
  let s1 := s.setBun e b { x with uncorr := 0, loc := 0 }
  let s2 := if x.gone18 == [] && x.loc != 0 then s1.failLane e b (physLane e (s1.rxMap e b) (x.loc - 1)) else s1
  s2.countCorrected e b bad

/-- The locator after a flit that did not decode: the fourth in a row starts it, and each further one moves it on (R107). -/
def State.badFlit (s : State) (e : LinkEnd) (b : Nat) : State :=
  let x := s.bun e b
  let s1 := s.bumpF (leDie e) .ikl (leInst e) Reg.IKL_LINK_ERR_UNCORR
  if x.gone18 != [] then s1
  else if x.loc != 0 then s1.setBun e b (if x.loc == 18 then { x with loc := 0, uncorr := 0 } else { x with loc := x.loc + 1 })
  else if x.uncorr + 1 == 4 then
    (s1.setBun e b { x with uncorr := 0, loc := 1 }).bumpF (leDie e) .ikl (leInst e) Reg.IKL_LINK_ERR_LOCATE
  else s1.setBun e b { x with uncorr := x.uncorr + 1 }

/-- A flit as a slot delivers it: header and payload, or none where it is uncorrectable, with all that is counted (R105, R107,
R120, R180). -/
def State.decodeFlit (s : State) (e : LinkEnd) (b slot frame : Nat) (lanes : List Nat) : Option (Nat × List Byte) × State :=
  if isTray e then
    match s.takeField e frame (trayFlitPos slot) 528 lanes with
    | (none, s1) => (none, s1)
    | (some (f, corrected), s1) =>
      (some (bitsOf f 0 16, (List.range 64).map fun i => BitVec.ofNat 8 (bitsOf f (16 + 8 * i) 8)),
        if corrected then s1.bumpF (leDie e) .trayPort (leInst e) Reg.TRYP_FEC_CORR_CORR else s1)
  else
    match s.rsFlitOf e b slot (s.bun e b).erasures lanes with
    | none => (none, s.badFlit e b)
    | some (w, bad) => (some (headerOf w, payloadOf w), s.goodFlit e b bad)

/-- Write an SC flit on its landing granule, and note when it is the last granule of its transfer (R127, R157, R250)
(log entry 47, DEDUCED). -/
def State.landSc (s : State) (e : LinkEnd) (tag pa : Nat) (last : Bool) (p : List Byte) : State :=
  let d := leDie e
  let s1 := s.wrGranule pa p
  if last then { s1 with landed := Tab.set 0 s1.landed (2 ^ 14 * dieCode d + tag) (s1.beat d + 1) } else s1

/-- A flit is missing from an SC slot: an SC_NAK leaves in the next two queue slots, and the receiver waits for the re-send
until its deadline (R129, R132). -/
def State.nakSc (s : State) (e : LinkEnd) (b slot frame tag : Nat) : State :=
  match s.scPlace e 1 tag b slot frame with
  | none => s
  | some (pa, ctx, last) =>
    let w : ScWait := ⟨b, slot, tag, pa, ctx, last, s.beat (leDie e) + s.scAccept e⟩
    (s.setLink e { s.link e with wait := (s.link e).wait ++ [w] }).sbSend e 0x04
      (b % 16 * 2 ^ 6 + slot % 1024 * 2 ^ 10 + frame % 2 * 2 ^ 20) 0 2

/-- A re-send is received: counted, and landed for the oldest wait of its bundle and slot within the deadline (R130,
R132). -/
def State.takeResend (s : State) (e : LinkEnd) (header : Nat) (p : List Byte) : State :=
  let slot := bitsOf header 2 10
  let b := bitsOf header 12 4
  let s1 := s.bumpLf e Reg.IKL_SC_ERR_RESENT Reg.TRYP_SC_ERR_RESENT
  let l := s1.link e
  let mine (w : ScWait) : Bool := w.bundle == b && w.slot == slot
  match l.wait.find? mine with
  | none => s1
  | some w =>
    if s.beat (leDie e) ≤ w.deadline then (s1.setLink e { l with wait := l.wait.eraseP mine }).landSc e w.tag w.land w.last p else s1

/-- Report a UC-capable slot that failed: NAK, and nothing more until the sequence expected arrives (R137). -/
def State.nakUc (s : State) (e : LinkEnd) (b : Nat) : State := s.setBun e b { s.bun e b with nak := true, drop := true }

/-- Where the message that a flit begins goes: the code plus one of the link end it leaves by, 48 for this die; the number that chooses
its bundle there; and its `via` (R168, R192). -/
def State.msgRoute (s : State) (e : LinkEnd) (b : Nat) (f : UcFlit) : Nat × Nat × Nat :=
  let d := leDie e
  let dest := msgDest f.chan f.payload
  let sel := cmdTarget f.payload / 2 ^ 12 % 256
  let via := 1 + 16 * leCode e + b
  match dieOfCode dest.2 with
  | none => (48, sel, via)
  | some t =>
    if dest.1 == s.pkgId && t == d then (48, sel, via)
    else match s.route d dest.1 t with
      | some o => (leCode o + 1, sel, via)
      | none => (48, sel, via)

/-- The bundle whose running message a flit of a channel continues: its own, or, where the message began on a bundle that has left
service, that one (R141, R142). -/
def State.runsOn (s : State) (e : LinkEnd) (b chan : Nat) : Nat :=
  let has (k : Nat) : Bool := (Tab.get (0, 0, 0) (s.link e).rxOpen (4 * k + chan)).1 != 0
  if has b then b else ((List.range (nBundles e)).find? fun k => has k && !decide (k ∈ s.serving e)).getD b

/-- An accepted UC flit goes to its sink, or to the queue of the onward link, where it holds its place until that link sends it
(R135, R168, R169). Loss notices consume no credit (R164). -/
def State.passFlit (s : State) (e : LinkEnd) (b : Nat) (f : UcFlit) : State :=
  let l := s.link e
  if f.chan == 2 && f.som && decide (leNat (f.payload.take 2) ∈ [0x47, 0x48]) then s.setLink e { l with lastRx := some f }
  else
    let k := if f.som then b else s.runsOn e b f.chan
    let (dst, sel, via) := if f.som then s.msgRoute e b f else Tab.get (0, 0, 0) l.rxOpen (4 * k + f.chan)
    let shut := Tab.set (0, 0, 0) l.rxOpen (4 * k + f.chan) (0, 0, 0)
    let s1 := s.setLink e { l with lastRx := some f,
                                   rxOpen := if f.eom then shut else Tab.set (0, 0, 0) shut (4 * b + f.chan) (dst, sel, via) }
    if dst != 0 && dst != 48 then
      let o := leOfCode (dst - 1)
      let lo := s1.link o
      s1.setLink o { lo with ucq := Tab.set [] lo.ucq f.chan (Tab.get [] lo.ucq f.chan ++ [{ f with sel := sel, via := via }]) }
    else s1.returnCredit e f.chan

/-- A UC flit that decoded (R137). -/
def State.takeUc (s : State) (e : LinkEnd) (b header : Nat) (p : List Byte) : State :=
  let x := s.bun e b
  let seq := bitsOf header 7 9
  let f : UcFlit := ⟨bitsOf header 2 2, bit header 4, bit header 5, 0, p, 0⟩
  if seq == x.es then (s.setBun e b { x with es := (x.es + 1) % 512, drop := false }).passFlit e b f
  else if x.drop then s
  else if (x.es + 512 - seq) % 512 ≤ 255 then s
  else s.nakUc e b

/-- A flit in a slot marked SC (R127). -/
def State.takeScSlot (s : State) (e : LinkEnd) (b slot frame tag : Nat) (got : Option (Nat × List Byte)) : State :=
  match got with
  | none => s.nakSc e b slot frame tag
  | some (header, p) =>
    if header % 4 == 0 then s
    else if header % 4 == 1 && bitsOf header 2 14 == tag then
      match s.scPlace e 1 tag b slot frame with
      | some (pa, _, last) => s.landSc e tag pa last p
      | none => s
    else (s.bumpLf e Reg.IKL_LL_ERR_TAG_MISMATCH Reg.TRYP_LL_ERR_TAG_MISMATCH).nakSc e b slot frame tag

/-- A flit in a UC-capable slot; an SC flit outside a REPAIR slot is discarded (log entry 17, DEDUCED). -/
def State.takeUcSlot (s : State) (e : LinkEnd) (b : Nat) (repair : Bool) (got : Option (Nat × List Byte)) : State :=
  match got with
  | none => s.nakUc e b
  | some (header, p) => match header % 4 with
    | 1 => if repair then s.takeResend e header p else s
    | 2 => s.takeUc e b header p
    | _ => s

/-- A CAL slot (R152): a flit that decodes with a corrected symbol, as its lanes were sampled beside their taps, counts in
`GTR.MARGIN`, plus in even frames. -/
def State.takeCal (s : State) (e : LinkEnd) (b slot frame : Nat) (lanes : List Nat) : State :=
  if isTray e then s
  else match s.rsFlitOf e b slot (s.bun e b).erasures lanes with
    | some (_, _ :: _) =>
      s.bumpF (leDie e) .gtr 0 (if frame % 2 == 0 then Reg.GTR_MARGIN_PLUS else Reg.GTR_MARGIN_MINUS) (4 * leInst e)
    | _ => s

/-- A delivered flit of the reserved class is discarded and counted (R121). -/
def badClass (got : Option (Nat × List Byte)) : Bool :=
  match got with
  | some (header, _) => header % 4 == 3
  | none => false

/-- A flit decoded in a slot of a mark goes where the mark says. -/
def State.takeSlotFlit (s : State) (e : LinkEnd) (b slot frame : Nat) (m : Mark) (got : Option (Nat × List Byte)) : State :=
  let s1 := if badClass got then s.bumpLf e Reg.IKL_LL_ERR_BAD_CLASS Reg.TRYP_LL_ERR_BAD_CLASS else s
  match m with
  | .sc tag => s1.takeScSlot e b slot frame tag got
  | .repair => s1.takeUcSlot e b true got
  | .uc => s1.takeUcSlot e b false got
  | _ => s1

/-- Nothing more is delivered from a bundle: its stop has come, or it is a tray port's that is retired (R83). -/
def State.rxStopped (s : State) (e : LinkEnd) (b : Nat) : Bool :=
  (isTray e && s.retired e b) || match (s.bun e b).rxStop with
    | some r => decide (r ≤ s.beat (leDie e))
    | none => false

/-- `FLIT_RECEIVE` (R69, R118 to R122, R127, R129, R132, R135, R137, R152, R156, R169, R177 to R181): on the delivery beat of a slot a
bundle's flit is decoded from what its lanes carried (32 bits of each of the 21 lanes; of a tray port's nine lanes, the codewords
that hold the flit's field), and lands, is accepted or is discarded, as the schedule of the slot's frame says; a slot that a
hack covers is discarded. -/
def execFlitReceive (e : LinkEnd) (b : Fin 16) (lanes : List Nat) (s : State) : Host.Outcome State Fault Refusal :=
  let d := leDie e
  let t := s.beat d - s.latL e
  match slotAtBeat e (t % frameBeats) with
  | none => .next s
  | some slot =>
    if s.beat d < s.latL e || !s.inService e || s.rxStopped e b || !decide (b.val < nBundles e) then .next s
    else
      let frame := t / frameBeats
      match s.markOf e 1 b slot frame with
      | .none => .next s
      | .cal => .next (s.takeCal e b slot frame lanes)
      | m =>
        let (got, s1) := s.decodeFlit e b slot frame lanes
        .next (s1.takeSlotFlit e b slot frame m got)

/-! ### SC re-sends and failures (R129 to R133) -/

/-- `SC_NAK` (R129, R130): the transmitter takes the first copy of an SC_NAK for a flit it still holds, and queues one
re-send. -/
def execScNak (e : LinkEnd) (r : SbSlot) (s : State) : Host.Outcome State Fault Refusal :=
  match s.sbTakes e r 0x04 with
  | (none, t) => .next t
  | (some box, t) =>
    let l := t.link e
    let mine (h : ScHeld) : Bool := h.bundle == bitsOf box 6 4 && h.slot == bitsOf box 10 10 && h.frame % 2 == bitsOf box 20 1
    match l.hold.reverse.find? mine with
    | none => .next t
    | some h =>
      if decide ((h.bundle, h.slot, h.frame) ∈ l.naked) then .next t
      else .next (t.setLink e { l with resend := l.resend ++ [(h, t.time)], naked := l.naked ++ [(h.bundle, h.slot, h.frame)] })

/-- `SC_HOLD_EXPIRY` (R129, R187): flits leave the holding store when their retention has passed. -/
def execScHoldExpiry (e : LinkEnd) (s : State) : Host.Outcome State Fault Refusal :=
  let l := s.link e
  let keep (h : ScHeld) : Bool := decide (s.beat (leDie e) < h.slotBeat + s.scHoldBeats e)
  let held (k : Nat × Nat × Nat) : Bool := l.hold.any fun h => keep h && k == (h.bundle, h.slot, h.frame)
  .next (s.setLink e { l with hold := l.hold.filter keep, resend := l.resend.filter (fun p => keep p.1),
                              naked := l.naked.filter held })

/-- An SC delivery failure (R132): the landing granule is poisoned, RC 0x4004 is logged with the owner's context, and the
context faults. -/
def State.scFail (s : State) (e : LinkEnd) (pa ctx : Nat) : State :=
  let s1 := ((s.setPoison pa true).bumpLf e Reg.IKL_SC_ERR_DOUBLE Reg.TRYP_SC_ERR_DOUBLE).logLink e 0x4004 [] ctx
  let s2 := match leDie e with
    | .mv m => s1.bumpF (.mv m) .mem 0 Reg.MEM_POISON_MADE
    | .cr _ => s1
  s2.ctxFault ctx 0x4004

/-- `SC_RESEND_DEADLINE` (R132): re-sends not delivered by their deadline are SC delivery failures. -/
def execScResendDeadline (e : LinkEnd) (s : State) : Host.Outcome State Fault Refusal :=
  let l := s.link e
  let late (w : ScWait) : Bool := decide (w.deadline < s.beat (leDie e))
  let s1 := s.setLink e { l with wait := l.wait.filter (fun w => !late w) }
  .next ((l.wait.filter late).foldl (fun t w => t.scFail e w.land w.ctx) s1)

/-- A tray port's cable is lost and the loss has not joined its Crown die's tray loss set (R207, R208). -/
def State.cableLost (s : State) (n : Fin 8) : Bool :=
  let i := s.cableBit n
  !s.inService (.tray n) && (s.die (leDie (.tray n))).losses.any fun l => !l.joined && l.link == 16 + i / 8 && l.bundle == i % 8

/-- A slot of a frame is lost to a bundle out of service: its delivery would come at or after the beat at which the bundle, retired
or recalibrating, stopped (R83, R133); on a tray port, while its cable is lost (R208). -/
def State.slotLost (s : State) (e : LinkEnd) (b slot frame : Nat) : Bool :=
  match e with
  | .tray n => s.cableLost n
  | .ikl _ _ => match (s.bun e b).rxStop with
    | some r => decide (r ≤ frame * frameBeats + slotBeat e slot + s.latL e)
    | none => s.calOut e b || s.retired e b

/-- The SC slots of a frame that the schedule in effect gives to bundles out of service: landing granule, context, tag
(log entry 31, DEDUCED). -/
def State.lostSc (s : State) (e : LinkEnd) (frame : Nat) : List (Nat × Nat × Nat) :=
  ((List.range (nBundles e)).map fun b => (List.range (slotsOf e)).filterMap fun k =>
    if !s.slotLost e b k frame then Option.none
    else match s.markOf e 1 b k frame with
      | .sc tag => (s.scPlace e 1 tag b k frame).map fun p => (p.1, p.2.1, tag)
      | _ => Option.none).flatten

/-- `SC_LOST_BUNDLE_REPORT` (R84, R133, R208): once a frame, until the fallback takes effect, each transfer scheduled on a
bundle out of service is reported as an SC delivery failure; its granules of the frame just ended are poisoned. -/
def execScLostBundleReport (e : LinkEnd) (s : State) : Host.Outcome State Fault Refusal :=
  let d := leDie e
  let f := s.frame d
  if !s.atFrame d || f == 0 || (s.link e).lostRep == f then .next s
  else
    let lost := s.lostSc e (f - 1)
    let s0 := s.setLink e { s.link e with lostRep := f }
    let s1 := lost.foldl (fun t p => t.setPoison p.1 true) s0
    let owners := lost.foldl (fun l p => if l.any (fun q => q.2.2 == p.2.2) then l else l ++ [p]) []
    .next (owners.foldl (fun t p => t.scFail e p.1 p.2.1) s1)

/-! ### UC acknowledgement and replay (R138 to R142, R506) -/

/-- Start a replay of a bundle from its oldest unacknowledged flit (R138, R139). -/
def State.startReplay (s : State) (e : LinkEnd) (b : Nat) (timeout : Bool) : State :=
  let x := s.bun e b
  let s1 := (s.setBun e b { x with replayQ := x.unacked.map (·.seq) }).bumpLf e Reg.IKL_UC_ERR_REPLAY Reg.TRYP_UC_ERR_REPLAY
  if timeout then s1.bumpLf e Reg.IKL_UC_ERR_TIMEOUT Reg.TRYP_UC_ERR_TIMEOUT else s1

/-- Free the flits a UC_ACK names (R138). -/
def BundleSt.acked (x : BundleSt) (ack : Nat) : Option (Nat × BundleSt) :=
  let first := match x.unacked with
    | u :: _ => u.seq
    | [] => x.seq
  let seqs := (first + 511) % 512 :: x.unacked.map (·.seq)
  match seqs.findIdx? (fun q => q % 256 == ack) with
  | none => none
  | some i =>
    let un := x.unacked.drop i
    let waits (q : Nat) : Bool := un.any fun u => u.seq == q
    some ((seqs.getD i 0 + 1) % 512, { x with unacked := un, replayQ := x.replayQ.filter waits })

/-- A UC_ACK that comes now reports the final expected sequence of a bundle (R142, R506): the link returns from service, or the bundle
is out and what it sent last has had the time to arrive and to be reported. -/
def State.ackFinal (s : State) (e : LinkEnd) (b : Nat) : Bool :=
  let l := s.link e
  let x := l.bundle b
  (l.returning && !s.inService e) ||
    (decide (b ∈ l.leaving) && !x.dying && x.stopAt.isNone && decide (x.gone - 1 + 2 * s.latL e + 8 ≤ s.time))

/-- The part of a UC_ACK for one bundle (R138, R142). -/
def State.takeAck (s : State) (e : LinkEnd) (b ack : Nat) (nak : Bool) : State :=
  match (s.bun e b).acked ack with
  | none => s
  | some (es, y) =>
    let out := decide (b ∈ (s.link e).leaving) || (s.link e).returning
    let y1 := { y with txFinal := y.txFinal || s.ackFinal e b }
    if nak && y.unacked != [] && !out && !(y.replayQ != [] && y.nakSeen == es + 1) then
      (s.setBun e b { y1 with nakSeen := es + 1 }).startReplay e b false
    else s.setBun e b y1

/-- One bundle of a UC_ACK; where VALID is clear for a bundle of a link that returns, its receiver holds no sequence of it, and what
this end keeps is sent again whole (log entry 135, DESIGN CHOICE). -/
def State.takeAckOf (s : State) (e : LinkEnd) (b ack : Nat) (valid nak : Bool) : State :=
  if nBundles e ≤ b then s
  else if valid then s.takeAck e b ack nak
  else if (s.link e).returning && !s.inService e then s.setBun e b { s.bun e b with txFinal := true }
  else s

/-- `UC_ACK` (R138, R140, R142, R506): the transmitter frees what is acknowledged in a group of eight bundles and replays where
a NAK stands. -/
def execUcAck (e : LinkEnd) (r : SbSlot) (s : State) : Host.Outcome State Fault Refusal :=
  match s.sbTakes e r 0x01 with
  | (none, t) => .next t
  | (some box, t) =>
    .next ((List.range 8).foldl (fun (u : State) i =>
      u.takeAckOf e (8 * bitsOf box 6 1 + i) (bitsOf box (8 + 8 * i) 8) (bit box (72 + i)) (bit box (80 + i))) t)

/-- `CREDIT` (R135): the transmitter takes the counts the receiver reports. -/
def execCredit (e : LinkEnd) (r : SbSlot) (s : State) : Host.Outcome State Fault Refusal :=
  match s.sbTakes e r 0x02 with
  | (none, t) => .next t
  | (some box, t) =>
    let put (v : Tab Nat) (c : Nat) : Tab Nat := Tab.set 0 v c (bitsOf box (6 + 16 * c) 16)
    .next (t.setLink e { t.link e with reported := (List.range 4).foldl put (t.link e).reported })

/-- `UC_REPLAY_TIMEOUT` (R139, R187): a flit unacknowledged for its time replays the bundle from its oldest flit. -/
def execUcReplayTimeout (e : LinkEnd) (b : Fin 16) (s : State) : Host.Outcome State Fault Refusal :=
  let x := s.bun e b
  let late := x.unacked.any fun u => decide (u.slotAt + s.ucTimeout e ≤ s.ucClock)
  if s.inService e && late && x.replayQ == [] && decide (b.val ∈ s.sending e) then .next (s.startReplay e b.val true) else .next s

/-- A bundle whose flits are queued again: its next flit takes the sequence its partner expects (log entry 146, DEDUCED). -/
def BundleSt.requeued (x : BundleSt) : BundleSt :=
  { x with seq := (x.unacked.head?.map (·.seq)).getD x.seq, unacked := [], replayQ := [], txFinal := false }

/-- `UC_REQUEUE` (R142): once every bundle in service is drained and every leaving bundle's final sequence is held, its
flits are queued again in order, ahead of new ones, and UC resumes. -/
def execUcRequeue (e : LinkEnd) (s : State) : Host.Outcome State Fault Refusal :=
  let l := s.link e
  let busy := s.lf e Reg.IKL_LL_STATUS_UC_QUIESCE Reg.TRYP_LL_STATUS_UC_QUIESCE == 1
  let drained := (s.serving e).all fun b => (l.bundle b).unacked == []
  let known := l.leaving.all fun b => (l.bundle b).txFinal
  if busy && drained && known then
    let again := (l.leaving.map fun b => (l.bundle b).unacked.map (·.flit)).flatten
    let l1 := l.leaving.foldl (fun m b => m.setBundle b (m.bundle b).requeued) l
    .next ((s.setLink e { l1 with requeue := l1.requeue ++ again, leaving := [] }).setLf e Reg.IKL_LL_STATUS_UC_QUIESCE
      Reg.TRYP_LL_STATUS_UC_QUIESCE 0)
  else .next s

end Sys2Proof.Machine
end

