-- ==== Sys2Proof/Machine/Tray.lean ====
section
/-! DEFINITION. Tray ports before training: beacons, blocks, and the partner state machine (R199 to R203). -/

namespace Sys2Proof.Machine

/-- A field of a tray port. -/
def State.pf (s : State) (n : Fin 8) (f : Fld) : Nat := s.getF (leDie (.tray n)) .trayPort (leInst (.tray n)) f

/-- Put a field of a tray port. -/
def State.setPf (s : State) (n : Fin 8) (f : Fld) (v : Nat) : State :=
  s.setF (leDie (.tray n)) .trayPort (leInst (.tray n)) f v

/-- `TRAY_ID` of the Crown die of a port. -/
def State.trayId (s : State) (n : Fin 8) : Nat := s.getF (leDie (.tray n)) .tray 0 Reg.TRY_TRAY_ID

/-- Bits 0 to 223 of the beacon block of a port (R200). -/
def State.blockBody (s : State) (n : Fin 8) : Nat :=
  0x5A5AC3C3 + s.trayId n % 2 ^ 32 * 2 ^ 32 + s.pkgId % 16 * 2 ^ 64 + n.val * 2 ^ 68 +
    b2n (s.link (.tray n)).ackSend * 2 ^ 71 + s.latL (.tray n) % 2 ^ 16 * 2 ^ 72 +
    s.getF cr0 .cfg 0 Reg.CFG_VARIANT % 4 * 2 ^ 88

/-- The whole block, with its CRC-32 in bits 224 to 255. -/
def State.block (s : State) (n : Fin 8) : Nat := s.blockBody n + crc32 (leBytes 28 (s.blockBody n)) * 2 ^ 224

/-- `BEACON_BURST` (R200, R202): in `LISTEN` a port sends its block in a burst every 10 ms; in `SEEK` it sends it
continuously. -/
def execBeaconBurst (n : Fin 8) (s : State) : Host.Outcome State Fault Refusal :=
  let e : LinkEnd := .tray n
  let l := s.link e
  let due := s.lst e == stSeek || (s.lst e == stListen && (l.beaconAt == 0 || decide (l.beaconAt - 1 + 10 * msBeats ≤ s.time)))
  if due then .next (s.setLink e { l with beaconAt := s.time + 1, lastBlock := s.block n }) else .next s

/-- Whether a block matches what a port declares (R201). -/
def State.blockMatches (s : State) (n : Fin 8) (v : Nat) : Bool :=
  bitsOf v 32 32 == s.trayId n && bitsOf v 72 16 == s.latL (.tray n) % 2 ^ 16 &&
    bitsOf v 64 4 == s.pf n Reg.TRYP_PORT_CTL_PEER_PKG && bitsOf v 68 3 == s.pf n Reg.TRYP_PORT_CTL_PEER_PORT

/-- A matching block moves the port on (R202): from `LISTEN` to `SEEK` once its back-off has passed, from `SEEK` to
`CALIB` when it carries ACK and every lane's clock recovery is locked. -/
def State.blockStep (s : State) (n : Fin 8) (ack locked : Bool) : State :=
  let e : LinkEnd := .tray n
  let l := s.link e
  if s.lst e == stListen then
    if l.backAt + l.backoff * msBeats ≤ s.time then
      ((s.setLink e { l with ackSend := true }).bumpF (leDie e) .trayPort (leInst e) Reg.TRYP_RETRY_ATTEMPTS).toSt e stSeek
    else s
  else if ack && locked && decide (s.inState e ≤ 50 * msBeats) then s.enterCalib e else s

/-- `BEACON_BLOCK` (R201, R202): a port in `LISTEN` or `SEEK` receives a block; `locked` says that clock recovery is locked
on every lane in service (log entry 28, DEDUCED). -/
def execBeaconBlock (n : Fin 8) (block : BitVec 256) (locked : Bool) (s : State) : Host.Outcome State Fault Refusal :=
  let e : LinkEnd := .tray n
  let v := block.toNat
  let l := s.link e
  let good := bitsOf v 0 32 == 0x5A5AC3C3 && bitsOf v 224 32 == crc32 (leBytes 28 (bitsOf v 0 224))
  if !(s.lst e == stListen || s.lst e == stSeek) then .next s
  else
    let s0 := (s.setLink e { l with sigAt := s.time, noSigLogged := false }).setPf n Reg.TRYP_PORT_STATUS_SIGNAL 1
    if !good then .next s0
    else
      let s1 := ((s0.setPf n Reg.TRYP_PORT_STATUS_SEEN_PKG (bitsOf v 64 4)).setPf n Reg.TRYP_PORT_STATUS_SEEN_PORT
        (bitsOf v 68 3)).setPf n Reg.TRYP_PORT_STATUS_SEEN_VALID 1
      if s.blockMatches n v then .next ((s1.setPf n Reg.TRYP_PORT_STATUS_ID_OK 1).blockStep n (bit v 71) locked)
      else
        let s2 := (s1.setPf n Reg.TRYP_PORT_STATUS_ID_OK 0).setPf n Reg.TRYP_PORT_STATUS_ID_MISMATCH 1
        if decide (v ∈ l.wrong) then .next s2
        else
          let s3 := (s2.logLink e 0xB004).setPf n Reg.TRYP_RETRY_LAST_RC 0xB004
          .next (s3.setLink e { s3.link e with wrong := v :: l.wrong })

/-- `NO_PARTNER_SIGNAL` (R202): in `LISTEN`, 100 ms without a signal log RC 0xB001, once per episode. -/
def execNoPartnerSignal (n : Fin 8) (s : State) : Host.Outcome State Fault Refusal :=
  let e : LinkEnd := .tray n
  let l := s.link e
  if s.lst e == stListen && !l.noSigLogged && decide (max l.sigAt l.since + 100 * msBeats ≤ s.time) then
    let s1 := ((s.logLink e 0xB001).setPf n Reg.TRYP_PORT_STATUS_SIGNAL 0).setPf n Reg.TRYP_RETRY_LAST_RC 0xB001
    .next (s1.setLink e { s1.link e with noSigLogged := true })
  else .next s

/-- `SEEK_TIMEOUT` (R202): after 50 ms in `SEEK` the port returns to `LISTEN`. -/
def execSeekTimeout (n : Fin 8) (s : State) : Host.Outcome State Fault Refusal :=
  let e : LinkEnd := .tray n
  if s.lst e == stSeek && decide (50 * msBeats ≤ s.inState e) then .next (s.linkReturn e 0xB002 true) else .next s

/-- `PARTNER_SIGNAL_LOST` (R202): in training, the partner's signal has been lost on every lane for 1 ms, in which no block was
received. -/
def execPartnerSignalLost (n : Fin 8) (s : State) : Host.Outcome State Fault Refusal :=
  let e : LinkEnd := .tray n
  let l := s.link e
  if decide (stCalib ≤ s.lst e ∧ s.lst e ≤ stSync) && decide (max l.sigAt l.since + msBeats ≤ s.time) then
    .next ((s.setPf n Reg.TRYP_PORT_STATUS_SIGNAL 0).linkReturn e 0xB002 true)
  else .next s

end Sys2Proof.Machine
end

