-- ==== Sys2Proof/Machine/Domain.lean ====
section
/-! DEFINITION. Where a management-space address leads, and what switching a power domain off does (R352 to R354, R498,
R504). -/

namespace Sys2Proof.Machine

/-! ### Addresses (R62, R268, R498) -/

/-- The die of a management-space window. -/
def dieOfWin (a : Nat) : Option Die :=
  match a / 0x1000000 with
  | 0 => some (.cr 0)
  | 1 => some (.cr 1)
  | 2 => some (.mv 0)
  | 3 => some (.mv 1)
  | 4 => some (.mv 2)
  | 5 => some (.mv 3)
  | _ => none

/-- The blocks a die carries, with their instances. -/
def dieBlocks (d : Die) : List (Blk × Nat) :=
  let link := [(Blk.ikl, 0), (.ikl, 1), (.ikl, 2), (.ikl, 3)]
  match d with
  | .mv _ => [(.cfg, 0), (.bal, 0), (.thm, 0)] ++ link ++ [(.gtr, 0), (.eng, 0), (.seq, 0), (.syn, 0), (.dma, 0), (.mem, 0),
      (.rcv, 0), (.log, 0)]
  | .cr c => [(.cfg, 0), (.bal, 0), (.thm, 0)] ++ link ++ [(.gtr, 0), (.pci, 0), (.eth, 0), (.ethPort, 0), (.ethPort, 1),
      (.ethPort, 2), (.ethPort, 3), (.ptp, 0), (.fus, 0), (.tray, 0), (.trayPort, 0), (.trayPort, 1), (.trayPort, 2),
      (.trayPort, 3), (.rcv, 0), (.log, 0)] ++ (if c == 0 then [(.pwr, 0), (.ldg, 0), (.boot, 0), (.sec, 0)] else [])

/-- A register row's word at an offset of its block instance, as the offset within the row. -/
def RegRow.at (r : RegRow) (off : Nat) : Option Nat :=
  if off < r.off then none
  else
    let k := off - r.off
    let st := max r.stride 1
    let st2 := max r.stride2 1
    if k / st < r.n ∧ k % st / st2 < r.n2 ∧ k % st % st2 = 0 then some k else none

/-- A register of the package: its die, block, instance, row, and the offset of its word within the row. -/
structure Place where
  die : Die
  blk : Blk
  inst : Nat
  row : RegRow
  k : Nat

/-- Whether a register that only some dies have exists on a die (the block table of
18_address_map_and_reason_codes.md, R423). -/
def onDie (d : Die) (b : Blk) (off : Nat) : Bool :=
  if d == cr0 then true
  else match b with
    | .cfg => decide (0x10 ≤ off ∧ off < 0x40) || off == 0x304 || (off == 0x300 && (match d with | .cr _ => true | .mv _ => false))
    | .bal => off == 0 || off == 4 || decide (8 ≤ off ∧ off < 0x10) || decide (off ∈ [0x14, 0x18, 0x1C, 0x50])
    | .rcv => off == 0 || (match d with | .mv _ => decide (off ∈ [Reg.RCV_SUSPECT_MASK.off, Reg.RCV_DUMP_SEQ.off]) | .cr _ => false)
    | _ => true

/-- The register at a management-space address, if one lies there (R498). -/
def findPlace (a : Nat) : Option Place :=
  match dieOfWin a with
  | none => none
  | some d =>
    (dieBlocks d).findSome? fun bi =>
      let base := winBase d + blkOff bi.1 bi.2
      if a < base then none
      else
        let off := a - base
        if !onDie d bi.1 off then none
        else (blkRows bi.1).findSome? fun r => (r.at off).map fun k => ⟨d, bi.1, bi.2, r, k⟩

/-- Whether the key of a register field belongs to a fused field. -/
def fuseKey (key : Nat) : Bool :=
  match findPlace (keyAddr key) with
  | some p => p.row.flds.any fun f => f.lo == keyLo key && f.acc == .fuse
  | none => false

/-! ### Switching domains (R352, R353, R504) -/

/-- The die of a domain instance, in the numbering of `PWR.DOM`. -/
def domDie (k : Domain) : Die :=
  if h : k.val < 12 then .mv ⟨k.val % 4, by omega⟩ else .cr ⟨(k.val - 12) / 2, by omega⟩

/-- Whether the variant has a domain instance. -/
def State.hasDomain (s : State) (k : Domain) : Bool := s.hasDie (domDie k)

/-- Whether a management-space address lies in a domain. -/
def inDomain (k : Domain) (a : Nat) : Bool :=
  match findPlace a with
  | some p => p.die == domDie k && domOf p.die p.blk == some k.val
  | none => false

/-- The registers of a domain lose their contents, but for what is fused (R504). -/
def State.dropRegs (s : State) (k : Domain) : State :=
  let drop (t : Tab Nat) : Tab Nat := t.filter fun p => !inDomain k (keyAddr p.1) || fuseKey p.1
  { s with regs := drop s.regs, resv := s.resv.filter fun p => !inDomain k p.1, shadow := drop s.shadow, inForce := drop s.inForce }

/-- Link ends of a domain: MVL holds those of its die, CRX those of its Crown die with its tray ports. -/
def domEnds (k : Domain) : List LinkEnd :=
  let d := domDie k
  let ikl := (List.finRange 4).map (LinkEnd.ikl d)
  if 8 ≤ k.val ∧ k.val < 12 then ikl
  else if k.val = 12 ∨ k.val = 14 then ikl ++ ((List.finRange 8).map LinkEnd.tray).filter fun e => leDie e == d
  else []

/-- The package addresses of a domain's memory: MVC the engine buffers, MVS the scratchpad, MVL the HBM, CRF the Crown
buffer (R243, R244, R352). -/
def inDomMem (k : Domain) (pa : Nat) : Bool :=
  let d := domDie k
  let base := dieCode d * 2 ^ 45
  let chip := base + 2 ^ 44
  if k.val < 4 then decide (chip + 0x3000000 ≤ pa ∧ pa < chip + 0x4000000)
  else if k.val < 8 then decide (chip ≤ pa ∧ pa < chip + 0x3000000)
  else if k.val < 12 then decide (base ≤ pa ∧ pa < chip)
  else if k.val % 2 = 1 then decide (chip ≤ pa ∧ pa < chip + 0x1800000)
  else false

/-- Whether a table record, by its key, lies in a domain: the tables of a Movement die in its MVL, of a Crown die those of
the gear train, the tray ports and `ETH` in its CRX, those of fusion and the ledger in its CRF. -/
def inDomTbl (k : Domain) (key : Nat) : Bool :=
  let d := key / 2 ^ 22 % 8
  let sp := key / 2 ^ 25
  d == dieCode (domDie k) &&
    (if k.val < 8 then false else if k.val < 12 then true else if k.val % 2 = 0 then decide (sp < 10) else decide (10 ≤ sp))

/-- What a domain holds beside its registers, its memory and its link ends is lost with it (R352, R504): engines, queues and
streams with MVC; the die's own state, its posted-write counts and reads with MVL; the host and network ports and the time
service with CRX, but for the addresses of the configuration record; fusion and the ledger with CRF. -/
def State.dropParts (s : State) (k : Domain) : State :=
  let c := dieCode (domDie k)
  let off {α : Type} (t : Tab α) (div : Nat) : Tab α := t.filter fun p => p.1 / div != c
  let s1 := { s with tables := s.tables.filter (fun p => !inDomTbl k p.1), tshadow := s.tshadow.filter (fun p => !inDomTbl k p.1) }
  if k.val < 4 then { s1 with engs := off s1.engs 32, queues := off s1.queues 32, streams := off s1.streams 512,
                              ctxs := off s1.ctxs 32 }
  else if k.val < 8 then s1
  else if k.val < 12 then
    { s1 with boot := { s1.boot with hbmOk := andNot s1.boot.hbmOk (3 * 4 ^ c), hbmTries := off s1.boot.hbmTries 2 },
              dies := off s1.dies 1, accepted := off s1.accepted (2 ^ 15), failed := off s1.failed (2 ^ 15),
              recov := { s1.recov with hbmRecal := andNot s1.recov.hbmRecal (3 * 4 ^ c) }, rdReqs := off s1.rdReqs 1, fences := off s1.fences 64, nextTag := s1.nextTag.filter (fun p => p.1 / 64 % 8 != c),
              issued := off s1.issued (2 ^ 14), seenIssued := off s1.seenIssued (2 ^ 14),
              seenFailed := off s1.seenFailed (2 ^ 14), landed := off s1.landed (2 ^ 14) }
  else
    let i := (k.val - 12) / 2
    if k.val % 2 = 0 then
      let h := Tab.get {} s1.hosts i
      let forget (x : DieSt) : DieSt := { x with losses := [], trayAt := 0 }
      { s1 with dies := Tab.set {} s1.dies c (forget (Tab.get {} s1.dies c)),
                hosts := Tab.set {} s1.hosts i { perst := h.perst, mac := h.mac, ip4 := h.ip4, ip6 := h.ip6, vlans := h.vlans, groups := h.groups },
                ptp := if i = 0 then {} else s1.ptp }
    else { s1 with fus := Tab.set {} s1.fus i {}, ldg := if i = 0 then {} else s1.ldg }

/-- A domain is switched off: its registers and tables lose their contents, its link ends stand in `OFF`, its memory is
lost (R264, R352, R504). A Movement die's beat PLL and count stop with its MVL. -/
def State.domainOff (s : State) (k : Domain) : State :=
  if !s.domOn k then s
  else
    let st := clrBit (s.getF cr0 .pwr 0 Reg.PWR_DOM_STATE) k
    let s1 := (s.dropRegs k).dropParts k
    let s2 := (domEnds k).foldl (fun t e => t.setLink e {}) s1
    let s3 := { s2 with mem := s2.mem.filter (fun p => !inDomMem k p.1), poison := s2.poison.filter (fun p => !inDomMem k (64 * p.1)) }
    s3.setF cr0 .pwr 0 Reg.PWR_DOM_STATE st

/-- Show whether only AON and CR0's CRF are on (`LEDGER_ONLY`). -/
def State.showLedgerOnly (s : State) : State :=
  s.setF cr0 .pwr 0 Reg.PWR_STATUS_LEDGER_ONLY (b2n (s.getF cr0 .pwr 0 Reg.PWR_DOM_STATE == 2 ^ 13))

/-- Switch off every domain but those named: a switch that is closing opens, and none waits to be closed. -/
def State.allOffBut (s : State) (keep : List Domain) : State :=
  (((List.finRange 16).reverse.filter fun k => !decide (k ∈ keep)).foldl (fun (t : State) k => t.domainOff k)
    { s with boot := { s.boot with todo := [], busyDom := none } }).showLedgerOnly

end Sys2Proof.Machine
end

