-- ==== Sys2Proof/Machine/Power.lean ====
section
/-! DEFINITION. The package budget, admission and the thermal state of each die (13_power_admission_and_thermal, R54,
R497). -/

namespace Sys2Proof.Machine

/-! ### Parameters in effect (R371, R372) -/

/-- Whether the expert fields of `PWR` govern. -/
def State.pwrExpert (s : State) : Bool := s.isF cr0 .pwr 0 Reg.PWR_CTL_EXPERT

/-- `WAIT_LIMIT` in frames. -/
def State.waitLimit (s : State) : Nat := if s.pwrExpert then s.getF cr0 .pwr 0 Reg.PWR_ADM_WAIT_LIMIT else 1024

/-- Token sizes in 1/8 W: matrix, scan, host, recalibration. -/
def State.tokMatrix (s : State) : Nat := if s.pwrExpert then s.getF cr0 .pwr 0 Reg.PWR_TOKEN_MATRIX else 128
def State.tokScan (s : State) : Nat := if s.pwrExpert then s.getF cr0 .pwr 0 Reg.PWR_TOKEN_SCAN else 64
def State.tokHost (s : State) : Nat := if s.pwrExpert then s.getF cr0 .pwr 0 Reg.PWR_TOKEN_HOST else 32
def State.tokRecal (s : State) : Nat := if s.pwrExpert then s.getF cr0 .pwr 0 Reg.PWR_TOKEN_RECAL else 16

/-- FLOOR_d in 1/8 W. -/
def State.floorOf (s : State) (d : Die) : Nat :=
  match d with
  | .mv _ => if s.pwrExpert then s.getF cr0 .pwr 0 Reg.PWR_FLOOR_MV_FLOOR else 128
  | .cr _ => if s.pwrExpert then s.getF cr0 .pwr 0 Reg.PWR_FLOOR_CR_FLOOR else 32

/-- Σ FLOOR_d over the present dies, in 1/8 W. -/
def State.sumFloors (s : State) : Nat := (s.dieList.map s.floorOf).sum

/-- Σ RESERVE_d of the loaded image, in W. -/
def State.sumReserve (s : State) : Nat := s.reserve.sum

/-- A sum of floors in W, rounded up to a whole watt. -/
def floorsW (eighths : Nat) : Nat := ceilDiv eighths 8

/-- Whether a budget covers a reserve, in W, and the floors (R355). -/
def budgetCovers (budget reserveW floors8 : Nat) : Bool :=
  decide (900 ≤ budget ∧ budget ≤ 1600 ∧ 8 * reserveW + floors8 ≤ 8 * budget)

/-- Show the reserve and the floors. -/
def State.showReserve (s : State) : State :=
  (s.setF cr0 .pwr 0 Reg.PWR_RESERVE s.sumReserve).setF cr0 .pwr 0 Reg.PWR_RESERVE_FLOORS (floorsW s.sumFloors)

/-- What a die keeps of its power. -/
def State.pow (s : State) (d : Die) : PowerSt := (s.die d).power

/-- Put it. -/
def State.setPow (s : State) (d : Die) (p : PowerSt) : State := s.setDie d { s.die d with power := p }

/-- Byte offset of a die in `PWR.DIE`. -/
def dieOff (d : Die) : Nat := 8 * dieCode d

/-- The allowance of a die this turn. -/
def State.allowance (s : State) (d : Die) : Nat := s.getF cr0 .pwr 0 Reg.PWR_DIE_A_ALLOW (dieOff d)

/-- Tokens a die has lent. -/
def PowerSt.held (p : PowerSt) : Nat := (p.lent.map (·.tok)).sum

/-- Show the tokens held. -/
def State.showHeld (s : State) (d : Die) : State := s.setF cr0 .pwr 0 Reg.PWR_DIE_A_HELD (s.pow d).held (dieOff d)

/-- Whether a die is throttled (R365). -/
def State.throttled (s : State) (d : Die) : Bool := s.isF d .thm 0 Reg.THM_STATUS_THROT

/-- The demand of a die: the larger of its floor and its held and queued tokens, of which the governor's queue holds 64 requests; a
throttled die demands its floor (R358, R362, R365). -/
def State.demand (s : State) (d : Die) : Nat :=
  let p := s.pow d
  if s.throttled d then s.floorOf d else max (s.floorOf d) (p.held + ((p.queue.take 64).map (·.tok)).sum)

/-! ### The budget (R355, R357 to R360) -/

/-- Report a refusal of `PWR` (R355, R419). -/
def State.refusePwr (s : State) (rc : Nat) : State := s.refuse .pwr cr0 0 rc

/-- A write of `PWR.BUDGET`: it takes effect at the next allocation, or is refused and changes nothing. -/
def State.budgetWrite (s : State) (w : Nat) : State :=
  let b := w % 2048
  if budgetCovers b s.sumReserve s.sumFloors then s.setF cr0 .pwr 0 Reg.PWR_BUDGET b else s.refusePwr 0x1001

/-- `BUDGET_WRITE` (R355). -/
def execBudgetWrite (w : Word) (s : State) : Host.Outcome State Fault Refusal := .next (s.budgetWrite w.toNat)

/-- The link end a die reaches CR0 on, or is reached on (R38): MV*m* over S*m*0, CR1 over S01. -/
def budgetEnd (d : Die) : Option LinkEnd :=
  match d with
  | .mv m => some (spMv m 0)
  | .cr 1 => some (spCrown 0 1)
  | .cr _ => none

/-- The body of a BUDGET container (R357). -/
def budgetBody (grant : Bool) (d : Die) (throt : Bool) (turn value held meas : Nat) : Nat :=
  b2n grant * 2 ^ 6 + dieCode d * 2 ^ 7 + b2n throt * 2 ^ 10 + turn % 2 ^ 32 * 2 ^ 12 + value % 2 ^ 16 * 2 ^ 44 +
    held % 2 ^ 16 * 2 ^ 60 + meas % 2 ^ 16 * 2 ^ 76

/-- CR0 keeps a report, and shows what it demands and measures. -/
def State.takeReport (s : State) (code : Nat) (r : Report) : State :=
  let s1 := { s with reports := Tab.set none s.reports code (some r) }
  (s1.setF cr0 .pwr 0 Reg.PWR_DIE_B_DEMAND r.demand (8 * code)).setF cr0 .pwr 0 Reg.PWR_DIE_B_MEAS r.meas (8 * code)

/-- `BUDGET_REPORT` (R358): in frames 0, 64, …, 448 of a turn a die reports its demand; CR0's own report is internal
(log entry 116, DESIGN CHOICE). -/
def execBudgetReport (d : Die) (meas : Nat) (s : State) : Host.Outcome State Fault Refusal :=
  let f := s.frame d % 1024
  if s.hasDie d && s.atFrame d && f % 64 == 0 && decide (f ≤ 448) && s.enabled .pwr cr0 then
    let r : Report := ⟨s.turn d % 2 ^ 32, s.demand d % 2 ^ 16, s.throttled d, (s.pow d).held % 2 ^ 16, meas % 2 ^ 16⟩
    match budgetEnd d with
    | none => .next (s.takeReport (dieCode d) r)
    | some e => .next (s.sbSend e 0x19 (budgetBody false d r.throt r.turn r.demand r.held r.meas))
  else .next s

/-- Some crossing of a kind is stale on a die (R54). -/
def State.staleKind (s : State) (d : Die) (kind : Nat) : Bool := (s.die d).stale.any fun x => x.1 == kind

/-- A BUDGET container that arrives at a link end: MV0 relays CR1's, CR0 keeps reports, and a die its own grants (R358, R360). -/
def State.takeBudget (s : State) (e : LinkEnd) (box : Nat) : State :=
  let die := bitsOf box 7 3
  let body := box - box % 2 ^ 6
  if leDie e == .mv 0 && die == 5 then
    if bit box 6 then s.sbSend (spMv 0 1) 0x19 body else s.sbSend (spMv 0 0) 0x19 body
  else if leDie e == cr0 && !bit box 6 && decide (die < 6) then
    s.takeReport die ⟨bitsOf box 12 32, bitsOf box 44 16, bit box 10, bitsOf box 60 16, bitsOf box 76 16⟩
  else if bit box 6 && die == dieCode (leDie e) && !s.staleKind (leDie e) 3 then
    s.setPow (leDie e) { s.pow (leDie e) with grant := some (bitsOf box 12 32, bitsOf box 44 16) }
  else s

/-- The grant of a die in the last allocation: its floor where there was none. -/
def State.grantOf (s : State) (d : Die) : Nat := let g := Tab.get 0 s.grants (dieCode d); if g == 0 then s.floorOf d else g

/-- DEMAND_d of the allocation of turn `n`: the last report of that turn; the floor without one, or when throttled (R359). -/
def State.demandIn (s : State) (n : Nat) (d : Die) : Nat :=
  match Tab.get none s.reports (dieCode d) with
  | some r => if r.turn == n % 2 ^ 32 && !r.throt then r.demand else s.floorOf d
  | none => s.floorOf d

/-- Σ of a function over the present dies. -/
def State.sumDies (s : State) (f : Die → Nat) : Nat := (s.dieList.map f).sum

/-- The grants for the next turn from those of this one (R359); a budget below the reserve leaves no pool. -/
def State.allocate (s : State) (n : Nat) : Tab Nat :=
  let dyn : Int := 8 * ((s.getF cr0 .pwr 0 Reg.PWR_BUDGET : Int) - s.sumReserve)
  let rem := (dyn - s.sumFloors).toNat
  let want (d : Die) : Nat := max (s.floorOf d) (s.demandIn n d)
  let ex := s.sumDies fun d => want d - s.floorOf d
  let target (d : Die) : Nat := if ex ≤ rem then want d else s.floorOf d + (want d - s.floorOf d) * rem / ex
  let head := (dyn - s.sumDies s.grantOf).toNat
  let inc (d : Die) : Nat := target d - s.grantOf d
  let sum := s.sumDies inc
  let next (d : Die) : Nat :=
    if target d ≤ s.grantOf d then target d
    else if sum ≤ head then s.grantOf d + inc d
    else s.grantOf d + inc d * head / sum
  s.dieList.foldl (fun t d => Tab.set 0 t (dieCode d) (next d)) s.grants

/-- Compute the grants of turn `n` + 1 and show the budget they rest on; CR0's own grant is internal. -/
def State.allocateNow (s : State) (n : Nat) : State :=
  let s1 := { s with grants := s.allocate n }
  let s2 := s1.setF cr0 .pwr 0 Reg.PWR_BUDGET_IN_EFFECT (s.getF cr0 .pwr 0 Reg.PWR_BUDGET)
  s2.setPow cr0 { s2.pow cr0 with grant := some ((n + 1) % 2 ^ 32, s2.grantOf cr0) }

/-- Send every other die its grant. -/
def State.sendGrants (s : State) (n : Nat) : State :=
  s.dieList.foldl (fun t d => match d with
    | .mv m => t.sbSend (spCrown m 0) 0x19 (budgetBody true d false (n + 1) (t.grantOf d) 0 0)
    | .cr 1 => t.sbSend (spCrown 0 0) 0x19 (budgetBody true d false (n + 1) (t.grantOf d) 0 0)
    | .cr _ => t) s

/-- `GRANT_ALLOCATION` (R358, R359): at frame 512 of CR0's turn the grants are computed; there and every 32 frames up to
frame 992 a copy goes to each die. -/
def execGrantAllocation (s : State) : Host.Outcome State Fault Refusal :=
  let f := s.frame cr0 % 1024
  let n := s.turn cr0
  if s.atFrame cr0 && decide (512 ≤ f) && f % 32 == 0 && s.enabled .pwr cr0 then
    let s1 := if f == 512 then s.allocateNow n else s
    .next (s1.sendGrants n)
  else .next s

/-- `BUDGET_GRANT` (R360): a sideband slot brings a BUDGET container. -/
def execBudgetGrant (e : LinkEnd) (r : SbSlot) (s : State) : Host.Outcome State Fault Refusal :=
  match s.sbTakes e r 0x19 with
  | (some box, t) => .next (t.takeBudget e box)
  | (none, t) => .next t

/-- `ALLOWANCE_TAKE` (R54, R360, R364): at a turn boundary a die takes the grant it received for the turn, or its floor,
counted every turn and logged in the first of a run; while its budget crossing is stale, for a turn, it keeps the last value. -/
def execAllowanceTake (d : Die) (s : State) : Host.Outcome State Fault Refusal :=
  if !s.hasDie d || !s.atTurn d || !s.enabled .pwr cr0 then .next s
  else
    let p := s.pow d
    let fl := s.getF cr0 .pwr 0 Reg.PWR_STATUS_FLOOR
    let got := if p.staleFloor then none
      else if s.staleKind d 3 then some (s.allowance d)
      else match p.grant with
        | some (t, v) => if t == s.turn d % 2 ^ 32 then some v else none
        | none => none
    match got with
    | some v =>
      .next ((s.setF cr0 .pwr 0 Reg.PWR_DIE_A_ALLOW v (dieOff d)).setF cr0 .pwr 0 Reg.PWR_STATUS_FLOOR (clrBit fl (dieCode d)))
    | none =>
      let s1 := (s.setF cr0 .pwr 0 Reg.PWR_DIE_A_ALLOW (s.floorOf d) (dieOff d)).setF cr0 .pwr 0 Reg.PWR_STATUS_FLOOR
        (setBit fl (dieCode d))
      let s2 := s1.bumpF cr0 .pwr 0 Reg.PWR_COUNT_LOST
      .next (if bit fl (dieCode d) then s2 else s2.log d .pwr 0 0x8002)

/-! ### Admission (R361 to R364) -/

/-- The largest request that a die could ever be granted: FLOOR_d + rem (R363). -/
def State.maxRequest (s : State) (d : Die) : Nat :=
  s.floorOf d + (8 * ((s.getF cr0 .pwr 0 Reg.PWR_BUDGET : Int) - s.sumReserve) - s.sumFloors).toNat

/-- What a requester does when its request is withdrawn (R113, R227, R363): RC 0x8001 is logged; an engine stops the stream
and its context becomes idle; a recalibration is dropped. -/
def State.withdraw (s : State) (d : Die) (r : AdmReq) : State :=
  let s0 := s.bumpF cr0 .pwr 0 Reg.PWR_COUNT_WAIT_FAIL
  match r.kind with
  | 0 =>
    let s1 := s0.log d .eng r.who 0x8001 [] r.ctx
    if s1.ctxState d r.ctx == 2 then s1.setCtxState d r.ctx 1 else s1
  | 1 =>
    let e := leOfCode r.who
    let s1 := (s0.logLink e 0x8001).setF (leDie e) .ikl (leInst e) Reg.IKL_RECAL_STATE 0
    { s1 with recals := s1.recals.filter fun x => x.end_ != r.who }
  | _ => s0.log d .rcv 0 0x8001 [] r.ctx

/-- Ask for tokens; a request that can never be granted is withdrawn at once. -/
def State.askToken (s : State) (d : Die) (r : AdmReq) : State :=
  if s.maxRequest d < r.tok then s.withdraw d r
  else s.setPow d { s.pow d with queue := (s.pow d).queue ++ [r] }

/-- Whether a requester has, or waits for, its token. -/
def State.hasToken (s : State) (d : Die) (kind ctx who : Nat) : Bool :=
  (s.pow d).lent.any fun r => r.kind == kind && r.ctx == ctx && r.who == who
def State.wantsToken (s : State) (d : Die) (kind ctx who : Nat) : Bool :=
  (s.pow d).queue.any fun r => r.kind == kind && r.ctx == ctx && r.who == who

/-- Return a requester's tokens. -/
def State.returnToken (s : State) (d : Die) (kind ctx who : Nat) : State :=
  let keep (r : AdmReq) : Bool := !(r.kind == kind && r.ctx == ctx && r.who == who)
  let p := s.pow d
  (s.setPow d { p with lent := p.lent.filter keep, queue := p.queue.filter keep }).showHeld d

/-- `TOKEN_GRANT` (R362, R364): the governor of a die grants the request at the head when it fits the allowance; a
throttled die grants nothing. -/
def execTokenGrant (d : Die) (s : State) : Host.Outcome State Fault Refusal :=
  let p := s.pow d
  match p.queue with
  | [] => .next s
  | r :: rest =>
    if s.throttled d || s.allowance d < p.held + r.tok then .next s
    else
      let s1 := s.setPow d { p with queue := rest, lent := p.lent ++ [r] }
      .next ((s1.showHeld d).bumpF cr0 .pwr 0 Reg.PWR_COUNT_GRANTED)

/-- `ADMISSION_WAIT_TIMEOUT` (R363): requests of a die not granted within `WAIT_LIMIT` frames are withdrawn. -/
def execAdmissionWaitTimeout (d : Die) (s : State) : Host.Outcome State Fault Refusal :=
  let p := s.pow d
  let late (r : AdmReq) : Bool := decide (r.at_ + s.waitLimit * frameBeats ≤ s.time)
  .next ((p.queue.filter late).foldl (fun t r => t.withdraw d r) (s.setPow d { p with queue := p.queue.filter (fun r => !late r) }))

/-! ### Thermal (R365, R367) -/

/-- The throttle limit and hysteresis in effect (R371, R372). -/
def State.throtC (s : State) (d : Die) : Int :=
  if s.isF d .thm 0 Reg.THM_CTL_EXPERT then s.getF d .thm 0 Reg.THM_LIMIT_THROT_C else 100
def State.hystC (s : State) (d : Die) : Int :=
  if s.isF d .thm 0 Reg.THM_CTL_EXPERT then s.getF d .thm 0 Reg.THM_LIMIT_HYST else 5

/-- One more, or zero. -/
def runLen (c : Bool) (n : Nat) : Nat := if c then n + 1 else 0

/-- Show a sample. -/
def State.showTemp (s : State) (d : Die) (tj h0 h1 : Int) : State :=
  let b : Blk := .thm
  let mx := max (signed 8 (s.getF d b 0 Reg.THM_TEMP_TJ_MAX)) tj
  (((s.setF d b 0 Reg.THM_TEMP_TJ (unsigned 8 tj)).setF d b 0 Reg.THM_TEMP_TJ_MAX (unsigned 8 mx)).setF d b 0 Reg.THM_TEMP_HBM0
    (unsigned 8 h0)).setF d b 0 Reg.THM_TEMP_HBM1 (unsigned 8 h1)

/-- Set throttling: RC 0x8003 at the start of an episode (R365). -/
def State.setThrot (s : State) (d : Die) (on : Bool) : State :=
  let was := s.throttled d
  let s1 := s.setF d .thm 0 Reg.THM_STATUS_THROT (b2n on)
  if on && !was then s1.log d .thm 0 0x8003 else s1

/-- The domain a thermal trip switches off: MVC or CRX of the die. -/
def tripDomain (d : Die) : Domain :=
  match d with
  | .mv m => ⟨m.val, by omega⟩
  | .cr c => ⟨12 + 2 * c.val, by omega⟩

/-- The die's own trip (R367). -/
def State.trip (s : State) (d : Die) : State :=
  if s.isF d .thm 0 Reg.THM_STATUS_TRIP then s
  else ((s.setF d .thm 0 Reg.THM_STATUS_TRIP 1).log d .thm 0 0x8004).domainOff (tripDomain d)

/-- `THERMAL_SAMPLE` (R365, R367): once a frame a die takes its junction temperature, and a Movement die those of its
stacks; throttling begins in the frame after four hot samples and ends after 1,024 cool ones; four samples at a trip limit trip. A stale crossing holds the last values (R54)
(log entry 34, DEDUCED). -/
def execThermalSample (d : Die) (tj0 h00 h10 : Int) (s : State) : Host.Outcome State Fault Refusal :=
  let held := s.staleKind d 2
  let old (f : Fld) : Int := signed 8 (s.getF d .thm 0 f)
  let tj := if held then old Reg.THM_TEMP_TJ else tj0
  let h0 := if held then old Reg.THM_TEMP_HBM0 else h00
  let h1 := if held then old Reg.THM_TEMP_HBM1 else h10
  if !s.hasDie d || !s.atFrame d then .next s
  else
    let (a, b) := match d with
      | .mv _ => (h0, if s.h8 then h1 else 0)
      | .cr _ => (0, 0)
    let p := s.pow d
    let hb := max a b
    let isMv := match d with | .mv _ => true | .cr _ => false
    let q := { p with hotJ := runLen (decide (s.throtC d ≤ tj)) p.hotJ,
                      hotH := runLen (isMv && decide (95 ≤ hb)) p.hotH,
                      cool := runLen (decide (tj ≤ s.throtC d - s.hystC d) && (!isMv || decide (hb ≤ 90))) p.cool,
                      tripJ := runLen (decide (110 ≤ tj)) p.tripJ,
                      tripH := runLen (isMv && decide (105 ≤ hb)) p.tripH }
    let s1 := (s.showTemp d tj a b).setPow d q
    let hot := decide (4 ≤ p.hotJ) || decide (4 ≤ p.hotH)
    let on := s.enabled .thm d && (hot || (s.throttled d && decide (q.cool < 1024)) || q.staleThrot)
    let s2 := s1.setThrot d on
    .next (if decide (4 ≤ q.tripJ) || decide (4 ≤ q.tripH) then s2.trip d else s2)

/-- What the staleness of a crossing of a kind forced on a die ends, once no crossing of the kind is stale there. -/
def State.endStale (s : State) (d : Die) (kind : Nat) : State :=
  if s.staleKind d kind then s
  else if kind == 2 then (s.setPow d { s.pow d with staleThrot := false }).setF d .thm 0 Reg.THM_STATUS_STALE 0
  else if kind == 3 then s.setPow d { s.pow d with staleFloor := false }
  else s

/-- `CDC_STALE_TURN_EXPIRY` (R54): a crossing still stale after one turn takes its consequence: a link's serialiser
retrains its link, a temperature crossing throttles its die with RC 0x8003, a budget crossing puts the die on its floor with
RC 0x8002; a timestamp keeps its invalid mark. The crossings that `accepted` names have accepted a value meanwhile: they are no
longer stale, and what their staleness forced ends. -/
def execCdcStaleTurnExpiry (d : Die) (accepted : List (Fin 5 × Nat × Nat)) (s0 : State) : Host.Outcome State Fault Refusal :=
  let s := accepted.foldl (fun (t : State) c => (t.crossed d c.1 c.2.1 c.2.2).endStale d c.1) s0
  let x := s.die d
  let due (c : Nat × Nat × Nat × Nat) : Bool := decide (c.2.2.2 + turnBeats ≤ s.time)
  let step (t : State) (c : Nat × Nat × Nat × Nat) : State :=
    match c.1 with
    | 1 =>
      let e : LinkEnd := if c.2.1 == 6 then .tray (Fin.ofNat 8 c.2.2.1) else .ikl d (Fin.ofNat 4 c.2.2.1)
      if t.inService e then t.linkReturn e 0 true else t
    | 2 => (t.setPow d { t.pow d with staleThrot := true }).setThrot d true
    | 3 =>
      if (t.pow d).staleFloor then t else
      let t1 := t.setPow d { t.pow d with staleFloor := true }
      let fl := t1.getF cr0 .pwr 0 Reg.PWR_STATUS_FLOOR
      ((t1.setF cr0 .pwr 0 Reg.PWR_DIE_A_ALLOW (t1.floorOf d) (dieOff d)).setF cr0 .pwr 0 Reg.PWR_STATUS_FLOOR
        (setBit fl (dieCode d))).log d .pwr 0 0x8002
    | _ => t
  .next ((x.stale.filter due).foldl step s)

/-! ### Power fail (R368 to R370, R492) -/

/-- `POWER_FAIL` (R368, R491, R492): P, declared by `PWR_FAIL#` (cause 1), `BUS_SENSE` (2) or both on one beat (3). After
step 2 of start-up CR0 logs one RC 0x8005 and sets PF; from then on no die issues anything, and the ledger works from its
state at P (R346). -/
def execPowerFail (cause : Fin 4) (s : State) : Host.Outcome State Fault Refusal :=
  if s.isF cr0 .pwr 0 Reg.PWR_STATUS_PF || decide (s.phase < 2) || cause.val == 0 then .next s
  else
    let s1 := (s.log cr0 .pwr 0 0x8005 [BitVec.ofNat 8 cause.val]).setF cr0 .pwr 0 Reg.PWR_STATUS_PF 1
    let st := s1.getF cr0 .ldg 0 Reg.LDG_STATUS_STATE
    let s2 := { s1.setPow cr0 { s1.pow cr0 with pfAt := s1.time + 1 } with
      ldg := { s1.ldg with pfAt := s1.beat cr0 + 1, pfPart := st != 2, tabDirty := false } }
    .next (if st == 0 then s2 else s2.setF cr0 .ldg 0 Reg.LDG_STATUS_STATE 3)

/-- CR0's CRF. -/
def crf0 : Domain := 13

/-- `POWER_FAIL_DOMAINS_OFF` (R368): at the first frame boundary after P every switched domain but CR0's CRF goes off. -/
def execPowerFailDomainsOff (s : State) : Host.Outcome State Fault Refusal :=
  if s.isF cr0 .pwr 0 Reg.PWR_STATUS_PF && s.atFrame cr0 then .next (s.allOffBut [crf0]) else .next s

/-- `POWER_RETURN` (R370): 100 ms of good power in the power-fail state request a power cycle. -/
def execPowerReturn (s : State) : Host.Outcome State Fault Refusal :=
  if s.isF cr0 .pwr 0 Reg.PWR_STATUS_PF && !s.pins.pwrcycReq && decide ((s.pow cr0).pfAt - 1 + 100 * msBeats ≤ s.time) then
    .next (s.powerCycle 0x0C)
  else .next s

/-! ### Rails (R472, R497) -/

/-- Min and Max of a rail in mV (R472). -/
def railLimits (k : Nat) : Nat × Nat :=
  if k < 4 then (728, 772)
  else [(776, 824), (728, 772), (873, 927), (1067, 1133), (388, 412), (1746, 1854), (728, 772), (728, 772), (728, 772),
    (873, 927), (1164, 1236), (873, 927), (1710, 1890), (3135, 3465)].getD (k - 4) (0, 0)

/-- Whether a domain that a rail feeds is on; rails of what is always on count as on (R472). -/
def State.railOn (s : State) (k : Nat) : Bool :=
  let on (l : List Nat) : Bool := l.any s.domOn
  if k < 4 then on [k, 4 + k]
  else if k == 4 || (5 ≤ k && k ≤ 9) then on [8, 9, 10, 11]
  else if k == 10 then on [12, 13]
  else if k == 13 || k == 14 then on [12, 14]
  else true

/-- `RAIL_SAMPLE` (R472, R497): once a frame each rail's voltage, in mV, is sampled; LOW and HIGH are set below Min and
above Max. CR1's rail reads 0. -/
def execRailSample (mv : List Nat) (s : State) : Host.Outcome State Fault Refusal :=
  if !s.atFrame cr0 then .next s
  else .next ((List.range 18).foldl (fun t k =>
    let v := if k == 11 || !s.railOn k then 0 else mv.getD k 0
    let t1 := t.setF cr0 .pwr 0 Reg.PWR_RAIL_MV v (4 * k)
    if v == 0 then t1
    else
      let l := railLimits k
      let t2 := if v < l.1 then t1.setF cr0 .pwr 0 Reg.PWR_RAIL_LOW 1 (4 * k) else t1
      if l.2 < v then t2.setF cr0 .pwr 0 Reg.PWR_RAIL_HIGH 1 (4 * k) else t2) s)

end Sys2Proof.Machine
end

