-- ==== Sys2Proof/Machine/Pw.lean ====
section
/-! DEFINITION. The window of package memory, the memory messages and their answers, posted-write counts and scrubbing
(R242 to R264). -/

namespace Sys2Proof.Machine

/-! ### The window (R243 to R245) -/

/-- HBM bytes of a Movement die (R244). -/
def State.hbmBytes (s : State) : Nat := if s.h8 then 0xC00000000 else 0x600000000

/-- Where the recovery region begins: its top 256 MiB (R244). -/
def State.recBase (s : State) : Nat := s.hbmBytes - 0x10000000

/-- The package address of an HBM offset, and of an on-chip offset, of a die (R242). -/
def hbmPa (d : Die) (off : Nat) : Nat := dieCode d * 2 ^ 45 + off
def chipPa (d : Die) (off : Nat) : Nat := dieCode d * 2 ^ 45 + 2 ^ 44 + off

/-- The scratchpad bank that holds an offset: bits 11:6, so a run of 4,096 bytes lies in the 64 banks once (R246). -/
def spBank (off : Nat) : Nat := off / 64 % 64

/-- The pseudo-channel that holds an HBM offset: bits 12:8 in every mode (R247). -/
def hbmChannel (off : Nat) : Nat := off / 256 % 32

/-- The stack of a Movement die that holds an HBM offset: an H4 die has one; on an H8 die bit 13 chooses in mode 0, and in
mode 1 the first 24 GiB lie in the first (R247). -/
def State.hbmStackOf (s : State) (d : Die) (off : Nat) : Nat :=
  if !s.h8 then 0
  else if s.getF d .mem 0 Reg.MEM_STATUS_MODE_EFF == 0 then off / 2 ^ 13 % 2
  else if off < 0x600000000 then 0 else 1

/-- Whether an access lies outside the window (R245); `ctl` is set for the die controller. -/
def State.outside (s : State) (pa len : Nat) (wr ctl : Bool) : Bool :=
  let chip := bit pa 44
  let off := pa % 2 ^ 44
  match dieOfCode (pa / 2 ^ 45 % 8) with
  | none => true
  | some d =>
    !s.hasDie d || match d with
      | .cr _ => !chip || decide (0x1800000 < off + len)
      | .mv _ =>
        if !chip then decide (s.hbmBytes < off + len) || (wr && !ctl && decide (s.recBase < off + len))
        else !(decide (off + len ≤ 0x4000000) ||
          decide (0xFF00000 ≤ off ∧ off < 0xFF04000 ∧ len = 4 ∧ off % 4 = 0))

/-- The click counter that a package address of a Movement die names (R236). -/
def counterOf (pa : Nat) : Option Nat :=
  let off := pa % 2 ^ 44
  if bit pa 44 && decide (0xFF00000 ≤ off ∧ off < 0xFF04000) then some ((off - 0xFF00000) / 4) else none

/-- The engine whose buffer holds a package address (R243). -/
def bufferOf (pa : Nat) : Option Nat :=
  let off := pa % 2 ^ 44
  if bit pa 44 && decide (0x3000000 ≤ off ∧ off < 0x4000000) then some ((off - 0x3000000) / 0x100000) else none

/-! ### Units in reset (R257, R451) -/

/-- Whether a unit of a Movement die is in reset, from the fence of a recovery until the domain leaves reset: an engine's
buffer, or the sync unit with `none`. A domain that is off is in reset too. -/
def State.unitDown (s : State) (d : Die) (eng : Option Nat) : Bool :=
  let x := s.dom (dieCode d)
  let p := s.dom 4
  let down (y : RcvDom) : Bool := decide (3 ≤ y.level ∧ 1 ≤ y.step ∧ y.step ≤ 3) || y.inReset
  !s.powered d .eng || down x || down p ||
    match eng with
    | some e => x.level == 2 && x.eng == e && decide (1 ≤ x.step ∧ x.step ≤ 3)
    | none => false

/-! ### Messages (R254) -/

/-- A command flit. -/
def cmdFlit (code die pkg ctx : Nat) (host : Bool) (epoch tag target len : Nat) (a b : Nat) : List Byte :=
  leBytes 2 code ++ [BitVec.ofNat 8 die, BitVec.ofNat 8 pkg, BitVec.ofNat 8 (ctx % 32 + 32 * b2n host + 128 * epoch), 0] ++
    leBytes 2 tag ++ leBytes 7 (target % 2 ^ 52) ++ [0] ++ leBytes 2 (len - 1) ++ [0, 0] ++ leBytes 8 a ++ leBytes 8 b ++
    List.replicate 28 0

/-- Fields of a command flit: HOST, EPOCH, TAG, LEN in bytes, fields A and B. -/
def cmdHost (p : List Byte) : Bool := bit (p.getD 4 0).toNat 5
def cmdEpoch (p : List Byte) : Nat := (p.getD 4 0).toNat / 128
def cmdTag (p : List Byte) : Nat := leNat ((p.drop 6).take 2)
def cmdLen (p : List Byte) : Nat := leNat ((p.drop 16).take 2) % 4096 + 1
def cmdA (p : List Byte) : Nat := leNat ((p.drop 20).take 8)
def cmdB (p : List Byte) : Nat := leNat ((p.drop 28).take 8)

/-- The bundle choice of a message (R141). -/
def selOf (target : Nat) : Nat := target / 2 ^ 12 % 256

/-- Whether a message's range crosses a 4,096-byte boundary (R254). -/
def crosses (target len : Nat) : Bool := decide (4096 < target % 4096 + len)

/-- The origin of a message as the number its counts are kept by: package, die, context or function, epoch (R259). -/
def originKey (p : List Byte) : Nat :=
  let (die, pkg) := cmdOrigin p
  ((pkg * 8 + die) * 64 + if cmdHost p then 32 else cmdCtx p) * 2 + cmdEpoch p

/-- The counts a destination die keeps for an origin. -/
def cntKey (d : Die) (o : Nat) : Nat := dieCode d * 2 ^ 15 + o

/-- Count a message accepted, and failed (R259). -/
def State.countAccepted (s : State) (d : Die) (o : Nat) : State :=
  { s with accepted := Tab.set 0 s.accepted (cntKey d o) ((Tab.get 0 s.accepted (cntKey d o) + 1) % 2 ^ 32) }
def State.countFailed (s : State) (d : Die) (o : Nat) : State :=
  { s with failed := Tab.set 0 s.failed (cntKey d o) ((Tab.get 0 s.failed (cntKey d o) + 1) % 2 ^ 32) }

/-- The context byte of a record about a message: its context, or the PCIe function that sent it (R441). -/
def cmdLogCtx (p : List Byte) : Nat := if cmdHost p then 0x40 + (cmdOrigin p).1 - 4 else cmdCtx p

/-! ### Poison and error records (R249 to R252) -/

/-- Mark a granule poisoned, counting it on a Movement die when it was not. -/
def State.makePoison (s : State) (d : Die) (pa : Nat) : State :=
  if s.poisoned pa then s
  else
    let s1 := s.setPoison pa true
    match d with
    | .mv _ => s1.bumpF d .mem 0 Reg.MEM_POISON_MADE
    | .cr _ => s1

/-- An uncorrectable granule: written back with poison, RC 0x5001 with its PA, `MEM.LAST_UE` (R249). -/
def State.uncorrectable (s : State) (d : Die) (pa : Nat) : State :=
  let g := pa / 64 * 64
  let s1 := (s.makePoison d g).log d .mem 0 0x5001 (leBytes 6 g)
  match d with
  | .mv _ => s1.set64 d .mem 0 Reg.MEM_LAST_UE_LO_PA Reg.MEM_LAST_UE_HI_PA g
  | .cr _ => s1

/-- Count corrected errors in `MEM.ECC` (R249). -/
def State.corrected (s : State) (d : Die) (hbm : Bool) (n : Nat) : State :=
  match d with
  | .mv _ => s.addF d .mem 0 (if hbm then Reg.MEM_ECC_HBM_CORR else Reg.MEM_ECC_SP_CORR) n
  | .cr _ => s

/-- A read message has been served with poison: one RC 0x5003 with the reader's context and the number of poisoned
granules (R252). -/
def State.servedPoison (s : State) (d : Die) (ctx n : Nat) : State :=
  let s1 := s.log d .mem 0 0x5003 (leBytes 4 n) ctx
  match d with
  | .mv _ => s1.bumpF d .mem 0 Reg.MEM_POISON_READS
  | .cr _ => s1

/-- Write bytes of one granule: a whole granule clears poison; a part merges, and leaves a poisoned granule as it is
(R250). The flag says that the merge failed. -/
def State.mergeGranule (s : State) (pa : Nat) (l : List Byte) : Bool × State :=
  if pa % 64 == 0 && l.length == 64 then (false, s.wrGranule pa l)
  else if s.poisoned pa then (true, s)
  else (false, s.wrBytes pa l)

/-- Cut bytes at multiples of `g` (64: granules; 4096: blocks). -/
def cutAt (g : Nat) : Nat → Nat → List Byte → List (Nat × List Byte)
  | 0, _, _ => []
  | _, _, [] => []
  | n + 1, pa, l =>
    let k := g - pa % g
    (pa, l.take k) :: cutAt g n (pa + k) (l.drop k)

/-- Pieces of a byte run within blocks of `g`. -/
def pieces (g pa : Nat) (l : List Byte) : List (Nat × List Byte) := cutAt g (l.length / g + 2) pa l

/-- A local write of bytes by a unit of the die (R250, R253); a write with poison sets it on every granule it covers. -/
def State.localWrite (s : State) (d : Die) (pa : Nat) (l : List Byte) (poison : Bool) : State :=
  (pieces 64 pa l).foldl (fun t p => let u := (t.mergeGranule p.1 p.2).2; if poison then u.makePoison d p.1 else u) s

/-! ### Click counters (R235, R236) -/

/-- The value of a counter. -/
def State.ctr (s : State) (d : Die) (n : Nat) : Nat := s.getF d .syn 0 Reg.SYN_CTR_VALUE (4 * n)

/-- A signal adds its value, modulo 2³². -/
def State.signal (s : State) (d : Die) (n v : Nat) : State := s.setF d .syn 0 Reg.SYN_CTR_VALUE (s.ctr d n + v) (4 * n)

/-! ### Issuing (R253 to R255, R259) -/

/-- The issuer of a message: a context on a die, or a Crown die's function. -/
def issuer (d : Die) (ctx : Nat) (host : Bool) : Nat := 64 * dieCode d + if host then 32 else ctx

/-- The epoch bit of an issuer. -/
def State.epoch (s : State) (d : Die) (ctx : Nat) (host : Bool) : Nat :=
  if host then Tab.get 0 s.hostEpoch (dieCode d) else s.getF d .mem 0 Reg.MEM_PWSTAT_EPOCH (0x10 * ctx)

/-- Flip it. -/
def State.flipEpoch (s : State) (d : Die) (ctx : Nat) (host : Bool) : State :=
  let v := 1 - s.epoch d ctx host
  if host then { s with hostEpoch := Tab.set 0 s.hostEpoch (dieCode d) v }
  else s.setF d .mem 0 Reg.MEM_PWSTAT_EPOCH v (0x10 * ctx)

/-- The count of an issuer under an epoch to a destination (8 × package + die). -/
def issKey (o epoch dest : Nat) : Nat := (o * 2 + epoch) * 128 + dest

/-- The next TAG of an issuer, and the state that has used it. -/
def State.takeTag (s : State) (o : Nat) : Nat × State :=
  let t := Tab.get 0 s.nextTag o
  (t, { s with nextTag := Tab.set 0 s.nextTag o ((t + 1) % 65536) })

/-- Record a PW_FAIL notice at its origin (R258): the first failure of a context is kept
(log entry 42, DESIGN CHOICE). -/
def State.takePwFail (s : State) (d : Die) (p : List Byte) (full : Bool) : State :=
  if cmdHost p then s
  else match d with
    | .cr _ => s
    | .mv _ =>
      let k := 0x10 * cmdCtx p
      if full then s.setF d .mem 0 Reg.MEM_PWSTAT_FOLDED 1 k
      else if s.isF d .mem 0 Reg.MEM_FIRST_TAG_VALID k then s
      else ((((s.setF d .mem 0 Reg.MEM_FIRST_TAG_TAG (cmdTag p) k).setF d .mem 0 Reg.MEM_FIRST_TAG_CAUSE (cmdB p % 256) k).setF d
        .mem 0 Reg.MEM_FIRST_TAG_VALID 1 k).setF d .mem 0 Reg.MEM_FIRST_PA_LO_ADDR (cmdTarget p) k).setF d .mem 0
        Reg.MEM_FIRST_PA_HI_ADDR (cmdTarget p / 2 ^ 32) k

/-- The granules that a message of `len` bytes from `pa` covers, as a notice counts them: 64 at most (R254, R257)
(log entry 181, DEDUCED). -/
def granules (pa len : Nat) : Nat := min 64 ((pa % 64 + len + 63) / 64)

/-- A failure at the destination (R257): RC 0x5002 with the origin, the TAG and the PA, the count, and one PW_FAIL notice
that names the first failing granule (log entry 35, PRESUMED). -/
def State.pwFailed (s : State) (d : Die) (p : List Byte) (cause n pa : Nat) : State :=
  let (od, opkg) := cmdOrigin p
  let s1 := (s.log d .mem 0 0x5002 ([BitVec.ofNat 8 cause, BitVec.ofNat 8 od, BitVec.ofNat 8 opkg, p.getD 4 0] ++
    leBytes 2 (cmdTag p) ++ leBytes 6 pa) (cmdLogCtx p)).countFailed d (originKey p)
  let target := cmdTarget p / 2 ^ 48 * 2 ^ 48 + pa
  let note := cmdFlit 0x49 od opkg (cmdCtx p) (cmdHost p) (cmdEpoch p) (cmdTag p) target (cmdLen p) (s1.beat d)
    (cause + 256 * n + 2 ^ 16 * dieCode d + 2 ^ 24 * s1.pkgId)
  match dieOfCode od with
  | none => s1
  | some o => if opkg == s1.pkgId && o == d then s1.takePwFail d note false else s1.sendMsg d opkg o 2 (selOf target) [note]

/-! ### Messages at their destination (R250, R252, R254, R257) -/

/-- Write one granule of a WRITE: the state, and the cause when it fails. `bad` says the granule is found uncorrectable,
`dead` that its HBM stack did not complete the write. -/
def State.writeOne (s : State) (d : Die) (pa : Nat) (l : List Byte) (bad dead : Bool) : Option Nat × State :=
  let down := match d, bufferOf pa with
    | .mv _, some e => s.unitDown d (some e)
    | _, _ => false
  if down then (some 4, s.makePoison d pa)
  else if dead && !bit pa 44 then (some 3, s.makePoison d pa)
  else
    let whole := pa % 64 == 0 && l.length == 64
    if bad && !whole then (some 1, s.uncorrectable d pa)
    else
      let (f, t) := s.mergeGranule pa l
      (if f then some 2 else none, t)

/-- The bytes of a WRITE with their granules: data flit *j* carries granule *j* of the range (R254). -/
def writeData (target len : Nat) (data : List (List Byte)) : List Byte :=
  ((data.map fun f => f ++ List.replicate (64 - f.length) 0).flatten.drop (target % 64)).take len

/-- A signal taken by the sync unit, or failed with cause 4 while it is in reset (R257, R451). -/
def State.takeSignal (s : State) (d : Die) (p : List Byte) (n v : Nat) : State :=
  if s.unitDown d none then s.pwFailed d p 4 1 (cmdTarget p % 2 ^ 48) else s.signal d n v

/-- A WRITE at its destination. -/
def State.takeWrite (s : State) (d : Die) (p : List Byte) (data : List (List Byte)) (bad dead : List Nat) : State :=
  let pa := cmdTarget p % 2 ^ 48
  let len := cmdLen p
  let s1 := s.countAccepted d (originKey p)
  if crosses pa len then s1.pwFailed d p 5 (granules pa len) pa
  else match counterOf pa with
    | some n => s1.takeSignal d p n (leNat (writeData pa len data))
    | none =>
      let step (acc : List (Nat × Nat) × State) (q : Nat × List Byte) : List (Nat × Nat) × State :=
        let j := q.1 / 64 - pa / 64
        let (c, t) := acc.2.writeOne d q.1 q.2 (decide (j ∈ bad)) (decide (j ∈ dead))
        match c with
        | some k => (acc.1 ++ [(q.1 / 64 * 64, k)], t)
        | none => (acc.1, if bit (cmdA p) j then t.makePoison d q.1 else t)
      let (fails, s2) := (pieces 64 pa (writeData pa len data)).foldl step ([], s1)
      match fails with
      | [] => s2
      | (a, c) :: _ => s2.pwFailed d p c fails.length a

/-- `WRITE` (R250, R254, R256, R257): a WRITE reaches its destination die: its command flit and data flits, the granules of
it found uncorrectable in a merge, and those the stack did not complete after 4 retries. -/
def execWrite (d : Die) (cmd : List Byte) (data : List (List Byte)) (bad dead : List Nat) (s : State) :
    Host.Outcome State Fault Refusal :=
  if s.hasDie d then .next (s.takeWrite d cmd data bad dead) else .next s

/-- A SIGNAL at its destination. -/
def State.takeSignalMsg (s : State) (d : Die) (p : List Byte) : State :=
  let pa := cmdTarget p % 2 ^ 48
  let s1 := s.countAccepted d (originKey p)
  if crosses pa (cmdLen p) then s1.pwFailed d p 5 (granules pa (cmdLen p)) pa
  else match counterOf pa with
    | some n => s1.takeSignal d p n (cmdA p % 2 ^ 32)
    | none => s1

/-- `SIGNAL` (R235, R236, R254, R257): a SIGNAL reaches the sync unit of a Movement die. -/
def execSignal (m : Mv) (cmd : List Byte) (s : State) : Host.Outcome State Fault Refusal :=
  .next (s.takeSignalMsg (.mv m) cmd)

/-- The flit of granule `g` as a read returns it: memory, or the counters of a counter's granule. -/
def State.readGranule (s : State) (d : Die) (g : Nat) : List Byte :=
  match counterOf g with
  | some n => ((List.range 16).map fun i => leBytes 4 (s.ctr d (n + i))).flatten
  | none => s.rdBytes g 64

/-- Answer an issuer with READ_DATA on RSP. -/
def State.sendReadData (s : State) (d : Die) (p : List Byte) (mask : Nat) (flits : List (List Byte)) : State :=
  let (od, opkg) := cmdOrigin p
  let cmd := cmdFlit 0x20 od opkg (cmdCtx p) (cmdHost p) (cmdEpoch p) (cmdTag p) (cmdTarget p) (cmdLen p) mask
    (if mask == 0 then 0 else 1)
  match dieOfCode od with
  | some o => s.sendMsg d opkg o 0 (selOf (cmdTarget p)) (cmd :: flits)
  | none => s

/-- Serve a read of granules: uncorrectable ones are poisoned, poison is reported; the poison mask and the flits. -/
def State.serveRead (s : State) (d : Die) (pa len ctx : Nat) (bad : List Nat) : Nat × List (List Byte) × State :=
  let gs := (List.range ((pa + len - 1) / 64 - pa / 64 + 1)).map fun j => (j, (pa / 64 + j) * 64)
  let s1 := gs.foldl (fun t g => if decide (g.1 ∈ bad) && !t.poisoned g.2 then t.uncorrectable d g.2 else t) s
  let down (g : Nat) : Bool := match d, bufferOf g with
    | .mv _, some e => s1.unitDown d (some e)
    | _, _ => false
  let mask := gs.foldl (fun m g => if s1.poisoned g.2 || down g.2 then setBit m g.1 else m) 0
  let flits := gs.map fun g => s1.readGranule d g.2
  (mask, flits, if mask == 0 then s1 else s1.servedPoison d ctx (popcount mask 64))

/-- `READ` (R249, R252, R257, R451): a READ reaches its destination; `bad` are the granules found uncorrectable, `corr`
how many errors were corrected. -/
def execRead (d : Die) (cmd : List Byte) (bad : List Nat) (corr : Nat) (s : State) : Host.Outcome State Fault Refusal :=
  if !s.hasDie d then .next s
  else
    let pa := cmdTarget cmd % 2 ^ 48
    if crosses pa (cmdLen cmd) then
      let (od, opkg) := cmdOrigin cmd
      let s1 := s.log d .mem 0 0x5004 ([BitVec.ofNat 8 od, BitVec.ofNat 8 opkg] ++ leBytes 7 (cmdTarget cmd)) (cmdLogCtx cmd)
      .next (s1.sendReadData d cmd (2 ^ 64 - 1) (List.replicate 64 (List.replicate 64 0)))
    else
      let (mask, flits, s1) := (s.corrected d (!bit pa 44) corr).serveRead d pa (cmdLen cmd) (cmdLogCtx cmd) bad
      .next (s1.sendReadData d cmd mask flits)

/-- `FENCE_PROBE` (R259, R260): a destination answers at once with its counts for the origin and the epoch probed. -/
def execFenceProbe (d : Die) (cmd : List Byte) (s : State) : Host.Outcome State Fault Refusal :=
  let (od, opkg) := cmdOrigin cmd
  let k := cntKey d (originKey cmd)
  let a := Tab.get 0 s.accepted k + 2 ^ 32 * Tab.get 0 s.failed k
  let rsp := cmdFlit 0x21 od opkg (cmdCtx cmd) (cmdHost cmd) (cmdEpoch cmd) (cmdTag cmd) (cmdTarget cmd) (cmdLen cmd) a 0
  match dieOfCode od with
  | some o => .next (if s.hasDie d then s.sendMsg d opkg o 0 0 [rsp] else s)
  | none => .next s

/-- `PW_FAIL` (R170, R258): a notice reaches its origin, which keeps or folds it. -/
def execPwFail (d : Die) (cmd : List Byte) (full : Bool) (s : State) : Host.Outcome State Fault Refusal :=
  if s.hasDie d then .next (s.takePwFail d cmd full) else .next s

/-! ### Sending (R253, R254, R259) -/

/-- Count one message issued. -/
def State.countIssued (s : State) (o epoch dest : Nat) : State :=
  let k := issKey o epoch dest
  { s with issued := Tab.set 0 s.issued k ((Tab.get 0 s.issued k + 1) % 2 ^ 32) }

/-- The data flits of bytes from a target on: whole granules, with zeros outside the range. -/
def dataFlits (target : Nat) (l : List Byte) : List (List Byte) :=
  let pad := List.replicate (target % 64) (0 : Byte) ++ l
  (List.range ((pad.length + 63) / 64)).map fun j =>
    let f := (pad.drop (64 * j)).take 64
    f ++ List.replicate (64 - f.length) 0

/-- Post one WRITE that lies within one block. A destination on the issuer's own die is reached without a link. A mover's WRITE
carries in field A, as READ_DATA does, which of its granules, here numbered by tray address over 64, were copied with poison (R252)
(log entry 161, DESIGN CHOICE). -/
def State.postOne (s : State) (d : Die) (ctx : Nat) (host : Bool) (target : Nat) (l : List Byte) (bad : List Nat := []) : State :=
  let o := issuer d ctx host
  let e := s.epoch d ctx host
  let (tag, s1) := s.takeTag o
  let pkg := target / 2 ^ 48
  let mask := bad.foldl (fun m g => if decide (target / 64 ≤ g ∧ g ≤ (target + l.length - 1) / 64) then setBit m (g - target / 64)
    else m) 0
  let cmd := cmdFlit 1 (dieCode d) s.pkgId ctx host e tag target l.length mask 0
  let s2 := s1.countIssued o e (8 * pkg + target / 2 ^ 45 % 8)
  match dieOfCode (target / 2 ^ 45 % 8) with
  | none => s2
  | some t =>
    if pkg == s.pkgId && t == d then s2.takeWrite d cmd (dataFlits target l) [] []
    else s2.sendMsg d pkg t 1 (selOf target) (cmd :: dataFlits target l)

/-- Post a write, one WRITE per block (R254). -/
def State.post (s : State) (d : Die) (ctx : Nat) (host : Bool) (target : Nat) (l : List Byte) (bad : List Nat := []) : State :=
  (pieces 4096 target l).foldl (fun t p => t.postOne d ctx host p.1 p.2 bad) s

/-- Post a SIGNAL to a counter of another die (R236). -/
def State.postSignal (s : State) (d : Die) (ctx : Nat) (m : Mv) (n v : Nat) : State :=
  let target := s.pkgId * 2 ^ 48 + chipPa (.mv m) (0xFF00000 + 4 * n)
  let o := issuer d ctx false
  let e := s.epoch d ctx false
  let (tag, s1) := s.takeTag o
  let cmd := cmdFlit 2 (dieCode d) s.pkgId ctx false e tag target 4 v 0
  (s1.countIssued o e (8 * s.pkgId + m.val)).sendMsg d s.pkgId (.mv m) 1 (selOf target) [cmd]

/-- A place some bytes further on. -/
def moveEndAt (p : MoveEnd) (n : Nat) : MoveEnd :=
  match p with
  | .mem a => .mem (a + n)
  | .host c a => .host c (a + n)

/-- The counter that numbers an issuer's READs: R254 has WRITE and SIGNAL alone share a numbering
(log entry 179, DESIGN CHOICE). -/
def readIssuer (d : Die) (ctx : Nat) (host : Bool) : Nat := 512 + issuer d ctx host

/-- Send READs for a range of another die, and wait for their data (R254). -/
def State.sendReads (s : State) (d : Die) (ctx : Nat) (host : Bool) (eng target len : Nat) (dst : Option MoveEnd) (id : Nat := 0) :
    State :=
  ((pieces 4096 target (List.replicate len 0)).foldl (fun t p =>
    let (tag, t1) := t.takeTag (readIssuer d ctx host)
    let r : ReadReq := ⟨tag, ctx, host, p.1, p.2.length, dst.map fun q => moveEndAt q (p.1 - target), eng, id⟩
    let cmd := cmdFlit 0x10 (dieCode d) t.pkgId ctx host 0 tag p.1 p.2.length 0 0
    let t2 := { t1 with rdReqs := Tab.set [] t1.rdReqs (dieCode d) (Tab.get [] t1.rdReqs (dieCode d) ++ [r]) }
    match dieOfCode (p.1 / 2 ^ 45 % 8) with
    | some x => t2.sendMsg d (p.1 / 2 ^ 48) x 3 (selOf p.1) [cmd]
    | none => t2) s)

/-- The scrub period of a Movement die's HBM in hours (R265, R266). -/
def State.scrubHours (s : State) (d : Die) : Nat :=
  if s.isF d .mem 0 Reg.MEM_CTL_EXPERT then s.getF d .mem 0 Reg.MEM_CTL_SCRUB_H else 24

/-- Beats of an hour. -/
def hourBeats : Nat := 3600000 * msBeats

/-- `SCRUB_PASS` (R249, R251): a pass over a Movement die's HBM, or its scratchpad, ends; `bad` are the package addresses of
granules found uncorrectable, `corr` the errors corrected. -/
def execScrubPass (m : Mv) (hbm : Bool) (bad : List Nat) (corr : Nat) (s : State) : Host.Outcome State Fault Refusal :=
  let d : Die := .mv m
  let x := s.die d
  let due := if hbm then decide (x.scrubH + s.scrubHours d * hourBeats ≤ s.time) else decide (x.scrubS + hourBeats ≤ s.time)
  if !s.enabled .mem d || !due then .next s
  else
    let s1 := s.setDie d (if hbm then { x with scrubH := s.time } else { x with scrubS := s.time })
    let s2 := bad.foldl (fun t g => if t.poisoned g then t else t.uncorrectable d g) (s1.corrected d hbm corr)
    .next (if hbm then s2.bumpF d .mem 0 Reg.MEM_SCRUB_PASSES else s2)

end Sys2Proof.Machine
end

