-- ==== Sys2Proof/Machine/Engine.lean ====
section
/-! DEFINITION. Engines and their runs, descriptor headers, what completes with a descriptor, barriers and fences (R217, R220 to
R229, R237, R260 to R263). -/

namespace Sys2Proof.Machine

/-! ### Units and streams -/

/-- A unit of a Movement die: E0 to E15, Q0 and Q1 (16, 17), M0 to M3 (18 to 21). -/
def State.eng (s : State) (d : Die) (u : Nat) : EngSt := Tab.get {} s.engs (32 * dieCode d + u)

/-- The state with another content of a unit. -/
def State.setEng (s : State) (d : Die) (u : Nat) (x : EngSt) : State :=
  { s with engs := Tab.set {} s.engs (32 * dieCode d + u) x }

/-- The queue of a scan engine or mover. -/
def State.queue (s : State) (d : Die) (u : Nat) : List Desc := Tab.get [] s.queues (32 * dieCode d + u)

/-- What POS shows of the descriptor that runs: the position a scan or retrieval has begun at, or the bytes a move has left in units
of 16 B (log entry 162, DESIGN CHOICE). -/
def workPos (w : Work) : Nat :=
  match w with
  | .move x => ceilDiv (x.width * (x.rows1.val + 1)) 16
  | _ => match workRange w with
    | some (_, start, _) => start
    | none => 0

/-- Put the queue of a scan engine or mover, and show its occupancy and the descriptor that runs. -/
def State.setQueue (s : State) (d : Die) (u : Nat) (q : List Desc) : State :=
  let s1 := { s with queues := Tab.set [] s.queues (32 * dieCode d + u) q }
  let (busy, ctx, pos) := match q with
    | x :: _ => (1, x.ctx, workPos x.op.work)
    | [] => (0, 0, 0)
  if u < 18 then
    let k := 0x10 * (u - 16)
    (((s1.setF d .seq 0 Reg.SEQ_Q_BUSY busy k).setF d .seq 0 Reg.SEQ_Q_CTX ctx k).setF d .seq 0 Reg.SEQ_Q_POS pos k).setF d .seq 0
      Reg.SEQ_QOCC_OCC q.length k
  else
    let k := 4 * (u - 18)
    ((s1.setF d .dma 0 Reg.DMA_M_BUSY busy k).setF d .dma 0 Reg.DMA_M_CTX ctx k).setF d .dma 0 Reg.DMA_M_POS pos k

/-- The stream of a context on an engine (R223). -/
def State.stream (s : State) (d : Die) (e n : Nat) : StreamSt := Tab.get {} s.streams ((16 * dieCode d + e) * 32 + n)

/-- The state with another content of a stream. -/
def State.setStream (s : State) (d : Die) (e n : Nat) (x : StreamSt) : State :=
  { s with streams := Tab.set {} s.streams ((16 * dieCode d + e) * 32 + n) x }

/-- Every stream of a context on a die, changed alike. -/
def State.mapStreams (s : State) (d : Die) (n : Nat) (f : StreamSt → StreamSt) : State :=
  (List.range 16).foldl (fun t e => let x := t.stream d e n; if x.bound then t.setStream d e n (f x) else t) s

/-- Note a context as a suspect of a unit: it ran there, or a descriptor of it was started or queued there (R460). -/
def State.noteSuspect (s : State) (d : Die) (u n : Nat) : State :=
  let x := s.eng d u
  let t := s.turn d
  if x.suspTurn == t then s.setEng d u { x with suspNow := setBit x.suspNow n }
  else s.setEng d u { x with suspNow := setBit 0 n, suspWas := if x.suspTurn + 1 == t then x.suspNow else 0, suspTurn := t }

/-! ### Descriptor headers (R217) -/

/-- The four header words at a stream position. -/
def State.header (s : State) (x : StreamSt) : List Nat :=
  (List.range 4).map fun i => s.rd32 (x.head + 16 * x.pos + 4 * i)

/-- Fields of a header. -/
def hCat (w : List Nat) : Nat := bitsOf (w.getD 0 0) 0 4
def hLen (w : List Nat) : Nat := bitsOf (w.getD 0 0) 16 8
def hWait (w : List Nat) : Bool := bit (w.getD 0 0) 24
def hSig (w : List Nat) : Bool := bit (w.getD 0 0) 25
def hFence (w : List Nat) : Bool := bit (w.getD 0 0) 26
def hHeavy (w : List Nat) : Bool := bit (w.getD 0 0) 27
def hChkpt (w : List Nat) : Bool := bit (w.getD 0 0) 28
def hLast (w : List Nat) : Bool := bit (w.getD 0 0) 29
def hBound (w : List Nat) : Nat := bitsOf (w.getD 1 0) 0 24
def hSigVal (w : List Nat) : Nat := bitsOf (w.getD 1 0) 24 8
def hWaitCtr (w : List Nat) : Nat := bitsOf (w.getD 2 0) 0 12
def hSigCtr (w : List Nat) : Nat := bitsOf (w.getD 2 0) 16 12
def hSigDie (w : List Nat) : Nat := bitsOf (w.getD 2 0) 28 3
def hWaitVal (w : List Nat) : Nat := w.getD 3 0

/-- A reserved bit or field is set, SIG_DIE is 4 to 6, or LEN or BOUND is zero (R217, R222) (log entry 36, DEDUCED). -/
def hBad (w : List Nat) : Bool :=
  bitsOf (w.getD 0 0) 30 2 != 0 || bitsOf (w.getD 2 0) 12 4 != 0 || bit (w.getD 2 0) 31 ||
    decide (4 ≤ hSigDie w ∧ hSigDie w ≤ 6) || hLen w == 0 || hBound w == 0

/-- Whether a wait is satisfied (R235). -/
def waitMet (ctr v : Nat) : Bool := decide ((ctr + 2 ^ 32 - v % 2 ^ 32) % 2 ^ 32 < 2 ^ 31)

/-! ### Runs (R224 to R228) -/

/-- Run-table entry `i` of an engine; entries that the image does not give are not there (log entry 18, DESIGN CHOICE). -/
def State.runEntry (s : State) (d : Die) (bank e i : Nat) : Option Nat :=
  let v := s.tbl 8 (dieCode d) bank 0 0 (64 * e + i)
  if v == 0 then none else some (v % 2 ^ 64)

/-- Whether a run-table entry is active in a frame (R155, R224). -/
def State.runActive (s : State) (d : Die) (bank v frame : Nat) : Bool :=
  let r := phaseOf (s.cadence d bank (bitsOf v 6 4)) frame
  decide (bitsOf v 10 24 ≤ r ∧ r ≤ bitsOf v 10 24 + bitsOf v 34 8)

/-- What an engine selects in a frame: the first active entry in table order, as the context it names, and for an OPEN entry its
place in the table. -/
def State.selection (s : State) (d : Die) (e frame : Nat) : Option (Nat × Option Nat) :=
  let bank := s.bank d
  (List.range 64).findSome? fun i => match s.runEntry d bank e i with
    | some v => if s.runActive d bank v frame then some (bitsOf v 0 5, if bit v 5 then some i else none) else none
    | none => none

/-- Whether two selections name one run: the same OPEN entry, or the same context of entries that are not OPEN (R224, R228). -/
def sameRun (a b : Option (Nat × Option Nat)) : Bool :=
  match a, b with
  | some x, some y => x.2 == y.2 && (x.2.isSome || x.1 == y.1)
  | _, _ => false

/-- How many of the next `n` frames after a frame belong to its run. -/
def State.framesOn (s : State) (d : Die) (e : Nat) (sel : Option (Nat × Option Nat)) : Nat → Nat → Nat
  | 0, _ => 0
  | n + 1, f => if sameRun sel (s.selection d e (f + 1)) then 1 + s.framesOn d e sel n (f + 1) else 0

/-- Whether at least `bound` beats remain in the present run of an engine (R225). -/
def State.fitsRun (s : State) (d : Die) (e bound : Nat) : Bool :=
  let f := s.frame d
  let here := frameBeats - s.beat d % frameBeats
  decide (bound ≤ here) ||
    decide (bound ≤ here + frameBeats * s.framesOn d e (s.selection d e f) ((bound - here + 2047) / 2048) f)

/-- The on-demand context that an OPEN run serves: the next running one bound to the engine after the one it served last,
ascending and wrapping (R228). -/
def State.nextOpen (s : State) (d : Die) (e : Nat) : Option Nat :=
  ((List.range 32).map fun i => ((s.eng d e).lastOpen + 1 + i) % 32).find? fun n =>
    (s.stream d e n).bound && s.ctxOnDemand d n && s.ctxState d n == 2

/-- A faulted context that is due to resume does so: from its checkpoint, from its stream heads, or at its position
(R449, R462). -/
def State.resume (s : State) (d : Die) (n : Nat) : State :=
  let c := s.ctx d n
  if s.answers d && s.ctxState d n == 3 && c.resumeAt != 0 && decide (c.resumeAt - 1 ≤ s.beat d) then
    let back (x : StreamSt) : StreamSt :=
      if c.asIs then { x with headAt := 0, deferred := false }
      else { x with pos := if c.chk then x.chkpt else 0, headAt := 0, deferred := false, started := 0 }
    let x := s.die d
    let s1 := ((s.mapStreams d n back).setCtx d n { c with resumeAt := 0, asIs := false }).setCtxState d n 2
    s1.setDie d { x with faulted := clrBit x.faulted n,
                         faultBeat := if bit x.combined n then x.faultBeat else x.beat }
  else s

/-- The stream at whose head a descriptor still waits when its run ends: unless it waits on its counter, it is deferred to the next
run, and its BOUND runs anew there (R220, R225) (log entry 19, DEDUCED). -/
def State.leaveRun (s : State) (d : Die) (e : Nat) : State :=
  match (s.eng d e).run with
  | none => s
  | some n =>
    let y := s.stream d e n
    let w := s.header y
    if (s.eng d e).desc.isSome || (hWait w && !waitMet (s.ctr d (hWaitCtr w)) (hWaitVal w)) then s
    else s.setStream d e n { y with deferred := true }

/-- A run of a context on an engine: a new one, or the one it has. -/
def State.beginRun (s : State) (d : Die) (e n : Nat) (entry : Option Nat) : State :=
  let x := s.eng d e
  let fresh := x.run != some n || x.entry != entry
  let s1 := (if fresh then s.leaveRun d e else s).resume d n
  let g := s1.eng d e
  let s2 := s1.setEng d e { g with run := some n, entry := entry, deferred := g.deferred && !fresh,
                                   lastOpen := if entry.isSome then n else g.lastOpen }
  let y := s2.stream d e n
  let s3 := if fresh && (y.headAt == 0 || y.deferred) then
      s2.setStream d e n { y with headAt := s2.beat d + 1, deferred := false }
    else s2
  ((s3.noteSuspect d e n).setF d .eng 0 Reg.ENG_E_CUR_CTX n (4 * e)).setF d .eng 0 Reg.ENG_E_IDLE_RUN 0 (4 * e)

/-- No run: the engine idles for the frame; `none_` says that no entry is active. -/
def State.endRun (s : State) (d : Die) (e : Nat) (entry : Option Nat) (none_ : Bool) : State :=
  let s1 := s.leaveRun d e
  (s1.setEng d e { s1.eng d e with run := none, entry := entry, deferred := false }).setF d .eng 0 Reg.ENG_E_IDLE_RUN (b2n none_)
    (4 * e)

/-- Whether a Movement die's engine takes part in a recovery and may start nothing (R451, R456). -/
def State.engHeld (s : State) (d : Die) (e : Nat) : Bool :=
  let x := s.dom (dieCode d)
  (s.dom 4).level == 4 || decide (3 ≤ x.level) || (x.level == 2 && x.eng == e) || s.isF cr0 .pwr 0 Reg.PWR_STATUS_PF

/-- The fence of a recovery runs in the domain that issued a unit's descriptor: what comes for its reads is discarded (R451). -/
def State.fencing (s : State) (d : Die) (u num : Nat) : Bool :=
  let from_ (e : Nat) : Bool := u == e || (s.queue d u).any fun q => q.num == num && q.eng == e
  let on (x : RcvDom) : Bool := x.step == 1 && (decide (3 ≤ x.level) || (x.level == 2 && from_ x.eng))
  on (s.dom (dieCode d)) || on (s.dom 4)

/-- `RUN_SELECT` (R224, R227, R228, R449): at a frame boundary an engine selects the first active entry of its run table. An OPEN
entry that it did not select in the frame before begins a run of the next on-demand context; an on-demand context runs in no other
entry. -/
def execRunSelect (m : Mv) (e : Fin 16) (s : State) : Host.Outcome State Fault Refusal :=
  let d : Die := .mv m
  if !s.atFrame d || !s.enabled .eng d then .next s
  else
    let x := s.eng d e
    match s.selection d e (s.frame d) with
    | none => .next (s.endRun d e none true)
    | some (n, none) => .next (if s.ctxOnDemand d n then s.endRun d e none false else s.beginRun d e n none)
    | some (_, some i) =>
      if x.entry == some i then
        match x.run with
        | some n => .next (s.beginRun d e n (some i))
        | none => .next s
      else match s.nextOpen d e with
        | some n => .next (s.beginRun d e n (some i))
        | none => .next (s.endRun d e (some i) false)

/-! ### Faults of contexts (R222, R230, R449) -/

/-- A context fault that arose on die `d`: there first, then on every other die the context is bound to. -/
def State.faultAll (s : State) (d : Die) (n cause eng rc : Nat) : State :=
  mvDies.foldl (fun t x => t.ctxFaultOn n cause eng rc false false x) (s.ctxFaultOn n cause eng rc false false d)

/-- A descriptor fault with its cause: RC 0x9001, logged also of a context that has faulted already, and the context fault
(R222); its token goes back. -/
def State.descFault (s : State) (d : Die) (n eng cause : Nat) : State :=
  let s1 := s.returnToken d 0 n eng
  let s2 := if s1.ctxState d n == 3 then
      s1.log d .eng 0 0x9001 [BitVec.ofNat 8 cause, BitVec.ofNat 8 (ctxAction s1 d n false)] n
    else s1
  s2.faultAll d n cause eng 0x9001

/-- What a Crown die keeps of its host and network ports. -/
def State.host (s : State) (c : Crown) : HostSt := Tab.get {} s.hosts c.val

/-- The state with another content of it. -/
def State.setHost (s : State) (c : Crown) (h : HostSt) : State := { s with hosts := Tab.set {} s.hosts c.val h }

/-- The reads of a unit's descriptor that are still out are forgotten: what comes for them is discarded (R451). -/
def State.dropReads (s : State) (d : Die) (u num : Nat) : State :=
  let rs := (Tab.get [] s.rdReqs (dieCode d)).filter fun r => !(r.eng == u && r.id == num && !r.host)
  s.crowns.foldl (fun t c =>
    let h := t.host c
    t.setHost c { h with moves := h.moves.filter fun r => !(r.die == dieCode d && r.eng == u && r.num == num) })
    { s with rdReqs := Tab.set [] s.rdReqs (dieCode d) rs }

/-- Queue entries of a scan engine or mover that do not stay are dropped (R233, R451). -/
def State.dropQueued (s : State) (d : Die) (u : Nat) (stay : Desc → Bool) : State :=
  ((s.queue d u).filter fun x => !stay x).foldl (fun t x =>
    let y := t.stream d x.eng x.ctx
    let t1 := t.dropReads d u x.num
    if x.sandbox then t1 else t1.setStream d x.eng x.ctx { y with away := y.away - 1 })
    (s.setQueue d u ((s.queue d u).filter stay))

/-- A unit that aborts what it executes for a cause; it is busy until it comes to rest. -/
def State.abortUnit (s : State) (d : Die) (u cause : Nat) : State :=
  let s1 := if u < 16 then
      match (s.eng d u).desc with
      | some x => s.dropReads d u x.num
      | none => s
    else match s.queue d u with
      | x :: _ => s.dropQueued d u fun y => y != x
      | [] => s
  s1.setEng d u { s1.eng d u with desc := none, got := [], abortAt := s1.time + 1, cause := cause + 1 }

/-- A descriptor of a unit, by its number, comes to its end: aborted where the unit executes it, dropped where it waits (R233). -/
def State.endNum (s : State) (d : Die) (u num cause : Nat) : State :=
  let mine (x : Desc) : Bool := x.num == num
  if u < 16 then (if (s.eng d u).desc.any mine then s.abortUnit d u cause else s)
  else if (s.queue d u).head?.any mine then s.abortUnit d u cause
  else s.dropQueued d u fun y => !mine y

/-! ### Culprit replay (R461) -/

/-- The replay of a die. -/
def State.replay (s : State) (d : Die) : Option Replay := Tab.get none s.recov.replays (dieCode d)

/-- Put it, and show whether one is in progress. -/
def State.setReplay (s : State) (d : Die) (r : Option Replay) : State :=
  let s1 := { s with recov := { s.recov with replays := Tab.set none s.recov.replays (dieCode d) r } }
  s1.setF cr0 .rcv 0 Reg.RCV_STATUS_REPLAY (b2n (mvDies.any fun x => (s1.replay x).isSome))

/-- A replayed descriptor meets a fault of a cause (0x07 a hang): noted, with no record and no context fault. -/
def State.replayHit (s : State) (d : Die) (cause : Nat) : State :=
  match s.replay d with
  | some r => s.setReplay d (some { r with hit := cause + 1 })
  | none => s

/-! ### Completion (R221, R227 to R229) -/

/-- The running context becomes idle, and vector 24 + *n* is raised (R228). -/
def State.idleCtx (s : State) (d : Die) (n : Nat) : State :=
  if s.ctxState d n == 2 then (s.setCtxState d n 1).raise none (24 + n) else s

/-- What every completing descriptor does: its signal, its checkpoint, its tokens, LAST. A faulted context records no checkpoint
(R230). -/
def State.finishDesc (s : State) (d : Die) (x : Desc) : State :=
  if x.sandbox then s
  else
    let w := x.words
    let s1 := if !hSig w then s
      else if hSigDie w == 7 || hSigDie w == dieCode d then s.signal d (hSigCtr w) (hSigVal w)
      else s.postSignal d x.ctx (Fin.ofNat 4 (hSigDie w)) (hSigCtr w) (hSigVal w)
    let y := s1.stream d x.eng x.ctx
    let s2 := if !hChkpt w || s1.ctxState d x.ctx == 3 then s1
      else
        let t := s1.setStream d x.eng x.ctx { y with chkpt := x.next, started := 0 }
        let t1 := t.setCtx d x.ctx { t.ctx d x.ctx with chk := true, faults := 0 }
        (t1.setF d .eng 0 Reg.ENG_CTX_CHKPT_POS_POS x.next (ctxOff x.ctx)).setF d .eng 0 Reg.ENG_CTX_CHKPT_BEAT_BEAT (t1.beat d)
          (ctxOff x.ctx)
    let s3 := if s2.hasToken d 0 x.ctx x.eng then s2.returnToken d 0 x.ctx x.eng else s2
    if hLast w && s3.ctxOnDemand d x.ctx then s3.idleCtx d x.ctx else s3

/-- The descriptor that an engine executes itself is over: the engine is free, and the next one is at the head. -/
def State.freeEngine (s : State) (d : Die) (e n : Nat) : State :=
  let y := s.stream d e n
  ((s.setEng d e { s.eng d e with desc := none, got := [] }).setStream d e n { y with headAt := s.beat d + 1 }).setF d .eng 0
    Reg.ENG_E_BUSY 0 (4 * e)

/-! ### Barriers (R237) -/

/-- An arrival at a barrier: the M-th toggles the generation, resets the count and signals the paired counter
(log entry 39, DESIGN CHOICE). -/
def State.arrive (s : State) (d : Die) (bar : Nat) : State :=
  let k := 4 * bar
  let n := s.getF d .syn 0 Reg.SYN_BAR_ARRIVED k + 1
  if n < s.getF d .syn 0 Reg.SYN_BAR_MEMBERS k then s.setF d .syn 0 Reg.SYN_BAR_ARRIVED n k
  else
    let s1 := (s.setF d .syn 0 Reg.SYN_BAR_ARRIVED 0 k).setF d .syn 0 Reg.SYN_BAR_GEN (1 - s.getF d .syn 0 Reg.SYN_BAR_GEN k) k
    let pairs := match s.boot.image with
      | some i => i.barriers
      | none => []
    match pairs.find? fun p => Die.mv p.1 == d && p.2.1 == bar with
    | some p => s1.signal d p.2.2.2.1 p.2.2.2.2
    | none => s1

/-! ### Host reads through BAR2 (R263, R270) -/

/-- A field of a Crown die's `PCI` block. -/
def State.pciF (s : State) (c : Crown) (f : Fld) (k : Nat := 0) : Nat := s.getF (.cr c) .pci 0 f k

/-- `RD_LIMIT` in effect in µs (R298, R299). -/
def State.rdLimit (s : State) (c : Crown) : Nat := if s.pciF c Reg.PCI_CTL_EXPERT == 1 then s.pciF c Reg.PCI_CTL_RD_LIMIT else 40

/-- A host read fails at `RD_LIMIT`: Completer Abort, counted; what its reads still bring is forgotten (R270). -/
def State.abortRead (s : State) (c : Crown) (id : Nat) : State :=
  let h := s.host c
  let mine (q : ReadReq) : Bool := q.host && q.id == id
  let s1 := s.setHost c { h with reads := h.reads.filter (fun q => q.id != id), lastCpl := some (.abort id) }
  let k := dieCode (.cr c)
  let s2 := { s1 with rdReqs := Tab.set [] s1.rdReqs k ((Tab.get [] s1.rdReqs k).filter fun q => !mine q) }
  s2.bumpF (.cr c) .pci 0 Reg.PCI_ERR_RD_ABORT

/-- The data of a host read is back: the read completes, unless `RD_LIMIT` has passed since its request (R263, R270). -/
def State.completeRead (s : State) (c : Crown) (id : Nat) (ep : Bool) (l : List Byte) : State :=
  let h := s.host c
  if h.reads.any fun r => r.id == id && decide (r.at_ + s.rdLimit c * 1600 < s.time) then s.abortRead c id
  else s.setHost c { h with reads := h.reads.filter (fun r => r.id != id), lastCpl := some (.data id ep l) }

/-- The fence of a host read is over: memory of the Crown die itself answers at once; another die is sent a READ. -/
def State.hostReadGo (s : State) (c : Crown) (id : Nat) : State :=
  let h := s.host c
  match h.reads.find? fun r => r.id == id with
  | none => s
  | some r =>
    let s1 := s.setHost c { h with reads := h.reads.map (fun q => if q.id == id then { q with fenced := true } else q) }
    if dieOfCode (r.pa / 2 ^ 45) == some (.cr c) then
      let (mask, _, s2) := s1.serveRead (.cr c) r.pa r.len (0x40 + c.val) []
      s2.completeRead c id (mask != 0) (s2.rdBytes r.pa r.len)
    else s1.sendReads (.cr c) 0 true 0 (s.pkgId * 2 ^ 48 + r.pa) r.len none id

/-! ### Fences (R260 to R262) -/

/-- The fence in progress of an issuer. -/
def State.fence (s : State) (o : Nat) : Option FenceSt := Tab.get none s.fences o

/-- Put it. -/
def State.setFence (s : State) (o : Nat) (f : Option FenceSt) : State := { s with fences := Tab.set none s.fences o f }

/-- Send the probes of a fence to the destinations left. -/
def State.sendProbes (s : State) (d : Die) (ctx : Nat) (host : Bool) (f : FenceSt) : State :=
  f.left.foldl (fun t x =>
    let target := x / 8 * 2 ^ 48 + x % 8 * 2 ^ 45
    let cmd := cmdFlit 0x11 (dieCode d) t.pkgId ctx host f.old 0 target 1 0 0
    match dieOfCode (x % 8) with
    | some y => t.sendMsg d (x / 8) y 3 0 [cmd]
    | none => t) s

/-- A destination has accepted all that was issued: the growth of FAILED is taken over, and the counts noted. -/
def State.fenceSeen (s : State) (o : Nat) (f : FenceSt) (dest fails : Nat) : State :=
  let k := issKey o f.old dest
  let g := (fails + 2 ^ 32 - Tab.get 0 s.seenFailed k % 2 ^ 32) % 2 ^ 32
  let iss := Tab.get 0 s.issued k
  let n := (iss + 2 ^ 32 - Tab.get 0 s.seenIssued k) % 2 ^ 32
  let s1 := { s with seenFailed := Tab.set 0 s.seenFailed k fails, seenIssued := Tab.set 0 s.seenIssued k iss }
  s1.setFence o (some { f with left := f.left.filter (· != dest), grown := f.grown + g, count := f.count + n })

/-- A fence completes (R261, R262): its result is written, `FAIL_COUNT` counts, and what it serves goes on. -/
def State.fenceDone (s : State) (d : Die) (ctx : Nat) (host : Bool) (f : FenceSt) : State :=
  let o := issuer d ctx host
  if host then
    match d with
    | .cr c => (s.setFence o none).hostReadGo c f.arg
    | .mv _ => s.setFence o none
  else
    let res := leBytes 4 f.grown ++ leBytes 4 f.count
    let s1 := if f.result / 2 ^ 45 == s.pkgId * 8 + dieCode d then s.localWrite d (f.result % 2 ^ 48) res false
      else s.post d ctx false f.result res
    let k := 0x10 * ctx
    let s2 := (s1.addF d .mem 0 Reg.MEM_PWSTAT_FAIL_COUNT f.grown k).setF d .mem 0 Reg.MEM_PWSTAT_FENCING 0 k
    if f.kind == 1 then s2.setFence o (some { f with kind := 3 })
    else
      let s3 := s2.setFence o none
      match (s3.eng d f.eng).desc with
      | some x => (s3.finishDesc d x).freeEngine d f.eng ctx
      | none => s3

/-- Complete a fence whose destinations have all agreed. -/
def State.fenceCheck (s : State) (d : Die) (ctx : Nat) (host : Bool) : State :=
  match s.fence (issuer d ctx host) with
  | some f => if f.left == [] && f.kind != 3 then s.fenceDone d ctx host f else s
  | none => s

/-- Start a fence: the epoch bit flips, and every destination that messages of the old epoch went to is probed; the
issuer's own die answers without a link. -/
def State.startFence (s : State) (d : Die) (ctx : Nat) (host : Bool) (kind arg eng result : Nat) : State :=
  let o := issuer d ctx host
  let old := s.epoch d ctx host
  let k (x : Nat) : Nat := issKey o old x
  let dests := (List.range 128).filter fun x => Tab.get 0 s.issued (k x) != Tab.get 0 s.seenIssued (k x)
  let own := 8 * s.pkgId + dieCode d
  let f : FenceSt := ⟨old, dests, s.time, result, kind, arg, eng, 0, 0⟩
  let s1 := (s.flipEpoch d ctx host).setFence o (some f)
  let s2 := if host then s1 else s1.setF d .mem 0 Reg.MEM_PWSTAT_FENCING 1 (0x10 * ctx)
  let mine := (s.pkgId * 8 + dieCode d) * 64 + if host then 32 else ctx
  let s3 := if decide (own ∈ dests) then s2.fenceSeen o f own (Tab.get 0 s2.failed (cntKey d (mine * 2 + old))) else s2
  match s3.fence o with
  | some g => (s3.sendProbes d ctx host g).fenceCheck d ctx host
  | none => s3

/-- The host reads of a Crown function that wait get their fences, one after the other (R263). -/
def State.nextHostFence (s : State) (d : Die) : State :=
  match d with
  | .mv _ => s
  | .cr c => (s.host c).reads.foldl (fun t r =>
      if r.fenced || (t.fence (issuer d 0 true)).isSome then t else t.startFence d 0 true 2 r.id 0 0) s

/-- `FENCE_RESP` (R260, R261): a destination's counts reach the fencing die; the fence completes when every destination has
accepted all that was issued. -/
def execFenceResp (d : Die) (cmd : List Byte) (s : State) : Host.Outcome State Fault Refusal :=
  let o := issuer d (cmdCtx cmd) (cmdHost cmd)
  let dest := cmdTarget cmd / 2 ^ 48 * 8 + cmdTarget cmd / 2 ^ 45 % 8
  match s.fence o with
  | none => .next s
  | some f =>
    if decide (dest ∈ f.left) && cmdEpoch cmd == f.old && cmdA cmd % 2 ^ 32 == Tab.get 0 s.issued (issKey o f.old dest) then
      let t := (s.fenceSeen o f dest (cmdA cmd / 2 ^ 32)).fenceCheck d (cmdCtx cmd) (cmdHost cmd)
      .next (if cmdHost cmd then t.nextHostFence d else t)
    else .next s

/-- `FENCE_PROBE_RETRY` (R260): every 64 beats a fence probes again each destination that has not accepted all. -/
def execFenceProbeRetry (d : Die) (ctx : Fin 33) (s : State) : Host.Outcome State Fault Refusal :=
  let host := ctx.val == 32
  let o := issuer d ctx.val host
  match s.fence o with
  | none => .next s
  | some f =>
    if f.sentAt + 64 ≤ s.time then .next ((s.setFence o (some { f with sentAt := s.time })).sendProbes d ctx.val host f)
    else .next s

end Sys2Proof.Machine
end

