-- ==== Sys2Proof/Machine/Descriptor.lean ====
section
/-! DEFINITION. Descriptors: what they mean, how they start, complete and fault, the data that comes for them; doorbells, counters
and barriers (R217 to R222, R225 to R227, R230 to R239, R245, R252). -/

namespace Sys2Proof.Machine

/-! ### What a descriptor means (R217, R219) -/

/-- All the words of the descriptor at the head of a stream. -/
def State.descWords (s : State) (y : StreamSt) : List Nat :=
  (List.range (4 * hLen (s.header y))).map fun i => s.rd32 (y.head + 16 * y.pos + 4 * i)

/-- A descriptor's words as one number, for a silicon revision. -/
def opKey (rev : Nat) (words : List Nat) : Nat := rev + 256 * words.foldr (fun w n => w % 2 ^ 32 + 2 ^ 32 * n) 1

/-- An operation code of a category, for a silicon revision. -/
def defKey (rev : Nat) (w : List Nat) : Nat := rev + 256 * bitsOf (w.getD 0 0) 0 16

/-- What the operation table says of a descriptor: what it has said before of the same words and revision; at their first use, and
that of the OP, what is given now (log entry 45, DESIGN CHOICE). So one header never means two things (R214, R219). -/
def State.operation (s : State) (d : Die) (words : List Nat) (i : OpInfo) : OpInfo × State :=
  let rev := s.getF d .cfg 0 Reg.CFG_VARIANT_SILICON_REV
  match Tab.get none s.opTable (opKey rev words) with
  | some o => (o, s)
  | none =>
    let o := match Tab.get 0 s.opDefs (defKey rev words) with
      | 0 => i
      | k => { i with defined := k == 1 }
    (o, { s with opTable := Tab.set none s.opTable (opKey rev words) (some o),
                 opDefs := Tab.set 0 s.opDefs (defKey rev words) (if o.defined then 1 else 2) })

/-- Whether an address is of the die itself. -/
def State.ownAddr (s : State) (d : Die) (a : Nat) : Bool := a / 2 ^ 45 == s.pkgId * 8 + dieCode d

/-- Whether what is given can be the meaning of a descriptor: of its category, within the limits, its index list on its own die
(log entry 150, DESIGN CHOICE). -/
def State.readingOk (s : State) (d : Die) (w : List Nat) (i : OpInfo) : Bool :=
  !i.defined || (workCat i.work == hCat w && workOk i.work && match i.work with
    | .gather _ x _ _ _ => s.ownAddr d x
    | .scatter _ x _ _ _ => s.ownAddr d x
    | .sparse _ x _ _ _ _ _ => s.ownAddr d x
    | _ => true)

/-! ### Memory as a unit sees it -/

/-- A byte at a tray address: of the die itself, counters among them, or as it has come from another die. -/
def State.unitByte (s : State) (d : Die) (u a : Nat) : Byte :=
  if s.ownAddr d a then
    match counterOf (a % 2 ^ 48) with
    | some n => BitVec.ofNat 8 (s.ctr d n / 256 ^ (a % 4))
    | none => s.rdByte (a % 2 ^ 48)
  else Tab.get memDefault (s.eng d u).got a

/-- A store to the die itself: 4 bytes at a counter are a signal (R236, R243). -/
def State.putLocal (s : State) (d : Die) (pa : Nat) (l : List Byte) (poison : Bool) : State :=
  match counterOf pa with
  | some n => if l.length == 4 && pa % 4 == 0 then s.signal d n (leNat l) else s
  | none => s.localWrite d pa l poison

/-- Bytes go to host memory through a Crown die whose link is up (R238). -/
def State.toHost (s : State) (c : Crown) (a : Nat) (l : List Byte) : State :=
  if s.getF (.cr c) .pci 0 Reg.PCI_STATUS_LINK_UP == 0 then s
  else s.setHost c { s.host c with hostWr := [(a, l)] }

/-- Bytes that a context's move, or an engine, puts somewhere, read from address `src` on; `bad` says which granules of the source
were poisoned: poison goes with them (R238, R252, R253). -/
def State.deliver (s : State) (d : Die) (ctx src : Nat) (dst : MoveEnd) (l : List Byte) (bad : Nat → Bool) : State :=
  match dst with
  | .host c a => s.toHost c a l
  | .mem a =>
    let ps := pieces 64 src l
    if s.ownAddr d a then ps.foldl (fun t p => t.putLocal d ((a + (p.1 - src)) % 2 ^ 48) p.2 (bad (p.1 / 64))) s
    else s.post d ctx false a l (((ps.filter fun p => bad (p.1 / 64)).map fun p =>
      let b := a + (p.1 - src)
      (List.range ((b + p.2.length - 1) / 64 - b / 64 + 1)).map (b / 64 + ·)).flatten)

/-! ### Grants and the window (R222, R245) -/

/-- Whether ranges, adjoining or not, cover the addresses from one up to another. -/
def rangesCover (gs : List (Nat × Nat)) : Nat → Nat → Nat → Bool
  | 0, lo, hi => decide (hi ≤ lo)
  | n + 1, lo, hi =>
    decide (hi ≤ lo) || match gs.find? fun g => decide (g.1 ≤ lo ∧ lo < g.1 + g.2) with
      | some g => rangesCover gs n (g.1 + g.2) hi
      | none => false

/-- Whether the image grants a context a range of tray addresses (R222) (log entry 163, DESIGN CHOICE). -/
def State.granted (s : State) (n a len : Nat) : Bool :=
  match s.boot.image with
  | none => false
  | some i =>
    let gs := ((i.contexts.filter fun c => c.num.val == n).map (·.grants)).flatten
    rangesCover gs gs.length a (a + len)

/-- Whether a unit's access lies outside the window (R245); of another package only the die value is known. -/
def State.offWindow (s : State) (a len : Nat) (wr : Bool) : Bool :=
  if a / 2 ^ 48 == s.pkgId then s.outside (a % 2 ^ 48) len wr false else (dieOfCode (a / 2 ^ 45 % 8)).isNone

/-- The accesses of a descriptor: address, bytes, and whether it writes. -/
def State.accesses (s : State) (d : Die) (u : Nat) (w : Work) : List (Nat × Nat × Bool) :=
  ((workReads (s.unitByte d u) w).map fun r => (r.1, r.2, false)) ++ (workWrites (s.unitByte d u) w).map fun r => (r.1, r.2, true)

/-- Poisoned granules that the reads of a descriptor from its own die cover. -/
def State.poisonRead (s : State) (d : Die) (u : Nat) (w : Work) : Nat :=
  ((workReads (s.unitByte d u) w).map fun r => if s.ownAddr d r.1 then
    s.poisonCount (r.1 % 2 ^ 48 / 64 * 64) ((r.1 + r.2 - 1) / 64 - r.1 / 64 + 1) else 0).sum

/-- What an access of a descriptor raises: the window is checked before the grant; poison faults an engine and a scan engine, and
a mover takes it along (R222, R245, R252). The cause is that of R222, or 0x10 with the other code. -/
def State.accessCause (s : State) (d : Die) (n u : Nat) (w : Work) : Option (Nat × Nat) :=
  let acc := s.accesses d u w
  if acc.any fun a => s.offWindow a.1 a.2.1 a.2.2 then some (0x10, 0x5004)
  else if acc.any fun a => !s.granted n a.1 a.2.1 then some (0x03, 0)
  else if u < 18 && decide (0 < s.poisonRead d u w) then some (0x10, 0x5003)
  else none

/-- A descriptor faults on an access. -/
def State.accessFault (s : State) (d : Die) (n e u : Nat) (w : Work) (c : Nat × Nat) : State :=
  if c.1 == 0x03 then s.descFault d n e 0x03
  else
    let s1 := if c.2 == 0x5004 then s.log d .eng 0 0x5004 [] n else s.servedPoison d n (s.poisonRead d u w)
    (s1.returnToken d 0 n e).faultAll d n 0x10 e c.2

/-! ### Starting descriptors (R220, R222, R225, R227, R233) -/

/-- `HEAVY_MIN` in effect (R240, R241). -/
def State.heavyMin (s : State) (d : Die) : Nat :=
  if s.isF d .eng 0 Reg.ENG_CTL_EXPERT then s.getF d .eng 0 Reg.ENG_HEAVY_HEAVY_MIN else 16

/-- Whether a descriptor reads or writes host memory. -/
def usesHost : Work → Bool
  | .move x => match x.src, x.dst with
    | .host _ _, _ => true
    | _, .host _ _ => true
    | _, _ => false
  | _ => false

/-- The token a descriptor of an on-demand context needs; zero for none (R227, R361). -/
def State.needToken (s : State) (d : Die) (n : Nat) (w : List Nat) (i : OpInfo) : Nat :=
  if !s.ctxOnDemand d n then 0
  else if usesHost i.work then s.tokHost
  else if hCat w == 5 || hCat w == 6 then (if hHeavy w then s.tokScan else 0)
  else if hHeavy w || (hCat w == 1 && decide (s.heavyMin d * 2 ^ 20 ≤ workMacs i.work)) then s.tokMatrix
  else 0

/-- The fault a descriptor raises before it starts, if it does (R218, R222, R231). Of several causes the one given is the first of
0x01, 0x02, 0x06, then of its accesses (log entry 160, DESIGN CHOICE). -/
def State.startCause (s : State) (w : List Nat) (i : OpInfo) : Option Nat :=
  if 9 ≤ hCat w || !i.defined then some 0x01
  else if hBad w then some 0x02
  else match workRange i.work with
    | some (q, start, count) => if rangeRefused q (Tab.get 0 s.heads q.elems.base) start count then some 0x06 else none
    | none => none

/-- The scan engine or mover a descriptor goes to (R218, R233). -/
def unitOf (w : List Nat) (i : OpInfo) : Option Nat :=
  if hCat w == 5 || hCat w == 6 then some (16 + i.unit.val % 2) else if hCat w == 7 then some (18 + i.unit.val) else none

/-- Read host memory for a row of a move (R238, R272). -/
def State.readHost (s : State) (c : Crown) (d : Die) (n u num addr dst len : Nat) : State :=
  let h := s.host c
  s.setHost c { h with moves := h.moves ++ [⟨h.nextReq, num, addr, dieCode d, n, u, dst, len, s.time⟩], nextReq := h.nextReq + 1 }

/-- The reads of other dies and of host memory that a descriptor makes leave (R238, R272). -/
def State.startReads (s : State) (d : Die) (n u num : Nat) (w : Work) : State :=
  match w with
  | .move x =>
    (List.range (x.rows1.val + 1)).foldl (fun t r =>
      match x.src, moveEndAt x.dst (r * x.dstPitch) with
      | .host c a, .mem b => t.readHost c d n u num (a + r * x.srcPitch) b x.width
      | .host _ _, .host _ _ => t
      | .mem a, q => if t.ownAddr d a then t else t.sendReads d n false u (a + r * x.srcPitch) x.width (some q) num) s
  | _ => (workReads (s.unitByte d u) w).foldl (fun t r =>
      if t.ownAddr d r.1 then t else t.sendReads d n false u r.1 r.2 none num) s

/-- The last scratchpad granule among the addresses of its die that a descriptor names, for the sample of a crash dump (R453). -/
def State.noteScratch (s : State) (d : Die) (e : Nat) (l : List Nat) : State :=
  match (l.filter fun a => a % 2 ^ 48 / 2 ^ 44 == 2 * dieCode d + 1 && decide (a % 2 ^ 44 < 0x3000000)).getLast? with
  | some a => s.setEng d e { s.eng d e with lastGran := a % 2 ^ 44 / 64 }
  | none => s

/-- The position of the descriptor that follows: the stream's head after LAST, the target of a jump (R217, R218). -/
def nextPos (w : List Nat) (i : OpInfo) (pos : Nat) : Nat :=
  if hLast w then 0
  else match i.work with
    | .jump p => p
    | _ => pos + hLen w

/-- A descriptor starts on an engine, enters a queue, or starts its fence. After one with LAST, or a yield, the engine starts nothing
more of the stream in this run (log entry 37, DEDUCED). -/
def State.startDesc (s : State) (d : Die) (e n : Nat) (w : List Nat) (i : OpInfo) : State :=
  let y := s.stream d e n
  let b := s.beat d
  let next := nextPos w i y.pos
  let last := hLast w || i.work == .yield
  match unitOf w i with
  | some u =>
    let g := s.eng d u
    let x : Desc := ⟨g.count, n, e, y.pos, next, w, i, b, b + hBound w, false⟩
    let s1 := s.setStream d e n { y with pos := next, headAt := b + 1, deferred := last, started := y.started + 1,
                                         away := y.away + 1 }
    let s2 := s1.setEng d e { s1.eng d e with deferred := (s1.eng d e).deferred || last }
    let s3 := s2.setEng d u { s2.eng d u with count := g.count + 1, lastEng := e }
    ((s3.setQueue d u (s3.queue d u ++ [x])).noteSuspect d u n).startReads d n u x.num i.work
  | none =>
    let x : Desc := ⟨(s.eng d e).count, n, e, y.pos, next, w, i, b, (if y.headAt == 0 then b else y.headAt - 1) + hBound w, false⟩
    let s1 := s.setStream d e n { y with pos := next, deferred := last, started := y.started + 1 }
    let g := s1.eng d e
    let s2 := ((s1.setEng d e { g with desc := some x, count := g.count + 1, deferred := g.deferred || last }).setF d .eng 0 Reg.ENG_E_BUSY 1
      (4 * e)).noteSuspect d e n
    let s3 := (s2.startReads d n e x.num i.work).noteScratch d e ((s.accesses d e i.work).map (·.1))
    match i.work with
    | .sync (.fence r) => s3.startFence d n false 0 0 e r
    | .sync (.arrive bar r) => s3.startFence d n false 1 bar e r
    | _ => s3

/-- Whether a descriptor runs a fence. -/
def runsFence : Work → Bool
  | .sync (.fence _) => true
  | .sync (.arrive _ _) => true
  | _ => false

/-- Whether the conditions of R220 hold beside the run's: FENCE, the counter, a place in the queue, no second fence (R260). -/
def State.startable (s : State) (d : Die) (e n : Nat) (w : List Nat) (i : OpInfo) : Bool :=
  let room := match unitOf w i with
    | some u => decide ((s.queue d u).length < 16)
    | none => true
  (!hFence w || (s.stream d e n).away == 0) && (!hWait w || waitMet (s.ctr d (hWaitCtr w)) (hWaitVal w)) && room &&
    (!runsFence i.work || s.fence (issuer d n false) == none)

/-- A descriptor whose window, grant and operands are in order starts, waits for its token or its conditions, or is deferred
to the next run (log entry 19, DEDUCED). -/
def State.tryStart (s : State) (d : Die) (e n : Nat) (w : List Nat) (i : OpInfo) : State :=
  let tok := s.needToken d n w i
  if !s.startable d e n w i then s
  else if tok != 0 && !s.hasToken d 0 n e then
    if s.wantsToken d 0 n e then s else s.askToken d ⟨0, tok, s.time, n, e⟩
  else if !s.fitsRun d e (hBound w) then
    let s1 := s.setStream d e n { s.stream d e n with deferred := true }
    (s1.setEng d e { s1.eng d e with deferred := true }).bumpF d .eng 0 Reg.ENG_E_DEFERRED (4 * e)
  else
    let u := (unitOf w i).getD e
    let k := s.poisonRead d u i.work
    (if 0 < k then s.servedPoison d n k else s).startDesc d e n w i

/-- Whether a granule of the descriptor itself is poisoned. -/
def State.headPoisoned (s : State) (y : StreamSt) : Bool :=
  let a := y.head + 16 * y.pos
  decide (0 < s.poisonCount (a / 64 * 64) ((a + 16 * max (hLen (s.header y)) 1 - 1) / 64 - a / 64 + 1))

/-- The descriptor at the head of the stream of context `n`: it is read, checked, and started when it may be. -/
def State.startHead (s : State) (d : Die) (e n : Nat) (i : OpInfo) : State :=
  let y := s.stream d e n
  if s.headPoisoned y then (s.servedPoison d n 1).faultAll d n 0x10 e 0x5003
  else
    let w := s.header y
    if 9 ≤ hCat w then s.descFault d n e 0x01
    else
      let (o, s1) := s.operation d (s.descWords y) i
      if !s.readingOk d w o then s
      else match s1.startCause w o with
        | some c => s1.descFault d n e c
        | none =>
          let u := (unitOf w o).getD e
          match s1.accessCause d n u o.work with
          | some c => s1.accessFault d n e u o.work c
          | none => s1.tryStart d e n w o

/-! ### Replay in the sandbox (R461) -/

/-- The suspect whose replay runs on an engine. -/
def State.replayRun (s : State) (d : Die) (e : Nat) : Option (Replay × Nat) :=
  match s.replay d with
  | some r => if r.eng == e && r.hit == 0 then r.cur.map fun n => (r, n) else none
  | none => none

/-- Whether a replayed descriptor is in hand on a die. -/
def State.sandboxBusy (s : State) (d : Die) : Bool :=
  (List.range 16).any (fun e => match (s.eng d e).desc with
    | some x => x.sandbox
    | none => false) || [16, 17, 18, 19, 20, 21].any fun u => (s.queue d u).any (·.sandbox)

/-- The next descriptor of a replay: it waits for nothing, asks for no token and no run, sends no reads (log entry 164, DEDUCED). -/
def State.replayHead (s : State) (d : Die) (e : Nat) (r : Replay) (n : Nat) (i : OpInfo) : State :=
  let y := { s.stream d e n with pos := r.pos }
  if s.headPoisoned y then s.replayHit d 0x10
  else
    let w := s.header y
    if 9 ≤ hCat w then s.replayHit d 0x01
    else
      let (o, s1) := s.operation d (s.descWords y) i
      if !s.readingOk d w o then s
      else match s1.startCause w o with
        | some c => s1.replayHit d c
        | none =>
          let u := (unitOf w o).getD e
          match s1.accessCause d n u o.work with
          | some c => s1.replayHit d c.1
          | none =>
            let next := nextPos w o r.pos
            let g := s1.eng d u
            let x : Desc := ⟨g.count, n, e, r.pos, next, w, o, s1.beat d, s1.beat d + hBound w, true⟩
            let s2 := (s1.setReplay d (some { r with pos := next })).setEng d u { g with count := g.count + 1 }
            if u < 16 then (s2.setEng d u { s2.eng d u with desc := some x }).setF d .eng 0 Reg.ENG_E_BUSY 1 (4 * u)
            else s2.setQueue d u (s2.queue d u ++ [x])

/-- `DESCRIPTOR_START` (R217 to R222, R225, R227, R231, R233, R245, R461): an engine looks at the descriptor at the head of the
stream of its run's context, or of the suspect it replays. `i` is what the operation table says of it (log entry 45, DESIGN
CHOICE). -/
def execDescriptorStart (m : Mv) (e : Fin 16) (i : OpInfo) (s : State) : Host.Outcome State Fault Refusal :=
  let d : Die := .mv m
  let x := s.eng d e
  if !s.enabled .eng d || x.desc != none || x.abortAt != 0 then .next s
  else match s.replayRun d e with
    | some (r, n) =>
      if s.sandboxBusy d || decide ((s.stream d e n).started ≤ r.done) then .next s else .next (s.replayHead d e r n i)
    | none =>
      match x.run with
      | none => .next s
      | some n =>
        let y := s.stream d e n
        if s.engHeld d e || x.deferred || !y.bound || y.stopped || s.ctxState d n != 2 then .next s
        else .next (s.startHead d e n i)

/-! ### The end of a descriptor (R221, R222, R226, R233) -/

/-- One result of a descriptor: to its own die at once, to another as posted writes; a replayed one writes only its engine's buffer
(R221, R253, R461). -/
def State.putResult (s : State) (d : Die) (x : Desc) (a : Nat) (l : List Byte) : State :=
  if x.sandbox && !(s.ownAddr d a && bufferOf (a % 2 ^ 48) == some x.eng) then s
  else s.deliver d x.ctx a (.mem a) l fun _ => false

/-- A row of a move whose source is on the die itself (R238, R252). -/
def State.moveRow (s : State) (d : Die) (u : Nat) (x : Desc) (m : MoveOp) (r : Nat) : State :=
  match m.src with
  | .host _ _ => s
  | .mem a =>
    let src := a + r * m.srcPitch
    let dst := moveEndAt m.dst (r * m.dstPitch)
    let keep := match dst with
      | .mem b => s.ownAddr d b && bufferOf (b % 2 ^ 48) == some x.eng
      | .host _ _ => false
    if !s.ownAddr d a || (x.sandbox && !keep) then s
    else s.deliver d x.ctx src dst ((List.range m.width).map fun i => s.unitByte d u (src + i)) fun g => s.poisoned (g * 64 % 2 ^ 48)

/-- Positions are appended to a sequence: its write head moves, and the summary of each block that they complete follows
(R231, R234). -/
def State.appendSeq (s : State) (d : Die) (u : Nat) (x : Desc) (q : Seq) (n : Nat) : State :=
  let head := Tab.get 0 s.heads q.elems.base
  let s1 := { s with heads := Tab.set 0 s.heads q.elems.base ((head + n) % 16777216) }
  (blocksDone head n).foldl (fun t b => (summaryOf (t.unitByte d u) q b).foldl (fun v p => v.putResult d x p.1 p.2) t) s1

/-- What a completing descriptor computes and writes (R214, R221, R232, R234, R238). -/
def State.descWrites (s : State) (d : Die) (u : Nat) (x : Desc) : State :=
  let s1 := match x.op.work with
    | .move m => (List.range (m.rows1.val + 1)).foldl (fun t r => t.moveRow d u x m r) s
    | w => (results (s.unitByte d u) w).foldl (fun t p => t.putResult d x p.1 p.2) s
  match x.op.appends with
  | some (q, n) => if x.sandbox then s1 else s1.appendSeq d u x q n
  | none => s1

/-- Whether a unit still waits for data of a descriptor. -/
def State.readsLeft (s : State) (d : Die) (u num : Nat) : Bool :=
  (Tab.get [] s.rdReqs (dieCode d)).any (fun r => r.eng == u && r.id == num && !r.host) ||
    s.crowns.any fun c => (s.host c).moves.any fun r => r.die == dieCode d && r.eng == u && r.num == num

/-- A replayed descriptor has completed. -/
def State.replayStep (s : State) (d : Die) (x : Desc) : State :=
  if !x.sandbox then s
  else match s.replay d with
    | some r => s.setReplay d (some { r with done := r.done + 1 })
    | none => s

/-- The fence that an engine's descriptor runs is abandoned. -/
def State.dropFence (s : State) (d : Die) (n u : Nat) : State :=
  match s.fence (issuer d n false) with
  | some f => if f.eng == u then (s.setFence (issuer d n false) none).setF d .mem 0 Reg.MEM_PWSTAT_FENCING 0 (0x10 * n) else s
  | none => s

/-- A descriptor in hand, or waiting in a queue, is not complete by its BOUND: its unit aborts or drops it (R222, R226, R233). -/
def State.boundFault (s : State) (d : Die) (u : Nat) (x : Desc) : State :=
  if x.sandbox then (s.endNum d u x.num 0x05).replayHit d 0x05
  else ((s.dropFence d x.ctx u).endNum d u x.num 0x05).descFault d x.ctx x.eng 0x05

/-- The descriptor that a unit executes completes, unless it is late, or its time or its data is still to come. -/
def State.endDesc (s : State) (d : Die) (u : Nat) (x : Desc) : State :=
  let fencing := match s.fence (issuer d x.ctx false) with
    | some f => f.eng == u && !x.sandbox
    | none => false
  if x.deadline < s.beat d then s.boundFault d u x
  else if fencing || s.readsLeft d u x.num || decide (s.beat d < x.start + workBeats x.op.work) then s
  else match s.accessCause d x.ctx u x.op.work with
    | some c =>
      let s1 := s.abortUnit d u c.1
      if x.sandbox then s1.replayHit d c.1 else s1.accessFault d x.ctx x.eng u x.op.work c
    | none =>
      let s1 := (s.descWrites d u x).replayStep d x
      if u < 16 then
        let s2 := s1.finishDesc d x
        if x.sandbox then (s2.setEng d u { s2.eng d u with desc := none, got := [] }).setF d .eng 0 Reg.ENG_E_BUSY 0 (4 * u)
        else s2.freeEngine d u x.ctx
      else
        let rest := (s1.queue d u).drop 1
        let s2 := s1.setQueue d u rest
        let s3 := if rest == [] then s2.setEng d u { s2.eng d u with got := [] } else s2
        let y := s3.stream d x.eng x.ctx
        (if x.sandbox then s3 else s3.setStream d x.eng x.ctx { y with away := y.away - 1 }).finishDesc d x

/-- `DESCRIPTOR_COMPLETE` (R213 to R216, R221, R226 to R229, R232 to R234, R238, R461): the descriptor of an engine, scan engine or
mover completes with what it computes; a unit that had aborted comes to rest. -/
def execDescriptorComplete (m : Mv) (u : Fin 22) (s : State) : Host.Outcome State Fault Refusal :=
  let d : Die := .mv m
  let g := s.eng d u
  if g.abortAt != 0 then
    let s1 := s.setEng d u { g with abortAt := 0 }
    .next (if u.val < 16 then s1.setF d .eng 0 Reg.ENG_E_BUSY 0 (4 * u.val) else s1)
  else match if u.val < 16 then g.desc else (s.queue d u).head? with
    | none => .next s
    | some x => .next (s.endDesc d u x)

/-- Whether the descriptor that waits at the head of a stream has passed its BOUND (R220, R222). -/
def State.headLate (s : State) (d : Die) (e n : Nat) : Bool :=
  let y := s.stream d e n
  y.bound && !y.stopped && !y.deferred && y.headAt != 0 && s.ctxState d n == 2 &&
    decide (y.headAt - 1 + hBound (s.header y) ≤ s.beat d)

/-- `DESCRIPTOR_BOUND_EXPIRY` (R220, R222, R226, R233, R260): a descriptor not complete by its BOUND faults: 0x04 while it waits on a
counter, 0x05 otherwise (log entry 20, DEDUCED): the one an engine executes, one that waits at the head of a stream on it, or any in
a queue. -/
def execDescriptorBoundExpiry (m : Mv) (u : Fin 22) (s : State) : Host.Outcome State Fault Refusal :=
  let d : Die := .mv m
  if u.val < 16 then
    let busy := (s.eng d u).desc
    match busy.filter fun x => decide (x.deadline ≤ s.beat d) with
    | some x => .next (s.boundFault d u x)
    | none =>
      match (List.range 32).find? fun n => s.headLate d u n && busy.all (fun x => x.ctx != n) with
      | none => .next s
      | some n =>
        let w := s.header (s.stream d u n)
        .next (s.descFault d n u (if hWait w && !waitMet (s.ctr d (hWaitCtr w)) (hWaitVal w) then 0x04 else 0x05))
  else match (s.queue d u).find? fun x => decide (x.deadline ≤ s.beat d) with
    | none => .next s
    | some x => .next (s.boundFault d u x)

/-! ### Data that comes (R230, R252) -/

/-- `READ_DATA` (R230, R252, R451): data reaches the die that read it. A mover passes it on with its poison; poisoned data raises a
context fault at an engine or scan engine, and completes a host read with EP. -/
def execReadData (d : Die) (cmd : List Byte) (data : List (List Byte)) (s : State) : Host.Outcome State Fault Refusal :=
  let rs := Tab.get [] s.rdReqs (dieCode d)
  let mine (r : ReadReq) : Bool := r.tag == cmdTag cmd && r.target == cmdTarget cmd && r.host == cmdHost cmd &&
    (r.host || r.ctx == cmdCtx cmd)
  match rs.find? mine with
  | none => .next s
  | some r =>
    let s1 := { s with rdReqs := Tab.set [] s.rdReqs (dieCode d) (rs.eraseP mine) }
    let mask := cmdA cmd
    let bytes := writeData r.target r.len data
    if r.host then
      match d with
      | .cr c => .next (s1.completeRead c r.id (mask != 0) bytes)
      | .mv _ => .next s1
    else if s.fencing d r.eng r.id then .next s1
    else match r.dst with
      | some q => .next (s1.deliver d r.ctx r.target q bytes fun g => bit mask (g - r.target / 64))
      | none =>
        if mask != 0 then .next ((s1.endNum d r.eng r.id 0x10).faultAll d r.ctx 0x10 r.eng 0x5003)
        else .next (s1.setEng d r.eng { s1.eng d r.eng with got := memPut (s1.eng d r.eng).got r.target bytes })

/-! ### Doorbells, counters and barriers -/

/-- A write of `ENG.DOORBELL` (log entry 38, DEDUCED). -/
def State.doorbell (s : State) (m : Mv) (w : Nat) : State :=
  let d : Die := .mv m
  let n := w % 32
  if !bit w 8 || !s.powered d .eng || s.heldInReset d .eng then s
  else if s.ctxOnDemand d n && s.ctxState d n == 1 then
    (s.mapStreams d n fun x => { x with pos := 0, headAt := 0, stopped := false }).setCtxState d n 2
  else s.bumpF d .eng 0 Reg.ENG_CTX_STATE_DROPPED (ctxOff n)

/-- `DOORBELL_RING` (R227): a write of `ENG.DOORBELL` with RING starts an idle on-demand context's streams from their
heads; it is ignored and counted otherwise. -/
def execDoorbellRing (m : Mv) (w : Word) (s : State) : Host.Outcome State Fault Refusal := .next (s.doorbell m w.toNat)

/-- `COUNTER_SIGNAL` (R235): a signal of the die itself adds its value to a click counter. -/
def execCounterSignal (m : Mv) (n : Fin 4096) (value : Word) (s : State) : Host.Outcome State Fault Refusal :=
  .next (s.signal (.mv m) n.val value.toNat)

/-- A write of `SYN.CTR[n]`. -/
def State.ctrWrite (s : State) (m : Mv) (n w : Nat) : State :=
  let d : Die := .mv m
  let owned := match s.boot.image with
    | some i => decide ((m, n) ∈ i.hostCtrs)
    | none => false
  if !s.powered d .syn || s.heldInReset d .syn then s
  else if owned then s.signal d n w else s.bumpF d .syn 0 Reg.SYN_STATUS_IGNORED

/-- `SYN_CTR_WRITE` (R235): a write of `SYN.CTR` adds to a counter that the image marks host-owned; else it is ignored and
counted. -/
def execSynCtrWrite (m : Mv) (n : Fin 4096) (w : Word) (s : State) : Host.Outcome State Fault Refusal :=
  .next (s.ctrWrite m n.val w.toNat)

/-- `BARRIER_ARRIVAL` (R237, R262): the fence of an arriving context is over, and the arrival reaches its barrier. -/
def execBarrierArrival (m : Mv) (ctx : Fin 32) (s : State) : Host.Outcome State Fault Refusal :=
  let d : Die := .mv m
  let o := issuer d ctx.val false
  match s.fence o with
  | some f =>
    if f.kind != 3 then .next s
    else
      let s1 := (s.setFence o none).arrive d f.arg
      match (s1.eng d f.eng).desc with
      | some x => .next ((s1.finishDesc d x).freeEngine d f.eng ctx.val)
      | none => .next s1
  | none => .next s

/-- `LOCKSTEP_MISMATCH` (R239): the die controller's cores disagree: it stops, and its heartbeat ceases. -/
def execLockstepMismatch (m : Mv) (s : State) : Host.Outcome State Fault Refusal :=
  .next (if s.domOn (8 + m.val) then { s with recov := { s.recov with lockstep := setBit s.recov.lockstep m.val } } else s)

end Sys2Proof.Machine
end

