-- ==== Sys2Proof/Machine/Recovery.lean ====
section
/-! DEFINITION. Heartbeats, watchdogs, fences, crash dumps, resets, culprit replay and tray orders (R443 to R466, R470). -/

namespace Sys2Proof.Machine

/-! ### Heartbeats (R446, R447, R450) -/

/-- What a heartbeat tells of the recovery in progress in a domain (R446). -/
def State.hbLevel (s : State) (k : Nat) : Nat := if s.pins.oos then 5 else max (s.dom k).level (s.dom 4).level

/-- A level in hand has missed its bound, culprit replay not counted (R455). -/
def State.overdue (s : State) (k : Nat) : Bool :=
  let x := s.dom k
  let late (n : Nat) : Bool := decide (x.since + n ≤ s.time)
  (x.level == 2 && decide (x.step < 5) && late (8 * frameBeats)) || (x.level == 3 && decide (x.step < 5) && late (100 * msBeats)) ||
    (x.level == 4 && late (2500 * msBeats))

/-- A controller restarted by a partition reset has sent its heartbeat: the reset is complete (R455). -/
def State.partitionDone (s : State) (m : Mv) : State :=
  let x := s.dom m.val
  if x.level == 3 && x.step == 4 && !s.overdue m.val then
    let s1 := s.setDom m.val { x with step := if x.origin == 1 || x.origin == 3 then 5 else 6 }
    { s1 with recov := { s1.recov with doneAt := Tab.set 0 s1.recov.doneAt m.val (s1.beat (.mv m) + 1) } }
  else s

/-- `HEARTBEAT_SEND` (R447): in frame 256 of every turn a Movement die's controller sends its heartbeat to CR0. -/
def execHeartbeatSend (m : Mv) (s : State) : Host.Outcome State Fault Refusal :=
  let d : Die := .mv m
  if s.atFrame d && s.frame d % 1024 == 256 && s.ctlRuns m && s.enabled .rcv d then
    .next ((s.sbSend (spMv m 0) 0x18 (hbBody 0 m.val s.pkgId (s.turn d) (s.hbLevel m.val) false (s.die d).faulted 0)).partitionDone m)
  else .next s

/-- The combined FAULTED mask of the package (R450). -/
def State.combinedMask (s : State) : Nat :=
  mvDies.foldl (fun v d => Nat.lor v (Tab.get 0 s.recov.masks (dieCode d))) 0

/-- `HEARTBEAT_CHECK` (R447): at the end of a turn CR0 counts a die from which no heartbeat of the turn has come; the eighth
in a row starts partition level. -/
def execHeartbeatCheck (m : Mv) (s : State) : Host.Outcome State Fault Refusal :=
  let t := s.turn cr0
  if !s.atTurn cr0 || t == 0 || !s.enabled .rcv (.mv m) then .next s
  else
    let v := s.getF cr0 .rcv 0 Reg.RCV_MISSED
    let n := bitsOf v (4 * m.val) 4
    let put (k : Nat) : State := s.setF cr0 .rcv 0 Reg.RCV_MISSED (v - n * 2 ^ (4 * m.val) + k * 2 ^ (4 * m.val))
    if Tab.get 0 s.recov.seen m.val == t then .next (put 0)
    else
      let s1 := put (min 15 (n + 1))
      .next (if n + 1 == 8 then s1.trigger 3 0x04 (.mv m) else s1)

/-- `HEARTBEAT_STATE_SEND` (R447, R450): in frame 512 CR0 sends a die the combined FAULTED mask. -/
def execHeartbeatStateSend (m : Mv) (s : State) : Host.Outcome State Fault Refusal :=
  if s.atFrame cr0 && s.frame cr0 % 1024 == 512 && s.enabled .rcv cr0 then
    let mask := s.combinedMask
    let s1 := s.setF cr0 .rcv 0 Reg.RCV_FAULTED mask
    .next (s1.sbSend (spCrown m 0) 0x18 (hbBody 2 m.val s.pkgId (s.turn cr0) (s.hbLevel 4) false mask 0))
  else .next s

/-- A HEARTBEAT container within the package: kind 0 at CR0, kind 2 at a Movement die. -/
def State.takeHeartbeat (s : State) (e : LinkEnd) (box : Nat) : State :=
  let die := bitsOf box 9 3
  let mask := bitsOf box 64 32
  match leDie e, bitsOf box 6 3 with
  | .cr 0, 0 =>
    if isTray e then s else
    { s with recov := { s.recov with seen := Tab.set 0 s.recov.seen die (bitsOf box 16 43 + 1),
                                     masks := Tab.set 0 s.recov.masks die mask } }
  | .mv m, 2 =>
    let x := s.die (.mv m)
    let same := Nat.lor x.faulted mask == Nat.lor x.faulted x.combined
    s.setDie (.mv m) { x with combined := mask, faultBeat := if same then x.faultBeat else x.beat }
  | _, _ => s

/-- `FAULT_GRANULE_WRITE` (R450): at every frame boundary a die controller writes the fault granule the image names. -/
def execFaultGranuleWrite (m : Mv) (s : State) : Host.Outcome State Fault Refusal :=
  let d : Die := .mv m
  let at_ := match s.boot.image with
    | some i => (i.faultAt.find? fun p => p.1 == m).map (·.2)
    | none => none
  match at_ with
  | some pa =>
    let x := s.die d
    if s.atFrame d && s.ctlRuns m then
      .next ((s.wrBytes pa (leBytes 4 (Nat.lor x.faulted x.combined))).wrBytes (pa + 8) (leBytes 8 x.faultBeat))
    else .next s
  | none => .next s

/-! ### Watchdogs (R448) -/

/-- `WATCHDOG_KICK` (R448): a regulator controller restarts its watchdog. -/
def execWatchdogKick (c : Crown) (s : State) : Host.Outcome State Fault Refusal :=
  .next (if s.hasDie (.cr c) then { s with recov := { s.recov with kicked := Tab.set 0 s.recov.kicked c.val s.time } } else s)

/-- `WATCHDOG_EXPIRY` (R448): 80 ms without a restart lead CR0 to request a power cycle. -/
def execWatchdogExpiry (c : Crown) (s : State) : Host.Outcome State Fault Refusal :=
  if s.hasDie (.cr c) && decide (Tab.get 0 s.recov.kicked c.val + 80 * msBeats ≤ s.time) && !bit (s.getF cr0 .rcv 0 Reg.RCV_MISSED_WDOG) c.val
  then .next ((s.setF cr0 .rcv 0 Reg.RCV_MISSED_WDOG (setBit (s.getF cr0 .rcv 0 Reg.RCV_MISSED_WDOG) c.val)).powerCycle 0x0B)
  else .next s

/-! ### Held contexts (R449, R460, R462) -/

/-- Let a context that is held resume at its next run, going back or at its position. -/
def State.letResume (s : State) (n : Nat) (asIs : Bool) : State :=
  let s1 := s.setF cr0 .rcv 0 Reg.RCV_HELD (clrBit (s.getF cr0 .rcv 0 Reg.RCV_HELD) n)
  mvDies.foldl (fun t d => if t.ctxState d n == 3 then t.setCtx d n { t.ctx d n with resumeAt := t.beat d + 1, asIs := asIs } else t) s1

/-- Release one context: an on-demand one becomes idle, a scheduled one resumes under RESTORE. -/
def State.releaseCtx (s : State) (n : Nat) : State :=
  if !bit (s.getF cr0 .rcv 0 Reg.RCV_HELD) n then s
  else if mvDies.any (fun d => s.ctxOnDemand d n) then
    let s1 := s.setF cr0 .rcv 0 Reg.RCV_HELD (clrBit (s.getF cr0 .rcv 0 Reg.RCV_HELD) n)
    mvDies.foldl (fun t d => if t.ctxState d n == 3 then
      let x := t.die d
      (t.setCtxState d n 1).setDie d { x with faulted := clrBit x.faulted n,
                                              faultBeat := if bit x.combined n then x.faultBeat else x.beat } else t) s1
  else s.letResume n false

/-- A write of `RCV.CTX_RELEASE`. -/
def State.releaseMask (s : State) (w : Nat) : State := (bitsSet w 32).foldl (fun t n => t.releaseCtx n) s

/-- `CONTEXT_RELEASE` (R449). -/
def execContextRelease (w : Word) (s : State) : Host.Outcome State Fault Refusal := .next (s.releaseMask w.toNat)

/-- Hold a context until a level ends: faulted with action HOLD, or its resumption put off. -/
def State.holdCtx (s : State) (d : Die) (n eng rc : Nat) : State :=
  let add (t : State) : State :=
    { t with recov := { t.recov with lvlHeld := Tab.set 0 t.recov.lvlHeld (dieCode d) (setBit (Tab.get 0 t.recov.lvlHeld (dieCode d)) n) } }
  if s.ctxState d n == 3 then
    if (s.ctx d n).resumeAt == 0 then s
    else
      let s1 := mvDies.foldl (fun t x => t.setCtx x n { t.ctx x n with resumeAt := 0 }) s
      add (s1.setF cr0 .rcv 0 Reg.RCV_HELD (setBit (s1.getF cr0 .rcv 0 Reg.RCV_HELD) n))
  else if s.ctxState d n == 0 then s
  else add (mvDies.foldl (fun t x => t.ctxFaultOn n 0x10 eng rc true false x) s)

/-! ### Hangs and fences (R443, R451, R460) -/

/-- The suspects of a unit: contexts of the current and the previous turn (R460). -/
def State.suspects (s : State) (d : Die) (u : Nat) : Nat :=
  let x := s.eng d u
  if x.suspTurn == s.turn d then Nat.lor x.suspNow x.suspWas else if x.suspTurn + 1 == s.turn d then x.suspNow else 0

/-- Whether a unit is still busy 4,096 beats after an abort, or after the context it executes was stopped (R443). -/
def State.hung (s : State) (d : Die) (u : Nat) : Bool :=
  let x := s.eng d u
  (x.abortAt != 0 && decide (x.abortAt - 1 + 4096 ≤ s.time)) || x.desc.any fun y =>
    !y.sandbox && s.ctxState d y.ctx == 3 && decide ((s.ctx d y.ctx).stoppedAt + 4096 ≤ s.time)

/-- A unit records its suspects where its trigger starts a level (R460). -/
def State.noteSuspects (s : State) (d : Die) (u lvl : Nat) : State :=
  if decide (lvl ≤ (s.dom (dieCode d)).level) || decide (lvl ≤ (s.dom 4).level) then s
  else s.setF d .rcv 0 Reg.RCV_SUSPECT_MASK (s.suspects d u)

/-- `ENGINE_HANG_DETECT` (R443, R460, R461): a unit still busy 4,096 beats after an abort starts engine level, or for a scan
engine or mover partition level; its suspects are recorded. The hang of a replayed descriptor is a reproduction. -/
def execEngineHangDetect (m : Mv) (u : Fin 22) (s : State) : Host.Outcome State Fault Refusal :=
  let d : Die := .mv m
  if !s.hung d u then .next s
  else if (s.replay d).any fun r => r.cur.isSome && (r.eng == u.val || r.unit == u.val) then .next (s.replayHit d 0x07)
  else
    .next (if u.val < 16 then (s.noteSuspects d u 2).trigger 2 0x01 d u 0x9001 else (s.noteSuspects d u 3).trigger 3 0x03 d u 0x9001)

/-- Contexts with a descriptor in progress or queued in the domain of a recovery on a die. -/
def State.busyCtxs (s : State) (d : Die) (es : List Nat) : List Nat :=
  (es.filterMap fun e => (s.eng d e).desc.map (·.ctx)) ++
    ([16, 17, 18, 19, 20, 21].map fun u => ((s.queue d u).filter fun x => decide (x.eng ∈ es)).map (·.ctx)).flatten

/-- What the fence does on a die: queue entries of the domain are dropped, its reads forgotten, its fences abandoned, contexts with a descriptor
in progress or queued, and the suspects, held until the level ends; CR0 counts them as faulted (R450, R451, R460). -/
def State.fenceDie (s : State) (d : Die) (es : List Nat) (rc : Nat) (susp : Bool) : State :=
  let mask := if susp then s.getF d .rcv 0 Reg.RCV_SUSPECT_MASK else 0
  let busy := s.busyCtxs d es
  let quiet := (bitsSet mask 32).filter fun n => !decide (n ∈ busy) && s.ctxState d n != 3
  let s1 := busy.foldl (fun t n => t.holdCtx d n 0 rc) s
  let s2 := (bitsSet mask 32).foldl (fun t n => t.holdCtx d n 0 rc) s1
  let held := (busy ++ bitsSet mask 32).foldl setBit (Tab.get 0 s2.recov.masks (dieCode d))
  let s3 := { s2 with recov := { s2.recov with asIs := Tab.set 0 s2.recov.asIs (dieCode d) (quiet.foldl setBit 0),
                                               masks := Tab.set 0 s2.recov.masks (dieCode d) held } }
  let s4 := [16, 17, 18, 19, 20, 21].foldl (fun t u => t.dropQueued d u fun x => !decide (x.eng ∈ es)) s3
  let s5 := es.foldl (fun t e => match (t.eng d e).desc with
    | some x => t.dropReads d e x.num
    | none => t) s4
  (List.range 32).foldl (fun t n => match t.fence (issuer d n false) with
    | some f => if decide (f.eng ∈ es) then
        (t.setFence (issuer d n false) none).setF d .mem 0 Reg.MEM_PWSTAT_FENCING 0 (0x10 * n) else t
    | none => t) s5

/-- The engines of a recovery's domain on a die. -/
def RcvDom.engines (x : RcvDom) : List Nat := if x.level == 2 then [x.eng] else List.range 16

/-- `RECOVERY_FENCE_END` (R451, R452): 4,096 beats after the trigger the fence of a die's recovery, or of the package's
(4), ends and the crash dump begins (log entry 40, DEDUCED). -/
def execRecoveryFenceEnd (k : Fin 5) (s : State) : Host.Outcome State Fault Refusal :=
  let x := s.dom k
  if x.level == 0 || x.step != 1 || s.time < x.since + 4096 then .next s
  else
    let s1 := s.setDom k { x with step := 2 }
    let rc := 0x9000 + x.level
    let susp := x.origin == 1 || x.origin == 3
    if k.val == 4 then
      let hit := s.getF cr0 .rcv 0 Reg.RCV_LAST_LAST_DIE
      .next (mvDies.foldl (fun t d => t.fenceDie d x.engines rc (susp && dieCode d == hit)) s1)
    else .next (s1.fenceDie (.mv (Fin.ofNat 4 k.val)) x.engines rc susp)

/-! ### Crash dumps (R452, R453) -/

/-- Where a dump of sequence number `q` goes. -/
def State.slotPa (s : State) (d : Die) (q : Nat) : Nat := hbmPa d (s.recBase + 0x1000000 + 0x400000 * ((q - 1) % 16))

/-- The header of a dump. -/
def State.dumpHeader (s : State) (d : Die) (x : RcvDom) (q : Nat) : List Byte :=
  leBytes 4 0x54444D31 ++ leBytes 4 q ++ leBytes 8 x.beat ++ leBytes 2 (0x9000 + x.level) ++ leBytes 2 x.rc ++
    [BitVec.ofNat 8 x.eng, BitVec.ofNat 8 s.sampleKib, 0, 0] ++ leBytes 4 (s.getF d .rcv 0 Reg.RCV_SUSPECT_MASK) ++
    leBytes 4 (s.die d).faulted ++ leBytes 8 (s.beat d)

/-- The word of a register row, from its fields. -/
def State.engWord (s : State) (d : Die) (e : Nat) : Nat :=
  s.getF d .eng 0 Reg.ENG_E_CUR_CTX (4 * e) + 2 ^ 5 * s.getF d .eng 0 Reg.ENG_E_BUSY (4 * e) +
    2 ^ 6 * s.getF d .eng 0 Reg.ENG_E_IDLE_RUN (4 * e) + 2 ^ 16 * s.getF d .eng 0 Reg.ENG_E_DEFERRED (4 * e)

/-- The state of an engine in a dump: `ENG.E`, its run-table entry of the frame, and for each context the position and
the header of its next descriptor, 20 B each from byte 16 on (log entry 21, PRESUMED). -/
def State.dumpEngine (s : State) (d : Die) (e : Nat) : List Byte :=
  let f := s.frame d
  let entry := (List.range 64).findSome? fun i => (s.runEntry d (s.bank d) e i).bind fun v =>
    if s.runActive d (s.bank d) v f then some v else none
  leBytes 8 (s.engWord d e) ++ leBytes 8 (entry.getD 0) ++
    ((List.range 32).map fun n =>
      let y := s.stream d e n
      if y.bound then leBytes 4 y.pos ++ ((s.header y).map (leBytes 4)).flatten else List.replicate 20 0).flatten

/-- A queue entry in a dump, in 64 B (log entry 21, PRESUMED). -/
def dumpDesc (x : Desc) : List Byte :=
  let l := leBytes 4 x.ctx ++ leBytes 4 x.eng ++ leBytes 8 x.pos ++ (x.words.map (leBytes 4)).flatten
  (l ++ List.replicate 64 0).take 64

/-- The bytes of an error-log record (R441). -/
def LogRec.bytes (r : LogRec) : List Byte :=
  leBytes 8 r.beat ++ leBytes 2 r.rc ++ [BitVec.ofNat 8 r.die, BitVec.ofNat 8 r.blk] ++ leBytes 2 r.inst ++
    [BitVec.ofNat 8 r.ctx, BitVec.ofNat 8 r.sev] ++ (r.detail ++ List.replicate 16 0).take 16

/-- The record at an index of a die's ring. -/
def DieSt.ring (x : DieSt) (i : Nat) : Option LogRec :=
  let last := (x.logCount + 4095) % 4096
  let back := (last + 4096 - i) % 4096
  x.log[back]?

/-- A range of memory is zero. -/
def State.zeroRange (s : State) (pa n : Nat) : State :=
  { s with mem := s.mem.filter fun c => decide (c.1 < pa ∨ pa + n ≤ c.1) }

/-- Write a crash dump of a die; what it does not fill is zero (R452, R453). -/
def State.dump (s : State) (d : Die) (x : RcvDom) : State :=
  let q := s.getF d .rcv 0 Reg.RCV_DUMP_SEQ + 1
  let b := s.slotPa d q
  let put (t : State) (off : Nat) (l : List Byte) : State := t.wrBytes (b + off) l
  let kib := s.sampleKib * 1024
  let s1 := put (s.zeroRange b 0x400000) 0 (s.dumpHeader d x q)
  let s2 := x.engines.foldl (fun t e => put t (0x1000 + 0x400 * e) (s.dumpEngine d e)) s1
  let s3 := put s2 0x5000 ((List.range 4096).map fun n => leBytes 4 (s.ctr d n)).flatten
  let s4 := put s3 0x9000 ((List.range 256).map fun n => leBytes 4 (s.getF d .syn 0 Reg.SYN_BAR_ARRIVED (4 * n) +
    2 ^ 11 * s.getF d .syn 0 Reg.SYN_BAR_GEN (4 * n) + 2 ^ 16 * s.getF d .syn 0 Reg.SYN_BAR_MEMBERS (4 * n))).flatten
  let s5 := (List.range 6).foldl (fun t u => put t (0x9400 + 0x400 * u) ((s.queue d (16 + u)).map dumpDesc).flatten) s4
  let s6 := (List.range 4096).foldl (fun t i => match (s.die d).ring i with
    | some r => put t (0x10000 + 32 * i) r.bytes
    | none => t) s5
  let s7 := x.engines.foldl (fun t e =>
    let win := if kib == 0 then 0 else (s.eng d e).lastGran * 64 / kib * kib
    put t (0x30000 + 0x10000 * e) (s.rdBytes (chipPa d win) kib)) s6
  let s8 := s7.wrBytes (hbmPa d (s.recBase + 0x400000)) (leBytes 4 q ++ List.replicate 4092 0)
  (s8.setF d .rcv 0 Reg.RCV_DUMP_SEQ q).setF d .rcv 0 Reg.RCV_DUMP_SLOT ((q - 1) % 16)

/-! ### Resets (R454, R464) -/

/-- Poison `n` granules from one on. -/
def poisonRange (t : Tab Bool) (g n : Nat) : Tab Bool :=
  (t.filter fun p => decide (p.1 < g)) ++ (List.range n).map (fun i => (g + i, true)) ++ t.filter fun p => decide (g + n ≤ p.1)

/-- Every granule of a die's engine buffers is poisoned (R264). -/
def State.poisonBuffers (s : State) (d : Die) : State :=
  { s with poison := poisonRange s.poison (chipPa d 0x3000000 / 64) 0x40000 }

/-- One engine is reset: its units and descriptor state; its buffer is kept (R264). -/
def State.resetEngine (s : State) (d : Die) (e : Nat) : State :=
  (s.setEng d e { s.eng d e with desc := none, abortAt := 0, got := [], run := none, entry := none, deferred := false }).setF d
    .eng 0 Reg.ENG_E_BUSY 0 (4 * e)

/-- A die's MVC is reset: engines, scan engines, movers and sync unit; every granule of the engine buffers is poisoned
(R264, R454). The part of an armed set that the die has confirmed no longer counts (R434) (log entry 41, DEDUCED). -/
def State.resetMvc (s : State) (d : Die) : State :=
  let s1 := (List.range 16).foldl (fun t e => t.resetEngine d e) s
  let s2 := [16, 17, 18, 19, 20, 21].foldl (fun t u => (t.setQueue d u []).setEng d u { t.eng d u with abortAt := 0, got := [] }) s1
  let s3 := (List.range 4096).foldl (fun t n => t.setF d .syn 0 Reg.SYN_CTR_VALUE 0 (4 * n)) s2
  let s4 := (List.range 256).foldl (fun t n => (t.setF d .syn 0 Reg.SYN_BAR_ARRIVED 0 (4 * n)).setF d .syn 0 Reg.SYN_BAR_GEN 0
    (4 * n)) s3
  let s5 := (List.range 32).foldl (fun t n => t.mapStreams d n fun y => { y with away := 0 }) s4
  let s6 := { s5 with rdReqs := Tab.set [] s5.rdReqs (dieCode d) [] }
  let s7 := s6.poisonBuffers d
  let undo := fun (p : Part) => { p with ok := p.ok && p.decision != 0 }
  let s8 := match Tab.get none s7.chg.parts (dieCode d) with
    | some p => { s7 with chg := { s7.chg with parts := Tab.set none s7.chg.parts (dieCode d) (some (undo p)) } }
    | none => s7
  s8.addF d .mem 0 Reg.MEM_POISON_MADE 0x40000

/-- The signed copy of the firmware in a die's recovery region, as far as it says it goes (R452). -/
def State.fwCopy (s : State) (d : Die) : List Byte :=
  let a := hbmPa d s.recBase
  s.rdBytes a (hdrLen + min (oLen (s.rdBytes a hdrLen)) areaFw)

/-- The controller of a die is restarted from the firmware copy, which is verified; one that fails is not executed, and RC 0xA001
is logged (R28, R454). A restarted controller answers the context faults that were raised while it did not run (R239, R449). -/
def State.restartCtl (s : State) (m : Mv) : State :=
  let d : Die := .mv m
  let r := s.recov
  if (s.objectFault 2 areaFw (s.fwCopy d)).isSome then
    { s with recov := { r with lockstep := setBit r.lockstep m.val, halted := clrBit r.halted m.val } }.log d .sec 0 0xA001
  else
    let s1 := { s with recov := { r with lockstep := clrBit r.lockstep m.val, halted := clrBit r.halted m.val } }
    (List.range 32).foldl (fun t n =>
      if (t.ctx d n).owed && t.ctxState d n == 3 then t.answerFault d n (ctxAction t d n false) else t) s1

/-- A level that missed its bound hands the fault to the next level up (R443, R455). -/
def State.handUp (s : State) (k : Nat) : State :=
  let x := s.dom k
  let d : Die := .mv (Fin.ofNat 4 k)
  if x.level == 4 then (if s.isF cr0 .rcv 0 Reg.RCV_STATUS_PWRCYC then s else s.powerCycle 0x0A)
  else if x.level == 3 then s.trigger 4 0x05 d x.eng 0x9003 x.origin
  else s.trigger 3 0x02 d x.eng 0x9002 x.origin

/-- `CRASH_DUMP_DONE` (R28, R239, R452 to R455, R459): the dump of a die is written and its reset follows. An engine, whose dump
the die controller writes, goes on to replay or to the wait for its turn; a partition's controller is restarted; at chip level the
package's reset follows when every die has dumped. -/
def execCrashDumpDone (m : Mv) (s : State) : Host.Outcome State Fault Refusal :=
  let d : Die := .mv m
  let p := s.dom 4
  let x := s.dom m.val
  let replays := x.origin == 1 || x.origin == 3
  let done (t : State) : State := { t with recov := { t.recov with doneAt := Tab.set 0 t.recov.doneAt m.val (t.beat d + 1) } }
  if s.overdue m.val then .next (s.handUp m.val)
  else if p.level == 4 && p.step == 2 then
    let s1 := (done ((s.dump d p).resetMvc d)).restartCtl m
    let all := mvDies.all fun y => !s1.domOn (8 + dieCode y) || y == d || decide (p.beat < Tab.get 0 s1.recov.doneAt (dieCode y))
    .next (if all then s1.setDom 4 { p with step := 3 } else s1)
  else if x.level == 2 && x.step == 2 && s.ctlRuns m then
    .next (done (((s.dump d x).resetEngine d x.eng).setDom m.val { x with step := if replays then 5 else 6 }))
  else if x.level == 3 && x.step == 2 then
    .next ((((s.dump d x).resetMvc d).setDom m.val { x with step := 4 }).restartCtl m)
  else .next s

/-! ### Bounds (R455) -/

/-- `RECOVERY_BOUND_EXPIRY` (R443, R455, R463): a level not complete within its bound hands the fault to the next. -/
def execRecoveryBoundExpiry (k : Fin 5) (s : State) : Host.Outcome State Fault Refusal :=
  .next (if s.overdue k then s.handUp k else s)

/-! ### Culprit replay (R459 to R462) -/

/-- The cells of an engine's buffer. -/
def State.bufferCells (s : State) (d : Die) (e : Nat) : List Host.Cell :=
  let a := chipPa d (0x3000000 + 0x100000 * e)
  s.mem.filter fun c => decide (a ≤ c.1 ∧ c.1 < a + 0x100000)

/-- Replay ends: the buffer is restored, the token returned, suspects that are no culprit resume when the domain rejoins
(R461, R462). `reason` is that of RC 0x9008 when there is no culprit. -/
def State.replayVerdict (s : State) (d : Die) (r : Replay) (reason : Nat) : State :=
  let a := chipPa d (0x3000000 + 0x100000 * r.eng)
  let kept := s.mem.filter fun c => !decide (a ≤ c.1 ∧ c.1 < a + 0x100000)
  let s1 := { s with mem := r.save.foldl (fun (m : List Host.Cell) (c : Host.Cell) => Tab.set memDefault m c.1 c.2) kept }
  let s2 := (s1.returnToken d 2 0 r.eng).setReplay d none
  let s3 := if r.culprits != 0 then s2
    else (s2.log d .rcv 0 0x9008 (leBytes 4 r.suspects ++ [BitVec.ofNat 8 reason])).setF cr0 .rcv 0 Reg.RCV_INCONCL
      (Nat.lor (s2.getF cr0 .rcv 0 Reg.RCV_INCONCL) r.suspects)
  let k := dieCode d
  let x := s3.dom k
  let s4 := if x.level == 0 then s3 else s3.setDom k { x with step := 6 }
  let rec1 := s4.recov
  { s4 with recov := { rec1 with doneAt := Tab.set 0 rec1.doneAt k (s4.beat d + 1),
                                 lvlHeld := Tab.set 0 rec1.lvlHeld k (andNot (Tab.get 0 rec1.lvlHeld k) r.culprits) } }

/-- Run the next suspect. -/
def State.nextSuspect (s : State) (d : Die) (r : Replay) : State :=
  match r.todo with
  | n :: rest =>
    let pos := if (s.ctx d n).chk then (s.stream d r.eng n).chkpt else 0
    s.setReplay d (some { r with cur := some n, todo := rest, since := s.time, pos := pos, done := 0, hit := 0 })
  | [] => s.replayVerdict d r (if r.suspects != 0 && r.limited == r.suspects then 3 else 1)

/-- `REPLAY_START` (R361, R459, R461): after a reset for a hang the die controller saves the engine buffer, asks for the
replay token, and with it runs the first suspect; without it every suspect is inconclusive. -/
def execReplayStart (m : Mv) (s : State) : Host.Outcome State Fault Refusal :=
  let d : Die := .mv m
  let x := s.dom m.val
  match s.replay d with
  | none =>
    if x.step != 5 || x.level == 0 || !s.ctlRuns m then .next s
    else
      let mask := s.getF d .rcv 0 Reg.RCV_SUSPECT_MASK
      let e := if x.eng < 16 then x.eng else (s.eng d x.eng).lastEng
      let r : Replay := { die := m.val, unit := x.eng, eng := e, cause := (s.eng d x.eng).cause - 1, todo := bitsSet mask 32, suspects := mask,
                          save := s.bufferCells d e }
      let q := s.getF d .rcv 0 Reg.RCV_DUMP_SEQ
      let s1 := if x.level == 2 then s.wrBytes (s.slotPa d q + 0x130000) (s.rdBytes (chipPa d (0x3000000 + 0x100000 * e)) 0x100000)
        else s
      .next ((s1.setReplay d (some r)).askToken d ⟨2, s.tokMatrix, s.time, 0, e⟩)
  | some r =>
    if r.cur.isSome then .next s
    else if s.hasToken d 2 0 r.eng then .next (s.nextSuspect d r)
    else if s.wantsToken d 2 0 r.eng then .next s
    else .next (s.replayVerdict d r 2)

/-- A replayed unit is reset: the engine, and the queue entry of the scan engine or mover that executed it (R461). -/
def State.resetReplay (s : State) (d : Die) (r : Replay) : State :=
  let s1 := s.resetEngine d r.eng
  [16, 17, 18, 19, 20, 21].foldl (fun t u =>
    let t1 := t.dropQueued d u fun x => !x.sandbox
    if u == r.unit then t1.setEng d u { t1.eng d u with abortAt := 0 } else t1) s1

/-- `REPLAY_SUSPECT_END` (R461, R462): the replay of the running suspect ends: it has met the fault again, as a descriptor fault of
the same R222 cause or as a hang; it has completed every descriptor it had started since its checkpoint; or it has run for
`REPLAY_LIM` turns. A culprit is logged and stays held. -/
def execReplaySuspectEnd (m : Mv) (s : State) : Host.Outcome State Fault Refusal :=
  let d : Die := .mv m
  match s.replay d with
  | none => .next s
  | some r =>
    match r.cur with
    | none => .next s
    | some n =>
      if (s.dom m.val).step != 5 then .next ((s.returnToken d 2 0 r.eng).setReplay d none)
      else if r.hit == 8 || (r.hit != 0 && r.cause != 0 && r.hit == r.cause + 1) then
        let s1 := (s.log d .rcv 0 0x9007 ([BitVec.ofNat 8 r.eng, BitVec.ofNat 8 (r.hit - 1)] ++ leBytes 2 r.done) n).setF cr0 .rcv 0
          Reg.RCV_CULPRIT (setBit (s.getF cr0 .rcv 0 Reg.RCV_CULPRIT) n)
        .next ((s1.resetReplay d r).nextSuspect d { r with cur := none, culprits := setBit r.culprits n })
      else if r.hit == 0 && !s.sandboxBusy d && decide ((s.stream d r.eng n).started ≤ r.done) then
        .next (s.nextSuspect d { r with cur := none })
      else if r.since + s.replayLim * turnBeats ≤ s.time then
        .next ((s.resetReplay d r).nextSuspect d { r with cur := none, limited := setBit r.limited n })
      else .next s

/-- A context held until the level ends takes its own action: HOLD stays, RESTORE resumes, a quiet suspect goes on where it
stood (R449, R456, R462). -/
def State.endHold (s : State) (d : Die) (n : Nat) (asIs : Bool) : State :=
  let c := s.ctx d n
  if asIs then (s.log d .eng 0 0x9001 ([0x10, 4] ++ leBytes 2 (s.getF d .eng 0 Reg.ENG_CTX_FAULT_RC (ctxOff n))) n).letResume n true
  else if s.ctxOnDemand d n || c.action == 1 || decide (s.ctxRepeat ≤ c.faults) then s
  else s.letResume n false

/-- `DOMAIN_REJOIN` (R434, R456, R462): at the first turn boundary at least one frame after its reset, or its replay, a
domain's engines rejoin the schedule and its contexts resume. -/
def execDomainRejoin (m : Mv) (s : State) : Host.Outcome State Fault Refusal :=
  let d : Die := .mv m
  let x := s.dom m.val
  let at_ := Tab.get 0 s.recov.doneAt m.val
  if s.atTurn d && decide (2 ≤ x.level) && x.step == 6 && decide (at_ - 1 + frameBeats ≤ s.beat d) then
    let held := Tab.get 0 s.recov.lvlHeld m.val
    let quiet := Tab.get 0 s.recov.asIs m.val
    let s1 := (s.setDom m.val {}).showLevel
    let s2 := { s1 with recov := { s1.recov with lvlHeld := Tab.set 0 s1.recov.lvlHeld m.val 0, asIs := Tab.set 0 s1.recov.asIs m.val 0 } }
    .next ((bitsSet held 32).foldl (fun t n => t.endHold d n (bit quiet n)) s2)
  else .next s

/-! ### The tray (R458) -/

/-- The master takes a package's heartbeat: whether it is ready; one with LEVEL 4 makes it order the tray. A follower passes it on
along its sync path. -/
def State.takePkgBeat (s : State) (box : Nat) : State :=
  if s.isFollower then
    match s.syncPort with
    | some p => s.sbSend (.tray p) 0x18 (box / 64 * 64)
    | none => s
  else
    let pkg := bitsOf box 12 4
    let l := s.recov.ready.filter (· != pkg)
    let s1 := { s with recov := { s.recov with ready := if bit box 62 then l ++ [pkg] else l } }
    if bitsOf box 59 3 == 4 && !bit box 62 && s1.recov.stopTurn == 0 && (s1.dom 4).level != 4 then s1.sendOrder (bitsOf box 96 8) else s1

/-- `PACKAGE_HEARTBEAT` (R446, R458): a kind 1 heartbeat arrives at a tray port. -/
def execPackageHeartbeat (n : Fin 8) (r : SbSlot) (s : State) : Host.Outcome State Fault Refusal :=
  match s.sbTakes (.tray n) r 0x18 with
  | (none, t) => .next t
  | (some box, t) => if bitsOf box 6 3 == 1 then .next (t.takePkgBeat box) else .next s

/-- SC stops on every link and chip level starts with cause 0x09, but at a package that has reached it already. -/
def State.trayStop (s : State) : State :=
  let s1 := { s with recov := { s.recov with stopTurn := 0 } }.stopAllSc
  if (s1.dom 4).level == 4 then s1 else s1.trigger 4 0x09 cr0

/-- `TRAY_ORDER` (R446, R458): a package receives a tray order on a port, keeps its stop turn, and passes a new one on. An order
that arrives after its turn has begun acts on receipt. -/
def execTrayOrder (n : Fin 8) (r : SbSlot) (s : State) : Host.Outcome State Fault Refusal :=
  match s.sbTakes (.tray n) r 0x18 with
  | (none, t) => .next t
  | (some box, t) =>
    let turn := bitsOf box 16 43
    if bitsOf box 6 3 != 3 then .next s
    else if t.recov.stopTurn == turn + 1 || t.recov.lastOrder == turn + 1 then .next t
    else
      let s1 := (t.livePorts.filter (· != n)).foldl (fun u p => u.sbSend (.tray p) 0x18 (box / 64 * 64)) t
      let s2 := { s1 with recov := { s1.recov with stopTurn := turn + 1, lastOrder := turn + 1 } }
      .next (if turn ≤ s2.turn cr0 then s2.trayStop else s2)

/-- `TRAY_STOP` (R458): at the stop turn SC stops on every link and chip level starts with cause 0x09. -/
def execTrayStop (s : State) : Host.Outcome State Fault Refusal :=
  .next (if s.recov.stopTurn != 0 && decide (s.recov.stopTurn - 1 ≤ s.turn cr0) then s.trayStop else s)

/-! ### Forced levels (R470) -/

/-- A write of `RCV.FORCE` with GO. -/
def State.force (s : State) (lvl die eng : Nat) : State :=
  let s1 := ((s.setF cr0 .rcv 0 Reg.RCV_FORCE_LEVEL lvl).setF cr0 .rcv 0 Reg.RCV_FORCE_DIE die).setF cr0 .rcv 0
    Reg.RCV_FORCE_ENGINE eng
  if s.phase != 10 then s1.refuse .rcv cr0 0 0x1003
  else if lvl < 2 || 4 < lvl || 4 ≤ die || !s.hasDie (.mv (Fin.ofNat 4 die)) then s1.refuse .rcv cr0 0 0x1001
  else if lvl == 2 then (s1.noteSuspects (.mv (Fin.ofNat 4 die)) eng 2).trigger 2 0x0D (.mv (Fin.ofNat 4 die)) eng
  else s1.trigger lvl 0x0D (.mv (Fin.ofNat 4 die))

/-- `FORCE_ENGINE_RESET` (R470). -/
def execForceEngineReset (die : Fin 8) (eng : Fin 16) (s : State) : Host.Outcome State Fault Refusal :=
  .next (s.force 2 die eng)

/-- `FORCE_PARTITION_RESET` (R470). -/
def execForcePartitionReset (die : Fin 8) (s : State) : Host.Outcome State Fault Refusal := .next (s.force 3 die 0)

/-- `FORCE_CHIP_RESET` (R470). -/
def execForceChipReset (die : Fin 8) (s : State) : Host.Outcome State Fault Refusal := .next (s.force 4 die 0)

end Sys2Proof.Machine
end

