-- ==== Sys2Proof/Machine/Crown.lean ====
section
/-! DEFINITION. The host endpoint of a Crown die, the result outputs, and the `ETH` table port (R267 to R275, R292 to R297,
R507). -/

namespace Sys2Proof.Machine

/-! ### BAR2 (R263, R269, R270) -/

/-- The package address that a BAR2 offset maps to; none where its aperture is not valid (R269). -/
def State.bar2Pa (s : State) (c : Crown) (x : Nat) : Option Nat :=
  let n := x / 2 ^ 32 % 16
  if s.pciF c Reg.PCI_BAR2_AP_VALID (4 * n) == 1 then some (s.pciF c Reg.PCI_BAR2_AP_BASE (4 * n) * 2 ^ 32 + x % 2 ^ 32)
  else none

/-- The package address of a host access that lies inside the window (log entry 50, DEDUCED). -/
def State.bar2In (s : State) (c : Crown) (x len : Nat) (wr : Bool) : Option Nat :=
  match s.bar2Pa c x with
  | some pa => if s.outside pa len wr false then none else some pa
  | none => none

/-- A host access outside the window: RC 0x5004 with the function in its context byte, and `PCI.ERR.OUTSIDE` (R270). -/
def State.hostOutside (s : State) (c : Crown) (x : Nat) : State :=
  (s.log (.cr c) .pci 0 0x5004 (leBytes 8 x) (0x40 + c.val)).bumpF (.cr c) .pci 0 Reg.PCI_ERR_OUTSIDE

/-- Whether a Crown die's endpoint takes host accesses. -/
def State.hostOpen (s : State) (c : Crown) : Bool := s.hasDie (.cr c) && s.powered (.cr c) .pci && s.enabled .pci (.cr c)

/-- `BAR2_WRITE` (R263, R269, R270): a host write of bytes at a BAR2 offset is posted with HOST set, or dropped with RC
0x5004. -/
def execBar2Write (c : Crown) (x : Nat) (bytes : List Byte) (s : State) : Host.Outcome State Fault Refusal :=
  if !s.hostOpen c || bytes == [] then .next s
  else match s.bar2In c x bytes.length true with
    | some pa => .next (s.post (.cr c) 0 true (s.pkgId * 2 ^ 48 + pa) bytes)
    | none => .next (s.hostOutside c x)

/-- `BAR2_READ` (R252, R263, R270): a host read of `len` bytes at a BAR2 offset is answered after a fence of the function;
outside the window it is answered Unsupported Request with RC 0x5004. -/
def execBar2Read (c : Crown) (id x len : Nat) (s : State) : Host.Outcome State Fault Refusal :=
  if !s.hostOpen c || len == 0 then .next s
  else match s.bar2In c x len false with
    | some pa =>
      let h := s.host c
      .next ((s.setHost c { h with reads := h.reads ++ [⟨id, s.time, pa, len, false⟩] }).nextHostFence (.cr c))
    | none =>
      let s1 := s.hostOutside c x
      .next (s1.setHost c { s1.host c with lastCpl := some (.unsupported id) })

/-- `BAR2_READ_ABORT` (R270): a host read not answered within `RD_LIMIT` returns Completer Abort and is counted. -/
def execBar2ReadAbort (c : Crown) (id : Nat) (s : State) : Host.Outcome State Fault Refusal :=
  match (s.host c).reads.find? fun r => r.id == id with
  | none => .next s
  | some r => .next (if r.at_ + s.rdLimit c * 1600 ≤ s.time then s.abortRead c id else s)

/-! ### The package as requester (R272, R273) -/

/-- A move's read of host memory fails: every destination granule is written with poison, RC 0x5003 is logged against the context
with the cause, and the engine raises a context fault (R273). The bytes written under the poison are a free value. -/
def State.failMove (s : State) (c : Crown) (r : HostMove) (cause : Nat) : State :=
  let h := s.host c
  let s1 := s.setHost c { h with moves := h.moves.eraseP (fun q => q.id == r.id) }
  match dieOfCode r.die with
  | none => s1
  | some d =>
    let (v, t) := s1.draw (8 * r.len)
    let s2 := t.deliver d r.ctx r.dst (.mem r.dst) (leBytes r.len v) fun _ => true
    (s2.log d .dma 0 0x5003 [BitVec.ofNat 8 cause] r.ctx).faultAll d r.ctx 0x10 r.eng 0x5003

/-- The completion timeout in µs for a Completion Timeout Value (R272). -/
def cplTimeout (v : Nat) : Nat :=
  match v with
  | 1 => 80
  | 2 => 8000
  | 6 => 160000
  | 9 => 640000
  | 10 => 2560000
  | 13 => 10000000
  | 14 => 40000000
  | _ => 40000

/-- A read of host memory has waited for the completion timeout at a model's time (R272). -/
def State.moveLate (s : State) (c : Crown) (r : HostMove) (t : Nat) : Bool :=
  decide (r.at_ + cplTimeout (s.host c).cplTo * 1600 ≤ t)

/-- A read of host memory times out: it fails, and is counted (R273). -/
def State.timeoutMove (s : State) (c : Crown) (r : HostMove) : State :=
  (s.failMove c r 3).bumpF (.cr c) .pci 0 Reg.PCI_ERR_CPL_TO

/-- `HOST_READ_COMPLETION` (R238, R263, R272, R273): the host answers a move's read: status 0 with the bytes, 1 with EP set, 2
with Unsupported Request or Completer Abort. An answer after the completion timeout finds the read timed out. -/
def execHostReadCompletion (c : Crown) (id : Nat) (status : Fin 3) (bytes : List Byte) (s : State) :
    Host.Outcome State Fault Refusal :=
  let h := s.host c
  match h.moves.find? fun r => r.id == id with
  | none => .next s
  | some r =>
    if s.moveLate c r (s.time - 1) then .next (s.timeoutMove c r)
    else if status != 0 then .next (s.failMove c r status.val)
    else
      let s1 := s.setHost c { h with moves := h.moves.eraseP (fun q => q.id == id) }
      match dieOfCode r.die with
      | none => .next s1
      | some d =>
        let l := bytes.take r.len
        .next (s1.deliver d r.ctx r.dst (.mem r.dst) l fun _ => false)

/-- `HOST_READ_TIMEOUT` (R272, R273): a move's read of host memory has waited for the completion timeout. -/
def execHostReadTimeout (c : Crown) (id : Nat) (s : State) : Host.Outcome State Fault Refusal :=
  match (s.host c).moves.find? fun r => r.id == id with
  | none => .next s
  | some r => .next (if s.moveLate c r s.time then s.timeoutMove c r else s)

/-! ### Resets, vectors and configuration space (R274, R275, R394) -/

/-- Put the fields of a row's `n` elements of a `PCI` block to Reset. -/
def State.resetPci (s : State) (c : Crown) (fs : List Fld) (n stride : Nat) : State :=
  (List.range n).foldl (fun t i => fs.foldl (fun u f => u.setF (.cr c) .pci 0 f f.reset (i * stride)) t) s

/-- `FUNCTION_LEVEL_RESET` (R274): a Function Level Reset (0), a hot reset (1) or a link-down (2) of a Crown die's
endpoint; the host reads outstanding fail under R273. Which of the causes of R273 they carry the spec does not say: it is a
free value (log entry 2, DESIGN CHOICE). -/
def execFunctionLevelReset (c : Crown) (kind : Fin 3) (s : State) : Host.Outcome State Fault Refusal :=
  if !s.hasDie (.cr c) then .next s
  else
    let h := s.host c
    let s1 := s.setHost c { h with cplTo := 0, msixEn := false, funMask := false, unmasked := 0, msixTab := [] }
    let s2 := s1.resetPci c [Reg.PCI_BAR2_AP_BASE, Reg.PCI_BAR2_AP_VALID] 16 4
    let s3 := s2.resetPci c [Reg.PCI_RING_BASE_LO, Reg.PCI_RING_BASE_HI, Reg.PCI_RING_CFG_EN, Reg.PCI_RING_CFG_LOG2_N,
      Reg.PCI_RING_HEAD_HEAD, Reg.PCI_RING_TAIL_TAIL, Reg.PCI_RING_DROPPED_DROPPED] 16 0x20
    let s4 := if kind == 2 then s3.setF (.cr c) .pci 0 Reg.PCI_STATUS_LINK_UP 0 else s3
    .next (h.moves.foldl (fun t r => let (v, t1) := t.draw 16; t1.failMove c r (1 + v % 3)) s4)

/-- Whether the cause bit of a vector is set on a function (R275). -/
def State.cause (s : State) (c : Crown) (v : Nat) : Bool :=
  if v < 8 then bit (s.pciF c Reg.PCI_EVT_CAUSE) v
  else if v < 24 then bit (s.pciF c Reg.PCI_EVT_RING) (v - 8)
  else if v < 56 then bit (s.pciF c Reg.PCI_EVT_CTX_CTX) (v - 24)
  else false

/-- `MSIX_MESSAGE` (R275): a vector whose cause bit is set sends its one message, once its function is enabled and MSI-X is
enabled and it is unmasked. -/
def execMsixMessage (c : Crown) (v : Fin 64) (s : State) : Host.Outcome State Fault Refusal :=
  let h := s.host c
  if s.cause c v && s.enabled .pci (.cr c) && h.msixEn && !h.funMask && bit h.unmasked v && !bit h.sent v then
    let e := Tab.get (0, 0) h.msixTab v
    .next (s.setHost c { h with sent := setBit h.sent v, lastMsix := some (v.val, e.1, e.2) })
  else .next s

/-- What the endpoint offers (R267, R268): speed 5 is 32 GT/s; ranges A to D are four bits; 1 where a feature is supported
(log entry 171, DESIGN CHOICE). -/
def featureVal : Feature → Nat
  | .maxSpeed => 5
  | .maxWidth => 16
  | .functions => 1
  | .srIov | .ats | .pasid | .aspm | .l1Substates | .timeoutDisable | .msi | .intx => 0
  | .maxPayload => 512
  | .maxReadRequest => 4096
  | .tagBits => 10
  | .outstanding => 768
  | .d3hot | .aer | .ecrc | .functionReset => 1
  | .timeoutRanges => 0xF
  | .msixVectors => 64
  | .barSize 0 => 2 ^ 27
  | .barSize 1 => 2 ^ 36
  | .barSize _ => 2 ^ 14
  | .barPrefetchable n => b2n (n == 1)

/-- A word of BAR4 (R268): the MSI-X table at 0x0000, 16 B a vector (address, data, mask), and the Pending Bit Array at 0x2000: the
vectors whose cause has not sent its message (R275). What lies elsewhere reads as a free value. -/
def State.bar4Word (s : State) (c : Crown) (off : Nat) : Nat × State :=
  let h := s.host c
  let v := off / 16 % 64
  let e := Tab.get (0, 0) h.msixTab v
  let pend (i : Nat) : Nat := ((List.range 32).map fun j =>
    b2n (s.cause c (32 * i + j) && !bit h.sent (32 * i + j)) * 2 ^ j).sum
  if off < 0x400 then
    (match off / 4 % 4 with
      | 0 => e.1 % 2 ^ 32
      | 1 => e.1 / 2 ^ 32
      | 2 => e.2
      | _ => b2n !bit h.unmasked v, s)
  else if 0x2000 ≤ off ∧ off < 0x2008 then (pend (off / 4 % 2), s)
  else s.draw 32

/-- `CONFIGURATION_REQUEST` (R267, R268, R272, R275, R394): a request to configuration space, or to BAR4. What other words of
configuration space hold the spec does not say (log entry 2, DESIGN CHOICE). -/
def execConfigurationRequest (c : Crown) (q : CfgReq) (s : State) : Host.Outcome State Fault Refusal :=
  let h := s.host c
  if !s.hasDie (.cr c) then .next s
  else if !h.pciReady then .next (s.setHost c { h with lastCpl := some .retry })
  else match q with
    | .completionTimeout v => .next (s.setHost c { h with cplTo := v.val })
    | .msix en mask => .next (s.setHost c { h with msixEn := en, funMask := mask })
    | .vector v addr data masked =>
      .next (s.setHost c { h with msixTab := Tab.set (0, 0) h.msixTab v.val (addr % 2 ^ 64, data % 2 ^ 32),
                                  unmasked := if masked then clrBit h.unmasked v else setBit h.unmasked v })
    | .feature id k => .next (s.setHost c { h with lastCpl := some (.data id false (leBytes 8 (featureVal k))) })
    | .bar4 id off =>
      let (v, s1) := s.bar4Word c off
      .next (s1.setHost c { h with lastCpl := some (.data id false (leBytes 4 v)) })
    | .serialNumber id =>
      .next (s.setHost c { h with lastCpl := some (.data id false (leBytes 8 (s.dieId (.cr c)))) })
    | .read id =>
      let (v, s1) := s.draw 32
      .next (s1.setHost c { h with lastCpl := some (.data id false (leBytes 4 v)) })

/-! ### Ethernet frames out (R277, R294) -/

/-- A field of an Ethernet port. -/
def State.ethF (s : State) (c : Crown) (p : Nat) (f : Fld) : Nat := s.getF (.cr c) .ethPort p f

/-- Whether a port is enabled and its link is up. -/
def State.ethUp (s : State) (c : Crown) (p : Nat) : Bool :=
  s.hasDie (.cr c) && s.powered (.cr c) .ethPort && s.isF (.cr c) .ethPort p Reg.ETHP_CTL_ENABLE &&
    s.isF (.cr c) .ethPort p Reg.ETHP_STATUS_LINK

/-- A frame, without its FCS, as it goes on the wire: padded to 60 bytes, with the FCS. -/
def withFcs (l : List Byte) : List Byte :=
  let f := l ++ List.replicate (60 - l.length) 0
  f ++ leBytes 4 (crc32 f)

/-- Result outputs are active: the schedule runs, or chip level has interrupted it (R402, R457). -/
def State.outputsOn (s : State) : Bool := s.phase == 10 || (s.dom 4).level == 4

/-- The output descriptors of the image. -/
def State.outputs (s : State) : List ImgOut :=
  match s.boot.image with
  | some i => i.outputs
  | none => []

/-- Whether a beat is an output beat of a descriptor (log entry 44, DESIGN CHOICE). -/
def outDue (o : ImgOut) (b : Nat) : Bool := decide (o.offset ≤ b) && (b - o.offset) % max o.period 1 == 0

/-- Bytes of the frame of a descriptor's TMF. -/
def outRec (o : ImgOut) : Nat := if o.rfmt == 0 then 4 else 8
def outLen (o : ImgOut) : Nat := 36 + o.count * outRec o

/-- Frame bytes from the destination MAC to the FCS. -/
def outFrame (o : ImgOut) (untagged : Bool) : Nat :=
  max 64 (outLen o + 8 + (if o.ipv6 then 40 else 20) + 18 + if untagged then 0 else 4)

/-- Beats that a frame of `n` bytes occupies on the wire (R293). -/
def wireBeats (n : Nat) : Nat := ceilDiv ((n + 20) * 128) 1000

/-- A frame starts on the wire at a beat, newest first. -/
def State.ethStart (s : State) (c : Crown) (p : Nat) (at_ : Nat) (frame : List Byte) : State :=
  let h := s.host c
  s.setHost c { h with ethTx := Tab.set [] h.ethTx p (((at_, frame) :: Tab.get [] h.ethTx p).take 8) }

/-- The first beat, from now, at which a port has no frame in progress. -/
def State.ethFree (s : State) (c : Crown) (p : Nat) : Nat :=
  match Tab.get [] (s.host c).ethTx p with
  | [] => s.beat (.cr c)
  | x :: _ => max (s.beat (.cr c)) (x.1 + wireBeats x.2.length)

/-- The first output beat of a descriptor after a beat. -/
def outNext (o : ImgOut) (b : Nat) : Nat :=
  if b < o.offset then o.offset else o.offset + ((b - o.offset) / max o.period 1 + 1) * max o.period 1

/-- A beat lies in the 1,184 beats before an output beat of a result of a port, or the port waits for one that has begun (R294). -/
def State.inGap (s : State) (c : Crown) (p b : Nat) : Bool :=
  decide (b < Tab.get 0 (s.host c).guard p) || (s.outputsOn && s.outputs.any fun o => o.crown == c && o.port.val == p &&
    o.ring.isNone && decide (outNext o b ≤ b + 1184))

/-- A frame starts when the port is free, unless that lies in the gap before a result frame, or another waits: then it waits
(R294). -/
def State.ethPut (s : State) (c : Crown) (p : Nat) (frame : List Byte) : State :=
  let h := s.host c
  if Tab.get [] h.txq p != [] || s.inGap c p (s.ethFree c p) then
    s.setHost c { h with txq := Tab.set [] h.txq p (Tab.get [] h.txq p ++ [frame]) }
  else s.ethStart c p (s.ethFree c p) frame

/-- The frames that waited start, oldest first, until one would start in a gap. -/
def State.ethFlush (s : State) (c : Crown) (p : Nat) : State :=
  let h := s.host c
  (Tab.get [] h.txq p).foldl (fun t f => t.ethPut c p f) (s.setHost c { h with txq := Tab.set [] h.txq p [] })

/-- Send a frame, behind those that wait. -/
def State.ethSend (s : State) (c : Crown) (p : Nat) (l : List Byte) : State :=
  if s.ethUp c p then (s.ethFlush c p).ethPut c p (withFcs l) else s

/-- The one's-complement sum of big-endian 16-bit words (IPv4, UDP, ICMPv6). -/
def sum16 : List Byte → Nat
  | [] => 0
  | [a] => a.toNat * 256
  | a :: b :: t => a.toNat * 256 + b.toNat + sum16 t

/-- The checksum of bytes. -/
def inetSum (l : List Byte) : Nat :=
  let v := sum16 l
  let a := v % 65536 + v / 65536
  let b := a % 65536 + a / 65536
  65535 - b

/-- An Ethernet header: destination, source, the 802.1Q tag unless the port is untagged, EtherType. -/
def State.ethHeader (s : State) (c : Crown) (p dst vlan pcp etype : Nat) : List Byte :=
  beBytes 6 dst ++ beBytes 6 (Tab.get 0 (s.host c).mac p) ++
    (if s.ethF c p Reg.ETHP_CTL_UNTAGGED == 1 then [] else beBytes 2 0x8100 ++ beBytes 2 (pcp % 8 * 8192 + vlan % 4096)) ++
    beBytes 2 etype

/-- An IPv4 header with its checksum. -/
def ip4Header (len ident ttl proto dscp src dst : Nat) (opts : List Byte) : List Byte :=
  let n := 20 + opts.length
  let a := [BitVec.ofNat 8 (0x40 + n / 4), BitVec.ofNat 8 (dscp * 4)] ++ beBytes 2 (n + len) ++ beBytes 2 ident ++ [0, 0,
    BitVec.ofNat 8 ttl, BitVec.ofNat 8 proto]
  let b := beBytes 4 src ++ beBytes 4 dst ++ opts
  a ++ beBytes 2 (inetSum (a ++ [0, 0] ++ b)) ++ b

/-- An IPv6 header. -/
def ip6Header (len next hop dscp src dst : Nat) : List Byte :=
  beBytes 4 (0x60000000 + dscp % 64 * 2 ^ 22) ++ beBytes 2 len ++ [BitVec.ofNat 8 next, BitVec.ofNat 8 hop] ++ beBytes 16 src ++
    beBytes 16 dst

/-- The pseudo-header of UDP and ICMPv6. -/
def pseudo (v6 : Bool) (src dst len next : Nat) : List Byte :=
  if v6 then beBytes 16 src ++ beBytes 16 dst ++ beBytes 4 len ++ beBytes 4 next
  else beBytes 4 src ++ beBytes 4 dst ++ beBytes 2 next ++ beBytes 2 len

/-- A UDP datagram with its checksum; a sum of zero is sent as all ones. -/
def udpData (v6 : Bool) (src dst sport dport : Nat) (l : List Byte) : List Byte :=
  let len := 8 + l.length
  let a := beBytes 2 sport ++ beBytes 2 dport ++ beBytes 2 len
  let k := inetSum (pseudo v6 src dst len 17 ++ a ++ [0, 0] ++ l)
  a ++ beBytes 2 (if k == 0 then 65535 else k) ++ l

/-! ### Results (R289, R290, R292 to R297) -/

/-- `OUTPUT_GUARD_START` (R294): 1,184 beats before the output beat of result descriptor `i`, its port starts no other
frame until that frame has left. -/
def execOutputGuardStart (i : Nat) (s : State) : Host.Outcome State Fault Refusal :=
  match s.outputs[i]? with
  | none => .next s
  | some o =>
    let d : Die := .cr o.crown
    let at_ := s.beat d + 1184
    if o.ring.isNone && s.outputsOn && outDue o at_ then
      let h := s.host o.crown
      let end_ := at_ + wireBeats (outFrame o (s.ethF o.crown o.port Reg.ETHP_CTL_UNTAGGED == 1))
      .next (s.setHost o.crown { h with guard := Tab.set 0 h.guard o.port end_ })
    else .next s

/-- The TMF of a result (R289, R290, R295): its records stand in package memory as 32-bit words, dense values, or pairs of
offset with quality and value (log entry 49, DEDUCED). -/
def State.tmf (s : State) (o : ImgOut) (seq tout : Nat) : List Byte :=
  let words := o.count * outRec o / 4
  let body := beBytes 2 0x544D ++ [1, 4] ++ beBytes 2 (outLen o) ++ [BitVec.ofNat 8 o.rfmt.val, BitVec.ofNat 8 (b2n o.last)] ++
    beBytes 4 o.source ++ beBytes 4 seq ++ beBytes 8 tout ++ beBytes 2 o.count ++ [0, 0] ++ beBytes 4 o.base ++
    ((List.range words).map fun j => beBytes 4 (s.rd32 (o.pa + 4 * j))).flatten
  body ++ beBytes 4 (crc32 body)

/-- A result frame leaves on its Ethernet port (R292, R294). The identification of its IPv4 header is a free value. -/
def State.sendResult (s : State) (o : ImgOut) (tmf : List Byte) : State :=
  let c := o.crown
  let h := s.host c
  let p := o.port.val
  if !s.ethUp c p then s
  else
    let head := s.ethHeader c p o.mac o.vlan o.pcp (if o.ipv6 then 0x86DD else 0x0800)
    let src := if o.ipv6 then (Tab.get (0, 0) h.ip6 p).1 else Tab.get 0 h.ip4 p
    let udp := udpData o.ipv6 src o.dstIp o.srcPort o.dstPort tmf
    let (ident, s1) := s.draw 16
    let ip := if o.ipv6 then ip6Header udp.length 17 64 o.dscp src o.dstIp else ip4Header udp.length ident 64 17 o.dscp src o.dstIp []
    let s2 := s1.setHost c { s1.host c with guard := Tab.set 0 (s1.host c).guard p 0 }
    (s2.ethStart c p (s2.beat (.cr c)) (withFcs (head ++ ip ++ udp))).ethFlush c p

/-- A record is written to its host ring, or dropped and counted (R296, R297). HEAD goes to the host as 8 bytes
(log entry 48, DEDUCED). -/
def State.writeRing (s : State) (c : Crown) (r : Nat) (tmf : List Byte) : State :=
  let d : Die := .cr c
  let k := 0x20 * r
  let head := s.pciF c Reg.PCI_RING_HEAD_HEAD k
  let next := (head + 1) % 2 ^ s.pciF c Reg.PCI_RING_CFG_LOG2_N k
  if next == s.pciF c Reg.PCI_RING_TAIL_TAIL k || s.pciF c Reg.PCI_RING_CFG_EN k == 0 || s.pciF c Reg.PCI_STATUS_LINK_UP == 0 then
    s.bumpF d .pci 0 Reg.PCI_RING_DROPPED_DROPPED k
  else
    let base := s.get64 d .pci 0 Reg.PCI_RING_BASE_LO Reg.PCI_RING_BASE_HI k
    let s1 := s.setHost c { s.host c with hostWr := [(base + 8192 * head, tmf), (base - 8, leBytes 8 next)] }
    (s1.setF d .pci 0 Reg.PCI_RING_HEAD_HEAD next k).raiseOn (8 + r) c

/-- `RESULT_OUTPUT` (R289, R292 to R297, R457): at an output beat of result descriptor `i`, its TMF leaves with `TOUT`, on
Ethernet or to a host ring; while chip level holds the outputs it is counted as lost. -/
def execResultOutput (i : Nat) (s : State) : Host.Outcome State Fault Refusal :=
  match s.outputs[i]? with
  | none => .next s
  | some o =>
    let c := o.crown
    let d : Die := .cr c
    let b := s.beat d
    if !s.outputsOn || !outDue o b || !s.hasDie d then .next s
    else if (s.dom 4).level == 4 then .next (s.bumpF cr0 .rcv 0 Reg.RCV_STATUS_OUT_LOST)
    else
      let h := s.host c
      let seq := Tab.get 0 h.outSeq i
      let s1 := s.setHost c { h with outSeq := Tab.set 0 h.outSeq i ((seq + 1) % 2 ^ 32) }
      let grans := (o.pa % 64 + o.count * outRec o + 63) / 64
      let n := s1.poisonCount o.pa grans
      let s2 := if n == 0 then s1 else s1.servedPoison d 0xFF n
      let t := s2.tmf o seq (taiAt (s2.mapOf d) b)
      match o.ring with
      | some r => .next (s2.writeRing c r.val t)
      | none => .next (s2.sendResult o t)

/-! ### The `ETH` table port (R279, R286, R505, R507) -/

/-- The stream table entry of a Crown die. -/
def State.streamEnt (s : State) (c : Crown) (i : Nat) : Nat := s.tbl 9 (dieCode (.cr c)) 0 0 0 i

/-- The record that the `ETH` table port selects. -/
def State.ethRec (s : State) (c : Crown) : Nat :=
  let d : Die := .cr c
  let i := s.getF d .eth 0 Reg.ETH_TBL_IDX_INDEX
  if 8192 ≤ i then 0
  else match s.getF d .eth 0 Reg.ETH_TBL_SEL_SPACE with
    | 0 => s.streamEnt c i
    | 1 => leNat (((Tab.get [] (s.host c).hdr i).drop (16 * s.getF d .eth 0 Reg.ETH_TBL_SEL_CHUNK)).take 16)
    | _ => 0

/-- The state after a read of word 0 of the `ETH` table port. -/
def State.ethLoad (s : State) (c : Crown) : State :=
  (List.range 4).foldl (fun t i => t.setF (.cr c) .eth 0 Reg.ETH_TBL_DATA_DATA (s.ethRec c / 2 ^ (32 * i)) (4 * i)) s

/-- `ETH_TABLE_READ` (R507): a read of word 0 of `ETH.TBL_DATA` loads the record or header-store chunk selected. -/
def execEthTableRead (p : Path) (c : Crown) (s : State) : Host.Outcome State Fault Refusal :=
  match s.deadRead p (.cr c) .eth with
  | some a => .next (a.2.putRd p a.1)
  | none =>
    let s1 := s.ethLoad c
    .next (s1.putRd p (s1.getF (.cr c) .eth 0 Reg.ETH_TBL_DATA_DATA 0))

end Sys2Proof.Machine
end

