-- ==== Sys2Proof/Machine/Fusion.lean ====
section
/-! DEFINITION. The fusion front end: alignment, correction and release, calibration refinement, mode tracking
(R300 to R327). -/

namespace Sys2Proof.Machine

/-! ### Groups, streams and channels (R279, R300 to R304) -/

/-- The index at which the tables of a Crown die are kept. -/
def fusDie (c : Crown) : Nat := dieCode (.cr c)

/-- The record of a group, and its fields (R303). -/
def State.grpRec (s : State) (c : Crown) (g : Nat) : Nat := s.tbl 10 (fusDie c) 0 0 0 g
def gPeriod (r : Nat) : Nat := bitsOf r 0 32
def gWait (r : Nat) : Nat := bitsOf r 32 19
def gTol (r : Nat) : Nat := bitsOf r 64 16
def gCad (r : Nat) : Nat := bitsOf r 96 4
def gHold (r : Nat) : Nat := bitsOf r 100 4
def gCorr (r : Nat) : Nat := bitsOf r 104 8
def gValid (r : Nat) : Bool := bit r 127
def gFoff (r : Nat) : Nat := bitsOf r 128 24
def gArea (r : Nat) : Nat := bitsOf r 160 19
def gPhBase (r : Nat) : Nat := bitsOf r 192 18
def gPhCount (r : Nat) : Nat := bitsOf r 224 19
def gScBase (r : Nat) : Nat := bitsOf r 256 20
def gScCount (r : Nat) : Nat := bitsOf r 288 20
def gResTag (r : Nat) : Nat := bitsOf r 320 14
def gResValid (r : Nat) : Bool := bit r 351

/-- The reserved bits of a group record are clear. -/
def gReservedOk (r : Nat) : Bool :=
  bitsOf r 51 13 == 0 && bitsOf r 80 16 == 0 && bitsOf r 112 15 == 0 && bitsOf r 152 8 == 0 && bitsOf r 179 13 == 0 &&
    bitsOf r 210 14 == 0 && bitsOf r 243 13 == 0 && bitsOf r 276 12 == 0 && bitsOf r 308 12 == 0 && bitsOf r 334 17 == 0 &&
    r / 2 ^ 352 == 0

/-- The snapshot period in ns, and the largest lag of a deadline behind its snapshot time in ns. -/
def gPerNs (r : Nat) : Nat := max (gPeriod r) 1 * 1000
def gWaitNs (r : Nat) : Nat := gWait r * 1000

/-- Snapshots in the open window (R305). -/
def gWindow (r : Nat) : Nat := ceilDiv (gWait r + gTol r) (max (gPeriod r) 1) + 1

/-- The stream map record of a stream table entry (R304). -/
def State.mapRec (s : State) (c : Crown) (i : Nat) : Nat := s.tbl 11 (fusDie c) 0 0 0 i
def mGroup (r : Nat) : Nat := bitsOf r 0 4
def mValid (r : Nat) : Bool := bit r 4
def mScFirst (r : Nat) : Nat := bitsOf r 32 20

/-- The reserved bits of a stream map record are clear. -/
def mReservedOk (r : Nat) : Bool := bitsOf r 5 27 == 0 && bitsOf r 52 12 == 0

/-- Count one more in a counter of a stream map record: 0 LATE, 1 EARLY, 2 OFFGRID, 3 DUP. -/
def State.mapCount (s : State) (c : Crown) (i k n : Nat) : State :=
  let r := s.mapRec c i
  let v := bitsOf r (64 + 16 * k) 16
  s.setTbl 11 (fusDie c) 0 0 0 i (r + (min (v + n) 65535 - v) * 2 ^ (64 + 16 * k))

/-- Fields of a stream table entry (R279). -/
def sIdcode (r : Nat) : Nat := bitsOf r 0 16
def sTmf (r : Nat) : Bool := bit r 16
def sPorts (r : Nat) : Nat := bitsOf r 17 4
def sSource (r : Nat) : Nat := bitsOf r 32 32
def sUdp (r : Nat) : Nat := bitsOf r 64 16
def sPhn (r : Nat) : Nat := bitsOf r 80 7
def sAnn (r : Nat) : Nat := bitsOf r 87 5
def sDgn (r : Nat) : Nat := bitsOf r 92 3
def sChans (r : Nat) : Nat := bitsOf r 80 16
def sFirst (r : Nat) : Nat := bitsOf r 96 20
def sRate (r : Nat) : Nat := bitsOf r 120 8

/-- The indices at which a table of a die holds a record. -/
def State.tblIdx (s : State) (space d : Nat) : List Nat :=
  (s.tables.filter fun p => decide (tblKey space d 0 0 0 0 ≤ p.1 ∧ p.1 < tblKey space d 0 0 1 0)).map fun p => p.1 % 131072

/-- The channels of a stream, as ranges (R301). -/
def State.streamChans (s : State) (c : Crown) (i : Nat) : List (Nat × Nat) :=
  let r := s.streamEnt c i
  if sTmf r then [(sFirst r, sChans r)]
  else [(sFirst r, sPhn r), (mScFirst (s.mapRec c i), 2 + sAnn r + sDgn r)]

/-- The streams of a group on a Crown die. -/
def State.groupStreams (s : State) (c : Crown) (g : Nat) : List Nat :=
  (s.tblIdx 11 (fusDie c)).filter fun i => mValid (s.mapRec c i) && mGroup (s.mapRec c i) == g

/-- A stream has arrived for a snapshot (R307). -/
def State.arrived (s : State) (c : Crown) (x : Snap) (i : Nat) : Bool :=
  (s.streamChans c i).all fun p => (List.range p.2).all fun j => Tab.get 0 x.vals (p.1 + j) != 0

/-! ### State of the front end -/

/-- The fusion front end of a Crown die. -/
def State.fusion (s : State) (c : Crown) : FusSt := Tab.get {} s.fus c.val

/-- The state with another content of it. -/
def State.setFusion (s : State) (c : Crown) (f : FusSt) : State := { s with fus := Tab.set {} s.fus c.val f }

/-- A group of a Crown die. -/
def State.grp (s : State) (c : Crown) (g : Nat) : GrpSt := Tab.get {} (s.fusion c).groups g

/-- The state with another content of it. -/
def State.setGrp (s : State) (c : Crown) (g : Nat) (x : GrpSt) : State :=
  let f := s.fusion c
  s.setFusion c { f with groups := Tab.set {} f.groups g x }

/-- A parameter in effect: the register with `EXPERT`, else the default (R326, R327). -/
def State.fusPar (s : State) (c : Crown) (f : Fld) : Nat :=
  if s.isF (.cr c) .fus 0 Reg.FUS_CTL_EXPERT then s.getF (.cr c) .fus 0 f else f.reset

/-- The profile of a front end. -/
def State.fusProfile (s : State) (c : Crown) : Nat := s.getF (.cr c) .fus 0 Reg.FUS_CTL_PROFILE

/-- A group's front end works: the function is enabled and the group in use. -/
def State.grpOn (s : State) (c : Crown) (g : Nat) : Bool :=
  s.hasDie (.cr c) && s.powered (.cr c) .fus && s.enabled .fus (.cr c) && gValid (s.grpRec c g)

/-- The first beat at which the deadline of snapshot *k* is reached (R307). -/
def State.deadline (s : State) (c : Crown) (r : Nat) (k : Int) : Nat :=
  beatOfTai (s.mapOf (.cr c)) (k * gPerNs r + gWaitNs r).toNat

/-! ### Alignment (R305 to R307) -/

/-- Put values on a snapshot: per channel, value and flag; a channel that holds a value keeps it. The number of later
values. -/
def Snap.put (x : Snap) (chans : List (Nat × Nat × Nat)) : Nat × Snap :=
  chans.foldl (fun a p =>
    if Tab.get 0 a.2.vals p.1 != 0 then (a.1 + 1, a.2)
    else (a.1, { a.2 with vals := Tab.set 0 a.2.vals p.1 (p.2.1 + 1), flags := Tab.set 0 a.2.flags p.1 p.2.2 })) (0, x)

/-- A snapshot with the frames that came late put on too, oldest first. -/
def Snap.withTail (x : Snap) (l : List (Nat × List (Nat × Nat × Nat))) : Snap :=
  { l.reverse.foldl (fun y f => (y.put f.2).2) x with tail := [] }

/-- Close a snapshot whose streams have all arrived (R307). -/
def State.closeIfComplete (s : State) (c : Crown) (g : Nat) (x : Snap) : Bool :=
  x.cause == 0 && (s.groupStreams c g).all (s.arrived c x)

/-- Channels of an accepted frame reach the fusion front end: stream, measurement time in ns, and per channel a value and a
flag (R280, R305, R306, R307). The frame's arrival is the present beat: one on the deadline or later is kept apart, and belongs to the
snapshot only where with it every stream has arrived before the close (log entry 52, DEDUCED). -/
def State.place (s : State) (c : Crown) (i : Nat) (m : Int) (chans : List (Nat × Nat × Nat)) : State :=
  let mr := s.mapRec c i
  let g := mGroup mr
  if !mValid mr || !s.grpOn c g then s
  else
    let r := s.grpRec c g
    let per : Int := gPerNs r
    let k := (2 * m + per) / (2 * per)
    let x := s.grp c g
    if (gTol r * 1000 : Int) < (m - k * per).natAbs then s.mapCount c i 2 1
    else if x.last.any (fun l => decide (k ≤ l)) then s.mapCount c i 0 1
    else if x.last.any (fun l => decide (l + gWindow r < k)) then s.mapCount c i 1 1
    else
      let snap := (x.snaps.find? fun y => y.k == k).getD { k := k }
      let rest := x.snaps.filter fun y => y.k != k
      let late := decide (s.deadline c r k ≤ s.beat (.cr c))
      let full := snap.withTail ((i, chans) :: snap.tail)
      if late && !(s.closeIfComplete c g full && decide (s.beat (.cr c) < s.deadline c r k + 256)) then
        let dup := (chans.filter fun p => Tab.get 0 snap.vals p.1 != 0).length
        let y := if dup == chans.length then snap else { snap with tail := (i, chans) :: snap.tail }
        (s.setGrp c g { x with snaps := y :: rest }).mapCount c i 3 dup
      else
        let (dup, z) := snap.put chans
        let y := if late then full else z
        let done := s.closeIfComplete c g y
        let s1 := (s.setGrp c g { x with snaps := (if done then { y with cause := 1 } else y) :: rest }).mapCount c i 3 dup
        if done then s1.bumpF (.cr c) .fus 0 Reg.FUS_GRP_STALE_COMPLETE (0x10 * g) else s1

/-- `SNAPSHOT_LIMIT_CLOSE` (R307): 256 beats after its deadline, an open snapshot closes with cause LIMIT. -/
def execSnapshotLimitClose (c : Crown) (g : Fin 16) (s : State) : Host.Outcome State Fault Refusal :=
  if !s.grpOn c g then .next s
  else
    let r := s.grpRec c g
    let x := s.grp c g
    let shut (y : Snap) : Snap :=
      if y.cause == 0 && decide (s.deadline c r y.k + 256 ≤ s.beat (.cr c)) then { y with cause := 2 } else y
    .next (s.setGrp c g { x with snaps := x.snaps.map shut })

/-! ### Coefficients (R310, R317, R318) -/

/-- The coefficient record of a phasor channel. -/
def State.coef (s : State) (c : Crown) (ch : Nat) : Nat := s.tbl 12 (fusDie c) 0 0 (ch / 131072) (ch % 131072)
def cR (r : Nat) : Nat := bitsOf r 0 32
def cTh (r : Nat) : Nat := bitsOf r 32 32
def cRms (r : Nat) : Nat := bitsOf r 64 32
def cFrozen (r : Nat) : Bool := bit r 96
def cCount (r : Nat) : Nat := bitsOf r 104 24

/-- A coefficient record from its parts. -/
def mkCoef (r th rms : Nat) (frozen : Bool) (count : Nat) : Nat :=
  r % 2 ^ 32 + th % 2 ^ 32 * 2 ^ 32 + rms % 2 ^ 32 * 2 ^ 64 + b2n frozen * 2 ^ 96 + min count (2 ^ 24 - 1) * 2 ^ 104

/-- Write a coefficient record; what it was on the beat before is kept, and `FUS.COUNT.FROZEN` follows. -/
def State.setCoef (s : State) (c : Crown) (ch v : Nat) (commit : Bool) : State :=
  let f := s.fusion c
  let b := s.beat (.cr c)
  let old := s.coef c ch
  let f1 := if f.wasBeat == b then f else { f with was := [], wasBeat := b, wrote := [], gainWas := [] }
  let f2 := { f1 with was := if Tab.get 0 f1.was ch == 0 then Tab.set 0 f1.was ch (old + 1) else f1.was,
                      wrote := if commit then ch :: f1.wrote else f1.wrote }
  let n := s.getF (.cr c) .fus 0 Reg.FUS_COUNT_FROZEN
  ((s.setFusion c f2).setTbl 12 (fusDie c) 0 0 (ch / 131072) (ch % 131072) v).setF (.cr c) .fus 0 Reg.FUS_COUNT_FROZEN
    (n + b2n (cFrozen v) - b2n (cFrozen old))

/-- The coefficient record as it stood at the end of the beat before. -/
def State.coefBefore (s : State) (c : Crown) (ch : Nat) : Nat :=
  let f := s.fusion c
  if f.wasBeat == s.beat (.cr c) && Tab.get 0 f.was ch != 0 then Tab.get 0 f.was ch - 1 else s.coef c ch

/-! ### Selection and release (R308 to R312) -/

/-- The phasor and the scalar of a channel in a snapshot; none where it is missing. -/
def Snap.val (x : Snap) (ch : Nat) : Option Nat := let v := Tab.get 0 x.vals ch; if v == 0 then none else some (v - 1)
def Snap.phasor (x : Snap) (ch : Nat) : Option (Nat × Nat) := (x.val ch).map fun v => (v % 2 ^ 32, v / 2 ^ 32 % 2 ^ 32)

/-- The flag byte of a channel (R306). -/
def Snap.flag (x : Snap) (ch : Nat) : Nat := Tab.get 0 x.flags ch + if (x.val ch).isSome then 0 else 1

/-- The owned channels of a group record. -/
def gPhasors (r : Nat) : List Nat := (List.range (gPhCount r)).map (gPhBase r + ·)
def gScalars (r : Nat) : List Nat := (List.range (gScCount r)).map (gScBase r + ·)

/-- Where a release area begins, and its sections. -/
def gPa (c : Crown) (r : Nat) : Nat := chipPa (.cr c) (64 * gArea r)
def up64 (n : Nat) : Nat := ceilDiv n 64 * 64
def gScOff (r : Nat) : Nat := 64 + up64 (8 * gPhCount r)
def gFlagOff (r : Nat) : Nat := gScOff r + up64 (4 * gScCount r)
def gAreaBytes (r : Nat) : Nat := gFlagOff r + up64 (gPhCount r + gScCount r)

/-- The corrected sections of a release area: phasors times their coefficients, scalars, flags (R310, R311). -/
def State.correct (s : State) (c : Crown) (r : Nat) (x : Snap) : State :=
  let ph := (gPhasors r).map fun ch =>
    match x.phasor ch with
    | some z => let k := s.coefBefore c ch; let v := cMul z (cPolar (cR k) (cTh k)); leBytes 4 v.1 ++ leBytes 4 v.2
    | none => leBytes 4 fpNan ++ leBytes 4 fpNan
  let sc := (gScalars r).map fun ch => leBytes 4 ((x.val ch).getD fpNan)
  let fl := (gPhasors r).map (fun ch => (BitVec.ofNat 8 (x.flag ch + 32 * b2n (cFrozen (s.coefBefore c ch))) : Byte)) ++
    (gScalars r).map fun ch => (BitVec.ofNat 8 (x.flag ch) : Byte)
  let pa := gPa c r
  ((s.localWrite (.cr c) (pa + 64) ph.flatten false).localWrite (.cr c) (pa + gScOff r) sc.flatten false).localWrite (.cr c)
    (pa + gFlagOff r) fl false

/-- `SNAPSHOT_SELECT` (R309, R310, R312): at its selection beat a group selects the newest snapshot whose deadline passed
256 beats ago, or repeats; older ones are discarded. -/
def execSnapshotSelect (c : Crown) (g : Fin 16) (s : State) : Host.Outcome State Fault Refusal :=
  let d : Die := .cr c
  let r := s.grpRec c g
  let rf := s.frame d + gCorr r
  if !s.grpOn c g || !s.atFrame d || phaseOf (s.cadence d (s.bank d) (gCad r)) rf != gFoff r || s.beat d < 256 then .next s
  else
    let x := s.grp c g
    let k : Int := ((taiAt (s.mapOf d) (s.beat d - 256) : Int) - gWaitNs r) / gPerNs r
    let rb := rf * frameBeats
    if x.last.any (fun l => decide (k ≤ l)) then
      match x.cur with
      | some y => .next (s.setGrp c g { x with sel := some (rb, y, true, false) })
      | none => .next s
    else
      let skip := match x.last with
        | some l => (k - l - 1).toNat
        | none => (x.snaps.filter fun z => decide (z.k < k)).length
      let y0 := (x.snaps.find? fun y => y.k == k).getD { k := k }
      let y := if y0.cause == 0 then { y0 with cause := 2 } else y0
      let gone := x.snaps.filter fun z => decide (z.k ≤ k)
      let s1 := s.setGrp c g { x with snaps := x.snaps.filter (fun z => decide (k < z.k)), last := some k, cur := some y,
                                      held := (y :: x.held).take (gHold r), sel := some (rb, y, false, skip != 0) }
      let s2 := gone.foldl (fun t z => z.tail.foldl (fun u f => u.mapCount c f.1 0 1) t) s1
      let s3 := (s2.addF d .fus 0 Reg.FUS_GRP_SKIP_SKIP skip (0x10 * g)).setF d .fus 0 Reg.FUS_GRP_LAST_K_LAST_K
        (unsigned 32 k) (0x10 * g)
      .next (s3.correct c r y)

/-- `SNAPSHOT_RELEASE` (R308, R310, R311): at the release beat the header is complete, and missing streams are logged. -/
def execSnapshotRelease (c : Crown) (g : Fin 16) (s : State) : Host.Outcome State Fault Refusal :=
  let d : Die := .cr c
  let x := s.grp c g
  match x.sel with
  | none => .next s
  | some (rb, y, rep, skip) =>
    if rb != s.beat d || !s.grpOn c g then .next s
    else
      let r := s.grpRec c g
      let all := gPhasors r ++ gScalars r
      let missCh := (all.filter fun ch => (y.val ch).isNone).length
      let miss := (s.groupStreams c g).filter fun i => !s.arrived c y i
      let inval := (all.filter fun ch => bit (y.flag ch) 1).length
      let head := leBytes 8 (unsigned 64 (y.k * gPerNs r)) ++ leBytes 8 (unsigned 64 y.k) ++ leBytes 8 rb ++
        [BitVec.ofNat 8 y.cause, BitVec.ofNat 8 (b2n rep + 2 * b2n skip)] ++ leBytes 2 g.val ++ leBytes 4 missCh ++
        leBytes 4 miss.length ++ leBytes 4 inval ++ List.replicate 24 0
      let s1 := (s.setGrp c g { x with sel := none }).localWrite d (gPa c r) head false
      let s2 := s1.setF d .fus 0 Reg.FUS_GRP_MISSING_MISSING missCh (0x10 * g)
      let s3 := if rep then s2.bumpF d .fus 0 Reg.FUS_GRP_SKIP_REPEAT (0x10 * g) else s2
      match miss with
      | [] => .next s3
      | i :: t => .next (s3.log d .fus 0 0x6001 (leBytes 4 miss.length ++ leBytes 4 missCh ++ leBytes 2 (t.foldl min i) ++
          leBytes 6 (unsigned 48 y.k)))

/-! ### Calibration refinement (R315 to R318) -/

/-- A transfer of a Crown die has landed, and its area. -/
def landKey (c : Crown) (tag : Nat) : Nat := 2 ^ 14 * fusDie c + tag
def State.hasLanded (s : State) (c : Crown) (tag : Nat) : Bool :=
  let b := Tab.get 0 s.landed (landKey c tag)
  b != 0 && decide (b ≤ s.beat (.cr c))
def State.clearLanded (s : State) (c : Crown) (tag : Nat) : State :=
  { s with landed := Tab.set 0 s.landed (landKey c tag) 0 }
def State.landArea (s : State) (c : Crown) (tag : Nat) : Nat := xferBase (s.transfer (.cr c) (s.bank (.cr c)) tag)

/-- The gain state and rms² of a channel; before its first update the gain state is `P0`. -/
def State.gainOf (s : State) (c : Crown) (ch : Nat) : Nat × Nat :=
  let p := Tab.get (0, 0) (s.fusion c).gain ch
  if p == (0, 0) then (s.fusPar c Reg.FUS_PAR_P0, 0) else p

/-- One channel of a batch (R316): c*, the gain state and rms², or nothing where the channel is skipped. -/
def State.batchOne (s : State) (c : Crown) (x : Snap) (rec ch k : Nat) : Option (Nat × Nat × Nat × Nat) :=
  let y := (s.rd32 rec, s.rd32 (rec + 4))
  let cf := s.coef c ch
  let fl := x.flag ch
  let z := (x.phasor ch).getD (0, 0)
  if s.rd32 (rec + 12) % 2 == 0 || s.rd32 (rec + 8) != k % 2 ^ 32 || fl % 8 != 0 || cFrozen cf ||
      (fpIsZero z.1 && fpIsZero z.2) || (fpIsZero y.1 && fpIsZero y.2) then none
  else
    let (p, rms) := s.gainOf c ch
    let lam := s.fusPar c Reg.FUS_PAR_LAMBDA
    let bet := s.fusPar c Reg.FUS_PAR_BETA
    let co := cPolar (cR cf) (cTh cf)
    let a := cAbs z
    let u := cOver z a
    let w := cOver y a
    let e := cSub w (cMul co u)
    let g := fpDiv p (fpAdd lam p)
    let cs := cAdd co (cMul (cScale g (cConj u)) e)
    let rms1 := fpAdd (fpMul bet rms) (fpDiv (fpMul (fpSub fpOne bet) (cSq e)) (cSq w))
    some (cs.1, cs.2, g, rms1)

/-- `RESIDUAL_BATCH_START` (R315, R316, R318): at the frame boundary after a group's residuals have landed, a batch starts
if the raw snapshot is still held, and else is discarded and counted. -/
def execResidualBatchStart (c : Crown) (g : Fin 16) (s : State) : Host.Outcome State Fault Refusal :=
  let d : Die := .cr c
  let r := s.grpRec c g
  let tag := gResTag r
  let x := s.grp c g
  if !s.grpOn c g || !s.atFrame d || !gResValid r || s.fusProfile c != 0 || x.batch.isSome || !s.hasLanded c tag then .next s
  else
    let area := s.landArea c tag
    let kn := leNat (s.rdBytes area 8)
    let s1 := s.clearLanded c tag
    match x.held.find? fun y => y.k == signed 64 kn with
    | none => .next (s1.bumpF d .fus 0 Reg.FUS_GRP_STALE_RES_STALE (0x10 * g))
    | some y =>
      let upd := (List.range (gPhCount r)).foldl (fun t j =>
        match s.batchOne c y (area + 64 + 16 * j) (gPhBase r + j) kn with
        | some v => Tab.insert t (gPhBase r + j) v
        | none => t) ([] : Tab (Nat × Nat × Nat × Nat))
      let b : BatchSt := ⟨y.k, boundaryAtOrAfter frameBeats (s.beat d + ceilDiv (gPhCount r) 16), upd⟩
      .next (s1.setGrp c g { x with batch := some b })

/-- An angle difference brought into (−π, π]. -/
def wrapPi (a : Nat) : Nat := if fpLt fpPi a then fpSub a fpTwoPi else if fpLe a (fpNeg fpPi) then fpAdd a fpTwoPi else a

/-- A channel's gain state becomes `P0`; rms² is as given. -/
def State.gainReset (s : State) (c : Crown) (ch rms : Nat) : State :=
  let f := s.fusion c
  s.setFusion c { f with gain := Tab.set (0, 0) f.gain ch (s.fusPar c Reg.FUS_PAR_P0, rms) }

/-- Write one channel's c* back (R317): rate limits, bounds, and freezing with RC 0x6002. A channel that a commit has written on
this beat keeps what was written, and its gain state becomes `P0` (R318). -/
def State.applyOne (s : State) (c : Crown) (ch : Nat) (v : Nat × Nat × Nat × Nat) : State :=
  let f0 := s.fusion c
  let old := s.gainOf c ch
  if f0.wasBeat == s.beat (.cr c) && decide (ch ∈ f0.wrote) then s.gainReset c ch old.2
  else
    let cf := s.coef c ch
    let rm := s.fusPar c Reg.FUS_PAR_RATE_MAG
    let rp := s.fusPar c Reg.FUS_PAR_RATE_PH
    let bm := s.fusPar c Reg.FUS_PAR_B_MAG
    let bp := s.fusPar c Reg.FUS_PAR_B_PH
    let r1 := fpAdd (cR cf) (fpClamp (fpNeg rm) rm (fpSub (cAbs (v.1, v.2.1)) (cR cf)))
    let t1 := fpAdd (cTh cf) (fpClamp (fpNeg rp) rp (wrapPi (fpSub (fpAngle v.1 v.2.1) (cTh cf))))
    let lo := fpSub fpOne bm
    let hi := fpAdd fpOne bm
    let out := fpLt r1 lo || fpLt hi r1 || fpLt bp (fpAbs t1)
    let rec_ := mkCoef (fpClamp lo hi r1) (fpClamp (fpNeg bp) bp t1) (fpSqrt v.2.2.2) out (cCount cf + 1)
    let s1 := s.setCoef c ch rec_ false
    let f := s1.fusion c
    let s2 := s1.setFusion c { f with gain := Tab.set (0, 0) f.gain ch (v.2.2.1, v.2.2.2),
                                      gainWas := Tab.set (0, 0) f.gainWas ch (old.1 + 1, old.2) }
    if out then s2.log (.cr c) .fus 0 0x6002 (leBytes 4 ch) else s2

/-- `CALIB_BATCH_APPLY` (R317, R318): at the first frame boundary after a batch ends its updates take effect together. -/
def execCalibBatchApply (c : Crown) (g : Fin 16) (s : State) : Host.Outcome State Fault Refusal :=
  let x := s.grp c g
  match x.batch with
  | none => .next s
  | some b =>
    if s.beat (.cr c) < b.at_ || !s.atFrame (.cr c) then .next s
    else .next (b.upd.foldl (fun t p => t.applyOne c p.1 p.2) (s.setGrp c g { x with batch := none }))

/-! ### Mode tracking (R319 to R324) -/

/-- A candidate mode: f, ζ, σ_f, σ_ζ and its shape, eight FP32 numbers. -/
structure Cand where
  f : Nat
  z : Nat
  sf : Nat
  sz : Nat
  shape : List Nat
  deriving DecidableEq, Repr

/-- The candidates of a set in memory (R319). -/
def State.cands (s : State) (area n : Nat) : List Cand :=
  (List.range n).map fun i =>
    let w (j : Nat) : Nat := s.rd32 (area + 64 + 64 * i + 4 * j)
    ⟨w 0, w 1, w 2, w 3, (List.range 8).map fun j => w (4 + j)⟩

/-- A shape as complex numbers; the inner product ⟨a, b⟩ and the squared norm. -/
def cplxs : List Nat → List (Nat × Nat)
  | a :: b :: t => (a, b) :: cplxs t
  | _ => []
def inner (a b : List Nat) : Nat × Nat :=
  (List.zip (cplxs a) (cplxs b)).foldl (fun t p => cAdd t (cMul (cConj p.1) p.2)) (0, 0)
def norm2 (a : List Nat) : Nat := (cplxs a).foldl (fun t z => fpAdd t (cSq z)) 0

/-- A covariance of two components as its three numbers, after dt with process noise q (R322). -/
def predictCov (q dt : Nat) (p : List Nat) : List Nat :=
  let (a, b, c) := (p.getD 0 0, p.getD 1 0, p.getD 2 0)
  let dt2 := fpMul dt dt
  [fpAdd (fpAdd (fpAdd a (fpMul 0x40000000 (fpMul dt b))) (fpMul dt2 c)) (fpMul q (fpDiv (fpMul dt2 dt) 0x40400000)),
   fpAdd (fpAdd b (fpMul dt c)) (fpMul q (fpDiv dt2 0x40000000)), fpAdd c (fpMul q dt)]

/-- Predict a track over dt (R322). -/
def Track.predict (t : Track) (qf qz dt : Nat) : Track :=
  let x (i : Nat) : Nat := t.x.getD i 0
  { t with x := [fpAdd (x 0) (fpMul dt (x 2)), fpAdd (x 1) (fpMul dt (x 3)), x 2, x 3],
           pf := predictCov qf dt t.pf, pz := predictCov qz dt t.pz }

/-- The Kalman update of one component and its rate: new values and covariance. -/
def updateOne (z var x v : Nat) (p : List Nat) : Nat × Nat × List Nat :=
  let (a, b, c) := (p.getD 0 0, p.getD 1 0, p.getD 2 0)
  let sInv := fpAdd a var
  let k1 := fpDiv a sInv
  let k2 := fpDiv b sInv
  let y := fpSub z x
  (fpAdd x (fpMul k1 y), fpAdd v (fpMul k2 y), [fpSub a (fpMul k1 a), fpSub b (fpMul k1 b), fpSub c (fpMul k2 b)])

/-- Update a track with its candidate; its shape moves by a tenth (R322). -/
def Track.update (t : Track) (m : Cand) : Track :=
  let (f, fd, pf) := updateOne m.f (fpMul m.sf m.sf) (t.x.getD 0 0) (t.x.getD 2 0) t.pf
  let (z, zd, pz) := updateOne m.z (fpMul m.sz m.sz) (t.x.getD 1 0) (t.x.getD 3 0) t.pz
  { t with x := [f, z, fd, zd], pf := pf, pz := pz,
           shape := (List.zip t.shape m.shape).map fun p => fpAdd (fpMul 0x3F666666 p.1) (fpMul 0x3DCCCCCD p.2) }

/-- The cost of a candidate against a predicted track (R320). -/
def costOf (ws : Nat) (m : Cand) (t : Track) : Nat :=
  let df := fpSub m.f (t.x.getD 0 0)
  let dz := fpSub m.z (t.x.getD 1 0)
  let mac := fpDiv (cSq (inner m.shape t.shape)) (fpMul (norm2 m.shape) (norm2 t.shape))
  fpAdd (fpAdd (fpDiv (fpMul df df) (fpAdd (fpMul m.sf m.sf) (t.pf.getD 0 0)))
    (fpDiv (fpMul dz dz) (fpAdd (fpMul m.sz m.sz) (t.pz.getD 0 0)))) (fpMul ws (fpSub fpOne mac))

/-- The best and the second-best net benefit of a candidate, over (track, net benefit), the lower track winning a tie. -/
def bestTwo (l : List (Nat × Nat)) : Option (Nat × Nat × Nat) :=
  l.foldl (fun a p => match a with
    | none => some (p.1, p.2, 0)
    | some (j, b, b2) => if fpLt b p.2 then some (p.1, p.2, b) else some (j, b, if fpLt b2 p.2 then p.2 else b2)) none

/-- The auction (R321): `wait` are the candidates that bid, lowest index first; prices by track; the candidate that holds
each track, plus one. Where a bidder has one choice only, its second-best is to leave, with benefit zero (log entry 23, DEDUCED). -/
def auction (ben : Nat → List (Nat × Nat)) (eps : Nat) : Nat → List Nat → Tab Nat → Tab Nat → Tab Nat
  | 0, _, _, own => own
  | _, [], _, own => own
  | n + 1, i :: wait, price, own =>
    let net := (ben i).filterMap fun p =>
      let v := fpSub p.2 (Tab.get 0 price p.1)
      if fpLe 0 v then some (p.1, v) else none
    match bestTwo net with
    | none => auction ben eps n wait price own
    | some (j, b, b2) =>
      let price1 := Tab.set 0 price j (fpAdd (Tab.get 0 price j) (fpAdd (fpSub b b2) eps))
      let old := Tab.get 0 own j
      let wait1 := if old == 0 then wait else (wait.filter fun x => decide (x < old - 1)) ++ [old - 1] ++
        wait.filter fun x => decide (old - 1 < x)
      auction ben eps n wait1 price1 (Tab.set 0 own j (i + 1))

/-- The lifecycle of a track that took part, with its candidate if it got one (R323). -/
def Track.live (t : Track) (confirm coast : Nat) (m : Option Cand) : Track :=
  match m with
  | some k =>
    let u := t.update k
    match t.state with
    | 1 => { u with hits := t.hits + 1, state := if confirm ≤ t.hits + 1 then 2 else 1 }
    | 3 => { u with misses := 0, state := 2 }
    | _ => u
  | none =>
    match t.state with
    | 1 => { t with state := 4 }
    | 2 => { t with state := 3, misses := 1 }
    | 3 => if t.misses + 1 < coast then { t with misses := t.misses + 1 } else { t with state := 4, misses := t.misses + 1 }
    | _ => t

/-- Open tracks for the unassigned candidates, in order, each in the lowest free slot; the candidates without one (R323). -/
def openTracks (prf prz : Nat) : List Cand → Tab Track → Nat → Nat → Tab Track × Nat × Nat
  | [], tr, id, full => (tr, id, full)
  | m :: rest, tr, id, full =>
    match (List.range 256).find? fun j => (Tab.get {} tr j).state == 0 with
    | none => openTracks prf prz rest tr id (full + 1)
    | some j =>
      let t : Track := ⟨1, 1, 0, id, [m.f, m.z, 0, 0], [fpMul m.sf m.sf, 0, prf], [fpMul m.sz m.sz, 0, prz], m.shape⟩
      openTracks prf prz rest (Tab.set {} tr j t) ((id + 1) % 65536) full

/-- The tracks before a set is assigned: dropped ones are freed; after more than 60 s every other one is dropped, else it is
predicted (R319, R322, R323). -/
def readyTracks (tr : Tab Track) (late : Bool) (qf qz dt : Nat) : Tab Track :=
  tr.filterMap fun p =>
    if p.2.state == 4 then none
    else some (p.1, if late then { p.2 with state := 4 } else p.2.predict qf qz dt)

/-- `MODE_SET_PROCESS` (R319 to R324): at the frame boundary after a candidate set has landed it is processed. -/
def execModeSetProcess (c : Crown) (s : State) : Host.Outcome State Fault Refusal :=
  let d : Die := .cr c
  let tag := s.getF d .fus 0 Reg.FUS_MODE_CFG2_MODE_TAG
  let on := s.hasDie d && s.powered d .fus && s.enabled .fus d && s.isF d .fus 0 Reg.FUS_MODE_CFG2_MODE_VALID &&
    decide (s.fusProfile c < 2)
  if !on || !s.atFrame d || !s.hasLanded c tag then .next s
  else
    let area := s.landArea c tag
    let time := signed 64 (leNat (s.rdBytes area 8))
    let s1 := s.clearLanded c tag
    let f := s.fusion c
    if f.modeTime.any (fun t => decide (time ≤ t)) then .next (s1.bumpF d .fus 0 Reg.FUS_COUNT_MODE_BAD)
    else
      let par (x : Fld) : Nat := s.fusPar c x
      let gap := match f.modeTime with
        | some t => time - t
        | none => 0
      let tr := readyTracks f.tracks (decide (60000000000 < gap)) (par Reg.FUS_PAR_Q_F) (par Reg.FUS_PAR_Q_Z) (fpOfRat gap 1000000000)
      let cs := s.cands area (min (leNat (s.rdBytes (area + 8) 2)) 256)
      let gate := par Reg.FUS_PAR_GATE
      let ben (i : Nat) : List (Nat × Nat) := match cs[i]? with
        | none => []
        | some m => tr.filterMap fun p =>
          let k := costOf (par Reg.FUS_PAR_W_S) m p.2
          if p.2.state == 4 || !fpLe k gate then none else some (p.1, fpSub gate k)
      let own := auction ben (par Reg.FUS_PAR_EPS) (par Reg.FUS_MODE_CFG_ITER_MAX) (List.range cs.length) [] []
      let tr1 := tr.map fun p => (p.1, if p.2.state == 4 then p.2
        else p.2.live (par Reg.FUS_MODE_CFG_CONFIRM_N) (par Reg.FUS_MODE_CFG_COAST_N) (cs[Tab.get 0 own p.1 - 1]?.filter
          fun _ => Tab.get 0 own p.1 != 0))
      let free := (List.range cs.length).filter fun i => own.all fun p => p.2 != i + 1
      let (tr2, id, full) := openTracks (par Reg.FUS_PAR_PR_F) (par Reg.FUS_PAR_PR_Z) (free.filterMap fun i => cs[i]?) tr1
        f.nextId 0
      let at_ := s.beat d + frameBeats * ceilDiv (3072 + par Reg.FUS_MODE_CFG_ITER_MAX) 2048
      let s2 := (s1.setFusion c { f with tracks := tr2, modeTime := some time, nextId := id, pubs := f.pubs ++ [(at_, tr2)] }).addF d .fus 0
        Reg.FUS_COUNT_TRK_FULL full
      .next (if full == 0 then s2 else s2.log d .fus 0 0x6003)

/-- A track record (R324). -/
def Track.bytes (t : Track) : List Byte :=
  [BitVec.ofNat 8 t.state, BitVec.ofNat 8 (min t.hits 255), BitVec.ofNat 8 (min t.misses 255), 0] ++ leBytes 2 t.id ++ [0, 0] ++
    ((List.range 4).map fun i => leBytes 4 (t.x.getD i 0)).flatten ++ leBytes 4 (t.pf.getD 0 0) ++ leBytes 4 (t.pz.getD 0 0) ++
    ((List.range 8).map fun i => leBytes 4 (t.shape.getD i 0)).flatten

/-- The package address of a half of the track area. -/
def State.trackPa (s : State) (c : Crown) (half : Nat) : Nat :=
  chipPa (.cr c) (64 * s.getF (.cr c) .fus 0 Reg.FUS_TRK_AREA_AREA + 16384 * half)

/-- `TRACK_TABLE_PUBLISH` (R324): at its frame boundary the track table is published into the other half, which becomes
current. -/
def execTrackTablePublish (c : Crown) (s : State) : Host.Outcome State Fault Refusal :=
  let f := s.fusion c
  match f.pubs with
  | [] => .next s
  | p :: rest =>
    if s.beat (.cr c) < p.1 || !s.atFrame (.cr c) then .next s
    else
      let half := 1 - f.half
      let l := ((List.range 256).map fun j => (Tab.get {} p.2 j).bytes).flatten
      .next ((s.setFusion c { f with pubs := rest, half := half }).localWrite (.cr c) (s.trackPa c half) l false)

/-! ### The buffer budget and the table port (R303, R304, R318, R325, R505) -/

/-- The record that the fusion table port selects, and how many words it has. -/
def State.fusRec (s : State) (c : Crown) : Nat × Nat :=
  let i := s.getF (.cr c) .fus 0 Reg.FUS_TBL_INDEX_INDEX
  match s.getF (.cr c) .fus 0 Reg.FUS_TBL_SPACE_SPACE with
  | 0 => (if i < 16 then s.grpRec c i else 0, 16)
  | 1 => (if i < 8192 then s.mapRec c i else 0, 4)
  | 2 => (s.coef c i, 4)
  | _ => (if i < 256 then leNat (s.rdBytes (s.trackPa c (s.fusion c).half + 64 * i) 64) else 0, 16)

/-- The state after a read of word 0 of the fusion table port. -/
def State.fusLoad (s : State) (c : Crown) : State :=
  let (v, n) := s.fusRec c
  (List.range n).foldl (fun t i => t.setF (.cr c) .fus 0 Reg.FUS_TBL_DATA_DATA (v / 2 ^ (32 * i)) (4 * i)) s

/-- `FUS_TABLE_READ` (R303, R304, R318): a read of word 0 of the fusion table port loads the selected record. -/
def execFusTableRead (p : Path) (c : Crown) (s : State) : Host.Outcome State Fault Refusal :=
  match s.deadRead p (.cr c) .fus with
  | some a => .next (a.2.putRd p a.1)
  | none =>
    let s1 := s.fusLoad c
    .next (s1.putRd p (s1.getF (.cr c) .fus 0 Reg.FUS_TBL_DATA_DATA 0))

/-- Areas of the Crown buffer as (offset, bytes), and bytes that have no fixed place: groups (R325). -/
def grpBytes (r : Nat) : Nat :=
  (gWindow r + 1 + gHold r) * (9 * gPhCount r + 5 * gScCount r) + gAreaBytes r + (if gResValid r then 64 + 16 * gPhCount r else 0) +
    32 * gPhCount r

/-- Whether two areas overlap. -/
def overlap (a b : Nat × Nat) : Bool := decide (a.1 < b.1 + b.2 ∧ b.1 < a.1 + a.2)

/-- Whether some two areas of a list overlap. -/
def anyOverlap : List (Nat × Nat) → Bool
  | [] => false
  | a :: t => t.any (overlap a) || anyOverlap t

/-- The total of R325 in bytes for group records `gs`, and whether its placed areas overlap; `img` the landing areas of the
image on this die. An enabled tray port counts its pin buffer and its holding store (R185, R188). -/
def State.fusBudget (s : State) (c : Crown) (gs : List Nat) (trkArea : Nat) (img : List (Nat × Nat)) : Nat × Bool :=
  let on := gs.filter gValid
  let track := decide (s.fusProfile c < 2)
  let ports := (List.finRange 8).filter fun n => trayCrown n == c && s.enabled .port (.cr c) (n.val % 4)
  let store (n : Fin 8) : Nat :=
    let l := s.latL (.tray n)
    (ceilDiv (l - 678) 2048 + 1) * 66000 + (ceilDiv (2 * l + 4096) 2048 + 1) * 49500
  let areas := on.map (fun r => (64 * gArea r, gAreaBytes r)) ++ (if track then [(64 * trkArea, 32768)] else []) ++ img
  ((on.map grpBytes).sum + (if track then 32768 else 0) + (ports.map store).sum + (img.map (·.2)).sum, anyOverlap areas)

end Sys2Proof.Machine
end

