-- ==== Sys2Proof/Machine/Eth.lean ====
section
/-! DEFINITION. Ethernet frames in: the checks of a port, its replies, PTP, C37.118.2 and TMF acceptance (R277 to R291).
The message layouts of IEEE 802.3, ARP, IP, UDP, IGMP, MLD, IEEE 1588-2019 and IEEE C37.118.2-2011 come from those
standards (log entry 24, PRESUMED). -/

namespace Sys2Proof.Machine

/-! ### Reading a frame -/

/-- Big-endian field of bytes: `n` bytes from byte `o`. -/
def be (l : List Byte) (o n : Nat) : Nat := beNat ((l.drop o).take n)

/-- Byte `o`. -/
def by8 (l : List Byte) (o : Nat) : Nat := (l.getD o 0).toNat

/-- A frame as the checks of R278 take it apart: destination, VLAN ID, EtherType, payload. -/
structure EthIn where
  dst : Nat
  src : Nat
  vlan : Nat
  pcp : Nat
  etype : Nat
  data : List Byte

/-- Why a frame is dropped (R278). -/
inductive Drop where
  | err | filt | ip
  deriving DecidableEq, Repr

/-- The counter of a drop. -/
def Drop.fld : Drop → Fld
  | .err => Reg.ETHP_DROP_ERR
  | .filt => Reg.ETHP_DROP_FILT
  | .ip => Reg.ETHP_DROP_IP

/-- `MAX_FRAME` in effect (R298, R299). -/
def State.maxFrame (s : State) (c : Crown) (p : Nat) : Nat :=
  if s.ethF c p Reg.ETHP_CTL_EXPERT == 1 then s.ethF c p Reg.ETHP_CTL_MAX_FRAME else 9216

/-- The Ethernet address of an IP multicast group. -/
def groupMac (g : Nat) : Nat := if g < 2 ^ 32 then 0x01005E000000 + g % 2 ^ 23 else 0x333300000000 + g % 2 ^ 32

/-- The solicited-node group of an IPv6 address. -/
def solicited (a : Nat) : Nat := 0xFF0200000000000000000001FF000000 + a % 2 ^ 24

/-- The multicast groups a port listens to: its own, and those IPv4 and IPv6 require of every host (log entry 25, PRESUMED). -/
def State.joined (s : State) (c : Crown) (p : Nat) : List Nat :=
  let h := s.host c
  let a := Tab.get (0, 0) h.ip6 p
  Tab.get [] h.groups p ++ [0xE0000001, 0xFF020000000000000000000000000001, solicited a.1, solicited a.2]

/-- The multicast destinations of the PTP profiles of R281. -/
def ptpMacs : List Nat :=
  [0x011B19000000, 0x0180C200000E, groupMac 0xE0000181, groupMac 0xE000006B,
   groupMac 0xFF0E0000000000000000000000000181, groupMac 0xFF02000000000000000000000000006B]

/-- The checks 1 to 4 of R278. -/
def State.ethChecks (s : State) (c : Crown) (p : Nat) (f : List Byte) : Except Drop EthIn :=
  let n := f.length
  if n < 64 || s.maxFrame c p < n || leNat (f.drop (n - 4)) != crc32 (f.take (n - 4)) then .error .err
  else
    let h := s.host c
    let dst := be f 0 6
    let et := be f 12 2
    let tagged := et == 0x8100
    let inner := if tagged then be f 16 2 else et
    let untag := s.ethF c p Reg.ETHP_CTL_UNTAGGED == 1
    let known := dst == Tab.get 0 h.mac p || (dst == 2 ^ 48 - 1 && inner == 0x0806) ||
      ((s.joined c p).map groupMac).contains dst || ptpMacs.contains dst
    let vlan := be f 14 2 % 4096
    let tagOk := if untag then !tagged else tagged && (Tab.get [] h.vlans p).contains vlan && inner != 0x8100 && inner != 0x88A8
    if !known || !tagOk || !([0x0800, 0x86DD, 0x0806, 0x88F7].contains inner) then .error .filt
    else
      let k := if tagged then 18 else 14
      .ok ⟨dst, be f 6 6, vlan, be f 14 2 / 8192, inner, (f.take (n - 4)).drop k⟩

/-- An IP packet: version 6, source, destination, protocol, payload. -/
structure IpIn where
  v6 : Bool
  src : Nat
  dst : Nat
  proto : Nat
  data : List Byte

/-- Check 5 of R278. -/
def ipCheck (x : EthIn) : Option IpIn :=
  let l := x.data
  if x.etype == 0x0800 then
    let len := be l 2 2
    if by8 l 0 != 0x45 || inetSum (l.take 20) != 0 || be l 6 2 % 16384 != 0 || l.length < len || len < 20 then none
    else some ⟨false, be l 12 4, be l 16 4, by8 l 9, (l.take len).drop 20⟩
  else
    let len := be l 4 2
    let nx := by8 l 6
    if by8 l 0 / 16 != 6 || (nx != 17 && nx != 58) || l.length < 40 + len then none
    else some ⟨true, be l 8 16, be l 24 16, nx, (l.take (40 + len)).drop 40⟩

/-- Check 6 of R278. -/
def udpOk (q : IpIn) : Bool :=
  let l := q.data
  let len := be l 4 2
  let body := l.take len
  decide (8 ≤ len ∧ len ≤ l.length) &&
    (if be l 6 2 == 0 then !q.v6 else inetSum (pseudo q.v6 q.src q.dst len 17 ++ body) == 0)

/-! ### Replies (R277) -/

/-- Answer an ARP request for the port's IPv4 address. -/
def State.takeArp (s : State) (c : Crown) (p : Nat) (x : EthIn) : State :=
  let l := x.data
  let h := s.host c
  let me := Tab.get 0 h.ip4 p
  if be l 0 2 == 1 && be l 2 2 == 0x0800 && be l 6 2 == 1 && be l 24 4 == me then
    s.ethSend c p (s.ethHeader c p (be l 8 6) x.vlan x.pcp 0x0806 ++ beBytes 2 1 ++ beBytes 2 0x0800 ++ [6, 4] ++ beBytes 2 2 ++
      beBytes 6 (Tab.get 0 h.mac p) ++ beBytes 4 me ++ beBytes 6 (be l 8 6) ++ beBytes 4 (be l 14 4))
  else s

/-- An ICMPv6 message with its checksum. -/
def icmp6 (src dst : Nat) (head body : List Byte) : List Byte :=
  let n := head.length + 2 + body.length
  head ++ beBytes 2 (inetSum (pseudo true src dst n 58 ++ head ++ [0, 0] ++ body)) ++ body

/-- The membership reports on one VLAN for those of a port's groups that are asked for (IGMPv3, MLDv2); the identification of the
IPv4 header is a free value. -/
def State.sendReports (s : State) (c : Crown) (p vlan : Nat) (asked : Nat → Bool) : State :=
  let h := s.host c
  let g4 := (Tab.get [] h.groups p).filter fun g => decide (g < 2 ^ 32) && asked g
  let g6 := (Tab.get [] h.groups p).filter fun g => decide (2 ^ 32 ≤ g) && asked g
  let s1 := if g4 == [] then s
    else
      let recs := (g4.map fun g => [4, 0, 0, 0] ++ beBytes 4 g).flatten
      let a : List Byte := [0x22, 0]
      let b := [0, 0] ++ beBytes 2 g4.length ++ recs
      let igmp := a ++ beBytes 2 (inetSum (a ++ [0, 0] ++ b)) ++ b
      let (ident, t) := s.draw 16
      let ip := ip4Header igmp.length ident 1 2 48 (Tab.get 0 h.ip4 p) 0xE0000016 [0x94, 4, 0, 0]
      t.ethSend c p (s.ethHeader c p (groupMac 0xE0000016) vlan 0 0x0800 ++ ip ++ igmp)
  if g6 == [] then s1
  else
    let src := (Tab.get (0, 0) h.ip6 p).2
    let dst := 0xFF020000000000000000000000000016
    let recs := (g6.map fun g => [4, 0, 0, 0] ++ beBytes 16 g).flatten
    let m := icmp6 src dst [143, 0] ([0, 0] ++ beBytes 2 g6.length ++ recs)
    let hop : List Byte := [58, 0, 5, 2, 0, 0, 1, 0]
    s1.ethSend c p (s.ethHeader c p (groupMac dst) vlan 0 0x86DD ++ ip6Header (8 + m.length) 0 1 0 src dst ++ hop ++ m)

/-- The reports that a port sends when it is enabled, on each of its VLANs (log entry 58, DEDUCED). -/
def State.reportAll (s : State) (c : Crown) (p : Nat) : State :=
  let all (_ : Nat) : Bool := true
  if s.ethF c p Reg.ETHP_CTL_UNTAGGED == 1 then s.sendReports c p 0 all
  else (Tab.get [] (s.host c).vlans p).foldl (fun t v => t.sendReports c p v all) s

/-- The groups that a query for one group, or for all (group 0), of IPv4 or IPv6 asks for. -/
def queried (v6 : Bool) (g x : Nat) : Bool := decide (v6 = decide (2 ^ 32 ≤ x)) && (g == 0 || g == x)

/-- ICMPv6: a Neighbour Solicitation for an own address, and a multicast listener query, are answered. -/
def State.takeIcmp6 (s : State) (c : Crown) (p : Nat) (x : EthIn) (q : IpIn) : State :=
  let l := q.data
  let h := s.host c
  let own := Tab.get (0, 0) h.ip6 p
  let target := be l 8 16
  if by8 l 0 == 135 && (target == own.1 || target == own.2) then
    let anon := q.src == 0
    let dst := if anon then 0xFF020000000000000000000000000001 else q.src
    let m := icmp6 target dst [136, 0] (beBytes 4 (if anon then 0x20000000 else 0x60000000) ++ beBytes 16 target ++ [2, 1] ++
      beBytes 6 (Tab.get 0 h.mac p))
    s.ethSend c p (s.ethHeader c p (if anon then groupMac dst else x.src) x.vlan x.pcp 0x86DD ++
      ip6Header m.length 58 255 0 target dst ++ m)
  else if by8 l 0 == 130 then s.sendReports c p x.vlan (queried true (be l 8 16))
  else s

/-! ### Time service (R281 to R284) -/

/-- A number of ns that a fused delay of 1/32 beats is. -/
def delayNs (v : Nat) : Int := (v * 5 + 128) / 256

/-- The receive and the transmit stamp of the present beat (R282). -/
def State.rxStamp (s : State) : Int := s.taiNow cr0 - delayNs (s.getF cr0 .ptp 0 Reg.PTP_DELAY_RX)
def State.txStamp (s : State) : Int := s.taiNow cr0 + delayNs (s.getF cr0 .ptp 0 Reg.PTP_DELAY_TX)

/-- A timestamp of ten bytes, and a correction in ns. -/
def ptpTime (l : List Byte) (o : Nat) : Int := be l o 6 * 1000000000 + be l (o + 6) 4
def ptpCorr (l : List Byte) : Int := signed 64 (be l 8 8) / 65536

/-- Ten bytes of a timestamp. -/
def timeBytes (t : Int) : List Byte := beBytes 6 (t / 1000000000).toNat ++ beBytes 4 (t % 1000000000).toNat

/-- The domain in effect (R281, R299). -/
def State.ptpDomain (s : State) : Nat :=
  if s.isF cr0 .ptp 0 Reg.PTP_CTL_EXPERT then s.getF cr0 .ptp 0 Reg.PTP_CTL_DOMAIN
  else if s.getF cr0 .ptp 0 Reg.PTP_CTL_PROFILE == 0 then 254 else 0

/-- The identity of a port of CR0's clock: the EUI-64 of its MAC, and the port number. -/
def State.clockId (s : State) (p : Nat) : Nat :=
  let m := Tab.get 0 (s.host 0).mac p
  (m / 2 ^ 24 * 2 ^ 40 + 0xFFFE * 2 ^ 24 + m % 2 ^ 24) * 65536 + (p + 1)

/-- A PTP header. -/
def State.ptpHead (s : State) (p type len flags corr seq : Nat) : List Byte :=
  [BitVec.ofNat 8 type, 2] ++ beBytes 2 len ++ [BitVec.ofNat 8 s.ptpDomain, 0] ++ beBytes 2 flags ++ beBytes 8 corr ++ [0, 0, 0, 0] ++
    beBytes 10 (s.clockId p) ++ beBytes 2 seq ++ [0, 0x7F]

/-- Send a PTP message on a port, in the transport of the profile; the identification of an IPv4 header is a free value. -/
def State.sendPtp (s : State) (p vlan port : Nat) (l : List Byte) : State :=
  let h := s.host 0
  match s.getF cr0 .ptp 0 Reg.PTP_CTL_PROFILE with
  | 0 => s.ethSend 0 p (s.ethHeader 0 p 0x0180C200000E vlan 0 0x88F7 ++ l)
  | 1 =>
    let (ident, t) := s.draw 16
    let src := Tab.get 0 h.ip4 p
    let u := udpData false src 0xE0000181 port port l
    t.ethSend 0 p (s.ethHeader 0 p (groupMac 0xE0000181) vlan 0 0x0800 ++ ip4Header u.length ident 1 17 0 src 0xE0000181 [] ++ u)
  | _ =>
    let src := (Tab.get (0, 0) h.ip6 p).1
    let dst := 0xFF0E0000000000000000000000000181
    let u := udpData true src dst port port l
    s.ethSend 0 p (s.ethHeader 0 p (groupMac dst) vlan 0 0x86DD ++ ip6Header u.length 17 1 0 src dst ++ u)

/-- The UTC offset in use (R284), shown in `PTP.UTC`. -/
def State.utcNow (s : State) : Int := if s.ptp.sel.isSome then s.ptp.utc else s.getF cr0 .ptp 0 Reg.PTP_UTC_OFFSET
def State.showUtc (s : State) : State := s.setF cr0 .ptp 0 Reg.PTP_UTC_IN_USE (unsigned 16 s.utcNow)

/-- The UTC offset that a C37.118.2 frame takes, by its SOC and its leap-second-occurred bit (R284). -/
def State.utcFor (s : State) (soc : Int) (occ : Bool) : Int :=
  let x := s.ptp
  let after (at_ leap : Int) : Bool := decide (at_ ≤ soc) || (leap == 1 && occ && soc + 1 == at_)
  let o := s.utcNow
  if x.leap != 0 && after x.leapAt x.leap then o + x.leap
  else if x.pastLeap != 0 && !after x.pastAt x.pastLeap then o - x.pastLeap
  else o

/-- The better of two masters: by rank, steps, port (R281). -/
def Master.better (a b : Master) : Bool :=
  decide (a.rank < b.rank) || (a.rank == b.rank && (decide (a.steps < b.steps) || (a.steps == b.steps && decide (a.port < b.port))))

/-- Beats of `n` intervals of 2^`k` seconds. -/
def intervals (n : Nat) (k : Int) : Nat :=
  let sec := 1600000000
  if 0 ≤ k then n * sec * 2 ^ min k.toNat 32 else n * sec / 2 ^ min (-k).toNat 32

/-- Choose the master, and show it (R281, R284). -/
def State.selectMaster (s : State) : State :=
  let x := s.ptp
  let live := x.masters.filter fun m => decide (s.time ≤ m.at_ + intervals 3 m.logInt)
  let best := live.foldl (fun a m => match a with
    | none => some m
    | some b => if m.better b then some m else some b) (none : Option Master)
  match best with
  | none => { s with ptp := { x with masters := live } }
  | some m =>
    let same := x.sel.any fun q => q.ident == m.ident && q.port == m.port
    let y := { x with masters := live, sel := some m,
                      good := if same then x.good else 0, bad := if same then x.bad else 0,
                      lastSync := if x.sel.isSome then x.lastSync else s.time,
                      utc := if m.utcOk then m.utc else s.getF cr0 .ptp 0 Reg.PTP_UTC_OFFSET }
    let s1 := (({ s with ptp := y }.setF cr0 .ptp 0 Reg.PTP_STATUS_SEL_PORT_VALID 1).setF cr0 .ptp 0 Reg.PTP_STATUS_SEL_PORT
      m.port).setF cr0 .ptp 0 Reg.PTP_GM_INACC m.inacc
    s1.showUtc

/-- The IEEE_C37_238 TLV among the TLVs of an Announce: its totalTimeInaccuracy. -/
def findTlv : Nat → List Byte → Option Nat
  | 0, _ => none
  | n + 1, l =>
    if l.length < 4 then none
    else
      let len := be l 2 2
      if be l 0 2 == 3 && be l 4 3 == 0x1C129D && (be l 7 3 == 1 || be l 7 3 == 2) then some (be l 16 4)
      else findTlv n (l.drop (4 + len))

/-- An Announce (R281, R284). -/
def State.takeAnnounce (s : State) (p : Nat) (l : List Byte) : State :=
  let x := s.ptp
  let tlv := findTlv 16 (l.drop 64)
  let flags := by8 l 7
  if !bit flags 3 then { s with ptp := { x with ignored := x.ignored + 1 } }
  else if s.getF cr0 .ptp 0 Reg.PTP_CTL_PROFILE == 0 && tlv.isNone then s
  else
    let m : Master := ⟨p, be l 47 14, be l 61 2, be l 20 10, signed 8 (by8 l 33), signed 16 (be l 44 2), bit flags 2, tlv.getD 0, s.time⟩
    let s1 := { s with ptp := { x with masters := m :: x.masters.filter fun q => !(q.port == p && q.ident == m.ident) } }
    let s2 := s1.selectMaster
    if s2.ptp.sel.any fun q => q.ident == m.ident && q.port == p then
      let leap : Int := if bit flags 0 then 1 else if bit flags 1 then -1 else 0
      let soc : Int := (s2.taiNow cr0 : Int) / 1000000000 - s2.utcNow
      let day := (soc / 86400 + 1) * 86400
      if leap != 0 && s2.ptp.pastAt == day then s2
      else { s2 with ptp := { s2.ptp with leap := leap, leapAt := if leap == 0 then s2.ptp.leapAt else day } }
    else s2

/-- An offset has been measured (R46, R48, R283) (log entry 59, DEDUCED). -/
def State.servoSample (s : State) (off : Int) : State :=
  let x := s.ptp
  let good := if off.natAbs ≤ 100 then x.good + 1 else 0
  let bad := if 1000 < off.natAbs then x.bad + 1 else 0
  let s1 := { s with ptp := { x with good := good, bad := bad }, sync := { s.sync with offset := off, sample := true } }
  let s2 := s1.setF cr0 .ptp 0 Reg.PTP_STATUS_OFFSET (unsigned 12 (max (-2048) (min 2047 (off / 8))))
  let valid := s.isF cr0 .bal 0 Reg.BAL_STATUS_TAI_VALID
  if !valid && decide (16 ≤ good) then s2.setTaiFlags cr0 true false
  else if valid && decide (4 ≤ bad) then s2.setTaiFlags cr0 false true
  else s2

/-- The time of a Sync is known: arrival, origin and correction together (log entry 57, PRESUMED). -/
def State.syncTimes (s : State) (p vlan : Nat) (t2 t1 : Int) : State :=
  let x := s.ptp
  let s1 := ({ s with ptp := { x with raw := t2 - t1, wait := none } }).servoSample (t2 - t1 - x.delay)
  let y := s1.ptp
  let p2p := s1.getF cr0 .ptp 0 Reg.PTP_CTL_PROFILE == 0
  let seq := y.reqSeq
  let s2 := { s1 with ptp := { y with req := some (seq, s1.txStamp), reqSeq := (seq + 1) % 65536 } }
  if p2p then s2.sendPtp p vlan 319 (s2.ptpHead p 2 54 0 0 seq ++ List.replicate 20 0)
  else s2.sendPtp p vlan 319 (s2.ptpHead p 1 44 0 0 seq ++ List.replicate 10 0)

/-- Whether a message comes from the selected master on a port. -/
def State.fromMaster (s : State) (p : Nat) (l : List Byte) : Bool := s.ptp.sel.any fun m => m.port == p && m.ident == be l 20 10

/-- A PTP message on a port of CR0 (R281 to R283). -/
def State.takePtp (s : State) (p vlan : Nat) (l : List Byte) : State :=
  let x := s.ptp
  let seq := be l 30 2
  let corr := ptpCorr l
  let mine := be l 44 10 == s.clockId p
  if !s.enabled .ptp cr0 || !bit (s.getF cr0 .ptp 0 Reg.PTP_CTL_PORTS) p || by8 l 1 % 16 != 2 || by8 l 4 != s.ptpDomain then s
  else match by8 l 0 % 16 with
    | 0 =>
      if !s.fromMaster p l then s
      else
        let s1 := { s with ptp := { x with lastSync := s.time } }
        if bit (by8 l 6) 1 then { s1 with ptp := { s1.ptp with wait := some (seq, s.rxStamp, corr) } }
        else s1.syncTimes p vlan s.rxStamp (ptpTime l 34 + corr)
    | 8 =>
      match x.wait with
      | some (q, t2, k) => if q == seq && s.fromMaster p l then s.syncTimes p vlan t2 (ptpTime l 34 + corr + k) else s
      | none => s
    | 9 =>
      match x.req with
      | some (q, t3) =>
        if q == seq && mine && s.fromMaster p l then
          { s with ptp := { x with req := none, delay := (x.raw + (ptpTime l 34 - corr - t3)) / 2 } }
        else s
      | none => s
    | 2 =>
      if s.getF cr0 .ptp 0 Reg.PTP_CTL_PROFILE != 0 then s
      else
        let s1 := s.sendPtp p vlan 319 (s.ptpHead p 3 54 0x0200 0 seq ++ timeBytes s.rxStamp ++ beBytes 10 (be l 20 10))
        s1.sendPtp p vlan 320 (s.ptpHead p 10 54 0 (unsigned 64 (corr * 65536)) seq ++ timeBytes s.txStamp ++ beBytes 10 (be l 20 10))
    | 3 =>
      match x.req with
      | some (q, t1) =>
        if !(q == seq && mine) then s
        else if bit (by8 l 6) 1 then { s with ptp := { x with req := none, pd := some (seq, s.rxStamp - t1, ptpTime l 34 + corr) } }
        else { s with ptp := { x with req := none, delay := (s.rxStamp - t1 - corr) / 2 } }
      | none => s
    | 10 =>
      match x.pd with
      | some (q, trip, t2) =>
        if q == seq && mine then { s with ptp := { x with pd := none, delay := (trip - (ptpTime l 34 + corr - t2)) / 2 } } else s
      | none => s
    | 11 => s.takeAnnounce p l
    | _ => s

/-- `PTP_SYNC_TIMEOUT` (R48, R283): no Sync within three Announce intervals of the selected master clears `TAI_VALID` and
starts holdover. -/
def execPtpSyncTimeout (s : State) : Host.Outcome State Fault Refusal :=
  match s.ptp.sel with
  | none => .next s
  | some m =>
    if s.isF cr0 .bal 0 Reg.BAL_STATUS_TAI_VALID && decide (s.ptp.lastSync + intervals 3 m.logInt ≤ s.time) then
      .next (({ s with ptp := { s.ptp with good := 0, bad := 0 } }).setTaiFlags cr0 false true)
    else .next s

/-- `LEAP_SECOND` (R284): at the end of the UTC day of an announced leap, the offset changes by one. -/
def execLeapSecond (s : State) : Host.Outcome State Fault Refusal :=
  let x := s.ptp
  if x.leap == 0 || decide ((s.taiNow cr0 : Int) < (x.leapAt + s.utcNow + x.leap) * 1000000000) then .next s
  else .next ({ s with ptp := { x with utc := x.utc + x.leap, leap := 0, pastLeap := x.leap, pastAt := x.leapAt } }).showUtc

/-! ### Rejections (R287) -/

/-- A rejection: counted, and logged once per stream and cause in a second. The stream number of a frame that selects no
entry is a free value. -/
def State.reject (s : State) (c : Crown) (p : Nat) (stream : Option Nat) (cause : Nat) : State :=
  let h := s.host c
  let key := (match stream with
    | some i => i
    | none => 8192) * 16 + cause
  let last := Tab.get 0 h.rejAt key
  let s1 := s.bumpF (.cr c) .ethPort p Reg.ETHP_REJECT_COUNT
  if last != 0 && decide (s.time < last - 1 + 1600000000) then s1
  else
    let s2 := s1.setHost c { h with rejAt := Tab.set 0 h.rejAt key (s.time + 1) }
    let (n, s3) := match stream with
      | some i => (i, s2)
      | none => s2.draw 16
    s3.log (.cr c) .ethPort p 0x6004 ([BitVec.ofNat 8 cause, 0] ++ leBytes 2 n)

/-- Whether a time or sequence number has been accepted for a stream within the last 2 s, and the state that has it. -/
def State.duplicate (s : State) (c : Crown) (i v : Nat) : Bool :=
  (Tab.get [] (s.host c).seen i).any fun q => q.1 == v && decide (s.time ≤ q.2 + 3200000000)
def State.noteSeen (s : State) (c : Crown) (i v : Nat) : State :=
  let h := s.host c
  let old := (Tab.get [] h.seen i).filter fun q => decide (s.time ≤ q.2 + 3200000000)
  s.setHost c { h with seen := Tab.set [] h.seen i ((v, s.time) :: old) }

/-! ### IEEE C37.118.2 (R285 to R288) -/

/-- CRC-CCITT of bytes, most significant bit first, from 0xFFFF. -/
def crcCcitt (l : List Byte) : Nat :=
  l.foldl (fun r b => (List.range 8).foldl (fun t i => crc16Step t (bit b.toNat (7 - i))) r) 0xFFFF

/-- Fields of an accepted CFG-2 frame with PHNMR phasors, ANNMR analogue values and DGNMR digital words. -/
structure Cfg2 where
  base : Nat
  format : Nat
  phUnit : List Nat
  anUnit : List Nat
  fnom : Nat

/-- Read a CFG-2. -/
def readCfg2 (l : List Byte) : Cfg2 :=
  let ph := be l 40 2
  let an := be l 42 2
  let dg := be l 44 2
  let o := 46 + 16 * (ph + an + 16 * dg)
  ⟨be l 14 4 % 2 ^ 24, be l 38 2, (List.range ph).map fun j => be l (o + 4 * j) 4, (List.range an).map fun j => be l (o + 4 * (ph + j)) 4,
   be l (o + 4 * (ph + an + dg)) 2⟩

/-- Bytes of a data frame of a format. -/
def dataSize (format ph an dg : Nat) : Nat :=
  18 + ph * (if bit format 1 then 8 else 4) + (if bit format 3 then 8 else 4) + an * (if bit format 2 then 4 else 2) + 2 * dg

/-- A CFG-2 frame (R286). -/
def State.takeCfg2 (s : State) (c : Crown) (p i : Nat) (l : List Byte) : State :=
  let r := s.streamEnt c i
  let ph := be l 40 2
  let an := be l 42 2
  let dg := be l 44 2
  let o := 46 + 16 * (ph + an + 16 * dg) + 4 * (ph + an + dg)
  let ok := be l 18 2 == 1 && ph == sPhn r && an == sAnn r && dg == sDgn r && signed 16 (be l (o + 4) 2) == (sRate r : Int)
  if ok then let h := s.host c; s.setHost c { h with cfg2 := Tab.set [] h.cfg2 i l } else s.reject c p (some i) 0x06

/-- A phasor of a data frame as real and imaginary FP32 (R288). -/
def phasorOf (format unit : Nat) (l : List Byte) (o : Nat) : Nat × Nat :=
  if bit format 1 then
    let a := be l o 4
    let b := be l (o + 4) 4
    if bit format 0 then cPolar a b else (a, b)
  else
    let u : Nat := unit % 2 ^ 24
    if bit format 0 then cPolar (fpOfRat (be l o 2 * u) 100000) (fpOfRat (signed 16 (be l (o + 2) 2)) 10000)
    else (fpOfRat (signed 16 (be l o 2) * u) 100000, fpOfRat (signed 16 (be l (o + 2) 2) * u) 100000)

/-- The channels of a data frame with their values (R288, R301). -/
def dataChans (k : Cfg2) (r scFirst dg flag : Nat) (l : List Byte) : List (Nat × Nat × Nat) :=
  let psz := if bit k.format 1 then 8 else 4
  let ph := k.phUnit.length
  let o1 := 16 + psz * ph
  let fsz := if bit k.format 3 then 4 else 2
  let freq := if fsz == 4 then be l o1 4
    else fpOfRat ((if k.fnom % 2 == 1 then 50000 else 60000) + signed 16 (be l o1 2)) 1000
  let dfreq := if fsz == 4 then be l (o1 + 4) 4 else fpOfRat (signed 16 (be l (o1 + 2) 2)) 100
  let o2 := o1 + 2 * fsz
  let asz := if bit k.format 2 then 4 else 2
  let an := k.anUnit.length
  let o3 := o2 + asz * an
  ((List.range ph).map fun j =>
      let z := phasorOf k.format (k.phUnit.getD j 0) l (16 + psz * j)
      (sFirst r + j, z.1 + z.2 * 2 ^ 32, flag)) ++
    [(scFirst, freq, flag), (scFirst + 1, dfreq, flag)] ++
    ((List.range an).map fun j =>
      let v := if asz == 4 then be l (o2 + 4 * j) 4 else fpOfInt (signed 16 (be l (o2 + 2 * j) 2) * signed 24 (k.anUnit.getD j 0))
      (scFirst + 2 + j, v, flag)) ++
    (List.range dg).map fun j => (scFirst + 2 + an + j, be l (o3 + 2 * j) 2, flag)

/-- A data frame (R284, R287, R288, R305, R306). A TIME_BASE of zero gives no fraction of a second: it is a free value
(log entry 56, DESIGN CHOICE). -/
def State.takeData (s : State) (c : Crown) (p i : Nat) (l : List Byte) : State :=
  let cfg := Tab.get [] (s.host c).cfg2 i
  if cfg == [] then s.reject c p (some i) 0x05
  else
    let k := readCfg2 cfg
    let r := s.streamEnt c i
    if be l 2 2 != dataSize k.format (sPhn r) (sAnn r) (sDgn r) then s.reject c p (some i) 0x04
    else
      let soc := be l 6 4
      let q := by8 l 10
      let (ns, s0) := if k.base == 0 then s.draw 30 else ((2 * (be l 11 3 * 1000000000) + k.base) / (2 * k.base), s)
      let m : Int := (soc + s0.utcFor soc (bit q 5)) * 1000000000 + ns
      let mn := m.toNat
      if (s0.taiNow (.cr c) : Int) + 1000000000 < m then s0.reject c p (some i) 0x09
      else if s0.duplicate c i mn then s0.reject c p (some i) 0x0A
      else
        let stat := be l 14 2
        let tq := s0.fusPar c Reg.FUS_ALIGN_TQ_MAX
        let flag := 2 * b2n (stat / 16384 != 0) + 4 * b2n (bit stat 13 || decide (tq < q % 16))
        ((s0.noteSeen c i mn).bumpF (.cr c) .ethPort p Reg.ETHP_RX_OK_COUNT).place c i m
          (dataChans k r (mScFirst (s0.mapRec c i)) (sDgn r) flag l)

/-- A C37.118.2 frame with the stream that it selects, if any (R279, R285, R287) (log entry 53, DEDUCED). -/
def State.takeC37 (s : State) (c : Crown) (p : Nat) (stream : Option Nat) (l : List Byte) : State :=
  let n := l.length
  let ty := by8 l 1 / 16 % 8
  if by8 l 0 != 0xAA || n < 16 || be l (n - 2) 2 != crcCcitt (l.take (n - 2)) then s.reject c p stream 0x01
  else if by8 l 1 % 16 != 2 || !(ty == 0 || ty == 1 || ty == 3) then s.reject c p stream 0x02
  else match stream with
    | none => s.reject c p none 0x03
    | some i =>
      if be l 2 2 != n then s.reject c p (some i) 0x04
      else match ty with
        | 0 => s.takeData c p i l
        | 1 => let h := s.host c; s.setHost c { h with hdr := Tab.set [] h.hdr i ((l ++ List.replicate 256 0).take 256) }
        | _ => s.takeCfg2 c p i l

/-! ### TMF inputs (R289 to R291) -/

/-- The header and length of an input TMF are valid (R291). -/
def tmfOk (l : List Byte) : Bool :=
  let cnt := be l 24 2
  let rf := by8 l 6
  be l 0 2 == 0x544D && by8 l 2 == 1 && decide (1 ≤ by8 l 3 ∧ by8 l 3 ≤ 3) && decide (rf < 2) && decide (by8 l 7 < 4) &&
    be l 26 2 == 0 && be l 4 2 == l.length && l.length == 36 + cnt * (if rf == 0 then 4 else 8) &&
    decide (40 ≤ l.length ∧ l.length ≤ 8192 ∧ 1 ≤ cnt)

/-- The records of a TMF: channel offset in the source, value, flags (R290, R306). -/
def tmfRecords (l : List Byte) : List (Nat × Nat × Nat) :=
  let base := be l 28 4
  let tq := 4 * b2n (bit (by8 l 7) 1)
  (List.range (be l 24 2)).map fun j =>
    if by8 l 6 == 0 then
      let v := be l (32 + 4 * j) 4
      (base + j, v, tq + 2 * b2n (fpIsNan v))
    else
      let w := be l (32 + 8 * j) 4
      (base + w % 2 ^ 24, be l (36 + 8 * j) 4, tq + 2 * b2n (bit w 24) + 8 * b2n (bit w 25) + 16 * b2n (bit w 26))

/-- A TMF with the stream that it selects, if any (R279, R287, R291) (log entry 55, DEDUCED). -/
def State.takeTmf (s : State) (c : Crown) (p : Nat) (stream : Option Nat) (l : List Byte) : State :=
  let n := l.length
  if n < 36 || be l (n - 4) 4 != crc32 (l.take (n - 4)) then s.reject c p stream 0x01
  else match stream with
    | none => s.reject c p none 0x03
    | some i =>
      let r := s.streamEnt c i
      let time := be l 16 8
      if !tmfOk l then s.reject c p (some i) 0x07
      else if s.taiNow (.cr c) + 1000000000 < time then s.reject c p (some i) 0x09
      else if s.duplicate c i (be l 12 4) then s.reject c p (some i) 0x0A
      else
        let recs := tmfRecords l
        let bad := (recs.filter fun q => decide (sChans r ≤ q.1)).length
        let s1 := (List.range bad).foldl (fun t _ => t.reject c p (some i) 0x08) s
        ((s1.noteSeen c i (be l 12 4)).bumpF (.cr c) .ethPort p Reg.ETHP_RX_OK_COUNT).place c i time
          ((recs.filter fun q => decide (q.1 < sChans r)).map fun q => (sFirst r + q.1, q.2.1, q.2.2))

/-! ### Receiving -/

/-- The stream table entries of a UDP port. -/
def State.udpStreams (s : State) (c : Crown) (udp : Nat) : List Nat :=
  (s.tblIdx 9 (fusDie c)).filter fun i => sUdp (s.streamEnt c i) == udp

/-- A measurement frame in a UDP payload: a TMF by its MAGIC, a C37.118.2 frame by its SYNC byte, else by the entries of its
port (R279) (log entry 54, DEDUCED). -/
def State.takeMeasure (s : State) (c : Crown) (p : Nat) (es : List Nat) (l : List Byte) : State :=
  let here := es.filter fun i => bit (sPorts (s.streamEnt c i)) p
  let tmf := be l 0 2 == 0x544D || (by8 l 0 != 0xAA && es.all fun i => sTmf (s.streamEnt c i))
  if tmf then s.takeTmf c p (here.find? fun i => sTmf (s.streamEnt c i) && sSource (s.streamEnt c i) == be l 8 4) l
  else s.takeC37 c p (here.find? fun i => !sTmf (s.streamEnt c i) && sIdcode (s.streamEnt c i) == be l 4 2) l

/-- An IP packet that passed check 5 (R277, R278). -/
def State.takeIp (s : State) (c : Crown) (p : Nat) (x : EthIn) (q : IpIn) : State :=
  let filt := s.bumpF (.cr c) .ethPort p Reg.ETHP_DROP_FILT
  if q.v6 && q.proto == 58 then s.takeIcmp6 c p x q
  else if !q.v6 && q.proto == 2 then (if by8 q.data 0 == 0x11 then s.sendReports c p x.vlan (queried false (be q.data 4 4)) else s)
  else if q.proto != 17 then filt
  else if !udpOk q then s.bumpF (.cr c) .ethPort p Reg.ETHP_DROP_IP
  else
    let udp := be q.data 2 2
    let body := (q.data.take (be q.data 4 2)).drop 8
    let prof := s.getF cr0 .ptp 0 Reg.PTP_CTL_PROFILE
    if udp == 319 || udp == 320 then
      if c == 0 && prof == (if q.v6 then 2 else 1) then s.takePtp p x.vlan body else s
    else
      let es := s.udpStreams c udp
      if es == [] then filt else s.takeMeasure c p es body

/-- `ETH_FRAME_RECEIVE` (R277 to R291): a frame, from its destination MAC to its FCS, crosses a port's balls on the present
beat: it passes the checks of R278 or is counted, and is answered, given to PTP, or taken as a measurement frame. -/
def execEthFrameReceive (c : Crown) (p : Fin 4) (frame : List Byte) (s : State) : Host.Outcome State Fault Refusal :=
  if !s.ethUp c p then .next s
  else match s.ethChecks c p frame with
    | .error e => .next (s.bumpF (.cr c) .ethPort p e.fld)
    | .ok x =>
      match x.etype with
      | 0x0806 => .next (s.takeArp c p x)
      | 0x88F7 => .next (if c == 0 && s.getF cr0 .ptp 0 Reg.PTP_CTL_PROFILE == 0 then s.takePtp p x.vlan x.data else s)
      | _ => match ipCheck x with
        | none => .next (s.bumpF (.cr c) .ethPort p Reg.ETHP_DROP_IP)
        | some q => .next (s.takeIp c p x q)

end Sys2Proof.Machine
end

