-- ==== Sys2Proof/Machine/Ledger.lean ====
section
/-! DEFINITION. The interval ledger of CR0: tariffs, intervals, accounts, setpoints, the FRAM journal and power fail
(R328 to R351, R367, R368). -/

namespace Sys2Proof.Machine

/-! ### Tables (R328, R330, R333) -/

/-- A record of ledger space `sp` (0 periods, 1 schedule headers, 2 pending changes, 3 accounts). -/
def State.ldgRec (s : State) (sp i : Nat) : Nat := s.tbl (16 + sp) 4 0 0 0 i

/-- The state with another record. -/
def State.setLdgRec (s : State) (sp i v : Nat) : State := s.setTbl (16 + sp) 4 0 0 0 i v

/-- Records of a space, and bytes of one in a table image (R343). -/
def ldgSize (sp : Nat) : Nat := match sp with
  | 0 => 1536 | 1 => 16 | 2 => 8 | _ => 4096
def ldgBytes (sp : Nat) : Nat := match sp with
  | 0 => 8 | 1 => 8 | 2 => 16 | _ => 4

/-- Fields of the records. -/
def pStart (r : Nat) : Nat := bitsOf r 0 11
def pPrice (r : Nat) : Int := signed 32 (bitsOf r 32 32)
def hPeriods (r : Nat) : Nat := bitsOf r 0 7
def hValid (r : Nat) : Bool := bit r 31
def hDayOff (r : Nat) : Int := signed 32 (bitsOf r 32 32)
def kTarget (r : Nat) : Nat := bitsOf r 0 4
def kSource (r : Nat) : Nat := bitsOf r 4 4
def kValid (r : Nat) : Bool := bit r 31
def kTime (r : Nat) : Nat := bitsOf r 64 64
def aSched (r : Nat) : Nat := bitsOf r 0 4
def aValid (r : Nat) : Bool := bit r 31

/-- The valid accounts, and the number of accounts configured (R333). -/
def State.validAccts (s : State) : List Nat := (s.tblIdx 19 4).filter fun i => aValid (s.ldgRec 3 i)
def State.acctCount (s : State) : Nat := s.validAccts.foldl (fun m i => max m (i + 1)) 1

/-- The header and the periods of a schedule are fit: PERIODS 1 to 96, DAY_OFFSET within a day, the first START_MIN 0 and the
others strictly ascending (R328). -/
def schedOk (hdr : Nat) (per : Nat → Nat) : Bool :=
  let n := hPeriods hdr
  decide (1 ≤ n ∧ n ≤ 96) && decide (-86399 ≤ hDayOff hdr ∧ hDayOff hdr ≤ 86399) && pStart (per 0) == 0 &&
    (List.range (n - 1)).all (fun j => decide (pStart (per j) < pStart (per (j + 1)))) &&
    (List.range n).all fun j => decide (pStart (per j) ≤ 1439)

/-! ### Parameters (R350, R351) -/

/-- A parameter in effect. -/
def State.ldgExpert (s : State) : Bool := s.isF cr0 .ldg 0 Reg.LDG_CTL_EXPERT
def State.ldgLenSel (s : State) : Nat :=
  if s.ldgExpert then s.getF cr0 .ldg 0 Reg.LDG_INTERVAL_LEN else s.getF cr0 .ldg 0 Reg.LDG_CTL_PROFILE
def lenSec (sel : Nat) : Nat := match sel with
  | 0 => 60 | 1 => 300 | 2 => 900 | 3 => 1800 | _ => 3600
def State.ldgLen (s : State) : Int := lenSec s.ldgLenSel * 1000000000
def State.ldgOff (s : State) : Int :=
  if s.ldgExpert then signed 16 (s.getF cr0 .ldg 0 Reg.LDG_INTERVAL_INT_OFFSET) * 1000000000 else 0
def State.ldgSclk (s : State) : Nat := if s.ldgExpert then s.getF cr0 .ldg 0 Reg.LDG_FRAM_SCLK_MHZ else 40
def State.ldgVerify (s : State) : Bool := !s.ldgExpert || s.isF cr0 .ldg 0 Reg.LDG_FRAM_VERIFY
def State.ldgHoldup (s : State) : Nat := if s.ldgExpert then s.getF cr0 .ldg 0 Reg.LDG_FRAM_HOLDUP_MS else 25

/-- Blocks of a commit, and its write time in beats, rounded up (R341, R348). -/
def blocksOf (accts : Nat) : Nat := ceilDiv accts 6
def writeBeats (blocks sclk : Nat) : Nat := ceilDiv ((128 * blocks + 138) * 8 * 1600) (max sclk 1)

/-- The hold-up covers 81.92 µs and the write time (R348). -/
def holdupOk (accts sclk holdup : Nat) : Bool :=
  decide (8192 * sclk + 800 * (128 * blocksOf accts + 138) ≤ holdup * 100000 * sclk)

/-- The state field. -/
def State.ldgState (s : State) : Nat := s.getF cr0 .ldg 0 Reg.LDG_STATUS_STATE
def State.setLdgState (s : State) (v : Nat) : State := s.setF cr0 .ldg 0 Reg.LDG_STATUS_STATE v

/-! ### Prices and sums (R329, R335) -/

/-- The price of a schedule at a TAI instant, and the instant at which the next period begins (R329). -/
def State.priceAt (s : State) (sched : Nat) (t : Nat) : Int × Nat :=
  let hdr := s.ldgRec 1 sched
  let day : Int := 86400000000000
  let off := hDayOff hdr * 1000000000
  let tod := ((t : Int) - off) % day
  let base := (t : Int) - tod
  let per (j : Nat) : Nat := s.ldgRec 0 (96 * sched + j)
  let at_ (j : Nat) : Int := pStart (per j) * 60000000000
  let js := (List.range (hPeriods hdr)).filter fun j => decide (at_ j ≤ tod)
  let cur := js.getLast?.getD 0
  let next := (List.range (hPeriods hdr)).filter fun j => decide (tod < at_ j)
  (pPrice (per cur), (match next with
    | j :: _ => base + at_ j
    | [] => base + day).toNat)

/-- The sum of the price of a schedule over the beats from `a` up to `z` under a map. -/
def State.priceSum (s : State) (m : Nat × Nat × Nat) (sched : Nat) : Nat → Nat → Nat → Int
  | 0, _, _ => 0
  | n + 1, a, z =>
    if z ≤ a then 0
    else
      let (p, t) := s.priceAt sched (taiAt m a)
      let e := min z (max (a + 1) (beatOfTai m t))
      p * ((e - a : Nat) : Int) + s.priceSum m sched n e z

/-- Sum the accounts over the beats from `a` up to `z` under a map. -/
def State.ldgSum (s : State) (m : Nat × Nat × Nat) (a z : Nat) : State :=
  if z ≤ a then s
  else
    let sums := (List.range 16).map fun k => s.priceSum m k ((z - a) / 60000000000 + 4) a z
    let n : Int := ((z - a : Nat) : Int)
    let accts := s.validAccts.foldl (fun t i =>
      let x := Tab.get {} t i
      let p := sums.getD (aSched (s.ldgRec 3 i)) 0
      let pk := match x.peak with
        | some q => max q x.pow
        | none => x.pow
      Tab.set {} t i { x with acc := x.acc + x.pow * n, cost := x.cost + x.pow * p, peak := some pk }) s.ldg.accts
    { s with ldg := { s.ldg with accts := accts, upTo := z } }

/-- Sum the accounts up to beat `b`, each stretch under the map that held there (R45, R335). -/
def State.ldgSettle (s : State) (b : Nat) : State :=
  let s1 := s.ldg.maps.foldl (fun t p => t.ldgSum p.2 t.ldg.upTo (min p.1 b)) s
  let s2 := s1.ldgSum s1.cr0Map s1.ldg.upTo b
  { s2 with ldg := { s2.ldg with maps := s2.ldg.maps.filter fun p => decide (b < p.1) } }

/-- A quotient rounded half away from zero (R335). -/
def roundAway (n : Int) (d : Nat) : Int :=
  let q : Nat := (2 * n.natAbs + d) / (2 * d)
  if n < 0 then -(q : Int) else q

/-- The values of the accounts configured: ENERGY, PEAK, COST; an invalid account has zeros (R335, R342). -/
def State.acctVals (s : State) : List (Int × Int × Int) :=
  (List.range s.acctCount).map fun i =>
    if aValid (s.ldgRec 3 i) then
      let x := Tab.get {} s.ldg.accts i
      (roundAway x.acc 5760000000, x.peak.getD 0, roundAway x.cost 5760000000000000)
    else (0, 0, 0)

/-! ### The next event (R336) -/

/-- The beat up to which the ledger works: the present one, or P after a power fail. -/
def State.ldgNow (s : State) : Nat := if s.ldg.pfAt == 0 then s.beat cr0 else min (s.beat cr0) (s.ldg.pfAt - 1)

/-- The map of CR0 in force at a beat not yet summed (R45). -/
def State.ldgMapAt (s : State) (b : Nat) : Nat × Nat × Nat :=
  match s.ldg.maps.find? fun p => decide (b < p.1) with
  | some p => p.2
  | none => s.cr0Map

/-- The first beat from `lo` on at or after a TAI instant, under maps that end one after the other, and `m` after them (R13). -/
def beatUnder (t : Nat) (m : Nat × Nat × Nat) : List (Nat × Nat × Nat × Nat) → Nat → Nat
  | [], lo => max (beatOfTai m t) lo
  | p :: rest, lo => if max (beatOfTai p.2 t) lo < p.1 then max (beatOfTai p.2 t) lo else beatUnder t m rest (max lo p.1)

def State.firstBeat (s : State) (t lo : Nat) : Nat := beatUnder t s.cr0Map s.ldg.maps lo

/-- The TAI instant at which interval `n` begins (R332). -/
def State.intStart (s : State) (n : Int) : Nat := (n * s.ldgLen + s.ldgOff).toNat

/-- The beat at which the open interval ends: the first after its start whose TAI reaches the next (R332). -/
def State.boundaryBeat (s : State) : Nat :=
  s.firstBeat (s.intStart (s.ldg.n + 1)) (max (s.ldg.start + 1) s.ldg.upTo)

/-- The valid pending changes, each with its beat and index (R13, R330). -/
def State.changesDue (s : State) : List (Nat × Nat) :=
  ((List.range 8).filter fun i => kValid (s.ldgRec 2 i)).map fun i =>
    (s.firstBeat (kTime (s.ldgRec 2 i)) s.ldg.upTo, i)

/-- The next event due, as its beat and kind, in the order of R336: 0 the close, 1 changes, 2 setpoint sets. -/
def State.ldgNext (s : State) : Option (Nat × Nat) :=
  if s.ldgState != 2 && s.ldgState != 3 then none
  else
    let evs := (s.boundaryBeat, 0) :: s.changesDue.map (fun p => (p.1, 1)) ++ s.ldg.sets.map fun x => (x.eff, 2)
    (evs.filter fun e => decide (e.1 ≤ s.ldgNow)).foldl (fun a e => match a with
      | none => some e
      | some m => if e.1 < m.1 || (e.1 == m.1 && decide (e.2 < m.2)) then some e else some m) none

/-! ### Intervals (R332, R335, R337, R341) -/

/-- The record of the open interval as it ends at beat `b`, with flags of its own; the sums start again. -/
def State.closeAt (s : State) (b flags switched : Nat) : State :=
  let tai := taiAt (s.ldgMapAt b) b
  let s1 := s.ldgSettle b
  let x := s1.ldg
  let hold := s1.isF cr0 .bal 0 Reg.BAL_STATUS_HOLDOVER
  let c : Closing := ⟨x.flags + flags + 0x20 * b2n hold, x.n, x.start, b, x.startTai, tai,
    Nat.lor x.switched switched, s1.acctCount, x.late, s1.acctVals⟩
  { s1 with ldg := { x with wait := x.wait ++ [c], switched := 0, late := 0, flags := 0,
                            accts := (x.accts.map fun p => (p.1, ({ pow := p.2.pow } : Acct))).filter fun p => p.2 != {} } }

/-- Show the open interval. -/
def State.showCur (s : State) : State :=
  s.set64 cr0 .ldg 0 Reg.LDG_CUR_LO_CUR Reg.LDG_CUR_HI_CUR (unsigned 64 s.ldg.n)

/-- `INTERVAL_CLOSE` (R332, R335, R336, R341): at the boundary beat the open interval closes and the next one opens;
intervals that a forward step passed are counted. -/
def execIntervalClose (s : State) : Host.Outcome State Fault Refusal :=
  match s.ldgNext with
  | some (b, 0) =>
    let sw := (s.changesDue.filter fun p => p.1 == b).foldl (fun m p => setBit m (kTarget (s.ldgRec 2 p.2))) 0
    let s1 := s.closeAt b 1 sw
    let tai := taiAt (s.ldgMapAt b) b
    let n := ((tai : Int) - s1.ldgOff) / s1.ldgLen
    let s2 := { s1 with ldg := { s1.ldg with n := n, start := b, startTai := tai } }
    .next (s2.addF cr0 .ldg 0 Reg.LDG_COUNT2_SKIPPED (n - s.ldg.n - 1).toNat).showCur
  | _ => .next s

/-- Copy schedule SOURCE over TARGET and clear the change (R330). -/
def State.applyChange (s : State) (i : Nat) : State :=
  let r := s.ldgRec 2 i
  let t := kTarget r
  let v := kSource r
  let s1 := (List.range 96).foldl (fun u j => u.setLdgRec 0 (96 * t + j) (s.ldgRec 0 (96 * v + j))) s
  (s1.setLdgRec 1 t (s.ldgRec 1 v)).setLdgRec 2 i (if bit r 31 then r - 2 ^ 31 else r)

/-- `TARIFF_CHANGE_EFFECT` (R330, R336, R343): the pending changes due on the next beat take effect, in ascending index; on a
boundary beat RC 0x7004 is logged. -/
def execTariffChangeEffect (s : State) : Host.Outcome State Fault Refusal :=
  match s.ldgNext with
  | some (b, 1) =>
    let due := (s.changesDue.filter fun p => p.1 == b).map (·.2)
    let s1 := s.ldgSettle b
    let onBound := b == s1.ldg.start && !bit s1.ldg.flags 4
    let step (t : State) (i : Nat) : State :=
      let r := t.ldgRec 2 i
      let u := t.applyChange i
      let v := if u.ldg.start < b then { u with ldg := { u.ldg with switched := setBit u.ldg.switched (kTarget r) } } else u
      if onBound then v.log cr0 .ldg 0 0x7004 [BitVec.ofNat 8 i] else v
    let s2 := due.foldl step s1
    .next { s2 with ldg := { s2.ldg with tabDirty := s2.ldg.pfAt == 0 } }
  | _ => .next s

/-- `SETPOINT_SET_PROCESS` (R334, R337): at the frame boundary after a set has landed it is taken, discarded while the
ledger waits for TAI, or set for the processing beat and counted late. -/
def execSetpointSetProcess (s : State) : Host.Outcome State Fault Refusal :=
  let tag := s.getF cr0 .ldg 0 Reg.LDG_IN_TAG
  if !s.atFrame cr0 || !s.isF cr0 .ldg 0 Reg.LDG_IN_VALID || !s.hasLanded 0 tag then .next s
  else
    let s1 := s.clearLanded 0 tag
    match s.ldgState with
    | 1 => .next (s1.bumpF cr0 .ldg 0 Reg.LDG_COUNT_DISCARDED)
    | 2 =>
      let pa := chipPa cr0 (64 * s.getF cr0 .ldg 0 Reg.LDG_IN_AREA_AREA)
      let eff := leNat (s.rdBytes pa 8)
      let b := s.beat cr0
      let cnt := min (leNat (s.rdBytes (pa + 10) 2)) 4096
      let x : SetPt := ⟨max eff b, leNat (s.rdBytes (pa + 8) 2), (List.range cnt).map fun j => signed 32 (s.rd32 (pa + 64 + 4 * j)),
        decide (eff < b)⟩
      let s2 := { s1 with ldg := { s1.ldg with sets := s1.ldg.sets ++ [x] } }
      .next (if x.late then s2.bumpF cr0 .ldg 0 Reg.LDG_COUNT_LATE else s2)
    | _ => .next s1

/-- The values of a set become the accounts' power. -/
def State.applySet (s : State) (x : SetPt) : State :=
  let put (t : Tab Acct) (p : Nat × Int) : Tab Acct :=
    let i := x.first + p.1
    if p.2 == -(2 ^ 31) || decide (4096 ≤ i) || !aValid (s.ldgRec 3 i) then t
    else Tab.set {} t i { Tab.get {} t i with pow := p.2 }
  let y := s.ldg
  { s with ldg := { y with accts := ((List.range x.vals.length).zip x.vals).foldl put y.accts, late := y.late + b2n x.late } }

/-- `SETPOINT_SET_EFFECTIVE` (R334 to R336): at their beat the sets that became effective next are applied, in the order in
which they landed. -/
def execSetpointSetEffective (s : State) : Host.Outcome State Fault Refusal :=
  match s.ldgNext with
  | some (b, 2) =>
    let s1 := s.ldgSettle b
    let due := s1.ldg.sets.filter fun x => x.eff == b
    let s2 := due.foldl (fun t x => t.applySet x) s1
    .next { s2 with ldg := { s2.ldg with sets := s2.ldg.sets.filter fun x => x.eff != b } }
  | _ => .next s

/-- `LEDGER_OPEN` (R337, R345): once `TAI_VALID` has been set, the ledger opens the interval in progress, marked
PARTIAL_START, from that beat, or from the enable where that came later; pending changes whose time has passed are applied
(log entry 60, DEDUCED). -/
def execLedgerOpen (s : State) : Host.Outcome State Fault Refusal :=
  let x := s.die cr0
  if s.ldgState != 1 || !x.taiEver then .next s
  else
    let b := max x.taiAt s.ldg.enAt
    let t := taiAt (s.ldgMapAt b) b
    let y := s.ldg
    let accts := if y.everOpen then y.accts else []
    let s1 := { s with ldg := { y with everOpen := true, n := ((t : Int) - s.ldgOff) / s.ldgLen, start := b, startTai := t, upTo := b,
                                       maps := y.maps.filter (fun p => decide (b < p.1)),
                                       flags := 0x10, switched := 0, late := 0, accts := accts } }
    let past := (List.range 8).filter fun i => kValid (s.ldgRec 2 i) && decide (kTime (s.ldgRec 2 i) ≤ t)
    let s2 := past.foldl (fun u i => u.applyChange i) s1
    let s3 := { s2 with ldg := { s2.ldg with tabDirty := s2.ldg.tabDirty || past != [] } }
    .next ((s3.setLdgState 2).setF cr0 .ldg 0 Reg.LDG_STATUS_HOLDOVER (s3.getF cr0 .bal 0 Reg.BAL_STATUS_HOLDOVER)).showCur

/-! ### The FRAM journal (R339 to R344) -/

/-- Bytes of the FRAM, which reads as zero where nothing has been written (log entry 4, DESIGN CHOICE). -/
def framBytes (f : List Host.Cell) (a : Nat) : Nat → List Byte
  | 0 => []
  | n + 1 => Tab.get memDefault f a :: framBytes f (a + 1) n

/-- Addresses of interval record `k` and of table record `k` in a region (R339). -/
def intAddr (region k : Nat) : Nat := 0x16000 * region + 128 * k
def tabAddr (region k : Nat) : Nat := 0x2C000 + 0x9000 * region + 128 * k

/-- A record of 128 bytes: its first 124 bytes, filled with zeros, and their CRC-32. -/
def record128 (l : List Byte) : List Byte :=
  let b := (l ++ List.replicate 124 0).take 124
  b ++ leBytes 4 (crc32 b)

/-- Whether 128 bytes are a whole record (log entry 62, DEDUCED). -/
def recOk (l : List Byte) : Bool := leNat (l.drop 124) == crc32 (l.take 124)

/-- Write a record; `bad` is what the FRAM then holds where its read-back fails twice, which is logged and counted, except
after a power fail or without `VERIFY` (R344). -/
def State.framPut (s : State) (a : Nat) (l : List Byte) (bad : Option (List Byte)) : State :=
  match bad with
  | none => { s with fram := memPut s.fram a l }
  | some v =>
    let s1 := { s with fram := memPut s.fram a (v.take 128) }
    if s.ldgVerify && s.ldg.pfAt == 0 then
      ((s1.log cr0 .ldg 0 0x7005 (leBytes 4 a)).bumpF cr0 .ldg 0 Reg.LDG_COUNT_VERIFY_FAIL).setF cr0 .ldg 0
        Reg.LDG_STATUS_FRAM_FAULT 1
    else s1

/-- What a list of failed records says of record `k`. -/
def badOf (bad : List (Nat × List Byte)) (k : Nat) : Option (List Byte) := (bad.find? fun p => p.1 == k).map (·.2)

/-- Block record `b` of a commit (R342). -/
def blockRec (c : Closing) (seq b : Nat) : List Byte :=
  record128 ([2, 0] ++ leBytes 2 b ++ leBytes 4 seq ++ leBytes 8 (unsigned 64 c.n) ++
    ((List.range 6).map fun j =>
      let v := c.vals.getD (6 * (b - 1) + j) (0, 0, 0)
      leBytes 6 (unsigned 48 v.1) ++ leBytes 4 (unsigned 32 v.2.1) ++ leBytes 8 (unsigned 64 v.2.2)).flatten)

/-- The control record of a commit (R341). -/
def controlRec (c : Closing) (seq : Nat) : List Byte :=
  let flags := c.flags + 2 * b2n (c.switched != 0)
  record128 ([1, BitVec.ofNat 8 flags] ++ leBytes 2 (blocksOf c.count) ++ leBytes 4 seq ++ leBytes 8 (unsigned 64 c.n) ++
    leBytes 8 c.start ++ leBytes 8 c.stop ++ leBytes 8 c.taiStart ++ leBytes 8 c.taiStop ++ leBytes 2 c.switched ++
    leBytes 2 c.count ++ leBytes 4 c.late ++ leBytes 8 (unsigned 64 (c.vals.map (·.1)).sum) ++
    leBytes 8 (unsigned 64 (c.vals.map (·.2.2)).sum))

/-- Start the commit of the oldest record that waits: its blocks are written (R340) (log entry 61, DEDUCED). -/
def State.startCommit (s : State) (bad : List (Nat × List Byte)) : State :=
  match s.ldg.wait with
  | [] => s
  | c :: rest =>
    let seq := s.ldg.seq + 1
    let s1 := (List.range (blocksOf c.count)).foldl (fun t j =>
      t.framPut (intAddr (seq % 2) (j + 1)) (blockRec c seq (j + 1)) (badOf bad (j + 1))) s
    { s1 with ldg := { s1.ldg with wait := rest, busy := some c, busyAt := s.time, seq := seq } }

/-- After a power fail, whether the interval open at P is still to be committed: it has a beat, and the time left covers its
write time (R346). -/
def State.partialDue (s : State) : Bool :=
  let x := s.ldg
  let p := x.pfAt - 1
  s.ldgState == 3 && x.everOpen && !x.pfPart && decide (x.start < p) &&
    decide (s.beat cr0 + writeBeats (blocksOf s.acctCount) s.ldgSclk ≤ p + s.ldgHoldup * msBeats)

/-- `INTERVAL_COMMIT` (R340, R344, R346): the ledger begins the commit that waits longest, `bad` being the records whose
read-back fails twice. After a power fail, with nothing left to close, it commits the interval open at P, or is HALTED
(log entry 63, DESIGN CHOICE). -/
def execIntervalCommit (bad : List (Nat × List Byte)) (s : State) : Host.Outcome State Fault Refusal :=
  let x := s.ldg
  if x.busy.isSome || !s.powered cr0 .ldg then .next s
  else if x.wait != [] then .next (s.startCommit bad)
  else if x.pfAt == 0 || s.ldgState != 3 || s.ldgNext.isSome then .next s
  else if s.partialDue then
    let s1 := s.closeAt (x.pfAt - 1) 8 0
    .next (({ s1 with ldg := { s1.ldg with pfPart := true } }).startCommit bad)
  else .next (s.setLdgState 4)

/-- `INTERVAL_COMMIT_DONE` (R340, R344, R346): after the write time the control record is written and the commit is
complete; after a power fail it carries POWER_FAIL and RC 0x7001 is logged. `bad` is what the FRAM holds where its read-back
fails twice. -/
def execIntervalCommitDone (bad : Option (List Byte)) (s : State) : Host.Outcome State Fault Refusal :=
  let x := s.ldg
  match x.busy with
  | none => .next s
  | some c =>
    if s.time < x.busyAt + writeBeats (blocksOf c.count) s.ldgSclk then .next s
    else
      let pf := x.pfAt != 0
      let s1 := s.framPut (intAddr (x.seq % 2) 0) (controlRec { c with flags := c.flags + 4 * b2n pf } x.seq) bad
      let s2 := ({ s1 with ldg := { s1.ldg with busy := none, out := some (x.seq, blocksOf c.count) } }).setF cr0 .ldg 0
        Reg.LDG_SEQ x.seq
      .next (if pf then s2.log cr0 .ldg 0 0x7001 (leBytes 4 x.seq) else s2)

/-- The table image (R343). -/
def State.tableImage (s : State) : List Byte :=
  ([0, 1, 2, 3].map fun sp => ((List.range (ldgSize sp)).map fun i => leBytes (ldgBytes sp) (s.ldgRec sp i)).flatten).flatten

/-- `TABLE_IMAGE_WRITE` (R343, R344): with no commit in hand, the table image is written to the region of the next TSEQ. -/
def execTableImageWrite (bad : List (Nat × List Byte)) (s : State) : Host.Outcome State Fault Refusal :=
  let x := s.ldg
  if !x.tabDirty || x.busy.isSome || x.wait != [] || x.pfAt != 0 || s.ldgState == 0 || !s.powered cr0 .ldg then .next s
  else
    let t := x.tseq + 1
    let img := s.tableImage
    let s1 := (List.range 259).foldl (fun u k =>
      u.framPut (tabAddr (t % 2) k) (record128 ([3, 0] ++ leBytes 2 k ++ leBytes 4 t ++ (img.drop (112 * k)).take 112)) (badOf bad k)) s
    .next { s1 with ldg := { s1.ldg with tabDirty := false, tseq := t } }

/-- `LEDGER_OUTPUT_COPY` (R347): the records of the last commit are copied into the output area. -/
def execLedgerOutputCopy (s : State) : Host.Outcome State Fault Refusal :=
  match s.ldg.out with
  | none => .next s
  | some (seq, blocks) =>
    let l := framBytes s.fram (intAddr (seq % 2) 0) (128 * (blocks + 1))
    let pa := chipPa cr0 (64 * s.getF cr0 .ldg 0 Reg.LDG_OUT_AREA_AREA)
    .next (({ s with ldg := { s.ldg with out := none } }).localWrite cr0 pa l false)

/-! ### Start and end (R337, R344, R345) -/

/-- The control record to use: the higher SEQ, or the other slot where that is torn; whether one was torn (R345). -/
def pickControl (f : List Host.Cell) : Option (List Byte) × Bool :=
  let a := framBytes f (intAddr 0 0) 128
  let b := framBytes f (intAddr 1 0) 128
  let have_ (l : List Byte) : Bool := by8 l 0 == 1
  let seq (l : List Byte) : Nat := leNat ((l.drop 4).take 4)
  let order := ([a, b].filter have_)
  let sorted := match order with
    | [x, y] => if seq x < seq y then [y, x] else [x, y]
    | l => l
  match sorted with
  | [] => (none, false)
  | x :: t => if recOk x then (some x, false) else (t.find? recOk, true)

/-- The image bytes of a table region where it is whole, and its TSEQ. -/
def wholeTable (f : List Host.Cell) (region : Nat) : Option (Nat × List Byte) :=
  let recs := (List.range 259).map fun k => framBytes f (tabAddr region k) 128
  let t := leNat (((recs.getD 0 []).drop 4).take 4)
  if (List.range 259).all fun k =>
      let l := recs.getD k []
      recOk l && by8 l 0 == 3 && leNat ((l.drop 2).take 2) == k && leNat ((l.drop 4).take 4) == t
  then some (t, (recs.map fun l => (l.drop 8).take 112).flatten) else none

/-- Whether a table region holds the beginning of an image, and its TSEQ. -/
def someTable (f : List Host.Cell) (region : Nat) : Option Nat :=
  let l := framBytes f (tabAddr region 0) 128
  if by8 l 0 == 3 then some (leNat ((l.drop 4).take 4)) else none

/-- The table image to use, and whether a newer one was torn (R345). -/
def pickTable (f : List Host.Cell) : Option (Nat × List Byte) × Bool :=
  let best := match wholeTable f 0, wholeTable f 1 with
    | some a, some b => some (if a.1 < b.1 then b else a)
    | some a, none => some a
    | none, b => b
  let newest := match someTable f 0, someTable f 1 with
    | some a, some b => some (max a b)
    | some a, none => some a
    | none, b => b
  (best, match newest, best with
    | some n, some b => decide (b.1 < n)
    | some _, none => true
    | none, _ => false)

/-- Take the tables of an image. -/
def State.takeTables (s : State) (img : List Byte) : State :=
  let off (sp : Nat) : Nat := match sp with
    | 0 => 0 | 1 => 12288 | 2 => 12416 | _ => 12544
  [0, 1, 2, 3].foldl (fun t sp =>
    (List.range (ldgSize sp)).foldl (fun u i =>
      u.setLdgRec sp i (leNat ((img.drop (off sp + ldgBytes sp * i)).take (ldgBytes sp)))) t) s

/-- Report a torn record. -/
def State.torn (s : State) : State := (s.log cr0 .ldg 0 0x7002).setF cr0 .ldg 0 Reg.LDG_STATUS_TORN 1

/-- Take up the commit that the control record `l` names; a block record of it that is not whole is a torn commit. -/
def State.takeControl (s : State) (l : List Byte) : State :=
  let seq := leNat ((l.drop 4).take 4)
  let blocks := leNat ((l.drop 2).take 2)
  let lost := (List.range blocks).filter fun j =>
    let b := framBytes s.fram (intAddr (seq % 2) (j + 1)) 128
    !(recOk b && by8 b 0 == 2 && leNat ((b.drop 4).take 4) == seq)
  let t := lost.foldl (fun (u : State) _ => u.torn) s
  ({ t with ldg := { t.ldg with seq := seq, out := some (seq, blocks) } }).setF cr0 .ldg 0 Reg.LDG_SEQ seq

/-- Take up the table image `img` with sequence `t`. -/
def State.takeTableImage (s : State) (t : Nat) (img : List Byte) : State :=
  let u := s.takeTables img
  { u with ldg := { u.ldg with tseq := t } }

/-- The state with the tables of the image that the FRAM holds, if it holds one (R345). -/
def State.ldgTaken (s : State) : State :=
  match (pickTable s.fram).1 with
  | none => s
  | some (n, img) => s.takeTableImage n img

/-- The test record is written; what it holds is a free value, and what the FRAM holds where it reads back otherwise is too (R344). -/
def State.testFram (s : State) (ok : Bool) : State :=
  let (v, t) := s.draw 1024
  { t with fram := memPut t.fram 0x7FF80 (if ok then record128 (leBytes 124 v) else leBytes 128 v) }

/-- What the enable of the ledger does once its checks have passed (R337, R344, R345). -/
def State.ldgStart (s0 : State) : State :=
  let s := s0.testFram true
  let c := pickControl s.fram
  let s0 := if c.2 then s.torn else s
  let s1 := match c.1 with
    | none => s0
    | some l => s0.takeControl l
  let s2 := if (pickTable s.fram).2 then s1.torn else s1
  let s3 := s2.ldgTaken
  ({ s3 with ldg := { s3.ldg with enAt := s3.beat cr0 } }).setLdgState 1

/-- What a clear of the ledger's enable does (R337): the open interval closes at this beat, marked PARTIAL_END. -/
def State.ldgStop (s : State) : State :=
  let s1 := if s.ldgState == 2 then s.closeAt (max s.ldgNow s.ldg.upTo) 8 0 else s
  (s1.setLdgState 0).setF cr0 .ldg 0 Reg.LDG_STATUS_HOLDOVER 0

/-! ### The table port (R339, R505) -/

/-- The selection of the port. -/
def State.ldgSpace (s : State) : Nat := s.getF cr0 .ldg 0 Reg.LDG_TBL_SPACE_SPACE
def State.ldgIndex (s : State) : Nat := s.getF cr0 .ldg 0 Reg.LDG_TBL_INDEX_INDEX

/-- The state after a read of word 0 of the port. -/
def State.ldgLoad (s : State) : State :=
  let sp := s.ldgSpace
  let i := s.ldgIndex
  let (n, v) := if sp < 4 then (4, if i < ldgSize sp then s.ldgRec sp i else 0)
    else (32, leNat s.ldg.buf)
  (List.range n).foldl (fun t j => t.setF cr0 .ldg 0 Reg.LDG_TBL_DATA_DATA (v / 2 ^ (32 * j)) (4 * j)) s

/-- `LDG_TABLE_READ` (R339, R505): a read of word 0 of the ledger table port loads the record selected. -/
def execLdgTableRead (p : Path) (s : State) : Host.Outcome State Fault Refusal :=
  match s.deadRead p cr0 .ldg with
  | some a => .next (a.2.putRd p a.1)
  | none => let s1 := s.ldgLoad; .next (s1.putRd p (s1.getF cr0 .ldg 0 Reg.LDG_TBL_DATA_DATA 0))

/-- A write of INDEX: in spaces 4 to 7 it starts the FRAM read of a record; beyond a space nothing is selected (R505). -/
def State.ldgIndexWrite (s : State) (w : Nat) : State :=
  let s1 := s.setF cr0 .ldg 0 Reg.LDG_TBL_INDEX_INDEX w
  let sp := s1.ldgSpace
  let i := s1.ldgIndex
  if sp < 4 then s1
  else if (if sp < 6 then 684 else 259) ≤ i then { s1 with ldg := { s1.ldg with rd := none, buf := [] } }
  else ({ s1 with ldg := { s1.ldg with rd := some (sp, i) } }).setF cr0 .ldg 0 Reg.LDG_TBL_SPACE_BUSY 1

/-- `LDG_FRAM_READ_START` (R339, R505): a write to `LDG` INDEX. -/
def execLdgFramReadStart (w : Word) (s : State) : Host.Outcome State Fault Refusal :=
  if s.powered cr0 .ldg then .next (s.ldgIndexWrite w.toNat) else .next s

/-- `LDG_FRAM_READ_DONE` (R339): the record read from the FRAM becomes readable. -/
def execLdgFramReadDone (s : State) : Host.Outcome State Fault Refusal :=
  match s.ldg.rd with
  | none => .next s
  | some (sp, i) =>
    let a := if sp < 6 then intAddr (sp - 4) i else tabAddr (sp - 6) i
    .next (({ s with ldg := { s.ldg with rd := none, buf := framBytes s.fram a 128 } }).setF cr0 .ldg 0 Reg.LDG_TBL_SPACE_BUSY 0)

/-! ### Switching off (R367, R368) -/

/-- `THERMAL_SHUTDOWN` (R367): within a frame of a trip notice, CR0 switches off every switched domain but its CRF, and the
ledger closes its interval as for a clear of its enable. -/
def execThermalShutdown (s : State) : Host.Outcome State Fault Refusal :=
  let tripped := s.dieList.any fun d => s.isF d .thm 0 Reg.THM_STATUS_TRIP
  if s.isF cr0 .pwr 0 Reg.PWR_STATUS_THSD || !tripped then .next s
  else
    let s1 := (s.setF cr0 .pwr 0 Reg.PWR_STATUS_THSD 1).allOffBut [crf0]
    .next (if s1.enabled .ldg cr0 then (s1.setF cr0 .ldg 0 Reg.LDG_CTL_ENABLE 0).ldgStop else s1)

/-- `LEDGER_HALTED_CRF_OFF` (R367, R368): when the ledger has halted after a power fail, or has nothing left to write after
a thermal shutdown, CR0 switches off its CRF. -/
def execLedgerHaltedCrfOff (s : State) : Host.Outcome State Fault Refusal :=
  let idle := s.ldg.busy.isNone && s.ldg.wait == []
  let halted := s.ldgState == 4 || (s.ldgState == 0 && idle)
  if halted && (s.isF cr0 .pwr 0 Reg.PWR_STATUS_PF || s.isF cr0 .pwr 0 Reg.PWR_STATUS_THSD) then .next (s.allOffBut [])
  else .next s

end Sys2Proof.Machine
end

