-- ==== Sys2Proof/Machine/Check.lean ====
section
/-! DEFINITION. The checks that image load, an enable and an arm share: gear-train banks and the hack window (R158 to R160,
R183), fusion tables and parameters (R302, R303, R325, R327), ledger tables (R328, R331, R333), calibration budgets
(R116). -/

namespace Sys2Proof.Machine

/-- The first refusal of a list. -/
def firstOf (l : List (Bool × Nat)) : Option Nat := (l.find? (·.1)).map (·.2)

/-! ### Gear-train banks (R158, R183) -/

/-- Every tray port of the variant. -/
def State.trayPorts (s : State) : List (Fin 8) := (List.finRange 8).filter fun n => s.hasDie (.cr (trayCrown n))

/-- Every link end of the variant. -/
def State.allEnds (s : State) : List LinkEnd := s.dieList.flatMap s.ends ++ s.trayPorts.map LinkEnd.tray

/-- Every schedule table of the variant: a link end and a direction. -/
def State.schedTables (s : State) : List (LinkEnd × Nat) := s.allEnds.flatMap fun e => [(e, 0), (e, 1)]

/-- The last slot a run may cover. -/
def lastSlotOf (e : LinkEnd) : Nat := if isTray e then 999 else 1023

/-- Fields of an entry (R154). -/
def eKind (r : Nat) : Nat := eField r 0 0 3
def eCad (r : Nat) : Nat := eField r 0 4 4
def eStart (r : Nat) : Nat := eField r 0 8 10
def eLen (r : Nat) : Nat := eField r 0 18 10 + 1
def eMask (r : Nat) : Nat := eField r 1 0 16
def eTag (r : Nat) : Nat := eField r 1 16 14
def eFoff (r : Nat) : Nat := eField r 2 0 24
def eFrames (r : Nat) : Nat := eField r 2 24 8 + 1
def eRpt (r : Nat) : Nat := eField r 3 0 4

/-- The provided variants of a table with their entries. -/
def State.ranges (s : State) (e : LinkEnd) (bank dir : Nat) : List (Nat × List Nat) :=
  ((List.range 8).filter fun v => provided (s.varRec e bank dir v) v).map fun v => (v, s.range e bank dir v)

/-- A range, entry or cadence out of range. -/
def State.entryBad (s : State) (e : LinkEnd) (bank : Nat) (r : Nat) : Bool :=
  let cad := s.cadence (leDie e) bank (eCad r)
  decide (4 ≤ eKind r) || decide (lastSlotOf e < eStart r + 64 * eRpt r + eLen r - 1) || decide (cad.1 < eFoff r + eFrames r) ||
    decide (cad.1 ≤ cad.2)

/-- A range that passes entry 8,191. -/
def State.rangeBad (s : State) (e : LinkEnd) (bank dir v : Nat) : Bool :=
  let r := s.varRec e bank dir v
  decide (8192 < bitsOf r 0 13 + bitsOf r 16 14)

/-- A reserved bit set in a table record, by its space: entries, variant records, cadences, transfers. Bits that a layout does not
name are taken as reserved: words 2 and 3 of a cadence, bits 31:16 of word 2 and word 3 of a variant record
(log entry 158, DESIGN CHOICE). -/
def recReserved (space r : Nat) : Bool :=
  match space with
  | 0 | 4 => bit r 3 || bitsOf r 28 4 != 0 || bitsOf r 62 2 != 0 || bitsOf r 100 28 != 0
  | 1 => bitsOf r 13 3 != 0 || bit r 30 || bitsOf r 80 16 != 0 || bitsOf r 96 32 != 0
  | 5 => bitsOf r 13 3 != 0 || bit r 30 || bitsOf r 64 64 != 0
  | 2 => bitsOf r 64 64 != 0
  | 3 => bitsOf r 6 2 != 0 || bitsOf r 80 16 != 0 || bitsOf r 96 32 != 0
  | _ => false

/-- Space and bank of a table key. -/
def keySpace (k : Nat) : Nat := k / 2 ^ 25
def keyBank (k : Nat) : Nat := k / 2 ^ 21 % 2

/-- Slots of an entry in a group of 64, REPAIR slots left out. -/
def slotsIn (r g : Nat) : Nat :=
  ((List.range (eRpt r + 1)).map fun j =>
    let a := eStart r + 64 * j
    min (a + eLen r) (64 * g + 63) - max a (64 * g)).sum

/-- Whether two entries share a slot outside the REPAIR slots. -/
def shareSlot (a b : Nat) : Bool :=
  (List.range (eRpt a + 1)).any fun i => (List.range (eRpt b + 1)).any fun j =>
    let x := eStart a + 64 * i
    let y := eStart b + 64 * j
    decide (x < y + eLen b ∧ y < x + eLen a)

/-- Whether two entries may be active in one frame: not when they use one cadence and disjoint frames. -/
def shareFrame (a b : Nat) : Bool :=
  eCad a != eCad b || decide (eFoff a < eFoff b + eFrames b ∧ eFoff b < eFoff a + eFrames a)

/-- Whether some two entries of a list clash. -/
def anyClash : List Nat → Bool
  | [] => false
  | a :: t => t.any (fun b => Nat.land (eMask a) (eMask b) != 0 && shareSlot a b && shareFrame a b) || anyClash t

/-- The greatest total of `f` over the entries of one cadence active in one frame: totals change only where an entry
begins. -/
def peak (f : Nat → Nat) (rs : List Nat) : Nat :=
  (rs.map fun a => ((rs.filter fun b => decide (eFoff b ≤ eFoff a ∧ eFoff a < eFoff b + eFrames b)).map f).sum).foldl max 0

/-- A count per frame taken conservatively: the greatest of each cadence, added over the cadences. -/
def perFrame (f : Nat → Nat) (rs : List Nat) : Nat :=
  ((List.range 16).map fun c => peak f (rs.filter fun r => eCad r == c)).sum

/-- Some bundle has too many SC slots per frame. -/
def scHeavy (e : LinkEnd) (rs : List Nat) : Bool :=
  rs != [] && (List.range (nBundles e)).any fun b =>
    decide ((if isTray e then 750 else 768) <
      perFrame (fun r => coveredBelow r 1024) (rs.filter fun r => eKind r == 2 && bit (eMask r) b))

/-- Some bundle has fewer than 8 UC slots in a group of slots. -/
def ucLight (e : LinkEnd) (rs : List Nat) : Bool :=
  rs != [] && (List.range (nBundles e)).any fun b => (List.range 16).any fun g =>
    let size := if isTray e && g == 15 then 40 else 63
    decide (size < 8 + perFrame (fun r => slotsIn r g) (rs.filter fun r => eKind r != 1 && bit (eMask r) b))

/-- Bundles a variant keeps on a link end. -/
def State.keeps (s : State) (e : LinkEnd) (bank dir v : Nat) : Nat :=
  if isTray e then 1 else nBundles e - lossMax (s.varRec e bank dir v) v (linkCode e)

/-- The SC entries of a bank on a die: their tag, cadence and direction. -/
def State.scTags (s : State) (d : Die) (bank : Nat) : List (Nat × Nat × Nat × LinkEnd) :=
  ((s.schedTables.filter fun t => leDie t.1 == d).flatMap fun t =>
    (s.ranges t.1 bank t.2).flatMap fun v => (v.2.filter fun r => eKind r == 2).map fun r => (eTag r, eCad r, t.2, t.1))

/-- A tag of a die used with two cadences, in two tables, or without its transfer record. -/
def State.tagBad (s : State) (d : Die) (bank : Nat) : Bool :=
  let l := s.scTags d bank
  l.any fun t =>
    let x := s.transfer d bank t.1
    xferGran x == 0 || xferDir x != t.2.2.1 ||
      l.any fun u => u.1 == t.1 && (u.2.1 != t.2.1 || u.2.2.1 != t.2.2.1 || u.2.2.2 != t.2.2.2)

/-- What variant records must give alike in every table of the package: VALID and `LOSSMAX`, of variant 0 too. -/
def State.varSig (s : State) (e : LinkEnd) (bank dir : Nat) : List (Bool × Nat) :=
  (List.range 8).map fun v => let r := s.varRec e bank dir v; (bit r 31, bitsOf r 32 48)

/-- The loss limits of a variant leave a link in service: an Ikiper link of which it keeps a bundle, a tray port whose cable it does
not list (R161, R208). -/
def State.leaves (s : State) (e : LinkEnd) (bank dir v : Nat) : Bool :=
  match e with
  | .tray n => !listsCable (s.varRec e bank dir v) (s.cableBit n)
  | .ikl _ _ => decide (0 < s.keeps e bank dir v)

/-- A provided variant with no entries on a link that variant 0 schedules and that the variant leaves in service. -/
def State.emptyBad (s : State) (t : LinkEnd × Nat) (bank : Nat) : Bool :=
  (s.range t.1 bank t.2 0) != [] && (s.ranges t.1 bank t.2).any fun v =>
    v.1 != 0 && v.2 == [] && s.leaves t.1 bank t.2 v.1

/-- A record of a bank stands in a table of a die, link or port that the variant lacks (R29, R158). -/
def State.tableAbsent (s : State) (bank : Nat) : Bool :=
  s.tables.any fun p =>
    let sp := keySpace p.1
    let slot := p.1 / 131072 % 8
    decide (sp < 6) && keyBank p.1 == bank && p.2 != 0 &&
      match dieOfCode (p.1 / 2 ^ 22 % 8) with
      | none => true
      | some d => !s.hasDie d ||
        (if sp < 2 then !(s.ends d).contains (.ikl d (Fin.ofNat 4 slot)) || decide (4 ≤ slot)
         else if 4 ≤ sp then (match d with | .mv _ => true | .cr _ => decide (4 ≤ slot))
         else false)

/-- The checks of R158 on one bank, with R183's replacements for tray ports: the first failing one's code. -/
def State.bankCheck (s : State) (bank : Nat) : Option Nat :=
  let ts := s.schedTables.filter fun t => isTray t.1 || s.linkNamed (linkCode t.1)
  let all (p : LinkEnd → Nat → Nat → List Nat → Bool) : Bool :=
    ts.any fun t => (s.ranges t.1 bank t.2).any fun v => p t.1 t.2 v.1 v.2
  let sigs := (ts.filter fun t => !isTray t.1).map fun t => s.varSig t.1 bank t.2
  firstOf [
    (all fun e dir v rs => rs.any (s.entryBad e bank) || s.rangeBad e bank dir v, 0x1001),
    (s.tables.any fun p => decide (keySpace p.1 < 6) && keyBank p.1 == bank && recReserved (keySpace p.1) p.2, 0x1002),
    (all fun _ _ _ rs => anyClash rs, 0x1001),
    (s.dieList.any fun d => s.tagBad d bank, 0x1001),
    (sigs.any fun g => g != sigs.headD g, 0x1001),
    (all fun e dir v rs => rs.any fun r => decide (2 ^ s.keeps e bank dir v ≤ eMask r), 0x1001),
    (all fun e _ _ rs => scHeavy e rs, 0x4001),
    (all fun e _ _ rs => ucLight e rs, 0x1001),
    (s.tableAbsent bank, 0x4005),
    (ts.any fun t => s.emptyBad t bank, 0x1001)]

/-- The frames of an SC entry avoid a hack window and the frame before it (R159). -/
def State.avoids (s : State) (d : Die) (bank r start len : Nat) : Bool :=
  let cad := s.cadence d bank (eCad r)
  cad.1 % 1024 == 0 && cad.1 != 0 && (List.range (eFrames r)).all fun i =>
    let f := (cad.2 + eFoff r + i) % 1024
    (List.range (len + 1)).all fun j => f != (start + 1023 + j) % 1024

/-- The check of R159 on one bank. -/
def State.hackCheck (s : State) (bank start len : Nat) : Option Nat :=
  if len == 0 then none
  else if 1016 < start + len then some 0x1001
  else if s.schedTables.all fun t => (s.ranges t.1 bank t.2).all fun v => v.2.all fun r =>
      eKind r != 2 || s.avoids (leDie t.1) bank r start len
    then none else some 0x1001

/-- The checks of R158 and R159 on both banks. -/
def State.banksCheck (s : State) (start len : Nat) : Option Nat :=
  [s.bankCheck 0, s.bankCheck 1, s.hackCheck 0 start len, s.hackCheck 1 start len].findSome? id

/-- Whether any bank or variant schedules SC traffic on a link end (R86, R151, R437). -/
def State.scOnLink (s : State) (e : LinkEnd) : Bool :=
  [0, 1].any fun bank => [0, 1].any fun dir => (s.ranges e bank dir).any fun v => v.2.any fun r => eKind r == 2

/-! ### Calibration budgets (R99, R116) -/

/-- Whether the times of R99 hold with a dwell and test lengths, seeds rejected included. -/
def calBudgetOk (fp : Bool) (dwell full seeded : Nat) : Bool :=
  let point := 2 ^ dwell * frameBeats
  let fix := if fp then 1920000 else 5120000
  let quick := fix + (if fp then 34 else 47) * point + seeded * turnBeats
  decide (quick ≤ (if fp then 3 else 6) * msBeats ∧
    quick + (if fp then 128 else 768) * point + full * turnBeats ≤ (if fp then 18 else 35) * msBeats)

/-- Whether a lane map is one R117 accepts beside the fused one: targets are lanes or none, no lane is named twice, no unusable
jewel is assigned, every lane the fused map replaces is replaced. -/
def mapOk (e : LinkEnd) (m fuse : LaneMap) : Bool :=
  let none_ := noTgt e
  let tgt (t : Nat) : Bool := decide (t < nMain e) || t == none_
  tgt m.t0 && tgt m.t1 && !(m.t0 == m.t1 && m.t0 != none_) && !(m.bad0 && m.t0 != none_) && !(m.bad1 && m.t1 != none_) &&
    [fuse.t0, fuse.t1].all fun t => t == none_ || t == m.t0 || t == m.t1

/-- The receive maps of every bundle of a link end are acceptable. -/
def State.mapsOk (s : State) (e : LinkEnd) : Bool :=
  (List.range (nBundles e)).all fun b => mapOk e (s.rxMap e b) (s.fuseMap e b)

/-! ### Fusion (R302, R303, R325, R327) -/

/-- A group record is within its ranges, and its correction ends by its release (R303, R310). -/
def gRangeOk (r : Nat) : Bool :=
  !gValid r || decide (1000 ≤ gPeriod r ∧ gPeriod r ≤ 3600000000 ∧ 1000 ≤ gWait r ∧ gWait r ≤ 500000 ∧ 2 * gTol r ≤ gPeriod r ∧
    1 ≤ gCorr r ∧ gPhCount r ≤ 262144 ∧ ceilDiv (gPhCount r) 64 + ceilDiv (gScCount r) 256 ≤ gCorr r * 2048)

/-- The groups of a Crown die. -/
def State.grpRecs (s : State) (c : Crown) : List Nat := (List.range 16).map (s.grpRec c)

/-- Every mapped stream's channels lie within its group's owned ranges (R304). -/
def State.streamsOwned (s : State) (c : Crown) : Bool :=
  (s.tblIdx 11 (fusDie c)).all fun i =>
    let m := s.mapRec c i
    !mValid m ||
      let g := s.grpRec c (mGroup m)
      let r := s.streamEnt c i
      let inSc (a n : Nat) : Bool := decide (gScBase g ≤ a ∧ a + n ≤ gScBase g + gScCount g)
      if sTmf r then inSc (sFirst r) (sChans r)
      else decide (gPhBase g ≤ sFirst r ∧ sFirst r + sPhn r ≤ gPhBase g + gPhCount g) && inSc (mScFirst m) (2 + sAnn r + sDgn r)

/-- A mark of the decimals of R327's ranges as FP32 holds them; both bounds belong to the range. -/
def fpIn (v lo hi : Nat) : Bool := !fpIsNan v && !fpIsInf v && fpLe lo v && fpLe v hi

/-- The expert parameters and their ranges, in FP32 (log entry 64, DEDUCED). -/
def fusRanges : List (Fld × Nat × Nat) :=
  [(Reg.FUS_PAR_LAMBDA, 0x3F666666, 0x3F800000), (Reg.FUS_PAR_P0, 0x358637BD, 0x3F800000), (Reg.FUS_PAR_RATE_MAG, 0, 0x3C23D70A),
   (Reg.FUS_PAR_RATE_PH, 0, 0x3C23D70A), (Reg.FUS_PAR_B_MAG, 0, 0x3F000000), (Reg.FUS_PAR_B_PH, 0, 0x3F060AA6),
   (Reg.FUS_PAR_BETA, 0x3F000000, 0x3F7FF972), (Reg.FUS_PAR_GATE, 0x3F800000, 0x461C4000), (Reg.FUS_PAR_W_S, 0, 0x461C4000),
   (Reg.FUS_PAR_EPS, 0x358637BD, 0x3F800000), (Reg.FUS_PAR_Q_F, 0, 0x41200000), (Reg.FUS_PAR_Q_Z, 0, 0x3F800000),
   (Reg.FUS_PAR_PR_F, 0, 0x41200000), (Reg.FUS_PAR_PR_Z, 0, 0x3F800000)]

/-- The parameters that govern are within their ranges (R327). -/
def State.fusParsOk (s : State) (c : Crown) : Bool :=
  !s.isF (.cr c) .fus 0 Reg.FUS_CTL_EXPERT ||
    (fusRanges.all (fun p => fpIn (s.getF (.cr c) .fus 0 p.1) p.2.1 p.2.2) &&
      decide (256 ≤ s.getF (.cr c) .fus 0 Reg.FUS_MODE_CFG_ITER_MAX ∧ s.getF (.cr c) .fus 0 Reg.FUS_MODE_CFG_ITER_MAX ≤ 32768) &&
      decide (1 ≤ s.getF (.cr c) .fus 0 Reg.FUS_MODE_CFG_CONFIRM_N) && decide (1 ≤ s.getF (.cr c) .fus 0 Reg.FUS_MODE_CFG_COAST_N))

/-- The landing areas that the loaded image reserves on a Crown die. -/
def State.imgLanding (s : State) (c : Crown) : List (Nat × Nat) :=
  match s.boot.image with
  | some i => (i.landing.filter fun a => a.1 == c).map (·.2)
  | none => []

/-- The sum of R325 with the tables and parameters as they stand. -/
def State.fusTotal (s : State) (c : Crown) : Nat × Bool :=
  s.fusBudget c (s.grpRecs c) (s.getF (.cr c) .fus 0 Reg.FUS_TRK_AREA_AREA) (s.imgLanding c)

/-- The check of R325, with the records' own (R303, R304): the failing one's code. -/
def State.fusCheck (s : State) (c : Crown) : Option Nat :=
  let t := s.fusTotal c
  firstOf [
    (!((s.grpRecs c).all gReservedOk && (s.tblIdx 11 (fusDie c)).all fun i => mReservedOk (s.mapRec c i)), 0x1002),
    (!(s.grpRecs c).all gRangeOk || !s.streamsOwned c, 0x1001),
    (decide (25165824 < t.1) || t.2, 0x1001)]

/-! ### Ledger tables (R328, R330, R331, R333) -/

/-- Every valid schedule is well formed, every valid account bound to a valid schedule. -/
def State.ldgTablesOk (s : State) : Bool :=
  (List.range 16).all (fun i => let h := s.ldgRec 1 i; !hValid h || schedOk h fun k => s.ldgRec 0 (96 * i + k)) &&
    s.validAccts.all fun i => hValid (s.ldgRec 1 (aSched (s.ldgRec 3 i)))

/-- The check of one pending change at its arm, against TAI at the commit turn. -/
def State.changeCheck (s : State) (r turn : Nat) : Option Nat :=
  if !kValid r then none
  else firstOf [
    (!s.isF cr0 .bal 0 Reg.BAL_STATUS_TAI_VALID, 0x1003),
    (decide (kTime r ≤ taiAt s.cr0Map (turn * turnBeats)), 0x7003),
    (!hValid (s.ldgRec 1 (kSource r)) || s.validAccts.any (fun i => aSched (s.ldgRec 3 i) == kSource r) || kSource r == kTarget r,
     0x1001)]

end Sys2Proof.Machine
end

