-- ==== Sys2Proof/Machine/Enable.lean ====
section
/-! DEFINITION. Enabling and disabling a function: the ordered check of R418, its refusal (R419) and what an enable sets
off (R415 to R423). -/

namespace Sys2Proof.Machine

/-! ### A function's registers -/

/-- Whether a function has an instance of a number on a die of the package's plan. -/
def fnOn (fn : Fn) (d : Die) (inst : Nat) : Bool := (dieBlocks d).any (fun bi => bi.1 == (fnRegs fn).blk && bi.2 == inst) &&
  (match d, fn with
   | .mv _, .pad | .mv _, .bal => false
   | .cr c, .bal => c == 0
   | _, _ => true)

/-- Whether the variant contains an instance of a block (R9, R18). -/
def State.hasInst (s : State) (d : Die) (b : Blk) (inst : Nat) : Bool :=
  s.hasDie d && (b != .ikl || match farEnd (.ikl d (Fin.ofNat 4 inst)) with
    | some f => s.hasDie (leDie f)
    | none => false)

/-- Whether a register offset of a function's block belongs to the function: `IKL` holds three functions, a tray port two,
`CFG` the pads (R418). -/
def fnOwns (fn : Fn) (off : Nat) : Bool :=
  match fn with
  | .phy => decide (off < 0x20)
  | .cal => decide (0x20 ≤ off ∧ off < 0x80)
  | .ll => decide (0x80 ≤ off ∧ off < 0x100)
  | .portLl => decide (0x80 ≤ off ∧ off < 0x100)
  | .port => decide (off < 0x80)
  | .pad => off == 0x300
  | _ => true

/-- The fields of access LCK that a function's enable gates, with their values' keys. -/
def lckFlds (fn : Fn) : List Fld :=
  (blkRows (fnRegs fn).blk).flatMap fun r => if fnOwns fn r.off then r.flds.filter fun f => f.acc == .lck else []

/-- Whether a field is one of the class B settings (R422). -/
def isClassB (b : Blk) (f : Fld) : Bool :=
  match b with
  | .ikl => f.off == Reg.IKL_LANEMAP_J0_TGT.off
  | .trayPort => f.off == Reg.TRYP_LANEMAP_SPARE_TGT.off || decide (f = Reg.TRYP_LAT_LAT_BUDGET)
  | .pwr => decide (f.off ∈ [Reg.PWR_ADM_WAIT_LIMIT.off, Reg.PWR_TOKEN_MATRIX.off, Reg.PWR_FLOOR_MV_FLOOR.off])
  | .thm => f.off == Reg.THM_LIMIT_THROT_C.off
  | .pci => decide (f = Reg.PCI_CTL_RD_LIMIT)
  | .ethPort => decide (f = Reg.ETHP_CTL_MAX_FRAME)
  | .ptp => decide (f = Reg.PTP_CTL_DOMAIN)
  | .gtr => f.off == Reg.GTR_ARB_MSG_N.off
  | _ => false

/-- The package is LOADING or in RUN (R423). -/
def State.underLoad (s : State) : Bool := s.phase == 9 || s.phase == 10

/-- Some LCK field of the function differs from the value in effect when its enable was last cleared (R423)
(log entry 65, DEDUCED). -/
def State.lckChanged (s : State) (fn : Fn) (d : Die) (inst : Nat) : Bool :=
  (lckFlds fn).any fun f =>
    let b := (fnRegs fn).blk
    let was := Tab.get 0 s.inForce (fkey d b inst f 0)
    was != 0 && was != s.getF d b inst f + 1

/-- Some reserved bit of the function's registers is not zero (R6, R418). -/
def State.reservedSet (s : State) (fn : Fn) (d : Die) (inst : Nat) : Bool :=
  s.resv.any fun p => match findPlace p.1 with
    | some q => q.die == d && q.blk == (fnRegs fn).blk && q.inst == inst && (fn != .pad || decide (q.row.off ∈ [0x300, 0x304]))
    | none => false

/-! ### Ranges (check 3) and resources (check 2) of each function -/

/-- Whether the expert fields of a block govern. -/
def State.xp (s : State) (d : Die) (b : Blk) (inst : Nat) (f : Fld) : Bool := s.isF d b inst f

/-- A field lies within a range. -/
def State.within (s : State) (d : Die) (b : Blk) (inst : Nat) (f : Fld) (lo hi : Nat) : Bool :=
  decide (lo ≤ s.getF d b inst f ∧ s.getF d b inst f ≤ hi)

/-- The reference that `BAL` selects: 0 crystal, 1 `PREF_IN` (R58, R378). -/
def State.balSrc (s : State) : Nat :=
  if s.isF cr0 .bal 0 Reg.BAL_CTL_EXPERT then s.getF cr0 .bal 0 Reg.BAL_REF_SRC else s.balProfile % 2

/-- Packages that the topology declares, this one with them. -/
def State.declared (s : State) : List Nat :=
  (List.range 16).filter fun p => p == s.pkgId || s.topo.any fun c => c.1 == p || c.2.2.1 == p

/-- The parameters of `RCV` are within their ranges (R468, R469). -/
def State.rcvOk (s : State) : Bool :=
  s.getF cr0 .rcv 0 Reg.RCV_CTL_PROFILE == 0 && (!s.rcvExpert ||
    (s.within cr0 .rcv 0 Reg.RCV_OOSCFG_CHIP_MAX 1 15 && s.within cr0 .rcv 0 Reg.RCV_OOSCFG_WIN_S 60 86400 &&
      decide (s.getF cr0 .rcv 0 Reg.RCV_PARAM_SAMPLE_KIB ∈ [0, 4, 8, 16, 32, 64]) &&
      s.within cr0 .rcv 0 Reg.RCV_PARAM_REPLAY_LIM 1 255 && s.within cr0 .rcv 0 Reg.RCV_PARAM_CTX_REPEAT 1 15))

/-- Every field of a function lies within the range its chapter states. Expert fields count while `EXPERT` is set. -/
def State.rangesOk (s : State) (fn : Fn) (d : Die) (i : Nat) : Bool :=
  let b := (fnRegs fn).blk
  let w := s.within d b i
  let xp (f : Fld) : Bool := s.isF d b i f
  match fn with
  | .pad => w Reg.CFG_PAD_CTL_PROFILE 0 1 && (!xp Reg.CFG_PAD_CTL_EXPERT || (w Reg.CFG_PAD_CTL_FL_DRV 0 2 && w Reg.CFG_PAD_CTL_LD_DRV 0 2))
  | .bal => w Reg.BAL_CTL_PROFILE 0 3 && s.balSrc == s.getF cr0 .boot 0 Reg.BOOT_STRAP_REF_SEL &&
      (s.balProfile < 2 || s.topo == [] || s.declared.all fun p => decide (hopsTo s.topo (s.getF cr0 .bal 0 Reg.BAL_CTL_MASTER_PKG) p ≤ 4))
  | .pwr => w Reg.PWR_CTL_PROFILE 0 0 && (!xp Reg.PWR_CTL_EXPERT || (w Reg.PWR_ADM_WAIT_LIMIT 16 65535 &&
      w Reg.PWR_TOKEN_MATRIX 1 255 && w Reg.PWR_TOKEN_SCAN 1 255 && w Reg.PWR_TOKEN_HOST 1 255 && w Reg.PWR_TOKEN_RECAL 1 255 &&
      w Reg.PWR_FLOOR_MV_FLOOR 1 255 && w Reg.PWR_FLOOR_CR_FLOOR 1 255))
  | .thm => w Reg.THM_CTL_PROFILE 0 0 && (!xp Reg.THM_CTL_EXPERT || (w Reg.THM_LIMIT_THROT_C 85 100 && w Reg.THM_LIMIT_HYST 2 15))
  | .phy => !xp Reg.IKL_PHY_CTL_EXPERT || w Reg.IKL_PHY_CTL_SWING 0 2
  | .cal => w Reg.IKL_CAL_CTL_PROFILE 0 1 && s.mapsOk (.ikl d (Fin.ofNat 4 i)) && w Reg.IKL_ERR_CFG_WINDOW 1 255 && (!xp Reg.IKL_CAL_CTL_EXPERT ||
      (w Reg.IKL_CAL_CTL_DWELL 0 4 && w Reg.IKL_CAL_CTL_LT_FULL 1 15 && w Reg.IKL_CAL_CTL_LT_SEEDED 1 15 &&
        calBudgetOk (isFp (.ikl d (Fin.ofNat 4 i))) (s.getF d b i Reg.IKL_CAL_CTL_DWELL) (s.getF d b i Reg.IKL_CAL_CTL_LT_FULL)
          (s.getF d b i Reg.IKL_CAL_CTL_LT_SEEDED)))
  | .ll => w Reg.IKL_LL_CTL_PROFILE 0 1 && (!xp Reg.IKL_LL_CTL_EXPERT || (w Reg.IKL_LL_CTL_REPLAY_MAX 1 15 && w Reg.IKL_LL_CTL_TRAIN_MAX 1 15))
  | .portLl => w Reg.TRYP_LL_CTL_PROFILE 0 1 &&
      (!xp Reg.TRYP_LL_CTL_EXPERT || (w Reg.TRYP_LL_CTL_REPLAY_MAX 1 15 && w Reg.TRYP_LL_CTL_TRAIN_MAX 1 15))
  | .gtr => w Reg.GTR_CTL_PROFILE 0 0 && (!xp Reg.GTR_CTL_EXPERT || (w Reg.GTR_ARB_MSG_N 8 255 && w Reg.GTR_ARB_REQ_N 8 255))
  | .tray => !xp Reg.TRY_CTL_EXPERT || w Reg.TRY_CTL_START_WIN 5 255
  | .port => w Reg.TRYP_PORT_CTL_PROFILE 0 1 && (match d with
      | .cr c => s.mapsOk (.tray (Fin.ofNat 8 (4 * c.val + i)))
      | .mv _ => true) &&
      !(xp Reg.TRYP_PORT_CTL_PEER_VALID && s.getF d b i Reg.TRYP_PORT_CTL_PEER_PKG == s.pkgId) &&
      (!xp Reg.TRYP_PORT_CTL_EXPERT || (w Reg.TRYP_LAT_LAT_BUDGET 800 40000 && w Reg.TRYP_ERR_CFG_WINDOW 1 255))
  | .eng => w Reg.ENG_CTL_PROFILE 0 0 && (!xp Reg.ENG_CTL_EXPERT || w Reg.ENG_HEAVY_HEAVY_MIN 1 255)
  | .seq => w Reg.SEQ_CTL_PROFILE 0 0
  | .syn => w Reg.SYN_CTL_PROFILE 0 0
  | .dma => w Reg.DMA_CTL_PROFILE 0 0
  | .mem => w Reg.MEM_CTL_PROFILE 0 1 && (!xp Reg.MEM_CTL_EXPERT || (w Reg.MEM_CTL_MODE 0 1 && w Reg.MEM_CTL_SCRUB_H 1 168))
  | .pci => w Reg.PCI_CTL_PROFILE 0 0 && (!xp Reg.PCI_CTL_EXPERT || w Reg.PCI_CTL_RD_LIMIT 10 50000)
  | .ethPort => w Reg.ETHP_CTL_PROFILE 0 1 && (!xp Reg.ETHP_CTL_EXPERT || w Reg.ETHP_CTL_MAX_FRAME 1518 9216)
  | .ptp => w Reg.PTP_CTL_PROFILE 0 2
  | .fus => w Reg.FUS_CTL_PROFILE 0 2 && (match d with
      | .cr c => s.fusParsOk c
      | .mv _ => true)
  | .ldg => w Reg.LDG_CTL_PROFILE 0 4 && s.ldgTablesOk && (!s.ldgExpert || (w Reg.LDG_INTERVAL_LEN 0 4 &&
      decide (s.ldgOff.natAbs < s.ldgLen.natAbs) && w Reg.LDG_FRAM_SCLK_MHZ 10 50 && w Reg.LDG_FRAM_HOLDUP_MS 25 100))
  | .boot => w Reg.BOOT_CTL_PROFILE 0 1 && (!xp Reg.BOOT_CTL_EXPERT || w Reg.BOOT_CTL_HBM_TRIES 1 4)
  | .rcv => s.rcvOk

/-- The HBM mode that `MEM` selects (R265, R266). -/
def State.memMode (s : State) (d : Die) : Nat :=
  if s.isF d .mem 0 Reg.MEM_CTL_EXPERT then s.getF d .mem 0 Reg.MEM_CTL_MODE else s.getF d .mem 0 Reg.MEM_CTL_PROFILE

/-- A resource that a function names is absent from the variant (R9, R265, R266, R281, R497). -/
def State.resourceAbsent (s : State) (fn : Fn) (d : Die) : Bool :=
  match fn with
  | .mem => s.memMode d == 1 && !s.h8
  | .ptp => d != cr0
  | .pad => d != cr0 && s.isF d .cfg 0 Reg.CFG_PAD_CTL_EXPERT && s.getF d .cfg 0 Reg.CFG_PAD_CTL_LD_DRV != Reg.CFG_PAD_CTL_LD_DRV.reset
  | _ => false

/-! ### What a function depends on (check 5), and its own checks (check 6) -/

/-- Something a function depends on is not enabled or reached (R58, R199, R326, R354, R376). -/
def State.notReady (s : State) (fn : Fn) (d : Die) (inst : Nat) : Bool :=
  match fn with
  | .bal => s.topo == [] && (if s.isF cr0 .bal 0 Reg.BAL_CTL_EXPERT
      then s.isF cr0 .bal 0 Reg.BAL_REF_SYNTONISE || s.getF cr0 .bal 0 Reg.BAL_REF_SYNC_PORTS != 0 || decide (2 ≤ s.balProfile)
      else decide (2 ≤ s.balProfile))
  | .port => !s.isF d .trayPort inst Reg.TRYP_PORT_CTL_PEER_VALID
  | .fus => !s.isF d .bal 0 Reg.BAL_STATUS_BEAT_VALID
  | .ldg => !bit (s.getF cr0 .boot 0 Reg.BOOT_MON_GOOD) 3
  | _ => false

/-- A function's own checks: the refusal's code (R86, R151, R172, R325, R344, R348, R355). `ok` says that the ledger's test
record reads back as written. -/
def State.ownCheck (s : State) (fn : Fn) (d : Die) (inst : Nat) (ok : Bool) : Option Nat :=
  match fn with
  | .pwr => if budgetCovers (s.getF cr0 .pwr 0 Reg.PWR_BUDGET) s.sumReserve s.sumFloors then none else some 0x1001
  | .phy => if s.linkMode (.ikl d (Fin.ofNat 4 inst)) != 0 && s.boot.loaded && s.scOnLink (.ikl d (Fin.ofNat 4 inst)) then some 0x1007 else none
  | .ll => if s.getF d .ikl inst Reg.IKL_LL_CTL_PROFILE == 1 && s.boot.loaded && s.scOnLink (.ikl d (Fin.ofNat 4 inst)) then some 0x1007
      else none
  | .gtr => s.banksCheck (s.getF cr0 .bal 0 Reg.BAL_HACK_WIN_START) (s.getF cr0 .bal 0 Reg.BAL_HACK_HACK_MAX)
  | .fus => match d with
      | .cr c => s.fusCheck c
      | .mv _ => none
  | .ldg =>
      if !holdupOk s.ldgTaken.acctCount s.ldgSclk s.ldgHoldup then some 0x1001
      else if !ok then some 0x7005
      else none
  | _ => none

/-- The check of R418 in its order: the first failing condition's code. No rule puts a field of a function under another
control at its enable, so nothing fails check 4. -/
def State.enableCheck (s : State) (fn : Fn) (d : Die) (inst : Nat) (ok : Bool) : Option Nat :=
  (firstOf [
    (s.underLoad && s.lckChanged fn d inst, 0x1007),
    (s.reservedSet fn d inst, 0x1002),
    (s.resourceAbsent fn d, 0x1009),
    (!s.rangesOk fn d inst, 0x1001),
    (s.notReady fn d inst, 0x1003)]).or (s.ownCheck fn d inst ok)

/-! ### What an enable sets off -/

/-- The enable of the other half of a link end (R149, R202). -/
def State.bothOn (s : State) (e : LinkEnd) : Bool :=
  let d := leDie e
  if isTray e then s.enabled .port d (leInst e) && s.enabled .portLl d (leInst e)
  else s.enabled .phy d (leInst e) && s.enabled .ll d (leInst e)

/-- A bundle stays retired when its end leaves `OFF`: it was retired by more than `TRAIN_MAX`, or `BUNDLE_EN` clears it (R149). -/
def State.staysRetired (s : State) (e : LinkEnd) (b : Nat) : Bool :=
  if isTray e then false
  else (s.retired e b && !(s.bun e b).byMax) ||
    !bit (s.getF (leDie e) .ikl (leInst e) Reg.IKL_BUNDLE_EN_EN) b

/-- A link end whose enables are both set leaves `OFF`: an Ikiper end for `RESET`, an FP link's under its joint reset, a tray port for
`LISTEN` with its back-off at zero and its beacons running (R57, R81, R149, R202). -/
def State.leaveOff (s : State) (e : LinkEnd) : State :=
  if s.lst e == stOff && s.bothOn e then
    let s1 := (List.range (nBundles e)).foldl (fun (t : State) b => t.setRetired e b (t.staysRetired e b)) s
    let l := (s1.link e).retrain (nBundles e)
    let s2 := s1.setLink e { l with everLive := false, noPartner := 0, backoff := 0, backAt := s.time, noSigLogged := false,
                                    sigAt := s.time, returning := false }
    if isTray e then (s2.setF (leDie e) .trayPort (leInst e) Reg.TRYP_RETRY_BACKOFF 0).toSt e stListen
    else
      let s3 := (s2.setF (leDie e) .ikl (leInst e) Reg.IKL_LL_STATUS_ATTEMPTS 0).toSt e stReset
      if isFp e then s3.assertFp (Fin.ofNat 4 (linkCode e)) else s3
  else s

/-- A link end goes to `OFF`: its transmit bumps at high impedance, what it held gone, a bundle whose retirement is declared retired
(R80, R83, R149) (log entry 68, DEDUCED). -/
def State.goOff (s : State) (e : LinkEnd) : State :=
  if s.lst e == stOff then s
  else
    let s1 := s.endService e
    (s1.setLink e ((s1.link e).retrain (nBundles e))).toSt e stOff

/-- The link end of an instance of a function of a link. -/
def fnEnd (fn : Fn) (d : Die) (inst : Nat) : Option LinkEnd :=
  match fn, d with
  | .phy, d | .ll, d => some (.ikl d (Fin.ofNat 4 inst))
  | .port, .cr c | .portLl, .cr c => some (.tray (Fin.ofNat 8 (4 * c.val + inst)))
  | _, _ => none

/-- Show the role of the package on every die (R58). -/
def State.showMaster (s : State) : State :=
  let m := s.enabled .bal cr0 && !s.isFollower
  let s1 := s.dieList.foldl (fun (t : State) d => t.setF d .bal 0 Reg.BAL_STATUS_IS_MASTER (b2n m)) s
  s1.setF cr0 .bal 0 Reg.BAL_REF_HOPS
    (if s.isFollower then hopsTo s.topo (s.getF cr0 .bal 0 Reg.BAL_CTL_MASTER_PKG) s.pkgId else 0)

/-- The flash drive that a Crown die's pad settings select, the FRAM drive, and whether management edges are fast (R496,
R497). -/
def State.padSel (s : State) (d : Die) : Nat × Nat × Bool :=
  if s.isF d .cfg 0 Reg.CFG_PAD_CTL_EXPERT then
    (s.getF d .cfg 0 Reg.CFG_PAD_CTL_FL_DRV, s.getF d .cfg 0 Reg.CFG_PAD_CTL_LD_DRV, s.isF d .cfg 0 Reg.CFG_PAD_CTL_MGMT_FAST)
  else (if s.getF d .cfg 0 Reg.CFG_PAD_CTL_PROFILE == 1 then 2 else 1, 1, false)

/-- The flash pads take the drive selected: not before the flash pass is over (R496). -/
def State.applyFlDrv (s : State) (c : Crown) : State :=
  if s.isF cr0 .boot 0 Reg.BOOT_STATUS_FLASH_DONE && s.enabled .pad (.cr c) then
    { s with pins := { s.pins with flDrv := Tab.set 1 s.pins.flDrv c.val (s.padSel (.cr c)).1 } }
  else s

/-- The pads of a Crown die take their settings (R496). -/
def State.applyPads (s : State) (c : Crown) : State :=
  let (_, ld, fast) := s.padSel (.cr c)
  let p := { s.pins with mgmtFast := Tab.set false s.pins.mgmtFast c.val fast, ldDrv := if c = 0 then ld else s.pins.ldDrv }
  { s with pins := p }.applyFlDrv c

/-- What follows once a function's enable is set. `ok` says that an Ethernet port's link comes up
(log entry 67, DESIGN CHOICE). -/
def State.enableEffect (s : State) (fn : Fn) (d : Die) (inst : Nat) (ok : Bool) : State :=
  match fn with
  | .phy | .ll | .port | .portLl => match fnEnd fn d inst with
      | some e =>
        let s1 := s.leaveOff e
        match farEnd e with
        | some f => if isFp e then s1.leaveOff f else s1
        | none => s1
      | none => s
  | .bal => s.showMaster
  | .pad => match d with
      | .cr c => s.applyPads c
      | .mv _ => s
  | .pwr => s.showReserve
  | .tray => (s.setDie d { s.die d with trayAt := s.time + 1 }).setF d .tray 0 Reg.TRY_STATUS_WIN_DONE 0
  | .gtr => match d with
      | .cr c => (s.selectVariant d).selectTrayVariant c
      | .mv _ => s.selectVariant d
  | .mem => (s.setF d .mem 0 Reg.MEM_STATUS_MODE_EFF (s.memMode d)).setDie d { s.die d with scrubH := s.time, scrubS := s.time }
  | .ethPort => match d with
      | .cr c =>
        let s1 := ((s.setF d .ethPort inst Reg.ETHP_STATUS_LINK (b2n ok)).setF d .ethPort inst Reg.ETHP_STATUS_AN_DONE (b2n ok)).setF
          d .ethPort inst Reg.ETHP_STATUS_FEC_LOCK (b2n ok)
        s1.reportAll c inst
      | .mv _ => s
  | .ptp => s.showUtc
  | .fus => match d with
      | .cr c => s.setF d .fus 0 Reg.FUS_BUF_USED (ceilDiv (s.fusTotal c).1 64)
      | .mv _ => s
  | .ldg => s.ldgStart
  | .boot =>
      if s.phase == 8 && s.getF cr0 .boot 0 Reg.BOOT_CTL_PROFILE == 0 && s.boot.imgBytes != 0 then
        ({ s with boot := { s.boot with loadSrc := 0 } }).setF cr0 .boot 0 Reg.BOOT_STATUS_PHASE 9
      else s
  | _ => s

/-- Report a refusal of an enable of a function whose domain is off: its registers hold nothing, so it shows in `CFG` and the
logs only, on CR0 where the die's own log is off too (R354, R419, R504) (log entry 66, DEDUCED). -/
def State.refuseOff (s : State) (b : Blk) (d : Die) (inst : Nat) : State :=
  if s.powered d .log then s.refuseBlk d b inst 0x1003
  else ((s.lastReason d b inst 0x1003).logAs cr0 d b inst 0x1003 [] 0xFF).raise (ownOf d b) 1

/-- Set a function's enable (R418): refused as R419 lays down, or enabled with what follows. Nothing happens where the die has
no such function, or where it is enabled already. -/
def State.enableFn (s : State) (fn : Fn) (d : Die) (inst : Nat) (ok : Bool) : State :=
  let b := (fnRegs fn).blk
  if fn == .ldg && d == .cr 1 then s.refuseAbsent d b inst
  else if !fnOn fn d inst then s
  else if !s.hasInst d b inst then s.refuseAbsent d b inst
  else if !s.powered d b then s.refuseOff b d inst
  else if s.enabled fn d inst then s
  else
    let s0 := s.setF d b inst (fnRegs fn).refused 0
    match s0.enableCheck fn d inst ok with
    | some rc => (if rc == 0x7005 then s0.testFram false else s0).refuse fn d inst rc
    | none => (s0.setF d b inst (fnRegs fn).enable 1).enableEffect fn d inst ok

/-- `FUNCTION_ENABLE` (R418). `RCV`'s enable is read-only: no command sets it (R468). Registers held in reset ignore the write
(R504). -/
def execFunctionEnable (d : Die) (fn : Fn) (inst : Fin 4) (ok : Bool) (s : State) : Host.Outcome State Fault Refusal :=
  if fn == .rcv || s.heldInReset d (fnRegs fn).blk then .next s else .next (s.enableFn fn d inst.val ok)

/-! ### Clearing an enable (R421) -/

/-- Note the values of a function's LCK fields in effect as its enable is cleared (R423). -/
def State.noteInForce (s : State) (fn : Fn) (d : Die) (inst : Nat) : State :=
  let b := (fnRegs fn).blk
  { s with inForce := (lckFlds fn).foldl (fun t f => Tab.set 0 t (fkey d b inst f 0) (s.getF d b inst f + 1)) s.inForce }

/-- What a cleared enable sets off: a link end goes to `OFF`, an FP link with both its ends through the joint reset (R87, R149);
the ledger closes its interval (R337). -/
def State.disableEffect (s : State) (fn : Fn) (d : Die) (inst : Nat) : State :=
  match fn with
  | .phy | .ll | .port | .portLl => match fnEnd fn d inst with
      | some e =>
        let s1 := s.goOff e
        if fn == .phy && isFp e then
          let s2 := { s1 with fpLines := Tab.set {} s1.fpLines (linkCode e) { asserted := true, since := s1.time } }
          match farEnd e with
          | some f => s2.goOff f
          | none => s2
        else s1
      | none => s
  | .bal => s.showMaster
  | .ethPort => ((s.setF d .ethPort inst Reg.ETHP_STATUS_LINK 0).setF d .ethPort inst Reg.ETHP_STATUS_AN_DONE 0).setF
      d .ethPort inst Reg.ETHP_STATUS_FEC_LOCK 0
  | .ldg => s.ldgStop
  | _ => s

/-- The functions that an image holds enabled (R421). -/
def imageFn (fn : Fn) : Bool := fn == .gtr || fn == .eng || fn == .seq || fn == .syn || fn == .dma

/-- Clear an enable that is set, with what follows. -/
def State.clearFn (s : State) (fn : Fn) (d : Die) (inst : Nat) : State :=
  if s.enabled fn d inst then
    ((s.noteInForce fn d inst).disableEffect fn d inst).setF d (fnRegs fn).blk inst (fnRegs fn).enable 0
  else s

/-- Clear a function's enable: at once and without a check, but that of an image function while an image is loaded is refused
(R421). `RCV`'s cannot be cleared (R468). -/
def State.disableFn (s : State) (fn : Fn) (d : Die) (inst : Nat) : State :=
  if fn == .rcv || !fnOn fn d inst || !s.hasInst d (fnRegs fn).blk inst || !s.powered d (fnRegs fn).blk then s
  else if imageFn fn && s.boot.loaded then s.refuse fn d inst 0x1007
  else s.clearFn fn d inst

/-- `FUNCTION_DISABLE` (R421). -/
def execFunctionDisable (d : Die) (fn : Fn) (inst : Fin 4) (s : State) : Host.Outcome State Fault Refusal :=
  if s.heldInReset d (fnRegs fn).blk then .next s else .next (s.disableFn fn d inst.val)

/-- Whether `TQn_PWREN` of a tray port is high: the port is enabled with profile 1 (R211, R489). -/
def State.trayPwren (s : State) (n : Fin 8) : Bool :=
  s.enabled .port (leDie (.tray n)) (leInst (.tray n)) &&
    s.getF (leDie (.tray n)) .trayPort (leInst (.tray n)) Reg.TRYP_PORT_CTL_PROFILE == 1

end Sys2Proof.Machine
end

