-- ==== Sys2Proof/Machine/Tables.lean ====
section
/-! DEFINITION. Writing records through the table ports of fusion and of the ledger: stored as ARM, put in force at a commit
(R8, R303, R304, R318, R331, R505). -/

namespace Sys2Proof.Machine

/-- Beats of a snapshot that is open in a group. -/
def openSnaps (x : GrpSt) : Nat := (x.snaps.filter fun y => y.cause == 0).length

/-- The counters of a stream map record, which no write stores (R304). -/
def mapCounters (r : Nat) : Nat := r / 2 ^ 64 % 2 ^ 64

/-- The INDEX of the fusion table port selects nothing, and that of the ledger's (R505). -/
def State.fusEmpty (s : State) (d : Die) : Bool :=
  let i := s.getF d .fus 0 Reg.FUS_TBL_INDEX_INDEX
  match s.getF d .fus 0 Reg.FUS_TBL_SPACE_SPACE with
  | 0 => decide (16 ≤ i)
  | 1 => decide (8192 ≤ i)
  | 2 => false
  | _ => decide (256 ≤ i)

def State.ldgEmpty (s : State) : Bool :=
  decide ((if s.ldgSpace < 4 then ldgSize s.ldgSpace else if s.ldgSpace < 6 then 684 else 259) ≤ s.ldgIndex)

/-- Put a table record in force, by its key. A group whose record changes starts empty, its open snapshots counted in SKIP; a
stream map record keeps its counters; a coefficient record keeps RMS and its count, and undoes what a batch did to the channel on the same beat (R318). -/
def State.putRec (s : State) (key v : Nat) : State :=
  let sp := keySpace key
  let c : Crown := Fin.ofNat 2 (key / 2 ^ 22 % 8 - 4)
  let old := Tab.get 0 s.tables key
  let idx := key % 131072
  if sp == 10 then
    if v == old then s
    else
      let s1 := s.addF (.cr c) .fus 0 Reg.FUS_GRP_SKIP_SKIP (openSnaps (s.grp c idx)) (0x10 * idx)
      (s1.setGrp c idx {}).setTbl 10 (4 + c.val) 0 0 0 idx v
  else if sp == 11 then
    s.setTbl 11 (4 + c.val) 0 0 0 idx (v % 2 ^ 64 + mapCounters old * 2 ^ 64)
  else if sp == 12 then
    let ch := key / 131072 % 8 * 131072 + idx
    let r := s.coefBefore c ch
    let s1 := s.setCoef c ch (mkCoef (cR v) (cTh v) (cRms r) (cFrozen v) (cCount r)) true
    match Tab.get (0, 0) (s1.fusion c).gainWas ch with
    | (0, _) => s1
    | (_, rms) => s1.gainReset c ch rms
  else { s with tables := Tab.set 0 s.tables key v }

/-- A set is armed and not decided: writes of ARM fields and of the staging table are discarded and counted (R427). -/
def State.lateWr (s : State) : Bool := s.chg.armed && s.chg.decided == 0

/-- Store a record: in force at once during start-up, else in its shadow copy (R8, R391, R427). -/
def State.storeRec (s : State) (now : Bool) (key v : Nat) : State :=
  if now then s.putRec key v
  else if s.lateWr then s.bumpF cr0 .cfg 0 Reg.CFG_ARM_STATUS_LATE_WR
  else { s with tshadow := Tab.set 0 s.tshadow key (v + 1) }

/-- A place is a data word of a table port whose INDEX selects nothing: it reads as zero, and a write of it stores nothing (R505). -/
def State.portEmpty (s : State) (p : Place) : Bool :=
  let isF (f : Fld) : Bool := p.row.off == f.off
  match p.blk, p.die with
  | .gtr, d => isF Reg.GTR_TBL_DATA_DATA && (s.schedSel d false).isNone
  | .tray, d => isF Reg.TRY_TBL_DATA_DATA && (s.schedSel d true).isNone
  | .eth, d => isF Reg.ETH_TBL_DATA_DATA &&
      (decide (8192 ≤ s.getF d .eth 0 Reg.ETH_TBL_IDX_INDEX) || decide (2 ≤ s.getF d .eth 0 Reg.ETH_TBL_SEL_SPACE))
  | .fus, d => isF Reg.FUS_TBL_DATA_DATA && s.fusEmpty d
  | .ldg, _ => isF Reg.LDG_TBL_DATA_DATA && s.ldgEmpty
  | _, _ => false

/-- The words of a table port's data registers, the last of them `w`. -/
def State.portWords (s : State) (d : Die) (b : Blk) (f : Fld) (n w : Nat) : Nat :=
  ((List.range (n - 1)).map fun i => s.getF d b 0 f (4 * i) * 2 ^ (32 * i)).sum + w % 2 ^ 32 * 2 ^ (32 * (n - 1))

/-- Clear a stream map record's counters whose bits are all written as ones (R304). -/
def clearCounters (old v : Nat) : Nat :=
  [64, 80, 96, 112].foldl (fun r lo => if bitsOf v lo 16 == 0xFFFF then r - bitsOf r lo 16 * 2 ^ lo else r) old

/-- A write of a word of the fusion table port that selects a record: the last word of the selected space's record stores it (R303, R304, R318).
Tracks are read-only. -/
def State.fusTblWrite (s : State) (c : Crown) (k w : Nat) (now : Bool) : State :=
  let d : Die := .cr c
  let s0 := if s.fusEmpty d then s else s.setF d .fus 0 Reg.FUS_TBL_DATA_DATA w (4 * k)
  let i := s.getF d .fus 0 Reg.FUS_TBL_INDEX_INDEX
  let words (n : Nat) : Nat := s.portWords d .fus Reg.FUS_TBL_DATA_DATA n w
  match s.getF d .fus 0 Reg.FUS_TBL_SPACE_SPACE with
  | 0 => if k == 15 && decide (i < 16) then s0.storeRec now (tblKey 10 (dieCode d) 0 0 0 i) (words 16) else s0
  | 1 =>
    if k == 3 && decide (i < 8192) then
      let v := words 4
      let s1 := s0.setTbl 11 (dieCode d) 0 0 0 i (clearCounters (s0.mapRec c i) v)
      s1.storeRec now (tblKey 11 (dieCode d) 0 0 0 i) (v % 2 ^ 64)
    else s0
  | 2 => if k == 3 then s0.storeRec now (tblKey 12 (dieCode d) 0 0 (i / 131072) (i % 131072)) (words 4) else s0
  | _ => s0

/-- A write of a word of the ledger table port: in spaces 0 to 3 word 3 stores the record (R331, R505). -/
def State.ldgTblWrite (s : State) (k w : Nat) (now : Bool) : State :=
  let s0 := if decide (s.ldgSpace < 4) && !s.ldgEmpty then s.setF cr0 .ldg 0 Reg.LDG_TBL_DATA_DATA w (4 * k) else s
  let sp := s.ldgSpace
  let i := s.ldgIndex
  if k == 3 && decide (sp < 4) && decide (i < ldgSize sp) then
    s0.storeRec now (tblKey (16 + sp) 4 0 0 0 i) (s.portWords cr0 .ldg Reg.LDG_TBL_DATA_DATA 4 w)
  else s0

/-- `FUS_TABLE_WRITE` (R318): a write of the last word of the record selected at a Crown die's fusion table port: word 15 of a
group, word 3 of a stream map or coefficient record. -/
def execFusTableWrite (c : Crown) (w : Word) (s : State) : Host.Outcome State Fault Refusal :=
  if s.hasDie (.cr c) && s.powered (.cr c) .fus then
    .next (s.fusTblWrite c (if s.getF (.cr c) .fus 0 Reg.FUS_TBL_SPACE_SPACE == 0 then 15 else 3) w.toNat false)
  else .next s

/-- `LDG_TABLE_WRITE` (R331): a write of word 3 of the ledger table port. -/
def execLdgTableWrite (w : Word) (s : State) : Host.Outcome State Fault Refusal :=
  if s.powered cr0 .ldg then .next (s.ldgTblWrite 3 w.toNat false) else .next s

end Sys2Proof.Machine
end

