-- ==== Sys2Proof/Machine/Boot.lean ====
section
/-! DEFINITION. Start-up: monitors, straps, reference, configuration flash, the configuration record, the power sequence,
HBM training, the start window, halt and restart (14_start_up_and_trust, R203, R352 to R354). -/

namespace Sys2Proof.Machine

/-- Beats of a time in µs. -/
def usBeats (n : Nat) : Nat := 1600 * n

/-- The domains of CRX. -/
def crx (c : Crown) : Domain := Fin.ofNat 16 (12 + 2 * c.val)

/-! ### Halt (R406) -/

/-- Start-up halts: its code and phase are kept, and every switched domain goes off but a CRX that is on. Once start-up is
over, nothing halts (log entry 78, DEDUCED). -/
def State.haltBoot (s : State) (rc : Nat) : State :=
  if 8 ≤ s.phase then s
  else
    let s1 := (s.setF cr0 .boot 0 Reg.BOOT_HALT_HALT_RC rc).setF cr0 .boot 0 Reg.BOOT_HALT_HALT_PHASE s.phase
    let s2 := s1.allOffBut ((s.crowns.map crx).filter fun k => s.domOn k)
    { s2.setPhase 15 with boot := { s2.boot with waitLoad := false } }

/-! ### Power-on reset and monitors (R7, R373 to R376) -/

/-- A key of `State.regs` that belongs to CR1's AON domain. -/
def cr1Aon (key : Nat) : Bool :=
  match findPlace (keyAddr key) with
  | some p => p.die == .cr 1 && domOf p.die p.blk == none
  | none => false

/-- Draw a new nonce (R412). -/
def State.newNonce (s : State) : State :=
  (List.range 4).foldl (fun (t : State) i => let (v, u) := t.draw 32; u.setF cr0 .sec 0 Reg.SEC_DBG_NONCE v (4 * i)) s

/-- A power-on reset of CR0's AON domain: every register of the package returns to its Reset value but for what is fused, for
the band latch of the AON monitors (R375) and for CR1's own AON registers; `PREF` stops, and CR1's count with it. The FRAM
keeps its contents (log entry 79, DEDUCED). -/
def State.resetCr0 (s : State) : State :=
  let keep := s.regs.filter fun p => fuseKey p.1 || cr1Aon p.1
  let band := s.getF cr0 .boot 0 Reg.BOOT_MON_BAND % 4
  let good := s.getF cr0 .boot 0 Reg.BOOT_MON_GOOD / 2 % 2 * 2
  let x := s.die (.cr 1)
  let base : State := { pending := s.pending, time := s.time, free := s.free, regs := keep, fram := s.fram, dieIds := s.dieIds, cr1Root := s.cr1Root,
                        trayFuse := s.trayFuse, opTable := s.opTable, opDefs := s.opDefs,
                        boot := { monAt := [0, 2, 3].foldl (fun (t : Tab Nat) n => Tab.set 0 t n s.time) s.boot.monAt } }
  let s1 := (base.setF cr0 .boot 0 Reg.BOOT_MON_BAND band).setF cr0 .boot 0 Reg.BOOT_MON_GOOD good
  let s2 := s1.setDie (.cr 1) { x with run := false, losses := [], trayAt := 0, power := {} }
  let off (t : State) (f : Fld) : State := t.setF (.cr 1) .bal 0 f 0
  (off (off (off s2 Reg.BAL_STATUS_REF_OK) Reg.BAL_STATUS_PLL_LOCK) Reg.BAL_STATUS_BEAT_VALID).newNonce

/-- A power-on reset of CR1's AON domain: its CRX and CRF go off, and its AON registers and its count are reset. -/
def State.resetCr1 (s : State) : State :=
  let s1 := ((s.domainOff 15).domainOff 14).showLedgerOnly
  let s2 := { s1 with regs := s1.regs.filter fun p => !cr1Aon p.1 || fuseKey p.1, dies := Tab.erase s1.dies (dieCode (.cr 1)) }
  let s3 := { s2 with boot := { s2.boot with monAt := Tab.set 0 s2.boot.monAt 1 s.time } }
  s3.setF cr0 .boot 0 Reg.BOOT_MON_GOOD (clrBit (s3.getF cr0 .boot 0 Reg.BOOT_MON_GOOD) 1)

/-- `POWER_ON_RESET` (R7, R373, R412). -/
def execPowerOnReset (c : Crown) (s : State) : Host.Outcome State Fault Refusal :=
  if c = 0 then .next s.resetCr0 else if s.x2 then .next s.resetCr1 else .next s

/-- The number of a monitor (R375). -/
def monNum : Monitor → Nat
  | .aon c => c.val
  | .bus => 2
  | .holdUp => 3

/-- Whether a monitor is good. -/
def State.monGood (s : State) (m : Monitor) : Bool := bit (s.getF cr0 .boot 0 Reg.BOOT_MON_GOOD) (monNum m)

/-- The die whose log takes a monitor's record. -/
def monDie : Monitor → Die
  | .aon c => .cr c
  | _ => cr0

/-- Sample the straps and leave step 2: for step 3, or for the halt of R23 where the board's variant differs (R22, R23, R377). -/
def State.sampleStraps (s : State) (variant : Fin 4) (pkg : Fin 16) (refSel : Bool) : State :=
  let s1 := ((s.setF cr0 .cfg 0 Reg.CFG_VARIANT_STRAP variant.val).setF cr0 .cfg 0 Reg.CFG_VARIANT_SAMPLED 1).setF
    cr0 .boot 0 Reg.BOOT_STRAP_PKG_ID pkg.val
  let s2 := s1.setF cr0 .boot 0 Reg.BOOT_STRAP_REF_SEL (b2n refSel)
  if variant.val != s.getF cr0 .cfg 0 Reg.CFG_VARIANT then
    ((s2.setF cr0 .cfg 0 Reg.CFG_VARIANT_MISMATCH 1).log cr0 .boot 0 0x2008).haltBoot 0x2008
  else { (s2.endStep 2).setPhase 2 with boot := { s2.boot with since := s.time, held := false } }

/-- Enter step 2 once CR0's AON and bus monitors are both good: that is T0. A low `PWR_FAIL#` holds it (R491). -/
def State.tryT0 (s : State) (variant : Fin 4) (pkg : Fin 16) (refSel pfLow : Bool) : State :=
  if s.boot.t0 != 0 || !s.monGood (.aon 0) || !s.monGood .bus then s
  else
    let s1 := { s with boot := { s.boot with t0 := s.time + 1, held := pfLow } }
    if pfLow then s1 else s1.sampleStraps variant pkg refSel

/-- The last time a monitor is known to have had its input outside the band above, or low: when it came up, or fell not good
(R374, R375) (log entry 170, DEDUCED). -/
def State.monSince (s : State) (m : Monitor) : Nat := Tab.get 0 s.boot.monAt (monNum m)

/-- The rising and the falling threshold of a monitor in mV (R373). -/
def monRise : Monitor → Nat
  | .aon _ => 700
  | _ => 650
def monFall : Monitor → Nat
  | .aon _ => 660
  | _ => 600

/-- `MONITOR_GOOD` (R3, R373 to R375): a monitor that is not good, with `mv` at its input, declares good, 1 ms after it was last low at
the earliest. An AON monitor whose band latch is set logs it as its AON leaves reset. The strap balls and `PWR_FAIL#` come with it,
for the case that it makes T0. -/
def execMonitorGood (m : Monitor) (mv : Nat) (variant : Fin 4) (pkg : Fin 16) (refSel pfLow : Bool) (s : State) :
    Host.Outcome State Fault Refusal :=
  let n := monNum m
  if s.monGood m || (m == .aon 1 && !s.x2) || decide (mv < monRise m) || decide (s.time < s.monSince m + msBeats) then .next s
  else
    let s1 := s.setF cr0 .boot 0 Reg.BOOT_MON_GOOD (setBit (s.getF cr0 .boot 0 Reg.BOOT_MON_GOOD) n)
    let s2 := if decide (n < 2) && bit (s.getF cr0 .boot 0 Reg.BOOT_MON_BAND) n then
        s1.log (monDie m) .boot 0 0x2001 [BitVec.ofNat 8 n]
      else s1
    let s3 := if m == .aon 0 && s2.phase == 0 then (s2.endStep 1).setPhase 1 else s2
    .next (s3.tryT0 variant pkg refSel pfLow)

/-- `PWR_FAIL_RELEASE` (R491): `PWR_FAIL#` goes high while CR0 holds start-up in step 2. -/
def execPwrFailRelease (variant : Fin 4) (pkg : Fin 16) (refSel : Bool) (s : State) : Host.Outcome State Fault Refusal :=
  if s.boot.held && s.phase == 1 then .next (s.sampleStraps variant pkg refSel) else .next s

/-- `MONITOR_NOT_GOOD` (R373 to R376): the input of a monitor falls below its falling threshold, to `mv`: a good one declares not good,
and one that is not good counts its time in the band from now. The reset that an AON monitor then holds is the command POWER_ON_RESET
(log entry 178, DESIGN CHOICE). Of the hold-up monitor, in service, that is shown in `HU_LOW` and on
`TRAY_ALERT#`. -/
def execMonitorNotGood (m : Monitor) (mv : Nat) (s : State) : Host.Outcome State Fault Refusal :=
  let s0 := { s with boot := { s.boot with monAt := Tab.set 0 s.boot.monAt (monNum m) s.time } }
  if decide (monFall m ≤ mv) then .next s
  else if !s.monGood m then .next s0
  else
    let s1 := s0.setF cr0 .boot 0 Reg.BOOT_MON_GOOD (clrBit (s0.getF cr0 .boot 0 Reg.BOOT_MON_GOOD) (monNum m))
    .next (if m == .holdUp && decide (2 ≤ s.phase) then s1.setF cr0 .boot 0 Reg.BOOT_MON_HU_LOW 1 else s1)

/-- `MONITOR_BAND_TIMEOUT` (R373, R375): a monitor that is not good has had its input in the band for 500 ms, `mv` now. An AON monitor's record
is written when its AON leaves reset. -/
def execMonitorBandTimeout (m : Monitor) (mv : Nat) (s : State) : Host.Outcome State Fault Refusal :=
  let n := monNum m
  if s.monGood m || bit (s.getF cr0 .boot 0 Reg.BOOT_MON_BAND) n || (m == .aon 1 && !s.x2) ||
      !decide (monFall m ≤ mv ∧ mv < monRise m) || decide (s.time < s.monSince m + 500 * msBeats) then .next s
  else
    let s1 := s.setF cr0 .boot 0 Reg.BOOT_MON_BAND (setBit (s.getF cr0 .boot 0 Reg.BOOT_MON_BAND) n)
    .next (if 2 ≤ n then s1.log cr0 .boot 0 0x2001 [BitVec.ofNat 8 n] else s1)

/-! ### Reference (R379) -/

/-- The last beat at which CR0 may detect its reference: 20 ms into step 3 from the crystal, 1 ms from `PREF_IN`. -/
def State.refLimit (s : State) : Nat :=
  s.boot.since + (if s.isF cr0 .boot 0 Reg.BOOT_STRAP_REF_SEL then 1 else 20) * msBeats

/-- No reference was detected in time. -/
def State.refFails (s : State) : State := (s.log cr0 .boot 0 0x2005).haltBoot 0x2005

/-- `REFERENCE_DETECT` (R379): in step 3 CR0 detects its reference, and `PREF` starts; later than the limit it is no use. -/
def execReferenceDetect (s : State) : Host.Outcome State Fault Refusal :=
  if s.phase != 2 || s.boot.pref then .next s
  else if s.refLimit < s.time then .next s.refFails
  else
    let s1 := { s with boot := { s.boot with pref := true, prefAt := s.time } }
    .next (s1.crowns.foldl (fun (t : State) c => t.setF (.cr c) .bal 0 Reg.BAL_STATUS_REF_OK 1) s1)

/-- `REFERENCE_TIMEOUT` (R379): no reference within 20 ms of step 3 from the crystal, or 1 ms from `PREF_IN`. -/
def execReferenceTimeout (s : State) : Host.Outcome State Fault Refusal :=
  if s.phase == 2 && !s.boot.pref && decide (s.refLimit ≤ s.time) then .next s.refFails else .next s

/-- The last beat at which a die's beat PLL may lock: 3 ms after `PREF` reached it and its domain came on. -/
def State.pllLimit (s : State) (d : Die) : Nat := max s.boot.prefAt (s.die d).onAt + 3 * msBeats

/-- A beat PLL did not lock in time. -/
def State.pllFails (s : State) (d : Die) : State := (s.logAs cr0 d .bal 0 0x2006 [] 0xFF).haltBoot 0x2006

/-- A die's beat PLL runs towards lock. -/
def State.pllSeeks (s : State) (d : Die) : Bool :=
  s.hasDie d && s.powered d .bal && s.boot.pref && !s.isF d .bal 0 Reg.BAL_STATUS_PLL_LOCK

/-- `PLL_LOCK` (R34, R379): the beat PLL of a die locks while `PREF` is present, and its count starts from zero; later than the limit
it counts as not locked. -/
def execPllLock (d : Die) (s : State) : Host.Outcome State Fault Refusal :=
  if !s.pllSeeks d then .next s
  else if s.pllLimit d < s.time then .next (s.pllFails d)
  else
    let s1 := (s.setF d .bal 0 Reg.BAL_STATUS_PLL_LOCK 1).setDie d { s.die d with beat := 0, run := true }
    .next (if d = cr0 && s1.phase == 2 then (s1.endStep 3).setPhase 3 else s1)

/-- `PLL_LOCK_TIMEOUT` (R379): a die's beat PLL has not locked by its limit. -/
def execPllLockTimeout (d : Die) (s : State) : Host.Outcome State Fault Refusal :=
  if s.pllSeeks d && decide (s.pllLimit d ≤ s.time) then .next (s.pllFails d) else .next s

/-! ### Configuration flash (R380 to R384) -/

/-- `FLASH_DISCOVER` (R381): step 4 reads what the flash says of itself. -/
def execFlashDiscover (f : Option FlashInfo) (s : State) : Host.Outcome State Fault Refusal :=
  if s.phase != 3 || s.boot.flashOk then .next s
  else
    match f with
    | some i =>
      if !i.sfdp || !i.octal || decide (i.density < 29 ∨ i.mhz < 100) then .next ((s.log cr0 .boot 0 0x2002).haltBoot 0x2002)
      else
        let s1 := ((s.setF cr0 .boot 0 Reg.BOOT_FLASH_DENSITY i.density).setF cr0 .boot 0 Reg.BOOT_FLASH_CLK_MHZ
          (min i.mhz 200)).setF cr0 .boot 0 Reg.BOOT_FLASH_ERASE i.erase
        .next { s1 with boot := { s1.boot with flashOk := true } }
    | none => .next ((s.log cr0 .boot 0 0x2002).haltBoot 0x2002)

/-! ### Seeds (R100, R409) -/

/-- The records of a seed area, of 128 bytes each, up to the first erased one. -/
def seedRecords : Nat → List Byte → List (List Byte)
  | 0, _ => []
  | n + 1, l =>
    let r := l.take 128
    if r.length < 128 || r.all (· == 0xFF) then [] else r :: seedRecords n (l.drop 128)

/-- Every Ikiper link end. -/
def iklEnds : List LinkEnd := allDies.flatMap fun d => (List.finRange 4).map fun k => LinkEnd.ikl d k

/-- What a seed record says, for either end of its link; the identity picks the end it is of. -/
def seedsOf (r : List Byte) : List SeedRec :=
  let w (at_ : Nat) : Nat := leNat (cut r at_ 4)
  let link := (r.getD 16 0).toNat
  (iklEnds.filter fun e => linkCode e == link).map fun e =>
    { ident := [w 0, w 4, w 8, w 12], die := dieCode (leDie e), slot := leInst e, bundle := (r.getD 17 0).toNat,
      rev := (r.getD 18 0).toNat, crcOk := w 124 == crc32 (r.take 124),
      coef := (List.range 21).map fun i => w (20 + 4 * i) }

/-- The seeds of a seed area. -/
def seedArea (l : List Byte) : List SeedRec := (seedRecords (l.length / 128) l).flatMap seedsOf

/-! ### The configuration record (R389 to R392) -/

/-- An entry of the record: MS offset, value, PKG_MASK. -/
abbrev Entry := Nat × Nat × Nat

/-- The entries of a record's body: no more than its header names, and than it holds. -/
def entriesOf (body : List Byte) : List Entry :=
  (List.range (min (leNat (cut body 0 4)) ((body.length - 64) / 12))).map fun i =>
    let e := cut body (64 + 12 * i) 12
    (leNat (cut e 0 4), leNat (cut e 4 4), leNat (cut e 8 2))

/-- The cables that a record declares, by its `PORT_CTL` entries for all packages (R199): each with its two ends, the lower
PKG_ID first (log entry 74, DEDUCED). -/
def topoOf (es : List Entry) : List (Nat × Nat × Nat × Nat) :=
  (es.flatMap fun e =>
    match findPlace e.1 with
    | some p =>
      if p.blk == .trayPort && p.row.off == Reg.TRYP_PORT_CTL_PEER_PKG.off && bit e.2.1 11 then
        let n := (match p.die with | .cr c => 4 * c.val | .mv _ => 0) + p.inst
        (bitsSet e.2.2 16).map fun pkg =>
          let q := bitsOf e.2.1 4 4
          let m := bitsOf e.2.1 8 3
          if pkg ≤ q then (pkg, n, q, m) else (q, m, pkg, n)
      else []
    | none => []).eraseDups

/-- The last value the record gives a register. -/
def State.recVal (s : State) (addr : Nat) : Option Nat := (s.boot.record.reverse.find? fun e => e.1 == addr).map (·.2)

/-- The address of a function's enable register. -/
def ctlAddr (fn : Fn) (d : Die) (inst : Nat) : Nat := winBase d + blkOff (fnRegs fn).blk inst + (fnRegs fn).enable.off

/-- The record sets a function's enable (R392). -/
def State.recEnables (s : State) (fn : Fn) (d : Die) (inst : Nat) : Bool :=
  match s.recVal (ctlAddr fn d inst) with
  | some v => bit v (fnRegs fn).enable.lo
  | none => false

/-- The function that a `CTL.ENABLE` field belongs to, if it is one. -/
def fnOfEnable (b : Blk) (f : Fld) : Option Fn :=
  [Fn.pad, .bal, .pwr, .thm, .phy, .cal, .ll, .gtr, .tray, .port, .portLl, .eng, .seq, .syn, .dma, .mem, .pci, .ethPort, .ptp,
    .fus, .ldg, .boot, .rcv].find? fun fn => (fnRegs fn).blk == b && decide ((fnRegs fn).enable = f)

/-- The function that gates a LCK field. -/
def gateOf (b : Blk) (f : Fld) : Option Fn :=
  [Fn.pad, .bal, .pwr, .thm, .phy, .cal, .ll, .gtr, .tray, .port, .portLl, .eng, .seq, .syn, .dma, .mem, .pci, .ethPort, .ptp,
    .fus, .ldg, .boot].find? fun fn => (fnRegs fn).blk == b && fnOwns fn f.off

/-- The bits of a register word that no field has. -/
def reservedBits (row : RegRow) (w : Nat) : Nat :=
  row.flds.foldl (fun v f => v - bitsOf v f.lo f.w * 2 ^ f.lo) w

/-- Keep or forget the reserved bits written as non-zero (R6). -/
def State.noteReserved (s : State) (row : RegRow) (addr w : Nat) : State :=
  { s with resv := Tab.set 0 s.resv addr (reservedBits row (w % 2 ^ 32)) }

/-- A field of a register takes what an entry of the record writes: RW and ARM at once, LCK while its function is disabled; a
cleared enable at once, a set one is held back (R391, R392). -/
def State.recField (s : State) (p : Place) (w : Nat) (f : Fld) : State :=
  let v := bitsOf w f.lo f.w
  match f.acc with
  | .arm => s.setF p.die p.blk p.inst f v p.k
  | .lck => if (gateOf p.blk f).any fun fn => s.enabled fn p.die p.inst then s else s.setF p.die p.blk p.inst f v p.k
  | .rw =>
    match fnOfEnable p.blk f with
    | some fn => if v == 0 then s.clearFn fn p.die p.inst else s
    | none => s.setF p.die p.blk p.inst f v p.k
  | _ => s

/-- What a write of a table port or an index does beside its field; `now` where a record stored takes effect at once. -/
def State.recPort (s : State) (p : Place) (w : Nat) (now : Bool) : State :=
  let f0 := p.row.flds.head?
  let isF (f : Fld) : Bool := f0.any fun g => decide (g = f)
  match p.blk, p.die with
  | .gtr, d => if isF Reg.GTR_TBL_DATA_DATA && p.k == 12 then s.schedWrite d false w else s
  | .tray, d => if isF Reg.TRY_TBL_DATA_DATA && p.k == 12 then s.schedWrite d true w else s
  | .fus, .cr c => if isF Reg.FUS_TBL_DATA_DATA then s.fusTblWrite c (p.k / 4) w now else s
  | .ldg, _ =>
    if isF Reg.LDG_TBL_DATA_DATA then s.ldgTblWrite (p.k / 4) w now
    else if isF Reg.LDG_TBL_INDEX_INDEX then s.ldgIndexWrite w
    else s
  | _, _ => s

/-- An entry may target a register that has a field of access RW, LCK or ARM (R391). -/
def mayTarget (row : RegRow) : Bool := row.flds.any fun f => f.acc == .rw || f.acc == .lck || f.acc == .arm

/-- Apply one entry where its register is one that `sel` names. -/
def State.applyEntry (s : State) (sel : Die → Blk → Bool) (e : Nat × Nat) : State :=
  match findPlace e.1 with
  | some p =>
    if sel p.die p.blk && s.hasInst p.die p.blk p.inst && mayTarget p.row && !s.portEmpty p then
      ((p.row.flds.foldl (fun (t : State) f => t.recField p e.2 f) s).recPort p e.2 true).noteReserved p.row e.1 e.2
    else s
  | none => s

/-- Apply the record's entries, in record order, to the registers that `sel` names (R391). -/
def State.applyRecord (s : State) (sel : Die → Blk → Bool) : State := s.boot.record.foldl (fun t e => t.applyEntry sel e) s

/-- Log the first entry that no register takes; those for absent dies are ignored (R391). -/
def State.logSkipped (s : State) : State :=
  match s.boot.record.find? fun e => match findPlace e.1 with
    | some p => !mayTarget p.row && s.hasDie p.die
    | none => (dieOfWin e.1).all fun d => s.hasDie d with
  | some e => s.log cr0 .boot 0 0x1001 (leBytes 4 e.1)
  | none => s

/-- Every bundle of a link end. -/
def allBundles (e : LinkEnd) : Nat := 2 ^ nBundles e - 1

/-- The defaults of an Ikiper end's registers (R7, R391) (log entry 119, DEDUCED). -/
def State.iklDefaults (s : State) (d : Die) : State :=
  (List.range 4).foldl (fun (t : State) i =>
    if t.hasInst d .ikl i then
      (((t.setF d .ikl i Reg.IKL_BUNDLE_EN_EN (allBundles (.ikl d (Fin.ofNat 4 i)))).setF d .ikl i Reg.IKL_CAL_CTL_DWELL 3).setF
        d .ikl i Reg.IKL_CAL_CTL_LT_FULL 8).setF d .ikl i Reg.IKL_CAL_CTL_LT_SEEDED 1
    else t) s

/-- Enable a function if the record does (R392). `ok` as in `State.enableFn`. -/
def State.recEnable (s : State) (fn : Fn) (d : Die) (inst : Nat) (ok : Bool := true) : State :=
  if s.recEnables fn d inst then s.enableFn fn d inst ok else s

/-- Enable the functions of both ends of a die's links as the record asks, where they are supplied (R392). -/
def State.enableLinks (s : State) (d : Die) : State :=
  (s.ends d ++ (s.ends d).filterMap farEnd).foldl (fun (t : State) e =>
    if t.powered (leDie e) .ikl then
      ((t.recEnable .phy (leDie e) (leInst e)).recEnable .cal (leDie e) (leInst e)).recEnable .ll (leDie e) (leInst e)
    else t) s

/-- The domains of the package in the order in which they come on (R393). -/
def domOrder : List Domain := [12, 13, 14, 15, 8, 9, 10, 11, 4, 5, 6, 7, 0, 1, 2, 3]

/-- The domains the variant has, as a mask. -/
def State.presentDoms (s : State) : Nat := if s.x2 then 0xFFFF else 0x3FFF

/-- The domains of a mask that the variant has and that are not on, in order. -/
def State.domTodo (s : State) (mask : Nat) : List (Nat × Bool) :=
  (domOrder.filter fun k => s.hasDomain k && bit mask k && !s.domOn k).map fun k => (k.val, true)

/-- Set `RCV`'s enable on a die once its entries have been applied (R468). -/
def State.rcvOn (s : State) (d : Die) : State := s.enableFn .rcv d 0 true

/-- The end of step 5 (R391 to R393, R396): the record is applied to CR0's and CR1's AON registers, the first functions are
enabled, a package that is no follower sets its `BEAT_VALID`, and the power sequence begins (log entry 80, DEDUCED). -/
def State.endVerify (s : State) : State :=
  let aon (d : Die) (b : Blk) : Bool := s.hasDie d && domOf d b == none
  let low := (List.range 16).find? fun p => p == s.pkgId || s.topo.any fun c => c.1 == p || c.2.2.1 == p
  let s1 := (s.setF cr0 .pwr 0 Reg.PWR_DOM_ON s.presentDoms).setF cr0 .bal 0 Reg.BAL_CTL_MASTER_PKG (low.getD 0)
  let s2 := ({ s1 with boot := { s1.boot with applied := true } }.applyRecord aon).logSkipped
  let s3 := s2.crowns.foldl (fun t c => (t.rcvOn (.cr c)).recEnable .pad (.cr c) 0) s2
  let s4 := s3.recEnable .bal cr0 0
  if s4.isF cr0 .bal 0 Reg.BAL_STATUS_REFUSED then s4.haltBoot (s4.getF cr0 .bal 0 Reg.BAL_STATUS_REASON)
  else
    let s5 := ((s4.recEnable .pwr cr0 0).recEnable .thm cr0 0).recEnable .boot cr0 0
    let s6 := if s5.isFollower then { s5 with boot := { s5.boot with waitLoad := true } }
      else s5.setF cr0 .bal 0 Reg.BAL_STATUS_BEAT_VALID 1
    let s7 := { s6 with boot := { s6.boot with todo := s6.domTodo (s6.getF cr0 .pwr 0 Reg.PWR_DOM_ON) } }
    (((s7.endStep 5).setPhase 5).nextDomain).bootAdvance

/-- The copy of the record to use: A when it passes, else B with RC 0x2003 (R390). Both copies are read in the one pass
(R383), and each failing copy is logged with its own code (log entry 117, DEDUCED). -/
def State.pickRecord (s : State) (a b : List Byte) : Option (List Byte) × State :=
  let fa := s.objectFault 1 areaRecord a
  let fb := s.objectFault 1 areaRecord b
  let s1 := match fa with
    | some r => s.logFault .sec 0 r
    | none => s
  let s2 := match fb with
    | some r => s1.logFault .sec 1 r
    | none => s1
  match fa, fb with
  | none, _ => (some a, s2)
  | some _, none => (some b, (s2.log cr0 .boot 0 0x2003).setF cr0 .boot 0 Reg.BOOT_STATUS_CFG_COPY 1)
  | some _, some _ => (none, s2.log cr0 .boot 0 0x2004)

/-- A failure of CR1's bundle is logged on CR1. -/
def State.cr1Fault (s : State) (rc : Nat) : State := s.log (.cr 1) .sec 0 rc (if rc == 0xA001 then [2] else [])

/-- CR1's firmware bundle (R384): its own flash's where the record says so and it verifies, else CR0's, either under CR1's own root-key
hash; a failure is logged on CR1. The code where neither verifies, and the state. -/
def State.cr1Bundle (s : State) (fw cr1fw : List Byte) : Option Nat × State :=
  let own := if s.isF cr0 .boot 0 Reg.BOOT_FLASH_CR1_FLASH then some (s.objectFaultBy s.cr1Root 2 areaFw cr1fw) else none
  let t := match own with
    | some (some rc) => s.cr1Fault rc
    | _ => s
  let take (l : List Byte) : State := { t with boot := { t.boot with fw1 := l.take (hdrLen + oLen l) } }
  if !s.x2 then (none, s)
  else if own == some none then (none, take cr1fw)
  else match s.objectFaultBy s.cr1Root 2 areaFw fw with
    | none => (none, take fw)
    | some rc => (some rc, t.cr1Fault rc)

/-- Keep the addresses that the record gives the Ethernet ports (R277). -/
def State.setAddr (s : State) (p : PortAddr) : State :=
  let h := s.host p.crown
  let i := p.port.val
  let h1 := { h with mac := Tab.set 0 h.mac i p.mac, ip4 := Tab.set 0 h.ip4 i p.ip4,
                     ip6 := Tab.set (0, 0) h.ip6 i (p.ip6, p.ip6ll), vlans := Tab.set [] h.vlans i p.vlans,
                     groups := Tab.set [] h.groups i p.groups }
  s.setHost p.crown h1

/-- `FLASH_PASS` (R383, R384, R386 to R392): the contents of the areas that the single pass reads before MV0's HBM is trained,
of CR0's flash and, for the bundle and seeds, of CR1's; and the addresses that the record gives the Ethernet ports
(log entry 43, DESIGN CHOICE). -/
def execFlashPass (copyA copyB fw seedBytes cr1fw cr1Seeds : List Byte) (ports : List PortAddr) (s : State) :
    Host.Outcome State Fault Refusal :=
  if s.phase != 3 || !s.boot.flashOk then .next s
  else
    let s1 := (s.endStep 4).setPhase 4
    match s1.pickRecord copyA copyB with
    | (none, s2) => .next (s2.haltBoot 0x2004)
    | (some r, s2) =>
      match s2.objectFault 2 areaFw fw with
      | some rc => .next ((s2.logFault .sec 2 rc).haltBoot rc)
      | none =>
        let body := oBody r
        let es := entriesOf body
        let flag := bit (body.getD 4 0).toNat 0
        let own := (es.filter fun e => bit e.2.2 s.pkgId).map fun e => (e.1, e.2.1)
        let s3 := ((s2.noteVersion r).noteVersion fw).setF cr0 .boot 0 Reg.BOOT_FLASH_CR1_FLASH (b2n flag)
        let seeds := seedArea seedBytes ++ (if flag && s.x2 then seedArea cr1Seeds else [])
        let s4 := { s3 with seeds := seeds, topo := topoOf es, boot := { s3.boot with record := own, fw := fw.take (hdrLen + oLen fw) } }
        match s4.cr1Bundle fw cr1fw with
        | (some rc, s5) => .next (s5.haltBoot rc)
        | (none, s5) => .next (ports.foldl (fun (t : State) p => t.setAddr p) s5).endVerify

/-! ### Domains (R352 to R354, R392 to R394) -/

/-- A Crown die's PCIe link is up, with a width and a speed. -/
def State.linkUp (s : State) (c : Crown) (width speed : Nat) : State :=
  ((s.setF (.cr c) .pci 0 Reg.PCI_STATUS_LINK_UP 1).setF (.cr c) .pci 0 Reg.PCI_STATUS_WIDTH width).setF (.cr c) .pci 0
    Reg.PCI_STATUS_SPEED speed

/-- What a CRX that has come on starts (R392, R394): `PCI`, `ETH`, `TRY` and `THM` of its die, on CR0 `PTP` too.
Where `PERST#` is high already the endpoint enters Detect; what its link comes up as is left free. -/
def State.crxOn (s : State) (c : Crown) (ok : Bool) : State :=
  let d : Die := .cr c
  let s1 := (s.recEnable .pci d 0)
  let s2 := (List.range 4).foldl (fun (t : State) i => t.recEnable .ethPort d i ok) s1
  let s3 := s2.recEnable .tray d 0
  let s4 := (List.range 4).foldl (fun (t : State) i => (t.recEnable .port d i).recEnable .portLl d i) s3
  let s5 := if c = 0 then s4.recEnable .ptp d 0 else s4.recEnable .thm d 0
  let h := s5.host c
  let s6 := s5.setHost c { h with pciReady := true, detectAt := if h.perst then s.time + 1 else 0 }
  if h.perst then
    let (v, s7) := s6.draw 6
    s7.linkUp c (v % 8) (v / 8)
  else s6

/-- What a MVL that has come on starts (R353, R379, R392): `PREF` reaches its beat PLL, its links are enabled at both ends, its
`THM` and `RCV`; its HBM trains (log entry 69, DEDUCED). -/
def State.mvlOn (s : State) (d : Die) : State :=
  let s1 := (s.setF d .bal 0 Reg.BAL_STATUS_REF_OK (b2n s.boot.pref)).setDie d { s.die d with onAt := s.time }
  (((s1.rcvOn d).enableLinks d).recEnable .thm d 0).showMaster

/-- A domain has reached its on state: its registers stand at their reset values (R504), then its defaults and the record's entries, then its functions (R391, R392)
(log entry 118, DEDUCED). -/
def State.domainIsOn (s : State) (k : Domain) (ok : Bool) : State :=
  let d := domDie k
  let st := setBit (s.getF cr0 .pwr 0 Reg.PWR_DOM_STATE) k
  let s1 := ((s.dropRegs k).setF cr0 .pwr 0 Reg.PWR_DOM_STATE st).showLedgerOnly
  let s1 := (domEnds k).foldl (fun (t : State) e => if t.hasInst (leDie e) (leBlk e) (leInst e) then t.loadFuseMaps e else t) s1
  let sel (e : Die) (b : Blk) : Bool := e == d && domOf e b == some k.val
  match d with
  | .mv _ =>
    if 8 ≤ k.val then ((s1.iklDefaults d).applyRecord sel).mvlOn d
    else s1.applyRecord sel
  | .cr c =>
    if k.val % 2 = 0 then
      let s2 := (List.range 4).foldl (fun (t : State) p => t.setF d .ethPort p Reg.ETHP_CTL_MAX_FRAME 9216)
        ((s1.iklDefaults d).setF d .tray 0 Reg.TRY_CTL_START_WIN 20)
      ((s2.applyRecord sel).setF d .tray 0 Reg.TRY_STATUS_PKG_ID s.pkgId).crxOn c ok
    else s1.applyRecord sel

/-- `DOMAIN_ON` (R353, R391 to R393): the domain whose switch CR0 closed last has reached its on state. `ok` says that the
links of its Ethernet ports come up. -/
def execDomainOn (ok : Bool) (s : State) : Host.Outcome State Fault Refusal :=
  match s.boot.busyDom with
  | some (k, _) =>
    let s1 := { s with boot := { s.boot with busyDom := none } }.domainIsOn (Fin.ofNat 16 k) ok
    .next (s1.nextDomain.bootAdvance)
  | none => .next s

/-- A domain holds a function that is enabled (R354). `RCV`'s enable, which firmware cannot clear, does not count
(log entry 70, DEDUCED). -/
def State.domBusy (s : State) (k : Domain) : Bool :=
  let d := domDie k
  [Fn.pad, .thm, .phy, .cal, .ll, .gtr, .tray, .port, .portLl, .eng, .seq, .syn, .dma, .mem, .pci, .ethPort, .ptp, .fus, .ldg].any
    fun fn => domOf d (fnRegs fn).blk == some k.val && (List.range 4).any fun i => fnOn fn d i && s.enabled fn d i

/-- The loaded image names a resource of a domain (R29, R354): a Movement die that it names, its `MVL` where it names a stack or
a link of it; a Crown die for its ports. -/
def State.imageNames (s : State) (k : Domain) : Bool :=
  s.boot.loaded && (match s.boot.image with
    | some i => (i.names.contains (domDie k)) ||
        (i.ports.any fun n => k.val % 2 == 0 && decide (12 ≤ k.val) && domDie k == .cr (trayCrown n))
    | none => false)

/-- The domains of a mask respect the order of R353: MVC only with MVS and MVL of its die, MVS only with MVL. -/
def domMaskOk (m : Nat) : Bool :=
  (List.range 4).all fun i => (!bit m i || (bit m (4 + i) && bit m (8 + i))) && (!bit m (4 + i) || bit m (8 + i))

/-- A write to `PWR.DOM.ON` as one request (R353, R354): refused as a whole, or domains go off, in reverse order, and come on one
at a time. -/
def State.domRequest (s : State) (on : Nat) : State :=
  let off : List Domain := domOrder.reverse.filter fun (k : Domain) => s.domOn k && !bit on k
  if !s.x2 && on / 2 ^ 14 % 4 != 0 then s.refusePwr 0x1009
  else if (off.any fun k => s.domBusy k || s.imageNames k) then s.refusePwr 0x1007
  else if !domMaskOk on then s.refusePwr 0x1003
  else
    let s1 := (off.foldl (fun (t : State) k => t.domainOff k) (s.setF cr0 .pwr 0 Reg.PWR_DOM_ON on)).showLedgerOnly
    { s1 with boot := { s1.boot with todo := s1.domTodo on } }.nextDomain

/-- `DOMAIN_SWITCH_REQUEST` (R354). -/
def execDomainSwitchRequest (w : BitVec 16) (s : State) : Host.Outcome State Fault Refusal := .next (s.domRequest w.toNat)

/-- `PERST_DEASSERT` (R394): the endpoint enters Detect once CRX is on, and its link comes up with a width and speed
(log entry 51, DESIGN CHOICE). -/
def execPerstDeassert (c : Crown) (width speed : Fin 8) (s : State) : Host.Outcome State Fault Refusal :=
  let h := s.host c
  if !s.hasDie (.cr c) || h.perst then .next s
  else if !s.powered (.cr c) .pci then .next (s.setHost c { h with perst := true })
  else .next ((s.linkUp c width.val speed.val).setHost c { h with perst := true, detectAt := s.time + 1 })

/-! ### HBM training and the image area (R383, R395, R397, R398) -/

/-- Attempts at training each stack (R395, R413, R414). -/
def State.hbmTriesMax (s : State) : Nat :=
  if s.isF cr0 .boot 0 Reg.BOOT_CTL_EXPERT then s.getF cr0 .boot 0 Reg.BOOT_CTL_HBM_TRIES else 2

/-- The signed firmware bundle is placed in the recovery region of a die whose HBM is trained (R452). -/
def State.placeFw (s : State) (d : Die) : State := s.wrBytes (hbmPa d s.recBase) (s.boot.fw.take areaFw)

/-- `HBM_TRAINING_DONE` (R395, R454): an attempt at a stack of a Movement die whose MVL is on has ended; or its recalibration at chip
level, which the spec lets go on until it has worked (log entry 176, DEDUCED). -/
def execHbmTrainingDone (m : Mv) (stack : Fin 2) (ok : Bool) (s : State) : Host.Outcome State Fault Refusal :=
  let d : Die := .mv m
  let k := 2 * dieCode d + stack.val
  let n := Tab.get 0 s.boot.hbmTries k
  if bit s.recov.hbmRecal k then .next (if ok then { s with recov := { s.recov with hbmRecal := clrBit s.recov.hbmRecal k } } else s)
  else if !s.powered d .mem || !s.hbmStacks.contains stack.val || bit s.boot.hbmOk k || decide (s.hbmTriesMax ≤ n) then .next s
  else if ok then
    let s1 := { s with boot := { s.boot with hbmOk := setBit s.boot.hbmOk k } }
    let s2 := s1.setF d .mem 0 Reg.MEM_STATUS_TRAINED (setBit (s1.getF d .mem 0 Reg.MEM_STATUS_TRAINED) stack.val)
    .next ((if s2.hbmTrained d then (s2.placeFw d).recEnable .mem d 0 else s2).bootAdvance)
  else
    let s1 := { s with boot := { s.boot with hbmTries := Tab.set 0 s.boot.hbmTries k (n + 1) } }
    if n + 1 < s.hbmTriesMax then .next s1
    else .next ((s1.logAs cr0 d .mem 0 0x2007 [] 0xFF).haltBoot 0x2007)

/-- The staging range of a flash image (R398). -/
def State.stagingPa (s : State) : Nat := hbmPa (.mv 0) (s.recBase - 0x10000000)

/-- `FLASH_PASS_RESUME` (R383, R397, R398): the pass reads the image area into the staging range and is complete. An area that
holds no object of TYPE 3 leaves nothing to load; one that fails is logged. -/
def execFlashPassResume (image : List Byte) (s : State) : Host.Outcome State Fault Refusal :=
  if decide (s.phase < 5) || s.phase == 15 || s.isF cr0 .boot 0 Reg.BOOT_STATUS_FLASH_DONE || !s.hbmTrained (.mv 0) then .next s
  else
    let has := oMagic image == 0x54534F31 && oType image == 3
    let s1 := s.setF cr0 .boot 0 Reg.BOOT_STATUS_FLASH_DONE 1
    let s2 := s1.crowns.foldl (fun (t : State) c => t.applyFlDrv c) s1
    let s3 := if has then s2.wrBytes s2.stagingPa (image.take (hdrLen + oLen image)) else s2
    match if has then s3.objectFault 3 areaImage image else none with
    | some rc => .next ((s3.logFault .sec 5 rc).bootAdvance)
    | none =>
      .next ({ s3 with boot := { s3.boot with imgBytes := if has then hdrLen + oLen image else 0 } }.bootAdvance)

/-! ### The start window (R203, R396) -/

/-- The length of the start window in beats. -/
def State.startWin (s : State) (c : Crown) : Nat :=
  (if s.isF (.cr c) .tray 0 Reg.TRY_CTL_EXPERT then s.getF (.cr c) .tray 0 Reg.TRY_CTL_START_WIN else 20) * 100 * msBeats

/-- `START_WINDOW_END` (R203, R396): ports whose declared peer is not in service are missing; a follower that has had no load goes
on as a stand-alone package (log entry 93, DEDUCED). -/
def execStartWindowEnd (c : Crown) (s : State) : Host.Outcome State Fault Refusal :=
  let d : Die := .cr c
  let x := s.die d
  if x.trayAt == 0 || s.isF d .tray 0 Reg.TRY_STATUS_WIN_DONE || decide (s.time < x.trayAt - 1 + s.startWin c) ||
      !s.powered d .tray then .next s
  else
    let missing := (List.finRange 8).filter fun n => trayCrown n == c &&
      s.pf n Reg.TRYP_PORT_CTL_PEER_VALID == 1 && !s.inService (.tray n)
    let s1 := missing.foldl (fun (t : State) n => t.logLink (.tray n) 0xB003) s
    let mask := missing.foldl (fun v (n : Fin 8) => setBit v n.val) (s1.getF d .tray 0 Reg.TRY_MISSING)
    let all := missing.foldl (fun v (n : Fin 8) => setBit v n.val) (s1.getF cr0 .tray 0 Reg.TRY_MISSING)
    let s2 := ((s1.setF cr0 .tray 0 Reg.TRY_MISSING all).setF d .tray 0 Reg.TRY_MISSING mask).setF d .tray 0 Reg.TRY_STATUS_WIN_DONE 1
    if c = 0 ∧ s2.boot.waitLoad then
      let s3 := (s2.setF cr0 .bal 0 Reg.BAL_STATUS_BEAT_VALID 1).setF cr0 .bal 0 Reg.BAL_STATUS_SYNC_LOST 1
      .next (({ s3 with boot := { s3.boot with waitLoad := false, alone := true } }.showMaster.nextDomain).bootAdvance)
    else .next s2

/-! ### Restart (R407) -/

/-- Start-up begins again at step 3, with the straps as first sampled. What an earlier pass enabled is cleared, and every domain
goes off (log entry 71, DEDUCED). -/
def State.restart (s : State) : State :=
  let s1 := s.allOffBut []
  let clear (t : State) (fn : Fn) (d : Die) : State := t.setF d (fnRegs fn).blk 0 (fnRegs fn).enable 0
  let s2 := (clear (clear (clear (clear s1 .bal cr0) .pwr cr0) .boot cr0) .ldg cr0)
  let s3 := s2.crowns.foldl (fun (t : State) c =>
    let u := (clear (clear (clear t .thm (.cr c)) .rcv (.cr c)) .pad (.cr c)).setDie (.cr c) { t.die (.cr c) with run := false, trayAt := 0 }
    ((u.setF (.cr c) .bal 0 Reg.BAL_STATUS_REF_OK 0).setF (.cr c) .bal 0 Reg.BAL_STATUS_PLL_LOCK 0).setF (.cr c) .bal 0
      Reg.BAL_STATUS_BEAT_VALID 0) s2
  let s4 := (s3.setF cr0 .boot 0 Reg.BOOT_HALT_HALT_RC 0).setF cr0 .boot 0 Reg.BOOT_HALT_HALT_PHASE 0
  let s5 := (s4.setF cr0 .boot 0 Reg.BOOT_STATUS_FLASH_DONE 0).setF cr0 .boot 0 Reg.BOOT_STATUS_CFG_COPY 0
  let s6 := (List.range 3).foldl (fun (t : State) i => t.setF cr0 .sec 0 Reg.SEC_VERSION 0 (4 * i)) s5
  { s6.setPhase 2 with seeds := [], topo := [], inForce := [],
                       boot := { t0 := s.boot.t0, since := s.time, monAt := s.boot.monAt, applied := s.boot.applied, blow := s.boot.blow,
                                 dbgTurn := s.boot.dbgTurn, flCmd := s.boot.flCmd, flTx := s.boot.flTx, jtagIr := s.boot.jtagIr,
                                 jtagOut := s.boot.jtagOut, jtagBsr := s.boot.jtagBsr, smPtr := s.boot.smPtr, smOut := s.boot.smOut,
                                 smNack := s.boot.smNack } }

/-- Write 1 to `BOOT.CTL.RESTART` (R407). -/
def State.restartWrite (s : State) : State :=
  if s.phase != 15 || s.getF cr0 .boot 0 Reg.BOOT_HALT_HALT_RC == 0x2008 then s.refuse .boot cr0 0 0x1007 else s.restart

/-- `RESTART` (R407). -/
def execRestart (s : State) : Host.Outcome State Fault Refusal := .next s.restartWrite

end Sys2Proof.Machine
end

