-- ==== Sys2Proof/Machine/ChangeSet.lean ====
section
/-! DEFINITION. Live change: shadow copies, arming a set, its confirmation and decision, its application, and the hack
(15_configuration_and_live_change, R49 to R51, R160). -/

namespace Sys2Proof.Machine

/-! ### Members of a set (R422, R424, R425) -/

/-- A field of a register: where it stands and which it is, by its key. -/
def fieldOf (key : Nat) : Option (Place × Fld) :=
  match findPlace (keyAddr key) with
  | some p => (p.row.flds.find? fun f => f.lo == keyLo key).map fun f => (p, f)
  | none => none

/-- The value of a field in effect. -/
def State.fieldNow (s : State) (p : Place) (f : Fld) : Nat := s.getF p.die p.blk p.inst f p.k

/-- Put a value into a field by its key. -/
def State.putField (s : State) (m : Nat × Nat) : State :=
  match fieldOf m.1 with
  | some (p, f) => s.setF p.die p.blk p.inst f m.2 p.k
  | none => s

/-- The key of a field of a register. -/
def placeKey (p : Place) (f : Fld) : Nat := fkey p.die p.blk p.inst f p.k

/-- Whether the field of a key is of class B. -/
def keyClassB (key : Nat) : Bool :=
  match fieldOf key with
  | some (p, f) => isClassB p.blk f
  | none => false

/-- The shadow copies of a die's fields that differ from the value in effect: key and value. -/
def State.shadowOf (s : State) (d : Die) : List (Nat × Nat) :=
  (s.shadow.map fun p => (p.1, p.2 - 1)).filter fun m =>
    match fieldOf m.1 with
    | some (p, f) => p.die == d && s.fieldNow p f != m.2
    | none => false

/-- The shadow copies of a die's table records. -/
def State.tshadowOf (s : State) (d : Die) : List (Nat × Nat) :=
  (s.tshadow.filter fun p => p.1 / 2 ^ 22 % 8 == dieCode d).map fun p => (p.1, p.2 - 1)

/-- The valid staging entries of CR0: MS offset and word (R425). -/
def State.stageEntries (s : State) : List (Nat × Nat) :=
  ((List.range 64).filter fun i => s.isF cr0 .cfg 0 Reg.CFG_STAGE_OFF_VALID (8 * i)).map fun i =>
    (s.getF cr0 .cfg 0 Reg.CFG_STAGE_OFF_OFFSET (8 * i), s.getF cr0 .cfg 0 Reg.CFG_STAGE_VAL_VALUE (8 * i))

/-- A staging entry would change a field that is not of class B (R425). -/
def State.stageClassC (s : State) (e : Nat × Nat) : Bool :=
  match findPlace e.1 with
  | some p => p.row.flds.any fun f => !isClassB p.blk f && (f.acc == .rw || f.acc == .lck || f.acc == .arm) &&
      s.fieldNow p f != bitsOf e.2 f.lo f.w
  | none => false

/-- The class B members of a staging entry (log entry 85, DEDUCED). -/
def stageMembers (e : Nat × Nat) : List (Nat × Nat) :=
  match findPlace e.1 with
  | some p => (p.row.flds.filter fun f => isClassB p.blk f).map fun f => (placeKey p f, bitsOf e.2 f.lo f.w)
  | none => []

/-- The members that the staging table gives the set. -/
def State.staged (s : State) : List (Nat × Nat) := s.stageEntries.flatMap stageMembers

/-- The least hack of a class B member, in frames (R436) (log entry 81, DEDUCED). -/
def State.minHack (s : State) (key : Nat) : Nat :=
  match fieldOf key with
  | some (p, f) =>
    let l := ceilDiv (s.getF p.die .trayPort p.inst Reg.TRYP_LAT_LAT_BUDGET) frameBeats
    if p.blk == .ikl then 2
    else if p.blk == .trayPort then (if f = Reg.TRYP_LAT_LAT_BUDGET then l + 2 else 2 + 2 * l)
    else 1
  | none => 0

/-- The greatest of those minimums. -/
def State.minHacks (s : State) (ms : List (Nat × Nat)) : Nat :=
  ((ms.filter fun m => keyClassB m.1).map fun m => s.minHack m.1).foldl max 0

/-- `HACK_MAX` of the loaded image. -/
def State.hackMax (s : State) : Nat := s.getF cr0 .bal 0 Reg.BAL_HACK_HACK_MAX

/-! ### A die's confirmation (R430, R437, R439) -/

/-- The function whose consistency check covers a field. -/
def fnOfField (p : Place) (f : Fld) : Option Fn :=
  match p.blk with
  | .ikl => some (if f.off < 0x20 then .phy else if f.off < 0x80 || 0x100 ≤ f.off then .cal else .ll)
  | .trayPort => some .port
  | b => [Fn.bal, .pwr, .thm, .gtr, .tray, .pci, .ethPort, .ptp, .fus, .ldg].find? fun fn => (fnRegs fn).blk == b

/-- The functions with a changed field, with die and instance. -/
def changedFns (ms tabs : List (Nat × Nat)) : List (Fn × Die × Nat) :=
  (ms.filterMap fun m => (fieldOf m.1).bind fun x => (fnOfField x.1 x.2).map fun fn => (fn, x.1.die, x.1.inst)) ++
    (tabs.filterMap fun m =>
      let sp := keySpace m.1
      let d := m.1 / 2 ^ 22 % 8
      if 16 ≤ sp then some (Fn.ldg, cr0, 0) else if 10 ≤ sp then some (Fn.fus, Die.cr (Fin.ofNat 2 (d - 4)), 0) else none)

/-- The check of R418 on values that would be in effect, without the check for class C changes, which a set has of its own. -/
def State.valueCheck (s : State) (x : Fn × Die × Nat) : Option Nat :=
  let (fn, d, inst) := x
  (firstOf [(s.reservedSet fn d inst, 0x1002), (s.resourceAbsent fn d, 0x1009), (!s.rangesOk fn d inst, 0x1001),
    (s.notReady fn d inst, 0x1003)]).or (if fn == .gtr then none else s.ownCheck fn d inst true)

/-- Class B members that name a bundle or port out of service (R439). -/
def State.outOfService (s : State) (key : Nat) : Bool :=
  match fieldOf key with
  | some (p, f) =>
    if p.blk == .ikl && f.off == Reg.IKL_LANEMAP_J0_TGT.off then
      !(s.serving (.ikl p.die (Fin.ofNat 4 p.inst))).contains (p.k / 0x100)
    else if p.blk == .trayPort && f.off == Reg.TRYP_LANEMAP_SPARE_TGT.off then
      match p.die with
      | .cr c => !s.inService (.tray (Fin.ofNat 8 (4 * c.val + p.inst)))
      | .mv _ => false
    else false
  | none => false

/-- A change of `LAT_BUDGET` on a port with SC slots in the loaded image (R437). -/
def State.latOnSc (s : State) (m : Nat × Nat) : Bool :=
  match fieldOf m.1 with
  | some (p, f) => decide (f = Reg.TRYP_LAT_LAT_BUDGET) && p.blk == .trayPort && s.boot.loaded && s.fieldNow p f != m.2 &&
      (match p.die with
       | .cr c => s.scOnLink (.tray (Fin.ofNat 8 (4 * c.val + p.inst)))
       | .mv _ => false)
  | none => false

/-- Why a die's part fails: the class checks, the checks of R418 on the values after the commit, those of the bank (R158, R160),
of pending changes (R331), of lane maps and latency budgets; the function whose check it is, and the code. None when it passes. -/
def State.partFault (s : State) (d : Die) (ms tabs : List (Nat × Nat)) (bank : Bool) (hackLen turn : Nat) :
    Option (Option (Fn × Die × Nat) × Nat) :=
  let bs := ms.filter fun m => keyClassB m.1
  let hasB := bs != []
  let after := ms.foldl (fun (t : State) m => t.putField m) s
  let after2 := { after with tables := tabs.foldl (fun t (m : Nat × Nat) => Tab.set 0 t m.1 m.2) after.tables }
  let shadow := 1 - s.bank d
  ((firstOf [
    (hasB && s.boot.loaded && (hackLen == 0 || s.hackMax == 0), 0x1007),
    (hasB && decide (s.hackMax < hackLen) || hasB && s.boot.loaded && decide (hackLen < s.minHacks bs), 0x1001),
    (ms.any fun m => s.latOnSc m, 0x1007),
    (bs.any fun m => s.outOfService m.1, 0x1003)]).map (fun rc => (none, rc))).or
  (((changedFns ms tabs).findSome? fun x => (after2.valueCheck x).map fun rc => (some x, rc)).or
  ((((tabs.filter fun m => keySpace m.1 == 18).findSome? fun m => after2.changeCheck m.2 turn).map fun rc =>
    (some (Fn.ldg, cr0, 0), rc)).or
  ((if !bank then none
   else if (s.pickVariant d shadow (s.lossSet d)).isNone then some 0x4002
   else if d == cr0 then
     (s.bankCheck shadow).or (s.hackCheck shadow (s.getF cr0 .bal 0 Reg.BAL_HACK_WIN_START) s.hackMax)
   else none).map fun rc => (some (Fn.gtr, d, 0), rc))))

/-- The class of a part: 2 with a class B member, 1 with any other, 0 when empty. -/
def partClass (ms tabs : List (Nat × Nat)) (bank : Bool) : Nat :=
  if (ms.any fun m => keyClassB m.1) then 2 else if ms != [] || tabs != [] || bank then 1 else 0

/-- A die's part of the set in hand. -/
def State.part (s : State) (d : Die) : Option Part := Tab.get none s.chg.parts (dieCode d)

/-- The state with another part of a die, shown in `CFG.SHADOW.FROZEN`. -/
def State.setPart (s : State) (d : Die) (p : Option Part) : State :=
  let s1 := { s with chg := { s.chg with parts := Tab.set none s.chg.parts (dieCode d) p } }
  s1.setF d .cfg 0 Reg.CFG_SHADOW_FROZEN (b2n p.isSome)

/-- The functions whose `STATUS.REFUSED` speaks of arms too, and which a part concerns: the gear train with a bank switch, fusion,
the ledger (R173, R327, R350). -/
def armFns (d : Die) (ms tabs : List (Nat × Nat)) (bank : Bool) : List (Fn × Die × Nat) :=
  (if bank then [(Fn.gtr, d, 0)] else []) ++ (changedFns ms tabs).filter fun x => x.1 == .fus || x.1 == .ldg

/-- A function's `STATUS` shows whether its last arm was refused, and why (log entry 166, DEDUCED). -/
def State.showArm (s : State) (x : Fn × Die × Nat) (rc : Option Nat) : State :=
  let r := fnRegs x.1
  (s.setF x.2.1 r.blk x.2.2 r.refused (b2n rc.isSome)).setF x.2.1 r.blk x.2.2 r.reason (rc.getD 0)

/-- A die freezes its shadow copies, on CR0 the staging entries with them, and checks its part: its class, and the code by which
it fails (R430), which the function concerned shows (R173). -/
def State.freeze (s : State) (d : Die) (hackLen turn : Nat) : Nat × Option Nat × State :=
  let ms := s.shadowOf d ++ (if d == cr0 then s.staged else [])
  let tabs := s.tshadowOf d
  let cls := partClass ms tabs s.chg.bank
  let bad := s.partFault d ms tabs s.chg.bank hackLen turn
  let s1 := (armFns d ms tabs s.chg.bank).foldl (fun (t : State) x => t.showArm x (match bad with
    | some (some y, rc) => if y == x then some rc else none
    | _ => none)) s
  (cls, bad.map (·.2), s1.setPart d (some ⟨turn, ms, tabs, cls, bad.isNone, 0⟩))

/-! ### Messages (R429) -/

/-- Operations of an ARM_CONFIRM. -/
abbrev opArm : Nat := 0
abbrev opConfirm : Nat := 1
abbrev opCommit : Nat := 2
abbrev opAbort : Nat := 3

/-- The container's body. -/
def armBody (op : Nat) (m : ArmMsg) : Nat :=
  m.setId % 256 * 2 ^ 14 + m.die % 8 * 2 ^ 22 + m.pkg % 16 * 2 ^ 25 + m.turn % 2 ^ 43 * 2 ^ 29 + m.cls % 4 * 2 ^ 72 +
    b2n m.ok * 2 ^ 74 + m.reason % 2 ^ 16 * 2 ^ 75 + m.hackLen % 128 * 2 ^ 91 + b2n m.tray * 2 ^ 98 + op % 4 * 2 ^ 99

/-- The message of the set in hand to or from a die. -/
def State.armMsg (s : State) (d : Die) (cls : Nat) (ok : Bool) (reason : Nat) : ArmMsg :=
  ⟨s.chg.setId, dieCode d, s.pkgId, s.chg.turn, cls, ok, reason, s.chg.hackLen, s.chg.tray⟩

/-- CR0 sends a message to a die: over S*m*0 to MV*m*, over S00 to be relayed to CR1 (R38). -/
def State.armTo (s : State) (d : Die) (op : Nat) (m : ArmMsg) : State :=
  match d with
  | .mv k => s.sbSend (spCrown k 0) 0x1C (armBody op m)
  | .cr c => if c = 1 then s.sbSend (spCrown 0 0) 0x1C (armBody op m) else s

/-- A die answers CR0. -/
def State.armReply (s : State) (d : Die) (m : ArmMsg) : State :=
  match d with
  | .mv k => s.sbSend (spMv k 0) 0x1C (armBody opConfirm m)
  | .cr _ => s.sbSend (spCrown 0 1) 0x1C (armBody opConfirm m)

/-- CR0 sends an operation of the set in hand to every other die. -/
def State.armDies (s : State) (op : Nat) : State :=
  (s.dieList.filter (· != cr0)).foldl (fun (t : State) d => t.armTo d op (t.armMsg d 0 false 0)) s

/-- The `LIVE` tray ports whose declared peer lies one hop further from the master: the sync paths of the packages behind this
one (R41, R431). -/
def State.downPorts (s : State) : List (Fin 8) :=
  let m := s.getF cr0 .bal 0 Reg.BAL_CTL_MASTER_PKG
  s.livePorts.filter fun n => s.pf n Reg.TRYP_PORT_CTL_PEER_VALID == 1 &&
    decide (hopsTo s.topo m (s.pf n Reg.TRYP_PORT_CTL_PEER_PKG) = hopsTo s.topo m s.pkgId + 1)

/-- CR0 sends an operation of a tray set to the packages behind it. -/
def State.armTray (s : State) (op : Nat) : State :=
  s.downPorts.foldl (fun (t : State) n =>
    t.sbSend (.tray n) 0x1C (armBody op { t.armMsg cr0 0 false 0 with pkg := t.pf n Reg.TRYP_PORT_CTL_PEER_PKG })) s

/-- CR0 sends a message towards the master. -/
def State.armUp (s : State) (m : ArmMsg) : State :=
  match s.syncPort with
  | some n => s.sbSend (.tray n) 0x1C (armBody opConfirm m)
  | none => s

/-! ### Arming (R426, R428) -/

/-- The reason codes of the index (18_address_map_and_reason_codes): the package raises no other (R11). -/
def reasonCodes : List Nat :=
  [0x1001, 0x1002, 0x1003, 0x1004, 0x1005, 0x1006, 0x1007, 0x1008, 0x1009,
   0x2001, 0x2002, 0x2003, 0x2004, 0x2005, 0x2006, 0x2007, 0x2008,
   0x3001, 0x3002, 0x3003, 0x3004, 0x3005, 0x3006, 0x3007, 0x3008, 0x3009,
   0x4001, 0x4002, 0x4003, 0x4004, 0x4005,
   0x5001, 0x5002, 0x5003, 0x5004,
   0x6001, 0x6002, 0x6003, 0x6004,
   0x7001, 0x7002, 0x7003, 0x7004, 0x7005,
   0x8001, 0x8002, 0x8003, 0x8004, 0x8005,
   0x9001, 0x9002, 0x9003, 0x9004, 0x9005, 0x9006, 0x9007, 0x9008,
   0xA001, 0xA002, 0xA003,
   0xB001, 0xB002, 0xB003, 0xB004, 0xB005]

/-- The code that a message of a set carries; one that the index does not list is never shown (R11) (log entry 168, DESIGN
CHOICE). -/
def knownCode (rc : Nat) : Nat := if reasonCodes.contains rc then rc else 0x1006

/-- CR0 takes a die's confirmation (R430, R431). -/
def State.takeConfirm (s : State) (d : Die) (cls : Nat) (bad : Option Nat) : State :=
  let s1 := s.setF cr0 .cfg 0 Reg.CFG_ARM_STATUS_CLASS (max (s.getF cr0 .cfg 0 Reg.CFG_ARM_STATUS_CLASS) cls)
  match bad with
  | none => s1.setF cr0 .cfg 0 Reg.CFG_ARM_STATUS_CONFIRMED (setBit (s1.getF cr0 .cfg 0 Reg.CFG_ARM_STATUS_CONFIRMED) (dieCode d))
  | some rc => if s1.chg.reason == 0 then { s1 with chg := { s1.chg with reason := knownCode rc } } else s1

/-- A set begins: its dies are sent ARM and CR0 freezes its own part. -/
def State.beginSet (s : State) (c : ChgSt) (needed : Nat) : State :=
  let s1 := { s with chg := { c with armed := true, parts := s.chg.parts } }
  let s2 := ((s1.setF cr0 .cfg 0 Reg.CFG_ARM_STATE 1).setF cr0 .cfg 0 Reg.CFG_ARM_STATUS_CONFIRMED 0).setF cr0 .cfg 0
    Reg.CFG_ARM_STATUS_CLASS 0
  let s3 := (s2.setF cr0 .cfg 0 Reg.CFG_ARM_TRAY_PKG_OK 0).setF cr0 .cfg 0 Reg.CFG_ARM_TRAY_PKG_NEEDED needed
  let (cls, bad, s4) := (s3.armDies opArm).freeze cr0 c.hackLen c.turn
  s4.takeConfirm cr0 cls bad

/-- The target turn that `COMMIT_TURN` or `COMMIT_TAI` names (R13, R426). -/
def State.armTurn (s : State) (byTai : Bool) : Nat :=
  if byTai then
    ceilDiv (beatOfTai s.cr0Map (s.get64 cr0 .cfg 0 Reg.CFG_COMMIT_TAI_LO_TAI Reg.CFG_COMMIT_TAI_HI_TAI)) turnBeats
  else s.get64 cr0 .cfg 0 Reg.CFG_COMMIT_TURN_LO_TURN Reg.CFG_COMMIT_TURN_HI_TURN

/-- The checks of an arm, in order: the first failing one's code (R426) (log entry 46, DEDUCED). -/
def State.armCheck (s : State) (tray byTai : Bool) (hackLen turn : Nat) : Option Nat :=
  let hasB := s.staged != []
  let b := s.beat cr0
  firstOf [
    (s.chg.armed, 0x1003),
    (byTai && !s.isF cr0 .bal 0 Reg.BAL_STATUS_TAI_VALID, 0x1003),
    (tray && s.topo == [], 0x1003),
    (decide (turn * turnBeats < b + (if tray then 24 else 12) * turnBeats), 0x1005),
    (decide (b + 65536 * turnBeats < turn * turnBeats), 0x1001),
    (decide (64 < hackLen), 0x1008),
    (s.stageEntries.any fun e => s.stageClassC e, 0x1007),
    ((hasB || decide (0 < hackLen)) && s.boot.loaded && s.hackMax == 0, 0x1007),
    (decide (s.hackMax < hackLen) || hasB && s.boot.loaded && hackLen == 0, 0x1001),
    (s.boot.loaded && decide (hackLen < s.minHacks s.staged), 0x1001)]

/-- The packages that must confirm a tray set: those the topology declares, but for the peers of ports in `TRY.MISSING`, and for
followers none (R431). -/
def State.neededPkgs (s : State) : Nat :=
  if s.isFollower then 0
  else
    let lost := (List.finRange 8).filter fun n => bit (s.getF cr0 .tray 0 Reg.TRY_MISSING) n.val
    (s.declared.filter fun p => !(lost.any fun n => s.pf n Reg.TRYP_PORT_CTL_PEER_PKG == p)).foldl setBit 0

/-- A write of GO (R426): refused with block `CFG`, or the set is armed. -/
def State.armGo (s : State) : State :=
  let tray := s.isF cr0 .cfg 0 Reg.CFG_ARM_SCOPE
  let byTai := s.isF cr0 .cfg 0 Reg.CFG_ARM_BY_TAI
  let hackLen := s.getF cr0 .cfg 0 Reg.CFG_ARM_HACK_LEN
  let turn := s.armTurn byTai
  match s.armCheck tray byTai hackLen turn with
  | some rc =>
    let s1 := (s.refuseBlk cr0 .cfg 0 rc).setF cr0 .cfg 0 Reg.CFG_ARM_STATUS_REASON rc
    if s.isF cr0 .cfg 0 Reg.CFG_ARM_BANK then s1.showArm (.gtr, cr0, 0) (some rc) else s1
  | none =>
    let s1 := if byTai then s.set64 cr0 .cfg 0 Reg.CFG_COMMIT_TURN_LO_TURN Reg.CFG_COMMIT_TURN_HI_TURN turn else s
    s1.beginSet { tray := tray, setId := s.getF cr0 .cfg 0 Reg.CFG_ARM_SET_ID, turn := turn,
                  bank := s.isF cr0 .cfg 0 Reg.CFG_ARM_BANK, hackLen := hackLen } (if tray then s.neededPkgs else 0)

/-- The set in hand is aborted on this package (R432): the code is reported, the dies are told, the values in effect and the
shadow copies stay. An activation is armed again 64 turns later (R401). -/
def State.abortSet (s : State) (rc : Nat) : State :=
  let s1 := (s.refuseBlk cr0 .cfg 0 rc).setF cr0 .cfg 0 Reg.CFG_ARM_STATUS_REASON rc
  let s2 := ((s1.setF cr0 .cfg 0 Reg.CFG_ARM_STATE 3).armDies opAbort).setPart cr0 none
  let s3 := if s.chg.tray then s2.armTray opAbort else s2
  let s4 := if s.chg.act && !s.isFollower then { s3 with boot := { s3.boot with rearm := s3.turn cr0 + 65 } } else s3
  { s4 with chg := { parts := s4.chg.parts, lastOut := s4.chg.lastOut } }

/-- Clear the staging table. -/
def State.clearStage (s : State) : State :=
  (List.range 64).foldl (fun (t : State) i =>
    ((t.setF cr0 .cfg 0 Reg.CFG_STAGE_OFF_VALID 0 (8 * i)).setF cr0 .cfg 0 Reg.CFG_STAGE_OFF_OFFSET 0 (8 * i)).setF cr0 .cfg 0
      Reg.CFG_STAGE_VAL_VALUE 0 (8 * i)) s

/-- A write of DISCARD (R428). On a follower of a tray set the master decides, and is told that the package fails
(log entry 86, DEDUCED). -/
def State.armDiscard (s : State) : State :=
  if !s.chg.armed then { s with shadow := [], tshadow := [] }.clearStage
  else if s.chg.decided != 0 then s
  else if s.chg.tray && s.isFollower then (s.armUp (s.armMsg cr0 0 false 0x1006)).abortSet 0x1006
  else s.abortSet 0x1006

/-- A write of `CFG.ARM`: its fields, then DISCARD, then GO. -/
def State.armWrite (s : State) (w : Nat) : State :=
  let f (t : State) (x : Fld) : State := t.setF cr0 .cfg 0 x (bitsOf w x.lo x.w)
  let s1 := f (f (f (f (f s Reg.CFG_ARM_SCOPE) Reg.CFG_ARM_BY_TAI) Reg.CFG_ARM_BANK) Reg.CFG_ARM_HACK_LEN) Reg.CFG_ARM_SET_ID
  let s2 := if bit w 1 then s1.armDiscard else s1
  if bit w 0 then s2.armGo else s2

/-- `ARM_GO` (R426): a write of `CFG.ARM` with GO set. -/
def execArmGo (w : Word) (s : State) : Host.Outcome State Fault Refusal := .next (s.armWrite (setBit w.toNat 0))

/-- `ARM_DISCARD` (R428): a write of `CFG.ARM` with DISCARD set. -/
def execArmDiscard (w : Word) (s : State) : Host.Outcome State Fault Refusal := .next (s.armWrite (setBit w.toNat 1))

/-! ### Messages received (R430 to R434) -/

/-- A die that is not addressed passes the message on: MV0 between CR0 and CR1 (R38, R429). -/
def relayEnd (e : LinkEnd) (op die : Nat) : Option LinkEnd :=
  if e == spMv 0 0 && op != opConfirm && die == 5 then some (spMv 0 1)
  else if e == spMv 0 1 && op == opConfirm then some (spMv 0 0)
  else none

/-- The message in a container (R429). -/
def readArm (box : Nat) : ArmMsg :=
  ⟨bitsOf box 14 8, bitsOf box 22 3, bitsOf box 25 4, bitsOf box 29 43, bitsOf box 72 2, bit box 74, bitsOf box 75 16,
   bitsOf box 91 7, bit box 98⟩

/-- A slot that brings an ARM_CONFIRM container of one operation: its message where it is the first copy; every copy is
acknowledged (R146). -/
def State.armTakes (s : State) (e : LinkEnd) (r : SbSlot) (op : Nat) : Option ArmMsg × State :=
  match s.sbTakes e r 0x1C with
  | (some box, t) =>
    if bitsOf box 99 2 == op then
      let (first, u) := t.sbTake e 0x1C (bitsOf box 6 8)
      (if first then some (readArm box) else none, u)
    else (none, s)
  | (none, t) => (none, t)

/-- A package behind the master takes the ARM of an activation: while it is LOADING, with its image loaded and no other set armed
(R401). -/
def State.armFromTray (s : State) (m : ArmMsg) : State :=
  if s.chg.armed || s.phase != 9 || !s.boot.loaded then s
  else
    let s1 := s.beginSet { tray := true, setId := m.setId, turn := m.turn, hackLen := m.hackLen, act := true } 0
    s1.armTray opArm

/-- `ARM` (R430): a die receives an ARM on a link end; a first copy freezes its part, which is checked and confirmed. -/
def execArm (e : LinkEnd) (r : SbSlot) (s : State) : Host.Outcome State Fault Refusal :=
  match s.armTakes e r opArm with
  | (none, s1) => .next s1
  | (some m, s1) =>
    let d := leDie e
    match relayEnd e opArm m.die with
    | some f => .next (s1.sbSend f 0x1C (armBody opArm m))
    | none =>
      if isTray e then .next (s1.armFromTray m)
      else if d == cr0 then .next s1
      else
        let (cls, bad, s2) := s1.freeze d m.hackLen m.turn
        .next (s2.armReply d { m with die := dieCode d, cls := cls, ok := bad.isNone, reason := bad.getD 0 })

/-- The master takes a package's confirmation: it counts only for the set in hand, and for an activation only from a package
whose image has the same hash (R401, R431) (log entry 82, DEDUCED). -/
def State.takePkgConfirm (s : State) (m : ArmMsg) : State :=
  if !s.chg.armed || s.chg.decided != 0 || m.setId != s.chg.setId || m.turn != s.chg.turn then s
  else if m.ok then
    if s.chg.act && !(s.boot.reports.any fun r => r.1 == m.pkg && r.2.1 == s.boot.hash) then s
    else s.setF cr0 .cfg 0 Reg.CFG_ARM_TRAY_PKG_OK (setBit (s.getF cr0 .cfg 0 Reg.CFG_ARM_TRAY_PKG_OK) m.pkg)
  else if s.chg.reason == 0 then { s with chg := { s.chg with reason := knownCode m.reason } } else s

/-- `CONFIRM` (R430, R431): CR0 takes a die's, the master a package's; a package on the way passes it on. -/
def execConfirm (e : LinkEnd) (r : SbSlot) (s : State) : Host.Outcome State Fault Refusal :=
  match s.armTakes e r opConfirm with
  | (none, s1) => .next s1
  | (some m, s1) =>
    match relayEnd e opConfirm m.die with
    | some f => .next (s1.sbSend f 0x1C (armBody opConfirm m))
    | none =>
      if isTray e then (if s1.isFollower then .next (s1.armUp m) else .next (s1.takePkgConfirm m))
      else if leDie e != cr0 || !s1.chg.armed || s1.chg.decided != 0 || m.setId != s1.chg.setId || m.turn != s1.chg.turn then .next s1
      else
        match dieOfCode m.die with
        | some d => .next (s1.takeConfirm d m.cls (if m.ok then none else some m.reason))
        | none => .next s1

/-- Every present die has confirmed with OK, and none of them was reset since (R431, R434). -/
def State.allConfirmed (s : State) : Bool :=
  s.dieList.all fun d => bit (s.getF cr0 .cfg 0 Reg.CFG_ARM_STATUS_CONFIRMED) (dieCode d) && (match s.part d with
    | some p => p.ok
    | none => true)

/-- `PACKAGE_CONFIRM` (R431): at the boundary of T − 9 CR0 confirms for its package. -/
def execPackageConfirm (s : State) : Host.Outcome State Fault Refusal :=
  let c := s.chg
  if !c.armed || !c.tray || c.pkgSent || c.decided != 0 || !s.atTurn cr0 || decide (s.turn cr0 + 9 < c.turn) then .next s
  else
    let ok := s.allConfirmed
    let m := s.armMsg cr0 (s.getF cr0 .cfg 0 Reg.CFG_ARM_STATUS_CLASS) ok (if ok then 0 else if c.reason == 0 then 0x1006 else c.reason)
    let s1 := { s with chg := { c with pkgSent := true, lastOut := some (s.pkgId, armBody opConfirm m) } }
    .next (if s.isFollower then s1.armUp m
      else if ok then s1.setF cr0 .cfg 0 Reg.CFG_ARM_TRAY_PKG_OK (setBit (s1.getF cr0 .cfg 0 Reg.CFG_ARM_TRAY_PKG_OK) s.pkgId)
      else s1)

/-- The set in hand is decided as COMMIT on this package: its CR0 holds it, and its dies are told (R433). An activation's turn
is shown (R401). -/
def State.commitSet (s : State) : State :=
  let s1 := { s with chg := { s.chg with decided := 1 } }
  let s2 := match s1.part cr0 with
    | some p => s1.setPart cr0 (some { p with decision := 1 })
    | none => s1
  let s3 := s2.armDies opCommit
  let s4 := if s.chg.tray then s3.armTray opCommit else s3
  if s.chg.act then
    { s4 with boot := { s4.boot with actTurn := s.chg.turn + 1 } }.set64 cr0 .boot 0 Reg.BOOT_ACT_TURN_LO_TURN
      Reg.BOOT_ACT_TURN_HI_TURN s.chg.turn
  else s4

/-- `ARM_DECISION` (R431): at the boundary of T − 8 CR0, or the tray master, decides. -/
def execArmDecision (s : State) : Host.Outcome State Fault Refusal :=
  let c := s.chg
  if !c.armed || c.decided != 0 || !s.atTurn cr0 || decide (s.turn cr0 + 8 < c.turn) || (c.tray && s.isFollower) then .next s
  else
    let need := s.getF cr0 .cfg 0 Reg.CFG_ARM_TRAY_PKG_NEEDED
    let have_ := s.getF cr0 .cfg 0 Reg.CFG_ARM_TRAY_PKG_OK
    let ok := if c.tray then s.allConfirmed && Nat.land need have_ == need else s.allConfirmed
    .next (if ok then s.commitSet else s.abortSet (if c.reason == 0 then 0x1006 else c.reason))

/-- `COMMIT` (R433, R434): a die records the decision; a follower's CR0 passes it on to its dies and packages. -/
def execCommit (e : LinkEnd) (r : SbSlot) (s : State) : Host.Outcome State Fault Refusal :=
  match s.armTakes e r opCommit with
  | (none, s1) => .next s1
  | (some m, s1) =>
    let d := leDie e
    match relayEnd e opCommit m.die with
    | some f => .next (s1.sbSend f 0x1C (armBody opCommit m))
    | none =>
      if isTray e then
        if s1.chg.armed && s1.chg.decided == 0 && m.setId == s1.chg.setId && m.turn == s1.chg.turn then .next s1.commitSet else .next s1
      else match s1.part d with
        | some p => if p.turn == m.turn then .next (s1.setPart d (some { p with decision := 1 })) else .next s1
        | none => .next s1

/-- `ABORT` (R432): a die keeps its values; a follower's CR0 aborts its package's set. -/
def execAbort (e : LinkEnd) (r : SbSlot) (s : State) : Host.Outcome State Fault Refusal :=
  match s.armTakes e r opAbort with
  | (none, s1) => .next s1
  | (some m, s1) =>
    let d := leDie e
    match relayEnd e opAbort m.die with
    | some f => .next (s1.sbSend f 0x1C (armBody opAbort m))
    | none =>
      if isTray e then
        if s1.chg.armed && s1.chg.decided == 0 && m.setId == s1.chg.setId && m.turn == s1.chg.turn then
          .next (s1.abortSet (if s1.chg.reason == 0 then 0x1006 else s1.chg.reason))
        else .next s1
      else match s1.part d with
        | some p => if p.turn == m.turn then .next (s1.setPart d none) else .next s1
        | none => .next s1

/-! ### Applying a set (R435 to R438) -/

/-- The new map of a bundle with a target replaced, by the lowest bit of its field. -/
def LaneMap.withTgt (e : LinkEnd) (m : LaneMap) (lo v : Nat) : LaneMap :=
  if isTray e || lo == 0 then { m with t0 := v } else { m with t1 := v }

/-- The link end of a lane map's register, and its bundle. -/
def mapEnd (p : Place) : Option (LinkEnd × Nat) :=
  match p.blk, p.die with
  | .ikl, d => some (.ikl d (Fin.ofNat 4 p.inst), p.k / 0x100)
  | .trayPort, .cr c => some (.tray (Fin.ofNat 8 (4 * c.val + p.inst)), 0)
  | _, _ => none

/-- A lane map of a committed set: in service the receiver sends it to the transmitter, to be applied at the frame boundary after
its acknowledgement (R98, R435); elsewhere it stands at once (log entry 87, DEDUCED). -/
def State.applyLaneMap (s : State) (p : Place) (f : Fld) (v : Nat) : State :=
  match mapEnd p with
  | some (e, b) =>
    let x := s.bun e b
    let m := (x.rxPend.getD (s.rxMap e b)).withTgt e f.lo v
    if s.inService e then
      (s.setBun e b { x with rxPend := some m, rxApplied := false, txApplied := false, mapAcked := false }).sbSend e
        0x10 (laneMapBody b m)
    else s.setRxMap e b m
  | none => s

/-- The servo treats a new PTP domain as the loss of its master (R283, R436). -/
def State.newPtpDomain (s : State) : State :=
  let s1 := { s with ptp := { s.ptp with sel := none, masters := [], good := 0, bad := 0 } }
  let s2 := s1.setF cr0 .ptp 0 Reg.PTP_STATUS_SEL_PORT_VALID 0
  if s.isF cr0 .bal 0 Reg.BAL_STATUS_TAI_VALID then s2.setTaiFlags cr0 false true else s2

/-- A new latency budget stands in place of the image's (R437). -/
def State.newBudget (s : State) (d : Die) (inst v : Nat) : State :=
  let port := (match d with | .cr c => 4 * c.val | .mv _ => 0) + inst
  match s.boot.image with
  | some i => { s with boot := { s.boot with image := some { i with budgets := i.budgets.map fun x =>
      if x.1.val == port then (x.1, v) else x } } }
  | none => s

/-- A member takes effect. -/
def State.applyMember (s : State) (m : Nat × Nat) : State :=
  match fieldOf m.1 with
  | some (p, f) =>
    if (p.blk == .ikl && f.off == Reg.IKL_LANEMAP_J0_TGT.off) || (p.blk == .trayPort && f.off == Reg.TRYP_LANEMAP_SPARE_TGT.off) then
      s.applyLaneMap p f m.2
    else
      let s0 := if p.blk == .bal then s.setCr0Map s.cr0Map else s
      let s1 := s0.putField m
      if f = Reg.TRYP_LAT_LAT_BUDGET ∧ p.blk = .trayPort then s1.newBudget p.die p.inst m.2
      else if p.blk == .ptp then s1.newPtpDomain
      else if p.blk == .pwr then s1.showReserve
      else s1
  | none => s

/-- A die applies the class A members of its part (R435); its shadow copies are spent. -/
def State.applyPart (s : State) (p : Part) : State :=
  let spent (t : Tab Nat) (l : List (Nat × Nat)) : Tab Nat :=
    l.foldl (fun (u : Tab Nat) m => if Tab.get 0 u m.1 == m.2 + 1 then Tab.erase u m.1 else u) t
  let ldg := p.tables.any fun m => decide (16 ≤ keySpace m.1)
  let s0 := if ldg && s.ldgState == 2 then s.ldgSettle (s.beat cr0) else s
  let s1 := (p.fields.filter fun m => !keyClassB m.1).foldl (fun (t : State) m => t.applyMember m) s0
  let s2 := p.tables.foldl (fun (t : State) m => t.putRec m.1 m.2) s1
  let dirty := ldg && s2.enabled .ldg cr0 && s2.powered cr0 .ldg
  { s2 with shadow := spent s2.shadow p.fields, tshadow := spent s2.tshadow p.tables,
            ldg := { s2.ldg with tabDirty := s2.ldg.tabDirty || dirty } }

/-- A die's shadow bank becomes active, and its variants are chosen in it from the losses joined by this boundary (R160, R503). -/
def State.switchBank (s : State) (d : Die) : State :=
  let s0 := (s.joinLosses d).noteSched d
  let s1 := s0.setF d .gtr 0 Reg.GTR_STATUS_ACTIVE_BANK (1 - s0.bank d)
  let s2 := match s1.pickVariant d (s1.bank d) (s1.lossSet d) with
    | some v =>
      let old := s1.getF d .gtr 0 Reg.GTR_STATUS_VARIANT
      (s1.setF d .gtr 0 Reg.GTR_STATUS_VARIANT v).logSwitch d .gtr old v 0 1
    | none => s1.noFit d false
  match d with
  | .mv _ => s2
  | .cr c =>
    let ports := (List.finRange 8).filter fun n => trayCrown n == c && s2.enabled .port d (leInst (.tray n))
    if ports == [] then s2
    else match s2.pickTrayVariant c (s2.bank d) (s2.trayLoss c) with
      | some v =>
        let old := s2.getF d .tray 0 Reg.TRY_STATUS_TVARIANT
        (s2.setF d .tray 0 Reg.TRY_STATUS_TVARIANT v).logSwitch d .tray old v 1 1
      | none => s2.noFit d true

/-- A die at the turn of its part: it applies what it holds as committed; confirmed with no decision, it applies nothing and asks
for recovery (R433, R435). -/
def State.partDue (s : State) (d : Die) : State :=
  match s.part d with
  | some p =>
    if s.turn d < p.turn then s
    else if p.decision == 1 then
      let s1 := (s.applyPart p).setPart d none
      if s.chg.bank then s1.switchBank d else s1
    else if p.ok then
      (((s.setPart d none).log d .cfg 0 0x1006).setF cr0 .cfg 0 Reg.CFG_ARM_STATUS_DISAGREE 1).trigger 4 0x08 d 0xFF 0x1006
    else s.setPart d none
  | none => s

/-- The class B members that the committed parts hold. -/
def State.classBMembers (s : State) : List (Nat × Nat) :=
  s.dieList.flatMap fun d => match s.part d with
    | some p => if p.decision == 1 then p.fields.filter fun m => keyClassB m.1 else []
    | none => []

/-- CR0 ends a set whose turn has come: the class B members wait for the hack, or take effect now where there is none (R424,
R435). -/
def State.endSet (s : State) (members : List (Nat × Nat)) : State :=
  let c := s.chg
  let done (t : State) : State := { t with chg := { parts := t.chg.parts, waitB := t.chg.waitB, lastOut := t.chg.lastOut } }
  if c.decided == 1 then
    let s1 := (s.setF cr0 .cfg 0 Reg.CFG_ARM_STATE 2).clearStage
    if c.hackLen == 0 then done (members.foldl (fun (t : State) m => t.applyMember m) s1)
    else
      let first := 1024 * c.turn + s.getF cr0 .bal 0 Reg.BAL_HACK_WIN_START
      done { s1 with hack := { s1.hack with due := some (first, c.hackLen), tray := c.tray }, chg := { s1.chg with waitB := members } }
  else done (s.setF cr0 .cfg 0 Reg.CFG_ARM_STATE 3)

/-- The link end pairs by link code. -/
def endsOfLink (k : Nat) : List LinkEnd := iklEnds.filter fun e => linkCode e == k

/-- A bundle is back in service at both its ends. -/
def State.backInService (s : State) (k b : Nat) : Bool :=
  (endsOfLink k).all fun e => s.inService e && !s.retired e b && !s.calOut e b

/-- The bundles of the Ikiper loss sets that are back in service, link code and bundle (R163). -/
def State.returnedBundles (s : State) : List (Nat × Nat) :=
  ((List.range 12).flatMap fun k => (List.range (if k < 4 then 16 else 2)).map fun b => (k, b)).filter fun x =>
    s.backInService x.1 x.2 && s.dieList.any fun d => bit (s.lossSet d) (lossBit x.1 x.2)

/-- They leave the loss set of every die at once (R163). -/
def State.dropBundles (s : State) : State :=
  let l := s.returnedBundles
  s.dieList.foldl (fun (t : State) d =>
    let x := t.die d
    let u := (if l == [] then t else t.noteSched d).setLossSet d (l.foldl (fun v y => clrBit v (lossBit y.1 y.2)) (t.lossSet d))
    u.setDie d { x with losses := x.losses.filter fun z => !(z.joined && l.contains (z.link, z.bundle)) }) s

/-- The port of this package at one end of a cable of the tray loss set. -/
def State.ownPort (s : State) (i : Nat) : Option (Fin 8) :=
  s.trayPorts.find? fun n => s.pf n Reg.TRYP_PORT_CTL_PEER_VALID == 1 && s.cableBit n == i

/-- Cables of the tray loss set that have been back at `LIVE` for 8 turns, as a mask (R210). Of a cable between two other
packages the package learns nothing that the manual names: that is left free (log entry 92, DESIGN CHOICE). -/
def State.returnedCables (s : State) : Nat × State :=
  let all := s.crowns.foldl (fun v c => Nat.lor v (s.trayLoss c)) 0
  (bitsSet all 128).foldl (fun (a : Nat × State) i =>
    match s.ownPort i with
    | some n =>
      let at_ := (s.link (.tray n)).liveAt
      if s.inService (.tray n) && at_ != 0 && decide (at_ - 1 + 8 * turnBeats ≤ s.time) then (setBit a.1 i, a.2) else a
    | none =>
      let (v, t) := a.2.draw 1
      (if v == 1 then setBit a.1 i else a.1, t)) (0, s)

/-- They leave the tray loss set of every Crown die. -/
def State.dropCables (s : State) : State :=
  let (gone, s1) := s.returnedCables
  let s2 := s1.crowns.foldl (fun (t : State) c => (if gone == 0 then t else t.noteSched (.cr c)).setTrayLoss c (andNot (t.trayLoss c) gone)) s1
  s2.dieList.foldl (fun (t : State) d =>
    let x := t.die d
    t.setDie d { x with losses := x.losses.filter fun z =>
      !(z.joined && decide (16 ≤ z.link) && bit gone (8 * (z.link - 16) + z.bundle)) }) s2

/-- A set commits: what has returned leaves the loss sets; a cable only with a set of tray scope where the image is of several
packages (R163, R210). -/
def State.dropReturned (s : State) (tray : Bool) : State :=
  let s1 := s.dropBundles
  if tray || !s.multiPkg then s1.dropCables else s1

/-- `CHANGE_SET_APPLY` (R163, R210, R433, R435, R438): at the boundary of T every die with a part applies it. -/
def execChangeSetApply (s : State) : Host.Outcome State Fault Refusal :=
  if !s.atTurn cr0 then .next s
  else
    let members := s.classBMembers
    let due := s.chg.armed && decide (s.chg.turn ≤ s.turn cr0)
    let s0 := if due && s.chg.decided == 1 then s.dropReturned s.chg.tray else s
    let s1 := s0.dieList.foldl (fun (t : State) d => t.partDue d) s0
    .next (if due then s1.endSet members else s1)

/-! ### The hack (R49 to R51, R435) -/

/-- Show on every die whether a hack runs. -/
def State.showHack (s : State) (on : Bool) : State :=
  s.dieList.foldl (fun (t : State) d => t.setF d .bal 0 Reg.BAL_STATUS_HACK_ACTIVE (b2n on)) s

/-- `HACK_START` (R49, R435): at the first frame of the hack the D lanes fall silent and the class B members take effect. -/
def execHackStart (s : State) : Host.Outcome State Fault Refusal :=
  match s.hack.due with
  | some (f, n) =>
    if s.hack.active || !s.atFrame cr0 || decide (s.frame cr0 < f) then .next s
    else
      let s1 := { s with hack := { s.hack with active := true, last := some (f, n, s.hack.tray) } }.showHack true
      let s2 := s1.chg.waitB.foldl (fun (t : State) m => t.applyMember m) s1
      .next { s2 with chg := { s2.chg with waitB := [] } }
  | none => .next s

/-- A tray port in service takes the depth of its latency budget (R185, R436). -/
def State.newDepth (s : State) (n : Fin 8) : State :=
  let e : LinkEnd := .tray n
  let x := s.bun e 0
  let p := depthFor e (s.latL e) x.arrival
  if !s.inService e || p == x.depth then s
  else if p < 1 then s.linkReturn e 0x3004 true
  else s.setDepth e 0 x.arrival p.toNat

/-- `HACK_END` (R49, R436): after its N frames every die transmits again. -/
def execHackEnd (s : State) : Host.Outcome State Fault Refusal :=
  match s.hack.due with
  | some (f, n) =>
    if !s.hack.active || decide (s.frame cr0 < f + n) then .next s
    else
      let s1 := { s with hack := { s.hack with active := false, due := none } }.showHack false
      .next (((List.finRange 8).foldl (fun (t : State) p => t.newDepth p) s1).bumpF cr0 .bal 0 Reg.BAL_HACK_COUNT)
  | none => .next s

/-- Arm the activation of a multi-package image at a turn, from the master (R401) (log entry 83, DEDUCED). -/
def State.armActivation (s : State) (turn : Nat) : State :=
  if s.chg.armed then s
  else
    let (v, s0) := s.draw 8
    let s1 := s0.beginSet { tray := true, setId := v, turn := turn, act := true } s0.neededPkgs
    s1.armTray opArm

/-- `ABORTED_ARM_REARM` (R401): 64 turns after its abort an activation is armed again, while the package stays in LOADING. -/
def execAbortedArmRearm (s : State) : Host.Outcome State Fault Refusal :=
  if s.boot.rearm == 0 || s.phase != 9 || decide (s.turn cr0 < s.boot.rearm - 1) then .next s
  else
    let turn := turnAfter (16 * turnBeats) (s.beat cr0) / turnBeats
    .next ({ s with boot := { s.boot with rearm := 0 } }.armActivation turn)

end Sys2Proof.Machine
end

