-- ==== Sys2Proof/Machine/Image.lean ====
section
/-! DEFINITION. Calibre images: loading, its checks, activation, unloading (R398 to R403, R204), and the chip-level reset
that reloads one, with the way out of service (R457, R458, R465, R466). -/

namespace Sys2Proof.Machine

/-! ### An image's contents -/

/-- The key at which a record of an image stands, and its value: a run-table entry is marked as given. -/
def imgKey (r : ImgRec) : Nat := tblKey r.space (dieCode r.die) r.bank.val r.dir.val r.slot.val r.idx
def imgVal (r : ImgRec) : Nat := if r.space == 8 then r.val % 2 ^ 64 + 2 ^ 64 else r.val

/-- The tables that an image replaces: those of the gear train, of the tray ports, the run tables and the stream tables, and of
the groups and stream maps those of a die for which it gives records. -/
def replaced (i : Image) (key : Nat) : Bool :=
  let sp := keySpace key
  decide (sp < 6) || sp == 8 || sp == 9 ||
    ((sp == 10 || sp == 11) && i.records.any fun r => r.space == sp && dieCode r.die == key / 2 ^ 22 % 8)

/-- A register that an image sets takes its ARM fields. -/
def State.imgReg (s : State) (e : Nat × Nat) : State :=
  match findPlace e.1 with
  | some p => (p.row.flds.filter fun f => f.acc == .arm).foldl (fun (t : State) f =>
      t.setF p.die p.blk p.inst f (bitsOf e.2 f.lo f.w) p.k) s
  | none => s

/-- An image's tables, registers, hack window, reserve and routes take the place of what was there (R50, R192, R355). -/
def State.putImage (s : State) (i : Image) : State :=
  let recs := i.records.filter fun r => decide (r.space < 13)
  let s0 := { s with tables := s.tables.filter fun p => !replaced i p.1 }
  let s1 := recs.foldl (fun (t : State) r => t.putRec (imgKey r) (imgVal r)) s0
  let s2 := i.regs.foldl (fun (t : State) e => t.imgReg e) s1
  let s3 := (s2.setF cr0 .bal 0 Reg.BAL_HACK_WIN_START i.hackStart).setF cr0 .bal 0 Reg.BAL_HACK_HACK_MAX i.hackMax
  { s3 with reserve := i.reserve, routes := (i.routes.filter fun r => r.1 == s.pkgId).map (·.2), boot := { s3.boot with image := some i } }

/-! ### The checks of R399 -/

/-- The area and bytes of the object to load. -/
def State.imgObject (s : State) : Nat × List Byte :=
  if s.boot.loadSrc == 0 then (areaImage, s.rdBytes s.stagingPa s.boot.imgBytes)
  else
    let n := s.getF cr0 .boot 0 Reg.BOOT_IMG_LEN
    (n, s.rdBytes (s.get64 cr0 .boot 0 Reg.BOOT_IMG_PA_LO_PA Reg.BOOT_IMG_PA_HI_PA) n)

/-- The image needs more than the variant has (R29). -/
def State.needsMore (s : State) (i : Image) : Bool :=
  let perDie := if s.h8 then 2 else 1
  decide (24 * perDie < i.hbm ∨ perDie < i.stackNeed ∨ s.crowns.length < i.crowns)

/-- The image names a die, a link or a port that the variant lacks (R29). -/
def State.namesAbsent (s : State) (i : Image) : Bool :=
  (i.names.any fun d => !s.hasDie d) || (i.ports.any fun n => !s.hasDie (.cr (trayCrown n))) ||
    i.records.any fun r => !s.hasDie r.die || (decide (r.space < 2) && !s.hasInst r.die .ikl (r.slot.val % 4))

/-- Two ranges of addresses share a byte. -/
def meets (a n b m : Nat) : Bool := decide (a < b + m ∧ b < a + n)

/-- A grant touches a recovery region or the staging range (R244, R399), in whichever package its tray address names: every one is
taken to be of this package's variant (log entry 163, DESIGN CHOICE). -/
def State.grantBad (s : State) (i : Image) : Bool :=
  i.contexts.any fun c => c.grants.any fun g =>
    let a := g.1 % 2 ^ 48
    meets a g.2 s.stagingPa 0x10000000 || mvDies.any fun d => meets a g.2 (hbmPa d s.recBase) 0x10000000

/-- A range of a fixed descriptor passes the write head, or is longer than its sequence (R231). -/
def rangeFaulty (x : Nat × Nat × Nat) : Bool :=
  let (head, len, n) := x
  decide (len < 1 ∨ 16777216 < len ∨ n < 1 ∨ len < n ∨ head < n)

/-! ### The graph of routes (R168, R169, R192) -/

/-- A node of the route graph, for one channel: a link direction that may both wait and be waited for. Beside the tray cables these
are only S00 and S01: MV*m* with m > 0 passes nothing on between Crown dies, and no F link leads to an S link (R168). -/
inductive RouteNode where
  /-- The cable that leaves a package by a port. -/
  | cable (pkg port : Nat)
  /-- From a Crown die of a package to its MV0, and back. -/
  | down (pkg crown : Nat)
  | up (pkg crown : Nat)
  deriving DecidableEq, Repr

/-- Where a cable that leaves a package by a port ends, by the declared topology. -/
def cableTo (topo : List (Nat × Nat × Nat × Nat)) (p n : Nat) : Option (Nat × Nat) :=
  topo.findSome? fun c =>
    if c.1 == p && c.2.1 == n then some (c.2.2.1, c.2.2.2)
    else if c.2.2.1 == p && c.2.2.2 == n then some (c.1, c.2.1)
    else none

/-- The link directions that a flit waits for behind a node (R169): those on which the routes carry it on. -/
def routeNext (topo : List (Nat × Nat × Nat × Nat)) (routes : List (Nat × Nat × Nat)) : RouteNode → List RouteNode
  | .down p c => [.up p (1 - c)]
  | .up p c => (routes.filter fun r => r.1 == p && r.2.2 / 4 == c).map fun r => .cable p r.2.2
  | .cable p n =>
    match cableTo topo p n with
    | none => []
    | some (q, k) =>
      .down q (k / 4) :: ((routes.filter fun r => r.1 == p && r.2.2 == n && r.2.1 != q).flatMap fun r =>
        (routes.filter fun t => t.1 == q && t.2.1 == r.2.1 && t.2.2 / 4 == k / 4).map fun t => .cable q t.2.2)

/-- Take away, again and again, the nodes behind which no node is left: what stays holds a cycle. -/
def peel (next : RouteNode → List RouteNode) : Nat → List RouteNode → List RouteNode
  | 0, l => l
  | n + 1, l => peel next n (l.filter fun x => (next x).any fun y => l.contains y)

/-- The tray routes, together with those of R168, give a cyclic graph (R192). -/
def routesCyclic (topo : List (Nat × Nat × Nat × Nat)) (routes : List (Nat × Nat × Nat)) : Bool :=
  let pkgs := ((routes.map (·.1)) ++ routes.map (·.2.1)).eraseDups
  let nodes := ((routes.map fun r => RouteNode.cable r.1 r.2.2).eraseDups) ++
    pkgs.flatMap fun p => [.down p 0, .down p 1, .up p 0, .up p 1]
  peel (routeNext topo routes) nodes.length nodes != []

/-- Check 6: a budget that differs from its port's, or a cyclic graph of routes (R186, R192). -/
def State.trayBad (s : State) (i : Image) : Bool :=
  (i.budgets.any fun b => s.latL (.tray b.1) != b.2) || routesCyclic s.topo i.routes

/-- Two result frames of one port overlap on the wire at some output beat (R293): output beats of two periods come as near as
their offsets modulo the periods' greatest common divisor allow. -/
def framesMeet (p1 o1 w1 p2 o2 w2 : Nat) : Bool :=
  let g := Nat.gcd (max p1 1) (max p2 1)
  let r := (o1 % g + g - o2 % g) % g
  decide (r < w2 ∨ (r ≠ 0 ∧ g - r < w1))

/-- The wire time of a result. -/
def State.outWire (s : State) (o : ImgOut) : Nat :=
  wireBeats (outFrame o (s.ethF o.crown o.port Reg.ETHP_CTL_UNTAGGED == 1))

/-- Some two results of a list overlap, or one overlaps itself. -/
def State.outsMeet (s : State) : List ImgOut → Bool
  | [] => false
  | o :: t => decide (o.period < s.outWire o) || (t.any fun p => o.crown == p.crown && o.port == p.port &&
      framesMeet o.period o.offset (s.outWire o) p.period p.offset (s.outWire p)) || s.outsMeet t

/-- The streams of both Crown dies, with their channels (R301, R302). -/
def State.imgStreams (s : State) : List (Bool × List (Nat × Nat)) :=
  s.crowns.flatMap fun c => (s.tblIdx 9 (fusDie c)).map fun i =>
    (sTmf (s.streamEnt c i), (s.streamChans c i).filter fun r => r.2 != 0)

/-- Check 7 on the tables of the image: channels (R302), groups (R303), buffers (R325) and result frames (R293). -/
def State.fusionBad (s : State) (i : Image) : Option Nat :=
  let st := s.imgStreams
  let chans := st.flatMap (·.2)
  let far := s.crowns.any fun c => (s.tblIdx 9 (fusDie c)).any fun k =>
    let r := s.streamEnt c k
    !sTmf r && decide (262144 < sFirst r + sPhn r)
  let differ := s.crowns.length == 2 && s.dieNamed (.cr 1) && (List.range 16).any fun g => s.grpRec 0 g % 2 ^ 160 != s.grpRec 1 g % 2 ^ 160
  ((firstOf [
    (anyOverlap chans || far || decide (4096 < (st.filter fun x => !x.1).length) || decide (1048576 < (chans.map (·.2)).sum), 0x1001),
    (differ, 0x1001),
    (s.outsMeet (i.outputs.filter fun o => o.ring.isNone), 0x1001)]).or (s.crowns.findSome? fun c => s.fusCheck c))

/-- The checks 1 to 8: the number and the code of the first that fails (R399) (log entry 89, DEDUCED). -/
def State.imageFault (s : State) (i : Image) : Option (Nat × Nat) :=
  let (area, obj) := s.imgObject
  let t := s.putImage i
  let as_ (n : Nat) (r : Option Nat) : Option (Nat × Nat) := r.map fun rc => (n, rc)
  let obj1 := match s.objectFault 3 area obj with
    | some rc => some (if rc == 0xA002 then 2 else 1, rc)
    | none => none
  [obj1,
   as_ 3 (firstOf [(s.needsMore i, 0x1009), (s.namesAbsent i, 0x4005)]),
   as_ 4 (firstOf [(s.grantBad i || i.ranges.any rangeFaulty, 0x1001)]),
   as_ 5 ((firstOf [(decide (64 < i.hackMax ∨ 1023 < i.hackStart), 0x1001)]).or (t.banksCheck i.hackStart i.hackMax)),
   as_ 6 (firstOf [(s.trayBad i, 0x1001)]),
   as_ 7 (t.fusionBad i),
   as_ 8 (firstOf [(!budgetCovers (t.getF cr0 .pwr 0 Reg.PWR_BUDGET) t.sumReserve t.sumFloors, 0x1001)])].findSome? id

/-- Check 9 can be made: every declared peer is `LIVE`, or the start window has ended (R399). -/
def State.peersKnown (s : State) : Bool :=
  s.crowns.all fun c =>
    s.isF (.cr c) .tray 0 Reg.TRY_STATUS_WIN_DONE || ((List.finRange 8).filter fun n => trayCrown n == c).all fun n =>
      s.pf n Reg.TRYP_PORT_CTL_PEER_VALID == 0 || s.inService (.tray n)

/-- Check 9: some tray variant of the image covers every missing cable, for a multi-package image (R204). -/
def State.missingBad (s : State) (i : Image) : Bool :=
  let t := s.putImage i
  let mask := ((List.finRange 8).filter fun n => bit (s.getF cr0 .tray 0 Reg.TRY_MISSING) n.val).foldl
    (fun v n => setBit v (s.cableBit n)) 0
  decide (1 < i.packages.length) && s.crowns.any fun c => (t.pickTrayVariant c (s.bank (.cr c)) mask).isNone

/-- Bundles that `BUNDLE_EN` clears at both their ends, as a loss set: they are lost from the image's first turn (R98, R161). -/
def State.clearedBundles (s : State) : Nat :=
  iklEnds.foldl (fun v e => match farEnd e with
    | none => v
    | some f =>
      let cleared (g : LinkEnd) (b : Nat) : Bool := s.hasInst (leDie g) .ikl (leInst g) &&
        !bit (s.getF (leDie g) .ikl (leInst g) Reg.IKL_BUNDLE_EN_EN) b
      (List.range (nBundles e)).foldl (fun w b => if cleared e b && cleared f b then setBit w (lossBit (linkCode e) b) else w) v) 0

/-- They join the loss set of every die. -/
def State.joinCleared (s : State) : State :=
  let k := s.clearedBundles
  s.dieList.foldl (fun (t : State) d => t.setLossSet d (Nat.lor (t.lossSet d) k)) s

/-- No variant of the image covers a die's losses (R457). -/
def State.noCover (s : State) (i : Image) : Bool :=
  let t := (s.putImage i).joinCleared
  s.dieList.any fun d =>
    let u := t.joinLosses d
    (u.pickVariant d (u.bank d) (u.lossSet d)).isNone

/-! ### Loading (R399 to R401) -/

/-- The functions that an image enables, with their dies. -/
def State.imageFns (s : State) : List (Fn × Die) :=
  s.dieList.map (fun d => (Fn.gtr, d)) ++ [Fn.eng, .seq, .syn, .dma].flatMap fun fn => mvDies.map fun d => (fn, d)

/-- Their enables are cleared (R403, R465). -/
def State.clearImageFns (s : State) : State := s.imageFns.foldl (fun (t : State) x => t.clearFn x.1 x.2 0) s

/-- What the faults of contexts left is cleared (R467). -/
def State.clearFaults (s : State) : State :=
  let s1 := ((s.setF cr0 .rcv 0 Reg.RCV_HELD 0).setF cr0 .rcv 0 Reg.RCV_CULPRIT 0).setF cr0 .rcv 0 Reg.RCV_FAULTED 0
  let s2 := { s1 with recov := { s1.recov with asIs := [], lvlHeld := [], masks := [] } }
  mvDies.foldl (fun (t : State) d => t.setDie d { t.die d with faulted := 0, combined := 0 }) s2

/-- No context is bound to any engine, and no stream is there. -/
def State.unbindAll (s : State) : State :=
  let s1 := mvDies.foldl (fun (t : State) d => (List.range 32).foldl (fun (u : State) n =>
    ((u.setCtxState d n 0).setF d .eng 0 Reg.ENG_CTX_STATE_KIND 0 (ctxOff n)).setF d .eng 0 Reg.ENG_CTX_STATE_ENGMASK 0 (ctxOff n)) t) s
  { s1 with ctxs := [], streams := [], engs := [], queues := [] }

/-- The engines of a die to which an image binds a context, with the heads of its streams. -/
def headsOn (c : ImgCtx) (m : Mv) : List (Nat × Nat) := (c.heads.filter fun h => h.1 == m).map fun h => (h.2.1.val, h.2.2)

/-- Bind a context of an image on a die (R223): idle, its streams at their heads. A checkpoint stays over a chip reset
(R467). -/
def State.bindCtx (old s : State) (c : ImgCtx) (m : Mv) : State :=
  let d : Die := .mv m
  let hs := headsOn c m
  if hs == [] then s
  else
    let n := c.num.val
    let keep := (old.dom 4).level == 4
    let s1 := ((s.setCtxState d n 1).setF d .eng 0 Reg.ENG_CTX_STATE_KIND (b2n c.onDemand) (ctxOff n)).setF d .eng 0
      Reg.ENG_CTX_STATE_ENGMASK (hs.foldl (fun v h => setBit v h.1) 0) (ctxOff n)
    let s2 := s1.setCtx d n { action := b2n c.hold, chk := keep && (old.ctx d n).chk }
    hs.foldl (fun (t : State) h => t.setStream d h.1 n <|
      if keep then { head := h.2, bound := true, chkpt := (old.stream d h.1 n).chkpt, started := (old.stream d h.1 n).started }
      else { head := h.2, bound := true }) s2

/-- The contexts, the barriers and the streams of an image (R223, R237). -/
def State.bindAll (s : State) (i : Image) : State :=
  let s1 := s.unbindAll
  let s2 := i.contexts.foldl (fun (t : State) c => (List.finRange 4).foldl (fun (u : State) m => State.bindCtx s u c m) t) s1
  let s3 := mvDies.foldl (fun (t : State) d => (List.range 256).foldl (fun (u : State) b => u.setF d .syn 0 Reg.SYN_BAR_MEMBERS 0 (4 * b)) t) s2
  i.barriers.foldl (fun (t : State) b => t.setF (.mv b.1) .syn 0 Reg.SYN_BAR_MEMBERS b.2.2.1 (4 * b.2.1)) s3

/-- What a Crown die has learned of the streams of the image before, and the counts of its outputs, are gone. -/
def State.clearStreams (s : State) : State :=
  s.crowns.foldl (fun (t : State) c => t.setHost c { t.host c with cfg2 := [], hdr := [], seen := [], outSeq := [] }) s

/-- Chip level ends (R455). -/
def State.endChip (s : State) : State := (s.setDom 4 {}).showLevel

/-- A load fails (R399): its check and code are recorded and logged, nothing is loaded, and the package waits for an image. A
chip reset ends with it (R457). -/
def State.loadFails (s : State) (check rc : Nat) : State :=
  let s1 := (s.setF cr0 .boot 0 Reg.BOOT_IMG_STATUS_FAILED_CHECK check).setF cr0 .boot 0 Reg.BOOT_IMG_STATUS_IMG_RC rc
  let s2 := (s1.logFault .sec 5 rc).setPhase 8
  { s2 with boot := { s2.boot with image := none, loaded := false, hash := 0, reports := [], actTurn := 0 } }.endChip

/-- Show the activation turn. -/
def State.setAct (s : State) (turn : Nat) : State :=
  ({ s with boot := { s.boot with actTurn := turn + 1 } }).set64 cr0 .boot 0 Reg.BOOT_ACT_TURN_LO_TURN Reg.BOOT_ACT_TURN_HI_TURN turn

/-- The master takes a package's report; with one from every package that must confirm it names the activation turn and arms it
(R401). -/
def State.takeLoadReport (s : State) (pkg hash : Nat) : State :=
  let l := s.boot.reports.filter fun r => r.1 != pkg
  let s1 := { s with boot := { s.boot with reports := l ++ [(pkg, hash, s.beat cr0)] } }
  let need := match s.boot.image with
    | some i => (bitsSet s.neededPkgs 16).filter fun p => i.packages.contains p
    | none => []
  if s1.boot.loaded && s1.boot.rearm == 0 && need.all fun p => s1.boot.reports.any fun r => r.1 == p then
    s1.armActivation (turnAfter (16 * turnBeats) (s1.beat cr0) / turnBeats)
  else s1

/-- After a chip reset for a hang, the suspects are held again and replay waits to start on the die that had it (R459, R460)
(log entry 98, DEDUCED). -/
def State.holdSuspects (s : State) : State :=
  let x := s.dom 4
  let m := s.getF cr0 .rcv 0 Reg.RCV_LAST_LAST_DIE
  if x.level == 4 && (x.origin == 1 || x.origin == 3) && decide (m < 4) then
    let d : Die := .mv (Fin.ofNat 4 m)
    let ns := (bitsSet (s.getF d .rcv 0 Reg.RCV_SUSPECT_MASK) 32).filter fun n => s.ctxState d n != 0
    let s1 := ns.foldl (fun (t : State) n =>
      let u := mvDies.foldl (fun (v : State) y => if v.ctxState y n == 0 then v else (v.setCtxState y n 3).markFaulted y n) t
      u.setF cr0 .rcv 0 Reg.RCV_HELD (setBit (u.getF cr0 .rcv 0 Reg.RCV_HELD) n)) s
    { s1 with recov := { s1.recov with lvlHeld := Tab.set 0 s1.recov.lvlHeld m (ns.foldl setBit 0) } }.setDom m
      { x with level := 3, since := s.time, step := 5 }
  else s

/-- An image that has passed its checks is loaded, and its activation is set: 8 turns on, or as the master of its tray names it
(R400, R401). `ldgOk` says that the ledger's test record reads back as written (log entry 95, DEDUCED). -/
def State.loadImage (s : State) (i : Image) (ldgOk : Bool) : State :=
  let (_, obj) := s.imgObject
  let s1 := ((s.putImage i).bindAll i).clearFaults.clearStreams.dropBundles.joinCleared.showReserve
  let s2 := ((s1.setF cr0 .boot 0 Reg.BOOT_IMG_STATUS_FAILED_CHECK 0).setF cr0 .boot 0 Reg.BOOT_IMG_STATUS_IMG_RC 0).setF cr0 .boot 0
    Reg.BOOT_STATUS_IMG_SRC s.boot.loadSrc
  let hash := oBodyHash obj
  let s3 := { (s2.noteVersion obj).endStep 9 with boot := { s2.boot with loaded := true, hash := hash, reports := [], rearm := 0, stopTurn := 0 } }
  let s4 := (s3.crowns.foldl (fun (t : State) c => t.recEnable .fus (.cr c) 0) s3).recEnable .ldg cr0 0 ldgOk
  let s5 := (s4.endStep 10).holdSuspects
  if i.packages.length ≤ 1 then s5.setAct (turnAfter (8 * turnBeats) (s5.beat cr0) / turnBeats)
  else
    let s6 := { s5 with boot := { s5.boot with sentReport := some (s5.pkgId, hash) } }
    let s7 := if (s.dom 4).level == 4 then s6.tellMaster 4 true (s.dom 4).cause else s6
    if s7.isFollower then s7 else s7.takeLoadReport s7.pkgId hash

/-- `IMAGE_LOAD` (R29, R204, R399 to R401, R454, R457): the loader, once HBM is recalibrated, checks the image in hand, whose contents are `img`, and loads it
or returns to WAIT_IMAGE (log entry 94, DESIGN CHOICE). -/
def execImageLoad (img : Image) (ldgOk : Bool) (s : State) : Host.Outcome State Fault Refusal :=
  if s.phase != 9 || s.boot.loaded || s.recov.hbmRecal != 0 then .next s
  else match s.imageFault img with
    | some (n, rc) => .next (s.loadFails n rc)
    | none =>
      if !s.peersKnown then .next s
      else if s.missingBad img then .next (s.loadFails 9 0xB003)
      else if (s.dom 4).level == 4 && s.noCover img then .next (s.loadFails 9 0x4002)
      else .next (s.loadImage img ldgOk)

/-- `LOAD_REPORT` (R401): the master receives a package's report (log entry 88, DESIGN CHOICE). -/
def execLoadReport (pkg : Fin 16) (hash : BitVec 384) (s : State) : Host.Outcome State Fault Refusal :=
  if s.isFollower || s.phase != 9 then .next s else .next (s.takeLoadReport pkg.val hash.toNat)

/-! ### Activation (R402) -/

/-- Scheduled contexts run from the activation on. -/
def State.startContexts (s : State) : State :=
  mvDies.foldl (fun (t : State) d => (List.range 32).foldl (fun (u : State) n =>
    if u.ctxState d n == 1 && !u.ctxOnDemand d n then u.setCtxState d n 2 else u) t) s

/-- SC may be issued again on every link. -/
def State.freeSc (s : State) : State :=
  (s.allEnds).foldl (fun (t : State) e => t.setLink e { t.link e with scStop := false }) s

/-- `IMAGE_ACTIVATE` (R392, R402, R455): at the activation turn the image functions are enabled and the schedule starts. -/
def execImageActivate (s : State) : Host.Outcome State Fault Refusal :=
  if s.phase == 9 && s.boot.loaded && s.boot.actTurn != 0 && s.atTurn cr0 && decide (s.boot.actTurn - 1 ≤ s.turn cr0) then
    if s.overdue 4 then .next (s.handUp 4)
    else
    let s1 := s.dieList.foldl (fun (t : State) d => t.clearNoFit d) s.freeSc
    let s2 := ({ s1 with boot := { s1.boot with actTurn := 0 } }.endChip.setPhase 10).endStep 11
    .next ((s2.imageFns.foldl (fun (t : State) x => t.enableFn x.1 x.2 0 true) s2).startContexts)
  else .next s

/-! ### Unloading (R403) -/

/-- A write of 1 to `BOOT.IMG_CTL.UNLOAD`. -/
def State.unloadWrite (s : State) : State :=
  if s.phase != 10 then s.refuse .boot cr0 0 0x1003
  else { s with boot := { s.boot with stopTurn := turnAfter (8 * turnBeats) (s.beat cr0) / turnBeats + 1 } }

/-- `IMAGE_UNLOAD` (R403). -/
def execImageUnload (s : State) : Host.Outcome State Fault Refusal := .next s.unloadWrite

/-- The image is gone: nothing is loaded, bound or reserved. -/
def State.dropImage (s : State) : State :=
  let s1 := s.clearImageFns.unbindAll.clearFaults
  let s2 := (s1.setF cr0 .bal 0 Reg.BAL_HACK_WIN_START 0).setF cr0 .bal 0 Reg.BAL_HACK_HACK_MAX 0
  { s2 with reserve := [], routes := [],
            boot := { s2.boot with loaded := false, image := none, hash := 0, reports := [], actTurn := 0, stopTurn := 0, rearm := 0 } }.showReserve

/-- `IMAGE_STOP` (R403): at the turn that an unload named the schedule stops and the package waits for an image. Memory keeps its
contents. -/
def execImageStop (s : State) : Host.Outcome State Fault Refusal :=
  if s.phase == 10 && s.boot.stopTurn != 0 && s.atTurn cr0 && decide (s.boot.stopTurn - 1 ≤ s.turn cr0) then
    .next (s.dropImage.setPhase 8)
  else .next s

/-! ### A host's load (R398) -/

/-- The range that `IMG_PA` and `IMG_LEN` name lies in the HBM of one Movement die, outside its recovery region. -/
def State.imgRangeOk (s : State) : Bool :=
  let pa := s.get64 cr0 .boot 0 Reg.BOOT_IMG_PA_LO_PA Reg.BOOT_IMG_PA_HI_PA
  decide (pa / 2 ^ 45 < 4 ∧ pa % 2 ^ 45 + s.getF cr0 .boot 0 Reg.BOOT_IMG_LEN ≤ s.recBase)

/-- A write of 1 to `BOOT.IMG_CTL.LOAD`. With `BOOT.CTL.ENABLE` clear the package loads no image (R397). -/
def State.loadWrite (s : State) : State :=
  if s.phase == 10 || s.pins.oos then s.refuse .boot cr0 0 0x1007
  else if s.phase != 8 || !s.isF cr0 .boot 0 Reg.BOOT_CTL_ENABLE then s.refuse .boot cr0 0 0x1003
  else if !s.imgRangeOk then s.refuse .boot cr0 0 0x1001
  else { s with boot := { s.boot with loadSrc := 1 } }.setPhase 9

/-- `IMAGE_LOAD_HOST` (R398, R465) (log entry 90, DEDUCED). -/
def execImageLoadHost (s : State) : Host.Outcome State Fault Refusal := .next s.loadWrite

/-! ### Chip level (R454, R457, R465, R466) -/

/-- Every Ikiper link is retrained, the FP links through the joint reset; nothing counts as an attempt (R57, R150, R454). -/
def State.retrainAll (s : State) : State :=
  let on (t : State) (e : LinkEnd) : Bool := t.lst e != stOff && t.lst e != stRetired && t.lst e != stReset
  let s1 := (List.range 4).foldl (fun (t : State) f =>
    { t with fpLines := Tab.set {} t.fpLines f { asserted := true, since := t.time } }) s
  iklEnds.foldl (fun (t : State) e => if on t e then t.linkReturn e 0 false false else t) s1

/-- `BEAT_VALID` is cleared on every die (R454, cause 0x06). -/
def State.clearBeatValid (s : State) : State :=
  s.dieList.foldl (fun (t : State) d => t.setF d .bal 0 Reg.BAL_STATUS_BEAT_VALID 0) s

/-- The checkpoints that a state held, and what was started since them, stay (R467). -/
def State.keepChkpts (s old : State) : State :=
  { s with ctxs := (old.ctxs.filter fun p => p.2.chk).map fun p => (p.1, { chk := true }),
           streams := (old.streams.filter fun p => p.2.chkpt != 0 || p.2.started != 0).map fun p =>
             (p.1, { chkpt := p.2.chkpt, started := p.2.started }) }

/-- The reset of chip level, after the fence and the dumps: the schedule and what it held are gone, the links are retrained
(log entry 96, DEDUCED). -/
def State.chipReset (s : State) (cause : Nat) : State :=
  let s1 := (s.clearImageFns.unbindAll.keepChkpts s).clearFaults.retrainAll
  let s2 := { s1 with recov := { s1.recov with hbmRecal := s1.boot.hbmOk } }
  if cause == 6 then s2.clearBeatValid else s2

/-- The package goes out of service instead of resetting (R465). -/
def State.outOfServiceNow (s : State) : State :=
  let off : List Domain := [0, 1, 2, 3]
  let s1 := s.dropImage.stopAllSc
  let s2 := (off.foldl (fun (t : State) (k : Domain) => t.domainOff k) s1).showLedgerOnly
  let s3 := s2.trayPorts.foldl (fun (t : State) n => t.clearFn .port (leDie (.tray n)) (leInst (.tray n))) s2
  let s4 := ((s3.setPhase 8).log cr0 .rcv 0 0x9006).setF cr0 .rcv 0 Reg.RCV_STATUS_OOS 1
  { s4 with pins := { s4.pins with oos := true } }.endChip

/-- `CHIP_RESET` (R454, R457, R458, R465): with the fence over and the dumps written, the package is reset and its image reloaded
from where it came, or goes out of service. Before an image is in hand there is nothing to reload. -/
def execChipReset (s : State) : Host.Outcome State Fault Refusal :=
  let x := s.dom 4
  if x.level != 4 || x.step != 3 then .next s
  else if x.oos then .next s.outOfServiceNow
  else if s.overdue 4 then .next (s.handUp 4)
  else
    let s1 := (s.chipReset x.cause).bumpF cr0 .rcv 0 Reg.RCV_OOS_TOTAL
    let b := { s1.boot with loaded := false, reports := [], actTurn := 0, rearm := 0 }
    let s2 := { s1 with boot := b }
    if s.phase < 8 || s.phase == 15 then .next s2.endChip
    else if s.boot.image.isNone then .next (if s.phase == 9 then s2.setDom 4 { x with step := 4 } else s2.endChip)
    else .next ((s2.setDom 4 { x with step := 4 }).setPhase 9)

/-- Write 1 to `RCV.OOS.CLEAR` (R466): the package comes back, reset and without an image. -/
def State.oosClear (s : State) : State :=
  if !s.pins.oos then s
  else
    let s1 := ({ s with pins := { s.pins with oos := false } }.setF cr0 .rcv 0 Reg.RCV_STATUS_OOS 0).setHistory []
    let mvc := s1.domTodo 0xF
    let s2 := { s1 with boot := { s1.boot with todo := s1.boot.todo ++ mvc } }.nextDomain
    let s3 := mvDies.foldl (fun (t : State) d => t.resetMvc d) (s2.chipReset 0)
    s3.trayPorts.foldl (fun (t : State) n =>
      if t.pf n Reg.TRYP_PORT_CTL_PEER_VALID == 1 then t.enableFn .port (leDie (.tray n)) (leInst (.tray n)) true else t) s3

/-- `OOS_CLEAR` (R466). -/
def execOosClear (s : State) : Host.Outcome State Fault Refusal := .next s.oosClear

end Sys2Proof.Machine
end

