-- ==== Sys2Proof/Machine/Trust.lean ====
section
/-! DEFINITION. Trust: rollback counters, the flash port, debug tokens and the public JTAG instructions (R387, R388, R408,
R410 to R412). -/

namespace Sys2Proof.Machine

/-! ### Rollback counters (R388) -/

/-- A write of `SEC.RB_COMMIT`: its fields, then GO, which starts blowing fuses or is refused. A request while fuses are being
blown is refused like any other that does not qualify (log entry 100, DEDUCED). -/
def State.rbWrite (s : State) (w : Nat) : State :=
  let c := w % 4
  let v := bitsOf w 2 7
  let s1 := (s.setF cr0 .sec 0 Reg.SEC_RB_COMMIT_CTR c).setF cr0 .sec 0 Reg.SEC_RB_COMMIT_VALUE v
  if !bit w 31 then s1
  else if decide (c < 3 ∧ s.rbMin c < v ∧ v ≤ 64 ∧ v ≤ s.getF cr0 .sec 0 Reg.SEC_VERSION (4 * c)) && s.boot.blow.isNone then
    { s1.setF cr0 .sec 0 Reg.SEC_RB_COMMIT_BUSY 1 with boot := { s1.boot with blow := some (c, v, s.time) } }
  else s1.refuseBlk cr0 .sec 0 0x1001

/-- `ROLLBACK_COMMIT` (R388): a write of `SEC.RB_COMMIT` with GO set. -/
def execRollbackCommit (w : Word) (s : State) : Host.Outcome State Fault Refusal := .next (s.rbWrite (setBit w.toNat 31))

/-- `ROLLBACK_COMMIT_DONE` (R387, R388): the fuses are blown, and the counter gives its new minimum. -/
def execRollbackCommitDone (s : State) : Host.Outcome State Fault Refusal :=
  match s.boot.blow with
  | some (c, v, _) =>
    let s1 := (s.setF cr0 .sec 0 Reg.SEC_MIN v (4 * c)).setF cr0 .sec 0 Reg.SEC_RB_COMMIT_BUSY 0
    .next { s1 with boot := { s1.boot with blow := none } }
  | none => .next s

/-! ### The flash port (R408) -/

/-- The bytes of `FL_DATA`. -/
def State.flData (s : State) : List Byte :=
  ((List.range 64).map fun i => leBytes 4 (s.getF cr0 .boot 0 Reg.BOOT_FL_DATA_DATA (4 * i))).flatten

/-- Put bytes into `FL_DATA` from its first on. -/
def State.setFlData (s : State) (l : List Byte) : State :=
  (List.range (ceilDiv (min l.length 256) 4)).foldl (fun (t : State) i =>
    t.setF cr0 .boot 0 Reg.BOOT_FL_DATA_DATA (leNat (cut l (4 * i) 4)) (4 * i)) s

/-- Start a command at the flash: 1 reads 256 B, 2 programs a page, 3 erases a sector, 4 reads the status. A page and a sector
are those that hold the address. While a command is in progress, and for any other number, nothing starts
(log entry 99, DEDUCED). An address at or above 64 MiB, which the reserved bits of `FL_ADDR` would make, or bytes to read that reach
there, set ERR. -/
def State.flGo (s : State) (cmd : Nat) : State :=
  let a := s.getF cr0 .boot 0 Reg.BOOT_FL_ADDR
  let sector := 2 ^ max 12 (s.getF cr0 .boot 0 Reg.BOOT_FLASH_ERASE)
  let s1 := s.setF cr0 .boot 0 Reg.BOOT_FL_CMD_CMD cmd
  if !s.isF cr0 .boot 0 Reg.BOOT_STATUS_FLASH_DONE then s1.refuse .boot cr0 0 0x1003
  else if s.boot.flCmd != 0 || cmd == 0 || decide (4 < cmd) then s1
  else if cmd != 4 && (Tab.get 0 s.resv (winBase cr0 + blkOff .boot 0 + Reg.BOOT_FL_ADDR.off) != 0 ||
      (cmd == 1 && decide (2 ^ 26 < a + 256))) then s1.setF cr0 .boot 0 Reg.BOOT_FL_CMD_ERR 1
  else
    let at_ := if cmd == 2 then a / 256 * 256 else if cmd == 3 then a / sector * sector else if cmd == 4 then 0 else a
    { s1.setF cr0 .boot 0 Reg.BOOT_FL_CMD_BUSY 1 with
      boot := { s1.boot with flCmd := cmd, flTx := some (cmd, at_, if cmd == 2 then s.flData else []) } }

/-- `FLASH_READ`, `FLASH_PROGRAM`, `FLASH_ERASE`, `FLASH_STATUS` (R408): the four commands at the address in `FL_ADDR`. -/
def execFlashRead (s : State) : Host.Outcome State Fault Refusal := .next (s.flGo 1)
def execFlashProgram (s : State) : Host.Outcome State Fault Refusal := .next (s.flGo 2)
def execFlashErase (s : State) : Host.Outcome State Fault Refusal := .next (s.flGo 3)
def execFlashStatus (s : State) : Host.Outcome State Fault Refusal := .next (s.flGo 4)

/-- `FLASH_COMMAND_DONE` (R408): the flash completes the command in hand, with an error or with the bytes it returns: those read,
or its status, which stands in the first byte of `FL_DATA`. -/
def execFlashCommandDone (err : Bool) (data : List Byte) (s : State) : Host.Outcome State Fault Refusal :=
  if s.boot.flCmd == 0 then .next s
  else
    let s1 := s.setF cr0 .boot 0 Reg.BOOT_FL_CMD_BUSY 0
    let s2 := if err then s1.setF cr0 .boot 0 Reg.BOOT_FL_CMD_ERR 1
      else if s.boot.flCmd == 1 then s1.setFlData (data.take 256)
      else if s.boot.flCmd == 4 then s1.setFlData ((data.take 1) ++ (s.flData.drop 1).take 3)
      else s1
    .next { s2 with boot := { s2.boot with flCmd := 0 } }

/-! ### Debug tokens (R411, R412) -/

/-- Bytes of a token: a signed object whose body is 64 bytes. -/
def tokenLen : Nat := hdrLen + 64

/-- The bytes of four registers. -/
def State.secBytes (s : State) (f : Fld) : List Byte := ((List.range 4).map fun i => leBytes 4 (s.getF cr0 .sec 0 f (4 * i))).flatten

/-- A token meets R386 for TYPE 4, and its identity, nonce and zero fields match (log entry 101, DEDUCED). -/
def State.tokenOk (s : State) (l : List Byte) : Bool :=
  let b := oBody l
  verifies s.rootHash 4 tokenLen l && oLen l == 64 &&
    (oRev l == 0 || oRev l == s.getF cr0 .cfg 0 Reg.CFG_VARIANT_SILICON_REV) &&
    cut b 0 16 == leBytes 16 (s.dieId cr0) && cut b 16 16 == s.secBytes Reg.SEC_DBG_NONCE &&
    decide (leNat (cut b 32 4) < 8) && decide (1 ≤ leNat (cut b 36 4)) && leNat (cut b 40 24) == 0

/-- A token is submitted. -/
def State.submit (s : State) (l : List Byte) : State :=
  let scope := leNat (cut (oBody l) 32 4)
  if !s.tokenOk l then s.log cr0 .sec 0 0xA003
  else if bit scope 2 && s.phase == 10 then s.refuseBlk cr0 .sec 0 0x1007
  else
    let s1 := (s.setF cr0 .sec 0 Reg.SEC_DBG_SCOPE scope).setF cr0 .sec 0 Reg.SEC_DBG_LEFT_LEFT (leNat (cut (oBody l) 36 4))
    { s1 with boot := { s1.boot with dbgTurn := s.turn cr0 } }.newNonce

/-- `DEBUG_TOKEN_SUBMIT` (R411, R412): a write of 1 to `SEC.DBG_GO` submits the words of `SEC.DBG_TOKEN`. -/
def State.submitRegs (s : State) : State :=
  s.submit ((List.range 84).map fun i => leBytes 4 (s.getF cr0 .sec 0 Reg.SEC_DBG_TOKEN (4 * i))).flatten
def execDebugTokenSubmit (s : State) : Host.Outcome State Fault Refusal := .next s.submitRegs

/-- Clear the unlocked scope. -/
def State.debugLock (s : State) : State := s.setF cr0 .sec 0 Reg.SEC_DBG_SCOPE 0

/-- `DEBUG_LOCK` (R412): a write of 1 to `SEC.DBG.LOCK`. -/
def execDebugLock (s : State) : Host.Outcome State Fault Refusal := .next s.debugLock

/-- `DEBUG_LIFETIME_EXPIRY` (R412): at a turn boundary the turns that have passed are taken from `DBG_LEFT`; at zero the scope
clears. -/
def execDebugLifetimeExpiry (s : State) : Host.Outcome State Fault Refusal :=
  if s.getF cr0 .sec 0 Reg.SEC_DBG_SCOPE == 0 || !s.atTurn cr0 then .next s
  else
    let left := s.getF cr0 .sec 0 Reg.SEC_DBG_LEFT_LEFT - (s.turn cr0 - s.boot.dbgTurn)
    let s1 := { s.setF cr0 .sec 0 Reg.SEC_DBG_LEFT_LEFT left with boot := { s.boot with dbgTurn := s.turn cr0 } }
    .next (if left == 0 then s1.debugLock else s1)

/-! ### JTAG (R410, R411) -/

/-- Step 6 has begun; of a halted package, had when it halted. -/
def State.step6 (s : State) : Bool :=
  decide (5 ≤ if s.phase == 15 then s.getF cr0 .boot 0 Reg.BOOT_HALT_HALT_PHASE else s.phase)

/-- Boundary scan is open: before step 6, or with scope bit 0. -/
def State.scanOpen (s : State) : Bool := !s.step6 || bit (s.getF cr0 .sec 0 Reg.SEC_DBG_SCOPE) 0

/-- The instruction in force: EXTEST, CLAMP and HIGHZ act as BYPASS where boundary scan is closed. -/
def State.jtagInForce (s : State) : Nat :=
  if decide (s.boot.jtagIr ∈ [3, 4, 5]) && !s.scanOpen then 0 else s.boot.jtagIr

/-- What drives the signal balls: 0 the package, 1 the boundary register, 2 nothing (IEEE 1149.1). -/
def State.ballDrive (s : State) : Nat :=
  match s.jtagInForce with
  | 3 | 4 => 1
  | 5 => 2
  | _ => 0

/-- The IDCODE (R410). Garvanto's JEDEC number is not given: it is a constant of the implementation. -/
def State.idcode (s : State) : Nat :=
  s.getF cr0 .cfg 0 Reg.CFG_VARIANT_SILICON_REV / 16 % 16 * 2 ^ 28 + 0x5434 * 2 ^ 12 + Config.jedecId % 2 ^ 11 * 2 + 1

/-- The TAP takes an instruction and its data register shifts `n` bits of `tdi` in, where the register holds `cap` before. Nothing
happens while CR0's AON is not supplied. -/
def State.tapShift (s : State) (ir : Nat) (cap tdi : List Bool) : State :=
  { s with boot := { s.boot with jtagIr := ir, jtagOut := (cap ++ tdi).take tdi.length } }

/-- The TAP runs: CR0's AON has left its power-on reset. -/
def State.tapOn (s : State) : Bool := s.monGood (.aon 0)

/-- What the boundary register captures of the balls is left free (log entry 102, PRESUMED). -/
def State.capture (s : State) (n : Nat) : List Bool × State :=
  (List.range n).foldl (fun (a : List Bool × State) _ => let (v, t) := a.2.draw 1; (a.1 ++ [v == 1], t)) ([], s)

/-- Shift through the bypass register, which captures a zero. -/
def State.tapBypass (s : State) (ir : Nat) (tdi : List Bool) : State :=
  if s.tapOn then s.tapShift ir [false] tdi else s

/-- Shift through the boundary register. -/
def State.tapScan (s : State) (ir : Nat) (tdi : List Bool) : State :=
  if !s.tapOn then s
  else
    let (cap, s1) := s.capture tdi.length
    let s2 := s1.tapShift ir cap tdi
    { s2 with boot := { s2.boot with jtagBsr := tdi } }

/-- `BYPASS` (R410). -/
def execBypass (tdi : List Bool) (s : State) : Host.Outcome State Fault Refusal := .next (s.tapBypass 0 tdi)

/-- `IDCODE` (R410): the identification register, bit 0 first. -/
def execIdcode (tdi : List Bool) (s : State) : Host.Outcome State Fault Refusal :=
  .next (if s.tapOn then s.tapShift 1 ((List.range 32).map fun i => bit s.idcode i) tdi else s)

/-- `SAMPLE_PRELOAD` (R410): the balls go on working; the boundary register is loaded. -/
def execSamplePreload (tdi : List Bool) (s : State) : Host.Outcome State Fault Refusal := .next (s.tapScan 2 tdi)

/-- `EXTEST` (R410): the boundary register drives the balls, where boundary scan is open. -/
def execExtest (tdi : List Bool) (s : State) : Host.Outcome State Fault Refusal :=
  .next (if s.scanOpen then s.tapScan 3 tdi else s.tapBypass 3 tdi)

/-- `CLAMP` (R410): the boundary register's contents drive the balls, through the bypass register. -/
def execClamp (tdi : List Bool) (s : State) : Host.Outcome State Fault Refusal := .next (s.tapBypass 4 tdi)

/-- `HIGHZ` (R410): no ball is driven. -/
def execHighz (tdi : List Bool) (s : State) : Host.Outcome State Fault Refusal := .next (s.tapBypass 5 tdi)

/-- `JTAG_UNLOCK` (R411, R412): the UNLOCK data register delivers a token of 2,688 bits. -/
def execJtagUnlock (token : List Byte) (s : State) : Host.Outcome State Fault Refusal :=
  if s.tapOn then .next ({ s with boot := { s.boot with jtagIr := 6, jtagOut := [] } }.submit token) else .next s

end Sys2Proof.Machine
end

