-- ==== Sys2Proof/Machine/Recal.lean ====
section
/-! DEFINITION. The run-time recalibration of one bundle of an Ikiper link (R113 to R115, R163). -/

namespace Sys2Proof.Machine

/-- The recalibration that a link end has asked for. -/
def State.recalOf (s : State) (e : LinkEnd) : Option Recal := s.recals.find? fun r => r.end_ == leCode e

/-- The state with it changed, or gone. -/
def State.setRecal (s : State) (e : LinkEnd) (r : Option Recal) : State :=
  { s with recals := (s.recals.filter fun x => x.end_ != leCode e) ++ r.toList }

/-- Both ends of an Ikiper link end's link. -/
def bothEnds (e : LinkEnd) : List LinkEnd := e :: (farEnd e).toList

/-- Show how far a recalibration is, at both ends. -/
def State.showRecal (s : State) (e : LinkEnd) (v : Nat) : State :=
  (bothEnds e).foldl (fun (t : State) f => t.setF (leDie f) .ikl (leInst f) Reg.IKL_RECAL_STATE v) s

/-- A request ends without having run: its token or its request for one goes back. -/
def State.dropRecal (s : State) (e : LinkEnd) : State :=
  ((s.returnToken (leDie e) 1 0xFF (leCode e)).setRecal e none).showRecal e 0

/-- Every retired bundle of the package with one more, as a loss set (R113). -/
def State.lossWith (s : State) (e : LinkEnd) (b : Nat) : Nat :=
  iklEnds.foldl (fun v f => (List.range (nBundles f)).foldl (fun v k =>
    if s.hasInst (leDie f) .ikl (leInst f) && s.retired f k then setBit v (lossBit (linkCode f) k) else v) v)
    (setBit 0 (lossBit (linkCode e) b))

/-- No fallback variant of the loaded image covers the loss on every die (R113); without a loaded image nothing is asked of one
(log entry 157, DESIGN CHOICE). -/
def State.noFallback (s : State) (e : LinkEnd) (b : Nat) : Bool :=
  s.boot.loaded && s.dieList.any fun d => (s.pickVariant d (s.bank d) (Nat.lor (s.lossSet d) (s.lossWith e b))).isNone

/-- A write of 1 to `RECAL.GO`. A bundle that is not in service, and an end that has a recalibration in hand, are refused with
RC 0x1003 (log entry 104, DEDUCED). -/
def State.recalGo (s : State) (e : LinkEnd) : State :=
  let d := leDie e
  let i := leInst e
  let b := s.getF d .ikl i Reg.IKL_RECAL_BUNDLE
  let turn := s.get64 d .ikl i Reg.IKL_RECAL_TURN_LO_TURN Reg.IKL_RECAL_TURN_HI_TURN
  if isTray e then s
  else if !s.inService e || !(s.serving e).contains b || (s.recalOf e).isSome then s.refuse .cal d i 0x1003
  else if s.noFallback e b then s.refuse .cal d i 0x1007
  else if turn * turnBeats < s.beat d + 8 * turnBeats then s.refuse .cal d i 0x1005
  else
    let s1 := (s.setRecal e (some ⟨leCode e, b, turn, 0⟩)).showRecal e 1
    let s2 := s1.setBun e b { s1.bun e b with recalOk := false }
    (s2.sbSend e 0x13 (b % 16 * 2 ^ 14 + turn % 2 ^ 43 * 2 ^ 18)).askToken d ⟨1, s.tokRecal, s.time, 0xFF, leCode e⟩

/-- `RECAL_GO` (R113, R361): firmware requests a run-time recalibration at an Ikiper link end. -/
def execRecalGo (e : LinkEnd) (s : State) : Host.Outcome State Fault Refusal :=
  if s.hasInst (leDie e) .ikl (leInst e) && s.powered (leDie e) .ikl then .next (s.recalGo e) else .next s

/-- `RECAL_ARM` (R113): the partner learns of the bundle and its turn; its acknowledgement confirms. -/
def execRecalArm (e : LinkEnd) (r : SbSlot) (s : State) : Host.Outcome State Fault Refusal :=
  match s.sbTakesFirst e r 0x13 with
  | (some box, t) =>
    let b := bitsOf box 14 4
    .next (if b < nBundles e then t.setBun e b { t.bun e b with recalT := bitsOf box 18 43 + 1 } else t)
  | (none, t) => .next t

/-- `RECAL_ARM_DEADLINE` (R113): 8 turns before T a recalibration that the partner has not confirmed is aborted; the arm goes to no
other die (log entry 104, DEDUCED). -/
def execRecalArmDeadline (e : LinkEnd) (s : State) : Host.Outcome State Fault Refusal :=
  match s.recalOf e with
  | some r =>
    if r.step == 0 && decide (r.turn ≤ s.turn (leDie e) + 8) && !(s.bun e r.bundle).recalOk then
      .next ((s.dropRecal e).refuse .cal (leDie e) (leInst e) 0x1006)
    else .next s
  | none => .next s

/-- Put a bundle into or take it from the loss set of every die, which choose their variants anew (R114, R163). -/
def State.lossAll (s : State) (e : LinkEnd) (b : Nat) (lost : Bool) : State :=
  let k := lossBit (linkCode e) b
  s.dieList.foldl (fun (t : State) d =>
    let u := (t.noteSched d).setLossSet d (if lost then setBit (t.lossSet d) k else clrBit (t.lossSet d) k)
    if u.enabled .gtr d then u.selectVariant d else u) s

/-- A bundle goes out of service at one end, and its seed check begins around the taps in use. -/
def State.recalOut (s : State) (b : Nat) (e : LinkEnd) : State :=
  let s1 := (s.setF (leDie e) .ikl (leInst e) Reg.IKL_BPHY_CAL_OUT 1 (bOff b)).quiesce e [b]
  let x := s1.bun e b
  s1.setBun e b { x with finalEs := x.es, finalOk := true, recalBad := 0, rxStop := some (s.beat (leDie e) + s.latL e),
                         search := { mode := 2, seeded := true, at_ := s.time } }

/-- `RECAL_START` (R113, R114, R361): at T the bundle goes out of service at both ends and joins the loss set. Without its token,
or with its bundle lost meanwhile, the request is dropped. -/
def execRecalStart (e : LinkEnd) (s : State) : Host.Outcome State Fault Refusal :=
  match s.recalOf e with
  | some r =>
    let d := leDie e
    if r.step != 0 || !s.atTurn d || decide (s.turn d < r.turn) then .next s
    else if !(s.bun e r.bundle).recalOk then .next ((s.dropRecal e).refuse .cal d (leInst e) 0x1006)
    else if !s.hasToken d 1 0xFF (leCode e) then .next ((s.dropRecal e).logLink e 0x8001)
    else if !(bothEnds e).all fun f => (s.serving f).contains r.bundle && s.inService f then .next (s.dropRecal e)
    else
      let s1 := (bothEnds e).foldl (fun (t : State) f => t.recalOut r.bundle f) s
      .next (((s1.setRecal e (some { r with step := 1 })).showRecal e 2).lossAll e r.bundle true)
  | none => .next s

/-- `RECAL_LANETEST_START` (R114): at frame 376 of turn T the bundle's lane test begins. -/
def execRecalLanetestStart (e : LinkEnd) (s : State) : Host.Outcome State Fault Refusal :=
  match s.recalOf e with
  | some r =>
    if r.step == 1 && s.atFrame (leDie e) && decide (1024 * r.turn + 376 ≤ s.frame (leDie e)) then
      .next (s.setRecal e (some { r with step := 2 }))
    else .next s
  | none => .next s

/-- Declare failed every lane of a mask at one end, but for those that are not in use. -/
def State.failLanes (s : State) (e : LinkEnd) (b mask : Nat) : State :=
  ((List.range 21).filter fun c => bit mask c && s.laneUsed e b c).foldl (fun (t : State) c => t.failLane e b c) s

/-- The lanes of a bundle that fail the recalibration's lane test, as a mask, by the bits they received (R91, R114). -/
def State.recalFails (s : State) (e : LinkEnd) (b : Nat) (bits : List (List Bool)) : Nat :=
  let bad := errMask false true 21 (s.laneCode e b) bits
  (s.calLanes e b).foldl (fun m c => if bit bad c then setBit m c else m) (s.bun e b).recalBad

/-- `RECAL_RETURN_MISSION` (R91, R114, R115): at frame 768 of T + 1 the lane test is over, with the bits that the lanes received at
either end; those that failed it, or are below the floors, are replaced with E = T + 2, or retire the bundle; the bundle returns to
mission data. -/
def execRecalReturnMission (e : LinkEnd) (near far : List (List Bool)) (s : State) : Host.Outcome State Fault Refusal :=
  match s.recalOf e with
  | some r =>
    if r.step == 2 && s.atFrame (leDie e) && decide (1024 * r.turn + 1792 ≤ s.frame (leDie e)) then
      let b := r.bundle
      let s1 := (s.setRecal e (some { r with step := 3 })).failLanes e b (s.recalFails e b near)
      match farEnd e with
      | some f => .next (s1.failLanes f b (s.recalFails f b far))
      | none => .next s1
    else .next s
  | none => .next s

/-- The bundle is back at one end: its sequences begin anew, and the change of R142 runs. -/
def State.recalIn (s : State) (b : Nat) (e : LinkEnd) : State :=
  let s1 := s.setF (leDie e) .ikl (leInst e) Reg.IKL_BPHY_CAL_OUT 0 (bOff b)
  let x := s1.bun e b
  if s1.retired e b then s1.setBun e b { x with recalT := 0 }
  else (s1.setBun e b { x.fresh with recalT := 0, finalOk := false, finalEs := 0, rxStop := none }).quiesce e []

/-- `RECAL_END` (R114, R115, R163): at T + 2 the lanes that the check at the bundle's depth found off at either end are failed, and
the bundle is in service again and leaves the loss set of every die, or it is retired and stays. -/
def execRecalEnd (e : LinkEnd) (near far : BitVec 21) (s : State) : Host.Outcome State Fault Refusal :=
  match s.recalOf e with
  | some r =>
    let d := leDie e
    if r.step != 3 || !s.atTurn d || decide (s.turn d < r.turn + 2) then .next s
    else
      let b := r.bundle
      let s0 := s.failLanes e b near.toNat
      let s0 := match farEnd e with
        | some f => s0.failLanes f b far.toNat
        | none => s0
      let gone := (bothEnds e).any fun f => s0.retired f b || (s0.bun f b).dying
      let s1 := (bothEnds e).foldl (fun (t : State) f => t.recalIn b f) s0
      let s2 := (((s1.returnToken d 1 0xFF (leCode e)).setRecal e none).showRecal e 3)
      .next (if gone then s2 else s2.lossAll e b false)
  | none => .next s

end Sys2Proof.Machine
end

