-- ==== Sys2Proof/Machine/Access.lean ====
section
/-! DEFINITION. Reads and writes of the management space over BAR0, SMBus and the TAP, by access code (R8, R9, R14, R270, R416,
R417, R427, R469, R498 to R504), and the sideband containers that have no row of their own (R73). -/

namespace Sys2Proof.Machine

/-! ### Expert fields (R415 to R417) -/

/-- The expert fields of a block, each with the `EXPERT` bit that lets it govern and the value the profile sets. The profiles of
`IKL` `PHY_CTL` set no `SWING` and no `PATTERN`: their nominal values stand (log entry 108, DEDUCED). -/
def State.expertFlds (s : State) (d : Die) (b : Blk) (i : Nat) : List (Fld × Fld × Nat) :=
  let all (x : Fld) (l : List (Fld × Nat)) : List (Fld × Fld × Nat) := l.map fun p => (p.1, x, p.2)
  let g (f : Fld) : Nat := s.getF d b i f
  match b with
  | .cfg => all Reg.CFG_PAD_CTL_EXPERT [(Reg.CFG_PAD_CTL_FL_DRV, if g Reg.CFG_PAD_CTL_PROFILE == 1 then 2 else 1),
      (Reg.CFG_PAD_CTL_LD_DRV, 1), (Reg.CFG_PAD_CTL_MGMT_FAST, 0)]
  | .bal => all Reg.BAL_CTL_EXPERT [(Reg.BAL_REF_SRC, s.balProfile % 2), (Reg.BAL_REF_SYNTONISE, b2n (s.balProfile == 2)),
      (Reg.BAL_REF_SYNC_PORTS, if 2 ≤ s.balProfile then 0xFF else 0)]
  | .pwr => all Reg.PWR_CTL_EXPERT [(Reg.PWR_ADM_WAIT_LIMIT, 1024), (Reg.PWR_TOKEN_MATRIX, 128), (Reg.PWR_TOKEN_SCAN, 64),
      (Reg.PWR_TOKEN_HOST, 32), (Reg.PWR_TOKEN_RECAL, 16), (Reg.PWR_FLOOR_MV_FLOOR, 128), (Reg.PWR_FLOOR_CR_FLOOR, 32)]
  | .thm => all Reg.THM_CTL_EXPERT [(Reg.THM_LIMIT_THROT_C, 100), (Reg.THM_LIMIT_HYST, 5)]
  | .ikl =>
    all Reg.IKL_PHY_CTL_EXPERT [(Reg.IKL_PHY_CTL_MODE, g Reg.IKL_PHY_CTL_PROFILE), (Reg.IKL_PHY_CTL_SWING, 0),
      (Reg.IKL_PHY_CTL_PATTERN, 0)] ++
    all Reg.IKL_CAL_CTL_EXPERT [(Reg.IKL_CAL_CTL_DWELL, 3), (Reg.IKL_CAL_CTL_LT_FULL, 8), (Reg.IKL_CAL_CTL_LT_SEEDED, 1)] ++
    all Reg.IKL_LL_CTL_EXPERT [(Reg.IKL_LL_CTL_REPLAY_MAX, 4),
      (Reg.IKL_LL_CTL_TRAIN_MAX, if g Reg.IKL_LL_CTL_PROFILE == 1 then 1 else 3)]
  | .gtr => all Reg.GTR_CTL_EXPERT [(Reg.GTR_ARB_MSG_N, 64), (Reg.GTR_ARB_REQ_N, 64)]
  | .tray => all Reg.TRY_CTL_EXPERT [(Reg.TRY_CTL_START_WIN, 20)]
  | .trayPort =>
    all Reg.TRYP_PORT_CTL_EXPERT [(Reg.TRYP_LAT_LAT_BUDGET, 1600), (Reg.TRYP_ERR_CFG_WINDOW, 16), (Reg.TRYP_ERR_CFG_THRESH, 32768)] ++
    all Reg.TRYP_LL_CTL_EXPERT [(Reg.TRYP_LL_CTL_REPLAY_MAX, 4),
      (Reg.TRYP_LL_CTL_TRAIN_MAX, if g Reg.TRYP_LL_CTL_PROFILE == 1 then 1 else 3)]
  | .eng => all Reg.ENG_CTL_EXPERT [(Reg.ENG_HEAVY_HEAVY_MIN, 16)]
  | .mem => all Reg.MEM_CTL_EXPERT [(Reg.MEM_CTL_MODE, g Reg.MEM_CTL_PROFILE), (Reg.MEM_CTL_SCRUB_H, 24)]
  | .pci => all Reg.PCI_CTL_EXPERT [(Reg.PCI_CTL_RD_LIMIT, 40)]
  | .ethPort => all Reg.ETHP_CTL_EXPERT [(Reg.ETHP_CTL_MAX_FRAME, 9216)]
  | .ptp => all Reg.PTP_CTL_EXPERT [(Reg.PTP_CTL_DOMAIN, if g Reg.PTP_CTL_PROFILE == 0 then 254 else 0)]
  | .fus => all Reg.FUS_CTL_EXPERT ((fusRanges.map fun p => (p.1, p.1.reset)) ++
      [(Reg.FUS_MODE_CFG_ITER_MAX, Reg.FUS_MODE_CFG_ITER_MAX.reset), (Reg.FUS_MODE_CFG_CONFIRM_N, Reg.FUS_MODE_CFG_CONFIRM_N.reset),
       (Reg.FUS_MODE_CFG_COAST_N, Reg.FUS_MODE_CFG_COAST_N.reset), (Reg.FUS_ALIGN_TQ_MAX, Reg.FUS_ALIGN_TQ_MAX.reset)])
  | .ldg => all Reg.LDG_CTL_EXPERT [(Reg.LDG_INTERVAL_LEN, g Reg.LDG_CTL_PROFILE), (Reg.LDG_INTERVAL_INT_OFFSET, 0),
      (Reg.LDG_FRAM_SCLK_MHZ, 40), (Reg.LDG_FRAM_VERIFY, 1), (Reg.LDG_FRAM_HOLDUP_MS, 25)]
  | .boot => all Reg.BOOT_CTL_EXPERT [(Reg.BOOT_CTL_HBM_TRIES, 2)]
  | .rcv => all Reg.RCV_CTL_EXPERT [(Reg.RCV_OOSCFG_CHIP_MAX, 4), (Reg.RCV_OOSCFG_WIN_S, 3600), (Reg.RCV_PARAM_SAMPLE_KIB, 16),
      (Reg.RCV_PARAM_REPLAY_LIM, 16), (Reg.RCV_PARAM_CTX_REPEAT, 3)]
  | _ => []

/-- The value the profile sets for an expert field whose `EXPERT` is clear. -/
def State.profileVal (s : State) (p : Place) (f : Fld) : Option Nat :=
  ((s.expertFlds p.die p.blk p.inst).find? fun x => decide (x.1 = f) && !s.isF p.die p.blk p.inst x.2.1).map (·.2.2)

/-! ### Writes (R8, R9, R417, R427, R469, R504) -/

/-- A place is the register of a block that holds a field. -/
def Place.is (p : Place) (b : Blk) (f : Fld) : Bool := p.blk == b && p.row.off == f.off

/-- Another control governs an ARM field at this moment: its function (R417). -/
def State.governed (s : State) (p : Place) (f : Fld) : Option Fn :=
  if p.blk == .bal then (if s.isF cr0 .bal 0 Reg.BAL_STATUS_TAI_VALID then some .bal else none)
  else if (s.profileVal p f).isSome then
    match fnOfField p f with
    | some fn => if s.enabled fn p.die p.inst then some fn else none
    | none => none
  else none

/-- The ARM fields of a register are written: refused, discarded and counted, or stored in their shadow copies. -/
def State.armFlds (s : State) (p : Place) (w : Nat) : State :=
  let fs := p.row.flds.filter fun f => f.acc == .arm
  if fs == [] then s
  else match fs.findSome? (s.governed p) with
    | some fn => s.refuse fn p.die p.inst 0x1004
    | none =>
      if s.lateWr then s.bumpF cr0 .cfg 0 Reg.CFG_ARM_STATUS_LATE_WR
      else { s with shadow := fs.foldl (fun t f => Tab.set 0 t (placeKey p f) (bitsOf w f.lo f.w + 1)) s.shadow }

/-- One field that is neither ARM nor an enable takes what is written, as its access code says. -/
def State.putFld (s : State) (p : Place) (w : Nat) (f : Fld) : State :=
  let v := bitsOf w f.lo f.w
  let put (x : Nat) : State := s.setF p.die p.blk p.inst f x p.k
  match f.acc with
  | .rw => if (fnOfEnable p.blk f).isSome then s else put v
  | .w1c => put (andNot (s.getF p.die p.blk p.inst f p.k) v)
  | .w1k => if v == 2 ^ f.w - 1 then put 0 else s
  | .lck => if (gateOf p.blk f).any fun fn => s.enabled fn p.die p.inst then s else put v
  | .wo => if p.is .sec Reg.SEC_DBG_TOKEN then put v else s
  | _ => s

/-- The enables of a register take what is written (R418, R421). `ok` as in `State.enableFn`. -/
def State.putEnables (s : State) (p : Place) (w : Nat) (ok : Bool) : State :=
  p.row.flds.foldl (fun (t : State) f => match fnOfEnable p.blk f with
    | some fn => if f.acc != .rw then t else if bit w f.lo then t.enableFn fn p.die p.inst ok else t.disableFn fn p.die p.inst
    | none => t) s

/-- The class C fields of `RCV` are written: refused while an image is loading or runs, and where CR0's parameters would leave
their ranges; else they stand at once (R469) (log entry 114, DEDUCED). -/
def State.rcvWrite (s : State) (p : Place) (w : Nat) : State :=
  if s.underLoad then s.refuse .rcv cr0 0 0x1007
  else
    let t := p.row.flds.foldl (fun (t : State) f => t.putFld p w f) s
    if p.die == cr0 && !t.rcvOk then s.refuse .rcv cr0 0 0x1001 else t

/-- What a write of a register does beside its fields: table ports, and the bits that start something. -/
def State.writeHook (s : State) (p : Place) (w : Nat) : State :=
  let s1 := s.recPort p w false
  match p.blk, p.die with
  | .boot, _ =>
    if p.is .boot Reg.BOOT_CTL_RESTART && bit w 8 then s1.restartWrite
    else if p.is .boot Reg.BOOT_IMG_CTL_LOAD then
      let s2 := if bit w 0 then s1.loadWrite else s1
      if bit w 1 then s2.unloadWrite else s2
    else if p.is .boot Reg.BOOT_FL_CMD_GO && bit w 3 then s1.flGo (w % 8)
    else s1
  | .sec, _ =>
    if p.is .sec Reg.SEC_DBG_GO_GO && bit w 0 then s1.submitRegs
    else if p.is .sec Reg.SEC_DBG_LOCK && bit w 8 then s1.debugLock
    else s1
  | .rcv, _ =>
    if p.is .rcv Reg.RCV_OOS_CLEAR && bit w 8 then s1.oosClear
    else if p.is .rcv Reg.RCV_CTX_RELEASE then s1.releaseMask w
    else if p.is .rcv Reg.RCV_FORCE_GO && bit w 31 then s1.force (w % 8) (bitsOf w 4 3) (bitsOf w 8 4)
    else s1
  | .ikl, d => if p.is .ikl Reg.IKL_RECAL_GO && bit w 4 then s1.recalGo (.ikl d (Fin.ofNat 4 p.inst)) else s1
  | .eng, .mv m => if p.is .eng Reg.ENG_DOORBELL_RING then s1.doorbell m w else s1
  | .pci, .cr c =>
    let h := s1.host c
    if p.is .pci Reg.PCI_EVT_CAUSE then s1.setHost c { h with sent := andNot h.sent (w % 2 ^ 24) }
    else if p.is .pci Reg.PCI_EVT_CTX_CTX then s1.setHost c { h with sent := andNot h.sent (w * 2 ^ 24) }
    else s1
  | _, _ => s1

/-- A register of a present die, in a domain that is on, is written. A write of a ring's configuration that enables it with a
size outside 4 to 15 is refused (log entry 107, DEDUCED) (log entry 112, DEDUCED). -/
def State.regWrite (s : State) (p : Place) (w : Nat) (ok : Bool) : State :=
  if p.is .pwr Reg.PWR_BUDGET then s.budgetWrite w
  else if p.is .pwr Reg.PWR_DOM_ON then s.domRequest (w % 2 ^ 16)
  else if p.is .cfg Reg.CFG_ARM_GO then s.armWrite w
  else if p.is .sec Reg.SEC_RB_COMMIT_GO then s.rbWrite w
  else if p.is .rcv Reg.RCV_CTL_EXPERT || p.is .rcv Reg.RCV_OOSCFG_CHIP_MAX || p.is .rcv Reg.RCV_PARAM_SAMPLE_KIB then s.rcvWrite p w
  else if p.blk == .bal && p.die != cr0 && p.row.off == 0 then s
  else if s.portEmpty p then s
  else if p.is .pci Reg.PCI_RING_CFG_EN && bit w 0 && decide (bitsOf w 4 4 < 4) then s.refuse .pci p.die 0 0x1001
  else if (p.is .cfg Reg.CFG_STAGE_OFF_OFFSET || p.is .cfg Reg.CFG_STAGE_VAL_VALUE) && s.lateWr then
    s.bumpF cr0 .cfg 0 Reg.CFG_ARM_STATUS_LATE_WR
  else match p.blk, p.die with
    | .syn, .mv m => if p.is .syn Reg.SYN_CTR_VALUE then s.ctrWrite m (p.k / 4) w
      else (p.row.flds.foldl (fun (t : State) f => t.putFld p w f) s).putEnables p w ok
    | _, _ =>
      let s1 := p.row.flds.foldl (fun (t : State) f => t.putFld p w f) s
      (s1.armFlds p w).putEnables p w ok |>.writeHook p w

/-- A write of a word of the management space. An absent or unsupplied instance ignores it, but for its enables, which are
refused; a die whose SP link is down does not get it. -/
def State.msWrite (s : State) (c : Crown) (a w : Nat) (ok : Bool) : State :=
  if a == winBase (.cr 1) + blkOff .ldg 0 && bit w 0 then s.enableFn .ldg (.cr 1) 0 ok
  else match findPlace a with
    | none => s
    | some p =>
      let far := match p.die with
        | .mv m => s.powered p.die .ikl && !s.inService (spCrown m c)
        | .cr _ => false
      if far then s
      else if !s.hasInst p.die p.blk p.inst || !s.powered p.die p.blk then (if bit w 0 then s.putEnables p w ok else s)
      else if s.heldInReset p.die p.blk then s
      else (s.noteReserved p.row a w).regWrite p w ok

/-- Whether BAR0 of a Crown die takes accesses: its CRX is on (log entry 106, DEDUCED). -/
def State.bar0On (s : State) (c : Crown) : Bool := s.hasDie (.cr c) && s.powered (.cr c) .pci

/-- An access that is not a naturally aligned 32-bit access (R14): it is counted, a write is discarded and a read returns all
ones. -/
def State.badAccess (s : State) (c : Crown) (rd : Bool) : State :=
  let s1 := s.bumpF (.cr c) .pci 0 Reg.PCI_STATUS_MS_BAD_ACCESS
  if rd then s1.putRd (.bar0 c) 0xFFFFFFFF else s1

/-- `REGISTER_WRITE` (R8, R9, R14, R417, R498, R504): a 32-bit write through BAR0 of a Crown die. `ok` is as in
`FUNCTION_ENABLE` (log entry 105, DESIGN CHOICE). -/
def execRegisterWrite (c : Crown) (a : Word) (w : Word) (ok : Bool) (s : State) : Host.Outcome State Fault Refusal :=
  .next (if !s.bar0On c then s else if a.toNat % 4 == 0 then s.msWrite c a.toNat w.toNat ok else s.badAccess c false)

/-! ### Reads (R8, R270, R416, R498, R501, R504) -/

/-- What a field reads as (log entry 109, DEDUCED). -/
def State.fldRead (s : State) (p : Place) (f : Fld) : Nat :=
  if f.acc == .wo then 0
  else if f.cfg && !s.boot.applied then 0
  else if p.is .cfg Reg.CFG_DIE_ID_ID then s.dieId p.die / 2 ^ (8 * p.k) % 2 ^ 32
  else if p.is .sec Reg.SEC_DEVICE_ID then s.dieId cr0 / 2 ^ (8 * p.k) % 2 ^ 32
  else if p.is .cfg Reg.CFG_VARIANT then s.getF cr0 .cfg 0 f
  else match s.profileVal p f with
    | some v => v
    | none => if p.blk == .bal && p.row.off == 0 then s.getF cr0 .bal 0 f else s.getF p.die p.blk p.inst f p.k

/-- What a register's fields read as, as one word (log entry 110, DESIGN CHOICE). -/
def State.wordRead (s : State) (p : Place) : Nat := (p.row.flds.map fun f => s.fldRead p f % 2 ^ f.w * 2 ^ f.lo).sum

/-- `CFG.SHADOW` of a die, but for FROZEN (R8). -/
def State.shadowWord (s : State) (d : Die) : Nat :=
  let fs := s.shadowOf d
  let any := fs != [] || s.tshadowOf d != []
  b2n any + 2 * (if fs.any fun m => keyClassB m.1 then 2 else b2n any)

/-- The link end of an instance of a link's registers. -/
def Place.linkEnd (p : Place) : Option LinkEnd :=
  match p.blk, p.die with
  | .ikl, d => some (.ikl d (Fin.ofNat 4 p.inst))
  | .trayPort, .cr c => some (.tray (Fin.ofNat 8 (4 * c.val + p.inst)))
  | _, _ => none

/-- What a link end's computed registers show beside what is stored: L, the pools and the available credit in 16 flits (R122,
R134, R135). -/
def State.linkWord (s : State) (p : Place) (e : LinkEnd) : Nat :=
  let four (f : Nat → Nat) : Nat := ((List.range 4).map fun i => f i / 16 % 256 * 256 ^ i).sum
  if p.row.off == Reg.IKL_PIN_LATENCY.off && s.boot.applied then s.latL e % 2 ^ 16
  else if p.row.off == Reg.IKL_CREDIT_POOL_RSP.off && s.boot.applied then
    four fun i => poolOf e ([0, 1, 2, 3].getD i 0)
  else if p.row.off == Reg.IKL_CREDIT_AVAIL_RSP.off && s.inService e then four fun i => s.credit e i
  else 0

/-- A word of the error-log ring of a die, at an offset of the ring (R440, R441). -/
def State.ringWord (s : State) (d : Die) (off : Nat) : Nat :=
  match (s.die d).ring (off / 32) with
  | some r => leNat (cut r.bytes (off % 32) 4)
  | none => 0

/-- A register of a present die, in a domain that is on, is read; an offset at which a window holds none is zero (log entry 115,
DEDUCED). A busy unit's position is left free (log entry 162, DESIGN CHOICE), and so is the level of a tray port's presence ball
(R489) (log entry 177, DESIGN CHOICE). -/
def State.regRead (s : State) (path : Path) (p : Place) : Nat × State :=
  let x := s.die p.die
  let stored (t : State) : Nat × State := (t.wordRead p, t)
  if s.portEmpty p then (0, s)
  else match p.blk, p.die with
  | .bal, d =>
    if p.is .bal Reg.BAL_BEAT_LO_BEAT then s.readBeatLo path d
    else if p.is .bal Reg.BAL_BEAT_HI_BEAT then (Tab.get 0 s.beatHi (pathCode path), s)
    else stored s
  | .cfg, d => if p.is .cfg Reg.CFG_SHADOW_PENDING then (s.wordRead p + s.shadowWord d, s) else stored s
  | .log, _ =>
    if p.is .log Reg.LOG_STATUS_HEAD then (x.logCount % 4096 + b2n (decide (4096 < x.logCount)) * 4096, s)
    else (x.logCount % 2 ^ 32, s)
  | .rcv, _ => if p.is .rcv Reg.RCV_OOS_COUNT then (s.wordRead p + min s.chipCount 15, s) else stored s
  | .ikl, _ | .trayPort, _ =>
    if p.is .trayPort Reg.TRYP_PORT_STATUS_PRESENT then
      let (v, t) := s.draw 1; (t.wordRead p + v * 2 ^ Reg.TRYP_PORT_STATUS_PRESENT.lo, t)
    else match p.linkEnd with
    | some e => (s.wordRead p + s.linkWord p e, s)
    | none => stored s
  | .seq, _ => if p.is .seq Reg.SEQ_Q_POS && s.isF p.die .seq 0 Reg.SEQ_Q_BUSY p.k then
      let (v, t) := s.draw 24; (t.wordRead p + v, t) else stored s
  | .dma, _ => if p.is .dma Reg.DMA_M_POS && s.isF p.die .dma 0 Reg.DMA_M_BUSY p.k then
      let (v, t) := s.draw 24; (t.wordRead p + v, t) else stored s
  | .gtr, d => stored (if p.is .gtr Reg.GTR_TBL_DATA_DATA && p.k == 0 then s.schedRead d false else s)
  | .tray, d => stored (if p.is .tray Reg.TRY_TBL_DATA_DATA && p.k == 0 then s.schedRead d true else s)
  | .fus, .cr c => stored (if p.is .fus Reg.FUS_TBL_DATA_DATA && p.k == 0 then s.fusLoad c else s)
  | .eth, .cr c => stored (if p.is .eth Reg.ETH_TBL_DATA_DATA && p.k == 0 then s.ethLoad c else s)
  | .ldg, _ => stored (if p.is .ldg Reg.LDG_TBL_DATA_DATA && p.k == 0 then s.ldgLoad else s)
  | _, _ => stored s

/-- A read of an aligned word of the management space over a path. What lies in no register of a present die reads as zero. -/
def State.msRead (s : State) (path : Path) (a : Nat) : Nat × State :=
  match dieOfWin a with
  | none => (0, s)
  | some d =>
    let off := a % 0x1000000
    if 0x4A0000 ≤ off ∧ off < 0x4C0000 then (s.deadRead path d .log).getD (s.ringWord d (off - 0x4A0000), s)
    else match findPlace a with
      | none => (match s.deadRead path d .cfg with
        | some r => if r.1 == 0 || (match d with | .mv _ => s.powered d .cfg | .cr _ => false) then r else (0, s)
        | none => (0, s))
      | some p =>
        if !s.hasInst p.die p.blk p.inst then (0, s) else (s.deadRead path d p.blk).getD (s.regRead path p)

/-- `MS_READ` (R14, R270): a 32-bit read through BAR0 of a Crown die. -/
def execMsRead (c : Crown) (a : Word) (s : State) : Host.Outcome State Fault Refusal :=
  if !s.bar0On c then .next s
  else if a.toNat % 4 == 0 then
    let (v, s1) := s.msRead (.bar0 c) a.toNat
    .next (s1.putRd (.bar0 c) v)
  else .next (s.badAccess c true)

/-- `MS_BAD_ACCESS` (R14): an access that is not a naturally aligned 32-bit access; `rd` where it is a read. -/
def execMsBadAccess (c : Crown) (rd : Bool) (s : State) : Host.Outcome State Fault Refusal :=
  .next (if s.bar0On c then s.badAccess c rd else s)

/-! ### SMBus (R499, R500) -/

/-- The management-space offsets of the SMBus subset. -/
def smSubset (a : Nat) : Bool :=
  let r (lo hi : Nat) : Bool := decide (lo ≤ a ∧ a ≤ hi)
  a % 4 == 0 && (decide (a ∈ [0x0, 0x4, 0x10, 0x304, 0x21004, 0x21008, 0x380008, 0x38000C, 0x410250, 0x490000, 0x490004]) ||
    r 0x10004 0x1000C || r 0x20004 0x2000C || r 0x20040 0x2006C || r 0x20080 0x200C4 || r 0x400000 0x400048 ||
    r 0x400080 0x4001FC || r 0x410030 0x41003C || r 0x410070 0x41008C || r 0x410100 0x41024C ||
    (r 0x480004 0x480034 && a != 0x48002C) || r 0x480100 0x480174 || r 0x4A0000 0x4BFFFC)

/-- The registers of the subset that have a writable field. -/
def smWritable (a : Nat) : Bool :=
  let r (lo hi : Nat) : Bool := decide (lo ≤ a ∧ a ≤ hi)
  a % 4 == 0 && (decide (a ∈ [0x4, 0x10004, 0x20008, 0x21008, 0x400000, 0x40000C, 0x400080, 0x400084, 0x410070, 0x410250,
      0x480004, 0x48000C, 0x480014, 0x480030, 0x480034]) ||
    r 0x20080 0x200C4 || r 0x400100 0x4001FC || r 0x410100 0x41024C)

/-- SMBus is answered: CR0's AON is out of reset (R494) (log entry 113, DEDUCED). Accesses take effect in the order of their commands
(R502) (log entry 159, DESIGN CHOICE). -/
def State.smOn (s : State) : Bool := s.monGood (.aon 0)

/-- `SMBUS_WRITE` (R499, R500): command 0x10, its offset and value; `pec` is false where a packet error code is bad. -/
def execSmbusWrite (a : Word) (w : Word) (pec : Bool) (s : State) : Host.Outcome State Fault Refusal :=
  if !s.smOn then .next s
  else if !pec || !smWritable a.toNat then .next { s with boot := { s.boot with smNack := true } }
  else
    let s1 := if a.toNat == 0x400000 then (if bit w.toNat 8 then s.restartWrite else s) else s.msWrite 0 a.toNat w.toNat true
    .next { s1 with boot := { s1.boot with smPtr := a.toNat, smNack := false } }

/-- `SMBUS_SET_POINTER` (R499): command 0x11. -/
def execSmbusSetPointer (a : Word) (pec : Bool) (s : State) : Host.Outcome State Fault Refusal :=
  if !s.smOn then .next s
  else if !pec then .next { s with boot := { s.boot with smNack := true } }
  else .next { s with boot := { s.boot with smPtr := a.toNat, smNack := false } }

/-- STATUS and value of a read at an offset, and the state after it. -/
def State.smRead (s : State) (a : Nat) : (Nat × Nat) × State :=
  if !smSubset a then ((1, 0), s)
  else if decide (a ∈ [0x380008, 0x38000C]) && !s.powered cr0 .tray then ((2, 0xFFFFFFFF), s)
  else
    let (v, s1) := s.msRead .smbus a
    ((0, v), s1)

/-- `SMBUS_READ` (R499): command 0x12: the word at the pointer with its STATUS; the pointer goes on by 4. -/
def execSmbusRead (s : State) : Host.Outcome State Fault Refusal :=
  if !s.smOn then .next s
  else
    let (o, s1) := s.smRead s.boot.smPtr
    .next { s1.putRd .smbus o.2 with boot := { s1.boot with smOut := some o, smNack := false, smPtr := (s.boot.smPtr + 4) % 2 ^ 32 } }

/-! ### The TAP (R410, R411) -/

/-- `n` bits of a number, bit 0 first. -/
def bitList (v n : Nat) : List Bool := (List.range n).map (bit v)

/-- `PRIVATE_INSTRUCTION` (R410, R411): what it asks for is done where the unlocked scope has the bit it needs; else it acts as
BYPASS. A read leaves its word in the data register (log entry 103, DESIGN CHOICE). -/
def execPrivateInstruction (op : PrivOp) (tdi : List Bool) (s : State) : Host.Outcome State Fault Refusal :=
  let scope := s.getF cr0 .sec 0 Reg.SEC_DBG_SCOPE
  let need := match op with
    | .msRead _ | .memRead _ => 1
    | .halt _ _ | .write _ => 2
  if !bit scope need then .next (s.tapBypass 7 tdi)
  else match op with
    | .msRead a =>
      let (v, s1) := s.msRead .tap (a.toNat / 4 * 4)
      .next ((s1.putRd .tap v).tapShift 7 (bitList v 32) tdi)
    | .memRead pa =>
      let v := s.rd32 (pa.toNat / 4 * 4)
      .next ((s.putRd .tap v).tapShift 7 (bitList v 32) tdi)
    | .halt d on =>
      let h := s.recov.halted
      .next ({ s with recov := { s.recov with halted := if on then setBit h (dieCode d) else clrBit h (dieCode d) } }.tapShift 7 [] tdi)
    | .write _ => .next (s.tapShift 7 [] tdi)

/-! ### Sideband containers (R73, R148) -/

/-- `SIDEBAND_CONTAINER` (R73, R148): a sideband slot arrives at a link end. A NOP, a TAI map, a budget message or a heartbeat is
taken here; a container of another type is the command's that its type has, and this one then does nothing
(log entry 9, DESIGN CHOICE). -/
def execSidebandContainer (e : LinkEnd) (r : SbSlot) (s : State) : Host.Outcome State Fault Refusal :=
  if !s.slotDue e r.slot then .next s
  else match s.sbReceive e r with
  | (none, s1) => .next s1
  | (some b, s1) =>
    match bitsOf b 0 6 with
    | 0x00 => .next s1
    | 0x18 => if bitsOf b 6 3 == 1 || bitsOf b 6 3 == 3 then .next s else .next (s1.takeHeartbeat e b)
    | 0x19 => .next (s1.takeBudget e b)
    | 0x1A | 0x1B => .next (s1.takeTaiMap (leDie e) b)
    | _ => .next s

end Sys2Proof.Machine
end

