-- ==== Sys2Proof/Machine/Dispatch.lean ====
section
/-! DEFINITION. One arm per command: each a direct call of the command's meaning. -/

namespace Sys2Proof.Machine

/-- The effect of command `i` on everything but the queue of waiting commands. -/
def exec (i : Instr) (s : State) : Host.Outcome State Fault Refusal :=
  match i with
  | .powerOnReset c => Sys2Proof.Machine.execPowerOnReset c s
  | .monitorGood m mv variant pkg refSel pfLow => Sys2Proof.Machine.execMonitorGood m mv variant pkg refSel pfLow s
  | .monitorNotGood m mv => Sys2Proof.Machine.execMonitorNotGood m mv s
  | .monitorBandTimeout m mv => Sys2Proof.Machine.execMonitorBandTimeout m mv s
  | .referenceDetect => Sys2Proof.Machine.execReferenceDetect s
  | .referenceTimeout => Sys2Proof.Machine.execReferenceTimeout s
  | .pllLock d => Sys2Proof.Machine.execPllLock d s
  | .pllLockTimeout d => Sys2Proof.Machine.execPllLockTimeout d s
  | .flashDiscover f => Sys2Proof.Machine.execFlashDiscover f s
  | .flashPass copyA copyB fw seedBytes cr1fw cr1Seeds ports => Sys2Proof.Machine.execFlashPass copyA copyB fw seedBytes cr1fw cr1Seeds ports s
  | .flashPassResume image => Sys2Proof.Machine.execFlashPassResume image s
  | .domainSwitchRequest w => Sys2Proof.Machine.execDomainSwitchRequest w s
  | .domainOn ok => Sys2Proof.Machine.execDomainOn ok s
  | .perstDeassert c width speed => Sys2Proof.Machine.execPerstDeassert c width speed s
  | .hbmTrainingDone m stack ok => Sys2Proof.Machine.execHbmTrainingDone m stack ok s
  | .imageLoad img ldgOk => Sys2Proof.Machine.execImageLoad img ldgOk s
  | .imageLoadHost => Sys2Proof.Machine.execImageLoadHost s
  | .imageUnload => Sys2Proof.Machine.execImageUnload s
  | .imageStop => Sys2Proof.Machine.execImageStop s
  | .loadReport pkg hash => Sys2Proof.Machine.execLoadReport pkg hash s
  | .imageActivate => Sys2Proof.Machine.execImageActivate s
  | .restart => Sys2Proof.Machine.execRestart s
  | .rollbackCommit w => Sys2Proof.Machine.execRollbackCommit w s
  | .rollbackCommitDone => Sys2Proof.Machine.execRollbackCommitDone s
  | .flashRead => Sys2Proof.Machine.execFlashRead s
  | .flashProgram => Sys2Proof.Machine.execFlashProgram s
  | .flashErase => Sys2Proof.Machine.execFlashErase s
  | .flashStatus => Sys2Proof.Machine.execFlashStatus s
  | .flashCommandDone err data => Sys2Proof.Machine.execFlashCommandDone err data s
  | .debugTokenSubmit => Sys2Proof.Machine.execDebugTokenSubmit s
  | .jtagUnlock token => Sys2Proof.Machine.execJtagUnlock token s
  | .debugLock => Sys2Proof.Machine.execDebugLock s
  | .debugLifetimeExpiry => Sys2Proof.Machine.execDebugLifetimeExpiry s
  | .bypass tdi => Sys2Proof.Machine.execBypass tdi s
  | .idcode tdi => Sys2Proof.Machine.execIdcode tdi s
  | .samplePreload tdi => Sys2Proof.Machine.execSamplePreload tdi s
  | .extest tdi => Sys2Proof.Machine.execExtest tdi s
  | .clamp tdi => Sys2Proof.Machine.execClamp tdi s
  | .highz tdi => Sys2Proof.Machine.execHighz tdi s
  | .msBadAccess c rd => Sys2Proof.Machine.execMsBadAccess c rd s
  | .registerWrite c a w ok => Sys2Proof.Machine.execRegisterWrite c a w ok s
  | .beatLoRead p d => Sys2Proof.Machine.execBeatLoRead p d s
  | .functionEnable d fn inst ok => Sys2Proof.Machine.execFunctionEnable d fn inst ok s
  | .functionDisable d fn inst => Sys2Proof.Machine.execFunctionDisable d fn inst s
  | .beatLoadSend d => Sys2Proof.Machine.execBeatLoadSend d s
  | .beatLoad e r => Sys2Proof.Machine.execBeatLoad e r s
  | .beatSyncAttempt n => Sys2Proof.Machine.execBeatSyncAttempt n s
  | .beatSyncReq n r => Sys2Proof.Machine.execBeatSyncReq n r s
  | .beatSyncResp n r stamp err => Sys2Proof.Machine.execBeatSyncResp n r stamp err s
  | .beatSyncTimeout n => Sys2Proof.Machine.execBeatSyncTimeout n s
  | .syncPortLoss => Sys2Proof.Machine.execSyncPortLoss s
  | .syncHoldoverExpiry => Sys2Proof.Machine.execSyncHoldoverExpiry s
  | .servoMapUpdate => Sys2Proof.Machine.execServoMapUpdate s
  | .taiMapSend e => Sys2Proof.Machine.execTaiMapSend e s
  | .taiMapApply d => Sys2Proof.Machine.execTaiMapApply d s
  | .hackStart => Sys2Proof.Machine.execHackStart s
  | .hackEnd => Sys2Proof.Machine.execHackEnd s
  | .cdcStale d kind blk inst => Sys2Proof.Machine.execCdcStale d kind blk inst s
  | .cdcStaleTurnExpiry d accepted => Sys2Proof.Machine.execCdcStaleTurnExpiry d accepted s
  | .ptrReq e r => Sys2Proof.Machine.execPtrReq e r s
  | .ptrResp e r => Sys2Proof.Machine.execPtrResp e r s
  | .pointerSet e => Sys2Proof.Machine.execPointerSet e s
  | .ptrHandshakeTimeout e => Sys2Proof.Machine.execPtrHandshakeTimeout e s
  | .fpResetReq e r => Sys2Proof.Machine.execFpResetReq e r s
  | .fpJointResetRelease f => Sys2Proof.Machine.execFpJointResetRelease f s
  | .resetRetry e => Sys2Proof.Machine.execResetRetry e s
  | .trainingTimeout e => Sys2Proof.Machine.execTrainingTimeout e s
  | .searchPointEnd e b bits eyes taps snr => Sys2Proof.Machine.execSearchPointEnd e b bits eyes taps snr s
  | .ckCountCheck e counts => Sys2Proof.Machine.execCkCountCheck e counts s
  | .lanetestEnd e bits => Sys2Proof.Machine.execLanetestEnd e bits s
  | .lanetestExit e => Sys2Proof.Machine.execLanetestExit e s
  | .lanemap e r => Sys2Proof.Machine.execLanemap e r s
  | .lanemapApply e => Sys2Proof.Machine.execLanemapApply e s
  | .frameMarker e unit seg => Sys2Proof.Machine.execFrameMarker e unit seg s
  | .sidebandContainer e r => Sys2Proof.Machine.execSidebandContainer e r s
  | .sidebandSlotTransmit e => Sys2Proof.Machine.execSidebandSlotTransmit e s
  | .sbAck e r => Sys2Proof.Machine.execSbAck e r s
  | .sbMessageRepeat e => Sys2Proof.Machine.execSbMessageRepeat e s
  | .sbAckTimeout e => Sys2Proof.Machine.execSbAckTimeout e s
  | .bundleRetire e r => Sys2Proof.Machine.execBundleRetire e r s
  | .bundleTxStop e b => Sys2Proof.Machine.execBundleTxStop e b s
  | .pinProbe e r => Sys2Proof.Machine.execPinProbe e r s
  | .pinEcho e r arrivals => Sys2Proof.Machine.execPinEcho e r arrivals s
  | .flitReceive e b lanes => Sys2Proof.Machine.execFlitReceive e b lanes s
  | .laneNoTransition e b lane ui => Sys2Proof.Machine.execLaneNoTransition e b lane ui s
  | .errWindowRoll e => Sys2Proof.Machine.execErrWindowRoll e s
  | .laneRepair e r => Sys2Proof.Machine.execLaneRepair e r s
  | .jewelStreamStart e b => Sys2Proof.Machine.execJewelStreamStart e b s
  | .laneRepairTakeover e b => Sys2Proof.Machine.execLaneRepairTakeover e b s
  | .laneRepairTxCutover e b => Sys2Proof.Machine.execLaneRepairTxCutover e b s
  | .jewelRecentre e b jewel delay thresh bits => Sys2Proof.Machine.execJewelRecentre e b jewel delay thresh bits s
  | .recalGo e => Sys2Proof.Machine.execRecalGo e s
  | .recalArm e r => Sys2Proof.Machine.execRecalArm e r s
  | .recalArmDeadline e => Sys2Proof.Machine.execRecalArmDeadline e s
  | .recalStart e => Sys2Proof.Machine.execRecalStart e s
  | .recalLanetestStart e => Sys2Proof.Machine.execRecalLanetestStart e s
  | .recalReturnMission e near far => Sys2Proof.Machine.execRecalReturnMission e near far s
  | .recalEnd e near far => Sys2Proof.Machine.execRecalEnd e near far s
  | .scNak e r => Sys2Proof.Machine.execScNak e r s
  | .slotTransmit e b => Sys2Proof.Machine.execSlotTransmit e b s
  | .scHoldExpiry e => Sys2Proof.Machine.execScHoldExpiry e s
  | .scResendDeadline e => Sys2Proof.Machine.execScResendDeadline e s
  | .scLostBundleReport e => Sys2Proof.Machine.execScLostBundleReport e s
  | .ucAck e r => Sys2Proof.Machine.execUcAck e r s
  | .credit e r => Sys2Proof.Machine.execCredit e r s
  | .ucReplayTimeout e b => Sys2Proof.Machine.execUcReplayTimeout e b s
  | .ucRequeue e => Sys2Proof.Machine.execUcRequeue e s
  | .variantSelect d => Sys2Proof.Machine.execVariantSelect d s
  | .lossNotice e payload => Sys2Proof.Machine.execLossNotice e payload s
  | .gtrTableWrite d w => Sys2Proof.Machine.execGtrTableWrite d w s
  | .gtrTableRead p d => Sys2Proof.Machine.execGtrTableRead p d s
  | .beaconBurst n => Sys2Proof.Machine.execBeaconBurst n s
  | .beaconBlock n block locked => Sys2Proof.Machine.execBeaconBlock n block locked s
  | .noPartnerSignal n => Sys2Proof.Machine.execNoPartnerSignal n s
  | .seekTimeout n => Sys2Proof.Machine.execSeekTimeout n s
  | .partnerSignalLost n => Sys2Proof.Machine.execPartnerSignalLost n s
  | .trayLossNotice e payload => Sys2Proof.Machine.execTrayLossNotice e payload s
  | .startWindowEnd c => Sys2Proof.Machine.execStartWindowEnd c s
  | .trayVariantSelect c => Sys2Proof.Machine.execTrayVariantSelect c s
  | .tryTableWrite c w => Sys2Proof.Machine.execTryTableWrite c w s
  | .tryTableRead p c => Sys2Proof.Machine.execTryTableRead p c s
  | .runSelect m e => Sys2Proof.Machine.execRunSelect m e s
  | .descriptorStart m e o => Sys2Proof.Machine.execDescriptorStart m e o s
  | .descriptorComplete m u => Sys2Proof.Machine.execDescriptorComplete m u s
  | .descriptorBoundExpiry m u => Sys2Proof.Machine.execDescriptorBoundExpiry m u s
  | .doorbellRing m w => Sys2Proof.Machine.execDoorbellRing m w s
  | .counterSignal m n value => Sys2Proof.Machine.execCounterSignal m n value s
  | .synCtrWrite m n w => Sys2Proof.Machine.execSynCtrWrite m n w s
  | .barrierArrival m ctx => Sys2Proof.Machine.execBarrierArrival m ctx s
  | .lockstepMismatch m => Sys2Proof.Machine.execLockstepMismatch m s
  | .write d cmd data bad dead => Sys2Proof.Machine.execWrite d cmd data bad dead s
  | .signal m cmd => Sys2Proof.Machine.execSignal m cmd s
  | .read d cmd bad corr => Sys2Proof.Machine.execRead d cmd bad corr s
  | .readData d cmd data => Sys2Proof.Machine.execReadData d cmd data s
  | .fenceProbe d cmd => Sys2Proof.Machine.execFenceProbe d cmd s
  | .fenceResp d cmd => Sys2Proof.Machine.execFenceResp d cmd s
  | .fenceProbeRetry d ctx => Sys2Proof.Machine.execFenceProbeRetry d ctx s
  | .pwFail d cmd full => Sys2Proof.Machine.execPwFail d cmd full s
  | .scrubPass m hbm bad corr => Sys2Proof.Machine.execScrubPass m hbm bad corr s
  | .bar2Write c x bytes => Sys2Proof.Machine.execBar2Write c x bytes s
  | .bar2Read c id x len => Sys2Proof.Machine.execBar2Read c id x len s
  | .bar2ReadAbort c id => Sys2Proof.Machine.execBar2ReadAbort c id s
  | .functionLevelReset c kind => Sys2Proof.Machine.execFunctionLevelReset c kind s
  | .hostReadCompletion c id status bytes => Sys2Proof.Machine.execHostReadCompletion c id status bytes s
  | .hostReadTimeout c id => Sys2Proof.Machine.execHostReadTimeout c id s
  | .msixMessage c v => Sys2Proof.Machine.execMsixMessage c v s
  | .ethFrameReceive c p frame => Sys2Proof.Machine.execEthFrameReceive c p frame s
  | .ptpSyncTimeout => Sys2Proof.Machine.execPtpSyncTimeout s
  | .leapSecond => Sys2Proof.Machine.execLeapSecond s
  | .outputGuardStart o => Sys2Proof.Machine.execOutputGuardStart o s
  | .resultOutput o => Sys2Proof.Machine.execResultOutput o s
  | .ethTableRead p c => Sys2Proof.Machine.execEthTableRead p c s
  | .snapshotLimitClose c g => Sys2Proof.Machine.execSnapshotLimitClose c g s
  | .snapshotSelect c g => Sys2Proof.Machine.execSnapshotSelect c g s
  | .snapshotRelease c g => Sys2Proof.Machine.execSnapshotRelease c g s
  | .residualBatchStart c g => Sys2Proof.Machine.execResidualBatchStart c g s
  | .calibBatchApply c g => Sys2Proof.Machine.execCalibBatchApply c g s
  | .modeSetProcess c => Sys2Proof.Machine.execModeSetProcess c s
  | .trackTablePublish c => Sys2Proof.Machine.execTrackTablePublish c s
  | .fusTableWrite c w => Sys2Proof.Machine.execFusTableWrite c w s
  | .fusTableRead p c => Sys2Proof.Machine.execFusTableRead p c s
  | .tariffChangeEffect => Sys2Proof.Machine.execTariffChangeEffect s
  | .intervalClose => Sys2Proof.Machine.execIntervalClose s
  | .setpointSetProcess => Sys2Proof.Machine.execSetpointSetProcess s
  | .setpointSetEffective => Sys2Proof.Machine.execSetpointSetEffective s
  | .ledgerOpen => Sys2Proof.Machine.execLedgerOpen s
  | .intervalCommit bad => Sys2Proof.Machine.execIntervalCommit bad s
  | .intervalCommitDone bad => Sys2Proof.Machine.execIntervalCommitDone bad s
  | .tableImageWrite bad => Sys2Proof.Machine.execTableImageWrite bad s
  | .ledgerOutputCopy => Sys2Proof.Machine.execLedgerOutputCopy s
  | .ldgTableWrite w => Sys2Proof.Machine.execLdgTableWrite w s
  | .ldgTableRead p => Sys2Proof.Machine.execLdgTableRead p s
  | .ldgFramReadStart w => Sys2Proof.Machine.execLdgFramReadStart w s
  | .ldgFramReadDone => Sys2Proof.Machine.execLdgFramReadDone s
  | .budgetWrite w => Sys2Proof.Machine.execBudgetWrite w s
  | .budgetReport d meas => Sys2Proof.Machine.execBudgetReport d meas s
  | .grantAllocation => Sys2Proof.Machine.execGrantAllocation s
  | .budgetGrant e r => Sys2Proof.Machine.execBudgetGrant e r s
  | .allowanceTake d => Sys2Proof.Machine.execAllowanceTake d s
  | .tokenGrant d => Sys2Proof.Machine.execTokenGrant d s
  | .admissionWaitTimeout d => Sys2Proof.Machine.execAdmissionWaitTimeout d s
  | .thermalSample d tj h0 h1 => Sys2Proof.Machine.execThermalSample d tj h0 h1 s
  | .thermalShutdown => Sys2Proof.Machine.execThermalShutdown s
  | .powerFail cause => Sys2Proof.Machine.execPowerFail cause s
  | .powerFailDomainsOff => Sys2Proof.Machine.execPowerFailDomainsOff s
  | .ledgerHaltedCrfOff => Sys2Proof.Machine.execLedgerHaltedCrfOff s
  | .powerReturn => Sys2Proof.Machine.execPowerReturn s
  | .railSample mv => Sys2Proof.Machine.execRailSample mv s
  | .armGo w => Sys2Proof.Machine.execArmGo w s
  | .armDiscard w => Sys2Proof.Machine.execArmDiscard w s
  | .arm e r => Sys2Proof.Machine.execArm e r s
  | .confirm e r => Sys2Proof.Machine.execConfirm e r s
  | .packageConfirm => Sys2Proof.Machine.execPackageConfirm s
  | .armDecision => Sys2Proof.Machine.execArmDecision s
  | .commit e r => Sys2Proof.Machine.execCommit e r s
  | .abort e r => Sys2Proof.Machine.execAbort e r s
  | .changeSetApply => Sys2Proof.Machine.execChangeSetApply s
  | .heartbeatSend m => Sys2Proof.Machine.execHeartbeatSend m s
  | .heartbeatCheck m => Sys2Proof.Machine.execHeartbeatCheck m s
  | .heartbeatStateSend m => Sys2Proof.Machine.execHeartbeatStateSend m s
  | .faultGranuleWrite m => Sys2Proof.Machine.execFaultGranuleWrite m s
  | .watchdogKick c => Sys2Proof.Machine.execWatchdogKick c s
  | .watchdogExpiry c => Sys2Proof.Machine.execWatchdogExpiry c s
  | .contextRelease w => Sys2Proof.Machine.execContextRelease w s
  | .engineHangDetect m u => Sys2Proof.Machine.execEngineHangDetect m u s
  | .recoveryFenceEnd k => Sys2Proof.Machine.execRecoveryFenceEnd k s
  | .crashDumpDone m => Sys2Proof.Machine.execCrashDumpDone m s
  | .chipReset => Sys2Proof.Machine.execChipReset s
  | .recoveryBoundExpiry k => Sys2Proof.Machine.execRecoveryBoundExpiry k s
  | .replayStart m => Sys2Proof.Machine.execReplayStart m s
  | .replaySuspectEnd m => Sys2Proof.Machine.execReplaySuspectEnd m s
  | .domainRejoin m => Sys2Proof.Machine.execDomainRejoin m s
  | .packageHeartbeat n r => Sys2Proof.Machine.execPackageHeartbeat n r s
  | .trayOrder n r => Sys2Proof.Machine.execTrayOrder n r s
  | .trayStop => Sys2Proof.Machine.execTrayStop s
  | .oosClear => Sys2Proof.Machine.execOosClear s
  | .forceEngineReset die eng => Sys2Proof.Machine.execForceEngineReset die eng s
  | .forcePartitionReset die => Sys2Proof.Machine.execForcePartitionReset die s
  | .forceChipReset die => Sys2Proof.Machine.execForceChipReset die s
  | .smbusWrite a w pec => Sys2Proof.Machine.execSmbusWrite a w pec s
  | .smbusSetPointer a pec => Sys2Proof.Machine.execSmbusSetPointer a pec s
  | .smbusRead => Sys2Proof.Machine.execSmbusRead s
  | .pwrFailRelease variant pkg refSel => Sys2Proof.Machine.execPwrFailRelease variant pkg refSel s
  | .msRead c a => Sys2Proof.Machine.execMsRead c a s
  | .configurationRequest c q => Sys2Proof.Machine.execConfigurationRequest c q s
  | .privateInstruction op tdi => Sys2Proof.Machine.execPrivateInstruction op tdi s
  | .abortedArmRearm => Sys2Proof.Machine.execAbortedArmRearm s

end Sys2Proof.Machine
end

