-- ==== Sys2Proof/Machine/Frame.lean ====
section
/-! DEFINITION. The frames: for every command the parts of the state that it may change, as the rules it follows name
them. What a command is not listed with, it leaves as it was; a table row says so of every state and operand. -/

namespace Sys2Proof.Machine

/-- The parts of the state that commands change: every field of `State` but the queue and the model's clock; of the registers,
one register field of one kind of block, on every die, of every instance and array element, is a part. -/
inductive Field where
  | reg (tag : Nat)
  | free | resv | shadow | inForce | dies | links | tables | mem | poison | ctxs | dieIds | cr1Root | trayFuse |
  fpLines | seeds | pins | hack | sync | rdData | beatHi | topo | routes | reserve | grants | reports | rcv | engs |
  queues | streams | opTable | opDefs | heads | issued | accepted | failed | seenIssued | seenFailed | nextTag |
  hostEpoch | fences | rdReqs | hosts | ptp | fus | ldg | fram | boot | chg | tshadow | recals | landed | recov
  deriving DecidableEq, Repr

/-- A register field as a part. -/
def Field.ofReg (b : Blk) (f : Fld) : Field := .reg (regTag b f)

/-- A part is the same in two states. -/
def Field.same (x : Field) (s t : State) : Prop :=
  match x with
  | .reg n => ∀ d b i f k, regTag b f = n → t.getF d b i f k = s.getF d b i f k
  | .free => t.free = s.free | .resv => t.resv = s.resv
  | .shadow => t.shadow = s.shadow | .inForce => t.inForce = s.inForce
  | .dies => t.dies = s.dies | .links => t.links = s.links
  | .tables => t.tables = s.tables | .mem => t.mem = s.mem
  | .poison => t.poison = s.poison | .ctxs => t.ctxs = s.ctxs
  | .dieIds => t.dieIds = s.dieIds | .cr1Root => t.cr1Root = s.cr1Root
  | .trayFuse => t.trayFuse = s.trayFuse | .fpLines => t.fpLines = s.fpLines
  | .seeds => t.seeds = s.seeds | .pins => t.pins = s.pins
  | .hack => t.hack = s.hack | .sync => t.sync = s.sync
  | .rdData => t.rdData = s.rdData | .beatHi => t.beatHi = s.beatHi
  | .topo => t.topo = s.topo | .routes => t.routes = s.routes
  | .reserve => t.reserve = s.reserve | .grants => t.grants = s.grants
  | .reports => t.reports = s.reports | .rcv => t.rcv = s.rcv
  | .engs => t.engs = s.engs | .queues => t.queues = s.queues
  | .streams => t.streams = s.streams | .opTable => t.opTable = s.opTable
  | .opDefs => t.opDefs = s.opDefs | .heads => t.heads = s.heads
  | .issued => t.issued = s.issued | .accepted => t.accepted = s.accepted
  | .failed => t.failed = s.failed | .seenIssued => t.seenIssued = s.seenIssued
  | .seenFailed => t.seenFailed = s.seenFailed | .nextTag => t.nextTag = s.nextTag
  | .hostEpoch => t.hostEpoch = s.hostEpoch | .fences => t.fences = s.fences
  | .rdReqs => t.rdReqs = s.rdReqs | .hosts => t.hosts = s.hosts
  | .ptp => t.ptp = s.ptp | .fus => t.fus = s.fus
  | .ldg => t.ldg = s.ldg | .fram => t.fram = s.fram
  | .boot => t.boot = s.boot | .chg => t.chg = s.chg
  | .tshadow => t.tshadow = s.tshadow | .recals => t.recals = s.recals
  | .landed => t.landed = s.landed | .recov => t.recov = s.recov

/-- The event registers that a raised vector is shown in (R271, R284, R285). -/
def evtRegs : List Field :=
  [.ofReg .pci Reg.PCI_EVT_CAUSE, .ofReg .pci Reg.PCI_EVT_RING, .ofReg .pci Reg.PCI_EVT_CTX_CTX]

/-- The last reason and the count of refusals (R418, R419). -/
def refusalRegs : List Field :=
  [.ofReg .cfg Reg.CFG_LAST_REASON_REASON, .ofReg .cfg Reg.CFG_LAST_REASON_DIE,
   .ofReg .cfg Reg.CFG_LAST_REASON_BLOCK, .ofReg .cfg Reg.CFG_LAST_REASON_INSTANCE,
   .ofReg .cfg Reg.CFG_REFUSALS_COUNT]

/-- The receive side's lane maps and bad masks. -/
def laneMapRegs : List Field :=
  [.ofReg .ikl Reg.IKL_LANEMAP_J0_TGT, .ofReg .ikl Reg.IKL_LANEMAP_J0_BAD, .ofReg .ikl Reg.IKL_LANEMAP_J1_TGT,
   .ofReg .ikl Reg.IKL_LANEMAP_J1_BAD, .ofReg .ikl Reg.IKL_LANEMAP_RETIRED, .ofReg .ikl Reg.IKL_BADMASK_BAD,
   .ofReg .ikl Reg.IKL_BPHY_RETIRED, .ofReg .trayPort Reg.TRYP_LANEMAP_SPARE_TGT,
   .ofReg .trayPort Reg.TRYP_LANEMAP_SPARE_BAD, .ofReg .trayPort Reg.TRYP_LANEMAP_RETIRED]

/-- The transmit side's lane maps. -/
def laneMapTxRegs : List Field :=
  [.ofReg .ikl Reg.IKL_LANEMAP_TX_J0_TGT, .ofReg .ikl Reg.IKL_LANEMAP_TX_J0_BAD,
   .ofReg .ikl Reg.IKL_LANEMAP_TX_J1_TGT, .ofReg .ikl Reg.IKL_LANEMAP_TX_J1_BAD,
   .ofReg .ikl Reg.IKL_LANEMAP_TX_RETIRED, .ofReg .trayPort Reg.TRYP_LANEMAP_TX_SPARE_TGT,
   .ofReg .trayPort Reg.TRYP_LANEMAP_TX_SPARE_BAD, .ofReg .trayPort Reg.TRYP_LANEMAP_TX_RETIRED]

/-- A link's training state and what it shows with it. -/
def trainRegs : List Field :=
  [.ofReg .ikl Reg.IKL_LL_STATUS_STATE, .ofReg .ikl Reg.IKL_PHY_STATUS_MODCLK_OK,
   .ofReg .ikl Reg.IKL_PHY_STATUS_SB_UP, .ofReg .trayPort Reg.TRYP_LL_STATUS_STATE]

/-- The last recovery. -/
def lastRegs : List Field :=
  [.ofReg .rcv Reg.RCV_LAST_LAST_RC, .ofReg .rcv Reg.RCV_LAST_LAST_DIE, .ofReg .rcv Reg.RCV_LAST_LAST_CAUSE,
   .ofReg .rcv Reg.RCV_LAST_BEAT_LO_BEAT, .ofReg .rcv Reg.RCV_LAST_BEAT_HI_BEAT]

/-- The recovery history. -/
def histRegs : List Field :=
  [.ofReg .rcv Reg.RCV_HIST_LO_BEAT, .ofReg .rcv Reg.RCV_HIST_HI_BEAT]

/-- The first failed write and the count of folded failures. -/
def firstFailRegs : List Field :=
  [.ofReg .mem Reg.MEM_FIRST_PA_LO_ADDR, .ofReg .mem Reg.MEM_FIRST_PA_HI_ADDR, .ofReg .mem Reg.MEM_FIRST_TAG_TAG,
   .ofReg .mem Reg.MEM_FIRST_TAG_CAUSE, .ofReg .mem Reg.MEM_FIRST_TAG_VALID, .ofReg .mem Reg.MEM_PWSTAT_FOLDED]

/-- A context's fault. -/
def ctxFaultRegs : List Field :=
  [.ofReg .eng Reg.ENG_CTX_FAULT_CAUSE, .ofReg .eng Reg.ENG_CTX_FAULT_ENGINE, .ofReg .eng Reg.ENG_CTX_FAULT_RC,
   .ofReg .eng Reg.ENG_STATUS_FAULT]

/-- What sequencers and movers are working on. -/
def unitBusyRegs : List Field :=
  [.ofReg .dma Reg.DMA_M_BUSY, .ofReg .dma Reg.DMA_M_CTX, .ofReg .seq Reg.SEQ_QOCC_OCC,
   .ofReg .seq Reg.SEQ_Q_BUSY, .ofReg .seq Reg.SEQ_Q_CTX]

/-- An Ethernet port's link. -/
def ethLinkRegs : List Field :=
  [.ofReg .ethPort Reg.ETHP_STATUS_AN_DONE, .ofReg .ethPort Reg.ETHP_STATUS_FEC_LOCK,
   .ofReg .ethPort Reg.ETHP_STATUS_LINK]

/-- The last uncorrectable error. -/
def lastUeRegs : List Field :=
  [.ofReg .mem Reg.MEM_LAST_UE_LO_PA, .ofReg .mem Reg.MEM_LAST_UE_HI_PA]

/-- Whether the unscheduled channels of a link are quiesced. -/
def quiesceRegs : List Field :=
  [.ofReg .ikl Reg.IKL_LL_STATUS_UC_QUIESCE, .ofReg .trayPort Reg.TRYP_LL_STATUS_UC_QUIESCE]

/-- A link's training attempts and backoff. -/
def attemptRegs : List Field :=
  [.ofReg .ikl Reg.IKL_LL_STATUS_ATTEMPTS, .ofReg .trayPort Reg.TRYP_RETRY_BACKOFF]

/-- The turn at which a variant takes effect. -/
def switchRegs : List Field :=
  [.ofReg .gtr Reg.GTR_SWITCH_LO_TURN, .ofReg .gtr Reg.GTR_SWITCH_HI_TURN]

/-- Equaliser taps. -/
def coefRegs : List Field :=
  [.ofReg .ikl Reg.IKL_COEF_CTLE, .ofReg .ikl Reg.IKL_COEF_DFE1, .ofReg .ikl Reg.IKL_COEF_DFE2]

/-- The TAI map. -/
def anchorRegs : List Field :=
  [.ofReg .bal Reg.BAL_ANCHOR_BEAT_LO, .ofReg .bal Reg.BAL_ANCHOR_BEAT_HI, .ofReg .bal Reg.BAL_ANCHOR_TAI_LO,
   .ofReg .bal Reg.BAL_ANCHOR_TAI_HI, .ofReg .bal Reg.BAL_RATE]

/-- Errors of the unscheduled channels. -/
def ucErrRegs : List Field :=
  [.ofReg .ikl Reg.IKL_UC_ERR_REPLAY, .ofReg .ikl Reg.IKL_UC_ERR_TIMEOUT, .ofReg .ikl Reg.IKL_UC_ERR_LIMIT,
   .ofReg .trayPort Reg.TRYP_UC_ERR_REPLAY, .ofReg .trayPort Reg.TRYP_UC_ERR_TIMEOUT,
   .ofReg .trayPort Reg.TRYP_UC_ERR_LIMIT]

/-- Whether a part is a register field. -/
def Field.isReg : Field → Bool
  | .reg _ => true
  | _ => false

/-- The parts that a command may change; with `anyReg` every register field besides: the command resets a domain or writes
the registers that its operands name. -/
structure Touch where
  parts : List Field
  anyReg : Bool

/-- Whether a part is one of them. -/
def Touch.has (t : Touch) (x : Field) : Bool := decide (x ∈ t.parts) || (t.anyReg && x.isReg)

/-- The parts that each command may change. -/
def touched : Instr → Touch
  | .powerOnReset .. =>
    ⟨[.free, .resv, .shadow, .inForce, .dies, .links, .tables, .mem, .poison, .ctxs, .fpLines, .seeds, .pins,
      .hack, .sync, .rdData, .beatHi, .topo, .routes, .reserve, .grants, .reports, .rcv, .engs, .queues, .streams,
      .heads, .issued, .accepted, .failed, .seenIssued, .seenFailed, .nextTag, .hostEpoch, .fences, .rdReqs,
      .hosts, .ptp, .fus, .ldg, .boot, .chg, .tshadow, .recals, .landed, .recov], true⟩
  | .monitorGood .. | .referenceDetect | .referenceTimeout | .pllLock .. | .pllLockTimeout .. | .flashDiscover ..
  | .domainSwitchRequest .. | .thermalSample .. | .thermalShutdown | .powerFailDomainsOff | .ledgerHaltedCrfOff
  | .pwrFailRelease .. =>
    ⟨[.resv, .shadow, .inForce, .dies, .links, .tables, .mem, .poison, .ctxs, .engs, .queues, .streams, .issued,
      .accepted, .failed, .seenIssued, .seenFailed, .nextTag, .fences, .rdReqs, .hosts, .ptp, .fus, .ldg, .boot,
      .tshadow, .landed, .recov], true⟩
  | .monitorNotGood .. => ⟨[.boot, .ofReg .boot Reg.BOOT_MON_GOOD, .ofReg .boot Reg.BOOT_MON_HU_LOW], false⟩
  | .monitorBandTimeout .. => ⟨evtRegs ++ [.dies, .ofReg .boot Reg.BOOT_MON_BAND], false⟩
  | .flashPass .. =>
    ⟨[.free, .resv, .shadow, .inForce, .dies, .links, .tables, .mem, .poison, .ctxs, .fpLines, .seeds, .pins,
      .topo, .rcv, .engs, .queues, .streams, .issued, .accepted, .failed, .seenIssued, .seenFailed, .nextTag,
      .fences, .rdReqs, .hosts, .ptp, .fus, .ldg, .fram, .boot, .tshadow, .landed, .recov], true⟩
  | .flashPassResume .. =>
    ⟨evtRegs ++ [.dies, .mem, .pins, .boot, .ofReg .boot Reg.BOOT_STATUS_FLASH_DONE,
      .ofReg .boot Reg.BOOT_STATUS_PHASE, .ofReg .boot Reg.BOOT_STEP], false⟩
  | .domainOn .. =>
    ⟨[.free, .resv, .shadow, .inForce, .dies, .links, .tables, .fpLines, .pins, .rcv, .hosts, .fus, .ldg, .fram,
      .boot, .tshadow, .recov], true⟩
  | .perstDeassert .. =>
    ⟨[.hosts, .ofReg .pci Reg.PCI_STATUS_LINK_UP, .ofReg .pci Reg.PCI_STATUS_SPEED,
      .ofReg .pci Reg.PCI_STATUS_WIDTH], false⟩
  | .hbmTrainingDone .. =>
    ⟨[.free, .resv, .shadow, .inForce, .dies, .links, .tables, .mem, .poison, .ctxs, .fpLines, .pins, .rcv, .engs,
      .queues, .streams, .issued, .accepted, .failed, .seenIssued, .seenFailed, .nextTag, .fences, .rdReqs,
      .hosts, .ptp, .fus, .ldg, .fram, .boot, .tshadow, .landed, .recov], true⟩
  | .imageLoad .. =>
    ⟨[.free, .dies, .links, .tables, .ctxs, .fpLines, .pins, .routes, .reserve, .rcv, .engs, .queues, .streams,
      .hosts, .fus, .ldg, .fram, .boot, .chg, .recov], true⟩
  | .imageLoadHost =>
    ⟨evtRegs ++ refusalRegs ++ [.dies, .boot, .ofReg .boot Reg.BOOT_STATUS_PHASE,
      .ofReg .boot Reg.BOOT_STATUS_REASON, .ofReg .boot Reg.BOOT_STATUS_REFUSED], false⟩
  | .imageUnload =>
    ⟨evtRegs ++ refusalRegs ++ [.dies, .boot, .ofReg .boot Reg.BOOT_STATUS_REASON,
      .ofReg .boot Reg.BOOT_STATUS_REFUSED], false⟩
  | .imageStop =>
    ⟨evtRegs ++ laneMapRegs ++ laneMapTxRegs ++ trainRegs ++ ethLinkRegs ++ [.inForce, .dies, .links, .ctxs,
      .fpLines, .routes, .reserve, .engs, .queues, .streams, .ldg, .boot, .recov,
      .ofReg .bal Reg.BAL_HACK_HACK_MAX, .ofReg .bal Reg.BAL_HACK_WIN_START, .ofReg .bal Reg.BAL_REF_HOPS,
      .ofReg .bal Reg.BAL_STATUS_IS_MASTER, .ofReg .boot Reg.BOOT_STATUS_PHASE, .ofReg .dma Reg.DMA_CTL_ENABLE,
      .ofReg .eng Reg.ENG_CTL_ENABLE, .ofReg .eng Reg.ENG_CTX_STATE_ENGMASK, .ofReg .eng Reg.ENG_CTX_STATE_KIND,
      .ofReg .eng Reg.ENG_CTX_STATE_STATE, .ofReg .gtr Reg.GTR_CTL_ENABLE, .ofReg .ldg Reg.LDG_STATUS_HOLDOVER,
      .ofReg .ldg Reg.LDG_STATUS_STATE, .ofReg .pwr Reg.PWR_RESERVE, .ofReg .pwr Reg.PWR_RESERVE_FLOORS,
      .ofReg .rcv Reg.RCV_CULPRIT, .ofReg .rcv Reg.RCV_FAULTED, .ofReg .rcv Reg.RCV_HELD,
      .ofReg .seq Reg.SEQ_CTL_ENABLE, .ofReg .syn Reg.SYN_CTL_ENABLE], false⟩
  | .loadReport .. | .abortedArmRearm =>
    ⟨[.free, .links, .boot, .chg, .ofReg .cfg Reg.CFG_ARM_STATE, .ofReg .cfg Reg.CFG_ARM_STATUS_CLASS,
      .ofReg .cfg Reg.CFG_ARM_STATUS_CONFIRMED, .ofReg .cfg Reg.CFG_ARM_TRAY_PKG_NEEDED,
      .ofReg .cfg Reg.CFG_ARM_TRAY_PKG_OK, .ofReg .cfg Reg.CFG_SHADOW_FROZEN, .ofReg .fus Reg.FUS_STATUS_REASON,
      .ofReg .fus Reg.FUS_STATUS_REFUSED, .ofReg .gtr Reg.GTR_STATUS_REASON, .ofReg .gtr Reg.GTR_STATUS_REFUSED,
      .ofReg .ldg Reg.LDG_STATUS_REASON, .ofReg .ldg Reg.LDG_STATUS_REFUSED], false⟩
  | .imageActivate =>
    ⟨evtRegs ++ refusalRegs ++ laneMapRegs ++ laneMapTxRegs ++ trainRegs ++ lastRegs ++ histRegs ++ ethLinkRegs ++
      attemptRegs ++ switchRegs ++ [.free, .dies, .links, .tables, .fpLines, .pins, .rcv, .hosts, .ldg, .fram,
      .boot, .recov, .ofReg .bal Reg.BAL_REF_HOPS, .ofReg .bal Reg.BAL_STATUS_IS_MASTER,
      .ofReg .boot Reg.BOOT_STATUS_PHASE, .ofReg .boot Reg.BOOT_STEP, .ofReg .dma Reg.DMA_CTL_ENABLE,
      .ofReg .dma Reg.DMA_STATUS_REASON, .ofReg .dma Reg.DMA_STATUS_REFUSED, .ofReg .eng Reg.ENG_CTL_ENABLE,
      .ofReg .eng Reg.ENG_CTX_STATE_STATE, .ofReg .eng Reg.ENG_STATUS_REASON, .ofReg .eng Reg.ENG_STATUS_REFUSED,
      .ofReg .fus Reg.FUS_BUF_USED, .ofReg .gtr Reg.GTR_CTL_ENABLE, .ofReg .gtr Reg.GTR_STATUS_LATE,
      .ofReg .gtr Reg.GTR_STATUS_NOFIT, .ofReg .gtr Reg.GTR_STATUS_REASON, .ofReg .gtr Reg.GTR_STATUS_REFUSED,
      .ofReg .gtr Reg.GTR_STATUS_VARIANT, .ofReg .ldg Reg.LDG_SEQ, .ofReg .ldg Reg.LDG_STATUS_STATE,
      .ofReg .ldg Reg.LDG_STATUS_TORN, .ofReg .mem Reg.MEM_STATUS_MODE_EFF, .ofReg .ptp Reg.PTP_UTC_IN_USE,
      .ofReg .pwr Reg.PWR_RESERVE, .ofReg .pwr Reg.PWR_RESERVE_FLOORS, .ofReg .rcv Reg.RCV_STATUS_LEVEL,
      .ofReg .rcv Reg.RCV_STATUS_PWRCYC, .ofReg .seq Reg.SEQ_CTL_ENABLE, .ofReg .seq Reg.SEQ_STATUS_REASON,
      .ofReg .seq Reg.SEQ_STATUS_REFUSED, .ofReg .syn Reg.SYN_CTL_ENABLE, .ofReg .syn Reg.SYN_STATUS_REASON,
      .ofReg .syn Reg.SYN_STATUS_REFUSED, .ofReg .tray Reg.TRY_STATUS_TVARIANT,
      .ofReg .tray Reg.TRY_STATUS_WIN_DONE, .ofReg .trayPort Reg.TRYP_RETRY_LAST_RC], false⟩
  | .restart =>
    ⟨[.resv, .shadow, .inForce, .dies, .links, .tables, .mem, .poison, .ctxs, .seeds, .topo, .engs, .queues,
      .streams, .issued, .accepted, .failed, .seenIssued, .seenFailed, .nextTag, .fences, .rdReqs, .hosts, .ptp,
      .fus, .ldg, .boot, .tshadow, .landed, .recov], true⟩
  | .rollbackCommit .. =>
    ⟨evtRegs ++ refusalRegs ++ [.dies, .boot, .ofReg .sec Reg.SEC_RB_COMMIT_BUSY,
      .ofReg .sec Reg.SEC_RB_COMMIT_CTR, .ofReg .sec Reg.SEC_RB_COMMIT_VALUE], false⟩
  | .rollbackCommitDone => ⟨[.boot, .ofReg .sec Reg.SEC_MIN, .ofReg .sec Reg.SEC_RB_COMMIT_BUSY], false⟩
  | .flashRead | .flashProgram | .flashErase | .flashStatus =>
    ⟨evtRegs ++ refusalRegs ++ [.dies, .boot, .ofReg .boot Reg.BOOT_FL_CMD_BUSY, .ofReg .boot Reg.BOOT_FL_CMD_CMD,
      .ofReg .boot Reg.BOOT_FL_CMD_ERR, .ofReg .boot Reg.BOOT_STATUS_REASON,
      .ofReg .boot Reg.BOOT_STATUS_REFUSED], false⟩
  | .flashCommandDone .. =>
    ⟨[.boot, .ofReg .boot Reg.BOOT_FL_CMD_BUSY, .ofReg .boot Reg.BOOT_FL_CMD_ERR,
      .ofReg .boot Reg.BOOT_FL_DATA_DATA], false⟩
  | .debugTokenSubmit | .jtagUnlock .. =>
    ⟨evtRegs ++ refusalRegs ++ [.free, .dies, .boot, .ofReg .sec Reg.SEC_DBG_LEFT_LEFT,
      .ofReg .sec Reg.SEC_DBG_NONCE, .ofReg .sec Reg.SEC_DBG_SCOPE], false⟩
  | .debugLock => ⟨[.ofReg .sec Reg.SEC_DBG_SCOPE], false⟩
  | .debugLifetimeExpiry => ⟨[.boot, .ofReg .sec Reg.SEC_DBG_LEFT_LEFT, .ofReg .sec Reg.SEC_DBG_SCOPE], false⟩
  | .bypass .. | .idcode .. | .clamp .. | .highz .. | .smbusSetPointer .. => ⟨[.boot], false⟩
  | .samplePreload .. | .extest .. => ⟨[.free, .boot], false⟩
  | .msBadAccess .. => ⟨[.rdData, .ofReg .pci Reg.PCI_STATUS_MS_BAD_ACCESS], false⟩
  | .registerWrite .. =>
    ⟨[.free, .resv, .shadow, .inForce, .dies, .links, .tables, .mem, .poison, .ctxs, .fpLines, .seeds, .pins,
      .rdData, .topo, .rcv, .engs, .queues, .streams, .issued, .accepted, .failed, .seenIssued, .seenFailed,
      .nextTag, .fences, .rdReqs, .hosts, .ptp, .fus, .ldg, .fram, .boot, .chg, .tshadow, .recals, .landed,
      .recov], true⟩
  | .beatLoRead .. => ⟨[.rdData, .beatHi, .ofReg .pci Reg.PCI_ERR_MS_UNREACH], false⟩
  | .functionEnable _ fn _ _ =>
    ⟨evtRegs ++ refusalRegs ++ laneMapRegs ++ laneMapTxRegs ++ trainRegs ++ lastRegs ++ histRegs ++ ethLinkRegs ++
      attemptRegs ++ switchRegs ++ [.free, .dies, .links, .tables, .fpLines, .pins, .rcv, .hosts, .ldg, .fram,
      .boot, .recov, .ofReg (fnRegs fn).blk (fnRegs fn).enable, .ofReg (fnRegs fn).blk (fnRegs fn).reason,
      .ofReg (fnRegs fn).blk (fnRegs fn).refused, .ofReg .bal Reg.BAL_REF_HOPS,
      .ofReg .bal Reg.BAL_STATUS_IS_MASTER, .ofReg .boot Reg.BOOT_STATUS_PHASE, .ofReg .fus Reg.FUS_BUF_USED,
      .ofReg .gtr Reg.GTR_STATUS_LATE, .ofReg .gtr Reg.GTR_STATUS_NOFIT, .ofReg .gtr Reg.GTR_STATUS_VARIANT,
      .ofReg .ldg Reg.LDG_SEQ, .ofReg .ldg Reg.LDG_STATUS_STATE, .ofReg .ldg Reg.LDG_STATUS_TORN,
      .ofReg .mem Reg.MEM_STATUS_MODE_EFF, .ofReg .ptp Reg.PTP_UTC_IN_USE, .ofReg .pwr Reg.PWR_RESERVE,
      .ofReg .pwr Reg.PWR_RESERVE_FLOORS, .ofReg .rcv Reg.RCV_STATUS_LEVEL, .ofReg .tray Reg.TRY_STATUS_TVARIANT,
      .ofReg .tray Reg.TRY_STATUS_WIN_DONE, .ofReg .trayPort Reg.TRYP_RETRY_LAST_RC], false⟩
  | .functionDisable _ fn _ =>
    ⟨evtRegs ++ refusalRegs ++ laneMapRegs ++ laneMapTxRegs ++ trainRegs ++ ethLinkRegs ++ [.inForce, .dies,
      .links, .fpLines, .ldg, .ofReg (fnRegs fn).blk (fnRegs fn).enable,
      .ofReg (fnRegs fn).blk (fnRegs fn).reason, .ofReg (fnRegs fn).blk (fnRegs fn).refused,
      .ofReg .bal Reg.BAL_REF_HOPS, .ofReg .bal Reg.BAL_STATUS_IS_MASTER, .ofReg .ldg Reg.LDG_STATUS_HOLDOVER,
      .ofReg .ldg Reg.LDG_STATUS_STATE], false⟩
  | .beatLoadSend .. | .beatSyncAttempt .. | .taiMapSend .. | .sidebandSlotTransmit .. | .jewelStreamStart ..
  | .scHoldExpiry .. | .beaconBurst .. | .fenceProbe .. =>
    ⟨[.links], false⟩
  | .beatLoad .. =>
    ⟨evtRegs ++ laneMapRegs ++ laneMapTxRegs ++ trainRegs ++ quiesceRegs ++ [.dies, .links, .boot,
      .ofReg .bal Reg.BAL_LOADS, .ofReg .bal Reg.BAL_LOAD_DELTA_HI_DELTA, .ofReg .bal Reg.BAL_LOAD_DELTA_LO_DELTA,
      .ofReg .bal Reg.BAL_STATUS_BEAT_VALID, .ofReg .boot Reg.BOOT_STATUS_PHASE, .ofReg .boot Reg.BOOT_STEP,
      .ofReg .gtr Reg.GTR_STATUS_LATE, .ofReg .ikl Reg.IKL_BPHY_LEAD, .ofReg .ikl Reg.IKL_EYE_WIN_ERR,
      .ofReg .ikl Reg.IKL_LL_ERR_BAD_MTYPE, .ofReg .ikl Reg.IKL_PHY_STATUS_LEAD,
      .ofReg .ikl Reg.IKL_SB_ERR_CRC_ERR, .ofReg .trayPort Reg.TRYP_EYE_WIN_ERR,
      .ofReg .trayPort Reg.TRYP_FEC_CORR_CW, .ofReg .trayPort Reg.TRYP_FEC_UNCORR_CW,
      .ofReg .trayPort Reg.TRYP_LL_ERR_BAD_MTYPE], false⟩
  | .beatSyncReq .. | .ptrReq .. | .ptrResp .. | .lanemap .. | .sbAck .. | .bundleRetire .. | .pinProbe ..
  | .laneRepair .. | .recalArm .. | .scNak .. | .credit .. =>
    ⟨evtRegs ++ laneMapRegs ++ laneMapTxRegs ++ trainRegs ++ quiesceRegs ++ [.dies, .links,
      .ofReg .gtr Reg.GTR_STATUS_LATE, .ofReg .ikl Reg.IKL_BPHY_LEAD, .ofReg .ikl Reg.IKL_EYE_WIN_ERR,
      .ofReg .ikl Reg.IKL_LL_ERR_BAD_MTYPE, .ofReg .ikl Reg.IKL_PHY_STATUS_LEAD,
      .ofReg .ikl Reg.IKL_SB_ERR_CRC_ERR, .ofReg .trayPort Reg.TRYP_EYE_WIN_ERR,
      .ofReg .trayPort Reg.TRYP_FEC_CORR_CW, .ofReg .trayPort Reg.TRYP_FEC_UNCORR_CW,
      .ofReg .trayPort Reg.TRYP_LL_ERR_BAD_MTYPE], false⟩
  | .beatSyncResp .. =>
    ⟨evtRegs ++ laneMapRegs ++ laneMapTxRegs ++ trainRegs ++ lastRegs ++ histRegs ++ quiesceRegs ++ [.dies,
      .links, .rcv, .recov, .ofReg .bal Reg.BAL_REF_PHASE_ERR, .ofReg .bal Reg.BAL_STATUS_SYNC_LOST,
      .ofReg .gtr Reg.GTR_STATUS_LATE, .ofReg .ikl Reg.IKL_BPHY_LEAD, .ofReg .ikl Reg.IKL_EYE_WIN_ERR,
      .ofReg .ikl Reg.IKL_LL_ERR_BAD_MTYPE, .ofReg .ikl Reg.IKL_PHY_STATUS_LEAD,
      .ofReg .ikl Reg.IKL_SB_ERR_CRC_ERR, .ofReg .rcv Reg.RCV_STATUS_LEVEL, .ofReg .trayPort Reg.TRYP_EYE_WIN_ERR,
      .ofReg .trayPort Reg.TRYP_FEC_CORR_CW, .ofReg .trayPort Reg.TRYP_FEC_UNCORR_CW,
      .ofReg .trayPort Reg.TRYP_LL_ERR_BAD_MTYPE], false⟩
  | .beatSyncTimeout .. | .ptrHandshakeTimeout .. | .trainingTimeout .. | .sbAckTimeout .. | .seekTimeout .. =>
    ⟨evtRegs ++ laneMapRegs ++ laneMapTxRegs ++ trainRegs ++ attemptRegs ++ [.dies, .links,
      .ofReg .gtr Reg.GTR_STATUS_LATE, .ofReg .trayPort Reg.TRYP_RETRY_LAST_RC], false⟩
  | .syncPortLoss => ⟨[.sync, .ofReg .bal Reg.BAL_REF_ACTIVE_PORT, .ofReg .bal Reg.BAL_REF_PORT_VALID], false⟩
  | .syncHoldoverExpiry =>
    ⟨evtRegs ++ lastRegs ++ histRegs ++ [.dies, .links, .sync, .rcv, .recov, .ofReg .bal Reg.BAL_STATUS_SYNC_LOST,
      .ofReg .rcv Reg.RCV_STATUS_LEVEL], false⟩
  | .servoMapUpdate => ⟨anchorRegs ++ [.sync, .ldg], false⟩
  | .taiMapApply .. =>
    ⟨evtRegs ++ anchorRegs ++ [.dies, .ldg, .ofReg .bal Reg.BAL_STATUS_HOLDOVER,
      .ofReg .bal Reg.BAL_STATUS_TAI_VALID, .ofReg .ldg Reg.LDG_STATUS_HOLDOVER], false⟩
  | .hackStart => ⟨[.dies, .links, .hack, .ptp, .ldg, .boot, .chg], true⟩
  | .hackEnd =>
    ⟨evtRegs ++ laneMapRegs ++ laneMapTxRegs ++ trainRegs ++ attemptRegs ++ [.dies, .links, .hack,
      .ofReg .bal Reg.BAL_HACK_COUNT, .ofReg .bal Reg.BAL_STATUS_HACK_ACTIVE, .ofReg .gtr Reg.GTR_STATUS_LATE,
      .ofReg .ikl Reg.IKL_PIN_DEPTH_DEPTH0, .ofReg .ikl Reg.IKL_PIN_DEPTH_DEPTH1,
      .ofReg .ikl Reg.IKL_PIN_DEPTH_DEPTH2, .ofReg .ikl Reg.IKL_PIN_DEPTH_DEPTH3,
      .ofReg .ikl Reg.IKL_PIN_DEPTH_DEPTH4, .ofReg .ikl Reg.IKL_PIN_DEPTH_DEPTH5,
      .ofReg .ikl Reg.IKL_PIN_DEPTH_DEPTH6, .ofReg .ikl Reg.IKL_PIN_DEPTH_DEPTH7,
      .ofReg .trayPort Reg.TRYP_PIN_DEPTH_DEPTH0, .ofReg .trayPort Reg.TRYP_RETRY_LAST_RC], false⟩
  | .cdcStale .. =>
    ⟨[.dies, .ofReg .bal Reg.BAL_CDC_LAST_BLOCK, .ofReg .bal Reg.BAL_CDC_LAST_INST,
      .ofReg .bal Reg.BAL_CDC_LAST_KIND, .ofReg .bal Reg.BAL_CDC_STALE_COUNT,
      .ofReg .bal Reg.BAL_STATUS_CDC_STALE, .ofReg .thm Reg.THM_STATUS_STALE], false⟩
  | .cdcStaleTurnExpiry .. =>
    ⟨evtRegs ++ laneMapRegs ++ laneMapTxRegs ++ trainRegs ++ attemptRegs ++ [.dies, .links,
      .ofReg .gtr Reg.GTR_STATUS_LATE, .ofReg .pwr Reg.PWR_DIE_A_ALLOW, .ofReg .pwr Reg.PWR_STATUS_FLOOR,
      .ofReg .thm Reg.THM_STATUS_STALE, .ofReg .thm Reg.THM_STATUS_THROT,
      .ofReg .trayPort Reg.TRYP_RETRY_LAST_RC], false⟩
  | .pointerSet .. => ⟨evtRegs ++ trainRegs ++ [.links], false⟩
  | .fpResetReq .. =>
    ⟨evtRegs ++ laneMapRegs ++ laneMapTxRegs ++ trainRegs ++ quiesceRegs ++ attemptRegs ++ [.dies, .links,
      .fpLines, .ofReg .gtr Reg.GTR_STATUS_LATE, .ofReg .ikl Reg.IKL_BPHY_LEAD, .ofReg .ikl Reg.IKL_EYE_WIN_ERR,
      .ofReg .ikl Reg.IKL_LL_ERR_BAD_MTYPE, .ofReg .ikl Reg.IKL_PHY_STATUS_LEAD,
      .ofReg .ikl Reg.IKL_SB_ERR_CRC_ERR, .ofReg .trayPort Reg.TRYP_EYE_WIN_ERR,
      .ofReg .trayPort Reg.TRYP_FEC_CORR_CW, .ofReg .trayPort Reg.TRYP_FEC_UNCORR_CW,
      .ofReg .trayPort Reg.TRYP_LL_ERR_BAD_MTYPE, .ofReg .trayPort Reg.TRYP_RETRY_LAST_RC], false⟩
  | .fpJointResetRelease .. =>
    ⟨evtRegs ++ trainRegs ++ coefRegs ++ [.free, .dies, .links, .fpLines, .ofReg .cfg Reg.CFG_PAD_STATUS_ZREF_BAD,
      .ofReg .ikl Reg.IKL_CAL_STATUS_DONE, .ofReg .ikl Reg.IKL_COEF_DELAY, .ofReg .ikl Reg.IKL_COEF_THRESH,
      .ofReg .ikl Reg.IKL_COEF_VALID, .ofReg .ikl Reg.IKL_EYE_LB], false⟩
  | .resetRetry .. =>
    ⟨evtRegs ++ trainRegs ++ coefRegs ++ [.free, .dies, .links, .ofReg .cfg Reg.CFG_PAD_STATUS_ZREF_BAD,
      .ofReg .ikl Reg.IKL_CAL_STATUS_DONE, .ofReg .ikl Reg.IKL_COEF_DELAY, .ofReg .ikl Reg.IKL_COEF_THRESH,
      .ofReg .ikl Reg.IKL_COEF_VALID, .ofReg .ikl Reg.IKL_EYE_LB], false⟩
  | .searchPointEnd .. =>
    ⟨evtRegs ++ trainRegs ++ coefRegs ++ [.dies, .links, .ofReg .ikl Reg.IKL_CAL_STATUS_MODE,
      .ofReg .ikl Reg.IKL_COEF_DELAY, .ofReg .ikl Reg.IKL_COEF_THRESH, .ofReg .ikl Reg.IKL_COEF_VALID,
      .ofReg .ikl Reg.IKL_EYE_EYE_H, .ofReg .ikl Reg.IKL_EYE_EYE_W, .ofReg .ikl Reg.IKL_EYE_FLOOR_FAIL,
      .ofReg .ikl Reg.IKL_EYE_LB, .ofReg .ikl Reg.IKL_EYE_SUM_MIN_H, .ofReg .ikl Reg.IKL_EYE_SUM_MIN_W,
      .ofReg .ikl Reg.IKL_EYE_SUM_WORST, .ofReg .ikl Reg.IKL_EYE_WIN_ERR, .ofReg .trayPort Reg.TRYP_COEF_CTLE,
      .ofReg .trayPort Reg.TRYP_COEF_TXPOST, .ofReg .trayPort Reg.TRYP_COEF_TXPRE,
      .ofReg .trayPort Reg.TRYP_COEF_VALID, .ofReg .trayPort Reg.TRYP_EYE_FLOOR_FAIL,
      .ofReg .trayPort Reg.TRYP_EYE_SNR, .ofReg .trayPort Reg.TRYP_EYE_WIN_ERR], false⟩
  | .ckCountCheck .. =>
    ⟨evtRegs ++ laneMapRegs ++ laneMapTxRegs ++ trainRegs ++ quiesceRegs ++ attemptRegs ++ [.dies, .links,
      .ofReg .gtr Reg.GTR_STATUS_LATE, .ofReg .ikl Reg.IKL_BPHY_CK_DEV, .ofReg .ikl Reg.IKL_BPHY_CK_OK,
      .ofReg .ikl Reg.IKL_CAL_STATUS_MODE, .ofReg .ikl Reg.IKL_CK_FAIL_CK_OK, .ofReg .ikl Reg.IKL_CK_FAIL_FAIL,
      .ofReg .trayPort Reg.TRYP_RETRY_LAST_RC], false⟩
  | .lanetestEnd .. =>
    ⟨evtRegs ++ coefRegs ++ [.dies, .links, .ofReg .ikl Reg.IKL_COEF_DELAY, .ofReg .ikl Reg.IKL_COEF_THRESH,
      .ofReg .ikl Reg.IKL_COEF_VALID, .ofReg .ikl Reg.IKL_EYE_LB, .ofReg .ikl Reg.IKL_EYE_WIN_ERR,
      .ofReg .trayPort Reg.TRYP_EYE_WIN_ERR], false⟩
  | .lanetestExit .. =>
    ⟨evtRegs ++ laneMapRegs ++ laneMapTxRegs ++ trainRegs ++ quiesceRegs ++ [.dies, .links,
      .ofReg .gtr Reg.GTR_STATUS_LATE, .ofReg .ikl Reg.IKL_CAL_STATUS_DONE], false⟩
  | .lanemapApply .. => ⟨evtRegs ++ laneMapRegs ++ laneMapTxRegs ++ trainRegs ++ [.links], false⟩
  | .frameMarker .. =>
    ⟨evtRegs ++ laneMapRegs ++ laneMapTxRegs ++ trainRegs ++ quiesceRegs ++ attemptRegs ++ [.dies, .links, .sync,
      .boot, .ofReg .bal Reg.BAL_REF_ACTIVE_PORT, .ofReg .bal Reg.BAL_REF_PORT_VALID,
      .ofReg .boot Reg.BOOT_STATUS_PHASE, .ofReg .boot Reg.BOOT_STEP, .ofReg .gtr Reg.GTR_STATUS_LATE,
      .ofReg .ikl Reg.IKL_BPHY_MARKER_LOCK, .ofReg .ikl Reg.IKL_CAL_STATUS_TIME, .ofReg .ikl Reg.IKL_EYE_WIN_ERR,
      .ofReg .ikl Reg.IKL_PIN_DEPTH_DEPTH0, .ofReg .ikl Reg.IKL_PIN_DEPTH_DEPTH1,
      .ofReg .ikl Reg.IKL_PIN_DEPTH_DEPTH2, .ofReg .ikl Reg.IKL_PIN_DEPTH_DEPTH3,
      .ofReg .ikl Reg.IKL_PIN_DEPTH_DEPTH4, .ofReg .ikl Reg.IKL_PIN_DEPTH_DEPTH5,
      .ofReg .ikl Reg.IKL_PIN_DEPTH_DEPTH6, .ofReg .ikl Reg.IKL_PIN_DEPTH_DEPTH7,
      .ofReg .ikl Reg.IKL_SB_ERR_MARKER_ERR, .ofReg .trayPort Reg.TRYP_EYE_WIN_ERR,
      .ofReg .trayPort Reg.TRYP_LL_STATUS_ATTEMPTS, .ofReg .trayPort Reg.TRYP_PIN_DEPTH_DEPTH0,
      .ofReg .trayPort Reg.TRYP_RETRY_ATTEMPTS, .ofReg .trayPort Reg.TRYP_RETRY_LAST_RC], false⟩
  | .sidebandContainer .. =>
    ⟨evtRegs ++ laneMapRegs ++ laneMapTxRegs ++ trainRegs ++ quiesceRegs ++ [.dies, .links, .reports, .recov,
      .ofReg .gtr Reg.GTR_STATUS_LATE, .ofReg .ikl Reg.IKL_BPHY_LEAD, .ofReg .ikl Reg.IKL_EYE_WIN_ERR,
      .ofReg .ikl Reg.IKL_LL_ERR_BAD_MTYPE, .ofReg .ikl Reg.IKL_PHY_STATUS_LEAD,
      .ofReg .ikl Reg.IKL_SB_ERR_CRC_ERR, .ofReg .pwr Reg.PWR_DIE_B_DEMAND, .ofReg .pwr Reg.PWR_DIE_B_MEAS,
      .ofReg .trayPort Reg.TRYP_EYE_WIN_ERR, .ofReg .trayPort Reg.TRYP_FEC_CORR_CW,
      .ofReg .trayPort Reg.TRYP_FEC_UNCORR_CW, .ofReg .trayPort Reg.TRYP_LL_ERR_BAD_MTYPE], false⟩
  | .sbMessageRepeat .. =>
    ⟨[.links, .ofReg .ikl Reg.IKL_LL_ERR_SB_REPEAT, .ofReg .trayPort Reg.TRYP_LL_ERR_SB_REPEAT], false⟩
  | .bundleTxStop .. => ⟨evtRegs ++ laneMapRegs ++ laneMapTxRegs ++ trainRegs ++ quiesceRegs ++ [.links], false⟩
  | .pinEcho .. =>
    ⟨evtRegs ++ laneMapRegs ++ laneMapTxRegs ++ trainRegs ++ quiesceRegs ++ attemptRegs ++ [.dies, .links,
      .ofReg .gtr Reg.GTR_STATUS_LATE, .ofReg .ikl Reg.IKL_BPHY_LEAD, .ofReg .ikl Reg.IKL_EYE_WIN_ERR,
      .ofReg .ikl Reg.IKL_LL_ERR_BAD_MTYPE, .ofReg .ikl Reg.IKL_PHY_STATUS_LEAD, .ofReg .ikl Reg.IKL_PIN_ARRIVAL,
      .ofReg .ikl Reg.IKL_PIN_DEPTH_DEPTH0, .ofReg .ikl Reg.IKL_PIN_DEPTH_DEPTH1,
      .ofReg .ikl Reg.IKL_PIN_DEPTH_DEPTH2, .ofReg .ikl Reg.IKL_PIN_DEPTH_DEPTH3,
      .ofReg .ikl Reg.IKL_PIN_DEPTH_DEPTH4, .ofReg .ikl Reg.IKL_PIN_DEPTH_DEPTH5,
      .ofReg .ikl Reg.IKL_PIN_DEPTH_DEPTH6, .ofReg .ikl Reg.IKL_PIN_DEPTH_DEPTH7,
      .ofReg .ikl Reg.IKL_SB_ERR_CRC_ERR, .ofReg .trayPort Reg.TRYP_EYE_WIN_ERR,
      .ofReg .trayPort Reg.TRYP_FEC_CORR_CW, .ofReg .trayPort Reg.TRYP_FEC_UNCORR_CW,
      .ofReg .trayPort Reg.TRYP_LAT_ARRIVAL, .ofReg .trayPort Reg.TRYP_LL_ERR_BAD_MTYPE,
      .ofReg .trayPort Reg.TRYP_PIN_ARRIVAL, .ofReg .trayPort Reg.TRYP_PIN_DEPTH_DEPTH0,
      .ofReg .trayPort Reg.TRYP_RETRY_LAST_RC], false⟩
  | .flitReceive .. =>
    ⟨evtRegs ++ laneMapRegs ++ laneMapTxRegs ++ trainRegs ++ quiesceRegs ++ [.dies, .links, .mem, .poison,
      .landed, .ofReg .gtr Reg.GTR_MARGIN_MINUS, .ofReg .gtr Reg.GTR_MARGIN_PLUS, .ofReg .gtr Reg.GTR_STATUS_LATE,
      .ofReg .ikl Reg.IKL_EYE_WIN_ERR, .ofReg .ikl Reg.IKL_FEC_CORR_CORR, .ofReg .ikl Reg.IKL_LINK_ERR_LOCATE,
      .ofReg .ikl Reg.IKL_LINK_ERR_UNCORR, .ofReg .ikl Reg.IKL_LL_ERR_BAD_CLASS,
      .ofReg .ikl Reg.IKL_LL_ERR_TAG_MISMATCH, .ofReg .ikl Reg.IKL_SC_ERR_RESENT,
      .ofReg .mem Reg.MEM_ECC_HBM_CORR, .ofReg .mem Reg.MEM_ECC_SP_CORR, .ofReg .trayPort Reg.TRYP_EYE_WIN_ERR,
      .ofReg .trayPort Reg.TRYP_FEC_CORR_CORR, .ofReg .trayPort Reg.TRYP_FEC_CORR_CW,
      .ofReg .trayPort Reg.TRYP_FEC_UNCORR_CW, .ofReg .trayPort Reg.TRYP_LL_ERR_BAD_CLASS,
      .ofReg .trayPort Reg.TRYP_LL_ERR_TAG_MISMATCH, .ofReg .trayPort Reg.TRYP_SC_ERR_RESENT], false⟩
  | .laneNoTransition .. =>
    ⟨evtRegs ++ laneMapRegs ++ laneMapTxRegs ++ trainRegs ++ quiesceRegs ++ [.dies, .links,
      .ofReg .gtr Reg.GTR_STATUS_LATE], false⟩
  | .errWindowRoll .. => ⟨[.ofReg .ikl Reg.IKL_EYE_WIN_ERR, .ofReg .trayPort Reg.TRYP_EYE_WIN_ERR], false⟩
  | .laneRepairTakeover .. =>
    ⟨[.links, .ofReg .ikl Reg.IKL_BADMASK_BAD, .ofReg .ikl Reg.IKL_LANEMAP_J0_BAD,
      .ofReg .ikl Reg.IKL_LANEMAP_J0_TGT, .ofReg .ikl Reg.IKL_LANEMAP_J1_BAD, .ofReg .ikl Reg.IKL_LANEMAP_J1_TGT,
      .ofReg .ikl Reg.IKL_LANEMAP_RETIRED, .ofReg .trayPort Reg.TRYP_LANEMAP_RETIRED,
      .ofReg .trayPort Reg.TRYP_LANEMAP_SPARE_BAD, .ofReg .trayPort Reg.TRYP_LANEMAP_SPARE_TGT], false⟩
  | .laneRepairTxCutover .. => ⟨laneMapTxRegs ++ [.links], false⟩
  | .jewelRecentre .. =>
    ⟨evtRegs ++ laneMapRegs ++ laneMapTxRegs ++ trainRegs ++ quiesceRegs ++ [.dies, .links,
      .ofReg .gtr Reg.GTR_STATUS_LATE, .ofReg .ikl Reg.IKL_COEF_DELAY, .ofReg .ikl Reg.IKL_COEF_THRESH,
      .ofReg .ikl Reg.IKL_EYE_WIN_ERR, .ofReg .trayPort Reg.TRYP_EYE_WIN_ERR], false⟩
  | .recalGo .. =>
    ⟨evtRegs ++ refusalRegs ++ [.dies, .links, .recals, .ofReg .eng Reg.ENG_CTX_STATE_STATE,
      .ofReg .ikl Reg.IKL_CAL_STATUS_REASON, .ofReg .ikl Reg.IKL_CAL_STATUS_REFUSED,
      .ofReg .ikl Reg.IKL_RECAL_STATE, .ofReg .pwr Reg.PWR_COUNT_WAIT_FAIL], false⟩
  | .recalArmDeadline .. =>
    ⟨evtRegs ++ refusalRegs ++ [.dies, .recals, .ofReg .ikl Reg.IKL_CAL_STATUS_REASON,
      .ofReg .ikl Reg.IKL_CAL_STATUS_REFUSED, .ofReg .ikl Reg.IKL_RECAL_STATE, .ofReg .pwr Reg.PWR_DIE_A_HELD],
      false⟩
  | .recalStart .. =>
    ⟨evtRegs ++ refusalRegs ++ lastRegs ++ histRegs ++ quiesceRegs ++ switchRegs ++ [.dies, .links, .rcv, .recals,
      .recov, .ofReg .gtr Reg.GTR_LOSS_LOST, .ofReg .gtr Reg.GTR_STATUS_NOFIT, .ofReg .gtr Reg.GTR_STATUS_VARIANT,
      .ofReg .ikl Reg.IKL_BPHY_CAL_OUT, .ofReg .ikl Reg.IKL_CAL_STATUS_REASON,
      .ofReg .ikl Reg.IKL_CAL_STATUS_REFUSED, .ofReg .ikl Reg.IKL_RECAL_STATE, .ofReg .pwr Reg.PWR_DIE_A_HELD,
      .ofReg .rcv Reg.RCV_STATUS_LEVEL], false⟩
  | .recalLanetestStart .. => ⟨[.recals], false⟩
  | .recalReturnMission .. =>
    ⟨evtRegs ++ laneMapRegs ++ laneMapTxRegs ++ trainRegs ++ quiesceRegs ++ [.dies, .links, .recals,
      .ofReg .gtr Reg.GTR_STATUS_LATE], false⟩
  | .recalEnd .. =>
    ⟨evtRegs ++ laneMapRegs ++ laneMapTxRegs ++ trainRegs ++ lastRegs ++ histRegs ++ quiesceRegs ++ switchRegs ++
      [.dies, .links, .rcv, .recals, .recov, .ofReg .gtr Reg.GTR_LOSS_LOST, .ofReg .gtr Reg.GTR_STATUS_LATE,
      .ofReg .gtr Reg.GTR_STATUS_NOFIT, .ofReg .gtr Reg.GTR_STATUS_VARIANT, .ofReg .ikl Reg.IKL_BPHY_CAL_OUT,
      .ofReg .ikl Reg.IKL_RECAL_STATE, .ofReg .pwr Reg.PWR_DIE_A_HELD, .ofReg .rcv Reg.RCV_STATUS_LEVEL], false⟩
  | .slotTransmit .. =>
    ⟨evtRegs ++ laneMapRegs ++ laneMapTxRegs ++ trainRegs ++ quiesceRegs ++ [.dies, .links,
      .ofReg .gtr Reg.GTR_NOTICE_FORWARDED, .ofReg .gtr Reg.GTR_STATUS_LATE, .ofReg .ikl Reg.IKL_UC_ERR_LIMIT,
      .ofReg .trayPort Reg.TRYP_UC_ERR_LIMIT], false⟩
  | .scResendDeadline .. | .scLostBundleReport .. =>
    ⟨evtRegs ++ ctxFaultRegs ++ [.dies, .links, .poison, .ctxs, .recov, .ofReg .eng Reg.ENG_CTX_STATE_STATE,
      .ofReg .ikl Reg.IKL_SC_ERR_DOUBLE, .ofReg .mem Reg.MEM_POISON_MADE, .ofReg .rcv Reg.RCV_HELD,
      .ofReg .trayPort Reg.TRYP_SC_ERR_DOUBLE], false⟩
  | .ucAck .. =>
    ⟨evtRegs ++ laneMapRegs ++ laneMapTxRegs ++ trainRegs ++ quiesceRegs ++ [.dies, .links,
      .ofReg .gtr Reg.GTR_STATUS_LATE, .ofReg .ikl Reg.IKL_BPHY_LEAD, .ofReg .ikl Reg.IKL_EYE_WIN_ERR,
      .ofReg .ikl Reg.IKL_LL_ERR_BAD_MTYPE, .ofReg .ikl Reg.IKL_PHY_STATUS_LEAD,
      .ofReg .ikl Reg.IKL_SB_ERR_CRC_ERR, .ofReg .ikl Reg.IKL_UC_ERR_REPLAY, .ofReg .ikl Reg.IKL_UC_ERR_TIMEOUT,
      .ofReg .trayPort Reg.TRYP_EYE_WIN_ERR, .ofReg .trayPort Reg.TRYP_FEC_CORR_CW,
      .ofReg .trayPort Reg.TRYP_FEC_UNCORR_CW, .ofReg .trayPort Reg.TRYP_LL_ERR_BAD_MTYPE,
      .ofReg .trayPort Reg.TRYP_UC_ERR_REPLAY, .ofReg .trayPort Reg.TRYP_UC_ERR_TIMEOUT], false⟩
  | .ucReplayTimeout .. =>
    ⟨[.links, .ofReg .ikl Reg.IKL_UC_ERR_REPLAY, .ofReg .ikl Reg.IKL_UC_ERR_TIMEOUT,
      .ofReg .trayPort Reg.TRYP_UC_ERR_REPLAY, .ofReg .trayPort Reg.TRYP_UC_ERR_TIMEOUT], false⟩
  | .ucRequeue .. => ⟨quiesceRegs ++ [.links], false⟩
  | .variantSelect .. =>
    ⟨evtRegs ++ lastRegs ++ histRegs ++ switchRegs ++ [.dies, .links, .rcv, .recov, .ofReg .gtr Reg.GTR_LOSS_LOST,
      .ofReg .gtr Reg.GTR_STATUS_NOFIT, .ofReg .gtr Reg.GTR_STATUS_VARIANT, .ofReg .rcv Reg.RCV_STATUS_LEVEL],
      false⟩
  | .lossNotice .. | .trayLossNotice .. =>
    ⟨[.dies, .links, .ofReg .gtr Reg.GTR_NOTICE_RECEIVED, .ofReg .gtr Reg.GTR_STATUS_LATE], false⟩
  | .gtrTableWrite .. | .tryTableWrite .. =>
    ⟨[.tables, .ofReg .gtr Reg.GTR_STATUS_ACTIVE_WR, .ofReg .gtr Reg.GTR_TBL_DATA_DATA,
      .ofReg .tray Reg.TRY_TBL_DATA_DATA], false⟩
  | .gtrTableRead .. | .tryTableRead .. =>
    ⟨[.rdData, .ofReg .gtr Reg.GTR_TBL_DATA_DATA, .ofReg .pci Reg.PCI_ERR_MS_UNREACH,
      .ofReg .tray Reg.TRY_TBL_DATA_DATA], false⟩
  | .beaconBlock .. =>
    ⟨evtRegs ++ trainRegs ++ coefRegs ++ [.free, .dies, .links, .ofReg .cfg Reg.CFG_PAD_STATUS_ZREF_BAD,
      .ofReg .ikl Reg.IKL_CAL_STATUS_DONE, .ofReg .ikl Reg.IKL_COEF_DELAY, .ofReg .ikl Reg.IKL_COEF_THRESH,
      .ofReg .ikl Reg.IKL_COEF_VALID, .ofReg .ikl Reg.IKL_EYE_LB,
      .ofReg .trayPort Reg.TRYP_PORT_STATUS_ID_MISMATCH, .ofReg .trayPort Reg.TRYP_PORT_STATUS_ID_OK,
      .ofReg .trayPort Reg.TRYP_PORT_STATUS_SEEN_PKG, .ofReg .trayPort Reg.TRYP_PORT_STATUS_SEEN_PORT,
      .ofReg .trayPort Reg.TRYP_PORT_STATUS_SEEN_VALID, .ofReg .trayPort Reg.TRYP_PORT_STATUS_SIGNAL,
      .ofReg .trayPort Reg.TRYP_RETRY_ATTEMPTS, .ofReg .trayPort Reg.TRYP_RETRY_LAST_RC], false⟩
  | .noPartnerSignal .. =>
    ⟨evtRegs ++ [.dies, .links, .ofReg .trayPort Reg.TRYP_PORT_STATUS_SIGNAL,
      .ofReg .trayPort Reg.TRYP_RETRY_LAST_RC], false⟩
  | .partnerSignalLost .. =>
    ⟨evtRegs ++ laneMapRegs ++ laneMapTxRegs ++ trainRegs ++ attemptRegs ++ [.dies, .links,
      .ofReg .gtr Reg.GTR_STATUS_LATE, .ofReg .trayPort Reg.TRYP_PORT_STATUS_SIGNAL,
      .ofReg .trayPort Reg.TRYP_RETRY_LAST_RC], false⟩
  | .startWindowEnd .. =>
    ⟨evtRegs ++ [.dies, .boot, .ofReg .bal Reg.BAL_REF_HOPS, .ofReg .bal Reg.BAL_STATUS_BEAT_VALID,
      .ofReg .bal Reg.BAL_STATUS_IS_MASTER, .ofReg .bal Reg.BAL_STATUS_SYNC_LOST,
      .ofReg .boot Reg.BOOT_STATUS_PHASE, .ofReg .boot Reg.BOOT_STEP, .ofReg .tray Reg.TRY_MISSING,
      .ofReg .tray Reg.TRY_STATUS_WIN_DONE], false⟩
  | .trayVariantSelect .. =>
    ⟨evtRegs ++ lastRegs ++ histRegs ++ switchRegs ++ [.dies, .links, .rcv, .recov,
      .ofReg .gtr Reg.GTR_STATUS_NOFIT, .ofReg .rcv Reg.RCV_STATUS_LEVEL, .ofReg .tray Reg.TRY_STATUS_TVARIANT,
      .ofReg .tray Reg.TRY_TLOSS_LOST, .ofReg .trayPort Reg.TRYP_PORT_STATUS_TLOST], false⟩
  | .runSelect .. =>
    ⟨[.dies, .ctxs, .engs, .streams, .ofReg .eng Reg.ENG_CTX_STATE_STATE, .ofReg .eng Reg.ENG_E_CUR_CTX,
      .ofReg .eng Reg.ENG_E_IDLE_RUN], false⟩
  | .descriptorStart .. =>
    ⟨evtRegs ++ firstFailRegs ++ ctxFaultRegs ++ unitBusyRegs ++ lastUeRegs ++ [.dies, .links, .mem, .poison,
      .ctxs, .engs, .queues, .streams, .opTable, .opDefs, .issued, .accepted, .failed, .seenIssued, .seenFailed,
      .nextTag, .hostEpoch, .fences, .rdReqs, .hosts, .recals, .recov, .ofReg .dma Reg.DMA_M_POS,
      .ofReg .eng Reg.ENG_CTX_CHKPT_BEAT_BEAT, .ofReg .eng Reg.ENG_CTX_CHKPT_POS_POS,
      .ofReg .eng Reg.ENG_CTX_STATE_STATE, .ofReg .eng Reg.ENG_E_BUSY, .ofReg .eng Reg.ENG_E_DEFERRED,
      .ofReg .ikl Reg.IKL_RECAL_STATE, .ofReg .mem Reg.MEM_POISON_MADE, .ofReg .mem Reg.MEM_POISON_READS,
      .ofReg .mem Reg.MEM_PWSTAT_EPOCH, .ofReg .mem Reg.MEM_PWSTAT_FAIL_COUNT, .ofReg .mem Reg.MEM_PWSTAT_FENCING,
      .ofReg .pci Reg.PCI_ERR_RD_ABORT, .ofReg .pwr Reg.PWR_COUNT_WAIT_FAIL, .ofReg .pwr Reg.PWR_DIE_A_HELD,
      .ofReg .rcv Reg.RCV_HELD, .ofReg .rcv Reg.RCV_STATUS_REPLAY, .ofReg .seq Reg.SEQ_Q_POS,
      .ofReg .syn Reg.SYN_BAR_ARRIVED, .ofReg .syn Reg.SYN_BAR_GEN, .ofReg .syn Reg.SYN_CTR_VALUE], false⟩
  | .descriptorComplete .. =>
    ⟨evtRegs ++ firstFailRegs ++ ctxFaultRegs ++ unitBusyRegs ++ lastUeRegs ++ [.dies, .links, .mem, .poison,
      .ctxs, .engs, .queues, .streams, .heads, .issued, .accepted, .failed, .nextTag, .fences, .rdReqs, .hosts,
      .recov, .ofReg .dma Reg.DMA_M_POS, .ofReg .eng Reg.ENG_CTX_CHKPT_BEAT_BEAT,
      .ofReg .eng Reg.ENG_CTX_CHKPT_POS_POS, .ofReg .eng Reg.ENG_CTX_STATE_STATE, .ofReg .eng Reg.ENG_E_BUSY,
      .ofReg .mem Reg.MEM_POISON_MADE, .ofReg .mem Reg.MEM_POISON_READS, .ofReg .mem Reg.MEM_PWSTAT_FENCING,
      .ofReg .pwr Reg.PWR_DIE_A_HELD, .ofReg .rcv Reg.RCV_HELD, .ofReg .rcv Reg.RCV_STATUS_REPLAY,
      .ofReg .seq Reg.SEQ_Q_POS, .ofReg .syn Reg.SYN_CTR_VALUE], false⟩
  | .descriptorBoundExpiry .. =>
    ⟨evtRegs ++ ctxFaultRegs ++ unitBusyRegs ++ [.dies, .ctxs, .engs, .queues, .streams, .fences, .rdReqs, .hosts,
      .recov, .ofReg .dma Reg.DMA_M_POS, .ofReg .eng Reg.ENG_CTX_STATE_STATE, .ofReg .mem Reg.MEM_PWSTAT_FENCING,
      .ofReg .pwr Reg.PWR_DIE_A_HELD, .ofReg .rcv Reg.RCV_HELD, .ofReg .rcv Reg.RCV_STATUS_REPLAY,
      .ofReg .seq Reg.SEQ_Q_POS], false⟩
  | .doorbellRing .. =>
    ⟨[.streams, .ofReg .eng Reg.ENG_CTX_STATE_DROPPED, .ofReg .eng Reg.ENG_CTX_STATE_STATE], false⟩
  | .counterSignal .. => ⟨[.ofReg .syn Reg.SYN_CTR_VALUE], false⟩
  | .synCtrWrite .. => ⟨[.ofReg .syn Reg.SYN_CTR_VALUE, .ofReg .syn Reg.SYN_STATUS_IGNORED], false⟩
  | .barrierArrival .. =>
    ⟨evtRegs ++ [.dies, .links, .ctxs, .engs, .streams, .issued, .nextTag, .fences,
      .ofReg .eng Reg.ENG_CTX_CHKPT_BEAT_BEAT, .ofReg .eng Reg.ENG_CTX_CHKPT_POS_POS,
      .ofReg .eng Reg.ENG_CTX_STATE_STATE, .ofReg .eng Reg.ENG_E_BUSY, .ofReg .pwr Reg.PWR_DIE_A_HELD,
      .ofReg .syn Reg.SYN_BAR_ARRIVED, .ofReg .syn Reg.SYN_BAR_GEN, .ofReg .syn Reg.SYN_CTR_VALUE], false⟩
  | .lockstepMismatch .. | .watchdogKick .. => ⟨[.recov], false⟩
  | .write .. =>
    ⟨evtRegs ++ firstFailRegs ++ lastUeRegs ++ [.dies, .links, .mem, .poison, .accepted, .failed,
      .ofReg .mem Reg.MEM_POISON_MADE, .ofReg .syn Reg.SYN_CTR_VALUE], false⟩
  | .signal .. =>
    ⟨evtRegs ++ firstFailRegs ++ [.dies, .links, .accepted, .failed, .ofReg .syn Reg.SYN_CTR_VALUE], false⟩
  | .read .. =>
    ⟨evtRegs ++ lastUeRegs ++ [.dies, .links, .poison, .ofReg .mem Reg.MEM_ECC_HBM_CORR,
      .ofReg .mem Reg.MEM_ECC_SP_CORR, .ofReg .mem Reg.MEM_POISON_MADE, .ofReg .mem Reg.MEM_POISON_READS], false⟩
  | .readData .. =>
    ⟨evtRegs ++ firstFailRegs ++ ctxFaultRegs ++ unitBusyRegs ++ lastUeRegs ++ [.dies, .links, .mem, .poison,
      .ctxs, .engs, .queues, .streams, .issued, .accepted, .failed, .nextTag, .rdReqs, .hosts, .recov,
      .ofReg .dma Reg.DMA_M_POS, .ofReg .eng Reg.ENG_CTX_STATE_STATE, .ofReg .mem Reg.MEM_POISON_MADE,
      .ofReg .pci Reg.PCI_ERR_RD_ABORT, .ofReg .rcv Reg.RCV_HELD, .ofReg .seq Reg.SEQ_Q_POS,
      .ofReg .syn Reg.SYN_CTR_VALUE], false⟩
  | .fenceResp .. =>
    ⟨evtRegs ++ firstFailRegs ++ lastUeRegs ++ [.dies, .links, .mem, .poison, .ctxs, .engs, .streams, .issued,
      .accepted, .failed, .seenIssued, .seenFailed, .nextTag, .hostEpoch, .fences, .rdReqs, .hosts,
      .ofReg .eng Reg.ENG_CTX_CHKPT_BEAT_BEAT, .ofReg .eng Reg.ENG_CTX_CHKPT_POS_POS,
      .ofReg .eng Reg.ENG_CTX_STATE_STATE, .ofReg .eng Reg.ENG_E_BUSY, .ofReg .mem Reg.MEM_POISON_MADE,
      .ofReg .mem Reg.MEM_POISON_READS, .ofReg .mem Reg.MEM_PWSTAT_EPOCH, .ofReg .mem Reg.MEM_PWSTAT_FAIL_COUNT,
      .ofReg .mem Reg.MEM_PWSTAT_FENCING, .ofReg .pci Reg.PCI_ERR_RD_ABORT, .ofReg .pwr Reg.PWR_DIE_A_HELD,
      .ofReg .syn Reg.SYN_CTR_VALUE], false⟩
  | .fenceProbeRetry .. => ⟨[.links, .fences], false⟩
  | .pwFail .. => ⟨firstFailRegs, false⟩
  | .scrubPass .. =>
    ⟨evtRegs ++ lastUeRegs ++ [.dies, .poison, .ofReg .mem Reg.MEM_ECC_HBM_CORR, .ofReg .mem Reg.MEM_ECC_SP_CORR,
      .ofReg .mem Reg.MEM_POISON_MADE, .ofReg .mem Reg.MEM_SCRUB_PASSES], false⟩
  | .bar2Write .. =>
    ⟨evtRegs ++ firstFailRegs ++ lastUeRegs ++ [.dies, .links, .mem, .poison, .issued, .accepted, .failed,
      .nextTag, .ofReg .mem Reg.MEM_POISON_MADE, .ofReg .pci Reg.PCI_ERR_OUTSIDE, .ofReg .syn Reg.SYN_CTR_VALUE],
      false⟩
  | .bar2Read .. =>
    ⟨evtRegs ++ firstFailRegs ++ lastUeRegs ++ [.dies, .links, .mem, .poison, .ctxs, .engs, .streams, .issued,
      .accepted, .failed, .seenIssued, .seenFailed, .nextTag, .hostEpoch, .fences, .rdReqs, .hosts,
      .ofReg .eng Reg.ENG_CTX_CHKPT_BEAT_BEAT, .ofReg .eng Reg.ENG_CTX_CHKPT_POS_POS,
      .ofReg .eng Reg.ENG_CTX_STATE_STATE, .ofReg .eng Reg.ENG_E_BUSY, .ofReg .mem Reg.MEM_POISON_MADE,
      .ofReg .mem Reg.MEM_POISON_READS, .ofReg .mem Reg.MEM_PWSTAT_EPOCH, .ofReg .mem Reg.MEM_PWSTAT_FAIL_COUNT,
      .ofReg .mem Reg.MEM_PWSTAT_FENCING, .ofReg .pci Reg.PCI_ERR_OUTSIDE, .ofReg .pci Reg.PCI_ERR_RD_ABORT,
      .ofReg .pwr Reg.PWR_DIE_A_HELD, .ofReg .syn Reg.SYN_CTR_VALUE], false⟩
  | .bar2ReadAbort .. => ⟨[.rdReqs, .hosts, .ofReg .pci Reg.PCI_ERR_RD_ABORT], false⟩
  | .functionLevelReset .. =>
    ⟨evtRegs ++ firstFailRegs ++ ctxFaultRegs ++ lastUeRegs ++ [.free, .dies, .links, .mem, .poison, .ctxs,
      .issued, .accepted, .failed, .nextTag, .hosts, .recov, .ofReg .eng Reg.ENG_CTX_STATE_STATE,
      .ofReg .mem Reg.MEM_POISON_MADE, .ofReg .pci Reg.PCI_BAR2_AP_BASE, .ofReg .pci Reg.PCI_BAR2_AP_VALID,
      .ofReg .pci Reg.PCI_RING_BASE_HI, .ofReg .pci Reg.PCI_RING_BASE_LO, .ofReg .pci Reg.PCI_RING_CFG_EN,
      .ofReg .pci Reg.PCI_RING_CFG_LOG2_N, .ofReg .pci Reg.PCI_RING_DROPPED_DROPPED,
      .ofReg .pci Reg.PCI_RING_HEAD_HEAD, .ofReg .pci Reg.PCI_RING_TAIL_TAIL, .ofReg .pci Reg.PCI_STATUS_LINK_UP,
      .ofReg .rcv Reg.RCV_HELD, .ofReg .syn Reg.SYN_CTR_VALUE], false⟩
  | .hostReadCompletion .. | .hostReadTimeout .. =>
    ⟨evtRegs ++ firstFailRegs ++ ctxFaultRegs ++ lastUeRegs ++ [.free, .dies, .links, .mem, .poison, .ctxs,
      .issued, .accepted, .failed, .nextTag, .hosts, .recov, .ofReg .eng Reg.ENG_CTX_STATE_STATE,
      .ofReg .mem Reg.MEM_POISON_MADE, .ofReg .pci Reg.PCI_ERR_CPL_TO, .ofReg .rcv Reg.RCV_HELD,
      .ofReg .syn Reg.SYN_CTR_VALUE], false⟩
  | .msixMessage .. | .outputGuardStart .. => ⟨[.hosts], false⟩
  | .ethFrameReceive .. =>
    ⟨[.free, .resv, .shadow, .inForce, .dies, .links, .tables, .mem, .poison, .ctxs, .sync, .engs, .queues,
      .streams, .issued, .accepted, .failed, .seenIssued, .seenFailed, .nextTag, .fences, .rdReqs, .hosts, .ptp,
      .fus, .ldg, .boot, .tshadow, .landed, .recov], true⟩
  | .ptpSyncTimeout =>
    ⟨evtRegs ++ [.dies, .ptp, .ofReg .bal Reg.BAL_STATUS_HOLDOVER, .ofReg .bal Reg.BAL_STATUS_TAI_VALID,
      .ofReg .ldg Reg.LDG_STATUS_HOLDOVER], false⟩
  | .leapSecond => ⟨[.ptp, .ofReg .ptp Reg.PTP_UTC_IN_USE], false⟩
  | .resultOutput .. =>
    ⟨evtRegs ++ [.free, .dies, .hosts, .ofReg .mem Reg.MEM_POISON_READS, .ofReg .pci Reg.PCI_RING_DROPPED_DROPPED,
      .ofReg .pci Reg.PCI_RING_HEAD_HEAD, .ofReg .rcv Reg.RCV_STATUS_OUT_LOST], false⟩
  | .ethTableRead .. => ⟨[.rdData, .ofReg .eth Reg.ETH_TBL_DATA_DATA, .ofReg .pci Reg.PCI_ERR_MS_UNREACH], false⟩
  | .snapshotLimitClose .. => ⟨[.fus], false⟩
  | .snapshotSelect .. =>
    ⟨[.tables, .mem, .poison, .fus, .ofReg .fus Reg.FUS_GRP_LAST_K_LAST_K, .ofReg .fus Reg.FUS_GRP_SKIP_SKIP,
      .ofReg .mem Reg.MEM_POISON_MADE], false⟩
  | .snapshotRelease .. =>
    ⟨evtRegs ++ [.dies, .mem, .poison, .fus, .ofReg .fus Reg.FUS_GRP_MISSING_MISSING,
      .ofReg .fus Reg.FUS_GRP_SKIP_REPEAT, .ofReg .mem Reg.MEM_POISON_MADE], false⟩
  | .residualBatchStart .. => ⟨[.fus, .landed, .ofReg .fus Reg.FUS_GRP_STALE_RES_STALE], false⟩
  | .calibBatchApply .. => ⟨evtRegs ++ [.dies, .tables, .fus, .ofReg .fus Reg.FUS_COUNT_FROZEN], false⟩
  | .modeSetProcess .. =>
    ⟨evtRegs ++ [.dies, .fus, .landed, .ofReg .fus Reg.FUS_COUNT_MODE_BAD, .ofReg .fus Reg.FUS_COUNT_TRK_FULL],
      false⟩
  | .trackTablePublish .. => ⟨[.mem, .poison, .fus, .ofReg .mem Reg.MEM_POISON_MADE], false⟩
  | .fusTableWrite .. =>
    ⟨[.tables, .fus, .tshadow, .ofReg .cfg Reg.CFG_ARM_STATUS_LATE_WR, .ofReg .fus Reg.FUS_COUNT_FROZEN,
      .ofReg .fus Reg.FUS_GRP_SKIP_SKIP, .ofReg .fus Reg.FUS_TBL_DATA_DATA], false⟩
  | .fusTableRead .. => ⟨[.rdData, .ofReg .fus Reg.FUS_TBL_DATA_DATA, .ofReg .pci Reg.PCI_ERR_MS_UNREACH], false⟩
  | .tariffChangeEffect => ⟨evtRegs ++ [.dies, .tables, .ldg], false⟩
  | .intervalClose =>
    ⟨[.ldg, .ofReg .ldg Reg.LDG_COUNT2_SKIPPED, .ofReg .ldg Reg.LDG_CUR_HI_CUR, .ofReg .ldg Reg.LDG_CUR_LO_CUR],
      false⟩
  | .setpointSetProcess =>
    ⟨[.ldg, .landed, .ofReg .ldg Reg.LDG_COUNT_DISCARDED, .ofReg .ldg Reg.LDG_COUNT_LATE], false⟩
  | .setpointSetEffective => ⟨[.ldg], false⟩
  | .ledgerOpen =>
    ⟨[.tables, .ldg, .ofReg .ldg Reg.LDG_CUR_HI_CUR, .ofReg .ldg Reg.LDG_CUR_LO_CUR,
      .ofReg .ldg Reg.LDG_STATUS_HOLDOVER, .ofReg .ldg Reg.LDG_STATUS_STATE], false⟩
  | .intervalCommit .. =>
    ⟨evtRegs ++ [.dies, .ldg, .fram, .ofReg .ldg Reg.LDG_COUNT_VERIFY_FAIL, .ofReg .ldg Reg.LDG_STATUS_FRAM_FAULT,
      .ofReg .ldg Reg.LDG_STATUS_STATE], false⟩
  | .intervalCommitDone .. =>
    ⟨evtRegs ++ [.dies, .ldg, .fram, .ofReg .ldg Reg.LDG_COUNT_VERIFY_FAIL, .ofReg .ldg Reg.LDG_SEQ,
      .ofReg .ldg Reg.LDG_STATUS_FRAM_FAULT], false⟩
  | .tableImageWrite .. =>
    ⟨evtRegs ++ [.dies, .ldg, .fram, .ofReg .ldg Reg.LDG_COUNT_VERIFY_FAIL,
      .ofReg .ldg Reg.LDG_STATUS_FRAM_FAULT], false⟩
  | .ledgerOutputCopy => ⟨[.mem, .poison, .ldg, .ofReg .mem Reg.MEM_POISON_MADE], false⟩
  | .ldgTableWrite .. =>
    ⟨[.tables, .fus, .tshadow, .ofReg .cfg Reg.CFG_ARM_STATUS_LATE_WR, .ofReg .fus Reg.FUS_COUNT_FROZEN,
      .ofReg .fus Reg.FUS_GRP_SKIP_SKIP, .ofReg .ldg Reg.LDG_TBL_DATA_DATA], false⟩
  | .ldgTableRead .. => ⟨[.rdData, .ofReg .ldg Reg.LDG_TBL_DATA_DATA, .ofReg .pci Reg.PCI_ERR_MS_UNREACH], false⟩
  | .ldgFramReadStart .. =>
    ⟨[.ldg, .ofReg .ldg Reg.LDG_TBL_INDEX_INDEX, .ofReg .ldg Reg.LDG_TBL_SPACE_BUSY], false⟩
  | .ldgFramReadDone => ⟨[.ldg, .ofReg .ldg Reg.LDG_TBL_SPACE_BUSY], false⟩
  | .budgetWrite .. =>
    ⟨evtRegs ++ refusalRegs ++ [.dies, .ofReg .pwr Reg.PWR_BUDGET, .ofReg .pwr Reg.PWR_STATUS_REASON,
      .ofReg .pwr Reg.PWR_STATUS_REFUSED], false⟩
  | .budgetReport .. =>
    ⟨[.links, .reports, .ofReg .pwr Reg.PWR_DIE_B_DEMAND, .ofReg .pwr Reg.PWR_DIE_B_MEAS], false⟩
  | .grantAllocation => ⟨[.dies, .links, .grants, .ofReg .pwr Reg.PWR_BUDGET_IN_EFFECT], false⟩
  | .budgetGrant .. =>
    ⟨evtRegs ++ laneMapRegs ++ laneMapTxRegs ++ trainRegs ++ quiesceRegs ++ [.dies, .links, .reports,
      .ofReg .gtr Reg.GTR_STATUS_LATE, .ofReg .ikl Reg.IKL_BPHY_LEAD, .ofReg .ikl Reg.IKL_EYE_WIN_ERR,
      .ofReg .ikl Reg.IKL_LL_ERR_BAD_MTYPE, .ofReg .ikl Reg.IKL_PHY_STATUS_LEAD,
      .ofReg .ikl Reg.IKL_SB_ERR_CRC_ERR, .ofReg .pwr Reg.PWR_DIE_B_DEMAND, .ofReg .pwr Reg.PWR_DIE_B_MEAS,
      .ofReg .trayPort Reg.TRYP_EYE_WIN_ERR, .ofReg .trayPort Reg.TRYP_FEC_CORR_CW,
      .ofReg .trayPort Reg.TRYP_FEC_UNCORR_CW, .ofReg .trayPort Reg.TRYP_LL_ERR_BAD_MTYPE], false⟩
  | .allowanceTake .. =>
    ⟨evtRegs ++ [.dies, .ofReg .pwr Reg.PWR_COUNT_LOST, .ofReg .pwr Reg.PWR_DIE_A_ALLOW,
      .ofReg .pwr Reg.PWR_STATUS_FLOOR], false⟩
  | .tokenGrant .. => ⟨[.dies, .ofReg .pwr Reg.PWR_COUNT_GRANTED, .ofReg .pwr Reg.PWR_DIE_A_HELD], false⟩
  | .admissionWaitTimeout .. =>
    ⟨evtRegs ++ [.dies, .recals, .ofReg .eng Reg.ENG_CTX_STATE_STATE, .ofReg .ikl Reg.IKL_RECAL_STATE,
      .ofReg .pwr Reg.PWR_COUNT_WAIT_FAIL], false⟩
  | .powerFail .. =>
    ⟨evtRegs ++ [.dies, .ldg, .ofReg .ldg Reg.LDG_STATUS_STATE, .ofReg .pwr Reg.PWR_STATUS_PF], false⟩
  | .powerReturn => ⟨evtRegs ++ lastRegs ++ [.dies, .pins, .ofReg .rcv Reg.RCV_STATUS_PWRCYC], false⟩
  | .railSample .. =>
    ⟨[.ofReg .pwr Reg.PWR_RAIL_HIGH, .ofReg .pwr Reg.PWR_RAIL_LOW, .ofReg .pwr Reg.PWR_RAIL_MV], false⟩
  | .armGo .. | .armDiscard .. =>
    ⟨evtRegs ++ refusalRegs ++ [.shadow, .dies, .links, .boot, .chg, .tshadow, .ofReg .cfg Reg.CFG_ARM_BANK,
      .ofReg .cfg Reg.CFG_ARM_BY_TAI, .ofReg .cfg Reg.CFG_ARM_HACK_LEN, .ofReg .cfg Reg.CFG_ARM_SCOPE,
      .ofReg .cfg Reg.CFG_ARM_SET_ID, .ofReg .cfg Reg.CFG_ARM_STATE, .ofReg .cfg Reg.CFG_ARM_STATUS_CLASS,
      .ofReg .cfg Reg.CFG_ARM_STATUS_CONFIRMED, .ofReg .cfg Reg.CFG_ARM_STATUS_REASON,
      .ofReg .cfg Reg.CFG_ARM_TRAY_PKG_NEEDED, .ofReg .cfg Reg.CFG_ARM_TRAY_PKG_OK,
      .ofReg .cfg Reg.CFG_COMMIT_TURN_HI_TURN, .ofReg .cfg Reg.CFG_COMMIT_TURN_LO_TURN,
      .ofReg .cfg Reg.CFG_SHADOW_FROZEN, .ofReg .cfg Reg.CFG_STAGE_OFF_OFFSET,
      .ofReg .cfg Reg.CFG_STAGE_OFF_VALID, .ofReg .cfg Reg.CFG_STAGE_VAL_VALUE, .ofReg .fus Reg.FUS_STATUS_REASON,
      .ofReg .fus Reg.FUS_STATUS_REFUSED, .ofReg .gtr Reg.GTR_STATUS_REASON, .ofReg .gtr Reg.GTR_STATUS_REFUSED,
      .ofReg .ldg Reg.LDG_STATUS_REASON, .ofReg .ldg Reg.LDG_STATUS_REFUSED], false⟩
  | .arm .. =>
    ⟨evtRegs ++ laneMapRegs ++ laneMapTxRegs ++ trainRegs ++ quiesceRegs ++ [.dies, .links, .chg,
      .ofReg .cfg Reg.CFG_ARM_STATE, .ofReg .cfg Reg.CFG_ARM_STATUS_CLASS,
      .ofReg .cfg Reg.CFG_ARM_STATUS_CONFIRMED, .ofReg .cfg Reg.CFG_ARM_TRAY_PKG_NEEDED,
      .ofReg .cfg Reg.CFG_ARM_TRAY_PKG_OK, .ofReg .cfg Reg.CFG_SHADOW_FROZEN, .ofReg .fus Reg.FUS_STATUS_REASON,
      .ofReg .fus Reg.FUS_STATUS_REFUSED, .ofReg .gtr Reg.GTR_STATUS_LATE, .ofReg .gtr Reg.GTR_STATUS_REASON,
      .ofReg .gtr Reg.GTR_STATUS_REFUSED, .ofReg .ikl Reg.IKL_BPHY_LEAD, .ofReg .ikl Reg.IKL_EYE_WIN_ERR,
      .ofReg .ikl Reg.IKL_LL_ERR_BAD_MTYPE, .ofReg .ikl Reg.IKL_PHY_STATUS_LEAD,
      .ofReg .ikl Reg.IKL_SB_ERR_CRC_ERR, .ofReg .ldg Reg.LDG_STATUS_REASON, .ofReg .ldg Reg.LDG_STATUS_REFUSED,
      .ofReg .trayPort Reg.TRYP_EYE_WIN_ERR, .ofReg .trayPort Reg.TRYP_FEC_CORR_CW,
      .ofReg .trayPort Reg.TRYP_FEC_UNCORR_CW, .ofReg .trayPort Reg.TRYP_LL_ERR_BAD_MTYPE], false⟩
  | .confirm .. =>
    ⟨evtRegs ++ laneMapRegs ++ laneMapTxRegs ++ trainRegs ++ quiesceRegs ++ [.dies, .links, .chg,
      .ofReg .cfg Reg.CFG_ARM_STATUS_CLASS, .ofReg .cfg Reg.CFG_ARM_STATUS_CONFIRMED,
      .ofReg .cfg Reg.CFG_ARM_TRAY_PKG_OK, .ofReg .gtr Reg.GTR_STATUS_LATE, .ofReg .ikl Reg.IKL_BPHY_LEAD,
      .ofReg .ikl Reg.IKL_EYE_WIN_ERR, .ofReg .ikl Reg.IKL_LL_ERR_BAD_MTYPE, .ofReg .ikl Reg.IKL_PHY_STATUS_LEAD,
      .ofReg .ikl Reg.IKL_SB_ERR_CRC_ERR, .ofReg .trayPort Reg.TRYP_EYE_WIN_ERR,
      .ofReg .trayPort Reg.TRYP_FEC_CORR_CW, .ofReg .trayPort Reg.TRYP_FEC_UNCORR_CW,
      .ofReg .trayPort Reg.TRYP_LL_ERR_BAD_MTYPE], false⟩
  | .packageConfirm => ⟨[.links, .chg, .ofReg .cfg Reg.CFG_ARM_TRAY_PKG_OK], false⟩
  | .armDecision =>
    ⟨evtRegs ++ refusalRegs ++ [.dies, .links, .boot, .chg, .ofReg .boot Reg.BOOT_ACT_TURN_HI_TURN,
      .ofReg .boot Reg.BOOT_ACT_TURN_LO_TURN, .ofReg .cfg Reg.CFG_ARM_STATE,
      .ofReg .cfg Reg.CFG_ARM_STATUS_REASON, .ofReg .cfg Reg.CFG_SHADOW_FROZEN], false⟩
  | .commit .. =>
    ⟨evtRegs ++ laneMapRegs ++ laneMapTxRegs ++ trainRegs ++ quiesceRegs ++ [.dies, .links, .boot, .chg,
      .ofReg .boot Reg.BOOT_ACT_TURN_HI_TURN, .ofReg .boot Reg.BOOT_ACT_TURN_LO_TURN,
      .ofReg .cfg Reg.CFG_SHADOW_FROZEN, .ofReg .gtr Reg.GTR_STATUS_LATE, .ofReg .ikl Reg.IKL_BPHY_LEAD,
      .ofReg .ikl Reg.IKL_EYE_WIN_ERR, .ofReg .ikl Reg.IKL_LL_ERR_BAD_MTYPE, .ofReg .ikl Reg.IKL_PHY_STATUS_LEAD,
      .ofReg .ikl Reg.IKL_SB_ERR_CRC_ERR, .ofReg .trayPort Reg.TRYP_EYE_WIN_ERR,
      .ofReg .trayPort Reg.TRYP_FEC_CORR_CW, .ofReg .trayPort Reg.TRYP_FEC_UNCORR_CW,
      .ofReg .trayPort Reg.TRYP_LL_ERR_BAD_MTYPE], false⟩
  | .abort .. =>
    ⟨evtRegs ++ refusalRegs ++ laneMapRegs ++ laneMapTxRegs ++ trainRegs ++ quiesceRegs ++ [.dies, .links, .boot,
      .chg, .ofReg .cfg Reg.CFG_ARM_STATE, .ofReg .cfg Reg.CFG_ARM_STATUS_REASON,
      .ofReg .cfg Reg.CFG_SHADOW_FROZEN, .ofReg .gtr Reg.GTR_STATUS_LATE, .ofReg .ikl Reg.IKL_BPHY_LEAD,
      .ofReg .ikl Reg.IKL_EYE_WIN_ERR, .ofReg .ikl Reg.IKL_LL_ERR_BAD_MTYPE, .ofReg .ikl Reg.IKL_PHY_STATUS_LEAD,
      .ofReg .ikl Reg.IKL_SB_ERR_CRC_ERR, .ofReg .trayPort Reg.TRYP_EYE_WIN_ERR,
      .ofReg .trayPort Reg.TRYP_FEC_CORR_CW, .ofReg .trayPort Reg.TRYP_FEC_UNCORR_CW,
      .ofReg .trayPort Reg.TRYP_LL_ERR_BAD_MTYPE], false⟩
  | .changeSetApply =>
    ⟨[.free, .shadow, .dies, .links, .tables, .hack, .rcv, .ptp, .fus, .ldg, .boot, .chg, .tshadow, .recov], true⟩
  | .heartbeatSend .. => ⟨[.links, .rcv, .recov], false⟩
  | .heartbeatCheck .. =>
    ⟨evtRegs ++ lastRegs ++ histRegs ++ [.dies, .links, .rcv, .recov, .ofReg .rcv Reg.RCV_MISSED,
      .ofReg .rcv Reg.RCV_STATUS_LEVEL], false⟩
  | .heartbeatStateSend .. => ⟨[.links, .ofReg .rcv Reg.RCV_FAULTED], false⟩
  | .faultGranuleWrite .. => ⟨[.mem], false⟩
  | .watchdogExpiry .. =>
    ⟨evtRegs ++ lastRegs ++ [.dies, .pins, .ofReg .rcv Reg.RCV_MISSED_WDOG, .ofReg .rcv Reg.RCV_STATUS_PWRCYC],
      false⟩
  | .contextRelease .. => ⟨[.dies, .ctxs, .ofReg .eng Reg.ENG_CTX_STATE_STATE, .ofReg .rcv Reg.RCV_HELD], false⟩
  | .engineHangDetect .. =>
    ⟨evtRegs ++ lastRegs ++ histRegs ++ [.dies, .links, .rcv, .recov, .ofReg .rcv Reg.RCV_STATUS_LEVEL,
      .ofReg .rcv Reg.RCV_STATUS_REPLAY, .ofReg .rcv Reg.RCV_SUSPECT_MASK], false⟩
  | .recoveryFenceEnd .. =>
    ⟨evtRegs ++ ctxFaultRegs ++ unitBusyRegs ++ [.dies, .ctxs, .rcv, .queues, .streams, .fences, .rdReqs, .hosts,
      .recov, .ofReg .dma Reg.DMA_M_POS, .ofReg .eng Reg.ENG_CTX_STATE_STATE, .ofReg .mem Reg.MEM_PWSTAT_FENCING,
      .ofReg .rcv Reg.RCV_HELD, .ofReg .seq Reg.SEQ_Q_POS], false⟩
  | .crashDumpDone .. =>
    ⟨evtRegs ++ lastRegs ++ histRegs ++ unitBusyRegs ++ [.dies, .links, .mem, .poison, .ctxs, .pins, .rcv, .engs,
      .queues, .streams, .rdReqs, .chg, .recov, .ofReg .dma Reg.DMA_M_POS, .ofReg .eng Reg.ENG_E_BUSY,
      .ofReg .mem Reg.MEM_POISON_MADE, .ofReg .rcv Reg.RCV_DUMP_SEQ, .ofReg .rcv Reg.RCV_DUMP_SLOT,
      .ofReg .rcv Reg.RCV_HELD, .ofReg .rcv Reg.RCV_STATUS_LEVEL, .ofReg .rcv Reg.RCV_STATUS_PWRCYC,
      .ofReg .seq Reg.SEQ_Q_POS, .ofReg .syn Reg.SYN_BAR_ARRIVED, .ofReg .syn Reg.SYN_BAR_GEN,
      .ofReg .syn Reg.SYN_CTR_VALUE], false⟩
  | .chipReset =>
    ⟨[.resv, .shadow, .inForce, .dies, .links, .tables, .mem, .poison, .ctxs, .fpLines, .pins, .routes, .reserve,
      .rcv, .engs, .queues, .streams, .issued, .accepted, .failed, .seenIssued, .seenFailed, .nextTag, .fences,
      .rdReqs, .hosts, .ptp, .fus, .ldg, .boot, .tshadow, .landed, .recov], true⟩
  | .recoveryBoundExpiry .. =>
    ⟨evtRegs ++ lastRegs ++ histRegs ++ [.dies, .links, .pins, .rcv, .recov, .ofReg .rcv Reg.RCV_STATUS_LEVEL,
      .ofReg .rcv Reg.RCV_STATUS_PWRCYC], false⟩
  | .replayStart .. =>
    ⟨evtRegs ++ [.dies, .mem, .rcv, .recals, .recov, .ofReg .eng Reg.ENG_CTX_STATE_STATE,
      .ofReg .ikl Reg.IKL_RECAL_STATE, .ofReg .pwr Reg.PWR_COUNT_WAIT_FAIL, .ofReg .pwr Reg.PWR_DIE_A_HELD,
      .ofReg .rcv Reg.RCV_INCONCL, .ofReg .rcv Reg.RCV_STATUS_REPLAY], false⟩
  | .replaySuspectEnd .. =>
    ⟨evtRegs ++ unitBusyRegs ++ [.dies, .mem, .rcv, .engs, .queues, .streams, .rdReqs, .hosts, .recov,
      .ofReg .dma Reg.DMA_M_POS, .ofReg .eng Reg.ENG_E_BUSY, .ofReg .pwr Reg.PWR_DIE_A_HELD,
      .ofReg .rcv Reg.RCV_CULPRIT, .ofReg .rcv Reg.RCV_INCONCL, .ofReg .rcv Reg.RCV_STATUS_REPLAY,
      .ofReg .seq Reg.SEQ_Q_POS], false⟩
  | .domainRejoin .. =>
    ⟨evtRegs ++ [.dies, .ctxs, .rcv, .recov, .ofReg .rcv Reg.RCV_HELD, .ofReg .rcv Reg.RCV_STATUS_LEVEL], false⟩
  | .packageHeartbeat .. =>
    ⟨evtRegs ++ laneMapRegs ++ laneMapTxRegs ++ trainRegs ++ quiesceRegs ++ [.dies, .links, .recov,
      .ofReg .gtr Reg.GTR_STATUS_LATE, .ofReg .ikl Reg.IKL_BPHY_LEAD, .ofReg .ikl Reg.IKL_EYE_WIN_ERR,
      .ofReg .ikl Reg.IKL_LL_ERR_BAD_MTYPE, .ofReg .ikl Reg.IKL_PHY_STATUS_LEAD,
      .ofReg .ikl Reg.IKL_SB_ERR_CRC_ERR, .ofReg .trayPort Reg.TRYP_EYE_WIN_ERR,
      .ofReg .trayPort Reg.TRYP_FEC_CORR_CW, .ofReg .trayPort Reg.TRYP_FEC_UNCORR_CW,
      .ofReg .trayPort Reg.TRYP_LL_ERR_BAD_MTYPE], false⟩
  | .trayOrder .. =>
    ⟨evtRegs ++ laneMapRegs ++ laneMapTxRegs ++ trainRegs ++ lastRegs ++ histRegs ++ quiesceRegs ++ [.dies,
      .links, .rcv, .recov, .ofReg .gtr Reg.GTR_STATUS_LATE, .ofReg .ikl Reg.IKL_BPHY_LEAD,
      .ofReg .ikl Reg.IKL_EYE_WIN_ERR, .ofReg .ikl Reg.IKL_LL_ERR_BAD_MTYPE, .ofReg .ikl Reg.IKL_PHY_STATUS_LEAD,
      .ofReg .ikl Reg.IKL_SB_ERR_CRC_ERR, .ofReg .rcv Reg.RCV_STATUS_LEVEL, .ofReg .trayPort Reg.TRYP_EYE_WIN_ERR,
      .ofReg .trayPort Reg.TRYP_FEC_CORR_CW, .ofReg .trayPort Reg.TRYP_FEC_UNCORR_CW,
      .ofReg .trayPort Reg.TRYP_LL_ERR_BAD_MTYPE], false⟩
  | .trayStop =>
    ⟨evtRegs ++ lastRegs ++ histRegs ++ [.dies, .links, .rcv, .recov, .ofReg .rcv Reg.RCV_STATUS_LEVEL], false⟩
  | .oosClear =>
    ⟨evtRegs ++ refusalRegs ++ laneMapRegs ++ laneMapTxRegs ++ trainRegs ++ lastRegs ++ histRegs ++ unitBusyRegs
      ++ ethLinkRegs ++ attemptRegs ++ switchRegs ++ [.free, .inForce, .dies, .links, .tables, .poison, .ctxs,
      .fpLines, .pins, .rcv, .engs, .queues, .streams, .rdReqs, .hosts, .ldg, .fram, .boot, .chg, .recov,
      .ofReg .bal Reg.BAL_REF_HOPS, .ofReg .bal Reg.BAL_STATUS_BEAT_VALID, .ofReg .bal Reg.BAL_STATUS_IS_MASTER,
      .ofReg .boot Reg.BOOT_STATUS_PHASE, .ofReg .dma Reg.DMA_CTL_ENABLE, .ofReg .dma Reg.DMA_M_POS,
      .ofReg .eng Reg.ENG_CTL_ENABLE, .ofReg .eng Reg.ENG_CTX_STATE_ENGMASK, .ofReg .eng Reg.ENG_CTX_STATE_KIND,
      .ofReg .eng Reg.ENG_CTX_STATE_STATE, .ofReg .eng Reg.ENG_E_BUSY, .ofReg .fus Reg.FUS_BUF_USED,
      .ofReg .gtr Reg.GTR_CTL_ENABLE, .ofReg .gtr Reg.GTR_STATUS_LATE, .ofReg .gtr Reg.GTR_STATUS_NOFIT,
      .ofReg .gtr Reg.GTR_STATUS_VARIANT, .ofReg .ldg Reg.LDG_SEQ, .ofReg .ldg Reg.LDG_STATUS_HOLDOVER,
      .ofReg .ldg Reg.LDG_STATUS_STATE, .ofReg .ldg Reg.LDG_STATUS_TORN, .ofReg .mem Reg.MEM_POISON_MADE,
      .ofReg .mem Reg.MEM_STATUS_MODE_EFF, .ofReg .ptp Reg.PTP_UTC_IN_USE, .ofReg .pwr Reg.PWR_RESERVE,
      .ofReg .pwr Reg.PWR_RESERVE_FLOORS, .ofReg .rcv Reg.RCV_CULPRIT, .ofReg .rcv Reg.RCV_FAULTED,
      .ofReg .rcv Reg.RCV_HELD, .ofReg .rcv Reg.RCV_STATUS_LEVEL, .ofReg .rcv Reg.RCV_STATUS_OOS,
      .ofReg .seq Reg.SEQ_CTL_ENABLE, .ofReg .seq Reg.SEQ_Q_POS, .ofReg .syn Reg.SYN_BAR_ARRIVED,
      .ofReg .syn Reg.SYN_BAR_GEN, .ofReg .syn Reg.SYN_CTL_ENABLE, .ofReg .syn Reg.SYN_CTR_VALUE,
      .ofReg .tray Reg.TRY_STATUS_TVARIANT, .ofReg .tray Reg.TRY_STATUS_WIN_DONE,
      .ofReg .trayPort Reg.TRYP_PORT_CTL_ENABLE, .ofReg .trayPort Reg.TRYP_PORT_STATUS_REASON,
      .ofReg .trayPort Reg.TRYP_PORT_STATUS_REFUSED, .ofReg .trayPort Reg.TRYP_RETRY_LAST_RC], false⟩
  | .forceEngineReset .. | .forcePartitionReset .. | .forceChipReset .. =>
    ⟨evtRegs ++ refusalRegs ++ lastRegs ++ histRegs ++ [.dies, .links, .rcv, .recov,
      .ofReg .rcv Reg.RCV_FORCE_DIE, .ofReg .rcv Reg.RCV_FORCE_ENGINE, .ofReg .rcv Reg.RCV_FORCE_LEVEL,
      .ofReg .rcv Reg.RCV_STATUS_LEVEL, .ofReg .rcv Reg.RCV_STATUS_REASON, .ofReg .rcv Reg.RCV_STATUS_REFUSED,
      .ofReg .rcv Reg.RCV_SUSPECT_MASK], false⟩
  | .smbusWrite .. =>
    ⟨[.free, .resv, .shadow, .inForce, .dies, .links, .tables, .mem, .poison, .ctxs, .fpLines, .seeds, .pins,
      .topo, .rcv, .engs, .queues, .streams, .issued, .accepted, .failed, .seenIssued, .seenFailed, .nextTag,
      .fences, .rdReqs, .hosts, .ptp, .fus, .ldg, .fram, .boot, .chg, .tshadow, .recals, .landed, .recov], true⟩
  | .smbusRead =>
    ⟨evtRegs ++ [.free, .dies, .rdData, .beatHi, .boot, .ofReg .eth Reg.ETH_TBL_DATA_DATA,
      .ofReg .fus Reg.FUS_TBL_DATA_DATA, .ofReg .gtr Reg.GTR_TBL_DATA_DATA, .ofReg .ldg Reg.LDG_TBL_DATA_DATA,
      .ofReg .pci Reg.PCI_ERR_MS_UNREACH, .ofReg .tray Reg.TRY_TBL_DATA_DATA], false⟩
  | .msRead .. =>
    ⟨evtRegs ++ [.free, .dies, .rdData, .beatHi, .ofReg .eth Reg.ETH_TBL_DATA_DATA,
      .ofReg .fus Reg.FUS_TBL_DATA_DATA, .ofReg .gtr Reg.GTR_TBL_DATA_DATA, .ofReg .ldg Reg.LDG_TBL_DATA_DATA,
      .ofReg .pci Reg.PCI_ERR_MS_UNREACH, .ofReg .pci Reg.PCI_STATUS_MS_BAD_ACCESS,
      .ofReg .tray Reg.TRY_TBL_DATA_DATA], false⟩
  | .configurationRequest .. => ⟨[.free, .hosts], false⟩
  | .privateInstruction .. =>
    ⟨evtRegs ++ [.free, .dies, .rdData, .beatHi, .boot, .recov, .ofReg .eth Reg.ETH_TBL_DATA_DATA,
      .ofReg .fus Reg.FUS_TBL_DATA_DATA, .ofReg .gtr Reg.GTR_TBL_DATA_DATA, .ofReg .ldg Reg.LDG_TBL_DATA_DATA,
      .ofReg .pci Reg.PCI_ERR_MS_UNREACH, .ofReg .tray Reg.TRY_TBL_DATA_DATA], false⟩

end Sys2Proof.Machine
end

