-- ==== Sys2Proof/Safety.lean ====
section
/-! DEFINITION. What a run must keep to be safe. The block raises no fault of its own and refuses no command, so a run is
safe when its state stays in the form that lets states be compared: memories canonical, registers listed once, logs within
their ring. -/

namespace Sys2Proof.Machine

/-- No die's error log holds more records than its ring (R440). -/
def LogsBounded (s : State) : Prop := ∀ p ∈ s.dies, p.2.log.length ≤ 4096

/-- The form a state keeps. -/
structure Inv (s : State) : Prop where
  /-- Package memory is canonical. -/
  mem : Memory.wf s.mem = true
  /-- The ledger's FRAM is canonical. -/
  fram : Memory.wf s.fram = true
  /-- The poison flags are canonical. -/
  poison : Tab.wf false s.poison = true
  /-- Register fields are listed once, by rising address. -/
  regs : Tab.risingFrom 0 s.regs
  /-- Error logs stay within their rings. -/
  logs : LogsBounded s

/-- The command is carried out: it answers a next state, of which `P` holds. -/
def Does (c : Instr) (s : State) (P : State → Prop) : Prop := ∃ t, exec c s = .next t ∧ P t

/-- A command leaves the queue and the clock alone, and every part of the state that its frame does not list. -/
def KeepsRest (c : Instr) : Prop := ∀ s t, exec c s = .next t →
  t.pending = s.pending ∧ t.time = s.time ∧ ∀ x, (touched c).has x = false → x.same s t

/-- Every byte of package memory outside `n` bytes from `a` on reads as before. -/
def MemOutside (s t : State) (a n : Nat) : Prop := ∀ x, x < a ∨ a + n ≤ x → t.rdByte x = s.rdByte x

/-- The ranges of tray addresses that the completion of a descriptor stores to (R221, R234, R238): of each result, of each row of a
move, and of each summary that what it appends completes. -/
def State.descStores (s : State) (d : Die) (u : Nat) (x : Desc) : List (Nat × Nat) :=
  (match x.op.work with
   | .move m => match m.dst with
     | .mem a => (List.range (m.rows1.val + 1)).map fun r => (a + r * m.dstPitch, m.width)
     | .host _ _ => []
   | w => (results (s.unitByte d u) w).map fun p => (p.1, p.2.length)) ++
  match x.op.appends with
  | some (q, n) => (blocksDone (Tab.get 0 s.heads q.elems.base) n).flatMap fun b =>
      (summaryOf (s.unitByte d u) q b).map fun p => (p.1, p.2.length)
  | none => []

/-- A step that ends in neither a fault nor a refusal. -/
def Runs (s : State) : Prop := ∃ t, step s = .next t

end Sys2Proof.Machine
end

