-- ==== Sys2Proof/Certificates/Slice0/Obligations.lean ====
section
/-! DEFINITION. The statements for the provers. The first forty say of each command that it answers a next state under
hypotheses on the state and the operands alone, and what that state holds; then come the frames, what memory each command
may change, the machine, and three rules of the manual as they stand. -/

open Sys2Proof Sys2Proof.Machine

/-- The lock of a beat PLL, and the load and synchronisation of `BEAT`, do what they are for. Rests on R34, R36 to R40,
R43. Each clause says for one form, under hypotheses on the state and the operands alone, that the command answers a next
state and what that state holds. -/
def Obligations.BeatCommandsComplete : Prop :=
(∀ (p : Path) (d : Die) (s : State), s.deadRead p d .bal = none →
    Does (.beatLoRead p d) s fun t => Tab.get 0 t.rdData (pathCode p) = s.beat d % 2 ^ 32 ∧
      Tab.get 0 t.beatHi (pathCode p) = s.beat d / 2 ^ 32) ∧
  (∀ (d : Die) (s : State), s.pllSeeks d = true → s.time ≤ s.pllLimit d →
    Does (.pllLock d) s fun t => (t.die d).beat = 0 ∧ (t.die d).run = true ∧ t.isF d .bal 0 Reg.BAL_STATUS_PLL_LOCK = true) ∧
  (∀ (m : Mv) (s : State), s.isF cr0 .bal 0 Reg.BAL_STATUS_BEAT_VALID = true →
    stSync ≤ s.lst (spCrown m 0) ∧ s.lst (spCrown m 0) ≤ stDegraded →
    Does (.beatLoadSend (.mv m)) s fun t => (t.link (spCrown m 0)).q = (s.link (spCrown m 0)).q ++
      [{ mtype := 0x09, body := 0, mseq := (s.link (spCrown m 0)).mseq }]) ∧
  (∀ s : State, s.isF cr0 .bal 0 Reg.BAL_STATUS_BEAT_VALID = true → s.x2 = true →
    stSync ≤ s.lst (spCrown 0 0) ∧ s.lst (spCrown 0 0) ≤ stDegraded →
    Does (.beatLoadSend (.cr 1)) s fun t => (t.link (spCrown 0 0)).q = (s.link (spCrown 0 0)).q ++
      [{ mtype := 0x09, body := 0, mseq := (s.link (spCrown 0 0)).mseq }]) ∧
  (∀ (d : Die) (sl : Fin 4) (r : SbSlot) (box : Nat) (u s : State), s.isF d .bal 0 Reg.BAL_STATUS_BEAT_VALID = false →
    s.sbTakesFirst (.ikl d sl) r 0x09 true = (some box, u) → u.isF d .bal 0 Reg.BAL_STATUS_BEAT_VALID = false →
    Does (.beatLoad (.ikl d sl) r) s fun t => (t.die d).beat = bitsOf box 14 64 + 8 ∧
      t.isF d .bal 0 Reg.BAL_STATUS_BEAT_VALID = true) ∧
  (∀ (n : Fin 8) (r : SbSlot) (box : Nat) (u s : State), s.sbTakesFirst (.tray n) r 0x09 true = (some box, u) →
    u.isF cr0 .bal 0 Reg.BAL_STATUS_BEAT_VALID = false → u.isSyncPort n = true → (u.link (.tray n)).peerBv = true →
    stSync ≤ u.lst (.tray n) → u.lst (.tray n) ≤ stDegraded →
    Does (.beatLoad (.tray n) r) s fun t => (t.die cr0).beat = bitsOf box 14 64 ∧
      (t.die cr0).phaseTrim = (u.die cr0).phaseTrim + bitsOf box 78 5 ∧ t.isF cr0 .bal 0 Reg.BAL_STATUS_BEAT_VALID = true)

/-- An attempt asks, the follower echoes, the answer in time ends the attempt and earns the peer its load, or trims the
follower, and 12,800 beats without an answer count one failure. Rests on R39, R40, R43. Each clause says for one form,
under hypotheses on the state and the operands alone, that the command answers a next state and what that state holds. -/
def Obligations.BeatSyncCommandsComplete : Prop :=
(∀ (n : Fin 8) (s : State), s.isF (leDie (.tray n)) .bal 0 Reg.BAL_STATUS_BEAT_VALID = true → 2 ≤ s.balProfile →
    s.boot.alone = false →
    (s.atFrame (leDie (.tray n)) = true ∧ s.leadsAway n = true ∧ (s.link (.tray n)).peerBv = false ∨
      s.atTurn (leDie (.tray n)) = true ∧ s.isActivePort n = true) →
    (s.link (.tray n)).syncReq = 0 → (s.link (.tray n)).syncWait = false → (s.link (.tray n)).syncFails < 64 →
    stSync ≤ s.lst (.tray n) → s.lst (.tray n) ≤ stDegraded →
    Does (.beatSyncAttempt n) s fun t => (t.link (.tray n)).syncWait = true ∧
      (t.link (.tray n)).q = (s.link (.tray n)).q ++ [{ mtype := 0x0A, body := 0 }]) ∧
  (∀ (n : Fin 8) (r : SbSlot) (box : Nat) (u s : State), s.sbTakes (.tray n) r 0x0A true = (some box, u) →
    Does (.beatSyncReq n r) s fun t => (t.link (.tray n)).q = (u.link (.tray n)).q ++
      [{ mtype := 0x0B, body := bitsOf box 6 64 * 2 ^ 6, aux := u.beat (leDie (.tray n)) }]) ∧
  (∀ (n : Fin 8) (r : SbSlot) (stamp : Fin 32) (err : Int) (box rt : Nat) (u s : State),
    s.sbTakes (.tray n) r 0x0B true = (some box, u) → (u.link (.tray n)).syncReq ≠ 0 →
    ((u.link (.tray n)).syncReq - 1) % 2 ^ 64 = bitsOf box 6 64 →
    u.beat (leDie (.tray n)) ≤ (u.link (.tray n)).syncReq - 1 + 12800 → u.isActivePort n = false →
    rt = 32 * (u.beat (leDie (.tray n)) - ((u.link (.tray n)).syncReq - 1)) + stamp.val →
    Does (.beatSyncResp n r stamp err) s fun t => (t.link (.tray n)).syncReq = 0 ∧ (t.link (.tray n)).syncFails = 0 ∧
      (t.link (.tray n)).peerLoaded = true ∧ (t.link (.tray n)).q = (u.link (.tray n)).q ++
        [{ mtype := 0x09, body := 0, aux := (rt - 32 * bitsOf box 70 16) / 2, mseq := (u.link (.tray n)).mseq }]) ∧
  (∀ (n : Fin 8) (r : SbSlot) (stamp : Fin 32) (err : Int) (box : Nat) (u s : State),
    s.sbTakes (.tray n) r 0x0B true = (some box, u) → (u.link (.tray n)).syncReq ≠ 0 →
    ((u.link (.tray n)).syncReq - 1) % 2 ^ 64 = bitsOf box 6 64 →
    u.beat (leDie (.tray n)) ≤ (u.link (.tray n)).syncReq - 1 + 12800 → u.isActivePort n = true → u.balProfile = 2 →
    err.natAbs ≤ 32 →
    Does (.beatSyncResp n r stamp err) s fun t => (t.link (.tray n)).syncReq = 0 ∧
      (t.die cr0).phaseTrim = (u.die cr0).phaseTrim - max (-1) (min 1 err)) ∧
  (∀ (n : Fin 8) (s : State), (s.link (.tray n)).syncReq ≠ 0 →
    (s.link (.tray n)).syncReq - 1 + 12800 ≤ s.beat (leDie (.tray n)) → (s.link (.tray n)).syncFails + 1 ≠ 64 →
    Does (.beatSyncTimeout n) s fun t => (t.link (.tray n)).syncReq = 0 ∧
      (t.link (.tray n)).syncFails = (s.link (.tray n)).syncFails + 1)

/-- A follower that loses its sync ports, and the map to TAI on its way from the servo to a die. Rests on R44, R46 to
R48, R148. Each clause says for one form, under hypotheses on the state and the operands alone, that the command answers
a next state and what that state holds. -/
def Obligations.TimeServiceCommandsComplete : Prop :=
(∀ s : State, s.isFollower = true → s.isF cr0 .bal 0 Reg.BAL_REF_PORT_VALID = true →
    s.lst (.tray (Fin.ofNat 8 (s.getF cr0 .bal 0 Reg.BAL_REF_ACTIVE_PORT))) ≠ stLive →
    (∀ n, s.isSyncPort n = true → s.lst (.tray n) ≠ stLive) →
    Does .syncPortLoss s fun t => t.sync.frozen = true ∧ t.isF cr0 .bal 0 Reg.BAL_REF_PORT_VALID = false ∧ t.sync.noPort ≠ 0) ∧
  (∀ (n : Fin 8) (s : State), s.isFollower = true → s.isF cr0 .bal 0 Reg.BAL_REF_PORT_VALID = true →
    s.lst (.tray (Fin.ofNat 8 (s.getF cr0 .bal 0 Reg.BAL_REF_ACTIVE_PORT))) ≠ stLive →
    s.isSyncPort n = true → s.lst (.tray n) = stLive → (∀ k < n, s.isSyncPort k = true → s.lst (.tray k) ≠ stLive) →
    Does .syncPortLoss s fun t => t.getF cr0 .bal 0 Reg.BAL_REF_ACTIVE_PORT = n.val ∧ t.sync.frozen = false ∧
      t.isF cr0 .bal 0 Reg.BAL_REF_PORT_VALID = true) ∧
  (∀ s : State, s.isFollower = true → s.sync.noPort ≠ 0 → s.sync.noPort - 1 + turnBeats ≤ s.time →
    Does .syncHoldoverExpiry s fun t => t.sync.noPort = 0 ∧ ∀ n : Fin 8, (t.link (.tray n)).scStop = true) ∧
  (∀ s : State, s.atTurn cr0 = true → s.isF cr0 .bal 0 Reg.BAL_STATUS_IS_MASTER = true → s.sync.sample = true → s.sync.next = none →
    Does .servoMapUpdate s fun t => t.sync.sample = false ∧ t.sync.epoch = (s.sync.epoch + 1) % 4 ∧
      t.sync.next = some (s.servoMap (s.beat cr0 + turnBeats))) ∧
  (∀ (m : Nat × Nat × Nat) (s : State), s.atTurn cr0 = true → s.isF cr0 .bal 0 Reg.BAL_STATUS_IS_MASTER = true →
    s.sync.sample = false → s.sync.next = some m →
    Does .servoMapUpdate s fun t => t.sync.next = none ∧ t.getF cr0 .bal 0 Reg.BAL_RATE = m.2.2 % 2 ^ 32) ∧
  (∀ (e : LinkEnd) (own : Nat × Nat × Nat) (s : State), (s.die cr0).map0 = none → own = s.sync.next.getD s.cr0Map →
    Does (.taiMapSend e) s fun t => ∃ b0 b1, (t.link e).q = (s.link e).q ++
      [{ mtype := 0x1A, body := b0 }, { mtype := 0x1B, body := b1 }] ∧
      b0 / 2 ^ 6 % 2 ^ 64 = own.1 % 2 ^ 64 ∧ b1 / 2 ^ 6 % 2 ^ 64 = own.2.1 % 2 ^ 64 ∧ b0 / 2 ^ 70 % 2 ^ 32 = own.2.2 % 2 ^ 32) ∧
  (∀ (e : LinkEnd) (ab rate ep a : Nat) (v h : Bool) (s : State), (s.die cr0).map0 = some (ab, rate, ep) →
    (s.die cr0).map1 = some (a, ep, v, h) →
    Does (.taiMapSend e) s fun t => ∃ b0 b1, (t.link e).q = (s.link e).q ++
      [{ mtype := 0x1A, body := b0 }, { mtype := 0x1B, body := b1 }] ∧
      b0 / 2 ^ 6 % 2 ^ 64 = ab % 2 ^ 64 ∧ b1 / 2 ^ 6 % 2 ^ 64 = a % 2 ^ 64 ∧ b0 / 2 ^ 70 % 2 ^ 32 = rate % 2 ^ 32) ∧
  (∀ (d : Die) (s : State) (ab rate ep a : Nat) (v h : Bool), s.atTurn d = true →
    (s.die d).map0 = some (ab, rate, ep) → (s.die d).map1 = some (a, ep, v, h) →
    Does (.taiMapApply d) s fun t => (t.die d).tai = (ab, a, rate) ∧ (t.die d).map0 = none ∧ (t.die d).map1 = none)

/-- A stale crossing is recorded, the pointer handshake names and keeps a frame, and the joint reset of an FP link is
asked for and released. Rests on R54, R55, R57. Each clause says for one form, under hypotheses on the state and the
operands alone, that the command answers a next state and what that state holds. -/
def Obligations.CrossingCommandsComplete : Prop :=
(∀ (d : Die) (kind : Fin 5) (blk inst : Nat) (s : State), s.staleAt d kind.val blk inst = false →
    Does (.cdcStale d kind blk inst) s fun t =>
      (t.die d).stale = (s.die d).stale ++ [(kind.val, blk, inst, s.time)] ∧ t.isF d .bal 0 Reg.BAL_STATUS_CDC_STALE = true) ∧
  (∀ (e : LinkEnd) (r : SbSlot) (box : Nat) (u s : State), s.sbTakes e r 0x07 = (some box, u) →
    Does (.ptrReq e r) s fun t => (t.link e).ptrOwe = u.frame (leDie e) + 1) ∧
  (∀ (e : LinkEnd) (r : SbSlot) (box : Nat) (u s : State), s.sbTakes e r 0x08 = (some box, u) → (u.link e).ptrReqAt ≠ 0 →
    Does (.ptrResp e r) s fun t => (t.link e).ptrFrame = bitsOf box 6 32 + 1) ∧
  (∀ (e : LinkEnd) (s : State), (s.link e).ptrFrame ≠ 0 → (s.link e).ptrSet = false → s.atFrame (leDie e) = true →
    s.frame (leDie e) % 2 ^ 32 = ((s.link e).ptrFrame - 1) % 2 ^ 32 →
    Does (.pointerSet e) s fun t => (t.link e).ptrSet = true ∧ (t.link e).ptrReqAt = 0) ∧
  (∀ (c : Crown) (sl : Fin 4) (s : State), (s.link (.ikl (.cr c) sl)).ptrReqAt ≠ 0 →
    (s.link (.ikl (.cr c) sl)).ptrSet = false → (s.link (.ikl (.cr c) sl)).ptrReqAt - 1 + turnBeats ≤ s.time →
    s.getF (.cr c) .ikl sl.val Reg.IKL_LL_STATUS_ATTEMPTS + 1 < s.trainMax (.ikl (.cr c) sl) →
    Does (.ptrHandshakeTimeout (.ikl (.cr c) sl)) s fun t => t.lst (.ikl (.cr c) sl) = stReset) ∧
  (∀ (c : Crown) (sl : Fin 4) (r : SbSlot) (box : Nat) (u s : State),
    s.sbTakesFirst (.ikl (.cr c) sl) r 0x14 = (some box, u) →
    Does (.fpResetReq (.ikl (.cr c) sl) r) s fun t => (t.fpLine (bitsOf box 14 2)).asserted = true) ∧
  (∀ (m : Mv) (sl : Fin 4) (r : SbSlot) (box : Nat) (u s : State), s.sbTakesFirst (.ikl (.mv m) sl) r 0x14 = (some box, u) →
    Does (.fpResetReq (.ikl (.mv m) sl) r) s fun t => (t.link (spMv m 0)).q = (u.link (spMv m 0)).q ++
      [{ mtype := 0x14, body := bitsOf box 14 2 * 2 ^ 14, mseq := (u.link (spMv m 0)).mseq }]) ∧
  (∀ (f : Fin 4) (s : State), (s.fpLine f.val).asserted = true → (s.fpLine f.val).since + 2 * frameBeats ≤ s.time →
    s.atFrame cr0 = true → Does (.fpJointResetRelease f) s fun t => (t.fpLine f.val).asserted = false)

/-- The states of training of a link end, from its reset to its pinned depths. Rests on R81, R92, R96 to R98, R124. Each
clause says for one form, under hypotheses on the state and the operands alone, that the command answers a next state and
what that state holds. -/
def Obligations.TrainingCommandsComplete : Prop :=
(∀ (e : LinkEnd) (s : State), isTray e = false → s.lst e = stReset → s.enabled .cal (leDie e) (leInst e) = true →
    (isFp e = true → (s.link e).jointFree = true ∧ (s.fpLine (linkCode e)).asserted = false) →
    (isFp e = false → (s.link e).noPartner = 0 ∨ (s.link e).noPartner - 1 + 16 * turnBeats ≤ s.time) →
    Does (.resetRetry e) s fun t => (t.link e).since = s.time ∧ (t.link e).calAt = s.time ∧ (t.link e).testDone = false) ∧
  (∀ (e : LinkEnd) (b : Fin 16) (bits : List (List Bool)) (eyes taps snr : List Nat) (s : State), isTray e = false →
    s.lst e = stCalib → s.calOut e b = false → (s.bun e b).search.mode = 1 →
    (s.bun e b).search.at_ + s.dwellFrames e * frameBeats ≤ s.time →
    (s.bun e b).search.point + 1 < ((searchPlan (isFp e) false).getD (s.bun e b).search.step (0, 0)).2 →
    Does (.searchPointEnd e b bits eyes taps snr) s fun t => (t.bun e b).search.point = (s.bun e b).search.point + 1 ∧
      (t.bun e b).search.at_ = s.time ∧ ∃ pass, (t.bun e b).search.hist = (pass, 0) :: (s.bun e b).search.hist ∧
        ∀ c < 21, bit pass c = !(laneErrs false false (s.laneCode e b c) (bits.getD c [])).any id) ∧
  (∀ (n : Fin 8) (b : Fin 16) (bits : List (List Bool)) (eyes taps snr : List Nat) (c : Nat) (s : State),
    s.lst (.tray n) = stCalib → (s.bun (.tray n) b).search.mode = 1 → c < 9 → s.laneUsed (.tray n) 0 c = true →
    taps.getD c 0 % 16 = c →
    Does (.searchPointEnd (.tray n) b bits eyes taps snr) s fun t => (t.bun (.tray n) 0).search.mode = 3 ∧
      t.getF (leDie (.tray n)) .trayPort (leInst (.tray n)) Reg.TRYP_COEF_TXPRE (8 * c) = c) ∧
  (∀ (e : LinkEnd) (bits : List (List (List Bool))) (s : State), s.lst e = stLanetest → (s.link e).testDone = false →
    (∀ b ∈ s.live e, (s.bun e b).tested = true ∨ (s.bun e b).search.mode = 3 ∧
      (isTray e = true ∨ (s.bun e b).search.seeded = false) ∧ (s.bun e b).testAt ≠ 0 ∧
      (s.bun e b).testAt - 1 + s.testTurns e b * turnBeats ≤ s.time) →
    Does (.lanetestEnd e bits) s fun t => (t.link e).testDone = true ∧ (t.link e).testDoneAt = s.time) ∧
  (∀ (e : LinkEnd) (s : State), s.lst e = stLanetest → (s.link e).testDone = true → (s.link e).gotDone = true →
    s.atFrame (leDie e) = true → s.live e ≠ [] →
    (∀ b ∈ s.live e, (laneMapOf e (s.rxMap e b) (s.bun e b).testBad).retired = false) →
    Does (.lanetestExit e) s fun t => t.lst e = stDeskew) ∧
  (∀ (e : LinkEnd) (r : SbSlot) (box b : Nat) (u s : State), s.sbTakesFirst e r 0x10 = (some box, u) →
    bitsOf box 14 4 = b → b < nBundles e →
    Does (.lanemap e r) s fun t => (t.bun e b).txPend =
      some ⟨bitsOf box 18 5, bit box 23, bitsOf box 24 5, bit box 29, bit box 30⟩) ∧
  (∀ (e : LinkEnd) (b : Nat) (m : LaneMap) (s : State), s.atFrame (leDie e) = true → b < nBundles e →
    (s.bun e b).txPend = some m → (s.bun e b).txAckAt ≠ 0 → (s.bun e b).txAckAt - 1 ≤ s.time → m.retired = false →
    Does (.lanemapApply e) s fun t => (t.bun e b).txPend = none ∧ (t.bun e b).txApplied = true) ∧
  (∀ (e : LinkEnd) (r : SbSlot) (box : Nat) (u s : State), s.sbTakes e r 0x05 = (some box, u) →
    Does (.pinProbe e r) s fun t => (t.link e).q = (u.link e).q ++
      [{ mtype := 0x06, body := bitsOf box 6 8 * 2 ^ 6, aux := u.time }]) ∧
  (∀ (e : LinkEnd) (r : SbSlot) (arrivals : List Nat) (box lead : Nat) (rt : Int) (u s : State),
    s.sbTakes e r 0x06 = (some box, u) → u.lst e = stPin → (u.link e).probeAt ≠ 0 →
    bitsOf box 6 8 = (u.link e).probeId % 256 →
    lead = (if isTray e then 0 else u.getF (leDie e) .ikl (leInst e) Reg.IKL_PHY_STATUS_LEAD) →
    rt = (arrivals.getD lead 0 : Int) - ((u.link e).probeAt - 1 : Nat) - bitsOf box 14 16 →
    (∀ b ∈ u.live e, 1 ≤ depthFor e (u.latL e)
      (-((2 * (finBeats e : Int) - rt).fdiv 2) + ((arrivals.getD b 0 : Int) - arrivals.getD lead 0))) →
    Does (.pinEcho e r arrivals) s fun t => (t.link e).pinned = true ∧ (t.link e).probeAt = 0)

/-- Losses are joined at a turn boundary, notices make a loss known, and the schedule ports store and load the record
they select. Rests on R154, R160, R162 to R165, R206 to R208, R212. Each clause says for one form, under hypotheses on
the state and the operands alone, that the command answers a next state and what that state holds. -/
def Obligations.GearTrainCommandsComplete : Prop :=
(∀ (d : Die) (s : State), s.hasDie d = true → s.atTurn d = true →
    Does (.variantSelect d) s fun t => ∀ l ∈ (t.die d).losses, l.link < 16 → l.joinAt ≤ s.beat d → l.joined = true) ∧
  (∀ (c : Crown) (s : State), s.hasDie (.cr c) = true → s.atTurn (.cr c) = true →
    Does (.trayVariantSelect c) s fun t =>
      ∀ l ∈ (t.die (.cr c)).losses, 16 ≤ l.link → l.joinAt ≤ s.beat (.cr c) → l.joined = true) ∧
  (∀ (e : LinkEnd) (p : List Byte) (s : State), noticeCode p = 0x47 → noticeA p < 12 → noticeB p < 16 →
    (∀ l ∈ (s.die (leDie e)).losses, ¬(l.link = noticeA p ∧ l.bundle = noticeB p ∧ l.decl = noticeDecl p)) →
    Does (.lossNotice e p) s fun t =>
      ∃ j, ⟨noticeA p, noticeB p, noticeDecl p, j, false⟩ ∈ (t.die (leDie e)).losses) ∧
  (∀ (e : LinkEnd) (p : List Byte) (pkg port : Nat) (s : State), noticeCode p = 0x48 → noticeA p % 16 = pkg →
    noticeB p % 8 = port → (16 * pkg + port, noticeDecl p) ∉ (s.die (leDie e)).seenLoss →
    (∀ l ∈ (s.die (leDie e)).losses, ¬(l.link = 16 + pkg ∧ l.bundle = port ∧ l.joined = false)) →
    Does (.trayLossNotice e p) s fun t => (16 * pkg + port, noticeDecl p) ∈ (t.die (leDie e)).seenLoss ∧
      ∃ j, ⟨16 + pkg, port, noticeDecl p, j, false⟩ ∈ (t.die (leDie e)).losses) ∧
  (∀ (d : Die) (w : Word) (sp bank dir slot idx : Nat) (s : State), s.hasDie d = true → s.powered d .gtr = true →
    s.portSel d false = (sp, bank, dir, slot, idx) → idx < spaceSize sp → bank ≠ s.bank d → ¬(sp = 2 ∧ idx = 0) →
    Does (.gtrTableWrite d w) s fun t => t.tbl (storeSpace false sp) (dieCode d) bank dir slot idx =
      s.getF d .gtr 0 Reg.GTR_TBL_DATA_DATA 0 + 2 ^ 32 * s.getF d .gtr 0 Reg.GTR_TBL_DATA_DATA 4 +
        2 ^ 64 * s.getF d .gtr 0 Reg.GTR_TBL_DATA_DATA 8 + 2 ^ 96 * w.toNat) ∧
  (∀ (p : Path) (d : Die) (sp bank dir slot idx : Nat) (s : State), s.deadRead p d .gtr = none →
    s.portSel d false = (sp, bank, dir, slot, idx) → idx < spaceSize sp → ¬(sp = 2 ∧ idx = 0) →
    Does (.gtrTableRead p d) s fun t => Tab.get 0 t.rdData (pathCode p) =
      s.tbl (storeSpace false sp) (dieCode d) bank dir slot idx % 2 ^ 32) ∧
  (∀ (c : Crown) (w : Word) (sp bank dir slot idx : Nat) (s : State), s.hasDie (.cr c) = true →
    s.powered (.cr c) .tray = true → s.portSel (.cr c) true = (sp, bank, dir, slot, idx) → idx < spaceSize sp →
    bank ≠ s.bank (.cr c) → ¬(sp = 2 ∧ idx = 0) →
    Does (.tryTableWrite c w) s fun t => t.tbl (storeSpace true sp) (dieCode (.cr c)) bank dir slot idx =
      s.getF (.cr c) .tray 0 Reg.TRY_TBL_DATA_DATA 0 + 2 ^ 32 * s.getF (.cr c) .tray 0 Reg.TRY_TBL_DATA_DATA 4 +
        2 ^ 64 * s.getF (.cr c) .tray 0 Reg.TRY_TBL_DATA_DATA 8 + 2 ^ 96 * w.toNat) ∧
  (∀ (p : Path) (c : Crown) (sp bank dir slot idx : Nat) (s : State), s.deadRead p (.cr c) .tray = none →
    s.portSel (.cr c) true = (sp, bank, dir, slot, idx) → idx < spaceSize sp → ¬(sp = 2 ∧ idx = 0) →
    Does (.tryTableRead p c) s fun t => Tab.get 0 t.rdData (pathCode p) =
      s.tbl (storeSpace true sp) (dieCode (.cr c)) bank dir slot idx % 2 ^ 32)

/-- A failed lane moves to a jewel: the receiver asks, the transmitter notes the repair, streams on the jewel, both take
over at the turn E. Rests on R106, R109, R110, R64. Each clause says for one form, under hypotheses on the state and the
operands alone, that the command answers a next state and what that state holds. -/
def Obligations.LaneRepairCommandsComplete : Prop :=
(∀ (e : LinkEnd) (b : Fin 16) (lane : Fin 21) (ui l j : Nat) (js : List Nat) (s : State), s.inService e = true → 256 ≤ ui →
    b.val < nBundles e → lane.val < nMain e → s.retired e b = false → logicalLane e (s.rxMap e b) lane = some l →
    l ∉ (s.bun e b).failed → s.freeJewels e b = j :: js →
    Does (.laneNoTransition e b lane ui) s fun t => (t.bun e b).failed = (s.bun e b).failed ++ [l] ∧
      (t.bun e b).repairs = (s.bun e b).repairs ++ [⟨l, j, turnAfter frameBeats (s.beat (leDie e)) / turnBeats, 0⟩]) ∧
  (∀ (e : LinkEnd) (r : SbSlot) (box : Nat) (u s : State), s.sbTakesFirst e r 0x11 = (some box, u) →
    bitsOf box 14 4 < nBundles e →
    Does (.laneRepair e r) s fun t => ∃ q ∈ (t.bun e (bitsOf box 14 4)).txRepairs, q.lane = bitsOf box 18 5 ∧
      q.jewel = bitsOf box 23 1 ∧ q.eff = bitsOf box 24 43 ∧ q.mseq = bitsOf box 6 8) ∧
  (∀ (e : LinkEnd) (b : Fin 16) (s : State), s.atFrame (leDie e) = true →
    Does (.jewelStreamStart e b) s fun t => ∀ r ∈ (s.bun e b).txRepairs, r.sent ≠ 0 → r.sent ≤ s.frame (leDie e) →
      { r with stream := true } ∈ (t.bun e b).txRepairs) ∧
  (∀ (e : LinkEnd) (b : Fin 16) (lane j eff ack : Nat) (s : State), s.atTurn (leDie e) = true →
    (s.bun e b).repairs = [⟨lane, j, eff, ack⟩] → eff ≤ s.turn (leDie e) → ack ≠ 0 → ack - 1 + frameBeats ≤ s.time →
    Does (.laneRepairTakeover e b) s fun t => (t.bun e b).repairs = [] ∧ lane ∉ (t.bun e b).failed) ∧
  (∀ (e : LinkEnd) (b : Fin 16) (s : State), s.atTurn (leDie e) = true →
    Does (.laneRepairTxCutover e b) s fun t => ∀ r ∈ (s.bun e b).txRepairs, r.sent ≠ 0 → r.eff ≤ s.turn (leDie e) →
      r.lane ∈ (t.bun e b).low ∧ r ∉ (t.bun e b).txRepairs) ∧
  (∀ (e : LinkEnd) (b : Fin 16) (jewel : Fin 2) (delay thresh : Fin 3) (bits : List Bool) (c : Nat) (s : State),
    s.atTurn (leDie e) = true → s.inService e = true → isTray e = false → b.val < nBundles e →
    jewel.val ∈ s.freeJewels e b → c = nMain e + jewel →
    s.winErr e b c + errCount (laneErrs false false c bits) ≤ s.laneThresh e b c →
    Does (.jewelRecentre e b jewel delay thresh bits) s fun t =>
      t.tap e b c Reg.IKL_COEF_DELAY = stepTap 64 (s.tap e b c Reg.IKL_COEF_DELAY) delay)

/-- The windows of the error counts, CK counts in range, the retirement of a bundle, a good marker, and the limit of a
training state. Rests on R82, R83, R105, R72, R149, R202. Each clause says for one form, under hypotheses on the state
and the operands alone, that the command answers a next state and what that state holds. -/
def Obligations.LinkWatchCommandsComplete : Prop :=
(∀ (e : LinkEnd) (s : State), s.atTurn (leDie e) = true → s.turn (leDie e) % s.errWindow e = 0 →
    Does (.errWindowRoll e) s fun t => ∀ b c, b < nBundles e → c < nLanes e → t.winErr e b c = 0) ∧
  (∀ (e : LinkEnd) (counts : List Nat) (s : State), isTray e = false → s.atFrame (leDie e) = true →
    (∀ b ∈ s.live e, bit (s.getF (leDie e) .ikl (leInst e) Reg.IKL_BUNDLE_EN_EN) b = true → ckOk (counts.getD b 0) = true) →
    Does (.ckCountCheck e counts) s fun t => ∀ b ∈ s.live e,
      bit (s.getF (leDie e) .ikl (leInst e) Reg.IKL_BUNDLE_EN_EN) b = true → (t.bun e b).ckBad = 0) ∧
  (∀ (e : LinkEnd) (r : SbSlot) (box b : Nat) (u s : State), s.sbTakesFirst e r 0x12 = (some box, u) → bitsOf box 14 4 = b →
    b < nBundles e → u.retired e b = false → (u.bun e b).stopAt = none →
    Does (.bundleRetire e r) s fun t => (t.bun e b).stopAt = some (u.frame (leDie e) + 1)) ∧
  (∀ (e : LinkEnd) (b : Fin 16) (f : Nat) (s : State), (s.bun e b).stopAt = some f → s.atFrame (leDie e) = true →
    f ≤ s.frame (leDie e) →
    Does (.bundleTxStop e b) s fun t => (t.bun e b).stopAt = none ∧ (t.bun e b).dying = false ∧
      (t.bun e b).rxStop = some ((s.bun e b).rxStop.getD (s.beat (leDie e))) ∧
      (t.bun e b).finalEs = (s.bun e b).es ∧ (t.bun e b).finalOk = true) ∧
  (∀ (d : Die) (sl : Fin 4) (b : Fin 16) (seg frame flags : Nat) (s : State), s.lst (.ikl d sl) = stLanetest →
    b.val < nBundles (.ikl d sl) → s.retired (.ikl d sl) b = false → readMarker seg = some (frame, flags) →
    (s.bun (.ikl d sl) b).markOk s.time frame = true →
    Does (.frameMarker (.ikl d sl) b seg) s fun t => (t.bun (.ikl d sl) b).lastFrame = frame + 1 ∧
      (bit flags 3 = true → 3 ≤ (s.bun (.ikl d sl) b).good → (s.bun (.ikl d sl) b).badRun = 0 →
        (s.bun (.ikl d sl) b).lastFrame ≠ 0 → (t.link (.ikl d sl)).gotDone = true)) ∧
  (∀ (n : Fin 8) (c : Fin 16) (seg frame flags : Nat) (s : State), s.lst (.tray n) = stLanetest → c.val < 9 →
    readBlock ((logicalLane (.tray n) (s.useMap (.tray n) 0) c).getD c) seg = some (frame, flags) →
    (s.bun (.tray n) (16 + c)).markOk s.time frame = true →
    Does (.frameMarker (.tray n) c seg) s fun t => (t.bun (.tray n) (16 + c)).lastFrame = frame + 1 ∧
      (t.link (.tray n)).peerBv = bit flags 1) ∧
  (∀ (d : Die) (sl : Fin 4) (s : State), s.lst (.ikl d sl) = stDeskew → turnBeats ≤ s.inState (.ikl d sl) →
    s.getF d .ikl sl.val Reg.IKL_LL_STATUS_ATTEMPTS + 1 < s.trainMax (.ikl d sl) →
    Does (.trainingTimeout (.ikl d sl)) s fun t => t.lst (.ikl d sl) = stReset) ∧
  (∀ (n : Fin 8) (s : State), s.lst (.tray n) = stDeskew → turnBeats ≤ s.inState (.tray n) →
    Does (.trainingTimeout (.tray n)) s fun t => t.lst (.tray n) = stListen)

/-- A sideband slot carries what its place in the frame gives it, a container is taken from a bundle whose copy is good,
and an acknowledged message is repeated until its SB_ACK or its limit. Rests on R73, R143 to R148. Each clause says for
one form, under hypotheses on the state and the operands alone, that the command answers a next state and what that state
holds. -/
def Obligations.SidebandCommandsComplete : Prop :=
(∀ (e : LinkEnd) (r : SbSlot) (box : Nat) (u s : State), s.slotDue e r.slot = true → s.sbReceive e r = (some box, u) →
    bitsOf box 0 6 = 0 → Does (.sidebandContainer e r) s fun t => t = u ∧ (t.link e).lastBox = box) ∧
  (∀ (e : LinkEnd) (r : SbSlot) (box : Nat) (u s : State), s.slotDue e r.slot = true → s.sbReceive e r = (some box, u) →
    bitsOf box 0 6 = 0x1A → Does (.sidebandContainer e r) s fun t =>
      (t.die (leDie e)).map0 = some (bitsOf box 6 64, bitsOf box 70 32, bitsOf box 102 2)) ∧
  (∀ (e : LinkEnd) (r : SbSlot) (box : Nat) (u s : State), s.slotDue e r.slot = true → s.sbReceive e r = (some box, u) →
    bitsOf box 0 6 = 0x1B → Does (.sidebandContainer e r) s fun t =>
      (t.die (leDie e)).map1 = some (bitsOf box 6 64, bitsOf box 70 2, bit box 72, bit box 73)) ∧
  (∀ (m : Mv) (sl : Fin 4) (r : SbSlot) (box : Nat) (u s : State), s.slotDue (.ikl (.mv m) sl) r.slot = true →
    s.sbReceive (.ikl (.mv m) sl) r = (some box, u) → bitsOf box 0 6 = 0x18 → bitsOf box 6 3 = 2 →
    Does (.sidebandContainer (.ikl (.mv m) sl) r) s fun t => (t.die (.mv m)).combined = bitsOf box 64 32) ∧
  (∀ (m : Mv) (sl : Fin 4) (r : SbSlot) (box : Nat) (u s : State), s.slotDue (.ikl (.mv m) sl) r.slot = true →
    s.sbReceive (.ikl (.mv m) sl) r = (some box, u) → bitsOf box 0 6 = 0x19 → bit box 6 = true →
    bitsOf box 7 3 = dieCode (.mv m) → u.staleKind (.mv m) 3 = false →
    Does (.sidebandContainer (.ikl (.mv m) sl) r) s fun t =>
      (t.die (.mv m)).power.grant = some (bitsOf box 12 32, bitsOf box 44 16)) ∧
  (∀ (e : LinkEnd) (k : Nat) (s : State), s.sbUp e = true → s.linkMode e < 2 → s.beat (leDie e) % frameBeats = 64 * k → k % 4 = 2 →
    Does (.sidebandSlotTransmit e) s fun t => (t.link e).lastSb = 1 + s.ucAckBody e 0 ∧ ∀ b < 8, b < nBundles e →
      (t.bun e b).nak = false) ∧
  (∀ (e : LinkEnd) (k : Nat) (s : State), s.sbUp e = true → s.linkMode e < 2 → s.beat (leDie e) % frameBeats = 64 * k → k % 4 = 3 →
    isFp e = false → Does (.sidebandSlotTransmit e) s fun t => (t.link e).lastSb = 2 + (s.link e).creditBody) ∧
  (∀ (e : LinkEnd) (k : Nat) (s : State), s.sbUp e = true → s.linkMode e < 2 → s.beat (leDie e) % frameBeats = 64 * k → k ≠ 0 →
    k % 4 < 2 → (s.link e).q = [] → (s.link e).ptrWant = 0 → (s.link e).ptrOwe = 0 →
    Does (.sidebandSlotTransmit e) s fun t => (t.link e).lastSb = 0 ∧
      (isTray e = false → (t.link e).lastSeg = sidebandSeg k 0)) ∧
  (∀ (d : Die) (sl : Fin 4) (s : State), s.beat d % frameBeats = 0 → stLanetest ≤ s.lst (.ikl d sl) →
    s.lst (.ikl d sl) ≤ stDegraded → s.linkMode (.ikl d sl) < 2 → s.staleAt d 1 Blk.ikl.code sl.val = false →
    Does (.sidebandSlotTransmit (.ikl d sl)) s fun t => ∀ b, b < nBundles (.ikl d sl) → s.retired (.ikl d sl) b = false →
      (t.link (.ikl d sl)).marks.getD b 0 = s.txMarker (.ikl d sl) b) ∧
  (∀ (e : LinkEnd) (r : SbSlot) (box : Nat) (u s : State), s.sbTakes e r 0x03 = (some box, u) →
    Does (.sbAck e r) s fun t => ∀ x ∈ (t.link e).unacked, ¬(x.mtype = bitsOf box 6 6 ∧ x.mseq = bitsOf box 12 8)) ∧
  (∀ (e : LinkEnd) (s : State),
    Does (.sbMessageRepeat e) s fun t => ∀ m ∈ (s.link e).unacked, m.last + frameBeats ≤ s.time →
      s.time < m.first - 1 + turnBeats → { m with copies := 1 } ∈ (t.link e).q) ∧
  (∀ (d : Die) (sl : Fin 4) (m : SbMsg) (s : State), m ∈ (s.link (.ikl d sl)).unacked → m.first - 1 + turnBeats ≤ s.time →
    s.getF d .ikl sl.val Reg.IKL_LL_STATUS_ATTEMPTS + 1 < s.trainMax (.ikl d sl) → s.inService (.ikl d sl) = false →
    s.lst (.ikl d sl) ≠ stRetired →
    Does (.sbAckTimeout (.ikl d sl)) s fun t => t.lst (.ikl d sl) = stReset) ∧
  (∀ (d : Die) (sl : Fin 4) (m : SbMsg) (s : State), m ∈ (s.link (.ikl d sl)).unacked → m.first - 1 + turnBeats ≤ s.time →
    s.getF d .ikl sl.val Reg.IKL_LL_STATUS_ATTEMPTS + 1 < s.trainMax (.ikl d sl) → s.inService (.ikl d sl) = true →
    (∀ b < 16, (s.bun (.ikl d sl) b).dying = false) →
    Does (.sbAckTimeout (.ikl d sl)) s fun t => t.lst (.ikl d sl) = stReset ∧ (t.link (.ikl d sl)).returning = true) ∧
  (∀ (n : Fin 8) (m : SbMsg) (s : State), m ∈ (s.link (.tray n)).unacked → m.first - 1 + turnBeats ≤ s.time →
    Does (.sbAckTimeout (.tray n)) s fun t => t.lst (.tray n) = stListen)

/-- A scheduled slot sends the granule its transfer names and lands it at the other side; a flit not acknowledged in time
is asked for, held, sent again or given up. Rests on R127, R129, R130, R133, R137. Each clause says for one form, under
hypotheses on the state and the operands alone, that the command answers a next state and what that state holds. -/
def Obligations.ScheduledTrafficComplete : Prop :=
(∀ (e : LinkEnd) (b : Fin 16) (slot tag pa : Nat) (ctx : Nat × Bool) (s : State),
    slotAtBeat e (s.beat (leDie e) % frameBeats) = some slot → s.inService e = true → b.val ∈ s.sending e →
    s.isF cr0 .pwr 0 Reg.PWR_STATUS_PF = false →
    s.markOf e 0 b slot (s.frame (leDie e)) = .sc tag → (s.link e).scStop = false →
    s.scPlace e 0 tag b slot (s.frame (leDie e)) = some (pa, ctx) →
    Does (.slotTransmit e b) s fun t => (t.link e).hold = (s.link e).hold ++
        [⟨b, slot, s.frame (leDie e), s.beat (leDie e), tag, s.rdBytes pa 64⟩] ∧
      ∃ lanes, (t.link e).lastTx = some ⟨b, 1 + tag % 16384 * 4, s.rdBytes pa 64, lanes⟩) ∧
  (∀ (e : LinkEnd) (b : Fin 16) (slot : Nat) (s : State),
    slotAtBeat e (s.beat (leDie e) % frameBeats) = some slot → s.inService e = true → b.val ∈ s.sending e →
    s.isF cr0 .pwr 0 Reg.PWR_STATUS_PF = false → s.hackCovers e (s.frame (leDie e)) = true →
    Does (.slotTransmit e b) s fun t => ∃ lanes, (t.link e).lastTx = some ⟨b, 0, List.replicate 64 0, lanes⟩) ∧
  (∀ (e : LinkEnd) (b : Fin 16) (lanes : List Nat) (slot frame tag header pa ctx : Nat) (last : Bool) (p : List Byte) (u s : State),
    s.latL e ≤ s.beat (leDie e) → slotAtBeat e ((s.beat (leDie e) - s.latL e) % frameBeats) = some slot →
    frame = (s.beat (leDie e) - s.latL e) / frameBeats → s.inService e = true → s.rxStopped e b = false → b.val < nBundles e →
    s.markOf e 1 b slot frame = .sc tag → s.decodeFlit e b slot frame lanes = (some (header, p), u) →
    header % 4 = 1 → bitsOf header 2 14 = tag → p.length = 64 → u.scPlace e 1 tag b slot frame = some (pa, ctx, last) →
    Does (.flitReceive e b lanes) s fun t => t.rdBytes pa 64 = p ∧ t.poisoned pa = false) ∧
  (∀ (e : LinkEnd) (r : SbSlot) (box : Nat) (h : ScHeld) (u s : State), s.sbTakes e r 0x04 = (some box, u) →
    (u.link e).hold.reverse.find? (fun h => h.bundle == bitsOf box 6 4 && h.slot == bitsOf box 10 10 &&
      h.frame % 2 == bitsOf box 20 1) = some h →
    (h.bundle, h.slot, h.frame) ∉ (u.link e).naked →
    Does (.scNak e r) s fun t => (t.link e).resend = (u.link e).resend ++ [(h, u.time)]) ∧
  (∀ (e : LinkEnd) (s : State),
    Does (.scHoldExpiry e) s fun t => ∀ h, h ∈ (t.link e).hold ↔
      h ∈ (s.link e).hold ∧ s.beat (leDie e) < h.slotBeat + s.scHoldBeats e) ∧
  (∀ (e : LinkEnd) (s : State),
    Does (.scResendDeadline e) s fun t => (∀ w ∈ (t.link e).wait, s.beat (leDie e) ≤ w.deadline) ∧
      ∀ w ∈ (s.link e).wait, w.deadline < s.beat (leDie e) → t.poisoned w.land = true) ∧
  (∀ (e : LinkEnd) (s : State), s.atFrame (leDie e) = true → s.frame (leDie e) ≠ 0 →
    (s.link e).lostRep ≠ s.frame (leDie e) →
    Does (.scLostBundleReport e) s fun t => (t.link e).lostRep = s.frame (leDie e) ∧
      ∀ p ∈ s.lostSc e (s.frame (leDie e) - 1), t.poisoned p.1 = true)

/-- A UC flit in sequence is accepted, acknowledgements free and replay, credits and the requeue. Rests on R135, R137 to
R142. Each clause says for one form, under hypotheses on the state and the operands alone, that the command answers a
next state and what that state holds. -/
def Obligations.UnscheduledTrafficComplete : Prop :=
(∀ (e : LinkEnd) (b : Fin 16) (lanes : List Nat) (slot frame header : Nat) (p : List Byte) (u s : State),
    s.latL e ≤ s.beat (leDie e) → slotAtBeat e ((s.beat (leDie e) - s.latL e) % frameBeats) = some slot →
    frame = (s.beat (leDie e) - s.latL e) / frameBeats → s.inService e = true → s.rxStopped e b = false → b.val < nBundles e →
    s.markOf e 1 b slot frame = .uc ∨ s.markOf e 1 b slot frame = .repair →
    s.decodeFlit e b slot frame lanes = (some (header, p), u) → header % 4 = 2 → bitsOf header 7 9 = (u.bun e b).es →
    Does (.flitReceive e b lanes) s fun t => (t.bun e b).es = ((u.bun e b).es + 1) % 512 ∧
      (t.link e).lastRx = some ⟨bitsOf header 2 2, bit header 4, bit header 5, 0, p, 0⟩) ∧
  (∀ (e : LinkEnd) (b : Fin 16) (lanes : List Nat) (slot frame : Nat) (u s : State),
    s.latL e ≤ s.beat (leDie e) → slotAtBeat e ((s.beat (leDie e) - s.latL e) % frameBeats) = some slot →
    frame = (s.beat (leDie e) - s.latL e) / frameBeats → s.inService e = true → s.rxStopped e b = false → b.val < nBundles e →
    s.markOf e 1 b slot frame = .uc ∨ s.markOf e 1 b slot frame = .repair →
    s.decodeFlit e b slot frame lanes = (none, u) →
    Does (.flitReceive e b lanes) s fun t => (t.bun e b).nak = true ∧ (t.bun e b).drop = true ∧ (t.bun e b).es = (u.bun e b).es) ∧
  (∀ (e : LinkEnd) (r : SbSlot) (box i b es : Nat) (y : BundleSt) (u s : State), s.sbTakes e r 0x01 = (some box, u) →
    i < 8 → b = 8 * bitsOf box 6 1 + i → b < nBundles e → bit box (72 + i) = true →
    (u.bun e b).acked (bitsOf box (8 + 8 * i) 8) = some (es, y) →
    Does (.ucAck e r) s fun t => (t.bun e b).unacked = y.unacked) ∧
  (∀ (e : LinkEnd) (r : SbSlot) (box : Nat) (u s : State), s.sbTakes e r 0x02 = (some box, u) →
    Does (.credit e r) s fun t => ∀ c < 4, Tab.get 0 (t.link e).reported c = bitsOf box (6 + 16 * c) 16) ∧
  (∀ (e : LinkEnd) (b : Fin 16) (x : TxUc) (s : State), s.inService e = true → x ∈ (s.bun e b).unacked →
    x.slotAt + s.ucTimeout e ≤ s.ucClock → (s.bun e b).replayQ = [] → b.val ∈ s.sending e →
    Does (.ucReplayTimeout e b) s fun t => (t.bun e b).replayQ = (s.bun e b).unacked.map TxUc.seq) ∧
  (∀ (e : LinkEnd) (s : State), s.lf e Reg.IKL_LL_STATUS_UC_QUIESCE Reg.TRYP_LL_STATUS_UC_QUIESCE = 1 →
    (∀ b ∈ s.serving e, (s.bun e b).unacked = []) → (∀ b ∈ (s.link e).leaving, (s.bun e b).txFinal = true) →
    Does (.ucRequeue e) s fun t => (t.link e).leaving = [] ∧
      (t.link e).requeue = (s.link e).requeue ++ ((s.link e).leaving.map fun b => (s.bun e b).unacked.map (·.flit)).flatten)

/-- The partner state machine of a tray port before training. Rests on R199 to R203. Each clause says for one form, under
hypotheses on the state and the operands alone, that the command answers a next state and what that state holds. -/
def Obligations.TrayPartnerCommandsComplete : Prop :=
(∀ (n : Fin 8) (s : State), s.lst (.tray n) = stSeek →
    Does (.beaconBurst n) s fun t => (t.link (.tray n)).beaconAt = s.time + 1 ∧ (t.link (.tray n)).lastBlock = s.block n) ∧
  (∀ (n : Fin 8) (blk : BitVec 256) (locked : Bool) (s : State), s.lst (.tray n) = stListen →
    bitsOf blk.toNat 0 32 = 0x5A5AC3C3 → bitsOf blk.toNat 224 32 = crc32 (leBytes 28 (bitsOf blk.toNat 0 224)) →
    s.blockMatches n blk.toNat = true →
    (s.link (.tray n)).backAt + (s.link (.tray n)).backoff * msBeats ≤ s.time →
    Does (.beaconBlock n blk locked) s fun t => t.lst (.tray n) = stSeek ∧ (t.link (.tray n)).ackSend = true ∧
      (t.link (.tray n)).sigAt = s.time) ∧
  (∀ (n : Fin 8) (blk : BitVec 256) (locked : Bool) (s : State), s.lst (.tray n) = stListen →
    bitsOf blk.toNat 0 32 = 0x5A5AC3C3 → bitsOf blk.toNat 224 32 = crc32 (leBytes 28 (bitsOf blk.toNat 0 224)) →
    s.blockMatches n blk.toNat = false → blk.toNat ∉ (s.link (.tray n)).wrong →
    Does (.beaconBlock n blk locked) s fun t => blk.toNat ∈ (t.link (.tray n)).wrong ∧ t.lst (.tray n) = stListen ∧
      (t.die (leDie (.tray n))).log.head?.map LogRec.rc = some 0xB004) ∧
  (∀ (n : Fin 8) (s : State), s.lst (.tray n) = stListen → (s.link (.tray n)).noSigLogged = false →
    max (s.link (.tray n)).sigAt (s.link (.tray n)).since + 100 * msBeats ≤ s.time →
    Does (.noPartnerSignal n) s fun t => (t.link (.tray n)).noSigLogged = true ∧
      (t.die (leDie (.tray n))).log.head?.map LogRec.rc = some 0xB001) ∧
  (∀ (n : Fin 8) (s : State), s.lst (.tray n) = stSeek → 50 * msBeats ≤ s.inState (.tray n) →
    Does (.seekTimeout n) s fun t => t.lst (.tray n) = stListen ∧
      (t.link (.tray n)).backoff = nextBackoff (s.link (.tray n)).backoff) ∧
  (∀ (n : Fin 8) (s : State), stCalib ≤ s.lst (.tray n) → s.lst (.tray n) ≤ stSync →
    max (s.link (.tray n)).sigAt (s.link (.tray n)).since + msBeats ≤ s.time →
    Does (.partnerSignalLost n) s fun t => t.lst (.tray n) = stListen)

/-- A run-time recalibration is asked for, confirmed or aborted, runs through its steps and ends. Rests on R113 to R115,
R361. Each clause says for one form, under hypotheses on the state and the operands alone, that the command answers a
next state and what that state holds. -/
def Obligations.RecalibrationCommandsComplete : Prop :=
(∀ (e : LinkEnd) (b turn : Nat) (s : State), isTray e = false → s.hasInst (leDie e) .ikl (leInst e) = true →
    s.powered (leDie e) .ikl = true → s.getF (leDie e) .ikl (leInst e) Reg.IKL_RECAL_BUNDLE = b →
    s.get64 (leDie e) .ikl (leInst e) Reg.IKL_RECAL_TURN_LO_TURN Reg.IKL_RECAL_TURN_HI_TURN = turn →
    s.inService e = true → b ∈ s.serving e → s.recalOf e = none → s.noFallback e b = false →
    s.beat (leDie e) + 8 * turnBeats ≤ turn * turnBeats → s.tokRecal ≤ s.maxRequest (leDie e) →
    Does (.recalGo e) s fun t => t.recalOf e = some ⟨leCode e, b, turn, 0⟩ ∧ t.wantsToken (leDie e) 1 0xFF (leCode e) = true) ∧
  (∀ (e : LinkEnd) (r : SbSlot) (box b : Nat) (u s : State), s.sbTakesFirst e r 0x13 = (some box, u) → bitsOf box 14 4 = b →
    b < nBundles e → Does (.recalArm e r) s fun t => (t.bun e b).recalT = bitsOf box 18 43 + 1) ∧
  (∀ (e : LinkEnd) (r : Recal) (s : State), s.recalOf e = some r → r.step = 0 → r.turn ≤ s.turn (leDie e) + 8 →
    (s.bun e r.bundle).recalOk = false →
    Does (.recalArmDeadline e) s fun t => t.recalOf e = none ∧
      (t.die (leDie e)).log.head?.map LogRec.rc = some 0x1006) ∧
  (∀ (e : LinkEnd) (r : Recal) (s : State), s.recalOf e = some r → r.step = 0 → s.atTurn (leDie e) = true →
    r.turn ≤ s.turn (leDie e) → (s.bun e r.bundle).recalOk = true → s.hasToken (leDie e) 1 0xFF (leCode e) = true →
    (∀ f ∈ bothEnds e, r.bundle ∈ s.serving f ∧ s.inService f = true) → isTray e = false → r.bundle < 16 →
    Does (.recalStart e) s fun t => t.recalOf e = some { r with step := 1 } ∧
      ∀ f ∈ bothEnds e, t.calOut f r.bundle = true) ∧
  (∀ (e : LinkEnd) (r : Recal) (s : State), s.recalOf e = some r → r.step = 1 → s.atFrame (leDie e) = true →
    1024 * r.turn + 376 ≤ s.frame (leDie e) →
    Does (.recalLanetestStart e) s fun t => t.recalOf e = some { r with step := 2 }) ∧
  (∀ (e : LinkEnd) (near far : List (List Bool)) (r : Recal) (s : State), s.recalOf e = some r → r.step = 2 →
    s.atFrame (leDie e) = true → 1024 * r.turn + 1792 ≤ s.frame (leDie e) →
    Does (.recalReturnMission e near far) s fun t => t.recalOf e = some { r with step := 3 }) ∧
  (∀ (e : LinkEnd) (near far : BitVec 21) (r : Recal) (s : State), s.recalOf e = some r → r.step = 3 →
    s.atTurn (leDie e) = true → r.turn + 2 ≤ s.turn (leDie e) → r.bundle < 16 →
    Does (.recalEnd e near far) s fun t => t.recalOf e = none ∧ t.hasToken (leDie e) 1 0xFF (leCode e) = false ∧
      ∀ f ∈ bothEnds e, t.calOut f r.bundle = false)

/-- The budget is written, demands are reported, grants are computed, sent, received and taken. Rests on R355, R358 to
R360. Each clause says for one form, under hypotheses on the state and the operands alone, that the command answers a
next state and what that state holds. -/
def Obligations.BudgetCommandsComplete : Prop :=
(∀ (w : Word) (s : State), budgetCovers (w.toNat % 2048) s.sumReserve s.sumFloors = true →
    Does (.budgetWrite w) s fun t => t.getF cr0 .pwr 0 Reg.PWR_BUDGET = w.toNat % 2048) ∧
  (∀ (k meas : Nat) (s : State), s.atFrame cr0 = true → s.frame cr0 % 1024 = 64 * k → k ≤ 7 → s.enabled .pwr cr0 = true →
    Does (.budgetReport cr0 meas) s fun t => Tab.get none t.reports 4 = some ⟨s.turn cr0 % 2 ^ 32, s.demand cr0 % 2 ^ 16,
      s.throttled cr0, (s.pow cr0).held % 2 ^ 16, meas % 2 ^ 16⟩) ∧
  (∀ (m : Mv) (k meas : Nat) (s : State), s.atFrame (.mv m) = true → s.frame (.mv m) % 1024 = 64 * k → k ≤ 7 →
    s.enabled .pwr cr0 = true →
    Does (.budgetReport (.mv m) meas) s fun t => (t.link (spMv m 0)).q = (s.link (spMv m 0)).q ++
      [{ mtype := 0x19, body := budgetBody false (.mv m) (s.throttled (.mv m)) (s.turn (.mv m) % 2 ^ 32)
          (s.demand (.mv m) % 2 ^ 16) ((s.pow (.mv m)).held % 2 ^ 16) (meas % 2 ^ 16) }]) ∧
  (∀ s : State, s.atFrame cr0 = true → s.frame cr0 % 1024 = 512 → s.enabled .pwr cr0 = true →
    Does .grantAllocation s fun t => t.grants = s.allocate (s.turn cr0)) ∧
  (∀ (m : Mv) (sl : Fin 4) (r : SbSlot) (box : Nat) (u s : State), s.sbTakes (.ikl (.mv m) sl) r 0x19 = (some box, u) →
    bit box 6 = true → bitsOf box 7 3 = dieCode (.mv m) → u.staleKind (.mv m) 3 = false →
    Does (.budgetGrant (.ikl (.mv m) sl) r) s fun t => (t.pow (.mv m)).grant = some (bitsOf box 12 32, bitsOf box 44 16)) ∧
  (∀ (sl : Fin 4) (r : SbSlot) (box : Nat) (u s : State), s.sbTakes (.ikl cr0 sl) r 0x19 = (some box, u) →
    bit box 6 = false → bitsOf box 7 3 < 6 →
    Does (.budgetGrant (.ikl cr0 sl) r) s fun t => Tab.get none t.reports (bitsOf box 7 3) =
      some ⟨bitsOf box 12 32, bitsOf box 44 16, bit box 10, bitsOf box 60 16, bitsOf box 76 16⟩) ∧
  (∀ (d : Die) (v : Nat) (s : State), s.hasDie d = true → s.atTurn d = true → s.enabled .pwr cr0 = true →
    (s.pow d).grant = some (s.turn d % 2 ^ 32, v) → v < 2 ^ 16 → (s.pow d).staleFloor = false → s.staleKind d 3 = false →
    Does (.allowanceTake d) s fun t => t.allowance d = v)

/-- Requests are admitted or withdrawn, temperatures and rails are sampled, and a stale crossing takes its consequence.
Rests on R54, R361 to R365, R497. Each clause says for one form, under hypotheses on the state and the operands alone,
that the command answers a next state and what that state holds. -/
def Obligations.AdmissionCommandsComplete : Prop :=
(∀ (d : Die) (r : AdmReq) (rest : List AdmReq) (s : State), (s.pow d).queue = r :: rest → s.throttled d = false →
    (s.pow d).held + r.tok ≤ s.allowance d →
    Does (.tokenGrant d) s fun t => (t.pow d).lent = (s.pow d).lent ++ [r] ∧ (t.pow d).queue = rest) ∧
  (∀ (d : Die) (s : State),
    Does (.admissionWaitTimeout d) s fun t => ∀ r, r ∈ (t.pow d).queue ↔
      r ∈ (s.pow d).queue ∧ s.time < r.at_ + s.waitLimit * frameBeats) ∧
  (∀ (d : Die) (tj h0 h1 : Int) (s : State), s.hasDie d = true → s.atFrame d = true → s.staleKind d 2 = false → tj < 110 → h0 < 105 → h1 < 105 →
    Does (.thermalSample d tj h0 h1) s fun t => (t.pow d).hotJ = runLen (decide (s.throtC d ≤ tj)) (s.pow d).hotJ ∧
      (t.pow d).tripJ = 0 ∧ (t.pow d).tripH = 0) ∧
  (∀ (d : Die) (accepted : List (Fin 5 × Nat × Nat)) (s : State),
    Does (.cdcStaleTurnExpiry d accepted) s fun t => ∀ c ∈ accepted, t.staleAt d c.1 c.2.1 c.2.2 = false) ∧
  (∀ (d : Die) (c : Nat × Nat × Nat × Nat) (s : State), c ∈ (s.die d).stale → c.2.2.2 + turnBeats ≤ s.time →
    Does (.cdcStaleTurnExpiry d []) s fun t => (c.1 = 2 → (t.pow d).staleThrot = true ∧ t.throttled d = true) ∧
      (c.1 = 3 → (t.pow d).staleFloor = true)) ∧
  (∀ (mv : List Nat) (k : Nat) (s : State), s.atFrame cr0 = true → k < 18 → k ≠ 11 → s.railOn k = true →
    mv.getD k 0 < 2 ^ 16 → Does (.railSample mv) s fun t => t.getF cr0 .pwr 0 Reg.PWR_RAIL_MV (4 * k) = mv.getD k 0)

/-- Messages at their destination are written, signalled, read and answered; a failure notice is kept at its origin; a
scrub pass is noted. Rests on R249 to R252, R254 to R260. Each clause says for one form, under hypotheses on the state
and the operands alone, that the command answers a next state and what that state holds. -/
def Obligations.MemoryMessagesComplete : Prop :=
(∀ (d : Die) (cmd p : List Byte) (pa : Nat) (s : State), s.hasDie d = true → cmdTarget cmd % 2 ^ 48 = pa → pa % 64 = 0 →
    cmdLen cmd = 64 → p.length = 64 → counterOf pa = none → bufferOf pa = none → bit (cmdA cmd) 0 = false →
    Does (.write d cmd [p] [] []) s fun t => t.rdBytes pa 64 = p ∧ t.poisoned pa = false ∧
      Tab.get 0 t.accepted (cntKey d (originKey cmd)) = (Tab.get 0 s.accepted (cntKey d (originKey cmd)) + 1) % 2 ^ 32) ∧
  (∀ (m : Mv) (cmd : List Byte) (n : Nat) (s : State), crosses (cmdTarget cmd % 2 ^ 48) (cmdLen cmd) = false →
    counterOf (cmdTarget cmd % 2 ^ 48) = some n → s.unitDown (.mv m) none = false →
    Does (.signal m cmd) s fun t => t.ctr (.mv m) n = (s.ctr (.mv m) n + cmdA cmd % 2 ^ 32) % 2 ^ 32) ∧
  (∀ (d o : Die) (e : LinkEnd) (cmd : List Byte) (pa corr : Nat) (s : State), s.hasDie d = true →
    cmdTarget cmd % 2 ^ 48 = pa → pa % 64 = 0 → cmdLen cmd ≤ 64 → counterOf pa = none → bufferOf pa = none →
    s.poisoned pa = false → dieOfCode (cmdOrigin cmd).1 = some o → s.route d (cmdOrigin cmd).2 o = some e →
    Does (.read d cmd [] corr) s fun t => ∃ h f, Tab.get [] (t.link e).ucq 0 = Tab.get [] (s.link e).ucq 0 ++ [h, f] ∧
      f.payload = s.rdBytes pa 64 ∧ h.som = true ∧ f.eom = true) ∧
  (∀ (d o : Die) (e : LinkEnd) (cmd : List Byte) (s : State), s.hasDie d = true → dieOfCode (cmdOrigin cmd).1 = some o →
    s.route d (cmdOrigin cmd).2 o = some e →
    Does (.fenceProbe d cmd) s fun t => ∃ f, Tab.get [] (t.link e).ucq 0 = Tab.get [] (s.link e).ucq 0 ++ [f] ∧
      f.payload = cmdFlit 0x21 (cmdOrigin cmd).1 (cmdOrigin cmd).2 (cmdCtx cmd) (cmdHost cmd) (cmdEpoch cmd) (cmdTag cmd)
        (cmdTarget cmd) (cmdLen cmd) (Tab.get 0 s.accepted (cntKey d (originKey cmd)) +
          2 ^ 32 * Tab.get 0 s.failed (cntKey d (originKey cmd))) 0) ∧
  (∀ (m : Mv) (cmd : List Byte) (s : State), cmdHost cmd = false →
    s.isF (.mv m) .mem 0 Reg.MEM_FIRST_TAG_VALID (0x10 * cmdCtx cmd) = false →
    Does (.pwFail (.mv m) cmd false) s fun t =>
      t.getF (.mv m) .mem 0 Reg.MEM_FIRST_TAG_TAG (0x10 * cmdCtx cmd) = cmdTag cmd ∧
      t.isF (.mv m) .mem 0 Reg.MEM_FIRST_TAG_VALID (0x10 * cmdCtx cmd) = true) ∧
  (∀ (m : Mv) (cmd : List Byte) (s : State), cmdHost cmd = false →
    Does (.pwFail (.mv m) cmd true) s fun t => t.isF (.mv m) .mem 0 Reg.MEM_PWSTAT_FOLDED (0x10 * cmdCtx cmd) = true) ∧
  (∀ (m : Mv) (bad : List Nat) (corr : Nat) (s : State), s.enabled .mem (.mv m) = true →
    (s.die (.mv m)).scrubH + s.scrubHours (.mv m) * hourBeats ≤ s.time →
    Does (.scrubPass m true bad corr) s fun t => (t.die (.mv m)).scrubH = s.time ∧ ∀ g ∈ bad, t.poisoned g = true)

/-- An engine selects its run, starts the descriptor at its head and completes it or runs out of its bound. Rests on R217
to R234. Each clause says for one form, under hypotheses on the state and the operands alone, that the command answers a
next state and what that state holds. -/
def Obligations.EngineCommandsComplete : Prop :=
(∀ (m : Mv) (e : Fin 16) (n : Nat) (s : State), s.atFrame (.mv m) = true → s.enabled .eng (.mv m) = true →
    s.selection (.mv m) e (s.frame (.mv m)) = some (n, none) → s.ctxOnDemand (.mv m) n = false →
    Does (.runSelect m e) s fun t => (t.eng (.mv m) e).run = some n) ∧
  (∀ (m : Mv) (e : Fin 16) (c i n : Nat) (s : State), s.atFrame (.mv m) = true → s.enabled .eng (.mv m) = true →
    s.selection (.mv m) e (s.frame (.mv m)) = some (c, some i) → (s.eng (.mv m) e).entry ≠ some i →
    s.nextOpen (.mv m) e = some n →
    Does (.runSelect m e) s fun t => (t.eng (.mv m) e).run = some n ∧ (t.eng (.mv m) e).lastOpen = n) ∧
  (∀ (m : Mv) (e : Fin 16) (s : State), s.atFrame (.mv m) = true → s.enabled .eng (.mv m) = true →
    s.selection (.mv m) e (s.frame (.mv m)) = none →
    Does (.runSelect m e) s fun t => (t.eng (.mv m) e).run = none) ∧
  (∀ (m : Mv) (e : Fin 16) (i o : OpInfo) (n u next : Nat) (y : StreamSt) (w : List Nat) (v s : State),
    (s.eng (.mv m) e).run = some n → s.stream (.mv m) e n = y → s.header y = w → s.enabled .eng (.mv m) = true →
    s.engHeld (.mv m) e = false → (s.eng (.mv m) e).desc = none → (s.eng (.mv m) e).abortAt = 0 →
    s.replayRun (.mv m) e = none → (s.eng (.mv m) e).deferred = false → y.bound = true → y.stopped = false →
    s.ctxState (.mv m) n = 2 → s.headPoisoned y = false → s.operation (.mv m) (s.descWords y) i = (o, v) →
    s.readingOk (.mv m) w o = true → v.startCause w o = none → (unitOf w o).getD e = u →
    v.accessCause (.mv m) n u o.work = none → v.startable (.mv m) e n w o = true → v.needToken (.mv m) n w o = 0 →
    v.fitsRun (.mv m) e (hBound w) = true → v.poisonRead (.mv m) u o.work = 0 → nextPos w o y.pos = next →
    Does (.descriptorStart m e i) s fun t =>
      (unitOf w o ≠ none → t.queue (.mv m) u = s.queue (.mv m) u ++
        [⟨(s.eng (.mv m) u).count, n, e, y.pos, next, w, o, s.beat (.mv m), s.beat (.mv m) + hBound w, false⟩]) ∧
      (unitOf w o = none → runsFence o.work = false → (t.eng (.mv m) e).desc = some ⟨(s.eng (.mv m) e).count, n, e, y.pos, next,
        w, o, s.beat (.mv m), (if y.headAt == 0 then s.beat (.mv m) else y.headAt - 1) + hBound w, false⟩)) ∧
  (∀ (m : Mv) (u : Fin 22) (x : Desc) (s : State), u.val < 16 →
    (s.eng (.mv m) u).abortAt = 0 → (s.eng (.mv m) u).desc = some x → s.fence (issuer (.mv m) x.ctx false) = none →
    s.beat (.mv m) ≤ x.deadline → s.readsLeft (.mv m) u x.num = false → x.start + workBeats x.op.work ≤ s.beat (.mv m) →
    s.accessCause (.mv m) x.ctx u x.op.work = none →
    Does (.descriptorComplete m u) s fun t => (t.eng (.mv m) u).desc = none ∧
      t.getF (.mv m) .eng 0 Reg.ENG_E_BUSY (4 * u) = 0 ∧ t.mem = (s.descWrites (.mv m) u x).mem) ∧
  (∀ (m : Mv) (u : Fin 22) (x : Desc) (rest : List Desc) (s : State), 16 ≤ u.val →
    (s.eng (.mv m) u).abortAt = 0 → s.queue (.mv m) u = x :: rest → s.fence (issuer (.mv m) x.ctx false) = none →
    s.beat (.mv m) ≤ x.deadline → s.readsLeft (.mv m) u x.num = false → x.start + workBeats x.op.work ≤ s.beat (.mv m) →
    s.accessCause (.mv m) x.ctx u x.op.work = none →
    Does (.descriptorComplete m u) s fun t => t.queue (.mv m) u = rest ∧ t.mem = (s.descWrites (.mv m) u x).mem) ∧
  (∀ (m : Mv) (u : Fin 22) (s : State), (s.eng (.mv m) u).abortAt ≠ 0 →
    Does (.descriptorComplete m u) s fun t => (t.eng (.mv m) u).abortAt = 0) ∧
  (∀ (m : Mv) (u : Fin 22) (x : Desc) (s : State), u.val < 16 → (s.eng (.mv m) u).desc = some x →
    x.deadline ≤ s.beat (.mv m) →
    Does (.descriptorBoundExpiry m u) s fun t => (t.eng (.mv m) u).desc = none ∧ (t.eng (.mv m) u).abortAt = s.time + 1 ∧
      (x.sandbox = false → x.ctx < 32 → s.ctxState (.mv m) x.ctx = 2 → t.ctxState (.mv m) x.ctx = 3)) ∧
  (∀ (m : Mv) (u : Fin 22) (x : Desc) (rest : List Desc) (s : State), 16 ≤ u.val → s.queue (.mv m) u = x :: rest → x ∉ rest →
    x.deadline ≤ s.beat (.mv m) → Does (.descriptorBoundExpiry m u) s fun t => t.queue (.mv m) u = rest)

/-- Doorbells, click counters, barriers, and a die controller whose cores disagree. Rests on R227, R235 to R239. Each
clause says for one form, under hypotheses on the state and the operands alone, that the command answers a next state and
what that state holds. -/
def Obligations.SyncCommandsComplete : Prop :=
(∀ (m : Mv) (w : Word) (s : State), bit w.toNat 8 = true → s.powered (.mv m) .eng = true → s.heldInReset (.mv m) .eng = false →
    s.ctxOnDemand (.mv m) (w.toNat % 32) = true → s.ctxState (.mv m) (w.toNat % 32) = 1 →
    Does (.doorbellRing m w) s fun t => t.ctxState (.mv m) (w.toNat % 32) = 2) ∧
  (∀ (m : Mv) (n : Fin 4096) (v : Word) (s : State),
    Does (.counterSignal m n v) s fun t => t.ctr (.mv m) n = (s.ctr (.mv m) n + v.toNat) % 2 ^ 32) ∧
  (∀ (m : Mv) (n : Fin 4096) (w : Word) (img : Image) (s : State), s.powered (.mv m) .syn = true → s.heldInReset (.mv m) .syn = false →
    s.boot.image = some img → (m, n.val) ∈ img.hostCtrs →
    Does (.synCtrWrite m n w) s fun t => t.ctr (.mv m) n = (s.ctr (.mv m) n + w.toNat) % 2 ^ 32) ∧
  (∀ (m : Mv) (ctx : Fin 32) (f : FenceSt) (s : State), s.fence (issuer (.mv m) ctx false) = some f → f.kind = 3 →
    (s.eng (.mv m) f.eng).desc = none →
    s.getF (.mv m) .syn 0 Reg.SYN_BAR_ARRIVED (4 * f.arg) + 1 < s.getF (.mv m) .syn 0 Reg.SYN_BAR_MEMBERS (4 * f.arg) →
    Does (.barrierArrival m ctx) s fun t => t.fence (issuer (.mv m) ctx false) = none ∧
      t.getF (.mv m) .syn 0 Reg.SYN_BAR_ARRIVED (4 * f.arg) =
        (s.getF (.mv m) .syn 0 Reg.SYN_BAR_ARRIVED (4 * f.arg) + 1) % 2 ^ 11) ∧
  (∀ (m : Mv) (s : State), s.domOn (8 + m.val) = true → Does (.lockstepMismatch m) s fun t => bit t.recov.lockstep m = true)

/-- Data reaches the die that read it, a fence hears its destinations and asks them again. Rests on R230, R238, R260 to
R263. Each clause says for one form, under hypotheses on the state and the operands alone, that the command answers a
next state and what that state holds. -/
def Obligations.FenceCommandsComplete : Prop :=
(∀ (c : Crown) (cmd : List Byte) (data : List (List Byte)) (r : ReadReq) (s : State),
    Tab.get [] s.rdReqs (dieCode (.cr c)) = [r] → r.tag = cmdTag cmd → r.target = cmdTarget cmd → r.host = true →
    cmdHost cmd = true → (∀ q ∈ (s.host c).reads, q.id = r.id → s.time ≤ q.at_ + s.rdLimit c * 1600) →
    Does (.readData (.cr c) cmd data) s fun t => Tab.get [] t.rdReqs (dieCode (.cr c)) = [] ∧
      (t.host c).lastCpl = some (.data r.id (cmdA cmd != 0) (writeData r.target r.len data))) ∧
  (∀ (m : Mv) (cmd : List Byte) (data : List (List Byte)) (r : ReadReq) (a : Nat) (s : State),
    Tab.get [] s.rdReqs (dieCode (.mv m)) = [r] → r.tag = cmdTag cmd → r.target = cmdTarget cmd → r.host = false →
    cmdHost cmd = false → r.ctx = cmdCtx cmd → s.fencing (.mv m) r.eng r.id = false → r.dst = some (.mem a) →
    s.ownAddr (.mv m) a = true → a % 64 = 0 → counterOf (a % 2 ^ 48) = none → cmdA cmd = 0 → r.target % 64 = 0 →
    (writeData r.target r.len data).length = 64 →
    Does (.readData (.mv m) cmd data) s fun t => Tab.get [] t.rdReqs (dieCode (.mv m)) = [] ∧
      t.rdBytes (a % 2 ^ 48) 64 = writeData r.target r.len data) ∧
  (∀ (m : Mv) (cmd : List Byte) (data : List (List Byte)) (r : ReadReq) (s : State),
    Tab.get [] s.rdReqs (dieCode (.mv m)) = [r] → r.tag = cmdTag cmd → r.target = cmdTarget cmd → r.host = false →
    cmdHost cmd = false → r.ctx = cmdCtx cmd → s.fencing (.mv m) r.eng r.id = false → r.dst = none → cmdA cmd = 0 →
    Does (.readData (.mv m) cmd data) s fun t => Tab.get [] t.rdReqs (dieCode (.mv m)) = [] ∧
      (t.eng (.mv m) r.eng).got = memPut (s.eng (.mv m) r.eng).got r.target (writeData r.target r.len data)) ∧
  (∀ (d : Die) (cmd : List Byte) (f : FenceSt) (dest x : Nat) (s : State), cmdHost cmd = false →
    s.fence (issuer d (cmdCtx cmd) false) = some f → cmdTarget cmd / 2 ^ 48 * 8 + cmdTarget cmd / 2 ^ 45 % 8 = dest →
    dest ∈ f.left → x ∈ f.left → x ≠ dest → cmdEpoch cmd = f.old →
    cmdA cmd % 2 ^ 32 = Tab.get 0 s.issued (issKey (issuer d (cmdCtx cmd) false) f.old dest) →
    Does (.fenceResp d cmd) s fun t => ∃ g, t.fence (issuer d (cmdCtx cmd) false) = some g ∧
      g.left = f.left.filter (· != dest)) ∧
  (∀ (m : Mv) (cmd : List Byte) (f : FenceSt) (dest : Nat) (s : State), cmdHost cmd = false →
    s.fence (issuer (.mv m) (cmdCtx cmd) false) = some f →
    cmdTarget cmd / 2 ^ 48 * 8 + cmdTarget cmd / 2 ^ 45 % 8 = dest → f.left = [dest] → f.kind = 0 → cmdEpoch cmd = f.old →
    cmdA cmd % 2 ^ 32 = Tab.get 0 s.issued (issKey (issuer (.mv m) (cmdCtx cmd) false) f.old dest) →
    Does (.fenceResp (.mv m) cmd) s fun t => t.fence (issuer (.mv m) (cmdCtx cmd) false) = none) ∧
  (∀ (d : Die) (ctx : Fin 33) (f : FenceSt) (s : State), s.fence (issuer d ctx (ctx.val == 32)) = some f →
    f.sentAt + 64 ≤ s.time →
    Does (.fenceProbeRetry d ctx) s fun t => t.fence (issuer d ctx (ctx.val == 32)) = some { f with sentAt := s.time })

/-- Host accesses through BAR2 and the reads of host memory that the package makes. Rests on R263, R269 to R273. Each
clause says for one form, under hypotheses on the state and the operands alone, that the command answers a next state and
what that state holds. -/
def Obligations.HostAccessCommandsComplete : Prop :=
(∀ (c : Crown) (x pa : Nat) (bytes : List Byte) (s : State), s.hostOpen c = true → bytes ≠ [] →
    s.bar2In c x bytes.length true = some pa → pa % 4096 + bytes.length ≤ 4096 →
    Does (.bar2Write c x bytes) s fun t => Tab.get 0 t.nextTag (issuer (.cr c) 0 true) =
      (Tab.get 0 s.nextTag (issuer (.cr c) 0 true) + 1) % 65536) ∧
  (∀ (c : Crown) (x pa : Nat) (bytes : List Byte) (d : Die) (e : LinkEnd) (s : State), s.hostOpen c = true → bytes ≠ [] →
    s.bar2In c x bytes.length true = some pa → pa % 4096 + bytes.length ≤ 4096 → pa < 2 ^ 48 →
    dieOfCode (pa / 2 ^ 45) = some d → d ≠ .cr c → s.route (.cr c) s.pkgId d = some e →
    Does (.bar2Write c x bytes) s fun t => ∃ h fs, Tab.get [] (t.link e).ucq 1 = Tab.get [] (s.link e).ucq 1 ++ h :: fs ∧
      h.som = true ∧ h.payload = cmdFlit 1 (dieCode (.cr c)) s.pkgId 0 true (s.epoch (.cr c) 0 true)
        (Tab.get 0 s.nextTag (issuer (.cr c) 0 true)) (s.pkgId * 2 ^ 48 + pa) bytes.length 0 0) ∧
  (∀ (c : Crown) (id x len pa : Nat) (s : State), s.hostOpen c = true → len ≠ 0 → s.bar2In c x len false = some pa →
    (s.fence (issuer (.cr c) 0 true)).isSome = true →
    Does (.bar2Read c id x len) s fun t => (t.host c).reads = (s.host c).reads ++ [⟨id, s.time, pa, len, false⟩]) ∧
  (∀ (c : Crown) (id x len pa : Nat) (s : State), s.hostOpen c = true → len ≠ 0 → s.bar2In c x len false = some pa →
    dieOfCode (pa / 2 ^ 45) = some (.cr c) → (s.host c).reads = [] → s.fence (issuer (.cr c) 0 true) = none →
    (∀ k < 128, Tab.get 0 s.issued (issKey (issuer (.cr c) 0 true) (s.epoch (.cr c) 0 true) k) =
      Tab.get 0 s.seenIssued (issKey (issuer (.cr c) 0 true) (s.epoch (.cr c) 0 true) k)) →
    Does (.bar2Read c id x len) s fun t => (t.host c).reads = [] ∧
      ∃ ep, (t.host c).lastCpl = some (.data id ep (s.rdBytes pa len))) ∧
  (∀ (c : Crown) (id : Nat) (r : HostRd) (s : State), (s.host c).reads = [r] → r.id = id →
    r.at_ + s.rdLimit c * 1600 ≤ s.time →
    Does (.bar2ReadAbort c id) s fun t => (t.host c).reads = [] ∧ (t.host c).lastCpl = some (.abort id)) ∧
  (∀ (c : Crown) (id : Nat) (bytes : List Byte) (r : HostMove) (d : Die) (s : State), (s.host c).moves = [r] → r.id = id →
    s.moveLate c r (s.time - 1) = false → dieOfCode r.die = some d → s.ownAddr d r.dst = true → r.dst % 64 = 0 →
    counterOf (r.dst % 2 ^ 48) = none → r.len = 64 → bytes.length = 64 →
    Does (.hostReadCompletion c id 0 bytes) s fun t => (t.host c).moves = [] ∧ t.rdBytes (r.dst % 2 ^ 48) 64 = bytes ∧
      t.poisoned (r.dst % 2 ^ 48) = false) ∧
  (∀ (c : Crown) (id : Nat) (r : HostMove) (d : Die) (s : State), (s.host c).moves = [r] → r.id = id →
    r.at_ + cplTimeout (s.host c).cplTo * 1600 ≤ s.time → dieOfCode r.die = some d → s.ownAddr d r.dst = true →
    counterOf (r.dst % 2 ^ 48) = none → r.len ≠ 0 →
    Does (.hostReadTimeout c id) s fun t => (t.host c).moves = [] ∧ t.poisoned (r.dst % 2 ^ 48) = true)

/-- Resets and vectors of the endpoint, its configuration space, the result outputs and the stream table. Rests on R267,
R268, R272, R274, R275, R289, R292 to R297, R394, R507. Each clause says for one form, under hypotheses on the state and
the operands alone, that the command answers a next state and what that state holds. -/
def Obligations.EndpointCommandsComplete : Prop :=
(∀ (c : Crown) (kind : Fin 3) (s : State), s.hasDie (.cr c) = true →
    Does (.functionLevelReset c kind) s fun t => (t.host c).msixEn = false ∧ (t.host c).unmasked = 0 ∧
      (t.host c).msixTab = [] ∧ (t.host c).cplTo = 0) ∧
  (∀ (c : Crown) (v : Fin 64) (s : State), s.cause c v = true → s.enabled .pci (.cr c) = true → (s.host c).msixEn = true →
    (s.host c).funMask = false → bit (s.host c).unmasked v = true → bit (s.host c).sent v = false →
    Does (.msixMessage c v) s fun t => (t.host c).lastMsix = some (v.val, (Tab.get (0, 0) (s.host c).msixTab v).1,
      (Tab.get (0, 0) (s.host c).msixTab v).2) ∧ bit (t.host c).sent v = true) ∧
  (∀ (c : Crown) (v : Fin 64) (addr data : Nat) (masked : Bool) (s : State), s.hasDie (.cr c) = true →
    (s.host c).pciReady = true →
    Does (.configurationRequest c (.vector v addr data masked)) s fun t =>
      Tab.get (0, 0) (t.host c).msixTab v = (addr % 2 ^ 64, data % 2 ^ 32) ∧ bit (t.host c).unmasked v = !masked) ∧
  (∀ (c : Crown) (id : Nat) (s : State), s.hasDie (.cr c) = true → (s.host c).pciReady = true →
    Does (.configurationRequest c (.serialNumber id)) s fun t => (t.host c).lastCpl =
      some (.data id false (leBytes 8 (s.dieId (.cr c))))) ∧
  (∀ (c : Crown) (v : Fin 16) (s : State), s.hasDie (.cr c) = true → (s.host c).pciReady = true →
    Does (.configurationRequest c (.completionTimeout v)) s fun t => (t.host c).cplTo = v.val) ∧
  (∀ (c : Crown) (en mask : Bool) (s : State), s.hasDie (.cr c) = true → (s.host c).pciReady = true →
    Does (.configurationRequest c (.msix en mask)) s fun t => (t.host c).msixEn = en ∧ (t.host c).funMask = mask) ∧
  (∀ (c : Crown) (id : Nat) (k : Feature) (s : State), s.hasDie (.cr c) = true → (s.host c).pciReady = true →
    Does (.configurationRequest c (.feature id k)) s fun t =>
      (t.host c).lastCpl = some (.data id false (leBytes 8 (featureVal k)))) ∧
  (∀ (c : Crown) (q : CfgReq) (s : State), s.hasDie (.cr c) = true → (s.host c).pciReady = false →
    Does (.configurationRequest c q) s fun t => (t.host c).lastCpl = some .retry) ∧
  (∀ (i : Nat) (o : ImgOut) (s : State), s.outputs[i]? = some o → o.ring = none → s.outputsOn = true →
    outDue o (s.beat (.cr o.crown) + 1184) = true →
    Does (.outputGuardStart i) s fun t => Tab.get 0 (t.host o.crown).guard o.port = s.beat (.cr o.crown) + 1184 +
      wireBeats (outFrame o (s.ethF o.crown o.port Reg.ETHP_CTL_UNTAGGED == 1))) ∧
  (∀ (i : Nat) (o : ImgOut) (s : State), s.outputs[i]? = some o → s.outputsOn = true →
    outDue o (s.beat (.cr o.crown)) = true → s.hasDie (.cr o.crown) = true → (s.dom 4).level ≠ 4 →
    Does (.resultOutput i) s fun t => Tab.get 0 (t.host o.crown).outSeq i =
      (Tab.get 0 (s.host o.crown).outSeq i + 1) % 2 ^ 32) ∧
  (∀ (p : Path) (c : Crown) (i : Nat) (s : State), s.deadRead p (.cr c) .eth = none →
    s.getF (.cr c) .eth 0 Reg.ETH_TBL_IDX_INDEX = i → i < 8192 → s.getF (.cr c) .eth 0 Reg.ETH_TBL_SEL_SPACE = 0 →
    Does (.ethTableRead p c) s fun t => Tab.get 0 t.rdData (pathCode p) = s.streamEnt c i % 2 ^ 32)

/-- Heartbeats are sent, checked and answered, the fault granule is written, watchdogs are restarted, and the tray's
packages are told of a chip level. Rests on R446 to R450, R458. Each clause says for one form, under hypotheses on the
state and the operands alone, that the command answers a next state and what that state holds. -/
def Obligations.HealthCommandsComplete : Prop :=
(∀ (m : Mv) (s : State), s.atFrame (.mv m) = true → s.frame (.mv m) % 1024 = 256 → s.ctlRuns m = true → s.enabled .rcv (.mv m) = true →
    Does (.heartbeatSend m) s fun t => (t.link (spMv m 0)).q = (s.link (spMv m 0)).q ++
      [{ mtype := 0x18, body := hbBody 0 m s.pkgId (s.turn (.mv m)) (s.hbLevel m) false (s.die (.mv m)).faulted 0 }]) ∧
  (∀ (m : Mv) (s : State), s.atTurn cr0 = true → s.turn cr0 ≠ 0 → s.enabled .rcv (.mv m) = true →
    Tab.get 0 s.recov.seen m = s.turn cr0 →
    Does (.heartbeatCheck m) s fun t => bitsOf (t.getF cr0 .rcv 0 Reg.RCV_MISSED) (4 * m) 4 = 0) ∧
  (∀ (m : Mv) (s : State), s.atFrame cr0 = true → s.frame cr0 % 1024 = 512 → s.enabled .rcv cr0 = true →
    Does (.heartbeatStateSend m) s fun t => (t.link (spCrown m 0)).q = (s.link (spCrown m 0)).q ++
      [{ mtype := 0x18, body := hbBody 2 m s.pkgId (s.turn cr0) (s.hbLevel 4) false s.combinedMask 0 }]) ∧
  (∀ (m : Mv) (img : Image) (pa : Nat) (s : State), s.boot.image = some img →
    img.faultAt.find? (fun p => p.1 == m) = some (m, pa) → s.atFrame (.mv m) = true → s.ctlRuns m = true →
    Does (.faultGranuleWrite m) s fun t =>
      t.rdBytes pa 4 = leBytes 4 (Nat.lor (s.die (.mv m)).faulted (s.die (.mv m)).combined) ∧
      t.rdBytes (pa + 8) 8 = leBytes 8 (s.die (.mv m)).faultBeat) ∧
  (∀ (c : Crown) (s : State), s.hasDie (.cr c) = true → Does (.watchdogKick c) s fun t => Tab.get 0 t.recov.kicked c = s.time) ∧
  (∀ (c : Crown) (s : State), s.hasDie (.cr c) = true → Tab.get 0 s.recov.kicked c + 80 * msBeats ≤ s.time →
    bit (s.getF cr0 .rcv 0 Reg.RCV_MISSED_WDOG) c = false → s.pins.oos = false →
    Does (.watchdogExpiry c) s fun t => t.pins.pwrcycReq = true ∧ (t.die cr0).log.head?.map LogRec.rc = some 0x9005) ∧
  (∀ (n : Fin 8) (r : SbSlot) (box : Nat) (u s : State), s.sbTakes (.tray n) r 0x18 = (some box, u) → bitsOf box 6 3 = 1 →
    u.isFollower = false → bit box 62 = true →
    Does (.packageHeartbeat n r) s fun t => bitsOf box 12 4 ∈ t.recov.ready) ∧
  (∀ (n p : Fin 8) (r : SbSlot) (box : Nat) (u s : State), s.sbTakes (.tray n) r 0x18 = (some box, u) → bitsOf box 6 3 = 1 →
    u.isFollower = true → u.syncPort = some p →
    Does (.packageHeartbeat n r) s fun t => (t.link (.tray p)).q = (u.link (.tray p)).q ++
      [{ mtype := 0x18, body := box / 64 * 64 }]) ∧
  (∀ (n : Fin 8) (r : SbSlot) (box : Nat) (u s : State), s.sbTakes (.tray n) r 0x18 = (some box, u) → bitsOf box 6 3 = 3 →
    u.turn cr0 < bitsOf box 16 43 → u.recov.lastOrder ≠ bitsOf box 16 43 + 1 →
    Does (.trayOrder n r) s fun t => t.recov.stopTurn = bitsOf box 16 43 + 1) ∧
  (∀ s : State, s.recov.stopTurn ≠ 0 → s.recov.stopTurn - 1 ≤ s.turn cr0 → (s.dom 4).level < 4 →
    Does .trayStop s fun t => t.recov.stopTurn = 0 ∧ (t.dom 4).level = 4 ∧ ∀ n : Fin 8, (t.link (.tray n)).scStop = true)

/-- A hang is detected or a level forced, its fence ends, its dump is written, its bound may pass, and the domain
rejoins. Rests on R443 to R456, R470. Each clause says for one form, under hypotheses on the state and the operands
alone, that the command answers a next state and what that state holds. -/
def Obligations.LadderCommandsComplete : Prop :=
(∀ (m : Mv) (u : Fin 22) (lvl : Nat) (s : State), s.hung (.mv m) u = true → s.replay (.mv m) = none →
    lvl = (if u.val < 16 then 2 else 3) → (s.dom m).level < lvl → (s.dom 4).level < lvl →
    Does (.engineHangDetect m u) s fun t => (t.die (.mv m)).log.head?.map LogRec.rc = some (0x9000 + lvl) ∧
      (t.dom m).level = lvl ∧ t.getF (.mv m) .rcv 0 Reg.RCV_SUSPECT_MASK = s.suspects (.mv m) u % 2 ^ 32) ∧
  (∀ (k : Fin 5) (s : State), (s.dom k).level ≠ 0 → (s.dom k).step = 1 → (s.dom k).since + 4096 ≤ s.time →
    Does (.recoveryFenceEnd k) s fun t => t.dom k = { s.dom k with step := 2 }) ∧
  (∀ (m : Mv) (s : State), s.overdue m = false → (s.dom 4).level ≠ 4 → (s.dom m).level = 2 → (s.dom m).step = 2 →
    s.ctlRuns m = true → Does (.crashDumpDone m) s fun t => (t.dom m).step =
      if (s.dom m).origin = 1 ∨ (s.dom m).origin = 3 then 5 else 6) ∧
  (∀ (m : Mv) (s : State), s.overdue m = false → (s.dom 4).level ≠ 4 → (s.dom m).level = 3 → (s.dom m).step = 2 →
    Does (.crashDumpDone m) s fun t => (t.dom m).step = 4) ∧
  (∀ (m : Mv) (s : State), s.overdue m = false → (s.dom 4).level = 4 → (s.dom 4).step = 2 →
    Does (.crashDumpDone m) s fun t => Tab.get 0 t.recov.doneAt m = s.beat (.mv m) + 1) ∧
  (∀ (k : Fin 5) (s : State), k.val < 4 → (s.dom k).level = 2 → (s.dom k).step < 5 → (s.dom 4).level < 3 →
    (s.dom k).since + 8 * frameBeats ≤ s.time →
    Does (.recoveryBoundExpiry k) s fun t => (t.dom k).level = 3) ∧
  (∀ s : State, (s.dom 4).level = 4 → (s.dom 4).since + 2500 * msBeats ≤ s.time → s.pins.oos = false →
    s.isF cr0 .rcv 0 Reg.RCV_STATUS_PWRCYC = false → Does (.recoveryBoundExpiry 4) s fun t => t.pins.pwrcycReq = true) ∧
  (∀ (m : Mv) (s : State), s.atTurn (.mv m) = true → 2 ≤ (s.dom m).level → (s.dom m).step = 6 →
    Tab.get 0 s.recov.doneAt m - 1 + frameBeats ≤ s.beat (.mv m) →
    Does (.domainRejoin m) s fun t => t.dom m = {}) ∧
  (∀ (m : Mv) (eng : Fin 16) (s : State), s.phase = 10 → (s.dom m).level < 2 → (s.dom 4).level < 2 →
    Does (.forceEngineReset ⟨m.val, by omega⟩ eng) s fun t => (t.dom m).level = 2 ∧ (t.dom m).eng = eng) ∧
  (∀ (m : Mv) (s : State), s.phase = 10 → (s.dom m).level < 3 → (s.dom 4).level < 3 →
    Does (.forcePartitionReset ⟨m.val, by omega⟩) s fun t => (t.dom m).level = 3) ∧
  (∀ (m : Mv) (s : State), s.phase = 10 → (s.dom 4).level < 4 →
    Does (.forceChipReset ⟨m.val, by omega⟩) s fun t => (t.dom 4).level = 4)

/-- Held contexts are released, and the suspects of a hang are replayed one after the other. Rests on R449, R459 to R462.
Each clause says for one form, under hypotheses on the state and the operands alone, that the command answers a next
state and what that state holds. -/
def Obligations.ReplayCommandsComplete : Prop :=
(∀ (w : Word) (s : State),
    Does (.contextRelease w) s fun t => ∀ n < 32, bit w.toNat n = true → bit (t.getF cr0 .rcv 0 Reg.RCV_HELD) n = false) ∧
  (∀ (m : Mv) (s : State), s.replay (.mv m) = none → s.ctlRuns m = true → (s.dom m).step = 5 → (s.dom m).level ≠ 0 →
    Does (.replayStart m) s fun t => ∃ r, t.replay (.mv m) = some r ∧
      r.todo = bitsSet (s.getF (.mv m) .rcv 0 Reg.RCV_SUSPECT_MASK) 32 ∧ r.cur = none) ∧
  (∀ (m : Mv) (r : Replay) (n : Nat) (rest : List Nat) (s : State), s.replay (.mv m) = some r → r.cur = none →
    r.todo = n :: rest → s.hasToken (.mv m) 2 0 r.eng = true →
    Does (.replayStart m) s fun t => ∃ q, t.replay (.mv m) = some q ∧ q.cur = some n ∧ q.todo = rest ∧ q.since = s.time ∧
      q.done = 0 ∧ q.hit = 0) ∧
  (∀ (m : Mv) (r : Replay) (n k : Nat) (rest : List Nat) (s : State), s.replay (.mv m) = some r →
    r.cur = some n → (s.dom m).step = 5 → r.todo = k :: rest → r.hit = 8 →
    Does (.replaySuspectEnd m) s fun t => (∃ q, t.replay (.mv m) = some q ∧ q.cur = some k ∧ q.todo = rest ∧
        q.culprits = setBit r.culprits n) ∧ (t.die (.mv m)).log.head?.map LogRec.rc = some 0x9007) ∧
  (∀ (m : Mv) (r : Replay) (n k : Nat) (rest : List Nat) (s : State), s.replay (.mv m) = some r →
    r.cur = some n → (s.dom m).step = 5 → r.todo = k :: rest → r.hit = 0 → s.sandboxBusy (.mv m) = false →
    (s.stream (.mv m) r.eng n).started ≤ r.done →
    Does (.replaySuspectEnd m) s fun t => ∃ q, t.replay (.mv m) = some q ∧ q.cur = some k ∧ q.todo = rest ∧
      q.culprits = r.culprits)

/-- Snapshots close, are selected and are released. Rests on R305 to R311. Each clause says for one form, under
hypotheses on the state and the operands alone, that the command answers a next state and what that state holds. -/
def Obligations.SnapshotCommandsComplete : Prop :=
(∀ (c : Crown) (g : Fin 16) (s : State), s.grpOn c g = true →
    Does (.snapshotLimitClose c g) s fun t => ∀ y ∈ (t.grp c g).snaps,
      y.cause ≠ 0 ∨ s.beat (.cr c) < s.deadline c (s.grpRec c g) y.k + 256) ∧
  (∀ (c : Crown) (g : Fin 16) (k : Int) (s : State), s.grpOn c g = true → s.atFrame (.cr c) = true → 256 ≤ s.beat (.cr c) →
    phaseOf (s.cadence (.cr c) (s.bank (.cr c)) (gCad (s.grpRec c g))) (s.frame (.cr c) + gCorr (s.grpRec c g)) =
      gFoff (s.grpRec c g) →
    k = ((taiAt (s.mapOf (.cr c)) (s.beat (.cr c) - 256) : Int) - gWaitNs (s.grpRec c g)) / gPerNs (s.grpRec c g) →
    (∀ l, (s.grp c g).last = some l → l < k) →
    Does (.snapshotSelect c g) s fun t => (t.grp c g).last = some k ∧ (∀ z ∈ (t.grp c g).snaps, k < z.k) ∧
      ∃ y skip, y.k = k ∧ y.cause ≠ 0 ∧ (t.grp c g).cur = some y ∧
        (t.grp c g).sel = some ((s.frame (.cr c) + gCorr (s.grpRec c g)) * frameBeats, y, false, skip)) ∧
  (∀ (c : Crown) (g : Fin 16) (rb : Nat) (y : Snap) (rep skip : Bool) (s : State), (s.grp c g).sel = some (rb, y, rep, skip) →
    rb = s.beat (.cr c) → s.grpOn c g = true →
    Does (.snapshotRelease c g) s fun t => (t.grp c g).sel = none ∧
      t.rdBytes (gPa c (s.grpRec c g)) 8 = leBytes 8 (unsigned 64 (y.k * gPerNs (s.grpRec c g))))

/-- Residual batches start and take effect. Rests on R315 to R318. Each clause says for one form, under hypotheses on the
state and the operands alone, that the command answers a next state and what that state holds. -/
def Obligations.CalibrationCommandsComplete : Prop :=
(∀ (c : Crown) (g : Fin 16) (y : Snap) (s : State), s.grpOn c g = true → s.atFrame (.cr c) = true →
    gResValid (s.grpRec c g) = true → s.fusProfile c = 0 → (s.grp c g).batch = none →
    s.hasLanded c (gResTag (s.grpRec c g)) = true →
    (s.grp c g).held.find? (fun z => z.k == signed 64 (leNat (s.rdBytes (s.landArea c (gResTag (s.grpRec c g))) 8))) = some y →
    Does (.residualBatchStart c g) s fun t => ∃ b, (t.grp c g).batch = some b ∧ b.k = y.k ∧ s.beat (.cr c) ≤ b.at_) ∧
  (∀ (c : Crown) (g : Fin 16) (b : BatchSt) (s : State), (s.grp c g).batch = some b → b.at_ ≤ s.beat (.cr c) →
    s.atFrame (.cr c) = true →
    Does (.calibBatchApply c g) s fun t => (t.grp c g).batch = none)

/-- Candidate sets are processed and the track table published. Rests on R319, R324. Each clause says for one form, under
hypotheses on the state and the operands alone, that the command answers a next state and what that state holds. -/
def Obligations.TrackingCommandsComplete : Prop :=
(∀ (c : Crown) (s : State), s.hasDie (.cr c) = true → s.powered (.cr c) .fus = true → s.enabled .fus (.cr c) = true →
    s.isF (.cr c) .fus 0 Reg.FUS_MODE_CFG2_MODE_VALID = true → s.fusProfile c < 2 → s.atFrame (.cr c) = true →
    s.hasLanded c (s.getF (.cr c) .fus 0 Reg.FUS_MODE_CFG2_MODE_TAG) = true → (s.fusion c).modeTime = none →
    Does (.modeSetProcess c) s fun t => (t.fusion c).modeTime =
        some (signed 64 (leNat (s.rdBytes (s.landArea c (s.getF (.cr c) .fus 0 Reg.FUS_MODE_CFG2_MODE_TAG)) 8))) ∧
      ∃ at_ tracks, (t.fusion c).pubs = (s.fusion c).pubs ++ [(at_, tracks)] ∧ s.beat (.cr c) ≤ at_) ∧
  (∀ (c : Crown) (p : Nat × Tab Track) (rest : List (Nat × Tab Track)) (s : State), (s.fusion c).pubs = p :: rest →
    p.1 ≤ s.beat (.cr c) → s.atFrame (.cr c) = true →
    Does (.trackTablePublish c) s fun t => (t.fusion c).half = 1 - (s.fusion c).half ∧ (t.fusion c).pubs = rest)

/-- A write of a record's last word stores it for the next commit, a read of word 0 loads the record. Rests on R303,
R304, R318. Each clause says for one form, under hypotheses on the state and the operands alone, that the command answers
a next state and what that state holds. -/
def Obligations.FusionTableCommandsComplete : Prop :=
(∀ (c : Crown) (w : Word) (i : Nat) (s : State), s.hasDie (.cr c) = true → s.powered (.cr c) .fus = true →
    s.getF (.cr c) .fus 0 Reg.FUS_TBL_SPACE_SPACE = 0 → s.getF (.cr c) .fus 0 Reg.FUS_TBL_INDEX_INDEX = i → i < 16 →
    s.lateWr = false →
    Does (.fusTableWrite c w) s fun t => Tab.get 0 t.tshadow (tblKey 10 (dieCode (.cr c)) 0 0 0 i) =
      s.portWords (.cr c) .fus Reg.FUS_TBL_DATA_DATA 16 w.toNat + 1) ∧
  (∀ (p : Path) (c : Crown) (i : Nat) (s : State), s.deadRead p (.cr c) .fus = none →
    s.getF (.cr c) .fus 0 Reg.FUS_TBL_SPACE_SPACE = 1 → s.getF (.cr c) .fus 0 Reg.FUS_TBL_INDEX_INDEX = i → i < 8192 →
    Does (.fusTableRead p c) s fun t => Tab.get 0 t.rdData (pathCode p) = s.mapRec c i % 2 ^ 32)

/-- A UDP frame with a good TMF of a known stream is accepted, and its number remembered. Rests on R278, R279, R289 to
R291. Each clause says for one form, under hypotheses on the state and the operands alone, that the command answers a
next state and what that state holds. -/
def Obligations.EthFrameReceiveCompletes : Prop :=
∀ (c : Crown) (p : Fin 4) (frame body : List Byte) (x : EthIn) (q : IpIn) (i : Nat) (s : State), s.ethUp c p = true →
    s.ethChecks c p frame = .ok x → x.etype ≠ 0x0806 → x.etype ≠ 0x88F7 → ipCheck x = some q → q.proto = 17 →
    udpOk q = true → be q.data 2 2 ≠ 319 → be q.data 2 2 ≠ 320 → body = (q.data.take (be q.data 4 2)).drop 8 →
    s.udpStreams c (be q.data 2 2) ≠ [] → be body 0 2 = 0x544D →
    ((s.udpStreams c (be q.data 2 2)).filter fun j => bit (sPorts (s.streamEnt c j)) p).find?
      (fun j => sTmf (s.streamEnt c j) && sSource (s.streamEnt c j) == be body 8 4) = some i →
    36 ≤ body.length → be body (body.length - 4) 4 = crc32 (body.take (body.length - 4)) → tmfOk body = true →
    be body 16 8 ≤ s.taiNow (.cr c) + 1000000000 → s.duplicate c i (be body 12 4) = false →
    (∀ r ∈ tmfRecords body, r.1 < sChans (s.streamEnt c i)) →
    Does (.ethFrameReceive c p frame) s fun t => t.duplicate c i (be body 12 4) = true

/-- A lost master starts holdover, and a leap second changes the UTC offset. Rests on R48, R283, R284. Each clause says
for one form, under hypotheses on the state and the operands alone, that the command answers a next state and what that
state holds. -/
def Obligations.PtpCommandsComplete : Prop :=
(∀ (m : Master) (s : State), s.ptp.sel = some m → s.isF cr0 .bal 0 Reg.BAL_STATUS_TAI_VALID = true →
    s.ptp.lastSync + intervals 3 m.logInt ≤ s.time →
    Does .ptpSyncTimeout s fun t => t.isF cr0 .bal 0 Reg.BAL_STATUS_TAI_VALID = false ∧
      t.isF cr0 .bal 0 Reg.BAL_STATUS_HOLDOVER = true) ∧
  (∀ s : State, s.ptp.leap ≠ 0 → (s.ptp.leapAt + s.utcNow + s.ptp.leap) * 1000000000 ≤ (s.taiNow cr0 : Int) →
    Does .leapSecond s fun t => t.ptp.utc = s.ptp.utc + s.ptp.leap ∧ t.ptp.leap = 0)

/-- Intervals close and are committed, tariff changes and setpoint sets take effect, the ledger opens. Rests on R330 to
R341. Each clause says for one form, under hypotheses on the state and the operands alone, that the command answers a
next state and what that state holds. -/
def Obligations.LedgerIntervalCommandsComplete : Prop :=
(∀ (b : Nat) (s : State), s.ldgNext = some (b, 0) →
    Does .intervalClose s fun t => t.ldg.start = b ∧ t.ldg.wait.length = s.ldg.wait.length + 1) ∧
  (∀ (b : Nat) (s : State), s.ldgNext = some (b, 1) →
    Does .tariffChangeEffect s fun t => ∀ i, (b, i) ∈ s.changesDue → kValid (t.ldgRec 2 i) = false) ∧
  (∀ s : State, s.atFrame cr0 = true → s.isF cr0 .ldg 0 Reg.LDG_IN_VALID = true →
    s.hasLanded 0 (s.getF cr0 .ldg 0 Reg.LDG_IN_TAG) = true → s.ldgState = 2 →
    Does .setpointSetProcess s fun t => ∃ x, t.ldg.sets = s.ldg.sets ++ [x] ∧ s.beat cr0 ≤ x.eff) ∧
  (∀ (b : Nat) (s : State), s.ldgNext = some (b, 2) →
    Does .setpointSetEffective s fun t => ∀ x ∈ t.ldg.sets, x.eff ≠ b) ∧
  (∀ s : State, s.ldgState = 1 → (s.die cr0).taiEver = true →
    Does .ledgerOpen s fun t => t.ldgState = 2 ∧ t.ldg.start = max (s.die cr0).taiAt s.ldg.enAt) ∧
  (∀ (bad : List (Nat × List Byte)) (c : Closing) (rest : List Closing) (s : State), s.ldg.busy = none →
    s.powered cr0 .ldg = true → s.ldg.wait = c :: rest →
    Does (.intervalCommit bad) s fun t => t.ldg.busy = some c ∧ t.ldg.wait = rest ∧ t.ldg.seq = s.ldg.seq + 1) ∧
  (∀ (bad : Option (List Byte)) (c : Closing) (s : State), s.ldg.busy = some c →
    s.ldg.busyAt + writeBeats (blocksOf c.count) s.ldgSclk ≤ s.time →
    Does (.intervalCommitDone bad) s fun t => t.ldg.busy = none ∧ t.ldg.out = some (s.ldg.seq, blocksOf c.count))

/-- The table image and the output area are written, and the table port is used. Rests on R331, R339, R343, R347, R505.
Each clause says for one form, under hypotheses on the state and the operands alone, that the command answers a next
state and what that state holds. -/
def Obligations.LedgerTableCommandsComplete : Prop :=
(∀ (bad : List (Nat × List Byte)) (s : State), s.ldg.tabDirty = true → s.ldg.busy = none → s.ldg.wait = [] →
    s.ldg.pfAt = 0 → s.ldgState ≠ 0 → s.powered cr0 .ldg = true →
    Does (.tableImageWrite bad) s fun t => t.ldg.tabDirty = false ∧ t.ldg.tseq = s.ldg.tseq + 1) ∧
  (∀ (seq blocks : Nat) (s : State), s.ldg.out = some (seq, blocks) → Does .ledgerOutputCopy s fun t => t.ldg.out = none) ∧
  (∀ (w : Word) (s : State), s.powered cr0 .ldg = true → s.ldgSpace < 4 → s.ldgIndex < ldgSize s.ldgSpace →
    s.lateWr = false →
    Does (.ldgTableWrite w) s fun t => Tab.get 0 t.tshadow (tblKey (16 + s.ldgSpace) 4 0 0 0 s.ldgIndex) =
      s.portWords cr0 .ldg Reg.LDG_TBL_DATA_DATA 4 w.toNat + 1) ∧
  (∀ (p : Path) (s : State), s.deadRead p cr0 .ldg = none → s.ldgSpace < 4 → s.ldgIndex < ldgSize s.ldgSpace →
    Does (.ldgTableRead p) s fun t => Tab.get 0 t.rdData (pathCode p) = s.ldgRec s.ldgSpace s.ldgIndex % 2 ^ 32) ∧
  (∀ (w : Word) (s : State), s.powered cr0 .ldg = true → 4 ≤ s.ldgSpace → s.ldgSpace < 6 → w.toNat < 684 →
    Does (.ldgFramReadStart w) s fun t => t.ldg.rd = some (s.ldgSpace, w.toNat)) ∧
  (∀ (i : Nat) (s : State), s.ldg.rd = some (4, i) →
    Does .ldgFramReadDone s fun t => t.ldg.rd = none ∧ t.ldg.buf = framBytes s.fram (intAddr 0 i) 128)

/-- Power fails, the domains go off, and power returns. Rests on R367, R368, R370, R491. Each clause says for one form,
under hypotheses on the state and the operands alone, that the command answers a next state and what that state holds. -/
def Obligations.PowerLossCommandsComplete : Prop :=
(∀ (cause : Fin 4) (s : State), cause.val ≠ 0 → s.isF cr0 .pwr 0 Reg.PWR_STATUS_PF = false → 2 ≤ s.phase →
    Does (.powerFail cause) s fun t => t.isF cr0 .pwr 0 Reg.PWR_STATUS_PF = true ∧ t.ldg.pfAt = s.beat cr0 + 1 ∧
      (t.die cr0).log.head?.map LogRec.rc = some 0x8005) ∧
  (∀ s : State, s.isF cr0 .pwr 0 Reg.PWR_STATUS_PF = true → s.atFrame cr0 = true →
    Does .powerFailDomainsOff s fun t => ∀ k < 16, k ≠ 13 → t.domOn k = false) ∧
  (∀ s : State, s.isF cr0 .pwr 0 Reg.PWR_STATUS_PF = true → s.pins.pwrcycReq = false → s.pins.oos = false →
    (s.pow cr0).pfAt - 1 + 100 * msBeats ≤ s.time →
    Does .powerReturn s fun t => t.pins.pwrcycReq = true) ∧
  (∀ (d : Die) (s : State), s.isF cr0 .pwr 0 Reg.PWR_STATUS_THSD = false → s.hasDie d = true →
    s.isF d .thm 0 Reg.THM_STATUS_TRIP = true →
    Does .thermalShutdown s fun t => t.isF cr0 .pwr 0 Reg.PWR_STATUS_THSD = true ∧ ∀ k < 16, k ≠ 13 → t.domOn k = false) ∧
  (∀ s : State, s.ldgState = 4 → s.isF cr0 .pwr 0 Reg.PWR_STATUS_PF = true →
    Does .ledgerHaltedCrfOff s fun t => ∀ k < 16, t.domOn k = false)

/-- AON resets, the monitors, the straps and the reference. Rests on R7, R373 to R379, R491. Each clause says for one
form, under hypotheses on the state and the operands alone, that the command answers a next state and what that state
holds. -/
def Obligations.PowerUpCommandsComplete : Prop :=
(∀ s : State, Does (.powerOnReset 0) s fun t =>
    (∃ a, t.boot = { monAt := a }) ∧ t.dieIds = s.dieIds ∧ t.links = [] ∧ t.mem = [] ∧ t.fram = s.fram ∧ t.time = s.time ∧ t.pending = s.pending) ∧
  (∀ s : State, s.x2 = true → Does (.powerOnReset 1) s fun t => t.die (.cr 1) = {} ∧ t.monGood (.aon 1) = false) ∧
  (∀ (m : Monitor) (mv : Nat) (variant : Fin 4) (pkg : Fin 16) (refSel pfLow : Bool) (s : State), s.monGood m = false →
    (m = .aon 1 → s.x2 = true) → monRise m ≤ mv → s.monSince m + msBeats ≤ s.time → s.boot.t0 ≠ 0 →
    Does (.monitorGood m mv variant pkg refSel pfLow) s fun t => t.monGood m = true) ∧
  (∀ (mv : Nat) (variant : Fin 4) (pkg : Fin 16) (refSel : Bool) (s : State), s.monGood .bus = false → s.monGood (.aon 0) = true →
    650 ≤ mv → s.monSince .bus + msBeats ≤ s.time → s.boot.t0 = 0 → variant.val = s.getF cr0 .cfg 0 Reg.CFG_VARIANT →
    Does (.monitorGood .bus mv variant pkg refSel false) s fun t => t.boot.t0 = s.time + 1 ∧ t.phase = 2 ∧ t.pkgId = pkg.val) ∧
  (∀ (m : Monitor) (mv : Nat) (s : State), s.monGood m = true → mv < monFall m →
    Does (.monitorNotGood m mv) s fun t => t.monGood m = false ∧
      (m = .holdUp → 2 ≤ s.phase → t.isF cr0 .boot 0 Reg.BOOT_MON_HU_LOW = true)) ∧
  (∀ (m : Monitor) (mv : Nat) (s : State), s.monGood m = false → bit (s.getF cr0 .boot 0 Reg.BOOT_MON_BAND) (monNum m) = false →
    (m = .aon 1 → s.x2 = true) → monFall m ≤ mv → mv < monRise m → s.monSince m + 500 * msBeats ≤ s.time →
    Does (.monitorBandTimeout m mv) s fun t => bit (t.getF cr0 .boot 0 Reg.BOOT_MON_BAND) (monNum m) = true ∧ t.trayAlert = true) ∧
  (∀ (variant : Fin 4) (pkg : Fin 16) (refSel : Bool) (s : State), s.boot.held = true → s.phase = 1 →
    variant.val = s.getF cr0 .cfg 0 Reg.CFG_VARIANT →
    Does (.pwrFailRelease variant pkg refSel) s fun t => t.phase = 2 ∧ t.boot.held = false ∧ t.boot.since = s.time) ∧
  (∀ s : State, s.phase = 2 → s.boot.pref = false → s.time ≤ s.refLimit →
    Does .referenceDetect s fun t => t.boot.pref = true ∧ t.isF cr0 .bal 0 Reg.BAL_STATUS_REF_OK = true) ∧
  (∀ s : State, s.phase = 2 → s.boot.pref = false →
    s.boot.since + (if s.isF cr0 .boot 0 Reg.BOOT_STRAP_REF_SEL then 1 else 20) * msBeats ≤ s.time →
    Does .referenceTimeout s fun t => t.phase = 15 ∧ t.getF cr0 .boot 0 Reg.BOOT_HALT_HALT_RC = 0x2005) ∧
  (∀ (d : Die) (s : State), s.hasDie d = true → s.powered d .bal = true → s.boot.pref = true →
    s.isF d .bal 0 Reg.BAL_STATUS_PLL_LOCK = false → max s.boot.prefAt (s.die d).onAt + 3 * msBeats ≤ s.time → s.phase < 8 →
    Does (.pllLockTimeout d) s fun t => t.phase = 15)

/-- The flash pass, the power sequence, HBM training and the start window, and a restart after a halt. Rests on R353,
R381 to R407. Each clause says for one form, under hypotheses on the state and the operands alone, that the command
answers a next state and what that state holds. -/
def Obligations.StartUpCommandsComplete : Prop :=
(∀ (f : FlashInfo) (s : State), s.phase = 3 → s.boot.flashOk = false → f.sfdp = true → f.octal = true → 29 ≤ f.density → 100 ≤ f.mhz →
    Does (.flashDiscover (some f)) s fun t => t.boot.flashOk = true) ∧
  (∀ (copyA copyB fw seeds fw1 seeds1 : List Byte) (ports : List PortAddr) (s : State), s.phase = 3 → s.boot.flashOk = true →
    s.objectFault 1 areaRecord copyA = none → s.objectFault 2 areaFw fw = none →
    (s.x2 = true → s.objectFaultBy s.cr1Root 2 areaFw fw = none) →
    Does (.flashPass copyA copyB fw seeds fw1 seeds1 ports) s fun t => ∃ u : State, t = u.endVerify ∧
      u.topo = topoOf (entriesOf (oBody copyA)) ∧ u.phase = 4 ∧
      u.boot.record = ((entriesOf (oBody copyA)).filter fun e => bit e.2.2 s.pkgId).map fun e => (e.1, e.2.1)) ∧
  (∀ (image : List Byte) (s : State), 5 ≤ s.phase → s.phase ≠ 15 → s.isF cr0 .boot 0 Reg.BOOT_STATUS_FLASH_DONE = false →
    s.hbmTrained (.mv 0) = true → (oMagic image ≠ 0x54534F31 ∨ oType image ≠ 3) →
    Does (.flashPassResume image) s fun t => t.isF cr0 .boot 0 Reg.BOOT_STATUS_FLASH_DONE = true ∧ t.boot.imgBytes = 0) ∧
  (∀ (k : Nat) (b ok : Bool) (s : State), s.boot.busyDom = some (k, b) → k < 16 → s.boot.record = [] →
    Does (.domainOn ok) s fun t => t.domOn k = true) ∧
  (∀ (w : BitVec 16) (s : State), (s.x2 = true ∨ w.toNat / 2 ^ 14 % 4 = 0) → domMaskOk w.toNat = true →
    (∀ k ∈ domOrder, s.domOn k = true → bit w.toNat k = false → s.domBusy k = false ∧ s.imageNames k = false) →
    Does (.domainSwitchRequest w) s fun t => t.getF cr0 .pwr 0 Reg.PWR_DOM_ON = w.toNat ∧
      ∀ k < 16, t.domOn k = true → bit w.toNat k = true) ∧
  (∀ (c : Crown) (width speed : Fin 8) (s : State), s.hasDie (.cr c) = true → (s.host c).perst = false →
    Does (.perstDeassert c width speed) s fun t => (t.host c).perst = true ∧
      (s.powered (.cr c) .pci = true → t.isF (.cr c) .pci 0 Reg.PCI_STATUS_LINK_UP = true)) ∧
  (∀ (m : Mv) (k : Fin 2) (s : State), s.powered (.mv m) .mem = true → k.val ∈ s.hbmStacks →
    bit s.boot.hbmOk (2 * m.val + k.val) = false → bit s.recov.hbmRecal (2 * m.val + k.val) = false → Tab.get 0 s.boot.hbmTries (2 * m.val + k.val) < s.hbmTriesMax →
    Does (.hbmTrainingDone m k true) s fun t => bit t.boot.hbmOk (2 * m.val + k.val) = true) ∧
  (∀ (c : Crown) (s : State), (s.die (.cr c)).trayAt ≠ 0 → s.isF (.cr c) .tray 0 Reg.TRY_STATUS_WIN_DONE = false →
    (s.die (.cr c)).trayAt - 1 + s.startWin c ≤ s.time → s.powered (.cr c) .tray = true → s.boot.waitLoad = false →
    Does (.startWindowEnd c) s fun t => t.isF (.cr c) .tray 0 Reg.TRY_STATUS_WIN_DONE = true) ∧
  (∀ s : State, s.phase = 15 → s.getF cr0 .boot 0 Reg.BOOT_HALT_HALT_RC ≠ 0x2008 →
    Does .restart s fun t => t.phase = 2 ∧ t.topo = [] ∧ t.boot.since = s.time)

/-- An image is loaded, activated and unloaded, the package is reset, and comes back into service. Rests on R398 to R403,
R457, R466. Each clause says for one form, under hypotheses on the state and the operands alone, that the command answers
a next state and what that state holds. -/
def Obligations.ImageCommandsComplete : Prop :=
(∀ (img : Image) (ldgOk : Bool) (s : State), s.phase = 9 → s.boot.loaded = false → s.recov.hbmRecal = 0 → s.imageFault img = none →
    s.peersKnown = true → img.packages.length ≤ 1 → (s.dom 4).level ≠ 4 →
    Does (.imageLoad img ldgOk) s fun t => ∃ u v : State, u.boot.loaded = true ∧ u.boot.hash = oBodyHash s.imgObject.2 ∧
      v = (((u.crowns.foldl (fun (x : State) c => x.recEnable .fus (.cr c) 0) u).recEnable .ldg cr0 0 ldgOk).endStep 10).holdSuspects ∧
      t = v.setAct (turnAfter (8 * turnBeats) (v.beat cr0) / turnBeats)) ∧
  (∀ s : State, s.phase = 8 → s.pins.oos = false → s.isF cr0 .boot 0 Reg.BOOT_CTL_ENABLE = true → s.imgRangeOk = true →
    Does .imageLoadHost s fun t => t.phase = 9 ∧ t.boot.loadSrc = 1) ∧
  (∀ s : State, s.phase = 10 →
    Does .imageUnload s fun t => t.boot.stopTurn = turnAfter (8 * turnBeats) (s.beat cr0) / turnBeats + 1) ∧
  (∀ s : State, s.phase = 10 → s.boot.stopTurn ≠ 0 → s.atTurn cr0 = true → s.boot.stopTurn - 1 ≤ s.turn cr0 →
    Does .imageStop s fun t => t.phase = 8 ∧ t.boot.image = none ∧ t.boot.loaded = false ∧ t.mem = s.mem) ∧
  (∀ (pkg : Fin 16) (hash : BitVec 384) (s : State), s.isFollower = false → s.phase = 9 → s.boot.loaded = false →
    Does (.loadReport pkg hash) s fun t => (pkg.val, hash.toNat, s.beat cr0) ∈ t.boot.reports) ∧
  (∀ s : State, s.phase = 9 → s.boot.loaded = true → s.boot.actTurn ≠ 0 → s.atTurn cr0 = true →
    s.boot.actTurn - 1 ≤ s.turn cr0 → s.overdue 4 = false →
    Does .imageActivate s fun t => ∃ u : State, u.phase = 10 ∧ u.boot.actTurn = 0 ∧
      t = (u.imageFns.foldl (fun (x : State) f => x.enableFn f.1 f.2 0 true) u).startContexts) ∧
  (∀ s : State, (s.dom 4).level = 4 → (s.dom 4).step = 3 → (s.dom 4).oos = false → s.overdue 4 = false → 8 ≤ s.phase →
    s.phase ≠ 15 → s.boot.image ≠ none →
    Does .chipReset s fun t => t.phase = 9 ∧ (t.dom 4).step = 4 ∧ t.boot.loaded = false ∧ t.recov.hbmRecal = t.boot.hbmOk) ∧
  (∀ s : State, s.pins.oos = true →
    Does .oosClear s fun t => ∃ u v : State, u.pins.oos = false ∧ u.isF cr0 .rcv 0 Reg.RCV_STATUS_OOS = false ∧
      v = mvDies.foldl (fun (x : State) d => x.resetMvc d) (u.chipReset 0) ∧
      t = v.trayPorts.foldl (fun (x : State) n => if x.pf n Reg.TRYP_PORT_CTL_PEER_VALID == 1 then
        x.enableFn .port (leDie (.tray n)) (leInst (.tray n)) true else x) v)

/-- Rollback counters, the flash port, and debug tokens. Rests on R387, R388, R408, R411, R412. Each clause says for one
form, under hypotheses on the state and the operands alone, that the command answers a next state and what that state
holds. -/
def Obligations.TrustCommandsComplete : Prop :=
(∀ (w : Word) (s : State), w.toNat % 4 < 3 → s.rbMin (w.toNat % 4) < bitsOf w.toNat 2 7 → bitsOf w.toNat 2 7 ≤ 64 →
    bitsOf w.toNat 2 7 ≤ s.getF cr0 .sec 0 Reg.SEC_VERSION (4 * (w.toNat % 4)) → s.boot.blow = none →
    Does (.rollbackCommit w) s fun t => t.boot.blow = some (w.toNat % 4, bitsOf w.toNat 2 7, s.time)) ∧
  (∀ (c v since : Nat) (s : State), s.boot.blow = some (c, v, since) → c < 3 → v ≤ 64 →
    Does .rollbackCommitDone s fun t => t.rbMin c = v ∧ t.boot.blow = none) ∧
  (∀ s : State, s.isF cr0 .boot 0 Reg.BOOT_STATUS_FLASH_DONE = true → s.boot.flCmd = 0 →
    Tab.get 0 s.resv (winBase cr0 + blkOff .boot 0 + Reg.BOOT_FL_ADDR.off) = 0 →
    (s.getF cr0 .boot 0 Reg.BOOT_FL_ADDR + 256 ≤ 2 ^ 26 →
      Does .flashRead s fun t => t.boot.flTx = some (1, s.getF cr0 .boot 0 Reg.BOOT_FL_ADDR, []) ∧ t.boot.flCmd = 1) ∧
    (Does .flashProgram s fun t =>
      t.boot.flTx = some (2, s.getF cr0 .boot 0 Reg.BOOT_FL_ADDR / 256 * 256, s.flData) ∧ t.boot.flCmd = 2) ∧
    (Does .flashErase s fun t => t.boot.flCmd = 3 ∧ t.boot.flTx = some (3, s.getF cr0 .boot 0 Reg.BOOT_FL_ADDR /
      2 ^ max 12 (s.getF cr0 .boot 0 Reg.BOOT_FLASH_ERASE) * 2 ^ max 12 (s.getF cr0 .boot 0 Reg.BOOT_FLASH_ERASE), [])) ∧
    (Does .flashStatus s fun t => t.boot.flTx = some (4, 0, []) ∧ t.boot.flCmd = 4)) ∧
  (∀ (err : Bool) (data : List Byte) (s : State), s.boot.flCmd ≠ 0 →
    Does (.flashCommandDone err data) s fun t => t.boot.flCmd = 0 ∧
      (err = true → t.isF cr0 .boot 0 Reg.BOOT_FL_CMD_ERR = true) ∧
      (err = false → s.boot.flCmd = 1 → ∀ i < 64, 4 * i + 4 ≤ data.length →
        t.getF cr0 .boot 0 Reg.BOOT_FL_DATA_DATA (4 * i) = leNat (cut data (4 * i) 4))) ∧
  (∀ (l : List Byte) (s : State),
    l = ((List.range 84).map fun i => leBytes 4 (s.getF cr0 .sec 0 Reg.SEC_DBG_TOKEN (4 * i))).flatten →
    s.tokenOk l = true → (bit (leNat (cut (oBody l) 32 4)) 2 = false ∨ s.phase ≠ 10) →
    Does .debugTokenSubmit s fun t => t.getF cr0 .sec 0 Reg.SEC_DBG_SCOPE = leNat (cut (oBody l) 32 4) ∧
      t.boot.dbgTurn = s.turn cr0) ∧
  (∀ (l : List Byte) (s : State), s.tapOn = true → s.tokenOk l = true →
    (bit (leNat (cut (oBody l) 32 4)) 2 = false ∨ s.phase ≠ 10) →
    Does (.jtagUnlock l) s fun t => t.getF cr0 .sec 0 Reg.SEC_DBG_SCOPE = leNat (cut (oBody l) 32 4) ∧ t.boot.jtagIr = 6) ∧
  (∀ s : State, Does .debugLock s fun t => t.getF cr0 .sec 0 Reg.SEC_DBG_SCOPE = 0) ∧
  (∀ s : State, s.getF cr0 .sec 0 Reg.SEC_DBG_SCOPE ≠ 0 → s.atTurn cr0 = true →
    s.getF cr0 .sec 0 Reg.SEC_DBG_LEFT_LEFT ≤ s.turn cr0 - s.boot.dbgTurn →
    Does .debugLifetimeExpiry s fun t => t.getF cr0 .sec 0 Reg.SEC_DBG_SCOPE = 0)

/-- The JTAG instructions, the private one with the scope it needs. Rests on R410, R411. Each clause says for one form,
under hypotheses on the state and the operands alone, that the command answers a next state and what that state holds. -/
def Obligations.JtagCommandsComplete : Prop :=
(∀ (tdi : List Bool) (s : State), s.tapOn = true →
    (Does (.bypass tdi) s fun t => t.boot.jtagIr = 0 ∧ t.boot.jtagOut = (false :: tdi).take tdi.length) ∧
    (Does (.idcode tdi) s fun t => t.boot.jtagIr = 1 ∧
      t.boot.jtagOut = (((List.range 32).map fun i => bit s.idcode i) ++ tdi).take tdi.length) ∧
    (Does (.samplePreload tdi) s fun t => t.boot.jtagIr = 2 ∧ t.boot.jtagBsr = tdi)) ∧
  (∀ (tdi : List Bool) (s : State), s.tapOn = true → s.scanOpen = true →
    (Does (.extest tdi) s fun t => t.ballDrive = 1 ∧ t.boot.jtagBsr = tdi) ∧
    (Does (.clamp tdi) s fun t => t.ballDrive = 1 ∧ t.boot.jtagBsr = s.boot.jtagBsr) ∧
    (Does (.highz tdi) s fun t => t.ballDrive = 2)) ∧
  (∀ (tdi : List Bool) (s : State), s.tapOn = true → s.scanOpen = false →
    (Does (.extest tdi) s fun t => t.ballDrive = 0) ∧ (Does (.clamp tdi) s fun t => t.ballDrive = 0) ∧
    (Does (.highz tdi) s fun t => t.ballDrive = 0)) ∧
  (∀ (pa : BitVec 48) (tdi : List Bool) (s : State), bit (s.getF cr0 .sec 0 Reg.SEC_DBG_SCOPE) 1 = true →
    Does (.privateInstruction (.memRead pa) tdi) s fun t => t.boot.jtagIr = 7 ∧
      t.boot.jtagOut = (bitList (s.rd32 (pa.toNat / 4 * 4)) 32 ++ tdi).take tdi.length ∧ t.mem = s.mem) ∧
  (∀ (a : Word) (tdi : List Bool) (s : State), bit (s.getF cr0 .sec 0 Reg.SEC_DBG_SCOPE) 1 = true →
    Does (.privateInstruction (.msRead a) tdi) s fun t => t.boot.jtagIr = 7 ∧
      t.boot.jtagOut = (bitList (s.msRead .tap (a.toNat / 4 * 4)).1 32 ++ tdi).take tdi.length) ∧
  (∀ (op : PrivOp) (tdi : List Bool) (s : State), s.tapOn = true → s.getF cr0 .sec 0 Reg.SEC_DBG_SCOPE = 0 →
    Does (.privateInstruction op tdi) s fun t => t.boot.jtagIr = 7 ∧ t.boot.jtagOut = (false :: tdi).take tdi.length ∧
      t.mem = s.mem ∧ t.recov = s.recov) ∧
  (∀ (d : Die) (on : Bool) (tdi : List Bool) (s : State), bit (s.getF cr0 .sec 0 Reg.SEC_DBG_SCOPE) 2 = true →
    Does (.privateInstruction (.halt d on) tdi) s fun t => bit t.recov.halted (dieCode d) = on)

/-- A change set is armed or refused, confirmed, decided and applied, or discarded and aborted; a hack runs. Rests on
R11, R49, R163, R401, R419, R425 to R439. Each clause says for one form, under hypotheses on the state and the operands
alone, that the command answers a next state and what that state holds. -/
def Obligations.ChangeSetCommandsComplete : Prop :=
(∀ (w : Word) (u s : State), bit w.toNat 1 = false → u = s.armWrite (clrBit w.toNat 0) →
    u.armCheck (u.isF cr0 .cfg 0 Reg.CFG_ARM_SCOPE) (u.isF cr0 .cfg 0 Reg.CFG_ARM_BY_TAI)
      (u.getF cr0 .cfg 0 Reg.CFG_ARM_HACK_LEN) (u.armTurn (u.isF cr0 .cfg 0 Reg.CFG_ARM_BY_TAI)) = none →
    Does (.armGo w) s fun t => t.chg.armed = true ∧ t.chg.setId = u.getF cr0 .cfg 0 Reg.CFG_ARM_SET_ID ∧
      t.chg.turn = u.armTurn (u.isF cr0 .cfg 0 Reg.CFG_ARM_BY_TAI)) ∧
  (∀ (w : Word) (rc : Nat) (u s : State), bit w.toNat 1 = false → u = s.armWrite (clrBit w.toNat 0) →
    u.armCheck (u.isF cr0 .cfg 0 Reg.CFG_ARM_SCOPE) (u.isF cr0 .cfg 0 Reg.CFG_ARM_BY_TAI)
      (u.getF cr0 .cfg 0 Reg.CFG_ARM_HACK_LEN) (u.armTurn (u.isF cr0 .cfg 0 Reg.CFG_ARM_BY_TAI)) = some rc →
    Does (.armGo w) s fun t => t.chg = s.chg ∧ t.getF cr0 .cfg 0 Reg.CFG_ARM_STATUS_REASON = rc) ∧
  (∀ (w : Word) (s : State), bit w.toNat 0 = false → s.chg.armed = false →
    Does (.armDiscard w) s fun t => t.shadow = [] ∧ t.tshadow = [] ∧
      ∀ i < 64, t.isF cr0 .cfg 0 Reg.CFG_STAGE_OFF_VALID (8 * i) = false) ∧
  (∀ (w : Word) (s : State), bit w.toNat 0 = false → s.chg.armed = true → s.chg.decided = 0 →
    Does (.armDiscard w) s fun t => t.chg.armed = false ∧ t.getF cr0 .cfg 0 Reg.CFG_ARM_STATUS_REASON = 0x1006) ∧
  (∀ (e : LinkEnd) (r : SbSlot) (m : ArmMsg) (u s : State), s.armTakes e r opArm = (some m, u) →
    (∀ f, relayEnd e opArm m.die = some f → Does (.arm e r) s fun t => t = u.sbSend f 0x1C (armBody opArm m)) ∧
    (relayEnd e opArm m.die = none → isTray e = false → leDie e ≠ cr0 →
      Does (.arm e r) s fun t => ∃ p, t.part (leDie e) = some p ∧ p.turn = m.turn ∧ p.decision = 0)) ∧
  (∀ (e : LinkEnd) (r : SbSlot) (m : ArmMsg) (d : Die) (u s : State), s.armTakes e r opConfirm = (some m, u) →
    isTray e = false → leDie e = cr0 → relayEnd e opConfirm m.die = none → u.chg.armed = true → u.chg.decided = 0 →
    m.setId = u.chg.setId → m.turn = u.chg.turn → dieOfCode m.die = some d →
    (m.ok = true → Does (.confirm e r) s fun t => bit (t.getF cr0 .cfg 0 Reg.CFG_ARM_STATUS_CONFIRMED) (dieCode d) = true) ∧
    (m.ok = false → u.chg.reason = 0 → Does (.confirm e r) s fun t => t.chg.reason = knownCode m.reason)) ∧
  (∀ (e : LinkEnd) (r : SbSlot) (m : ArmMsg) (u s : State), s.armTakes e r opConfirm = (some m, u) → isTray e = true →
    u.isFollower = false → u.chg.armed = true → u.chg.decided = 0 → m.setId = u.chg.setId → m.turn = u.chg.turn →
    m.ok = true → u.chg.act = false → m.pkg < 16 →
    Does (.confirm e r) s fun t => bit (t.getF cr0 .cfg 0 Reg.CFG_ARM_TRAY_PKG_OK) m.pkg = true) ∧
  (∀ s : State, s.chg.armed = true → s.chg.tray = true → s.chg.pkgSent = false → s.chg.decided = 0 → s.atTurn cr0 = true →
    s.chg.turn ≤ s.turn cr0 + 9 → s.isFollower = false → s.allConfirmed = true → s.pkgId < 16 →
    Does .packageConfirm s fun t => t.chg.pkgSent = true ∧
      bit (t.getF cr0 .cfg 0 Reg.CFG_ARM_TRAY_PKG_OK) s.pkgId = true) ∧
  (∀ s : State, s.chg.armed = true → s.chg.decided = 0 → s.atTurn cr0 = true → s.chg.turn ≤ s.turn cr0 + 8 →
    s.chg.tray = false →
    (s.allConfirmed = true → Does .armDecision s fun t => t.chg.decided = 1) ∧
    (s.allConfirmed = false → s.chg.reason = 0 →
      Does .armDecision s fun t => t.chg.armed = false ∧ t.getF cr0 .cfg 0 Reg.CFG_ARM_STATUS_REASON = 0x1006)) ∧
  (∀ (e : LinkEnd) (r : SbSlot) (m : ArmMsg) (p : Part) (u s : State), isTray e = false → u.part (leDie e) = some p →
    p.turn = m.turn →
    (s.armTakes e r opCommit = (some m, u) → relayEnd e opCommit m.die = none →
      Does (.commit e r) s fun t => t.part (leDie e) = some { p with decision := 1 }) ∧
    (s.armTakes e r opAbort = (some m, u) → relayEnd e opAbort m.die = none →
      Does (.abort e r) s fun t => t.part (leDie e) = none)) ∧
  (∀ (e : LinkEnd) (r : SbSlot) (m : ArmMsg) (u s : State), isTray e = true → u.chg.armed = true → u.chg.decided = 0 →
    m.setId = u.chg.setId → m.turn = u.chg.turn →
    (s.armTakes e r opCommit = (some m, u) → Does (.commit e r) s fun t => t.chg.decided = 1) ∧
    (s.armTakes e r opAbort = (some m, u) → Does (.abort e r) s fun t => t.chg.armed = false)) ∧
  (∀ s : State, s.atTurn cr0 = true → s.chg.armed = true → s.chg.turn ≤ s.turn cr0 → s.chg.decided = 1 →
    Does .changeSetApply s fun t => t.chg.armed = false ∧ t.chg.decided = 0 ∧
      ((∀ d ∈ s.dieList, s.part d = none) → s.chg.hackLen ≠ 0 →
        t.hack.due = some (1024 * s.chg.turn + s.getF cr0 .bal 0 Reg.BAL_HACK_WIN_START, s.chg.hackLen))) ∧
  (∀ (d : Die) (n : Fin 4) (p : Part) (v : Nat) (s : State), s.atTurn cr0 = true → s.hasDie d = true →
    (∀ x ∈ s.dieList, x ≠ d → s.part x = none) → s.part d = some p → p.turn ≤ s.turn d → p.decision = 1 →
    p.fields = [(fkey d .trayPort n.val Reg.TRYP_ERR_CFG_THRESH 0, v)] → p.tables = [] → s.chg.bank = false →
    s.chg.armed = false → (∃ c, d = .cr c) →
    Does .changeSetApply s fun t => t.getF d .trayPort n.val Reg.TRYP_ERR_CFG_THRESH = v % 2 ^ 16 ∧ t.part d = none) ∧
  (∀ (f n : Nat) (s : State), s.hack.due = some (f, n) → s.hack.active = false → s.atFrame cr0 = true → f ≤ s.frame cr0 →
    Does .hackStart s fun t => t.hack.active = true ∧ t.chg.waitB = [] ∧
      (s.chg.waitB = [] → ∀ d ∈ s.dieList, t.isF d .bal 0 Reg.BAL_STATUS_HACK_ACTIVE = true)) ∧
  (∀ (f n : Nat) (s : State), s.hack.due = some (f, n) → s.hack.active = true → f + n ≤ s.frame cr0 →
    Does .hackEnd s fun t => t.hack.active = false ∧ t.hack.due = none ∧
      t.getF cr0 .bal 0 Reg.BAL_HACK_COUNT = min (s.getF cr0 .bal 0 Reg.BAL_HACK_COUNT + 1) 255) ∧
  (∀ s : State, s.boot.rearm ≠ 0 → s.phase = 9 → s.boot.rearm - 1 ≤ s.turn cr0 → s.chg.armed = false →
    Does .abortedArmRearm s fun t => t.chg.armed = true ∧ t.chg.act = true ∧ t.boot.rearm = 0)

/-- Functions are enabled and disabled, and registers are written and read over BAR0 and SMBus, a field as its access
code says. Rests on R6, R8, R14, R418, R421, R427, R498 to R501, R504. Each clause says for one form, under hypotheses on
the state and the operands alone, that the command answers a next state and what that state holds. -/
def Obligations.AccessCommandsComplete : Prop :=
(∀ (d : Die) (fn : Fn) (inst : Fin 4) (ok : Bool) (s : State), fn ≠ .rcv → ¬(fn = .ldg ∧ d = .cr 1) →
    fnOn fn d inst.val = true → s.hasInst d (fnRegs fn).blk inst.val = true → s.powered d (fnRegs fn).blk = true →
    s.heldInReset d (fnRegs fn).blk = false → s.enabled fn d inst.val = false →
    (s.setF d (fnRegs fn).blk inst.val (fnRegs fn).refused 0).enableCheck fn d inst.val ok = none →
    Does (.functionEnable d fn inst ok) s fun t => t.enabled fn d inst.val = true ∧ ∃ u : State, u.enabled fn d inst.val = true ∧
      t = u.enableEffect fn d inst.val ok) ∧
  (∀ (d : Die) (fn : Fn) (inst : Fin 4) (s : State), fn ≠ .rcv → fnOn fn d inst.val = true →
    s.hasInst d (fnRegs fn).blk inst.val = true → s.powered d (fnRegs fn).blk = true →
    s.heldInReset d (fnRegs fn).blk = false → (imageFn fn = true → s.boot.loaded = false) →
    Does (.functionDisable d fn inst) s fun t => t.enabled fn d inst.val = false) ∧
  (∀ (c : Crown) (a w : Word) (ok : Bool) (i : Nat) (s : State), s.bar0On c = true → i < 64 →
    a.toNat = Reg.CFG_STAGE_VAL_VALUE.off + 8 * i → s.lateWr = false →
    Does (.registerWrite c a w ok) s fun t => t.getF cr0 .cfg 0 Reg.CFG_STAGE_VAL_VALUE (8 * i) = w.toNat) ∧
  (∀ (c : Crown) (a w : Word) (ok : Bool) (p : Place) (f : Fld) (s : State), s.bar0On c = true → findPlace a.toNat = some p →
    a.toNat % 4 = 0 → s.hasInst p.die p.blk p.inst = true → s.powered p.die p.blk = true → (∃ x, p.die = .cr x) →
    p.blk ∈ [Blk.trayPort, .ethPort, .ptp, .thm] → f ∈ p.row.flds → (∀ g ∈ p.row.flds, fnOfEnable p.blk g = none) →
    (f.acc = .lck → (∀ fn, gateOf p.blk f = some fn → s.enabled fn p.die p.inst = false) →
      Does (.registerWrite c a w ok) s fun t => t.getF p.die p.blk p.inst f p.k = bitsOf w.toNat f.lo f.w) ∧
    (f.acc = .w1c →
      Does (.registerWrite c a w ok) s fun t =>
        t.getF p.die p.blk p.inst f p.k = andNot (s.getF p.die p.blk p.inst f p.k) (bitsOf w.toNat f.lo f.w) % 2 ^ f.w) ∧
    (f.acc = .w1k → bitsOf w.toNat f.lo f.w = 2 ^ f.w - 1 →
      Does (.registerWrite c a w ok) s fun t => t.getF p.die p.blk p.inst f p.k = 0) ∧
    ((f.acc = .ro ∨ f.acc = .fuse) →
      Does (.registerWrite c a w ok) s fun t => t.getF p.die p.blk p.inst f p.k = s.getF p.die p.blk p.inst f p.k) ∧
    ((∀ g ∈ p.row.flds, g.acc = .arm) → (∀ g ∈ p.row.flds, s.governed p g = none) → s.lateWr = false →
      Does (.registerWrite c a w ok) s fun t => Tab.get 0 t.shadow (placeKey p f) = bitsOf w.toNat f.lo f.w + 1 ∧
        t.getF p.die p.blk p.inst f p.k = s.getF p.die p.blk p.inst f p.k)) ∧
  (∀ (c : Crown) (a w : Word) (ok : Bool) (s : State), s.bar0On c = true → a.toNat % 4 ≠ 0 →
    Does (.registerWrite c a w ok) s fun t => t = s.bumpF (.cr c) .pci 0 Reg.PCI_STATUS_MS_BAD_ACCESS) ∧
  (∀ (c : Crown) (a w : Word) (ok : Bool) (p : Place) (s : State), s.bar0On c = true → findPlace a.toNat = some p →
    a.toNat % 4 = 0 → bit w.toNat 0 = false → s.powered p.die p.blk = false →
    Does (.registerWrite c a w ok) s fun t => t = s) ∧
  (∀ (c : Crown) (a : Word) (i : Nat) (s : State), s.bar0On c = true → i < 64 →
    a.toNat = Reg.CFG_STAGE_VAL_VALUE.off + 8 * i →
    Does (.msRead c a) s fun t => Tab.get 0 t.rdData (pathCode (.bar0 c)) =
      s.getF cr0 .cfg 0 Reg.CFG_STAGE_VAL_VALUE (8 * i) % 2 ^ 32) ∧
  (∀ (c : Crown) (a : Word) (p : Place) (s : State), s.bar0On c = true → a.toNat % 4 = 0 → dieOfWin a.toNat = some p.die →
    findPlace a.toNat = some p → s.hasInst p.die p.blk p.inst = true → (∃ x, p.die = .cr x) → s.powered p.die p.blk = false →
    ¬(0x4A0000 ≤ a.toNat % 0x1000000 ∧ a.toNat % 0x1000000 < 0x4C0000) →
    Does (.msRead c a) s fun t => Tab.get 0 t.rdData (pathCode (.bar0 c)) = 0xFFFFFFFF) ∧
  (∀ (c : Crown) (rd : Bool) (s : State), s.bar0On c = true →
    Does (.msBadAccess c rd) s fun t => t.getF (.cr c) .pci 0 Reg.PCI_STATUS_MS_BAD_ACCESS =
        min (s.getF (.cr c) .pci 0 Reg.PCI_STATUS_MS_BAD_ACCESS + 1) (2 ^ Reg.PCI_STATUS_MS_BAD_ACCESS.w - 1) ∧
      (rd = true → Tab.get 0 t.rdData (pathCode (.bar0 c)) = 0xFFFFFFFF)) ∧
  (∀ (a w : Word) (s : State), s.smOn = true → smWritable a.toNat = true →
    Does (.smbusWrite a w true) s fun t => t.boot.smPtr = a.toNat ∧ t.boot.smNack = false ∧
      ∀ i < 64, a.toNat = 0x400100 + 4 * i → t.getF cr0 .boot 0 Reg.BOOT_FL_DATA_DATA (4 * i) = w.toNat) ∧
  (∀ (a w : Word) (pec : Bool) (s : State), s.smOn = true → (pec = false ∨ smWritable a.toNat = false) →
    Does (.smbusWrite a w pec) s fun t => t.boot.smNack = true ∧ t.regs = s.regs) ∧
  (∀ (a : Word) (s : State), s.smOn = true →
    Does (.smbusSetPointer a true) s fun t => t.boot.smPtr = a.toNat ∧ t.boot.smNack = false) ∧
  (∀ s : State, s.smOn = true →
    Does .smbusRead s fun t => t.boot.smPtr = (s.boot.smPtr + 4) % 2 ^ 32 ∧
      (smSubset s.boot.smPtr = false → t.boot.smOut = some (1, 0)) ∧
      (s.boot.smPtr = 0x40000C → t.boot.smOut.map Prod.fst = some 0))

/-- The frames of the commands of the beat, time and training: none changes the queue, the clock or a part of the state
that its frame does not list. -/
def Obligations.FramesOfTimeAndTraining : Prop :=
(∀ (d : Die), KeepsRest (.pllLock d)) ∧ (∀ (p : Path) (d : Die), KeepsRest (.beatLoRead p d)) ∧
  (∀ (d : Die), KeepsRest (.beatLoadSend d)) ∧ (∀ (e : LinkEnd) (r : SbSlot), KeepsRest (.beatLoad e r)) ∧
  (∀ (n : Fin 8), KeepsRest (.beatSyncAttempt n)) ∧ (∀ (n : Fin 8) (r : SbSlot), KeepsRest (.beatSyncReq n r)) ∧
  (∀ (n : Fin 8) (r : SbSlot) (stamp : Fin 32) (err : Int), KeepsRest (.beatSyncResp n r stamp err)) ∧
  (∀ (n : Fin 8), KeepsRest (.beatSyncTimeout n)) ∧ KeepsRest .syncPortLoss ∧ KeepsRest .syncHoldoverExpiry ∧
  KeepsRest .servoMapUpdate ∧ (∀ (e : LinkEnd), KeepsRest (.taiMapSend e)) ∧
  (∀ (d : Die), KeepsRest (.taiMapApply d)) ∧
  (∀ (d : Die) (kind : Fin 5) (blk : Nat) (inst : Nat), KeepsRest (.cdcStale d kind blk inst)) ∧
  (∀ (e : LinkEnd) (r : SbSlot), KeepsRest (.ptrReq e r)) ∧ (∀ (e : LinkEnd) (r : SbSlot), KeepsRest (.ptrResp e r))
  ∧ (∀ (e : LinkEnd), KeepsRest (.pointerSet e)) ∧ (∀ (e : LinkEnd), KeepsRest (.ptrHandshakeTimeout e)) ∧
  (∀ (e : LinkEnd) (r : SbSlot), KeepsRest (.fpResetReq e r)) ∧ (∀ (f : Fin 4), KeepsRest (.fpJointResetRelease f))
  ∧ (∀ (e : LinkEnd), KeepsRest (.resetRetry e)) ∧
  (∀ (e : LinkEnd) (b : Fin 16) (bits : List (List Bool)) (eyes : List Nat) (taps : List Nat) (snr : List Nat), KeepsRest (.searchPointEnd e b bits eyes taps snr))
  ∧ (∀ (e : LinkEnd) (bits : List (List (List Bool))), KeepsRest (.lanetestEnd e bits)) ∧
  (∀ (e : LinkEnd), KeepsRest (.lanetestExit e)) ∧ (∀ (e : LinkEnd) (r : SbSlot), KeepsRest (.lanemap e r)) ∧
  (∀ (e : LinkEnd), KeepsRest (.lanemapApply e)) ∧ (∀ (e : LinkEnd) (r : SbSlot), KeepsRest (.pinProbe e r)) ∧
  (∀ (e : LinkEnd) (r : SbSlot) (arrivals : List Nat), KeepsRest (.pinEcho e r arrivals)) ∧
  (∀ (d : Die), KeepsRest (.variantSelect d)) ∧
  (∀ (e : LinkEnd) (payload : List Byte), KeepsRest (.lossNotice e payload)) ∧
  (∀ (d : Die) (w : Word), KeepsRest (.gtrTableWrite d w)) ∧ (∀ (p : Path) (d : Die), KeepsRest (.gtrTableRead p d))
  ∧ (∀ (e : LinkEnd) (payload : List Byte), KeepsRest (.trayLossNotice e payload)) ∧
  (∀ (c : Crown), KeepsRest (.trayVariantSelect c)) ∧ (∀ (c : Crown) (w : Word), KeepsRest (.tryTableWrite c w)) ∧
  (∀ (p : Path) (c : Crown), KeepsRest (.tryTableRead p c))

/-- The frames of the commands of lane faults, the sideband, traffic, the tray and recalibration: none changes the queue,
the clock or a part of the state that its frame does not list. -/
def Obligations.FramesOfLinks : Prop :=
(∀ (e : LinkEnd), KeepsRest (.trainingTimeout e)) ∧
  (∀ (e : LinkEnd) (counts : List Nat), KeepsRest (.ckCountCheck e counts)) ∧
  (∀ (e : LinkEnd) (unit : Fin 16) (seg : Nat), KeepsRest (.frameMarker e unit seg)) ∧
  (∀ (e : LinkEnd) (r : SbSlot), KeepsRest (.sidebandContainer e r)) ∧
  (∀ (e : LinkEnd), KeepsRest (.sidebandSlotTransmit e)) ∧ (∀ (e : LinkEnd) (r : SbSlot), KeepsRest (.sbAck e r)) ∧
  (∀ (e : LinkEnd), KeepsRest (.sbMessageRepeat e)) ∧ (∀ (e : LinkEnd), KeepsRest (.sbAckTimeout e)) ∧
  (∀ (e : LinkEnd) (r : SbSlot), KeepsRest (.bundleRetire e r)) ∧
  (∀ (e : LinkEnd) (b : Fin 16), KeepsRest (.bundleTxStop e b)) ∧
  (∀ (e : LinkEnd) (b : Fin 16) (lanes : List Nat), KeepsRest (.flitReceive e b lanes)) ∧
  (∀ (e : LinkEnd) (b : Fin 16) (lane : Fin 21) (ui : Nat), KeepsRest (.laneNoTransition e b lane ui)) ∧
  (∀ (e : LinkEnd), KeepsRest (.errWindowRoll e)) ∧ (∀ (e : LinkEnd) (r : SbSlot), KeepsRest (.laneRepair e r)) ∧
  (∀ (e : LinkEnd) (b : Fin 16), KeepsRest (.jewelStreamStart e b)) ∧
  (∀ (e : LinkEnd) (b : Fin 16), KeepsRest (.laneRepairTakeover e b)) ∧
  (∀ (e : LinkEnd) (b : Fin 16), KeepsRest (.laneRepairTxCutover e b)) ∧
  (∀ (e : LinkEnd) (b : Fin 16) (jewel : Fin 2) (delay : Fin 3) (thresh : Fin 3) (bits : List Bool), KeepsRest (.jewelRecentre e b jewel delay thresh bits))
  ∧ (∀ (e : LinkEnd), KeepsRest (.recalGo e)) ∧ (∀ (e : LinkEnd) (r : SbSlot), KeepsRest (.recalArm e r)) ∧
  (∀ (e : LinkEnd), KeepsRest (.recalArmDeadline e)) ∧ (∀ (e : LinkEnd), KeepsRest (.recalStart e)) ∧
  (∀ (e : LinkEnd), KeepsRest (.recalLanetestStart e)) ∧
  (∀ (e : LinkEnd) (near : List (List Bool)) (far : List (List Bool)), KeepsRest (.recalReturnMission e near far)) ∧
  (∀ (e : LinkEnd) (near : BitVec 21) (far : BitVec 21), KeepsRest (.recalEnd e near far)) ∧
  (∀ (e : LinkEnd) (r : SbSlot), KeepsRest (.scNak e r)) ∧
  (∀ (e : LinkEnd) (b : Fin 16), KeepsRest (.slotTransmit e b)) ∧ (∀ (e : LinkEnd), KeepsRest (.scHoldExpiry e)) ∧
  (∀ (e : LinkEnd), KeepsRest (.scResendDeadline e)) ∧ (∀ (e : LinkEnd), KeepsRest (.scLostBundleReport e)) ∧
  (∀ (e : LinkEnd) (r : SbSlot), KeepsRest (.ucAck e r)) ∧ (∀ (e : LinkEnd) (r : SbSlot), KeepsRest (.credit e r)) ∧
  (∀ (e : LinkEnd) (b : Fin 16), KeepsRest (.ucReplayTimeout e b)) ∧ (∀ (e : LinkEnd), KeepsRest (.ucRequeue e)) ∧
  (∀ (n : Fin 8), KeepsRest (.beaconBurst n)) ∧
  (∀ (n : Fin 8) (block : BitVec 256) (locked : Bool), KeepsRest (.beaconBlock n block locked)) ∧
  (∀ (n : Fin 8), KeepsRest (.noPartnerSignal n)) ∧ (∀ (n : Fin 8), KeepsRest (.seekTimeout n)) ∧
  (∀ (n : Fin 8), KeepsRest (.partnerSignalLost n))

/-- The frames of the commands of power, admission and memory messages: none changes the queue, the clock or a part of
the state that its frame does not list. -/
def Obligations.FramesOfPowerAndMessages : Prop :=
(∀ (d : Die) (accepted : List (Fin 5 × Nat × Nat)), KeepsRest (.cdcStaleTurnExpiry d accepted)) ∧
  (∀ (d : Die) (cmd : List Byte) (data : List (List Byte)) (bad : List Nat) (dead : List Nat), KeepsRest (.write d cmd data bad dead))
  ∧ (∀ (m : Mv) (cmd : List Byte), KeepsRest (.signal m cmd)) ∧
  (∀ (d : Die) (cmd : List Byte) (bad : List Nat) (corr : Nat), KeepsRest (.read d cmd bad corr)) ∧
  (∀ (d : Die) (cmd : List Byte), KeepsRest (.fenceProbe d cmd)) ∧
  (∀ (d : Die) (cmd : List Byte) (full : Bool), KeepsRest (.pwFail d cmd full)) ∧
  (∀ (m : Mv) (hbm : Bool) (bad : List Nat) (corr : Nat), KeepsRest (.scrubPass m hbm bad corr)) ∧
  (∀ (w : Word), KeepsRest (.budgetWrite w)) ∧ (∀ (d : Die) (meas : Nat), KeepsRest (.budgetReport d meas)) ∧
  KeepsRest .grantAllocation ∧ (∀ (e : LinkEnd) (r : SbSlot), KeepsRest (.budgetGrant e r)) ∧
  (∀ (d : Die), KeepsRest (.allowanceTake d)) ∧ (∀ (d : Die), KeepsRest (.tokenGrant d)) ∧
  (∀ (d : Die), KeepsRest (.admissionWaitTimeout d)) ∧
  (∀ (d : Die) (tj : Int) (h0 : Int) (h1 : Int), KeepsRest (.thermalSample d tj h0 h1)) ∧
  (∀ (mv : List Nat), KeepsRest (.railSample mv))

/-- The frames of the commands of engines, counters, fences and the host port: none changes the queue, the clock or a
part of the state that its frame does not list. -/
def Obligations.FramesOfEnginesAndHost : Prop :=
(∀ (m : Mv) (e : Fin 16), KeepsRest (.runSelect m e)) ∧
  (∀ (m : Mv) (e : Fin 16) (i : OpInfo), KeepsRest (.descriptorStart m e i)) ∧
  (∀ (m : Mv) (u : Fin 22), KeepsRest (.descriptorComplete m u)) ∧
  (∀ (m : Mv) (u : Fin 22), KeepsRest (.descriptorBoundExpiry m u)) ∧
  (∀ (m : Mv) (w : Word), KeepsRest (.doorbellRing m w)) ∧
  (∀ (m : Mv) (n : Fin 4096) (value : Word), KeepsRest (.counterSignal m n value)) ∧
  (∀ (m : Mv) (n : Fin 4096) (w : Word), KeepsRest (.synCtrWrite m n w)) ∧
  (∀ (m : Mv) (ctx : Fin 32), KeepsRest (.barrierArrival m ctx)) ∧ (∀ (m : Mv), KeepsRest (.lockstepMismatch m)) ∧
  (∀ (d : Die) (cmd : List Byte) (data : List (List Byte)), KeepsRest (.readData d cmd data)) ∧
  (∀ (d : Die) (cmd : List Byte), KeepsRest (.fenceResp d cmd)) ∧
  (∀ (d : Die) (ctx : Fin 33), KeepsRest (.fenceProbeRetry d ctx)) ∧
  (∀ (c : Crown) (x : Nat) (bytes : List Byte), KeepsRest (.bar2Write c x bytes)) ∧
  (∀ (c : Crown) (id : Nat) (x : Nat) (len : Nat), KeepsRest (.bar2Read c id x len)) ∧
  (∀ (c : Crown) (id : Nat), KeepsRest (.bar2ReadAbort c id)) ∧
  (∀ (c : Crown) (kind : Fin 3), KeepsRest (.functionLevelReset c kind)) ∧
  (∀ (c : Crown) (id : Nat) (status : Fin 3) (bytes : List Byte), KeepsRest (.hostReadCompletion c id status bytes))
  ∧ (∀ (c : Crown) (id : Nat), KeepsRest (.hostReadTimeout c id)) ∧
  (∀ (c : Crown) (v : Fin 64), KeepsRest (.msixMessage c v)) ∧ (∀ (i : Nat), KeepsRest (.outputGuardStart i)) ∧
  (∀ (i : Nat), KeepsRest (.resultOutput i)) ∧ (∀ (p : Path) (c : Crown), KeepsRest (.ethTableRead p c)) ∧
  (∀ (c : Crown) (q : CfgReq), KeepsRest (.configurationRequest c q))

/-- The frames of the commands of health, the recovery ladder and replay: none changes the queue, the clock or a part of
the state that its frame does not list. -/
def Obligations.FramesOfRecovery : Prop :=
(∀ (m : Mv), KeepsRest (.heartbeatSend m)) ∧ (∀ (m : Mv), KeepsRest (.heartbeatCheck m)) ∧
  (∀ (m : Mv), KeepsRest (.heartbeatStateSend m)) ∧ (∀ (m : Mv), KeepsRest (.faultGranuleWrite m)) ∧
  (∀ (c : Crown), KeepsRest (.watchdogKick c)) ∧ (∀ (c : Crown), KeepsRest (.watchdogExpiry c)) ∧
  (∀ (w : Word), KeepsRest (.contextRelease w)) ∧ (∀ (m : Mv) (u : Fin 22), KeepsRest (.engineHangDetect m u)) ∧
  (∀ (k : Fin 5), KeepsRest (.recoveryFenceEnd k)) ∧ (∀ (m : Mv), KeepsRest (.crashDumpDone m)) ∧
  (∀ (k : Fin 5), KeepsRest (.recoveryBoundExpiry k)) ∧ (∀ (m : Mv), KeepsRest (.replayStart m)) ∧
  (∀ (m : Mv), KeepsRest (.replaySuspectEnd m)) ∧ (∀ (m : Mv), KeepsRest (.domainRejoin m)) ∧
  (∀ (n : Fin 8) (r : SbSlot), KeepsRest (.packageHeartbeat n r)) ∧
  (∀ (n : Fin 8) (r : SbSlot), KeepsRest (.trayOrder n r)) ∧ KeepsRest .trayStop ∧
  (∀ (die : Fin 8) (eng : Fin 16), KeepsRest (.forceEngineReset die eng)) ∧
  (∀ (die : Fin 8), KeepsRest (.forcePartitionReset die)) ∧ (∀ (die : Fin 8), KeepsRest (.forceChipReset die))

/-- The frames of the commands of snapshots, fusion, Ethernet, PTP and the ledger: none changes the queue, the clock or a
part of the state that its frame does not list. -/
def Obligations.FramesOfSensorsAndLedger : Prop :=
(∀ (c : Crown) (p : Fin 4) (frame : List Byte), KeepsRest (.ethFrameReceive c p frame)) ∧
  KeepsRest .ptpSyncTimeout ∧ KeepsRest .leapSecond ∧
  (∀ (c : Crown) (g : Fin 16), KeepsRest (.snapshotLimitClose c g)) ∧
  (∀ (c : Crown) (g : Fin 16), KeepsRest (.snapshotSelect c g)) ∧
  (∀ (c : Crown) (g : Fin 16), KeepsRest (.snapshotRelease c g)) ∧
  (∀ (c : Crown) (g : Fin 16), KeepsRest (.residualBatchStart c g)) ∧
  (∀ (c : Crown) (g : Fin 16), KeepsRest (.calibBatchApply c g)) ∧ (∀ (c : Crown), KeepsRest (.modeSetProcess c)) ∧
  (∀ (c : Crown), KeepsRest (.trackTablePublish c)) ∧ (∀ (c : Crown) (w : Word), KeepsRest (.fusTableWrite c w)) ∧
  (∀ (p : Path) (c : Crown), KeepsRest (.fusTableRead p c)) ∧ KeepsRest .tariffChangeEffect ∧
  KeepsRest .intervalClose ∧ KeepsRest .setpointSetProcess ∧ KeepsRest .setpointSetEffective ∧ KeepsRest .ledgerOpen
  ∧ (∀ (bad : List (Nat × List Byte)), KeepsRest (.intervalCommit bad)) ∧
  (∀ (bad : Option (List Byte)), KeepsRest (.intervalCommitDone bad)) ∧
  (∀ (bad : List (Nat × List Byte)), KeepsRest (.tableImageWrite bad)) ∧ KeepsRest .ledgerOutputCopy ∧
  (∀ (w : Word), KeepsRest (.ldgTableWrite w)) ∧ (∀ (p : Path), KeepsRest (.ldgTableRead p)) ∧
  (∀ (w : Word), KeepsRest (.ldgFramReadStart w)) ∧ KeepsRest .ldgFramReadDone ∧ KeepsRest .thermalShutdown ∧
  (∀ (cause : Fin 4), KeepsRest (.powerFail cause)) ∧ KeepsRest .powerFailDomainsOff ∧ KeepsRest .ledgerHaltedCrfOff
  ∧ KeepsRest .powerReturn

/-- The frames of the commands of power-up, start-up, images, trust, change sets and register access: none changes the
queue, the clock or a part of the state that its frame does not list. -/
def Obligations.FramesOfStartUpAndChange : Prop :=
(∀ (c : Crown), KeepsRest (.powerOnReset c)) ∧
  (∀ (m : Monitor) (mv : Nat) (variant : Fin 4) (pkg : Fin 16) (refSel : Bool) (pfLow : Bool), KeepsRest (.monitorGood m mv variant pkg refSel pfLow))
  ∧ (∀ (m : Monitor) (mv : Nat), KeepsRest (.monitorNotGood m mv)) ∧
  (∀ (m : Monitor) (mv : Nat), KeepsRest (.monitorBandTimeout m mv)) ∧ KeepsRest .referenceDetect ∧
  KeepsRest .referenceTimeout ∧ (∀ (d : Die), KeepsRest (.pllLockTimeout d)) ∧
  (∀ (f : Option FlashInfo), KeepsRest (.flashDiscover f)) ∧
  (∀ (copyA : List Byte) (copyB : List Byte) (fw : List Byte) (seedBytes : List Byte) (cr1fw : List Byte) (cr1Seeds : List Byte) (ports : List PortAddr), KeepsRest (.flashPass copyA copyB fw seedBytes cr1fw cr1Seeds ports))
  ∧ (∀ (image : List Byte), KeepsRest (.flashPassResume image)) ∧
  (∀ (w : BitVec 16), KeepsRest (.domainSwitchRequest w)) ∧ (∀ (ok : Bool), KeepsRest (.domainOn ok)) ∧
  (∀ (c : Crown) (width : Fin 8) (speed : Fin 8), KeepsRest (.perstDeassert c width speed)) ∧
  (∀ (m : Mv) (stack : Fin 2) (ok : Bool), KeepsRest (.hbmTrainingDone m stack ok)) ∧
  (∀ (img : Image) (ldgOk : Bool), KeepsRest (.imageLoad img ldgOk)) ∧ KeepsRest .imageLoadHost ∧
  KeepsRest .imageUnload ∧ KeepsRest .imageStop ∧
  (∀ (pkg : Fin 16) (hash : BitVec 384), KeepsRest (.loadReport pkg hash)) ∧ KeepsRest .imageActivate ∧
  KeepsRest .restart ∧ (∀ (w : Word), KeepsRest (.rollbackCommit w)) ∧ KeepsRest .rollbackCommitDone ∧
  KeepsRest .flashRead ∧ KeepsRest .flashProgram ∧ KeepsRest .flashErase ∧ KeepsRest .flashStatus ∧
  (∀ (err : Bool) (data : List Byte), KeepsRest (.flashCommandDone err data)) ∧ KeepsRest .debugTokenSubmit ∧
  (∀ (token : List Byte), KeepsRest (.jtagUnlock token)) ∧ KeepsRest .debugLock ∧ KeepsRest .debugLifetimeExpiry ∧
  (∀ (tdi : List Bool), KeepsRest (.bypass tdi)) ∧ (∀ (tdi : List Bool), KeepsRest (.idcode tdi)) ∧
  (∀ (tdi : List Bool), KeepsRest (.samplePreload tdi)) ∧ (∀ (tdi : List Bool), KeepsRest (.extest tdi)) ∧
  (∀ (tdi : List Bool), KeepsRest (.clamp tdi)) ∧ (∀ (tdi : List Bool), KeepsRest (.highz tdi)) ∧
  (∀ (c : Crown) (rd : Bool), KeepsRest (.msBadAccess c rd)) ∧
  (∀ (c : Crown) (a : Word) (w : Word) (ok : Bool), KeepsRest (.registerWrite c a w ok)) ∧
  (∀ (d : Die) (fn : Fn) (inst : Fin 4) (ok : Bool), KeepsRest (.functionEnable d fn inst ok)) ∧
  (∀ (d : Die) (fn : Fn) (inst : Fin 4), KeepsRest (.functionDisable d fn inst)) ∧ KeepsRest .hackStart ∧
  KeepsRest .hackEnd ∧ (∀ (c : Crown), KeepsRest (.startWindowEnd c)) ∧ (∀ (w : Word), KeepsRest (.armGo w)) ∧
  (∀ (w : Word), KeepsRest (.armDiscard w)) ∧ (∀ (e : LinkEnd) (r : SbSlot), KeepsRest (.arm e r)) ∧
  (∀ (e : LinkEnd) (r : SbSlot), KeepsRest (.confirm e r)) ∧ KeepsRest .packageConfirm ∧ KeepsRest .armDecision ∧
  (∀ (e : LinkEnd) (r : SbSlot), KeepsRest (.commit e r)) ∧ (∀ (e : LinkEnd) (r : SbSlot), KeepsRest (.abort e r)) ∧
  KeepsRest .changeSetApply ∧ KeepsRest .chipReset ∧ KeepsRest .oosClear ∧
  (∀ (a : Word) (w : Word) (pec : Bool), KeepsRest (.smbusWrite a w pec)) ∧
  (∀ (a : Word) (pec : Bool), KeepsRest (.smbusSetPointer a pec)) ∧ KeepsRest .smbusRead ∧
  (∀ (variant : Fin 4) (pkg : Fin 16) (refSel : Bool), KeepsRest (.pwrFailRelease variant pkg refSel)) ∧
  (∀ (c : Crown) (a : Word), KeepsRest (.msRead c a)) ∧
  (∀ (op : PrivOp) (tdi : List Bool), KeepsRest (.privateInstruction op tdi)) ∧ KeepsRest .abortedArmRearm

/-- A WRITE at its destination stores nothing outside its range, and stores its bytes there where no unit is in reset and
no granule it covers in part is poisoned, each granule poisoned then where the command says that it was copied with
poison; a host write through BAR2 stores nothing outside the range its aperture gives. Rests on R245, R250, R252, R254,
R269, R270. -/
def Obligations.MessageWritesStore : Prop :=
(∀ (d : Die) (cmd : List Byte) (data : List (List Byte)) (bad dead : List Nat) (s t : State),
    exec (.write d cmd data bad dead) s = .next t → MemOutside s t (cmdTarget cmd % 2 ^ 48) (cmdLen cmd)) ∧
  (∀ (c : Crown) (x : Nat) (bytes : List Byte) (s t : State), exec (.bar2Write c x bytes) s = .next t →
    match s.bar2In c x bytes.length true with
    | some pa => MemOutside s t (pa % 2 ^ 48) bytes.length
    | none => ∀ a, t.rdByte a = s.rdByte a) ∧
  (∀ (d : Die) (cmd : List Byte) (data : List (List Byte)) (pa len : Nat) (s : State), s.hasDie d = true →
    cmdTarget cmd % 2 ^ 48 = pa → cmdLen cmd = len → crosses pa len = false → counterOf pa = none →
    (writeData pa len data).length = len →
    (∀ m e, d = .mv m → bufferOf pa = some e → s.unitDown d (some e) = false) →
    (∀ i, i < len → s.poisoned (pa + i) = true →
      pa ≤ (pa + i) / 64 * 64 ∧ (pa + i) / 64 * 64 + 64 ≤ pa + len) →
    Does (.write d cmd data [] []) s fun t =>
      ∀ i, i < len → t.rdByte (pa + i) = (writeData pa len data).getD i 0 ∧
        t.poisoned (pa + i) = bit (cmdA cmd) ((pa + i) / 64 - pa / 64))

/-- The areas that the units of the Crown dies, the die controllers and the flash pass write: the output area of the
ledger, the half of the track area not current, a group's release area, the fault granule, the staging range, the table
region of the next TSEQ and the interval region of the next SEQ in the FRAM. Nothing outside them changes. -/
def Obligations.UnitStoresStayInTheirAreas : Prop :=
(∀ (s t : State), exec .ledgerOutputCopy s = .next t →
    match s.ldg.out with
    | some (_, blocks) => MemOutside s t (chipPa cr0 (64 * s.getF cr0 .ldg 0 Reg.LDG_OUT_AREA_AREA)) (128 * (blocks + 1))
    | none => ∀ a, t.rdByte a = s.rdByte a) ∧
  (∀ (c : Crown) (s t : State), exec (.trackTablePublish c) s = .next t →
    MemOutside s t (s.trackPa c (1 - (s.fusion c).half)) 16384) ∧
  (∀ (c : Crown) (g : Fin 16) (s t : State), exec (.snapshotSelect c g) s = .next t →
    MemOutside s t (gPa c (s.grpRec c g) + 64) (gAreaBytes (s.grpRec c g) - 64)) ∧
  (∀ (c : Crown) (g : Fin 16) (s t : State), exec (.snapshotRelease c g) s = .next t →
    MemOutside s t (gPa c (s.grpRec c g)) 64) ∧
  (∀ (m : Mv) (s t : State), exec (.faultGranuleWrite m) s = .next t →
    ∀ a, t.rdByte a ≠ s.rdByte a → ∃ i pa, s.boot.image = some i ∧ (m, pa) ∈ i.faultAt ∧
      (pa ≤ a ∧ a < pa + 4 ∨ pa + 8 ≤ a ∧ a < pa + 16)) ∧
  (∀ (image : List Byte) (s t : State), exec (.flashPassResume image) s = .next t →
    MemOutside s t s.stagingPa (hdrLen + oLen image)) ∧
  (∀ (bad : List (Nat × List Byte)) (s t : State), exec (.tableImageWrite bad) s = .next t →
    ∀ a, a < tabAddr ((s.ldg.tseq + 1) % 2) 0 ∨ tabAddr ((s.ldg.tseq + 1) % 2) 259 ≤ a →
      Tab.get memDefault t.fram a = Tab.get memDefault s.fram a) ∧
  (∀ (bad : List (Nat × List Byte)) (s t : State), exec (.intervalCommit bad) s = .next t →
    ∀ a, a < intAddr ((s.ldg.seq + 1) % 2) 1 ∨
      (∃ r, t.ldg.busy = some r ∧ intAddr ((s.ldg.seq + 1) % 2) (blocksOf r.count + 1) ≤ a) →
      Tab.get memDefault t.fram a = Tab.get memDefault s.fram a) ∧
  (∀ (bad : Option (List Byte)) (s t : State), exec (.intervalCommitDone bad) s = .next t →
    ∀ a, a < intAddr (s.ldg.seq % 2) 0 ∨ intAddr (s.ldg.seq % 2) 1 ≤ a →
      Tab.get memDefault t.fram a = Tab.get memDefault s.fram a)

/-- Data that arrives lands where what asked for it says: the destination of a move, the place of a fence's result, the
writes a descriptor computes, the landing granules of the schedule. Nothing outside changes, and a host read or the start
of a descriptor that is no fence changes no byte. -/
def Obligations.FillsStayInTheirRanges : Prop :=
(∀ (c : Crown) (id : Nat) (status : Fin 3) (bytes : List Byte) (s t : State),
    exec (.hostReadCompletion c id status bytes) s = .next t →
    match (s.host c).moves.find? fun r => r.id == id with
    | some r => r.dst % 2 ^ 45 + r.len ≤ 2 ^ 45 → MemOutside s t (r.dst % 2 ^ 48) r.len
    | none => ∀ a, t.rdByte a = s.rdByte a) ∧
  (∀ (c : Crown) (id : Nat) (s t : State), exec (.hostReadTimeout c id) s = .next t →
    match (s.host c).moves.find? fun r => r.id == id with
    | some r => r.dst % 2 ^ 45 + r.len ≤ 2 ^ 45 → MemOutside s t (r.dst % 2 ^ 48) r.len
    | none => ∀ a, t.rdByte a = s.rdByte a) ∧
  (∀ (c : Crown) (kind : Fin 3) (s t : State), (∀ r ∈ (s.host c).moves, r.dst % 2 ^ 45 + r.len ≤ 2 ^ 45) →
    exec (.functionLevelReset c kind) s = .next t → ∀ a, t.rdByte a ≠ s.rdByte a →
    ∃ r ∈ (s.host c).moves, r.dst % 2 ^ 48 ≤ a ∧ a < r.dst % 2 ^ 48 + r.len) ∧
  (∀ (d : Die) (cmd : List Byte) (data : List (List Byte)) (s t : State),
    (∀ r ∈ Tab.get [] s.rdReqs (dieCode d), ∀ q, r.dst = some (.mem q) → q % 2 ^ 48 + r.len ≤ 2 ^ 48) →
    exec (.readData d cmd data) s = .next t → ∀ a, t.rdByte a ≠ s.rdByte a →
    ∃ r ∈ Tab.get [] s.rdReqs (dieCode d), ∃ q, r.dst = some (.mem q) ∧ r.tag = cmdTag cmd ∧ r.target = cmdTarget cmd ∧
      r.host = false ∧ r.ctx = cmdCtx cmd ∧ q % 2 ^ 48 ≤ a ∧ a < q % 2 ^ 48 + r.len) ∧
  (∀ (d : Die) (cmd : List Byte) (s t : State), exec (.fenceResp d cmd) s = .next t →
    match s.fence (issuer d (cmdCtx cmd) (cmdHost cmd)) with
    | some f => if cmdHost cmd then ∀ a, t.rdByte a = s.rdByte a
        else f.result % 2 ^ 45 + 8 ≤ 2 ^ 45 → MemOutside s t (f.result % 2 ^ 48) 8
    | none => ∀ a, t.rdByte a = s.rdByte a) ∧
  (∀ (m : Mv) (e : Fin 16) (i : OpInfo) (s t : State), exec (.descriptorStart m e i) s = .next t →
    ∀ a, t.rdByte a ≠ s.rdByte a → ∃ n w r, (s.eng (.mv m) e).run = some n ∧
      w = (s.operation (.mv m) (s.descWords (s.stream (.mv m) e n)) i).1.work ∧
      (w = .sync (.fence r) ∨ ∃ b, w = .sync (.arrive b r)) ∧
      (r % 2 ^ 45 + 8 ≤ 2 ^ 45 → r % 2 ^ 48 ≤ a ∧ a < r % 2 ^ 48 + 8)) ∧
  (∀ (m : Mv) (u : Fin 22) (x : Desc) (s t : State),
    (if u.val < 16 then (s.eng (.mv m) u).desc else (s.queue (.mv m) u).head?) = some x →
    (∀ r ∈ s.descStores (.mv m) u x, r.1 % 2 ^ 45 + r.2 ≤ 2 ^ 45) → exec (.descriptorComplete m u) s = .next t →
    ∀ a, t.rdByte a ≠ s.rdByte a → ∃ r ∈ s.descStores (.mv m) u x, r.1 % 2 ^ 48 ≤ a ∧ a < r.1 % 2 ^ 48 + r.2) ∧
  (∀ (m : Mv) (u : Fin 22) (s t : State),
    (if u.val < 16 then (s.eng (.mv m) u).desc else (s.queue (.mv m) u).head?) = none →
    exec (.descriptorComplete m u) s = .next t → ∀ a, t.rdByte a = s.rdByte a) ∧
  (∀ (e : LinkEnd) (b : Fin 16) (lanes : List Nat) (s t : State), exec (.flitReceive e b lanes) s = .next t →
    ∀ a, t.rdByte a ≠ s.rdByte a →
    (∃ slot tag pa y, slotAtBeat e ((s.beat (leDie e) - s.latL e) % frameBeats) = some slot ∧
      s.markOf e 1 b slot ((s.beat (leDie e) - s.latL e) / frameBeats) = .sc tag ∧
      (s.decodeFlit e b slot ((s.beat (leDie e) - s.latL e) / frameBeats) lanes).2.scPlace e 1 tag b slot
        ((s.beat (leDie e) - s.latL e) / frameBeats) = some (pa, y) ∧ pa ≤ a ∧ a < pa + 64) ∨
    ∃ w ∈ (s.link e).wait, w.land ≤ a ∧ a < w.land + 64) ∧
  (∀ (c : Crown) (id x len : Nat) (s t : State), exec (.bar2Read c id x len) s = .next t → ∀ a, t.rdByte a = s.rdByte a)

/-- Recovery writes the slot of its crash dump, the count of dumps and the engine buffer it restores, and a trained HBM
the copy of the firmware; where a command switches domains off, a byte either stays or is lost (log entry 4); and the
enable of the ledger writes no more of the FRAM than its test record. Rests on R264, R339, R344, R352, R452 to R454,
R461, R504. -/
def Obligations.RecoveryAndSupplyMemory : Prop :=
(∀ (m : Mv) (s t : State), (∀ u, (s.queue (.mv m) u).length ≤ 16) → s.sampleKib ≤ 64 →
    (∀ e ∈ (s.dom 4).engines, e < 16) → (∀ e ∈ (s.dom m.val).engines, e < 16) →
    exec (.crashDumpDone m) s = .next t → ∀ a, t.rdByte a ≠ s.rdByte a →
      s.slotPa (.mv m) (s.getF (.mv m) .rcv 0 Reg.RCV_DUMP_SEQ + 1) ≤ a ∧
        a < s.slotPa (.mv m) (s.getF (.mv m) .rcv 0 Reg.RCV_DUMP_SEQ + 1) + 0x400000 ∨
      hbmPa (.mv m) (s.recBase + 0x400000) ≤ a ∧ a < hbmPa (.mv m) (s.recBase + 0x400000) + 4096) ∧
  (∀ (m : Mv) (s t : State), exec (.replayStart m) s = .next t →
    match s.replay (.mv m) with
    | none => MemOutside s t (s.slotPa (.mv m) (s.getF (.mv m) .rcv 0 Reg.RCV_DUMP_SEQ) + 0x130000) 0x100000
    | some r => (∀ c ∈ r.save, chipPa (.mv m) (0x3000000 + 0x100000 * r.eng) ≤ c.1 ∧
        c.1 < chipPa (.mv m) (0x3000000 + 0x100000 * r.eng) + 0x100000) →
      MemOutside s t (chipPa (.mv m) (0x3000000 + 0x100000 * r.eng)) 0x100000) ∧
  (∀ (m : Mv) (s t : State), exec (.replaySuspectEnd m) s = .next t →
    match s.replay (.mv m) with
    | none => ∀ a, t.rdByte a = s.rdByte a
    | some r => (∀ c ∈ r.save, chipPa (.mv m) (0x3000000 + 0x100000 * r.eng) ≤ c.1 ∧
        c.1 < chipPa (.mv m) (0x3000000 + 0x100000 * r.eng) + 0x100000) →
      MemOutside s t (chipPa (.mv m) (0x3000000 + 0x100000 * r.eng)) 0x100000) ∧
  (∀ (m : Mv) (stack : Fin 2) (ok : Bool) (s t : State), exec (.hbmTrainingDone m stack ok) s = .next t →
    ∀ a, t.rdByte a ≠ s.rdByte a → t.rdByte a = memDefault ∨
      (hbmPa (.mv m) s.recBase ≤ a ∧ a < hbmPa (.mv m) s.recBase + areaFw)) ∧
  (∀ (i : Instr) (s t : State), (match i with
      | .powerOnReset .. | .monitorGood .. | .pwrFailRelease .. | .referenceDetect | .referenceTimeout | .pllLock ..
      | .pllLockTimeout .. | .flashDiscover .. | .flashPass .. | .domainSwitchRequest .. | .restart | .thermalSample ..
      | .thermalShutdown | .powerFailDomainsOff | .ledgerHaltedCrfOff | .registerWrite .. | .smbusWrite .. | .chipReset
      | .ethFrameReceive .. => True
      | _ => False) → exec i s = .next t → ∀ a, t.rdByte a ≠ s.rdByte a →
    t.rdByte a = memDefault) ∧
  (∀ (i : Instr) (s t : State), (match i with
      | .flashPass .. | .domainOn .. | .hbmTrainingDone .. | .imageLoad .. | .imageActivate | .functionEnable ..
      | .registerWrite .. | .smbusWrite .. | .oosClear => True
      | _ => False) → exec i s = .next t → ∀ a, a < 0x7FF80 ∨ 0x80000 ≤ a →
    Tab.get memDefault t.fram a = Tab.get memDefault s.fram a)

/-- A step takes the command at the front of the queue and answers what its meaning gives on the queue's rest. -/
def Obligations.StepRunsFront : Prop :=
∀ (c : Instr) (rest : List Instr) (s : State), s.pending = c :: rest → step s = exec c { s with pending := rest }

/-- The model's choice (log entry 1): on an empty queue one beat passes. Each die whose beat PLL is locked counts it, and
no register, memory byte or link changes. -/
def Obligations.EmptyQueuePassesABeat : Prop :=
∀ (s : State), s.pending = [] → ∃ t, step s = .next t ∧ t.time = s.time + 1 ∧
    (∀ d, t.beat d = if (s.die d).run then s.beat d + 1 else s.beat d) ∧ t.pending = [] ∧
    (∀ d b i f k, t.getF d b i f k = s.getF d b i f k) ∧ (∀ a, t.rdByte a = s.rdByte a) ∧ (∀ e, t.link e = s.link e)

/-- The state right after reset keeps the form that every step keeps. -/
def Obligations.InvAtReset : Prop :=
Inv State.reset

/-- After reset no phase has been reached, every domain is off, no function is enabled, every register field holds its
reset value (that of the fuses and straps is log entry 3), no byte of package memory or of the FRAM is listed, every link
end and every die is as it is in `OFF`, and the queue is empty. Rests on R352, R404, R504. -/
def Obligations.ResetValues : Prop :=
State.reset.phase = 0 ∧ (∀ k, State.reset.domOn k = false) ∧
  (∀ fn d i, State.reset.enabled fn d i = false) ∧
  (∀ d b i f k, State.reset.getF d b i f k = f.reset) ∧
  (∀ a, State.reset.rdByte a = memDefault) ∧ State.reset.fram = [] ∧ (∀ a, State.reset.poisoned a = false) ∧
  (∀ e, State.reset.link e = {}) ∧ (∀ d, State.reset.die d = {}) ∧ State.reset.pending = []

/-- Every step keeps the form of the state: memories canonical, register fields listed once, error logs within their
rings. -/
def Obligations.InvKept : Prop :=
∀ (s t : State), Inv s → step s = .next t → Inv t

/-- The block stops on no command. Each one answers a next state, with the rest of the queue and the clock as they were,
and no free value is drawn twice. Rests on R9, R419. -/
def Obligations.EveryCommandAnswers : Prop :=
∀ (c : Instr) (s : State), Does c s fun t => t.pending = s.pending ∧ t.time = s.time ∧ s.free ≤ t.free

/-- R14: an access of the management space that is not a naturally aligned 32-bit access is counted on the Crown die that
received it; a read returns all ones, a write is discarded: nothing else changes. -/
def Obligations.UnalignedAccessCountsAndDiscards : Prop :=
(∀ (c : Crown) (rd : Bool) (s : State), s.bar0On c = true →
    Does (.msBadAccess c rd) s fun t =>
      t.getF (.cr c) .pci 0 Reg.PCI_STATUS_MS_BAD_ACCESS = min (s.getF (.cr c) .pci 0 Reg.PCI_STATUS_MS_BAD_ACCESS + 1) 255 ∧
      (rd = true → Tab.get 0 t.rdData (pathCode (.bar0 c)) = 0xFFFFFFFF) ∧
      (rd = false → t.rdData = s.rdData) ∧
      ∀ x, x ∉ [Field.ofReg .pci Reg.PCI_STATUS_MS_BAD_ACCESS, .rdData] → x.same s t) ∧
  (∀ (c : Crown) (a w : Word) (ok : Bool) (s : State), s.bar0On c = true → a.toNat % 4 ≠ 0 →
    Does (.registerWrite c a w ok) s fun t =>
      t.getF (.cr c) .pci 0 Reg.PCI_STATUS_MS_BAD_ACCESS = min (s.getF (.cr c) .pci 0 Reg.PCI_STATUS_MS_BAD_ACCESS + 1) 255 ∧
      ∀ x, x ≠ Field.ofReg .pci Reg.PCI_STATUS_MS_BAD_ACCESS → x.same s t) ∧
  (∀ (c : Crown) (a : Word) (s : State), s.bar0On c = true → a.toNat % 4 ≠ 0 →
    Does (.msRead c a) s fun t =>
      t.getF (.cr c) .pci 0 Reg.PCI_STATUS_MS_BAD_ACCESS = min (s.getF (.cr c) .pci 0 Reg.PCI_STATUS_MS_BAD_ACCESS + 1) 255 ∧
      Tab.get 0 t.rdData (pathCode (.bar0 c)) = 0xFFFFFFFF ∧
      ∀ x, x ∉ [Field.ofReg .pci Reg.PCI_STATUS_MS_BAD_ACCESS, .rdData] → x.same s t)

/-- R37, R501: a read of `BEAT_LO` on a path latches the upper half of `BEAT` for that path, and leaves what `BEAT_HI`
returns on every other; a read of `BEAT_HI` over BAR0 of a Crown die or SMBus returns its own path's latch. (That the
test access port has a latch of its own too is the model's choice, log entry 84, and not claimed here. One latch of a
path serves the `BEAT_HI` of every die: the model's choice, log entry 149.) -/
def Obligations.BeatLatchPerPath : Prop :=
(∀ (p : Path) (d : Die) (s : State), s.deadRead p d .bal = none →
    Does (.beatLoRead p d) s fun t => Tab.get 0 t.rdData (pathCode p) = s.beat d % 2 ^ 32 ∧
      (p ≠ .tap → Tab.get 0 t.beatHi (pathCode p) = s.beat d / 2 ^ 32) ∧
      ∀ q, q ≠ p → Tab.get 0 t.beatHi (pathCode q) = Tab.get 0 s.beatHi (pathCode q)) ∧
  (∀ (c : Crown) (d : Die) (a : Word) (s : State), s.bar0On c = true → s.deadRead (.bar0 c) d .bal = none →
    a.toNat = winBase d + blkOff .bal 0 + Reg.BAL_BEAT_LO_BEAT.off →
    Does (.msRead c a) s fun t => Tab.get 0 t.rdData (pathCode (.bar0 c)) = s.beat d % 2 ^ 32 ∧
      Tab.get 0 t.beatHi (pathCode (.bar0 c)) = s.beat d / 2 ^ 32 ∧
      ∀ q, q ≠ .bar0 c → Tab.get 0 t.beatHi (pathCode q) = Tab.get 0 s.beatHi (pathCode q)) ∧
  (∀ (c : Crown) (d : Die) (a : Word) (s : State), s.bar0On c = true → s.deadRead (.bar0 c) d .bal = none →
    a.toNat = winBase d + blkOff .bal 0 + Reg.BAL_BEAT_HI_BEAT.off →
    Does (.msRead c a) s fun t =>
      Tab.get 0 t.rdData (pathCode (.bar0 c)) = Tab.get 0 s.beatHi (pathCode (.bar0 c)) ∧ t.beatHi = s.beatHi) ∧
  (∀ (s : State), s.smOn = true → s.boot.smPtr = blkOff .bal 0 + Reg.BAL_BEAT_LO_BEAT.off →
    Does .smbusRead s fun t => t.boot.smOut = some (0, s.beat cr0 % 2 ^ 32) ∧
      Tab.get 0 t.beatHi (pathCode .smbus) = s.beat cr0 / 2 ^ 32 ∧
      ∀ q, q ≠ .smbus → Tab.get 0 t.beatHi (pathCode q) = Tab.get 0 s.beatHi (pathCode q)) ∧
  (∀ (s : State), s.smOn = true → s.boot.smPtr = blkOff .bal 0 + Reg.BAL_BEAT_HI_BEAT.off →
    Does .smbusRead s fun t => t.boot.smOut = some (0, Tab.get 0 s.beatHi (pathCode .smbus)) ∧ t.beatHi = s.beatHi)

/-- R419: an enable that its checks refuse stays clear; `REFUSED` and the reason show it, `CFG.LAST_REASON` and
`CFG.REFUSALS` name and count it, one record is logged, vector 1 is raised on the functions it concerns, and every other
register field, and every other part of the state but the log, is as it was. A ledger whose test record reads back wrong
(RC 0x7005) has written that record besides (R344). -/
def Obligations.RefusedEnableReports : Prop :=
∀ (d : Die) (fn : Fn) (inst : Fin 4) (ok : Bool) (rc : Nat) (s : State), fn ≠ .rcv → fnOn fn d inst = true →
    ¬ (fn = .ldg ∧ d = .cr 1) → s.hasInst d (fnRegs fn).blk inst = true → s.powered d (fnRegs fn).blk = true →
    s.heldInReset d (fnRegs fn).blk = false → s.enabled fn d inst = false →
    (s.setF d (fnRegs fn).blk inst (fnRegs fn).refused 0).enableCheck fn d inst ok = some rc →
    Does (.functionEnable d fn inst ok) s fun t =>
      t.enabled fn d inst = false ∧
      t.getF d (fnRegs fn).blk inst (fnRegs fn).refused = 1 ∧
      t.getF d (fnRegs fn).blk inst (fnRegs fn).reason = rc % 2 ^ 16 ∧
      t.getF cr0 .cfg 0 Reg.CFG_LAST_REASON_REASON = rc % 2 ^ 16 ∧
      t.getF cr0 .cfg 0 Reg.CFG_LAST_REASON_DIE = dieCode d ∧
      t.getF cr0 .cfg 0 Reg.CFG_LAST_REASON_BLOCK = (fnRegs fn).blk.code ∧
      t.getF cr0 .cfg 0 Reg.CFG_LAST_REASON_INSTANCE = inst.val ∧
      t.getF cr0 .cfg 0 Reg.CFG_REFUSALS_COUNT = min (s.getF cr0 .cfg 0 Reg.CFG_REFUSALS_COUNT + 1)
        (2 ^ Reg.CFG_REFUSALS_COUNT.w - 1) ∧
      (t.die d).logCount = (s.die d).logCount + 1 ∧
      (t.die d).log = ((⟨s.beat d, rc, dieCode d, (fnRegs fn).blk.code, inst, 0xFF, severity rc, []⟩ : LogRec) ::
        (s.die d).log).take 4096 ∧
      (∀ d', d' ≠ d → t.die d' = s.die d') ∧
      (∀ c : Crown, (match ownOf d (fnRegs fn).blk with | some o => c = o | none => c ∈ s.crowns) →
        bit (t.getF (.cr c) .pci 0 Reg.PCI_EVT_CAUSE) 1 = true) ∧
      ∀ x, x ∉ evtRegs ++ refusalRegs ++ [.dies, .ofReg (fnRegs fn).blk (fnRegs fn).refused,
        .ofReg (fnRegs fn).blk (fnRegs fn).reason] →
        (rc = 0x7005 → x ∉ [.fram, .free]) → x.same s t
end

