-- ==== Sys2Proof/Laws/Tab.lean ====
section
/-! SUPPORT. What a table gives back, and that its operations keep the canonical form. -/

namespace Sys2Proof.Machine

variable {α : Type} {d : α}

theorem Tab.get_erase_same (t : Tab α) (k : Nat) : Tab.get d (Tab.erase t k) k = d := by
  induction t with
  | nil => rfl
  | cons p t ih => by_cases h : p.1 = k <;> simp [Tab.erase, Tab.get, h, ih]

theorem Tab.get_erase_ne (t : Tab α) {k j : Nat} (h : j ≠ k) : Tab.get d (Tab.erase t k) j = Tab.get d t j := by
  induction t with
  | nil => rfl
  | cons p t ih =>
    by_cases hk : p.1 = k
    · have : p.1 ≠ j := fun e => h (e.symm.trans hk)
      simp [Tab.erase, Tab.get, hk, ih]; omega
    · simp [Tab.erase, Tab.get, hk, ih]

theorem Tab.get_insert_same (t : Tab α) (k : Nat) (v : α) : Tab.get d (Tab.insert t k v) k = v := by
  induction t with
  | nil => simp [Tab.insert, Tab.get]
  | cons p t ih =>
    unfold Tab.insert
    split
    · simp [Tab.get]
    · split
      · simp [Tab.get]
      · next h => simp [Tab.get, h, ih]

theorem Tab.get_insert_ne (t : Tab α) {k j : Nat} (v : α) (h : j ≠ k) : Tab.get d (Tab.insert t k v) j = Tab.get d t j := by
  induction t with
  | nil => simp [Tab.insert, Tab.get, Ne.symm h]
  | cons p t ih =>
    unfold Tab.insert
    split
    · simp [Tab.get, Ne.symm h]
    · split
      · next e => simp only [Tab.get]; rw [if_neg (Ne.symm h), if_neg (e ▸ Ne.symm h)]
      · simp only [Tab.get, ih]

variable [DecidableEq α]

/-- What a written key reads as. -/
theorem Tab.get_set_same (t : Tab α) (k : Nat) (v : α) : Tab.get d (Tab.set d t k v) k = v := by
  unfold Tab.set
  split
  · next h => rw [Tab.get_erase_same, h]
  · exact Tab.get_insert_same ..

/-- Every other key reads as before. -/
theorem Tab.get_set_ne {e : α} (t : Tab α) {k j : Nat} (v : α) (h : j ≠ k) :
    Tab.get d (Tab.set e t k v) j = Tab.get d t j := by
  unfold Tab.set
  split
  · exact Tab.get_erase_ne t h
  · exact Tab.get_insert_ne t v h

theorem Tab.get_set (t : Tab α) (k j : Nat) (v : α) :
    Tab.get d (Tab.set d t k v) j = if j = k then v else Tab.get d t j := by
  split
  · next h => rw [h, Tab.get_set_same]
  · next h => exact Tab.get_set_ne t v h

/-! ### The canonical form -/

theorem Tab.wfFrom_mono {a b : Nat} {t : Tab α} (h : Tab.wfFrom d b t = true) (hab : a ≤ b) : Tab.wfFrom d a t = true := by
  cases t with
  | nil => rfl
  | cons p t =>
    simp only [Tab.wfFrom, Bool.and_eq_true, decide_eq_true_eq] at *
    exact ⟨⟨Nat.le_trans hab h.1.1, h.1.2⟩, h.2⟩

theorem Tab.wfFrom_erase {b : Nat} {t : Tab α} (k : Nat) (h : Tab.wfFrom d b t = true) :
    Tab.wfFrom d b (Tab.erase t k) = true := by
  induction t generalizing b with
  | nil => rfl
  | cons p t ih =>
    simp only [Tab.wfFrom, Bool.and_eq_true, decide_eq_true_eq] at h
    unfold Tab.erase
    split
    · exact Tab.wfFrom_mono (ih h.2) (by omega)
    · simp only [Tab.wfFrom, Bool.and_eq_true, decide_eq_true_eq]; exact ⟨h.1, ih h.2⟩

theorem Tab.wfFrom_insert {b : Nat} {t : Tab α} (k : Nat) {v : α} (hv : v ≠ d) (hb : b ≤ k)
    (h : Tab.wfFrom d b t = true) : Tab.wfFrom d b (Tab.insert t k v) = true := by
  induction t generalizing b with
  | nil => simp [Tab.insert, Tab.wfFrom, hv, hb]
  | cons p t ih =>
    simp only [Tab.wfFrom, Bool.and_eq_true, decide_eq_true_eq] at h
    unfold Tab.insert
    split
    · next hk =>
      simp only [Tab.wfFrom, Bool.and_eq_true, decide_eq_true_eq]
      exact ⟨⟨hb, hv⟩, ⟨hk, h.1.2⟩, h.2⟩
    · split
      · next e =>
        simp only [Tab.wfFrom, Bool.and_eq_true, decide_eq_true_eq]
        exact ⟨⟨hb, hv⟩, e ▸ h.2⟩
      · simp only [Tab.wfFrom, Bool.and_eq_true, decide_eq_true_eq]
        exact ⟨h.1, ih (by omega) h.2⟩

/-- A write keeps the canonical form. -/
theorem Tab.wf_set {t : Tab α} (k : Nat) (v : α) (h : Tab.wf d t = true) : Tab.wf d (Tab.set d t k v) = true := by
  unfold Tab.set
  split
  · exact Tab.wfFrom_erase k h
  · next hv => exact Tab.wfFrom_insert k hv (Nat.zero_le k) h

theorem Tab.wf_erase {t : Tab α} (k : Nat) (h : Tab.wf d t = true) : Tab.wf d (Tab.erase t k) = true := Tab.wfFrom_erase k h

theorem Tab.wfFrom_filter {b : Nat} {t : Tab α} (q : Nat × α → Bool) (h : Tab.wfFrom d b t = true) :
    Tab.wfFrom d b (List.filter q t) = true := by
  induction t generalizing b with
  | nil => rfl
  | cons p t ih =>
    simp only [Tab.wfFrom, Bool.and_eq_true, decide_eq_true_eq] at h
    rw [List.filter_cons]
    split
    · simp only [Tab.wfFrom, Bool.and_eq_true, decide_eq_true_eq]; exact ⟨h.1, ih h.2⟩
    · exact Tab.wfFrom_mono (ih h.2) (by omega)

/-- Dropping pairs keeps the canonical form. -/
theorem Tab.wf_filter {t : Tab α} (q : Nat × α → Bool) (h : Tab.wf d t = true) : Tab.wf d (List.filter q t) = true :=
  Tab.wfFrom_filter q h

/-! ### Tables that fill the pairs' values with more than one default -/

omit [DecidableEq α] in
theorem Tab.rising_mono {a b : Nat} {t : Tab α} (h : Tab.risingFrom b t) (hab : a ≤ b) : Tab.risingFrom a t := by
  cases t with
  | nil => trivial
  | cons p t => exact ⟨Nat.le_trans hab h.1, h.2⟩

omit [DecidableEq α] in
theorem Tab.rising_erase {b : Nat} {t : Tab α} (k : Nat) (h : Tab.risingFrom b t) : Tab.risingFrom b (Tab.erase t k) := by
  induction t generalizing b with
  | nil => trivial
  | cons p t ih =>
    unfold Tab.erase
    split
    · exact Tab.rising_mono (ih h.2) (Nat.le_succ_of_le h.1)
    · exact ⟨h.1, ih h.2⟩

omit [DecidableEq α] in
theorem Tab.rising_insert {b : Nat} {t : Tab α} (k : Nat) (v : α) (hb : b ≤ k) (h : Tab.risingFrom b t) :
    Tab.risingFrom b (Tab.insert t k v) := by
  induction t generalizing b with
  | nil => exact ⟨hb, trivial⟩
  | cons p t ih =>
    unfold Tab.insert
    split
    · next hk => exact ⟨hb, hk, h.2⟩
    · split
      · next e => exact ⟨hb, e ▸ h.2⟩
      · exact ⟨h.1, ih (by omega) h.2⟩

theorem Tab.rising_set {t : Tab α} (k : Nat) (v : α) (h : Tab.risingFrom 0 t) : Tab.risingFrom 0 (Tab.set d t k v) := by
  unfold Tab.set
  split
  · exact Tab.rising_erase k h
  · exact Tab.rising_insert k v (Nat.zero_le k) h

omit [DecidableEq α] in
theorem Tab.rising_filter {b : Nat} {t : Tab α} (q : Nat × α → Bool) (h : Tab.risingFrom b t) :
    Tab.risingFrom b (List.filter q t) := by
  induction t generalizing b with
  | nil => trivial
  | cons p t ih =>
    rw [List.filter_cons]
    split
    · exact ⟨h.1, ih h.2⟩
    · exact Tab.rising_mono (ih h.2) (Nat.le_succ_of_le h.1)

omit [DecidableEq α] in
theorem Tab.get_map {β : Type} (f : α → β) (a : α) (t : Tab α) (k : Nat) :
    Tab.get (f a) (List.map (fun p => (p.1, f p.2)) t) k = f (Tab.get a t k) := by
  induction t with
  | nil => rfl
  | cons p t ih => by_cases h : p.1 = k <;> simp [Tab.get, h, ih]

end Sys2Proof.Machine
end

