-- ==== Sys2Proof/Laws/Kept.lean ====
section
/-! SUPPORT. `Kept z s`: what `s`, made from `z` by the operations of the model, keeps of it: its queue, its clock and the
canonical form of its parts; free values are only drawn, logs never outgrow their rings. One lemma for each operation of
Ops.lean and Mem.lean. -/

namespace Sys2Proof.Machine

structure Kept (z s : State) : Prop where
  queue : s.pending = z.pending
  clock : s.time = z.time
  free : z.free ≤ s.free
  mem : Memory.wf z.mem = true → Memory.wf s.mem = true
  fram : Memory.wf z.fram = true → Memory.wf s.fram = true
  poison : Tab.wf false z.poison = true → Tab.wf false s.poison = true
  regs : Tab.risingFrom 0 z.regs → Tab.risingFrom 0 s.regs
  logs : (∀ p ∈ z.dies, p.2.log.length ≤ 4096) → ∀ p ∈ s.dies, p.2.log.length ≤ 4096

variable {z s t : State}

theorem Kept.refl (s : State) : Kept s s := ⟨rfl, rfl, Nat.le_refl _, id, id, id, id, id⟩

theorem Kept.trans (h : Kept z s) (g : Kept s t) : Kept z t :=
  ⟨g.queue.trans h.queue, g.clock.trans h.clock, Nat.le_trans h.free g.free, g.mem ∘ h.mem, g.fram ∘ h.fram,
    g.poison ∘ h.poison, g.regs ∘ h.regs, g.logs ∘ h.logs⟩

/-- A state that differs in none of these parts. -/
theorem Kept.same (h : Kept z s) (h1 : t.pending = s.pending) (h2 : t.time = s.time) (h3 : t.free = s.free)
    (h4 : t.mem = s.mem) (h5 : t.fram = s.fram) (h6 : t.poison = s.poison) (h7 : t.regs = s.regs) (h8 : t.dies = s.dies) :
    Kept z t :=
  ⟨h1.trans h.queue, h2.trans h.clock, h3 ▸ h.free, h4 ▸ h.mem, h5 ▸ h.fram, h6 ▸ h.poison, h7 ▸ h.regs, h8 ▸ h.logs⟩

/-- Any change of the other fields. -/
theorem Kept.mk_same (h : Kept z s)
    {x4 : Tab Nat} {x5 : Tab Nat} {x6 : Tab Nat} {x8 : Tab LinkSt} {x9 : Tab Nat} {x12 : Tab CtxSt} {x13 : List
    Nat} {x14 : Nat} {x15 : Tab Nat} {x16 : Tab FpLine} {x17 : List SeedRec} {x18 : Pins} {x19 : HackSt} {x20 :
    SyncSt} {x21 : Tab Nat} {x22 : Tab Nat} {x23 : List (Nat × Nat × Nat × Nat)} {x24 : List (Nat × Nat)} {x25 :
    List Nat} {x26 : Tab Nat} {x27 : Tab (Option Report)} {x28 : Tab RcvDom} {x29 : Tab EngSt} {x30 : Tab (List
    Desc)} {x31 : Tab StreamSt} {x32 : Tab (Option OpInfo)} {x33 : Tab Nat} {x34 : Tab Nat} {x35 : Tab Nat} {x36 :
    Tab Nat} {x37 : Tab Nat} {x38 : Tab Nat} {x39 : Tab Nat} {x40 : Tab Nat} {x41 : Tab Nat} {x42 : Tab (Option
    FenceSt)} {x43 : Tab (List ReadReq)} {x44 : Tab HostSt} {x45 : PtpSt} {x46 : Tab FusSt} {x47 : LdgSt} {x49 :
    BootSt} {x50 : ChgSt} {x51 : Tab Nat} {x52 : List Recal} {x53 : Tab Nat} {x54 : RecSt} :
    Kept z (State.mk s.pending s.time s.free s.regs x4 x5 x6 s.dies x8 x9 s.mem s.poison x12 x13 x14 x15 x16 x17 x18 x19 x20 x21
      x22 x23 x24 x25 x26 x27 x28 x29 x30 x31 x32 x33 x34 x35 x36 x37 x38 x39 x40 x41 x42 x43 x44 x45 x46 x47 s.fram
      x49 x50 x51 x52 x53 x54) :=
  h.same rfl rfl rfl rfl rfl rfl rfl rfl

theorem Kept.ite_snd {α : Type} {c : Prop} [Decidable c] {p q : α × State} (h : Kept z p.2) (g : Kept z q.2) :
    Kept z (if c then p else q).2 := by
  split <;> assumption

theorem Kept.of_eq {α : Type} {p : α × State} {a : α} (e : p = (a, s)) (h : Kept z p.2) : Kept z s := by
  rw [e] at h; exact h

/-- A command ends in a next state that keeps the parts. -/
inductive KeptO (z : State) : Host.Outcome State Fault Refusal → Prop
  | next {s : State} (h : Kept z s) : KeptO z (.next s)

theorem KeptO.ite {c : Prop} [Decidable c] {a b : Host.Outcome State Fault Refusal} (h : KeptO z a) (g : KeptO z b) :
    KeptO z (if c then a else b) := by
  split <;> assumption

/-- Any change, part by part. -/
theorem Kept.parts (h : Kept z s) (h1 : t.pending = s.pending) (h2 : t.time = s.time) (h3 : s.free ≤ t.free)
    (h4 : Memory.wf z.mem = true → Memory.wf t.mem = true) (h5 : Memory.wf z.fram = true → Memory.wf t.fram = true)
    (h6 : Tab.wf false z.poison = true → Tab.wf false t.poison = true)
    (h7 : Tab.risingFrom 0 z.regs → Tab.risingFrom 0 t.regs)
    (h8 : (∀ p ∈ z.dies, p.2.log.length ≤ 4096) → ∀ p ∈ t.dies, p.2.log.length ≤ 4096) : Kept z t :=
  ⟨h1.trans h.queue, h2.trans h.clock, Nat.le_trans h.free h3, h4, h5, h6, h7, h8⟩

theorem Kept.withMem (h : Kept z s) {m : List Host.Cell} (hm : Memory.wf z.mem = true → Memory.wf m = true) :
    Kept z { s with mem := m } := { h with mem := hm }

theorem Kept.withFram (h : Kept z s) {m : List Host.Cell} (hm : Memory.wf z.fram = true → Memory.wf m = true) :
    Kept z { s with fram := m } := { h with fram := hm }

theorem Kept.ite {c : Prop} [Decidable c] (h : Kept z s) (g : Kept z t) : Kept z (if c then s else t) := by
  split <;> assumption

theorem Kept.foldl {α : Type} {f : State → α → State} (l : List α) (hf : ∀ u a, Kept z u → Kept z (f u a))
    (h : Kept z s) : Kept z (l.foldl f s) := by
  induction l generalizing s with
  | nil => exact h
  | cons a l ih => exact ih (hf s a h)

/-- A fold that carries a value beside the state. -/
theorem Kept.foldl_snd {α β : Type} {f : β × State → α → β × State} (l : List α)
    (hf : ∀ p a, Kept z p.2 → Kept z (f p a).2) (p : β × State) (h : Kept z p.2) : Kept z (l.foldl f p).2 := by
  induction l generalizing p with
  | nil => exact h
  | cons a l ih => exact ih _ (hf p a h)

/-! ### Entries of a table -/

theorem Tab.mem_erase {α : Type} {t : Tab α} {k : Nat} {p : Nat × α} (h : p ∈ Tab.erase t k) : p ∈ t := by
  induction t with
  | nil => exact h
  | cons q t ih =>
    simp only [Tab.erase] at h
    split at h
    · exact List.mem_cons_of_mem _ (ih h)
    · rcases List.mem_cons.1 h with e | e
      · exact e ▸ List.mem_cons_self
      · exact List.mem_cons_of_mem _ (ih e)

theorem Tab.mem_insert {α : Type} {t : Tab α} {k : Nat} {v : α} {p : Nat × α} (h : p ∈ Tab.insert t k v) :
    p.2 = v ∨ p ∈ t := by
  induction t with
  | nil => exact .inl (by rw [List.mem_singleton.1 h])
  | cons q t ih =>
    simp only [Tab.insert] at h
    split at h
    · rcases List.mem_cons.1 h with e | e
      · exact .inl (by rw [e])
      · exact .inr e
    · split at h
      · rcases List.mem_cons.1 h with e | e
        · exact .inl (by rw [e])
        · exact .inr (List.mem_cons_of_mem _ e)
      · rcases List.mem_cons.1 h with e | e
        · exact .inr (e ▸ List.mem_cons_self)
        · exact (ih e).imp id (List.mem_cons_of_mem _)

theorem Tab.mem_set {α : Type} [DecidableEq α] {d : α} {t : Tab α} {k : Nat} {v : α} {p : Nat × α}
    (h : p ∈ Tab.set d t k v) : p.2 = v ∨ p ∈ t := by
  unfold Tab.set at h
  split at h
  · exact .inr (Tab.mem_erase h)
  · exact Tab.mem_insert h

theorem Tab.get_mem {α : Type} (d : α) (t : Tab α) (k : Nat) : Tab.get d t k = d ∨ (k, Tab.get d t k) ∈ t := by
  induction t with
  | nil => exact .inl rfl
  | cons q t ih =>
    simp only [Tab.get]
    split
    · next e => exact .inr (e ▸ List.mem_cons_self)
    · exact ih.imp id (List.mem_cons_of_mem _)

/-! ### Ops.lean and Mem.lean -/

theorem Kept.log_le (h : Kept z s) (hz : ∀ p ∈ z.dies, p.2.log.length ≤ 4096) (d : Die) :
    (s.die d).log.length ≤ 4096 := by
  rcases Tab.get_mem ({} : DieSt) s.dies (dieCode d) with e | e
  · unfold State.die; rw [e]; exact Nat.zero_le _
  · exact h.logs hz _ e

theorem Kept.setF (h : Kept z s) (d : Die) (b : Blk) (i : Nat) (f : Fld) (v k : Nat) : Kept z (s.setF d b i f v k) :=
  { h with regs := fun hz => Tab.rising_set _ _ (h.regs hz) }

theorem Kept.bumpF (h : Kept z s) (d : Die) (b : Blk) (i : Nat) (f : Fld) (k : Nat) : Kept z (s.bumpF d b i f k) :=
  h.setF ..

theorem Kept.addF (h : Kept z s) (d : Die) (b : Blk) (i : Nat) (f : Fld) (n k : Nat) : Kept z (s.addF d b i f n k) :=
  h.setF ..

theorem Kept.set64 (h : Kept z s) (d : Die) (b : Blk) (i : Nat) (lo hi : Fld) (v k : Nat) :
    Kept z (s.set64 d b i lo hi v k) := (h.setF ..).setF ..

/-- `x` must keep its log within the ring. -/
theorem Kept.setDie (h : Kept z s) (d : Die) (x : DieSt)
    (hx : (∀ p ∈ z.dies, p.2.log.length ≤ 4096) → x.log.length ≤ 4096) : Kept z (s.setDie d x) :=
  { h with logs := fun hz p hp => (Tab.mem_set hp).elim (fun e => e ▸ hx hz) (h.logs hz p) }

theorem Kept.draw (h : Kept z s) (w : Nat) : Kept z (s.draw w).2 := { h with free := Nat.le_succ_of_le h.free }

theorem Kept.raiseOn (h : Kept z s) (v : Nat) (c : Crown) : Kept z (s.raiseOn v c) := by
  unfold State.raiseOn
  exact .ite (h.setF ..) (.ite (h.setF ..) (h.setF ..))

theorem Kept.raise (h : Kept z s) (own : Option Crown) (v : Nat) : Kept z (s.raise own v) := by
  cases own with
  | some c => exact h.raiseOn ..
  | none => exact .foldl _ (fun _ _ g => g.raiseOn ..) h

theorem Kept.logAs (h : Kept z s) (d dd : Die) (b : Blk) (inst rc : Nat) (detail : List Byte) (ctx : Nat) :
    Kept z (s.logAs d dd b inst rc detail ctx) := by
  unfold State.logAs
  have g := (h.setDie d { s.die d with
    log := ((⟨(s.die d).beat, rc, dieCode dd, b.code, inst, ctx, severity rc, detail⟩ : LogRec) :: (s.die d).log).take 4096,
    logCount := (s.die d).logCount + 1 } (fun _ => by simp only [List.length_take]; omega)).raise (ownOf d b) 0
  dsimp only
  split
  · exact g.raise ..
  · exact g

theorem Kept.log (h : Kept z s) (d : Die) (b : Blk) (inst rc : Nat) (detail : List Byte) (ctx : Nat) :
    Kept z (s.log d b inst rc detail ctx) := h.logAs ..

theorem Kept.lastReason (h : Kept z s) (d : Die) (b : Blk) (inst rc : Nat) : Kept z (s.lastReason d b inst rc) :=
  ((((h.setF ..).setF ..).setF ..).setF ..).bumpF ..

theorem Kept.refuseBlk (h : Kept z s) (d : Die) (b : Blk) (inst rc : Nat) : Kept z (s.refuseBlk d b inst rc) :=
  ((h.lastReason ..).log ..).raise ..

theorem Kept.refuse (h : Kept z s) (fn : Fn) (d : Die) (inst rc : Nat) : Kept z (s.refuse fn d inst rc) :=
  ((h.setF ..).setF ..).refuseBlk ..

theorem Kept.refuseAbsent (h : Kept z s) (d : Die) (b : Blk) (inst : Nat) : Kept z (s.refuseAbsent d b inst) :=
  ((h.lastReason ..).logAs ..).raise ..

theorem memPut_wf {m : List Host.Cell} (pa : Nat) (l : List Byte) (h : Memory.wf m = true) : Memory.wf (memPut m pa l) = true := by
  induction l generalizing m pa with
  | nil => exact h
  | cons b l ih => exact ih _ (Tab.wf_set _ _ h)

theorem Kept.wrBytes (h : Kept z s) (pa : Nat) (l : List Byte) : Kept z (s.wrBytes pa l) :=
  { h with mem := fun hz => memPut_wf _ _ (h.mem hz) }

theorem Kept.setPoison (h : Kept z s) (pa : Nat) (p : Bool) : Kept z (s.setPoison pa p) :=
  { h with poison := fun hz => Tab.wf_set _ _ (h.poison hz) }

theorem Kept.wrGranule (h : Kept z s) (pa : Nat) (l : List Byte) : Kept z (s.wrGranule pa l) :=
  (h.wrBytes ..).setPoison ..

theorem Kept.setTbl (h : Kept z s) (space d bank dir slot idx v : Nat) : Kept z (s.setTbl space d bank dir slot idx v) :=
  h.same rfl rfl rfl rfl rfl rfl rfl rfl

end Sys2Proof.Machine
end

