-- ==== Sys2Proof/Laws/KeptLink.lean ====
section
/-! SUPPORT. `Kept` for the operations and commands of the links, the beat and the sideband:
each keeps the queue, the clock and the canonical form. -/

namespace Sys2Proof.Machine

variable {z s t : State}

theorem Kept.setCtx (h : Kept z s) (d : Die) (n : Nat) (c : CtxSt) : Kept z (State.setCtx s d n c) := by
  unfold State.setCtx
  repeat' first
    | (with_reducible first | assumption | apply Kept.ite)
    | refine Kept.of_eq (by assumption) ?_ | split | dsimp only | with_reducible apply Kept.mk_same

theorem Kept.setDom (h : Kept z s) (k : Nat) (x : RcvDom) : Kept z (State.setDom s k x) := by
  unfold State.setDom
  repeat' first
    | (with_reducible first | assumption | apply Kept.ite)
    | refine Kept.of_eq (by assumption) ?_ | split | dsimp only | with_reducible apply Kept.mk_same

theorem Kept.setCtxState (h : Kept z s) (d : Die) (n : Nat) (v : Nat) : Kept z (State.setCtxState s d n v) := by
  unfold State.setCtxState
  repeat' first
    | (with_reducible first | assumption | apply Kept.ite | apply Kept.setF)

theorem Kept.markFaulted (h : Kept z s) (d : Die) (n : Nat) : Kept z (State.markFaulted s d n) := by
  unfold State.markFaulted
  repeat' first
    | intro _
    | (with_reducible first | assumption | apply Kept.ite | apply Kept.setDie)
    | refine Kept.of_eq (by assumption) ?_ | split | dsimp only | exact Nat.zero_le _ | refine Kept.log_le ?_ (by assumption) _

theorem Kept.answerFault (h : Kept z s) (d : Die) (n : Nat) (act : Nat) : Kept z (State.answerFault s d n act) := by
  unfold State.answerFault
  repeat' first
    | (with_reducible first | assumption | apply Kept.ite | apply Kept.setCtx | apply Kept.markFaulted
                            | apply Kept.setF)

theorem Kept.dropAction (h : Kept z s) (d : Die) (n : Nat) : Kept z (State.dropAction s d n) := by
  unfold State.dropAction
  repeat' first
    | (with_reducible first | assumption | apply Kept.ite | apply Kept.setCtx | apply Kept.markFaulted)
    | refine Kept.of_eq (by assumption) ?_ | split | dsimp only | with_reducible apply Kept.mk_same

theorem Kept.ctxFaultOn (h : Kept z s) (n : Nat) (cause : Nat) (eng : Nat) (rc : Nat) (hold : Bool) (logged : Bool) (d
    : Die) : Kept z (State.ctxFaultOn s n cause eng rc hold logged d) := by
  unfold State.ctxFaultOn
  repeat' first
    | (with_reducible first | assumption | apply Kept.ite | apply Kept.setCtxState | apply Kept.setF
                            | apply Kept.setCtx | apply Kept.log | apply Kept.dropAction
                            | apply Kept.answerFault | apply Kept.raise)

theorem Kept.ctxFault (h : Kept z s) (n : Nat) (rc : Nat) : Kept z (State.ctxFault s n rc) := by
  unfold State.ctxFault
  repeat' first
    | intro _
    | (with_reducible first | assumption | apply Kept.foldl | apply Kept.ite | apply Kept.ctxFaultOn)

theorem Kept.setLink (h : Kept z s) (e : LinkEnd) (l : LinkSt) : Kept z (State.setLink s e l) := by
  unfold State.setLink
  repeat' first
    | (with_reducible first | assumption | apply Kept.ite)
    | refine Kept.of_eq (by assumption) ?_ | split | dsimp only | with_reducible apply Kept.mk_same

theorem Kept.setBun (h : Kept z s) (e : LinkEnd) (b : Nat) (x : BundleSt) : Kept z (State.setBun s e b x) := by
  unfold State.setBun
  repeat' first
    | (with_reducible first | assumption | apply Kept.ite | apply Kept.setLink)

theorem Kept.setLf (h : Kept z s) (e : LinkEnd) (fi : Fld) (ft : Fld) (v : Nat) (k : Nat) : Kept z (State.setLf s e fi
    ft v k) := by
  unfold State.setLf
  repeat' first
    | (with_reducible first | assumption | apply Kept.ite | apply Kept.setF)

theorem Kept.bumpLf (h : Kept z s) (e : LinkEnd) (fi : Fld) (ft : Fld) (k : Nat) : Kept z (State.bumpLf s e fi ft k)
    := by
  unfold State.bumpLf
  repeat' first
    | (with_reducible first | assumption | apply Kept.ite | apply Kept.bumpF)

theorem Kept.logLink (h : Kept z s) (e : LinkEnd) (rc : Nat) (detail : List Byte) (ctx : Nat) : Kept z (State.logLink
    s e rc detail ctx) := by
  unfold State.logLink
  repeat' first
    | (with_reducible first | assumption | apply Kept.ite | apply Kept.log)

theorem Kept.toSt (h : Kept z s) (e : LinkEnd) (st : Nat) : Kept z (State.toSt s e st) := by
  unfold State.toSt
  repeat' first
    | (with_reducible first | assumption | apply Kept.ite | apply Kept.setLf | apply Kept.setLink
                            | apply Kept.setF | apply Kept.raise)

theorem Kept.setRxMap (h : Kept z s) (e : LinkEnd) (b : Nat) (m : LaneMap) : Kept z (State.setRxMap s e b m) := by
  unfold State.setRxMap
  repeat' first
    | (with_reducible first | assumption | apply Kept.ite | apply Kept.setLf | apply Kept.setF)

theorem Kept.setRetired (h : Kept z s) (e : LinkEnd) (b : Nat) (v : Bool) : Kept z (State.setRetired s e b v) := by
  unfold State.setRetired
  repeat' first
    | (with_reducible first | assumption | apply Kept.ite | apply Kept.setRxMap | apply Kept.setF)

theorem Kept.setTxMap (h : Kept z s) (e : LinkEnd) (b : Nat) (m : LaneMap) : Kept z (State.setTxMap s e b m) := by
  unfold State.setTxMap
  repeat' first
    | (with_reducible first | assumption | apply Kept.ite | apply Kept.setLf | apply Kept.setF)

theorem Kept.loadFuseMaps (h : Kept z s) (e : LinkEnd) : Kept z (State.loadFuseMaps s e) := by
  unfold State.loadFuseMaps
  repeat' first
    | intro _
    | (with_reducible first | assumption | apply Kept.foldl | apply Kept.ite | apply Kept.setRxMap
                            | apply Kept.setTxMap)

theorem Kept.sbSend (h : Kept z s) (e : LinkEnd) (mtype : Nat) (body : Nat) (aux : Nat) (copies : Nat) : Kept z
    (State.sbSend s e mtype body aux copies) := by
  unfold State.sbSend
  repeat' first
    | (with_reducible first | assumption | apply Kept.ite | apply Kept.setLink)

theorem Kept.sbTake (h : Kept z s) (e : LinkEnd) (mtype : Nat) (mseq : Nat) : Kept z (State.sbTake s e mtype mseq).2
    := by
  unfold State.sbTake
  repeat' first
    | (with_reducible first | assumption | apply Kept.ite | apply Kept.ite_snd | apply Kept.setLink
                            | apply Kept.sbSend)

theorem Kept.addLoss (h : Kept z s) (d : Die) (link : Nat) (b : Nat) (decl : Nat) (joinAt : Nat) : Kept z
    (State.addLoss s d link b decl joinAt) := by
  unfold State.addLoss
  repeat' first
    | intro _
    | (with_reducible first | assumption | apply Kept.ite | apply Kept.setF | apply Kept.setDie)
    | refine Kept.of_eq (by assumption) ?_ | split | dsimp only | exact Nat.zero_le _ | refine Kept.log_le ?_ (by assumption) _

theorem Kept.sendNotice (h : Kept z s) (es : List LinkEnd) (payload : List Byte) (fwd : Bool) : Kept z
    (State.sendNotice s es payload fwd) := by
  unfold State.sendNotice
  repeat' first
    | intro _
    | (with_reducible first | assumption | apply Kept.foldl | apply Kept.ite | apply Kept.setLink)

theorem Kept.declareLoss (h : Kept z s) (e : LinkEnd) (b : Nat) (rc : Nat) : Kept z (State.declareLoss s e b rc) := by
  unfold State.declareLoss
  repeat' first
    | (with_reducible first | assumption | apply Kept.ite | apply Kept.addLoss | apply Kept.sendNotice)

theorem Kept.noteGone (h : Kept z s) (e : LinkEnd) (bs : List Nat) : Kept z (State.noteGone s e bs) := by
  unfold State.noteGone
  repeat' first
    | intro _
    | (with_reducible first | assumption | apply Kept.foldl | apply Kept.ite | apply Kept.setBun)

theorem Kept.quiesce (h : Kept z s) (e : LinkEnd) (leaving : List Nat) : Kept z (State.quiesce s e leaving) := by
  unfold State.quiesce
  repeat' first
    | (with_reducible first | assumption | apply Kept.ite | apply Kept.setLf | apply Kept.setLink
                            | apply Kept.noteGone)

theorem Kept.degrade (h : Kept z s) (e : LinkEnd) : Kept z (State.degrade s e) := by
  unfold State.degrade
  repeat' first
    | (with_reducible first | assumption | apply Kept.ite | apply Kept.toSt)

theorem Kept.markRetired (h : Kept z s) (e : LinkEnd) (b : Nat) : Kept z (State.markRetired s e b) := by
  unfold State.markRetired
  repeat' first
    | (with_reducible first | assumption | apply Kept.ite | apply Kept.setRetired | apply Kept.setBun
                            | apply Kept.setTxMap | apply Kept.degrade)

theorem Kept.declareTrayLoss (h : Kept z s) (n : Fin 8) (rc : Nat) : Kept z (State.declareTrayLoss s n rc) := by
  unfold State.declareTrayLoss
  repeat' first
    | intro _
    | (with_reducible first | assumption | apply Kept.ite | apply Kept.setDie | apply Kept.addLoss
                            | apply Kept.sendNotice)
    | refine Kept.of_eq (by assumption) ?_ | split | dsimp only | exact Nat.zero_le _ | refine Kept.log_le ?_ (by assumption) _

theorem Kept.retireBundle (h : Kept z s) (e : LinkEnd) (b : Nat) (rc : Nat) (keep : Bool) : Kept z (State.retireBundle
    s e b rc keep) := by
  unfold State.retireBundle
  repeat' first
    | (with_reducible first | assumption | apply Kept.ite | apply Kept.logLink | apply Kept.setRetired
                            | apply Kept.toSt | apply Kept.setLink | apply Kept.declareTrayLoss
                            | apply Kept.declareLoss | apply Kept.sbSend | apply Kept.quiesce
                            | apply Kept.setBun | apply Kept.markRetired)
    | refine Kept.of_eq (by assumption) ?_ | split

theorem Kept.stopNext (h : Kept z s) (e : LinkEnd) (b : Nat) : Kept z (State.stopNext s e b) := by
  unfold State.stopNext
  repeat' first
    | (with_reducible first | assumption | apply Kept.ite | apply Kept.setBun)

theorem Kept.askFpReset (h : Kept z s) (m : Mv) (f : Nat) : Kept z (State.askFpReset s m f) := by
  unfold State.askFpReset
  repeat' first
    | (with_reducible first | assumption | apply Kept.ite | apply Kept.sbSend)

theorem Kept.retireAll (h : Kept z s) (e : LinkEnd) (rc : Nat) : Kept z (State.retireAll s e rc) := by
  unfold State.retireAll
  repeat' first
    | intro _
    | (with_reducible first | assumption | apply Kept.foldl | apply Kept.ite | apply Kept.setRetired
                            | apply Kept.declareLoss | apply Kept.setBun)

theorem Kept.endService (h : Kept z s) (e : LinkEnd) : Kept z (State.endService s e) := by
  unfold State.endService
  repeat' first
    | intro _
    | (with_reducible first | assumption | apply Kept.foldl | apply Kept.ite | apply Kept.markRetired
                            | apply Kept.setLink)

theorem Kept.linkReturn (h : Kept z s) (e : LinkEnd) (rc : Nat) (counted : Bool) (ask : Bool) : Kept z
    (State.linkReturn s e rc counted ask) := by
  unfold State.linkReturn
  repeat' first
    | (with_reducible first | assumption | apply Kept.ite | apply Kept.endService | apply Kept.setLink
                            | apply Kept.logLink | apply Kept.setF | apply Kept.toSt
                            | apply Kept.declareTrayLoss | apply Kept.bumpF | apply Kept.askFpReset
                            | apply Kept.retireAll)
    | refine Kept.of_eq (by assumption) ?_ | split

theorem Kept.showLevel (h : Kept z s)  : Kept z (State.showLevel s) := by
  unfold State.showLevel
  repeat' first
    | intro _
    | (with_reducible first | assumption | apply Kept.foldl | apply Kept.ite | apply Kept.setF)

theorem Kept.noteLast (h : Kept z s) (rc : Nat) (cause : Nat) (d : Die) : Kept z (State.noteLast s rc cause d) := by
  unfold State.noteLast
  repeat' first
    | (with_reducible first | assumption | apply Kept.ite | apply Kept.setF | apply Kept.set64)

theorem Kept.powerCycle (h : Kept z s) (cause : Nat) : Kept z (State.powerCycle s cause) := by
  unfold State.powerCycle
  repeat' first
    | (with_reducible first | assumption | apply Kept.ite | apply Kept.log | apply Kept.noteLast
                            | apply Kept.setF)
    | refine Kept.of_eq (by assumption) ?_ | split | dsimp only | with_reducible apply Kept.mk_same

theorem Kept.setHistory (h : Kept z s) (l : List Nat) : Kept z (State.setHistory s l) := by
  unfold State.setHistory
  repeat' first
    | intro _
    | (with_reducible first | assumption | apply Kept.foldl | apply Kept.ite | apply Kept.set64)

theorem Kept.noteChip (h : Kept z s)  : Kept z (State.noteChip s) := by
  unfold State.noteChip
  repeat' first
    | (with_reducible first | assumption | apply Kept.ite | apply Kept.setHistory)

theorem Kept.tellMaster (h : Kept z s) (level : Nat) (ready : Bool) (cause : Nat) : Kept z (State.tellMaster s level
    ready cause) := by
  unfold State.tellMaster
  repeat' first
    | (with_reducible first | assumption | apply Kept.ite | apply Kept.sbSend)
    | refine Kept.of_eq (by assumption) ?_ | split

theorem Kept.stopAllSc (h : Kept z s)  : Kept z (State.stopAllSc s) := by
  unfold State.stopAllSc
  repeat' first
    | intro _
    | (with_reducible first | assumption | apply Kept.foldl | apply Kept.ite | apply Kept.setLink)

theorem Kept.sendOrder (h : Kept z s) (cause : Nat) : Kept z (State.sendOrder s cause) := by
  unfold State.sendOrder
  repeat' first
    | intro _
    | (with_reducible first | assumption | apply Kept.foldl | apply Kept.ite | apply Kept.sbSend)
    | refine Kept.of_eq (by assumption) ?_ | split | dsimp only | with_reducible apply Kept.mk_same

theorem Kept.chipTray (h : Kept z s) (cause : Nat) : Kept z (State.chipTray s cause) := by
  unfold State.chipTray
  repeat' first
    | (with_reducible first | assumption | apply Kept.ite | apply Kept.stopAllSc | apply Kept.tellMaster
                            | apply Kept.sendOrder)

theorem Kept.trigger (h : Kept z s) (lvl : Nat) (cause : Nat) (d : Die) (eng : Nat) (rc : Nat) (origin : Nat) : Kept z
    (State.trigger s lvl cause d eng rc origin) := by
  unfold State.trigger
  repeat' first
    | intro _
    | (with_reducible first | assumption | apply Kept.foldl | apply Kept.ite | apply Kept.log
                            | apply Kept.noteLast | apply Kept.setDom | apply Kept.showLevel
                            | apply Kept.noteChip | apply Kept.stopAllSc | apply Kept.chipTray)

theorem Kept.setPhase (h : Kept z s) (p : Nat) : Kept z (State.setPhase s p) := by
  unfold State.setPhase
  repeat' first
    | (with_reducible first | assumption | apply Kept.ite | apply Kept.setF)

theorem Kept.endStep (h : Kept z s) (k : Nat) : Kept z (State.endStep s k) := by
  unfold State.endStep
  repeat' first
    | (with_reducible first | assumption | apply Kept.ite | apply Kept.setF)

theorem Kept.nextDomain (h : Kept z s)  : Kept z (State.nextDomain s) := by
  unfold State.nextDomain
  repeat' first
    | (with_reducible first | assumption | apply Kept.ite)
    | refine Kept.of_eq (by assumption) ?_ | split | dsimp only | with_reducible apply Kept.mk_same

theorem Kept.bootAdvance (h : Kept z s)  : Kept z (State.bootAdvance s) := by
  unfold State.bootAdvance
  repeat' first
    | (with_reducible first | assumption | apply Kept.ite | apply Kept.endStep | apply Kept.setPhase)
    | refine Kept.of_eq (by assumption) ?_ | split | dsimp only | with_reducible apply Kept.mk_same

theorem Kept.pickSyncPort (h : Kept z s)  : Kept z (State.pickSyncPort s) := by
  unfold State.pickSyncPort
  repeat' first
    | (with_reducible first | assumption | apply Kept.ite | apply Kept.setF)
    | refine Kept.of_eq (by assumption) ?_ | split | dsimp only | with_reducible apply Kept.mk_same

theorem Kept.stopTraySc (h : Kept z s)  : Kept z (State.stopTraySc s) := by
  unfold State.stopTraySc
  repeat' first
    | intro _
    | (with_reducible first | assumption | apply Kept.foldl | apply Kept.ite | apply Kept.setLink)

theorem Kept.syncLost (h : Kept z s)  : Kept z (State.syncLost s) := by
  unfold State.syncLost
  repeat' first
    | (with_reducible first | assumption | apply Kept.ite | apply Kept.setF | apply Kept.stopTraySc
                            | apply Kept.trigger)

theorem Kept.setCr0Map (h : Kept z s) (m : Nat × Nat × Nat) : Kept z (State.setCr0Map s m) := by
  unfold State.setCr0Map
  repeat' first
    | (with_reducible first | assumption | apply Kept.ite | apply Kept.set64 | apply Kept.setF)
    | refine Kept.of_eq (by assumption) ?_ | split | dsimp only | with_reducible apply Kept.mk_same

theorem Kept.setTaiFlags (h : Kept z s) (d : Die) (valid : Bool) (hold : Bool) : Kept z (State.setTaiFlags s d valid
    hold) := by
  unfold State.setTaiFlags
  repeat' first
    | intro _
    | (with_reducible first | assumption | apply Kept.ite | apply Kept.setF | apply Kept.setDie
                            | apply Kept.raise)
    | refine Kept.of_eq (by assumption) ?_ | split | dsimp only | exact Nat.zero_le _ | refine Kept.log_le ?_ (by assumption) _

theorem Kept.putRd (h : Kept z s) (p : Path) (v : Nat) : Kept z (State.putRd s p v) := by
  unfold State.putRd
  repeat' first
    | (with_reducible first | assumption | apply Kept.ite)
    | refine Kept.of_eq (by assumption) ?_ | split | dsimp only | with_reducible apply Kept.mk_same

theorem Kept.deadRead (h : Kept z s) (p : Path) (d : Die) (b : Blk) {a : Nat × State} (e : s.deadRead p d b = some a) :
    Kept z a.2 := by
  have g : ∀ (c : Prop) [Decidable c] (o q : Option (Nat × State)), (∀ x, o = some x → Kept z x.2) →
      (∀ x, q = some x → Kept z x.2) → ∀ x, (if c then o else q) = some x → Kept z x.2 := by
    intro c _ o q ho hq x hx
    split at hx
    · exact ho x hx
    · exact hq x hx
  refine g _ _ _ (fun x hx => ?_) (g _ _ _ (fun x hx => ?_) (g _ _ _ (fun x hx => ?_) (fun x hx => by cases hx))) a e
  · injection hx with hx; rw [← hx]; exact h
  · injection hx with hx
    rw [← hx]
    dsimp only
    split
    · exact h.bumpF ..
    · exact h
  · injection hx with hx; rw [← hx]; exact h

theorem Kept.deadRead_getD (h : Kept z s) (p : Path) (d : Die) (b : Blk) {r : Nat × State} (hr : Kept z r.2) :
    Kept z ((s.deadRead p d b).getD r).2 := by
  cases e : s.deadRead p d b with
  | none => exact hr
  | some a => exact h.deadRead p d b e

theorem Kept.readBeatLo (h : Kept z s) (p : Path) (d : Die) : Kept z (State.readBeatLo s p d).2 := by
  unfold State.readBeatLo
  repeat' first
    | (with_reducible first | assumption | apply Kept.ite | apply Kept.ite_snd)
    | refine Kept.of_eq (by assumption) ?_ | split | dsimp only | with_reducible apply Kept.mk_same

theorem execBeatLoRead_kept (h : Kept z s) (p : Path) (d : Die) : KeptO z (execBeatLoRead p d s) :=
  .next ((h.deadRead_getD p d .bal (h.readBeatLo p d)).putRd ..)

theorem execBeatLoadSend_kept (h : Kept z s) (d : Die) : KeptO z (execBeatLoadSend d s) := by
  unfold execBeatLoadSend
  repeat' first
    | (with_reducible first | assumption | apply KeptO.next | apply KeptO.ite | apply Kept.ite
                            | apply Kept.sbSend)
    | refine Kept.of_eq (by assumption) ?_ | split

theorem Kept.applyLoad (h : Kept z s) (d : Die) (value : Nat) (frac : Int) : Kept z (State.applyLoad s d value frac)
    := by
  unfold State.applyLoad
  repeat' first
    | intro _
    | (with_reducible first | assumption | apply Kept.ite | apply Kept.setDie | apply Kept.set64
                            | apply Kept.setF | apply Kept.nextDomain | apply Kept.bootAdvance)
    | refine Kept.of_eq (by assumption) ?_ | split | dsimp only | exact Nat.zero_le _ | refine Kept.log_le ?_ (by assumption) _ | with_reducible apply Kept.mk_same

theorem execBeatSyncAttempt_kept (h : Kept z s) (n : Fin 8) : KeptO z (execBeatSyncAttempt n s) := by
  unfold execBeatSyncAttempt
  repeat' first
    | (with_reducible first | assumption | apply KeptO.next | apply KeptO.ite | apply Kept.ite
                            | apply Kept.sbSend | apply Kept.setLink)

theorem Kept.phaseStep (h : Kept z s) (err : Int) : Kept z (State.phaseStep s err) := by
  unfold State.phaseStep
  repeat' first
    | intro _
    | (with_reducible first | assumption | apply Kept.foldl | apply Kept.ite | apply Kept.setF
                            | apply Kept.setDie | apply Kept.syncLost)
    | refine Kept.of_eq (by assumption) ?_ | split | dsimp only | exact Nat.zero_le _ | refine Kept.log_le ?_ (by assumption) _

theorem execBeatSyncTimeout_kept (h : Kept z s) (n : Fin 8) : KeptO z (execBeatSyncTimeout n s) := by
  unfold execBeatSyncTimeout
  repeat' first
    | (with_reducible first | assumption | apply KeptO.next | apply KeptO.ite | apply Kept.ite
                            | apply Kept.setLink | apply Kept.linkReturn)

theorem execSyncPortLoss_kept (h : Kept z s)  : KeptO z (execSyncPortLoss s) := by
  unfold execSyncPortLoss
  repeat' first
    | (with_reducible first | assumption | apply KeptO.next | apply KeptO.ite | apply Kept.ite
                            | apply Kept.pickSyncPort)
    | refine Kept.of_eq (by assumption) ?_ | split | dsimp only | with_reducible apply Kept.mk_same

theorem execSyncHoldoverExpiry_kept (h : Kept z s)  : KeptO z (execSyncHoldoverExpiry s) := by
  unfold execSyncHoldoverExpiry
  repeat' first
    | (with_reducible first | assumption | apply KeptO.next | apply KeptO.ite | apply Kept.ite
                            | apply Kept.syncLost)
    | refine Kept.of_eq (by assumption) ?_ | split | dsimp only | with_reducible apply Kept.mk_same

theorem execServoMapUpdate_kept (h : Kept z s)  : KeptO z (execServoMapUpdate s) := by
  unfold execServoMapUpdate
  repeat' first
    | (with_reducible first | assumption | apply KeptO.next | apply KeptO.ite | apply Kept.ite
                            | apply Kept.setCr0Map)
    | refine Kept.of_eq (by assumption) ?_ | split | dsimp only | with_reducible apply Kept.mk_same

theorem execTaiMapSend_kept (h : Kept z s) (e : LinkEnd) : KeptO z (execTaiMapSend e s) := by
  unfold execTaiMapSend
  repeat' first
    | (with_reducible first | assumption | apply KeptO.next | apply KeptO.ite | apply Kept.ite
                            | apply Kept.sbSend)

theorem execTaiMapApply_kept (h : Kept z s) (d : Die) : KeptO z (execTaiMapApply d s) := by
  unfold execTaiMapApply
  repeat' first
    | intro _
    | (with_reducible first | assumption | apply KeptO.next | apply KeptO.ite | apply Kept.ite
                            | apply Kept.setDie | apply Kept.setCr0Map | apply Kept.setTaiFlags)
    | refine Kept.of_eq (by assumption) ?_ | split | dsimp only | exact Nat.zero_le _ | refine Kept.log_le ?_ (by assumption) _

theorem Kept.crossed (h : Kept z s) (d : Die) (kind : Nat) (blk : Nat) (inst : Nat) : Kept z (State.crossed s d kind
    blk inst) := by
  unfold State.crossed
  repeat' first
    | intro _
    | (with_reducible first | assumption | apply Kept.ite | apply Kept.setDie)
    | refine Kept.of_eq (by assumption) ?_ | split | dsimp only | exact Nat.zero_le _ | refine Kept.log_le ?_ (by assumption) _

theorem execCdcStale_kept (h : Kept z s) (d : Die) (kind : Fin 5) (blk : Nat) (inst : Nat) : KeptO z (execCdcStale d
    kind blk inst s) := by
  unfold execCdcStale
  repeat' first
    | intro _
    | (with_reducible first | assumption | apply KeptO.next | apply KeptO.ite | apply Kept.ite
                            | apply Kept.setDie | apply Kept.setF | apply Kept.bumpF)
    | refine Kept.of_eq (by assumption) ?_ | split | dsimp only | exact Nat.zero_le _ | refine Kept.log_le ?_ (by assumption) _

theorem execPointerSet_kept (h : Kept z s) (e : LinkEnd) : KeptO z (execPointerSet e s) := by
  unfold execPointerSet
  repeat' first
    | (with_reducible first | assumption | apply KeptO.next | apply KeptO.ite | apply Kept.ite
                            | apply Kept.setLink | apply Kept.toSt)

theorem execPtrHandshakeTimeout_kept (h : Kept z s) (e : LinkEnd) : KeptO z (execPtrHandshakeTimeout e s) := by
  unfold execPtrHandshakeTimeout
  repeat' first
    | (with_reducible first | assumption | apply KeptO.next | apply KeptO.ite | apply Kept.ite
                            | apply Kept.setLink | apply Kept.linkReturn)

theorem Kept.setTap (h : Kept z s) (e : LinkEnd) (b : Nat) (c : Nat) (f : Fld) (v : Nat) : Kept z (State.setTap s e b
    c f v) := by
  unfold State.setTap
  repeat' first
    | (with_reducible first | assumption | apply Kept.ite | apply Kept.setF)

theorem Kept.setEye (h : Kept z s) (e : LinkEnd) (b : Nat) (c : Nat) (w : Bool) (n : Nat) : Kept z (State.setEye s e b
    c w n) := by
  unfold State.setEye
  repeat' first
    | (with_reducible first | assumption | apply Kept.ite | apply Kept.setTap)

theorem Kept.endFull (h : Kept z s) (e : LinkEnd) (b : Nat) (kind : Nat) (h : List (Nat × Nat)) (c : Nat) : Kept z
    (State.endFull s e b kind h c) := by
  unfold State.endFull
  repeat' first
    | intro _
    | (with_reducible first | assumption | apply Kept.foldl | apply Kept.ite | apply Kept.setTap
                            | apply Kept.setEye)
    | refine Kept.of_eq (by assumption) ?_ | split

theorem Kept.endSeed (h : Kept z s) (e : LinkEnd) (b : Nat) (kind : Nat) (h : List (Nat × Nat)) (recentre : Bool) (c :
    Nat) : Kept z (State.endSeed s e b kind h recentre c).2 := by
  unfold State.endSeed
  repeat' first
    | (with_reducible first | assumption | apply Kept.ite | apply Kept.ite_snd | apply Kept.setTap
                            | apply Kept.setEye)

theorem Kept.beginFull (h : Kept z s) (e : LinkEnd) (b : Nat) (fell : Bool) : Kept z (State.beginFull s e b fell) := by
  unfold State.beginFull
  repeat' first
    | intro _
    | (with_reducible first | assumption | apply Kept.foldl | apply Kept.ite | apply Kept.setTap
                            | apply Kept.setBun)

theorem Kept.putSeed (h : Kept z s) (e : LinkEnd) (b : Nat) (r : SeedRec) : Kept z (State.putSeed s e b r) := by
  unfold State.putSeed
  repeat' first
    | intro _
    | (with_reducible first | assumption | apply Kept.foldl | apply Kept.ite | apply Kept.setTap)

theorem Kept.beginCal (h : Kept z s) (e : LinkEnd) (b : Nat) : Kept z (State.beginCal s e b) := by
  unfold State.beginCal
  repeat' first
    | (with_reducible first | assumption | apply Kept.ite | apply Kept.setBun | apply Kept.beginFull
                            | apply Kept.logLink | apply Kept.putSeed)
    | refine Kept.of_eq (by assumption) ?_ | split | dsimp only

theorem Kept.measureZref (h : Kept z s) (e : LinkEnd) : Kept z (State.measureZref s e) := by
  unfold State.measureZref
  repeat' first
    | (with_reducible first | assumption | apply Kept.ite | apply Kept.draw | apply Kept.setF)

theorem Kept.enterCalib (h : Kept z s) (e : LinkEnd) : Kept z (State.enterCalib s e) := by
  unfold State.enterCalib
  repeat' first
    | intro _
    | (with_reducible first | assumption | apply Kept.foldl | apply Kept.ite | apply Kept.setF
                            | apply Kept.measureZref | apply Kept.setLink | apply Kept.toSt
                            | apply Kept.beginCal)

theorem Kept.fpFree (h : Kept z s) (e : LinkEnd) : Kept z (State.fpFree s e) := by
  unfold State.fpFree
  repeat' first
    | (with_reducible first | assumption | apply Kept.ite | apply Kept.enterCalib | apply Kept.setLink)

theorem execFpJointResetRelease_kept (h : Kept z s) (f : Fin 4) : KeptO z (execFpJointResetRelease f s) := by
  unfold execFpJointResetRelease
  repeat' first
    | (with_reducible first | assumption | apply KeptO.next | apply KeptO.ite | apply Kept.ite
                            | apply Kept.fpFree)
    | refine Kept.of_eq (by assumption) ?_ | split | dsimp only | with_reducible apply Kept.mk_same

theorem execResetRetry_kept (h : Kept z s) (e : LinkEnd) : KeptO z (execResetRetry e s) := by
  unfold execResetRetry
  repeat' first
    | (with_reducible first | assumption | apply KeptO.next | apply KeptO.ite | apply Kept.ite
                            | apply Kept.enterCalib)

theorem Kept.eyeSummary (h : Kept z s) (e : LinkEnd) (b : Nat) : Kept z (State.eyeSummary s e b) := by
  unfold State.eyeSummary
  repeat' first
    | intro _
    | (with_reducible first | assumption | apply Kept.foldl | apply Kept.ite | apply Kept.setF)

theorem Kept.searchDone (h : Kept z s) (e : LinkEnd) (b : Nat) (x : SearchSt) : Kept z (State.searchDone s e b x) := by
  unfold State.searchDone
  repeat' first
    | intro _
    | (with_reducible first | assumption | apply Kept.foldl | apply Kept.ite | apply Kept.setTap
                            | apply Kept.logLink | apply Kept.eyeSummary | apply Kept.setBun)

theorem Kept.startTests (h : Kept z s) (e : LinkEnd) : Kept z (State.startTests s e) := by
  unfold State.startTests
  repeat' first
    | intro _
    | (with_reducible first | assumption | apply Kept.foldl | apply Kept.ite | apply Kept.setBun)

theorem Kept.afterSearch (h : Kept z s) (e : LinkEnd) : Kept z (State.afterSearch s e) := by
  unfold State.afterSearch
  repeat' first
    | (with_reducible first | assumption | apply Kept.ite | apply Kept.setF | apply Kept.toSt
                            | apply Kept.startTests)

theorem Kept.addWin (h : Kept z s) (e : LinkEnd) (b : Nat) (c : Nat) (n : Nat) : Kept z (State.addWin s e b c n) := by
  unfold State.addWin
  repeat' first
    | (with_reducible first | assumption | apply Kept.ite | apply Kept.addF)

theorem Kept.compliance (h : Kept z s) (e : LinkEnd) (b : Nat) (bits : List (List Bool)) : Kept z (State.compliance s
    e b bits) := by
  unfold State.compliance
  repeat' first
    | intro _
    | (with_reducible first | assumption | apply Kept.foldl | apply Kept.ite | apply Kept.addWin)

theorem Kept.finalWidth (h : Kept z s) (e : LinkEnd) (b : Nat) (eyes : List Nat) (c : Nat) : Kept z (State.finalWidth
    s e b eyes c) := by
  unfold State.finalWidth
  repeat' first
    | (with_reducible first | assumption | apply Kept.ite | apply Kept.setEye)

theorem Kept.showFloors (h : Kept z s) (e : LinkEnd) (b : Nat) : Kept z (State.showFloors s e b) := by
  unfold State.showFloors
  repeat' first
    | intro _
    | (with_reducible first | assumption | apply Kept.foldl | apply Kept.ite | apply Kept.setTap
                            | apply Kept.logLink)

theorem Kept.pointEnd (h : Kept z s) (e : LinkEnd) (b : Nat) (bits : List (List Bool)) (eyes : List Nat) :
    Kept z (s.pointEnd e b bits eyes) := by
  unfold State.pointEnd
  repeat' first
    | intro _
    | (with_reducible first | assumption | apply Kept.ite | apply Kept.setBun | apply Kept.afterSearch
                            | apply Kept.searchDone | apply Kept.beginFull | apply Kept.showFloors
                            | apply Kept.eyeSummary | apply Kept.finalWidth | apply Kept.logLink
                            | apply Kept.ite_snd | apply Kept.foldl | apply Kept.foldl_snd | apply Kept.endFull
                            | apply Kept.endSeed)

theorem Kept.trayCal (h : Kept z s) (e : LinkEnd) (taps : List Nat) (snr : List Nat) : Kept z (State.trayCal s e taps
    snr) := by
  unfold State.trayCal
  repeat' first
    | intro _
    | (with_reducible first | assumption | apply Kept.foldl | apply Kept.ite | apply Kept.setF
                            | apply Kept.logLink | apply Kept.setBun | apply Kept.afterSearch)

theorem execSearchPointEnd_kept (h : Kept z s) (e : LinkEnd) (b : Fin 16) (bits : List (List Bool)) (eyes taps snr :
    List Nat) :
    KeptO z (execSearchPointEnd e b bits eyes taps snr s) := by
  have g := (h.compliance e b bits).pointEnd e b bits eyes
  unfold execSearchPointEnd
  exact .ite (.next h) (.ite (.next (h.trayCal ..)) (.ite (.next g) (.next h)))

theorem Kept.testEnd (h : Kept z s) (e : LinkEnd) (b : Nat) (mask : Nat) : Kept z (State.testEnd s e b mask) := by
  unfold State.testEnd
  repeat' first
    | intro _
    | (with_reducible first | assumption | apply Kept.foldl | apply Kept.ite | apply Kept.logLink
                            | apply Kept.beginFull | apply Kept.setBun)

theorem execLanetestEnd_kept (h : Kept z s) (e : LinkEnd) (bits : List (List (List Bool))) : KeptO z (execLanetestEnd
    e bits s) := by
  unfold execLanetestEnd
  repeat' first
    | intro _
    | (with_reducible first | assumption | apply Kept.foldl | apply KeptO.next | apply KeptO.ite
                            | apply Kept.ite | apply Kept.compliance | apply Kept.testEnd | apply Kept.setLink)

theorem Kept.computeMap (h : Kept z s) (e : LinkEnd) (b : Nat) : Kept z (State.computeMap s e b) := by
  unfold State.computeMap
  repeat' first
    | intro _
    | (with_reducible first | assumption | apply Kept.foldl | apply Kept.ite | apply Kept.logLink
                            | apply Kept.retireBundle | apply Kept.sbSend | apply Kept.setBun)

theorem execLanetestExit_kept (h : Kept z s) (e : LinkEnd) : KeptO z (execLanetestExit e s) := by
  unfold execLanetestExit
  repeat' first
    | intro _
    | (with_reducible first | assumption | apply Kept.foldl | apply KeptO.next | apply KeptO.ite
                            | apply Kept.ite | apply Kept.computeMap | apply Kept.toSt | apply Kept.setF)

theorem Kept.enterPin (h : Kept z s) (e : LinkEnd) : Kept z (State.enterPin s e) := by
  unfold State.enterPin
  repeat' first
    | (with_reducible first | assumption | apply Kept.ite | apply Kept.toSt | apply Kept.sbSend
                            | apply Kept.setLink)

theorem Kept.applyMaps (h : Kept z s) (e : LinkEnd) (b : Nat) : Kept z (State.applyMaps s e b) := by
  unfold State.applyMaps
  repeat' first
    | (with_reducible first | assumption | apply Kept.ite | apply Kept.setRxMap | apply Kept.setBun
                            | apply Kept.setTxMap | apply Kept.markRetired)
    | refine Kept.of_eq (by assumption) ?_ | split | dsimp only

theorem execLanemapApply_kept (h : Kept z s) (e : LinkEnd) : KeptO z (execLanemapApply e s) := by
  unfold execLanemapApply
  repeat' first
    | intro _
    | (with_reducible first | assumption | apply Kept.foldl | apply KeptO.next | apply KeptO.ite
                            | apply Kept.ite | apply Kept.applyMaps | apply Kept.enterPin)

theorem Kept.setDepth (h : Kept z s) (e : LinkEnd) (b : Nat) (a : Nat) (p : Nat) : Kept z (State.setDepth s e b a p)
    := by
  unfold State.setDepth
  repeat' first
    | (with_reducible first | assumption | apply Kept.ite | apply Kept.setBun | apply Kept.setF)

theorem Kept.setPins (h : Kept z s) (e : LinkEnd) (rt : Int) (later : Nat → Int) : Kept z (State.setPins s e rt later)
    := by
  unfold State.setPins
  repeat' first
    | intro _
    | (with_reducible first | assumption | apply Kept.foldl | apply Kept.ite | apply Kept.linkReturn
                            | apply Kept.setDepth | apply Kept.setLf | apply Kept.setF | apply Kept.setLink
                            | apply Kept.toSt)

theorem Kept.goLive (h : Kept z s) (e : LinkEnd) : Kept z (State.goLive s e) := by
  unfold State.goLive
  repeat' first
    | (with_reducible first | assumption | apply Kept.ite | apply Kept.setLink | apply Kept.setLf
                            | apply Kept.setF | apply Kept.sbSend | apply Kept.toSt | apply Kept.bootAdvance
                            | apply Kept.pickSyncPort)

theorem Kept.markerCheck (h : Kept z s) (e : LinkEnd) (off : Int) : Kept z (State.markerCheck s e off) := by
  unfold State.markerCheck
  repeat' first
    | intro _
    | (with_reducible first | assumption | apply Kept.foldl | apply Kept.ite | apply Kept.setLink
                            | apply Kept.goLive | apply Kept.setDepth | apply Kept.linkReturn)

theorem Kept.setLock (h : Kept z s) (e : LinkEnd) (u : Nat) (v : Bool) : Kept z (State.setLock s e u v) := by
  unfold State.setLock
  repeat' first
    | (with_reducible first | assumption | apply Kept.ite | apply Kept.setF)

theorem Kept.setLossSet (h : Kept z s) (d : Die) (v : Nat) : Kept z (State.setLossSet s d v) := by
  unfold State.setLossSet
  repeat' first
    | (with_reducible first | assumption | apply Kept.ite | apply Kept.setF)

theorem Kept.noteSched (h : Kept z s) (d : Die) : Kept z (State.noteSched s d) := by
  unfold State.noteSched
  repeat' first
    | intro _
    | (with_reducible first | assumption | apply Kept.ite | apply Kept.setDie)
    | refine Kept.of_eq (by assumption) ?_ | split | dsimp only | exact Nat.zero_le _ | refine Kept.log_le ?_ (by assumption) _

theorem Kept.logSwitch (h : Kept z s) (d : Die) (b : Blk) (old : Nat) (new : Nat) (kind : Nat) (bankSw : Nat) : Kept z
    (State.logSwitch s d b old new kind bankSw) := by
  unfold State.logSwitch
  repeat' first
    | (with_reducible first | assumption | apply Kept.ite | apply Kept.log | apply Kept.set64)

theorem Kept.stopSc (h : Kept z s) (es : List LinkEnd) : Kept z (State.stopSc s es) := by
  unfold State.stopSc
  repeat' first
    | intro _
    | (with_reducible first | assumption | apply Kept.foldl | apply Kept.ite | apply Kept.setLink)

theorem Kept.noFit (h : Kept z s) (d : Die) (tray : Bool) : Kept z (State.noFit s d tray) := by
  unfold State.noFit
  repeat' first
    | intro _
    | (with_reducible first | assumption | apply Kept.ite | apply Kept.setDie | apply Kept.log | apply Kept.setF
                            | apply Kept.stopSc | apply Kept.trigger)
    | refine Kept.of_eq (by assumption) ?_ | split | dsimp only | exact Nat.zero_le _ | refine Kept.log_le ?_ (by assumption) _

theorem Kept.clearNoFit (h : Kept z s) (d : Die) : Kept z (State.clearNoFit s d) := by
  unfold State.clearNoFit
  repeat' first
    | intro _
    | (with_reducible first | assumption | apply Kept.ite | apply Kept.setF | apply Kept.setDie)
    | refine Kept.of_eq (by assumption) ?_ | split | dsimp only | exact Nat.zero_le _ | refine Kept.log_le ?_ (by assumption) _

theorem Kept.selectVariant (h : Kept z s) (d : Die) : Kept z (State.selectVariant s d) := by
  unfold State.selectVariant
  repeat' first
    | (with_reducible first | assumption | apply Kept.ite | apply Kept.noFit | apply Kept.noteSched
                            | apply Kept.setF | apply Kept.logSwitch)
    | refine Kept.of_eq (by assumption) ?_ | split

theorem Kept.joinLosses (h : Kept z s) (d : Die) : Kept z (State.joinLosses s d) := by
  unfold State.joinLosses
  repeat' first
    | intro _
    | (with_reducible first | assumption | apply Kept.foldl | apply Kept.ite | apply Kept.noteSched
                            | apply Kept.setLossSet | apply Kept.setDie)
    | refine Kept.of_eq (by assumption) ?_ | split | dsimp only | exact Nat.zero_le _ | refine Kept.log_le ?_ (by assumption) _

theorem execVariantSelect_kept (h : Kept z s) (d : Die) : KeptO z (execVariantSelect d s) := by
  unfold execVariantSelect
  repeat' first
    | (with_reducible first | assumption | apply KeptO.next | apply KeptO.ite | apply Kept.ite
                            | apply Kept.joinLosses | apply Kept.selectVariant)

theorem Kept.selectTrayVariant (h : Kept z s) (c : Crown) : Kept z (State.selectTrayVariant s c) := by
  unfold State.selectTrayVariant
  repeat' first
    | (with_reducible first | assumption | apply Kept.ite | apply Kept.noFit | apply Kept.noteSched
                            | apply Kept.setF | apply Kept.logSwitch)
    | refine Kept.of_eq (by assumption) ?_ | split | dsimp only

theorem Kept.setTrayLoss (h : Kept z s) (c : Crown) (v : Nat) : Kept z (State.setTrayLoss s c v) := by
  unfold State.setTrayLoss
  repeat' first
    | intro _
    | (with_reducible first | assumption | apply Kept.foldl | apply Kept.ite | apply Kept.setF)

theorem Kept.joinTrayLosses (h : Kept z s) (c : Crown) : Kept z (State.joinTrayLosses s c) := by
  unfold State.joinTrayLosses
  repeat' first
    | intro _
    | (with_reducible first | assumption | apply Kept.foldl | apply Kept.ite | apply Kept.noteSched
                            | apply Kept.setTrayLoss | apply Kept.setDie)
    | refine Kept.of_eq (by assumption) ?_ | split | dsimp only | exact Nat.zero_le _ | refine Kept.log_le ?_ (by assumption) _

theorem execTrayVariantSelect_kept (h : Kept z s) (c : Crown) : KeptO z (execTrayVariantSelect c s) := by
  unfold execTrayVariantSelect
  repeat' first
    | (with_reducible first | assumption | apply KeptO.next | apply KeptO.ite | apply Kept.ite
                            | apply Kept.joinTrayLosses | apply Kept.selectTrayVariant)

theorem execLossNotice_kept (h : Kept z s) (e : LinkEnd) (p : List Byte) : KeptO z (execLossNotice e p s) := by
  unfold execLossNotice
  repeat' first
    | (with_reducible first | assumption | apply KeptO.next | apply KeptO.ite | apply Kept.ite
                            | apply Kept.bumpF | apply Kept.addLoss | apply Kept.sendNotice)

theorem Kept.addTrayLoss (h : Kept z s) (d : Die) (pkg : Nat) (port : Nat) (decl : Nat) : Kept z (State.addTrayLoss s
    d pkg port decl) := by
  unfold State.addTrayLoss
  repeat' first
    | intro _
    | (with_reducible first | assumption | apply Kept.ite | apply Kept.setDie | apply Kept.setF)
    | refine Kept.of_eq (by assumption) ?_ | split | dsimp only | exact Nat.zero_le _ | refine Kept.log_le ?_ (by assumption) _

theorem execTrayLossNotice_kept (h : Kept z s) (e : LinkEnd) (p : List Byte) : KeptO z (execTrayLossNotice e p s) := by
  unfold execTrayLossNotice
  repeat' first
    | intro _
    | (with_reducible first | assumption | apply KeptO.next | apply KeptO.ite | apply Kept.ite
                            | apply Kept.bumpF | apply Kept.setDie | apply Kept.addTrayLoss
                            | apply Kept.sendNotice)
    | refine Kept.of_eq (by assumption) ?_ | split | dsimp only | exact Nat.zero_le _ | refine Kept.log_le ?_ (by assumption) _

theorem Kept.schedWrite (h : Kept z s) (d : Die) (tray : Bool) (w : Nat) : Kept z (State.schedWrite s d tray w) := by
  unfold State.schedWrite
  repeat' first
    | (with_reducible first | assumption | apply Kept.ite | apply Kept.setF | apply Kept.setTbl)

theorem Kept.schedRead (h : Kept z s) (d : Die) (tray : Bool) : Kept z (State.schedRead s d tray) := by
  unfold State.schedRead
  repeat' first
    | intro _
    | (with_reducible first | assumption | apply Kept.foldl | apply Kept.ite | apply Kept.setF)

theorem execGtrTableWrite_kept (h : Kept z s) (d : Die) (w : Word) : KeptO z (execGtrTableWrite d w s) := by
  unfold execGtrTableWrite
  repeat' first
    | (with_reducible first | assumption | apply KeptO.next | apply KeptO.ite | apply Kept.ite
                            | apply Kept.schedWrite)

theorem execGtrTableRead_kept (h : Kept z s) (p : Path) (d : Die) : KeptO z (execGtrTableRead p d s) := by
  unfold execGtrTableRead
  split
  · next e => exact .next ((h.deadRead _ _ _ e).putRd ..)
  · exact .next ((h.schedRead ..).putRd ..)

theorem execTryTableWrite_kept (h : Kept z s) (c : Crown) (w : Word) : KeptO z (execTryTableWrite c w s) := by
  unfold execTryTableWrite
  repeat' first
    | (with_reducible first | assumption | apply KeptO.next | apply KeptO.ite | apply Kept.ite
                            | apply Kept.schedWrite)

theorem execTryTableRead_kept (h : Kept z s) (p : Path) (c : Crown) : KeptO z (execTryTableRead p c s) := by
  unfold execTryTableRead
  split
  · next e => exact .next ((h.deadRead _ _ _ e).putRd ..)
  · exact .next ((h.schedRead ..).putRd ..)

theorem Kept.repairLane (h : Kept z s) (e : LinkEnd) (b : Nat) (lane : Nat) (eff : Nat) : Kept z (State.repairLane s e
    b lane eff) := by
  unfold State.repairLane
  repeat' first
    | (with_reducible first | assumption | apply Kept.ite | apply Kept.logLink | apply Kept.setBun
                            | apply Kept.sbSend | apply Kept.retireBundle | apply Kept.setRxMap)
    | refine Kept.of_eq (by assumption) ?_ | split

theorem Kept.failLane (h : Kept z s) (e : LinkEnd) (b : Nat) (c : Nat) : Kept z (State.failLane s e b c) := by
  unfold State.failLane
  repeat' first
    | intro _
    | (with_reducible first | assumption | apply Kept.foldl | apply Kept.ite | apply Kept.repairLane
                            | apply Kept.setRxMap | apply Kept.logLink | apply Kept.setBun)
    | refine Kept.of_eq (by assumption) ?_ | split

theorem Kept.countLane (h : Kept z s) (e : LinkEnd) (b : Nat) (c : Nat) (n : Nat) : Kept z (State.countLane s e b c n)
    := by
  unfold State.countLane
  repeat' first
    | (with_reducible first | assumption | apply Kept.ite | apply Kept.addWin | apply Kept.failLane)

theorem execLaneNoTransition_kept (h : Kept z s) (e : LinkEnd) (b : Fin 16) (lane : Fin 21) (ui : Nat) : KeptO z
    (execLaneNoTransition e b lane ui s) := by
  unfold execLaneNoTransition
  repeat' first
    | (with_reducible first | assumption | apply KeptO.next | apply KeptO.ite | apply Kept.ite
                            | apply Kept.failLane)

theorem execErrWindowRoll_kept (h : Kept z s) (e : LinkEnd) : KeptO z (execErrWindowRoll e s) := by
  unfold execErrWindowRoll
  repeat' first
    | intro _
    | (with_reducible first | assumption | apply Kept.foldl | apply KeptO.next | apply KeptO.ite
                            | apply Kept.ite | apply Kept.setF)

theorem execJewelStreamStart_kept (h : Kept z s) (e : LinkEnd) (b : Fin 16) : KeptO z (execJewelStreamStart e b s) := by
  unfold execJewelStreamStart
  repeat' first
    | (with_reducible first | assumption | apply KeptO.next | apply KeptO.ite | apply Kept.ite
                            | apply Kept.setBun)

theorem Kept.takeover (h : Kept z s) (e : LinkEnd) (b : Nat) (r : RxRepair) : Kept z (State.takeover s e b r) := by
  unfold State.takeover
  repeat' first
    | (with_reducible first | assumption | apply Kept.ite | apply Kept.setBun | apply Kept.setRxMap
                            | apply Kept.sbSend)

theorem execLaneRepairTakeover_kept (h : Kept z s) (e : LinkEnd) (b : Fin 16) : KeptO z (execLaneRepairTakeover e b s)
    := by
  unfold execLaneRepairTakeover
  repeat' first
    | intro _
    | (with_reducible first | assumption | apply Kept.foldl | apply KeptO.next | apply KeptO.ite
                            | apply Kept.ite | apply Kept.takeover)

theorem execLaneRepairTxCutover_kept (h : Kept z s) (e : LinkEnd) (b : Fin 16) : KeptO z (execLaneRepairTxCutover e b
    s) := by
  unfold execLaneRepairTxCutover
  repeat' first
    | intro _
    | (with_reducible first | assumption | apply Kept.foldl | apply KeptO.next | apply KeptO.ite
                            | apply Kept.ite | apply Kept.setTxMap | apply Kept.setBun)

theorem execJewelRecentre_kept (h : Kept z s) (e : LinkEnd) (b : Fin 16) (jewel : Fin 2) (delay : Fin 3) (thresh : Fin
    3) (bits : List Bool) : KeptO z (execJewelRecentre e b jewel delay thresh bits s) := by
  unfold execJewelRecentre
  repeat' first
    | (with_reducible first | assumption | apply KeptO.next | apply KeptO.ite | apply Kept.ite
                            | apply Kept.setTap | apply Kept.countLane)

theorem Kept.showCk (h : Kept z s) (e : LinkEnd) (bs : List Nat) (counts : List Nat) : Kept z (State.showCk s e bs
    counts) := by
  unfold State.showCk
  repeat' first
    | intro _
    | (with_reducible first | assumption | apply Kept.foldl | apply Kept.ite | apply Kept.setF)

theorem Kept.ckFailure (h : Kept z s) (e : LinkEnd) (b : Nat) : Kept z (State.ckFailure s e b) := by
  unfold State.ckFailure
  repeat' first
    | (with_reducible first | assumption | apply Kept.ite | apply Kept.setF | apply Kept.retireBundle)

theorem Kept.noteCk (h : Kept z s) (e : LinkEnd) (bs : List Nat) (counts : List Nat) : Kept z (State.noteCk s e bs
    counts) := by
  unfold State.noteCk
  repeat' first
    | intro _
    | (with_reducible first | assumption | apply Kept.foldl | apply Kept.ite | apply Kept.setBun)

theorem Kept.ckCalib (h : Kept z s) (e : LinkEnd) (bs : List Nat) (counts : List Nat) : Kept z (State.ckCalib s e bs
    counts) := by
  unfold State.ckCalib
  repeat' first
    | intro _
    | (with_reducible first | assumption | apply Kept.foldl | apply Kept.ite | apply Kept.linkReturn
                            | apply Kept.setLink | apply Kept.ckFailure | apply Kept.afterSearch)

theorem Kept.ckService (h : Kept z s) (e : LinkEnd) (bs : List Nat) (counts : List Nat) : Kept z (State.ckService s e
    bs counts) := by
  unfold State.ckService
  repeat' first
    | intro _
    | (with_reducible first | assumption | apply Kept.foldl | apply Kept.ite | apply Kept.linkReturn
                            | apply Kept.ckFailure | apply Kept.afterSearch)

theorem execCkCountCheck_kept (h : Kept z s) (e : LinkEnd) (counts : List Nat) : KeptO z (execCkCountCheck e counts s)
    := by
  unfold execCkCountCheck
  repeat' first
    | (with_reducible first | assumption | apply KeptO.next | apply KeptO.ite | apply Kept.ite
                            | apply Kept.showCk | apply Kept.noteCk | apply Kept.ckCalib | apply Kept.ckService)

theorem execBundleTxStop_kept (h : Kept z s) (e : LinkEnd) (b : Fin 16) : KeptO z (execBundleTxStop e b s) := by
  unfold execBundleTxStop
  repeat' first
    | (with_reducible first | assumption | apply KeptO.next | apply KeptO.ite | apply Kept.ite
                            | apply Kept.quiesce | apply Kept.markRetired)
    | refine Kept.of_eq (by assumption) ?_ | split

theorem Kept.iklMarker (h : Kept z s) (e : LinkEnd) (b : Nat) (seg : Nat) : Kept z (State.iklMarker s e b seg) := by
  unfold State.iklMarker
  repeat' first
    | (with_reducible first | assumption | apply Kept.ite | apply Kept.setBun | apply Kept.bumpF
                            | apply Kept.setLock | apply Kept.countLane | apply Kept.stopNext
                            | apply Kept.setLink | apply Kept.markerCheck)

theorem Kept.trayLock (h : Kept z s) (n : Fin 8) : Kept z (State.trayLock s n) := by
  unfold State.trayLock
  repeat' first
    | intro _
    | (with_reducible first | assumption | apply Kept.foldl | apply Kept.ite | apply Kept.linkReturn
                            | apply Kept.failLane)

theorem Kept.trayMarker (h : Kept z s) (n : Fin 8) (lane : Nat) (seg : Nat) : Kept z (State.trayMarker s n lane seg)
    := by
  unfold State.trayMarker
  repeat' first
    | (with_reducible first | assumption | apply Kept.ite | apply Kept.setBun | apply Kept.trayLock
                            | apply Kept.setLink | apply Kept.setRetired | apply Kept.toSt
                            | apply Kept.declareTrayLoss | apply Kept.markerCheck)

theorem execFrameMarker_kept (h : Kept z s) (e : LinkEnd) (unit : Fin 16) (seg : Nat) : KeptO z (execFrameMarker e
    unit seg s) := by
  unfold execFrameMarker
  repeat' first
    | (with_reducible first | assumption | apply KeptO.next | apply KeptO.ite | apply Kept.ite
                            | apply Kept.trayMarker | apply Kept.iklMarker)
    | refine Kept.of_eq (by assumption) ?_ | split

theorem execTrainingTimeout_kept (h : Kept z s) (e : LinkEnd) : KeptO z (execTrainingTimeout e s) := by
  unfold execTrainingTimeout
  repeat' first
    | (with_reducible first | assumption | apply KeptO.next | apply KeptO.ite | apply Kept.ite
                            | apply Kept.linkReturn)

theorem Kept.clearNaks (h : Kept z s) (e : LinkEnd) (g : Nat) : Kept z (State.clearNaks s e g) := by
  unfold State.clearNaks
  repeat' first
    | intro _
    | (with_reducible first | assumption | apply Kept.foldl | apply Kept.ite | apply Kept.setBun)

theorem Kept.sbLeft (h : Kept z s) (e : LinkEnd) (m : SbMsg) : Kept z (State.sbLeft s e m) := by
  unfold State.sbLeft
  repeat' first
    | intro _
    | (with_reducible first | assumption | apply Kept.foldl | apply Kept.ite | apply Kept.setBun
                            | apply Kept.setLink)
    | refine Kept.of_eq (by assumption) ?_ | split

theorem Kept.putStream (h : Kept z s) (e : LinkEnd) (frame : Nat) (pos : Nat) (field : Nat) : Kept z (State.putStream
    s e frame pos field) := by
  unfold State.putStream
  repeat' first
    | (with_reducible first | assumption | apply Kept.ite | apply Kept.setLink)

theorem Kept.sendBox (h : Kept z s) (e : LinkEnd) (k : Nat) (box : Nat) : Kept z (State.sendBox s e k box) := by
  unfold State.sendBox
  repeat' first
    | (with_reducible first | assumption | apply Kept.ite | apply Kept.setLink | apply Kept.putStream)

theorem Kept.sbSendSlot (h : Kept z s) (e : LinkEnd) (k : Nat) (i : Nat) (m : SbMsg) : Kept z (State.sbSendSlot s e k
    i m) := by
  unfold State.sbSendSlot
  repeat' first
    | (with_reducible first | assumption | apply Kept.ite | apply Kept.setLink | apply Kept.sbLeft
                            | apply Kept.sendBox)

theorem Kept.sendMarkers (h : Kept z s) (e : LinkEnd) : Kept z (State.sendMarkers s e) := by
  unfold State.sendMarkers
  repeat' first
    | (with_reducible first | assumption | apply Kept.ite | apply Kept.setLink)

theorem Kept.ptrDue (h : Kept z s) (e : LinkEnd) : Kept z (State.ptrDue s e) := by
  unfold State.ptrDue
  repeat' first
    | (with_reducible first | assumption | apply Kept.ite | apply Kept.setLink | apply Kept.sbSend)

theorem execSidebandSlotTransmit_kept (h : Kept z s) (e : LinkEnd) : KeptO z (execSidebandSlotTransmit e s) := by
  unfold execSidebandSlotTransmit
  repeat' first
    | (with_reducible first | assumption | apply KeptO.next | apply KeptO.ite | apply Kept.ite
                            | apply Kept.sendMarkers | apply Kept.sendBox | apply Kept.clearNaks
                            | apply Kept.ptrDue | apply Kept.sbSendSlot)
    | refine Kept.of_eq (by assumption) ?_ | split | dsimp only

theorem execSbMessageRepeat_kept (h : Kept z s) (e : LinkEnd) : KeptO z (execSbMessageRepeat e s) := by
  unfold execSbMessageRepeat
  repeat' first
    | intro _
    | (with_reducible first | assumption | apply Kept.foldl | apply KeptO.next | apply KeptO.ite
                            | apply Kept.ite | apply Kept.setLink | apply Kept.bumpLf)

theorem execSbAckTimeout_kept (h : Kept z s) (e : LinkEnd) : KeptO z (execSbAckTimeout e s) := by
  unfold execSbAckTimeout
  repeat' first
    | (with_reducible first | assumption | apply KeptO.next | apply KeptO.ite | apply Kept.ite
                            | apply Kept.linkReturn)

theorem Kept.ackEffect (h : Kept z s) (e : LinkEnd) (m : SbMsg) : Kept z (State.ackEffect s e m) := by
  unfold State.ackEffect
  repeat' first
    | (with_reducible first | assumption | apply Kept.ite | apply Kept.setBun | apply Kept.stopNext)
    | refine Kept.of_eq (by assumption) ?_ | split

theorem Kept.takeCw (h : Kept z s) (e : LinkEnd) (frame : Nat) (lanes : List Nat) (n j : Nat) :
    Kept z (s.takeCw e frame lanes n j).2 := by
  unfold State.takeCw
  dsimp only
  generalize rsTray.decode _ [] = r
  refine .ite_snd h ?_
  cases r with
  | none => exact (h.setLink ..).bumpF ..
  | some p =>
    exact .foldl _ (fun _ _ g => g.countLane ..) (.ite (h.setLink ..) ((h.setLink ..).bumpF ..))

theorem Kept.takeField (h : Kept z s) (e : LinkEnd) (frame pos len : Nat) (lanes : List Nat) :
    Kept z (s.takeField e frame pos len lanes).2 := by
  have g := h.takeCw e frame lanes 0 (trayCws pos len).1
  unfold State.takeField
  dsimp only
  refine .ite_snd g ?_
  have g2 := g.takeCw e frame lanes 1 (trayCws pos len).2
  split
  · exact g2
  · exact g2

theorem Kept.showLead (h : Kept z s) (e : LinkEnd) (b : Nat) : Kept z (State.showLead s e b) := by
  unfold State.showLead
  repeat' first
    | intro _
    | (with_reducible first | assumption | apply Kept.foldl | apply Kept.ite | apply Kept.setF)

theorem Kept.takeTaiMap (h : Kept z s) (d : Die) (box : Nat) : Kept z (State.takeTaiMap s d box) := by
  unfold State.takeTaiMap
  repeat' first
    | intro _
    | (with_reducible first | assumption | apply Kept.ite | apply Kept.setDie)
    | refine Kept.of_eq (by assumption) ?_ | split | dsimp only | exact Nat.zero_le _ | refine Kept.log_le ?_ (by assumption) _

theorem Kept.iklSlot (h : Kept z s) (e : LinkEnd) (r : SbSlot) : Kept z (State.iklSlot s e r).2 := by
  unfold State.iklSlot
  repeat' first
    | intro _
    | (with_reducible first | assumption | apply Kept.foldl | apply Kept.ite | apply Kept.ite_snd
                            | apply Kept.countLane | apply Kept.bumpF | apply Kept.showLead)
    | refine Kept.of_eq (by assumption) ?_ | split | dsimp only

theorem Kept.traySlot (h : Kept z s) (e : LinkEnd) (r : SbSlot) : Kept z (s.traySlot e r).2 := by
  unfold State.traySlot
  dsimp only
  exact h.takeField ..

theorem Kept.sbReceive (h : Kept z s) (e : LinkEnd) (r : SbSlot) : Kept z (State.sbReceive s e r).2 := by
  unfold State.sbReceive
  repeat' first
    | (with_reducible first | assumption | apply Kept.ite | apply Kept.ite_snd | apply Kept.traySlot
                            | apply Kept.iklSlot | apply Kept.setLink | apply Kept.bumpLf)
    | refine Kept.of_eq (by assumption) ?_ | split

theorem Kept.sbTakes (h : Kept z s) (e : LinkEnd) (r : SbSlot) (mtype : Nat) (anytime : Bool) : Kept z (State.sbTakes
    s e r mtype anytime).2 := by
  unfold State.sbTakes
  repeat' first
    | (with_reducible first | assumption | apply Kept.ite | apply Kept.ite_snd | apply Kept.sbReceive)
    | refine Kept.of_eq (by assumption) ?_ | split

theorem Kept.sbTakesFirst (h : Kept z s) (e : LinkEnd) (r : SbSlot) (mtype : Nat) (anytime : Bool) : Kept z
    (State.sbTakesFirst s e r mtype anytime).2 := by
  unfold State.sbTakesFirst
  repeat' first
    | (with_reducible first | assumption | apply Kept.ite | apply Kept.ite_snd | apply Kept.sbTakes
                            | apply Kept.sbTake)
    | refine Kept.of_eq (by assumption) ?_ | split

theorem Kept.takeLoad (h : Kept z s) (e : LinkEnd) (box : Nat) : Kept z (State.takeLoad s e box) := by
  unfold State.takeLoad
  repeat' first
    | (with_reducible first | assumption | apply Kept.ite | apply Kept.applyLoad | apply Kept.sbSend)
    | refine Kept.of_eq (by assumption) ?_ | split

theorem execBeatLoad_kept (h : Kept z s) (e : LinkEnd) (r : SbSlot) : KeptO z (execBeatLoad e r s) := by
  unfold execBeatLoad
  repeat' first
    | (with_reducible first | assumption | apply KeptO.next | apply KeptO.ite | apply Kept.ite
                            | apply Kept.sbTakesFirst | apply Kept.takeLoad)
    | refine Kept.of_eq (by assumption) ?_ | split

theorem execBeatSyncReq_kept (h : Kept z s) (n : Fin 8) (r : SbSlot) : KeptO z (execBeatSyncReq n r s) := by
  unfold execBeatSyncReq
  repeat' first
    | (with_reducible first | assumption | apply KeptO.next | apply KeptO.ite | apply Kept.ite
                            | apply Kept.sbTakes | apply Kept.sbSend)
    | refine Kept.of_eq (by assumption) ?_ | split

theorem Kept.syncDone (h : Kept z s) (n : Fin 8) (hold : Nat) (stamp : Nat) (err : Int) : Kept z (State.syncDone s n
    hold stamp err) := by
  unfold State.syncDone
  repeat' first
    | (with_reducible first | assumption | apply Kept.ite | apply Kept.setLink | apply Kept.phaseStep
                            | apply Kept.sbSend)

theorem execBeatSyncResp_kept (h : Kept z s) (n : Fin 8) (r : SbSlot) (stamp : Fin 32) (err : Int) : KeptO z
    (execBeatSyncResp n r stamp err s) := by
  unfold execBeatSyncResp
  repeat' first
    | (with_reducible first | assumption | apply KeptO.next | apply KeptO.ite | apply Kept.ite
                            | apply Kept.sbTakes | apply Kept.syncDone)
    | refine Kept.of_eq (by assumption) ?_ | split | dsimp only

theorem execPtrReq_kept (h : Kept z s) (e : LinkEnd) (r : SbSlot) : KeptO z (execPtrReq e r s) := by
  unfold execPtrReq
  repeat' first
    | (with_reducible first | assumption | apply KeptO.next | apply KeptO.ite | apply Kept.ite
                            | apply Kept.sbTakes | apply Kept.setLink)
    | refine Kept.of_eq (by assumption) ?_ | split

theorem execPtrResp_kept (h : Kept z s) (e : LinkEnd) (r : SbSlot) : KeptO z (execPtrResp e r s) := by
  unfold execPtrResp
  repeat' first
    | (with_reducible first | assumption | apply KeptO.next | apply KeptO.ite | apply Kept.ite
                            | apply Kept.sbTakes | apply Kept.setLink)
    | refine Kept.of_eq (by assumption) ?_ | split

theorem execPinProbe_kept (h : Kept z s) (e : LinkEnd) (r : SbSlot) : KeptO z (execPinProbe e r s) := by
  unfold execPinProbe
  repeat' first
    | (with_reducible first | assumption | apply KeptO.next | apply KeptO.ite | apply Kept.ite
                            | apply Kept.sbTakes | apply Kept.sbSend)
    | refine Kept.of_eq (by assumption) ?_ | split

theorem execPinEcho_kept (h : Kept z s) (e : LinkEnd) (r : SbSlot) (arrivals : List Nat) : KeptO z (execPinEcho e r
    arrivals s) := by
  unfold execPinEcho
  repeat' first
    | (with_reducible first | assumption | apply KeptO.next | apply KeptO.ite | apply Kept.ite
                            | apply Kept.sbTakes | apply Kept.setPins)
    | refine Kept.of_eq (by assumption) ?_ | split

theorem Kept.assertFp (h : Kept z s) (f : Fin 4) : Kept z (State.assertFp s f) := by
  unfold State.assertFp
  repeat' first
    | intro _
    | (with_reducible first | assumption | apply Kept.foldl | apply Kept.ite | apply Kept.setLink
                            | apply Kept.linkReturn)
    | refine Kept.of_eq (by assumption) ?_ | split | dsimp only | with_reducible apply Kept.mk_same

theorem execFpResetReq_kept (h : Kept z s) (e : LinkEnd) (r : SbSlot) : KeptO z (execFpResetReq e r s) := by
  unfold execFpResetReq
  repeat' first
    | (with_reducible first | assumption | apply KeptO.next | apply KeptO.ite | apply Kept.ite
                            | apply Kept.sbTakesFirst | apply Kept.assertFp | apply Kept.sbSend)
    | refine Kept.of_eq (by assumption) ?_ | split

theorem execLanemap_kept (h : Kept z s) (e : LinkEnd) (r : SbSlot) : KeptO z (execLanemap e r s) := by
  unfold execLanemap
  repeat' first
    | (with_reducible first | assumption | apply KeptO.next | apply KeptO.ite | apply Kept.ite
                            | apply Kept.sbTakesFirst | apply Kept.setBun)
    | refine Kept.of_eq (by assumption) ?_ | split

theorem execLaneRepair_kept (h : Kept z s) (e : LinkEnd) (r : SbSlot) : KeptO z (execLaneRepair e r s) := by
  unfold execLaneRepair
  repeat' first
    | (with_reducible first | assumption | apply KeptO.next | apply KeptO.ite | apply Kept.ite
                            | apply Kept.sbTakesFirst | apply Kept.setBun)
    | refine Kept.of_eq (by assumption) ?_ | split

theorem execBundleRetire_kept (h : Kept z s) (e : LinkEnd) (r : SbSlot) : KeptO z (execBundleRetire e r s) := by
  unfold execBundleRetire
  repeat' first
    | (with_reducible first | assumption | apply KeptO.next | apply KeptO.ite | apply Kept.ite
                            | apply Kept.sbTakesFirst | apply Kept.quiesce | apply Kept.stopNext)
    | refine Kept.of_eq (by assumption) ?_ | split

theorem execSbAck_kept (h : Kept z s) (e : LinkEnd) (r : SbSlot) : KeptO z (execSbAck e r s) := by
  unfold execSbAck
  repeat' first
    | (with_reducible first | assumption | apply KeptO.next | apply KeptO.ite | apply Kept.ite
                            | apply Kept.sbTakes | apply Kept.setLink | apply Kept.ackEffect)
    | refine Kept.of_eq (by assumption) ?_ | split | dsimp only

theorem Kept.queueMsg (h : Kept z s) (e : LinkEnd) (chan : Nat) (sel : Nat) (flits : List (List Byte)) : Kept z
    (State.queueMsg s e chan sel flits) := by
  unfold State.queueMsg
  repeat' first
    | (with_reducible first | assumption | apply Kept.ite | apply Kept.setLink)

theorem Kept.sendMsg (h : Kept z s) (d : Die) (pkg : Nat) (t : Die) (chan : Nat) (sel : Nat) (flits : List (List
    Byte)) : Kept z (State.sendMsg s d pkg t chan sel flits) := by
  unfold State.sendMsg
  repeat' first
    | (with_reducible first | assumption | apply Kept.ite | apply Kept.queueMsg)
    | refine Kept.of_eq (by assumption) ?_ | split

theorem Kept.sendFlit (h : Kept z s) (e : LinkEnd) (b : Nat) (slot : Nat) (header : Nat) (payload : List Byte) : Kept
    z (State.sendFlit s e b slot header payload) := by
  unfold State.sendFlit
  repeat' first
    | (with_reducible first | assumption | apply Kept.ite | apply Kept.putStream | apply Kept.setLink)

theorem Kept.sendNull (h : Kept z s) (e : LinkEnd) (b : Nat) (slot : Nat) : Kept z (State.sendNull s e b slot) := by
  unfold State.sendNull
  repeat' first
    | (with_reducible first | assumption | apply Kept.ite | apply Kept.sendFlit)

theorem Kept.sendUc (h : Kept z s) (e : LinkEnd) (b : Nat) (slot : Nat) (f : UcFlit) : Kept z (State.sendUc s e b slot
    f) := by
  unfold State.sendUc
  repeat' first
    | (with_reducible first | assumption | apply Kept.ite | apply Kept.setBun | apply Kept.sendFlit)

theorem Kept.creditChanged (h : Kept z s) (e : LinkEnd) : Kept z (State.creditChanged s e) := by
  unfold State.creditChanged
  repeat' first
    | (with_reducible first | assumption | apply Kept.ite | apply Kept.sbSend)

theorem Kept.returnCredit (h : Kept z s) (e : LinkEnd) (chan : Nat) : Kept z (State.returnCredit s e chan) := by
  unfold State.returnCredit
  repeat' first
    | (with_reducible first | assumption | apply Kept.ite | apply Kept.setLink | apply Kept.creditChanged)

theorem Kept.leaveTransit (h : Kept z s) (f : UcFlit) : Kept z (State.leaveTransit s f) := by
  unfold State.leaveTransit
  repeat' first
    | (with_reducible first | assumption | apply Kept.ite | apply Kept.returnCredit)

theorem Kept.sendNew (h : Kept z s) (e : LinkEnd) (b : Nat) (slot : Nat) : Kept z (State.sendNew s e b slot) := by
  unfold State.sendNew
  repeat' first
    | (with_reducible first | assumption | apply Kept.ite | apply Kept.setLink | apply Kept.sendUc
                            | apply Kept.sendNull | apply Kept.leaveTransit)
    | refine Kept.of_eq (by assumption) ?_ | split | dsimp only

theorem Kept.sendReplay (h : Kept z s) (e : LinkEnd) (b : Nat) (slot : Nat) (u : TxUc) : Kept z (State.sendReplay s e
    b slot u) := by
  unfold State.sendReplay
  repeat' first
    | (with_reducible first | assumption | apply Kept.ite | apply Kept.setBun | apply Kept.sendFlit
                            | apply Kept.bumpLf | apply Kept.retireBundle)

theorem Kept.sendUcSlot (h : Kept z s) (e : LinkEnd) (b : Nat) (slot : Nat) : Kept z (State.sendUcSlot s e b slot) := by
  unfold State.sendUcSlot
  repeat' first
    | (with_reducible first | assumption | apply Kept.ite | apply Kept.bumpF | apply Kept.setLink
                            | apply Kept.sendUc | apply Kept.sendReplay | apply Kept.sendNew
                            | apply Kept.sendNull)
    | refine Kept.of_eq (by assumption) ?_ | split | dsimp only

theorem Kept.sendSc (h : Kept z s) (e : LinkEnd) (b : Nat) (tag : Nat) (slot : Nat) (frame : Nat) : Kept z
    (State.sendSc s e b tag slot frame) := by
  unfold State.sendSc
  repeat' first
    | (with_reducible first | assumption | apply Kept.ite | apply Kept.sendNull | apply Kept.setLink
                            | apply Kept.sendFlit)
    | refine Kept.of_eq (by assumption) ?_ | split

theorem Kept.sendRepair (h : Kept z s) (e : LinkEnd) (b : Nat) (slot : Nat) : Kept z (State.sendRepair s e b slot) := by
  unfold State.sendRepair
  repeat' first
    | (with_reducible first | assumption | apply Kept.ite | apply Kept.setLink | apply Kept.sendFlit
                            | apply Kept.sendUcSlot)
    | refine Kept.of_eq (by assumption) ?_ | split

theorem execSlotTransmit_kept (h : Kept z s) (e : LinkEnd) (b : Fin 16) : KeptO z (execSlotTransmit e b s) := by
  unfold execSlotTransmit
  repeat' first
    | (with_reducible first | assumption | apply KeptO.next | apply KeptO.ite | apply Kept.ite
                            | apply Kept.setBun | apply Kept.sendSc | apply Kept.sendRepair
                            | apply Kept.sendUcSlot | apply Kept.sendNull)
    | refine Kept.of_eq (by assumption) ?_ | split | dsimp only

theorem Kept.countCorrected (h : Kept z s) (e : LinkEnd) (b : Nat) (bad : List Nat) : Kept z (State.countCorrected s e
    b bad) := by
  unfold State.countCorrected
  repeat' first
    | intro _
    | (with_reducible first | assumption | apply Kept.foldl | apply Kept.ite | apply Kept.countLane
                            | apply Kept.bumpF)

theorem Kept.goodFlit (h : Kept z s) (e : LinkEnd) (b : Nat) (bad : List Nat) : Kept z (State.goodFlit s e b bad) := by
  unfold State.goodFlit
  repeat' first
    | (with_reducible first | assumption | apply Kept.ite | apply Kept.setBun | apply Kept.failLane
                            | apply Kept.countCorrected)

theorem Kept.badFlit (h : Kept z s) (e : LinkEnd) (b : Nat) : Kept z (State.badFlit s e b) := by
  unfold State.badFlit
  repeat' first
    | (with_reducible first | assumption | apply Kept.ite | apply Kept.bumpF | apply Kept.setBun)

theorem Kept.decodeFlit (h : Kept z s) (e : LinkEnd) (b : Nat) (slot : Nat) (frame : Nat) (lanes : List Nat) : Kept z
    (State.decodeFlit s e b slot frame lanes).2 := by
  unfold State.decodeFlit
  repeat' first
    | (with_reducible first | assumption | apply Kept.ite | apply Kept.ite_snd | apply Kept.takeField
                            | apply Kept.corrected | apply Kept.bumpF | apply Kept.badFlit
                            | apply Kept.goodFlit)
    | refine Kept.of_eq (by assumption) ?_ | split

theorem Kept.landSc (h : Kept z s) (e : LinkEnd) (tag : Nat) (pa : Nat) (last : Bool) (p : List Byte) : Kept z
    (State.landSc s e tag pa last p) := by
  unfold State.landSc
  repeat' first
    | (with_reducible first | assumption | apply Kept.ite | apply Kept.wrGranule)
    | refine Kept.of_eq (by assumption) ?_ | split | dsimp only | with_reducible apply Kept.mk_same

theorem Kept.nakSc (h : Kept z s) (e : LinkEnd) (b : Nat) (slot : Nat) (frame : Nat) (tag : Nat) : Kept z (State.nakSc
    s e b slot frame tag) := by
  unfold State.nakSc
  repeat' first
    | (with_reducible first | assumption | apply Kept.ite | apply Kept.setLink | apply Kept.sbSend)
    | refine Kept.of_eq (by assumption) ?_ | split

theorem Kept.takeResend (h : Kept z s) (e : LinkEnd) (header : Nat) (p : List Byte) : Kept z (State.takeResend s e
    header p) := by
  unfold State.takeResend
  repeat' first
    | (with_reducible first | assumption | apply Kept.ite | apply Kept.bumpLf | apply Kept.setLink
                            | apply Kept.landSc)
    | refine Kept.of_eq (by assumption) ?_ | split | dsimp only

theorem Kept.nakUc (h : Kept z s) (e : LinkEnd) (b : Nat) : Kept z (State.nakUc s e b) := by
  unfold State.nakUc
  repeat' first
    | (with_reducible first | assumption | apply Kept.ite | apply Kept.setBun)

theorem Kept.passFlit (h : Kept z s) (e : LinkEnd) (b : Nat) (f : UcFlit) : Kept z (State.passFlit s e b f) := by
  unfold State.passFlit
  repeat' first
    | (with_reducible first | assumption | apply Kept.ite | apply Kept.setLink | apply Kept.returnCredit)

theorem Kept.takeUc (h : Kept z s) (e : LinkEnd) (b : Nat) (header : Nat) (p : List Byte) : Kept z (State.takeUc s e b
    header p) := by
  unfold State.takeUc
  repeat' first
    | (with_reducible first | assumption | apply Kept.ite | apply Kept.setBun | apply Kept.passFlit
                            | apply Kept.nakUc)

theorem Kept.takeScSlot (h : Kept z s) (e : LinkEnd) (b : Nat) (slot : Nat) (frame : Nat) (tag : Nat) (got : Option
    (Nat × List Byte)) : Kept z (State.takeScSlot s e b slot frame tag got) := by
  unfold State.takeScSlot
  repeat' first
    | (with_reducible first | assumption | apply Kept.ite | apply Kept.nakSc | apply Kept.landSc
                            | apply Kept.bumpLf)
    | refine Kept.of_eq (by assumption) ?_ | split

theorem Kept.takeUcSlot (h : Kept z s) (e : LinkEnd) (b : Nat) (repair : Bool) (got : Option (Nat × List Byte)) : Kept
    z (State.takeUcSlot s e b repair got) := by
  unfold State.takeUcSlot
  repeat' first
    | (with_reducible first | assumption | apply Kept.ite | apply Kept.nakUc | apply Kept.takeResend
                            | apply Kept.takeUc)
    | refine Kept.of_eq (by assumption) ?_ | split

theorem Kept.takeCal (h : Kept z s) (e : LinkEnd) (b : Nat) (slot : Nat) (frame : Nat) (lanes : List Nat) : Kept z
    (State.takeCal s e b slot frame lanes) := by
  unfold State.takeCal
  repeat' first
    | (with_reducible first | assumption | apply Kept.ite | apply Kept.bumpF)
    | refine Kept.of_eq (by assumption) ?_ | split

theorem Kept.takeSlotFlit (h : Kept z s) (e : LinkEnd) (b : Nat) (slot : Nat) (frame : Nat) (m : Mark) (got : Option
    (Nat × List Byte)) : Kept z (State.takeSlotFlit s e b slot frame m got) := by
  unfold State.takeSlotFlit
  repeat' first
    | (with_reducible first | assumption | apply Kept.ite | apply Kept.bumpLf | apply Kept.takeScSlot
                            | apply Kept.takeUcSlot)
    | refine Kept.of_eq (by assumption) ?_ | split

theorem execFlitReceive_kept (h : Kept z s) (e : LinkEnd) (b : Fin 16) (lanes : List Nat) :
    KeptO z (execFlitReceive e b lanes s) := by
  unfold execFlitReceive
  dsimp only
  split
  · exact .next h
  · next slot _ =>
    refine .ite (.next h) ?_
    split
    · exact .next h
    · exact .next (h.takeCal ..)
    · exact .next ((h.decodeFlit ..).takeSlotFlit ..)

theorem execScNak_kept (h : Kept z s) (e : LinkEnd) (r : SbSlot) : KeptO z (execScNak e r s) := by
  unfold execScNak
  repeat' first
    | (with_reducible first | assumption | apply KeptO.next | apply KeptO.ite | apply Kept.ite
                            | apply Kept.sbTakes | apply Kept.setLink)
    | refine Kept.of_eq (by assumption) ?_ | split | dsimp only

theorem execScHoldExpiry_kept (h : Kept z s) (e : LinkEnd) : KeptO z (execScHoldExpiry e s) := by
  unfold execScHoldExpiry
  repeat' first
    | (with_reducible first | assumption | apply KeptO.next | apply KeptO.ite | apply Kept.ite
                            | apply Kept.setLink)

theorem Kept.scFail (h : Kept z s) (e : LinkEnd) (pa : Nat) (ctx : Nat) : Kept z (State.scFail s e pa ctx) := by
  unfold State.scFail
  repeat' first
    | (with_reducible first | assumption | apply Kept.ite | apply Kept.setPoison | apply Kept.bumpLf
                            | apply Kept.logLink | apply Kept.bumpF | apply Kept.ctxFault)
    | refine Kept.of_eq (by assumption) ?_ | split

theorem execScResendDeadline_kept (h : Kept z s) (e : LinkEnd) : KeptO z (execScResendDeadline e s) := by
  unfold execScResendDeadline
  repeat' first
    | intro _
    | (with_reducible first | assumption | apply Kept.foldl | apply KeptO.next | apply KeptO.ite
                            | apply Kept.ite | apply Kept.setLink | apply Kept.scFail)

theorem execScLostBundleReport_kept (h : Kept z s) (e : LinkEnd) : KeptO z (execScLostBundleReport e s) := by
  unfold execScLostBundleReport
  repeat' first
    | intro _
    | (with_reducible first | assumption | apply Kept.foldl | apply KeptO.next | apply KeptO.ite
                            | apply Kept.ite | apply Kept.setLink | apply Kept.setPoison | apply Kept.scFail)

theorem Kept.startReplay (h : Kept z s) (e : LinkEnd) (b : Nat) (timeout : Bool) : Kept z (State.startReplay s e b
    timeout) := by
  unfold State.startReplay
  repeat' first
    | (with_reducible first | assumption | apply Kept.ite | apply Kept.setBun | apply Kept.bumpLf)

theorem Kept.takeAck (h : Kept z s) (e : LinkEnd) (b : Nat) (ack : Nat) (nak : Bool) : Kept z (State.takeAck s e b ack
    nak) := by
  unfold State.takeAck
  repeat' first
    | (with_reducible first | assumption | apply Kept.ite | apply Kept.setBun | apply Kept.startReplay)
    | refine Kept.of_eq (by assumption) ?_ | split

theorem Kept.takeAckOf (h : Kept z s) (e : LinkEnd) (b : Nat) (ack : Nat) (valid : Bool) (nak : Bool) : Kept z
    (State.takeAckOf s e b ack valid nak) := by
  unfold State.takeAckOf
  repeat' first
    | (with_reducible first | assumption | apply Kept.ite | apply Kept.takeAck | apply Kept.setBun)

theorem execUcAck_kept (h : Kept z s) (e : LinkEnd) (r : SbSlot) : KeptO z (execUcAck e r s) := by
  unfold execUcAck
  repeat' first
    | intro _
    | (with_reducible first | assumption | apply Kept.foldl | apply KeptO.next | apply KeptO.ite
                            | apply Kept.ite | apply Kept.sbTakes | apply Kept.takeAckOf)
    | refine Kept.of_eq (by assumption) ?_ | split

theorem execCredit_kept (h : Kept z s) (e : LinkEnd) (r : SbSlot) : KeptO z (execCredit e r s) := by
  unfold execCredit
  repeat' first
    | intro _
    | (with_reducible first | assumption | apply Kept.foldl | apply KeptO.next | apply KeptO.ite
                            | apply Kept.ite | apply Kept.sbTakes | apply Kept.setLink)
    | refine Kept.of_eq (by assumption) ?_ | split

theorem execUcReplayTimeout_kept (h : Kept z s) (e : LinkEnd) (b : Fin 16) : KeptO z (execUcReplayTimeout e b s) := by
  unfold execUcReplayTimeout
  repeat' first
    | (with_reducible first | assumption | apply KeptO.next | apply KeptO.ite | apply Kept.ite
                            | apply Kept.startReplay)

theorem execUcRequeue_kept (h : Kept z s) (e : LinkEnd) : KeptO z (execUcRequeue e s) := by
  unfold execUcRequeue
  repeat' first
    | intro _
    | (with_reducible first | assumption | apply Kept.foldl | apply KeptO.next | apply KeptO.ite
                            | apply Kept.ite | apply Kept.setLink | apply Kept.setLf)

end Sys2Proof.Machine
end

