-- ==== Sys2Proof/Laws/KeptDie.lean ====
section
/-! SUPPORT. `Kept` for the operations and commands of the tray, the domains, power, memory messages, engines and recovery:
each keeps the queue, the clock and the canonical form. -/

namespace Sys2Proof.Machine

variable {z s t : State}

theorem Kept.setPf (h : Kept z s) (n : Fin 8) (f : Fld) (v : Nat) : Kept z (State.setPf s n f v) := by
  unfold State.setPf
  repeat' first
    | (with_reducible first | assumption | apply Kept.ite | apply Kept.setF)

theorem execBeaconBurst_kept (h : Kept z s) (n : Fin 8) : KeptO z (execBeaconBurst n s) := by
  unfold execBeaconBurst
  repeat' first
    | (with_reducible first | assumption | apply KeptO.next | apply KeptO.ite | apply Kept.ite
                            | apply Kept.setLink)

theorem Kept.blockStep (h : Kept z s) (n : Fin 8) (ack : Bool) (locked : Bool) : Kept z (State.blockStep s n ack
    locked) := by
  unfold State.blockStep
  repeat' first
    | (with_reducible first | assumption | apply Kept.ite | apply Kept.setLink | apply Kept.bumpF
                            | apply Kept.toSt | apply Kept.enterCalib)

theorem execBeaconBlock_kept (h : Kept z s) (n : Fin 8) (block : BitVec 256) (locked : Bool) : KeptO z
    (execBeaconBlock n block locked s) := by
  unfold execBeaconBlock
  repeat' first
    | (with_reducible first | assumption | apply KeptO.next | apply KeptO.ite | apply Kept.ite
                            | apply Kept.setLink | apply Kept.setPf | apply Kept.blockStep | apply Kept.logLink)

theorem execNoPartnerSignal_kept (h : Kept z s) (n : Fin 8) : KeptO z (execNoPartnerSignal n s) := by
  unfold execNoPartnerSignal
  repeat' first
    | (with_reducible first | assumption | apply KeptO.next | apply KeptO.ite | apply Kept.ite
                            | apply Kept.logLink | apply Kept.setPf | apply Kept.setLink)

theorem execSeekTimeout_kept (h : Kept z s) (n : Fin 8) : KeptO z (execSeekTimeout n s) := by
  unfold execSeekTimeout
  repeat' first
    | (with_reducible first | assumption | apply KeptO.next | apply KeptO.ite | apply Kept.ite
                            | apply Kept.linkReturn)

theorem execPartnerSignalLost_kept (h : Kept z s) (n : Fin 8) : KeptO z (execPartnerSignalLost n s) := by
  unfold execPartnerSignalLost
  repeat' first
    | (with_reducible first | assumption | apply KeptO.next | apply KeptO.ite | apply Kept.ite
                            | apply Kept.setPf | apply Kept.linkReturn)

theorem Kept.dropRegs (h : Kept z s) (k : Domain) : Kept z (s.dropRegs k) :=
  { h with regs := fun hz => Tab.rising_filter _ (h.regs hz) }

theorem Kept.dropParts (h : Kept z s) (k : Domain) : Kept z (s.dropParts k) := by
  unfold State.dropParts
  dsimp only
  refine .ite (.mk_same h) (.ite (.mk_same h) (.ite ?_ (.ite ?_ (.mk_same h))))
  · exact h.parts rfl rfl (Nat.le_refl _) h.mem h.fram h.poison h.regs fun hz p hp =>
      h.logs hz p (List.mem_of_mem_filter hp)
  · exact h.parts rfl rfl (Nat.le_refl _) h.mem h.fram h.poison h.regs fun hz p hp =>
      (Tab.mem_set hp).elim (fun e => by rw [e]; exact (h.log_le hz (domDie k))) (h.logs hz p)

theorem Kept.domainOff (h : Kept z s) (k : Domain) : Kept z (s.domainOff k) := by
  unfold State.domainOff
  have g : Kept z ((domEnds k).foldl (fun t e => t.setLink e {}) ((s.dropRegs k).dropParts k)) :=
    .foldl _ (fun _ _ g => g.setLink ..) ((h.dropRegs k).dropParts k)
  refine .ite h (.setF ?_ ..)
  exact g.parts rfl rfl (Nat.le_refl _) (fun hz => Tab.wf_filter _ (g.mem hz)) g.fram
    (fun hz => Tab.wf_filter _ (g.poison hz)) g.regs g.logs

theorem Kept.showLedgerOnly (h : Kept z s)  : Kept z (State.showLedgerOnly s) := by
  unfold State.showLedgerOnly
  repeat' first
    | (with_reducible first | assumption | apply Kept.ite | apply Kept.setF)

theorem Kept.allOffBut (h : Kept z s) (keep : List Domain) : Kept z (State.allOffBut s keep) := by
  unfold State.allOffBut
  repeat' first
    | intro _
    | (with_reducible first | assumption | apply Kept.foldl | apply Kept.ite | apply Kept.domainOff
                            | apply Kept.showLedgerOnly | apply Kept.mk_same)

theorem Kept.showReserve (h : Kept z s)  : Kept z (State.showReserve s) := by
  unfold State.showReserve
  repeat' first
    | (with_reducible first | assumption | apply Kept.ite | apply Kept.setF)

theorem Kept.setPow (h : Kept z s) (d : Die) (p : PowerSt) : Kept z (State.setPow s d p) := by
  unfold State.setPow
  repeat' first
    | intro _
    | (with_reducible first | assumption | apply Kept.ite | apply Kept.setDie)
    | refine Kept.of_eq (by assumption) ?_ | split | dsimp only | exact Nat.zero_le _ | refine Kept.log_le ?_ (by assumption) _

theorem Kept.showHeld (h : Kept z s) (d : Die) : Kept z (State.showHeld s d) := by
  unfold State.showHeld
  repeat' first
    | (with_reducible first | assumption | apply Kept.ite | apply Kept.setF)

theorem Kept.refusePwr (h : Kept z s) (rc : Nat) : Kept z (State.refusePwr s rc) := by
  unfold State.refusePwr
  repeat' first
    | (with_reducible first | assumption | apply Kept.ite | apply Kept.refuse)

theorem Kept.budgetWrite (h : Kept z s) (w : Nat) : Kept z (State.budgetWrite s w) := by
  unfold State.budgetWrite
  repeat' first
    | (with_reducible first | assumption | apply Kept.ite | apply Kept.setF | apply Kept.refusePwr)

theorem execBudgetWrite_kept (h : Kept z s) (w : Word) : KeptO z (execBudgetWrite w s) := by
  unfold execBudgetWrite
  repeat' first
    | (with_reducible first | assumption | apply KeptO.next | apply KeptO.ite | apply Kept.ite
                            | apply Kept.budgetWrite)

theorem Kept.takeReport (h : Kept z s) (code : Nat) (r : Report) : Kept z (State.takeReport s code r) := by
  unfold State.takeReport
  repeat' first
    | (with_reducible first | assumption | apply Kept.ite | apply Kept.setF)
    | refine Kept.of_eq (by assumption) ?_ | split | dsimp only | with_reducible apply Kept.mk_same

theorem execBudgetReport_kept (h : Kept z s) (d : Die) (meas : Nat) : KeptO z (execBudgetReport d meas s) := by
  unfold execBudgetReport
  repeat' first
    | (with_reducible first | assumption | apply KeptO.next | apply KeptO.ite | apply Kept.ite
                            | apply Kept.takeReport | apply Kept.sbSend)
    | refine Kept.of_eq (by assumption) ?_ | split

theorem Kept.takeBudget (h : Kept z s) (e : LinkEnd) (box : Nat) : Kept z (State.takeBudget s e box) := by
  unfold State.takeBudget
  repeat' first
    | (with_reducible first | assumption | apply Kept.ite | apply Kept.sbSend | apply Kept.takeReport
                            | apply Kept.setPow)

theorem Kept.allocateNow (h : Kept z s) (n : Nat) : Kept z (State.allocateNow s n) := by
  unfold State.allocateNow
  repeat' first
    | (with_reducible first | assumption | apply Kept.ite | apply Kept.setF | apply Kept.setPow)
    | refine Kept.of_eq (by assumption) ?_ | split | dsimp only | with_reducible apply Kept.mk_same

theorem Kept.sendGrants (h : Kept z s) (n : Nat) : Kept z (State.sendGrants s n) := by
  unfold State.sendGrants
  repeat' first
    | intro _
    | (with_reducible first | assumption | apply Kept.foldl | apply Kept.ite | apply Kept.sbSend)
    | refine Kept.of_eq (by assumption) ?_ | split

theorem execGrantAllocation_kept (h : Kept z s)  : KeptO z (execGrantAllocation s) := by
  unfold execGrantAllocation
  repeat' first
    | (with_reducible first | assumption | apply KeptO.next | apply KeptO.ite | apply Kept.ite
                            | apply Kept.allocateNow | apply Kept.sendGrants)

theorem execBudgetGrant_kept (h : Kept z s) (e : LinkEnd) (r : SbSlot) : KeptO z (execBudgetGrant e r s) := by
  unfold execBudgetGrant
  repeat' first
    | (with_reducible first | assumption | apply KeptO.next | apply KeptO.ite | apply Kept.ite
                            | apply Kept.sbTakes | apply Kept.takeBudget)
    | refine Kept.of_eq (by assumption) ?_ | split

theorem execAllowanceTake_kept (h : Kept z s) (d : Die) : KeptO z (execAllowanceTake d s) := by
  unfold execAllowanceTake
  repeat' first
    | (with_reducible first | assumption | apply KeptO.next | apply KeptO.ite | apply Kept.ite | apply Kept.setF
                            | apply Kept.bumpF | apply Kept.log)
    | refine Kept.of_eq (by assumption) ?_ | split | dsimp only

theorem Kept.withdraw (h : Kept z s) (d : Die) (r : AdmReq) : Kept z (State.withdraw s d r) := by
  unfold State.withdraw
  repeat' first
    | (with_reducible first | assumption | apply Kept.ite | apply Kept.bumpF | apply Kept.log
                            | apply Kept.setCtxState | apply Kept.logLink | apply Kept.setF)
    | refine Kept.of_eq (by assumption) ?_ | split | dsimp only | with_reducible apply Kept.mk_same

theorem Kept.askToken (h : Kept z s) (d : Die) (r : AdmReq) : Kept z (State.askToken s d r) := by
  unfold State.askToken
  repeat' first
    | (with_reducible first | assumption | apply Kept.ite | apply Kept.withdraw | apply Kept.setPow)

theorem Kept.returnToken (h : Kept z s) (d : Die) (kind : Nat) (ctx : Nat) (who : Nat) : Kept z (State.returnToken s d
    kind ctx who) := by
  unfold State.returnToken
  repeat' first
    | (with_reducible first | assumption | apply Kept.ite | apply Kept.setPow | apply Kept.showHeld)

theorem execTokenGrant_kept (h : Kept z s) (d : Die) : KeptO z (execTokenGrant d s) := by
  unfold execTokenGrant
  repeat' first
    | (with_reducible first | assumption | apply KeptO.next | apply KeptO.ite | apply Kept.ite
                            | apply Kept.setPow | apply Kept.showHeld | apply Kept.bumpF)
    | refine Kept.of_eq (by assumption) ?_ | split | dsimp only

theorem execAdmissionWaitTimeout_kept (h : Kept z s) (d : Die) : KeptO z (execAdmissionWaitTimeout d s) := by
  unfold execAdmissionWaitTimeout
  repeat' first
    | intro _
    | (with_reducible first | assumption | apply Kept.foldl | apply KeptO.next | apply KeptO.ite
                            | apply Kept.ite | apply Kept.withdraw | apply Kept.setPow)

theorem Kept.showTemp (h : Kept z s) (d : Die) (tj : Int) (h0 : Int) (h1 : Int) : Kept z (State.showTemp s d tj h0 h1)
    := by
  unfold State.showTemp
  repeat' first
    | (with_reducible first | assumption | apply Kept.ite | apply Kept.setF)

theorem Kept.setThrot (h : Kept z s) (d : Die) (on : Bool) : Kept z (State.setThrot s d on) := by
  unfold State.setThrot
  repeat' first
    | (with_reducible first | assumption | apply Kept.ite | apply Kept.setF | apply Kept.log)

theorem Kept.trip (h : Kept z s) (d : Die) : Kept z (State.trip s d) := by
  unfold State.trip
  repeat' first
    | (with_reducible first | assumption | apply Kept.ite | apply Kept.setF | apply Kept.log
                            | apply Kept.domainOff)

theorem execThermalSample_kept (h : Kept z s) (d : Die) (tj0 : Int) (h00 : Int) (h10 : Int) : KeptO z
    (execThermalSample d tj0 h00 h10 s) := by
  unfold execThermalSample
  repeat' first
    | (with_reducible first | assumption | apply KeptO.next | apply KeptO.ite | apply Kept.ite
                            | apply Kept.showTemp | apply Kept.setPow | apply Kept.setThrot | apply Kept.trip)

theorem Kept.endStale (h : Kept z s) (d : Die) (kind : Nat) : Kept z (State.endStale s d kind) := by
  unfold State.endStale
  repeat' first
    | (with_reducible first | assumption | apply Kept.ite | apply Kept.setPow | apply Kept.setF)

theorem execCdcStaleTurnExpiry_kept (h : Kept z s) (d : Die) (accepted : List (Fin 5 × Nat × Nat)) : KeptO z
    (execCdcStaleTurnExpiry d accepted s) := by
  unfold execCdcStaleTurnExpiry
  repeat' first
    | intro _
    | (with_reducible first | assumption | apply Kept.foldl | apply KeptO.next | apply KeptO.ite
                            | apply Kept.ite | apply Kept.crossed | apply Kept.endStale | apply Kept.linkReturn
                            | apply Kept.setPow | apply Kept.setThrot | apply Kept.setF | apply Kept.log)
    | refine Kept.of_eq (by assumption) ?_ | split

theorem execPowerFail_kept (h : Kept z s) (cause : Fin 4) : KeptO z (execPowerFail cause s) := by
  unfold execPowerFail
  repeat' first
    | (with_reducible first | assumption | apply KeptO.next | apply KeptO.ite | apply Kept.ite | apply Kept.log
                            | apply Kept.setF | apply Kept.setPow)
    | refine Kept.of_eq (by assumption) ?_ | split | dsimp only | with_reducible apply Kept.mk_same

theorem execPowerFailDomainsOff_kept (h : Kept z s)  : KeptO z (execPowerFailDomainsOff s) := by
  unfold execPowerFailDomainsOff
  repeat' first
    | (with_reducible first | assumption | apply KeptO.next | apply KeptO.ite | apply Kept.ite
                            | apply Kept.allOffBut)

theorem execPowerReturn_kept (h : Kept z s)  : KeptO z (execPowerReturn s) := by
  unfold execPowerReturn
  repeat' first
    | (with_reducible first | assumption | apply KeptO.next | apply KeptO.ite | apply Kept.ite
                            | apply Kept.powerCycle)

theorem execRailSample_kept (h : Kept z s) (mv : List Nat) : KeptO z (execRailSample mv s) := by
  unfold execRailSample
  repeat' first
    | intro _
    | (with_reducible first | assumption | apply Kept.foldl | apply KeptO.next | apply KeptO.ite
                            | apply Kept.ite | apply Kept.setF)

theorem Kept.countAccepted (h : Kept z s) (d : Die) (o : Nat) : Kept z (State.countAccepted s d o) := by
  unfold State.countAccepted
  repeat' first
    | (with_reducible first | assumption | apply Kept.ite)
    | refine Kept.of_eq (by assumption) ?_ | split | dsimp only | with_reducible apply Kept.mk_same

theorem Kept.countFailed (h : Kept z s) (d : Die) (o : Nat) : Kept z (State.countFailed s d o) := by
  unfold State.countFailed
  repeat' first
    | (with_reducible first | assumption | apply Kept.ite)
    | refine Kept.of_eq (by assumption) ?_ | split | dsimp only | with_reducible apply Kept.mk_same

theorem Kept.makePoison (h : Kept z s) (d : Die) (pa : Nat) : Kept z (State.makePoison s d pa) := by
  unfold State.makePoison
  repeat' first
    | (with_reducible first | assumption | apply Kept.ite | apply Kept.setPoison | apply Kept.bumpF)
    | refine Kept.of_eq (by assumption) ?_ | split

theorem Kept.uncorrectable (h : Kept z s) (d : Die) (pa : Nat) : Kept z (State.uncorrectable s d pa) := by
  unfold State.uncorrectable
  repeat' first
    | (with_reducible first | assumption | apply Kept.ite | apply Kept.makePoison | apply Kept.log
                            | apply Kept.set64)
    | refine Kept.of_eq (by assumption) ?_ | split

theorem Kept.corrected (h : Kept z s) (d : Die) (hbm : Bool) (n : Nat) : Kept z (State.corrected s d hbm n) := by
  unfold State.corrected
  repeat' first
    | (with_reducible first | assumption | apply Kept.ite | apply Kept.addF)
    | refine Kept.of_eq (by assumption) ?_ | split

theorem Kept.servedPoison (h : Kept z s) (d : Die) (ctx : Nat) (n : Nat) : Kept z (State.servedPoison s d ctx n) := by
  unfold State.servedPoison
  repeat' first
    | (with_reducible first | assumption | apply Kept.ite | apply Kept.log | apply Kept.bumpF)
    | refine Kept.of_eq (by assumption) ?_ | split

theorem Kept.mergeGranule (h : Kept z s) (pa : Nat) (l : List Byte) : Kept z (State.mergeGranule s pa l).2 := by
  unfold State.mergeGranule
  repeat' first
    | (with_reducible first | assumption | apply Kept.ite | apply Kept.ite_snd | apply Kept.wrGranule
                            | apply Kept.wrBytes)

theorem Kept.localWrite (h : Kept z s) (d : Die) (pa : Nat) (l : List Byte) (poison : Bool) : Kept z (State.localWrite
    s d pa l poison) := by
  unfold State.localWrite
  repeat' first
    | intro _
    | (with_reducible first | assumption | apply Kept.foldl | apply Kept.ite | apply Kept.mergeGranule
                            | apply Kept.makePoison)

theorem Kept.signal (h : Kept z s) (d : Die) (n : Nat) (v : Nat) : Kept z (State.signal s d n v) := by
  unfold State.signal
  repeat' first
    | (with_reducible first | assumption | apply Kept.ite | apply Kept.setF)

theorem Kept.flipEpoch (h : Kept z s) (d : Die) (ctx : Nat) (host : Bool) : Kept z (State.flipEpoch s d ctx host) := by
  unfold State.flipEpoch
  repeat' first
    | (with_reducible first | assumption | apply Kept.ite | apply Kept.setF)
    | refine Kept.of_eq (by assumption) ?_ | split | dsimp only | with_reducible apply Kept.mk_same

theorem Kept.takeTag (h : Kept z s) (o : Nat) : Kept z (State.takeTag s o).2 := by
  unfold State.takeTag
  repeat' first
    | (with_reducible first | assumption | apply Kept.ite | apply Kept.ite_snd)
    | refine Kept.of_eq (by assumption) ?_ | split | dsimp only | with_reducible apply Kept.mk_same

theorem Kept.takePwFail (h : Kept z s) (d : Die) (p : List Byte) (full : Bool) : Kept z (State.takePwFail s d p full)
    := by
  unfold State.takePwFail
  repeat' first
    | (with_reducible first | assumption | apply Kept.ite | apply Kept.setF)
    | refine Kept.of_eq (by assumption) ?_ | split

theorem Kept.pwFailed (h : Kept z s) (d : Die) (p : List Byte) (cause : Nat) (n : Nat) (pa : Nat) : Kept z
    (State.pwFailed s d p cause n pa) := by
  unfold State.pwFailed
  repeat' first
    | (with_reducible first | assumption | apply Kept.ite | apply Kept.log | apply Kept.countFailed
                            | apply Kept.takePwFail | apply Kept.sendMsg)
    | refine Kept.of_eq (by assumption) ?_ | split

theorem Kept.writeOne (h : Kept z s) (d : Die) (pa : Nat) (l : List Byte) (bad : Bool) (dead : Bool) : Kept z
    (State.writeOne s d pa l bad dead).2 := by
  unfold State.writeOne
  repeat' first
    | (with_reducible first | assumption | apply Kept.ite | apply Kept.ite_snd | apply Kept.makePoison
                            | apply Kept.uncorrectable | apply Kept.mergeGranule)

theorem Kept.takeSignal (h : Kept z s) (d : Die) (p : List Byte) (n : Nat) (v : Nat) : Kept z (State.takeSignal s d p
    n v) := by
  unfold State.takeSignal
  repeat' first
    | (with_reducible first | assumption | apply Kept.ite | apply Kept.pwFailed | apply Kept.signal)

theorem Kept.takeWrite (h : Kept z s) (d : Die) (p : List Byte) (data : List (List Byte)) (bad dead : List Nat) :
    Kept z (s.takeWrite d p data bad dead) := by
  unfold State.takeWrite
  refine .ite ((h.countAccepted ..).pwFailed ..) ?_
  split
  · exact (h.countAccepted ..).takeSignal ..
  · refine (fun g => ?_) (Kept.foldl_snd (pieces 64 (cmdTarget p % 2 ^ 48) (writeData (cmdTarget p % 2 ^ 48) (cmdLen p) data))
      (f := fun (acc : List (Nat × Nat) × State) (q : Nat × List Byte) =>
        match acc.2.writeOne d q.1 q.2 (decide (q.1 / 64 - cmdTarget p % 2 ^ 48 / 64 ∈ bad))
          (decide (q.1 / 64 - cmdTarget p % 2 ^ 48 / 64 ∈ dead)) with
        | (c, t) => match c with
          | some k => (acc.1 ++ [(q.1 / 64 * 64, k)], t)
          | none => (acc.1, if bit (cmdA p) (q.1 / 64 - cmdTarget p % 2 ^ 48 / 64) then t.makePoison d q.1 else t))
      (fun ha q hh => ?_) ([], s.countAccepted d (originKey p)) (h.countAccepted ..))
    · dsimp only at g ⊢
      split
      · exact g
      · exact g.pwFailed ..
    · have w := hh.writeOne d q.1 q.2 (decide (q.1 / 64 - cmdTarget p % 2 ^ 48 / 64 ∈ bad))
        (decide (q.1 / 64 - cmdTarget p % 2 ^ 48 / 64 ∈ dead))
      dsimp only
      split
      · exact w
      · exact .ite (w.makePoison ..) w

theorem execWrite_kept (h : Kept z s) (d : Die) (cmd : List Byte) (data : List (List Byte)) (bad : List Nat) (dead :
    List Nat) : KeptO z (execWrite d cmd data bad dead s) := by
  unfold execWrite
  repeat' first
    | (with_reducible first | assumption | apply KeptO.next | apply KeptO.ite | apply Kept.ite
                            | apply Kept.takeWrite)

theorem Kept.takeSignalMsg (h : Kept z s) (d : Die) (p : List Byte) : Kept z (State.takeSignalMsg s d p) := by
  unfold State.takeSignalMsg
  repeat' first
    | (with_reducible first | assumption | apply Kept.ite | apply Kept.countAccepted | apply Kept.pwFailed
                            | apply Kept.takeSignal)
    | refine Kept.of_eq (by assumption) ?_ | split

theorem execSignal_kept (h : Kept z s) (m : Mv) (cmd : List Byte) : KeptO z (execSignal m cmd s) := by
  unfold execSignal
  repeat' first
    | (with_reducible first | assumption | apply KeptO.next | apply KeptO.ite | apply Kept.ite
                            | apply Kept.takeSignalMsg)

theorem Kept.sendReadData (h : Kept z s) (d : Die) (p : List Byte) (mask : Nat) (flits : List (List Byte)) : Kept z
    (State.sendReadData s d p mask flits) := by
  unfold State.sendReadData
  repeat' first
    | (with_reducible first | assumption | apply Kept.ite | apply Kept.sendMsg)
    | refine Kept.of_eq (by assumption) ?_ | split

theorem Kept.serveRead (h : Kept z s) (d : Die) (pa : Nat) (len : Nat) (ctx : Nat) (bad : List Nat) : Kept z
    (State.serveRead s d pa len ctx bad).2.2 := by
  unfold State.serveRead
  repeat' first
    | intro _
    | (with_reducible first | assumption | apply Kept.foldl | apply Kept.ite | apply Kept.ite_snd
                            | apply Kept.uncorrectable | apply Kept.servedPoison)

theorem execRead_kept (h : Kept z s) (d : Die) (cmd : List Byte) (bad : List Nat) (corr : Nat) : KeptO z (execRead d
    cmd bad corr s) := by
  unfold execRead
  repeat' first
    | (with_reducible first | assumption | apply KeptO.next | apply KeptO.ite | apply Kept.ite | apply Kept.log
                            | apply Kept.sendReadData | apply Kept.corrected | apply Kept.serveRead)

theorem execFenceProbe_kept (h : Kept z s) (d : Die) (cmd : List Byte) : KeptO z (execFenceProbe d cmd s) := by
  unfold execFenceProbe
  repeat' first
    | (with_reducible first | assumption | apply KeptO.next | apply KeptO.ite | apply Kept.ite
                            | apply Kept.sendMsg)
    | refine Kept.of_eq (by assumption) ?_ | split

theorem execPwFail_kept (h : Kept z s) (d : Die) (cmd : List Byte) (full : Bool) : KeptO z (execPwFail d cmd full s)
    := by
  unfold execPwFail
  repeat' first
    | (with_reducible first | assumption | apply KeptO.next | apply KeptO.ite | apply Kept.ite
                            | apply Kept.takePwFail)

theorem Kept.countIssued (h : Kept z s) (o : Nat) (epoch : Nat) (dest : Nat) : Kept z (State.countIssued s o epoch
    dest) := by
  unfold State.countIssued
  repeat' first
    | (with_reducible first | assumption | apply Kept.ite)
    | refine Kept.of_eq (by assumption) ?_ | split | dsimp only | with_reducible apply Kept.mk_same

theorem Kept.postOne (h : Kept z s) (d : Die) (ctx : Nat) (host : Bool) (target : Nat) (l : List Byte) (bad : List
    Nat) : Kept z (State.postOne s d ctx host target l bad) := by
  unfold State.postOne
  repeat' first
    | intro _
    | (with_reducible first | assumption | apply Kept.foldl | apply Kept.ite | apply Kept.takeTag
                            | apply Kept.countIssued | apply Kept.takeWrite | apply Kept.sendMsg)
    | refine Kept.of_eq (by assumption) ?_ | split

theorem Kept.post (h : Kept z s) (d : Die) (ctx : Nat) (host : Bool) (target : Nat) (l : List Byte) (bad : List Nat) :
    Kept z (State.post s d ctx host target l bad) := by
  unfold State.post
  repeat' first
    | intro _
    | (with_reducible first | assumption | apply Kept.foldl | apply Kept.ite | apply Kept.postOne)

theorem Kept.postSignal (h : Kept z s) (d : Die) (ctx : Nat) (m : Mv) (n : Nat) (v : Nat) : Kept z (State.postSignal s
    d ctx m n v) := by
  unfold State.postSignal
  repeat' first
    | (with_reducible first | assumption | apply Kept.ite | apply Kept.takeTag | apply Kept.countIssued
                            | apply Kept.sendMsg)

theorem Kept.sendReads (h : Kept z s) (d : Die) (ctx : Nat) (host : Bool) (eng : Nat) (target : Nat) (len : Nat) (dst
    : Option MoveEnd) (id : Nat) : Kept z (State.sendReads s d ctx host eng target len dst id) := by
  unfold State.sendReads
  repeat' first
    | intro _
    | (with_reducible first | assumption | apply Kept.foldl | apply Kept.ite | apply Kept.takeTag
                            | apply Kept.sendMsg)
    | refine Kept.of_eq (by assumption) ?_ | split | dsimp only | with_reducible apply Kept.mk_same

theorem execScrubPass_kept (h : Kept z s) (m : Mv) (hbm : Bool) (bad : List Nat) (corr : Nat) : KeptO z (execScrubPass
    m hbm bad corr s) := by
  unfold execScrubPass
  repeat' first
    | intro _
    | (with_reducible first | assumption | apply Kept.foldl | apply KeptO.next | apply KeptO.ite
                            | apply Kept.ite | apply Kept.setDie | apply Kept.uncorrectable
                            | apply Kept.corrected | apply Kept.bumpF)
    | refine Kept.of_eq (by assumption) ?_ | split | dsimp only | exact Nat.zero_le _ | refine Kept.log_le ?_ (by assumption) _

theorem Kept.setEng (h : Kept z s) (d : Die) (u : Nat) (x : EngSt) : Kept z (State.setEng s d u x) := by
  unfold State.setEng
  repeat' first
    | (with_reducible first | assumption | apply Kept.ite)
    | refine Kept.of_eq (by assumption) ?_ | split | dsimp only | with_reducible apply Kept.mk_same

theorem Kept.setQueue (h : Kept z s) (d : Die) (u : Nat) (q : List Desc) : Kept z (State.setQueue s d u q) := by
  unfold State.setQueue
  repeat' first
    | (with_reducible first | assumption | apply Kept.ite | apply Kept.setF)
    | refine Kept.of_eq (by assumption) ?_ | split | dsimp only | with_reducible apply Kept.mk_same

theorem Kept.setStream (h : Kept z s) (d : Die) (e : Nat) (n : Nat) (x : StreamSt) : Kept z (State.setStream s d e n
    x) := by
  unfold State.setStream
  repeat' first
    | (with_reducible first | assumption | apply Kept.ite)
    | refine Kept.of_eq (by assumption) ?_ | split | dsimp only | with_reducible apply Kept.mk_same

theorem Kept.mapStreams (h : Kept z s) (d : Die) (n : Nat) (f : StreamSt → StreamSt) : Kept z (State.mapStreams s d n
    f) := by
  unfold State.mapStreams
  repeat' first
    | intro _
    | (with_reducible first | assumption | apply Kept.foldl | apply Kept.ite | apply Kept.setStream)

theorem Kept.noteSuspect (h : Kept z s) (d : Die) (u : Nat) (n : Nat) : Kept z (State.noteSuspect s d u n) := by
  unfold State.noteSuspect
  repeat' first
    | (with_reducible first | assumption | apply Kept.ite | apply Kept.setEng)

theorem Kept.resume (h : Kept z s) (d : Die) (n : Nat) : Kept z (State.resume s d n) := by
  unfold State.resume
  repeat' first
    | intro _
    | (with_reducible first | assumption | apply Kept.ite | apply Kept.mapStreams | apply Kept.setCtx
                            | apply Kept.setCtxState | apply Kept.setDie)
    | refine Kept.of_eq (by assumption) ?_ | split | dsimp only | exact Nat.zero_le _ | refine Kept.log_le ?_ (by assumption) _

theorem Kept.leaveRun (h : Kept z s) (d : Die) (e : Nat) : Kept z (State.leaveRun s d e) := by
  unfold State.leaveRun
  repeat' first
    | (with_reducible first | assumption | apply Kept.ite | apply Kept.setStream)
    | refine Kept.of_eq (by assumption) ?_ | split

theorem Kept.beginRun (h : Kept z s) (d : Die) (e : Nat) (n : Nat) (entry : Option Nat) : Kept z (State.beginRun s d e
    n entry) := by
  unfold State.beginRun
  repeat' first
    | (with_reducible first | assumption | apply Kept.ite | apply Kept.leaveRun | apply Kept.resume
                            | apply Kept.setEng | apply Kept.setStream | apply Kept.noteSuspect
                            | apply Kept.setF)

theorem Kept.endRun (h : Kept z s) (d : Die) (e : Nat) (entry : Option Nat) (none_ : Bool) : Kept z (State.endRun s d
    e entry none_) := by
  unfold State.endRun
  repeat' first
    | (with_reducible first | assumption | apply Kept.ite | apply Kept.leaveRun | apply Kept.setEng
                            | apply Kept.setF)

theorem execRunSelect_kept (h : Kept z s) (m : Mv) (e : Fin 16) : KeptO z (execRunSelect m e s) := by
  unfold execRunSelect
  repeat' first
    | (with_reducible first | assumption | apply KeptO.next | apply KeptO.ite | apply Kept.ite
                            | apply Kept.endRun | apply Kept.beginRun)
    | refine Kept.of_eq (by assumption) ?_ | split

theorem Kept.faultAll (h : Kept z s) (d : Die) (n : Nat) (cause : Nat) (eng : Nat) (rc : Nat) : Kept z (State.faultAll
    s d n cause eng rc) := by
  unfold State.faultAll
  repeat' first
    | intro _
    | (with_reducible first | assumption | apply Kept.foldl | apply Kept.ite | apply Kept.ctxFaultOn)

theorem Kept.descFault (h : Kept z s) (d : Die) (n : Nat) (eng : Nat) (cause : Nat) : Kept z (State.descFault s d n
    eng cause) := by
  unfold State.descFault
  repeat' first
    | (with_reducible first | assumption | apply Kept.ite | apply Kept.returnToken | apply Kept.log
                            | apply Kept.faultAll)

theorem Kept.setHost (h : Kept z s) (c : Crown) (h : HostSt) : Kept z (State.setHost s c h) := by
  unfold State.setHost
  repeat' first
    | (with_reducible first | assumption | apply Kept.ite)
    | refine Kept.of_eq (by assumption) ?_ | split | dsimp only | with_reducible apply Kept.mk_same

theorem Kept.dropReads (h : Kept z s) (d : Die) (u : Nat) (num : Nat) : Kept z (State.dropReads s d u num) := by
  unfold State.dropReads
  repeat' first
    | intro _
    | (with_reducible first | assumption | apply Kept.foldl | apply Kept.ite | apply Kept.setHost)
    | refine Kept.of_eq (by assumption) ?_ | split | dsimp only | with_reducible apply Kept.mk_same

theorem Kept.dropQueued (h : Kept z s) (d : Die) (u : Nat) (stay : Desc → Bool) : Kept z (State.dropQueued s d u stay)
    := by
  unfold State.dropQueued
  repeat' first
    | intro _
    | (with_reducible first | assumption | apply Kept.foldl | apply Kept.ite | apply Kept.dropReads
                            | apply Kept.setStream | apply Kept.setQueue)

theorem Kept.abortUnit (h : Kept z s) (d : Die) (u : Nat) (cause : Nat) : Kept z (State.abortUnit s d u cause) := by
  unfold State.abortUnit
  repeat' first
    | (with_reducible first | assumption | apply Kept.ite | apply Kept.dropReads | apply Kept.dropQueued
                            | apply Kept.setEng)
    | refine Kept.of_eq (by assumption) ?_ | split

theorem Kept.endNum (h : Kept z s) (d : Die) (u : Nat) (num : Nat) (cause : Nat) : Kept z (State.endNum s d u num
    cause) := by
  unfold State.endNum
  repeat' first
    | (with_reducible first | assumption | apply Kept.ite | apply Kept.abortUnit | apply Kept.dropQueued)

theorem Kept.setReplay (h : Kept z s) (d : Die) (r : Option Replay) : Kept z (State.setReplay s d r) := by
  unfold State.setReplay
  repeat' first
    | (with_reducible first | assumption | apply Kept.ite | apply Kept.setF)
    | refine Kept.of_eq (by assumption) ?_ | split | dsimp only | with_reducible apply Kept.mk_same

theorem Kept.replayHit (h : Kept z s) (d : Die) (cause : Nat) : Kept z (State.replayHit s d cause) := by
  unfold State.replayHit
  repeat' first
    | (with_reducible first | assumption | apply Kept.ite | apply Kept.setReplay)
    | refine Kept.of_eq (by assumption) ?_ | split

theorem Kept.idleCtx (h : Kept z s) (d : Die) (n : Nat) : Kept z (State.idleCtx s d n) := by
  unfold State.idleCtx
  repeat' first
    | (with_reducible first | assumption | apply Kept.ite | apply Kept.setCtxState | apply Kept.raise)

theorem Kept.finishDesc (h : Kept z s) (d : Die) (x : Desc) : Kept z (State.finishDesc s d x) := by
  unfold State.finishDesc
  repeat' first
    | (with_reducible first | assumption | apply Kept.ite | apply Kept.signal | apply Kept.postSignal
                            | apply Kept.setStream | apply Kept.setCtx | apply Kept.setF
                            | apply Kept.returnToken | apply Kept.idleCtx)

theorem Kept.freeEngine (h : Kept z s) (d : Die) (e : Nat) (n : Nat) : Kept z (State.freeEngine s d e n) := by
  unfold State.freeEngine
  repeat' first
    | (with_reducible first | assumption | apply Kept.ite | apply Kept.setEng | apply Kept.setStream
                            | apply Kept.setF)

theorem Kept.arrive (h : Kept z s) (d : Die) (bar : Nat) : Kept z (State.arrive s d bar) := by
  unfold State.arrive
  repeat' first
    | (with_reducible first | assumption | apply Kept.ite | apply Kept.setF | apply Kept.signal)
    | refine Kept.of_eq (by assumption) ?_ | split | dsimp only

theorem Kept.abortRead (h : Kept z s) (c : Crown) (id : Nat) : Kept z (State.abortRead s c id) := by
  unfold State.abortRead
  repeat' first
    | (with_reducible first | assumption | apply Kept.ite | apply Kept.setHost | apply Kept.bumpF)
    | refine Kept.of_eq (by assumption) ?_ | split | dsimp only | with_reducible apply Kept.mk_same

theorem Kept.completeRead (h : Kept z s) (c : Crown) (id : Nat) (ep : Bool) (l : List Byte) : Kept z
    (State.completeRead s c id ep l) := by
  unfold State.completeRead
  repeat' first
    | (with_reducible first | assumption | apply Kept.ite | apply Kept.abortRead | apply Kept.setHost)

theorem Kept.hostReadGo (h : Kept z s) (c : Crown) (id : Nat) : Kept z (State.hostReadGo s c id) := by
  unfold State.hostReadGo
  repeat' first
    | (with_reducible first | assumption | apply Kept.ite | apply Kept.setHost | apply Kept.serveRead
                            | apply Kept.completeRead | apply Kept.sendReads)
    | refine Kept.of_eq (by assumption) ?_ | split | dsimp only

theorem Kept.setFence (h : Kept z s) (o : Nat) (f : Option FenceSt) : Kept z (State.setFence s o f) := by
  unfold State.setFence
  repeat' first
    | (with_reducible first | assumption | apply Kept.ite)
    | refine Kept.of_eq (by assumption) ?_ | split | dsimp only | with_reducible apply Kept.mk_same

theorem Kept.sendProbes (h : Kept z s) (d : Die) (ctx : Nat) (host : Bool) (f : FenceSt) : Kept z (State.sendProbes s
    d ctx host f) := by
  unfold State.sendProbes
  repeat' first
    | intro _
    | (with_reducible first | assumption | apply Kept.foldl | apply Kept.ite | apply Kept.sendMsg)
    | refine Kept.of_eq (by assumption) ?_ | split

theorem Kept.fenceSeen (h : Kept z s) (o : Nat) (f : FenceSt) (dest : Nat) (fails : Nat) : Kept z (State.fenceSeen s o
    f dest fails) := by
  unfold State.fenceSeen
  repeat' first
    | (with_reducible first | assumption | apply Kept.ite | apply Kept.setFence)
    | refine Kept.of_eq (by assumption) ?_ | split | dsimp only | with_reducible apply Kept.mk_same

theorem Kept.fenceDone (h : Kept z s) (d : Die) (ctx : Nat) (host : Bool) (f : FenceSt) : Kept z (State.fenceDone s d
    ctx host f) := by
  unfold State.fenceDone
  repeat' first
    | (with_reducible first | assumption | apply Kept.ite | apply Kept.setFence | apply Kept.hostReadGo
                            | apply Kept.localWrite | apply Kept.post | apply Kept.addF | apply Kept.setF
                            | apply Kept.finishDesc | apply Kept.freeEngine)
    | refine Kept.of_eq (by assumption) ?_ | split | dsimp only

theorem Kept.fenceCheck (h : Kept z s) (d : Die) (ctx : Nat) (host : Bool) : Kept z (State.fenceCheck s d ctx host) :=
    by
  unfold State.fenceCheck
  repeat' first
    | (with_reducible first | assumption | apply Kept.ite | apply Kept.fenceDone)
    | refine Kept.of_eq (by assumption) ?_ | split

theorem Kept.startFence (h : Kept z s) (d : Die) (ctx : Nat) (host : Bool) (kind : Nat) (arg : Nat) (eng : Nat)
    (result : Nat) : Kept z (State.startFence s d ctx host kind arg eng result) := by
  unfold State.startFence
  repeat' first
    | (with_reducible first | assumption | apply Kept.ite | apply Kept.flipEpoch | apply Kept.setFence
                            | apply Kept.setF | apply Kept.fenceSeen | apply Kept.sendProbes
                            | apply Kept.fenceCheck)
    | refine Kept.of_eq (by assumption) ?_ | split | dsimp only

theorem Kept.nextHostFence (h : Kept z s) (d : Die) : Kept z (State.nextHostFence s d) := by
  unfold State.nextHostFence
  repeat' first
    | intro _
    | (with_reducible first | assumption | apply Kept.foldl | apply Kept.ite | apply Kept.startFence)
    | refine Kept.of_eq (by assumption) ?_ | split

theorem execFenceResp_kept (h : Kept z s) (d : Die) (cmd : List Byte) : KeptO z (execFenceResp d cmd s) := by
  unfold execFenceResp
  repeat' first
    | (with_reducible first | assumption | apply KeptO.next | apply KeptO.ite | apply Kept.ite
                            | apply Kept.fenceSeen | apply Kept.fenceCheck | apply Kept.nextHostFence)
    | refine Kept.of_eq (by assumption) ?_ | split | dsimp only

theorem execFenceProbeRetry_kept (h : Kept z s) (d : Die) (ctx : Fin 33) : KeptO z (execFenceProbeRetry d ctx s) := by
  unfold execFenceProbeRetry
  repeat' first
    | (with_reducible first | assumption | apply KeptO.next | apply KeptO.ite | apply Kept.ite
                            | apply Kept.setFence | apply Kept.sendProbes)
    | refine Kept.of_eq (by assumption) ?_ | split | dsimp only

theorem Kept.operation (h : Kept z s) (d : Die) (words : List Nat) (i : OpInfo) : Kept z (State.operation s d words
    i).2 := by
  unfold State.operation
  repeat' first
    | (with_reducible first | assumption | apply Kept.ite | apply Kept.ite_snd)
    | refine Kept.of_eq (by assumption) ?_ | split | dsimp only | with_reducible apply Kept.mk_same

theorem Kept.putLocal (h : Kept z s) (d : Die) (pa : Nat) (l : List Byte) (poison : Bool) : Kept z (State.putLocal s d
    pa l poison) := by
  unfold State.putLocal
  repeat' first
    | (with_reducible first | assumption | apply Kept.ite | apply Kept.signal | apply Kept.localWrite)
    | refine Kept.of_eq (by assumption) ?_ | split

theorem Kept.toHost (h : Kept z s) (c : Crown) (a : Nat) (l : List Byte) : Kept z (State.toHost s c a l) := by
  unfold State.toHost
  repeat' first
    | (with_reducible first | assumption | apply Kept.ite | apply Kept.setHost)

theorem Kept.deliver (h : Kept z s) (d : Die) (ctx : Nat) (src : Nat) (dst : MoveEnd) (l : List Byte) (bad : Nat →
    Bool) : Kept z (State.deliver s d ctx src dst l bad) := by
  unfold State.deliver
  repeat' first
    | intro _
    | (with_reducible first | assumption | apply Kept.foldl | apply Kept.ite | apply Kept.toHost
                            | apply Kept.putLocal | apply Kept.post)
    | refine Kept.of_eq (by assumption) ?_ | split

theorem Kept.accessFault (h : Kept z s) (d : Die) (n : Nat) (e : Nat) (u : Nat) (w : Work) (c : Nat × Nat) : Kept z
    (State.accessFault s d n e u w c) := by
  unfold State.accessFault
  repeat' first
    | (with_reducible first | assumption | apply Kept.ite | apply Kept.descFault | apply Kept.log
                            | apply Kept.servedPoison | apply Kept.returnToken | apply Kept.faultAll)

theorem Kept.readHost (h : Kept z s) (c : Crown) (d : Die) (n : Nat) (u : Nat) (num : Nat) (addr : Nat) (dst : Nat)
    (len : Nat) : Kept z (State.readHost s c d n u num addr dst len) := by
  unfold State.readHost
  repeat' first
    | (with_reducible first | assumption | apply Kept.ite | apply Kept.setHost)

theorem Kept.startReads (h : Kept z s) (d : Die) (n : Nat) (u : Nat) (num : Nat) (w : Work) : Kept z (State.startReads
    s d n u num w) := by
  unfold State.startReads
  repeat' first
    | intro _
    | (with_reducible first | assumption | apply Kept.foldl | apply Kept.ite | apply Kept.readHost
                            | apply Kept.sendReads)
    | refine Kept.of_eq (by assumption) ?_ | split

theorem Kept.noteScratch (h : Kept z s) (d : Die) (e : Nat) (l : List Nat) : Kept z (State.noteScratch s d e l) := by
  unfold State.noteScratch
  repeat' first
    | (with_reducible first | assumption | apply Kept.ite | apply Kept.setEng)
    | refine Kept.of_eq (by assumption) ?_ | split

theorem Kept.startDesc (h : Kept z s) (d : Die) (e : Nat) (n : Nat) (w : List Nat) (i : OpInfo) : Kept z
    (State.startDesc s d e n w i) := by
  unfold State.startDesc
  repeat' first
    | (with_reducible first | assumption | apply Kept.ite | apply Kept.setStream | apply Kept.setEng
                            | apply Kept.setQueue | apply Kept.noteSuspect | apply Kept.startReads
                            | apply Kept.setF | apply Kept.noteScratch | apply Kept.startFence
                            | apply Kept.arrive)
    | refine Kept.of_eq (by assumption) ?_ | split

theorem Kept.tryStart (h : Kept z s) (d : Die) (e : Nat) (n : Nat) (w : List Nat) (i : OpInfo) : Kept z
    (State.tryStart s d e n w i) := by
  unfold State.tryStart
  repeat' first
    | (with_reducible first | assumption | apply Kept.ite | apply Kept.askToken | apply Kept.setStream
                            | apply Kept.setEng | apply Kept.bumpF | apply Kept.servedPoison
                            | apply Kept.startDesc)

theorem Kept.startHead (h : Kept z s) (d : Die) (e : Nat) (n : Nat) (i : OpInfo) : Kept z (State.startHead s d e n i)
    := by
  unfold State.startHead
  repeat' first
    | (with_reducible first | assumption | apply Kept.ite | apply Kept.servedPoison | apply Kept.faultAll
                            | apply Kept.descFault | apply Kept.operation | apply Kept.accessFault
                            | apply Kept.tryStart)
    | refine Kept.of_eq (by assumption) ?_ | split | dsimp only

theorem Kept.replayHead (h : Kept z s) (d : Die) (e : Nat) (r : Replay) (n : Nat) (i : OpInfo) : Kept z
    (State.replayHead s d e r n i) := by
  unfold State.replayHead
  repeat' first
    | (with_reducible first | assumption | apply Kept.ite | apply Kept.replayHit | apply Kept.operation
                            | apply Kept.setReplay | apply Kept.setEng | apply Kept.setF | apply Kept.setQueue)
    | refine Kept.of_eq (by assumption) ?_ | split | dsimp only

theorem execDescriptorStart_kept (h : Kept z s) (m : Mv) (e : Fin 16) (i : OpInfo) : KeptO z (execDescriptorStart m e
    i s) := by
  unfold execDescriptorStart
  repeat' first
    | (with_reducible first | assumption | apply KeptO.next | apply KeptO.ite | apply Kept.ite
                            | apply Kept.replayHead | apply Kept.startHead)
    | refine Kept.of_eq (by assumption) ?_ | split

theorem Kept.putResult (h : Kept z s) (d : Die) (x : Desc) (a : Nat) (l : List Byte) : Kept z (State.putResult s d x a
    l) := by
  unfold State.putResult
  repeat' first
    | (with_reducible first | assumption | apply Kept.ite | apply Kept.deliver)

theorem Kept.moveRow (h : Kept z s) (d : Die) (u : Nat) (x : Desc) (m : MoveOp) (r : Nat) : Kept z (State.moveRow s d
    u x m r) := by
  unfold State.moveRow
  repeat' first
    | (with_reducible first | assumption | apply Kept.ite | apply Kept.deliver)
    | refine Kept.of_eq (by assumption) ?_ | split

theorem Kept.appendSeq (h : Kept z s) (d : Die) (u : Nat) (x : Desc) (q : Seq) (n : Nat) : Kept z (State.appendSeq s d
    u x q n) := by
  unfold State.appendSeq
  repeat' first
    | intro _
    | (with_reducible first | assumption | apply Kept.foldl | apply Kept.ite | apply Kept.putResult)
    | refine Kept.of_eq (by assumption) ?_ | split | dsimp only | with_reducible apply Kept.mk_same

theorem Kept.descWrites (h : Kept z s) (d : Die) (u : Nat) (x : Desc) : Kept z (State.descWrites s d u x) := by
  unfold State.descWrites
  repeat' first
    | intro _
    | (with_reducible first | assumption | apply Kept.foldl | apply Kept.ite | apply Kept.moveRow
                            | apply Kept.putResult | apply Kept.appendSeq)
    | refine Kept.of_eq (by assumption) ?_ | split

theorem Kept.replayStep (h : Kept z s) (d : Die) (x : Desc) : Kept z (State.replayStep s d x) := by
  unfold State.replayStep
  repeat' first
    | (with_reducible first | assumption | apply Kept.ite | apply Kept.setReplay)
    | refine Kept.of_eq (by assumption) ?_ | split

theorem Kept.dropFence (h : Kept z s) (d : Die) (n : Nat) (u : Nat) : Kept z (State.dropFence s d n u) := by
  unfold State.dropFence
  repeat' first
    | (with_reducible first | assumption | apply Kept.ite | apply Kept.setFence | apply Kept.setF)
    | refine Kept.of_eq (by assumption) ?_ | split

theorem Kept.boundFault (h : Kept z s) (d : Die) (u : Nat) (x : Desc) : Kept z (State.boundFault s d u x) := by
  unfold State.boundFault
  repeat' first
    | (with_reducible first | assumption | apply Kept.ite | apply Kept.endNum | apply Kept.replayHit
                            | apply Kept.dropFence | apply Kept.descFault)

theorem Kept.endDesc (h : Kept z s) (d : Die) (u : Nat) (x : Desc) : Kept z (State.endDesc s d u x) := by
  unfold State.endDesc
  repeat' first
    | (with_reducible first | assumption | apply Kept.ite | apply Kept.boundFault | apply Kept.abortUnit
                            | apply Kept.replayHit | apply Kept.accessFault | apply Kept.descWrites
                            | apply Kept.replayStep | apply Kept.finishDesc | apply Kept.setEng
                            | apply Kept.setF | apply Kept.freeEngine | apply Kept.setQueue
                            | apply Kept.setStream)
    | refine Kept.of_eq (by assumption) ?_ | split

theorem execDescriptorComplete_kept (h : Kept z s) (m : Mv) (u : Fin 22) : KeptO z (execDescriptorComplete m u s) := by
  unfold execDescriptorComplete
  repeat' first
    | (with_reducible first | assumption | apply KeptO.next | apply KeptO.ite | apply Kept.ite
                            | apply Kept.setEng | apply Kept.setF | apply Kept.endDesc)
    | refine Kept.of_eq (by assumption) ?_ | split

theorem execDescriptorBoundExpiry_kept (h : Kept z s) (m : Mv) (u : Fin 22) : KeptO z (execDescriptorBoundExpiry m u
    s) := by
  unfold execDescriptorBoundExpiry
  repeat' first
    | (with_reducible first | assumption | apply KeptO.next | apply KeptO.ite | apply Kept.ite
                            | apply Kept.boundFault | apply Kept.descFault)
    | refine Kept.of_eq (by assumption) ?_ | split | dsimp only

theorem execReadData_kept (h : Kept z s) (d : Die) (cmd : List Byte) (data : List (List Byte)) : KeptO z (execReadData
    d cmd data s) := by
  unfold execReadData
  repeat' first
    | (with_reducible first | assumption | apply KeptO.next | apply KeptO.ite | apply Kept.ite
                            | apply Kept.completeRead | apply Kept.deliver | apply Kept.endNum
                            | apply Kept.faultAll | apply Kept.setEng)
    | refine Kept.of_eq (by assumption) ?_ | split | dsimp only | with_reducible apply Kept.mk_same

theorem Kept.doorbell (h : Kept z s) (m : Mv) (w : Nat) : Kept z (State.doorbell s m w) := by
  unfold State.doorbell
  repeat' first
    | (with_reducible first | assumption | apply Kept.ite | apply Kept.mapStreams | apply Kept.setCtxState
                            | apply Kept.bumpF)

theorem execDoorbellRing_kept (h : Kept z s) (m : Mv) (w : Word) : KeptO z (execDoorbellRing m w s) := by
  unfold execDoorbellRing
  repeat' first
    | (with_reducible first | assumption | apply KeptO.next | apply KeptO.ite | apply Kept.ite
                            | apply Kept.doorbell)

theorem execCounterSignal_kept (h : Kept z s) (m : Mv) (n : Fin 4096) (value : Word) : KeptO z (execCounterSignal m n
    value s) := by
  unfold execCounterSignal
  repeat' first
    | (with_reducible first | assumption | apply KeptO.next | apply KeptO.ite | apply Kept.ite
                            | apply Kept.signal)

theorem Kept.ctrWrite (h : Kept z s) (m : Mv) (n : Nat) (w : Nat) : Kept z (State.ctrWrite s m n w) := by
  unfold State.ctrWrite
  repeat' first
    | (with_reducible first | assumption | apply Kept.ite | apply Kept.signal | apply Kept.bumpF)

theorem execSynCtrWrite_kept (h : Kept z s) (m : Mv) (n : Fin 4096) (w : Word) : KeptO z (execSynCtrWrite m n w s) := by
  unfold execSynCtrWrite
  repeat' first
    | (with_reducible first | assumption | apply KeptO.next | apply KeptO.ite | apply Kept.ite
                            | apply Kept.ctrWrite)

theorem execBarrierArrival_kept (h : Kept z s) (m : Mv) (ctx : Fin 32) : KeptO z (execBarrierArrival m ctx s) := by
  unfold execBarrierArrival
  repeat' first
    | (with_reducible first | assumption | apply KeptO.next | apply KeptO.ite | apply Kept.ite
                            | apply Kept.setFence | apply Kept.arrive | apply Kept.finishDesc
                            | apply Kept.freeEngine)
    | refine Kept.of_eq (by assumption) ?_ | split | dsimp only

theorem execLockstepMismatch_kept (h : Kept z s) (m : Mv) : KeptO z (execLockstepMismatch m s) := by
  unfold execLockstepMismatch
  repeat' first
    | (with_reducible first | assumption | apply KeptO.next | apply KeptO.ite | apply Kept.ite)
    | refine Kept.of_eq (by assumption) ?_ | split | dsimp only | with_reducible apply Kept.mk_same

theorem Kept.logFault (h : Kept z s) (b : Blk) (area : Nat) (rc : Nat) : Kept z (State.logFault s b area rc) := by
  unfold State.logFault
  repeat' first
    | (with_reducible first | assumption | apply Kept.ite | apply Kept.log)

theorem Kept.noteVersion (h : Kept z s) (l : List Byte) : Kept z (State.noteVersion s l) := by
  unfold State.noteVersion
  repeat' first
    | (with_reducible first | assumption | apply Kept.ite | apply Kept.setF)

theorem Kept.partitionDone (h : Kept z s) (m : Mv) : Kept z (State.partitionDone s m) := by
  unfold State.partitionDone
  repeat' first
    | (with_reducible first | assumption | apply Kept.ite | apply Kept.setDom)
    | refine Kept.of_eq (by assumption) ?_ | split | dsimp only | with_reducible apply Kept.mk_same

theorem execHeartbeatSend_kept (h : Kept z s) (m : Mv) : KeptO z (execHeartbeatSend m s) := by
  unfold execHeartbeatSend
  repeat' first
    | (with_reducible first | assumption | apply KeptO.next | apply KeptO.ite | apply Kept.ite
                            | apply Kept.sbSend | apply Kept.partitionDone)

theorem execHeartbeatCheck_kept (h : Kept z s) (m : Mv) : KeptO z (execHeartbeatCheck m s) := by
  unfold execHeartbeatCheck
  repeat' first
    | (with_reducible first | assumption | apply KeptO.next | apply KeptO.ite | apply Kept.ite | apply Kept.setF
                            | apply Kept.trigger)

theorem execHeartbeatStateSend_kept (h : Kept z s) (m : Mv) : KeptO z (execHeartbeatStateSend m s) := by
  unfold execHeartbeatStateSend
  repeat' first
    | (with_reducible first | assumption | apply KeptO.next | apply KeptO.ite | apply Kept.ite | apply Kept.setF
                            | apply Kept.sbSend)

theorem Kept.takeHeartbeat (h : Kept z s) (e : LinkEnd) (box : Nat) : Kept z (State.takeHeartbeat s e box) := by
  unfold State.takeHeartbeat
  repeat' first
    | intro _
    | (with_reducible first | assumption | apply Kept.ite | apply Kept.setDie)
    | refine Kept.of_eq (by assumption) ?_ | split | dsimp only | exact Nat.zero_le _ | refine Kept.log_le ?_ (by assumption) _ | with_reducible apply Kept.mk_same

theorem execFaultGranuleWrite_kept (h : Kept z s) (m : Mv) : KeptO z (execFaultGranuleWrite m s) := by
  unfold execFaultGranuleWrite
  repeat' first
    | (with_reducible first | assumption | apply KeptO.next | apply KeptO.ite | apply Kept.ite
                            | apply Kept.wrBytes)
    | refine Kept.of_eq (by assumption) ?_ | split | dsimp only

theorem execWatchdogKick_kept (h : Kept z s) (c : Crown) : KeptO z (execWatchdogKick c s) := by
  unfold execWatchdogKick
  repeat' first
    | (with_reducible first | assumption | apply KeptO.next | apply KeptO.ite | apply Kept.ite)
    | refine Kept.of_eq (by assumption) ?_ | split | dsimp only | with_reducible apply Kept.mk_same

theorem execWatchdogExpiry_kept (h : Kept z s) (c : Crown) : KeptO z (execWatchdogExpiry c s) := by
  unfold execWatchdogExpiry
  repeat' first
    | (with_reducible first | assumption | apply KeptO.next | apply KeptO.ite | apply Kept.ite | apply Kept.setF
                            | apply Kept.powerCycle)

theorem Kept.letResume (h : Kept z s) (n : Nat) (asIs : Bool) : Kept z (State.letResume s n asIs) := by
  unfold State.letResume
  repeat' first
    | intro _
    | (with_reducible first | assumption | apply Kept.foldl | apply Kept.ite | apply Kept.setF
                            | apply Kept.setCtx)

theorem Kept.releaseCtx (h : Kept z s) (n : Nat) : Kept z (State.releaseCtx s n) := by
  unfold State.releaseCtx
  repeat' first
    | intro _
    | (with_reducible first | assumption | apply Kept.foldl | apply Kept.ite | apply Kept.setF
                            | apply Kept.setCtxState | apply Kept.setDie | apply Kept.letResume)
    | refine Kept.of_eq (by assumption) ?_ | split | dsimp only | exact Nat.zero_le _ | refine Kept.log_le ?_ (by assumption) _

theorem Kept.releaseMask (h : Kept z s) (w : Nat) : Kept z (State.releaseMask s w) := by
  unfold State.releaseMask
  repeat' first
    | intro _
    | (with_reducible first | assumption | apply Kept.foldl | apply Kept.ite | apply Kept.releaseCtx)

theorem execContextRelease_kept (h : Kept z s) (w : Word) : KeptO z (execContextRelease w s) := by
  unfold execContextRelease
  repeat' first
    | (with_reducible first | assumption | apply KeptO.next | apply KeptO.ite | apply Kept.ite
                            | apply Kept.releaseMask)

theorem Kept.holdCtx (h : Kept z s) (d : Die) (n : Nat) (eng : Nat) (rc : Nat) : Kept z (State.holdCtx s d n eng rc)
    := by
  unfold State.holdCtx
  repeat' first
    | intro _
    | (with_reducible first | assumption | apply Kept.foldl | apply Kept.ite | apply Kept.setCtx
                            | apply Kept.setF | apply Kept.ctxFaultOn)
    | refine Kept.of_eq (by assumption) ?_ | split | dsimp only | with_reducible apply Kept.mk_same

theorem Kept.noteSuspects (h : Kept z s) (d : Die) (u : Nat) (lvl : Nat) : Kept z (State.noteSuspects s d u lvl) := by
  unfold State.noteSuspects
  repeat' first
    | (with_reducible first | assumption | apply Kept.ite | apply Kept.setF)

theorem execEngineHangDetect_kept (h : Kept z s) (m : Mv) (u : Fin 22) : KeptO z (execEngineHangDetect m u s) := by
  unfold execEngineHangDetect
  repeat' first
    | (with_reducible first | assumption | apply KeptO.next | apply KeptO.ite | apply Kept.ite
                            | apply Kept.replayHit | apply Kept.noteSuspects | apply Kept.trigger)

theorem Kept.fenceDie (h : Kept z s) (d : Die) (es : List Nat) (rc : Nat) (susp : Bool) : Kept z (State.fenceDie s d
    es rc susp) := by
  unfold State.fenceDie
  repeat' first
    | intro _
    | (with_reducible first | assumption | apply Kept.foldl | apply Kept.ite | apply Kept.holdCtx
                            | apply Kept.dropQueued | apply Kept.dropReads | apply Kept.setFence
                            | apply Kept.setF)
    | refine Kept.of_eq (by assumption) ?_ | split | dsimp only | with_reducible apply Kept.mk_same

theorem execRecoveryFenceEnd_kept (h : Kept z s) (k : Fin 5) : KeptO z (execRecoveryFenceEnd k s) := by
  unfold execRecoveryFenceEnd
  repeat' first
    | intro _
    | (with_reducible first | assumption | apply Kept.foldl | apply KeptO.next | apply KeptO.ite
                            | apply Kept.ite | apply Kept.setDom | apply Kept.fenceDie)

theorem Kept.zeroRange (h : Kept z s) (pa n : Nat) : Kept z (s.zeroRange pa n) :=
  h.withMem fun hz => Tab.wf_filter _ (h.mem hz)

theorem Kept.dump (h : Kept z s) (d : Die) (x : RcvDom) : Kept z (State.dump s d x) := by
  unfold State.dump
  repeat' first
    | intro _
    | (with_reducible first | assumption | apply Kept.foldl | apply Kept.ite | apply Kept.wrBytes
                            | apply Kept.zeroRange | apply Kept.setF)
    | refine Kept.of_eq (by assumption) ?_ | split

theorem poisonRange_wf {t : Tab Bool} (g n : Nat) (h : Tab.wf false t = true) : Tab.wf false (poisonRange t g n) =
    true := by
  have app : ∀ (a : Tab Bool) (b c : Nat) (r : Tab Bool), Tab.wfFrom false b a = true → (∀ p ∈ a, p.1 < c) → b ≤ c →
      Tab.wfFrom false c r = true → Tab.wfFrom false b (a ++ r) = true := by
    intro a
    induction a with
    | nil => intro b c r _ _ hb hr; exact Tab.wfFrom_mono hr hb
    | cons p a ih =>
      intro b c r ha hc _ hr
      simp only [Tab.wfFrom, Bool.and_eq_true, decide_eq_true_eq, List.cons_append] at ha ⊢
      exact ⟨ha.1, ih _ c r ha.2 (fun q hq => hc q (List.mem_cons_of_mem _ hq)) (hc p List.mem_cons_self) hr⟩
  have up : ∀ (r : Tab Bool) (c b : Nat), Tab.wfFrom false b r = true → (∀ p ∈ r, c ≤ p.1) → Tab.wfFrom false c r = true := by
    intro r c b hr hc
    cases r with
    | nil => rfl
    | cons p r =>
      simp only [Tab.wfFrom, Bool.and_eq_true, decide_eq_true_eq] at hr ⊢
      exact ⟨⟨hc p List.mem_cons_self, hr.1.2⟩, hr.2⟩
  have mid : ∀ (m c : Nat) (r : Tab Bool), Tab.wfFrom false (c + m) r = true →
      Tab.wfFrom false c ((List.range m).map (fun i => (c + i, true)) ++ r) = true := by
    intro m
    induction m with
    | zero => intro c r hr; exact hr
    | succ m ih =>
      intro c r hr
      rw [List.range_succ_eq_map, List.map_cons, List.map_map, List.cons_append]
      simp only [Tab.wfFrom, Bool.and_eq_true, decide_eq_true_eq]
      refine ⟨⟨Nat.le_add_right _ _, by decide⟩, ?_⟩
      have e : List.map ((fun i => (c + i, true)) ∘ Nat.succ) (List.range m) = (List.range m).map fun i => (c + 1 + i, true) :=
        List.map_congr_left fun i _ => by simp only [Function.comp_apply]; rw [Nat.succ_eq_add_one, Nat.add_right_comm, Nat.add_assoc]
      rw [e]
      exact ih (c + 1) r (by rw [Nat.add_right_comm, Nat.add_assoc]; exact hr)
  unfold poisonRange
  rw [List.append_assoc]
  refine app _ 0 g _ (Tab.wf_filter _ h) (fun p hp => by simpa using (List.mem_filter.1 hp).2) (Nat.zero_le _) (mid _ _ _ ?_)
  exact up _ _ 0 (Tab.wf_filter _ h) fun p hp => by simpa using (List.mem_filter.1 hp).2

theorem Kept.poisonBuffers (h : Kept z s) (d : Die) : Kept z (s.poisonBuffers d) :=
  { h with poison := fun hz => poisonRange_wf _ _ (h.poison hz) }

theorem Kept.resetEngine (h : Kept z s) (d : Die) (e : Nat) : Kept z (State.resetEngine s d e) := by
  unfold State.resetEngine
  repeat' first
    | (with_reducible first | assumption | apply Kept.ite | apply Kept.setEng | apply Kept.setF)

theorem Kept.resetMvc (h : Kept z s) (d : Die) : Kept z (s.resetMvc d) := by
  unfold State.resetMvc
  generalize List.range 4096 = l3
  generalize List.range 256 = l4
  repeat' first
    | intro _
    | (with_reducible first | assumption | apply Kept.foldl | apply Kept.addF | apply Kept.setF
                            | apply Kept.mapStreams | apply Kept.setEng | apply Kept.setQueue
                            | apply Kept.resetEngine | apply Kept.poisonBuffers)
    | split | with_reducible apply Kept.mk_same

theorem Kept.restartCtl (h : Kept z s) (m : Mv) : Kept z (State.restartCtl s m) := by
  unfold State.restartCtl
  repeat' first
    | intro _
    | (with_reducible first | assumption | apply Kept.foldl | apply Kept.ite | apply Kept.log
                            | apply Kept.answerFault)
    | refine Kept.of_eq (by assumption) ?_ | split | dsimp only | with_reducible apply Kept.mk_same

theorem Kept.handUp (h : Kept z s) (k : Nat) : Kept z (State.handUp s k) := by
  unfold State.handUp
  repeat' first
    | (with_reducible first | assumption | apply Kept.ite | apply Kept.powerCycle | apply Kept.trigger)

theorem execCrashDumpDone_kept (h : Kept z s) (m : Mv) : KeptO z (execCrashDumpDone m s) := by
  unfold execCrashDumpDone
  repeat' first
    | (with_reducible first | assumption | apply KeptO.next | apply KeptO.ite | apply Kept.ite
                            | apply Kept.handUp | apply Kept.dump | apply Kept.resetMvc | apply Kept.restartCtl
                            | apply Kept.setDom | apply Kept.resetEngine)
    | refine Kept.of_eq (by assumption) ?_ | split | dsimp only | with_reducible apply Kept.mk_same

theorem execRecoveryBoundExpiry_kept (h : Kept z s) (k : Fin 5) : KeptO z (execRecoveryBoundExpiry k s) := by
  unfold execRecoveryBoundExpiry
  repeat' first
    | (with_reducible first | assumption | apply KeptO.next | apply KeptO.ite | apply Kept.ite
                            | apply Kept.handUp)

theorem Kept.replayVerdict (h : Kept z s) (d : Die) (r : Replay) (reason : Nat) : Kept z (s.replayVerdict d r reason)
    := by
  have fill : ∀ (l m : List Host.Cell), Memory.wf m = true →
      Memory.wf (l.foldl (fun (m : List Host.Cell) (c : Host.Cell) => Tab.set memDefault m c.1 c.2) m) = true := by
    intro l
    induction l with
    | nil => exact fun _ h => h
    | cons c l ih => exact fun m hm => ih _ (Tab.wf_set _ _ hm)
  unfold State.replayVerdict
  have g := (h.withMem fun hz => fill r.save _ (Tab.wf_filter (fun c => !decide (chipPa d (0x3000000 + 0x100000 * r.eng) ≤ c.1 ∧
    c.1 < chipPa d (0x3000000 + 0x100000 * r.eng) + 0x100000)) (h.mem hz))).returnToken d 2 0 r.eng
  have g2 := g.setReplay d none
  have g3 := fun v => Kept.ite (c := (r.culprits != 0) = true) g2 ((g2.log d .rcv 0 0x9008
    (leBytes 4 r.suspects ++ [BitVec.ofNat 8 reason]) 0xFF).setF cr0 .rcv 0 Reg.RCV_INCONCL v 0)
  exact .mk_same (.ite (g3 _) ((g3 _).setDom ..))

theorem Kept.nextSuspect (h : Kept z s) (d : Die) (r : Replay) : Kept z (State.nextSuspect s d r) := by
  unfold State.nextSuspect
  repeat' first
    | (with_reducible first | assumption | apply Kept.ite | apply Kept.setReplay | apply Kept.replayVerdict)
    | refine Kept.of_eq (by assumption) ?_ | split

theorem execReplayStart_kept (h : Kept z s) (m : Mv) : KeptO z (execReplayStart m s) := by
  unfold execReplayStart
  repeat' first
    | (with_reducible first | assumption | apply KeptO.next | apply KeptO.ite | apply Kept.ite
                            | apply Kept.wrBytes | apply Kept.setReplay | apply Kept.askToken
                            | apply Kept.nextSuspect | apply Kept.replayVerdict)
    | refine Kept.of_eq (by assumption) ?_ | split | dsimp only

theorem Kept.resetReplay (h : Kept z s) (d : Die) (r : Replay) : Kept z (State.resetReplay s d r) := by
  unfold State.resetReplay
  repeat' first
    | intro _
    | (with_reducible first | assumption | apply Kept.foldl | apply Kept.ite | apply Kept.resetEngine
                            | apply Kept.dropQueued | apply Kept.setEng)

theorem execReplaySuspectEnd_kept (h : Kept z s) (m : Mv) : KeptO z (execReplaySuspectEnd m s) := by
  unfold execReplaySuspectEnd
  repeat' first
    | (with_reducible first | assumption | apply KeptO.next | apply KeptO.ite | apply Kept.ite
                            | apply Kept.returnToken | apply Kept.setReplay | apply Kept.log | apply Kept.setF
                            | apply Kept.resetReplay | apply Kept.nextSuspect)
    | refine Kept.of_eq (by assumption) ?_ | split | dsimp only

theorem Kept.endHold (h : Kept z s) (d : Die) (n : Nat) (asIs : Bool) : Kept z (State.endHold s d n asIs) := by
  unfold State.endHold
  repeat' first
    | (with_reducible first | assumption | apply Kept.ite | apply Kept.log | apply Kept.letResume)

theorem execDomainRejoin_kept (h : Kept z s) (m : Mv) : KeptO z (execDomainRejoin m s) := by
  unfold execDomainRejoin
  repeat' first
    | intro _
    | (with_reducible first | assumption | apply Kept.foldl | apply KeptO.next | apply KeptO.ite
                            | apply Kept.ite | apply Kept.setDom | apply Kept.showLevel | apply Kept.endHold)
    | refine Kept.of_eq (by assumption) ?_ | split | dsimp only | with_reducible apply Kept.mk_same

theorem Kept.takePkgBeat (h : Kept z s) (box : Nat) : Kept z (State.takePkgBeat s box) := by
  unfold State.takePkgBeat
  repeat' first
    | (with_reducible first | assumption | apply Kept.ite | apply Kept.sbSend | apply Kept.sendOrder)
    | refine Kept.of_eq (by assumption) ?_ | split | dsimp only | with_reducible apply Kept.mk_same

theorem execPackageHeartbeat_kept (h : Kept z s) (n : Fin 8) (r : SbSlot) : KeptO z (execPackageHeartbeat n r s) := by
  unfold execPackageHeartbeat
  repeat' first
    | (with_reducible first | assumption | apply KeptO.next | apply KeptO.ite | apply Kept.ite
                            | apply Kept.sbTakes | apply Kept.takePkgBeat)
    | refine Kept.of_eq (by assumption) ?_ | split

theorem Kept.trayStop (h : Kept z s)  : Kept z (State.trayStop s) := by
  unfold State.trayStop
  repeat' first
    | (with_reducible first | assumption | apply Kept.ite | apply Kept.stopAllSc | apply Kept.trigger)
    | refine Kept.of_eq (by assumption) ?_ | split | dsimp only | with_reducible apply Kept.mk_same

theorem execTrayOrder_kept (h : Kept z s) (n : Fin 8) (r : SbSlot) : KeptO z (execTrayOrder n r s) := by
  unfold execTrayOrder
  repeat' first
    | intro _
    | (with_reducible first | assumption | apply Kept.foldl | apply KeptO.next | apply KeptO.ite
                            | apply Kept.ite | apply Kept.sbTakes | apply Kept.sbSend | apply Kept.trayStop)
    | refine Kept.of_eq (by assumption) ?_ | split | dsimp only | with_reducible apply Kept.mk_same

theorem execTrayStop_kept (h : Kept z s)  : KeptO z (execTrayStop s) := by
  unfold execTrayStop
  repeat' first
    | (with_reducible first | assumption | apply KeptO.next | apply KeptO.ite | apply Kept.ite
                            | apply Kept.trayStop)

theorem Kept.force (h : Kept z s) (lvl : Nat) (die : Nat) (eng : Nat) : Kept z (State.force s lvl die eng) := by
  unfold State.force
  repeat' first
    | (with_reducible first | assumption | apply Kept.ite | apply Kept.setF | apply Kept.refuse
                            | apply Kept.noteSuspects | apply Kept.trigger)

theorem execForceEngineReset_kept (h : Kept z s) (die : Fin 8) (eng : Fin 16) : KeptO z (execForceEngineReset die eng
    s) := by
  unfold execForceEngineReset
  repeat' first
    | (with_reducible first | assumption | apply KeptO.next | apply KeptO.ite | apply Kept.ite
                            | apply Kept.force)

theorem execForcePartitionReset_kept (h : Kept z s) (die : Fin 8) : KeptO z (execForcePartitionReset die s) := by
  unfold execForcePartitionReset
  repeat' first
    | (with_reducible first | assumption | apply KeptO.next | apply KeptO.ite | apply Kept.ite
                            | apply Kept.force)

theorem execForceChipReset_kept (h : Kept z s) (die : Fin 8) : KeptO z (execForceChipReset die s) := by
  unfold execForceChipReset
  repeat' first
    | (with_reducible first | assumption | apply KeptO.next | apply KeptO.ite | apply Kept.ite
                            | apply Kept.force)

end Sys2Proof.Machine
end

