-- ==== Sys2Proof/Laws/KeptCrown.lean ====
section
/-! SUPPORT. `Kept` for the operations and commands of the host port, fusion, Ethernet and the ledger:
each keeps the queue, the clock and the canonical form. -/

namespace Sys2Proof.Machine

variable {z s t : State}

theorem Kept.hostOutside (h : Kept z s) (c : Crown) (x : Nat) : Kept z (State.hostOutside s c x) := by
  unfold State.hostOutside
  repeat' first
    | (with_reducible first | assumption | apply Kept.ite | apply Kept.log | apply Kept.bumpF)

theorem execBar2Write_kept (h : Kept z s) (c : Crown) (x : Nat) (bytes : List Byte) : KeptO z (execBar2Write c x bytes
    s) := by
  unfold execBar2Write
  repeat' first
    | (with_reducible first | assumption | apply KeptO.next | apply KeptO.ite | apply Kept.ite | apply Kept.post
                            | apply Kept.hostOutside)
    | refine Kept.of_eq (by assumption) ?_ | split

theorem execBar2Read_kept (h : Kept z s) (c : Crown) (id : Nat) (x : Nat) (len : Nat) : KeptO z (execBar2Read c id x
    len s) := by
  unfold execBar2Read
  repeat' first
    | (with_reducible first | assumption | apply KeptO.next | apply KeptO.ite | apply Kept.ite
                            | apply Kept.setHost | apply Kept.nextHostFence | apply Kept.hostOutside)
    | refine Kept.of_eq (by assumption) ?_ | split

theorem execBar2ReadAbort_kept (h : Kept z s) (c : Crown) (id : Nat) : KeptO z (execBar2ReadAbort c id s) := by
  unfold execBar2ReadAbort
  repeat' first
    | (with_reducible first | assumption | apply KeptO.next | apply KeptO.ite | apply Kept.ite
                            | apply Kept.abortRead)
    | refine Kept.of_eq (by assumption) ?_ | split

theorem Kept.failMove (h : Kept z s) (c : Crown) (r : HostMove) (cause : Nat) : Kept z (State.failMove s c r cause) :=
    by
  unfold State.failMove
  repeat' first
    | (with_reducible first | assumption | apply Kept.ite | apply Kept.setHost | apply Kept.draw
                            | apply Kept.deliver | apply Kept.log | apply Kept.faultAll)
    | refine Kept.of_eq (by assumption) ?_ | split

theorem Kept.timeoutMove (h : Kept z s) (c : Crown) (r : HostMove) : Kept z (State.timeoutMove s c r) := by
  unfold State.timeoutMove
  repeat' first
    | (with_reducible first | assumption | apply Kept.ite | apply Kept.failMove | apply Kept.bumpF)

theorem execHostReadCompletion_kept (h : Kept z s) (c : Crown) (id : Nat) (status : Fin 3) (bytes : List Byte) : KeptO
    z (execHostReadCompletion c id status bytes s) := by
  unfold execHostReadCompletion
  repeat' first
    | (with_reducible first | assumption | apply KeptO.next | apply KeptO.ite | apply Kept.ite
                            | apply Kept.timeoutMove | apply Kept.failMove | apply Kept.setHost
                            | apply Kept.deliver)
    | refine Kept.of_eq (by assumption) ?_ | split | dsimp only

theorem execHostReadTimeout_kept (h : Kept z s) (c : Crown) (id : Nat) : KeptO z (execHostReadTimeout c id s) := by
  unfold execHostReadTimeout
  repeat' first
    | (with_reducible first | assumption | apply KeptO.next | apply KeptO.ite | apply Kept.ite
                            | apply Kept.timeoutMove)
    | refine Kept.of_eq (by assumption) ?_ | split

theorem Kept.resetPci (h : Kept z s) (c : Crown) (fs : List Fld) (n : Nat) (stride : Nat) : Kept z (State.resetPci s c
    fs n stride) := by
  unfold State.resetPci
  repeat' first
    | intro _
    | (with_reducible first | assumption | apply Kept.foldl | apply Kept.ite | apply Kept.setF)

theorem execFunctionLevelReset_kept (h : Kept z s) (c : Crown) (kind : Fin 3) : KeptO z (execFunctionLevelReset c kind
    s) := by
  unfold execFunctionLevelReset
  repeat' first
    | intro _
    | (with_reducible first | assumption | apply Kept.foldl | apply KeptO.next | apply KeptO.ite
                            | apply Kept.ite | apply Kept.setHost | apply Kept.resetPci | apply Kept.setF
                            | apply Kept.draw | apply Kept.failMove)

theorem execMsixMessage_kept (h : Kept z s) (c : Crown) (v : Fin 64) : KeptO z (execMsixMessage c v s) := by
  unfold execMsixMessage
  repeat' first
    | (with_reducible first | assumption | apply KeptO.next | apply KeptO.ite | apply Kept.ite
                            | apply Kept.setHost)

theorem Kept.bar4Word (h : Kept z s) (c : Crown) (off : Nat) : Kept z (State.bar4Word s c off).2 := by
  unfold State.bar4Word
  repeat' first
    | (with_reducible first | assumption | apply Kept.ite | apply Kept.ite_snd | apply Kept.draw)

theorem execConfigurationRequest_kept (h : Kept z s) (c : Crown) (q : CfgReq) : KeptO z (execConfigurationRequest c q
    s) := by
  unfold execConfigurationRequest
  repeat' first
    | (with_reducible first | assumption | apply KeptO.next | apply KeptO.ite | apply Kept.ite
                            | apply Kept.setHost | apply Kept.bar4Word | apply Kept.draw)
    | refine Kept.of_eq (by assumption) ?_ | split

theorem Kept.ethStart (h : Kept z s) (c : Crown) (p : Nat) (at_ : Nat) (frame : List Byte) : Kept z (State.ethStart s
    c p at_ frame) := by
  unfold State.ethStart
  repeat' first
    | (with_reducible first | assumption | apply Kept.ite | apply Kept.setHost)

theorem Kept.ethPut (h : Kept z s) (c : Crown) (p : Nat) (frame : List Byte) : Kept z (State.ethPut s c p frame) := by
  unfold State.ethPut
  repeat' first
    | (with_reducible first | assumption | apply Kept.ite | apply Kept.setHost | apply Kept.ethStart)

theorem Kept.ethFlush (h : Kept z s) (c : Crown) (p : Nat) : Kept z (State.ethFlush s c p) := by
  unfold State.ethFlush
  repeat' first
    | intro _
    | (with_reducible first | assumption | apply Kept.foldl | apply Kept.ite | apply Kept.ethPut
                            | apply Kept.setHost)

theorem Kept.ethSend (h : Kept z s) (c : Crown) (p : Nat) (l : List Byte) : Kept z (State.ethSend s c p l) := by
  unfold State.ethSend
  repeat' first
    | (with_reducible first | assumption | apply Kept.ite | apply Kept.ethFlush | apply Kept.ethPut)

theorem execOutputGuardStart_kept (h : Kept z s) (i : Nat) : KeptO z (execOutputGuardStart i s) := by
  unfold execOutputGuardStart
  repeat' first
    | (with_reducible first | assumption | apply KeptO.next | apply KeptO.ite | apply Kept.ite
                            | apply Kept.setHost)
    | refine Kept.of_eq (by assumption) ?_ | split

theorem Kept.sendResult (h : Kept z s) (o : ImgOut) (tmf : List Byte) : Kept z (State.sendResult s o tmf) := by
  unfold State.sendResult
  repeat' first
    | (with_reducible first | assumption | apply Kept.ite | apply Kept.draw | apply Kept.setHost
                            | apply Kept.ethStart | apply Kept.ethFlush)

theorem Kept.writeRing (h : Kept z s) (c : Crown) (r : Nat) (tmf : List Byte) : Kept z (State.writeRing s c r tmf) := by
  unfold State.writeRing
  repeat' first
    | (with_reducible first | assumption | apply Kept.ite | apply Kept.bumpF | apply Kept.setHost
                            | apply Kept.setF | apply Kept.raiseOn)

theorem execResultOutput_kept (h : Kept z s) (i : Nat) : KeptO z (execResultOutput i s) := by
  unfold execResultOutput
  repeat' first
    | (with_reducible first | assumption | apply KeptO.next | apply KeptO.ite | apply Kept.ite
                            | apply Kept.bumpF | apply Kept.setHost | apply Kept.servedPoison
                            | apply Kept.writeRing | apply Kept.sendResult)
    | refine Kept.of_eq (by assumption) ?_ | split

theorem Kept.ethLoad (h : Kept z s) (c : Crown) : Kept z (State.ethLoad s c) := by
  unfold State.ethLoad
  repeat' first
    | intro _
    | (with_reducible first | assumption | apply Kept.foldl | apply Kept.ite | apply Kept.setF)

theorem execEthTableRead_kept (h : Kept z s) (p : Path) (c : Crown) : KeptO z (execEthTableRead p c s) := by
  unfold execEthTableRead
  split
  · next e => exact .next ((h.deadRead _ _ _ e).putRd ..)
  · exact .next ((h.ethLoad ..).putRd ..)

theorem Kept.mapCount (h : Kept z s) (c : Crown) (i : Nat) (k : Nat) (n : Nat) : Kept z (State.mapCount s c i k n) := by
  unfold State.mapCount
  repeat' first
    | (with_reducible first | assumption | apply Kept.ite | apply Kept.setTbl)

theorem Kept.setFusion (h : Kept z s) (c : Crown) (f : FusSt) : Kept z (State.setFusion s c f) := by
  unfold State.setFusion
  repeat' first
    | (with_reducible first | assumption | apply Kept.ite)
    | refine Kept.of_eq (by assumption) ?_ | split | dsimp only | with_reducible apply Kept.mk_same

theorem Kept.setGrp (h : Kept z s) (c : Crown) (g : Nat) (x : GrpSt) : Kept z (State.setGrp s c g x) := by
  unfold State.setGrp
  repeat' first
    | (with_reducible first | assumption | apply Kept.ite | apply Kept.setFusion)

theorem Kept.place (h : Kept z s) (c : Crown) (i : Nat) (m : Int) (chans : List (Nat × Nat × Nat)) : Kept z
    (State.place s c i m chans) := by
  unfold State.place
  repeat' first
    | (with_reducible first | assumption | apply Kept.ite | apply Kept.mapCount | apply Kept.setGrp
                            | apply Kept.bumpF)

theorem execSnapshotLimitClose_kept (h : Kept z s) (c : Crown) (g : Fin 16) : KeptO z (execSnapshotLimitClose c g s)
    := by
  unfold execSnapshotLimitClose
  repeat' first
    | (with_reducible first | assumption | apply KeptO.next | apply KeptO.ite | apply Kept.ite
                            | apply Kept.setGrp)

theorem Kept.setCoef (h : Kept z s) (c : Crown) (ch : Nat) (v : Nat) (commit : Bool) : Kept z (State.setCoef s c ch v
    commit) := by
  unfold State.setCoef
  repeat' first
    | (with_reducible first | assumption | apply Kept.ite | apply Kept.setFusion | apply Kept.setTbl
                            | apply Kept.setF)

theorem Kept.correct (h : Kept z s) (c : Crown) (r : Nat) (x : Snap) : Kept z (State.correct s c r x) := by
  unfold State.correct
  repeat' first
    | (with_reducible first | assumption | apply Kept.ite | apply Kept.localWrite)

theorem execSnapshotSelect_kept (h : Kept z s) (c : Crown) (g : Fin 16) : KeptO z (execSnapshotSelect c g s) := by
  unfold execSnapshotSelect
  repeat' first
    | intro _
    | (with_reducible first | assumption | apply Kept.foldl | apply KeptO.next | apply KeptO.ite
                            | apply Kept.ite | apply Kept.setGrp | apply Kept.mapCount | apply Kept.addF
                            | apply Kept.setF | apply Kept.correct)
    | refine Kept.of_eq (by assumption) ?_ | split

theorem execSnapshotRelease_kept (h : Kept z s) (c : Crown) (g : Fin 16) : KeptO z (execSnapshotRelease c g s) := by
  unfold execSnapshotRelease
  repeat' first
    | intro _
    | (with_reducible first | assumption | apply Kept.foldl | apply KeptO.next | apply KeptO.ite
                            | apply Kept.ite | apply Kept.setGrp | apply Kept.localWrite | apply Kept.setF
                            | apply Kept.bumpF | apply Kept.log)
    | refine Kept.of_eq (by assumption) ?_ | split | dsimp only

theorem Kept.clearLanded (h : Kept z s) (c : Crown) (tag : Nat) : Kept z (State.clearLanded s c tag) := by
  unfold State.clearLanded
  repeat' first
    | (with_reducible first | assumption | apply Kept.ite)
    | refine Kept.of_eq (by assumption) ?_ | split | dsimp only | with_reducible apply Kept.mk_same

theorem execResidualBatchStart_kept (h : Kept z s) (c : Crown) (g : Fin 16) : KeptO z (execResidualBatchStart c g s)
    := by
  unfold execResidualBatchStart
  repeat' first
    | intro _
    | (with_reducible first | assumption | apply Kept.foldl | apply KeptO.next | apply KeptO.ite
                            | apply Kept.ite | apply Kept.clearLanded | apply Kept.bumpF | apply Kept.setGrp)
    | refine Kept.of_eq (by assumption) ?_ | split | dsimp only

theorem Kept.gainReset (h : Kept z s) (c : Crown) (ch : Nat) (rms : Nat) : Kept z (State.gainReset s c ch rms) := by
  unfold State.gainReset
  repeat' first
    | (with_reducible first | assumption | apply Kept.ite | apply Kept.setFusion)

theorem Kept.applyOne (h : Kept z s) (c : Crown) (ch : Nat) (v : Nat × Nat × Nat × Nat) : Kept z (State.applyOne s c
    ch v) := by
  unfold State.applyOne
  repeat' first
    | (with_reducible first | assumption | apply Kept.ite | apply Kept.gainReset | apply Kept.setCoef
                            | apply Kept.setFusion | apply Kept.log)

theorem execCalibBatchApply_kept (h : Kept z s) (c : Crown) (g : Fin 16) : KeptO z (execCalibBatchApply c g s) := by
  unfold execCalibBatchApply
  repeat' first
    | intro _
    | (with_reducible first | assumption | apply Kept.foldl | apply KeptO.next | apply KeptO.ite
                            | apply Kept.ite | apply Kept.applyOne | apply Kept.setGrp)
    | refine Kept.of_eq (by assumption) ?_ | split | dsimp only

theorem execModeSetProcess_kept (h : Kept z s) (c : Crown) : KeptO z (execModeSetProcess c s) := by
  unfold execModeSetProcess
  repeat' first
    | (with_reducible first | assumption | apply KeptO.next | apply KeptO.ite | apply Kept.ite
                            | apply Kept.clearLanded | apply Kept.bumpF | apply Kept.setFusion | apply Kept.addF
                            | apply Kept.log)

theorem execTrackTablePublish_kept (h : Kept z s) (c : Crown) : KeptO z (execTrackTablePublish c s) := by
  unfold execTrackTablePublish
  repeat' first
    | (with_reducible first | assumption | apply KeptO.next | apply KeptO.ite | apply Kept.ite
                            | apply Kept.setFusion | apply Kept.localWrite)
    | refine Kept.of_eq (by assumption) ?_ | split | dsimp only

theorem Kept.fusLoad (h : Kept z s) (c : Crown) : Kept z (State.fusLoad s c) := by
  unfold State.fusLoad
  repeat' first
    | intro _
    | (with_reducible first | assumption | apply Kept.foldl | apply Kept.ite | apply Kept.setF)

theorem execFusTableRead_kept (h : Kept z s) (p : Path) (c : Crown) : KeptO z (execFusTableRead p c s) := by
  unfold execFusTableRead
  split
  · next e => exact .next ((h.deadRead _ _ _ e).putRd ..)
  · exact .next ((h.fusLoad ..).putRd ..)

theorem Kept.takeArp (h : Kept z s) (c : Crown) (p : Nat) (x : EthIn) : Kept z (State.takeArp s c p x) := by
  unfold State.takeArp
  repeat' first
    | (with_reducible first | assumption | apply Kept.ite | apply Kept.ethSend)

theorem Kept.sendReports (h : Kept z s) (c : Crown) (p : Nat) (vlan : Nat) (asked : Nat → Bool) : Kept z
    (State.sendReports s c p vlan asked) := by
  unfold State.sendReports
  repeat' first
    | (with_reducible first | assumption | apply Kept.ite | apply Kept.draw | apply Kept.ethSend)

theorem Kept.reportAll (h : Kept z s) (c : Crown) (p : Nat) : Kept z (State.reportAll s c p) := by
  unfold State.reportAll
  repeat' first
    | intro _
    | (with_reducible first | assumption | apply Kept.foldl | apply Kept.ite | apply Kept.sendReports)

theorem Kept.takeIcmp6 (h : Kept z s) (c : Crown) (p : Nat) (x : EthIn) (q : IpIn) : Kept z (State.takeIcmp6 s c p x
    q) := by
  unfold State.takeIcmp6
  repeat' first
    | (with_reducible first | assumption | apply Kept.ite | apply Kept.ethSend | apply Kept.sendReports)

theorem Kept.sendPtp (h : Kept z s) (p : Nat) (vlan : Nat) (port : Nat) (l : List Byte) : Kept z (State.sendPtp s p
    vlan port l) := by
  unfold State.sendPtp
  repeat' first
    | (with_reducible first | assumption | apply Kept.ite | apply Kept.ethSend | apply Kept.draw)
    | refine Kept.of_eq (by assumption) ?_ | split

theorem Kept.showUtc (h : Kept z s)  : Kept z (State.showUtc s) := by
  unfold State.showUtc
  repeat' first
    | (with_reducible first | assumption | apply Kept.ite | apply Kept.setF)

theorem Kept.selectMaster (h : Kept z s)  : Kept z (State.selectMaster s) := by
  unfold State.selectMaster
  repeat' first
    | intro _
    | (with_reducible first | assumption | apply Kept.foldl | apply Kept.ite | apply Kept.setF
                            | apply Kept.showUtc)
    | refine Kept.of_eq (by assumption) ?_ | split | dsimp only | with_reducible apply Kept.mk_same

theorem Kept.takeAnnounce (h : Kept z s) (p : Nat) (l : List Byte) : Kept z (State.takeAnnounce s p l) := by
  unfold State.takeAnnounce
  repeat' first
    | (with_reducible first | assumption | apply Kept.ite | apply Kept.selectMaster)
    | refine Kept.of_eq (by assumption) ?_ | split | dsimp only | with_reducible apply Kept.mk_same

theorem Kept.servoSample (h : Kept z s) (off : Int) : Kept z (State.servoSample s off) := by
  unfold State.servoSample
  repeat' first
    | (with_reducible first | assumption | apply Kept.ite | apply Kept.setF | apply Kept.setTaiFlags)
    | refine Kept.of_eq (by assumption) ?_ | split | dsimp only | with_reducible apply Kept.mk_same

theorem Kept.syncTimes (h : Kept z s) (p : Nat) (vlan : Nat) (t2 : Int) (t1 : Int) : Kept z (State.syncTimes s p vlan
    t2 t1) := by
  unfold State.syncTimes
  repeat' first
    | (with_reducible first | assumption | apply Kept.ite | apply Kept.servoSample | apply Kept.sendPtp)
    | refine Kept.of_eq (by assumption) ?_ | split | dsimp only | with_reducible apply Kept.mk_same

theorem Kept.takePtp (h : Kept z s) (p : Nat) (vlan : Nat) (l : List Byte) : Kept z (State.takePtp s p vlan l) := by
  unfold State.takePtp
  repeat' first
    | (with_reducible first | assumption | apply Kept.ite | apply Kept.syncTimes | apply Kept.sendPtp
                            | apply Kept.trip | apply Kept.takeAnnounce)
    | refine Kept.of_eq (by assumption) ?_ | split | dsimp only | with_reducible apply Kept.mk_same

theorem execPtpSyncTimeout_kept (h : Kept z s)  : KeptO z (execPtpSyncTimeout s) := by
  unfold execPtpSyncTimeout
  repeat' first
    | (with_reducible first | assumption | apply KeptO.next | apply KeptO.ite | apply Kept.ite
                            | apply Kept.setTaiFlags)
    | refine Kept.of_eq (by assumption) ?_ | split | dsimp only | with_reducible apply Kept.mk_same

theorem execLeapSecond_kept (h : Kept z s)  : KeptO z (execLeapSecond s) := by
  unfold execLeapSecond
  repeat' first
    | (with_reducible first | assumption | apply KeptO.next | apply KeptO.ite | apply Kept.ite
                            | apply Kept.showUtc)
    | refine Kept.of_eq (by assumption) ?_ | split | dsimp only | with_reducible apply Kept.mk_same

theorem Kept.reject (h : Kept z s) (c : Crown) (p : Nat) (stream : Option Nat) (cause : Nat) : Kept z (State.reject s
    c p stream cause) := by
  unfold State.reject
  repeat' first
    | (with_reducible first | assumption | apply Kept.ite | apply Kept.bumpF | apply Kept.setHost
                            | apply Kept.draw | apply Kept.log)
    | refine Kept.of_eq (by assumption) ?_ | split

theorem Kept.noteSeen (h : Kept z s) (c : Crown) (i : Nat) (v : Nat) : Kept z (State.noteSeen s c i v) := by
  unfold State.noteSeen
  repeat' first
    | (with_reducible first | assumption | apply Kept.ite | apply Kept.setHost)

theorem Kept.takeCfg2 (h : Kept z s) (c : Crown) (p : Nat) (i : Nat) (l : List Byte) : Kept z (State.takeCfg2 s c p i
    l) := by
  unfold State.takeCfg2
  repeat' first
    | (with_reducible first | assumption | apply Kept.ite | apply Kept.setHost | apply Kept.reject)

theorem Kept.takeData (h : Kept z s) (c : Crown) (p : Nat) (i : Nat) (l : List Byte) : Kept z (State.takeData s c p i
    l) := by
  unfold State.takeData
  repeat' first
    | (with_reducible first | assumption | apply Kept.ite | apply Kept.reject | apply Kept.draw
                            | apply Kept.noteSeen | apply Kept.bumpF | apply Kept.place)
    | refine Kept.of_eq (by assumption) ?_ | split

theorem Kept.takeC37 (h : Kept z s) (c : Crown) (p : Nat) (stream : Option Nat) (l : List Byte) : Kept z
    (State.takeC37 s c p stream l) := by
  unfold State.takeC37
  repeat' first
    | (with_reducible first | assumption | apply Kept.ite | apply Kept.reject | apply Kept.takeData
                            | apply Kept.setHost | apply Kept.takeCfg2)
    | refine Kept.of_eq (by assumption) ?_ | split

theorem Kept.takeTmf (h : Kept z s) (c : Crown) (p : Nat) (stream : Option Nat) (l : List Byte) : Kept z
    (State.takeTmf s c p stream l) := by
  unfold State.takeTmf
  repeat' first
    | intro _
    | (with_reducible first | assumption | apply Kept.foldl | apply Kept.ite | apply Kept.reject
                            | apply Kept.noteSeen | apply Kept.bumpF | apply Kept.place)
    | refine Kept.of_eq (by assumption) ?_ | split

theorem Kept.takeMeasure (h : Kept z s) (c : Crown) (p : Nat) (es : List Nat) (l : List Byte) : Kept z
    (State.takeMeasure s c p es l) := by
  unfold State.takeMeasure
  repeat' first
    | (with_reducible first | assumption | apply Kept.ite | apply Kept.takeTmf | apply Kept.takeC37)

theorem Kept.takeIp (h : Kept z s) (c : Crown) (p : Nat) (x : EthIn) (q : IpIn) : Kept z (State.takeIp s c p x q) := by
  unfold State.takeIp
  repeat' first
    | (with_reducible first | assumption | apply Kept.ite | apply Kept.bumpF | apply Kept.takeIcmp6
                            | apply Kept.sendReports | apply Kept.takePtp | apply Kept.takeMeasure)

theorem execEthFrameReceive_kept (h : Kept z s) (c : Crown) (p : Fin 4) (frame : List Byte) : KeptO z
    (execEthFrameReceive c p frame s) := by
  unfold execEthFrameReceive
  repeat' first
    | (with_reducible first | assumption | apply KeptO.next | apply KeptO.ite | apply Kept.ite
                            | apply Kept.bumpF | apply Kept.takeArp | apply Kept.takePtp | apply Kept.takeIp)
    | refine Kept.of_eq (by assumption) ?_ | split

theorem Kept.setLdgRec (h : Kept z s) (sp : Nat) (i : Nat) (v : Nat) : Kept z (State.setLdgRec s sp i v) := by
  unfold State.setLdgRec
  repeat' first
    | (with_reducible first | assumption | apply Kept.ite | apply Kept.setTbl)

theorem Kept.setLdgState (h : Kept z s) (v : Nat) : Kept z (State.setLdgState s v) := by
  unfold State.setLdgState
  repeat' first
    | (with_reducible first | assumption | apply Kept.ite | apply Kept.setF)

theorem Kept.ldgSum (h : Kept z s) (m : Nat × Nat × Nat) (a b : Nat) : Kept z (s.ldgSum m a b) := by
  unfold State.ldgSum
  exact .ite h (.mk_same h)

theorem Kept.ldgSettle (h : Kept z s) (b : Nat) : Kept z (s.ldgSettle b) := by
  unfold State.ldgSettle
  exact .mk_same (.ldgSum (.foldl _ (fun _ _ g => g.ldgSum ..) h) ..)

theorem Kept.closeAt (h : Kept z s) (b : Nat) (flags : Nat) (switched : Nat) : Kept z (State.closeAt s b flags
    switched) := by
  unfold State.closeAt
  repeat' first
    | (with_reducible first | assumption | apply Kept.ite | apply Kept.ldgSettle)
    | refine Kept.of_eq (by assumption) ?_ | split | dsimp only | with_reducible apply Kept.mk_same

theorem Kept.showCur (h : Kept z s)  : Kept z (State.showCur s) := by
  unfold State.showCur
  repeat' first
    | (with_reducible first | assumption | apply Kept.ite | apply Kept.set64)

theorem execIntervalClose_kept (h : Kept z s)  : KeptO z (execIntervalClose s) := by
  unfold execIntervalClose
  repeat' first
    | intro _
    | (with_reducible first | assumption | apply Kept.foldl | apply KeptO.next | apply KeptO.ite
                            | apply Kept.ite | apply Kept.closeAt | apply Kept.addF | apply Kept.showCur)
    | refine Kept.of_eq (by assumption) ?_ | split | dsimp only | with_reducible apply Kept.mk_same

theorem Kept.applyChange (h : Kept z s) (i : Nat) : Kept z (State.applyChange s i) := by
  unfold State.applyChange
  repeat' first
    | intro _
    | (with_reducible first | assumption | apply Kept.foldl | apply Kept.ite | apply Kept.setLdgRec)

theorem execTariffChangeEffect_kept (h : Kept z s)  : KeptO z (execTariffChangeEffect s) := by
  unfold execTariffChangeEffect
  repeat' first
    | intro _
    | (with_reducible first | assumption | apply Kept.foldl | apply KeptO.next | apply KeptO.ite
                            | apply Kept.ite | apply Kept.ldgSettle | apply Kept.applyChange | apply Kept.log)
    | refine Kept.of_eq (by assumption) ?_ | split | dsimp only | with_reducible apply Kept.mk_same

theorem execSetpointSetProcess_kept (h : Kept z s)  : KeptO z (execSetpointSetProcess s) := by
  unfold execSetpointSetProcess
  repeat' first
    | (with_reducible first | assumption | apply KeptO.next | apply KeptO.ite | apply Kept.ite
                            | apply Kept.clearLanded | apply Kept.bumpF)
    | refine Kept.of_eq (by assumption) ?_ | split | dsimp only | with_reducible apply Kept.mk_same

theorem Kept.applySet (h : Kept z s) (x : SetPt) : Kept z (State.applySet s x) := by
  unfold State.applySet
  repeat' first
    | intro _
    | (with_reducible first | assumption | apply Kept.foldl | apply Kept.ite)
    | refine Kept.of_eq (by assumption) ?_ | split | dsimp only | with_reducible apply Kept.mk_same

theorem execSetpointSetEffective_kept (h : Kept z s)  : KeptO z (execSetpointSetEffective s) := by
  unfold execSetpointSetEffective
  repeat' first
    | intro _
    | (with_reducible first | assumption | apply Kept.foldl | apply KeptO.next | apply KeptO.ite
                            | apply Kept.ite | apply Kept.ldgSettle | apply Kept.applySet)
    | refine Kept.of_eq (by assumption) ?_ | split | dsimp only | with_reducible apply Kept.mk_same

theorem execLedgerOpen_kept (h : Kept z s)  : KeptO z (execLedgerOpen s) := by
  unfold execLedgerOpen
  repeat' first
    | intro _
    | (with_reducible first | assumption | apply Kept.foldl | apply KeptO.next | apply KeptO.ite
                            | apply Kept.ite | apply Kept.applyChange | apply Kept.setLdgState | apply Kept.setF
                            | apply Kept.showCur)
    | refine Kept.of_eq (by assumption) ?_ | split | dsimp only | with_reducible apply Kept.mk_same

theorem Kept.framPut (h : Kept z s) (a : Nat) (l : List Byte) (bad : Option (List Byte)) : Kept z (s.framPut a l bad)
    := by
  have put (x : List Byte) : Kept z { s with fram := memPut s.fram a x } := { h with fram := fun hz => memPut_wf _ _ (h.fram hz) }
  unfold State.framPut
  split
  · exact put l
  · exact .ite ((((put _).log ..).bumpF ..).setF ..) (put _)

theorem Kept.startCommit (h : Kept z s) (bad : List (Nat × List Byte)) : Kept z (State.startCommit s bad) := by
  unfold State.startCommit
  repeat' first
    | intro _
    | (with_reducible first | assumption | apply Kept.foldl | apply Kept.ite | apply Kept.framPut)
    | refine Kept.of_eq (by assumption) ?_ | split | dsimp only | with_reducible apply Kept.mk_same

theorem execIntervalCommit_kept (h : Kept z s) (bad : List (Nat × List Byte)) : KeptO z (execIntervalCommit bad s) := by
  unfold execIntervalCommit
  repeat' first
    | (with_reducible first | assumption | apply KeptO.next | apply KeptO.ite | apply Kept.ite
                            | apply Kept.startCommit | apply Kept.closeAt | apply Kept.setLdgState)
    | refine Kept.of_eq (by assumption) ?_ | split | dsimp only | with_reducible apply Kept.mk_same

theorem execIntervalCommitDone_kept (h : Kept z s) (bad : Option (List Byte)) : KeptO z (execIntervalCommitDone bad s)
    := by
  unfold execIntervalCommitDone
  repeat' first
    | (with_reducible first | assumption | apply KeptO.next | apply KeptO.ite | apply Kept.ite
                            | apply Kept.framPut | apply Kept.setF | apply Kept.log)
    | refine Kept.of_eq (by assumption) ?_ | split | dsimp only | with_reducible apply Kept.mk_same

theorem execTableImageWrite_kept (h : Kept z s) (bad : List (Nat × List Byte)) : KeptO z (execTableImageWrite bad s)
    := by
  unfold execTableImageWrite
  repeat' first
    | intro _
    | (with_reducible first | assumption | apply Kept.foldl | apply KeptO.next | apply KeptO.ite
                            | apply Kept.ite | apply Kept.framPut)
    | refine Kept.of_eq (by assumption) ?_ | split | dsimp only | with_reducible apply Kept.mk_same

theorem execLedgerOutputCopy_kept (h : Kept z s)  : KeptO z (execLedgerOutputCopy s) := by
  unfold execLedgerOutputCopy
  repeat' first
    | (with_reducible first | assumption | apply KeptO.next | apply KeptO.ite | apply Kept.ite
                            | apply Kept.localWrite)
    | refine Kept.of_eq (by assumption) ?_ | split | dsimp only | with_reducible apply Kept.mk_same

theorem Kept.takeTables (h : Kept z s) (img : List Byte) : Kept z (State.takeTables s img) := by
  unfold State.takeTables
  repeat' first
    | intro _
    | (with_reducible first | assumption | apply Kept.foldl | apply Kept.ite | apply Kept.setLdgRec)

theorem Kept.torn (h : Kept z s)  : Kept z (State.torn s) := by
  unfold State.torn
  repeat' first
    | (with_reducible first | assumption | apply Kept.ite | apply Kept.log | apply Kept.setF)

theorem Kept.takeControl (h : Kept z s) (l : List Byte) : Kept z (State.takeControl s l) := by
  unfold State.takeControl
  repeat' first
    | intro _
    | (with_reducible first | assumption | apply Kept.foldl | apply Kept.ite | apply Kept.torn
                            | apply Kept.setF)
    | refine Kept.of_eq (by assumption) ?_ | split | dsimp only | with_reducible apply Kept.mk_same

theorem Kept.takeTableImage (h : Kept z s) (t : Nat) (img : List Byte) : Kept z (State.takeTableImage s t img) := by
  unfold State.takeTableImage
  repeat' first
    | (with_reducible first | assumption | apply Kept.ite | apply Kept.takeTables)
    | refine Kept.of_eq (by assumption) ?_ | split | dsimp only | with_reducible apply Kept.mk_same

theorem Kept.ldgTaken (h : Kept z s)  : Kept z (State.ldgTaken s) := by
  unfold State.ldgTaken
  repeat' first
    | (with_reducible first | assumption | apply Kept.ite | apply Kept.takeTableImage)
    | refine Kept.of_eq (by assumption) ?_ | split

theorem Kept.testFram (h : Kept z s) (ok : Bool) : Kept z (s.testFram ok) :=
  (h.draw 1024).withFram fun hz => memPut_wf _ _ ((h.draw 1024).fram hz)

theorem Kept.ldgStart (h : Kept z s) : Kept z s.ldgStart := by
  have g := h.testFram true
  unfold State.ldgStart
  generalize s.testFram true = t at g ⊢
  dsimp only
  generalize pickControl t.fram = c
  generalize pickTable t.fram = p
  have g1 := Kept.ite (c := c.2 = true) g.torn g
  refine .setLdgState (.mk_same (.ldgTaken ?_)) _
  have g2 : Kept z (match c.1 with
      | none => if c.2 = true then t.torn else t
      | some l => (if c.2 = true then t.torn else t).takeControl l) := by
    split
    · exact g1
    · exact g1.takeControl ..
  exact .ite g2.torn g2

theorem Kept.ldgStop (h : Kept z s)  : Kept z (State.ldgStop s) := by
  unfold State.ldgStop
  repeat' first
    | (with_reducible first | assumption | apply Kept.ite | apply Kept.closeAt | apply Kept.setLdgState
                            | apply Kept.setF)

theorem Kept.ldgLoad (h : Kept z s)  : Kept z (State.ldgLoad s) := by
  unfold State.ldgLoad
  repeat' first
    | intro _
    | (with_reducible first | assumption | apply Kept.foldl | apply Kept.ite | apply Kept.setF)

theorem execLdgTableRead_kept (h : Kept z s) (p : Path) : KeptO z (execLdgTableRead p s) := by
  unfold execLdgTableRead
  split
  · next e => exact .next ((h.deadRead _ _ _ e).putRd ..)
  · exact .next ((h.ldgLoad).putRd ..)

theorem Kept.ldgIndexWrite (h : Kept z s) (w : Nat) : Kept z (State.ldgIndexWrite s w) := by
  unfold State.ldgIndexWrite
  repeat' first
    | (with_reducible first | assumption | apply Kept.ite | apply Kept.setF)
    | refine Kept.of_eq (by assumption) ?_ | split | dsimp only | with_reducible apply Kept.mk_same

theorem execLdgFramReadStart_kept (h : Kept z s) (w : Word) : KeptO z (execLdgFramReadStart w s) := by
  unfold execLdgFramReadStart
  repeat' first
    | (with_reducible first | assumption | apply KeptO.next | apply KeptO.ite | apply Kept.ite
                            | apply Kept.ldgIndexWrite)

theorem execLdgFramReadDone_kept (h : Kept z s)  : KeptO z (execLdgFramReadDone s) := by
  unfold execLdgFramReadDone
  repeat' first
    | (with_reducible first | assumption | apply KeptO.next | apply KeptO.ite | apply Kept.ite
                            | apply Kept.setF)
    | refine Kept.of_eq (by assumption) ?_ | split | dsimp only | with_reducible apply Kept.mk_same

theorem execThermalShutdown_kept (h : Kept z s)  : KeptO z (execThermalShutdown s) := by
  unfold execThermalShutdown
  repeat' first
    | (with_reducible first | assumption | apply KeptO.next | apply KeptO.ite | apply Kept.ite | apply Kept.setF
                            | apply Kept.allOffBut | apply Kept.ldgStop)

theorem execLedgerHaltedCrfOff_kept (h : Kept z s)  : KeptO z (execLedgerHaltedCrfOff s) := by
  unfold execLedgerHaltedCrfOff
  repeat' first
    | (with_reducible first | assumption | apply KeptO.next | apply KeptO.ite | apply Kept.ite
                            | apply Kept.allOffBut)

end Sys2Proof.Machine
end

