-- ==== Sys2Proof/Laws/KeptConfig.lean ====
section
/-! SUPPORT. `Kept` for the operations and commands of enabling, start-up, change sets, images, trust and register access:
each keeps the queue, the clock and the canonical form. -/

namespace Sys2Proof.Machine

variable {z s t : State}

theorem Kept.leaveOff (h : Kept z s) (e : LinkEnd) : Kept z (State.leaveOff s e) := by
  unfold State.leaveOff
  repeat' first
    | intro _
    | (with_reducible first | assumption | apply Kept.foldl | apply Kept.ite | apply Kept.setRetired
                            | apply Kept.setLink | apply Kept.setF | apply Kept.toSt | apply Kept.assertFp)

theorem Kept.goOff (h : Kept z s) (e : LinkEnd) : Kept z (State.goOff s e) := by
  unfold State.goOff
  repeat' first
    | (with_reducible first | assumption | apply Kept.ite | apply Kept.endService | apply Kept.setLink
                            | apply Kept.toSt)

theorem Kept.showMaster (h : Kept z s)  : Kept z (State.showMaster s) := by
  unfold State.showMaster
  repeat' first
    | intro _
    | (with_reducible first | assumption | apply Kept.foldl | apply Kept.ite | apply Kept.setF)

theorem Kept.applyFlDrv (h : Kept z s) (c : Crown) : Kept z (State.applyFlDrv s c) := by
  unfold State.applyFlDrv
  repeat' first
    | (with_reducible first | assumption | apply Kept.ite)
    | refine Kept.of_eq (by assumption) ?_ | split | dsimp only | with_reducible apply Kept.mk_same

theorem Kept.applyPads (h : Kept z s) (c : Crown) : Kept z (State.applyPads s c) := by
  unfold State.applyPads
  repeat' first
    | (with_reducible first | assumption | apply Kept.ite | apply Kept.applyFlDrv)
    | refine Kept.of_eq (by assumption) ?_ | split | dsimp only | with_reducible apply Kept.mk_same

theorem Kept.enableEffect (h : Kept z s) (fn : Fn) (d : Die) (inst : Nat) (ok : Bool) : Kept z (State.enableEffect s
    fn d inst ok) := by
  unfold State.enableEffect
  repeat' first
    | intro _
    | (with_reducible first | assumption | apply Kept.ite | apply Kept.leaveOff | apply Kept.showMaster
                            | apply Kept.applyPads | apply Kept.showReserve | apply Kept.setDie
                            | apply Kept.setF | apply Kept.selectVariant | apply Kept.selectTrayVariant
                            | apply Kept.reportAll | apply Kept.showUtc | apply Kept.ldgStart)
    | refine Kept.of_eq (by assumption) ?_ | split | dsimp only | exact Nat.zero_le _ | refine Kept.log_le ?_ (by assumption) _ | with_reducible apply Kept.mk_same

theorem Kept.refuseOff (h : Kept z s) (b : Blk) (d : Die) (inst : Nat) : Kept z (State.refuseOff s b d inst) := by
  unfold State.refuseOff
  repeat' first
    | (with_reducible first | assumption | apply Kept.ite | apply Kept.log | apply Kept.refuseBlk
                            | apply Kept.lastReason | apply Kept.logAs | apply Kept.raise)

theorem Kept.enableFn (h : Kept z s) (fn : Fn) (d : Die) (inst : Nat) (ok : Bool) : Kept z (State.enableFn s fn d inst
    ok) := by
  unfold State.enableFn
  repeat' first
    | (with_reducible first | assumption | apply Kept.ite | apply Kept.refuseAbsent | apply Kept.refuseOff
                            | apply Kept.setF | apply Kept.testFram | apply Kept.refuse
                            | apply Kept.enableEffect)
    | refine Kept.of_eq (by assumption) ?_ | split | dsimp only

theorem execFunctionEnable_kept (h : Kept z s) (d : Die) (fn : Fn) (inst : Fin 4) (ok : Bool) : KeptO z
    (execFunctionEnable d fn inst ok s) := by
  unfold execFunctionEnable
  repeat' first
    | (with_reducible first | assumption | apply KeptO.next | apply KeptO.ite | apply Kept.ite
                            | apply Kept.enableFn)

theorem Kept.noteInForce (h : Kept z s) (fn : Fn) (d : Die) (inst : Nat) : Kept z (State.noteInForce s fn d inst) := by
  unfold State.noteInForce
  repeat' first
    | intro _
    | (with_reducible first | assumption | apply Kept.foldl | apply Kept.ite)
    | refine Kept.of_eq (by assumption) ?_ | split | dsimp only | with_reducible apply Kept.mk_same

theorem Kept.disableEffect (h : Kept z s) (fn : Fn) (d : Die) (inst : Nat) : Kept z (State.disableEffect s fn d inst)
    := by
  unfold State.disableEffect
  repeat' first
    | (with_reducible first | assumption | apply Kept.ite | apply Kept.goOff | apply Kept.showMaster
                            | apply Kept.setF | apply Kept.ldgStop)
    | refine Kept.of_eq (by assumption) ?_ | split | dsimp only | with_reducible apply Kept.mk_same

theorem Kept.clearFn (h : Kept z s) (fn : Fn) (d : Die) (inst : Nat) : Kept z (State.clearFn s fn d inst) := by
  unfold State.clearFn
  repeat' first
    | (with_reducible first | assumption | apply Kept.ite | apply Kept.noteInForce | apply Kept.disableEffect
                            | apply Kept.setF)

theorem Kept.disableFn (h : Kept z s) (fn : Fn) (d : Die) (inst : Nat) : Kept z (State.disableFn s fn d inst) := by
  unfold State.disableFn
  repeat' first
    | (with_reducible first | assumption | apply Kept.ite | apply Kept.refuse | apply Kept.clearFn)

theorem execFunctionDisable_kept (h : Kept z s) (d : Die) (fn : Fn) (inst : Fin 4) : KeptO z (execFunctionDisable d fn
    inst s) := by
  unfold execFunctionDisable
  repeat' first
    | (with_reducible first | assumption | apply KeptO.next | apply KeptO.ite | apply Kept.ite
                            | apply Kept.disableFn)

theorem Kept.putRec (h : Kept z s) (key : Nat) (v : Nat) : Kept z (State.putRec s key v) := by
  unfold State.putRec
  repeat' first
    | (with_reducible first | assumption | apply Kept.ite | apply Kept.addF | apply Kept.setGrp
                            | apply Kept.setTbl | apply Kept.setCoef | apply Kept.gainReset)
    | refine Kept.of_eq (by assumption) ?_ | split | dsimp only | with_reducible apply Kept.mk_same

theorem Kept.storeRec (h : Kept z s) (now : Bool) (key : Nat) (v : Nat) : Kept z (State.storeRec s now key v) := by
  unfold State.storeRec
  repeat' first
    | (with_reducible first | assumption | apply Kept.ite | apply Kept.putRec | apply Kept.bumpF)
    | refine Kept.of_eq (by assumption) ?_ | split | dsimp only | with_reducible apply Kept.mk_same

theorem Kept.fusTblWrite (h : Kept z s) (c : Crown) (k : Nat) (w : Nat) (now : Bool) : Kept z (State.fusTblWrite s c k
    w now) := by
  unfold State.fusTblWrite
  repeat' first
    | (with_reducible first | assumption | apply Kept.ite | apply Kept.setF | apply Kept.storeRec
                            | apply Kept.setTbl)
    | refine Kept.of_eq (by assumption) ?_ | split | dsimp only

theorem Kept.ldgTblWrite (h : Kept z s) (k : Nat) (w : Nat) (now : Bool) : Kept z (State.ldgTblWrite s k w now) := by
  unfold State.ldgTblWrite
  repeat' first
    | (with_reducible first | assumption | apply Kept.ite | apply Kept.setF | apply Kept.storeRec)

theorem execFusTableWrite_kept (h : Kept z s) (c : Crown) (w : Word) : KeptO z (execFusTableWrite c w s) := by
  unfold execFusTableWrite
  repeat' first
    | (with_reducible first | assumption | apply KeptO.next | apply KeptO.ite | apply Kept.ite
                            | apply Kept.fusTblWrite)

theorem execLdgTableWrite_kept (h : Kept z s) (w : Word) : KeptO z (execLdgTableWrite w s) := by
  unfold execLdgTableWrite
  repeat' first
    | (with_reducible first | assumption | apply KeptO.next | apply KeptO.ite | apply Kept.ite
                            | apply Kept.ldgTblWrite)

theorem Kept.haltBoot (h : Kept z s) (rc : Nat) : Kept z (State.haltBoot s rc) := by
  unfold State.haltBoot
  repeat' first
    | (with_reducible first | assumption | apply Kept.ite | apply Kept.setF | apply Kept.allOffBut
                            | apply Kept.setPhase)
    | refine Kept.of_eq (by assumption) ?_ | split | dsimp only | with_reducible apply Kept.mk_same

theorem Kept.newNonce (h : Kept z s)  : Kept z (State.newNonce s) := by
  unfold State.newNonce
  repeat' first
    | intro _
    | (with_reducible first | assumption | apply Kept.foldl | apply Kept.ite | apply Kept.draw
                            | apply Kept.setF)

theorem Kept.resetCr0 (h : Kept z s) : Kept z s.resetCr0 := by
  unfold State.resetCr0
  generalize List.foldl _ s.boot.monAt [0, 2, 3] = mon
  generalize s.getF cr0 .boot 0 Reg.BOOT_MON_BAND % 4 = v1
  generalize s.getF cr0 .boot 0 Reg.BOOT_MON_GOOD / 2 % 2 * 2 = v2
  dsimp only
  refine .newNonce (.setF (.setF (.setF (.setDie (.setF (.setF ?_ ..) ..) _ _ fun hz => ?_) ..) ..) ..)
  · exact ⟨h.queue, h.clock, h.free, fun _ => rfl, h.fram, fun _ => rfl, fun hz => Tab.rising_filter _ (h.regs hz),
      fun _ _ hp => nomatch hp⟩
  · exact h.log_le hz _

theorem Kept.resetCr1 (h : Kept z s) : Kept z s.resetCr1 := by
  have g := ((h.domainOff 15).domainOff 14).showLedgerOnly
  unfold State.resetCr1
  refine .setF ?_ ..
  exact g.parts rfl rfl (Nat.le_refl _) g.mem g.fram g.poison (fun hz => Tab.rising_filter _ (g.regs hz))
    fun hz p hp => g.logs hz p (Tab.mem_erase hp)

theorem execPowerOnReset_kept (h : Kept z s) (c : Crown) : KeptO z (execPowerOnReset c s) := by
  unfold execPowerOnReset
  repeat' first
    | (with_reducible first | assumption | apply KeptO.next | apply KeptO.ite | apply Kept.ite
                            | apply Kept.resetCr0 | apply Kept.resetCr1)

theorem Kept.sampleStraps (h : Kept z s) (variant : Fin 4) (pkg : Fin 16) (refSel : Bool) : Kept z (State.sampleStraps
    s variant pkg refSel) := by
  unfold State.sampleStraps
  repeat' first
    | (with_reducible first | assumption | apply Kept.ite | apply Kept.setF | apply Kept.log
                            | apply Kept.haltBoot | apply Kept.endStep | apply Kept.setPhase)
    | refine Kept.of_eq (by assumption) ?_ | split | dsimp only | with_reducible apply Kept.mk_same

theorem Kept.tryT0 (h : Kept z s) (variant : Fin 4) (pkg : Fin 16) (refSel : Bool) (pfLow : Bool) : Kept z
    (State.tryT0 s variant pkg refSel pfLow) := by
  unfold State.tryT0
  repeat' first
    | (with_reducible first | assumption | apply Kept.ite | apply Kept.sampleStraps)
    | refine Kept.of_eq (by assumption) ?_ | split | dsimp only | with_reducible apply Kept.mk_same

theorem execMonitorGood_kept (h : Kept z s) (m : Monitor) (mv : Nat) (variant : Fin 4) (pkg : Fin 16) (refSel : Bool)
    (pfLow : Bool) : KeptO z (execMonitorGood m mv variant pkg refSel pfLow s) := by
  unfold execMonitorGood
  repeat' first
    | (with_reducible first | assumption | apply KeptO.next | apply KeptO.ite | apply Kept.ite | apply Kept.setF
                            | apply Kept.log | apply Kept.endStep | apply Kept.setPhase | apply Kept.tryT0)

theorem execPwrFailRelease_kept (h : Kept z s) (variant : Fin 4) (pkg : Fin 16) (refSel : Bool) : KeptO z
    (execPwrFailRelease variant pkg refSel s) := by
  unfold execPwrFailRelease
  repeat' first
    | (with_reducible first | assumption | apply KeptO.next | apply KeptO.ite | apply Kept.ite
                            | apply Kept.sampleStraps)

theorem execMonitorNotGood_kept (h : Kept z s) (m : Monitor) (mv : Nat) : KeptO z (execMonitorNotGood m mv s) := by
  unfold execMonitorNotGood
  repeat' first
    | (with_reducible first | assumption | apply KeptO.next | apply KeptO.ite | apply Kept.ite
                            | apply Kept.setF)
    | refine Kept.of_eq (by assumption) ?_ | split | dsimp only | with_reducible apply Kept.mk_same

theorem execMonitorBandTimeout_kept (h : Kept z s) (m : Monitor) (mv : Nat) : KeptO z (execMonitorBandTimeout m mv s)
    := by
  unfold execMonitorBandTimeout
  repeat' first
    | (with_reducible first | assumption | apply KeptO.next | apply KeptO.ite | apply Kept.ite | apply Kept.setF
                            | apply Kept.log)

theorem Kept.refFails (h : Kept z s)  : Kept z (State.refFails s) := by
  unfold State.refFails
  repeat' first
    | (with_reducible first | assumption | apply Kept.ite | apply Kept.log | apply Kept.haltBoot)

theorem execReferenceDetect_kept (h : Kept z s)  : KeptO z (execReferenceDetect s) := by
  unfold execReferenceDetect
  repeat' first
    | intro _
    | (with_reducible first | assumption | apply Kept.foldl | apply KeptO.next | apply KeptO.ite
                            | apply Kept.ite | apply Kept.refFails | apply Kept.setF)
    | refine Kept.of_eq (by assumption) ?_ | split | dsimp only | with_reducible apply Kept.mk_same

theorem execReferenceTimeout_kept (h : Kept z s)  : KeptO z (execReferenceTimeout s) := by
  unfold execReferenceTimeout
  repeat' first
    | (with_reducible first | assumption | apply KeptO.next | apply KeptO.ite | apply Kept.ite
                            | apply Kept.refFails)

theorem Kept.pllFails (h : Kept z s) (d : Die) : Kept z (State.pllFails s d) := by
  unfold State.pllFails
  repeat' first
    | (with_reducible first | assumption | apply Kept.ite | apply Kept.logAs | apply Kept.haltBoot)

theorem execPllLock_kept (h : Kept z s) (d : Die) : KeptO z (execPllLock d s) := by
  unfold execPllLock
  repeat' first
    | intro _
    | (with_reducible first | assumption | apply KeptO.next | apply KeptO.ite | apply Kept.ite
                            | apply Kept.pllFails | apply Kept.setF | apply Kept.setDie | apply Kept.endStep
                            | apply Kept.setPhase)
    | refine Kept.of_eq (by assumption) ?_ | split | dsimp only | exact Nat.zero_le _ | refine Kept.log_le ?_ (by assumption) _

theorem execPllLockTimeout_kept (h : Kept z s) (d : Die) : KeptO z (execPllLockTimeout d s) := by
  unfold execPllLockTimeout
  repeat' first
    | (with_reducible first | assumption | apply KeptO.next | apply KeptO.ite | apply Kept.ite
                            | apply Kept.pllFails)

theorem execFlashDiscover_kept (h : Kept z s) (f : Option FlashInfo) : KeptO z (execFlashDiscover f s) := by
  unfold execFlashDiscover
  repeat' first
    | (with_reducible first | assumption | apply KeptO.next | apply KeptO.ite | apply Kept.ite | apply Kept.log
                            | apply Kept.haltBoot | apply Kept.setF)
    | refine Kept.of_eq (by assumption) ?_ | split | dsimp only | with_reducible apply Kept.mk_same

theorem Kept.noteReserved (h : Kept z s) (row : RegRow) (addr : Nat) (w : Nat) : Kept z (State.noteReserved s row addr
    w) := by
  unfold State.noteReserved
  repeat' first
    | (with_reducible first | assumption | apply Kept.ite)
    | refine Kept.of_eq (by assumption) ?_ | split | dsimp only | with_reducible apply Kept.mk_same

theorem Kept.recField (h : Kept z s) (p : Place) (w : Nat) (f : Fld) : Kept z (State.recField s p w f) := by
  unfold State.recField
  repeat' first
    | (with_reducible first | assumption | apply Kept.ite | apply Kept.setF | apply Kept.clearFn)
    | refine Kept.of_eq (by assumption) ?_ | split

theorem Kept.recPort (h : Kept z s) (p : Place) (w : Nat) (now : Bool) : Kept z (State.recPort s p w now) := by
  unfold State.recPort
  repeat' first
    | (with_reducible first | assumption | apply Kept.ite | apply Kept.schedWrite | apply Kept.fusTblWrite
                            | apply Kept.ldgTblWrite | apply Kept.ldgIndexWrite)
    | refine Kept.of_eq (by assumption) ?_ | split

theorem Kept.applyEntry (h : Kept z s) (sel : Die → Blk → Bool) (e : Nat × Nat) : Kept z (State.applyEntry s sel e) :=
    by
  unfold State.applyEntry
  repeat' first
    | intro _
    | (with_reducible first | assumption | apply Kept.foldl | apply Kept.ite | apply Kept.recField
                            | apply Kept.recPort | apply Kept.noteReserved)
    | refine Kept.of_eq (by assumption) ?_ | split

theorem Kept.applyRecord (h : Kept z s) (sel : Die → Blk → Bool) : Kept z (State.applyRecord s sel) := by
  unfold State.applyRecord
  repeat' first
    | intro _
    | (with_reducible first | assumption | apply Kept.foldl | apply Kept.ite | apply Kept.applyEntry)

theorem Kept.logSkipped (h : Kept z s)  : Kept z (State.logSkipped s) := by
  unfold State.logSkipped
  repeat' first
    | (with_reducible first | assumption | apply Kept.ite | apply Kept.log)
    | refine Kept.of_eq (by assumption) ?_ | split

theorem Kept.iklDefaults (h : Kept z s) (d : Die) : Kept z (State.iklDefaults s d) := by
  unfold State.iklDefaults
  repeat' first
    | intro _
    | (with_reducible first | assumption | apply Kept.foldl | apply Kept.ite | apply Kept.setF)

theorem Kept.recEnable (h : Kept z s) (fn : Fn) (d : Die) (inst : Nat) (ok : Bool) : Kept z (State.recEnable s fn d
    inst ok) := by
  unfold State.recEnable
  repeat' first
    | (with_reducible first | assumption | apply Kept.ite | apply Kept.enableFn)

theorem Kept.enableLinks (h : Kept z s) (d : Die) : Kept z (State.enableLinks s d) := by
  unfold State.enableLinks
  repeat' first
    | intro _
    | (with_reducible first | assumption | apply Kept.foldl | apply Kept.ite | apply Kept.recEnable)

theorem Kept.rcvOn (h : Kept z s) (d : Die) : Kept z (State.rcvOn s d) := by
  unfold State.rcvOn
  repeat' first
    | (with_reducible first | assumption | apply Kept.ite | apply Kept.enableFn)

theorem Kept.endVerify (h : Kept z s) : Kept z s.endVerify := by
  unfold State.endVerify
  repeat' first
    | intro _
    | (with_reducible first | assumption | apply Kept.ite | apply Kept.haltBoot | apply Kept.bootAdvance
                            | apply Kept.nextDomain | apply Kept.setPhase | apply Kept.endStep
                            | apply Kept.recEnable | apply Kept.foldl | apply Kept.rcvOn | apply Kept.logSkipped
                            | apply Kept.applyRecord | apply Kept.setF)
    | with_reducible apply Kept.mk_same

theorem Kept.pickRecord (h : Kept z s) (a : List Byte) (b : List Byte) : Kept z (State.pickRecord s a b).2 := by
  unfold State.pickRecord
  repeat' first
    | (with_reducible first | assumption | apply Kept.ite | apply Kept.ite_snd | apply Kept.logFault
                            | apply Kept.log | apply Kept.setF)
    | refine Kept.of_eq (by assumption) ?_ | split | dsimp only

theorem Kept.cr1Fault (h : Kept z s) (rc : Nat) : Kept z (State.cr1Fault s rc) := by
  unfold State.cr1Fault
  repeat' first
    | (with_reducible first | assumption | apply Kept.ite | apply Kept.log)

theorem Kept.cr1Bundle (h : Kept z s) (fw : List Byte) (cr1fw : List Byte) : Kept z (State.cr1Bundle s fw cr1fw).2 := by
  unfold State.cr1Bundle
  repeat' first
    | (with_reducible first | assumption | apply Kept.ite | apply Kept.ite_snd | apply Kept.cr1Fault)
    | refine Kept.of_eq (by assumption) ?_ | split | dsimp only | with_reducible apply Kept.mk_same

theorem Kept.setAddr (h : Kept z s) (p : PortAddr) : Kept z (State.setAddr s p) := by
  unfold State.setAddr
  repeat' first
    | (with_reducible first | assumption | apply Kept.ite | apply Kept.setHost)

theorem execFlashPass_kept (h : Kept z s) (copyA copyB fw seedBytes cr1fw cr1Seeds : List Byte) (ports : List
    PortAddr) :
    KeptO z (execFlashPass copyA copyB fw seedBytes cr1fw cr1Seeds ports s) := by
  unfold execFlashPass
  refine .ite (.next h) ?_
  dsimp only
  have g := ((h.endStep 4).setPhase 4).pickRecord copyA copyB
  generalize ((s.endStep 4).setPhase 4).pickRecord copyA copyB = q at g ⊢
  obtain ⟨o, s2⟩ := q
  cases o with
  | none => exact .next (g.haltBoot ..)
  | some r =>
    dsimp only at g ⊢
    split
    · exact .next ((g.logFault ..).haltBoot ..)
    · have g3 := ((g.noteVersion r).noteVersion fw).setF cr0 .boot 0 Reg.BOOT_FLASH_CR1_FLASH
        (b2n (bit ((oBody r).getD 4 0).toNat 0)) 0
      generalize ((s2.noteVersion r).noteVersion fw).setF cr0 .boot 0 Reg.BOOT_FLASH_CR1_FLASH
        (b2n (bit ((oBody r).getD 4 0).toNat 0)) 0 = s3 at g3 ⊢
      generalize seedArea seedBytes ++ _ = seeds
      generalize topoOf _ = topo
      generalize List.map _ (List.filter _ (entriesOf (oBody r))) = own
      generalize List.take _ fw = fwb
      have g4 := Kept.cr1Bundle (s := { s3 with seeds := seeds, topo := topo, boot := { s3.boot with record := own, fw := fwb } })
        (.mk_same g3) fw cr1fw
      split
      · next e => exact .next ((Kept.of_eq e g4).haltBoot ..)
      · next e => exact .next (.endVerify (.foldl _ (fun _ _ k => k.setAddr ..) (Kept.of_eq e g4)))

theorem Kept.linkUp (h : Kept z s) (c : Crown) (width : Nat) (speed : Nat) : Kept z (State.linkUp s c width speed) := by
  unfold State.linkUp
  repeat' first
    | (with_reducible first | assumption | apply Kept.ite | apply Kept.setF)

theorem Kept.crxOn (h : Kept z s) (c : Crown) (ok : Bool) : Kept z (State.crxOn s c ok) := by
  unfold State.crxOn
  repeat' first
    | intro _
    | (with_reducible first | assumption | apply Kept.foldl | apply Kept.ite | apply Kept.recEnable
                            | apply Kept.setHost | apply Kept.draw | apply Kept.linkUp)

theorem Kept.mvlOn (h : Kept z s) (d : Die) : Kept z (State.mvlOn s d) := by
  unfold State.mvlOn
  repeat' first
    | intro _
    | (with_reducible first | assumption | apply Kept.ite | apply Kept.setF | apply Kept.setDie
                            | apply Kept.rcvOn | apply Kept.enableLinks | apply Kept.recEnable
                            | apply Kept.showMaster)
    | refine Kept.of_eq (by assumption) ?_ | split | dsimp only | exact Nat.zero_le _ | refine Kept.log_le ?_ (by assumption) _

theorem Kept.domainIsOn (h : Kept z s) (k : Domain) (ok : Bool) : Kept z (State.domainIsOn s k ok) := by
  unfold State.domainIsOn
  repeat' first
    | intro _
    | (with_reducible first | assumption | apply Kept.foldl | apply Kept.ite | apply Kept.dropRegs
                            | apply Kept.setF | apply Kept.showLedgerOnly | apply Kept.loadFuseMaps
                            | apply Kept.iklDefaults | apply Kept.applyRecord | apply Kept.mvlOn
                            | apply Kept.crxOn)
    | refine Kept.of_eq (by assumption) ?_ | split | dsimp only

theorem execDomainOn_kept (h : Kept z s) (ok : Bool) : KeptO z (execDomainOn ok s) := by
  unfold execDomainOn
  repeat' first
    | (with_reducible first | assumption | apply KeptO.next | apply KeptO.ite | apply Kept.ite
                            | apply Kept.domainIsOn | apply Kept.nextDomain | apply Kept.bootAdvance)
    | refine Kept.of_eq (by assumption) ?_ | split | dsimp only | with_reducible apply Kept.mk_same

theorem Kept.domRequest (h : Kept z s) (on : Nat) : Kept z (State.domRequest s on) := by
  unfold State.domRequest
  repeat' first
    | intro _
    | (with_reducible first | assumption | apply Kept.foldl | apply Kept.ite | apply Kept.refusePwr
                            | apply Kept.domainOff | apply Kept.setF | apply Kept.showLedgerOnly
                            | apply Kept.nextDomain)
    | refine Kept.of_eq (by assumption) ?_ | split | dsimp only | with_reducible apply Kept.mk_same

theorem execDomainSwitchRequest_kept (h : Kept z s) (w : BitVec 16) : KeptO z (execDomainSwitchRequest w s) := by
  unfold execDomainSwitchRequest
  repeat' first
    | (with_reducible first | assumption | apply KeptO.next | apply KeptO.ite | apply Kept.ite
                            | apply Kept.domRequest)

theorem execPerstDeassert_kept (h : Kept z s) (c : Crown) (width : Fin 8) (speed : Fin 8) : KeptO z (execPerstDeassert
    c width speed s) := by
  unfold execPerstDeassert
  repeat' first
    | (with_reducible first | assumption | apply KeptO.next | apply KeptO.ite | apply Kept.ite
                            | apply Kept.setHost | apply Kept.linkUp)

theorem Kept.placeFw (h : Kept z s) (d : Die) : Kept z (State.placeFw s d) := by
  unfold State.placeFw
  repeat' first
    | (with_reducible first | assumption | apply Kept.ite | apply Kept.wrBytes)

theorem execHbmTrainingDone_kept (h : Kept z s) (m : Mv) (stack : Fin 2) (ok : Bool) : KeptO z (execHbmTrainingDone m
    stack ok s) := by
  unfold execHbmTrainingDone
  repeat' first
    | (with_reducible first | assumption | apply KeptO.next | apply KeptO.ite | apply Kept.ite | apply Kept.setF
                            | apply Kept.placeFw | apply Kept.recEnable | apply Kept.bootAdvance
                            | apply Kept.logAs | apply Kept.haltBoot)
    | refine Kept.of_eq (by assumption) ?_ | split | dsimp only | with_reducible apply Kept.mk_same

theorem execFlashPassResume_kept (h : Kept z s) (image : List Byte) : KeptO z (execFlashPassResume image s) := by
  unfold execFlashPassResume
  repeat' first
    | intro _
    | (with_reducible first | assumption | apply Kept.foldl | apply KeptO.next | apply KeptO.ite
                            | apply Kept.ite | apply Kept.setF | apply Kept.applyFlDrv | apply Kept.wrBytes
                            | apply Kept.logFault | apply Kept.bootAdvance)
    | refine Kept.of_eq (by assumption) ?_ | split | dsimp only | with_reducible apply Kept.mk_same

theorem execStartWindowEnd_kept (h : Kept z s) (c : Crown) : KeptO z (execStartWindowEnd c s) := by
  unfold execStartWindowEnd
  repeat' first
    | intro _
    | (with_reducible first | assumption | apply Kept.foldl | apply KeptO.next | apply KeptO.ite
                            | apply Kept.ite | apply Kept.logLink | apply Kept.setF | apply Kept.showMaster
                            | apply Kept.nextDomain | apply Kept.bootAdvance)
    | refine Kept.of_eq (by assumption) ?_ | split | dsimp only | with_reducible apply Kept.mk_same

theorem Kept.restart (h : Kept z s)  : Kept z (State.restart s) := by
  unfold State.restart
  repeat' first
    | intro _
    | (with_reducible first | assumption | apply Kept.foldl | apply Kept.ite | apply Kept.allOffBut
                            | apply Kept.setF | apply Kept.setDie | apply Kept.setPhase)
    | refine Kept.of_eq (by assumption) ?_ | split | dsimp only | exact Nat.zero_le _ | refine Kept.log_le ?_ (by assumption) _ | with_reducible apply Kept.mk_same

theorem Kept.restartWrite (h : Kept z s)  : Kept z (State.restartWrite s) := by
  unfold State.restartWrite
  repeat' first
    | (with_reducible first | assumption | apply Kept.ite | apply Kept.refuse | apply Kept.restart)

theorem execRestart_kept (h : Kept z s)  : KeptO z (execRestart s) := by
  unfold execRestart
  repeat' first
    | (with_reducible first | assumption | apply KeptO.next | apply KeptO.ite | apply Kept.ite
                            | apply Kept.restartWrite)

theorem Kept.putField (h : Kept z s) (m : Nat × Nat) : Kept z (State.putField s m) := by
  unfold State.putField
  repeat' first
    | (with_reducible first | assumption | apply Kept.ite | apply Kept.setF)
    | refine Kept.of_eq (by assumption) ?_ | split

theorem Kept.setPart (h : Kept z s) (d : Die) (p : Option Part) : Kept z (State.setPart s d p) := by
  unfold State.setPart
  repeat' first
    | (with_reducible first | assumption | apply Kept.ite | apply Kept.setF)
    | refine Kept.of_eq (by assumption) ?_ | split | dsimp only | with_reducible apply Kept.mk_same

theorem Kept.showArm (h : Kept z s) (x : Fn × Die × Nat) (rc : Option Nat) : Kept z (State.showArm s x rc) := by
  unfold State.showArm
  repeat' first
    | (with_reducible first | assumption | apply Kept.ite | apply Kept.setF)

theorem Kept.freeze (h : Kept z s) (d : Die) (hackLen : Nat) (turn : Nat) : Kept z (State.freeze s d hackLen turn).2.2
    := by
  unfold State.freeze
  repeat' first
    | intro _
    | (with_reducible first | assumption | apply Kept.foldl | apply Kept.ite | apply Kept.ite_snd
                            | apply Kept.showArm | apply Kept.setPart)

theorem Kept.armTo (h : Kept z s) (d : Die) (op : Nat) (m : ArmMsg) : Kept z (State.armTo s d op m) := by
  unfold State.armTo
  repeat' first
    | (with_reducible first | assumption | apply Kept.ite | apply Kept.sbSend)
    | refine Kept.of_eq (by assumption) ?_ | split

theorem Kept.armReply (h : Kept z s) (d : Die) (m : ArmMsg) : Kept z (State.armReply s d m) := by
  unfold State.armReply
  repeat' first
    | (with_reducible first | assumption | apply Kept.ite | apply Kept.sbSend)
    | refine Kept.of_eq (by assumption) ?_ | split

theorem Kept.armDies (h : Kept z s) (op : Nat) : Kept z (State.armDies s op) := by
  unfold State.armDies
  repeat' first
    | intro _
    | (with_reducible first | assumption | apply Kept.foldl | apply Kept.ite | apply Kept.armTo)

theorem Kept.armTray (h : Kept z s) (op : Nat) : Kept z (State.armTray s op) := by
  unfold State.armTray
  repeat' first
    | intro _
    | (with_reducible first | assumption | apply Kept.foldl | apply Kept.ite | apply Kept.sbSend)

theorem Kept.armUp (h : Kept z s) (m : ArmMsg) : Kept z (State.armUp s m) := by
  unfold State.armUp
  repeat' first
    | (with_reducible first | assumption | apply Kept.ite | apply Kept.sbSend)
    | refine Kept.of_eq (by assumption) ?_ | split

theorem Kept.takeConfirm (h : Kept z s) (d : Die) (cls : Nat) (bad : Option Nat) : Kept z (State.takeConfirm s d cls
    bad) := by
  unfold State.takeConfirm
  repeat' first
    | (with_reducible first | assumption | apply Kept.ite | apply Kept.setF)
    | refine Kept.of_eq (by assumption) ?_ | split | dsimp only | with_reducible apply Kept.mk_same

theorem Kept.beginSet (h : Kept z s) (c : ChgSt) (needed : Nat) : Kept z (State.beginSet s c needed) := by
  unfold State.beginSet
  repeat' first
    | (with_reducible first | assumption | apply Kept.ite | apply Kept.setF | apply Kept.armDies
                            | apply Kept.freeze | apply Kept.takeConfirm)
    | refine Kept.of_eq (by assumption) ?_ | split | dsimp only | with_reducible apply Kept.mk_same

theorem Kept.armGo (h : Kept z s)  : Kept z (State.armGo s) := by
  unfold State.armGo
  repeat' first
    | (with_reducible first | assumption | apply Kept.ite | apply Kept.refuseBlk | apply Kept.setF
                            | apply Kept.showArm | apply Kept.set64 | apply Kept.beginSet)
    | refine Kept.of_eq (by assumption) ?_ | split | dsimp only

theorem Kept.abortSet (h : Kept z s) (rc : Nat) : Kept z (State.abortSet s rc) := by
  unfold State.abortSet
  repeat' first
    | (with_reducible first | assumption | apply Kept.ite | apply Kept.refuseBlk | apply Kept.setF
                            | apply Kept.armDies | apply Kept.setPart | apply Kept.armTray)
    | refine Kept.of_eq (by assumption) ?_ | split | dsimp only | with_reducible apply Kept.mk_same

theorem Kept.clearStage (h : Kept z s)  : Kept z (State.clearStage s) := by
  unfold State.clearStage
  repeat' first
    | intro _
    | (with_reducible first | assumption | apply Kept.foldl | apply Kept.ite | apply Kept.setF)

theorem Kept.armDiscard (h : Kept z s)  : Kept z (State.armDiscard s) := by
  unfold State.armDiscard
  repeat' first
    | (with_reducible first | assumption | apply Kept.ite | apply Kept.clearStage | apply Kept.armUp
                            | apply Kept.abortSet)
    | refine Kept.of_eq (by assumption) ?_ | split | dsimp only | with_reducible apply Kept.mk_same

theorem Kept.armWrite (h : Kept z s) (w : Nat) : Kept z (State.armWrite s w) := by
  unfold State.armWrite
  repeat' first
    | (with_reducible first | assumption | apply Kept.ite | apply Kept.setF | apply Kept.armDiscard
                            | apply Kept.armGo)

theorem execArmGo_kept (h : Kept z s) (w : Word) : KeptO z (execArmGo w s) := by
  unfold execArmGo
  repeat' first
    | (with_reducible first | assumption | apply KeptO.next | apply KeptO.ite | apply Kept.ite
                            | apply Kept.armWrite)

theorem execArmDiscard_kept (h : Kept z s) (w : Word) : KeptO z (execArmDiscard w s) := by
  unfold execArmDiscard
  repeat' first
    | (with_reducible first | assumption | apply KeptO.next | apply KeptO.ite | apply Kept.ite
                            | apply Kept.armWrite)

theorem Kept.armTakes (h : Kept z s) (e : LinkEnd) (r : SbSlot) (op : Nat) : Kept z (State.armTakes s e r op).2 := by
  unfold State.armTakes
  repeat' first
    | (with_reducible first | assumption | apply Kept.ite | apply Kept.ite_snd | apply Kept.sbTakes
                            | apply Kept.sbTake)
    | refine Kept.of_eq (by assumption) ?_ | split

theorem Kept.armFromTray (h : Kept z s) (m : ArmMsg) : Kept z (State.armFromTray s m) := by
  unfold State.armFromTray
  repeat' first
    | (with_reducible first | assumption | apply Kept.ite | apply Kept.beginSet | apply Kept.armTray)

theorem execArm_kept (h : Kept z s) (e : LinkEnd) (r : SbSlot) : KeptO z (execArm e r s) := by
  unfold execArm
  repeat' first
    | (with_reducible first | assumption | apply KeptO.next | apply KeptO.ite | apply Kept.ite
                            | apply Kept.armTakes | apply Kept.sbSend | apply Kept.armFromTray
                            | apply Kept.freeze | apply Kept.armReply)
    | refine Kept.of_eq (by assumption) ?_ | split

theorem Kept.takePkgConfirm (h : Kept z s) (m : ArmMsg) : Kept z (State.takePkgConfirm s m) := by
  unfold State.takePkgConfirm
  repeat' first
    | (with_reducible first | assumption | apply Kept.ite | apply Kept.setF)
    | refine Kept.of_eq (by assumption) ?_ | split | dsimp only | with_reducible apply Kept.mk_same

theorem execConfirm_kept (h : Kept z s) (e : LinkEnd) (r : SbSlot) : KeptO z (execConfirm e r s) := by
  unfold execConfirm
  repeat' first
    | (with_reducible first | assumption | apply KeptO.next | apply KeptO.ite | apply Kept.ite
                            | apply Kept.armTakes | apply Kept.sbSend | apply Kept.armUp
                            | apply Kept.takePkgConfirm | apply Kept.takeConfirm)
    | refine Kept.of_eq (by assumption) ?_ | split

theorem execPackageConfirm_kept (h : Kept z s)  : KeptO z (execPackageConfirm s) := by
  unfold execPackageConfirm
  repeat' first
    | (with_reducible first | assumption | apply KeptO.next | apply KeptO.ite | apply Kept.ite
                            | apply Kept.armUp | apply Kept.setF)
    | refine Kept.of_eq (by assumption) ?_ | split | dsimp only | with_reducible apply Kept.mk_same

theorem Kept.commitSet (h : Kept z s)  : Kept z (State.commitSet s) := by
  unfold State.commitSet
  repeat' first
    | (with_reducible first | assumption | apply Kept.ite | apply Kept.setPart | apply Kept.armDies
                            | apply Kept.armTray | apply Kept.set64)
    | refine Kept.of_eq (by assumption) ?_ | split | dsimp only | with_reducible apply Kept.mk_same

theorem execArmDecision_kept (h : Kept z s)  : KeptO z (execArmDecision s) := by
  unfold execArmDecision
  repeat' first
    | (with_reducible first | assumption | apply KeptO.next | apply KeptO.ite | apply Kept.ite
                            | apply Kept.commitSet | apply Kept.abortSet)

theorem execCommit_kept (h : Kept z s) (e : LinkEnd) (r : SbSlot) : KeptO z (execCommit e r s) := by
  unfold execCommit
  repeat' first
    | (with_reducible first | assumption | apply KeptO.next | apply KeptO.ite | apply Kept.ite
                            | apply Kept.armTakes | apply Kept.sbSend | apply Kept.commitSet
                            | apply Kept.setPart)
    | refine Kept.of_eq (by assumption) ?_ | split

theorem execAbort_kept (h : Kept z s) (e : LinkEnd) (r : SbSlot) : KeptO z (execAbort e r s) := by
  unfold execAbort
  repeat' first
    | (with_reducible first | assumption | apply KeptO.next | apply KeptO.ite | apply Kept.ite
                            | apply Kept.armTakes | apply Kept.sbSend | apply Kept.abortSet
                            | apply Kept.setPart)
    | refine Kept.of_eq (by assumption) ?_ | split

theorem Kept.applyLaneMap (h : Kept z s) (p : Place) (f : Fld) (v : Nat) : Kept z (State.applyLaneMap s p f v) := by
  unfold State.applyLaneMap
  repeat' first
    | (with_reducible first | assumption | apply Kept.ite | apply Kept.setBun | apply Kept.sbSend
                            | apply Kept.setRxMap)
    | refine Kept.of_eq (by assumption) ?_ | split

theorem Kept.newPtpDomain (h : Kept z s)  : Kept z (State.newPtpDomain s) := by
  unfold State.newPtpDomain
  repeat' first
    | (with_reducible first | assumption | apply Kept.ite | apply Kept.setF | apply Kept.setTaiFlags)
    | refine Kept.of_eq (by assumption) ?_ | split | dsimp only | with_reducible apply Kept.mk_same

theorem Kept.newBudget (h : Kept z s) (d : Die) (inst : Nat) (v : Nat) : Kept z (State.newBudget s d inst v) := by
  unfold State.newBudget
  repeat' first
    | (with_reducible first | assumption | apply Kept.ite)
    | refine Kept.of_eq (by assumption) ?_ | split | dsimp only | with_reducible apply Kept.mk_same

theorem Kept.applyMember (h : Kept z s) (m : Nat × Nat) : Kept z (State.applyMember s m) := by
  unfold State.applyMember
  repeat' first
    | (with_reducible first | assumption | apply Kept.ite | apply Kept.applyLaneMap | apply Kept.setCr0Map
                            | apply Kept.putField | apply Kept.newBudget | apply Kept.newPtpDomain
                            | apply Kept.showReserve)
    | refine Kept.of_eq (by assumption) ?_ | split

theorem Kept.applyPart (h : Kept z s) (p : Part) : Kept z (State.applyPart s p) := by
  unfold State.applyPart
  repeat' first
    | intro _
    | (with_reducible first | assumption | apply Kept.foldl | apply Kept.ite | apply Kept.ldgSettle
                            | apply Kept.applyMember | apply Kept.putRec)
    | refine Kept.of_eq (by assumption) ?_ | split | dsimp only | with_reducible apply Kept.mk_same

theorem Kept.switchBank (h : Kept z s) (d : Die) : Kept z (State.switchBank s d) := by
  unfold State.switchBank
  repeat' first
    | (with_reducible first | assumption | apply Kept.ite | apply Kept.joinLosses | apply Kept.noteSched
                            | apply Kept.setF | apply Kept.logSwitch | apply Kept.noFit)
    | refine Kept.of_eq (by assumption) ?_ | split | dsimp only

theorem Kept.partDue (h : Kept z s) (d : Die) : Kept z (State.partDue s d) := by
  unfold State.partDue
  repeat' first
    | (with_reducible first | assumption | apply Kept.ite | apply Kept.applyPart | apply Kept.setPart
                            | apply Kept.switchBank | apply Kept.log | apply Kept.setF | apply Kept.trigger)
    | refine Kept.of_eq (by assumption) ?_ | split

theorem Kept.endSet (h : Kept z s) (members : List (Nat × Nat)) : Kept z (State.endSet s members) := by
  unfold State.endSet
  repeat' first
    | intro _
    | (with_reducible first | assumption | apply Kept.foldl | apply Kept.ite | apply Kept.setF
                            | apply Kept.clearStage | apply Kept.applyMember)
    | refine Kept.of_eq (by assumption) ?_ | split | dsimp only | with_reducible apply Kept.mk_same

theorem Kept.dropBundles (h : Kept z s)  : Kept z (State.dropBundles s) := by
  unfold State.dropBundles
  repeat' first
    | intro _
    | (with_reducible first | assumption | apply Kept.foldl | apply Kept.ite | apply Kept.noteSched
                            | apply Kept.setLossSet | apply Kept.setDie)
    | refine Kept.of_eq (by assumption) ?_ | split | dsimp only | exact Nat.zero_le _ | refine Kept.log_le ?_ (by assumption) _

theorem Kept.returnedCables (h : Kept z s) : Kept z s.returnedCables.2 := by
  unfold State.returnedCables
  refine .foldl_snd _ (fun a i ha => ?_) _ h
  split
  · exact .ite_snd ha ha
  · exact ha.draw 1

theorem Kept.dropCables (h : Kept z s)  : Kept z (State.dropCables s) := by
  unfold State.dropCables
  repeat' first
    | intro _
    | (with_reducible first | assumption | apply Kept.foldl | apply Kept.ite | apply Kept.returnedCables
                            | apply Kept.noteSched | apply Kept.setTrayLoss | apply Kept.setDie)
    | refine Kept.of_eq (by assumption) ?_ | split | dsimp only | exact Nat.zero_le _ | refine Kept.log_le ?_ (by assumption) _

theorem Kept.dropReturned (h : Kept z s) (tray : Bool) : Kept z (State.dropReturned s tray) := by
  unfold State.dropReturned
  repeat' first
    | (with_reducible first | assumption | apply Kept.ite | apply Kept.dropBundles | apply Kept.dropCables)

theorem execChangeSetApply_kept (h : Kept z s)  : KeptO z (execChangeSetApply s) := by
  unfold execChangeSetApply
  repeat' first
    | intro _
    | (with_reducible first | assumption | apply Kept.foldl | apply KeptO.next | apply KeptO.ite
                            | apply Kept.ite | apply Kept.dropReturned | apply Kept.partDue | apply Kept.endSet)

theorem Kept.showHack (h : Kept z s) (on : Bool) : Kept z (State.showHack s on) := by
  unfold State.showHack
  repeat' first
    | intro _
    | (with_reducible first | assumption | apply Kept.foldl | apply Kept.ite | apply Kept.setF)

theorem execHackStart_kept (h : Kept z s)  : KeptO z (execHackStart s) := by
  unfold execHackStart
  repeat' first
    | intro _
    | (with_reducible first | assumption | apply Kept.foldl | apply KeptO.next | apply KeptO.ite
                            | apply Kept.ite | apply Kept.showHack | apply Kept.applyMember)
    | refine Kept.of_eq (by assumption) ?_ | split | dsimp only | with_reducible apply Kept.mk_same

theorem Kept.newDepth (h : Kept z s) (n : Fin 8) : Kept z (State.newDepth s n) := by
  unfold State.newDepth
  repeat' first
    | (with_reducible first | assumption | apply Kept.ite | apply Kept.linkReturn | apply Kept.setDepth)

theorem execHackEnd_kept (h : Kept z s)  : KeptO z (execHackEnd s) := by
  unfold execHackEnd
  repeat' first
    | intro _
    | (with_reducible first | assumption | apply Kept.foldl | apply KeptO.next | apply KeptO.ite
                            | apply Kept.ite | apply Kept.showHack | apply Kept.newDepth | apply Kept.bumpF)
    | refine Kept.of_eq (by assumption) ?_ | split | dsimp only | with_reducible apply Kept.mk_same

theorem Kept.armActivation (h : Kept z s) (turn : Nat) : Kept z (State.armActivation s turn) := by
  unfold State.armActivation
  repeat' first
    | (with_reducible first | assumption | apply Kept.ite | apply Kept.draw | apply Kept.beginSet
                            | apply Kept.armTray)

theorem execAbortedArmRearm_kept (h : Kept z s)  : KeptO z (execAbortedArmRearm s) := by
  unfold execAbortedArmRearm
  repeat' first
    | (with_reducible first | assumption | apply KeptO.next | apply KeptO.ite | apply Kept.ite
                            | apply Kept.armActivation)
    | refine Kept.of_eq (by assumption) ?_ | split | dsimp only | with_reducible apply Kept.mk_same

theorem Kept.imgReg (h : Kept z s) (e : Nat × Nat) : Kept z (State.imgReg s e) := by
  unfold State.imgReg
  repeat' first
    | intro _
    | (with_reducible first | assumption | apply Kept.foldl | apply Kept.ite | apply Kept.setF)
    | refine Kept.of_eq (by assumption) ?_ | split

theorem Kept.putImage (h : Kept z s) (i : Image) : Kept z (State.putImage s i) := by
  unfold State.putImage
  repeat' first
    | intro _
    | (with_reducible first | assumption | apply Kept.foldl | apply Kept.ite | apply Kept.putRec
                            | apply Kept.imgReg | apply Kept.setF)
    | refine Kept.of_eq (by assumption) ?_ | split | dsimp only | with_reducible apply Kept.mk_same

theorem Kept.joinCleared (h : Kept z s)  : Kept z (State.joinCleared s) := by
  unfold State.joinCleared
  repeat' first
    | intro _
    | (with_reducible first | assumption | apply Kept.foldl | apply Kept.ite | apply Kept.setLossSet)

theorem Kept.clearImageFns (h : Kept z s)  : Kept z (State.clearImageFns s) := by
  unfold State.clearImageFns
  repeat' first
    | intro _
    | (with_reducible first | assumption | apply Kept.foldl | apply Kept.ite | apply Kept.clearFn)

theorem Kept.clearFaults (h : Kept z s)  : Kept z (State.clearFaults s) := by
  unfold State.clearFaults
  repeat' first
    | intro _
    | (with_reducible first | assumption | apply Kept.foldl | apply Kept.ite | apply Kept.setF
                            | apply Kept.setDie)
    | refine Kept.of_eq (by assumption) ?_ | split | dsimp only | exact Nat.zero_le _ | refine Kept.log_le ?_ (by assumption) _ | with_reducible apply Kept.mk_same

theorem Kept.unbindAll (h : Kept z s)  : Kept z (State.unbindAll s) := by
  unfold State.unbindAll
  repeat' first
    | intro _
    | (with_reducible first | assumption | apply Kept.foldl | apply Kept.ite | apply Kept.setCtxState
                            | apply Kept.setF)
    | refine Kept.of_eq (by assumption) ?_ | split | dsimp only | with_reducible apply Kept.mk_same

theorem Kept.bindCtx (h : Kept z s) (old : State) (c : ImgCtx) (m : Mv) : Kept z (State.bindCtx old s c m) := by
  unfold State.bindCtx
  repeat' first
    | intro _
    | (with_reducible first | assumption | apply Kept.foldl | apply Kept.ite | apply Kept.setCtxState
                            | apply Kept.setF | apply Kept.setCtx | apply Kept.setStream)

theorem Kept.bindAll (h : Kept z s) (i : Image) : Kept z (State.bindAll s i) := by
  unfold State.bindAll
  repeat' first
    | intro _
    | (with_reducible first | assumption | apply Kept.foldl | apply Kept.ite | apply Kept.unbindAll
                            | apply Kept.bindCtx | apply Kept.setF)

theorem Kept.clearStreams (h : Kept z s)  : Kept z (State.clearStreams s) := by
  unfold State.clearStreams
  repeat' first
    | intro _
    | (with_reducible first | assumption | apply Kept.foldl | apply Kept.ite | apply Kept.setHost)

theorem Kept.endChip (h : Kept z s)  : Kept z (State.endChip s) := by
  unfold State.endChip
  repeat' first
    | (with_reducible first | assumption | apply Kept.ite | apply Kept.setDom | apply Kept.showLevel)

theorem Kept.loadFails (h : Kept z s) (check : Nat) (rc : Nat) : Kept z (State.loadFails s check rc) := by
  unfold State.loadFails
  repeat' first
    | (with_reducible first | assumption | apply Kept.ite | apply Kept.setF | apply Kept.logFault
                            | apply Kept.setPhase | apply Kept.endChip)
    | refine Kept.of_eq (by assumption) ?_ | split | dsimp only | with_reducible apply Kept.mk_same

theorem Kept.setAct (h : Kept z s) (turn : Nat) : Kept z (State.setAct s turn) := by
  unfold State.setAct
  repeat' first
    | (with_reducible first | assumption | apply Kept.ite | apply Kept.set64)
    | refine Kept.of_eq (by assumption) ?_ | split | dsimp only | with_reducible apply Kept.mk_same

theorem Kept.takeLoadReport (h : Kept z s) (pkg : Nat) (hash : Nat) : Kept z (State.takeLoadReport s pkg hash) := by
  unfold State.takeLoadReport
  repeat' first
    | (with_reducible first | assumption | apply Kept.ite | apply Kept.armActivation)
    | refine Kept.of_eq (by assumption) ?_ | split | dsimp only | with_reducible apply Kept.mk_same

theorem Kept.holdSuspects (h : Kept z s)  : Kept z (State.holdSuspects s) := by
  unfold State.holdSuspects
  repeat' first
    | intro _
    | (with_reducible first | assumption | apply Kept.foldl | apply Kept.ite | apply Kept.setCtxState
                            | apply Kept.markFaulted | apply Kept.setF | apply Kept.setDom)
    | refine Kept.of_eq (by assumption) ?_ | split | dsimp only | with_reducible apply Kept.mk_same

theorem Kept.loadImage (h : Kept z s) (i : Image) (ldgOk : Bool) : Kept z (State.loadImage s i ldgOk) := by
  unfold State.loadImage
  repeat' first
    | intro _
    | (with_reducible first | assumption | apply Kept.foldl | apply Kept.ite | apply Kept.putImage
                            | apply Kept.bindAll | apply Kept.clearFaults | apply Kept.clearStreams
                            | apply Kept.dropBundles | apply Kept.joinCleared | apply Kept.showReserve
                            | apply Kept.setF | apply Kept.noteVersion | apply Kept.endStep
                            | apply Kept.recEnable | apply Kept.holdSuspects | apply Kept.setAct
                            | apply Kept.tellMaster | apply Kept.takeLoadReport)
    | refine Kept.of_eq (by assumption) ?_ | split | dsimp only | with_reducible apply Kept.mk_same

theorem execImageLoad_kept (h : Kept z s) (img : Image) (ldgOk : Bool) : KeptO z (execImageLoad img ldgOk s) := by
  unfold execImageLoad
  repeat' first
    | (with_reducible first | assumption | apply KeptO.next | apply KeptO.ite | apply Kept.ite
                            | apply Kept.loadFails | apply Kept.loadImage)
    | refine Kept.of_eq (by assumption) ?_ | split

theorem execLoadReport_kept (h : Kept z s) (pkg : Fin 16) (hash : BitVec 384) : KeptO z (execLoadReport pkg hash s) :=
    by
  unfold execLoadReport
  repeat' first
    | (with_reducible first | assumption | apply KeptO.next | apply KeptO.ite | apply Kept.ite
                            | apply Kept.takeLoadReport)

theorem Kept.startContexts (h : Kept z s)  : Kept z (State.startContexts s) := by
  unfold State.startContexts
  repeat' first
    | intro _
    | (with_reducible first | assumption | apply Kept.foldl | apply Kept.ite | apply Kept.setCtxState)

theorem Kept.freeSc (h : Kept z s)  : Kept z (State.freeSc s) := by
  unfold State.freeSc
  repeat' first
    | intro _
    | (with_reducible first | assumption | apply Kept.foldl | apply Kept.ite | apply Kept.setLink)

theorem execImageActivate_kept (h : Kept z s)  : KeptO z (execImageActivate s) := by
  unfold execImageActivate
  repeat' first
    | intro _
    | (with_reducible first | assumption | apply Kept.foldl | apply KeptO.next | apply KeptO.ite
                            | apply Kept.ite | apply Kept.handUp | apply Kept.clearNoFit | apply Kept.freeSc
                            | apply Kept.endChip | apply Kept.setPhase | apply Kept.endStep
                            | apply Kept.enableFn | apply Kept.startContexts)
    | refine Kept.of_eq (by assumption) ?_ | split | dsimp only | with_reducible apply Kept.mk_same

theorem Kept.unloadWrite (h : Kept z s)  : Kept z (State.unloadWrite s) := by
  unfold State.unloadWrite
  repeat' first
    | (with_reducible first | assumption | apply Kept.ite | apply Kept.refuse)
    | refine Kept.of_eq (by assumption) ?_ | split | dsimp only | with_reducible apply Kept.mk_same

theorem execImageUnload_kept (h : Kept z s)  : KeptO z (execImageUnload s) := by
  unfold execImageUnload
  repeat' first
    | (with_reducible first | assumption | apply KeptO.next | apply KeptO.ite | apply Kept.ite
                            | apply Kept.unloadWrite)

theorem Kept.dropImage (h : Kept z s)  : Kept z (State.dropImage s) := by
  unfold State.dropImage
  repeat' first
    | (with_reducible first | assumption | apply Kept.ite | apply Kept.clearImageFns | apply Kept.unbindAll
                            | apply Kept.clearFaults | apply Kept.setF | apply Kept.showReserve)
    | refine Kept.of_eq (by assumption) ?_ | split | dsimp only | with_reducible apply Kept.mk_same

theorem execImageStop_kept (h : Kept z s)  : KeptO z (execImageStop s) := by
  unfold execImageStop
  repeat' first
    | (with_reducible first | assumption | apply KeptO.next | apply KeptO.ite | apply Kept.ite
                            | apply Kept.dropImage | apply Kept.setPhase)

theorem Kept.loadWrite (h : Kept z s)  : Kept z (State.loadWrite s) := by
  unfold State.loadWrite
  repeat' first
    | (with_reducible first | assumption | apply Kept.ite | apply Kept.refuse | apply Kept.setPhase)
    | refine Kept.of_eq (by assumption) ?_ | split | dsimp only | with_reducible apply Kept.mk_same

theorem execImageLoadHost_kept (h : Kept z s)  : KeptO z (execImageLoadHost s) := by
  unfold execImageLoadHost
  repeat' first
    | (with_reducible first | assumption | apply KeptO.next | apply KeptO.ite | apply Kept.ite
                            | apply Kept.loadWrite)

theorem Kept.retrainAll (h : Kept z s)  : Kept z (State.retrainAll s) := by
  unfold State.retrainAll
  repeat' first
    | intro _
    | (with_reducible first | assumption | apply Kept.foldl | apply Kept.ite | apply Kept.linkReturn)
    | refine Kept.of_eq (by assumption) ?_ | split | dsimp only | with_reducible apply Kept.mk_same

theorem Kept.clearBeatValid (h : Kept z s)  : Kept z (State.clearBeatValid s) := by
  unfold State.clearBeatValid
  repeat' first
    | intro _
    | (with_reducible first | assumption | apply Kept.foldl | apply Kept.ite | apply Kept.setF)

theorem Kept.keepChkpts (h : Kept z s) (old : State) : Kept z (State.keepChkpts s old) := by
  unfold State.keepChkpts
  repeat' first
    | (with_reducible first | assumption | apply Kept.ite)
    | refine Kept.of_eq (by assumption) ?_ | split | dsimp only | with_reducible apply Kept.mk_same

theorem Kept.chipReset (h : Kept z s) (cause : Nat) : Kept z (State.chipReset s cause) := by
  unfold State.chipReset
  repeat' first
    | (with_reducible first | assumption | apply Kept.ite | apply Kept.clearImageFns | apply Kept.unbindAll
                            | apply Kept.keepChkpts | apply Kept.clearFaults | apply Kept.retrainAll
                            | apply Kept.clearBeatValid)
    | refine Kept.of_eq (by assumption) ?_ | split | dsimp only | with_reducible apply Kept.mk_same

theorem Kept.outOfServiceNow (h : Kept z s)  : Kept z (State.outOfServiceNow s) := by
  unfold State.outOfServiceNow
  repeat' first
    | intro _
    | (with_reducible first | assumption | apply Kept.foldl | apply Kept.ite | apply Kept.dropImage
                            | apply Kept.stopAllSc | apply Kept.domainOff | apply Kept.showLedgerOnly
                            | apply Kept.clearFn | apply Kept.setPhase | apply Kept.log | apply Kept.setF
                            | apply Kept.endChip)
    | refine Kept.of_eq (by assumption) ?_ | split | dsimp only | with_reducible apply Kept.mk_same

theorem execChipReset_kept (h : Kept z s)  : KeptO z (execChipReset s) := by
  unfold execChipReset
  repeat' first
    | (with_reducible first | assumption | apply KeptO.next | apply KeptO.ite | apply Kept.ite
                            | apply Kept.outOfServiceNow | apply Kept.handUp | apply Kept.chipReset
                            | apply Kept.bumpF | apply Kept.endChip | apply Kept.setDom | apply Kept.setPhase)
    | refine Kept.of_eq (by assumption) ?_ | split | dsimp only | with_reducible apply Kept.mk_same

theorem Kept.oosClear (h : Kept z s)  : Kept z (State.oosClear s) := by
  unfold State.oosClear
  repeat' first
    | intro _
    | (with_reducible first | assumption | apply Kept.foldl | apply Kept.ite | apply Kept.setF
                            | apply Kept.setHistory | apply Kept.nextDomain | apply Kept.resetMvc
                            | apply Kept.chipReset | apply Kept.enableFn)
    | refine Kept.of_eq (by assumption) ?_ | split | dsimp only | with_reducible apply Kept.mk_same

theorem execOosClear_kept (h : Kept z s)  : KeptO z (execOosClear s) := by
  unfold execOosClear
  repeat' first
    | (with_reducible first | assumption | apply KeptO.next | apply KeptO.ite | apply Kept.ite
                            | apply Kept.oosClear)

theorem Kept.rbWrite (h : Kept z s) (w : Nat) : Kept z (State.rbWrite s w) := by
  unfold State.rbWrite
  repeat' first
    | (with_reducible first | assumption | apply Kept.ite | apply Kept.setF | apply Kept.refuseBlk)
    | refine Kept.of_eq (by assumption) ?_ | split | dsimp only | with_reducible apply Kept.mk_same

theorem execRollbackCommit_kept (h : Kept z s) (w : Word) : KeptO z (execRollbackCommit w s) := by
  unfold execRollbackCommit
  repeat' first
    | (with_reducible first | assumption | apply KeptO.next | apply KeptO.ite | apply Kept.ite
                            | apply Kept.rbWrite)

theorem execRollbackCommitDone_kept (h : Kept z s)  : KeptO z (execRollbackCommitDone s) := by
  unfold execRollbackCommitDone
  repeat' first
    | (with_reducible first | assumption | apply KeptO.next | apply KeptO.ite | apply Kept.ite
                            | apply Kept.setF)
    | refine Kept.of_eq (by assumption) ?_ | split | dsimp only | with_reducible apply Kept.mk_same

theorem Kept.setFlData (h : Kept z s) (l : List Byte) : Kept z (State.setFlData s l) := by
  unfold State.setFlData
  repeat' first
    | intro _
    | (with_reducible first | assumption | apply Kept.foldl | apply Kept.ite | apply Kept.setF)

theorem Kept.flGo (h : Kept z s) (cmd : Nat) : Kept z (State.flGo s cmd) := by
  unfold State.flGo
  repeat' first
    | (with_reducible first | assumption | apply Kept.ite | apply Kept.setF | apply Kept.refuse)
    | refine Kept.of_eq (by assumption) ?_ | split | dsimp only | with_reducible apply Kept.mk_same

theorem execFlashRead_kept (h : Kept z s)  : KeptO z (execFlashRead s) := by
  unfold execFlashRead
  repeat' first
    | (with_reducible first | assumption | apply KeptO.next | apply KeptO.ite | apply Kept.ite
                            | apply Kept.flGo)

theorem execFlashProgram_kept (h : Kept z s)  : KeptO z (execFlashProgram s) := by
  unfold execFlashProgram
  repeat' first
    | (with_reducible first | assumption | apply KeptO.next | apply KeptO.ite | apply Kept.ite
                            | apply Kept.flGo)

theorem execFlashErase_kept (h : Kept z s)  : KeptO z (execFlashErase s) := by
  unfold execFlashErase
  repeat' first
    | (with_reducible first | assumption | apply KeptO.next | apply KeptO.ite | apply Kept.ite
                            | apply Kept.flGo)

theorem execFlashStatus_kept (h : Kept z s)  : KeptO z (execFlashStatus s) := by
  unfold execFlashStatus
  repeat' first
    | (with_reducible first | assumption | apply KeptO.next | apply KeptO.ite | apply Kept.ite
                            | apply Kept.flGo)

theorem execFlashCommandDone_kept (h : Kept z s) (err : Bool) (data : List Byte) : KeptO z (execFlashCommandDone err
    data s) := by
  unfold execFlashCommandDone
  repeat' first
    | (with_reducible first | assumption | apply KeptO.next | apply KeptO.ite | apply Kept.ite | apply Kept.setF
                            | apply Kept.setFlData)
    | refine Kept.of_eq (by assumption) ?_ | split | dsimp only | with_reducible apply Kept.mk_same

theorem Kept.submit (h : Kept z s) (l : List Byte) : Kept z (State.submit s l) := by
  unfold State.submit
  repeat' first
    | (with_reducible first | assumption | apply Kept.ite | apply Kept.log | apply Kept.refuseBlk
                            | apply Kept.setF | apply Kept.newNonce)
    | refine Kept.of_eq (by assumption) ?_ | split | dsimp only | with_reducible apply Kept.mk_same

theorem Kept.submitRegs (h : Kept z s)  : Kept z (State.submitRegs s) := by
  unfold State.submitRegs
  repeat' first
    | (with_reducible first | assumption | apply Kept.ite | apply Kept.submit)

theorem execDebugTokenSubmit_kept (h : Kept z s)  : KeptO z (execDebugTokenSubmit s) := by
  unfold execDebugTokenSubmit
  repeat' first
    | (with_reducible first | assumption | apply KeptO.next | apply KeptO.ite | apply Kept.ite
                            | apply Kept.submitRegs)

theorem Kept.debugLock (h : Kept z s)  : Kept z (State.debugLock s) := by
  unfold State.debugLock
  repeat' first
    | (with_reducible first | assumption | apply Kept.ite | apply Kept.setF)

theorem execDebugLock_kept (h : Kept z s)  : KeptO z (execDebugLock s) := by
  unfold execDebugLock
  repeat' first
    | (with_reducible first | assumption | apply KeptO.next | apply KeptO.ite | apply Kept.ite
                            | apply Kept.debugLock)

theorem execDebugLifetimeExpiry_kept (h : Kept z s)  : KeptO z (execDebugLifetimeExpiry s) := by
  unfold execDebugLifetimeExpiry
  repeat' first
    | (with_reducible first | assumption | apply KeptO.next | apply KeptO.ite | apply Kept.ite | apply Kept.setF
                            | apply Kept.debugLock)
    | refine Kept.of_eq (by assumption) ?_ | split | dsimp only | with_reducible apply Kept.mk_same

theorem Kept.tapShift (h : Kept z s) (ir : Nat) (cap : List Bool) (tdi : List Bool) : Kept z (State.tapShift s ir cap
    tdi) := by
  unfold State.tapShift
  repeat' first
    | (with_reducible first | assumption | apply Kept.ite)
    | refine Kept.of_eq (by assumption) ?_ | split | dsimp only | with_reducible apply Kept.mk_same

theorem Kept.capture (h : Kept z s) (n : Nat) : Kept z (s.capture n).2 := by
  unfold State.capture
  exact .foldl_snd (β := List Bool) _ (fun a _ ha => ha.draw 1) ([], s) h

theorem Kept.tapBypass (h : Kept z s) (ir : Nat) (tdi : List Bool) : Kept z (State.tapBypass s ir tdi) := by
  unfold State.tapBypass
  repeat' first
    | (with_reducible first | assumption | apply Kept.ite | apply Kept.tapShift)

theorem Kept.tapScan (h : Kept z s) (ir : Nat) (tdi : List Bool) : Kept z (State.tapScan s ir tdi) := by
  unfold State.tapScan
  repeat' first
    | (with_reducible first | assumption | apply Kept.ite | apply Kept.capture | apply Kept.tapShift)
    | refine Kept.of_eq (by assumption) ?_ | split | dsimp only | with_reducible apply Kept.mk_same

theorem execBypass_kept (h : Kept z s) (tdi : List Bool) : KeptO z (execBypass tdi s) := by
  unfold execBypass
  repeat' first
    | (with_reducible first | assumption | apply KeptO.next | apply KeptO.ite | apply Kept.ite
                            | apply Kept.tapBypass)

theorem execIdcode_kept (h : Kept z s) (tdi : List Bool) : KeptO z (execIdcode tdi s) := by
  unfold execIdcode
  repeat' first
    | (with_reducible first | assumption | apply KeptO.next | apply KeptO.ite | apply Kept.ite
                            | apply Kept.tapShift)

theorem execSamplePreload_kept (h : Kept z s) (tdi : List Bool) : KeptO z (execSamplePreload tdi s) := by
  unfold execSamplePreload
  repeat' first
    | (with_reducible first | assumption | apply KeptO.next | apply KeptO.ite | apply Kept.ite
                            | apply Kept.tapScan)

theorem execExtest_kept (h : Kept z s) (tdi : List Bool) : KeptO z (execExtest tdi s) := by
  unfold execExtest
  repeat' first
    | (with_reducible first | assumption | apply KeptO.next | apply KeptO.ite | apply Kept.ite
                            | apply Kept.tapScan | apply Kept.tapBypass)

theorem execClamp_kept (h : Kept z s) (tdi : List Bool) : KeptO z (execClamp tdi s) := by
  unfold execClamp
  repeat' first
    | (with_reducible first | assumption | apply KeptO.next | apply KeptO.ite | apply Kept.ite
                            | apply Kept.tapBypass)

theorem execHighz_kept (h : Kept z s) (tdi : List Bool) : KeptO z (execHighz tdi s) := by
  unfold execHighz
  repeat' first
    | (with_reducible first | assumption | apply KeptO.next | apply KeptO.ite | apply Kept.ite
                            | apply Kept.tapBypass)

theorem execJtagUnlock_kept (h : Kept z s) (token : List Byte) : KeptO z (execJtagUnlock token s) := by
  unfold execJtagUnlock
  repeat' first
    | (with_reducible first | assumption | apply KeptO.next | apply KeptO.ite | apply Kept.ite
                            | apply Kept.submit)
    | refine Kept.of_eq (by assumption) ?_ | split | dsimp only | with_reducible apply Kept.mk_same

theorem Kept.setRecal (h : Kept z s) (e : LinkEnd) (r : Option Recal) : Kept z (State.setRecal s e r) := by
  unfold State.setRecal
  repeat' first
    | (with_reducible first | assumption | apply Kept.ite)
    | refine Kept.of_eq (by assumption) ?_ | split | dsimp only | with_reducible apply Kept.mk_same

theorem Kept.showRecal (h : Kept z s) (e : LinkEnd) (v : Nat) : Kept z (State.showRecal s e v) := by
  unfold State.showRecal
  repeat' first
    | intro _
    | (with_reducible first | assumption | apply Kept.foldl | apply Kept.ite | apply Kept.setF)

theorem Kept.dropRecal (h : Kept z s) (e : LinkEnd) : Kept z (State.dropRecal s e) := by
  unfold State.dropRecal
  repeat' first
    | (with_reducible first | assumption | apply Kept.ite | apply Kept.returnToken | apply Kept.setRecal
                            | apply Kept.showRecal)

theorem Kept.recalGo (h : Kept z s) (e : LinkEnd) : Kept z (State.recalGo s e) := by
  unfold State.recalGo
  repeat' first
    | (with_reducible first | assumption | apply Kept.ite | apply Kept.refuse | apply Kept.setRecal
                            | apply Kept.showRecal | apply Kept.setBun | apply Kept.sbSend
                            | apply Kept.askToken)

theorem execRecalGo_kept (h : Kept z s) (e : LinkEnd) : KeptO z (execRecalGo e s) := by
  unfold execRecalGo
  repeat' first
    | (with_reducible first | assumption | apply KeptO.next | apply KeptO.ite | apply Kept.ite
                            | apply Kept.recalGo)

theorem execRecalArm_kept (h : Kept z s) (e : LinkEnd) (r : SbSlot) : KeptO z (execRecalArm e r s) := by
  unfold execRecalArm
  repeat' first
    | (with_reducible first | assumption | apply KeptO.next | apply KeptO.ite | apply Kept.ite
                            | apply Kept.sbTakesFirst | apply Kept.setBun)
    | refine Kept.of_eq (by assumption) ?_ | split

theorem execRecalArmDeadline_kept (h : Kept z s) (e : LinkEnd) : KeptO z (execRecalArmDeadline e s) := by
  unfold execRecalArmDeadline
  repeat' first
    | (with_reducible first | assumption | apply KeptO.next | apply KeptO.ite | apply Kept.ite
                            | apply Kept.dropRecal | apply Kept.refuse)
    | refine Kept.of_eq (by assumption) ?_ | split

theorem Kept.lossAll (h : Kept z s) (e : LinkEnd) (b : Nat) (lost : Bool) : Kept z (State.lossAll s e b lost) := by
  unfold State.lossAll
  repeat' first
    | intro _
    | (with_reducible first | assumption | apply Kept.foldl | apply Kept.ite | apply Kept.noteSched
                            | apply Kept.setLossSet | apply Kept.selectVariant)

theorem Kept.recalOut (h : Kept z s) (b : Nat) (e : LinkEnd) : Kept z (State.recalOut s b e) := by
  unfold State.recalOut
  repeat' first
    | (with_reducible first | assumption | apply Kept.ite | apply Kept.setF | apply Kept.quiesce
                            | apply Kept.setBun)

theorem execRecalStart_kept (h : Kept z s) (e : LinkEnd) : KeptO z (execRecalStart e s) := by
  unfold execRecalStart
  repeat' first
    | intro _
    | (with_reducible first | assumption | apply Kept.foldl | apply KeptO.next | apply KeptO.ite
                            | apply Kept.ite | apply Kept.dropRecal | apply Kept.refuse | apply Kept.logLink
                            | apply Kept.recalOut | apply Kept.setRecal | apply Kept.showRecal
                            | apply Kept.lossAll)
    | refine Kept.of_eq (by assumption) ?_ | split

theorem execRecalLanetestStart_kept (h : Kept z s) (e : LinkEnd) : KeptO z (execRecalLanetestStart e s) := by
  unfold execRecalLanetestStart
  repeat' first
    | (with_reducible first | assumption | apply KeptO.next | apply KeptO.ite | apply Kept.ite
                            | apply Kept.setRecal)
    | refine Kept.of_eq (by assumption) ?_ | split

theorem Kept.failLanes (h : Kept z s) (e : LinkEnd) (b : Nat) (mask : Nat) : Kept z (State.failLanes s e b mask) := by
  unfold State.failLanes
  repeat' first
    | intro _
    | (with_reducible first | assumption | apply Kept.foldl | apply Kept.ite | apply Kept.failLane)

theorem execRecalReturnMission_kept (h : Kept z s) (e : LinkEnd) (near : List (List Bool)) (far : List (List Bool)) :
    KeptO z (execRecalReturnMission e near far s) := by
  unfold execRecalReturnMission
  repeat' first
    | (with_reducible first | assumption | apply KeptO.next | apply KeptO.ite | apply Kept.ite
                            | apply Kept.setRecal | apply Kept.failLanes)
    | refine Kept.of_eq (by assumption) ?_ | split

theorem Kept.recalIn (h : Kept z s) (b : Nat) (e : LinkEnd) : Kept z (State.recalIn s b e) := by
  unfold State.recalIn
  repeat' first
    | (with_reducible first | assumption | apply Kept.ite | apply Kept.setF | apply Kept.setBun
                            | apply Kept.quiesce)

theorem execRecalEnd_kept (h : Kept z s) (e : LinkEnd) (near : BitVec 21) (far : BitVec 21) : KeptO z (execRecalEnd e
    near far s) := by
  unfold execRecalEnd
  repeat' first
    | intro _
    | (with_reducible first | assumption | apply Kept.foldl | apply KeptO.next | apply KeptO.ite
                            | apply Kept.ite | apply Kept.failLanes | apply Kept.recalIn
                            | apply Kept.returnToken | apply Kept.setRecal | apply Kept.showRecal
                            | apply Kept.lossAll)
    | refine Kept.of_eq (by assumption) ?_ | split

theorem Kept.armFlds (h : Kept z s) (p : Place) (w : Nat) : Kept z (State.armFlds s p w) := by
  unfold State.armFlds
  repeat' first
    | intro _
    | (with_reducible first | assumption | apply Kept.foldl | apply Kept.ite | apply Kept.refuse
                            | apply Kept.bumpF)
    | refine Kept.of_eq (by assumption) ?_ | split | dsimp only | with_reducible apply Kept.mk_same

theorem Kept.putFld (h : Kept z s) (p : Place) (w : Nat) (f : Fld) : Kept z (State.putFld s p w f) := by
  unfold State.putFld
  repeat' first
    | (with_reducible first | assumption | apply Kept.ite | apply Kept.setF)
    | refine Kept.of_eq (by assumption) ?_ | split

theorem Kept.putEnables (h : Kept z s) (p : Place) (w : Nat) (ok : Bool) : Kept z (State.putEnables s p w ok) := by
  unfold State.putEnables
  repeat' first
    | intro _
    | (with_reducible first | assumption | apply Kept.foldl | apply Kept.ite | apply Kept.enableFn
                            | apply Kept.disableFn)
    | refine Kept.of_eq (by assumption) ?_ | split

theorem Kept.rcvWrite (h : Kept z s) (p : Place) (w : Nat) : Kept z (State.rcvWrite s p w) := by
  unfold State.rcvWrite
  repeat' first
    | intro _
    | (with_reducible first | assumption | apply Kept.foldl | apply Kept.ite | apply Kept.refuse
                            | apply Kept.putFld)

theorem Kept.writeHook (h : Kept z s) (p : Place) (w : Nat) : Kept z (State.writeHook s p w) := by
  unfold State.writeHook
  repeat' first
    | (with_reducible first | assumption | apply Kept.ite | apply Kept.recPort | apply Kept.restartWrite
                            | apply Kept.loadWrite | apply Kept.unloadWrite | apply Kept.flGo
                            | apply Kept.submitRegs | apply Kept.debugLock | apply Kept.oosClear
                            | apply Kept.releaseMask | apply Kept.force | apply Kept.recalGo
                            | apply Kept.doorbell | apply Kept.setHost)
    | refine Kept.of_eq (by assumption) ?_ | split

theorem Kept.regWrite (h : Kept z s) (p : Place) (w : Nat) (ok : Bool) : Kept z (State.regWrite s p w ok) := by
  unfold State.regWrite
  repeat' first
    | intro _
    | (with_reducible first | assumption | apply Kept.foldl | apply Kept.ite | apply Kept.budgetWrite
                            | apply Kept.domRequest | apply Kept.armWrite | apply Kept.rbWrite
                            | apply Kept.rcvWrite | apply Kept.refuse | apply Kept.bumpF | apply Kept.ctrWrite
                            | apply Kept.putFld | apply Kept.putEnables | apply Kept.armFlds
                            | apply Kept.writeHook)
    | refine Kept.of_eq (by assumption) ?_ | split

theorem Kept.msWrite (h : Kept z s) (c : Crown) (a : Nat) (w : Nat) (ok : Bool) : Kept z (State.msWrite s c a w ok) :=
    by
  unfold State.msWrite
  repeat' first
    | (with_reducible first | assumption | apply Kept.ite | apply Kept.enableFn | apply Kept.putEnables
                            | apply Kept.noteReserved | apply Kept.regWrite)
    | refine Kept.of_eq (by assumption) ?_ | split

theorem Kept.badAccess (h : Kept z s) (c : Crown) (rd : Bool) : Kept z (State.badAccess s c rd) := by
  unfold State.badAccess
  repeat' first
    | (with_reducible first | assumption | apply Kept.ite | apply Kept.bumpF | apply Kept.putRd)

theorem execRegisterWrite_kept (h : Kept z s) (c : Crown) (a : Word) (w : Word) (ok : Bool) : KeptO z
    (execRegisterWrite c a w ok s) := by
  unfold execRegisterWrite
  repeat' first
    | (with_reducible first | assumption | apply KeptO.next | apply KeptO.ite | apply Kept.ite
                            | apply Kept.msWrite | apply Kept.badAccess)

theorem Kept.regRead (h : Kept z s) (path : Path) (p : Place) : Kept z (State.regRead s path p).2 := by
  unfold State.regRead
  repeat' first
    | (with_reducible first | assumption | apply Kept.ite | apply Kept.ite_snd | apply Kept.readBeatLo
                            | apply Kept.log | apply Kept.draw | apply Kept.schedRead | apply Kept.fusLoad
                            | apply Kept.ethLoad | apply Kept.ldgLoad)
    | refine Kept.of_eq (by assumption) ?_ | split

theorem Kept.msRead (h : Kept z s) (path : Path) (a : Nat) : Kept z (s.msRead path a).2 := by
  unfold State.msRead
  split
  · exact h
  · dsimp only
    refine .ite_snd (h.deadRead_getD _ _ _ h) ?_
    split
    · split
      · next e => exact .ite_snd (h.deadRead _ _ _ e) h
      · exact h
    · exact .ite_snd h (h.deadRead_getD _ _ _ (h.regRead ..))

theorem execMsRead_kept (h : Kept z s) (c : Crown) (a : Word) : KeptO z (execMsRead c a s) := by
  unfold execMsRead
  repeat' first
    | (with_reducible first | assumption | apply KeptO.next | apply KeptO.ite | apply Kept.ite
                            | apply Kept.msRead | apply Kept.putRd | apply Kept.badAccess)

theorem execMsBadAccess_kept (h : Kept z s) (c : Crown) (rd : Bool) : KeptO z (execMsBadAccess c rd s) := by
  unfold execMsBadAccess
  repeat' first
    | (with_reducible first | assumption | apply KeptO.next | apply KeptO.ite | apply Kept.ite
                            | apply Kept.badAccess)

theorem execSmbusWrite_kept (h : Kept z s) (a : Word) (w : Word) (pec : Bool) : KeptO z (execSmbusWrite a w pec s) := by
  unfold execSmbusWrite
  repeat' first
    | (with_reducible first | assumption | apply KeptO.next | apply KeptO.ite | apply Kept.ite
                            | apply Kept.restartWrite | apply Kept.msWrite)
    | refine Kept.of_eq (by assumption) ?_ | split | dsimp only | with_reducible apply Kept.mk_same

theorem execSmbusSetPointer_kept (h : Kept z s) (a : Word) (pec : Bool) : KeptO z (execSmbusSetPointer a pec s) := by
  unfold execSmbusSetPointer
  repeat' first
    | (with_reducible first | assumption | apply KeptO.next | apply KeptO.ite | apply Kept.ite)
    | refine Kept.of_eq (by assumption) ?_ | split | dsimp only | with_reducible apply Kept.mk_same

theorem Kept.smRead (h : Kept z s) (a : Nat) : Kept z (State.smRead s a).2 := by
  unfold State.smRead
  repeat' first
    | (with_reducible first | assumption | apply Kept.ite | apply Kept.ite_snd | apply Kept.msRead)

theorem execSmbusRead_kept (h : Kept z s)  : KeptO z (execSmbusRead s) := by
  unfold execSmbusRead
  repeat' first
    | (with_reducible first | assumption | apply KeptO.next | apply KeptO.ite | apply Kept.ite
                            | apply Kept.smRead | apply Kept.putRd)
    | refine Kept.of_eq (by assumption) ?_ | split | dsimp only | with_reducible apply Kept.mk_same

theorem execPrivateInstruction_kept (h : Kept z s) (op : PrivOp) (tdi : List Bool) : KeptO z (execPrivateInstruction
    op tdi s) := by
  unfold execPrivateInstruction
  repeat' first
    | (with_reducible first | assumption | apply KeptO.next | apply KeptO.ite | apply Kept.ite
                            | apply Kept.msRead | apply Kept.tapBypass | apply Kept.putRd | apply Kept.tapShift)
    | refine Kept.of_eq (by assumption) ?_ | split | dsimp only | with_reducible apply Kept.mk_same

theorem execSidebandContainer_kept (h : Kept z s) (e : LinkEnd) (r : SbSlot) : KeptO z (execSidebandContainer e r s)
    := by
  unfold execSidebandContainer
  repeat' first
    | (with_reducible first | assumption | apply KeptO.next | apply KeptO.ite | apply Kept.ite
                            | apply Kept.sbReceive | apply Kept.takeHeartbeat | apply Kept.takeBudget
                            | apply Kept.takeTaiMap)
    | refine Kept.of_eq (by assumption) ?_ | split

end Sys2Proof.Machine
end

