-- ==== Sys2Proof/Laws/State.lean ====
section
/-! SUPPORT. What each update of the state leaves alone, field by field, and what the readers read after it. -/

namespace Sys2Proof.Machine

variable (s : State)

/-! ### `setF` -/

section

variable (d : Die) (b : Blk) (i : Nat) (f : Fld) (v k : Nat)

@[simp] theorem State.setF_pending : (s.setF d b i f v k).pending = s.pending := rfl
@[simp] theorem State.setF_time : (s.setF d b i f v k).time = s.time := rfl
@[simp] theorem State.setF_free : (s.setF d b i f v k).free = s.free := rfl
@[simp] theorem State.setF_resv : (s.setF d b i f v k).resv = s.resv := rfl
@[simp] theorem State.setF_shadow : (s.setF d b i f v k).shadow = s.shadow := rfl
@[simp] theorem State.setF_inForce : (s.setF d b i f v k).inForce = s.inForce := rfl
@[simp] theorem State.setF_dies : (s.setF d b i f v k).dies = s.dies := rfl
@[simp] theorem State.setF_links : (s.setF d b i f v k).links = s.links := rfl
@[simp] theorem State.setF_tables : (s.setF d b i f v k).tables = s.tables := rfl
@[simp] theorem State.setF_mem : (s.setF d b i f v k).mem = s.mem := rfl
@[simp] theorem State.setF_poison : (s.setF d b i f v k).poison = s.poison := rfl
@[simp] theorem State.setF_ctxs : (s.setF d b i f v k).ctxs = s.ctxs := rfl
@[simp] theorem State.setF_dieIds : (s.setF d b i f v k).dieIds = s.dieIds := rfl
@[simp] theorem State.setF_cr1Root : (s.setF d b i f v k).cr1Root = s.cr1Root := rfl
@[simp] theorem State.setF_trayFuse : (s.setF d b i f v k).trayFuse = s.trayFuse := rfl
@[simp] theorem State.setF_fpLines : (s.setF d b i f v k).fpLines = s.fpLines := rfl
@[simp] theorem State.setF_seeds : (s.setF d b i f v k).seeds = s.seeds := rfl
@[simp] theorem State.setF_pins : (s.setF d b i f v k).pins = s.pins := rfl
@[simp] theorem State.setF_hack : (s.setF d b i f v k).hack = s.hack := rfl
@[simp] theorem State.setF_sync : (s.setF d b i f v k).sync = s.sync := rfl
@[simp] theorem State.setF_rdData : (s.setF d b i f v k).rdData = s.rdData := rfl
@[simp] theorem State.setF_beatHi : (s.setF d b i f v k).beatHi = s.beatHi := rfl
@[simp] theorem State.setF_topo : (s.setF d b i f v k).topo = s.topo := rfl
@[simp] theorem State.setF_routes : (s.setF d b i f v k).routes = s.routes := rfl
@[simp] theorem State.setF_reserve : (s.setF d b i f v k).reserve = s.reserve := rfl
@[simp] theorem State.setF_grants : (s.setF d b i f v k).grants = s.grants := rfl
@[simp] theorem State.setF_reports : (s.setF d b i f v k).reports = s.reports := rfl
@[simp] theorem State.setF_rcv : (s.setF d b i f v k).rcv = s.rcv := rfl
@[simp] theorem State.setF_engs : (s.setF d b i f v k).engs = s.engs := rfl
@[simp] theorem State.setF_queues : (s.setF d b i f v k).queues = s.queues := rfl
@[simp] theorem State.setF_streams : (s.setF d b i f v k).streams = s.streams := rfl
@[simp] theorem State.setF_opTable : (s.setF d b i f v k).opTable = s.opTable := rfl
@[simp] theorem State.setF_opDefs : (s.setF d b i f v k).opDefs = s.opDefs := rfl
@[simp] theorem State.setF_heads : (s.setF d b i f v k).heads = s.heads := rfl
@[simp] theorem State.setF_issued : (s.setF d b i f v k).issued = s.issued := rfl
@[simp] theorem State.setF_accepted : (s.setF d b i f v k).accepted = s.accepted := rfl
@[simp] theorem State.setF_failed : (s.setF d b i f v k).failed = s.failed := rfl
@[simp] theorem State.setF_seenIssued : (s.setF d b i f v k).seenIssued = s.seenIssued := rfl
@[simp] theorem State.setF_seenFailed : (s.setF d b i f v k).seenFailed = s.seenFailed := rfl
@[simp] theorem State.setF_nextTag : (s.setF d b i f v k).nextTag = s.nextTag := rfl
@[simp] theorem State.setF_hostEpoch : (s.setF d b i f v k).hostEpoch = s.hostEpoch := rfl
@[simp] theorem State.setF_fences : (s.setF d b i f v k).fences = s.fences := rfl
@[simp] theorem State.setF_rdReqs : (s.setF d b i f v k).rdReqs = s.rdReqs := rfl
@[simp] theorem State.setF_hosts : (s.setF d b i f v k).hosts = s.hosts := rfl
@[simp] theorem State.setF_ptp : (s.setF d b i f v k).ptp = s.ptp := rfl
@[simp] theorem State.setF_fus : (s.setF d b i f v k).fus = s.fus := rfl
@[simp] theorem State.setF_ldg : (s.setF d b i f v k).ldg = s.ldg := rfl
@[simp] theorem State.setF_fram : (s.setF d b i f v k).fram = s.fram := rfl
@[simp] theorem State.setF_boot : (s.setF d b i f v k).boot = s.boot := rfl
@[simp] theorem State.setF_chg : (s.setF d b i f v k).chg = s.chg := rfl
@[simp] theorem State.setF_tshadow : (s.setF d b i f v k).tshadow = s.tshadow := rfl
@[simp] theorem State.setF_recals : (s.setF d b i f v k).recals = s.recals := rfl
@[simp] theorem State.setF_landed : (s.setF d b i f v k).landed = s.landed := rfl
@[simp] theorem State.setF_recov : (s.setF d b i f v k).recov = s.recov := rfl
@[simp] theorem State.setF_die (d' : Die) : (s.setF d b i f v k).die d' = s.die d' := rfl
@[simp] theorem State.setF_link (e' : LinkEnd) : (s.setF d b i f v k).link e' = s.link e' := rfl
@[simp] theorem State.setF_rdByte (a' : Nat) : (s.setF d b i f v k).rdByte a' = s.rdByte a' := rfl
@[simp] theorem State.setF_poisoned (a' : Nat) : (s.setF d b i f v k).poisoned a' = s.poisoned a' := rfl
@[simp] theorem State.setF_dom (k' : Nat) : (s.setF d b i f v k).dom k' = s.dom k' := rfl
@[simp] theorem State.setF_ctx (d' : Die) (n' : Nat) : (s.setF d b i f v k).ctx d' n' = s.ctx d' n' := rfl
@[simp] theorem State.setF_eng (d' : Die) (u' : Nat) : (s.setF d b i f v k).eng d' u' = s.eng d' u' := rfl
@[simp] theorem State.setF_host (c' : Crown) : (s.setF d b i f v k).host c' = s.host c' := rfl
@[simp] theorem State.setF_fusion (c' : Crown) : (s.setF d b i f v k).fusion c' = s.fusion c' := rfl

end

/-! ### `setDie` -/

section

variable (d : Die) (x : DieSt)

@[simp] theorem State.setDie_pending : (s.setDie d x).pending = s.pending := rfl
@[simp] theorem State.setDie_time : (s.setDie d x).time = s.time := rfl
@[simp] theorem State.setDie_free : (s.setDie d x).free = s.free := rfl
@[simp] theorem State.setDie_regs : (s.setDie d x).regs = s.regs := rfl
@[simp] theorem State.setDie_resv : (s.setDie d x).resv = s.resv := rfl
@[simp] theorem State.setDie_shadow : (s.setDie d x).shadow = s.shadow := rfl
@[simp] theorem State.setDie_inForce : (s.setDie d x).inForce = s.inForce := rfl
@[simp] theorem State.setDie_links : (s.setDie d x).links = s.links := rfl
@[simp] theorem State.setDie_tables : (s.setDie d x).tables = s.tables := rfl
@[simp] theorem State.setDie_mem : (s.setDie d x).mem = s.mem := rfl
@[simp] theorem State.setDie_poison : (s.setDie d x).poison = s.poison := rfl
@[simp] theorem State.setDie_ctxs : (s.setDie d x).ctxs = s.ctxs := rfl
@[simp] theorem State.setDie_dieIds : (s.setDie d x).dieIds = s.dieIds := rfl
@[simp] theorem State.setDie_cr1Root : (s.setDie d x).cr1Root = s.cr1Root := rfl
@[simp] theorem State.setDie_trayFuse : (s.setDie d x).trayFuse = s.trayFuse := rfl
@[simp] theorem State.setDie_fpLines : (s.setDie d x).fpLines = s.fpLines := rfl
@[simp] theorem State.setDie_seeds : (s.setDie d x).seeds = s.seeds := rfl
@[simp] theorem State.setDie_pins : (s.setDie d x).pins = s.pins := rfl
@[simp] theorem State.setDie_hack : (s.setDie d x).hack = s.hack := rfl
@[simp] theorem State.setDie_sync : (s.setDie d x).sync = s.sync := rfl
@[simp] theorem State.setDie_rdData : (s.setDie d x).rdData = s.rdData := rfl
@[simp] theorem State.setDie_beatHi : (s.setDie d x).beatHi = s.beatHi := rfl
@[simp] theorem State.setDie_topo : (s.setDie d x).topo = s.topo := rfl
@[simp] theorem State.setDie_routes : (s.setDie d x).routes = s.routes := rfl
@[simp] theorem State.setDie_reserve : (s.setDie d x).reserve = s.reserve := rfl
@[simp] theorem State.setDie_grants : (s.setDie d x).grants = s.grants := rfl
@[simp] theorem State.setDie_reports : (s.setDie d x).reports = s.reports := rfl
@[simp] theorem State.setDie_rcv : (s.setDie d x).rcv = s.rcv := rfl
@[simp] theorem State.setDie_engs : (s.setDie d x).engs = s.engs := rfl
@[simp] theorem State.setDie_queues : (s.setDie d x).queues = s.queues := rfl
@[simp] theorem State.setDie_streams : (s.setDie d x).streams = s.streams := rfl
@[simp] theorem State.setDie_opTable : (s.setDie d x).opTable = s.opTable := rfl
@[simp] theorem State.setDie_opDefs : (s.setDie d x).opDefs = s.opDefs := rfl
@[simp] theorem State.setDie_heads : (s.setDie d x).heads = s.heads := rfl
@[simp] theorem State.setDie_issued : (s.setDie d x).issued = s.issued := rfl
@[simp] theorem State.setDie_accepted : (s.setDie d x).accepted = s.accepted := rfl
@[simp] theorem State.setDie_failed : (s.setDie d x).failed = s.failed := rfl
@[simp] theorem State.setDie_seenIssued : (s.setDie d x).seenIssued = s.seenIssued := rfl
@[simp] theorem State.setDie_seenFailed : (s.setDie d x).seenFailed = s.seenFailed := rfl
@[simp] theorem State.setDie_nextTag : (s.setDie d x).nextTag = s.nextTag := rfl
@[simp] theorem State.setDie_hostEpoch : (s.setDie d x).hostEpoch = s.hostEpoch := rfl
@[simp] theorem State.setDie_fences : (s.setDie d x).fences = s.fences := rfl
@[simp] theorem State.setDie_rdReqs : (s.setDie d x).rdReqs = s.rdReqs := rfl
@[simp] theorem State.setDie_hosts : (s.setDie d x).hosts = s.hosts := rfl
@[simp] theorem State.setDie_ptp : (s.setDie d x).ptp = s.ptp := rfl
@[simp] theorem State.setDie_fus : (s.setDie d x).fus = s.fus := rfl
@[simp] theorem State.setDie_ldg : (s.setDie d x).ldg = s.ldg := rfl
@[simp] theorem State.setDie_fram : (s.setDie d x).fram = s.fram := rfl
@[simp] theorem State.setDie_boot : (s.setDie d x).boot = s.boot := rfl
@[simp] theorem State.setDie_chg : (s.setDie d x).chg = s.chg := rfl
@[simp] theorem State.setDie_tshadow : (s.setDie d x).tshadow = s.tshadow := rfl
@[simp] theorem State.setDie_recals : (s.setDie d x).recals = s.recals := rfl
@[simp] theorem State.setDie_landed : (s.setDie d x).landed = s.landed := rfl
@[simp] theorem State.setDie_recov : (s.setDie d x).recov = s.recov := rfl
@[simp] theorem State.setDie_getF (d' : Die) (b' : Blk) (i' : Nat) (f' : Fld) (k' : Nat) : (s.setDie d x).getF d' b' i' f' k' = s.getF d' b' i' f' k' := rfl
@[simp] theorem State.setDie_link (e' : LinkEnd) : (s.setDie d x).link e' = s.link e' := rfl
@[simp] theorem State.setDie_rdByte (a' : Nat) : (s.setDie d x).rdByte a' = s.rdByte a' := rfl
@[simp] theorem State.setDie_poisoned (a' : Nat) : (s.setDie d x).poisoned a' = s.poisoned a' := rfl
@[simp] theorem State.setDie_dom (k' : Nat) : (s.setDie d x).dom k' = s.dom k' := rfl
@[simp] theorem State.setDie_ctx (d' : Die) (n' : Nat) : (s.setDie d x).ctx d' n' = s.ctx d' n' := rfl
@[simp] theorem State.setDie_eng (d' : Die) (u' : Nat) : (s.setDie d x).eng d' u' = s.eng d' u' := rfl
@[simp] theorem State.setDie_host (c' : Crown) : (s.setDie d x).host c' = s.host c' := rfl
@[simp] theorem State.setDie_fusion (c' : Crown) : (s.setDie d x).fusion c' = s.fusion c' := rfl

end

/-! ### `wrBytes` -/

section

variable (pa : Nat) (l : List Byte)

@[simp] theorem State.wrBytes_pending : (s.wrBytes pa l).pending = s.pending := rfl
@[simp] theorem State.wrBytes_time : (s.wrBytes pa l).time = s.time := rfl
@[simp] theorem State.wrBytes_free : (s.wrBytes pa l).free = s.free := rfl
@[simp] theorem State.wrBytes_regs : (s.wrBytes pa l).regs = s.regs := rfl
@[simp] theorem State.wrBytes_resv : (s.wrBytes pa l).resv = s.resv := rfl
@[simp] theorem State.wrBytes_shadow : (s.wrBytes pa l).shadow = s.shadow := rfl
@[simp] theorem State.wrBytes_inForce : (s.wrBytes pa l).inForce = s.inForce := rfl
@[simp] theorem State.wrBytes_dies : (s.wrBytes pa l).dies = s.dies := rfl
@[simp] theorem State.wrBytes_links : (s.wrBytes pa l).links = s.links := rfl
@[simp] theorem State.wrBytes_tables : (s.wrBytes pa l).tables = s.tables := rfl
@[simp] theorem State.wrBytes_poison : (s.wrBytes pa l).poison = s.poison := rfl
@[simp] theorem State.wrBytes_ctxs : (s.wrBytes pa l).ctxs = s.ctxs := rfl
@[simp] theorem State.wrBytes_dieIds : (s.wrBytes pa l).dieIds = s.dieIds := rfl
@[simp] theorem State.wrBytes_cr1Root : (s.wrBytes pa l).cr1Root = s.cr1Root := rfl
@[simp] theorem State.wrBytes_trayFuse : (s.wrBytes pa l).trayFuse = s.trayFuse := rfl
@[simp] theorem State.wrBytes_fpLines : (s.wrBytes pa l).fpLines = s.fpLines := rfl
@[simp] theorem State.wrBytes_seeds : (s.wrBytes pa l).seeds = s.seeds := rfl
@[simp] theorem State.wrBytes_pins : (s.wrBytes pa l).pins = s.pins := rfl
@[simp] theorem State.wrBytes_hack : (s.wrBytes pa l).hack = s.hack := rfl
@[simp] theorem State.wrBytes_sync : (s.wrBytes pa l).sync = s.sync := rfl
@[simp] theorem State.wrBytes_rdData : (s.wrBytes pa l).rdData = s.rdData := rfl
@[simp] theorem State.wrBytes_beatHi : (s.wrBytes pa l).beatHi = s.beatHi := rfl
@[simp] theorem State.wrBytes_topo : (s.wrBytes pa l).topo = s.topo := rfl
@[simp] theorem State.wrBytes_routes : (s.wrBytes pa l).routes = s.routes := rfl
@[simp] theorem State.wrBytes_reserve : (s.wrBytes pa l).reserve = s.reserve := rfl
@[simp] theorem State.wrBytes_grants : (s.wrBytes pa l).grants = s.grants := rfl
@[simp] theorem State.wrBytes_reports : (s.wrBytes pa l).reports = s.reports := rfl
@[simp] theorem State.wrBytes_rcv : (s.wrBytes pa l).rcv = s.rcv := rfl
@[simp] theorem State.wrBytes_engs : (s.wrBytes pa l).engs = s.engs := rfl
@[simp] theorem State.wrBytes_queues : (s.wrBytes pa l).queues = s.queues := rfl
@[simp] theorem State.wrBytes_streams : (s.wrBytes pa l).streams = s.streams := rfl
@[simp] theorem State.wrBytes_opTable : (s.wrBytes pa l).opTable = s.opTable := rfl
@[simp] theorem State.wrBytes_opDefs : (s.wrBytes pa l).opDefs = s.opDefs := rfl
@[simp] theorem State.wrBytes_heads : (s.wrBytes pa l).heads = s.heads := rfl
@[simp] theorem State.wrBytes_issued : (s.wrBytes pa l).issued = s.issued := rfl
@[simp] theorem State.wrBytes_accepted : (s.wrBytes pa l).accepted = s.accepted := rfl
@[simp] theorem State.wrBytes_failed : (s.wrBytes pa l).failed = s.failed := rfl
@[simp] theorem State.wrBytes_seenIssued : (s.wrBytes pa l).seenIssued = s.seenIssued := rfl
@[simp] theorem State.wrBytes_seenFailed : (s.wrBytes pa l).seenFailed = s.seenFailed := rfl
@[simp] theorem State.wrBytes_nextTag : (s.wrBytes pa l).nextTag = s.nextTag := rfl
@[simp] theorem State.wrBytes_hostEpoch : (s.wrBytes pa l).hostEpoch = s.hostEpoch := rfl
@[simp] theorem State.wrBytes_fences : (s.wrBytes pa l).fences = s.fences := rfl
@[simp] theorem State.wrBytes_rdReqs : (s.wrBytes pa l).rdReqs = s.rdReqs := rfl
@[simp] theorem State.wrBytes_hosts : (s.wrBytes pa l).hosts = s.hosts := rfl
@[simp] theorem State.wrBytes_ptp : (s.wrBytes pa l).ptp = s.ptp := rfl
@[simp] theorem State.wrBytes_fus : (s.wrBytes pa l).fus = s.fus := rfl
@[simp] theorem State.wrBytes_ldg : (s.wrBytes pa l).ldg = s.ldg := rfl
@[simp] theorem State.wrBytes_fram : (s.wrBytes pa l).fram = s.fram := rfl
@[simp] theorem State.wrBytes_boot : (s.wrBytes pa l).boot = s.boot := rfl
@[simp] theorem State.wrBytes_chg : (s.wrBytes pa l).chg = s.chg := rfl
@[simp] theorem State.wrBytes_tshadow : (s.wrBytes pa l).tshadow = s.tshadow := rfl
@[simp] theorem State.wrBytes_recals : (s.wrBytes pa l).recals = s.recals := rfl
@[simp] theorem State.wrBytes_landed : (s.wrBytes pa l).landed = s.landed := rfl
@[simp] theorem State.wrBytes_recov : (s.wrBytes pa l).recov = s.recov := rfl
@[simp] theorem State.wrBytes_getF (d' : Die) (b' : Blk) (i' : Nat) (f' : Fld) (k' : Nat) : (s.wrBytes pa l).getF d' b' i' f' k' = s.getF d' b' i' f' k' := rfl
@[simp] theorem State.wrBytes_die (d' : Die) : (s.wrBytes pa l).die d' = s.die d' := rfl
@[simp] theorem State.wrBytes_link (e' : LinkEnd) : (s.wrBytes pa l).link e' = s.link e' := rfl
@[simp] theorem State.wrBytes_poisoned (a' : Nat) : (s.wrBytes pa l).poisoned a' = s.poisoned a' := rfl
@[simp] theorem State.wrBytes_dom (k' : Nat) : (s.wrBytes pa l).dom k' = s.dom k' := rfl
@[simp] theorem State.wrBytes_ctx (d' : Die) (n' : Nat) : (s.wrBytes pa l).ctx d' n' = s.ctx d' n' := rfl
@[simp] theorem State.wrBytes_eng (d' : Die) (u' : Nat) : (s.wrBytes pa l).eng d' u' = s.eng d' u' := rfl
@[simp] theorem State.wrBytes_host (c' : Crown) : (s.wrBytes pa l).host c' = s.host c' := rfl
@[simp] theorem State.wrBytes_fusion (c' : Crown) : (s.wrBytes pa l).fusion c' = s.fusion c' := rfl

end

/-! ### `setPoison` -/

section

variable (pa : Nat) (p : Bool)

@[simp] theorem State.setPoison_pending : (s.setPoison pa p).pending = s.pending := rfl
@[simp] theorem State.setPoison_time : (s.setPoison pa p).time = s.time := rfl
@[simp] theorem State.setPoison_free : (s.setPoison pa p).free = s.free := rfl
@[simp] theorem State.setPoison_regs : (s.setPoison pa p).regs = s.regs := rfl
@[simp] theorem State.setPoison_resv : (s.setPoison pa p).resv = s.resv := rfl
@[simp] theorem State.setPoison_shadow : (s.setPoison pa p).shadow = s.shadow := rfl
@[simp] theorem State.setPoison_inForce : (s.setPoison pa p).inForce = s.inForce := rfl
@[simp] theorem State.setPoison_dies : (s.setPoison pa p).dies = s.dies := rfl
@[simp] theorem State.setPoison_links : (s.setPoison pa p).links = s.links := rfl
@[simp] theorem State.setPoison_tables : (s.setPoison pa p).tables = s.tables := rfl
@[simp] theorem State.setPoison_mem : (s.setPoison pa p).mem = s.mem := rfl
@[simp] theorem State.setPoison_ctxs : (s.setPoison pa p).ctxs = s.ctxs := rfl
@[simp] theorem State.setPoison_dieIds : (s.setPoison pa p).dieIds = s.dieIds := rfl
@[simp] theorem State.setPoison_cr1Root : (s.setPoison pa p).cr1Root = s.cr1Root := rfl
@[simp] theorem State.setPoison_trayFuse : (s.setPoison pa p).trayFuse = s.trayFuse := rfl
@[simp] theorem State.setPoison_fpLines : (s.setPoison pa p).fpLines = s.fpLines := rfl
@[simp] theorem State.setPoison_seeds : (s.setPoison pa p).seeds = s.seeds := rfl
@[simp] theorem State.setPoison_pins : (s.setPoison pa p).pins = s.pins := rfl
@[simp] theorem State.setPoison_hack : (s.setPoison pa p).hack = s.hack := rfl
@[simp] theorem State.setPoison_sync : (s.setPoison pa p).sync = s.sync := rfl
@[simp] theorem State.setPoison_rdData : (s.setPoison pa p).rdData = s.rdData := rfl
@[simp] theorem State.setPoison_beatHi : (s.setPoison pa p).beatHi = s.beatHi := rfl
@[simp] theorem State.setPoison_topo : (s.setPoison pa p).topo = s.topo := rfl
@[simp] theorem State.setPoison_routes : (s.setPoison pa p).routes = s.routes := rfl
@[simp] theorem State.setPoison_reserve : (s.setPoison pa p).reserve = s.reserve := rfl
@[simp] theorem State.setPoison_grants : (s.setPoison pa p).grants = s.grants := rfl
@[simp] theorem State.setPoison_reports : (s.setPoison pa p).reports = s.reports := rfl
@[simp] theorem State.setPoison_rcv : (s.setPoison pa p).rcv = s.rcv := rfl
@[simp] theorem State.setPoison_engs : (s.setPoison pa p).engs = s.engs := rfl
@[simp] theorem State.setPoison_queues : (s.setPoison pa p).queues = s.queues := rfl
@[simp] theorem State.setPoison_streams : (s.setPoison pa p).streams = s.streams := rfl
@[simp] theorem State.setPoison_opTable : (s.setPoison pa p).opTable = s.opTable := rfl
@[simp] theorem State.setPoison_opDefs : (s.setPoison pa p).opDefs = s.opDefs := rfl
@[simp] theorem State.setPoison_heads : (s.setPoison pa p).heads = s.heads := rfl
@[simp] theorem State.setPoison_issued : (s.setPoison pa p).issued = s.issued := rfl
@[simp] theorem State.setPoison_accepted : (s.setPoison pa p).accepted = s.accepted := rfl
@[simp] theorem State.setPoison_failed : (s.setPoison pa p).failed = s.failed := rfl
@[simp] theorem State.setPoison_seenIssued : (s.setPoison pa p).seenIssued = s.seenIssued := rfl
@[simp] theorem State.setPoison_seenFailed : (s.setPoison pa p).seenFailed = s.seenFailed := rfl
@[simp] theorem State.setPoison_nextTag : (s.setPoison pa p).nextTag = s.nextTag := rfl
@[simp] theorem State.setPoison_hostEpoch : (s.setPoison pa p).hostEpoch = s.hostEpoch := rfl
@[simp] theorem State.setPoison_fences : (s.setPoison pa p).fences = s.fences := rfl
@[simp] theorem State.setPoison_rdReqs : (s.setPoison pa p).rdReqs = s.rdReqs := rfl
@[simp] theorem State.setPoison_hosts : (s.setPoison pa p).hosts = s.hosts := rfl
@[simp] theorem State.setPoison_ptp : (s.setPoison pa p).ptp = s.ptp := rfl
@[simp] theorem State.setPoison_fus : (s.setPoison pa p).fus = s.fus := rfl
@[simp] theorem State.setPoison_ldg : (s.setPoison pa p).ldg = s.ldg := rfl
@[simp] theorem State.setPoison_fram : (s.setPoison pa p).fram = s.fram := rfl
@[simp] theorem State.setPoison_boot : (s.setPoison pa p).boot = s.boot := rfl
@[simp] theorem State.setPoison_chg : (s.setPoison pa p).chg = s.chg := rfl
@[simp] theorem State.setPoison_tshadow : (s.setPoison pa p).tshadow = s.tshadow := rfl
@[simp] theorem State.setPoison_recals : (s.setPoison pa p).recals = s.recals := rfl
@[simp] theorem State.setPoison_landed : (s.setPoison pa p).landed = s.landed := rfl
@[simp] theorem State.setPoison_recov : (s.setPoison pa p).recov = s.recov := rfl
@[simp] theorem State.setPoison_getF (d' : Die) (b' : Blk) (i' : Nat) (f' : Fld) (k' : Nat) : (s.setPoison pa p).getF d' b' i' f' k' = s.getF d' b' i' f' k' := rfl
@[simp] theorem State.setPoison_die (d' : Die) : (s.setPoison pa p).die d' = s.die d' := rfl
@[simp] theorem State.setPoison_link (e' : LinkEnd) : (s.setPoison pa p).link e' = s.link e' := rfl
@[simp] theorem State.setPoison_rdByte (a' : Nat) : (s.setPoison pa p).rdByte a' = s.rdByte a' := rfl
@[simp] theorem State.setPoison_dom (k' : Nat) : (s.setPoison pa p).dom k' = s.dom k' := rfl
@[simp] theorem State.setPoison_ctx (d' : Die) (n' : Nat) : (s.setPoison pa p).ctx d' n' = s.ctx d' n' := rfl
@[simp] theorem State.setPoison_eng (d' : Die) (u' : Nat) : (s.setPoison pa p).eng d' u' = s.eng d' u' := rfl
@[simp] theorem State.setPoison_host (c' : Crown) : (s.setPoison pa p).host c' = s.host c' := rfl
@[simp] theorem State.setPoison_fusion (c' : Crown) : (s.setPoison pa p).fusion c' = s.fusion c' := rfl

end

/-! ### `setTbl` -/

section

variable (space d bank dir slot idx v : Nat)

@[simp] theorem State.setTbl_pending : (s.setTbl space d bank dir slot idx v).pending = s.pending := rfl
@[simp] theorem State.setTbl_time : (s.setTbl space d bank dir slot idx v).time = s.time := rfl
@[simp] theorem State.setTbl_free : (s.setTbl space d bank dir slot idx v).free = s.free := rfl
@[simp] theorem State.setTbl_regs : (s.setTbl space d bank dir slot idx v).regs = s.regs := rfl
@[simp] theorem State.setTbl_resv : (s.setTbl space d bank dir slot idx v).resv = s.resv := rfl
@[simp] theorem State.setTbl_shadow : (s.setTbl space d bank dir slot idx v).shadow = s.shadow := rfl
@[simp] theorem State.setTbl_inForce : (s.setTbl space d bank dir slot idx v).inForce = s.inForce := rfl
@[simp] theorem State.setTbl_dies : (s.setTbl space d bank dir slot idx v).dies = s.dies := rfl
@[simp] theorem State.setTbl_links : (s.setTbl space d bank dir slot idx v).links = s.links := rfl
@[simp] theorem State.setTbl_mem : (s.setTbl space d bank dir slot idx v).mem = s.mem := rfl
@[simp] theorem State.setTbl_poison : (s.setTbl space d bank dir slot idx v).poison = s.poison := rfl
@[simp] theorem State.setTbl_ctxs : (s.setTbl space d bank dir slot idx v).ctxs = s.ctxs := rfl
@[simp] theorem State.setTbl_dieIds : (s.setTbl space d bank dir slot idx v).dieIds = s.dieIds := rfl
@[simp] theorem State.setTbl_cr1Root : (s.setTbl space d bank dir slot idx v).cr1Root = s.cr1Root := rfl
@[simp] theorem State.setTbl_trayFuse : (s.setTbl space d bank dir slot idx v).trayFuse = s.trayFuse := rfl
@[simp] theorem State.setTbl_fpLines : (s.setTbl space d bank dir slot idx v).fpLines = s.fpLines := rfl
@[simp] theorem State.setTbl_seeds : (s.setTbl space d bank dir slot idx v).seeds = s.seeds := rfl
@[simp] theorem State.setTbl_pins : (s.setTbl space d bank dir slot idx v).pins = s.pins := rfl
@[simp] theorem State.setTbl_hack : (s.setTbl space d bank dir slot idx v).hack = s.hack := rfl
@[simp] theorem State.setTbl_sync : (s.setTbl space d bank dir slot idx v).sync = s.sync := rfl
@[simp] theorem State.setTbl_rdData : (s.setTbl space d bank dir slot idx v).rdData = s.rdData := rfl
@[simp] theorem State.setTbl_beatHi : (s.setTbl space d bank dir slot idx v).beatHi = s.beatHi := rfl
@[simp] theorem State.setTbl_topo : (s.setTbl space d bank dir slot idx v).topo = s.topo := rfl
@[simp] theorem State.setTbl_routes : (s.setTbl space d bank dir slot idx v).routes = s.routes := rfl
@[simp] theorem State.setTbl_reserve : (s.setTbl space d bank dir slot idx v).reserve = s.reserve := rfl
@[simp] theorem State.setTbl_grants : (s.setTbl space d bank dir slot idx v).grants = s.grants := rfl
@[simp] theorem State.setTbl_reports : (s.setTbl space d bank dir slot idx v).reports = s.reports := rfl
@[simp] theorem State.setTbl_rcv : (s.setTbl space d bank dir slot idx v).rcv = s.rcv := rfl
@[simp] theorem State.setTbl_engs : (s.setTbl space d bank dir slot idx v).engs = s.engs := rfl
@[simp] theorem State.setTbl_queues : (s.setTbl space d bank dir slot idx v).queues = s.queues := rfl
@[simp] theorem State.setTbl_streams : (s.setTbl space d bank dir slot idx v).streams = s.streams := rfl
@[simp] theorem State.setTbl_opTable : (s.setTbl space d bank dir slot idx v).opTable = s.opTable := rfl
@[simp] theorem State.setTbl_opDefs : (s.setTbl space d bank dir slot idx v).opDefs = s.opDefs := rfl
@[simp] theorem State.setTbl_heads : (s.setTbl space d bank dir slot idx v).heads = s.heads := rfl
@[simp] theorem State.setTbl_issued : (s.setTbl space d bank dir slot idx v).issued = s.issued := rfl
@[simp] theorem State.setTbl_accepted : (s.setTbl space d bank dir slot idx v).accepted = s.accepted := rfl
@[simp] theorem State.setTbl_failed : (s.setTbl space d bank dir slot idx v).failed = s.failed := rfl
@[simp] theorem State.setTbl_seenIssued : (s.setTbl space d bank dir slot idx v).seenIssued = s.seenIssued := rfl
@[simp] theorem State.setTbl_seenFailed : (s.setTbl space d bank dir slot idx v).seenFailed = s.seenFailed := rfl
@[simp] theorem State.setTbl_nextTag : (s.setTbl space d bank dir slot idx v).nextTag = s.nextTag := rfl
@[simp] theorem State.setTbl_hostEpoch : (s.setTbl space d bank dir slot idx v).hostEpoch = s.hostEpoch := rfl
@[simp] theorem State.setTbl_fences : (s.setTbl space d bank dir slot idx v).fences = s.fences := rfl
@[simp] theorem State.setTbl_rdReqs : (s.setTbl space d bank dir slot idx v).rdReqs = s.rdReqs := rfl
@[simp] theorem State.setTbl_hosts : (s.setTbl space d bank dir slot idx v).hosts = s.hosts := rfl
@[simp] theorem State.setTbl_ptp : (s.setTbl space d bank dir slot idx v).ptp = s.ptp := rfl
@[simp] theorem State.setTbl_fus : (s.setTbl space d bank dir slot idx v).fus = s.fus := rfl
@[simp] theorem State.setTbl_ldg : (s.setTbl space d bank dir slot idx v).ldg = s.ldg := rfl
@[simp] theorem State.setTbl_fram : (s.setTbl space d bank dir slot idx v).fram = s.fram := rfl
@[simp] theorem State.setTbl_boot : (s.setTbl space d bank dir slot idx v).boot = s.boot := rfl
@[simp] theorem State.setTbl_chg : (s.setTbl space d bank dir slot idx v).chg = s.chg := rfl
@[simp] theorem State.setTbl_tshadow : (s.setTbl space d bank dir slot idx v).tshadow = s.tshadow := rfl
@[simp] theorem State.setTbl_recals : (s.setTbl space d bank dir slot idx v).recals = s.recals := rfl
@[simp] theorem State.setTbl_landed : (s.setTbl space d bank dir slot idx v).landed = s.landed := rfl
@[simp] theorem State.setTbl_recov : (s.setTbl space d bank dir slot idx v).recov = s.recov := rfl
@[simp] theorem State.setTbl_getF (d' : Die) (b' : Blk) (i' : Nat) (f' : Fld) (k' : Nat) : (s.setTbl space d bank dir slot idx v).getF d' b' i' f' k' = s.getF d' b' i' f' k' := rfl
@[simp] theorem State.setTbl_die (d' : Die) : (s.setTbl space d bank dir slot idx v).die d' = s.die d' := rfl
@[simp] theorem State.setTbl_link (e' : LinkEnd) : (s.setTbl space d bank dir slot idx v).link e' = s.link e' := rfl
@[simp] theorem State.setTbl_rdByte (a' : Nat) : (s.setTbl space d bank dir slot idx v).rdByte a' = s.rdByte a' := rfl
@[simp] theorem State.setTbl_poisoned (a' : Nat) : (s.setTbl space d bank dir slot idx v).poisoned a' = s.poisoned a' := rfl
@[simp] theorem State.setTbl_dom (k' : Nat) : (s.setTbl space d bank dir slot idx v).dom k' = s.dom k' := rfl
@[simp] theorem State.setTbl_ctx (d' : Die) (n' : Nat) : (s.setTbl space d bank dir slot idx v).ctx d' n' = s.ctx d' n' := rfl
@[simp] theorem State.setTbl_eng (d' : Die) (u' : Nat) : (s.setTbl space d bank dir slot idx v).eng d' u' = s.eng d' u' := rfl
@[simp] theorem State.setTbl_host (c' : Crown) : (s.setTbl space d bank dir slot idx v).host c' = s.host c' := rfl
@[simp] theorem State.setTbl_fusion (c' : Crown) : (s.setTbl space d bank dir slot idx v).fusion c' = s.fusion c' := rfl

end

/-! ### `setCtx` -/

section

variable (d : Die) (n : Nat) (c : CtxSt)

@[simp] theorem State.setCtx_pending : (s.setCtx d n c).pending = s.pending := rfl
@[simp] theorem State.setCtx_time : (s.setCtx d n c).time = s.time := rfl
@[simp] theorem State.setCtx_free : (s.setCtx d n c).free = s.free := rfl
@[simp] theorem State.setCtx_regs : (s.setCtx d n c).regs = s.regs := rfl
@[simp] theorem State.setCtx_resv : (s.setCtx d n c).resv = s.resv := rfl
@[simp] theorem State.setCtx_shadow : (s.setCtx d n c).shadow = s.shadow := rfl
@[simp] theorem State.setCtx_inForce : (s.setCtx d n c).inForce = s.inForce := rfl
@[simp] theorem State.setCtx_dies : (s.setCtx d n c).dies = s.dies := rfl
@[simp] theorem State.setCtx_links : (s.setCtx d n c).links = s.links := rfl
@[simp] theorem State.setCtx_tables : (s.setCtx d n c).tables = s.tables := rfl
@[simp] theorem State.setCtx_mem : (s.setCtx d n c).mem = s.mem := rfl
@[simp] theorem State.setCtx_poison : (s.setCtx d n c).poison = s.poison := rfl
@[simp] theorem State.setCtx_dieIds : (s.setCtx d n c).dieIds = s.dieIds := rfl
@[simp] theorem State.setCtx_cr1Root : (s.setCtx d n c).cr1Root = s.cr1Root := rfl
@[simp] theorem State.setCtx_trayFuse : (s.setCtx d n c).trayFuse = s.trayFuse := rfl
@[simp] theorem State.setCtx_fpLines : (s.setCtx d n c).fpLines = s.fpLines := rfl
@[simp] theorem State.setCtx_seeds : (s.setCtx d n c).seeds = s.seeds := rfl
@[simp] theorem State.setCtx_pins : (s.setCtx d n c).pins = s.pins := rfl
@[simp] theorem State.setCtx_hack : (s.setCtx d n c).hack = s.hack := rfl
@[simp] theorem State.setCtx_sync : (s.setCtx d n c).sync = s.sync := rfl
@[simp] theorem State.setCtx_rdData : (s.setCtx d n c).rdData = s.rdData := rfl
@[simp] theorem State.setCtx_beatHi : (s.setCtx d n c).beatHi = s.beatHi := rfl
@[simp] theorem State.setCtx_topo : (s.setCtx d n c).topo = s.topo := rfl
@[simp] theorem State.setCtx_routes : (s.setCtx d n c).routes = s.routes := rfl
@[simp] theorem State.setCtx_reserve : (s.setCtx d n c).reserve = s.reserve := rfl
@[simp] theorem State.setCtx_grants : (s.setCtx d n c).grants = s.grants := rfl
@[simp] theorem State.setCtx_reports : (s.setCtx d n c).reports = s.reports := rfl
@[simp] theorem State.setCtx_rcv : (s.setCtx d n c).rcv = s.rcv := rfl
@[simp] theorem State.setCtx_engs : (s.setCtx d n c).engs = s.engs := rfl
@[simp] theorem State.setCtx_queues : (s.setCtx d n c).queues = s.queues := rfl
@[simp] theorem State.setCtx_streams : (s.setCtx d n c).streams = s.streams := rfl
@[simp] theorem State.setCtx_opTable : (s.setCtx d n c).opTable = s.opTable := rfl
@[simp] theorem State.setCtx_opDefs : (s.setCtx d n c).opDefs = s.opDefs := rfl
@[simp] theorem State.setCtx_heads : (s.setCtx d n c).heads = s.heads := rfl
@[simp] theorem State.setCtx_issued : (s.setCtx d n c).issued = s.issued := rfl
@[simp] theorem State.setCtx_accepted : (s.setCtx d n c).accepted = s.accepted := rfl
@[simp] theorem State.setCtx_failed : (s.setCtx d n c).failed = s.failed := rfl
@[simp] theorem State.setCtx_seenIssued : (s.setCtx d n c).seenIssued = s.seenIssued := rfl
@[simp] theorem State.setCtx_seenFailed : (s.setCtx d n c).seenFailed = s.seenFailed := rfl
@[simp] theorem State.setCtx_nextTag : (s.setCtx d n c).nextTag = s.nextTag := rfl
@[simp] theorem State.setCtx_hostEpoch : (s.setCtx d n c).hostEpoch = s.hostEpoch := rfl
@[simp] theorem State.setCtx_fences : (s.setCtx d n c).fences = s.fences := rfl
@[simp] theorem State.setCtx_rdReqs : (s.setCtx d n c).rdReqs = s.rdReqs := rfl
@[simp] theorem State.setCtx_hosts : (s.setCtx d n c).hosts = s.hosts := rfl
@[simp] theorem State.setCtx_ptp : (s.setCtx d n c).ptp = s.ptp := rfl
@[simp] theorem State.setCtx_fus : (s.setCtx d n c).fus = s.fus := rfl
@[simp] theorem State.setCtx_ldg : (s.setCtx d n c).ldg = s.ldg := rfl
@[simp] theorem State.setCtx_fram : (s.setCtx d n c).fram = s.fram := rfl
@[simp] theorem State.setCtx_boot : (s.setCtx d n c).boot = s.boot := rfl
@[simp] theorem State.setCtx_chg : (s.setCtx d n c).chg = s.chg := rfl
@[simp] theorem State.setCtx_tshadow : (s.setCtx d n c).tshadow = s.tshadow := rfl
@[simp] theorem State.setCtx_recals : (s.setCtx d n c).recals = s.recals := rfl
@[simp] theorem State.setCtx_landed : (s.setCtx d n c).landed = s.landed := rfl
@[simp] theorem State.setCtx_recov : (s.setCtx d n c).recov = s.recov := rfl
@[simp] theorem State.setCtx_getF (d' : Die) (b' : Blk) (i' : Nat) (f' : Fld) (k' : Nat) : (s.setCtx d n c).getF d' b' i' f' k' = s.getF d' b' i' f' k' := rfl
@[simp] theorem State.setCtx_die (d' : Die) : (s.setCtx d n c).die d' = s.die d' := rfl
@[simp] theorem State.setCtx_link (e' : LinkEnd) : (s.setCtx d n c).link e' = s.link e' := rfl
@[simp] theorem State.setCtx_rdByte (a' : Nat) : (s.setCtx d n c).rdByte a' = s.rdByte a' := rfl
@[simp] theorem State.setCtx_poisoned (a' : Nat) : (s.setCtx d n c).poisoned a' = s.poisoned a' := rfl
@[simp] theorem State.setCtx_dom (k' : Nat) : (s.setCtx d n c).dom k' = s.dom k' := rfl
@[simp] theorem State.setCtx_eng (d' : Die) (u' : Nat) : (s.setCtx d n c).eng d' u' = s.eng d' u' := rfl
@[simp] theorem State.setCtx_host (c' : Crown) : (s.setCtx d n c).host c' = s.host c' := rfl
@[simp] theorem State.setCtx_fusion (c' : Crown) : (s.setCtx d n c).fusion c' = s.fusion c' := rfl

end

/-! ### `setLink` -/

section

variable (e : LinkEnd) (l : LinkSt)

@[simp] theorem State.setLink_pending : (s.setLink e l).pending = s.pending := rfl
@[simp] theorem State.setLink_time : (s.setLink e l).time = s.time := rfl
@[simp] theorem State.setLink_free : (s.setLink e l).free = s.free := rfl
@[simp] theorem State.setLink_regs : (s.setLink e l).regs = s.regs := rfl
@[simp] theorem State.setLink_resv : (s.setLink e l).resv = s.resv := rfl
@[simp] theorem State.setLink_shadow : (s.setLink e l).shadow = s.shadow := rfl
@[simp] theorem State.setLink_inForce : (s.setLink e l).inForce = s.inForce := rfl
@[simp] theorem State.setLink_dies : (s.setLink e l).dies = s.dies := rfl
@[simp] theorem State.setLink_tables : (s.setLink e l).tables = s.tables := rfl
@[simp] theorem State.setLink_mem : (s.setLink e l).mem = s.mem := rfl
@[simp] theorem State.setLink_poison : (s.setLink e l).poison = s.poison := rfl
@[simp] theorem State.setLink_ctxs : (s.setLink e l).ctxs = s.ctxs := rfl
@[simp] theorem State.setLink_dieIds : (s.setLink e l).dieIds = s.dieIds := rfl
@[simp] theorem State.setLink_cr1Root : (s.setLink e l).cr1Root = s.cr1Root := rfl
@[simp] theorem State.setLink_trayFuse : (s.setLink e l).trayFuse = s.trayFuse := rfl
@[simp] theorem State.setLink_fpLines : (s.setLink e l).fpLines = s.fpLines := rfl
@[simp] theorem State.setLink_seeds : (s.setLink e l).seeds = s.seeds := rfl
@[simp] theorem State.setLink_pins : (s.setLink e l).pins = s.pins := rfl
@[simp] theorem State.setLink_hack : (s.setLink e l).hack = s.hack := rfl
@[simp] theorem State.setLink_sync : (s.setLink e l).sync = s.sync := rfl
@[simp] theorem State.setLink_rdData : (s.setLink e l).rdData = s.rdData := rfl
@[simp] theorem State.setLink_beatHi : (s.setLink e l).beatHi = s.beatHi := rfl
@[simp] theorem State.setLink_topo : (s.setLink e l).topo = s.topo := rfl
@[simp] theorem State.setLink_routes : (s.setLink e l).routes = s.routes := rfl
@[simp] theorem State.setLink_reserve : (s.setLink e l).reserve = s.reserve := rfl
@[simp] theorem State.setLink_grants : (s.setLink e l).grants = s.grants := rfl
@[simp] theorem State.setLink_reports : (s.setLink e l).reports = s.reports := rfl
@[simp] theorem State.setLink_rcv : (s.setLink e l).rcv = s.rcv := rfl
@[simp] theorem State.setLink_engs : (s.setLink e l).engs = s.engs := rfl
@[simp] theorem State.setLink_queues : (s.setLink e l).queues = s.queues := rfl
@[simp] theorem State.setLink_streams : (s.setLink e l).streams = s.streams := rfl
@[simp] theorem State.setLink_opTable : (s.setLink e l).opTable = s.opTable := rfl
@[simp] theorem State.setLink_opDefs : (s.setLink e l).opDefs = s.opDefs := rfl
@[simp] theorem State.setLink_heads : (s.setLink e l).heads = s.heads := rfl
@[simp] theorem State.setLink_issued : (s.setLink e l).issued = s.issued := rfl
@[simp] theorem State.setLink_accepted : (s.setLink e l).accepted = s.accepted := rfl
@[simp] theorem State.setLink_failed : (s.setLink e l).failed = s.failed := rfl
@[simp] theorem State.setLink_seenIssued : (s.setLink e l).seenIssued = s.seenIssued := rfl
@[simp] theorem State.setLink_seenFailed : (s.setLink e l).seenFailed = s.seenFailed := rfl
@[simp] theorem State.setLink_nextTag : (s.setLink e l).nextTag = s.nextTag := rfl
@[simp] theorem State.setLink_hostEpoch : (s.setLink e l).hostEpoch = s.hostEpoch := rfl
@[simp] theorem State.setLink_fences : (s.setLink e l).fences = s.fences := rfl
@[simp] theorem State.setLink_rdReqs : (s.setLink e l).rdReqs = s.rdReqs := rfl
@[simp] theorem State.setLink_hosts : (s.setLink e l).hosts = s.hosts := rfl
@[simp] theorem State.setLink_ptp : (s.setLink e l).ptp = s.ptp := rfl
@[simp] theorem State.setLink_fus : (s.setLink e l).fus = s.fus := rfl
@[simp] theorem State.setLink_ldg : (s.setLink e l).ldg = s.ldg := rfl
@[simp] theorem State.setLink_fram : (s.setLink e l).fram = s.fram := rfl
@[simp] theorem State.setLink_boot : (s.setLink e l).boot = s.boot := rfl
@[simp] theorem State.setLink_chg : (s.setLink e l).chg = s.chg := rfl
@[simp] theorem State.setLink_tshadow : (s.setLink e l).tshadow = s.tshadow := rfl
@[simp] theorem State.setLink_recals : (s.setLink e l).recals = s.recals := rfl
@[simp] theorem State.setLink_landed : (s.setLink e l).landed = s.landed := rfl
@[simp] theorem State.setLink_recov : (s.setLink e l).recov = s.recov := rfl
@[simp] theorem State.setLink_getF (d' : Die) (b' : Blk) (i' : Nat) (f' : Fld) (k' : Nat) : (s.setLink e l).getF d' b' i' f' k' = s.getF d' b' i' f' k' := rfl
@[simp] theorem State.setLink_die (d' : Die) : (s.setLink e l).die d' = s.die d' := rfl
@[simp] theorem State.setLink_rdByte (a' : Nat) : (s.setLink e l).rdByte a' = s.rdByte a' := rfl
@[simp] theorem State.setLink_poisoned (a' : Nat) : (s.setLink e l).poisoned a' = s.poisoned a' := rfl
@[simp] theorem State.setLink_dom (k' : Nat) : (s.setLink e l).dom k' = s.dom k' := rfl
@[simp] theorem State.setLink_ctx (d' : Die) (n' : Nat) : (s.setLink e l).ctx d' n' = s.ctx d' n' := rfl
@[simp] theorem State.setLink_eng (d' : Die) (u' : Nat) : (s.setLink e l).eng d' u' = s.eng d' u' := rfl
@[simp] theorem State.setLink_host (c' : Crown) : (s.setLink e l).host c' = s.host c' := rfl
@[simp] theorem State.setLink_fusion (c' : Crown) : (s.setLink e l).fusion c' = s.fusion c' := rfl

end

/-! ### `setDom` -/

section

variable (k : Nat) (x : RcvDom)

@[simp] theorem State.setDom_pending : (s.setDom k x).pending = s.pending := rfl
@[simp] theorem State.setDom_time : (s.setDom k x).time = s.time := rfl
@[simp] theorem State.setDom_free : (s.setDom k x).free = s.free := rfl
@[simp] theorem State.setDom_regs : (s.setDom k x).regs = s.regs := rfl
@[simp] theorem State.setDom_resv : (s.setDom k x).resv = s.resv := rfl
@[simp] theorem State.setDom_shadow : (s.setDom k x).shadow = s.shadow := rfl
@[simp] theorem State.setDom_inForce : (s.setDom k x).inForce = s.inForce := rfl
@[simp] theorem State.setDom_dies : (s.setDom k x).dies = s.dies := rfl
@[simp] theorem State.setDom_links : (s.setDom k x).links = s.links := rfl
@[simp] theorem State.setDom_tables : (s.setDom k x).tables = s.tables := rfl
@[simp] theorem State.setDom_mem : (s.setDom k x).mem = s.mem := rfl
@[simp] theorem State.setDom_poison : (s.setDom k x).poison = s.poison := rfl
@[simp] theorem State.setDom_ctxs : (s.setDom k x).ctxs = s.ctxs := rfl
@[simp] theorem State.setDom_dieIds : (s.setDom k x).dieIds = s.dieIds := rfl
@[simp] theorem State.setDom_cr1Root : (s.setDom k x).cr1Root = s.cr1Root := rfl
@[simp] theorem State.setDom_trayFuse : (s.setDom k x).trayFuse = s.trayFuse := rfl
@[simp] theorem State.setDom_fpLines : (s.setDom k x).fpLines = s.fpLines := rfl
@[simp] theorem State.setDom_seeds : (s.setDom k x).seeds = s.seeds := rfl
@[simp] theorem State.setDom_pins : (s.setDom k x).pins = s.pins := rfl
@[simp] theorem State.setDom_hack : (s.setDom k x).hack = s.hack := rfl
@[simp] theorem State.setDom_sync : (s.setDom k x).sync = s.sync := rfl
@[simp] theorem State.setDom_rdData : (s.setDom k x).rdData = s.rdData := rfl
@[simp] theorem State.setDom_beatHi : (s.setDom k x).beatHi = s.beatHi := rfl
@[simp] theorem State.setDom_topo : (s.setDom k x).topo = s.topo := rfl
@[simp] theorem State.setDom_routes : (s.setDom k x).routes = s.routes := rfl
@[simp] theorem State.setDom_reserve : (s.setDom k x).reserve = s.reserve := rfl
@[simp] theorem State.setDom_grants : (s.setDom k x).grants = s.grants := rfl
@[simp] theorem State.setDom_reports : (s.setDom k x).reports = s.reports := rfl
@[simp] theorem State.setDom_engs : (s.setDom k x).engs = s.engs := rfl
@[simp] theorem State.setDom_queues : (s.setDom k x).queues = s.queues := rfl
@[simp] theorem State.setDom_streams : (s.setDom k x).streams = s.streams := rfl
@[simp] theorem State.setDom_opTable : (s.setDom k x).opTable = s.opTable := rfl
@[simp] theorem State.setDom_opDefs : (s.setDom k x).opDefs = s.opDefs := rfl
@[simp] theorem State.setDom_heads : (s.setDom k x).heads = s.heads := rfl
@[simp] theorem State.setDom_issued : (s.setDom k x).issued = s.issued := rfl
@[simp] theorem State.setDom_accepted : (s.setDom k x).accepted = s.accepted := rfl
@[simp] theorem State.setDom_failed : (s.setDom k x).failed = s.failed := rfl
@[simp] theorem State.setDom_seenIssued : (s.setDom k x).seenIssued = s.seenIssued := rfl
@[simp] theorem State.setDom_seenFailed : (s.setDom k x).seenFailed = s.seenFailed := rfl
@[simp] theorem State.setDom_nextTag : (s.setDom k x).nextTag = s.nextTag := rfl
@[simp] theorem State.setDom_hostEpoch : (s.setDom k x).hostEpoch = s.hostEpoch := rfl
@[simp] theorem State.setDom_fences : (s.setDom k x).fences = s.fences := rfl
@[simp] theorem State.setDom_rdReqs : (s.setDom k x).rdReqs = s.rdReqs := rfl
@[simp] theorem State.setDom_hosts : (s.setDom k x).hosts = s.hosts := rfl
@[simp] theorem State.setDom_ptp : (s.setDom k x).ptp = s.ptp := rfl
@[simp] theorem State.setDom_fus : (s.setDom k x).fus = s.fus := rfl
@[simp] theorem State.setDom_ldg : (s.setDom k x).ldg = s.ldg := rfl
@[simp] theorem State.setDom_fram : (s.setDom k x).fram = s.fram := rfl
@[simp] theorem State.setDom_boot : (s.setDom k x).boot = s.boot := rfl
@[simp] theorem State.setDom_chg : (s.setDom k x).chg = s.chg := rfl
@[simp] theorem State.setDom_tshadow : (s.setDom k x).tshadow = s.tshadow := rfl
@[simp] theorem State.setDom_recals : (s.setDom k x).recals = s.recals := rfl
@[simp] theorem State.setDom_landed : (s.setDom k x).landed = s.landed := rfl
@[simp] theorem State.setDom_recov : (s.setDom k x).recov = s.recov := rfl
@[simp] theorem State.setDom_getF (d' : Die) (b' : Blk) (i' : Nat) (f' : Fld) (k' : Nat) : (s.setDom k x).getF d' b' i' f' k' = s.getF d' b' i' f' k' := rfl
@[simp] theorem State.setDom_die (d' : Die) : (s.setDom k x).die d' = s.die d' := rfl
@[simp] theorem State.setDom_link (e' : LinkEnd) : (s.setDom k x).link e' = s.link e' := rfl
@[simp] theorem State.setDom_rdByte (a' : Nat) : (s.setDom k x).rdByte a' = s.rdByte a' := rfl
@[simp] theorem State.setDom_poisoned (a' : Nat) : (s.setDom k x).poisoned a' = s.poisoned a' := rfl
@[simp] theorem State.setDom_ctx (d' : Die) (n' : Nat) : (s.setDom k x).ctx d' n' = s.ctx d' n' := rfl
@[simp] theorem State.setDom_eng (d' : Die) (u' : Nat) : (s.setDom k x).eng d' u' = s.eng d' u' := rfl
@[simp] theorem State.setDom_host (c' : Crown) : (s.setDom k x).host c' = s.host c' := rfl
@[simp] theorem State.setDom_fusion (c' : Crown) : (s.setDom k x).fusion c' = s.fusion c' := rfl

end

/-! ### `putRd` -/

section

variable (p : Path) (v : Nat)

@[simp] theorem State.putRd_pending : (s.putRd p v).pending = s.pending := rfl
@[simp] theorem State.putRd_time : (s.putRd p v).time = s.time := rfl
@[simp] theorem State.putRd_free : (s.putRd p v).free = s.free := rfl
@[simp] theorem State.putRd_regs : (s.putRd p v).regs = s.regs := rfl
@[simp] theorem State.putRd_resv : (s.putRd p v).resv = s.resv := rfl
@[simp] theorem State.putRd_shadow : (s.putRd p v).shadow = s.shadow := rfl
@[simp] theorem State.putRd_inForce : (s.putRd p v).inForce = s.inForce := rfl
@[simp] theorem State.putRd_dies : (s.putRd p v).dies = s.dies := rfl
@[simp] theorem State.putRd_links : (s.putRd p v).links = s.links := rfl
@[simp] theorem State.putRd_tables : (s.putRd p v).tables = s.tables := rfl
@[simp] theorem State.putRd_mem : (s.putRd p v).mem = s.mem := rfl
@[simp] theorem State.putRd_poison : (s.putRd p v).poison = s.poison := rfl
@[simp] theorem State.putRd_ctxs : (s.putRd p v).ctxs = s.ctxs := rfl
@[simp] theorem State.putRd_dieIds : (s.putRd p v).dieIds = s.dieIds := rfl
@[simp] theorem State.putRd_cr1Root : (s.putRd p v).cr1Root = s.cr1Root := rfl
@[simp] theorem State.putRd_trayFuse : (s.putRd p v).trayFuse = s.trayFuse := rfl
@[simp] theorem State.putRd_fpLines : (s.putRd p v).fpLines = s.fpLines := rfl
@[simp] theorem State.putRd_seeds : (s.putRd p v).seeds = s.seeds := rfl
@[simp] theorem State.putRd_pins : (s.putRd p v).pins = s.pins := rfl
@[simp] theorem State.putRd_hack : (s.putRd p v).hack = s.hack := rfl
@[simp] theorem State.putRd_sync : (s.putRd p v).sync = s.sync := rfl
@[simp] theorem State.putRd_beatHi : (s.putRd p v).beatHi = s.beatHi := rfl
@[simp] theorem State.putRd_topo : (s.putRd p v).topo = s.topo := rfl
@[simp] theorem State.putRd_routes : (s.putRd p v).routes = s.routes := rfl
@[simp] theorem State.putRd_reserve : (s.putRd p v).reserve = s.reserve := rfl
@[simp] theorem State.putRd_grants : (s.putRd p v).grants = s.grants := rfl
@[simp] theorem State.putRd_reports : (s.putRd p v).reports = s.reports := rfl
@[simp] theorem State.putRd_rcv : (s.putRd p v).rcv = s.rcv := rfl
@[simp] theorem State.putRd_engs : (s.putRd p v).engs = s.engs := rfl
@[simp] theorem State.putRd_queues : (s.putRd p v).queues = s.queues := rfl
@[simp] theorem State.putRd_streams : (s.putRd p v).streams = s.streams := rfl
@[simp] theorem State.putRd_opTable : (s.putRd p v).opTable = s.opTable := rfl
@[simp] theorem State.putRd_opDefs : (s.putRd p v).opDefs = s.opDefs := rfl
@[simp] theorem State.putRd_heads : (s.putRd p v).heads = s.heads := rfl
@[simp] theorem State.putRd_issued : (s.putRd p v).issued = s.issued := rfl
@[simp] theorem State.putRd_accepted : (s.putRd p v).accepted = s.accepted := rfl
@[simp] theorem State.putRd_failed : (s.putRd p v).failed = s.failed := rfl
@[simp] theorem State.putRd_seenIssued : (s.putRd p v).seenIssued = s.seenIssued := rfl
@[simp] theorem State.putRd_seenFailed : (s.putRd p v).seenFailed = s.seenFailed := rfl
@[simp] theorem State.putRd_nextTag : (s.putRd p v).nextTag = s.nextTag := rfl
@[simp] theorem State.putRd_hostEpoch : (s.putRd p v).hostEpoch = s.hostEpoch := rfl
@[simp] theorem State.putRd_fences : (s.putRd p v).fences = s.fences := rfl
@[simp] theorem State.putRd_rdReqs : (s.putRd p v).rdReqs = s.rdReqs := rfl
@[simp] theorem State.putRd_hosts : (s.putRd p v).hosts = s.hosts := rfl
@[simp] theorem State.putRd_ptp : (s.putRd p v).ptp = s.ptp := rfl
@[simp] theorem State.putRd_fus : (s.putRd p v).fus = s.fus := rfl
@[simp] theorem State.putRd_ldg : (s.putRd p v).ldg = s.ldg := rfl
@[simp] theorem State.putRd_fram : (s.putRd p v).fram = s.fram := rfl
@[simp] theorem State.putRd_boot : (s.putRd p v).boot = s.boot := rfl
@[simp] theorem State.putRd_chg : (s.putRd p v).chg = s.chg := rfl
@[simp] theorem State.putRd_tshadow : (s.putRd p v).tshadow = s.tshadow := rfl
@[simp] theorem State.putRd_recals : (s.putRd p v).recals = s.recals := rfl
@[simp] theorem State.putRd_landed : (s.putRd p v).landed = s.landed := rfl
@[simp] theorem State.putRd_recov : (s.putRd p v).recov = s.recov := rfl
@[simp] theorem State.putRd_getF (d' : Die) (b' : Blk) (i' : Nat) (f' : Fld) (k' : Nat) : (s.putRd p v).getF d' b' i' f' k' = s.getF d' b' i' f' k' := rfl
@[simp] theorem State.putRd_die (d' : Die) : (s.putRd p v).die d' = s.die d' := rfl
@[simp] theorem State.putRd_link (e' : LinkEnd) : (s.putRd p v).link e' = s.link e' := rfl
@[simp] theorem State.putRd_rdByte (a' : Nat) : (s.putRd p v).rdByte a' = s.rdByte a' := rfl
@[simp] theorem State.putRd_poisoned (a' : Nat) : (s.putRd p v).poisoned a' = s.poisoned a' := rfl
@[simp] theorem State.putRd_dom (k' : Nat) : (s.putRd p v).dom k' = s.dom k' := rfl
@[simp] theorem State.putRd_ctx (d' : Die) (n' : Nat) : (s.putRd p v).ctx d' n' = s.ctx d' n' := rfl
@[simp] theorem State.putRd_eng (d' : Die) (u' : Nat) : (s.putRd p v).eng d' u' = s.eng d' u' := rfl
@[simp] theorem State.putRd_host (c' : Crown) : (s.putRd p v).host c' = s.host c' := rfl
@[simp] theorem State.putRd_fusion (c' : Crown) : (s.putRd p v).fusion c' = s.fusion c' := rfl

end

/-! ### `setEng` -/

section

variable (d : Die) (u : Nat) (x : EngSt)

@[simp] theorem State.setEng_pending : (s.setEng d u x).pending = s.pending := rfl
@[simp] theorem State.setEng_time : (s.setEng d u x).time = s.time := rfl
@[simp] theorem State.setEng_free : (s.setEng d u x).free = s.free := rfl
@[simp] theorem State.setEng_regs : (s.setEng d u x).regs = s.regs := rfl
@[simp] theorem State.setEng_resv : (s.setEng d u x).resv = s.resv := rfl
@[simp] theorem State.setEng_shadow : (s.setEng d u x).shadow = s.shadow := rfl
@[simp] theorem State.setEng_inForce : (s.setEng d u x).inForce = s.inForce := rfl
@[simp] theorem State.setEng_dies : (s.setEng d u x).dies = s.dies := rfl
@[simp] theorem State.setEng_links : (s.setEng d u x).links = s.links := rfl
@[simp] theorem State.setEng_tables : (s.setEng d u x).tables = s.tables := rfl
@[simp] theorem State.setEng_mem : (s.setEng d u x).mem = s.mem := rfl
@[simp] theorem State.setEng_poison : (s.setEng d u x).poison = s.poison := rfl
@[simp] theorem State.setEng_ctxs : (s.setEng d u x).ctxs = s.ctxs := rfl
@[simp] theorem State.setEng_dieIds : (s.setEng d u x).dieIds = s.dieIds := rfl
@[simp] theorem State.setEng_cr1Root : (s.setEng d u x).cr1Root = s.cr1Root := rfl
@[simp] theorem State.setEng_trayFuse : (s.setEng d u x).trayFuse = s.trayFuse := rfl
@[simp] theorem State.setEng_fpLines : (s.setEng d u x).fpLines = s.fpLines := rfl
@[simp] theorem State.setEng_seeds : (s.setEng d u x).seeds = s.seeds := rfl
@[simp] theorem State.setEng_pins : (s.setEng d u x).pins = s.pins := rfl
@[simp] theorem State.setEng_hack : (s.setEng d u x).hack = s.hack := rfl
@[simp] theorem State.setEng_sync : (s.setEng d u x).sync = s.sync := rfl
@[simp] theorem State.setEng_rdData : (s.setEng d u x).rdData = s.rdData := rfl
@[simp] theorem State.setEng_beatHi : (s.setEng d u x).beatHi = s.beatHi := rfl
@[simp] theorem State.setEng_topo : (s.setEng d u x).topo = s.topo := rfl
@[simp] theorem State.setEng_routes : (s.setEng d u x).routes = s.routes := rfl
@[simp] theorem State.setEng_reserve : (s.setEng d u x).reserve = s.reserve := rfl
@[simp] theorem State.setEng_grants : (s.setEng d u x).grants = s.grants := rfl
@[simp] theorem State.setEng_reports : (s.setEng d u x).reports = s.reports := rfl
@[simp] theorem State.setEng_rcv : (s.setEng d u x).rcv = s.rcv := rfl
@[simp] theorem State.setEng_queues : (s.setEng d u x).queues = s.queues := rfl
@[simp] theorem State.setEng_streams : (s.setEng d u x).streams = s.streams := rfl
@[simp] theorem State.setEng_opTable : (s.setEng d u x).opTable = s.opTable := rfl
@[simp] theorem State.setEng_opDefs : (s.setEng d u x).opDefs = s.opDefs := rfl
@[simp] theorem State.setEng_heads : (s.setEng d u x).heads = s.heads := rfl
@[simp] theorem State.setEng_issued : (s.setEng d u x).issued = s.issued := rfl
@[simp] theorem State.setEng_accepted : (s.setEng d u x).accepted = s.accepted := rfl
@[simp] theorem State.setEng_failed : (s.setEng d u x).failed = s.failed := rfl
@[simp] theorem State.setEng_seenIssued : (s.setEng d u x).seenIssued = s.seenIssued := rfl
@[simp] theorem State.setEng_seenFailed : (s.setEng d u x).seenFailed = s.seenFailed := rfl
@[simp] theorem State.setEng_nextTag : (s.setEng d u x).nextTag = s.nextTag := rfl
@[simp] theorem State.setEng_hostEpoch : (s.setEng d u x).hostEpoch = s.hostEpoch := rfl
@[simp] theorem State.setEng_fences : (s.setEng d u x).fences = s.fences := rfl
@[simp] theorem State.setEng_rdReqs : (s.setEng d u x).rdReqs = s.rdReqs := rfl
@[simp] theorem State.setEng_hosts : (s.setEng d u x).hosts = s.hosts := rfl
@[simp] theorem State.setEng_ptp : (s.setEng d u x).ptp = s.ptp := rfl
@[simp] theorem State.setEng_fus : (s.setEng d u x).fus = s.fus := rfl
@[simp] theorem State.setEng_ldg : (s.setEng d u x).ldg = s.ldg := rfl
@[simp] theorem State.setEng_fram : (s.setEng d u x).fram = s.fram := rfl
@[simp] theorem State.setEng_boot : (s.setEng d u x).boot = s.boot := rfl
@[simp] theorem State.setEng_chg : (s.setEng d u x).chg = s.chg := rfl
@[simp] theorem State.setEng_tshadow : (s.setEng d u x).tshadow = s.tshadow := rfl
@[simp] theorem State.setEng_recals : (s.setEng d u x).recals = s.recals := rfl
@[simp] theorem State.setEng_landed : (s.setEng d u x).landed = s.landed := rfl
@[simp] theorem State.setEng_recov : (s.setEng d u x).recov = s.recov := rfl
@[simp] theorem State.setEng_getF (d' : Die) (b' : Blk) (i' : Nat) (f' : Fld) (k' : Nat) : (s.setEng d u x).getF d' b' i' f' k' = s.getF d' b' i' f' k' := rfl
@[simp] theorem State.setEng_die (d' : Die) : (s.setEng d u x).die d' = s.die d' := rfl
@[simp] theorem State.setEng_link (e' : LinkEnd) : (s.setEng d u x).link e' = s.link e' := rfl
@[simp] theorem State.setEng_rdByte (a' : Nat) : (s.setEng d u x).rdByte a' = s.rdByte a' := rfl
@[simp] theorem State.setEng_poisoned (a' : Nat) : (s.setEng d u x).poisoned a' = s.poisoned a' := rfl
@[simp] theorem State.setEng_dom (k' : Nat) : (s.setEng d u x).dom k' = s.dom k' := rfl
@[simp] theorem State.setEng_ctx (d' : Die) (n' : Nat) : (s.setEng d u x).ctx d' n' = s.ctx d' n' := rfl
@[simp] theorem State.setEng_host (c' : Crown) : (s.setEng d u x).host c' = s.host c' := rfl
@[simp] theorem State.setEng_fusion (c' : Crown) : (s.setEng d u x).fusion c' = s.fusion c' := rfl

end

/-! ### `setStream` -/

section

variable (d : Die) (e n : Nat) (x : StreamSt)

@[simp] theorem State.setStream_pending : (s.setStream d e n x).pending = s.pending := rfl
@[simp] theorem State.setStream_time : (s.setStream d e n x).time = s.time := rfl
@[simp] theorem State.setStream_free : (s.setStream d e n x).free = s.free := rfl
@[simp] theorem State.setStream_regs : (s.setStream d e n x).regs = s.regs := rfl
@[simp] theorem State.setStream_resv : (s.setStream d e n x).resv = s.resv := rfl
@[simp] theorem State.setStream_shadow : (s.setStream d e n x).shadow = s.shadow := rfl
@[simp] theorem State.setStream_inForce : (s.setStream d e n x).inForce = s.inForce := rfl
@[simp] theorem State.setStream_dies : (s.setStream d e n x).dies = s.dies := rfl
@[simp] theorem State.setStream_links : (s.setStream d e n x).links = s.links := rfl
@[simp] theorem State.setStream_tables : (s.setStream d e n x).tables = s.tables := rfl
@[simp] theorem State.setStream_mem : (s.setStream d e n x).mem = s.mem := rfl
@[simp] theorem State.setStream_poison : (s.setStream d e n x).poison = s.poison := rfl
@[simp] theorem State.setStream_ctxs : (s.setStream d e n x).ctxs = s.ctxs := rfl
@[simp] theorem State.setStream_dieIds : (s.setStream d e n x).dieIds = s.dieIds := rfl
@[simp] theorem State.setStream_cr1Root : (s.setStream d e n x).cr1Root = s.cr1Root := rfl
@[simp] theorem State.setStream_trayFuse : (s.setStream d e n x).trayFuse = s.trayFuse := rfl
@[simp] theorem State.setStream_fpLines : (s.setStream d e n x).fpLines = s.fpLines := rfl
@[simp] theorem State.setStream_seeds : (s.setStream d e n x).seeds = s.seeds := rfl
@[simp] theorem State.setStream_pins : (s.setStream d e n x).pins = s.pins := rfl
@[simp] theorem State.setStream_hack : (s.setStream d e n x).hack = s.hack := rfl
@[simp] theorem State.setStream_sync : (s.setStream d e n x).sync = s.sync := rfl
@[simp] theorem State.setStream_rdData : (s.setStream d e n x).rdData = s.rdData := rfl
@[simp] theorem State.setStream_beatHi : (s.setStream d e n x).beatHi = s.beatHi := rfl
@[simp] theorem State.setStream_topo : (s.setStream d e n x).topo = s.topo := rfl
@[simp] theorem State.setStream_routes : (s.setStream d e n x).routes = s.routes := rfl
@[simp] theorem State.setStream_reserve : (s.setStream d e n x).reserve = s.reserve := rfl
@[simp] theorem State.setStream_grants : (s.setStream d e n x).grants = s.grants := rfl
@[simp] theorem State.setStream_reports : (s.setStream d e n x).reports = s.reports := rfl
@[simp] theorem State.setStream_rcv : (s.setStream d e n x).rcv = s.rcv := rfl
@[simp] theorem State.setStream_engs : (s.setStream d e n x).engs = s.engs := rfl
@[simp] theorem State.setStream_queues : (s.setStream d e n x).queues = s.queues := rfl
@[simp] theorem State.setStream_opTable : (s.setStream d e n x).opTable = s.opTable := rfl
@[simp] theorem State.setStream_opDefs : (s.setStream d e n x).opDefs = s.opDefs := rfl
@[simp] theorem State.setStream_heads : (s.setStream d e n x).heads = s.heads := rfl
@[simp] theorem State.setStream_issued : (s.setStream d e n x).issued = s.issued := rfl
@[simp] theorem State.setStream_accepted : (s.setStream d e n x).accepted = s.accepted := rfl
@[simp] theorem State.setStream_failed : (s.setStream d e n x).failed = s.failed := rfl
@[simp] theorem State.setStream_seenIssued : (s.setStream d e n x).seenIssued = s.seenIssued := rfl
@[simp] theorem State.setStream_seenFailed : (s.setStream d e n x).seenFailed = s.seenFailed := rfl
@[simp] theorem State.setStream_nextTag : (s.setStream d e n x).nextTag = s.nextTag := rfl
@[simp] theorem State.setStream_hostEpoch : (s.setStream d e n x).hostEpoch = s.hostEpoch := rfl
@[simp] theorem State.setStream_fences : (s.setStream d e n x).fences = s.fences := rfl
@[simp] theorem State.setStream_rdReqs : (s.setStream d e n x).rdReqs = s.rdReqs := rfl
@[simp] theorem State.setStream_hosts : (s.setStream d e n x).hosts = s.hosts := rfl
@[simp] theorem State.setStream_ptp : (s.setStream d e n x).ptp = s.ptp := rfl
@[simp] theorem State.setStream_fus : (s.setStream d e n x).fus = s.fus := rfl
@[simp] theorem State.setStream_ldg : (s.setStream d e n x).ldg = s.ldg := rfl
@[simp] theorem State.setStream_fram : (s.setStream d e n x).fram = s.fram := rfl
@[simp] theorem State.setStream_boot : (s.setStream d e n x).boot = s.boot := rfl
@[simp] theorem State.setStream_chg : (s.setStream d e n x).chg = s.chg := rfl
@[simp] theorem State.setStream_tshadow : (s.setStream d e n x).tshadow = s.tshadow := rfl
@[simp] theorem State.setStream_recals : (s.setStream d e n x).recals = s.recals := rfl
@[simp] theorem State.setStream_landed : (s.setStream d e n x).landed = s.landed := rfl
@[simp] theorem State.setStream_recov : (s.setStream d e n x).recov = s.recov := rfl
@[simp] theorem State.setStream_getF (d' : Die) (b' : Blk) (i' : Nat) (f' : Fld) (k' : Nat) : (s.setStream d e n x).getF d' b' i' f' k' = s.getF d' b' i' f' k' := rfl
@[simp] theorem State.setStream_die (d' : Die) : (s.setStream d e n x).die d' = s.die d' := rfl
@[simp] theorem State.setStream_link (e' : LinkEnd) : (s.setStream d e n x).link e' = s.link e' := rfl
@[simp] theorem State.setStream_rdByte (a' : Nat) : (s.setStream d e n x).rdByte a' = s.rdByte a' := rfl
@[simp] theorem State.setStream_poisoned (a' : Nat) : (s.setStream d e n x).poisoned a' = s.poisoned a' := rfl
@[simp] theorem State.setStream_dom (k' : Nat) : (s.setStream d e n x).dom k' = s.dom k' := rfl
@[simp] theorem State.setStream_ctx (d' : Die) (n' : Nat) : (s.setStream d e n x).ctx d' n' = s.ctx d' n' := rfl
@[simp] theorem State.setStream_eng (d' : Die) (u' : Nat) : (s.setStream d e n x).eng d' u' = s.eng d' u' := rfl
@[simp] theorem State.setStream_host (c' : Crown) : (s.setStream d e n x).host c' = s.host c' := rfl
@[simp] theorem State.setStream_fusion (c' : Crown) : (s.setStream d e n x).fusion c' = s.fusion c' := rfl

end

/-! ### `setHost` -/

section

variable (c : Crown) (h : HostSt)

@[simp] theorem State.setHost_pending : (s.setHost c h).pending = s.pending := rfl
@[simp] theorem State.setHost_time : (s.setHost c h).time = s.time := rfl
@[simp] theorem State.setHost_free : (s.setHost c h).free = s.free := rfl
@[simp] theorem State.setHost_regs : (s.setHost c h).regs = s.regs := rfl
@[simp] theorem State.setHost_resv : (s.setHost c h).resv = s.resv := rfl
@[simp] theorem State.setHost_shadow : (s.setHost c h).shadow = s.shadow := rfl
@[simp] theorem State.setHost_inForce : (s.setHost c h).inForce = s.inForce := rfl
@[simp] theorem State.setHost_dies : (s.setHost c h).dies = s.dies := rfl
@[simp] theorem State.setHost_links : (s.setHost c h).links = s.links := rfl
@[simp] theorem State.setHost_tables : (s.setHost c h).tables = s.tables := rfl
@[simp] theorem State.setHost_mem : (s.setHost c h).mem = s.mem := rfl
@[simp] theorem State.setHost_poison : (s.setHost c h).poison = s.poison := rfl
@[simp] theorem State.setHost_ctxs : (s.setHost c h).ctxs = s.ctxs := rfl
@[simp] theorem State.setHost_dieIds : (s.setHost c h).dieIds = s.dieIds := rfl
@[simp] theorem State.setHost_cr1Root : (s.setHost c h).cr1Root = s.cr1Root := rfl
@[simp] theorem State.setHost_trayFuse : (s.setHost c h).trayFuse = s.trayFuse := rfl
@[simp] theorem State.setHost_fpLines : (s.setHost c h).fpLines = s.fpLines := rfl
@[simp] theorem State.setHost_seeds : (s.setHost c h).seeds = s.seeds := rfl
@[simp] theorem State.setHost_pins : (s.setHost c h).pins = s.pins := rfl
@[simp] theorem State.setHost_hack : (s.setHost c h).hack = s.hack := rfl
@[simp] theorem State.setHost_sync : (s.setHost c h).sync = s.sync := rfl
@[simp] theorem State.setHost_rdData : (s.setHost c h).rdData = s.rdData := rfl
@[simp] theorem State.setHost_beatHi : (s.setHost c h).beatHi = s.beatHi := rfl
@[simp] theorem State.setHost_topo : (s.setHost c h).topo = s.topo := rfl
@[simp] theorem State.setHost_routes : (s.setHost c h).routes = s.routes := rfl
@[simp] theorem State.setHost_reserve : (s.setHost c h).reserve = s.reserve := rfl
@[simp] theorem State.setHost_grants : (s.setHost c h).grants = s.grants := rfl
@[simp] theorem State.setHost_reports : (s.setHost c h).reports = s.reports := rfl
@[simp] theorem State.setHost_rcv : (s.setHost c h).rcv = s.rcv := rfl
@[simp] theorem State.setHost_engs : (s.setHost c h).engs = s.engs := rfl
@[simp] theorem State.setHost_queues : (s.setHost c h).queues = s.queues := rfl
@[simp] theorem State.setHost_streams : (s.setHost c h).streams = s.streams := rfl
@[simp] theorem State.setHost_opTable : (s.setHost c h).opTable = s.opTable := rfl
@[simp] theorem State.setHost_opDefs : (s.setHost c h).opDefs = s.opDefs := rfl
@[simp] theorem State.setHost_heads : (s.setHost c h).heads = s.heads := rfl
@[simp] theorem State.setHost_issued : (s.setHost c h).issued = s.issued := rfl
@[simp] theorem State.setHost_accepted : (s.setHost c h).accepted = s.accepted := rfl
@[simp] theorem State.setHost_failed : (s.setHost c h).failed = s.failed := rfl
@[simp] theorem State.setHost_seenIssued : (s.setHost c h).seenIssued = s.seenIssued := rfl
@[simp] theorem State.setHost_seenFailed : (s.setHost c h).seenFailed = s.seenFailed := rfl
@[simp] theorem State.setHost_nextTag : (s.setHost c h).nextTag = s.nextTag := rfl
@[simp] theorem State.setHost_hostEpoch : (s.setHost c h).hostEpoch = s.hostEpoch := rfl
@[simp] theorem State.setHost_fences : (s.setHost c h).fences = s.fences := rfl
@[simp] theorem State.setHost_rdReqs : (s.setHost c h).rdReqs = s.rdReqs := rfl
@[simp] theorem State.setHost_ptp : (s.setHost c h).ptp = s.ptp := rfl
@[simp] theorem State.setHost_fus : (s.setHost c h).fus = s.fus := rfl
@[simp] theorem State.setHost_ldg : (s.setHost c h).ldg = s.ldg := rfl
@[simp] theorem State.setHost_fram : (s.setHost c h).fram = s.fram := rfl
@[simp] theorem State.setHost_boot : (s.setHost c h).boot = s.boot := rfl
@[simp] theorem State.setHost_chg : (s.setHost c h).chg = s.chg := rfl
@[simp] theorem State.setHost_tshadow : (s.setHost c h).tshadow = s.tshadow := rfl
@[simp] theorem State.setHost_recals : (s.setHost c h).recals = s.recals := rfl
@[simp] theorem State.setHost_landed : (s.setHost c h).landed = s.landed := rfl
@[simp] theorem State.setHost_recov : (s.setHost c h).recov = s.recov := rfl
@[simp] theorem State.setHost_getF (d' : Die) (b' : Blk) (i' : Nat) (f' : Fld) (k' : Nat) : (s.setHost c h).getF d' b' i' f' k' = s.getF d' b' i' f' k' := rfl
@[simp] theorem State.setHost_die (d' : Die) : (s.setHost c h).die d' = s.die d' := rfl
@[simp] theorem State.setHost_link (e' : LinkEnd) : (s.setHost c h).link e' = s.link e' := rfl
@[simp] theorem State.setHost_rdByte (a' : Nat) : (s.setHost c h).rdByte a' = s.rdByte a' := rfl
@[simp] theorem State.setHost_poisoned (a' : Nat) : (s.setHost c h).poisoned a' = s.poisoned a' := rfl
@[simp] theorem State.setHost_dom (k' : Nat) : (s.setHost c h).dom k' = s.dom k' := rfl
@[simp] theorem State.setHost_ctx (d' : Die) (n' : Nat) : (s.setHost c h).ctx d' n' = s.ctx d' n' := rfl
@[simp] theorem State.setHost_eng (d' : Die) (u' : Nat) : (s.setHost c h).eng d' u' = s.eng d' u' := rfl
@[simp] theorem State.setHost_fusion (c' : Crown) : (s.setHost c h).fusion c' = s.fusion c' := rfl

end

/-! ### `setFence` -/

section

variable (o : Nat) (f : Option FenceSt)

@[simp] theorem State.setFence_pending : (s.setFence o f).pending = s.pending := rfl
@[simp] theorem State.setFence_time : (s.setFence o f).time = s.time := rfl
@[simp] theorem State.setFence_free : (s.setFence o f).free = s.free := rfl
@[simp] theorem State.setFence_regs : (s.setFence o f).regs = s.regs := rfl
@[simp] theorem State.setFence_resv : (s.setFence o f).resv = s.resv := rfl
@[simp] theorem State.setFence_shadow : (s.setFence o f).shadow = s.shadow := rfl
@[simp] theorem State.setFence_inForce : (s.setFence o f).inForce = s.inForce := rfl
@[simp] theorem State.setFence_dies : (s.setFence o f).dies = s.dies := rfl
@[simp] theorem State.setFence_links : (s.setFence o f).links = s.links := rfl
@[simp] theorem State.setFence_tables : (s.setFence o f).tables = s.tables := rfl
@[simp] theorem State.setFence_mem : (s.setFence o f).mem = s.mem := rfl
@[simp] theorem State.setFence_poison : (s.setFence o f).poison = s.poison := rfl
@[simp] theorem State.setFence_ctxs : (s.setFence o f).ctxs = s.ctxs := rfl
@[simp] theorem State.setFence_dieIds : (s.setFence o f).dieIds = s.dieIds := rfl
@[simp] theorem State.setFence_cr1Root : (s.setFence o f).cr1Root = s.cr1Root := rfl
@[simp] theorem State.setFence_trayFuse : (s.setFence o f).trayFuse = s.trayFuse := rfl
@[simp] theorem State.setFence_fpLines : (s.setFence o f).fpLines = s.fpLines := rfl
@[simp] theorem State.setFence_seeds : (s.setFence o f).seeds = s.seeds := rfl
@[simp] theorem State.setFence_pins : (s.setFence o f).pins = s.pins := rfl
@[simp] theorem State.setFence_hack : (s.setFence o f).hack = s.hack := rfl
@[simp] theorem State.setFence_sync : (s.setFence o f).sync = s.sync := rfl
@[simp] theorem State.setFence_rdData : (s.setFence o f).rdData = s.rdData := rfl
@[simp] theorem State.setFence_beatHi : (s.setFence o f).beatHi = s.beatHi := rfl
@[simp] theorem State.setFence_topo : (s.setFence o f).topo = s.topo := rfl
@[simp] theorem State.setFence_routes : (s.setFence o f).routes = s.routes := rfl
@[simp] theorem State.setFence_reserve : (s.setFence o f).reserve = s.reserve := rfl
@[simp] theorem State.setFence_grants : (s.setFence o f).grants = s.grants := rfl
@[simp] theorem State.setFence_reports : (s.setFence o f).reports = s.reports := rfl
@[simp] theorem State.setFence_rcv : (s.setFence o f).rcv = s.rcv := rfl
@[simp] theorem State.setFence_engs : (s.setFence o f).engs = s.engs := rfl
@[simp] theorem State.setFence_queues : (s.setFence o f).queues = s.queues := rfl
@[simp] theorem State.setFence_streams : (s.setFence o f).streams = s.streams := rfl
@[simp] theorem State.setFence_opTable : (s.setFence o f).opTable = s.opTable := rfl
@[simp] theorem State.setFence_opDefs : (s.setFence o f).opDefs = s.opDefs := rfl
@[simp] theorem State.setFence_heads : (s.setFence o f).heads = s.heads := rfl
@[simp] theorem State.setFence_issued : (s.setFence o f).issued = s.issued := rfl
@[simp] theorem State.setFence_accepted : (s.setFence o f).accepted = s.accepted := rfl
@[simp] theorem State.setFence_failed : (s.setFence o f).failed = s.failed := rfl
@[simp] theorem State.setFence_seenIssued : (s.setFence o f).seenIssued = s.seenIssued := rfl
@[simp] theorem State.setFence_seenFailed : (s.setFence o f).seenFailed = s.seenFailed := rfl
@[simp] theorem State.setFence_nextTag : (s.setFence o f).nextTag = s.nextTag := rfl
@[simp] theorem State.setFence_hostEpoch : (s.setFence o f).hostEpoch = s.hostEpoch := rfl
@[simp] theorem State.setFence_rdReqs : (s.setFence o f).rdReqs = s.rdReqs := rfl
@[simp] theorem State.setFence_hosts : (s.setFence o f).hosts = s.hosts := rfl
@[simp] theorem State.setFence_ptp : (s.setFence o f).ptp = s.ptp := rfl
@[simp] theorem State.setFence_fus : (s.setFence o f).fus = s.fus := rfl
@[simp] theorem State.setFence_ldg : (s.setFence o f).ldg = s.ldg := rfl
@[simp] theorem State.setFence_fram : (s.setFence o f).fram = s.fram := rfl
@[simp] theorem State.setFence_boot : (s.setFence o f).boot = s.boot := rfl
@[simp] theorem State.setFence_chg : (s.setFence o f).chg = s.chg := rfl
@[simp] theorem State.setFence_tshadow : (s.setFence o f).tshadow = s.tshadow := rfl
@[simp] theorem State.setFence_recals : (s.setFence o f).recals = s.recals := rfl
@[simp] theorem State.setFence_landed : (s.setFence o f).landed = s.landed := rfl
@[simp] theorem State.setFence_recov : (s.setFence o f).recov = s.recov := rfl
@[simp] theorem State.setFence_getF (d' : Die) (b' : Blk) (i' : Nat) (f' : Fld) (k' : Nat) : (s.setFence o f).getF d' b' i' f' k' = s.getF d' b' i' f' k' := rfl
@[simp] theorem State.setFence_die (d' : Die) : (s.setFence o f).die d' = s.die d' := rfl
@[simp] theorem State.setFence_link (e' : LinkEnd) : (s.setFence o f).link e' = s.link e' := rfl
@[simp] theorem State.setFence_rdByte (a' : Nat) : (s.setFence o f).rdByte a' = s.rdByte a' := rfl
@[simp] theorem State.setFence_poisoned (a' : Nat) : (s.setFence o f).poisoned a' = s.poisoned a' := rfl
@[simp] theorem State.setFence_dom (k' : Nat) : (s.setFence o f).dom k' = s.dom k' := rfl
@[simp] theorem State.setFence_ctx (d' : Die) (n' : Nat) : (s.setFence o f).ctx d' n' = s.ctx d' n' := rfl
@[simp] theorem State.setFence_eng (d' : Die) (u' : Nat) : (s.setFence o f).eng d' u' = s.eng d' u' := rfl
@[simp] theorem State.setFence_host (c' : Crown) : (s.setFence o f).host c' = s.host c' := rfl
@[simp] theorem State.setFence_fusion (c' : Crown) : (s.setFence o f).fusion c' = s.fusion c' := rfl

end

/-! ### `setFusion` -/

section

variable (c : Crown) (f : FusSt)

@[simp] theorem State.setFusion_pending : (s.setFusion c f).pending = s.pending := rfl
@[simp] theorem State.setFusion_time : (s.setFusion c f).time = s.time := rfl
@[simp] theorem State.setFusion_free : (s.setFusion c f).free = s.free := rfl
@[simp] theorem State.setFusion_regs : (s.setFusion c f).regs = s.regs := rfl
@[simp] theorem State.setFusion_resv : (s.setFusion c f).resv = s.resv := rfl
@[simp] theorem State.setFusion_shadow : (s.setFusion c f).shadow = s.shadow := rfl
@[simp] theorem State.setFusion_inForce : (s.setFusion c f).inForce = s.inForce := rfl
@[simp] theorem State.setFusion_dies : (s.setFusion c f).dies = s.dies := rfl
@[simp] theorem State.setFusion_links : (s.setFusion c f).links = s.links := rfl
@[simp] theorem State.setFusion_tables : (s.setFusion c f).tables = s.tables := rfl
@[simp] theorem State.setFusion_mem : (s.setFusion c f).mem = s.mem := rfl
@[simp] theorem State.setFusion_poison : (s.setFusion c f).poison = s.poison := rfl
@[simp] theorem State.setFusion_ctxs : (s.setFusion c f).ctxs = s.ctxs := rfl
@[simp] theorem State.setFusion_dieIds : (s.setFusion c f).dieIds = s.dieIds := rfl
@[simp] theorem State.setFusion_cr1Root : (s.setFusion c f).cr1Root = s.cr1Root := rfl
@[simp] theorem State.setFusion_trayFuse : (s.setFusion c f).trayFuse = s.trayFuse := rfl
@[simp] theorem State.setFusion_fpLines : (s.setFusion c f).fpLines = s.fpLines := rfl
@[simp] theorem State.setFusion_seeds : (s.setFusion c f).seeds = s.seeds := rfl
@[simp] theorem State.setFusion_pins : (s.setFusion c f).pins = s.pins := rfl
@[simp] theorem State.setFusion_hack : (s.setFusion c f).hack = s.hack := rfl
@[simp] theorem State.setFusion_sync : (s.setFusion c f).sync = s.sync := rfl
@[simp] theorem State.setFusion_rdData : (s.setFusion c f).rdData = s.rdData := rfl
@[simp] theorem State.setFusion_beatHi : (s.setFusion c f).beatHi = s.beatHi := rfl
@[simp] theorem State.setFusion_topo : (s.setFusion c f).topo = s.topo := rfl
@[simp] theorem State.setFusion_routes : (s.setFusion c f).routes = s.routes := rfl
@[simp] theorem State.setFusion_reserve : (s.setFusion c f).reserve = s.reserve := rfl
@[simp] theorem State.setFusion_grants : (s.setFusion c f).grants = s.grants := rfl
@[simp] theorem State.setFusion_reports : (s.setFusion c f).reports = s.reports := rfl
@[simp] theorem State.setFusion_rcv : (s.setFusion c f).rcv = s.rcv := rfl
@[simp] theorem State.setFusion_engs : (s.setFusion c f).engs = s.engs := rfl
@[simp] theorem State.setFusion_queues : (s.setFusion c f).queues = s.queues := rfl
@[simp] theorem State.setFusion_streams : (s.setFusion c f).streams = s.streams := rfl
@[simp] theorem State.setFusion_opTable : (s.setFusion c f).opTable = s.opTable := rfl
@[simp] theorem State.setFusion_opDefs : (s.setFusion c f).opDefs = s.opDefs := rfl
@[simp] theorem State.setFusion_heads : (s.setFusion c f).heads = s.heads := rfl
@[simp] theorem State.setFusion_issued : (s.setFusion c f).issued = s.issued := rfl
@[simp] theorem State.setFusion_accepted : (s.setFusion c f).accepted = s.accepted := rfl
@[simp] theorem State.setFusion_failed : (s.setFusion c f).failed = s.failed := rfl
@[simp] theorem State.setFusion_seenIssued : (s.setFusion c f).seenIssued = s.seenIssued := rfl
@[simp] theorem State.setFusion_seenFailed : (s.setFusion c f).seenFailed = s.seenFailed := rfl
@[simp] theorem State.setFusion_nextTag : (s.setFusion c f).nextTag = s.nextTag := rfl
@[simp] theorem State.setFusion_hostEpoch : (s.setFusion c f).hostEpoch = s.hostEpoch := rfl
@[simp] theorem State.setFusion_fences : (s.setFusion c f).fences = s.fences := rfl
@[simp] theorem State.setFusion_rdReqs : (s.setFusion c f).rdReqs = s.rdReqs := rfl
@[simp] theorem State.setFusion_hosts : (s.setFusion c f).hosts = s.hosts := rfl
@[simp] theorem State.setFusion_ptp : (s.setFusion c f).ptp = s.ptp := rfl
@[simp] theorem State.setFusion_ldg : (s.setFusion c f).ldg = s.ldg := rfl
@[simp] theorem State.setFusion_fram : (s.setFusion c f).fram = s.fram := rfl
@[simp] theorem State.setFusion_boot : (s.setFusion c f).boot = s.boot := rfl
@[simp] theorem State.setFusion_chg : (s.setFusion c f).chg = s.chg := rfl
@[simp] theorem State.setFusion_tshadow : (s.setFusion c f).tshadow = s.tshadow := rfl
@[simp] theorem State.setFusion_recals : (s.setFusion c f).recals = s.recals := rfl
@[simp] theorem State.setFusion_landed : (s.setFusion c f).landed = s.landed := rfl
@[simp] theorem State.setFusion_recov : (s.setFusion c f).recov = s.recov := rfl
@[simp] theorem State.setFusion_getF (d' : Die) (b' : Blk) (i' : Nat) (f' : Fld) (k' : Nat) : (s.setFusion c f).getF d' b' i' f' k' = s.getF d' b' i' f' k' := rfl
@[simp] theorem State.setFusion_die (d' : Die) : (s.setFusion c f).die d' = s.die d' := rfl
@[simp] theorem State.setFusion_link (e' : LinkEnd) : (s.setFusion c f).link e' = s.link e' := rfl
@[simp] theorem State.setFusion_rdByte (a' : Nat) : (s.setFusion c f).rdByte a' = s.rdByte a' := rfl
@[simp] theorem State.setFusion_poisoned (a' : Nat) : (s.setFusion c f).poisoned a' = s.poisoned a' := rfl
@[simp] theorem State.setFusion_dom (k' : Nat) : (s.setFusion c f).dom k' = s.dom k' := rfl
@[simp] theorem State.setFusion_ctx (d' : Die) (n' : Nat) : (s.setFusion c f).ctx d' n' = s.ctx d' n' := rfl
@[simp] theorem State.setFusion_eng (d' : Die) (u' : Nat) : (s.setFusion c f).eng d' u' = s.eng d' u' := rfl
@[simp] theorem State.setFusion_host (c' : Crown) : (s.setFusion c f).host c' = s.host c' := rfl

end

/-! ### `draw` -/

section

variable (w : Nat)

@[simp] theorem State.draw_pending : (s.draw w).2.pending = s.pending := rfl
@[simp] theorem State.draw_time : (s.draw w).2.time = s.time := rfl
@[simp] theorem State.draw_free : (s.draw w).2.free = s.free + 1 := rfl
@[simp] theorem State.draw_regs : (s.draw w).2.regs = s.regs := rfl
@[simp] theorem State.draw_resv : (s.draw w).2.resv = s.resv := rfl
@[simp] theorem State.draw_shadow : (s.draw w).2.shadow = s.shadow := rfl
@[simp] theorem State.draw_inForce : (s.draw w).2.inForce = s.inForce := rfl
@[simp] theorem State.draw_dies : (s.draw w).2.dies = s.dies := rfl
@[simp] theorem State.draw_links : (s.draw w).2.links = s.links := rfl
@[simp] theorem State.draw_tables : (s.draw w).2.tables = s.tables := rfl
@[simp] theorem State.draw_mem : (s.draw w).2.mem = s.mem := rfl
@[simp] theorem State.draw_poison : (s.draw w).2.poison = s.poison := rfl
@[simp] theorem State.draw_ctxs : (s.draw w).2.ctxs = s.ctxs := rfl
@[simp] theorem State.draw_dieIds : (s.draw w).2.dieIds = s.dieIds := rfl
@[simp] theorem State.draw_cr1Root : (s.draw w).2.cr1Root = s.cr1Root := rfl
@[simp] theorem State.draw_trayFuse : (s.draw w).2.trayFuse = s.trayFuse := rfl
@[simp] theorem State.draw_fpLines : (s.draw w).2.fpLines = s.fpLines := rfl
@[simp] theorem State.draw_seeds : (s.draw w).2.seeds = s.seeds := rfl
@[simp] theorem State.draw_pins : (s.draw w).2.pins = s.pins := rfl
@[simp] theorem State.draw_hack : (s.draw w).2.hack = s.hack := rfl
@[simp] theorem State.draw_sync : (s.draw w).2.sync = s.sync := rfl
@[simp] theorem State.draw_rdData : (s.draw w).2.rdData = s.rdData := rfl
@[simp] theorem State.draw_beatHi : (s.draw w).2.beatHi = s.beatHi := rfl
@[simp] theorem State.draw_topo : (s.draw w).2.topo = s.topo := rfl
@[simp] theorem State.draw_routes : (s.draw w).2.routes = s.routes := rfl
@[simp] theorem State.draw_reserve : (s.draw w).2.reserve = s.reserve := rfl
@[simp] theorem State.draw_grants : (s.draw w).2.grants = s.grants := rfl
@[simp] theorem State.draw_reports : (s.draw w).2.reports = s.reports := rfl
@[simp] theorem State.draw_rcv : (s.draw w).2.rcv = s.rcv := rfl
@[simp] theorem State.draw_engs : (s.draw w).2.engs = s.engs := rfl
@[simp] theorem State.draw_queues : (s.draw w).2.queues = s.queues := rfl
@[simp] theorem State.draw_streams : (s.draw w).2.streams = s.streams := rfl
@[simp] theorem State.draw_opTable : (s.draw w).2.opTable = s.opTable := rfl
@[simp] theorem State.draw_opDefs : (s.draw w).2.opDefs = s.opDefs := rfl
@[simp] theorem State.draw_heads : (s.draw w).2.heads = s.heads := rfl
@[simp] theorem State.draw_issued : (s.draw w).2.issued = s.issued := rfl
@[simp] theorem State.draw_accepted : (s.draw w).2.accepted = s.accepted := rfl
@[simp] theorem State.draw_failed : (s.draw w).2.failed = s.failed := rfl
@[simp] theorem State.draw_seenIssued : (s.draw w).2.seenIssued = s.seenIssued := rfl
@[simp] theorem State.draw_seenFailed : (s.draw w).2.seenFailed = s.seenFailed := rfl
@[simp] theorem State.draw_nextTag : (s.draw w).2.nextTag = s.nextTag := rfl
@[simp] theorem State.draw_hostEpoch : (s.draw w).2.hostEpoch = s.hostEpoch := rfl
@[simp] theorem State.draw_fences : (s.draw w).2.fences = s.fences := rfl
@[simp] theorem State.draw_rdReqs : (s.draw w).2.rdReqs = s.rdReqs := rfl
@[simp] theorem State.draw_hosts : (s.draw w).2.hosts = s.hosts := rfl
@[simp] theorem State.draw_ptp : (s.draw w).2.ptp = s.ptp := rfl
@[simp] theorem State.draw_fus : (s.draw w).2.fus = s.fus := rfl
@[simp] theorem State.draw_ldg : (s.draw w).2.ldg = s.ldg := rfl
@[simp] theorem State.draw_fram : (s.draw w).2.fram = s.fram := rfl
@[simp] theorem State.draw_boot : (s.draw w).2.boot = s.boot := rfl
@[simp] theorem State.draw_chg : (s.draw w).2.chg = s.chg := rfl
@[simp] theorem State.draw_tshadow : (s.draw w).2.tshadow = s.tshadow := rfl
@[simp] theorem State.draw_recals : (s.draw w).2.recals = s.recals := rfl
@[simp] theorem State.draw_landed : (s.draw w).2.landed = s.landed := rfl
@[simp] theorem State.draw_recov : (s.draw w).2.recov = s.recov := rfl
@[simp] theorem State.draw_getF (d' : Die) (b' : Blk) (i' : Nat) (f' : Fld) (k' : Nat) : (s.draw w).2.getF d' b' i' f' k' = s.getF d' b' i' f' k' := rfl
@[simp] theorem State.draw_die (d' : Die) : (s.draw w).2.die d' = s.die d' := rfl
@[simp] theorem State.draw_link (e' : LinkEnd) : (s.draw w).2.link e' = s.link e' := rfl
@[simp] theorem State.draw_rdByte (a' : Nat) : (s.draw w).2.rdByte a' = s.rdByte a' := rfl
@[simp] theorem State.draw_poisoned (a' : Nat) : (s.draw w).2.poisoned a' = s.poisoned a' := rfl
@[simp] theorem State.draw_dom (k' : Nat) : (s.draw w).2.dom k' = s.dom k' := rfl
@[simp] theorem State.draw_ctx (d' : Die) (n' : Nat) : (s.draw w).2.ctx d' n' = s.ctx d' n' := rfl
@[simp] theorem State.draw_eng (d' : Die) (u' : Nat) : (s.draw w).2.eng d' u' = s.eng d' u' := rfl
@[simp] theorem State.draw_host (c' : Crown) : (s.draw w).2.host c' = s.host c' := rfl
@[simp] theorem State.draw_fusion (c' : Crown) : (s.draw w).2.fusion c' = s.fusion c' := rfl

theorem State.draw_lt : (s.draw w).1 < 2 ^ w := Nat.mod_lt _ (Nat.two_pow_pos w)

end

/-! ### What a written part reads as -/

/-- A register field reads as what was written, cut to its width. -/
@[simp] theorem State.getF_setF_same (d : Die) (b : Blk) (i : Nat) (f : Fld) (v k : Nat) :
    (s.setF d b i f v k).getF d b i f k = v % 2 ^ f.w := Tab.get_set_same ..

/-- A field at another place reads as before. -/
theorem State.getF_setF_ne {d d' : Die} {b b' : Blk} {i i' : Nat} {f f' : Fld} {v k k' : Nat}
    (h : fkey d' b' i' f' k' ≠ fkey d b i f k) : (s.setF d b i f v k).getF d' b' i' f' k' = s.getF d' b' i' f' k' :=
  Tab.get_set_ne _ _ h

theorem dieCode_inj {d d' : Die} (h : dieCode d = dieCode d') : d = d' := by
  rcases d with m | c <;> rcases d' with m' | c' <;> simp only [dieCode] at h
  · rw [Fin.ext h]
  · have := m.isLt; omega
  · have := m'.isLt; omega
  · rw [Fin.ext (Nat.add_left_cancel h)]

@[simp] theorem State.die_setDie_same (d : Die) (x : DieSt) : (s.setDie d x).die d = x := Tab.get_set_same ..

theorem State.die_setDie_ne {d d' : Die} (x : DieSt) (h : d' ≠ d) : (s.setDie d x).die d' = s.die d' :=
  Tab.get_set_ne _ _ fun e => h (dieCode_inj e)

@[simp] theorem State.link_setLink_same (e : LinkEnd) (l : LinkSt) : (s.setLink e l).link e = l := Tab.get_set_same ..

theorem leCode_inj {e e' : LinkEnd} (h : leCode e = leCode e') : e = e' := by
  rcases e with ⟨d, n⟩ | n <;> rcases e' with ⟨d', n'⟩ | n' <;> simp only [leCode] at h
  · have h1 : dieCode d = dieCode d' := by have := n.isLt; have := n'.isLt; omega
    have h2 : n = n' := Fin.ext (by have := n.isLt; have := n'.isLt; omega)
    rw [dieCode_inj h1, h2]
  · have : dieCode d < 6 := by rcases d with m | c <;> simp only [dieCode] <;> omega
    have := n.isLt; omega
  · have : dieCode d' < 6 := by rcases d' with m | c <;> simp only [dieCode] <;> omega
    have := n'.isLt; omega
  · rw [Fin.ext (Nat.add_left_cancel h)]

theorem State.link_setLink_ne {e e' : LinkEnd} (l : LinkSt) (h : e' ≠ e) : (s.setLink e l).link e' = s.link e' :=
  Tab.get_set_ne _ _ fun x => h (leCode_inj x)

@[simp] theorem State.dom_setDom_same (k : Nat) (x : RcvDom) : (s.setDom k x).dom k = x := Tab.get_set_same ..

@[simp] theorem State.ctx_setCtx_same (d : Die) (n : Nat) (c : CtxSt) : (s.setCtx d n c).ctx d n = c := Tab.get_set_same ..

@[simp] theorem State.eng_setEng_same (d : Die) (u : Nat) (x : EngSt) : (s.setEng d u x).eng d u = x := Tab.get_set_same ..

@[simp] theorem State.host_setHost_same (c : Crown) (h : HostSt) : (s.setHost c h).host c = h := Tab.get_set_same ..

@[simp] theorem State.fusion_setFusion_same (c : Crown) (f : FusSt) : (s.setFusion c f).fusion c = f := Tab.get_set_same ..

@[simp] theorem State.rdData_putRd_same (p : Path) (v : Nat) : Tab.get 0 (s.putRd p v).rdData (pathCode p) = v :=
  Tab.get_set_same ..

/-- The poison of a granule after it is set, and of every other granule. -/
theorem State.poisoned_setPoison (pa a : Nat) (p : Bool) :
    (s.setPoison pa p).poisoned a = if a / 64 = pa / 64 then p else s.poisoned a := Tab.get_set ..

/-- A byte outside the bytes written reads as before. -/
theorem memPut_get_ne {m : List Host.Cell} {pa a : Nat} {l : List Byte} (h : a < pa ∨ pa + l.length ≤ a) :
    Tab.get memDefault (memPut m pa l) a = Tab.get memDefault m a := by
  induction l generalizing m pa with
  | nil => rfl
  | cons b l ih =>
    simp only [List.length_cons] at h
    rw [memPut, ih (by omega), Tab.get_set_ne _ _ (by omega)]

/-- A written byte reads as what was written. -/
theorem memPut_get {m : List Host.Cell} {pa i : Nat} {l : List Byte} (h : i < l.length) :
    Tab.get memDefault (memPut m pa l) (pa + i) = l[i] := by
  induction l generalizing m pa i with
  | nil => exact absurd h (Nat.not_lt_zero i)
  | cons b l ih =>
    cases i with
    | zero => rw [memPut, memPut_get_ne (.inl (by omega)), Nat.add_zero, Tab.get_set_same]; rfl
    | succ i =>
      rw [memPut, show pa + (i + 1) = (pa + 1) + i by omega, ih (by simpa using h)]
      rfl

theorem State.rdByte_wrBytes_ne {pa a : Nat} {l : List Byte} (h : a < pa ∨ pa + l.length ≤ a) :
    (s.wrBytes pa l).rdByte a = s.rdByte a := memPut_get_ne h

theorem State.rdByte_wrBytes {pa i : Nat} {l : List Byte} (h : i < l.length) : (s.wrBytes pa l).rdByte (pa + i) = l[i] :=
  memPut_get h

/-- Bytes read back after they are written. -/
theorem State.rdBytes_wrBytes (pa : Nat) (l : List Byte) : (s.wrBytes pa l).rdBytes pa l.length = l := by
  have g : ∀ (t : State) (n pa : Nat) (l : List Byte), n = l.length → (∀ i (h : i < l.length), t.rdByte (pa + i) = l[i]) →
      t.rdBytes pa n = l := by
    intro t n
    induction n with
    | zero => intro pa l e _; exact (List.length_eq_zero_iff.1 e.symm).symm
    | succ n ih =>
      intro pa l e h
      cases l with
      | nil => exact absurd e (by simp)
      | cons b l =>
        rw [State.rdBytes, ih (pa + 1) l (by simpa using e) fun i hi => ?_]
        · rw [show t.rdByte pa = b from h 0 (by simp)]
        · rw [show pa + 1 + i = pa + (i + 1) by omega]; exact h (i + 1) (by simpa using hi)
  exact g _ _ _ _ rfl fun i h => s.rdByte_wrBytes h

end Sys2Proof.Machine
end

