-- ==== Sys2Proof/Laws/Ops.lean ====
section
/-! SUPPORT. What raising a vector, logging a record and refusing leave alone, and the record they write. -/

namespace Sys2Proof.Machine

variable (s : State)

/-- Raising a vector changes registers only. -/
theorem State.raise_eq (own : Option Crown) (v : Nat) : s.raise own v = { s with regs := (s.raise own v).regs } := by
  have one : ∀ (t : State) (c : Crown), t.raiseOn v c = { t with regs := (t.raiseOn v c).regs } := by
    intro t c
    unfold State.raiseOn
    split
    · rfl
    · split <;> rfl
  have all : ∀ (l : List Crown) (t : State), l.foldl (fun t c => t.raiseOn v c) t =
      { t with regs := (l.foldl (fun t c => t.raiseOn v c) t).regs } := by
    intro l
    induction l with
    | nil => exact fun _ => rfl
    | cons c l ih => exact fun t => by rw [List.foldl_cons, ih, one]
  cases own with
  | some c => exact one s c
  | none => exact all _ s

section

variable (own : Option Crown) (v : Nat)

@[simp] theorem State.raise_pending : (s.raise own v).pending = s.pending := by rw [s.raise_eq]
@[simp] theorem State.raise_time : (s.raise own v).time = s.time := by rw [s.raise_eq]
@[simp] theorem State.raise_free : (s.raise own v).free = s.free := by rw [s.raise_eq]
@[simp] theorem State.raise_resv : (s.raise own v).resv = s.resv := by rw [s.raise_eq]
@[simp] theorem State.raise_shadow : (s.raise own v).shadow = s.shadow := by rw [s.raise_eq]
@[simp] theorem State.raise_inForce : (s.raise own v).inForce = s.inForce := by rw [s.raise_eq]
@[simp] theorem State.raise_dies : (s.raise own v).dies = s.dies := by rw [s.raise_eq]
@[simp] theorem State.raise_links : (s.raise own v).links = s.links := by rw [s.raise_eq]
@[simp] theorem State.raise_tables : (s.raise own v).tables = s.tables := by rw [s.raise_eq]
@[simp] theorem State.raise_mem : (s.raise own v).mem = s.mem := by rw [s.raise_eq]
@[simp] theorem State.raise_poison : (s.raise own v).poison = s.poison := by rw [s.raise_eq]
@[simp] theorem State.raise_ctxs : (s.raise own v).ctxs = s.ctxs := by rw [s.raise_eq]
@[simp] theorem State.raise_dieIds : (s.raise own v).dieIds = s.dieIds := by rw [s.raise_eq]
@[simp] theorem State.raise_cr1Root : (s.raise own v).cr1Root = s.cr1Root := by rw [s.raise_eq]
@[simp] theorem State.raise_trayFuse : (s.raise own v).trayFuse = s.trayFuse := by rw [s.raise_eq]
@[simp] theorem State.raise_fpLines : (s.raise own v).fpLines = s.fpLines := by rw [s.raise_eq]
@[simp] theorem State.raise_seeds : (s.raise own v).seeds = s.seeds := by rw [s.raise_eq]
@[simp] theorem State.raise_pins : (s.raise own v).pins = s.pins := by rw [s.raise_eq]
@[simp] theorem State.raise_hack : (s.raise own v).hack = s.hack := by rw [s.raise_eq]
@[simp] theorem State.raise_sync : (s.raise own v).sync = s.sync := by rw [s.raise_eq]
@[simp] theorem State.raise_rdData : (s.raise own v).rdData = s.rdData := by rw [s.raise_eq]
@[simp] theorem State.raise_beatHi : (s.raise own v).beatHi = s.beatHi := by rw [s.raise_eq]
@[simp] theorem State.raise_topo : (s.raise own v).topo = s.topo := by rw [s.raise_eq]
@[simp] theorem State.raise_routes : (s.raise own v).routes = s.routes := by rw [s.raise_eq]
@[simp] theorem State.raise_reserve : (s.raise own v).reserve = s.reserve := by rw [s.raise_eq]
@[simp] theorem State.raise_grants : (s.raise own v).grants = s.grants := by rw [s.raise_eq]
@[simp] theorem State.raise_reports : (s.raise own v).reports = s.reports := by rw [s.raise_eq]
@[simp] theorem State.raise_rcv : (s.raise own v).rcv = s.rcv := by rw [s.raise_eq]
@[simp] theorem State.raise_engs : (s.raise own v).engs = s.engs := by rw [s.raise_eq]
@[simp] theorem State.raise_queues : (s.raise own v).queues = s.queues := by rw [s.raise_eq]
@[simp] theorem State.raise_streams : (s.raise own v).streams = s.streams := by rw [s.raise_eq]
@[simp] theorem State.raise_opTable : (s.raise own v).opTable = s.opTable := by rw [s.raise_eq]
@[simp] theorem State.raise_opDefs : (s.raise own v).opDefs = s.opDefs := by rw [s.raise_eq]
@[simp] theorem State.raise_heads : (s.raise own v).heads = s.heads := by rw [s.raise_eq]
@[simp] theorem State.raise_issued : (s.raise own v).issued = s.issued := by rw [s.raise_eq]
@[simp] theorem State.raise_accepted : (s.raise own v).accepted = s.accepted := by rw [s.raise_eq]
@[simp] theorem State.raise_failed : (s.raise own v).failed = s.failed := by rw [s.raise_eq]
@[simp] theorem State.raise_seenIssued : (s.raise own v).seenIssued = s.seenIssued := by rw [s.raise_eq]
@[simp] theorem State.raise_seenFailed : (s.raise own v).seenFailed = s.seenFailed := by rw [s.raise_eq]
@[simp] theorem State.raise_nextTag : (s.raise own v).nextTag = s.nextTag := by rw [s.raise_eq]
@[simp] theorem State.raise_hostEpoch : (s.raise own v).hostEpoch = s.hostEpoch := by rw [s.raise_eq]
@[simp] theorem State.raise_fences : (s.raise own v).fences = s.fences := by rw [s.raise_eq]
@[simp] theorem State.raise_rdReqs : (s.raise own v).rdReqs = s.rdReqs := by rw [s.raise_eq]
@[simp] theorem State.raise_hosts : (s.raise own v).hosts = s.hosts := by rw [s.raise_eq]
@[simp] theorem State.raise_ptp : (s.raise own v).ptp = s.ptp := by rw [s.raise_eq]
@[simp] theorem State.raise_fus : (s.raise own v).fus = s.fus := by rw [s.raise_eq]
@[simp] theorem State.raise_ldg : (s.raise own v).ldg = s.ldg := by rw [s.raise_eq]
@[simp] theorem State.raise_fram : (s.raise own v).fram = s.fram := by rw [s.raise_eq]
@[simp] theorem State.raise_boot : (s.raise own v).boot = s.boot := by rw [s.raise_eq]
@[simp] theorem State.raise_chg : (s.raise own v).chg = s.chg := by rw [s.raise_eq]
@[simp] theorem State.raise_tshadow : (s.raise own v).tshadow = s.tshadow := by rw [s.raise_eq]
@[simp] theorem State.raise_recals : (s.raise own v).recals = s.recals := by rw [s.raise_eq]
@[simp] theorem State.raise_landed : (s.raise own v).landed = s.landed := by rw [s.raise_eq]
@[simp] theorem State.raise_recov : (s.raise own v).recov = s.recov := by rw [s.raise_eq]
@[simp] theorem State.raise_die (d' : Die) : (s.raise own v).die d' = s.die d' := by rw [s.raise_eq]; rfl
@[simp] theorem State.raise_link (e' : LinkEnd) : (s.raise own v).link e' = s.link e' := by rw [s.raise_eq]; rfl
@[simp] theorem State.raise_rdByte (a' : Nat) : (s.raise own v).rdByte a' = s.rdByte a' := by rw [s.raise_eq]; rfl
@[simp] theorem State.raise_poisoned (a' : Nat) : (s.raise own v).poisoned a' = s.poisoned a' := by rw [s.raise_eq]; rfl
@[simp] theorem State.raise_dom (k' : Nat) : (s.raise own v).dom k' = s.dom k' := by rw [s.raise_eq]; rfl
@[simp] theorem State.raise_ctx (d' : Die) (n' : Nat) : (s.raise own v).ctx d' n' = s.ctx d' n' := by rw [s.raise_eq]; rfl

end

/-- Logging a record changes registers and the log of one die. -/
theorem State.logAs_eq (d dd : Die) (b : Blk) (inst rc : Nat) (detail : List Byte) (ctx : Nat) :
    s.logAs d dd b inst rc detail ctx =
      { s.setDie d { s.die d with
          log := ((⟨(s.die d).beat, rc, dieCode dd, b.code, inst, ctx, severity rc, detail⟩ : LogRec) :: (s.die d).log).take 4096
          logCount := (s.die d).logCount + 1 } with regs := (s.logAs d dd b inst rc detail ctx).regs } := by
  unfold State.logAs
  split
  · dsimp only; rw [State.raise_eq, State.raise_eq]
  · dsimp only; rw [State.raise_eq]

/-- The die a record is written on. -/
theorem State.logAs_die (d dd : Die) (b : Blk) (inst rc : Nat) (detail : List Byte) (ctx : Nat) :
    (s.logAs d dd b inst rc detail ctx).die d = { s.die d with
      log := ((⟨(s.die d).beat, rc, dieCode dd, b.code, inst, ctx, severity rc, detail⟩ : LogRec) :: (s.die d).log).take 4096
      logCount := (s.die d).logCount + 1 } := by
  rw [s.logAs_eq]; exact Tab.get_set_same ..

theorem State.logAs_die_ne {d d' : Die} (dd : Die) (b : Blk) (inst rc : Nat) (detail : List Byte) (ctx : Nat) (h : d' ≠ d) :
    (s.logAs d dd b inst rc detail ctx).die d' = s.die d' := by
  rw [s.logAs_eq]; exact s.die_setDie_ne _ h

section

variable (d : Die) (b : Blk) (inst rc : Nat) (detail : List Byte) (ctx : Nat)

@[simp] theorem State.log_pending : (s.log d b inst rc detail ctx).pending = s.pending := by unfold State.log; rw [s.logAs_eq]; rfl
@[simp] theorem State.log_time : (s.log d b inst rc detail ctx).time = s.time := by unfold State.log; rw [s.logAs_eq]; rfl
@[simp] theorem State.log_free : (s.log d b inst rc detail ctx).free = s.free := by unfold State.log; rw [s.logAs_eq]; rfl
@[simp] theorem State.log_resv : (s.log d b inst rc detail ctx).resv = s.resv := by unfold State.log; rw [s.logAs_eq]; rfl
@[simp] theorem State.log_shadow : (s.log d b inst rc detail ctx).shadow = s.shadow := by unfold State.log; rw [s.logAs_eq]; rfl
@[simp] theorem State.log_inForce : (s.log d b inst rc detail ctx).inForce = s.inForce := by unfold State.log; rw [s.logAs_eq]; rfl
@[simp] theorem State.log_links : (s.log d b inst rc detail ctx).links = s.links := by unfold State.log; rw [s.logAs_eq]; rfl
@[simp] theorem State.log_tables : (s.log d b inst rc detail ctx).tables = s.tables := by unfold State.log; rw [s.logAs_eq]; rfl
@[simp] theorem State.log_mem : (s.log d b inst rc detail ctx).mem = s.mem := by unfold State.log; rw [s.logAs_eq]; rfl
@[simp] theorem State.log_poison : (s.log d b inst rc detail ctx).poison = s.poison := by unfold State.log; rw [s.logAs_eq]; rfl
@[simp] theorem State.log_ctxs : (s.log d b inst rc detail ctx).ctxs = s.ctxs := by unfold State.log; rw [s.logAs_eq]; rfl
@[simp] theorem State.log_dieIds : (s.log d b inst rc detail ctx).dieIds = s.dieIds := by unfold State.log; rw [s.logAs_eq]; rfl
@[simp] theorem State.log_cr1Root : (s.log d b inst rc detail ctx).cr1Root = s.cr1Root := by unfold State.log; rw [s.logAs_eq]; rfl
@[simp] theorem State.log_trayFuse : (s.log d b inst rc detail ctx).trayFuse = s.trayFuse := by unfold State.log; rw [s.logAs_eq]; rfl
@[simp] theorem State.log_fpLines : (s.log d b inst rc detail ctx).fpLines = s.fpLines := by unfold State.log; rw [s.logAs_eq]; rfl
@[simp] theorem State.log_seeds : (s.log d b inst rc detail ctx).seeds = s.seeds := by unfold State.log; rw [s.logAs_eq]; rfl
@[simp] theorem State.log_pins : (s.log d b inst rc detail ctx).pins = s.pins := by unfold State.log; rw [s.logAs_eq]; rfl
@[simp] theorem State.log_hack : (s.log d b inst rc detail ctx).hack = s.hack := by unfold State.log; rw [s.logAs_eq]; rfl
@[simp] theorem State.log_sync : (s.log d b inst rc detail ctx).sync = s.sync := by unfold State.log; rw [s.logAs_eq]; rfl
@[simp] theorem State.log_rdData : (s.log d b inst rc detail ctx).rdData = s.rdData := by unfold State.log; rw [s.logAs_eq]; rfl
@[simp] theorem State.log_beatHi : (s.log d b inst rc detail ctx).beatHi = s.beatHi := by unfold State.log; rw [s.logAs_eq]; rfl
@[simp] theorem State.log_topo : (s.log d b inst rc detail ctx).topo = s.topo := by unfold State.log; rw [s.logAs_eq]; rfl
@[simp] theorem State.log_routes : (s.log d b inst rc detail ctx).routes = s.routes := by unfold State.log; rw [s.logAs_eq]; rfl
@[simp] theorem State.log_reserve : (s.log d b inst rc detail ctx).reserve = s.reserve := by unfold State.log; rw [s.logAs_eq]; rfl
@[simp] theorem State.log_grants : (s.log d b inst rc detail ctx).grants = s.grants := by unfold State.log; rw [s.logAs_eq]; rfl
@[simp] theorem State.log_reports : (s.log d b inst rc detail ctx).reports = s.reports := by unfold State.log; rw [s.logAs_eq]; rfl
@[simp] theorem State.log_rcv : (s.log d b inst rc detail ctx).rcv = s.rcv := by unfold State.log; rw [s.logAs_eq]; rfl
@[simp] theorem State.log_engs : (s.log d b inst rc detail ctx).engs = s.engs := by unfold State.log; rw [s.logAs_eq]; rfl
@[simp] theorem State.log_queues : (s.log d b inst rc detail ctx).queues = s.queues := by unfold State.log; rw [s.logAs_eq]; rfl
@[simp] theorem State.log_streams : (s.log d b inst rc detail ctx).streams = s.streams := by unfold State.log; rw [s.logAs_eq]; rfl
@[simp] theorem State.log_opTable : (s.log d b inst rc detail ctx).opTable = s.opTable := by unfold State.log; rw [s.logAs_eq]; rfl
@[simp] theorem State.log_opDefs : (s.log d b inst rc detail ctx).opDefs = s.opDefs := by unfold State.log; rw [s.logAs_eq]; rfl
@[simp] theorem State.log_heads : (s.log d b inst rc detail ctx).heads = s.heads := by unfold State.log; rw [s.logAs_eq]; rfl
@[simp] theorem State.log_issued : (s.log d b inst rc detail ctx).issued = s.issued := by unfold State.log; rw [s.logAs_eq]; rfl
@[simp] theorem State.log_accepted : (s.log d b inst rc detail ctx).accepted = s.accepted := by unfold State.log; rw [s.logAs_eq]; rfl
@[simp] theorem State.log_failed : (s.log d b inst rc detail ctx).failed = s.failed := by unfold State.log; rw [s.logAs_eq]; rfl
@[simp] theorem State.log_seenIssued : (s.log d b inst rc detail ctx).seenIssued = s.seenIssued := by unfold State.log; rw [s.logAs_eq]; rfl
@[simp] theorem State.log_seenFailed : (s.log d b inst rc detail ctx).seenFailed = s.seenFailed := by unfold State.log; rw [s.logAs_eq]; rfl
@[simp] theorem State.log_nextTag : (s.log d b inst rc detail ctx).nextTag = s.nextTag := by unfold State.log; rw [s.logAs_eq]; rfl
@[simp] theorem State.log_hostEpoch : (s.log d b inst rc detail ctx).hostEpoch = s.hostEpoch := by unfold State.log; rw [s.logAs_eq]; rfl
@[simp] theorem State.log_fences : (s.log d b inst rc detail ctx).fences = s.fences := by unfold State.log; rw [s.logAs_eq]; rfl
@[simp] theorem State.log_rdReqs : (s.log d b inst rc detail ctx).rdReqs = s.rdReqs := by unfold State.log; rw [s.logAs_eq]; rfl
@[simp] theorem State.log_hosts : (s.log d b inst rc detail ctx).hosts = s.hosts := by unfold State.log; rw [s.logAs_eq]; rfl
@[simp] theorem State.log_ptp : (s.log d b inst rc detail ctx).ptp = s.ptp := by unfold State.log; rw [s.logAs_eq]; rfl
@[simp] theorem State.log_fus : (s.log d b inst rc detail ctx).fus = s.fus := by unfold State.log; rw [s.logAs_eq]; rfl
@[simp] theorem State.log_ldg : (s.log d b inst rc detail ctx).ldg = s.ldg := by unfold State.log; rw [s.logAs_eq]; rfl
@[simp] theorem State.log_fram : (s.log d b inst rc detail ctx).fram = s.fram := by unfold State.log; rw [s.logAs_eq]; rfl
@[simp] theorem State.log_boot : (s.log d b inst rc detail ctx).boot = s.boot := by unfold State.log; rw [s.logAs_eq]; rfl
@[simp] theorem State.log_chg : (s.log d b inst rc detail ctx).chg = s.chg := by unfold State.log; rw [s.logAs_eq]; rfl
@[simp] theorem State.log_tshadow : (s.log d b inst rc detail ctx).tshadow = s.tshadow := by unfold State.log; rw [s.logAs_eq]; rfl
@[simp] theorem State.log_recals : (s.log d b inst rc detail ctx).recals = s.recals := by unfold State.log; rw [s.logAs_eq]; rfl
@[simp] theorem State.log_landed : (s.log d b inst rc detail ctx).landed = s.landed := by unfold State.log; rw [s.logAs_eq]; rfl
@[simp] theorem State.log_recov : (s.log d b inst rc detail ctx).recov = s.recov := by unfold State.log; rw [s.logAs_eq]; rfl
@[simp] theorem State.log_link (e' : LinkEnd) : (s.log d b inst rc detail ctx).link e' = s.link e' := by
  unfold State.log; rw [s.logAs_eq]; rfl
@[simp] theorem State.log_rdByte (a' : Nat) : (s.log d b inst rc detail ctx).rdByte a' = s.rdByte a' := by
  unfold State.log; rw [s.logAs_eq]; rfl
@[simp] theorem State.log_poisoned (a' : Nat) : (s.log d b inst rc detail ctx).poisoned a' = s.poisoned a' := by
  unfold State.log; rw [s.logAs_eq]; rfl
@[simp] theorem State.log_dom (k' : Nat) : (s.log d b inst rc detail ctx).dom k' = s.dom k' := by
  unfold State.log; rw [s.logAs_eq]; rfl
@[simp] theorem State.log_ctx (d' : Die) (n' : Nat) : (s.log d b inst rc detail ctx).ctx d' n' = s.ctx d' n' := by
  unfold State.log; rw [s.logAs_eq]; rfl

/-- The record stands first in the log of its die. -/
@[simp] theorem State.log_die : (s.log d b inst rc detail ctx).die d = { s.die d with
    log := ((⟨(s.die d).beat, rc, dieCode d, b.code, inst, ctx, severity rc, detail⟩ : LogRec) :: (s.die d).log).take 4096
    logCount := (s.die d).logCount + 1 } := s.logAs_die ..

end

/-! ### Places of register fields -/

theorem regTag_lt (b : Blk) (f : Fld) : regTag b f < 2 ^ 26 := by
  have h : blkTag b ≤ 22 := by cases b <;> decide
  unfold regTag
  omega

theorem fkey_mod (d : Die) (b : Blk) (i : Nat) (f : Fld) (k : Nat) : fkey d b i f k % 2 ^ 26 = regTag b f := by
  have := regTag_lt b f
  unfold fkey
  omega

/-- Another field, wherever it stands, has another key. -/
theorem fkey_ne_of_tag {d d' : Die} {b b' : Blk} {i i' : Nat} {f f' : Fld} {k k' : Nat} (h : regTag b f ≠ regTag b' f') :
    fkey d b i f k ≠ fkey d' b' i' f' k' := fun e => h (by rw [← fkey_mod d b i f k, e, fkey_mod])

/-- A field in a register of another address, or at another bit, has another key. -/
theorem fkey_ne {d d' : Die} {b b' : Blk} {i i' : Nat} {f f' : Fld} {k k' : Nat} (h1 : f.lo < 32) (h2 : f'.lo < 32)
    (h : winBase d + blkOff b i + f.off + k ≠ winBase d' + blkOff b' i' + f'.off + k' ∨ f.lo ≠ f'.lo) :
    fkey d b i f k ≠ fkey d' b' i' f' k' := by
  have g1 := regTag_lt b f
  have g2 := regTag_lt b' f'
  unfold fkey; omega

/-- What raising a vector leaves of a register field outside the `EVT` registers of a Crown die. -/
theorem State.getF_raise (own : Option Crown) (v : Nat) {d : Die} {b : Blk} {i : Nat} {f : Fld} {k : Nat}
    (h : ∀ c : Crown, fkey d b i f k ≠ fkey (.cr c) .pci 0 Reg.PCI_EVT_CAUSE 0 ∧
      fkey d b i f k ≠ fkey (.cr c) .pci 0 Reg.PCI_EVT_RING 0 ∧ fkey d b i f k ≠ fkey (.cr c) .pci 0 Reg.PCI_EVT_CTX_CTX 0) :
    (s.raise own v).getF d b i f k = s.getF d b i f k := by
  have one : ∀ (t : State) (c : Crown), (t.raiseOn v c).getF d b i f k = t.getF d b i f k := by
    intro t c
    unfold State.raiseOn
    split
    · exact t.getF_setF_ne (h c).1
    · split
      · exact t.getF_setF_ne (h c).2.1
      · exact t.getF_setF_ne (h c).2.2
  have all : ∀ (l : List Crown) (t : State), (l.foldl (fun t c => t.raiseOn v c) t).getF d b i f k = t.getF d b i f k := by
    intro l
    induction l with
    | nil => exact fun _ => rfl
    | cons c l ih => exact fun t => by rw [List.foldl_cons, ih, one]
  cases own with
  | some c => exact one s c
  | none => exact all _ s

/-- What logging leaves of such a field. -/
theorem State.getF_log (d' : Die) (b' : Blk) (inst rc : Nat) (detail : List Byte) (ctx : Nat) {d : Die} {b : Blk} {i : Nat}
    {f : Fld} {k : Nat}
    (h : ∀ c : Crown, fkey d b i f k ≠ fkey (.cr c) .pci 0 Reg.PCI_EVT_CAUSE 0 ∧
      fkey d b i f k ≠ fkey (.cr c) .pci 0 Reg.PCI_EVT_RING 0 ∧ fkey d b i f k ≠ fkey (.cr c) .pci 0 Reg.PCI_EVT_CTX_CTX 0) :
    (s.log d' b' inst rc detail ctx).getF d b i f k = s.getF d b i f k := by
  unfold State.log State.logAs
  dsimp only
  split
  · rw [State.getF_raise _ _ _ h, State.getF_raise _ _ _ h]; rfl
  · rw [State.getF_raise _ _ _ h]; rfl

/-! ### Training states -/

theorem lst_key (e : LinkEnd) (c : Crown) (g : Fld) (hg : g ∈ [Reg.PCI_EVT_CAUSE, Reg.PCI_EVT_RING, Reg.PCI_EVT_CTX_CTX]) :
    fkey (leDie e) (leBlk e) (leInst e) (if isTray e then Reg.TRYP_LL_STATUS_STATE else Reg.IKL_LL_STATUS_STATE) 0 ≠
      fkey (.cr c) .pci 0 g 0 := by
  simp only [List.mem_cons, List.not_mem_nil, or_false] at hg
  apply fkey_ne_of_tag
  rcases e with ⟨_, _⟩ | _ <;> rcases hg with rfl | rfl | rfl <;>
    simp only [leBlk, isTray, if_true, Bool.false_eq_true, if_false] <;> decide

theorem State.lst_raise (own : Option Crown) (v : Nat) (e : LinkEnd) : (s.raise own v).lst e = s.lst e :=
  s.getF_raise own v fun c => ⟨lst_key e c _ (by decide), lst_key e c _ (by decide), lst_key e c _ (by decide)⟩

theorem State.lst_logLink (e e' : LinkEnd) (rc : Nat) (detail : List Byte) (ctx : Nat) :
    (s.logLink e' rc detail ctx).lst e = s.lst e :=
  s.getF_log _ _ _ _ _ _ fun c => ⟨lst_key e c _ (by decide), lst_key e c _ (by decide), lst_key e c _ (by decide)⟩

/-- The state that `toSt` puts; states fit the field of four bits. -/
theorem State.lst_toSt (e : LinkEnd) (st : Nat) (h : st < 16) : (s.toSt e st).lst e = st := by
  unfold State.toSt
  dsimp only
  rw [State.lst_raise]
  cases e with
  | tray n =>
    show ((State.setF _ _ _ _ _ _ _).setLink _ _).getF _ _ _ _ _ = _
    rw [State.setLink_getF]
    refine (State.getF_setF_same ..).trans (Nat.mod_eq_of_lt ?_)
    exact h
  | ikl d n =>
    simp only [isTray, Bool.false_eq_true, if_false]
    have ne : ∀ f, f = Reg.IKL_PHY_STATUS_MODCLK_OK ∨ f = Reg.IKL_PHY_STATUS_SB_UP →
        fkey d .ikl n.val Reg.IKL_LL_STATUS_STATE 0 ≠ fkey d .ikl n.val f 0 := by
      rintro f (rfl | rfl) <;> exact fkey_ne_of_tag (by decide)
    refine (State.getF_setF_ne _ (ne _ (.inl rfl))).trans ((State.getF_setF_ne _ (ne _ (.inr rfl))).trans ?_)
    refine (State.getF_setF_same ..).trans (Nat.mod_eq_of_lt ?_)
    exact h

/-- A training state leaves every other kind of state alone. -/
theorem State.toSt_eq (e : LinkEnd) (st : Nat) :
    s.toSt e st = { s.setLink e { s.link e with since := s.time } with regs := (s.toSt e st).regs } := by
  unfold State.toSt
  dsimp only
  rw [State.raise_eq]
  split <;> rfl

@[simp] theorem State.toSt_die (e : LinkEnd) (st : Nat) (d : Die) : (s.toSt e st).die d = s.die d := by rw [s.toSt_eq]; rfl

@[simp] theorem State.toSt_link (e : LinkEnd) (st : Nat) : (s.toSt e st).link e = { s.link e with since := s.time } := by
  rw [s.toSt_eq]; exact s.link_setLink_same ..

@[simp] theorem State.toSt_rdByte (e : LinkEnd) (st a : Nat) : (s.toSt e st).rdByte a = s.rdByte a := by rw [s.toSt_eq]; rfl

/-! ### The sideband queue -/

/-- A message sent joins the end of its link end's queue; an acknowledged one takes the next MSEQ. -/
theorem State.sbSend_q (e : LinkEnd) (mtype body aux copies : Nat) :
    ((s.sbSend e mtype body aux copies).link e).q = (s.link e).q ++
      [{ mtype := mtype, body := body, aux := aux, mseq := if sbAcked mtype then (s.link e).mseq else 0, copies := copies }] := by
  unfold State.sbSend
  dsimp only
  split <;> simp [*]

/-- Nothing but the link end changes. -/
theorem State.sbSend_eq (e : LinkEnd) (mtype body aux copies : Nat) :
    s.sbSend e mtype body aux copies = s.setLink e ((s.sbSend e mtype body aux copies).link e) := by
  unfold State.sbSend
  dsimp only
  split <;> simp

end Sys2Proof.Machine
end

