-- ==== Sys2Proof/Laws/Only.lean ====
section
/-! SUPPORT. What changes only some parts of the state: `Only pt z s` says that `s` differs from `z` in no part outside
`pt`. One lemma per operation says which parts it changes, here for the operations over registers, the log and memory. -/

namespace Sys2Proof.Machine

variable {pt : Field → Bool} {z s t : State}

/-- `s` differs from `z` in no part outside `pt`. -/
structure Only (pt : Field → Bool) (z s : State) : Prop where
  same : ∀ x, pt x = false → x.same z s

/-- Every part of a list is one of `pt`. -/
def Allow (pt : Field → Bool) : List Field → Prop
  | [] => True
  | x :: l => pt x = true ∧ Allow pt l

/-- Every register field is one of `pt`. -/
def AnyReg (pt : Field → Bool) : Prop := ∀ n, pt (.reg n) = true

theorem Allow.nil : Allow pt [] := trivial

theorem Allow.cons {x : Field} {l : List Field} (h : pt x = true) (g : Allow pt l) : Allow pt (x :: l) := ⟨h, g⟩

theorem Allow.map_nil (g : Fld → Field) : Allow pt (List.map g []) := trivial

theorem Allow.map_cons {g : Fld → Field} {f : Fld} {l : List Fld} (h : pt (g f) = true) (k : Allow pt (l.map g)) :
    Allow pt ((f :: l).map g) := ⟨h, k⟩

theorem Allow.of_mem {l : List Field} (h : Allow pt l) : ∀ x ∈ l, pt x = true := by
  induction l with
  | nil => exact fun _ hx => nomatch hx
  | cons y l ih =>
    intro x hx
    cases hx with
    | head => exact h.1
    | tail _ hx => exact ih h.2 x hx

theorem AnyReg.group (h : AnyReg pt) {l : List Field} (hl : l.all Field.isReg = true) : Allow pt l := by
  induction l with
  | nil => trivial
  | cons x l ih =>
    rw [List.all_cons, Bool.and_eq_true] at hl
    refine ⟨?_, ih hl.2⟩
    cases x with
    | reg n => exact h n
    | _ => exact absurd hl.1 Bool.false_ne_true

theorem Touch.has_of_mem {u : Touch} {x : Field} (h : x ∈ u.parts) : u.has x = true := by
  unfold Touch.has
  rw [decide_eq_true h, Bool.true_or]

theorem Touch.anyReg_has {u : Touch} (h : u.anyReg = true) : AnyReg u.has := fun n => by
  unfold Touch.has
  rw [h, Bool.true_and]
  exact Bool.or_true _

/-- A command may change the parts that its frame lists. -/
theorem Touch.allow {u : Touch} {l : List Field} (h : ∀ x ∈ l, x ∈ u.parts) : Allow u.has l := by
  induction l with
  | nil => trivial
  | cons x l ih => exact ⟨Touch.has_of_mem (h x (.head _)), ih fun y hy => h y (.tail _ hy)⟩

theorem Allow.of_forall {l : List Field} (h : ∀ x ∈ l, pt x = true) : Allow pt l := by
  induction l with
  | nil => trivial
  | cons x l ih => exact ⟨h x (.head _), ih fun y hy => h y (.tail _ hy)⟩

/-! ### The relation -/

theorem Only.refl (s : State) : Only pt s s := ⟨fun x _ => by
  cases x
  case reg => exact fun _ _ _ _ _ _ => rfl
  all_goals rfl⟩

theorem Field.same_trans {x : Field} (h : x.same z s) (g : x.same s t) : x.same z t := by
  cases x
  case reg => exact fun d b i f k e => (g d b i f k e).trans (h d b i f k e)
  all_goals exact Eq.trans g h

theorem Only.trans (h : Only pt z s) (g : Only pt s t) : Only pt z t :=
  ⟨fun x hx => Field.same_trans (h.same x hx) (g.same x hx)⟩

/-- A change of fields, each of them one of `pt` or left as it was. -/
theorem Only.mk_same (h : Only pt z s)
    {x0 : Nat} {x1 : Tab Nat} {x2 : Tab Nat} {x3 : Tab Nat} {x4 : Tab Nat} {x5 : Tab DieSt} {x6 : Tab LinkSt}
    {x7 : Tab Nat} {x8 : List Host.Cell} {x9 : Tab Bool} {x10 : Tab CtxSt} {x11 : List Nat} {x12 : Nat} {x13 : Tab
    Nat} {x14 : Tab FpLine} {x15 : List SeedRec} {x16 : Pins} {x17 : HackSt} {x18 : SyncSt} {x19 : Tab Nat}
    {x20 : Tab Nat} {x21 : List (Nat × Nat × Nat × Nat)} {x22 : List (Nat × Nat)} {x23 : List Nat} {x24 : Tab Nat}
    {x25 : Tab (Option Report)} {x26 : Tab RcvDom} {x27 : Tab EngSt} {x28 : Tab (List Desc)} {x29 : Tab StreamSt}
    {x30 : Tab (Option OpInfo)} {x31 : Tab Nat} {x32 : Tab Nat} {x33 : Tab Nat} {x34 : Tab Nat} {x35 : Tab Nat}
    {x36 : Tab Nat} {x37 : Tab Nat} {x38 : Tab Nat} {x39 : Tab Nat} {x40 : Tab (Option FenceSt)} {x41 : Tab (List
    ReadReq)} {x42 : Tab HostSt} {x43 : PtpSt} {x44 : Tab FusSt} {x45 : LdgSt} {x46 : List Host.Cell} {x47 : BootSt}
    {x48 : ChgSt} {x49 : Tab Nat} {x50 : List Recal} {x51 : Tab Nat} {x52 : RecSt}
    (h0 : x0 = s.free ∨ pt .free = true) (h1 : x1 = s.regs ∨ AnyReg pt) (h2 : x2 = s.resv ∨ pt .resv = true)
    (h3 : x3 = s.shadow ∨ pt .shadow = true) (h4 : x4 = s.inForce ∨ pt .inForce = true) (h5 : x5 = s.dies ∨ pt .dies
    = true) (h6 : x6 = s.links ∨ pt .links = true) (h7 : x7 = s.tables ∨ pt .tables = true) (h8 : x8 = s.mem ∨ pt
    .mem = true) (h9 : x9 = s.poison ∨ pt .poison = true) (h10 : x10 = s.ctxs ∨ pt .ctxs = true) (h11 : x11 =
    s.dieIds ∨ pt .dieIds = true) (h12 : x12 = s.cr1Root ∨ pt .cr1Root = true) (h13 : x13 = s.trayFuse ∨ pt
    .trayFuse = true) (h14 : x14 = s.fpLines ∨ pt .fpLines = true) (h15 : x15 = s.seeds ∨ pt .seeds = true)
    (h16 : x16 = s.pins ∨ pt .pins = true) (h17 : x17 = s.hack ∨ pt .hack = true) (h18 : x18 = s.sync ∨ pt .sync =
    true) (h19 : x19 = s.rdData ∨ pt .rdData = true) (h20 : x20 = s.beatHi ∨ pt .beatHi = true) (h21 : x21 = s.topo
    ∨ pt .topo = true) (h22 : x22 = s.routes ∨ pt .routes = true) (h23 : x23 = s.reserve ∨ pt .reserve = true)
    (h24 : x24 = s.grants ∨ pt .grants = true) (h25 : x25 = s.reports ∨ pt .reports = true) (h26 : x26 = s.rcv ∨ pt
    .rcv = true) (h27 : x27 = s.engs ∨ pt .engs = true) (h28 : x28 = s.queues ∨ pt .queues = true) (h29 : x29 =
    s.streams ∨ pt .streams = true) (h30 : x30 = s.opTable ∨ pt .opTable = true) (h31 : x31 = s.opDefs ∨ pt .opDefs
    = true) (h32 : x32 = s.heads ∨ pt .heads = true) (h33 : x33 = s.issued ∨ pt .issued = true) (h34 : x34 =
    s.accepted ∨ pt .accepted = true) (h35 : x35 = s.failed ∨ pt .failed = true) (h36 : x36 = s.seenIssued ∨ pt
    .seenIssued = true) (h37 : x37 = s.seenFailed ∨ pt .seenFailed = true) (h38 : x38 = s.nextTag ∨ pt .nextTag =
    true) (h39 : x39 = s.hostEpoch ∨ pt .hostEpoch = true) (h40 : x40 = s.fences ∨ pt .fences = true) (h41 : x41 =
    s.rdReqs ∨ pt .rdReqs = true) (h42 : x42 = s.hosts ∨ pt .hosts = true) (h43 : x43 = s.ptp ∨ pt .ptp = true)
    (h44 : x44 = s.fus ∨ pt .fus = true) (h45 : x45 = s.ldg ∨ pt .ldg = true) (h46 : x46 = s.fram ∨ pt .fram = true)
    (h47 : x47 = s.boot ∨ pt .boot = true) (h48 : x48 = s.chg ∨ pt .chg = true) (h49 : x49 = s.tshadow ∨ pt .tshadow
    = true) (h50 : x50 = s.recals ∨ pt .recals = true) (h51 : x51 = s.landed ∨ pt .landed = true) (h52 : x52 =
    s.recov ∨ pt .recov = true) :
    Only pt z (State.mk s.pending s.time x0 x1 x2 x3 x4 x5 x6 x7 x8 x9 x10 x11 x12 x13 x14 x15 x16 x17 x18 x19 x20
      x21 x22 x23 x24 x25 x26 x27 x28 x29 x30 x31 x32 x33 x34 x35 x36 x37 x38 x39 x40 x41 x42 x43 x44 x45 x46 x47
      x48 x49 x50 x51 x52) := by
  refine h.trans ⟨fun x hx => ?_⟩
  cases x
  · rename_i n
    rcases h1 with rfl | h
    · exact fun _ _ _ _ _ _ => rfl
    · exact absurd (h n) (by rw [hx]; exact Bool.false_ne_true)
  · exact h0.resolve_right (by rw [hx]; exact Bool.false_ne_true)
  · exact h2.resolve_right (by rw [hx]; exact Bool.false_ne_true)
  · exact h3.resolve_right (by rw [hx]; exact Bool.false_ne_true)
  · exact h4.resolve_right (by rw [hx]; exact Bool.false_ne_true)
  · exact h5.resolve_right (by rw [hx]; exact Bool.false_ne_true)
  · exact h6.resolve_right (by rw [hx]; exact Bool.false_ne_true)
  · exact h7.resolve_right (by rw [hx]; exact Bool.false_ne_true)
  · exact h8.resolve_right (by rw [hx]; exact Bool.false_ne_true)
  · exact h9.resolve_right (by rw [hx]; exact Bool.false_ne_true)
  · exact h10.resolve_right (by rw [hx]; exact Bool.false_ne_true)
  · exact h11.resolve_right (by rw [hx]; exact Bool.false_ne_true)
  · exact h12.resolve_right (by rw [hx]; exact Bool.false_ne_true)
  · exact h13.resolve_right (by rw [hx]; exact Bool.false_ne_true)
  · exact h14.resolve_right (by rw [hx]; exact Bool.false_ne_true)
  · exact h15.resolve_right (by rw [hx]; exact Bool.false_ne_true)
  · exact h16.resolve_right (by rw [hx]; exact Bool.false_ne_true)
  · exact h17.resolve_right (by rw [hx]; exact Bool.false_ne_true)
  · exact h18.resolve_right (by rw [hx]; exact Bool.false_ne_true)
  · exact h19.resolve_right (by rw [hx]; exact Bool.false_ne_true)
  · exact h20.resolve_right (by rw [hx]; exact Bool.false_ne_true)
  · exact h21.resolve_right (by rw [hx]; exact Bool.false_ne_true)
  · exact h22.resolve_right (by rw [hx]; exact Bool.false_ne_true)
  · exact h23.resolve_right (by rw [hx]; exact Bool.false_ne_true)
  · exact h24.resolve_right (by rw [hx]; exact Bool.false_ne_true)
  · exact h25.resolve_right (by rw [hx]; exact Bool.false_ne_true)
  · exact h26.resolve_right (by rw [hx]; exact Bool.false_ne_true)
  · exact h27.resolve_right (by rw [hx]; exact Bool.false_ne_true)
  · exact h28.resolve_right (by rw [hx]; exact Bool.false_ne_true)
  · exact h29.resolve_right (by rw [hx]; exact Bool.false_ne_true)
  · exact h30.resolve_right (by rw [hx]; exact Bool.false_ne_true)
  · exact h31.resolve_right (by rw [hx]; exact Bool.false_ne_true)
  · exact h32.resolve_right (by rw [hx]; exact Bool.false_ne_true)
  · exact h33.resolve_right (by rw [hx]; exact Bool.false_ne_true)
  · exact h34.resolve_right (by rw [hx]; exact Bool.false_ne_true)
  · exact h35.resolve_right (by rw [hx]; exact Bool.false_ne_true)
  · exact h36.resolve_right (by rw [hx]; exact Bool.false_ne_true)
  · exact h37.resolve_right (by rw [hx]; exact Bool.false_ne_true)
  · exact h38.resolve_right (by rw [hx]; exact Bool.false_ne_true)
  · exact h39.resolve_right (by rw [hx]; exact Bool.false_ne_true)
  · exact h40.resolve_right (by rw [hx]; exact Bool.false_ne_true)
  · exact h41.resolve_right (by rw [hx]; exact Bool.false_ne_true)
  · exact h42.resolve_right (by rw [hx]; exact Bool.false_ne_true)
  · exact h43.resolve_right (by rw [hx]; exact Bool.false_ne_true)
  · exact h44.resolve_right (by rw [hx]; exact Bool.false_ne_true)
  · exact h45.resolve_right (by rw [hx]; exact Bool.false_ne_true)
  · exact h46.resolve_right (by rw [hx]; exact Bool.false_ne_true)
  · exact h47.resolve_right (by rw [hx]; exact Bool.false_ne_true)
  · exact h48.resolve_right (by rw [hx]; exact Bool.false_ne_true)
  · exact h49.resolve_right (by rw [hx]; exact Bool.false_ne_true)
  · exact h50.resolve_right (by rw [hx]; exact Bool.false_ne_true)
  · exact h51.resolve_right (by rw [hx]; exact Bool.false_ne_true)
  · exact h52.resolve_right (by rw [hx]; exact Bool.false_ne_true)

theorem Only.ite {c : Prop} [Decidable c] (h : Only pt z s) (g : Only pt z t) : Only pt z (if c then s else t) := by
  split <;> assumption

theorem Only.ite_snd {α : Type} {c : Prop} [Decidable c] {a b : α × State} (h : Only pt z a.2) (g : Only pt z b.2) :
    Only pt z (if c then a else b).2 := by
  split <;> assumption

theorem Only.of_eq {α : Type} {q : α × State} {a : α} (e : q = (a, s)) (h : Only pt z q.2) : Only pt z s := by
  rw [e] at h; exact h

theorem Only.foldl {α : Type} {f : State → α → State} (l : List α) (hf : ∀ u a, Only pt z u → Only pt z (f u a))
    (h : Only pt z s) : Only pt z (l.foldl f s) := by
  induction l generalizing s with
  | nil => exact h
  | cons a l ih => exact ih (hf s a h)

theorem Only.foldl_mem {α : Type} {f : State → α → State} (l : List α) (hf : ∀ u, ∀ a ∈ l, Only pt z u → Only pt z (f u a))
    (h : Only pt z s) : Only pt z (l.foldl f s) := by
  induction l generalizing s with
  | nil => exact h
  | cons a l ih => exact ih (fun u b hb => hf u b (.tail _ hb)) (hf s a (.head _) h)

theorem Only.foldl_snd {α β : Type} {f : β × State → α → β × State} (l : List α)
    (hf : ∀ q a, Only pt z q.2 → Only pt z (f q a).2) (q : β × State) (h : Only pt z q.2) : Only pt z (l.foldl f q).2 := by
  induction l generalizing q with
  | nil => exact h
  | cons a l ih => exact ih _ (hf q a h)

/-- A command ends in a next state that differs in no part outside `pt`. -/
inductive OnlyO (pt : Field → Bool) (z : State) : Host.Outcome State Fault Refusal → Prop
  | next {s : State} (h : Only pt z s) : OnlyO pt z (.next s)

theorem OnlyO.ite {c : Prop} [Decidable c] {a b : Host.Outcome State Fault Refusal} (h : OnlyO pt z a) (g : OnlyO pt z b) :
    OnlyO pt z (if c then a else b) := by
  split <;> assumption

theorem Only.setF (h : Only pt z s) (d : Die) (b : Blk) (i : Nat) (f : Fld) (v : Nat) (k : Nat) (hp : Allow pt
    [.ofReg b f]) :
    Only pt z (s.setF d b i f v k) := by
  refine h.trans ⟨fun x hx => ?_⟩
  cases x with
  | reg n =>
    intro d' b' i' f' k' e
    refine State.getF_setF_ne _ (fkey_ne_of_tag fun e' => ?_)
    have q := hp.1
    rw [Field.ofReg, ← e', e, hx] at q
    cases q
  | _ => rfl

theorem Only.bumpF (h : Only pt z s) (d : Die) (b : Blk) (i : Nat) (f : Fld) (k : Nat) (hp : Allow pt [.ofReg b f]) :
    Only pt z (State.bumpF s d b i f k) := by
  obtain ⟨q0, -⟩ := hp
  unfold State.bumpF
  repeat' first
    | (with_reducible first | assumption | exact Allow.nil | apply Allow.cons | apply Only.ite
                            | apply Only.setF)
    | refine Only.of_eq (by assumption) ?_ | split | dsimp only

theorem Only.addF (h : Only pt z s) (d : Die) (b : Blk) (i : Nat) (f : Fld) (n : Nat) (k : Nat) (hp : Allow pt
    [.ofReg b f]) : Only pt z (State.addF s d b i f n k) := by
  obtain ⟨q0, -⟩ := hp
  unfold State.addF
  repeat' first
    | (with_reducible first | assumption | exact Allow.nil | apply Allow.cons | apply Only.ite
                            | apply Only.setF)
    | refine Only.of_eq (by assumption) ?_ | split | dsimp only

theorem Only.set64 (h : Only pt z s) (d : Die) (b : Blk) (i : Nat) (lo : Fld) (hi : Fld) (v : Nat) (k : Nat) (hp :
    Allow pt [.ofReg b hi, .ofReg b lo]) : Only pt z (State.set64 s d b i lo hi v k) := by
  obtain ⟨q0, q1, -⟩ := hp
  unfold State.set64
  repeat' first
    | (with_reducible first | assumption | exact Allow.nil | apply Allow.cons | apply Only.ite
                            | apply Only.setF)
    | refine Only.of_eq (by assumption) ?_ | split | dsimp only

theorem Only.setDie (h : Only pt z s) (d : Die) (x : DieSt) (hp : Allow pt [.dies]) : Only pt z (State.setDie s d x)
    := by
  obtain ⟨q0, -⟩ := hp
  unfold State.setDie
  repeat' first
    | (with_reducible first | assumption | exact Allow.nil | apply Allow.cons | apply Only.ite)
    | refine Only.of_eq (by assumption) ?_ | split | dsimp only
    | (with_reducible apply Only.mk_same) <;> first | with_reducible exact .inr (by assumption) | with_reducible exact .inl rfl | exact .inl rfl | skip

theorem Only.draw (h : Only pt z s) (w : Nat) (hp : Allow pt [.free]) : Only pt z (State.draw s w).2 := by
  obtain ⟨q0, -⟩ := hp
  unfold State.draw
  repeat' first
    | (with_reducible first | assumption | exact Allow.nil | apply Allow.cons | apply Only.ite
                            | apply Only.ite_snd)
    | refine Only.of_eq (by assumption) ?_ | split | dsimp only
    | (with_reducible apply Only.mk_same) <;> first | with_reducible exact .inr (by assumption) | with_reducible exact .inl rfl | exact .inl rfl | skip

theorem Only.raiseOn (h : Only pt z s) (v : Nat) (c : Crown) (hg0 : Allow pt evtRegs) : Only pt z (State.raiseOn s v
    c) := by
  obtain ⟨g00, g01, g02, -⟩ := id hg0
  unfold State.raiseOn
  repeat' first
    | (with_reducible first | assumption | exact Allow.nil | apply Allow.cons | apply Only.ite
                            | apply Only.setF)
    | refine Only.of_eq (by assumption) ?_ | split | dsimp only

theorem Only.raise (h : Only pt z s) (own : Option Crown) (v : Nat) (hg0 : Allow pt evtRegs) : Only pt z (State.raise
    s own v) := by
  unfold State.raise
  repeat' first
    | intro _
    | (with_reducible first | assumption | exact Allow.nil | apply Allow.cons | apply Only.foldl
                            | apply Only.ite | apply Only.raiseOn)
    | refine Only.of_eq (by assumption) ?_ | split | dsimp only
    | (with_reducible apply Only.mk_same) <;> first | with_reducible exact .inr (by assumption) | with_reducible exact .inl rfl | exact .inl rfl | skip

theorem Only.logAs (h : Only pt z s) (d : Die) (dd : Die) (b : Blk) (inst : Nat) (rc : Nat) (detail : List Byte) (ctx
    : Nat) (hg0 : Allow pt evtRegs) (hp : Allow pt [.dies]) : Only pt z (State.logAs s d dd b inst rc detail ctx) :=
    by
  obtain ⟨q0, -⟩ := hp
  unfold State.logAs
  repeat' first
    | (with_reducible first | assumption | exact Allow.nil | apply Allow.cons | apply Only.ite
                            | apply Only.setDie | apply Only.log | apply Only.raise)
    | refine Only.of_eq (by assumption) ?_ | split | dsimp only
    | (with_reducible apply Only.mk_same) <;> first | with_reducible exact .inr (by assumption) | with_reducible exact .inl rfl | exact .inl rfl | skip

theorem Only.log (h : Only pt z s) (d : Die) (b : Blk) (inst : Nat) (rc : Nat) (detail : List Byte) (ctx : Nat) (hg0 :
    Allow pt evtRegs) (hp : Allow pt [.dies]) : Only pt z (State.log s d b inst rc detail ctx) := by
  obtain ⟨q0, -⟩ := hp
  unfold State.log
  repeat' first
    | (with_reducible first | assumption | exact Allow.nil | apply Allow.cons | apply Only.ite
                            | apply Only.logAs)
    | refine Only.of_eq (by assumption) ?_ | split | dsimp only

theorem Only.lastReason (h : Only pt z s) (d : Die) (b : Blk) (inst : Nat) (rc : Nat) (hg0 : Allow pt refusalRegs) :
    Only pt z (State.lastReason s d b inst rc) := by
  obtain ⟨g00, g01, g02, g03, g04, -⟩ := id hg0
  unfold State.lastReason
  repeat' first
    | (with_reducible first | assumption | exact Allow.nil | apply Allow.cons | apply Only.ite | apply Only.setF
                            | apply Only.bumpF)
    | refine Only.of_eq (by assumption) ?_ | split | dsimp only

theorem Only.refuseBlk (h : Only pt z s) (d : Die) (b : Blk) (inst : Nat) (rc : Nat) (hg0 : Allow pt evtRegs) (hg1 :
    Allow pt refusalRegs) (hp : Allow pt [.dies]) : Only pt z (State.refuseBlk s d b inst rc) := by
  obtain ⟨q0, -⟩ := hp
  unfold State.refuseBlk
  repeat' first
    | (with_reducible first | assumption | exact Allow.nil | apply Allow.cons | apply Only.ite
                            | apply Only.lastReason | apply Only.log | apply Only.raise)
    | refine Only.of_eq (by assumption) ?_ | split | dsimp only

theorem Only.refuse (h : Only pt z s) (fn : Fn) (d : Die) (inst : Nat) (rc : Nat) (hg0 : Allow pt evtRegs) (hg1 :
    Allow pt refusalRegs) (hp : Allow pt [.dies, .ofReg (fnRegs fn).blk (fnRegs fn).reason, .ofReg (fnRegs fn).blk
    (fnRegs fn).refused]) : Only pt z (State.refuse s fn d inst rc) := by
  obtain ⟨g00, g01, g02, -⟩ := id hg0
  obtain ⟨g10, g11, g12, g13, g14, -⟩ := id hg1
  obtain ⟨q0, q1, q2, -⟩ := hp
  unfold State.refuse
  repeat' first
    | (with_reducible first | assumption | exact Allow.nil | apply Allow.cons | apply Only.ite | apply Only.setF
                            | apply Only.refuseBlk)
    | refine Only.of_eq (by assumption) ?_ | split | dsimp only

theorem Only.refuseAbsent (h : Only pt z s) (d : Die) (b : Blk) (inst : Nat) (hg0 : Allow pt evtRegs) (hg1 : Allow pt
    refusalRegs) (hp : Allow pt [.dies]) : Only pt z (State.refuseAbsent s d b inst) := by
  obtain ⟨q0, -⟩ := hp
  unfold State.refuseAbsent
  repeat' first
    | (with_reducible first | assumption | exact Allow.nil | apply Allow.cons | apply Only.ite
                            | apply Only.lastReason | apply Only.logAs | apply Only.raise)
    | refine Only.of_eq (by assumption) ?_ | split | dsimp only

theorem Only.wrBytes (h : Only pt z s) (pa : Nat) (l : List Byte) (hp : Allow pt [.mem]) : Only pt z (State.wrBytes s
    pa l) := by
  obtain ⟨q0, -⟩ := hp
  unfold State.wrBytes
  repeat' first
    | (with_reducible first | assumption | exact Allow.nil | apply Allow.cons | apply Only.ite)
    | refine Only.of_eq (by assumption) ?_ | split | dsimp only
    | (with_reducible apply Only.mk_same) <;> first | with_reducible exact .inr (by assumption) | with_reducible exact .inl rfl | exact .inl rfl | skip

theorem Only.setPoison (h : Only pt z s) (pa : Nat) (p : Bool) (hp : Allow pt [.poison]) : Only pt z (State.setPoison
    s pa p) := by
  obtain ⟨q0, -⟩ := hp
  unfold State.setPoison
  repeat' first
    | (with_reducible first | assumption | exact Allow.nil | apply Allow.cons | apply Only.ite)
    | refine Only.of_eq (by assumption) ?_ | split | dsimp only
    | (with_reducible apply Only.mk_same) <;> first | with_reducible exact .inr (by assumption) | with_reducible exact .inl rfl | exact .inl rfl | skip

theorem Only.wrGranule (h : Only pt z s) (pa : Nat) (l : List Byte) (hp : Allow pt [.mem, .poison]) : Only pt z
    (State.wrGranule s pa l) := by
  obtain ⟨q0, q1, -⟩ := hp
  unfold State.wrGranule
  repeat' first
    | (with_reducible first | assumption | exact Allow.nil | apply Allow.cons | apply Only.ite
                            | apply Only.wrBytes | apply Only.setPoison)
    | refine Only.of_eq (by assumption) ?_ | split | dsimp only

theorem Only.setTbl (h : Only pt z s) (space : Nat) (d : Nat) (bank : Nat) (dir : Nat) (slot : Nat) (idx : Nat) (v :
    Nat) (hp : Allow pt [.tables]) : Only pt z (State.setTbl s space d bank dir slot idx v) := by
  obtain ⟨q0, -⟩ := hp
  unfold State.setTbl
  repeat' first
    | (with_reducible first | assumption | exact Allow.nil | apply Allow.cons | apply Only.ite)
    | refine Only.of_eq (by assumption) ?_ | split | dsimp only
    | (with_reducible apply Only.mk_same) <;> first | with_reducible exact .inr (by assumption) | with_reducible exact .inl rfl | exact .inl rfl | skip

end Sys2Proof.Machine
end

