-- ==== Sys2Proof/Laws/OnlyLink.lean ====
section
/-! SUPPORT. `Only` for the operations of the links, the beat and the sideband:
which parts of the state each changes. -/

namespace Sys2Proof.Machine

variable {pt : Field → Bool} {z s t : State}

theorem Only.setCtx (h : Only pt z s) (d : Die) (n : Nat) (c : CtxSt) (hp : Allow pt [.ctxs]) : Only pt z
    (State.setCtx s d n c) := by
  obtain ⟨q0, -⟩ := hp
  unfold State.setCtx
  repeat' first
    | (with_reducible first | assumption | exact Allow.nil | apply Allow.cons | apply Only.ite)
    | refine Only.of_eq (by assumption) ?_ | split | dsimp only
    | (with_reducible apply Only.mk_same) <;> first | with_reducible exact .inr (by assumption) | with_reducible exact .inl rfl | exact .inl rfl | skip

theorem Only.setDom (h : Only pt z s) (k : Nat) (x : RcvDom) (hp : Allow pt [.rcv]) : Only pt z (State.setDom s k x)
    := by
  obtain ⟨q0, -⟩ := hp
  unfold State.setDom
  repeat' first
    | (with_reducible first | assumption | exact Allow.nil | apply Allow.cons | apply Only.ite)
    | refine Only.of_eq (by assumption) ?_ | split | dsimp only
    | (with_reducible apply Only.mk_same) <;> first | with_reducible exact .inr (by assumption) | with_reducible exact .inl rfl | exact .inl rfl | skip

theorem Only.setCtxState (h : Only pt z s) (d : Die) (n : Nat) (v : Nat) (hp : Allow pt
    [.ofReg .eng Reg.ENG_CTX_STATE_STATE]) : Only pt z (State.setCtxState s d n v) := by
  obtain ⟨q0, -⟩ := hp
  unfold State.setCtxState
  repeat' first
    | (with_reducible first | assumption | exact Allow.nil | apply Allow.cons | apply Only.ite
                            | apply Only.setF)
    | refine Only.of_eq (by assumption) ?_ | split | dsimp only

theorem Only.markFaulted (h : Only pt z s) (d : Die) (n : Nat) (hp : Allow pt [.dies]) : Only pt z (State.markFaulted
    s d n) := by
  obtain ⟨q0, -⟩ := hp
  unfold State.markFaulted
  repeat' first
    | (with_reducible first | assumption | exact Allow.nil | apply Allow.cons | apply Only.ite
                            | apply Only.setDie)
    | refine Only.of_eq (by assumption) ?_ | split | dsimp only
    | (with_reducible apply Only.mk_same) <;> first | with_reducible exact .inr (by assumption) | with_reducible exact .inl rfl | exact .inl rfl | skip

theorem Only.answerFault (h : Only pt z s) (d : Die) (n : Nat) (act : Nat) (hp : Allow pt [.dies, .ctxs,
    .ofReg .rcv Reg.RCV_HELD]) : Only pt z (State.answerFault s d n act) := by
  obtain ⟨q0, q1, q2, -⟩ := hp
  unfold State.answerFault
  repeat' first
    | (with_reducible first | assumption | exact Allow.nil | apply Allow.cons | apply Only.ite
                            | apply Only.setCtx | apply Only.markFaulted | apply Only.setF)
    | refine Only.of_eq (by assumption) ?_ | split | dsimp only
    | (with_reducible apply Only.mk_same) <;> first | with_reducible exact .inr (by assumption) | with_reducible exact .inl rfl | exact .inl rfl | skip

theorem Only.dropAction (h : Only pt z s) (d : Die) (n : Nat) (hp : Allow pt [.dies, .ctxs, .recov]) : Only pt z
    (State.dropAction s d n) := by
  obtain ⟨q0, q1, q2, -⟩ := hp
  unfold State.dropAction
  repeat' first
    | (with_reducible first | assumption | exact Allow.nil | apply Allow.cons | apply Only.ite
                            | apply Only.setCtx | apply Only.markFaulted)
    | refine Only.of_eq (by assumption) ?_ | split | dsimp only
    | (with_reducible apply Only.mk_same) <;> first | with_reducible exact .inr (by assumption) | with_reducible exact .inl rfl | exact .inl rfl | skip

theorem Only.ctxFaultOn (h : Only pt z s) (n : Nat) (cause : Nat) (eng : Nat) (rc : Nat) (hold : Bool) (logged : Bool)
    (d : Die) (hg0 : Allow pt evtRegs) (hg1 : Allow pt ctxFaultRegs) (hp : Allow pt [.dies, .ctxs, .recov,
    .ofReg .eng Reg.ENG_CTX_STATE_STATE, .ofReg .rcv Reg.RCV_HELD]) : Only pt z (State.ctxFaultOn s n cause eng rc
    hold logged d) := by
  obtain ⟨g10, g11, g12, g13, -⟩ := id hg1
  obtain ⟨q0, q1, q2, q3, q4, -⟩ := hp
  unfold State.ctxFaultOn
  repeat' first
    | (with_reducible first | assumption | exact Allow.nil | apply Allow.cons | apply Only.ite
                            | apply Only.setCtxState | apply Only.setF | apply Only.setCtx | apply Only.log
                            | apply Only.dropAction | apply Only.answerFault | apply Only.raise)
    | refine Only.of_eq (by assumption) ?_ | split | dsimp only
    | (with_reducible apply Only.mk_same) <;> first | with_reducible exact .inr (by assumption) | with_reducible exact .inl rfl | exact .inl rfl | skip

theorem Only.ctxFault (h : Only pt z s) (n : Nat) (rc : Nat) (hg0 : Allow pt evtRegs) (hg1 : Allow pt ctxFaultRegs)
    (hp : Allow pt [.dies, .ctxs, .recov, .ofReg .eng Reg.ENG_CTX_STATE_STATE, .ofReg .rcv Reg.RCV_HELD]) : Only pt z
    (State.ctxFault s n rc) := by
  obtain ⟨q0, q1, q2, q3, q4, -⟩ := hp
  unfold State.ctxFault
  repeat' first
    | intro _
    | (with_reducible first | assumption | exact Allow.nil | apply Allow.cons | apply Only.foldl
                            | apply Only.ite | apply Only.ctxFaultOn)
    | refine Only.of_eq (by assumption) ?_ | split | dsimp only

theorem Only.setLink (h : Only pt z s) (e : LinkEnd) (l : LinkSt) (hp : Allow pt [.links]) : Only pt z (State.setLink
    s e l) := by
  obtain ⟨q0, -⟩ := hp
  unfold State.setLink
  repeat' first
    | (with_reducible first | assumption | exact Allow.nil | apply Allow.cons | apply Only.ite)
    | refine Only.of_eq (by assumption) ?_ | split | dsimp only
    | (with_reducible apply Only.mk_same) <;> first | with_reducible exact .inr (by assumption) | with_reducible exact .inl rfl | exact .inl rfl | skip

theorem Only.setBun (h : Only pt z s) (e : LinkEnd) (b : Nat) (x : BundleSt) (hp : Allow pt [.links]) : Only pt z
    (State.setBun s e b x) := by
  obtain ⟨q0, -⟩ := hp
  unfold State.setBun
  repeat' first
    | (with_reducible first | assumption | exact Allow.nil | apply Allow.cons | apply Only.ite
                            | apply Only.setLink)
    | refine Only.of_eq (by assumption) ?_ | split | dsimp only

theorem Only.setLf (h : Only pt z s) (e : LinkEnd) (fi : Fld) (ft : Fld) (v : Nat) (k : Nat) (hp : Allow pt
    [.ofReg .ikl fi, .ofReg .trayPort ft]) :
    Only pt z (s.setLf e fi ft v k) := by
  obtain ⟨q0, q1, -⟩ := hp
  unfold State.setLf
  cases e <;> simp only [leBlk, isTray, if_true, Bool.false_eq_true, if_false]
  · with_reducible exact h.setF _ _ _ _ _ _ (Allow.cons (by assumption) Allow.nil)
  · with_reducible exact h.setF _ _ _ _ _ _ (Allow.cons (by assumption) Allow.nil)

theorem Only.bumpLf (h : Only pt z s) (e : LinkEnd) (fi : Fld) (ft : Fld) (k : Nat) (hp : Allow pt [.ofReg .ikl fi,
    .ofReg .trayPort ft]) :
    Only pt z (s.bumpLf e fi ft k) := by
  obtain ⟨q0, q1, -⟩ := hp
  unfold State.bumpLf
  cases e <;> simp only [leBlk, isTray, if_true, Bool.false_eq_true, if_false]
  · with_reducible exact h.bumpF _ _ _ _ _ (Allow.cons (by assumption) Allow.nil)
  · with_reducible exact h.bumpF _ _ _ _ _ (Allow.cons (by assumption) Allow.nil)

theorem Only.logLink (h : Only pt z s) (e : LinkEnd) (rc : Nat) (detail : List Byte) (ctx : Nat) (hg0 : Allow pt
    evtRegs) (hp : Allow pt [.dies]) : Only pt z (State.logLink s e rc detail ctx) := by
  obtain ⟨q0, -⟩ := hp
  unfold State.logLink
  repeat' first
    | (with_reducible first | assumption | exact Allow.nil | apply Allow.cons | apply Only.ite | apply Only.log)
    | refine Only.of_eq (by assumption) ?_ | split | dsimp only

theorem Only.toSt (h : Only pt z s) (e : LinkEnd) (st : Nat) (hg0 : Allow pt evtRegs) (hg1 : Allow pt trainRegs) (hp :
    Allow pt [.links]) : Only pt z (State.toSt s e st) := by
  obtain ⟨g10, g11, g12, g13, -⟩ := id hg1
  obtain ⟨q0, -⟩ := hp
  unfold State.toSt
  repeat' first
    | (with_reducible first | assumption | exact Allow.nil | apply Allow.cons | apply Only.ite
                            | apply Only.setLf | apply Only.setLink | apply Only.setF | apply Only.raise)
    | refine Only.of_eq (by assumption) ?_ | split | dsimp only
    | (with_reducible apply Only.mk_same) <;> first | with_reducible exact .inr (by assumption) | with_reducible exact .inl rfl | exact .inl rfl | skip

theorem Only.setRxMap (h : Only pt z s) (e : LinkEnd) (b : Nat) (m : LaneMap) (hp : Allow pt
    [.ofReg .ikl Reg.IKL_BADMASK_BAD, .ofReg .ikl Reg.IKL_LANEMAP_J0_BAD, .ofReg .ikl Reg.IKL_LANEMAP_J0_TGT,
    .ofReg .ikl Reg.IKL_LANEMAP_J1_BAD, .ofReg .ikl Reg.IKL_LANEMAP_J1_TGT, .ofReg .ikl Reg.IKL_LANEMAP_RETIRED,
    .ofReg .trayPort Reg.TRYP_LANEMAP_RETIRED, .ofReg .trayPort Reg.TRYP_LANEMAP_SPARE_BAD,
    .ofReg .trayPort Reg.TRYP_LANEMAP_SPARE_TGT]) : Only pt z (State.setRxMap s e b m) := by
  obtain ⟨q0, q1, q2, q3, q4, q5, q6, q7, q8, -⟩ := hp
  unfold State.setRxMap
  repeat' first
    | (with_reducible first | assumption | exact Allow.nil | apply Allow.cons | apply Only.ite
                            | apply Only.setLf | apply Only.setF)
    | refine Only.of_eq (by assumption) ?_ | split | dsimp only

theorem Only.setRetired (h : Only pt z s) (e : LinkEnd) (b : Nat) (v : Bool) (hg0 : Allow pt laneMapRegs) : Only pt z
    (State.setRetired s e b v) := by
  obtain ⟨g00, g01, g02, g03, g04, g05, g06, g07, g08, g09, -⟩ := id hg0
  unfold State.setRetired
  repeat' first
    | (with_reducible first | assumption | exact Allow.nil | apply Allow.cons | apply Only.ite
                            | apply Only.setRxMap | apply Only.setF)
    | refine Only.of_eq (by assumption) ?_ | split | dsimp only
    | (with_reducible apply Only.mk_same) <;> first | with_reducible exact .inr (by assumption) | with_reducible exact .inl rfl | exact .inl rfl | skip

theorem Only.setTxMap (h : Only pt z s) (e : LinkEnd) (b : Nat) (m : LaneMap) (hg0 : Allow pt laneMapTxRegs) : Only pt
    z (State.setTxMap s e b m) := by
  obtain ⟨g00, g01, g02, g03, g04, g05, g06, g07, -⟩ := id hg0
  unfold State.setTxMap
  repeat' first
    | (with_reducible first | assumption | exact Allow.nil | apply Allow.cons | apply Only.ite
                            | apply Only.setLf | apply Only.setF)
    | refine Only.of_eq (by assumption) ?_ | split | dsimp only

theorem Only.loadFuseMaps (h : Only pt z s) (e : LinkEnd) (hg0 : Allow pt laneMapTxRegs) (hp : Allow pt
    [.ofReg .ikl Reg.IKL_BADMASK_BAD, .ofReg .ikl Reg.IKL_LANEMAP_J0_BAD, .ofReg .ikl Reg.IKL_LANEMAP_J0_TGT,
    .ofReg .ikl Reg.IKL_LANEMAP_J1_BAD, .ofReg .ikl Reg.IKL_LANEMAP_J1_TGT, .ofReg .ikl Reg.IKL_LANEMAP_RETIRED,
    .ofReg .trayPort Reg.TRYP_LANEMAP_RETIRED, .ofReg .trayPort Reg.TRYP_LANEMAP_SPARE_BAD,
    .ofReg .trayPort Reg.TRYP_LANEMAP_SPARE_TGT]) : Only pt z (State.loadFuseMaps s e) := by
  obtain ⟨q0, q1, q2, q3, q4, q5, q6, q7, q8, -⟩ := hp
  unfold State.loadFuseMaps
  repeat' first
    | intro _
    | (with_reducible first | assumption | exact Allow.nil | apply Allow.cons | apply Only.foldl
                            | apply Only.ite | apply Only.setRxMap | apply Only.setTxMap)
    | refine Only.of_eq (by assumption) ?_ | split | dsimp only

theorem Only.sbSend (h : Only pt z s) (e : LinkEnd) (mtype : Nat) (body : Nat) (aux : Nat) (copies : Nat) (hp : Allow
    pt [.links]) : Only pt z (State.sbSend s e mtype body aux copies) := by
  obtain ⟨q0, -⟩ := hp
  unfold State.sbSend
  repeat' first
    | (with_reducible first | assumption | exact Allow.nil | apply Allow.cons | apply Only.ite
                            | apply Only.setLink)
    | refine Only.of_eq (by assumption) ?_ | split | dsimp only
    | (with_reducible apply Only.mk_same) <;> first | with_reducible exact .inr (by assumption) | with_reducible exact .inl rfl | exact .inl rfl | skip

theorem Only.sbTake (h : Only pt z s) (e : LinkEnd) (mtype : Nat) (mseq : Nat) (hp : Allow pt [.links]) : Only pt z
    (State.sbTake s e mtype mseq).2 := by
  obtain ⟨q0, -⟩ := hp
  unfold State.sbTake
  repeat' first
    | (with_reducible first | assumption | exact Allow.nil | apply Allow.cons | apply Only.ite
                            | apply Only.ite_snd | apply Only.setLink | apply Only.sbSend)
    | refine Only.of_eq (by assumption) ?_ | split | dsimp only
    | (with_reducible apply Only.mk_same) <;> first | with_reducible exact .inr (by assumption) | with_reducible exact .inl rfl | exact .inl rfl | skip

theorem Only.addLoss (h : Only pt z s) (d : Die) (link : Nat) (b : Nat) (decl : Nat) (joinAt : Nat) (hp : Allow pt
    [.dies, .ofReg .gtr Reg.GTR_STATUS_LATE]) : Only pt z (State.addLoss s d link b decl joinAt) := by
  obtain ⟨q0, q1, -⟩ := hp
  unfold State.addLoss
  repeat' first
    | (with_reducible first | assumption | exact Allow.nil | apply Allow.cons | apply Only.ite | apply Only.setF
                            | apply Only.setDie)
    | refine Only.of_eq (by assumption) ?_ | split | dsimp only
    | (with_reducible apply Only.mk_same) <;> first | with_reducible exact .inr (by assumption) | with_reducible exact .inl rfl | exact .inl rfl | skip

theorem Only.sendNotice (h : Only pt z s) (es : List LinkEnd) (payload : List Byte) (fwd : Bool) (hp : Allow pt
    [.links]) : Only pt z (State.sendNotice s es payload fwd) := by
  obtain ⟨q0, -⟩ := hp
  unfold State.sendNotice
  repeat' first
    | intro _
    | (with_reducible first | assumption | exact Allow.nil | apply Allow.cons | apply Only.foldl
                            | apply Only.ite | apply Only.setLink)
    | refine Only.of_eq (by assumption) ?_ | split | dsimp only
    | (with_reducible apply Only.mk_same) <;> first | with_reducible exact .inr (by assumption) | with_reducible exact .inl rfl | exact .inl rfl | skip

theorem Only.declareLoss (h : Only pt z s) (e : LinkEnd) (b : Nat) (rc : Nat) (hp : Allow pt [.dies, .links,
    .ofReg .gtr Reg.GTR_STATUS_LATE]) : Only pt z (State.declareLoss s e b rc) := by
  obtain ⟨q0, q1, q2, -⟩ := hp
  unfold State.declareLoss
  repeat' first
    | (with_reducible first | assumption | exact Allow.nil | apply Allow.cons | apply Only.ite
                            | apply Only.addLoss | apply Only.sendNotice)
    | refine Only.of_eq (by assumption) ?_ | split | dsimp only

theorem Only.noteGone (h : Only pt z s) (e : LinkEnd) (bs : List Nat) (hp : Allow pt [.links]) : Only pt z
    (State.noteGone s e bs) := by
  obtain ⟨q0, -⟩ := hp
  unfold State.noteGone
  repeat' first
    | intro _
    | (with_reducible first | assumption | exact Allow.nil | apply Allow.cons | apply Only.foldl
                            | apply Only.ite | apply Only.setBun)
    | refine Only.of_eq (by assumption) ?_ | split | dsimp only
    | (with_reducible apply Only.mk_same) <;> first | with_reducible exact .inr (by assumption) | with_reducible exact .inl rfl | exact .inl rfl | skip

theorem Only.quiesce (h : Only pt z s) (e : LinkEnd) (leaving : List Nat) (hg0 : Allow pt quiesceRegs) (hp : Allow pt
    [.links]) : Only pt z (State.quiesce s e leaving) := by
  obtain ⟨g00, g01, -⟩ := id hg0
  obtain ⟨q0, -⟩ := hp
  unfold State.quiesce
  repeat' first
    | (with_reducible first | assumption | exact Allow.nil | apply Allow.cons | apply Only.ite
                            | apply Only.setLf | apply Only.setLink | apply Only.noteGone)
    | refine Only.of_eq (by assumption) ?_ | split | dsimp only
    | (with_reducible apply Only.mk_same) <;> first | with_reducible exact .inr (by assumption) | with_reducible exact .inl rfl | exact .inl rfl | skip

theorem Only.degrade (h : Only pt z s) (e : LinkEnd) (hg0 : Allow pt evtRegs) (hg1 : Allow pt trainRegs) (hp : Allow
    pt [.links]) : Only pt z (State.degrade s e) := by
  obtain ⟨q0, -⟩ := hp
  unfold State.degrade
  repeat' first
    | (with_reducible first | assumption | exact Allow.nil | apply Allow.cons | apply Only.ite
                            | apply Only.toSt)
    | refine Only.of_eq (by assumption) ?_ | split | dsimp only

theorem Only.markRetired (h : Only pt z s) (e : LinkEnd) (b : Nat) (hg0 : Allow pt evtRegs) (hg1 : Allow pt
    laneMapRegs) (hg2 : Allow pt laneMapTxRegs) (hg3 : Allow pt trainRegs) (hp : Allow pt [.links]) : Only pt z
    (State.markRetired s e b) := by
  obtain ⟨q0, -⟩ := hp
  unfold State.markRetired
  repeat' first
    | (with_reducible first | assumption | exact Allow.nil | apply Allow.cons | apply Only.ite
                            | apply Only.setRetired | apply Only.setBun | apply Only.setTxMap
                            | apply Only.degrade)
    | refine Only.of_eq (by assumption) ?_ | split | dsimp only
    | (with_reducible apply Only.mk_same) <;> first | with_reducible exact .inr (by assumption) | with_reducible exact .inl rfl | exact .inl rfl | skip

theorem Only.declareTrayLoss (h : Only pt z s) (n : Fin 8) (rc : Nat) (hp : Allow pt [.dies, .links,
    .ofReg .gtr Reg.GTR_STATUS_LATE]) : Only pt z (State.declareTrayLoss s n rc) := by
  obtain ⟨q0, q1, q2, -⟩ := hp
  unfold State.declareTrayLoss
  repeat' first
    | (with_reducible first | assumption | exact Allow.nil | apply Allow.cons | apply Only.ite
                            | apply Only.setDie | apply Only.addLoss | apply Only.sendNotice)
    | refine Only.of_eq (by assumption) ?_ | split | dsimp only
    | (with_reducible apply Only.mk_same) <;> first | with_reducible exact .inr (by assumption) | with_reducible exact .inl rfl | exact .inl rfl | skip

theorem Only.retireBundle (h : Only pt z s) (e : LinkEnd) (b : Nat) (rc : Nat) (keep : Bool) (hg0 : Allow pt evtRegs)
    (hg1 : Allow pt laneMapRegs) (hg2 : Allow pt laneMapTxRegs) (hg3 : Allow pt trainRegs) (hg4 : Allow pt
    quiesceRegs) (hp : Allow pt [.dies, .links, .ofReg .gtr Reg.GTR_STATUS_LATE]) : Only pt z (State.retireBundle s e
    b rc keep) := by
  obtain ⟨q0, q1, q2, -⟩ := hp
  unfold State.retireBundle
  repeat' first
    | (with_reducible first | assumption | exact Allow.nil | apply Allow.cons | apply Only.ite
                            | apply Only.logLink | apply Only.setRetired | apply Only.toSt | apply Only.setLink
                            | apply Only.declareTrayLoss | apply Only.declareLoss | apply Only.sbSend
                            | apply Only.quiesce | apply Only.setBun | apply Only.markRetired)
    | refine Only.of_eq (by assumption) ?_ | split | dsimp only
    | (with_reducible apply Only.mk_same) <;> first | with_reducible exact .inr (by assumption) | with_reducible exact .inl rfl | exact .inl rfl | skip

theorem Only.stopNext (h : Only pt z s) (e : LinkEnd) (b : Nat) (hp : Allow pt [.links]) : Only pt z (State.stopNext s
    e b) := by
  obtain ⟨q0, -⟩ := hp
  unfold State.stopNext
  repeat' first
    | (with_reducible first | assumption | exact Allow.nil | apply Allow.cons | apply Only.ite
                            | apply Only.setBun)
    | refine Only.of_eq (by assumption) ?_ | split | dsimp only
    | (with_reducible apply Only.mk_same) <;> first | with_reducible exact .inr (by assumption) | with_reducible exact .inl rfl | exact .inl rfl | skip

theorem Only.askFpReset (h : Only pt z s) (m : Mv) (f : Nat) (hp : Allow pt [.links]) : Only pt z (State.askFpReset s
    m f) := by
  obtain ⟨q0, -⟩ := hp
  unfold State.askFpReset
  repeat' first
    | (with_reducible first | assumption | exact Allow.nil | apply Allow.cons | apply Only.ite
                            | apply Only.sbSend)
    | refine Only.of_eq (by assumption) ?_ | split | dsimp only

theorem Only.retireAll (h : Only pt z s) (e : LinkEnd) (rc : Nat) (hg0 : Allow pt laneMapRegs) (hp : Allow pt [.dies,
    .links, .ofReg .gtr Reg.GTR_STATUS_LATE]) : Only pt z (State.retireAll s e rc) := by
  obtain ⟨q0, q1, q2, -⟩ := hp
  unfold State.retireAll
  repeat' first
    | intro _
    | (with_reducible first | assumption | exact Allow.nil | apply Allow.cons | apply Only.foldl
                            | apply Only.ite | apply Only.setRetired | apply Only.declareLoss
                            | apply Only.setBun)
    | refine Only.of_eq (by assumption) ?_ | split | dsimp only
    | (with_reducible apply Only.mk_same) <;> first | with_reducible exact .inr (by assumption) | with_reducible exact .inl rfl | exact .inl rfl | skip

theorem Only.endService (h : Only pt z s) (e : LinkEnd) (hg0 : Allow pt evtRegs) (hg1 : Allow pt laneMapRegs) (hg2 :
    Allow pt laneMapTxRegs) (hg3 : Allow pt trainRegs) (hp : Allow pt [.links]) : Only pt z (State.endService s e) :=
    by
  obtain ⟨q0, -⟩ := hp
  unfold State.endService
  repeat' first
    | intro _
    | (with_reducible first | assumption | exact Allow.nil | apply Allow.cons | apply Only.foldl
                            | apply Only.ite | apply Only.markRetired | apply Only.setLink)
    | refine Only.of_eq (by assumption) ?_ | split | dsimp only

theorem Only.linkReturn (h : Only pt z s) (e : LinkEnd) (rc : Nat) (counted : Bool) (ask : Bool) (hg0 : Allow pt
    evtRegs) (hg1 : Allow pt laneMapRegs) (hg2 : Allow pt laneMapTxRegs) (hg3 : Allow pt trainRegs) (hg4 : Allow pt
    attemptRegs) (hp : Allow pt [.dies, .links, .ofReg .gtr Reg.GTR_STATUS_LATE,
    .ofReg .trayPort Reg.TRYP_RETRY_LAST_RC]) : Only pt z (State.linkReturn s e rc counted ask) := by
  obtain ⟨g40, g41, -⟩ := id hg4
  obtain ⟨q0, q1, q2, q3, -⟩ := hp
  unfold State.linkReturn
  repeat' first
    | (with_reducible first | assumption | exact Allow.nil | apply Allow.cons | apply Only.ite
                            | apply Only.endService | apply Only.setLink | apply Only.logLink | apply Only.setF
                            | apply Only.toSt | apply Only.declareTrayLoss | apply Only.bumpF
                            | apply Only.askFpReset | apply Only.retireAll)
    | refine Only.of_eq (by assumption) ?_ | split | dsimp only
    | (with_reducible apply Only.mk_same) <;> first | with_reducible exact .inr (by assumption) | with_reducible exact .inl rfl | exact .inl rfl | skip

theorem Only.showLevel (h : Only pt z s)  (hp : Allow pt [.ofReg .rcv Reg.RCV_STATUS_LEVEL]) : Only pt z
    (State.showLevel s) := by
  obtain ⟨q0, -⟩ := hp
  unfold State.showLevel
  repeat' first
    | intro _
    | (with_reducible first | assumption | exact Allow.nil | apply Allow.cons | apply Only.foldl
                            | apply Only.ite | apply Only.setF)
    | refine Only.of_eq (by assumption) ?_ | split | dsimp only

theorem Only.noteLast (h : Only pt z s) (rc : Nat) (cause : Nat) (d : Die) (hg0 : Allow pt lastRegs) : Only pt z
    (State.noteLast s rc cause d) := by
  obtain ⟨g00, g01, g02, g03, g04, -⟩ := id hg0
  unfold State.noteLast
  repeat' first
    | (with_reducible first | assumption | exact Allow.nil | apply Allow.cons | apply Only.ite | apply Only.setF
                            | apply Only.set64)
    | refine Only.of_eq (by assumption) ?_ | split | dsimp only

theorem Only.powerCycle (h : Only pt z s) (cause : Nat) (hg0 : Allow pt evtRegs) (hg1 : Allow pt lastRegs) (hp : Allow
    pt [.dies, .pins, .ofReg .rcv Reg.RCV_STATUS_PWRCYC]) : Only pt z (State.powerCycle s cause) := by
  obtain ⟨q0, q1, q2, -⟩ := hp
  unfold State.powerCycle
  repeat' first
    | (with_reducible first | assumption | exact Allow.nil | apply Allow.cons | apply Only.ite | apply Only.log
                            | apply Only.noteLast | apply Only.setF)
    | refine Only.of_eq (by assumption) ?_ | split | dsimp only
    | (with_reducible apply Only.mk_same) <;> first | with_reducible exact .inr (by assumption) | with_reducible exact .inl rfl | exact .inl rfl | skip

theorem Only.setHistory (h : Only pt z s) (l : List Nat) (hg0 : Allow pt histRegs) : Only pt z (State.setHistory s l)
    := by
  obtain ⟨g00, g01, -⟩ := id hg0
  unfold State.setHistory
  repeat' first
    | intro _
    | (with_reducible first | assumption | exact Allow.nil | apply Allow.cons | apply Only.foldl
                            | apply Only.ite | apply Only.set64)
    | refine Only.of_eq (by assumption) ?_ | split | dsimp only

theorem Only.noteChip (h : Only pt z s)  (hg0 : Allow pt histRegs) : Only pt z (State.noteChip s) := by
  unfold State.noteChip
  repeat' first
    | (with_reducible first | assumption | exact Allow.nil | apply Allow.cons | apply Only.ite
                            | apply Only.setHistory)
    | refine Only.of_eq (by assumption) ?_ | split | dsimp only

theorem Only.tellMaster (h : Only pt z s) (level : Nat) (ready : Bool) (cause : Nat) (hp : Allow pt [.links]) : Only
    pt z (State.tellMaster s level ready cause) := by
  obtain ⟨q0, -⟩ := hp
  unfold State.tellMaster
  repeat' first
    | (with_reducible first | assumption | exact Allow.nil | apply Allow.cons | apply Only.ite
                            | apply Only.sbSend)
    | refine Only.of_eq (by assumption) ?_ | split | dsimp only
    | (with_reducible apply Only.mk_same) <;> first | with_reducible exact .inr (by assumption) | with_reducible exact .inl rfl | exact .inl rfl | skip

theorem Only.stopAllSc (h : Only pt z s)  (hp : Allow pt [.links]) : Only pt z (State.stopAllSc s) := by
  obtain ⟨q0, -⟩ := hp
  unfold State.stopAllSc
  repeat' first
    | intro _
    | (with_reducible first | assumption | exact Allow.nil | apply Allow.cons | apply Only.foldl
                            | apply Only.ite | apply Only.setLink)
    | refine Only.of_eq (by assumption) ?_ | split | dsimp only
    | (with_reducible apply Only.mk_same) <;> first | with_reducible exact .inr (by assumption) | with_reducible exact .inl rfl | exact .inl rfl | skip

theorem Only.sendOrder (h : Only pt z s) (cause : Nat) (hp : Allow pt [.links, .recov]) : Only pt z (State.sendOrder s
    cause) := by
  obtain ⟨q0, q1, -⟩ := hp
  unfold State.sendOrder
  repeat' first
    | intro _
    | (with_reducible first | assumption | exact Allow.nil | apply Allow.cons | apply Only.foldl
                            | apply Only.ite | apply Only.sbSend)
    | refine Only.of_eq (by assumption) ?_ | split | dsimp only
    | (with_reducible apply Only.mk_same) <;> first | with_reducible exact .inr (by assumption) | with_reducible exact .inl rfl | exact .inl rfl | skip

theorem Only.chipTray (h : Only pt z s) (cause : Nat) (hp : Allow pt [.links, .recov]) : Only pt z (State.chipTray s
    cause) := by
  obtain ⟨q0, q1, -⟩ := hp
  unfold State.chipTray
  repeat' first
    | (with_reducible first | assumption | exact Allow.nil | apply Allow.cons | apply Only.ite
                            | apply Only.stopAllSc | apply Only.tellMaster | apply Only.sendOrder)
    | refine Only.of_eq (by assumption) ?_ | split | dsimp only

theorem Only.trigger (h : Only pt z s) (lvl : Nat) (cause : Nat) (d : Die) (eng : Nat) (rc : Nat) (origin : Nat) (hg0
    : Allow pt evtRegs) (hg1 : Allow pt lastRegs) (hg2 : Allow pt histRegs) (hp : Allow pt [.dies, .links, .rcv,
    .recov, .ofReg .rcv Reg.RCV_STATUS_LEVEL]) : Only pt z (State.trigger s lvl cause d eng rc origin) := by
  obtain ⟨q0, q1, q2, q3, q4, -⟩ := hp
  unfold State.trigger
  repeat' first
    | intro _
    | (with_reducible first | assumption | exact Allow.nil | apply Allow.cons | apply Only.foldl
                            | apply Only.ite | apply Only.log | apply Only.noteLast | apply Only.setDom
                            | apply Only.showLevel | apply Only.noteChip | apply Only.stopAllSc
                            | apply Only.chipTray)
    | refine Only.of_eq (by assumption) ?_ | split | dsimp only
    | (with_reducible apply Only.mk_same) <;> first | with_reducible exact .inr (by assumption) | with_reducible exact .inl rfl | exact .inl rfl | skip

theorem Only.setPhase (h : Only pt z s) (p : Nat) (hp : Allow pt [.ofReg .boot Reg.BOOT_STATUS_PHASE]) : Only pt z
    (State.setPhase s p) := by
  obtain ⟨q0, -⟩ := hp
  unfold State.setPhase
  repeat' first
    | (with_reducible first | assumption | exact Allow.nil | apply Allow.cons | apply Only.ite
                            | apply Only.setF)
    | refine Only.of_eq (by assumption) ?_ | split | dsimp only

theorem Only.endStep (h : Only pt z s) (k : Nat) (hp : Allow pt [.ofReg .boot Reg.BOOT_STEP]) : Only pt z
    (State.endStep s k) := by
  obtain ⟨q0, -⟩ := hp
  unfold State.endStep
  repeat' first
    | (with_reducible first | assumption | exact Allow.nil | apply Allow.cons | apply Only.ite
                            | apply Only.setF)
    | refine Only.of_eq (by assumption) ?_ | split | dsimp only

theorem Only.nextDomain (h : Only pt z s)  (hp : Allow pt [.boot]) : Only pt z (State.nextDomain s) := by
  obtain ⟨q0, -⟩ := hp
  unfold State.nextDomain
  repeat' first
    | (with_reducible first | assumption | exact Allow.nil | apply Allow.cons | apply Only.ite)
    | refine Only.of_eq (by assumption) ?_ | split | dsimp only
    | (with_reducible apply Only.mk_same) <;> first | with_reducible exact .inr (by assumption) | with_reducible exact .inl rfl | exact .inl rfl | skip

theorem Only.bootAdvance (h : Only pt z s)  (hp : Allow pt [.boot, .ofReg .boot Reg.BOOT_STATUS_PHASE,
    .ofReg .boot Reg.BOOT_STEP]) : Only pt z (State.bootAdvance s) := by
  obtain ⟨q0, q1, q2, -⟩ := hp
  unfold State.bootAdvance
  repeat' first
    | (with_reducible first | assumption | exact Allow.nil | apply Allow.cons | apply Only.ite
                            | apply Only.endStep | apply Only.setPhase)
    | refine Only.of_eq (by assumption) ?_ | split | dsimp only
    | (with_reducible apply Only.mk_same) <;> first | with_reducible exact .inr (by assumption) | with_reducible exact .inl rfl | exact .inl rfl | skip

theorem Only.pickSyncPort (h : Only pt z s)  (hp : Allow pt [.sync, .ofReg .bal Reg.BAL_REF_ACTIVE_PORT,
    .ofReg .bal Reg.BAL_REF_PORT_VALID]) : Only pt z (State.pickSyncPort s) := by
  obtain ⟨q0, q1, q2, -⟩ := hp
  unfold State.pickSyncPort
  repeat' first
    | (with_reducible first | assumption | exact Allow.nil | apply Allow.cons | apply Only.ite
                            | apply Only.setF)
    | refine Only.of_eq (by assumption) ?_ | split | dsimp only
    | (with_reducible apply Only.mk_same) <;> first | with_reducible exact .inr (by assumption) | with_reducible exact .inl rfl | exact .inl rfl | skip

theorem Only.stopTraySc (h : Only pt z s)  (hp : Allow pt [.links]) : Only pt z (State.stopTraySc s) := by
  obtain ⟨q0, -⟩ := hp
  unfold State.stopTraySc
  repeat' first
    | intro _
    | (with_reducible first | assumption | exact Allow.nil | apply Allow.cons | apply Only.foldl
                            | apply Only.ite | apply Only.setLink)
    | refine Only.of_eq (by assumption) ?_ | split | dsimp only
    | (with_reducible apply Only.mk_same) <;> first | with_reducible exact .inr (by assumption) | with_reducible exact .inl rfl | exact .inl rfl | skip

theorem Only.syncLost (h : Only pt z s)  (hg0 : Allow pt evtRegs) (hg1 : Allow pt lastRegs) (hg2 : Allow pt histRegs)
    (hp : Allow pt [.dies, .links, .rcv, .recov, .ofReg .bal Reg.BAL_STATUS_SYNC_LOST,
    .ofReg .rcv Reg.RCV_STATUS_LEVEL]) : Only pt z (State.syncLost s) := by
  obtain ⟨q0, q1, q2, q3, q4, q5, -⟩ := hp
  unfold State.syncLost
  repeat' first
    | (with_reducible first | assumption | exact Allow.nil | apply Allow.cons | apply Only.ite | apply Only.setF
                            | apply Only.stopTraySc | apply Only.trigger)
    | refine Only.of_eq (by assumption) ?_ | split | dsimp only

theorem Only.setCr0Map (h : Only pt z s) (m : Nat × Nat × Nat) (hg0 : Allow pt anchorRegs) (hp : Allow pt [.ldg]) :
    Only pt z (State.setCr0Map s m) := by
  obtain ⟨g00, g01, g02, g03, g04, -⟩ := id hg0
  obtain ⟨q0, -⟩ := hp
  unfold State.setCr0Map
  repeat' first
    | (with_reducible first | assumption | exact Allow.nil | apply Allow.cons | apply Only.ite
                            | apply Only.set64 | apply Only.setF)
    | refine Only.of_eq (by assumption) ?_ | split | dsimp only
    | (with_reducible apply Only.mk_same) <;> first | with_reducible exact .inr (by assumption) | with_reducible exact .inl rfl | exact .inl rfl | skip

theorem Only.setTaiFlags (h : Only pt z s) (d : Die) (valid : Bool) (hold : Bool) (hg0 : Allow pt evtRegs) (hp : Allow
    pt [.dies, .ofReg .bal Reg.BAL_STATUS_HOLDOVER, .ofReg .bal Reg.BAL_STATUS_TAI_VALID,
    .ofReg .ldg Reg.LDG_STATUS_HOLDOVER]) : Only pt z (State.setTaiFlags s d valid hold) := by
  obtain ⟨q0, q1, q2, q3, -⟩ := hp
  unfold State.setTaiFlags
  repeat' first
    | (with_reducible first | assumption | exact Allow.nil | apply Allow.cons | apply Only.ite | apply Only.setF
                            | apply Only.setDie | apply Only.raise)
    | refine Only.of_eq (by assumption) ?_ | split | dsimp only
    | (with_reducible apply Only.mk_same) <;> first | with_reducible exact .inr (by assumption) | with_reducible exact .inl rfl | exact .inl rfl | skip

theorem Only.putRd (h : Only pt z s) (p : Path) (v : Nat) (hp : Allow pt [.rdData]) : Only pt z (State.putRd s p v) :=
    by
  obtain ⟨q0, -⟩ := hp
  unfold State.putRd
  repeat' first
    | (with_reducible first | assumption | exact Allow.nil | apply Allow.cons | apply Only.ite)
    | refine Only.of_eq (by assumption) ?_ | split | dsimp only
    | (with_reducible apply Only.mk_same) <;> first | with_reducible exact .inr (by assumption) | with_reducible exact .inl rfl | exact .inl rfl | skip

theorem Only.deadRead (h : Only pt z s) (p : Path) (d : Die) (b : Blk) (hp : Allow pt
    [.ofReg .pci Reg.PCI_ERR_MS_UNREACH]) {a : Nat × State} (e : s.deadRead p d b = some a) :
    Only pt z a.2 := by
  have g : ∀ (c : Prop) [Decidable c] (o q : Option (Nat × State)), (∀ x, o = some x → Only pt z x.2) →
      (∀ x, q = some x → Only pt z x.2) → ∀ x, (if c then o else q) = some x → Only pt z x.2 := by
    intro c _ o q ho hq x hx
    split at hx
    · exact ho x hx
    · exact hq x hx
  refine g _ _ _ (fun x hx => ?_) (g _ _ _ (fun x hx => ?_) (g _ _ _ (fun x hx => ?_) (fun x hx => by cases hx))) a e
  · injection hx with hx; rw [← hx]; exact h
  · injection hx with hx
    rw [← hx]
    dsimp only
    split
    · exact h.bumpF _ _ _ _ _ (by assumption)
    · exact h
  · injection hx with hx; rw [← hx]; exact h

theorem Only.deadRead_getD (h : Only pt z s) (p : Path) (d : Die) (b : Blk) {r : Nat × State} (hr : Only pt z r.2) (hp
    : Allow pt [.ofReg .pci Reg.PCI_ERR_MS_UNREACH]) :
    Only pt z ((s.deadRead p d b).getD r).2 := by
  cases e : s.deadRead p d b with
  | none => exact hr
  | some a => exact h.deadRead p d b (by assumption) e

theorem Only.readBeatLo (h : Only pt z s) (p : Path) (d : Die) (hp : Allow pt [.beatHi]) : Only pt z (State.readBeatLo
    s p d).2 := by
  obtain ⟨q0, -⟩ := hp
  unfold State.readBeatLo
  repeat' first
    | (with_reducible first | assumption | exact Allow.nil | apply Allow.cons | apply Only.ite
                            | apply Only.ite_snd)
    | refine Only.of_eq (by assumption) ?_ | split | dsimp only
    | (with_reducible apply Only.mk_same) <;> first | with_reducible exact .inr (by assumption) | with_reducible exact .inl rfl | exact .inl rfl | skip

theorem Only.applyLoad (h : Only pt z s) (d : Die) (value : Nat) (frac : Int) (hp : Allow pt [.dies, .boot,
    .ofReg .bal Reg.BAL_LOADS, .ofReg .bal Reg.BAL_LOAD_DELTA_HI_DELTA, .ofReg .bal Reg.BAL_LOAD_DELTA_LO_DELTA,
    .ofReg .bal Reg.BAL_STATUS_BEAT_VALID, .ofReg .boot Reg.BOOT_STATUS_PHASE, .ofReg .boot Reg.BOOT_STEP]) : Only pt
    z (State.applyLoad s d value frac) := by
  obtain ⟨q0, q1, q2, q3, q4, q5, q6, q7, -⟩ := hp
  unfold State.applyLoad
  repeat' first
    | (with_reducible first | assumption | exact Allow.nil | apply Allow.cons | apply Only.ite
                            | apply Only.setDie | apply Only.set64 | apply Only.setF | apply Only.nextDomain
                            | apply Only.bootAdvance)
    | refine Only.of_eq (by assumption) ?_ | split | dsimp only
    | (with_reducible apply Only.mk_same) <;> first | with_reducible exact .inr (by assumption) | with_reducible exact .inl rfl | exact .inl rfl | skip

theorem Only.phaseStep (h : Only pt z s) (err : Int) (hg0 : Allow pt evtRegs) (hg1 : Allow pt lastRegs) (hg2 : Allow
    pt histRegs) (hp : Allow pt [.dies, .links, .rcv, .recov, .ofReg .bal Reg.BAL_REF_PHASE_ERR,
    .ofReg .bal Reg.BAL_STATUS_SYNC_LOST, .ofReg .rcv Reg.RCV_STATUS_LEVEL]) : Only pt z (State.phaseStep s err) := by
  obtain ⟨q0, q1, q2, q3, q4, q5, q6, -⟩ := hp
  unfold State.phaseStep
  repeat' first
    | intro _
    | (with_reducible first | assumption | exact Allow.nil | apply Allow.cons | apply Only.foldl
                            | apply Only.ite | apply Only.setF | apply Only.setDie | apply Only.syncLost)
    | refine Only.of_eq (by assumption) ?_ | split | dsimp only
    | (with_reducible apply Only.mk_same) <;> first | with_reducible exact .inr (by assumption) | with_reducible exact .inl rfl | exact .inl rfl | skip

theorem Only.crossed (h : Only pt z s) (d : Die) (kind : Nat) (blk : Nat) (inst : Nat) (hp : Allow pt [.dies]) : Only
    pt z (State.crossed s d kind blk inst) := by
  obtain ⟨q0, -⟩ := hp
  unfold State.crossed
  repeat' first
    | (with_reducible first | assumption | exact Allow.nil | apply Allow.cons | apply Only.ite
                            | apply Only.setDie)
    | refine Only.of_eq (by assumption) ?_ | split | dsimp only
    | (with_reducible apply Only.mk_same) <;> first | with_reducible exact .inr (by assumption) | with_reducible exact .inl rfl | exact .inl rfl | skip

theorem Only.setTap (h : Only pt z s) (e : LinkEnd) (b : Nat) (c : Nat) (f : Fld) (v : Nat) (hp : Allow pt
    [.ofReg .ikl f]) : Only pt z (State.setTap s e b c f v) := by
  obtain ⟨q0, -⟩ := hp
  unfold State.setTap
  repeat' first
    | (with_reducible first | assumption | exact Allow.nil | apply Allow.cons | apply Only.ite
                            | apply Only.setF)
    | refine Only.of_eq (by assumption) ?_ | split | dsimp only

theorem Only.setEye (h : Only pt z s) (e : LinkEnd) (b : Nat) (c : Nat) (w : Bool) (n : Nat) (hp : Allow pt
    [.ofReg .ikl Reg.IKL_EYE_EYE_H, .ofReg .ikl Reg.IKL_EYE_EYE_W]) : Only pt z (State.setEye s e b c w n) := by
  obtain ⟨q0, q1, -⟩ := hp
  unfold State.setEye
  repeat' first
    | (with_reducible first | assumption | exact Allow.nil | apply Allow.cons | apply Only.ite
                            | apply Only.setTap)
    | refine Only.of_eq (by assumption) ?_ | split | dsimp only

theorem Only.endFull (h : Only pt z s) (e : LinkEnd) (b : Nat) (kind : Nat) (h : List (Nat × Nat)) (c : Nat) (hg0 :
    Allow pt coefRegs) (hp : Allow pt [.ofReg .ikl Reg.IKL_COEF_DELAY, .ofReg .ikl Reg.IKL_COEF_THRESH,
    .ofReg .ikl Reg.IKL_EYE_EYE_H, .ofReg .ikl Reg.IKL_EYE_EYE_W]) : Only pt z (State.endFull s e b kind h c) := by
  obtain ⟨g00, g01, g02, -⟩ := id hg0
  obtain ⟨q0, q1, q2, q3, -⟩ := hp
  unfold State.endFull
  repeat' first
    | intro _
    | (with_reducible first | assumption | exact Allow.nil | apply Allow.cons | apply Only.foldl
                            | apply Only.ite | apply Only.setTap | apply Only.setEye)
    | refine Only.of_eq (by assumption) ?_ | split | dsimp only
    | (with_reducible apply Only.mk_same) <;> first | with_reducible exact .inr (by assumption) | with_reducible exact .inl rfl | exact .inl rfl | skip

theorem Only.endSeed (h : Only pt z s) (e : LinkEnd) (b kind : Nat) (hist : List (Nat × Nat)) (recentre : Bool) (c :
    Nat) (hg0 : Allow pt coefRegs) (hp : Allow pt [.ofReg .ikl Reg.IKL_COEF_DELAY, .ofReg .ikl Reg.IKL_COEF_THRESH,
    .ofReg .ikl Reg.IKL_EYE_EYE_H, .ofReg .ikl Reg.IKL_EYE_EYE_W, .ofReg .ikl Reg.IKL_EYE_LB]) :
    Only pt z (s.endSeed e b kind hist recentre c).2 := by
  obtain ⟨g00, g01, g02, -⟩ := id hg0
  obtain ⟨q0, q1, q2, q3, q4, -⟩ := hp
  have tap : pt (.ofReg .ikl (tapOf kind)) = true := by
    unfold tapOf
    split <;> assumption
  unfold State.endSeed
  repeat' first
    | (with_reducible first | assumption | exact Allow.nil | apply Allow.cons | apply Only.ite
                            | apply Only.ite_snd | apply Only.setEye | apply Only.setTap)
    | dsimp only | split

theorem Only.beginFull (h : Only pt z s) (e : LinkEnd) (b : Nat) (fell : Bool) (hg0 : Allow pt coefRegs) (hp : Allow
    pt [.links, .ofReg .ikl Reg.IKL_COEF_DELAY, .ofReg .ikl Reg.IKL_COEF_THRESH, .ofReg .ikl Reg.IKL_COEF_VALID,
    .ofReg .ikl Reg.IKL_EYE_LB]) : Only pt z (State.beginFull s e b fell) := by
  obtain ⟨g00, g01, g02, -⟩ := id hg0
  obtain ⟨q0, q1, q2, q3, q4, -⟩ := hp
  unfold State.beginFull
  repeat' first
    | intro _
    | (with_reducible first | assumption | exact Allow.nil | apply Allow.cons | apply Only.foldl
                            | apply Only.ite | apply Only.setTap | apply Only.setBun)
    | refine Only.of_eq (by assumption) ?_ | split | dsimp only
    | (with_reducible apply Only.mk_same) <;> first | with_reducible exact .inr (by assumption) | with_reducible exact .inl rfl | exact .inl rfl | skip

theorem Only.putSeed (h : Only pt z s) (e : LinkEnd) (b : Nat) (r : SeedRec) (hg0 : Allow pt coefRegs) (hp : Allow pt
    [.ofReg .ikl Reg.IKL_COEF_DELAY, .ofReg .ikl Reg.IKL_COEF_THRESH]) : Only pt z (State.putSeed s e b r) := by
  obtain ⟨g00, g01, g02, -⟩ := id hg0
  obtain ⟨q0, q1, -⟩ := hp
  unfold State.putSeed
  repeat' first
    | intro _
    | (with_reducible first | assumption | exact Allow.nil | apply Allow.cons | apply Only.foldl
                            | apply Only.ite | apply Only.setTap)
    | refine Only.of_eq (by assumption) ?_ | split | dsimp only

theorem Only.beginCal (h : Only pt z s) (e : LinkEnd) (b : Nat) (hg0 : Allow pt evtRegs) (hg1 : Allow pt coefRegs) (hp
    : Allow pt [.dies, .links, .ofReg .ikl Reg.IKL_COEF_DELAY, .ofReg .ikl Reg.IKL_COEF_THRESH,
    .ofReg .ikl Reg.IKL_COEF_VALID, .ofReg .ikl Reg.IKL_EYE_LB]) : Only pt z (State.beginCal s e b) := by
  obtain ⟨q0, q1, q2, q3, q4, q5, -⟩ := hp
  unfold State.beginCal
  repeat' first
    | (with_reducible first | assumption | exact Allow.nil | apply Allow.cons | apply Only.ite
                            | apply Only.setBun | apply Only.beginFull | apply Only.logLink
                            | apply Only.putSeed)
    | refine Only.of_eq (by assumption) ?_ | split | dsimp only
    | (with_reducible apply Only.mk_same) <;> first | with_reducible exact .inr (by assumption) | with_reducible exact .inl rfl | exact .inl rfl | skip

theorem Only.measureZref (h : Only pt z s) (e : LinkEnd) (hp : Allow pt [.free,
    .ofReg .cfg Reg.CFG_PAD_STATUS_ZREF_BAD]) : Only pt z (State.measureZref s e) := by
  obtain ⟨q0, q1, -⟩ := hp
  unfold State.measureZref
  repeat' first
    | (with_reducible first | assumption | exact Allow.nil | apply Allow.cons | apply Only.ite | apply Only.draw
                            | apply Only.setF)
    | refine Only.of_eq (by assumption) ?_ | split | dsimp only

theorem Only.enterCalib (h : Only pt z s) (e : LinkEnd) (hg0 : Allow pt evtRegs) (hg1 : Allow pt trainRegs) (hg2 :
    Allow pt coefRegs) (hp : Allow pt [.free, .dies, .links, .ofReg .cfg Reg.CFG_PAD_STATUS_ZREF_BAD,
    .ofReg .ikl Reg.IKL_CAL_STATUS_DONE, .ofReg .ikl Reg.IKL_COEF_DELAY, .ofReg .ikl Reg.IKL_COEF_THRESH,
    .ofReg .ikl Reg.IKL_COEF_VALID, .ofReg .ikl Reg.IKL_EYE_LB]) : Only pt z (State.enterCalib s e) := by
  obtain ⟨q0, q1, q2, q3, q4, q5, q6, q7, q8, -⟩ := hp
  unfold State.enterCalib
  repeat' first
    | intro _
    | (with_reducible first | assumption | exact Allow.nil | apply Allow.cons | apply Only.foldl
                            | apply Only.ite | apply Only.setF | apply Only.measureZref | apply Only.setLink
                            | apply Only.toSt | apply Only.beginCal)
    | refine Only.of_eq (by assumption) ?_ | split | dsimp only
    | (with_reducible apply Only.mk_same) <;> first | with_reducible exact .inr (by assumption) | with_reducible exact .inl rfl | exact .inl rfl | skip

theorem Only.fpFree (h : Only pt z s) (e : LinkEnd) (hg0 : Allow pt evtRegs) (hg1 : Allow pt trainRegs) (hg2 : Allow
    pt coefRegs) (hp : Allow pt [.free, .dies, .links, .ofReg .cfg Reg.CFG_PAD_STATUS_ZREF_BAD,
    .ofReg .ikl Reg.IKL_CAL_STATUS_DONE, .ofReg .ikl Reg.IKL_COEF_DELAY, .ofReg .ikl Reg.IKL_COEF_THRESH,
    .ofReg .ikl Reg.IKL_COEF_VALID, .ofReg .ikl Reg.IKL_EYE_LB]) : Only pt z (State.fpFree s e) := by
  obtain ⟨q0, q1, q2, q3, q4, q5, q6, q7, q8, -⟩ := hp
  unfold State.fpFree
  repeat' first
    | (with_reducible first | assumption | exact Allow.nil | apply Allow.cons | apply Only.ite
                            | apply Only.enterCalib | apply Only.setLink)
    | refine Only.of_eq (by assumption) ?_ | split | dsimp only
    | (with_reducible apply Only.mk_same) <;> first | with_reducible exact .inr (by assumption) | with_reducible exact .inl rfl | exact .inl rfl | skip

theorem Only.eyeSummary (h : Only pt z s) (e : LinkEnd) (b : Nat) (hp : Allow pt [.ofReg .ikl Reg.IKL_EYE_SUM_MIN_H,
    .ofReg .ikl Reg.IKL_EYE_SUM_MIN_W, .ofReg .ikl Reg.IKL_EYE_SUM_WORST]) : Only pt z (State.eyeSummary s e b) := by
  obtain ⟨q0, q1, q2, -⟩ := hp
  unfold State.eyeSummary
  repeat' first
    | intro _
    | (with_reducible first | assumption | exact Allow.nil | apply Allow.cons | apply Only.foldl
                            | apply Only.ite | apply Only.setF)
    | refine Only.of_eq (by assumption) ?_ | split | dsimp only

theorem Only.searchDone (h : Only pt z s) (e : LinkEnd) (b : Nat) (x : SearchSt) (hg0 : Allow pt evtRegs) (hp : Allow
    pt [.dies, .links, .ofReg .ikl Reg.IKL_COEF_VALID, .ofReg .ikl Reg.IKL_EYE_FLOOR_FAIL,
    .ofReg .ikl Reg.IKL_EYE_SUM_MIN_H, .ofReg .ikl Reg.IKL_EYE_SUM_MIN_W, .ofReg .ikl Reg.IKL_EYE_SUM_WORST]) : Only
    pt z (State.searchDone s e b x) := by
  obtain ⟨q0, q1, q2, q3, q4, q5, q6, -⟩ := hp
  unfold State.searchDone
  repeat' first
    | intro _
    | (with_reducible first | assumption | exact Allow.nil | apply Allow.cons | apply Only.foldl
                            | apply Only.ite | apply Only.setTap | apply Only.logLink | apply Only.eyeSummary
                            | apply Only.setBun)
    | refine Only.of_eq (by assumption) ?_ | split | dsimp only
    | (with_reducible apply Only.mk_same) <;> first | with_reducible exact .inr (by assumption) | with_reducible exact .inl rfl | exact .inl rfl | skip

theorem Only.startTests (h : Only pt z s) (e : LinkEnd) (hp : Allow pt [.links]) : Only pt z (State.startTests s e) :=
    by
  obtain ⟨q0, -⟩ := hp
  unfold State.startTests
  repeat' first
    | intro _
    | (with_reducible first | assumption | exact Allow.nil | apply Allow.cons | apply Only.foldl
                            | apply Only.ite | apply Only.setBun)
    | refine Only.of_eq (by assumption) ?_ | split | dsimp only
    | (with_reducible apply Only.mk_same) <;> first | with_reducible exact .inr (by assumption) | with_reducible exact .inl rfl | exact .inl rfl | skip

theorem Only.afterSearch (h : Only pt z s) (e : LinkEnd) (hg0 : Allow pt evtRegs) (hg1 : Allow pt trainRegs) (hp :
    Allow pt [.links, .ofReg .ikl Reg.IKL_CAL_STATUS_MODE]) : Only pt z (State.afterSearch s e) := by
  obtain ⟨q0, q1, -⟩ := hp
  unfold State.afterSearch
  repeat' first
    | (with_reducible first | assumption | exact Allow.nil | apply Allow.cons | apply Only.ite | apply Only.setF
                            | apply Only.toSt | apply Only.startTests)
    | refine Only.of_eq (by assumption) ?_ | split | dsimp only

theorem Only.addWin (h : Only pt z s) (e : LinkEnd) (b : Nat) (c : Nat) (n : Nat) (hp : Allow pt
    [.ofReg .ikl Reg.IKL_EYE_WIN_ERR, .ofReg .trayPort Reg.TRYP_EYE_WIN_ERR]) : Only pt z (State.addWin s e b c n) :=
    by
  obtain ⟨q0, q1, -⟩ := hp
  unfold State.addWin
  repeat' first
    | (with_reducible first | assumption | exact Allow.nil | apply Allow.cons | apply Only.ite
                            | apply Only.addF)
    | refine Only.of_eq (by assumption) ?_ | split | dsimp only

theorem Only.compliance (h : Only pt z s) (e : LinkEnd) (b : Nat) (bits : List (List Bool)) (hp : Allow pt
    [.ofReg .ikl Reg.IKL_EYE_WIN_ERR, .ofReg .trayPort Reg.TRYP_EYE_WIN_ERR]) : Only pt z (State.compliance s e b
    bits) := by
  obtain ⟨q0, q1, -⟩ := hp
  unfold State.compliance
  repeat' first
    | intro _
    | (with_reducible first | assumption | exact Allow.nil | apply Allow.cons | apply Only.foldl
                            | apply Only.ite | apply Only.addWin)
    | refine Only.of_eq (by assumption) ?_ | split | dsimp only

theorem Only.finalWidth (h : Only pt z s) (e : LinkEnd) (b : Nat) (eyes : List Nat) (c : Nat) (hp : Allow pt
    [.ofReg .ikl Reg.IKL_EYE_EYE_H, .ofReg .ikl Reg.IKL_EYE_EYE_W]) : Only pt z (State.finalWidth s e b eyes c) := by
  obtain ⟨q0, q1, -⟩ := hp
  unfold State.finalWidth
  repeat' first
    | (with_reducible first | assumption | exact Allow.nil | apply Allow.cons | apply Only.ite
                            | apply Only.setEye)
    | refine Only.of_eq (by assumption) ?_ | split | dsimp only

theorem Only.showFloors (h : Only pt z s) (e : LinkEnd) (b : Nat) (hg0 : Allow pt evtRegs) (hp : Allow pt [.dies,
    .ofReg .ikl Reg.IKL_EYE_FLOOR_FAIL]) : Only pt z (State.showFloors s e b) := by
  obtain ⟨q0, q1, -⟩ := hp
  unfold State.showFloors
  repeat' first
    | intro _
    | (with_reducible first | assumption | exact Allow.nil | apply Allow.cons | apply Only.foldl
                            | apply Only.ite | apply Only.setTap | apply Only.logLink)
    | refine Only.of_eq (by assumption) ?_ | split | dsimp only

theorem Only.pointEnd (h : Only pt z s) (e : LinkEnd) (b : Nat) (bits : List (List Bool)) (eyes : List Nat) (hg0 :
    Allow pt evtRegs) (hg1 : Allow pt trainRegs) (hg2 : Allow pt coefRegs) (hp : Allow pt [.dies, .links,
    .ofReg .ikl Reg.IKL_CAL_STATUS_MODE, .ofReg .ikl Reg.IKL_COEF_DELAY, .ofReg .ikl Reg.IKL_COEF_THRESH,
    .ofReg .ikl Reg.IKL_COEF_VALID, .ofReg .ikl Reg.IKL_EYE_EYE_H, .ofReg .ikl Reg.IKL_EYE_EYE_W,
    .ofReg .ikl Reg.IKL_EYE_FLOOR_FAIL, .ofReg .ikl Reg.IKL_EYE_LB, .ofReg .ikl Reg.IKL_EYE_SUM_MIN_H,
    .ofReg .ikl Reg.IKL_EYE_SUM_MIN_W, .ofReg .ikl Reg.IKL_EYE_SUM_WORST]) : Only pt z (s.pointEnd e b bits eyes) :=
    by
  obtain ⟨q0, q1, q2, q3, q4, q5, q6, q7, q8, q9, q10, q11, q12, -⟩ := hp
  unfold State.pointEnd
  repeat' first
    | intro _
    | (with_reducible first | assumption | exact Allow.nil | apply Allow.cons | apply Only.ite
                            | apply Only.setBun | apply Only.afterSearch | apply Only.searchDone
                            | apply Only.beginFull | apply Only.showFloors | apply Only.eyeSummary
                            | apply Only.finalWidth | apply Only.logLink | apply Only.ite_snd | apply Only.foldl
                            | apply Only.foldl_snd | apply Only.endFull | apply Only.endSeed)

theorem Only.trayCal (h : Only pt z s) (e : LinkEnd) (taps : List Nat) (snr : List Nat) (hg0 : Allow pt evtRegs) (hg1
    : Allow pt trainRegs) (hp : Allow pt [.dies, .links, .ofReg .ikl Reg.IKL_CAL_STATUS_MODE,
    .ofReg .trayPort Reg.TRYP_COEF_CTLE, .ofReg .trayPort Reg.TRYP_COEF_TXPOST, .ofReg .trayPort Reg.TRYP_COEF_TXPRE,
    .ofReg .trayPort Reg.TRYP_COEF_VALID, .ofReg .trayPort Reg.TRYP_EYE_FLOOR_FAIL,
    .ofReg .trayPort Reg.TRYP_EYE_SNR]) : Only pt z (State.trayCal s e taps snr) := by
  obtain ⟨q0, q1, q2, q3, q4, q5, q6, q7, q8, -⟩ := hp
  unfold State.trayCal
  repeat' first
    | intro _
    | (with_reducible first | assumption | exact Allow.nil | apply Allow.cons | apply Only.foldl
                            | apply Only.ite | apply Only.setF | apply Only.logLink | apply Only.setBun
                            | apply Only.afterSearch)
    | refine Only.of_eq (by assumption) ?_ | split | dsimp only
    | (with_reducible apply Only.mk_same) <;> first | with_reducible exact .inr (by assumption) | with_reducible exact .inl rfl | exact .inl rfl | skip

theorem Only.testEnd (h : Only pt z s) (e : LinkEnd) (b : Nat) (mask : Nat) (hg0 : Allow pt evtRegs) (hg1 : Allow pt
    coefRegs) (hp : Allow pt [.dies, .links, .ofReg .ikl Reg.IKL_COEF_DELAY, .ofReg .ikl Reg.IKL_COEF_THRESH,
    .ofReg .ikl Reg.IKL_COEF_VALID, .ofReg .ikl Reg.IKL_EYE_LB]) : Only pt z (State.testEnd s e b mask) := by
  obtain ⟨q0, q1, q2, q3, q4, q5, -⟩ := hp
  unfold State.testEnd
  repeat' first
    | intro _
    | (with_reducible first | assumption | exact Allow.nil | apply Allow.cons | apply Only.foldl
                            | apply Only.ite | apply Only.logLink | apply Only.beginFull | apply Only.setBun)
    | refine Only.of_eq (by assumption) ?_ | split | dsimp only
    | (with_reducible apply Only.mk_same) <;> first | with_reducible exact .inr (by assumption) | with_reducible exact .inl rfl | exact .inl rfl | skip

theorem Only.computeMap (h : Only pt z s) (e : LinkEnd) (b : Nat) (hg0 : Allow pt evtRegs) (hg1 : Allow pt
    laneMapRegs) (hg2 : Allow pt laneMapTxRegs) (hg3 : Allow pt trainRegs) (hg4 : Allow pt quiesceRegs) (hp : Allow pt
    [.dies, .links, .ofReg .gtr Reg.GTR_STATUS_LATE]) : Only pt z (State.computeMap s e b) := by
  obtain ⟨q0, q1, q2, -⟩ := hp
  unfold State.computeMap
  repeat' first
    | intro _
    | (with_reducible first | assumption | exact Allow.nil | apply Allow.cons | apply Only.foldl
                            | apply Only.ite | apply Only.logLink | apply Only.retireBundle | apply Only.sbSend
                            | apply Only.setBun)
    | refine Only.of_eq (by assumption) ?_ | split | dsimp only
    | (with_reducible apply Only.mk_same) <;> first | with_reducible exact .inr (by assumption) | with_reducible exact .inl rfl | exact .inl rfl | skip

theorem Only.enterPin (h : Only pt z s) (e : LinkEnd) (hg0 : Allow pt evtRegs) (hg1 : Allow pt trainRegs) (hp : Allow
    pt [.links]) : Only pt z (State.enterPin s e) := by
  obtain ⟨q0, -⟩ := hp
  unfold State.enterPin
  repeat' first
    | (with_reducible first | assumption | exact Allow.nil | apply Allow.cons | apply Only.ite | apply Only.toSt
                            | apply Only.sbSend | apply Only.setLink)
    | refine Only.of_eq (by assumption) ?_ | split | dsimp only
    | (with_reducible apply Only.mk_same) <;> first | with_reducible exact .inr (by assumption) | with_reducible exact .inl rfl | exact .inl rfl | skip

theorem Only.applyMaps (h : Only pt z s) (e : LinkEnd) (b : Nat) (hg0 : Allow pt evtRegs) (hg1 : Allow pt laneMapRegs)
    (hg2 : Allow pt laneMapTxRegs) (hg3 : Allow pt trainRegs) (hp : Allow pt [.links]) : Only pt z (State.applyMaps s
    e b) := by
  obtain ⟨g10, g11, g12, g13, g14, g15, g16, g17, g18, g19, -⟩ := id hg1
  obtain ⟨q0, -⟩ := hp
  unfold State.applyMaps
  repeat' first
    | (with_reducible first | assumption | exact Allow.nil | apply Allow.cons | apply Only.ite
                            | apply Only.setRxMap | apply Only.setBun | apply Only.setTxMap
                            | apply Only.markRetired)
    | refine Only.of_eq (by assumption) ?_ | split | dsimp only
    | (with_reducible apply Only.mk_same) <;> first | with_reducible exact .inr (by assumption) | with_reducible exact .inl rfl | exact .inl rfl | skip

theorem Only.setDepth (h : Only pt z s) (e : LinkEnd) (b : Nat) (a p : Nat) (hp : Allow pt [.links,
    .ofReg .ikl Reg.IKL_PIN_DEPTH_DEPTH0, .ofReg .ikl Reg.IKL_PIN_DEPTH_DEPTH1, .ofReg .ikl Reg.IKL_PIN_DEPTH_DEPTH2,
    .ofReg .ikl Reg.IKL_PIN_DEPTH_DEPTH3, .ofReg .ikl Reg.IKL_PIN_DEPTH_DEPTH4, .ofReg .ikl Reg.IKL_PIN_DEPTH_DEPTH5,
    .ofReg .ikl Reg.IKL_PIN_DEPTH_DEPTH6, .ofReg .ikl Reg.IKL_PIN_DEPTH_DEPTH7,
    .ofReg .trayPort Reg.TRYP_PIN_DEPTH_DEPTH0]) : Only pt z (s.setDepth e b a p) := by
  obtain ⟨q0, q1, q2, q3, q4, q5, q6, q7, q8, q9, -⟩ := hp
  have all : ∀ n < 8, pt (.ofReg .ikl { Reg.IKL_PIN_DEPTH_DEPTH0 with lo := 4 * n }) = true := by
    intro n hn
    interval_cases n <;> assumption
  have one := all (b % 8) (Nat.mod_lt _ (by decide))
  unfold State.setDepth
  repeat' first
    | (with_reducible first | assumption | exact Allow.nil | apply Allow.cons | apply Only.ite | apply Only.setF
                            | apply Only.setBun)
    | exact one | dsimp only

theorem Only.setPins (h : Only pt z s) (e : LinkEnd) (rt : Int) (later : Nat → Int) (hg0 : Allow pt evtRegs) (hg1 :
    Allow pt laneMapRegs) (hg2 : Allow pt laneMapTxRegs) (hg3 : Allow pt trainRegs) (hg4 : Allow pt attemptRegs) (hp :
    Allow pt [.dies, .links, .ofReg .gtr Reg.GTR_STATUS_LATE, .ofReg .ikl Reg.IKL_PIN_ARRIVAL,
    .ofReg .ikl Reg.IKL_PIN_DEPTH_DEPTH0, .ofReg .ikl Reg.IKL_PIN_DEPTH_DEPTH1, .ofReg .ikl Reg.IKL_PIN_DEPTH_DEPTH2,
    .ofReg .ikl Reg.IKL_PIN_DEPTH_DEPTH3, .ofReg .ikl Reg.IKL_PIN_DEPTH_DEPTH4, .ofReg .ikl Reg.IKL_PIN_DEPTH_DEPTH5,
    .ofReg .ikl Reg.IKL_PIN_DEPTH_DEPTH6, .ofReg .ikl Reg.IKL_PIN_DEPTH_DEPTH7, .ofReg .trayPort Reg.TRYP_LAT_ARRIVAL,
    .ofReg .trayPort Reg.TRYP_PIN_ARRIVAL, .ofReg .trayPort Reg.TRYP_PIN_DEPTH_DEPTH0,
    .ofReg .trayPort Reg.TRYP_RETRY_LAST_RC]) : Only pt z (State.setPins s e rt later) := by
  obtain ⟨q0, q1, q2, q3, q4, q5, q6, q7, q8, q9, q10, q11, q12, q13, q14, q15, -⟩ := hp
  unfold State.setPins
  repeat' first
    | intro _
    | (with_reducible first | assumption | exact Allow.nil | apply Allow.cons | apply Only.foldl
                            | apply Only.ite | apply Only.linkReturn | apply Only.setDepth | apply Only.setLf
                            | apply Only.setF | apply Only.setLink | apply Only.toSt)
    | refine Only.of_eq (by assumption) ?_ | split | dsimp only
    | (with_reducible apply Only.mk_same) <;> first | with_reducible exact .inr (by assumption) | with_reducible exact .inl rfl | exact .inl rfl | skip

theorem Only.goLive (h : Only pt z s) (e : LinkEnd) (hg0 : Allow pt evtRegs) (hg1 : Allow pt trainRegs) (hg2 : Allow
    pt quiesceRegs) (hg3 : Allow pt attemptRegs) (hp : Allow pt [.links, .sync, .boot,
    .ofReg .bal Reg.BAL_REF_ACTIVE_PORT, .ofReg .bal Reg.BAL_REF_PORT_VALID, .ofReg .boot Reg.BOOT_STATUS_PHASE,
    .ofReg .boot Reg.BOOT_STEP, .ofReg .ikl Reg.IKL_CAL_STATUS_TIME, .ofReg .trayPort Reg.TRYP_LL_STATUS_ATTEMPTS,
    .ofReg .trayPort Reg.TRYP_RETRY_ATTEMPTS]) : Only pt z (State.goLive s e) := by
  obtain ⟨g20, g21, -⟩ := id hg2
  obtain ⟨g30, g31, -⟩ := id hg3
  obtain ⟨q0, q1, q2, q3, q4, q5, q6, q7, q8, q9, -⟩ := hp
  unfold State.goLive
  repeat' first
    | (with_reducible first | assumption | exact Allow.nil | apply Allow.cons | apply Only.ite
                            | apply Only.setLink | apply Only.setLf | apply Only.setF | apply Only.sbSend
                            | apply Only.toSt | apply Only.bootAdvance | apply Only.pickSyncPort)
    | refine Only.of_eq (by assumption) ?_ | split | dsimp only
    | (with_reducible apply Only.mk_same) <;> first | with_reducible exact .inr (by assumption) | with_reducible exact .inl rfl | exact .inl rfl | skip

theorem Only.markerCheck (h : Only pt z s) (e : LinkEnd) (off : Int) (hg0 : Allow pt evtRegs) (hg1 : Allow pt
    laneMapRegs) (hg2 : Allow pt laneMapTxRegs) (hg3 : Allow pt trainRegs) (hg4 : Allow pt quiesceRegs) (hg5 : Allow
    pt attemptRegs) (hp : Allow pt [.dies, .links, .sync, .boot, .ofReg .bal Reg.BAL_REF_ACTIVE_PORT,
    .ofReg .bal Reg.BAL_REF_PORT_VALID, .ofReg .boot Reg.BOOT_STATUS_PHASE, .ofReg .boot Reg.BOOT_STEP,
    .ofReg .gtr Reg.GTR_STATUS_LATE, .ofReg .ikl Reg.IKL_CAL_STATUS_TIME, .ofReg .ikl Reg.IKL_PIN_DEPTH_DEPTH0,
    .ofReg .ikl Reg.IKL_PIN_DEPTH_DEPTH1, .ofReg .ikl Reg.IKL_PIN_DEPTH_DEPTH2, .ofReg .ikl Reg.IKL_PIN_DEPTH_DEPTH3,
    .ofReg .ikl Reg.IKL_PIN_DEPTH_DEPTH4, .ofReg .ikl Reg.IKL_PIN_DEPTH_DEPTH5, .ofReg .ikl Reg.IKL_PIN_DEPTH_DEPTH6,
    .ofReg .ikl Reg.IKL_PIN_DEPTH_DEPTH7, .ofReg .trayPort Reg.TRYP_LL_STATUS_ATTEMPTS,
    .ofReg .trayPort Reg.TRYP_PIN_DEPTH_DEPTH0, .ofReg .trayPort Reg.TRYP_RETRY_ATTEMPTS,
    .ofReg .trayPort Reg.TRYP_RETRY_LAST_RC]) : Only pt z (State.markerCheck s e off) := by
  obtain ⟨q0, q1, q2, q3, q4, q5, q6, q7, q8, q9, q10, q11, q12, q13, q14, q15, q16, q17, q18, q19, q20, q21, -⟩ := hp
  unfold State.markerCheck
  repeat' first
    | intro _
    | (with_reducible first | assumption | exact Allow.nil | apply Allow.cons | apply Only.foldl
                            | apply Only.ite | apply Only.setLink | apply Only.goLive | apply Only.setDepth
                            | apply Only.linkReturn)
    | refine Only.of_eq (by assumption) ?_ | split | dsimp only
    | (with_reducible apply Only.mk_same) <;> first | with_reducible exact .inr (by assumption) | with_reducible exact .inl rfl | exact .inl rfl | skip

theorem Only.setLock (h : Only pt z s) (e : LinkEnd) (u : Nat) (v : Bool) (hp : Allow pt
    [.ofReg .ikl Reg.IKL_BPHY_MARKER_LOCK]) : Only pt z (State.setLock s e u v) := by
  obtain ⟨q0, -⟩ := hp
  unfold State.setLock
  repeat' first
    | (with_reducible first | assumption | exact Allow.nil | apply Allow.cons | apply Only.ite
                            | apply Only.setF)
    | refine Only.of_eq (by assumption) ?_ | split | dsimp only

theorem Only.setLossSet (h : Only pt z s) (d : Die) (v : Nat) (hp : Allow pt [.ofReg .gtr Reg.GTR_LOSS_LOST]) : Only
    pt z (State.setLossSet s d v) := by
  obtain ⟨q0, -⟩ := hp
  unfold State.setLossSet
  repeat' first
    | (with_reducible first | assumption | exact Allow.nil | apply Allow.cons | apply Only.ite
                            | apply Only.setF)
    | refine Only.of_eq (by assumption) ?_ | split | dsimp only

theorem Only.noteSched (h : Only pt z s) (d : Die) (hp : Allow pt [.dies]) : Only pt z (State.noteSched s d) := by
  obtain ⟨q0, -⟩ := hp
  unfold State.noteSched
  repeat' first
    | (with_reducible first | assumption | exact Allow.nil | apply Allow.cons | apply Only.ite
                            | apply Only.setDie)
    | refine Only.of_eq (by assumption) ?_ | split | dsimp only
    | (with_reducible apply Only.mk_same) <;> first | with_reducible exact .inr (by assumption) | with_reducible exact .inl rfl | exact .inl rfl | skip

theorem Only.logSwitch (h : Only pt z s) (d : Die) (b : Blk) (old : Nat) (new : Nat) (kind : Nat) (bankSw : Nat) (hg0
    : Allow pt evtRegs) (hg1 : Allow pt switchRegs) (hp : Allow pt [.dies]) : Only pt z (State.logSwitch s d b old new
    kind bankSw) := by
  obtain ⟨g10, g11, -⟩ := id hg1
  obtain ⟨q0, -⟩ := hp
  unfold State.logSwitch
  repeat' first
    | (with_reducible first | assumption | exact Allow.nil | apply Allow.cons | apply Only.ite | apply Only.log
                            | apply Only.set64)
    | refine Only.of_eq (by assumption) ?_ | split | dsimp only

theorem Only.stopSc (h : Only pt z s) (es : List LinkEnd) (hp : Allow pt [.links]) : Only pt z (State.stopSc s es) :=
    by
  obtain ⟨q0, -⟩ := hp
  unfold State.stopSc
  repeat' first
    | intro _
    | (with_reducible first | assumption | exact Allow.nil | apply Allow.cons | apply Only.foldl
                            | apply Only.ite | apply Only.setLink)
    | refine Only.of_eq (by assumption) ?_ | split | dsimp only
    | (with_reducible apply Only.mk_same) <;> first | with_reducible exact .inr (by assumption) | with_reducible exact .inl rfl | exact .inl rfl | skip

theorem Only.noFit (h : Only pt z s) (d : Die) (tray : Bool) (hg0 : Allow pt evtRegs) (hg1 : Allow pt lastRegs) (hg2 :
    Allow pt histRegs) (hp : Allow pt [.dies, .links, .rcv, .recov, .ofReg .gtr Reg.GTR_STATUS_NOFIT,
    .ofReg .rcv Reg.RCV_STATUS_LEVEL]) : Only pt z (State.noFit s d tray) := by
  obtain ⟨q0, q1, q2, q3, q4, q5, -⟩ := hp
  unfold State.noFit
  repeat' first
    | (with_reducible first | assumption | exact Allow.nil | apply Allow.cons | apply Only.ite
                            | apply Only.setDie | apply Only.log | apply Only.setF | apply Only.stopSc
                            | apply Only.trigger)
    | refine Only.of_eq (by assumption) ?_ | split | dsimp only
    | (with_reducible apply Only.mk_same) <;> first | with_reducible exact .inr (by assumption) | with_reducible exact .inl rfl | exact .inl rfl | skip

theorem Only.clearNoFit (h : Only pt z s) (d : Die) (hp : Allow pt [.dies, .ofReg .gtr Reg.GTR_STATUS_NOFIT]) : Only
    pt z (State.clearNoFit s d) := by
  obtain ⟨q0, q1, -⟩ := hp
  unfold State.clearNoFit
  repeat' first
    | (with_reducible first | assumption | exact Allow.nil | apply Allow.cons | apply Only.ite | apply Only.setF
                            | apply Only.setDie)
    | refine Only.of_eq (by assumption) ?_ | split | dsimp only
    | (with_reducible apply Only.mk_same) <;> first | with_reducible exact .inr (by assumption) | with_reducible exact .inl rfl | exact .inl rfl | skip

theorem Only.selectVariant (h : Only pt z s) (d : Die) (hg0 : Allow pt evtRegs) (hg1 : Allow pt lastRegs) (hg2 : Allow
    pt histRegs) (hg3 : Allow pt switchRegs) (hp : Allow pt [.dies, .links, .rcv, .recov,
    .ofReg .gtr Reg.GTR_STATUS_NOFIT, .ofReg .gtr Reg.GTR_STATUS_VARIANT, .ofReg .rcv Reg.RCV_STATUS_LEVEL]) : Only pt
    z (State.selectVariant s d) := by
  obtain ⟨q0, q1, q2, q3, q4, q5, q6, -⟩ := hp
  unfold State.selectVariant
  repeat' first
    | (with_reducible first | assumption | exact Allow.nil | apply Allow.cons | apply Only.ite
                            | apply Only.noFit | apply Only.noteSched | apply Only.setF | apply Only.logSwitch)
    | refine Only.of_eq (by assumption) ?_ | split | dsimp only
    | (with_reducible apply Only.mk_same) <;> first | with_reducible exact .inr (by assumption) | with_reducible exact .inl rfl | exact .inl rfl | skip

theorem Only.joinLosses (h : Only pt z s) (d : Die) (hp : Allow pt [.dies, .ofReg .gtr Reg.GTR_LOSS_LOST]) : Only pt z
    (State.joinLosses s d) := by
  obtain ⟨q0, q1, -⟩ := hp
  unfold State.joinLosses
  repeat' first
    | intro _
    | (with_reducible first | assumption | exact Allow.nil | apply Allow.cons | apply Only.foldl
                            | apply Only.ite | apply Only.noteSched | apply Only.setLossSet | apply Only.setDie)
    | refine Only.of_eq (by assumption) ?_ | split | dsimp only
    | (with_reducible apply Only.mk_same) <;> first | with_reducible exact .inr (by assumption) | with_reducible exact .inl rfl | exact .inl rfl | skip

theorem Only.selectTrayVariant (h : Only pt z s) (c : Crown) (hg0 : Allow pt evtRegs) (hg1 : Allow pt lastRegs) (hg2 :
    Allow pt histRegs) (hg3 : Allow pt switchRegs) (hp : Allow pt [.dies, .links, .rcv, .recov,
    .ofReg .gtr Reg.GTR_STATUS_NOFIT, .ofReg .rcv Reg.RCV_STATUS_LEVEL, .ofReg .tray Reg.TRY_STATUS_TVARIANT]) : Only
    pt z (State.selectTrayVariant s c) := by
  obtain ⟨q0, q1, q2, q3, q4, q5, q6, -⟩ := hp
  unfold State.selectTrayVariant
  repeat' first
    | (with_reducible first | assumption | exact Allow.nil | apply Allow.cons | apply Only.ite
                            | apply Only.noFit | apply Only.noteSched | apply Only.setF | apply Only.logSwitch)
    | refine Only.of_eq (by assumption) ?_ | split | dsimp only
    | (with_reducible apply Only.mk_same) <;> first | with_reducible exact .inr (by assumption) | with_reducible exact .inl rfl | exact .inl rfl | skip

theorem Only.setTrayLoss (h : Only pt z s) (c : Crown) (v : Nat) (hp : Allow pt [.ofReg .tray Reg.TRY_TLOSS_LOST,
    .ofReg .trayPort Reg.TRYP_PORT_STATUS_TLOST]) : Only pt z (State.setTrayLoss s c v) := by
  obtain ⟨q0, q1, -⟩ := hp
  unfold State.setTrayLoss
  repeat' first
    | intro _
    | (with_reducible first | assumption | exact Allow.nil | apply Allow.cons | apply Only.foldl
                            | apply Only.ite | apply Only.setF)
    | refine Only.of_eq (by assumption) ?_ | split | dsimp only

theorem Only.joinTrayLosses (h : Only pt z s) (c : Crown) (hp : Allow pt [.dies, .ofReg .tray Reg.TRY_TLOSS_LOST,
    .ofReg .trayPort Reg.TRYP_PORT_STATUS_TLOST]) : Only pt z (State.joinTrayLosses s c) := by
  obtain ⟨q0, q1, q2, -⟩ := hp
  unfold State.joinTrayLosses
  repeat' first
    | intro _
    | (with_reducible first | assumption | exact Allow.nil | apply Allow.cons | apply Only.foldl
                            | apply Only.ite | apply Only.noteSched | apply Only.setTrayLoss
                            | apply Only.setDie)
    | refine Only.of_eq (by assumption) ?_ | split | dsimp only
    | (with_reducible apply Only.mk_same) <;> first | with_reducible exact .inr (by assumption) | with_reducible exact .inl rfl | exact .inl rfl | skip

theorem Only.addTrayLoss (h : Only pt z s) (d : Die) (pkg : Nat) (port : Nat) (decl : Nat) (hp : Allow pt [.dies,
    .ofReg .gtr Reg.GTR_STATUS_LATE]) : Only pt z (State.addTrayLoss s d pkg port decl) := by
  obtain ⟨q0, q1, -⟩ := hp
  unfold State.addTrayLoss
  repeat' first
    | (with_reducible first | assumption | exact Allow.nil | apply Allow.cons | apply Only.ite
                            | apply Only.setDie | apply Only.setF)
    | refine Only.of_eq (by assumption) ?_ | split | dsimp only
    | (with_reducible apply Only.mk_same) <;> first | with_reducible exact .inr (by assumption) | with_reducible exact .inl rfl | exact .inl rfl | skip

theorem Only.schedWrite (h : Only pt z s) (d : Die) (tray : Bool) (w : Nat) (hp : Allow pt [.tables,
    .ofReg .gtr Reg.GTR_STATUS_ACTIVE_WR, .ofReg .gtr Reg.GTR_TBL_DATA_DATA, .ofReg .tray Reg.TRY_TBL_DATA_DATA]) :
    Only pt z (State.schedWrite s d tray w) := by
  obtain ⟨q0, q1, q2, q3, -⟩ := hp
  unfold State.schedWrite
  repeat' first
    | (with_reducible first | assumption | exact Allow.nil | apply Allow.cons | apply Only.ite | apply Only.setF
                            | apply Only.setTbl)
    | refine Only.of_eq (by assumption) ?_ | split | dsimp only

theorem Only.schedRead (h : Only pt z s) (d : Die) (tray : Bool) (hp : Allow pt [.ofReg .gtr Reg.GTR_TBL_DATA_DATA,
    .ofReg .tray Reg.TRY_TBL_DATA_DATA]) : Only pt z (State.schedRead s d tray) := by
  obtain ⟨q0, q1, -⟩ := hp
  unfold State.schedRead
  repeat' first
    | intro _
    | (with_reducible first | assumption | exact Allow.nil | apply Allow.cons | apply Only.foldl
                            | apply Only.ite | apply Only.setF)
    | refine Only.of_eq (by assumption) ?_ | split | dsimp only

theorem Only.repairLane (h : Only pt z s) (e : LinkEnd) (b : Nat) (lane : Nat) (eff : Nat) (hg0 : Allow pt evtRegs)
    (hg1 : Allow pt laneMapRegs) (hg2 : Allow pt laneMapTxRegs) (hg3 : Allow pt trainRegs) (hg4 : Allow pt
    quiesceRegs) (hp : Allow pt [.dies, .links, .ofReg .gtr Reg.GTR_STATUS_LATE]) : Only pt z (State.repairLane s e b
    lane eff) := by
  obtain ⟨g10, g11, g12, g13, g14, g15, g16, g17, g18, g19, -⟩ := id hg1
  obtain ⟨q0, q1, q2, -⟩ := hp
  unfold State.repairLane
  repeat' first
    | (with_reducible first | assumption | exact Allow.nil | apply Allow.cons | apply Only.ite
                            | apply Only.logLink | apply Only.setBun | apply Only.sbSend
                            | apply Only.retireBundle | apply Only.setRxMap)
    | refine Only.of_eq (by assumption) ?_ | split | dsimp only
    | (with_reducible apply Only.mk_same) <;> first | with_reducible exact .inr (by assumption) | with_reducible exact .inl rfl | exact .inl rfl | skip

theorem Only.failLane (h : Only pt z s) (e : LinkEnd) (b : Nat) (c : Nat) (hg0 : Allow pt evtRegs) (hg1 : Allow pt
    laneMapRegs) (hg2 : Allow pt laneMapTxRegs) (hg3 : Allow pt trainRegs) (hg4 : Allow pt quiesceRegs) (hp : Allow pt
    [.dies, .links, .ofReg .gtr Reg.GTR_STATUS_LATE]) : Only pt z (State.failLane s e b c) := by
  obtain ⟨g10, g11, g12, g13, g14, g15, g16, g17, g18, g19, -⟩ := id hg1
  obtain ⟨q0, q1, q2, -⟩ := hp
  unfold State.failLane
  repeat' first
    | intro _
    | (with_reducible first | assumption | exact Allow.nil | apply Allow.cons | apply Only.foldl
                            | apply Only.ite | apply Only.repairLane | apply Only.setRxMap | apply Only.logLink
                            | apply Only.setBun)
    | refine Only.of_eq (by assumption) ?_ | split | dsimp only
    | (with_reducible apply Only.mk_same) <;> first | with_reducible exact .inr (by assumption) | with_reducible exact .inl rfl | exact .inl rfl | skip

theorem Only.countLane (h : Only pt z s) (e : LinkEnd) (b : Nat) (c : Nat) (n : Nat) (hg0 : Allow pt evtRegs) (hg1 :
    Allow pt laneMapRegs) (hg2 : Allow pt laneMapTxRegs) (hg3 : Allow pt trainRegs) (hg4 : Allow pt quiesceRegs) (hp :
    Allow pt [.dies, .links, .ofReg .gtr Reg.GTR_STATUS_LATE, .ofReg .ikl Reg.IKL_EYE_WIN_ERR,
    .ofReg .trayPort Reg.TRYP_EYE_WIN_ERR]) : Only pt z (State.countLane s e b c n) := by
  obtain ⟨q0, q1, q2, q3, q4, -⟩ := hp
  unfold State.countLane
  repeat' first
    | (with_reducible first | assumption | exact Allow.nil | apply Allow.cons | apply Only.ite
                            | apply Only.addWin | apply Only.failLane)
    | refine Only.of_eq (by assumption) ?_ | split | dsimp only

theorem Only.takeover (h : Only pt z s) (e : LinkEnd) (b : Nat) (r : RxRepair) (hp : Allow pt [.links,
    .ofReg .ikl Reg.IKL_BADMASK_BAD, .ofReg .ikl Reg.IKL_LANEMAP_J0_BAD, .ofReg .ikl Reg.IKL_LANEMAP_J0_TGT,
    .ofReg .ikl Reg.IKL_LANEMAP_J1_BAD, .ofReg .ikl Reg.IKL_LANEMAP_J1_TGT, .ofReg .ikl Reg.IKL_LANEMAP_RETIRED,
    .ofReg .trayPort Reg.TRYP_LANEMAP_RETIRED, .ofReg .trayPort Reg.TRYP_LANEMAP_SPARE_BAD,
    .ofReg .trayPort Reg.TRYP_LANEMAP_SPARE_TGT]) : Only pt z (State.takeover s e b r) := by
  obtain ⟨q0, q1, q2, q3, q4, q5, q6, q7, q8, q9, -⟩ := hp
  unfold State.takeover
  repeat' first
    | (with_reducible first | assumption | exact Allow.nil | apply Allow.cons | apply Only.ite
                            | apply Only.setBun | apply Only.setRxMap | apply Only.sbSend)
    | refine Only.of_eq (by assumption) ?_ | split | dsimp only
    | (with_reducible apply Only.mk_same) <;> first | with_reducible exact .inr (by assumption) | with_reducible exact .inl rfl | exact .inl rfl | skip

theorem Only.showCk (h : Only pt z s) (e : LinkEnd) (bs : List Nat) (counts : List Nat) (hp : Allow pt
    [.ofReg .ikl Reg.IKL_BPHY_CK_DEV, .ofReg .ikl Reg.IKL_BPHY_CK_OK, .ofReg .ikl Reg.IKL_CK_FAIL_CK_OK]) : Only pt z
    (State.showCk s e bs counts) := by
  obtain ⟨q0, q1, q2, -⟩ := hp
  unfold State.showCk
  repeat' first
    | intro _
    | (with_reducible first | assumption | exact Allow.nil | apply Allow.cons | apply Only.foldl
                            | apply Only.ite | apply Only.setF)
    | refine Only.of_eq (by assumption) ?_ | split | dsimp only

theorem Only.ckFailure (h : Only pt z s) (e : LinkEnd) (b : Nat) (hg0 : Allow pt evtRegs) (hg1 : Allow pt laneMapRegs)
    (hg2 : Allow pt laneMapTxRegs) (hg3 : Allow pt trainRegs) (hg4 : Allow pt quiesceRegs) (hp : Allow pt [.dies,
    .links, .ofReg .gtr Reg.GTR_STATUS_LATE, .ofReg .ikl Reg.IKL_CK_FAIL_FAIL]) : Only pt z (State.ckFailure s e b) :=
    by
  obtain ⟨q0, q1, q2, q3, -⟩ := hp
  unfold State.ckFailure
  repeat' first
    | (with_reducible first | assumption | exact Allow.nil | apply Allow.cons | apply Only.ite | apply Only.setF
                            | apply Only.retireBundle)
    | refine Only.of_eq (by assumption) ?_ | split | dsimp only

theorem Only.noteCk (h : Only pt z s) (e : LinkEnd) (bs : List Nat) (counts : List Nat) (hp : Allow pt [.links]) :
    Only pt z (State.noteCk s e bs counts) := by
  obtain ⟨q0, -⟩ := hp
  unfold State.noteCk
  repeat' first
    | intro _
    | (with_reducible first | assumption | exact Allow.nil | apply Allow.cons | apply Only.foldl
                            | apply Only.ite | apply Only.setBun)
    | refine Only.of_eq (by assumption) ?_ | split | dsimp only
    | (with_reducible apply Only.mk_same) <;> first | with_reducible exact .inr (by assumption) | with_reducible exact .inl rfl | exact .inl rfl | skip

theorem Only.ckCalib (h : Only pt z s) (e : LinkEnd) (bs : List Nat) (counts : List Nat) (hg0 : Allow pt evtRegs) (hg1
    : Allow pt laneMapRegs) (hg2 : Allow pt laneMapTxRegs) (hg3 : Allow pt trainRegs) (hg4 : Allow pt quiesceRegs)
    (hg5 : Allow pt attemptRegs) (hp : Allow pt [.dies, .links, .ofReg .gtr Reg.GTR_STATUS_LATE,
    .ofReg .ikl Reg.IKL_CAL_STATUS_MODE, .ofReg .ikl Reg.IKL_CK_FAIL_FAIL, .ofReg .trayPort Reg.TRYP_RETRY_LAST_RC]) :
    Only pt z (State.ckCalib s e bs counts) := by
  obtain ⟨q0, q1, q2, q3, q4, q5, -⟩ := hp
  unfold State.ckCalib
  repeat' first
    | intro _
    | (with_reducible first | assumption | exact Allow.nil | apply Allow.cons | apply Only.foldl
                            | apply Only.ite | apply Only.linkReturn | apply Only.setLink | apply Only.ckFailure
                            | apply Only.afterSearch)
    | refine Only.of_eq (by assumption) ?_ | split | dsimp only
    | (with_reducible apply Only.mk_same) <;> first | with_reducible exact .inr (by assumption) | with_reducible exact .inl rfl | exact .inl rfl | skip

theorem Only.ckService (h : Only pt z s) (e : LinkEnd) (bs : List Nat) (counts : List Nat) (hg0 : Allow pt evtRegs)
    (hg1 : Allow pt laneMapRegs) (hg2 : Allow pt laneMapTxRegs) (hg3 : Allow pt trainRegs) (hg4 : Allow pt
    quiesceRegs) (hg5 : Allow pt attemptRegs) (hp : Allow pt [.dies, .links, .ofReg .gtr Reg.GTR_STATUS_LATE,
    .ofReg .ikl Reg.IKL_CAL_STATUS_MODE, .ofReg .ikl Reg.IKL_CK_FAIL_FAIL, .ofReg .trayPort Reg.TRYP_RETRY_LAST_RC]) :
    Only pt z (State.ckService s e bs counts) := by
  obtain ⟨q0, q1, q2, q3, q4, q5, -⟩ := hp
  unfold State.ckService
  repeat' first
    | intro _
    | (with_reducible first | assumption | exact Allow.nil | apply Allow.cons | apply Only.foldl
                            | apply Only.ite | apply Only.linkReturn | apply Only.ckFailure
                            | apply Only.afterSearch)
    | refine Only.of_eq (by assumption) ?_ | split | dsimp only

theorem Only.iklMarker (h : Only pt z s) (e : LinkEnd) (b : Nat) (seg : Nat) (hg0 : Allow pt evtRegs) (hg1 : Allow pt
    laneMapRegs) (hg2 : Allow pt laneMapTxRegs) (hg3 : Allow pt trainRegs) (hg4 : Allow pt quiesceRegs) (hg5 : Allow
    pt attemptRegs) (hp : Allow pt [.dies, .links, .sync, .boot, .ofReg .bal Reg.BAL_REF_ACTIVE_PORT,
    .ofReg .bal Reg.BAL_REF_PORT_VALID, .ofReg .boot Reg.BOOT_STATUS_PHASE, .ofReg .boot Reg.BOOT_STEP,
    .ofReg .gtr Reg.GTR_STATUS_LATE, .ofReg .ikl Reg.IKL_BPHY_MARKER_LOCK, .ofReg .ikl Reg.IKL_CAL_STATUS_TIME,
    .ofReg .ikl Reg.IKL_EYE_WIN_ERR, .ofReg .ikl Reg.IKL_PIN_DEPTH_DEPTH0, .ofReg .ikl Reg.IKL_PIN_DEPTH_DEPTH1,
    .ofReg .ikl Reg.IKL_PIN_DEPTH_DEPTH2, .ofReg .ikl Reg.IKL_PIN_DEPTH_DEPTH3, .ofReg .ikl Reg.IKL_PIN_DEPTH_DEPTH4,
    .ofReg .ikl Reg.IKL_PIN_DEPTH_DEPTH5, .ofReg .ikl Reg.IKL_PIN_DEPTH_DEPTH6, .ofReg .ikl Reg.IKL_PIN_DEPTH_DEPTH7,
    .ofReg .ikl Reg.IKL_SB_ERR_MARKER_ERR, .ofReg .trayPort Reg.TRYP_EYE_WIN_ERR,
    .ofReg .trayPort Reg.TRYP_LL_STATUS_ATTEMPTS, .ofReg .trayPort Reg.TRYP_PIN_DEPTH_DEPTH0,
    .ofReg .trayPort Reg.TRYP_RETRY_ATTEMPTS, .ofReg .trayPort Reg.TRYP_RETRY_LAST_RC]) : Only pt z (State.iklMarker s
    e b seg) := by
  obtain ⟨q0, q1, q2, q3, q4, q5, q6, q7, q8, q9, q10, q11, q12, q13, q14, q15, q16, q17, q18, q19, q20, q21, q22, q23, q24, q25, -⟩ := hp
  unfold State.iklMarker
  repeat' first
    | (with_reducible first | assumption | exact Allow.nil | apply Allow.cons | apply Only.ite
                            | apply Only.setBun | apply Only.bumpF | apply Only.setLock | apply Only.countLane
                            | apply Only.stopNext | apply Only.setLink | apply Only.markerCheck)
    | refine Only.of_eq (by assumption) ?_ | split | dsimp only
    | (with_reducible apply Only.mk_same) <;> first | with_reducible exact .inr (by assumption) | with_reducible exact .inl rfl | exact .inl rfl | skip

theorem Only.trayLock (h : Only pt z s) (n : Fin 8) (hg0 : Allow pt evtRegs) (hg1 : Allow pt laneMapRegs) (hg2 : Allow
    pt laneMapTxRegs) (hg3 : Allow pt trainRegs) (hg4 : Allow pt quiesceRegs) (hg5 : Allow pt attemptRegs) (hp : Allow
    pt [.dies, .links, .ofReg .gtr Reg.GTR_STATUS_LATE, .ofReg .trayPort Reg.TRYP_RETRY_LAST_RC]) : Only pt z
    (State.trayLock s n) := by
  obtain ⟨q0, q1, q2, q3, -⟩ := hp
  unfold State.trayLock
  repeat' first
    | intro _
    | (with_reducible first | assumption | exact Allow.nil | apply Allow.cons | apply Only.foldl
                            | apply Only.ite | apply Only.linkReturn | apply Only.failLane)
    | refine Only.of_eq (by assumption) ?_ | split | dsimp only

theorem Only.trayMarker (h : Only pt z s) (n : Fin 8) (lane : Nat) (seg : Nat) (hg0 : Allow pt evtRegs) (hg1 : Allow
    pt laneMapRegs) (hg2 : Allow pt laneMapTxRegs) (hg3 : Allow pt trainRegs) (hg4 : Allow pt quiesceRegs) (hg5 :
    Allow pt attemptRegs) (hp : Allow pt [.dies, .links, .sync, .boot, .ofReg .bal Reg.BAL_REF_ACTIVE_PORT,
    .ofReg .bal Reg.BAL_REF_PORT_VALID, .ofReg .boot Reg.BOOT_STATUS_PHASE, .ofReg .boot Reg.BOOT_STEP,
    .ofReg .gtr Reg.GTR_STATUS_LATE, .ofReg .ikl Reg.IKL_CAL_STATUS_TIME, .ofReg .ikl Reg.IKL_PIN_DEPTH_DEPTH0,
    .ofReg .ikl Reg.IKL_PIN_DEPTH_DEPTH1, .ofReg .ikl Reg.IKL_PIN_DEPTH_DEPTH2, .ofReg .ikl Reg.IKL_PIN_DEPTH_DEPTH3,
    .ofReg .ikl Reg.IKL_PIN_DEPTH_DEPTH4, .ofReg .ikl Reg.IKL_PIN_DEPTH_DEPTH5, .ofReg .ikl Reg.IKL_PIN_DEPTH_DEPTH6,
    .ofReg .ikl Reg.IKL_PIN_DEPTH_DEPTH7, .ofReg .trayPort Reg.TRYP_LL_STATUS_ATTEMPTS,
    .ofReg .trayPort Reg.TRYP_PIN_DEPTH_DEPTH0, .ofReg .trayPort Reg.TRYP_RETRY_ATTEMPTS,
    .ofReg .trayPort Reg.TRYP_RETRY_LAST_RC]) : Only pt z (State.trayMarker s n lane seg) := by
  obtain ⟨q0, q1, q2, q3, q4, q5, q6, q7, q8, q9, q10, q11, q12, q13, q14, q15, q16, q17, q18, q19, q20, q21, -⟩ := hp
  unfold State.trayMarker
  repeat' first
    | (with_reducible first | assumption | exact Allow.nil | apply Allow.cons | apply Only.ite
                            | apply Only.setBun | apply Only.trayLock | apply Only.setLink
                            | apply Only.setRetired | apply Only.toSt | apply Only.declareTrayLoss
                            | apply Only.markerCheck)
    | refine Only.of_eq (by assumption) ?_ | split | dsimp only
    | (with_reducible apply Only.mk_same) <;> first | with_reducible exact .inr (by assumption) | with_reducible exact .inl rfl | exact .inl rfl | skip

theorem Only.clearNaks (h : Only pt z s) (e : LinkEnd) (g : Nat) (hp : Allow pt [.links]) : Only pt z (State.clearNaks
    s e g) := by
  obtain ⟨q0, -⟩ := hp
  unfold State.clearNaks
  repeat' first
    | intro _
    | (with_reducible first | assumption | exact Allow.nil | apply Allow.cons | apply Only.foldl
                            | apply Only.ite | apply Only.setBun)
    | refine Only.of_eq (by assumption) ?_ | split | dsimp only
    | (with_reducible apply Only.mk_same) <;> first | with_reducible exact .inr (by assumption) | with_reducible exact .inl rfl | exact .inl rfl | skip

theorem Only.sbLeft (h : Only pt z s) (e : LinkEnd) (m : SbMsg) (hp : Allow pt [.links]) : Only pt z (State.sbLeft s e
    m) := by
  obtain ⟨q0, -⟩ := hp
  unfold State.sbLeft
  repeat' first
    | intro _
    | (with_reducible first | assumption | exact Allow.nil | apply Allow.cons | apply Only.foldl
                            | apply Only.ite | apply Only.setBun | apply Only.setLink)
    | refine Only.of_eq (by assumption) ?_ | split | dsimp only
    | (with_reducible apply Only.mk_same) <;> first | with_reducible exact .inr (by assumption) | with_reducible exact .inl rfl | exact .inl rfl | skip

theorem Only.putStream (h : Only pt z s) (e : LinkEnd) (frame : Nat) (pos : Nat) (field : Nat) (hp : Allow pt
    [.links]) : Only pt z (State.putStream s e frame pos field) := by
  obtain ⟨q0, -⟩ := hp
  unfold State.putStream
  repeat' first
    | (with_reducible first | assumption | exact Allow.nil | apply Allow.cons | apply Only.ite
                            | apply Only.setLink)
    | refine Only.of_eq (by assumption) ?_ | split | dsimp only
    | (with_reducible apply Only.mk_same) <;> first | with_reducible exact .inr (by assumption) | with_reducible exact .inl rfl | exact .inl rfl | skip

theorem Only.sendBox (h : Only pt z s) (e : LinkEnd) (k : Nat) (box : Nat) (hp : Allow pt [.links]) : Only pt z
    (State.sendBox s e k box) := by
  obtain ⟨q0, -⟩ := hp
  unfold State.sendBox
  repeat' first
    | (with_reducible first | assumption | exact Allow.nil | apply Allow.cons | apply Only.ite
                            | apply Only.setLink | apply Only.putStream)
    | refine Only.of_eq (by assumption) ?_ | split | dsimp only
    | (with_reducible apply Only.mk_same) <;> first | with_reducible exact .inr (by assumption) | with_reducible exact .inl rfl | exact .inl rfl | skip

theorem Only.sbSendSlot (h : Only pt z s) (e : LinkEnd) (k : Nat) (i : Nat) (m : SbMsg) (hp : Allow pt [.links]) :
    Only pt z (State.sbSendSlot s e k i m) := by
  obtain ⟨q0, -⟩ := hp
  unfold State.sbSendSlot
  repeat' first
    | (with_reducible first | assumption | exact Allow.nil | apply Allow.cons | apply Only.ite
                            | apply Only.setLink | apply Only.sbLeft | apply Only.sendBox)
    | refine Only.of_eq (by assumption) ?_ | split | dsimp only
    | (with_reducible apply Only.mk_same) <;> first | with_reducible exact .inr (by assumption) | with_reducible exact .inl rfl | exact .inl rfl | skip

theorem Only.sendMarkers (h : Only pt z s) (e : LinkEnd) (hp : Allow pt [.links]) : Only pt z (State.sendMarkers s e)
    := by
  obtain ⟨q0, -⟩ := hp
  unfold State.sendMarkers
  repeat' first
    | (with_reducible first | assumption | exact Allow.nil | apply Allow.cons | apply Only.ite
                            | apply Only.setLink)
    | refine Only.of_eq (by assumption) ?_ | split | dsimp only
    | (with_reducible apply Only.mk_same) <;> first | with_reducible exact .inr (by assumption) | with_reducible exact .inl rfl | exact .inl rfl | skip

theorem Only.ptrDue (h : Only pt z s) (e : LinkEnd) (hp : Allow pt [.links]) : Only pt z (State.ptrDue s e) := by
  obtain ⟨q0, -⟩ := hp
  unfold State.ptrDue
  repeat' first
    | (with_reducible first | assumption | exact Allow.nil | apply Allow.cons | apply Only.ite
                            | apply Only.setLink | apply Only.sbSend)
    | refine Only.of_eq (by assumption) ?_ | split | dsimp only
    | (with_reducible apply Only.mk_same) <;> first | with_reducible exact .inr (by assumption) | with_reducible exact .inl rfl | exact .inl rfl | skip

theorem Only.ackEffect (h : Only pt z s) (e : LinkEnd) (m : SbMsg) (hp : Allow pt [.links]) : Only pt z
    (State.ackEffect s e m) := by
  obtain ⟨q0, -⟩ := hp
  unfold State.ackEffect
  repeat' first
    | (with_reducible first | assumption | exact Allow.nil | apply Allow.cons | apply Only.ite
                            | apply Only.setBun | apply Only.stopNext)
    | refine Only.of_eq (by assumption) ?_ | split | dsimp only
    | (with_reducible apply Only.mk_same) <;> first | with_reducible exact .inr (by assumption) | with_reducible exact .inl rfl | exact .inl rfl | skip

theorem Only.takeCw (h : Only pt z s) (e : LinkEnd) (frame : Nat) (lanes : List Nat) (n j : Nat) (hg0 : Allow pt
    evtRegs) (hg1 : Allow pt laneMapRegs) (hg2 : Allow pt laneMapTxRegs) (hg3 : Allow pt trainRegs) (hg4 : Allow pt
    quiesceRegs) (hp : Allow pt [.dies, .links, .ofReg .gtr Reg.GTR_STATUS_LATE, .ofReg .ikl Reg.IKL_EYE_WIN_ERR,
    .ofReg .trayPort Reg.TRYP_EYE_WIN_ERR, .ofReg .trayPort Reg.TRYP_FEC_CORR_CW,
    .ofReg .trayPort Reg.TRYP_FEC_UNCORR_CW]) :
    Only pt z (s.takeCw e frame lanes n j).2 := by
  obtain ⟨q0, q1, q2, q3, q4, q5, q6, -⟩ := hp
  have g : ∀ l, Only pt z (s.setLink e l) := fun l => by apply Only.setLink <;> (repeat' first | with_reducible assumption | with_reducible exact Allow.nil | with_reducible apply Allow.cons)
  unfold State.takeCw
  dsimp only
  generalize rsTray.decode _ [] = r
  refine .ite_snd h ?_
  cases r with
  | none => exact Only.bumpF (g _) _ _ _ _ _ (by (repeat' first | with_reducible assumption | with_reducible exact Allow.nil | with_reducible apply Allow.cons))
  | some p =>
    refine .foldl _ (fun _ _ k => by apply Only.countLane <;> (repeat' first | with_reducible assumption | with_reducible exact Allow.nil | with_reducible apply Allow.cons)) (.ite (g _) (Only.bumpF (g _) _ _ _ _ _ (by (repeat' first | with_reducible assumption | with_reducible exact Allow.nil | with_reducible apply Allow.cons))))

theorem Only.takeField (h : Only pt z s) (e : LinkEnd) (frame pos len : Nat) (lanes : List Nat) (hg0 : Allow pt
    evtRegs) (hg1 : Allow pt laneMapRegs) (hg2 : Allow pt laneMapTxRegs) (hg3 : Allow pt trainRegs) (hg4 : Allow pt
    quiesceRegs) (hp : Allow pt [.dies, .links, .ofReg .gtr Reg.GTR_STATUS_LATE, .ofReg .ikl Reg.IKL_EYE_WIN_ERR,
    .ofReg .trayPort Reg.TRYP_EYE_WIN_ERR, .ofReg .trayPort Reg.TRYP_FEC_CORR_CW,
    .ofReg .trayPort Reg.TRYP_FEC_UNCORR_CW]) :
    Only pt z (s.takeField e frame pos len lanes).2 := by
  obtain ⟨q0, q1, q2, q3, q4, q5, q6, -⟩ := hp
  have k : ∀ (t : State) (n j : Nat), Only pt z t → Only pt z (t.takeCw e frame lanes n j).2 := fun t n j ht => by
    apply Only.takeCw <;> (repeat' first | with_reducible assumption | with_reducible exact Allow.nil | with_reducible apply Allow.cons)
  have g := k s 0 (trayCws pos len).1 h
  unfold State.takeField
  dsimp only
  refine .ite_snd g ?_
  have g2 := k _ 1 (trayCws pos len).2 g
  split
  · exact g2
  · exact g2

theorem Only.showLead (h : Only pt z s) (e : LinkEnd) (b : Nat) (hp : Allow pt [.ofReg .ikl Reg.IKL_BPHY_LEAD,
    .ofReg .ikl Reg.IKL_PHY_STATUS_LEAD]) : Only pt z (State.showLead s e b) := by
  obtain ⟨q0, q1, -⟩ := hp
  unfold State.showLead
  repeat' first
    | intro _
    | (with_reducible first | assumption | exact Allow.nil | apply Allow.cons | apply Only.foldl
                            | apply Only.ite | apply Only.setF)
    | refine Only.of_eq (by assumption) ?_ | split | dsimp only

theorem Only.takeTaiMap (h : Only pt z s) (d : Die) (box : Nat) (hp : Allow pt [.dies]) : Only pt z (State.takeTaiMap
    s d box) := by
  obtain ⟨q0, -⟩ := hp
  unfold State.takeTaiMap
  repeat' first
    | (with_reducible first | assumption | exact Allow.nil | apply Allow.cons | apply Only.ite
                            | apply Only.setDie)
    | refine Only.of_eq (by assumption) ?_ | split | dsimp only
    | (with_reducible apply Only.mk_same) <;> first | with_reducible exact .inr (by assumption) | with_reducible exact .inl rfl | exact .inl rfl | skip

theorem Only.iklSlot (h : Only pt z s) (e : LinkEnd) (r : SbSlot) (hg0 : Allow pt evtRegs) (hg1 : Allow pt
    laneMapRegs) (hg2 : Allow pt laneMapTxRegs) (hg3 : Allow pt trainRegs) (hg4 : Allow pt quiesceRegs) (hp : Allow pt
    [.dies, .links, .ofReg .gtr Reg.GTR_STATUS_LATE, .ofReg .ikl Reg.IKL_BPHY_LEAD, .ofReg .ikl Reg.IKL_EYE_WIN_ERR,
    .ofReg .ikl Reg.IKL_PHY_STATUS_LEAD, .ofReg .ikl Reg.IKL_SB_ERR_CRC_ERR, .ofReg .trayPort Reg.TRYP_EYE_WIN_ERR]) :
    Only pt z (State.iklSlot s e r).2 := by
  obtain ⟨q0, q1, q2, q3, q4, q5, q6, q7, -⟩ := hp
  unfold State.iklSlot
  repeat' first
    | intro _
    | (with_reducible first | assumption | exact Allow.nil | apply Allow.cons | apply Only.foldl
                            | apply Only.ite | apply Only.ite_snd | apply Only.countLane | apply Only.bumpF
                            | apply Only.showLead)
    | refine Only.of_eq (by assumption) ?_ | split | dsimp only
    | (with_reducible apply Only.mk_same) <;> first | with_reducible exact .inr (by assumption) | with_reducible exact .inl rfl | exact .inl rfl | skip

theorem Only.traySlot (h : Only pt z s) (e : LinkEnd) (r : SbSlot) (hg0 : Allow pt evtRegs) (hg1 : Allow pt
    laneMapRegs) (hg2 : Allow pt laneMapTxRegs) (hg3 : Allow pt trainRegs) (hg4 : Allow pt quiesceRegs) (hp : Allow pt
    [.dies, .links, .ofReg .gtr Reg.GTR_STATUS_LATE, .ofReg .ikl Reg.IKL_EYE_WIN_ERR,
    .ofReg .trayPort Reg.TRYP_EYE_WIN_ERR, .ofReg .trayPort Reg.TRYP_FEC_CORR_CW,
    .ofReg .trayPort Reg.TRYP_FEC_UNCORR_CW]) : Only pt z (s.traySlot e r).2 := by
  obtain ⟨q0, q1, q2, q3, q4, q5, q6, -⟩ := hp
  unfold State.traySlot
  dsimp only
  apply Only.takeField <;> (repeat' first | with_reducible assumption | with_reducible exact Allow.nil | with_reducible apply Allow.cons)

theorem Only.sbReceive (h : Only pt z s) (e : LinkEnd) (r : SbSlot) (hg0 : Allow pt evtRegs) (hg1 : Allow pt
    laneMapRegs) (hg2 : Allow pt laneMapTxRegs) (hg3 : Allow pt trainRegs) (hg4 : Allow pt quiesceRegs) (hp : Allow pt
    [.dies, .links, .ofReg .gtr Reg.GTR_STATUS_LATE, .ofReg .ikl Reg.IKL_BPHY_LEAD, .ofReg .ikl Reg.IKL_EYE_WIN_ERR,
    .ofReg .ikl Reg.IKL_LL_ERR_BAD_MTYPE, .ofReg .ikl Reg.IKL_PHY_STATUS_LEAD, .ofReg .ikl Reg.IKL_SB_ERR_CRC_ERR,
    .ofReg .trayPort Reg.TRYP_EYE_WIN_ERR, .ofReg .trayPort Reg.TRYP_FEC_CORR_CW,
    .ofReg .trayPort Reg.TRYP_FEC_UNCORR_CW, .ofReg .trayPort Reg.TRYP_LL_ERR_BAD_MTYPE]) : Only pt z (State.sbReceive
    s e r).2 := by
  obtain ⟨q0, q1, q2, q3, q4, q5, q6, q7, q8, q9, q10, q11, -⟩ := hp
  unfold State.sbReceive
  repeat' first
    | (with_reducible first | assumption | exact Allow.nil | apply Allow.cons | apply Only.ite
                            | apply Only.ite_snd | apply Only.traySlot | apply Only.iklSlot | apply Only.setLink
                            | apply Only.bumpLf)
    | refine Only.of_eq (by assumption) ?_ | split | dsimp only
    | (with_reducible apply Only.mk_same) <;> first | with_reducible exact .inr (by assumption) | with_reducible exact .inl rfl | exact .inl rfl | skip

theorem Only.sbTakes (h : Only pt z s) (e : LinkEnd) (r : SbSlot) (mtype : Nat) (anytime : Bool) (hg0 : Allow pt
    evtRegs) (hg1 : Allow pt laneMapRegs) (hg2 : Allow pt laneMapTxRegs) (hg3 : Allow pt trainRegs) (hg4 : Allow pt
    quiesceRegs) (hp : Allow pt [.dies, .links, .ofReg .gtr Reg.GTR_STATUS_LATE, .ofReg .ikl Reg.IKL_BPHY_LEAD,
    .ofReg .ikl Reg.IKL_EYE_WIN_ERR, .ofReg .ikl Reg.IKL_LL_ERR_BAD_MTYPE, .ofReg .ikl Reg.IKL_PHY_STATUS_LEAD,
    .ofReg .ikl Reg.IKL_SB_ERR_CRC_ERR, .ofReg .trayPort Reg.TRYP_EYE_WIN_ERR, .ofReg .trayPort Reg.TRYP_FEC_CORR_CW,
    .ofReg .trayPort Reg.TRYP_FEC_UNCORR_CW, .ofReg .trayPort Reg.TRYP_LL_ERR_BAD_MTYPE]) : Only pt z (State.sbTakes s
    e r mtype anytime).2 := by
  obtain ⟨q0, q1, q2, q3, q4, q5, q6, q7, q8, q9, q10, q11, -⟩ := hp
  unfold State.sbTakes
  repeat' first
    | (with_reducible first | assumption | exact Allow.nil | apply Allow.cons | apply Only.ite
                            | apply Only.ite_snd | apply Only.sbReceive)
    | refine Only.of_eq (by assumption) ?_ | split | dsimp only
    | (with_reducible apply Only.mk_same) <;> first | with_reducible exact .inr (by assumption) | with_reducible exact .inl rfl | exact .inl rfl | skip

theorem Only.sbTakesFirst (h : Only pt z s) (e : LinkEnd) (r : SbSlot) (mtype : Nat) (anytime : Bool) (hg0 : Allow pt
    evtRegs) (hg1 : Allow pt laneMapRegs) (hg2 : Allow pt laneMapTxRegs) (hg3 : Allow pt trainRegs) (hg4 : Allow pt
    quiesceRegs) (hp : Allow pt [.dies, .links, .ofReg .gtr Reg.GTR_STATUS_LATE, .ofReg .ikl Reg.IKL_BPHY_LEAD,
    .ofReg .ikl Reg.IKL_EYE_WIN_ERR, .ofReg .ikl Reg.IKL_LL_ERR_BAD_MTYPE, .ofReg .ikl Reg.IKL_PHY_STATUS_LEAD,
    .ofReg .ikl Reg.IKL_SB_ERR_CRC_ERR, .ofReg .trayPort Reg.TRYP_EYE_WIN_ERR, .ofReg .trayPort Reg.TRYP_FEC_CORR_CW,
    .ofReg .trayPort Reg.TRYP_FEC_UNCORR_CW, .ofReg .trayPort Reg.TRYP_LL_ERR_BAD_MTYPE]) : Only pt z
    (State.sbTakesFirst s e r mtype anytime).2 := by
  obtain ⟨q0, q1, q2, q3, q4, q5, q6, q7, q8, q9, q10, q11, -⟩ := hp
  unfold State.sbTakesFirst
  repeat' first
    | (with_reducible first | assumption | exact Allow.nil | apply Allow.cons | apply Only.ite
                            | apply Only.ite_snd | apply Only.sbTakes | apply Only.sbTake)
    | refine Only.of_eq (by assumption) ?_ | split | dsimp only
    | (with_reducible apply Only.mk_same) <;> first | with_reducible exact .inr (by assumption) | with_reducible exact .inl rfl | exact .inl rfl | skip

theorem Only.takeLoad (h : Only pt z s) (e : LinkEnd) (box : Nat) (hp : Allow pt [.dies, .links, .boot,
    .ofReg .bal Reg.BAL_LOADS, .ofReg .bal Reg.BAL_LOAD_DELTA_HI_DELTA, .ofReg .bal Reg.BAL_LOAD_DELTA_LO_DELTA,
    .ofReg .bal Reg.BAL_STATUS_BEAT_VALID, .ofReg .boot Reg.BOOT_STATUS_PHASE, .ofReg .boot Reg.BOOT_STEP]) : Only pt
    z (State.takeLoad s e box) := by
  obtain ⟨q0, q1, q2, q3, q4, q5, q6, q7, q8, -⟩ := hp
  unfold State.takeLoad
  repeat' first
    | (with_reducible first | assumption | exact Allow.nil | apply Allow.cons | apply Only.ite
                            | apply Only.applyLoad | apply Only.sbSend)
    | refine Only.of_eq (by assumption) ?_ | split | dsimp only
    | (with_reducible apply Only.mk_same) <;> first | with_reducible exact .inr (by assumption) | with_reducible exact .inl rfl | exact .inl rfl | skip

theorem Only.syncDone (h : Only pt z s) (n : Fin 8) (hold : Nat) (stamp : Nat) (err : Int) (hg0 : Allow pt evtRegs)
    (hg1 : Allow pt lastRegs) (hg2 : Allow pt histRegs) (hp : Allow pt [.dies, .links, .rcv, .recov,
    .ofReg .bal Reg.BAL_REF_PHASE_ERR, .ofReg .bal Reg.BAL_STATUS_SYNC_LOST, .ofReg .rcv Reg.RCV_STATUS_LEVEL]) : Only
    pt z (State.syncDone s n hold stamp err) := by
  obtain ⟨q0, q1, q2, q3, q4, q5, q6, -⟩ := hp
  unfold State.syncDone
  repeat' first
    | (with_reducible first | assumption | exact Allow.nil | apply Allow.cons | apply Only.ite
                            | apply Only.setLink | apply Only.phaseStep | apply Only.sbSend)
    | refine Only.of_eq (by assumption) ?_ | split | dsimp only
    | (with_reducible apply Only.mk_same) <;> first | with_reducible exact .inr (by assumption) | with_reducible exact .inl rfl | exact .inl rfl | skip

theorem Only.assertFp (h : Only pt z s) (f : Fin 4) (hg0 : Allow pt evtRegs) (hg1 : Allow pt laneMapRegs) (hg2 : Allow
    pt laneMapTxRegs) (hg3 : Allow pt trainRegs) (hg4 : Allow pt attemptRegs) (hp : Allow pt [.dies, .links, .fpLines,
    .ofReg .gtr Reg.GTR_STATUS_LATE, .ofReg .trayPort Reg.TRYP_RETRY_LAST_RC]) : Only pt z (State.assertFp s f) := by
  obtain ⟨q0, q1, q2, q3, q4, -⟩ := hp
  unfold State.assertFp
  repeat' first
    | intro _
    | (with_reducible first | assumption | exact Allow.nil | apply Allow.cons | apply Only.foldl
                            | apply Only.ite | apply Only.setLink | apply Only.linkReturn)
    | refine Only.of_eq (by assumption) ?_ | split | dsimp only
    | (with_reducible apply Only.mk_same) <;> first | with_reducible exact .inr (by assumption) | with_reducible exact .inl rfl | exact .inl rfl | skip

theorem Only.queueMsg (h : Only pt z s) (e : LinkEnd) (chan : Nat) (sel : Nat) (flits : List (List Byte)) (hp : Allow
    pt [.links]) : Only pt z (State.queueMsg s e chan sel flits) := by
  obtain ⟨q0, -⟩ := hp
  unfold State.queueMsg
  repeat' first
    | (with_reducible first | assumption | exact Allow.nil | apply Allow.cons | apply Only.ite
                            | apply Only.setLink)
    | refine Only.of_eq (by assumption) ?_ | split | dsimp only
    | (with_reducible apply Only.mk_same) <;> first | with_reducible exact .inr (by assumption) | with_reducible exact .inl rfl | exact .inl rfl | skip

theorem Only.sendMsg (h : Only pt z s) (d : Die) (pkg : Nat) (t : Die) (chan : Nat) (sel : Nat) (flits : List (List
    Byte)) (hp : Allow pt [.links]) : Only pt z (State.sendMsg s d pkg t chan sel flits) := by
  obtain ⟨q0, -⟩ := hp
  unfold State.sendMsg
  repeat' first
    | (with_reducible first | assumption | exact Allow.nil | apply Allow.cons | apply Only.ite
                            | apply Only.queueMsg)
    | refine Only.of_eq (by assumption) ?_ | split | dsimp only
    | (with_reducible apply Only.mk_same) <;> first | with_reducible exact .inr (by assumption) | with_reducible exact .inl rfl | exact .inl rfl | skip

theorem Only.sendFlit (h : Only pt z s) (e : LinkEnd) (b : Nat) (slot : Nat) (header : Nat) (payload : List Byte) (hp
    : Allow pt [.links]) : Only pt z (State.sendFlit s e b slot header payload) := by
  obtain ⟨q0, -⟩ := hp
  unfold State.sendFlit
  repeat' first
    | (with_reducible first | assumption | exact Allow.nil | apply Allow.cons | apply Only.ite
                            | apply Only.putStream | apply Only.setLink)
    | refine Only.of_eq (by assumption) ?_ | split | dsimp only
    | (with_reducible apply Only.mk_same) <;> first | with_reducible exact .inr (by assumption) | with_reducible exact .inl rfl | exact .inl rfl | skip

theorem Only.sendNull (h : Only pt z s) (e : LinkEnd) (b : Nat) (slot : Nat) (hp : Allow pt [.links]) : Only pt z
    (State.sendNull s e b slot) := by
  obtain ⟨q0, -⟩ := hp
  unfold State.sendNull
  repeat' first
    | (with_reducible first | assumption | exact Allow.nil | apply Allow.cons | apply Only.ite
                            | apply Only.sendFlit)
    | refine Only.of_eq (by assumption) ?_ | split | dsimp only

theorem Only.sendUc (h : Only pt z s) (e : LinkEnd) (b : Nat) (slot : Nat) (f : UcFlit) (hp : Allow pt [.links]) :
    Only pt z (State.sendUc s e b slot f) := by
  obtain ⟨q0, -⟩ := hp
  unfold State.sendUc
  repeat' first
    | (with_reducible first | assumption | exact Allow.nil | apply Allow.cons | apply Only.ite
                            | apply Only.setBun | apply Only.sendFlit)
    | refine Only.of_eq (by assumption) ?_ | split | dsimp only
    | (with_reducible apply Only.mk_same) <;> first | with_reducible exact .inr (by assumption) | with_reducible exact .inl rfl | exact .inl rfl | skip

theorem Only.creditChanged (h : Only pt z s) (e : LinkEnd) (hp : Allow pt [.links]) : Only pt z (State.creditChanged s
    e) := by
  obtain ⟨q0, -⟩ := hp
  unfold State.creditChanged
  repeat' first
    | (with_reducible first | assumption | exact Allow.nil | apply Allow.cons | apply Only.ite
                            | apply Only.sbSend)
    | refine Only.of_eq (by assumption) ?_ | split | dsimp only

theorem Only.returnCredit (h : Only pt z s) (e : LinkEnd) (chan : Nat) (hp : Allow pt [.links]) : Only pt z
    (State.returnCredit s e chan) := by
  obtain ⟨q0, -⟩ := hp
  unfold State.returnCredit
  repeat' first
    | (with_reducible first | assumption | exact Allow.nil | apply Allow.cons | apply Only.ite
                            | apply Only.setLink | apply Only.creditChanged)
    | refine Only.of_eq (by assumption) ?_ | split | dsimp only
    | (with_reducible apply Only.mk_same) <;> first | with_reducible exact .inr (by assumption) | with_reducible exact .inl rfl | exact .inl rfl | skip

theorem Only.leaveTransit (h : Only pt z s) (f : UcFlit) (hp : Allow pt [.links]) : Only pt z (State.leaveTransit s f)
    := by
  obtain ⟨q0, -⟩ := hp
  unfold State.leaveTransit
  repeat' first
    | (with_reducible first | assumption | exact Allow.nil | apply Allow.cons | apply Only.ite
                            | apply Only.returnCredit)
    | refine Only.of_eq (by assumption) ?_ | split | dsimp only

theorem Only.sendNew (h : Only pt z s) (e : LinkEnd) (b : Nat) (slot : Nat) (hp : Allow pt [.links]) : Only pt z
    (State.sendNew s e b slot) := by
  obtain ⟨q0, -⟩ := hp
  unfold State.sendNew
  repeat' first
    | (with_reducible first | assumption | exact Allow.nil | apply Allow.cons | apply Only.ite
                            | apply Only.setLink | apply Only.sendUc | apply Only.sendNull
                            | apply Only.leaveTransit)
    | refine Only.of_eq (by assumption) ?_ | split | dsimp only
    | (with_reducible apply Only.mk_same) <;> first | with_reducible exact .inr (by assumption) | with_reducible exact .inl rfl | exact .inl rfl | skip

theorem Only.sendReplay (h : Only pt z s) (e : LinkEnd) (b : Nat) (slot : Nat) (u : TxUc) (hg0 : Allow pt evtRegs)
    (hg1 : Allow pt laneMapRegs) (hg2 : Allow pt laneMapTxRegs) (hg3 : Allow pt trainRegs) (hg4 : Allow pt
    quiesceRegs) (hp : Allow pt [.dies, .links, .ofReg .gtr Reg.GTR_STATUS_LATE, .ofReg .ikl Reg.IKL_UC_ERR_LIMIT,
    .ofReg .trayPort Reg.TRYP_UC_ERR_LIMIT]) : Only pt z (State.sendReplay s e b slot u) := by
  obtain ⟨q0, q1, q2, q3, q4, -⟩ := hp
  unfold State.sendReplay
  repeat' first
    | (with_reducible first | assumption | exact Allow.nil | apply Allow.cons | apply Only.ite
                            | apply Only.setBun | apply Only.sendFlit | apply Only.bumpLf
                            | apply Only.retireBundle)
    | refine Only.of_eq (by assumption) ?_ | split | dsimp only
    | (with_reducible apply Only.mk_same) <;> first | with_reducible exact .inr (by assumption) | with_reducible exact .inl rfl | exact .inl rfl | skip

theorem Only.sendUcSlot (h : Only pt z s) (e : LinkEnd) (b : Nat) (slot : Nat) (hg0 : Allow pt evtRegs) (hg1 : Allow
    pt laneMapRegs) (hg2 : Allow pt laneMapTxRegs) (hg3 : Allow pt trainRegs) (hg4 : Allow pt quiesceRegs) (hp : Allow
    pt [.dies, .links, .ofReg .gtr Reg.GTR_NOTICE_FORWARDED, .ofReg .gtr Reg.GTR_STATUS_LATE,
    .ofReg .ikl Reg.IKL_UC_ERR_LIMIT, .ofReg .trayPort Reg.TRYP_UC_ERR_LIMIT]) : Only pt z (State.sendUcSlot s e b
    slot) := by
  obtain ⟨q0, q1, q2, q3, q4, q5, -⟩ := hp
  unfold State.sendUcSlot
  repeat' first
    | (with_reducible first | assumption | exact Allow.nil | apply Allow.cons | apply Only.ite
                            | apply Only.bumpF | apply Only.setLink | apply Only.sendUc | apply Only.sendReplay
                            | apply Only.sendNew | apply Only.sendNull)
    | refine Only.of_eq (by assumption) ?_ | split | dsimp only
    | (with_reducible apply Only.mk_same) <;> first | with_reducible exact .inr (by assumption) | with_reducible exact .inl rfl | exact .inl rfl | skip

theorem Only.sendSc (h : Only pt z s) (e : LinkEnd) (b : Nat) (tag : Nat) (slot : Nat) (frame : Nat) (hp : Allow pt
    [.links]) : Only pt z (State.sendSc s e b tag slot frame) := by
  obtain ⟨q0, -⟩ := hp
  unfold State.sendSc
  repeat' first
    | (with_reducible first | assumption | exact Allow.nil | apply Allow.cons | apply Only.ite
                            | apply Only.sendNull | apply Only.setLink | apply Only.sendFlit)
    | refine Only.of_eq (by assumption) ?_ | split | dsimp only
    | (with_reducible apply Only.mk_same) <;> first | with_reducible exact .inr (by assumption) | with_reducible exact .inl rfl | exact .inl rfl | skip

theorem Only.sendRepair (h : Only pt z s) (e : LinkEnd) (b : Nat) (slot : Nat) (hg0 : Allow pt evtRegs) (hg1 : Allow
    pt laneMapRegs) (hg2 : Allow pt laneMapTxRegs) (hg3 : Allow pt trainRegs) (hg4 : Allow pt quiesceRegs) (hp : Allow
    pt [.dies, .links, .ofReg .gtr Reg.GTR_NOTICE_FORWARDED, .ofReg .gtr Reg.GTR_STATUS_LATE,
    .ofReg .ikl Reg.IKL_UC_ERR_LIMIT, .ofReg .trayPort Reg.TRYP_UC_ERR_LIMIT]) : Only pt z (State.sendRepair s e b
    slot) := by
  obtain ⟨q0, q1, q2, q3, q4, q5, -⟩ := hp
  unfold State.sendRepair
  repeat' first
    | (with_reducible first | assumption | exact Allow.nil | apply Allow.cons | apply Only.ite
                            | apply Only.setLink | apply Only.sendFlit | apply Only.sendUcSlot)
    | refine Only.of_eq (by assumption) ?_ | split | dsimp only
    | (with_reducible apply Only.mk_same) <;> first | with_reducible exact .inr (by assumption) | with_reducible exact .inl rfl | exact .inl rfl | skip

theorem Only.countCorrected (h : Only pt z s) (e : LinkEnd) (b : Nat) (bad : List Nat) (hg0 : Allow pt evtRegs) (hg1 :
    Allow pt laneMapRegs) (hg2 : Allow pt laneMapTxRegs) (hg3 : Allow pt trainRegs) (hg4 : Allow pt quiesceRegs) (hp :
    Allow pt [.dies, .links, .ofReg .gtr Reg.GTR_STATUS_LATE, .ofReg .ikl Reg.IKL_EYE_WIN_ERR,
    .ofReg .ikl Reg.IKL_FEC_CORR_CORR, .ofReg .trayPort Reg.TRYP_EYE_WIN_ERR]) : Only pt z (State.countCorrected s e b
    bad) := by
  obtain ⟨q0, q1, q2, q3, q4, q5, -⟩ := hp
  unfold State.countCorrected
  repeat' first
    | intro _
    | (with_reducible first | assumption | exact Allow.nil | apply Allow.cons | apply Only.foldl
                            | apply Only.ite | apply Only.countLane | apply Only.bumpF)
    | refine Only.of_eq (by assumption) ?_ | split | dsimp only

theorem Only.goodFlit (h : Only pt z s) (e : LinkEnd) (b : Nat) (bad : List Nat) (hg0 : Allow pt evtRegs) (hg1 : Allow
    pt laneMapRegs) (hg2 : Allow pt laneMapTxRegs) (hg3 : Allow pt trainRegs) (hg4 : Allow pt quiesceRegs) (hp : Allow
    pt [.dies, .links, .ofReg .gtr Reg.GTR_STATUS_LATE, .ofReg .ikl Reg.IKL_EYE_WIN_ERR,
    .ofReg .ikl Reg.IKL_FEC_CORR_CORR, .ofReg .trayPort Reg.TRYP_EYE_WIN_ERR]) : Only pt z (State.goodFlit s e b bad)
    := by
  obtain ⟨q0, q1, q2, q3, q4, q5, -⟩ := hp
  unfold State.goodFlit
  repeat' first
    | (with_reducible first | assumption | exact Allow.nil | apply Allow.cons | apply Only.ite
                            | apply Only.setBun | apply Only.failLane | apply Only.countCorrected)
    | refine Only.of_eq (by assumption) ?_ | split | dsimp only
    | (with_reducible apply Only.mk_same) <;> first | with_reducible exact .inr (by assumption) | with_reducible exact .inl rfl | exact .inl rfl | skip

theorem Only.badFlit (h : Only pt z s) (e : LinkEnd) (b : Nat) (hp : Allow pt [.links,
    .ofReg .ikl Reg.IKL_LINK_ERR_LOCATE, .ofReg .ikl Reg.IKL_LINK_ERR_UNCORR]) : Only pt z (State.badFlit s e b) := by
  obtain ⟨q0, q1, q2, -⟩ := hp
  unfold State.badFlit
  repeat' first
    | (with_reducible first | assumption | exact Allow.nil | apply Allow.cons | apply Only.ite
                            | apply Only.bumpF | apply Only.setBun)
    | refine Only.of_eq (by assumption) ?_ | split | dsimp only
    | (with_reducible apply Only.mk_same) <;> first | with_reducible exact .inr (by assumption) | with_reducible exact .inl rfl | exact .inl rfl | skip

theorem Only.decodeFlit (h : Only pt z s) (e : LinkEnd) (b : Nat) (slot : Nat) (frame : Nat) (lanes : List Nat) (hg0 :
    Allow pt evtRegs) (hg1 : Allow pt laneMapRegs) (hg2 : Allow pt laneMapTxRegs) (hg3 : Allow pt trainRegs) (hg4 :
    Allow pt quiesceRegs) (hp : Allow pt [.dies, .links, .ofReg .gtr Reg.GTR_STATUS_LATE,
    .ofReg .ikl Reg.IKL_EYE_WIN_ERR, .ofReg .ikl Reg.IKL_FEC_CORR_CORR, .ofReg .ikl Reg.IKL_LINK_ERR_LOCATE,
    .ofReg .ikl Reg.IKL_LINK_ERR_UNCORR, .ofReg .mem Reg.MEM_ECC_HBM_CORR, .ofReg .mem Reg.MEM_ECC_SP_CORR,
    .ofReg .trayPort Reg.TRYP_EYE_WIN_ERR, .ofReg .trayPort Reg.TRYP_FEC_CORR_CORR,
    .ofReg .trayPort Reg.TRYP_FEC_CORR_CW, .ofReg .trayPort Reg.TRYP_FEC_UNCORR_CW]) : Only pt z (State.decodeFlit s e
    b slot frame lanes).2 := by
  obtain ⟨q0, q1, q2, q3, q4, q5, q6, q7, q8, q9, q10, q11, q12, -⟩ := hp
  unfold State.decodeFlit
  repeat' first
    | (with_reducible first | assumption | exact Allow.nil | apply Allow.cons | apply Only.ite
                            | apply Only.ite_snd | apply Only.takeField | apply Only.corrected
                            | apply Only.bumpF | apply Only.badFlit | apply Only.goodFlit)
    | refine Only.of_eq (by assumption) ?_ | split | dsimp only
    | (with_reducible apply Only.mk_same) <;> first | with_reducible exact .inr (by assumption) | with_reducible exact .inl rfl | exact .inl rfl | skip

theorem Only.landSc (h : Only pt z s) (e : LinkEnd) (tag : Nat) (pa : Nat) (last : Bool) (p : List Byte) (hp : Allow
    pt [.mem, .poison, .landed]) : Only pt z (State.landSc s e tag pa last p) := by
  obtain ⟨q0, q1, q2, -⟩ := hp
  unfold State.landSc
  repeat' first
    | (with_reducible first | assumption | exact Allow.nil | apply Allow.cons | apply Only.ite
                            | apply Only.wrGranule)
    | refine Only.of_eq (by assumption) ?_ | split | dsimp only
    | (with_reducible apply Only.mk_same) <;> first | with_reducible exact .inr (by assumption) | with_reducible exact .inl rfl | exact .inl rfl | skip

theorem Only.nakSc (h : Only pt z s) (e : LinkEnd) (b : Nat) (slot : Nat) (frame : Nat) (tag : Nat) (hp : Allow pt
    [.links]) : Only pt z (State.nakSc s e b slot frame tag) := by
  obtain ⟨q0, -⟩ := hp
  unfold State.nakSc
  repeat' first
    | (with_reducible first | assumption | exact Allow.nil | apply Allow.cons | apply Only.ite
                            | apply Only.setLink | apply Only.sbSend)
    | refine Only.of_eq (by assumption) ?_ | split | dsimp only
    | (with_reducible apply Only.mk_same) <;> first | with_reducible exact .inr (by assumption) | with_reducible exact .inl rfl | exact .inl rfl | skip

theorem Only.takeResend (h : Only pt z s) (e : LinkEnd) (header : Nat) (p : List Byte) (hp : Allow pt [.links, .mem,
    .poison, .landed, .ofReg .ikl Reg.IKL_SC_ERR_RESENT, .ofReg .trayPort Reg.TRYP_SC_ERR_RESENT]) : Only pt z
    (State.takeResend s e header p) := by
  obtain ⟨q0, q1, q2, q3, q4, q5, -⟩ := hp
  unfold State.takeResend
  repeat' first
    | (with_reducible first | assumption | exact Allow.nil | apply Allow.cons | apply Only.ite
                            | apply Only.bumpLf | apply Only.setLink | apply Only.landSc)
    | refine Only.of_eq (by assumption) ?_ | split | dsimp only
    | (with_reducible apply Only.mk_same) <;> first | with_reducible exact .inr (by assumption) | with_reducible exact .inl rfl | exact .inl rfl | skip

theorem Only.nakUc (h : Only pt z s) (e : LinkEnd) (b : Nat) (hp : Allow pt [.links]) : Only pt z (State.nakUc s e b)
    := by
  obtain ⟨q0, -⟩ := hp
  unfold State.nakUc
  repeat' first
    | (with_reducible first | assumption | exact Allow.nil | apply Allow.cons | apply Only.ite
                            | apply Only.setBun)
    | refine Only.of_eq (by assumption) ?_ | split | dsimp only
    | (with_reducible apply Only.mk_same) <;> first | with_reducible exact .inr (by assumption) | with_reducible exact .inl rfl | exact .inl rfl | skip

theorem Only.passFlit (h : Only pt z s) (e : LinkEnd) (b : Nat) (f : UcFlit) (hp : Allow pt [.links]) : Only pt z
    (State.passFlit s e b f) := by
  obtain ⟨q0, -⟩ := hp
  unfold State.passFlit
  repeat' first
    | (with_reducible first | assumption | exact Allow.nil | apply Allow.cons | apply Only.ite
                            | apply Only.setLink | apply Only.returnCredit)
    | refine Only.of_eq (by assumption) ?_ | split | dsimp only
    | (with_reducible apply Only.mk_same) <;> first | with_reducible exact .inr (by assumption) | with_reducible exact .inl rfl | exact .inl rfl | skip

theorem Only.takeUc (h : Only pt z s) (e : LinkEnd) (b : Nat) (header : Nat) (p : List Byte) (hp : Allow pt [.links])
    : Only pt z (State.takeUc s e b header p) := by
  obtain ⟨q0, -⟩ := hp
  unfold State.takeUc
  repeat' first
    | (with_reducible first | assumption | exact Allow.nil | apply Allow.cons | apply Only.ite
                            | apply Only.setBun | apply Only.passFlit | apply Only.nakUc)
    | refine Only.of_eq (by assumption) ?_ | split | dsimp only
    | (with_reducible apply Only.mk_same) <;> first | with_reducible exact .inr (by assumption) | with_reducible exact .inl rfl | exact .inl rfl | skip

theorem Only.takeScSlot (h : Only pt z s) (e : LinkEnd) (b : Nat) (slot : Nat) (frame : Nat) (tag : Nat) (got : Option
    (Nat × List Byte)) (hp : Allow pt [.links, .mem, .poison, .landed, .ofReg .ikl Reg.IKL_LL_ERR_TAG_MISMATCH,
    .ofReg .trayPort Reg.TRYP_LL_ERR_TAG_MISMATCH]) : Only pt z (State.takeScSlot s e b slot frame tag got) := by
  obtain ⟨q0, q1, q2, q3, q4, q5, -⟩ := hp
  unfold State.takeScSlot
  repeat' first
    | (with_reducible first | assumption | exact Allow.nil | apply Allow.cons | apply Only.ite
                            | apply Only.nakSc | apply Only.landSc | apply Only.bumpLf)
    | refine Only.of_eq (by assumption) ?_ | split | dsimp only
    | (with_reducible apply Only.mk_same) <;> first | with_reducible exact .inr (by assumption) | with_reducible exact .inl rfl | exact .inl rfl | skip

theorem Only.takeUcSlot (h : Only pt z s) (e : LinkEnd) (b : Nat) (repair : Bool) (got : Option (Nat × List Byte)) (hp
    : Allow pt [.links, .mem, .poison, .landed, .ofReg .ikl Reg.IKL_SC_ERR_RESENT,
    .ofReg .trayPort Reg.TRYP_SC_ERR_RESENT]) : Only pt z (State.takeUcSlot s e b repair got) := by
  obtain ⟨q0, q1, q2, q3, q4, q5, -⟩ := hp
  unfold State.takeUcSlot
  repeat' first
    | (with_reducible first | assumption | exact Allow.nil | apply Allow.cons | apply Only.ite
                            | apply Only.nakUc | apply Only.takeResend | apply Only.takeUc)
    | refine Only.of_eq (by assumption) ?_ | split | dsimp only
    | (with_reducible apply Only.mk_same) <;> first | with_reducible exact .inr (by assumption) | with_reducible exact .inl rfl | exact .inl rfl | skip

theorem Only.takeCal (h : Only pt z s) (e : LinkEnd) (b : Nat) (slot : Nat) (frame : Nat) (lanes : List Nat) (hp :
    Allow pt [.ofReg .gtr Reg.GTR_MARGIN_MINUS, .ofReg .gtr Reg.GTR_MARGIN_PLUS]) : Only pt z (State.takeCal s e b
    slot frame lanes) := by
  obtain ⟨q0, q1, -⟩ := hp
  unfold State.takeCal
  repeat' first
    | (with_reducible first | assumption | exact Allow.nil | apply Allow.cons | apply Only.ite
                            | apply Only.bumpF)
    | refine Only.of_eq (by assumption) ?_ | split | dsimp only
    | (with_reducible apply Only.mk_same) <;> first | with_reducible exact .inr (by assumption) | with_reducible exact .inl rfl | exact .inl rfl | skip

theorem Only.takeSlotFlit (h : Only pt z s) (e : LinkEnd) (b : Nat) (slot : Nat) (frame : Nat) (m : Mark) (got :
    Option (Nat × List Byte)) (hp : Allow pt [.links, .mem, .poison, .landed, .ofReg .ikl Reg.IKL_LL_ERR_BAD_CLASS,
    .ofReg .ikl Reg.IKL_LL_ERR_TAG_MISMATCH, .ofReg .ikl Reg.IKL_SC_ERR_RESENT,
    .ofReg .trayPort Reg.TRYP_LL_ERR_BAD_CLASS, .ofReg .trayPort Reg.TRYP_LL_ERR_TAG_MISMATCH,
    .ofReg .trayPort Reg.TRYP_SC_ERR_RESENT]) : Only pt z (State.takeSlotFlit s e b slot frame m got) := by
  obtain ⟨q0, q1, q2, q3, q4, q5, q6, q7, q8, q9, -⟩ := hp
  unfold State.takeSlotFlit
  repeat' first
    | (with_reducible first | assumption | exact Allow.nil | apply Allow.cons | apply Only.ite
                            | apply Only.bumpLf | apply Only.takeScSlot | apply Only.takeUcSlot)
    | refine Only.of_eq (by assumption) ?_ | split | dsimp only
    | (with_reducible apply Only.mk_same) <;> first | with_reducible exact .inr (by assumption) | with_reducible exact .inl rfl | exact .inl rfl | skip

theorem Only.scFail (h : Only pt z s) (e : LinkEnd) (pa : Nat) (ctx : Nat) (hg0 : Allow pt evtRegs) (hg1 : Allow pt
    ctxFaultRegs) (hp : Allow pt [.dies, .poison, .ctxs, .recov, .ofReg .eng Reg.ENG_CTX_STATE_STATE,
    .ofReg .ikl Reg.IKL_SC_ERR_DOUBLE, .ofReg .mem Reg.MEM_POISON_MADE, .ofReg .rcv Reg.RCV_HELD,
    .ofReg .trayPort Reg.TRYP_SC_ERR_DOUBLE]) : Only pt z (State.scFail s e pa ctx) := by
  obtain ⟨q0, q1, q2, q3, q4, q5, q6, q7, q8, -⟩ := hp
  unfold State.scFail
  repeat' first
    | (with_reducible first | assumption | exact Allow.nil | apply Allow.cons | apply Only.ite
                            | apply Only.setPoison | apply Only.bumpLf | apply Only.logLink | apply Only.bumpF
                            | apply Only.ctxFault)
    | refine Only.of_eq (by assumption) ?_ | split | dsimp only
    | (with_reducible apply Only.mk_same) <;> first | with_reducible exact .inr (by assumption) | with_reducible exact .inl rfl | exact .inl rfl | skip

theorem Only.startReplay (h : Only pt z s) (e : LinkEnd) (b : Nat) (timeout : Bool) (hp : Allow pt [.links,
    .ofReg .ikl Reg.IKL_UC_ERR_REPLAY, .ofReg .ikl Reg.IKL_UC_ERR_TIMEOUT, .ofReg .trayPort Reg.TRYP_UC_ERR_REPLAY,
    .ofReg .trayPort Reg.TRYP_UC_ERR_TIMEOUT]) : Only pt z (State.startReplay s e b timeout) := by
  obtain ⟨q0, q1, q2, q3, q4, -⟩ := hp
  unfold State.startReplay
  repeat' first
    | (with_reducible first | assumption | exact Allow.nil | apply Allow.cons | apply Only.ite
                            | apply Only.setBun | apply Only.bumpLf)
    | refine Only.of_eq (by assumption) ?_ | split | dsimp only
    | (with_reducible apply Only.mk_same) <;> first | with_reducible exact .inr (by assumption) | with_reducible exact .inl rfl | exact .inl rfl | skip

theorem Only.takeAck (h : Only pt z s) (e : LinkEnd) (b : Nat) (ack : Nat) (nak : Bool) (hp : Allow pt [.links,
    .ofReg .ikl Reg.IKL_UC_ERR_REPLAY, .ofReg .ikl Reg.IKL_UC_ERR_TIMEOUT, .ofReg .trayPort Reg.TRYP_UC_ERR_REPLAY,
    .ofReg .trayPort Reg.TRYP_UC_ERR_TIMEOUT]) : Only pt z (State.takeAck s e b ack nak) := by
  obtain ⟨q0, q1, q2, q3, q4, -⟩ := hp
  unfold State.takeAck
  repeat' first
    | (with_reducible first | assumption | exact Allow.nil | apply Allow.cons | apply Only.ite
                            | apply Only.setBun | apply Only.startReplay)
    | refine Only.of_eq (by assumption) ?_ | split | dsimp only
    | (with_reducible apply Only.mk_same) <;> first | with_reducible exact .inr (by assumption) | with_reducible exact .inl rfl | exact .inl rfl | skip

theorem Only.takeAckOf (h : Only pt z s) (e : LinkEnd) (b : Nat) (ack : Nat) (valid : Bool) (nak : Bool) (hp : Allow
    pt [.links, .ofReg .ikl Reg.IKL_UC_ERR_REPLAY, .ofReg .ikl Reg.IKL_UC_ERR_TIMEOUT,
    .ofReg .trayPort Reg.TRYP_UC_ERR_REPLAY, .ofReg .trayPort Reg.TRYP_UC_ERR_TIMEOUT]) : Only pt z (State.takeAckOf s
    e b ack valid nak) := by
  obtain ⟨q0, q1, q2, q3, q4, -⟩ := hp
  unfold State.takeAckOf
  repeat' first
    | (with_reducible first | assumption | exact Allow.nil | apply Allow.cons | apply Only.ite
                            | apply Only.takeAck | apply Only.setBun)
    | refine Only.of_eq (by assumption) ?_ | split | dsimp only
    | (with_reducible apply Only.mk_same) <;> first | with_reducible exact .inr (by assumption) | with_reducible exact .inl rfl | exact .inl rfl | skip

end Sys2Proof.Machine
end

