-- ==== Sys2Proof/Laws/OnlyDie.lean ====
section
/-! SUPPORT. `Only` for the operations of the tray, the domains, power, memory messages, engines and recovery:
which parts of the state each changes. -/

namespace Sys2Proof.Machine

variable {pt : Field → Bool} {z s t : State}

theorem Only.setPf (h : Only pt z s) (n : Fin 8) (f : Fld) (v : Nat) (hp : Allow pt [.ofReg .trayPort f]) : Only pt z
    (State.setPf s n f v) := by
  obtain ⟨q0, -⟩ := hp
  unfold State.setPf
  repeat' first
    | (with_reducible first | assumption | exact Allow.nil | apply Allow.cons | apply Only.ite
                            | apply Only.setF)
    | refine Only.of_eq (by assumption) ?_ | split | dsimp only

theorem Only.blockStep (h : Only pt z s) (n : Fin 8) (ack : Bool) (locked : Bool) (hg0 : Allow pt evtRegs) (hg1 :
    Allow pt trainRegs) (hg2 : Allow pt coefRegs) (hp : Allow pt [.free, .dies, .links,
    .ofReg .cfg Reg.CFG_PAD_STATUS_ZREF_BAD, .ofReg .ikl Reg.IKL_CAL_STATUS_DONE, .ofReg .ikl Reg.IKL_COEF_DELAY,
    .ofReg .ikl Reg.IKL_COEF_THRESH, .ofReg .ikl Reg.IKL_COEF_VALID, .ofReg .ikl Reg.IKL_EYE_LB,
    .ofReg .trayPort Reg.TRYP_RETRY_ATTEMPTS]) : Only pt z (State.blockStep s n ack locked) := by
  obtain ⟨q0, q1, q2, q3, q4, q5, q6, q7, q8, q9, -⟩ := hp
  unfold State.blockStep
  repeat' first
    | (with_reducible first | assumption | exact Allow.nil | apply Allow.cons | apply Only.ite
                            | apply Only.setLink | apply Only.bumpF | apply Only.toSt | apply Only.enterCalib)
    | refine Only.of_eq (by assumption) ?_ | split | dsimp only
    | (with_reducible apply Only.mk_same) <;> first | with_reducible exact .inr (by assumption) | with_reducible exact .inl rfl | exact .inl rfl | skip

theorem Only.dropRegs (h : Only pt z s) (k : Domain) (hp : Allow pt [.resv, .shadow, .inForce]) (hr : AnyReg pt) :
    Only pt z (State.dropRegs s k) := by
  obtain ⟨q0, q1, q2, -⟩ := hp
  unfold State.dropRegs
  repeat' first
    | (with_reducible first | assumption | exact Allow.nil | apply Only.ite)
    | exact hr _ | exact hr.group rfl | with_reducible apply Allow.cons | refine Only.of_eq (by assumption) ?_ | split | dsimp only
    | (with_reducible apply Only.mk_same) <;> first | with_reducible exact .inr (by assumption) | with_reducible exact .inl rfl | exact .inl rfl | skip

theorem Only.dropParts (h : Only pt z s) (k : Domain) (hp : Allow pt [.dies, .tables, .ctxs, .engs, .queues, .streams,
    .issued, .accepted, .failed, .seenIssued, .seenFailed, .nextTag, .fences, .rdReqs, .hosts, .ptp, .fus, .ldg,
    .boot, .tshadow, .landed, .recov]) : Only pt z (State.dropParts s k) := by
  obtain ⟨q0, q1, q2, q3, q4, q5, q6, q7, q8, q9, q10, q11, q12, q13, q14, q15, q16, q17, q18, q19, q20, q21, -⟩ := hp
  unfold State.dropParts
  repeat' first
    | (with_reducible first | assumption | exact Allow.nil | apply Allow.cons | apply Only.ite)
    | refine Only.of_eq (by assumption) ?_ | split | dsimp only
    | (with_reducible apply Only.mk_same) <;> first | with_reducible exact .inr (by assumption) | with_reducible exact .inl rfl | exact .inl rfl | skip

theorem Only.domainOff (h : Only pt z s) (k : Domain) (hp : Allow pt [.resv, .shadow, .inForce, .dies, .links,
    .tables, .mem, .poison, .ctxs, .engs, .queues, .streams, .issued, .accepted, .failed, .seenIssued, .seenFailed,
    .nextTag, .fences, .rdReqs, .hosts, .ptp, .fus, .ldg, .boot, .tshadow, .landed, .recov]) (hr : AnyReg pt) : Only
    pt z (State.domainOff s k) := by
  obtain ⟨q0, q1, q2, q3, q4, q5, q6, q7, q8, q9, q10, q11, q12, q13, q14, q15, q16, q17, q18, q19, q20, q21, q22, q23, q24, q25, q26, q27, -⟩ := hp
  unfold State.domainOff
  repeat' first
    | intro _
    | (with_reducible first | assumption | exact Allow.nil | apply Only.foldl | apply Only.ite
                            | apply Only.dropRegs | apply Only.dropParts | apply Only.setLink | apply Only.setF)
    | exact hr _ | exact hr.group rfl | with_reducible apply Allow.cons | refine Only.of_eq (by assumption) ?_ | split | dsimp only
    | (with_reducible apply Only.mk_same) <;> first | with_reducible exact .inr (by assumption) | with_reducible exact .inl rfl | exact .inl rfl | skip

theorem Only.showLedgerOnly (h : Only pt z s)  (hp : Allow pt [.ofReg .pwr Reg.PWR_STATUS_LEDGER_ONLY]) : Only pt z
    (State.showLedgerOnly s) := by
  obtain ⟨q0, -⟩ := hp
  unfold State.showLedgerOnly
  repeat' first
    | (with_reducible first | assumption | exact Allow.nil | apply Allow.cons | apply Only.ite
                            | apply Only.setF)
    | refine Only.of_eq (by assumption) ?_ | split | dsimp only

theorem Only.allOffBut (h : Only pt z s) (keep : List Domain) (hp : Allow pt [.resv, .shadow, .inForce, .dies, .links,
    .tables, .mem, .poison, .ctxs, .engs, .queues, .streams, .issued, .accepted, .failed, .seenIssued, .seenFailed,
    .nextTag, .fences, .rdReqs, .hosts, .ptp, .fus, .ldg, .boot, .tshadow, .landed, .recov]) (hr : AnyReg pt) : Only
    pt z (State.allOffBut s keep) := by
  obtain ⟨q0, q1, q2, q3, q4, q5, q6, q7, q8, q9, q10, q11, q12, q13, q14, q15, q16, q17, q18, q19, q20, q21, q22, q23, q24, q25, q26, q27, -⟩ := hp
  unfold State.allOffBut
  repeat' first
    | intro _
    | (with_reducible first | assumption | exact Allow.nil | apply Only.foldl | apply Only.ite
                            | apply Only.domainOff | apply Only.showLedgerOnly)
    | exact hr _ | exact hr.group rfl | with_reducible apply Allow.cons | refine Only.of_eq (by assumption) ?_ | split | dsimp only
    | (with_reducible apply Only.mk_same) <;> first | with_reducible exact .inr (by assumption) | with_reducible exact .inl rfl | exact .inl rfl | skip

theorem Only.showReserve (h : Only pt z s)  (hp : Allow pt [.ofReg .pwr Reg.PWR_RESERVE,
    .ofReg .pwr Reg.PWR_RESERVE_FLOORS]) : Only pt z (State.showReserve s) := by
  obtain ⟨q0, q1, -⟩ := hp
  unfold State.showReserve
  repeat' first
    | (with_reducible first | assumption | exact Allow.nil | apply Allow.cons | apply Only.ite
                            | apply Only.setF)
    | refine Only.of_eq (by assumption) ?_ | split | dsimp only

theorem Only.setPow (h : Only pt z s) (d : Die) (p : PowerSt) (hp : Allow pt [.dies]) : Only pt z (State.setPow s d p)
    := by
  obtain ⟨q0, -⟩ := hp
  unfold State.setPow
  repeat' first
    | (with_reducible first | assumption | exact Allow.nil | apply Allow.cons | apply Only.ite
                            | apply Only.setDie)
    | refine Only.of_eq (by assumption) ?_ | split | dsimp only
    | (with_reducible apply Only.mk_same) <;> first | with_reducible exact .inr (by assumption) | with_reducible exact .inl rfl | exact .inl rfl | skip

theorem Only.showHeld (h : Only pt z s) (d : Die) (hp : Allow pt [.ofReg .pwr Reg.PWR_DIE_A_HELD]) : Only pt z
    (State.showHeld s d) := by
  obtain ⟨q0, -⟩ := hp
  unfold State.showHeld
  repeat' first
    | (with_reducible first | assumption | exact Allow.nil | apply Allow.cons | apply Only.ite
                            | apply Only.setF)
    | refine Only.of_eq (by assumption) ?_ | split | dsimp only

theorem Only.refusePwr (h : Only pt z s) (rc : Nat) (hg0 : Allow pt evtRegs) (hg1 : Allow pt refusalRegs) (hp : Allow
    pt [.dies, .ofReg .pwr Reg.PWR_STATUS_REASON, .ofReg .pwr Reg.PWR_STATUS_REFUSED]) : Only pt z (State.refusePwr s
    rc) := by
  obtain ⟨q0, q1, q2, -⟩ := hp
  unfold State.refusePwr
  repeat' first
    | (with_reducible first | assumption | exact Allow.nil | apply Allow.cons | apply Only.ite
                            | apply Only.refuse)
    | (show pt (Field.ofReg _ _) = true; assumption) | refine Only.of_eq (by assumption) ?_ | split | dsimp only

theorem Only.budgetWrite (h : Only pt z s) (w : Nat) (hg0 : Allow pt evtRegs) (hg1 : Allow pt refusalRegs) (hp : Allow
    pt [.dies, .ofReg .pwr Reg.PWR_BUDGET, .ofReg .pwr Reg.PWR_STATUS_REASON, .ofReg .pwr Reg.PWR_STATUS_REFUSED]) :
    Only pt z (State.budgetWrite s w) := by
  obtain ⟨q0, q1, q2, q3, -⟩ := hp
  unfold State.budgetWrite
  repeat' first
    | (with_reducible first | assumption | exact Allow.nil | apply Allow.cons | apply Only.ite | apply Only.setF
                            | apply Only.refusePwr)
    | refine Only.of_eq (by assumption) ?_ | split | dsimp only

theorem Only.takeReport (h : Only pt z s) (code : Nat) (r : Report) (hp : Allow pt [.reports,
    .ofReg .pwr Reg.PWR_DIE_B_DEMAND, .ofReg .pwr Reg.PWR_DIE_B_MEAS]) : Only pt z (State.takeReport s code r) := by
  obtain ⟨q0, q1, q2, -⟩ := hp
  unfold State.takeReport
  repeat' first
    | (with_reducible first | assumption | exact Allow.nil | apply Allow.cons | apply Only.ite
                            | apply Only.setF)
    | refine Only.of_eq (by assumption) ?_ | split | dsimp only
    | (with_reducible apply Only.mk_same) <;> first | with_reducible exact .inr (by assumption) | with_reducible exact .inl rfl | exact .inl rfl | skip

theorem Only.takeBudget (h : Only pt z s) (e : LinkEnd) (box : Nat) (hp : Allow pt [.dies, .links, .reports,
    .ofReg .pwr Reg.PWR_DIE_B_DEMAND, .ofReg .pwr Reg.PWR_DIE_B_MEAS]) : Only pt z (State.takeBudget s e box) := by
  obtain ⟨q0, q1, q2, q3, q4, -⟩ := hp
  unfold State.takeBudget
  repeat' first
    | (with_reducible first | assumption | exact Allow.nil | apply Allow.cons | apply Only.ite
                            | apply Only.sbSend | apply Only.takeReport | apply Only.setPow)
    | refine Only.of_eq (by assumption) ?_ | split | dsimp only
    | (with_reducible apply Only.mk_same) <;> first | with_reducible exact .inr (by assumption) | with_reducible exact .inl rfl | exact .inl rfl | skip

theorem Only.allocateNow (h : Only pt z s) (n : Nat) (hp : Allow pt [.dies, .grants,
    .ofReg .pwr Reg.PWR_BUDGET_IN_EFFECT]) : Only pt z (State.allocateNow s n) := by
  obtain ⟨q0, q1, q2, -⟩ := hp
  unfold State.allocateNow
  repeat' first
    | (with_reducible first | assumption | exact Allow.nil | apply Allow.cons | apply Only.ite | apply Only.setF
                            | apply Only.setPow)
    | refine Only.of_eq (by assumption) ?_ | split | dsimp only
    | (with_reducible apply Only.mk_same) <;> first | with_reducible exact .inr (by assumption) | with_reducible exact .inl rfl | exact .inl rfl | skip

theorem Only.sendGrants (h : Only pt z s) (n : Nat) (hp : Allow pt [.links]) : Only pt z (State.sendGrants s n) := by
  obtain ⟨q0, -⟩ := hp
  unfold State.sendGrants
  repeat' first
    | intro _
    | (with_reducible first | assumption | exact Allow.nil | apply Allow.cons | apply Only.foldl
                            | apply Only.ite | apply Only.sbSend)
    | refine Only.of_eq (by assumption) ?_ | split | dsimp only
    | (with_reducible apply Only.mk_same) <;> first | with_reducible exact .inr (by assumption) | with_reducible exact .inl rfl | exact .inl rfl | skip

theorem Only.withdraw (h : Only pt z s) (d : Die) (r : AdmReq) (hg0 : Allow pt evtRegs) (hp : Allow pt [.dies,
    .recals, .ofReg .eng Reg.ENG_CTX_STATE_STATE, .ofReg .ikl Reg.IKL_RECAL_STATE,
    .ofReg .pwr Reg.PWR_COUNT_WAIT_FAIL]) : Only pt z (State.withdraw s d r) := by
  obtain ⟨q0, q1, q2, q3, q4, -⟩ := hp
  unfold State.withdraw
  repeat' first
    | (with_reducible first | assumption | exact Allow.nil | apply Allow.cons | apply Only.ite
                            | apply Only.bumpF | apply Only.log | apply Only.setCtxState | apply Only.logLink
                            | apply Only.setF)
    | refine Only.of_eq (by assumption) ?_ | split | dsimp only
    | (with_reducible apply Only.mk_same) <;> first | with_reducible exact .inr (by assumption) | with_reducible exact .inl rfl | exact .inl rfl | skip

theorem Only.askToken (h : Only pt z s) (d : Die) (r : AdmReq) (hg0 : Allow pt evtRegs) (hp : Allow pt [.dies,
    .recals, .ofReg .eng Reg.ENG_CTX_STATE_STATE, .ofReg .ikl Reg.IKL_RECAL_STATE,
    .ofReg .pwr Reg.PWR_COUNT_WAIT_FAIL]) : Only pt z (State.askToken s d r) := by
  obtain ⟨q0, q1, q2, q3, q4, -⟩ := hp
  unfold State.askToken
  repeat' first
    | (with_reducible first | assumption | exact Allow.nil | apply Allow.cons | apply Only.ite
                            | apply Only.withdraw | apply Only.setPow)
    | refine Only.of_eq (by assumption) ?_ | split | dsimp only
    | (with_reducible apply Only.mk_same) <;> first | with_reducible exact .inr (by assumption) | with_reducible exact .inl rfl | exact .inl rfl | skip

theorem Only.returnToken (h : Only pt z s) (d : Die) (kind : Nat) (ctx : Nat) (who : Nat) (hp : Allow pt [.dies,
    .ofReg .pwr Reg.PWR_DIE_A_HELD]) : Only pt z (State.returnToken s d kind ctx who) := by
  obtain ⟨q0, q1, -⟩ := hp
  unfold State.returnToken
  repeat' first
    | (with_reducible first | assumption | exact Allow.nil | apply Allow.cons | apply Only.ite
                            | apply Only.setPow | apply Only.showHeld)
    | refine Only.of_eq (by assumption) ?_ | split | dsimp only
    | (with_reducible apply Only.mk_same) <;> first | with_reducible exact .inr (by assumption) | with_reducible exact .inl rfl | exact .inl rfl | skip

theorem Only.showTemp (h : Only pt z s) (d : Die) (tj : Int) (h0 : Int) (h1 : Int) (hp : Allow pt
    [.ofReg .thm Reg.THM_TEMP_HBM0, .ofReg .thm Reg.THM_TEMP_HBM1, .ofReg .thm Reg.THM_TEMP_TJ,
    .ofReg .thm Reg.THM_TEMP_TJ_MAX]) : Only pt z (State.showTemp s d tj h0 h1) := by
  obtain ⟨q0, q1, q2, q3, -⟩ := hp
  unfold State.showTemp
  repeat' first
    | (with_reducible first | assumption | exact Allow.nil | apply Allow.cons | apply Only.ite
                            | apply Only.setF)
    | refine Only.of_eq (by assumption) ?_ | split | dsimp only

theorem Only.setThrot (h : Only pt z s) (d : Die) (on : Bool) (hg0 : Allow pt evtRegs) (hp : Allow pt [.dies,
    .ofReg .thm Reg.THM_STATUS_THROT]) : Only pt z (State.setThrot s d on) := by
  obtain ⟨q0, q1, -⟩ := hp
  unfold State.setThrot
  repeat' first
    | (with_reducible first | assumption | exact Allow.nil | apply Allow.cons | apply Only.ite | apply Only.setF
                            | apply Only.log)
    | refine Only.of_eq (by assumption) ?_ | split | dsimp only

theorem Only.trip (h : Only pt z s) (d : Die) (hp : Allow pt [.resv, .shadow, .inForce, .dies, .links, .tables, .mem,
    .poison, .ctxs, .engs, .queues, .streams, .issued, .accepted, .failed, .seenIssued, .seenFailed, .nextTag,
    .fences, .rdReqs, .hosts, .ptp, .fus, .ldg, .boot, .tshadow, .landed, .recov]) (hr : AnyReg pt) : Only pt z
    (State.trip s d) := by
  obtain ⟨q0, q1, q2, q3, q4, q5, q6, q7, q8, q9, q10, q11, q12, q13, q14, q15, q16, q17, q18, q19, q20, q21, q22, q23, q24, q25, q26, q27, -⟩ := hp
  unfold State.trip
  repeat' first
    | (with_reducible first | assumption | exact Allow.nil | apply Only.ite | apply Only.setF | apply Only.log
                            | apply Only.domainOff)
    | exact hr _ | exact hr.group rfl | with_reducible apply Allow.cons | refine Only.of_eq (by assumption) ?_ | split | dsimp only

theorem Only.endStale (h : Only pt z s) (d : Die) (kind : Nat) (hp : Allow pt [.dies,
    .ofReg .thm Reg.THM_STATUS_STALE]) : Only pt z (State.endStale s d kind) := by
  obtain ⟨q0, q1, -⟩ := hp
  unfold State.endStale
  repeat' first
    | (with_reducible first | assumption | exact Allow.nil | apply Allow.cons | apply Only.ite
                            | apply Only.setPow | apply Only.setF)
    | refine Only.of_eq (by assumption) ?_ | split | dsimp only
    | (with_reducible apply Only.mk_same) <;> first | with_reducible exact .inr (by assumption) | with_reducible exact .inl rfl | exact .inl rfl | skip

theorem Only.countAccepted (h : Only pt z s) (d : Die) (o : Nat) (hp : Allow pt [.accepted]) : Only pt z
    (State.countAccepted s d o) := by
  obtain ⟨q0, -⟩ := hp
  unfold State.countAccepted
  repeat' first
    | (with_reducible first | assumption | exact Allow.nil | apply Allow.cons | apply Only.ite)
    | refine Only.of_eq (by assumption) ?_ | split | dsimp only
    | (with_reducible apply Only.mk_same) <;> first | with_reducible exact .inr (by assumption) | with_reducible exact .inl rfl | exact .inl rfl | skip

theorem Only.countFailed (h : Only pt z s) (d : Die) (o : Nat) (hp : Allow pt [.failed]) : Only pt z
    (State.countFailed s d o) := by
  obtain ⟨q0, -⟩ := hp
  unfold State.countFailed
  repeat' first
    | (with_reducible first | assumption | exact Allow.nil | apply Allow.cons | apply Only.ite)
    | refine Only.of_eq (by assumption) ?_ | split | dsimp only
    | (with_reducible apply Only.mk_same) <;> first | with_reducible exact .inr (by assumption) | with_reducible exact .inl rfl | exact .inl rfl | skip

theorem Only.makePoison (h : Only pt z s) (d : Die) (pa : Nat) (hp : Allow pt [.poison,
    .ofReg .mem Reg.MEM_POISON_MADE]) : Only pt z (State.makePoison s d pa) := by
  obtain ⟨q0, q1, -⟩ := hp
  unfold State.makePoison
  repeat' first
    | (with_reducible first | assumption | exact Allow.nil | apply Allow.cons | apply Only.ite
                            | apply Only.setPoison | apply Only.bumpF)
    | refine Only.of_eq (by assumption) ?_ | split | dsimp only
    | (with_reducible apply Only.mk_same) <;> first | with_reducible exact .inr (by assumption) | with_reducible exact .inl rfl | exact .inl rfl | skip

theorem Only.uncorrectable (h : Only pt z s) (d : Die) (pa : Nat) (hg0 : Allow pt evtRegs) (hg1 : Allow pt lastUeRegs)
    (hp : Allow pt [.dies, .poison, .ofReg .mem Reg.MEM_POISON_MADE]) : Only pt z (State.uncorrectable s d pa) := by
  obtain ⟨g10, g11, -⟩ := id hg1
  obtain ⟨q0, q1, q2, -⟩ := hp
  unfold State.uncorrectable
  repeat' first
    | (with_reducible first | assumption | exact Allow.nil | apply Allow.cons | apply Only.ite
                            | apply Only.makePoison | apply Only.log | apply Only.set64)
    | refine Only.of_eq (by assumption) ?_ | split | dsimp only
    | (with_reducible apply Only.mk_same) <;> first | with_reducible exact .inr (by assumption) | with_reducible exact .inl rfl | exact .inl rfl | skip

theorem Only.corrected (h : Only pt z s) (d : Die) (hbm : Bool) (n : Nat) (hp : Allow pt
    [.ofReg .mem Reg.MEM_ECC_HBM_CORR, .ofReg .mem Reg.MEM_ECC_SP_CORR]) : Only pt z (State.corrected s d hbm n) := by
  obtain ⟨q0, q1, -⟩ := hp
  unfold State.corrected
  repeat' first
    | (with_reducible first | assumption | exact Allow.nil | apply Allow.cons | apply Only.ite
                            | apply Only.addF)
    | refine Only.of_eq (by assumption) ?_ | split | dsimp only
    | (with_reducible apply Only.mk_same) <;> first | with_reducible exact .inr (by assumption) | with_reducible exact .inl rfl | exact .inl rfl | skip

theorem Only.servedPoison (h : Only pt z s) (d : Die) (ctx : Nat) (n : Nat) (hg0 : Allow pt evtRegs) (hp : Allow pt
    [.dies, .ofReg .mem Reg.MEM_POISON_READS]) : Only pt z (State.servedPoison s d ctx n) := by
  obtain ⟨q0, q1, -⟩ := hp
  unfold State.servedPoison
  repeat' first
    | (with_reducible first | assumption | exact Allow.nil | apply Allow.cons | apply Only.ite | apply Only.log
                            | apply Only.bumpF)
    | refine Only.of_eq (by assumption) ?_ | split | dsimp only
    | (with_reducible apply Only.mk_same) <;> first | with_reducible exact .inr (by assumption) | with_reducible exact .inl rfl | exact .inl rfl | skip

theorem Only.mergeGranule (h : Only pt z s) (pa : Nat) (l : List Byte) (hp : Allow pt [.mem, .poison]) : Only pt z
    (State.mergeGranule s pa l).2 := by
  obtain ⟨q0, q1, -⟩ := hp
  unfold State.mergeGranule
  repeat' first
    | (with_reducible first | assumption | exact Allow.nil | apply Allow.cons | apply Only.ite
                            | apply Only.ite_snd | apply Only.wrGranule | apply Only.wrBytes)
    | refine Only.of_eq (by assumption) ?_ | split | dsimp only

theorem Only.localWrite (h : Only pt z s) (d : Die) (pa : Nat) (l : List Byte) (poison : Bool) (hp : Allow pt [.mem,
    .poison, .ofReg .mem Reg.MEM_POISON_MADE]) : Only pt z (State.localWrite s d pa l poison) := by
  obtain ⟨q0, q1, q2, -⟩ := hp
  unfold State.localWrite
  repeat' first
    | intro _
    | (with_reducible first | assumption | exact Allow.nil | apply Allow.cons | apply Only.foldl
                            | apply Only.ite | apply Only.mergeGranule | apply Only.makePoison)
    | refine Only.of_eq (by assumption) ?_ | split | dsimp only

theorem Only.signal (h : Only pt z s) (d : Die) (n : Nat) (v : Nat) (hp : Allow pt [.ofReg .syn Reg.SYN_CTR_VALUE]) :
    Only pt z (State.signal s d n v) := by
  obtain ⟨q0, -⟩ := hp
  unfold State.signal
  repeat' first
    | (with_reducible first | assumption | exact Allow.nil | apply Allow.cons | apply Only.ite
                            | apply Only.setF)
    | refine Only.of_eq (by assumption) ?_ | split | dsimp only

theorem Only.flipEpoch (h : Only pt z s) (d : Die) (ctx : Nat) (host : Bool) (hp : Allow pt [.hostEpoch,
    .ofReg .mem Reg.MEM_PWSTAT_EPOCH]) : Only pt z (State.flipEpoch s d ctx host) := by
  obtain ⟨q0, q1, -⟩ := hp
  unfold State.flipEpoch
  repeat' first
    | (with_reducible first | assumption | exact Allow.nil | apply Allow.cons | apply Only.ite
                            | apply Only.setF)
    | refine Only.of_eq (by assumption) ?_ | split | dsimp only
    | (with_reducible apply Only.mk_same) <;> first | with_reducible exact .inr (by assumption) | with_reducible exact .inl rfl | exact .inl rfl | skip

theorem Only.takeTag (h : Only pt z s) (o : Nat) (hp : Allow pt [.nextTag]) : Only pt z (State.takeTag s o).2 := by
  obtain ⟨q0, -⟩ := hp
  unfold State.takeTag
  repeat' first
    | (with_reducible first | assumption | exact Allow.nil | apply Allow.cons | apply Only.ite
                            | apply Only.ite_snd)
    | refine Only.of_eq (by assumption) ?_ | split | dsimp only
    | (with_reducible apply Only.mk_same) <;> first | with_reducible exact .inr (by assumption) | with_reducible exact .inl rfl | exact .inl rfl | skip

theorem Only.takePwFail (h : Only pt z s) (d : Die) (p : List Byte) (full : Bool) (hg0 : Allow pt firstFailRegs) :
    Only pt z (State.takePwFail s d p full) := by
  obtain ⟨g00, g01, g02, g03, g04, g05, -⟩ := id hg0
  unfold State.takePwFail
  repeat' first
    | (with_reducible first | assumption | exact Allow.nil | apply Allow.cons | apply Only.ite
                            | apply Only.setF)
    | refine Only.of_eq (by assumption) ?_ | split | dsimp only
    | (with_reducible apply Only.mk_same) <;> first | with_reducible exact .inr (by assumption) | with_reducible exact .inl rfl | exact .inl rfl | skip

theorem Only.pwFailed (h : Only pt z s) (d : Die) (p : List Byte) (cause : Nat) (n : Nat) (pa : Nat) (hg0 : Allow pt
    evtRegs) (hg1 : Allow pt firstFailRegs) (hp : Allow pt [.dies, .links, .failed]) : Only pt z (State.pwFailed s d p
    cause n pa) := by
  obtain ⟨q0, q1, q2, -⟩ := hp
  unfold State.pwFailed
  repeat' first
    | (with_reducible first | assumption | exact Allow.nil | apply Allow.cons | apply Only.ite | apply Only.log
                            | apply Only.countFailed | apply Only.takePwFail | apply Only.sendMsg)
    | refine Only.of_eq (by assumption) ?_ | split | dsimp only
    | (with_reducible apply Only.mk_same) <;> first | with_reducible exact .inr (by assumption) | with_reducible exact .inl rfl | exact .inl rfl | skip

theorem Only.writeOne (h : Only pt z s) (d : Die) (pa : Nat) (l : List Byte) (bad : Bool) (dead : Bool) (hg0 : Allow
    pt evtRegs) (hg1 : Allow pt lastUeRegs) (hp : Allow pt [.dies, .mem, .poison, .ofReg .mem Reg.MEM_POISON_MADE]) :
    Only pt z (State.writeOne s d pa l bad dead).2 := by
  obtain ⟨q0, q1, q2, q3, -⟩ := hp
  unfold State.writeOne
  repeat' first
    | (with_reducible first | assumption | exact Allow.nil | apply Allow.cons | apply Only.ite
                            | apply Only.ite_snd | apply Only.makePoison | apply Only.uncorrectable
                            | apply Only.mergeGranule)
    | refine Only.of_eq (by assumption) ?_ | split | dsimp only
    | (with_reducible apply Only.mk_same) <;> first | with_reducible exact .inr (by assumption) | with_reducible exact .inl rfl | exact .inl rfl | skip

theorem Only.takeSignal (h : Only pt z s) (d : Die) (p : List Byte) (n : Nat) (v : Nat) (hg0 : Allow pt evtRegs) (hg1
    : Allow pt firstFailRegs) (hp : Allow pt [.dies, .links, .failed, .ofReg .syn Reg.SYN_CTR_VALUE]) : Only pt z
    (State.takeSignal s d p n v) := by
  obtain ⟨q0, q1, q2, q3, -⟩ := hp
  unfold State.takeSignal
  repeat' first
    | (with_reducible first | assumption | exact Allow.nil | apply Allow.cons | apply Only.ite
                            | apply Only.pwFailed | apply Only.signal)
    | refine Only.of_eq (by assumption) ?_ | split | dsimp only

theorem Only.takeWrite (h : Only pt z s) (d : Die) (p : List Byte) (data : List (List Byte)) (bad dead : List Nat)
    (hg0 : Allow pt evtRegs) (hg1 : Allow pt firstFailRegs) (hg2 : Allow pt lastUeRegs) (hp : Allow pt [.dies, .links,
    .mem, .poison, .accepted, .failed, .ofReg .mem Reg.MEM_POISON_MADE, .ofReg .syn Reg.SYN_CTR_VALUE]) :
    Only pt z (s.takeWrite d p data bad dead) := by
  obtain ⟨q0, q1, q2, q3, q4, q5, q6, q7, -⟩ := hp
  have ca : Only pt z (s.countAccepted d (originKey p)) := by apply Only.countAccepted <;> (repeat' first | with_reducible assumption | with_reducible exact Allow.nil | with_reducible apply Allow.cons)
  unfold State.takeWrite
  refine .ite (by apply Only.pwFailed <;> (repeat' first | with_reducible assumption | with_reducible exact Allow.nil | with_reducible apply Allow.cons)) ?_
  split
  · apply Only.takeSignal <;> (repeat' first | with_reducible assumption | with_reducible exact Allow.nil | with_reducible apply Allow.cons)
  · refine (fun g => ?_) (Only.foldl_snd (pieces 64 (cmdTarget p % 2 ^ 48) (writeData (cmdTarget p % 2 ^ 48) (cmdLen p) data))
      (f := fun (acc : List (Nat × Nat) × State) (q : Nat × List Byte) =>
        match acc.2.writeOne d q.1 q.2 (decide (q.1 / 64 - cmdTarget p % 2 ^ 48 / 64 ∈ bad))
          (decide (q.1 / 64 - cmdTarget p % 2 ^ 48 / 64 ∈ dead)) with
        | (c, t) => match c with
          | some k => (acc.1 ++ [(q.1 / 64 * 64, k)], t)
          | none => (acc.1, if bit (cmdA p) (q.1 / 64 - cmdTarget p % 2 ^ 48 / 64) then t.makePoison d q.1 else t)) (fun ha q hh => ?_) ([], s.countAccepted d (originKey p)) ca)
    · dsimp only at g ⊢
      split
      · exact g
      · apply Only.pwFailed
        · exact g
        all_goals (repeat' first | with_reducible assumption | with_reducible exact Allow.nil | with_reducible apply Allow.cons)
    · have w : Only pt z (ha.2.writeOne d q.1 q.2 (decide (q.1 / 64 - cmdTarget p % 2 ^ 48 / 64 ∈ bad))
        (decide (q.1 / 64 - cmdTarget p % 2 ^ 48 / 64 ∈ dead))).2 := by apply Only.writeOne <;> (repeat' first | with_reducible assumption | with_reducible exact Allow.nil | with_reducible apply Allow.cons)
      dsimp only
      split
      · exact w
      · refine .ite ?_ w
        apply Only.makePoison <;> (repeat' first | with_reducible assumption | with_reducible exact Allow.nil | with_reducible apply Allow.cons)

theorem Only.takeSignalMsg (h : Only pt z s) (d : Die) (p : List Byte) (hg0 : Allow pt evtRegs) (hg1 : Allow pt
    firstFailRegs) (hp : Allow pt [.dies, .links, .accepted, .failed, .ofReg .syn Reg.SYN_CTR_VALUE]) : Only pt z
    (State.takeSignalMsg s d p) := by
  obtain ⟨q0, q1, q2, q3, q4, -⟩ := hp
  unfold State.takeSignalMsg
  repeat' first
    | (with_reducible first | assumption | exact Allow.nil | apply Allow.cons | apply Only.ite
                            | apply Only.countAccepted | apply Only.pwFailed | apply Only.takeSignal)
    | refine Only.of_eq (by assumption) ?_ | split | dsimp only
    | (with_reducible apply Only.mk_same) <;> first | with_reducible exact .inr (by assumption) | with_reducible exact .inl rfl | exact .inl rfl | skip

theorem Only.sendReadData (h : Only pt z s) (d : Die) (p : List Byte) (mask : Nat) (flits : List (List Byte)) (hp :
    Allow pt [.links]) : Only pt z (State.sendReadData s d p mask flits) := by
  obtain ⟨q0, -⟩ := hp
  unfold State.sendReadData
  repeat' first
    | (with_reducible first | assumption | exact Allow.nil | apply Allow.cons | apply Only.ite
                            | apply Only.sendMsg)
    | refine Only.of_eq (by assumption) ?_ | split | dsimp only
    | (with_reducible apply Only.mk_same) <;> first | with_reducible exact .inr (by assumption) | with_reducible exact .inl rfl | exact .inl rfl | skip

theorem Only.serveRead (h : Only pt z s) (d : Die) (pa : Nat) (len : Nat) (ctx : Nat) (bad : List Nat) (hg0 : Allow pt
    evtRegs) (hg1 : Allow pt lastUeRegs) (hp : Allow pt [.dies, .poison, .ofReg .mem Reg.MEM_POISON_MADE,
    .ofReg .mem Reg.MEM_POISON_READS]) : Only pt z (State.serveRead s d pa len ctx bad).2.2 := by
  obtain ⟨q0, q1, q2, q3, -⟩ := hp
  unfold State.serveRead
  repeat' first
    | intro _
    | (with_reducible first | assumption | exact Allow.nil | apply Allow.cons | apply Only.foldl
                            | apply Only.ite | apply Only.ite_snd | apply Only.uncorrectable
                            | apply Only.servedPoison)
    | refine Only.of_eq (by assumption) ?_ | split | dsimp only
    | (with_reducible apply Only.mk_same) <;> first | with_reducible exact .inr (by assumption) | with_reducible exact .inl rfl | exact .inl rfl | skip

theorem Only.countIssued (h : Only pt z s) (o : Nat) (epoch : Nat) (dest : Nat) (hp : Allow pt [.issued]) : Only pt z
    (State.countIssued s o epoch dest) := by
  obtain ⟨q0, -⟩ := hp
  unfold State.countIssued
  repeat' first
    | (with_reducible first | assumption | exact Allow.nil | apply Allow.cons | apply Only.ite)
    | refine Only.of_eq (by assumption) ?_ | split | dsimp only
    | (with_reducible apply Only.mk_same) <;> first | with_reducible exact .inr (by assumption) | with_reducible exact .inl rfl | exact .inl rfl | skip

theorem Only.postOne (h : Only pt z s) (d : Die) (ctx : Nat) (host : Bool) (target : Nat) (l : List Byte) (bad : List
    Nat) (hg0 : Allow pt evtRegs) (hg1 : Allow pt firstFailRegs) (hg2 : Allow pt lastUeRegs) (hp : Allow pt [.dies,
    .links, .mem, .poison, .issued, .accepted, .failed, .nextTag, .ofReg .mem Reg.MEM_POISON_MADE,
    .ofReg .syn Reg.SYN_CTR_VALUE]) : Only pt z (State.postOne s d ctx host target l bad) := by
  obtain ⟨q0, q1, q2, q3, q4, q5, q6, q7, q8, q9, -⟩ := hp
  unfold State.postOne
  repeat' first
    | intro _
    | (with_reducible first | assumption | exact Allow.nil | apply Allow.cons | apply Only.foldl
                            | apply Only.ite | apply Only.takeTag | apply Only.countIssued
                            | apply Only.takeWrite | apply Only.sendMsg)
    | refine Only.of_eq (by assumption) ?_ | split | dsimp only
    | (with_reducible apply Only.mk_same) <;> first | with_reducible exact .inr (by assumption) | with_reducible exact .inl rfl | exact .inl rfl | skip

theorem Only.post (h : Only pt z s) (d : Die) (ctx : Nat) (host : Bool) (target : Nat) (l : List Byte) (bad : List
    Nat) (hg0 : Allow pt evtRegs) (hg1 : Allow pt firstFailRegs) (hg2 : Allow pt lastUeRegs) (hp : Allow pt [.dies,
    .links, .mem, .poison, .issued, .accepted, .failed, .nextTag, .ofReg .mem Reg.MEM_POISON_MADE,
    .ofReg .syn Reg.SYN_CTR_VALUE]) : Only pt z (State.post s d ctx host target l bad) := by
  obtain ⟨q0, q1, q2, q3, q4, q5, q6, q7, q8, q9, -⟩ := hp
  unfold State.post
  repeat' first
    | intro _
    | (with_reducible first | assumption | exact Allow.nil | apply Allow.cons | apply Only.foldl
                            | apply Only.ite | apply Only.postOne)
    | refine Only.of_eq (by assumption) ?_ | split | dsimp only

theorem Only.postSignal (h : Only pt z s) (d : Die) (ctx : Nat) (m : Mv) (n : Nat) (v : Nat) (hp : Allow pt [.links,
    .issued, .nextTag]) : Only pt z (State.postSignal s d ctx m n v) := by
  obtain ⟨q0, q1, q2, -⟩ := hp
  unfold State.postSignal
  repeat' first
    | (with_reducible first | assumption | exact Allow.nil | apply Allow.cons | apply Only.ite
                            | apply Only.takeTag | apply Only.countIssued | apply Only.sendMsg)
    | refine Only.of_eq (by assumption) ?_ | split | dsimp only

theorem Only.sendReads (h : Only pt z s) (d : Die) (ctx : Nat) (host : Bool) (eng : Nat) (target : Nat) (len : Nat)
    (dst : Option MoveEnd) (id : Nat) (hp : Allow pt [.links, .nextTag, .rdReqs]) : Only pt z (State.sendReads s d ctx
    host eng target len dst id) := by
  obtain ⟨q0, q1, q2, -⟩ := hp
  unfold State.sendReads
  repeat' first
    | intro _
    | (with_reducible first | assumption | exact Allow.nil | apply Allow.cons | apply Only.foldl
                            | apply Only.ite | apply Only.takeTag | apply Only.sendMsg)
    | refine Only.of_eq (by assumption) ?_ | split | dsimp only
    | (with_reducible apply Only.mk_same) <;> first | with_reducible exact .inr (by assumption) | with_reducible exact .inl rfl | exact .inl rfl | skip

theorem Only.setEng (h : Only pt z s) (d : Die) (u : Nat) (x : EngSt) (hp : Allow pt [.engs]) : Only pt z
    (State.setEng s d u x) := by
  obtain ⟨q0, -⟩ := hp
  unfold State.setEng
  repeat' first
    | (with_reducible first | assumption | exact Allow.nil | apply Allow.cons | apply Only.ite)
    | refine Only.of_eq (by assumption) ?_ | split | dsimp only
    | (with_reducible apply Only.mk_same) <;> first | with_reducible exact .inr (by assumption) | with_reducible exact .inl rfl | exact .inl rfl | skip

theorem Only.setQueue (h : Only pt z s) (d : Die) (u : Nat) (q : List Desc) (hg0 : Allow pt unitBusyRegs) (hp : Allow
    pt [.queues, .ofReg .dma Reg.DMA_M_POS, .ofReg .seq Reg.SEQ_Q_POS]) : Only pt z (State.setQueue s d u q) := by
  obtain ⟨g00, g01, g02, g03, g04, -⟩ := id hg0
  obtain ⟨q0, q1, q2, -⟩ := hp
  unfold State.setQueue
  repeat' first
    | (with_reducible first | assumption | exact Allow.nil | apply Allow.cons | apply Only.ite
                            | apply Only.setF)
    | refine Only.of_eq (by assumption) ?_ | split | dsimp only
    | (with_reducible apply Only.mk_same) <;> first | with_reducible exact .inr (by assumption) | with_reducible exact .inl rfl | exact .inl rfl | skip

theorem Only.setStream (h : Only pt z s) (d : Die) (e : Nat) (n : Nat) (x : StreamSt) (hp : Allow pt [.streams]) :
    Only pt z (State.setStream s d e n x) := by
  obtain ⟨q0, -⟩ := hp
  unfold State.setStream
  repeat' first
    | (with_reducible first | assumption | exact Allow.nil | apply Allow.cons | apply Only.ite)
    | refine Only.of_eq (by assumption) ?_ | split | dsimp only
    | (with_reducible apply Only.mk_same) <;> first | with_reducible exact .inr (by assumption) | with_reducible exact .inl rfl | exact .inl rfl | skip

theorem Only.mapStreams (h : Only pt z s) (d : Die) (n : Nat) (f : StreamSt → StreamSt) (hp : Allow pt [.streams]) :
    Only pt z (State.mapStreams s d n f) := by
  obtain ⟨q0, -⟩ := hp
  unfold State.mapStreams
  repeat' first
    | intro _
    | (with_reducible first | assumption | exact Allow.nil | apply Allow.cons | apply Only.foldl
                            | apply Only.ite | apply Only.setStream)
    | refine Only.of_eq (by assumption) ?_ | split | dsimp only

theorem Only.noteSuspect (h : Only pt z s) (d : Die) (u : Nat) (n : Nat) (hp : Allow pt [.engs]) : Only pt z
    (State.noteSuspect s d u n) := by
  obtain ⟨q0, -⟩ := hp
  unfold State.noteSuspect
  repeat' first
    | (with_reducible first | assumption | exact Allow.nil | apply Allow.cons | apply Only.ite
                            | apply Only.setEng)
    | refine Only.of_eq (by assumption) ?_ | split | dsimp only
    | (with_reducible apply Only.mk_same) <;> first | with_reducible exact .inr (by assumption) | with_reducible exact .inl rfl | exact .inl rfl | skip

theorem Only.resume (h : Only pt z s) (d : Die) (n : Nat) (hp : Allow pt [.dies, .ctxs, .streams,
    .ofReg .eng Reg.ENG_CTX_STATE_STATE]) : Only pt z (State.resume s d n) := by
  obtain ⟨q0, q1, q2, q3, -⟩ := hp
  unfold State.resume
  repeat' first
    | (with_reducible first | assumption | exact Allow.nil | apply Allow.cons | apply Only.ite
                            | apply Only.mapStreams | apply Only.setCtx | apply Only.setCtxState
                            | apply Only.setDie)
    | refine Only.of_eq (by assumption) ?_ | split | dsimp only
    | (with_reducible apply Only.mk_same) <;> first | with_reducible exact .inr (by assumption) | with_reducible exact .inl rfl | exact .inl rfl | skip

theorem Only.leaveRun (h : Only pt z s) (d : Die) (e : Nat) (hp : Allow pt [.streams]) : Only pt z (State.leaveRun s d
    e) := by
  obtain ⟨q0, -⟩ := hp
  unfold State.leaveRun
  repeat' first
    | (with_reducible first | assumption | exact Allow.nil | apply Allow.cons | apply Only.ite
                            | apply Only.setStream)
    | refine Only.of_eq (by assumption) ?_ | split | dsimp only
    | (with_reducible apply Only.mk_same) <;> first | with_reducible exact .inr (by assumption) | with_reducible exact .inl rfl | exact .inl rfl | skip

theorem Only.beginRun (h : Only pt z s) (d : Die) (e : Nat) (n : Nat) (entry : Option Nat) (hp : Allow pt [.dies,
    .ctxs, .engs, .streams, .ofReg .eng Reg.ENG_CTX_STATE_STATE, .ofReg .eng Reg.ENG_E_CUR_CTX,
    .ofReg .eng Reg.ENG_E_IDLE_RUN]) : Only pt z (State.beginRun s d e n entry) := by
  obtain ⟨q0, q1, q2, q3, q4, q5, q6, -⟩ := hp
  unfold State.beginRun
  repeat' first
    | (with_reducible first | assumption | exact Allow.nil | apply Allow.cons | apply Only.ite
                            | apply Only.leaveRun | apply Only.resume | apply Only.setEng | apply Only.setStream
                            | apply Only.noteSuspect | apply Only.setF)
    | refine Only.of_eq (by assumption) ?_ | split | dsimp only
    | (with_reducible apply Only.mk_same) <;> first | with_reducible exact .inr (by assumption) | with_reducible exact .inl rfl | exact .inl rfl | skip

theorem Only.endRun (h : Only pt z s) (d : Die) (e : Nat) (entry : Option Nat) (none_ : Bool) (hp : Allow pt [.engs,
    .streams, .ofReg .eng Reg.ENG_E_IDLE_RUN]) : Only pt z (State.endRun s d e entry none_) := by
  obtain ⟨q0, q1, q2, -⟩ := hp
  unfold State.endRun
  repeat' first
    | (with_reducible first | assumption | exact Allow.nil | apply Allow.cons | apply Only.ite
                            | apply Only.leaveRun | apply Only.setEng | apply Only.setF)
    | refine Only.of_eq (by assumption) ?_ | split | dsimp only
    | (with_reducible apply Only.mk_same) <;> first | with_reducible exact .inr (by assumption) | with_reducible exact .inl rfl | exact .inl rfl | skip

theorem Only.faultAll (h : Only pt z s) (d : Die) (n : Nat) (cause : Nat) (eng : Nat) (rc : Nat) (hg0 : Allow pt
    evtRegs) (hg1 : Allow pt ctxFaultRegs) (hp : Allow pt [.dies, .ctxs, .recov, .ofReg .eng Reg.ENG_CTX_STATE_STATE,
    .ofReg .rcv Reg.RCV_HELD]) : Only pt z (State.faultAll s d n cause eng rc) := by
  obtain ⟨q0, q1, q2, q3, q4, -⟩ := hp
  unfold State.faultAll
  repeat' first
    | intro _
    | (with_reducible first | assumption | exact Allow.nil | apply Allow.cons | apply Only.foldl
                            | apply Only.ite | apply Only.ctxFaultOn)
    | refine Only.of_eq (by assumption) ?_ | split | dsimp only

theorem Only.descFault (h : Only pt z s) (d : Die) (n : Nat) (eng : Nat) (cause : Nat) (hg0 : Allow pt evtRegs) (hg1 :
    Allow pt ctxFaultRegs) (hp : Allow pt [.dies, .ctxs, .recov, .ofReg .eng Reg.ENG_CTX_STATE_STATE,
    .ofReg .pwr Reg.PWR_DIE_A_HELD, .ofReg .rcv Reg.RCV_HELD]) : Only pt z (State.descFault s d n eng cause) := by
  obtain ⟨q0, q1, q2, q3, q4, q5, -⟩ := hp
  unfold State.descFault
  repeat' first
    | (with_reducible first | assumption | exact Allow.nil | apply Allow.cons | apply Only.ite
                            | apply Only.returnToken | apply Only.log | apply Only.faultAll)
    | refine Only.of_eq (by assumption) ?_ | split | dsimp only

theorem Only.setHost (h : Only pt z s) (c : Crown) (h : HostSt) (hp : Allow pt [.hosts]) : Only pt z (State.setHost s
    c h) := by
  obtain ⟨q0, -⟩ := hp
  unfold State.setHost
  repeat' first
    | (with_reducible first | assumption | exact Allow.nil | apply Allow.cons | apply Only.ite)
    | refine Only.of_eq (by assumption) ?_ | split | dsimp only
    | (with_reducible apply Only.mk_same) <;> first | with_reducible exact .inr (by assumption) | with_reducible exact .inl rfl | exact .inl rfl | skip

theorem Only.dropReads (h : Only pt z s) (d : Die) (u : Nat) (num : Nat) (hp : Allow pt [.rdReqs, .hosts]) : Only pt z
    (State.dropReads s d u num) := by
  obtain ⟨q0, q1, -⟩ := hp
  unfold State.dropReads
  repeat' first
    | intro _
    | (with_reducible first | assumption | exact Allow.nil | apply Allow.cons | apply Only.foldl
                            | apply Only.ite | apply Only.setHost)
    | refine Only.of_eq (by assumption) ?_ | split | dsimp only
    | (with_reducible apply Only.mk_same) <;> first | with_reducible exact .inr (by assumption) | with_reducible exact .inl rfl | exact .inl rfl | skip

theorem Only.dropQueued (h : Only pt z s) (d : Die) (u : Nat) (stay : Desc → Bool) (hg0 : Allow pt unitBusyRegs) (hp :
    Allow pt [.queues, .streams, .rdReqs, .hosts, .ofReg .dma Reg.DMA_M_POS, .ofReg .seq Reg.SEQ_Q_POS]) : Only pt z
    (State.dropQueued s d u stay) := by
  obtain ⟨q0, q1, q2, q3, q4, q5, -⟩ := hp
  unfold State.dropQueued
  repeat' first
    | intro _
    | (with_reducible first | assumption | exact Allow.nil | apply Allow.cons | apply Only.foldl
                            | apply Only.ite | apply Only.dropReads | apply Only.setStream
                            | apply Only.setQueue)
    | refine Only.of_eq (by assumption) ?_ | split | dsimp only
    | (with_reducible apply Only.mk_same) <;> first | with_reducible exact .inr (by assumption) | with_reducible exact .inl rfl | exact .inl rfl | skip

theorem Only.abortUnit (h : Only pt z s) (d : Die) (u : Nat) (cause : Nat) (hg0 : Allow pt unitBusyRegs) (hp : Allow
    pt [.engs, .queues, .streams, .rdReqs, .hosts, .ofReg .dma Reg.DMA_M_POS, .ofReg .seq Reg.SEQ_Q_POS]) : Only pt z
    (State.abortUnit s d u cause) := by
  obtain ⟨q0, q1, q2, q3, q4, q5, q6, -⟩ := hp
  unfold State.abortUnit
  repeat' first
    | (with_reducible first | assumption | exact Allow.nil | apply Allow.cons | apply Only.ite
                            | apply Only.dropReads | apply Only.dropQueued | apply Only.setEng)
    | refine Only.of_eq (by assumption) ?_ | split | dsimp only
    | (with_reducible apply Only.mk_same) <;> first | with_reducible exact .inr (by assumption) | with_reducible exact .inl rfl | exact .inl rfl | skip

theorem Only.endNum (h : Only pt z s) (d : Die) (u : Nat) (num : Nat) (cause : Nat) (hg0 : Allow pt unitBusyRegs) (hp
    : Allow pt [.engs, .queues, .streams, .rdReqs, .hosts, .ofReg .dma Reg.DMA_M_POS, .ofReg .seq Reg.SEQ_Q_POS]) :
    Only pt z (State.endNum s d u num cause) := by
  obtain ⟨q0, q1, q2, q3, q4, q5, q6, -⟩ := hp
  unfold State.endNum
  repeat' first
    | (with_reducible first | assumption | exact Allow.nil | apply Allow.cons | apply Only.ite
                            | apply Only.abortUnit | apply Only.dropQueued)
    | refine Only.of_eq (by assumption) ?_ | split | dsimp only

theorem Only.setReplay (h : Only pt z s) (d : Die) (r : Option Replay) (hp : Allow pt [.recov,
    .ofReg .rcv Reg.RCV_STATUS_REPLAY]) : Only pt z (State.setReplay s d r) := by
  obtain ⟨q0, q1, -⟩ := hp
  unfold State.setReplay
  repeat' first
    | (with_reducible first | assumption | exact Allow.nil | apply Allow.cons | apply Only.ite
                            | apply Only.setF)
    | refine Only.of_eq (by assumption) ?_ | split | dsimp only
    | (with_reducible apply Only.mk_same) <;> first | with_reducible exact .inr (by assumption) | with_reducible exact .inl rfl | exact .inl rfl | skip

theorem Only.replayHit (h : Only pt z s) (d : Die) (cause : Nat) (hp : Allow pt [.recov,
    .ofReg .rcv Reg.RCV_STATUS_REPLAY]) : Only pt z (State.replayHit s d cause) := by
  obtain ⟨q0, q1, -⟩ := hp
  unfold State.replayHit
  repeat' first
    | (with_reducible first | assumption | exact Allow.nil | apply Allow.cons | apply Only.ite
                            | apply Only.setReplay)
    | refine Only.of_eq (by assumption) ?_ | split | dsimp only
    | (with_reducible apply Only.mk_same) <;> first | with_reducible exact .inr (by assumption) | with_reducible exact .inl rfl | exact .inl rfl | skip

theorem Only.idleCtx (h : Only pt z s) (d : Die) (n : Nat) (hg0 : Allow pt evtRegs) (hp : Allow pt
    [.ofReg .eng Reg.ENG_CTX_STATE_STATE]) : Only pt z (State.idleCtx s d n) := by
  obtain ⟨q0, -⟩ := hp
  unfold State.idleCtx
  repeat' first
    | (with_reducible first | assumption | exact Allow.nil | apply Allow.cons | apply Only.ite
                            | apply Only.setCtxState | apply Only.raise)
    | refine Only.of_eq (by assumption) ?_ | split | dsimp only

theorem Only.finishDesc (h : Only pt z s) (d : Die) (x : Desc) (hg0 : Allow pt evtRegs) (hp : Allow pt [.dies, .links,
    .ctxs, .streams, .issued, .nextTag, .ofReg .eng Reg.ENG_CTX_CHKPT_BEAT_BEAT,
    .ofReg .eng Reg.ENG_CTX_CHKPT_POS_POS, .ofReg .eng Reg.ENG_CTX_STATE_STATE, .ofReg .pwr Reg.PWR_DIE_A_HELD,
    .ofReg .syn Reg.SYN_CTR_VALUE]) : Only pt z (State.finishDesc s d x) := by
  obtain ⟨q0, q1, q2, q3, q4, q5, q6, q7, q8, q9, q10, -⟩ := hp
  unfold State.finishDesc
  repeat' first
    | (with_reducible first | assumption | exact Allow.nil | apply Allow.cons | apply Only.ite
                            | apply Only.signal | apply Only.postSignal | apply Only.setStream
                            | apply Only.setCtx | apply Only.setF | apply Only.returnToken | apply Only.idleCtx)
    | refine Only.of_eq (by assumption) ?_ | split | dsimp only
    | (with_reducible apply Only.mk_same) <;> first | with_reducible exact .inr (by assumption) | with_reducible exact .inl rfl | exact .inl rfl | skip

theorem Only.freeEngine (h : Only pt z s) (d : Die) (e : Nat) (n : Nat) (hp : Allow pt [.engs, .streams,
    .ofReg .eng Reg.ENG_E_BUSY]) : Only pt z (State.freeEngine s d e n) := by
  obtain ⟨q0, q1, q2, -⟩ := hp
  unfold State.freeEngine
  repeat' first
    | (with_reducible first | assumption | exact Allow.nil | apply Allow.cons | apply Only.ite
                            | apply Only.setEng | apply Only.setStream | apply Only.setF)
    | refine Only.of_eq (by assumption) ?_ | split | dsimp only
    | (with_reducible apply Only.mk_same) <;> first | with_reducible exact .inr (by assumption) | with_reducible exact .inl rfl | exact .inl rfl | skip

theorem Only.arrive (h : Only pt z s) (d : Die) (bar : Nat) (hp : Allow pt [.ofReg .syn Reg.SYN_BAR_ARRIVED,
    .ofReg .syn Reg.SYN_BAR_GEN, .ofReg .syn Reg.SYN_CTR_VALUE]) : Only pt z (State.arrive s d bar) := by
  obtain ⟨q0, q1, q2, -⟩ := hp
  unfold State.arrive
  repeat' first
    | (with_reducible first | assumption | exact Allow.nil | apply Allow.cons | apply Only.ite | apply Only.setF
                            | apply Only.signal)
    | refine Only.of_eq (by assumption) ?_ | split | dsimp only
    | (with_reducible apply Only.mk_same) <;> first | with_reducible exact .inr (by assumption) | with_reducible exact .inl rfl | exact .inl rfl | skip

theorem Only.abortRead (h : Only pt z s) (c : Crown) (id : Nat) (hp : Allow pt [.rdReqs, .hosts,
    .ofReg .pci Reg.PCI_ERR_RD_ABORT]) : Only pt z (State.abortRead s c id) := by
  obtain ⟨q0, q1, q2, -⟩ := hp
  unfold State.abortRead
  repeat' first
    | (with_reducible first | assumption | exact Allow.nil | apply Allow.cons | apply Only.ite
                            | apply Only.setHost | apply Only.bumpF)
    | refine Only.of_eq (by assumption) ?_ | split | dsimp only
    | (with_reducible apply Only.mk_same) <;> first | with_reducible exact .inr (by assumption) | with_reducible exact .inl rfl | exact .inl rfl | skip

theorem Only.completeRead (h : Only pt z s) (c : Crown) (id : Nat) (ep : Bool) (l : List Byte) (hp : Allow pt
    [.rdReqs, .hosts, .ofReg .pci Reg.PCI_ERR_RD_ABORT]) : Only pt z (State.completeRead s c id ep l) := by
  obtain ⟨q0, q1, q2, -⟩ := hp
  unfold State.completeRead
  repeat' first
    | (with_reducible first | assumption | exact Allow.nil | apply Allow.cons | apply Only.ite
                            | apply Only.abortRead | apply Only.setHost)
    | refine Only.of_eq (by assumption) ?_ | split | dsimp only
    | (with_reducible apply Only.mk_same) <;> first | with_reducible exact .inr (by assumption) | with_reducible exact .inl rfl | exact .inl rfl | skip

theorem Only.hostReadGo (h : Only pt z s) (c : Crown) (id : Nat) (hg0 : Allow pt evtRegs) (hg1 : Allow pt lastUeRegs)
    (hp : Allow pt [.dies, .links, .poison, .nextTag, .rdReqs, .hosts, .ofReg .mem Reg.MEM_POISON_MADE,
    .ofReg .mem Reg.MEM_POISON_READS, .ofReg .pci Reg.PCI_ERR_RD_ABORT]) : Only pt z (State.hostReadGo s c id) := by
  obtain ⟨q0, q1, q2, q3, q4, q5, q6, q7, q8, -⟩ := hp
  unfold State.hostReadGo
  repeat' first
    | (with_reducible first | assumption | exact Allow.nil | apply Allow.cons | apply Only.ite
                            | apply Only.setHost | apply Only.serveRead | apply Only.completeRead
                            | apply Only.sendReads)
    | refine Only.of_eq (by assumption) ?_ | split | dsimp only
    | (with_reducible apply Only.mk_same) <;> first | with_reducible exact .inr (by assumption) | with_reducible exact .inl rfl | exact .inl rfl | skip

theorem Only.setFence (h : Only pt z s) (o : Nat) (f : Option FenceSt) (hp : Allow pt [.fences]) : Only pt z
    (State.setFence s o f) := by
  obtain ⟨q0, -⟩ := hp
  unfold State.setFence
  repeat' first
    | (with_reducible first | assumption | exact Allow.nil | apply Allow.cons | apply Only.ite)
    | refine Only.of_eq (by assumption) ?_ | split | dsimp only
    | (with_reducible apply Only.mk_same) <;> first | with_reducible exact .inr (by assumption) | with_reducible exact .inl rfl | exact .inl rfl | skip

theorem Only.sendProbes (h : Only pt z s) (d : Die) (ctx : Nat) (host : Bool) (f : FenceSt) (hp : Allow pt [.links]) :
    Only pt z (State.sendProbes s d ctx host f) := by
  obtain ⟨q0, -⟩ := hp
  unfold State.sendProbes
  repeat' first
    | intro _
    | (with_reducible first | assumption | exact Allow.nil | apply Allow.cons | apply Only.foldl
                            | apply Only.ite | apply Only.sendMsg)
    | refine Only.of_eq (by assumption) ?_ | split | dsimp only
    | (with_reducible apply Only.mk_same) <;> first | with_reducible exact .inr (by assumption) | with_reducible exact .inl rfl | exact .inl rfl | skip

theorem Only.fenceSeen (h : Only pt z s) (o : Nat) (f : FenceSt) (dest : Nat) (fails : Nat) (hp : Allow pt
    [.seenIssued, .seenFailed, .fences]) : Only pt z (State.fenceSeen s o f dest fails) := by
  obtain ⟨q0, q1, q2, -⟩ := hp
  unfold State.fenceSeen
  repeat' first
    | (with_reducible first | assumption | exact Allow.nil | apply Allow.cons | apply Only.ite
                            | apply Only.setFence)
    | refine Only.of_eq (by assumption) ?_ | split | dsimp only
    | (with_reducible apply Only.mk_same) <;> first | with_reducible exact .inr (by assumption) | with_reducible exact .inl rfl | exact .inl rfl | skip

theorem Only.fenceDone (h : Only pt z s) (d : Die) (ctx : Nat) (host : Bool) (f : FenceSt) (hg0 : Allow pt evtRegs)
    (hg1 : Allow pt firstFailRegs) (hg2 : Allow pt lastUeRegs) (hp : Allow pt [.dies, .links, .mem, .poison, .ctxs,
    .engs, .streams, .issued, .accepted, .failed, .nextTag, .fences, .rdReqs, .hosts,
    .ofReg .eng Reg.ENG_CTX_CHKPT_BEAT_BEAT, .ofReg .eng Reg.ENG_CTX_CHKPT_POS_POS,
    .ofReg .eng Reg.ENG_CTX_STATE_STATE, .ofReg .eng Reg.ENG_E_BUSY, .ofReg .mem Reg.MEM_POISON_MADE,
    .ofReg .mem Reg.MEM_POISON_READS, .ofReg .mem Reg.MEM_PWSTAT_FAIL_COUNT, .ofReg .mem Reg.MEM_PWSTAT_FENCING,
    .ofReg .pci Reg.PCI_ERR_RD_ABORT, .ofReg .pwr Reg.PWR_DIE_A_HELD, .ofReg .syn Reg.SYN_CTR_VALUE]) : Only pt z
    (State.fenceDone s d ctx host f) := by
  obtain ⟨q0, q1, q2, q3, q4, q5, q6, q7, q8, q9, q10, q11, q12, q13, q14, q15, q16, q17, q18, q19, q20, q21, q22, q23, q24, -⟩ := hp
  unfold State.fenceDone
  repeat' first
    | (with_reducible first | assumption | exact Allow.nil | apply Allow.cons | apply Only.ite
                            | apply Only.setFence | apply Only.hostReadGo | apply Only.localWrite
                            | apply Only.post | apply Only.addF | apply Only.setF | apply Only.finishDesc
                            | apply Only.freeEngine)
    | refine Only.of_eq (by assumption) ?_ | split | dsimp only
    | (with_reducible apply Only.mk_same) <;> first | with_reducible exact .inr (by assumption) | with_reducible exact .inl rfl | exact .inl rfl | skip

theorem Only.fenceCheck (h : Only pt z s) (d : Die) (ctx : Nat) (host : Bool) (hg0 : Allow pt evtRegs) (hg1 : Allow pt
    firstFailRegs) (hg2 : Allow pt lastUeRegs) (hp : Allow pt [.dies, .links, .mem, .poison, .ctxs, .engs, .streams,
    .issued, .accepted, .failed, .nextTag, .fences, .rdReqs, .hosts, .ofReg .eng Reg.ENG_CTX_CHKPT_BEAT_BEAT,
    .ofReg .eng Reg.ENG_CTX_CHKPT_POS_POS, .ofReg .eng Reg.ENG_CTX_STATE_STATE, .ofReg .eng Reg.ENG_E_BUSY,
    .ofReg .mem Reg.MEM_POISON_MADE, .ofReg .mem Reg.MEM_POISON_READS, .ofReg .mem Reg.MEM_PWSTAT_FAIL_COUNT,
    .ofReg .mem Reg.MEM_PWSTAT_FENCING, .ofReg .pci Reg.PCI_ERR_RD_ABORT, .ofReg .pwr Reg.PWR_DIE_A_HELD,
    .ofReg .syn Reg.SYN_CTR_VALUE]) : Only pt z (State.fenceCheck s d ctx host) := by
  obtain ⟨q0, q1, q2, q3, q4, q5, q6, q7, q8, q9, q10, q11, q12, q13, q14, q15, q16, q17, q18, q19, q20, q21, q22, q23, q24, -⟩ := hp
  unfold State.fenceCheck
  repeat' first
    | (with_reducible first | assumption | exact Allow.nil | apply Allow.cons | apply Only.ite
                            | apply Only.fenceDone)
    | refine Only.of_eq (by assumption) ?_ | split | dsimp only
    | (with_reducible apply Only.mk_same) <;> first | with_reducible exact .inr (by assumption) | with_reducible exact .inl rfl | exact .inl rfl | skip

theorem Only.startFence (h : Only pt z s) (d : Die) (ctx : Nat) (host : Bool) (kind : Nat) (arg : Nat) (eng : Nat)
    (result : Nat) (hg0 : Allow pt evtRegs) (hg1 : Allow pt firstFailRegs) (hg2 : Allow pt lastUeRegs) (hp : Allow pt
    [.dies, .links, .mem, .poison, .ctxs, .engs, .streams, .issued, .accepted, .failed, .seenIssued, .seenFailed,
    .nextTag, .hostEpoch, .fences, .rdReqs, .hosts, .ofReg .eng Reg.ENG_CTX_CHKPT_BEAT_BEAT,
    .ofReg .eng Reg.ENG_CTX_CHKPT_POS_POS, .ofReg .eng Reg.ENG_CTX_STATE_STATE, .ofReg .eng Reg.ENG_E_BUSY,
    .ofReg .mem Reg.MEM_POISON_MADE, .ofReg .mem Reg.MEM_POISON_READS, .ofReg .mem Reg.MEM_PWSTAT_EPOCH,
    .ofReg .mem Reg.MEM_PWSTAT_FAIL_COUNT, .ofReg .mem Reg.MEM_PWSTAT_FENCING, .ofReg .pci Reg.PCI_ERR_RD_ABORT,
    .ofReg .pwr Reg.PWR_DIE_A_HELD, .ofReg .syn Reg.SYN_CTR_VALUE]) : Only pt z (State.startFence s d ctx host kind
    arg eng result) := by
  obtain ⟨q0, q1, q2, q3, q4, q5, q6, q7, q8, q9, q10, q11, q12, q13, q14, q15, q16, q17, q18, q19, q20, q21, q22, q23, q24, q25, q26, q27, q28, -⟩ := hp
  unfold State.startFence
  repeat' first
    | (with_reducible first | assumption | exact Allow.nil | apply Allow.cons | apply Only.ite
                            | apply Only.flipEpoch | apply Only.setFence | apply Only.setF
                            | apply Only.fenceSeen | apply Only.sendProbes | apply Only.fenceCheck)
    | refine Only.of_eq (by assumption) ?_ | split | dsimp only
    | (with_reducible apply Only.mk_same) <;> first | with_reducible exact .inr (by assumption) | with_reducible exact .inl rfl | exact .inl rfl | skip

theorem Only.nextHostFence (h : Only pt z s) (d : Die) (hg0 : Allow pt evtRegs) (hg1 : Allow pt firstFailRegs) (hg2 :
    Allow pt lastUeRegs) (hp : Allow pt [.dies, .links, .mem, .poison, .ctxs, .engs, .streams, .issued, .accepted,
    .failed, .seenIssued, .seenFailed, .nextTag, .hostEpoch, .fences, .rdReqs, .hosts,
    .ofReg .eng Reg.ENG_CTX_CHKPT_BEAT_BEAT, .ofReg .eng Reg.ENG_CTX_CHKPT_POS_POS,
    .ofReg .eng Reg.ENG_CTX_STATE_STATE, .ofReg .eng Reg.ENG_E_BUSY, .ofReg .mem Reg.MEM_POISON_MADE,
    .ofReg .mem Reg.MEM_POISON_READS, .ofReg .mem Reg.MEM_PWSTAT_EPOCH, .ofReg .mem Reg.MEM_PWSTAT_FAIL_COUNT,
    .ofReg .mem Reg.MEM_PWSTAT_FENCING, .ofReg .pci Reg.PCI_ERR_RD_ABORT, .ofReg .pwr Reg.PWR_DIE_A_HELD,
    .ofReg .syn Reg.SYN_CTR_VALUE]) : Only pt z (State.nextHostFence s d) := by
  obtain ⟨q0, q1, q2, q3, q4, q5, q6, q7, q8, q9, q10, q11, q12, q13, q14, q15, q16, q17, q18, q19, q20, q21, q22, q23, q24, q25, q26, q27, q28, -⟩ := hp
  unfold State.nextHostFence
  repeat' first
    | intro _
    | (with_reducible first | assumption | exact Allow.nil | apply Allow.cons | apply Only.foldl
                            | apply Only.ite | apply Only.startFence)
    | refine Only.of_eq (by assumption) ?_ | split | dsimp only
    | (with_reducible apply Only.mk_same) <;> first | with_reducible exact .inr (by assumption) | with_reducible exact .inl rfl | exact .inl rfl | skip

theorem Only.operation (h : Only pt z s) (d : Die) (words : List Nat) (i : OpInfo) (hp : Allow pt [.opTable, .opDefs])
    : Only pt z (State.operation s d words i).2 := by
  obtain ⟨q0, q1, -⟩ := hp
  unfold State.operation
  repeat' first
    | (with_reducible first | assumption | exact Allow.nil | apply Allow.cons | apply Only.ite
                            | apply Only.ite_snd)
    | refine Only.of_eq (by assumption) ?_ | split | dsimp only
    | (with_reducible apply Only.mk_same) <;> first | with_reducible exact .inr (by assumption) | with_reducible exact .inl rfl | exact .inl rfl | skip

theorem Only.putLocal (h : Only pt z s) (d : Die) (pa : Nat) (l : List Byte) (poison : Bool) (hp : Allow pt [.mem,
    .poison, .ofReg .mem Reg.MEM_POISON_MADE, .ofReg .syn Reg.SYN_CTR_VALUE]) : Only pt z (State.putLocal s d pa l
    poison) := by
  obtain ⟨q0, q1, q2, q3, -⟩ := hp
  unfold State.putLocal
  repeat' first
    | (with_reducible first | assumption | exact Allow.nil | apply Allow.cons | apply Only.ite
                            | apply Only.signal | apply Only.localWrite)
    | refine Only.of_eq (by assumption) ?_ | split | dsimp only
    | (with_reducible apply Only.mk_same) <;> first | with_reducible exact .inr (by assumption) | with_reducible exact .inl rfl | exact .inl rfl | skip

theorem Only.toHost (h : Only pt z s) (c : Crown) (a : Nat) (l : List Byte) (hp : Allow pt [.hosts]) : Only pt z
    (State.toHost s c a l) := by
  obtain ⟨q0, -⟩ := hp
  unfold State.toHost
  repeat' first
    | (with_reducible first | assumption | exact Allow.nil | apply Allow.cons | apply Only.ite
                            | apply Only.setHost)
    | refine Only.of_eq (by assumption) ?_ | split | dsimp only
    | (with_reducible apply Only.mk_same) <;> first | with_reducible exact .inr (by assumption) | with_reducible exact .inl rfl | exact .inl rfl | skip

theorem Only.deliver (h : Only pt z s) (d : Die) (ctx : Nat) (src : Nat) (dst : MoveEnd) (l : List Byte) (bad : Nat →
    Bool) (hg0 : Allow pt evtRegs) (hg1 : Allow pt firstFailRegs) (hg2 : Allow pt lastUeRegs) (hp : Allow pt [.dies,
    .links, .mem, .poison, .issued, .accepted, .failed, .nextTag, .hosts, .ofReg .mem Reg.MEM_POISON_MADE,
    .ofReg .syn Reg.SYN_CTR_VALUE]) : Only pt z (State.deliver s d ctx src dst l bad) := by
  obtain ⟨q0, q1, q2, q3, q4, q5, q6, q7, q8, q9, q10, -⟩ := hp
  unfold State.deliver
  repeat' first
    | intro _
    | (with_reducible first | assumption | exact Allow.nil | apply Allow.cons | apply Only.foldl
                            | apply Only.ite | apply Only.toHost | apply Only.putLocal | apply Only.post)
    | refine Only.of_eq (by assumption) ?_ | split | dsimp only
    | (with_reducible apply Only.mk_same) <;> first | with_reducible exact .inr (by assumption) | with_reducible exact .inl rfl | exact .inl rfl | skip

theorem Only.accessFault (h : Only pt z s) (d : Die) (n : Nat) (e : Nat) (u : Nat) (w : Work) (c : Nat × Nat) (hg0 :
    Allow pt evtRegs) (hg1 : Allow pt ctxFaultRegs) (hp : Allow pt [.dies, .ctxs, .recov,
    .ofReg .eng Reg.ENG_CTX_STATE_STATE, .ofReg .mem Reg.MEM_POISON_READS, .ofReg .pwr Reg.PWR_DIE_A_HELD,
    .ofReg .rcv Reg.RCV_HELD]) : Only pt z (State.accessFault s d n e u w c) := by
  obtain ⟨q0, q1, q2, q3, q4, q5, q6, -⟩ := hp
  unfold State.accessFault
  repeat' first
    | (with_reducible first | assumption | exact Allow.nil | apply Allow.cons | apply Only.ite
                            | apply Only.descFault | apply Only.log | apply Only.servedPoison
                            | apply Only.returnToken | apply Only.faultAll)
    | refine Only.of_eq (by assumption) ?_ | split | dsimp only

theorem Only.readHost (h : Only pt z s) (c : Crown) (d : Die) (n : Nat) (u : Nat) (num : Nat) (addr : Nat) (dst : Nat)
    (len : Nat) (hp : Allow pt [.hosts]) : Only pt z (State.readHost s c d n u num addr dst len) := by
  obtain ⟨q0, -⟩ := hp
  unfold State.readHost
  repeat' first
    | (with_reducible first | assumption | exact Allow.nil | apply Allow.cons | apply Only.ite
                            | apply Only.setHost)
    | refine Only.of_eq (by assumption) ?_ | split | dsimp only
    | (with_reducible apply Only.mk_same) <;> first | with_reducible exact .inr (by assumption) | with_reducible exact .inl rfl | exact .inl rfl | skip

theorem Only.startReads (h : Only pt z s) (d : Die) (n : Nat) (u : Nat) (num : Nat) (w : Work) (hp : Allow pt [.links,
    .nextTag, .rdReqs, .hosts]) : Only pt z (State.startReads s d n u num w) := by
  obtain ⟨q0, q1, q2, q3, -⟩ := hp
  unfold State.startReads
  repeat' first
    | intro _
    | (with_reducible first | assumption | exact Allow.nil | apply Allow.cons | apply Only.foldl
                            | apply Only.ite | apply Only.readHost | apply Only.sendReads)
    | refine Only.of_eq (by assumption) ?_ | split | dsimp only
    | (with_reducible apply Only.mk_same) <;> first | with_reducible exact .inr (by assumption) | with_reducible exact .inl rfl | exact .inl rfl | skip

theorem Only.noteScratch (h : Only pt z s) (d : Die) (e : Nat) (l : List Nat) (hp : Allow pt [.engs]) : Only pt z
    (State.noteScratch s d e l) := by
  obtain ⟨q0, -⟩ := hp
  unfold State.noteScratch
  repeat' first
    | (with_reducible first | assumption | exact Allow.nil | apply Allow.cons | apply Only.ite
                            | apply Only.setEng)
    | refine Only.of_eq (by assumption) ?_ | split | dsimp only
    | (with_reducible apply Only.mk_same) <;> first | with_reducible exact .inr (by assumption) | with_reducible exact .inl rfl | exact .inl rfl | skip

theorem Only.startDesc (h : Only pt z s) (d : Die) (e : Nat) (n : Nat) (w : List Nat) (i : OpInfo) (hg0 : Allow pt
    evtRegs) (hg1 : Allow pt firstFailRegs) (hg2 : Allow pt unitBusyRegs) (hg3 : Allow pt lastUeRegs) (hp : Allow pt
    [.dies, .links, .mem, .poison, .ctxs, .engs, .queues, .streams, .issued, .accepted, .failed, .seenIssued,
    .seenFailed, .nextTag, .hostEpoch, .fences, .rdReqs, .hosts, .ofReg .dma Reg.DMA_M_POS,
    .ofReg .eng Reg.ENG_CTX_CHKPT_BEAT_BEAT, .ofReg .eng Reg.ENG_CTX_CHKPT_POS_POS,
    .ofReg .eng Reg.ENG_CTX_STATE_STATE, .ofReg .eng Reg.ENG_E_BUSY, .ofReg .mem Reg.MEM_POISON_MADE,
    .ofReg .mem Reg.MEM_POISON_READS, .ofReg .mem Reg.MEM_PWSTAT_EPOCH, .ofReg .mem Reg.MEM_PWSTAT_FAIL_COUNT,
    .ofReg .mem Reg.MEM_PWSTAT_FENCING, .ofReg .pci Reg.PCI_ERR_RD_ABORT, .ofReg .pwr Reg.PWR_DIE_A_HELD,
    .ofReg .seq Reg.SEQ_Q_POS, .ofReg .syn Reg.SYN_BAR_ARRIVED, .ofReg .syn Reg.SYN_BAR_GEN,
    .ofReg .syn Reg.SYN_CTR_VALUE]) : Only pt z (State.startDesc s d e n w i) := by
  obtain ⟨q0, q1, q2, q3, q4, q5, q6, q7, q8, q9, q10, q11, q12, q13, q14, q15, q16, q17, q18, q19, q20, q21, q22, q23, q24, q25, q26, q27, q28, q29, q30, q31, q32, q33, -⟩ := hp
  unfold State.startDesc
  repeat' first
    | (with_reducible first | assumption | exact Allow.nil | apply Allow.cons | apply Only.ite
                            | apply Only.setStream | apply Only.setEng | apply Only.setQueue
                            | apply Only.noteSuspect | apply Only.startReads | apply Only.setF
                            | apply Only.noteScratch | apply Only.startFence | apply Only.arrive)
    | refine Only.of_eq (by assumption) ?_ | split | dsimp only
    | (with_reducible apply Only.mk_same) <;> first | with_reducible exact .inr (by assumption) | with_reducible exact .inl rfl | exact .inl rfl | skip

theorem Only.tryStart (h : Only pt z s) (d : Die) (e : Nat) (n : Nat) (w : List Nat) (i : OpInfo) (hg0 : Allow pt
    evtRegs) (hg1 : Allow pt firstFailRegs) (hg2 : Allow pt unitBusyRegs) (hg3 : Allow pt lastUeRegs) (hp : Allow pt
    [.dies, .links, .mem, .poison, .ctxs, .engs, .queues, .streams, .issued, .accepted, .failed, .seenIssued,
    .seenFailed, .nextTag, .hostEpoch, .fences, .rdReqs, .hosts, .recals, .ofReg .dma Reg.DMA_M_POS,
    .ofReg .eng Reg.ENG_CTX_CHKPT_BEAT_BEAT, .ofReg .eng Reg.ENG_CTX_CHKPT_POS_POS,
    .ofReg .eng Reg.ENG_CTX_STATE_STATE, .ofReg .eng Reg.ENG_E_BUSY, .ofReg .eng Reg.ENG_E_DEFERRED,
    .ofReg .ikl Reg.IKL_RECAL_STATE, .ofReg .mem Reg.MEM_POISON_MADE, .ofReg .mem Reg.MEM_POISON_READS,
    .ofReg .mem Reg.MEM_PWSTAT_EPOCH, .ofReg .mem Reg.MEM_PWSTAT_FAIL_COUNT, .ofReg .mem Reg.MEM_PWSTAT_FENCING,
    .ofReg .pci Reg.PCI_ERR_RD_ABORT, .ofReg .pwr Reg.PWR_COUNT_WAIT_FAIL, .ofReg .pwr Reg.PWR_DIE_A_HELD,
    .ofReg .seq Reg.SEQ_Q_POS, .ofReg .syn Reg.SYN_BAR_ARRIVED, .ofReg .syn Reg.SYN_BAR_GEN,
    .ofReg .syn Reg.SYN_CTR_VALUE]) : Only pt z (State.tryStart s d e n w i) := by
  obtain ⟨q0, q1, q2, q3, q4, q5, q6, q7, q8, q9, q10, q11, q12, q13, q14, q15, q16, q17, q18, q19, q20, q21, q22, q23, q24, q25, q26, q27, q28, q29, q30, q31, q32, q33, q34, q35, q36, q37, -⟩ := hp
  unfold State.tryStart
  repeat' first
    | (with_reducible first | assumption | exact Allow.nil | apply Allow.cons | apply Only.ite
                            | apply Only.askToken | apply Only.setStream | apply Only.setEng | apply Only.bumpF
                            | apply Only.servedPoison | apply Only.startDesc)
    | refine Only.of_eq (by assumption) ?_ | split | dsimp only
    | (with_reducible apply Only.mk_same) <;> first | with_reducible exact .inr (by assumption) | with_reducible exact .inl rfl | exact .inl rfl | skip

theorem Only.startHead (h : Only pt z s) (d : Die) (e : Nat) (n : Nat) (i : OpInfo) (hg0 : Allow pt evtRegs) (hg1 :
    Allow pt firstFailRegs) (hg2 : Allow pt ctxFaultRegs) (hg3 : Allow pt unitBusyRegs) (hg4 : Allow pt lastUeRegs)
    (hp : Allow pt [.dies, .links, .mem, .poison, .ctxs, .engs, .queues, .streams, .opTable, .opDefs, .issued,
    .accepted, .failed, .seenIssued, .seenFailed, .nextTag, .hostEpoch, .fences, .rdReqs, .hosts, .recals, .recov,
    .ofReg .dma Reg.DMA_M_POS, .ofReg .eng Reg.ENG_CTX_CHKPT_BEAT_BEAT, .ofReg .eng Reg.ENG_CTX_CHKPT_POS_POS,
    .ofReg .eng Reg.ENG_CTX_STATE_STATE, .ofReg .eng Reg.ENG_E_BUSY, .ofReg .eng Reg.ENG_E_DEFERRED,
    .ofReg .ikl Reg.IKL_RECAL_STATE, .ofReg .mem Reg.MEM_POISON_MADE, .ofReg .mem Reg.MEM_POISON_READS,
    .ofReg .mem Reg.MEM_PWSTAT_EPOCH, .ofReg .mem Reg.MEM_PWSTAT_FAIL_COUNT, .ofReg .mem Reg.MEM_PWSTAT_FENCING,
    .ofReg .pci Reg.PCI_ERR_RD_ABORT, .ofReg .pwr Reg.PWR_COUNT_WAIT_FAIL, .ofReg .pwr Reg.PWR_DIE_A_HELD,
    .ofReg .rcv Reg.RCV_HELD, .ofReg .seq Reg.SEQ_Q_POS, .ofReg .syn Reg.SYN_BAR_ARRIVED, .ofReg .syn Reg.SYN_BAR_GEN,
    .ofReg .syn Reg.SYN_CTR_VALUE]) : Only pt z (State.startHead s d e n i) := by
  obtain ⟨q0, q1, q2, q3, q4, q5, q6, q7, q8, q9, q10, q11, q12, q13, q14, q15, q16, q17, q18, q19, q20, q21, q22, q23, q24, q25, q26, q27, q28, q29, q30, q31, q32, q33, q34, q35, q36, q37, q38, q39, q40, q41, -⟩ := hp
  unfold State.startHead
  repeat' first
    | (with_reducible first | assumption | exact Allow.nil | apply Allow.cons | apply Only.ite
                            | apply Only.servedPoison | apply Only.faultAll | apply Only.descFault
                            | apply Only.operation | apply Only.accessFault | apply Only.tryStart)
    | refine Only.of_eq (by assumption) ?_ | split | dsimp only
    | (with_reducible apply Only.mk_same) <;> first | with_reducible exact .inr (by assumption) | with_reducible exact .inl rfl | exact .inl rfl | skip

theorem Only.replayHead (h : Only pt z s) (d : Die) (e : Nat) (r : Replay) (n : Nat) (i : OpInfo) (hg0 : Allow pt
    unitBusyRegs) (hp : Allow pt [.engs, .queues, .opTable, .opDefs, .recov, .ofReg .dma Reg.DMA_M_POS,
    .ofReg .eng Reg.ENG_E_BUSY, .ofReg .rcv Reg.RCV_STATUS_REPLAY, .ofReg .seq Reg.SEQ_Q_POS]) : Only pt z
    (State.replayHead s d e r n i) := by
  obtain ⟨q0, q1, q2, q3, q4, q5, q6, q7, q8, -⟩ := hp
  unfold State.replayHead
  repeat' first
    | (with_reducible first | assumption | exact Allow.nil | apply Allow.cons | apply Only.ite
                            | apply Only.replayHit | apply Only.operation | apply Only.setReplay
                            | apply Only.setEng | apply Only.setF | apply Only.setQueue)
    | refine Only.of_eq (by assumption) ?_ | split | dsimp only
    | (with_reducible apply Only.mk_same) <;> first | with_reducible exact .inr (by assumption) | with_reducible exact .inl rfl | exact .inl rfl | skip

theorem Only.putResult (h : Only pt z s) (d : Die) (x : Desc) (a : Nat) (l : List Byte) (hg0 : Allow pt evtRegs) (hg1
    : Allow pt firstFailRegs) (hg2 : Allow pt lastUeRegs) (hp : Allow pt [.dies, .links, .mem, .poison, .issued,
    .accepted, .failed, .nextTag, .hosts, .ofReg .mem Reg.MEM_POISON_MADE, .ofReg .syn Reg.SYN_CTR_VALUE]) : Only pt z
    (State.putResult s d x a l) := by
  obtain ⟨q0, q1, q2, q3, q4, q5, q6, q7, q8, q9, q10, -⟩ := hp
  unfold State.putResult
  repeat' first
    | (with_reducible first | assumption | exact Allow.nil | apply Allow.cons | apply Only.ite
                            | apply Only.deliver)
    | refine Only.of_eq (by assumption) ?_ | split | dsimp only

theorem Only.moveRow (h : Only pt z s) (d : Die) (u : Nat) (x : Desc) (m : MoveOp) (r : Nat) (hg0 : Allow pt evtRegs)
    (hg1 : Allow pt firstFailRegs) (hg2 : Allow pt lastUeRegs) (hp : Allow pt [.dies, .links, .mem, .poison, .issued,
    .accepted, .failed, .nextTag, .hosts, .ofReg .mem Reg.MEM_POISON_MADE, .ofReg .syn Reg.SYN_CTR_VALUE]) : Only pt z
    (State.moveRow s d u x m r) := by
  obtain ⟨q0, q1, q2, q3, q4, q5, q6, q7, q8, q9, q10, -⟩ := hp
  unfold State.moveRow
  repeat' first
    | (with_reducible first | assumption | exact Allow.nil | apply Allow.cons | apply Only.ite
                            | apply Only.deliver)
    | refine Only.of_eq (by assumption) ?_ | split | dsimp only
    | (with_reducible apply Only.mk_same) <;> first | with_reducible exact .inr (by assumption) | with_reducible exact .inl rfl | exact .inl rfl | skip

theorem Only.appendSeq (h : Only pt z s) (d : Die) (u : Nat) (x : Desc) (q : Seq) (n : Nat) (hg0 : Allow pt evtRegs)
    (hg1 : Allow pt firstFailRegs) (hg2 : Allow pt lastUeRegs) (hp : Allow pt [.dies, .links, .mem, .poison, .heads,
    .issued, .accepted, .failed, .nextTag, .hosts, .ofReg .mem Reg.MEM_POISON_MADE, .ofReg .syn Reg.SYN_CTR_VALUE]) :
    Only pt z (State.appendSeq s d u x q n) := by
  obtain ⟨q0, q1, q2, q3, q4, q5, q6, q7, q8, q9, q10, q11, -⟩ := hp
  unfold State.appendSeq
  repeat' first
    | intro _
    | (with_reducible first | assumption | exact Allow.nil | apply Allow.cons | apply Only.foldl
                            | apply Only.ite | apply Only.putResult)
    | refine Only.of_eq (by assumption) ?_ | split | dsimp only
    | (with_reducible apply Only.mk_same) <;> first | with_reducible exact .inr (by assumption) | with_reducible exact .inl rfl | exact .inl rfl | skip

theorem Only.descWrites (h : Only pt z s) (d : Die) (u : Nat) (x : Desc) (hg0 : Allow pt evtRegs) (hg1 : Allow pt
    firstFailRegs) (hg2 : Allow pt lastUeRegs) (hp : Allow pt [.dies, .links, .mem, .poison, .heads, .issued,
    .accepted, .failed, .nextTag, .hosts, .ofReg .mem Reg.MEM_POISON_MADE, .ofReg .syn Reg.SYN_CTR_VALUE]) : Only pt z
    (State.descWrites s d u x) := by
  obtain ⟨q0, q1, q2, q3, q4, q5, q6, q7, q8, q9, q10, q11, -⟩ := hp
  unfold State.descWrites
  repeat' first
    | intro _
    | (with_reducible first | assumption | exact Allow.nil | apply Allow.cons | apply Only.foldl
                            | apply Only.ite | apply Only.moveRow | apply Only.putResult | apply Only.appendSeq)
    | refine Only.of_eq (by assumption) ?_ | split | dsimp only
    | (with_reducible apply Only.mk_same) <;> first | with_reducible exact .inr (by assumption) | with_reducible exact .inl rfl | exact .inl rfl | skip

theorem Only.replayStep (h : Only pt z s) (d : Die) (x : Desc) (hp : Allow pt [.recov,
    .ofReg .rcv Reg.RCV_STATUS_REPLAY]) : Only pt z (State.replayStep s d x) := by
  obtain ⟨q0, q1, -⟩ := hp
  unfold State.replayStep
  repeat' first
    | (with_reducible first | assumption | exact Allow.nil | apply Allow.cons | apply Only.ite
                            | apply Only.setReplay)
    | refine Only.of_eq (by assumption) ?_ | split | dsimp only
    | (with_reducible apply Only.mk_same) <;> first | with_reducible exact .inr (by assumption) | with_reducible exact .inl rfl | exact .inl rfl | skip

theorem Only.dropFence (h : Only pt z s) (d : Die) (n : Nat) (u : Nat) (hp : Allow pt [.fences,
    .ofReg .mem Reg.MEM_PWSTAT_FENCING]) : Only pt z (State.dropFence s d n u) := by
  obtain ⟨q0, q1, -⟩ := hp
  unfold State.dropFence
  repeat' first
    | (with_reducible first | assumption | exact Allow.nil | apply Allow.cons | apply Only.ite
                            | apply Only.setFence | apply Only.setF)
    | refine Only.of_eq (by assumption) ?_ | split | dsimp only
    | (with_reducible apply Only.mk_same) <;> first | with_reducible exact .inr (by assumption) | with_reducible exact .inl rfl | exact .inl rfl | skip

theorem Only.boundFault (h : Only pt z s) (d : Die) (u : Nat) (x : Desc) (hg0 : Allow pt evtRegs) (hg1 : Allow pt
    ctxFaultRegs) (hg2 : Allow pt unitBusyRegs) (hp : Allow pt [.dies, .ctxs, .engs, .queues, .streams, .fences,
    .rdReqs, .hosts, .recov, .ofReg .dma Reg.DMA_M_POS, .ofReg .eng Reg.ENG_CTX_STATE_STATE,
    .ofReg .mem Reg.MEM_PWSTAT_FENCING, .ofReg .pwr Reg.PWR_DIE_A_HELD, .ofReg .rcv Reg.RCV_HELD,
    .ofReg .rcv Reg.RCV_STATUS_REPLAY, .ofReg .seq Reg.SEQ_Q_POS]) : Only pt z (State.boundFault s d u x) := by
  obtain ⟨q0, q1, q2, q3, q4, q5, q6, q7, q8, q9, q10, q11, q12, q13, q14, q15, -⟩ := hp
  unfold State.boundFault
  repeat' first
    | (with_reducible first | assumption | exact Allow.nil | apply Allow.cons | apply Only.ite
                            | apply Only.endNum | apply Only.replayHit | apply Only.dropFence
                            | apply Only.descFault)
    | refine Only.of_eq (by assumption) ?_ | split | dsimp only

theorem Only.endDesc (h : Only pt z s) (d : Die) (u : Nat) (x : Desc) (hg0 : Allow pt evtRegs) (hg1 : Allow pt
    firstFailRegs) (hg2 : Allow pt ctxFaultRegs) (hg3 : Allow pt unitBusyRegs) (hg4 : Allow pt lastUeRegs) (hp : Allow
    pt [.dies, .links, .mem, .poison, .ctxs, .engs, .queues, .streams, .heads, .issued, .accepted, .failed, .nextTag,
    .fences, .rdReqs, .hosts, .recov, .ofReg .dma Reg.DMA_M_POS, .ofReg .eng Reg.ENG_CTX_CHKPT_BEAT_BEAT,
    .ofReg .eng Reg.ENG_CTX_CHKPT_POS_POS, .ofReg .eng Reg.ENG_CTX_STATE_STATE, .ofReg .eng Reg.ENG_E_BUSY,
    .ofReg .mem Reg.MEM_POISON_MADE, .ofReg .mem Reg.MEM_POISON_READS, .ofReg .mem Reg.MEM_PWSTAT_FENCING,
    .ofReg .pwr Reg.PWR_DIE_A_HELD, .ofReg .rcv Reg.RCV_HELD, .ofReg .rcv Reg.RCV_STATUS_REPLAY,
    .ofReg .seq Reg.SEQ_Q_POS, .ofReg .syn Reg.SYN_CTR_VALUE]) : Only pt z (State.endDesc s d u x) := by
  obtain ⟨q0, q1, q2, q3, q4, q5, q6, q7, q8, q9, q10, q11, q12, q13, q14, q15, q16, q17, q18, q19, q20, q21, q22, q23, q24, q25, q26, q27, q28, q29, -⟩ := hp
  unfold State.endDesc
  repeat' first
    | (with_reducible first | assumption | exact Allow.nil | apply Allow.cons | apply Only.ite
                            | apply Only.boundFault | apply Only.abortUnit | apply Only.replayHit
                            | apply Only.accessFault | apply Only.descWrites | apply Only.replayStep
                            | apply Only.finishDesc | apply Only.setEng | apply Only.setF
                            | apply Only.freeEngine | apply Only.setQueue | apply Only.setStream)
    | refine Only.of_eq (by assumption) ?_ | split | dsimp only
    | (with_reducible apply Only.mk_same) <;> first | with_reducible exact .inr (by assumption) | with_reducible exact .inl rfl | exact .inl rfl | skip

theorem Only.doorbell (h : Only pt z s) (m : Mv) (w : Nat) (hp : Allow pt [.streams,
    .ofReg .eng Reg.ENG_CTX_STATE_DROPPED, .ofReg .eng Reg.ENG_CTX_STATE_STATE]) : Only pt z (State.doorbell s m w) :=
    by
  obtain ⟨q0, q1, q2, -⟩ := hp
  unfold State.doorbell
  repeat' first
    | (with_reducible first | assumption | exact Allow.nil | apply Allow.cons | apply Only.ite
                            | apply Only.mapStreams | apply Only.setCtxState | apply Only.bumpF)
    | refine Only.of_eq (by assumption) ?_ | split | dsimp only
    | (with_reducible apply Only.mk_same) <;> first | with_reducible exact .inr (by assumption) | with_reducible exact .inl rfl | exact .inl rfl | skip

theorem Only.ctrWrite (h : Only pt z s) (m : Mv) (n : Nat) (w : Nat) (hp : Allow pt [.ofReg .syn Reg.SYN_CTR_VALUE,
    .ofReg .syn Reg.SYN_STATUS_IGNORED]) : Only pt z (State.ctrWrite s m n w) := by
  obtain ⟨q0, q1, -⟩ := hp
  unfold State.ctrWrite
  repeat' first
    | (with_reducible first | assumption | exact Allow.nil | apply Allow.cons | apply Only.ite
                            | apply Only.signal | apply Only.bumpF)
    | refine Only.of_eq (by assumption) ?_ | split | dsimp only
    | (with_reducible apply Only.mk_same) <;> first | with_reducible exact .inr (by assumption) | with_reducible exact .inl rfl | exact .inl rfl | skip

theorem Only.logFault (h : Only pt z s) (b : Blk) (area : Nat) (rc : Nat) (hg0 : Allow pt evtRegs) (hp : Allow pt
    [.dies]) : Only pt z (State.logFault s b area rc) := by
  obtain ⟨q0, -⟩ := hp
  unfold State.logFault
  repeat' first
    | (with_reducible first | assumption | exact Allow.nil | apply Allow.cons | apply Only.ite | apply Only.log)
    | refine Only.of_eq (by assumption) ?_ | split | dsimp only

theorem Only.noteVersion (h : Only pt z s) (l : List Byte) (hp : Allow pt [.ofReg .sec Reg.SEC_VERSION]) : Only pt z
    (State.noteVersion s l) := by
  obtain ⟨q0, -⟩ := hp
  unfold State.noteVersion
  repeat' first
    | (with_reducible first | assumption | exact Allow.nil | apply Allow.cons | apply Only.ite
                            | apply Only.setF)
    | refine Only.of_eq (by assumption) ?_ | split | dsimp only

theorem Only.partitionDone (h : Only pt z s) (m : Mv) (hp : Allow pt [.rcv, .recov]) : Only pt z (State.partitionDone
    s m) := by
  obtain ⟨q0, q1, -⟩ := hp
  unfold State.partitionDone
  repeat' first
    | (with_reducible first | assumption | exact Allow.nil | apply Allow.cons | apply Only.ite
                            | apply Only.setDom)
    | refine Only.of_eq (by assumption) ?_ | split | dsimp only
    | (with_reducible apply Only.mk_same) <;> first | with_reducible exact .inr (by assumption) | with_reducible exact .inl rfl | exact .inl rfl | skip

theorem Only.takeHeartbeat (h : Only pt z s) (e : LinkEnd) (box : Nat) (hp : Allow pt [.dies, .recov]) : Only pt z
    (State.takeHeartbeat s e box) := by
  obtain ⟨q0, q1, -⟩ := hp
  unfold State.takeHeartbeat
  repeat' first
    | (with_reducible first | assumption | exact Allow.nil | apply Allow.cons | apply Only.ite
                            | apply Only.setDie)
    | refine Only.of_eq (by assumption) ?_ | split | dsimp only
    | (with_reducible apply Only.mk_same) <;> first | with_reducible exact .inr (by assumption) | with_reducible exact .inl rfl | exact .inl rfl | skip

theorem Only.letResume (h : Only pt z s) (n : Nat) (asIs : Bool) (hp : Allow pt [.ctxs, .ofReg .rcv Reg.RCV_HELD]) :
    Only pt z (State.letResume s n asIs) := by
  obtain ⟨q0, q1, -⟩ := hp
  unfold State.letResume
  repeat' first
    | intro _
    | (with_reducible first | assumption | exact Allow.nil | apply Allow.cons | apply Only.foldl
                            | apply Only.ite | apply Only.setF | apply Only.setCtx)
    | refine Only.of_eq (by assumption) ?_ | split | dsimp only
    | (with_reducible apply Only.mk_same) <;> first | with_reducible exact .inr (by assumption) | with_reducible exact .inl rfl | exact .inl rfl | skip

theorem Only.releaseCtx (h : Only pt z s) (n : Nat) (hp : Allow pt [.dies, .ctxs, .ofReg .eng Reg.ENG_CTX_STATE_STATE,
    .ofReg .rcv Reg.RCV_HELD]) : Only pt z (State.releaseCtx s n) := by
  obtain ⟨q0, q1, q2, q3, -⟩ := hp
  unfold State.releaseCtx
  repeat' first
    | intro _
    | (with_reducible first | assumption | exact Allow.nil | apply Allow.cons | apply Only.foldl
                            | apply Only.ite | apply Only.setF | apply Only.setCtxState | apply Only.setDie
                            | apply Only.letResume)
    | refine Only.of_eq (by assumption) ?_ | split | dsimp only
    | (with_reducible apply Only.mk_same) <;> first | with_reducible exact .inr (by assumption) | with_reducible exact .inl rfl | exact .inl rfl | skip

theorem Only.releaseMask (h : Only pt z s) (w : Nat) (hp : Allow pt [.dies, .ctxs,
    .ofReg .eng Reg.ENG_CTX_STATE_STATE, .ofReg .rcv Reg.RCV_HELD]) : Only pt z (State.releaseMask s w) := by
  obtain ⟨q0, q1, q2, q3, -⟩ := hp
  unfold State.releaseMask
  repeat' first
    | intro _
    | (with_reducible first | assumption | exact Allow.nil | apply Allow.cons | apply Only.foldl
                            | apply Only.ite | apply Only.releaseCtx)
    | refine Only.of_eq (by assumption) ?_ | split | dsimp only

theorem Only.holdCtx (h : Only pt z s) (d : Die) (n : Nat) (eng : Nat) (rc : Nat) (hg0 : Allow pt evtRegs) (hg1 :
    Allow pt ctxFaultRegs) (hp : Allow pt [.dies, .ctxs, .recov, .ofReg .eng Reg.ENG_CTX_STATE_STATE,
    .ofReg .rcv Reg.RCV_HELD]) : Only pt z (State.holdCtx s d n eng rc) := by
  obtain ⟨q0, q1, q2, q3, q4, -⟩ := hp
  unfold State.holdCtx
  repeat' first
    | intro _
    | (with_reducible first | assumption | exact Allow.nil | apply Allow.cons | apply Only.foldl
                            | apply Only.ite | apply Only.setCtx | apply Only.setF | apply Only.ctxFaultOn)
    | refine Only.of_eq (by assumption) ?_ | split | dsimp only
    | (with_reducible apply Only.mk_same) <;> first | with_reducible exact .inr (by assumption) | with_reducible exact .inl rfl | exact .inl rfl | skip

theorem Only.noteSuspects (h : Only pt z s) (d : Die) (u : Nat) (lvl : Nat) (hp : Allow pt
    [.ofReg .rcv Reg.RCV_SUSPECT_MASK]) : Only pt z (State.noteSuspects s d u lvl) := by
  obtain ⟨q0, -⟩ := hp
  unfold State.noteSuspects
  repeat' first
    | (with_reducible first | assumption | exact Allow.nil | apply Allow.cons | apply Only.ite
                            | apply Only.setF)
    | refine Only.of_eq (by assumption) ?_ | split | dsimp only

theorem Only.fenceDie (h : Only pt z s) (d : Die) (es : List Nat) (rc : Nat) (susp : Bool) (hg0 : Allow pt evtRegs)
    (hg1 : Allow pt ctxFaultRegs) (hg2 : Allow pt unitBusyRegs) (hp : Allow pt [.dies, .ctxs, .queues, .streams,
    .fences, .rdReqs, .hosts, .recov, .ofReg .dma Reg.DMA_M_POS, .ofReg .eng Reg.ENG_CTX_STATE_STATE,
    .ofReg .mem Reg.MEM_PWSTAT_FENCING, .ofReg .rcv Reg.RCV_HELD, .ofReg .seq Reg.SEQ_Q_POS]) : Only pt z
    (State.fenceDie s d es rc susp) := by
  obtain ⟨q0, q1, q2, q3, q4, q5, q6, q7, q8, q9, q10, q11, q12, -⟩ := hp
  unfold State.fenceDie
  repeat' first
    | intro _
    | (with_reducible first | assumption | exact Allow.nil | apply Allow.cons | apply Only.foldl
                            | apply Only.ite | apply Only.holdCtx | apply Only.dropQueued | apply Only.dropReads
                            | apply Only.setFence | apply Only.setF)
    | refine Only.of_eq (by assumption) ?_ | split | dsimp only
    | (with_reducible apply Only.mk_same) <;> first | with_reducible exact .inr (by assumption) | with_reducible exact .inl rfl | exact .inl rfl | skip

theorem Only.zeroRange (h : Only pt z s) (pa : Nat) (n : Nat) (hp : Allow pt [.mem]) : Only pt z (State.zeroRange s pa
    n) := by
  obtain ⟨q0, -⟩ := hp
  unfold State.zeroRange
  repeat' first
    | (with_reducible first | assumption | exact Allow.nil | apply Allow.cons | apply Only.ite)
    | refine Only.of_eq (by assumption) ?_ | split | dsimp only
    | (with_reducible apply Only.mk_same) <;> first | with_reducible exact .inr (by assumption) | with_reducible exact .inl rfl | exact .inl rfl | skip

theorem Only.dump (h : Only pt z s) (d : Die) (x : RcvDom) (hp : Allow pt [.mem, .ofReg .rcv Reg.RCV_DUMP_SEQ,
    .ofReg .rcv Reg.RCV_DUMP_SLOT]) : Only pt z (State.dump s d x) := by
  obtain ⟨q0, q1, q2, -⟩ := hp
  unfold State.dump
  repeat' first
    | intro _
    | (with_reducible first | assumption | exact Allow.nil | apply Allow.cons | apply Only.foldl
                            | apply Only.ite | apply Only.wrBytes | apply Only.zeroRange | apply Only.setF)
    | refine Only.of_eq (by assumption) ?_ | split | dsimp only
    | (with_reducible apply Only.mk_same) <;> first | with_reducible exact .inr (by assumption) | with_reducible exact .inl rfl | exact .inl rfl | skip

theorem Only.poisonBuffers (h : Only pt z s) (d : Die) (hp : Allow pt [.poison]) : Only pt z (State.poisonBuffers s d)
    := by
  obtain ⟨q0, -⟩ := hp
  unfold State.poisonBuffers
  repeat' first
    | (with_reducible first | assumption | exact Allow.nil | apply Allow.cons | apply Only.ite)
    | refine Only.of_eq (by assumption) ?_ | split | dsimp only
    | (with_reducible apply Only.mk_same) <;> first | with_reducible exact .inr (by assumption) | with_reducible exact .inl rfl | exact .inl rfl | skip

theorem Only.resetEngine (h : Only pt z s) (d : Die) (e : Nat) (hp : Allow pt [.engs, .ofReg .eng Reg.ENG_E_BUSY]) :
    Only pt z (State.resetEngine s d e) := by
  obtain ⟨q0, q1, -⟩ := hp
  unfold State.resetEngine
  repeat' first
    | (with_reducible first | assumption | exact Allow.nil | apply Allow.cons | apply Only.ite
                            | apply Only.setEng | apply Only.setF)
    | refine Only.of_eq (by assumption) ?_ | split | dsimp only
    | (with_reducible apply Only.mk_same) <;> first | with_reducible exact .inr (by assumption) | with_reducible exact .inl rfl | exact .inl rfl | skip

theorem Only.resetMvc (h : Only pt z s) (d : Die) (hg0 : Allow pt unitBusyRegs) (hp : Allow pt [.poison, .engs,
    .queues, .streams, .rdReqs, .chg, .ofReg .dma Reg.DMA_M_POS, .ofReg .eng Reg.ENG_E_BUSY,
    .ofReg .mem Reg.MEM_POISON_MADE, .ofReg .seq Reg.SEQ_Q_POS, .ofReg .syn Reg.SYN_BAR_ARRIVED,
    .ofReg .syn Reg.SYN_BAR_GEN, .ofReg .syn Reg.SYN_CTR_VALUE]) : Only pt z (s.resetMvc d) := by
  obtain ⟨q0, q1, q2, q3, q4, q5, q6, q7, q8, q9, q10, q11, q12, -⟩ := hp
  unfold State.resetMvc
  extract_lets s1 s2 s3 s4 s5 s6 s7 undo c8 s8
  have h1 : Only pt z s1 := .foldl _ (fun u e hu => by apply Only.resetEngine <;> (repeat' first | with_reducible assumption | with_reducible exact Allow.nil | with_reducible apply Allow.cons)) h
  clear_value s1
  have h2 : Only pt z s2 := .foldl _ (fun u e hu => by
    refine Only.setEng (Only.setQueue hu _ _ _ ?_ ?_) _ _ _ ?_ <;> (repeat' first | with_reducible assumption | with_reducible exact Allow.nil | with_reducible apply Allow.cons)) h1
  clear_value s2
  have h3 : Only pt z s3 := .foldl _ (fun u e hu => by apply Only.setF <;> (repeat' first | with_reducible assumption | with_reducible exact Allow.nil | with_reducible apply Allow.cons)) h2
  clear_value s3
  have h4 : Only pt z s4 := .foldl _ (fun u e hu => by
    refine Only.setF (Only.setF hu _ _ _ _ _ _ ?_) _ _ _ _ _ _ ?_ <;> (repeat' first | with_reducible assumption | with_reducible exact Allow.nil | with_reducible apply Allow.cons)) h3
  clear_value s4
  have h5 : Only pt z s5 := .foldl _ (fun u e hu => by apply Only.mapStreams <;> (repeat' first | with_reducible assumption | with_reducible exact Allow.nil | with_reducible apply Allow.cons)) h4
  clear_value s5
  have h6 : Only pt z s6 := by
    (with_reducible apply Only.mk_same) <;> first | with_reducible exact .inr (by assumption) | with_reducible exact .inl rfl | with_reducible assumption
  clear_value s6
  have h7 : Only pt z s7 := by apply Only.poisonBuffers <;> (repeat' first | with_reducible assumption | with_reducible exact Allow.nil | with_reducible apply Allow.cons)
  clear_value s7
  have h8 : Only pt z s8 := by
    unfold s8
    split
    · (with_reducible apply Only.mk_same) <;> first | with_reducible exact .inr (by assumption) | with_reducible exact .inl rfl | with_reducible assumption
    · exact h7
  clear_value s8
  apply Only.addF <;> (repeat' first | with_reducible assumption | with_reducible exact Allow.nil | with_reducible apply Allow.cons)

theorem Only.restartCtl (h : Only pt z s) (m : Mv) (hg0 : Allow pt evtRegs) (hp : Allow pt [.dies, .ctxs, .recov,
    .ofReg .rcv Reg.RCV_HELD]) : Only pt z (State.restartCtl s m) := by
  obtain ⟨q0, q1, q2, q3, -⟩ := hp
  unfold State.restartCtl
  repeat' first
    | intro _
    | (with_reducible first | assumption | exact Allow.nil | apply Allow.cons | apply Only.foldl
                            | apply Only.ite | apply Only.log | apply Only.answerFault)
    | refine Only.of_eq (by assumption) ?_ | split | dsimp only
    | (with_reducible apply Only.mk_same) <;> first | with_reducible exact .inr (by assumption) | with_reducible exact .inl rfl | exact .inl rfl | skip

theorem Only.handUp (h : Only pt z s) (k : Nat) (hg0 : Allow pt evtRegs) (hg1 : Allow pt lastRegs) (hg2 : Allow pt
    histRegs) (hp : Allow pt [.dies, .links, .pins, .rcv, .recov, .ofReg .rcv Reg.RCV_STATUS_LEVEL,
    .ofReg .rcv Reg.RCV_STATUS_PWRCYC]) : Only pt z (State.handUp s k) := by
  obtain ⟨q0, q1, q2, q3, q4, q5, q6, -⟩ := hp
  unfold State.handUp
  repeat' first
    | (with_reducible first | assumption | exact Allow.nil | apply Allow.cons | apply Only.ite
                            | apply Only.powerCycle | apply Only.trigger)
    | refine Only.of_eq (by assumption) ?_ | split | dsimp only

theorem Only.replayVerdict (h : Only pt z s) (d : Die) (r : Replay) (reason : Nat) (hg0 : Allow pt evtRegs) (hp :
    Allow pt [.dies, .mem, .rcv, .recov, .ofReg .pwr Reg.PWR_DIE_A_HELD, .ofReg .rcv Reg.RCV_INCONCL,
    .ofReg .rcv Reg.RCV_STATUS_REPLAY]) : Only pt z (State.replayVerdict s d r reason) := by
  obtain ⟨q0, q1, q2, q3, q4, q5, q6, -⟩ := hp
  unfold State.replayVerdict
  repeat' first
    | intro _
    | (with_reducible first | assumption | exact Allow.nil | apply Allow.cons | apply Only.foldl
                            | apply Only.ite | apply Only.returnToken | apply Only.setReplay | apply Only.log
                            | apply Only.setF | apply Only.setDom)
    | refine Only.of_eq (by assumption) ?_ | split | dsimp only
    | (with_reducible apply Only.mk_same) <;> first | with_reducible exact .inr (by assumption) | with_reducible exact .inl rfl | exact .inl rfl | skip

theorem Only.nextSuspect (h : Only pt z s) (d : Die) (r : Replay) (hg0 : Allow pt evtRegs) (hp : Allow pt [.dies,
    .mem, .rcv, .recov, .ofReg .pwr Reg.PWR_DIE_A_HELD, .ofReg .rcv Reg.RCV_INCONCL,
    .ofReg .rcv Reg.RCV_STATUS_REPLAY]) : Only pt z (State.nextSuspect s d r) := by
  obtain ⟨q0, q1, q2, q3, q4, q5, q6, -⟩ := hp
  unfold State.nextSuspect
  repeat' first
    | (with_reducible first | assumption | exact Allow.nil | apply Allow.cons | apply Only.ite
                            | apply Only.setReplay | apply Only.replayVerdict)
    | refine Only.of_eq (by assumption) ?_ | split | dsimp only
    | (with_reducible apply Only.mk_same) <;> first | with_reducible exact .inr (by assumption) | with_reducible exact .inl rfl | exact .inl rfl | skip

theorem Only.resetReplay (h : Only pt z s) (d : Die) (r : Replay) (hg0 : Allow pt unitBusyRegs) (hp : Allow pt [.engs,
    .queues, .streams, .rdReqs, .hosts, .ofReg .dma Reg.DMA_M_POS, .ofReg .eng Reg.ENG_E_BUSY,
    .ofReg .seq Reg.SEQ_Q_POS]) : Only pt z (State.resetReplay s d r) := by
  obtain ⟨q0, q1, q2, q3, q4, q5, q6, q7, -⟩ := hp
  unfold State.resetReplay
  repeat' first
    | intro _
    | (with_reducible first | assumption | exact Allow.nil | apply Allow.cons | apply Only.foldl
                            | apply Only.ite | apply Only.resetEngine | apply Only.dropQueued
                            | apply Only.setEng)
    | refine Only.of_eq (by assumption) ?_ | split | dsimp only
    | (with_reducible apply Only.mk_same) <;> first | with_reducible exact .inr (by assumption) | with_reducible exact .inl rfl | exact .inl rfl | skip

theorem Only.endHold (h : Only pt z s) (d : Die) (n : Nat) (asIs : Bool) (hg0 : Allow pt evtRegs) (hp : Allow pt
    [.dies, .ctxs, .ofReg .rcv Reg.RCV_HELD]) : Only pt z (State.endHold s d n asIs) := by
  obtain ⟨q0, q1, q2, -⟩ := hp
  unfold State.endHold
  repeat' first
    | (with_reducible first | assumption | exact Allow.nil | apply Allow.cons | apply Only.ite | apply Only.log
                            | apply Only.letResume)
    | refine Only.of_eq (by assumption) ?_ | split | dsimp only

theorem Only.takePkgBeat (h : Only pt z s) (box : Nat) (hp : Allow pt [.links, .recov]) : Only pt z (State.takePkgBeat
    s box) := by
  obtain ⟨q0, q1, -⟩ := hp
  unfold State.takePkgBeat
  repeat' first
    | (with_reducible first | assumption | exact Allow.nil | apply Allow.cons | apply Only.ite
                            | apply Only.sbSend | apply Only.sendOrder)
    | refine Only.of_eq (by assumption) ?_ | split | dsimp only
    | (with_reducible apply Only.mk_same) <;> first | with_reducible exact .inr (by assumption) | with_reducible exact .inl rfl | exact .inl rfl | skip

theorem Only.trayStop (h : Only pt z s)  (hg0 : Allow pt evtRegs) (hg1 : Allow pt lastRegs) (hg2 : Allow pt histRegs)
    (hp : Allow pt [.dies, .links, .rcv, .recov, .ofReg .rcv Reg.RCV_STATUS_LEVEL]) : Only pt z (State.trayStop s) :=
    by
  obtain ⟨q0, q1, q2, q3, q4, -⟩ := hp
  unfold State.trayStop
  repeat' first
    | (with_reducible first | assumption | exact Allow.nil | apply Allow.cons | apply Only.ite
                            | apply Only.stopAllSc | apply Only.trigger)
    | refine Only.of_eq (by assumption) ?_ | split | dsimp only
    | (with_reducible apply Only.mk_same) <;> first | with_reducible exact .inr (by assumption) | with_reducible exact .inl rfl | exact .inl rfl | skip

theorem Only.force (h : Only pt z s) (lvl : Nat) (die : Nat) (eng : Nat) (hg0 : Allow pt evtRegs) (hg1 : Allow pt
    refusalRegs) (hg2 : Allow pt lastRegs) (hg3 : Allow pt histRegs) (hp : Allow pt [.dies, .links, .rcv, .recov,
    .ofReg .rcv Reg.RCV_FORCE_DIE, .ofReg .rcv Reg.RCV_FORCE_ENGINE, .ofReg .rcv Reg.RCV_FORCE_LEVEL,
    .ofReg .rcv Reg.RCV_STATUS_LEVEL, .ofReg .rcv Reg.RCV_STATUS_REASON, .ofReg .rcv Reg.RCV_STATUS_REFUSED,
    .ofReg .rcv Reg.RCV_SUSPECT_MASK]) : Only pt z (State.force s lvl die eng) := by
  obtain ⟨q0, q1, q2, q3, q4, q5, q6, q7, q8, q9, q10, -⟩ := hp
  unfold State.force
  repeat' first
    | (with_reducible first | assumption | exact Allow.nil | apply Allow.cons | apply Only.ite | apply Only.setF
                            | apply Only.refuse | apply Only.noteSuspects | apply Only.trigger)
    | (show pt (Field.ofReg _ _) = true; assumption) | refine Only.of_eq (by assumption) ?_ | split | dsimp only

end Sys2Proof.Machine
end

