-- ==== Sys2Proof/Laws/OnlyCrown.lean ====
section
/-! SUPPORT. `Only` for the operations of the host port, fusion, Ethernet and the ledger:
which parts of the state each changes. -/

namespace Sys2Proof.Machine

variable {pt : Field → Bool} {z s t : State}

theorem Only.hostOutside (h : Only pt z s) (c : Crown) (x : Nat) (hg0 : Allow pt evtRegs) (hp : Allow pt [.dies,
    .ofReg .pci Reg.PCI_ERR_OUTSIDE]) : Only pt z (State.hostOutside s c x) := by
  obtain ⟨q0, q1, -⟩ := hp
  unfold State.hostOutside
  repeat' first
    | (with_reducible first | assumption | exact Allow.nil | apply Allow.cons | apply Only.ite | apply Only.log
                            | apply Only.bumpF)
    | refine Only.of_eq (by assumption) ?_ | split | dsimp only

theorem Only.failMove (h : Only pt z s) (c : Crown) (r : HostMove) (cause : Nat) (hg0 : Allow pt evtRegs) (hg1 : Allow
    pt firstFailRegs) (hg2 : Allow pt ctxFaultRegs) (hg3 : Allow pt lastUeRegs) (hp : Allow pt [.free, .dies, .links,
    .mem, .poison, .ctxs, .issued, .accepted, .failed, .nextTag, .hosts, .recov, .ofReg .eng Reg.ENG_CTX_STATE_STATE,
    .ofReg .mem Reg.MEM_POISON_MADE, .ofReg .rcv Reg.RCV_HELD, .ofReg .syn Reg.SYN_CTR_VALUE]) : Only pt z
    (State.failMove s c r cause) := by
  obtain ⟨q0, q1, q2, q3, q4, q5, q6, q7, q8, q9, q10, q11, q12, q13, q14, q15, -⟩ := hp
  unfold State.failMove
  repeat' first
    | (with_reducible first | assumption | exact Allow.nil | apply Allow.cons | apply Only.ite
                            | apply Only.setHost | apply Only.draw | apply Only.deliver | apply Only.log
                            | apply Only.faultAll)
    | refine Only.of_eq (by assumption) ?_ | split | dsimp only
    | (with_reducible apply Only.mk_same) <;> first | with_reducible exact .inr (by assumption) | with_reducible exact .inl rfl | exact .inl rfl | skip

theorem Only.timeoutMove (h : Only pt z s) (c : Crown) (r : HostMove) (hg0 : Allow pt evtRegs) (hg1 : Allow pt
    firstFailRegs) (hg2 : Allow pt ctxFaultRegs) (hg3 : Allow pt lastUeRegs) (hp : Allow pt [.free, .dies, .links,
    .mem, .poison, .ctxs, .issued, .accepted, .failed, .nextTag, .hosts, .recov, .ofReg .eng Reg.ENG_CTX_STATE_STATE,
    .ofReg .mem Reg.MEM_POISON_MADE, .ofReg .pci Reg.PCI_ERR_CPL_TO, .ofReg .rcv Reg.RCV_HELD,
    .ofReg .syn Reg.SYN_CTR_VALUE]) : Only pt z (State.timeoutMove s c r) := by
  obtain ⟨q0, q1, q2, q3, q4, q5, q6, q7, q8, q9, q10, q11, q12, q13, q14, q15, q16, -⟩ := hp
  unfold State.timeoutMove
  repeat' first
    | (with_reducible first | assumption | exact Allow.nil | apply Allow.cons | apply Only.ite
                            | apply Only.failMove | apply Only.bumpF)
    | refine Only.of_eq (by assumption) ?_ | split | dsimp only

theorem Only.resetPci (h : Only pt z s) (c : Crown) (fs : List Fld) (n : Nat) (stride : Nat)
    (hf : Allow pt (fs.map (Field.ofReg .pci))) : Only pt z (s.resetPci c fs n stride) := by
  have one : ∀ (l : List Fld) (i : Nat) (u : State), Allow pt (l.map (Field.ofReg .pci)) → Only pt z u →
      Only pt z (l.foldl (fun u f => u.setF (.cr c) .pci 0 f f.reset (i * stride)) u) := by
    intro l i
    induction l with
    | nil => exact fun u _ hu => hu
    | cons f l ih => exact fun u hl hu => ih _ hl.2 (hu.setF _ _ _ _ _ _ ⟨hl.1, trivial⟩)
  exact .foldl _ (fun u i hu => one fs i u hf hu) h

theorem Only.bar4Word (h : Only pt z s) (c : Crown) (off : Nat) (hp : Allow pt [.free]) : Only pt z (State.bar4Word s
    c off).2 := by
  obtain ⟨q0, -⟩ := hp
  unfold State.bar4Word
  repeat' first
    | (with_reducible first | assumption | exact Allow.nil | apply Allow.cons | apply Only.ite
                            | apply Only.ite_snd | apply Only.draw)
    | refine Only.of_eq (by assumption) ?_ | split | dsimp only
    | (with_reducible apply Only.mk_same) <;> first | with_reducible exact .inr (by assumption) | with_reducible exact .inl rfl | exact .inl rfl | skip

theorem Only.ethStart (h : Only pt z s) (c : Crown) (p : Nat) (at_ : Nat) (frame : List Byte) (hp : Allow pt [.hosts])
    : Only pt z (State.ethStart s c p at_ frame) := by
  obtain ⟨q0, -⟩ := hp
  unfold State.ethStart
  repeat' first
    | (with_reducible first | assumption | exact Allow.nil | apply Allow.cons | apply Only.ite
                            | apply Only.setHost)
    | refine Only.of_eq (by assumption) ?_ | split | dsimp only
    | (with_reducible apply Only.mk_same) <;> first | with_reducible exact .inr (by assumption) | with_reducible exact .inl rfl | exact .inl rfl | skip

theorem Only.ethPut (h : Only pt z s) (c : Crown) (p : Nat) (frame : List Byte) (hp : Allow pt [.hosts]) : Only pt z
    (State.ethPut s c p frame) := by
  obtain ⟨q0, -⟩ := hp
  unfold State.ethPut
  repeat' first
    | (with_reducible first | assumption | exact Allow.nil | apply Allow.cons | apply Only.ite
                            | apply Only.setHost | apply Only.ethStart)
    | refine Only.of_eq (by assumption) ?_ | split | dsimp only
    | (with_reducible apply Only.mk_same) <;> first | with_reducible exact .inr (by assumption) | with_reducible exact .inl rfl | exact .inl rfl | skip

theorem Only.ethFlush (h : Only pt z s) (c : Crown) (p : Nat) (hp : Allow pt [.hosts]) : Only pt z (State.ethFlush s c
    p) := by
  obtain ⟨q0, -⟩ := hp
  unfold State.ethFlush
  repeat' first
    | intro _
    | (with_reducible first | assumption | exact Allow.nil | apply Allow.cons | apply Only.foldl
                            | apply Only.ite | apply Only.ethPut | apply Only.setHost)
    | refine Only.of_eq (by assumption) ?_ | split | dsimp only
    | (with_reducible apply Only.mk_same) <;> first | with_reducible exact .inr (by assumption) | with_reducible exact .inl rfl | exact .inl rfl | skip

theorem Only.ethSend (h : Only pt z s) (c : Crown) (p : Nat) (l : List Byte) (hp : Allow pt [.hosts]) : Only pt z
    (State.ethSend s c p l) := by
  obtain ⟨q0, -⟩ := hp
  unfold State.ethSend
  repeat' first
    | (with_reducible first | assumption | exact Allow.nil | apply Allow.cons | apply Only.ite
                            | apply Only.ethFlush | apply Only.ethPut)
    | refine Only.of_eq (by assumption) ?_ | split | dsimp only

theorem Only.sendResult (h : Only pt z s) (o : ImgOut) (tmf : List Byte) (hp : Allow pt [.free, .hosts]) : Only pt z
    (State.sendResult s o tmf) := by
  obtain ⟨q0, q1, -⟩ := hp
  unfold State.sendResult
  repeat' first
    | (with_reducible first | assumption | exact Allow.nil | apply Allow.cons | apply Only.ite | apply Only.draw
                            | apply Only.setHost | apply Only.ethStart | apply Only.ethFlush)
    | refine Only.of_eq (by assumption) ?_ | split | dsimp only
    | (with_reducible apply Only.mk_same) <;> first | with_reducible exact .inr (by assumption) | with_reducible exact .inl rfl | exact .inl rfl | skip

theorem Only.writeRing (h : Only pt z s) (c : Crown) (r : Nat) (tmf : List Byte) (hg0 : Allow pt evtRegs) (hp : Allow
    pt [.hosts, .ofReg .pci Reg.PCI_RING_DROPPED_DROPPED, .ofReg .pci Reg.PCI_RING_HEAD_HEAD]) : Only pt z
    (State.writeRing s c r tmf) := by
  obtain ⟨q0, q1, q2, -⟩ := hp
  unfold State.writeRing
  repeat' first
    | (with_reducible first | assumption | exact Allow.nil | apply Allow.cons | apply Only.ite
                            | apply Only.bumpF | apply Only.setHost | apply Only.setF | apply Only.raiseOn)
    | refine Only.of_eq (by assumption) ?_ | split | dsimp only
    | (with_reducible apply Only.mk_same) <;> first | with_reducible exact .inr (by assumption) | with_reducible exact .inl rfl | exact .inl rfl | skip

theorem Only.ethLoad (h : Only pt z s) (c : Crown) (hp : Allow pt [.ofReg .eth Reg.ETH_TBL_DATA_DATA]) : Only pt z
    (State.ethLoad s c) := by
  obtain ⟨q0, -⟩ := hp
  unfold State.ethLoad
  repeat' first
    | intro _
    | (with_reducible first | assumption | exact Allow.nil | apply Allow.cons | apply Only.foldl
                            | apply Only.ite | apply Only.setF)
    | refine Only.of_eq (by assumption) ?_ | split | dsimp only

theorem Only.mapCount (h : Only pt z s) (c : Crown) (i : Nat) (k : Nat) (n : Nat) (hp : Allow pt [.tables]) : Only pt
    z (State.mapCount s c i k n) := by
  obtain ⟨q0, -⟩ := hp
  unfold State.mapCount
  repeat' first
    | (with_reducible first | assumption | exact Allow.nil | apply Allow.cons | apply Only.ite
                            | apply Only.setTbl)
    | refine Only.of_eq (by assumption) ?_ | split | dsimp only

theorem Only.setFusion (h : Only pt z s) (c : Crown) (f : FusSt) (hp : Allow pt [.fus]) : Only pt z (State.setFusion s
    c f) := by
  obtain ⟨q0, -⟩ := hp
  unfold State.setFusion
  repeat' first
    | (with_reducible first | assumption | exact Allow.nil | apply Allow.cons | apply Only.ite)
    | refine Only.of_eq (by assumption) ?_ | split | dsimp only
    | (with_reducible apply Only.mk_same) <;> first | with_reducible exact .inr (by assumption) | with_reducible exact .inl rfl | exact .inl rfl | skip

theorem Only.setGrp (h : Only pt z s) (c : Crown) (g : Nat) (x : GrpSt) (hp : Allow pt [.fus]) : Only pt z
    (State.setGrp s c g x) := by
  obtain ⟨q0, -⟩ := hp
  unfold State.setGrp
  repeat' first
    | (with_reducible first | assumption | exact Allow.nil | apply Allow.cons | apply Only.ite
                            | apply Only.setFusion)
    | refine Only.of_eq (by assumption) ?_ | split | dsimp only
    | (with_reducible apply Only.mk_same) <;> first | with_reducible exact .inr (by assumption) | with_reducible exact .inl rfl | exact .inl rfl | skip

theorem Only.place (h : Only pt z s) (c : Crown) (i : Nat) (m : Int) (chans : List (Nat × Nat × Nat)) (hp : Allow pt
    [.tables, .fus, .ofReg .fus Reg.FUS_GRP_STALE_COMPLETE]) : Only pt z (State.place s c i m chans) := by
  obtain ⟨q0, q1, q2, -⟩ := hp
  unfold State.place
  repeat' first
    | (with_reducible first | assumption | exact Allow.nil | apply Allow.cons | apply Only.ite
                            | apply Only.mapCount | apply Only.setGrp | apply Only.bumpF)
    | refine Only.of_eq (by assumption) ?_ | split | dsimp only
    | (with_reducible apply Only.mk_same) <;> first | with_reducible exact .inr (by assumption) | with_reducible exact .inl rfl | exact .inl rfl | skip

theorem Only.setCoef (h : Only pt z s) (c : Crown) (ch : Nat) (v : Nat) (commit : Bool) (hp : Allow pt [.tables, .fus,
    .ofReg .fus Reg.FUS_COUNT_FROZEN]) : Only pt z (State.setCoef s c ch v commit) := by
  obtain ⟨q0, q1, q2, -⟩ := hp
  unfold State.setCoef
  repeat' first
    | (with_reducible first | assumption | exact Allow.nil | apply Allow.cons | apply Only.ite
                            | apply Only.setFusion | apply Only.setTbl | apply Only.setF)
    | refine Only.of_eq (by assumption) ?_ | split | dsimp only
    | (with_reducible apply Only.mk_same) <;> first | with_reducible exact .inr (by assumption) | with_reducible exact .inl rfl | exact .inl rfl | skip

theorem Only.correct (h : Only pt z s) (c : Crown) (r : Nat) (x : Snap) (hp : Allow pt [.mem, .poison,
    .ofReg .mem Reg.MEM_POISON_MADE]) : Only pt z (State.correct s c r x) := by
  obtain ⟨q0, q1, q2, -⟩ := hp
  unfold State.correct
  repeat' first
    | (with_reducible first | assumption | exact Allow.nil | apply Allow.cons | apply Only.ite
                            | apply Only.localWrite)
    | refine Only.of_eq (by assumption) ?_ | split | dsimp only
    | (with_reducible apply Only.mk_same) <;> first | with_reducible exact .inr (by assumption) | with_reducible exact .inl rfl | exact .inl rfl | skip

theorem Only.clearLanded (h : Only pt z s) (c : Crown) (tag : Nat) (hp : Allow pt [.landed]) : Only pt z
    (State.clearLanded s c tag) := by
  obtain ⟨q0, -⟩ := hp
  unfold State.clearLanded
  repeat' first
    | (with_reducible first | assumption | exact Allow.nil | apply Allow.cons | apply Only.ite)
    | refine Only.of_eq (by assumption) ?_ | split | dsimp only
    | (with_reducible apply Only.mk_same) <;> first | with_reducible exact .inr (by assumption) | with_reducible exact .inl rfl | exact .inl rfl | skip

theorem Only.gainReset (h : Only pt z s) (c : Crown) (ch : Nat) (rms : Nat) (hp : Allow pt [.fus]) : Only pt z
    (State.gainReset s c ch rms) := by
  obtain ⟨q0, -⟩ := hp
  unfold State.gainReset
  repeat' first
    | (with_reducible first | assumption | exact Allow.nil | apply Allow.cons | apply Only.ite
                            | apply Only.setFusion)
    | refine Only.of_eq (by assumption) ?_ | split | dsimp only
    | (with_reducible apply Only.mk_same) <;> first | with_reducible exact .inr (by assumption) | with_reducible exact .inl rfl | exact .inl rfl | skip

theorem Only.applyOne (h : Only pt z s) (c : Crown) (ch : Nat) (v : Nat × Nat × Nat × Nat) (hg0 : Allow pt evtRegs)
    (hp : Allow pt [.dies, .tables, .fus, .ofReg .fus Reg.FUS_COUNT_FROZEN]) : Only pt z (State.applyOne s c ch v) :=
    by
  obtain ⟨q0, q1, q2, q3, -⟩ := hp
  unfold State.applyOne
  repeat' first
    | (with_reducible first | assumption | exact Allow.nil | apply Allow.cons | apply Only.ite
                            | apply Only.gainReset | apply Only.setCoef | apply Only.setFusion | apply Only.log)
    | refine Only.of_eq (by assumption) ?_ | split | dsimp only
    | (with_reducible apply Only.mk_same) <;> first | with_reducible exact .inr (by assumption) | with_reducible exact .inl rfl | exact .inl rfl | skip

theorem Only.fusLoad (h : Only pt z s) (c : Crown) (hp : Allow pt [.ofReg .fus Reg.FUS_TBL_DATA_DATA]) : Only pt z
    (State.fusLoad s c) := by
  obtain ⟨q0, -⟩ := hp
  unfold State.fusLoad
  repeat' first
    | intro _
    | (with_reducible first | assumption | exact Allow.nil | apply Allow.cons | apply Only.foldl
                            | apply Only.ite | apply Only.setF)
    | refine Only.of_eq (by assumption) ?_ | split | dsimp only

theorem Only.takeArp (h : Only pt z s) (c : Crown) (p : Nat) (x : EthIn) (hp : Allow pt [.hosts]) : Only pt z
    (State.takeArp s c p x) := by
  obtain ⟨q0, -⟩ := hp
  unfold State.takeArp
  repeat' first
    | (with_reducible first | assumption | exact Allow.nil | apply Allow.cons | apply Only.ite
                            | apply Only.ethSend)
    | refine Only.of_eq (by assumption) ?_ | split | dsimp only

theorem Only.sendReports (h : Only pt z s) (c : Crown) (p : Nat) (vlan : Nat) (asked : Nat → Bool) (hp : Allow pt
    [.free, .hosts]) : Only pt z (State.sendReports s c p vlan asked) := by
  obtain ⟨q0, q1, -⟩ := hp
  unfold State.sendReports
  repeat' first
    | (with_reducible first | assumption | exact Allow.nil | apply Allow.cons | apply Only.ite | apply Only.draw
                            | apply Only.ethSend)
    | refine Only.of_eq (by assumption) ?_ | split | dsimp only

theorem Only.reportAll (h : Only pt z s) (c : Crown) (p : Nat) (hp : Allow pt [.free, .hosts]) : Only pt z
    (State.reportAll s c p) := by
  obtain ⟨q0, q1, -⟩ := hp
  unfold State.reportAll
  repeat' first
    | intro _
    | (with_reducible first | assumption | exact Allow.nil | apply Allow.cons | apply Only.foldl
                            | apply Only.ite | apply Only.sendReports)
    | refine Only.of_eq (by assumption) ?_ | split | dsimp only

theorem Only.takeIcmp6 (h : Only pt z s) (c : Crown) (p : Nat) (x : EthIn) (q : IpIn) (hp : Allow pt [.free, .hosts])
    : Only pt z (State.takeIcmp6 s c p x q) := by
  obtain ⟨q0, q1, -⟩ := hp
  unfold State.takeIcmp6
  repeat' first
    | (with_reducible first | assumption | exact Allow.nil | apply Allow.cons | apply Only.ite
                            | apply Only.ethSend | apply Only.sendReports)
    | refine Only.of_eq (by assumption) ?_ | split | dsimp only

theorem Only.sendPtp (h : Only pt z s) (p : Nat) (vlan : Nat) (port : Nat) (l : List Byte) (hp : Allow pt [.free,
    .hosts]) : Only pt z (State.sendPtp s p vlan port l) := by
  obtain ⟨q0, q1, -⟩ := hp
  unfold State.sendPtp
  repeat' first
    | (with_reducible first | assumption | exact Allow.nil | apply Allow.cons | apply Only.ite
                            | apply Only.ethSend | apply Only.draw)
    | refine Only.of_eq (by assumption) ?_ | split | dsimp only
    | (with_reducible apply Only.mk_same) <;> first | with_reducible exact .inr (by assumption) | with_reducible exact .inl rfl | exact .inl rfl | skip

theorem Only.showUtc (h : Only pt z s)  (hp : Allow pt [.ofReg .ptp Reg.PTP_UTC_IN_USE]) : Only pt z (State.showUtc s)
    := by
  obtain ⟨q0, -⟩ := hp
  unfold State.showUtc
  repeat' first
    | (with_reducible first | assumption | exact Allow.nil | apply Allow.cons | apply Only.ite
                            | apply Only.setF)
    | refine Only.of_eq (by assumption) ?_ | split | dsimp only

theorem Only.selectMaster (h : Only pt z s)  (hp : Allow pt [.ptp, .ofReg .ptp Reg.PTP_GM_INACC,
    .ofReg .ptp Reg.PTP_STATUS_SEL_PORT, .ofReg .ptp Reg.PTP_STATUS_SEL_PORT_VALID, .ofReg .ptp Reg.PTP_UTC_IN_USE]) :
    Only pt z (State.selectMaster s) := by
  obtain ⟨q0, q1, q2, q3, q4, -⟩ := hp
  unfold State.selectMaster
  repeat' first
    | intro _
    | (with_reducible first | assumption | exact Allow.nil | apply Allow.cons | apply Only.foldl
                            | apply Only.ite | apply Only.setF | apply Only.showUtc)
    | refine Only.of_eq (by assumption) ?_ | split | dsimp only
    | (with_reducible apply Only.mk_same) <;> first | with_reducible exact .inr (by assumption) | with_reducible exact .inl rfl | exact .inl rfl | skip

theorem Only.takeAnnounce (h : Only pt z s) (p : Nat) (l : List Byte) (hp : Allow pt [.ptp,
    .ofReg .ptp Reg.PTP_GM_INACC, .ofReg .ptp Reg.PTP_STATUS_SEL_PORT, .ofReg .ptp Reg.PTP_STATUS_SEL_PORT_VALID,
    .ofReg .ptp Reg.PTP_UTC_IN_USE]) : Only pt z (State.takeAnnounce s p l) := by
  obtain ⟨q0, q1, q2, q3, q4, -⟩ := hp
  unfold State.takeAnnounce
  repeat' first
    | (with_reducible first | assumption | exact Allow.nil | apply Allow.cons | apply Only.ite
                            | apply Only.selectMaster)
    | refine Only.of_eq (by assumption) ?_ | split | dsimp only
    | (with_reducible apply Only.mk_same) <;> first | with_reducible exact .inr (by assumption) | with_reducible exact .inl rfl | exact .inl rfl | skip

theorem Only.servoSample (h : Only pt z s) (off : Int) (hg0 : Allow pt evtRegs) (hp : Allow pt [.dies, .sync, .ptp,
    .ofReg .bal Reg.BAL_STATUS_HOLDOVER, .ofReg .bal Reg.BAL_STATUS_TAI_VALID, .ofReg .ldg Reg.LDG_STATUS_HOLDOVER,
    .ofReg .ptp Reg.PTP_STATUS_OFFSET]) : Only pt z (State.servoSample s off) := by
  obtain ⟨q0, q1, q2, q3, q4, q5, q6, -⟩ := hp
  unfold State.servoSample
  repeat' first
    | (with_reducible first | assumption | exact Allow.nil | apply Allow.cons | apply Only.ite | apply Only.setF
                            | apply Only.setTaiFlags)
    | refine Only.of_eq (by assumption) ?_ | split | dsimp only
    | (with_reducible apply Only.mk_same) <;> first | with_reducible exact .inr (by assumption) | with_reducible exact .inl rfl | exact .inl rfl | skip

theorem Only.syncTimes (h : Only pt z s) (p : Nat) (vlan : Nat) (t2 : Int) (t1 : Int) (hg0 : Allow pt evtRegs) (hp :
    Allow pt [.free, .dies, .sync, .hosts, .ptp, .ofReg .bal Reg.BAL_STATUS_HOLDOVER,
    .ofReg .bal Reg.BAL_STATUS_TAI_VALID, .ofReg .ldg Reg.LDG_STATUS_HOLDOVER, .ofReg .ptp Reg.PTP_STATUS_OFFSET]) :
    Only pt z (State.syncTimes s p vlan t2 t1) := by
  obtain ⟨q0, q1, q2, q3, q4, q5, q6, q7, q8, -⟩ := hp
  unfold State.syncTimes
  repeat' first
    | (with_reducible first | assumption | exact Allow.nil | apply Allow.cons | apply Only.ite
                            | apply Only.servoSample | apply Only.sendPtp)
    | refine Only.of_eq (by assumption) ?_ | split | dsimp only
    | (with_reducible apply Only.mk_same) <;> first | with_reducible exact .inr (by assumption) | with_reducible exact .inl rfl | exact .inl rfl | skip

theorem Only.takePtp (h : Only pt z s) (p : Nat) (vlan : Nat) (l : List Byte) (hp : Allow pt [.free, .resv, .shadow,
    .inForce, .dies, .links, .tables, .mem, .poison, .ctxs, .sync, .engs, .queues, .streams, .issued, .accepted,
    .failed, .seenIssued, .seenFailed, .nextTag, .fences, .rdReqs, .hosts, .ptp, .fus, .ldg, .boot, .tshadow, .landed,
    .recov]) (hr : AnyReg pt) : Only pt z (State.takePtp s p vlan l) := by
  obtain ⟨q0, q1, q2, q3, q4, q5, q6, q7, q8, q9, q10, q11, q12, q13, q14, q15, q16, q17, q18, q19, q20, q21, q22, q23, q24, q25, q26, q27, q28, q29, -⟩ := hp
  unfold State.takePtp
  repeat' first
    | (with_reducible first | assumption | exact Allow.nil | apply Only.ite | apply Only.syncTimes
                            | apply Only.sendPtp | apply Only.trip | apply Only.takeAnnounce)
    | exact hr _ | exact hr.group rfl | with_reducible apply Allow.cons | refine Only.of_eq (by assumption) ?_ | split | dsimp only
    | (with_reducible apply Only.mk_same) <;> first | with_reducible exact .inr (by assumption) | with_reducible exact .inl rfl | exact .inl rfl | skip

theorem Only.reject (h : Only pt z s) (c : Crown) (p : Nat) (stream : Option Nat) (cause : Nat) (hg0 : Allow pt
    evtRegs) (hp : Allow pt [.free, .dies, .hosts, .ofReg .ethPort Reg.ETHP_REJECT_COUNT]) : Only pt z (State.reject s
    c p stream cause) := by
  obtain ⟨q0, q1, q2, q3, -⟩ := hp
  unfold State.reject
  repeat' first
    | (with_reducible first | assumption | exact Allow.nil | apply Allow.cons | apply Only.ite
                            | apply Only.bumpF | apply Only.setHost | apply Only.draw | apply Only.log)
    | refine Only.of_eq (by assumption) ?_ | split | dsimp only
    | (with_reducible apply Only.mk_same) <;> first | with_reducible exact .inr (by assumption) | with_reducible exact .inl rfl | exact .inl rfl | skip

theorem Only.noteSeen (h : Only pt z s) (c : Crown) (i : Nat) (v : Nat) (hp : Allow pt [.hosts]) : Only pt z
    (State.noteSeen s c i v) := by
  obtain ⟨q0, -⟩ := hp
  unfold State.noteSeen
  repeat' first
    | (with_reducible first | assumption | exact Allow.nil | apply Allow.cons | apply Only.ite
                            | apply Only.setHost)
    | refine Only.of_eq (by assumption) ?_ | split | dsimp only
    | (with_reducible apply Only.mk_same) <;> first | with_reducible exact .inr (by assumption) | with_reducible exact .inl rfl | exact .inl rfl | skip

theorem Only.takeCfg2 (h : Only pt z s) (c : Crown) (p : Nat) (i : Nat) (l : List Byte) (hg0 : Allow pt evtRegs) (hp :
    Allow pt [.free, .dies, .hosts, .ofReg .ethPort Reg.ETHP_REJECT_COUNT]) : Only pt z (State.takeCfg2 s c p i l) :=
    by
  obtain ⟨q0, q1, q2, q3, -⟩ := hp
  unfold State.takeCfg2
  repeat' first
    | (with_reducible first | assumption | exact Allow.nil | apply Allow.cons | apply Only.ite
                            | apply Only.setHost | apply Only.reject)
    | refine Only.of_eq (by assumption) ?_ | split | dsimp only
    | (with_reducible apply Only.mk_same) <;> first | with_reducible exact .inr (by assumption) | with_reducible exact .inl rfl | exact .inl rfl | skip

theorem Only.takeData (h : Only pt z s) (c : Crown) (p : Nat) (i : Nat) (l : List Byte) (hg0 : Allow pt evtRegs) (hp :
    Allow pt [.free, .dies, .tables, .hosts, .fus, .ofReg .ethPort Reg.ETHP_REJECT_COUNT,
    .ofReg .ethPort Reg.ETHP_RX_OK_COUNT, .ofReg .fus Reg.FUS_GRP_STALE_COMPLETE]) : Only pt z (State.takeData s c p i
    l) := by
  obtain ⟨q0, q1, q2, q3, q4, q5, q6, q7, -⟩ := hp
  unfold State.takeData
  repeat' first
    | (with_reducible first | assumption | exact Allow.nil | apply Allow.cons | apply Only.ite
                            | apply Only.reject | apply Only.draw | apply Only.noteSeen | apply Only.bumpF
                            | apply Only.place)
    | refine Only.of_eq (by assumption) ?_ | split | dsimp only

theorem Only.takeC37 (h : Only pt z s) (c : Crown) (p : Nat) (stream : Option Nat) (l : List Byte) (hg0 : Allow pt
    evtRegs) (hp : Allow pt [.free, .dies, .tables, .hosts, .fus, .ofReg .ethPort Reg.ETHP_REJECT_COUNT,
    .ofReg .ethPort Reg.ETHP_RX_OK_COUNT, .ofReg .fus Reg.FUS_GRP_STALE_COMPLETE]) : Only pt z (State.takeC37 s c p
    stream l) := by
  obtain ⟨q0, q1, q2, q3, q4, q5, q6, q7, -⟩ := hp
  unfold State.takeC37
  repeat' first
    | (with_reducible first | assumption | exact Allow.nil | apply Allow.cons | apply Only.ite
                            | apply Only.reject | apply Only.takeData | apply Only.setHost
                            | apply Only.takeCfg2)
    | refine Only.of_eq (by assumption) ?_ | split | dsimp only
    | (with_reducible apply Only.mk_same) <;> first | with_reducible exact .inr (by assumption) | with_reducible exact .inl rfl | exact .inl rfl | skip

theorem Only.takeTmf (h : Only pt z s) (c : Crown) (p : Nat) (stream : Option Nat) (l : List Byte) (hg0 : Allow pt
    evtRegs) (hp : Allow pt [.free, .dies, .tables, .hosts, .fus, .ofReg .ethPort Reg.ETHP_REJECT_COUNT,
    .ofReg .ethPort Reg.ETHP_RX_OK_COUNT, .ofReg .fus Reg.FUS_GRP_STALE_COMPLETE]) : Only pt z (State.takeTmf s c p
    stream l) := by
  obtain ⟨q0, q1, q2, q3, q4, q5, q6, q7, -⟩ := hp
  unfold State.takeTmf
  repeat' first
    | intro _
    | (with_reducible first | assumption | exact Allow.nil | apply Allow.cons | apply Only.foldl
                            | apply Only.ite | apply Only.reject | apply Only.noteSeen | apply Only.bumpF
                            | apply Only.place)
    | refine Only.of_eq (by assumption) ?_ | split | dsimp only
    | (with_reducible apply Only.mk_same) <;> first | with_reducible exact .inr (by assumption) | with_reducible exact .inl rfl | exact .inl rfl | skip

theorem Only.takeMeasure (h : Only pt z s) (c : Crown) (p : Nat) (es : List Nat) (l : List Byte) (hg0 : Allow pt
    evtRegs) (hp : Allow pt [.free, .dies, .tables, .hosts, .fus, .ofReg .ethPort Reg.ETHP_REJECT_COUNT,
    .ofReg .ethPort Reg.ETHP_RX_OK_COUNT, .ofReg .fus Reg.FUS_GRP_STALE_COMPLETE]) : Only pt z (State.takeMeasure s c
    p es l) := by
  obtain ⟨q0, q1, q2, q3, q4, q5, q6, q7, -⟩ := hp
  unfold State.takeMeasure
  repeat' first
    | (with_reducible first | assumption | exact Allow.nil | apply Allow.cons | apply Only.ite
                            | apply Only.takeTmf | apply Only.takeC37)
    | refine Only.of_eq (by assumption) ?_ | split | dsimp only

theorem Only.takeIp (h : Only pt z s) (c : Crown) (p : Nat) (x : EthIn) (q : IpIn) (hp : Allow pt [.free, .resv,
    .shadow, .inForce, .dies, .links, .tables, .mem, .poison, .ctxs, .sync, .engs, .queues, .streams, .issued,
    .accepted, .failed, .seenIssued, .seenFailed, .nextTag, .fences, .rdReqs, .hosts, .ptp, .fus, .ldg, .boot,
    .tshadow, .landed, .recov]) (hr : AnyReg pt) : Only pt z (State.takeIp s c p x q) := by
  obtain ⟨q0, q1, q2, q3, q4, q5, q6, q7, q8, q9, q10, q11, q12, q13, q14, q15, q16, q17, q18, q19, q20, q21, q22, q23, q24, q25, q26, q27, q28, q29, -⟩ := hp
  unfold State.takeIp
  repeat' first
    | (with_reducible first | assumption | exact Allow.nil | apply Only.ite | apply Only.bumpF
                            | apply Only.takeIcmp6 | apply Only.sendReports | apply Only.takePtp
                            | apply Only.takeMeasure)
    | exact hr _ | exact hr.group rfl | with_reducible apply Allow.cons | refine Only.of_eq (by assumption) ?_ | split | dsimp only

theorem Only.setLdgRec (h : Only pt z s) (sp : Nat) (i : Nat) (v : Nat) (hp : Allow pt [.tables]) : Only pt z
    (State.setLdgRec s sp i v) := by
  obtain ⟨q0, -⟩ := hp
  unfold State.setLdgRec
  repeat' first
    | (with_reducible first | assumption | exact Allow.nil | apply Allow.cons | apply Only.ite
                            | apply Only.setTbl)
    | refine Only.of_eq (by assumption) ?_ | split | dsimp only

theorem Only.setLdgState (h : Only pt z s) (v : Nat) (hp : Allow pt [.ofReg .ldg Reg.LDG_STATUS_STATE]) : Only pt z
    (State.setLdgState s v) := by
  obtain ⟨q0, -⟩ := hp
  unfold State.setLdgState
  repeat' first
    | (with_reducible first | assumption | exact Allow.nil | apply Allow.cons | apply Only.ite
                            | apply Only.setF)
    | refine Only.of_eq (by assumption) ?_ | split | dsimp only

theorem Only.ldgSum (h : Only pt z s) (m : Nat × Nat × Nat) (a b : Nat) (hp : Allow pt [.ldg]) : Only pt z (s.ldgSum m
    a b) := by
  obtain ⟨q0, -⟩ := hp
  unfold State.ldgSum
  repeat' first
    | (with_reducible first | assumption | exact Allow.nil | apply Allow.cons | apply Only.ite)
    | assumption
    | (with_reducible apply Only.mk_same) <;> first | with_reducible exact .inr (by assumption) | with_reducible exact .inl rfl | exact .inl rfl | skip

theorem Only.ldgSettle (h : Only pt z s) (b : Nat) (hp : Allow pt [.ldg]) : Only pt z (s.ldgSettle b) := by
  obtain ⟨q0, -⟩ := hp
  unfold State.ldgSettle
  repeat' first
    | intro _
    | (with_reducible first | assumption | exact Allow.nil | apply Allow.cons | apply Only.ldgSum
                            | apply Only.foldl)
    | (with_reducible apply Only.mk_same) <;> first | with_reducible exact .inr (by assumption) | with_reducible exact .inl rfl | exact .inl rfl | skip

theorem Only.closeAt (h : Only pt z s) (b : Nat) (flags : Nat) (switched : Nat) (hp : Allow pt [.ldg]) : Only pt z
    (State.closeAt s b flags switched) := by
  obtain ⟨q0, -⟩ := hp
  unfold State.closeAt
  repeat' first
    | (with_reducible first | assumption | exact Allow.nil | apply Allow.cons | apply Only.ite
                            | apply Only.ldgSettle)
    | refine Only.of_eq (by assumption) ?_ | split | dsimp only
    | (with_reducible apply Only.mk_same) <;> first | with_reducible exact .inr (by assumption) | with_reducible exact .inl rfl | exact .inl rfl | skip

theorem Only.showCur (h : Only pt z s)  (hp : Allow pt [.ofReg .ldg Reg.LDG_CUR_HI_CUR,
    .ofReg .ldg Reg.LDG_CUR_LO_CUR]) : Only pt z (State.showCur s) := by
  obtain ⟨q0, q1, -⟩ := hp
  unfold State.showCur
  repeat' first
    | (with_reducible first | assumption | exact Allow.nil | apply Allow.cons | apply Only.ite
                            | apply Only.set64)
    | refine Only.of_eq (by assumption) ?_ | split | dsimp only

theorem Only.applyChange (h : Only pt z s) (i : Nat) (hp : Allow pt [.tables]) : Only pt z (State.applyChange s i) :=
    by
  obtain ⟨q0, -⟩ := hp
  unfold State.applyChange
  repeat' first
    | intro _
    | (with_reducible first | assumption | exact Allow.nil | apply Allow.cons | apply Only.foldl
                            | apply Only.ite | apply Only.setLdgRec)
    | refine Only.of_eq (by assumption) ?_ | split | dsimp only

theorem Only.applySet (h : Only pt z s) (x : SetPt) (hp : Allow pt [.ldg]) : Only pt z (State.applySet s x) := by
  obtain ⟨q0, -⟩ := hp
  unfold State.applySet
  repeat' first
    | intro _
    | (with_reducible first | assumption | exact Allow.nil | apply Allow.cons | apply Only.foldl
                            | apply Only.ite)
    | refine Only.of_eq (by assumption) ?_ | split | dsimp only
    | (with_reducible apply Only.mk_same) <;> first | with_reducible exact .inr (by assumption) | with_reducible exact .inl rfl | exact .inl rfl | skip

theorem Only.framPut (h : Only pt z s) (a : Nat) (l : List Byte) (bad : Option (List Byte)) (hg0 : Allow pt evtRegs)
    (hp : Allow pt [.dies, .fram, .ofReg .ldg Reg.LDG_COUNT_VERIFY_FAIL, .ofReg .ldg Reg.LDG_STATUS_FRAM_FAULT]) :
    Only pt z (State.framPut s a l bad) := by
  obtain ⟨q0, q1, q2, q3, -⟩ := hp
  unfold State.framPut
  repeat' first
    | (with_reducible first | assumption | exact Allow.nil | apply Allow.cons | apply Only.ite | apply Only.log
                            | apply Only.bumpF | apply Only.setF)
    | refine Only.of_eq (by assumption) ?_ | split | dsimp only
    | (with_reducible apply Only.mk_same) <;> first | with_reducible exact .inr (by assumption) | with_reducible exact .inl rfl | exact .inl rfl | skip

theorem Only.startCommit (h : Only pt z s) (bad : List (Nat × List Byte)) (hg0 : Allow pt evtRegs) (hp : Allow pt
    [.dies, .ldg, .fram, .ofReg .ldg Reg.LDG_COUNT_VERIFY_FAIL, .ofReg .ldg Reg.LDG_STATUS_FRAM_FAULT]) : Only pt z
    (State.startCommit s bad) := by
  obtain ⟨q0, q1, q2, q3, q4, -⟩ := hp
  unfold State.startCommit
  repeat' first
    | intro _
    | (with_reducible first | assumption | exact Allow.nil | apply Allow.cons | apply Only.foldl
                            | apply Only.ite | apply Only.framPut)
    | refine Only.of_eq (by assumption) ?_ | split | dsimp only
    | (with_reducible apply Only.mk_same) <;> first | with_reducible exact .inr (by assumption) | with_reducible exact .inl rfl | exact .inl rfl | skip

theorem Only.takeTables (h : Only pt z s) (img : List Byte) (hp : Allow pt [.tables]) : Only pt z (State.takeTables s
    img) := by
  obtain ⟨q0, -⟩ := hp
  unfold State.takeTables
  repeat' first
    | intro _
    | (with_reducible first | assumption | exact Allow.nil | apply Allow.cons | apply Only.foldl
                            | apply Only.ite | apply Only.setLdgRec)
    | refine Only.of_eq (by assumption) ?_ | split | dsimp only
    | (with_reducible apply Only.mk_same) <;> first | with_reducible exact .inr (by assumption) | with_reducible exact .inl rfl | exact .inl rfl | skip

theorem Only.torn (h : Only pt z s)  (hg0 : Allow pt evtRegs) (hp : Allow pt [.dies, .ofReg .ldg Reg.LDG_STATUS_TORN])
    : Only pt z (State.torn s) := by
  obtain ⟨q0, q1, -⟩ := hp
  unfold State.torn
  repeat' first
    | (with_reducible first | assumption | exact Allow.nil | apply Allow.cons | apply Only.ite | apply Only.log
                            | apply Only.setF)
    | refine Only.of_eq (by assumption) ?_ | split | dsimp only

theorem Only.takeControl (h : Only pt z s) (l : List Byte) (hg0 : Allow pt evtRegs) (hp : Allow pt [.dies, .ldg,
    .ofReg .ldg Reg.LDG_SEQ, .ofReg .ldg Reg.LDG_STATUS_TORN]) : Only pt z (State.takeControl s l) := by
  obtain ⟨q0, q1, q2, q3, -⟩ := hp
  unfold State.takeControl
  repeat' first
    | intro _
    | (with_reducible first | assumption | exact Allow.nil | apply Allow.cons | apply Only.foldl
                            | apply Only.ite | apply Only.torn | apply Only.setF)
    | refine Only.of_eq (by assumption) ?_ | split | dsimp only
    | (with_reducible apply Only.mk_same) <;> first | with_reducible exact .inr (by assumption) | with_reducible exact .inl rfl | exact .inl rfl | skip

theorem Only.takeTableImage (h : Only pt z s) (t : Nat) (img : List Byte) (hp : Allow pt [.tables, .ldg]) : Only pt z
    (s.takeTableImage t img) := by
  obtain ⟨q0, q1, -⟩ := hp
  unfold State.takeTableImage
  repeat' first
    | (with_reducible first | assumption | exact Allow.nil | apply Allow.cons | apply Only.ite
                            | apply Only.takeTables)
    | (with_reducible apply Only.mk_same) <;> first | with_reducible exact .inr (by assumption) | with_reducible exact .inl rfl | exact .inl rfl | skip

theorem Only.ldgTaken (h : Only pt z s)  (hp : Allow pt [.tables, .ldg]) : Only pt z (State.ldgTaken s) := by
  obtain ⟨q0, q1, -⟩ := hp
  unfold State.ldgTaken
  repeat' first
    | (with_reducible first | assumption | exact Allow.nil | apply Allow.cons | apply Only.ite
                            | apply Only.takeTableImage)
    | refine Only.of_eq (by assumption) ?_ | split | dsimp only
    | (with_reducible apply Only.mk_same) <;> first | with_reducible exact .inr (by assumption) | with_reducible exact .inl rfl | exact .inl rfl | skip

theorem Only.testFram (h : Only pt z s) (ok : Bool) (hp : Allow pt [.free, .fram]) : Only pt z (State.testFram s ok)
    := by
  obtain ⟨q0, q1, -⟩ := hp
  unfold State.testFram
  repeat' first
    | (with_reducible first | assumption | exact Allow.nil | apply Allow.cons | apply Only.ite
                            | apply Only.draw)
    | refine Only.of_eq (by assumption) ?_ | split | dsimp only
    | (with_reducible apply Only.mk_same) <;> first | with_reducible exact .inr (by assumption) | with_reducible exact .inl rfl | exact .inl rfl | skip

theorem Only.ldgStart (h : Only pt z s) (hg0 : Allow pt evtRegs) (hp : Allow pt [.free, .dies, .tables, .ldg, .fram,
    .ofReg .ldg Reg.LDG_SEQ, .ofReg .ldg Reg.LDG_STATUS_STATE, .ofReg .ldg Reg.LDG_STATUS_TORN]) : Only pt z
    s.ldgStart := by
  obtain ⟨q0, q1, q2, q3, q4, q5, q6, q7, -⟩ := hp
  have g : Only pt z (s.testFram true) := by apply Only.testFram <;> (repeat' first | with_reducible assumption | with_reducible exact Allow.nil | with_reducible apply Allow.cons)
  have tn : ∀ t : State, Only pt z t → Only pt z t.torn := fun t ht => by apply Only.torn <;> (repeat' first | with_reducible assumption | with_reducible exact Allow.nil | with_reducible apply Allow.cons)
  unfold State.ldgStart
  generalize s.testFram true = t at g ⊢
  dsimp only
  generalize pickControl t.fram = c
  generalize pickTable t.fram = p
  have g1 := Only.ite (c := c.2 = true) (tn _ g) g
  have g2 : Only pt z (match c.1 with
      | none => if c.2 = true then t.torn else t
      | some l => (if c.2 = true then t.torn else t).takeControl l) := by
    split
    · exact g1
    · apply Only.takeControl <;> (repeat' first | with_reducible assumption | with_reducible exact Allow.nil | with_reducible apply Allow.cons)
  have g3 : Only pt z (if p.2 = true then (match c.1 with
      | none => if c.2 = true then t.torn else t
      | some l => (if c.2 = true then t.torn else t).takeControl l).torn else (match c.1 with
      | none => if c.2 = true then t.torn else t
      | some l => (if c.2 = true then t.torn else t).takeControl l)) := .ite (tn _ g2) g2
  with_reducible refine Only.setLdgState ?_ _ (by (repeat' first | with_reducible assumption | with_reducible exact Allow.nil | with_reducible apply Allow.cons))
  with_reducible apply Only.mk_same
  case h =>
    apply Only.ldgTaken
    · exact g3
    all_goals (repeat' first | with_reducible assumption | with_reducible exact Allow.nil | with_reducible apply Allow.cons)
  all_goals first | with_reducible exact .inr (by assumption) | with_reducible exact .inl rfl

theorem Only.ldgStop (h : Only pt z s)  (hp : Allow pt [.ldg, .ofReg .ldg Reg.LDG_STATUS_HOLDOVER,
    .ofReg .ldg Reg.LDG_STATUS_STATE]) : Only pt z (State.ldgStop s) := by
  obtain ⟨q0, q1, q2, -⟩ := hp
  unfold State.ldgStop
  repeat' first
    | (with_reducible first | assumption | exact Allow.nil | apply Allow.cons | apply Only.ite
                            | apply Only.closeAt | apply Only.setLdgState | apply Only.setF)
    | refine Only.of_eq (by assumption) ?_ | split | dsimp only

theorem Only.ldgLoad (h : Only pt z s)  (hp : Allow pt [.ofReg .ldg Reg.LDG_TBL_DATA_DATA]) : Only pt z (State.ldgLoad
    s) := by
  obtain ⟨q0, -⟩ := hp
  unfold State.ldgLoad
  repeat' first
    | intro _
    | (with_reducible first | assumption | exact Allow.nil | apply Allow.cons | apply Only.foldl
                            | apply Only.ite | apply Only.setF)
    | refine Only.of_eq (by assumption) ?_ | split | dsimp only

theorem Only.ldgIndexWrite (h : Only pt z s) (w : Nat) (hp : Allow pt [.ldg, .ofReg .ldg Reg.LDG_TBL_INDEX_INDEX,
    .ofReg .ldg Reg.LDG_TBL_SPACE_BUSY]) : Only pt z (State.ldgIndexWrite s w) := by
  obtain ⟨q0, q1, q2, -⟩ := hp
  unfold State.ldgIndexWrite
  repeat' first
    | (with_reducible first | assumption | exact Allow.nil | apply Allow.cons | apply Only.ite
                            | apply Only.setF)
    | refine Only.of_eq (by assumption) ?_ | split | dsimp only
    | (with_reducible apply Only.mk_same) <;> first | with_reducible exact .inr (by assumption) | with_reducible exact .inl rfl | exact .inl rfl | skip

end Sys2Proof.Machine
end

