-- ==== Sys2Proof/Laws/OnlyConfig.lean ====
section
/-! SUPPORT. `Only` for the operations of enabling, start-up, change sets, images, trust and register access:
which parts of the state each changes. -/

namespace Sys2Proof.Machine

variable {pt : Field → Bool} {z s t : State}

theorem Only.leaveOff (h : Only pt z s) (e : LinkEnd) (hg0 : Allow pt evtRegs) (hg1 : Allow pt laneMapRegs) (hg2 :
    Allow pt laneMapTxRegs) (hg3 : Allow pt trainRegs) (hg4 : Allow pt attemptRegs) (hp : Allow pt [.dies, .links,
    .fpLines, .ofReg .gtr Reg.GTR_STATUS_LATE, .ofReg .trayPort Reg.TRYP_RETRY_LAST_RC]) : Only pt z (State.leaveOff s
    e) := by
  obtain ⟨g40, g41, -⟩ := id hg4
  obtain ⟨q0, q1, q2, q3, q4, -⟩ := hp
  unfold State.leaveOff
  repeat' first
    | intro _
    | (with_reducible first | assumption | exact Allow.nil | apply Allow.cons | apply Only.foldl
                            | apply Only.ite | apply Only.setRetired | apply Only.setLink | apply Only.setF
                            | apply Only.toSt | apply Only.assertFp)
    | refine Only.of_eq (by assumption) ?_ | split | dsimp only
    | (with_reducible apply Only.mk_same) <;> first | with_reducible exact .inr (by assumption) | with_reducible exact .inl rfl | exact .inl rfl | skip

theorem Only.goOff (h : Only pt z s) (e : LinkEnd) (hg0 : Allow pt evtRegs) (hg1 : Allow pt laneMapRegs) (hg2 : Allow
    pt laneMapTxRegs) (hg3 : Allow pt trainRegs) (hp : Allow pt [.links]) : Only pt z (State.goOff s e) := by
  obtain ⟨q0, -⟩ := hp
  unfold State.goOff
  repeat' first
    | (with_reducible first | assumption | exact Allow.nil | apply Allow.cons | apply Only.ite
                            | apply Only.endService | apply Only.setLink | apply Only.toSt)
    | refine Only.of_eq (by assumption) ?_ | split | dsimp only

theorem Only.showMaster (h : Only pt z s)  (hp : Allow pt [.ofReg .bal Reg.BAL_REF_HOPS,
    .ofReg .bal Reg.BAL_STATUS_IS_MASTER]) : Only pt z (State.showMaster s) := by
  obtain ⟨q0, q1, -⟩ := hp
  unfold State.showMaster
  repeat' first
    | intro _
    | (with_reducible first | assumption | exact Allow.nil | apply Allow.cons | apply Only.foldl
                            | apply Only.ite | apply Only.setF)
    | refine Only.of_eq (by assumption) ?_ | split | dsimp only

theorem Only.applyFlDrv (h : Only pt z s) (c : Crown) (hp : Allow pt [.pins]) : Only pt z (State.applyFlDrv s c) := by
  obtain ⟨q0, -⟩ := hp
  unfold State.applyFlDrv
  repeat' first
    | (with_reducible first | assumption | exact Allow.nil | apply Allow.cons | apply Only.ite)
    | refine Only.of_eq (by assumption) ?_ | split | dsimp only
    | (with_reducible apply Only.mk_same) <;> first | with_reducible exact .inr (by assumption) | with_reducible exact .inl rfl | exact .inl rfl | skip

theorem Only.applyPads (h : Only pt z s) (c : Crown) (hp : Allow pt [.pins]) : Only pt z (State.applyPads s c) := by
  obtain ⟨q0, -⟩ := hp
  unfold State.applyPads
  repeat' first
    | (with_reducible first | assumption | exact Allow.nil | apply Allow.cons | apply Only.ite
                            | apply Only.applyFlDrv)
    | refine Only.of_eq (by assumption) ?_ | split | dsimp only
    | (with_reducible apply Only.mk_same) <;> first | with_reducible exact .inr (by assumption) | with_reducible exact .inl rfl | exact .inl rfl | skip

theorem Only.enableEffect (h : Only pt z s) (fn : Fn) (d : Die) (inst : Nat) (ok : Bool) (hg0 : Allow pt evtRegs) (hg1
    : Allow pt laneMapRegs) (hg2 : Allow pt laneMapTxRegs) (hg3 : Allow pt trainRegs) (hg4 : Allow pt lastRegs) (hg5 :
    Allow pt histRegs) (hg6 : Allow pt ethLinkRegs) (hg7 : Allow pt attemptRegs) (hg8 : Allow pt switchRegs) (hp :
    Allow pt [.free, .dies, .links, .tables, .fpLines, .pins, .rcv, .hosts, .ldg, .fram, .boot, .recov,
    .ofReg .bal Reg.BAL_REF_HOPS, .ofReg .bal Reg.BAL_STATUS_IS_MASTER, .ofReg .boot Reg.BOOT_STATUS_PHASE,
    .ofReg .fus Reg.FUS_BUF_USED, .ofReg .gtr Reg.GTR_STATUS_LATE, .ofReg .gtr Reg.GTR_STATUS_NOFIT,
    .ofReg .gtr Reg.GTR_STATUS_VARIANT, .ofReg .ldg Reg.LDG_SEQ, .ofReg .ldg Reg.LDG_STATUS_STATE,
    .ofReg .ldg Reg.LDG_STATUS_TORN, .ofReg .mem Reg.MEM_STATUS_MODE_EFF, .ofReg .ptp Reg.PTP_UTC_IN_USE,
    .ofReg .pwr Reg.PWR_RESERVE, .ofReg .pwr Reg.PWR_RESERVE_FLOORS, .ofReg .rcv Reg.RCV_STATUS_LEVEL,
    .ofReg .tray Reg.TRY_STATUS_TVARIANT, .ofReg .tray Reg.TRY_STATUS_WIN_DONE,
    .ofReg .trayPort Reg.TRYP_RETRY_LAST_RC]) : Only pt z (State.enableEffect s fn d inst ok) := by
  obtain ⟨g60, g61, g62, -⟩ := id hg6
  obtain ⟨q0, q1, q2, q3, q4, q5, q6, q7, q8, q9, q10, q11, q12, q13, q14, q15, q16, q17, q18, q19, q20, q21, q22, q23, q24, q25, q26, q27, q28, q29, -⟩ := hp
  unfold State.enableEffect
  repeat' first
    | (with_reducible first | assumption | exact Allow.nil | apply Allow.cons | apply Only.ite
                            | apply Only.leaveOff | apply Only.showMaster | apply Only.applyPads
                            | apply Only.showReserve | apply Only.setDie | apply Only.setF
                            | apply Only.selectVariant | apply Only.selectTrayVariant | apply Only.reportAll
                            | apply Only.showUtc | apply Only.ldgStart)
    | refine Only.of_eq (by assumption) ?_ | split | dsimp only
    | (with_reducible apply Only.mk_same) <;> first | with_reducible exact .inr (by assumption) | with_reducible exact .inl rfl | exact .inl rfl | skip

theorem Only.refuseOff (h : Only pt z s) (b : Blk) (d : Die) (inst : Nat) (hg0 : Allow pt evtRegs) (hg1 : Allow pt
    refusalRegs) (hp : Allow pt [.dies]) : Only pt z (State.refuseOff s b d inst) := by
  obtain ⟨q0, -⟩ := hp
  unfold State.refuseOff
  repeat' first
    | (with_reducible first | assumption | exact Allow.nil | apply Allow.cons | apply Only.ite | apply Only.log
                            | apply Only.refuseBlk | apply Only.lastReason | apply Only.logAs
                            | apply Only.raise)
    | refine Only.of_eq (by assumption) ?_ | split | dsimp only

theorem Only.enableFn (h : Only pt z s) (fn : Fn) (d : Die) (inst : Nat) (ok : Bool) (hg0 : Allow pt evtRegs) (hg1 :
    Allow pt refusalRegs) (hg2 : Allow pt laneMapRegs) (hg3 : Allow pt laneMapTxRegs) (hg4 : Allow pt trainRegs) (hg5
    : Allow pt lastRegs) (hg6 : Allow pt histRegs) (hg7 : Allow pt ethLinkRegs) (hg8 : Allow pt attemptRegs) (hg9 :
    Allow pt switchRegs) (hp : Allow pt [.free, .dies, .links, .tables, .fpLines, .pins, .rcv, .hosts, .ldg, .fram,
    .boot, .recov, .ofReg (fnRegs fn).blk (fnRegs fn).enable, .ofReg (fnRegs fn).blk (fnRegs fn).reason,
    .ofReg (fnRegs fn).blk (fnRegs fn).refused, .ofReg .bal Reg.BAL_REF_HOPS, .ofReg .bal Reg.BAL_STATUS_IS_MASTER,
    .ofReg .boot Reg.BOOT_STATUS_PHASE, .ofReg .fus Reg.FUS_BUF_USED, .ofReg .gtr Reg.GTR_STATUS_LATE,
    .ofReg .gtr Reg.GTR_STATUS_NOFIT, .ofReg .gtr Reg.GTR_STATUS_VARIANT, .ofReg .ldg Reg.LDG_SEQ,
    .ofReg .ldg Reg.LDG_STATUS_STATE, .ofReg .ldg Reg.LDG_STATUS_TORN, .ofReg .mem Reg.MEM_STATUS_MODE_EFF,
    .ofReg .ptp Reg.PTP_UTC_IN_USE, .ofReg .pwr Reg.PWR_RESERVE, .ofReg .pwr Reg.PWR_RESERVE_FLOORS,
    .ofReg .rcv Reg.RCV_STATUS_LEVEL, .ofReg .tray Reg.TRY_STATUS_TVARIANT, .ofReg .tray Reg.TRY_STATUS_WIN_DONE,
    .ofReg .trayPort Reg.TRYP_RETRY_LAST_RC]) : Only pt z (State.enableFn s fn d inst ok) := by
  obtain ⟨g00, g01, g02, -⟩ := id hg0
  obtain ⟨g10, g11, g12, g13, g14, -⟩ := id hg1
  obtain ⟨g20, g21, g22, g23, g24, g25, g26, g27, g28, g29, -⟩ := id hg2
  obtain ⟨g30, g31, g32, g33, g34, g35, g36, g37, -⟩ := id hg3
  obtain ⟨g40, g41, g42, g43, -⟩ := id hg4
  obtain ⟨g50, g51, g52, g53, g54, -⟩ := id hg5
  obtain ⟨g60, g61, -⟩ := id hg6
  obtain ⟨g70, g71, g72, -⟩ := id hg7
  obtain ⟨g80, g81, -⟩ := id hg8
  obtain ⟨g90, g91, -⟩ := id hg9
  obtain ⟨q0, q1, q2, q3, q4, q5, q6, q7, q8, q9, q10, q11, q12, q13, q14, q15, q16, q17, q18, q19, q20, q21, q22, q23, q24, q25, q26, q27, q28, q29, q30, q31, q32, -⟩ := hp
  unfold State.enableFn
  repeat' first
    | (with_reducible first | assumption | exact Allow.nil | apply Allow.cons | apply Only.ite
                            | apply Only.refuseAbsent | apply Only.refuseOff | apply Only.setF
                            | apply Only.testFram | apply Only.refuse | apply Only.enableEffect)
    | (show pt (Field.ofReg _ _) = true; assumption) | refine Only.of_eq (by assumption) ?_ | split | dsimp only
    | (with_reducible apply Only.mk_same) <;> first | with_reducible exact .inr (by assumption) | with_reducible exact .inl rfl | exact .inl rfl | skip

theorem Only.noteInForce (h : Only pt z s) (fn : Fn) (d : Die) (inst : Nat) (hp : Allow pt [.inForce]) : Only pt z
    (State.noteInForce s fn d inst) := by
  obtain ⟨q0, -⟩ := hp
  unfold State.noteInForce
  repeat' first
    | intro _
    | (with_reducible first | assumption | exact Allow.nil | apply Allow.cons | apply Only.foldl
                            | apply Only.ite)
    | refine Only.of_eq (by assumption) ?_ | split | dsimp only
    | (with_reducible apply Only.mk_same) <;> first | with_reducible exact .inr (by assumption) | with_reducible exact .inl rfl | exact .inl rfl | skip

theorem Only.disableEffect (h : Only pt z s) (fn : Fn) (d : Die) (inst : Nat) (hg0 : Allow pt evtRegs) (hg1 : Allow pt
    laneMapRegs) (hg2 : Allow pt laneMapTxRegs) (hg3 : Allow pt trainRegs) (hg4 : Allow pt ethLinkRegs) (hp : Allow pt
    [.links, .fpLines, .ldg, .ofReg .bal Reg.BAL_REF_HOPS, .ofReg .bal Reg.BAL_STATUS_IS_MASTER,
    .ofReg .ldg Reg.LDG_STATUS_HOLDOVER, .ofReg .ldg Reg.LDG_STATUS_STATE]) : Only pt z (State.disableEffect s fn d
    inst) := by
  obtain ⟨g40, g41, g42, -⟩ := id hg4
  obtain ⟨q0, q1, q2, q3, q4, q5, q6, -⟩ := hp
  unfold State.disableEffect
  repeat' first
    | (with_reducible first | assumption | exact Allow.nil | apply Allow.cons | apply Only.ite
                            | apply Only.goOff | apply Only.showMaster | apply Only.setF | apply Only.ldgStop)
    | refine Only.of_eq (by assumption) ?_ | split | dsimp only
    | (with_reducible apply Only.mk_same) <;> first | with_reducible exact .inr (by assumption) | with_reducible exact .inl rfl | exact .inl rfl | skip

theorem Only.clearFn (h : Only pt z s) (fn : Fn) (d : Die) (inst : Nat) (hg0 : Allow pt evtRegs) (hg1 : Allow pt
    laneMapRegs) (hg2 : Allow pt laneMapTxRegs) (hg3 : Allow pt trainRegs) (hg4 : Allow pt ethLinkRegs) (hp : Allow pt
    [.inForce, .links, .fpLines, .ldg, .ofReg (fnRegs fn).blk (fnRegs fn).enable, .ofReg .bal Reg.BAL_REF_HOPS,
    .ofReg .bal Reg.BAL_STATUS_IS_MASTER, .ofReg .ldg Reg.LDG_STATUS_HOLDOVER, .ofReg .ldg Reg.LDG_STATUS_STATE]) :
    Only pt z (State.clearFn s fn d inst) := by
  obtain ⟨g00, g01, g02, -⟩ := id hg0
  obtain ⟨g10, g11, g12, g13, g14, g15, g16, g17, g18, g19, -⟩ := id hg1
  obtain ⟨g20, g21, g22, g23, g24, g25, g26, g27, -⟩ := id hg2
  obtain ⟨g30, g31, g32, g33, -⟩ := id hg3
  obtain ⟨g40, g41, g42, -⟩ := id hg4
  obtain ⟨q0, q1, q2, q3, q4, q5, q6, q7, q8, -⟩ := hp
  unfold State.clearFn
  repeat' first
    | (with_reducible first | assumption | exact Allow.nil | apply Allow.cons | apply Only.ite
                            | apply Only.noteInForce | apply Only.disableEffect | apply Only.setF)
    | refine Only.of_eq (by assumption) ?_ | split | dsimp only

theorem Only.disableFn (h : Only pt z s) (fn : Fn) (d : Die) (inst : Nat) (hg0 : Allow pt evtRegs) (hg1 : Allow pt
    refusalRegs) (hg2 : Allow pt laneMapRegs) (hg3 : Allow pt laneMapTxRegs) (hg4 : Allow pt trainRegs) (hg5 : Allow
    pt ethLinkRegs) (hp : Allow pt [.inForce, .dies, .links, .fpLines, .ldg, .ofReg (fnRegs fn).blk (fnRegs
    fn).enable, .ofReg (fnRegs fn).blk (fnRegs fn).reason, .ofReg (fnRegs fn).blk (fnRegs fn).refused,
    .ofReg .bal Reg.BAL_REF_HOPS, .ofReg .bal Reg.BAL_STATUS_IS_MASTER, .ofReg .ldg Reg.LDG_STATUS_HOLDOVER,
    .ofReg .ldg Reg.LDG_STATUS_STATE]) : Only pt z (State.disableFn s fn d inst) := by
  obtain ⟨q0, q1, q2, q3, q4, q5, q6, q7, q8, q9, q10, q11, -⟩ := hp
  unfold State.disableFn
  repeat' first
    | (with_reducible first | assumption | exact Allow.nil | apply Allow.cons | apply Only.ite
                            | apply Only.refuse | apply Only.clearFn)
    | (show pt (Field.ofReg _ _) = true; assumption) | refine Only.of_eq (by assumption) ?_ | split | dsimp only

theorem Only.putRec (h : Only pt z s) (key : Nat) (v : Nat) (hp : Allow pt [.tables, .fus,
    .ofReg .fus Reg.FUS_COUNT_FROZEN, .ofReg .fus Reg.FUS_GRP_SKIP_SKIP]) : Only pt z (State.putRec s key v) := by
  obtain ⟨q0, q1, q2, q3, -⟩ := hp
  unfold State.putRec
  repeat' first
    | (with_reducible first | assumption | exact Allow.nil | apply Allow.cons | apply Only.ite | apply Only.addF
                            | apply Only.setGrp | apply Only.setTbl | apply Only.setCoef | apply Only.gainReset)
    | refine Only.of_eq (by assumption) ?_ | split | dsimp only
    | (with_reducible apply Only.mk_same) <;> first | with_reducible exact .inr (by assumption) | with_reducible exact .inl rfl | exact .inl rfl | skip

theorem Only.storeRec (h : Only pt z s) (now : Bool) (key : Nat) (v : Nat) (hp : Allow pt [.tables, .fus, .tshadow,
    .ofReg .cfg Reg.CFG_ARM_STATUS_LATE_WR, .ofReg .fus Reg.FUS_COUNT_FROZEN, .ofReg .fus Reg.FUS_GRP_SKIP_SKIP]) :
    Only pt z (State.storeRec s now key v) := by
  obtain ⟨q0, q1, q2, q3, q4, q5, -⟩ := hp
  unfold State.storeRec
  repeat' first
    | (with_reducible first | assumption | exact Allow.nil | apply Allow.cons | apply Only.ite
                            | apply Only.putRec | apply Only.bumpF)
    | refine Only.of_eq (by assumption) ?_ | split | dsimp only
    | (with_reducible apply Only.mk_same) <;> first | with_reducible exact .inr (by assumption) | with_reducible exact .inl rfl | exact .inl rfl | skip

theorem Only.fusTblWrite (h : Only pt z s) (c : Crown) (k : Nat) (w : Nat) (now : Bool) (hp : Allow pt [.tables, .fus,
    .tshadow, .ofReg .cfg Reg.CFG_ARM_STATUS_LATE_WR, .ofReg .fus Reg.FUS_COUNT_FROZEN,
    .ofReg .fus Reg.FUS_GRP_SKIP_SKIP, .ofReg .fus Reg.FUS_TBL_DATA_DATA]) : Only pt z (State.fusTblWrite s c k w now)
    := by
  obtain ⟨q0, q1, q2, q3, q4, q5, q6, -⟩ := hp
  unfold State.fusTblWrite
  repeat' first
    | (with_reducible first | assumption | exact Allow.nil | apply Allow.cons | apply Only.ite | apply Only.setF
                            | apply Only.storeRec | apply Only.setTbl)
    | refine Only.of_eq (by assumption) ?_ | split | dsimp only
    | (with_reducible apply Only.mk_same) <;> first | with_reducible exact .inr (by assumption) | with_reducible exact .inl rfl | exact .inl rfl | skip

theorem Only.ldgTblWrite (h : Only pt z s) (k : Nat) (w : Nat) (now : Bool) (hp : Allow pt [.tables, .fus, .tshadow,
    .ofReg .cfg Reg.CFG_ARM_STATUS_LATE_WR, .ofReg .fus Reg.FUS_COUNT_FROZEN, .ofReg .fus Reg.FUS_GRP_SKIP_SKIP,
    .ofReg .ldg Reg.LDG_TBL_DATA_DATA]) : Only pt z (State.ldgTblWrite s k w now) := by
  obtain ⟨q0, q1, q2, q3, q4, q5, q6, -⟩ := hp
  unfold State.ldgTblWrite
  repeat' first
    | (with_reducible first | assumption | exact Allow.nil | apply Allow.cons | apply Only.ite | apply Only.setF
                            | apply Only.storeRec)
    | refine Only.of_eq (by assumption) ?_ | split | dsimp only

theorem Only.haltBoot (h : Only pt z s) (rc : Nat) (hp : Allow pt [.resv, .shadow, .inForce, .dies, .links, .tables,
    .mem, .poison, .ctxs, .engs, .queues, .streams, .issued, .accepted, .failed, .seenIssued, .seenFailed, .nextTag,
    .fences, .rdReqs, .hosts, .ptp, .fus, .ldg, .boot, .tshadow, .landed, .recov]) (hr : AnyReg pt) : Only pt z
    (State.haltBoot s rc) := by
  obtain ⟨q0, q1, q2, q3, q4, q5, q6, q7, q8, q9, q10, q11, q12, q13, q14, q15, q16, q17, q18, q19, q20, q21, q22, q23, q24, q25, q26, q27, -⟩ := hp
  unfold State.haltBoot
  repeat' first
    | (with_reducible first | assumption | exact Allow.nil | apply Only.ite | apply Only.setF
                            | apply Only.allOffBut | apply Only.setPhase)
    | exact hr _ | exact hr.group rfl | with_reducible apply Allow.cons | refine Only.of_eq (by assumption) ?_ | split | dsimp only
    | (with_reducible apply Only.mk_same) <;> first | with_reducible exact .inr (by assumption) | with_reducible exact .inl rfl | exact .inl rfl | skip

theorem Only.newNonce (h : Only pt z s)  (hp : Allow pt [.free, .ofReg .sec Reg.SEC_DBG_NONCE]) : Only pt z
    (State.newNonce s) := by
  obtain ⟨q0, q1, -⟩ := hp
  unfold State.newNonce
  repeat' first
    | intro _
    | (with_reducible first | assumption | exact Allow.nil | apply Allow.cons | apply Only.foldl
                            | apply Only.ite | apply Only.draw | apply Only.setF)
    | refine Only.of_eq (by assumption) ?_ | split | dsimp only

theorem Only.resetCr0 (h : Only pt z s)  (hp : Allow pt [.free, .resv, .shadow, .inForce, .dies, .links, .tables,
    .mem, .poison, .ctxs, .fpLines, .seeds, .pins, .hack, .sync, .rdData, .beatHi, .topo, .routes, .reserve, .grants,
    .reports, .rcv, .engs, .queues, .streams, .heads, .issued, .accepted, .failed, .seenIssued, .seenFailed, .nextTag,
    .hostEpoch, .fences, .rdReqs, .hosts, .ptp, .fus, .ldg, .boot, .chg, .tshadow, .recals, .landed, .recov]) (hr :
    AnyReg pt) : Only pt z (State.resetCr0 s) := by
  obtain ⟨q0, q1, q2, q3, q4, q5, q6, q7, q8, q9, q10, q11, q12, q13, q14, q15, q16, q17, q18, q19, q20, q21, q22, q23, q24, q25, q26, q27, q28, q29, q30, q31, q32, q33, q34, q35, q36, q37, q38, q39, q40, q41, q42, q43, q44, q45, -⟩ := hp
  unfold State.resetCr0
  repeat' first
    | intro _
    | (with_reducible first | assumption | exact Allow.nil | apply Only.foldl | apply Only.ite | apply Only.setF
                            | apply Only.setDie | apply Only.newNonce)
    | exact hr _ | exact hr.group rfl | with_reducible apply Allow.cons | refine Only.of_eq (by assumption) ?_ | split | dsimp only
    | (with_reducible apply Only.mk_same) <;> first | with_reducible exact .inr (by assumption) | with_reducible exact .inl rfl | exact .inl rfl | skip

theorem Only.resetCr1 (h : Only pt z s)  (hp : Allow pt [.resv, .shadow, .inForce, .dies, .links, .tables, .mem,
    .poison, .ctxs, .engs, .queues, .streams, .issued, .accepted, .failed, .seenIssued, .seenFailed, .nextTag,
    .fences, .rdReqs, .hosts, .ptp, .fus, .ldg, .boot, .tshadow, .landed, .recov]) (hr : AnyReg pt) : Only pt z
    (State.resetCr1 s) := by
  obtain ⟨q0, q1, q2, q3, q4, q5, q6, q7, q8, q9, q10, q11, q12, q13, q14, q15, q16, q17, q18, q19, q20, q21, q22, q23, q24, q25, q26, q27, -⟩ := hp
  unfold State.resetCr1
  repeat' first
    | (with_reducible first | assumption | exact Allow.nil | apply Only.ite | apply Only.domainOff
                            | apply Only.showLedgerOnly | apply Only.setF)
    | exact hr _ | exact hr.group rfl | with_reducible apply Allow.cons | refine Only.of_eq (by assumption) ?_ | split | dsimp only
    | (with_reducible apply Only.mk_same) <;> first | with_reducible exact .inr (by assumption) | with_reducible exact .inl rfl | exact .inl rfl | skip

theorem Only.sampleStraps (h : Only pt z s) (variant : Fin 4) (pkg : Fin 16) (refSel : Bool) (hp : Allow pt [.resv,
    .shadow, .inForce, .dies, .links, .tables, .mem, .poison, .ctxs, .engs, .queues, .streams, .issued, .accepted,
    .failed, .seenIssued, .seenFailed, .nextTag, .fences, .rdReqs, .hosts, .ptp, .fus, .ldg, .boot, .tshadow, .landed,
    .recov]) (hr : AnyReg pt) : Only pt z (State.sampleStraps s variant pkg refSel) := by
  obtain ⟨q0, q1, q2, q3, q4, q5, q6, q7, q8, q9, q10, q11, q12, q13, q14, q15, q16, q17, q18, q19, q20, q21, q22, q23, q24, q25, q26, q27, -⟩ := hp
  unfold State.sampleStraps
  repeat' first
    | (with_reducible first | assumption | exact Allow.nil | apply Only.ite | apply Only.setF | apply Only.log
                            | apply Only.haltBoot | apply Only.endStep | apply Only.setPhase)
    | exact hr _ | exact hr.group rfl | with_reducible apply Allow.cons | refine Only.of_eq (by assumption) ?_ | split | dsimp only
    | (with_reducible apply Only.mk_same) <;> first | with_reducible exact .inr (by assumption) | with_reducible exact .inl rfl | exact .inl rfl | skip

theorem Only.tryT0 (h : Only pt z s) (variant : Fin 4) (pkg : Fin 16) (refSel : Bool) (pfLow : Bool) (hp : Allow pt
    [.resv, .shadow, .inForce, .dies, .links, .tables, .mem, .poison, .ctxs, .engs, .queues, .streams, .issued,
    .accepted, .failed, .seenIssued, .seenFailed, .nextTag, .fences, .rdReqs, .hosts, .ptp, .fus, .ldg, .boot,
    .tshadow, .landed, .recov]) (hr : AnyReg pt) : Only pt z (State.tryT0 s variant pkg refSel pfLow) := by
  obtain ⟨q0, q1, q2, q3, q4, q5, q6, q7, q8, q9, q10, q11, q12, q13, q14, q15, q16, q17, q18, q19, q20, q21, q22, q23, q24, q25, q26, q27, -⟩ := hp
  unfold State.tryT0
  repeat' first
    | (with_reducible first | assumption | exact Allow.nil | apply Only.ite | apply Only.sampleStraps)
    | exact hr _ | exact hr.group rfl | with_reducible apply Allow.cons | refine Only.of_eq (by assumption) ?_ | split | dsimp only
    | (with_reducible apply Only.mk_same) <;> first | with_reducible exact .inr (by assumption) | with_reducible exact .inl rfl | exact .inl rfl | skip

theorem Only.refFails (h : Only pt z s)  (hp : Allow pt [.resv, .shadow, .inForce, .dies, .links, .tables, .mem,
    .poison, .ctxs, .engs, .queues, .streams, .issued, .accepted, .failed, .seenIssued, .seenFailed, .nextTag,
    .fences, .rdReqs, .hosts, .ptp, .fus, .ldg, .boot, .tshadow, .landed, .recov]) (hr : AnyReg pt) : Only pt z
    (State.refFails s) := by
  obtain ⟨q0, q1, q2, q3, q4, q5, q6, q7, q8, q9, q10, q11, q12, q13, q14, q15, q16, q17, q18, q19, q20, q21, q22, q23, q24, q25, q26, q27, -⟩ := hp
  unfold State.refFails
  repeat' first
    | (with_reducible first | assumption | exact Allow.nil | apply Only.ite | apply Only.log
                            | apply Only.haltBoot)
    | exact hr _ | exact hr.group rfl | with_reducible apply Allow.cons | refine Only.of_eq (by assumption) ?_ | split | dsimp only

theorem Only.pllFails (h : Only pt z s) (d : Die) (hp : Allow pt [.resv, .shadow, .inForce, .dies, .links, .tables,
    .mem, .poison, .ctxs, .engs, .queues, .streams, .issued, .accepted, .failed, .seenIssued, .seenFailed, .nextTag,
    .fences, .rdReqs, .hosts, .ptp, .fus, .ldg, .boot, .tshadow, .landed, .recov]) (hr : AnyReg pt) : Only pt z
    (State.pllFails s d) := by
  obtain ⟨q0, q1, q2, q3, q4, q5, q6, q7, q8, q9, q10, q11, q12, q13, q14, q15, q16, q17, q18, q19, q20, q21, q22, q23, q24, q25, q26, q27, -⟩ := hp
  unfold State.pllFails
  repeat' first
    | (with_reducible first | assumption | exact Allow.nil | apply Only.ite | apply Only.logAs
                            | apply Only.haltBoot)
    | exact hr _ | exact hr.group rfl | with_reducible apply Allow.cons | refine Only.of_eq (by assumption) ?_ | split | dsimp only

theorem Only.noteReserved (h : Only pt z s) (row : RegRow) (addr : Nat) (w : Nat) (hp : Allow pt [.resv]) : Only pt z
    (State.noteReserved s row addr w) := by
  obtain ⟨q0, -⟩ := hp
  unfold State.noteReserved
  repeat' first
    | (with_reducible first | assumption | exact Allow.nil | apply Allow.cons | apply Only.ite)
    | refine Only.of_eq (by assumption) ?_ | split | dsimp only
    | (with_reducible apply Only.mk_same) <;> first | with_reducible exact .inr (by assumption) | with_reducible exact .inl rfl | exact .inl rfl | skip

theorem Only.recField (h : Only pt z s) (p : Place) (w : Nat) (f : Fld) (hp : Allow pt [.inForce, .links, .fpLines,
    .ldg]) (hr : AnyReg pt) : Only pt z (State.recField s p w f) := by
  obtain ⟨q0, q1, q2, q3, -⟩ := hp
  unfold State.recField
  repeat' first
    | (with_reducible first | assumption | exact Allow.nil | apply Only.ite | apply Only.setF
                            | apply Only.clearFn)
    | exact hr _ | exact hr.group rfl | with_reducible apply Allow.cons | (show pt (Field.ofReg _ _) = true; assumption) | refine Only.of_eq (by assumption) ?_ | split | dsimp only
    | (with_reducible apply Only.mk_same) <;> first | with_reducible exact .inr (by assumption) | with_reducible exact .inl rfl | exact .inl rfl | skip

theorem Only.recPort (h : Only pt z s) (p : Place) (w : Nat) (now : Bool) (hp : Allow pt [.tables, .fus, .ldg,
    .tshadow, .ofReg .cfg Reg.CFG_ARM_STATUS_LATE_WR, .ofReg .fus Reg.FUS_COUNT_FROZEN,
    .ofReg .fus Reg.FUS_GRP_SKIP_SKIP, .ofReg .fus Reg.FUS_TBL_DATA_DATA, .ofReg .gtr Reg.GTR_STATUS_ACTIVE_WR,
    .ofReg .gtr Reg.GTR_TBL_DATA_DATA, .ofReg .ldg Reg.LDG_TBL_DATA_DATA, .ofReg .ldg Reg.LDG_TBL_INDEX_INDEX,
    .ofReg .ldg Reg.LDG_TBL_SPACE_BUSY, .ofReg .tray Reg.TRY_TBL_DATA_DATA]) : Only pt z (State.recPort s p w now) :=
    by
  obtain ⟨q0, q1, q2, q3, q4, q5, q6, q7, q8, q9, q10, q11, q12, q13, -⟩ := hp
  unfold State.recPort
  repeat' first
    | (with_reducible first | assumption | exact Allow.nil | apply Allow.cons | apply Only.ite
                            | apply Only.schedWrite | apply Only.fusTblWrite | apply Only.ldgTblWrite
                            | apply Only.ldgIndexWrite)
    | refine Only.of_eq (by assumption) ?_ | split | dsimp only
    | (with_reducible apply Only.mk_same) <;> first | with_reducible exact .inr (by assumption) | with_reducible exact .inl rfl | exact .inl rfl | skip

theorem Only.applyEntry (h : Only pt z s) (sel : Die → Blk → Bool) (e : Nat × Nat) (hp : Allow pt [.resv, .inForce,
    .links, .tables, .fpLines, .fus, .ldg, .tshadow]) (hr : AnyReg pt) : Only pt z (State.applyEntry s sel e) := by
  obtain ⟨q0, q1, q2, q3, q4, q5, q6, q7, -⟩ := hp
  unfold State.applyEntry
  repeat' first
    | intro _
    | (with_reducible first | assumption | exact Allow.nil | apply Only.foldl | apply Only.ite
                            | apply Only.recField | apply Only.recPort | apply Only.noteReserved)
    | exact hr _ | exact hr.group rfl | with_reducible apply Allow.cons | refine Only.of_eq (by assumption) ?_ | split | dsimp only
    | (with_reducible apply Only.mk_same) <;> first | with_reducible exact .inr (by assumption) | with_reducible exact .inl rfl | exact .inl rfl | skip

theorem Only.applyRecord (h : Only pt z s) (sel : Die → Blk → Bool) (hp : Allow pt [.resv, .inForce, .links, .tables,
    .fpLines, .fus, .ldg, .tshadow]) (hr : AnyReg pt) : Only pt z (State.applyRecord s sel) := by
  obtain ⟨q0, q1, q2, q3, q4, q5, q6, q7, -⟩ := hp
  unfold State.applyRecord
  repeat' first
    | intro _
    | (with_reducible first | assumption | exact Allow.nil | apply Only.foldl | apply Only.ite
                            | apply Only.applyEntry)
    | exact hr _ | exact hr.group rfl | with_reducible apply Allow.cons | refine Only.of_eq (by assumption) ?_ | split | dsimp only

theorem Only.logSkipped (h : Only pt z s)  (hg0 : Allow pt evtRegs) (hp : Allow pt [.dies]) : Only pt z
    (State.logSkipped s) := by
  obtain ⟨q0, -⟩ := hp
  unfold State.logSkipped
  repeat' first
    | (with_reducible first | assumption | exact Allow.nil | apply Allow.cons | apply Only.ite | apply Only.log)
    | refine Only.of_eq (by assumption) ?_ | split | dsimp only
    | (with_reducible apply Only.mk_same) <;> first | with_reducible exact .inr (by assumption) | with_reducible exact .inl rfl | exact .inl rfl | skip

theorem Only.iklDefaults (h : Only pt z s) (d : Die) (hp : Allow pt [.ofReg .ikl Reg.IKL_BUNDLE_EN_EN,
    .ofReg .ikl Reg.IKL_CAL_CTL_DWELL, .ofReg .ikl Reg.IKL_CAL_CTL_LT_FULL, .ofReg .ikl Reg.IKL_CAL_CTL_LT_SEEDED]) :
    Only pt z (State.iklDefaults s d) := by
  obtain ⟨q0, q1, q2, q3, -⟩ := hp
  unfold State.iklDefaults
  repeat' first
    | intro _
    | (with_reducible first | assumption | exact Allow.nil | apply Allow.cons | apply Only.foldl
                            | apply Only.ite | apply Only.setF)
    | refine Only.of_eq (by assumption) ?_ | split | dsimp only

theorem Only.recEnable (h : Only pt z s) (fn : Fn) (d : Die) (inst : Nat) (ok : Bool) (hg0 : Allow pt evtRegs) (hg1 :
    Allow pt refusalRegs) (hg2 : Allow pt laneMapRegs) (hg3 : Allow pt laneMapTxRegs) (hg4 : Allow pt trainRegs) (hg5
    : Allow pt lastRegs) (hg6 : Allow pt histRegs) (hg7 : Allow pt ethLinkRegs) (hg8 : Allow pt attemptRegs) (hg9 :
    Allow pt switchRegs) (hp : Allow pt [.free, .dies, .links, .tables, .fpLines, .pins, .rcv, .hosts, .ldg, .fram,
    .boot, .recov, .ofReg (fnRegs fn).blk (fnRegs fn).enable, .ofReg (fnRegs fn).blk (fnRegs fn).reason,
    .ofReg (fnRegs fn).blk (fnRegs fn).refused, .ofReg .bal Reg.BAL_REF_HOPS, .ofReg .bal Reg.BAL_STATUS_IS_MASTER,
    .ofReg .boot Reg.BOOT_STATUS_PHASE, .ofReg .fus Reg.FUS_BUF_USED, .ofReg .gtr Reg.GTR_STATUS_LATE,
    .ofReg .gtr Reg.GTR_STATUS_NOFIT, .ofReg .gtr Reg.GTR_STATUS_VARIANT, .ofReg .ldg Reg.LDG_SEQ,
    .ofReg .ldg Reg.LDG_STATUS_STATE, .ofReg .ldg Reg.LDG_STATUS_TORN, .ofReg .mem Reg.MEM_STATUS_MODE_EFF,
    .ofReg .ptp Reg.PTP_UTC_IN_USE, .ofReg .pwr Reg.PWR_RESERVE, .ofReg .pwr Reg.PWR_RESERVE_FLOORS,
    .ofReg .rcv Reg.RCV_STATUS_LEVEL, .ofReg .tray Reg.TRY_STATUS_TVARIANT, .ofReg .tray Reg.TRY_STATUS_WIN_DONE,
    .ofReg .trayPort Reg.TRYP_RETRY_LAST_RC]) : Only pt z (State.recEnable s fn d inst ok) := by
  obtain ⟨q0, q1, q2, q3, q4, q5, q6, q7, q8, q9, q10, q11, q12, q13, q14, q15, q16, q17, q18, q19, q20, q21, q22, q23, q24, q25, q26, q27, q28, q29, q30, q31, q32, -⟩ := hp
  unfold State.recEnable
  repeat' first
    | (with_reducible first | assumption | exact Allow.nil | apply Allow.cons | apply Only.ite
                            | apply Only.enableFn)
    | (show pt (Field.ofReg _ _) = true; assumption) | refine Only.of_eq (by assumption) ?_ | split | dsimp only

theorem Only.enableLinks (h : Only pt z s) (d : Die) (hg0 : Allow pt evtRegs) (hg1 : Allow pt refusalRegs) (hg2 :
    Allow pt laneMapRegs) (hg3 : Allow pt laneMapTxRegs) (hg4 : Allow pt trainRegs) (hg5 : Allow pt lastRegs) (hg6 :
    Allow pt histRegs) (hg7 : Allow pt ethLinkRegs) (hg8 : Allow pt attemptRegs) (hg9 : Allow pt switchRegs) (hp :
    Allow pt [.free, .dies, .links, .tables, .fpLines, .pins, .rcv, .hosts, .ldg, .fram, .boot, .recov,
    .ofReg .bal Reg.BAL_REF_HOPS, .ofReg .bal Reg.BAL_STATUS_IS_MASTER, .ofReg .boot Reg.BOOT_STATUS_PHASE,
    .ofReg .fus Reg.FUS_BUF_USED, .ofReg .gtr Reg.GTR_STATUS_LATE, .ofReg .gtr Reg.GTR_STATUS_NOFIT,
    .ofReg .gtr Reg.GTR_STATUS_VARIANT, .ofReg .ikl Reg.IKL_CAL_CTL_ENABLE, .ofReg .ikl Reg.IKL_CAL_STATUS_REASON,
    .ofReg .ikl Reg.IKL_CAL_STATUS_REFUSED, .ofReg .ikl Reg.IKL_LL_CTL_ENABLE, .ofReg .ikl Reg.IKL_LL_STATUS_REASON,
    .ofReg .ikl Reg.IKL_LL_STATUS_REFUSED, .ofReg .ikl Reg.IKL_PHY_CTL_ENABLE, .ofReg .ikl Reg.IKL_PHY_STATUS_REASON,
    .ofReg .ikl Reg.IKL_PHY_STATUS_REFUSED, .ofReg .ldg Reg.LDG_SEQ, .ofReg .ldg Reg.LDG_STATUS_STATE,
    .ofReg .ldg Reg.LDG_STATUS_TORN, .ofReg .mem Reg.MEM_STATUS_MODE_EFF, .ofReg .ptp Reg.PTP_UTC_IN_USE,
    .ofReg .pwr Reg.PWR_RESERVE, .ofReg .pwr Reg.PWR_RESERVE_FLOORS, .ofReg .rcv Reg.RCV_STATUS_LEVEL,
    .ofReg .tray Reg.TRY_STATUS_TVARIANT, .ofReg .tray Reg.TRY_STATUS_WIN_DONE,
    .ofReg .trayPort Reg.TRYP_RETRY_LAST_RC]) : Only pt z (State.enableLinks s d) := by
  obtain ⟨q0, q1, q2, q3, q4, q5, q6, q7, q8, q9, q10, q11, q12, q13, q14, q15, q16, q17, q18, q19, q20, q21, q22, q23, q24, q25, q26, q27, q28, q29, q30, q31, q32, q33, q34, q35, q36, q37, q38, -⟩ := hp
  unfold State.enableLinks
  repeat' first
    | intro _
    | (with_reducible first | assumption | exact Allow.nil | apply Allow.cons | apply Only.foldl
                            | apply Only.ite | apply Only.recEnable)
    | (show pt (Field.ofReg _ _) = true; assumption) | refine Only.of_eq (by assumption) ?_ | split | dsimp only

theorem Only.rcvOn (h : Only pt z s) (d : Die) (hg0 : Allow pt evtRegs) (hg1 : Allow pt refusalRegs) (hg2 : Allow pt
    laneMapRegs) (hg3 : Allow pt laneMapTxRegs) (hg4 : Allow pt trainRegs) (hg5 : Allow pt lastRegs) (hg6 : Allow pt
    histRegs) (hg7 : Allow pt ethLinkRegs) (hg8 : Allow pt attemptRegs) (hg9 : Allow pt switchRegs) (hp : Allow pt
    [.free, .dies, .links, .tables, .fpLines, .pins, .rcv, .hosts, .ldg, .fram, .boot, .recov,
    .ofReg .bal Reg.BAL_REF_HOPS, .ofReg .bal Reg.BAL_STATUS_IS_MASTER, .ofReg .boot Reg.BOOT_STATUS_PHASE,
    .ofReg .fus Reg.FUS_BUF_USED, .ofReg .gtr Reg.GTR_STATUS_LATE, .ofReg .gtr Reg.GTR_STATUS_NOFIT,
    .ofReg .gtr Reg.GTR_STATUS_VARIANT, .ofReg .ldg Reg.LDG_SEQ, .ofReg .ldg Reg.LDG_STATUS_STATE,
    .ofReg .ldg Reg.LDG_STATUS_TORN, .ofReg .mem Reg.MEM_STATUS_MODE_EFF, .ofReg .ptp Reg.PTP_UTC_IN_USE,
    .ofReg .pwr Reg.PWR_RESERVE, .ofReg .pwr Reg.PWR_RESERVE_FLOORS, .ofReg .rcv Reg.RCV_CTL_ENABLE,
    .ofReg .rcv Reg.RCV_STATUS_LEVEL, .ofReg .rcv Reg.RCV_STATUS_REASON, .ofReg .rcv Reg.RCV_STATUS_REFUSED,
    .ofReg .tray Reg.TRY_STATUS_TVARIANT, .ofReg .tray Reg.TRY_STATUS_WIN_DONE,
    .ofReg .trayPort Reg.TRYP_RETRY_LAST_RC]) : Only pt z (State.rcvOn s d) := by
  obtain ⟨q0, q1, q2, q3, q4, q5, q6, q7, q8, q9, q10, q11, q12, q13, q14, q15, q16, q17, q18, q19, q20, q21, q22, q23, q24, q25, q26, q27, q28, q29, q30, q31, q32, -⟩ := hp
  unfold State.rcvOn
  repeat' first
    | (with_reducible first | assumption | exact Allow.nil | apply Allow.cons | apply Only.ite
                            | apply Only.enableFn)
    | (show pt (Field.ofReg _ _) = true; assumption) | refine Only.of_eq (by assumption) ?_ | split | dsimp only

theorem Only.endVerify (h : Only pt z s)  (hp : Allow pt [.free, .resv, .shadow, .inForce, .dies, .links, .tables,
    .mem, .poison, .ctxs, .fpLines, .pins, .rcv, .engs, .queues, .streams, .issued, .accepted, .failed, .seenIssued,
    .seenFailed, .nextTag, .fences, .rdReqs, .hosts, .ptp, .fus, .ldg, .fram, .boot, .tshadow, .landed, .recov]) (hr :
    AnyReg pt) : Only pt z s.endVerify := by
  obtain ⟨q0, q1, q2, q3, q4, q5, q6, q7, q8, q9, q10, q11, q12, q13, q14, q15, q16, q17, q18, q19, q20, q21, q22, q23, q24, q25, q26, q27, q28, q29, q30, q31, q32, -⟩ := hp
  unfold State.endVerify
  repeat' first
    | intro _
    | (with_reducible first | assumption | exact Allow.nil | apply Only.ite | apply Only.haltBoot
                            | apply Only.bootAdvance | apply Only.nextDomain | apply Only.setPhase
                            | apply Only.endStep | apply Only.recEnable | apply Only.foldl | apply Only.rcvOn
                            | apply Only.logSkipped | apply Only.applyRecord | apply Only.setF)
    | exact hr _ | exact hr.group rfl | with_reducible apply Allow.cons | (show pt (Field.ofReg _ _) = true; assumption)
    | (with_reducible apply Only.mk_same) <;> first | with_reducible exact .inr (by assumption) | with_reducible exact .inl rfl | exact .inl rfl | skip

theorem Only.pickRecord (h : Only pt z s) (a : List Byte) (b : List Byte) (hg0 : Allow pt evtRegs) (hp : Allow pt
    [.dies, .ofReg .boot Reg.BOOT_STATUS_CFG_COPY]) : Only pt z (State.pickRecord s a b).2 := by
  obtain ⟨q0, q1, -⟩ := hp
  unfold State.pickRecord
  repeat' first
    | (with_reducible first | assumption | exact Allow.nil | apply Allow.cons | apply Only.ite
                            | apply Only.ite_snd | apply Only.logFault | apply Only.log | apply Only.setF)
    | refine Only.of_eq (by assumption) ?_ | split | dsimp only
    | (with_reducible apply Only.mk_same) <;> first | with_reducible exact .inr (by assumption) | with_reducible exact .inl rfl | exact .inl rfl | skip

theorem Only.cr1Fault (h : Only pt z s) (rc : Nat) (hg0 : Allow pt evtRegs) (hp : Allow pt [.dies]) : Only pt z
    (State.cr1Fault s rc) := by
  obtain ⟨q0, -⟩ := hp
  unfold State.cr1Fault
  repeat' first
    | (with_reducible first | assumption | exact Allow.nil | apply Allow.cons | apply Only.ite | apply Only.log)
    | refine Only.of_eq (by assumption) ?_ | split | dsimp only

theorem Only.cr1Bundle (h : Only pt z s) (fw : List Byte) (cr1fw : List Byte) (hg0 : Allow pt evtRegs) (hp : Allow pt
    [.dies, .boot]) : Only pt z (State.cr1Bundle s fw cr1fw).2 := by
  obtain ⟨q0, q1, -⟩ := hp
  unfold State.cr1Bundle
  repeat' first
    | (with_reducible first | assumption | exact Allow.nil | apply Allow.cons | apply Only.ite
                            | apply Only.ite_snd | apply Only.cr1Fault)
    | refine Only.of_eq (by assumption) ?_ | split | dsimp only
    | (with_reducible apply Only.mk_same) <;> first | with_reducible exact .inr (by assumption) | with_reducible exact .inl rfl | exact .inl rfl | skip

theorem Only.setAddr (h : Only pt z s) (p : PortAddr) (hp : Allow pt [.hosts]) : Only pt z (State.setAddr s p) := by
  obtain ⟨q0, -⟩ := hp
  unfold State.setAddr
  repeat' first
    | (with_reducible first | assumption | exact Allow.nil | apply Allow.cons | apply Only.ite
                            | apply Only.setHost)
    | refine Only.of_eq (by assumption) ?_ | split | dsimp only
    | (with_reducible apply Only.mk_same) <;> first | with_reducible exact .inr (by assumption) | with_reducible exact .inl rfl | exact .inl rfl | skip

theorem Only.linkUp (h : Only pt z s) (c : Crown) (width : Nat) (speed : Nat) (hp : Allow pt
    [.ofReg .pci Reg.PCI_STATUS_LINK_UP, .ofReg .pci Reg.PCI_STATUS_SPEED, .ofReg .pci Reg.PCI_STATUS_WIDTH]) : Only
    pt z (State.linkUp s c width speed) := by
  obtain ⟨q0, q1, q2, -⟩ := hp
  unfold State.linkUp
  repeat' first
    | (with_reducible first | assumption | exact Allow.nil | apply Allow.cons | apply Only.ite
                            | apply Only.setF)
    | refine Only.of_eq (by assumption) ?_ | split | dsimp only

theorem Only.crxOn (h : Only pt z s) (c : Crown) (ok : Bool) (hg0 : Allow pt evtRegs) (hg1 : Allow pt refusalRegs)
    (hg2 : Allow pt laneMapRegs) (hg3 : Allow pt laneMapTxRegs) (hg4 : Allow pt trainRegs) (hg5 : Allow pt lastRegs)
    (hg6 : Allow pt histRegs) (hg7 : Allow pt ethLinkRegs) (hg8 : Allow pt attemptRegs) (hg9 : Allow pt switchRegs)
    (hp : Allow pt [.free, .dies, .links, .tables, .fpLines, .pins, .rcv, .hosts, .ldg, .fram, .boot, .recov,
    .ofReg .bal Reg.BAL_REF_HOPS, .ofReg .bal Reg.BAL_STATUS_IS_MASTER, .ofReg .boot Reg.BOOT_STATUS_PHASE,
    .ofReg .ethPort Reg.ETHP_CTL_ENABLE, .ofReg .ethPort Reg.ETHP_STATUS_REASON,
    .ofReg .ethPort Reg.ETHP_STATUS_REFUSED, .ofReg .fus Reg.FUS_BUF_USED, .ofReg .gtr Reg.GTR_STATUS_LATE,
    .ofReg .gtr Reg.GTR_STATUS_NOFIT, .ofReg .gtr Reg.GTR_STATUS_VARIANT, .ofReg .ldg Reg.LDG_SEQ,
    .ofReg .ldg Reg.LDG_STATUS_STATE, .ofReg .ldg Reg.LDG_STATUS_TORN, .ofReg .mem Reg.MEM_STATUS_MODE_EFF,
    .ofReg .pci Reg.PCI_CTL_ENABLE, .ofReg .pci Reg.PCI_STATUS_LINK_UP, .ofReg .pci Reg.PCI_STATUS_REASON,
    .ofReg .pci Reg.PCI_STATUS_REFUSED, .ofReg .pci Reg.PCI_STATUS_SPEED, .ofReg .pci Reg.PCI_STATUS_WIDTH,
    .ofReg .ptp Reg.PTP_CTL_ENABLE, .ofReg .ptp Reg.PTP_STATUS_REASON, .ofReg .ptp Reg.PTP_STATUS_REFUSED,
    .ofReg .ptp Reg.PTP_UTC_IN_USE, .ofReg .pwr Reg.PWR_RESERVE, .ofReg .pwr Reg.PWR_RESERVE_FLOORS,
    .ofReg .rcv Reg.RCV_STATUS_LEVEL, .ofReg .thm Reg.THM_CTL_ENABLE, .ofReg .thm Reg.THM_STATUS_REASON,
    .ofReg .thm Reg.THM_STATUS_REFUSED, .ofReg .tray Reg.TRY_CTL_ENABLE, .ofReg .tray Reg.TRY_STATUS_REASON,
    .ofReg .tray Reg.TRY_STATUS_REFUSED, .ofReg .tray Reg.TRY_STATUS_TVARIANT, .ofReg .tray Reg.TRY_STATUS_WIN_DONE,
    .ofReg .trayPort Reg.TRYP_LL_CTL_ENABLE, .ofReg .trayPort Reg.TRYP_LL_STATUS_REASON,
    .ofReg .trayPort Reg.TRYP_LL_STATUS_REFUSED, .ofReg .trayPort Reg.TRYP_PORT_CTL_ENABLE,
    .ofReg .trayPort Reg.TRYP_PORT_STATUS_REASON, .ofReg .trayPort Reg.TRYP_PORT_STATUS_REFUSED,
    .ofReg .trayPort Reg.TRYP_RETRY_LAST_RC]) : Only pt z (State.crxOn s c ok) := by
  obtain ⟨q0, q1, q2, q3, q4, q5, q6, q7, q8, q9, q10, q11, q12, q13, q14, q15, q16, q17, q18, q19, q20, q21, q22, q23, q24, q25, q26, q27, q28, q29, q30, q31, q32, q33, q34, q35, q36, q37, q38, q39, q40, q41, q42, q43, q44, q45, q46, q47, q48, q49, q50, q51, q52, q53, -⟩ := hp
  unfold State.crxOn
  repeat' first
    | intro _
    | (with_reducible first | assumption | exact Allow.nil | apply Allow.cons | apply Only.foldl
                            | apply Only.ite | apply Only.recEnable | apply Only.setHost | apply Only.draw
                            | apply Only.linkUp)
    | (show pt (Field.ofReg _ _) = true; assumption) | refine Only.of_eq (by assumption) ?_ | split | dsimp only
    | (with_reducible apply Only.mk_same) <;> first | with_reducible exact .inr (by assumption) | with_reducible exact .inl rfl | exact .inl rfl | skip

theorem Only.mvlOn (h : Only pt z s) (d : Die) (hg0 : Allow pt evtRegs) (hg1 : Allow pt refusalRegs) (hg2 : Allow pt
    laneMapRegs) (hg3 : Allow pt laneMapTxRegs) (hg4 : Allow pt trainRegs) (hg5 : Allow pt lastRegs) (hg6 : Allow pt
    histRegs) (hg7 : Allow pt ethLinkRegs) (hg8 : Allow pt attemptRegs) (hg9 : Allow pt switchRegs) (hp : Allow pt
    [.free, .dies, .links, .tables, .fpLines, .pins, .rcv, .hosts, .ldg, .fram, .boot, .recov,
    .ofReg .bal Reg.BAL_REF_HOPS, .ofReg .bal Reg.BAL_STATUS_IS_MASTER, .ofReg .bal Reg.BAL_STATUS_REF_OK,
    .ofReg .boot Reg.BOOT_STATUS_PHASE, .ofReg .fus Reg.FUS_BUF_USED, .ofReg .gtr Reg.GTR_STATUS_LATE,
    .ofReg .gtr Reg.GTR_STATUS_NOFIT, .ofReg .gtr Reg.GTR_STATUS_VARIANT, .ofReg .ikl Reg.IKL_CAL_CTL_ENABLE,
    .ofReg .ikl Reg.IKL_CAL_STATUS_REASON, .ofReg .ikl Reg.IKL_CAL_STATUS_REFUSED, .ofReg .ikl Reg.IKL_LL_CTL_ENABLE,
    .ofReg .ikl Reg.IKL_LL_STATUS_REASON, .ofReg .ikl Reg.IKL_LL_STATUS_REFUSED, .ofReg .ikl Reg.IKL_PHY_CTL_ENABLE,
    .ofReg .ikl Reg.IKL_PHY_STATUS_REASON, .ofReg .ikl Reg.IKL_PHY_STATUS_REFUSED, .ofReg .ldg Reg.LDG_SEQ,
    .ofReg .ldg Reg.LDG_STATUS_STATE, .ofReg .ldg Reg.LDG_STATUS_TORN, .ofReg .mem Reg.MEM_STATUS_MODE_EFF,
    .ofReg .ptp Reg.PTP_UTC_IN_USE, .ofReg .pwr Reg.PWR_RESERVE, .ofReg .pwr Reg.PWR_RESERVE_FLOORS,
    .ofReg .rcv Reg.RCV_CTL_ENABLE, .ofReg .rcv Reg.RCV_STATUS_LEVEL, .ofReg .rcv Reg.RCV_STATUS_REASON,
    .ofReg .rcv Reg.RCV_STATUS_REFUSED, .ofReg .thm Reg.THM_CTL_ENABLE, .ofReg .thm Reg.THM_STATUS_REASON,
    .ofReg .thm Reg.THM_STATUS_REFUSED, .ofReg .tray Reg.TRY_STATUS_TVARIANT, .ofReg .tray Reg.TRY_STATUS_WIN_DONE,
    .ofReg .trayPort Reg.TRYP_RETRY_LAST_RC]) : Only pt z (State.mvlOn s d) := by
  obtain ⟨q0, q1, q2, q3, q4, q5, q6, q7, q8, q9, q10, q11, q12, q13, q14, q15, q16, q17, q18, q19, q20, q21, q22, q23, q24, q25, q26, q27, q28, q29, q30, q31, q32, q33, q34, q35, q36, q37, q38, q39, q40, q41, q42, q43, q44, q45, -⟩ := hp
  unfold State.mvlOn
  repeat' first
    | (with_reducible first | assumption | exact Allow.nil | apply Allow.cons | apply Only.ite | apply Only.setF
                            | apply Only.setDie | apply Only.rcvOn | apply Only.enableLinks
                            | apply Only.recEnable | apply Only.showMaster)
    | (show pt (Field.ofReg _ _) = true; assumption) | refine Only.of_eq (by assumption) ?_ | split | dsimp only
    | (with_reducible apply Only.mk_same) <;> first | with_reducible exact .inr (by assumption) | with_reducible exact .inl rfl | exact .inl rfl | skip

theorem Only.domainIsOn (h : Only pt z s) (k : Domain) (ok : Bool) (hp : Allow pt [.free, .resv, .shadow, .inForce,
    .dies, .links, .tables, .fpLines, .pins, .rcv, .hosts, .fus, .ldg, .fram, .boot, .tshadow, .recov]) (hr : AnyReg
    pt) : Only pt z (State.domainIsOn s k ok) := by
  obtain ⟨q0, q1, q2, q3, q4, q5, q6, q7, q8, q9, q10, q11, q12, q13, q14, q15, q16, -⟩ := hp
  unfold State.domainIsOn
  repeat' first
    | intro _
    | (with_reducible first | assumption | exact Allow.nil | apply Only.foldl | apply Only.ite
                            | apply Only.dropRegs | apply Only.setF | apply Only.showLedgerOnly
                            | apply Only.loadFuseMaps | apply Only.iklDefaults | apply Only.applyRecord
                            | apply Only.mvlOn | apply Only.crxOn)
    | exact hr _ | exact hr.group rfl | with_reducible apply Allow.cons | refine Only.of_eq (by assumption) ?_ | split | dsimp only
    | (with_reducible apply Only.mk_same) <;> first | with_reducible exact .inr (by assumption) | with_reducible exact .inl rfl | exact .inl rfl | skip

theorem Only.domRequest (h : Only pt z s) (on : Nat) (hp : Allow pt [.resv, .shadow, .inForce, .dies, .links, .tables,
    .mem, .poison, .ctxs, .engs, .queues, .streams, .issued, .accepted, .failed, .seenIssued, .seenFailed, .nextTag,
    .fences, .rdReqs, .hosts, .ptp, .fus, .ldg, .boot, .tshadow, .landed, .recov]) (hr : AnyReg pt) : Only pt z
    (State.domRequest s on) := by
  obtain ⟨q0, q1, q2, q3, q4, q5, q6, q7, q8, q9, q10, q11, q12, q13, q14, q15, q16, q17, q18, q19, q20, q21, q22, q23, q24, q25, q26, q27, -⟩ := hp
  unfold State.domRequest
  repeat' first
    | intro _
    | (with_reducible first | assumption | exact Allow.nil | apply Only.foldl | apply Only.ite
                            | apply Only.refusePwr | apply Only.domainOff | apply Only.setF
                            | apply Only.showLedgerOnly | apply Only.nextDomain)
    | exact hr _ | exact hr.group rfl | with_reducible apply Allow.cons | refine Only.of_eq (by assumption) ?_ | split | dsimp only
    | (with_reducible apply Only.mk_same) <;> first | with_reducible exact .inr (by assumption) | with_reducible exact .inl rfl | exact .inl rfl | skip

theorem Only.placeFw (h : Only pt z s) (d : Die) (hp : Allow pt [.mem]) : Only pt z (State.placeFw s d) := by
  obtain ⟨q0, -⟩ := hp
  unfold State.placeFw
  repeat' first
    | (with_reducible first | assumption | exact Allow.nil | apply Allow.cons | apply Only.ite
                            | apply Only.wrBytes)
    | refine Only.of_eq (by assumption) ?_ | split | dsimp only

theorem Only.restart (h : Only pt z s)  (hp : Allow pt [.resv, .shadow, .inForce, .dies, .links, .tables, .mem,
    .poison, .ctxs, .seeds, .topo, .engs, .queues, .streams, .issued, .accepted, .failed, .seenIssued, .seenFailed,
    .nextTag, .fences, .rdReqs, .hosts, .ptp, .fus, .ldg, .boot, .tshadow, .landed, .recov]) (hr : AnyReg pt) : Only
    pt z (State.restart s) := by
  obtain ⟨q0, q1, q2, q3, q4, q5, q6, q7, q8, q9, q10, q11, q12, q13, q14, q15, q16, q17, q18, q19, q20, q21, q22, q23, q24, q25, q26, q27, q28, q29, -⟩ := hp
  unfold State.restart
  repeat' first
    | intro _
    | (with_reducible first | assumption | exact Allow.nil | apply Only.foldl | apply Only.ite
                            | apply Only.allOffBut | apply Only.setF | apply Only.setDie | apply Only.setPhase)
    | exact hr _ | exact hr.group rfl | with_reducible apply Allow.cons | refine Only.of_eq (by assumption) ?_ | split | dsimp only
    | (with_reducible apply Only.mk_same) <;> first | with_reducible exact .inr (by assumption) | with_reducible exact .inl rfl | exact .inl rfl | skip

theorem Only.restartWrite (h : Only pt z s)  (hp : Allow pt [.resv, .shadow, .inForce, .dies, .links, .tables, .mem,
    .poison, .ctxs, .seeds, .topo, .engs, .queues, .streams, .issued, .accepted, .failed, .seenIssued, .seenFailed,
    .nextTag, .fences, .rdReqs, .hosts, .ptp, .fus, .ldg, .boot, .tshadow, .landed, .recov]) (hr : AnyReg pt) : Only
    pt z (State.restartWrite s) := by
  obtain ⟨q0, q1, q2, q3, q4, q5, q6, q7, q8, q9, q10, q11, q12, q13, q14, q15, q16, q17, q18, q19, q20, q21, q22, q23, q24, q25, q26, q27, q28, q29, -⟩ := hp
  unfold State.restartWrite
  repeat' first
    | (with_reducible first | assumption | exact Allow.nil | apply Only.ite | apply Only.refuse
                            | apply Only.restart)
    | exact hr _ | exact hr.group rfl | with_reducible apply Allow.cons | (show pt (Field.ofReg _ _) = true; assumption) | refine Only.of_eq (by assumption) ?_ | split | dsimp only

theorem Only.putField (h : Only pt z s) (m : Nat × Nat) (hr : AnyReg pt) : Only pt z (State.putField s m) := by
  unfold State.putField
  repeat' first
    | (with_reducible first | assumption | exact Allow.nil | apply Only.ite | apply Only.setF)
    | exact hr _ | exact hr.group rfl | with_reducible apply Allow.cons | refine Only.of_eq (by assumption) ?_ | split | dsimp only
    | (with_reducible apply Only.mk_same) <;> first | with_reducible exact .inr (by assumption) | with_reducible exact .inl rfl | exact .inl rfl | skip

theorem Only.setPart (h : Only pt z s) (d : Die) (p : Option Part) (hp : Allow pt [.chg,
    .ofReg .cfg Reg.CFG_SHADOW_FROZEN]) : Only pt z (State.setPart s d p) := by
  obtain ⟨q0, q1, -⟩ := hp
  unfold State.setPart
  repeat' first
    | (with_reducible first | assumption | exact Allow.nil | apply Allow.cons | apply Only.ite
                            | apply Only.setF)
    | refine Only.of_eq (by assumption) ?_ | split | dsimp only
    | (with_reducible apply Only.mk_same) <;> first | with_reducible exact .inr (by assumption) | with_reducible exact .inl rfl | exact .inl rfl | skip

theorem Only.showArm (h : Only pt z s) (x : Fn × Die × Nat) (rc : Option Nat) (hp : Allow pt [.ofReg (fnRegs x.1).blk
    (fnRegs x.1).reason, .ofReg (fnRegs x.1).blk (fnRegs x.1).refused]) : Only pt z (State.showArm s x rc) := by
  obtain ⟨q0, q1, -⟩ := hp
  unfold State.showArm
  repeat' first
    | (with_reducible first | assumption | exact Allow.nil | apply Allow.cons | apply Only.ite
                            | apply Only.setF)
    | refine Only.of_eq (by assumption) ?_ | split | dsimp only

theorem armFns_fst {d : Die} {ms tabs : List (Nat × Nat)} {bank : Bool} {x : Fn × Die × Nat} (h : x ∈ armFns d ms tabs
    bank) :
    x.1 = .gtr ∨ x.1 = .fus ∨ x.1 = .ldg := by
  unfold armFns at h
  rcases List.mem_append.1 h with h | h
  · split at h
    · rw [List.mem_singleton.1 h]; exact .inl rfl
    · exact nomatch h
  · have g := (List.mem_filter.1 h).2
    rw [Bool.or_eq_true, beq_iff_eq, beq_iff_eq] at g
    exact .inr g

theorem Only.freeze (h : Only pt z s) (d : Die) (hackLen turn : Nat) (hp : Allow pt [.chg,
    .ofReg .cfg Reg.CFG_SHADOW_FROZEN, .ofReg .fus Reg.FUS_STATUS_REASON, .ofReg .fus Reg.FUS_STATUS_REFUSED,
    .ofReg .gtr Reg.GTR_STATUS_REASON, .ofReg .gtr Reg.GTR_STATUS_REFUSED, .ofReg .ldg Reg.LDG_STATUS_REASON,
    .ofReg .ldg Reg.LDG_STATUS_REFUSED]) : Only pt z (s.freeze d hackLen turn).2.2 := by
  obtain ⟨q0, q1, q2, q3, q4, q5, q6, q7, -⟩ := hp
  unfold State.freeze
  dsimp only
  apply Only.setPart
  · refine .foldl_mem _ (fun u x hx hu => ?_) h
    rcases armFns_fst hx with e | e | e <;> apply Only.showArm hu <;> rw [e] <;>
      exact ⟨by assumption, by assumption, trivial⟩
  all_goals (repeat' first | with_reducible assumption | with_reducible exact Allow.nil | with_reducible apply Allow.cons | (show pt (Field.ofReg _ _) = true; assumption))

theorem Only.armTo (h : Only pt z s) (d : Die) (op : Nat) (m : ArmMsg) (hp : Allow pt [.links]) : Only pt z
    (State.armTo s d op m) := by
  obtain ⟨q0, -⟩ := hp
  unfold State.armTo
  repeat' first
    | (with_reducible first | assumption | exact Allow.nil | apply Allow.cons | apply Only.ite
                            | apply Only.sbSend)
    | refine Only.of_eq (by assumption) ?_ | split | dsimp only
    | (with_reducible apply Only.mk_same) <;> first | with_reducible exact .inr (by assumption) | with_reducible exact .inl rfl | exact .inl rfl | skip

theorem Only.armReply (h : Only pt z s) (d : Die) (m : ArmMsg) (hp : Allow pt [.links]) : Only pt z (State.armReply s
    d m) := by
  obtain ⟨q0, -⟩ := hp
  unfold State.armReply
  repeat' first
    | (with_reducible first | assumption | exact Allow.nil | apply Allow.cons | apply Only.ite
                            | apply Only.sbSend)
    | refine Only.of_eq (by assumption) ?_ | split | dsimp only
    | (with_reducible apply Only.mk_same) <;> first | with_reducible exact .inr (by assumption) | with_reducible exact .inl rfl | exact .inl rfl | skip

theorem Only.armDies (h : Only pt z s) (op : Nat) (hp : Allow pt [.links]) : Only pt z (State.armDies s op) := by
  obtain ⟨q0, -⟩ := hp
  unfold State.armDies
  repeat' first
    | intro _
    | (with_reducible first | assumption | exact Allow.nil | apply Allow.cons | apply Only.foldl
                            | apply Only.ite | apply Only.armTo)
    | refine Only.of_eq (by assumption) ?_ | split | dsimp only

theorem Only.armTray (h : Only pt z s) (op : Nat) (hp : Allow pt [.links]) : Only pt z (State.armTray s op) := by
  obtain ⟨q0, -⟩ := hp
  unfold State.armTray
  repeat' first
    | intro _
    | (with_reducible first | assumption | exact Allow.nil | apply Allow.cons | apply Only.foldl
                            | apply Only.ite | apply Only.sbSend)
    | refine Only.of_eq (by assumption) ?_ | split | dsimp only
    | (with_reducible apply Only.mk_same) <;> first | with_reducible exact .inr (by assumption) | with_reducible exact .inl rfl | exact .inl rfl | skip

theorem Only.armUp (h : Only pt z s) (m : ArmMsg) (hp : Allow pt [.links]) : Only pt z (State.armUp s m) := by
  obtain ⟨q0, -⟩ := hp
  unfold State.armUp
  repeat' first
    | (with_reducible first | assumption | exact Allow.nil | apply Allow.cons | apply Only.ite
                            | apply Only.sbSend)
    | refine Only.of_eq (by assumption) ?_ | split | dsimp only
    | (with_reducible apply Only.mk_same) <;> first | with_reducible exact .inr (by assumption) | with_reducible exact .inl rfl | exact .inl rfl | skip

theorem Only.takeConfirm (h : Only pt z s) (d : Die) (cls : Nat) (bad : Option Nat) (hp : Allow pt [.chg,
    .ofReg .cfg Reg.CFG_ARM_STATUS_CLASS, .ofReg .cfg Reg.CFG_ARM_STATUS_CONFIRMED]) : Only pt z (State.takeConfirm s
    d cls bad) := by
  obtain ⟨q0, q1, q2, -⟩ := hp
  unfold State.takeConfirm
  repeat' first
    | (with_reducible first | assumption | exact Allow.nil | apply Allow.cons | apply Only.ite
                            | apply Only.setF)
    | refine Only.of_eq (by assumption) ?_ | split | dsimp only
    | (with_reducible apply Only.mk_same) <;> first | with_reducible exact .inr (by assumption) | with_reducible exact .inl rfl | exact .inl rfl | skip

theorem Only.beginSet (h : Only pt z s) (c : ChgSt) (needed : Nat) (hp : Allow pt [.links, .chg,
    .ofReg .cfg Reg.CFG_ARM_STATE, .ofReg .cfg Reg.CFG_ARM_STATUS_CLASS, .ofReg .cfg Reg.CFG_ARM_STATUS_CONFIRMED,
    .ofReg .cfg Reg.CFG_ARM_TRAY_PKG_NEEDED, .ofReg .cfg Reg.CFG_ARM_TRAY_PKG_OK, .ofReg .cfg Reg.CFG_SHADOW_FROZEN,
    .ofReg .fus Reg.FUS_STATUS_REASON, .ofReg .fus Reg.FUS_STATUS_REFUSED, .ofReg .gtr Reg.GTR_STATUS_REASON,
    .ofReg .gtr Reg.GTR_STATUS_REFUSED, .ofReg .ldg Reg.LDG_STATUS_REASON, .ofReg .ldg Reg.LDG_STATUS_REFUSED]) : Only
    pt z (State.beginSet s c needed) := by
  obtain ⟨q0, q1, q2, q3, q4, q5, q6, q7, q8, q9, q10, q11, q12, q13, -⟩ := hp
  unfold State.beginSet
  repeat' first
    | (with_reducible first | assumption | exact Allow.nil | apply Allow.cons | apply Only.ite | apply Only.setF
                            | apply Only.armDies | apply Only.freeze | apply Only.takeConfirm)
    | refine Only.of_eq (by assumption) ?_ | split | dsimp only
    | (with_reducible apply Only.mk_same) <;> first | with_reducible exact .inr (by assumption) | with_reducible exact .inl rfl | exact .inl rfl | skip

theorem Only.armGo (h : Only pt z s)  (hg0 : Allow pt evtRegs) (hg1 : Allow pt refusalRegs) (hp : Allow pt [.dies,
    .links, .chg, .ofReg .cfg Reg.CFG_ARM_STATE, .ofReg .cfg Reg.CFG_ARM_STATUS_CLASS,
    .ofReg .cfg Reg.CFG_ARM_STATUS_CONFIRMED, .ofReg .cfg Reg.CFG_ARM_STATUS_REASON,
    .ofReg .cfg Reg.CFG_ARM_TRAY_PKG_NEEDED, .ofReg .cfg Reg.CFG_ARM_TRAY_PKG_OK,
    .ofReg .cfg Reg.CFG_COMMIT_TURN_HI_TURN, .ofReg .cfg Reg.CFG_COMMIT_TURN_LO_TURN,
    .ofReg .cfg Reg.CFG_SHADOW_FROZEN, .ofReg .fus Reg.FUS_STATUS_REASON, .ofReg .fus Reg.FUS_STATUS_REFUSED,
    .ofReg .gtr Reg.GTR_STATUS_REASON, .ofReg .gtr Reg.GTR_STATUS_REFUSED, .ofReg .ldg Reg.LDG_STATUS_REASON,
    .ofReg .ldg Reg.LDG_STATUS_REFUSED]) : Only pt z (State.armGo s) := by
  obtain ⟨q0, q1, q2, q3, q4, q5, q6, q7, q8, q9, q10, q11, q12, q13, q14, q15, q16, q17, -⟩ := hp
  unfold State.armGo
  repeat' first
    | (with_reducible first | assumption | exact Allow.nil | apply Allow.cons | apply Only.ite
                            | apply Only.refuseBlk | apply Only.setF | apply Only.showArm | apply Only.set64
                            | apply Only.beginSet)
    | (show pt (Field.ofReg _ _) = true; assumption) | refine Only.of_eq (by assumption) ?_ | split | dsimp only
    | (with_reducible apply Only.mk_same) <;> first | with_reducible exact .inr (by assumption) | with_reducible exact .inl rfl | exact .inl rfl | skip

theorem Only.abortSet (h : Only pt z s) (rc : Nat) (hg0 : Allow pt evtRegs) (hg1 : Allow pt refusalRegs) (hp : Allow
    pt [.dies, .links, .boot, .chg, .ofReg .cfg Reg.CFG_ARM_STATE, .ofReg .cfg Reg.CFG_ARM_STATUS_REASON,
    .ofReg .cfg Reg.CFG_SHADOW_FROZEN]) : Only pt z (s.abortSet rc) := by
  obtain ⟨q0, q1, q2, q3, q4, q5, q6, -⟩ := hp
  unfold State.abortSet
  repeat' first
    | (with_reducible first | assumption | exact Allow.nil | apply Allow.cons | apply Only.ite
                            | apply Only.refuseBlk | apply Only.setF | apply Only.armDies | apply Only.setPart
                            | apply Only.armTray)
    | (with_reducible apply Only.mk_same) <;> first | with_reducible exact .inr (by assumption) | with_reducible exact .inl rfl | exact .inl rfl | skip

theorem Only.clearStage (h : Only pt z s)  (hp : Allow pt [.ofReg .cfg Reg.CFG_STAGE_OFF_OFFSET,
    .ofReg .cfg Reg.CFG_STAGE_OFF_VALID, .ofReg .cfg Reg.CFG_STAGE_VAL_VALUE]) : Only pt z (State.clearStage s) := by
  obtain ⟨q0, q1, q2, -⟩ := hp
  unfold State.clearStage
  repeat' first
    | intro _
    | (with_reducible first | assumption | exact Allow.nil | apply Allow.cons | apply Only.foldl
                            | apply Only.ite | apply Only.setF)
    | refine Only.of_eq (by assumption) ?_ | split | dsimp only

theorem Only.armDiscard (h : Only pt z s)  (hg0 : Allow pt evtRegs) (hg1 : Allow pt refusalRegs) (hp : Allow pt
    [.shadow, .dies, .links, .boot, .chg, .tshadow, .ofReg .cfg Reg.CFG_ARM_STATE,
    .ofReg .cfg Reg.CFG_ARM_STATUS_REASON, .ofReg .cfg Reg.CFG_SHADOW_FROZEN, .ofReg .cfg Reg.CFG_STAGE_OFF_OFFSET,
    .ofReg .cfg Reg.CFG_STAGE_OFF_VALID, .ofReg .cfg Reg.CFG_STAGE_VAL_VALUE]) : Only pt z (State.armDiscard s) := by
  obtain ⟨q0, q1, q2, q3, q4, q5, q6, q7, q8, q9, q10, q11, -⟩ := hp
  unfold State.armDiscard
  repeat' first
    | (with_reducible first | assumption | exact Allow.nil | apply Allow.cons | apply Only.ite
                            | apply Only.clearStage | apply Only.armUp | apply Only.abortSet)
    | refine Only.of_eq (by assumption) ?_ | split | dsimp only
    | (with_reducible apply Only.mk_same) <;> first | with_reducible exact .inr (by assumption) | with_reducible exact .inl rfl | exact .inl rfl | skip

theorem Only.armWrite (h : Only pt z s) (w : Nat) (hg0 : Allow pt evtRegs) (hg1 : Allow pt refusalRegs) (hp : Allow pt
    [.shadow, .dies, .links, .boot, .chg, .tshadow, .ofReg .cfg Reg.CFG_ARM_BANK, .ofReg .cfg Reg.CFG_ARM_BY_TAI,
    .ofReg .cfg Reg.CFG_ARM_HACK_LEN, .ofReg .cfg Reg.CFG_ARM_SCOPE, .ofReg .cfg Reg.CFG_ARM_SET_ID,
    .ofReg .cfg Reg.CFG_ARM_STATE, .ofReg .cfg Reg.CFG_ARM_STATUS_CLASS, .ofReg .cfg Reg.CFG_ARM_STATUS_CONFIRMED,
    .ofReg .cfg Reg.CFG_ARM_STATUS_REASON, .ofReg .cfg Reg.CFG_ARM_TRAY_PKG_NEEDED,
    .ofReg .cfg Reg.CFG_ARM_TRAY_PKG_OK, .ofReg .cfg Reg.CFG_COMMIT_TURN_HI_TURN,
    .ofReg .cfg Reg.CFG_COMMIT_TURN_LO_TURN, .ofReg .cfg Reg.CFG_SHADOW_FROZEN, .ofReg .cfg Reg.CFG_STAGE_OFF_OFFSET,
    .ofReg .cfg Reg.CFG_STAGE_OFF_VALID, .ofReg .cfg Reg.CFG_STAGE_VAL_VALUE, .ofReg .fus Reg.FUS_STATUS_REASON,
    .ofReg .fus Reg.FUS_STATUS_REFUSED, .ofReg .gtr Reg.GTR_STATUS_REASON, .ofReg .gtr Reg.GTR_STATUS_REFUSED,
    .ofReg .ldg Reg.LDG_STATUS_REASON, .ofReg .ldg Reg.LDG_STATUS_REFUSED]) : Only pt z (State.armWrite s w) := by
  obtain ⟨g00, g01, g02, -⟩ := id hg0
  obtain ⟨g10, g11, g12, g13, g14, -⟩ := id hg1
  obtain ⟨q0, q1, q2, q3, q4, q5, q6, q7, q8, q9, q10, q11, q12, q13, q14, q15, q16, q17, q18, q19, q20, q21, q22, q23, q24, q25, q26, q27, q28, -⟩ := hp
  unfold State.armWrite
  repeat' first
    | (with_reducible first | assumption | exact Allow.nil | apply Allow.cons | apply Only.ite | apply Only.setF
                            | apply Only.armDiscard | apply Only.armGo)
    | refine Only.of_eq (by assumption) ?_ | split | dsimp only

theorem Only.armTakes (h : Only pt z s) (e : LinkEnd) (r : SbSlot) (op : Nat) (hg0 : Allow pt evtRegs) (hg1 : Allow pt
    laneMapRegs) (hg2 : Allow pt laneMapTxRegs) (hg3 : Allow pt trainRegs) (hg4 : Allow pt quiesceRegs) (hp : Allow pt
    [.dies, .links, .ofReg .gtr Reg.GTR_STATUS_LATE, .ofReg .ikl Reg.IKL_BPHY_LEAD, .ofReg .ikl Reg.IKL_EYE_WIN_ERR,
    .ofReg .ikl Reg.IKL_LL_ERR_BAD_MTYPE, .ofReg .ikl Reg.IKL_PHY_STATUS_LEAD, .ofReg .ikl Reg.IKL_SB_ERR_CRC_ERR,
    .ofReg .trayPort Reg.TRYP_EYE_WIN_ERR, .ofReg .trayPort Reg.TRYP_FEC_CORR_CW,
    .ofReg .trayPort Reg.TRYP_FEC_UNCORR_CW, .ofReg .trayPort Reg.TRYP_LL_ERR_BAD_MTYPE]) : Only pt z (State.armTakes
    s e r op).2 := by
  obtain ⟨q0, q1, q2, q3, q4, q5, q6, q7, q8, q9, q10, q11, -⟩ := hp
  unfold State.armTakes
  repeat' first
    | (with_reducible first | assumption | exact Allow.nil | apply Allow.cons | apply Only.ite
                            | apply Only.ite_snd | apply Only.sbTakes | apply Only.sbTake)
    | refine Only.of_eq (by assumption) ?_ | split | dsimp only
    | (with_reducible apply Only.mk_same) <;> first | with_reducible exact .inr (by assumption) | with_reducible exact .inl rfl | exact .inl rfl | skip

theorem Only.armFromTray (h : Only pt z s) (m : ArmMsg) (hp : Allow pt [.links, .chg, .ofReg .cfg Reg.CFG_ARM_STATE,
    .ofReg .cfg Reg.CFG_ARM_STATUS_CLASS, .ofReg .cfg Reg.CFG_ARM_STATUS_CONFIRMED,
    .ofReg .cfg Reg.CFG_ARM_TRAY_PKG_NEEDED, .ofReg .cfg Reg.CFG_ARM_TRAY_PKG_OK, .ofReg .cfg Reg.CFG_SHADOW_FROZEN,
    .ofReg .fus Reg.FUS_STATUS_REASON, .ofReg .fus Reg.FUS_STATUS_REFUSED, .ofReg .gtr Reg.GTR_STATUS_REASON,
    .ofReg .gtr Reg.GTR_STATUS_REFUSED, .ofReg .ldg Reg.LDG_STATUS_REASON, .ofReg .ldg Reg.LDG_STATUS_REFUSED]) : Only
    pt z (State.armFromTray s m) := by
  obtain ⟨q0, q1, q2, q3, q4, q5, q6, q7, q8, q9, q10, q11, q12, q13, -⟩ := hp
  unfold State.armFromTray
  repeat' first
    | (with_reducible first | assumption | exact Allow.nil | apply Allow.cons | apply Only.ite
                            | apply Only.beginSet | apply Only.armTray)
    | refine Only.of_eq (by assumption) ?_ | split | dsimp only

theorem Only.takePkgConfirm (h : Only pt z s) (m : ArmMsg) (hp : Allow pt [.chg, .ofReg .cfg Reg.CFG_ARM_TRAY_PKG_OK])
    : Only pt z (State.takePkgConfirm s m) := by
  obtain ⟨q0, q1, -⟩ := hp
  unfold State.takePkgConfirm
  repeat' first
    | (with_reducible first | assumption | exact Allow.nil | apply Allow.cons | apply Only.ite
                            | apply Only.setF)
    | refine Only.of_eq (by assumption) ?_ | split | dsimp only
    | (with_reducible apply Only.mk_same) <;> first | with_reducible exact .inr (by assumption) | with_reducible exact .inl rfl | exact .inl rfl | skip

theorem Only.commitSet (h : Only pt z s) (hp : Allow pt [.links, .boot, .chg, .ofReg .boot Reg.BOOT_ACT_TURN_HI_TURN,
    .ofReg .boot Reg.BOOT_ACT_TURN_LO_TURN, .ofReg .cfg Reg.CFG_SHADOW_FROZEN]) : Only pt z s.commitSet := by
  obtain ⟨q0, q1, q2, q3, q4, q5, -⟩ := hp
  unfold State.commitSet
  extract_lets c1 s1 s2 s3 s4
  have h1 : Only pt z s1 := by
    (with_reducible apply Only.mk_same) <;> first | with_reducible exact .inr (by assumption) | with_reducible exact .inl rfl | with_reducible assumption
  clear_value s1
  have h2 : Only pt z s2 := by
    unfold s2
    split
    · apply Only.setPart <;> (repeat' first | with_reducible assumption | with_reducible exact Allow.nil | with_reducible apply Allow.cons)
    · exact h1
  clear_value s2
  have h3 : Only pt z s3 := by apply Only.armDies <;> (repeat' first | with_reducible assumption | with_reducible exact Allow.nil | with_reducible apply Allow.cons)
  clear_value s3
  have h4 : Only pt z s4 := .ite (by apply Only.armTray <;> (repeat' first | with_reducible assumption | with_reducible exact Allow.nil | with_reducible apply Allow.cons)) h3
  clear_value s4
  refine .ite ?_ h4
  with_reducible refine Only.set64 ?_ _ _ _ _ _ _ _ (by (repeat' first | with_reducible assumption | with_reducible exact Allow.nil | with_reducible apply Allow.cons))
  (with_reducible apply Only.mk_same) <;> first | with_reducible exact .inr (by assumption) | with_reducible exact .inl rfl | with_reducible assumption

theorem Only.applyLaneMap (h : Only pt z s) (p : Place) (f : Fld) (v : Nat) (hp : Allow pt [.links,
    .ofReg .ikl Reg.IKL_BADMASK_BAD, .ofReg .ikl Reg.IKL_LANEMAP_J0_BAD, .ofReg .ikl Reg.IKL_LANEMAP_J0_TGT,
    .ofReg .ikl Reg.IKL_LANEMAP_J1_BAD, .ofReg .ikl Reg.IKL_LANEMAP_J1_TGT, .ofReg .ikl Reg.IKL_LANEMAP_RETIRED,
    .ofReg .trayPort Reg.TRYP_LANEMAP_RETIRED, .ofReg .trayPort Reg.TRYP_LANEMAP_SPARE_BAD,
    .ofReg .trayPort Reg.TRYP_LANEMAP_SPARE_TGT]) : Only pt z (State.applyLaneMap s p f v) := by
  obtain ⟨q0, q1, q2, q3, q4, q5, q6, q7, q8, q9, -⟩ := hp
  unfold State.applyLaneMap
  repeat' first
    | (with_reducible first | assumption | exact Allow.nil | apply Allow.cons | apply Only.ite
                            | apply Only.setBun | apply Only.sbSend | apply Only.setRxMap)
    | refine Only.of_eq (by assumption) ?_ | split | dsimp only
    | (with_reducible apply Only.mk_same) <;> first | with_reducible exact .inr (by assumption) | with_reducible exact .inl rfl | exact .inl rfl | skip

theorem Only.newPtpDomain (h : Only pt z s)  (hg0 : Allow pt evtRegs) (hp : Allow pt [.dies, .ptp,
    .ofReg .bal Reg.BAL_STATUS_HOLDOVER, .ofReg .bal Reg.BAL_STATUS_TAI_VALID, .ofReg .ldg Reg.LDG_STATUS_HOLDOVER,
    .ofReg .ptp Reg.PTP_STATUS_SEL_PORT_VALID]) : Only pt z (State.newPtpDomain s) := by
  obtain ⟨q0, q1, q2, q3, q4, q5, -⟩ := hp
  unfold State.newPtpDomain
  repeat' first
    | (with_reducible first | assumption | exact Allow.nil | apply Allow.cons | apply Only.ite | apply Only.setF
                            | apply Only.setTaiFlags)
    | refine Only.of_eq (by assumption) ?_ | split | dsimp only
    | (with_reducible apply Only.mk_same) <;> first | with_reducible exact .inr (by assumption) | with_reducible exact .inl rfl | exact .inl rfl | skip

theorem Only.newBudget (h : Only pt z s) (d : Die) (inst : Nat) (v : Nat) (hp : Allow pt [.boot]) : Only pt z
    (State.newBudget s d inst v) := by
  obtain ⟨q0, -⟩ := hp
  unfold State.newBudget
  repeat' first
    | (with_reducible first | assumption | exact Allow.nil | apply Allow.cons | apply Only.ite)
    | refine Only.of_eq (by assumption) ?_ | split | dsimp only
    | (with_reducible apply Only.mk_same) <;> first | with_reducible exact .inr (by assumption) | with_reducible exact .inl rfl | exact .inl rfl | skip

theorem Only.applyMember (h : Only pt z s) (m : Nat × Nat) (hp : Allow pt [.dies, .links, .ptp, .ldg, .boot]) (hr :
    AnyReg pt) : Only pt z (State.applyMember s m) := by
  obtain ⟨q0, q1, q2, q3, q4, -⟩ := hp
  unfold State.applyMember
  repeat' first
    | (with_reducible first | assumption | exact Allow.nil | apply Only.ite | apply Only.applyLaneMap
                            | apply Only.setCr0Map | apply Only.putField | apply Only.newBudget
                            | apply Only.newPtpDomain | apply Only.showReserve)
    | exact hr _ | exact hr.group rfl | with_reducible apply Allow.cons | refine Only.of_eq (by assumption) ?_ | split | dsimp only
    | (with_reducible apply Only.mk_same) <;> first | with_reducible exact .inr (by assumption) | with_reducible exact .inl rfl | exact .inl rfl | skip

theorem Only.applyPart (h : Only pt z s) (p : Part) (hp : Allow pt [.shadow, .dies, .links, .tables, .ptp, .fus, .ldg,
    .boot, .tshadow]) (hr : AnyReg pt) : Only pt z (State.applyPart s p) := by
  obtain ⟨q0, q1, q2, q3, q4, q5, q6, q7, q8, -⟩ := hp
  unfold State.applyPart
  repeat' first
    | intro _
    | (with_reducible first | assumption | exact Allow.nil | apply Only.foldl | apply Only.ite
                            | apply Only.ldgSettle | apply Only.applyMember | apply Only.putRec)
    | exact hr _ | exact hr.group rfl | with_reducible apply Allow.cons | refine Only.of_eq (by assumption) ?_ | split | dsimp only
    | (with_reducible apply Only.mk_same) <;> first | with_reducible exact .inr (by assumption) | with_reducible exact .inl rfl | exact .inl rfl | skip

theorem Only.switchBank (h : Only pt z s) (d : Die) (hg0 : Allow pt evtRegs) (hg1 : Allow pt lastRegs) (hg2 : Allow pt
    histRegs) (hg3 : Allow pt switchRegs) (hp : Allow pt [.dies, .links, .rcv, .recov, .ofReg .gtr Reg.GTR_LOSS_LOST,
    .ofReg .gtr Reg.GTR_STATUS_ACTIVE_BANK, .ofReg .gtr Reg.GTR_STATUS_NOFIT, .ofReg .gtr Reg.GTR_STATUS_VARIANT,
    .ofReg .rcv Reg.RCV_STATUS_LEVEL, .ofReg .tray Reg.TRY_STATUS_TVARIANT]) : Only pt z (State.switchBank s d) := by
  obtain ⟨q0, q1, q2, q3, q4, q5, q6, q7, q8, q9, -⟩ := hp
  unfold State.switchBank
  repeat' first
    | (with_reducible first | assumption | exact Allow.nil | apply Allow.cons | apply Only.ite
                            | apply Only.joinLosses | apply Only.noteSched | apply Only.setF
                            | apply Only.logSwitch | apply Only.noFit)
    | refine Only.of_eq (by assumption) ?_ | split | dsimp only
    | (with_reducible apply Only.mk_same) <;> first | with_reducible exact .inr (by assumption) | with_reducible exact .inl rfl | exact .inl rfl | skip

theorem Only.partDue (h : Only pt z s) (d : Die) (hp : Allow pt [.shadow, .dies, .links, .tables, .rcv, .ptp, .fus,
    .ldg, .boot, .chg, .tshadow, .recov]) (hr : AnyReg pt) : Only pt z (State.partDue s d) := by
  obtain ⟨q0, q1, q2, q3, q4, q5, q6, q7, q8, q9, q10, q11, -⟩ := hp
  unfold State.partDue
  repeat' first
    | (with_reducible first | assumption | exact Allow.nil | apply Only.ite | apply Only.applyPart
                            | apply Only.setPart | apply Only.switchBank | apply Only.log | apply Only.setF
                            | apply Only.trigger)
    | exact hr _ | exact hr.group rfl | with_reducible apply Allow.cons | refine Only.of_eq (by assumption) ?_ | split | dsimp only
    | (with_reducible apply Only.mk_same) <;> first | with_reducible exact .inr (by assumption) | with_reducible exact .inl rfl | exact .inl rfl | skip

theorem Only.endSet (h : Only pt z s) (members : List (Nat × Nat)) (hp : Allow pt [.dies, .links, .hack, .ptp, .ldg,
    .boot, .chg]) (hr : AnyReg pt) : Only pt z (State.endSet s members) := by
  obtain ⟨q0, q1, q2, q3, q4, q5, q6, -⟩ := hp
  unfold State.endSet
  repeat' first
    | intro _
    | (with_reducible first | assumption | exact Allow.nil | apply Only.foldl | apply Only.ite | apply Only.setF
                            | apply Only.clearStage | apply Only.applyMember)
    | exact hr _ | exact hr.group rfl | with_reducible apply Allow.cons | refine Only.of_eq (by assumption) ?_ | split | dsimp only
    | (with_reducible apply Only.mk_same) <;> first | with_reducible exact .inr (by assumption) | with_reducible exact .inl rfl | exact .inl rfl | skip

theorem Only.dropBundles (h : Only pt z s)  (hp : Allow pt [.dies, .ofReg .gtr Reg.GTR_LOSS_LOST]) : Only pt z
    (State.dropBundles s) := by
  obtain ⟨q0, q1, -⟩ := hp
  unfold State.dropBundles
  repeat' first
    | intro _
    | (with_reducible first | assumption | exact Allow.nil | apply Allow.cons | apply Only.foldl
                            | apply Only.ite | apply Only.noteSched | apply Only.setLossSet | apply Only.setDie)
    | refine Only.of_eq (by assumption) ?_ | split | dsimp only
    | (with_reducible apply Only.mk_same) <;> first | with_reducible exact .inr (by assumption) | with_reducible exact .inl rfl | exact .inl rfl | skip

theorem Only.returnedCables (h : Only pt z s) (hp : Allow pt [.free]) : Only pt z s.returnedCables.2 := by
  unfold State.returnedCables
  refine .foldl_snd _ (fun a i ha => ?_) _ h
  split
  · exact .ite_snd ha ha
  · exact ha.draw 1 (by assumption)

theorem Only.dropCables (h : Only pt z s)  (hp : Allow pt [.free, .dies, .ofReg .tray Reg.TRY_TLOSS_LOST,
    .ofReg .trayPort Reg.TRYP_PORT_STATUS_TLOST]) : Only pt z (State.dropCables s) := by
  obtain ⟨q0, q1, q2, q3, -⟩ := hp
  unfold State.dropCables
  repeat' first
    | intro _
    | (with_reducible first | assumption | exact Allow.nil | apply Allow.cons | apply Only.foldl
                            | apply Only.ite | apply Only.returnedCables | apply Only.noteSched
                            | apply Only.setTrayLoss | apply Only.setDie)
    | refine Only.of_eq (by assumption) ?_ | split | dsimp only
    | (with_reducible apply Only.mk_same) <;> first | with_reducible exact .inr (by assumption) | with_reducible exact .inl rfl | exact .inl rfl | skip

theorem Only.dropReturned (h : Only pt z s) (tray : Bool) (hp : Allow pt [.free, .dies, .ofReg .gtr Reg.GTR_LOSS_LOST,
    .ofReg .tray Reg.TRY_TLOSS_LOST, .ofReg .trayPort Reg.TRYP_PORT_STATUS_TLOST]) : Only pt z (State.dropReturned s
    tray) := by
  obtain ⟨q0, q1, q2, q3, q4, -⟩ := hp
  unfold State.dropReturned
  repeat' first
    | (with_reducible first | assumption | exact Allow.nil | apply Allow.cons | apply Only.ite
                            | apply Only.dropBundles | apply Only.dropCables)
    | refine Only.of_eq (by assumption) ?_ | split | dsimp only

theorem Only.showHack (h : Only pt z s) (on : Bool) (hp : Allow pt [.ofReg .bal Reg.BAL_STATUS_HACK_ACTIVE]) : Only pt
    z (State.showHack s on) := by
  obtain ⟨q0, -⟩ := hp
  unfold State.showHack
  repeat' first
    | intro _
    | (with_reducible first | assumption | exact Allow.nil | apply Allow.cons | apply Only.foldl
                            | apply Only.ite | apply Only.setF)
    | refine Only.of_eq (by assumption) ?_ | split | dsimp only

theorem Only.newDepth (h : Only pt z s) (n : Fin 8) (hg0 : Allow pt evtRegs) (hg1 : Allow pt laneMapRegs) (hg2 : Allow
    pt laneMapTxRegs) (hg3 : Allow pt trainRegs) (hg4 : Allow pt attemptRegs) (hp : Allow pt [.dies, .links,
    .ofReg .gtr Reg.GTR_STATUS_LATE, .ofReg .ikl Reg.IKL_PIN_DEPTH_DEPTH0, .ofReg .ikl Reg.IKL_PIN_DEPTH_DEPTH1,
    .ofReg .ikl Reg.IKL_PIN_DEPTH_DEPTH2, .ofReg .ikl Reg.IKL_PIN_DEPTH_DEPTH3, .ofReg .ikl Reg.IKL_PIN_DEPTH_DEPTH4,
    .ofReg .ikl Reg.IKL_PIN_DEPTH_DEPTH5, .ofReg .ikl Reg.IKL_PIN_DEPTH_DEPTH6, .ofReg .ikl Reg.IKL_PIN_DEPTH_DEPTH7,
    .ofReg .trayPort Reg.TRYP_PIN_DEPTH_DEPTH0, .ofReg .trayPort Reg.TRYP_RETRY_LAST_RC]) : Only pt z (State.newDepth
    s n) := by
  obtain ⟨q0, q1, q2, q3, q4, q5, q6, q7, q8, q9, q10, q11, q12, -⟩ := hp
  unfold State.newDepth
  repeat' first
    | (with_reducible first | assumption | exact Allow.nil | apply Allow.cons | apply Only.ite
                            | apply Only.linkReturn | apply Only.setDepth)
    | refine Only.of_eq (by assumption) ?_ | split | dsimp only

theorem Only.armActivation (h : Only pt z s) (turn : Nat) (hp : Allow pt [.free, .links, .chg,
    .ofReg .cfg Reg.CFG_ARM_STATE, .ofReg .cfg Reg.CFG_ARM_STATUS_CLASS, .ofReg .cfg Reg.CFG_ARM_STATUS_CONFIRMED,
    .ofReg .cfg Reg.CFG_ARM_TRAY_PKG_NEEDED, .ofReg .cfg Reg.CFG_ARM_TRAY_PKG_OK, .ofReg .cfg Reg.CFG_SHADOW_FROZEN,
    .ofReg .fus Reg.FUS_STATUS_REASON, .ofReg .fus Reg.FUS_STATUS_REFUSED, .ofReg .gtr Reg.GTR_STATUS_REASON,
    .ofReg .gtr Reg.GTR_STATUS_REFUSED, .ofReg .ldg Reg.LDG_STATUS_REASON, .ofReg .ldg Reg.LDG_STATUS_REFUSED]) : Only
    pt z (State.armActivation s turn) := by
  obtain ⟨q0, q1, q2, q3, q4, q5, q6, q7, q8, q9, q10, q11, q12, q13, q14, -⟩ := hp
  unfold State.armActivation
  repeat' first
    | (with_reducible first | assumption | exact Allow.nil | apply Allow.cons | apply Only.ite | apply Only.draw
                            | apply Only.beginSet | apply Only.armTray)
    | refine Only.of_eq (by assumption) ?_ | split | dsimp only

theorem Only.imgReg (h : Only pt z s) (e : Nat × Nat) (hr : AnyReg pt) : Only pt z (State.imgReg s e) := by
  unfold State.imgReg
  repeat' first
    | intro _
    | (with_reducible first | assumption | exact Allow.nil | apply Only.foldl | apply Only.ite
                            | apply Only.setF)
    | exact hr _ | exact hr.group rfl | with_reducible apply Allow.cons | refine Only.of_eq (by assumption) ?_ | split | dsimp only
    | (with_reducible apply Only.mk_same) <;> first | with_reducible exact .inr (by assumption) | with_reducible exact .inl rfl | exact .inl rfl | skip

theorem Only.putImage (h : Only pt z s) (i : Image) (hp : Allow pt [.tables, .routes, .reserve, .fus, .boot]) (hr :
    AnyReg pt) : Only pt z (State.putImage s i) := by
  obtain ⟨q0, q1, q2, q3, q4, -⟩ := hp
  unfold State.putImage
  repeat' first
    | intro _
    | (with_reducible first | assumption | exact Allow.nil | apply Only.foldl | apply Only.ite
                            | apply Only.putRec | apply Only.imgReg | apply Only.setF)
    | exact hr _ | exact hr.group rfl | with_reducible apply Allow.cons | refine Only.of_eq (by assumption) ?_ | split | dsimp only
    | (with_reducible apply Only.mk_same) <;> first | with_reducible exact .inr (by assumption) | with_reducible exact .inl rfl | exact .inl rfl | skip

theorem Only.joinCleared (h : Only pt z s)  (hp : Allow pt [.ofReg .gtr Reg.GTR_LOSS_LOST]) : Only pt z
    (State.joinCleared s) := by
  obtain ⟨q0, -⟩ := hp
  unfold State.joinCleared
  repeat' first
    | intro _
    | (with_reducible first | assumption | exact Allow.nil | apply Allow.cons | apply Only.foldl
                            | apply Only.ite | apply Only.setLossSet)
    | refine Only.of_eq (by assumption) ?_ | split | dsimp only

theorem State.imageFns_fst {x : Fn × Die} (h : x ∈ s.imageFns) : x.1 = .gtr ∨ x.1 = .eng ∨ x.1 = .seq ∨ x.1 = .syn ∨
    x.1 = .dma := by
  unfold State.imageFns at h
  rcases List.mem_append.1 h with h | h
  · obtain ⟨d, -, rfl⟩ := List.mem_map.1 h
    exact .inl rfl
  · obtain ⟨fn, hf, h⟩ := List.mem_flatMap.1 h
    obtain ⟨d, -, rfl⟩ := List.mem_map.1 h
    right
    simpa using hf

theorem Only.clearImageFns (h : Only pt z s) (hg0 : Allow pt evtRegs) (hg1 : Allow pt laneMapRegs) (hg2 : Allow pt
    laneMapTxRegs) (hg3 : Allow pt trainRegs) (hg4 : Allow pt ethLinkRegs) (hp : Allow pt [.inForce, .links, .fpLines,
    .ldg, .ofReg .bal Reg.BAL_REF_HOPS, .ofReg .bal Reg.BAL_STATUS_IS_MASTER, .ofReg .dma Reg.DMA_CTL_ENABLE,
    .ofReg .eng Reg.ENG_CTL_ENABLE, .ofReg .gtr Reg.GTR_CTL_ENABLE, .ofReg .ldg Reg.LDG_STATUS_HOLDOVER,
    .ofReg .ldg Reg.LDG_STATUS_STATE, .ofReg .seq Reg.SEQ_CTL_ENABLE, .ofReg .syn Reg.SYN_CTL_ENABLE]) : Only pt z
    s.clearImageFns := by
  obtain ⟨g00, g01, g02, -⟩ := id hg0
  obtain ⟨g10, g11, g12, g13, g14, g15, g16, g17, g18, g19, -⟩ := id hg1
  obtain ⟨g20, g21, g22, g23, g24, g25, g26, g27, -⟩ := id hg2
  obtain ⟨g30, g31, g32, g33, -⟩ := id hg3
  obtain ⟨g40, g41, g42, -⟩ := id hg4
  obtain ⟨q0, q1, q2, q3, q4, q5, q6, q7, q8, q9, q10, q11, q12, -⟩ := hp
  refine .foldl_mem _ (fun u x hx hu => ?_) h
  rcases State.imageFns_fst hx with e | e | e | e | e <;> rw [e] <;> apply Only.clearFn <;> (repeat' first | with_reducible assumption | with_reducible exact Allow.nil | with_reducible apply Allow.cons | (show pt (Field.ofReg _ _) = true; assumption))

theorem Only.clearFaults (h : Only pt z s)  (hp : Allow pt [.dies, .recov, .ofReg .rcv Reg.RCV_CULPRIT,
    .ofReg .rcv Reg.RCV_FAULTED, .ofReg .rcv Reg.RCV_HELD]) : Only pt z (State.clearFaults s) := by
  obtain ⟨q0, q1, q2, q3, q4, -⟩ := hp
  unfold State.clearFaults
  repeat' first
    | intro _
    | (with_reducible first | assumption | exact Allow.nil | apply Allow.cons | apply Only.foldl
                            | apply Only.ite | apply Only.setF | apply Only.setDie)
    | refine Only.of_eq (by assumption) ?_ | split | dsimp only
    | (with_reducible apply Only.mk_same) <;> first | with_reducible exact .inr (by assumption) | with_reducible exact .inl rfl | exact .inl rfl | skip

theorem Only.unbindAll (h : Only pt z s)  (hp : Allow pt [.ctxs, .engs, .queues, .streams,
    .ofReg .eng Reg.ENG_CTX_STATE_ENGMASK, .ofReg .eng Reg.ENG_CTX_STATE_KIND, .ofReg .eng Reg.ENG_CTX_STATE_STATE]) :
    Only pt z s.unbindAll := by
  obtain ⟨q0, q1, q2, q3, q4, q5, q6, -⟩ := hp
  unfold State.unbindAll
  generalize List.range 32 = l
  repeat' first
    | intro _
    | (with_reducible first | assumption | exact Allow.nil | apply Allow.cons | apply Only.foldl
                            | apply Only.ite | apply Only.setCtxState | apply Only.setF)
    | (with_reducible apply Only.mk_same) <;> first | with_reducible exact .inr (by assumption) | with_reducible exact .inl rfl | exact .inl rfl | skip

theorem Only.bindCtx (h : Only pt z s) (old : State) (c : ImgCtx) (m : Mv) (hp : Allow pt [.ctxs, .streams,
    .ofReg .eng Reg.ENG_CTX_STATE_ENGMASK, .ofReg .eng Reg.ENG_CTX_STATE_KIND, .ofReg .eng Reg.ENG_CTX_STATE_STATE]) :
    Only pt z (State.bindCtx old s c m) := by
  obtain ⟨q0, q1, q2, q3, q4, -⟩ := hp
  unfold State.bindCtx
  repeat' first
    | intro _
    | (with_reducible first | assumption | exact Allow.nil | apply Allow.cons | apply Only.foldl
                            | apply Only.ite | apply Only.setCtxState | apply Only.setF | apply Only.setCtx
                            | apply Only.setStream)
    | refine Only.of_eq (by assumption) ?_ | split | dsimp only

theorem Only.bindAll (h : Only pt z s) (i : Image) (hp : Allow pt [.ctxs, .engs, .queues, .streams,
    .ofReg .eng Reg.ENG_CTX_STATE_ENGMASK, .ofReg .eng Reg.ENG_CTX_STATE_KIND, .ofReg .eng Reg.ENG_CTX_STATE_STATE,
    .ofReg .syn Reg.SYN_BAR_MEMBERS]) : Only pt z (State.bindAll s i) := by
  obtain ⟨q0, q1, q2, q3, q4, q5, q6, q7, -⟩ := hp
  unfold State.bindAll
  repeat' first
    | intro _
    | (with_reducible first | assumption | exact Allow.nil | apply Allow.cons | apply Only.foldl
                            | apply Only.ite | apply Only.unbindAll | apply Only.bindCtx | apply Only.setF)
    | refine Only.of_eq (by assumption) ?_ | split | dsimp only

theorem Only.clearStreams (h : Only pt z s)  (hp : Allow pt [.hosts]) : Only pt z (State.clearStreams s) := by
  obtain ⟨q0, -⟩ := hp
  unfold State.clearStreams
  repeat' first
    | intro _
    | (with_reducible first | assumption | exact Allow.nil | apply Allow.cons | apply Only.foldl
                            | apply Only.ite | apply Only.setHost)
    | refine Only.of_eq (by assumption) ?_ | split | dsimp only
    | (with_reducible apply Only.mk_same) <;> first | with_reducible exact .inr (by assumption) | with_reducible exact .inl rfl | exact .inl rfl | skip

theorem Only.endChip (h : Only pt z s)  (hp : Allow pt [.rcv, .ofReg .rcv Reg.RCV_STATUS_LEVEL]) : Only pt z
    (State.endChip s) := by
  obtain ⟨q0, q1, -⟩ := hp
  unfold State.endChip
  repeat' first
    | (with_reducible first | assumption | exact Allow.nil | apply Allow.cons | apply Only.ite
                            | apply Only.setDom | apply Only.showLevel)
    | refine Only.of_eq (by assumption) ?_ | split | dsimp only

theorem Only.loadFails (h : Only pt z s) (check : Nat) (rc : Nat) (hg0 : Allow pt evtRegs) (hp : Allow pt [.dies,
    .rcv, .boot, .ofReg .boot Reg.BOOT_IMG_STATUS_FAILED_CHECK, .ofReg .boot Reg.BOOT_IMG_STATUS_IMG_RC,
    .ofReg .boot Reg.BOOT_STATUS_PHASE, .ofReg .rcv Reg.RCV_STATUS_LEVEL]) : Only pt z (State.loadFails s check rc) :=
    by
  obtain ⟨q0, q1, q2, q3, q4, q5, q6, -⟩ := hp
  unfold State.loadFails
  repeat' first
    | (with_reducible first | assumption | exact Allow.nil | apply Allow.cons | apply Only.ite | apply Only.setF
                            | apply Only.logFault | apply Only.setPhase | apply Only.endChip)
    | refine Only.of_eq (by assumption) ?_ | split | dsimp only
    | (with_reducible apply Only.mk_same) <;> first | with_reducible exact .inr (by assumption) | with_reducible exact .inl rfl | exact .inl rfl | skip

theorem Only.setAct (h : Only pt z s) (turn : Nat) (hp : Allow pt [.boot, .ofReg .boot Reg.BOOT_ACT_TURN_HI_TURN,
    .ofReg .boot Reg.BOOT_ACT_TURN_LO_TURN]) : Only pt z (State.setAct s turn) := by
  obtain ⟨q0, q1, q2, -⟩ := hp
  unfold State.setAct
  repeat' first
    | (with_reducible first | assumption | exact Allow.nil | apply Allow.cons | apply Only.ite
                            | apply Only.set64)
    | refine Only.of_eq (by assumption) ?_ | split | dsimp only
    | (with_reducible apply Only.mk_same) <;> first | with_reducible exact .inr (by assumption) | with_reducible exact .inl rfl | exact .inl rfl | skip

theorem Only.takeLoadReport (h : Only pt z s) (pkg : Nat) (hash : Nat) (hp : Allow pt [.free, .links, .boot, .chg,
    .ofReg .cfg Reg.CFG_ARM_STATE, .ofReg .cfg Reg.CFG_ARM_STATUS_CLASS, .ofReg .cfg Reg.CFG_ARM_STATUS_CONFIRMED,
    .ofReg .cfg Reg.CFG_ARM_TRAY_PKG_NEEDED, .ofReg .cfg Reg.CFG_ARM_TRAY_PKG_OK, .ofReg .cfg Reg.CFG_SHADOW_FROZEN,
    .ofReg .fus Reg.FUS_STATUS_REASON, .ofReg .fus Reg.FUS_STATUS_REFUSED, .ofReg .gtr Reg.GTR_STATUS_REASON,
    .ofReg .gtr Reg.GTR_STATUS_REFUSED, .ofReg .ldg Reg.LDG_STATUS_REASON, .ofReg .ldg Reg.LDG_STATUS_REFUSED]) : Only
    pt z (State.takeLoadReport s pkg hash) := by
  obtain ⟨q0, q1, q2, q3, q4, q5, q6, q7, q8, q9, q10, q11, q12, q13, q14, q15, -⟩ := hp
  unfold State.takeLoadReport
  repeat' first
    | (with_reducible first | assumption | exact Allow.nil | apply Allow.cons | apply Only.ite
                            | apply Only.armActivation)
    | refine Only.of_eq (by assumption) ?_ | split | dsimp only
    | (with_reducible apply Only.mk_same) <;> first | with_reducible exact .inr (by assumption) | with_reducible exact .inl rfl | exact .inl rfl | skip

theorem Only.holdSuspects (h : Only pt z s)  (hp : Allow pt [.dies, .rcv, .recov, .ofReg .eng Reg.ENG_CTX_STATE_STATE,
    .ofReg .rcv Reg.RCV_HELD]) : Only pt z (State.holdSuspects s) := by
  obtain ⟨q0, q1, q2, q3, q4, -⟩ := hp
  unfold State.holdSuspects
  repeat' first
    | intro _
    | (with_reducible first | assumption | exact Allow.nil | apply Allow.cons | apply Only.foldl
                            | apply Only.ite | apply Only.setCtxState | apply Only.markFaulted | apply Only.setF
                            | apply Only.setDom)
    | refine Only.of_eq (by assumption) ?_ | split | dsimp only
    | (with_reducible apply Only.mk_same) <;> first | with_reducible exact .inr (by assumption) | with_reducible exact .inl rfl | exact .inl rfl | skip

theorem Only.loadImage (h : Only pt z s) (i : Image) (ldgOk : Bool) (hp : Allow pt [.free, .dies, .links, .tables,
    .ctxs, .fpLines, .pins, .routes, .reserve, .rcv, .engs, .queues, .streams, .hosts, .fus, .ldg, .fram, .boot, .chg,
    .recov]) (hr : AnyReg pt) : Only pt z (s.loadImage i ldgOk) := by
  obtain ⟨q0, q1, q2, q3, q4, q5, q6, q7, q8, q9, q10, q11, q12, q13, q14, q15, q16, q17, q18, q19, -⟩ := hp
  have en : ∀ (t : State) (c : Crown), Only pt z t → Only pt z (t.recEnable .fus (.cr c) 0) := fun t c ht => by
    apply Only.recEnable <;> (repeat' first | with_reducible assumption | with_reducible exact Allow.nil | with_reducible apply Allow.cons | (show pt (Field.ofReg _ _) = true; assumption) | exact hr _ | exact hr.group rfl)
  unfold State.loadImage
  obtain ⟨_, obj⟩ := s.imgObject
  dsimp -zeta only
  extract_lets s1 s2 hash u bt s3 s4 s5 b5 s6 s7
  clear_value bt b5 hash
  have h1 : Only pt z s1 := by
    apply Only.showReserve
    · apply Only.joinCleared
      · apply Only.dropBundles
        · apply Only.clearStreams
          · apply Only.clearFaults
            · apply Only.bindAll
              · apply Only.putImage <;> (repeat' first | with_reducible assumption | with_reducible exact Allow.nil | with_reducible apply Allow.cons | (show pt (Field.ofReg _ _) = true; assumption) | exact hr _ | exact hr.group rfl)
              all_goals (repeat' first | with_reducible assumption | with_reducible exact Allow.nil | with_reducible apply Allow.cons | (show pt (Field.ofReg _ _) = true; assumption) | exact hr _ | exact hr.group rfl)
            all_goals (repeat' first | with_reducible assumption | with_reducible exact Allow.nil | with_reducible apply Allow.cons | (show pt (Field.ofReg _ _) = true; assumption) | exact hr _ | exact hr.group rfl)
          all_goals (repeat' first | with_reducible assumption | with_reducible exact Allow.nil | with_reducible apply Allow.cons | (show pt (Field.ofReg _ _) = true; assumption) | exact hr _ | exact hr.group rfl)
        all_goals (repeat' first | with_reducible assumption | with_reducible exact Allow.nil | with_reducible apply Allow.cons | (show pt (Field.ofReg _ _) = true; assumption) | exact hr _ | exact hr.group rfl)
      all_goals (repeat' first | with_reducible assumption | with_reducible exact Allow.nil | with_reducible apply Allow.cons | (show pt (Field.ofReg _ _) = true; assumption) | exact hr _ | exact hr.group rfl)
    all_goals (repeat' first | with_reducible assumption | with_reducible exact Allow.nil | with_reducible apply Allow.cons | (show pt (Field.ofReg _ _) = true; assumption) | exact hr _ | exact hr.group rfl)
  clear_value s1
  have h2 : Only pt z s2 := Only.setF (Only.setF (Only.setF h1 _ _ _ _ _ _ (by (repeat' first | with_reducible assumption | with_reducible exact Allow.nil | with_reducible apply Allow.cons | (show pt (Field.ofReg _ _) = true; assumption) | exact hr _ | exact hr.group rfl))) _ _ _ _ _ _ (by (repeat' first | with_reducible assumption | with_reducible exact Allow.nil | with_reducible apply Allow.cons | (show pt (Field.ofReg _ _) = true; assumption) | exact hr _ | exact hr.group rfl))) _ _ _ _ _ _ (by (repeat' first | with_reducible assumption | with_reducible exact Allow.nil | with_reducible apply Allow.cons | (show pt (Field.ofReg _ _) = true; assumption) | exact hr _ | exact hr.group rfl))
  clear_value s2
  have h3 : Only pt z s3 := by
    have g : Only pt z u := by
      apply Only.endStep
      · apply Only.noteVersion <;> (repeat' first | with_reducible assumption | with_reducible exact Allow.nil | with_reducible apply Allow.cons | (show pt (Field.ofReg _ _) = true; assumption) | exact hr _ | exact hr.group rfl)
      all_goals (repeat' first | with_reducible assumption | with_reducible exact Allow.nil | with_reducible apply Allow.cons | (show pt (Field.ofReg _ _) = true; assumption) | exact hr _ | exact hr.group rfl)
    clear_value u
    (with_reducible apply Only.mk_same) <;> first | with_reducible exact .inr (by assumption) | with_reducible exact .inl rfl | with_reducible assumption
  clear_value s3
  have h4 : Only pt z s4 := by
    apply Only.recEnable
    · exact .foldl _ (fun u c hu => en u c hu) h3
    all_goals (repeat' first | with_reducible assumption | with_reducible exact Allow.nil | with_reducible apply Allow.cons | (show pt (Field.ofReg _ _) = true; assumption) | exact hr _ | exact hr.group rfl)
  clear_value s4
  have h5 : Only pt z s5 := by
    apply Only.holdSuspects
    · apply Only.endStep <;> (repeat' first | with_reducible assumption | with_reducible exact Allow.nil | with_reducible apply Allow.cons | (show pt (Field.ofReg _ _) = true; assumption) | exact hr _ | exact hr.group rfl)
    all_goals (repeat' first | with_reducible assumption | with_reducible exact Allow.nil | with_reducible apply Allow.cons | (show pt (Field.ofReg _ _) = true; assumption) | exact hr _ | exact hr.group rfl)
  clear_value s5
  have h6 : Only pt z s6 := by
    (with_reducible apply Only.mk_same) <;> first | with_reducible exact .inr (by assumption) | with_reducible exact .inl rfl | with_reducible assumption
  clear_value s6
  have h7 : Only pt z s7 := .ite (by apply Only.tellMaster <;> (repeat' first | with_reducible assumption | with_reducible exact Allow.nil | with_reducible apply Allow.cons | (show pt (Field.ofReg _ _) = true; assumption) | exact hr _ | exact hr.group rfl)) h6
  clear_value s7
  refine .ite (by apply Only.setAct <;> (repeat' first | with_reducible assumption | with_reducible exact Allow.nil | with_reducible apply Allow.cons | (show pt (Field.ofReg _ _) = true; assumption) | exact hr _ | exact hr.group rfl)) (.ite h7 ?_)
  apply Only.takeLoadReport <;> (repeat' first | with_reducible assumption | with_reducible exact Allow.nil | with_reducible apply Allow.cons | (show pt (Field.ofReg _ _) = true; assumption) | exact hr _ | exact hr.group rfl)

theorem Only.startContexts (h : Only pt z s)  (hp : Allow pt [.ofReg .eng Reg.ENG_CTX_STATE_STATE]) : Only pt z
    (State.startContexts s) := by
  obtain ⟨q0, -⟩ := hp
  unfold State.startContexts
  repeat' first
    | intro _
    | (with_reducible first | assumption | exact Allow.nil | apply Allow.cons | apply Only.foldl
                            | apply Only.ite | apply Only.setCtxState)
    | refine Only.of_eq (by assumption) ?_ | split | dsimp only

theorem Only.freeSc (h : Only pt z s)  (hp : Allow pt [.links]) : Only pt z (State.freeSc s) := by
  obtain ⟨q0, -⟩ := hp
  unfold State.freeSc
  repeat' first
    | intro _
    | (with_reducible first | assumption | exact Allow.nil | apply Allow.cons | apply Only.foldl
                            | apply Only.ite | apply Only.setLink)
    | refine Only.of_eq (by assumption) ?_ | split | dsimp only
    | (with_reducible apply Only.mk_same) <;> first | with_reducible exact .inr (by assumption) | with_reducible exact .inl rfl | exact .inl rfl | skip

theorem Only.unloadWrite (h : Only pt z s)  (hg0 : Allow pt evtRegs) (hg1 : Allow pt refusalRegs) (hp : Allow pt
    [.dies, .boot, .ofReg .boot Reg.BOOT_STATUS_REASON, .ofReg .boot Reg.BOOT_STATUS_REFUSED]) : Only pt z
    (State.unloadWrite s) := by
  obtain ⟨q0, q1, q2, q3, -⟩ := hp
  unfold State.unloadWrite
  repeat' first
    | (with_reducible first | assumption | exact Allow.nil | apply Allow.cons | apply Only.ite
                            | apply Only.refuse)
    | (show pt (Field.ofReg _ _) = true; assumption) | refine Only.of_eq (by assumption) ?_ | split | dsimp only
    | (with_reducible apply Only.mk_same) <;> first | with_reducible exact .inr (by assumption) | with_reducible exact .inl rfl | exact .inl rfl | skip

theorem Only.dropImage (h : Only pt z s)  (hg0 : Allow pt evtRegs) (hg1 : Allow pt laneMapRegs) (hg2 : Allow pt
    laneMapTxRegs) (hg3 : Allow pt trainRegs) (hg4 : Allow pt ethLinkRegs) (hp : Allow pt [.inForce, .dies, .links,
    .ctxs, .fpLines, .routes, .reserve, .engs, .queues, .streams, .ldg, .boot, .recov,
    .ofReg .bal Reg.BAL_HACK_HACK_MAX, .ofReg .bal Reg.BAL_HACK_WIN_START, .ofReg .bal Reg.BAL_REF_HOPS,
    .ofReg .bal Reg.BAL_STATUS_IS_MASTER, .ofReg .dma Reg.DMA_CTL_ENABLE, .ofReg .eng Reg.ENG_CTL_ENABLE,
    .ofReg .eng Reg.ENG_CTX_STATE_ENGMASK, .ofReg .eng Reg.ENG_CTX_STATE_KIND, .ofReg .eng Reg.ENG_CTX_STATE_STATE,
    .ofReg .gtr Reg.GTR_CTL_ENABLE, .ofReg .ldg Reg.LDG_STATUS_HOLDOVER, .ofReg .ldg Reg.LDG_STATUS_STATE,
    .ofReg .pwr Reg.PWR_RESERVE, .ofReg .pwr Reg.PWR_RESERVE_FLOORS, .ofReg .rcv Reg.RCV_CULPRIT,
    .ofReg .rcv Reg.RCV_FAULTED, .ofReg .rcv Reg.RCV_HELD, .ofReg .seq Reg.SEQ_CTL_ENABLE,
    .ofReg .syn Reg.SYN_CTL_ENABLE]) : Only pt z s.dropImage := by
  obtain ⟨q0, q1, q2, q3, q4, q5, q6, q7, q8, q9, q10, q11, q12, q13, q14, q15, q16, q17, q18, q19, q20, q21, q22, q23, q24, q25, q26, q27, q28, q29, q30, q31, -⟩ := hp
  unfold State.dropImage
  repeat' first
    | (with_reducible first | assumption | exact Allow.nil | apply Allow.cons | apply Only.ite
                            | apply Only.clearImageFns | apply Only.unbindAll | apply Only.clearFaults
                            | apply Only.setF | apply Only.showReserve)
    | (with_reducible apply Only.mk_same) <;> first | with_reducible exact .inr (by assumption) | with_reducible exact .inl rfl | exact .inl rfl | skip

theorem Only.loadWrite (h : Only pt z s)  (hg0 : Allow pt evtRegs) (hg1 : Allow pt refusalRegs) (hp : Allow pt [.dies,
    .boot, .ofReg .boot Reg.BOOT_STATUS_PHASE, .ofReg .boot Reg.BOOT_STATUS_REASON,
    .ofReg .boot Reg.BOOT_STATUS_REFUSED]) : Only pt z (State.loadWrite s) := by
  obtain ⟨q0, q1, q2, q3, q4, -⟩ := hp
  unfold State.loadWrite
  repeat' first
    | (with_reducible first | assumption | exact Allow.nil | apply Allow.cons | apply Only.ite
                            | apply Only.refuse | apply Only.setPhase)
    | (show pt (Field.ofReg _ _) = true; assumption) | refine Only.of_eq (by assumption) ?_ | split | dsimp only
    | (with_reducible apply Only.mk_same) <;> first | with_reducible exact .inr (by assumption) | with_reducible exact .inl rfl | exact .inl rfl | skip

theorem Only.retrainAll (h : Only pt z s)  (hg0 : Allow pt evtRegs) (hg1 : Allow pt laneMapRegs) (hg2 : Allow pt
    laneMapTxRegs) (hg3 : Allow pt trainRegs) (hg4 : Allow pt attemptRegs) (hp : Allow pt [.dies, .links, .fpLines,
    .ofReg .gtr Reg.GTR_STATUS_LATE, .ofReg .trayPort Reg.TRYP_RETRY_LAST_RC]) : Only pt z (State.retrainAll s) := by
  obtain ⟨q0, q1, q2, q3, q4, -⟩ := hp
  unfold State.retrainAll
  repeat' first
    | intro _
    | (with_reducible first | assumption | exact Allow.nil | apply Allow.cons | apply Only.foldl
                            | apply Only.ite | apply Only.linkReturn)
    | refine Only.of_eq (by assumption) ?_ | split | dsimp only
    | (with_reducible apply Only.mk_same) <;> first | with_reducible exact .inr (by assumption) | with_reducible exact .inl rfl | exact .inl rfl | skip

theorem Only.clearBeatValid (h : Only pt z s)  (hp : Allow pt [.ofReg .bal Reg.BAL_STATUS_BEAT_VALID]) : Only pt z
    (State.clearBeatValid s) := by
  obtain ⟨q0, -⟩ := hp
  unfold State.clearBeatValid
  repeat' first
    | intro _
    | (with_reducible first | assumption | exact Allow.nil | apply Allow.cons | apply Only.foldl
                            | apply Only.ite | apply Only.setF)
    | refine Only.of_eq (by assumption) ?_ | split | dsimp only

theorem Only.keepChkpts (h : Only pt z s) (old : State) (hp : Allow pt [.ctxs, .streams]) : Only pt z
    (State.keepChkpts s old) := by
  obtain ⟨q0, q1, -⟩ := hp
  unfold State.keepChkpts
  repeat' first
    | (with_reducible first | assumption | exact Allow.nil | apply Allow.cons | apply Only.ite)
    | refine Only.of_eq (by assumption) ?_ | split | dsimp only
    | (with_reducible apply Only.mk_same) <;> first | with_reducible exact .inr (by assumption) | with_reducible exact .inl rfl | exact .inl rfl | skip

theorem Only.chipReset (h : Only pt z s) (cause : Nat) (hg0 : Allow pt evtRegs) (hg1 : Allow pt laneMapRegs) (hg2 :
    Allow pt laneMapTxRegs) (hg3 : Allow pt trainRegs) (hg4 : Allow pt ethLinkRegs) (hg5 : Allow pt attemptRegs) (hp :
    Allow pt [.inForce, .dies, .links, .ctxs, .fpLines, .engs, .queues, .streams, .ldg, .recov,
    .ofReg .bal Reg.BAL_REF_HOPS, .ofReg .bal Reg.BAL_STATUS_BEAT_VALID, .ofReg .bal Reg.BAL_STATUS_IS_MASTER,
    .ofReg .dma Reg.DMA_CTL_ENABLE, .ofReg .eng Reg.ENG_CTL_ENABLE, .ofReg .eng Reg.ENG_CTX_STATE_ENGMASK,
    .ofReg .eng Reg.ENG_CTX_STATE_KIND, .ofReg .eng Reg.ENG_CTX_STATE_STATE, .ofReg .gtr Reg.GTR_CTL_ENABLE,
    .ofReg .gtr Reg.GTR_STATUS_LATE, .ofReg .ldg Reg.LDG_STATUS_HOLDOVER, .ofReg .ldg Reg.LDG_STATUS_STATE,
    .ofReg .rcv Reg.RCV_CULPRIT, .ofReg .rcv Reg.RCV_FAULTED, .ofReg .rcv Reg.RCV_HELD,
    .ofReg .seq Reg.SEQ_CTL_ENABLE, .ofReg .syn Reg.SYN_CTL_ENABLE, .ofReg .trayPort Reg.TRYP_RETRY_LAST_RC]) : Only
    pt z (State.chipReset s cause) := by
  obtain ⟨q0, q1, q2, q3, q4, q5, q6, q7, q8, q9, q10, q11, q12, q13, q14, q15, q16, q17, q18, q19, q20, q21, q22, q23, q24, q25, q26, q27, -⟩ := hp
  unfold State.chipReset
  repeat' first
    | (with_reducible first | assumption | exact Allow.nil | apply Allow.cons | apply Only.ite
                            | apply Only.clearImageFns | apply Only.unbindAll | apply Only.keepChkpts
                            | apply Only.clearFaults | apply Only.retrainAll | apply Only.clearBeatValid)
    | refine Only.of_eq (by assumption) ?_ | split | dsimp only
    | (with_reducible apply Only.mk_same) <;> first | with_reducible exact .inr (by assumption) | with_reducible exact .inl rfl | exact .inl rfl | skip

theorem Only.outOfServiceNow (h : Only pt z s)  (hp : Allow pt [.resv, .shadow, .inForce, .dies, .links, .tables,
    .mem, .poison, .ctxs, .fpLines, .pins, .routes, .reserve, .rcv, .engs, .queues, .streams, .issued, .accepted,
    .failed, .seenIssued, .seenFailed, .nextTag, .fences, .rdReqs, .hosts, .ptp, .fus, .ldg, .boot, .tshadow, .landed,
    .recov]) (hr : AnyReg pt) : Only pt z (State.outOfServiceNow s) := by
  obtain ⟨q0, q1, q2, q3, q4, q5, q6, q7, q8, q9, q10, q11, q12, q13, q14, q15, q16, q17, q18, q19, q20, q21, q22, q23, q24, q25, q26, q27, q28, q29, q30, q31, q32, -⟩ := hp
  unfold State.outOfServiceNow
  repeat' first
    | intro _
    | (with_reducible first | assumption | exact Allow.nil | apply Only.foldl | apply Only.ite
                            | apply Only.dropImage | apply Only.stopAllSc | apply Only.domainOff
                            | apply Only.showLedgerOnly | apply Only.clearFn | apply Only.setPhase
                            | apply Only.log | apply Only.setF | apply Only.endChip)
    | exact hr _ | exact hr.group rfl | with_reducible apply Allow.cons | (show pt (Field.ofReg _ _) = true; assumption) | refine Only.of_eq (by assumption) ?_ | split | dsimp only
    | (with_reducible apply Only.mk_same) <;> first | with_reducible exact .inr (by assumption) | with_reducible exact .inl rfl | exact .inl rfl | skip

theorem Only.oosClear (h : Only pt z s)  (hg0 : Allow pt evtRegs) (hg1 : Allow pt refusalRegs) (hg2 : Allow pt
    laneMapRegs) (hg3 : Allow pt laneMapTxRegs) (hg4 : Allow pt trainRegs) (hg5 : Allow pt lastRegs) (hg6 : Allow pt
    histRegs) (hg7 : Allow pt unitBusyRegs) (hg8 : Allow pt ethLinkRegs) (hg9 : Allow pt attemptRegs) (hg10 : Allow pt
    switchRegs) (hp : Allow pt [.free, .inForce, .dies, .links, .tables, .poison, .ctxs, .fpLines, .pins, .rcv, .engs,
    .queues, .streams, .rdReqs, .hosts, .ldg, .fram, .boot, .chg, .recov, .ofReg .bal Reg.BAL_REF_HOPS,
    .ofReg .bal Reg.BAL_STATUS_BEAT_VALID, .ofReg .bal Reg.BAL_STATUS_IS_MASTER, .ofReg .boot Reg.BOOT_STATUS_PHASE,
    .ofReg .dma Reg.DMA_CTL_ENABLE, .ofReg .dma Reg.DMA_M_POS, .ofReg .eng Reg.ENG_CTL_ENABLE,
    .ofReg .eng Reg.ENG_CTX_STATE_ENGMASK, .ofReg .eng Reg.ENG_CTX_STATE_KIND, .ofReg .eng Reg.ENG_CTX_STATE_STATE,
    .ofReg .eng Reg.ENG_E_BUSY, .ofReg .fus Reg.FUS_BUF_USED, .ofReg .gtr Reg.GTR_CTL_ENABLE,
    .ofReg .gtr Reg.GTR_STATUS_LATE, .ofReg .gtr Reg.GTR_STATUS_NOFIT, .ofReg .gtr Reg.GTR_STATUS_VARIANT,
    .ofReg .ldg Reg.LDG_SEQ, .ofReg .ldg Reg.LDG_STATUS_HOLDOVER, .ofReg .ldg Reg.LDG_STATUS_STATE,
    .ofReg .ldg Reg.LDG_STATUS_TORN, .ofReg .mem Reg.MEM_POISON_MADE, .ofReg .mem Reg.MEM_STATUS_MODE_EFF,
    .ofReg .ptp Reg.PTP_UTC_IN_USE, .ofReg .pwr Reg.PWR_RESERVE, .ofReg .pwr Reg.PWR_RESERVE_FLOORS,
    .ofReg .rcv Reg.RCV_CULPRIT, .ofReg .rcv Reg.RCV_FAULTED, .ofReg .rcv Reg.RCV_HELD,
    .ofReg .rcv Reg.RCV_STATUS_LEVEL, .ofReg .rcv Reg.RCV_STATUS_OOS, .ofReg .seq Reg.SEQ_CTL_ENABLE,
    .ofReg .seq Reg.SEQ_Q_POS, .ofReg .syn Reg.SYN_BAR_ARRIVED, .ofReg .syn Reg.SYN_BAR_GEN,
    .ofReg .syn Reg.SYN_CTL_ENABLE, .ofReg .syn Reg.SYN_CTR_VALUE, .ofReg .tray Reg.TRY_STATUS_TVARIANT,
    .ofReg .tray Reg.TRY_STATUS_WIN_DONE, .ofReg .trayPort Reg.TRYP_PORT_CTL_ENABLE,
    .ofReg .trayPort Reg.TRYP_PORT_STATUS_REASON, .ofReg .trayPort Reg.TRYP_PORT_STATUS_REFUSED,
    .ofReg .trayPort Reg.TRYP_RETRY_LAST_RC]) : Only pt z (State.oosClear s) := by
  obtain ⟨q0, q1, q2, q3, q4, q5, q6, q7, q8, q9, q10, q11, q12, q13, q14, q15, q16, q17, q18, q19, q20, q21, q22, q23, q24, q25, q26, q27, q28, q29, q30, q31, q32, q33, q34, q35, q36, q37, q38, q39, q40, q41, q42, q43, q44, q45, q46, q47, q48, q49, q50, q51, q52, q53, q54, q55, q56, q57, q58, q59, q60, q61, -⟩ := hp
  unfold State.oosClear
  repeat' first
    | intro _
    | (with_reducible first | assumption | exact Allow.nil | apply Allow.cons | apply Only.foldl
                            | apply Only.ite | apply Only.setF | apply Only.setHistory | apply Only.nextDomain
                            | apply Only.resetMvc | apply Only.chipReset | apply Only.enableFn)
    | (show pt (Field.ofReg _ _) = true; assumption) | refine Only.of_eq (by assumption) ?_ | split | dsimp only
    | (with_reducible apply Only.mk_same) <;> first | with_reducible exact .inr (by assumption) | with_reducible exact .inl rfl | exact .inl rfl | skip

theorem Only.rbWrite (h : Only pt z s) (w : Nat) (hg0 : Allow pt evtRegs) (hg1 : Allow pt refusalRegs) (hp : Allow pt
    [.dies, .boot, .ofReg .sec Reg.SEC_RB_COMMIT_BUSY, .ofReg .sec Reg.SEC_RB_COMMIT_CTR,
    .ofReg .sec Reg.SEC_RB_COMMIT_VALUE]) : Only pt z (State.rbWrite s w) := by
  obtain ⟨q0, q1, q2, q3, q4, -⟩ := hp
  unfold State.rbWrite
  repeat' first
    | (with_reducible first | assumption | exact Allow.nil | apply Allow.cons | apply Only.ite | apply Only.setF
                            | apply Only.refuseBlk)
    | refine Only.of_eq (by assumption) ?_ | split | dsimp only
    | (with_reducible apply Only.mk_same) <;> first | with_reducible exact .inr (by assumption) | with_reducible exact .inl rfl | exact .inl rfl | skip

theorem Only.setFlData (h : Only pt z s) (l : List Byte) (hp : Allow pt [.ofReg .boot Reg.BOOT_FL_DATA_DATA]) : Only
    pt z (State.setFlData s l) := by
  obtain ⟨q0, -⟩ := hp
  unfold State.setFlData
  repeat' first
    | intro _
    | (with_reducible first | assumption | exact Allow.nil | apply Allow.cons | apply Only.foldl
                            | apply Only.ite | apply Only.setF)
    | refine Only.of_eq (by assumption) ?_ | split | dsimp only

theorem Only.flGo (h : Only pt z s) (cmd : Nat) (hg0 : Allow pt evtRegs) (hg1 : Allow pt refusalRegs) (hp : Allow pt
    [.dies, .boot, .ofReg .boot Reg.BOOT_FL_CMD_BUSY, .ofReg .boot Reg.BOOT_FL_CMD_CMD,
    .ofReg .boot Reg.BOOT_FL_CMD_ERR, .ofReg .boot Reg.BOOT_STATUS_REASON, .ofReg .boot Reg.BOOT_STATUS_REFUSED]) :
    Only pt z (State.flGo s cmd) := by
  obtain ⟨q0, q1, q2, q3, q4, q5, q6, -⟩ := hp
  unfold State.flGo
  repeat' first
    | (with_reducible first | assumption | exact Allow.nil | apply Allow.cons | apply Only.ite | apply Only.setF
                            | apply Only.refuse)
    | (show pt (Field.ofReg _ _) = true; assumption) | refine Only.of_eq (by assumption) ?_ | split | dsimp only
    | (with_reducible apply Only.mk_same) <;> first | with_reducible exact .inr (by assumption) | with_reducible exact .inl rfl | exact .inl rfl | skip

theorem Only.submit (h : Only pt z s) (l : List Byte) (hg0 : Allow pt evtRegs) (hg1 : Allow pt refusalRegs) (hp :
    Allow pt [.free, .dies, .boot, .ofReg .sec Reg.SEC_DBG_LEFT_LEFT, .ofReg .sec Reg.SEC_DBG_NONCE,
    .ofReg .sec Reg.SEC_DBG_SCOPE]) : Only pt z (State.submit s l) := by
  obtain ⟨q0, q1, q2, q3, q4, q5, -⟩ := hp
  unfold State.submit
  repeat' first
    | (with_reducible first | assumption | exact Allow.nil | apply Allow.cons | apply Only.ite | apply Only.log
                            | apply Only.refuseBlk | apply Only.setF | apply Only.newNonce)
    | refine Only.of_eq (by assumption) ?_ | split | dsimp only
    | (with_reducible apply Only.mk_same) <;> first | with_reducible exact .inr (by assumption) | with_reducible exact .inl rfl | exact .inl rfl | skip

theorem Only.submitRegs (h : Only pt z s)  (hg0 : Allow pt evtRegs) (hg1 : Allow pt refusalRegs) (hp : Allow pt
    [.free, .dies, .boot, .ofReg .sec Reg.SEC_DBG_LEFT_LEFT, .ofReg .sec Reg.SEC_DBG_NONCE,
    .ofReg .sec Reg.SEC_DBG_SCOPE]) : Only pt z (State.submitRegs s) := by
  obtain ⟨q0, q1, q2, q3, q4, q5, -⟩ := hp
  unfold State.submitRegs
  repeat' first
    | (with_reducible first | assumption | exact Allow.nil | apply Allow.cons | apply Only.ite
                            | apply Only.submit)
    | refine Only.of_eq (by assumption) ?_ | split | dsimp only

theorem Only.debugLock (h : Only pt z s)  (hp : Allow pt [.ofReg .sec Reg.SEC_DBG_SCOPE]) : Only pt z (State.debugLock
    s) := by
  obtain ⟨q0, -⟩ := hp
  unfold State.debugLock
  repeat' first
    | (with_reducible first | assumption | exact Allow.nil | apply Allow.cons | apply Only.ite
                            | apply Only.setF)
    | refine Only.of_eq (by assumption) ?_ | split | dsimp only

theorem Only.tapShift (h : Only pt z s) (ir : Nat) (cap : List Bool) (tdi : List Bool) (hp : Allow pt [.boot]) : Only
    pt z (State.tapShift s ir cap tdi) := by
  obtain ⟨q0, -⟩ := hp
  unfold State.tapShift
  repeat' first
    | (with_reducible first | assumption | exact Allow.nil | apply Allow.cons | apply Only.ite)
    | refine Only.of_eq (by assumption) ?_ | split | dsimp only
    | (with_reducible apply Only.mk_same) <;> first | with_reducible exact .inr (by assumption) | with_reducible exact .inl rfl | exact .inl rfl | skip

theorem Only.capture (h : Only pt z s) (n : Nat) (hp : Allow pt [.free]) : Only pt z (s.capture n).2 := by
  unfold State.capture
  exact .foldl_snd (β := List Bool) _ (fun a _ ha => ha.draw 1 (by assumption)) ([], s) h

theorem Only.tapBypass (h : Only pt z s) (ir : Nat) (tdi : List Bool) (hp : Allow pt [.boot]) : Only pt z
    (State.tapBypass s ir tdi) := by
  obtain ⟨q0, -⟩ := hp
  unfold State.tapBypass
  repeat' first
    | (with_reducible first | assumption | exact Allow.nil | apply Allow.cons | apply Only.ite
                            | apply Only.tapShift)
    | refine Only.of_eq (by assumption) ?_ | split | dsimp only

theorem Only.tapScan (h : Only pt z s) (ir : Nat) (tdi : List Bool) (hp : Allow pt [.free, .boot]) : Only pt z
    (State.tapScan s ir tdi) := by
  obtain ⟨q0, q1, -⟩ := hp
  unfold State.tapScan
  repeat' first
    | (with_reducible first | assumption | exact Allow.nil | apply Allow.cons | apply Only.ite
                            | apply Only.capture | apply Only.tapShift)
    | refine Only.of_eq (by assumption) ?_ | split | dsimp only
    | (with_reducible apply Only.mk_same) <;> first | with_reducible exact .inr (by assumption) | with_reducible exact .inl rfl | exact .inl rfl | skip

theorem Only.setRecal (h : Only pt z s) (e : LinkEnd) (r : Option Recal) (hp : Allow pt [.recals]) : Only pt z
    (State.setRecal s e r) := by
  obtain ⟨q0, -⟩ := hp
  unfold State.setRecal
  repeat' first
    | (with_reducible first | assumption | exact Allow.nil | apply Allow.cons | apply Only.ite)
    | refine Only.of_eq (by assumption) ?_ | split | dsimp only
    | (with_reducible apply Only.mk_same) <;> first | with_reducible exact .inr (by assumption) | with_reducible exact .inl rfl | exact .inl rfl | skip

theorem Only.showRecal (h : Only pt z s) (e : LinkEnd) (v : Nat) (hp : Allow pt [.ofReg .ikl Reg.IKL_RECAL_STATE]) :
    Only pt z (State.showRecal s e v) := by
  obtain ⟨q0, -⟩ := hp
  unfold State.showRecal
  repeat' first
    | intro _
    | (with_reducible first | assumption | exact Allow.nil | apply Allow.cons | apply Only.foldl
                            | apply Only.ite | apply Only.setF)
    | refine Only.of_eq (by assumption) ?_ | split | dsimp only

theorem Only.dropRecal (h : Only pt z s) (e : LinkEnd) (hp : Allow pt [.dies, .recals,
    .ofReg .ikl Reg.IKL_RECAL_STATE, .ofReg .pwr Reg.PWR_DIE_A_HELD]) : Only pt z (State.dropRecal s e) := by
  obtain ⟨q0, q1, q2, q3, -⟩ := hp
  unfold State.dropRecal
  repeat' first
    | (with_reducible first | assumption | exact Allow.nil | apply Allow.cons | apply Only.ite
                            | apply Only.returnToken | apply Only.setRecal | apply Only.showRecal)
    | refine Only.of_eq (by assumption) ?_ | split | dsimp only

theorem Only.recalGo (h : Only pt z s) (e : LinkEnd) (hg0 : Allow pt evtRegs) (hg1 : Allow pt refusalRegs) (hp : Allow
    pt [.dies, .links, .recals, .ofReg .eng Reg.ENG_CTX_STATE_STATE, .ofReg .ikl Reg.IKL_CAL_STATUS_REASON,
    .ofReg .ikl Reg.IKL_CAL_STATUS_REFUSED, .ofReg .ikl Reg.IKL_RECAL_STATE, .ofReg .pwr Reg.PWR_COUNT_WAIT_FAIL]) :
    Only pt z (State.recalGo s e) := by
  obtain ⟨q0, q1, q2, q3, q4, q5, q6, q7, -⟩ := hp
  unfold State.recalGo
  repeat' first
    | (with_reducible first | assumption | exact Allow.nil | apply Allow.cons | apply Only.ite
                            | apply Only.refuse | apply Only.setRecal | apply Only.showRecal | apply Only.setBun
                            | apply Only.sbSend | apply Only.askToken)
    | (show pt (Field.ofReg _ _) = true; assumption) | refine Only.of_eq (by assumption) ?_ | split | dsimp only
    | (with_reducible apply Only.mk_same) <;> first | with_reducible exact .inr (by assumption) | with_reducible exact .inl rfl | exact .inl rfl | skip

theorem Only.lossAll (h : Only pt z s) (e : LinkEnd) (b : Nat) (lost : Bool) (hg0 : Allow pt evtRegs) (hg1 : Allow pt
    lastRegs) (hg2 : Allow pt histRegs) (hg3 : Allow pt switchRegs) (hp : Allow pt [.dies, .links, .rcv, .recov,
    .ofReg .gtr Reg.GTR_LOSS_LOST, .ofReg .gtr Reg.GTR_STATUS_NOFIT, .ofReg .gtr Reg.GTR_STATUS_VARIANT,
    .ofReg .rcv Reg.RCV_STATUS_LEVEL]) : Only pt z (State.lossAll s e b lost) := by
  obtain ⟨q0, q1, q2, q3, q4, q5, q6, q7, -⟩ := hp
  unfold State.lossAll
  repeat' first
    | intro _
    | (with_reducible first | assumption | exact Allow.nil | apply Allow.cons | apply Only.foldl
                            | apply Only.ite | apply Only.noteSched | apply Only.setLossSet
                            | apply Only.selectVariant)
    | refine Only.of_eq (by assumption) ?_ | split | dsimp only

theorem Only.recalOut (h : Only pt z s) (b : Nat) (e : LinkEnd) (hg0 : Allow pt quiesceRegs) (hp : Allow pt [.links,
    .ofReg .ikl Reg.IKL_BPHY_CAL_OUT]) : Only pt z (State.recalOut s b e) := by
  obtain ⟨q0, q1, -⟩ := hp
  unfold State.recalOut
  repeat' first
    | (with_reducible first | assumption | exact Allow.nil | apply Allow.cons | apply Only.ite | apply Only.setF
                            | apply Only.quiesce | apply Only.setBun)
    | refine Only.of_eq (by assumption) ?_ | split | dsimp only
    | (with_reducible apply Only.mk_same) <;> first | with_reducible exact .inr (by assumption) | with_reducible exact .inl rfl | exact .inl rfl | skip

theorem Only.failLanes (h : Only pt z s) (e : LinkEnd) (b : Nat) (mask : Nat) (hg0 : Allow pt evtRegs) (hg1 : Allow pt
    laneMapRegs) (hg2 : Allow pt laneMapTxRegs) (hg3 : Allow pt trainRegs) (hg4 : Allow pt quiesceRegs) (hp : Allow pt
    [.dies, .links, .ofReg .gtr Reg.GTR_STATUS_LATE]) : Only pt z (State.failLanes s e b mask) := by
  obtain ⟨q0, q1, q2, -⟩ := hp
  unfold State.failLanes
  repeat' first
    | intro _
    | (with_reducible first | assumption | exact Allow.nil | apply Allow.cons | apply Only.foldl
                            | apply Only.ite | apply Only.failLane)
    | refine Only.of_eq (by assumption) ?_ | split | dsimp only

theorem Only.recalIn (h : Only pt z s) (b : Nat) (e : LinkEnd) (hg0 : Allow pt quiesceRegs) (hp : Allow pt [.links,
    .ofReg .ikl Reg.IKL_BPHY_CAL_OUT]) : Only pt z (State.recalIn s b e) := by
  obtain ⟨q0, q1, -⟩ := hp
  unfold State.recalIn
  repeat' first
    | (with_reducible first | assumption | exact Allow.nil | apply Allow.cons | apply Only.ite | apply Only.setF
                            | apply Only.setBun | apply Only.quiesce)
    | refine Only.of_eq (by assumption) ?_ | split | dsimp only
    | (with_reducible apply Only.mk_same) <;> first | with_reducible exact .inr (by assumption) | with_reducible exact .inl rfl | exact .inl rfl | skip

theorem Only.armFlds (h : Only pt z s) (p : Place) (w : Nat) (hp : Allow pt [.shadow, .dies]) (hr : AnyReg pt) : Only
    pt z (State.armFlds s p w) := by
  obtain ⟨q0, q1, -⟩ := hp
  unfold State.armFlds
  repeat' first
    | intro _
    | (with_reducible first | assumption | exact Allow.nil | apply Only.foldl | apply Only.ite
                            | apply Only.refuse | apply Only.bumpF)
    | exact hr _ | exact hr.group rfl | with_reducible apply Allow.cons | (show pt (Field.ofReg _ _) = true; assumption) | refine Only.of_eq (by assumption) ?_ | split | dsimp only
    | (with_reducible apply Only.mk_same) <;> first | with_reducible exact .inr (by assumption) | with_reducible exact .inl rfl | exact .inl rfl | skip

theorem Only.putFld (h : Only pt z s) (p : Place) (w : Nat) (f : Fld) (hr : AnyReg pt) : Only pt z (State.putFld s p w
    f) := by
  unfold State.putFld
  repeat' first
    | (with_reducible first | assumption | exact Allow.nil | apply Only.ite | apply Only.setF)
    | exact hr _ | exact hr.group rfl | with_reducible apply Allow.cons | refine Only.of_eq (by assumption) ?_ | split | dsimp only
    | (with_reducible apply Only.mk_same) <;> first | with_reducible exact .inr (by assumption) | with_reducible exact .inl rfl | exact .inl rfl | skip

theorem Only.putEnables (h : Only pt z s) (p : Place) (w : Nat) (ok : Bool) (hp : Allow pt [.free, .inForce, .dies,
    .links, .tables, .fpLines, .pins, .rcv, .hosts, .ldg, .fram, .boot, .recov]) (hr : AnyReg pt) : Only pt z
    (State.putEnables s p w ok) := by
  obtain ⟨q0, q1, q2, q3, q4, q5, q6, q7, q8, q9, q10, q11, q12, -⟩ := hp
  unfold State.putEnables
  repeat' first
    | intro _
    | (with_reducible first | assumption | exact Allow.nil | apply Only.foldl | apply Only.ite
                            | apply Only.enableFn | apply Only.disableFn)
    | exact hr _ | exact hr.group rfl | with_reducible apply Allow.cons | (show pt (Field.ofReg _ _) = true; assumption) | refine Only.of_eq (by assumption) ?_ | split | dsimp only
    | (with_reducible apply Only.mk_same) <;> first | with_reducible exact .inr (by assumption) | with_reducible exact .inl rfl | exact .inl rfl | skip

theorem Only.rcvWrite (h : Only pt z s) (p : Place) (w : Nat) (hp : Allow pt [.dies]) (hr : AnyReg pt) : Only pt z
    (State.rcvWrite s p w) := by
  obtain ⟨q0, -⟩ := hp
  unfold State.rcvWrite
  repeat' first
    | intro _
    | (with_reducible first | assumption | exact Allow.nil | apply Only.foldl | apply Only.ite
                            | apply Only.refuse | apply Only.putFld)
    | exact hr _ | exact hr.group rfl | with_reducible apply Allow.cons | (show pt (Field.ofReg _ _) = true; assumption) | refine Only.of_eq (by assumption) ?_ | split | dsimp only

theorem Only.writeHook (h : Only pt z s) (p : Place) (w : Nat) (hp : Allow pt [.free, .resv, .shadow, .inForce, .dies,
    .links, .tables, .mem, .poison, .ctxs, .fpLines, .seeds, .pins, .topo, .rcv, .engs, .queues, .streams, .issued,
    .accepted, .failed, .seenIssued, .seenFailed, .nextTag, .fences, .rdReqs, .hosts, .ptp, .fus, .ldg, .fram, .boot,
    .chg, .tshadow, .recals, .landed, .recov]) (hr : AnyReg pt) : Only pt z (State.writeHook s p w) := by
  obtain ⟨q0, q1, q2, q3, q4, q5, q6, q7, q8, q9, q10, q11, q12, q13, q14, q15, q16, q17, q18, q19, q20, q21, q22, q23, q24, q25, q26, q27, q28, q29, q30, q31, q32, q33, q34, q35, q36, -⟩ := hp
  unfold State.writeHook
  repeat' first
    | (with_reducible first | assumption | exact Allow.nil | apply Only.ite | apply Only.recPort
                            | apply Only.restartWrite | apply Only.loadWrite | apply Only.unloadWrite
                            | apply Only.flGo | apply Only.submitRegs | apply Only.debugLock
                            | apply Only.oosClear | apply Only.releaseMask | apply Only.force
                            | apply Only.recalGo | apply Only.doorbell | apply Only.setHost)
    | exact hr _ | exact hr.group rfl | with_reducible apply Allow.cons | refine Only.of_eq (by assumption) ?_ | split | dsimp only
    | (with_reducible apply Only.mk_same) <;> first | with_reducible exact .inr (by assumption) | with_reducible exact .inl rfl | exact .inl rfl | skip

theorem Only.regWrite (h : Only pt z s) (p : Place) (w : Nat) (ok : Bool) (hp : Allow pt [.free, .resv, .shadow,
    .inForce, .dies, .links, .tables, .mem, .poison, .ctxs, .fpLines, .seeds, .pins, .topo, .rcv, .engs, .queues,
    .streams, .issued, .accepted, .failed, .seenIssued, .seenFailed, .nextTag, .fences, .rdReqs, .hosts, .ptp, .fus,
    .ldg, .fram, .boot, .chg, .tshadow, .recals, .landed, .recov]) (hr : AnyReg pt) : Only pt z (State.regWrite s p w
    ok) := by
  obtain ⟨q0, q1, q2, q3, q4, q5, q6, q7, q8, q9, q10, q11, q12, q13, q14, q15, q16, q17, q18, q19, q20, q21, q22, q23, q24, q25, q26, q27, q28, q29, q30, q31, q32, q33, q34, q35, q36, -⟩ := hp
  unfold State.regWrite
  repeat' first
    | intro _
    | (with_reducible first | assumption | exact Allow.nil | apply Only.foldl | apply Only.ite
                            | apply Only.budgetWrite | apply Only.domRequest | apply Only.armWrite
                            | apply Only.rbWrite | apply Only.rcvWrite | apply Only.refuse | apply Only.bumpF
                            | apply Only.ctrWrite | apply Only.putFld | apply Only.putEnables
                            | apply Only.armFlds | apply Only.writeHook)
    | exact hr _ | exact hr.group rfl | with_reducible apply Allow.cons | (show pt (Field.ofReg _ _) = true; assumption) | refine Only.of_eq (by assumption) ?_ | split | dsimp only
    | (with_reducible apply Only.mk_same) <;> first | with_reducible exact .inr (by assumption) | with_reducible exact .inl rfl | exact .inl rfl | skip

theorem Only.msWrite (h : Only pt z s) (c : Crown) (a : Nat) (w : Nat) (ok : Bool) (hp : Allow pt [.free, .resv,
    .shadow, .inForce, .dies, .links, .tables, .mem, .poison, .ctxs, .fpLines, .seeds, .pins, .topo, .rcv, .engs,
    .queues, .streams, .issued, .accepted, .failed, .seenIssued, .seenFailed, .nextTag, .fences, .rdReqs, .hosts,
    .ptp, .fus, .ldg, .fram, .boot, .chg, .tshadow, .recals, .landed, .recov]) (hr : AnyReg pt) : Only pt z
    (State.msWrite s c a w ok) := by
  obtain ⟨q0, q1, q2, q3, q4, q5, q6, q7, q8, q9, q10, q11, q12, q13, q14, q15, q16, q17, q18, q19, q20, q21, q22, q23, q24, q25, q26, q27, q28, q29, q30, q31, q32, q33, q34, q35, q36, -⟩ := hp
  unfold State.msWrite
  repeat' first
    | (with_reducible first | assumption | exact Allow.nil | apply Only.ite | apply Only.enableFn
                            | apply Only.putEnables | apply Only.noteReserved | apply Only.regWrite)
    | exact hr _ | exact hr.group rfl | with_reducible apply Allow.cons | (show pt (Field.ofReg _ _) = true; assumption) | refine Only.of_eq (by assumption) ?_ | split | dsimp only
    | (with_reducible apply Only.mk_same) <;> first | with_reducible exact .inr (by assumption) | with_reducible exact .inl rfl | exact .inl rfl | skip

theorem Only.badAccess (h : Only pt z s) (c : Crown) (rd : Bool) (hp : Allow pt [.rdData,
    .ofReg .pci Reg.PCI_STATUS_MS_BAD_ACCESS]) : Only pt z (State.badAccess s c rd) := by
  obtain ⟨q0, q1, -⟩ := hp
  unfold State.badAccess
  repeat' first
    | (with_reducible first | assumption | exact Allow.nil | apply Allow.cons | apply Only.ite
                            | apply Only.bumpF | apply Only.putRd)
    | refine Only.of_eq (by assumption) ?_ | split | dsimp only

theorem Only.regRead (h : Only pt z s) (path : Path) (p : Place) (hg0 : Allow pt evtRegs) (hp : Allow pt [.free,
    .dies, .beatHi, .ofReg .eth Reg.ETH_TBL_DATA_DATA, .ofReg .fus Reg.FUS_TBL_DATA_DATA,
    .ofReg .gtr Reg.GTR_TBL_DATA_DATA, .ofReg .ldg Reg.LDG_TBL_DATA_DATA, .ofReg .tray Reg.TRY_TBL_DATA_DATA]) : Only
    pt z (State.regRead s path p).2 := by
  obtain ⟨q0, q1, q2, q3, q4, q5, q6, q7, -⟩ := hp
  unfold State.regRead
  repeat' first
    | (with_reducible first | assumption | exact Allow.nil | apply Allow.cons | apply Only.ite
                            | apply Only.ite_snd | apply Only.readBeatLo | apply Only.log | apply Only.draw
                            | apply Only.schedRead | apply Only.fusLoad | apply Only.ethLoad
                            | apply Only.ldgLoad)
    | refine Only.of_eq (by assumption) ?_ | split | dsimp only
    | (with_reducible apply Only.mk_same) <;> first | with_reducible exact .inr (by assumption) | with_reducible exact .inl rfl | exact .inl rfl | skip

theorem Only.msRead (h : Only pt z s) (path : Path) (a : Nat) (hg0 : Allow pt evtRegs) (hp : Allow pt [.free, .dies,
    .beatHi, .ofReg .eth Reg.ETH_TBL_DATA_DATA, .ofReg .fus Reg.FUS_TBL_DATA_DATA, .ofReg .gtr Reg.GTR_TBL_DATA_DATA,
    .ofReg .ldg Reg.LDG_TBL_DATA_DATA, .ofReg .pci Reg.PCI_ERR_MS_UNREACH, .ofReg .tray Reg.TRY_TBL_DATA_DATA]) : Only
    pt z (s.msRead path a).2 := by
  obtain ⟨q0, q1, q2, q3, q4, q5, q6, q7, q8, -⟩ := hp
  unfold State.msRead
  split
  · exact h
  · dsimp only
    refine .ite_snd (h.deadRead_getD _ _ _ h (by (repeat' first | with_reducible assumption | with_reducible exact Allow.nil | with_reducible apply Allow.cons))) ?_
    split
    · split
      · next e => exact .ite_snd (h.deadRead _ _ _ (by (repeat' first | with_reducible assumption | with_reducible exact Allow.nil | with_reducible apply Allow.cons)) e) h
      · exact h
    · refine .ite_snd h (h.deadRead_getD _ _ _ ?_ (by (repeat' first | with_reducible assumption | with_reducible exact Allow.nil | with_reducible apply Allow.cons)))
      apply Only.regRead <;> (repeat' first | with_reducible assumption | with_reducible exact Allow.nil | with_reducible apply Allow.cons)

theorem Only.smRead (h : Only pt z s) (a : Nat) (hg0 : Allow pt evtRegs) (hp : Allow pt [.free, .dies, .beatHi,
    .ofReg .eth Reg.ETH_TBL_DATA_DATA, .ofReg .fus Reg.FUS_TBL_DATA_DATA, .ofReg .gtr Reg.GTR_TBL_DATA_DATA,
    .ofReg .ldg Reg.LDG_TBL_DATA_DATA, .ofReg .pci Reg.PCI_ERR_MS_UNREACH, .ofReg .tray Reg.TRY_TBL_DATA_DATA]) : Only
    pt z (State.smRead s a).2 := by
  obtain ⟨q0, q1, q2, q3, q4, q5, q6, q7, q8, -⟩ := hp
  unfold State.smRead
  repeat' first
    | (with_reducible first | assumption | exact Allow.nil | apply Allow.cons | apply Only.ite
                            | apply Only.ite_snd | apply Only.msRead)
    | refine Only.of_eq (by assumption) ?_ | split | dsimp only

end Sys2Proof.Machine
end

