-- ==== Sys2Proof/Laws/Phy.lean ====
section
/-! SUPPORT. The scrambler in steps of 28 unit intervals is the scrambler in single steps (R69). -/

namespace Sys2Proof.Machine

theorem bit_eq (x i : Nat) : bit x i = x.testBit i := by
  rw [Nat.testBit_eq_decide_div_mod_eq, bit, Bool.beq_eq_decide_eq]

theorem bit_jump {r y m i : Nat} (hy : y < 2 ^ m) (hm : m ≤ i) (hi : i < 31) :
    bit ((r * 2 ^ m + y) % 2 ^ 31) i = r.testBit (i - m) := by
  rw [bit_eq, Nat.testBit_mod_two_pow, decide_eq_true hi, Bool.true_and, Nat.mul_comm, Nat.two_pow_add_eq_or_of_lt hy]
  rw [Nat.testBit_or, Nat.testBit_two_pow_mul, Nat.testBit_lt_two_pow (Nat.lt_of_lt_of_le hy (Nat.pow_le_pow_right (by omega) hm))]
  simp [hm]

theorem scrJump_succ (r m : Nat) (hm : m < 28) : scrJump r (m + 1) = scrNext (scrJump r m) := by
  have hx : ∀ i, i < 28 → (Nat.xor (r / 8) r % 2 ^ 28).testBit i = (r.testBit (i + 3) != r.testBit i) := by
    intro i hi
    rw [Nat.testBit_mod_two_pow, decide_eq_true hi, Bool.true_and]
    show ((r / 8) ^^^ r).testBit i = _
    rw [Nat.testBit_xor, show (8 : Nat) = 2 ^ 3 from rfl, Nat.testBit_div_two_pow]
  generalize hxx : Nat.xor (r / 8) r % 2 ^ 28 = x at hx
  have hlt : x < 2 ^ 28 := hxx ▸ Nat.mod_lt _ (by decide)
  have hy : x / 2 ^ (28 - m) < 2 ^ m := by
    rw [Nat.div_lt_iff_lt_mul (Nat.two_pow_pos _), ← Nat.pow_add]
    rw [show m + (28 - m) = 28 by omega]; exact hlt
  have e : x / 2 ^ (28 - (m + 1)) = 2 * (x / 2 ^ (28 - m)) + b2n (r.testBit (30 - m) != r.testBit (27 - m)) := by
    have h27 := hx (27 - m) (by omega)
    rw [show 27 - m + 3 = 30 - m by omega] at h27
    rw [← h27, Nat.testBit_eq_decide_div_mod_eq]
    rw [show 28 - (m + 1) = 27 - m by omega, show 28 - m = (27 - m) + 1 by omega, Nat.pow_succ, ← Nat.div_div_eq_div_mul]
    generalize x / 2 ^ (27 - m) = z
    unfold b2n
    split <;> rename_i h <;> simp at h <;> omega
  unfold scrNext scrBit scrJump
  rw [hxx, bit_jump hy (by omega) (by omega), bit_jump hy (by omega) (by omega), e, Nat.pow_succ]
  generalize x / 2 ^ (28 - m) = y at *
  have hb : b2n (r.testBit (30 - m) != r.testBit (27 - m)) < 2 := by unfold b2n; split <;> omega
  generalize b2n (r.testBit (30 - m) != r.testBit (27 - m)) = b at *
  rw [← Nat.mul_assoc]
  generalize r * 2 ^ m = q
  omega

theorem scrJump_eq (r : Nat) (hr : r < 2 ^ 31) : ∀ m, m ≤ 28 → scrJump r m = scrAfter r m
  | 0, _ => by
    have : Nat.xor (r / 8) r % 2 ^ 28 / 2 ^ (28 - 0) = 0 := Nat.div_eq_of_lt (Nat.mod_lt _ (by decide))
    unfold scrJump scrAfter
    rw [this]; omega
  | m + 1, h => by rw [scrJump_succ r m (by omega), scrJump_eq r hr m (by omega)]; rfl

theorem scrNext_lt (r : Nat) : scrNext r < 2 ^ 31 := by
  unfold scrNext b2n
  split <;> omega

theorem scrAfter_lt (r : Nat) (hr : r < 2 ^ 31) : ∀ k, scrAfter r k < 2 ^ 31
  | 0 => hr
  | _ + 1 => scrNext_lt _

theorem scrAfter_add (r k : Nat) : ∀ n, scrAfter (scrAfter r k) n = scrAfter r (k + n)
  | 0 => rfl
  | n + 1 => by rw [scrAfter, scrAfter_add r k n]; rfl

theorem scrJumps_eq (r : Nat) (hr : r < 2 ^ 31) : ∀ k, scrJumps r k = scrAfter r (28 * k)
  | 0 => rfl
  | k + 1 => by
    rw [scrJumps, scrJumps_eq r hr k, scrJump_eq _ (scrAfter_lt r hr _) 28 (Nat.le_refl _), scrAfter_add]
    rfl

theorem scrSkip_eq (r k : Nat) (hr : r < 2 ^ 31) : scrSkip r k = scrAfter r k := by
  rw [scrSkip, scrJumps_eq r hr, scrJump_eq _ (scrAfter_lt r hr _) _ (Nat.le_of_lt (Nat.mod_lt _ (by decide))),
    scrAfter_add, Nat.div_add_mod]

end Sys2Proof.Machine
end

