-- ==== Sys2Proof/WellFormed.lean ====
section
/-! DEFINITION. Which commands are well formed: every operand lies in the range that the field, the bus or the message that
carries it can hold. The meanings are total all the same: a command that is not well formed has no counterpart outside. -/

namespace Sys2Proof

/-- A number that a field of `w` bits holds. -/
def fits (w x : Nat) : Bool := decide (x < 2 ^ w)

/-- Every number of a list fits `w` bits. -/
def words (w : Nat) (l : List Nat) : Bool := l.all (fits w)

/-- A value for each bundle of a link end: 1 of an FP link, 4 of a tray port, 16 of an SP link at most (R62, R80). -/
def perBundle (l : List Nat) : Bool := decide (l.length ≤ 16)

/-- Whether a link end is a tray port. -/
def LinkEnd.isTrayPort : LinkEnd → Bool
  | .tray _ => true
  | .ikl _ _ => false

/-- What lanes carried: 32 bits of each of the 21 of an Ikiper bundle, or two codewords' 680 bits of each of nine of a tray port (R68,
R177). -/
def lanesWf (e : LinkEnd) (l : List Nat) : Bool :=
  if e.isTrayPort then decide (l.length ≤ 9) && words 1360 l else decide (l.length ≤ 21) && words 32 l

/-- A sideband slot: the segments of at most 16 bundles, or what the lanes of a tray port carried (R71, R181). -/
def slotWf (e : LinkEnd) (r : SbSlot) : Bool :=
  if e.isTrayPort then lanesWf e r.segs else decide (r.segs.length ≤ 16) && words 128 r.segs

/-- The bits that each lane of a bundle received: of 21 lanes at most. -/
def bitsWf (l : List (List Bool)) : Bool := decide (l.length ≤ 21)

/-- A command flit: 64 bytes (R254). -/
def cmdWf (l : List Byte) : Bool := l.length == 64

/-- The data flits of a message: at most 64, each of 64 bytes (R254). -/
def dataWf (l : List (List Byte)) : Bool := decide (l.length ≤ 64) && l.all fun f => f.length == 64

/-- An access of `n` bytes at offset `x` of a memory BAR: at least one byte, at most 4,096, offset below 2⁶⁴. -/
def aperture (x n : Nat) : Bool := fits 64 x && decide (1 ≤ n ∧ n ≤ 4096)

/-- A register is 32 bits wide and stands at a multiple of four (R2, R14). -/
def aligned (a : Word) : Bool := a.toNat % 4 == 0

/-- The flash reports a capacity and an erase size below 2⁶⁴ bits and bytes, and a clock below 1,024 MHz (R381). -/
def flashWf : Option FlashInfo → Bool
  | none => true
  | some f => decide (f.density < 64 ∧ f.erase < 64 ∧ f.mhz < 1024)

/-- The addresses of a port fit their fields (R277). -/
def portWf (p : PortAddr) : Bool :=
  fits 48 p.mac && fits 32 p.ip4 && fits 128 p.ip6 && fits 128 p.ip6ll && words 12 p.vlans && words 128 p.groups

/-- A record of an image names a table space there is, and its index fits the port's (R212, R318, R331, R507). -/
def recWf (r : ImgRec) : Bool := fits 8 r.space && fits 17 r.idx

/-- An output descriptor fits the frame's fields and has a period (R292, R293). -/
def outWf (o : ImgOut) : Bool :=
  fits 48 o.mac && fits 12 o.vlan && fits 3 o.pcp && fits 128 o.dstIp && fits 16 o.srcPort && fits 16 o.dstPort &&
    fits 6 o.dscp && fits 16 o.source && decide (0 < o.period)

/-- The parts of an image fit the fields that take them. -/
def imageWf (i : Image) : Bool :=
  i.records.all recWf && i.outputs.all outWf && words 4 i.packages && words 48 (i.faultAt.map (·.2)) &&
    words 12 (i.hostCtrs.map (·.2)) && i.regs.all (fun r => fits 32 r.1 && fits 32 r.2) &&
    i.contexts.all (fun c => words 52 (c.grants.map (·.1)) && words 48 (c.heads.map (·.2.2)))

/-- The addresses of a matrix are tray addresses of 52 bits (R242). -/
def tensorWf (x : Tensor) : Bool := fits 52 x.base && fits 52 x.scale

/-- A coefficient that is read stands at tray addresses. -/
def coefWf : Coef → Bool
  | .read x => tensorWf x
  | .gate _ => true

/-- The elements and the summary keys of a sequence stand at tray addresses. -/
def seqWf (q : Seq) : Bool := tensorWf q.elems && tensorWf q.summary

/-- Where a move reads or writes: a tray address of 52 bits, or a host address of 64. -/
def moveEndWf : MoveEnd → Bool
  | .mem a => fits 52 a
  | .host _ a => fits 64 a

/-- The addresses of what a descriptor works on fit. -/
def workWf : Work → Bool
  | .nop | .jump _ | .yield => true
  | .matrix a b c dst _ _ _ => tensorWf a && tensorWf b && c.all tensorWf && tensorWf dst
  | .map _ srcs dst _ _ => srcs.all tensorWf && tensorWf dst
  | .reduce _ src dst _ _ => tensorWf src && tensorWf dst
  | .layout _ src dst _ _ => tensorWf src && tensorWf dst
  | .gather src idx dst _ _ => tensorWf src && fits 52 idx && tensorWf dst
  | .scatter src idx dst _ _ => tensorWf src && fits 52 idx && tensorWf dst
  | .sparse vals idx b dst _ _ _ => tensorWf vals && fits 52 idx && tensorWf b && tensorWf dst
  | .scan x => seqWf x.seq && coefWf x.a && coefWf x.b && coefWf x.c && tensorWf x.d && x.init.all (fits 52) && fits 52 x.final &&
      tensorWf x.out
  | .retrieve x => tensorWf x.query && seqWf x.seq && words 12 x.chans && tensorWf x.out
  | .move x => moveEndWf x.src && moveEndWf x.dst
  | .sync .plain => true
  | .sync (.fence a) => fits 52 a
  | .sync (.arrive _ a) => fits 52 a

/-- What the operation table says of a descriptor fits. -/
def opWf (o : OpInfo) : Bool := workWf o.work && o.appends.all fun p => seqWf p.1 && fits 24 p.2

/-- A configuration request names an aligned vector address and 32 bits of data, or an aligned word of BAR4. -/
def cfgWf : CfgReq → Bool
  | .bar4 _ off => off % 4 == 0
  | .feature _ _ | .completionTimeout _ | .msix _ _ | .serialNumber _ | .read _ => true
  | .vector _ addr data _ => fits 64 addr && addr % 4 == 0 && fits 32 data

/-- A private instruction reads an aligned word. -/
def privWf : PrivOp → Bool
  | .msRead a => aligned a
  | .memRead pa => pa.toNat % 4 == 0
  | .halt _ _ | .write _ => true

/-- The check, one arm per command. -/
def Instr.wf : Instr → Bool
  | .powerOnReset _ => true
  | .monitorGood _ mv _ _ _ _ => fits 16 mv
  | .monitorNotGood _ mv => fits 16 mv
  | .monitorBandTimeout _ mv => fits 16 mv
  | .referenceDetect => true
  | .referenceTimeout => true
  | .pllLock _ => true
  | .pllLockTimeout _ => true
  | .flashDiscover f => flashWf f
  | .flashPass _ _ _ _ _ _ ports => ports.all portWf
  | .flashPassResume _ => true
  | .domainSwitchRequest _ => true
  | .domainOn _ => true
  | .perstDeassert _ _ _ => true
  | .hbmTrainingDone _ _ _ => true
  | .imageLoad img _ => imageWf img
  | .imageLoadHost => true
  | .imageUnload => true
  | .imageStop => true
  | .loadReport _ _ => true
  | .imageActivate => true
  | .restart => true
  | .rollbackCommit _ => true
  | .rollbackCommitDone => true
  | .flashRead => true
  | .flashProgram => true
  | .flashErase => true
  | .flashStatus => true
  | .flashCommandDone _ data => decide (data.length ≤ 256)
  | .debugTokenSubmit => true
  | .jtagUnlock token => token.length == 336
  | .debugLock => true
  | .debugLifetimeExpiry => true
  | .bypass tdi => !tdi.isEmpty
  | .idcode tdi => !tdi.isEmpty
  | .samplePreload tdi => !tdi.isEmpty
  | .extest tdi => !tdi.isEmpty
  | .clamp tdi => !tdi.isEmpty
  | .highz tdi => !tdi.isEmpty
  | .msBadAccess _ _ => true
  | .registerWrite _ a _ _ => aligned a
  | .beatLoRead _ _ => true
  | .functionEnable _ _ _ _ => true
  | .functionDisable _ _ _ => true
  | .beatLoadSend _ => true
  | .beatLoad e r => slotWf e r
  | .beatSyncAttempt _ => true
  | .beatSyncReq n r => slotWf (.tray n) r
  | .beatSyncResp n r _ _ => slotWf (.tray n) r
  | .beatSyncTimeout _ => true
  | .syncPortLoss => true
  | .syncHoldoverExpiry => true
  | .servoMapUpdate => true
  | .taiMapSend _ => true
  | .taiMapApply _ => true
  | .hackStart => true
  | .hackEnd => true
  | .cdcStale _ _ blk inst => fits 8 blk && fits 8 inst
  | .cdcStaleTurnExpiry _ accepted => accepted.all fun p => fits 8 p.2.1 && fits 8 p.2.2
  | .ptrReq e r => slotWf e r
  | .ptrResp e r => slotWf e r
  | .pointerSet _ => true
  | .ptrHandshakeTimeout _ => true
  | .fpResetReq e r => slotWf e r
  | .fpJointResetRelease _ => true
  | .resetRetry _ => true
  | .trainingTimeout _ => true
  | .searchPointEnd _ _ bits eyes taps snr => bitsWf bits && words 64 eyes && words 32 taps && words 16 snr
  | .ckCountCheck _ counts => perBundle counts
  | .lanetestEnd _ bits => decide (bits.length ≤ 16) && bits.all bitsWf
  | .lanetestExit _ => true
  | .lanemap e r => slotWf e r
  | .lanemapApply _ => true
  | .frameMarker e _ seg => fits (if e.isTrayPort then 280 else 128) seg
  | .sidebandContainer e r => slotWf e r
  | .sidebandSlotTransmit _ => true
  | .sbAck e r => slotWf e r
  | .sbMessageRepeat _ => true
  | .sbAckTimeout _ => true
  | .bundleRetire e r => slotWf e r
  | .bundleTxStop _ _ => true
  | .pinProbe e r => slotWf e r
  | .pinEcho e r arrivals => slotWf e r && perBundle arrivals && words 64 arrivals
  | .flitReceive e _ lanes => lanesWf e lanes
  | .laneNoTransition _ _ _ _ => true
  | .errWindowRoll _ => true
  | .laneRepair e r => slotWf e r
  | .jewelStreamStart _ _ => true
  | .laneRepairTakeover _ _ => true
  | .laneRepairTxCutover _ _ => true
  | .jewelRecentre _ _ _ _ _ _ => true
  | .recalGo _ => true
  | .recalArm e r => slotWf e r
  | .recalArmDeadline _ => true
  | .recalStart _ => true
  | .recalLanetestStart _ => true
  | .recalReturnMission _ near far => bitsWf near && bitsWf far
  | .recalEnd _ _ _ => true
  | .scNak e r => slotWf e r
  | .slotTransmit _ _ => true
  | .scHoldExpiry _ => true
  | .scResendDeadline _ => true
  | .scLostBundleReport _ => true
  | .ucAck e r => slotWf e r
  | .credit e r => slotWf e r
  | .ucReplayTimeout _ _ => true
  | .ucRequeue _ => true
  | .variantSelect _ => true
  | .lossNotice _ payload => payload.length == 64
  | .gtrTableWrite _ _ => true
  | .gtrTableRead _ _ => true
  | .beaconBurst _ => true
  | .beaconBlock _ _ _ => true
  | .noPartnerSignal _ => true
  | .seekTimeout _ => true
  | .partnerSignalLost _ => true
  | .trayLossNotice _ payload => payload.length == 64
  | .startWindowEnd _ => true
  | .trayVariantSelect _ => true
  | .tryTableWrite _ _ => true
  | .tryTableRead _ _ => true
  | .runSelect _ _ => true
  | .descriptorStart _ _ i => opWf i
  | .descriptorComplete _ _ => true
  | .descriptorBoundExpiry _ _ => true
  | .doorbellRing _ _ => true
  | .counterSignal _ _ _ => true
  | .synCtrWrite _ _ _ => true
  | .barrierArrival _ _ => true
  | .lockstepMismatch _ => true
  | .write _ cmd data _ _ => cmdWf cmd && dataWf data
  | .signal _ cmd => cmdWf cmd
  | .read _ cmd _ _ => cmdWf cmd
  | .readData _ cmd data => cmdWf cmd && dataWf data
  | .fenceProbe _ cmd => cmdWf cmd
  | .fenceResp _ cmd => cmdWf cmd
  | .fenceProbeRetry _ _ => true
  | .pwFail _ cmd _ => cmdWf cmd
  | .scrubPass _ _ _ _ => true
  | .bar2Write _ x bytes => aperture x bytes.length
  | .bar2Read _ _ x len => aperture x len
  | .bar2ReadAbort _ _ => true
  | .functionLevelReset _ _ => true
  | .hostReadCompletion _ _ _ _ => true
  | .hostReadTimeout _ _ => true
  | .msixMessage _ _ => true
  | .ethFrameReceive _ _ _ => true
  | .ptpSyncTimeout => true
  | .leapSecond => true
  | .outputGuardStart _ => true
  | .resultOutput _ => true
  | .ethTableRead _ _ => true
  | .snapshotLimitClose _ _ => true
  | .snapshotSelect _ _ => true
  | .snapshotRelease _ _ => true
  | .residualBatchStart _ _ => true
  | .calibBatchApply _ _ => true
  | .modeSetProcess _ => true
  | .trackTablePublish _ => true
  | .fusTableWrite _ _ => true
  | .fusTableRead _ _ => true
  | .tariffChangeEffect => true
  | .intervalClose => true
  | .setpointSetProcess => true
  | .setpointSetEffective => true
  | .ledgerOpen => true
  | .intervalCommit _ => true
  | .intervalCommitDone _ => true
  | .tableImageWrite _ => true
  | .ledgerOutputCopy => true
  | .ldgTableWrite _ => true
  | .ldgTableRead _ => true
  | .ldgFramReadStart _ => true
  | .ldgFramReadDone => true
  | .budgetWrite _ => true
  | .budgetReport _ meas => fits 16 meas
  | .grantAllocation => true
  | .budgetGrant e r => slotWf e r
  | .allowanceTake _ => true
  | .tokenGrant _ => true
  | .admissionWaitTimeout _ => true
  | .thermalSample _ _ _ _ => true
  | .thermalShutdown => true
  | .powerFail _ => true
  | .powerFailDomainsOff => true
  | .ledgerHaltedCrfOff => true
  | .powerReturn => true
  | .railSample mv => words 16 mv
  | .armGo _ => true
  | .armDiscard _ => true
  | .arm e r => slotWf e r
  | .confirm e r => slotWf e r
  | .packageConfirm => true
  | .armDecision => true
  | .commit e r => slotWf e r
  | .abort e r => slotWf e r
  | .changeSetApply => true
  | .heartbeatSend _ => true
  | .heartbeatCheck _ => true
  | .heartbeatStateSend _ => true
  | .faultGranuleWrite _ => true
  | .watchdogKick _ => true
  | .watchdogExpiry _ => true
  | .contextRelease _ => true
  | .engineHangDetect _ _ => true
  | .recoveryFenceEnd _ => true
  | .crashDumpDone _ => true
  | .chipReset => true
  | .recoveryBoundExpiry _ => true
  | .replayStart _ => true
  | .replaySuspectEnd _ => true
  | .domainRejoin _ => true
  | .packageHeartbeat n r => slotWf (.tray n) r
  | .trayOrder n r => slotWf (.tray n) r
  | .trayStop => true
  | .oosClear => true
  | .forceEngineReset _ _ => true
  | .forcePartitionReset _ => true
  | .forceChipReset _ => true
  | .smbusWrite a _ _ => aligned a
  | .smbusSetPointer a _ => aligned a
  | .smbusRead => true
  | .pwrFailRelease _ _ _ => true
  | .msRead _ a => aligned a
  | .configurationRequest _ q => cfgWf q
  | .privateInstruction op tdi => privWf op && !tdi.isEmpty
  | .abortedArmRearm => true

end Sys2Proof
end

