-- ==== Sys2Proof/Tests/Slice0.lean ====
section
/-! SUPPORT. Tests. The expected values come from the manual's worked examples and from the standards it names; a witness
shows, for each obligation with hypotheses and for each of its clauses, a state and operands that meet all of them. -/

set_option maxRecDepth 100000

namespace Sys2Proof.Tests

set_option Elab.async false

open Sys2Proof.Machine

/-! ### Small states -/

/-- The package after reset with every domain on. -/
def on : State := State.reset.setF cr0 .pwr 0 Reg.PWR_DOM_STATE 0xFFFF

/-- The package with the host domain of CR0 on, and no other. -/
def onHost : State := State.reset.setF cr0 .pwr 0 Reg.PWR_DOM_STATE 0x1000

/-- The state with a die, a link end or a bundle changed. -/
def withDie (d : Die) (f : DieSt → DieSt) (s : State) : State := s.setDie d (f (s.die d))
def withLink (e : LinkEnd) (f : LinkSt → LinkSt) (s : State) : State := s.setLink e (f (s.link e))
def withBun (e : LinkEnd) (b : Nat) (f : BundleSt → BundleSt) (s : State) : State := s.setBun e b (f (s.bun e b))

/-- The state with `BEAT` of a die, the training state of a link end, a register field or the model's clock set. -/
def atBeat (d : Die) (n : Nat) (s : State) : State := withDie d (fun x => { x with beat := n }) s
def inSt (e : LinkEnd) (st : Nat) (s : State) : State := s.setLf e Reg.IKL_LL_STATUS_STATE Reg.TRYP_LL_STATUS_STATE st
def reg (d : Die) (b : Blk) (i : Nat) (f : Fld) (v : Nat) (s : State) (k : Nat := 0) : State := s.setF d b i f v k
def atTime (n : Nat) (s : State) : State := { s with time := n }

/-- The state with one function enabled. -/
def enable (fn : Fn) (d : Die) (s : State) (i : Nat := 0) : State := s.setF d (fnRegs fn).blk i (fnRegs fn).enable 1

/-- Link ends that the witnesses use: an FP end, an SP end of MV0 and of CR0, a tray port. -/
def fp : LinkEnd := .ikl (.mv 0) 0
def sp : LinkEnd := .ikl (.mv 0) 2
def sc : LinkEnd := .ikl (.cr 0) 0
def tp : LinkEnd := .tray 0

/-- An image that names nothing, and what the operation table says of a plain descriptor. -/
def img : Image :=
  { hbm := 0, stackNeed := 0, crowns := 0, names := [], ports := [], contexts := [], ranges := [], records := [], hackStart := 0,
    hackMax := 0, budgets := [], routes := [], reserve := [], packages := [], faultAt := [], hostCtrs := [],
    barriers := [], outputs := [], landing := [], regs := [] }
def op : OpInfo := { defined := true, work := .nop, unit := 0, appends := none }

/-- The state with an image, a phase, a part of start-up, recovery, the ledger, a host port or a fusion front end changed. -/
def withImg (i : Image) (s : State) : State := { s with boot := { s.boot with image := some i } }
def inPhase (n : Nat) (s : State) : State := reg cr0 .boot 0 Reg.BOOT_STATUS_PHASE n s
def withBoot (f : BootSt → BootSt) (s : State) : State := { s with boot := f s.boot }
def withRec (f : RecSt → RecSt) (s : State) : State := { s with recov := f s.recov }
def withLdg (f : LdgSt → LdgSt) (s : State) : State := { s with ldg := f s.ldg }
def withHost (c : Crown) (f : HostSt → HostSt) (s : State) : State := s.setHost c (f (s.host c))
def withFus (c : Crown) (f : FusSt → FusSt) (s : State) : State := s.setFusion c (f (s.fusion c))
def withChg (f : ChgSt → ChgSt) (s : State) : State := { s with chg := f s.chg }
def withDom (k : Nat) (x : RcvDom) (s : State) : State := s.setDom k x

/-- A sideband slot of an Ikiper link whose bundle 0 carries a container. -/
def slot (k : Fin 32) (box : Nat) : SbSlot := ⟨k, [sidebandSeg k box]⟩

/-- What the eight lanes of a tray port carry of sideband slot 3 with container 0x09 + 1000 * 2 ^ 14 + 3 * 2 ^ 78. -/
def tray0 : SbSlot :=
  ⟨3, [0xd208634c625c872d69800faf35a48e8f98413a5580907bd12592a3d967de9510d51ef4b742739a2bfb9584ce310a41a94b7bfccbeb871ace15b91772678262b29c9605dee59ff51e0a71d03b7b919230ea6efb01e9,
    0x148a724b1d0b879d8b780ee7eb801e0e15b6e01fd1456d8e6f66181f39f27fc6a70471ba0ff627848e296365a97d6bbccb8ba31acece94a1a88cbe917ec157d9c52663cad0444e5e6d2d3bc45050789bdbdb811515,
    0x783c5df786f7077518f00f0b5ab6c6cf5ebad770a87af0fe80e8fe3a48c8e07bec13b631e4b144fc414bf71bfd31d4a38b03d3237923ddf9cb23c383eb23f807304e36d4ff7228be39dfa5c4ee71676572b4460b97,
    0xfc288911e2a007c5fa000e438492564ed34d0d3af9afe6a1ca1c45fc16e40aad9e09333ca934f95334f710b06546feb60bf38cf25c6a539676166a60f260cd6c69fe50c0caa993fe5e834e3bc5b08dce43013c1f6b,
    0xa2913714e289470151340cf4022daaaffb3cccc714e53e46f72f8d28f055afa5499855f41112f54026fabd24d7178b2c2b47eb3fa2d57955faf47d0aa1d2afe84afa1c5be8e91bce13a6eac4b161e89a2603a584d6,
    0x3213b6dd48de47b1b3c40eb5dc093a2e76cb168d45302819bddb36eeae7945733b82d0f95c9748ef53465a8f4f60a139abb7b4ee879cf73a47c1d4e9b8919a83134a7a4fdd32a08e74fa013b9aa0023117b6df902a,
    0x333465ae1222c759204ccf56cd3fe2ef3dc721e23c0fb5695255d0cbdf43dace70951772b7d02b979c24cef11b2c1e26eb3fc4d73071be62246ea9fb2d73355de6222f51f204c66e20089f3b24811dcfbed9188ea8,
    0xa15957d44875c7e9c2bcafd1b31b726eb030fba86ddaa33618a16b0d816f3018028f927ffa559638e998295a835b34336bcf9b061538300d995b001834300036bf924945c7df7d2e475474c40f40f7648f6c629a54]⟩

/-- What the eight lanes of a tray port carry of sideband slot 3 with container 0x0A + 5 * 2 ^ 6. -/
def tray1 : SbSlot :=
  ⟨3, [0x96cfea24625c872d698c0faf35a48e8f98413a5580907bd12592a3d967de9510d51ef4b742739a2bfb9584ce310a41a94b7bfccbeb871ace15b91772678262b29c9605dee59ff51e0a71d03b7b919230ea6efb01e9,
    0xdc7d0b1d0b879d8b780ee7eb801e0e15b6e01fd1456d8e6f66181f39f27fc6a70471ba0ff627848e296365a97d6bbccb8ba31acece94a1a88cbe917ec157d9c52663cad0444e5e6d2d3bc45050789bdbdb811515,
    0x82afe842b5f7077518f00f0b5ab6c6cf5ebad770a87af0fe80e8fe3a48c8e07bec13b631e4b144fc414bf71bfd31d4a38b03d3237923ddf9cb23c383eb23f807304e36d4ff7228be39dfa5c4ee71676572b4460b97,
    0xa0e7d82678a007c5fa000e438492564ed34d0d3af9afe6a1ca1c45fc16e40aad9e09333ca934f95334f710b06546feb60bf38cf25c6a539676166a60f260cd6c69fe50c0caa993fe5e834e3bc5b08dce43013c1f6b,
    0xb94294a56e89470151340ff7022daaaffb3cccc714e53e46f72f8d28f055afa5499855f41112f54026fabd24d7178b2c2b47eb3fa2d57955faf47d0aa1d2afe84afa1c5be8e91bce13a6eac4b161e89a2603a584d6,
    0xec8f5d1a92de47b1b3c40eb58c093a2e76cb168d45302819bddb36eeae7945733b82d0f95c9748ef53465a8f4f60a139abb7b4ee879cf73a47c1d4e9b8919a83134a7a4fdd32a08e74fa013b9aa0023117b6df902a,
    0xd3e6df9dba22c759204ccf596d3fe2ef3dc721e23c0fb5695255d0cbdf43dace70951772b7d02b979c24cef11b2c1e26eb3fc4d73071be62246ea9fb2d73355de6222f51f204c66e20089f3b24811dcfbed9188ea8,
    0xa03f372c7675c7e9c2bc4ed1b31b726eb030fba86ddaa33618a16b0d816f3018028f927ffa559638e998295a835b34336bcf9b061538300d995b001834300036bf924945c7df7d2e475474c40f40f7648f6c629a54]⟩

/-- What the eight lanes of a tray port carry of sideband slot 3 with container 0x0B + 5 * 2 ^ 6 + 600 * 2 ^ 70. -/
def tray2 : SbSlot :=
  ⟨3, [0x6dd62fec625c872d698d0faf35a48e8f98413a5580907bd12592a3d967de9510d51ef4b742739a2bfb9584ce310a41a94b7bfccbeb871ace15b91772678262b29c9605dee59ff51e0a71d03b7b919230ea6efb01e9,
    0x8ef63c2f1d0b879d8b780ee7eb801e0e15b6e01fd1456d8e6f66181f39f27fc6a70471ba0ff627848e296365a97d6bbccb8ba31acece94a1a88cbe917ec157d9c52663cad0444e5e6d2d3bc45050789bdbdb811515,
    0xea08f277a8f7077518f00f0b5ab6c6cf5ebad770a87af0fe80e8fe3a48c8e07bec13b631e4b144fc414bf71bfd31d4a38b03d3237923ddf9cb23c383eb23f807304e36d4ff7228be39dfa5c4ee71676572b4460b97,
    0x73510d0c12a007c5fa006e438492564ed34d0d3af9afe6a1ca1c45fc16e40aad9e09333ca934f95334f710b06546feb60bf38cf25c6a539676166a60f260cd6c69fe50c0caa993fe5e834e3bc5b08dce43013c1f6b,
    0x187d786ac889470151340db6022daaaffb3cccc714e53e46f72f8d28f055afa5499855f41112f54026fabd24d7178b2c2b47eb3fa2d57955faf47d0aa1d2afe84afa1c5be8e91bce13a6eac4b161e89a2603a584d6,
    0xbeee067632de47b1b3c40eb58c093a2e76cb168d45302819bddb36eeae7945733b82d0f95c9748ef53465a8f4f60a139abb7b4ee879cf73a47c1d4e9b8919a83134a7a4fdd32a08e74fa013b9aa0023117b6df902a,
    0xdacb72c3ec22c759204c8f596d3fe2ef3dc721e23c0fb5695255d0cbdf43dace70951772b7d02b979c24cef11b2c1e26eb3fc4d73071be62246ea9fb2d73355de6222f51f204c66e20089f3b24811dcfbed9188ea8,
    0x74be7f41d275c7e9c2bcbe91b31b726eb030fba86ddaa33618a16b0d816f3018028f927ffa559638e998295a835b34336bcf9b061538300d995b001834300036bf924945c7df7d2e475474c40f40f7648f6c629a54]⟩

/-- What the eight lanes of a tray port carry of sideband slot 3 with container 0x0B + 5 * 2 ^ 6. -/
def tray3 : SbSlot :=
  ⟨3, [0xa357bef8625c872d69870faf35a48e8f98413a5580907bd12592a3d967de9510d51ef4b742739a2bfb9584ce310a41a94b7bfccbeb871ace15b91772678262b29c9605dee59ff51e0a71d03b7b919230ea6efb01e9,
    0x2632d1ef1d0b879d8b780ee7eb801e0e15b6e01fd1456d8e6f66181f39f27fc6a70471ba0ff627848e296365a97d6bbccb8ba31acece94a1a88cbe917ec157d9c52663cad0444e5e6d2d3bc45050789bdbdb811515,
    0x67e17bda17f7077518f00f0b5ab6c6cf5ebad770a87af0fe80e8fe3a48c8e07bec13b631e4b144fc414bf71bfd31d4a38b03d3237923ddf9cb23c383eb23f807304e36d4ff7228be39dfa5c4ee71676572b4460b97,
    0xab159a09a6a007c5fa000e438492564ed34d0d3af9afe6a1ca1c45fc16e40aad9e09333ca934f95334f710b06546feb60bf38cf25c6a539676166a60f260cd6c69fe50c0caa993fe5e834e3bc5b08dce43013c1f6b,
    0x6fd313ac1989470151340ff6022daaaffb3cccc714e53e46f72f8d28f055afa5499855f41112f54026fabd24d7178b2c2b47eb3fa2d57955faf47d0aa1d2afe84afa1c5be8e91bce13a6eac4b161e89a2603a584d6,
    0x745112d48fde47b1b3c40eb58c093a2e76cb168d45302819bddb36eeae7945733b82d0f95c9748ef53465a8f4f60a139abb7b4ee879cf73a47c1d4e9b8919a83134a7a4fdd32a08e74fa013b9aa0023117b6df902a,
    0xabec45ce9322c759204ccf596d3fe2ef3dc721e23c0fb5695255d0cbdf43dace70951772b7d02b979c24cef11b2c1e26eb3fc4d73071be62246ea9fb2d73355de6222f51f204c66e20089f3b24811dcfbed9188ea8,
    0xd08119b2a275c7e9c2bc14d1b31b726eb030fba86ddaa33618a16b0d816f3018028f927ffa559638e998295a835b34336bcf9b061538300d995b001834300036bf924945c7df7d2e475474c40f40f7648f6c629a54]⟩

/-- What the eight lanes of a tray port carry of sideband slot 3 with container 0x18 + 2 ^ 6 + 3 * 2 ^ 12 + 2 ^ 62. -/
def tray4 : SbSlot :=
  ⟨3, [0x4fbcc254625c872d698a0faf35a48e8f98413a5580907bd12592a3d967de9510d51ef4b742739a2bfb9584ce310a41a94b7bfccbeb871ace15b91772678262b29c9605dee59ff51e0a71d03b7b919230ea6efb01e9,
    0xfa5e18cb1d0b879d8b780ee7eb801e0e15b6e01fd1456d8e6f66181f39f27fc6a70471ba0ff627848e296365a97d6bbccb8ba31acece94a1a88cbe917ec157d9c52663cad0444e5e6d2d3bc45050789bdbdb811515,
    0x900e2ce58bf7077518f01f0b5ab6c6cf5ebad770a87af0fe80e8fe3a48c8e07bec13b631e4b144fc414bf71bfd31d4a38b03d3237923ddf9cb23c383eb23f807304e36d4ff7228be39dfa5c4ee71676572b4460b97,
    0x892ee1f337a007c5fa000e438492564ed34d0d3af9afe6a1ca1c45fc16e40aad9e09333ca934f95334f710b06546feb60bf38cf25c6a539676166a60f260cd6c69fe50c0caa993fe5e834e3bc5b08dce43013c1f6b,
    0xa535b3e3c389470151340fe5022daaaffb3cccc714e53e46f72f8d28f055afa5499855f41112f54026fabd24d7178b2c2b47eb3fa2d57955faf47d0aa1d2afe84afa1c5be8e91bce13a6eac4b161e89a2603a584d6,
    0x75dbab3ee2de47b1b3c40eb9cc093a2e76cb168d45302819bddb36eeae7945733b82d0f95c9748ef53465a8f4f60a139abb7b4ee879cf73a47c1d4e9b8919a83134a7a4fdd32a08e74fa013b9aa0023117b6df902a,
    0x3239037fe822c759204c0f596d3fe2ef3dc721e23c0fb5695255d0cbdf43dace70951772b7d02b979c24cef11b2c1e26eb3fc4d73071be62246ea9fb2d73355de6222f51f204c66e20089f3b24811dcfbed9188ea8,
    0x13059d42a875c7e9c2bc2f91b31b726eb030fba86ddaa33618a16b0d816f3018028f927ffa559638e998295a835b34336bcf9b061538300d995b001834300036bf924945c7df7d2e475474c40f40f7648f6c629a54]⟩

/-- What the eight lanes of a tray port carry of sideband slot 3 with container 0x18 + 3 * 2 ^ 6 + 9 * 2 ^ 16. -/
def tray5 : SbSlot :=
  ⟨3, [0x10d0840625c872d698a0faf35a48e8f98413a5580907bd12592a3d967de9510d51ef4b742739a2bfb9584ce310a41a94b7bfccbeb871ace15b91772678262b29c9605dee59ff51e0a71d03b7b919230ea6efb01e9,
    0x962e0c131d0b879d8b780ee7eb801e0e15b6e01fd1456d8e6f66181f39f27fc6a70471ba0ff627848e296365a97d6bbccb8ba31acece94a1a88cbe917ec157d9c52663cad0444e5e6d2d3bc45050789bdbdb811515,
    0xe4f1628e25f7077518f00f0b5ab6c6cf5ebad770a87af0fe80e8fe3a48c8e07bec13b631e4b144fc414bf71bfd31d4a38b03d3237923ddf9cb23c383eb23f807304e36d4ff7228be39dfa5c4ee71676572b4460b97,
    0x1a879b8d09a007c5fa000e438492564ed34d0d3af9afe6a1ca1c45fc16e40aad9e09333ca934f95334f710b06546feb60bf38cf25c6a539676166a60f260cd6c69fe50c0caa993fe5e834e3bc5b08dce43013c1f6b,
    0x7b942cb33789470151340fe5022daaaffb3cccc714e53e46f72f8d28f055afa5499855f41112f54026fabd24d7178b2c2b47eb3fa2d57955faf47d0aa1d2afe84afa1c5be8e91bce13a6eac4b161e89a2603a584d6,
    0x8ff6c38395de47b1b3c40eb5ec093a2e76cb168d45302819bddb36eeae7945733b82d0f95c9748ef53465a8f4f60a139abb7b4ee879cf73a47c1d4e9b8919a83134a7a4fdd32a08e74fa013b9aa0023117b6df902a,
    0x1e444b1f9f22c759204c0f59fd3fe2ef3dc721e23c0fb5695255d0cbdf43dace70951772b7d02b979c24cef11b2c1e26eb3fc4d73071be62246ea9fb2d73355de6222f51f204c66e20089f3b24811dcfbed9188ea8,
    0xfa24b0d5a375c7e9c2bc6311b31b726eb030fba86ddaa33618a16b0d816f3018028f927ffa559638e998295a835b34336bcf9b061538300d995b001834300036bf924945c7df7d2e475474c40f40f7648f6c629a54]⟩

/-- What the eight lanes of a tray port carry of sideband slot 3 with container
0x1C + armBody opConfirm (⟨5, 0, 3, 20, 0, true, 0, 0, false⟩ : ArmMsg). -/
def tray6 : SbSlot :=
  ⟨3, [0xd6dc7430625c872d69840faf35a48e8f98413a5580907bd12592a3d967de9510d51ef4b742739a2bfb9584ce310a41a94b7bfccbeb871ace15b91772678262b29c9605dee59ff51e0a71d03b7b919230ea6efb01e9,
    0x905dda931d0b879d8b780ee7eb801e0e15b6e01fd1456d8e6f66181f39f27fc6a70471ba0ff627848e296365a97d6bbccb8ba31acece94a1a88cbe917ec157d9c52663cad0444e5e6d2d3bc45050789bdbdb811515,
    0x5cb8323452f7077518f00f0b5ab6c6cf5ebad770a87af0fe80e8fe3a48c8e07bec13b631e4b144fc414bf71bfd31d4a38b03d3237923ddf9cb23c383eb23f807304e36d4ff7228be39dfa5c4ee71676572b4460b97,
    0xd4c54141f3a007c5fa004e438492564ed34d0d3af9afe6a1ca1c45fc16e40aad9e09333ca934f95334f710b06546feb60bf38cf25c6a539676166a60f260cd6c69fe50c0caa993fe5e834e3bc5b08dce43013c1f6b,
    0xd460ba363e89470151340fe1022daaaffb3cccc714e53e46f72f8d28f055afa5499855f41112f54026fabd24d7178b2c2b47eb3fa2d57955faf47d0aa1d2afe84afa1c5be8e91bce13a6eac4b161e89a2603a584d6,
    0xc26cda6d37de47b1b3c40ea5dc093a2e76cb168d45302819bddb36eeae7945733b82d0f95c9748ef53465a8f4f60a139abb7b4ee879cf73a47c1d4e9b8919a83134a7a4fdd32a08e74fa013b9aa0023117b6df902a,
    0xc2df31e0ba22c759204c8d797d3fe2ef3dc721e23c0fb5695255d0cbdf43dace70951772b7d02b979c24cef11b2c1e26eb3fc4d73071be62246ea9fb2d73355de6222f51f204c66e20089f3b24811dcfbed9188ea8,
    0xefef578f6475c7e9c2bc9ddba31b726eb030fba86ddaa33618a16b0d816f3018028f927ffa559638e998295a835b34336bcf9b061538300d995b001834300036bf924945c7df7d2e475474c40f40f7648f6c629a54]⟩

/-- What the eight lanes of a tray port carry of sideband slot 3 with container
0x1C + armBody opCommit (⟨5, 0, 0, 20, 0, true, 0, 0, false⟩ : ArmMsg). -/
def tray7 : SbSlot :=
  ⟨3, [0x116aba80625c872d69890faf35a48e8f98413a5580907bd12592a3d967de9510d51ef4b742739a2bfb9584ce310a41a94b7bfccbeb871ace15b91772678262b29c9605dee59ff51e0a71d03b7b919230ea6efb01e9,
    0xf60f66af1d0b879d8b780ee7eb801e0e15b6e01fd1456d8e6f66181f39f27fc6a70471ba0ff627848e296365a97d6bbccb8ba31acece94a1a88cbe917ec157d9c52663cad0444e5e6d2d3bc45050789bdbdb811515,
    0x7870b1cb46f7077518f00f0b5ab6c6cf5ebad770a87af0fe80e8fe3a48c8e07bec13b631e4b144fc414bf71bfd31d4a38b03d3237923ddf9cb23c383eb23f807304e36d4ff7228be39dfa5c4ee71676572b4460b97,
    0xead927d9c0a007c5fa004e438492564ed34d0d3af9afe6a1ca1c45fc16e40aad9e09333ca934f95334f710b06546feb60bf38cf25c6a539676166a60f260cd6c69fe50c0caa993fe5e834e3bc5b08dce43013c1f6b,
    0x8282b6a7d489470151340fe1022daaaffb3cccc714e53e46f72f8d28f055afa5499855f41112f54026fabd24d7178b2c2b47eb3fa2d57955faf47d0aa1d2afe84afa1c5be8e91bce13a6eac4b161e89a2603a584d6,
    0xef0b9a8287de47b1b3c40ea5dc093a2e76cb168d45302819bddb36eeae7945733b82d0f95c9748ef53465a8f4f60a139abb7b4ee879cf73a47c1d4e9b8919a83134a7a4fdd32a08e74fa013b9aa0023117b6df902a,
    0xdec71adcd622c759204c0b597d3fe2ef3dc721e23c0fb5695255d0cbdf43dace70951772b7d02b979c24cef11b2c1e26eb3fc4d73071be62246ea9fb2d73355de6222f51f204c66e20089f3b24811dcfbed9188ea8,
    0x449cd500db75c7e9c2bc1f1bb31b726eb030fba86ddaa33618a16b0d816f3018028f927ffa559638e998295a835b34336bcf9b061538300d995b001834300036bf924945c7df7d2e475474c40f40f7648f6c629a54]⟩

/-- What the eight lanes of a tray port carry of sideband slot 3 with container
0x1C + armBody opAbort (⟨5, 0, 0, 20, 0, true, 0, 0, false⟩ : ArmMsg). -/
def tray8 : SbSlot :=
  ⟨3, [0x3a319214625c872d69880faf35a48e8f98413a5580907bd12592a3d967de9510d51ef4b742739a2bfb9584ce310a41a94b7bfccbeb871ace15b91772678262b29c9605dee59ff51e0a71d03b7b919230ea6efb01e9,
    0xb812127b1d0b879d8b780ee7eb801e0e15b6e01fd1456d8e6f66181f39f27fc6a70471ba0ff627848e296365a97d6bbccb8ba31acece94a1a88cbe917ec157d9c52663cad0444e5e6d2d3bc45050789bdbdb811515,
    0x3639607133f7077518f00f0b5ab6c6cf5ebad770a87af0fe80e8fe3a48c8e07bec13b631e4b144fc414bf71bfd31d4a38b03d3237923ddf9cb23c383eb23f807304e36d4ff7228be39dfa5c4ee71676572b4460b97,
    0x341cae0638a007c5fa004e438492564ed34d0d3af9afe6a1ca1c45fc16e40aad9e09333ca934f95334f710b06546feb60bf38cf25c6a539676166a60f260cd6c69fe50c0caa993fe5e834e3bc5b08dce43013c1f6b,
    0xa2b9731ca289470151340fe1022daaaffb3cccc714e53e46f72f8d28f055afa5499855f41112f54026fabd24d7178b2c2b47eb3fa2d57955faf47d0aa1d2afe84afa1c5be8e91bce13a6eac4b161e89a2603a584d6,
    0xce424758fdde47b1b3c40ea5dc093a2e76cb168d45302819bddb36eeae7945733b82d0f95c9748ef53465a8f4f60a139abb7b4ee879cf73a47c1d4e9b8919a83134a7a4fdd32a08e74fa013b9aa0023117b6df902a,
    0x1489cf68c922c759204c49597d3fe2ef3dc721e23c0fb5695255d0cbdf43dace70951772b7d02b979c24cef11b2c1e26eb3fc4d73071be62246ea9fb2d73355de6222f51f204c66e20089f3b24811dcfbed9188ea8,
    0xd41ad5b62475c7e9c2bc3c1bb31b726eb030fba86ddaa33618a16b0d816f3018028f927ffa559638e998295a835b34336bcf9b061538300d995b001834300036bf924945c7df7d2e475474c40f40f7648f6c629a54]⟩

/-- What the lanes of a bundle carry of a flit in a slot. -/
def flitOn (slot header : Nat) (payload : List Byte) : List Nat :=
  (List.range 18).map fun l => slotOnLane (flitSyms header payload) l slot

/-- Package 1 of a tray whose master is package 0, cabled to it by tray port 0. -/
def follower : State :=
  { on |> reg cr0 .bal 0 Reg.BAL_CTL_PROFILE 2 |> reg cr0 .boot 0 Reg.BOOT_STRAP_PKG_ID 1 |>
    reg cr0 .trayPort 0 Reg.TRYP_PORT_CTL_PEER_VALID 1 with topo := [(0, 0, 1, 0)] }

/-- The SHA-384 of the public key of the witnesses, whose private key is 1, and the state fused with it. -/
def keyHash : Nat := 0xa19d4db171b582eb8052b0cfe555e17894aa22d1c8a9770950697dd8f796d2fa4bf0a56ad80006b7ea08e1191f814b65
def rooted (s : State) : State :=
  (List.range 12).foldl (fun t i => t.setF cr0 .sec 0 Reg.SEC_ROOT_HASH (leNat (cut (beBytes 48 keyHash) (4 * i) 4)) (4 * i)) s

/-- The header of an object of a type, signed with that key. -/
def key : Nat := 0xaa87ca22be8b05378eb1c71ef320ad746e1d3b628ba79b9859f741e082542a385502f25dbf55296c3a545e3872760ab73617de4a96262c6f5d9e98bf9292dc29f8f41dbd289a147ce9da3113b5f0b8c00a60b1ce1d7e819d7a431d7c90ea0e5f
def object (type len hash r q : Nat) : List Byte :=
  beBytes 4 0x54534F31 ++ beBytes 4 (type * 2 ^ 24) ++ beBytes 4 len ++ beBytes 20 0 ++ beBytes 96 key ++ beBytes 48 hash ++
    beBytes 48 r ++ beBytes 48 q

/-- A configuration record without entries. -/
def recObj : List Byte :=
  object 1 0
    0x38b060a751ac96384cd9327eb1b1e36a21fdb71114be07434c0cc7bf63f6e1da274edebfe76f65fbd51ad2f14898b95b
    0x283c1d7365ce4788f29f8ebf234edffead6fe997fbea5ffa2d58cc9dfa7b1c508b05526f55b9ebb2040f05b48fb6d0e1
    0x9c32de3a9d04be9018c0e9f5417912faf7a0050effd71b0141f54dba7f9a5417dc0a0de6b350c643f71aa6abeb826a9c

/-- A firmware without bytes. -/
def fwObj : List Byte :=
  object 2 0
    0x38b060a751ac96384cd9327eb1b1e36a21fdb71114be07434c0cc7bf63f6e1da274edebfe76f65fbd51ad2f14898b95b
    0x283c1d7365ce4788f29f8ebf234edffead6fe997fbea5ffa2d58cc9dfa7b1c508b05526f55b9ebb2040f05b48fb6d0e1
    0x10da780baf814a17a7d101152264fadce49eeadc6f3c4696c7fafa06bf733b4b84468ae47065ba08dad77ef48a3a39e9

/-- An image without bytes. -/
def imgObj : List Byte :=
  object 3 0
    0x38b060a751ac96384cd9327eb1b1e36a21fdb71114be07434c0cc7bf63f6e1da274edebfe76f65fbd51ad2f14898b95b
    0x283c1d7365ce4788f29f8ebf234edffead6fe997fbea5ffa2d58cc9dfa7b1c508b05526f55b9ebb2040f05b48fb6d0e1
    0x885c07ce93080a03722d1c84ab626743d4ab85307cf98fb132f1e235155f560662c6c26a1f52f526386f5cc7cd007fb2

/-- A debug token for scope 1 and one turn. -/
def tokObj : List Byte :=
  object 4 64
    0x19b8a7e1a6566c2011c09994fff5010ecf75ca8738e337ddffe815908eb9a47d5b2af6711d59992a4aa066dfdaf04b7c
    0x283c1d7365ce4788f29f8ebf234edffead6fe997fbea5ffa2d58cc9dfa7b1c508b05526f55b9ebb2040f05b48fb6d0e1
    0x8b1aa52461557cd962b6bfac809e75b99c4fb22f337cc42f462126b5ba7a1ff2a6c1acb753d4c5eddfb5a98d39ccc917
    ++ List.replicate 32 0 ++ leBytes 4 1 ++ leBytes 4 1 ++ List.replicate 24 0

/-- A pair whose first part is known. -/
theorem pair_eq {α β : Type} {x : α × β} {a : α} (h : x.1 = a) : x = (a, x.2) := by rw [← h]

/-! ### Well-formedness: a term for each kind of check, which the check refuses -/

theorem test_wf_misaligned_register : Instr.wf (.registerWrite 0 0x10002 0 true) = false := by decide
theorem test_wf_aligned_register : Instr.wf (.registerWrite 0 0x10004 0 true) = true := by decide
theorem test_wf_misaligned_read : Instr.wf (.msRead 0 0x10001) = false := by decide
theorem test_wf_misaligned_smbus : Instr.wf (.smbusWrite 3 0 true) = false := by decide
theorem test_wf_monitor : Instr.wf (.monitorNotGood .bus (2 ^ 16)) = false := by decide
theorem test_wf_flash : Instr.wf (.flashDiscover (some ⟨true, true, 64, 200, 12⟩)) = false := by decide
theorem test_wf_port_address : Instr.wf (.flashPass [] [] [] [] [] [] [⟨0, 0, 2 ^ 48, 0, 0, 0, [], []⟩]) = false := by decide
theorem test_wf_image_packages : Instr.wf (.imageLoad { img with packages := [16] } true) = false := by decide
theorem test_wf_image_record : Instr.wf (.imageLoad { img with records := [⟨0, cr0, 0, 0, 0, 2 ^ 17, 0⟩] } true) = false := by decide
theorem test_wf_image_output :
    Instr.wf (.imageLoad { img with outputs := [⟨0, none, 0, 0, 0, 0, false, 0, 0, 0, 0, 0, 0, false, 0, 0, 0, 0, 0⟩] } true) = false := by
  decide
theorem test_wf_image_context :
    Instr.wf (.imageLoad { img with contexts := [⟨0, false, false, [(2 ^ 52, 1)], []⟩] } true) = false := by decide
theorem test_wf_image_register : Instr.wf (.imageLoad { img with regs := [(2 ^ 32, 0)] } true) = false := by decide
theorem test_wf_page : Instr.wf (.flashCommandDone true (List.replicate 257 0)) = false := by decide
theorem test_wf_token : Instr.wf (.jtagUnlock []) = false := by decide
theorem test_wf_shift : Instr.wf (.idcode []) = false := by decide
theorem test_wf_private : Instr.wf (.privateInstruction (.msRead 1) [true]) = false := by decide
theorem test_wf_private_shift : Instr.wf (.privateInstruction (.halt cr0 true) []) = false := by decide
theorem test_wf_slot : Instr.wf (.beatLoad sp ⟨0, [2 ^ 128]⟩) = false := by decide
theorem test_wf_slot_bundles : Instr.wf (.beatLoad sp ⟨0, List.replicate 17 0⟩) = false := by decide
theorem test_wf_tray_slot : Instr.wf (.beatSyncReq 0 ⟨0, [(2 ^ 170) ^ 8]⟩) = false := by decide
theorem test_wf_flit_lanes : Instr.wf (.flitReceive sp 0 (List.replicate 22 0)) = false := by decide
theorem test_wf_flit_lane : Instr.wf (.flitReceive sp 0 [2 ^ 32]) = false := by decide
theorem test_wf_marker : Instr.wf (.frameMarker sp 0 (2 ^ 128)) = false := by decide
theorem test_wf_block : Instr.wf (.frameMarker tp 0 ((2 ^ 140) ^ 2)) = false := by decide
theorem test_wf_search_lanes : Instr.wf (.searchPointEnd sp 0 (List.replicate 22 []) [] [] []) = false := by decide
theorem test_wf_search_taps : Instr.wf (.searchPointEnd sp 0 [] [] [2 ^ 32] []) = false := by decide
theorem test_wf_bundles : Instr.wf (.ckCountCheck sp (List.replicate 17 0)) = false := by decide
theorem test_wf_lane_test : Instr.wf (.lanetestEnd sp (List.replicate 17 [])) = false := by decide
theorem test_wf_return : Instr.wf (.recalReturnMission sp (List.replicate 22 []) []) = false := by decide
theorem test_wf_arrivals : Instr.wf (.pinEcho sp (slot 1 0) [2 ^ 64]) = false := by decide
theorem test_wf_notice : Instr.wf (.lossNotice sp []) = false := by decide
theorem test_wf_stale : Instr.wf (.cdcStale cr0 0 256 0) = false := by decide
theorem test_wf_rail : Instr.wf (.railSample [2 ^ 16]) = false := by decide
theorem test_wf_report : Instr.wf (.budgetReport cr0 (2 ^ 16)) = false := by decide
theorem test_wf_operands :
    Instr.wf (.descriptorStart 0 0 { op with work := .move ⟨.mem (2 ^ 52), .mem 0, 1, 0, 0, 0⟩ }) = false := by decide
theorem test_wf_host_address :
    Instr.wf (.descriptorStart 0 0 { op with work := .move ⟨.mem 0, .host 0 (2 ^ 64), 1, 0, 0, 0⟩ }) = false := by decide
theorem test_wf_command_flit : Instr.wf (.write cr0 [] [] [] []) = false := by decide
theorem test_wf_data_flits : Instr.wf (.write cr0 (List.replicate 64 0) [[]] [] []) = false := by decide
theorem test_wf_aperture : Instr.wf (.bar2Read 0 0 0 0) = false := by decide
theorem test_wf_vector : Instr.wf (.configurationRequest 0 (.vector 0 2 0 false)) = false := by decide
theorem test_wf_bar4 : Instr.wf (.configurationRequest 0 (.bar4 0 2)) = false := by decide

/-! ### Figures of the manual's worked examples, and check values of the standards it names -/

/-- Chapter 2's example: `TOUT` one PMU period after the anchor (R45). -/
theorem test_tai_of_example : taiAt (1468006400, 1893456037250000000, 400) 1500006400 = 1893456037270000001 := by decide +kernel

/-- Chapter 11's example: the deadline of the snapshot of t_k, 15 ms after it, falls on beat 100,684,671,872 (R13, R307). -/
theorem test_deadline_of_example :
    beatOfTai (100684267520, 1893456099994747280, 400) (1893456099980000000 + 15000000) = 100684671872 := by decide +kernel

/-- Chapter 12's example: the boundary beat of interval 2,103,846 (R332). -/
theorem test_boundary_of_example : beatOfTai (2097152000000, 1893461362000000000, 0) 1893461363000000000 = 2098752000000 := by
  decide +kernel

/-- Chapter 12's example: 317 blocks at 40 MHz take 8,142.8 µs (R348), and what account 17 closes with (R335). -/
theorem test_write_time_of_example : writeBeats 317 40 = 13028480 := by decide +kernel
theorem test_energy_of_example : roundAway 175680000000000000000 5760000000 = 30500000000 := by decide +kernel
theorem test_cost_of_example : roundAway (175680000000000000000 * 84500) 5760000000000000 = 2577250000 := by decide +kernel
theorem test_partial_of_example :
    roundAway 201600000000 5760000000 = 35 ∧ roundAway (201600000000 * 91200) 5760000000000000 = 3 := by decide +kernel

/-- Chapter 5's example: RT = 17 (an echo 21 beats after its probe that was held for 4) and a second bundle one beat later give depths of 8 and 7 beats on S00 at MV0 (R123). -/
theorem test_pin_of_example :
    (match exec (.pinEcho sp (slot 1 (0x06 + 3 * 2 ^ 6 + 4 * 2 ^ 14)) [121, 122])
        (on |> inSt sp stPin |> withLink sp fun l => { l with probeAt := 101, probeId := 3 }) with
      | .next t => (t.getF (.mv 0) .ikl 2 Reg.IKL_PIN_DEPTH_DEPTH0, t.getF (.mv 0) .ikl 2 Reg.IKL_PIN_DEPTH_DEPTH1)
      | _ => (0, 0)) = (7, 6) := by decide +kernel

/-- Chapter 7's example: RT = 1,377 gives A = 19 and P = 903 on a tray port (R185). -/
theorem test_tray_pin_of_example :
    (let t := (on |> inSt tp stPin).setPins tp 1377 fun _ => 0
     (t.getF cr0 .trayPort 0 Reg.TRYP_LAT_ARRIVAL, t.getF cr0 .trayPort 0 Reg.TRYP_PIN_DEPTH_DEPTH0)) = (19, 902) := by
  decide +kernel

/-- Chapter 6's example: the flit of slot 300 of bundle 1, delivered on beat B + 624, lands at 0x1000_0010_8440 (R157). -/
theorem test_landing_of_example :
    (match exec (.flitReceive sp 1 (flitOn 300 (1 + 4 * 0x120) (List.replicate 64 7)))
        (on |> enable .gtr (.mv 0) |> inSt sp stLive |> (fun s => (((((s.setTbl 1 0 0 1 2 0 (2 * 2 ^ 16)).setTbl 0 0 0 1 2 0
          (0x00D80012 + 2 ^ 32 * 0x01200003 + 2 ^ 96 * 9)).setTbl 0 0 0 1 2 1 (0x00C68012 + 2 ^ 32 * 0x01200003)).setTbl 2 0 0 0 0 1
          (15625 + 2 ^ 32 * 6190)).setTbl 3 0 0 0 0 0x120 (3 + 32 + 2 ^ 8 * 1200 + 2 ^ 32 * 0x100000100000))) |>
          atBeat (.mv 0) 100684677744) with
      | .next t => (t.rdByte 0x10000010843F, t.rdByte 0x100000108440, t.rdByte 0x10000010847F, t.rdByte 0x100000108480)
      | _ => (0, 0, 0, 0)) = (0, 7, 7, 0) := by decide +kernel

/-- The check values of CRC-32 and CRC-CCITT over "123456789". -/
theorem test_crc32 : crc32 [0x31, 0x32, 0x33, 0x34, 0x35, 0x36, 0x37, 0x38, 0x39] = 0xCBF43926 := by decide +kernel
theorem test_crc_ccitt : crcCcitt [0x31, 0x32, 0x33, 0x34, 0x35, 0x36, 0x37, 0x38, 0x39] = 0x29B1 := by decide +kernel

/-- SHA-384 of "abc" (FIPS 180-4). -/
theorem test_sha384 : sha384 [0x61, 0x62, 0x63] =
    0xcb00753f45a35e8bb5a03d699ac65007272c32ab0eded1631a8b605a43ff5bed8086072ba1e7cc2358baeca134c825a7 := by decide +kernel

/-- `BEAT` of a die whose beat PLL has locked counts on an empty queue, that of another stands still (R34). -/
theorem test_beat_counts :
    (match step (withDie cr0 (fun x => { x with run := true, beat := 4 }) on) with
      | .next t => (t.beat cr0, t.beat (.mv 0))
      | _ => (0, 1)) = (5, 0) := by decide +kernel

/-- Chapter 13's example: the second study's allocations for turns N + 2 and N + 3, in 1/8 W (R359). -/
def study : State :=
  on |> reg cr0 .pwr 0 Reg.PWR_BUDGET 1400 |> fun s => { s with
    reserve := [260, 260, 260, 260, 70, 60], grants := Tab.set 0 s.grants 2 1024,
    reports := Tab.set none (Tab.set none s.reports 2 (some ⟨50001, 1024, false, 1024, 0⟩)) 3 (some ⟨50001, 1024, false, 128, 0⟩) }
theorem test_grants_of_example :
    (let t := study.allocate 50001
     let u := { study with grants := t }.allocate 50001
     (Tab.get 0 t 2, Tab.get 0 t 3, Tab.get 0 t 0, Tab.get 0 u 2, Tab.get 0 u 3)) = (760, 496, 128, 760, 760) := by decide +kernel

/-- Chapter 11's example: P = 0.001 and λ = 0.999 give a gain of 0.001 (R316). -/
theorem test_gain_of_example : fpDiv 0x3A83126F (fpAdd 0x3F7FBE77 0x3A83126F) = 0x3A83126F := by decide +kernel

/-! ### Codes and formats -/

/-- The generator polynomial of six check symbols over GF(2⁸) with 0x11D and roots α⁰ to α⁵, as ISO/IEC 18004 prints it for its
codes of the same family: α¹⁶⁶, α⁰, α¹³⁴, α⁵, α¹⁷⁶, α¹⁵ below x⁶ (R119). -/
theorem test_flit_generator :
    rsFlit.checks (List.replicate 65 0 ++ [1]) = [166, 0, 134, 5, 176, 15].map rsFlit.alpha := by decide +kernel

/-- Three symbols in error are put right, four are not passed on as the codeword sent (R120). -/
def sentFlit : List Nat := flitSyms 0x1234 ((List.range 64).map (BitVec.ofNat 8))
theorem test_flit_corrects :
    (rsFlit.decode (((sentFlit.set 0 99).set 40 7).set 71 1) []).map (·.1) = some sentFlit := by decide +kernel
theorem test_flit_detects :
    (rsFlit.decode ((((sentFlit.set 0 99).set 20 50).set 40 7).set 71 1) []).map (·.1) ≠ some sentFlit := by decide +kernel

/-- A lane scrambled with its code reads back what was put on it, and the lanes of a lane code differ (R68, R69). -/
theorem test_lane_reads_back :
    (Nat.xor (slotOnLane sentFlit 5 300) (scrSpan 5 9600 32), decide (scrSpan 5 9600 32 = scrSpan 6 9600 32)) =
      (laneOfSyms sentFlit 5, false) := by decide +kernel

/-- The largest magnitudes of the OCP formats: 448 and 57,344 of the two MXFP8, 28 and 7.5 of the two MXFP6, 6 of MXFP4 (R213). -/
theorem test_mx_values :
    [(Fmt.mxfp8e4m3, 0x7E), (.mxfp8e5m2, 0x7B), (.mxfp6e3m2, 0x1F), (.mxfp6e2m3, 0x1F), (.mxfp4, 7)].map
      (fun p => (fmtValue p.1 p.2).toFp) = [0x43E00000, 0x47600000, 0x41E00000, 0x40F00000, 0x40C00000] := by decide +kernel

/-- BF16 of 1 + 2⁻⁸ rounds to even (R215). -/
theorem test_bf16_to_even : (bf16Of 0x3F808000, bf16Of 0x3F818000) = (0x3F80, 0x3F82) := by decide +kernel

/-- In mode 0 a run of 16 KiB is spread over both stacks of an H8 die and over every pseudo-channel of each, and a scratchpad run of
4 KiB over every bank (R246, R247). -/
theorem test_memory_spreads :
    (on.hbmStackOf (.mv 0) 0x1FFF, on.hbmStackOf (.mv 0) 0x2000, hbmChannel 0x1FFF, spBank 0xFC0, spBank 0x1000) =
      (0, 1, 31, 63, 0) := by decide +kernel

/-! ### Witnesses -/

theorem test_witness_BeatCommandsComplete_tray0 :
    (∃ (n : Fin 8) (r : SbSlot) (box : Nat) (u : State) (s : State), s.sbTakesFirst (.tray n) r 0x09 true = (some box, u) ∧
      u.isF cr0 .bal 0 Reg.BAL_STATUS_BEAT_VALID = false ∧ u.isSyncPort n = true ∧ (u.link (.tray n)).peerBv = true ∧ stSync
      ≤ u.lst (.tray n) ∧ u.lst (.tray n) ≤ stDegraded) :=
  ⟨0, tray0, 0x09 + 1000 * 2 ^ 14 + 3 * 2 ^ 78, _, follower |> inSt tp stSync |> withLink tp fun l =>
    { l with peerBv := true }, pair_eq (by decide +kernel), by decide +kernel⟩

theorem test_witness_BeatCommandsComplete :
    (∃ (p : Path) (d : Die) (s : State), s.deadRead p d .bal = none) ∧
    (∃ (d : Die) (s : State), s.pllSeeks d = true ∧ s.time ≤ s.pllLimit d) ∧
    (∃ (m : Mv) (s : State), s.isF cr0 .bal 0 Reg.BAL_STATUS_BEAT_VALID = true ∧ (stSync ≤ s.lst (spCrown m 0) ∧ s.lst
      (spCrown m 0) ≤ stDegraded)) ∧
    (∃ (s : State), s.isF cr0 .bal 0 Reg.BAL_STATUS_BEAT_VALID = true ∧ s.x2 = true ∧ (stSync ≤ s.lst (spCrown 0 0) ∧ s.lst
      (spCrown 0 0) ≤ stDegraded)) ∧
    (∃ (d : Die) (sl : Fin 4) (r : SbSlot) (box : Nat) (u : State) (s : State), s.isF d .bal 0 Reg.BAL_STATUS_BEAT_VALID =
      false ∧ s.sbTakesFirst (.ikl d sl) r 0x09 true = (some box, u) ∧ u.isF d .bal 0 Reg.BAL_STATUS_BEAT_VALID = false) :=
  ⟨⟨.bar0 0, cr0, on |> atBeat cr0 5000000000, by decide +kernel⟩,
  ⟨cr0, on |> withBoot fun b => { b with pref := true }, by decide +kernel⟩,
  ⟨0, on |> reg cr0 .bal 0 Reg.BAL_STATUS_BEAT_VALID 1 |> inSt (spCrown 0 0) stSync, by decide +kernel⟩,
  ⟨on |> reg cr0 .bal 0 Reg.BAL_STATUS_BEAT_VALID 1 |> reg cr0 .cfg 0 Reg.CFG_VARIANT 1 |> inSt (spCrown 0 0) stSync,
    by decide +kernel⟩,
  ⟨.mv 0, 2, slot 1 (0x09 + 1000 * 2 ^ 14), 0x09 + 1000 * 2 ^ 14, _, on |> inSt sp stDeskew, by decide +kernel, pair_eq
    (by decide +kernel), by decide +kernel⟩⟩

theorem test_witness_BeatSyncCommandsComplete_tray0 :
    (∃ (n : Fin 8) (r : SbSlot) (box : Nat) (u : State) (s : State), s.sbTakes (.tray n) r 0x0A true = (some box, u)) :=
  ⟨0, tray1, 0x0A + 5 * 2 ^ 6, _, on |> inSt tp stSync, pair_eq (by decide +kernel)⟩

theorem test_witness_BeatSyncCommandsComplete_tray1 :
    (∃ (n : Fin 8) (r : SbSlot) (stamp : Fin 32) (box : Nat) (rt : Nat) (u : State) (s : State), s.sbTakes (.tray n) r 0x0B
      true = (some box, u) ∧ (u.link (.tray n)).syncReq ≠ 0 ∧ ((u.link (.tray n)).syncReq - 1) % 2 ^ 64 = bitsOf box 6 64 ∧
      u.beat (leDie (.tray n)) ≤ (u.link (.tray n)).syncReq - 1 + 12800 ∧ u.isActivePort n = false ∧ rt = 32 * (u.beat
      (leDie (.tray n)) - ((u.link (.tray n)).syncReq - 1)) + stamp.val) :=
  ⟨0, tray2, 10, 0x0B + 5 * 2 ^ 6 + 600 * 2 ^ 70, 22250, _, on |> inSt tp stSync |> atBeat cr0 700 |> withLink tp fun l =>
    { l with syncReq := 6 }, pair_eq (by decide +kernel), by decide +kernel⟩

theorem test_witness_BeatSyncCommandsComplete_tray2 :
    (∃ (n : Fin 8) (r : SbSlot) (err : Int) (box : Nat) (u : State) (s : State), s.sbTakes (.tray n) r 0x0B true = (some
      box, u) ∧ (u.link (.tray n)).syncReq ≠ 0 ∧ ((u.link (.tray n)).syncReq - 1) % 2 ^ 64 = bitsOf box 6 64 ∧ u.beat (leDie
      (.tray n)) ≤ (u.link (.tray n)).syncReq - 1 + 12800 ∧ u.isActivePort n = true ∧ u.balProfile = 2 ∧ err.natAbs ≤ 32) :=
  ⟨0, tray3, -3, 0x0B + 5 * 2 ^ 6, _, follower |> inSt tp stLive |> reg cr0 .bal 0 Reg.BAL_REF_PORT_VALID 1 |> atBeat cr0
    700 |> withLink tp fun l => { l with syncReq := 6 }, pair_eq (by decide +kernel), by decide +kernel⟩

theorem test_witness_BeatSyncCommandsComplete :
    (∃ (n : Fin 8) (s : State), s.isF (leDie (.tray n)) .bal 0 Reg.BAL_STATUS_BEAT_VALID = true ∧ 2 ≤ s.balProfile ∧
      s.boot.alone = false ∧ (s.atFrame (leDie (.tray n)) = true ∧ s.leadsAway n = true ∧ (s.link (.tray n)).peerBv = false
      ∨ s.atTurn (leDie (.tray n)) = true ∧ s.isActivePort n = true) ∧ (s.link (.tray n)).syncReq = 0 ∧ (s.link (.tray
      n)).syncWait = false ∧ (s.link (.tray n)).syncFails < 64 ∧ stSync ≤ s.lst (.tray n) ∧ s.lst (.tray n) ≤ stDegraded) ∧
    (∃ (n : Fin 8) (s : State), (s.link (.tray n)).syncReq ≠ 0 ∧ (s.link (.tray n)).syncReq - 1 + 12800 ≤ s.beat (leDie
      (.tray n)) ∧ (s.link (.tray n)).syncFails + 1 ≠ 64) :=
  ⟨⟨0, { follower with topo := [] } |> reg cr0 .bal 0 Reg.BAL_STATUS_BEAT_VALID 1 |> reg cr0 .boot 0 Reg.BOOT_STRAP_PKG_ID 0
    |> reg cr0 .trayPort 0 Reg.TRYP_PORT_CTL_PEER_PKG 1 |> (fun s => { s with topo := [(0, 0, 1, 0)] }) |> inSt tp stSync,
    by decide +kernel⟩,
  ⟨0, on |> atBeat cr0 12805 |> withLink tp fun l => { l with syncReq := 6 }, by decide +kernel⟩⟩

theorem test_witness_TimeServiceCommandsComplete :
    (∃ (s : State), s.isFollower = true ∧ s.isF cr0 .bal 0 Reg.BAL_REF_PORT_VALID = true ∧ s.lst (.tray (Fin.ofNat 8 (s.getF
      cr0 .bal 0 Reg.BAL_REF_ACTIVE_PORT))) ≠ stLive ∧ (∀ n, s.isSyncPort n = true → s.lst (.tray n) ≠ stLive)) ∧
    (∃ (n : Fin 8) (s : State), s.isFollower = true ∧ s.isF cr0 .bal 0 Reg.BAL_REF_PORT_VALID = true ∧ s.lst (.tray
      (Fin.ofNat 8 (s.getF cr0 .bal 0 Reg.BAL_REF_ACTIVE_PORT))) ≠ stLive ∧ s.isSyncPort n = true ∧ s.lst (.tray n) = stLive
      ∧ (∀ k < n, s.isSyncPort k = true → s.lst (.tray k) ≠ stLive)) ∧
    (∃ (s : State), s.isFollower = true ∧ s.sync.noPort ≠ 0 ∧ s.sync.noPort - 1 + turnBeats ≤ s.time) ∧
    (∃ (s : State), s.atTurn cr0 = true ∧ s.isF cr0 .bal 0 Reg.BAL_STATUS_IS_MASTER = true ∧ s.sync.sample = true ∧
      s.sync.next = none) ∧
    (∃ (m : Nat × Nat × Nat) (s : State), s.atTurn cr0 = true ∧ s.isF cr0 .bal 0 Reg.BAL_STATUS_IS_MASTER = true ∧
      s.sync.sample = false ∧ s.sync.next = some m) ∧
    (∃ (own : Nat × Nat × Nat) (s : State), (s.die cr0).map0 = none ∧ own = s.sync.next.getD s.cr0Map) ∧
    (∃ (ab : Nat) (rate : Nat) (ep : Nat) (a : Nat) (v : Bool) (h : Bool) (s : State), (s.die cr0).map0 = some (ab, rate,
      ep) ∧ (s.die cr0).map1 = some (a, ep, v, h)) ∧
    (∃ (d : Die) (s : State) (ab : Nat) (rate : Nat) (ep : Nat) (a : Nat) (v : Bool) (h : Bool), s.atTurn d = true ∧ (s.die
      d).map0 = some (ab, rate, ep) ∧ (s.die d).map1 = some (a, ep, v, h)) :=
  ⟨⟨follower |> reg cr0 .bal 0 Reg.BAL_REF_PORT_VALID 1, by decide +kernel⟩,
  ⟨1, follower |> (fun s => { s with topo := [(0, 0, 1, 0), (0, 1, 1, 1)] }) |> reg cr0 .trayPort 1
    Reg.TRYP_PORT_CTL_PEER_VALID 1 |> inSt (.tray 1) stLive |> reg cr0 .bal 0 Reg.BAL_REF_PORT_VALID 1, by decide +kernel⟩,
  ⟨follower |> atTime turnBeats |> fun s => { s with sync := { s.sync with noPort := 1 } }, by decide +kernel⟩,
  ⟨on |> reg cr0 .bal 0 Reg.BAL_STATUS_IS_MASTER 1 |> fun s => { s with sync := { s.sync with sample := true } },
    by decide +kernel⟩,
  ⟨(1, 2, 3), on |> reg cr0 .bal 0 Reg.BAL_STATUS_IS_MASTER 1 |> fun s =>
    { s with sync := { s.sync with next := some (1, 2, 3) } }, by decide +kernel⟩,
  ⟨_, on, by decide +kernel, rfl⟩,
  ⟨7, 8, 1, 9, true, false, on |> withDie cr0 fun x => { x with map0 := some (7, 8, 1), map1 := some (9, 1, true, false) },
    by decide +kernel⟩,
  ⟨.mv 1, on |> withDie (.mv 1) fun x => { x with map0 := some (7, 8, 1), map1 := some (9, 1, true, false) }, 7, 8, 1, 9,
    true, false, by decide +kernel⟩⟩

theorem test_witness_CrossingCommandsComplete :
    (∃ (d : Die) (kind : Fin 5) (blk : Nat) (inst : Nat) (s : State), s.staleAt d kind.val blk inst = false) ∧
    (∃ (e : LinkEnd) (r : SbSlot) (box : Nat) (u : State) (s : State), s.sbTakes e r 0x07 = (some box, u)) ∧
    (∃ (e : LinkEnd) (r : SbSlot) (box : Nat) (u : State) (s : State), s.sbTakes e r 0x08 = (some box, u) ∧ (u.link
      e).ptrReqAt ≠ 0) ∧
    (∃ (e : LinkEnd) (s : State), (s.link e).ptrFrame ≠ 0 ∧ (s.link e).ptrSet = false ∧ s.atFrame (leDie e) = true ∧ s.frame
      (leDie e) % 2 ^ 32 = ((s.link e).ptrFrame - 1) % 2 ^ 32) ∧
    (∃ (c : Crown) (sl : Fin 4) (s : State), (s.link (.ikl (.cr c) sl)).ptrReqAt ≠ 0 ∧ (s.link (.ikl (.cr c) sl)).ptrSet =
      false ∧ (s.link (.ikl (.cr c) sl)).ptrReqAt - 1 + turnBeats ≤ s.time ∧ s.getF (.cr c) .ikl sl.val
      Reg.IKL_LL_STATUS_ATTEMPTS + 1 < s.trainMax (.ikl (.cr c) sl)) ∧
    (∃ (c : Crown) (sl : Fin 4) (r : SbSlot) (box : Nat) (u : State) (s : State), s.sbTakesFirst (.ikl (.cr c) sl) r 0x14 =
      (some box, u)) ∧
    (∃ (m : Mv) (sl : Fin 4) (r : SbSlot) (box : Nat) (u : State) (s : State), s.sbTakesFirst (.ikl (.mv m) sl) r 0x14 =
      (some box, u)) ∧
    (∃ (f : Fin 4) (s : State), (s.fpLine f.val).asserted = true ∧ (s.fpLine f.val).since + 2 * frameBeats ≤ s.time ∧
      s.atFrame cr0 = true) :=
  ⟨⟨.mv 0, 1, 3, 0, on, by decide +kernel⟩,
  ⟨sp, slot 1 0x07, 0x07, _, on |> inSt sp stDeskew, pair_eq (by decide +kernel)⟩,
  ⟨sp, slot 1 (0x08 + 5 * 2 ^ 6), 0x08 + 5 * 2 ^ 6, _, on |> inSt sp stDeskew |> withLink sp fun l =>
    { l with ptrReqAt := 1 }, pair_eq (by decide +kernel), by decide +kernel⟩,
  ⟨sp, on |> withLink sp fun l => { l with ptrFrame := 1 }, by decide +kernel⟩,
  ⟨0, 0, on |> atTime turnBeats |> withLink sc fun l => { l with ptrReqAt := 1 }, by decide +kernel⟩,
  ⟨0, 0, slot 1 (0x14 + 2 * 2 ^ 14), 0x14 + 2 * 2 ^ 14, _, on |> inSt sc stDeskew, pair_eq (by decide +kernel)⟩,
  ⟨0, 2, slot 1 (0x14 + 2 * 2 ^ 14), 0x14 + 2 * 2 ^ 14, _, on |> inSt sp stDeskew, pair_eq (by decide +kernel)⟩,
  ⟨2, on |> (fun s => { s with fpLines := Tab.set {} s.fpLines 2 { asserted := true } }) |> atTime 4096, by decide +kernel⟩⟩

theorem test_witness_TrainingCommandsComplete :
    (∃ (e : LinkEnd) (s : State), isTray e = false ∧ s.lst e = stReset ∧ s.enabled .cal (leDie e) (leInst e) = true ∧ (isFp
      e = true → (s.link e).jointFree = true ∧ (s.fpLine (linkCode e)).asserted = false) ∧ (isFp e = false → (s.link
      e).noPartner = 0 ∨ (s.link e).noPartner - 1 + 16 * turnBeats ≤ s.time)) ∧
    (∃ (e : LinkEnd) (b : Fin 16) (s : State), isTray e = false ∧ s.lst e = stCalib ∧ s.calOut e b = false ∧ (s.bun e
      b).search.mode = 1 ∧ (s.bun e b).search.at_ + s.dwellFrames e * frameBeats ≤ s.time ∧ (s.bun e b).search.point + 1 <
      ((searchPlan (isFp e) false).getD (s.bun e b).search.step (0, 0)).2) ∧
    (∃ (n : Fin 8) (b : Fin 16) (taps : List Nat) (c : Nat) (s : State), s.lst (.tray n) = stCalib ∧ (s.bun (.tray n)
      b).search.mode = 1 ∧ c < 9 ∧ s.laneUsed (.tray n) 0 c = true ∧ taps.getD c 0 % 16 = c) ∧
    (∃ (e : LinkEnd) (s : State), s.lst e = stLanetest ∧ (s.link e).testDone = false ∧ (∀ b ∈ s.live e, (s.bun e b).tested =
      true ∨ (s.bun e b).search.mode = 3 ∧ (isTray e = true ∨ (s.bun e b).search.seeded = false) ∧ (s.bun e b).testAt ≠ 0 ∧
      (s.bun e b).testAt - 1 + s.testTurns e b * turnBeats ≤ s.time)) ∧
    (∃ (e : LinkEnd) (s : State), s.lst e = stLanetest ∧ (s.link e).testDone = true ∧ (s.link e).gotDone = true ∧ s.atFrame
      (leDie e) = true ∧ s.live e ≠ [] ∧ (∀ b ∈ s.live e, (laneMapOf e (s.rxMap e b) (s.bun e b).testBad).retired = false))
      ∧
    (∃ (e : LinkEnd) (r : SbSlot) (box : Nat) (b : Nat) (u : State) (s : State), s.sbTakesFirst e r 0x10 = (some box, u) ∧
      bitsOf box 14 4 = b ∧ b < nBundles e) ∧
    (∃ (e : LinkEnd) (b : Nat) (m : LaneMap) (s : State), s.atFrame (leDie e) = true ∧ b < nBundles e ∧ (s.bun e b).txPend =
      some m ∧ (s.bun e b).txAckAt ≠ 0 ∧ (s.bun e b).txAckAt - 1 ≤ s.time ∧ m.retired = false) ∧
    (∃ (e : LinkEnd) (r : SbSlot) (box : Nat) (u : State) (s : State), s.sbTakes e r 0x05 = (some box, u)) ∧
    (∃ (e : LinkEnd) (r : SbSlot) (arrivals : List Nat) (box : Nat) (lead : Nat) (rt : Int) (u : State) (s : State),
      s.sbTakes e r 0x06 = (some box, u) ∧ u.lst e = stPin ∧ (u.link e).probeAt ≠ 0 ∧ bitsOf box 6 8 = (u.link e).probeId %
      256 ∧ lead = (if isTray e then 0 else u.getF (leDie e) .ikl (leInst e) Reg.IKL_PHY_STATUS_LEAD) ∧ rt = (arrivals.getD
      lead 0 : Int) - ((u.link e).probeAt - 1 : Nat) - bitsOf box 14 16 ∧ (∀ b ∈ u.live e, 1 ≤ depthFor e (u.latL e) (-((2 *
      (finBeats e : Int) - rt).fdiv 2) + ((arrivals.getD b 0 : Int) - arrivals.getD lead 0)))) :=
  ⟨⟨sp, on |> inSt sp stReset |> enable .cal (.mv 0) (i := 2), by decide +kernel⟩,
  ⟨sp, 0, on |> inSt sp stCalib |> atTime (8 * frameBeats) |> withBun sp 0 fun x =>
    { x with search := { x.search with mode := 1 } }, by decide +kernel⟩,
  ⟨0, 0, [0, 1, 2, 3], 3, on |> inSt tp stCalib |> withBun tp 0 fun x => { x with search := { x.search with mode := 1 } },
    by decide +kernel⟩,
  ⟨sp, on |> inSt sp stLanetest |> atTime (8 * turnBeats) |> withBun sp 0 (fun x =>
    { x with testAt := 1, search := { x.search with mode := 3 } }) |> withBun sp 1 fun x => { x with tested := true },
    by decide +kernel⟩,
  ⟨sp, on |> inSt sp stLanetest |> withLink sp fun l => { l with testDone := true, gotDone := true }, by decide +kernel⟩,
  ⟨sp, slot 1 (0x10 + 4 * 2 ^ 6 + 1 * 2 ^ 14 + 5 * 2 ^ 18 + 31 * 2 ^ 24), 0x10 + 4 * 2 ^ 6 + 1 * 2 ^ 14 + 5 * 2 ^ 18 + 31 *
    2 ^ 24, 1, _, on |> inSt sp stDeskew, pair_eq (by decide +kernel), by decide +kernel⟩,
  ⟨sp, 1, ⟨5, false, 31, false, false⟩, on |> withBun sp 1 fun x =>
    { x with txPend := some ⟨5, false, 31, false, false⟩, txAckAt := 1 }, by decide +kernel⟩,
  ⟨sp, slot 1 (0x05 + 9 * 2 ^ 6), 0x05 + 9 * 2 ^ 6, _, on |> inSt sp stDeskew, pair_eq (by decide +kernel)⟩,
  ⟨sp, slot 1 (0x06 + 3 * 2 ^ 6 + 4 * 2 ^ 14), [130, 131], 0x06 + 3 * 2 ^ 6 + 4 * 2 ^ 14, _, _, _, on |> inSt sp stPin |>
    withLink sp fun l => { l with probeAt := 101, probeId := 3 }, pair_eq (by decide +kernel), by decide +kernel,
    by decide +kernel, by decide +kernel, rfl, rfl, by decide +kernel⟩⟩

theorem test_witness_GearTrainCommandsComplete :
    (∃ (d : Die) (s : State), s.hasDie d = true ∧ s.atTurn d = true) ∧
    (∃ (c : Crown) (s : State), s.hasDie (.cr c) = true ∧ s.atTurn (.cr c) = true) ∧
    (∃ (e : LinkEnd) (p : List Byte) (s : State), noticeCode p = 0x47 ∧ noticeA p < 12 ∧ noticeB p < 16 ∧ (∀ l ∈ (s.die
      (leDie e)).losses, ¬(l.link = noticeA p ∧ l.bundle = noticeB p ∧ l.decl = noticeDecl p))) ∧
    (∃ (e : LinkEnd) (p : List Byte) (pkg : Nat) (port : Nat) (s : State), noticeCode p = 0x48 ∧ noticeA p % 16 = pkg ∧
      noticeB p % 8 = port ∧ (16 * pkg + port, noticeDecl p) ∉ (s.die (leDie e)).seenLoss ∧ (∀ l ∈ (s.die (leDie e)).losses,
      ¬(l.link = 16 + pkg ∧ l.bundle = port ∧ l.joined = false))) ∧
    (∃ (d : Die) (sp : Nat) (bank : Nat) (dir : Nat) (slot : Nat) (idx : Nat) (s : State), s.hasDie d = true ∧ s.powered d
      .gtr = true ∧ s.portSel d false = (sp, bank, dir, slot, idx) ∧ idx < spaceSize sp ∧ bank ≠ s.bank d ∧ (¬(sp = 2 ∧ idx
      = 0))) ∧
    (∃ (p : Path) (d : Die) (sp : Nat) (bank : Nat) (dir : Nat) (slot : Nat) (idx : Nat) (s : State), s.deadRead p d .gtr =
      none ∧ s.portSel d false = (sp, bank, dir, slot, idx) ∧ idx < spaceSize sp ∧ (¬(sp = 2 ∧ idx = 0))) ∧
    (∃ (c : Crown) (sp : Nat) (bank : Nat) (dir : Nat) (slot : Nat) (idx : Nat) (s : State), s.hasDie (.cr c) = true ∧
      s.powered (.cr c) .tray = true ∧ s.portSel (.cr c) true = (sp, bank, dir, slot, idx) ∧ idx < spaceSize sp ∧ bank ≠
      s.bank (.cr c) ∧ (¬(sp = 2 ∧ idx = 0))) ∧
    (∃ (p : Path) (c : Crown) (sp : Nat) (bank : Nat) (dir : Nat) (slot : Nat) (idx : Nat) (s : State), s.deadRead p (.cr c)
      .tray = none ∧ s.portSel (.cr c) true = (sp, bank, dir, slot, idx) ∧ idx < spaceSize sp ∧ (¬(sp = 2 ∧ idx = 0))) :=
  ⟨⟨.mv 0, on, by decide +kernel⟩,
  ⟨0, on, by decide +kernel⟩,
  ⟨sp, noticePayload 0x47 4 1 0x3002 7, on, by decide +kernel⟩,
  ⟨sp, noticePayload 0x48 2 3 0xB005 7, 2, 3, on, by decide +kernel⟩,
  ⟨.mv 1, 0, 1, 1, 1, 5, on |> reg (.mv 1) .gtr 0 Reg.GTR_TBL_SEL_BANK 1 |> reg (.mv 1) .gtr 0 Reg.GTR_TBL_SEL_DIR 1 |> reg
    (.mv 1) .gtr 0 Reg.GTR_TBL_SEL_SLOT 1 |> reg (.mv 1) .gtr 0 Reg.GTR_TBL_IDX_INDEX 5, by decide +kernel⟩,
  ⟨.bar0 0, cr0, 0, 0, 0, 0, 5, on |> reg cr0 .gtr 0 Reg.GTR_TBL_IDX_INDEX 5, by decide +kernel⟩,
  ⟨0, 0, 1, 0, 0, 5, on |> reg cr0 .tray 0 Reg.TRY_TBL_SEL_BANK 1 |> reg cr0 .tray 0 Reg.TRY_TBL_IDX_INDEX 5,
    by decide +kernel⟩,
  ⟨.bar0 0, 0, 0, 0, 0, 0, 5, on |> reg cr0 .tray 0 Reg.TRY_TBL_IDX_INDEX 5, by decide +kernel⟩⟩

theorem test_witness_LaneRepairCommandsComplete :
    (∃ (e : LinkEnd) (b : Fin 16) (lane : Fin 21) (ui : Nat) (l : Nat) (j : Nat) (js : List Nat) (s : State), s.inService e
      = true ∧ 256 ≤ ui ∧ b.val < nBundles e ∧ lane.val < nMain e ∧ s.retired e b = false ∧ logicalLane e (s.rxMap e b) lane
      = some l ∧ l ∉ (s.bun e b).failed ∧ s.freeJewels e b = j :: js) ∧
    (∃ (e : LinkEnd) (r : SbSlot) (box : Nat) (u : State) (s : State), s.sbTakesFirst e r 0x11 = (some box, u) ∧ bitsOf box
      14 4 < nBundles e) ∧
    (∃ (e : LinkEnd) (s : State), s.atFrame (leDie e) = true) ∧
    (∃ (e : LinkEnd) (b : Fin 16) (lane : Nat) (j : Nat) (eff : Nat) (ack : Nat) (s : State), s.atTurn (leDie e) = true ∧
      (s.bun e b).repairs = [⟨lane, j, eff, ack⟩] ∧ eff ≤ s.turn (leDie e) ∧ ack ≠ 0 ∧ ack - 1 + frameBeats ≤ s.time) ∧
    (∃ (e : LinkEnd) (s : State), s.atTurn (leDie e) = true) ∧
    (∃ (e : LinkEnd) (b : Fin 16) (jewel : Fin 2) (bits : List Bool) (c : Nat) (s : State), s.atTurn (leDie e) = true ∧
      s.inService e = true ∧ isTray e = false ∧ b.val < nBundles e ∧ jewel.val ∈ s.freeJewels e b ∧ c = nMain e + jewel ∧
      s.winErr e b c + errCount (laneErrs false false c bits) ≤ s.laneThresh e b c) :=
  ⟨⟨sp, 0, 3, 300, 3, 0, [1], on |> inSt sp stLive |> fun s => s.setRxMap sp 0 ⟨31, false, 31, false, false⟩,
    by decide +kernel⟩,
  ⟨sp, slot 1 (0x11 + 3 * 2 ^ 18 + 1 * 2 ^ 23 + 5 * 2 ^ 24), 0x11 + 3 * 2 ^ 18 + 1 * 2 ^ 23 + 5 * 2 ^ 24, _, on |> inSt sp
    stDeskew, pair_eq (by decide +kernel), by decide +kernel⟩,
  ⟨sp, on, by decide +kernel⟩,
  ⟨sp, 0, 3, 0, 1, 5, on |> atTime 4096 |> atBeat (.mv 0) turnBeats |> withBun sp 0 fun x =>
    { x with repairs := [⟨3, 0, 1, 5⟩] }, by decide +kernel⟩,
  ⟨sp, on, by decide +kernel⟩,
  ⟨sp, 0, 1, [], 20, on |> inSt sp stLive |> fun s => s.setRxMap sp 0 ⟨31, false, 31, false, false⟩, by decide +kernel⟩⟩

theorem test_witness_LinkWatchCommandsComplete :
    (∃ (e : LinkEnd) (s : State), s.atTurn (leDie e) = true ∧ s.turn (leDie e) % s.errWindow e = 0) ∧
    (∃ (e : LinkEnd) (counts : List Nat) (s : State), isTray e = false ∧ s.atFrame (leDie e) = true ∧ (∀ b ∈ s.live e, bit
      (s.getF (leDie e) .ikl (leInst e) Reg.IKL_BUNDLE_EN_EN) b = true → ckOk (counts.getD b 0) = true)) ∧
    (∃ (e : LinkEnd) (r : SbSlot) (box : Nat) (b : Nat) (u : State) (s : State), s.sbTakesFirst e r 0x12 = (some box, u) ∧
      bitsOf box 14 4 = b ∧ b < nBundles e ∧ u.retired e b = false ∧ (u.bun e b).stopAt = none) ∧
    (∃ (e : LinkEnd) (b : Fin 16) (f : Nat) (s : State), (s.bun e b).stopAt = some f ∧ s.atFrame (leDie e) = true ∧ f ≤
      s.frame (leDie e)) ∧
    (∃ (d : Die) (sl : Fin 4) (b : Fin 16) (seg : Nat) (frame : Nat) (flags : Nat) (s : State), s.lst (.ikl d sl) =
      stLanetest ∧ b.val < nBundles (.ikl d sl) ∧ s.retired (.ikl d sl) b = false ∧ readMarker seg = some (frame, flags) ∧
      (s.bun (.ikl d sl) b).markOk s.time frame = true) ∧
    (∃ (n : Fin 8) (c : Fin 16) (seg : Nat) (frame : Nat) (flags : Nat) (s : State), s.lst (.tray n) = stLanetest ∧ c.val <
      9 ∧ readBlock ((logicalLane (.tray n) (s.useMap (.tray n) 0) c).getD c) seg = some (frame, flags) ∧ (s.bun (.tray n)
      (16 + c)).markOk s.time frame = true) ∧
    (∃ (d : Die) (sl : Fin 4) (s : State), s.lst (.ikl d sl) = stDeskew ∧ turnBeats ≤ s.inState (.ikl d sl) ∧ s.getF d .ikl
      sl.val Reg.IKL_LL_STATUS_ATTEMPTS + 1 < s.trainMax (.ikl d sl)) ∧
    (∃ (n : Fin 8) (s : State), s.lst (.tray n) = stDeskew ∧ turnBeats ≤ s.inState (.tray n)) :=
  ⟨⟨sp, on, by decide +kernel⟩,
  ⟨sp, [16384, 16384], on, by decide +kernel⟩,
  ⟨sp, slot 1 (0x12 + 1 * 2 ^ 14), 0x12 + 1 * 2 ^ 14, 1, _, on |> inSt sp stDeskew, pair_eq (by decide +kernel),
    by decide +kernel⟩,
  ⟨sp, 0, 1, on |> atBeat (.mv 0) frameBeats |> withBun sp 0 fun x => { x with stopAt := some 1 }, by decide +kernel⟩,
  ⟨.mv 0, 2, 1, markerSeg 5 8, 5, 8, on |> inSt sp stLanetest, by decide +kernel⟩,
  ⟨0, 8, alignBlock 8 5 2, 5, 2, on |> inSt tp stLanetest, by decide +kernel⟩,
  ⟨.mv 0, 2, on |> inSt sp stDeskew |> atTime turnBeats, by decide +kernel⟩,
  ⟨0, on |> inSt tp stDeskew |> atTime turnBeats, by decide +kernel⟩⟩

theorem test_witness_SidebandCommandsComplete :
    (∃ (e : LinkEnd) (r : SbSlot) (box : Nat) (u : State) (s : State), s.slotDue e r.slot = true ∧ s.sbReceive e r = (some
      box, u) ∧ bitsOf box 0 6 = 0) ∧
    (∃ (e : LinkEnd) (r : SbSlot) (box : Nat) (u : State) (s : State), s.slotDue e r.slot = true ∧ s.sbReceive e r = (some
      box, u) ∧ bitsOf box 0 6 = 0x1A) ∧
    (∃ (e : LinkEnd) (r : SbSlot) (box : Nat) (u : State) (s : State), s.slotDue e r.slot = true ∧ s.sbReceive e r = (some
      box, u) ∧ bitsOf box 0 6 = 0x1B) ∧
    (∃ (m : Mv) (sl : Fin 4) (r : SbSlot) (box : Nat) (u : State) (s : State), s.slotDue (.ikl (.mv m) sl) r.slot = true ∧
      s.sbReceive (.ikl (.mv m) sl) r = (some box, u) ∧ bitsOf box 0 6 = 0x18 ∧ bitsOf box 6 3 = 2) ∧
    (∃ (m : Mv) (sl : Fin 4) (r : SbSlot) (box : Nat) (u : State) (s : State), s.slotDue (.ikl (.mv m) sl) r.slot = true ∧
      s.sbReceive (.ikl (.mv m) sl) r = (some box, u) ∧ bitsOf box 0 6 = 0x19 ∧ bit box 6 = true ∧ bitsOf box 7 3 = dieCode
      (.mv m) ∧ u.staleKind (.mv m) 3 = false) ∧
    (∃ (e : LinkEnd) (k : Nat) (s : State), s.sbUp e = true ∧ s.linkMode e < 2 ∧ s.beat (leDie e) % frameBeats = 64 * k ∧ k
      % 4 = 2) ∧
    (∃ (e : LinkEnd) (k : Nat) (s : State), s.sbUp e = true ∧ s.linkMode e < 2 ∧ s.beat (leDie e) % frameBeats = 64 * k ∧ k
      % 4 = 3 ∧ isFp e = false) ∧
    (∃ (e : LinkEnd) (k : Nat) (s : State), s.sbUp e = true ∧ s.linkMode e < 2 ∧ s.beat (leDie e) % frameBeats = 64 * k ∧ k
      ≠ 0 ∧ k % 4 < 2 ∧ (s.link e).q = [] ∧ (s.link e).ptrWant = 0 ∧ (s.link e).ptrOwe = 0) ∧
    (∃ (d : Die) (sl : Fin 4) (s : State), s.beat d % frameBeats = 0 ∧ stLanetest ≤ s.lst (.ikl d sl) ∧ s.lst (.ikl d sl) ≤
      stDegraded ∧ s.linkMode (.ikl d sl) < 2 ∧ s.staleAt d 1 Blk.ikl.code sl.val = false) ∧
    (∃ (e : LinkEnd) (r : SbSlot) (box : Nat) (u : State) (s : State), s.sbTakes e r 0x03 = (some box, u)) ∧
    (∃ (d : Die) (sl : Fin 4) (m : SbMsg) (s : State), m ∈ (s.link (.ikl d sl)).unacked ∧ m.first - 1 + turnBeats ≤ s.time ∧
      s.getF d .ikl sl.val Reg.IKL_LL_STATUS_ATTEMPTS + 1 < s.trainMax (.ikl d sl) ∧ s.inService (.ikl d sl) = false ∧ s.lst
      (.ikl d sl) ≠ stRetired) ∧
    (∃ (d : Die) (sl : Fin 4) (m : SbMsg) (s : State), m ∈ (s.link (.ikl d sl)).unacked ∧ m.first - 1 + turnBeats ≤ s.time ∧
      s.getF d .ikl sl.val Reg.IKL_LL_STATUS_ATTEMPTS + 1 < s.trainMax (.ikl d sl) ∧ s.inService (.ikl d sl) = true ∧ (∀ b <
      16, (s.bun (.ikl d sl) b).dying = false)) ∧
    (∃ (n : Fin 8) (m : SbMsg) (s : State), m ∈ (s.link (.tray n)).unacked ∧ m.first - 1 + turnBeats ≤ s.time) :=
  ⟨⟨sp, slot 1 (0), 0, _, on |> inSt sp stDeskew, by decide +kernel, pair_eq (by decide +kernel), by decide +kernel⟩,
  ⟨sp, slot 1 (0x1A + 5 * 2 ^ 6), 0x1A + 5 * 2 ^ 6, _, on |> inSt sp stDeskew, by decide +kernel, pair_eq
    (by decide +kernel), by decide +kernel⟩,
  ⟨sp, slot 1 (0x1B + 5 * 2 ^ 6), 0x1B + 5 * 2 ^ 6, _, on |> inSt sp stDeskew, by decide +kernel, pair_eq
    (by decide +kernel), by decide +kernel⟩,
  ⟨0, 2, slot 1 (0x18 + 2 * 2 ^ 6 + 9 * 2 ^ 64), 0x18 + 2 * 2 ^ 6 + 9 * 2 ^ 64, _, on |> inSt sp stDeskew,
    by decide +kernel, pair_eq (by decide +kernel), by decide +kernel⟩,
  ⟨0, 2, slot 1 (0x19 + 2 ^ 6 + 77 * 2 ^ 12), 0x19 + 2 ^ 6 + 77 * 2 ^ 12, _, on |> inSt sp stDeskew, by decide +kernel,
    pair_eq (by decide +kernel), by decide +kernel⟩,
  ⟨sp, 2, on |> inSt sp stLive |> atBeat (.mv 0) 128, by decide +kernel⟩,
  ⟨sp, 3, on |> inSt sp stLive |> atBeat (.mv 0) 192, by decide +kernel⟩,
  ⟨sp, 4, on |> inSt sp stLive |> atBeat (.mv 0) 256, by decide +kernel⟩,
  ⟨.mv 0, 2, on |> inSt sp stLanetest |> atBeat (.mv 0) (5 * frameBeats), by decide +kernel⟩,
  ⟨sp, slot 1 (0x03 + 0x13 * 2 ^ 6 + 7 * 2 ^ 12), 0x03 + 0x13 * 2 ^ 6 + 7 * 2 ^ 12, _, on |> inSt sp stDeskew |> withLink sp
    fun l => { l with unacked := [{ mtype := 0x13, mseq := 7 }] }, pair_eq (by decide +kernel)⟩,
  ⟨.mv 0, 2, { mtype := 0x13, mseq := 7, first := 1 }, on |> atTime turnBeats |> withLink sp fun l =>
    { l with unacked := [{ mtype := 0x13, mseq := 7, first := 1 }] }, by decide +kernel⟩,
  ⟨.mv 0, 2, { mtype := 0x13, mseq := 7, first := 1 }, on |> inSt sp stLive |> atTime turnBeats |> withLink sp fun l =>
    { l with unacked := [{ mtype := 0x13, mseq := 7, first := 1 }] }, by decide +kernel, by decide +kernel,
    by decide +kernel, by decide +kernel, fun _ _ => rfl⟩,
  ⟨0, { mtype := 0x09, mseq := 7, first := 1 }, on |> atTime turnBeats |> withLink tp fun l =>
    { l with unacked := [{ mtype := 0x09, mseq := 7, first := 1 }] }, by decide +kernel⟩⟩

theorem test_witness_ScheduledTrafficComplete :
    (∃ (e : LinkEnd) (b : Fin 16) (slot : Nat) (tag : Nat) (pa : Nat) (ctx : Nat × Bool) (s : State), slotAtBeat e (s.beat
      (leDie e) % frameBeats) = some slot ∧ s.inService e = true ∧ b.val ∈ s.sending e ∧ s.isF cr0 .pwr 0 Reg.PWR_STATUS_PF
      = false ∧ s.markOf e 0 b slot (s.frame (leDie e)) = .sc tag ∧ (s.link e).scStop = false ∧ s.scPlace e 0 tag b slot
      (s.frame (leDie e)) = some (pa, ctx)) ∧
    (∃ (e : LinkEnd) (b : Fin 16) (slot : Nat) (s : State), slotAtBeat e (s.beat (leDie e) % frameBeats) = some slot ∧
      s.inService e = true ∧ b.val ∈ s.sending e ∧ s.isF cr0 .pwr 0 Reg.PWR_STATUS_PF = false ∧ s.hackCovers e (s.frame
      (leDie e)) = true) ∧
    (∃ (e : LinkEnd) (b : Fin 16) (lanes : List Nat) (slot : Nat) (frame : Nat) (tag : Nat) (header : Nat) (pa : Nat) (ctx :
      Nat) (last : Bool) (p : List Byte) (u : State) (s : State), s.latL e ≤ s.beat (leDie e) ∧ slotAtBeat e ((s.beat (leDie
      e) - s.latL e) % frameBeats) = some slot ∧ frame = (s.beat (leDie e) - s.latL e) / frameBeats ∧ s.inService e = true ∧
      s.rxStopped e b = false ∧ b.val < nBundles e ∧ s.markOf e 1 b slot frame = .sc tag ∧ s.decodeFlit e b slot frame lanes
      = (some (header, p), u) ∧ header % 4 = 1 ∧ bitsOf header 2 14 = tag ∧ p.length = 64 ∧ u.scPlace e 1 tag b slot frame =
      some (pa, ctx, last)) ∧
    (∃ (e : LinkEnd) (r : SbSlot) (box : Nat) (h : ScHeld) (u : State) (s : State), s.sbTakes e r 0x04 = (some box, u) ∧
      (u.link e).hold.reverse.find? (fun h => h.bundle == bitsOf box 6 4 && h.slot == bitsOf box 10 10 && h.frame % 2 ==
      bitsOf box 20 1) = some h ∧ (h.bundle, h.slot, h.frame) ∉ (u.link e).naked) ∧
    (∃ (e : LinkEnd) (s : State), s.atFrame (leDie e) = true ∧ s.frame (leDie e) ≠ 0 ∧ (s.link e).lostRep ≠ s.frame (leDie
      e)) :=
  ⟨⟨sp, 0, 5, 7, 4096, (3, true), on |> enable .gtr (.mv 0) |> inSt sp stLive |> (fun s => ((s.setTbl 1 0 0 0 2 0 (2 ^
    16)).setTbl 0 0 0 0 2 0 (2 + 5 * 2 ^ 8 + 2 ^ 32 * (1 + 7 * 2 ^ 16))).setTbl 3 0 0 0 0 7 (3 + 32 * 0 + 2 ^ 8 + 2 ^ 32 *
    4096)) |> atBeat (.mv 0) 10, by decide +kernel⟩,
  ⟨sp, 0, 5, on |> inSt sp stLive |> atBeat (.mv 0) 10 |> fun s =>
    { s with hack := { s.hack with active := true, last := some (0, 4, false) } }, by decide +kernel⟩,
  ⟨sp, 0, flitOn 5 (1 + 4 * 7) (List.replicate 64 1), 5, 0, 7, 29, 4096, 3, true, (List.replicate 64 1), _, on |> enable
    .gtr (.mv 0) |> inSt sp stLive |> (fun s => ((s.setTbl 1 0 0 1 2 0 (2 ^ 16)).setTbl 0 0 0 1 2 0 (2 + 5 * 2 ^ 8 + 2 ^ 32
    * (1 + 7 * 2 ^ 16))).setTbl 3 0 0 0 0 7 (3 + 32 * 1 + 2 ^ 8 + 2 ^ 32 * 4096)) |> atBeat (.mv 0) 34, by decide +kernel,
    by decide +kernel, by decide +kernel, by decide +kernel, by decide +kernel, by decide +kernel, by decide +kernel,
    pair_eq (by decide +kernel), by decide +kernel⟩,
  ⟨sp, slot 1 (0x04 + 5 * 2 ^ 10 + 2 ^ 20), 0x04 + 5 * 2 ^ 10 + 2 ^ 20, ⟨0, 5, 1, 100, 7, []⟩, _, on |> inSt sp stDeskew |>
    withLink sp fun l => { l with hold := [⟨0, 5, 1, 100, 7, []⟩] }, pair_eq (by decide +kernel), by decide +kernel⟩,
  ⟨sp, on |> atBeat (.mv 0) frameBeats, by decide +kernel⟩⟩

theorem test_witness_UnscheduledTrafficComplete :
    (∃ (e : LinkEnd) (b : Fin 16) (lanes : List Nat) (slot : Nat) (frame : Nat) (header : Nat) (p : List Byte) (u : State)
      (s : State), s.latL e ≤ s.beat (leDie e) ∧ slotAtBeat e ((s.beat (leDie e) - s.latL e) % frameBeats) = some slot ∧
      frame = (s.beat (leDie e) - s.latL e) / frameBeats ∧ s.inService e = true ∧ s.rxStopped e b = false ∧ b.val < nBundles
      e ∧ (s.markOf e 1 b slot frame = .uc ∨ s.markOf e 1 b slot frame = .repair) ∧ s.decodeFlit e b slot frame lanes =
      (some (header, p), u) ∧ header % 4 = 2 ∧ bitsOf header 7 9 = (u.bun e b).es) ∧
    (∃ (e : LinkEnd) (b : Fin 16) (lanes : List Nat) (slot : Nat) (frame : Nat) (u : State) (s : State), s.latL e ≤ s.beat
      (leDie e) ∧ slotAtBeat e ((s.beat (leDie e) - s.latL e) % frameBeats) = some slot ∧ frame = (s.beat (leDie e) - s.latL
      e) / frameBeats ∧ s.inService e = true ∧ s.rxStopped e b = false ∧ b.val < nBundles e ∧ (s.markOf e 1 b slot frame =
      .uc ∨ s.markOf e 1 b slot frame = .repair) ∧ s.decodeFlit e b slot frame lanes = (none, u)) ∧
    (∃ (e : LinkEnd) (r : SbSlot) (box : Nat) (i : Nat) (b : Nat) (es : Nat) (y : BundleSt) (u : State) (s : State),
      s.sbTakes e r 0x01 = (some box, u) ∧ i < 8 ∧ b = 8 * bitsOf box 6 1 + i ∧ b < nBundles e ∧ bit box (72 + i) = true ∧
      (u.bun e b).acked (bitsOf box (8 + 8 * i) 8) = some (es, y)) ∧
    (∃ (e : LinkEnd) (r : SbSlot) (box : Nat) (u : State) (s : State), s.sbTakes e r 0x02 = (some box, u)) ∧
    (∃ (e : LinkEnd) (b : Fin 16) (x : TxUc) (s : State), s.inService e = true ∧ x ∈ (s.bun e b).unacked ∧ x.slotAt +
      s.ucTimeout e ≤ s.ucClock ∧ (s.bun e b).replayQ = [] ∧ b.val ∈ s.sending e) ∧
    (∃ (e : LinkEnd) (s : State), s.lf e Reg.IKL_LL_STATUS_UC_QUIESCE Reg.TRYP_LL_STATUS_UC_QUIESCE = 1 ∧ (∀ b ∈ s.serving
      e, (s.bun e b).unacked = []) ∧ (∀ b ∈ (s.link e).leaving, (s.bun e b).txFinal = true)) :=
  ⟨⟨sp, 0, flitOn 5 (2 + 2 ^ 4 + 2 ^ 5) (List.replicate 64 1), 5, 0, 50, (List.replicate 64 1), _, on |> inSt sp stLive |>
    atBeat (.mv 0) 34, by decide +kernel, by decide +kernel, by decide +kernel, by decide +kernel, by decide +kernel,
    by decide +kernel, by decide +kernel, pair_eq (by decide +kernel), by decide +kernel⟩,
  ⟨sp, 0, (flitOn 5 (2 + 2 ^ 4 + 2 ^ 5) (List.replicate 64 1)).map fun x => x + 1, 5, 0, _, on |> inSt sp stLive |> atBeat
    (.mv 0) 34, by decide +kernel, by decide +kernel, by decide +kernel, by decide +kernel, by decide +kernel,
    by decide +kernel, by decide +kernel, pair_eq (by decide +kernel)⟩,
  ⟨sp, slot 1 (0x01 + 3 * 2 ^ 8 + 2 ^ 72), 0x01 + 3 * 2 ^ 8 + 2 ^ 72, 0, 0, 4,
    { (({} : BundleSt)) with seq := 4, unacked := [] }, _, on |> inSt sp stDeskew |> withBun sp 0 (fun x =>
    { x with seq := 4, unacked := [⟨3, ⟨1, true, true, 0, [], 0⟩, 0, 0⟩] }), pair_eq (by decide +kernel),
    by decide +kernel⟩,
  ⟨sp, slot 1 (0x02 + 5 * 2 ^ 6), 0x02 + 5 * 2 ^ 6, _, on |> inSt sp stDeskew, pair_eq (by decide +kernel)⟩,
  ⟨sp, 0, ⟨3, ⟨1, true, true, 0, [], 0⟩, 0, 0⟩, on |> inSt sp stLive |> atTime 3200 |> withBun sp 0 (fun x =>
    { x with seq := 4, unacked := [⟨3, ⟨1, true, true, 0, [], 0⟩, 0, 0⟩] }), by decide +kernel⟩,
  ⟨sp, on |> reg (.mv 0) .ikl 2 Reg.IKL_LL_STATUS_UC_QUIESCE 1, by decide +kernel⟩⟩

theorem test_witness_TrayPartnerCommandsComplete :
    (∃ (n : Fin 8) (s : State), s.lst (.tray n) = stSeek) ∧
    (∃ (n : Fin 8) (blk : BitVec 256) (s : State), s.lst (.tray n) = stListen ∧ bitsOf blk.toNat 0 32 = 0x5A5AC3C3 ∧ bitsOf
      blk.toNat 224 32 = crc32 (leBytes 28 (bitsOf blk.toNat 0 224)) ∧ s.blockMatches n blk.toNat = true ∧ (s.link (.tray
      n)).backAt + (s.link (.tray n)).backoff * msBeats ≤ s.time) ∧
    (∃ (n : Fin 8) (blk : BitVec 256) (s : State), s.lst (.tray n) = stListen ∧ bitsOf blk.toNat 0 32 = 0x5A5AC3C3 ∧ bitsOf
      blk.toNat 224 32 = crc32 (leBytes 28 (bitsOf blk.toNat 0 224)) ∧ s.blockMatches n blk.toNat = false ∧ blk.toNat ∉
      (s.link (.tray n)).wrong) ∧
    (∃ (n : Fin 8) (s : State), s.lst (.tray n) = stListen ∧ (s.link (.tray n)).noSigLogged = false ∧ max (s.link (.tray
      n)).sigAt (s.link (.tray n)).since + 100 * msBeats ≤ s.time) ∧
    (∃ (n : Fin 8) (s : State), s.lst (.tray n) = stSeek ∧ 50 * msBeats ≤ s.inState (.tray n)) ∧
    (∃ (n : Fin 8) (s : State), stCalib ≤ s.lst (.tray n) ∧ s.lst (.tray n) ≤ stSync ∧ max (s.link (.tray n)).sigAt (s.link
      (.tray n)).since + msBeats ≤ s.time) :=
  ⟨⟨0, on |> inSt tp stSeek, by decide +kernel⟩,
  ⟨0, BitVec.ofNat 256 ((0x5A5AC3C3 + 1600 * 2 ^ 72) + crc32 (leBytes 28 (0x5A5AC3C3 + 1600 * 2 ^ 72)) * 2 ^ 224), on |>
    inSt tp stListen, by decide +kernel⟩,
  ⟨0, BitVec.ofNat 256 ((0x5A5AC3C3 + 1599 * 2 ^ 72) + crc32 (leBytes 28 (0x5A5AC3C3 + 1599 * 2 ^ 72)) * 2 ^ 224), on |>
    inSt tp stListen, by decide +kernel⟩,
  ⟨0, on |> inSt tp stListen |> atTime (100 * msBeats), by decide +kernel⟩,
  ⟨0, on |> inSt tp stSeek |> atTime (50 * msBeats), by decide +kernel⟩,
  ⟨0, on |> inSt tp stCalib |> atTime msBeats, by decide +kernel⟩⟩

theorem test_witness_RecalibrationCommandsComplete :
    (∃ (e : LinkEnd) (b : Nat) (turn : Nat) (s : State), isTray e = false ∧ s.hasInst (leDie e) .ikl (leInst e) = true ∧
      s.powered (leDie e) .ikl = true ∧ s.getF (leDie e) .ikl (leInst e) Reg.IKL_RECAL_BUNDLE = b ∧ s.get64 (leDie e) .ikl
      (leInst e) Reg.IKL_RECAL_TURN_LO_TURN Reg.IKL_RECAL_TURN_HI_TURN = turn ∧ s.inService e = true ∧ b ∈ s.serving e ∧
      s.recalOf e = none ∧ s.noFallback e b = false ∧ s.beat (leDie e) + 8 * turnBeats ≤ turn * turnBeats ∧ s.tokRecal ≤
      s.maxRequest (leDie e)) ∧
    (∃ (e : LinkEnd) (r : SbSlot) (box : Nat) (b : Nat) (u : State) (s : State), s.sbTakesFirst e r 0x13 = (some box, u) ∧
      bitsOf box 14 4 = b ∧ b < nBundles e) ∧
    (∃ (e : LinkEnd) (r : Recal) (s : State), s.recalOf e = some r ∧ r.step = 0 ∧ r.turn ≤ s.turn (leDie e) + 8 ∧ (s.bun e
      r.bundle).recalOk = false) ∧
    (∃ (e : LinkEnd) (r : Recal) (s : State), s.recalOf e = some r ∧ r.step = 0 ∧ s.atTurn (leDie e) = true ∧ r.turn ≤
      s.turn (leDie e) ∧ (s.bun e r.bundle).recalOk = true ∧ s.hasToken (leDie e) 1 0xFF (leCode e) = true ∧ (∀ f ∈ bothEnds
      e, r.bundle ∈ s.serving f ∧ s.inService f = true) ∧ isTray e = false ∧ r.bundle < 16) ∧
    (∃ (e : LinkEnd) (r : Recal) (s : State), s.recalOf e = some r ∧ r.step = 1 ∧ s.atFrame (leDie e) = true ∧ 1024 * r.turn
      + 376 ≤ s.frame (leDie e)) ∧
    (∃ (e : LinkEnd) (r : Recal) (s : State), s.recalOf e = some r ∧ r.step = 2 ∧ s.atFrame (leDie e) = true ∧ 1024 * r.turn
      + 1792 ≤ s.frame (leDie e)) ∧
    (∃ (e : LinkEnd) (r : Recal) (s : State), s.recalOf e = some r ∧ r.step = 3 ∧ s.atTurn (leDie e) = true ∧ r.turn + 2 ≤
      s.turn (leDie e) ∧ r.bundle < 16) :=
  ⟨⟨sp, 0, 16, on |> inSt sp stLive |> reg (.mv 0) .ikl 2 Reg.IKL_RECAL_TURN_LO_TURN 16 |> reg cr0 .pwr 0 Reg.PWR_BUDGET
    1200, by decide +kernel⟩,
  ⟨sp, slot 1 (0x13 + 16 * 2 ^ 18), 0x13 + 16 * 2 ^ 18, 0, _, on |> inSt sp stDeskew, pair_eq (by decide +kernel),
    by decide +kernel⟩,
  ⟨sp, ⟨leCode sp, 0, 8, 0⟩, on |> (fun s => { s with recals := [⟨leCode sp, 0, 8, 0⟩] }), by decide +kernel⟩,
  ⟨sp, ⟨leCode sp, 0, 1, 0⟩, on |> inSt sp stLive |> inSt sc stLive |> atBeat (.mv 0) turnBeats |> withBun sp 0 (fun x =>
    { x with recalOk := true }) |> withDie (.mv 0) (fun x =>
    { x with power := { x.power with lent := [⟨1, 16, 0, 0xFF, leCode sp⟩] } }) |> (fun s =>
    { s with recals := [⟨leCode sp, 0, 1, 0⟩] }), by decide +kernel⟩,
  ⟨sp, ⟨leCode sp, 0, 0, 1⟩, on |> atBeat (.mv 0) (376 * frameBeats) |> (fun s =>
    { s with recals := [⟨leCode sp, 0, 0, 1⟩] }), by decide +kernel⟩,
  ⟨sp, ⟨leCode sp, 0, 0, 2⟩, on |> atBeat (.mv 0) (1792 * frameBeats) |> (fun s =>
    { s with recals := [⟨leCode sp, 0, 0, 2⟩] }), by decide +kernel⟩,
  ⟨sp, ⟨leCode sp, 0, 0, 3⟩, on |> atBeat (.mv 0) (2 * turnBeats) |> (fun s => { s with recals := [⟨leCode sp, 0, 0, 3⟩] }),
    by decide +kernel⟩⟩

theorem test_witness_BudgetCommandsComplete :
    (∃ (w : Word) (s : State), budgetCovers (w.toNat % 2048) s.sumReserve s.sumFloors = true) ∧
    (∃ (k : Nat) (s : State), s.atFrame cr0 = true ∧ s.frame cr0 % 1024 = 64 * k ∧ k ≤ 7 ∧ s.enabled .pwr cr0 = true) ∧
    (∃ (m : Mv) (k : Nat) (s : State), s.atFrame (.mv m) = true ∧ s.frame (.mv m) % 1024 = 64 * k ∧ k ≤ 7 ∧ s.enabled .pwr
      cr0 = true) ∧
    (∃ (s : State), s.atFrame cr0 = true ∧ s.frame cr0 % 1024 = 512 ∧ s.enabled .pwr cr0 = true) ∧
    (∃ (m : Mv) (sl : Fin 4) (r : SbSlot) (box : Nat) (u : State) (s : State), s.sbTakes (.ikl (.mv m) sl) r 0x19 = (some
      box, u) ∧ bit box 6 = true ∧ bitsOf box 7 3 = dieCode (.mv m) ∧ u.staleKind (.mv m) 3 = false) ∧
    (∃ (sl : Fin 4) (r : SbSlot) (box : Nat) (u : State) (s : State), s.sbTakes (.ikl cr0 sl) r 0x19 = (some box, u) ∧ bit
      box 6 = false ∧ bitsOf box 7 3 < 6) ∧
    (∃ (d : Die) (v : Nat) (s : State), s.hasDie d = true ∧ s.atTurn d = true ∧ s.enabled .pwr cr0 = true ∧ (s.pow d).grant
      = some (s.turn d % 2 ^ 32, v) ∧ v < 2 ^ 16 ∧ (s.pow d).staleFloor = false ∧ s.staleKind d 3 = false) :=
  ⟨⟨1200, on, by decide +kernel⟩,
  ⟨1, on |> enable .pwr cr0 |> atBeat cr0 (64 * frameBeats), by decide +kernel⟩,
  ⟨2, 1, on |> enable .pwr cr0 |> atBeat (.mv 2) (64 * frameBeats), by decide +kernel⟩,
  ⟨on |> enable .pwr cr0 |> atBeat cr0 (512 * frameBeats), by decide +kernel⟩,
  ⟨0, 2, slot 1 (0x19 + 2 ^ 6 + 77 * 2 ^ 12), 0x19 + 2 ^ 6 + 77 * 2 ^ 12, _, on |> inSt sp stDeskew, pair_eq
    (by decide +kernel), by decide +kernel⟩,
  ⟨0, slot 1 (0x19 + 2 * 2 ^ 7 + 77 * 2 ^ 12), 0x19 + 2 * 2 ^ 7 + 77 * 2 ^ 12, _, on |> inSt sc stDeskew, pair_eq
    (by decide +kernel), by decide +kernel⟩,
  ⟨.mv 3, 77, on |> enable .pwr cr0 |> withDie (.mv 3) (fun x =>
    { x with power := { x.power with grant := some (0, 77) } }), by decide +kernel⟩⟩

theorem test_witness_AdmissionCommandsComplete :
    (∃ (d : Die) (r : AdmReq) (rest : List AdmReq) (s : State), (s.pow d).queue = r :: rest ∧ s.throttled d = false ∧ (s.pow
      d).held + r.tok ≤ s.allowance d) ∧
    (∃ (d : Die) (tj : Int) (h0 : Int) (h1 : Int) (s : State), s.hasDie d = true ∧ s.atFrame d = true ∧ s.staleKind d 2 =
      false ∧ tj < 110 ∧ h0 < 105 ∧ h1 < 105) ∧
    (∃ (d : Die) (c : Nat × Nat × Nat × Nat) (s : State), c ∈ (s.die d).stale ∧ c.2.2.2 + turnBeats ≤ s.time) ∧
    (∃ (mv : List Nat) (k : Nat) (s : State), s.atFrame cr0 = true ∧ k < 18 ∧ k ≠ 11 ∧ s.railOn k = true ∧ mv.getD k 0 < 2 ^
      16) :=
  ⟨⟨.mv 0, ⟨0, 16, 0, 1, 2⟩, [], on |> reg cr0 .pwr 0 Reg.PWR_DIE_A_ALLOW 100 (k := dieOff (.mv 0)) |> withDie (.mv 0) (fun
    x => { x with power := { x.power with queue := [⟨0, 16, 0, 1, 2⟩] } }), by decide +kernel⟩,
  ⟨.mv 0, 50, 60, 70, on, by decide +kernel⟩,
  ⟨.mv 0, (2, 1, 0, 0), on |> atTime turnBeats |> withDie (.mv 0) fun x => { x with stale := [(2, 1, 0, 0)] },
    by decide +kernel⟩,
  ⟨[800], 0, on, by decide +kernel⟩⟩

theorem test_witness_MemoryMessagesComplete :
    (∃ (d : Die) (cmd : List Byte) (p : List Byte) (pa : Nat) (s : State), s.hasDie d = true ∧ cmdTarget cmd % 2 ^ 48 = pa ∧
      pa % 64 = 0 ∧ cmdLen cmd = 64 ∧ p.length = 64 ∧ counterOf pa = none ∧ bufferOf pa = none ∧ bit (cmdA cmd) 0 = false) ∧
    (∃ (m : Mv) (cmd : List Byte) (n : Nat) (s : State), crosses (cmdTarget cmd % 2 ^ 48) (cmdLen cmd) = false ∧ counterOf
      (cmdTarget cmd % 2 ^ 48) = some n ∧ s.unitDown (.mv m) none = false) ∧
    (∃ (d : Die) (o : Die) (e : LinkEnd) (cmd : List Byte) (pa : Nat) (s : State), s.hasDie d = true ∧ cmdTarget cmd % 2 ^
      48 = pa ∧ pa % 64 = 0 ∧ cmdLen cmd ≤ 64 ∧ counterOf pa = none ∧ bufferOf pa = none ∧ s.poisoned pa = false ∧ dieOfCode
      (cmdOrigin cmd).1 = some o ∧ s.route d (cmdOrigin cmd).2 o = some e) ∧
    (∃ (d : Die) (o : Die) (e : LinkEnd) (cmd : List Byte) (s : State), s.hasDie d = true ∧ dieOfCode (cmdOrigin cmd).1 =
      some o ∧ s.route d (cmdOrigin cmd).2 o = some e) ∧
    (∃ (m : Mv) (cmd : List Byte) (s : State), cmdHost cmd = false ∧ s.isF (.mv m) .mem 0 Reg.MEM_FIRST_TAG_VALID (0x10 *
      cmdCtx cmd) = false) ∧
    (∃ (cmd : List Byte), cmdHost cmd = false) ∧
    (∃ (m : Mv) (s : State), s.enabled .mem (.mv m) = true ∧ (s.die (.mv m)).scrubH + s.scrubHours (.mv m) * hourBeats ≤
      s.time) :=
  ⟨⟨.mv 0, cmdFlit 1 4 0 3 false 0 7 0x1000 64 4 0, List.replicate 64 1, 0x1000, on, by decide +kernel⟩,
  ⟨0, cmdFlit 2 4 0 3 false 0 7 (chipPa (.mv 0) 0xFF00004) 4 5 0, 1, on, by decide +kernel⟩,
  ⟨.mv 0, cr0, sp, cmdFlit 16 4 0 3 false 0 7 (0x1000) 64 5 0, 0x1000, on |> inSt sp stLive, by decide +kernel⟩,
  ⟨.mv 0, cr0, sp, cmdFlit 32 4 0 3 false 0 7 (0) 1 5 0, on |> inSt sp stLive, by decide +kernel⟩,
  ⟨0, cmdFlit 73 4 0 3 false 0 7 (0x1000) 64 5 0, on, by decide +kernel⟩,
  ⟨cmdFlit 73 4 0 3 false 0 7 (0x1000) 64 5 0, by decide +kernel⟩,
  ⟨0, on |> enable .mem (.mv 0) |> atTime (24 * hourBeats), by decide +kernel⟩⟩

theorem test_witness_EngineCommandsComplete :
    (∃ (m : Mv) (e : Fin 16) (n : Nat) (s : State), s.atFrame (.mv m) = true ∧ s.enabled .eng (.mv m) = true ∧ s.selection
      (.mv m) e (s.frame (.mv m)) = some (n, none) ∧ s.ctxOnDemand (.mv m) n = false) ∧
    (∃ (m : Mv) (e : Fin 16) (c : Nat) (i : Nat) (n : Nat) (s : State), s.atFrame (.mv m) = true ∧ s.enabled .eng (.mv m) =
      true ∧ s.selection (.mv m) e (s.frame (.mv m)) = some (c, some i) ∧ (s.eng (.mv m) e).entry ≠ some i ∧ s.nextOpen (.mv
      m) e = some n) ∧
    (∃ (m : Mv) (e : Fin 16) (s : State), s.atFrame (.mv m) = true ∧ s.enabled .eng (.mv m) = true ∧ s.selection (.mv m) e
      (s.frame (.mv m)) = none) ∧
    (∃ (m : Mv) (e : Fin 16) (i : OpInfo) (o : OpInfo) (n : Nat) (u : Nat) (next : Nat) (y : StreamSt) (w : List Nat) (v :
      State) (s : State), (s.eng (.mv m) e).run = some n ∧ s.stream (.mv m) e n = y ∧ s.header y = w ∧ s.enabled .eng (.mv
      m) = true ∧ s.engHeld (.mv m) e = false ∧ (s.eng (.mv m) e).desc = none ∧ (s.eng (.mv m) e).abortAt = 0 ∧ s.replayRun
      (.mv m) e = none ∧ (s.eng (.mv m) e).deferred = false ∧ y.bound = true ∧ y.stopped = false ∧ s.ctxState (.mv m) n = 2
      ∧ s.headPoisoned y = false ∧ s.operation (.mv m) (s.descWords y) i = (o, v) ∧ s.readingOk (.mv m) w o = true ∧
      v.startCause w o = none ∧ (unitOf w o).getD e = u ∧ v.accessCause (.mv m) n u o.work = none ∧ v.startable (.mv m) e n
      w o = true ∧ v.needToken (.mv m) n w o = 0 ∧ v.fitsRun (.mv m) e (hBound w) = true ∧ v.poisonRead (.mv m) u o.work = 0
      ∧ nextPos w o y.pos = next) ∧
    (∃ (m : Mv) (u : Fin 22) (x : Desc) (s : State), u.val < 16 ∧ (s.eng (.mv m) u).abortAt = 0 ∧ (s.eng (.mv m) u).desc =
      some x ∧ s.fence (issuer (.mv m) x.ctx false) = none ∧ s.beat (.mv m) ≤ x.deadline ∧ s.readsLeft (.mv m) u x.num =
      false ∧ x.start + workBeats x.op.work ≤ s.beat (.mv m) ∧ s.accessCause (.mv m) x.ctx u x.op.work = none) ∧
    (∃ (m : Mv) (u : Fin 22) (x : Desc) (rest : List Desc) (s : State), 16 ≤ u.val ∧ (s.eng (.mv m) u).abortAt = 0 ∧ s.queue
      (.mv m) u = x :: rest ∧ s.fence (issuer (.mv m) x.ctx false) = none ∧ s.beat (.mv m) ≤ x.deadline ∧ s.readsLeft (.mv
      m) u x.num = false ∧ x.start + workBeats x.op.work ≤ s.beat (.mv m) ∧ s.accessCause (.mv m) x.ctx u x.op.work = none)
      ∧
    (∃ (m : Mv) (u : Fin 22) (s : State), (s.eng (.mv m) u).abortAt ≠ 0) ∧
    (∃ (m : Mv) (u : Fin 22) (x : Desc) (s : State), u.val < 16 ∧ (s.eng (.mv m) u).desc = some x ∧ x.deadline ≤ s.beat (.mv
      m)) ∧
    (∃ (m : Mv) (u : Fin 22) (x : Desc) (rest : List Desc) (s : State), 16 ≤ u.val ∧ s.queue (.mv m) u = x :: rest ∧ x ∉
      rest ∧ x.deadline ≤ s.beat (.mv m)) :=
  ⟨⟨0, 0, 3, on |> enable .eng (.mv 0) |> fun s => s.setTbl 8 0 0 0 0 0 3, by decide +kernel⟩,
  ⟨0, 0, 3, 0, 3, on |> enable .eng (.mv 0) |> (fun s => (s.setTbl 8 0 0 0 0 0 (3 + 2 ^ 5)).setStream (.mv 0) 0 3
    { bound := true }) |> reg (.mv 0) .eng 0 Reg.ENG_CTX_STATE_KIND 1 (k := ctxOff 3) |> reg (.mv 0) .eng 0
    Reg.ENG_CTX_STATE_STATE 2 (k := ctxOff 3), by decide +kernel⟩,
  ⟨0, 0, on |> enable .eng (.mv 0), by decide +kernel⟩,
  ⟨0, 0, op, op, 3, 0, 1, { head := 0x1000, bound := true }, [65536, 100, 0, 0], _, on |> enable .eng (.mv 0) |> (fun s =>
    (s.setEng (.mv 0) 0 { run := some 3 }).setStream (.mv 0) 0 3 { head := 0x1000, bound := true }) |> reg (.mv 0) .eng 0
    Reg.ENG_CTX_STATE_STATE 2 (k := ctxOff 3) |> (fun s => s.wrBytes 0x1000 (leBytes 4 (2 ^ 16) ++ leBytes 4 100 ++ leBytes
    4 0 ++ leBytes 4 0)), by decide +kernel, by decide +kernel, by decide +kernel, by decide +kernel, by decide +kernel,
    by decide +kernel, by decide +kernel, by decide +kernel, by decide +kernel, by decide +kernel, by decide +kernel,
    by decide +kernel, by decide +kernel, pair_eq (by decide +kernel), by decide +kernel⟩,
  ⟨0, 1, ⟨0, 3, 0, 0, 1, [65536, 100, 0, 0], op, 0, 90, false⟩, on |> fun s => s.setEng (.mv 0) 1
    { desc := some ⟨0, 3, 0, 0, 1, [65536, 100, 0, 0], op, 0, 90, false⟩ }, by decide +kernel⟩,
  ⟨0, 16, ⟨0, 3, 0, 0, 1, [65536, 100, 0, 0], op, 0, 90, false⟩, [], on |> fun s => s.setQueue (.mv 0) 16 [⟨0, 3, 0, 0, 1,
    [65536, 100, 0, 0], op, 0, 90, false⟩], by decide +kernel⟩,
  ⟨0, 1, on |> fun s => s.setEng (.mv 0) 1 { abortAt := 1 }, by decide +kernel⟩,
  ⟨0, 1, ⟨0, 3, 0, 0, 1, [65536, 100, 0, 0], op, 0, 90, false⟩, on |> atBeat (.mv 0) 90 |> fun s => s.setEng (.mv 0) 1
    { desc := some ⟨0, 3, 0, 0, 1, [65536, 100, 0, 0], op, 0, 90, false⟩ }, by decide +kernel⟩,
  ⟨0, 16, ⟨0, 3, 0, 0, 1, [65536, 100, 0, 0], op, 0, 90, false⟩, [], on |> atBeat (.mv 0) 90 |> fun s => s.setQueue (.mv 0)
    16 [⟨0, 3, 0, 0, 1, [65536, 100, 0, 0], op, 0, 90, false⟩], by decide +kernel⟩⟩

theorem test_witness_SyncCommandsComplete :
    (∃ (m : Mv) (w : Word) (s : State), bit w.toNat 8 = true ∧ s.powered (.mv m) .eng = true ∧ s.heldInReset (.mv m) .eng =
      false ∧ s.ctxOnDemand (.mv m) (w.toNat % 32) = true ∧ s.ctxState (.mv m) (w.toNat % 32) = 1) ∧
    (∃ (m : Mv) (n : Fin 4096) (img : Image) (s : State), s.powered (.mv m) .syn = true ∧ s.heldInReset (.mv m) .syn = false
      ∧ s.boot.image = some img ∧ (m, n.val) ∈ img.hostCtrs) ∧
    (∃ (m : Mv) (ctx : Fin 32) (f : FenceSt) (s : State), s.fence (issuer (.mv m) ctx false) = some f ∧ f.kind = 3 ∧ (s.eng
      (.mv m) f.eng).desc = none ∧ s.getF (.mv m) .syn 0 Reg.SYN_BAR_ARRIVED (4 * f.arg) + 1 < s.getF (.mv m) .syn 0
      Reg.SYN_BAR_MEMBERS (4 * f.arg)) ∧
    (∃ (m : Mv) (s : State), s.domOn (8 + m.val) = true) :=
  ⟨⟨0, 0x105, on |> reg (.mv 0) .eng 0 Reg.ENG_CTX_STATE_KIND 1 (k := ctxOff 5) |> reg (.mv 0) .eng 0
    Reg.ENG_CTX_STATE_STATE 1 (k := ctxOff 5), by decide +kernel⟩,
  ⟨0, 7, { img with hostCtrs := [(0, 7)] }, on |> withImg { img with hostCtrs := [(0, 7)] }, by decide +kernel⟩,
  ⟨0, 3, ⟨0, [], 0, 0, 3, 2, 0, 0, 0⟩, on |> reg (.mv 0) .syn 0 Reg.SYN_BAR_MEMBERS 2 (k := 8) |> fun s => s.setFence
    (issuer (.mv 0) 3 false) (some ⟨0, [], 0, 0, 3, 2, 0, 0, 0⟩), by decide +kernel⟩,
  ⟨0, on, by decide +kernel⟩⟩

theorem test_witness_FenceCommandsComplete :
    (∃ (c : Crown) (cmd : List Byte) (r : ReadReq) (s : State), Tab.get [] s.rdReqs (dieCode (.cr c)) = [r] ∧ r.tag = cmdTag
      cmd ∧ r.target = cmdTarget cmd ∧ r.host = true ∧ cmdHost cmd = true ∧ (∀ q ∈ (s.host c).reads, q.id = r.id → s.time ≤
      q.at_ + s.rdLimit c * 1600)) ∧
    (∃ (m : Mv) (cmd : List Byte) (data : List (List Byte)) (r : ReadReq) (a : Nat) (s : State), Tab.get [] s.rdReqs
      (dieCode (.mv m)) = [r] ∧ r.tag = cmdTag cmd ∧ r.target = cmdTarget cmd ∧ r.host = false ∧ cmdHost cmd = false ∧ r.ctx
      = cmdCtx cmd ∧ s.fencing (.mv m) r.eng r.id = false ∧ r.dst = some (.mem a) ∧ s.ownAddr (.mv m) a = true ∧ a % 64 = 0
      ∧ counterOf (a % 2 ^ 48) = none ∧ cmdA cmd = 0 ∧ r.target % 64 = 0 ∧ (writeData r.target r.len data).length = 64) ∧
    (∃ (m : Mv) (cmd : List Byte) (r : ReadReq) (s : State), Tab.get [] s.rdReqs (dieCode (.mv m)) = [r] ∧ r.tag = cmdTag
      cmd ∧ r.target = cmdTarget cmd ∧ r.host = false ∧ cmdHost cmd = false ∧ r.ctx = cmdCtx cmd ∧ s.fencing (.mv m) r.eng
      r.id = false ∧ r.dst = none ∧ cmdA cmd = 0) ∧
    (∃ (d : Die) (cmd : List Byte) (f : FenceSt) (dest : Nat) (x : Nat) (s : State), cmdHost cmd = false ∧ s.fence (issuer d
      (cmdCtx cmd) false) = some f ∧ cmdTarget cmd / 2 ^ 48 * 8 + cmdTarget cmd / 2 ^ 45 % 8 = dest ∧ dest ∈ f.left ∧ x ∈
      f.left ∧ x ≠ dest ∧ cmdEpoch cmd = f.old ∧ cmdA cmd % 2 ^ 32 = Tab.get 0 s.issued (issKey (issuer d (cmdCtx cmd)
      false) f.old dest)) ∧
    (∃ (m : Mv) (cmd : List Byte) (f : FenceSt) (dest : Nat) (s : State), cmdHost cmd = false ∧ s.fence (issuer (.mv m)
      (cmdCtx cmd) false) = some f ∧ cmdTarget cmd / 2 ^ 48 * 8 + cmdTarget cmd / 2 ^ 45 % 8 = dest ∧ f.left = [dest] ∧
      f.kind = 0 ∧ cmdEpoch cmd = f.old ∧ cmdA cmd % 2 ^ 32 = Tab.get 0 s.issued (issKey (issuer (.mv m) (cmdCtx cmd) false)
      f.old dest)) ∧
    (∃ (d : Die) (ctx : Fin 33) (f : FenceSt) (s : State), s.fence (issuer d ctx (ctx.val == 32)) = some f ∧ f.sentAt + 64 ≤
      s.time) :=
  ⟨⟨0, cmdFlit 32 4 0 0 true 0 7 (0x1000) 64 0 0, ⟨7, 0, true, 0x1000, 64, none, 9, 0⟩, on |> fun s =>
    { s with rdReqs := Tab.set [] s.rdReqs 4 [⟨7, 0, true, 0x1000, 64, none, 9, 0⟩] }, by decide +kernel⟩,
  ⟨0, cmdFlit 32 4 0 3 false 0 7 (2 ^ 45 + 0x1000) 64 0 0, [List.replicate 64 1], ⟨7, 3, false, 2 ^ 45 + 0x1000, 64, some
    (.mem 0x2000), 18, 0⟩, 0x2000, on |> fun s =>
    { s with rdReqs := Tab.set [] s.rdReqs 0 [⟨7, 3, false, 2 ^ 45 + 0x1000, 64, some (.mem 0x2000), 18, 0⟩] },
    by decide +kernel⟩,
  ⟨0, cmdFlit 32 4 0 3 false 0 7 (2 ^ 45 + 0x1000) 64 0 0, ⟨7, 3, false, 2 ^ 45 + 0x1000, 64, none, 18, 0⟩, on |> fun s =>
    { s with rdReqs := Tab.set [] s.rdReqs 0 [⟨7, 3, false, 2 ^ 45 + 0x1000, 64, none, 18, 0⟩] }, by decide +kernel⟩,
  ⟨.mv 0, cmdFlit 33 4 0 3 false 0 7 (4 * 2 ^ 45) 1 0 0, ⟨0, [4, 1], 0, 0, 0, 0, 0, 0, 0⟩, 4, 1, on |> fun s => s.setFence
    (issuer (.mv 0) 3 false) (some ⟨0, [4, 1], 0, 0, 0, 0, 0, 0, 0⟩), by decide +kernel⟩,
  ⟨0, cmdFlit 33 4 0 3 false 0 7 (4 * 2 ^ 45) 1 0 0, ⟨0, [4], 0, 0, 0, 0, 0, 0, 0⟩, 4, on |> fun s => s.setFence (issuer
    (.mv 0) 3 false) (some ⟨0, [4], 0, 0, 0, 0, 0, 0, 0⟩), by decide +kernel⟩,
  ⟨.mv 0, 3, ⟨0, [4], 0, 0, 0, 0, 0, 0, 0⟩, on |> atTime 64 |> fun s => s.setFence (issuer (.mv 0) 3 false) (some ⟨0, [4],
    0, 0, 0, 0, 0, 0, 0⟩), by decide +kernel⟩⟩

theorem test_witness_HostAccessCommandsComplete :
    (∃ (c : Crown) (x : Nat) (pa : Nat) (bytes : List Byte) (s : State), s.hostOpen c = true ∧ bytes ≠ [] ∧ s.bar2In c x
      bytes.length true = some pa ∧ pa % 4096 + bytes.length ≤ 4096) ∧
    (∃ (c : Crown) (x : Nat) (pa : Nat) (bytes : List Byte) (d : Die) (e : LinkEnd) (s : State), s.hostOpen c = true ∧ bytes
      ≠ [] ∧ s.bar2In c x bytes.length true = some pa ∧ pa % 4096 + bytes.length ≤ 4096 ∧ pa < 2 ^ 48 ∧ dieOfCode (pa / 2 ^
      45) = some d ∧ d ≠ .cr c ∧ s.route (.cr c) s.pkgId d = some e) ∧
    (∃ (c : Crown) (x : Nat) (len : Nat) (pa : Nat) (s : State), s.hostOpen c = true ∧ len ≠ 0 ∧ s.bar2In c x len false =
      some pa ∧ (s.fence (issuer (.cr c) 0 true)).isSome = true) ∧
    (∃ (c : Crown) (x : Nat) (len : Nat) (pa : Nat) (s : State), s.hostOpen c = true ∧ len ≠ 0 ∧ s.bar2In c x len false =
      some pa ∧ dieOfCode (pa / 2 ^ 45) = some (.cr c) ∧ (s.host c).reads = [] ∧ s.fence (issuer (.cr c) 0 true) = none ∧ (∀
      k < 128, Tab.get 0 s.issued (issKey (issuer (.cr c) 0 true) (s.epoch (.cr c) 0 true) k) = Tab.get 0 s.seenIssued
      (issKey (issuer (.cr c) 0 true) (s.epoch (.cr c) 0 true) k))) ∧
    (∃ (c : Crown) (id : Nat) (r : HostRd) (s : State), (s.host c).reads = [r] ∧ r.id = id ∧ r.at_ + s.rdLimit c * 1600 ≤
      s.time) ∧
    (∃ (c : Crown) (id : Nat) (bytes : List Byte) (r : HostMove) (d : Die) (s : State), (s.host c).moves = [r] ∧ r.id = id ∧
      s.moveLate c r (s.time - 1) = false ∧ dieOfCode r.die = some d ∧ s.ownAddr d r.dst = true ∧ r.dst % 64 = 0 ∧ counterOf
      (r.dst % 2 ^ 48) = none ∧ r.len = 64 ∧ bytes.length = 64) ∧
    (∃ (c : Crown) (id : Nat) (r : HostMove) (d : Die) (s : State), (s.host c).moves = [r] ∧ r.id = id ∧ r.at_ + cplTimeout
      (s.host c).cplTo * 1600 ≤ s.time ∧ dieOfCode r.die = some d ∧ s.ownAddr d r.dst = true ∧ counterOf (r.dst % 2 ^ 48) =
      none ∧ r.len ≠ 0) :=
  ⟨⟨0, 0x1000, 0x1000, [1, 2], on |> enable .pci cr0 |> reg cr0 .pci 0 Reg.PCI_BAR2_AP_VALID 1 |> reg cr0 .pci 0
    Reg.PCI_BAR2_AP_BASE 0, by decide +kernel⟩,
  ⟨0, 0x1000, 0x1000, [1, 2], .mv 0, sc, on |> enable .pci cr0 |> reg cr0 .pci 0 Reg.PCI_BAR2_AP_VALID 1 |> reg cr0 .pci 0
    Reg.PCI_BAR2_AP_BASE 0 |> inSt sc stLive, by decide +kernel⟩,
  ⟨0, 0x1000, 64, 0x1000, on |> enable .pci cr0 |> reg cr0 .pci 0 Reg.PCI_BAR2_AP_VALID 1 |> reg cr0 .pci 0
    Reg.PCI_BAR2_AP_BASE 0 |> fun s => s.setFence (issuer cr0 0 true) (some ⟨0, [1], 0, 0, 2, 0, 0, 0, 0⟩),
    by decide +kernel⟩,
  ⟨0, 0x1000, 64, chipPa cr0 0x1000, on |> enable .pci cr0 |> reg cr0 .pci 0 Reg.PCI_BAR2_AP_VALID 1 |> reg cr0 .pci 0
    Reg.PCI_BAR2_AP_BASE (chipPa cr0 0 / 2 ^ 32), by decide +kernel, by decide +kernel, by decide +kernel,
    by decide +kernel, by decide +kernel, by decide +kernel, fun _ _ => rfl⟩,
  ⟨0, 9, ⟨9, 0, 0x1000, 64, false⟩, on |> atTime 64000 |> withHost 0 fun h =>
    { h with reads := [⟨9, 0, 0x1000, 64, false⟩] }, by decide +kernel⟩,
  ⟨0, 9, List.replicate 64 1, ⟨9, 0, 0, 0, 3, 18, 0x2000, 64, 0⟩, .mv 0, on |> withHost 0 fun h =>
    { h with moves := [⟨9, 0, 0, 0, 3, 18, 0x2000, 64, 0⟩] }, by decide +kernel⟩,
  ⟨0, 9, ⟨9, 0, 0, 0, 3, 18, 0x2000, 64, 0⟩, .mv 0, on |> atTime 64000000 |> withHost 0 fun h =>
    { h with moves := [⟨9, 0, 0, 0, 3, 18, 0x2000, 64, 0⟩] }, by decide +kernel⟩⟩

theorem test_witness_EndpointCommandsComplete :
    (∃ (c : Crown) (s : State), s.hasDie (.cr c) = true) ∧
    (∃ (c : Crown) (v : Fin 64) (s : State), s.cause c v = true ∧ s.enabled .pci (.cr c) = true ∧ (s.host c).msixEn = true ∧
      (s.host c).funMask = false ∧ bit (s.host c).unmasked v = true ∧ bit (s.host c).sent v = false) ∧
    (∃ (c : Crown) (s : State), s.hasDie (.cr c) = true ∧ (s.host c).pciReady = true) ∧
    (∃ (c : Crown) (s : State), s.hasDie (.cr c) = true ∧ (s.host c).pciReady = true) ∧
    (∃ (c : Crown) (s : State), s.hasDie (.cr c) = true ∧ (s.host c).pciReady = true) ∧
    (∃ (c : Crown) (s : State), s.hasDie (.cr c) = true ∧ (s.host c).pciReady = true) ∧
    (∃ (c : Crown) (s : State), s.hasDie (.cr c) = true ∧ (s.host c).pciReady = true) ∧
    (∃ (c : Crown) (s : State), s.hasDie (.cr c) = true ∧ (s.host c).pciReady = false) ∧
    (∃ (i : Nat) (o : ImgOut) (s : State), s.outputs[i]? = some o ∧ o.ring = none ∧ s.outputsOn = true ∧ outDue o (s.beat
      (.cr o.crown) + 1184) = true) ∧
    (∃ (i : Nat) (o : ImgOut) (s : State), s.outputs[i]? = some o ∧ s.outputsOn = true ∧ outDue o (s.beat (.cr o.crown)) =
      true ∧ s.hasDie (.cr o.crown) = true ∧ (s.dom 4).level ≠ 4) ∧
    (∃ (p : Path) (c : Crown) (i : Nat) (s : State), s.deadRead p (.cr c) .eth = none ∧ s.getF (.cr c) .eth 0
      Reg.ETH_TBL_IDX_INDEX = i ∧ i < 8192 ∧ s.getF (.cr c) .eth 0 Reg.ETH_TBL_SEL_SPACE = 0) :=
  ⟨⟨0, on, by decide +kernel⟩,
  ⟨0, 2, on |> enable .pci cr0 |> reg cr0 .pci 0 Reg.PCI_EVT_CAUSE 4 |> withHost 0 fun h =>
    { h with msixEn := true, unmasked := 4 }, by decide +kernel⟩,
  ⟨0, on |> withHost 0 fun h => { h with pciReady := true }, by decide +kernel⟩,
  ⟨0, on |> withHost 0 fun h => { h with pciReady := true }, by decide +kernel⟩,
  ⟨0, on |> withHost 0 fun h => { h with pciReady := true }, by decide +kernel⟩,
  ⟨0, on |> withHost 0 fun h => { h with pciReady := true }, by decide +kernel⟩,
  ⟨0, on |> withHost 0 fun h => { h with pciReady := true }, by decide +kernel⟩,
  ⟨0, on, by decide +kernel⟩,
  ⟨0,
    { crown := 0, ring := none, port := 0, mac := 1, vlan := 0, pcp := 0, ipv6 := false, dstIp := 1, srcPort := 1, dstPort := 2, dscp := 0, source := 3, rfmt := 0, last := false, base := 0, count := 1, pa := chipPa cr0 0x1000, period := 2048, offset := 1184 },
    on |> inPhase 10 |> withImg
    { img with outputs := [{ crown := 0, ring := none, port := 0, mac := 1, vlan := 0, pcp := 0, ipv6 := false, dstIp := 1, srcPort := 1, dstPort := 2, dscp := 0, source := 3, rfmt := 0, last := false, base := 0, count := 1, pa := chipPa cr0 0x1000, period := 2048, offset := 1184 }] },
    by decide +kernel⟩,
  ⟨0,
    { crown := 0, ring := none, port := 0, mac := 1, vlan := 0, pcp := 0, ipv6 := false, dstIp := 1, srcPort := 1, dstPort := 2, dscp := 0, source := 3, rfmt := 0, last := false, base := 0, count := 1, pa := chipPa cr0 0x1000, period := 2048, offset := 0 },
    on |> inPhase 10 |> withImg
    { img with outputs := [{ crown := 0, ring := none, port := 0, mac := 1, vlan := 0, pcp := 0, ipv6 := false, dstIp := 1, srcPort := 1, dstPort := 2, dscp := 0, source := 3, rfmt := 0, last := false, base := 0, count := 1, pa := chipPa cr0 0x1000, period := 2048, offset := 0 }] },
    by decide +kernel⟩,
  ⟨.bar0 0, 0, 5, on |> reg cr0 .eth 0 Reg.ETH_TBL_IDX_INDEX 5, by decide +kernel⟩⟩

theorem test_witness_HealthCommandsComplete_tray0 :
    (∃ (n : Fin 8) (r : SbSlot) (box : Nat) (u : State) (s : State), s.sbTakes (.tray n) r 0x18 = (some box, u) ∧ bitsOf box
      6 3 = 1 ∧ u.isFollower = false ∧ bit box 62 = true) :=
  ⟨2, tray4, 0x18 + 2 ^ 6 + 3 * 2 ^ 12 + 2 ^ 62, _, on |> inSt (.tray 2) stSync, pair_eq (by decide +kernel),
    by decide +kernel⟩

theorem test_witness_HealthCommandsComplete_tray1 :
    (∃ (n : Fin 8) (p : Fin 8) (r : SbSlot) (box : Nat) (u : State) (s : State), s.sbTakes (.tray n) r 0x18 = (some box, u)
      ∧ bitsOf box 6 3 = 1 ∧ u.isFollower = true ∧ u.syncPort = some p) :=
  ⟨2, 0, tray4, 0x18 + 2 ^ 6 + 3 * 2 ^ 12 + 2 ^ 62, _, follower |> inSt (.tray 2) stSync |> inSt tp stLive |> reg cr0 .bal 0
    Reg.BAL_REF_PORT_VALID 1, pair_eq (by decide +kernel), by decide +kernel⟩

theorem test_witness_HealthCommandsComplete_tray2 :
    (∃ (n : Fin 8) (r : SbSlot) (box : Nat) (u : State) (s : State), s.sbTakes (.tray n) r 0x18 = (some box, u) ∧ bitsOf box
      6 3 = 3 ∧ u.turn cr0 < bitsOf box 16 43 ∧ u.recov.lastOrder ≠ bitsOf box 16 43 + 1) :=
  ⟨2, tray5, 0x18 + 3 * 2 ^ 6 + 9 * 2 ^ 16, _, on |> inSt (.tray 2) stSync, pair_eq (by decide +kernel), by decide +kernel⟩

theorem test_witness_HealthCommandsComplete :
    (∃ (m : Mv) (s : State), s.atFrame (.mv m) = true ∧ s.frame (.mv m) % 1024 = 256 ∧ s.ctlRuns m = true ∧ s.enabled .rcv
      (.mv m) = true) ∧
    (∃ (m : Mv) (s : State), s.atTurn cr0 = true ∧ s.turn cr0 ≠ 0 ∧ s.enabled .rcv (.mv m) = true ∧ Tab.get 0 s.recov.seen m
      = s.turn cr0) ∧
    (∃ (s : State), s.atFrame cr0 = true ∧ s.frame cr0 % 1024 = 512 ∧ s.enabled .rcv cr0 = true) ∧
    (∃ (m : Mv) (img : Image) (pa : Nat) (s : State), s.boot.image = some img ∧ (img.faultAt.find? (fun p => p.1 == m) =
      some (m, pa)) ∧ s.atFrame (.mv m) = true ∧ s.ctlRuns m = true) ∧
    (∃ (c : Crown) (s : State), s.hasDie (.cr c) = true) ∧
    (∃ (c : Crown) (s : State), s.hasDie (.cr c) = true ∧ Tab.get 0 s.recov.kicked c + 80 * msBeats ≤ s.time ∧ bit (s.getF
      cr0 .rcv 0 Reg.RCV_MISSED_WDOG) c = false ∧ s.pins.oos = false) ∧
    (∃ (s : State), s.recov.stopTurn ≠ 0 ∧ s.recov.stopTurn - 1 ≤ s.turn cr0 ∧ (s.dom 4).level < 4) :=
  ⟨⟨0, on |> enable .rcv (.mv 0) |> atBeat (.mv 0) (256 * frameBeats), by decide +kernel⟩,
  ⟨0, on |> enable .rcv (.mv 0) |> atBeat cr0 turnBeats |> withRec fun r => { r with seen := Tab.set 0 r.seen 0 1 },
    by decide +kernel⟩,
  ⟨on |> enable .rcv cr0 |> atBeat cr0 (512 * frameBeats), by decide +kernel⟩,
  ⟨0, { img with faultAt := [(0, 0x3000)] }, 0x3000, on |> withImg { img with faultAt := [(0, 0x3000)] },
    by decide +kernel⟩,
  ⟨0, on, by decide +kernel⟩,
  ⟨0, on |> atTime (80 * msBeats), by decide +kernel⟩,
  ⟨on |> withRec fun r => { r with stopTurn := 1 }, by decide +kernel⟩⟩

theorem test_witness_LadderCommandsComplete :
    (∃ (m : Mv) (u : Fin 22) (lvl : Nat) (s : State), s.hung (.mv m) u = true ∧ s.replay (.mv m) = none ∧ lvl = (if u.val <
      16 then 2 else 3) ∧ (s.dom m).level < lvl ∧ (s.dom 4).level < lvl) ∧
    (∃ (k : Fin 5) (s : State), (s.dom k).level ≠ 0 ∧ (s.dom k).step = 1 ∧ (s.dom k).since + 4096 ≤ s.time) ∧
    (∃ (m : Mv) (s : State), s.overdue m = false ∧ (s.dom 4).level ≠ 4 ∧ (s.dom m).level = 2 ∧ (s.dom m).step = 2 ∧
      s.ctlRuns m = true) ∧
    (∃ (m : Mv) (s : State), s.overdue m = false ∧ (s.dom 4).level ≠ 4 ∧ (s.dom m).level = 3 ∧ (s.dom m).step = 2) ∧
    (∃ (m : Mv) (s : State), s.overdue m = false ∧ (s.dom 4).level = 4 ∧ (s.dom 4).step = 2) ∧
    (∃ (k : Fin 5) (s : State), k.val < 4 ∧ (s.dom k).level = 2 ∧ (s.dom k).step < 5 ∧ (s.dom 4).level < 3 ∧ (s.dom k).since
      + 8 * frameBeats ≤ s.time) ∧
    (∃ (s : State), (s.dom 4).level = 4 ∧ (s.dom 4).since + 2500 * msBeats ≤ s.time ∧ s.pins.oos = false ∧ s.isF cr0 .rcv 0
      Reg.RCV_STATUS_PWRCYC = false) ∧
    (∃ (m : Mv) (s : State), s.atTurn (.mv m) = true ∧ 2 ≤ (s.dom m).level ∧ (s.dom m).step = 6 ∧ Tab.get 0 s.recov.doneAt m
      - 1 + frameBeats ≤ s.beat (.mv m)) ∧
    (∃ (m : Mv) (s : State), s.phase = 10 ∧ (s.dom m).level < 2 ∧ (s.dom 4).level < 2) ∧
    (∃ (m : Mv) (s : State), s.phase = 10 ∧ (s.dom m).level < 3 ∧ (s.dom 4).level < 3) ∧
    (∃ (s : State), s.phase = 10 ∧ (s.dom 4).level < 4) :=
  ⟨⟨0, 2, 2, on |> atTime 4096 |> fun s => s.setEng (.mv 0) 2 { abortAt := 1 }, by decide +kernel⟩,
  ⟨1, on |> atTime 4096 |> withDom 1 { level := 2, step := 1, origin := 0 }, by decide +kernel⟩,
  ⟨0, on |> withDom 0 { level := 2, step := 2, origin := 1 }, by decide +kernel⟩,
  ⟨0, on |> withDom 0 { level := 3, step := 2, origin := 0 }, by decide +kernel⟩,
  ⟨0, on |> withDom 4 { level := 4, step := 2, origin := 0 }, by decide +kernel⟩,
  ⟨0, on |> atTime (8 * frameBeats) |> withDom 0 { level := 2, step := 1, origin := 0 }, by decide +kernel⟩,
  ⟨on |> atTime (2500 * msBeats) |> withDom 4 { level := 4, step := 1, origin := 0 }, by decide +kernel⟩,
  ⟨0, on |> atBeat (.mv 0) turnBeats |> withDom 0 { level := 2, step := 6, origin := 0 }, by decide +kernel⟩,
  ⟨0, on |> inPhase 10, by decide +kernel⟩,
  ⟨0, on |> inPhase 10, by decide +kernel⟩,
  ⟨on |> inPhase 10, by decide +kernel⟩⟩

theorem test_witness_ReplayCommandsComplete :
    (∃ (m : Mv) (s : State), s.replay (.mv m) = none ∧ s.ctlRuns m = true ∧ (s.dom m).step = 5 ∧ (s.dom m).level ≠ 0) ∧
    (∃ (m : Mv) (r : Replay) (n : Nat) (rest : List Nat) (s : State), s.replay (.mv m) = some r ∧ r.cur = none ∧ r.todo = n
      :: rest ∧ s.hasToken (.mv m) 2 0 r.eng = true) ∧
    (∃ (m : Mv) (r : Replay) (n : Nat) (k : Nat) (rest : List Nat) (s : State), s.replay (.mv m) = some r ∧ r.cur = some n ∧
      (s.dom m).step = 5 ∧ r.todo = k :: rest ∧ r.hit = 8) ∧
    (∃ (m : Mv) (r : Replay) (n : Nat) (k : Nat) (rest : List Nat) (s : State), s.replay (.mv m) = some r ∧ r.cur = some n ∧
      (s.dom m).step = 5 ∧ r.todo = k :: rest ∧ r.hit = 0 ∧ s.sandboxBusy (.mv m) = false ∧ (s.stream (.mv m) r.eng
      n).started ≤ r.done) :=
  ⟨⟨0, on |> withDom 0 { level := 3, step := 5, origin := 0 }, by decide +kernel⟩,
  ⟨0, { die := 0, unit := 2, eng := 2, cause := 1, todo := [5, 6], cur := none, hit := 0 }, 5, [6], on |> withDie (.mv 0)
    (fun x => { x with power := { x.power with lent := [⟨2, 128, 0, 0, 2⟩] } }) |> fun s => s.setReplay (.mv 0) (some
    { die := 0, unit := 2, eng := 2, cause := 1, todo := [5, 6], cur := none, hit := 0 }), by decide +kernel⟩,
  ⟨0, { die := 0, unit := 2, eng := 2, cause := 1, todo := [5, 6], cur := some 4, hit := 8 }, 4, 5, [6], on |> withDom 0
    { level := 2, step := 5, origin := 0 } |> fun s => s.setReplay (.mv 0) (some
    { die := 0, unit := 2, eng := 2, cause := 1, todo := [5, 6], cur := some 4, hit := 8 }), by decide +kernel⟩,
  ⟨0, { die := 0, unit := 2, eng := 2, cause := 1, todo := [5, 6], cur := some 4, hit := 0 }, 4, 5, [6], on |> withDom 0
    { level := 2, step := 5, origin := 0 } |> fun s => s.setReplay (.mv 0) (some
    { die := 0, unit := 2, eng := 2, cause := 1, todo := [5, 6], cur := some 4, hit := 0 }), by decide +kernel⟩⟩

theorem test_witness_SnapshotCommandsComplete :
    (∃ (c : Crown) (g : Fin 16) (s : State), s.grpOn c g = true) ∧
    (∃ (c : Crown) (g : Fin 16) (k : Int) (s : State), s.grpOn c g = true ∧ s.atFrame (.cr c) = true ∧ 256 ≤ s.beat (.cr c)
      ∧ phaseOf (s.cadence (.cr c) (s.bank (.cr c)) (gCad (s.grpRec c g))) (s.frame (.cr c) + gCorr (s.grpRec c g)) = gFoff
      (s.grpRec c g) ∧ k = ((taiAt (s.mapOf (.cr c)) (s.beat (.cr c) - 256) : Int) - gWaitNs (s.grpRec c g)) / gPerNs
      (s.grpRec c g) ∧ (∀ l, (s.grp c g).last = some l → l < k)) ∧
    (∃ (c : Crown) (g : Fin 16) (rb : Nat) (y : Snap) (rep : Bool) (skip : Bool) (s : State), (s.grp c g).sel = some (rb, y,
      rep, skip) ∧ rb = s.beat (.cr c) ∧ s.grpOn c g = true) :=
  ⟨⟨0, 0, on |> enable .fus cr0 |> fun s => s.setTbl 10 4 0 0 0 0 (2 ^ 127 + 1000), by decide +kernel⟩,
  ⟨0, 0, _, on |> enable .fus cr0 |> fun s => s.setTbl 10 4 0 0 0 0 (2 ^ 127 + 1000) |> atBeat cr0 frameBeats,
    by decide +kernel, by decide +kernel, by decide +kernel, by decide +kernel, rfl, by decide +kernel⟩,
  ⟨0, 0, 2048, { k := 3 }, false, false, on |> enable .fus cr0 |> fun s => s.setTbl 10 4 0 0 0 0 (2 ^ 127 + 1000) |> atBeat
    cr0 2048 |> fun s => s.setGrp 0 0 { sel := some (2048, { k := 3 }, false, false) }, by decide +kernel⟩⟩

theorem test_witness_CalibrationCommandsComplete :
    (∃ (c : Crown) (g : Fin 16) (y : Snap) (s : State), s.grpOn c g = true ∧ s.atFrame (.cr c) = true ∧ gResValid (s.grpRec
      c g) = true ∧ s.fusProfile c = 0 ∧ (s.grp c g).batch = none ∧ s.hasLanded c (gResTag (s.grpRec c g)) = true ∧ (s.grp c
      g).held.find? (fun z => z.k == signed 64 (leNat (s.rdBytes (s.landArea c (gResTag (s.grpRec c g))) 8))) = some y) ∧
    (∃ (c : Crown) (g : Fin 16) (b : BatchSt) (s : State), (s.grp c g).batch = some b ∧ b.at_ ≤ s.beat (.cr c) ∧ s.atFrame
      (.cr c) = true) :=
  ⟨⟨0, 0, { k := 0 }, on |> enable .fus cr0 |> (fun s => s.setTbl 10 4 0 0 0 0 (2 ^ 351 + 2 ^ 127 + 1000)) |> atBeat cr0
    frameBeats |> (fun s => s.setGrp 0 0 { held := [{ k := 0 }] }) |> fun s =>
    { s with landed := Tab.set 0 s.landed (landKey 0 0) 1 }, by decide +kernel⟩,
  ⟨0, 0, { k := 0, at_ := 5 }, on |> atBeat cr0 frameBeats |> fun s => s.setGrp 0 0 { batch := some { k := 0, at_ := 5 } },
    by decide +kernel⟩⟩

theorem test_witness_TrackingCommandsComplete :
    (∃ (c : Crown) (s : State), s.hasDie (.cr c) = true ∧ s.powered (.cr c) .fus = true ∧ s.enabled .fus (.cr c) = true ∧
      s.isF (.cr c) .fus 0 Reg.FUS_MODE_CFG2_MODE_VALID = true ∧ s.fusProfile c < 2 ∧ s.atFrame (.cr c) = true ∧ s.hasLanded
      c (s.getF (.cr c) .fus 0 Reg.FUS_MODE_CFG2_MODE_TAG) = true ∧ (s.fusion c).modeTime = none) ∧
    (∃ (c : Crown) (p : Nat × Tab Track) (rest : List (Nat × Tab Track)) (s : State), (s.fusion c).pubs = p :: rest ∧ p.1 ≤
      s.beat (.cr c) ∧ s.atFrame (.cr c) = true) :=
  ⟨⟨0, on |> enable .fus cr0 |> reg cr0 .fus 0 Reg.FUS_MODE_CFG2_MODE_VALID 1 |> atBeat cr0 frameBeats |> fun s =>
    { s with landed := Tab.set 0 s.landed (landKey 0 0) 1 }, by decide +kernel⟩,
  ⟨0, (5, []), [], on |> atBeat cr0 frameBeats |> withFus 0 fun f => { f with pubs := [(5, [])] }, by decide +kernel⟩⟩

theorem test_witness_FusionTableCommandsComplete :
    (∃ (c : Crown) (i : Nat) (s : State), s.hasDie (.cr c) = true ∧ s.powered (.cr c) .fus = true ∧ s.getF (.cr c) .fus 0
      Reg.FUS_TBL_SPACE_SPACE = 0 ∧ s.getF (.cr c) .fus 0 Reg.FUS_TBL_INDEX_INDEX = i ∧ i < 16 ∧ s.lateWr = false) ∧
    (∃ (p : Path) (c : Crown) (i : Nat) (s : State), s.deadRead p (.cr c) .fus = none ∧ s.getF (.cr c) .fus 0
      Reg.FUS_TBL_SPACE_SPACE = 1 ∧ s.getF (.cr c) .fus 0 Reg.FUS_TBL_INDEX_INDEX = i ∧ i < 8192) :=
  ⟨⟨0, 5, on |> reg cr0 .fus 0 Reg.FUS_TBL_INDEX_INDEX 5, by decide +kernel⟩,
  ⟨.bar0 0, 0, 5, on |> reg cr0 .fus 0 Reg.FUS_TBL_SPACE_SPACE 1 |> reg cr0 .fus 0 Reg.FUS_TBL_INDEX_INDEX 5,
    by decide +kernel⟩⟩

theorem test_witness_PtpCommandsComplete :
    (∃ (m : Master) (s : State), s.ptp.sel = some m ∧ s.isF cr0 .bal 0 Reg.BAL_STATUS_TAI_VALID = true ∧ s.ptp.lastSync +
      intervals 3 m.logInt ≤ s.time) ∧
    (∃ (s : State), s.ptp.leap ≠ 0 ∧ (s.ptp.leapAt + s.utcNow + s.ptp.leap) * 1000000000 ≤ (s.taiNow cr0 : Int)) :=
  ⟨⟨⟨0, 0, 0, 0, 0, 0, false, 0, 0⟩, on |> reg cr0 .bal 0 Reg.BAL_STATUS_TAI_VALID 1 |> atTime 4800000000 |> fun s =>
    { s with ptp := { s.ptp with sel := some ⟨0, 0, 0, 0, 0, 0, false, 0, 0⟩ } }, by decide +kernel⟩,
  ⟨on |> fun s => { s with ptp := { s.ptp with leap := 1, leapAt := -100 } }, by decide +kernel⟩⟩

theorem test_witness_LedgerIntervalCommandsComplete :
    (∃ (b : Nat) (s : State), s.ldgNext = some (b, 0)) ∧
    (∃ (b : Nat) (s : State), s.ldgNext = some (b, 1)) ∧
    (∃ (s : State), s.atFrame cr0 = true ∧ s.isF cr0 .ldg 0 Reg.LDG_IN_VALID = true ∧ s.hasLanded 0 (s.getF cr0 .ldg 0
      Reg.LDG_IN_TAG) = true ∧ s.ldgState = 2) ∧
    (∃ (b : Nat) (s : State), s.ldgNext = some (b, 2)) ∧
    (∃ (s : State), s.ldgState = 1 ∧ (s.die cr0).taiEver = true) ∧
    (∃ (c : Closing) (rest : List Closing) (s : State), s.ldg.busy = none ∧ s.powered cr0 .ldg = true ∧ s.ldg.wait = c ::
      rest) ∧
    (∃ (c : Closing) (s : State), s.ldg.busy = some c ∧ s.ldg.busyAt + writeBeats (blocksOf c.count) s.ldgSclk ≤ s.time) :=
  ⟨⟨96000000000, on |> enable .ldg cr0 |> reg cr0 .ldg 0 Reg.LDG_STATUS_STATE 2 |> atBeat cr0 6000000000000,
    by decide +kernel⟩,
  ⟨0, on |> enable .ldg cr0 |> reg cr0 .ldg 0 Reg.LDG_STATUS_STATE 2 |> fun s => s.setLdgRec 2 0 (2 ^ 31),
    by decide +kernel⟩,
  ⟨on |> enable .ldg cr0 |> reg cr0 .ldg 0 Reg.LDG_STATUS_STATE 2 |> reg cr0 .ldg 0 Reg.LDG_IN_VALID 1 |> fun s =>
    { s with landed := Tab.set 0 s.landed (landKey 0 0) 1 } |> atBeat cr0 frameBeats, by decide +kernel⟩,
  ⟨0, on |> enable .ldg cr0 |> reg cr0 .ldg 0 Reg.LDG_STATUS_STATE 2 |> withLdg fun x =>
    { x with sets := [⟨0, 0, [], false⟩] }, by decide +kernel⟩,
  ⟨on |> enable .ldg cr0 |> reg cr0 .ldg 0 Reg.LDG_STATUS_STATE 1 |> withDie cr0 fun x =>
    { x with taiEver := true, taiAt := 5 }, by decide +kernel⟩,
  ⟨⟨0, 0, 0, 0, 0, 0, 0, 0, 0, []⟩, [], on |> withLdg fun x => { x with wait := [⟨0, 0, 0, 0, 0, 0, 0, 0, 0, []⟩] },
    by decide +kernel⟩,
  ⟨⟨0, 0, 0, 0, 0, 0, 0, 0, 0, []⟩, on |> atTime 100000000 |> withLdg fun x =>
    { x with busy := some ⟨0, 0, 0, 0, 0, 0, 0, 0, 0, []⟩ }, by decide +kernel⟩⟩

theorem test_witness_LedgerTableCommandsComplete :
    (∃ (s : State), s.ldg.tabDirty = true ∧ s.ldg.busy = none ∧ s.ldg.wait = [] ∧ s.ldg.pfAt = 0 ∧ s.ldgState ≠ 0 ∧
      s.powered cr0 .ldg = true) ∧
    (∃ (seq : Nat) (blocks : Nat) (s : State), s.ldg.out = some (seq, blocks)) ∧
    (∃ (s : State), s.powered cr0 .ldg = true ∧ s.ldgSpace < 4 ∧ s.ldgIndex < ldgSize s.ldgSpace ∧ s.lateWr = false) ∧
    (∃ (p : Path) (s : State), s.deadRead p cr0 .ldg = none ∧ s.ldgSpace < 4 ∧ s.ldgIndex < ldgSize s.ldgSpace) ∧
    (∃ (w : Word) (s : State), s.powered cr0 .ldg = true ∧ 4 ≤ s.ldgSpace ∧ s.ldgSpace < 6 ∧ w.toNat < 684) ∧
    (∃ (i : Nat) (s : State), s.ldg.rd = some (4, i)) :=
  ⟨⟨on |> enable .ldg cr0 |> reg cr0 .ldg 0 Reg.LDG_STATUS_STATE 2 |> withLdg fun x => { x with tabDirty := true },
    by decide +kernel⟩,
  ⟨1, 2, on |> withLdg fun x => { x with out := some (1, 2) }, by decide +kernel⟩,
  ⟨on |> reg cr0 .ldg 0 Reg.LDG_TBL_INDEX_INDEX 5, by decide +kernel⟩,
  ⟨.bar0 0, on |> reg cr0 .ldg 0 Reg.LDG_TBL_INDEX_INDEX 5, by decide +kernel⟩,
  ⟨5, on |> reg cr0 .ldg 0 Reg.LDG_TBL_SPACE_SPACE 4, by decide +kernel⟩,
  ⟨5, on |> withLdg fun x => { x with rd := some (4, 5) }, by decide +kernel⟩⟩

theorem test_witness_PowerLossCommandsComplete :
    (∃ (cause : Fin 4) (s : State), cause.val ≠ 0 ∧ s.isF cr0 .pwr 0 Reg.PWR_STATUS_PF = false ∧ 2 ≤ s.phase) ∧
    (∃ (s : State), s.isF cr0 .pwr 0 Reg.PWR_STATUS_PF = true ∧ s.atFrame cr0 = true) ∧
    (∃ (s : State), s.isF cr0 .pwr 0 Reg.PWR_STATUS_PF = true ∧ s.pins.pwrcycReq = false ∧ s.pins.oos = false ∧ (s.pow
      cr0).pfAt - 1 + 100 * msBeats ≤ s.time) ∧
    (∃ (d : Die) (s : State), s.isF cr0 .pwr 0 Reg.PWR_STATUS_THSD = false ∧ s.hasDie d = true ∧ s.isF d .thm 0
      Reg.THM_STATUS_TRIP = true) ∧
    (∃ (s : State), s.ldgState = 4 ∧ s.isF cr0 .pwr 0 Reg.PWR_STATUS_PF = true) :=
  ⟨⟨1, on |> inPhase 10, by decide +kernel⟩,
  ⟨on |> reg cr0 .pwr 0 Reg.PWR_STATUS_PF 1, by decide +kernel⟩,
  ⟨on |> reg cr0 .pwr 0 Reg.PWR_STATUS_PF 1 |> atTime (100 * msBeats), by decide +kernel⟩,
  ⟨.mv 0, on |> reg (.mv 0) .thm 0 Reg.THM_STATUS_TRIP 1, by decide +kernel⟩,
  ⟨on |> enable .ldg cr0 |> reg cr0 .ldg 0 Reg.LDG_STATUS_STATE 4 |> reg cr0 .pwr 0 Reg.PWR_STATUS_PF 1, by decide +kernel⟩⟩

theorem test_witness_PowerUpCommandsComplete :
    (∃ (s : State), s.x2 = true) ∧
    (∃ (m : Monitor) (mv : Nat) (s : State), s.monGood m = false ∧ (m = .aon 1 → s.x2 = true) ∧ monRise m ≤ mv ∧ s.monSince
      m + msBeats ≤ s.time ∧ s.boot.t0 ≠ 0) ∧
    (∃ (mv : Nat) (variant : Fin 4) (s : State), s.monGood .bus = false ∧ s.monGood (.aon 0) = true ∧ 650 ≤ mv ∧ s.monSince
      .bus + msBeats ≤ s.time ∧ s.boot.t0 = 0 ∧ variant.val = s.getF cr0 .cfg 0 Reg.CFG_VARIANT) ∧
    (∃ (m : Monitor) (mv : Nat) (s : State), s.monGood m = true ∧ mv < monFall m) ∧
    (∃ (m : Monitor) (mv : Nat) (s : State), s.monGood m = false ∧ bit (s.getF cr0 .boot 0 Reg.BOOT_MON_BAND) (monNum m) =
      false ∧ (m = .aon 1 → s.x2 = true) ∧ monFall m ≤ mv ∧ mv < monRise m ∧ s.monSince m + 500 * msBeats ≤ s.time) ∧
    (∃ (variant : Fin 4) (s : State), s.boot.held = true ∧ s.phase = 1 ∧ variant.val = s.getF cr0 .cfg 0 Reg.CFG_VARIANT) ∧
    (∃ (s : State), s.phase = 2 ∧ s.boot.pref = false ∧ s.time ≤ s.refLimit) ∧
    (∃ (s : State), s.phase = 2 ∧ s.boot.pref = false ∧ s.boot.since + (if s.isF cr0 .boot 0 Reg.BOOT_STRAP_REF_SEL then 1
      else 20) * msBeats ≤ s.time) ∧
    (∃ (d : Die) (s : State), s.hasDie d = true ∧ s.powered d .bal = true ∧ s.boot.pref = true ∧ s.isF d .bal 0
      Reg.BAL_STATUS_PLL_LOCK = false ∧ max s.boot.prefAt (s.die d).onAt + 3 * msBeats ≤ s.time ∧ s.phase < 8) :=
  ⟨⟨State.reset |> reg cr0 .cfg 0 Reg.CFG_VARIANT 1, by decide +kernel⟩,
  ⟨.holdUp, 1200, State.reset |> atTime msBeats |> withBoot fun b => { b with t0 := 1 }, by decide +kernel⟩,
  ⟨650, 3, State.reset |> atTime msBeats |> reg cr0 .boot 0 Reg.BOOT_MON_GOOD 1, by decide +kernel⟩,
  ⟨.holdUp, 0, State.reset |> inPhase 10 |> reg cr0 .boot 0 Reg.BOOT_MON_GOOD 15, by decide +kernel⟩,
  ⟨.bus, monFall .bus, State.reset |> atTime (500 * msBeats), by decide +kernel⟩,
  ⟨3, State.reset |> inPhase 1 |> withBoot fun b => { b with held := true }, by decide +kernel⟩,
  ⟨State.reset |> inPhase 2, by decide +kernel⟩,
  ⟨State.reset |> inPhase 2 |> atTime (20 * msBeats), by decide +kernel⟩,
  ⟨cr0, State.reset |> inPhase 2 |> atTime (3 * msBeats) |> withBoot fun b => { b with pref := true }, by decide +kernel⟩⟩

theorem test_witness_StartUpCommandsComplete :
    (∃ (f : FlashInfo) (s : State), s.phase = 3 ∧ s.boot.flashOk = false ∧ f.sfdp = true ∧ f.octal = true ∧ 29 ≤ f.density ∧
      100 ≤ f.mhz) ∧
    (∃ (copyA : List Byte) (fw : List Byte) (s : State), s.phase = 3 ∧ s.boot.flashOk = true ∧ s.objectFault 1 areaRecord
      copyA = none ∧ s.objectFault 2 areaFw fw = none ∧ (s.x2 = true → s.objectFaultBy s.cr1Root 2 areaFw fw = none)) ∧
    (∃ (image : List Byte) (s : State), 5 ≤ s.phase ∧ s.phase ≠ 15 ∧ s.isF cr0 .boot 0 Reg.BOOT_STATUS_FLASH_DONE = false ∧
      s.hbmTrained (.mv 0) = true ∧ (oMagic image ≠ 0x54534F31 ∨ oType image ≠ 3)) ∧
    (∃ (k : Nat) (b : Bool) (s : State), s.boot.busyDom = some (k, b) ∧ k < 16 ∧ s.boot.record = []) ∧
    (∃ (w : BitVec 16) (s : State), (s.x2 = true ∨ w.toNat / 2 ^ 14 % 4 = 0) ∧ domMaskOk w.toNat = true ∧ (∀ k ∈ domOrder,
      s.domOn k = true → bit w.toNat k = false → s.domBusy k = false ∧ s.imageNames k = false)) ∧
    (∃ (c : Crown) (s : State), s.hasDie (.cr c) = true ∧ (s.host c).perst = false) ∧
    (∃ (m : Mv) (k : Fin 2) (s : State), s.powered (.mv m) .mem = true ∧ k.val ∈ s.hbmStacks ∧ bit s.boot.hbmOk (2 * m.val +
      k.val) = false ∧ bit s.recov.hbmRecal (2 * m.val + k.val) = false ∧ Tab.get 0 s.boot.hbmTries (2 * m.val + k.val) <
      s.hbmTriesMax) ∧
    (∃ (c : Crown) (s : State), (s.die (.cr c)).trayAt ≠ 0 ∧ s.isF (.cr c) .tray 0 Reg.TRY_STATUS_WIN_DONE = false ∧ (s.die
      (.cr c)).trayAt - 1 + s.startWin c ≤ s.time ∧ s.powered (.cr c) .tray = true ∧ s.boot.waitLoad = false) ∧
    (∃ (s : State), s.phase = 15 ∧ s.getF cr0 .boot 0 Reg.BOOT_HALT_HALT_RC ≠ 0x2008) :=
  ⟨⟨{ sfdp := true, octal := true, density := 30, mhz := 200, erase := 16 }, State.reset |> inPhase 3, by decide +kernel⟩,
  ⟨recObj, fwObj, State.reset |> inPhase 3 |> rooted |> reg cr0 .cfg 0 Reg.CFG_VARIANT 0 |> withBoot fun b =>
    { b with flashOk := true }, by decide +kernel⟩,
  ⟨[], on |> inPhase 6 |> withBoot fun b => { b with hbmOk := 3 }, by decide +kernel⟩,
  ⟨8, true, State.reset |> inPhase 5 |> withBoot fun b => { b with busyDom := some (8, true) }, by decide +kernel⟩,
  ⟨0x3FFF, on, by decide +kernel⟩,
  ⟨0, on, by decide +kernel⟩,
  ⟨0, 1, on |> inPhase 6, by decide +kernel⟩,
  ⟨0, on |> inPhase 8 |> atTime (20 * 100 * msBeats) |> withDie cr0 fun x => { x with trayAt := 1 }, by decide +kernel⟩,
  ⟨State.reset |> inPhase 15, by decide +kernel⟩⟩

theorem test_witness_ImageCommandsComplete :
    (∃ (img : Image) (s : State), s.phase = 9 ∧ s.boot.loaded = false ∧ s.recov.hbmRecal = 0 ∧ s.imageFault img = none ∧
      s.peersKnown = true ∧ img.packages.length ≤ 1 ∧ (s.dom 4).level ≠ 4) ∧
    (∃ (s : State), s.phase = 8 ∧ s.pins.oos = false ∧ s.isF cr0 .boot 0 Reg.BOOT_CTL_ENABLE = true ∧ s.imgRangeOk = true) ∧
    (∃ (s : State), s.phase = 10) ∧
    (∃ (s : State), s.phase = 10 ∧ s.boot.stopTurn ≠ 0 ∧ s.atTurn cr0 = true ∧ s.boot.stopTurn - 1 ≤ s.turn cr0) ∧
    (∃ (s : State), s.isFollower = false ∧ s.phase = 9 ∧ s.boot.loaded = false) ∧
    (∃ (s : State), s.phase = 9 ∧ s.boot.loaded = true ∧ s.boot.actTurn ≠ 0 ∧ s.atTurn cr0 = true ∧ s.boot.actTurn - 1 ≤
      s.turn cr0 ∧ s.overdue 4 = false) ∧
    (∃ (s : State), (s.dom 4).level = 4 ∧ (s.dom 4).step = 3 ∧ (s.dom 4).oos = false ∧ s.overdue 4 = false ∧ 8 ≤ s.phase ∧
      s.phase ≠ 15 ∧ s.boot.image ≠ none) ∧
    (∃ (s : State), s.pins.oos = true) :=
  ⟨⟨img, on |> inPhase 9 |> rooted |> reg cr0 .pwr 0 Reg.PWR_BUDGET 1200 |> reg cr0 .boot 0 Reg.BOOT_IMG_PA_LO_PA 4096 |>
    reg cr0 .boot 0 Reg.BOOT_IMG_LEN 272 |> (fun s => s.wrBytes 4096 imgObj) |> withBoot fun b => { b with loadSrc := 1 },
    by decide +kernel⟩,
  ⟨on |> inPhase 8 |> enable .boot cr0 |> reg cr0 .boot 0 Reg.BOOT_IMG_LEN 272, by decide +kernel⟩,
  ⟨on |> inPhase 10, by decide +kernel⟩,
  ⟨on |> inPhase 10 |> withBoot fun b => { b with stopTurn := 1 }, by decide +kernel⟩,
  ⟨on |> inPhase 9, by decide +kernel⟩,
  ⟨on |> inPhase 9 |> withBoot fun b => { b with loaded := true, actTurn := 1 }, by decide +kernel⟩,
  ⟨on |> inPhase 10 |> withImg img |> withDom 4 { level := 4, step := 3, cause := 9 }, by decide +kernel⟩,
  ⟨on |> fun s => { s with pins := { s.pins with oos := true } }, by decide +kernel⟩⟩

theorem test_witness_TrustCommandsComplete :
    (∃ (w : Word) (s : State), w.toNat % 4 < 3 ∧ s.rbMin (w.toNat % 4) < bitsOf w.toNat 2 7 ∧ bitsOf w.toNat 2 7 ≤ 64 ∧
      bitsOf w.toNat 2 7 ≤ s.getF cr0 .sec 0 Reg.SEC_VERSION (4 * (w.toNat % 4)) ∧ s.boot.blow = none) ∧
    (∃ (c : Nat) (v : Nat) (since : Nat) (s : State), s.boot.blow = some (c, v, since) ∧ c < 3 ∧ v ≤ 64) ∧
    (∃ (s : State), s.isF cr0 .boot 0 Reg.BOOT_STATUS_FLASH_DONE = true ∧ s.boot.flCmd = 0 ∧ Tab.get 0 s.resv (winBase cr0 +
      blkOff .boot 0 + Reg.BOOT_FL_ADDR.off) = 0 ∧ s.getF cr0 .boot 0 Reg.BOOT_FL_ADDR + 256 ≤ 2 ^ 26) ∧
    (∃ (s : State), s.isF cr0 .boot 0 Reg.BOOT_STATUS_FLASH_DONE = true ∧ s.boot.flCmd = 0 ∧ Tab.get 0 s.resv (winBase cr0 +
      blkOff .boot 0 + Reg.BOOT_FL_ADDR.off) = 0) ∧
    (∃ (s : State), s.isF cr0 .boot 0 Reg.BOOT_STATUS_FLASH_DONE = true ∧ s.boot.flCmd = 0 ∧ Tab.get 0 s.resv (winBase cr0 +
      blkOff .boot 0 + Reg.BOOT_FL_ADDR.off) = 0) ∧
    (∃ (s : State), s.isF cr0 .boot 0 Reg.BOOT_STATUS_FLASH_DONE = true ∧ s.boot.flCmd = 0 ∧ Tab.get 0 s.resv (winBase cr0 +
      blkOff .boot 0 + Reg.BOOT_FL_ADDR.off) = 0) ∧
    (∃ (s : State), s.boot.flCmd ≠ 0) ∧
    (∃ (l : List Byte) (s : State), (l = ((List.range 84).map fun i => leBytes 4 (s.getF cr0 .sec 0 Reg.SEC_DBG_TOKEN (4 *
      i))).flatten) ∧ s.tokenOk l = true ∧ (bit (leNat (cut (oBody l) 32 4)) 2 = false ∨ s.phase ≠ 10)) ∧
    (∃ (l : List Byte) (s : State), s.tapOn = true ∧ s.tokenOk l = true ∧ (bit (leNat (cut (oBody l) 32 4)) 2 = false ∨
      s.phase ≠ 10)) ∧
    (∃ (s : State), s.getF cr0 .sec 0 Reg.SEC_DBG_SCOPE ≠ 0 ∧ s.atTurn cr0 = true ∧ s.getF cr0 .sec 0 Reg.SEC_DBG_LEFT_LEFT
      ≤ s.turn cr0 - s.boot.dbgTurn) :=
  ⟨⟨20, State.reset |> reg cr0 .sec 0 Reg.SEC_VERSION 5, by decide +kernel⟩,
  ⟨1, 5, 0, State.reset |> withBoot fun b => { b with blow := some (1, 5, 0) }, by decide +kernel⟩,
  ⟨State.reset |> reg cr0 .boot 0 Reg.BOOT_STATUS_FLASH_DONE 1, by decide +kernel⟩,
  ⟨State.reset |> reg cr0 .boot 0 Reg.BOOT_STATUS_FLASH_DONE 1, by decide +kernel⟩,
  ⟨State.reset |> reg cr0 .boot 0 Reg.BOOT_STATUS_FLASH_DONE 1, by decide +kernel⟩,
  ⟨State.reset |> reg cr0 .boot 0 Reg.BOOT_STATUS_FLASH_DONE 1, by decide +kernel⟩,
  ⟨State.reset |> withBoot fun b => { b with flCmd := 3 }, by decide +kernel⟩,
  ⟨tokObj, { State.reset with dieIds := [] } |> rooted |> fun s => (List.range 84).foldl (fun t i => t.setF cr0 .sec 0
    Reg.SEC_DBG_TOKEN (leNat (cut tokObj (4 * i) 4)) (4 * i)) s, by decide +kernel⟩,
  ⟨tokObj, { State.reset with dieIds := [] } |> rooted |> reg cr0 .boot 0 Reg.BOOT_MON_GOOD 1, by decide +kernel⟩,
  ⟨State.reset |> reg cr0 .sec 0 Reg.SEC_DBG_SCOPE 1, by decide +kernel⟩⟩

theorem test_witness_JtagCommandsComplete :
    (∃ (s : State), s.tapOn = true) ∧
    (∃ (s : State), s.tapOn = true) ∧
    (∃ (s : State), s.tapOn = true) ∧
    (∃ (s : State), s.tapOn = true ∧ s.scanOpen = true) ∧
    (∃ (s : State), s.tapOn = true ∧ s.scanOpen = true) ∧
    (∃ (s : State), s.tapOn = true ∧ s.scanOpen = true) ∧
    (∃ (s : State), s.tapOn = true ∧ s.scanOpen = false) ∧
    (∃ (s : State), s.tapOn = true ∧ s.scanOpen = false) ∧
    (∃ (s : State), s.tapOn = true ∧ s.scanOpen = false) ∧
    (∃ (s : State), bit (s.getF cr0 .sec 0 Reg.SEC_DBG_SCOPE) 1 = true) ∧
    (∃ (s : State), bit (s.getF cr0 .sec 0 Reg.SEC_DBG_SCOPE) 1 = true) ∧
    (∃ (s : State), s.tapOn = true ∧ s.getF cr0 .sec 0 Reg.SEC_DBG_SCOPE = 0) ∧
    (∃ (s : State), bit (s.getF cr0 .sec 0 Reg.SEC_DBG_SCOPE) 2 = true) :=
  ⟨⟨State.reset |> reg cr0 .boot 0 Reg.BOOT_MON_GOOD 1, by decide +kernel⟩,
  ⟨State.reset |> reg cr0 .boot 0 Reg.BOOT_MON_GOOD 1, by decide +kernel⟩,
  ⟨State.reset |> reg cr0 .boot 0 Reg.BOOT_MON_GOOD 1, by decide +kernel⟩,
  ⟨State.reset |> reg cr0 .boot 0 Reg.BOOT_MON_GOOD 1, by decide +kernel⟩,
  ⟨State.reset |> reg cr0 .boot 0 Reg.BOOT_MON_GOOD 1, by decide +kernel⟩,
  ⟨State.reset |> reg cr0 .boot 0 Reg.BOOT_MON_GOOD 1, by decide +kernel⟩,
  ⟨State.reset |> inPhase 10 |> reg cr0 .boot 0 Reg.BOOT_MON_GOOD 1, by decide +kernel⟩,
  ⟨State.reset |> inPhase 10 |> reg cr0 .boot 0 Reg.BOOT_MON_GOOD 1, by decide +kernel⟩,
  ⟨State.reset |> inPhase 10 |> reg cr0 .boot 0 Reg.BOOT_MON_GOOD 1, by decide +kernel⟩,
  ⟨State.reset |> reg cr0 .sec 0 Reg.SEC_DBG_SCOPE 2, by decide +kernel⟩,
  ⟨State.reset |> reg cr0 .sec 0 Reg.SEC_DBG_SCOPE 2, by decide +kernel⟩,
  ⟨State.reset |> reg cr0 .boot 0 Reg.BOOT_MON_GOOD 1, by decide +kernel⟩,
  ⟨State.reset |> reg cr0 .sec 0 Reg.SEC_DBG_SCOPE 4, by decide +kernel⟩⟩

theorem test_witness_ChangeSetCommandsComplete_tray0 :
    (∃ (e : LinkEnd) (r : SbSlot) (m : ArmMsg) (u : State) (s : State), s.armTakes e r opConfirm = (some m, u) ∧ isTray e =
      true ∧ u.isFollower = false ∧ u.chg.armed = true ∧ u.chg.decided = 0 ∧ m.setId = u.chg.setId ∧ m.turn = u.chg.turn ∧
      m.ok = true ∧ u.chg.act = false ∧ m.pkg < 16) :=
  ⟨tp, tray6, (⟨5, 0, 3, 20, 0, true, 0, 0, false⟩ : ArmMsg), _, on |> inSt tp stSync |> withChg (fun x =>
    { x with armed := true, setId := 5, turn := 20, tray := true }), pair_eq (by decide +kernel), by decide +kernel⟩

theorem test_witness_ChangeSetCommandsComplete_tray1 :
    (∃ (e : LinkEnd) (r : SbSlot) (m : ArmMsg) (u : State) (s : State), s.armTakes e r opCommit = (some m, u) ∧ isTray e =
      true ∧ u.chg.armed = true ∧ u.chg.decided = 0 ∧ m.setId = u.chg.setId ∧ m.turn = u.chg.turn) :=
  ⟨tp, tray7, (⟨5, 0, 0, 20, 0, true, 0, 0, false⟩ : ArmMsg), _, on |> inSt tp stSync |> withChg (fun x =>
    { x with armed := true, setId := 5, turn := 20, tray := true }), pair_eq (by decide +kernel), by decide +kernel⟩

theorem test_witness_ChangeSetCommandsComplete_tray2 :
    (∃ (e : LinkEnd) (r : SbSlot) (m : ArmMsg) (u : State) (s : State), s.armTakes e r opAbort = (some m, u) ∧ isTray e =
      true ∧ u.chg.armed = true ∧ u.chg.decided = 0 ∧ m.setId = u.chg.setId ∧ m.turn = u.chg.turn) :=
  ⟨tp, tray8, (⟨5, 0, 0, 20, 0, true, 0, 0, false⟩ : ArmMsg), _, on |> inSt tp stSync |> withChg (fun x =>
    { x with armed := true, setId := 5, turn := 20, tray := true }), pair_eq (by decide +kernel), by decide +kernel⟩

theorem test_witness_ChangeSetCommandsComplete :
    (∃ (w : Word) (u : State) (s : State), bit w.toNat 1 = false ∧ u = s.armWrite (clrBit w.toNat 0) ∧ u.armCheck (u.isF cr0
      .cfg 0 Reg.CFG_ARM_SCOPE) (u.isF cr0 .cfg 0 Reg.CFG_ARM_BY_TAI) (u.getF cr0 .cfg 0 Reg.CFG_ARM_HACK_LEN) (u.armTurn
      (u.isF cr0 .cfg 0 Reg.CFG_ARM_BY_TAI)) = none) ∧
    (∃ (w : Word) (rc : Nat) (u : State) (s : State), bit w.toNat 1 = false ∧ u = s.armWrite (clrBit w.toNat 0) ∧ u.armCheck
      (u.isF cr0 .cfg 0 Reg.CFG_ARM_SCOPE) (u.isF cr0 .cfg 0 Reg.CFG_ARM_BY_TAI) (u.getF cr0 .cfg 0 Reg.CFG_ARM_HACK_LEN)
      (u.armTurn (u.isF cr0 .cfg 0 Reg.CFG_ARM_BY_TAI)) = some rc) ∧
    (∃ (w : Word) (s : State), bit w.toNat 0 = false ∧ s.chg.armed = false) ∧
    (∃ (w : Word) (s : State), bit w.toNat 0 = false ∧ s.chg.armed = true ∧ s.chg.decided = 0) ∧
    (∃ (e : LinkEnd) (r : SbSlot) (m : ArmMsg) (u : State) (s : State) (f : _), s.armTakes e r opArm = (some m, u) ∧
      relayEnd e opArm m.die = some f) ∧
    (∃ (e : LinkEnd) (r : SbSlot) (m : ArmMsg) (u : State) (s : State), s.armTakes e r opArm = (some m, u) ∧ relayEnd e
      opArm m.die = none ∧ isTray e = false ∧ leDie e ≠ cr0) ∧
    (∃ (e : LinkEnd) (r : SbSlot) (m : ArmMsg) (d : Die) (u : State) (s : State), s.armTakes e r opConfirm = (some m, u) ∧
      isTray e = false ∧ leDie e = cr0 ∧ relayEnd e opConfirm m.die = none ∧ u.chg.armed = true ∧ u.chg.decided = 0 ∧
      m.setId = u.chg.setId ∧ m.turn = u.chg.turn ∧ dieOfCode m.die = some d ∧ m.ok = true) ∧
    (∃ (e : LinkEnd) (r : SbSlot) (m : ArmMsg) (d : Die) (u : State) (s : State), s.armTakes e r opConfirm = (some m, u) ∧
      isTray e = false ∧ leDie e = cr0 ∧ relayEnd e opConfirm m.die = none ∧ u.chg.armed = true ∧ u.chg.decided = 0 ∧
      m.setId = u.chg.setId ∧ m.turn = u.chg.turn ∧ dieOfCode m.die = some d ∧ m.ok = false ∧ u.chg.reason = 0) ∧
    (∃ (s : State), s.chg.armed = true ∧ s.chg.tray = true ∧ s.chg.pkgSent = false ∧ s.chg.decided = 0 ∧ s.atTurn cr0 = true
      ∧ s.chg.turn ≤ s.turn cr0 + 9 ∧ s.isFollower = false ∧ s.allConfirmed = true ∧ s.pkgId < 16) ∧
    (∃ (s : State), s.chg.armed = true ∧ s.chg.decided = 0 ∧ s.atTurn cr0 = true ∧ s.chg.turn ≤ s.turn cr0 + 8 ∧ s.chg.tray
      = false ∧ s.allConfirmed = true) ∧
    (∃ (s : State), s.chg.armed = true ∧ s.chg.decided = 0 ∧ s.atTurn cr0 = true ∧ s.chg.turn ≤ s.turn cr0 + 8 ∧ s.chg.tray
      = false ∧ s.allConfirmed = false ∧ s.chg.reason = 0) ∧
    (∃ (e : LinkEnd) (r : SbSlot) (m : ArmMsg) (p : Part) (u : State) (s : State), isTray e = false ∧ u.part (leDie e) =
      some p ∧ p.turn = m.turn ∧ s.armTakes e r opCommit = (some m, u) ∧ relayEnd e opCommit m.die = none) ∧
    (∃ (e : LinkEnd) (r : SbSlot) (m : ArmMsg) (p : Part) (u : State) (s : State), isTray e = false ∧ u.part (leDie e) =
      some p ∧ p.turn = m.turn ∧ s.armTakes e r opAbort = (some m, u) ∧ relayEnd e opAbort m.die = none) ∧
    (∃ (s : State), s.atTurn cr0 = true ∧ s.chg.armed = true ∧ s.chg.turn ≤ s.turn cr0 ∧ s.chg.decided = 1) ∧
    (∃ (d : Die) (n : Fin 4) (p : Part) (v : Nat) (s : State), s.atTurn cr0 = true ∧ s.hasDie d = true ∧ (∀ x ∈ s.dieList, x
      ≠ d → s.part x = none) ∧ s.part d = some p ∧ p.turn ≤ s.turn d ∧ p.decision = 1 ∧ p.fields = [(fkey d .trayPort n.val
      Reg.TRYP_ERR_CFG_THRESH 0, v)] ∧ p.tables = [] ∧ s.chg.bank = false ∧ s.chg.armed = false ∧ (∃ c, d = .cr c)) ∧
    (∃ (f : Nat) (n : Nat) (s : State), s.hack.due = some (f, n) ∧ s.hack.active = false ∧ s.atFrame cr0 = true ∧ f ≤
      s.frame cr0) ∧
    (∃ (f : Nat) (n : Nat) (s : State), s.hack.due = some (f, n) ∧ s.hack.active = true ∧ f + n ≤ s.frame cr0) ∧
    (∃ (s : State), s.boot.rearm ≠ 0 ∧ s.phase = 9 ∧ s.boot.rearm - 1 ≤ s.turn cr0 ∧ s.chg.armed = false) :=
  ⟨⟨1, _, on |> inPhase 8 |> reg cr0 .cfg 0 Reg.CFG_COMMIT_TURN_LO_TURN 20, by decide +kernel, rfl, by decide +kernel⟩,
  ⟨1, 0x1005, _, on |> inPhase 8, by decide +kernel, rfl, by decide +kernel⟩,
  ⟨2, on, by decide +kernel⟩,
  ⟨2, on |> withChg (fun x => { x with armed := true, setId := 5, turn := 20 }), by decide +kernel⟩,
  ⟨sp, slot 1 (0x1C + armBody opArm (⟨5, 5, 0, 20, 0, true, 0, 0, false⟩ : ArmMsg)), (⟨5, 5, 0, 20, 0, true, 0, 0, false⟩ :
    ArmMsg), _, on |> inSt sp stDeskew, spMv 0 1, pair_eq (by decide +kernel), by decide +kernel⟩,
  ⟨sp, slot 1 (0x1C + armBody opArm (⟨5, 0, 0, 20, 0, true, 0, 0, false⟩ : ArmMsg)), (⟨5, 0, 0, 20, 0, true, 0, 0, false⟩ :
    ArmMsg), _, on |> inSt sp stDeskew, pair_eq (by decide +kernel), by decide +kernel⟩,
  ⟨sc, slot 1 (0x1C + armBody opConfirm (⟨5, 0, 0, 20, 0, true, 0, 0, false⟩ : ArmMsg)), (⟨5, 0, 0, 20, 0, true, 0, 0,
    false⟩ : ArmMsg), .mv 0, _, on |> inSt sc stDeskew |> withChg (fun x =>
    { x with armed := true, setId := 5, turn := 20 }), pair_eq (by decide +kernel), by decide +kernel⟩,
  ⟨sc, slot 1 (0x1C + armBody opConfirm (⟨5, 0, 0, 20, 0, false, 0x1005, 0, false⟩ : ArmMsg)), (⟨5, 0, 0, 20, 0, false,
    0x1005, 0, false⟩ : ArmMsg), .mv 0, _, on |> inSt sc stDeskew |> withChg (fun x =>
    { x with armed := true, setId := 5, turn := 20 }), pair_eq (by decide +kernel), by decide +kernel⟩,
  ⟨on |> withChg (fun x => { x with armed := true, setId := 5, turn := 20, tray := true }) |> atBeat cr0 (11 * turnBeats) |>
    reg cr0 .cfg 0 Reg.CFG_ARM_STATUS_CONFIRMED 63, by decide +kernel⟩,
  ⟨on |> withChg (fun x => { x with armed := true, setId := 5, turn := 20 }) |> atBeat cr0 (12 * turnBeats) |> reg cr0 .cfg
    0 Reg.CFG_ARM_STATUS_CONFIRMED 63, by decide +kernel⟩,
  ⟨on |> withChg (fun x => { x with armed := true, setId := 5, turn := 20 }) |> atBeat cr0 (12 * turnBeats),
    by decide +kernel⟩,
  ⟨sp, slot 1 (0x1C + armBody opCommit (⟨5, 0, 0, 20, 0, true, 0, 0, false⟩ : ArmMsg)), (⟨5, 0, 0, 20, 0, true, 0, 0, false⟩
    : ArmMsg), ⟨20, [], [], 0, true, 0⟩, _, on |> inSt sp stDeskew |> withChg fun x =>
    { x with parts := Tab.set none x.parts 0 (some ⟨20, [], [], 0, true, 0⟩) }, by decide +kernel, by decide +kernel,
    by decide +kernel, pair_eq (by decide +kernel), by decide +kernel⟩,
  ⟨sp, slot 1 (0x1C + armBody opAbort (⟨5, 0, 0, 20, 0, true, 0, 0, false⟩ : ArmMsg)), (⟨5, 0, 0, 20, 0, true, 0, 0, false⟩
    : ArmMsg), ⟨20, [], [], 0, true, 0⟩, _, on |> inSt sp stDeskew |> withChg fun x =>
    { x with parts := Tab.set none x.parts 0 (some ⟨20, [], [], 0, true, 0⟩) }, by decide +kernel, by decide +kernel,
    by decide +kernel, pair_eq (by decide +kernel), by decide +kernel⟩,
  ⟨on |> withChg (fun x => { x with armed := true, setId := 5, turn := 20, decided := 1 }) |> atBeat cr0 (20 * turnBeats),
    by decide +kernel⟩,
  ⟨cr0, 0, ⟨0, [(fkey cr0 .trayPort 0 Reg.TRYP_ERR_CFG_THRESH 0, 7)], [], 0, true, 1⟩, 7, on |> withChg fun x =>
    { x with parts := Tab.set none x.parts (dieCode cr0) (some ⟨0, [(fkey cr0 .trayPort 0 Reg.TRYP_ERR_CFG_THRESH 0, 7)], [], 0, true, 1⟩) },
    by decide +kernel⟩,
  ⟨0, 4, on |> fun s => { s with hack := { s.hack with due := some (0, 4) } }, by decide +kernel⟩,
  ⟨0, 4, on |> atBeat cr0 (4 * frameBeats) |> fun s =>
    { s with hack := { s.hack with due := some (0, 4), active := true } }, by decide +kernel⟩,
  ⟨on |> inPhase 9 |> withBoot fun b => { b with rearm := 1 }, by decide +kernel⟩⟩

theorem test_witness_AccessCommandsComplete :
    (∃ (d : Die) (fn : Fn) (inst : Fin 4) (ok : Bool) (s : State), fn ≠ .rcv ∧ (¬(fn = .ldg ∧ d = .cr 1)) ∧ fnOn fn d
      inst.val = true ∧ s.hasInst d (fnRegs fn).blk inst.val = true ∧ s.powered d (fnRegs fn).blk = true ∧ s.heldInReset d
      (fnRegs fn).blk = false ∧ s.enabled fn d inst.val = false ∧ (s.setF d (fnRegs fn).blk inst.val (fnRegs fn).refused
      0).enableCheck fn d inst.val ok = none) ∧
    (∃ (d : Die) (fn : Fn) (inst : Fin 4) (s : State), fn ≠ .rcv ∧ fnOn fn d inst.val = true ∧ s.hasInst d (fnRegs fn).blk
      inst.val = true ∧ s.powered d (fnRegs fn).blk = true ∧ s.heldInReset d (fnRegs fn).blk = false ∧ (imageFn fn = true →
      s.boot.loaded = false)) ∧
    (∃ (c : Crown) (a : Word) (i : Nat) (s : State), s.bar0On c = true ∧ i < 64 ∧ a.toNat = Reg.CFG_STAGE_VAL_VALUE.off + 8
      * i ∧ s.lateWr = false) ∧
    (∃ (c : Crown) (a : Word) (p : Place) (f : Fld) (s : State), s.bar0On c = true ∧ findPlace a.toNat = some p ∧ a.toNat %
      4 = 0 ∧ s.hasInst p.die p.blk p.inst = true ∧ s.powered p.die p.blk = true ∧ (∃ x, p.die = .cr x) ∧ p.blk ∈
      [Blk.trayPort, .ethPort, .ptp, .thm] ∧ f ∈ p.row.flds ∧ (∀ g ∈ p.row.flds, fnOfEnable p.blk g = none) ∧ f.acc = .lck ∧
      (∀ fn, gateOf p.blk f = some fn → s.enabled fn p.die p.inst = false)) ∧
    (∃ (c : Crown) (a : Word) (p : Place) (f : Fld) (s : State), s.bar0On c = true ∧ findPlace a.toNat = some p ∧ a.toNat %
      4 = 0 ∧ s.hasInst p.die p.blk p.inst = true ∧ s.powered p.die p.blk = true ∧ (∃ x, p.die = .cr x) ∧ p.blk ∈
      [Blk.trayPort, .ethPort, .ptp, .thm] ∧ f ∈ p.row.flds ∧ (∀ g ∈ p.row.flds, fnOfEnable p.blk g = none) ∧ f.acc = .w1c)
      ∧
    (∃ (c : Crown) (a : Word) (w : Word) (p : Place) (f : Fld) (s : State), s.bar0On c = true ∧ findPlace a.toNat = some p ∧
      a.toNat % 4 = 0 ∧ s.hasInst p.die p.blk p.inst = true ∧ s.powered p.die p.blk = true ∧ (∃ x, p.die = .cr x) ∧ p.blk ∈
      [Blk.trayPort, .ethPort, .ptp, .thm] ∧ f ∈ p.row.flds ∧ (∀ g ∈ p.row.flds, fnOfEnable p.blk g = none) ∧ f.acc = .w1k ∧
      bitsOf w.toNat f.lo f.w = 2 ^ f.w - 1) ∧
    (∃ (c : Crown) (a : Word) (p : Place) (f : Fld) (s : State), s.bar0On c = true ∧ findPlace a.toNat = some p ∧ a.toNat %
      4 = 0 ∧ s.hasInst p.die p.blk p.inst = true ∧ s.powered p.die p.blk = true ∧ (∃ x, p.die = .cr x) ∧ p.blk ∈
      [Blk.trayPort, .ethPort, .ptp, .thm] ∧ f ∈ p.row.flds ∧ (∀ g ∈ p.row.flds, fnOfEnable p.blk g = none) ∧ (f.acc = .ro ∨
      f.acc = .fuse)) ∧
    (∃ (c : Crown) (a : Word) (p : Place) (f : Fld) (s : State), s.bar0On c = true ∧ findPlace a.toNat = some p ∧ a.toNat %
      4 = 0 ∧ s.hasInst p.die p.blk p.inst = true ∧ s.powered p.die p.blk = true ∧ (∃ x, p.die = .cr x) ∧ p.blk ∈
      [Blk.trayPort, .ethPort, .ptp, .thm] ∧ f ∈ p.row.flds ∧ (∀ g ∈ p.row.flds, fnOfEnable p.blk g = none) ∧ (∀ g ∈
      p.row.flds, g.acc = .arm) ∧ (∀ g ∈ p.row.flds, s.governed p g = none) ∧ s.lateWr = false) ∧
    (∃ (c : Crown) (a : Word) (s : State), s.bar0On c = true ∧ a.toNat % 4 ≠ 0) ∧
    (∃ (c : Crown) (a : Word) (w : Word) (p : Place) (s : State), s.bar0On c = true ∧ findPlace a.toNat = some p ∧ a.toNat %
      4 = 0 ∧ bit w.toNat 0 = false ∧ s.powered p.die p.blk = false) ∧
    (∃ (c : Crown) (a : Word) (i : Nat) (s : State), s.bar0On c = true ∧ i < 64 ∧ a.toNat = Reg.CFG_STAGE_VAL_VALUE.off + 8
      * i) ∧
    (∃ (c : Crown) (a : Word) (p : Place) (s : State), s.bar0On c = true ∧ a.toNat % 4 = 0 ∧ dieOfWin a.toNat = some p.die ∧
      findPlace a.toNat = some p ∧ s.hasInst p.die p.blk p.inst = true ∧ (∃ x, p.die = .cr x) ∧ s.powered p.die p.blk =
      false ∧ (¬(0x4A0000 ≤ a.toNat % 0x1000000 ∧ a.toNat % 0x1000000 < 0x4C0000))) ∧
    (∃ (c : Crown) (s : State), s.bar0On c = true) ∧
    (∃ (a : Word) (s : State), s.smOn = true ∧ smWritable a.toNat = true) ∧
    (∃ (a : Word) (pec : Bool) (s : State), s.smOn = true ∧ (pec = false ∨ smWritable a.toNat = false)) ∧
    (∃ (s : State), s.smOn = true) ∧
    (∃ (s : State), s.smOn = true) :=
  ⟨⟨cr0, .thm, 0, true, on, by decide +kernel⟩,
  ⟨cr0, .thm, 0, on |> enable .thm cr0, by decide +kernel⟩,
  ⟨0, 0x11C, 3, on, by decide +kernel⟩,
  ⟨0, 0x2100C, (findPlace 0x2100C).get (by decide +kernel), Reg.THM_LIMIT_HYST, on, by decide +kernel, (Option.some_get
    _).symm, by decide +kernel, by decide +kernel, by decide +kernel, ⟨0, by decide +kernel⟩, by decide +kernel,
    by decide +kernel, by decide +kernel, by decide +kernel, fun fn => by cases fn <;> decide +kernel⟩,
  ⟨0, 0x382004, (findPlace 0x382004).get (by decide +kernel), Reg.TRYP_PORT_STATUS_ID_MISMATCH, on, by decide +kernel,
    (Option.some_get _).symm, by decide +kernel, by decide +kernel, by decide +kernel, ⟨0, by decide +kernel⟩,
    by decide +kernel⟩,
  ⟨0, 0x18100C, 0xFFFFFFFF, (findPlace 0x18100C).get (by decide +kernel), Reg.ETHP_REJECT_COUNT, on, by decide +kernel,
    (Option.some_get _).symm, by decide +kernel, by decide +kernel, by decide +kernel, ⟨0, by decide +kernel⟩,
    by decide +kernel⟩,
  ⟨0, 0x382004, (findPlace 0x382004).get (by decide +kernel), Reg.TRYP_PORT_STATUS_REFUSED, on, by decide +kernel,
    (Option.some_get _).symm, by decide +kernel, by decide +kernel, by decide +kernel, ⟨0, by decide +kernel⟩,
    by decide +kernel⟩,
  ⟨0, 0x382014, (findPlace 0x382014).get (by decide +kernel), Reg.TRYP_ERR_CFG_THRESH, on, by decide +kernel,
    (Option.some_get _).symm, by decide +kernel, by decide +kernel, by decide +kernel, ⟨0, by decide +kernel⟩,
    by decide +kernel⟩,
  ⟨0, 3, on, by decide +kernel⟩,
  ⟨0, 0x300004, 6, (findPlace 0x300004).get (by decide +kernel), onHost, by decide +kernel, (Option.some_get _).symm,
    by decide +kernel⟩,
  ⟨0, 0x11C, 3, on, by decide +kernel⟩,
  ⟨0, 0x300004, (findPlace 0x300004).get (by decide +kernel), onHost, by decide +kernel, by decide +kernel,
    by decide +kernel, (Option.some_get _).symm, by decide +kernel, ⟨0, by decide +kernel⟩, by decide +kernel⟩,
  ⟨0, on, by decide +kernel⟩,
  ⟨0x400100, State.reset |> reg cr0 .boot 0 Reg.BOOT_MON_GOOD 1, by decide +kernel⟩,
  ⟨0x400100, false, State.reset |> reg cr0 .boot 0 Reg.BOOT_MON_GOOD 1, by decide +kernel⟩,
  ⟨State.reset |> reg cr0 .boot 0 Reg.BOOT_MON_GOOD 1, by decide +kernel⟩,
  ⟨State.reset |> reg cr0 .boot 0 Reg.BOOT_MON_GOOD 1, by decide +kernel⟩⟩

/-- A TMF of one record, for source 7, and a frame that carries it to UDP port 4000. -/
def tmf : List Byte :=
  let l := beBytes 2 0x544D ++ [1, 1] ++ beBytes 2 40 ++ [0, 0] ++ beBytes 4 7 ++ beBytes 4 9 ++ beBytes 8 0 ++ beBytes 2 1 ++
    beBytes 2 0 ++ beBytes 4 0 ++ beBytes 4 0x3F800000
  l ++ beBytes 4 (crc32 l)
def tmfFrame : List Byte :=
  withFcs (beBytes 6 0x20 ++ beBytes 6 0x40 ++ beBytes 2 0x0800 ++ ip4Header 48 0 64 17 0 0x0A000001 0x0A000002 [] ++
    beBytes 2 1000 ++ beBytes 2 4000 ++ beBytes 2 48 ++ beBytes 2 0 ++ tmf)

/-- A state in which Ethernet port 0 of CR0 takes that frame. -/
def ethReady : State :=
  on |> reg cr0 .ethPort 0 Reg.ETHP_CTL_ENABLE 1 |> reg cr0 .ethPort 0 Reg.ETHP_STATUS_LINK 1 |>
    reg cr0 .ethPort 0 Reg.ETHP_CTL_UNTAGGED 1 |> (fun s => s.setTbl 9 4 0 0 0 0
      (2 ^ 16 + 2 ^ 17 + 7 * 2 ^ 32 + 4000 * 2 ^ 64 + 2 ^ 80)) |> withHost 0 fun h => { h with mac := Tab.set 0 h.mac 0 0x20 }

/-- A frame that passes the checks of its port, and then `f`. -/
def passes (e : Except Drop EthIn) (f : EthIn → Bool) : Bool :=
  match e with
  | .ok x => f x
  | .error _ => false

theorem ok_of_passes {e : Except Drop EthIn} {f : EthIn → Bool} (h : passes e f = true) : ∃ x, e = .ok x ∧ f x = true := by
  cases e with
  | ok x => exact ⟨x, rfl, h⟩
  | error _ => exact Bool.noConfusion (h : false = true)

theorem test_witness_EthFrameReceiveCompletes :
    ∃ (c : Crown) (p : Fin 4) (frame body : List Byte) (x : EthIn) (q : IpIn) (i : Nat) (s : State), s.ethUp c p = true ∧
      s.ethChecks c p frame = .ok x ∧ x.etype ≠ 0x0806 ∧ x.etype ≠ 0x88F7 ∧ ipCheck x = some q ∧ q.proto = 17 ∧
      udpOk q = true ∧ be q.data 2 2 ≠ 319 ∧ be q.data 2 2 ≠ 320 ∧ body = (q.data.take (be q.data 4 2)).drop 8 ∧
      s.udpStreams c (be q.data 2 2) ≠ [] ∧ be body 0 2 = 0x544D ∧
      ((s.udpStreams c (be q.data 2 2)).filter fun j => bit (sPorts (s.streamEnt c j)) p).find?
        (fun j => sTmf (s.streamEnt c j) && sSource (s.streamEnt c j) == be body 8 4) = some i ∧
      36 ≤ body.length ∧ be body (body.length - 4) 4 = crc32 (body.take (body.length - 4)) ∧ tmfOk body = true ∧
      be body 16 8 ≤ s.taiNow (.cr c) + 1000000000 ∧ s.duplicate c i (be body 12 4) = false ∧
      (∀ r ∈ tmfRecords body, r.1 < sChans (s.streamEnt c i)) := by
  obtain ⟨x, hx, h⟩ := ok_of_passes (e := ethReady.ethChecks 0 0 tmfFrame) (f := fun x : EthIn =>
    decide (x.etype ≠ 0x0806 ∧ x.etype ≠ 0x88F7) && (ipCheck x).any fun q : IpIn =>
      decide (q.proto = 17 ∧ udpOk q = true ∧ be q.data 2 2 = 4000 ∧ tmf = (q.data.take (be q.data 4 2)).drop 8))
    (by decide +kernel)
  rw [Bool.and_eq_true, decide_eq_true_iff] at h
  obtain ⟨q, hq, h2⟩ := (Option.any_eq_true _ _).mp h.2
  rw [decide_eq_true_iff] at h2
  refine ⟨0, 0, tmfFrame, tmf, x, q, 0, ethReady, by decide +kernel, hx, h.1.1, h.1.2, hq, h2.1, h2.2.1, ?_, ?_, h2.2.2.2, ?_⟩ <;>
    rw [h2.2.2.1]
  · decide
  · decide
  · decide +kernel

/-- A command changes the byte at an address, or answers a next state. -/
def changes (c : Instr) (s : State) (a : Nat) : Bool :=
  match exec c s with
  | .next t => t.rdByte a != s.rdByte a
  | _ => false
def answers (c : Instr) (s : State) : Bool :=
  match exec c s with
  | .next _ => true
  | _ => false

theorem next_of_changes {c : Instr} {s : State} {a : Nat} (h : changes c s a = true) :
    ∃ t, exec c s = .next t ∧ t.rdByte a ≠ s.rdByte a := by
  cases ho : exec c s with
  | next t => exact ⟨t, rfl, by simpa [changes, ho] using h⟩
  | fault _ => simp [changes, ho] at h
  | refused _ => simp [changes, ho] at h

theorem next_of_answers {c : Instr} {s : State} (h : answers c s = true) : ∃ t, exec c s = .next t := by
  cases ho : exec c s with
  | next t => exact ⟨t, rfl⟩
  | fault _ => simp [answers, ho] at h
  | refused _ => simp [answers, ho] at h

def commandsOfFramesOfTimeAndTraining : List Instr :=
  [.pllLock cr0, .beatLoRead .smbus cr0, .beatLoadSend cr0, .beatLoad sp (slot 1 0), .beatSyncAttempt 0,
     .beatSyncReq 0 (slot 1 0), .beatSyncResp 0 (slot 1 0) 0 0, .beatSyncTimeout 0, .syncPortLoss, .syncHoldoverExpiry,
     .servoMapUpdate, .taiMapSend sp, .taiMapApply cr0, .cdcStale cr0 0 0 0, .ptrReq sp (slot 1 0), .ptrResp sp (slot 1 0),
     .pointerSet sp, .ptrHandshakeTimeout sp, .fpResetReq sp (slot 1 0), .fpJointResetRelease 0, .resetRetry sp,
     .searchPointEnd sp 0 [] [] [] [], .lanetestEnd sp [], .lanetestExit sp, .lanemap sp (slot 1 0), .lanemapApply sp,
     .pinProbe sp (slot 1 0), .pinEcho sp (slot 1 0) [], .variantSelect cr0, .lossNotice sp [], .gtrTableWrite cr0 0,
     .gtrTableRead .smbus cr0, .trayLossNotice sp [], .trayVariantSelect 0, .tryTableWrite 0 0, .tryTableRead .smbus 0]

theorem test_witness_FramesOfTimeAndTraining : ∀ c ∈ commandsOfFramesOfTimeAndTraining, ∃ t, exec c on = .next t :=
  fun c h => next_of_answers (List.all_eq_true.mp (by decide +kernel : (commandsOfFramesOfTimeAndTraining.all fun c => answers c on) = true) c h)

def commandsOfFramesOfLinks : List Instr :=
  [.trainingTimeout sp, .ckCountCheck sp [], .frameMarker sp 0 0, .sidebandContainer sp (slot 1 0),
     .sidebandSlotTransmit sp, .sbAck sp (slot 1 0), .sbMessageRepeat sp, .sbAckTimeout sp, .bundleRetire sp (slot 1 0),
     .bundleTxStop sp 0, .flitReceive sp 0 [], .laneNoTransition sp 0 0 0, .errWindowRoll sp, .laneRepair sp (slot 1 0),
     .jewelStreamStart sp 0, .laneRepairTakeover sp 0, .laneRepairTxCutover sp 0, .jewelRecentre sp 0 0 0 0 [true],
     .recalGo sp, .recalArm sp (slot 1 0), .recalArmDeadline sp, .recalStart sp, .recalLanetestStart sp,
     .recalReturnMission sp [] [], .recalEnd sp 0 0, .scNak sp (slot 1 0), .slotTransmit sp 0, .scHoldExpiry sp,
     .scResendDeadline sp, .scLostBundleReport sp, .ucAck sp (slot 1 0), .credit sp (slot 1 0), .ucReplayTimeout sp 0,
     .ucRequeue sp, .beaconBurst 0, .beaconBlock 0 0 true, .noPartnerSignal 0, .seekTimeout 0, .partnerSignalLost 0]

theorem test_witness_FramesOfLinks : ∀ c ∈ commandsOfFramesOfLinks, ∃ t, exec c on = .next t :=
  fun c h => next_of_answers (List.all_eq_true.mp (by decide +kernel : (commandsOfFramesOfLinks.all fun c => answers c on) = true) c h)

def commandsOfFramesOfPowerAndMessages : List Instr :=
  [.cdcStaleTurnExpiry cr0 [], .write cr0 [] [] [] [], .signal 0 [], .read cr0 [] [] 0, .fenceProbe cr0 [],
     .pwFail cr0 [] true, .scrubPass 0 true [] 0, .budgetWrite 0, .budgetReport cr0 0, .grantAllocation,
     .budgetGrant sp (slot 1 0), .allowanceTake cr0, .tokenGrant cr0, .admissionWaitTimeout cr0, .thermalSample cr0 0 0 0,
     .railSample []]

theorem test_witness_FramesOfPowerAndMessages : ∀ c ∈ commandsOfFramesOfPowerAndMessages, ∃ t, exec c on = .next t :=
  fun c h => next_of_answers (List.all_eq_true.mp (by decide +kernel : (commandsOfFramesOfPowerAndMessages.all fun c => answers c on) = true) c h)

def commandsOfFramesOfEnginesAndHost : List Instr :=
  [.runSelect 0 0, .descriptorStart 0 0 op, .descriptorComplete 0 0, .descriptorBoundExpiry 0 0, .doorbellRing 0 0,
     .counterSignal 0 0 0, .synCtrWrite 0 0 0, .barrierArrival 0 0, .lockstepMismatch 0, .readData cr0 [] [],
     .fenceResp cr0 [], .fenceProbeRetry cr0 0, .bar2Write 0 0 [], .bar2Read 0 0 0 0, .bar2ReadAbort 0 0,
     .functionLevelReset 0 0, .hostReadCompletion 0 0 0 [], .hostReadTimeout 0 0, .msixMessage 0 0, .outputGuardStart 0,
     .resultOutput 0, .ethTableRead .smbus 0, .configurationRequest 0 (.read 0)]

theorem test_witness_FramesOfEnginesAndHost : ∀ c ∈ commandsOfFramesOfEnginesAndHost, ∃ t, exec c on = .next t :=
  fun c h => next_of_answers (List.all_eq_true.mp (by decide +kernel : (commandsOfFramesOfEnginesAndHost.all fun c => answers c on) = true) c h)

def commandsOfFramesOfRecovery : List Instr :=
  [.heartbeatSend 0, .heartbeatCheck 0, .heartbeatStateSend 0, .faultGranuleWrite 0, .watchdogKick 0, .watchdogExpiry 0,
     .contextRelease 0, .engineHangDetect 0 0, .recoveryFenceEnd 0, .crashDumpDone 0, .recoveryBoundExpiry 0,
     .replayStart 0, .replaySuspectEnd 0, .domainRejoin 0, .packageHeartbeat 0 (slot 1 0), .trayOrder 0 (slot 1 0),
     .trayStop, .forceEngineReset 0 0, .forcePartitionReset 0, .forceChipReset 0]

theorem test_witness_FramesOfRecovery : ∀ c ∈ commandsOfFramesOfRecovery, ∃ t, exec c on = .next t :=
  fun c h => next_of_answers (List.all_eq_true.mp (by decide +kernel : (commandsOfFramesOfRecovery.all fun c => answers c on) = true) c h)

def commandsOfFramesOfSensorsAndLedger : List Instr :=
  [.ethFrameReceive 0 0 [], .ptpSyncTimeout, .leapSecond, .snapshotLimitClose 0 0, .snapshotSelect 0 0,
     .snapshotRelease 0 0, .residualBatchStart 0 0, .calibBatchApply 0 0, .modeSetProcess 0, .trackTablePublish 0,
     .fusTableWrite 0 0, .fusTableRead .smbus 0, .tariffChangeEffect, .intervalClose, .setpointSetProcess,
     .setpointSetEffective, .ledgerOpen, .intervalCommit [], .intervalCommitDone none, .tableImageWrite [],
     .ledgerOutputCopy, .ldgTableWrite 0, .ldgTableRead .smbus, .ldgFramReadStart 0, .ldgFramReadDone, .thermalShutdown,
     .powerFail 0, .powerFailDomainsOff, .ledgerHaltedCrfOff, .powerReturn]

theorem test_witness_FramesOfSensorsAndLedger : ∀ c ∈ commandsOfFramesOfSensorsAndLedger, ∃ t, exec c on = .next t :=
  fun c h => next_of_answers (List.all_eq_true.mp (by decide +kernel : (commandsOfFramesOfSensorsAndLedger.all fun c => answers c on) = true) c h)

def commandsOfFramesOfStartUpAndChange : List Instr :=
  [.powerOnReset 0, .monitorGood .bus 0 0 0 true true, .monitorNotGood .bus 0, .monitorBandTimeout .bus 0,
     .referenceDetect, .referenceTimeout, .pllLockTimeout cr0, .flashDiscover none, .flashPass [] [] [] [] [] [] [],
     .flashPassResume [], .domainSwitchRequest 0, .domainOn true, .perstDeassert 0 0 0, .hbmTrainingDone 0 0 true,
     .imageLoad img true, .imageLoadHost, .imageUnload, .imageStop, .loadReport 0 0, .imageActivate, .restart,
     .rollbackCommit 0, .rollbackCommitDone, .flashRead, .flashProgram, .flashErase, .flashStatus,
     .flashCommandDone true [], .debugTokenSubmit, .jtagUnlock [], .debugLock, .debugLifetimeExpiry, .bypass [true],
     .idcode [true], .samplePreload [true], .extest [true], .clamp [true], .highz [true], .msBadAccess 0 true,
     .registerWrite 0 0 0 true, .functionEnable cr0 .thm 0 true, .functionDisable cr0 .thm 0, .hackStart, .hackEnd,
     .startWindowEnd 0, .armGo 0, .armDiscard 0, .arm sp (slot 1 0), .confirm sp (slot 1 0), .packageConfirm, .armDecision,
     .commit sp (slot 1 0), .abort sp (slot 1 0), .changeSetApply, .chipReset, .oosClear, .smbusWrite 0 0 true,
     .smbusSetPointer 0 true, .smbusRead, .pwrFailRelease 0 0 true, .msRead 0 0, .privateInstruction (.msRead 0) [true],
     .abortedArmRearm]

theorem test_witness_FramesOfStartUpAndChange : ∀ c ∈ commandsOfFramesOfStartUpAndChange, ∃ t, exec c on = .next t :=
  fun c h => next_of_answers (List.all_eq_true.mp (by decide +kernel : (commandsOfFramesOfStartUpAndChange.all fun c => answers c on) = true) c h)

theorem test_witness_MessageWritesStore :
    (∃ (d : Die) (cmd : List Byte) (data : List (List Byte)) (bad dead : List Nat) (s t : State),
      exec (.write d cmd data bad dead) s = .next t) ∧
    (∃ (c : Crown) (x : Nat) (bytes : List Byte) (s t : State), s.bar2In c x bytes.length true ≠ none ∧
      exec (.bar2Write c x bytes) s = .next t) ∧
    (∃ (d : Die) (cmd : List Byte) (data : List (List Byte)) (pa len : Nat) (s : State), s.hasDie d = true ∧
      cmdTarget cmd % 2 ^ 48 = pa ∧ cmdLen cmd = len ∧ crosses pa len = false ∧ counterOf pa = none ∧
      (writeData pa len data).length = len ∧ (∀ m e, d = .mv m → bufferOf pa = some e → s.unitDown d (some e) = false) ∧
      (∀ i, i < len → s.poisoned (pa + i) = true → pa ≤ (pa + i) / 64 * 64 ∧ (pa + i) / 64 * 64 + 64 ≤ pa + len)) := by
  refine ⟨?_, ?_, ?_⟩
  · obtain ⟨t, h⟩ := next_of_answers (c := .write (.mv 0) (cmdFlit 1 4 0 3 false 0 7 0x1000 64 5 0) [List.replicate 64 1] [] [])
      (s := on) (by decide +kernel)
    exact ⟨_, _, _, _, _, _, _, h⟩
  · obtain ⟨t, h⟩ := next_of_answers (c := .bar2Write 0 0x1000 [1, 2]) (s := on |> enable .pci cr0 |>
      reg cr0 .pci 0 Reg.PCI_BAR2_AP_VALID 1) (by decide +kernel)
    exact ⟨_, _, _, _, _, by decide +kernel, h⟩
  · refine ⟨.mv 0, cmdFlit 1 4 0 3 false 0 7 0x1000 64 5 0, [List.replicate 64 1], 0x1000, 64, on, by decide +kernel,
      by decide +kernel, by decide +kernel, by decide +kernel, by decide +kernel, by decide +kernel, ?_, by decide +kernel⟩
    intro m e _ h
    exact absurd h (by rw [show bufferOf 0x1000 = none by decide +kernel]; exact nofun)

theorem test_witness_UnitStoresStayInTheirAreas :
    (∃ (s t : State), s.ldg.out ≠ none ∧ exec .ledgerOutputCopy s = .next t) ∧
    (∃ (c : Crown) (s t : State), exec (.trackTablePublish c) s = .next t) ∧
    (∃ (c : Crown) (g : Fin 16) (s t : State), exec (.snapshotSelect c g) s = .next t) ∧
    (∃ (c : Crown) (g : Fin 16) (s t : State), exec (.snapshotRelease c g) s = .next t) ∧
    (∃ (m : Mv) (a : Nat) (s t : State), exec (.faultGranuleWrite m) s = .next t ∧ t.rdByte a ≠ s.rdByte a) ∧
    (∃ (image : List Byte) (s t : State), exec (.flashPassResume image) s = .next t) ∧
    (∃ (bad : List (Nat × List Byte)) (a : Nat) (s t : State), exec (.tableImageWrite bad) s = .next t ∧
      a < tabAddr ((s.ldg.tseq + 1) % 2) 0) ∧
    (∃ (bad : List (Nat × List Byte)) (a : Nat) (s t : State), exec (.intervalCommit bad) s = .next t ∧
      a < intAddr ((s.ldg.seq + 1) % 2) 1) ∧
    (∃ (bad : Option (List Byte)) (a : Nat) (s t : State), exec (.intervalCommitDone bad) s = .next t ∧
      a < intAddr (s.ldg.seq % 2) 0) := by
  refine ⟨?_, ?_, ?_, ?_, ?_, ?_, ?_, ?_, ?_⟩
  · obtain ⟨t, h⟩ := next_of_answers (c := .ledgerOutputCopy) (s := on |> withLdg fun x => { x with out := some (1, 2) })
      (by decide +kernel)
    exact ⟨_, _, by decide +kernel, h⟩
  · obtain ⟨t, h⟩ := next_of_answers (c := .trackTablePublish 0) (s := on |> atBeat cr0 frameBeats |>
      withFus 0 fun f => { f with pubs := [(5, [])] }) (by decide +kernel)
    exact ⟨_, _, _, h⟩
  · obtain ⟨t, h⟩ := next_of_answers (c := .snapshotSelect 0 0) (s := on |> enable .fus cr0 |>
      (fun s => s.setTbl 10 4 0 0 0 0 (2 ^ 127 + 1000)) |> atBeat cr0 frameBeats) (by decide +kernel)
    exact ⟨_, _, _, _, h⟩
  · obtain ⟨t, h⟩ := next_of_answers (c := .snapshotRelease 0 0) (s := on |> enable .fus cr0 |>
      (fun s => s.setTbl 10 4 0 0 0 0 (2 ^ 127 + 1000)) |> atBeat cr0 2048 |>
      (fun s => s.setGrp 0 0 { sel := some (2048, { k := 3 }, false, false) })) (by decide +kernel)
    exact ⟨_, _, _, _, h⟩
  · obtain ⟨t, h⟩ := next_of_changes (c := .faultGranuleWrite 0) (a := 0x3000) (s := on |>
      withDie (.mv 0) (fun x => { x with faulted := 1 }) |> withImg { img with faultAt := [(0, 0x3000)] }) (by decide +kernel)
    exact ⟨_, _, _, _, h⟩
  · obtain ⟨t, h⟩ := next_of_answers (c := .flashPassResume []) (s := on |> inPhase 6 |> withBoot fun b => { b with hbmOk := 3 })
      (by decide +kernel)
    exact ⟨_, _, _, h⟩
  · obtain ⟨t, h⟩ := next_of_answers (c := .tableImageWrite []) (s := on |> enable .ldg cr0 |>
      reg cr0 .ldg 0 Reg.LDG_STATUS_STATE 2 |> withLdg fun x => { x with tabDirty := true }) (by decide +kernel)
    exact ⟨_, 0, _, _, h, by decide +kernel⟩
  · obtain ⟨t, h⟩ := next_of_answers (c := .intervalCommit []) (s := on |>
      withLdg fun x => { x with wait := [⟨0, 0, 0, 0, 0, 0, 0, 0, 0, []⟩] }) (by decide +kernel)
    exact ⟨_, 0, _, _, h, by decide +kernel⟩
  · obtain ⟨t, h⟩ := next_of_answers (c := .intervalCommitDone none) (s := on |> atTime 100000000 |>
      withLdg fun x => { x with busy := some ⟨0, 0, 0, 0, 0, 0, 0, 0, 0, []⟩, seq := 1 }) (by decide +kernel)
    exact ⟨_, 0, _, _, h, by decide +kernel⟩

/-- A state in which a flit received at the SP end of MV0 lands at 4096. -/
def landing : State :=
  on |> enable .gtr (.mv 0) |> inSt sp stLive |> (fun s => ((s.setTbl 1 0 0 1 2 0 (2 ^ 16)).setTbl 0 0 0 1 2 0
    (2 + 5 * 2 ^ 8 + 2 ^ 32 * (1 + 7 * 2 ^ 16))).setTbl 3 0 0 0 0 7 (3 + 32 * 1 + 2 ^ 8 + 2 ^ 32 * 4096)) |> atBeat (.mv 0) 34

/-- A descriptor that moves a byte from 0x2000 to 0x1000, and a state in which mover M0 of MV0 executes it. -/
def oneByte : Desc :=
  ⟨1, 3, 0, 0, 0, [65536, 100, 0, 0], { op with work := .move ⟨.mem 0x2000, .mem 0x1000, 1, 0, 0, 0⟩ }, 0, 90, false⟩
def moving : State :=
  on |> withImg { img with contexts := [⟨3, false, false, [(0, 0x10000)], []⟩] } |> atBeat (.mv 0) 1 |>
    fun s => (s.wrBytes 0x2000 [5]).setQueue (.mv 0) 18 [oneByte]

/-- A state in which engine 0 of MV0 starts a descriptor of context 3. -/
def starting : State :=
  on |> enable .eng (.mv 0) |>
    (fun s => (s.setEng (.mv 0) 0 { run := some 3 }).setStream (.mv 0) 0 3 { head := 0x1000, bound := true }) |>
    reg (.mv 0) .eng 0 Reg.ENG_CTX_STATE_STATE 2 (k := ctxOff 3) |>
    (fun s => s.wrBytes 0x1000 (leBytes 4 (2 ^ 16) ++ leBytes 4 100 ++ leBytes 4 0 ++ leBytes 4 0))

/-- A read of the host that a mover waits for. -/
def hostRead : HostMove := ⟨9, 1, 0x5000, 0, 3, 18, 0x2000, 64, 0⟩
def reading : State := on |> withHost 0 fun h => { h with moves := [hostRead] }

theorem test_witness_FillsStayInTheirRanges :
    (∃ (c : Crown) (id : Nat) (status : Fin 3) (bytes : List Byte) (r : HostMove) (s t : State),
      (s.host c).moves.find? (fun r => r.id == id) = some r ∧ r.dst % 2 ^ 45 + r.len ≤ 2 ^ 45 ∧
      exec (.hostReadCompletion c id status bytes) s = .next t) ∧
    (∃ (c : Crown) (id : Nat) (r : HostMove) (s t : State),
      (s.host c).moves.find? (fun r => r.id == id) = some r ∧ r.dst % 2 ^ 45 + r.len ≤ 2 ^ 45 ∧
      exec (.hostReadTimeout c id) s = .next t) ∧
    (∃ (c : Crown) (kind : Fin 3) (s t : State), (∀ r ∈ (s.host c).moves, r.dst % 2 ^ 45 + r.len ≤ 2 ^ 45) ∧
      exec (.functionLevelReset c kind) s = .next t) ∧
    (∃ (d : Die) (cmd : List Byte) (data : List (List Byte)) (a : Nat) (s t : State),
      (∀ r ∈ Tab.get [] s.rdReqs (dieCode d), ∀ q, r.dst = some (.mem q) → q % 2 ^ 48 + r.len ≤ 2 ^ 48) ∧
      exec (.readData d cmd data) s = .next t ∧ t.rdByte a ≠ s.rdByte a) ∧
    (∃ (d : Die) (cmd : List Byte) (s t : State), s.fence (issuer d (cmdCtx cmd) (cmdHost cmd)) ≠ none ∧
      exec (.fenceResp d cmd) s = .next t) ∧
    (∃ (m : Mv) (e : Fin 16) (i : OpInfo) (s t : State), exec (.descriptorStart m e i) s = .next t) ∧
    (∃ (m : Mv) (u : Fin 22) (x : Desc) (a : Nat) (s t : State),
      (if u.val < 16 then (s.eng (.mv m) u).desc else (s.queue (.mv m) u).head?) = some x ∧
      (∀ r ∈ s.descStores (.mv m) u x, r.1 % 2 ^ 45 + r.2 ≤ 2 ^ 45) ∧ exec (.descriptorComplete m u) s = .next t ∧
      t.rdByte a ≠ s.rdByte a) ∧
    (∃ (m : Mv) (u : Fin 22) (s t : State),
      (if u.val < 16 then (s.eng (.mv m) u).desc else (s.queue (.mv m) u).head?) = none ∧
      exec (.descriptorComplete m u) s = .next t) ∧
    (∃ (e : LinkEnd) (b : Fin 16) (lanes : List Nat) (a : Nat) (s t : State),
      exec (.flitReceive e b lanes) s = .next t ∧ t.rdByte a ≠ s.rdByte a) ∧
    (∃ (c : Crown) (id x len : Nat) (s t : State), exec (.bar2Read c id x len) s = .next t) := by
  refine ⟨?_, ?_, ?_, ?_, ?_, ?_, ?_, ?_, ?_, ?_⟩
  · obtain ⟨t, h⟩ := next_of_answers (c := .hostReadCompletion 0 9 0 (List.replicate 64 1)) (s := reading) (by decide +kernel)
    exact ⟨_, _, _, _, hostRead, _, _, by decide +kernel, by decide +kernel, h⟩
  · obtain ⟨t, h⟩ := next_of_answers (c := .hostReadTimeout 0 9) (s := reading |> atTime 1000000000) (by decide +kernel)
    exact ⟨_, _, hostRead, _, _, by decide +kernel, by decide +kernel, h⟩
  · obtain ⟨t, h⟩ := next_of_answers (c := .functionLevelReset 0 1) (s := reading) (by decide +kernel)
    exact ⟨_, _, _, _, by decide +kernel, h⟩
  · obtain ⟨t, h⟩ := next_of_changes (c := .readData (.mv 0) (cmdFlit 32 4 0 3 false 0 7 (2 ^ 45 + 0x1000) 64 0 0)
      [List.replicate 64 1]) (a := 0x2000) (s := on |>
      fun s => { s with rdReqs := Tab.set [] s.rdReqs 0 [⟨7, 3, false, 2 ^ 45 + 0x1000, 64, some (.mem 0x2000), 18, 0⟩] })
      (by decide +kernel)
    refine ⟨_, _, _, _, _, _, ?_, h⟩
    intro r hr q hq
    obtain rfl : r = ⟨7, 3, false, 2 ^ 45 + 0x1000, 64, some (.mem 0x2000), 18, 0⟩ := List.mem_singleton.mp hr
    injection hq with hq; injection hq with hq; subst hq; decide
  · obtain ⟨t, h⟩ := next_of_answers (c := .fenceResp (.mv 0) (cmdFlit 33 4 0 3 false 0 7 (4 * 2 ^ 45) 1 0 0)) (s := on |>
      fun s => s.setFence (issuer (.mv 0) 3 false) (some ⟨0, [4], 0, 0, 0, 0, 0, 0, 0⟩)) (by decide +kernel)
    exact ⟨_, _, _, _, by decide +kernel, h⟩
  · obtain ⟨t, h⟩ := next_of_answers (c := .descriptorStart 0 0 op) (s := starting) (by decide +kernel)
    exact ⟨_, _, _, _, _, h⟩
  · obtain ⟨t, h⟩ := next_of_changes (c := .descriptorComplete 0 18) (a := 0x1000) (s := moving) (by decide +kernel)
    exact ⟨_, _, oneByte, _, _, _, by decide +kernel, by decide +kernel, h⟩
  · obtain ⟨t, h⟩ := next_of_answers (c := .descriptorComplete 0 0) (s := on) (by decide +kernel)
    exact ⟨_, _, _, _, by decide +kernel, h⟩
  · obtain ⟨t, h⟩ := next_of_changes (c := .flitReceive sp 0 (flitOn 5 29 (List.replicate 64 1))) (a := 4096) (s := landing)
      (by decide +kernel)
    exact ⟨_, _, _, _, _, _, h⟩
  · obtain ⟨t, h⟩ := next_of_answers (c := .bar2Read 0 9 0x1000 64) (s := on |> enable .pci cr0 |>
      reg cr0 .pci 0 Reg.PCI_BAR2_AP_VALID 1) (by decide +kernel)
    exact ⟨_, _, _, _, _, _, h⟩

/-- A replay of which one suspect has run, and a state in which it is at hand. -/
def replaying : State :=
  on |> withDom 0 { level := 2, step := 5, origin := 0 } |> fun s => s.setReplay (.mv 0)
    (some { die := 0, unit := 2, eng := 2, cause := 1, todo := [5, 6], cur := some 4 })

theorem test_witness_RecoveryAndSupplyMemory :
    (∃ (m : Mv) (a : Nat) (s t : State), (∀ u, (s.queue (.mv m) u).length ≤ 16) ∧ s.sampleKib ≤ 64 ∧
      (∀ e ∈ (s.dom 4).engines, e < 16) ∧ (∀ e ∈ (s.dom m.val).engines, e < 16) ∧ exec (.crashDumpDone m) s = .next t ∧
      t.rdByte a ≠ s.rdByte a) ∧
    (∃ (m : Mv) (s t : State), s.replay (.mv m) = none ∧ exec (.replayStart m) s = .next t) ∧
    (∃ (m : Mv) (r : Replay) (s t : State), s.replay (.mv m) = some r ∧
      (∀ c ∈ r.save, chipPa (.mv m) (0x3000000 + 0x100000 * r.eng) ≤ c.1 ∧
        c.1 < chipPa (.mv m) (0x3000000 + 0x100000 * r.eng) + 0x100000) ∧ exec (.replayStart m) s = .next t) ∧
    (∃ (m : Mv) (s t : State), s.replay (.mv m) = none ∧ exec (.replaySuspectEnd m) s = .next t) ∧
    (∃ (m : Mv) (r : Replay) (s t : State), s.replay (.mv m) = some r ∧
      (∀ c ∈ r.save, chipPa (.mv m) (0x3000000 + 0x100000 * r.eng) ≤ c.1 ∧
        c.1 < chipPa (.mv m) (0x3000000 + 0x100000 * r.eng) + 0x100000) ∧ exec (.replaySuspectEnd m) s = .next t) ∧
    (∃ (m : Mv) (stack : Fin 2) (ok : Bool) (a : Nat) (s t : State), exec (.hbmTrainingDone m stack ok) s = .next t ∧
      t.rdByte a ≠ s.rdByte a) ∧
    (∃ (a : Nat) (s t : State), exec .thermalShutdown s = .next t ∧ t.rdByte a ≠ s.rdByte a) ∧
    (∃ (a : Nat) (s t : State), exec .imageActivate s = .next t ∧ (a < 0x7FF80 ∨ 0x80000 ≤ a)) := by
  refine ⟨?_, ?_, ?_, ?_, ?_, ?_, ?_, ?_⟩
  · obtain ⟨t, h⟩ := next_of_changes (c := .crashDumpDone 0) (a := (on.slotPa (.mv 0) 1)) (s := on |>
      withDom 0 { level := 2, step := 2, origin := 1, eng := 5 }) (by decide +kernel)
    exact ⟨_, _, _, _, fun _ => Nat.zero_le _, by decide +kernel, by decide +kernel, by decide +kernel, h⟩
  · obtain ⟨t, h⟩ := next_of_answers (c := .replayStart 0) (s := on |> withDom 0 { level := 2, step := 5, origin := 0 })
      (by decide +kernel)
    exact ⟨_, _, _, by decide +kernel, h⟩
  · obtain ⟨t, h⟩ := next_of_answers (c := .replayStart 0) (s := replaying) (by decide +kernel)
    exact ⟨_, { die := 0, unit := 2, eng := 2, cause := 1, todo := [5, 6], cur := some 4 }, _, _, by decide +kernel,
      by decide +kernel, h⟩
  · obtain ⟨t, h⟩ := next_of_answers (c := .replaySuspectEnd 0) (s := on) (by decide +kernel)
    exact ⟨_, _, _, by decide +kernel, h⟩
  · obtain ⟨t, h⟩ := next_of_answers (c := .replaySuspectEnd 0) (s := replaying) (by decide +kernel)
    exact ⟨_, { die := 0, unit := 2, eng := 2, cause := 1, todo := [5, 6], cur := some 4 }, _, _, by decide +kernel,
      by decide +kernel, h⟩
  · obtain ⟨t, h⟩ := next_of_changes (c := .hbmTrainingDone 0 0 true) (a := hbmPa (.mv 0) on.recBase) (s := on |>
      withBoot fun b => { b with hbmOk := 2, fw := [7] }) (by decide +kernel)
    exact ⟨_, _, _, _, _, _, h⟩
  · obtain ⟨t, h⟩ := next_of_changes (c := .thermalShutdown) (a := 0x1000) (s := on |>
      reg (.mv 0) .thm 0 Reg.THM_STATUS_TRIP 1 |> fun s => s.wrBytes 0x1000 [7]) (by decide +kernel)
    exact ⟨_, _, _, h⟩
  · obtain ⟨t, h⟩ := next_of_answers (c := .imageActivate) (s := on) (by decide +kernel)
    exact ⟨0, _, _, h, by decide⟩

theorem test_witness_StepRunsFront : ∃ (c : Instr) (rest : List Instr) (s : State), s.pending = c :: rest :=
  ⟨.powerReturn, [], { on with pending := [.powerReturn] }, rfl⟩

theorem test_witness_EmptyQueuePassesABeat : ∃ s : State, s.pending = [] := ⟨on, rfl⟩

theorem test_witness_InvKept : ∃ s t : State, Inv s ∧ step s = .next t := by
  obtain ⟨t, h⟩ := next_of_answers (c := .pllLock cr0) (s := on) (by decide +kernel)
  exact ⟨{ on with pending := [.pllLock cr0] }, t, ⟨by decide +kernel, by decide +kernel, by decide +kernel,
    (⟨Nat.zero_le _, trivial⟩ : Tab.risingFrom 0 on.regs), fun _ h => absurd h (List.not_mem_nil)⟩, h⟩

theorem test_witness_UnalignedAccessCountsAndDiscards :
    (∃ (c : Crown) (s : State), s.bar0On c = true) ∧
    (∃ (c : Crown) (a : Word) (s : State), s.bar0On c = true ∧ a.toNat % 4 ≠ 0) ∧
    (∃ (c : Crown) (a : Word) (s : State), s.bar0On c = true ∧ a.toNat % 4 ≠ 0) :=
  ⟨⟨0, on, by decide +kernel⟩, ⟨0, 3, on, by decide +kernel⟩, ⟨0, 1, on, by decide +kernel⟩⟩

theorem test_witness_BeatLatchPerPath :
    (∃ (p : Path) (d : Die) (s : State), s.deadRead p d .bal = none) ∧
    (∃ (c : Crown) (d : Die) (a : Word) (s : State), s.bar0On c = true ∧ s.deadRead (.bar0 c) d .bal = none ∧
      a.toNat = winBase d + blkOff .bal 0 + Reg.BAL_BEAT_LO_BEAT.off) ∧
    (∃ (c : Crown) (d : Die) (a : Word) (s : State), s.bar0On c = true ∧ s.deadRead (.bar0 c) d .bal = none ∧
      a.toNat = winBase d + blkOff .bal 0 + Reg.BAL_BEAT_HI_BEAT.off) ∧
    (∃ (s : State), s.smOn = true ∧ s.boot.smPtr = blkOff .bal 0 + Reg.BAL_BEAT_LO_BEAT.off) ∧
    (∃ (s : State), s.smOn = true ∧ s.boot.smPtr = blkOff .bal 0 + Reg.BAL_BEAT_HI_BEAT.off) :=
  ⟨⟨.smbus, cr0, on, rfl⟩, ⟨0, cr0, 0x10008, on, by decide +kernel, rfl, by decide +kernel⟩,
    ⟨0, cr0, 0x1000C, on, by decide +kernel, rfl, by decide +kernel⟩,
    ⟨on |> reg cr0 .boot 0 Reg.BOOT_MON_GOOD 1 |> withBoot fun b => { b with smPtr := 0x10008 }, by decide +kernel⟩,
    ⟨on |> reg cr0 .boot 0 Reg.BOOT_MON_GOOD 1 |> withBoot fun b => { b with smPtr := 0x1000C }, by decide +kernel⟩⟩

theorem test_witness_RefusedEnableReports :
    ∃ (d : Die) (fn : Fn) (inst : Fin 4) (ok : Bool) (rc : Nat) (s : State), fn ≠ .rcv ∧ fnOn fn d inst = true ∧
      ¬ (fn = .ldg ∧ d = .cr 1) ∧ s.hasInst d (fnRegs fn).blk inst = true ∧ s.powered d (fnRegs fn).blk = true ∧
      s.heldInReset d (fnRegs fn).blk = false ∧ s.enabled fn d inst = false ∧
      (s.setF d (fnRegs fn).blk inst (fnRegs fn).refused 0).enableCheck fn d inst ok = some rc :=
  ⟨cr0, .ldg, 0, true, 0x1003, on, by decide +kernel⟩

end Sys2Proof.Tests
end

section
/-! Accesses of the management space that are not naturally aligned 32-bit accesses (R14): what such an access leaves in the
count and for the reader, that it changes nothing else, and that the three commands which bring one do no more than it. -/

namespace Sys2Proof.Machine

/-! ### The saturating count -/

/-- A counted field reads as one more, up to its greatest value. -/
theorem State.getF_bumpF_same (s : State) (d : Die) (b : Blk) (i : Nat) (f : Fld) (k : Nat) :
    (s.bumpF d b i f k).getF d b i f k = min (s.getF d b i f k + 1) (2 ^ f.w - 1) := by
  have hpos : 0 < 2 ^ f.w := Nat.two_pow_pos f.w
  rw [State.bumpF, State.getF_setF_same, Nat.mod_eq_of_lt (by omega)]

/-- A part outside a list of parts is the same where only that list's parts may have changed. -/
theorem Only.same_of_notMem {s t : State} {l : List Field} (h : Only (fun x => decide (x ∈ l)) s t) {x : Field}
    (hx : x ∉ l) : x.same s t :=
  h.same x (decide_eq_false hx)

/-! ### One bad access -/

section
variable (s : State) (c : Crown)

theorem State.badAccess_true : s.badAccess c true =
    (s.bumpF (.cr c) .pci 0 Reg.PCI_STATUS_MS_BAD_ACCESS).putRd (.bar0 c) 0xFFFFFFFF := rfl

theorem State.badAccess_false : s.badAccess c false = s.bumpF (.cr c) .pci 0 Reg.PCI_STATUS_MS_BAD_ACCESS := rfl

/-- The count of the Crown die that received the access, an eight-bit field, goes on by one and stops at 255. -/
theorem State.badAccess_count (rd : Bool) : (s.badAccess c rd).getF (.cr c) .pci 0 Reg.PCI_STATUS_MS_BAD_ACCESS =
    min (s.getF (.cr c) .pci 0 Reg.PCI_STATUS_MS_BAD_ACCESS + 1) 255 := by
  have hmax : 2 ^ Reg.PCI_STATUS_MS_BAD_ACCESS.w - 1 = 255 := rfl
  cases rd with
  | true => rw [State.badAccess_true, State.putRd_getF, State.getF_bumpF_same, hmax]
  | false => rw [State.badAccess_false, State.getF_bumpF_same, hmax]

theorem State.badAccess_read_allOnes :
    Tab.get 0 (s.badAccess c true).rdData (pathCode (.bar0 c)) = 0xFFFFFFFF := by
  rw [State.badAccess_true, State.rdData_putRd_same]

theorem State.badAccess_write_rdData : (s.badAccess c false).rdData = s.rdData := by
  rw [State.badAccess_false, State.bumpF, State.setF_rdData]

theorem State.badAccess_same (rd : Bool) {x : Field}
    (hx : x ∉ [Field.ofReg .pci Reg.PCI_STATUS_MS_BAD_ACCESS, .rdData]) : x.same s (s.badAccess c rd) := by
  refine Only.same_of_notMem ((Only.refl s).badAccess c rd (Allow.of_forall fun y hy => decide_eq_true ?_)) hx
  exact (List.Perm.swap _ _ _).mem_iff.1 hy

/-- A discarded write leaves also what the paths have read. -/
theorem State.badAccess_write_same {x : Field} (hx : x ≠ Field.ofReg .pci Reg.PCI_STATUS_MS_BAD_ACCESS) :
    x.same s (s.badAccess c false) := by
  rw [State.badAccess_false]
  exact Only.same_of_notMem ((Only.refl s).bumpF _ _ _ _ _ (Allow.of_forall fun _ => decide_eq_true))
    (List.mem_singleton.not.2 hx)

end

/-! ### The commands that bring one -/

section
variable {s : State} {c : Crown} (hon : s.bar0On c = true)
include hon

theorem exec_msBadAccess_of_bar0On (rd : Bool) : exec (.msBadAccess c rd) s = .next (s.badAccess c rd) := by
  show execMsBadAccess c rd s = _
  rw [execMsBadAccess, if_pos hon]

theorem exec_registerWrite_of_misaligned {a : Word} (w : Word) (ok : Bool) (ha : a.toNat % 4 ≠ 0) :
    exec (.registerWrite c a w ok) s = .next (s.badAccess c false) := by
  show execRegisterWrite c a w ok s = _
  simp [execRegisterWrite, hon, ha]

theorem exec_msRead_of_misaligned {a : Word} (ha : a.toNat % 4 ≠ 0) :
    exec (.msRead c a) s = .next (s.badAccess c true) := by
  show execMsRead c a s = _
  simp [execMsRead, hon, ha]

end

/-- Settles O58: each of the three commands answers the state after one bad access, of which the lemmas above give the
count, the data read and the frame. -/
theorem unalignedAccessCountsAndDiscards : Obligations.UnalignedAccessCountsAndDiscards := by
  unfold Obligations.UnalignedAccessCountsAndDiscards
  refine ⟨fun c rd s hon => ?badAccess, fun c a w ok s hon ha => ?write, fun c a s hon ha => ?read⟩
  case badAccess =>
    refine ⟨_, exec_msBadAccess_of_bar0On hon rd, s.badAccess_count c rd, ?_, ?_, fun _ => s.badAccess_same c rd⟩
    · rintro rfl
      exact s.badAccess_read_allOnes c
    · rintro rfl
      exact s.badAccess_write_rdData c
  case write =>
    exact ⟨_, exec_registerWrite_of_misaligned hon w ok ha, s.badAccess_count c false, fun _ => s.badAccess_write_same c⟩
  case read =>
    exact ⟨_, exec_msRead_of_misaligned hon ha, s.badAccess_count c true, s.badAccess_read_allOnes c,
      fun _ => s.badAccess_same c true⟩

end Sys2Proof.Machine
end

section
/-! Refused enables (R419): the report of a refusal, field by field, the vector it raises and what it leaves alone, and that
an enable which its checks refuse does no more than report. -/

namespace Sys2Proof.Machine

/-! ### Reading through a frame -/

section
variable {s t : State}

/-- A register field of a part that is the same reads the same. -/
theorem Field.getF_of_same {b : Blk} {f : Fld} (h : (Field.ofReg b f).same s t) (d : Die) (i k : Nat) :
    t.getF d b i f k = s.getF d b i f k :=
  h d b i f k rfl

theorem Allow.of_subset {l m : List Field} (h : m ⊆ l) : Allow (fun x => decide (x ∈ l)) m :=
  Allow.of_forall fun _ hx => decide_eq_true (h hx)

/-- Which Crown dies there are is a fuse's matter. -/
theorem State.crowns_of_same (h : (Field.ofReg .cfg Reg.CFG_VARIANT).same s t) : t.crowns = s.crowns := by
  unfold State.crowns State.x2
  rw [Field.getF_of_same h]

theorem State.enabled_of_same {fn : Fn} (h : (Field.ofReg (fnRegs fn).blk (fnRegs fn).enable).same s t)
    (d : Die) (i : Nat) : t.enabled fn d i = s.enabled fn d i := by
  unfold State.enabled State.isF
  rw [Field.getF_of_same h]

end

/-- Of the parts of the state, a write to a register field changes that field's only. -/
theorem State.setF_same (s : State) {x : Field} {d : Die} {b : Blk} {i : Nat} {f : Fld} {v k : Nat}
    (hx : x ≠ .ofReg b f) : x.same s (s.setF d b i f v k) :=
  Only.same_of_notMem ((Only.refl s).setF d b i f v k (Allow.of_subset (List.Subset.refl _))) (List.mem_singleton.not.2 hx)

theorem State.testFram_same (s : State) (ok : Bool) {x : Field} (hx : x ∉ [.fram, .free]) : x.same s (s.testFram ok) :=
  Only.same_of_notMem ((Only.refl s).testFram ok (Allow.of_subset (by decide))) hx

/-! ### Raising a vector of the cause register -/

theorem bit_setBit_same (x i : Nat) : bit (setBit x i) i = true := by
  unfold setBit
  split
  case isTrue h => exact h
  case isFalse h =>
    rw [bit_eq, Nat.add_comm, Nat.testBit_two_pow_add_eq, ← bit_eq, Bool.not_eq_true', Bool.eq_false_of_not_eq_true h]

section
variable (s : State) {v : Nat} (hv : v < 8)
include hv

theorem State.raiseOn_eq_of_lt (c : Crown) : s.raiseOn v c =
    s.setF (.cr c) .pci 0 Reg.PCI_EVT_CAUSE (setBit (s.getF (.cr c) .pci 0 Reg.PCI_EVT_CAUSE) v) :=
  if_pos hv

theorem State.raiseOn_cause_same (c : Crown) :
    bit ((s.raiseOn v c).getF (.cr c) .pci 0 Reg.PCI_EVT_CAUSE) v = true := by
  rw [s.raiseOn_eq_of_lt hv, State.getF_setF_same, bit_eq, Nat.testBit_mod_two_pow, decide_eq_true hv, ← bit_eq,
    bit_setBit_same]
  rfl

/-- A bit of the vector that a function shows already stays. -/
theorem State.raiseOn_cause_keeps {c c' : Crown} (h : bit (s.getF (.cr c) .pci 0 Reg.PCI_EVT_CAUSE) v = true) :
    bit ((s.raiseOn v c').getF (.cr c) .pci 0 Reg.PCI_EVT_CAUSE) v = true := by
  by_cases e : c = c'
  · subst e
    exact s.raiseOn_cause_same hv c
  · rw [s.raiseOn_eq_of_lt hv, State.getF_setF_ne]
    · exact h
    · refine fkey_ne (by decide) (by decide) (.inl ?_)
      have : c.val ≠ c'.val := fun h => e (Fin.ext h)
      simp only [winBase]
      omega

theorem State.raiseOn_foldl_cause {l : List Crown} {c : Crown}
    (h : c ∈ l ∨ bit (s.getF (.cr c) .pci 0 Reg.PCI_EVT_CAUSE) v = true) :
    bit ((l.foldl (fun t c => t.raiseOn v c) s).getF (.cr c) .pci 0 Reg.PCI_EVT_CAUSE) v = true := by
  induction l generalizing s with
  | nil => exact h.resolve_left List.not_mem_nil
  | cons a l ih =>
    refine ih _ ?_
    rcases h with h | h
    · rcases List.mem_cons.1 h with rfl | h
      · exact .inr (s.raiseOn_cause_same hv c)
      · exact .inl h
    · exact .inr (s.raiseOn_cause_keeps hv h)

/-- A vector of the whole package shows on every function of it. -/
theorem State.raise_none_cause {c : Crown} (hc : c ∈ s.crowns) :
    bit ((s.raise none v).getF (.cr c) .pci 0 Reg.PCI_EVT_CAUSE) v = true :=
  s.raiseOn_foldl_cause hv (.inl hc)

end

/-! ### `CFG.LAST_REASON` and `CFG.REFUSALS` -/

/-- The parts of the state that the report of a block's refusal changes. -/
def reportParts : List Field := evtRegs ++ refusalRegs ++ [.dies]

section
variable (s : State) (d : Die) (b : Blk) (inst rc : Nat)

theorem State.lastReason_reason :
    (s.lastReason d b inst rc).getF cr0 .cfg 0 Reg.CFG_LAST_REASON_REASON = rc % 2 ^ 16 := by
  rw [State.lastReason, State.bumpF, State.getF_setF_ne _ (fkey_ne_of_tag (by decide)),
    State.getF_setF_ne _ (fkey_ne_of_tag (by decide)), State.getF_setF_ne _ (fkey_ne_of_tag (by decide)),
    State.getF_setF_ne _ (fkey_ne_of_tag (by decide)), State.getF_setF_same]

theorem State.lastReason_die :
    (s.lastReason d b inst rc).getF cr0 .cfg 0 Reg.CFG_LAST_REASON_DIE = dieCode d := by
  have hlt : dieCode d < 2 ^ 3 := by cases d <;> simp only [dieCode] <;> omega
  rw [State.lastReason, State.bumpF, State.getF_setF_ne _ (fkey_ne_of_tag (by decide)),
    State.getF_setF_ne _ (fkey_ne_of_tag (by decide)), State.getF_setF_ne _ (fkey_ne_of_tag (by decide)),
    State.getF_setF_same, Nat.mod_eq_of_lt hlt]

theorem State.lastReason_block :
    (s.lastReason d b inst rc).getF cr0 .cfg 0 Reg.CFG_LAST_REASON_BLOCK = b.code := by
  have hlt : b.code < 2 ^ 5 := by cases b <;> decide
  rw [State.lastReason, State.bumpF, State.getF_setF_ne _ (fkey_ne_of_tag (by decide)),
    State.getF_setF_ne _ (fkey_ne_of_tag (by decide)), State.getF_setF_same, Nat.mod_eq_of_lt hlt]

theorem State.lastReason_inst (hi : inst < 2 ^ 8) :
    (s.lastReason d b inst rc).getF cr0 .cfg 0 Reg.CFG_LAST_REASON_INSTANCE = inst := by
  rw [State.lastReason, State.bumpF, State.getF_setF_ne _ (fkey_ne_of_tag (by decide)), State.getF_setF_same,
    Nat.mod_eq_of_lt hi]

theorem State.lastReason_refusals :
    (s.lastReason d b inst rc).getF cr0 .cfg 0 Reg.CFG_REFUSALS_COUNT =
      min (s.getF cr0 .cfg 0 Reg.CFG_REFUSALS_COUNT + 1) (2 ^ Reg.CFG_REFUSALS_COUNT.w - 1) := by
  rw [State.lastReason, State.getF_bumpF_same, State.getF_setF_ne _ (fkey_ne_of_tag (by decide)),
    State.getF_setF_ne _ (fkey_ne_of_tag (by decide)), State.getF_setF_ne _ (fkey_ne_of_tag (by decide)),
    State.getF_setF_ne _ (fkey_ne_of_tag (by decide))]

@[simp] theorem State.lastReason_dieSt (d' : Die) : (s.lastReason d b inst rc).die d' = s.die d' := rfl

/-! ### The report of a block -/

/-- After `CFG` has been written, a report changes the event registers and the log only. -/
theorem State.refuseBlk_same_lastReason {x : Field} (hx : x ∉ evtRegs ++ [.dies]) :
    x.same (s.lastReason d b inst rc) (s.refuseBlk d b inst rc) := by
  have hevt : Allow (fun x => decide (x ∈ evtRegs ++ [.dies])) evtRegs := Allow.of_subset (by decide)
  exact Only.same_of_notMem (((Only.refl _).log d b inst rc [] 0xFF hevt (Allow.of_subset (by decide))).raise _ 1 hevt) hx

theorem State.refuseBlk_same {x : Field} (hx : x ∉ reportParts) :
    x.same s (s.refuseBlk d b inst rc) :=
  Only.same_of_notMem ((Only.refl s).refuseBlk d b inst rc (Allow.of_subset (by decide)) (Allow.of_subset (by decide))
    (Allow.of_subset (by decide))) hx

theorem State.refuseBlk_die : (s.refuseBlk d b inst rc).die d = { s.die d with
    log := ((⟨s.beat d, rc, dieCode d, b.code, inst, 0xFF, severity rc, []⟩ : LogRec) :: (s.die d).log).take 4096
    logCount := (s.die d).logCount + 1 } := by
  rw [State.refuseBlk, State.raise_die, State.log_die, State.lastReason_dieSt]
  rfl

theorem State.refuseBlk_die_ne {d' : Die} (h : d' ≠ d) : (s.refuseBlk d b inst rc).die d' = s.die d' := by
  rw [State.refuseBlk, State.raise_die, State.log, State.logAs_die_ne _ _ _ _ _ _ _ h, State.lastReason_dieSt]

theorem State.refuseBlk_cause_of_own {c : Crown} (h : ownOf d b = some c) :
    bit ((s.refuseBlk d b inst rc).getF (.cr c) .pci 0 Reg.PCI_EVT_CAUSE) 1 = true := by
  rw [State.refuseBlk, h]
  exact State.raiseOn_cause_same _ (by decide) c

/-- The functions of the package are the same when the vector is raised as when the enable was written. -/
theorem State.lastReason_log_crowns : ((s.lastReason d b inst rc).log d b inst rc).crowns = s.crowns :=
  State.crowns_of_same (Only.same_of_notMem (l := reportParts)
    (((Only.refl s).lastReason d b inst rc (Allow.of_subset (by decide))).log d b inst rc [] 0xFF
      (Allow.of_subset (by decide)) (Allow.of_subset (by decide))) (by decide))

theorem State.refuseBlk_cause_of_package {c : Crown} (h : ownOf d b = none) (hc : c ∈ s.crowns) :
    bit ((s.refuseBlk d b inst rc).getF (.cr c) .pci 0 Reg.PCI_EVT_CAUSE) 1 = true := by
  rw [State.refuseBlk, h]
  exact State.raise_none_cause _ (by decide) (by rwa [State.lastReason_log_crowns])

end

/-! ### Where a function shows a refusal -/

section
variable (fn : Fn)

theorem fnRegs_refused_w : (fnRegs fn).refused.w = 1 := by cases fn <;> rfl

theorem fnRegs_reason_w : (fnRegs fn).reason.w = 16 := by cases fn <;> rfl

theorem fnRegs_refused_ne_reason :
    regTag (fnRegs fn).blk (fnRegs fn).refused ≠ regTag (fnRegs fn).blk (fnRegs fn).reason := by
  cases fn <;> decide

/-- The fields of a function's `STATUS` that show a refusal. -/
def statusParts : List Field :=
  [.ofReg (fnRegs fn).blk (fnRegs fn).refused, .ofReg (fnRegs fn).blk (fnRegs fn).reason]

/-- No function shows its refusals in what the report of a block writes. -/
theorem notMem_reportParts_of_mem_statusParts {x : Field} (hx : x ∈ statusParts fn) :
    x ∉ reportParts := by
  revert x
  cases fn <;> decide

theorem refusals_notMem_statusParts : Field.ofReg .cfg Reg.CFG_REFUSALS_COUNT ∉ statusParts fn := by
  cases fn <;> decide

theorem variant_notMem_statusParts : Field.ofReg .cfg Reg.CFG_VARIANT ∉ statusParts fn := by
  cases fn <;> decide

theorem enable_notMem_statusParts : Field.ofReg (fnRegs fn).blk (fnRegs fn).enable ∉ statusParts fn := by
  cases fn <;> decide

theorem enable_notMem_reportParts :
    Field.ofReg (fnRegs fn).blk (fnRegs fn).enable ∉ reportParts := by
  cases fn <;> decide

end

/-! ### A refused enable -/

/-- The state with a refusal in the function's own `STATUS`, before it is reported: the write cleared `REFUSED`, and a ledger
whose test record reads back wrong has written it (R344). -/
def State.showRefused (s : State) (fn : Fn) (d : Die) (inst rc : Nat) : State :=
  let s0 := s.setF d (fnRegs fn).blk inst (fnRegs fn).refused 0
  ((if rc = 0x7005 then s0.testFram false else s0).setF d (fnRegs fn).blk inst (fnRegs fn).refused 1).setF
    d (fnRegs fn).blk inst (fnRegs fn).reason rc

section
variable (s : State) (fn : Fn) (d : Die) (inst rc : Nat)

theorem State.showRefused_refused :
    (s.showRefused fn d inst rc).getF d (fnRegs fn).blk inst (fnRegs fn).refused = 1 := by
  rw [State.showRefused, State.getF_setF_ne _ (fkey_ne_of_tag (fnRegs_refused_ne_reason fn)), State.getF_setF_same,
    fnRegs_refused_w, Nat.one_mod_two_pow Nat.one_pos]

theorem State.showRefused_reason :
    (s.showRefused fn d inst rc).getF d (fnRegs fn).blk inst (fnRegs fn).reason = rc % 2 ^ 16 := by
  rw [State.showRefused, State.getF_setF_same, fnRegs_reason_w]

@[simp] theorem State.showRefused_die (d' : Die) : (s.showRefused fn d inst rc).die d' = s.die d' := by
  unfold State.showRefused
  dsimp only
  split <;> rfl

theorem State.showRefused_same {x : Field} (hx : x ∉ statusParts fn) (hrc : rc = 0x7005 → x ∉ [.fram, .free]) :
    x.same s (s.showRefused fn d inst rc) := by
  have hrefused : x ≠ .ofReg (fnRegs fn).blk (fnRegs fn).refused := fun e => hx (e ▸ .head _)
  have hreason : x ≠ .ofReg (fnRegs fn).blk (fnRegs fn).reason := fun e => hx (e ▸ .tail _ (.head _))
  refine Field.same_trans (Field.same_trans ?_ (State.setF_same _ hrefused)) (State.setF_same _ hreason)
  split
  case isTrue h => exact Field.same_trans (State.setF_same _ hrefused) (State.testFram_same _ false (hrc h))
  case isFalse => exact State.setF_same _ hrefused

end

/-- An enable that its checks refuse shows the refusal in its `STATUS` and reports it. -/
theorem exec_functionEnable_of_refused {d : Die} {fn : Fn} {inst : Fin 4} {ok : Bool} {rc : Nat} {s : State}
    (hrcv : fn ≠ .rcv) (hon : fnOn fn d inst = true) (hldg : ¬ (fn = .ldg ∧ d = .cr 1))
    (hinst : s.hasInst d (fnRegs fn).blk inst = true) (hpow : s.powered d (fnRegs fn).blk = true)
    (hres : s.heldInReset d (fnRegs fn).blk = false) (hoff : s.enabled fn d inst = false)
    (hcheck : (s.setF d (fnRegs fn).blk inst (fnRegs fn).refused 0).enableCheck fn d inst ok = some rc) :
    exec (.functionEnable d fn inst ok) s =
      .next ((s.showRefused fn d inst rc).refuseBlk d (fnRegs fn).blk inst rc) := by
  show execFunctionEnable d fn inst ok s = _
  simp only [execFunctionEnable, State.enableFn, beq_iff_eq, Bool.and_eq_true, Bool.or_eq_true, Bool.not_eq_true', hrcv,
    hon, hldg, hinst, hpow, hres, hoff, hcheck, Bool.false_eq_true, or_self, if_false, Bool.true_eq_false,
    State.refuse, State.showRefused]

/-- Settles O60: the refusal is shown in `STATUS` and then reported as a block's is, so that every clause is read off one of
the two, or the frame of both. -/
theorem refusedEnableReports : Obligations.RefusedEnableReports := by
  unfold Obligations.RefusedEnableReports
  intro d fn inst ok rc s hrcv hon hldg hinst hpow hres hoff hcheck
  have hstatus {x : Field} (hx : x ∈ statusParts fn) := (s.showRefused fn d inst rc).refuseBlk_same d (fnRegs fn).blk
    inst rc (notMem_reportParts_of_mem_statusParts fn hx)
  have hshown {b : Blk} {f : Fld} (hx : Field.ofReg b f ∉ statusParts fn) :=
    s.showRefused_same fn d inst rc hx fun _ => by simp [Field.ofReg]
  have hcfg {x : Field} (hx : x ∉ evtRegs ++ [.dies]) :=
    (s.showRefused fn d inst rc).refuseBlk_same_lastReason d (fnRegs fn).blk inst rc hx
  have hdie := (s.showRefused fn d inst rc).refuseBlk_die d (fnRegs fn).blk inst rc
  refine ⟨_, exec_functionEnable_of_refused hrcv hon hldg hinst hpow hres hoff hcheck, ?enable, ?refused, ?reason,
    ?lastReason, ?lastDie, ?lastBlock, ?lastInstance, ?refusals, ?logCount, ?log, fun d' hd => ?otherDies,
    fun c hc => ?vector, fun x hx hrc => ?rest⟩
  case enable =>
    rw [State.enabled_of_same (State.refuseBlk_same _ _ _ _ _ (enable_notMem_reportParts fn)),
      State.enabled_of_same (hshown (enable_notMem_statusParts fn)), hoff]
  case refused => rw [Field.getF_of_same (hstatus (.head _)), State.showRefused_refused]
  case reason => rw [Field.getF_of_same (hstatus (.tail _ (.head _))), State.showRefused_reason]
  case lastReason => rw [Field.getF_of_same (hcfg (by decide)), State.lastReason_reason]
  case lastDie => rw [Field.getF_of_same (hcfg (by decide)), State.lastReason_die]
  case lastBlock => rw [Field.getF_of_same (hcfg (by decide)), State.lastReason_block]
  case lastInstance => rw [Field.getF_of_same (hcfg (by decide)), State.lastReason_inst _ _ _ _ _ (by omega)]
  case refusals =>
    rw [Field.getF_of_same (hcfg (by decide)), State.lastReason_refusals,
      Field.getF_of_same (hshown (refusals_notMem_statusParts fn))]
  case logCount => rw [hdie, State.showRefused_die]
  case log => rw [hdie, State.beat, State.showRefused_die]; rfl
  case otherDies => rw [State.refuseBlk_die_ne _ _ _ _ _ hd, State.showRefused_die]
  case vector =>
    cases hown : ownOf d (fnRegs fn).blk with
    | some o =>
      rw [hown] at hc
      obtain rfl : c = o := hc
      exact State.refuseBlk_cause_of_own _ _ _ _ _ hown
    | none =>
      rw [hown] at hc
      refine State.refuseBlk_cause_of_package _ _ _ _ _ hown ?_
      rwa [State.crowns_of_same (hshown (variant_notMem_statusParts fn))]
  case rest =>
    replace hx : x ∉ reportParts ++ statusParts fn := hx
    exact Field.same_trans (s.showRefused_same fn d inst rc (fun h => hx (List.mem_append_right _ h)) hrc)
      (State.refuseBlk_same _ _ _ _ _ fun h => hx (List.mem_append_left _ h))

end Sys2Proof.Machine
end

section
/-! The latch of `BEAT_HI` (R37, R501): what a read of `BEAT_LO` leaves in the latch of each path, where the two registers lie
in a die's window, and that reads of them over BAR0 and SMBus come to those two reads. -/

namespace Sys2Proof.Machine

/-! ### The latches -/

theorem pathCode_injective : Function.Injective pathCode := by
  rintro (c | _ | _) (c' | _ | _) h
  case bar0.bar0 => exact congrArg Path.bar0 (Fin.ext h)
  case smbus.smbus | tap.tap => rfl
  all_goals simp only [pathCode] at h; omega

section
variable (s : State) (p : Path) (d : Die)

theorem State.readBeatLo_value : (s.readBeatLo p d).1 = s.beat d % 2 ^ 32 := rfl

theorem State.readBeatLo_latch_same : Tab.get 0 (s.readBeatLo p d).2.beatHi (pathCode p) = s.beat d / 2 ^ 32 :=
  Tab.get_set_same ..

theorem State.readBeatLo_latch_ne {q : Path} (h : q ≠ p) :
    Tab.get 0 (s.readBeatLo p d).2.beatHi (pathCode q) = Tab.get 0 s.beatHi (pathCode q) :=
  Tab.get_set_ne _ _ (pathCode_injective.ne h)

end

/-! ### The two registers in a die's window -/

/-- The place of a register of a die's `BAL` that is a single word with one field. -/
def balWord (d : Die) (f : Fld) : Place := ⟨d, .bal, 0, ⟨f.off, 1, 0x4, 1, 4, [f]⟩, 0⟩

theorem winBase_mod (d : Die) : winBase d % 0x1000000 = 0 := by
  cases d <;> simp [winBase]

/-- An offset below the size of a window does not lead out of it. -/
theorem dieOfWin_winBase_add (d : Die) {off : Nat} (h : off < 0x1000000) : dieOfWin (winBase d + off) = some d := by
  have hwin : (winBase d + off) / 0x1000000 = winBase d / 0x1000000 := by
    have := winBase_mod d
    omega
  rw [dieOfWin, hwin]
  rcases d with m | c
  · fin_cases m <;> rfl
  · fin_cases c <;> rfl

theorem dieBlocks_eq_cfg_bal (d : Die) : ∃ rest, dieBlocks d = (.cfg, 0) :: (.bal, 0) :: rest := by
  cases d <;> exact ⟨_, rfl⟩

section
variable {f : Fld} (hf : f ∈ [Reg.BAL_BEAT_LO_BEAT, Reg.BAL_BEAT_HI_BEAT])
include hf

theorem beat_off_lt : f.off < 0x10 := by
  revert f; decide

theorem beat_off_aligned : f.off % 4 = 0 := by
  revert f; decide

theorem dieOfWin_beat (d : Die) : dieOfWin (winBase d + blkOff .bal 0 + f.off) = some d := by
  have hoff := beat_off_lt hf
  rw [Nat.add_assoc]
  exact dieOfWin_winBase_add d (by simp only [blkOff]; omega)

theorem onDie_beat (d : Die) : onDie d .bal f.off = true := by
  obtain rfl | rfl := List.mem_pair.1 hf <;> cases d <;> simp [onDie]

/-- The `BAL` of a die lies past every register of its `CFG`. -/
theorem cfgRows_at_beat : ∀ r ∈ blkRows .cfg, r.at (0x10000 + f.off) = none := by
  obtain rfl | rfl := List.mem_pair.1 hf <;> decide

theorem balRows_findSome_beat (d : Die) :
    (blkRows .bal).findSome? (fun r => (r.at f.off).map fun k => (⟨d, .bal, 0, r, k⟩ : Place)) = some (balWord d f) := by
  obtain rfl | rfl := List.mem_pair.1 hf <;> rfl

/-- `BEAT_LO` and `BEAT_HI` stand in the `BAL` of every die (R423). -/
theorem findPlace_beat (d : Die) : findPlace (winBase d + blkOff .bal 0 + f.off) = some (balWord d f) := by
  have hdie := dieOfWin_beat hf d
  have hcfg : (blkRows .cfg).findSome? (fun r => (r.at (0x10000 + f.off)).map fun k => (⟨d, .cfg, 0, r, k⟩ : Place)) =
      none := by
    rw [List.findSome?_eq_none_iff]
    intro r hr
    rw [cfgRows_at_beat hf r hr, Option.map_none]
  have hpast : winBase d + blkOff .cfg 0 ≤ winBase d + blkOff .bal 0 + f.off := by simp only [blkOff]; omega
  have hcfgOff : winBase d + blkOff .bal 0 + f.off - (winBase d + blkOff .cfg 0) = 0x10000 + f.off := by
    simp only [blkOff]; omega
  have hbalOff : winBase d + blkOff .bal 0 + f.off - (winBase d + blkOff .bal 0) = f.off := Nat.add_sub_cancel_left ..
  obtain ⟨rest, hblocks⟩ := dieBlocks_eq_cfg_bal d
  simp only [findPlace, hdie, hblocks, List.findSome?_cons, Nat.not_lt.2 hpast, Nat.not_lt.2 (Nat.le_add_right ..),
    hcfgOff, hbalOff, hcfg, onDie_beat hf, balRows_findSome_beat hf, ite_self, if_false, Bool.not_true,
    Bool.false_eq_true]

end

/-! ### Reading them in the management space -/

section
variable {s : State} {p : Path} {d : Die}

/-- A die that a path reads is one that the variant contains. -/
theorem State.hasDie_of_deadRead_eq_none {b : Blk} (h : s.deadRead p d b = none) : s.hasDie d = true := by
  by_contra hd
  have hsome : s.deadRead p d b = some (0, s) := if_pos (by simp [hd])
  rw [h] at hsome
  contradiction

theorem State.msRead_beat (h : s.deadRead p d .bal = none) {f : Fld}
    (hf : f ∈ [Reg.BAL_BEAT_LO_BEAT, Reg.BAL_BEAT_HI_BEAT]) :
    s.msRead p (winBase d + blkOff .bal 0 + f.off) = s.regRead p (balWord d f) := by
  have hoff := beat_off_lt hf
  have hring : ¬ (0x4A0000 ≤ (winBase d + blkOff .bal 0 + f.off) % 0x1000000 ∧
      (winBase d + blkOff .bal 0 + f.off) % 0x1000000 < 0x4C0000) := by
    have := winBase_mod d
    simp only [blkOff]
    omega
  have hinst : s.hasInst d .bal 0 = true := by simp [State.hasInst, State.hasDie_of_deadRead_eq_none h]
  simp only [State.msRead, dieOfWin_beat hf d, if_neg hring, findPlace_beat hf d]
  simp [balWord, hinst, h]

theorem State.msRead_beatLo (h : s.deadRead p d .bal = none) :
    s.msRead p (winBase d + blkOff .bal 0 + Reg.BAL_BEAT_LO_BEAT.off) = s.readBeatLo p d := by
  rw [State.msRead_beat h (by simp)]
  rfl

theorem State.msRead_beatHi (h : s.deadRead p d .bal = none) :
    s.msRead p (winBase d + blkOff .bal 0 + Reg.BAL_BEAT_HI_BEAT.off) = (Tab.get 0 s.beatHi (pathCode p), s) := by
  rw [State.msRead_beat h (by simp)]
  rfl

end

/-- CR0's `BAL` is always on, and its die always present. -/
theorem State.deadRead_smbus_bal (s : State) : s.deadRead .smbus cr0 .bal = none := rfl

theorem State.smRead_of_subset (s : State) {a : Nat} (hsub : smSubset a = true) (htray : a ∉ [0x380008, 0x38000C]) :
    s.smRead a = ((0, (s.msRead .smbus a).1), (s.msRead .smbus a).2) := by
  simp only [State.smRead, hsub, decide_eq_false htray, Bool.not_true, Bool.false_and, Bool.false_eq_true, if_false]

theorem winBase_cr0_add (a : Nat) : winBase cr0 + a = a := Nat.zero_add a

theorem State.smRead_beatLo (s : State) : s.smRead (blkOff .bal 0 + Reg.BAL_BEAT_LO_BEAT.off) =
    ((0, s.beat cr0 % 2 ^ 32), (s.readBeatLo .smbus cr0).2) := by
  have hms := State.msRead_beatLo s.deadRead_smbus_bal
  rw [Nat.add_assoc, winBase_cr0_add] at hms
  rw [State.smRead_of_subset s (by decide) (by decide), hms, State.readBeatLo_value]

theorem State.smRead_beatHi (s : State) : s.smRead (blkOff .bal 0 + Reg.BAL_BEAT_HI_BEAT.off) =
    ((0, Tab.get 0 s.beatHi (pathCode .smbus)), s) := by
  have hms := State.msRead_beatHi s.deadRead_smbus_bal
  rw [Nat.add_assoc, winBase_cr0_add] at hms
  rw [State.smRead_of_subset s (by decide) (by decide), hms]

/-! ### The commands that read them -/

section
variable {s : State}

theorem exec_beatLoRead_of_answered {p : Path} {d : Die} (h : s.deadRead p d .bal = none) :
    exec (.beatLoRead p d) s = .next ((s.readBeatLo p d).2.putRd p (s.readBeatLo p d).1) := by
  show execBeatLoRead p d s = _
  simp only [execBeatLoRead, h, Option.getD_none]

/-- A read of one of the two over BAR0 is of an aligned word, and hands on what the management space answers. -/
theorem exec_msRead_beat {c : Crown} {a : Word} (hon : s.bar0On c = true) {d : Die} {f : Fld}
    (hf : f ∈ [Reg.BAL_BEAT_LO_BEAT, Reg.BAL_BEAT_HI_BEAT]) (ha : a.toNat = winBase d + blkOff .bal 0 + f.off)
    {r : Nat × State} (hr : s.msRead (.bar0 c) (winBase d + blkOff .bal 0 + f.off) = r) :
    exec (.msRead c a) s = .next (r.2.putRd (.bar0 c) r.1) := by
  have haligned : (winBase d + blkOff .bal 0 + f.off) % 4 = 0 := by
    have := winBase_mod d
    have := beat_off_aligned hf
    simp only [blkOff]
    omega
  show execMsRead c a s = _
  simp [execMsRead, hon, haligned, ha, hr]

theorem does_smbusRead (hon : s.smOn = true) :
    Does .smbusRead s fun t => t.boot.smOut = some (s.smRead s.boot.smPtr).1 ∧
      t.beatHi = (s.smRead s.boot.smPtr).2.beatHi :=
  ⟨_, if_neg (by simp [hon]), rfl, rfl⟩

end

/-- Settles O59: on every way the read of `BEAT_LO` comes to `State.readBeatLo` for its own path, whose two laws say which
latch it sets and which it leaves, and the read of `BEAT_HI` to a look at the path's latch. -/
theorem beatLatchPerPath : Obligations.BeatLatchPerPath := by
  unfold Obligations.BeatLatchPerPath
  refine ⟨fun p d s hans => ?latch, fun c d a s hon hans ha => ?bar0Lo, fun c d a s hon hans ha => ?bar0Hi,
    fun s hon hptr => ?smbusLo, fun s hon hptr => ?smbusHi⟩
  case latch =>
    exact ⟨_, exec_beatLoRead_of_answered hans, State.rdData_putRd_same .., fun _ => s.readBeatLo_latch_same p d,
      fun _ => s.readBeatLo_latch_ne p d⟩
  case bar0Lo =>
    exact ⟨_, exec_msRead_beat hon (by simp) ha (State.msRead_beatLo hans), State.rdData_putRd_same ..,
      s.readBeatLo_latch_same _ d, fun _ => s.readBeatLo_latch_ne _ d⟩
  case bar0Hi =>
    exact ⟨_, exec_msRead_beat hon (by simp) ha (State.msRead_beatHi hans), State.rdData_putRd_same .., rfl⟩
  case smbusLo =>
    obtain ⟨t, hexec, hout, hlatch⟩ := does_smbusRead hon
    rw [hptr, State.smRead_beatLo] at hout hlatch
    refine ⟨t, hexec, hout, ?_, fun q hq => ?_⟩
    · rw [hlatch, State.readBeatLo_latch_same]
    · rw [hlatch, State.readBeatLo_latch_ne _ _ _ hq]
  case smbusHi =>
    obtain ⟨t, hexec, hout, hlatch⟩ := does_smbusRead hon
    rw [hptr, State.smRead_beatHi] at hout hlatch
    exact ⟨t, hexec, hout, hlatch⟩

end Sys2Proof.Machine
end

section
/-! The machine as a whole: what one step runs, the state after reset, that every command answers a next state, and that every
step keeps the form of the state. -/

namespace Sys2Proof.Machine

/-! ### Every command answers a next state that keeps the parts of `Kept` -/

theorem exec_kept (c : Instr) (s : State) : KeptO s (exec c s) :=
  match c with
  | .powerOnReset c => execPowerOnReset_kept (.refl s) c
  | .monitorGood m mv variant pkg refSel pfLow => execMonitorGood_kept (.refl s) m mv variant pkg refSel pfLow
  | .monitorNotGood m mv => execMonitorNotGood_kept (.refl s) m mv
  | .monitorBandTimeout m mv => execMonitorBandTimeout_kept (.refl s) m mv
  | .referenceDetect => execReferenceDetect_kept (.refl s)
  | .referenceTimeout => execReferenceTimeout_kept (.refl s)
  | .pllLock d => execPllLock_kept (.refl s) d
  | .pllLockTimeout d => execPllLockTimeout_kept (.refl s) d
  | .flashDiscover f => execFlashDiscover_kept (.refl s) f
  | .flashPass copyA copyB fw seedBytes cr1fw cr1Seeds ports => execFlashPass_kept (.refl s) copyA copyB fw seedBytes cr1fw cr1Seeds ports
  | .flashPassResume image => execFlashPassResume_kept (.refl s) image
  | .domainSwitchRequest w => execDomainSwitchRequest_kept (.refl s) w
  | .domainOn ok => execDomainOn_kept (.refl s) ok
  | .perstDeassert c width speed => execPerstDeassert_kept (.refl s) c width speed
  | .hbmTrainingDone m stack ok => execHbmTrainingDone_kept (.refl s) m stack ok
  | .imageLoad img ldgOk => execImageLoad_kept (.refl s) img ldgOk
  | .imageLoadHost => execImageLoadHost_kept (.refl s)
  | .imageUnload => execImageUnload_kept (.refl s)
  | .imageStop => execImageStop_kept (.refl s)
  | .loadReport pkg hash => execLoadReport_kept (.refl s) pkg hash
  | .imageActivate => execImageActivate_kept (.refl s)
  | .restart => execRestart_kept (.refl s)
  | .rollbackCommit w => execRollbackCommit_kept (.refl s) w
  | .rollbackCommitDone => execRollbackCommitDone_kept (.refl s)
  | .flashRead => execFlashRead_kept (.refl s)
  | .flashProgram => execFlashProgram_kept (.refl s)
  | .flashErase => execFlashErase_kept (.refl s)
  | .flashStatus => execFlashStatus_kept (.refl s)
  | .flashCommandDone err data => execFlashCommandDone_kept (.refl s) err data
  | .debugTokenSubmit => execDebugTokenSubmit_kept (.refl s)
  | .jtagUnlock token => execJtagUnlock_kept (.refl s) token
  | .debugLock => execDebugLock_kept (.refl s)
  | .debugLifetimeExpiry => execDebugLifetimeExpiry_kept (.refl s)
  | .bypass tdi => execBypass_kept (.refl s) tdi
  | .idcode tdi => execIdcode_kept (.refl s) tdi
  | .samplePreload tdi => execSamplePreload_kept (.refl s) tdi
  | .extest tdi => execExtest_kept (.refl s) tdi
  | .clamp tdi => execClamp_kept (.refl s) tdi
  | .highz tdi => execHighz_kept (.refl s) tdi
  | .msBadAccess c rd => execMsBadAccess_kept (.refl s) c rd
  | .registerWrite c a w ok => execRegisterWrite_kept (.refl s) c a w ok
  | .beatLoRead p d => execBeatLoRead_kept (.refl s) p d
  | .functionEnable d fn inst ok => execFunctionEnable_kept (.refl s) d fn inst ok
  | .functionDisable d fn inst => execFunctionDisable_kept (.refl s) d fn inst
  | .beatLoadSend d => execBeatLoadSend_kept (.refl s) d
  | .beatLoad e r => execBeatLoad_kept (.refl s) e r
  | .beatSyncAttempt n => execBeatSyncAttempt_kept (.refl s) n
  | .beatSyncReq n r => execBeatSyncReq_kept (.refl s) n r
  | .beatSyncResp n r stamp err => execBeatSyncResp_kept (.refl s) n r stamp err
  | .beatSyncTimeout n => execBeatSyncTimeout_kept (.refl s) n
  | .syncPortLoss => execSyncPortLoss_kept (.refl s)
  | .syncHoldoverExpiry => execSyncHoldoverExpiry_kept (.refl s)
  | .servoMapUpdate => execServoMapUpdate_kept (.refl s)
  | .taiMapSend e => execTaiMapSend_kept (.refl s) e
  | .taiMapApply d => execTaiMapApply_kept (.refl s) d
  | .hackStart => execHackStart_kept (.refl s)
  | .hackEnd => execHackEnd_kept (.refl s)
  | .cdcStale d kind blk inst => execCdcStale_kept (.refl s) d kind blk inst
  | .cdcStaleTurnExpiry d accepted => execCdcStaleTurnExpiry_kept (.refl s) d accepted
  | .ptrReq e r => execPtrReq_kept (.refl s) e r
  | .ptrResp e r => execPtrResp_kept (.refl s) e r
  | .pointerSet e => execPointerSet_kept (.refl s) e
  | .ptrHandshakeTimeout e => execPtrHandshakeTimeout_kept (.refl s) e
  | .fpResetReq e r => execFpResetReq_kept (.refl s) e r
  | .fpJointResetRelease f => execFpJointResetRelease_kept (.refl s) f
  | .resetRetry e => execResetRetry_kept (.refl s) e
  | .trainingTimeout e => execTrainingTimeout_kept (.refl s) e
  | .searchPointEnd e b bits eyes taps snr => execSearchPointEnd_kept (.refl s) e b bits eyes taps snr
  | .ckCountCheck e counts => execCkCountCheck_kept (.refl s) e counts
  | .lanetestEnd e bits => execLanetestEnd_kept (.refl s) e bits
  | .lanetestExit e => execLanetestExit_kept (.refl s) e
  | .lanemap e r => execLanemap_kept (.refl s) e r
  | .lanemapApply e => execLanemapApply_kept (.refl s) e
  | .frameMarker e unit seg => execFrameMarker_kept (.refl s) e unit seg
  | .sidebandContainer e r => execSidebandContainer_kept (.refl s) e r
  | .sidebandSlotTransmit e => execSidebandSlotTransmit_kept (.refl s) e
  | .sbAck e r => execSbAck_kept (.refl s) e r
  | .sbMessageRepeat e => execSbMessageRepeat_kept (.refl s) e
  | .sbAckTimeout e => execSbAckTimeout_kept (.refl s) e
  | .bundleRetire e r => execBundleRetire_kept (.refl s) e r
  | .bundleTxStop e b => execBundleTxStop_kept (.refl s) e b
  | .pinProbe e r => execPinProbe_kept (.refl s) e r
  | .pinEcho e r arrivals => execPinEcho_kept (.refl s) e r arrivals
  | .flitReceive e b lanes => execFlitReceive_kept (.refl s) e b lanes
  | .laneNoTransition e b lane ui => execLaneNoTransition_kept (.refl s) e b lane ui
  | .errWindowRoll e => execErrWindowRoll_kept (.refl s) e
  | .laneRepair e r => execLaneRepair_kept (.refl s) e r
  | .jewelStreamStart e b => execJewelStreamStart_kept (.refl s) e b
  | .laneRepairTakeover e b => execLaneRepairTakeover_kept (.refl s) e b
  | .laneRepairTxCutover e b => execLaneRepairTxCutover_kept (.refl s) e b
  | .jewelRecentre e b jewel delay thresh bits => execJewelRecentre_kept (.refl s) e b jewel delay thresh bits
  | .recalGo e => execRecalGo_kept (.refl s) e
  | .recalArm e r => execRecalArm_kept (.refl s) e r
  | .recalArmDeadline e => execRecalArmDeadline_kept (.refl s) e
  | .recalStart e => execRecalStart_kept (.refl s) e
  | .recalLanetestStart e => execRecalLanetestStart_kept (.refl s) e
  | .recalReturnMission e near far => execRecalReturnMission_kept (.refl s) e near far
  | .recalEnd e near far => execRecalEnd_kept (.refl s) e near far
  | .scNak e r => execScNak_kept (.refl s) e r
  | .slotTransmit e b => execSlotTransmit_kept (.refl s) e b
  | .scHoldExpiry e => execScHoldExpiry_kept (.refl s) e
  | .scResendDeadline e => execScResendDeadline_kept (.refl s) e
  | .scLostBundleReport e => execScLostBundleReport_kept (.refl s) e
  | .ucAck e r => execUcAck_kept (.refl s) e r
  | .credit e r => execCredit_kept (.refl s) e r
  | .ucReplayTimeout e b => execUcReplayTimeout_kept (.refl s) e b
  | .ucRequeue e => execUcRequeue_kept (.refl s) e
  | .variantSelect d => execVariantSelect_kept (.refl s) d
  | .lossNotice e payload => execLossNotice_kept (.refl s) e payload
  | .gtrTableWrite d w => execGtrTableWrite_kept (.refl s) d w
  | .gtrTableRead p d => execGtrTableRead_kept (.refl s) p d
  | .beaconBurst n => execBeaconBurst_kept (.refl s) n
  | .beaconBlock n block locked => execBeaconBlock_kept (.refl s) n block locked
  | .noPartnerSignal n => execNoPartnerSignal_kept (.refl s) n
  | .seekTimeout n => execSeekTimeout_kept (.refl s) n
  | .partnerSignalLost n => execPartnerSignalLost_kept (.refl s) n
  | .trayLossNotice e payload => execTrayLossNotice_kept (.refl s) e payload
  | .startWindowEnd c => execStartWindowEnd_kept (.refl s) c
  | .trayVariantSelect c => execTrayVariantSelect_kept (.refl s) c
  | .tryTableWrite c w => execTryTableWrite_kept (.refl s) c w
  | .tryTableRead p c => execTryTableRead_kept (.refl s) p c
  | .runSelect m e => execRunSelect_kept (.refl s) m e
  | .descriptorStart m e o => execDescriptorStart_kept (.refl s) m e o
  | .descriptorComplete m u => execDescriptorComplete_kept (.refl s) m u
  | .descriptorBoundExpiry m u => execDescriptorBoundExpiry_kept (.refl s) m u
  | .doorbellRing m w => execDoorbellRing_kept (.refl s) m w
  | .counterSignal m n value => execCounterSignal_kept (.refl s) m n value
  | .synCtrWrite m n w => execSynCtrWrite_kept (.refl s) m n w
  | .barrierArrival m ctx => execBarrierArrival_kept (.refl s) m ctx
  | .lockstepMismatch m => execLockstepMismatch_kept (.refl s) m
  | .write d cmd data bad dead => execWrite_kept (.refl s) d cmd data bad dead
  | .signal m cmd => execSignal_kept (.refl s) m cmd
  | .read d cmd bad corr => execRead_kept (.refl s) d cmd bad corr
  | .readData d cmd data => execReadData_kept (.refl s) d cmd data
  | .fenceProbe d cmd => execFenceProbe_kept (.refl s) d cmd
  | .fenceResp d cmd => execFenceResp_kept (.refl s) d cmd
  | .fenceProbeRetry d ctx => execFenceProbeRetry_kept (.refl s) d ctx
  | .pwFail d cmd full => execPwFail_kept (.refl s) d cmd full
  | .scrubPass m hbm bad corr => execScrubPass_kept (.refl s) m hbm bad corr
  | .bar2Write c x bytes => execBar2Write_kept (.refl s) c x bytes
  | .bar2Read c id x len => execBar2Read_kept (.refl s) c id x len
  | .bar2ReadAbort c id => execBar2ReadAbort_kept (.refl s) c id
  | .functionLevelReset c kind => execFunctionLevelReset_kept (.refl s) c kind
  | .hostReadCompletion c id status bytes => execHostReadCompletion_kept (.refl s) c id status bytes
  | .hostReadTimeout c id => execHostReadTimeout_kept (.refl s) c id
  | .msixMessage c v => execMsixMessage_kept (.refl s) c v
  | .ethFrameReceive c p frame => execEthFrameReceive_kept (.refl s) c p frame
  | .ptpSyncTimeout => execPtpSyncTimeout_kept (.refl s)
  | .leapSecond => execLeapSecond_kept (.refl s)
  | .outputGuardStart o => execOutputGuardStart_kept (.refl s) o
  | .resultOutput o => execResultOutput_kept (.refl s) o
  | .ethTableRead p c => execEthTableRead_kept (.refl s) p c
  | .snapshotLimitClose c g => execSnapshotLimitClose_kept (.refl s) c g
  | .snapshotSelect c g => execSnapshotSelect_kept (.refl s) c g
  | .snapshotRelease c g => execSnapshotRelease_kept (.refl s) c g
  | .residualBatchStart c g => execResidualBatchStart_kept (.refl s) c g
  | .calibBatchApply c g => execCalibBatchApply_kept (.refl s) c g
  | .modeSetProcess c => execModeSetProcess_kept (.refl s) c
  | .trackTablePublish c => execTrackTablePublish_kept (.refl s) c
  | .fusTableWrite c w => execFusTableWrite_kept (.refl s) c w
  | .fusTableRead p c => execFusTableRead_kept (.refl s) p c
  | .tariffChangeEffect => execTariffChangeEffect_kept (.refl s)
  | .intervalClose => execIntervalClose_kept (.refl s)
  | .setpointSetProcess => execSetpointSetProcess_kept (.refl s)
  | .setpointSetEffective => execSetpointSetEffective_kept (.refl s)
  | .ledgerOpen => execLedgerOpen_kept (.refl s)
  | .intervalCommit bad => execIntervalCommit_kept (.refl s) bad
  | .intervalCommitDone bad => execIntervalCommitDone_kept (.refl s) bad
  | .tableImageWrite bad => execTableImageWrite_kept (.refl s) bad
  | .ledgerOutputCopy => execLedgerOutputCopy_kept (.refl s)
  | .ldgTableWrite w => execLdgTableWrite_kept (.refl s) w
  | .ldgTableRead p => execLdgTableRead_kept (.refl s) p
  | .ldgFramReadStart w => execLdgFramReadStart_kept (.refl s) w
  | .ldgFramReadDone => execLdgFramReadDone_kept (.refl s)
  | .budgetWrite w => execBudgetWrite_kept (.refl s) w
  | .budgetReport d meas => execBudgetReport_kept (.refl s) d meas
  | .grantAllocation => execGrantAllocation_kept (.refl s)
  | .budgetGrant e r => execBudgetGrant_kept (.refl s) e r
  | .allowanceTake d => execAllowanceTake_kept (.refl s) d
  | .tokenGrant d => execTokenGrant_kept (.refl s) d
  | .admissionWaitTimeout d => execAdmissionWaitTimeout_kept (.refl s) d
  | .thermalSample d tj h0 h1 => execThermalSample_kept (.refl s) d tj h0 h1
  | .thermalShutdown => execThermalShutdown_kept (.refl s)
  | .powerFail cause => execPowerFail_kept (.refl s) cause
  | .powerFailDomainsOff => execPowerFailDomainsOff_kept (.refl s)
  | .ledgerHaltedCrfOff => execLedgerHaltedCrfOff_kept (.refl s)
  | .powerReturn => execPowerReturn_kept (.refl s)
  | .railSample mv => execRailSample_kept (.refl s) mv
  | .armGo w => execArmGo_kept (.refl s) w
  | .armDiscard w => execArmDiscard_kept (.refl s) w
  | .arm e r => execArm_kept (.refl s) e r
  | .confirm e r => execConfirm_kept (.refl s) e r
  | .packageConfirm => execPackageConfirm_kept (.refl s)
  | .armDecision => execArmDecision_kept (.refl s)
  | .commit e r => execCommit_kept (.refl s) e r
  | .abort e r => execAbort_kept (.refl s) e r
  | .changeSetApply => execChangeSetApply_kept (.refl s)
  | .heartbeatSend m => execHeartbeatSend_kept (.refl s) m
  | .heartbeatCheck m => execHeartbeatCheck_kept (.refl s) m
  | .heartbeatStateSend m => execHeartbeatStateSend_kept (.refl s) m
  | .faultGranuleWrite m => execFaultGranuleWrite_kept (.refl s) m
  | .watchdogKick c => execWatchdogKick_kept (.refl s) c
  | .watchdogExpiry c => execWatchdogExpiry_kept (.refl s) c
  | .contextRelease w => execContextRelease_kept (.refl s) w
  | .engineHangDetect m u => execEngineHangDetect_kept (.refl s) m u
  | .recoveryFenceEnd k => execRecoveryFenceEnd_kept (.refl s) k
  | .crashDumpDone m => execCrashDumpDone_kept (.refl s) m
  | .chipReset => execChipReset_kept (.refl s)
  | .recoveryBoundExpiry k => execRecoveryBoundExpiry_kept (.refl s) k
  | .replayStart m => execReplayStart_kept (.refl s) m
  | .replaySuspectEnd m => execReplaySuspectEnd_kept (.refl s) m
  | .domainRejoin m => execDomainRejoin_kept (.refl s) m
  | .packageHeartbeat n r => execPackageHeartbeat_kept (.refl s) n r
  | .trayOrder n r => execTrayOrder_kept (.refl s) n r
  | .trayStop => execTrayStop_kept (.refl s)
  | .oosClear => execOosClear_kept (.refl s)
  | .forceEngineReset die eng => execForceEngineReset_kept (.refl s) die eng
  | .forcePartitionReset die => execForcePartitionReset_kept (.refl s) die
  | .forceChipReset die => execForceChipReset_kept (.refl s) die
  | .smbusWrite a w pec => execSmbusWrite_kept (.refl s) a w pec
  | .smbusSetPointer a pec => execSmbusSetPointer_kept (.refl s) a pec
  | .smbusRead => execSmbusRead_kept (.refl s)
  | .pwrFailRelease variant pkg refSel => execPwrFailRelease_kept (.refl s) variant pkg refSel
  | .msRead c a => execMsRead_kept (.refl s) c a
  | .configurationRequest c q => execConfigurationRequest_kept (.refl s) c q
  | .privateInstruction op tdi => execPrivateInstruction_kept (.refl s) op tdi
  | .abortedArmRearm => execAbortedArmRearm_kept (.refl s)

/-- Every command answers a next state. -/
theorem exec_next (c : Instr) (s : State) : ∃ t, exec c s = .next t ∧ Kept s t := by
  have h := exec_kept c s
  generalize exec c s = o at h
  cases h with
  | next hk => exact ⟨_, rfl, hk⟩

theorem kept_of_exec {c : Instr} {s t : State} (h : exec c s = .next t) : Kept s t := by
  obtain ⟨u, hu, hk⟩ := exec_next c s
  cases hu.symm.trans h
  exact hk

/-- Settles O57: the law of `exec` for `Kept`, read off for the queue, the clock and the counter of free values. -/
theorem everyCommandAnswers : Obligations.EveryCommandAnswers := by
  unfold Obligations.EveryCommandAnswers
  intro c s
  obtain ⟨t, ht, hk⟩ := exec_next c s
  exact ⟨t, ht, hk.queue, hk.clock, hk.free⟩

/-! ### The step -/

theorem step_cons {c : Instr} {rest : List Instr} {s : State} (h : s.pending = c :: rest) :
    step s = exec c { s with pending := rest } := by
  unfold step
  rw [h]

theorem step_nil {s : State} (h : s.pending = []) : step s = .next s.tick := by
  unfold step
  rw [h]

/-- Settles O52. -/
theorem stepRunsFront : Obligations.StepRunsFront := by
  unfold Obligations.StepRunsFront
  exact fun _ _ _ => step_cons

/-- What one beat does to a die. -/
def oneBeat (x : DieSt) : DieSt := if x.run then { x with beat := x.beat + 1 } else x

/-- A die that no entry lists has no locked PLL, and stays as it is. -/
theorem State.tick_die (s : State) (d : Die) : s.tick.die d = oneBeat (s.die d) :=
  Tab.get_map oneBeat {} s.dies (dieCode d)

theorem State.tick_beat (s : State) (d : Die) : s.tick.beat d = if (s.die d).run then s.beat d + 1 else s.beat d := by
  unfold State.beat
  rw [State.tick_die, oneBeat]
  split <;> rfl

/-- Settles O53: the step is then `State.tick`, which touches the clock, the hack's count and the dies only. -/
theorem emptyQueuePassesABeat : Obligations.EmptyQueuePassesABeat := by
  unfold Obligations.EmptyQueuePassesABeat
  intro s hs
  exact ⟨s.tick, step_nil hs, rfl, s.tick_beat, hs, fun _ _ _ _ _ => rfl, fun _ => rfl, fun _ => rfl⟩

/-! ### The form of the state -/

theorem Inv.of_kept {s t : State} (hi : Inv s) (h : Kept s t) : Inv t :=
  ⟨h.mem hi.mem, h.fram hi.fram, h.poison hi.poison, h.regs hi.regs, h.logs hi.logs⟩

/-- The queue is no part of the form. -/
theorem Inv.withPending {s : State} (hi : Inv s) (q : List Instr) : Inv { s with pending := q } :=
  ⟨hi.mem, hi.fram, hi.poison, hi.regs, hi.logs⟩

/-- A beat that passes leaves each die's log as it is. -/
theorem LogsBounded.tick {s : State} (h : LogsBounded s) : LogsBounded s.tick := by
  intro p hp
  obtain ⟨q, hq, rfl⟩ := List.mem_map.1 hp
  have hle := h q hq
  dsimp only
  split <;> exact hle

theorem Inv.tick {s : State} (hi : Inv s) : Inv s.tick :=
  ⟨hi.mem, hi.fram, hi.poison, hi.regs, hi.logs.tick⟩

/-- Settles O56: a step is a beat that passes, or a command run on the queue's rest, which keeps each part of the form. -/
theorem invKept : Obligations.InvKept := by
  unfold Obligations.InvKept
  intro s t hi hstep
  cases hp : s.pending with
  | nil =>
    cases (step_nil hp).symm.trans hstep
    exact hi.tick
  | cons c rest => exact (hi.withPending rest).of_kept (kept_of_exec ((step_cons hp).symm.trans hstep))

/-- Settles O54: no memory byte, register field or die is listed after reset. -/
theorem invAtReset : Obligations.InvAtReset := by
  unfold Obligations.InvAtReset
  exact ⟨rfl, rfl, rfl, trivial, fun _ hp => nomatch hp⟩

/-! ### The state after reset -/

theorem State.reset_getF (d : Die) (b : Blk) (i : Nat) (f : Fld) (k : Nat) : State.reset.getF d b i f k = f.reset := rfl

/-- The pads are driven from reset on: `ENABLE` of `CFG.PAD_CTL` has the Reset value 1 (R496). -/
theorem State.reset_enabled_pad : State.reset.enabled .pad cr0 = true := by
  rw [State.enabled, State.isF, State.reset_getF]
  rfl

/-- Refutes O55: it says that after reset no function is enabled, and `PAD` of CR0 is. -/
theorem not_resetValues : ¬ Obligations.ResetValues := by
  unfold Obligations.ResetValues
  rintro ⟨-, -, hoff, -⟩
  exact absurd (hoff .pad cr0 0) (by rw [State.reset_enabled_pad]; decide)

end Sys2Proof.Machine
end

section
/-! The frames: each command changes no part of the state that `touched` does not list for it. One lemma per command collects
what the laws of the operations it calls say (Laws/Only); they are put together over `exec`, and the frames read off. -/

namespace Sys2Proof.Machine

set_option Elab.async false

/-! ### Deciding that a frame lists a part

A frame lists up to a hundred parts. They are compared by a number each, which the kernel does faster than with the
equality test that is derived for `Field`. -/

/-- The parts that are no register field. -/
def Field.plain : List Field :=
  [.free, .resv, .shadow, .inForce, .dies, .links, .tables, .mem, .poison, .ctxs, .dieIds, .cr1Root, .trayFuse,
   .fpLines, .seeds, .pins, .hack, .sync, .rdData, .beatHi, .topo, .routes, .reserve, .grants, .reports, .rcv, .engs,
   .queues, .streams, .opTable, .opDefs, .heads, .issued, .accepted, .failed, .seenIssued, .seenFailed, .nextTag,
   .hostEpoch, .fences, .rdReqs, .hosts, .ptp, .fus, .ldg, .fram, .boot, .chg, .tshadow, .recals, .landed, .recov]

/-- A number for each part: a register field's tag above those of the other parts. -/
def Field.code : Field → Nat
  | .reg n => n + 64
  | x => x.ctorIdx

/-- The part with a number. -/
def Field.ofCode (n : Nat) : Field := if n < 64 then Field.plain.getD (n - 1) .free else .reg (n - 64)

theorem Field.ofCode_code (x : Field) : Field.ofCode x.code = x := by
  cases x with
  | reg n => simp [Field.code, Field.ofCode]
  | _ => rfl

theorem Field.code_injective : Function.Injective Field.code :=
  Function.LeftInverse.injective Field.ofCode_code

/-- Every part of a list is one of a frame's. -/
def Touch.covers (u : Touch) (l : List Field) : Bool :=
  l.all fun x => (u.anyReg && x.isReg) || (u.parts.map Field.code).any fun m => Nat.beq m x.code

theorem Touch.allow_of_covers {p : List Field} {b : Bool} {l : List Field} (h : (Touch.mk p b).covers l = true) :
    Allow (Touch.mk p b).has l := by
  refine .of_forall fun x hx => ?_
  rcases (Bool.or_eq_true _ _).mp (List.all_eq_true.1 h x hx) with hreg | hpart
  · exact (Bool.or_eq_true _ _).mpr (.inr hreg)
  · obtain ⟨m, hm, he⟩ := List.any_eq_true.1 hpart
    obtain ⟨y, hy, rfl⟩ := List.mem_map.1 hm
    exact Touch.has_of_mem (Field.code_injective (Nat.eq_of_beq_eq_true he) ▸ hy)

theorem Touch.has_of_covers {p : List Field} {b : Bool} {x : Field} (h : (Touch.mk p b).covers [x] = true) :
    (Touch.mk p b).has x = true :=
  (Touch.allow_of_covers h).1

/-- A front part of a frame may do. -/
theorem Touch.allow_append_left {p q : List Field} {b : Bool} {l : List Field} (h : Allow (Touch.mk p b).has l) :
    Allow (Touch.mk (p ++ q) b).has l := by
  refine .of_forall fun x hx => ?_
  have hp := h.of_mem x hx
  unfold Touch.has at hp ⊢
  simp only [List.mem_append, Bool.or_eq_true, decide_eq_true_eq] at hp ⊢
  exact hp.imp_left .inl

/-! ### One lemma per command -/

theorem execPowerOnReset_only (c : Crown) (s : State) :
    OnlyO (touched (.powerOnReset c)).has s (execPowerOnReset c s) := by
  unfold execPowerOnReset
  repeat' first
    | (with_reducible first | exact Only.refl _ | assumption | apply OnlyO.next | apply OnlyO.ite | apply Only.ite
                            | apply Only.resetCr0 | apply Only.resetCr1)
    | (refine Touch.allow_of_covers ?_; decide +kernel) | exact Touch.anyReg_has rfl

theorem execMonitorGood_only (m : Monitor) (mv : Nat) (variant : Fin 4) (pkg : Fin 16) (refSel : Bool) (pfLow : Bool)
    (s : State) :
    OnlyO (touched (.monitorGood m mv variant pkg refSel pfLow)).has s
      (execMonitorGood m mv variant pkg refSel pfLow s) := by
  unfold execMonitorGood
  repeat' first
    | (with_reducible first | exact Only.refl _ | assumption | apply OnlyO.next | apply OnlyO.ite | apply Only.ite
                            | apply Only.setF | apply Only.log | apply Only.endStep | apply Only.setPhase
                            | apply Only.tryT0)
    | (refine Touch.allow_of_covers ?_; decide +kernel) | exact Touch.anyReg_has rfl

theorem execMonitorNotGood_only (m : Monitor) (mv : Nat) (s : State) :
    OnlyO (touched (.monitorNotGood m mv)).has s (execMonitorNotGood m mv s) := by
  unfold execMonitorNotGood
  repeat' first
    | (with_reducible first | exact Only.refl _ | assumption | apply OnlyO.next | apply OnlyO.ite | apply Only.ite
                            | apply Only.setF)
    | (refine Touch.allow_of_covers ?_; decide +kernel) | exact Touch.anyReg_has rfl
    | refine Only.of_eq (by assumption) ?_
    | split | dsimp only
    | (with_reducible apply Only.mk_same) <;>
        first | with_reducible exact .inl rfl | exact .inr (Touch.has_of_covers (by decide +kernel)) | skip

theorem execMonitorBandTimeout_only (m : Monitor) (mv : Nat) (s : State) :
    OnlyO (touched (.monitorBandTimeout m mv)).has s (execMonitorBandTimeout m mv s) := by
  unfold execMonitorBandTimeout
  repeat' first
    | (with_reducible first | exact Only.refl _ | assumption | apply OnlyO.next | apply OnlyO.ite | apply Only.ite
                            | apply Only.setF | apply Only.log)
    | (refine Touch.allow_of_covers ?_; decide +kernel)

theorem execReferenceDetect_only (s : State) : OnlyO (touched .referenceDetect).has s (execReferenceDetect s) := by
  unfold execReferenceDetect
  repeat' first
    | (with_reducible first | exact Only.refl _ | assumption | apply OnlyO.next | apply OnlyO.ite | apply Only.ite
                            | apply Only.refFails | apply Only.setF | apply Only.foldl)
    | (refine Touch.allow_of_covers ?_; decide +kernel) | exact Touch.anyReg_has rfl
    | refine Only.of_eq (by assumption) ?_ | split
    | dsimp only | intro _
    | (with_reducible apply Only.mk_same) <;>
        first | with_reducible exact .inl rfl | exact .inr (Touch.has_of_covers (by decide +kernel)) | skip

theorem execReferenceTimeout_only (s : State) : OnlyO (touched .referenceTimeout).has s (execReferenceTimeout s) := by
  unfold execReferenceTimeout
  repeat' first
    | (with_reducible first | exact Only.refl _ | assumption | apply OnlyO.next | apply OnlyO.ite | apply Only.ite
                            | apply Only.refFails)
    | (refine Touch.allow_of_covers ?_; decide +kernel) | exact Touch.anyReg_has rfl

theorem execPllLock_only (d : Die) (s : State) : OnlyO (touched (.pllLock d)).has s (execPllLock d s) := by
  unfold execPllLock
  repeat' first
    | (with_reducible first | exact Only.refl _ | assumption | apply OnlyO.next | apply OnlyO.ite | apply Only.ite
                            | apply Only.pllFails | apply Only.setF | apply Only.setDie | apply Only.endStep
                            | apply Only.setPhase)
    | (refine Touch.allow_of_covers ?_; decide +kernel) | exact Touch.anyReg_has rfl

theorem execPllLockTimeout_only (d : Die) (s : State) :
    OnlyO (touched (.pllLockTimeout d)).has s (execPllLockTimeout d s) := by
  unfold execPllLockTimeout
  repeat' first
    | (with_reducible first | exact Only.refl _ | assumption | apply OnlyO.next | apply OnlyO.ite | apply Only.ite
                            | apply Only.pllFails)
    | (refine Touch.allow_of_covers ?_; decide +kernel) | exact Touch.anyReg_has rfl

theorem execFlashDiscover_only (f : Option FlashInfo) (s : State) :
    OnlyO (touched (.flashDiscover f)).has s (execFlashDiscover f s) := by
  unfold execFlashDiscover
  repeat' first
    | (with_reducible first | exact Only.refl _ | assumption | apply OnlyO.next | apply OnlyO.ite | apply Only.ite
                            | apply Only.log | apply Only.haltBoot | apply Only.setF)
    | (refine Touch.allow_of_covers ?_; decide +kernel) | exact Touch.anyReg_has rfl
    | refine Only.of_eq (by assumption) ?_
    | split | dsimp only
    | (with_reducible apply Only.mk_same) <;>
        first | with_reducible exact .inl rfl | exact .inr (Touch.has_of_covers (by decide +kernel)) | skip

theorem execFlashPass_only (copyA copyB fw seedBytes cr1fw cr1Seeds : List Byte) (ports : List PortAddr)
    (s : State) : OnlyO (touched (.flashPass copyA copyB fw seedBytes cr1fw cr1Seeds ports)).has s
      (execFlashPass copyA copyB fw seedBytes cr1fw cr1Seeds ports s) := by
  unfold execFlashPass
  refine .ite (.next (.refl s)) ?_
  dsimp only
  have g : Only (touched (.flashPass copyA copyB fw seedBytes cr1fw cr1Seeds ports)).has s
      (((s.endStep 4).setPhase 4).pickRecord copyA copyB).2 := by
    refine (((Only.refl s).endStep _ ?_).setPhase _ ?_).pickRecord _ _ ?_ ?_ <;>
      (refine Touch.allow_of_covers ?_; decide +kernel)
  generalize ((s.endStep 4).setPhase 4).pickRecord copyA copyB = q at g ⊢
  obtain ⟨o, s2⟩ := q
  cases o with
  | none => exact .next (g.haltBoot _ (by refine Touch.allow_of_covers ?_; decide +kernel) (Touch.anyReg_has rfl))
  | some r =>
    dsimp only at g ⊢
    split
    · refine .next ((g.logFault _ _ _ ?_ ?_).haltBoot _ ?_ (Touch.anyReg_has rfl)) <;>
        (refine Touch.allow_of_covers ?_; decide +kernel)
    · have g3 : Only (touched (.flashPass copyA copyB fw seedBytes cr1fw cr1Seeds ports)).has s
          (((s2.noteVersion r).noteVersion fw).setF cr0 .boot 0 Reg.BOOT_FLASH_CR1_FLASH
            (b2n (bit ((oBody r).getD 4 0).toNat 0))) := by
        refine ((g.noteVersion _ ?_).noteVersion _ ?_).setF _ _ _ _ _ _ ?_ <;>
          (refine Touch.allow_of_covers ?_; decide +kernel)
      generalize ((s2.noteVersion r).noteVersion fw).setF cr0 .boot 0 Reg.BOOT_FLASH_CR1_FLASH
        (b2n (bit ((oBody r).getD 4 0).toNat 0)) = s3 at g3 ⊢
      generalize seedArea seedBytes ++ _ = seeds
      generalize topoOf _ = topo
      generalize List.map _ (List.filter _ (entriesOf (oBody r))) = own
      generalize List.take _ fw = fwb
      have g4 : Only (touched (.flashPass copyA copyB fw seedBytes cr1fw cr1Seeds ports)).has s
          ({ s3 with seeds := seeds, topo := topo, boot := { s3.boot with record := own, fw := fwb } } : State) := by
        apply Only.mk_same g3 <;>
          first | with_reducible exact .inl rfl | exact .inr (Touch.has_of_covers (by decide +kernel))
      have g5 := g4.cr1Bundle fw cr1fw (by refine Touch.allow_of_covers ?_; decide +kernel)
        (by refine Touch.allow_of_covers ?_; decide +kernel)
      split
      · next e =>
        exact .next ((Only.of_eq e g5).haltBoot _
          (by refine Touch.allow_of_covers ?_; decide +kernel) (Touch.anyReg_has rfl))
      · next e =>
        refine .next (Only.endVerify (.foldl _ (fun _ _ k => k.setAddr _ ?_) (Only.of_eq e g5)) ?_
          (Touch.anyReg_has rfl)) <;>
          (refine Touch.allow_of_covers ?_; decide +kernel)

theorem execFlashPassResume_only (image : List Byte) (s : State) :
    OnlyO (touched (.flashPassResume image)).has s (execFlashPassResume image s) := by
  unfold execFlashPassResume
  repeat' first
    | (with_reducible first | exact Only.refl _ | assumption | apply OnlyO.next | apply OnlyO.ite | apply Only.ite
                            | apply Only.setF | apply Only.applyFlDrv | apply Only.wrBytes | apply Only.logFault
                            | apply Only.bootAdvance | apply Only.foldl)
    | (refine Touch.allow_of_covers ?_; decide +kernel) | exact Touch.anyReg_has rfl
    | refine Only.of_eq (by assumption) ?_ | split
    | dsimp only | intro _
    | (with_reducible apply Only.mk_same) <;>
        first | with_reducible exact .inl rfl | exact .inr (Touch.has_of_covers (by decide +kernel)) | skip

theorem execDomainSwitchRequest_only (w : BitVec 16) (s : State) :
    OnlyO (touched (.domainSwitchRequest w)).has s (execDomainSwitchRequest w s) := by
  unfold execDomainSwitchRequest
  repeat' first
    | (with_reducible first | exact Only.refl _ | assumption | apply OnlyO.next | apply OnlyO.ite | apply Only.ite
                            | apply Only.domRequest)
    | (refine Touch.allow_of_covers ?_; decide +kernel) | exact Touch.anyReg_has rfl

theorem execDomainOn_only (ok : Bool) (s : State) : OnlyO (touched (.domainOn ok)).has s (execDomainOn ok s) := by
  unfold execDomainOn
  repeat' first
    | (with_reducible first | exact Only.refl _ | assumption | apply OnlyO.next | apply OnlyO.ite | apply Only.ite
                            | apply Only.domainIsOn | apply Only.nextDomain | apply Only.bootAdvance)
    | (refine Touch.allow_of_covers ?_; decide +kernel) | exact Touch.anyReg_has rfl
    | refine Only.of_eq (by assumption) ?_
    | split | dsimp only
    | (with_reducible apply Only.mk_same) <;>
        first | with_reducible exact .inl rfl | exact .inr (Touch.has_of_covers (by decide +kernel)) | skip

theorem execPerstDeassert_only (c : Crown) (width : Fin 8) (speed : Fin 8) (s : State) :
    OnlyO (touched (.perstDeassert c width speed)).has s (execPerstDeassert c width speed s) := by
  unfold execPerstDeassert
  repeat' first
    | (with_reducible first | exact Only.refl _ | assumption | apply OnlyO.next | apply OnlyO.ite | apply Only.ite
                            | apply Only.setHost | apply Only.linkUp)
    | (refine Touch.allow_of_covers ?_; decide +kernel)

theorem execHbmTrainingDone_only (m : Mv) (stack : Fin 2) (ok : Bool) (s : State) :
    OnlyO (touched (.hbmTrainingDone m stack ok)).has s (execHbmTrainingDone m stack ok s) := by
  unfold execHbmTrainingDone
  repeat' first
    | (with_reducible first | exact Only.refl _ | assumption | apply OnlyO.next | apply OnlyO.ite | apply Only.ite
                            | apply Only.setF | apply Only.placeFw | apply Only.recEnable | apply Only.bootAdvance
                            | apply Only.logAs | apply Only.haltBoot)
    | (refine Touch.allow_of_covers ?_; decide +kernel) | exact Touch.anyReg_has rfl
    | refine Only.of_eq (by assumption) ?_
    | split | dsimp only
    | (with_reducible apply Only.mk_same) <;>
        first | with_reducible exact .inl rfl | exact .inr (Touch.has_of_covers (by decide +kernel)) | skip

theorem execImageLoad_only (img : Image) (ldgOk : Bool) (s : State) :
    OnlyO (touched (.imageLoad img ldgOk)).has s (execImageLoad img ldgOk s) := by
  unfold execImageLoad
  repeat' first
    | (with_reducible first | exact Only.refl _ | assumption | apply OnlyO.next | apply OnlyO.ite | apply Only.ite
                            | apply Only.loadFails | apply Only.loadImage)
    | (refine Touch.allow_of_covers ?_; decide +kernel) | exact Touch.anyReg_has rfl
    | refine Only.of_eq (by assumption) ?_ | split

theorem execImageLoadHost_only (s : State) : OnlyO (touched .imageLoadHost).has s (execImageLoadHost s) := by
  unfold execImageLoadHost
  repeat' first
    | (with_reducible first | exact Only.refl _ | assumption | apply OnlyO.next | apply OnlyO.ite | apply Only.ite
                            | apply Only.loadWrite)
    | (refine Touch.allow_of_covers ?_; decide +kernel)

theorem execImageUnload_only (s : State) : OnlyO (touched .imageUnload).has s (execImageUnload s) := by
  unfold execImageUnload
  repeat' first
    | (with_reducible first | exact Only.refl _ | assumption | apply OnlyO.next | apply OnlyO.ite | apply Only.ite
                            | apply Only.unloadWrite)
    | (refine Touch.allow_of_covers ?_; decide +kernel)

theorem execImageStop_only (s : State) : OnlyO (touched .imageStop).has s (execImageStop s) := by
  unfold execImageStop
  repeat' first
    | (with_reducible first | exact Only.refl _ | assumption | apply OnlyO.next | apply OnlyO.ite | apply Only.ite
                            | apply Only.dropImage | apply Only.setPhase)
    | (refine Touch.allow_of_covers ?_; decide +kernel)

theorem execLoadReport_only (pkg : Fin 16) (hash : BitVec 384) (s : State) :
    OnlyO (touched (.loadReport pkg hash)).has s (execLoadReport pkg hash s) := by
  unfold execLoadReport
  repeat' first
    | (with_reducible first | exact Only.refl _ | assumption | apply OnlyO.next | apply OnlyO.ite | apply Only.ite
                            | apply Only.takeLoadReport)
    | (refine Touch.allow_of_covers ?_; decide +kernel)

theorem Only.enableImageFns {s u : State} (hu : Only (touched .imageActivate).has s u) :
    Only (touched .imageActivate).has s (u.imageFns.foldl (fun (t : State) x => t.enableFn x.1 x.2 0 true) u) := by
  refine .foldl_mem _ (fun t x hx ht => ?_) hu
  rcases State.imageFns_fst hx with e | e | e | e | e <;> rw [e] <;> apply Only.enableFn ht <;>
    (refine Touch.allow_of_covers ?_; decide +kernel)

theorem execImageActivate_only (s : State) : OnlyO (touched .imageActivate).has s (execImageActivate s) := by
  unfold execImageActivate
  repeat' first
    | (with_reducible first | exact Only.refl _ | assumption | apply OnlyO.next | apply OnlyO.ite | apply Only.ite
                            | apply Only.handUp | apply Only.clearNoFit | apply Only.freeSc | apply Only.endChip
                            | apply Only.setPhase | apply Only.endStep | apply Only.startContexts
                            | apply Only.enableImageFns | apply Only.foldl)
    | (refine Touch.allow_of_covers ?_; decide +kernel) | exact Touch.anyReg_has rfl
    | refine Only.of_eq (by assumption) ?_ | split
    | dsimp only | intro _
    | (with_reducible apply Only.mk_same) <;>
        first | with_reducible exact .inl rfl | exact .inr (Touch.has_of_covers (by decide +kernel)) | skip

theorem execRestart_only (s : State) : OnlyO (touched .restart).has s (execRestart s) := by
  unfold execRestart
  repeat' first
    | (with_reducible first | exact Only.refl _ | assumption | apply OnlyO.next | apply OnlyO.ite | apply Only.ite
                            | apply Only.restartWrite)
    | (refine Touch.allow_of_covers ?_; decide +kernel) | exact Touch.anyReg_has rfl

theorem execRollbackCommit_only (w : Word) (s : State) :
    OnlyO (touched (.rollbackCommit w)).has s (execRollbackCommit w s) := by
  unfold execRollbackCommit
  repeat' first
    | (with_reducible first | exact Only.refl _ | assumption | apply OnlyO.next | apply OnlyO.ite | apply Only.ite
                            | apply Only.rbWrite)
    | (refine Touch.allow_of_covers ?_; decide +kernel)

theorem execRollbackCommitDone_only (s : State) :
    OnlyO (touched .rollbackCommitDone).has s (execRollbackCommitDone s) := by
  unfold execRollbackCommitDone
  repeat' first
    | (with_reducible first | exact Only.refl _ | assumption | apply OnlyO.next | apply OnlyO.ite | apply Only.ite
                            | apply Only.setF)
    | (refine Touch.allow_of_covers ?_; decide +kernel) | exact Touch.anyReg_has rfl
    | refine Only.of_eq (by assumption) ?_
    | split | dsimp only
    | (with_reducible apply Only.mk_same) <;>
        first | with_reducible exact .inl rfl | exact .inr (Touch.has_of_covers (by decide +kernel)) | skip

theorem execFlashRead_only (s : State) : OnlyO (touched .flashRead).has s (execFlashRead s) := by
  unfold execFlashRead
  repeat' first
    | (with_reducible first | exact Only.refl _ | assumption | apply OnlyO.next | apply OnlyO.ite | apply Only.ite
                            | apply Only.flGo)
    | (refine Touch.allow_of_covers ?_; decide +kernel)

theorem execFlashProgram_only (s : State) : OnlyO (touched .flashProgram).has s (execFlashProgram s) := by
  unfold execFlashProgram
  repeat' first
    | (with_reducible first | exact Only.refl _ | assumption | apply OnlyO.next | apply OnlyO.ite | apply Only.ite
                            | apply Only.flGo)
    | (refine Touch.allow_of_covers ?_; decide +kernel)

theorem execFlashErase_only (s : State) : OnlyO (touched .flashErase).has s (execFlashErase s) := by
  unfold execFlashErase
  repeat' first
    | (with_reducible first | exact Only.refl _ | assumption | apply OnlyO.next | apply OnlyO.ite | apply Only.ite
                            | apply Only.flGo)
    | (refine Touch.allow_of_covers ?_; decide +kernel)

theorem execFlashStatus_only (s : State) : OnlyO (touched .flashStatus).has s (execFlashStatus s) := by
  unfold execFlashStatus
  repeat' first
    | (with_reducible first | exact Only.refl _ | assumption | apply OnlyO.next | apply OnlyO.ite | apply Only.ite
                            | apply Only.flGo)
    | (refine Touch.allow_of_covers ?_; decide +kernel)

theorem execFlashCommandDone_only (err : Bool) (data : List Byte) (s : State) :
    OnlyO (touched (.flashCommandDone err data)).has s (execFlashCommandDone err data s) := by
  unfold execFlashCommandDone
  repeat' first
    | (with_reducible first | exact Only.refl _ | assumption | apply OnlyO.next | apply OnlyO.ite | apply Only.ite
                            | apply Only.setF | apply Only.setFlData)
    | (refine Touch.allow_of_covers ?_; decide +kernel) | exact Touch.anyReg_has rfl
    | refine Only.of_eq (by assumption) ?_
    | split | dsimp only
    | (with_reducible apply Only.mk_same) <;>
        first | with_reducible exact .inl rfl | exact .inr (Touch.has_of_covers (by decide +kernel)) | skip

theorem execDebugTokenSubmit_only (s : State) : OnlyO (touched .debugTokenSubmit).has s (execDebugTokenSubmit s) := by
  unfold execDebugTokenSubmit
  repeat' first
    | (with_reducible first | exact Only.refl _ | assumption | apply OnlyO.next | apply OnlyO.ite | apply Only.ite
                            | apply Only.submitRegs)
    | (refine Touch.allow_of_covers ?_; decide +kernel)

theorem execJtagUnlock_only (token : List Byte) (s : State) :
    OnlyO (touched (.jtagUnlock token)).has s (execJtagUnlock token s) := by
  unfold execJtagUnlock
  repeat' first
    | (with_reducible first | exact Only.refl _ | assumption | apply OnlyO.next | apply OnlyO.ite | apply Only.ite
                            | apply Only.submit)
    | (refine Touch.allow_of_covers ?_; decide +kernel) | exact Touch.anyReg_has rfl
    | refine Only.of_eq (by assumption) ?_
    | split | dsimp only
    | (with_reducible apply Only.mk_same) <;>
        first | with_reducible exact .inl rfl | exact .inr (Touch.has_of_covers (by decide +kernel)) | skip

theorem execDebugLock_only (s : State) : OnlyO (touched .debugLock).has s (execDebugLock s) := by
  unfold execDebugLock
  repeat' first
    | (with_reducible first | exact Only.refl _ | assumption | apply OnlyO.next | apply OnlyO.ite | apply Only.ite
                            | apply Only.debugLock)
    | (refine Touch.allow_of_covers ?_; decide +kernel)

theorem execDebugLifetimeExpiry_only (s : State) :
    OnlyO (touched .debugLifetimeExpiry).has s (execDebugLifetimeExpiry s) := by
  unfold execDebugLifetimeExpiry
  repeat' first
    | (with_reducible first | exact Only.refl _ | assumption | apply OnlyO.next | apply OnlyO.ite | apply Only.ite
                            | apply Only.setF | apply Only.debugLock)
    | (refine Touch.allow_of_covers ?_; decide +kernel) | exact Touch.anyReg_has rfl
    | refine Only.of_eq (by assumption) ?_
    | split | dsimp only
    | (with_reducible apply Only.mk_same) <;>
        first | with_reducible exact .inl rfl | exact .inr (Touch.has_of_covers (by decide +kernel)) | skip

theorem execBypass_only (tdi : List Bool) (s : State) : OnlyO (touched (.bypass tdi)).has s (execBypass tdi s) := by
  unfold execBypass
  repeat' first
    | (with_reducible first | exact Only.refl _ | assumption | apply OnlyO.next | apply OnlyO.ite | apply Only.ite
                            | apply Only.tapBypass)
    | (refine Touch.allow_of_covers ?_; decide +kernel)

theorem execIdcode_only (tdi : List Bool) (s : State) : OnlyO (touched (.idcode tdi)).has s (execIdcode tdi s) := by
  unfold execIdcode
  repeat' first
    | (with_reducible first | exact Only.refl _ | assumption | apply OnlyO.next | apply OnlyO.ite | apply Only.ite
                            | apply Only.tapShift)
    | (refine Touch.allow_of_covers ?_; decide +kernel)

theorem execSamplePreload_only (tdi : List Bool) (s : State) :
    OnlyO (touched (.samplePreload tdi)).has s (execSamplePreload tdi s) := by
  unfold execSamplePreload
  repeat' first
    | (with_reducible first | exact Only.refl _ | assumption | apply OnlyO.next | apply OnlyO.ite | apply Only.ite
                            | apply Only.tapScan)
    | (refine Touch.allow_of_covers ?_; decide +kernel)

theorem execExtest_only (tdi : List Bool) (s : State) : OnlyO (touched (.extest tdi)).has s (execExtest tdi s) := by
  unfold execExtest
  repeat' first
    | (with_reducible first | exact Only.refl _ | assumption | apply OnlyO.next | apply OnlyO.ite | apply Only.ite
                            | apply Only.tapScan | apply Only.tapBypass)
    | (refine Touch.allow_of_covers ?_; decide +kernel)

theorem execClamp_only (tdi : List Bool) (s : State) : OnlyO (touched (.clamp tdi)).has s (execClamp tdi s) := by
  unfold execClamp
  repeat' first
    | (with_reducible first | exact Only.refl _ | assumption | apply OnlyO.next | apply OnlyO.ite | apply Only.ite
                            | apply Only.tapBypass)
    | (refine Touch.allow_of_covers ?_; decide +kernel)

theorem execHighz_only (tdi : List Bool) (s : State) : OnlyO (touched (.highz tdi)).has s (execHighz tdi s) := by
  unfold execHighz
  repeat' first
    | (with_reducible first | exact Only.refl _ | assumption | apply OnlyO.next | apply OnlyO.ite | apply Only.ite
                            | apply Only.tapBypass)
    | (refine Touch.allow_of_covers ?_; decide +kernel)

theorem execMsBadAccess_only (c : Crown) (rd : Bool) (s : State) :
    OnlyO (touched (.msBadAccess c rd)).has s (execMsBadAccess c rd s) := by
  unfold execMsBadAccess
  repeat' first
    | (with_reducible first | exact Only.refl _ | assumption | apply OnlyO.next | apply OnlyO.ite | apply Only.ite
                            | apply Only.badAccess)
    | (refine Touch.allow_of_covers ?_; decide +kernel)

theorem execRegisterWrite_only (c : Crown) (a : Word) (w : Word) (ok : Bool) (s : State) :
    OnlyO (touched (.registerWrite c a w ok)).has s (execRegisterWrite c a w ok s) := by
  unfold execRegisterWrite
  repeat' first
    | (with_reducible first | exact Only.refl _ | assumption | apply OnlyO.next | apply OnlyO.ite | apply Only.ite
                            | apply Only.msWrite | apply Only.badAccess)
    | (refine Touch.allow_of_covers ?_; decide +kernel) | exact Touch.anyReg_has rfl

theorem execBeatLoRead_only (p : Path) (d : Die) (s : State) :
    OnlyO (touched (.beatLoRead p d)).has s (execBeatLoRead p d s) := by
  refine .next (Only.putRd (Only.deadRead_getD (.refl s) p d .bal (Only.readBeatLo (.refl s) p d ?_) ?_) _ _ ?_) <;>
    (refine Touch.allow_of_covers ?_; decide +kernel)

theorem execFunctionEnable_only (d : Die) (fn : Fn) (inst : Fin 4) (ok : Bool) (s : State) :
    OnlyO (touched (.functionEnable d fn inst ok)).has s (execFunctionEnable d fn inst ok s) := by
  unfold execFunctionEnable
  refine .ite (.next (.refl s)) (.next (Only.enableFn (.refl s) fn d inst.val ok
    ?_ ?_ ?_ ?_ ?_ ?_ ?_ ?_ ?_ ?_ (by cases fn <;> refine Touch.allow_of_covers ?_ <;> decide +kernel))) <;>
    (refine Touch.allow_append_left (Touch.allow_of_covers ?_); decide +kernel)

theorem execFunctionDisable_only (d : Die) (fn : Fn) (inst : Fin 4) (s : State) :
    OnlyO (touched (.functionDisable d fn inst)).has s (execFunctionDisable d fn inst s) := by
  unfold execFunctionDisable
  repeat' first
    | (with_reducible first | exact Only.refl _ | assumption | apply OnlyO.next | apply OnlyO.ite | apply Only.ite
                            | apply Only.disableFn)
    | (cases fn <;> refine Touch.allow_of_covers ?_ <;> decide +kernel)

theorem execBeatLoadSend_only (d : Die) (s : State) :
    OnlyO (touched (.beatLoadSend d)).has s (execBeatLoadSend d s) := by
  unfold execBeatLoadSend
  repeat' first
    | (with_reducible first | exact Only.refl _ | assumption | apply OnlyO.next | apply OnlyO.ite | apply Only.ite
                            | apply Only.sbSend)
    | (refine Touch.allow_of_covers ?_; decide +kernel) | exact Touch.anyReg_has rfl
    | refine Only.of_eq (by assumption) ?_ | split

theorem execBeatLoad_only (e : LinkEnd) (r : SbSlot) (s : State) :
    OnlyO (touched (.beatLoad e r)).has s (execBeatLoad e r s) := by
  unfold execBeatLoad
  repeat' first
    | (with_reducible first | exact Only.refl _ | assumption | apply OnlyO.next | apply OnlyO.ite | apply Only.ite
                            | apply Only.sbTakesFirst | apply Only.takeLoad)
    | (refine Touch.allow_of_covers ?_; decide +kernel) | exact Touch.anyReg_has rfl
    | refine Only.of_eq (by assumption) ?_ | split

theorem execBeatSyncAttempt_only (n : Fin 8) (s : State) :
    OnlyO (touched (.beatSyncAttempt n)).has s (execBeatSyncAttempt n s) := by
  unfold execBeatSyncAttempt
  repeat' first
    | (with_reducible first | exact Only.refl _ | assumption | apply OnlyO.next | apply OnlyO.ite | apply Only.ite
                            | apply Only.sbSend | apply Only.setLink)
    | (refine Touch.allow_of_covers ?_; decide +kernel)

theorem execBeatSyncReq_only (n : Fin 8) (r : SbSlot) (s : State) :
    OnlyO (touched (.beatSyncReq n r)).has s (execBeatSyncReq n r s) := by
  unfold execBeatSyncReq
  repeat' first
    | (with_reducible first | exact Only.refl _ | assumption | apply OnlyO.next | apply OnlyO.ite | apply Only.ite
                            | apply Only.sbTakes | apply Only.sbSend)
    | (refine Touch.allow_of_covers ?_; decide +kernel) | exact Touch.anyReg_has rfl
    | refine Only.of_eq (by assumption) ?_ | split

theorem execBeatSyncResp_only (n : Fin 8) (r : SbSlot) (stamp : Fin 32) (err : Int) (s : State) :
    OnlyO (touched (.beatSyncResp n r stamp err)).has s (execBeatSyncResp n r stamp err s) := by
  unfold execBeatSyncResp
  repeat' first
    | (with_reducible first | exact Only.refl _ | assumption | apply OnlyO.next | apply OnlyO.ite | apply Only.ite
                            | apply Only.sbTakes | apply Only.syncDone)
    | (refine Touch.allow_of_covers ?_; decide +kernel) | exact Touch.anyReg_has rfl
    | refine Only.of_eq (by assumption) ?_
    | split | dsimp only

theorem execBeatSyncTimeout_only (n : Fin 8) (s : State) :
    OnlyO (touched (.beatSyncTimeout n)).has s (execBeatSyncTimeout n s) := by
  unfold execBeatSyncTimeout
  repeat' first
    | (with_reducible first | exact Only.refl _ | assumption | apply OnlyO.next | apply OnlyO.ite | apply Only.ite
                            | apply Only.setLink | apply Only.linkReturn)
    | (refine Touch.allow_of_covers ?_; decide +kernel)

theorem execSyncPortLoss_only (s : State) : OnlyO (touched .syncPortLoss).has s (execSyncPortLoss s) := by
  unfold execSyncPortLoss
  repeat' first
    | (with_reducible first | exact Only.refl _ | assumption | apply OnlyO.next | apply OnlyO.ite | apply Only.ite
                            | apply Only.pickSyncPort)
    | (refine Touch.allow_of_covers ?_; decide +kernel) | exact Touch.anyReg_has rfl
    | refine Only.of_eq (by assumption) ?_
    | split | dsimp only
    | (with_reducible apply Only.mk_same) <;>
        first | with_reducible exact .inl rfl | exact .inr (Touch.has_of_covers (by decide +kernel)) | skip

theorem execSyncHoldoverExpiry_only (s : State) :
    OnlyO (touched .syncHoldoverExpiry).has s (execSyncHoldoverExpiry s) := by
  unfold execSyncHoldoverExpiry
  repeat' first
    | (with_reducible first | exact Only.refl _ | assumption | apply OnlyO.next | apply OnlyO.ite | apply Only.ite
                            | apply Only.syncLost)
    | (refine Touch.allow_of_covers ?_; decide +kernel) | exact Touch.anyReg_has rfl
    | refine Only.of_eq (by assumption) ?_
    | split | dsimp only
    | (with_reducible apply Only.mk_same) <;>
        first | with_reducible exact .inl rfl | exact .inr (Touch.has_of_covers (by decide +kernel)) | skip

theorem execServoMapUpdate_only (s : State) : OnlyO (touched .servoMapUpdate).has s (execServoMapUpdate s) := by
  unfold execServoMapUpdate
  repeat' first
    | (with_reducible first | exact Only.refl _ | assumption | apply OnlyO.next | apply OnlyO.ite | apply Only.ite
                            | apply Only.setCr0Map)
    | (refine Touch.allow_of_covers ?_; decide +kernel) | exact Touch.anyReg_has rfl
    | refine Only.of_eq (by assumption) ?_
    | split | dsimp only
    | (with_reducible apply Only.mk_same) <;>
        first | with_reducible exact .inl rfl | exact .inr (Touch.has_of_covers (by decide +kernel)) | skip

theorem execTaiMapSend_only (e : LinkEnd) (s : State) : OnlyO (touched (.taiMapSend e)).has s (execTaiMapSend e s) := by
  unfold execTaiMapSend
  repeat' first
    | (with_reducible first | exact Only.refl _ | assumption | apply OnlyO.next | apply OnlyO.ite | apply Only.ite
                            | apply Only.sbSend)
    | (refine Touch.allow_of_covers ?_; decide +kernel)

theorem execTaiMapApply_only (d : Die) (s : State) : OnlyO (touched (.taiMapApply d)).has s (execTaiMapApply d s) := by
  unfold execTaiMapApply
  repeat' first
    | (with_reducible first | exact Only.refl _ | assumption | apply OnlyO.next | apply OnlyO.ite | apply Only.ite
                            | apply Only.setDie | apply Only.setCr0Map | apply Only.setTaiFlags)
    | (refine Touch.allow_of_covers ?_; decide +kernel) | exact Touch.anyReg_has rfl
    | refine Only.of_eq (by assumption) ?_
    | split | dsimp only

theorem execHackStart_only (s : State) : OnlyO (touched .hackStart).has s (execHackStart s) := by
  unfold execHackStart
  repeat' first
    | (with_reducible first | exact Only.refl _ | assumption | apply OnlyO.next | apply OnlyO.ite | apply Only.ite
                            | apply Only.showHack | apply Only.applyMember | apply Only.foldl)
    | (refine Touch.allow_of_covers ?_; decide +kernel) | exact Touch.anyReg_has rfl
    | refine Only.of_eq (by assumption) ?_ | split
    | dsimp only | intro _
    | (with_reducible apply Only.mk_same) <;>
        first | with_reducible exact .inl rfl | exact .inr (Touch.has_of_covers (by decide +kernel)) | skip

theorem execHackEnd_only (s : State) : OnlyO (touched .hackEnd).has s (execHackEnd s) := by
  unfold execHackEnd
  repeat' first
    | (with_reducible first | exact Only.refl _ | assumption | apply OnlyO.next | apply OnlyO.ite | apply Only.ite
                            | apply Only.showHack | apply Only.newDepth | apply Only.bumpF | apply Only.foldl)
    | (refine Touch.allow_of_covers ?_; decide +kernel) | exact Touch.anyReg_has rfl
    | refine Only.of_eq (by assumption) ?_ | split
    | dsimp only | intro _
    | (with_reducible apply Only.mk_same) <;>
        first | with_reducible exact .inl rfl | exact .inr (Touch.has_of_covers (by decide +kernel)) | skip

theorem execCdcStale_only (d : Die) (kind : Fin 5) (blk : Nat) (inst : Nat) (s : State) :
    OnlyO (touched (.cdcStale d kind blk inst)).has s (execCdcStale d kind blk inst s) := by
  unfold execCdcStale
  repeat' first
    | (with_reducible first | exact Only.refl _ | assumption | apply OnlyO.next | apply OnlyO.ite | apply Only.ite
                            | apply Only.setDie | apply Only.setF | apply Only.bumpF)
    | (refine Touch.allow_of_covers ?_; decide +kernel)

theorem execCdcStaleTurnExpiry_only (d : Die) (accepted : List (Fin 5 × Nat × Nat)) (s : State) :
    OnlyO (touched (.cdcStaleTurnExpiry d accepted)).has s (execCdcStaleTurnExpiry d accepted s) := by
  unfold execCdcStaleTurnExpiry
  refine .next (.foldl _ (fun t c ht => ?_) (.foldl _ (fun u c hu => ?_) (.refl s)))
  case refine_1 =>
    dsimp only
    split
    case h_1 =>
      refine .ite (ht.linkReturn _ _ _ _ ?_ ?_ ?_ ?_ ?_ ?_) ht <;> (refine Touch.allow_of_covers ?_; decide +kernel)
    case h_2 => refine (ht.setPow _ _ ?_).setThrot _ _ ?_ ?_ <;> (refine Touch.allow_of_covers ?_; decide +kernel)
    case h_3 =>
      refine .ite ht ((((ht.setPow _ _ ?_).setF _ _ _ _ _ _ ?_).setF _ _ _ _ _ _ ?_).log _ _ _ _ _ _ ?_ ?_) <;>
        (refine Touch.allow_of_covers ?_; decide +kernel)
    case h_4 => exact ht
  case refine_2 => refine (hu.crossed _ _ _ _ ?_).endStale _ _ ?_ <;> (refine Touch.allow_of_covers ?_; decide +kernel)

theorem execPtrReq_only (e : LinkEnd) (r : SbSlot) (s : State) :
    OnlyO (touched (.ptrReq e r)).has s (execPtrReq e r s) := by
  unfold execPtrReq
  repeat' first
    | (with_reducible first | exact Only.refl _ | assumption | apply OnlyO.next | apply OnlyO.ite | apply Only.ite
                            | apply Only.sbTakes | apply Only.setLink)
    | (refine Touch.allow_of_covers ?_; decide +kernel) | exact Touch.anyReg_has rfl
    | refine Only.of_eq (by assumption) ?_ | split

theorem execPtrResp_only (e : LinkEnd) (r : SbSlot) (s : State) :
    OnlyO (touched (.ptrResp e r)).has s (execPtrResp e r s) := by
  unfold execPtrResp
  repeat' first
    | (with_reducible first | exact Only.refl _ | assumption | apply OnlyO.next | apply OnlyO.ite | apply Only.ite
                            | apply Only.sbTakes | apply Only.setLink)
    | (refine Touch.allow_of_covers ?_; decide +kernel) | exact Touch.anyReg_has rfl
    | refine Only.of_eq (by assumption) ?_ | split

theorem execPointerSet_only (e : LinkEnd) (s : State) : OnlyO (touched (.pointerSet e)).has s (execPointerSet e s) := by
  unfold execPointerSet
  repeat' first
    | (with_reducible first | exact Only.refl _ | assumption | apply OnlyO.next | apply OnlyO.ite | apply Only.ite
                            | apply Only.setLink | apply Only.toSt)
    | (refine Touch.allow_of_covers ?_; decide +kernel)

theorem execPtrHandshakeTimeout_only (e : LinkEnd) (s : State) :
    OnlyO (touched (.ptrHandshakeTimeout e)).has s (execPtrHandshakeTimeout e s) := by
  unfold execPtrHandshakeTimeout
  repeat' first
    | (with_reducible first | exact Only.refl _ | assumption | apply OnlyO.next | apply OnlyO.ite | apply Only.ite
                            | apply Only.setLink | apply Only.linkReturn)
    | (refine Touch.allow_of_covers ?_; decide +kernel)

theorem execFpResetReq_only (e : LinkEnd) (r : SbSlot) (s : State) :
    OnlyO (touched (.fpResetReq e r)).has s (execFpResetReq e r s) := by
  unfold execFpResetReq
  repeat' first
    | (with_reducible first | exact Only.refl _ | assumption | apply OnlyO.next | apply OnlyO.ite | apply Only.ite
                            | apply Only.sbTakesFirst | apply Only.assertFp | apply Only.sbSend)
    | (refine Touch.allow_of_covers ?_; decide +kernel) | exact Touch.anyReg_has rfl
    | refine Only.of_eq (by assumption) ?_ | split

theorem execFpJointResetRelease_only (f : Fin 4) (s : State) :
    OnlyO (touched (.fpJointResetRelease f)).has s (execFpJointResetRelease f s) := by
  unfold execFpJointResetRelease
  repeat' first
    | (with_reducible first | exact Only.refl _ | assumption | apply OnlyO.next | apply OnlyO.ite | apply Only.ite
                            | apply Only.fpFree)
    | (refine Touch.allow_of_covers ?_; decide +kernel) | exact Touch.anyReg_has rfl
    | refine Only.of_eq (by assumption) ?_
    | split | dsimp only
    | (with_reducible apply Only.mk_same) <;>
        first | with_reducible exact .inl rfl | exact .inr (Touch.has_of_covers (by decide +kernel)) | skip

theorem execResetRetry_only (e : LinkEnd) (s : State) : OnlyO (touched (.resetRetry e)).has s (execResetRetry e s) := by
  unfold execResetRetry
  repeat' first
    | (with_reducible first | exact Only.refl _ | assumption | apply OnlyO.next | apply OnlyO.ite | apply Only.ite
                            | apply Only.enterCalib)
    | (refine Touch.allow_of_covers ?_; decide +kernel)

theorem execTrainingTimeout_only (e : LinkEnd) (s : State) :
    OnlyO (touched (.trainingTimeout e)).has s (execTrainingTimeout e s) := by
  unfold execTrainingTimeout
  repeat' first
    | (with_reducible first | exact Only.refl _ | assumption | apply OnlyO.next | apply OnlyO.ite | apply Only.ite
                            | apply Only.linkReturn)
    | (refine Touch.allow_of_covers ?_; decide +kernel)

theorem execSearchPointEnd_only (e : LinkEnd) (b : Fin 16) (bits : List (List Bool)) (eyes taps snr : List Nat)
    (s : State) :
    OnlyO (touched (.searchPointEnd e b bits eyes taps snr)).has s (execSearchPointEnd e b bits eyes taps snr s) := by
  unfold execSearchPointEnd
  repeat' first
    | (with_reducible first | exact Only.refl _ | assumption | apply OnlyO.next | apply OnlyO.ite | apply Only.ite
                            | apply Only.trayCal | apply Only.compliance | apply Only.pointEnd)
    | (refine Touch.allow_of_covers ?_; decide +kernel)

theorem execCkCountCheck_only (e : LinkEnd) (counts : List Nat) (s : State) :
    OnlyO (touched (.ckCountCheck e counts)).has s (execCkCountCheck e counts s) := by
  unfold execCkCountCheck
  repeat' first
    | (with_reducible first | exact Only.refl _ | assumption | apply OnlyO.next | apply OnlyO.ite | apply Only.ite
                            | apply Only.showCk | apply Only.noteCk | apply Only.ckCalib | apply Only.ckService)
    | (refine Touch.allow_of_covers ?_; decide +kernel)

theorem execLanetestEnd_only (e : LinkEnd) (bits : List (List (List Bool))) (s : State) :
    OnlyO (touched (.lanetestEnd e bits)).has s (execLanetestEnd e bits s) := by
  unfold execLanetestEnd
  repeat' first
    | (with_reducible first | exact Only.refl _ | assumption | apply OnlyO.next | apply OnlyO.ite | apply Only.ite
                            | apply Only.compliance | apply Only.testEnd | apply Only.setLink | apply Only.foldl)
    | (refine Touch.allow_of_covers ?_; decide +kernel) | exact Touch.anyReg_has rfl
    | refine Only.of_eq (by assumption) ?_ | split
    | dsimp only | intro _

theorem execLanetestExit_only (e : LinkEnd) (s : State) :
    OnlyO (touched (.lanetestExit e)).has s (execLanetestExit e s) := by
  unfold execLanetestExit
  repeat' first
    | (with_reducible first | exact Only.refl _ | assumption | apply OnlyO.next | apply OnlyO.ite | apply Only.ite
                            | apply Only.computeMap | apply Only.toSt | apply Only.setF | apply Only.foldl)
    | (refine Touch.allow_of_covers ?_; decide +kernel) | exact Touch.anyReg_has rfl
    | refine Only.of_eq (by assumption) ?_ | split
    | dsimp only | intro _

theorem execLanemap_only (e : LinkEnd) (r : SbSlot) (s : State) :
    OnlyO (touched (.lanemap e r)).has s (execLanemap e r s) := by
  unfold execLanemap
  repeat' first
    | (with_reducible first | exact Only.refl _ | assumption | apply OnlyO.next | apply OnlyO.ite | apply Only.ite
                            | apply Only.sbTakesFirst | apply Only.setBun)
    | (refine Touch.allow_of_covers ?_; decide +kernel) | exact Touch.anyReg_has rfl
    | refine Only.of_eq (by assumption) ?_ | split

theorem execLanemapApply_only (e : LinkEnd) (s : State) :
    OnlyO (touched (.lanemapApply e)).has s (execLanemapApply e s) := by
  unfold execLanemapApply
  repeat' first
    | (with_reducible first | exact Only.refl _ | assumption | apply OnlyO.next | apply OnlyO.ite | apply Only.ite
                            | apply Only.applyMaps | apply Only.enterPin | apply Only.foldl)
    | (refine Touch.allow_of_covers ?_; decide +kernel) | exact Touch.anyReg_has rfl
    | refine Only.of_eq (by assumption) ?_ | split
    | dsimp only | intro _

theorem execFrameMarker_only (e : LinkEnd) (unit : Fin 16) (seg : Nat) (s : State) :
    OnlyO (touched (.frameMarker e unit seg)).has s (execFrameMarker e unit seg s) := by
  unfold execFrameMarker
  repeat' first
    | (with_reducible first | exact Only.refl _ | assumption | apply OnlyO.next | apply OnlyO.ite | apply Only.ite
                            | apply Only.trayMarker | apply Only.iklMarker)
    | (refine Touch.allow_of_covers ?_; decide +kernel) | exact Touch.anyReg_has rfl
    | refine Only.of_eq (by assumption) ?_ | split

theorem execSidebandContainer_only (e : LinkEnd) (r : SbSlot) (s : State) :
    OnlyO (touched (.sidebandContainer e r)).has s (execSidebandContainer e r s) := by
  unfold execSidebandContainer
  repeat' first
    | (with_reducible first | exact Only.refl _ | assumption | apply OnlyO.next | apply OnlyO.ite | apply Only.ite
                            | apply Only.sbReceive | apply Only.takeHeartbeat | apply Only.takeBudget
                            | apply Only.takeTaiMap)
    | (refine Touch.allow_of_covers ?_; decide +kernel) | exact Touch.anyReg_has rfl
    | refine Only.of_eq (by assumption) ?_ | split

theorem execSidebandSlotTransmit_only (e : LinkEnd) (s : State) :
    OnlyO (touched (.sidebandSlotTransmit e)).has s (execSidebandSlotTransmit e s) := by
  unfold execSidebandSlotTransmit
  repeat' first
    | (with_reducible first | exact Only.refl _ | assumption | apply OnlyO.next | apply OnlyO.ite | apply Only.ite
                            | apply Only.sendMarkers | apply Only.sendBox | apply Only.clearNaks | apply Only.ptrDue
                            | apply Only.sbSendSlot)
    | (refine Touch.allow_of_covers ?_; decide +kernel) | exact Touch.anyReg_has rfl
    | refine Only.of_eq (by assumption) ?_
    | split | dsimp only

theorem execSbAck_only (e : LinkEnd) (r : SbSlot) (s : State) :
    OnlyO (touched (.sbAck e r)).has s (execSbAck e r s) := by
  unfold execSbAck
  repeat' first
    | (with_reducible first | exact Only.refl _ | assumption | apply OnlyO.next | apply OnlyO.ite | apply Only.ite
                            | apply Only.sbTakes | apply Only.setLink | apply Only.ackEffect)
    | (refine Touch.allow_of_covers ?_; decide +kernel) | exact Touch.anyReg_has rfl
    | refine Only.of_eq (by assumption) ?_
    | split | dsimp only

theorem execSbMessageRepeat_only (e : LinkEnd) (s : State) :
    OnlyO (touched (.sbMessageRepeat e)).has s (execSbMessageRepeat e s) := by
  unfold execSbMessageRepeat
  repeat' first
    | (with_reducible first | exact Only.refl _ | assumption | apply OnlyO.next | apply OnlyO.ite | apply Only.ite
                            | apply Only.setLink | apply Only.bumpLf | apply Only.foldl)
    | (refine Touch.allow_of_covers ?_; decide +kernel) | exact Touch.anyReg_has rfl
    | refine Only.of_eq (by assumption) ?_ | split
    | dsimp only | intro _

theorem execSbAckTimeout_only (e : LinkEnd) (s : State) :
    OnlyO (touched (.sbAckTimeout e)).has s (execSbAckTimeout e s) := by
  unfold execSbAckTimeout
  repeat' first
    | (with_reducible first | exact Only.refl _ | assumption | apply OnlyO.next | apply OnlyO.ite | apply Only.ite
                            | apply Only.linkReturn)
    | (refine Touch.allow_of_covers ?_; decide +kernel)

theorem execBundleRetire_only (e : LinkEnd) (r : SbSlot) (s : State) :
    OnlyO (touched (.bundleRetire e r)).has s (execBundleRetire e r s) := by
  unfold execBundleRetire
  repeat' first
    | (with_reducible first | exact Only.refl _ | assumption | apply OnlyO.next | apply OnlyO.ite | apply Only.ite
                            | apply Only.sbTakesFirst | apply Only.quiesce | apply Only.stopNext)
    | (refine Touch.allow_of_covers ?_; decide +kernel) | exact Touch.anyReg_has rfl
    | refine Only.of_eq (by assumption) ?_ | split

theorem execBundleTxStop_only (e : LinkEnd) (b : Fin 16) (s : State) :
    OnlyO (touched (.bundleTxStop e b)).has s (execBundleTxStop e b s) := by
  unfold execBundleTxStop
  repeat' first
    | (with_reducible first | exact Only.refl _ | assumption | apply OnlyO.next | apply OnlyO.ite | apply Only.ite
                            | apply Only.quiesce | apply Only.markRetired)
    | (refine Touch.allow_of_covers ?_; decide +kernel) | exact Touch.anyReg_has rfl
    | refine Only.of_eq (by assumption) ?_ | split

theorem execPinProbe_only (e : LinkEnd) (r : SbSlot) (s : State) :
    OnlyO (touched (.pinProbe e r)).has s (execPinProbe e r s) := by
  unfold execPinProbe
  repeat' first
    | (with_reducible first | exact Only.refl _ | assumption | apply OnlyO.next | apply OnlyO.ite | apply Only.ite
                            | apply Only.sbTakes | apply Only.sbSend)
    | (refine Touch.allow_of_covers ?_; decide +kernel) | exact Touch.anyReg_has rfl
    | refine Only.of_eq (by assumption) ?_ | split

theorem execPinEcho_only (e : LinkEnd) (r : SbSlot) (arrivals : List Nat) (s : State) :
    OnlyO (touched (.pinEcho e r arrivals)).has s (execPinEcho e r arrivals s) := by
  unfold execPinEcho
  repeat' first
    | (with_reducible first | exact Only.refl _ | assumption | apply OnlyO.next | apply OnlyO.ite | apply Only.ite
                            | apply Only.sbTakes | apply Only.setPins)
    | (refine Touch.allow_of_covers ?_; decide +kernel) | exact Touch.anyReg_has rfl
    | refine Only.of_eq (by assumption) ?_ | split

theorem execFlitReceive_only (e : LinkEnd) (b : Fin 16) (lanes : List Nat) (s : State) :
    OnlyO (touched (.flitReceive e b lanes)).has s (execFlitReceive e b lanes s) := by
  unfold execFlitReceive
  repeat' first
    | (with_reducible first | exact Only.refl _ | assumption | apply OnlyO.next | apply OnlyO.ite | apply Only.ite
                            | apply Only.takeCal | apply Only.decodeFlit | apply Only.takeSlotFlit)
    | (refine Touch.allow_of_covers ?_; decide +kernel) | exact Touch.anyReg_has rfl
    | refine Only.of_eq (by assumption) ?_
    | split | dsimp only

theorem execLaneNoTransition_only (e : LinkEnd) (b : Fin 16) (lane : Fin 21) (ui : Nat) (s : State) :
    OnlyO (touched (.laneNoTransition e b lane ui)).has s (execLaneNoTransition e b lane ui s) := by
  unfold execLaneNoTransition
  repeat' first
    | (with_reducible first | exact Only.refl _ | assumption | apply OnlyO.next | apply OnlyO.ite | apply Only.ite
                            | apply Only.failLane)
    | (refine Touch.allow_of_covers ?_; decide +kernel)

theorem execErrWindowRoll_only (e : LinkEnd) (s : State) :
    OnlyO (touched (.errWindowRoll e)).has s (execErrWindowRoll e s) := by
  unfold execErrWindowRoll
  repeat' first
    | (with_reducible first | exact Only.refl _ | assumption | apply OnlyO.next | apply OnlyO.ite | apply Only.ite
                            | apply Only.setF | apply Only.foldl)
    | (refine Touch.allow_of_covers ?_; decide +kernel) | exact Touch.anyReg_has rfl
    | refine Only.of_eq (by assumption) ?_ | split
    | dsimp only | intro _

theorem execLaneRepair_only (e : LinkEnd) (r : SbSlot) (s : State) :
    OnlyO (touched (.laneRepair e r)).has s (execLaneRepair e r s) := by
  unfold execLaneRepair
  repeat' first
    | (with_reducible first | exact Only.refl _ | assumption | apply OnlyO.next | apply OnlyO.ite | apply Only.ite
                            | apply Only.sbTakesFirst | apply Only.setBun)
    | (refine Touch.allow_of_covers ?_; decide +kernel) | exact Touch.anyReg_has rfl
    | refine Only.of_eq (by assumption) ?_ | split

theorem execJewelStreamStart_only (e : LinkEnd) (b : Fin 16) (s : State) :
    OnlyO (touched (.jewelStreamStart e b)).has s (execJewelStreamStart e b s) := by
  unfold execJewelStreamStart
  repeat' first
    | (with_reducible first | exact Only.refl _ | assumption | apply OnlyO.next | apply OnlyO.ite | apply Only.ite
                            | apply Only.setBun)
    | (refine Touch.allow_of_covers ?_; decide +kernel)

theorem execLaneRepairTakeover_only (e : LinkEnd) (b : Fin 16) (s : State) :
    OnlyO (touched (.laneRepairTakeover e b)).has s (execLaneRepairTakeover e b s) := by
  unfold execLaneRepairTakeover
  repeat' first
    | (with_reducible first | exact Only.refl _ | assumption | apply OnlyO.next | apply OnlyO.ite | apply Only.ite
                            | apply Only.takeover | apply Only.foldl)
    | (refine Touch.allow_of_covers ?_; decide +kernel) | exact Touch.anyReg_has rfl
    | refine Only.of_eq (by assumption) ?_ | split
    | dsimp only | intro _

theorem execLaneRepairTxCutover_only (e : LinkEnd) (b : Fin 16) (s : State) :
    OnlyO (touched (.laneRepairTxCutover e b)).has s (execLaneRepairTxCutover e b s) := by
  unfold execLaneRepairTxCutover
  repeat' first
    | (with_reducible first | exact Only.refl _ | assumption | apply OnlyO.next | apply OnlyO.ite | apply Only.ite
                            | apply Only.setTxMap | apply Only.setBun | apply Only.foldl)
    | (refine Touch.allow_of_covers ?_; decide +kernel) | exact Touch.anyReg_has rfl
    | refine Only.of_eq (by assumption) ?_ | split
    | dsimp only | intro _

theorem execJewelRecentre_only (e : LinkEnd) (b : Fin 16) (jewel : Fin 2) (delay : Fin 3) (thresh : Fin 3)
    (bits : List Bool) (s : State) :
    OnlyO (touched (.jewelRecentre e b jewel delay thresh bits)).has s
      (execJewelRecentre e b jewel delay thresh bits s) := by
  unfold execJewelRecentre
  repeat' first
    | (with_reducible first | exact Only.refl _ | assumption | apply OnlyO.next | apply OnlyO.ite | apply Only.ite
                            | apply Only.setTap | apply Only.countLane)
    | (refine Touch.allow_of_covers ?_; decide +kernel)

theorem execRecalGo_only (e : LinkEnd) (s : State) : OnlyO (touched (.recalGo e)).has s (execRecalGo e s) := by
  unfold execRecalGo
  repeat' first
    | (with_reducible first | exact Only.refl _ | assumption | apply OnlyO.next | apply OnlyO.ite | apply Only.ite
                            | apply Only.recalGo)
    | (refine Touch.allow_of_covers ?_; decide +kernel)

theorem execRecalArm_only (e : LinkEnd) (r : SbSlot) (s : State) :
    OnlyO (touched (.recalArm e r)).has s (execRecalArm e r s) := by
  unfold execRecalArm
  repeat' first
    | (with_reducible first | exact Only.refl _ | assumption | apply OnlyO.next | apply OnlyO.ite | apply Only.ite
                            | apply Only.sbTakesFirst | apply Only.setBun)
    | (refine Touch.allow_of_covers ?_; decide +kernel) | exact Touch.anyReg_has rfl
    | refine Only.of_eq (by assumption) ?_ | split

theorem execRecalArmDeadline_only (e : LinkEnd) (s : State) :
    OnlyO (touched (.recalArmDeadline e)).has s (execRecalArmDeadline e s) := by
  unfold execRecalArmDeadline
  repeat' first
    | (with_reducible first | exact Only.refl _ | assumption | apply OnlyO.next | apply OnlyO.ite | apply Only.ite
                            | apply Only.dropRecal | apply Only.refuse)
    | (refine Touch.allow_of_covers ?_; decide +kernel) | exact Touch.anyReg_has rfl
    | refine Only.of_eq (by assumption) ?_ | split

theorem execRecalStart_only (e : LinkEnd) (s : State) : OnlyO (touched (.recalStart e)).has s (execRecalStart e s) := by
  unfold execRecalStart
  repeat' first
    | (with_reducible first | exact Only.refl _ | assumption | apply OnlyO.next | apply OnlyO.ite | apply Only.ite
                            | apply Only.dropRecal | apply Only.refuse | apply Only.logLink | apply Only.recalOut
                            | apply Only.setRecal | apply Only.showRecal | apply Only.lossAll | apply Only.foldl)
    | (refine Touch.allow_of_covers ?_; decide +kernel) | exact Touch.anyReg_has rfl
    | refine Only.of_eq (by assumption) ?_ | split
    | dsimp only | intro _

theorem execRecalLanetestStart_only (e : LinkEnd) (s : State) :
    OnlyO (touched (.recalLanetestStart e)).has s (execRecalLanetestStart e s) := by
  unfold execRecalLanetestStart
  repeat' first
    | (with_reducible first | exact Only.refl _ | assumption | apply OnlyO.next | apply OnlyO.ite | apply Only.ite
                            | apply Only.setRecal)
    | (refine Touch.allow_of_covers ?_; decide +kernel) | exact Touch.anyReg_has rfl
    | refine Only.of_eq (by assumption) ?_ | split

theorem execRecalReturnMission_only (e : LinkEnd) (near : List (List Bool)) (far : List (List Bool)) (s : State) :
    OnlyO (touched (.recalReturnMission e near far)).has s (execRecalReturnMission e near far s) := by
  unfold execRecalReturnMission
  repeat' first
    | (with_reducible first | exact Only.refl _ | assumption | apply OnlyO.next | apply OnlyO.ite | apply Only.ite
                            | apply Only.setRecal | apply Only.failLanes)
    | (refine Touch.allow_of_covers ?_; decide +kernel) | exact Touch.anyReg_has rfl
    | refine Only.of_eq (by assumption) ?_ | split

theorem execRecalEnd_only (e : LinkEnd) (near : BitVec 21) (far : BitVec 21) (s : State) :
    OnlyO (touched (.recalEnd e near far)).has s (execRecalEnd e near far s) := by
  unfold execRecalEnd
  repeat' first
    | (with_reducible first | exact Only.refl _ | assumption | apply OnlyO.next | apply OnlyO.ite | apply Only.ite
                            | apply Only.failLanes | apply Only.recalIn | apply Only.returnToken
                            | apply Only.setRecal | apply Only.showRecal | apply Only.lossAll | apply Only.foldl)
    | (refine Touch.allow_of_covers ?_; decide +kernel) | exact Touch.anyReg_has rfl
    | refine Only.of_eq (by assumption) ?_ | split
    | dsimp only | intro _

theorem execScNak_only (e : LinkEnd) (r : SbSlot) (s : State) :
    OnlyO (touched (.scNak e r)).has s (execScNak e r s) := by
  unfold execScNak
  repeat' first
    | (with_reducible first | exact Only.refl _ | assumption | apply OnlyO.next | apply OnlyO.ite | apply Only.ite
                            | apply Only.sbTakes | apply Only.setLink)
    | (refine Touch.allow_of_covers ?_; decide +kernel) | exact Touch.anyReg_has rfl
    | refine Only.of_eq (by assumption) ?_
    | split | dsimp only

theorem execSlotTransmit_only (e : LinkEnd) (b : Fin 16) (s : State) :
    OnlyO (touched (.slotTransmit e b)).has s (execSlotTransmit e b s) := by
  unfold execSlotTransmit
  repeat' first
    | (with_reducible first | exact Only.refl _ | assumption | apply OnlyO.next | apply OnlyO.ite | apply Only.ite
                            | apply Only.setBun | apply Only.sendSc | apply Only.sendRepair | apply Only.sendUcSlot
                            | apply Only.sendNull)
    | (refine Touch.allow_of_covers ?_; decide +kernel) | exact Touch.anyReg_has rfl
    | refine Only.of_eq (by assumption) ?_
    | split | dsimp only

theorem execScHoldExpiry_only (e : LinkEnd) (s : State) :
    OnlyO (touched (.scHoldExpiry e)).has s (execScHoldExpiry e s) := by
  unfold execScHoldExpiry
  repeat' first
    | (with_reducible first | exact Only.refl _ | assumption | apply OnlyO.next | apply OnlyO.ite | apply Only.ite
                            | apply Only.setLink)
    | (refine Touch.allow_of_covers ?_; decide +kernel)

theorem execScResendDeadline_only (e : LinkEnd) (s : State) :
    OnlyO (touched (.scResendDeadline e)).has s (execScResendDeadline e s) := by
  unfold execScResendDeadline
  repeat' first
    | (with_reducible first | exact Only.refl _ | assumption | apply OnlyO.next | apply OnlyO.ite | apply Only.ite
                            | apply Only.setLink | apply Only.scFail | apply Only.foldl)
    | (refine Touch.allow_of_covers ?_; decide +kernel) | exact Touch.anyReg_has rfl
    | refine Only.of_eq (by assumption) ?_ | split
    | dsimp only | intro _

theorem execScLostBundleReport_only (e : LinkEnd) (s : State) :
    OnlyO (touched (.scLostBundleReport e)).has s (execScLostBundleReport e s) := by
  unfold execScLostBundleReport
  repeat' first
    | (with_reducible first | exact Only.refl _ | assumption | apply OnlyO.next | apply OnlyO.ite | apply Only.ite
                            | apply Only.setLink | apply Only.setPoison | apply Only.scFail | apply Only.foldl)
    | (refine Touch.allow_of_covers ?_; decide +kernel) | exact Touch.anyReg_has rfl
    | refine Only.of_eq (by assumption) ?_ | split
    | dsimp only | intro _

theorem execUcAck_only (e : LinkEnd) (r : SbSlot) (s : State) :
    OnlyO (touched (.ucAck e r)).has s (execUcAck e r s) := by
  unfold execUcAck
  repeat' first
    | (with_reducible first | exact Only.refl _ | assumption | apply OnlyO.next | apply OnlyO.ite | apply Only.ite
                            | apply Only.sbTakes | apply Only.takeAckOf | apply Only.foldl)
    | (refine Touch.allow_of_covers ?_; decide +kernel) | exact Touch.anyReg_has rfl
    | refine Only.of_eq (by assumption) ?_ | split
    | dsimp only | intro _

theorem execCredit_only (e : LinkEnd) (r : SbSlot) (s : State) :
    OnlyO (touched (.credit e r)).has s (execCredit e r s) := by
  unfold execCredit
  repeat' first
    | (with_reducible first | exact Only.refl _ | assumption | apply OnlyO.next | apply OnlyO.ite | apply Only.ite
                            | apply Only.sbTakes | apply Only.setLink | apply Only.foldl)
    | (refine Touch.allow_of_covers ?_; decide +kernel) | exact Touch.anyReg_has rfl
    | refine Only.of_eq (by assumption) ?_ | split

theorem execUcReplayTimeout_only (e : LinkEnd) (b : Fin 16) (s : State) :
    OnlyO (touched (.ucReplayTimeout e b)).has s (execUcReplayTimeout e b s) := by
  unfold execUcReplayTimeout
  repeat' first
    | (with_reducible first | exact Only.refl _ | assumption | apply OnlyO.next | apply OnlyO.ite | apply Only.ite
                            | apply Only.startReplay)
    | (refine Touch.allow_of_covers ?_; decide +kernel)

theorem execUcRequeue_only (e : LinkEnd) (s : State) : OnlyO (touched (.ucRequeue e)).has s (execUcRequeue e s) := by
  unfold execUcRequeue
  repeat' first
    | (with_reducible first | exact Only.refl _ | assumption | apply OnlyO.next | apply OnlyO.ite | apply Only.ite
                            | apply Only.setLink | apply Only.setLf | apply Only.foldl)
    | (refine Touch.allow_of_covers ?_; decide +kernel)

theorem execVariantSelect_only (d : Die) (s : State) :
    OnlyO (touched (.variantSelect d)).has s (execVariantSelect d s) := by
  unfold execVariantSelect
  repeat' first
    | (with_reducible first | exact Only.refl _ | assumption | apply OnlyO.next | apply OnlyO.ite | apply Only.ite
                            | apply Only.joinLosses | apply Only.selectVariant)
    | (refine Touch.allow_of_covers ?_; decide +kernel)

theorem execLossNotice_only (e : LinkEnd) (p : List Byte) (s : State) :
    OnlyO (touched (.lossNotice e payload)).has s (execLossNotice e payload s) := by
  unfold execLossNotice
  repeat' first
    | (with_reducible first | exact Only.refl _ | assumption | apply OnlyO.next | apply OnlyO.ite | apply Only.ite
                            | apply Only.bumpF | apply Only.addLoss | apply Only.sendNotice)
    | (refine Touch.allow_of_covers ?_; decide +kernel)

theorem execGtrTableWrite_only (d : Die) (w : Word) (s : State) :
    OnlyO (touched (.gtrTableWrite d w)).has s (execGtrTableWrite d w s) := by
  unfold execGtrTableWrite
  repeat' first
    | (with_reducible first | exact Only.refl _ | assumption | apply OnlyO.next | apply OnlyO.ite | apply Only.ite
                            | apply Only.schedWrite)
    | (refine Touch.allow_of_covers ?_; decide +kernel)

theorem execGtrTableRead_only (p : Path) (d : Die) (s : State) :
    OnlyO (touched (.gtrTableRead p d)).has s (execGtrTableRead p d s) := by
  unfold execGtrTableRead
  repeat' first
    | (with_reducible first | exact Only.refl _ | assumption | apply OnlyO.next | apply OnlyO.ite | apply Only.ite
                            | apply Only.deadRead | apply Only.putRd | apply Only.schedRead)
    | (refine Touch.allow_of_covers ?_; decide +kernel) | exact Touch.anyReg_has rfl
    | refine Only.of_eq (by assumption) ?_ | split

theorem execBeaconBurst_only (n : Fin 8) (s : State) :
    OnlyO (touched (.beaconBurst n)).has s (execBeaconBurst n s) := by
  unfold execBeaconBurst
  repeat' first
    | (with_reducible first | exact Only.refl _ | assumption | apply OnlyO.next | apply OnlyO.ite | apply Only.ite
                            | apply Only.setLink)
    | (refine Touch.allow_of_covers ?_; decide +kernel)

theorem execBeaconBlock_only (n : Fin 8) (block : BitVec 256) (locked : Bool) (s : State) :
    OnlyO (touched (.beaconBlock n block locked)).has s (execBeaconBlock n block locked s) := by
  unfold execBeaconBlock
  repeat' first
    | (with_reducible first | exact Only.refl _ | assumption | apply OnlyO.next | apply OnlyO.ite | apply Only.ite
                            | apply Only.setLink | apply Only.setPf | apply Only.blockStep | apply Only.logLink)
    | (refine Touch.allow_of_covers ?_; decide +kernel)

theorem execNoPartnerSignal_only (n : Fin 8) (s : State) :
    OnlyO (touched (.noPartnerSignal n)).has s (execNoPartnerSignal n s) := by
  unfold execNoPartnerSignal
  repeat' first
    | (with_reducible first | exact Only.refl _ | assumption | apply OnlyO.next | apply OnlyO.ite | apply Only.ite
                            | apply Only.logLink | apply Only.setPf | apply Only.setLink)
    | (refine Touch.allow_of_covers ?_; decide +kernel)

theorem execSeekTimeout_only (n : Fin 8) (s : State) :
    OnlyO (touched (.seekTimeout n)).has s (execSeekTimeout n s) := by
  unfold execSeekTimeout
  repeat' first
    | (with_reducible first | exact Only.refl _ | assumption | apply OnlyO.next | apply OnlyO.ite | apply Only.ite
                            | apply Only.linkReturn)
    | (refine Touch.allow_of_covers ?_; decide +kernel)

theorem execPartnerSignalLost_only (n : Fin 8) (s : State) :
    OnlyO (touched (.partnerSignalLost n)).has s (execPartnerSignalLost n s) := by
  unfold execPartnerSignalLost
  repeat' first
    | (with_reducible first | exact Only.refl _ | assumption | apply OnlyO.next | apply OnlyO.ite | apply Only.ite
                            | apply Only.setPf | apply Only.linkReturn)
    | (refine Touch.allow_of_covers ?_; decide +kernel)

theorem execTrayLossNotice_only (e : LinkEnd) (p : List Byte) (s : State) :
    OnlyO (touched (.trayLossNotice e payload)).has s (execTrayLossNotice e payload s) := by
  unfold execTrayLossNotice
  repeat' first
    | (with_reducible first | exact Only.refl _ | assumption | apply OnlyO.next | apply OnlyO.ite | apply Only.ite
                            | apply Only.bumpF | apply Only.setDie | apply Only.addTrayLoss | apply Only.sendNotice)
    | (refine Touch.allow_of_covers ?_; decide +kernel)

theorem execStartWindowEnd_only (c : Crown) (s : State) :
    OnlyO (touched (.startWindowEnd c)).has s (execStartWindowEnd c s) := by
  unfold execStartWindowEnd
  repeat' first
    | (with_reducible first | exact Only.refl _ | assumption | apply OnlyO.next | apply OnlyO.ite | apply Only.ite
                            | apply Only.logLink | apply Only.setF | apply Only.showMaster | apply Only.nextDomain
                            | apply Only.bootAdvance | apply Only.foldl)
    | (refine Touch.allow_of_covers ?_; decide +kernel) | exact Touch.anyReg_has rfl
    | refine Only.of_eq (by assumption) ?_ | split
    | dsimp only | intro _
    | (with_reducible apply Only.mk_same) <;>
        first | with_reducible exact .inl rfl | exact .inr (Touch.has_of_covers (by decide +kernel)) | skip

theorem execTrayVariantSelect_only (c : Crown) (s : State) :
    OnlyO (touched (.trayVariantSelect c)).has s (execTrayVariantSelect c s) := by
  unfold execTrayVariantSelect
  repeat' first
    | (with_reducible first | exact Only.refl _ | assumption | apply OnlyO.next | apply OnlyO.ite | apply Only.ite
                            | apply Only.joinTrayLosses | apply Only.selectTrayVariant)
    | (refine Touch.allow_of_covers ?_; decide +kernel)

theorem execTryTableWrite_only (c : Crown) (w : Word) (s : State) :
    OnlyO (touched (.tryTableWrite c w)).has s (execTryTableWrite c w s) := by
  unfold execTryTableWrite
  repeat' first
    | (with_reducible first | exact Only.refl _ | assumption | apply OnlyO.next | apply OnlyO.ite | apply Only.ite
                            | apply Only.schedWrite)
    | (refine Touch.allow_of_covers ?_; decide +kernel)

theorem execTryTableRead_only (p : Path) (c : Crown) (s : State) :
    OnlyO (touched (.tryTableRead p c)).has s (execTryTableRead p c s) := by
  unfold execTryTableRead
  repeat' first
    | (with_reducible first | exact Only.refl _ | assumption | apply OnlyO.next | apply OnlyO.ite | apply Only.ite
                            | apply Only.deadRead | apply Only.putRd | apply Only.schedRead)
    | (refine Touch.allow_of_covers ?_; decide +kernel) | exact Touch.anyReg_has rfl
    | refine Only.of_eq (by assumption) ?_ | split

theorem execRunSelect_only (m : Mv) (e : Fin 16) (s : State) :
    OnlyO (touched (.runSelect m e)).has s (execRunSelect m e s) := by
  unfold execRunSelect
  repeat' first
    | (with_reducible first | exact Only.refl _ | assumption | apply OnlyO.next | apply OnlyO.ite | apply Only.ite
                            | apply Only.endRun | apply Only.beginRun)
    | (refine Touch.allow_of_covers ?_; decide +kernel) | exact Touch.anyReg_has rfl
    | refine Only.of_eq (by assumption) ?_ | split

theorem execDescriptorStart_only (m : Mv) (e : Fin 16) (i : OpInfo) (s : State) :
    OnlyO (touched (.descriptorStart m e o)).has s (execDescriptorStart m e o s) := by
  unfold execDescriptorStart
  repeat' first
    | (with_reducible first | exact Only.refl _ | assumption | apply OnlyO.next | apply OnlyO.ite | apply Only.ite
                            | apply Only.replayHead | apply Only.startHead)
    | (refine Touch.allow_of_covers ?_; decide +kernel) | exact Touch.anyReg_has rfl
    | refine Only.of_eq (by assumption) ?_ | split

theorem execDescriptorComplete_only (m : Mv) (u : Fin 22) (s : State) :
    OnlyO (touched (.descriptorComplete m u)).has s (execDescriptorComplete m u s) := by
  unfold execDescriptorComplete
  repeat' first
    | (with_reducible first | exact Only.refl _ | assumption | apply OnlyO.next | apply OnlyO.ite | apply Only.ite
                            | apply Only.setEng | apply Only.setF | apply Only.endDesc)
    | (refine Touch.allow_of_covers ?_; decide +kernel) | exact Touch.anyReg_has rfl
    | refine Only.of_eq (by assumption) ?_ | split

theorem execDescriptorBoundExpiry_only (m : Mv) (u : Fin 22) (s : State) :
    OnlyO (touched (.descriptorBoundExpiry m u)).has s (execDescriptorBoundExpiry m u s) := by
  unfold execDescriptorBoundExpiry
  repeat' first
    | (with_reducible first | exact Only.refl _ | assumption | apply OnlyO.next | apply OnlyO.ite | apply Only.ite
                            | apply Only.boundFault | apply Only.descFault)
    | (refine Touch.allow_of_covers ?_; decide +kernel) | exact Touch.anyReg_has rfl
    | refine Only.of_eq (by assumption) ?_
    | split | dsimp only

theorem execDoorbellRing_only (m : Mv) (w : Word) (s : State) :
    OnlyO (touched (.doorbellRing m w)).has s (execDoorbellRing m w s) := by
  unfold execDoorbellRing
  repeat' first
    | (with_reducible first | exact Only.refl _ | assumption | apply OnlyO.next | apply OnlyO.ite | apply Only.ite
                            | apply Only.doorbell)
    | (refine Touch.allow_of_covers ?_; decide +kernel)

theorem execCounterSignal_only (m : Mv) (n : Fin 4096) (value : Word) (s : State) :
    OnlyO (touched (.counterSignal m n value)).has s (execCounterSignal m n value s) := by
  unfold execCounterSignal
  repeat' first
    | (with_reducible first | exact Only.refl _ | assumption | apply OnlyO.next | apply OnlyO.ite | apply Only.ite
                            | apply Only.signal)
    | (refine Touch.allow_of_covers ?_; decide +kernel)

theorem execSynCtrWrite_only (m : Mv) (n : Fin 4096) (w : Word) (s : State) :
    OnlyO (touched (.synCtrWrite m n w)).has s (execSynCtrWrite m n w s) := by
  unfold execSynCtrWrite
  repeat' first
    | (with_reducible first | exact Only.refl _ | assumption | apply OnlyO.next | apply OnlyO.ite | apply Only.ite
                            | apply Only.ctrWrite)
    | (refine Touch.allow_of_covers ?_; decide +kernel)

theorem execBarrierArrival_only (m : Mv) (ctx : Fin 32) (s : State) :
    OnlyO (touched (.barrierArrival m ctx)).has s (execBarrierArrival m ctx s) := by
  unfold execBarrierArrival
  repeat' first
    | (with_reducible first | exact Only.refl _ | assumption | apply OnlyO.next | apply OnlyO.ite | apply Only.ite
                            | apply Only.setFence | apply Only.arrive | apply Only.finishDesc | apply Only.freeEngine)
    | (refine Touch.allow_of_covers ?_; decide +kernel) | exact Touch.anyReg_has rfl
    | refine Only.of_eq (by assumption) ?_
    | split | dsimp only

theorem execLockstepMismatch_only (m : Mv) (s : State) :
    OnlyO (touched (.lockstepMismatch m)).has s (execLockstepMismatch m s) := by
  unfold execLockstepMismatch
  repeat' first
    | (with_reducible first | exact Only.refl _ | assumption | apply OnlyO.next | apply OnlyO.ite | apply Only.ite)
    | (refine Touch.allow_of_covers ?_; decide +kernel) | exact Touch.anyReg_has rfl
    | refine Only.of_eq (by assumption) ?_
    | split | dsimp only
    | (with_reducible apply Only.mk_same) <;>
        first | with_reducible exact .inl rfl | exact .inr (Touch.has_of_covers (by decide +kernel)) | skip

theorem execWrite_only (d : Die) (cmd : List Byte) (data : List (List Byte)) (bad : List Nat) (dead : List Nat)
    (s : State) :
    OnlyO (touched (.write d cmd data bad dead)).has s (execWrite d cmd data bad dead s) := by
  unfold execWrite
  repeat' first
    | (with_reducible first | exact Only.refl _ | assumption | apply OnlyO.next | apply OnlyO.ite | apply Only.ite
                            | apply Only.takeWrite)
    | (refine Touch.allow_of_covers ?_; decide +kernel)

theorem execSignal_only (m : Mv) (cmd : List Byte) (s : State) :
    OnlyO (touched (.signal m cmd)).has s (execSignal m cmd s) := by
  unfold execSignal
  repeat' first
    | (with_reducible first | exact Only.refl _ | assumption | apply OnlyO.next | apply OnlyO.ite | apply Only.ite
                            | apply Only.takeSignalMsg)
    | (refine Touch.allow_of_covers ?_; decide +kernel)

theorem execRead_only (d : Die) (cmd : List Byte) (bad : List Nat) (corr : Nat) (s : State) :
    OnlyO (touched (.read d cmd bad corr)).has s (execRead d cmd bad corr s) := by
  unfold execRead
  repeat' first
    | (with_reducible first | exact Only.refl _ | assumption | apply OnlyO.next | apply OnlyO.ite | apply Only.ite
                            | apply Only.log | apply Only.sendReadData | apply Only.corrected | apply Only.serveRead)
    | (refine Touch.allow_of_covers ?_; decide +kernel)

theorem execReadData_only (d : Die) (cmd : List Byte) (data : List (List Byte)) (s : State) :
    OnlyO (touched (.readData d cmd data)).has s (execReadData d cmd data s) := by
  unfold execReadData
  repeat' first
    | (with_reducible first | exact Only.refl _ | assumption | apply OnlyO.next | apply OnlyO.ite | apply Only.ite
                            | apply Only.completeRead | apply Only.deliver | apply Only.endNum | apply Only.faultAll
                            | apply Only.setEng)
    | (refine Touch.allow_of_covers ?_; decide +kernel) | exact Touch.anyReg_has rfl
    | refine Only.of_eq (by assumption) ?_
    | split | dsimp only
    | (with_reducible apply Only.mk_same) <;>
        first | with_reducible exact .inl rfl | exact .inr (Touch.has_of_covers (by decide +kernel)) | skip

theorem execFenceProbe_only (d : Die) (cmd : List Byte) (s : State) :
    OnlyO (touched (.fenceProbe d cmd)).has s (execFenceProbe d cmd s) := by
  unfold execFenceProbe
  repeat' first
    | (with_reducible first | exact Only.refl _ | assumption | apply OnlyO.next | apply OnlyO.ite | apply Only.ite
                            | apply Only.sendMsg)
    | (refine Touch.allow_of_covers ?_; decide +kernel) | exact Touch.anyReg_has rfl
    | refine Only.of_eq (by assumption) ?_ | split

theorem execFenceResp_only (d : Die) (cmd : List Byte) (s : State) :
    OnlyO (touched (.fenceResp d cmd)).has s (execFenceResp d cmd s) := by
  unfold execFenceResp
  repeat' first
    | (with_reducible first | exact Only.refl _ | assumption | apply OnlyO.next | apply OnlyO.ite | apply Only.ite
                            | apply Only.fenceSeen | apply Only.fenceCheck | apply Only.nextHostFence)
    | (refine Touch.allow_of_covers ?_; decide +kernel) | exact Touch.anyReg_has rfl
    | refine Only.of_eq (by assumption) ?_
    | split | dsimp only

theorem execFenceProbeRetry_only (d : Die) (ctx : Fin 33) (s : State) :
    OnlyO (touched (.fenceProbeRetry d ctx)).has s (execFenceProbeRetry d ctx s) := by
  unfold execFenceProbeRetry
  repeat' first
    | (with_reducible first | exact Only.refl _ | assumption | apply OnlyO.next | apply OnlyO.ite | apply Only.ite
                            | apply Only.setFence | apply Only.sendProbes)
    | (refine Touch.allow_of_covers ?_; decide +kernel) | exact Touch.anyReg_has rfl
    | refine Only.of_eq (by assumption) ?_
    | split | dsimp only

theorem execPwFail_only (d : Die) (cmd : List Byte) (full : Bool) (s : State) :
    OnlyO (touched (.pwFail d cmd full)).has s (execPwFail d cmd full s) := by
  unfold execPwFail
  repeat' first
    | (with_reducible first | exact Only.refl _ | assumption | apply OnlyO.next | apply OnlyO.ite | apply Only.ite
                            | apply Only.takePwFail)
    | (refine Touch.allow_of_covers ?_; decide +kernel)

theorem execScrubPass_only (m : Mv) (hbm : Bool) (bad : List Nat) (corr : Nat) (s : State) :
    OnlyO (touched (.scrubPass m hbm bad corr)).has s (execScrubPass m hbm bad corr s) := by
  unfold execScrubPass
  repeat' first
    | (with_reducible first | exact Only.refl _ | assumption | apply OnlyO.next | apply OnlyO.ite | apply Only.ite
                            | apply Only.setDie | apply Only.uncorrectable | apply Only.corrected | apply Only.bumpF
                            | apply Only.foldl)
    | (refine Touch.allow_of_covers ?_; decide +kernel) | exact Touch.anyReg_has rfl
    | refine Only.of_eq (by assumption) ?_ | split
    | dsimp only | intro _

theorem execBar2Write_only (c : Crown) (x : Nat) (bytes : List Byte) (s : State) :
    OnlyO (touched (.bar2Write c x bytes)).has s (execBar2Write c x bytes s) := by
  unfold execBar2Write
  repeat' first
    | (with_reducible first | exact Only.refl _ | assumption | apply OnlyO.next | apply OnlyO.ite | apply Only.ite
                            | apply Only.post | apply Only.hostOutside)
    | (refine Touch.allow_of_covers ?_; decide +kernel) | exact Touch.anyReg_has rfl
    | refine Only.of_eq (by assumption) ?_ | split

theorem execBar2Read_only (c : Crown) (id : Nat) (x : Nat) (len : Nat) (s : State) :
    OnlyO (touched (.bar2Read c id x len)).has s (execBar2Read c id x len s) := by
  unfold execBar2Read
  repeat' first
    | (with_reducible first | exact Only.refl _ | assumption | apply OnlyO.next | apply OnlyO.ite | apply Only.ite
                            | apply Only.setHost | apply Only.nextHostFence | apply Only.hostOutside)
    | (refine Touch.allow_of_covers ?_; decide +kernel) | exact Touch.anyReg_has rfl
    | refine Only.of_eq (by assumption) ?_ | split

theorem execBar2ReadAbort_only (c : Crown) (id : Nat) (s : State) :
    OnlyO (touched (.bar2ReadAbort c id)).has s (execBar2ReadAbort c id s) := by
  unfold execBar2ReadAbort
  repeat' first
    | (with_reducible first | exact Only.refl _ | assumption | apply OnlyO.next | apply OnlyO.ite | apply Only.ite
                            | apply Only.abortRead)
    | (refine Touch.allow_of_covers ?_; decide +kernel) | exact Touch.anyReg_has rfl
    | refine Only.of_eq (by assumption) ?_ | split

theorem execFunctionLevelReset_only (c : Crown) (kind : Fin 3) (s : State) :
    OnlyO (touched (.functionLevelReset c kind)).has s (execFunctionLevelReset c kind s) := by
  unfold execFunctionLevelReset
  repeat' first
    | (with_reducible first | exact Only.refl _ | assumption | apply OnlyO.next | apply OnlyO.ite | apply Only.ite
                            | apply Only.setHost | apply Only.resetPci | apply Only.setF | apply Only.draw
                            | apply Only.failMove | apply Only.foldl)
    | (refine Touch.allow_of_covers ?_; decide +kernel) | exact Touch.anyReg_has rfl
    | refine Only.of_eq (by assumption) ?_ | split
    | dsimp only | intro _

theorem execHostReadCompletion_only (c : Crown) (id : Nat) (status : Fin 3) (bytes : List Byte) (s : State) :
    OnlyO (touched (.hostReadCompletion c id status bytes)).has s (execHostReadCompletion c id status bytes s) := by
  unfold execHostReadCompletion
  repeat' first
    | (with_reducible first | exact Only.refl _ | assumption | apply OnlyO.next | apply OnlyO.ite | apply Only.ite
                            | apply Only.timeoutMove | apply Only.failMove | apply Only.setHost | apply Only.deliver)
    | (refine Touch.allow_of_covers ?_; decide +kernel) | exact Touch.anyReg_has rfl
    | refine Only.of_eq (by assumption) ?_
    | split | dsimp only

theorem execHostReadTimeout_only (c : Crown) (id : Nat) (s : State) :
    OnlyO (touched (.hostReadTimeout c id)).has s (execHostReadTimeout c id s) := by
  unfold execHostReadTimeout
  repeat' first
    | (with_reducible first | exact Only.refl _ | assumption | apply OnlyO.next | apply OnlyO.ite | apply Only.ite
                            | apply Only.timeoutMove)
    | (refine Touch.allow_of_covers ?_; decide +kernel) | exact Touch.anyReg_has rfl
    | refine Only.of_eq (by assumption) ?_ | split

theorem execMsixMessage_only (c : Crown) (v : Fin 64) (s : State) :
    OnlyO (touched (.msixMessage c v)).has s (execMsixMessage c v s) := by
  unfold execMsixMessage
  repeat' first
    | (with_reducible first | exact Only.refl _ | assumption | apply OnlyO.next | apply OnlyO.ite | apply Only.ite
                            | apply Only.setHost)
    | (refine Touch.allow_of_covers ?_; decide +kernel)

theorem execEthFrameReceive_only (c : Crown) (p : Fin 4) (frame : List Byte) (s : State) :
    OnlyO (touched (.ethFrameReceive c p frame)).has s (execEthFrameReceive c p frame s) := by
  unfold execEthFrameReceive
  repeat' first
    | (with_reducible first | exact Only.refl _ | assumption | apply OnlyO.next | apply OnlyO.ite | apply Only.ite
                            | apply Only.bumpF | apply Only.takeArp | apply Only.takePtp | apply Only.takeIp)
    | (rename_i e _; cases e <;> refine Touch.allow_of_covers ?_ <;> decide +kernel)
    | (refine Touch.allow_of_covers ?_; decide +kernel) | exact Touch.anyReg_has rfl
    | refine Only.of_eq (by assumption) ?_ | split

theorem execPtpSyncTimeout_only (s : State) : OnlyO (touched .ptpSyncTimeout).has s (execPtpSyncTimeout s) := by
  unfold execPtpSyncTimeout
  repeat' first
    | (with_reducible first | exact Only.refl _ | assumption | apply OnlyO.next | apply OnlyO.ite | apply Only.ite
                            | apply Only.setTaiFlags)
    | (refine Touch.allow_of_covers ?_; decide +kernel) | exact Touch.anyReg_has rfl
    | refine Only.of_eq (by assumption) ?_
    | split | dsimp only
    | (with_reducible apply Only.mk_same) <;>
        first | with_reducible exact .inl rfl | exact .inr (Touch.has_of_covers (by decide +kernel)) | skip

theorem execLeapSecond_only (s : State) : OnlyO (touched .leapSecond).has s (execLeapSecond s) := by
  unfold execLeapSecond
  repeat' first
    | (with_reducible first | exact Only.refl _ | assumption | apply OnlyO.next | apply OnlyO.ite | apply Only.ite
                            | apply Only.showUtc)
    | (refine Touch.allow_of_covers ?_; decide +kernel) | exact Touch.anyReg_has rfl
    | refine Only.of_eq (by assumption) ?_
    | split | dsimp only
    | (with_reducible apply Only.mk_same) <;>
        first | with_reducible exact .inl rfl | exact .inr (Touch.has_of_covers (by decide +kernel)) | skip

theorem execOutputGuardStart_only (i : Nat) (s : State) :
    OnlyO (touched (.outputGuardStart o)).has s (execOutputGuardStart o s) := by
  unfold execOutputGuardStart
  repeat' first
    | (with_reducible first | exact Only.refl _ | assumption | apply OnlyO.next | apply OnlyO.ite | apply Only.ite
                            | apply Only.setHost)
    | (refine Touch.allow_of_covers ?_; decide +kernel) | exact Touch.anyReg_has rfl
    | refine Only.of_eq (by assumption) ?_ | split

theorem execResultOutput_only (i : Nat) (s : State) :
    OnlyO (touched (.resultOutput o)).has s (execResultOutput o s) := by
  unfold execResultOutput
  repeat' first
    | (with_reducible first | exact Only.refl _ | assumption | apply OnlyO.next | apply OnlyO.ite | apply Only.ite
                            | apply Only.bumpF | apply Only.setHost | apply Only.servedPoison | apply Only.writeRing
                            | apply Only.sendResult)
    | (refine Touch.allow_of_covers ?_; decide +kernel) | exact Touch.anyReg_has rfl
    | refine Only.of_eq (by assumption) ?_ | split

theorem execEthTableRead_only (p : Path) (c : Crown) (s : State) :
    OnlyO (touched (.ethTableRead p c)).has s (execEthTableRead p c s) := by
  unfold execEthTableRead
  repeat' first
    | (with_reducible first | exact Only.refl _ | assumption | apply OnlyO.next | apply OnlyO.ite | apply Only.ite
                            | apply Only.deadRead | apply Only.putRd | apply Only.ethLoad)
    | (refine Touch.allow_of_covers ?_; decide +kernel) | exact Touch.anyReg_has rfl
    | refine Only.of_eq (by assumption) ?_ | split

theorem execSnapshotLimitClose_only (c : Crown) (g : Fin 16) (s : State) :
    OnlyO (touched (.snapshotLimitClose c g)).has s (execSnapshotLimitClose c g s) := by
  unfold execSnapshotLimitClose
  repeat' first
    | (with_reducible first | exact Only.refl _ | assumption | apply OnlyO.next | apply OnlyO.ite | apply Only.ite
                            | apply Only.setGrp)
    | (refine Touch.allow_of_covers ?_; decide +kernel)

theorem execSnapshotSelect_only (c : Crown) (g : Fin 16) (s : State) :
    OnlyO (touched (.snapshotSelect c g)).has s (execSnapshotSelect c g s) := by
  unfold execSnapshotSelect
  repeat' first
    | (with_reducible first | exact Only.refl _ | assumption | apply OnlyO.next | apply OnlyO.ite | apply Only.ite
                            | apply Only.setGrp | apply Only.mapCount | apply Only.addF | apply Only.setF
                            | apply Only.correct | apply Only.foldl)
    | (refine Touch.allow_of_covers ?_; decide +kernel) | exact Touch.anyReg_has rfl
    | refine Only.of_eq (by assumption) ?_ | split
    | dsimp only | intro _

theorem execSnapshotRelease_only (c : Crown) (g : Fin 16) (s : State) :
    OnlyO (touched (.snapshotRelease c g)).has s (execSnapshotRelease c g s) := by
  unfold execSnapshotRelease
  repeat' first
    | (with_reducible first | exact Only.refl _ | assumption | apply OnlyO.next | apply OnlyO.ite | apply Only.ite
                            | apply Only.setGrp | apply Only.localWrite | apply Only.setF | apply Only.bumpF
                            | apply Only.log | apply Only.foldl)
    | (refine Touch.allow_of_covers ?_; decide +kernel) | exact Touch.anyReg_has rfl
    | refine Only.of_eq (by assumption) ?_
    | split | dsimp only

theorem execResidualBatchStart_only (c : Crown) (g : Fin 16) (s : State) :
    OnlyO (touched (.residualBatchStart c g)).has s (execResidualBatchStart c g s) := by
  unfold execResidualBatchStart
  repeat' first
    | (with_reducible first | exact Only.refl _ | assumption | apply OnlyO.next | apply OnlyO.ite | apply Only.ite
                            | apply Only.clearLanded | apply Only.bumpF | apply Only.setGrp | apply Only.foldl)
    | (refine Touch.allow_of_covers ?_; decide +kernel) | exact Touch.anyReg_has rfl
    | refine Only.of_eq (by assumption) ?_
    | split | dsimp only

theorem execCalibBatchApply_only (c : Crown) (g : Fin 16) (s : State) :
    OnlyO (touched (.calibBatchApply c g)).has s (execCalibBatchApply c g s) := by
  unfold execCalibBatchApply
  repeat' first
    | (with_reducible first | exact Only.refl _ | assumption | apply OnlyO.next | apply OnlyO.ite | apply Only.ite
                            | apply Only.applyOne | apply Only.setGrp | apply Only.foldl)
    | (refine Touch.allow_of_covers ?_; decide +kernel) | exact Touch.anyReg_has rfl
    | refine Only.of_eq (by assumption) ?_ | split
    | dsimp only | intro _

theorem execModeSetProcess_only (c : Crown) (s : State) :
    OnlyO (touched (.modeSetProcess c)).has s (execModeSetProcess c s) := by
  unfold execModeSetProcess
  repeat' first
    | (with_reducible first | exact Only.refl _ | assumption | apply OnlyO.next | apply OnlyO.ite | apply Only.ite
                            | apply Only.clearLanded | apply Only.bumpF | apply Only.setFusion | apply Only.addF
                            | apply Only.log)
    | (refine Touch.allow_of_covers ?_; decide +kernel)

theorem execTrackTablePublish_only (c : Crown) (s : State) :
    OnlyO (touched (.trackTablePublish c)).has s (execTrackTablePublish c s) := by
  unfold execTrackTablePublish
  repeat' first
    | (with_reducible first | exact Only.refl _ | assumption | apply OnlyO.next | apply OnlyO.ite | apply Only.ite
                            | apply Only.setFusion | apply Only.localWrite)
    | (refine Touch.allow_of_covers ?_; decide +kernel) | exact Touch.anyReg_has rfl
    | refine Only.of_eq (by assumption) ?_
    | split | dsimp only

theorem execFusTableWrite_only (c : Crown) (w : Word) (s : State) :
    OnlyO (touched (.fusTableWrite c w)).has s (execFusTableWrite c w s) := by
  unfold execFusTableWrite
  repeat' first
    | (with_reducible first | exact Only.refl _ | assumption | apply OnlyO.next | apply OnlyO.ite | apply Only.ite
                            | apply Only.fusTblWrite)
    | (refine Touch.allow_of_covers ?_; decide +kernel)

theorem execFusTableRead_only (p : Path) (c : Crown) (s : State) :
    OnlyO (touched (.fusTableRead p c)).has s (execFusTableRead p c s) := by
  unfold execFusTableRead
  repeat' first
    | (with_reducible first | exact Only.refl _ | assumption | apply OnlyO.next | apply OnlyO.ite | apply Only.ite
                            | apply Only.deadRead | apply Only.putRd | apply Only.fusLoad)
    | (refine Touch.allow_of_covers ?_; decide +kernel) | exact Touch.anyReg_has rfl
    | refine Only.of_eq (by assumption) ?_ | split

theorem execTariffChangeEffect_only (s : State) :
    OnlyO (touched .tariffChangeEffect).has s (execTariffChangeEffect s) := by
  unfold execTariffChangeEffect
  repeat' first
    | (with_reducible first | exact Only.refl _ | assumption | apply OnlyO.next | apply OnlyO.ite | apply Only.ite
                            | apply Only.ldgSettle | apply Only.applyChange | apply Only.log | apply Only.foldl)
    | (refine Touch.allow_of_covers ?_; decide +kernel) | exact Touch.anyReg_has rfl
    | refine Only.of_eq (by assumption) ?_ | split
    | dsimp only | intro _
    | (with_reducible apply Only.mk_same) <;>
        first | with_reducible exact .inl rfl | exact .inr (Touch.has_of_covers (by decide +kernel)) | skip

theorem execIntervalClose_only (s : State) : OnlyO (touched .intervalClose).has s (execIntervalClose s) := by
  unfold execIntervalClose
  repeat' first
    | (with_reducible first | exact Only.refl _ | assumption | apply OnlyO.next | apply OnlyO.ite | apply Only.ite
                            | apply Only.closeAt | apply Only.addF | apply Only.showCur | apply Only.foldl)
    | (refine Touch.allow_of_covers ?_; decide +kernel) | exact Touch.anyReg_has rfl
    | refine Only.of_eq (by assumption) ?_ | split
    | dsimp only | intro _
    | (with_reducible apply Only.mk_same) <;>
        first | with_reducible exact .inl rfl | exact .inr (Touch.has_of_covers (by decide +kernel)) | skip

theorem execSetpointSetProcess_only (s : State) :
    OnlyO (touched .setpointSetProcess).has s (execSetpointSetProcess s) := by
  unfold execSetpointSetProcess
  repeat' first
    | (with_reducible first | exact Only.refl _ | assumption | apply OnlyO.next | apply OnlyO.ite | apply Only.ite
                            | apply Only.clearLanded | apply Only.bumpF)
    | (refine Touch.allow_of_covers ?_; decide +kernel) | exact Touch.anyReg_has rfl
    | refine Only.of_eq (by assumption) ?_
    | split | dsimp only
    | (with_reducible apply Only.mk_same) <;>
        first | with_reducible exact .inl rfl | exact .inr (Touch.has_of_covers (by decide +kernel)) | skip

theorem execSetpointSetEffective_only (s : State) :
    OnlyO (touched .setpointSetEffective).has s (execSetpointSetEffective s) := by
  unfold execSetpointSetEffective
  repeat' first
    | (with_reducible first | exact Only.refl _ | assumption | apply OnlyO.next | apply OnlyO.ite | apply Only.ite
                            | apply Only.ldgSettle | apply Only.applySet | apply Only.foldl)
    | (refine Touch.allow_of_covers ?_; decide +kernel) | exact Touch.anyReg_has rfl
    | refine Only.of_eq (by assumption) ?_ | split
    | dsimp only | intro _
    | (with_reducible apply Only.mk_same) <;>
        first | with_reducible exact .inl rfl | exact .inr (Touch.has_of_covers (by decide +kernel)) | skip

theorem execLedgerOpen_only (s : State) : OnlyO (touched .ledgerOpen).has s (execLedgerOpen s) := by
  unfold execLedgerOpen
  repeat' first
    | (with_reducible first | exact Only.refl _ | assumption | apply OnlyO.next | apply OnlyO.ite | apply Only.ite
                            | apply Only.applyChange | apply Only.setLdgState | apply Only.setF | apply Only.showCur
                            | apply Only.foldl)
    | (refine Touch.allow_of_covers ?_; decide +kernel) | exact Touch.anyReg_has rfl
    | refine Only.of_eq (by assumption) ?_ | split
    | dsimp only | intro _
    | (with_reducible apply Only.mk_same) <;>
        first | with_reducible exact .inl rfl | exact .inr (Touch.has_of_covers (by decide +kernel)) | skip

theorem execIntervalCommit_only (bad : List (Nat × List Byte)) (s : State) :
    OnlyO (touched (.intervalCommit bad)).has s (execIntervalCommit bad s) := by
  unfold execIntervalCommit
  repeat' first
    | (with_reducible first | exact Only.refl _ | assumption | apply OnlyO.next | apply OnlyO.ite | apply Only.ite
                            | apply Only.startCommit | apply Only.closeAt | apply Only.setLdgState)
    | (refine Touch.allow_of_covers ?_; decide +kernel) | exact Touch.anyReg_has rfl
    | refine Only.of_eq (by assumption) ?_
    | split | dsimp only
    | (with_reducible apply Only.mk_same) <;>
        first | with_reducible exact .inl rfl | exact .inr (Touch.has_of_covers (by decide +kernel)) | skip

theorem execIntervalCommitDone_only (bad : Option (List Byte)) (s : State) :
    OnlyO (touched (.intervalCommitDone bad)).has s (execIntervalCommitDone bad s) := by
  unfold execIntervalCommitDone
  repeat' first
    | (with_reducible first | exact Only.refl _ | assumption | apply OnlyO.next | apply OnlyO.ite | apply Only.ite
                            | apply Only.framPut | apply Only.setF | apply Only.log)
    | (refine Touch.allow_of_covers ?_; decide +kernel) | exact Touch.anyReg_has rfl
    | refine Only.of_eq (by assumption) ?_
    | split | dsimp only
    | (with_reducible apply Only.mk_same) <;>
        first | with_reducible exact .inl rfl | exact .inr (Touch.has_of_covers (by decide +kernel)) | skip

theorem execTableImageWrite_only (bad : List (Nat × List Byte)) (s : State) :
    OnlyO (touched (.tableImageWrite bad)).has s (execTableImageWrite bad s) := by
  unfold execTableImageWrite
  repeat' first
    | (with_reducible first | exact Only.refl _ | assumption | apply OnlyO.next | apply OnlyO.ite | apply Only.ite
                            | apply Only.framPut | apply Only.foldl)
    | (refine Touch.allow_of_covers ?_; decide +kernel) | exact Touch.anyReg_has rfl
    | refine Only.of_eq (by assumption) ?_ | split
    | dsimp only | intro _
    | (with_reducible apply Only.mk_same) <;>
        first | with_reducible exact .inl rfl | exact .inr (Touch.has_of_covers (by decide +kernel)) | skip

theorem execLedgerOutputCopy_only (s : State) : OnlyO (touched .ledgerOutputCopy).has s (execLedgerOutputCopy s) := by
  unfold execLedgerOutputCopy
  repeat' first
    | (with_reducible first | exact Only.refl _ | assumption | apply OnlyO.next | apply OnlyO.ite | apply Only.ite
                            | apply Only.localWrite)
    | (refine Touch.allow_of_covers ?_; decide +kernel) | exact Touch.anyReg_has rfl
    | refine Only.of_eq (by assumption) ?_
    | split | dsimp only
    | (with_reducible apply Only.mk_same) <;>
        first | with_reducible exact .inl rfl | exact .inr (Touch.has_of_covers (by decide +kernel)) | skip

theorem execLdgTableWrite_only (w : Word) (s : State) :
    OnlyO (touched (.ldgTableWrite w)).has s (execLdgTableWrite w s) := by
  unfold execLdgTableWrite
  repeat' first
    | (with_reducible first | exact Only.refl _ | assumption | apply OnlyO.next | apply OnlyO.ite | apply Only.ite
                            | apply Only.ldgTblWrite)
    | (refine Touch.allow_of_covers ?_; decide +kernel)

theorem execLdgTableRead_only (p : Path) (s : State) :
    OnlyO (touched (.ldgTableRead p)).has s (execLdgTableRead p s) := by
  unfold execLdgTableRead
  repeat' first
    | (with_reducible first | exact Only.refl _ | assumption | apply OnlyO.next | apply OnlyO.ite | apply Only.ite
                            | apply Only.deadRead | apply Only.putRd | apply Only.ldgLoad)
    | (refine Touch.allow_of_covers ?_; decide +kernel) | exact Touch.anyReg_has rfl
    | refine Only.of_eq (by assumption) ?_ | split

theorem execLdgFramReadStart_only (w : Word) (s : State) :
    OnlyO (touched (.ldgFramReadStart w)).has s (execLdgFramReadStart w s) := by
  unfold execLdgFramReadStart
  repeat' first
    | (with_reducible first | exact Only.refl _ | assumption | apply OnlyO.next | apply OnlyO.ite | apply Only.ite
                            | apply Only.ldgIndexWrite)
    | (refine Touch.allow_of_covers ?_; decide +kernel)

theorem execLdgFramReadDone_only (s : State) : OnlyO (touched .ldgFramReadDone).has s (execLdgFramReadDone s) := by
  unfold execLdgFramReadDone
  repeat' first
    | (with_reducible first | exact Only.refl _ | assumption | apply OnlyO.next | apply OnlyO.ite | apply Only.ite
                            | apply Only.setF)
    | (refine Touch.allow_of_covers ?_; decide +kernel) | exact Touch.anyReg_has rfl
    | refine Only.of_eq (by assumption) ?_
    | split | dsimp only
    | (with_reducible apply Only.mk_same) <;>
        first | with_reducible exact .inl rfl | exact .inr (Touch.has_of_covers (by decide +kernel)) | skip

theorem execBudgetWrite_only (w : Word) (s : State) : OnlyO (touched (.budgetWrite w)).has s (execBudgetWrite w s) := by
  unfold execBudgetWrite
  repeat' first
    | (with_reducible first | exact Only.refl _ | assumption | apply OnlyO.next | apply OnlyO.ite | apply Only.ite
                            | apply Only.budgetWrite)
    | (refine Touch.allow_of_covers ?_; decide +kernel)

theorem execBudgetReport_only (d : Die) (meas : Nat) (s : State) :
    OnlyO (touched (.budgetReport d meas)).has s (execBudgetReport d meas s) := by
  unfold execBudgetReport
  repeat' first
    | (with_reducible first | exact Only.refl _ | assumption | apply OnlyO.next | apply OnlyO.ite | apply Only.ite
                            | apply Only.takeReport | apply Only.sbSend)
    | (refine Touch.allow_of_covers ?_; decide +kernel) | exact Touch.anyReg_has rfl
    | refine Only.of_eq (by assumption) ?_ | split

theorem execGrantAllocation_only (s : State) : OnlyO (touched .grantAllocation).has s (execGrantAllocation s) := by
  unfold execGrantAllocation
  repeat' first
    | (with_reducible first | exact Only.refl _ | assumption | apply OnlyO.next | apply OnlyO.ite | apply Only.ite
                            | apply Only.allocateNow | apply Only.sendGrants)
    | (refine Touch.allow_of_covers ?_; decide +kernel)

theorem execBudgetGrant_only (e : LinkEnd) (r : SbSlot) (s : State) :
    OnlyO (touched (.budgetGrant e r)).has s (execBudgetGrant e r s) := by
  unfold execBudgetGrant
  repeat' first
    | (with_reducible first | exact Only.refl _ | assumption | apply OnlyO.next | apply OnlyO.ite | apply Only.ite
                            | apply Only.sbTakes | apply Only.takeBudget)
    | (refine Touch.allow_of_covers ?_; decide +kernel) | exact Touch.anyReg_has rfl
    | refine Only.of_eq (by assumption) ?_ | split

theorem execAllowanceTake_only (d : Die) (s : State) :
    OnlyO (touched (.allowanceTake d)).has s (execAllowanceTake d s) := by
  unfold execAllowanceTake
  repeat' first
    | (with_reducible first | exact Only.refl _ | assumption | apply OnlyO.next | apply OnlyO.ite | apply Only.ite
                            | apply Only.setF | apply Only.bumpF | apply Only.log)
    | (refine Touch.allow_of_covers ?_; decide +kernel) | exact Touch.anyReg_has rfl
    | refine Only.of_eq (by assumption) ?_
    | split | dsimp only

theorem execTokenGrant_only (d : Die) (s : State) : OnlyO (touched (.tokenGrant d)).has s (execTokenGrant d s) := by
  unfold execTokenGrant
  repeat' first
    | (with_reducible first | exact Only.refl _ | assumption | apply OnlyO.next | apply OnlyO.ite | apply Only.ite
                            | apply Only.setPow | apply Only.showHeld | apply Only.bumpF)
    | (refine Touch.allow_of_covers ?_; decide +kernel) | exact Touch.anyReg_has rfl
    | refine Only.of_eq (by assumption) ?_
    | split | dsimp only

theorem execAdmissionWaitTimeout_only (d : Die) (s : State) :
    OnlyO (touched (.admissionWaitTimeout d)).has s (execAdmissionWaitTimeout d s) := by
  unfold execAdmissionWaitTimeout
  repeat' first
    | (with_reducible first | exact Only.refl _ | assumption | apply OnlyO.next | apply OnlyO.ite | apply Only.ite
                            | apply Only.withdraw | apply Only.setPow | apply Only.foldl)
    | (refine Touch.allow_of_covers ?_; decide +kernel) | exact Touch.anyReg_has rfl
    | refine Only.of_eq (by assumption) ?_ | split
    | dsimp only | intro _

theorem execThermalSample_only (d : Die) (tj0 : Int) (h00 : Int) (h10 : Int) (s : State) :
    OnlyO (touched (.thermalSample d tj h0 h1)).has s (execThermalSample d tj h0 h1 s) := by
  unfold execThermalSample
  repeat' first
    | (with_reducible first | exact Only.refl _ | assumption | apply OnlyO.next | apply OnlyO.ite | apply Only.ite
                            | apply Only.showTemp | apply Only.setPow | apply Only.setThrot | apply Only.trip)
    | (refine Touch.allow_of_covers ?_; decide +kernel) | exact Touch.anyReg_has rfl

theorem execThermalShutdown_only (s : State) : OnlyO (touched .thermalShutdown).has s (execThermalShutdown s) := by
  unfold execThermalShutdown
  repeat' first
    | (with_reducible first | exact Only.refl _ | assumption | apply OnlyO.next | apply OnlyO.ite | apply Only.ite
                            | apply Only.setF | apply Only.allOffBut | apply Only.ldgStop)
    | (refine Touch.allow_of_covers ?_; decide +kernel) | exact Touch.anyReg_has rfl

theorem execPowerFail_only (cause : Fin 4) (s : State) :
    OnlyO (touched (.powerFail cause)).has s (execPowerFail cause s) := by
  unfold execPowerFail
  repeat' first
    | (with_reducible first | exact Only.refl _ | assumption | apply OnlyO.next | apply OnlyO.ite | apply Only.ite
                            | apply Only.log | apply Only.setF | apply Only.setPow)
    | (refine Touch.allow_of_covers ?_; decide +kernel) | exact Touch.anyReg_has rfl
    | refine Only.of_eq (by assumption) ?_
    | split | dsimp only
    | (with_reducible apply Only.mk_same) <;>
        first | with_reducible exact .inl rfl | exact .inr (Touch.has_of_covers (by decide +kernel)) | skip

theorem execPowerFailDomainsOff_only (s : State) :
    OnlyO (touched .powerFailDomainsOff).has s (execPowerFailDomainsOff s) := by
  unfold execPowerFailDomainsOff
  repeat' first
    | (with_reducible first | exact Only.refl _ | assumption | apply OnlyO.next | apply OnlyO.ite | apply Only.ite
                            | apply Only.allOffBut)
    | (refine Touch.allow_of_covers ?_; decide +kernel) | exact Touch.anyReg_has rfl

theorem execLedgerHaltedCrfOff_only (s : State) :
    OnlyO (touched .ledgerHaltedCrfOff).has s (execLedgerHaltedCrfOff s) := by
  unfold execLedgerHaltedCrfOff
  repeat' first
    | (with_reducible first | exact Only.refl _ | assumption | apply OnlyO.next | apply OnlyO.ite | apply Only.ite
                            | apply Only.allOffBut)
    | (refine Touch.allow_of_covers ?_; decide +kernel) | exact Touch.anyReg_has rfl

theorem execPowerReturn_only (s : State) : OnlyO (touched .powerReturn).has s (execPowerReturn s) := by
  unfold execPowerReturn
  repeat' first
    | (with_reducible first | exact Only.refl _ | assumption | apply OnlyO.next | apply OnlyO.ite | apply Only.ite
                            | apply Only.powerCycle)
    | (refine Touch.allow_of_covers ?_; decide +kernel)

theorem execRailSample_only (mv : List Nat) (s : State) :
    OnlyO (touched (.railSample mv)).has s (execRailSample mv s) := by
  unfold execRailSample
  repeat' first
    | (with_reducible first | exact Only.refl _ | assumption | apply OnlyO.next | apply OnlyO.ite | apply Only.ite
                            | apply Only.setF | apply Only.foldl)
    | (refine Touch.allow_of_covers ?_; decide +kernel) | exact Touch.anyReg_has rfl
    | refine Only.of_eq (by assumption) ?_ | split
    | dsimp only | intro _

theorem execArmGo_only (w : Word) (s : State) : OnlyO (touched (.armGo w)).has s (execArmGo w s) := by
  unfold execArmGo
  repeat' first
    | (with_reducible first | exact Only.refl _ | assumption | apply OnlyO.next | apply OnlyO.ite | apply Only.ite
                            | apply Only.armWrite)
    | (refine Touch.allow_of_covers ?_; decide +kernel)

theorem execArmDiscard_only (w : Word) (s : State) : OnlyO (touched (.armDiscard w)).has s (execArmDiscard w s) := by
  unfold execArmDiscard
  repeat' first
    | (with_reducible first | exact Only.refl _ | assumption | apply OnlyO.next | apply OnlyO.ite | apply Only.ite
                            | apply Only.armWrite)
    | (refine Touch.allow_of_covers ?_; decide +kernel)

theorem execArm_only (e : LinkEnd) (r : SbSlot) (s : State) : OnlyO (touched (.arm e r)).has s (execArm e r s) := by
  unfold execArm
  repeat' first
    | (with_reducible first | exact Only.refl _ | assumption | apply OnlyO.next | apply OnlyO.ite | apply Only.ite
                            | apply Only.armTakes | apply Only.sbSend | apply Only.armFromTray | apply Only.freeze
                            | apply Only.armReply)
    | (refine Touch.allow_of_covers ?_; decide +kernel) | exact Touch.anyReg_has rfl
    | refine Only.of_eq (by assumption) ?_ | split

theorem execConfirm_only (e : LinkEnd) (r : SbSlot) (s : State) :
    OnlyO (touched (.confirm e r)).has s (execConfirm e r s) := by
  unfold execConfirm
  repeat' first
    | (with_reducible first | exact Only.refl _ | assumption | apply OnlyO.next | apply OnlyO.ite | apply Only.ite
                            | apply Only.armTakes | apply Only.sbSend | apply Only.armUp | apply Only.takePkgConfirm
                            | apply Only.takeConfirm)
    | (refine Touch.allow_of_covers ?_; decide +kernel) | exact Touch.anyReg_has rfl
    | refine Only.of_eq (by assumption) ?_ | split

theorem execPackageConfirm_only (s : State) : OnlyO (touched .packageConfirm).has s (execPackageConfirm s) := by
  unfold execPackageConfirm
  repeat' first
    | (with_reducible first | exact Only.refl _ | assumption | apply OnlyO.next | apply OnlyO.ite | apply Only.ite
                            | apply Only.armUp | apply Only.setF)
    | (refine Touch.allow_of_covers ?_; decide +kernel) | exact Touch.anyReg_has rfl
    | refine Only.of_eq (by assumption) ?_
    | split | dsimp only
    | (with_reducible apply Only.mk_same) <;>
        first | with_reducible exact .inl rfl | exact .inr (Touch.has_of_covers (by decide +kernel)) | skip

theorem execArmDecision_only (s : State) : OnlyO (touched .armDecision).has s (execArmDecision s) := by
  unfold execArmDecision
  repeat' first
    | (with_reducible first | exact Only.refl _ | assumption | apply OnlyO.next | apply OnlyO.ite | apply Only.ite
                            | apply Only.commitSet | apply Only.abortSet)
    | (refine Touch.allow_of_covers ?_; decide +kernel)

theorem execCommit_only (e : LinkEnd) (r : SbSlot) (s : State) :
    OnlyO (touched (.commit e r)).has s (execCommit e r s) := by
  unfold execCommit
  repeat' first
    | (with_reducible first | exact Only.refl _ | assumption | apply OnlyO.next | apply OnlyO.ite | apply Only.ite
                            | apply Only.armTakes | apply Only.sbSend | apply Only.commitSet | apply Only.setPart)
    | (refine Touch.allow_of_covers ?_; decide +kernel) | exact Touch.anyReg_has rfl
    | refine Only.of_eq (by assumption) ?_ | split

theorem execAbort_only (e : LinkEnd) (r : SbSlot) (s : State) :
    OnlyO (touched (.abort e r)).has s (execAbort e r s) := by
  unfold execAbort
  repeat' first
    | (with_reducible first | exact Only.refl _ | assumption | apply OnlyO.next | apply OnlyO.ite | apply Only.ite
                            | apply Only.armTakes | apply Only.sbSend | apply Only.abortSet | apply Only.setPart)
    | (refine Touch.allow_of_covers ?_; decide +kernel) | exact Touch.anyReg_has rfl
    | refine Only.of_eq (by assumption) ?_ | split

theorem execChangeSetApply_only (s : State) : OnlyO (touched .changeSetApply).has s (execChangeSetApply s) := by
  unfold execChangeSetApply
  repeat' first
    | (with_reducible first | exact Only.refl _ | assumption | apply OnlyO.next | apply OnlyO.ite | apply Only.ite
                            | apply Only.dropReturned | apply Only.partDue | apply Only.endSet | apply Only.foldl)
    | (refine Touch.allow_of_covers ?_; decide +kernel) | exact Touch.anyReg_has rfl
    | refine Only.of_eq (by assumption) ?_ | split
    | dsimp only | intro _

theorem execHeartbeatSend_only (m : Mv) (s : State) :
    OnlyO (touched (.heartbeatSend m)).has s (execHeartbeatSend m s) := by
  unfold execHeartbeatSend
  repeat' first
    | (with_reducible first | exact Only.refl _ | assumption | apply OnlyO.next | apply OnlyO.ite | apply Only.ite
                            | apply Only.sbSend | apply Only.partitionDone)
    | (refine Touch.allow_of_covers ?_; decide +kernel)

theorem execHeartbeatCheck_only (m : Mv) (s : State) :
    OnlyO (touched (.heartbeatCheck m)).has s (execHeartbeatCheck m s) := by
  unfold execHeartbeatCheck
  repeat' first
    | (with_reducible first | exact Only.refl _ | assumption | apply OnlyO.next | apply OnlyO.ite | apply Only.ite
                            | apply Only.setF | apply Only.trigger)
    | (refine Touch.allow_of_covers ?_; decide +kernel)

theorem execHeartbeatStateSend_only (m : Mv) (s : State) :
    OnlyO (touched (.heartbeatStateSend m)).has s (execHeartbeatStateSend m s) := by
  unfold execHeartbeatStateSend
  repeat' first
    | (with_reducible first | exact Only.refl _ | assumption | apply OnlyO.next | apply OnlyO.ite | apply Only.ite
                            | apply Only.setF | apply Only.sbSend)
    | (refine Touch.allow_of_covers ?_; decide +kernel)

theorem execFaultGranuleWrite_only (m : Mv) (s : State) :
    OnlyO (touched (.faultGranuleWrite m)).has s (execFaultGranuleWrite m s) := by
  unfold execFaultGranuleWrite
  repeat' first
    | (with_reducible first | exact Only.refl _ | assumption | apply OnlyO.next | apply OnlyO.ite | apply Only.ite
                            | apply Only.wrBytes)
    | (refine Touch.allow_of_covers ?_; decide +kernel) | exact Touch.anyReg_has rfl
    | refine Only.of_eq (by assumption) ?_
    | split | dsimp only

theorem execWatchdogKick_only (c : Crown) (s : State) :
    OnlyO (touched (.watchdogKick c)).has s (execWatchdogKick c s) := by
  unfold execWatchdogKick
  repeat' first
    | (with_reducible first | exact Only.refl _ | assumption | apply OnlyO.next | apply OnlyO.ite | apply Only.ite)
    | (refine Touch.allow_of_covers ?_; decide +kernel) | exact Touch.anyReg_has rfl
    | refine Only.of_eq (by assumption) ?_
    | split | dsimp only
    | (with_reducible apply Only.mk_same) <;>
        first | with_reducible exact .inl rfl | exact .inr (Touch.has_of_covers (by decide +kernel)) | skip

theorem execWatchdogExpiry_only (c : Crown) (s : State) :
    OnlyO (touched (.watchdogExpiry c)).has s (execWatchdogExpiry c s) := by
  unfold execWatchdogExpiry
  repeat' first
    | (with_reducible first | exact Only.refl _ | assumption | apply OnlyO.next | apply OnlyO.ite | apply Only.ite
                            | apply Only.setF | apply Only.powerCycle)
    | (refine Touch.allow_of_covers ?_; decide +kernel)

theorem execContextRelease_only (w : Word) (s : State) :
    OnlyO (touched (.contextRelease w)).has s (execContextRelease w s) := by
  unfold execContextRelease
  repeat' first
    | (with_reducible first | exact Only.refl _ | assumption | apply OnlyO.next | apply OnlyO.ite | apply Only.ite
                            | apply Only.releaseMask)
    | (refine Touch.allow_of_covers ?_; decide +kernel)

theorem execEngineHangDetect_only (m : Mv) (u : Fin 22) (s : State) :
    OnlyO (touched (.engineHangDetect m u)).has s (execEngineHangDetect m u s) := by
  unfold execEngineHangDetect
  repeat' first
    | (with_reducible first | exact Only.refl _ | assumption | apply OnlyO.next | apply OnlyO.ite | apply Only.ite
                            | apply Only.replayHit | apply Only.noteSuspects | apply Only.trigger)
    | (refine Touch.allow_of_covers ?_; decide +kernel)

theorem execRecoveryFenceEnd_only (k : Fin 5) (s : State) :
    OnlyO (touched (.recoveryFenceEnd k)).has s (execRecoveryFenceEnd k s) := by
  unfold execRecoveryFenceEnd
  repeat' first
    | (with_reducible first | exact Only.refl _ | assumption | apply OnlyO.next | apply OnlyO.ite | apply Only.ite
                            | apply Only.setDom | apply Only.fenceDie | apply Only.foldl)
    | (refine Touch.allow_of_covers ?_; decide +kernel) | exact Touch.anyReg_has rfl
    | refine Only.of_eq (by assumption) ?_ | split
    | dsimp only | intro _

theorem execCrashDumpDone_only (m : Mv) (s : State) :
    OnlyO (touched (.crashDumpDone m)).has s (execCrashDumpDone m s) := by
  unfold execCrashDumpDone
  extract_lets d p x replays done
  have hdone (t : State) (ht : Only (touched (.crashDumpDone m)).has s t) :
      Only (touched (.crashDumpDone m)).has s (done t) := by
    apply Only.mk_same ht <;>
      first | with_reducible exact .inl rfl | exact .inr (Touch.has_of_covers (by decide +kernel))
  clear_value done
  repeat' first
    | (with_reducible first | exact Only.refl _ | assumption | apply OnlyO.next | apply OnlyO.ite | apply Only.ite
                            | apply Only.handUp | apply Only.dump | apply Only.resetMvc | apply Only.restartCtl
                            | apply Only.setDom | apply Only.resetEngine | apply hdone)
    | (refine Touch.allow_of_covers ?_; decide +kernel)

theorem execChipReset_only (s : State) : OnlyO (touched .chipReset).has s (execChipReset s) := by
  unfold execChipReset
  repeat' first
    | (with_reducible first | exact Only.refl _ | assumption | apply OnlyO.next | apply OnlyO.ite | apply Only.ite
                            | apply Only.outOfServiceNow | apply Only.handUp | apply Only.chipReset
                            | apply Only.bumpF | apply Only.endChip | apply Only.setDom | apply Only.setPhase)
    | (refine Touch.allow_of_covers ?_; decide +kernel) | exact Touch.anyReg_has rfl
    | refine Only.of_eq (by assumption) ?_
    | split | dsimp only
    | (with_reducible apply Only.mk_same) <;>
        first | with_reducible exact .inl rfl | exact .inr (Touch.has_of_covers (by decide +kernel)) | skip

theorem execRecoveryBoundExpiry_only (k : Fin 5) (s : State) :
    OnlyO (touched (.recoveryBoundExpiry k)).has s (execRecoveryBoundExpiry k s) := by
  unfold execRecoveryBoundExpiry
  repeat' first
    | (with_reducible first | exact Only.refl _ | assumption | apply OnlyO.next | apply OnlyO.ite | apply Only.ite
                            | apply Only.handUp)
    | (refine Touch.allow_of_covers ?_; decide +kernel)

theorem execReplayStart_only (m : Mv) (s : State) : OnlyO (touched (.replayStart m)).has s (execReplayStart m s) := by
  unfold execReplayStart
  repeat' first
    | (with_reducible first | exact Only.refl _ | assumption | apply OnlyO.next | apply OnlyO.ite | apply Only.ite
                            | apply Only.wrBytes | apply Only.setReplay | apply Only.askToken
                            | apply Only.nextSuspect | apply Only.replayVerdict)
    | (refine Touch.allow_of_covers ?_; decide +kernel) | exact Touch.anyReg_has rfl
    | refine Only.of_eq (by assumption) ?_
    | split | dsimp only

theorem execReplaySuspectEnd_only (m : Mv) (s : State) :
    OnlyO (touched (.replaySuspectEnd m)).has s (execReplaySuspectEnd m s) := by
  unfold execReplaySuspectEnd
  repeat' first
    | (with_reducible first | exact Only.refl _ | assumption | apply OnlyO.next | apply OnlyO.ite | apply Only.ite
                            | apply Only.returnToken | apply Only.setReplay | apply Only.log | apply Only.setF
                            | apply Only.resetReplay | apply Only.nextSuspect)
    | (refine Touch.allow_of_covers ?_; decide +kernel) | exact Touch.anyReg_has rfl
    | refine Only.of_eq (by assumption) ?_
    | split | dsimp only

theorem execDomainRejoin_only (m : Mv) (s : State) :
    OnlyO (touched (.domainRejoin m)).has s (execDomainRejoin m s) := by
  unfold execDomainRejoin
  repeat' first
    | (with_reducible first | exact Only.refl _ | assumption | apply OnlyO.next | apply OnlyO.ite | apply Only.ite
                            | apply Only.setDom | apply Only.showLevel | apply Only.endHold | apply Only.foldl)
    | (refine Touch.allow_of_covers ?_; decide +kernel) | exact Touch.anyReg_has rfl
    | refine Only.of_eq (by assumption) ?_ | split
    | dsimp only | intro _
    | (with_reducible apply Only.mk_same) <;>
        first | with_reducible exact .inl rfl | exact .inr (Touch.has_of_covers (by decide +kernel)) | skip

theorem execPackageHeartbeat_only (n : Fin 8) (r : SbSlot) (s : State) :
    OnlyO (touched (.packageHeartbeat n r)).has s (execPackageHeartbeat n r s) := by
  unfold execPackageHeartbeat
  repeat' first
    | (with_reducible first | exact Only.refl _ | assumption | apply OnlyO.next | apply OnlyO.ite | apply Only.ite
                            | apply Only.sbTakes | apply Only.takePkgBeat)
    | (refine Touch.allow_of_covers ?_; decide +kernel) | exact Touch.anyReg_has rfl
    | refine Only.of_eq (by assumption) ?_ | split

theorem execTrayOrder_only (n : Fin 8) (r : SbSlot) (s : State) :
    OnlyO (touched (.trayOrder n r)).has s (execTrayOrder n r s) := by
  unfold execTrayOrder
  repeat' first
    | (with_reducible first | exact Only.refl _ | assumption | apply OnlyO.next | apply OnlyO.ite | apply Only.ite
                            | apply Only.sbTakes | apply Only.sbSend | apply Only.trayStop | apply Only.foldl)
    | (refine Touch.allow_of_covers ?_; decide +kernel) | exact Touch.anyReg_has rfl
    | refine Only.of_eq (by assumption) ?_ | split
    | dsimp only | intro _
    | (with_reducible apply Only.mk_same) <;>
        first | with_reducible exact .inl rfl | exact .inr (Touch.has_of_covers (by decide +kernel)) | skip

theorem execTrayStop_only (s : State) : OnlyO (touched .trayStop).has s (execTrayStop s) := by
  unfold execTrayStop
  repeat' first
    | (with_reducible first | exact Only.refl _ | assumption | apply OnlyO.next | apply OnlyO.ite | apply Only.ite
                            | apply Only.trayStop)
    | (refine Touch.allow_of_covers ?_; decide +kernel)

theorem execOosClear_only (s : State) : OnlyO (touched .oosClear).has s (execOosClear s) := by
  unfold execOosClear
  repeat' first
    | (with_reducible first | exact Only.refl _ | assumption | apply OnlyO.next | apply OnlyO.ite | apply Only.ite
                            | apply Only.oosClear)
    | (refine Touch.allow_of_covers ?_; decide +kernel)

theorem execForceEngineReset_only (die : Fin 8) (eng : Fin 16) (s : State) :
    OnlyO (touched (.forceEngineReset die eng)).has s (execForceEngineReset die eng s) := by
  unfold execForceEngineReset
  repeat' first
    | (with_reducible first | exact Only.refl _ | assumption | apply OnlyO.next | apply OnlyO.ite | apply Only.ite
                            | apply Only.force)
    | (refine Touch.allow_of_covers ?_; decide +kernel)

theorem execForcePartitionReset_only (die : Fin 8) (s : State) :
    OnlyO (touched (.forcePartitionReset die)).has s (execForcePartitionReset die s) := by
  unfold execForcePartitionReset
  repeat' first
    | (with_reducible first | exact Only.refl _ | assumption | apply OnlyO.next | apply OnlyO.ite | apply Only.ite
                            | apply Only.force)
    | (refine Touch.allow_of_covers ?_; decide +kernel)

theorem execForceChipReset_only (die : Fin 8) (s : State) :
    OnlyO (touched (.forceChipReset die)).has s (execForceChipReset die s) := by
  unfold execForceChipReset
  repeat' first
    | (with_reducible first | exact Only.refl _ | assumption | apply OnlyO.next | apply OnlyO.ite | apply Only.ite
                            | apply Only.force)
    | (refine Touch.allow_of_covers ?_; decide +kernel)

theorem execSmbusWrite_only (a : Word) (w : Word) (pec : Bool) (s : State) :
    OnlyO (touched (.smbusWrite a w pec)).has s (execSmbusWrite a w pec s) := by
  unfold execSmbusWrite
  repeat' first
    | (with_reducible first | exact Only.refl _ | assumption | apply OnlyO.next | apply OnlyO.ite | apply Only.ite
                            | apply Only.restartWrite | apply Only.msWrite)
    | (refine Touch.allow_of_covers ?_; decide +kernel) | exact Touch.anyReg_has rfl
    | refine Only.of_eq (by assumption) ?_
    | split | dsimp only
    | (with_reducible apply Only.mk_same) <;>
        first | with_reducible exact .inl rfl | exact .inr (Touch.has_of_covers (by decide +kernel)) | skip

theorem execSmbusSetPointer_only (a : Word) (pec : Bool) (s : State) :
    OnlyO (touched (.smbusSetPointer a pec)).has s (execSmbusSetPointer a pec s) := by
  unfold execSmbusSetPointer
  repeat' first
    | (with_reducible first | exact Only.refl _ | assumption | apply OnlyO.next | apply OnlyO.ite | apply Only.ite)
    | (refine Touch.allow_of_covers ?_; decide +kernel) | exact Touch.anyReg_has rfl
    | refine Only.of_eq (by assumption) ?_
    | split | dsimp only
    | (with_reducible apply Only.mk_same) <;>
        first | with_reducible exact .inl rfl | exact .inr (Touch.has_of_covers (by decide +kernel)) | skip

theorem execSmbusRead_only (s : State) : OnlyO (touched .smbusRead).has s (execSmbusRead s) := by
  unfold execSmbusRead
  repeat' first
    | (with_reducible first | exact Only.refl _ | assumption | apply OnlyO.next | apply OnlyO.ite | apply Only.ite
                            | apply Only.smRead | apply Only.putRd)
    | (refine Touch.allow_of_covers ?_; decide +kernel) | exact Touch.anyReg_has rfl
    | refine Only.of_eq (by assumption) ?_
    | split | dsimp only
    | (with_reducible apply Only.mk_same) <;>
        first | with_reducible exact .inl rfl | exact .inr (Touch.has_of_covers (by decide +kernel)) | skip

theorem execPwrFailRelease_only (variant : Fin 4) (pkg : Fin 16) (refSel : Bool) (s : State) :
    OnlyO (touched (.pwrFailRelease variant pkg refSel)).has s (execPwrFailRelease variant pkg refSel s) := by
  unfold execPwrFailRelease
  repeat' first
    | (with_reducible first | exact Only.refl _ | assumption | apply OnlyO.next | apply OnlyO.ite | apply Only.ite
                            | apply Only.sampleStraps)
    | (refine Touch.allow_of_covers ?_; decide +kernel) | exact Touch.anyReg_has rfl

theorem execMsRead_only (c : Crown) (a : Word) (s : State) :
    OnlyO (touched (.msRead c a)).has s (execMsRead c a s) := by
  unfold execMsRead
  repeat' first
    | (with_reducible first | exact Only.refl _ | assumption | apply OnlyO.next | apply OnlyO.ite | apply Only.ite
                            | apply Only.msRead | apply Only.putRd | apply Only.badAccess)
    | (refine Touch.allow_of_covers ?_; decide +kernel)

theorem execConfigurationRequest_only (c : Crown) (q : CfgReq) (s : State) :
    OnlyO (touched (.configurationRequest c q)).has s (execConfigurationRequest c q s) := by
  unfold execConfigurationRequest
  repeat' first
    | (with_reducible first | exact Only.refl _ | assumption | apply OnlyO.next | apply OnlyO.ite | apply Only.ite
                            | apply Only.setHost | apply Only.bar4Word | apply Only.draw)
    | (refine Touch.allow_of_covers ?_; decide +kernel) | exact Touch.anyReg_has rfl
    | refine Only.of_eq (by assumption) ?_ | split

theorem execPrivateInstruction_only (op : PrivOp) (tdi : List Bool) (s : State) :
    OnlyO (touched (.privateInstruction op tdi)).has s (execPrivateInstruction op tdi s) := by
  unfold execPrivateInstruction
  repeat' first
    | (with_reducible first | exact Only.refl _ | assumption | apply OnlyO.next | apply OnlyO.ite | apply Only.ite
                            | apply Only.msRead | apply Only.tapBypass | apply Only.putRd | apply Only.tapShift)
    | (refine Touch.allow_of_covers ?_; decide +kernel) | exact Touch.anyReg_has rfl
    | refine Only.of_eq (by assumption) ?_
    | split | dsimp only
    | (with_reducible apply Only.mk_same) <;>
        first | with_reducible exact .inl rfl | exact .inr (Touch.has_of_covers (by decide +kernel)) | skip

theorem execAbortedArmRearm_only (s : State) : OnlyO (touched .abortedArmRearm).has s (execAbortedArmRearm s) := by
  unfold execAbortedArmRearm
  repeat' first
    | (with_reducible first | exact Only.refl _ | assumption | apply OnlyO.next | apply OnlyO.ite | apply Only.ite
                            | apply Only.armActivation)
    | (refine Touch.allow_of_covers ?_; decide +kernel) | exact Touch.anyReg_has rfl
    | refine Only.of_eq (by assumption) ?_
    | split | dsimp only
    | (with_reducible apply Only.mk_same) <;>
        first | with_reducible exact .inl rfl | exact .inr (Touch.has_of_covers (by decide +kernel)) | skip

/-! ### All commands -/

/-- A command changes only parts that its frame lists. -/
theorem exec_only (c : Instr) (s : State) : OnlyO (touched c).has s (exec c s) :=
  match c with
  | .powerOnReset c => execPowerOnReset_only c s
  | .monitorGood m mv variant pkg refSel pfLow => execMonitorGood_only m mv variant pkg refSel pfLow s
  | .monitorNotGood m mv => execMonitorNotGood_only m mv s
  | .monitorBandTimeout m mv => execMonitorBandTimeout_only m mv s
  | .referenceDetect => execReferenceDetect_only s
  | .referenceTimeout => execReferenceTimeout_only s
  | .pllLock d => execPllLock_only d s
  | .pllLockTimeout d => execPllLockTimeout_only d s
  | .flashDiscover f => execFlashDiscover_only f s
  | .flashPass copyA copyB fw seedBytes cr1fw cr1Seeds ports => execFlashPass_only copyA copyB fw seedBytes cr1fw cr1Seeds ports s
  | .flashPassResume image => execFlashPassResume_only image s
  | .domainSwitchRequest w => execDomainSwitchRequest_only w s
  | .domainOn ok => execDomainOn_only ok s
  | .perstDeassert c width speed => execPerstDeassert_only c width speed s
  | .hbmTrainingDone m stack ok => execHbmTrainingDone_only m stack ok s
  | .imageLoad img ldgOk => execImageLoad_only img ldgOk s
  | .imageLoadHost => execImageLoadHost_only s
  | .imageUnload => execImageUnload_only s
  | .imageStop => execImageStop_only s
  | .loadReport pkg hash => execLoadReport_only pkg hash s
  | .imageActivate => execImageActivate_only s
  | .restart => execRestart_only s
  | .rollbackCommit w => execRollbackCommit_only w s
  | .rollbackCommitDone => execRollbackCommitDone_only s
  | .flashRead => execFlashRead_only s
  | .flashProgram => execFlashProgram_only s
  | .flashErase => execFlashErase_only s
  | .flashStatus => execFlashStatus_only s
  | .flashCommandDone err data => execFlashCommandDone_only err data s
  | .debugTokenSubmit => execDebugTokenSubmit_only s
  | .jtagUnlock token => execJtagUnlock_only token s
  | .debugLock => execDebugLock_only s
  | .debugLifetimeExpiry => execDebugLifetimeExpiry_only s
  | .bypass tdi => execBypass_only tdi s
  | .idcode tdi => execIdcode_only tdi s
  | .samplePreload tdi => execSamplePreload_only tdi s
  | .extest tdi => execExtest_only tdi s
  | .clamp tdi => execClamp_only tdi s
  | .highz tdi => execHighz_only tdi s
  | .msBadAccess c rd => execMsBadAccess_only c rd s
  | .registerWrite c a w ok => execRegisterWrite_only c a w ok s
  | .beatLoRead p d => execBeatLoRead_only p d s
  | .functionEnable d fn inst ok => execFunctionEnable_only d fn inst ok s
  | .functionDisable d fn inst => execFunctionDisable_only d fn inst s
  | .beatLoadSend d => execBeatLoadSend_only d s
  | .beatLoad e r => execBeatLoad_only e r s
  | .beatSyncAttempt n => execBeatSyncAttempt_only n s
  | .beatSyncReq n r => execBeatSyncReq_only n r s
  | .beatSyncResp n r stamp err => execBeatSyncResp_only n r stamp err s
  | .beatSyncTimeout n => execBeatSyncTimeout_only n s
  | .syncPortLoss => execSyncPortLoss_only s
  | .syncHoldoverExpiry => execSyncHoldoverExpiry_only s
  | .servoMapUpdate => execServoMapUpdate_only s
  | .taiMapSend e => execTaiMapSend_only e s
  | .taiMapApply d => execTaiMapApply_only d s
  | .hackStart => execHackStart_only s
  | .hackEnd => execHackEnd_only s
  | .cdcStale d kind blk inst => execCdcStale_only d kind blk inst s
  | .cdcStaleTurnExpiry d accepted => execCdcStaleTurnExpiry_only d accepted s
  | .ptrReq e r => execPtrReq_only e r s
  | .ptrResp e r => execPtrResp_only e r s
  | .pointerSet e => execPointerSet_only e s
  | .ptrHandshakeTimeout e => execPtrHandshakeTimeout_only e s
  | .fpResetReq e r => execFpResetReq_only e r s
  | .fpJointResetRelease f => execFpJointResetRelease_only f s
  | .resetRetry e => execResetRetry_only e s
  | .trainingTimeout e => execTrainingTimeout_only e s
  | .searchPointEnd e b bits eyes taps snr => execSearchPointEnd_only e b bits eyes taps snr s
  | .ckCountCheck e counts => execCkCountCheck_only e counts s
  | .lanetestEnd e bits => execLanetestEnd_only e bits s
  | .lanetestExit e => execLanetestExit_only e s
  | .lanemap e r => execLanemap_only e r s
  | .lanemapApply e => execLanemapApply_only e s
  | .frameMarker e unit seg => execFrameMarker_only e unit seg s
  | .sidebandContainer e r => execSidebandContainer_only e r s
  | .sidebandSlotTransmit e => execSidebandSlotTransmit_only e s
  | .sbAck e r => execSbAck_only e r s
  | .sbMessageRepeat e => execSbMessageRepeat_only e s
  | .sbAckTimeout e => execSbAckTimeout_only e s
  | .bundleRetire e r => execBundleRetire_only e r s
  | .bundleTxStop e b => execBundleTxStop_only e b s
  | .pinProbe e r => execPinProbe_only e r s
  | .pinEcho e r arrivals => execPinEcho_only e r arrivals s
  | .flitReceive e b lanes => execFlitReceive_only e b lanes s
  | .laneNoTransition e b lane ui => execLaneNoTransition_only e b lane ui s
  | .errWindowRoll e => execErrWindowRoll_only e s
  | .laneRepair e r => execLaneRepair_only e r s
  | .jewelStreamStart e b => execJewelStreamStart_only e b s
  | .laneRepairTakeover e b => execLaneRepairTakeover_only e b s
  | .laneRepairTxCutover e b => execLaneRepairTxCutover_only e b s
  | .jewelRecentre e b jewel delay thresh bits => execJewelRecentre_only e b jewel delay thresh bits s
  | .recalGo e => execRecalGo_only e s
  | .recalArm e r => execRecalArm_only e r s
  | .recalArmDeadline e => execRecalArmDeadline_only e s
  | .recalStart e => execRecalStart_only e s
  | .recalLanetestStart e => execRecalLanetestStart_only e s
  | .recalReturnMission e near far => execRecalReturnMission_only e near far s
  | .recalEnd e near far => execRecalEnd_only e near far s
  | .scNak e r => execScNak_only e r s
  | .slotTransmit e b => execSlotTransmit_only e b s
  | .scHoldExpiry e => execScHoldExpiry_only e s
  | .scResendDeadline e => execScResendDeadline_only e s
  | .scLostBundleReport e => execScLostBundleReport_only e s
  | .ucAck e r => execUcAck_only e r s
  | .credit e r => execCredit_only e r s
  | .ucReplayTimeout e b => execUcReplayTimeout_only e b s
  | .ucRequeue e => execUcRequeue_only e s
  | .variantSelect d => execVariantSelect_only d s
  | .lossNotice e payload => execLossNotice_only e payload s
  | .gtrTableWrite d w => execGtrTableWrite_only d w s
  | .gtrTableRead p d => execGtrTableRead_only p d s
  | .beaconBurst n => execBeaconBurst_only n s
  | .beaconBlock n block locked => execBeaconBlock_only n block locked s
  | .noPartnerSignal n => execNoPartnerSignal_only n s
  | .seekTimeout n => execSeekTimeout_only n s
  | .partnerSignalLost n => execPartnerSignalLost_only n s
  | .trayLossNotice e payload => execTrayLossNotice_only e payload s
  | .startWindowEnd c => execStartWindowEnd_only c s
  | .trayVariantSelect c => execTrayVariantSelect_only c s
  | .tryTableWrite c w => execTryTableWrite_only c w s
  | .tryTableRead p c => execTryTableRead_only p c s
  | .runSelect m e => execRunSelect_only m e s
  | .descriptorStart m e o => execDescriptorStart_only m e o s
  | .descriptorComplete m u => execDescriptorComplete_only m u s
  | .descriptorBoundExpiry m u => execDescriptorBoundExpiry_only m u s
  | .doorbellRing m w => execDoorbellRing_only m w s
  | .counterSignal m n value => execCounterSignal_only m n value s
  | .synCtrWrite m n w => execSynCtrWrite_only m n w s
  | .barrierArrival m ctx => execBarrierArrival_only m ctx s
  | .lockstepMismatch m => execLockstepMismatch_only m s
  | .write d cmd data bad dead => execWrite_only d cmd data bad dead s
  | .signal m cmd => execSignal_only m cmd s
  | .read d cmd bad corr => execRead_only d cmd bad corr s
  | .readData d cmd data => execReadData_only d cmd data s
  | .fenceProbe d cmd => execFenceProbe_only d cmd s
  | .fenceResp d cmd => execFenceResp_only d cmd s
  | .fenceProbeRetry d ctx => execFenceProbeRetry_only d ctx s
  | .pwFail d cmd full => execPwFail_only d cmd full s
  | .scrubPass m hbm bad corr => execScrubPass_only m hbm bad corr s
  | .bar2Write c x bytes => execBar2Write_only c x bytes s
  | .bar2Read c id x len => execBar2Read_only c id x len s
  | .bar2ReadAbort c id => execBar2ReadAbort_only c id s
  | .functionLevelReset c kind => execFunctionLevelReset_only c kind s
  | .hostReadCompletion c id status bytes => execHostReadCompletion_only c id status bytes s
  | .hostReadTimeout c id => execHostReadTimeout_only c id s
  | .msixMessage c v => execMsixMessage_only c v s
  | .ethFrameReceive c p frame => execEthFrameReceive_only c p frame s
  | .ptpSyncTimeout => execPtpSyncTimeout_only s
  | .leapSecond => execLeapSecond_only s
  | .outputGuardStart o => execOutputGuardStart_only o s
  | .resultOutput o => execResultOutput_only o s
  | .ethTableRead p c => execEthTableRead_only p c s
  | .snapshotLimitClose c g => execSnapshotLimitClose_only c g s
  | .snapshotSelect c g => execSnapshotSelect_only c g s
  | .snapshotRelease c g => execSnapshotRelease_only c g s
  | .residualBatchStart c g => execResidualBatchStart_only c g s
  | .calibBatchApply c g => execCalibBatchApply_only c g s
  | .modeSetProcess c => execModeSetProcess_only c s
  | .trackTablePublish c => execTrackTablePublish_only c s
  | .fusTableWrite c w => execFusTableWrite_only c w s
  | .fusTableRead p c => execFusTableRead_only p c s
  | .tariffChangeEffect => execTariffChangeEffect_only s
  | .intervalClose => execIntervalClose_only s
  | .setpointSetProcess => execSetpointSetProcess_only s
  | .setpointSetEffective => execSetpointSetEffective_only s
  | .ledgerOpen => execLedgerOpen_only s
  | .intervalCommit bad => execIntervalCommit_only bad s
  | .intervalCommitDone bad => execIntervalCommitDone_only bad s
  | .tableImageWrite bad => execTableImageWrite_only bad s
  | .ledgerOutputCopy => execLedgerOutputCopy_only s
  | .ldgTableWrite w => execLdgTableWrite_only w s
  | .ldgTableRead p => execLdgTableRead_only p s
  | .ldgFramReadStart w => execLdgFramReadStart_only w s
  | .ldgFramReadDone => execLdgFramReadDone_only s
  | .budgetWrite w => execBudgetWrite_only w s
  | .budgetReport d meas => execBudgetReport_only d meas s
  | .grantAllocation => execGrantAllocation_only s
  | .budgetGrant e r => execBudgetGrant_only e r s
  | .allowanceTake d => execAllowanceTake_only d s
  | .tokenGrant d => execTokenGrant_only d s
  | .admissionWaitTimeout d => execAdmissionWaitTimeout_only d s
  | .thermalSample d tj h0 h1 => execThermalSample_only d tj h0 h1 s
  | .thermalShutdown => execThermalShutdown_only s
  | .powerFail cause => execPowerFail_only cause s
  | .powerFailDomainsOff => execPowerFailDomainsOff_only s
  | .ledgerHaltedCrfOff => execLedgerHaltedCrfOff_only s
  | .powerReturn => execPowerReturn_only s
  | .railSample mv => execRailSample_only mv s
  | .armGo w => execArmGo_only w s
  | .armDiscard w => execArmDiscard_only w s
  | .arm e r => execArm_only e r s
  | .confirm e r => execConfirm_only e r s
  | .packageConfirm => execPackageConfirm_only s
  | .armDecision => execArmDecision_only s
  | .commit e r => execCommit_only e r s
  | .abort e r => execAbort_only e r s
  | .changeSetApply => execChangeSetApply_only s
  | .heartbeatSend m => execHeartbeatSend_only m s
  | .heartbeatCheck m => execHeartbeatCheck_only m s
  | .heartbeatStateSend m => execHeartbeatStateSend_only m s
  | .faultGranuleWrite m => execFaultGranuleWrite_only m s
  | .watchdogKick c => execWatchdogKick_only c s
  | .watchdogExpiry c => execWatchdogExpiry_only c s
  | .contextRelease w => execContextRelease_only w s
  | .engineHangDetect m u => execEngineHangDetect_only m u s
  | .recoveryFenceEnd k => execRecoveryFenceEnd_only k s
  | .crashDumpDone m => execCrashDumpDone_only m s
  | .chipReset => execChipReset_only s
  | .recoveryBoundExpiry k => execRecoveryBoundExpiry_only k s
  | .replayStart m => execReplayStart_only m s
  | .replaySuspectEnd m => execReplaySuspectEnd_only m s
  | .domainRejoin m => execDomainRejoin_only m s
  | .packageHeartbeat n r => execPackageHeartbeat_only n r s
  | .trayOrder n r => execTrayOrder_only n r s
  | .trayStop => execTrayStop_only s
  | .oosClear => execOosClear_only s
  | .forceEngineReset die eng => execForceEngineReset_only die eng s
  | .forcePartitionReset die => execForcePartitionReset_only die s
  | .forceChipReset die => execForceChipReset_only die s
  | .smbusWrite a w pec => execSmbusWrite_only a w pec s
  | .smbusSetPointer a pec => execSmbusSetPointer_only a pec s
  | .smbusRead => execSmbusRead_only s
  | .pwrFailRelease variant pkg refSel => execPwrFailRelease_only variant pkg refSel s
  | .msRead c a => execMsRead_only c a s
  | .configurationRequest c q => execConfigurationRequest_only c q s
  | .privateInstruction op tdi => execPrivateInstruction_only op tdi s
  | .abortedArmRearm => execAbortedArmRearm_only s

theorem only_of_exec {c : Instr} {s t : State} (h : exec c s = .next t) : Only (touched c).has s t := by
  have g := exec_only c s
  rw [h] at g
  cases g with
  | next ho => exact ho

/-- The queue and the clock are kept by `Kept`, the other parts by `Only`. -/
theorem keepsRest (c : Instr) : KeepsRest c := fun _ _ h =>
  ⟨(kept_of_exec h).queue, (kept_of_exec h).clock, (only_of_exec h).same⟩

/-- Settles O41: the law of all commands, for each of these. -/
theorem framesOfTimeAndTraining : Obligations.FramesOfTimeAndTraining := by
  unfold Obligations.FramesOfTimeAndTraining
  repeat' apply And.intro
  all_goals intros; exact keepsRest _

/-- Settles O42: the law of all commands, for each of these. -/
theorem framesOfLinks : Obligations.FramesOfLinks := by
  unfold Obligations.FramesOfLinks
  repeat' apply And.intro
  all_goals intros; exact keepsRest _

/-- Settles O43: the law of all commands, for each of these. -/
theorem framesOfPowerAndMessages : Obligations.FramesOfPowerAndMessages := by
  unfold Obligations.FramesOfPowerAndMessages
  repeat' apply And.intro
  all_goals intros; exact keepsRest _

/-- Settles O44: the law of all commands, for each of these. -/
theorem framesOfEnginesAndHost : Obligations.FramesOfEnginesAndHost := by
  unfold Obligations.FramesOfEnginesAndHost
  repeat' apply And.intro
  all_goals intros; exact keepsRest _

/-- Settles O45: the law of all commands, for each of these. -/
theorem framesOfRecovery : Obligations.FramesOfRecovery := by
  unfold Obligations.FramesOfRecovery
  repeat' apply And.intro
  all_goals intros; exact keepsRest _

/-- Settles O46: the law of all commands, for each of these. -/
theorem framesOfSensorsAndLedger : Obligations.FramesOfSensorsAndLedger := by
  unfold Obligations.FramesOfSensorsAndLedger
  repeat' apply And.intro
  all_goals intros; exact keepsRest _

/-- Settles O47: the law of all commands, for each of these. -/
theorem framesOfStartUpAndChange : Obligations.FramesOfStartUpAndChange := by
  unfold Obligations.FramesOfStartUpAndChange
  repeat' apply And.intro
  all_goals intros; exact keepsRest _

end Sys2Proof.Machine
end

section
/-! SUPPORT. Reading one part of the state through an operation that leaves it alone, and the rules of the operations that many
commands share. -/

namespace Sys2Proof.Machine

variable {s t : State}

/-! ### One part left alone -/

/-- Every part of the state but one. -/
def Field.but (x : Field) : Field → Bool := fun y => decide (y ≠ x)

/-- An operation that names only other parts keeps to `x.but`. -/
theorem Allow.but {x : Field} {l : List Field} (h : x ∉ l) : Allow x.but l :=
  Allow.of_forall fun y hy => decide_eq_true fun e => h (e ▸ hy)

theorem Only.kept {x : Field} (h : Only x.but s t) : x.same s t := h.same x (decide_eq_false (by simp))

theorem State.die_of_same (h : Field.same .dies s t) (d : Die) : t.die d = s.die d := by
  unfold State.die; rw [show t.dies = s.dies from h]

theorem State.link_of_same (h : Field.same .links s t) (e : LinkEnd) : t.link e = s.link e := by
  unfold State.link; rw [show t.links = s.links from h]

theorem State.rdByte_of_same (h : Field.same .mem s t) (a : Nat) : t.rdByte a = s.rdByte a := by
  unfold State.rdByte; rw [show t.mem = s.mem from h]

theorem State.poisoned_of_same (h : Field.same .poison s t) (a : Nat) : t.poisoned a = s.poisoned a := by
  unfold State.poisoned; rw [show t.poison = s.poison from h]

theorem State.isF_of_same {b : Blk} {f : Fld} (h : (Field.ofReg b f).same s t) (d : Die) (i k : Nat) :
    t.isF d b i f k = s.isF d b i f k := by
  unfold State.isF; rw [Field.getF_of_same h]

theorem State.die_ite {p : Prop} [Decidable p] (a b : State) (d : Die) :
    (if p then a else b).die d = if p then a.die d else b.die d := apply_ite (State.die · d) ..

theorem State.link_ite {p : Prop} [Decidable p] (a b : State) (e : LinkEnd) :
    (if p then a else b).link e = if p then a.link e else b.link e := apply_ite (State.link · e) ..

theorem State.getF_ite {p : Prop} [Decidable p] (a c : State) (d : Die) (b : Blk) (i : Nat) (f : Fld) (k : Nat) :
    (if p then a else c).getF d b i f k = if p then a.getF d b i f k else c.getF d b i f k :=
  apply_ite (State.getF · d b i f k) ..

/-- A write to one register field leaves every field of another kind. -/
theorem State.getF_setF_of_tag {d d' : Die} {b b' : Blk} {i i' : Nat} {f f' : Fld} {v k k' : Nat}
    (h : regTag b f ≠ regTag b' f') : (s.setF d' b' i' f' v k').getF d b i f k = s.getF d b i f k :=
  s.getF_setF_ne (fkey_ne_of_tag h)

theorem State.isF_setF_of_tag {d d' : Die} {b b' : Blk} {i i' : Nat} {f f' : Fld} {v k k' : Nat}
    (h : regTag b f ≠ regTag b' f') : (s.setF d' b' i' f' v k').isF d b i f k = s.isF d b i f k := by
  unfold State.isF; rw [State.getF_setF_of_tag h]

/-- A field of one bit or more reads set after a 1 is written. -/
theorem State.isF_setF_one {d : Die} {b : Blk} {i : Nat} {f : Fld} {k : Nat} (h : f.w ≠ 0) :
    (s.setF d b i f 1 k).isF d b i f k = true := by
  unfold State.isF
  rw [State.getF_setF_same, Nat.mod_eq_of_lt (Nat.one_lt_two_pow h)]
  rfl

theorem State.isF_setF_zero {d : Die} {b : Blk} {i : Nat} {f : Fld} {k : Nat} :
    (s.setF d b i f 0 k).isF d b i f k = false := by
  unfold State.isF
  rw [State.getF_setF_same]
  simp

end Sys2Proof.Machine
end

section
/-! The lock of a beat PLL and the loads of `BEAT`. -/

namespace Sys2Proof.Machine

variable (s : State)

@[simp] theorem State.bootAdvance_die (d : Die) : s.bootAdvance.die d = s.die d :=
  State.die_of_same ((Only.refl s).bootAdvance (Allow.but (by decide))).kept d

@[simp] theorem State.nextDomain_die (d : Die) : s.nextDomain.die d = s.die d :=
  State.die_of_same ((Only.refl s).nextDomain (Allow.but (by decide))).kept d

theorem State.isF_beatValid_bootAdvance (d : Die) :
    s.bootAdvance.isF d .bal 0 Reg.BAL_STATUS_BEAT_VALID = s.isF d .bal 0 Reg.BAL_STATUS_BEAT_VALID :=
  State.isF_of_same ((Only.refl s).bootAdvance (Allow.but (by decide))).kept d 0 0

theorem State.isF_beatValid_nextDomain (d : Die) :
    s.nextDomain.isF d .bal 0 Reg.BAL_STATUS_BEAT_VALID = s.isF d .bal 0 Reg.BAL_STATUS_BEAT_VALID :=
  State.isF_of_same ((Only.refl s).nextDomain (Allow.but (by decide))).kept d 0 0

/-- What a `BEAT` load leaves in its die (R36). -/
theorem State.applyLoad_die (d : Die) (v : Nat) (frac : Int) :
    (s.applyLoad d v frac).die d = { s.die d with beat := v, phaseTrim := (s.die d).phaseTrim + frac } := by
  unfold State.applyLoad
  rw [State.bootAdvance_die]
  dsimp only
  split
  · rw [State.nextDomain_die]; exact Tab.get_set_same ..
  · exact Tab.get_set_same ..

/-- A `BEAT` load makes the die's `BEAT` valid (R36). -/
theorem State.applyLoad_beatValid (d : Die) (v : Nat) (frac : Int) :
    (s.applyLoad d v frac).isF d .bal 0 Reg.BAL_STATUS_BEAT_VALID = true := by
  unfold State.applyLoad
  rw [State.isF_beatValid_bootAdvance]
  dsimp only
  split
  · rw [State.isF_beatValid_nextDomain]; exact State.isF_setF_one (by decide)
  · exact State.isF_setF_one (by decide)

/-! ### The clauses -/

theorem does_beatLoRead (p : Path) (d : Die) (h : s.deadRead p d .bal = none) :
    Does (.beatLoRead p d) s fun t => Tab.get 0 t.rdData (pathCode p) = s.beat d % 2 ^ 32 ∧
      Tab.get 0 t.beatHi (pathCode p) = s.beat d / 2 ^ 32 :=
  ⟨_, exec_beatLoRead_of_answered h, Tab.get_set_same .., Tab.get_set_same ..⟩

/-- The beat PLL of a die that seeks lock within its limit locks, and CR0's moves start-up on (R34). -/
theorem does_pllLock (d : Die) (h : s.pllSeeks d = true) (hl : s.time ≤ s.pllLimit d) :
    Does (.pllLock d) s fun t =>
      (t.die d).beat = 0 ∧ (t.die d).run = true ∧ t.isF d .bal 0 Reg.BAL_STATUS_PLL_LOCK = true := by
  let u := (s.setF d .bal 0 Reg.BAL_STATUS_PLL_LOCK 1).setDie d { s.die d with beat := 0, run := true }
  have hu : (u.die d).beat = 0 ∧ (u.die d).run = true ∧ u.isF d .bal 0 Reg.BAL_STATUS_PLL_LOCK = true := by
    have e : u.die d = { s.die d with beat := 0, run := true } := State.die_setDie_same ..
    exact ⟨by rw [e], by rw [e], s.isF_setF_one (by decide)⟩
  refine ⟨if d = cr0 && u.phase == 2 then (u.endStep 3).setPhase 3 else u, ?_, ?_⟩
  · show execPllLock d s = _
    unfold execPllLock
    rw [if_neg (by simp [h]), if_neg (by omega)]
  · split
    · unfold State.setPhase State.endStep
      rw [State.isF_setF_of_tag (by decide), State.isF_setF_of_tag (by decide)]
      exact hu
    · exact hu

/-- The SB message of a `BEAT` load on a link end from `SYNC` to `DEGRADED`. -/
theorem does_beatLoadSend_mv (m : Mv) (hv : s.isF cr0 .bal 0 Reg.BAL_STATUS_BEAT_VALID = true)
    (hl : stSync ≤ s.lst (spCrown m 0) ∧ s.lst (spCrown m 0) ≤ stDegraded) :
    Does (.beatLoadSend (.mv m)) s fun t => (t.link (spCrown m 0)).q = (s.link (spCrown m 0)).q ++
      [{ mtype := 0x09, body := 0, mseq := (s.link (spCrown m 0)).mseq }] := by
  refine ⟨s.sbSend (spCrown m 0) 0x09 0, ?_, s.sbSend_q ..⟩
  show execBeatLoadSend (.mv m) s = _
  simp only [execBeatLoadSend, hv, decide_eq_true hl, Bool.and_self, if_true]

theorem does_beatLoadSend_cr1 (hv : s.isF cr0 .bal 0 Reg.BAL_STATUS_BEAT_VALID = true) (hx : s.x2 = true)
    (hl : stSync ≤ s.lst (spCrown 0 0) ∧ s.lst (spCrown 0 0) ≤ stDegraded) :
    Does (.beatLoadSend (.cr 1)) s fun t => (t.link (spCrown 0 0)).q = (s.link (spCrown 0 0)).q ++
      [{ mtype := 0x09, body := 0, mseq := (s.link (spCrown 0 0)).mseq }] := by
  refine ⟨s.sbSend (spCrown 0 0) 0x09 0, ?_, s.sbSend_q ..⟩
  show execBeatLoadSend (.cr 1) s = _
  simp only [execBeatLoadSend, hv, hx, decide_eq_true hl, beq_self_eq_true, Bool.and_self, if_true]

/-- A first copy of a load on a link in the package, at a die whose `BEAT` is not valid (R36, R38). -/
theorem does_beatLoad_ikl {d : Die} {sl : Fin 4} {r : SbSlot} {box : Nat} {u : State}
    (hs : s.isF d .bal 0 Reg.BAL_STATUS_BEAT_VALID = false)
    (ht : s.sbTakesFirst (.ikl d sl) r 0x09 true = (some box, u)) (hu : u.isF d .bal 0 Reg.BAL_STATUS_BEAT_VALID = false) :
    Does (.beatLoad (.ikl d sl) r) s fun t => (t.die d).beat = bitsOf box 14 64 + 8 ∧
      t.isF d .bal 0 Reg.BAL_STATUS_BEAT_VALID = true := by
  refine ⟨u.applyLoad d (bitsOf box 14 64 + 8) 0, ?_, by rw [u.applyLoad_die], u.applyLoad_beatValid ..⟩
  show execBeatLoad (.ikl d sl) r s = _
  have hd : s.isF (leDie (.ikl d sl)) .bal 0 Reg.BAL_STATUS_BEAT_VALID = false := hs
  simp only [execBeatLoad, hd, Bool.not_false, Bool.or_true, ht, State.takeLoad, hu, if_true]

/-- A first copy of a load on a sync port from the side of the master (R36, R39). -/
theorem does_beatLoad_tray {n : Fin 8} {r : SbSlot} {box : Nat} {u : State}
    (ht : s.sbTakesFirst (.tray n) r 0x09 true = (some box, u)) (hv : u.isF cr0 .bal 0 Reg.BAL_STATUS_BEAT_VALID = false)
    (hp : u.isSyncPort n = true) (hb : (u.link (.tray n)).peerBv = true)
    (hl : stSync ≤ u.lst (.tray n) ∧ u.lst (.tray n) ≤ stDegraded) :
    Does (.beatLoad (.tray n) r) s fun t => (t.die cr0).beat = bitsOf box 14 64 ∧
      (t.die cr0).phaseTrim = (u.die cr0).phaseTrim + bitsOf box 78 5 ∧
      t.isF cr0 .bal 0 Reg.BAL_STATUS_BEAT_VALID = true := by
  refine ⟨u.applyLoad cr0 (bitsOf box 14 64) (bitsOf box 78 5), ?_, by rw [u.applyLoad_die], by rw [u.applyLoad_die],
    u.applyLoad_beatValid ..⟩
  show execBeatLoad (.tray n) r s = _
  simp only [execBeatLoad, isTray, Bool.true_or, ht, State.takeLoad, hv, hp, hb, decide_eq_true hl, Bool.not_false,
    Bool.and_self, if_true]

/-- Settles O1, one lemma for each clause: what the command leaves is read off the state it answers; going on with start-up
touches neither a die nor `BEAT_VALID`. -/
theorem beatCommandsComplete : Obligations.BeatCommandsComplete := by
  unfold Obligations.BeatCommandsComplete
  exact ⟨fun p d s => does_beatLoRead s p d, fun d s => does_pllLock s d, fun m s => does_beatLoadSend_mv s m,
    fun s => does_beatLoadSend_cr1 s, fun _ _ _ _ _ s => does_beatLoad_ikl s,
    fun _ _ _ _ s ht hv hp hb h1 h2 => does_beatLoad_tray s ht hv hp hb ⟨h1, h2⟩⟩

end Sys2Proof.Machine
end

section
/-! What taking a sideband slot leaves of `BEAT`, and the synchronisation of `BEAT`. -/

namespace Sys2Proof.Machine

/-! ### `BEAT` through the operations of a link -/

/-- Every die stands on the same beat in both states. -/
structure SameBeats (s t : State) : Prop where
  beat : ∀ d, t.beat d = s.beat d

namespace SameBeats

variable {s t z : State}

theorem refl (s : State) : SameBeats s s := ⟨fun _ => rfl⟩

theorem trans (h : SameBeats z s) (g : SameBeats s t) : SameBeats z t := ⟨fun d => (g.beat d).trans (h.beat d)⟩

theorem of_dies (h : SameBeats z s) (e : t.dies = s.dies) : SameBeats z t :=
  h.trans ⟨fun d => by unfold State.beat State.die; rw [e]⟩

theorem of_only (h : SameBeats z s) (g : Only (Field.but .dies) s t) : SameBeats z t := h.of_dies g.kept

theorem setDie {d : Die} {x : DieSt} (h : SameBeats z s) (hx : x.beat = s.beat d) : SameBeats z (s.setDie d x) :=
  h.trans ⟨fun d' => by
    by_cases e : d' = d
    · subst e; unfold State.beat; rw [State.die_setDie_same]; exact hx
    · unfold State.beat; rw [State.die_setDie_ne _ _ e]⟩

theorem ite {p : Prop} [Decidable p] {a b : State} (h : SameBeats z a) (g : SameBeats z b) :
    SameBeats z (if p then a else b) := by
  split
  · exact h
  · exact g

theorem foldl {α : Type} {f : State → α → State} (h : SameBeats z s) (l : List α)
    (hf : ∀ u a, SameBeats z u → SameBeats z (f u a)) : SameBeats z (l.foldl f s) := by
  induction l generalizing s with
  | nil => exact h
  | cons a l ih => exact ih (hf s a h)

variable (h : SameBeats z s)
include h

theorem setF (d : Die) (b : Blk) (i : Nat) (f : Fld) (v k : Nat) : SameBeats z (s.setF d b i f v k) := h.of_dies rfl

theorem setLink (e : LinkEnd) (l : LinkSt) : SameBeats z (s.setLink e l) := h.of_dies rfl

theorem setBun (e : LinkEnd) (b : Nat) (x : BundleSt) : SameBeats z (s.setBun e b x) := h.of_dies rfl

theorem bumpF (d : Die) (b : Blk) (i : Nat) (f : Fld) (k : Nat) : SameBeats z (s.bumpF d b i f k) := h.of_dies rfl

theorem log (d : Die) (b : Blk) (inst rc : Nat) (detail : List Byte) (ctx : Nat) :
    SameBeats z (s.log d b inst rc detail ctx) := h.trans ⟨fun d' => by
  unfold State.beat State.log
  by_cases e : d' = d
  · subst e; rw [State.logAs_die]
  · rw [State.logAs_die_ne _ _ _ _ _ _ _ e]⟩

theorem logLink (e : LinkEnd) (rc : Nat) (detail : List Byte) (ctx : Nat) : SameBeats z (s.logLink e rc detail ctx) :=
  h.log ..

theorem addLoss (d : Die) (link b decl joinAt : Nat) : SameBeats z (s.addLoss d link b decl joinAt) := by
  unfold State.addLoss
  dsimp only
  refine h.ite (ite (setDie (h.setF ..) ?_) (h.setDie ?_)) <;> rfl

theorem sendNotice (es : List LinkEnd) (p : List Byte) (fwd : Bool) : SameBeats z (s.sendNotice es p fwd) :=
  h.foldl es fun _ _ g => g.setLink ..

theorem declareLoss (e : LinkEnd) (b rc : Nat) : SameBeats z (s.declareLoss e b rc) := (h.addLoss ..).sendNotice ..

theorem declareTrayLoss (n : Fin 8) (rc : Nat) : SameBeats z (s.declareTrayLoss n rc) := by
  unfold State.declareTrayLoss
  dsimp only
  apply sendNotice
  apply addLoss
  exact h.setDie rfl

theorem markRetired (e : LinkEnd) (b : Nat) : SameBeats z (s.markRetired e b) :=
  h.of_only ((Only.refl s).markRetired e b (Allow.but (by decide)) (Allow.but (by decide)) (Allow.but (by decide))
    (Allow.but (by decide)) (Allow.but (by decide)))

theorem setRxMap (e : LinkEnd) (b : Nat) (m : LaneMap) : SameBeats z (s.setRxMap e b m) :=
  h.of_only ((Only.refl s).setRxMap e b m (Allow.but (by decide)))

theorem toSt (e : LinkEnd) (st : Nat) : SameBeats z (s.toSt e st) :=
  h.of_only ((Only.refl s).toSt e st (Allow.but (by decide)) (Allow.but (by decide)) (Allow.but (by decide)))

theorem setRetired (e : LinkEnd) (b : Nat) (v : Bool) : SameBeats z (s.setRetired e b v) :=
  h.of_only ((Only.refl s).setRetired e b v (Allow.but (by decide)))

theorem sbSend (e : LinkEnd) (mtype body aux copies : Nat) : SameBeats z (s.sbSend e mtype body aux copies) := by
  rw [s.sbSend_eq]; exact h.setLink ..

theorem quiesce (e : LinkEnd) (l : List Nat) : SameBeats z (s.quiesce e l) :=
  h.of_only ((Only.refl s).quiesce e l (Allow.but (by decide)) (Allow.but (by decide)))

theorem retireBundle (e : LinkEnd) (b rc : Nat) (keep : Bool) : SameBeats z (s.retireBundle e b rc keep) := by
  unfold State.retireBundle
  apply ite h
  cases e with
  | tray n =>
    have g := (((h.logLink (.tray n) rc [] 0xFF).setRetired (.tray n) 0 true).toSt (.tray n) stRetired)
    exact ite ((g.setLink ..).declareTrayLoss ..) (g.setLink ..)
  | ikl d sl =>
    have g := (h.logLink (.ikl d sl) rc [] 0xFF).declareLoss (.ikl d sl) b rc
    refine ite ?_ (g.markRetired ..)
    have k := (g.sbSend (.ikl d sl) 0x12 (b % 16 * 2 ^ 14 + rc % 65536 * 2 ^ 18) 0 1).quiesce (.ikl d sl) [b]
    exact ite ((k.setBun ..).toSt ..) (k.setBun ..)

theorem repairLane (e : LinkEnd) (b lane eff : Nat) : SameBeats z (s.repairLane e b lane eff) := by
  unfold State.repairLane
  dsimp only
  split
  · exact ((h.logLink e 0x3007 [] 0xFF).setBun ..).sbSend ..
  · exact ite ((h.setBun ..).retireBundle ..) (((h.setBun ..).retireBundle ..).setRxMap ..)

theorem failLane (e : LinkEnd) (b c : Nat) : SameBeats z (s.failLane e b c) := by
  unfold State.failLane
  dsimp only
  refine h.ite (ite ?_ (h.ite ?_))
  · split
    · exact h
    · exact h.ite (h.repairLane ..)
  · split
    · exact ite (h.setRxMap ..) ((h.setRxMap ..).repairLane ..)
    · refine foldl ?_ _ fun _ _ g => g.repairLane ..
      exact ((h.setRxMap ..).logLink ..).setBun ..

theorem countLane (e : LinkEnd) (b c n : Nat) : SameBeats z (s.countLane e b c n) := by
  have g : SameBeats z (s.addWin e b c n) := h.of_only ((Only.refl s).addWin e b c n (Allow.but (by decide)))
  exact ite (g.failLane ..) g

theorem takeCw (e : LinkEnd) (frame : Nat) (lanes : List Nat) (n j : Nat) : SameBeats z (s.takeCw e frame lanes n j).2 := by
  unfold State.takeCw
  dsimp only
  generalize (if (s.link e).cwFrame == frame + 1 then (s.link e).cwSeen else []) = seen
  split
  · exact h
  · split
    · exact (h.setLink ..).bumpF ..
    · refine foldl (ite (h.setLink ..) ((h.setLink ..).bumpF ..)) _ fun _ _ g => g.countLane ..

theorem takeField (e : LinkEnd) (frame pos len : Nat) (lanes : List Nat) : SameBeats z (s.takeField e frame pos len lanes).2 := by
  unfold State.takeField
  dsimp only
  split
  · exact h.takeCw ..
  · split <;> exact (h.takeCw ..).takeCw ..

theorem traySlot (e : LinkEnd) (r : SbSlot) : SameBeats z (s.traySlot e r).2 := by
  unfold State.traySlot
  exact h.takeField ..

theorem iklSlot (e : LinkEnd) (r : SbSlot) : SameBeats z (s.iklSlot e r).2 := by
  unfold State.iklSlot
  dsimp only
  have g := h.foldl ((s.sbBundles e).filter fun b => (readSeg r.slot (r.segs.getD b 0)).isNone)
    (f := fun t b => t.countLane e b (physLane e (t.useMap e b) 18) 1) fun _ _ k => k.countLane ..
  split
  · exact g.bumpF ..
  · exact g.of_only ((Only.refl _).showLead _ _ (Allow.but (by decide)))

theorem sbReceive (e : LinkEnd) (r : SbSlot) : SameBeats z (s.sbReceive e r).2 := by
  have g : SameBeats z (if isTray e then s.traySlot e r else s.iklSlot e r).2 := by
    split
    · exact h.traySlot ..
    · exact h.iklSlot ..
  unfold State.sbReceive
  dsimp only
  split
  · exact h
  · split
    · exact g
    · split
      · exact g.setLink ..
      · exact (g.setLink ..).of_only ((Only.refl _).bumpLf _ _ _ _ (Allow.but (by decide)))

end SameBeats

variable (s : State)

/-- Taking a message of one type leaves every die on its beat. -/
theorem State.beat_sbTakes (e : LinkEnd) (r : SbSlot) (mtype : Nat) (anytime : Bool) (d : Die) :
    (s.sbTakes e r mtype anytime).2.beat d = s.beat d := by
  unfold State.sbTakes
  split
  · rfl
  · split
    · next box t h =>
      split
      · exact (congrArg (fun p => p.2.beat d) h).symm.trans (((SameBeats.refl s).sbReceive e r).beat d)
      · rfl
    · next t h => exact (congrArg (fun p => p.2.beat d) h).symm.trans (((SameBeats.refl s).sbReceive e r).beat d)

end Sys2Proof.Machine
end

section
/-! The synchronisation of `BEAT` over a tray port. -/

namespace Sys2Proof.Machine

variable (s : State)

theorem exec_beatSyncAttempt_due {n : Fin 8} (hv : s.isF (leDie (.tray n)) .bal 0 Reg.BAL_STATUS_BEAT_VALID = true)
    (hp : 2 ≤ s.balProfile) (ha : s.boot.alone = false)
    (hd : s.atFrame (leDie (.tray n)) = true ∧ s.leadsAway n = true ∧ (s.link (.tray n)).peerBv = false ∨
      s.atTurn (leDie (.tray n)) = true ∧ s.isActivePort n = true)
    (hr : (s.link (.tray n)).syncReq = 0) (hw : (s.link (.tray n)).syncWait = false) (hf : (s.link (.tray n)).syncFails < 64)
    (hl : stSync ≤ s.lst (.tray n) ∧ s.lst (.tray n) ≤ stDegraded) :
    exec (.beatSyncAttempt n) s = .next ((s.sbSend (.tray n) 0x0A 0).setLink (.tray n)
      { (s.sbSend (.tray n) 0x0A 0).link (.tray n) with syncWait := true }) := by
  show execBeatSyncAttempt n s = _
  have due : (s.atFrame (leDie (.tray n)) && s.leadsAway n && !(s.link (.tray n)).peerBv ||
      (s.atTurn (leDie (.tray n)) && s.isActivePort n)) = true := by
    rcases hd with ⟨h1, h2, h3⟩ | ⟨h1, h2⟩
    · simp [h1, h2, h3]
    · simp [h1, h2]
  simp only [execBeatSyncAttempt, hv, ha, due, hr, hw, decide_eq_true hp, decide_eq_true hf, decide_eq_true hl,
    Bool.not_false, Bool.and_self, beq_self_eq_true, if_true]

/-- An attempt asks: its request is queued, to count from the slot it leaves in (R39, R40). -/
theorem does_beatSyncAttempt (n : Fin 8) (hv : s.isF (leDie (.tray n)) .bal 0 Reg.BAL_STATUS_BEAT_VALID = true)
    (hp : 2 ≤ s.balProfile) (ha : s.boot.alone = false)
    (hd : s.atFrame (leDie (.tray n)) = true ∧ s.leadsAway n = true ∧ (s.link (.tray n)).peerBv = false ∨
      s.atTurn (leDie (.tray n)) = true ∧ s.isActivePort n = true)
    (hr : (s.link (.tray n)).syncReq = 0) (hw : (s.link (.tray n)).syncWait = false) (hf : (s.link (.tray n)).syncFails < 64)
    (h1 : stSync ≤ s.lst (.tray n)) (h2 : s.lst (.tray n) ≤ stDegraded) :
    Does (.beatSyncAttempt n) s fun t => (t.link (.tray n)).syncWait = true ∧
      (t.link (.tray n)).q = (s.link (.tray n)).q ++ [{ mtype := 0x0A, body := 0 }] := by
  refine ⟨_, exec_beatSyncAttempt_due s hv hp ha hd hr hw hf ⟨h1, h2⟩, ?_, ?_⟩
  · rw [State.link_setLink_same]
  · rw [State.link_setLink_same]; exact s.sbSend_q ..

/-- The follower echoes a request; its answer notes the beat on which it came (R39). -/
theorem does_beatSyncReq {n : Fin 8} {r : SbSlot} {box : Nat} {u : State} (h : s.sbTakes (.tray n) r 0x0A true = (some box, u)) :
    Does (.beatSyncReq n r) s fun t => (t.link (.tray n)).q = (u.link (.tray n)).q ++
      [{ mtype := 0x0B, body := bitsOf box 6 64 * 2 ^ 6, aux := u.beat (leDie (.tray n)) }] := by
  have hb : u.beat (leDie (.tray n)) = s.beat (leDie (.tray n)) := by
    have := s.beat_sbTakes (.tray n) r 0x0A true (leDie (.tray n))
    rwa [h] at this
  refine ⟨u.sbSend (.tray n) 0x0B (bitsOf box 6 64 * 2 ^ 6) (s.beat (leDie (.tray n))), ?_, ?_⟩
  · show execBeatSyncReq n r s = _
    simp only [execBeatSyncReq, h]
  · rw [hb]; exact u.sbSend_q ..

/-- A response in time to the request outstanding ends the attempt (R39). -/
theorem exec_beatSyncResp_inTime {n : Fin 8} {r : SbSlot} {stamp : Fin 32} {err : Int} {box : Nat} {u : State}
    (h : s.sbTakes (.tray n) r 0x0B true = (some box, u)) (h0 : (u.link (.tray n)).syncReq ≠ 0)
    (hm : ((u.link (.tray n)).syncReq - 1) % 2 ^ 64 = bitsOf box 6 64)
    (ht : u.beat (leDie (.tray n)) ≤ (u.link (.tray n)).syncReq - 1 + 12800) :
    exec (.beatSyncResp n r stamp err) s = .next (u.syncDone n (bitsOf box 70 16) stamp err) := by
  show execBeatSyncResp n r stamp err s = _
  simp only [execBeatSyncResp, h, bne_iff_ne.mpr h0, beq_iff_eq.mpr hm, decide_eq_true ht, Bool.and_self, if_true]

theorem does_beatSyncResp_master {n : Fin 8} {r : SbSlot} {stamp : Fin 32} {err : Int} {box rt : Nat} {u : State}
    (h : s.sbTakes (.tray n) r 0x0B true = (some box, u)) (h0 : (u.link (.tray n)).syncReq ≠ 0)
    (hm : ((u.link (.tray n)).syncReq - 1) % 2 ^ 64 = bitsOf box 6 64)
    (ht : u.beat (leDie (.tray n)) ≤ (u.link (.tray n)).syncReq - 1 + 12800) (ha : u.isActivePort n = false)
    (hr : rt = 32 * (u.beat (leDie (.tray n)) - ((u.link (.tray n)).syncReq - 1)) + stamp.val) :
    Does (.beatSyncResp n r stamp err) s fun t => (t.link (.tray n)).syncReq = 0 ∧ (t.link (.tray n)).syncFails = 0 ∧
      (t.link (.tray n)).peerLoaded = true ∧ (t.link (.tray n)).q = (u.link (.tray n)).q ++
        [{ mtype := 0x09, body := 0, aux := (rt - 32 * bitsOf box 70 16) / 2, mseq := (u.link (.tray n)).mseq }] := by
  refine ⟨_, exec_beatSyncResp_inTime s h h0 hm ht, ?_⟩
  unfold State.syncDone
  simp only [ha, Bool.false_eq_true, if_false]
  have acked : sbAcked 0x09 = true := by decide
  simp only [State.sbSend, acked, if_true, State.link_setLink_same, hr, and_self]

theorem does_beatSyncResp_follower {n : Fin 8} {r : SbSlot} {stamp : Fin 32} {err : Int} {box : Nat} {u : State}
    (h : s.sbTakes (.tray n) r 0x0B true = (some box, u)) (h0 : (u.link (.tray n)).syncReq ≠ 0)
    (hm : ((u.link (.tray n)).syncReq - 1) % 2 ^ 64 = bitsOf box 6 64)
    (ht : u.beat (leDie (.tray n)) ≤ (u.link (.tray n)).syncReq - 1 + 12800) (ha : u.isActivePort n = true)
    (hp : u.balProfile = 2) (he : err.natAbs ≤ 32) :
    Does (.beatSyncResp n r stamp err) s fun t => (t.link (.tray n)).syncReq = 0 ∧
      (t.die cr0).phaseTrim = (u.die cr0).phaseTrim - max (-1) (min 1 err) := by
  refine ⟨_, exec_beatSyncResp_inTime s h h0 hm ht, ?_⟩
  unfold State.syncDone
  simp only [ha, if_true]
  have prof : ∀ l, (u.setLink (.tray n) l).balProfile = 2 := fun _ => hp
  have small : decide (32 < err.natAbs) = false := decide_eq_false (by omega)
  unfold State.phaseStep
  simp only [prof, small, Bool.false_eq_true, if_false]
  exact ⟨by simp, by simp [State.die_setDie_same]⟩

theorem does_beatSyncTimeout (n : Fin 8) (h0 : (s.link (.tray n)).syncReq ≠ 0)
    (ht : (s.link (.tray n)).syncReq - 1 + 12800 ≤ s.beat (leDie (.tray n))) (hf : (s.link (.tray n)).syncFails + 1 ≠ 64) :
    Does (.beatSyncTimeout n) s fun t => (t.link (.tray n)).syncReq = 0 ∧
      (t.link (.tray n)).syncFails = (s.link (.tray n)).syncFails + 1 := by
  refine ⟨s.setLink (.tray n) { s.link (.tray n) with syncReq := 0, syncFails := (s.link (.tray n)).syncFails + 1 }, ?_, ?_⟩
  · show execBeatSyncTimeout n s = _
    have late : decide (s.beat (leDie (.tray n)) < (s.link (.tray n)).syncReq - 1 + 12800) = false := decide_eq_false (by omega)
    simp only [execBeatSyncTimeout, beq_eq_false_iff_ne.mpr h0, beq_eq_false_iff_ne.mpr hf, late, Bool.or_self,
      Bool.false_eq_true, if_false]
  · simp only [State.link_setLink_same, and_self]

/-- Settles O2, one lemma for each clause. -/
theorem beatSyncCommandsComplete : Obligations.BeatSyncCommandsComplete := by
  unfold Obligations.BeatSyncCommandsComplete
  exact ⟨fun n s hv hp ha hd hr hw hf => does_beatSyncAttempt s n hv hp ha hd hr hw hf, fun _ _ _ _ s => does_beatSyncReq s,
    fun _ _ _ _ _ _ _ s => does_beatSyncResp_master s, fun _ _ _ _ _ _ s => does_beatSyncResp_follower s,
    fun n s => does_beatSyncTimeout s n⟩

end Sys2Proof.Machine
end

section
/-! A follower that loses its sync ports, and the map to TAI. -/

namespace Sys2Proof.Machine

/-! ### SC stopped stays stopped -/

/-- What has stopped SC on a link end has not been undone. -/
structure KeepsScStop (s t : State) : Prop where
  stop : ∀ e, (s.link e).scStop = true → (t.link e).scStop = true

namespace KeepsScStop

variable {s t z : State}

theorem refl (s : State) : KeepsScStop s s := ⟨fun _ h => h⟩

theorem of_links (h : KeepsScStop z s) (e : t.links = s.links) : KeepsScStop z t :=
  ⟨fun f hf => by rw [State.link_of_same e]; exact h.stop f hf⟩

theorem setLink (h : KeepsScStop z s) {e : LinkEnd} {l : LinkSt} (hl : (s.link e).scStop = true → l.scStop = true) :
    KeepsScStop z (s.setLink e l) := ⟨fun f hf => by
  by_cases k : f = e
  · subst k; rw [State.link_setLink_same]; exact hl (h.stop f hf)
  · rw [State.link_setLink_ne _ _ k]; exact h.stop f hf⟩

theorem ite {p : Prop} [Decidable p] {a b : State} (h : KeepsScStop z a) (g : KeepsScStop z b) :
    KeepsScStop z (if p then a else b) := by
  split
  · exact h
  · exact g

theorem foldl {α : Type} {f : State → α → State} (h : KeepsScStop z s) (l : List α)
    (hf : ∀ u a, KeepsScStop z u → KeepsScStop z (f u a)) : KeepsScStop z (l.foldl f s) := by
  induction l generalizing s with
  | nil => exact h
  | cons a l ih => exact ih (hf s a h)

variable (h : KeepsScStop z s)
include h

theorem sbSend (e : LinkEnd) (mtype body aux copies : Nat) : KeepsScStop z (s.sbSend e mtype body aux copies) := by
  unfold State.sbSend
  dsimp only
  split <;> exact h.setLink id

theorem stopAllSc : KeepsScStop z s.stopAllSc := h.foldl _ fun _ _ g => g.setLink fun _ => rfl

theorem tellMaster (level : Nat) (ready : Bool) (cause : Nat) : KeepsScStop z (s.tellMaster level ready cause) := by
  unfold State.tellMaster
  split
  · exact h.sbSend ..
  · exact h

theorem sendOrder (cause : Nat) : KeepsScStop z (s.sendOrder cause) :=
  (h.foldl s.livePorts fun _ _ g => g.sbSend ..).of_links rfl

theorem chipTray (cause : Nat) : KeepsScStop z (s.chipTray cause) := by
  unfold State.chipTray
  dsimp only
  split
  · exact h
  · split
    · exact h.stopAllSc
    · split
      · exact h.stopAllSc.tellMaster ..
      · exact h.stopAllSc.sendOrder ..

theorem log (d : Die) (b : Blk) (inst rc : Nat) (detail : List Byte) (ctx : Nat) :
    KeepsScStop z (s.log d b inst rc detail ctx) := h.of_links (s.log_links ..)

theorem noteLast (rc cause : Nat) (d : Die) : KeepsScStop z (s.noteLast rc cause d) := h.of_links rfl

theorem setDom (k : Nat) (x : RcvDom) : KeepsScStop z (s.setDom k x) := h.of_links rfl

theorem showLevel : KeepsScStop z s.showLevel := h.of_links rfl

theorem noteChip : KeepsScStop z s.noteChip := 
  h.of_links ((Only.refl s).noteChip (pt := Field.but .links) (Allow.but (by decide))).kept

theorem trigger (lvl cause : Nat) (d : Die) (eng rc origin : Nat) : KeepsScStop z (s.trigger lvl cause d eng rc origin) := by
  unfold State.trigger
  dsimp only
  repeat' with_reducible first
    | assumption | intro _ | apply ite | apply log | apply noteLast | apply showLevel | apply setDom | apply noteChip
    | apply stopAllSc | apply chipTray | apply foldl

end KeepsScStop

variable (s : State)

/-- With SC stopped on every tray port the package has entered chip level (R44). -/
theorem State.scStop_syncLost (n : Fin 8) : (s.syncLost.link (.tray n)).scStop = true := by
  refine ((KeepsScStop.refl _).trigger 4 0x06 cr0 0xFF 0 0).stop _ ?_
  have step : ∀ (l : List (Fin 8)) (t : State), n ∈ l ∨ (t.link (.tray n)).scStop = true →
      ((l.foldl (fun (t : State) k => t.setLink (.tray k) { t.link (.tray k) with scStop := true }) t).link
        (.tray n)).scStop = true := by
    intro l
    induction l with
    | nil => exact fun t h => h.resolve_left (List.not_mem_nil)
    | cons k l ih =>
      refine fun t h => ih _ ?_
      by_cases e : n = k
      · subst e; right; rw [State.link_setLink_same]
      · refine (h.imp_left fun m => (List.mem_cons.mp m).resolve_left e).imp_right fun g => ?_
        rw [State.link_setLink_ne _ _ fun x => e (LinkEnd.tray.inj x)]; exact g
  exact step _ _ (.inl (List.mem_finRange n))

/-! ### The sync ports of a follower (R41, R44) -/

/-- The lowest `LIVE` sync port. -/
theorem State.findSyncPort_eq {n : Fin 8} (hp : s.isSyncPort n = true) (hl : s.lst (.tray n) = stLive)
    (hlow : ∀ k < n, s.isSyncPort k = true → s.lst (.tray k) ≠ stLive) :
    ((List.finRange 8).find? fun k => s.isSyncPort k && s.lst (.tray k) == stLive) = some n := by
  refine List.find?_eq_some_iff_getElem.mpr ⟨by simp [hp, hl], n.val, by simp, by simp, fun j hj => ?_⟩
  simp only [List.getElem_finRange, Bool.not_and]
  have hj8 : j < 8 := by omega
  have k := hlow ⟨j, hj8⟩ hj
  cases hs : s.isSyncPort ⟨j, hj8⟩ with
  | false => simp [hs]
  | true => simp [hs, k hs]

/-- A follower whose active sync port has left `LIVE` freezes the frequency and looks for another (R44). -/
theorem exec_syncPortLoss_lost (hf : s.isFollower = true) (hv : s.isF cr0 .bal 0 Reg.BAL_REF_PORT_VALID = true)
    (ha : s.lst (.tray (Fin.ofNat 8 (s.getF cr0 .bal 0 Reg.BAL_REF_ACTIVE_PORT))) ≠ stLive) :
    exec .syncPortLoss s = .next { s with sync := { s.sync with frozen := true } }.pickSyncPort := by
  show execSyncPortLoss s = _
  simp only [execSyncPortLoss, hf, hv, bne_iff_ne.mpr ha, Bool.and_self, if_true]

theorem does_syncPortLoss_none (hf : s.isFollower = true) (hv : s.isF cr0 .bal 0 Reg.BAL_REF_PORT_VALID = true)
    (ha : s.lst (.tray (Fin.ofNat 8 (s.getF cr0 .bal 0 Reg.BAL_REF_ACTIVE_PORT))) ≠ stLive)
    (hn : ∀ n, s.isSyncPort n = true → s.lst (.tray n) ≠ stLive) :
    Does .syncPortLoss s fun t =>
      t.sync.frozen = true ∧ t.isF cr0 .bal 0 Reg.BAL_REF_PORT_VALID = false ∧ t.sync.noPort ≠ 0 := by
  let u : State := { s with sync := { s.sync with frozen := true } }
  have hfind : ((List.finRange 8).find? fun n => u.isSyncPort n && u.lst (.tray n) == stLive) = none := by
    refine List.find?_eq_none.mpr fun n _ => ?_
    show ¬(s.isSyncPort n && s.lst (.tray n) == stLive) = true
    simpa using hn n
  refine ⟨_, exec_syncPortLoss_lost s hf hv ha, ?_⟩
  show u.pickSyncPort.sync.frozen = true ∧ _
  unfold State.pickSyncPort
  rw [hfind]
  refine ⟨rfl, u.isF_setF_zero, ?_⟩
  show (if s.sync.noPort == 0 then s.time + 1 else s.sync.noPort) ≠ 0
  split
  · omega
  · next h => simpa using h

theorem does_syncPortLoss_next (n : Fin 8) (hf : s.isFollower = true) (hv : s.isF cr0 .bal 0 Reg.BAL_REF_PORT_VALID = true)
    (ha : s.lst (.tray (Fin.ofNat 8 (s.getF cr0 .bal 0 Reg.BAL_REF_ACTIVE_PORT))) ≠ stLive)
    (hp : s.isSyncPort n = true) (hl : s.lst (.tray n) = stLive)
    (hlow : ∀ k < n, s.isSyncPort k = true → s.lst (.tray k) ≠ stLive) :
    Does .syncPortLoss s fun t => t.getF cr0 .bal 0 Reg.BAL_REF_ACTIVE_PORT = n.val ∧ t.sync.frozen = false ∧
      t.isF cr0 .bal 0 Reg.BAL_REF_PORT_VALID = true := by
  let u : State := { s with sync := { s.sync with frozen := true } }
  have hfind : ((List.finRange 8).find? fun n => u.isSyncPort n && u.lst (.tray n) == stLive) = some n :=
    s.findSyncPort_eq hp hl hlow
  refine ⟨_, exec_syncPortLoss_lost s hf hv ha, ?_⟩
  show u.pickSyncPort.getF _ _ _ _ = n.val ∧ _
  unfold State.pickSyncPort
  rw [hfind]
  refine ⟨?_, rfl, (u.setF cr0 .bal 0 Reg.BAL_REF_ACTIVE_PORT n.val).isF_setF_one (by decide)⟩
  show ((u.setF cr0 .bal 0 Reg.BAL_REF_ACTIVE_PORT n.val).setF cr0 .bal 0 Reg.BAL_REF_PORT_VALID 1).getF cr0 .bal 0
    Reg.BAL_REF_ACTIVE_PORT = n.val
  rw [State.getF_setF_of_tag (by decide), State.getF_setF_same]
  exact Nat.mod_eq_of_lt (n.isLt.trans_le (by decide))

theorem does_syncHoldoverExpiry (hf : s.isFollower = true) (h0 : s.sync.noPort ≠ 0)
    (ht : s.sync.noPort - 1 + turnBeats ≤ s.time) :
    Does .syncHoldoverExpiry s fun t => t.sync.noPort = 0 ∧ ∀ n : Fin 8, (t.link (.tray n)).scStop = true := by
  let u : State := { s with sync := { s.sync with noPort := 0 } }
  refine ⟨u.syncLost, ?_, ?_, fun n => u.scStop_syncLost n⟩
  · show execSyncHoldoverExpiry s = _
    simp only [execSyncHoldoverExpiry, hf, bne_iff_ne.mpr h0, decide_eq_true ht, Bool.and_self, if_true, u]
  · have k : u.syncLost.sync = u.sync := ((Only.refl u).syncLost (pt := Field.but .sync) (Allow.but (by decide))
      (Allow.but (by decide)) (Allow.but (by decide)) (Allow.but (by decide))).kept
    rw [k]

/-! ### The map to TAI (R46 to R48, R148) -/

@[simp] theorem State.setCr0Map_sync (m : Nat × Nat × Nat) : (s.setCr0Map m).sync = s.sync := by
  unfold State.setCr0Map
  dsimp only
  split <;> rfl

@[simp] theorem State.setCr0Map_die (m : Nat × Nat × Nat) (d : Die) : (s.setCr0Map m).die d = s.die d := by
  unfold State.setCr0Map
  dsimp only
  split <;> rfl

/-- The rate of CR0's map, in its register of 32 bits. -/
theorem State.setCr0Map_rate (m : Nat × Nat × Nat) : (s.setCr0Map m).getF cr0 .bal 0 Reg.BAL_RATE = m.2.2 % 2 ^ 32 :=
  State.getF_setF_same ..

/-- The CR0 that runs the servo makes the next map from a new sample (R46). -/
theorem does_servoMapUpdate_sample (ht : s.atTurn cr0 = true) (hm : s.isF cr0 .bal 0 Reg.BAL_STATUS_IS_MASTER = true)
    (hs : s.sync.sample = true) (hn : s.sync.next = none) :
    Does .servoMapUpdate s fun t => t.sync.sample = false ∧ t.sync.epoch = (s.sync.epoch + 1) % 4 ∧
      t.sync.next = some (s.servoMap (s.beat cr0 + turnBeats)) := by
  refine ⟨{ s with sync := { s.sync with next := some (s.servoMap (s.beat cr0 + turnBeats)),
                                         epoch := (s.sync.epoch + 1) % 4, sample := false } }, ?_, rfl, rfl, rfl⟩
  show execServoMapUpdate s = _
  simp only [execServoMapUpdate, ht, hm, hn, hs, Bool.and_self, if_true]

/-- It takes the map it made in the turn that ends (R47). -/
theorem does_servoMapUpdate_take (m : Nat × Nat × Nat) (ht : s.atTurn cr0 = true)
    (hm : s.isF cr0 .bal 0 Reg.BAL_STATUS_IS_MASTER = true) (hs : s.sync.sample = false) (hn : s.sync.next = some m) :
    Does .servoMapUpdate s fun t => t.sync.next = none ∧ t.getF cr0 .bal 0 Reg.BAL_RATE = m.2.2 % 2 ^ 32 := by
  refine ⟨{ s.setCr0Map m with sync := { s.sync with next := none } }, ?_, rfl, s.setCr0Map_rate m⟩
  show execServoMapUpdate s = _
  simp only [execServoMapUpdate, ht, hm, hn, hs, Bool.and_self, if_true, Bool.false_eq_true, if_false]

/-- Two containers queued one after the other on a link end. -/
theorem State.sbSend_sbSend_map_q (e : LinkEnd) (b0 b1 : Nat) :
    (((s.sbSend e 0x1A b0).sbSend e 0x1B b1).link e).q =
      (s.link e).q ++ [{ mtype := 0x1A, body := b0 }, { mtype := 0x1B, body := b1 }] := by
  rw [State.sbSend_q, State.sbSend_q, List.append_assoc]
  rfl

/-- What the bodies of the two containers of a map carry (R47, R148). -/
theorem taiMapBodies (ab rate at_ ep : Nat) (v h : Bool) :
    (ab % 2 ^ 64 * 2 ^ 6 + rate % 2 ^ 32 * 2 ^ 70 + ep % 4 * 2 ^ 102) / 2 ^ 6 % 2 ^ 64 = ab % 2 ^ 64 ∧
    (at_ % 2 ^ 64 * 2 ^ 6 + ep % 4 * 2 ^ 70 + b2n v * 2 ^ 72 + b2n h * 2 ^ 73) / 2 ^ 6 % 2 ^ 64 = at_ % 2 ^ 64 ∧
    (ab % 2 ^ 64 * 2 ^ 6 + rate % 2 ^ 32 * 2 ^ 70 + ep % 4 * 2 ^ 102) / 2 ^ 70 % 2 ^ 32 = rate % 2 ^ 32 := by
  omega

theorem does_taiMapSend_own (e : LinkEnd) (own : Nat × Nat × Nat) (h0 : (s.die cr0).map0 = none)
    (ho : own = s.sync.next.getD s.cr0Map) :
    Does (.taiMapSend e) s fun t => ∃ b0 b1, (t.link e).q = (s.link e).q ++
      [{ mtype := 0x1A, body := b0 }, { mtype := 0x1B, body := b1 }] ∧
      b0 / 2 ^ 6 % 2 ^ 64 = own.1 % 2 ^ 64 ∧ b1 / 2 ^ 6 % 2 ^ 64 = own.2.1 % 2 ^ 64 ∧ b0 / 2 ^ 70 % 2 ^ 32 = own.2.2 % 2 ^ 32 := by
  have hx : exec (.taiMapSend e) s = _ := (rfl : execTaiMapSend e s = _)
  unfold execTaiMapSend at hx
  simp only [h0, ← ho, Option.getD_none] at hx
  exact ⟨_, hx, _, _, s.sbSend_sbSend_map_q .., taiMapBodies ..⟩

theorem does_taiMapSend_held (e : LinkEnd) (ab rate ep a : Nat) (v h : Bool) (h0 : (s.die cr0).map0 = some (ab, rate, ep))
    (h1 : (s.die cr0).map1 = some (a, ep, v, h)) :
    Does (.taiMapSend e) s fun t => ∃ b0 b1, (t.link e).q = (s.link e).q ++
      [{ mtype := 0x1A, body := b0 }, { mtype := 0x1B, body := b1 }] ∧
      b0 / 2 ^ 6 % 2 ^ 64 = ab % 2 ^ 64 ∧ b1 / 2 ^ 6 % 2 ^ 64 = a % 2 ^ 64 ∧ b0 / 2 ^ 70 % 2 ^ 32 = rate % 2 ^ 32 := by
  have hx : exec (.taiMapSend e) s = _ := (rfl : execTaiMapSend e s = _)
  unfold execTaiMapSend at hx
  simp only [h0, h1, beq_self_eq_true, if_true, Option.getD_some] at hx
  exact ⟨_, hx, _, _, s.sbSend_sbSend_map_q .., taiMapBodies ..⟩

/-- A die uses the same map in both states, and holds the same of the next. -/
structure SameMaps (d : Die) (s t : State) : Prop where
  tai : (t.die d).tai = (s.die d).tai
  map0 : (t.die d).map0 = (s.die d).map0
  map1 : (t.die d).map1 = (s.die d).map1

theorem SameMaps.ite {d : Die} {z a b : State} {p : Prop} [Decidable p] (h : SameMaps d z a) (g : SameMaps d z b) :
    SameMaps d z (if p then a else b) := by
  split
  · exact h
  · exact g

theorem SameMaps.of_die {d : Die} {z a b : State} (h : SameMaps d z a) (e : b.die d = a.die d) : SameMaps d z b :=
  ⟨by rw [e, h.tai], by rw [e, h.map0], by rw [e, h.map1]⟩

/-- The flags of a map change neither the map of a die nor what it holds of the next. -/
theorem SameMaps.setTaiFlags (d : Die) (v h : Bool) : SameMaps d s (s.setTaiFlags d v h) := by
  have base : ∀ (w : State) (x : DieSt), x.tai = (s.die d).tai → x.map0 = (s.die d).map0 → x.map1 = (s.die d).map1 →
      SameMaps d s (w.setDie d x) := fun w x h1 h2 h3 => by
    constructor <;> rw [State.die_setDie_same] <;> assumption
  unfold State.setTaiFlags
  dsimp only
  have s3 : ∀ (p : Prop) [Decidable p] (w : State) (x : DieSt) (n : Nat), x.tai = (s.die d).tai → x.map0 = (s.die d).map0 →
      x.map1 = (s.die d).map1 →
      SameMaps d s (if p then (w.setDie d x).setF cr0 .ldg 0 Reg.LDG_STATUS_HOLDOVER n else w.setDie d x) :=
    fun p _ w x n h1 h2 h3 => ((base w x h1 h2 h3).of_die (State.setF_die ..)).ite (base w x h1 h2 h3)
  refine SameMaps.ite (s3 _ _ _ _ ?_ ?_ ?_) (SameMaps.of_die (s3 _ _ _ _ ?_ ?_ ?_) (State.raise_die ..)) <;> rfl

theorem does_taiMapApply (d : Die) (ab rate ep a : Nat) (v h : Bool) (ht : s.atTurn d = true)
    (h0 : (s.die d).map0 = some (ab, rate, ep)) (h1 : (s.die d).map1 = some (a, ep, v, h)) :
    Does (.taiMapApply d) s fun t => (t.die d).tai = (ab, a, rate) ∧ (t.die d).map0 = none ∧ (t.die d).map1 = none := by
  let u := s.setDie d { s.die d with map0 := none, map1 := none, tai := (ab, a, rate) }
  have hu : ∀ w : State, w.die d = u.die d →
      (w.die d).tai = (ab, a, rate) ∧ (w.die d).map0 = none ∧ (w.die d).map1 = none := by
    intro w hw
    rw [hw, State.die_setDie_same]
    exact ⟨rfl, rfl, rfl⟩
  refine ⟨(if d = cr0 then u.setCr0Map (ab, a, rate) else u).setTaiFlags d v h, ?_, ?_⟩
  · show execTaiMapApply d s = _
    simp only [execTaiMapApply, h0, h1, ht, beq_self_eq_true, Bool.and_self, if_true, u]
  · obtain ⟨e1, e2, e3⟩ := SameMaps.setTaiFlags (if d = cr0 then u.setCr0Map (ab, a, rate) else u) d v h
    rw [e1, e2, e3]
    refine hu _ ?_
    split
    · exact u.setCr0Map_die ..
    · rfl

/-- Settles O3, one lemma for each clause. -/
theorem timeServiceCommandsComplete : Obligations.TimeServiceCommandsComplete := by
  unfold Obligations.TimeServiceCommandsComplete
  exact ⟨fun s => does_syncPortLoss_none s, fun n s => does_syncPortLoss_next s n, fun s => does_syncHoldoverExpiry s,
    fun s => does_servoMapUpdate_sample s, fun m s => does_servoMapUpdate_take s m, fun e own s => does_taiMapSend_own s e own,
    fun e ab rate ep a v h s => does_taiMapSend_held s e ab rate ep a v h,
    fun d s ab rate ep a v h => does_taiMapApply s d ab rate ep a v h⟩

end Sys2Proof.Machine
end

section
/-! Refutations: a state that meets a clause's hypotheses, and what the command answers on it. -/

namespace Sys2Proof.Machine

/-- The state a command answers; the state after reset where it answers none. -/
def answered : Host.Outcome State Fault Refusal → State
  | .next t => t
  | _ => State.reset

/-- A fact about the state a command answers refutes every claim that excludes it. -/
theorem Does.answered {c : Instr} {s : State} {P : State → Prop} (h : Does c s P) : P (answered (exec c s)) := by
  obtain ⟨t, ht, hp⟩ := h
  rw [ht]
  exact hp

/-- An end of CR0 in `RETIRED` whose pointer handshake is a turn old. -/
def retiredInHandshake : State :=
  { (State.reset.setF cr0 .ikl 0 Reg.IKL_LL_STATUS_STATE stRetired).setLink (.ikl cr0 0) { ptrReqAt := 1 } with
    time := turnBeats }

/-- Refutes O4: the clause on `PTR_HANDSHAKE_TIMEOUT` names no training state, and an end in `RETIRED` stays there. -/
theorem not_crossingCommandsComplete : ¬ Obligations.CrossingCommandsComplete := by
  unfold Obligations.CrossingCommandsComplete
  rintro ⟨-, -, -, -, h, -⟩
  have kept : (answered (exec (.ptrHandshakeTimeout (.ikl cr0 0)) retiredInHandshake)).lst (.ikl cr0 0) = stRetired := by
    decide +kernel
  have left := (h 0 0 retiredInHandshake (by decide +kernel) (by decide +kernel) (by decide +kernel)
    (by decide +kernel)).answered
  exact absurd (kept.symm.trans left) (by decide)

end Sys2Proof.Machine
end

section
/-! SUPPORT. Single bits, and what they say of masks kept in register fields. -/

namespace Sys2Proof.Machine

theorem testBit_add_two_pow {v i : Nat} (h : v.testBit i = false) (j : Nat) :
    (v + 2 ^ i).testBit j = (v.testBit j || decide (i = j)) := by
  rcases Nat.lt_trichotomy j i with hj | rfl | hj
  · rw [Nat.add_comm, Nat.testBit_two_pow_add_gt hj, decide_eq_false (Nat.ne_of_gt hj), Bool.or_false]
  · rw [Nat.add_comm, Nat.testBit_two_pow_add_eq, h]
    simp
  · obtain ⟨k, rfl⟩ : ∃ k, j = i + 1 + k := ⟨j - (i + 1), by omega⟩
    have low : v / 2 ^ i % 2 = 0 := by
      rw [Nat.testBit_eq_decide_div_mod_eq, decide_eq_false_iff_not] at h
      omega
    have same : (v + 2 ^ i) / 2 ^ (i + 1) = v / 2 ^ (i + 1) := by
      rw [Nat.pow_succ, ← Nat.div_div_eq_div_mul, ← Nat.div_div_eq_div_mul, Nat.add_div_right _ (Nat.two_pow_pos i)]
      omega
    rw [Nat.add_comm (i + 1) k, ← Nat.testBit_div_two_pow, same, Nat.testBit_div_two_pow, decide_eq_false (by omega),
      Bool.or_false]

theorem bit_setBit (v i j : Nat) : bit (setBit v i) j = (bit v j || decide (i = j)) := by
  unfold setBit
  split
  case isTrue h =>
    by_cases e : i = j
    · rw [← e, h]; rfl
    · rw [decide_eq_false e, Bool.or_false]
  case isFalse h =>
    rw [bit_eq, bit_eq]
    exact testBit_add_two_pow (by rw [← bit_eq]; exact Bool.eq_false_of_not_eq_true h) j

theorem bit_clrBit (v i j : Nat) : bit (clrBit v i) j = (bit v j && decide (i ≠ j)) := by
  unfold clrBit
  split
  case isTrue h =>
    rw [bit_eq] at h
    have le : 2 ^ i ≤ v := Nat.ge_two_pow_of_testBit h
    obtain ⟨w, rfl⟩ : ∃ w, v = w + 2 ^ i := ⟨v - 2 ^ i, by omega⟩
    have clear : w.testBit i = false := by
      rw [Nat.add_comm, Nat.testBit_two_pow_add_eq] at h
      exact Bool.not_eq_true' _ ▸ h
    rw [Nat.add_sub_cancel, bit_eq, bit_eq, testBit_add_two_pow clear]
    by_cases e : i = j
    · rw [← e, clear]; simp
    · simp [e]
  case isFalse h =>
    by_cases e : i = j
    · rw [← e, Bool.eq_false_of_not_eq_true h]; rfl
    · rw [decide_eq_true e, Bool.and_true]

theorem bit_clrBit_same (v i : Nat) : bit (clrBit v i) i = false := by
  rw [bit_clrBit, decide_eq_false (fun h => h rfl), Bool.and_false]

theorem bit_mod_two_pow {w i : Nat} (h : i < w) (v : Nat) : bit (v % 2 ^ w) i = bit v i := by
  rw [bit_eq, bit_eq, Nat.testBit_mod_two_pow, decide_eq_true h, Bool.true_and]

theorem bit_mod_two_pow_eq_false {w i : Nat} {v : Nat} (h : bit v i = false) : bit (v % 2 ^ w) i = false := by
  rw [bit_eq, Nat.testBit_mod_two_pow, ← bit_eq, h, Bool.and_false]

/-- A bit written into a mask kept in a register field reads set. -/
theorem State.bit_setF_setBit (s : State) {d : Die} {b : Blk} {i : Nat} {f : Fld} {k n : Nat} (hn : n < f.w) (v : Nat) :
    bit ((s.setF d b i f (setBit v n) k).getF d b i f k) n = true := by
  rw [State.getF_setF_same, bit_mod_two_pow hn, bit_setBit_same]

/-- A bit cleared in a mask kept in a register field reads clear. -/
theorem State.bit_setF_clrBit (s : State) {d : Die} {b : Blk} {i : Nat} {f : Fld} {k : Nat} (n v : Nat) :
    bit ((s.setF d b i f (clrBit v n) k).getF d b i f k) n = false := by
  rw [State.getF_setF_same]
  exact bit_mod_two_pow_eq_false (bit_clrBit_same v n)

end Sys2Proof.Machine
end

section
/-! The JTAG instructions, public and private (R410, R411). -/

namespace Sys2Proof.Machine

variable (s : State)

/-! ### The boundary register captures without touching anything but the free values -/

theorem State.capture_eq (n : Nat) : (s.capture n).2 = { s with free := (s.capture n).2.free } := by
  unfold State.capture
  refine List.foldlRecOn (List.range n) _ (motive := fun q : List Bool × State => q.2 = { s with free := q.2.free }) rfl ?_
  intro q hq _ _
  show { q.2 with free := q.2.free + 1 } = { s with free := q.2.free + 1 }
  generalize q.2 = u at hq ⊢
  rw [hq]

theorem State.tapScan_eq (h : s.tapOn = true) (ir : Nat) (tdi : List Bool) : s.tapScan ir tdi =
    { s with free := (s.capture tdi.length).2.free,
             boot := { s.boot with jtagIr := ir, jtagOut := ((s.capture tdi.length).1 ++ tdi).take tdi.length, jtagBsr := tdi } } := by
  unfold State.tapScan State.tapShift
  simp only [h, Bool.not_true, Bool.false_eq_true, if_false]
  rw [s.capture_eq]

theorem State.tapBypass_eq (h : s.tapOn = true) (ir : Nat) (tdi : List Bool) : s.tapBypass ir tdi =
    { s with boot := { s.boot with jtagIr := ir, jtagOut := (false :: tdi).take tdi.length } } := if_pos h

/-! ### What drives the balls -/

/-- Where boundary scan is open the instruction in force is the one shifted in. -/
theorem State.jtagInForce_of_open (h : s.scanOpen = true) : s.jtagInForce = s.boot.jtagIr := by
  unfold State.jtagInForce
  rw [h, Bool.not_true, Bool.and_false, if_neg Bool.false_ne_true]

theorem State.ballDrive_of_scan (h : s.jtagInForce = 3 ∨ s.jtagInForce = 4) : s.ballDrive = 1 := by
  unfold State.ballDrive
  rcases h with h | h <;> (rw [h]; rfl)

theorem State.ballDrive_of_highz (h : s.jtagInForce = 5) : s.ballDrive = 2 := by
  unfold State.ballDrive
  rw [h]; rfl

/-- Where boundary scan is closed the package drives the balls. -/
theorem State.ballDrive_of_closed (h : s.scanOpen = false) : s.ballDrive = 0 := by
  have inForce : s.jtagInForce ∉ [3, 4, 5] := by
    unfold State.jtagInForce
    rw [h, Bool.not_false, Bool.and_true]
    by_cases m : s.boot.jtagIr ∈ [3, 4, 5]
    · rw [if_pos (decide_eq_true m)]; decide
    · rwa [if_neg (by rwa [decide_eq_true_eq])]
  unfold State.ballDrive
  split
  case h_4 => rfl
  all_goals simp [*] at inForce

theorem State.tapShift_jtagIr (ir : Nat) (cap tdi : List Bool) : (s.tapShift ir cap tdi).boot.jtagIr = ir := rfl

theorem State.tapShift_jtagOut (ir : Nat) (cap tdi : List Bool) :
    (s.tapShift ir cap tdi).boot.jtagOut = (cap ++ tdi).take tdi.length := rfl

theorem State.tapShift_mem (ir : Nat) (cap tdi : List Bool) : (s.tapShift ir cap tdi).mem = s.mem := rfl

/-! ### The public instructions -/

section
variable {s}

theorem exec_extest_of_open (ho : s.scanOpen = true) (tdi : List Bool) : exec (.extest tdi) s = .next (s.tapScan 3 tdi) :=
  congrArg Host.Outcome.next (if_pos ho)

theorem exec_extest_of_closed (ho : s.scanOpen = false) (tdi : List Bool) :
    exec (.extest tdi) s = .next (s.tapBypass 3 tdi) :=
  congrArg Host.Outcome.next (if_neg (by rw [ho]; exact Bool.false_ne_true))

theorem exec_bypass (h : s.tapOn = true) (tdi : List Bool) : exec (.bypass tdi) s =
    .next { s with boot := { s.boot with jtagIr := 0, jtagOut := (false :: tdi).take tdi.length } } := by
  show execBypass tdi s = _
  rw [execBypass, s.tapBypass_eq h]

theorem exec_idcode (h : s.tapOn = true) (tdi : List Bool) : exec (.idcode tdi) s =
    .next (s.tapShift 1 ((List.range 32).map fun i => bit s.idcode i) tdi) := by
  show execIdcode tdi s = _
  rw [execIdcode, if_pos h]

theorem exec_samplePreload (tdi : List Bool) : exec (.samplePreload tdi) s = .next (s.tapScan 2 tdi) := rfl

theorem exec_clamp (h : s.tapOn = true) (tdi : List Bool) : exec (.clamp tdi) s =
    .next { s with boot := { s.boot with jtagIr := 4, jtagOut := (false :: tdi).take tdi.length } } := by
  show execClamp tdi s = _
  rw [execClamp, s.tapBypass_eq h]

theorem exec_highz (h : s.tapOn = true) (tdi : List Bool) : exec (.highz tdi) s =
    .next { s with boot := { s.boot with jtagIr := 5, jtagOut := (false :: tdi).take tdi.length } } := by
  show execHighz tdi s = _
  rw [execHighz, s.tapBypass_eq h]

theorem does_tap_public (tdi : List Bool) (h : s.tapOn = true) :
    (Does (.bypass tdi) s fun t => t.boot.jtagIr = 0 ∧ t.boot.jtagOut = (false :: tdi).take tdi.length) ∧
    (Does (.idcode tdi) s fun t => t.boot.jtagIr = 1 ∧
      t.boot.jtagOut = (((List.range 32).map fun i => bit s.idcode i) ++ tdi).take tdi.length) ∧
    (Does (.samplePreload tdi) s fun t => t.boot.jtagIr = 2 ∧ t.boot.jtagBsr = tdi) := by
  refine ⟨⟨_, exec_bypass h tdi, rfl, rfl⟩, ⟨_, exec_idcode h tdi, rfl, rfl⟩, ⟨_, exec_samplePreload tdi, ?_⟩⟩
  rw [s.tapScan_eq h]
  exact ⟨rfl, rfl⟩

theorem does_tap_open (tdi : List Bool) (h : s.tapOn = true) (ho : s.scanOpen = true) :
    (Does (.extest tdi) s fun t => t.ballDrive = 1 ∧ t.boot.jtagBsr = tdi) ∧
    (Does (.clamp tdi) s fun t => t.ballDrive = 1 ∧ t.boot.jtagBsr = s.boot.jtagBsr) ∧
    (Does (.highz tdi) s fun t => t.ballDrive = 2) := by
  refine ⟨⟨_, exec_extest_of_open ho tdi, ?_, ?_⟩, ⟨_, exec_clamp h tdi,
    State.ballDrive_of_scan _ (.inr (State.jtagInForce_of_open _ ho)), rfl⟩,
    ⟨_, exec_highz h tdi, State.ballDrive_of_highz _ (State.jtagInForce_of_open _ ho)⟩⟩
  · rw [s.tapScan_eq h]; exact State.ballDrive_of_scan _ (.inl (State.jtagInForce_of_open _ ho))
  · rw [s.tapScan_eq h]

theorem does_tap_closed (tdi : List Bool) (h : s.tapOn = true) (ho : s.scanOpen = false) :
    (Does (.extest tdi) s fun t => t.ballDrive = 0) ∧ (Does (.clamp tdi) s fun t => t.ballDrive = 0) ∧
    (Does (.highz tdi) s fun t => t.ballDrive = 0) := by
  refine ⟨⟨_, exec_extest_of_closed ho tdi, ?_⟩, ⟨_, exec_clamp h tdi, State.ballDrive_of_closed _ ho⟩,
    ⟨_, exec_highz h tdi, State.ballDrive_of_closed _ ho⟩⟩
  rw [s.tapBypass_eq h]
  exact State.ballDrive_of_closed _ ho

/-! ### The private instruction -/

theorem exec_memRead (pa : BitVec 48) (tdi : List Bool) (h : bit (s.getF cr0 .sec 0 Reg.SEC_DBG_SCOPE) 1 = true) :
    exec (.privateInstruction (.memRead pa) tdi) s = .next ((s.putRd .tap (s.rd32 (pa.toNat / 4 * 4))).tapShift 7
      (bitList (s.rd32 (pa.toNat / 4 * 4)) 32) tdi) := by
  show execPrivateInstruction (.memRead pa) tdi s = _
  rw [execPrivateInstruction, h, Bool.not_true, if_neg Bool.false_ne_true]

theorem does_memRead (pa : BitVec 48) (tdi : List Bool) (h : bit (s.getF cr0 .sec 0 Reg.SEC_DBG_SCOPE) 1 = true) :
    Does (.privateInstruction (.memRead pa) tdi) s fun t => t.boot.jtagIr = 7 ∧
      t.boot.jtagOut = (bitList (s.rd32 (pa.toNat / 4 * 4)) 32 ++ tdi).take tdi.length ∧ t.mem = s.mem :=
  ⟨_, exec_memRead pa tdi h, State.tapShift_jtagIr _ _ _ _, State.tapShift_jtagOut _ _ _ _,
    (State.tapShift_mem _ _ _ _).trans (State.putRd_mem _ _ _)⟩

theorem exec_tap_msRead (a : Word) (tdi : List Bool) (h : bit (s.getF cr0 .sec 0 Reg.SEC_DBG_SCOPE) 1 = true) :
    exec (.privateInstruction (.msRead a) tdi) s = .next (((s.msRead .tap (a.toNat / 4 * 4)).2.putRd .tap
      (s.msRead .tap (a.toNat / 4 * 4)).1).tapShift 7 (bitList (s.msRead .tap (a.toNat / 4 * 4)).1 32) tdi) := by
  show execPrivateInstruction (.msRead a) tdi s = _
  rw [execPrivateInstruction, h, Bool.not_true, if_neg Bool.false_ne_true]

theorem does_msRead (a : Word) (tdi : List Bool) (h : bit (s.getF cr0 .sec 0 Reg.SEC_DBG_SCOPE) 1 = true) :
    Does (.privateInstruction (.msRead a) tdi) s fun t => t.boot.jtagIr = 7 ∧
      t.boot.jtagOut = (bitList (s.msRead .tap (a.toNat / 4 * 4)).1 32 ++ tdi).take tdi.length :=
  ⟨_, exec_tap_msRead a tdi h, State.tapShift_jtagIr _ _ _ _, State.tapShift_jtagOut _ _ _ _⟩

/-- Without a scope bit the private instruction is BYPASS. -/
theorem does_private_locked (op : PrivOp) (tdi : List Bool) (h : s.tapOn = true)
    (hs : s.getF cr0 .sec 0 Reg.SEC_DBG_SCOPE = 0) :
    Does (.privateInstruction op tdi) s fun t => t.boot.jtagIr = 7 ∧ t.boot.jtagOut = (false :: tdi).take tdi.length ∧
      t.mem = s.mem ∧ t.recov = s.recov := by
  refine ⟨{ s with boot := { s.boot with jtagIr := 7, jtagOut := (false :: tdi).take tdi.length } }, ?_, rfl, rfl, rfl, rfl⟩
  have none (n : Nat) : (!bit 0 n) = true := by simp [bit]
  show execPrivateInstruction op tdi s = _
  simp only [execPrivateInstruction, hs, none, if_true, s.tapBypass_eq h]

theorem does_halt (d : Die) (on : Bool) (tdi : List Bool) (h : bit (s.getF cr0 .sec 0 Reg.SEC_DBG_SCOPE) 2 = true) :
    Does (.privateInstruction (.halt d on) tdi) s fun t => bit t.recov.halted (dieCode d) = on := by
  refine ⟨{ s with recov := { s.recov with
      halted := if on then setBit s.recov.halted (dieCode d) else clrBit s.recov.halted (dieCode d) } }.tapShift 7 [] tdi, ?_, ?_⟩
  · show execPrivateInstruction (.halt d on) tdi s = _
    rw [execPrivateInstruction, h, Bool.not_true, if_neg Bool.false_ne_true]
  · show bit (if on then _ else _) _ = on
    cases on with
    | true => exact bit_setBit_same ..
    | false => exact bit_clrBit_same ..

end

/-- Settles O38, one lemma for each clause. -/
theorem jtagCommandsComplete : Obligations.JtagCommandsComplete := by
  unfold Obligations.JtagCommandsComplete
  exact ⟨fun tdi _ => does_tap_public tdi, fun tdi _ => does_tap_open tdi, fun tdi _ => does_tap_closed tdi,
    fun pa tdi _ => does_memRead pa tdi, fun a tdi _ => does_msRead a tdi, fun op tdi _ => does_private_locked op tdi,
    fun d on tdi _ => does_halt d on tdi⟩

end Sys2Proof.Machine
end

section
/-! Trust: rollback counters, the flash port and debug tokens (R387, R388, R408, R411, R412). -/

namespace Sys2Proof.Machine

/-! ### SUPPORT: bit fields of a written word, and the number that some bytes spell -/

theorem bitsOf_eq_of_bit {v v' lo n : Nat} (h : ∀ j < n, bit v (lo + j) = bit v' (lo + j)) :
    bitsOf v lo n = bitsOf v' lo n := by
  unfold bitsOf
  apply Nat.eq_of_testBit_eq
  intro j
  rw [Nat.testBit_mod_two_pow, Nat.testBit_mod_two_pow, Nat.testBit_div_two_pow, Nat.testBit_div_two_pow, Nat.add_comm j]
  by_cases hj : j < n
  · rw [← bit_eq, ← bit_eq, h j hj]
  · rw [decide_eq_false hj, Bool.false_and, Bool.false_and]

/-- A bit set outside a bit field leaves the field. -/
theorem bitsOf_setBit {i lo n : Nat} (h : i < lo ∨ lo + n ≤ i) (v : Nat) : bitsOf (setBit v i) lo n = bitsOf v lo n :=
  bitsOf_eq_of_bit fun j hj => by rw [bit_setBit, decide_eq_false (by omega), Bool.or_false]

/-- A bit cleared outside a bit field leaves the field. -/
theorem bitsOf_clrBit {i lo n : Nat} (h : i < lo ∨ lo + n ≤ i) (v : Nat) : bitsOf (clrBit v i) lo n = bitsOf v lo n :=
  bitsOf_eq_of_bit fun j hj => by rw [bit_clrBit, decide_eq_true (by omega), Bool.and_true]

theorem leNat_lt : ∀ l : List Byte, leNat l < 256 ^ l.length
  | [] => Nat.one_pos
  | b :: l => by
    have := leNat_lt l
    have := b.isLt
    show b.toNat + 256 * leNat l < 256 ^ (l.length + 1)
    omega

theorem leNat_cut_lt (l : List Byte) (a n : Nat) : leNat (cut l a n) < 256 ^ n :=
  (leNat_lt _).trans_le (Nat.pow_le_pow_right (by decide) (List.length_take_le ..))

theorem cut_take {l : List Byte} {a n m : Nat} (h : a + n ≤ m) : cut (l.take m) a n = cut l a n := by
  unfold cut
  rw [List.drop_take, List.take_take, Nat.min_eq_left (by omega)]

variable {s : State}

theorem Does.intro {c : Instr} {t : State} {P : State → Prop} (h : exec c s = .next t) (ht : P t) : Does c s P := ⟨t, h, ht⟩

/-! ### Rollback counters -/

theorem does_rollbackCommit (w : Word) (c : w.toNat % 4 < 3) (above : s.rbMin (w.toNat % 4) < bitsOf w.toNat 2 7)
    (max : bitsOf w.toNat 2 7 ≤ 64) (version : bitsOf w.toNat 2 7 ≤ s.getF cr0 .sec 0 Reg.SEC_VERSION (4 * (w.toNat % 4)))
    (idle : s.boot.blow = none) :
    Does (.rollbackCommit w) s fun t => t.boot.blow = some (w.toNat % 4, bitsOf w.toNat 2 7, s.time) := by
  have ctr : setBit w.toNat 31 % 4 = w.toNat % 4 := by
    have := bitsOf_setBit (i := 31) (lo := 0) (n := 2) (.inr (by decide)) w.toNat
    rwa [bitsOf, bitsOf, Nat.pow_zero, Nat.div_one, Nat.div_one] at this
  have value : bitsOf (setBit w.toNat 31) 2 7 = bitsOf w.toNat 2 7 := bitsOf_setBit (.inr (by decide)) _
  have go : bit (setBit w.toNat 31) 31 = true := bit_setBit_same ..
  refine ⟨s.rbWrite (setBit w.toNat 31), rfl, ?_⟩
  unfold State.rbWrite
  rw [ctr, value, go, Bool.not_true, if_neg Bool.false_ne_true, idle, decide_eq_true ⟨c, above, max, version⟩,
    if_pos (by rfl)]

theorem does_rollbackCommitDone {c v since : Nat} (h : s.boot.blow = some (c, v, since)) (hc : c < 3) (hv : v ≤ 64) :
    Does .rollbackCommitDone s fun t => t.rbMin c = v ∧ t.boot.blow = none := by
  refine ⟨{ (s.setF cr0 .sec 0 Reg.SEC_MIN v (4 * c)).setF cr0 .sec 0 Reg.SEC_RB_COMMIT_BUSY 0 with
    boot := { s.boot with blow := none } }, ?_, ?_, rfl⟩
  · show execRollbackCommitDone s = _
    rw [execRollbackCommitDone, h]; rfl
  · rw [State.rbMin, if_pos hc]
    show ((s.setF cr0 .sec 0 Reg.SEC_MIN v (4 * c)).setF cr0 .sec 0 Reg.SEC_RB_COMMIT_BUSY 0).getF cr0 .sec 0 Reg.SEC_MIN
      (4 * c) = v
    rw [State.getF_setF_of_tag (by decide), State.getF_setF_same]
    exact Nat.mod_eq_of_lt (hv.trans_lt (by decide))

/-! ### The flash port -/

/-- The address the flash is given for a command: that of a page for a program, of a sector for an erase, none for a status. -/
def State.flAt (s : State) (cmd : Nat) : Nat :=
  let a := s.getF cr0 .boot 0 Reg.BOOT_FL_ADDR
  let sector := 2 ^ max 12 (s.getF cr0 .boot 0 Reg.BOOT_FLASH_ERASE)
  if cmd == 2 then a / 256 * 256 else if cmd == 3 then a / sector * sector else if cmd == 4 then 0 else a

/-- A command that the flash port takes is in progress, with its address and the bytes to program. -/
theorem State.flGo_boot (done : s.isF cr0 .boot 0 Reg.BOOT_STATUS_FLASH_DONE = true) (idle : s.boot.flCmd = 0)
    (addr : Tab.get 0 s.resv (winBase cr0 + blkOff .boot 0 + Reg.BOOT_FL_ADDR.off) = 0) {cmd : Nat} (h0 : cmd ≠ 0) (h4 : cmd ≤ 4)
    (h1 : cmd = 1 → s.getF cr0 .boot 0 Reg.BOOT_FL_ADDR + 256 ≤ 2 ^ 26) : (s.flGo cmd).boot =
      { s.boot with flCmd := cmd, flTx := some (cmd, s.flAt cmd, if cmd == 2 then s.flData else []) } := by
  have free : (s.boot.flCmd != 0 || cmd == 0 || decide (4 < cmd)) = false := by
    rw [idle, decide_eq_false (by omega), beq_false_of_ne h0]; rfl
  have room : (cmd == 1 && decide (2 ^ 26 < s.getF cr0 .boot 0 Reg.BOOT_FL_ADDR + 256)) = false := by
    by_cases e : cmd = 1
    · rw [decide_eq_false (by have := h1 e; omega), Bool.and_false]
    · rw [beq_false_of_ne e, Bool.false_and]
  unfold State.flGo
  rw [done, Bool.not_true, if_neg Bool.false_ne_true, free, if_neg Bool.false_ne_true, addr, room, bne_self_eq_false,
    Bool.or_false, Bool.and_false, if_neg Bool.false_ne_true]
  rfl

theorem does_flash (done : s.isF cr0 .boot 0 Reg.BOOT_STATUS_FLASH_DONE = true) (idle : s.boot.flCmd = 0)
    (addr : Tab.get 0 s.resv (winBase cr0 + blkOff .boot 0 + Reg.BOOT_FL_ADDR.off) = 0) :
    (s.getF cr0 .boot 0 Reg.BOOT_FL_ADDR + 256 ≤ 2 ^ 26 →
      Does .flashRead s fun t => t.boot.flTx = some (1, s.getF cr0 .boot 0 Reg.BOOT_FL_ADDR, []) ∧ t.boot.flCmd = 1) ∧
    (Does .flashProgram s fun t =>
      t.boot.flTx = some (2, s.getF cr0 .boot 0 Reg.BOOT_FL_ADDR / 256 * 256, s.flData) ∧ t.boot.flCmd = 2) ∧
    (Does .flashErase s fun t => t.boot.flCmd = 3 ∧ t.boot.flTx = some (3, s.getF cr0 .boot 0 Reg.BOOT_FL_ADDR /
      2 ^ max 12 (s.getF cr0 .boot 0 Reg.BOOT_FLASH_ERASE) * 2 ^ max 12 (s.getF cr0 .boot 0 Reg.BOOT_FLASH_ERASE), [])) ∧
    (Does .flashStatus s fun t => t.boot.flTx = some (4, 0, []) ∧ t.boot.flCmd = 4) := by
  refine ⟨fun room => .intro (t := s.flGo 1) rfl ?_, .intro (t := s.flGo 2) rfl ?_, .intro (t := s.flGo 3) rfl ?_,
    .intro (t := s.flGo 4) rfl ?_⟩
  · rw [State.flGo_boot done idle addr (by decide) (by decide) fun _ => room]; exact ⟨rfl, rfl⟩
  all_goals rw [State.flGo_boot done idle addr (by decide) (by decide) (fun h => absurd h (by decide))]; exact ⟨rfl, rfl⟩

theorem State.getF_foldl_flData (l : List Byte) (s : State) {i : Nat} : ∀ n, i < n →
    ((List.range n).foldl (fun (t : State) i =>
      t.setF cr0 .boot 0 Reg.BOOT_FL_DATA_DATA (leNat (cut l (4 * i) 4)) (4 * i)) s).getF cr0 .boot 0 Reg.BOOT_FL_DATA_DATA (4 * i) = leNat (cut l (4 * i) 4)
  | 0, h => absurd h (Nat.not_lt_zero i)
  | n + 1, h => by
    rw [List.range_succ, List.foldl_append]
    by_cases e : i = n
    · rw [e]
      exact (State.getF_setF_same ..).trans (Nat.mod_eq_of_lt (leNat_cut_lt l _ 4))
    · refine (State.getF_setF_ne _ (fkey_ne (by decide) (by decide) (.inl ?_))).trans
        (State.getF_foldl_flData l s n (by omega))
      omega

/-- `FL_DATA` holds the bytes put into it, word by word. -/
theorem State.getF_setFlData (l : List Byte) (s : State) {i : Nat} (hi : i < 64) (h : 4 * i + 4 ≤ l.length) :
    (s.setFlData (l.take 256)).getF cr0 .boot 0 Reg.BOOT_FL_DATA_DATA (4 * i) = leNat (cut l (4 * i) 4) := by
  unfold State.setFlData
  rw [State.getF_foldl_flData _ _ _ (by rw [ceilDiv, List.length_take]; omega), cut_take (by omega)]

theorem exec_flashCommandDone (err : Bool) (data : List Byte) (h : s.boot.flCmd ≠ 0) {u : State}
    (hu : u = if err then (s.setF cr0 .boot 0 Reg.BOOT_FL_CMD_BUSY 0).setF cr0 .boot 0 Reg.BOOT_FL_CMD_ERR 1
      else if s.boot.flCmd == 1 then (s.setF cr0 .boot 0 Reg.BOOT_FL_CMD_BUSY 0).setFlData (data.take 256)
      else if s.boot.flCmd == 4 then
        (s.setF cr0 .boot 0 Reg.BOOT_FL_CMD_BUSY 0).setFlData ((data.take 1) ++ (s.flData.drop 1).take 3)
      else s.setF cr0 .boot 0 Reg.BOOT_FL_CMD_BUSY 0) :
    exec (.flashCommandDone err data) s = .next { u with boot := { u.boot with flCmd := 0 } } := by
  show execFlashCommandDone err data s = _
  rw [execFlashCommandDone, beq_false_of_ne h, if_neg Bool.false_ne_true, hu]

theorem does_flashCommandDone (err : Bool) (data : List Byte) (h : s.boot.flCmd ≠ 0) :
    Does (.flashCommandDone err data) s fun t => t.boot.flCmd = 0 ∧
      (err = true → t.isF cr0 .boot 0 Reg.BOOT_FL_CMD_ERR = true) ∧
      (err = false → s.boot.flCmd = 1 → ∀ i < 64, 4 * i + 4 ≤ data.length →
        t.getF cr0 .boot 0 Reg.BOOT_FL_DATA_DATA (4 * i) = leNat (cut data (4 * i) 4)) := by
  refine ⟨_, exec_flashCommandDone err data h rfl, rfl, fun e => ?_, fun e read i hi len => ?_⟩
  · rw [e, if_pos rfl]
    exact State.isF_setF_one (by decide)
  · rw [e, if_neg Bool.false_ne_true, read, if_pos (beq_self_eq_true 1)]
    exact State.getF_setFlData data _ hi len

/-! ### Debug tokens -/

theorem State.tokenOk_scope {l : List Byte} (h : s.tokenOk l = true) : leNat (cut (oBody l) 32 4) < 8 := by
  simp only [State.tokenOk, Bool.and_eq_true, decide_eq_true_eq] at h
  obtain ⟨⟨⟨-, scope⟩, -⟩, -⟩ := h
  exact scope

/-- A token that is taken unlocks its scope from this turn on. -/
theorem State.submit_takes {l : List Byte} (ok : s.tokenOk l = true)
    (hs : bit (leNat (cut (oBody l) 32 4)) 2 = false ∨ s.phase ≠ 10) :
    (s.submit l).getF cr0 .sec 0 Reg.SEC_DBG_SCOPE = leNat (cut (oBody l) 32 4) ∧
      (s.submit l).boot = { s.boot with dbgTurn := s.turn cr0 } := by
  have open_ : (bit (leNat (cut (oBody l) 32 4)) 2 && s.phase == 10) = false := by
    rcases hs with h | h
    · rw [h, Bool.false_and]
    · rw [beq_false_of_ne h, Bool.and_false]
  have nonce (u : State) : u.newNonce.getF cr0 .sec 0 Reg.SEC_DBG_SCOPE = u.getF cr0 .sec 0 Reg.SEC_DBG_SCOPE ∧
      u.newNonce.boot = u.boot :=
    ⟨Field.getF_of_same ((Only.refl u).newNonce (Allow.but (x := .ofReg .sec Reg.SEC_DBG_SCOPE) (by decide))).kept ..,
      ((Only.refl u).newNonce (Allow.but (x := .boot) (by decide))).kept⟩
  unfold State.submit
  rw [ok, Bool.not_true, if_neg Bool.false_ne_true, open_, if_neg Bool.false_ne_true, (nonce _).1, (nonce _).2]
  refine ⟨?_, rfl⟩
  show ((s.setF cr0 .sec 0 Reg.SEC_DBG_SCOPE _).setF cr0 .sec 0 Reg.SEC_DBG_LEFT_LEFT _).getF cr0 .sec 0 Reg.SEC_DBG_SCOPE = _
  rw [State.getF_setF_of_tag (by decide), State.getF_setF_same]
  exact Nat.mod_eq_of_lt (State.tokenOk_scope ok)

theorem does_debugLifetimeExpiry (hs : s.getF cr0 .sec 0 Reg.SEC_DBG_SCOPE ≠ 0) (turn : s.atTurn cr0 = true)
    (due : s.getF cr0 .sec 0 Reg.SEC_DBG_LEFT_LEFT ≤ s.turn cr0 - s.boot.dbgTurn) :
    Does .debugLifetimeExpiry s fun t => t.getF cr0 .sec 0 Reg.SEC_DBG_SCOPE = 0 := by
  refine .intro (t := State.debugLock { s.setF cr0 .sec 0 Reg.SEC_DBG_LEFT_LEFT 0 with
    boot := { s.boot with dbgTurn := s.turn cr0 } }) ?_ (State.getF_setF_same ..)
  show execDebugLifetimeExpiry s = _
  rw [execDebugLifetimeExpiry, beq_false_of_ne hs, turn, Bool.not_true, Bool.or_false, if_neg Bool.false_ne_true,
    Nat.sub_eq_zero_of_le due]
  rfl

/-- Settles O37, one lemma for each clause. -/
theorem trustCommandsComplete : Obligations.TrustCommandsComplete := by
  unfold Obligations.TrustCommandsComplete
  refine ⟨fun w _ => does_rollbackCommit w, fun _ _ _ _ => does_rollbackCommitDone, fun _ => does_flash,
    fun err data _ => does_flashCommandDone err data, fun l s hl ok hs => ?_, fun l s tap ok hs => ?_,
    fun s => ⟨_, rfl, State.getF_setF_same s cr0 .sec 0 Reg.SEC_DBG_SCOPE 0 0⟩, fun _ => does_debugLifetimeExpiry⟩
  · refine ⟨s.submitRegs, rfl, ?_⟩
    rw [State.submitRegs, ← hl]
    obtain ⟨scope, boot⟩ := State.submit_takes ok hs
    exact ⟨scope, congrArg BootSt.dbgTurn boot⟩
  · obtain ⟨scope, boot⟩ := State.submit_takes (s := { s with boot := { s.boot with jtagIr := 6, jtagOut := [] } }) ok hs
    exact .intro (if_pos tap) ⟨scope, congrArg BootSt.jtagIr boot⟩

end Sys2Proof.Machine
end

section
/-! SUPPORT. What the escalation ladder starts, and the record it logs (R443, R444). -/

namespace Sys2Proof.Machine

variable {s t : State}

theorem State.dom_of_same (h : Field.same .rcv s t) (k : Nat) : t.dom k = s.dom k := by
  unfold State.dom; rw [show t.rcv = s.rcv from h]

theorem State.dom_setDom_ne {k n : Nat} (x : RcvDom) (h : n ≠ k) : (s.setDom k x).dom n = s.dom n := Tab.get_set_ne _ _ h

/-- The newest record of a die's error log after one is written has its code. -/
theorem State.log_head (s : State) (d : Die) (b : Blk) (i rc : Nat) (detail : List Byte) (ctx : Nat) :
    ((s.log d b i rc detail ctx).die d).log.head?.map LogRec.rc = some rc := by
  rw [State.log_die]
  rfl

/-- The detail of a ladder record. -/
def State.ladderDetail (s : State) (lvl cause : Nat) (d : Die) (eng rc : Nat) : List Byte :=
  [BitVec.ofNat 8 cause, BitVec.ofNat 8 eng] ++ leBytes 2 rc ++ leBytes 4 (s.getF d .rcv 0 Reg.RCV_SUSPECT_MASK) ++
    leBytes 4 (s.dumpNum (if lvl == 4 then 4 else dieCode d) d)

/-- What a trigger puts into the recovery of its domain. -/
def State.ladderDom (s : State) (lvl cause : Nat) (d : Die) (eng rc origin : Nat) : RcvDom :=
  { level := lvl, cause := cause, eng := eng, rc := rc, since := s.time, beat := s.beat d, step := 1,
    origin := if origin == 0 then cause else origin }

/-- A trigger below chip level starts its level on its die, where no recovery at least as high is in hand. -/
theorem State.trigger_low {lvl : Nat} (cause : Nat) (d : Die) (eng rc origin : Nat) (h4 : lvl ≠ 4)
    (hd : (s.dom (dieCode d)).level < lvl) (hp : (s.dom 4).level < lvl) : s.trigger lvl cause d eng rc origin =
      (((s.log d .rcv 0 (0x9000 + lvl) (s.ladderDetail lvl cause d eng rc)).noteLast (0x9000 + lvl) cause d).setDom (dieCode d)
        (s.ladderDom lvl cause d eng rc origin)).showLevel := by
  have h4' : (lvl == 4) = false := beq_false_of_ne h4
  have hb : (lvl != 4) = true := by rw [bne, h4']; rfl
  unfold State.trigger
  simp only [h4', hb, Bool.false_eq_true, if_false, if_true]
  rw [decide_eq_false (Nat.not_le.mpr hd), decide_eq_false (Nat.not_le.mpr hp), Bool.or_self, if_neg Bool.false_ne_true]
  unfold State.ladderDetail State.ladderDom
  rw [h4', if_neg Bool.false_ne_true]

theorem State.trigger_low_dom {lvl : Nat} (cause : Nat) (d : Die) (eng rc origin : Nat) (h4 : lvl ≠ 4)
    (hd : (s.dom (dieCode d)).level < lvl) (hp : (s.dom 4).level < lvl) :
    (s.trigger lvl cause d eng rc origin).dom (dieCode d) = s.ladderDom lvl cause d eng rc origin := by
  rw [State.trigger_low cause d eng rc origin h4 hd hp, State.showLevel, State.setF_dom, State.dom_setDom_same]

theorem State.trigger_low_head {lvl : Nat} (cause : Nat) (d : Die) (eng rc origin : Nat) (h4 : lvl ≠ 4)
    (hd : (s.dom (dieCode d)).level < lvl) (hp : (s.dom 4).level < lvl) :
    ((s.trigger lvl cause d eng rc origin).die d).log.head?.map LogRec.rc = some (0x9000 + lvl) := by
  rw [State.trigger_low cause d eng rc origin h4 hd hp, ← State.log_head s d .rcv 0 (0x9000 + lvl)
    (s.ladderDetail lvl cause d eng rc) 0xFF]
  exact congrArg (fun x : DieSt => x.log.head?.map LogRec.rc) (State.die_of_same ((((Only.refl _).noteLast
    (hg0 := Allow.but (by decide)) ..).setDom (hp := Allow.but (by decide)) ..).showLevel (Allow.but (by decide))).kept d)

/-- A chip-level trigger starts chip level in the package, where it is not in hand. -/
theorem State.trigger_chip_dom (cause : Nat) (d : Die) (eng rc origin : Nat) (hp : (s.dom 4).level < 4) :
    ((s.trigger 4 cause d eng rc origin).dom 4).level = 4 := by
  have level (u : State) (x : RcvDom) (b : Bool) : ((if b then ((u.setDom 4 x).showLevel).stopAllSc
      else ((u.setDom 4 x).showLevel).chipTray cause).dom 4).level = x.level := by
    have shown : ((u.setDom 4 x).showLevel).dom 4 = x := by rw [State.showLevel, State.setF_dom, State.dom_setDom_same]
    cases b
    · rw [if_neg Bool.false_ne_true, State.dom_of_same ((Only.refl _).chipTray (hp := Allow.but (by decide)) ..).kept, shown]
    · rw [if_pos rfl, State.dom_of_same ((Only.refl _).stopAllSc (Allow.but (by decide))).kept, shown]
  unfold State.trigger
  simp only [beq_self_eq_true, if_true, bne_self_eq_false, Bool.false_eq_true, if_false]
  rw [decide_eq_false (Nat.not_le.mpr hp), Bool.or_self, if_neg Bool.false_ne_true]
  exact level ..

end Sys2Proof.Machine
end

section
/-! Held contexts and culprit replay (R449, R459 to R462). -/

namespace Sys2Proof.Machine

variable {s t : State}

theorem mem_bitsSet {v n i : Nat} : i ∈ bitsSet v n ↔ i < n ∧ bit v i = true := by
  rw [bitsSet, List.mem_filter, List.mem_range]

/-! ### The contexts held -/

theorem State.bit_held_clear (s : State) (n : Nat) {k : Nat} (hk : k < 32) :
    bit ((s.setF cr0 .rcv 0 Reg.RCV_HELD (clrBit (s.getF cr0 .rcv 0 Reg.RCV_HELD) n)).getF cr0 .rcv 0 Reg.RCV_HELD) k =
      (bit (s.getF cr0 .rcv 0 Reg.RCV_HELD) k && decide (n ≠ k)) := by
  rw [State.getF_setF_same, bit_mod_two_pow (w := Reg.RCV_HELD.w) hk, bit_clrBit]

theorem State.getF_held_letResume (s : State) (n : Nat) (asIs : Bool) :
    (s.letResume n asIs).getF cr0 .rcv 0 Reg.RCV_HELD =
      (s.setF cr0 .rcv 0 Reg.RCV_HELD (clrBit (s.getF cr0 .rcv 0 Reg.RCV_HELD) n)).getF cr0 .rcv 0 Reg.RCV_HELD :=
  Field.getF_of_same (Only.foldl (pt := Field.but (.ofReg .rcv Reg.RCV_HELD)) _
    (fun _ _ g => Only.ite (g.setCtx _ _ _ (Allow.but (by decide))) g) (Only.refl _)).kept ..

/-- The release of a context clears its bit in `HELD` and no other. -/
theorem State.bit_held_releaseCtx (s : State) (n : Nat) {k : Nat} (hk : k < 32) :
    bit ((s.releaseCtx n).getF cr0 .rcv 0 Reg.RCV_HELD) k = (bit (s.getF cr0 .rcv 0 Reg.RCV_HELD) k && decide (n ≠ k)) := by
  unfold State.releaseCtx
  split
  case isTrue h =>
    by_cases e : n = k
    · rw [← e, Bool.eq_false_of_not_eq_true' h, Bool.false_and]
    · rw [decide_eq_true e, Bool.and_true]
  case isFalse h =>
    split
    · rw [← s.bit_held_clear n hk]
      exact congrArg (bit · k) (Field.getF_of_same (Only.foldl (pt := Field.but (.ofReg .rcv Reg.RCV_HELD)) _
        (fun _ _ g => Only.ite ((g.setCtxState _ _ _ (Allow.but (by decide))).setDie _ _ (Allow.but (by decide))) g)
        (Only.refl _)).kept ..)
    · rw [State.getF_held_letResume, s.bit_held_clear n hk]

theorem State.bit_held_release {k : Nat} (hk : k < 32) : ∀ (l : List Nat) (s : State),
    bit ((l.foldl (fun t n => t.releaseCtx n) s).getF cr0 .rcv 0 Reg.RCV_HELD) k =
      (bit (s.getF cr0 .rcv 0 Reg.RCV_HELD) k && decide (k ∉ l))
  | [], s => by simp
  | n :: l, s => by
    rw [List.foldl_cons, State.bit_held_release hk l, s.bit_held_releaseCtx n hk, Bool.and_assoc]
    by_cases e : n = k
    · simp [e]
    · simp [e, Ne.symm e]

theorem does_contextRelease (w : Word) : Does (.contextRelease w) s fun t =>
    ∀ n < 32, bit w.toNat n = true → bit (t.getF cr0 .rcv 0 Reg.RCV_HELD) n = false := by
  refine .intro (t := s.releaseMask w.toNat) rfl fun n hn set => ?_
  rw [State.releaseMask, State.bit_held_release hn, decide_eq_false (not_not.mpr (mem_bitsSet.mpr ⟨hn, set⟩)), Bool.and_false]

/-! ### The replay in hand -/

theorem State.replay_of_same (h : Field.same .recov s t) (d : Die) : t.replay d = s.replay d := by
  unfold State.replay; rw [show t.recov = s.recov from h]

theorem State.replay_setReplay (s : State) (d : Die) (r : Option Replay) : (s.setReplay d r).replay d = r :=
  Tab.get_set_same ..

/-- The next suspect runs from now on, with nothing done. -/
theorem State.replay_nextSuspect (s : State) (d : Die) {r : Replay} {n : Nat} {rest : List Nat} (h : r.todo = n :: rest) :
    ∃ q, (s.nextSuspect d r).replay d = some q ∧ q.cur = some n ∧ q.todo = rest ∧ q.since = s.time ∧ q.done = 0 ∧
      q.hit = 0 ∧ q.culprits = r.culprits := by
  unfold State.nextSuspect
  rw [h]
  exact ⟨_, State.replay_setReplay .., rfl, rfl, rfl, rfl, rfl, rfl⟩

theorem State.die_nextSuspect (s : State) (d : Die) {r : Replay} {n : Nat} {rest : List Nat} (h : r.todo = n :: rest)
    (d' : Die) : (s.nextSuspect d r).die d' = s.die d' := by
  unfold State.nextSuspect
  rw [h]
  exact State.die_of_same ((Only.refl s).setReplay (hp := Allow.but (by decide)) ..).kept d'

theorem does_replayStart_first {m : Mv} (none_ : s.replay (.mv m) = none) (runs : s.ctlRuns m = true)
    (step : (s.dom m).step = 5) (level : (s.dom m).level ≠ 0) :
    Does (.replayStart m) s fun t => ∃ r, t.replay (.mv m) = some r ∧
      r.todo = bitsSet (s.getF (.mv m) .rcv 0 Reg.RCV_SUSPECT_MASK) 32 ∧ r.cur = none := by
  have go : ((s.dom m).step != 5 || (s.dom m).level == 0 || !s.ctlRuns m) = false := by
    rw [step, beq_false_of_ne level, runs]; rfl
  have asked (u : State) (r : Replay) (q : AdmReq) : ((u.setReplay (.mv m) (some r)).askToken (.mv m) q).replay (.mv m) = some r :=
    (State.replay_of_same ((Only.refl _).askToken (hg0 := Allow.but (by decide)) (hp := Allow.but (by decide)) ..).kept _).trans
      (State.replay_setReplay ..)
  unfold Does
  show ∃ t, execReplayStart m s = .next t ∧ _
  simp only [execReplayStart, none_, go, Bool.false_eq_true, if_false]
  exact ⟨_, rfl, _, asked .., rfl, rfl⟩

theorem does_replayStart_next {m : Mv} {r : Replay} {n : Nat} {rest : List Nat} (hr : s.replay (.mv m) = some r)
    (cur : r.cur = none) (todo : r.todo = n :: rest) (token : s.hasToken (.mv m) 2 0 r.eng = true) :
    Does (.replayStart m) s fun t => ∃ q, t.replay (.mv m) = some q ∧ q.cur = some n ∧ q.todo = rest ∧ q.since = s.time ∧
      q.done = 0 ∧ q.hit = 0 := by
  refine .intro (t := s.nextSuspect (.mv m) r) ?_ ?_
  · show execReplayStart m s = _
    simp only [execReplayStart, hr, cur, token, Option.isSome_none, Bool.false_eq_true, if_false, if_true]
  · obtain ⟨q, hq, hcur, htodo, since, done, hit, -⟩ := s.replay_nextSuspect (.mv m) todo
    exact ⟨q, hq, hcur, htodo, since, done, hit⟩

/-- A suspect that met the fault again is a culprit, and its record is logged. -/
theorem does_replaySuspectEnd_hit {m : Mv} {r : Replay} {n k : Nat} {rest : List Nat} (hr : s.replay (.mv m) = some r)
    (cur : r.cur = some n) (step : (s.dom m).step = 5) (todo : r.todo = k :: rest) (hit : r.hit = 8) :
    Does (.replaySuspectEnd m) s fun t => (∃ q, t.replay (.mv m) = some q ∧ q.cur = some k ∧ q.todo = rest ∧
        q.culprits = setBit r.culprits n) ∧ (t.die (.mv m)).log.head?.map LogRec.rc = some 0x9007 := by
  refine .intro (t := ((((s.log (.mv m) .rcv 0 0x9007 ([BitVec.ofNat 8 r.eng, BitVec.ofNat 8 (r.hit - 1)] ++ leBytes 2 r.done)
      n).setF cr0 .rcv 0 Reg.RCV_CULPRIT (setBit (s.getF cr0 .rcv 0 Reg.RCV_CULPRIT) n)).resetReplay (.mv m) r).nextSuspect
      (.mv m) { r with cur := none, culprits := setBit r.culprits n })) ?_ ⟨?_, ?_⟩
  · show execReplaySuspectEnd m s = _
    simp only [execReplaySuspectEnd, hr, cur, step, hit, bne_self_eq_false, beq_self_eq_true, Bool.true_or,
      Bool.false_eq_true, if_false, if_true]
  · obtain ⟨q, hq, hcur, htodo, -, -, -, culprits⟩ := State.replay_nextSuspect _ (.mv m)
      (r := { r with cur := none, culprits := setBit r.culprits n }) todo
    exact ⟨q, hq, hcur, htodo, culprits⟩
  · rw [State.die_nextSuspect _ _ (r := { r with cur := none, culprits := setBit r.culprits n }) todo, State.die_of_same
      ((Only.refl _).resetReplay (hg0 := Allow.but (by decide)) (hp := Allow.but (by decide)) ..).kept, State.setF_die]
    exact State.log_head ..

/-- A suspect that has done again all it had started goes on as no culprit. -/
theorem does_replaySuspectEnd_clean {m : Mv} {r : Replay} {n k : Nat} {rest : List Nat} (hr : s.replay (.mv m) = some r)
    (cur : r.cur = some n) (step : (s.dom m).step = 5) (todo : r.todo = k :: rest) (hit : r.hit = 0)
    (idle : s.sandboxBusy (.mv m) = false) (done : (s.stream (.mv m) r.eng n).started ≤ r.done) :
    Does (.replaySuspectEnd m) s fun t => ∃ q, t.replay (.mv m) = some q ∧ q.cur = some k ∧ q.todo = rest ∧
      q.culprits = r.culprits := by
  refine .intro (t := s.nextSuspect (.mv m) { r with cur := none }) ?_ ?_
  · show execReplaySuspectEnd m s = _
    simp only [execReplaySuspectEnd, hr, cur, step, hit, idle, done, bne_self_eq_false, decide_true, Bool.not_false]
    rfl
  · obtain ⟨q, hq, hcur, htodo, -, -, -, culprits⟩ := s.replay_nextSuspect (.mv m) (r := { r with cur := none }) todo
    exact ⟨q, hq, hcur, htodo, culprits⟩

/-- Settles O24, one lemma for each clause. -/
theorem replayCommandsComplete : Obligations.ReplayCommandsComplete := by
  unfold Obligations.ReplayCommandsComplete
  exact ⟨fun w _ => does_contextRelease w, fun _ _ => does_replayStart_first, fun _ _ _ _ _ => does_replayStart_next,
    fun _ _ _ _ _ _ => does_replaySuspectEnd_hit, fun _ _ _ _ _ _ => does_replaySuspectEnd_clean⟩

end Sys2Proof.Machine
end

section
/-! The escalation ladder: hangs, fences, crash dumps, bounds, the rejoin, and forced levels (R443 to R456, R470). -/

namespace Sys2Proof.Machine

variable {s t : State}

/-! ### Hangs -/

theorem State.dom_noteSuspects (s : State) (d : Die) (u lvl k : Nat) : (s.noteSuspects d u lvl).dom k = s.dom k :=
  State.dom_of_same ((Only.refl s).noteSuspects (hp := Allow.but (by decide)) ..).kept k

/-- Where the level is to start, the suspects of the unit are recorded, and its trigger leaves them. -/
theorem State.suspect_mask_trigger {lvl : Nat} (cause : Nat) (d : Die) (u rc : Nat) (hd : (s.dom (dieCode d)).level < lvl)
    (hp : (s.dom 4).level < lvl) : ((s.noteSuspects d u lvl).trigger lvl cause d u rc).getF d .rcv 0 Reg.RCV_SUSPECT_MASK =
      s.suspects d u % 2 ^ 32 := by
  rw [Field.getF_of_same ((Only.refl _).trigger (hg0 := Allow.but (x := .ofReg .rcv Reg.RCV_SUSPECT_MASK) (by decide))
    (hg1 := Allow.but (by decide)) (hg2 := Allow.but (by decide)) (hp := Allow.but (by decide)) ..).kept, State.noteSuspects,
    decide_eq_false (Nat.not_le.mpr hd), decide_eq_false (Nat.not_le.mpr hp), Bool.or_self, if_neg Bool.false_ne_true,
    State.getF_setF_same]

/-- A hang starts its level on the unit's die. -/
theorem State.hang_starts {lvl : Nat} (cause : Nat) (m : Mv) (u rc : Nat) (h4 : lvl ≠ 4) (hd : (s.dom m).level < lvl)
    (hp : (s.dom 4).level < lvl) : (((s.noteSuspects (.mv m) u lvl).trigger lvl cause (.mv m) u rc).die
      (.mv m)).log.head?.map LogRec.rc = some (0x9000 + lvl) ∧
      (((s.noteSuspects (.mv m) u lvl).trigger lvl cause (.mv m) u rc).dom m).level = lvl ∧
      ((s.noteSuspects (.mv m) u lvl).trigger lvl cause (.mv m) u rc).getF (.mv m) .rcv 0 Reg.RCV_SUSPECT_MASK =
        s.suspects (.mv m) u % 2 ^ 32 := by
  have low : ((s.noteSuspects (.mv m) u lvl).dom (dieCode (.mv m))).level < lvl := by rw [State.dom_noteSuspects]; exact hd
  have lowPkg : ((s.noteSuspects (.mv m) u lvl).dom 4).level < lvl := by rw [State.dom_noteSuspects]; exact hp
  exact ⟨State.trigger_low_head _ _ _ _ _ h4 low lowPkg,
    congrArg RcvDom.level (State.trigger_low_dom _ (.mv m) _ _ _ h4 low lowPkg), State.suspect_mask_trigger _ _ _ _ hd hp⟩

theorem does_engineHangDetect {m : Mv} {u : Fin 22} {lvl : Nat} (hung : s.hung (.mv m) u = true) (idle : s.replay (.mv m) = none)
    (hl : lvl = (if u.val < 16 then 2 else 3)) (hd : (s.dom m).level < lvl) (hp : (s.dom 4).level < lvl) :
    Does (.engineHangDetect m u) s fun t => (t.die (.mv m)).log.head?.map LogRec.rc = some (0x9000 + lvl) ∧
      (t.dom m).level = lvl ∧ t.getF (.mv m) .rcv 0 Reg.RCV_SUSPECT_MASK = s.suspects (.mv m) u % 2 ^ 32 := by
  have exec_eq : exec (.engineHangDetect m u) s = .next (if u.val < 16
      then (s.noteSuspects (.mv m) u 2).trigger 2 0x01 (.mv m) u 0x9001
      else (s.noteSuspects (.mv m) u 3).trigger 3 0x03 (.mv m) u 0x9001) := by
    show execEngineHangDetect m u s = _
    simp only [execEngineHangDetect, hung, idle, Option.any_none, Bool.not_true, Bool.false_eq_true, if_false]
  by_cases h : u.val < 16
  · rw [if_pos h] at exec_eq hl
    subst hl
    exact .intro exec_eq (State.hang_starts _ m u _ (by decide) hd hp)
  · rw [if_neg h] at exec_eq hl
    subst hl
    exact .intro exec_eq (State.hang_starts _ m u _ (by decide) hd hp)

/-! ### Fences -/

theorem State.dom_fenceDie (s : State) (d : Die) (es : List Nat) (rc : Nat) (susp : Bool) (k : Nat) :
    (s.fenceDie d es rc susp).dom k = s.dom k :=
  State.dom_of_same ((Only.refl s).fenceDie (hg0 := Allow.but (by decide)) (hg1 := Allow.but (by decide))
    (hg2 := Allow.but (by decide)) (hp := Allow.but (by decide)) ..).kept k

theorem State.dom_foldl_fenceDie (l : List Die) (es : List Nat) (rc : Nat) (susp : Die → Bool) (k : Nat) (s : State) :
    (l.foldl (fun t d => t.fenceDie d es rc (susp d)) s).dom k = s.dom k := by
  induction l generalizing s with
  | nil => rfl
  | cons d l ih => rw [List.foldl_cons, ih, State.dom_fenceDie]

theorem does_recoveryFenceEnd {k : Fin 5} (level : (s.dom k).level ≠ 0) (step : (s.dom k).step = 1)
    (due : (s.dom k).since + 4096 ≤ s.time) :
    Does (.recoveryFenceEnd k) s fun t => t.dom k = { s.dom k with step := 2 } := by
  have go : ((s.dom k).level == 0 || (s.dom k).step != 1 || decide (s.time < (s.dom k).since + 4096)) = false := by
    rw [beq_false_of_ne level, step, decide_eq_false (by omega)]; rfl
  unfold Does
  show ∃ t, execRecoveryFenceEnd k s = .next t ∧ _
  simp only [execRecoveryFenceEnd, go, Bool.false_eq_true, if_false]
  split
  · exact ⟨_, rfl, (State.dom_foldl_fenceDie ..).trans (State.dom_setDom_same ..)⟩
  · exact ⟨_, rfl, (State.dom_fenceDie ..).trans (State.dom_setDom_same ..)⟩

/-! ### Crash dumps -/

theorem State.dom_of_recov (s : State) (r : RecSt) (k : Nat) : State.dom { s with recov := r } k = s.dom k := rfl

theorem does_crashDumpDone_engine {m : Mv} (inTime : s.overdue m = false) (pkg : (s.dom 4).level ≠ 4) (level : (s.dom m).level = 2)
    (step : (s.dom m).step = 2) (runs : s.ctlRuns m = true) : Does (.crashDumpDone m) s fun t => (t.dom m).step =
      if (s.dom m).origin = 1 ∨ (s.dom m).origin = 3 then 5 else 6 := by
  unfold Does
  show ∃ t, execCrashDumpDone m s = .next t ∧ _
  simp only [execCrashDumpDone, inTime, beq_false_of_ne pkg, level, step, runs, Bool.false_and, Bool.false_eq_true, if_false,
    beq_self_eq_true, Bool.and_self, if_true]
  refine ⟨_, rfl, (congrArg RcvDom.step ((State.dom_of_recov ..).trans (State.dom_setDom_same ..))).trans ?_⟩
  simp only [Bool.or_eq_true, beq_iff_eq]

theorem State.dom_restartCtl (s : State) (m : Mv) (k : Nat) : (s.restartCtl m).dom k = s.dom k :=
  State.dom_of_same ((Only.refl s).restartCtl (hg0 := Allow.but (by decide)) (hp := Allow.but (by decide)) ..).kept k

theorem does_crashDumpDone_partition {m : Mv} (inTime : s.overdue m = false) (pkg : (s.dom 4).level ≠ 4)
    (level : (s.dom m).level = 3) (step : (s.dom m).step = 2) : Does (.crashDumpDone m) s fun t => (t.dom m).step = 4 := by
  unfold Does
  show ∃ t, execCrashDumpDone m s = .next t ∧ _
  simp only [execCrashDumpDone, inTime, beq_false_of_ne pkg, level, step, Bool.false_and, Bool.false_eq_true, if_false,
    beq_self_eq_true, Bool.and_self, if_true, show ((3 : Nat) == 2) = false from rfl]
  exact ⟨_, rfl, congrArg RcvDom.step ((State.dom_restartCtl ..).trans (State.dom_setDom_same ..))⟩

/-- The restart of a controller leaves the beats at which resets ended. -/
theorem State.doneAt_restartCtl (s : State) (m : Mv) : (s.restartCtl m).recov.doneAt = s.recov.doneAt := by
  have answered (u : State) : ((List.range 32).foldl (fun t n => if (t.ctx (.mv m) n).owed && t.ctxState (.mv m) n == 3 then
      t.answerFault (.mv m) n (ctxAction t (.mv m) n false) else t) u).recov = u.recov :=
    Only.kept (x := .recov) (Only.foldl _ (fun _ _ g => Only.ite (g.answerFault (hp := Allow.but (by decide)) ..) g) (Only.refl _))
  unfold State.restartCtl
  by_cases bad : (s.objectFault 2 areaFw (s.fwCopy (.mv m))).isSome = true
  · simp only [bad, if_true, State.log_recov]
  · simp only [Bool.eq_false_of_not_eq_true bad, Bool.false_eq_true, if_false, answered]

theorem State.die_dump_resetMvc (s : State) (d : Die) (x : RcvDom) (d' : Die) : ((s.dump d x).resetMvc d).die d' = s.die d' :=
  State.die_of_same (((Only.refl s).dump (hp := Allow.but (by decide)) ..).resetMvc (hg0 := Allow.but (by decide))
    (hp := Allow.but (by decide)) ..).kept d'

theorem does_crashDumpDone_chip {m : Mv} (inTime : s.overdue m = false) (level : (s.dom 4).level = 4)
    (step : (s.dom 4).step = 2) : Does (.crashDumpDone m) s fun t => Tab.get 0 t.recov.doneAt m = s.beat (.mv m) + 1 := by
  have doneAt (u : State) (p : Bool) (x : RcvDom) : (if p then u.setDom 4 x else u).recov = u.recov := by cases p <;> rfl
  unfold Does
  show ∃ t, execCrashDumpDone m s = .next t ∧ _
  simp only [execCrashDumpDone, inTime, level, step, Bool.false_eq_true, if_false, beq_self_eq_true, Bool.and_self, if_true]
  refine ⟨_, rfl, ?_⟩
  rw [doneAt, State.doneAt_restartCtl]
  have beat := congrArg DieSt.beat (s.die_dump_resetMvc (.mv m) (s.dom 4) (.mv m))
  generalize (s.dump (.mv m) (s.dom 4)).resetMvc (.mv m) = u at beat ⊢
  exact (Tab.get_set_same ..).trans (congrArg (· + 1) beat)

/-! ### Bounds -/

theorem does_recoveryBoundExpiry_engine {k : Fin 5} (hk : k.val < 4) (level : (s.dom k).level = 2) (step : (s.dom k).step < 5)
    (hp : (s.dom 4).level < 3) (due : (s.dom k).since + 8 * frameBeats ≤ s.time) :
    Does (.recoveryBoundExpiry k) s fun t => (t.dom k).level = 3 := by
  have late : s.overdue k = true := by
    simp only [State.overdue, level, decide_eq_true step, decide_eq_true due, beq_self_eq_true, Bool.and_self, Bool.true_or]
  have code : dieCode (.mv (Fin.ofNat 4 k)) = k := Nat.mod_eq_of_lt hk
  refine .intro (t := s.trigger 3 0x02 (.mv (Fin.ofNat 4 k)) (s.dom k).eng 0x9002 (s.dom k).origin) ?_ ?_
  · show execRecoveryBoundExpiry k s = _
    rw [execRecoveryBoundExpiry, late, if_pos rfl, State.handUp, level]
    rfl
  · have started := State.trigger_low_dom (s := s) 0x02 (.mv (Fin.ofNat 4 k)) (s.dom k).eng 0x9002 (s.dom k).origin
      (lvl := 3) (by decide) (by rw [code, level]; decide) hp
    rw [code] at started
    rw [started]
    rfl

theorem State.pwrcycReq_powerCycle (h : s.pins.oos = false) (cause : Nat) : (s.powerCycle cause).pins.pwrcycReq = true := by
  rw [State.powerCycle, h, if_neg Bool.false_ne_true]

theorem does_recoveryBoundExpiry_chip (level : (s.dom 4).level = 4) (due : (s.dom 4).since + 2500 * msBeats ≤ s.time)
    (oos : s.pins.oos = false) (cyc : s.isF cr0 .rcv 0 Reg.RCV_STATUS_PWRCYC = false) :
    Does (.recoveryBoundExpiry 4) s fun t => t.pins.pwrcycReq = true := by
  have late : s.overdue 4 = true := by
    simp only [State.overdue, level, decide_eq_true due, beq_self_eq_true, Bool.and_self, Bool.or_true]
  refine .intro (t := s.powerCycle 0x0A) ?_ (State.pwrcycReq_powerCycle oos _)
  show execRecoveryBoundExpiry 4 s = _
  rw [execRecoveryBoundExpiry, show ((4 : Fin 5) : Nat) = 4 from rfl, late, if_pos rfl, State.handUp, level, cyc]
  rfl

/-! ### The rejoin -/

theorem does_domainRejoin {m : Mv} (turn : s.atTurn (.mv m) = true) (level : 2 ≤ (s.dom m).level) (step : (s.dom m).step = 6)
    (due : Tab.get 0 s.recov.doneAt m - 1 + frameBeats ≤ s.beat (.mv m)) :
    Does (.domainRejoin m) s fun t => t.dom m = {} := by
  have held (l : List Nat) (q : Nat) (u : State) : (l.foldl (fun t n => t.endHold (.mv m) n (bit q n)) u).dom m = u.dom m :=
    State.dom_of_same (Only.foldl l (fun _ _ g => g.endHold (hg0 := Allow.but (by decide)) (hp := Allow.but (by decide)) ..)
      (Only.refl u)).kept _
  unfold Does
  show ∃ t, execDomainRejoin m s = .next t ∧ _
  simp only [execDomainRejoin, turn, decide_eq_true level, step, decide_eq_true due, beq_self_eq_true, Bool.and_self, if_true]
  exact ⟨_, rfl, (held ..).trans ((State.dom_of_recov ..).trans ((State.setF_dom ..).trans (State.dom_setDom_same ..)))⟩

/-! ### Forced levels -/

/-- The fields of `FORCE` stand, whatever comes of the request. -/
def State.forceFields (s : State) (lvl die eng : Nat) : State :=
  ((s.setF cr0 .rcv 0 Reg.RCV_FORCE_LEVEL lvl).setF cr0 .rcv 0 Reg.RCV_FORCE_DIE die).setF cr0 .rcv 0 Reg.RCV_FORCE_ENGINE eng

theorem State.force_starts {lvl : Nat} (m : Mv) (eng : Nat) (phase : s.phase = 10) (h2 : 2 ≤ lvl) (h4 : lvl ≤ 4) :
    s.force lvl m eng = if lvl == 2 then ((s.forceFields lvl m eng).noteSuspects (.mv m) eng 2).trigger 2 0x0D (.mv m) eng
      else (s.forceFields lvl m eng).trigger lvl 0x0D (.mv m) := by
  have die : (Fin.ofNat 4 m.val) = m := Fin.ofNat_val_eq_self m
  have valid : (decide (lvl < 2) || decide (4 < lvl) || decide (4 ≤ m.val) || !s.hasDie (.mv m)) = false := by
    rw [decide_eq_false (by omega), decide_eq_false (by omega), decide_eq_false (by omega)]; rfl
  unfold State.force
  rw [die, phase, valid, bne_self_eq_false, if_neg Bool.false_ne_true, if_neg Bool.false_ne_true]
  rfl

theorem State.dom_forceFields (s : State) (lvl die eng k : Nat) : (s.forceFields lvl die eng).dom k = s.dom k := by
  rw [State.forceFields, State.setF_dom, State.setF_dom, State.setF_dom]

theorem does_forceEngineReset {m : Mv} (eng : Fin 16) (phase : s.phase = 10) (hd : (s.dom m).level < 2) (hp : (s.dom 4).level < 2) :
    Does (.forceEngineReset ⟨m.val, by omega⟩ eng) s fun t => (t.dom m).level = 2 ∧ (t.dom m).eng = eng := by
  have started := State.trigger_low_dom (s := (s.forceFields 2 m eng).noteSuspects (.mv m) eng 2) 0x0D (.mv m) eng 0 0
    (lvl := 2) (by decide) (by rw [State.dom_noteSuspects, State.dom_forceFields]; exact hd)
    (by rw [State.dom_noteSuspects, State.dom_forceFields]; exact hp)
  exact .intro (congrArg Host.Outcome.next (State.force_starts m eng phase (by decide) (by decide)))
    ⟨congrArg RcvDom.level started, congrArg RcvDom.eng started⟩

theorem does_forcePartitionReset {m : Mv} (phase : s.phase = 10) (hd : (s.dom m).level < 3) (hp : (s.dom 4).level < 3) :
    Does (.forcePartitionReset ⟨m.val, by omega⟩) s fun t => (t.dom m).level = 3 :=
  .intro (congrArg Host.Outcome.next (State.force_starts m 0 phase (by decide) (by decide)))
    (congrArg RcvDom.level (State.trigger_low_dom _ (.mv m) _ _ _ (by decide) (by rw [State.dom_forceFields]; exact hd)
      (by rw [State.dom_forceFields]; exact hp)))

theorem does_forceChipReset {m : Mv} (phase : s.phase = 10) (hp : (s.dom 4).level < 4) :
    Does (.forceChipReset ⟨m.val, by omega⟩) s fun t => (t.dom 4).level = 4 :=
  .intro (congrArg Host.Outcome.next (State.force_starts m 0 phase (by decide) (by decide)))
    (State.trigger_chip_dom _ _ _ _ _ (by rw [State.dom_forceFields]; exact hp))

/-- Settles O23, one lemma for each clause. -/
theorem ladderCommandsComplete : Obligations.LadderCommandsComplete := by
  unfold Obligations.LadderCommandsComplete
  exact ⟨fun _ _ _ _ => does_engineHangDetect, fun _ _ => does_recoveryFenceEnd, fun _ _ => does_crashDumpDone_engine,
    fun _ _ => does_crashDumpDone_partition, fun _ _ => does_crashDumpDone_chip, fun _ _ => does_recoveryBoundExpiry_engine,
    fun _ => does_recoveryBoundExpiry_chip, fun _ _ => does_domainRejoin, fun _ eng _ => does_forceEngineReset eng,
    fun _ _ => does_forcePartitionReset, fun _ _ => does_forceChipReset⟩

end Sys2Proof.Machine
end

section
/-! Heartbeats, the fault granule, watchdogs, and the tray's packages (R446 to R450, R458). -/

namespace Sys2Proof.Machine

variable {s t : State}

theorem length_leBytes : ∀ n v, (leBytes n v).length = n
  | 0, _ => rfl
  | n + 1, _ => congrArg (· + 1) (length_leBytes n _)

theorem State.rdBytes_congr : ∀ {n a : Nat}, (∀ i, a ≤ i → i < a + n → t.rdByte i = s.rdByte i) → t.rdBytes a n = s.rdBytes a n
  | 0, _, _ => rfl
  | n + 1, a, h => by
    rw [State.rdBytes, State.rdBytes, h a (Nat.le_refl a) (by omega), State.rdBytes_congr fun i hi hn => h i (by omega) (by omega)]

/-! ### Heartbeats within the package -/

theorem State.q_of_same (h : Field.same .links s t) (e : LinkEnd) : (t.link e).q = (s.link e).q := by
  rw [State.link_of_same h]

/-- A heartbeat is queued behind what the end holds. -/
theorem State.q_sendHeartbeat (s : State) (e : LinkEnd) (body : Nat) :
    ((s.sbSend e 0x18 body).link e).q = (s.link e).q ++ [{ mtype := 0x18, body := body }] := s.sbSend_q ..

theorem does_heartbeatSend {m : Mv} (frame : s.atFrame (.mv m) = true) (at256 : s.frame (.mv m) % 1024 = 256)
    (runs : s.ctlRuns m = true) (on : s.enabled .rcv (.mv m) = true) :
    Does (.heartbeatSend m) s fun t => (t.link (spMv m 0)).q = (s.link (spMv m 0)).q ++
      [{ mtype := 0x18, body := hbBody 0 m s.pkgId (s.turn (.mv m)) (s.hbLevel m) false (s.die (.mv m)).faulted 0 }] := by
  refine .intro (t := (s.sbSend (spMv m 0) 0x18 (hbBody 0 m s.pkgId (s.turn (.mv m)) (s.hbLevel m) false
    (s.die (.mv m)).faulted 0)).partitionDone m) ?_ ?_
  · show execHeartbeatSend m s = _
    simp only [execHeartbeatSend, frame, at256, runs, on, beq_self_eq_true, Bool.and_self, if_true]
  · rw [State.q_of_same ((Only.refl _).partitionDone (hp := Allow.but (by decide)) ..).kept, State.q_sendHeartbeat]

theorem nibble_cleared (v : Nat) (m : Fin 4) :
    bitsOf ((v - bitsOf v (4 * m) 4 * 2 ^ (4 * m.val) + 0 * 2 ^ (4 * m.val)) % 2 ^ 16) (4 * m) 4 = 0 := by
  unfold bitsOf
  fin_cases m <;> (simp only [Nat.zero_mul, Nat.add_zero]; omega)

theorem does_heartbeatCheck {m : Mv} (turn : s.atTurn cr0 = true) (later : s.turn cr0 ≠ 0) (on : s.enabled .rcv (.mv m) = true)
    (seen : Tab.get 0 s.recov.seen m = s.turn cr0) :
    Does (.heartbeatCheck m) s fun t => bitsOf (t.getF cr0 .rcv 0 Reg.RCV_MISSED) (4 * m) 4 = 0 := by
  refine .intro (t := s.setF cr0 .rcv 0 Reg.RCV_MISSED (s.getF cr0 .rcv 0 Reg.RCV_MISSED -
    bitsOf (s.getF cr0 .rcv 0 Reg.RCV_MISSED) (4 * m) 4 * 2 ^ (4 * m.val) + 0 * 2 ^ (4 * m.val))) ?_ ?_
  · show execHeartbeatCheck m s = _
    simp only [execHeartbeatCheck, turn, beq_false_of_ne later, on, seen, Bool.not_true, Bool.or_self, Bool.false_eq_true,
      if_false, beq_self_eq_true, if_true]
  · rw [State.getF_setF_same]
    exact nibble_cleared ..

theorem does_heartbeatStateSend {m : Mv} (frame : s.atFrame cr0 = true) (at512 : s.frame cr0 % 1024 = 512)
    (on : s.enabled .rcv cr0 = true) :
    Does (.heartbeatStateSend m) s fun t => (t.link (spCrown m 0)).q = (s.link (spCrown m 0)).q ++
      [{ mtype := 0x18, body := hbBody 2 m s.pkgId (s.turn cr0) (s.hbLevel 4) false s.combinedMask 0 }] := by
  refine .intro (t := (s.setF cr0 .rcv 0 Reg.RCV_FAULTED s.combinedMask).sbSend (spCrown m 0) 0x18
    (hbBody 2 m s.pkgId (s.turn cr0) (s.hbLevel 4) false s.combinedMask 0)) ?_ (State.q_sendHeartbeat ..)
  show execHeartbeatStateSend m s = _
  simp only [execHeartbeatStateSend, frame, at512, on, beq_self_eq_true, Bool.and_self, if_true]

theorem does_faultGranuleWrite {m : Mv} {img : Image} {pa : Nat} (image : s.boot.image = some img)
    (found : img.faultAt.find? (fun p => p.1 == m) = some (m, pa)) (frame : s.atFrame (.mv m) = true) (runs : s.ctlRuns m = true) :
    Does (.faultGranuleWrite m) s fun t =>
      t.rdBytes pa 4 = leBytes 4 (Nat.lor (s.die (.mv m)).faulted (s.die (.mv m)).combined) ∧
      t.rdBytes (pa + 8) 8 = leBytes 8 (s.die (.mv m)).faultBeat := by
  refine .intro (t := (s.wrBytes pa (leBytes 4 (Nat.lor (s.die (.mv m)).faulted (s.die (.mv m)).combined))).wrBytes (pa + 8)
    (leBytes 8 (s.die (.mv m)).faultBeat)) ?_ ⟨?_, ?_⟩
  · show execFaultGranuleWrite m s = _
    simp only [execFaultGranuleWrite, image, found, Option.map_some, frame, runs, Bool.and_self, if_true]
  · rw [State.rdBytes_congr fun i _ hi => State.rdByte_wrBytes_ne _ (.inl (by omega))]
    exact State.rdBytes_wrBytes ..
  · exact State.rdBytes_wrBytes _ (pa + 8) (leBytes 8 _)

/-! ### Watchdogs -/

theorem does_watchdogKick {c : Crown} (h : s.hasDie (.cr c) = true) :
    Does (.watchdogKick c) s fun t => Tab.get 0 t.recov.kicked c = s.time :=
  .intro (congrArg Host.Outcome.next (if_pos h)) (Tab.get_set_same ..)

theorem State.die_noteLast (s : State) (rc cause : Nat) (d d' : Die) : (s.noteLast rc cause d).die d' = s.die d' :=
  State.die_of_same ((Only.refl s).noteLast (hg0 := Allow.but (by decide)) ..).kept d'

/-- A power cycle requested is logged on CR0. -/
theorem State.powerCycle_head (h : s.pins.oos = false) (cause : Nat) :
    ((s.powerCycle cause).die cr0).log.head?.map LogRec.rc = some 0x9005 := by
  unfold State.powerCycle
  rw [h, if_neg Bool.false_ne_true]
  have logged := s.log_head cr0 .rcv 0 0x9005 [BitVec.ofNat 8 cause] 0xFF
  generalize s.log cr0 .rcv 0 0x9005 [BitVec.ofNat 8 cause] = u at logged ⊢
  rw [← u.die_noteLast 0x9005 cause cr0 cr0] at logged
  generalize u.noteLast 0x9005 cause cr0 = v at logged ⊢
  exact logged

theorem does_watchdogExpiry {c : Crown} (h : s.hasDie (.cr c) = true) (late : Tab.get 0 s.recov.kicked c + 80 * msBeats ≤ s.time)
    (first : bit (s.getF cr0 .rcv 0 Reg.RCV_MISSED_WDOG) c = false) (oos : s.pins.oos = false) :
    Does (.watchdogExpiry c) s fun t => t.pins.pwrcycReq = true ∧ (t.die cr0).log.head?.map LogRec.rc = some 0x9005 := by
  have oos' : (s.setF cr0 .rcv 0 Reg.RCV_MISSED_WDOG (setBit (s.getF cr0 .rcv 0 Reg.RCV_MISSED_WDOG) c)).pins.oos = false := oos
  refine .intro ?_ ⟨State.pwrcycReq_powerCycle oos' 0x0B, State.powerCycle_head oos' 0x0B⟩
  show execWatchdogExpiry c s = _
  simp only [execWatchdogExpiry, h, decide_eq_true late, first, Bool.not_false, Bool.and_self, if_true]

/-! ### The tray -/

theorem does_packageHeartbeat_master {n : Fin 8} {r : SbSlot} {box : Nat} {u : State} (took : s.sbTakes (.tray n) r 0x18 = (some box, u))
    (kind : bitsOf box 6 3 = 1) (master : u.isFollower = false) (ready : bit box 62 = true) :
    Does (.packageHeartbeat n r) s fun t => bitsOf box 12 4 ∈ t.recov.ready := by
  refine .intro (t := { u with recov := { u.recov with
    ready := u.recov.ready.filter (· != bitsOf box 12 4) ++ [bitsOf box 12 4] } }) ?_ (by simp)
  show execPackageHeartbeat n r s = _
  simp only [execPackageHeartbeat, took, kind, beq_self_eq_true, if_true, State.takePkgBeat, master, ready, Bool.false_eq_true,
    if_false, Bool.not_true, Bool.and_false, Bool.false_and]

theorem does_packageHeartbeat_follower {n p : Fin 8} {r : SbSlot} {box : Nat} {u : State}
    (took : s.sbTakes (.tray n) r 0x18 = (some box, u)) (kind : bitsOf box 6 3 = 1) (follower : u.isFollower = true)
    (port : u.syncPort = some p) : Does (.packageHeartbeat n r) s fun t => (t.link (.tray p)).q = (u.link (.tray p)).q ++
      [{ mtype := 0x18, body := box / 64 * 64 }] := by
  refine .intro (t := u.sbSend (.tray p) 0x18 (box / 64 * 64)) ?_ (State.q_sendHeartbeat ..)
  show execPackageHeartbeat n r s = _
  simp only [execPackageHeartbeat, took, kind, beq_self_eq_true, if_true, State.takePkgBeat, follower, port]

/-- A new order is passed on and its stop turn kept. -/
def State.keepOrder (s : State) (n : Fin 8) (box : Nat) : State :=
  let s1 := (s.livePorts.filter (· != n)).foldl (fun u p => u.sbSend (.tray p) 0x18 (box / 64 * 64)) s
  { s1 with recov := { s1.recov with stopTurn := bitsOf box 16 43 + 1, lastOrder := bitsOf box 16 43 + 1 } }

theorem State.turn_keepOrder (s : State) (n : Fin 8) (box : Nat) (d : Die) : (s.keepOrder n box).turn d = s.turn d :=
  congrArg (fun x : DieSt => x.beat / turnBeats) (State.die_of_same
    (Only.foldl _ (fun _ _ g => g.sbSend (hp := Allow.but (by decide)) ..) (Only.refl s)).kept d)

theorem exec_trayOrder {n : Fin 8} {r : SbSlot} {box : Nat} {u : State} (took : s.sbTakes (.tray n) r 0x18 = (some box, u))
    (kind : bitsOf box 6 3 = 3) (ahead : u.turn cr0 < bitsOf box 16 43) (new : u.recov.lastOrder ≠ bitsOf box 16 43 + 1) :
    exec (.trayOrder n r) s = .next (if u.recov.stopTurn == bitsOf box 16 43 + 1 then u else u.keepOrder n box) := by
  have later : ¬bitsOf box 16 43 ≤ (u.keepOrder n box).turn cr0 := by rw [State.turn_keepOrder]; omega
  show execTrayOrder n r s = _
  rw [execTrayOrder, took]
  simp only [kind, bne_self_eq_false, Bool.false_eq_true, if_false, beq_false_of_ne new, Bool.or_false]
  split
  · rfl
  · exact congrArg Host.Outcome.next (if_neg later)

theorem does_trayOrder {n : Fin 8} {r : SbSlot} {box : Nat} {u : State} (took : s.sbTakes (.tray n) r 0x18 = (some box, u))
    (kind : bitsOf box 6 3 = 3) (ahead : u.turn cr0 < bitsOf box 16 43) (new : u.recov.lastOrder ≠ bitsOf box 16 43 + 1) :
    Does (.trayOrder n r) s fun t => t.recov.stopTurn = bitsOf box 16 43 + 1 := by
  refine .intro (exec_trayOrder took kind ahead new) ?_
  split
  case isTrue h => exact beq_iff_eq.mp h
  case isFalse => rfl

theorem State.scStop_foldl_stop (e : LinkEnd) (l : List LinkEnd) (s : State) (h : e ∈ l) :
    ((l.foldl (fun t e => t.setLink e { t.link e with scStop := true }) s).link e).scStop = true := by
  induction l generalizing s with
  | nil => exact absurd h List.not_mem_nil
  | cons f l ih =>
    by_cases m : e ∈ l
    · exact ih _ m
    · obtain rfl := (List.mem_cons.mp h).resolve_right m
      refine ((KeepsScStop.refl _).foldl l fun _ _ g => g.setLink fun _ => rfl).stop _ ?_
      rw [State.link_setLink_same]

theorem State.scStop_stopAllSc (s : State) (n : Fin 8) : (s.stopAllSc.link (.tray n)).scStop = true :=
  State.scStop_foldl_stop _ _ s (List.mem_append_right _ (List.mem_map_of_mem (List.mem_finRange n)))

/-- A tray order's chip level leaves the stop turns: its package sends no order. -/
theorem State.recov_trigger_order (s : State) : (s.trigger 4 0x09 cr0).recov = s.recov := by
  have chip (u : State) (b : Bool) : (if b then u.stopAllSc else u.chipTray 0x09).recov = u.recov := by
    have stop : u.stopAllSc.recov = u.recov := ((Only.refl u).stopAllSc (pt := Field.but .recov) (Allow.but (by decide))).kept
    cases b
    · rw [if_neg Bool.false_ne_true, State.chipTray]
      split
      · rfl
      · exact stop
    · exact stop
  unfold State.trigger
  simp only [beq_self_eq_true, if_true, bne_self_eq_false, Bool.false_eq_true, if_false, Bool.false_and]
  split
  · exact State.log_recov ..
  · refine (chip _ false).trans ?_
    exact Only.kept (x := .recov) (((Only.foldl _ (fun _ _ g => g.setDom (hp := Allow.but (by decide)) ..)
      (((Only.refl s).log (hg0 := Allow.but (by decide)) (hp := Allow.but (by decide)) ..).noteLast
        (hg0 := Allow.but (by decide)) ..)).setDom (hp := Allow.but (by decide)) ..).showLevel (Allow.but (by decide)))

theorem does_trayStop (set : s.recov.stopTurn ≠ 0) (due : s.recov.stopTurn - 1 ≤ s.turn cr0) (low : (s.dom 4).level < 4) :
    Does .trayStop s fun t => t.recov.stopTurn = 0 ∧ (t.dom 4).level = 4 ∧ ∀ n : Fin 8, (t.link (.tray n)).scStop = true := by
  have stopped : (State.stopAllSc { s with recov := { s.recov with stopTurn := 0 } }).recov = { s.recov with stopTurn := 0 } :=
    ((Only.refl _).stopAllSc (pt := Field.but .recov) (Allow.but (by decide))).kept
  have level : (State.stopAllSc { s with recov := { s.recov with stopTurn := 0 } }).dom 4 = s.dom 4 :=
    State.dom_of_same ((Only.refl _).stopAllSc (pt := Field.but .rcv) (Allow.but (by decide))).kept 4
  have ports := State.scStop_stopAllSc { s with recov := { s.recov with stopTurn := 0 } }
  have exec_eq : exec .trayStop s = .next (State.trayStop s) := by
    show execTrayStop s = _
    simp only [execTrayStop, bne_iff_ne.mpr set, decide_eq_true due, Bool.and_self, if_true]
  refine .intro exec_eq ?_
  unfold State.trayStop
  dsimp only
  generalize State.stopAllSc { s with recov := { s.recov with stopTurn := 0 } } = u at stopped level ports ⊢
  rw [level, beq_false_of_ne (Nat.ne_of_lt low), if_neg Bool.false_ne_true]
  refine ⟨?_, State.trigger_chip_dom _ _ _ _ _ (level ▸ low), fun n => ((KeepsScStop.refl _).trigger ..).stop _ (ports n)⟩
  rw [State.recov_trigger_order, stopped]

/-- Settles O22, one lemma for each clause. -/
theorem healthCommandsComplete : Obligations.HealthCommandsComplete := by
  unfold Obligations.HealthCommandsComplete
  exact ⟨fun _ _ => does_heartbeatSend, fun _ _ => does_heartbeatCheck, fun _ _ => does_heartbeatStateSend,
    fun _ _ _ _ => does_faultGranuleWrite, fun _ _ => does_watchdogKick, fun _ _ => does_watchdogExpiry,
    fun _ _ _ _ _ => does_packageHeartbeat_master, fun _ _ _ _ _ _ => does_packageHeartbeat_follower,
    fun _ _ _ _ _ => does_trayOrder, fun _ => does_trayStop⟩

end Sys2Proof.Machine
end

section
/-! SUPPORT. Switching domains off: which domains stay on, and which registers keep their value (R352, R504). -/

namespace Sys2Proof.Machine

variable {s t : State}

theorem Tab.get_filter {α : Type} (d : α) (P : Nat × α → Bool) {k : Nat} (h : ∀ v, P (k, v) = true) :
    ∀ t : Tab α, Tab.get d (t.filter P) k = Tab.get d t k
  | [] => rfl
  | (a, v) :: t => by
    by_cases e : a = k
    · subst e
      rw [List.filter_cons_of_pos (h v), Tab.get, Tab.get, if_pos rfl, if_pos rfl]
    · rw [Tab.get, if_neg e, ← Tab.get_filter d P h t, List.filter_cons]
      split
      · rw [Tab.get, if_neg e]
      · rfl

/-- A key of a register that no switched domain holds. -/
def inAon (key : Nat) : Bool :=
  match findPlace (keyAddr key) with
  | some p => domOf p.die p.blk == none
  | none => true

theorem inDomain_of_inAon {key : Nat} (h : inAon key = true) (k : Domain) : inDomain k (keyAddr key) = false := by
  unfold inAon at h
  unfold inDomain
  cases hp : findPlace (keyAddr key) with
  | none => rfl
  | some p =>
    rw [hp] at h
    have none_ : domOf p.die p.blk = none := beq_iff_eq.mp h
    show (p.die == domDie k && domOf p.die p.blk == some k.val) = false
    rw [none_]
    exact Bool.and_false _

theorem State.dropParts_regs (s : State) (k : Domain) : (s.dropParts k).regs = s.regs := by
  unfold State.dropParts
  dsimp only
  repeat' split
  all_goals rfl

/-- A domain that goes off leaves the registers outside the switched domains, but for the state of the switches. -/
theorem State.getF_domainOff {d : Die} {b : Blk} {i : Nat} {f : Fld} {x : Nat} (aon : inAon (fkey d b i f x) = true)
    (ne : regTag b f ≠ regTag .pwr Reg.PWR_DOM_STATE) (s : State) (k : Domain) :
    (s.domainOff k).getF d b i f x = s.getF d b i f x := by
  have ends (l : List LinkEnd) (u : State) : (l.foldl (fun t e => t.setLink e {}) u).regs = u.regs := by
    induction l generalizing u with
    | nil => rfl
    | cons e l ih => exact ih _
  unfold State.domainOff
  split
  · rfl
  · rw [State.getF_setF_of_tag ne]
    show Tab.get f.reset ((domEnds k).foldl (fun t e => t.setLink e {}) ((s.dropRegs k).dropParts k)).regs _ = _
    rw [ends, State.dropParts_regs]
    exact Tab.get_filter _ _ (fun v => by rw [inDomain_of_inAon aon, Bool.not_false, Bool.true_or]) _

theorem State.domOn_domainOff (s : State) (k : Domain) {j : Nat} (hj : j < 16) :
    (s.domainOff k).domOn j = (s.domOn j && decide (k.val ≠ j)) := by
  unfold State.domainOff
  split
  case isTrue h =>
    by_cases e : k.val = j
    · rw [← e, Bool.eq_false_of_not_eq_true' h, Bool.false_and]
    · rw [decide_eq_true e, Bool.and_true]
  case isFalse =>
    rw [State.domOn, State.getF_setF_same, bit_mod_two_pow (w := Reg.PWR_DOM_STATE.w) hj, bit_clrBit, State.domOn]

theorem State.domOn_domainsOff {j : Nat} (hj : j < 16) : ∀ (l : List Domain) (s : State),
    (l.foldl (fun (t : State) k => t.domainOff k) s).domOn j = (s.domOn j && l.all fun k => decide (k.val ≠ j))
  | [], s => by simp
  | k :: l, s => by
    rw [List.foldl_cons, State.domOn_domainsOff hj l, State.domOn_domainOff s k hj, Bool.and_assoc, List.all_cons]

theorem State.getF_domainsOff {d : Die} {b : Blk} {i : Nat} {f : Fld} {x : Nat} (aon : inAon (fkey d b i f x) = true)
    (ne : regTag b f ≠ regTag .pwr Reg.PWR_DOM_STATE) : ∀ (l : List Domain) (s : State),
    (l.foldl (fun (t : State) k => t.domainOff k) s).getF d b i f x = s.getF d b i f x
  | [], s => rfl
  | k :: l, s => (State.getF_domainsOff aon ne l _).trans (State.getF_domainOff aon ne s k)

/-- Of the domains only those named can still be on. -/
theorem State.domOn_allOffBut (s : State) {keep : List Domain} {j : Nat} (hj : j < 16) (h : ∀ k ∈ keep, k.val ≠ j) :
    (s.allOffBut keep).domOn j = false := by
  have off : (((List.finRange 16).reverse.filter fun k => !decide (k ∈ keep)).all fun k => decide (k.val ≠ j)) = false := by
    refine List.all_eq_false.mpr ⟨⟨j, hj⟩, List.mem_filter.mpr ⟨List.mem_reverse.mpr (List.mem_finRange _), ?_⟩, by simp⟩
    rw [decide_eq_false fun m => h _ m rfl, Bool.not_false]
  rw [State.allOffBut, State.showLedgerOnly, State.domOn, State.getF_setF_of_tag (by decide)]
  exact (State.domOn_domainsOff hj ..).trans (by rw [off, Bool.and_false])

theorem State.getF_allOffBut {d : Die} {b : Blk} {i : Nat} {f : Fld} {x : Nat} (aon : inAon (fkey d b i f x) = true)
    (ne : regTag b f ≠ regTag .pwr Reg.PWR_DOM_STATE) (ne' : regTag b f ≠ regTag .pwr Reg.PWR_STATUS_LEDGER_ONLY) (s : State)
    (keep : List Domain) : (s.allOffBut keep).getF d b i f x = s.getF d b i f x := by
  rw [State.allOffBut, State.showLedgerOnly, State.getF_setF_of_tag ne', State.getF_domainsOff aon ne]
  rfl

theorem State.isF_of_getF {b : Blk} {f : Fld} {d : Die} {i k : Nat} (h : t.getF d b i f k = s.getF d b i f k) :
    t.isF d b i f k = s.isF d b i f k := by unfold State.isF; rw [h]

theorem mem_allDies (d : Die) : d ∈ allDies := by
  cases d with
  | mv m => fin_cases m <;> decide
  | cr c => fin_cases c <;> decide

theorem State.mem_dieList {d : Die} (h : s.hasDie d = true) : d ∈ s.dieList := List.mem_filter.mpr ⟨mem_allDies d, h⟩

/-! ### A halt of start-up (R406) -/

theorem State.phase_setPhase (s : State) {p : Nat} (h : p < 16) : (s.setPhase p).phase = p := by
  rw [State.phase, State.setPhase, State.getF_setF_same]
  exact Nat.mod_eq_of_lt h

/-- Before start-up is over a halt stands in phase 15 with its code. -/
theorem State.haltBoot_halts (h : s.phase < 8) (rc : Nat) : (s.haltBoot rc).phase = 15 ∧
    (s.haltBoot rc).getF cr0 .boot 0 Reg.BOOT_HALT_HALT_RC = rc % 2 ^ Reg.BOOT_HALT_HALT_RC.w := by
  unfold State.haltBoot
  rw [if_neg (Nat.not_le.mpr h)]
  dsimp only
  generalize hu : State.allOffBut _ _ = u
  refine ⟨u.phase_setPhase (p := 15) (by decide), ?_⟩
  show (u.setPhase 15).getF cr0 .boot 0 Reg.BOOT_HALT_HALT_RC = _
  rw [State.setPhase, State.getF_setF_of_tag (by decide), ← hu,
    State.getF_allOffBut (by decide +kernel) (by decide) (by decide), State.getF_setF_of_tag (by decide), State.getF_setF_same]

end Sys2Proof.Machine
end

section
/-! Power fails, the domains go off, and power returns (R367, R368, R370, R491). -/

namespace Sys2Proof.Machine

variable {s t : State}

/-- What a power fail leaves, from the state in which it has been logged. -/
def State.failing (u : State) : State :=
  let s1 := u.setF cr0 .pwr 0 Reg.PWR_STATUS_PF 1
  { s1.setPow cr0 { s1.pow cr0 with pfAt := s1.time + 1 } with
    ldg := { s1.ldg with pfAt := s1.beat cr0 + 1, pfPart := s1.getF cr0 .ldg 0 Reg.LDG_STATUS_STATE != 2, tabDirty := false } }

theorem State.failing_die (u : State) :
    u.failing.die cr0 = { u.die cr0 with power := { u.pow cr0 with pfAt := u.time + 1 } } := State.die_setDie_same ..

theorem State.failing_facts (u : State) : u.failing.isF cr0 .pwr 0 Reg.PWR_STATUS_PF = true ∧
    u.failing.ldg.pfAt = u.beat cr0 + 1 ∧ (u.failing.die cr0).log = (u.die cr0).log :=
  ⟨State.isF_setF_one (s := u) (d := cr0) (b := .pwr) (i := 0) (k := 0) (by decide), rfl,
    by rw [State.failing_die]⟩

theorem does_powerFail {cause : Fin 4} (hc : cause.val ≠ 0) (on : s.isF cr0 .pwr 0 Reg.PWR_STATUS_PF = false) (phase : 2 ≤ s.phase) :
    Does (.powerFail cause) s fun t => t.isF cr0 .pwr 0 Reg.PWR_STATUS_PF = true ∧ t.ldg.pfAt = s.beat cr0 + 1 ∧
      (t.die cr0).log.head?.map LogRec.rc = some 0x8005 := by
  have head := s.log_head cr0 .pwr 0 0x8005 [BitVec.ofNat 8 cause.val] 0xFF
  have beat : (s.log cr0 .pwr 0 0x8005 [BitVec.ofNat 8 cause.val]).beat cr0 = s.beat cr0 := by
    rw [State.beat, State.log_die, State.beat]
  have exec_eq : exec (.powerFail cause) s = .next (if (((s.log cr0 .pwr 0 0x8005 [BitVec.ofNat 8 cause.val]).setF cr0 .pwr 0
      Reg.PWR_STATUS_PF 1).getF cr0 .ldg 0 Reg.LDG_STATUS_STATE == 0) = true
      then (s.log cr0 .pwr 0 0x8005 [BitVec.ofNat 8 cause.val]).failing
      else (s.log cr0 .pwr 0 0x8005 [BitVec.ofNat 8 cause.val]).failing.setF cr0 .ldg 0 Reg.LDG_STATUS_STATE 3) := by
    show execPowerFail cause s = _
    rw [execPowerFail, on, decide_eq_false (Nat.not_lt.mpr phase), beq_false_of_ne hc, Bool.or_self, Bool.or_self,
      if_neg Bool.false_ne_true]
    rfl
  refine .intro exec_eq ?_
  generalize s.log cr0 .pwr 0 0x8005 [BitVec.ofNat 8 cause.val] = u at head beat ⊢
  obtain ⟨pf, pfAt, log⟩ := u.failing_facts
  split
  · exact ⟨pf, by rw [pfAt, beat], by rw [log, head]⟩
  · exact ⟨by rw [State.isF_setF_of_tag (by decide), pf], by rw [State.setF_ldg, pfAt, beat],
      by rw [State.setF_die, log, head]⟩

theorem exec_powerFailDomainsOff (pf : s.isF cr0 .pwr 0 Reg.PWR_STATUS_PF = true) (frame : s.atFrame cr0 = true) :
    exec .powerFailDomainsOff s = .next (s.allOffBut [crf0]) := by
  show execPowerFailDomainsOff s = _
  rw [execPowerFailDomainsOff, pf, frame, Bool.and_self, if_pos rfl]

theorem State.domOn_allOffBut_crf0 (s : State) {k : Nat} (hk : k < 16) (h13 : k ≠ 13) : (s.allOffBut [crf0]).domOn k = false :=
  s.domOn_allOffBut hk fun x hx => by rw [List.mem_singleton.mp hx]; exact Ne.symm h13

theorem does_powerReturn (pf : s.isF cr0 .pwr 0 Reg.PWR_STATUS_PF = true) (idle : s.pins.pwrcycReq = false)
    (oos : s.pins.oos = false) (due : (s.pow cr0).pfAt - 1 + 100 * msBeats ≤ s.time) :
    Does .powerReturn s fun t => t.pins.pwrcycReq = true := by
  refine .intro (t := s.powerCycle 0x0C) ?_ (State.pwrcycReq_powerCycle oos _)
  show execPowerReturn s = _
  rw [execPowerReturn, pf, idle, decide_eq_true due]
  rfl

/-- A die that tripped shuts CR0 down, and every domain but the ledger's goes off. -/
theorem does_thermalShutdown {d : Die} (first : s.isF cr0 .pwr 0 Reg.PWR_STATUS_THSD = false) (hd : s.hasDie d = true)
    (trip : s.isF d .thm 0 Reg.THM_STATUS_TRIP = true) :
    Does .thermalShutdown s fun t => t.isF cr0 .pwr 0 Reg.PWR_STATUS_THSD = true ∧ ∀ k < 16, k ≠ 13 → t.domOn k = false := by
  have tripped : (s.dieList.any fun d => s.isF d .thm 0 Reg.THM_STATUS_TRIP) = true :=
    List.any_eq_true.mpr ⟨d, State.mem_dieList hd, trip⟩
  have thsd : ((s.setF cr0 .pwr 0 Reg.PWR_STATUS_THSD 1).allOffBut [crf0]).isF cr0 .pwr 0 Reg.PWR_STATUS_THSD = true :=
    (State.isF_of_getF (State.getF_allOffBut (by decide +kernel) (by decide) (by decide) ..)).trans (State.isF_setF_one (by decide))
  have off : ∀ k < 16, k ≠ 13 → ((s.setF cr0 .pwr 0 Reg.PWR_STATUS_THSD 1).allOffBut [crf0]).domOn k = false :=
    fun _ => State.domOn_allOffBut_crf0 _
  unfold Does
  show ∃ t, execThermalShutdown s = .next t ∧ _
  rw [execThermalShutdown, first, tripped]
  refine ⟨_, rfl, ?_⟩
  generalize (s.setF cr0 .pwr 0 Reg.PWR_STATUS_THSD 1).allOffBut [crf0] = u at thsd off ⊢
  have stop (f : Fld) (hf : (Field.ofReg .pwr f) ∉ [Field.ldg, .ofReg .ldg Reg.LDG_STATUS_HOLDOVER, .ofReg .ldg Reg.LDG_STATUS_STATE])
      (hf' : regTag .pwr f ≠ regTag .ldg Reg.LDG_CTL_ENABLE) :
      (u.setF cr0 .ldg 0 Reg.LDG_CTL_ENABLE 0).ldgStop.getF cr0 .pwr 0 f = u.getF cr0 .pwr 0 f :=
    (Field.getF_of_same ((Only.refl _).ldgStop (Allow.but hf)).kept ..).trans (State.getF_setF_of_tag hf')
  split
  · refine ⟨(State.isF_of_getF (stop _ (by decide) (by decide))).trans thsd, fun k hk h13 => ?_⟩
    rw [State.domOn, stop _ (by decide) (by decide)]
    exact off k hk h13
  · exact ⟨thsd, off⟩

theorem does_ledgerHaltedCrfOff (halted : s.ldgState = 4) (pf : s.isF cr0 .pwr 0 Reg.PWR_STATUS_PF = true) :
    Does .ledgerHaltedCrfOff s fun t => ∀ k < 16, t.domOn k = false := by
  refine .intro (t := s.allOffBut []) ?_ fun k hk => s.domOn_allOffBut hk fun x hx => absurd hx List.not_mem_nil
  show execLedgerHaltedCrfOff s = _
  rw [execLedgerHaltedCrfOff, halted, pf]
  rfl

/-- Settles O33, one lemma for each clause. -/
theorem powerLossCommandsComplete : Obligations.PowerLossCommandsComplete := by
  unfold Obligations.PowerLossCommandsComplete
  exact ⟨fun _ _ => does_powerFail,
    fun s pf frame => .intro (exec_powerFailDomainsOff pf frame) fun k hk h13 => s.domOn_allOffBut_crf0 hk h13,
    fun _ => does_powerReturn, fun _ _ => does_thermalShutdown, fun _ => does_ledgerHaltedCrfOff⟩

end Sys2Proof.Machine
end

section
/-! AON resets, the monitors, the straps and the reference (R7, R373 to R379, R491). -/

namespace Sys2Proof.Machine

variable {s t : State}

/-! ### Resets of the AON domains -/

/-- A nonce drawn changes nothing but the free values and itself. -/
theorem State.newNonce_same {x : Field} (h : x ∉ [Field.free, .ofReg .sec Reg.SEC_DBG_NONCE]) (s : State) : x.same s s.newNonce :=
  ((Only.refl s).newNonce (Allow.but h)).kept

theorem exec_powerOnReset_cr0 (s : State) : exec (.powerOnReset 0) s = .next s.resetCr0 := rfl

theorem does_powerOnReset_cr0 (s : State) : Does (.powerOnReset 0) s fun t => (∃ a, t.boot = { monAt := a }) ∧
    t.dieIds = s.dieIds ∧ t.links = [] ∧ t.mem = [] ∧ t.fram = s.fram ∧ t.time = s.time ∧ t.pending = s.pending := by
  have kept := kept_of_exec (exec_powerOnReset_cr0 s)
  obtain ⟨u, reset, boot, dieIds, links, mem, fram⟩ : ∃ u : State, s.resetCr0 = u.newNonce ∧ (∃ a, u.boot = { monAt := a }) ∧
      u.dieIds = s.dieIds ∧ u.links = [] ∧ u.mem = [] ∧ u.fram = s.fram :=
    ⟨_, rfl, ⟨_, rfl⟩, by simp only [State.setF_dieIds, State.setDie_dieIds], rfl, rfl,
      by simp only [State.setF_fram, State.setDie_fram]⟩
  refine .intro (exec_powerOnReset_cr0 s) ⟨?_, ?_, ?_, ?_, ?_, kept.clock, kept.queue⟩ <;> rw [reset]
  · exact (State.newNonce_same (x := .boot) (by decide) u).symm ▸ boot
  · exact (State.newNonce_same (x := .dieIds) (by decide) u).trans dieIds
  · exact (State.newNonce_same (x := .links) (by decide) u).trans links
  · exact (State.newNonce_same (x := .mem) (by decide) u).trans mem
  · exact (State.newNonce_same (x := .fram) (by decide) u).trans fram

theorem does_powerOnReset_cr1 (x2 : s.x2 = true) :
    Does (.powerOnReset 1) s fun t => t.die (.cr 1) = {} ∧ t.monGood (.aon 1) = false := by
  have exec_eq : exec (.powerOnReset 1) s = .next s.resetCr1 := by
    show execPowerOnReset 1 s = _
    rw [execPowerOnReset, if_neg (by decide), if_pos x2]
  exact .intro exec_eq ⟨Tab.get_erase_same .., State.bit_setF_clrBit ..⟩

/-! ### Phases and straps -/

theorem State.phase_of_same (h : (Field.ofReg .boot Reg.BOOT_STATUS_PHASE).same s t) : t.phase = s.phase :=
  Field.getF_of_same h ..

/-- With the straps of the board's own variant step 2 ends. -/
theorem State.sampleStraps_same {variant : Fin 4} (pkg : Fin 16) (refSel : Bool)
    (h : variant.val = s.getF cr0 .cfg 0 Reg.CFG_VARIANT) : (s.sampleStraps variant pkg refSel).phase = 2 ∧
      (s.sampleStraps variant pkg refSel).pkgId = pkg.val ∧
      (s.sampleStraps variant pkg refSel).boot = { s.boot with since := s.time, held := false } := by
  unfold State.sampleStraps
  rw [h, bne_self_eq_false, if_neg Bool.false_ne_true]
  refine ⟨State.phase_setPhase _ (p := 2) (by decide), ?_, rfl⟩
  show (State.setPhase (State.endStep _ 2) 2).getF cr0 .boot 0 Reg.BOOT_STRAP_PKG_ID = _
  rw [State.setPhase, State.getF_setF_of_tag (by decide), State.endStep, State.getF_setF_of_tag (by decide),
    State.getF_setF_of_tag (by decide), State.getF_setF_same]
  exact Nat.mod_eq_of_lt pkg.isLt

/-! ### Monitors -/

theorem State.monGood_setF_setBit (s : State) (m : Monitor) :
    (s.setF cr0 .boot 0 Reg.BOOT_MON_GOOD (setBit (s.getF cr0 .boot 0 Reg.BOOT_MON_GOOD) (monNum m))).monGood m = true := by
  refine State.bit_setF_setBit _ ?_ _
  cases m with
  | aon c => exact c.isLt.trans (by decide)
  | bus => decide
  | holdUp => decide

theorem State.monGood_of_same (h : (Field.ofReg .boot Reg.BOOT_MON_GOOD).same s t) (m : Monitor) : t.monGood m = s.monGood m :=
  congrArg (bit · (monNum m)) (Field.getF_of_same h ..)

/-- Once a monitor has declared good its latched record is written, and CR0's step 1 is over. -/
def State.leaveReset (s : State) (m : Monitor) (latched : Bool) : State :=
  let s2 := if latched then s.log (monDie m) .boot 0 0x2001 [BitVec.ofNat 8 (monNum m)] else s
  if m == .aon 0 && s2.phase == 0 then (s2.endStep 1).setPhase 1 else s2

theorem Only.leaveReset {pt : Field → Bool} {z : State} (h : Only pt z s) (m : Monitor) (latched : Bool) (hg : Allow pt evtRegs)
    (hd : Allow pt [.dies]) (hs : Allow pt [.ofReg .boot Reg.BOOT_STEP]) (hp : Allow pt [.ofReg .boot Reg.BOOT_STATUS_PHASE]) :
    Only pt z (s.leaveReset m latched) := by
  have logged := Only.ite (c := latched = true) (h.log (monDie m) .boot 0 0x2001 [BitVec.ofNat 8 (monNum m)] 0xFF hg hd) h
  exact Only.ite ((logged.endStep 1 hs).setPhase 1 hp) logged

/-- A monitor that declares good: the state in which T0 may come. -/
def State.declareGood (s : State) (m : Monitor) : State :=
  (s.setF cr0 .boot 0 Reg.BOOT_MON_GOOD (setBit (s.getF cr0 .boot 0 Reg.BOOT_MON_GOOD) (monNum m))).leaveReset m
    (decide (monNum m < 2) && bit (s.getF cr0 .boot 0 Reg.BOOT_MON_BAND) (monNum m))

theorem exec_monitorGood {m : Monitor} {mv : Nat} (variant : Fin 4) (pkg : Fin 16) (refSel pfLow : Bool) (low : s.monGood m = false)
    (fused : m = .aon 1 → s.x2 = true) (rise : monRise m ≤ mv) (since : s.monSince m + msBeats ≤ s.time) :
    exec (.monitorGood m mv variant pkg refSel pfLow) s = .next ((s.declareGood m).tryT0 variant pkg refSel pfLow) := by
  have exists_ : (m == .aon 1 && !s.x2) = false := by
    by_cases e : m = .aon 1
    · rw [fused e, Bool.not_true, Bool.and_false]
    · rw [beq_false_of_ne e, Bool.false_and]
  show execMonitorGood m mv variant pkg refSel pfLow s = _
  rw [execMonitorGood, low, exists_, decide_eq_false (Nat.not_lt.mpr rise), decide_eq_false (Nat.not_lt.mpr since)]
  rfl

theorem State.declareGood_monGood (s : State) (m : Monitor) : (s.declareGood m).monGood m = true :=
  (State.monGood_of_same ((Only.refl _).leaveReset (hg := Allow.but (by decide)) (hd := Allow.but (by decide))
    (hs := Allow.but (by decide)) (hp := Allow.but (by decide)) ..).kept m).trans (s.monGood_setF_setBit m)

theorem State.declareGood_boot (s : State) (m : Monitor) : (s.declareGood m).boot = s.boot :=
  ((Only.refl _).leaveReset (pt := Field.but .boot) (hg := Allow.but (by decide)) (hd := Allow.but (by decide))
    (hs := Allow.but (by decide)) (hp := Allow.but (by decide)) ..).kept

theorem does_monitorGood {m : Monitor} {mv : Nat} (variant : Fin 4) (pkg : Fin 16) (refSel pfLow : Bool) (low : s.monGood m = false)
    (fused : m = .aon 1 → s.x2 = true) (rise : monRise m ≤ mv) (since : s.monSince m + msBeats ≤ s.time) (t0 : s.boot.t0 ≠ 0) :
    Does (.monitorGood m mv variant pkg refSel pfLow) s fun t => t.monGood m = true := by
  refine .intro (exec_monitorGood variant pkg refSel pfLow low fused rise since) ?_
  rw [State.tryT0, State.declareGood_boot, bne_iff_ne.mpr t0, Bool.true_or, Bool.true_or, if_pos rfl]
  exact s.declareGood_monGood m

/-- The last of the two monitors makes T0. -/
theorem does_monitorGood_t0 {mv : Nat} {variant : Fin 4} (pkg : Fin 16) (refSel : Bool) (low : s.monGood .bus = false)
    (aon : s.monGood (.aon 0) = true) (rise : 650 ≤ mv) (since : s.monSince .bus + msBeats ≤ s.time) (t0 : s.boot.t0 = 0)
    (same : variant.val = s.getF cr0 .cfg 0 Reg.CFG_VARIANT) :
    Does (.monitorGood .bus mv variant pkg refSel false) s fun t => t.boot.t0 = s.time + 1 ∧ t.phase = 2 ∧ t.pkgId = pkg.val := by
  refine .intro (exec_monitorGood variant pkg refSel false low (fun h => nomatch h) rise since) ?_
  have bus := s.declareGood_monGood .bus
  have boot := s.declareGood_boot .bus
  have aon' : (s.declareGood .bus).monGood (.aon 0) = true := by
    show bit ((s.setF ..).getF cr0 .boot 0 Reg.BOOT_MON_GOOD) 0 = true
    rw [State.getF_setF_same, bit_mod_two_pow (by decide), bit_setBit]
    exact Bool.or_eq_true_iff.mpr (.inl aon)
  have variant' : variant.val = (s.declareGood .bus).getF cr0 .cfg 0 Reg.CFG_VARIANT :=
    same.trans (State.getF_setF_of_tag (by decide)).symm
  have time : (s.declareGood .bus).time = s.time := rfl
  generalize s.declareGood .bus = u at bus boot aon' variant' time ⊢
  rw [State.tryT0, congrArg BootSt.t0 boot, t0, aon', bus]
  obtain ⟨phase, pkgId, boot'⟩ := State.sampleStraps_same (s := { u with boot := { u.boot with t0 := u.time + 1, held := false } })
    pkg refSel variant'
  exact ⟨(congrArg BootSt.t0 boot').trans (congrArg (· + 1) time), phase, pkgId⟩

theorem does_monitorNotGood {m : Monitor} {mv : Nat} (good : s.monGood m = true) (fall : mv < monFall m) :
    Does (.monitorNotGood m mv) s fun t => t.monGood m = false ∧
      (m = .holdUp → 2 ≤ s.phase → t.isF cr0 .boot 0 Reg.BOOT_MON_HU_LOW = true) := by
  have low : (State.setF { s with boot := { s.boot with monAt := Tab.set 0 s.boot.monAt (monNum m) s.time } } cr0 .boot 0
      Reg.BOOT_MON_GOOD (clrBit (s.getF cr0 .boot 0 Reg.BOOT_MON_GOOD) (monNum m))).monGood m = false := State.bit_setF_clrBit ..
  unfold Does
  show ∃ t, execMonitorNotGood m mv s = .next t ∧ _
  rw [execMonitorNotGood, decide_eq_false (Nat.not_le.mpr fall), good]
  refine ⟨_, rfl, ?_⟩
  dsimp only
  split
  · exact ⟨(State.monGood_of_same (Only.kept ((Only.refl _).setF (hp := Allow.but (by decide)) ..)) m).trans low,
      fun _ _ => State.isF_setF_one (by decide)⟩
  case isFalse h =>
    exact ⟨low, fun e phase => absurd (by rw [e, decide_eq_true phase]; rfl) h⟩

theorem does_monitorBandTimeout {m : Monitor} {mv : Nat} (low : s.monGood m = false)
    (first : bit (s.getF cr0 .boot 0 Reg.BOOT_MON_BAND) (monNum m) = false) (fused : m = .aon 1 → s.x2 = true)
    (fall : monFall m ≤ mv) (rise : mv < monRise m) (since : s.monSince m + 500 * msBeats ≤ s.time) :
    Does (.monitorBandTimeout m mv) s fun t =>
      bit (t.getF cr0 .boot 0 Reg.BOOT_MON_BAND) (monNum m) = true ∧ t.trayAlert = true := by
  have exists_ : (m == .aon 1 && !s.x2) = false := by
    by_cases e : m = .aon 1
    · rw [fused e, Bool.not_true, Bool.and_false]
    · rw [beq_false_of_ne e, Bool.false_and]
  have alert (u : State) (h : bit (u.getF cr0 .boot 0 Reg.BOOT_MON_BAND) (monNum m) = true) : u.trayAlert = true := by
    have set : u.getF cr0 .boot 0 Reg.BOOT_MON_BAND ≠ 0 := fun e => by rw [e] at h; simp [bit] at h
    rw [State.trayAlert, bne_iff_ne.mpr set]
    simp only [Bool.true_or]
  have latched : bit ((s.setF cr0 .boot 0 Reg.BOOT_MON_BAND (setBit (s.getF cr0 .boot 0 Reg.BOOT_MON_BAND) (monNum m))).getF
      cr0 .boot 0 Reg.BOOT_MON_BAND) (monNum m) = true := by
    refine State.bit_setF_setBit _ ?_ _
    cases m with
    | aon c => exact c.isLt.trans (by decide)
    | bus => decide
    | holdUp => decide
  have logged (u : State) : (u.log cr0 .boot 0 0x2001 [BitVec.ofNat 8 (monNum m)]).getF cr0 .boot 0 Reg.BOOT_MON_BAND =
      u.getF cr0 .boot 0 Reg.BOOT_MON_BAND := Field.getF_of_same (Only.kept ((Only.refl u).log
        (hg0 := Allow.but (by decide)) (hp := Allow.but (by decide)) ..)) ..
  unfold Does
  show ∃ t, execMonitorBandTimeout m mv s = .next t ∧ _
  rw [execMonitorBandTimeout, low, first, exists_, decide_eq_true ⟨fall, rise⟩, decide_eq_false (Nat.not_lt.mpr since)]
  refine ⟨_, rfl, ?_⟩
  split
  · rw [← logged] at latched
    exact ⟨latched, alert _ latched⟩
  · exact ⟨latched, alert _ latched⟩

theorem does_pwrFailRelease {variant : Fin 4} (pkg : Fin 16) (refSel : Bool) (held : s.boot.held = true) (phase : s.phase = 1)
    (same : variant.val = s.getF cr0 .cfg 0 Reg.CFG_VARIANT) :
    Does (.pwrFailRelease variant pkg refSel) s fun t => t.phase = 2 ∧ t.boot.held = false ∧ t.boot.since = s.time := by
  obtain ⟨phase', -, boot⟩ := State.sampleStraps_same pkg refSel same
  refine .intro (t := s.sampleStraps variant pkg refSel) ?_ ⟨phase', congrArg BootSt.held boot, congrArg BootSt.since boot⟩
  show execPwrFailRelease variant pkg refSel s = _
  rw [execPwrFailRelease, held, phase]
  rfl

/-! ### The reference and the beat PLLs -/

theorem State.zero_mem_crowns (s : State) : 0 ∈ s.crowns := by
  unfold State.crowns
  split <;> decide

theorem State.isF_foldl_refOk : ∀ (l : List Crown) (s : State), 0 ∈ l ∨ s.isF cr0 .bal 0 Reg.BAL_STATUS_REF_OK = true →
    (l.foldl (fun (t : State) c => t.setF (.cr c) .bal 0 Reg.BAL_STATUS_REF_OK 1) s).isF cr0 .bal 0 Reg.BAL_STATUS_REF_OK = true
  | [], s, h => h.resolve_left List.not_mem_nil
  | c :: l, s, h => by
    refine State.isF_foldl_refOk l _ ?_
    by_cases e : c = 0
    · rw [e]; exact .inr (State.isF_setF_one (by decide))
    · refine h.imp (fun m => (List.mem_cons.mp m).resolve_left (Ne.symm e)) fun g => ?_
      rw [State.isF_of_getF (State.getF_setF_ne _ ?_)]
      · exact g
      · fin_cases c
        · exact absurd rfl e
        · decide

theorem does_referenceDetect (phase : s.phase = 2) (pref : s.boot.pref = false) (limit : s.time ≤ s.refLimit) :
    Does .referenceDetect s fun t => t.boot.pref = true ∧ t.isF cr0 .bal 0 Reg.BAL_STATUS_REF_OK = true := by
  have boot (l : List Crown) (u : State) :
      (l.foldl (fun (t : State) c => t.setF (.cr c) .bal 0 Reg.BAL_STATUS_REF_OK 1) u).boot = u.boot :=
    (Only.foldl (pt := Field.but .boot) l (fun _ _ g => g.setF (hp := Allow.but (by decide)) ..) (Only.refl u)).kept
  unfold Does
  show ∃ t, execReferenceDetect s = .next t ∧ _
  rw [execReferenceDetect, phase, pref, bne_self_eq_false, Bool.or_self, if_neg Bool.false_ne_true, if_neg (Nat.not_lt.mpr limit)]
  exact ⟨_, rfl, congrArg BootSt.pref (boot ..), State.isF_foldl_refOk _ _ (.inl (State.zero_mem_crowns _))⟩

theorem State.phase_log (s : State) (d : Die) (b : Blk) (i rc : Nat) (detail : List Byte) (ctx : Nat) :
    (s.log d b i rc detail ctx).phase = s.phase :=
  State.phase_of_same ((Only.refl s).log (hg0 := Allow.but (by decide)) (hp := Allow.but (by decide)) ..).kept

theorem does_referenceTimeout (phase : s.phase = 2) (pref : s.boot.pref = false)
    (due : s.boot.since + (if s.isF cr0 .boot 0 Reg.BOOT_STRAP_REF_SEL then 1 else 20) * msBeats ≤ s.time) :
    Does .referenceTimeout s fun t => t.phase = 15 ∧ t.getF cr0 .boot 0 Reg.BOOT_HALT_HALT_RC = 0x2005 := by
  refine .intro (t := s.refFails) ?_ (State.haltBoot_halts (by rw [State.phase_log, phase]; decide) 0x2005)
  show execReferenceTimeout s = _
  rw [execReferenceTimeout, phase, pref, State.refLimit, decide_eq_true due]
  rfl

theorem does_pllLockTimeout {d : Die} (hd : s.hasDie d = true) (on : s.powered d .bal = true) (pref : s.boot.pref = true)
    (lock : s.isF d .bal 0 Reg.BAL_STATUS_PLL_LOCK = false) (due : max s.boot.prefAt (s.die d).onAt + 3 * msBeats ≤ s.time)
    (phase : s.phase < 8) : Does (.pllLockTimeout d) s fun t => t.phase = 15 := by
  have logged : (s.logAs cr0 d .bal 0 0x2006 [] 0xFF).phase = s.phase :=
    State.phase_of_same ((Only.refl s).logAs (hg0 := Allow.but (by decide)) (hp := Allow.but (by decide)) ..).kept
  refine .intro (t := s.pllFails d) ?_ (State.haltBoot_halts (by rw [logged]; exact phase) 0x2006).1
  show execPllLockTimeout d s = _
  rw [execPllLockTimeout, State.pllSeeks, hd, on, pref, lock, State.pllLimit, decide_eq_true due]
  rfl

/-- Settles O34, one lemma for each clause. -/
theorem powerUpCommandsComplete : Obligations.PowerUpCommandsComplete := by
  unfold Obligations.PowerUpCommandsComplete
  exact ⟨does_powerOnReset_cr0, fun _ => does_powerOnReset_cr1, fun _ _ variant pkg refSel pfLow _ => does_monitorGood variant pkg refSel pfLow,
    fun _ _ pkg refSel _ => does_monitorGood_t0 pkg refSel, fun _ _ _ => does_monitorNotGood, fun _ _ _ => does_monitorBandTimeout,
    fun _ pkg refSel _ => does_pwrFailRelease pkg refSel, fun _ => does_referenceDetect, fun _ => does_referenceTimeout,
    fun _ _ => does_pllLockTimeout⟩

end Sys2Proof.Machine
end

section
/-! The fusion front end: snapshots, calibration batches, tracking and its table port (R303 to R324). -/

namespace Sys2Proof.Machine

variable {s t : State}

/-! ### SUPPORT: one front end, and a whole granule written -/

/-- Every part of the state but those of a list. -/
def Field.outside (l : List Field) : Field → Bool := fun y => decide (y ∉ l)

theorem Allow.outside {l l' : List Field} (h : ∀ y ∈ l', y ∉ l) : Allow (Field.outside l) l' :=
  Allow.of_forall fun y hy => decide_eq_true (h y hy)

theorem Only.keeps {l : List Field} {x : Field} (h : Only (Field.outside l) s t) (hx : x ∈ l) : x.same s t :=
  h.same x (decide_eq_false (not_not.mpr hx))

theorem State.fusion_of_same (h : Field.same .fus s t) (c : Crown) : t.fusion c = s.fusion c := by
  unfold State.fusion; rw [show t.fus = s.fus from h]

theorem State.grp_of_same (h : Field.same .fus s t) (c : Crown) (g : Nat) : t.grp c g = s.grp c g := by
  unfold State.grp; rw [State.fusion_of_same h]

theorem State.grp_setGrp_same (s : State) (c : Crown) (g : Nat) (x : GrpSt) : (s.setGrp c g x).grp c g = x := by
  unfold State.grp State.setGrp
  rw [State.fusion_setFusion_same]
  exact Tab.get_set_same ..

theorem le_boundaryAtOrAfter {g : Nat} (hg : 0 < g) (b : Nat) : b ≤ boundaryAtOrAfter g b := by
  unfold boundaryAtOrAfter ceilDiv
  have := Nat.div_add_mod (b + g - 1) g
  have := Nat.mod_lt (b + g - 1) hg
  rw [Nat.mul_comm]
  omega

theorem pieces_granule {pa : Nat} {l : List Byte} (ha : pa % 64 = 0) (hl : l.length = 64) : pieces 64 pa l = [(pa, l)] := by
  obtain ⟨b, l', rfl⟩ := List.exists_cons_of_length_pos (hl ▸ (by decide : 0 < 64))
  rw [pieces, hl, cutAt, ha, List.take_of_length_le (Nat.le_of_eq hl), List.drop_of_length_le (Nat.le_of_eq hl)]
  · rfl
  · exact List.cons_ne_nil _ _

theorem State.localWrite_granule (s : State) (d : Die) {pa : Nat} {l : List Byte} (ha : pa % 64 = 0) (hl : l.length = 64) :
    s.localWrite d pa l false = s.wrGranule pa l := by
  rw [State.localWrite, pieces_granule ha hl, List.foldl_cons, List.foldl_nil]
  simp only [State.mergeGranule, ha, hl, beq_self_eq_true, Bool.and_self, if_true, Bool.false_eq_true, if_false]

theorem State.take_rdBytes (s : State) : ∀ {n m : Nat}, n ≤ m → ∀ pa, (s.rdBytes pa m).take n = s.rdBytes pa n
  | 0, _, _, _ => rfl
  | n + 1, 0, h, _ => absurd h (Nat.not_succ_le_zero n)
  | n + 1, m + 1, h, pa => congrArg (s.rdByte pa :: ·) (s.take_rdBytes (Nat.le_of_succ_le_succ h) (pa + 1))

/-- The first bytes of a granule written read back. -/
theorem State.rdBytes_wrGranule (s : State) (pa : Nat) {a b : List Byte} {n : Nat} (ha : a.length = n) (hl : (a ++ b).length = 64) :
    (s.wrGranule pa (a ++ b)).rdBytes pa n = a := by
  have len : n ≤ (a ++ b).length := by rw [List.length_append, ha]; exact Nat.le_add_right ..
  rw [State.wrGranule, List.take_of_length_le (Nat.le_of_eq hl)]
  rw [State.rdBytes_congr fun i _ _ => State.setPoison_rdByte (s.wrBytes pa (a ++ b)) pa false i, ← State.take_rdBytes _ len, State.rdBytes_wrBytes, ← ha, List.take_left]

/-! ### Snapshots -/

theorem does_snapshotLimitClose {c : Crown} {g : Fin 16} (on : s.grpOn c g = true) :
    Does (.snapshotLimitClose c g) s fun t => ∀ y ∈ (t.grp c g).snaps,
      y.cause ≠ 0 ∨ s.beat (.cr c) < s.deadline c (s.grpRec c g) y.k + 256 := by
  unfold Does
  show ∃ t, execSnapshotLimitClose c g s = .next t ∧ _
  simp only [execSnapshotLimitClose, on, Bool.not_true, Bool.false_eq_true, if_false]
  refine ⟨_, rfl, fun y hy => ?_⟩
  rw [State.grp_setGrp_same] at hy
  obtain ⟨z, -, rfl⟩ := List.mem_map.mp hy
  split
  case isTrue => exact .inl (by decide : (2 : Nat) ≠ 0)
  case isFalse open_ =>
    simp only [Bool.and_eq_true, beq_iff_eq, decide_eq_true_eq, not_and, Nat.not_le] at open_
    exact (em (z.cause = 0)).symm.imp_right open_

/-- The snapshot that is selected for *k*: the one that holds it, or an empty one, closed. -/
def GrpSt.chosen (x : GrpSt) (k : Int) : Snap :=
  let y0 := (x.snaps.find? fun y => y.k == k).getD { k := k }
  if y0.cause == 0 then { y0 with cause := 2 } else y0

theorem GrpSt.chosen_k (x : GrpSt) (k : Int) : (x.chosen k).k = k := by
  have found : ((x.snaps.find? fun y => y.k == k).getD { k := k }).k = k := by
    cases h : x.snaps.find? fun y => y.k == k with
    | none => rfl
    | some y => exact beq_iff_eq.mp (List.find?_some (p := fun y : Snap => y.k == k) h)
  unfold GrpSt.chosen
  dsimp only
  split
  · exact found
  · exact found

theorem GrpSt.chosen_cause (x : GrpSt) (k : Int) : (x.chosen k).cause ≠ 0 := by
  unfold GrpSt.chosen
  dsimp only
  split
  case isTrue => exact (by decide : (2 : Nat) ≠ 0)
  case isFalse h => exact fun e => h (beq_iff_eq.mpr e)

/-- The snapshots skipped before *k*. -/
def GrpSt.skipped (x : GrpSt) (k : Int) : Nat :=
  match x.last with
  | some l => (k - l - 1).toNat
  | none => (x.snaps.filter fun z => decide (z.k < k)).length

/-- The group once it has selected *k*, for the release at `rb`. -/
def GrpSt.selecting (x : GrpSt) (hold rb : Nat) (k : Int) : GrpSt :=
  { x with snaps := x.snaps.filter (fun z => decide (k < z.k)), last := some k, cur := some (x.chosen k),
           held := (x.chosen k :: x.held).take hold, sel := some (rb, x.chosen k, false, x.skipped k != 0) }

theorem does_snapshotSelect {c : Crown} {g : Fin 16} {k : Int} (on : s.grpOn c g = true) (frame : s.atFrame (.cr c) = true)
    (late : 256 ≤ s.beat (.cr c))
    (phase : phaseOf (s.cadence (.cr c) (s.bank (.cr c)) (gCad (s.grpRec c g))) (s.frame (.cr c) + gCorr (s.grpRec c g)) =
      gFoff (s.grpRec c g))
    (hk : k = ((taiAt (s.mapOf (.cr c)) (s.beat (.cr c) - 256) : Int) - gWaitNs (s.grpRec c g)) / gPerNs (s.grpRec c g))
    (newer : ∀ l, (s.grp c g).last = some l → l < k) :
    Does (.snapshotSelect c g) s fun t => (t.grp c g).last = some k ∧ (∀ z ∈ (t.grp c g).snaps, k < z.k) ∧
      ∃ y skip, y.k = k ∧ y.cause ≠ 0 ∧ (t.grp c g).cur = some y ∧
        (t.grp c g).sel = some ((s.frame (.cr c) + gCorr (s.grpRec c g)) * frameBeats, y, false, skip) := by
  have go : (!s.grpOn c g || !s.atFrame (.cr c) || phaseOf (s.cadence (.cr c) (s.bank (.cr c)) (gCad (s.grpRec c g)))
      (s.frame (.cr c) + gCorr (s.grpRec c g)) != gFoff (s.grpRec c g) || decide (s.beat (.cr c) < 256)) = false := by
    rw [on, frame, phase, decide_eq_false (Nat.not_lt.mpr late), bne_self_eq_false]; rfl
  have fresh : ((s.grp c g).last.any fun l => decide (k ≤ l)) = false := by
    cases h : (s.grp c g).last with
    | none => rfl
    | some l => exact decide_eq_false (Int.not_le.mpr (newer l h))
  have counted (l : List Snap) (u : State) :
      (l.foldl (fun t z => z.tail.foldl (fun u f => u.mapCount c f.1 0 1) t) u).grp c g = u.grp c g :=
    State.grp_of_same (Only.foldl (pt := Field.but .fus) l (fun _ _ h => Only.foldl _
      (fun _ _ h => h.mapCount (hp := Allow.but (by decide)) ..) h) (Only.refl u)).kept c g
  have written (u : State) (n v : Nat) (y : Snap) : (((u.addF (.cr c) .fus 0 Reg.FUS_GRP_SKIP_SKIP n (0x10 * g)).setF (.cr c) .fus 0
      Reg.FUS_GRP_LAST_K_LAST_K v (0x10 * g)).correct c (s.grpRec c g) y).grp c g = u.grp c g :=
    State.grp_of_same ((((Only.refl u).addF (hp := Allow.but (by decide)) ..).setF (hp := Allow.but (by decide)) ..).correct
      (hp := Allow.but (by decide)) ..).kept c g
  have group : ∃ t, exec (.snapshotSelect c g) s = .next t ∧ t.grp c g = (s.grp c g).selecting (gHold (s.grpRec c g))
      ((s.frame (.cr c) + gCorr (s.grpRec c g)) * frameBeats) k := by
    show ∃ t, execSnapshotSelect c g s = .next t ∧ _
    simp only [execSnapshotSelect, go, Bool.false_eq_true, if_false, ← hk, fresh]
    refine ⟨_, rfl, ?_⟩
    rw [written, counted, State.grp_setGrp_same]
    rfl
  obtain ⟨t, ht, hg⟩ := group
  refine .intro ht ?_
  rw [hg]
  exact ⟨rfl, fun z hz => of_decide_eq_true (List.mem_filter.mp hz).2,
    _, _, (s.grp c g).chosen_k k, (s.grp c g).chosen_cause k, rfl, rfl⟩

theorem gPa_aligned (c : Crown) (r : Nat) : gPa c r % 64 = 0 := by
  unfold gPa chipPa
  omega

/-- A group's release: its header, then what it counts and logs. -/
def State.releaseHead (s : State) (c : Crown) (g : Fin 16) (rb : Nat) (y : Snap) (rep skip : Bool) : List Byte :=
  let r := s.grpRec c g
  let all := gPhasors r ++ gScalars r
  leBytes 8 (unsigned 64 y.k) ++ (leBytes 8 rb ++ ([BitVec.ofNat 8 y.cause, BitVec.ofNat 8 (b2n rep + 2 * b2n skip)] ++
    (leBytes 2 g.val ++ (leBytes 4 (all.filter fun ch => (y.val ch).isNone).length ++
    (leBytes 4 ((s.groupStreams c g).filter fun i => !s.arrived c y i).length ++
    (leBytes 4 (all.filter fun ch => bit (y.flag ch) 1).length ++ List.replicate 24 0))))))

theorem State.length_releaseHead (s : State) (c : Crown) (g : Fin 16) (rb : Nat) (y : Snap) (rep skip : Bool) (time : Nat) :
    (leBytes 8 time ++ s.releaseHead c g rb y rep skip).length = 64 := by
  unfold State.releaseHead
  simp only [List.length_append, length_leBytes, List.length_cons, List.length_nil, List.length_replicate]

theorem does_snapshotRelease {c : Crown} {g : Fin 16} {rb : Nat} {y : Snap} {rep skip : Bool}
    (sel : (s.grp c g).sel = some (rb, y, rep, skip)) (hb : rb = s.beat (.cr c)) (on : s.grpOn c g = true) :
    Does (.snapshotRelease c g) s fun t => (t.grp c g).sel = none ∧
      t.rdBytes (gPa c (s.grpRec c g)) 8 = leBytes 8 (unsigned 64 (y.k * gPerNs (s.grpRec c g))) := by
  have go : (rb != s.beat (.cr c) || !s.grpOn c g) = false := by rw [hb, on, bne_self_eq_false]; rfl
  obtain ⟨u, hu⟩ : ∃ u, u = (s.setGrp c g { s.grp c g with sel := none }).localWrite (.cr c) (gPa c (s.grpRec c g))
      (leBytes 8 (unsigned 64 (y.k * gPerNs (s.grpRec c g))) ++ s.releaseHead c g rb y rep skip) false := ⟨_, rfl⟩
  have released : ∃ t, exec (.snapshotRelease c g) s = .next t ∧ Only (Field.outside [.fus, .mem]) u t := by
    show ∃ t, execSnapshotRelease c g s = .next t ∧ _
    simp only [execSnapshotRelease, sel, go, Bool.false_eq_true, if_false, List.append_assoc]
    split
    · refine ⟨_, rfl, ?_⟩
      rw [hu]
      exact Only.ite (((Only.refl _).setF (hp := Allow.outside (by decide)) ..).bumpF (hp := Allow.outside (by decide)) ..)
        ((Only.refl _).setF (hp := Allow.outside (by decide)) ..)
    · refine ⟨_, rfl, ?_⟩
      rw [hu]
      exact (Only.ite (((Only.refl _).setF (hp := Allow.outside (by decide)) ..).bumpF (hp := Allow.outside (by decide)) ..)
        ((Only.refl _).setF (hp := Allow.outside (by decide)) ..)).log (hg0 := Allow.outside (by decide)) (hp := Allow.outside (by decide)) ..
  obtain ⟨t, ht, same⟩ := released
  refine .intro ht ⟨?_, ?_⟩
  · rw [State.grp_of_same (same.keeps (x := .fus) (by decide)), hu, State.grp_of_same (Only.kept ((Only.refl _).localWrite
      (hp := Allow.but (by decide)) ..)), State.grp_setGrp_same]
  · rw [State.rdBytes_congr fun i _ _ => State.rdByte_of_same (same.keeps (x := .mem) (by decide)) i, hu,
      State.localWrite_granule _ _ (gPa_aligned ..) (s.length_releaseHead ..)]
    exact State.rdBytes_wrGranule _ _ (length_leBytes 8 _) (s.length_releaseHead ..)

/-- Settles O25, one lemma for each clause. -/
theorem snapshotCommandsComplete : Obligations.SnapshotCommandsComplete := by
  unfold Obligations.SnapshotCommandsComplete
  exact ⟨fun _ _ _ => does_snapshotLimitClose, fun _ _ _ _ => does_snapshotSelect, fun _ _ _ _ _ _ _ => does_snapshotRelease⟩

/-! ### Calibration batches -/

theorem does_residualBatchStart {c : Crown} {g : Fin 16} {y : Snap} (on : s.grpOn c g = true) (frame : s.atFrame (.cr c) = true)
    (valid : gResValid (s.grpRec c g) = true) (profile : s.fusProfile c = 0) (idle : (s.grp c g).batch = none)
    (landed : s.hasLanded c (gResTag (s.grpRec c g)) = true)
    (held : (s.grp c g).held.find?
      (fun z => z.k == signed 64 (leNat (s.rdBytes (s.landArea c (gResTag (s.grpRec c g))) 8))) = some y) :
    Does (.residualBatchStart c g) s fun t => ∃ b, (t.grp c g).batch = some b ∧ b.k = y.k ∧ s.beat (.cr c) ≤ b.at_ := by
  have go : (!s.grpOn c g || !s.atFrame (.cr c) || !gResValid (s.grpRec c g) || s.fusProfile c != 0 || (s.grp c g).batch.isSome ||
      !s.hasLanded c (gResTag (s.grpRec c g))) = false := by rw [on, frame, valid, profile, idle, landed]; rfl
  unfold Does
  show ∃ t, execResidualBatchStart c g s = .next t ∧ _
  simp only [execResidualBatchStart, go, Bool.false_eq_true, if_false, held]
  exact ⟨_, rfl, _, congrArg GrpSt.batch (State.grp_setGrp_same ..), rfl,
    (Nat.le_add_right ..).trans (le_boundaryAtOrAfter (by decide) _)⟩

theorem State.groups_setFusion {f : FusSt} {c : Crown} (h : f.groups = (s.fusion c).groups) :
    ((s.setFusion c f).fusion c).groups = (s.fusion c).groups := by rw [State.fusion_setFusion_same, h]

theorem State.groups_setCoef (s : State) (c : Crown) (ch v : Nat) (commit : Bool) :
    ((s.setCoef c ch v commit).fusion c).groups = (s.fusion c).groups := by
  unfold State.setCoef
  dsimp only
  rw [State.setF_fusion, State.setTbl_fusion]
  refine State.groups_setFusion ?_
  split <;> rfl

/-- What a batch writes back of one channel leaves the groups. -/
theorem State.groups_applyOne (s : State) (c : Crown) (ch : Nat) (v : Nat × Nat × Nat × Nat) :
    ((s.applyOne c ch v).fusion c).groups = (s.fusion c).groups := by
  unfold State.applyOne
  dsimp only
  split
  · exact State.groups_setFusion rfl
  · have gains (u : State) (gain gainWas : Tab (Nat × Nat)) :
        ((u.setFusion c { u.fusion c with gain := gain, gainWas := gainWas }).fusion c).groups = (u.fusion c).groups :=
      State.groups_setFusion rfl
    split
    · rw [State.fusion_of_same (State.log_fus ..), gains, State.groups_setCoef]
    · rw [gains, State.groups_setCoef]

theorem State.groups_applyAll (c : Crown) : ∀ (l : Tab (Nat × Nat × Nat × Nat)) (s : State),
    ((l.foldl (fun t p => t.applyOne c p.1 p.2) s).fusion c).groups = (s.fusion c).groups
  | [], _ => rfl
  | p :: l, s => (State.groups_applyAll c l _).trans (s.groups_applyOne c p.1 p.2)

theorem does_calibBatchApply {c : Crown} {g : Fin 16} {b : BatchSt} (batch : (s.grp c g).batch = some b)
    (due : b.at_ ≤ s.beat (.cr c)) (frame : s.atFrame (.cr c) = true) :
    Does (.calibBatchApply c g) s fun t => (t.grp c g).batch = none := by
  have go : (decide (s.beat (.cr c) < b.at_) || !s.atFrame (.cr c)) = false := by
    rw [decide_eq_false (Nat.not_lt.mpr due), frame]; rfl
  refine .intro (t := b.upd.foldl (fun t p => t.applyOne c p.1 p.2) (s.setGrp c g { s.grp c g with batch := none })) ?_ ?_
  · show execCalibBatchApply c g s = _
    simp only [execCalibBatchApply, batch, go, Bool.false_eq_true, if_false]
  · rw [State.grp, State.groups_applyAll]
    exact congrArg GrpSt.batch (State.grp_setGrp_same ..)

/-- Settles O26, one lemma for each clause. -/
theorem calibrationCommandsComplete : Obligations.CalibrationCommandsComplete := by
  unfold Obligations.CalibrationCommandsComplete
  exact ⟨fun _ _ _ _ => does_residualBatchStart, fun _ _ _ _ => does_calibBatchApply⟩

/-! ### Tracking -/

theorem does_modeSetProcess {c : Crown} (die : s.hasDie (.cr c) = true) (on : s.powered (.cr c) .fus = true)
    (enabled : s.enabled .fus (.cr c) = true) (valid : s.isF (.cr c) .fus 0 Reg.FUS_MODE_CFG2_MODE_VALID = true)
    (profile : s.fusProfile c < 2) (frame : s.atFrame (.cr c) = true)
    (landed : s.hasLanded c (s.getF (.cr c) .fus 0 Reg.FUS_MODE_CFG2_MODE_TAG) = true) (first : (s.fusion c).modeTime = none) :
    Does (.modeSetProcess c) s fun t => (t.fusion c).modeTime =
        some (signed 64 (leNat (s.rdBytes (s.landArea c (s.getF (.cr c) .fus 0 Reg.FUS_MODE_CFG2_MODE_TAG)) 8))) ∧
      ∃ at_ tracks, (t.fusion c).pubs = (s.fusion c).pubs ++ [(at_, tracks)] ∧ s.beat (.cr c) ≤ at_ := by
  have go : (!(s.hasDie (.cr c) && s.powered (.cr c) .fus && s.enabled .fus (.cr c) &&
      s.isF (.cr c) .fus 0 Reg.FUS_MODE_CFG2_MODE_VALID && decide (s.fusProfile c < 2)) || !s.atFrame (.cr c) ||
      !s.hasLanded c (s.getF (.cr c) .fus 0 Reg.FUS_MODE_CFG2_MODE_TAG)) = false := by
    rw [die, on, enabled, valid, decide_eq_true profile, frame, landed]; rfl
  have shown (u : State) (f : FusSt) (n : Nat) (q : Bool) : (if q then (u.setFusion c f).addF (.cr c) .fus 0 Reg.FUS_COUNT_TRK_FULL n
      else ((u.setFusion c f).addF (.cr c) .fus 0 Reg.FUS_COUNT_TRK_FULL n).log (.cr c) .fus 0 0x6003).fusion c = f := by
    have added := (State.fusion_of_same ((Only.refl (u.setFusion c f)).addF (.cr c) .fus 0 Reg.FUS_COUNT_TRK_FULL n 0
      (Allow.but (by decide))).kept c).trans (State.fusion_setFusion_same ..)
    cases q
    · rw [if_neg Bool.false_ne_true, State.fusion_of_same (State.log_fus ..), added]
    · rw [if_pos rfl, added]
  have newer (time : Int) : ((s.fusion c).modeTime.any fun t => decide (time ≤ t)) = false := by rw [first]; rfl
  have exec_eq : exec (.modeSetProcess c) s = _ :=
    (if_neg (fun e => Bool.false_ne_true (go.symm.trans e))).trans (if_neg fun e => Bool.false_ne_true ((newer _).symm.trans e))
  exact ⟨_, exec_eq, congrArg FusSt.modeTime (shown ..), _, _, congrArg FusSt.pubs (shown ..), Nat.le_add_right ..⟩

theorem does_trackTablePublish {c : Crown} {p : Nat × Tab Track} {rest : List (Nat × Tab Track)}
    (pubs : (s.fusion c).pubs = p :: rest) (due : p.1 ≤ s.beat (.cr c)) (frame : s.atFrame (.cr c) = true) :
    Does (.trackTablePublish c) s fun t => (t.fusion c).half = 1 - (s.fusion c).half ∧ (t.fusion c).pubs = rest := by
  have go : (decide (s.beat (.cr c) < p.1) || !s.atFrame (.cr c)) = false := by
    rw [decide_eq_false (Nat.not_lt.mpr due), frame]; rfl
  have written (u : State) (pa : Nat) (l : List Byte) (f : FusSt) : ((u.setFusion c f).localWrite (.cr c) pa l false).fusion c = f :=
    (State.fusion_of_same (Only.kept ((Only.refl _).localWrite (hp := Allow.but (by decide)) ..)) c).trans
      (State.fusion_setFusion_same ..)
  unfold Does
  show ∃ t, execTrackTablePublish c s = .next t ∧ _
  simp only [execTrackTablePublish, pubs, go, Bool.false_eq_true, if_false]
  refine ⟨_, rfl, ?_⟩
  rw [written]
  exact ⟨rfl, rfl⟩

/-- Settles O27, one lemma for each clause. -/
theorem trackingCommandsComplete : Obligations.TrackingCommandsComplete := by
  unfold Obligations.TrackingCommandsComplete
  exact ⟨fun _ _ => does_modeSetProcess, fun _ _ _ _ => does_trackTablePublish⟩

/-! ### The table port -/

/-- A record written by a port with no set armed waits in its shadow. -/
theorem State.tshadow_storeRec {key v : Nat} (late : s.lateWr = false) : Tab.get 0 (s.storeRec false key v).tshadow key = v + 1 := by
  rw [State.storeRec, if_neg Bool.false_ne_true, late, if_neg Bool.false_ne_true]
  exact Tab.get_set_same (d := 0) s.tshadow key (v + 1)

theorem does_fusTableWrite {c : Crown} (w : Word) {i : Nat} (die : s.hasDie (.cr c) = true) (on : s.powered (.cr c) .fus = true)
    (space : s.getF (.cr c) .fus 0 Reg.FUS_TBL_SPACE_SPACE = 0) (index : s.getF (.cr c) .fus 0 Reg.FUS_TBL_INDEX_INDEX = i)
    (hi : i < 16) (late : s.lateWr = false) :
    Does (.fusTableWrite c w) s fun t => Tab.get 0 t.tshadow (tblKey 10 (dieCode (.cr c)) 0 0 0 i) =
      s.portWords (.cr c) .fus Reg.FUS_TBL_DATA_DATA 16 w.toNat + 1 := by
  have some_ : s.fusEmpty (.cr c) = false := by
    rw [State.fusEmpty, space, index]
    exact decide_eq_false (Nat.not_le.mpr hi)
  refine .intro (t := (s.setF (.cr c) .fus 0 Reg.FUS_TBL_DATA_DATA w.toNat (4 * 15)).storeRec false
    (tblKey 10 (dieCode (.cr c)) 0 0 0 i) (s.portWords (.cr c) .fus Reg.FUS_TBL_DATA_DATA 16 w.toNat)) ?_
    (State.tshadow_storeRec late)
  show execFusTableWrite c w s = _
  simp only [execFusTableWrite, die, on, Bool.and_self, if_true, space, beq_self_eq_true, State.fusTblWrite, some_,
    Bool.false_eq_true, if_false, index, decide_eq_true hi]

/-- The words of a port's data registers hold a record after it is loaded. -/
theorem State.getF_loadWords {d : Die} {b : Blk} {f : Fld} (hf : f.lo < 32) (v : Nat) (s : State) {i : Nat} : ∀ n, i < n →
    ((List.range n).foldl (fun (t : State) i => t.setF d b 0 f (v / 2 ^ (32 * i)) (4 * i)) s).getF d b 0 f (4 * i) =
      v / 2 ^ (32 * i) % 2 ^ f.w
  | 0, h => absurd h (Nat.not_lt_zero i)
  | n + 1, h => by
    rw [List.range_succ, List.foldl_append]
    by_cases e : i = n
    · rw [e]; exact State.getF_setF_same ..
    · refine (State.getF_setF_ne _ (fkey_ne hf hf (.inl ?_))).trans (State.getF_loadWords hf v s n (by omega))
      omega

theorem does_fusTableRead {p : Path} {c : Crown} {i : Nat} (alive : s.deadRead p (.cr c) .fus = none)
    (space : s.getF (.cr c) .fus 0 Reg.FUS_TBL_SPACE_SPACE = 1) (index : s.getF (.cr c) .fus 0 Reg.FUS_TBL_INDEX_INDEX = i)
    (hi : i < 8192) : Does (.fusTableRead p c) s fun t => Tab.get 0 t.rdData (pathCode p) = s.mapRec c i % 2 ^ 32 := by
  have selected : s.fusRec c = (s.mapRec c i, 4) := by
    rw [State.fusRec, space, index]
    exact congrArg (·, 4) (if_pos hi)
  refine .intro (t := s.fusLoad c |>.putRd p ((s.fusLoad c).getF (.cr c) .fus 0 Reg.FUS_TBL_DATA_DATA 0)) ?_ ?_
  · show execFusTableRead p c s = _
    rw [execFusTableRead, alive]
  · rw [State.rdData_putRd_same, State.fusLoad, selected]
    exact (State.getF_loadWords (i := 0) (by decide) (s.mapRec c i) s 4 (by decide)).trans
      (by rw [Nat.mul_zero, Nat.pow_zero, Nat.div_one])

/-- Settles O28, one lemma for each clause. -/
theorem fusionTableCommandsComplete : Obligations.FusionTableCommandsComplete := by
  unfold Obligations.FusionTableCommandsComplete
  exact ⟨fun _ w _ _ => does_fusTableWrite w, fun _ _ _ _ => does_fusTableRead⟩

end Sys2Proof.Machine
end

section
/-! SUPPORT. Which bytes of package memory an operation may change, the pieces a range is cut into, and what a command flit
says. -/

namespace Sys2Proof.Machine

variable {s t z : State} {P : Nat → Prop}

/-! ### Bytes stored -/

/-- Only bytes at addresses of `P` read otherwise. -/
structure StoresIn (P : Nat → Prop) (z s : State) : Prop where
  same : ∀ a, ¬P a → s.rdByte a = z.rdByte a

/-- An address lies in the `n` bytes from `a` on. -/
def InRange (a n x : Nat) : Prop := a ≤ x ∧ x < a + n

namespace StoresIn

theorem refl (P : Nat → Prop) (s : State) : StoresIn P s s := ⟨fun _ _ => rfl⟩

theorem keeps (h : StoresIn P z s) (g : Only (Field.but .mem) s t) : StoresIn P z t :=
  ⟨fun a ha => (State.rdByte_of_same g.kept a).trans (h.same a ha)⟩

theorem wrBytes (h : StoresIn P z s) {pa : Nat} {l : List Byte} (hP : ∀ x, InRange pa l.length x → P x) :
    StoresIn P z (s.wrBytes pa l) :=
  ⟨fun a ha => (s.rdByte_wrBytes_ne (by
    by_contra c
    exact ha (hP a ⟨by omega, by omega⟩))).trans (h.same a ha)⟩

theorem setPoison (h : StoresIn P z s) (pa : Nat) (p : Bool) : StoresIn P z (s.setPoison pa p) :=
  ⟨fun a ha => (s.setPoison_rdByte pa p a).trans (h.same a ha)⟩

theorem ite {p : Prop} [Decidable p] {a b : State} (h : StoresIn P z a) (g : StoresIn P z b) :
    StoresIn P z (if p then a else b) := by
  split
  · exact h
  · exact g

theorem ite_snd {α : Type} {p : Prop} [Decidable p] {a b : α × State} (h : StoresIn P z a.2) (g : StoresIn P z b.2) :
    StoresIn P z (if p then a else b).2 := by
  split
  · exact h
  · exact g

theorem foldl {α : Type} {f : State → α → State} (h : StoresIn P z s) (l : List α)
    (hf : ∀ a ∈ l, ∀ u, StoresIn P z u → StoresIn P z (f u a)) : StoresIn P z (l.foldl f s) :=
  List.foldlRecOn l f h fun u hu a ha => hf a ha u hu

theorem mergeGranule (h : StoresIn P z s) {pa : Nat} {l : List Byte} (hP : ∀ x, InRange pa l.length x → P x) :
    StoresIn P z (s.mergeGranule pa l).2 := by
  unfold State.mergeGranule
  split
  · exact (h.wrBytes fun x hx => hP x ⟨hx.1, hx.2.trans_le (Nat.add_le_add_left (List.length_take_le' ..) _)⟩).setPoison ..
  · split
    · exact h
    · exact h.wrBytes hP

theorem makePoison (h : StoresIn P z s) (d : Die) (pa : Nat) : StoresIn P z (s.makePoison d pa) :=
  h.keeps ((Only.refl s).makePoison (hp := Allow.but (by decide)) ..)

theorem writeOne (h : StoresIn P z s) (d : Die) {pa : Nat} {l : List Byte} (bad dead : Bool)
    (hP : ∀ x, InRange pa l.length x → P x) : StoresIn P z (s.writeOne d pa l bad dead).2 := by
  refine ite_snd (h.makePoison ..) (ite_snd (h.makePoison ..) (ite_snd ?_ (h.mergeGranule hP)))
  exact h.keeps ((Only.refl s).uncorrectable (hg0 := Allow.but (by decide)) (hg1 := Allow.but (by decide))
    (hp := Allow.but (by decide)) ..)

theorem outside (h : StoresIn (InRange a n) s t) : MemOutside s t a n :=
  fun x hx => h.same x fun r => by obtain ⟨hl, hu⟩ := r; omega

end StoresIn

/-! ### Pieces -/

/-- What is known of a piece: it lies in the range that is cut, within one block of `g`. -/
theorem mem_cutAt {g : Nat} (hg : 0 < g) {q : Nat × List Byte} : ∀ {n pa : Nat} {l : List Byte}, q ∈ cutAt g n pa l →
    pa ≤ q.1 ∧ q.1 + q.2.length ≤ pa + l.length ∧ q.1 % g + q.2.length ≤ g ∧ 0 < q.2.length
  | 0, _, _, h => absurd h List.not_mem_nil
  | _ + 1, _, [], h => absurd h List.not_mem_nil
  | n + 1, pa, b :: l, h => by
    have low := Nat.mod_lt pa hg
    rcases List.mem_cons.mp h with rfl | h
    · simp only [List.length_take, List.length_cons]
      omega
    · obtain ⟨above, below, block, pos⟩ := mem_cutAt hg h
      rw [List.length_drop] at below
      simp only [List.length_cons] at below ⊢
      omega

theorem mem_pieces {g pa : Nat} {l : List Byte} (hg : 0 < g) {q : Nat × List Byte} (h : q ∈ pieces g pa l) :
    pa ≤ q.1 ∧ q.1 + q.2.length ≤ pa + l.length ∧ q.1 % g + q.2.length ≤ g ∧ 0 < q.2.length := mem_cutAt hg h

theorem StoresIn.localWrite (h : StoresIn P z s) (d : Die) {pa : Nat} {l : List Byte} (poison : Bool)
    (hP : ∀ x, InRange pa l.length x → P x) : StoresIn P z (s.localWrite d pa l poison) := by
  refine h.foldl _ fun q hq u hu => ?_
  obtain ⟨above, below, -, -⟩ := mem_pieces (by decide) hq
  have put := hu.mergeGranule (pa := q.1) (l := q.2) fun x hx => hP x ⟨by have := hx.1; omega, by have := hx.2; omega⟩
  exact StoresIn.ite (put.makePoison ..) put

/-! ### A command flit -/

theorem leNat_leBytes : ∀ n v, leNat (leBytes n v) = v % 256 ^ n
  | 0, v => (Nat.mod_one v).symm
  | n + 1, v => by
    rw [leBytes, leNat, leNat_leBytes n, BitVec.toNat_ofNat, show 256 ^ (n + 1) = 256 * 256 ^ n from Nat.pow_succ']
    exact Nat.mod_mul.symm

variable (code die pkg ctx : Nat) (host : Bool) (epoch tag target len a b : Nat)

theorem cmdTarget_cmdFlit : cmdTarget (cmdFlit code die pkg ctx host epoch tag target len a b) = target % 2 ^ 52 := by
  show leNat (leBytes 7 (target % 2 ^ 52)) % 2 ^ 52 = _
  rw [leNat_leBytes]
  omega

theorem cmdLen_cmdFlit (h : 0 < len) (h' : len ≤ 4096) : cmdLen (cmdFlit code die pkg ctx host epoch tag target len a b) = len := by
  show leNat (leBytes 2 (len - 1)) % 4096 + 1 = len
  rw [leNat_leBytes]
  omega

end Sys2Proof.Machine
end

section
/-! A WRITE and a host write store in their ranges and nowhere else (R245, R250, R252, R254, R269, R270). -/

namespace Sys2Proof.Machine

variable {s t : State} {P : Nat → Prop} {z : State}

/-! ### Nothing outside the range -/

theorem length_writeData (target len : Nat) (data : List (List Byte)) : (writeData target len data).length ≤ len :=
  List.length_take_le ..

theorem StoresIn.pwFailed (h : StoresIn P z s) (d : Die) (p : List Byte) (cause n pa : Nat) :
    StoresIn P z (s.pwFailed d p cause n pa) :=
  h.keeps ((Only.refl s).pwFailed (hg0 := Allow.but (by decide)) (hg1 := Allow.but (by decide)) (hp := Allow.but (by decide)) ..)

/-- One piece of a WRITE: the failures so far, and the state. -/
def writeStep (d : Die) (p : List Byte) (pa : Nat) (bad dead : List Nat) (acc : List (Nat × Nat) × State) (q : Nat × List Byte) :
    List (Nat × Nat) × State :=
  let j := q.1 / 64 - pa / 64
  let (c, t) := acc.2.writeOne d q.1 q.2 (decide (j ∈ bad)) (decide (j ∈ dead))
  match c with
  | some k => (acc.1 ++ [(q.1 / 64 * 64, k)], t)
  | none => (acc.1, if bit (cmdA p) j then t.makePoison d q.1 else t)

/-- A WRITE reports the pieces that failed. -/
def State.failWrite (d : Die) (p : List Byte) (r : List (Nat × Nat) × State) : State :=
  match r.1 with
  | [] => r.2
  | (a, c) :: _ => r.2.pwFailed d p c r.1.length a

/-- A WRITE of no counter, within a block. -/
theorem State.takeWrite_eq (s : State) (d : Die) (p : List Byte) (data : List (List Byte)) (bad dead : List Nat)
    (block : crosses (cmdTarget p % 2 ^ 48) (cmdLen p) = false) (counter : counterOf (cmdTarget p % 2 ^ 48) = none) :
    s.takeWrite d p data bad dead =
      State.failWrite d p ((pieces 64 (cmdTarget p % 2 ^ 48) (writeData (cmdTarget p % 2 ^ 48) (cmdLen p) data)).foldl
        (writeStep d p (cmdTarget p % 2 ^ 48) bad dead) ([], s.countAccepted d (originKey p))) := by
  simp only [State.takeWrite, block, counter, Bool.false_eq_true, if_false]
  rfl

theorem StoresIn.writeStep {d : Die} {p : List Byte} {pa : Nat} {bad dead : List Nat} {acc : List (Nat × Nat) × State}
    {q : Nat × List Byte} (h : StoresIn P z acc.2) (hP : ∀ x, InRange q.1 q.2.length x → P x) :
    StoresIn P z (Machine.writeStep d p pa bad dead acc q).2 := by
  have one := h.writeOne d (decide (q.1 / 64 - pa / 64 ∈ bad)) (decide (q.1 / 64 - pa / 64 ∈ dead)) hP
  unfold Machine.writeStep
  dsimp only
  split
  · exact one
  · exact StoresIn.ite (one.makePoison ..) one

/-- A WRITE at its destination stores in its range only. -/
theorem StoresIn.takeWrite (h : StoresIn P z s) (d : Die) {p : List Byte} (data : List (List Byte)) (bad dead : List Nat)
    (hP : ∀ x, InRange (cmdTarget p % 2 ^ 48) (cmdLen p) x → P x) : StoresIn P z (s.takeWrite d p data bad dead) := by
  have counted := h.keeps ((Only.refl s).countAccepted d (originKey p) (Allow.but (by decide)))
  cases block : crosses (cmdTarget p % 2 ^ 48) (cmdLen p) with
  | true =>
    simp only [State.takeWrite, block, if_true]
    exact counted.pwFailed ..
  | false =>
    cases counter : counterOf (cmdTarget p % 2 ^ 48) with
    | some n =>
      simp only [State.takeWrite, block, counter, Bool.false_eq_true, if_false]
      exact counted.keeps ((Only.refl _).takeSignal (hg0 := Allow.but (by decide)) (hg1 := Allow.but (by decide))
        (hp := Allow.but (by decide)) ..)
    | none =>
      rw [State.takeWrite_eq s d p data bad dead block counter]
      have all : StoresIn P z ((pieces 64 (cmdTarget p % 2 ^ 48) (writeData (cmdTarget p % 2 ^ 48) (cmdLen p) data)).foldl
          (Machine.writeStep d p (cmdTarget p % 2 ^ 48) bad dead) ([], s.countAccepted d (originKey p))).2 := by
        refine List.foldlRecOn _ _ (motive := fun acc : List (Nat × Nat) × State => StoresIn P z acc.2) counted
          fun acc hacc q hq => hacc.writeStep fun x hx => hP x ?_
        obtain ⟨above, below, -, -⟩ := mem_pieces (by decide) hq
        have := length_writeData (cmdTarget p % 2 ^ 48) (cmdLen p) data
        exact ⟨above.trans hx.1, by have := hx.2; omega⟩
      unfold State.failWrite
      split
      · exact all
      · exact all.pwFailed ..

theorem memOutside_write {d : Die} {cmd : List Byte} {data : List (List Byte)} {bad dead : List Nat}
    (h : exec (.write d cmd data bad dead) s = .next t) : MemOutside s t (cmdTarget cmd % 2 ^ 48) (cmdLen cmd) := by
  have e : (if s.hasDie d then s.takeWrite d cmd data bad dead else s) = t := by
    have : exec (.write d cmd data bad dead) s = .next (if s.hasDie d then s.takeWrite d cmd data bad dead else s) := by
      show execWrite d cmd data bad dead s = _
      unfold execWrite
      split <;> rfl
    exact Host.Outcome.next.inj (this.symm.trans h)
  rw [← e]
  exact (StoresIn.ite ((StoresIn.refl _ s).takeWrite d data bad dead fun _ hx => hx) (StoresIn.refl _ s)).outside

/-! ### A post of bytes -/

theorem State.pkgId_postOne (s : State) (d : Die) (ctx : Nat) (host : Bool) (target : Nat) (l : List Byte) (bad : List Nat) :
    (s.postOne d ctx host target l bad).pkgId = s.pkgId :=
  Field.getF_of_same ((Only.refl s).postOne (hg0 := Allow.but (x := .ofReg .boot Reg.BOOT_STRAP_PKG_ID) (by decide))
    (hg1 := Allow.but (by decide)) (hg2 := Allow.but (by decide)) (hp := Allow.but (by decide)) ..).kept ..

/-- A posted WRITE stores here only where it is for this package, and then in its range. -/
theorem StoresIn.postOne (h : StoresIn P z s) (d : Die) (ctx : Nat) (host : Bool) {target : Nat} {l : List Byte} (bad : List Nat)
    (hl : 0 < l.length) (hl' : l.length ≤ 4096)
    (hP : target / 2 ^ 48 = s.pkgId → ∀ x, InRange (target % 2 ^ 48) l.length x → P x) :
    StoresIn P z (s.postOne d ctx host target l bad) := by
  have issued (o e k : Nat) : StoresIn P z ((s.takeTag o).2.countIssued o e k) :=
    h.keeps (((Only.refl s).takeTag (hp := Allow.but (by decide)) ..).countIssued (hp := Allow.but (by decide)) ..)
  unfold State.postOne
  dsimp only
  split
  · exact issued ..
  · split
    case isTrue here =>
      refine (issued ..).takeWrite _ _ _ _ fun x hx => hP (beq_iff_eq.mp (Bool.and_eq_true_iff.mp here).1) x ?_
      rwa [cmdTarget_cmdFlit, cmdLen_cmdFlit _ _ _ _ _ _ _ _ _ _ _ hl hl', Nat.mod_mod_of_dvd _ (by decide)] at hx
    case isFalse => exact (issued ..).keeps ((Only.refl _).sendMsg (hp := Allow.but (by decide)) ..)

/-- A posted run of bytes stores here only where it is for this package. -/
theorem StoresIn.post (h : StoresIn P z s) (d : Die) (ctx : Nat) (host : Bool) {target : Nat} {l : List Byte} (bad : List Nat)
    (hP : ∀ a, InRange target l.length a → a / 2 ^ 48 = s.pkgId → P (a % 2 ^ 48)) :
    StoresIn P z (s.post d ctx host target l bad) := by
  have all : ∀ q ∈ pieces 4096 target l, ∀ u : State, u.pkgId = s.pkgId ∧ StoresIn P z u →
      (u.postOne d ctx host q.1 q.2 bad).pkgId = s.pkgId ∧ StoresIn P z (u.postOne d ctx host q.1 q.2 bad) := by
    rintro q hq u ⟨pkg, stores⟩
    obtain ⟨above, below, block, pos⟩ := mem_pieces (by decide) hq
    refine ⟨(u.pkgId_postOne ..).trans pkg, stores.postOne d ctx host bad pos (by omega) fun here x hx => ?_⟩
    have inside : (q.1 / 2 ^ 48 * 2 ^ 48 + x) / 2 ^ 48 = q.1 / 2 ^ 48 ∧ (q.1 / 2 ^ 48 * 2 ^ 48 + x) % 2 ^ 48 = x ∧
        InRange target l.length (q.1 / 2 ^ 48 * 2 ^ 48 + x) := by
      obtain ⟨hl, hu⟩ := hx
      unfold InRange
      omega
    rw [← inside.2.1]
    exact hP _ inside.2.2 (inside.1.trans (here.trans pkg))
  exact (List.foldlRecOn _ (fun t p => t.postOne d ctx host p.1 p.2 bad)
    (motive := fun u : State => u.pkgId = s.pkgId ∧ StoresIn P z u) ⟨rfl, h⟩ fun u hu q hq => all q hq u hu).2

/-! ### The bytes arrive -/

/-- A merge that does not fail writes its bytes and leaves its granule without poison. -/
theorem State.mergeGranule_ok {u : State} {pa : Nat} {l : List Byte} (block : pa % 64 + l.length ≤ 64)
    (ok : (pa % 64 = 0 ∧ l.length = 64) ∨ u.poisoned pa = false) : (u.mergeGranule pa l).1 = false ∧
      (∀ i (h : i < l.length), (u.mergeGranule pa l).2.rdByte (pa + i) = l[i]) ∧
      (∀ x, ¬InRange pa l.length x → (u.mergeGranule pa l).2.rdByte x = u.rdByte x) ∧
      ∀ x, (u.mergeGranule pa l).2.poisoned x = (decide (x / 64 ≠ pa / 64) && u.poisoned x) := by
  have outside := ((StoresIn.refl _ u).mergeGranule (pa := pa) (l := l) fun _ hx => hx).same
  by_cases whole : pa % 64 = 0 ∧ l.length = 64
  · have eq : u.mergeGranule pa l = (false, u.wrGranule pa l) := by
      rw [State.mergeGranule, whole.1, whole.2]; rfl
    rw [eq] at outside ⊢
    refine ⟨rfl, fun i h => ?_, outside, fun x => ?_⟩
    · rw [State.wrGranule, List.take_of_length_le (Nat.le_of_eq whole.2), State.setPoison_rdByte]
      exact State.rdByte_wrBytes _ h
    · show Tab.get false (Tab.set false u.poison (pa / 64) false) (x / 64) = _
      by_cases e : x / 64 = pa / 64
      · rw [e, Tab.get_set_same]; simp
      · rw [Tab.get_set_ne _ _ e, decide_eq_true e]; rfl
  · have clean := ok.resolve_left whole
    have eq : u.mergeGranule pa l = (false, u.wrBytes pa l) := by
      have part : (pa % 64 == 0 && l.length == 64) = false := by
        rw [Bool.and_eq_false_iff, beq_eq_false_iff_ne, beq_eq_false_iff_ne]
        exact not_and_or.mp whole
      rw [State.mergeGranule, part, clean]; rfl
    rw [eq] at outside ⊢
    refine ⟨rfl, fun i h => State.rdByte_wrBytes _ h, outside, fun x => ?_⟩
    by_cases e : x / 64 = pa / 64
    · rw [decide_eq_false (not_not.mpr e), Bool.false_and]
      show Tab.get false u.poison (x / 64) = false
      rw [e]
      exact clean
    · rw [decide_eq_true e]; rfl

theorem State.poisoned_makePoison (u : State) (d : Die) (pa x : Nat) :
    (u.makePoison d pa).poisoned x = (decide (x / 64 = pa / 64) || u.poisoned x) := by
  have set (v : Bool) : Tab.get false (Tab.set false u.poison (pa / 64) true) (x / 64) =
      (decide (x / 64 = pa / 64) || Tab.get false u.poison (x / 64)) := by
    by_cases e : x / 64 = pa / 64
    · rw [e, Tab.get_set_same, decide_eq_true rfl]; rfl
    · rw [Tab.get_set_ne _ _ e, decide_eq_false e]; rfl
  unfold State.makePoison
  split
  case isTrue h =>
    by_cases e : x / 64 = pa / 64
    · rw [decide_eq_true e, Bool.true_or]
      show Tab.get false u.poison (x / 64) = true
      rw [e]
      exact h
    · rw [decide_eq_false e]; rfl
  case isFalse =>
    cases d with
    | mv m => exact (State.poisoned_of_same ((Only.refl _).bumpF (hp := Allow.but (by decide)) ..).kept x).trans (set true)
    | cr c => exact set true

/-- The unit that a piece is for takes it. -/
def UnitUp (s : State) (d : Die) (pa : Nat) : Prop := ∀ m e, d = .mv m → bufferOf pa = some e → s.unitDown d (some e) = false

theorem State.writeOne_up {u : State} {d : Die} {pa : Nat} (up : UnitUp u d pa) (l : List Byte) :
    u.writeOne d pa l false false = (if (u.mergeGranule pa l).1 then some 2 else none, (u.mergeGranule pa l).2) := by
  unfold State.writeOne
  cases d with
  | cr c => rfl
  | mv m =>
    cases hb : bufferOf pa with
    | none => rfl
    | some e =>
      have := up m e rfl hb
      simp only [this, Bool.false_and, Bool.false_eq_true, if_false]

/-- The state after a piece of a WRITE that does not fail. -/
def State.putPiece (u : State) (d : Die) (p : List Byte) (pa : Nat) (q : Nat × List Byte) : State :=
  if bit (cmdA p) (q.1 / 64 - pa / 64) then (u.mergeGranule q.1 q.2).2.makePoison d q.1 else (u.mergeGranule q.1 q.2).2

theorem writeStep_ok {u : State} {d : Die} {p : List Byte} {pa : Nat} {q : Nat × List Byte} (up : UnitUp u d q.1)
    (ok : (u.mergeGranule q.1 q.2).1 = false) : writeStep d p pa [] [] ([], u) q = ([], u.putPiece d p pa q) := by
  have none_ (n : Nat) : decide (n ∈ ([] : List Nat)) = false := decide_eq_false List.not_mem_nil
  unfold writeStep
  dsimp only
  rw [none_, State.writeOne_up up, ok]
  rfl

theorem Only.putPiece {u : State} (d : Die) (p : List Byte) (pa : Nat) (q : Nat × List Byte) :
    Only (Field.outside [.rcv, .ofReg .pwr Reg.PWR_DOM_STATE]) u (u.putPiece d p pa q) := by
  have merged := (Only.refl u).mergeGranule q.1 q.2 (Allow.outside (l := [.rcv, .ofReg .pwr Reg.PWR_DOM_STATE]) (by decide))
  exact Only.ite (merged.makePoison (hp := Allow.outside (by decide)) ..) merged

theorem UnitUp.of_only {d : Die} {pa : Nat} (h : UnitUp s d pa)
    (g : Only (Field.outside [.rcv, .ofReg .pwr Reg.PWR_DOM_STATE]) s t) : UnitUp t d pa := by
  intro m e hd hb
  have dom (k : Nat) : t.dom k = s.dom k := State.dom_of_same (g.keeps (by decide)) k
  have powered : t.powered d .eng = s.powered d .eng := by
    unfold State.powered State.domOn
    rw [Field.getF_of_same (g.keeps (x := .ofReg .pwr Reg.PWR_DOM_STATE) (by decide))]
  rw [← h m e hd hb]
  unfold State.unitDown
  rw [dom, dom, powered]

/-- What a WRITE leaves of a range cut into granules: its bytes, and poison where its flit says so. -/
structure Written (A pa0 pa : Nat) (l : List Byte) (u v : State) : Prop where
  bytes : ∀ i (h : i < l.length), v.rdByte (pa + i) = l[i]
  poison : ∀ i, i < l.length → v.poisoned (pa + i) = bit A ((pa + i) / 64 - pa0 / 64)
  outside : ∀ x, ¬InRange pa l.length x → v.rdByte x = u.rdByte x
  other : ∀ x, x / 64 < pa / 64 ∨ (pa + l.length + 63) / 64 ≤ x / 64 → v.poisoned x = u.poisoned x

theorem Written.nil (A pa0 pa : Nat) (u : State) : Written A pa0 pa [] u u :=
  ⟨fun _ h => absurd h (Nat.not_lt_zero _), fun _ h => absurd h (Nat.not_lt_zero _), fun _ _ => rfl, fun _ _ => rfl⟩

theorem Written.putPiece {u : State} (d : Die) (p : List Byte) (pa0 : Nat) {q : Nat × List Byte}
    (block : q.1 % 64 + q.2.length ≤ 64) (pos : 0 < q.2.length) (ok : (q.1 % 64 = 0 ∧ q.2.length = 64) ∨ u.poisoned q.1 = false) :
    Written (cmdA p) pa0 q.1 q.2 u (u.putPiece d p pa0 q) := by
  obtain ⟨-, bytes, outside, poison⟩ := State.mergeGranule_ok block ok
  have mem : ∀ x, (u.putPiece d p pa0 q).rdByte x = (u.mergeGranule q.1 q.2).2.rdByte x := fun x =>
    State.rdByte_of_same (Only.kept (Only.ite ((Only.refl _).makePoison (hp := Allow.but (by decide)) ..) (Only.refl _))) x
  have granule (x : Nat) : (u.putPiece d p pa0 q).poisoned x =
      if x / 64 = q.1 / 64 then bit (cmdA p) (q.1 / 64 - pa0 / 64) else u.poisoned x := by
    unfold State.putPiece
    split
    case isTrue set => rw [State.poisoned_makePoison, poison, set]; split <;> simp [*]
    case isFalse clear => rw [poison, Bool.eq_false_of_not_eq_true clear]; split <;> simp [*]
  refine ⟨fun i h => (mem _).trans (bytes i h), fun i h => ?_, fun x hx => (mem x).trans (outside x hx), fun x hx => ?_⟩
  · have same : (q.1 + i) / 64 = q.1 / 64 := by omega
    rw [granule, if_pos same, same]
  · rw [granule, if_neg (by omega)]

theorem bufferOf_block {a b : Nat} (h : a / 4096 = b / 4096) : bufferOf a = bufferOf b := by
  have off : (a % 2 ^ 44) / 4096 = (b % 2 ^ 44) / 4096 := by omega
  have high : a / 2 ^ 44 = b / 2 ^ 44 := by omega
  unfold bufferOf bit
  rw [high]
  dsimp only
  have range : decide (0x3000000 ≤ a % 2 ^ 44 ∧ a % 2 ^ 44 < 0x4000000) = decide (0x3000000 ≤ b % 2 ^ 44 ∧ b % 2 ^ 44 < 0x4000000) :=
    decide_eq_decide.mpr (by omega)
  rw [range]
  have eng : (a % 2 ^ 44 - 0x3000000) / 0x100000 = (b % 2 ^ 44 - 0x3000000) / 0x100000 := by omega
  rw [eng]

/-- A range written up to a granule's end, and then the rest of it. -/
theorem Written.append {A pa0 pa k : Nat} {x : List Byte} {u v w : State} (first : Written A pa0 pa (x.take k) u v)
    (len : (x.take k).length = min k x.length) (rest : (x.drop k).length = x.length - k) (hk : k = 64 - pa % 64)
    (second : Written A pa0 (pa + k) (x.drop k) v w) : Written A pa0 pa x u w := by
  refine ⟨fun i h => ?_, fun i h => ?_, fun a ha => ?_, fun a ha => ?_⟩
  · by_cases low : i < k
    · rw [second.outside _ (by unfold InRange; omega), first.bytes i (by omega), List.getElem_take]
    · have := second.bytes (i - k) (by omega)
      rw [List.getElem_drop] at this
      simpa only [Nat.add_assoc, Nat.add_sub_cancel' (Nat.not_lt.mp low)] using this
  · by_cases low : i < k
    · rw [second.other _ (.inl (by omega)), first.poison i (by omega)]
    · have := second.poison (i - k) (by omega)
      rwa [Nat.add_assoc, Nat.add_sub_cancel' (Nat.not_lt.mp low)] at this
  · rw [second.outside _ (by unfold InRange at ha ⊢; omega), first.outside _ (by unfold InRange at ha ⊢; omega)]
  · rw [second.other _ (by omega), first.other _ (by omega)]

theorem writeStep_fold {d : Die} {p : List Byte} {pa0 : Nat} : ∀ {n pa : Nat} {l : List Byte} {u : State},
    pa % 64 + l.length ≤ 64 * n → (∀ i, i < l.length → UnitUp u d (pa + i)) →
    (∀ i, i < l.length → u.poisoned (pa + i) = true → pa ≤ (pa + i) / 64 * 64 ∧ (pa + i) / 64 * 64 + 64 ≤ pa + l.length) →
    ∃ v, (cutAt 64 n pa l).foldl (writeStep d p pa0 [] []) ([], u) = ([], v) ∧ Written (cmdA p) pa0 pa l u v
  | 0, pa, l, u, room, _, _ => by
    have : l = [] := List.eq_nil_of_length_eq_zero (by omega)
    subst this
    exact ⟨u, rfl, Written.nil ..⟩
  | _ + 1, pa, [], u, _, _, _ => ⟨u, rfl, Written.nil ..⟩
  | n + 1, pa, b :: l, u, room, up, whole => by
    generalize hx : b :: l = x at room up whole
    have pos : 0 < x.length := by rw [← hx]; exact Nat.succ_pos _
    let k := 64 - pa % 64
    have hk : k = 64 - pa % 64 := rfl
    have len : (x.take k).length = min k x.length := List.length_take ..
    have rest : (x.drop k).length = x.length - k := List.length_drop ..
    have clean : (pa % 64 = 0 ∧ (x.take k).length = 64) ∨ u.poisoned pa = false := by
      cases poison : u.poisoned pa with
      | false => exact .inr rfl
      | true =>
        have := whole 0 pos poison
        exact .inl (by omega)
    have first := Written.putPiece (u := u) (q := (pa, x.take k)) d p pa0 (by dsimp only; omega) (by dsimp only; omega) clean
    have step : writeStep d p pa0 [] [] ([], u) (pa, x.take k) = ([], u.putPiece d p pa0 (pa, x.take k)) :=
      writeStep_ok (up 0 pos) (State.mergeGranule_ok (by omega) clean).1
    have cut : cutAt 64 (n + 1) pa x = (pa, x.take k) :: cutAt 64 n (pa + k) (x.drop k) := by rw [← hx]; rfl
    rw [cut, List.foldl_cons, step]
    generalize hv : u.putPiece d p pa0 (pa, x.take k) = v at first
    have frame := hv ▸ Only.putPiece (u := u) d p pa0 (pa, x.take k)
    obtain ⟨w, fold, written⟩ := writeStep_fold (n := n) (pa := pa + k) (l := x.drop k) (u := v) (by omega)
      (fun i hi => by
        have := up (k + i) (by omega)
        rw [← Nat.add_assoc] at this
        exact this.of_only frame)
      (fun i hi poison => by
        rw [first.other _ (.inr (by dsimp only; omega)), Nat.add_assoc] at poison
        have := whole (k + i) (by omega) poison
        omega)
    exact ⟨w, fold, first.append len rest hk written⟩

/-! ### The commands -/

theorem memOutside_bar2Write {c : Crown} {x : Nat} {bytes : List Byte} (h : exec (.bar2Write c x bytes) s = .next t) :
    match s.bar2In c x bytes.length true with
    | some pa => MemOutside s t (pa % 2 ^ 48) bytes.length
    | none => ∀ a, t.rdByte a = s.rdByte a := by
  replace h : execBar2Write c x bytes s = .next t := h
  unfold execBar2Write at h
  by_cases closed : (!s.hostOpen c || bytes == []) = true
  · rw [if_pos closed] at h
    obtain rfl := Host.Outcome.next.inj h
    split
    · exact fun _ _ => rfl
    · exact fun _ => rfl
  · rw [if_neg closed] at h
    cases hp : s.bar2In c x bytes.length true with
    | some pa =>
      rw [hp] at h
      obtain rfl := Host.Outcome.next.inj h
      refine ((StoresIn.refl _ s).post (.cr c) 0 true [] fun a ha here => ?_).outside
      obtain ⟨hl, hu⟩ := ha
      unfold InRange
      omega
    | none =>
      rw [hp] at h
      obtain rfl := Host.Outcome.next.inj h
      exact fun a => State.rdByte_of_same ((Only.refl s).hostOutside (hg0 := Allow.but (by decide))
        (hp := Allow.but (by decide)) ..).kept a

theorem does_write {d : Die} {cmd : List Byte} {data : List (List Byte)} {pa len : Nat} (die : s.hasDie d = true)
    (hpa : cmdTarget cmd % 2 ^ 48 = pa) (hlen : cmdLen cmd = len) (block : crosses pa len = false)
    (counter : counterOf pa = none) (length : (writeData pa len data).length = len)
    (up : ∀ m e, d = .mv m → bufferOf pa = some e → s.unitDown d (some e) = false)
    (whole : ∀ i, i < len → s.poisoned (pa + i) = true → pa ≤ (pa + i) / 64 * 64 ∧ (pa + i) / 64 * 64 + 64 ≤ pa + len) :
    Does (.write d cmd data [] []) s fun t => ∀ i, i < len →
      t.rdByte (pa + i) = (writeData pa len data).getD i 0 ∧ t.poisoned (pa + i) = bit (cmdA cmd) ((pa + i) / 64 - pa / 64) := by
  have counted := (Only.refl s).countAccepted d (originKey cmd) (Allow.outside (l := [.rcv, .ofReg .pwr Reg.PWR_DOM_STATE]) (by decide))
  obtain ⟨v, fold, written⟩ := writeStep_fold (d := d) (p := cmd) (pa0 := pa) (n := (writeData pa len data).length / 64 + 2) (pa := pa)
    (l := writeData pa len data) (u := s.countAccepted d (originKey cmd)) (by omega)
    (fun i hi => UnitUp.of_only (fun m e hd hb => up m e hd ((bufferOf_block (by
        have := of_decide_eq_false block
        omega)).trans hb)) counted)
    (fun i hi => by rw [length] at hi ⊢; exact whole i hi)
  refine .intro (t := v) ?_ fun i hi => ⟨?_, written.poison i (by omega)⟩
  · show execWrite d cmd data [] [] s = _
    unfold execWrite
    rw [if_pos die, State.takeWrite_eq s d cmd data [] [] (by rw [hpa, hlen, block]) (by rw [hpa, counter]), hpa, hlen, pieces, fold]
    rfl
  · rw [written.bytes i (by omega), List.getD_eq_getElem _ _ (by omega)]

/-- Settles O48, one lemma for each clause. -/
theorem messageWritesStore : Obligations.MessageWritesStore :=
  ⟨fun _ _ _ _ _ _ _ h => memOutside_write h, fun _ _ _ _ _ h => memOutside_bar2Write h,
    fun _ _ _ _ _ _ die hpa hlen block counter length up whole => does_write die hpa hlen block counter length up whole⟩

end Sys2Proof.Machine
end

section
/-! The units' own stores stay in their areas: package memory of the Crown dies, the die controllers and the flash pass, and the
regions of the FRAM (R264, R324, R339 to R347, R383, R398). -/

namespace Sys2Proof.Machine

variable {s t z : State} {P : Nat → Prop}

/-- What a command's one outcome holds. -/
theorem Does.elim {c : Instr} {Q : State → Prop} (h : Does c s Q) (e : exec c s = .next t) : Q t := by
  obtain ⟨u, hu, q⟩ := h
  exact Host.Outcome.next.inj (hu.symm.trans e) ▸ q

theorem MemOutside.refl {a n : Nat} : MemOutside s s a n := fun _ _ => rfl

/-! ### Areas in package memory -/

theorem length_framBytes (f : List Host.Cell) : ∀ n a, (framBytes f a n).length = n
  | 0, _ => rfl
  | n + 1, a => congrArg (· + 1) (length_framBytes f n (a + 1))

theorem exec_ledgerOutputCopy_none (out : s.ldg.out = none) : exec .ledgerOutputCopy s = .next s := by
  show execLedgerOutputCopy s = _
  rw [execLedgerOutputCopy, out]

theorem memOutside_ledgerOutputCopy {seq blocks : Nat} (out : s.ldg.out = some (seq, blocks)) :
    Does .ledgerOutputCopy s fun t => MemOutside s t (chipPa cr0 (64 * s.getF cr0 .ldg 0 Reg.LDG_OUT_AREA_AREA)) (128 * (blocks + 1)) := by
  unfold Does
  show ∃ t, execLedgerOutputCopy s = .next t ∧ _
  rw [execLedgerOutputCopy, out]
  refine ⟨_, rfl, (StoresIn.localWrite ⟨fun _ _ => rfl⟩ cr0 false fun x hx => ?_).outside⟩
  rwa [length_framBytes] at hx

/-- Pieces of one length, one after the other. -/
theorem length_flatten_map {α : Type} {f : α → List Byte} {n : Nat} (hf : ∀ x, (f x).length = n) (l : List α) :
    (l.map f).flatten.length = n * l.length := by
  rw [List.length_flatten, List.map_map, show List.length ∘ f = fun _ => n from funext hf, List.map_const', List.sum_replicate,
    smul_eq_mul, Nat.mul_comm]

theorem Track.length_bytes (x : Track) : x.bytes.length = 64 := by
  have words (l : List Nat) (n : Nat) : ((List.range n).map fun i => leBytes 4 (l.getD i 0)).flatten.length = 4 * n :=
    (length_flatten_map (fun _ => length_leBytes ..) _).trans (by rw [List.length_range])
  simp only [Track.bytes, List.length_append, List.length_cons, List.length_nil, length_leBytes, words]

theorem memOutside_trackTablePublish (c : Crown) :
    Does (.trackTablePublish c) s fun t => MemOutside s t (s.trackPa c (1 - (s.fusion c).half)) 16384 := by
  unfold Does
  show ∃ t, execTrackTablePublish c s = .next t ∧ _
  unfold execTrackTablePublish
  dsimp only
  split
  · exact ⟨_, rfl, .refl⟩
  · split
    · exact ⟨_, rfl, .refl⟩
    · refine ⟨_, rfl, (StoresIn.localWrite ((StoresIn.refl _ s).keeps ((Only.refl s).setFusion (hp := Allow.but (by decide)) ..))
        (.cr c) false fun x hx => ?_).outside⟩
      rwa [length_flatten_map (n := 64) fun j => Track.length_bytes _, List.length_range] at hx

theorem StoresIn.correct (h : StoresIn P z s) (c : Crown) {r : Nat} (y : Snap)
    (hP : ∀ x, InRange (gPa c r + 64) (gAreaBytes r - 64) x → P x) : StoresIn P z (s.correct c r y) := by
  have area : gAreaBytes r = gFlagOff r + up64 (gPhCount r + gScCount r) := rfl
  have flags : gFlagOff r = gScOff r + up64 (4 * gScCount r) := rfl
  have scalars : gScOff r = 64 + up64 (8 * gPhCount r) := rfl
  have up (n : Nat) : n ≤ up64 n := by unfold up64 ceilDiv; omega
  have u1 := up (8 * gPhCount r)
  have u2 := up (4 * gScCount r)
  have u3 := up (gPhCount r + gScCount r)
  have phs : (gPhasors r).length = gPhCount r := by rw [gPhasors, List.length_map, List.length_range]
  have scs : (gScalars r).length = gScCount r := by rw [gScalars, List.length_map, List.length_range]
  refine ((h.localWrite (.cr c) false fun x hx => hP x ?_).localWrite (.cr c) false fun x hx => hP x ?_).localWrite (.cr c) false
    fun x hx => hP x ?_
  · rw [length_flatten_map (n := 8) fun ch => by split <;> simp only [List.length_append, length_leBytes], phs] at hx
    unfold InRange at hx ⊢
    omega
  · rw [length_flatten_map (n := 4) fun ch => length_leBytes .., scs] at hx
    unfold InRange at hx ⊢
    omega
  · rw [List.length_append, List.length_map, List.length_map, phs, scs] at hx
    unfold InRange at hx ⊢
    omega

theorem memOutside_snapshotSelect (c : Crown) (g : Fin 16) :
    Does (.snapshotSelect c g) s fun t => MemOutside s t (gPa c (s.grpRec c g) + 64) (gAreaBytes (s.grpRec c g) - 64) := by
  unfold Does
  show ∃ t, execSnapshotSelect c g s = .next t ∧ _
  unfold execSnapshotSelect
  dsimp only
  split
  · exact ⟨_, rfl, .refl⟩
  · split
    · split
      · exact ⟨_, rfl, (StoresIn.refl _ s).keeps ((Only.refl s).setGrp (hp := Allow.but (by decide)) ..) |>.outside⟩
      · exact ⟨_, rfl, .refl⟩
    · refine ⟨_, rfl, StoresIn.outside (StoresIn.correct ((StoresIn.refl _ s).keeps ?_) c _ fun _ hx => hx)⟩
      exact ((Only.foldl _ (fun _ _ g => Only.foldl _ (fun _ _ g => g.mapCount (hp := Allow.but (by decide)) ..) g)
        ((Only.refl s).setGrp (hp := Allow.but (by decide)) ..)).addF (hp := Allow.but (by decide)) ..).setF
        (hp := Allow.but (by decide)) ..

theorem memOutside_snapshotRelease (c : Crown) (g : Fin 16) :
    Does (.snapshotRelease c g) s fun t => MemOutside s t (gPa c (s.grpRec c g)) 64 := by
  unfold Does
  show ∃ t, execSnapshotRelease c g s = .next t ∧ _
  unfold execSnapshotRelease
  dsimp only
  split
  · exact ⟨_, rfl, .refl⟩
  · split
    · exact ⟨_, rfl, .refl⟩
    · have head {x : GrpSt} {l : List Byte} (hl : l.length = 64) : StoresIn (InRange (gPa c (s.grpRec c g)) 64) s
          ((s.setGrp c g x).localWrite (.cr c) (gPa c (s.grpRec c g)) l false) :=
        ((StoresIn.refl _ s).keeps ((Only.refl s).setGrp (hp := Allow.but (by decide)) ..)).localWrite _ _ fun _ hx => hl ▸ hx
      have counted {u : State} {n : Nat} {rep : Bool} : Only (Field.but .mem) u
          (if rep then (u.setF (.cr c) .fus 0 Reg.FUS_GRP_MISSING_MISSING n (0x10 * g)).bumpF (.cr c) .fus 0 Reg.FUS_GRP_SKIP_REPEAT (0x10 * g)
          else u.setF (.cr c) .fus 0 Reg.FUS_GRP_MISSING_MISSING n (0x10 * g)) :=
        Only.ite (((Only.refl _).setF (hp := Allow.but (by decide)) ..).bumpF (hp := Allow.but (by decide)) ..)
          ((Only.refl _).setF (hp := Allow.but (by decide)) ..)
      split
      · exact ⟨_, rfl, ((head (by
          simp only [List.length_append, length_leBytes, List.length_cons, List.length_nil, List.length_replicate])).keeps counted).outside⟩
      · exact ⟨_, rfl, ((head (by
          simp only [List.length_append, length_leBytes, List.length_cons, List.length_nil, List.length_replicate])).keeps
          (counted.log (hg0 := Allow.but (by decide)) (hp := Allow.but (by decide)) ..)).outside⟩

theorem stores_faultGranuleWrite (m : Mv) : Does (.faultGranuleWrite m) s fun t => ∀ a, t.rdByte a ≠ s.rdByte a →
    ∃ i pa, s.boot.image = some i ∧ (m, pa) ∈ i.faultAt ∧ (pa ≤ a ∧ a < pa + 4 ∨ pa + 8 ≤ a ∧ a < pa + 16) := by
  cases image : s.boot.image with
  | none => 
    refine .intro (t := s) ?_ fun a ne => absurd rfl ne
    show execFaultGranuleWrite m s = _
    simp only [execFaultGranuleWrite, image]
  | some i =>
    cases place : i.faultAt.find? fun p => p.1 == m with
    | none => 
      refine .intro (t := s) ?_ fun a ne => absurd rfl ne
      show execFaultGranuleWrite m s = _
      simp only [execFaultGranuleWrite, image, place, Option.map_none]
    | some p =>
      by_cases runs : (s.atFrame (.mv m) && s.ctlRuns m) = true
      · refine .intro (t := (s.wrBytes p.2 (leBytes 4 (Nat.lor (s.die (.mv m)).faulted (s.die (.mv m)).combined))).wrBytes (p.2 + 8)
          (leBytes 8 (s.die (.mv m)).faultBeat)) ?_ fun a ne => ⟨i, p.2, rfl, ?_, ?_⟩
        · show execFaultGranuleWrite m s = _
          simp only [execFaultGranuleWrite, image, place, Option.map_some, runs, if_true]
        · have := List.mem_of_find?_eq_some place
          rwa [← beq_iff_eq.mp (List.find?_some (p := fun p : Mv × Nat => p.1 == m) place)]
        · by_contra out
          refine ne (((((StoresIn.refl _ s).wrBytes fun _ hx => .inl hx).wrBytes fun _ hx => .inr hx : StoresIn
            (fun x => InRange p.2 4 x ∨ InRange (p.2 + 8) 8 x) s _)).same a ?_)
          unfold InRange
          omega
      · refine .intro (t := s) ?_ fun a ne => absurd rfl ne
        show execFaultGranuleWrite m s = _
        simp only [execFaultGranuleWrite, image, place, Option.map_some, runs, if_false, Bool.false_eq_true]

theorem State.stagingPa_of_same (h : Field.same (.ofReg .cfg Reg.CFG_VARIANT) s t) : t.stagingPa = s.stagingPa := by
  unfold State.stagingPa State.recBase State.hbmBytes State.h8
  rw [Field.getF_of_same h]

theorem memOutside_flashPassResume (image : List Byte) :
    Does (.flashPassResume image) s fun t => MemOutside s t s.stagingPa (hdrLen + oLen image) := by
  unfold Does
  show ∃ t, execFlashPassResume image s = .next t ∧ _
  unfold execFlashPassResume
  dsimp only
  split
  · exact ⟨_, rfl, .refl⟩
  · generalize hu : (s.setF cr0 .boot 0 Reg.BOOT_STATUS_FLASH_DONE 1).crowns.foldl (fun (t : State) c => t.applyFlDrv c)
      (s.setF cr0 .boot 0 Reg.BOOT_STATUS_FLASH_DONE 1) = u
    have done : Only (Field.outside [.mem, .ofReg .cfg Reg.CFG_VARIANT]) s u := hu ▸
      Only.foldl _ (fun _ _ g => g.applyFlDrv (hp := Allow.outside (by decide)) ..) ((Only.refl s).setF (hp := Allow.outside (by decide)) ..)
    have staged : StoresIn (InRange s.stagingPa (hdrLen + oLen image)) s (if (oMagic image == 0x54534F31 && oType image == 3) = true
        then u.wrBytes u.stagingPa (image.take (hdrLen + oLen image)) else u) := by
      have base : StoresIn (InRange s.stagingPa (hdrLen + oLen image)) s u :=
        ⟨fun a _ => State.rdByte_of_same (done.keeps (x := .mem) (by decide)) a⟩
      refine StoresIn.ite (base.wrBytes fun x hx => ?_) base
      rw [State.stagingPa_of_same (done.keeps (by decide))] at hx
      exact ⟨hx.1, hx.2.trans_le (Nat.add_le_add_left (List.length_take_le ..) _)⟩
    split
    · exact ⟨_, rfl, (staged.keeps (((Only.refl _).logFault (hg0 := Allow.but (by decide)) (hp := Allow.but (by decide)) ..).bootAdvance
        (hp := Allow.but (by decide)))).outside⟩
    · refine ⟨_, rfl, (StoresIn.keeps ⟨?_⟩ ((Only.refl _).bootAdvance (hp := Allow.but (by decide)))).outside⟩
      exact staged.same

/-! ### Regions of the FRAM -/

/-- Only FRAM bytes at addresses of `P` read otherwise. -/
structure FramIn (P : Nat → Prop) (z s : State) : Prop where
  same : ∀ a, ¬P a → Tab.get memDefault s.fram a = Tab.get memDefault z.fram a

theorem FramIn.refl (P : Nat → Prop) (s : State) : FramIn P s s := ⟨fun _ _ => rfl⟩

theorem FramIn.keeps (h : FramIn P z s) (g : Only (Field.but .fram) s t) : FramIn P z t :=
  ⟨fun a ha => (congrArg (Tab.get memDefault · a) (show t.fram = s.fram from g.kept)).trans (h.same a ha)⟩

theorem FramIn.setLdg (h : FramIn P z s) (x : LdgSt) : FramIn P z { s with ldg := x } := ⟨h.same⟩

/-- A record written to the FRAM, with its bytes or with others in their place. -/
theorem FramIn.framPut (h : FramIn P z s) {a : Nat} {l : List Byte} (bad : Option (List Byte)) (hl : l.length = 128)
    (hP : ∀ x, InRange a 128 x → P x) : FramIn P z (s.framPut a l bad) := by
  have put {v : List Byte} (hv : v.length ≤ 128) : FramIn P z { s with fram := memPut s.fram a v } :=
    ⟨fun x hx => (memPut_get_ne (by
      by_contra c
      exact hx (hP x ⟨by omega, by omega⟩))).trans (h.same x hx)⟩
  unfold State.framPut
  split
  · exact put (Nat.le_of_eq hl)
  · split
    · exact (put (List.length_take_le ..)).keeps ((((Only.refl _).log (hg0 := Allow.but (by decide)) (hp := Allow.but (by decide)) ..).bumpF
        (hp := Allow.but (by decide)) ..).setF (hp := Allow.but (by decide)) ..)
    · exact put (List.length_take_le ..)

theorem length_record128 (l : List Byte) : (record128 l).length = 128 := by
  rw [record128, List.length_append, length_leBytes, List.length_take, List.length_append, List.length_replicate]
  omega

theorem FramIn.foldl {f : State → Nat → State} (h : FramIn P z s) (l : List Nat)
    (hf : ∀ k ∈ l, ∀ u, FramIn P z u → FramIn P z (f u k)) : FramIn P z (l.foldl f s) :=
  List.foldlRecOn l f h fun u hu k hk => hf k hk u hu

theorem fram_tableImageWrite (bad : List (Nat × List Byte)) : Does (.tableImageWrite bad) s fun t =>
    ∀ a, a < tabAddr ((s.ldg.tseq + 1) % 2) 0 ∨ tabAddr ((s.ldg.tseq + 1) % 2) 259 ≤ a →
      Tab.get memDefault t.fram a = Tab.get memDefault s.fram a := by
  unfold Does
  show ∃ t, execTableImageWrite bad s = .next t ∧ _
  unfold execTableImageWrite
  dsimp only
  split
  · exact ⟨_, rfl, fun _ _ => rfl⟩
  · refine ⟨_, rfl, fun a ha => (FramIn.same (P := InRange (tabAddr ((s.ldg.tseq + 1) % 2) 0) (128 * 259))
      (FramIn.foldl (.refl _ s) _ fun k hk u hu => hu.framPut (badOf bad k) (length_record128 _) fun x hx => ?_) a ?_)⟩
    · have := List.mem_range.mp hk
      unfold InRange tabAddr at *
      omega
    · unfold InRange tabAddr at *
      omega

/-- A commit that starts writes the blocks of the next interval's region, and is the one in progress. -/
theorem fram_startCommit (h : Tab.get memDefault s.fram = Tab.get memDefault z.fram) (seq : s.ldg.seq = z.ldg.seq)
    (bad : List (Nat × List Byte)) (a : Nat) (ha : a < intAddr ((z.ldg.seq + 1) % 2) 1 ∨
      ∃ r, (s.startCommit bad).ldg.busy = some r ∧ intAddr ((z.ldg.seq + 1) % 2) (blocksOf r.count + 1) ≤ a) :
    Tab.get memDefault (s.startCommit bad).fram a = Tab.get memDefault z.fram a := by
  unfold State.startCommit at ha ⊢
  cases wait : s.ldg.wait with
  | nil => rw [← h]
  | cons c rest =>
    rw [wait] at ha
    refine FramIn.same (P := InRange (intAddr ((z.ldg.seq + 1) % 2) 1) (128 * blocksOf c.count)) (FramIn.foldl ⟨fun a _ => by rw [h]⟩ _
      fun j hj u hu => hu.framPut _ (length_record128 _) fun x hx => ?_) a ?_
    · rw [seq] at hx
      have := List.mem_range.mp hj
      unfold InRange intAddr at *
      omega
    · obtain low | ⟨r, busy, high⟩ := ha
      · unfold InRange
        omega
      · obtain rfl : c = r := Option.some.inj busy
        unfold InRange intAddr at *
        omega

theorem State.ldg_seq_ldgSum (s : State) (m : Nat × Nat × Nat) (a b : Nat) : (s.ldgSum m a b).ldg.seq = s.ldg.seq := by
  unfold State.ldgSum
  split <;> rfl

theorem State.ldg_seq_ldgSettle (s : State) (b : Nat) : (s.ldgSettle b).ldg.seq = s.ldg.seq :=
  (State.ldg_seq_ldgSum ..).trans (List.foldlRecOn s.ldg.maps (fun t p => t.ldgSum p.2 t.ldg.upTo (min p.1 b))
    (motive := fun u : State => u.ldg.seq = s.ldg.seq) rfl fun _ hu _ _ => (State.ldg_seq_ldgSum ..).trans hu)

theorem State.ldg_seq_closeAt (s : State) (b flags switched : Nat) : (s.closeAt b flags switched).ldg.seq = s.ldg.seq :=
  s.ldg_seq_ldgSettle b

theorem fram_intervalCommit (bad : List (Nat × List Byte)) : Does (.intervalCommit bad) s fun t =>
    ∀ a, a < intAddr ((s.ldg.seq + 1) % 2) 1 ∨
      (∃ r, t.ldg.busy = some r ∧ intAddr ((s.ldg.seq + 1) % 2) (blocksOf r.count + 1) ≤ a) →
      Tab.get memDefault t.fram a = Tab.get memDefault s.fram a := by
  unfold Does
  show ∃ t, execIntervalCommit bad s = .next t ∧ _
  unfold execIntervalCommit
  dsimp only
  split
  · exact ⟨_, rfl, fun _ _ => rfl⟩
  · split
    · exact ⟨_, rfl, fram_startCommit rfl rfl bad⟩
    · split
      · exact ⟨_, rfl, fun _ _ => rfl⟩
      · split
        · have seq := s.ldg_seq_closeAt (s.ldg.pfAt - 1) 8 0
          have fram : (s.closeAt (s.ldg.pfAt - 1) 8 0).fram = s.fram :=
            ((Only.refl s).closeAt (pt := Field.but .fram) (s.ldg.pfAt - 1) 8 0 (Allow.but (by decide))).kept
          generalize s.closeAt (s.ldg.pfAt - 1) 8 0 = u at seq fram
          exact ⟨_, rfl, fram_startCommit (s := { u with ldg := { u.ldg with pfPart := true } }) (congrArg _ fram) seq bad⟩
        · exact ⟨_, rfl, fun a _ => ((FramIn.refl (fun _ => False) s).keeps ((Only.refl s).setLdgState
            (hp := Allow.but (by decide)) ..)).same a id⟩

theorem fram_intervalCommitDone (bad : Option (List Byte)) : Does (.intervalCommitDone bad) s fun t =>
    ∀ a, a < intAddr (s.ldg.seq % 2) 0 ∨ intAddr (s.ldg.seq % 2) 1 ≤ a →
      Tab.get memDefault t.fram a = Tab.get memDefault s.fram a := by
  unfold Does
  show ∃ t, execIntervalCommitDone bad s = .next t ∧ _
  unfold execIntervalCommitDone
  dsimp only
  split
  · exact ⟨_, rfl, fun _ _ => rfl⟩
  · split
    · exact ⟨_, rfl, fun _ _ => rfl⟩
    · have put {c : Closing} {x : LdgSt} {n : Nat} : FramIn (InRange (intAddr (s.ldg.seq % 2) 0) 128) s
          (State.setF { s.framPut (intAddr (s.ldg.seq % 2) 0) (controlRec c s.ldg.seq) bad with ldg := x } cr0 .ldg 0 Reg.LDG_SEQ n) :=
        (((FramIn.refl _ s).framPut bad (length_record128 _) fun _ hx => hx).setLdg x).keeps ((Only.refl _).setF (hp := Allow.but (by decide)) ..)
      refine ⟨_, rfl, fun a ha => FramIn.same (P := InRange (intAddr (s.ldg.seq % 2) 0) 128) ?_ a ?_⟩
      · split
        · exact put.keeps ((Only.refl _).log (hg0 := Allow.but (by decide)) (hp := Allow.but (by decide)) ..)
        · exact put
      · unfold InRange intAddr at *
        omega

/-- Settles O49, one lemma for each clause. -/
theorem unitStoresStayInTheirAreas : Obligations.UnitStoresStayInTheirAreas := by
  unfold Obligations.UnitStoresStayInTheirAreas
  refine ⟨fun s t h => ?_, fun c _ _ => (memOutside_trackTablePublish c).elim, fun c g _ _ => (memOutside_snapshotSelect c g).elim,
    fun c g _ _ => (memOutside_snapshotRelease c g).elim, fun m _ _ => (stores_faultGranuleWrite m).elim,
    fun image _ _ => (memOutside_flashPassResume image).elim, fun bad _ _ => (fram_tableImageWrite bad).elim,
    fun bad _ _ => (fram_intervalCommit bad).elim, fun bad _ _ => (fram_intervalCommitDone bad).elim⟩
  split
  case h_1 out => exact (memOutside_ledgerOutputCopy out).elim h
  case h_2 out => exact Host.Outcome.next.inj ((exec_ledgerOutputCopy_none out).symm.trans h) ▸ fun _ => rfl

end Sys2Proof.Machine
end

section
/-! Data that arrives lands in the range of what asked for it (R231 to R238, R250 to R262, R269 to R272, R302). -/

namespace Sys2Proof.Machine

variable {s t z : State} {P : Nat → Prop}

/-! ### SUPPORT: resends awaited -/

/-- Every link end awaits the same resends. -/
structure SameWait (z s : State) : Prop where
  same : ∀ e, (s.link e).wait = (z.link e).wait

namespace SameWait

theorem refl (s : State) : SameWait s s := ⟨fun _ => rfl⟩

theorem of_links (h : SameWait z s) (e : t.links = s.links) : SameWait z t :=
  ⟨fun f => (congrArg LinkSt.wait (State.link_of_same e f)).trans (h.same f)⟩

theorem keeps (h : SameWait z s) (g : Only (Field.but .links) s t) : SameWait z t := h.of_links g.kept

theorem setLink (h : SameWait z s) {e : LinkEnd} {l : LinkSt} (hl : l.wait = (z.link e).wait) : SameWait z (s.setLink e l) :=
  ⟨fun f => by
    by_cases k : f = e
    · subst k; rwa [State.link_setLink_same]
    · rw [State.link_setLink_ne _ _ k, h.same]⟩

theorem ite {p : Prop} [Decidable p] {a b : State} (h : SameWait z a) (g : SameWait z b) : SameWait z (if p then a else b) := by
  split
  · exact h
  · exact g

theorem foldl {α : Type} {f : State → α → State} (h : SameWait z s) (l : List α) (hf : ∀ u a, SameWait z u → SameWait z (f u a)) :
    SameWait z (l.foldl f s) :=
  List.foldlRecOn l f h fun u hu a _ => hf u a hu

variable (h : SameWait z s)
include h

theorem setF (d : Die) (b : Blk) (i : Nat) (f : Fld) (v k : Nat) : SameWait z (s.setF d b i f v k) := h.of_links (t := s.setF d b i f v k) rfl

theorem bumpF (d : Die) (b : Blk) (i : Nat) (f : Fld) (k : Nat) : SameWait z (s.bumpF d b i f k) := h.of_links (t := s.bumpF d b i f k) rfl

theorem setBun (e : LinkEnd) (b : Nat) (x : BundleSt) : SameWait z (s.setBun e b x) := h.setLink (h.same e)

theorem sbSend (e : LinkEnd) (mtype body aux copies : Nat) : SameWait z (s.sbSend e mtype body aux copies) := by
  unfold State.sbSend
  dsimp only
  split <;> exact h.setLink (h.same e)

theorem toSt (e : LinkEnd) (st : Nat) : SameWait z (s.toSt e st) := by
  have since : SameWait z ((s.setLf e Reg.IKL_LL_STATUS_STATE Reg.TRYP_LL_STATUS_STATE st).setLink e { s.link e with since := s.time }) :=
    (h.setF ..).setLink (h.same e)
  exact (SameWait.ite since ((since.setF ..).setF ..)).of_links (State.raise_links ..)

theorem logLink (e : LinkEnd) (rc : Nat) (detail : List Byte) (ctx : Nat) : SameWait z (s.logLink e rc detail ctx) :=
  h.keeps ((Only.refl _).logLink (hg0 := Allow.but (by decide)) (hp := Allow.but (by decide)) ..)

theorem sendNotice (es : List LinkEnd) (p : List Byte) (fwd : Bool) : SameWait z (s.sendNotice es p fwd) :=
  h.foldl es fun _ e g => g.setLink (g.same e)

theorem addLoss (d : Die) (key b decl eff : Nat) : SameWait z (s.addLoss d key b decl eff) :=
  h.keeps ((Only.refl _).addLoss (hp := Allow.but (by decide)) ..)

theorem declareLoss (e : LinkEnd) (b rc : Nat) : SameWait z (s.declareLoss e b rc) := (h.addLoss ..).sendNotice ..

theorem declareTrayLoss (n : Fin 8) (rc : Nat) : SameWait z (s.declareTrayLoss n rc) :=
  ((h.of_links (s.setDie_links ..)).addLoss ..).sendNotice ..

theorem quiesce (e : LinkEnd) (leaving : List Nat) : SameWait z (s.quiesce e leaving) := by
  refine SameWait.ite (SameWait.foldl ?_ _ fun _ _ g => g.setBun ..) h
  exact (h.setF ..).setLink (h.same e)

theorem degrade (e : LinkEnd) : SameWait z (s.degrade e) :=
  SameWait.ite (SameWait.ite (h.toSt ..) h) (SameWait.ite (h.toSt ..) h)

theorem setRetired (e : LinkEnd) (b : Nat) (v : Bool) : SameWait z (s.setRetired e b v) :=
  h.keeps ((Only.refl _).setRetired (hg0 := Allow.but (by decide)) ..)

theorem setTxMap (e : LinkEnd) (b : Nat) (m : LaneMap) : SameWait z (s.setTxMap e b m) :=
  h.keeps ((Only.refl _).setTxMap (hg0 := Allow.but (by decide)) ..)

theorem setRxMap (e : LinkEnd) (b : Nat) (m : LaneMap) : SameWait z (s.setRxMap e b m) :=
  h.keeps ((Only.refl _).setRxMap (hp := Allow.but (by decide)) ..)

theorem markRetired (e : LinkEnd) (b : Nat) : SameWait z (s.markRetired e b) :=
  (((h.setRetired e b true).setBun e b _).setTxMap e b _).degrade e

theorem retireBundle (e : LinkEnd) (b rc : Nat) (keep : Bool) : SameWait z (s.retireBundle e b rc keep) := by
  refine SameWait.ite h ?_
  cases e with
  | tray n =>
    have stopped := ((h.logLink (.tray n) rc [] 0xFF).setRetired (.tray n) 0 true).toSt (.tray n) stRetired
    have down : SameWait z _ := stopped.setLink (e := .tray n) (l := { ((s.logLink (.tray n) rc).toSt (.tray n) stRetired).link (.tray n) with
      down := s.frame (leDie (.tray n)) + 2 }) (((h.logLink (.tray n) rc [] 0xFF).toSt ..).same _)
    exact SameWait.ite (down.declareTrayLoss ..) down
  | ikl i j =>
    have told := (h.logLink (.ikl i j) rc [] 0xFF).declareLoss (.ikl i j) b rc
    have dying {x : BundleSt} := ((told.sbSend (.ikl i j) 0x12 (b % 16 * 2 ^ 14 + rc % 65536 * 2 ^ 18) 0 1).quiesce (.ikl i j) [b]).setBun
      (.ikl i j) b x
    exact SameWait.ite (SameWait.ite (dying.toSt ..) dying) (told.markRetired ..)

theorem repairLane (e : LinkEnd) (b lane eff : Nat) : SameWait z (s.repairLane e b lane eff) := by
  unfold State.repairLane
  dsimp only
  split
  · exact ((h.logLink ..).setBun ..).sbSend ..
  · exact SameWait.ite ((h.setBun ..).retireBundle ..) (((h.setBun ..).retireBundle ..).setRxMap ..)

theorem failLane (e : LinkEnd) (b c : Nat) : SameWait z (s.failLane e b c) := by
  unfold State.failLane
  dsimp only
  refine SameWait.ite h (SameWait.ite ?_ (SameWait.ite h ?_))
  · split
    · exact h
    · exact SameWait.ite h (h.repairLane ..)
  · split
    · exact SameWait.ite (h.setRxMap ..) ((h.setRxMap ..).repairLane ..)
    · exact (((h.setRxMap ..).logLink ..).setBun ..).foldl _ fun _ _ g => g.repairLane ..

theorem countLane (e : LinkEnd) (b c n : Nat) : SameWait z (s.countLane e b c n) := by
  have added : SameWait z (s.addWin e b c n) := h.keeps ((Only.refl _).addWin (hp := Allow.but (by decide)) ..)
  exact SameWait.ite (added.failLane ..) added

theorem goodFlit (e : LinkEnd) (b : Nat) (bad : List Nat) : SameWait z (s.goodFlit e b bad) := by
  have reset := h.setBun e b { s.bun e b with uncorr := 0, loc := 0 }
  unfold State.goodFlit State.countCorrected
  exact SameWait.ite (SameWait.ite (reset.failLane ..) reset)
    (SameWait.foldl (SameWait.bumpF (SameWait.ite (reset.failLane ..) reset) ..) _ fun _ _ g => g.countLane ..)

theorem badFlit (e : LinkEnd) (b : Nat) : SameWait z (s.badFlit e b) := by
  have counted := h.bumpF (leDie e) .ikl (leInst e) Reg.IKL_LINK_ERR_UNCORR 0
  exact SameWait.ite counted (SameWait.ite (counted.setBun ..) (SameWait.ite ((counted.setBun ..).bumpF ..) (counted.setBun ..)))

theorem takeCw (e : LinkEnd) (frame : Nat) (lanes : List Nat) (n j : Nat) : SameWait z (s.takeCw e frame lanes n j).2 := by
  unfold State.takeCw
  dsimp only
  generalize rsTray.decode _ [] = r
  generalize (if (s.link e).cwFrame == frame + 1 then (s.link e).cwSeen else []) = seen
  have noted : SameWait z (s.setLink e { s.link e with cwFrame := frame + 1, cwSeen := j :: seen }) := h.setLink (h.same e)
  split
  · exact h
  · cases r with
    | none => exact noted.bumpF ..
    | some p => exact SameWait.foldl (SameWait.ite noted (noted.bumpF ..)) _ fun _ _ g => g.countLane ..

theorem takeField (e : LinkEnd) (frame pos len : Nat) (lanes : List Nat) : SameWait z (s.takeField e frame pos len lanes).2 := by
  unfold State.takeField
  dsimp only
  split
  · exact h.takeCw ..
  · split <;> exact (h.takeCw ..).takeCw ..

theorem decodeFlit (e : LinkEnd) (b slot frame : Nat) (lanes : List Nat) : SameWait z (s.decodeFlit e b slot frame lanes).2 := by
  unfold State.decodeFlit
  split
  · have taken := h.takeField e frame (trayFlitPos slot) 528 lanes
    split
    case h_1 hr => rwa [hr] at taken
    case h_2 hr =>
      rw [hr] at taken
      exact SameWait.ite (taken.bumpF ..) taken
  · split
    · exact h.badFlit ..
    · exact h.goodFlit ..

end SameWait

end Sys2Proof.Machine
end

section
/-! Data that arrives lands in the range of what asked for it (R231 to R238, R250 to R262, R269 to R272, R302). -/

namespace Sys2Proof.Machine

variable {s t z : State} {P : Nat → Prop}

/-! ### What a delivery may store -/

/-- `n` bytes to a target land within `P`. -/
structure Lands (P : Nat → Prop) (a n : Nat) : Prop where
  room : a % 2 ^ 48 + n ≤ 2 ^ 48
  inside : ∀ x, InRange (a % 2 ^ 48) n x → P x

theorem Lands.of_room {a n : Nat} (room : a % 2 ^ 45 + n ≤ 2 ^ 45) : Lands (InRange (a % 2 ^ 48) n) a n := ⟨by omega, fun _ hx => hx⟩

theorem StoresIn.mono {Q : Nat → Prop} (h : StoresIn P z s) (sub : ∀ x, P x → Q x) : StoresIn Q z s :=
  ⟨fun a ha => h.same a fun p => ha (sub a p)⟩

theorem StoresIn.putLocal (h : StoresIn P z s) (d : Die) {pa : Nat} {l : List Byte} (poison : Bool)
    (hP : ∀ x, InRange pa l.length x → P x) : StoresIn P z (s.putLocal d pa l poison) := by
  unfold State.putLocal
  split
  · exact StoresIn.ite (h.keeps ((Only.refl _).signal (hp := Allow.but (by decide)) ..)) h
  · exact h.localWrite d poison hP

theorem StoresIn.deliverMem (h : StoresIn P z s) (d : Die) (ctx src : Nat) {a : Nat} {l : List Byte} (bad : Nat → Bool)
    (lands : Lands P a l.length) : StoresIn P z (s.deliver d ctx src (.mem a) l bad) := by
  have room := lands.room
  refine StoresIn.ite (h.foldl _ fun q hq u hu => hu.putLocal d _ fun x hx => lands.inside x ?_)
    (h.post d ctx false _ fun x hx _ => lands.inside _ ?_)
  · obtain ⟨above, below, -, -⟩ := mem_pieces (by decide) hq
    unfold InRange at hx ⊢
    omega
  · unfold InRange at hx ⊢
    omega

theorem StoresIn.deliver (h : StoresIn P z s) (d : Die) (ctx src : Nat) {dst : MoveEnd} {l : List Byte} (bad : Nat → Bool)
    (lands : ∀ a, dst = .mem a → Lands P a l.length) : StoresIn P z (s.deliver d ctx src dst l bad) := by
  cases dst with
  | mem a => exact h.deliverMem d ctx src bad (lands a rfl)
  | host c a => exact h.keeps ((Only.refl _).toHost (hp := Allow.but (by decide)) ..)

/-! ### Fences -/

theorem StoresIn.fenceDone (h : StoresIn P z s) (d : Die) (ctx : Nat) {host : Bool} {f : FenceSt}
    (lands : host = false → Lands P f.result 8) : StoresIn P z (s.fenceDone d ctx host f) := by
  have dropped (o : Nat) : StoresIn P z (s.setFence o none) := h.keeps ((Only.refl _).setFence (hp := Allow.but (by decide)) ..)
  cases host with
  | true =>
    cases d with
    | mv m => exact dropped _
    | cr c => exact (dropped _).keeps ((Only.refl _).hostReadGo (hg0 := Allow.but (by decide)) (hg1 := Allow.but (by decide))
        (hp := Allow.but (by decide)) ..)
  | false =>
    have room := lands rfl
    have put : StoresIn P z (if f.result / 2 ^ 45 == s.pkgId * 8 + dieCode d then
          s.localWrite d (f.result % 2 ^ 48) (leBytes 4 f.grown ++ leBytes 4 f.count) false
        else s.post d ctx false f.result (leBytes 4 f.grown ++ leBytes 4 f.count)) := by
      refine StoresIn.ite (h.localWrite d false fun x hx => room.inside x hx) (h.post d ctx false _ fun x hx _ => room.inside _ ?_)
      have := room.room
      rw [List.length_append, length_leBytes, length_leBytes] at hx
      unfold InRange at hx ⊢
      omega
    have shown := put.keeps (((Only.refl _).addF d .mem 0 Reg.MEM_PWSTAT_FAIL_COUNT f.grown (0x10 * ctx) (Allow.but (by decide))).setF d .mem 0
      Reg.MEM_PWSTAT_FENCING 0 (0x10 * ctx) (Allow.but (by decide)))
    unfold State.fenceDone
    rw [if_neg Bool.false_ne_true]
    dsimp only
    refine StoresIn.ite (shown.keeps ((Only.refl _).setFence (hp := Allow.but (by decide)) ..)) ?_
    have ended := shown.keeps ((Only.refl _).setFence (issuer d ctx false) none (Allow.but (by decide)))
    split
    · exact ended.keeps (((Only.refl _).finishDesc (hg0 := Allow.but (by decide)) (hp := Allow.but (by decide)) ..).freeEngine
        (hp := Allow.but (by decide)) ..)
    · exact ended

theorem StoresIn.fenceCheck (h : StoresIn P z s) (d : Die) (ctx : Nat) {host : Bool}
    (lands : ∀ f, s.fence (issuer d ctx host) = some f → host = false → Lands P f.result 8) : StoresIn P z (s.fenceCheck d ctx host) := by
  unfold State.fenceCheck
  split
  case h_1 f hf => exact StoresIn.ite (h.fenceDone d ctx (lands f hf)) h
  case h_2 => exact h

theorem State.fence_setFence_same (s : State) (o : Nat) (f : Option FenceSt) : (s.setFence o f).fence o = f := Tab.get_set_same ..

theorem State.fence_of_same (h : Field.same .fences s t) (o : Nat) : t.fence o = s.fence o := by
  unfold State.fence; rw [show t.fences = s.fences from h]

theorem StoresIn.startFence (h : StoresIn P z s) (d : Die) (ctx : Nat) {host : Bool} (kind arg eng : Nat) {result : Nat}
    (lands : host = false → Lands P result 8) : StoresIn P z (s.startFence d ctx host kind arg eng result) := by
  unfold State.startFence
  dsimp only
  generalize (List.range 128).filter _ = dests
  generalize hf : (FenceSt.mk (s.epoch d ctx host) _ s.time result kind arg eng 0 0) = f
  have hr : f.result = result := by rw [← hf]
  generalize hu : (s.flipEpoch d ctx host).setFence (issuer d ctx host) (some f) = u
  have opened : StoresIn P z u := hu ▸ h.keeps (((Only.refl _).flipEpoch (hp := Allow.but (by decide)) ..).setFence
    (hp := Allow.but (by decide)) ..)
  have hfence : u.fence (issuer d ctx host) = some f := hu ▸ State.fence_setFence_same ..
  generalize hv : (if host then u else u.setF d .mem 0 Reg.MEM_PWSTAT_FENCING 1 (0x10 * ctx)) = v
  have kept : StoresIn P z v := hv ▸ StoresIn.ite opened (opened.keeps ((Only.refl _).setF (hp := Allow.but (by decide)) ..))
  have vfence : v.fence (issuer d ctx host) = some f := by rw [← hv, ← hfence]; split <;> rfl
  generalize hw : (if decide (8 * s.pkgId + dieCode d ∈ dests) then v.fenceSeen (issuer d ctx host) f (8 * s.pkgId + dieCode d)
    (Tab.get 0 v.failed (cntKey d (((s.pkgId * 8 + dieCode d) * 64 + if host then 32 else ctx) * 2 + s.epoch d ctx host))) else v) = w
  have fence : ∃ g, w.fence (issuer d ctx host) = some g ∧ g.result = result := by
    rw [← hw]
    split
    · exact ⟨_, State.fence_setFence_same .., hr⟩
    · exact ⟨f, vfence, hr⟩
  have stored : StoresIn P z w := hw ▸ StoresIn.ite (kept.keeps ((Only.refl _).fenceSeen (hp := Allow.but (by decide)) ..)) kept
  obtain ⟨g, hg, result⟩ := fence
  simp only [hg]
  refine (stored.keeps ((Only.refl _).sendProbes (hp := Allow.but (by decide)) ..)).fenceCheck d ctx fun g' hg' inner => ?_
  rw [State.fence_of_same ((Only.refl w).sendProbes d ctx host g (Allow.but (by decide))).kept, hg] at hg'
  rw [← Option.some.inj hg', result]
  exact lands inner

theorem StoresIn.nextHostFence (h : StoresIn P z s) (d : Die) : StoresIn P z (s.nextHostFence d) := by
  cases d with
  | mv m => exact h
  | cr c => exact h.foldl _ fun r _ u hu => StoresIn.ite hu (hu.startFence _ _ _ _ _ fun e => absurd e.symm Bool.false_ne_true)

/-! ### Moves from host memory -/

theorem StoresIn.failMove (h : StoresIn P z s) (c : Crown) {r : HostMove} (cause : Nat) (lands : Lands P r.dst r.len) :
    StoresIn P z (s.failMove c r cause) := by
  have left {x : HostSt} : StoresIn P z (s.setHost c x) := h.keeps ((Only.refl _).setHost (hp := Allow.but (by decide)) ..)
  unfold State.failMove
  dsimp only
  split
  · exact left
  · refine StoresIn.keeps (StoresIn.deliverMem (left.keeps ((Only.refl _).draw (hp := Allow.but (by decide)) ..)) _ _ _ _ ?_)
      (((Only.refl _).log (hg0 := Allow.but (by decide)) (hp := Allow.but (by decide)) ..).faultAll (hg0 := Allow.but (by decide))
        (hg1 := Allow.but (by decide)) (hp := Allow.but (by decide)) ..)
    rwa [length_leBytes]

theorem StoresIn.timeoutMove (h : StoresIn P z s) (c : Crown) {r : HostMove} (lands : Lands P r.dst r.len) :
    StoresIn P z (s.timeoutMove c r) :=
  (h.failMove c 3 lands).keeps ((Only.refl _).bumpF (hp := Allow.but (by decide)) ..)

theorem Lands.take {a n m : Nat} (h : Lands P a n) (hm : m ≤ n) : Lands P a m :=
  ⟨(Nat.add_le_add_left hm _).trans h.room, fun x hx => h.inside x ⟨hx.1, hx.2.trans_le (Nat.add_le_add_left hm _)⟩⟩

theorem memOutside_hostReadCompletion {c : Crown} {id : Nat} (status : Fin 3) (bytes : List Byte) {r : HostMove}
    (move : (s.host c).moves.find? (fun r => r.id == id) = some r) (room : r.dst % 2 ^ 45 + r.len ≤ 2 ^ 45) :
    Does (.hostReadCompletion c id status bytes) s fun t => MemOutside s t (r.dst % 2 ^ 48) r.len := by
  have lands := Lands.of_room room
  unfold Does
  show ∃ t, execHostReadCompletion c id status bytes s = .next t ∧ _
  simp only [execHostReadCompletion, move]
  split
  · exact ⟨_, rfl, ((StoresIn.refl _ s).timeoutMove c lands).outside⟩
  · split
    · exact ⟨_, rfl, ((StoresIn.refl _ s).failMove c _ lands).outside⟩
    · have left {x : HostSt} : StoresIn (InRange (r.dst % 2 ^ 48) r.len) s (s.setHost c x) :=
        (StoresIn.refl _ s).keeps ((Only.refl _).setHost (hp := Allow.but (by decide)) ..)
      split
      · exact ⟨_, rfl, left.outside⟩
      · exact ⟨_, rfl, (left.deliverMem _ _ _ _ (lands.take (List.length_take_le ..))).outside⟩

theorem memOutside_hostReadTimeout {c : Crown} {id : Nat} {r : HostMove}
    (move : (s.host c).moves.find? (fun r => r.id == id) = some r) (room : r.dst % 2 ^ 45 + r.len ≤ 2 ^ 45) :
    Does (.hostReadTimeout c id) s fun t => MemOutside s t (r.dst % 2 ^ 48) r.len := by
  unfold Does
  show ∃ t, execHostReadTimeout c id s = .next t ∧ _
  simp only [execHostReadTimeout, move]
  exact ⟨_, rfl, (StoresIn.ite ((StoresIn.refl _ s).timeoutMove c (Lands.of_room room)) (StoresIn.refl _ s)).outside⟩

/-- A byte that changed lies in the range of one of a die's requests. -/
theorem StoresIn.changed (h : StoresIn P s t) {a : Nat} (ne : t.rdByte a ≠ s.rdByte a) : P a := by
  by_contra c
  exact ne (h.same a c)

/-- Where the moves of a Crown die from host memory land. -/
def MoveLands (s : State) (c : Crown) (a : Nat) : Prop := ∃ r ∈ (s.host c).moves, InRange (r.dst % 2 ^ 48) r.len a

theorem stores_functionLevelReset {c : Crown} (kind : Fin 3) (room : ∀ r ∈ (s.host c).moves, r.dst % 2 ^ 45 + r.len ≤ 2 ^ 45) :
    Does (.functionLevelReset c kind) s (StoresIn (MoveLands s c) s) := by
  unfold Does
  show ∃ t, execFunctionLevelReset c kind s = .next t ∧ _
  unfold execFunctionLevelReset
  dsimp only
  split
  · exact ⟨_, rfl, .refl ..⟩
  · refine ⟨_, rfl, StoresIn.foldl ?_ _ fun r hr u hu => ?_⟩
    · have cleared {x : HostSt} : Only (Field.but .mem) s (((s.setHost c x).resetPci c [Reg.PCI_BAR2_AP_BASE, Reg.PCI_BAR2_AP_VALID]
          16 4).resetPci c [Reg.PCI_RING_BASE_LO, Reg.PCI_RING_BASE_HI, Reg.PCI_RING_CFG_EN, Reg.PCI_RING_CFG_LOG2_N,
          Reg.PCI_RING_HEAD_HEAD, Reg.PCI_RING_TAIL_TAIL, Reg.PCI_RING_DROPPED_DROPPED] 16 0x20) :=
        (((Only.refl s).setHost c x (Allow.but (by decide))).resetPci c _ 16 4 (Allow.but (by decide))).resetPci c _ 16 0x20 (Allow.but (by decide))
      exact (StoresIn.refl _ s).keeps (Only.ite (cleared.setF (hp := Allow.but (by decide)) ..) cleared)
    · exact (hu.keeps ((Only.refl _).draw (hp := Allow.but (by decide)) ..)).failMove c _
        ⟨by have := room r hr; omega, fun x hx => ⟨r, hr, hx⟩⟩

end Sys2Proof.Machine
end

section
/-! Data that arrives lands in the range of what asked for it: read data, fences, descriptors and the schedule (R231 to R238, R244 to
R262, R302). -/

namespace Sys2Proof.Machine

variable {s t z : State} {P : Nat → Prop}

/-! ### Read data and fence responses -/

/-- Where the read that a die's READ_DATA answers lands. -/
def ReadLands (s : State) (d : Die) (cmd : List Byte) (a : Nat) : Prop :=
  ∃ r ∈ Tab.get [] s.rdReqs (dieCode d), ∃ q, r.dst = some (.mem q) ∧ r.tag = cmdTag cmd ∧ r.target = cmdTarget cmd ∧
    r.host = false ∧ r.ctx = cmdCtx cmd ∧ q % 2 ^ 48 ≤ a ∧ a < q % 2 ^ 48 + r.len

/-- Whether a read is the one that a READ_DATA answers. -/
def ReadReq.answeredBy (cmd : List Byte) (r : ReadReq) : Bool :=
  r.tag == cmdTag cmd && r.target == cmdTarget cmd && r.host == cmdHost cmd && (r.host || r.ctx == cmdCtx cmd)

theorem stores_readData (d : Die) (cmd : List Byte) (data : List (List Byte))
    (room : ∀ r ∈ Tab.get [] s.rdReqs (dieCode d), ∀ q, r.dst = some (.mem q) → q % 2 ^ 48 + r.len ≤ 2 ^ 48) :
    Does (.readData d cmd data) s (StoresIn (ReadLands s d cmd) s) := by
  unfold Does
  show ∃ t, execReadData d cmd data s = .next t ∧ _
  unfold execReadData
  dsimp only
  split
  · exact ⟨_, rfl, .refl ..⟩
  case h_2 r found =>
    have mem := List.mem_of_find?_eq_some found
    have mine : r.answeredBy cmd = true := List.find?_some found
    have taken {q : Tab (List ReadReq)} : StoresIn (ReadLands s d cmd) s { s with rdReqs := q } := ⟨fun _ _ => rfl⟩
    by_cases host : r.host = true
    · rw [if_pos host]
      cases d with
      | cr c => exact ⟨_, rfl, taken.keeps ((Only.refl _).completeRead (hp := Allow.but (by decide)) ..)⟩
      | mv m => exact ⟨_, rfl, taken⟩
    · rw [if_neg host]
      split
      · exact ⟨_, rfl, taken⟩
      · split
        case h_1 q dst =>
          refine ⟨_, rfl, taken.deliver _ _ _ _ fun a ha => ?_⟩
          subst ha
          refine Lands.take ⟨room r mem a dst, fun x hx => ⟨r, mem, a, dst, ?_⟩⟩ (length_writeData ..)
          simp only [ReadReq.answeredBy, Bool.and_eq_true, beq_iff_eq, Bool.or_eq_true, host, Bool.false_eq_true, false_or] at mine
          obtain ⟨⟨⟨tag, target⟩, -⟩, ctx⟩ := mine
          exact ⟨tag, target, Bool.eq_false_of_not_eq_true host, ctx, hx⟩
        case h_2 =>
          split
          · exact ⟨_, rfl, taken.keeps (((Only.refl _).endNum (hg0 := Allow.but (by decide)) (hp := Allow.but (by decide)) ..).faultAll
              (hg0 := Allow.but (by decide)) (hg1 := Allow.but (by decide)) (hp := Allow.but (by decide)) ..)⟩
          · exact ⟨_, rfl, taken.keeps ((Only.refl _).setEng (hp := Allow.but (by decide)) ..)⟩

theorem exec_fenceResp_none {d : Die} {cmd : List Byte} (none_ : s.fence (issuer d (cmdCtx cmd) (cmdHost cmd)) = none) :
    exec (.fenceResp d cmd) s = .next s := by
  show execFenceResp d cmd s = _
  simp only [execFenceResp, none_]

theorem stores_fenceResp {d : Die} {cmd : List Byte} {f : FenceSt} (fence : s.fence (issuer d (cmdCtx cmd) (cmdHost cmd)) = some f)
    (lands : cmdHost cmd = false → Lands P f.result 8) : Does (.fenceResp d cmd) s (StoresIn P s) := by
  unfold Does
  show ∃ t, execFenceResp d cmd s = .next t ∧ _
  simp only [execFenceResp, fence]
  split
  · have seen (dest fails : Nat) : StoresIn P s ((s.fenceSeen (issuer d (cmdCtx cmd) (cmdHost cmd)) f dest fails).fenceCheck d (cmdCtx cmd)
        (cmdHost cmd)) := by
      refine ((StoresIn.refl _ s).keeps ((Only.refl _).fenceSeen (hp := Allow.but (by decide)) ..)).fenceCheck d _ fun g hg inner => ?_
      rw [State.fenceSeen, State.fence_setFence_same] at hg
      rw [← Option.some.inj hg]
      exact lands inner
    exact ⟨_, rfl, StoresIn.ite ((seen ..).nextHostFence d) (seen ..)⟩
  · exact ⟨_, rfl, .refl ..⟩

theorem stores_bar2Read (c : Crown) (id x len : Nat) : Does (.bar2Read c id x len) s (StoresIn (fun _ => False) s) := by
  unfold Does
  show ∃ t, execBar2Read c id x len s = .next t ∧ _
  unfold execBar2Read
  dsimp only
  split
  · exact ⟨_, rfl, .refl ..⟩
  · split
    · exact ⟨_, rfl, ((StoresIn.refl _ s).keeps ((Only.refl _).setHost (hp := Allow.but (by decide)) ..)).nextHostFence _⟩
    · exact ⟨_, rfl, (StoresIn.refl _ s).keeps (((Only.refl _).hostOutside (hg0 := Allow.but (by decide)) (hp := Allow.but (by decide)) ..).setHost
        (hp := Allow.but (by decide)) ..)⟩

/-! ### A descriptor starts -/

/-- Where a synchronising operation puts its result. -/
def SyncPlace (w : Work) (r : Nat) : Prop := w = .sync (.fence r) ∨ ∃ b, w = .sync (.arrive b r)

theorem StoresIn.startDesc (h : StoresIn P z s) (d : Die) (e n : Nat) (w : List Nat) {i : OpInfo}
    (lands : ∀ r, SyncPlace i.work r → Lands P r 8) : StoresIn P z (s.startDesc d e n w i) := by
  unfold State.startDesc
  dsimp only
  split
  · exact h.keeps ((((((((Only.refl _).setStream (hp := Allow.but (by decide)) ..).setEng (hp := Allow.but (by decide)) ..).setEng
      (hp := Allow.but (by decide)) ..).setQueue (hg0 := Allow.but (by decide)) (hp := Allow.but (by decide)) ..).noteSuspect
      (hp := Allow.but (by decide)) ..).startReads (hp := Allow.but (by decide)) ..))
  · have read {x : StreamSt} {g : EngSt} {m : Nat} {l : List Nat} : StoresIn P z ((((((s.setStream d e n x).setEng d e g).setF d .eng 0
        Reg.ENG_E_BUSY 1 (4 * e)).noteSuspect d e n).startReads d n e m i.work).noteScratch d e l) :=
      h.keeps (((((((Only.refl s).setStream d e n x (Allow.but (by decide))).setEng d e g (Allow.but (by decide))).setF d .eng 0
        Reg.ENG_E_BUSY 1 (4 * e) (Allow.but (by decide))).noteSuspect d e n (Allow.but (by decide))).startReads d n e m i.work
        (Allow.but (by decide))).noteScratch d e l (Allow.but (by decide)))
    split
    case h_1 r hw => exact read.startFence _ _ _ _ _ fun _ => lands r (.inl hw)
    case h_2 b r hw => exact read.startFence _ _ _ _ _ fun _ => lands r (.inr ⟨b, hw⟩)
    case h_3 => exact read

theorem StoresIn.tryStart (h : StoresIn P z s) (d : Die) (e n : Nat) (w : List Nat) {i : OpInfo}
    (lands : ∀ r, SyncPlace i.work r → Lands P r 8) : StoresIn P z (s.tryStart d e n w i) := by
  unfold State.tryStart
  dsimp only
  refine StoresIn.ite h (StoresIn.ite (StoresIn.ite h ?_) (StoresIn.ite ?_ (StoresIn.startDesc (StoresIn.ite ?_ h) _ _ _ _ lands)))
  · exact h.keeps ((Only.refl _).askToken (hg0 := Allow.but (by decide)) (hp := Allow.but (by decide)) ..)
  · exact h.keeps ((((Only.refl _).setStream (hp := Allow.but (by decide)) ..).setEng (hp := Allow.but (by decide)) ..).bumpF
      (hp := Allow.but (by decide)) ..)
  · exact h.keeps ((Only.refl _).servedPoison (hg0 := Allow.but (by decide)) (hp := Allow.but (by decide)) ..)

theorem StoresIn.startHead (h : StoresIn P z s) (d : Die) (e n : Nat) {i : OpInfo}
    (lands : ∀ r, SyncPlace (s.operation d (s.descWords (s.stream d e n)) i).1.work r → Lands P r 8) :
    StoresIn P z (s.startHead d e n i) := by
  have fixed : StoresIn P z (s.operation d (s.descWords (s.stream d e n)) i).2 :=
    h.keeps ((Only.refl _).operation (hp := Allow.but (by decide)) ..)
  unfold State.startHead
  dsimp only
  refine StoresIn.ite ?_ (StoresIn.ite ?_ (StoresIn.ite h ?_))
  · exact h.keeps (((Only.refl _).servedPoison (hg0 := Allow.but (by decide)) (hp := Allow.but (by decide)) ..).faultAll
      (hg0 := Allow.but (by decide)) (hg1 := Allow.but (by decide)) (hp := Allow.but (by decide)) ..)
  · exact h.keeps ((Only.refl _).descFault (hg0 := Allow.but (by decide)) (hg1 := Allow.but (by decide)) (hp := Allow.but (by decide)) ..)
  · split
    · exact fixed.keeps ((Only.refl _).descFault (hg0 := Allow.but (by decide)) (hg1 := Allow.but (by decide))
        (hp := Allow.but (by decide)) ..)
    · split
      · exact fixed.keeps ((Only.refl _).accessFault (hg0 := Allow.but (by decide)) (hg1 := Allow.but (by decide))
          (hp := Allow.but (by decide)) ..)
      · exact fixed.tryStart _ _ _ _ lands

/-- Where the descriptor at an engine's head puts its result, if it is one that has one and its place lies in one memory. -/
def HeadLands (s : State) (m : Mv) (e : Fin 16) (i : OpInfo) (a : Nat) : Prop :=
  ∃ n w r, (s.eng (.mv m) e).run = some n ∧ w = (s.operation (.mv m) (s.descWords (s.stream (.mv m) e n)) i).1.work ∧
    (w = .sync (.fence r) ∨ ∃ b, w = .sync (.arrive b r)) ∧
    (r % 2 ^ 45 + 8 ≤ 2 ^ 45 → r % 2 ^ 48 ≤ a ∧ a < r % 2 ^ 48 + 8)

theorem stores_descriptorStart (m : Mv) (e : Fin 16) (i : OpInfo) : Does (.descriptorStart m e i) s (StoresIn (HeadLands s m e i) s) := by
  unfold Does
  show ∃ t, execDescriptorStart m e i s = .next t ∧ _
  unfold execDescriptorStart
  dsimp only
  split
  · exact ⟨_, rfl, .refl ..⟩
  · split
    · split
      · exact ⟨_, rfl, .refl ..⟩
      · exact ⟨_, rfl, (StoresIn.refl _ s).keeps ((Only.refl _).replayHead (hg0 := Allow.but (by decide)) (hp := Allow.but (by decide)) ..)⟩
    · split
      · exact ⟨_, rfl, .refl ..⟩
      case h_2 n run =>
        split
        · exact ⟨_, rfl, .refl ..⟩
        · refine ⟨_, rfl, ?_⟩
          by_cases wraps : ∃ r, SyncPlace (s.operation (.mv m) (s.descWords (s.stream (.mv m) e n)) i).1.work r ∧ ¬r % 2 ^ 45 + 8 ≤ 2 ^ 45
          · obtain ⟨r, place, wrap⟩ := wraps
            exact ⟨fun a ha => absurd ⟨n, _, r, run, rfl, place, fun room => absurd room wrap⟩ ha⟩
          · refine (StoresIn.refl _ s).startHead _ _ _ fun r place => ?_
            have room : r % 2 ^ 45 + 8 ≤ 2 ^ 45 := by
              by_contra wrap
              exact wraps ⟨r, place, wrap⟩
            exact ⟨by omega, fun x hx => ⟨n, _, r, run, rfl, place, fun _ => hx⟩⟩

end Sys2Proof.Machine
end

section
/-! Data that arrives lands in the range of what asked for it: the writes of a descriptor, and the schedule's landing granules
(R222 to R238, R162 to R170). -/

namespace Sys2Proof.Machine

variable {s t z : State} {P : Nat → Prop}

/-! ### The writes of a descriptor -/

/-- Where a write goes and how long it is. -/
def storeAt (p : Nat × List Byte) : Nat × Nat := (p.1, p.2.length)

theorem length_rowBlocks {l l' : List Nat} (h : l.length = l'.length) : (rowBlocks l).length = (rowBlocks l').length := by
  simp only [rowBlocks, List.length_map, List.length_range, h]

/-- Where a row is put depends on its length, not on its values. -/
theorem storeAt_tPut (x : Tensor) (r : Nat) {l l' : List Nat} (h : l.length = l'.length) :
    (tPut x r l).map storeAt = (tPut x r l').map storeAt := by
  unfold tPut
  dsimp only
  split
  · simp only [List.map_cons, List.map_nil, storeAt, length_leBytes, List.length_map, length_rowBlocks h, h]
  · split
    · simp only [List.map_cons, List.map_nil, storeAt, length_leBytes, h]
    · simp only [List.map_cons, List.map_nil, storeAt, length_leBytes, h]

theorem storeAt_summaryOf (rd rd' : Nat → Byte) (q : Seq) (b : Nat) :
    (summaryOf rd q b).map storeAt = (summaryOf rd' q b).map storeAt :=
  storeAt_tPut _ _ (by rw [List.length_map, List.length_map])

theorem State.descStores_move {d : Die} {u : Nat} {x : Desc} {m : MoveOp} {a r : Nat} (work : x.op.work = .move m)
    (dst : m.dst = .mem a) (hr : r < m.rows1.val + 1) : (a + r * m.dstPitch, m.width) ∈ s.descStores d u x := by
  unfold State.descStores
  simp only [work, dst]
  exact List.mem_append_left _ (List.mem_map.mpr ⟨r, List.mem_range.mpr hr, rfl⟩)

theorem State.descStores_results {d : Die} {u : Nat} {x : Desc} {p : Nat × List Byte} (hp : p ∈ results (s.unitByte d u) x.op.work) :
    storeAt p ∈ s.descStores d u x := by
  unfold State.descStores
  refine List.mem_append_left _ ?_
  split
  case h_1 m work => exact absurd (show p ∈ results (s.unitByte d u) (.move m) from work ▸ hp) List.not_mem_nil
  case h_2 => exact List.mem_map.mpr ⟨p, hp, rfl⟩

theorem State.descStores_append {d : Die} {u : Nat} {x : Desc} {q : Seq} {n b : Nat} {rd : Nat → Byte} {p : Nat × List Byte}
    (appends : x.op.appends = some (q, n)) (hb : b ∈ blocksDone (Tab.get 0 s.heads q.elems.base) n) (hp : p ∈ summaryOf rd q b) :
    storeAt p ∈ s.descStores d u x := by
  unfold State.descStores
  refine List.mem_append_right _ ?_
  simp only [appends]
  have place := List.mem_map_of_mem (f := storeAt) hp
  rw [storeAt_summaryOf rd (s.unitByte d u)] at place
  exact List.mem_flatMap.mpr ⟨b, hb, place⟩

theorem StoresIn.putResult (h : StoresIn P z s) (d : Die) (x : Desc) {p : Nat × List Byte} (lands : Lands P p.1 p.2.length) :
    StoresIn P z (s.putResult d x p.1 p.2) :=
  StoresIn.ite h (h.deliverMem d _ _ _ lands)

theorem StoresIn.moveRow (h : StoresIn P z s) (d : Die) (u : Nat) (x : Desc) {m : MoveOp} {r : Nat}
    (lands : ∀ a, m.dst = .mem a → Lands P (a + r * m.dstPitch) m.width) : StoresIn P z (s.moveRow d u x m r) := by
  unfold State.moveRow
  split
  · exact h
  · refine StoresIn.ite h (h.deliver _ _ _ _ fun a ha => ?_)
    rw [List.length_map, List.length_range]
    cases dst : m.dst with
    | host c b => rw [dst] at ha; exact nomatch ha
    | mem b =>
      rw [dst] at ha
      obtain rfl : b + r * m.dstPitch = a := MoveEnd.mem.inj ha
      exact lands b dst

theorem StoresIn.appendSeq (h : StoresIn P z s) (d : Die) (u : Nat) (x : Desc) {q : Seq} {n : Nat}
    (lands : ∀ b ∈ blocksDone (Tab.get 0 s.heads q.elems.base) n, ∀ rd, ∀ p ∈ summaryOf rd q b, Lands P p.1 p.2.length) :
    StoresIn P z (s.appendSeq d u x q n) := by
  unfold State.appendSeq
  dsimp only
  have moved {heads : Tab Nat} : StoresIn P z { s with heads := heads } := ⟨h.same⟩
  exact moved.foldl _ fun b hb v hv => hv.foldl _ fun p hp w hw => hw.putResult d x (lands b hb _ p hp)

/-- Bytes stored in their places, the sequences' heads as they were. -/
structure Placed (P : Nat → Prop) (z s : State) : Prop where
  stores : StoresIn P z s
  heads : s.heads = z.heads

theorem Placed.moveRows (d : Die) (u : Nat) {x : Desc} {m : MoveOp} (work : x.op.work = .move m)
    (lands : ∀ r ∈ s.descStores d u x, Lands P r.1 r.2) :
    Placed P s ((List.range (m.rows1.val + 1)).foldl (fun t r => t.moveRow d u x m r) s) :=
  List.foldlRecOn (List.range (m.rows1.val + 1)) (fun t r => t.moveRow d u x m r) (motive := Placed P s) ⟨.refl .., rfl⟩
    fun y hy r hr => ⟨hy.stores.moveRow d u x fun _ dst => lands _ (State.descStores_move work dst (List.mem_range.mp hr)),
      (show (y.moveRow d u x m r).heads = y.heads from ((Only.refl y).moveRow (pt := Field.but .heads) d u x m r (Allow.but (by decide))
        (Allow.but (by decide)) (Allow.but (by decide)) (Allow.but (by decide))).kept).trans hy.heads⟩

theorem Placed.results (d : Die) (u : Nat) {x : Desc} (lands : ∀ r ∈ s.descStores d u x, Lands P r.1 r.2) :
    Placed P s ((Machine.results (s.unitByte d u) x.op.work).foldl (fun t p => t.putResult d x p.1 p.2) s) :=
  List.foldlRecOn (Machine.results (s.unitByte d u) x.op.work) (fun t p => t.putResult d x p.1 p.2) (motive := Placed P s) ⟨.refl .., rfl⟩
    fun y hy p hp => ⟨hy.stores.putResult d x (lands _ (State.descStores_results hp)),
      (show (y.putResult d x p.1 p.2).heads = y.heads from ((Only.refl y).putResult (pt := Field.but .heads) d x p.1 p.2
        (Allow.but (by decide)) (Allow.but (by decide)) (Allow.but (by decide)) (Allow.but (by decide))).kept).trans hy.heads⟩

theorem stores_descWrites (d : Die) (u : Nat) {x : Desc} (lands : ∀ r ∈ s.descStores d u x, Lands P r.1 r.2) :
    StoresIn P s (s.descWrites d u x) := by
  unfold State.descWrites
  dsimp only
  cases appends : x.op.appends with
  | none =>
    simp only
    split
    case h_1 work => exact (Placed.moveRows d u work lands).stores
    case h_2 => exact (Placed.results d u lands).stores
  | some a =>
    have appended {y : State} (hy : Placed P s y) : StoresIn P s (if x.sandbox then y else y.appendSeq d u x a.1 a.2) :=
      StoresIn.ite hy.stores (hy.stores.appendSeq d u x fun b hb rd p hp => lands _ (State.descStores_append appends (hy.heads ▸ hb) hp))
    refine appended ?_
    split
    case h_1 work => exact Placed.moveRows d u work lands
    case h_2 => exact Placed.results d u lands

theorem stores_endDesc (d : Die) (u : Nat) {x : Desc} (lands : ∀ r ∈ s.descStores d u x, Lands P r.1 r.2) :
    StoresIn P s (s.endDesc d u x) := by
  have base := StoresIn.refl P s
  unfold State.endDesc
  dsimp only
  refine StoresIn.ite ?_ (StoresIn.ite base ?_)
  · exact base.keeps ((Only.refl _).boundFault (hg0 := Allow.but (by decide)) (hg1 := Allow.but (by decide)) (hg2 := Allow.but (by decide))
      (hp := Allow.but (by decide)) ..)
  · split
    · have aborted (cause : Nat) : StoresIn P s (s.abortUnit d u cause) :=
        base.keeps ((Only.refl _).abortUnit (hg0 := Allow.but (by decide)) (hp := Allow.but (by decide)) ..)
      exact StoresIn.ite ((aborted _).keeps ((Only.refl _).replayHit (hp := Allow.but (by decide)) ..))
        ((aborted _).keeps ((Only.refl _).accessFault (hg0 := Allow.but (by decide)) (hg1 := Allow.but (by decide))
          (hp := Allow.but (by decide)) ..))
    · have written := (stores_descWrites d u lands).keeps ((Only.refl _).replayStep d x (Allow.but (by decide)))
      generalize (s.descWrites d u x).replayStep d x = v at written
      refine written.keeps (Only.ite (Only.ite ?_ ?_) ?_)
      · exact (((Only.refl v).finishDesc (hg0 := Allow.but (by decide)) (hp := Allow.but (by decide)) ..).setEng (hp := Allow.but (by decide)) ..).setF
          (hp := Allow.but (by decide)) ..
      · exact ((Only.refl v).finishDesc (hg0 := Allow.but (by decide)) (hp := Allow.but (by decide)) ..).freeEngine (hp := Allow.but (by decide)) ..
      · have dropped := (Only.refl v).setQueue d u ((v.queue d u).drop 1) (pt := Field.but .mem) (Allow.but (by decide)) (Allow.but (by decide))
        have idle := Only.ite (c := ((v.queue d u).drop 1 == []) = true) (dropped.setEng d u { (v.setQueue d u ((v.queue d u).drop 1)).eng d u with got := [] }
          (Allow.but (by decide))) dropped
        exact (Only.ite idle (idle.setStream (hp := Allow.but (by decide)) ..)).finishDesc (hg0 := Allow.but (by decide)) (hp := Allow.but (by decide)) ..

/-- The descriptor that a unit works on. -/
def State.working (s : State) (m : Mv) (u : Fin 22) : Option Desc := if u.val < 16 then (s.eng (.mv m) u).desc else (s.queue (.mv m) u).head?

theorem stores_descriptorComplete {m : Mv} {u : Fin 22} (lands : ∀ x, s.working m u = some x → ∀ r ∈ s.descStores (.mv m) u x, Lands P r.1 r.2) :
    Does (.descriptorComplete m u) s (StoresIn P s) := by
  unfold Does
  show ∃ t, execDescriptorComplete m u s = .next t ∧ _
  unfold execDescriptorComplete
  dsimp only
  split
  · have ended := (Only.refl s).setEng (.mv m) u { s.eng (.mv m) u with abortAt := 0 } (pt := Field.but .mem) (Allow.but (by decide))
    exact ⟨_, rfl, (StoresIn.refl _ s).keeps (Only.ite (ended.setF (hp := Allow.but (by decide)) ..) ended)⟩
  · split
    · exact ⟨_, rfl, .refl ..⟩
    case h_2 x hx => exact ⟨_, rfl, stores_endDesc _ _ (lands x hx)⟩

end Sys2Proof.Machine
end

section
/-! Data that arrives lands in the range of what asked for it: the schedule's landing granules (R162 to R170, R250 to R262). -/

namespace Sys2Proof.Machine

variable {s t z : State} {P : Nat → Prop}

theorem StoresIn.landSc (h : StoresIn P z s) (e : LinkEnd) (tag : Nat) {pa : Nat} (last : Bool) (p : List Byte)
    (hP : ∀ x, InRange pa 64 x → P x) : StoresIn P z (s.landSc e tag pa last p) := by
  have landed : StoresIn P z (s.wrGranule pa p) := (h.wrBytes fun x hx =>
    hP x ⟨hx.1, hx.2.trans_le (Nat.add_le_add_left (List.length_take_le ..) _)⟩).setPoison ..
  exact StoresIn.ite ⟨landed.same⟩ landed

theorem StoresIn.takeResend (h : StoresIn P z s) (e : LinkEnd) (header : Nat) (p : List Byte)
    (hP : ∀ w ∈ (s.link e).wait, ∀ x, InRange w.land 64 x → P x) : StoresIn P z (s.takeResend e header p) := by
  have bumped := (Only.refl s).bumpLf e Reg.IKL_SC_ERR_RESENT Reg.TRYP_SC_ERR_RESENT 0 (pt := Field.outside [.mem, .links])
    (Allow.outside (by decide))
  have base : StoresIn P z (s.bumpLf e Reg.IKL_SC_ERR_RESENT Reg.TRYP_SC_ERR_RESENT) :=
    ⟨fun a ha => (State.rdByte_of_same (bumped.keeps (by decide)) a).trans (h.same a ha)⟩
  unfold State.takeResend
  dsimp only
  split
  · exact base
  case h_2 w found =>
    have mem := List.mem_of_find?_eq_some found
    rw [State.link_of_same (bumped.keeps (by decide))] at mem
    exact StoresIn.ite ((base.keeps ((Only.refl _).setLink (hp := Allow.but (by decide)) ..)).landSc _ _ _ _ (hP w mem)) base

theorem StoresIn.takeUcSlot (h : StoresIn P z s) (e : LinkEnd) (b : Nat) (repair : Bool) (got : Option (Nat × List Byte))
    (hP : ∀ w ∈ (s.link e).wait, ∀ x, InRange w.land 64 x → P x) : StoresIn P z (s.takeUcSlot e b repair got) := by
  unfold State.takeUcSlot
  split
  · exact h.keeps ((Only.refl _).nakUc (hp := Allow.but (by decide)) ..)
  · split
    · exact StoresIn.ite (h.takeResend e _ _ hP) h
    · exact h.keeps ((Only.refl _).takeUc (hp := Allow.but (by decide)) ..)
    · exact h

/-- A scheduled flit whose header is not of the class that lands stores nothing. -/
theorem StoresIn.takeScSlot (h : StoresIn P z s) (e : LinkEnd) (b slot frame tag : Nat) (got : Option (Nat × List Byte))
    (hP : badClass got = false → ∀ pa y, s.scPlace e 1 tag b slot frame = some (pa, y) → ∀ x, InRange pa 64 x → P x) :
    StoresIn P z (s.takeScSlot e b slot frame tag got) := by
  unfold State.takeScSlot
  split
  · exact h.keeps ((Only.refl _).nakSc (hp := Allow.but (by decide)) ..)
  case h_2 header p =>
    by_cases named : (header % 4 == 1 && bitsOf header 2 14 == tag) = true
    · rw [if_pos named]
      have data : header % 4 = 1 := beq_iff_eq.mp (Bool.and_eq_true_iff.mp named).1
      refine StoresIn.ite h ?_
      split
      case h_1 pa ctx last place => exact h.landSc _ _ _ _ (hP (beq_eq_false_iff_ne.mpr (by rw [data]; decide)) pa _ place)
      case h_2 => exact h
    · rw [if_neg named]
      exact StoresIn.ite h (h.keeps (((Only.refl _).bumpLf (hp := Allow.but (by decide)) ..).nakSc (hp := Allow.but (by decide)) ..))

/-- Where a flit that a bundle receives may land: the granule that its transfer names, or one whose resend is awaited. -/
def FlitLands (s : State) (e : LinkEnd) (b : Fin 16) (lanes : List Nat) (a : Nat) : Prop :=
  (∃ slot tag pa y, slotAtBeat e ((s.beat (leDie e) - s.latL e) % frameBeats) = some slot ∧
    s.markOf e 1 b slot ((s.beat (leDie e) - s.latL e) / frameBeats) = .sc tag ∧
    (s.decodeFlit e b slot ((s.beat (leDie e) - s.latL e) / frameBeats) lanes).2.scPlace e 1 tag b slot
      ((s.beat (leDie e) - s.latL e) / frameBeats) = some (pa, y) ∧ pa ≤ a ∧ a < pa + 64) ∨
  ∃ w ∈ (s.link e).wait, w.land ≤ a ∧ a < w.land + 64

theorem StoresIn.takeSlotFlit (h : StoresIn P z s) (e : LinkEnd) (b slot frame : Nat) (m : Mark) (got : Option (Nat × List Byte))
    (sc : ∀ tag, m = .sc tag → ∀ pa y, s.scPlace e 1 tag b slot frame = some (pa, y) → ∀ x, InRange pa 64 x → P x)
    (wait : ∀ w ∈ (s.link e).wait, ∀ x, InRange w.land 64 x → P x) : StoresIn P z (s.takeSlotFlit e b slot frame m got) := by
  have bumped := (Only.refl s).bumpLf e Reg.IKL_LL_ERR_BAD_CLASS Reg.TRYP_LL_ERR_BAD_CLASS 0 (pt := Field.outside [.mem, .links])
    (Allow.outside (by decide))
  have base : StoresIn P z (s.bumpLf e Reg.IKL_LL_ERR_BAD_CLASS Reg.TRYP_LL_ERR_BAD_CLASS) :=
    ⟨fun a ha => (State.rdByte_of_same (bumped.keeps (by decide)) a).trans (h.same a ha)⟩
  have waits := (State.link_of_same (bumped.keeps (by decide)) e) ▸ wait
  unfold State.takeSlotFlit
  cases class_ : badClass got with
  | true =>
    simp only [if_true]
    split
    · exact base.takeScSlot _ _ _ _ _ _ fun good => absurd (class_.symm.trans good) (by decide)
    · exact base.takeUcSlot _ _ _ _ waits
    · exact base.takeUcSlot _ _ _ _ waits
    · exact base
  | false =>
    simp only [Bool.false_eq_true, if_false]
    split
    · exact h.takeScSlot _ _ _ _ _ _ fun _ => sc _ rfl
    · exact h.takeUcSlot _ _ _ _ wait
    · exact h.takeUcSlot _ _ _ _ wait
    · exact h

theorem stores_flitReceive (e : LinkEnd) (b : Fin 16) (lanes : List Nat) :
    Does (.flitReceive e b lanes) s (StoresIn (FlitLands s e b lanes) s) := by
  unfold Does
  show ∃ t, execFlitReceive e b lanes s = .next t ∧ _
  unfold execFlitReceive
  dsimp only
  split
  · exact ⟨_, rfl, .refl ..⟩
  case h_2 slot hslot =>
    split
    · exact ⟨_, rfl, .refl ..⟩
    · split
      · exact ⟨_, rfl, .refl ..⟩
      · exact ⟨_, rfl, (StoresIn.refl _ s).keeps ((Only.refl _).takeCal (hp := Allow.but (by decide)) ..)⟩
      · have decoded : StoresIn (FlitLands s e b lanes) s (s.decodeFlit e b slot ((s.beat (leDie e) - s.latL e) / frameBeats) lanes).2 :=
          (StoresIn.refl _ s).keeps ((Only.refl _).decodeFlit (hg0 := Allow.but (by decide)) (hg1 := Allow.but (by decide))
            (hg2 := Allow.but (by decide)) (hg3 := Allow.but (by decide)) (hg4 := Allow.but (by decide)) (hp := Allow.but (by decide)) ..)
        refine ⟨_, rfl, decoded.takeSlotFlit _ _ _ _ _ _ (fun tag mark pa y place x hx => .inl ⟨slot, tag, pa, y, hslot, mark, place, hx⟩)
          fun w hw x hx => .inr ⟨w, ?_, hx⟩⟩
        rwa [((SameWait.refl s).decodeFlit ..).same] at hw

/-- Settles O50, one lemma for each clause. -/
theorem fillsStayInTheirRanges : Obligations.FillsStayInTheirRanges := by
  unfold Obligations.FillsStayInTheirRanges
  refine ⟨fun c id status bytes s t h => ?_, fun c id s t h => ?_, fun c kind s t room h a ne =>
    ((stores_functionLevelReset kind room).elim h).changed ne, fun d cmd data s t room h a ne =>
    ((stores_readData d cmd data room).elim h).changed ne, fun d cmd s t h => ?_, fun m e i s t h a ne =>
    ((stores_descriptorStart m e i).elim h).changed ne, fun m u x s t work room h a ne => ?_, fun m u s t work h a => ?_,
    fun e b lanes s t h a ne => ((stores_flitReceive e b lanes).elim h).changed ne,
    fun c id x len s t h a => ((stores_bar2Read c id x len).elim h).same a not_false⟩
  · split
    case h_1 move => exact fun room => (memOutside_hostReadCompletion status bytes move room).elim h
    case h_2 idle =>
      have stays : exec (.hostReadCompletion c id status bytes) s = .next s := by
        show execHostReadCompletion c id status bytes s = _
        simp only [execHostReadCompletion, idle]
      exact Host.Outcome.next.inj (stays.symm.trans h) ▸ fun _ => rfl
  · split
    case h_1 move => exact fun room => (memOutside_hostReadTimeout move room).elim h
    case h_2 idle =>
      have stays : exec (.hostReadTimeout c id) s = .next s := by
        show execHostReadTimeout c id s = _
        simp only [execHostReadTimeout, idle]
      exact Host.Outcome.next.inj (stays.symm.trans h) ▸ fun _ => rfl
  · split
    case h_1 f fence =>
      split
      case isTrue host => exact fun a => ((stores_fenceResp (P := fun _ => False) fence fun inner => absurd (inner.symm.trans host) (by decide)).elim h).same a id
      case isFalse => exact fun room => ((stores_fenceResp fence fun _ => Lands.of_room room).elim h).outside
    case h_2 none_ => exact Host.Outcome.next.inj ((exec_fenceResp_none none_).symm.trans h) ▸ fun _ => rfl
  · refine ((stores_descriptorComplete (P := fun a => ∃ r ∈ s.descStores (.mv m) u x, r.1 % 2 ^ 48 ≤ a ∧ a < r.1 % 2 ^ 48 + r.2)
      fun y hy r hr => ?_).elim h).changed ne
    obtain rfl : x = y := Option.some.inj (work.symm.trans hy)
    exact ⟨by have := room r hr; omega, fun _ hx => ⟨r, hr, hx⟩⟩
  · exact ((stores_descriptorComplete (P := fun _ => False) fun y hy => nomatch work.symm.trans hy).elim h).same a id

end Sys2Proof.Machine
end

section
/-! PTP, synchronisation and the budget (R45 to R48, R231 to R244, R355 to R361). -/

namespace Sys2Proof.Machine

variable {s t : State}

/-! ### PTP -/

theorem State.tai_setTaiFlags (s : State) (d : Die) (valid hold : Bool) :
    (s.setTaiFlags d valid hold).isF d .bal 0 Reg.BAL_STATUS_TAI_VALID = valid ∧
      (s.setTaiFlags d valid hold).isF d .bal 0 Reg.BAL_STATUS_HOLDOVER = hold := by
  have bit_ {u : State} {f : Fld} (hf : f.w = 1) (v : Bool) : (u.setF d .bal 0 f (b2n v)).isF d .bal 0 f = v := by
    unfold State.isF
    rw [State.getF_setF_same, hf]
    cases v <;> rfl
  have same : Only (Field.outside [.ofReg .bal Reg.BAL_STATUS_TAI_VALID, .ofReg .bal Reg.BAL_STATUS_HOLDOVER])
      ((s.setF d .bal 0 Reg.BAL_STATUS_TAI_VALID (b2n valid)).setF d .bal 0 Reg.BAL_STATUS_HOLDOVER (b2n hold))
      (s.setTaiFlags d valid hold) := by
    unfold State.setTaiFlags
    dsimp only
    refine Only.ite ?_ (Only.raise ?_ _ _ (Allow.outside (by decide))) <;>
      exact Only.ite (((Only.refl _).setDie (hp := Allow.outside (by decide)) ..).setF (hp := Allow.outside (by decide)) ..)
        ((Only.refl _).setDie (hp := Allow.outside (by decide)) ..)
  rw [State.isF_of_same (same.keeps (by decide)), State.isF_of_same (same.keeps (by decide)), State.isF_setF_of_tag (by decide),
    bit_ rfl, bit_ rfl]
  exact ⟨rfl, rfl⟩

theorem does_ptpSyncTimeout {m : Master} (sel : s.ptp.sel = some m) (valid : s.isF cr0 .bal 0 Reg.BAL_STATUS_TAI_VALID = true)
    (late : s.ptp.lastSync + intervals 3 m.logInt ≤ s.time) :
    Does .ptpSyncTimeout s fun t => t.isF cr0 .bal 0 Reg.BAL_STATUS_TAI_VALID = false ∧
      t.isF cr0 .bal 0 Reg.BAL_STATUS_HOLDOVER = true := by
  refine .intro (t := State.setTaiFlags { s with ptp := { s.ptp with good := 0, bad := 0 } } cr0 false true) ?_
    (State.tai_setTaiFlags _ cr0 false true)
  show execPtpSyncTimeout s = _
  simp only [execPtpSyncTimeout, sel, valid, decide_eq_true late, Bool.and_self, if_true]

theorem does_leapSecond (leap : s.ptp.leap ≠ 0)
    (due : (s.ptp.leapAt + s.utcNow + s.ptp.leap) * 1000000000 ≤ (s.taiNow cr0 : Int)) :
    Does .leapSecond s fun t => t.ptp.utc = s.ptp.utc + s.ptp.leap ∧ t.ptp.leap = 0 := by
  have go : (s.ptp.leap == 0 || decide ((s.taiNow cr0 : Int) < (s.ptp.leapAt + s.utcNow + s.ptp.leap) * 1000000000)) = false := by
    rw [beq_eq_false_iff_ne.mpr leap, decide_eq_false (Int.not_lt.mpr due)]; rfl
  exact .intro (if_neg fun e => Bool.false_ne_true (go.symm.trans e)) ⟨rfl, rfl⟩

/-- Settles O30, one lemma for each clause. -/
theorem ptpCommandsComplete : Obligations.PtpCommandsComplete := by
  unfold Obligations.PtpCommandsComplete
  exact ⟨fun _ _ => does_ptpSyncTimeout, fun _ => does_leapSecond⟩

/-! ### Doorbells, counters and barriers -/

theorem does_doorbellRing {m : Mv} {w : Word} (valid : bit w.toNat 8 = true) (on : s.powered (.mv m) .eng = true)
    (free : s.heldInReset (.mv m) .eng = false) (demand : s.ctxOnDemand (.mv m) (w.toNat % 32) = true)
    (idle : s.ctxState (.mv m) (w.toNat % 32) = 1) :
    Does (.doorbellRing m w) s fun t => t.ctxState (.mv m) (w.toNat % 32) = 2 := by
  refine .intro (t := s.doorbell m w.toNat) rfl ?_
  simp only [State.doorbell, valid, on, free, demand, idle, Bool.not_true, Bool.or_self, Bool.false_eq_true, if_false, beq_self_eq_true,
    Bool.and_self, if_true]
  exact State.getF_setF_same ..

theorem State.ctr_signal (s : State) (d : Die) (n v : Nat) : (s.signal d n v).ctr d n = (s.ctr d n + v) % 2 ^ 32 :=
  State.getF_setF_same ..

theorem does_synCtrWrite {m : Mv} {n : Fin 4096} {w : Word} {img : Image} (on : s.powered (.mv m) .syn = true)
    (free : s.heldInReset (.mv m) .syn = false) (image : s.boot.image = some img) (owned : (m, n.val) ∈ img.hostCtrs) :
    Does (.synCtrWrite m n w) s fun t => t.ctr (.mv m) n = (s.ctr (.mv m) n + w.toNat) % 2 ^ 32 := by
  refine .intro (t := s.signal (.mv m) n w.toNat) ?_ (s.ctr_signal ..)
  show Host.Outcome.next (s.ctrWrite m n w.toNat) = _
  simp only [State.ctrWrite, on, free, image, decide_eq_true owned, Bool.not_true, Bool.or_self, Bool.false_eq_true, if_false, if_true]

theorem does_barrierArrival {m : Mv} {ctx : Fin 32} {f : FenceSt} (fence : s.fence (issuer (.mv m) ctx false) = some f) (arrive : f.kind = 3)
    (idle : (s.eng (.mv m) f.eng).desc = none)
    (waits : s.getF (.mv m) .syn 0 Reg.SYN_BAR_ARRIVED (4 * f.arg) + 1 < s.getF (.mv m) .syn 0 Reg.SYN_BAR_MEMBERS (4 * f.arg)) :
    Does (.barrierArrival m ctx) s fun t => t.fence (issuer (.mv m) ctx false) = none ∧
      t.getF (.mv m) .syn 0 Reg.SYN_BAR_ARRIVED (4 * f.arg) =
        (s.getF (.mv m) .syn 0 Reg.SYN_BAR_ARRIVED (4 * f.arg) + 1) % 2 ^ 11 := by
  refine .intro (t := (s.setFence (issuer (.mv m) ctx false) none).setF (.mv m) .syn 0 Reg.SYN_BAR_ARRIVED
    (s.getF (.mv m) .syn 0 Reg.SYN_BAR_ARRIVED (4 * f.arg) + 1) (4 * f.arg)) ?_ ⟨?_, State.getF_setF_same ..⟩
  case refine_2 => exact Tab.get_set_same (d := none) s.fences _ none
  have stays : (s.setFence (issuer (.mv m) ctx false) none).arrive (.mv m) f.arg = (s.setFence (issuer (.mv m) ctx false) none).setF (.mv m)
      .syn 0 Reg.SYN_BAR_ARRIVED (s.getF (.mv m) .syn 0 Reg.SYN_BAR_ARRIVED (4 * f.arg) + 1) (4 * f.arg) := if_pos waits
  have idle' : (((s.setFence (issuer (.mv m) ctx false) none).setF (.mv m) .syn 0 Reg.SYN_BAR_ARRIVED
      (s.getF (.mv m) .syn 0 Reg.SYN_BAR_ARRIVED (4 * f.arg) + 1) (4 * f.arg)).eng (.mv m) f.eng).desc = none := idle
  show execBarrierArrival m ctx s = _
  simp only [execBarrierArrival, fence, arrive, bne_self_eq_false, Bool.false_eq_true, if_false, stays, idle']

theorem does_lockstepMismatch {m : Mv} (on : s.domOn (8 + m.val) = true) :
    Does (.lockstepMismatch m) s fun t => bit t.recov.lockstep m = true := by
  refine .intro (t := { s with recov := { s.recov with lockstep := setBit s.recov.lockstep m.val } })
    (congrArg Host.Outcome.next (if_pos on)) ?_
  exact bit_setBit_same ..

/-- Settles O18, one lemma for each clause. -/
theorem syncCommandsComplete : Obligations.SyncCommandsComplete := by
  unfold Obligations.SyncCommandsComplete
  exact ⟨fun _ _ _ => does_doorbellRing, fun _ _ _ s => .intro rfl (s.ctr_signal ..), fun _ _ _ _ _ => does_synCtrWrite,
    fun _ _ _ _ => does_barrierArrival, fun _ _ => does_lockstepMismatch⟩

end Sys2Proof.Machine
end

section
/-! The budget of the package (R355 to R361). -/

namespace Sys2Proof.Machine

variable {s t : State}

/-! ### SUPPORT: the sideband queue and the power state of a die -/

/-- A message that is not acknowledged joins its end's queue. -/
theorem State.q_sbSend (s : State) (e : LinkEnd) {mtype : Nat} (body aux copies : Nat) (h : sbAcked mtype = false) :
    ((s.sbSend e mtype body aux copies).link e).q =
      (s.link e).q ++ [{ mtype := mtype, body := body, aux := aux, copies := copies }] := by
  unfold State.sbSend
  dsimp only
  rw [h, if_neg Bool.false_ne_true, State.link_setLink_same]

theorem State.pow_setPow_same (s : State) (d : Die) (x : PowerSt) : (s.setPow d x).pow d = x :=
  congrArg DieSt.power (State.die_setDie_same ..)

theorem State.get_reports_takeReport (s : State) (code : Nat) (r : Report) : Tab.get none (s.takeReport code r).reports code = some r := by
  rw [State.takeReport, State.setF_reports, State.setF_reports]
  exact Tab.get_set_same (d := none) s.reports code (some r)

/-! ### The commands -/

theorem does_budgetWrite {w : Word} (covers : budgetCovers (w.toNat % 2048) s.sumReserve s.sumFloors = true) :
    Does (.budgetWrite w) s fun t => t.getF cr0 .pwr 0 Reg.PWR_BUDGET = w.toNat % 2048 := by
  refine .intro (congrArg Host.Outcome.next (if_pos covers)) ?_
  rw [State.getF_setF_same]
  exact Nat.mod_mod _ 2048

/-- A die reports in the frames 64 k of the turn. -/
theorem execBudgetReport_go {d : Die} {k meas : Nat} (die : s.hasDie d = true) (frame : s.atFrame d = true)
    (hf : s.frame d % 1024 = 64 * k) (hk : k ≤ 7) (on : s.enabled .pwr cr0 = true) :
    (s.hasDie d && s.atFrame d && s.frame d % 1024 % 64 == 0 && decide (s.frame d % 1024 ≤ 448) && s.enabled .pwr cr0) = true := by
  rw [die, frame, hf, Nat.mul_mod_right, decide_eq_true (by omega), on]; rfl

theorem does_budgetReport_cr0 {k meas : Nat} (frame : s.atFrame cr0 = true) (hf : s.frame cr0 % 1024 = 64 * k) (hk : k ≤ 7)
    (on : s.enabled .pwr cr0 = true) : Does (.budgetReport cr0 meas) s fun t => Tab.get none t.reports 4 =
      some ⟨s.turn cr0 % 2 ^ 32, s.demand cr0 % 2 ^ 16, s.throttled cr0, (s.pow cr0).held % 2 ^ 16, meas % 2 ^ 16⟩ := by
  refine .intro (t := s.takeReport (dieCode cr0) ⟨s.turn cr0 % 2 ^ 32, s.demand cr0 % 2 ^ 16, s.throttled cr0, (s.pow cr0).held % 2 ^ 16,
    meas % 2 ^ 16⟩) ?_ (s.get_reports_takeReport ..)
  show execBudgetReport cr0 meas s = _
  simp only [execBudgetReport, execBudgetReport_go (d := cr0) rfl frame hf hk on (meas := meas), if_true, budgetEnd, cr0]

theorem does_budgetReport_mv {m : Mv} {k meas : Nat} (frame : s.atFrame (.mv m) = true) (hf : s.frame (.mv m) % 1024 = 64 * k)
    (hk : k ≤ 7) (on : s.enabled .pwr cr0 = true) : Does (.budgetReport (.mv m) meas) s fun t => (t.link (spMv m 0)).q =
      (s.link (spMv m 0)).q ++
      [{ mtype := 0x19, body := budgetBody false (.mv m) (s.throttled (.mv m)) (s.turn (.mv m) % 2 ^ 32)
          (s.demand (.mv m) % 2 ^ 16) ((s.pow (.mv m)).held % 2 ^ 16) (meas % 2 ^ 16) }] := by
  have die : s.hasDie (.mv m) = true := rfl
  refine .intro (t := s.sbSend (spMv m 0) 0x19 (budgetBody false (.mv m) (s.throttled (.mv m)) (s.turn (.mv m) % 2 ^ 32)
    (s.demand (.mv m) % 2 ^ 16) ((s.pow (.mv m)).held % 2 ^ 16) (meas % 2 ^ 16))) ?_ (s.q_sbSend _ _ _ _ rfl)
  show execBudgetReport (.mv m) meas s = _
  simp only [execBudgetReport, execBudgetReport_go (d := .mv m) die frame hf hk on (meas := meas), if_true, budgetEnd]

theorem does_grantAllocation (frame : s.atFrame cr0 = true) (hf : s.frame cr0 % 1024 = 512) (on : s.enabled .pwr cr0 = true) :
    Does .grantAllocation s fun t => t.grants = s.allocate (s.turn cr0) := by
  refine .intro (t := (s.allocateNow (s.turn cr0)).sendGrants (s.turn cr0)) ?_ ?_
  · show execGrantAllocation s = _
    simp only [execGrantAllocation, frame, hf, on, Nat.le_refl, decide_true, Nat.reduceMod, beq_self_eq_true, Bool.and_self, if_true]
  · rw [show ((s.allocateNow (s.turn cr0)).sendGrants (s.turn cr0)).grants = (s.allocateNow (s.turn cr0)).grants from
      ((Only.refl _).sendGrants (pt := Field.but .grants) (s.turn cr0) (Allow.but (by decide))).kept, State.allocateNow, State.setPow,
      State.setDie_grants, State.setF_grants]

theorem execBudgetGrant_some {e : LinkEnd} {r : SbSlot} {box : Nat} {u : State} (takes : s.sbTakes e r 0x19 = (some box, u)) :
    exec (.budgetGrant e r) s = .next (u.takeBudget e box) := by
  show execBudgetGrant e r s = _
  simp only [execBudgetGrant, takes]

theorem does_budgetGrant_mv {m : Mv} {sl : Fin 4} {r : SbSlot} {box : Nat} {u : State}
    (takes : s.sbTakes (.ikl (.mv m) sl) r 0x19 = (some box, u)) (grant : bit box 6 = true) (die : bitsOf box 7 3 = dieCode (.mv m))
    (fresh : u.staleKind (.mv m) 3 = false) : Does (.budgetGrant (.ikl (.mv m) sl) r) s fun t =>
      (t.pow (.mv m)).grant = some (bitsOf box 12 32, bitsOf box 44 16) := by
  refine .intro (execBudgetGrant_some takes) ?_
  have other : (Die.mv m == .mv 0 && dieCode (.mv m) == 5) = false := by cases m using Fin.cases <;> rfl
  have crown : (Die.mv m == cr0) = false := rfl
  simp only [State.takeBudget, leDie, die, other, crown, grant, fresh, Bool.false_and, Bool.false_eq_true, if_false, beq_self_eq_true,
    Bool.not_false, Bool.and_self, if_true]
  exact congrArg PowerSt.grant (State.pow_setPow_same ..)

theorem does_budgetGrant_cr0 {sl : Fin 4} {r : SbSlot} {box : Nat} {u : State} (takes : s.sbTakes (.ikl cr0 sl) r 0x19 = (some box, u))
    (report : bit box 6 = false) (die : bitsOf box 7 3 < 6) : Does (.budgetGrant (.ikl cr0 sl) r) s fun t =>
      Tab.get none t.reports (bitsOf box 7 3) =
        some ⟨bitsOf box 12 32, bitsOf box 44 16, bit box 10, bitsOf box 60 16, bitsOf box 76 16⟩ := by
  refine .intro (execBudgetGrant_some takes) ?_
  have other : (cr0 == .mv 0) = false := rfl
  simp only [State.takeBudget, leDie, other, report, decide_eq_true die, Bool.false_and, Bool.false_eq_true, if_false, beq_self_eq_true,
    Bool.not_false, Bool.and_self, if_true]
  exact u.get_reports_takeReport ..

theorem does_allowanceTake {d : Die} {v : Nat} (die : s.hasDie d = true) (turn : s.atTurn d = true) (on : s.enabled .pwr cr0 = true)
    (grant : (s.pow d).grant = some (s.turn d % 2 ^ 32, v)) (hv : v < 2 ^ 16) (floor : (s.pow d).staleFloor = false)
    (fresh : s.staleKind d 3 = false) : Does (.allowanceTake d) s fun t => t.allowance d = v := by
  refine .intro (t := (s.setF cr0 .pwr 0 Reg.PWR_DIE_A_ALLOW v (dieOff d)).setF cr0 .pwr 0 Reg.PWR_STATUS_FLOOR
    (clrBit (s.getF cr0 .pwr 0 Reg.PWR_STATUS_FLOOR) (dieCode d))) ?_ ?_
  · show execAllowanceTake d s = _
    simp only [execAllowanceTake, die, turn, on, grant, floor, fresh, Bool.not_true, Bool.or_self, Bool.false_eq_true, if_false,
      beq_self_eq_true, if_true]
  · rw [State.allowance, State.getF_setF_of_tag (by decide), State.getF_setF_same]
    exact Nat.mod_eq_of_lt hv

/-- Settles O14, one lemma for each clause. -/
theorem budgetCommandsComplete : Obligations.BudgetCommandsComplete := by
  unfold Obligations.BudgetCommandsComplete
  exact ⟨fun _ _ => does_budgetWrite, fun _ _ _ => does_budgetReport_cr0, fun _ _ _ _ => does_budgetReport_mv, fun _ => does_grantAllocation,
    fun _ _ _ _ _ _ => does_budgetGrant_mv, fun _ _ _ _ _ => does_budgetGrant_cr0, fun _ _ _ => does_allowanceTake⟩

end Sys2Proof.Machine
end

section
/-! The interval ledger: intervals, tariff changes, setpoint sets and its tables (R325 to R350). -/

namespace Sys2Proof.Machine

variable {s t : State}

/-! ### SUPPORT: one table record among others -/

theorem State.ldgRec_setLdgRec_same (s : State) (sp i v : Nat) : (s.setLdgRec sp i v).ldgRec sp i = v := Tab.get_set_same ..

theorem State.ldgRec_setLdgRec_ne (s : State) {sp i sp' i' v : Nat} (hi : i < 131072) (hi' : i' < 131072) (h : sp ≠ sp' ∨ i ≠ i') :
    (s.setLdgRec sp' i' v).ldgRec sp i = s.ldgRec sp i :=
  Tab.get_set_ne _ _ fun e => by
    unfold tblKey at e
    omega

theorem State.ldgRec_of_same (h : Field.same .tables s t) (sp i : Nat) : t.ldgRec sp i = s.ldgRec sp i := by
  unfold State.ldgRec State.tbl; rw [show t.tables = s.tables from h]

/-! ### Intervals -/

theorem State.ldg_wait_ldgSum (s : State) (m : Nat × Nat × Nat) (a b : Nat) : (s.ldgSum m a b).ldg.wait = s.ldg.wait := by
  unfold State.ldgSum
  split <;> rfl

theorem State.ldg_wait_ldgSettle (s : State) (b : Nat) : (s.ldgSettle b).ldg.wait = s.ldg.wait :=
  (State.ldg_wait_ldgSum ..).trans (List.foldlRecOn s.ldg.maps (fun t p => t.ldgSum p.2 t.ldg.upTo (min p.1 b))
    (motive := fun u : State => u.ldg.wait = s.ldg.wait) rfl fun _ hu _ _ => (State.ldg_wait_ldgSum ..).trans hu)

theorem State.length_wait_closeAt (s : State) (b flags switched : Nat) :
    (s.closeAt b flags switched).ldg.wait.length = s.ldg.wait.length + 1 :=
  List.length_append.trans (congrArg (List.length · + 1) (s.ldg_wait_ldgSettle b))

theorem does_intervalClose {b : Nat} (next : s.ldgNext = some (b, 0)) :
    Does .intervalClose s fun t => t.ldg.start = b ∧ t.ldg.wait.length = s.ldg.wait.length + 1 := by
  unfold Does
  show ∃ t, execIntervalClose s = .next t ∧ _
  simp only [execIntervalClose, next]
  refine ⟨_, rfl, ?_⟩
  have closed (sw : Nat) := s.length_wait_closeAt b 1 sw
  have shown {u : State} {n : Nat} {x : LdgSt} : (State.showCur (State.addF { u with ldg := x } cr0 .ldg 0 Reg.LDG_COUNT2_SKIPPED n)).ldg = x :=
    rfl
  rw [shown]
  exact ⟨rfl, closed _⟩

/-! ### Tariff changes -/

/-- A record of space 2 is free of its valid bit once its change is applied, and no other change sets it. -/
theorem State.change_applyChange {i j : Nat} (hi : i < 8) (hj : j < 8) (h : i = j ∨ kValid (s.ldgRec 2 i) = false) :
    kValid ((s.applyChange j).ldgRec 2 i) = false := by
  have target : kTarget (s.ldgRec 2 j) < 16 := Nat.mod_lt _ (by decide)
  unfold State.applyChange
  dsimp only
  by_cases e : i = j
  · rw [e, State.ldgRec_setLdgRec_same]
    generalize s.ldgRec 2 j = r
    unfold kValid
    split
    case isTrue set =>
      unfold bit at set ⊢
      rw [beq_iff_eq] at set
      rw [beq_eq_false_iff_ne]
      omega
    case isFalse clear => exact Bool.eq_false_of_not_eq_true clear
  · rw [State.ldgRec_setLdgRec_ne _ (by omega) (by omega) (.inr e), State.ldgRec_setLdgRec_ne _ (by omega) (by omega) (.inl (by decide))]
    have rows : ((List.range 96).foldl (fun u j' => u.setLdgRec 0 (96 * kTarget (s.ldgRec 2 j) + j') (s.ldgRec 0 (96 *
        kSource (s.ldgRec 2 j) + j'))) s).ldgRec 2 i = s.ldgRec 2 i :=
      List.foldlRecOn (List.range 96) _ (motive := fun u : State => u.ldgRec 2 i = s.ldgRec 2 i) rfl fun u hu j' hj' => by
        have := List.mem_range.mp hj'
        rw [State.ldgRec_setLdgRec_ne _ (by omega) (by omega) (.inl (by decide)), hu]
    rw [rows]
    exact h.resolve_left e

theorem mem_changesDue {b i : Nat} (h : (b, i) ∈ s.changesDue) : i < 8 := by
  obtain ⟨j, hj, e⟩ := List.mem_map.mp h
  obtain ⟨-, rfl⟩ := Prod.mk.inj e
  exact List.mem_range.mp (List.mem_filter.mp hj).1

/-- What is done to each of a list of changes clears those that it holds. -/
theorem changes_cleared {f : State → Nat → State} {i : Nat} (hi : i < 8)
    (hf : ∀ (u : State) (j : Nat), j < 8 → i = j ∨ kValid (u.ldgRec 2 i) = false → kValid ((f u j).ldgRec 2 i) = false) :
    ∀ {l : List Nat} {u : State}, (∀ j ∈ l, j < 8) → i ∈ l ∨ kValid (u.ldgRec 2 i) = false → kValid ((l.foldl f u).ldgRec 2 i) = false
  | [], _, _, h => h.resolve_left List.not_mem_nil
  | j :: l, u, hl, h => by
    rw [List.foldl_cons]
    refine changes_cleared hi hf (fun k hk => hl k (List.mem_cons_of_mem _ hk)) ?_
    by_cases mem : i ∈ l
    · exact .inl mem
    · refine .inr (hf u j (hl j List.mem_cons_self) (h.imp_left fun k => ?_))
      exact (List.mem_cons.mp k).resolve_right mem

/-- A change takes effect at the beat `b`, noted where it is in the interval, and logged where it is on the interval's bound. -/
def State.takeChange (b : Nat) (onBound : Bool) (t : State) (i : Nat) : State :=
  let u := t.applyChange i
  let v := if u.ldg.start < b then { u with ldg := { u.ldg with switched := setBit u.ldg.switched (kTarget (t.ldgRec 2 i)) } } else u
  if onBound then v.log cr0 .ldg 0 0x7004 [BitVec.ofNat 8 i] else v

theorem State.ldgRec_takeChange (s : State) (b : Nat) (onBound : Bool) (i sp k : Nat) :
    (s.takeChange b onBound i).ldgRec sp k = (s.applyChange i).ldgRec sp k := by
  unfold State.takeChange
  dsimp only
  generalize s.applyChange i = u
  refine State.ldgRec_of_same (show State.tables _ = u.tables from ?_) sp k
  split
  · exact (State.log_tables ..).trans (by split <;> rfl)
  · split <;> rfl

theorem does_tariffChangeEffect {b : Nat} (next : s.ldgNext = some (b, 1)) :
    Does .tariffChangeEffect s fun t => ∀ i, (b, i) ∈ s.changesDue → kValid (t.ldgRec 2 i) = false := by
  let due := ((s.changesDue.filter fun p => p.1 == b).map (·.2)).foldl
    (State.takeChange b (b == (s.ldgSettle b).ldg.start && !bit (s.ldgSettle b).ldg.flags 4)) (s.ldgSettle b)
  refine .intro (t := { due with ldg := { due.ldg with tabDirty := due.ldg.pfAt == 0 } }) ?_ fun i hi => ?_
  · show execTariffChangeEffect s = _
    simp only [execTariffChangeEffect, next]
    rfl
  refine (congrArg kValid (State.ldgRec_of_same (s := due) rfl 2 i)).trans
    (changes_cleared (mem_changesDue hi) (fun u j hj h => ?_) (fun j hj => ?_) (.inl ?_))
  · rw [State.ldgRec_takeChange]
    exact State.change_applyChange (mem_changesDue hi) hj h
  · obtain ⟨p, hp, rfl⟩ := List.mem_map.mp hj
    exact mem_changesDue (b := p.1) (List.mem_filter.mp hp).1
  · exact List.mem_map.mpr ⟨(b, i), List.mem_filter.mpr ⟨hi, beq_self_eq_true b⟩, rfl⟩

/-! ### Setpoint sets -/

theorem does_setpointSetProcess (frame : s.atFrame cr0 = true) (valid : s.isF cr0 .ldg 0 Reg.LDG_IN_VALID = true)
    (landed : s.hasLanded 0 (s.getF cr0 .ldg 0 Reg.LDG_IN_TAG) = true) (open_ : s.ldgState = 2) :
    Does .setpointSetProcess s fun t => ∃ x, t.ldg.sets = s.ldg.sets ++ [x] ∧ s.beat cr0 ≤ x.eff := by
  have go : (!s.atFrame cr0 || !s.isF cr0 .ldg 0 Reg.LDG_IN_VALID || !s.hasLanded 0 (s.getF cr0 .ldg 0 Reg.LDG_IN_TAG)) = false := by
    rw [frame, valid, landed]; rfl
  unfold Does
  show ∃ t, execSetpointSetProcess s = .next t ∧ _
  simp only [execSetpointSetProcess, go, Bool.false_eq_true, if_false, open_]
  exact ⟨_, rfl, _, by split <;> rfl, Nat.le_max_right ..⟩

theorem does_setpointSetEffective {b : Nat} (next : s.ldgNext = some (b, 2)) :
    Does .setpointSetEffective s fun t => ∀ x ∈ t.ldg.sets, x.eff ≠ b := by
  unfold Does
  show ∃ t, execSetpointSetEffective s = .next t ∧ _
  simp only [execSetpointSetEffective, next]
  exact ⟨_, rfl, fun x hx => bne_iff_ne.mp (List.mem_filter.mp hx).2⟩

/-! ### Opening and committing -/

theorem does_ledgerOpen (closed : s.ldgState = 1) (tai : (s.die cr0).taiEver = true) :
    Does .ledgerOpen s fun t => t.ldgState = 2 ∧ t.ldg.start = max (s.die cr0).taiAt s.ldg.enAt := by
  unfold Does
  show ∃ t, execLedgerOpen s = .next t ∧ _
  simp only [execLedgerOpen, closed, tai, bne_self_eq_false, Bool.not_true, Bool.or_self, Bool.false_eq_true, if_false]
  have shown (u : State) (n : Nat) : (((u.setLdgState 2).setF cr0 .ldg 0 Reg.LDG_STATUS_HOLDOVER n).showCur).ldgState = 2 := by
    rw [State.ldgState, State.showCur, State.set64, State.getF_setF_of_tag (by decide), State.getF_setF_of_tag (by decide),
      State.getF_setF_of_tag (by decide)]
    exact State.getF_setF_same ..
  refine ⟨_, rfl, shown .., ?_⟩
  have changes (l : List Nat) (u : State) : (l.foldl (fun u i => u.applyChange i) u).ldg = u.ldg :=
    (Only.foldl (pt := Field.but .ldg) l (fun _ _ g => g.applyChange (hp := Allow.but (by decide)) ..) (Only.refl u)).kept
  exact congrArg LdgSt.start (changes _ _)

/-- A record written to the FRAM leaves what the ledger holds of its intervals. -/
theorem State.ldg_framPut (s : State) (a : Nat) (l : List Byte) (bad : Option (List Byte)) : (s.framPut a l bad).ldg = s.ldg :=
  ((Only.refl s).framPut (pt := Field.but .ldg) a l bad (Allow.but (by decide)) (Allow.but (by decide))).kept

theorem does_intervalCommit {bad : List (Nat × List Byte)} {c : Closing} {rest : List Closing} (idle : s.ldg.busy = none)
    (on : s.powered cr0 .ldg = true) (wait : s.ldg.wait = c :: rest) :
    Does (.intervalCommit bad) s fun t => t.ldg.busy = some c ∧ t.ldg.wait = rest ∧ t.ldg.seq = s.ldg.seq + 1 := by
  refine .intro (t := s.startCommit bad) ?_ ?_
  · show execIntervalCommit bad s = _
    have some_ : (c :: rest != []) = true := rfl
    simp only [execIntervalCommit, idle, on, wait, some_, Option.isSome_none, Bool.not_true, Bool.or_self, Bool.false_eq_true, if_false, if_true]
  · rw [State.startCommit, wait]
    exact ⟨rfl, rfl, rfl⟩

theorem does_intervalCommitDone {bad : Option (List Byte)} {c : Closing} (busy : s.ldg.busy = some c)
    (due : s.ldg.busyAt + writeBeats (blocksOf c.count) s.ldgSclk ≤ s.time) :
    Does (.intervalCommitDone bad) s fun t => t.ldg.busy = none ∧ t.ldg.out = some (s.ldg.seq, blocksOf c.count) := by
  unfold Does
  show ∃ t, execIntervalCommitDone bad s = .next t ∧ _
  simp only [execIntervalCommitDone, busy, Nat.not_lt.mpr due, if_false]
  refine ⟨_, rfl, ?_⟩
  split
  · rw [show ∀ (u : State) (l : List Byte), (u.log cr0 .ldg 0 0x7001 l).ldg = u.ldg from fun u l => State.log_ldg ..]
    exact ⟨rfl, rfl⟩
  · exact ⟨rfl, rfl⟩

/-- Settles O31, one lemma for each clause. -/
theorem ledgerIntervalCommandsComplete : Obligations.LedgerIntervalCommandsComplete := by
  unfold Obligations.LedgerIntervalCommandsComplete
  exact ⟨fun _ _ => does_intervalClose, fun _ _ => does_tariffChangeEffect, fun _ => does_setpointSetProcess,
    fun _ _ => does_setpointSetEffective, fun _ => does_ledgerOpen, fun _ _ _ _ => does_intervalCommit,
    fun _ _ _ => does_intervalCommitDone⟩

/-! ### Tables -/

theorem does_tableImageWrite {bad : List (Nat × List Byte)} (dirty : s.ldg.tabDirty = true) (idle : s.ldg.busy = none)
    (wait : s.ldg.wait = []) (power : s.ldg.pfAt = 0) (on : s.ldgState ≠ 0) (powered : s.powered cr0 .ldg = true) :
    Does (.tableImageWrite bad) s fun t => t.ldg.tabDirty = false ∧ t.ldg.tseq = s.ldg.tseq + 1 := by
  have go : (!s.ldg.tabDirty || s.ldg.busy.isSome || s.ldg.wait != [] || s.ldg.pfAt != 0 || s.ldgState == 0 || !s.powered cr0 .ldg) = false := by
    rw [dirty, idle, wait, power, powered, beq_eq_false_iff_ne.mpr on]; rfl
  exact .intro (if_neg fun e => Bool.false_ne_true (go.symm.trans e)) ⟨rfl, rfl⟩

theorem does_ledgerOutputCopy {seq blocks : Nat} (out : s.ldg.out = some (seq, blocks)) :
    Does .ledgerOutputCopy s fun t => t.ldg.out = none := by
  unfold Does
  show ∃ t, execLedgerOutputCopy s = .next t ∧ _
  rw [execLedgerOutputCopy, out]
  refine ⟨_, rfl, ?_⟩
  rw [show ∀ (u : State) (pa : Nat) (l : List Byte), (u.localWrite cr0 pa l false).ldg = u.ldg from fun u pa l =>
    ((Only.refl u).localWrite (pt := Field.but .ldg) cr0 pa l false (Allow.but (by decide))).kept]

theorem does_ldgTableWrite {w : Word} (on : s.powered cr0 .ldg = true) (space : s.ldgSpace < 4) (index : s.ldgIndex < ldgSize s.ldgSpace)
    (late : s.lateWr = false) : Does (.ldgTableWrite w) s fun t => Tab.get 0 t.tshadow (tblKey (16 + s.ldgSpace) 4 0 0 0 s.ldgIndex) =
      s.portWords cr0 .ldg Reg.LDG_TBL_DATA_DATA 4 w.toNat + 1 := by
  have some_ : s.ldgEmpty = false := by
    rw [State.ldgEmpty, if_pos space]
    exact decide_eq_false (Nat.not_le.mpr index)
  refine .intro (t := (s.setF cr0 .ldg 0 Reg.LDG_TBL_DATA_DATA w.toNat (4 * 3)).storeRec false
    (tblKey (16 + s.ldgSpace) 4 0 0 0 s.ldgIndex) (s.portWords cr0 .ldg Reg.LDG_TBL_DATA_DATA 4 w.toNat)) ?_ (State.tshadow_storeRec late)
  show execLdgTableWrite w s = _
  simp only [execLdgTableWrite, on, if_true, State.ldgTblWrite, some_, decide_eq_true space, decide_eq_true index, Bool.not_false,
    Bool.and_self, beq_self_eq_true]

theorem does_ldgTableRead {p : Path} (alive : s.deadRead p cr0 .ldg = none) (space : s.ldgSpace < 4)
    (index : s.ldgIndex < ldgSize s.ldgSpace) :
    Does (.ldgTableRead p) s fun t => Tab.get 0 t.rdData (pathCode p) = s.ldgRec s.ldgSpace s.ldgIndex % 2 ^ 32 := by
  refine .intro (t := s.ldgLoad.putRd p (s.ldgLoad.getF cr0 .ldg 0 Reg.LDG_TBL_DATA_DATA 0)) ?_ ?_
  · show execLdgTableRead p s = _
    rw [execLdgTableRead, alive]
  · rw [State.rdData_putRd_same, State.ldgLoad, if_pos space, if_pos index]
    exact (State.getF_loadWords (i := 0) (by decide) _ s 4 (by decide)).trans (by rw [Nat.mul_zero, Nat.pow_zero, Nat.div_one])

theorem does_ldgFramReadStart {w : Word} (on : s.powered cr0 .ldg = true) (low : 4 ≤ s.ldgSpace) (high : s.ldgSpace < 6)
    (hw : w.toNat < 684) : Does (.ldgFramReadStart w) s fun t => t.ldg.rd = some (s.ldgSpace, w.toNat) := by
  have space : (s.setF cr0 .ldg 0 Reg.LDG_TBL_INDEX_INDEX w.toNat).ldgSpace = s.ldgSpace := State.getF_setF_of_tag (by decide)
  have index : (s.setF cr0 .ldg 0 Reg.LDG_TBL_INDEX_INDEX w.toNat).ldgIndex = w.toNat :=
    (State.getF_setF_same ..).trans (Nat.mod_eq_of_lt (hw.trans (by decide)))
  refine .intro (t := s.ldgIndexWrite w.toNat) (if_pos on) ?_
  unfold State.ldgIndexWrite
  simp only [space, index, Nat.not_lt.mpr low, high, if_true, if_false, Nat.not_le.mpr hw, State.setF_ldg]

theorem does_ldgFramReadDone {i : Nat} (rd : s.ldg.rd = some (4, i)) :
    Does .ldgFramReadDone s fun t => t.ldg.rd = none ∧ t.ldg.buf = framBytes s.fram (intAddr 0 i) 128 := by
  unfold Does
  show ∃ t, execLdgFramReadDone s = .next t ∧ _
  rw [execLdgFramReadDone, rd]
  exact ⟨_, rfl, rfl, rfl⟩

/-- Settles O32, one lemma for each clause. -/
theorem ledgerTableCommandsComplete : Obligations.LedgerTableCommandsComplete := by
  unfold Obligations.LedgerTableCommandsComplete
  exact ⟨fun _ _ => does_tableImageWrite, fun _ _ _ => does_ledgerOutputCopy, fun _ _ => does_ldgTableWrite, fun _ _ => does_ldgTableRead,
    fun _ _ => does_ldgFramReadStart, fun _ _ => does_ldgFramReadDone⟩

end Sys2Proof.Machine
end

section
/-! Start-up: the flash pass, the power sequence, HBM training, the start window and a restart (R352, R380 to R404). -/

namespace Sys2Proof.Machine

variable {s t : State}

/-! ### SUPPORT: the objects of the flash, and the phases -/

theorem State.x2_of_same (h : (Field.ofReg .cfg Reg.CFG_VARIANT).same s t) : t.x2 = s.x2 := by
  unfold State.x2; rw [Field.getF_of_same h]

theorem State.pkgId_of_same (h : (Field.ofReg .boot Reg.BOOT_STRAP_PKG_ID).same s t) : t.pkgId = s.pkgId := Field.getF_of_same h ..

/-- What leaves the parts of a list leaves those of a shorter one. -/
theorem Only.narrow {l l' : List Field} (h : Only (Field.outside l') s t) (sub : ∀ x ∈ l, x ∈ l') : Only (Field.outside l) s t :=
  ⟨fun x hx => h.keeps (sub x (not_not.mp (of_decide_eq_false hx)))⟩

/-- What the judgement of an object reads. -/
def objectParts : List Field :=
  [.cr1Root, .ofReg .cfg Reg.CFG_VARIANT, .ofReg .boot Reg.BOOT_STRAP_PKG_ID, .ofReg .cfg Reg.CFG_VARIANT_SILICON_REV,
    .ofReg .sec Reg.SEC_ROOT_HASH, .ofReg .sec Reg.SEC_MIN]

theorem State.objectFaultBy_of_same (h : Only (Field.outside objectParts) s t) (root type area : Nat) (l : List Byte) :
    t.objectFaultBy root type area l = s.objectFaultBy root type area l := by
  have least (n : Nat) : t.rbMin n = s.rbMin n := by
    unfold State.rbMin; rw [Field.getF_of_same (h.keeps (x := .ofReg .sec Reg.SEC_MIN) (by decide))]
  unfold State.objectFaultBy
  rw [least, Field.getF_of_same (h.keeps (x := .ofReg .cfg Reg.CFG_VARIANT_SILICON_REV) (by decide))]

theorem State.objectFault_of_same (h : Only (Field.outside objectParts) s t) (type area : Nat) (l : List Byte) :
    t.objectFault type area l = s.objectFault type area l := by
  have root : t.rootHash = s.rootHash := by
    have word (k : Nat) := Field.getF_of_same (h.keeps (x := .ofReg .sec Reg.SEC_ROOT_HASH) (by decide)) cr0 0 k
    unfold State.rootHash
    simp only [word]
  rw [State.objectFault, root, State.objectFaultBy_of_same h]
  rfl

/-- The phases move on without a change to what a part of the start-up holds. -/
theorem State.bootAdvance_boot (s : State) : s.bootAdvance.boot = s.boot ∨ s.bootAdvance.boot = { s.boot with loadSrc := 0 } := by
  have step (u : State) (k p : Nat) : ((u.endStep k).setPhase p).boot = u.boot := rfl
  unfold State.bootAdvance
  dsimp only
  generalize h1 : (if s.phase == 5 && !s.switchesHeld && s.boot.todo == [] && s.boot.busyDom == none then (s.endStep 6).setPhase 6 else s) = u
  have e1 : u.boot = s.boot := by rw [← h1]; split <;> rfl
  generalize h2 : (if u.phase == 6 && u.calibrated then (u.endStep 7).setPhase 7 else u) = v
  have e2 : v.boot = u.boot := by rw [← h2]; split <;> rfl
  rw [← e1, ← e2]
  split
  · split
    · exact .inl (step v 8 8)
    · split
      · exact .inl rfl
      · split
        · exact .inl (step v 8 8)
        · exact .inr (step ..)
  · exact .inl rfl

/-! ### The flash -/

theorem does_flashDiscover {f : FlashInfo} (phase : s.phase = 3) (new : s.boot.flashOk = false) (sfdp : f.sfdp = true)
    (octal : f.octal = true) (density : 29 ≤ f.density) (clock : 100 ≤ f.mhz) :
    Does (.flashDiscover (some f)) s fun t => t.boot.flashOk = true := by
  have fit : (!f.sfdp || !f.octal || decide (f.density < 29 ∨ f.mhz < 100)) = false := by
    rw [sfdp, octal, decide_eq_false (by omega)]; rfl
  unfold Does
  show ∃ t, execFlashDiscover (some f) s = .next t ∧ _
  simp only [execFlashDiscover, phase, new, fit, bne_self_eq_false, Bool.or_self, Bool.false_eq_true, if_false]
  exact ⟨_, rfl, rfl⟩

theorem does_flashPassResume {image : List Byte} (late : 5 ≤ s.phase) (runs : s.phase ≠ 15)
    (left : s.isF cr0 .boot 0 Reg.BOOT_STATUS_FLASH_DONE = false) (hbm : s.hbmTrained (.mv 0) = true)
    (none_ : oMagic image ≠ 0x54534F31 ∨ oType image ≠ 3) : Does (.flashPassResume image) s fun t =>
      t.isF cr0 .boot 0 Reg.BOOT_STATUS_FLASH_DONE = true ∧ t.boot.imgBytes = 0 := by
  have go : (decide (s.phase < 5) || s.phase == 15 || s.isF cr0 .boot 0 Reg.BOOT_STATUS_FLASH_DONE || !s.hbmTrained (.mv 0)) = false := by
    rw [decide_eq_false (Nat.not_lt.mpr late), beq_eq_false_iff_ne.mpr runs, left, hbm]; rfl
  have has : (oMagic image == 0x54534F31 && oType image == 3) = false := by
    rw [Bool.and_eq_false_iff, beq_eq_false_iff_ne, beq_eq_false_iff_ne]; exact none_
  unfold Does
  show ∃ t, execFlashPassResume image s = .next t ∧ _
  simp only [execFlashPassResume, go, has, Bool.false_eq_true, if_false]
  generalize hu : (s.setF cr0 .boot 0 Reg.BOOT_STATUS_FLASH_DONE 1).crowns.foldl (fun (t : State) c => t.applyFlDrv c)
    (s.setF cr0 .boot 0 Reg.BOOT_STATUS_FLASH_DONE 1) = u
  have driven : Only (Field.but (.ofReg .boot Reg.BOOT_STATUS_FLASH_DONE)) (s.setF cr0 .boot 0 Reg.BOOT_STATUS_FLASH_DONE 1) u :=
    hu ▸ Only.foldl _ (fun _ _ g => g.applyFlDrv (hp := Allow.but (by decide)) ..) (Only.refl _)
  have done : u.isF cr0 .boot 0 Reg.BOOT_STATUS_FLASH_DONE = true :=
    (State.isF_of_same driven.kept ..).trans (State.isF_setF_one (by decide))
  refine ⟨_, rfl, ?_, ?_⟩
  · exact (State.isF_of_same ((Only.refl _).bootAdvance (hp := Allow.but (by decide))).kept ..).trans done
  · obtain h | h := State.bootAdvance_boot { u with boot := { u.boot with imgBytes := 0 } } <;> exact congrArg BootSt.imgBytes h

/-- The record of a flash pass is copy A where copy A is good. -/
theorem State.pickRecord_good {a : List Byte} (b : List Byte) (good : s.objectFault 1 areaRecord a = none) :
    ∃ u, s.pickRecord a b = (some a, u) ∧ Only (Field.outside (.topo :: .boot :: .ofReg .boot Reg.BOOT_STATUS_PHASE :: objectParts)) s u := by
  have same := (Only.refl s).pickRecord a b (pt := Field.outside (.topo :: .boot :: .ofReg .boot Reg.BOOT_STATUS_PHASE :: objectParts))
    (Allow.outside (by decide)) (Allow.outside (by decide))
  have fst : (s.pickRecord a b).1 = some a := by
    unfold State.pickRecord
    simp only [good]
  exact ⟨_, Prod.ext fst rfl, same⟩

/-- The firmware of Crown die 1 is good where its root takes the package's own bundle. -/
theorem State.cr1Bundle_good {fw : List Byte} (fw1 : List Byte) (good : s.x2 = true → s.objectFaultBy s.cr1Root 2 areaFw fw = none) :
    ∃ u, s.cr1Bundle fw fw1 = (none, u) ∧ u.topo = s.topo ∧ u.phase = s.phase ∧ u.boot.record = s.boot.record := by
  have taken {v : State} (fw' : List Byte) (hv : Only (Field.outside [.topo, .boot, .ofReg .boot Reg.BOOT_STATUS_PHASE]) s v) :
      v.topo = s.topo ∧ v.phase = s.phase ∧ ({ v.boot with fw1 := fw' } : BootSt).record = s.boot.record :=
    ⟨hv.keeps (x := .topo) (by decide), State.phase_of_same (hv.keeps (x := .ofReg .boot Reg.BOOT_STATUS_PHASE) (by decide)),
      show v.boot.record = s.boot.record from congrArg BootSt.record (hv.keeps (x := .boot) (by decide))⟩
  have noted (rc : Nat) : Only (Field.outside [.topo, .boot, .ofReg .boot Reg.BOOT_STATUS_PHASE]) s (s.cr1Fault rc) :=
    (Only.refl s).cr1Fault (hg0 := Allow.outside (by decide)) (hp := Allow.outside (by decide)) ..
  unfold State.cr1Bundle
  dsimp only
  generalize (if s.isF cr0 .boot 0 Reg.BOOT_FLASH_CR1_FLASH then some (s.objectFaultBy s.cr1Root 2 areaFw fw1) else none) = own
  cases x2 : s.x2 with
  | false => exact ⟨s, rfl, rfl, rfl, rfl⟩
  | true =>
    rw [good x2]
    match own with
    | none => exact ⟨_, rfl, taken (v := s) _ (Only.refl s)⟩
    | some none => exact ⟨_, rfl, taken (v := s) _ (Only.refl s)⟩
    | some (some rc) => exact ⟨_, rfl, taken (v := s.cr1Fault rc) _ (noted rc)⟩

theorem does_flashPass {copyA fw : List Byte} (copyB seeds fw1 seeds1 : List Byte) (ports : List PortAddr) (phase : s.phase = 3)
    (ok : s.boot.flashOk = true) (record : s.objectFault 1 areaRecord copyA = none) (firmware : s.objectFault 2 areaFw fw = none)
    (crown : s.x2 = true → s.objectFaultBy s.cr1Root 2 areaFw fw = none) :
    Does (.flashPass copyA copyB fw seeds fw1 seeds1 ports) s fun t => ∃ u : State, t = u.endVerify ∧
      u.topo = topoOf (entriesOf (oBody copyA)) ∧ u.phase = 4 ∧
      u.boot.record = ((entriesOf (oBody copyA)).filter fun e => bit e.2.2 s.pkgId).map fun e => (e.1, e.2.1) := by
  have begun : Only (Field.outside objectParts) s ((s.endStep 4).setPhase 4) :=
    ((Only.refl s).endStep (hp := Allow.outside (by decide)) ..).setPhase (hp := Allow.outside (by decide)) ..
  obtain ⟨u, picked, same⟩ := State.pickRecord_good copyB ((State.objectFault_of_same begun 1 areaRecord copyA).trans record)
  have parts : Only (Field.outside objectParts) s u := begun.trans (same.narrow fun _ h => List.mem_cons_of_mem _ (List.mem_cons_of_mem _ (List.mem_cons_of_mem _ h)))
  have good : u.objectFault 2 areaFw fw = none := (State.objectFault_of_same parts ..).trans firmware
  have pkg : u.pkgId = s.pkgId := State.pkgId_of_same (parts.keeps (by decide))
  -- What the pass notes once the objects are judged, and the state from which its end is verified.
  obtain ⟨v, hv⟩ : ∃ v, v = ((u.noteVersion copyA).noteVersion fw).setF cr0 .boot 0 Reg.BOOT_FLASH_CR1_FLASH
      (b2n (bit ((oBody copyA).getD 4 0).toNat 0)) := ⟨_, rfl⟩
  have noted : Only (Field.outside (.topo :: .boot :: .ofReg .boot Reg.BOOT_STATUS_PHASE :: objectParts)) u v := hv ▸
    (((Only.refl u).noteVersion (hp := Allow.outside (by decide)) ..).noteVersion (hp := Allow.outside (by decide)) ..).setF
      (hp := Allow.outside (by decide)) ..
  have judged := parts.trans (noted.narrow fun _ h => List.mem_cons_of_mem _ (List.mem_cons_of_mem _ (List.mem_cons_of_mem _ h)))
  obtain ⟨w, hw⟩ : ∃ w : State, w = { v with
    seeds := seedArea seeds ++ if bit ((oBody copyA).getD 4 0).toNat 0 && s.x2 then seedArea seeds1 else []
    topo := topoOf (entriesOf (oBody copyA))
    boot := { v.boot with record := ((entriesOf (oBody copyA)).filter fun e => bit e.2.2 s.pkgId).map fun e => (e.1, e.2.1)
                          fw := fw.take (hdrLen + oLen fw) } } := ⟨_, rfl⟩
  have wide : w.x2 = true → w.objectFaultBy w.cr1Root 2 areaFw fw = none := fun x2 => by
    rw [hw] at x2 ⊢
    rw [show (_ : State).cr1Root = s.cr1Root from judged.keeps (x := .cr1Root) (by decide)]
    exact (State.objectFaultBy_of_same judged ..).trans (crown ((State.x2_of_same (judged.keeps (by decide))).symm.trans x2))
  obtain ⟨x, bundle, topo, step, own⟩ := w.cr1Bundle_good fw1 wide
  have ports_ : Only (Field.outside [.topo, .boot, .ofReg .boot Reg.BOOT_STATUS_PHASE]) x (ports.foldl (fun (t : State) p => t.setAddr p) x) :=
    Only.foldl _ (fun _ _ g => g.setAddr (hp := Allow.outside (by decide)) ..) (Only.refl x)
  refine .intro (t := (ports.foldl (fun (t : State) p => t.setAddr p) x).endVerify) ?_ ⟨_, rfl, ?_, ?_, ?_⟩
  · rw [hw, hv] at bundle
    show execFlashPass copyA copyB fw seeds fw1 seeds1 ports s = _
    simp only [execFlashPass, phase, ok, bne_self_eq_false, Bool.not_true, Bool.or_self, Bool.false_eq_true, if_false, picked, good, bundle]
  · rw [ports_.keeps (x := .topo) (by decide), topo, hw]
  · rw [State.phase_of_same (ports_.keeps (by decide)), step, hw]
    refine (State.phase_of_same (s := u) (noted.keeps (by decide))).trans ?_
    exact (State.phase_of_same (same.keeps (by decide))).trans (State.phase_setPhase _ (by decide))
  · rw [congrArg BootSt.record (ports_.keeps (x := .boot) (by decide)), own, hw]

end Sys2Proof.Machine
end

section
/-! Start-up: the power sequence, HBM training, the start window and a restart (R352, R361, R391 to R404). -/

namespace Sys2Proof.Machine

variable {s t : State}

/-! ### Domains on and off -/

theorem State.applyRecord_nil (record : s.boot.record = []) (sel : Die → Blk → Bool) : s.applyRecord sel = s := by
  rw [State.applyRecord, record]; rfl

theorem State.domOn_of_same (h : (Field.ofReg .pwr Reg.PWR_DOM_STATE).same s t) (k : Nat) : t.domOn k = s.domOn k := by
  unfold State.domOn; rw [Field.getF_of_same h]

theorem State.nextDomain_regs (s : State) : s.nextDomain.regs = s.regs := by
  unfold State.nextDomain
  split
  · split <;> rfl
  · rfl

/-- The field of the domains and the entries that apply to a package. -/
def supplyParts : List Field := [.boot, .ofReg .pwr Reg.PWR_DOM_STATE]

/-- A domain whose record names nothing comes on with what its die does of itself. -/
theorem State.domOn_domainIsOn (record : s.boot.record = []) (k : Domain) (ok : Bool) : (s.domainIsOn k ok).domOn k = true := by
  have base : (((s.dropRegs k).setF cr0 .pwr 0 Reg.PWR_DOM_STATE (setBit (s.getF cr0 .pwr 0 Reg.PWR_DOM_STATE) k)).showLedgerOnly).domOn k =
      true := by
    rw [State.domOn, State.showLedgerOnly, State.getF_setF_of_tag (by decide), State.getF_setF_same,
      bit_mod_two_pow (w := Reg.PWR_DOM_STATE.w) k.isLt, bit_setBit_same]
  unfold State.domainIsOn
  dsimp only
  have left : ∀ {u : State}, Only (Field.outside supplyParts) (((s.dropRegs k).setF cr0 .pwr 0 Reg.PWR_DOM_STATE
      (setBit (s.getF cr0 .pwr 0 Reg.PWR_DOM_STATE) k)).showLedgerOnly) u → u.boot.record = [] := fun hu =>
    (congrArg BootSt.record (hu.keeps (x := .boot) (by decide))).trans record
  generalize ((s.dropRegs k).setF cr0 .pwr 0 Reg.PWR_DOM_STATE (setBit (s.getF cr0 .pwr 0 Reg.PWR_DOM_STATE) k)).showLedgerOnly = u at base left ⊢
  have maps := Only.foldl (domEnds k) (fun (t : State) e h => Only.ite (c := t.hasInst (leDie e) (leBlk e) (leInst e) = true)
    (h.loadFuseMaps e (pt := Field.outside supplyParts) (Allow.outside (by decide)) (Allow.outside (by decide))) h) (Only.refl u)
  generalize (domEnds k).foldl (fun (t : State) e => if t.hasInst (leDie e) (leBlk e) (leInst e) then t.loadFuseMaps e else t) u = v at maps ⊢
  have done {w x : State} (hw : Only (Field.outside supplyParts) u w) (hx : Only (Field.outside [.ofReg .pwr Reg.PWR_DOM_STATE]) w x) :
      x.domOn k = true :=
    (State.domOn_of_same (hx.keeps (by decide)) k).trans ((State.domOn_of_same (hw.keeps (by decide)) k).trans base)
  have links (d : Die) := maps.iklDefaults d (Allow.outside (by decide))
  split
  · split
    · rw [State.applyRecord_nil (left (links _))]
      exact done (links _) ((Only.refl _).mvlOn (hg0 := Allow.outside (by decide)) (hg1 := Allow.outside (by decide))
        (hg2 := Allow.outside (by decide)) (hg3 := Allow.outside (by decide)) (hg4 := Allow.outside (by decide))
        (hg5 := Allow.outside (by decide)) (hg6 := Allow.outside (by decide)) (hg7 := Allow.outside (by decide))
        (hg8 := Allow.outside (by decide)) (hg9 := Allow.outside (by decide)) (hp := Allow.outside (by decide)) ..)
    · rw [State.applyRecord_nil (left maps)]
      exact done maps (Only.refl _)
  · split
    · have frames {c : Die} := Only.foldl (pt := Field.outside supplyParts) (List.range 4) (fun (t : State) (p : Nat) h =>
        h.setF c .ethPort p Reg.ETHP_CTL_MAX_FRAME 9216 0 (Allow.outside (by decide))) ((links c).setF c .tray 0 Reg.TRY_CTL_START_WIN 20 0
        (Allow.outside (by decide)))
      rw [State.applyRecord_nil (left frames)]
      exact done (frames.setF (hp := Allow.outside (by decide)) ..) ((Only.refl _).crxOn (hg0 := Allow.outside (by decide)) (hg1 := Allow.outside (by decide))
        (hg2 := Allow.outside (by decide)) (hg3 := Allow.outside (by decide)) (hg4 := Allow.outside (by decide))
        (hg5 := Allow.outside (by decide)) (hg6 := Allow.outside (by decide)) (hg7 := Allow.outside (by decide))
        (hg8 := Allow.outside (by decide)) (hg9 := Allow.outside (by decide)) (hp := Allow.outside (by decide)) ..)
    · rw [State.applyRecord_nil (left maps)]
      exact done maps (Only.refl _)

theorem does_domainOn {k : Nat} {b : Bool} (ok : Bool) (busy : s.boot.busyDom = some (k, b)) (hk : k < 16) (record : s.boot.record = []) :
    Does (.domainOn ok) s fun t => t.domOn k = true := by
  obtain ⟨u, hu⟩ : ∃ u : State, u = { s with boot := { s.boot with busyDom := none } } := ⟨_, rfl⟩
  refine .intro (t := ((u.domainIsOn (Fin.ofNat 16 k) ok).nextDomain).bootAdvance) ?_ ?_
  · show execDomainOn ok s = _
    rw [hu]
    simp only [execDomainOn, busy]
  · have on := State.domOn_domainIsOn (s := u) (by rw [hu]; exact record) (Fin.ofNat 16 k) ok
    rw [show ((Fin.ofNat 16 k : Domain) : Nat) = k from Nat.mod_eq_of_lt hk] at on
    rw [State.domOn_of_same ((Only.refl _).bootAdvance (hp := Allow.but (by decide))).kept, State.domOn, State.getF, State.nextDomain_regs]
    exact on

theorem does_domainSwitchRequest {w : BitVec 16} (fits : s.x2 = true ∨ w.toNat / 2 ^ 14 % 4 = 0) (mask : domMaskOk w.toNat = true)
    (free : ∀ k ∈ domOrder, s.domOn k = true → bit w.toNat k = false → s.domBusy k = false ∧ s.imageNames k = false) :
    Does (.domainSwitchRequest w) s fun t => t.getF cr0 .pwr 0 Reg.PWR_DOM_ON = w.toNat ∧
      ∀ k < 16, t.domOn k = true → bit w.toNat k = true := by
  have absent : (!s.x2 && w.toNat / 2 ^ 14 % 4 != 0) = false := by
    obtain h | h := fits
    · rw [h]; rfl
    · rw [h, bne_self_eq_false, Bool.and_false]
  obtain ⟨off, hoff⟩ : ∃ off : List Domain, off = domOrder.reverse.filter fun (k : Domain) => s.domOn k && !bit w.toNat k := ⟨_, rfl⟩
  have idle : (off.any fun k => s.domBusy k || s.imageNames k) = false := by
    refine List.any_eq_false.mpr fun k hk => ?_
    rw [hoff, List.mem_filter, List.mem_reverse, Bool.and_eq_true, Bool.not_eq_true'] at hk
    obtain ⟨busy, names⟩ := free k hk.1 hk.2.1 hk.2.2
    rw [busy, names]; decide
  obtain ⟨u, hu⟩ : ∃ u : State, u = (off.foldl (fun (t : State) k => t.domainOff k) (s.setF cr0 .pwr 0 Reg.PWR_DOM_ON w.toNat)).showLedgerOnly :=
    ⟨_, rfl⟩
  refine .intro (t := { u with boot := { u.boot with todo := u.domTodo w.toNat } }.nextDomain) ?_ ⟨?_, fun k hk on => ?_⟩
  · show Host.Outcome.next (s.domRequest w.toNat) = _
    rw [State.domRequest, hu]
    simp only [← hoff, absent, idle, mask, Bool.not_true, Bool.false_eq_true, if_false]
  · rw [State.getF, State.nextDomain_regs]
    show u.getF cr0 .pwr 0 Reg.PWR_DOM_ON = _
    rw [hu, State.showLedgerOnly, State.getF_setF_of_tag (by decide), State.getF_domainsOff (by decide +kernel) (by decide), State.getF_setF_same]
    exact Nat.mod_eq_of_lt w.isLt
  · rw [State.domOn, State.getF, State.nextDomain_regs] at on
    replace on : u.domOn k = true := on
    rw [hu, State.showLedgerOnly, State.domOn_of_same (s := off.foldl _ _) ((Only.refl _).setF (hp := Allow.but (by decide)) ..).kept,
      State.domOn_domainsOff hk, State.domOn, State.getF_setF_of_tag (by decide), Bool.and_eq_true, List.all_eq_true] at on
    obtain ⟨was, stays⟩ := on
    by_contra clear
    have gone : (⟨k, hk⟩ : Domain) ∈ off := by
      rw [hoff, List.mem_filter, List.mem_reverse]
      refine ⟨(by decide : ∀ k : Domain, k ∈ domOrder) _, ?_⟩
      rw [Bool.and_eq_true, Bool.not_eq_true']
      exact ⟨was, Bool.eq_false_of_not_eq_true clear⟩
    exact absurd rfl (of_decide_eq_true (stays _ gone))

/-! ### PERST, HBM training, the start window -/

theorem does_perstDeassert {c : Crown} (width speed : Fin 8) (die : s.hasDie (.cr c) = true) (held : (s.host c).perst = false) :
    Does (.perstDeassert c width speed) s fun t => (t.host c).perst = true ∧
      (s.powered (.cr c) .pci = true → t.isF (.cr c) .pci 0 Reg.PCI_STATUS_LINK_UP = true) := by
  have go : (!s.hasDie (.cr c) || (s.host c).perst) = false := by rw [die, held]; rfl
  cases on : s.powered (.cr c) .pci with
  | false =>
    refine .intro (t := s.setHost c { s.host c with perst := true }) ?_ ⟨congrArg HostSt.perst (State.host_setHost_same ..), nofun⟩
    show execPerstDeassert c width speed s = _
    simp only [execPerstDeassert, go, on, Bool.not_false, Bool.false_eq_true, if_false, if_true]
  | true =>
    refine .intro (t := (s.linkUp c width.val speed.val).setHost c { s.host c with perst := true, detectAt := s.time + 1 }) ?_
      ⟨congrArg HostSt.perst (State.host_setHost_same ..), fun _ => ?_⟩
    · show execPerstDeassert c width speed s = _
      simp only [execPerstDeassert, go, on, Bool.not_true, Bool.false_eq_true, if_false]
    · rw [State.isF_of_same ((Only.refl _).setHost (hp := Allow.but (by decide)) ..).kept, State.linkUp, State.isF_setF_of_tag (by decide),
        State.isF_setF_of_tag (by decide), State.isF_setF_one (by decide)]

/-- The memory of a die that is enabled leaves what the start-up holds. -/
theorem State.boot_enableFn_mem (s : State) (d : Die) (i : Nat) (ok : Bool) : (s.enableFn .mem d i ok).boot = s.boot := by
  refine (?_ : Only (Field.but .boot) s (s.enableFn .mem d i ok)).kept
  have cleared := (Only.refl s).setF d .mem i (fnRegs .mem).refused 0 0 (pt := Field.but .boot) (Allow.but (by decide))
  unfold State.enableFn
  dsimp only
  refine Only.ite ?_ (Only.ite (Only.refl s) (Only.ite ?_ (Only.ite ?_ (Only.ite (Only.refl s) ?_))))
  · exact (Only.refl s).refuseAbsent (hg0 := Allow.but (by decide)) (hg1 := Allow.but (by decide)) (hp := Allow.but (by decide)) ..
  · exact (Only.refl s).refuseAbsent (hg0 := Allow.but (by decide)) (hg1 := Allow.but (by decide)) (hp := Allow.but (by decide)) ..
  · exact (Only.refl s).refuseOff (hg0 := Allow.but (by decide)) (hg1 := Allow.but (by decide)) (hp := Allow.but (by decide)) ..
  · split
    · exact (Only.ite (cleared.testFram (hp := Allow.but (by decide)) ..) cleared).refuse (hg0 := Allow.but (by decide))
        (hg1 := Allow.but (by decide)) (hp := Allow.but (by decide)) ..
    · exact ((cleared.setF (hp := Allow.but (by decide)) ..).setF (hp := Allow.but (by decide)) ..).setDie (hp := Allow.but (by decide)) ..

theorem does_hbmTrainingDone {m : Mv} {k : Fin 2} (on : s.powered (.mv m) .mem = true) (stack : k.val ∈ s.hbmStacks)
    (new : bit s.boot.hbmOk (2 * m.val + k.val) = false) (first : bit s.recov.hbmRecal (2 * m.val + k.val) = false)
    (left : Tab.get 0 s.boot.hbmTries (2 * m.val + k.val) < s.hbmTriesMax) :
    Does (.hbmTrainingDone m k true) s fun t => bit t.boot.hbmOk (2 * m.val + k.val) = true := by
  have go : (!s.powered (.mv m) .mem || !s.hbmStacks.contains k.val || bit s.boot.hbmOk (2 * dieCode (.mv m) + k.val) ||
      decide (s.hbmTriesMax ≤ Tab.get 0 s.boot.hbmTries (2 * dieCode (.mv m) + k.val))) = false := by
    rw [on, List.contains_iff_mem.mpr stack, show dieCode (.mv m) = m.val from rfl, new, decide_eq_false (Nat.not_le.mpr left)]; rfl
  obtain ⟨u, hu⟩ : ∃ u : State, u = ({ s with boot := { s.boot with hbmOk := setBit s.boot.hbmOk (2 * m.val + k.val) } } : State).setF
      (.mv m) .mem 0 Reg.MEM_STATUS_TRAINED (setBit (s.getF (.mv m) .mem 0 Reg.MEM_STATUS_TRAINED) k.val) := ⟨_, rfl⟩
  refine .intro (t := (if u.hbmTrained (.mv m) then (u.placeFw (.mv m)).recEnable .mem (.mv m) 0 else u).bootAdvance) ?_ ?_
  · show execHbmTrainingDone m k true s = _
    rw [execHbmTrainingDone, if_neg (by rw [show dieCode (.mv m) = m.val from rfl, first]; exact Bool.false_ne_true), if_neg (by
      rw [go]; exact Bool.false_ne_true), if_pos rfl, hu]
    rfl
  · have boot : (if u.hbmTrained (.mv m) then (u.placeFw (.mv m)).recEnable .mem (.mv m) 0 else u).boot = u.boot := by
      split
      · unfold State.recEnable
        split
        · exact State.boot_enableFn_mem ..
        · rfl
      · rfl
    generalize (if u.hbmTrained (.mv m) then (u.placeFw (.mv m)).recEnable .mem (.mv m) 0 else u) = v at boot ⊢
    have ok : v.bootAdvance.boot.hbmOk = u.boot.hbmOk := by
      rw [← boot]
      obtain h | h := v.bootAdvance_boot <;> rw [h]
    rw [ok, hu]
    exact bit_setBit_same ..

theorem does_startWindowEnd {c : Crown} (tray : (s.die (.cr c)).trayAt ≠ 0) (open_ : s.isF (.cr c) .tray 0 Reg.TRY_STATUS_WIN_DONE = false)
    (due : (s.die (.cr c)).trayAt - 1 + s.startWin c ≤ s.time) (on : s.powered (.cr c) .tray = true) (alone : s.boot.waitLoad = false) :
    Does (.startWindowEnd c) s fun t => t.isF (.cr c) .tray 0 Reg.TRY_STATUS_WIN_DONE = true := by
  have go : ((s.die (.cr c)).trayAt == 0 || s.isF (.cr c) .tray 0 Reg.TRY_STATUS_WIN_DONE ||
      decide (s.time < (s.die (.cr c)).trayAt - 1 + s.startWin c) || !s.powered (.cr c) .tray) = false := by
    rw [beq_eq_false_iff_ne.mpr tray, open_, decide_eq_false (Nat.not_lt.mpr due), on]; rfl
  unfold Does
  show ∃ t, execStartWindowEnd c s = .next t ∧ _
  simp only [execStartWindowEnd, go, Bool.false_eq_true, if_false]
  have logged (l : List (Fin 8)) : (l.foldl (fun (t : State) n => t.logLink (.tray n) 0xB003) s).boot = s.boot :=
    (Only.foldl (pt := Field.but .boot) l (fun _ n g => g.logLink (.tray n) 0xB003 [] 0xFF (Allow.but (by decide)) (Allow.but (by decide)))
      (Only.refl s)).kept
  split
  case isTrue wait =>
    refine absurd wait.2 ?_
    rw [State.setF_boot, State.setF_boot, State.setF_boot, logged, alone]
    exact Bool.false_ne_true
  case isFalse => exact ⟨_, rfl, State.isF_setF_one (by decide)⟩

theorem does_restart (halted : s.phase = 15) (cause : s.getF cr0 .boot 0 Reg.BOOT_HALT_HALT_RC ≠ 0x2008) :
    Does .restart s fun t => t.phase = 2 ∧ t.topo = [] ∧ t.boot.since = s.time := by
  refine .intro (t := s.restart) ?_ ?_
  · refine congrArg Host.Outcome.next (if_neg ?_)
    rw [halted, beq_eq_false_iff_ne.mpr cause]
    exact Bool.false_ne_true
  · unfold State.restart
    dsimp only
    generalize (List.range 3).foldl (fun (t : State) i => t.setF cr0 .sec 0 Reg.SEC_VERSION 0 (4 * i)) _ = u
    exact ⟨State.phase_setPhase (p := 2) u (by decide), rfl, rfl⟩

/-- Settles O35, one lemma for each clause. -/
theorem startUpCommandsComplete : Obligations.StartUpCommandsComplete := by
  unfold Obligations.StartUpCommandsComplete
  exact ⟨fun _ _ => does_flashDiscover, fun _ copyB _ seeds fw1 seeds1 ports _ => does_flashPass copyB seeds fw1 seeds1 ports,
    fun _ _ => does_flashPassResume, fun _ _ ok _ => does_domainOn ok, fun _ _ => does_domainSwitchRequest,
    fun _ width speed _ => does_perstDeassert width speed, fun _ _ _ => does_hbmTrainingDone, fun _ _ => does_startWindowEnd, fun _ => does_restart⟩

end Sys2Proof.Machine
end

section
/-! Images: loaded, activated and unloaded, and the package reset and back in service (R406 to R416, R457 to R466). -/

namespace Sys2Proof.Machine

variable {s t : State}

theorem does_imageLoad {img : Image} (ldgOk : Bool) (phase : s.phase = 9) (new : s.boot.loaded = false) (hbm : s.recov.hbmRecal = 0)
    (good : s.imageFault img = none) (peers : s.peersKnown = true) (alone : img.packages.length ≤ 1) (level : (s.dom 4).level ≠ 4) :
    Does (.imageLoad img ldgOk) s fun t => ∃ u v : State, u.boot.loaded = true ∧ u.boot.hash = oBodyHash s.imgObject.2 ∧
      v = (((u.crowns.foldl (fun (x : State) c => x.recEnable .fus (.cr c) 0) u).recEnable .ldg cr0 0 ldgOk).endStep 10).holdSuspects ∧
      t = v.setAct (turnAfter (8 * turnBeats) (v.beat cr0) / turnBeats) := by
  have missing : s.missingBad img = false := by
    rw [State.missingBad, decide_eq_false (Nat.not_lt.mpr alone), Bool.false_and]
  have covered : ((s.dom 4).level == 4 && s.noCover img) = false := by rw [beq_eq_false_iff_ne.mpr level, Bool.false_and]
  refine .intro (t := s.loadImage img ldgOk) ?_ ⟨_, _, ?_, ?_, rfl, if_pos alone⟩
  · show execImageLoad img ldgOk s = _
    simp only [execImageLoad, phase, new, hbm, good, peers, missing, covered, bne_self_eq_false, Bool.or_self, Bool.not_true,
      Bool.false_eq_true, if_false]
  · rfl
  · rfl

theorem does_imageLoadHost (phase : s.phase = 8) (service : s.pins.oos = false) (on : s.isF cr0 .boot 0 Reg.BOOT_CTL_ENABLE = true)
    (range : s.imgRangeOk = true) : Does .imageLoadHost s fun t => t.phase = 9 ∧ t.boot.loadSrc = 1 := by
  refine .intro (t := State.setPhase { s with boot := { s.boot with loadSrc := 1 } } 9) ?_ ⟨State.phase_setPhase _ (by decide), rfl⟩
  show Host.Outcome.next s.loadWrite = _
  simp only [State.loadWrite, phase, service, on, range, Nat.reduceBEq, bne_self_eq_false, Bool.or_self, Bool.not_true, Bool.false_eq_true,
    if_false]

theorem does_imageUnload (phase : s.phase = 10) :
    Does .imageUnload s fun t => t.boot.stopTurn = turnAfter (8 * turnBeats) (s.beat cr0) / turnBeats + 1 := by
  refine .intro (congrArg Host.Outcome.next (if_neg ?_)) rfl
  rw [phase]
  exact Bool.false_ne_true

theorem does_imageStop (phase : s.phase = 10) (stop : s.boot.stopTurn ≠ 0) (turn : s.atTurn cr0 = true)
    (due : s.boot.stopTurn - 1 ≤ s.turn cr0) :
    Does .imageStop s fun t => t.phase = 8 ∧ t.boot.image = none ∧ t.boot.loaded = false ∧ t.mem = s.mem := by
  have go : (s.phase == 10 && s.boot.stopTurn != 0 && s.atTurn cr0 && decide (s.boot.stopTurn - 1 ≤ s.turn cr0)) = true := by
    rw [phase, bne_iff_ne.mpr stop, turn, decide_eq_true due]; rfl
  refine .intro (t := s.dropImage.setPhase 8) ?_ ⟨State.phase_setPhase (p := 8) _ (by decide), ?_⟩
  · show execImageStop s = _
    rw [execImageStop, if_pos go]
  have same : Field.same .mem s s.dropImage := ((Only.refl s).dropImage (pt := Field.but .mem) (Allow.but (by decide))
    (Allow.but (by decide)) (Allow.but (by decide)) (Allow.but (by decide)) (Allow.but (by decide)) (Allow.but (by decide))).kept
  have boot (u : State) : u.showReserve.boot = u.boot := rfl
  refine ⟨?_, ?_, (State.setF_mem ..).trans same⟩ <;> rw [State.setPhase, State.setF_boot, State.dropImage, boot]

theorem State.reports_takeLoadReport (s : State) (pkg hash : Nat) : (pkg, hash, s.beat cr0) ∈ (s.takeLoadReport pkg hash).boot.reports := by
  have armed (u : State) (turn : Nat) : (u.armActivation turn).boot.reports = u.boot.reports := by
    exact congrArg BootSt.reports ((Only.refl u).armActivation (pt := Field.but .boot) turn (Allow.but (by decide))).kept
  have last {l : List (Nat × Nat × Nat)} : (pkg, hash, s.beat cr0) ∈ l ++ [(pkg, hash, s.beat cr0)] :=
    List.mem_append_right _ (List.mem_singleton.mpr rfl)
  have either {p : Prop} [Decidable p] {a b : State} (h : (pkg, hash, s.beat cr0) ∈ a.boot.reports)
      (g : (pkg, hash, s.beat cr0) ∈ b.boot.reports) : (pkg, hash, s.beat cr0) ∈ (if p then a else b).boot.reports := by
    split
    · exact h
    · exact g
  exact either (by rw [armed]; exact last) last

theorem does_loadReport {pkg : Fin 16} {hash : BitVec 384} (leads : s.isFollower = false) (phase : s.phase = 9) :
    Does (.loadReport pkg hash) s fun t => (pkg.val, hash.toNat, s.beat cr0) ∈ t.boot.reports := by
  refine .intro (t := s.takeLoadReport pkg.val hash.toNat) (if_neg ?_) (s.reports_takeLoadReport ..)
  rw [leads, phase]
  exact Bool.false_ne_true

theorem does_imageActivate (phase : s.phase = 9) (loaded : s.boot.loaded = true) (act : s.boot.actTurn ≠ 0) (turn : s.atTurn cr0 = true)
    (due : s.boot.actTurn - 1 ≤ s.turn cr0) (timely : s.overdue 4 = false) :
    Does .imageActivate s fun t => ∃ u : State, u.phase = 10 ∧ u.boot.actTurn = 0 ∧
      t = (u.imageFns.foldl (fun (x : State) f => x.enableFn f.1 f.2 0 true) u).startContexts := by
  have go : (s.phase == 9 && s.boot.loaded && s.boot.actTurn != 0 && s.atTurn cr0 && decide (s.boot.actTurn - 1 ≤ s.turn cr0)) = true := by
    rw [phase, loaded, bne_iff_ne.mpr act, turn, decide_eq_true due]; rfl
  unfold Does
  show ∃ t, execImageActivate s = .next t ∧ _
  simp only [execImageActivate, go, timely, if_true, Bool.false_eq_true, if_false]
  generalize s.dieList.foldl (fun (t : State) d => t.clearNoFit d) s.freeSc = v
  refine ⟨_, rfl, _, ?_, ?_, rfl⟩
  · rw [State.phase_of_same ((Only.refl _).endStep (hp := Allow.but (by decide)) ..).kept]
    exact State.phase_setPhase _ (by decide)
  · rfl

theorem does_chipReset (level : (s.dom 4).level = 4) (step : (s.dom 4).step = 3) (service : (s.dom 4).oos = false)
    (timely : s.overdue 4 = false) (late : 8 ≤ s.phase) (runs : s.phase ≠ 15) (image : s.boot.image ≠ none) :
    Does .chipReset s fun t => t.phase = 9 ∧ (t.dom 4).step = 4 ∧ t.boot.loaded = false ∧ t.recov.hbmRecal = t.boot.hbmOk := by
  have covers : s.boot.image.isNone = false := by
    cases image_ : s.boot.image with
    | none => exact absurd image_ image
    | some i => rfl
  obtain ⟨u, hu⟩ : ∃ u, u = (s.chipReset (s.dom 4).cause).bumpF cr0 .rcv 0 Reg.RCV_OOS_TOTAL := ⟨_, rfl⟩
  have recal : u.recov.hbmRecal = u.boot.hbmOk := by
    have cleared (x : State) : (if (s.dom 4).cause == 6 then x.clearBeatValid else x).recov = x.recov ∧
        (if (s.dom 4).cause == 6 then x.clearBeatValid else x).boot = x.boot := by
      have same := Only.ite (c := ((s.dom 4).cause == 6) = true) ((Only.refl x).clearBeatValid (pt := Field.outside [.recov, .boot])
        (Allow.outside (by decide))) (Only.refl x)
      exact ⟨same.keeps (x := .recov) (by decide), same.keeps (x := .boot) (by decide)⟩
    have counted := (Only.refl (s.chipReset (s.dom 4).cause)).bumpF cr0 .rcv 0 Reg.RCV_OOS_TOTAL 0 (pt := Field.outside [.recov, .boot])
      (Allow.outside (by decide))
    rw [hu, counted.keeps (x := .recov) (by decide), counted.keeps (x := .boot) (by decide), State.chipReset, (cleared _).1, (cleared _).2]
  refine .intro (t := (State.setDom { u with boot := { u.boot with loaded := false, reports := [], actTurn := 0, rearm := 0 } } 4
    { s.dom 4 with step := 4 }).setPhase 9) ?_ ⟨State.phase_setPhase (p := 9) _ (by decide), ?_, rfl, recal⟩
  · show execChipReset s = _
    simp only [execChipReset, level, step, service, timely, decide_eq_false (Nat.not_lt.mpr late), beq_eq_false_iff_ne.mpr runs, covers,
      bne_self_eq_false, Bool.or_self, Bool.false_eq_true, if_false, hu]
  · exact congrArg RcvDom.step (State.dom_setDom_same ..)

theorem does_oosClear (out : s.pins.oos = true) : Does .oosClear s fun t => ∃ u v : State, u.pins.oos = false ∧
      u.isF cr0 .rcv 0 Reg.RCV_STATUS_OOS = false ∧ v = mvDies.foldl (fun (x : State) d => x.resetMvc d) (u.chipReset 0) ∧
      t = v.trayPorts.foldl (fun (x : State) n => if x.pf n Reg.TRYP_PORT_CTL_PEER_VALID == 1 then
        x.enableFn .port (leDie (.tray n)) (leInst (.tray n)) true else x) v := by
  obtain ⟨u, hu⟩ : ∃ u : State, u = (State.setF { s with pins := { s.pins with oos := false } } cr0 .rcv 0 Reg.RCV_STATUS_OOS 0).setHistory [] := ⟨_, rfl⟩
  have same := (Only.refl (State.setF { s with pins := { s.pins with oos := false } } cr0 .rcv 0 Reg.RCV_STATUS_OOS 0)).setHistory []
    (pt := Field.outside [.pins, .ofReg .rcv Reg.RCV_STATUS_OOS]) (Allow.outside (by decide))
  rw [← hu] at same
  obtain ⟨v, hv⟩ : ∃ v : State, v = State.nextDomain { u with boot := { u.boot with todo := u.boot.todo ++ u.domTodo 0xF } } := ⟨_, rfl⟩
  have sw := (Only.refl ({ u with boot := { u.boot with todo := u.boot.todo ++ u.domTodo 0xF } } : State)).nextDomain
    (pt := Field.outside [.pins, .ofReg .rcv Reg.RCV_STATUS_OOS]) (Allow.outside (by decide))
  rw [← hv] at sw
  refine .intro (t := s.oosClear) rfl ⟨v, _, ?_, ?_, rfl, ?_⟩
  · rw [sw.keeps (x := .pins) (by decide)]
    exact congrArg Pins.oos (same.keeps (x := .pins) (by decide))
  · rw [State.isF_of_same (sw.keeps (by decide))]
    exact (State.isF_of_same (same.keeps (by decide)) ..).trans State.isF_setF_zero
  · rw [State.oosClear, out, hv, hu]
    rfl

/-- Settles O36, one lemma for each clause. -/
theorem imageCommandsComplete : Obligations.ImageCommandsComplete := by
  unfold Obligations.ImageCommandsComplete
  exact ⟨fun _ ldgOk _ => does_imageLoad ldgOk, fun _ => does_imageLoadHost, fun _ => does_imageUnload, fun _ => does_imageStop,
    fun _ _ _ leads phase _ => does_loadReport leads phase, fun _ => does_imageActivate, fun _ => does_chipReset, fun _ => does_oosClear⟩

end Sys2Proof.Machine
end

section
/-! Data reaches the die that read it, a fence hears its destinations and asks them again (R246, R255 to R258, R269). -/

namespace Sys2Proof.Machine

variable {s t z : State}

/-! ### The requests that data answers -/

/-- A read's data takes its request off the die's list. -/
def State.dropRead (s : State) (d : Die) (cmd : List Byte) : State :=
  { s with rdReqs := Tab.set [] s.rdReqs (dieCode d) ((Tab.get [] s.rdReqs (dieCode d)).eraseP (ReadReq.answeredBy cmd)) }

theorem State.dropRead_eq {d : Die} {cmd : List Byte} {rs : List ReadReq} (one : Tab.get [] s.rdReqs (dieCode d) = rs) :
    { s with rdReqs := Tab.set [] s.rdReqs (dieCode d) (rs.eraseP (ReadReq.answeredBy cmd)) } = s.dropRead d cmd := by subst one; rfl

theorem bit_zero_num (i : Nat) : bit 0 i = false := by simp [bit]

theorem State.dropRead_only {d : Die} {cmd : List Byte} {r : ReadReq} (one : Tab.get [] s.rdReqs (dieCode d) = [r])
    (mine : r.answeredBy cmd = true) : Tab.get [] (s.dropRead d cmd).rdReqs (dieCode d) = [] := by
  show Tab.get [] (Tab.set [] s.rdReqs (dieCode d) _) _ = _
  rw [Tab.get_set_same, one, List.eraseP_cons_of_pos mine]

theorem ReadReq.find_answeredBy {cmd : List Byte} {r : ReadReq} (mine : r.answeredBy cmd = true) :
    [r].find? (ReadReq.answeredBy cmd) = some r := List.find?_cons_of_pos mine

/-- What the data of a read does at the die that asked for it. -/
theorem exec_readData {d : Die} {cmd : List Byte} {data : List (List Byte)} {r : ReadReq} (one : Tab.get [] s.rdReqs (dieCode d) = [r])
    (mine : r.answeredBy cmd = true) (inner : r.host = false) (running : s.fencing d r.eng r.id = false) (clean : cmdA cmd = 0) :
    execReadData d cmd data s = .next (match r.dst with
      | some q => (s.dropRead d cmd).deliver d r.ctx r.target q (writeData r.target r.len data) fun g => bit (cmdA cmd) (g - r.target / 64)
      | none => (s.dropRead d cmd).setEng d r.eng { s.eng d r.eng with
          got := memPut (s.eng d r.eng).got r.target (writeData r.target r.len data) }) := by
  have found := ReadReq.find_answeredBy mine
  unfold ReadReq.answeredBy at found
  unfold execReadData
  simp only [one, found, inner, running, Bool.false_eq_true, if_false, clean, bne_self_eq_false]
  rw [← State.dropRead_eq one]
  cases r.dst <;> rfl

theorem does_readData_host {c : Crown} {cmd : List Byte} {data : List (List Byte)} {r : ReadReq}
    (one : Tab.get [] s.rdReqs (dieCode (.cr c)) = [r]) (tag : r.tag = cmdTag cmd) (target : r.target = cmdTarget cmd)
    (outer : r.host = true) (cmdOuter : cmdHost cmd = true)
    (inTime : ∀ q ∈ (s.host c).reads, q.id = r.id → s.time ≤ q.at_ + s.rdLimit c * 1600) :
    Does (.readData (.cr c) cmd data) s fun t => Tab.get [] t.rdReqs (dieCode (.cr c)) = [] ∧
      (t.host c).lastCpl = some (.data r.id (cmdA cmd != 0) (writeData r.target r.len data)) := by
  have mine : r.answeredBy cmd = true := by
    unfold ReadReq.answeredBy
    rw [tag, target, outer, cmdOuter]; simp
  have found := ReadReq.find_answeredBy mine
  unfold ReadReq.answeredBy at found
  have notLate : ((s.dropRead (.cr c) cmd).host c).reads.any (fun q => q.id == r.id &&
      decide (q.at_ + (s.dropRead (.cr c) cmd).rdLimit c * 1600 < (s.dropRead (.cr c) cmd).time)) = false := by
    rw [List.any_eq_false]
    intro q hq
    have limit : q.id = r.id → s.time ≤ q.at_ + s.rdLimit c * 1600 := inTime q hq
    have same : q.at_ + (s.dropRead (.cr c) cmd).rdLimit c * 1600 < (s.dropRead (.cr c) cmd).time ↔
      q.at_ + s.rdLimit c * 1600 < s.time := Iff.rfl
    simp only [Bool.and_eq_true, beq_iff_eq, decide_eq_true_eq, same, not_and, not_lt]
    exact limit
  refine .intro (t := (s.dropRead (.cr c) cmd).completeRead c r.id (cmdA cmd != 0) (writeData r.target r.len data)) ?_ ⟨?_, ?_⟩
  · show execReadData (.cr c) cmd data s = _
    unfold execReadData
    simp only [one, found, outer, if_true]
    rw [← State.dropRead_eq one]; rfl
  · unfold State.completeRead
    rw [if_neg (by rw [notLate]; exact Bool.false_ne_true)]
    exact State.dropRead_only one mine
  · unfold State.completeRead
    rw [if_neg (by rw [notLate]; exact Bool.false_ne_true), State.host_setHost_same]

theorem ReadReq.answeredBy_inner {cmd : List Byte} {r : ReadReq} (tag : r.tag = cmdTag cmd) (target : r.target = cmdTarget cmd)
    (inner : r.host = false) (cmdInner : cmdHost cmd = false) (ctx : r.ctx = cmdCtx cmd) : r.answeredBy cmd = true := by
  unfold ReadReq.answeredBy
  rw [tag, target, inner, cmdInner, ctx]; simp

/-- A granule that arrives for an address of the die itself is stored there. -/
theorem State.deliver_granule (s : State) (d : Die) (ctx : Nat) {src a : Nat} {l : List Byte} {bad : Nat → Bool} (own : s.ownAddr d a = true)
    (aligned : a % 64 = 0) (src0 : src % 64 = 0) (noCounter : counterOf (a % 2 ^ 48) = none) (len : l.length = 64)
    (good : bad (src / 64) = false) : s.deliver d ctx src (.mem a) l bad = s.wrGranule (a % 2 ^ 48) l := by
  have here : (a + (src - src)) % 2 ^ 48 = a % 2 ^ 48 := by rw [Nat.sub_self, Nat.add_zero]
  unfold State.deliver
  simp only [own, if_true, pieces_granule src0 len, List.foldl_cons, List.foldl_nil, here, good]
  unfold State.putLocal
  rw [noCounter]
  exact s.localWrite_granule d (by omega) len

theorem State.rdBytes_wrGranule_of_length (s : State) {pa : Nat} {l : List Byte} (len : l.length = 64) :
    (s.wrGranule pa l).rdBytes pa 64 = l := by
  have whole := s.rdBytes_wrGranule pa (b := []) len (by rwa [List.append_nil])
  rwa [List.append_nil] at whole

theorem does_readData_mem {m : Mv} {cmd : List Byte} {data : List (List Byte)} {r : ReadReq} {a : Nat}
    (one : Tab.get [] s.rdReqs (dieCode (.mv m)) = [r]) (mine : r.answeredBy cmd = true) (inner : r.host = false)
    (running : s.fencing (.mv m) r.eng r.id = false) (dst : r.dst = some (.mem a)) (own : s.ownAddr (.mv m) a = true)
    (aligned : a % 64 = 0) (noCounter : counterOf (a % 2 ^ 48) = none) (clean : cmdA cmd = 0) (src : r.target % 64 = 0)
    (len : (writeData r.target r.len data).length = 64) :
    Does (.readData (.mv m) cmd data) s fun t => Tab.get [] t.rdReqs (dieCode (.mv m)) = [] ∧
      t.rdBytes (a % 2 ^ 48) 64 = writeData r.target r.len data := by
  refine .intro (t := (s.dropRead (.mv m) cmd).wrGranule (a % 2 ^ 48) (writeData r.target r.len data)) ?_
    ⟨State.dropRead_only one mine, State.rdBytes_wrGranule_of_length _ len⟩
  refine (exec_readData one mine inner running clean).trans ?_
  rw [dst]
  exact congrArg Host.Outcome.next (State.deliver_granule (s.dropRead (.mv m) cmd) _ _ own aligned src noCounter len
    (by rw [clean]; exact bit_zero_num _))

theorem does_readData_got {m : Mv} {cmd : List Byte} {data : List (List Byte)} {r : ReadReq}
    (one : Tab.get [] s.rdReqs (dieCode (.mv m)) = [r]) (mine : r.answeredBy cmd = true) (inner : r.host = false)
    (running : s.fencing (.mv m) r.eng r.id = false) (dst : r.dst = none) (clean : cmdA cmd = 0) :
    Does (.readData (.mv m) cmd data) s fun t => Tab.get [] t.rdReqs (dieCode (.mv m)) = [] ∧
      (t.eng (.mv m) r.eng).got = memPut (s.eng (.mv m) r.eng).got r.target (writeData r.target r.len data) := by
  refine .intro (t := (s.dropRead (.mv m) cmd).setEng (.mv m) r.eng { s.eng (.mv m) r.eng with
    got := memPut (s.eng (.mv m) r.eng).got r.target (writeData r.target r.len data) }) ?_ ⟨State.dropRead_only one mine, ?_⟩
  · refine (exec_readData one mine inner running clean).trans ?_
    rw [dst]
  · rw [State.eng_setEng_same]

/-! ### Fences -/

theorem State.fence_fenceSeen (s : State) (o : Nat) (f : FenceSt) (dest fails : Nat) :
    ∃ g, (s.fenceSeen o f dest fails).fence o = some g ∧ g.left = f.left.filter (· != dest) ∧ g.kind = f.kind :=
  ⟨_, State.fence_setFence_same .., rfl, rfl⟩

theorem State.fenceCheck_left {d : Die} {ctx : Nat} {host : Bool} {f : FenceSt} (open_ : s.fence (issuer d ctx host) = some f)
    {x : Nat} (left : x ∈ f.left) : s.fenceCheck d ctx host = s := by
  have asked : (f.left == [] && f.kind != 3) = false := by
    rw [beq_false_of_ne (List.ne_nil_of_mem left)]; rfl
  unfold State.fenceCheck
  simp only [open_, asked, Bool.false_eq_true, if_false]

/-- A fence that waits for no destination ends. -/
theorem State.fence_fenceCheck {d : Die} {ctx : Nat} {f : FenceSt} (open_ : s.fence (issuer d ctx false) = some f)
    (left : f.left = []) (kind : f.kind = 0) : (s.fenceCheck d ctx false).fence (issuer d ctx false) = none := by
  have go : (f.left == [] && f.kind != 3) = true := by rw [left, kind]; rfl
  have plain : (f.kind == 1) = false := by rw [kind]; rfl
  unfold State.fenceCheck
  simp only [open_, go, if_true]
  unfold State.fenceDone
  simp only [Bool.false_eq_true, if_false, plain]
  generalize State.setF _ _ _ _ _ _ _ = u
  have closed := u.fence_setFence_same (issuer d ctx false) none
  split
  case h_1 x _ =>
    have kept : Only (Field.but .fences) (u.setFence (issuer d ctx false) none) (((u.setFence (issuer d ctx false) none).finishDesc d
        x).freeEngine d f.eng ctx) :=
      ((Only.refl _).finishDesc (hg0 := Allow.but (by decide)) (hp := Allow.but (by decide)) ..).freeEngine
        (hp := Allow.but (by decide)) ..
    rw [State.fence_of_same kept.kept, closed]
  case h_2 => exact closed

/-- A destination that heard as many messages as were issued to it leaves the fence. -/
theorem exec_fenceResp {d : Die} {cmd : List Byte} {f : FenceSt} {dest : Nat} (inner : cmdHost cmd = false)
    (open_ : s.fence (issuer d (cmdCtx cmd) false) = some f) (here : cmdTarget cmd / 2 ^ 48 * 8 + cmdTarget cmd / 2 ^ 45 % 8 = dest)
    (left : dest ∈ f.left) (epoch : cmdEpoch cmd = f.old)
    (heard : cmdA cmd % 2 ^ 32 = Tab.get 0 s.issued (issKey (issuer d (cmdCtx cmd) false) f.old dest)) :
    execFenceResp d cmd s = .next ((s.fenceSeen (issuer d (cmdCtx cmd) false) f dest (cmdA cmd / 2 ^ 32)).fenceCheck d (cmdCtx cmd) false) := by
  have go : (decide (dest ∈ f.left) && cmdEpoch cmd == f.old &&
      cmdA cmd % 2 ^ 32 == Tab.get 0 s.issued (issKey (issuer d (cmdCtx cmd) false) f.old dest)) = true := by
    rw [epoch, heard, decide_eq_true left, beq_self_eq_true, beq_self_eq_true]; rfl
  unfold execFenceResp
  simp only [inner, open_, here, go, if_true, Bool.false_eq_true, if_false]

theorem does_fenceResp_left {d : Die} {cmd : List Byte} {f : FenceSt} {dest x : Nat} (inner : cmdHost cmd = false)
    (open_ : s.fence (issuer d (cmdCtx cmd) false) = some f) (here : cmdTarget cmd / 2 ^ 48 * 8 + cmdTarget cmd / 2 ^ 45 % 8 = dest)
    (left : dest ∈ f.left) (other : x ∈ f.left) (ne : x ≠ dest) (epoch : cmdEpoch cmd = f.old)
    (heard : cmdA cmd % 2 ^ 32 = Tab.get 0 s.issued (issKey (issuer d (cmdCtx cmd) false) f.old dest)) :
    Does (.fenceResp d cmd) s fun t => ∃ g, t.fence (issuer d (cmdCtx cmd) false) = some g ∧ g.left = f.left.filter (· != dest) := by
  obtain ⟨g, hg, hleft, -⟩ := s.fence_fenceSeen (issuer d (cmdCtx cmd) false) f dest (cmdA cmd / 2 ^ 32)
  have still : x ∈ g.left := by rw [hleft]; exact List.mem_filter.mpr ⟨other, bne_iff_ne.mpr ne⟩
  refine .intro (exec_fenceResp inner open_ here left epoch heard) ?_
  rw [State.fenceCheck_left hg still]
  exact ⟨g, hg, hleft⟩

theorem does_fenceResp_last {d : Die} {cmd : List Byte} {f : FenceSt} {dest : Nat} (inner : cmdHost cmd = false)
    (open_ : s.fence (issuer d (cmdCtx cmd) false) = some f) (here : cmdTarget cmd / 2 ^ 48 * 8 + cmdTarget cmd / 2 ^ 45 % 8 = dest)
    (last : f.left = [dest]) (kind : f.kind = 0) (epoch : cmdEpoch cmd = f.old)
    (heard : cmdA cmd % 2 ^ 32 = Tab.get 0 s.issued (issKey (issuer d (cmdCtx cmd) false) f.old dest)) :
    Does (.fenceResp d cmd) s fun t => t.fence (issuer d (cmdCtx cmd) false) = none := by
  obtain ⟨g, hg, hleft, hkind⟩ := s.fence_fenceSeen (issuer d (cmdCtx cmd) false) f dest (cmdA cmd / 2 ^ 32)
  refine .intro (exec_fenceResp inner open_ here (last ▸ List.mem_singleton.mpr rfl) epoch heard)
    (State.fence_fenceCheck hg ?_ (hkind.trans kind))
  rw [hleft, last, List.filter_cons_of_neg (by rw [bne_self_eq_false]; exact Bool.false_ne_true)]
  rfl

theorem does_fenceProbeRetry {d : Die} {ctx : Fin 33} {f : FenceSt} (open_ : s.fence (issuer d ctx (ctx.val == 32)) = some f)
    (due : f.sentAt + 64 ≤ s.time) :
    Does (.fenceProbeRetry d ctx) s fun t => t.fence (issuer d ctx (ctx.val == 32)) = some { f with sentAt := s.time } := by
  refine .intro (t := (s.setFence (issuer d ctx (ctx.val == 32)) (some { f with sentAt := s.time })).sendProbes d ctx.val (ctx.val == 32) f) ?_ ?_
  · show execFenceProbeRetry d ctx s = _
    unfold execFenceProbeRetry
    simp only [open_, due, if_true]
  · rw [State.fence_of_same ((Only.refl _).sendProbes (pt := Field.but .fences) d ctx.val (ctx.val == 32) f (Allow.but (by decide))).kept,
      State.fence_setFence_same]

/-- Settles O19, one lemma for each clause. -/
theorem fenceCommandsComplete : Obligations.FenceCommandsComplete :=
  ⟨fun _ _ _ _ _ one tag target outer cmdOuter inTime => does_readData_host one tag target outer cmdOuter inTime,
    fun _ _ _ _ _ _ one tag target inner cmdInner ctx running dst own aligned noCounter clean src len =>
      does_readData_mem one (ReadReq.answeredBy_inner tag target inner cmdInner ctx) inner running dst own aligned noCounter clean src len,
    fun _ _ _ _ _ one tag target inner cmdInner ctx running dst clean =>
      does_readData_got one (ReadReq.answeredBy_inner tag target inner cmdInner ctx) inner running dst clean,
    fun _ _ _ _ _ _ inner open_ here left other ne epoch heard => does_fenceResp_left inner open_ here left other ne epoch heard,
    fun _ _ _ _ _ inner open_ here last kind epoch heard => does_fenceResp_last inner open_ here last kind epoch heard,
    fun _ _ _ _ open_ due => does_fenceProbeRetry open_ due⟩

end Sys2Proof.Machine
end

section
/-! Host accesses through `BAR2` and the reads of host memory that the package makes (R267 to R272). -/

namespace Sys2Proof.Machine

variable {s t z : State}

theorem State.host_of_same (h : Field.same .hosts s t) (c : Crown) : t.host c = s.host c := by
  unfold State.host; rw [show t.hosts = s.hosts from h]

/-! ### Messages that leave the die -/

/-- The flits of a message as its link end queues them. -/
def ucFlits (chan sel : Nat) (flits : List (List Byte)) : List UcFlit :=
  (List.range flits.length).map fun i => ⟨chan, i == 0, i + 1 == flits.length, sel, flits.getD i [], 0⟩

theorem ucFlits_cons (chan sel : Nat) (f : List Byte) (fs : List (List Byte)) :
    ∃ h rest, ucFlits chan sel (f :: fs) = h :: rest ∧ h.som = true ∧ h.payload = f := by
  unfold ucFlits
  rw [List.length_cons, List.range_succ_eq_map, List.map_cons]
  exact ⟨_, _, rfl, rfl, rfl⟩

theorem State.ucq_sendMsg {d o : Die} {pkg chan sel : Nat} {flits : List (List Byte)} {e : LinkEnd} (way : s.route d pkg o = some e) :
    Tab.get [] ((s.sendMsg d pkg o chan sel flits).link e).ucq chan = Tab.get [] (s.link e).ucq chan ++ ucFlits chan sel flits := by
  unfold State.sendMsg
  simp only [way]
  unfold State.queueMsg
  simp only [State.link_setLink_same, Tab.get_set_same]
  rfl

/-! ### Host writes -/

/-- Bytes that do not cross a 4 KiB boundary are one message. -/
theorem pieces_one {g a : Nat} {l : List Byte} (ne : l ≠ []) (fits : a % g + l.length ≤ g) : pieces g a l = [(a, l)] := by
  obtain ⟨b, r, rfl⟩ := List.exists_cons_of_ne_nil ne
  have short : (b :: r).length ≤ g - a % g := by omega
  rw [pieces, cutAt, List.take_of_length_le short, List.drop_of_length_le short]
  · rfl
  · exact List.cons_ne_nil _ _

theorem State.post_one (s : State) (d : Die) (ctx : Nat) (host : Bool) {a : Nat} {l : List Byte} (ne : l ≠ [])
    (fits : a % 4096 + l.length ≤ 4096) : s.post d ctx host a l = s.postOne d ctx host a l := by
  rw [State.post, pieces_one ne fits]; rfl

theorem State.nextTag_postOne (s : State) (d : Die) (ctx : Nat) (host : Bool) (a : Nat) (l : List Byte) :
    Tab.get 0 (s.postOne d ctx host a l).nextTag (issuer d ctx host) = (Tab.get 0 s.nextTag (issuer d ctx host) + 1) % 65536 := by
  have drawn (o e k : Nat) : Tab.get 0 (((s.takeTag o).2.countIssued o e k).nextTag) o = (Tab.get 0 s.nextTag o + 1) % 65536 :=
    Tab.get_set_same ..
  have kept {u v : State} (h : Only (Field.but .nextTag) u v) : v.nextTag = u.nextTag := h.kept
  unfold State.postOne
  dsimp only
  split
  · exact drawn ..
  · refine Eq.trans (congrArg (Tab.get 0 · _) (kept ?_)) (drawn (issuer d ctx host) (s.epoch d ctx host) (8 * (a / 2 ^ 48) + a / 2 ^ 45 % 8))
    split
    · exact (Only.refl _).takeWrite (hg0 := Allow.but (by decide)) (hg1 := Allow.but (by decide)) (hg2 := Allow.but (by decide))
        (hp := Allow.but (by decide)) ..
    · exact (Only.refl _).sendMsg (hp := Allow.but (by decide)) ..

/-- A write to another die of the package is queued at the end that leads there, its command first. -/
theorem State.ucq_postOne {d o : Die} {ctx a : Nat} {host : Bool} {e : LinkEnd} (pkg : a / 2 ^ 48 = s.pkgId)
    (die : dieOfCode (a / 2 ^ 45 % 8) = some o) (other : o ≠ d) (way : s.route d s.pkgId o = some e) (l : List Byte) :
    ∃ h fs, Tab.get [] ((s.postOne d ctx host a l).link e).ucq 1 = Tab.get [] (s.link e).ucq 1 ++ h :: fs ∧ h.som = true ∧
      h.payload = cmdFlit 1 (dieCode d) s.pkgId ctx host (s.epoch d ctx host) (Tab.get 0 s.nextTag (issuer d ctx host)) a l.length 0 0 := by
  have apart : (s.pkgId == s.pkgId && o == d) = false := by rw [beq_false_of_ne other, Bool.and_false]
  obtain ⟨cmd, hcmd⟩ : ∃ cmd, cmd = cmdFlit 1 (dieCode d) s.pkgId ctx host (s.epoch d ctx host)
    (Tab.get 0 s.nextTag (issuer d ctx host)) a l.length 0 0 := ⟨_, rfl⟩
  obtain ⟨u, hu⟩ : ∃ u, u = (s.takeTag (issuer d ctx host)).2.countIssued (issuer d ctx host) (s.epoch d ctx host)
    (8 * s.pkgId + a / 2 ^ 45 % 8) := ⟨_, rfl⟩
  have sent : s.postOne d ctx host a l = u.sendMsg d s.pkgId o 1 (selOf a) (cmd :: dataFlits a l) := by
    unfold State.postOne
    simp only [pkg, die, apart, Bool.false_eq_true, if_false, List.foldl_nil]
    rw [hu, hcmd]
    rfl
  have way' : u.route d s.pkgId o = some e := hu ▸ way
  have links : u.link e = s.link e := hu ▸ rfl
  obtain ⟨h, rest, flits, som, payload⟩ := ucFlits_cons 1 (selOf a) cmd (dataFlits a l)
  refine ⟨h, rest, ?_, som, payload.trans hcmd⟩
  rw [sent, State.ucq_sendMsg way', flits, links]

section
variable {c : Crown} {x pa : Nat} {bytes : List Byte} (opened : s.hostOpen c = true) (some_ : bytes ≠ [])
  (found : s.bar2In c x bytes.length true = some pa) (fits : pa % 4096 + bytes.length ≤ 4096)
include opened some_ found fits

theorem exec_bar2Write_one : execBar2Write c x bytes s = .next (s.postOne (.cr c) 0 true (s.pkgId * 2 ^ 48 + pa) bytes) := by
  have go : (!s.hostOpen c || bytes == []) = false := by rw [opened, beq_false_of_ne some_]; rfl
  unfold execBar2Write
  simp only [go, Bool.false_eq_true, if_false, found]
  rw [State.post_one s _ _ _ some_ (by omega)]

theorem does_bar2Write_tag :
    Does (.bar2Write c x bytes) s fun t => Tab.get 0 t.nextTag (issuer (.cr c) 0 true) =
      (Tab.get 0 s.nextTag (issuer (.cr c) 0 true) + 1) % 65536 := by
  refine .intro (exec_bar2Write_one opened some_ found fits) ?_
  rw [State.nextTag_postOne]

theorem does_bar2Write_send {d : Die} {e : LinkEnd} (room : pa < 2 ^ 48) (at_ : dieOfCode (pa / 2 ^ 45) = some d) (other : d ≠ .cr c)
    (way : s.route (.cr c) s.pkgId d = some e) :
    Does (.bar2Write c x bytes) s fun t => ∃ h fs, Tab.get [] (t.link e).ucq 1 = Tab.get [] (s.link e).ucq 1 ++ h :: fs ∧
      h.som = true ∧ h.payload = cmdFlit 1 (dieCode (.cr c)) s.pkgId 0 true (s.epoch (.cr c) 0 true)
        (Tab.get 0 s.nextTag (issuer (.cr c) 0 true)) (s.pkgId * 2 ^ 48 + pa) bytes.length 0 0 := by
  refine .intro (exec_bar2Write_one opened some_ found fits) ?_
  have pkg : (s.pkgId * 2 ^ 48 + pa) / 2 ^ 48 = s.pkgId := by omega
  have die : dieOfCode ((s.pkgId * 2 ^ 48 + pa) / 2 ^ 45 % 8) = some d := by
    rw [show (s.pkgId * 2 ^ 48 + pa) / 2 ^ 45 % 8 = pa / 2 ^ 45 by omega]
    exact at_
  generalize s.pkgId * 2 ^ 48 + pa = a at pkg die ⊢
  exact State.ucq_postOne pkg die other way bytes

end

/-! ### Host reads -/

section
variable {c : Crown} {id x len pa : Nat} (opened : s.hostOpen c = true) (some_ : len ≠ 0) (found : s.bar2In c x len false = some pa)
include opened some_ found

/-- The state with the read listed, its fence not yet begun. -/
theorem exec_bar2Read : execBar2Read c id x len s = .next ((s.setHost c { s.host c with
    reads := (s.host c).reads ++ [⟨id, s.time, pa, len, false⟩] }).nextHostFence (.cr c)) := by
  have go : (!s.hostOpen c || len == 0) = false := by rw [opened, beq_false_of_ne some_]; rfl
  unfold execBar2Read
  simp only [go, Bool.false_eq_true, if_false, found]

theorem does_bar2Read_waits (busy : (s.fence (issuer (.cr c) 0 true)).isSome = true) :
    Does (.bar2Read c id x len) s fun t => (t.host c).reads = (s.host c).reads ++ [⟨id, s.time, pa, len, false⟩] := by
  refine .intro (exec_bar2Read opened some_ found) ?_
  obtain ⟨u, hu⟩ : ∃ u, u = s.setHost c { s.host c with reads := (s.host c).reads ++ [⟨id, s.time, pa, len, false⟩] } := ⟨_, rfl⟩
  have busy' : (u.fence (issuer (.cr c) 0 true)).isSome = true := hu ▸ busy
  rw [← hu]
  have stays (l : List HostRd) (u : State) (h : (u.fence (issuer (.cr c) 0 true)).isSome = true) :
      l.foldl (fun t r => if r.fenced || (t.fence (issuer (.cr c) 0 true)).isSome then t
        else t.startFence (.cr c) 0 true 2 r.id 0 0) u = u := by
    induction l with
    | nil => rfl
    | cons r l ih => rw [List.foldl_cons, h, Bool.or_true, if_pos rfl, ih]
  have same : u.nextHostFence (.cr c) = u := stays _ _ busy'
  rw [same, hu, State.host_setHost_same]

omit opened some_ found in
/-- A fence with nothing to wait for ends at once, and the read that it stood for goes on. -/
theorem State.startFence_idle {u : State} {kind : Nat} (arg : Nat) (kinds : kind ≠ 3) (heard : ∀ k < 128, Tab.get 0 u.issued
    (issKey (issuer (.cr c) 0 true) (u.epoch (.cr c) 0 true) k) = Tab.get 0 u.seenIssued
      (issKey (issuer (.cr c) 0 true) (u.epoch (.cr c) 0 true) k)) :
    ∃ f : FenceSt, f.arg = arg ∧ u.startFence (.cr c) 0 true kind arg 0 0 = (((u.flipEpoch (.cr c) 0 true).setFence (issuer (.cr c) 0 true)
      (some f)).setFence (issuer (.cr c) 0 true) none).hostReadGo c arg := by
  have none_ : (List.range 128).filter (fun k => Tab.get 0 u.issued (issKey (issuer (.cr c) 0 true) (u.epoch (.cr c) 0 true) k) !=
      Tab.get 0 u.seenIssued (issKey (issuer (.cr c) 0 true) (u.epoch (.cr c) 0 true) k)) = [] := by
    rw [List.filter_eq_nil_iff]
    intro k hk
    rw [heard k (List.mem_range.mp hk), bne_self_eq_false]
    exact Bool.false_ne_true
  refine ⟨⟨u.epoch (.cr c) 0 true, [], u.time, 0, kind, arg, 0, 0, 0⟩, rfl, ?_⟩
  generalize hf : FenceSt.mk (u.epoch (.cr c) 0 true) [] u.time 0 kind arg 0 0 0 = f
  have left : f.left = [] := by rw [← hf]
  have kind' : f.kind = kind := by rw [← hf]
  have arg' : f.arg = arg := by rw [← hf]
  have ends : (f.left == [] && f.kind != 3) = true := by rw [left, kind', bne_iff_ne.mpr kinds]; rfl
  unfold State.startFence
  simp only [none_, hf, if_true, List.not_mem_nil, decide_false, Bool.false_eq_true, if_false, State.fence_setFence_same]
  unfold State.sendProbes
  rw [left, List.foldl_nil]
  unfold State.fenceCheck
  simp only [State.fence_setFence_same, ends, if_true]
  unfold State.fenceDone
  rw [if_pos rfl, arg']

omit opened some_ found in
/-- A host read of the Crown die's own memory completes with the bytes that lie there. -/
theorem State.hostReadGo_own {u : State} {r : HostRd} (one : (u.host c).reads = [r]) (own : dieOfCode (r.pa / 2 ^ 45) = some (.cr c))
    (young : u.time ≤ r.at_) : ∃ ep, ((u.hostReadGo c r.id).host c).reads = [] ∧
      ((u.hostReadGo c r.id).host c).lastCpl = some (.data r.id ep (u.rdBytes r.pa r.len)) := by
  have found : [r].find? (fun q => q.id == r.id) = some r := List.find?_cons_of_pos (beq_self_eq_true _)
  have here : (dieOfCode (r.pa / 2 ^ 45) == some (.cr c)) = true := by rw [own]; exact beq_self_eq_true _
  obtain ⟨h, hh⟩ : ∃ h : HostSt, h = { u.host c with reads := [{ r with fenced := true }] } := ⟨_, rfl⟩
  obtain ⟨v, hv⟩ : ∃ v, v = ((u.setHost c h).serveRead (.cr c) r.pa r.len (0x40 + c.val) []).2.2 := ⟨_, rfl⟩
  have served : Only (Field.outside [.hosts, .mem]) (u.setHost c h) v := hv ▸ (Only.refl _).serveRead (hg0 := Allow.outside (by decide))
    (hg1 := Allow.outside (by decide)) (hp := Allow.outside (by decide)) ..
  have host : v.host c = h := (State.host_of_same (served.keeps (x := .hosts) (by decide)) c).trans (State.host_setHost_same ..)
  have bytes : v.rdBytes r.pa r.len = u.rdBytes r.pa r.len :=
    State.rdBytes_congr fun i _ _ => State.rdByte_of_same (served.keeps (x := .mem) (by decide)) i
  have time : v.time = u.time := hv ▸ ((Kept.refl (u.setHost c h)).serveRead ..).clock
  have notLate : ((v.host c).reads.any fun q => q.id == r.id && decide (q.at_ + v.rdLimit c * 1600 < v.time)) = false := by
    rw [host, hh, time, List.any_cons, List.any_nil, Bool.or_false]
    simp only [beq_self_eq_true, Bool.true_and, decide_eq_false_iff_not]
    omega
  obtain ⟨ep, goes⟩ : ∃ ep, u.hostReadGo c r.id = v.completeRead c r.id ep (v.rdBytes r.pa r.len) := by
    refine ⟨((u.setHost c h).serveRead (.cr c) r.pa r.len (0x40 + c.val) []).1 != 0, ?_⟩
    unfold State.hostReadGo
    simp only [one, found, here, if_true, List.map_cons, List.map_nil, beq_self_eq_true]
    rw [hv, hh]
  have done : v.completeRead c r.id ep (v.rdBytes r.pa r.len) = v.setHost c { v.host c with
      reads := (v.host c).reads.filter (fun q => q.id != r.id), lastCpl := some (.data r.id ep (v.rdBytes r.pa r.len)) } := by
    unfold State.completeRead
    exact if_neg (by rw [notLate]; exact Bool.false_ne_true)
  refine ⟨ep, ?_, ?_⟩
  · rw [goes, done, State.host_setHost_same, host, hh]
    simp
  · rw [goes, done, State.host_setHost_same, bytes]

theorem does_bar2Read_own (own : dieOfCode (pa / 2 ^ 45) = some (.cr c)) (first : (s.host c).reads = [])
    (idle : s.fence (issuer (.cr c) 0 true) = none) (heard : ∀ k < 128, Tab.get 0 s.issued (issKey (issuer (.cr c) 0 true)
      (s.epoch (.cr c) 0 true) k) = Tab.get 0 s.seenIssued (issKey (issuer (.cr c) 0 true) (s.epoch (.cr c) 0 true) k)) :
    Does (.bar2Read c id x len) s fun t => (t.host c).reads = [] ∧
      ∃ ep, (t.host c).lastCpl = some (.data id ep (s.rdBytes pa len)) := by
  refine .intro (exec_bar2Read opened some_ found) ?_
  obtain ⟨u, hu⟩ : ∃ u, u = s.setHost c { s.host c with reads := (s.host c).reads ++ [⟨id, s.time, pa, len, false⟩] } := ⟨_, rfl⟩
  have reads : (u.host c).reads = [⟨id, s.time, pa, len, false⟩] := by rw [hu, State.host_setHost_same, first]; rfl
  have heard' : ∀ k < 128, Tab.get 0 u.issued (issKey (issuer (.cr c) 0 true) (u.epoch (.cr c) 0 true) k) =
      Tab.get 0 u.seenIssued (issKey (issuer (.cr c) 0 true) (u.epoch (.cr c) 0 true) k) := hu ▸ heard
  have idle' : (u.fence (issuer (.cr c) 0 true)).isSome = false := by
    rw [hu]; exact congrArg Option.isSome idle
  have time : u.time = s.time := hu ▸ rfl
  have bytes : u.rdBytes pa len = s.rdBytes pa len :=
    State.rdBytes_congr fun i _ _ => State.rdByte_of_same (hu ▸
      ((Only.refl s).setHost (pt := Field.but .mem) (hp := Allow.but (by decide)) ..).kept) i
  rw [← hu]
  obtain ⟨f, -, goes⟩ := State.startFence_idle (kind := 2) id (by decide) heard'
  obtain ⟨v, hv⟩ : ∃ v, v = ((u.flipEpoch (.cr c) 0 true).setFence (issuer (.cr c) 0 true) (some f)).setFence (issuer (.cr c) 0 true) none :=
    ⟨_, rfl⟩
  have fenced : Only (Field.outside [.hosts, .mem]) u v := hv ▸ (((Only.refl u).flipEpoch (hp := Allow.outside (by decide)) ..).setFence
    (hp := Allow.outside (by decide)) ..).setFence (hp := Allow.outside (by decide)) ..
  have step : u.nextHostFence (.cr c) = v.hostReadGo c id := by
    unfold State.nextHostFence
    simp only [reads, List.foldl_cons, List.foldl_nil, idle', Bool.or_false, Bool.false_eq_true, if_false]
    rw [hv, ← goes]
  have vtime : v.time = u.time := hv ▸ ((((Kept.refl u).flipEpoch (.cr c) 0 true).setFence ..).setFence ..).clock
  have vreads : (v.host c).reads = [⟨id, s.time, pa, len, false⟩] := by
    rw [State.host_of_same (fenced.keeps (x := .hosts) (by decide)), reads]
  obtain ⟨ep, gone, cpl⟩ := State.hostReadGo_own vreads own (by rw [vtime, time])
  rw [step]
  refine ⟨gone, ep, cpl.trans ?_⟩
  rw [State.rdBytes_congr fun i _ _ => State.rdByte_of_same (fenced.keeps (x := .mem) (by decide)) i, bytes]

end

/-! ### The time limits -/

theorem does_bar2ReadAbort {c : Crown} {id : Nat} {r : HostRd} (one : (s.host c).reads = [r]) (same : r.id = id)
    (late : r.at_ + s.rdLimit c * 1600 ≤ s.time) :
    Does (.bar2ReadAbort c id) s fun t => (t.host c).reads = [] ∧ (t.host c).lastCpl = some (.abort id) := by
  subst same
  have found : [r].find? (fun q => q.id == r.id) = some r := List.find?_cons_of_pos (beq_self_eq_true _)
  have gone : [r].filter (fun q => q.id != r.id) = [] := by simp
  have after : (s.abortRead c r.id).host c = { s.host c with reads := [], lastCpl := some (.abort r.id) } := by
    unfold State.abortRead
    dsimp only
    rw [one, gone]
    exact State.host_setHost_same ..
  refine .intro (t := s.abortRead c r.id) ?_ (by rw [after]; exact ⟨rfl, rfl⟩)
  show execBar2ReadAbort c r.id s = _
  unfold execBar2ReadAbort
  simp only [one, found, late, if_true]

theorem eraseP_own (r : HostMove) : [r].eraseP (fun q => q.id == r.id) = [] := by simp

theorem does_hostReadCompletion {c : Crown} {id : Nat} {bytes : List Byte} {r : HostMove} {d : Die} (one : (s.host c).moves = [r])
    (same : r.id = id) (inTime : s.moveLate c r (s.time - 1) = false) (die : dieOfCode r.die = some d) (own : s.ownAddr d r.dst = true)
    (aligned : r.dst % 64 = 0) (noCounter : counterOf (r.dst % 2 ^ 48) = none) (len : r.len = 64) (len' : bytes.length = 64) :
    Does (.hostReadCompletion c id 0 bytes) s fun t => (t.host c).moves = [] ∧ t.rdBytes (r.dst % 2 ^ 48) 64 = bytes ∧
      t.poisoned (r.dst % 2 ^ 48) = false := by
  subst same
  have found : [r].find? (fun q => q.id == r.id) = some r := List.find?_cons_of_pos (beq_self_eq_true _)
  have ok : ((0 : Fin 3) != 0) = false := rfl
  obtain ⟨u, hu⟩ : ∃ u, u = s.setHost c { s.host c with moves := [r].eraseP (fun q => q.id == r.id) } := ⟨_, rfl⟩
  have own' : u.ownAddr d r.dst = true := hu ▸ own
  refine .intro (t := u.wrGranule (r.dst % 2 ^ 48) bytes) ?_ ⟨?_, State.rdBytes_wrGranule_of_length _ len', ?_⟩
  · show execHostReadCompletion c r.id 0 bytes s = _
    unfold execHostReadCompletion
    simp only [one, found, inTime, Bool.false_eq_true, if_false, ok, die, ← hu, len, List.take_of_length_le (Nat.le_of_eq len')]
    exact congrArg Host.Outcome.next (State.deliver_granule u d r.ctx own' aligned aligned noCounter len' rfl)
  · show (u.host c).moves = []
    rw [hu, State.host_setHost_same]
    exact eraseP_own r
  · rw [State.wrGranule, State.poisoned_setPoison, if_pos rfl]

/-- A piece written with poison leaves its granule poisoned and every other as it was. -/
theorem State.poisoned_writeBad {u : State} (d : Die) {pa x : Nat} (l : List Byte) (h : u.poisoned x = true ∨ x / 64 = pa / 64) :
    ((u.mergeGranule pa l).2.makePoison d pa).poisoned x = true := by
  rw [State.poisoned_makePoison, Bool.or_eq_true, decide_eq_true_eq]
  by_cases e : x / 64 = pa / 64
  · exact .inl e
  · refine .inr ?_
    unfold State.mergeGranule
    split
    · rw [State.wrGranule, State.poisoned_setPoison, if_neg e]
      exact h.resolve_right e
    · split <;> exact h.resolve_right e

/-- The pieces of data that is not empty: the first begins where the data does. -/
theorem pieces_head {a : Nat} {l : List Byte} (ne : l ≠ []) : ∃ q qs, pieces 64 a l = q :: qs ∧ q.1 = a ∧ q.2 ≠ [] := by
  obtain ⟨b, r, rfl⟩ := List.exists_cons_of_ne_nil ne
  rw [pieces, cutAt]
  · refine ⟨_, _, rfl, rfl, ?_⟩
    rw [← List.length_pos_iff, List.length_take, List.length_cons]
    omega
  · exact List.cons_ne_nil _ _

/-- A local write with poison poisons where it begins and takes no poison away. -/
theorem State.poisoned_localWrite {u : State} (d : Die) {a x : Nat} {l : List Byte} (h : u.poisoned x = true ∨ x / 64 = a / 64 ∧ l ≠ []) :
    (u.localWrite d a l true).poisoned x = true := by
  have keeps (qs : List (Nat × List Byte)) (v : State) (hv : v.poisoned x = true) :
      (qs.foldl (fun t p => (t.mergeGranule p.1 p.2).2.makePoison d p.1) v).poisoned x = true :=
    List.foldlRecOn (motive := fun w : State => w.poisoned x = true) qs _ hv fun w hw q _ => State.poisoned_writeBad d q.2 (.inl hw)
  unfold State.localWrite
  simp only [if_true]
  rcases h with h | ⟨here, ne⟩
  · exact keeps _ u h
  · obtain ⟨q, qs, cut, at_, -⟩ := pieces_head (a := a) ne
    rw [cut, List.foldl_cons]
    exact keeps qs _ (State.poisoned_writeBad d q.2 (.inr (at_ ▸ here)))

/-- Data that arrives with poison at an address of the die itself poisons the granule it begins in. -/
theorem State.poisoned_deliver {u : State} {d : Die} (ctx : Nat) {a : Nat} {l : List Byte} (own : u.ownAddr d a = true)
    (noCounter : counterOf (a % 2 ^ 48) = none) (ne : l ≠ []) :
    (u.deliver d ctx a (.mem a) l fun _ => true).poisoned (a % 2 ^ 48) = true := by
  have keeps (qs : List (Nat × List Byte)) (v : State) (hv : v.poisoned (a % 2 ^ 48) = true) :
      (qs.foldl (fun t p => t.putLocal d ((a + (p.1 - a)) % 2 ^ 48) p.2 true) v).poisoned (a % 2 ^ 48) = true := by
    refine List.foldlRecOn (motive := fun w : State => w.poisoned (a % 2 ^ 48) = true) qs _ hv fun w hw q _ => ?_
    unfold State.putLocal
    split
    · rw [State.poisoned_of_same (Only.kept (Only.ite ((Only.refl w).signal (hp := Allow.but (by decide)) ..) (Only.refl w))), hw]
    · exact State.poisoned_localWrite d (.inl hw)
  obtain ⟨q, qs, cut, at_, some_⟩ := pieces_head (a := a) ne
  unfold State.deliver
  simp only [own, if_true, cut, List.foldl_cons]
  refine keeps qs _ ?_
  unfold State.putLocal
  rw [at_, Nat.sub_self, Nat.add_zero, noCounter]
  exact State.poisoned_localWrite d (.inr ⟨rfl, some_⟩)

/-- A move that fails leaves the list, and the granule where its data was to land is poisoned. -/
theorem State.failMove_own {c : Crown} {r : HostMove} {d : Die} (cause : Nat) (one : (s.host c).moves = [r]) (die : dieOfCode r.die = some d)
    (own : s.ownAddr d r.dst = true) (noCounter : counterOf (r.dst % 2 ^ 48) = none) (some_ : r.len ≠ 0) :
    ((s.failMove c r cause).host c).moves = [] ∧ (s.failMove c r cause).poisoned (r.dst % 2 ^ 48) = true := by
  obtain ⟨u, hu⟩ : ∃ u, u = ((s.setHost c { s.host c with moves := [r].eraseP (fun q => q.id == r.id) }).draw (8 * r.len)).2 := ⟨_, rfl⟩
  obtain ⟨l, hl⟩ : ∃ l, l = leBytes r.len ((s.setHost c { s.host c with moves := [r].eraseP (fun q => q.id == r.id) }).draw (8 * r.len)).1 :=
    ⟨_, rfl⟩
  have own' : u.ownAddr d r.dst = true := hu ▸ own
  have ne : l ≠ [] := by rw [← List.length_pos_iff, hl, length_leBytes]; exact Nat.pos_of_ne_zero some_
  obtain ⟨v, hv⟩ : ∃ v, v = u.deliver d r.ctx r.dst (.mem r.dst) l fun _ => true := ⟨_, rfl⟩
  have fails : s.failMove c r cause = (v.log d .dma 0 0x5003 [BitVec.ofNat 8 cause] r.ctx).faultAll d r.ctx 0x10 r.eng 0x5003 := by
    unfold State.failMove
    simp only [die, one]
    rw [hv, hu, hl]
  have marked : Only (Field.outside [.hosts, .poison]) v (s.failMove c r cause) := fails ▸ ((Only.refl v).log (hg0 := Allow.outside (by decide))
    (hp := Allow.outside (by decide)) ..).faultAll (hg0 := Allow.outside (by decide)) (hg1 := Allow.outside (by decide))
    (hp := Allow.outside (by decide)) ..
  have landed : v.host c = u.host c := by
    rw [hv]
    unfold State.deliver
    simp only [own', if_true]
    exact State.host_of_same (Only.kept (Only.foldl _ (fun w q hw => hw.putLocal (hp := Allow.but (by decide)) ..) (Only.refl u))) c
  constructor
  · rw [State.host_of_same (marked.keeps (x := .hosts) (by decide)), landed, hu]
    refine (congrArg HostSt.moves (State.host_setHost_same (s := s) ..)).trans ?_
    exact eraseP_own r
  · rw [State.poisoned_of_same (marked.keeps (x := .poison) (by decide)), hv]
    exact State.poisoned_deliver _ own' noCounter ne

theorem does_hostReadTimeout {c : Crown} {id : Nat} {r : HostMove} {d : Die} (one : (s.host c).moves = [r]) (same : r.id = id)
    (late : r.at_ + cplTimeout (s.host c).cplTo * 1600 ≤ s.time) (die : dieOfCode r.die = some d) (own : s.ownAddr d r.dst = true)
    (noCounter : counterOf (r.dst % 2 ^ 48) = none) (some_ : r.len ≠ 0) :
    Does (.hostReadTimeout c id) s fun t => (t.host c).moves = [] ∧ t.poisoned (r.dst % 2 ^ 48) = true := by
  subst same
  have found : [r].find? (fun q => q.id == r.id) = some r := List.find?_cons_of_pos (beq_self_eq_true _)
  have due : s.moveLate c r s.time = true := decide_eq_true late
  refine .intro (t := s.timeoutMove c r) ?_ (State.failMove_own 3 one die own noCounter some_)
  show execHostReadTimeout c r.id s = _
  unfold execHostReadTimeout
  simp only [one, found, due, if_true]

/-- Settles O20, one lemma for each clause. -/
theorem hostAccessCommandsComplete : Obligations.HostAccessCommandsComplete :=
  ⟨fun _ _ _ _ _ opened some_ found fits => does_bar2Write_tag opened some_ found fits,
    fun _ _ _ _ _ _ _ opened some_ found fits room at_ other way => does_bar2Write_send opened some_ found fits room at_ other way,
    fun _ _ _ _ _ _ opened some_ found busy => does_bar2Read_waits opened some_ found busy,
    fun _ _ _ _ _ _ opened some_ found own first idle heard => does_bar2Read_own opened some_ found own first idle heard,
    fun _ _ _ _ one same late => does_bar2ReadAbort one same late,
    fun _ _ _ _ _ _ one same inTime die own aligned noCounter len len' =>
      does_hostReadCompletion one same inTime die own aligned noCounter len len',
    fun _ _ _ _ _ one same late die own noCounter some_ => does_hostReadTimeout one same late die own noCounter some_⟩

end Sys2Proof.Machine
end

section
/-! Messages at their destination are written, signalled, read and answered, and a scrub pass is noted (R244 to R262). -/

namespace Sys2Proof.Machine

variable {s t z : State}

/-! ### Writes and signals -/

theorem writeData_granule {pa : Nat} {p : List Byte} (aligned : pa % 64 = 0) (len : p.length = 64) : writeData pa 64 [p] = p := by
  unfold writeData
  simp [aligned, len]

theorem does_write_granule {d : Die} {cmd p : List Byte} {pa : Nat} (die : s.hasDie d = true) (hpa : cmdTarget cmd % 2 ^ 48 = pa)
    (aligned : pa % 64 = 0) (hlen : cmdLen cmd = 64) (len : p.length = 64) (noCounter : counterOf pa = none)
    (noBuffer : bufferOf pa = none) (clean : bit (cmdA cmd) 0 = false) :
    Does (.write d cmd [p] [] []) s fun t => t.rdBytes pa 64 = p ∧ t.poisoned pa = false ∧
      Tab.get 0 t.accepted (cntKey d (originKey cmd)) = (Tab.get 0 s.accepted (cntKey d (originKey cmd)) + 1) % 2 ^ 32 := by
  have block : crosses pa 64 = false := decide_eq_false (by omega)
  obtain ⟨u, hu⟩ : ∃ u, u = s.countAccepted d (originKey cmd) := ⟨_, rfl⟩
  have merged : u.mergeGranule pa p = (false, u.wrGranule pa p) := by
    rw [State.mergeGranule, aligned, len]; rfl
  have up : UnitUp u d pa := fun m e _ hb => absurd (noBuffer.symm.trans hb) nofun
  have put : u.putPiece d cmd pa (pa, p) = u.wrGranule pa p := by
    unfold State.putPiece
    dsimp only
    rw [Nat.sub_self, clean, merged, if_neg Bool.false_ne_true]
  refine .intro (t := u.wrGranule pa p) ?_ ⟨State.rdBytes_wrGranule_of_length _ len, ?_, ?_⟩
  · show execWrite d cmd [p] [] [] s = _
    unfold execWrite
    rw [if_pos die, State.takeWrite_eq s d cmd [p] [] [] (by rw [hpa, hlen, block]) (by rw [hpa, noCounter]), hpa, hlen,
      writeData_granule aligned len, pieces_granule aligned len, List.foldl_cons, List.foldl_nil, ← hu,
      writeStep_ok up (congrArg Prod.fst merged), put]
    rfl
  · rw [State.wrGranule, State.poisoned_setPoison, if_pos rfl]
  · rw [hu]
    exact Tab.get_set_same ..

theorem does_signal {m : Mv} {cmd : List Byte} {n : Nat} (block : crosses (cmdTarget cmd % 2 ^ 48) (cmdLen cmd) = false)
    (counter : counterOf (cmdTarget cmd % 2 ^ 48) = some n) (up : s.unitDown (.mv m) none = false) :
    Does (.signal m cmd) s fun t => t.ctr (.mv m) n = (s.ctr (.mv m) n + cmdA cmd % 2 ^ 32) % 2 ^ 32 := by
  have up' : (s.countAccepted (.mv m) (originKey cmd)).unitDown (.mv m) none = false := up
  refine .intro (t := (s.countAccepted (.mv m) (originKey cmd)).signal (.mv m) n (cmdA cmd % 2 ^ 32)) ?_ (State.ctr_signal ..)
  show Host.Outcome.next (s.takeSignalMsg (.mv m) cmd) = _
  unfold State.takeSignalMsg
  simp only [block, Bool.false_eq_true, if_false, counter]
  unfold State.takeSignal
  simp only [up', Bool.false_eq_true, if_false]

/-! ### Reads and probes -/

theorem State.route_of_same (h : Only (Field.outside [.ofReg .cfg Reg.CFG_VARIANT, .ofReg .boot Reg.BOOT_STRAP_PKG_ID, .routes]) s t)
    (d : Die) (pkg : Nat) (o : Die) : t.route d pkg o = s.route d pkg o := by
  have has (e : Die) : t.hasDie e = s.hasDie e := by
    unfold State.hasDie
    rw [State.x2_of_same (h.keeps (by decide))]
  unfold State.route
  rw [State.pkgId_of_same (h.keeps (by decide)), show t.routes = s.routes from h.keeps (x := .routes) (by decide), has]

/-- A read of one granule that is not poisoned sends that granule. -/
theorem State.serveRead_granule {u : State} {d : Die} {pa len : Nat} (ctx : Nat) (aligned : pa % 64 = 0) (pos : 0 < len) (short : len ≤ 64)
    (noCounter : counterOf pa = none) (noBuffer : bufferOf pa = none) (good : u.poisoned pa = false) :
    u.serveRead d pa len ctx [] = (0, [u.rdBytes pa 64], u) := by
  have one : (pa + len - 1) / 64 - pa / 64 + 1 = 1 := by omega
  have here : (pa / 64 + 0) * 64 = pa := by omega
  unfold State.serveRead
  rw [one]
  simp only [List.range_one, List.map_cons, List.map_nil, List.foldl_cons, List.foldl_nil, here, List.not_mem_nil, decide_false,
    Bool.false_and, Bool.false_eq_true, if_false, good, noBuffer, Bool.or_false, beq_self_eq_true, if_true]
  unfold State.readGranule
  rw [noCounter]

theorem ucFlits_pair (chan sel : Nat) (a b : List Byte) :
    ucFlits chan sel [a, b] = [⟨chan, true, false, sel, a, 0⟩, ⟨chan, false, true, sel, b, 0⟩] :=
  rfl

theorem does_read {d o : Die} {e : LinkEnd} {cmd : List Byte} {pa : Nat} (corr : Nat) (die : s.hasDie d = true)
    (hpa : cmdTarget cmd % 2 ^ 48 = pa) (aligned : pa % 64 = 0) (short : cmdLen cmd ≤ 64) (noCounter : counterOf pa = none)
    (noBuffer : bufferOf pa = none) (good : s.poisoned pa = false) (origin : dieOfCode (cmdOrigin cmd).1 = some o)
    (way : s.route d (cmdOrigin cmd).2 o = some e) :
    Does (.read d cmd [] corr) s fun t => ∃ h f, Tab.get [] (t.link e).ucq 0 = Tab.get [] (s.link e).ucq 0 ++ [h, f] ∧
      f.payload = s.rdBytes pa 64 ∧ h.som = true ∧ f.eom = true := by
  have block : crosses pa (cmdLen cmd) = false := decide_eq_false (by omega)
  obtain ⟨u, hu⟩ : ∃ u, u = s.corrected d (!bit pa 44) corr := ⟨_, rfl⟩
  have same : Only (Field.outside [.ofReg .cfg Reg.CFG_VARIANT, .ofReg .boot Reg.BOOT_STRAP_PKG_ID, .routes, .mem, .poison, .links]) s u :=
    hu ▸ (Only.refl s).corrected (hp := Allow.outside (by decide)) ..
  have good' : u.poisoned pa = false := (State.poisoned_of_same (same.keeps (x := .poison) (by decide)) pa).trans good
  have bytes : u.rdBytes pa 64 = s.rdBytes pa 64 :=
    State.rdBytes_congr fun i _ _ => State.rdByte_of_same (same.keeps (x := .mem) (by decide)) i
  have way' : u.route d (cmdOrigin cmd).2 o = some e := (State.route_of_same (same.narrow (by decide)) ..).trans way
  have served : u.serveRead d pa (cmdLen cmd) (cmdLogCtx cmd) [] = (0, [u.rdBytes pa 64], u) :=
    State.serveRead_granule _ aligned (Nat.succ_pos _) short noCounter noBuffer good'
  refine .intro (t := u.sendReadData d cmd 0 [u.rdBytes pa 64]) ?_ ?_
  · show execRead d cmd [] corr s = _
    unfold execRead
    simp only [die, Bool.not_true, Bool.false_eq_true, if_false, hpa, block, ← hu, served]
  · unfold State.sendReadData
    simp only [origin]
    rw [State.ucq_sendMsg way', ucFlits_pair, State.link_of_same (same.keeps (x := .links) (by decide)), bytes]
    exact ⟨_, _, rfl, rfl, rfl, rfl⟩

theorem does_fenceProbe {d o : Die} {e : LinkEnd} {cmd : List Byte} (die : s.hasDie d = true) (origin : dieOfCode (cmdOrigin cmd).1 = some o)
    (way : s.route d (cmdOrigin cmd).2 o = some e) :
    Does (.fenceProbe d cmd) s fun t => ∃ f, Tab.get [] (t.link e).ucq 0 = Tab.get [] (s.link e).ucq 0 ++ [f] ∧
      f.payload = cmdFlit 0x21 (cmdOrigin cmd).1 (cmdOrigin cmd).2 (cmdCtx cmd) (cmdHost cmd) (cmdEpoch cmd) (cmdTag cmd)
        (cmdTarget cmd) (cmdLen cmd) (Tab.get 0 s.accepted (cntKey d (originKey cmd)) +
          2 ^ 32 * Tab.get 0 s.failed (cntKey d (originKey cmd))) 0 := by
  obtain ⟨r, hr⟩ : ∃ r, r = cmdFlit 0x21 (cmdOrigin cmd).1 (cmdOrigin cmd).2 (cmdCtx cmd) (cmdHost cmd) (cmdEpoch cmd) (cmdTag cmd)
    (cmdTarget cmd) (cmdLen cmd) (Tab.get 0 s.accepted (cntKey d (originKey cmd)) +
      2 ^ 32 * Tab.get 0 s.failed (cntKey d (originKey cmd))) 0 := ⟨_, rfl⟩
  refine .intro (t := s.sendMsg d (cmdOrigin cmd).2 o 0 0 [r]) ?_ ⟨⟨0, true, true, 0, r, 0⟩, State.ucq_sendMsg way, hr⟩
  show execFenceProbe d cmd s = _
  unfold execFenceProbe
  simp only [origin, die, if_true, hr]

/-! ### Failure notices -/

theorem cmdTag_lt (cmd : List Byte) : cmdTag cmd < 2 ^ 16 :=
  (leNat_lt _).trans_le (Nat.pow_le_pow_right (by decide) (List.length_take_le ..))

theorem does_pwFail_first {m : Mv} {cmd : List Byte} (inner : cmdHost cmd = false)
    (first : s.isF (.mv m) .mem 0 Reg.MEM_FIRST_TAG_VALID (0x10 * cmdCtx cmd) = false) :
    Does (.pwFail (.mv m) cmd false) s fun t =>
      t.getF (.mv m) .mem 0 Reg.MEM_FIRST_TAG_TAG (0x10 * cmdCtx cmd) = cmdTag cmd ∧
      t.isF (.mv m) .mem 0 Reg.MEM_FIRST_TAG_VALID (0x10 * cmdCtx cmd) = true := by
  have notes : execPwFail (.mv m) cmd false s = .next (s.takePwFail (.mv m) cmd false) := rfl
  refine .intro notes ?_
  unfold State.takePwFail
  simp only [inner, Bool.false_eq_true, if_false, first]
  constructor
  · rw [State.getF_setF_of_tag (by decide), State.getF_setF_of_tag (by decide), State.getF_setF_of_tag (by decide),
      State.getF_setF_of_tag (by decide), State.getF_setF_same]
    exact Nat.mod_eq_of_lt (cmdTag_lt cmd)
  · rw [State.isF_setF_of_tag (by decide), State.isF_setF_of_tag (by decide)]
    exact State.isF_setF_one (by decide)

theorem does_pwFail_folded {m : Mv} {cmd : List Byte} (inner : cmdHost cmd = false) :
    Does (.pwFail (.mv m) cmd true) s fun t => t.isF (.mv m) .mem 0 Reg.MEM_PWSTAT_FOLDED (0x10 * cmdCtx cmd) = true := by
  have notes : execPwFail (.mv m) cmd true s = .next (s.takePwFail (.mv m) cmd true) := rfl
  refine .intro notes ?_
  unfold State.takePwFail
  simp only [inner, Bool.false_eq_true, if_false, if_true]
  exact State.isF_setF_one (by decide)

/-! ### Scrub passes -/

theorem State.scrubH_log (s : State) (d : Die) (b : Blk) (inst rc : Nat) (detail : List Byte) (ctx : Nat) (e : Die) :
    ((s.log d b inst rc detail ctx).die e).scrubH = (s.die e).scrubH := by
  by_cases h : e = d
  · subst h; rw [State.log_die]
  · rw [State.log, State.logAs_die_ne (h := h)]

theorem State.uncorrectable_kept (u : State) (d : Die) (g : Nat) :
    ((u.uncorrectable d g).die d).scrubH = (u.die d).scrubH ∧
      ∀ x, (u.uncorrectable d g).poisoned x = (decide (x / 64 = g / 64) || u.poisoned x) := by
  have granule : g / 64 * 64 / 64 = g / 64 := by omega
  obtain ⟨v, hv⟩ : ∃ v, v = (u.makePoison d (g / 64 * 64)).log d .mem 0 0x5001 (leBytes 6 (g / 64 * 64)) := ⟨_, rfl⟩
  have shown : Only (Field.outside [.dies, .poison]) v (u.uncorrectable d g) := by
    unfold State.uncorrectable
    cases d with
    | mv m => rw [hv]; exact (Only.refl _).set64 (hp := Allow.outside (by decide)) ..
    | cr c => rw [hv]; exact Only.refl _
  constructor
  · rw [State.die_of_same (shown.keeps (x := .dies) (by decide)), hv, State.scrubH_log,
      State.die_of_same ((Only.refl u).makePoison (pt := Field.but .dies) d _ (Allow.but (by decide))).kept]
  · intro x
    rw [State.poisoned_of_same (shown.keeps (x := .poison) (by decide)), hv, State.log_poisoned, State.poisoned_makePoison, granule]

/-- The granules a scrub pass found bad are poisoned after it. -/
theorem State.scrub_fold (d : Die) : ∀ (bad : List Nat) (u : State), ∃ v,
    bad.foldl (fun t g => if t.poisoned g then t else t.uncorrectable d g) u = v ∧ (v.die d).scrubH = (u.die d).scrubH ∧
      (∀ x, u.poisoned x = true → v.poisoned x = true) ∧ ∀ g ∈ bad, v.poisoned g = true
  | [], u => ⟨u, rfl, rfl, fun _ h => h, fun _ h => absurd h List.not_mem_nil⟩
  | g :: bad, u => by
    obtain ⟨w, hw⟩ : ∃ w, w = if u.poisoned g then u else u.uncorrectable d g := ⟨_, rfl⟩
    obtain ⟨clock, keeps, marks⟩ : (w.die d).scrubH = (u.die d).scrubH ∧ (∀ x, u.poisoned x = true → w.poisoned x = true) ∧
        w.poisoned g = true := by
      rw [hw]
      split
      case isTrue h => exact ⟨rfl, fun _ h => h, h⟩
      case isFalse =>
        obtain ⟨clock, poison⟩ := u.uncorrectable_kept d g
        exact ⟨clock, fun x h => by rw [poison, h, Bool.or_true], by rw [poison, decide_eq_true rfl, Bool.true_or]⟩
    obtain ⟨v, fold, clock', keeps', marks'⟩ := State.scrub_fold d bad w
    refine ⟨v, by rw [List.foldl_cons, ← hw, fold], clock'.trans clock, fun x h => keeps' x (keeps x h), fun x hx => ?_⟩
    rcases List.mem_cons.mp hx with rfl | hx
    · exact keeps' _ marks
    · exact marks' x hx

theorem does_scrubPass {m : Mv} {bad : List Nat} (corr : Nat) (on : s.enabled .mem (.mv m) = true)
    (due : (s.die (.mv m)).scrubH + s.scrubHours (.mv m) * hourBeats ≤ s.time) :
    Does (.scrubPass m true bad corr) s fun t => (t.die (.mv m)).scrubH = s.time ∧ ∀ g ∈ bad, t.poisoned g = true := by
  have go : (!s.enabled .mem (.mv m) || !decide ((s.die (.mv m)).scrubH + s.scrubHours (.mv m) * hourBeats ≤ s.time)) = false := by
    rw [on, decide_eq_true due]; rfl
  obtain ⟨u, hu⟩ : ∃ u, u = (s.setDie (.mv m) { s.die (.mv m) with scrubH := s.time }).corrected (.mv m) true corr := ⟨_, rfl⟩
  have clock : (u.die (.mv m)).scrubH = s.time := by
    rw [hu, State.die_of_same ((Only.refl _).corrected (pt := Field.but .dies) _ _ _ (Allow.but (by decide))).kept, State.die_setDie_same]
  obtain ⟨v, fold, clock', -, marks⟩ := State.scrub_fold (.mv m) bad u
  refine .intro (t := v.bumpF (.mv m) .mem 0 Reg.MEM_SCRUB_PASSES) ?_ ⟨?_, fun g hg => ?_⟩
  · show execScrubPass m true bad corr s = _
    unfold execScrubPass
    simp only [if_true, go, Bool.false_eq_true, if_false, ← hu, fold]
  · exact clock'.trans clock
  · exact marks g hg

/-- Settles O16, one lemma for each clause. -/
theorem memoryMessagesComplete : Obligations.MemoryMessagesComplete :=
  ⟨fun _ _ _ _ _ die hpa aligned hlen len noCounter noBuffer clean => does_write_granule die hpa aligned hlen len noCounter noBuffer clean,
    fun _ _ _ _ block counter up => does_signal block counter up,
    fun _ _ _ _ _ corr _ die hpa aligned short noCounter noBuffer good origin way =>
      does_read corr die hpa aligned short noCounter noBuffer good origin way,
    fun _ _ _ _ _ die origin way => does_fenceProbe die origin way,
    fun _ _ _ inner first => does_pwFail_first inner first,
    fun _ _ _ inner => does_pwFail_folded inner,
    fun _ _ corr _ on due => does_scrubPass corr on due⟩

end Sys2Proof.Machine
end

section
/-! The endpoint's resets, vectors and configuration space, the result outputs, and the frames of the Ethernet ports (R271 to R296). -/

namespace Sys2Proof.Machine

variable {s t z : State}

/-! ### What a host port remembers -/

/-- What a reset of the endpoint, a vector and the numbers of the results rest on. -/
structure SameSetup (z s : State) : Prop where
  cplTo : ∀ c, (s.host c).cplTo = (z.host c).cplTo
  msixEn : ∀ c, (s.host c).msixEn = (z.host c).msixEn
  unmasked : ∀ c, (s.host c).unmasked = (z.host c).unmasked
  msixTab : ∀ c, (s.host c).msixTab = (z.host c).msixTab
  outSeq : ∀ c, (s.host c).outSeq = (z.host c).outSeq

theorem State.host_setHost_ne {c e : Crown} (x : HostSt) (h : e ≠ c) : (s.setHost c x).host e = s.host e :=
  Tab.get_set_ne _ _ (Fin.val_ne_of_ne h)

namespace SameSetup

theorem of_host (h : ∀ c, t.host c = s.host c) : SameSetup s t :=
  ⟨fun c => by rw [h], fun c => by rw [h], fun c => by rw [h], fun c => by rw [h], fun c => by rw [h]⟩

theorem refl (s : State) : SameSetup s s := of_host fun _ => rfl

theorem trans (h : SameSetup z s) (g : SameSetup s t) : SameSetup z t :=
  ⟨fun c => (g.cplTo c).trans (h.cplTo c), fun c => (g.msixEn c).trans (h.msixEn c), fun c => (g.unmasked c).trans (h.unmasked c),
    fun c => (g.msixTab c).trans (h.msixTab c), fun c => (g.outSeq c).trans (h.outSeq c)⟩

theorem keeps (h : SameSetup z s) (g : Only (Field.but .hosts) s t) : SameSetup z t := h.trans (of_host (State.host_of_same g.kept))

/-- A host state that agrees on them may be stored. -/
theorem setHost (h : SameSetup z s) (c : Crown) {x : HostSt} (same : x.cplTo = (s.host c).cplTo ∧ x.msixEn = (s.host c).msixEn ∧
    x.unmasked = (s.host c).unmasked ∧ x.msixTab = (s.host c).msixTab ∧ x.outSeq = (s.host c).outSeq) : SameSetup z (s.setHost c x) := by
  obtain ⟨cplTo, msixEn, unmasked, msixTab, outSeq⟩ := same
  refine h.trans ⟨fun e => ?_, fun e => ?_, fun e => ?_, fun e => ?_, fun e => ?_⟩
  all_goals
    by_cases k : e = c
    · subst k
      rw [State.host_setHost_same]
      assumption
    · rw [State.host_setHost_ne _ k]

theorem foldl {α : Type} {f : State → α → State} (l : List α) (hf : ∀ u a, SameSetup z u → SameSetup z (f u a)) (h : SameSetup z s) :
    SameSetup z (l.foldl f s) :=
  List.foldlRecOn l f h fun u hu a _ => hf u a hu

theorem ite {p : Prop} [Decidable p] {a b : State} (h : SameSetup z a) (g : SameSetup z b) : SameSetup z (if p then a else b) := by
  split
  · exact h
  · exact g

variable (h : SameSetup z s)
include h

theorem failMove (c : Crown) (r : HostMove) (cause : Nat) : SameSetup z (s.failMove c r cause) := by
  have left {l : List HostMove} : SameSetup z (s.setHost c { s.host c with moves := l }) := h.setHost c ⟨rfl, rfl, rfl, rfl, rfl⟩
  unfold State.failMove
  dsimp only
  split
  · exact left
  · refine keeps (s := State.deliver ..) ?_ (((Only.refl _).log (hg0 := Allow.but (by decide)) (hp := Allow.but (by decide)) ..).faultAll
      (hg0 := Allow.but (by decide)) (hg1 := Allow.but (by decide)) (hp := Allow.but (by decide)) ..)
    unfold State.deliver
    exact (left.keeps ((Only.refl _).draw (hp := Allow.but (by decide)) ..)).keeps (Only.ite
      (Only.foldl _ (fun _ _ g => g.putLocal (hp := Allow.but (by decide)) ..) (Only.refl _))
      ((Only.refl _).post (hg0 := Allow.but (by decide)) (hg1 := Allow.but (by decide)) (hg2 := Allow.but (by decide))
        (hp := Allow.but (by decide)) ..))

theorem ethStart (c : Crown) (p at_ : Nat) (frame : List Byte) : SameSetup z (s.ethStart c p at_ frame) :=
  h.setHost c ⟨rfl, rfl, rfl, rfl, rfl⟩

theorem ethFlush (c : Crown) (p : Nat) : SameSetup z (s.ethFlush c p) :=
  foldl _ (fun _ _ g => SameSetup.ite (g.setHost c ⟨rfl, rfl, rfl, rfl, rfl⟩) (g.ethStart ..)) (h.setHost c ⟨rfl, rfl, rfl, rfl, rfl⟩)

theorem sendResult (o : ImgOut) (tmf : List Byte) : SameSetup z (s.sendResult o tmf) := by
  unfold State.sendResult
  refine SameSetup.ite h (ethFlush (ethStart ?_ ..) ..)
  exact (h.keeps ((Only.refl _).draw 16 (Allow.but (by decide)))).setHost _ ⟨rfl, rfl, rfl, rfl, rfl⟩

theorem writeRing (c : Crown) (r : Nat) (tmf : List Byte) : SameSetup z (s.writeRing c r tmf) := by
  have sent {l : List (Nat × List Byte)} : SameSetup z (s.setHost c { s.host c with hostWr := l }) := h.setHost c ⟨rfl, rfl, rfl, rfl, rfl⟩
  unfold State.writeRing
  refine SameSetup.ite (h.keeps ((Only.refl _).bumpF (hp := Allow.but (by decide)) ..)) ?_
  exact sent.keeps (((Only.refl _).setF (hp := Allow.but (by decide)) ..).raiseOn (hg0 := Allow.but (by decide)) ..)

end SameSetup

/-! ### The endpoint -/

theorem does_functionLevelReset {c : Crown} (kind : Fin 3) (die : s.hasDie (.cr c) = true) :
    Does (.functionLevelReset c kind) s fun t => (t.host c).msixEn = false ∧ (t.host c).unmasked = 0 ∧
      (t.host c).msixTab = [] ∧ (t.host c).cplTo = 0 := by
  obtain ⟨u, hu⟩ : ∃ u, u = s.setHost c { s.host c with cplTo := 0, msixEn := false, funMask := false, unmasked := 0, msixTab := [] } :=
    ⟨_, rfl⟩
  have reset : ∃ t, exec (.functionLevelReset c kind) s = .next t ∧ SameSetup u t := by
    show ∃ t, execFunctionLevelReset c kind s = .next t ∧ _
    unfold execFunctionLevelReset
    simp only [die, Bool.not_true, Bool.false_eq_true, if_false]
    have cleared : Only (Field.but .hosts) u ((u.resetPci c [Reg.PCI_BAR2_AP_BASE, Reg.PCI_BAR2_AP_VALID] 16 4).resetPci c
        [Reg.PCI_RING_BASE_LO, Reg.PCI_RING_BASE_HI, Reg.PCI_RING_CFG_EN, Reg.PCI_RING_CFG_LOG2_N, Reg.PCI_RING_HEAD_HEAD,
          Reg.PCI_RING_TAIL_TAIL, Reg.PCI_RING_DROPPED_DROPPED] 16 0x20) :=
      ((Only.refl u).resetPci c _ 16 4 (Allow.but (by decide))).resetPci c _ 16 0x20 (Allow.but (by decide))
    rw [← hu]
    refine ⟨_, rfl, SameSetup.foldl _ (fun w r g => ?_) ((SameSetup.refl u).keeps
      (Only.ite (cleared.setF (hp := Allow.but (by decide)) ..) cleared))⟩
    exact (g.keeps ((Only.refl w).draw (hp := Allow.but (by decide)) ..)).failMove c r _
  obtain ⟨t, run, same⟩ := reset
  refine .intro run ⟨(same.msixEn c).trans ?_, (same.unmasked c).trans ?_, (same.msixTab c).trans ?_, (same.cplTo c).trans ?_⟩
  all_goals rw [hu, State.host_setHost_same]

theorem does_msixMessage {c : Crown} {v : Fin 64} (cause : s.cause c v = true) (on : s.enabled .pci (.cr c) = true)
    (enabled : (s.host c).msixEn = true) (open_ : (s.host c).funMask = false) (unmasked : bit (s.host c).unmasked v = true)
    (unsent : bit (s.host c).sent v = false) :
    Does (.msixMessage c v) s fun t => (t.host c).lastMsix = some (v.val, (Tab.get (0, 0) (s.host c).msixTab v).1,
      (Tab.get (0, 0) (s.host c).msixTab v).2) ∧ bit (t.host c).sent v = true := by
  refine .intro (t := s.setHost c { s.host c with
    sent := setBit (s.host c).sent v, lastMsix := some (v.val, (Tab.get (0, 0) (s.host c).msixTab v).1,
      (Tab.get (0, 0) (s.host c).msixTab v).2) }) ?_ ?_
  · show execMsixMessage c v s = _
    unfold execMsixMessage
    simp only [cause, on, enabled, open_, unmasked, unsent, Bool.not_false, Bool.and_self, if_true]
  · rw [State.host_setHost_same]
    exact ⟨rfl, bit_setBit_same ..⟩

section
variable {c : Crown} (die : s.hasDie (.cr c) = true) (ready : (s.host c).pciReady = true)
include die ready

theorem does_configurationRequest_vector (v : Fin 64) (addr data : Nat) (masked : Bool) :
    Does (.configurationRequest c (.vector v addr data masked)) s fun t =>
      Tab.get (0, 0) (t.host c).msixTab v = (addr % 2 ^ 64, data % 2 ^ 32) ∧ bit (t.host c).unmasked v = !masked := by
  refine .intro (t := s.setHost c { s.host c with
    msixTab := Tab.set (0, 0) (s.host c).msixTab v.val (addr % 2 ^ 64, data % 2 ^ 32)
    unmasked := if masked then clrBit (s.host c).unmasked v else setBit (s.host c).unmasked v }) ?_ ?_
  · show execConfigurationRequest c (.vector v addr data masked) s = _
    simp only [execConfigurationRequest, die, ready, Bool.not_true, Bool.false_eq_true, if_false]
  · rw [State.host_setHost_same]
    refine ⟨Tab.get_set_same .., ?_⟩
    cases masked
    · exact bit_setBit_same ..
    · exact bit_clrBit_same ..

theorem does_configurationRequest_serialNumber (id : Nat) :
    Does (.configurationRequest c (.serialNumber id)) s fun t => (t.host c).lastCpl =
      some (.data id false (leBytes 8 (s.dieId (.cr c)))) := by
  refine .intro (t := s.setHost c { s.host c with lastCpl := some (.data id false (leBytes 8 (s.dieId (.cr c)))) }) ?_ ?_
  · show execConfigurationRequest c (.serialNumber id) s = _
    simp only [execConfigurationRequest, die, ready, Bool.not_true, Bool.false_eq_true, if_false]
  · rw [State.host_setHost_same]

theorem does_configurationRequest_completionTimeout (v : Fin 16) :
    Does (.configurationRequest c (.completionTimeout v)) s fun t => (t.host c).cplTo = v.val := by
  refine .intro (t := s.setHost c { s.host c with cplTo := v.val }) ?_ ?_
  · show execConfigurationRequest c (.completionTimeout v) s = _
    simp only [execConfigurationRequest, die, ready, Bool.not_true, Bool.false_eq_true, if_false]
  · rw [State.host_setHost_same]

theorem does_configurationRequest_msix (en mask : Bool) :
    Does (.configurationRequest c (.msix en mask)) s fun t => (t.host c).msixEn = en ∧ (t.host c).funMask = mask := by
  refine .intro (t := s.setHost c { s.host c with msixEn := en, funMask := mask }) ?_ ?_
  · show execConfigurationRequest c (.msix en mask) s = _
    simp only [execConfigurationRequest, die, ready, Bool.not_true, Bool.false_eq_true, if_false]
  · rw [State.host_setHost_same]
    exact ⟨rfl, rfl⟩

theorem does_configurationRequest_feature (id : Nat) (k : Feature) :
    Does (.configurationRequest c (.feature id k)) s fun t =>
      (t.host c).lastCpl = some (.data id false (leBytes 8 (featureVal k))) := by
  refine .intro (t := s.setHost c { s.host c with lastCpl := some (.data id false (leBytes 8 (featureVal k))) }) ?_ ?_
  · show execConfigurationRequest c (.feature id k) s = _
    simp only [execConfigurationRequest, die, ready, Bool.not_true, Bool.false_eq_true, if_false]
  · rw [State.host_setHost_same]

end

theorem does_configurationRequest_early {c : Crown} (q : CfgReq) (die : s.hasDie (.cr c) = true) (early : (s.host c).pciReady = false) :
    Does (.configurationRequest c q) s fun t => (t.host c).lastCpl = some .retry := by
  refine .intro (t := s.setHost c { s.host c with lastCpl := some .retry }) ?_ ?_
  · show execConfigurationRequest c q s = _
    simp only [execConfigurationRequest, die, early, Bool.not_true, Bool.not_false, Bool.false_eq_true, if_false, if_true]
  · rw [State.host_setHost_same]

/-! ### Result outputs -/

theorem does_outputGuardStart {i : Nat} {o : ImgOut} (listed : s.outputs[i]? = some o) (wire : o.ring = none) (on : s.outputsOn = true)
    (due : outDue o (s.beat (.cr o.crown) + 1184) = true) :
    Does (.outputGuardStart i) s fun t => Tab.get 0 (t.host o.crown).guard o.port = s.beat (.cr o.crown) + 1184 +
      wireBeats (outFrame o (s.ethF o.crown o.port Reg.ETHP_CTL_UNTAGGED == 1)) := by
  refine .intro (t := s.setHost o.crown { s.host o.crown with guard := Tab.set 0 (s.host o.crown).guard o.port (s.beat (.cr o.crown) +
    1184 + wireBeats (outFrame o (s.ethF o.crown o.port Reg.ETHP_CTL_UNTAGGED == 1))) }) ?_ ?_
  · show execOutputGuardStart i s = _
    simp only [execOutputGuardStart, listed, wire, on, due, Option.isNone_none, Bool.and_self, if_true]
  · rw [State.host_setHost_same]
    exact Tab.get_set_same ..

theorem does_resultOutput {i : Nat} {o : ImgOut} (listed : s.outputs[i]? = some o) (on : s.outputsOn = true)
    (due : outDue o (s.beat (.cr o.crown)) = true) (die : s.hasDie (.cr o.crown) = true) (level : (s.dom 4).level ≠ 4) :
    Does (.resultOutput i) s fun t => Tab.get 0 (t.host o.crown).outSeq i =
      (Tab.get 0 (s.host o.crown).outSeq i + 1) % 2 ^ 32 := by
  have go : (!s.outputsOn || !outDue o (s.beat (.cr o.crown)) || !s.hasDie (.cr o.crown)) = false := by rw [on, due, die]; rfl
  have low : ((s.dom 4).level == 4) = false := beq_false_of_ne level
  obtain ⟨u, hu⟩ : ∃ u, u = s.setHost o.crown { s.host o.crown with
      outSeq := Tab.set 0 (s.host o.crown).outSeq i ((Tab.get 0 (s.host o.crown).outSeq i + 1) % 2 ^ 32) } := ⟨_, rfl⟩
  have sends : ∃ t, exec (.resultOutput i) s = .next t ∧ SameSetup u t := by
    show ∃ t, execResultOutput i s = .next t ∧ _
    unfold execResultOutput
    simp only [listed, go, low, Bool.false_eq_true, if_false, ← hu]
    have served : SameSetup u (if u.poisonCount o.pa ((o.pa % 64 + o.count * outRec o + 63) / 64) == 0 then u
        else u.servedPoison (.cr o.crown) 0xFF (u.poisonCount o.pa ((o.pa % 64 + o.count * outRec o + 63) / 64))) :=
      SameSetup.ite (.refl u) ((SameSetup.refl u).keeps ((Only.refl u).servedPoison (hg0 := Allow.but (by decide))
        (hp := Allow.but (by decide)) ..))
    split
    · exact ⟨_, rfl, served.writeRing ..⟩
    · exact ⟨_, rfl, served.sendResult ..⟩
  obtain ⟨t, run, same⟩ := sends
  refine .intro run ?_
  rw [same.outSeq, hu, State.host_setHost_same]
  exact Tab.get_set_same ..

theorem does_ethTableRead {p : Path} {c : Crown} {i : Nat} (alive : s.deadRead p (.cr c) .eth = none)
    (index : s.getF (.cr c) .eth 0 Reg.ETH_TBL_IDX_INDEX = i) (hi : i < 8192) (space : s.getF (.cr c) .eth 0 Reg.ETH_TBL_SEL_SPACE = 0) :
    Does (.ethTableRead p c) s fun t => Tab.get 0 t.rdData (pathCode p) = s.streamEnt c i % 2 ^ 32 := by
  have selected : s.ethRec c = s.streamEnt c i := by
    rw [State.ethRec, space, index]
    exact if_neg (Nat.not_le.mpr hi)
  refine .intro (t := (s.ethLoad c).putRd p ((s.ethLoad c).getF (.cr c) .eth 0 Reg.ETH_TBL_DATA_DATA 0)) ?_ ?_
  · show execEthTableRead p c s = _
    rw [execEthTableRead, alive]
  · rw [State.rdData_putRd_same, State.ethLoad, selected]
    exact (State.getF_loadWords (i := 0) (by decide) (s.streamEnt c i) s 4 (by decide)).trans
      (by rw [Nat.mul_zero, Nat.pow_zero, Nat.div_one])

/-- Settles O21, one lemma for each clause. -/
theorem endpointCommandsComplete : Obligations.EndpointCommandsComplete :=
  ⟨fun _ kind _ die => does_functionLevelReset kind die,
    fun _ _ _ cause on enabled open_ unmasked unsent => does_msixMessage cause on enabled open_ unmasked unsent,
    fun _ v addr data masked _ die ready => does_configurationRequest_vector die ready v addr data masked,
    fun _ id _ die ready => does_configurationRequest_serialNumber die ready id,
    fun _ v _ die ready => does_configurationRequest_completionTimeout die ready v,
    fun _ en mask _ die ready => does_configurationRequest_msix die ready en mask,
    fun _ id k _ die ready => does_configurationRequest_feature die ready id k,
    fun _ q _ die early => does_configurationRequest_early q die early,
    fun _ _ _ listed wire on due => does_outputGuardStart listed wire on due,
    fun _ _ _ listed on due die level => does_resultOutput listed on due die level,
    fun _ _ _ _ alive index hi space => does_ethTableRead alive index hi space⟩

/-! ### Frames of the Ethernet ports -/

/-- A number that a port has just noted is a duplicate of itself. -/
theorem State.duplicate_noteSeen (u : State) (c : Crown) (i v : Nat) : (u.noteSeen c i v).duplicate c i v = true := by
  unfold State.duplicate State.noteSeen
  simp only [State.host_setHost_same, Tab.get_set_same, List.any_cons, State.setHost_time, beq_self_eq_true, Bool.true_and]
  exact (Bool.or_eq_true _ _).mpr (.inl (decide_eq_true (Nat.le_add_right ..)))

theorem State.duplicate_of_same (hosts : Field.same .hosts s t) (time : t.time = s.time) (c : Crown) (i v : Nat) :
    t.duplicate c i v = s.duplicate c i v := by
  unfold State.duplicate; rw [State.host_of_same hosts, time]

/-- A TMF that is in order and new is noted, whatever its place in the snapshots. -/
theorem State.takeTmf_good {c : Crown} {p i : Nat} {l : List Byte} (long : 36 ≤ l.length)
    (crc : be l (l.length - 4) 4 = crc32 (l.take (l.length - 4))) (ok : tmfOk l = true)
    (soon : be l 16 8 ≤ s.taiNow (.cr c) + 1000000000) (new : s.duplicate c i (be l 12 4) = false)
    (known : ∀ r ∈ tmfRecords l, r.1 < sChans (s.streamEnt c i)) :
    (s.takeTmf c p (some i) l).duplicate c i (be l 12 4) = true := by
  have sound : (decide (l.length < 36) || be l (l.length - 4) 4 != crc32 (l.take (l.length - 4))) = false := by
    rw [decide_eq_false (Nat.not_lt.mpr long), crc, bne_self_eq_false]; rfl
  have all_ : (tmfRecords l).filter (fun q => decide (sChans (s.streamEnt c i) ≤ q.1)) = [] := by
    rw [List.filter_eq_nil_iff]
    intro r hr
    rw [decide_eq_false (Nat.not_le.mpr (known r hr))]
    exact Bool.false_ne_true
  unfold State.takeTmf
  simp only [sound, Bool.false_eq_true, if_false, ok, Bool.not_true, if_neg (Nat.not_lt.mpr soon), new, all_, List.length_nil,
    List.range_zero, List.foldl_nil]
  generalize List.map _ _ = chans
  have kept : Only (Field.but .hosts) (s.noteSeen c i (be l 12 4)) (((s.noteSeen c i (be l 12 4)).bumpF (.cr c) .ethPort p
      Reg.ETHP_RX_OK_COUNT).place c i (be l 16 8) chans) :=
    ((Only.refl _).bumpF (hp := Allow.but (by decide)) ..).place (hp := Allow.but (by decide)) ..
  have clock := (((Kept.refl (s.noteSeen c i (be l 12 4))).bumpF (.cr c) .ethPort p Reg.ETHP_RX_OK_COUNT 0).place c i (be l 16 8) chans).clock
  rw [State.duplicate_of_same kept.kept clock, State.duplicate_noteSeen]

theorem does_ethFrameReceive {c : Crown} {p : Fin 4} {frame body : List Byte} {x : EthIn} {q : IpIn} {i : Nat} (up : s.ethUp c p = true)
    (checked : s.ethChecks c p frame = .ok x) (noArp : x.etype ≠ 0x0806) (noPtp : x.etype ≠ 0x88F7) (ip : ipCheck x = some q)
    (proto : q.proto = 17) (udp : udpOk q = true) (noEvent : be q.data 2 2 ≠ 319) (noGeneral : be q.data 2 2 ≠ 320)
    (hbody : body = (q.data.take (be q.data 4 2)).drop 8) (streams : s.udpStreams c (be q.data 2 2) ≠ []) (magic : be body 0 2 = 0x544D)
    (mine : ((s.udpStreams c (be q.data 2 2)).filter fun j => bit (sPorts (s.streamEnt c j)) p).find?
      (fun j => sTmf (s.streamEnt c j) && sSource (s.streamEnt c j) == be body 8 4) = some i)
    (long : 36 ≤ body.length) (crc : be body (body.length - 4) 4 = crc32 (body.take (body.length - 4))) (ok : tmfOk body = true)
    (soon : be body 16 8 ≤ s.taiNow (.cr c) + 1000000000) (new : s.duplicate c i (be body 12 4) = false)
    (known : ∀ r ∈ tmfRecords body, r.1 < sChans (s.streamEnt c i)) :
    Does (.ethFrameReceive c p frame) s fun t => t.duplicate c i (be body 12 4) = true := by
  have measured : s.takeMeasure c p (s.udpStreams c (be q.data 2 2)) body = s.takeTmf c p (some i) body := by
    unfold State.takeMeasure
    simp only [magic, beq_self_eq_true, Bool.true_or, if_true, mine]
  have taken : s.takeIp c p x q = s.takeTmf c p (some i) body := by
    unfold State.takeIp
    simp only [proto, udp, beq_false_of_ne noEvent, beq_false_of_ne noGeneral, beq_false_of_ne streams, ← hbody, measured]
    simp
  refine .intro (t := s.takeTmf c p (some i) body) ?_ (State.takeTmf_good long crc ok soon new known)
  show execEthFrameReceive c p frame s = _
  unfold execEthFrameReceive
  simp only [up, Bool.not_true, Bool.false_eq_true, if_false, checked, noArp, noPtp, ip, taken]

/-- Settles O29: the number of the frame is noted when its measurements are placed. -/
theorem ethFrameReceiveCompletes : Obligations.EthFrameReceiveCompletes :=
  fun _ _ _ _ _ _ _ _ up checked noArp noPtp ip proto udp noEvent noGeneral hbody streams magic mine long crc ok soon new known =>
    does_ethFrameReceive up checked noArp noPtp ip proto udp noEvent noGeneral hbody streams magic mine long crc ok soon new known

end Sys2Proof.Machine
end

section
/-! An engine selects its run, starts the descriptor at its head, and completes it or runs out of its bound (R215 to R242). -/

namespace Sys2Proof.Machine

variable {s t z : State}

/-! ### Engines, queues and streams -/

theorem State.eng_of_same (h : Field.same .engs s t) (d : Die) (u : Nat) : t.eng d u = s.eng d u := by
  unfold State.eng; rw [show t.engs = s.engs from h]

theorem State.queue_of_same (h : Field.same .queues s t) (d : Die) (u : Nat) : t.queue d u = s.queue d u := by
  unfold State.queue; rw [show t.queues = s.queues from h]

theorem State.queue_setQueue_same (s : State) (d : Die) (u : Nat) (q : List Desc) : (s.setQueue d u q).queue d u = q := by
  have stored : Tab.get [] (Tab.set [] s.queues (32 * dieCode d + u) q) (32 * dieCode d + u) = q := Tab.get_set_same ..
  unfold State.setQueue
  cases q <;> (dsimp only; split <;> exact stored)

/-- A suspect that is noted leaves the rest of its engine's state. -/
theorem State.eng_noteSuspect (s : State) (d : Die) (u n : Nat) :
    ((s.noteSuspect d u n).eng d u).run = (s.eng d u).run ∧ ((s.noteSuspect d u n).eng d u).lastOpen = (s.eng d u).lastOpen ∧
      ((s.noteSuspect d u n).eng d u).desc = (s.eng d u).desc := by
  unfold State.noteSuspect
  dsimp only
  split <;> rw [State.eng_setEng_same] <;> exact ⟨rfl, rfl, rfl⟩

theorem State.desc_noteScratch (s : State) (d : Die) (u : Nat) (l : List Nat) :
    ((s.noteScratch d u l).eng d u).desc = (s.eng d u).desc := by
  unfold State.noteScratch
  split
  · rw [State.eng_setEng_same]
  · rfl

/-! ### Runs -/

theorem State.eng_beginRun (s : State) (d : Die) (e n : Nat) (entry : Option Nat) :
    ((s.beginRun d e n entry).eng d e).run = some n ∧ (entry.isSome → ((s.beginRun d e n entry).eng d e).lastOpen = n) := by
  unfold State.beginRun
  extract_lets x fresh s1 g s2 y s3
  have began : (s3.eng d e).run = some n ∧ (entry.isSome → (s3.eng d e).lastOpen = n) := by
    have own : (s2.eng d e).run = some n ∧ (entry.isSome → (s2.eng d e).lastOpen = n) := by
      show ((s1.setEng d e _).eng d e).run = _ ∧ (_ → ((s1.setEng d e _).eng d e).lastOpen = n)
      rw [State.eng_setEng_same]
      exact ⟨rfl, fun h => if_pos h⟩
    have kept : s3.eng d e = s2.eng d e := by
      show (if fresh && (y.headAt == 0 || y.deferred) then s2.setStream d e n { y with headAt := s2.beat d + 1, deferred := false }
        else s2).eng d e = _
      split <;> rfl
    rwa [kept]
  obtain ⟨run, last, -⟩ := s3.eng_noteSuspect d e n
  exact ⟨run.trans began.1, fun h => last.trans (began.2 h)⟩

theorem State.run_endRun (s : State) (d : Die) (e : Nat) (entry : Option Nat) (none_ : Bool) :
    ((s.endRun d e entry none_).eng d e).run = none :=
  congrArg EngSt.run (State.eng_setEng_same (s := s.leaveRun d e) ..)

section
variable {m : Mv} {e : Fin 16} (atFrame : s.atFrame (.mv m) = true) (on : s.enabled .eng (.mv m) = true)
include atFrame on

theorem does_runSelect_schedule {n : Nat} (sel : s.selection (.mv m) e (s.frame (.mv m)) = some (n, none))
    (kind : s.ctxOnDemand (.mv m) n = false) : Does (.runSelect m e) s fun t => (t.eng (.mv m) e).run = some n := by
  refine .intro (t := s.beginRun (.mv m) e n none) ?_ (s.eng_beginRun ..).1
  show execRunSelect m e s = _
  simp only [execRunSelect, atFrame, on, sel, kind, Bool.not_true, Bool.or_self, Bool.false_eq_true, if_false]

theorem does_runSelect_open {c i n : Nat} (sel : s.selection (.mv m) e (s.frame (.mv m)) = some (c, some i))
    (fresh : (s.eng (.mv m) e).entry ≠ some i) (next : s.nextOpen (.mv m) e = some n) :
    Does (.runSelect m e) s fun t => (t.eng (.mv m) e).run = some n ∧ (t.eng (.mv m) e).lastOpen = n := by
  obtain ⟨run, last⟩ := s.eng_beginRun (.mv m) e n (some i)
  refine .intro (t := s.beginRun (.mv m) e n (some i)) ?_ ⟨run, last rfl⟩
  show execRunSelect m e s = _
  simp only [execRunSelect, atFrame, on, sel, beq_false_of_ne fresh, next, Bool.not_true, Bool.or_self, Bool.false_eq_true, if_false]

theorem does_runSelect_none (sel : s.selection (.mv m) e (s.frame (.mv m)) = none) :
    Does (.runSelect m e) s fun t => (t.eng (.mv m) e).run = none := by
  refine .intro (t := s.endRun (.mv m) e none true) ?_ (s.run_endRun ..)
  show execRunSelect m e s = _
  simp only [execRunSelect, atFrame, on, sel, Bool.not_true, Bool.or_self, Bool.false_eq_true, if_false]

end

/-! ### Starts -/

/-- A descriptor of a unit of its own joins that unit's queue. -/
theorem State.queue_startDesc {u : State} {d : Die} {e n : Nat} {w : List Nat} {i : OpInfo} {k : Nat} (unit : unitOf w i = some k) :
    (u.startDesc d e n w i).queue d k = u.queue d k ++ [⟨(u.eng d k).count, n, e, (u.stream d e n).pos, nextPos w i (u.stream d e n).pos,
      w, i, u.beat d, u.beat d + hBound w, false⟩] := by
  unfold State.startDesc
  simp only [unit]
  have kept {a b : State} (x : Desc) (h : a = b) : ((a.noteSuspect d k n).startReads d n k x.num i.work).queue d k = b.queue d k := by
    rw [← h, State.queue_of_same (((Only.refl a).noteSuspect (pt := Field.but .queues) (hp := Allow.but (by decide)) ..).startReads
      (hp := Allow.but (by decide)) ..).kept]
  refine (kept ⟨(u.eng d k).count, n, e, (u.stream d e n).pos, nextPos w i (u.stream d e n).pos, w, i, u.beat d, u.beat d + hBound w, false⟩
    rfl).trans ?_
  exact State.queue_setQueue_same ..

theorem State.desc_startDesc {u : State} {d : Die} {e n : Nat} {w : List Nat} {i : OpInfo} (unit : unitOf w i = none)
    (plain : runsFence i.work = false) :
    ((u.startDesc d e n w i).eng d e).desc = some ⟨(u.eng d e).count, n, e, (u.stream d e n).pos, nextPos w i (u.stream d e n).pos, w, i,
      u.beat d, (if (u.stream d e n).headAt == 0 then u.beat d else (u.stream d e n).headAt - 1) + hBound w, false⟩ := by
  have kept (b : State) (num : Nat) (l : List Nat) :
      ((((b.noteSuspect d e n).startReads d n e num i.work).noteScratch d e l).eng d e).desc = (b.eng d e).desc := by
    rw [State.desc_noteScratch, State.eng_of_same ((Only.refl (b.noteSuspect d e n)).startReads (pt := Field.but .engs)
      (hp := Allow.but (by decide)) ..).kept]
    exact (b.eng_noteSuspect d e n).2.2
  unfold State.startDesc
  simp only [unit]
  split
  case h_1 h => rw [h] at plain; cases plain
  case h_2 h => rw [h] at plain; cases plain
  case h_3 =>
    refine (kept ..).trans ?_
    rw [State.setF_eng, State.eng_setEng_same]

section
variable {m : Mv} {e : Fin 16} {i o : OpInfo} {n u next : Nat} {y : StreamSt} {w : List Nat} {v : State}
  (run : (s.eng (.mv m) e).run = some n) (stream : s.stream (.mv m) e n = y) (header : s.header y = w) (on : s.enabled .eng (.mv m) = true)
  (free : s.engHeld (.mv m) e = false) (idle : (s.eng (.mv m) e).desc = none) (sound : (s.eng (.mv m) e).abortAt = 0)
  (noReplay : s.replayRun (.mv m) e = none) (eager : (s.eng (.mv m) e).deferred = false) (bound : y.bound = true) (going : y.stopped = false)
  (ready : s.ctxState (.mv m) n = 2) (clean : s.headPoisoned y = false) (op : s.operation (.mv m) (s.descWords y) i = (o, v))
  (reading : s.readingOk (.mv m) w o = true) (cause : v.startCause w o = none) (unit : (unitOf w o).getD e = u)
  (access : v.accessCause (.mv m) n u o.work = none) (startable : v.startable (.mv m) e n w o = true)
  (token : v.needToken (.mv m) n w o = 0) (fits : v.fitsRun (.mv m) e (hBound w) = true) (good : v.poisonRead (.mv m) u o.work = 0)
include run stream header on free idle sound noReplay eager bound going ready clean op reading cause unit access startable token fits good

theorem exec_descriptorStart : execDescriptorStart m e i s = .next (v.startDesc (.mv m) e n w o) := by
  have able : (!s.enabled .eng (.mv m) || (s.eng (.mv m) e).desc != none || (s.eng (.mv m) e).abortAt != 0) = false := by
    rw [on, idle, sound]; rfl
  have head : (s.engHeld (.mv m) e || (s.eng (.mv m) e).deferred || !(s.stream (.mv m) e n).bound || (s.stream (.mv m) e n).stopped ||
      s.ctxState (.mv m) n != 2) = false := by rw [free, eager, stream, bound, going, ready]; rfl
  have category : ¬9 ≤ hCat w := fun h => by
    unfold State.startCause at cause
    rw [decide_eq_true h, Bool.true_or, if_pos rfl] at cause
    cases cause
  have tried : v.tryStart (.mv m) e n w o = v.startDesc (.mv m) e n w o := by
    unfold State.tryStart
    simp only [startable, token, fits, unit, good, Bool.not_true, bne_self_eq_false, Bool.false_and, Bool.false_eq_true, if_false,
      Nat.lt_irrefl]
  have headed : s.startHead (.mv m) e n i = v.startDesc (.mv m) e n w o := by
    unfold State.startHead
    simp only [stream, clean, Bool.false_eq_true, if_false, header, if_neg category, op, reading, Bool.not_true, cause, unit, access, tried]
  unfold execDescriptorStart
  simp only [able, Bool.false_eq_true, if_false, noReplay, run, head, headed]

theorem does_descriptorStart (place : nextPos w o y.pos = next) :
    Does (.descriptorStart m e i) s fun t =>
      (unitOf w o ≠ none → t.queue (.mv m) u = s.queue (.mv m) u ++
        [⟨(s.eng (.mv m) u).count, n, e, y.pos, next, w, o, s.beat (.mv m), s.beat (.mv m) + hBound w, false⟩]) ∧
      (unitOf w o = none → runsFence o.work = false → (t.eng (.mv m) e).desc = some ⟨(s.eng (.mv m) e).count, n, e, y.pos, next,
        w, o, s.beat (.mv m), (if y.headAt == 0 then s.beat (.mv m) else y.headAt - 1) + hBound w, false⟩) := by
  have started := exec_descriptorStart run stream header on free idle sound noReplay eager bound going ready clean op reading cause unit
    access startable token fits good
  have same : v.stream (.mv m) e n = y ∧ (∀ k, v.eng (.mv m) k = s.eng (.mv m) k) ∧ (∀ k, v.queue (.mv m) k = s.queue (.mv m) k) ∧
      v.beat (.mv m) = s.beat (.mv m) := by
    have hv : (s.operation (.mv m) (s.descWords y) i).2 = v := congrArg Prod.snd op
    unfold State.operation at hv
    rw [← stream, ← hv]
    dsimp only
    split <;> exact ⟨rfl, fun _ => rfl, fun _ => rfl, rfl⟩
  obtain ⟨stream', eng', queue', beat'⟩ := same
  refine .intro started ⟨fun has => ?_, fun none_ plain => ?_⟩
  · obtain ⟨k, hk⟩ := Option.ne_none_iff_exists'.mp has
    have here : k = u := by rw [hk] at unit; exact unit
    subst here
    rw [State.queue_startDesc hk, stream', eng', queue', beat', place]
  · rw [State.desc_startDesc none_ plain, stream', eng', beat', place]

end

/-! ### Ends -/

/-- The end of a descriptor leaves memory and the queues of the units. -/
theorem State.finishDesc_kept (u : State) (d : Die) (x : Desc) : Only (Field.outside [.mem, .queues]) u (u.finishDesc d x) :=
  (Only.refl u).finishDesc (hg0 := Allow.outside (by decide)) (hp := Allow.outside (by decide)) ..

section
variable {m : Mv} {u : Fin 22} {x : Desc} (alive : (s.eng (.mv m) u).abortAt = 0) (noFence : s.fence (issuer (.mv m) x.ctx false) = none)
  (inTime : s.beat (.mv m) ≤ x.deadline) (arrived : s.readsLeft (.mv m) u x.num = false)
  (worked : x.start + workBeats x.op.work ≤ s.beat (.mv m)) (access : s.accessCause (.mv m) x.ctx u x.op.work = none)
include noFence inTime arrived worked access

theorem State.endDesc_engine (small : u.val < 16) :
    ((s.endDesc (.mv m) u x).eng (.mv m) u).desc = none ∧ (s.endDesc (.mv m) u x).getF (.mv m) .eng 0 Reg.ENG_E_BUSY (4 * u) = 0 ∧
      (s.endDesc (.mv m) u x).mem = (s.descWrites (.mv m) u x).mem := by
  have late : ¬x.deadline < s.beat (.mv m) := Nat.not_lt.mpr inTime
  have early : ¬s.beat (.mv m) < x.start + workBeats x.op.work := Nat.not_lt.mpr worked
  obtain ⟨v, hv⟩ : ∃ v, v = ((s.descWrites (.mv m) u x).replayStep (.mv m) x).finishDesc (.mv m) x := ⟨_, rfl⟩
  have mem : v.mem = (s.descWrites (.mv m) u x).mem := by
    rw [hv, show (State.finishDesc _ (.mv m) x).mem = _ from (State.finishDesc_kept _ (.mv m) x).keeps (x := .mem) (by decide)]
    exact ((Only.refl _).replayStep (pt := Field.but .mem) _ _ (Allow.but (by decide))).kept
  unfold State.endDesc
  simp only [noFence, late, early, arrived, access, small, if_true, if_false, decide_false, Bool.or_self, Bool.false_eq_true, ← hv]
  split
  · refine ⟨?_, (State.getF_setF_same ..).trans (Nat.zero_mod _), mem⟩
    rw [State.setF_eng, State.eng_setEng_same]
  · refine ⟨?_, (State.getF_setF_same ..).trans (Nat.zero_mod _), mem⟩
    unfold State.freeEngine
    rw [State.setF_eng, State.setStream_eng, State.eng_setEng_same]

theorem State.endDesc_queue {rest : List Desc} (large : 16 ≤ u.val) (queue : s.queue (.mv m) u = x :: rest) :
    (s.endDesc (.mv m) u x).queue (.mv m) u = rest ∧ (s.endDesc (.mv m) u x).mem = (s.descWrites (.mv m) u x).mem := by
  have late : ¬x.deadline < s.beat (.mv m) := Nat.not_lt.mpr inTime
  have early : ¬s.beat (.mv m) < x.start + workBeats x.op.work := Nat.not_lt.mpr worked
  obtain ⟨v, hv⟩ : ∃ v, v = (s.descWrites (.mv m) u x).replayStep (.mv m) x := ⟨_, rfl⟩
  have mem : v.mem = (s.descWrites (.mv m) u x).mem := by
    rw [hv]
    exact ((Only.refl _).replayStep (pt := Field.but .mem) _ _ (Allow.but (by decide))).kept
  have written : Only (Field.but .queues) s v := hv ▸ ((Only.refl s).descWrites (hg0 := Allow.but (by decide))
    (hg1 := Allow.but (by decide)) (hg2 := Allow.but (by decide)) (hp := Allow.but (by decide)) ..).replayStep (hp := Allow.but (by decide)) ..
  have left : (v.queue (.mv m) u).drop 1 = rest := by rw [State.queue_of_same written.kept, queue]; rfl
  unfold State.endDesc
  simp only [noFence, late, early, arrived, access, Nat.not_lt.mpr large, if_false, decide_false, Bool.or_self, Bool.false_eq_true, ← hv, left]
  obtain ⟨w, hw⟩ : ∃ w, w =
      if rest == [] then (v.setQueue (.mv m) u rest).setEng (.mv m) u { (v.setQueue (.mv m) u rest).eng (.mv m) u with
    got := [] } else v.setQueue (.mv m) u rest := ⟨_, rfl⟩
  have gone : w.queue (.mv m) u = rest ∧ w.mem = v.mem := by
    have same : (v.setQueue (.mv m) u rest).mem = v.mem :=
      ((Only.refl v).setQueue (pt := Field.but .mem) (hg0 := Allow.but (by decide)) (hp := Allow.but (by decide)) ..).kept
    rw [hw]
    split <;> exact ⟨State.queue_setQueue_same .., same⟩
  rw [← hw]
  have ended := State.finishDesc_kept (if x.sandbox then w else w.setStream (.mv m) x.eng x.ctx { w.stream (.mv m) x.eng x.ctx with
    away := (w.stream (.mv m) x.eng x.ctx).away - 1 }) (.mv m) x
  constructor
  · rw [State.queue_of_same (ended.keeps (x := .queues) (by decide))]
    split <;> exact gone.1
  · rw [show (State.finishDesc _ (.mv m) x).mem = _ from ended.keeps (x := .mem) (by decide)]
    split <;> exact gone.2.trans mem

include alive

theorem does_descriptorComplete_engine (small : u.val < 16) (busy : (s.eng (.mv m) u).desc = some x) :
    Does (.descriptorComplete m u) s fun t => (t.eng (.mv m) u).desc = none ∧
      t.getF (.mv m) .eng 0 Reg.ENG_E_BUSY (4 * u) = 0 ∧ t.mem = (s.descWrites (.mv m) u x).mem := by
  refine .intro (t := s.endDesc (.mv m) u x) ?_ (State.endDesc_engine noFence inTime arrived worked access small)
  show execDescriptorComplete m u s = _
  simp only [execDescriptorComplete, alive, small, busy, bne_self_eq_false, Bool.false_eq_true, if_false, if_true]

theorem does_descriptorComplete_queue {rest : List Desc} (large : 16 ≤ u.val) (queue : s.queue (.mv m) u = x :: rest) :
    Does (.descriptorComplete m u) s fun t => t.queue (.mv m) u = rest ∧ t.mem = (s.descWrites (.mv m) u x).mem := by
  refine .intro (t := s.endDesc (.mv m) u x) ?_ (State.endDesc_queue noFence inTime arrived worked access large queue)
  show execDescriptorComplete m u s = _
  simp only [execDescriptorComplete, alive, Nat.not_lt.mpr large, queue, bne_self_eq_false, Bool.false_eq_true, if_false, List.head?_cons]

end

theorem does_descriptorComplete_abort {m : Mv} {u : Fin 22} (aborted : (s.eng (.mv m) u).abortAt ≠ 0) :
    Does (.descriptorComplete m u) s fun t => (t.eng (.mv m) u).abortAt = 0 := by
  unfold Does
  show ∃ t, execDescriptorComplete m u s = .next t ∧ _
  simp only [execDescriptorComplete, bne_iff_ne.mpr aborted, if_true]
  refine ⟨_, rfl, ?_⟩
  have cleared : ((s.setEng (.mv m) u { s.eng (.mv m) u with abortAt := 0 }).eng (.mv m) u).abortAt = 0 := by rw [State.eng_setEng_same]
  split <;> exact cleared

/-! ### Bounds -/

/-- A fault on a die writes no context's state but its own there. -/
theorem State.ctxFaultOn_state (u : State) (n cause eng rc : Nat) (hold logged : Bool) (d : Die) :
    (u.ctxState d n = 3 ∨ u.ctxState d n = 0) ∧ u.ctxFaultOn n cause eng rc hold logged d = u ∨
      Only (Field.but (.ofReg .eng Reg.ENG_CTX_STATE_STATE)) (u.setCtxState d n 3) (u.ctxFaultOn n cause eng rc hold logged d) := by
  unfold State.ctxFaultOn
  split
  case isTrue h =>
    rw [Bool.or_eq_true, beq_iff_eq, beq_iff_eq] at h
    exact .inl ⟨h.symm, rfl⟩
  case isFalse =>
    refine .inr ?_
    dsimp only
    refine (fun h => Only.ite (Only.raise h none _ (Allow.but (by decide))) h) ?_
    refine (fun h => Only.ite (Only.dropAction h _ _ (Allow.but (by decide)))
      (Only.ite (Only.answerFault h _ _ _ (Allow.but (by decide))) h)) ?_
    refine (fun h => Only.ite h (Only.log h _ _ _ _ _ _ (Allow.but (by decide)) (Allow.but (by decide)))) ?_
    exact (((((Only.refl _).setF (hp := Allow.but (by decide)) ..).setF (hp := Allow.but (by decide)) ..).setF (hp := Allow.but (by decide))
      ..).setCtx (hp := Allow.but (by decide)) ..).setF (hp := Allow.but (by decide)) ..

theorem winBase_inj {d e : Die} (h : winBase d = winBase e) : d = e :=
  Option.some.inj ((dieOfWin_winBase_add d (off := 0) (by decide)).symm.trans ((congrArg (fun b => dieOfWin (b + 0)) h).trans
    (dieOfWin_winBase_add e (by decide))))

theorem State.ctxState_setCtxState_ne (u : State) {d e : Die} (n v : Nat) (h : d ≠ e) : (u.setCtxState e n v).ctxState d n = u.ctxState d n :=
  State.getF_setF_ne _ (fkey_ne (by decide) (by decide) (.inl fun g => h (winBase_inj (Nat.add_right_cancel (Nat.add_right_cancel
    (Nat.add_right_cancel g))))))

/-- A context that runs or is faulted is faulted after it faults. -/
theorem State.ctxState_ctxFaultOn {u : State} {d : Die} {n : Nat} (cause eng rc : Nat) (hold logged : Bool) (e : Die)
    (h : u.ctxState d n = 3 ∨ u.ctxState d n = 2 ∧ e = d) : (u.ctxFaultOn n cause eng rc hold logged e).ctxState d n = 3 := by
  rcases u.ctxFaultOn_state n cause eng rc hold logged e with ⟨idle, same⟩ | written
  · rw [same]
    rcases h with h | ⟨runs, rfl⟩
    · exact h
    · omega
  · refine (Field.getF_of_same written.kept ..).trans ?_
    by_cases k : d = e
    · rw [k]; exact State.getF_setF_same ..
    · exact (u.ctxState_setCtxState_ne n 3 k).trans (h.resolve_right fun g => k g.2.symm)

theorem State.ctxState_faultAll {u : State} {d : Die} {n : Nat} (cause eng rc : Nat) (runs : u.ctxState d n = 2) :
    (u.faultAll d n cause eng rc).ctxState d n = 3 :=
  List.foldlRecOn (motive := fun v : State => v.ctxState d n = 3) mvDies _ (State.ctxState_ctxFaultOn _ _ _ _ _ d (.inr ⟨runs, rfl⟩))
    fun _ h e _ => State.ctxState_ctxFaultOn _ _ _ _ _ e (.inl h)

/-- The end of a descriptor's bound leaves the engines and queues as its abort left them. -/
theorem State.boundFault_ended (s : State) (d : Die) (u : Nat) (x : Desc) :
    ∃ v, Only (Field.outside [.engs, .queues, .ofReg .eng Reg.ENG_CTX_STATE_STATE]) s v ∧ v.time = s.time ∧
      Only (Field.outside [.engs, .queues]) (v.endNum d u x.num 0x05) (s.boundFault d u x) ∧
      (x.sandbox = false → s.ctxState d x.ctx = 2 → (s.boundFault d u x).ctxState d x.ctx = 3) := by
  unfold State.boundFault
  split
  case isTrue sandbox =>
    exact ⟨s, .refl _, rfl, (Only.refl _).replayHit (hp := Allow.outside (by decide)) .., fun h => absurd (sandbox.symm.trans h) nofun⟩
  case isFalse =>
    have dropped : Only (Field.outside [.engs, .queues, .ofReg .eng Reg.ENG_CTX_STATE_STATE]) s (s.dropFence d x.ctx u) :=
      (Only.refl s).dropFence (hp := Allow.outside (by decide)) ..
    refine ⟨_, dropped, ((Kept.refl s).dropFence ..).clock, (Only.refl _).descFault (hg0 := Allow.outside (by decide))
      (hg1 := Allow.outside (by decide)) (hp := Allow.outside (by decide)) .., fun _ runs => ?_⟩
    have ended : Only (Field.but (.ofReg .eng Reg.ENG_CTX_STATE_STATE)) (s.dropFence d x.ctx u) (((s.dropFence d x.ctx u).endNum d u x.num
        0x05).returnToken d 0 x.ctx x.eng) :=
      ((Only.refl _).endNum (hg0 := Allow.but (by decide)) (hp := Allow.but (by decide)) ..).returnToken (hp := Allow.but (by decide)) ..
    have still : (((s.dropFence d x.ctx u).endNum d u x.num 0x05).returnToken d 0 x.ctx x.eng).ctxState d x.ctx = 2 :=
      (Field.getF_of_same ended.kept ..).trans ((Field.getF_of_same (dropped.keeps (x := .ofReg .eng Reg.ENG_CTX_STATE_STATE) (by decide))
        ..).trans runs)
    unfold State.descFault
    simp only [still]
    exact State.ctxState_faultAll _ _ _ still

theorem does_descriptorBoundExpiry_engine {m : Mv} {u : Fin 22} {x : Desc} (small : u.val < 16) (busy : (s.eng (.mv m) u).desc = some x)
    (late : x.deadline ≤ s.beat (.mv m)) :
    Does (.descriptorBoundExpiry m u) s fun t => (t.eng (.mv m) u).desc = none ∧ (t.eng (.mv m) u).abortAt = s.time + 1 ∧
      (x.sandbox = false → x.ctx < 32 → s.ctxState (.mv m) x.ctx = 2 → t.ctxState (.mv m) x.ctx = 3) := by
  obtain ⟨v, dropped, time, faulted, state⟩ := s.boundFault_ended (.mv m) u x
  have busy' : (v.eng (.mv m) u).desc = some x := by rw [State.eng_of_same (dropped.keeps (x := .engs) (by decide)), busy]
  have ended : ((v.endNum (.mv m) u x.num 0x05).eng (.mv m) u).desc = none ∧ ((v.endNum (.mv m) u x.num 0x05).eng (.mv m) u).abortAt =
      s.time + 1 := by
    unfold State.endNum
    simp only [small, busy', if_true, Option.any_some, beq_self_eq_true]
    unfold State.abortUnit
    simp only [small, busy', if_true]
    rw [State.eng_setEng_same]
    exact ⟨rfl, congrArg (· + 1) ((((Kept.refl v).dropReads ..).clock).trans time)⟩
  refine .intro (t := s.boundFault (.mv m) u x) ?_ ?_
  · show execDescriptorBoundExpiry m u s = _
    unfold execDescriptorBoundExpiry
    simp only [small, busy, late, if_true, Option.filter_some, decide_true]
  · rw [State.eng_of_same (faulted.keeps (x := .engs) (by decide))]
    exact ⟨ended.1, ended.2, fun plain _ runs => state plain runs⟩

theorem does_descriptorBoundExpiry_queue {m : Mv} {u : Fin 22} {x : Desc} {rest : List Desc} (large : 16 ≤ u.val)
    (queue : s.queue (.mv m) u = x :: rest) (once : x ∉ rest) (late : x.deadline ≤ s.beat (.mv m)) :
    Does (.descriptorBoundExpiry m u) s fun t => t.queue (.mv m) u = rest := by
  obtain ⟨v, dropped, -, faulted, -⟩ := s.boundFault_ended (.mv m) u x
  have queue' : v.queue (.mv m) u = x :: rest := by rw [State.queue_of_same (dropped.keeps (x := .queues) (by decide)), queue]
  have left : (x :: rest).filter (fun y => y != x) = rest := by
    rw [List.filter_cons_of_neg (by simp), List.filter_eq_self]
    exact fun y hy => bne_iff_ne.mpr fun h => once (h ▸ hy)
  have fold (l : List Desc) (w : State) : Only (Field.but .queues) w (l.foldl (fun t x =>
      if x.sandbox then t.dropReads (.mv m) u x.num
      else (t.dropReads (.mv m) u x.num).setStream (.mv m) x.eng x.ctx { t.stream (.mv m) x.eng x.ctx with
        away := (t.stream (.mv m) x.eng x.ctx).away - 1 }) w) :=
    Only.foldl l (fun _ _ h => Only.ite (h.dropReads (hp := Allow.but (by decide)) ..) ((h.dropReads (hp := Allow.but (by decide)) ..).setStream
      (hp := Allow.but (by decide)) ..)) (Only.refl w)
  have ended : (v.endNum (.mv m) u x.num 0x05).queue (.mv m) u = rest := by
    unfold State.endNum
    simp only [Nat.not_lt.mpr large, queue', if_false, List.head?_cons, Option.any_some, beq_self_eq_true, if_true]
    unfold State.abortUnit
    simp only [Nat.not_lt.mpr large, queue', if_false]
    refine (State.queue_of_same (((Only.refl _).setEng (pt := Field.but .queues) (hp := Allow.but (by decide)) ..).kept) ..).trans ?_
    unfold State.dropQueued
    rw [State.queue_of_same (fold _ _).kept, State.queue_setQueue_same, queue', left]
  refine .intro (t := s.boundFault (.mv m) u x) ?_ ?_
  · show execDescriptorBoundExpiry m u s = _
    unfold execDescriptorBoundExpiry
    simp only [Nat.not_lt.mpr large, if_false, queue, List.find?_cons_of_pos (p := fun x : Desc => decide (x.deadline ≤ s.beat (.mv m)))
      (decide_eq_true late)]
  · rw [State.queue_of_same (faulted.keeps (x := .queues) (by decide)), ended]

/-- Settles O17, one lemma for each clause. -/
theorem engineCommandsComplete : Obligations.EngineCommandsComplete :=
  ⟨fun _ _ _ _ atFrame on sel kind => does_runSelect_schedule atFrame on sel kind,
    fun _ _ _ _ _ _ atFrame on sel fresh next => does_runSelect_open atFrame on sel fresh next,
    fun _ _ _ atFrame on sel => does_runSelect_none atFrame on sel,
    fun _ _ _ _ _ _ _ _ _ _ _ run stream header on free idle sound noReplay eager bound going ready clean op reading cause unit access
      startable token fits good place => does_descriptorStart run stream header on free idle sound noReplay eager bound going ready clean op
        reading cause unit access startable token fits good place,
    fun _ _ _ _ small alive busy noFence inTime arrived worked access =>
      does_descriptorComplete_engine alive noFence inTime arrived worked access small busy,
    fun _ _ _ _ _ large alive queue noFence inTime arrived worked access =>
      does_descriptorComplete_queue alive noFence inTime arrived worked access large queue,
    fun _ _ _ aborted => does_descriptorComplete_abort aborted,
    fun _ _ _ _ small busy late => does_descriptorBoundExpiry_engine small busy late,
    fun _ _ _ _ _ large queue once late => does_descriptorBoundExpiry_queue large queue once late⟩

end Sys2Proof.Machine
end

section
/-! The partner state machine of a tray port before training (R198 to R205). -/

namespace Sys2Proof.Machine

variable {s t z : State}

/-! ### Training states -/

/-- The fields that hold the training states. -/
def stateRegs : List Field := [.ofReg .ikl Reg.IKL_LL_STATUS_STATE, .ofReg .trayPort Reg.TRYP_LL_STATUS_STATE]

theorem State.lst_of_same (h : Only (Field.outside stateRegs) s t) (e : LinkEnd) : t.lst e = s.lst e := by
  cases e with
  | ikl d sl => exact Field.getF_of_same (h.keeps (x := .ofReg .ikl Reg.IKL_LL_STATUS_STATE) (by decide)) ..
  | tray n => exact Field.getF_of_same (h.keeps (x := .ofReg .trayPort Reg.TRYP_LL_STATUS_STATE) (by decide)) ..

/-- Training anew keeps the backoff. -/
theorem LinkSt.backoff_retrain (l : LinkSt) (n : Nat) : (l.retrain n).backoff = l.backoff :=
  List.foldlRecOn (motive := fun x : LinkSt => x.backoff = l.backoff) (List.range n) _ rfl fun _ h _ _ => h

/-- A tray port that was not in service returns to `LISTEN` with the next backoff. -/
theorem State.linkReturn_tray {n : Fin 8} (rc : Nat) (counted : Bool) (idle : s.inService (.tray n) = false) (pin : s.lst (.tray n) = stPin →
    rc ≠ 0x3004) :
    (s.linkReturn (.tray n) rc counted).lst (.tray n) = stListen ∧
      ((s.linkReturn (.tray n) rc counted).link (.tray n)).backoff = nextBackoff (s.link (.tray n)).backoff := by
  have unended : s.endService (.tray n) = s := by
    unfold State.endService
    rw [idle]; rfl
  have pinning : (s.lst (.tray n) == stPin && rc == 0x3004) = false := by
    by_cases h : s.lst (.tray n) = stPin
    · rw [beq_false_of_ne (pin h), Bool.and_false]
    · rw [beq_false_of_ne h]; rfl
  unfold State.linkReturn
  simp only [unended, idle, pinning, Bool.false_eq_true, if_false, Bool.or_self, Bool.false_and, LinkSt.backoff_retrain]
  generalize hv : State.setF _ _ _ _ Reg.TRYP_RETRY_BACKOFF _ _ = v
  refine ⟨State.lst_toSt _ _ _ (by decide), ?_⟩
  rw [State.toSt_link]
  show (v.link (.tray n)).backoff = _
  have links : Field.same .links (s.setLink (.tray n) { (s.link (.tray n)).retrain (nBundles (.tray n) + if isTray (.tray n) then 24 else 0) with
      backoff := nextBackoff (s.link (.tray n)).backoff, backAt := s.time }) v :=
    hv ▸ ((((Only.refl _).logLink (hg0 := Allow.but (by decide)) (hp := Allow.but (by decide)) ..).setF (hp := Allow.but (by decide)) ..).setF
      (hp := Allow.but (by decide)) ..).kept
  rw [State.link_of_same links, State.link_setLink_same]

/-! ### Beacons -/

theorem does_beaconBurst {n : Fin 8} (seek : s.lst (.tray n) = stSeek) :
    Does (.beaconBurst n) s fun t => (t.link (.tray n)).beaconAt = s.time + 1 ∧ (t.link (.tray n)).lastBlock = s.block n := by
  refine .intro (t := s.setLink (.tray n) { s.link (.tray n) with beaconAt := s.time + 1, lastBlock := s.block n }) ?_ ?_
  · show execBeaconBurst n s = _
    simp only [execBeaconBurst, seek, beq_self_eq_true, Bool.true_or, if_true]
  · rw [State.link_setLink_same]
    exact ⟨rfl, rfl⟩

/-- The state of a tray port that has received a block in order: the signal noted and the partner's name shown. -/
def State.sawBlock (s : State) (n : Fin 8) (v : Nat) : State :=
  ((((s.setLink (.tray n) { s.link (.tray n) with sigAt := s.time, noSigLogged := false }).setPf n Reg.TRYP_PORT_STATUS_SIGNAL 1).setPf n
    Reg.TRYP_PORT_STATUS_SEEN_PKG (bitsOf v 64 4)).setPf n Reg.TRYP_PORT_STATUS_SEEN_PORT (bitsOf v 68 3)).setPf n
      Reg.TRYP_PORT_STATUS_SEEN_VALID 1

theorem State.lst_sawBlock (s : State) (n : Fin 8) (v : Nat) : Only (Field.outside stateRegs) s (s.sawBlock n v) :=
  ((((((Only.refl s).setLink (hp := Allow.outside (by decide)) ..).setF (hp := Allow.outside (by decide)) ..).setF
    (hp := Allow.outside (by decide)) ..).setF (hp := Allow.outside (by decide)) ..).setF (hp := Allow.outside (by decide)) ..)

theorem State.link_sawBlock (s : State) (n : Fin 8) (v : Nat) :
    (s.sawBlock n v).link (.tray n) = { s.link (.tray n) with sigAt := s.time, noSigLogged := false } := by
  simp only [State.sawBlock, State.setPf, State.setF_link, State.link_setLink_same]

section
variable {n : Fin 8} {blk : BitVec 256} (locked : Bool) (listen : s.lst (.tray n) = stListen)
  (magic : bitsOf blk.toNat 0 32 = 0x5A5AC3C3) (crc : bitsOf blk.toNat 224 32 = crc32 (leBytes 28 (bitsOf blk.toNat 0 224)))
include listen magic crc

theorem exec_beaconBlock : execBeaconBlock n blk locked s = .next (
    if s.blockMatches n blk.toNat then
      ((s.sawBlock n blk.toNat).setPf n Reg.TRYP_PORT_STATUS_ID_OK 1).blockStep n (bit blk.toNat 71) locked
    else if decide (blk.toNat ∈ (s.link (.tray n)).wrong) then
      ((s.sawBlock n blk.toNat).setPf n Reg.TRYP_PORT_STATUS_ID_OK 0).setPf n Reg.TRYP_PORT_STATUS_ID_MISMATCH 1
    else
      let v := ((((s.sawBlock n blk.toNat).setPf n Reg.TRYP_PORT_STATUS_ID_OK 0).setPf n Reg.TRYP_PORT_STATUS_ID_MISMATCH 1).logLink (.tray n)
        0xB004).setPf n Reg.TRYP_RETRY_LAST_RC 0xB004
      v.setLink (.tray n) { v.link (.tray n) with wrong := blk.toNat :: (s.link (.tray n)).wrong }) := by
  have good : (!(bitsOf blk.toNat 0 32 == 0x5A5AC3C3 && bitsOf blk.toNat 224 32 == crc32 (leBytes 28 (bitsOf blk.toNat 0 224)))) = false := by
    rw [magic, crc, beq_self_eq_true, beq_self_eq_true]; rfl
  unfold execBeaconBlock
  simp only [listen, beq_self_eq_true, Bool.true_or, Bool.not_true, good, Bool.false_eq_true, if_false]
  split
  · rfl
  · split <;> rfl

theorem does_beaconBlock_match (mine : s.blockMatches n blk.toNat = true)
    (rested : (s.link (.tray n)).backAt + (s.link (.tray n)).backoff * msBeats ≤ s.time) :
    Does (.beaconBlock n blk locked) s fun t => t.lst (.tray n) = stSeek ∧ (t.link (.tray n)).ackSend = true ∧
      (t.link (.tray n)).sigAt = s.time := by
  obtain ⟨u, hu⟩ : ∃ u, u = (s.sawBlock n blk.toNat).setPf n Reg.TRYP_PORT_STATUS_ID_OK 1 := ⟨_, rfl⟩
  have link : u.link (.tray n) = { s.link (.tray n) with sigAt := s.time, noSigLogged := false } := by
    rw [hu, State.setPf, State.setF_link, s.link_sawBlock]
  have state : u.lst (.tray n) = stListen := by
    rw [← listen]
    exact State.lst_of_same (hu ▸ (s.lst_sawBlock n blk.toNat).setF (hp := Allow.outside (by decide)) ..) _
  have time : u.time = s.time := by simp only [hu, State.sawBlock, State.setPf, State.setF_time, State.setLink_time]
  obtain ⟨v, hv⟩ : ∃ v, v =
      (u.setLink (.tray n) { u.link (.tray n) with ackSend := true }).bumpF (leDie (.tray n)) .trayPort (leInst (.tray n))
    Reg.TRYP_RETRY_ATTEMPTS := ⟨_, rfl⟩
  have acked : v.link (.tray n) = { u.link (.tray n) with ackSend := true } := by
    rw [hv, State.bumpF, State.setF_link, State.link_setLink_same]
  refine .intro (t := v.toSt (.tray n) stSeek) ?_ ⟨State.lst_toSt _ _ _ (by decide), ?_, ?_⟩
  · refine (exec_beaconBlock locked listen magic crc).trans ?_
    rw [mine, if_pos rfl, ← hu, hv]
    unfold State.blockStep
    simp only [state, link, time, rested, beq_self_eq_true, if_true]
  · rw [State.toSt_link, acked]
  · rw [State.toSt_link, acked, link]

theorem does_beaconBlock_wrong (other : s.blockMatches n blk.toNat = false) (new : blk.toNat ∉ (s.link (.tray n)).wrong) :
    Does (.beaconBlock n blk locked) s fun t => blk.toNat ∈ (t.link (.tray n)).wrong ∧ t.lst (.tray n) = stListen ∧
      (t.die (leDie (.tray n))).log.head?.map LogRec.rc = some 0xB004 := by
  obtain ⟨u, hu⟩ : ∃ u, u = ((s.sawBlock n blk.toNat).setPf n Reg.TRYP_PORT_STATUS_ID_OK 0).setPf n Reg.TRYP_PORT_STATUS_ID_MISMATCH 1 :=
    ⟨_, rfl⟩
  obtain ⟨v, hv⟩ : ∃ v, v = (u.logLink (.tray n) 0xB004).setPf n Reg.TRYP_RETRY_LAST_RC 0xB004 := ⟨_, rfl⟩
  have same : Only (Field.outside stateRegs) s
      (v.setLink (.tray n) { v.link (.tray n) with wrong := blk.toNat :: (s.link (.tray n)).wrong }) := by
    have told : Only (Field.outside stateRegs) s v := by
      rw [hv, hu]
      exact ((((s.lst_sawBlock n blk.toNat).setF (hp := Allow.outside (by decide)) ..).setF (hp := Allow.outside (by decide)) ..).logLink
        (hg0 := Allow.outside (by decide)) (hp := Allow.outside (by decide)) ..).setF (hp := Allow.outside (by decide)) ..
    exact told.setLink (hp := Allow.outside (by decide)) ..
  refine .intro (t := v.setLink (.tray n) { v.link (.tray n) with wrong := blk.toNat :: (s.link (.tray n)).wrong }) ?_
    ⟨?_, (State.lst_of_same same _).trans listen, ?_⟩
  · refine (exec_beaconBlock locked listen magic crc).trans ?_
    rw [other, if_neg Bool.false_ne_true, decide_eq_false new, if_neg Bool.false_ne_true, hv, hu]
  · rw [State.link_setLink_same]
    exact List.mem_cons_self ..
  · rw [hv]
    exact State.log_head u ..

end

/-! ### Time limits -/

theorem does_noPartnerSignal {n : Fin 8} (listen : s.lst (.tray n) = stListen) (first : (s.link (.tray n)).noSigLogged = false)
    (late : max (s.link (.tray n)).sigAt (s.link (.tray n)).since + 100 * msBeats ≤ s.time) :
    Does (.noPartnerSignal n) s fun t => (t.link (.tray n)).noSigLogged = true ∧
      (t.die (leDie (.tray n))).log.head?.map LogRec.rc = some 0xB001 := by
  obtain ⟨u, hu⟩ : ∃ u, u = ((s.logLink (.tray n) 0xB001).setPf n Reg.TRYP_PORT_STATUS_SIGNAL 0).setPf n Reg.TRYP_RETRY_LAST_RC 0xB001 :=
    ⟨_, rfl⟩
  refine .intro (t := u.setLink (.tray n) { u.link (.tray n) with noSigLogged := true }) ?_ ⟨by rw [State.link_setLink_same], ?_⟩
  · show execNoPartnerSignal n s = _
    simp only [execNoPartnerSignal, listen, first, late, beq_self_eq_true, Bool.not_false, decide_true, Bool.and_self, if_true, hu]
  · rw [hu]
    exact State.log_head ..

theorem does_seekTimeout {n : Fin 8} (seek : s.lst (.tray n) = stSeek) (late : 50 * msBeats ≤ s.inState (.tray n)) :
    Does (.seekTimeout n) s fun t => t.lst (.tray n) = stListen ∧
      (t.link (.tray n)).backoff = nextBackoff (s.link (.tray n)).backoff := by
  have idle : s.inService (.tray n) = false := by unfold State.inService; rw [seek]; rfl
  refine .intro (t := s.linkReturn (.tray n) 0xB002 true) ?_ (State.linkReturn_tray 0xB002 true idle fun _ => by decide)
  show execSeekTimeout n s = _
  simp only [execSeekTimeout, seek, late, beq_self_eq_true, decide_true, Bool.and_self, if_true]

theorem does_partnerSignalLost {n : Fin 8} (first : stCalib ≤ s.lst (.tray n)) (last : s.lst (.tray n) ≤ stSync)
    (late : max (s.link (.tray n)).sigAt (s.link (.tray n)).since + msBeats ≤ s.time) :
    Does (.partnerSignalLost n) s fun t => t.lst (.tray n) = stListen := by
  obtain ⟨u, hu⟩ : ∃ u, u = s.setPf n Reg.TRYP_PORT_STATUS_SIGNAL 0 := ⟨_, rfl⟩
  have state : u.lst (.tray n) = s.lst (.tray n) :=
    State.lst_of_same (hu ▸ (Only.refl s).setF (hp := Allow.outside (by decide)) ..) _
  have idle : u.inService (.tray n) = false := by
    unfold State.inService
    rw [state, Bool.or_eq_false_iff, beq_eq_false_iff_ne, beq_eq_false_iff_ne]
    exact ⟨fun h => absurd (h ▸ last) (by decide), fun h => absurd (h ▸ last) (by decide)⟩
  refine .intro (t := u.linkReturn (.tray n) 0xB002 true) ?_ (State.linkReturn_tray 0xB002 true idle fun _ => by decide).1
  show execPartnerSignalLost n s = _
  simp only [execPartnerSignalLost, first, last, late, decide_true, and_self, Bool.and_self, if_true, hu]

/-- Settles O12, one lemma for each clause. -/
theorem trayPartnerCommandsComplete : Obligations.TrayPartnerCommandsComplete :=
  ⟨fun _ _ seek => does_beaconBurst seek,
    fun _ _ locked _ listen magic crc mine rested => does_beaconBlock_match locked listen magic crc mine rested,
    fun _ _ locked _ listen magic crc other new => does_beaconBlock_wrong locked listen magic crc other new,
    fun _ _ listen first late => does_noPartnerSignal listen first late,
    fun _ _ seek late => does_seekTimeout seek late,
    fun _ _ first last late => does_partnerSignalLost first last late⟩

end Sys2Proof.Machine
end

section
/-! Change sets are armed, confirmed, decided and applied, or discarded and aborted (R424 to R440). -/

namespace Sys2Proof.Machine

variable {s t z : State}

/-! ### The set in hand -/

/-- The parts of a set that neither a die's part nor a confirmation changes. -/
structure SameSet (z s : State) : Prop where
  armed : s.chg.armed = z.chg.armed
  setId : s.chg.setId = z.chg.setId
  turn : s.chg.turn = z.chg.turn
  act : s.chg.act = z.chg.act
  decided : s.chg.decided = z.chg.decided

namespace SameSet

theorem of_chg (h : t.chg = s.chg) : SameSet s t := ⟨by rw [h], by rw [h], by rw [h], by rw [h], by rw [h]⟩

theorem trans (h : SameSet z s) (g : SameSet s t) : SameSet z t :=
  ⟨g.armed.trans h.armed, g.setId.trans h.setId, g.turn.trans h.turn, g.act.trans h.act, g.decided.trans h.decided⟩

theorem keeps (h : SameSet z s) (g : Only (Field.but .chg) s t) : SameSet z t := h.trans (of_chg g.kept)

theorem setPart (h : SameSet z s) (d : Die) (p : Option Part) : SameSet z (s.setPart d p) :=
  h.trans (t := s.setPart d p) ⟨rfl, rfl, rfl, rfl, rfl⟩

theorem freeze (h : SameSet z s) (d : Die) (hackLen turn : Nat) : SameSet z (s.freeze d hackLen turn).2.2 := by
  unfold State.freeze
  exact (h.keeps (Only.foldl _ (fun _ _ g => g.showArm (hp := Allow.but (by simp [Field.ofReg])) ..) (Only.refl s))).setPart ..

theorem takeConfirm (h : SameSet z s) (d : Die) (cls : Nat) (bad : Option Nat) : SameSet z (s.takeConfirm d cls bad) := by
  have seen : SameSet z (s.setF cr0 .cfg 0 Reg.CFG_ARM_STATUS_CLASS (max (s.getF cr0 .cfg 0 Reg.CFG_ARM_STATUS_CLASS) cls)) :=
    h.keeps ((Only.refl s).setF (hp := Allow.but (by decide)) ..)
  unfold State.takeConfirm
  split
  · exact seen.keeps ((Only.refl _).setF (hp := Allow.but (by decide)) ..)
  · dsimp only
    split
    · exact seen.trans ⟨rfl, rfl, rfl, rfl, rfl⟩
    · exact seen

end SameSet

/-- A set begun is armed, with what it was begun with. -/
theorem State.beginSet_chg (s : State) (c : ChgSt) (needed : Nat) :
    SameSet { s with chg := { c with armed := true } } (s.beginSet c needed) := by
  obtain ⟨u, hu⟩ : ∃ u, u = { s with chg := { c with armed := true, parts := s.chg.parts } } := ⟨_, rfl⟩
  have begun : SameSet { s with chg := { c with armed := true } } u := by rw [hu]; exact ⟨rfl, rfl, rfl, rfl, rfl⟩
  unfold State.beginSet
  rw [← hu]
  exact ((begun.keeps ((((((Only.refl u).setF (hp := Allow.but (by decide)) ..).setF (hp := Allow.but (by decide)) ..).setF
    (hp := Allow.but (by decide)) ..).setF (hp := Allow.but (by decide)) ..).setF (hp := Allow.but (by decide)) ..)).keeps
    ((Only.refl _).armDies opArm (Allow.but (by decide)))).freeze cr0 c.hackLen c.turn |>.takeConfirm ..

/-- An aborted set is in hand no more, and its reason is shown. -/
theorem State.abortSet_done (s : State) {rc : Nat} (h : rc < 2 ^ 16) :
    (s.abortSet rc).chg.armed = false ∧ (s.abortSet rc).getF cr0 .cfg 0 Reg.CFG_ARM_STATUS_REASON = rc := by
  refine ⟨rfl, ?_⟩
  obtain ⟨u, hu⟩ : ∃ u, u = (s.refuseBlk cr0 .cfg 0 rc).setF cr0 .cfg 0 Reg.CFG_ARM_STATUS_REASON rc := ⟨_, rfl⟩
  have shown : u.getF cr0 .cfg 0 Reg.CFG_ARM_STATUS_REASON = rc := by
    rw [hu]
    exact (State.getF_setF_same ..).trans (Nat.mod_eq_of_lt h)
  have told : Only (Field.but (.ofReg .cfg Reg.CFG_ARM_STATUS_REASON)) u (((u.setF cr0 .cfg 0 Reg.CFG_ARM_STATE 3).armDies opAbort).setPart
      cr0 none) :=
    (((Only.refl u).setF (hp := Allow.but (by decide)) ..).armDies (hp := Allow.but (by decide)) ..).setPart (hp := Allow.but (by decide)) ..
  have passed := Only.ite (c := s.chg.tray) (told.armTray opAbort (Allow.but (by decide))) told
  unfold State.abortSet
  rw [← hu]
  dsimp only
  generalize (if s.chg.tray then _ else _) = v at passed ⊢
  refine Eq.trans ?_ ((Field.getF_of_same passed.kept ..).trans shown)
  split <;> rfl

theorem State.commitSet_decided (s : State) : s.commitSet.chg.decided = 1 := by
  obtain ⟨u, hu⟩ : ∃ u, u = { s with chg := { s.chg with decided := 1 } } := ⟨_, rfl⟩
  have decided : u.chg.decided = 1 := by rw [hu]
  have rest {v : State} (held : SameSet u v) : SameSet u (if s.chg.act then
      { (if s.chg.tray then (v.armDies opCommit).armTray opCommit else v.armDies opCommit) with
        boot := { (if s.chg.tray then (v.armDies opCommit).armTray opCommit else v.armDies opCommit).boot with
          actTurn := s.chg.turn + 1 } }.set64 cr0 .boot 0 Reg.BOOT_ACT_TURN_LO_TURN Reg.BOOT_ACT_TURN_HI_TURN s.chg.turn
      else if s.chg.tray then (v.armDies opCommit).armTray opCommit else v.armDies opCommit) := by
    have told : Only (Field.but .chg) v (v.armDies opCommit) := (Only.refl v).armDies opCommit (Allow.but (by decide))
    have passed := held.keeps (Only.ite (c := s.chg.tray) (told.armTray opCommit (Allow.but (by decide))) told)
    generalize (if s.chg.tray then _ else _) = w at passed ⊢
    split
    · exact passed.trans ⟨rfl, rfl, rfl, rfl, rfl⟩
    · exact passed
  unfold State.commitSet
  rw [← hu]
  cases hp : u.part cr0 with
  | none => simp only [hp]; exact (rest (.of_chg rfl)).decided.trans decided
  | some p => simp only [hp]; exact (rest ((SameSet.of_chg rfl).setPart ..)).decided.trans decided

/-! ### Writes of `CFG.ARM` -/

/-- The state after the fields of a write of `CFG.ARM`. -/
def State.armFields (s : State) (w : Nat) : State :=
  ((((s.setF cr0 .cfg 0 Reg.CFG_ARM_SCOPE (bitsOf w 2 1)).setF cr0 .cfg 0 Reg.CFG_ARM_BY_TAI (bitsOf w 3 1)).setF cr0 .cfg 0
    Reg.CFG_ARM_BANK (bitsOf w 4 1)).setF cr0 .cfg 0 Reg.CFG_ARM_HACK_LEN (bitsOf w 5 7)).setF cr0 .cfg 0 Reg.CFG_ARM_SET_ID (bitsOf w 20 8)

theorem State.armWrite_eq (s : State) (w : Nat) : s.armWrite w =
    (let u := if bit w 1 then (s.armFields w).armDiscard else s.armFields w
     if bit w 0 then u.armGo else u) := rfl

theorem State.armFields_setBit (s : State) (w : Nat) {i : Nat} (h : i < 2) : s.armFields (setBit w i) = s.armFields w := by
  unfold State.armFields
  rw [bitsOf_setBit (.inl h), bitsOf_setBit (.inl (by omega)), bitsOf_setBit (.inl (by omega)), bitsOf_setBit (.inl (by omega)),
    bitsOf_setBit (.inl (by omega))]

theorem State.armFields_clrBit (s : State) (w : Nat) {i : Nat} (h : i < 2) : s.armFields (clrBit w i) = s.armFields w := by
  unfold State.armFields
  rw [bitsOf_clrBit (.inl h), bitsOf_clrBit (.inl (by omega)), bitsOf_clrBit (.inl (by omega)), bitsOf_clrBit (.inl (by omega)),
    bitsOf_clrBit (.inl (by omega))]

/-- A write of GO alone arms on the fields that the same write without GO leaves. -/
theorem exec_armGo {w : Word} (noDiscard : bit w.toNat 1 = false) : execArmGo w s = .next (s.armWrite (clrBit w.toNat 0)).armGo := by
  have set1 : bit (setBit w.toNat 0) 1 = false := by rw [bit_setBit, noDiscard]; rfl
  have clr1 : bit (clrBit w.toNat 0) 1 = false := by rw [bit_clrBit, noDiscard]; rfl
  unfold execArmGo
  rw [State.armWrite_eq, State.armWrite_eq, set1, clr1, bit_setBit_same, bit_clrBit_same, State.armFields_setBit _ _ (by decide),
    State.armFields_clrBit _ _ (by decide)]
  rfl

/-- A write of DISCARD alone discards after its fields. -/
theorem exec_armDiscard {w : Word} (noGo : bit w.toNat 0 = false) : execArmDiscard w s = .next (s.armFields w.toNat).armDiscard := by
  have set0 : bit (setBit w.toNat 1) 0 = false := by rw [bit_setBit, noGo]; rfl
  unfold execArmDiscard
  rw [State.armWrite_eq, set0, bit_setBit_same, State.armFields_setBit _ _ (by decide)]
  rfl

section
variable {w : Word} {u : State} (noDiscard : bit w.toNat 1 = false) (hu : u = s.armWrite (clrBit w.toNat 0))
include noDiscard hu

theorem does_armGo (ok : u.armCheck (u.isF cr0 .cfg 0 Reg.CFG_ARM_SCOPE) (u.isF cr0 .cfg 0 Reg.CFG_ARM_BY_TAI)
      (u.getF cr0 .cfg 0 Reg.CFG_ARM_HACK_LEN) (u.armTurn (u.isF cr0 .cfg 0 Reg.CFG_ARM_BY_TAI)) = none) :
    Does (.armGo w) s fun t => t.chg.armed = true ∧ t.chg.setId = u.getF cr0 .cfg 0 Reg.CFG_ARM_SET_ID ∧
      t.chg.turn = u.armTurn (u.isF cr0 .cfg 0 Reg.CFG_ARM_BY_TAI) := by
  refine .intro (t := u.armGo) ((exec_armGo noDiscard).trans (by rw [hu])) ?_
  unfold State.armGo
  simp only [ok]
  have begun := State.beginSet_chg (if u.isF cr0 .cfg 0 Reg.CFG_ARM_BY_TAI then u.set64 cr0 .cfg 0 Reg.CFG_COMMIT_TURN_LO_TURN
    Reg.CFG_COMMIT_TURN_HI_TURN (u.armTurn (u.isF cr0 .cfg 0 Reg.CFG_ARM_BY_TAI)) else u)
    { tray := u.isF cr0 .cfg 0 Reg.CFG_ARM_SCOPE, setId := u.getF cr0 .cfg 0 Reg.CFG_ARM_SET_ID
      turn := u.armTurn (u.isF cr0 .cfg 0 Reg.CFG_ARM_BY_TAI), bank := u.isF cr0 .cfg 0 Reg.CFG_ARM_BANK
      hackLen := u.getF cr0 .cfg 0 Reg.CFG_ARM_HACK_LEN } (if u.isF cr0 .cfg 0 Reg.CFG_ARM_SCOPE then u.neededPkgs else 0)
  exact ⟨begun.armed, begun.setId, begun.turn⟩

omit noDiscard hu in
/-- The codes of the checks of an arm fit the field that shows them. -/
theorem State.armCheck_lt {tray byTai : Bool} {hackLen turn rc : Nat} (bad : u.armCheck tray byTai hackLen turn = some rc) : rc < 2 ^ 16 := by
  have listed {l : List (Bool × Nat)} (small : ∀ x ∈ l.map Prod.snd, x < 2 ^ 16) (h : firstOf l = some rc) : rc < 2 ^ 16 := by
    obtain ⟨x, hx, rfl⟩ := Option.map_eq_some_iff.mp h
    exact small _ (List.mem_map_of_mem (List.mem_of_find?_eq_some hx))
  refine listed ?_ bad
  simp only [List.map_cons, List.map_nil]
  decide

theorem does_armGo_refused {rc : Nat} (bad : u.armCheck (u.isF cr0 .cfg 0 Reg.CFG_ARM_SCOPE) (u.isF cr0 .cfg 0 Reg.CFG_ARM_BY_TAI)
      (u.getF cr0 .cfg 0 Reg.CFG_ARM_HACK_LEN) (u.armTurn (u.isF cr0 .cfg 0 Reg.CFG_ARM_BY_TAI)) = some rc) :
    Does (.armGo w) s fun t => t.chg = s.chg ∧ t.getF cr0 .cfg 0 Reg.CFG_ARM_STATUS_REASON = rc := by
  have fields : u.chg = s.chg := by
    have clr1 : bit (clrBit w.toNat 0) 1 = false := by rw [bit_clrBit, noDiscard]; rfl
    rw [hu, State.armWrite_eq, clr1, bit_clrBit_same]
    rfl
  obtain ⟨v, hv⟩ : ∃ v, v = (u.refuseBlk cr0 .cfg 0 rc).setF cr0 .cfg 0 Reg.CFG_ARM_STATUS_REASON rc := ⟨_, rfl⟩
  have reason : v.getF cr0 .cfg 0 Reg.CFG_ARM_STATUS_REASON = rc := by
    rw [hv]
    exact (State.getF_setF_same ..).trans (Nat.mod_eq_of_lt (State.armCheck_lt bad))
  have refused : v.chg = u.chg := by
    rw [hv]
    exact ((((Only.refl u).refuseBlk (hg0 := Allow.but (by decide)) (hg1 := Allow.but (by decide)) (hp := Allow.but (by decide)) ..).setF
      (pt := Field.but .chg) (hp := Allow.but (by decide)) ..)).kept
  refine .intro (t := u.armGo) ((exec_armGo noDiscard).trans (by rw [hu])) ?_
  unfold State.armGo
  simp only [bad, ← hv]
  have shown : Only (Field.outside [.chg, .ofReg .cfg Reg.CFG_ARM_STATUS_REASON]) v (if u.isF cr0 .cfg 0 Reg.CFG_ARM_BANK then
      v.showArm (.gtr, cr0, 0) (some rc) else v) :=
    Only.ite ((Only.refl v).showArm (hp := Allow.outside (by decide)) ..) (Only.refl v)
  exact ⟨((shown.keeps (x := .chg) (by decide)).trans refused).trans fields,
    (Field.getF_of_same (shown.keeps (x := .ofReg .cfg Reg.CFG_ARM_STATUS_REASON) (by decide)) ..).trans reason⟩

end

/-- The staging table is empty after it is cleared. -/
theorem State.isF_clearStage (s : State) {i : Nat} (h : i < 64) : s.clearStage.isF cr0 .cfg 0 Reg.CFG_STAGE_OFF_VALID (8 * i) = false := by
  have cleared (n : Nat) : ∀ i < n, ((List.range n).foldl (fun (t : State) i =>
      ((t.setF cr0 .cfg 0 Reg.CFG_STAGE_OFF_VALID 0 (8 * i)).setF cr0 .cfg 0 Reg.CFG_STAGE_OFF_OFFSET 0 (8 * i)).setF cr0 .cfg 0
        Reg.CFG_STAGE_VAL_VALUE 0 (8 * i)) s).isF cr0 .cfg 0 Reg.CFG_STAGE_OFF_VALID (8 * i) = false := by
    induction n with
    | zero => exact fun _ h => absurd h (Nat.not_lt_zero _)
    | succ n ih =>
      intro i hi
      rw [List.range_succ, List.foldl_append, List.foldl_cons, List.foldl_nil, State.isF_setF_of_tag (by decide),
        State.isF_setF_of_tag (by decide)]
      by_cases e : i = n
      · rw [e]; exact State.isF_setF_zero
      · unfold State.isF
        rw [State.getF_setF_ne _ (fkey_ne (by decide) (by decide) (.inl (by omega)))]
        exact ih i (by omega)
  exact cleared 64 i h

theorem does_armDiscard_idle {w : Word} (noGo : bit w.toNat 0 = false) (idle : s.chg.armed = false) :
    Does (.armDiscard w) s fun t => t.shadow = [] ∧ t.tshadow = [] ∧
      ∀ i < 64, t.isF cr0 .cfg 0 Reg.CFG_STAGE_OFF_VALID (8 * i) = false := by
  obtain ⟨u, hu⟩ : ∃ u, u = { s.armFields w.toNat with shadow := [], tshadow := [] } := ⟨_, rfl⟩
  have kept : Only (Field.outside [.shadow, .tshadow]) u u.clearStage := (Only.refl u).clearStage (Allow.outside (by decide))
  refine .intro (t := u.clearStage) ?_ ⟨(kept.keeps (x := .shadow) (by decide)).trans (by rw [hu]),
    (kept.keeps (x := .tshadow) (by decide)).trans (by rw [hu]), fun i hi => u.isF_clearStage hi⟩
  refine (exec_armDiscard noGo).trans ?_
  unfold State.armDiscard
  have idle' : (s.armFields w.toNat).chg.armed = false := idle
  rw [idle', hu]
  rfl

theorem does_armDiscard_armed {w : Word} (noGo : bit w.toNat 0 = false) (armed : s.chg.armed = true) (open_ : s.chg.decided = 0) :
    Does (.armDiscard w) s fun t => t.chg.armed = false ∧ t.getF cr0 .cfg 0 Reg.CFG_ARM_STATUS_REASON = 0x1006 := by
  have armed' : (s.armFields w.toNat).chg.armed = true := armed
  have open' : (s.armFields w.toNat).chg.decided = 0 := open_
  refine .intro (t := (s.armFields w.toNat).armDiscard) (exec_armDiscard noGo) ?_
  unfold State.armDiscard
  simp only [armed', open', Bool.not_true, Bool.false_eq_true, if_false, bne_self_eq_false]
  split <;> exact State.abortSet_done _ (by decide)

/-! ### Messages of a set -/

theorem State.part_setPart_same (s : State) (d : Die) (p : Option Part) : (s.setPart d p).part d = p := Tab.get_set_same ..

theorem State.part_setPart_ne (s : State) {d e : Die} (p : Option Part) (h : e ≠ d) : (s.setPart d p).part e = s.part e :=
  Tab.get_set_ne _ _ fun k => h (dieCode_inj k)

theorem State.part_of_same (h : Field.same .chg s t) (d : Die) : t.part d = s.part d := by
  unfold State.part; rw [show t.chg = s.chg from h]

theorem relayEnd_tray {e : LinkEnd} (tray : isTray e = true) (op die : Nat) : relayEnd e op die = none := by
  cases e with
  | tray n => rfl
  | ikl d sl => cases tray

theorem does_arm_relay {e f : LinkEnd} {r : SbSlot} {m : ArmMsg} {u : State} (takes : s.armTakes e r opArm = (some m, u))
    (relay : relayEnd e opArm m.die = some f) : Does (.arm e r) s fun t => t = u.sbSend f 0x1C (armBody opArm m) := by
  refine .intro (t := u.sbSend f 0x1C (armBody opArm m)) ?_ rfl
  show execArm e r s = _
  simp only [execArm, takes, relay]

theorem does_arm_freeze {e : LinkEnd} {r : SbSlot} {m : ArmMsg} {u : State} (takes : s.armTakes e r opArm = (some m, u))
    (here : relayEnd e opArm m.die = none) (ikl : isTray e = false) (other : leDie e ≠ cr0) :
    Does (.arm e r) s fun t => ∃ p, t.part (leDie e) = some p ∧ p.turn = m.turn ∧ p.decision = 0 := by
  obtain ⟨p, frozen, turn, decision⟩ : ∃ p, (u.freeze (leDie e) m.hackLen m.turn).2.2.part (leDie e) = some p ∧ p.turn = m.turn ∧
      p.decision = 0 := ⟨_, State.part_setPart_same .., rfl, rfl⟩
  unfold Does
  show ∃ t, execArm e r s = .next t ∧ _
  simp only [execArm, takes, here, ikl, beq_false_of_ne other, Bool.false_eq_true, if_false]
  refine ⟨_, rfl, p, ?_, turn, decision⟩
  exact (State.part_of_same ((Only.refl _).armReply (pt := Field.but .chg) (leDie e) _ (Allow.but (by decide))).kept _).trans frozen

theorem dieCode_lt (d : Die) : dieCode d < 6 := by
  cases d with
  | mv m => exact lt_trans m.isLt (by decide)
  | cr c => have := c.isLt; show 4 + c.val < 6; omega

section
variable {e : LinkEnd} {r : SbSlot} {m : ArmMsg} {u : State} (takes : s.armTakes e r opConfirm = (some m, u)) (armed : u.chg.armed = true)
  (open_ : u.chg.decided = 0) (set_ : m.setId = u.chg.setId) (turn : m.turn = u.chg.turn)
include takes armed open_ set_ turn

theorem exec_confirm {d : Die} (ikl : isTray e = false) (crown : leDie e = cr0) (here : relayEnd e opConfirm m.die = none)
    (die : dieOfCode m.die = some d) : execConfirm e r s = .next (u.takeConfirm d m.cls (if m.ok then none else some m.reason)) := by
  have go : (leDie e != cr0 || !u.chg.armed || u.chg.decided != 0 || m.setId != u.chg.setId || m.turn != u.chg.turn) = false := by
    simp [crown, armed, open_, set_, turn]
  simp only [execConfirm, takes, here, ikl, go, die, Bool.false_eq_true, if_false]

theorem does_confirm {d : Die} (ikl : isTray e = false) (crown : leDie e = cr0) (here : relayEnd e opConfirm m.die = none)
    (die : dieOfCode m.die = some d) :
    (m.ok = true → Does (.confirm e r) s fun t => bit (t.getF cr0 .cfg 0 Reg.CFG_ARM_STATUS_CONFIRMED) (dieCode d) = true) ∧
    (m.ok = false → u.chg.reason = 0 → Does (.confirm e r) s fun t => t.chg.reason = knownCode m.reason) := by
  refine ⟨fun ok => .intro (exec_confirm takes armed open_ set_ turn ikl crown here die) ?_,
    fun bad first => .intro (exec_confirm takes armed open_ set_ turn ikl crown here die) ?_⟩
  · rw [ok]
    exact State.bit_setF_setBit _ (dieCode_lt d) _
  · rw [bad]
    unfold State.takeConfirm
    have first' : ((u.setF cr0 .cfg 0 Reg.CFG_ARM_STATUS_CLASS (max (u.getF cr0 .cfg 0 Reg.CFG_ARM_STATUS_CLASS) m.cls)).chg.reason == 0) =
      true := beq_iff_eq.mpr first
    simp only [Bool.false_eq_true, if_false, first', if_true]

theorem does_confirm_package (tray : isTray e = true) (leads : u.isFollower = false) (ok : m.ok = true) (plain : u.chg.act = false)
    (pkg : m.pkg < 16) : Does (.confirm e r) s fun t => bit (t.getF cr0 .cfg 0 Reg.CFG_ARM_TRAY_PKG_OK) m.pkg = true := by
  have go : (!u.chg.armed || u.chg.decided != 0 || m.setId != u.chg.setId || m.turn != u.chg.turn) = false := by
    simp [armed, open_, set_, turn]
  refine .intro (t := u.setF cr0 .cfg 0 Reg.CFG_ARM_TRAY_PKG_OK (setBit (u.getF cr0 .cfg 0 Reg.CFG_ARM_TRAY_PKG_OK) m.pkg)) ?_
    (State.bit_setF_setBit _ pkg _)
  show execConfirm e r s = _
  simp only [execConfirm, takes, relayEnd_tray tray, tray, leads, Bool.false_eq_true, if_false, if_true]
  unfold State.takePkgConfirm
  simp only [go, ok, plain, Bool.false_and, Bool.false_eq_true, if_false, if_true]

end

/-! ### Decisions -/

theorem does_packageConfirm (armed : s.chg.armed = true) (tray : s.chg.tray = true) (unsent : s.chg.pkgSent = false)
    (open_ : s.chg.decided = 0) (atTurn : s.atTurn cr0 = true) (due : s.chg.turn ≤ s.turn cr0 + 9) (leads : s.isFollower = false)
    (all_ : s.allConfirmed = true) (pkg : s.pkgId < 16) :
    Does .packageConfirm s fun t => t.chg.pkgSent = true ∧ bit (t.getF cr0 .cfg 0 Reg.CFG_ARM_TRAY_PKG_OK) s.pkgId = true := by
  have go : (!s.chg.armed || !s.chg.tray || s.chg.pkgSent || s.chg.decided != 0 || !s.atTurn cr0 ||
      decide (s.turn cr0 + 9 < s.chg.turn)) = false := by
    rw [armed, tray, unsent, open_, atTurn, decide_eq_false (Nat.not_lt.mpr due)]; rfl
  unfold Does
  show ∃ t, execPackageConfirm s = .next t ∧ _
  simp only [execPackageConfirm, go, leads, all_, Bool.false_eq_true, if_false, if_true]
  exact ⟨_, rfl, rfl, State.bit_setF_setBit _ pkg _⟩

theorem does_armDecision (armed : s.chg.armed = true) (open_ : s.chg.decided = 0) (atTurn : s.atTurn cr0 = true)
    (due : s.chg.turn ≤ s.turn cr0 + 8) (plain : s.chg.tray = false) :
    (s.allConfirmed = true → Does .armDecision s fun t => t.chg.decided = 1) ∧
    (s.allConfirmed = false → s.chg.reason = 0 →
      Does .armDecision s fun t => t.chg.armed = false ∧ t.getF cr0 .cfg 0 Reg.CFG_ARM_STATUS_REASON = 0x1006) := by
  have go : (!s.chg.armed || s.chg.decided != 0 || !s.atTurn cr0 || decide (s.turn cr0 + 8 < s.chg.turn) || (false && s.isFollower)) =
      false := by
    rw [armed, open_, atTurn, decide_eq_false (Nat.not_lt.mpr due)]; rfl
  refine ⟨fun all_ => .intro (t := s.commitSet) ?_ s.commitSet_decided, fun missing first => .intro (t := s.abortSet 0x1006) ?_
    (s.abortSet_done (by decide))⟩
  · show execArmDecision s = _
    simp only [execArmDecision, plain, go, all_, Bool.false_eq_true, if_false, if_true]
  · show execArmDecision s = _
    simp only [execArmDecision, plain, go, missing, first, beq_self_eq_true, Bool.false_eq_true, if_false, if_true]

theorem does_commit_part {e : LinkEnd} {r : SbSlot} {m : ArmMsg} {p : Part} {u : State} (ikl : isTray e = false)
    (part : u.part (leDie e) = some p) (turn : p.turn = m.turn) :
    (s.armTakes e r opCommit = (some m, u) → relayEnd e opCommit m.die = none →
      Does (.commit e r) s fun t => t.part (leDie e) = some { p with decision := 1 }) ∧
    (s.armTakes e r opAbort = (some m, u) → relayEnd e opAbort m.die = none →
      Does (.abort e r) s fun t => t.part (leDie e) = none) := by
  refine ⟨fun takes here => .intro (t := u.setPart (leDie e) (some { p with decision := 1 })) ?_ (u.part_setPart_same ..),
    fun takes here => .intro (t := u.setPart (leDie e) none) ?_ (u.part_setPart_same ..)⟩
  · show execCommit e r s = _
    simp only [execCommit, takes, here, ikl, part, turn, beq_self_eq_true, Bool.false_eq_true, if_false, if_true]
  · show execAbort e r s = _
    simp only [execAbort, takes, here, ikl, part, turn, beq_self_eq_true, Bool.false_eq_true, if_false, if_true]

theorem does_commit_tray {e : LinkEnd} {r : SbSlot} {m : ArmMsg} {u : State} (tray : isTray e = true) (armed : u.chg.armed = true)
    (open_ : u.chg.decided = 0) (set_ : m.setId = u.chg.setId) (turn : m.turn = u.chg.turn) :
    (s.armTakes e r opCommit = (some m, u) → Does (.commit e r) s fun t => t.chg.decided = 1) ∧
    (s.armTakes e r opAbort = (some m, u) → Does (.abort e r) s fun t => t.chg.armed = false) := by
  have go : (u.chg.armed && u.chg.decided == 0 && m.setId == u.chg.setId && m.turn == u.chg.turn) = true := by
    simp [armed, open_, set_, turn]
  refine ⟨fun takes => .intro (t := u.commitSet) ?_ u.commitSet_decided, fun takes => .intro
    (t := u.abortSet (if u.chg.reason == 0 then 0x1006 else u.chg.reason)) ?_ rfl⟩
  · show execCommit e r s = _
    simp only [execCommit, takes, relayEnd_tray tray, tray, go, if_true]
  · show execAbort e r s = _
    simp only [execAbort, takes, relayEnd_tray tray, tray, go, if_true]

end Sys2Proof.Machine
end

section
/-! Change sets take effect, and the hack that carries them (R49 to R51, R401, R435). -/

namespace Sys2Proof.Machine

variable {s t z : State}

/-! ### The end of a set -/

theorem State.endSet_done (u : State) (ms : List (Nat × Nat)) : (u.endSet ms).chg.armed = false ∧ (u.endSet ms).chg.decided = 0 := by
  unfold State.endSet
  dsimp only
  split
  · split <;> exact ⟨rfl, rfl⟩
  · exact ⟨rfl, rfl⟩

/-- A committed set with a hack leaves the hack due. -/
theorem State.endSet_hack {u : State} (ms : List (Nat × Nat)) (decided : u.chg.decided = 1) (hacks : u.chg.hackLen ≠ 0) :
    (u.endSet ms).hack.due = some (1024 * u.chg.turn + u.getF cr0 .bal 0 Reg.BAL_HACK_WIN_START, u.chg.hackLen) := by
  unfold State.endSet
  simp only [decided, beq_self_eq_true, if_true, beq_false_of_ne hacks, Bool.false_eq_true, if_false]

theorem State.partDue_none {u : State} {d : Die} (none_ : u.part d = none) : u.partDue d = u := by
  unfold State.partDue
  rw [none_]

theorem State.partDue_fold_none (l : List Die) {u : State} (none_ : ∀ d ∈ l, u.part d = none) :
    l.foldl (fun (t : State) d => t.partDue d) u = u := by
  induction l with
  | nil => rfl
  | cons d l ih =>
    rw [List.foldl_cons, State.partDue_none (none_ d (List.mem_cons_self ..))]
    exact ih fun e he => none_ e (List.mem_cons_of_mem _ he)

/-- Where one die alone has a part, the part of that die is all that comes due. -/
theorem State.partDue_fold_one {d : Die} {v u : State} (due : u.partDue d = v) (after : v.part d = none)
    (same : ∀ e, e ≠ d → v.part e = u.part e) : ∀ l : List Die, d ∈ l → (∀ e ∈ l, e ≠ d → u.part e = none) →
    l.foldl (fun (t : State) e => t.partDue e) u = v
  | [], h, _ => absurd h List.not_mem_nil
  | e :: l, h, none_ => by
    rw [List.foldl_cons]
    by_cases k : e = d
    · rw [k, due]
      refine State.partDue_fold_none l fun x hx => ?_
      by_cases y : x = d
      · rw [y, after]
      · rw [same x y, none_ x (List.mem_cons_of_mem _ hx) y]
    · rw [State.partDue_none (none_ e (List.mem_cons_self ..) k)]
      exact State.partDue_fold_one due after same l ((List.mem_cons.mp h).resolve_left fun x => k x.symm)
        fun x hx => none_ x (List.mem_cons_of_mem _ hx)

theorem State.hasDie_of_same (h : (Field.ofReg .cfg Reg.CFG_VARIANT).same s t) (d : Die) : t.hasDie d = s.hasDie d := by
  unfold State.hasDie
  rw [State.x2_of_same h]

theorem State.dieList_of_same (h : (Field.ofReg .cfg Reg.CFG_VARIANT).same s t) : t.dieList = s.dieList :=
  List.filter_congr fun d _ => State.hasDie_of_same h d

theorem does_changeSetApply_commit (atTurn : s.atTurn cr0 = true) (armed : s.chg.armed = true) (due : s.chg.turn ≤ s.turn cr0)
    (decided : s.chg.decided = 1) :
    Does .changeSetApply s fun t => t.chg.armed = false ∧ t.chg.decided = 0 ∧
      ((∀ d ∈ s.dieList, s.part d = none) → s.chg.hackLen ≠ 0 →
        t.hack.due = some (1024 * s.chg.turn + s.getF cr0 .bal 0 Reg.BAL_HACK_WIN_START, s.chg.hackLen)) := by
  obtain ⟨u, hu⟩ : ∃ u, u = s.dropReturned s.chg.tray := ⟨_, rfl⟩
  obtain ⟨v, hv⟩ : ∃ v, v = u.dieList.foldl (fun (t : State) d => t.partDue d) u := ⟨_, rfl⟩
  have returned : Only (Field.outside [.chg, .ofReg .cfg Reg.CFG_VARIANT, .ofReg .bal Reg.BAL_HACK_WIN_START]) s u :=
    hu ▸ (Only.refl s).dropReturned (hp := Allow.outside (by decide)) ..
  have chg : u.chg = s.chg := returned.keeps (x := .chg) (by decide)
  obtain ⟨idle, undecided⟩ := v.endSet_done s.classBMembers
  refine .intro (t := v.endSet s.classBMembers) ?_ ⟨idle, undecided, fun none_ hacks => ?_⟩
  · show execChangeSetApply s = _
    simp only [execChangeSetApply, atTurn, armed, due, decided, decide_true, Bool.not_true, Bool.and_self, beq_self_eq_true,
      Bool.false_eq_true, if_false, if_true, ← hu, ← hv]
  · have unchanged : v = u := by
      rw [hv]
      refine State.partDue_fold_none _ fun d hd => ?_
      rw [State.part_of_same chg]
      exact none_ d (State.dieList_of_same (returned.keeps (by decide)) ▸ hd)
    rw [unchanged, State.endSet_hack _ (by rw [chg, decided]) (by rw [chg]; exact hacks), chg,
      Field.getF_of_same (returned.keeps (x := .ofReg .bal Reg.BAL_HACK_WIN_START) (by decide))]

/-! ### A die's part -/

/-- The threshold of a tray port's error counts, by its key. -/
def threshPlace (c : Crown) (n : Fin 4) : Option (Place × Fld) := fieldOf (fkey (.cr c) .trayPort n.val Reg.TRYP_ERR_CFG_THRESH 0)

theorem threshPlace_eq : ∀ (c : Crown) (n : Fin 4), (threshPlace c n).any (fun x => x.1.die == .cr c && x.1.blk == .trayPort &&
    x.1.inst == n.val && x.1.k == 0 && decide (x.2 = Reg.TRYP_ERR_CFG_THRESH)) = true := by decide

theorem fieldOf_thresh (c : Crown) (n : Fin 4) : ∃ row, fieldOf (fkey (.cr c) .trayPort n.val Reg.TRYP_ERR_CFG_THRESH 0) =
    some (⟨.cr c, .trayPort, n.val, row, 0⟩, Reg.TRYP_ERR_CFG_THRESH) := by
  have place := threshPlace_eq c n
  unfold threshPlace at place
  cases found : fieldOf (fkey (.cr c) .trayPort n.val Reg.TRYP_ERR_CFG_THRESH 0) with
  | none => rw [found] at place; exact absurd place Bool.false_ne_true
  | some x =>
    rw [found] at place
    obtain ⟨⟨d, b, i, row, k⟩, f⟩ := x
    simp only [Option.any_some, Bool.and_eq_true, beq_iff_eq, decide_eq_true_eq] at place
    obtain ⟨⟨⟨⟨rfl, rfl⟩, rfl⟩, rfl⟩, rfl⟩ := place
    exact ⟨row, rfl⟩

/-- A set's change of a threshold writes the field, and nothing comes of it. -/
theorem State.applyMember_thresh (u : State) {c : Crown} {i key v : Nat} {row : RegRow}
    (place : fieldOf key = some (⟨.cr c, .trayPort, i, row, 0⟩, Reg.TRYP_ERR_CFG_THRESH)) :
    u.applyMember (key, v) = u.setF (.cr c) .trayPort i Reg.TRYP_ERR_CFG_THRESH v := by
  have put : u.putField (key, v) = u.setF (.cr c) .trayPort i Reg.TRYP_ERR_CFG_THRESH v := by
    unfold State.putField
    simp only [place]
  have noMap : ((Blk.trayPort == .ikl && Reg.TRYP_ERR_CFG_THRESH.off == Reg.IKL_LANEMAP_J0_TGT.off) ||
    (Blk.trayPort == .trayPort && Reg.TRYP_ERR_CFG_THRESH.off == Reg.TRYP_LANEMAP_SPARE_TGT.off)) = false := by decide
  have noBal : (Blk.trayPort == .bal) = false := rfl
  have noBudget : ¬ Reg.TRYP_ERR_CFG_THRESH = Reg.TRYP_LAT_LAT_BUDGET := by decide
  have noPtp : (Blk.trayPort == .ptp) = false := rfl
  have noPwr : (Blk.trayPort == .pwr) = false := rfl
  unfold State.applyMember
  simp only [place, noMap, noBal, noBudget, noPtp, noPwr, put, false_and, Bool.false_eq_true, if_false]

/-- A part that changes only that threshold applies it, with nothing of the ledger. -/
theorem State.applyPart_thresh (u : State) {c : Crown} {i key v : Nat} {row : RegRow} {p : Part}
    (place : fieldOf key = some (⟨.cr c, .trayPort, i, row, 0⟩, Reg.TRYP_ERR_CFG_THRESH)) (fields : p.fields = [(key, v)])
    (tables : p.tables = []) :
    ∃ sh ts l, u.applyPart p = { u.setF (.cr c) .trayPort i Reg.TRYP_ERR_CFG_THRESH v with shadow := sh, tshadow := ts, ldg := l } := by
  have classA : keyClassB key = false := by
    unfold keyClassB
    rw [place]; rfl
  unfold State.applyPart
  simp only [fields, tables, List.any_nil, Bool.false_and, Bool.false_eq_true, if_false, List.foldl_nil, classA, Bool.not_false,
    List.filter_cons, if_true, List.filter_nil, List.foldl_cons,
    State.applyMember_thresh _ place]
  exact ⟨_, _, _, rfl⟩

theorem does_changeSetApply_part {d : Die} {n : Fin 4} {p : Part} {v : Nat} (atTurn : s.atTurn cr0 = true) (die : s.hasDie d = true)
    (alone : ∀ x ∈ s.dieList, x ≠ d → s.part x = none) (part : s.part d = some p) (due : p.turn ≤ s.turn d) (decided : p.decision = 1)
    (fields : p.fields = [(fkey d .trayPort n.val Reg.TRYP_ERR_CFG_THRESH 0, v)]) (tables : p.tables = []) (noBank : s.chg.bank = false)
    (idle : s.chg.armed = false) (crown : ∃ c, d = .cr c) :
    Does .changeSetApply s fun t => t.getF d .trayPort n.val Reg.TRYP_ERR_CFG_THRESH = v % 2 ^ 16 ∧ t.part d = none := by
  obtain ⟨c, rfl⟩ := crown
  obtain ⟨row, place⟩ := fieldOf_thresh c n
  obtain ⟨sh, ts, l, applied⟩ := s.applyPart_thresh place fields tables
  obtain ⟨u, hu⟩ : ∃ u, u = (s.applyPart p).setPart (.cr c) none := ⟨_, rfl⟩
  have gone : u.part (.cr c) = none := by rw [hu, State.part_setPart_same]
  have others (e : Die) (h : e ≠ .cr c) : u.part e = s.part e := by
    rw [hu, State.part_setPart_ne _ _ h, applied]; rfl
  have comes : s.partDue (.cr c) = u := by
    unfold State.partDue
    simp only [part, Nat.not_lt.mpr due, if_false, decided, beq_self_eq_true, if_true, noBank, Bool.false_eq_true, ← hu]
  refine .intro (t := u) ?_ ⟨?_, gone⟩
  · show execChangeSetApply s = _
    simp only [execChangeSetApply, atTurn, idle, Bool.not_true, Bool.false_and, Bool.false_eq_true, if_false]
    rw [State.partDue_fold_one comes gone others s.dieList (List.mem_filter.mpr ⟨mem_allDies _, die⟩) alone]
  · rw [hu, State.setPart, State.getF_setF_of_tag (by decide), applied]
    exact State.getF_setF_same ..

/-! ### The hack -/

theorem State.isF_foldl_active {d : Die} : ∀ (l : List Die) (v : State), (v.isF d .bal 0 Reg.BAL_STATUS_HACK_ACTIVE = true ∨ d ∈ l) →
    (l.foldl (fun (t : State) d => t.setF d .bal 0 Reg.BAL_STATUS_HACK_ACTIVE (b2n true)) v).isF d .bal 0 Reg.BAL_STATUS_HACK_ACTIVE = true
  | [], _, h => h.resolve_right List.not_mem_nil
  | e :: l, v, h => by
    rw [List.foldl_cons]
    refine State.isF_foldl_active l _ ?_
    by_cases k : d = e
    · rw [k]
      exact .inl (State.isF_setF_one (by decide))
    · refine h.imp (fun g => ?_) fun g => (List.mem_cons.mp g).resolve_left k
      unfold State.isF at g ⊢
      rwa [State.getF_setF_ne _ (fkey_ne (by decide) (by decide) (.inl fun e => k (winBase_inj (Nat.add_right_cancel
        (Nat.add_right_cancel (Nat.add_right_cancel e))))))]

theorem State.isF_showHack (u : State) {d : Die} (h : d ∈ u.dieList) : (u.showHack true).isF d .bal 0 Reg.BAL_STATUS_HACK_ACTIVE = true :=
  State.isF_foldl_active u.dieList u (.inr h)

theorem does_hackStart {f n : Nat} (due : s.hack.due = some (f, n)) (idle : s.hack.active = false) (atFrame : s.atFrame cr0 = true)
    (now : f ≤ s.frame cr0) :
    Does .hackStart s fun t => t.hack.active = true ∧ t.chg.waitB = [] ∧
      (s.chg.waitB = [] → ∀ d ∈ s.dieList, t.isF d .bal 0 Reg.BAL_STATUS_HACK_ACTIVE = true) := by
  have go : (s.hack.active || !s.atFrame cr0 || decide (s.frame cr0 < f)) = false := by
    rw [idle, atFrame, decide_eq_false (Nat.not_lt.mpr now)]; rfl
  obtain ⟨u, hu⟩ : ∃ u, u = { s with hack := { s.hack with active := true, last := some (f, n, s.hack.tray) } } := ⟨_, rfl⟩
  have shown : Only (Field.outside [.hack, .chg]) u (u.showHack true) := (Only.refl u).showHack (hp := Allow.outside (by decide)) ..
  obtain ⟨v, hv⟩ : ∃ v, v = (u.showHack true).chg.waitB.foldl (fun (t : State) m => t.applyMember m) (u.showHack true) := ⟨_, rfl⟩
  have silent : v.hack = u.hack := by
    have applied : Only (Field.but .hack) (u.showHack true) v := hv ▸ Only.foldl _ (fun _ _ g => g.applyMember
      (hp := Allow.but (by decide)) (hr := fun _ => decide_eq_true (by simp)) ..) (Only.refl _)
    exact (applied.kept).trans (shown.keeps (x := .hack) (by decide))
  refine .intro (t := { v with chg := { v.chg with waitB := [] } }) ?_ ⟨?_, rfl, fun none_ d hd => ?_⟩
  · show execHackStart s = _
    rw [hv, hu]
    simp only [execHackStart, due, go, Bool.false_eq_true, if_false]
  · show v.hack.active = true
    rw [silent, hu]
  · have waits : (u.showHack true).chg.waitB = [] := by
      rw [show (u.showHack true).chg = u.chg from shown.keeps (x := .chg) (by decide), hu]
      exact none_
    have same : v = u.showHack true := by rw [hv, waits]; rfl
    show v.isF d .bal 0 Reg.BAL_STATUS_HACK_ACTIVE = true
    rw [same]
    exact u.isF_showHack (hu ▸ hd)

theorem does_hackEnd {f n : Nat} (due : s.hack.due = some (f, n)) (runs : s.hack.active = true) (done : f + n ≤ s.frame cr0) :
    Does .hackEnd s fun t => t.hack.active = false ∧ t.hack.due = none ∧
      t.getF cr0 .bal 0 Reg.BAL_HACK_COUNT = min (s.getF cr0 .bal 0 Reg.BAL_HACK_COUNT + 1) 255 := by
  have go : (!s.hack.active || decide (s.frame cr0 < f + n)) = false := by rw [runs, decide_eq_false (Nat.not_lt.mpr done)]; rfl
  obtain ⟨u, hu⟩ : ∃ u, u = { s with hack := { s.hack with active := false, due := none } } := ⟨_, rfl⟩
  obtain ⟨v, hv⟩ : ∃ v, v = (List.finRange 8).foldl (fun (t : State) p => t.newDepth p) (u.showHack false) := ⟨_, rfl⟩
  have ended : Only (Field.outside [.hack, .ofReg .bal Reg.BAL_HACK_COUNT]) u v := hv ▸ Only.foldl _ (fun _ _ g => g.newDepth
    (hg0 := Allow.outside (by decide)) (hg1 := Allow.outside (by decide)) (hg2 := Allow.outside (by decide)) (hg3 := Allow.outside (by decide))
    (hg4 := Allow.outside (by decide)) (hp := Allow.outside (by decide)) ..) ((Only.refl u).showHack (hp := Allow.outside (by decide)) ..)
  have hack : v.hack = u.hack := ended.keeps (x := .hack) (by decide)
  have count : v.getF cr0 .bal 0 Reg.BAL_HACK_COUNT = s.getF cr0 .bal 0 Reg.BAL_HACK_COUNT := by
    rw [Field.getF_of_same (ended.keeps (x := .ofReg .bal Reg.BAL_HACK_COUNT) (by decide)), hu]; rfl
  refine .intro (t := v.bumpF cr0 .bal 0 Reg.BAL_HACK_COUNT) ?_ ⟨?_, ?_, ?_⟩
  · show execHackEnd s = _
    simp only [execHackEnd, due, go, Bool.false_eq_true, if_false, ← hu, ← hv]
  · show v.hack.active = false
    rw [hack, hu]
  · show v.hack.due = none
    rw [hack, hu]
  · rw [State.bumpF, State.getF_setF_same, count]
    exact Nat.mod_eq_of_lt (lt_of_le_of_lt (Nat.min_le_right ..) (by decide))

theorem does_abortedArmRearm (waits : s.boot.rearm ≠ 0) (phase : s.phase = 9) (late : s.boot.rearm - 1 ≤ s.turn cr0)
    (idle : s.chg.armed = false) : Does .abortedArmRearm s fun t => t.chg.armed = true ∧ t.chg.act = true ∧ t.boot.rearm = 0 := by
  have go : (s.boot.rearm == 0 || s.phase != 9 || decide (s.turn cr0 < s.boot.rearm - 1)) = false := by
    rw [beq_false_of_ne waits, phase, decide_eq_false (Nat.not_lt.mpr late)]; rfl
  obtain ⟨u, hu⟩ : ∃ u, u = { s with boot := { s.boot with rearm := 0 } } := ⟨_, rfl⟩
  obtain ⟨c, hc⟩ : ∃ c : ChgSt, c =
      { tray := true, setId := (u.draw 8).1, turn := turnAfter (16 * turnBeats) (s.beat cr0) / turnBeats, act := true } := ⟨_, rfl⟩
  obtain ⟨v, hv⟩ : ∃ v, v = ((u.draw 8).2.beginSet c (u.draw 8).2.neededPkgs).armTray opArm := ⟨_, rfl⟩
  have begun : SameSet { (u.draw 8).2 with chg := { c with armed := true } } v := hv ▸ (State.beginSet_chg ..).keeps
    ((Only.refl _).armTray (hp := Allow.but (by decide)) ..)
  have boot : v.boot = u.boot := hv ▸ ((((Only.refl u).draw 8 (Allow.but (by decide))).beginSet (pt := Field.but .boot)
    (hp := Allow.but (by decide)) ..).armTray (hp := Allow.but (by decide)) ..).kept
  have idle' : u.chg.armed = false := hu ▸ idle
  refine .intro (t := v) ?_ ⟨begun.armed, by rw [begun.act, hc], by rw [boot, hu]⟩
  show execAbortedArmRearm s = _
  simp only [execAbortedArmRearm, go, Bool.false_eq_true, if_false, ← hu]
  unfold State.armActivation
  simp only [idle', Bool.false_eq_true, if_false]
  rw [hv, hc]

/-- Settles O39, one lemma for each clause. -/
theorem changeSetCommandsComplete : Obligations.ChangeSetCommandsComplete :=
  ⟨fun _ _ _ noDiscard hu ok => does_armGo noDiscard hu ok,
    fun _ _ _ _ noDiscard hu bad => does_armGo_refused noDiscard hu bad,
    fun _ _ noGo idle => does_armDiscard_idle noGo idle,
    fun _ _ noGo armed open_ => does_armDiscard_armed noGo armed open_,
    fun _ _ _ _ _ takes => ⟨fun _ relay => does_arm_relay takes relay, fun here ikl other => does_arm_freeze takes here ikl other⟩,
    fun _ _ _ _ _ _ takes ikl crown here armed open_ set_ turn die => does_confirm takes armed open_ set_ turn ikl crown here die,
    fun _ _ _ _ _ takes tray leads armed open_ set_ turn ok plain pkg =>
      does_confirm_package takes armed open_ set_ turn tray leads ok plain pkg,
    fun _ armed tray unsent open_ atTurn due leads all_ pkg => does_packageConfirm armed tray unsent open_ atTurn due leads all_ pkg,
    fun _ armed open_ atTurn due plain => does_armDecision armed open_ atTurn due plain,
    fun _ _ _ _ _ _ ikl part turn => does_commit_part ikl part turn,
    fun _ _ _ _ _ tray armed open_ set_ turn => does_commit_tray tray armed open_ set_ turn,
    fun _ atTurn armed due decided => does_changeSetApply_commit atTurn armed due decided,
    fun _ _ _ _ _ atTurn die alone part due decided fields tables noBank idle crown =>
      does_changeSetApply_part atTurn die alone part due decided fields tables noBank idle crown,
    fun _ _ _ due idle atFrame now => does_hackStart due idle atFrame now,
    fun _ _ _ due runs done => does_hackEnd due runs done,
    fun _ waits phase late idle => does_abortedArmRearm waits phase late idle⟩

end Sys2Proof.Machine
end

section
/-! Run-time recalibration (R113 to R115, R361). -/

namespace Sys2Proof.Machine

variable {s t z : State}

/-! ### A fold that does the same at every member of a list -/

/-- What a step does at its own member, and no other step undoes, holds after the fold at every member of the list. -/
theorem foldl_does {α : Type} {P : α → State → Prop} {g : State → α → State} (own : ∀ v a, P a (g v a))
    (keep : ∀ v a b, P b v → P b (g v a)) {a : α} : ∀ (l : List α) (v : State), (P a v ∨ a ∈ l) → P a (l.foldl g v)
  | [], _, h => h.resolve_right List.not_mem_nil
  | b :: l, v, h => by
    rw [List.foldl_cons]
    refine foldl_does own keep l (g v b) ?_
    rcases h with h | h
    · exact .inl (keep v b a h)
    · rcases List.mem_cons.mp h with rfl | h
      · exact .inl (own v a)
      · exact .inr h

/-! ### The bundles of a link end -/

theorem State.bun_setBun_same (s : State) (e : LinkEnd) (b : Nat) (x : BundleSt) : (s.setBun e b x).bun e b = x := by
  unfold State.setBun State.bun
  rw [State.link_setLink_same]
  exact Tab.get_set_same ..

theorem State.bun_setBun_ne (s : State) (e : LinkEnd) {b b' : Nat} (x : BundleSt) (h : b' ≠ b) : (s.setBun e b x).bun e b' = s.bun e b' := by
  unfold State.setBun State.bun
  rw [State.link_setLink_same]
  exact Tab.get_set_ne _ _ h

theorem State.bun_of_links (h : Field.same .links s t) (e : LinkEnd) (b : Nat) : t.bun e b = s.bun e b := by
  unfold State.bun
  rw [State.link_of_same h]

/-! ### The recalibration in hand -/

theorem State.recalOf_of_same (h : Field.same .recals s t) (e : LinkEnd) : t.recalOf e = s.recalOf e := by
  unfold State.recalOf
  rw [show t.recals = s.recals from h]

theorem State.recalOf_setRecal (s : State) (e : LinkEnd) (r : Option Recal) (own : ∀ x ∈ r, x.end_ = leCode e) :
    (s.setRecal e r).recalOf e = r := by
  have others : (s.recals.filter fun x => x.end_ != leCode e).find? (fun x => x.end_ == leCode e) = none := by
    refine List.find?_eq_none.mpr fun x hx => ?_
    have := (List.mem_filter.mp hx).2
    simpa using this
  unfold State.recalOf State.setRecal
  rw [List.find?_append, others, Option.none_or]
  cases r with
  | none => rfl
  | some x => exact List.find?_cons_of_pos (beq_iff_eq.mpr (own x rfl))

theorem State.end_of_recalOf {e : LinkEnd} {r : Recal} (h : s.recalOf e = some r) : r.end_ = leCode e :=
  beq_iff_eq.mp (List.find?_some (p := fun x : Recal => x.end_ == leCode e) h)

/-- A recalibration goes one step on. -/
theorem State.recalOf_step {e : LinkEnd} {r : Recal} (h : s.recalOf e = some r) (u : State) (n : Nat) :
    (u.setRecal e (some { r with step := n })).recalOf e = some { r with step := n } :=
  u.recalOf_setRecal e _ fun x hx => by
    rw [← Option.some.inj hx]
    exact (State.end_of_recalOf h :)

/-! ### Bundles out of service -/

theorem State.calOut_of_same (h : (Field.ofReg .ikl Reg.IKL_BPHY_CAL_OUT).same s t) (e : LinkEnd) (b : Nat) :
    t.calOut e b = s.calOut e b := by
  cases e with
  | ikl d sl => exact congrArg (· == 1) (Field.getF_of_same (d := d) (i := sl.val) (k := bOff b) h)
  | tray n => rfl

/-- A write of `CAL_OUT` at one end reads there as it was written, and leaves what is so already. -/
theorem State.calOut_setF {e f : LinkEnd} {b : Nat} {v : Bool} (notTray : isTray f = false) (so : f = e ∨ s.calOut f b = v) :
    (s.setF (leDie e) .ikl (leInst e) Reg.IKL_BPHY_CAL_OUT (b2n v) (bOff b)).calOut f b = v := by
  cases f with
  | tray n => exact absurd notTray Bool.noConfusion
  | ikl d sl =>
    show ((s.setF (leDie e) .ikl (leInst e) Reg.IKL_BPHY_CAL_OUT (b2n v) (bOff b)).getF d .ikl sl.val Reg.IKL_BPHY_CAL_OUT (bOff b) == 1) = v
    by_cases same : fkey d .ikl sl.val Reg.IKL_BPHY_CAL_OUT (bOff b) = fkey (leDie e) .ikl (leInst e) Reg.IKL_BPHY_CAL_OUT (bOff b)
    · have read : (s.setF (leDie e) .ikl (leInst e) Reg.IKL_BPHY_CAL_OUT (b2n v) (bOff b)).getF d .ikl sl.val Reg.IKL_BPHY_CAL_OUT
          (bOff b) = b2n v % 2 ^ Reg.IKL_BPHY_CAL_OUT.w := by
        unfold State.getF State.setF
        rw [same]
        exact Tab.get_set_same ..
      rw [read]
      cases v <;> rfl
    · rw [State.getF_setF_ne _ same]
      rcases so with rfl | so
      · exact absurd rfl same
      · exact so

theorem State.calOut_recalOut {e f : LinkEnd} {b : Nat} (notTray : isTray f = false) (so : f = e ∨ s.calOut f b = true) :
    (s.recalOut b e).calOut f b = true := by
  obtain ⟨u, hu⟩ : ∃ u, u = s.setF (leDie e) .ikl (leInst e) Reg.IKL_BPHY_CAL_OUT 1 (bOff b) := ⟨_, rfl⟩
  have rest : Only (Field.but (.ofReg .ikl Reg.IKL_BPHY_CAL_OUT)) u (s.recalOut b e) := by
    unfold State.recalOut
    rw [← hu]
    exact ((Only.refl u).quiesce (hg0 := Allow.but (by decide)) (hp := Allow.but (by decide)) ..).setBun (hp := Allow.but (by decide)) ..
  rw [State.calOut_of_same rest.kept, hu]
  exact State.calOut_setF (v := true) notTray so

theorem State.calOut_recalIn {e f : LinkEnd} {b : Nat} (notTray : isTray f = false) (so : f = e ∨ s.calOut f b = false) :
    (s.recalIn b e).calOut f b = false := by
  obtain ⟨u, hu⟩ : ∃ u, u = s.setF (leDie e) .ikl (leInst e) Reg.IKL_BPHY_CAL_OUT 0 (bOff b) := ⟨_, rfl⟩
  have rest : Only (Field.but (.ofReg .ikl Reg.IKL_BPHY_CAL_OUT)) u (s.recalIn b e) := by
    unfold State.recalIn
    rw [← hu]
    exact Only.ite ((Only.refl u).setBun (hp := Allow.but (by decide)) ..)
      (((Only.refl u).setBun (hp := Allow.but (by decide)) ..).quiesce (hg0 := Allow.but (by decide)) (hp := Allow.but (by decide)) ..)
  rw [State.calOut_of_same rest.kept, hu]
  exact State.calOut_setF (v := false) notTray so

/-! ### A part of the dies that logging and a new variant leave -/

/-- A part of a die that neither its log nor what its gear train notes of a variant holds. -/
structure Quiet {α : Type} (f : DieSt → α) : Prop where
  log : ∀ x l n, f { x with log := l, logCount := n } = f x
  prev : ∀ x p, f { x with prev := p } = f x
  noFitI : ∀ x b, f { x with noFitI := b } = f x
  noFitT : ∀ x b, f { x with noFitT := b } = f x

/-- A part of every die is the same. -/
structure SamePart {α : Type} (f : DieSt → α) (z s : State) : Prop where
  same : ∀ d, f (s.die d) = f (z.die d)

namespace SamePart

variable {α : Type} {f : DieSt → α}

theorem refl (s : State) : SamePart f s s := ⟨fun _ => rfl⟩

theorem trans (h : SamePart f z s) (g : SamePart f s t) : SamePart f z t := ⟨fun d => (g.same d).trans (h.same d)⟩

theorem of_dies (h : Field.same .dies s t) : SamePart f s t := ⟨fun d => congrArg f (State.die_of_same h d)⟩

theorem keeps (h : SamePart f z s) (g : Only (Field.but .dies) s t) : SamePart f z t := h.trans (of_dies g.kept)

theorem setDie (h : SamePart f z s) {d : Die} {x : DieSt} (hx : f x = f (s.die d)) : SamePart f z (s.setDie d x) := ⟨fun d' => by
  rw [← h.same d']
  by_cases k : d' = d
  · rw [k, State.die_setDie_same, hx]
  · rw [State.die_setDie_ne _ _ k]⟩

theorem log (h : SamePart f z s) (q : Quiet f) (d : Die) (b : Blk) (inst rc : Nat) (detail : List Byte) (ctx : Nat) :
    SamePart f z (s.log d b inst rc detail ctx) := ⟨fun d' => by
  rw [← h.same d']
  by_cases k : d' = d
  · rw [k, State.log_die]
    exact q.log ..
  · exact congrArg f (State.logAs_die_ne (h := k) ..)⟩

theorem ite {p : Prop} [Decidable p] {a b : State} (h : SamePart f z a) (g : SamePart f z b) : SamePart f z (if p then a else b) := by
  split
  · exact h
  · exact g

theorem foldl {β : Type} {g : State → β → State} (l : List β) (step : ∀ w a, SamePart f z w → SamePart f z (g w a))
    (h : SamePart f z s) : SamePart f z (l.foldl g s) :=
  List.foldlRecOn (motive := fun w : State => SamePart f z w) l g h fun w g a _ => step w a g

theorem noteLast (h : SamePart f z s) (rc cause : Nat) (d : Die) : SamePart f z (s.noteLast rc cause d) :=
  h.keeps ((Only.refl s).noteLast (hg0 := Allow.but (by decide)) ..)

theorem setDom (h : SamePart f z s) (k : Nat) (x : RcvDom) : SamePart f z (s.setDom k x) :=
  h.keeps ((Only.refl s).setDom (hp := Allow.but (by decide)) ..)

theorem showLevel (h : SamePart f z s) : SamePart f z s.showLevel := h.keeps ((Only.refl s).showLevel (Allow.but (by decide)))

theorem noteChip (h : SamePart f z s) : SamePart f z s.noteChip := h.keeps ((Only.refl s).noteChip (Allow.but (by decide)))

theorem stopAllSc (h : SamePart f z s) : SamePart f z s.stopAllSc := h.keeps ((Only.refl s).stopAllSc (Allow.but (by decide)))

theorem chipTray (h : SamePart f z s) (cause : Nat) : SamePart f z (s.chipTray cause) :=
  h.keeps ((Only.refl s).chipTray (hp := Allow.but (by decide)) ..)

theorem trigger (h : SamePart f z s) (q : Quiet f) (lvl cause : Nat) (d : Die) (eng rc origin : Nat) :
    SamePart f z (s.trigger lvl cause d eng rc origin) := by
  unfold State.trigger
  dsimp only
  repeat' with_reducible first
    | assumption | intro _ | apply ite | apply log | apply noteLast | apply showLevel | apply setDom | apply noteChip
    | apply stopAllSc | apply chipTray | apply foldl

theorem noteSched (h : SamePart f z s) (q : Quiet f) (d : Die) : SamePart f z (s.noteSched d) := by
  unfold State.noteSched
  split
  · exact h
  · exact h.setDie (q.prev ..)

theorem noFit (h : SamePart f z s) (q : Quiet f) (d : Die) (tray : Bool) : SamePart f z (s.noFit d tray) := by
  unfold State.noFit
  dsimp only
  by_cases done : (if tray = true then (s.die d).noFitT else (s.die d).noFitI) = true
  · rw [if_pos done]
    exact h
  · rw [if_neg done]
    refine SamePart.trigger ?_ q ..
    refine SamePart.keeps ?_ (((Only.refl _).setF (hp := Allow.but (by decide)) ..).stopSc (hp := Allow.but (by decide)) ..)
    refine (h.setDie ?_).log q ..
    split
    · exact q.noFitT ..
    · exact q.noFitI ..

theorem selectVariant (h : SamePart f z s) (q : Quiet f) (d : Die) : SamePart f z (s.selectVariant d) := by
  unfold State.selectVariant
  split
  · exact h.noFit q ..
  · dsimp only
    split
    · exact h
    · unfold State.logSwitch
      exact (((h.noteSched q d).keeps ((Only.refl _).setF d .gtr 0 Reg.GTR_STATUS_VARIANT (hp := Allow.but (by decide)) ..)).log q ..).keeps
        ((Only.refl _).set64 (hp := Allow.but (by decide)) ..)

theorem lossAll (h : SamePart f z s) (q : Quiet f) (e : LinkEnd) (b : Nat) (lost : Bool) : SamePart f z (s.lossAll e b lost) := by
  unfold State.lossAll
  refine List.foldlRecOn (motive := fun w : State => SamePart f z w) _ _ h fun w hw d _ => ?_
  obtain ⟨v, hv⟩ : ∃ v, v =
      if lost then setBit (w.lossSet d) (lossBit (linkCode e) b) else clrBit (w.lossSet d) (lossBit (linkCode e) b) := ⟨_, rfl⟩
  have set_ := (hw.noteSched q d).keeps ((Only.refl _).setLossSet (hp := Allow.but (by decide)) d v)
  dsimp only
  rw [← hv]
  split
  · exact set_.selectVariant q d
  · exact set_

end SamePart

theorem State.hasToken_of_pow (h : SamePart DieSt.power s t) (d : Die) (kind ctx who : Nat) :
    t.hasToken d kind ctx who = s.hasToken d kind ctx who := by
  unfold State.hasToken
  rw [show t.pow d = s.pow d from h.same d]

/-- A token returned is lent no more. -/
theorem State.hasToken_returnToken (s : State) (d : Die) (kind ctx who : Nat) :
    (s.returnToken d kind ctx who).hasToken d kind ctx who = false := by
  have shown : ∀ u : State, (u.showHeld d).pow d = u.pow d := fun _ => rfl
  unfold State.hasToken State.returnToken
  rw [shown, State.pow_setPow_same]
  refine List.any_eq_false.mpr fun x hx => ?_
  have := (List.mem_filter.mp hx).2
  exact fun e => Bool.false_ne_true ((congrArg not e).symm.trans this)

theorem isTray_of_bothEnds {e f : LinkEnd} (notTray : isTray e = false) (h : f ∈ bothEnds e) : isTray f = false := by
  cases e with
  | tray n => exact absurd notTray Bool.noConfusion
  | ikl d sl =>
    rcases List.mem_cons.mp h with rfl | h
    · rfl
    · have far : farEnd (.ikl d sl) = some f := Option.mem_toList.mp h
      cases d with
      | cr c => rw [← Option.some.inj far]; rfl
      | mv m => match sl, far with
        | ⟨0, _⟩, far => rw [← Option.some.inj far]; rfl
        | ⟨1, _⟩, far => rw [← Option.some.inj far]; rfl
        | ⟨2, _⟩, far => rw [← Option.some.inj far]; rfl
        | ⟨3, _⟩, far => rw [← Option.some.inj far]; rfl

/-! ### The commands -/

/-- The parts that the size of the largest request depends on. -/
def requestParts : List Field :=
  [.reserve, .dies, .recals, .ofReg .cfg Reg.CFG_VARIANT, .ofReg .pwr Reg.PWR_BUDGET, .ofReg .pwr Reg.PWR_CTL_EXPERT,
    .ofReg .pwr Reg.PWR_FLOOR_MV_FLOOR, .ofReg .pwr Reg.PWR_FLOOR_CR_FLOOR]

theorem State.floorOf_of_same (h : Only (Field.outside requestParts) s t) (d : Die) : t.floorOf d = s.floorOf d := by
  have expert : t.pwrExpert = s.pwrExpert := State.isF_of_same (h.keeps (x := .ofReg .pwr Reg.PWR_CTL_EXPERT) (by decide)) ..
  unfold State.floorOf
  rw [expert, Field.getF_of_same (h.keeps (x := .ofReg .pwr Reg.PWR_FLOOR_MV_FLOOR) (by decide)),
    Field.getF_of_same (h.keeps (x := .ofReg .pwr Reg.PWR_FLOOR_CR_FLOOR) (by decide))]

theorem State.maxRequest_of_same (h : Only (Field.outside requestParts) s t) (d : Die) : t.maxRequest d = s.maxRequest d := by
  have floors : t.floorOf = s.floorOf := funext (State.floorOf_of_same h)
  unfold State.maxRequest State.sumReserve State.sumFloors
  rw [floors, State.dieList_of_same (h.keeps (x := .ofReg .cfg Reg.CFG_VARIANT) (by decide)),
    show t.reserve = s.reserve from h.keeps (x := .reserve) (by decide),
    Field.getF_of_same (h.keeps (x := .ofReg .pwr Reg.PWR_BUDGET) (by decide))]

theorem does_recalGo {e : LinkEnd} {b turn : Nat} (notTray : isTray e = false) (inst : s.hasInst (leDie e) .ikl (leInst e) = true)
    (power : s.powered (leDie e) .ikl = true) (bundle : s.getF (leDie e) .ikl (leInst e) Reg.IKL_RECAL_BUNDLE = b)
    (at_ : s.get64 (leDie e) .ikl (leInst e) Reg.IKL_RECAL_TURN_LO_TURN Reg.IKL_RECAL_TURN_HI_TURN = turn)
    (service : s.inService e = true) (serves : b ∈ s.serving e) (idle : s.recalOf e = none) (fits : s.noFallback e b = false)
    (early : s.beat (leDie e) + 8 * turnBeats ≤ turn * turnBeats) (small : s.tokRecal ≤ s.maxRequest (leDie e)) :
    Does (.recalGo e) s fun t => t.recalOf e = some ⟨leCode e, b, turn, 0⟩ ∧ t.wantsToken (leDie e) 1 0xFF (leCode e) = true := by
  have go : (!s.inService e || !(s.serving e).contains b || (s.recalOf e).isSome) = false := by
    rw [service, List.contains_iff_mem.mpr serves, idle]; rfl
  obtain ⟨u, hu⟩ : ∃ u, u = s.setRecal e (some ⟨leCode e, b, turn, 0⟩) := ⟨_, rfl⟩
  obtain ⟨v, hv⟩ : ∃ v, v = ((u.showRecal e 1).setBun e b { (u.showRecal e 1).bun e b with recalOk := false }).sbSend e 0x13
    (b % 16 * 2 ^ 14 + turn % 2 ^ 43 * 2 ^ 18) := ⟨_, rfl⟩
  have kept : Only (Field.outside requestParts) u v := hv ▸ ((((Only.refl u).showRecal (hp := Allow.outside (by decide)) ..).setBun
    (hp := Allow.outside (by decide)) ..).sbSend (hp := Allow.outside (by decide)) ..)
  have most : ¬ v.maxRequest (leDie e) < s.tokRecal := by
    rw [State.maxRequest_of_same kept, hu]
    exact Nat.not_lt.mpr small
  obtain ⟨p, hp⟩ : ∃ p : PowerSt, p =
      { v.pow (leDie e) with queue := (v.pow (leDie e)).queue ++ [⟨1, s.tokRecal, s.time, 0xFF, leCode e⟩] } := ⟨_, rfl⟩
  refine .intro (t := v.setPow (leDie e) p) ?_ ⟨?_, ?_⟩
  · show execRecalGo e s = _
    simp only [execRecalGo, inst, power, Bool.and_self, if_true]
    unfold State.recalGo
    simp only [bundle, at_, notTray, go, fits, Nat.not_lt.mpr early, Bool.false_eq_true, if_false, ← hu, ← hv]
    unfold State.askToken
    rw [if_neg most, hp]
  · show v.recalOf e = _
    rw [State.recalOf_of_same (kept.keeps (by decide)), hu]
    exact s.recalOf_setRecal e _ fun x hx => by rw [← Option.some.inj hx]
  · unfold State.wantsToken
    rw [State.pow_setPow_same, hp, List.any_append]
    simp

theorem does_recalArm {e : LinkEnd} {r : SbSlot} {box b : Nat} (takes : s.sbTakesFirst e r 0x13 = (some box, z))
    (bundle : bitsOf box 14 4 = b) (small : b < nBundles e) :
    Does (.recalArm e r) s fun t => (t.bun e b).recalT = bitsOf box 18 43 + 1 := by
  refine .intro (t := z.setBun e b { z.bun e b with recalT := bitsOf box 18 43 + 1 }) ?_ ?_
  · show execRecalArm e r s = _
    simp only [execRecalArm, takes, bundle, small, if_true]
  · rw [State.bun_setBun_same]

theorem does_recalArmDeadline {e : LinkEnd} {r : Recal} (hand : s.recalOf e = some r) (step : r.step = 0)
    (late : r.turn ≤ s.turn (leDie e) + 8) (silent : (s.bun e r.bundle).recalOk = false) :
    Does (.recalArmDeadline e) s fun t => t.recalOf e = none ∧ (t.die (leDie e)).log.head?.map LogRec.rc = some 0x1006 := by
  have go : (r.step == 0 && decide (r.turn ≤ s.turn (leDie e) + 8) && !(s.bun e r.bundle).recalOk) = true := by
    rw [step, decide_eq_true late, silent]; rfl
  refine .intro (t := (s.dropRecal e).refuse .cal (leDie e) (leInst e) 0x1006) ?_ ⟨?_, ?_⟩
  · show execRecalArmDeadline e s = _
    simp only [execRecalArmDeadline, hand, go, if_true]
  · have refused : Only (Field.but .recals) ((s.returnToken (leDie e) 1 0xFF (leCode e)).setRecal e none)
        ((s.dropRecal e).refuse .cal (leDie e) (leInst e) 0x1006) :=
      ((Only.refl _).showRecal (hp := Allow.but (by decide)) e 0).refuse (hg0 := Allow.but (by decide)) (hg1 := Allow.but (by decide))
        (hp := Allow.but (by decide)) ..
    rw [State.recalOf_of_same refused.kept]
    exact State.recalOf_setRecal _ e none fun x hx => absurd hx (by simp)
  · rw [State.refuse, State.refuseBlk_die]
    rfl

theorem does_recalStart {e : LinkEnd} {r : Recal} (hand : s.recalOf e = some r) (step : r.step = 0) (atTurn : s.atTurn (leDie e) = true)
    (due : r.turn ≤ s.turn (leDie e)) (confirmed : (s.bun e r.bundle).recalOk = true) (token : s.hasToken (leDie e) 1 0xFF (leCode e) = true)
    (serves : ∀ f ∈ bothEnds e, r.bundle ∈ s.serving f ∧ s.inService f = true) (notTray : isTray e = false) :
    Does (.recalStart e) s fun t => t.recalOf e = some { r with step := 1 } ∧ ∀ f ∈ bothEnds e, t.calOut f r.bundle = true := by
  have go : (r.step != 0 || !s.atTurn (leDie e) || decide (s.turn (leDie e) < r.turn)) = false := by
    rw [step, atTurn, decide_eq_false (Nat.not_lt.mpr due)]; rfl
  have all_ : ((bothEnds e).all fun f => (s.serving f).contains r.bundle && s.inService f) = true :=
    List.all_eq_true.mpr fun f hf => by
      rw [List.contains_iff_mem.mpr (serves f hf).1, (serves f hf).2]; rfl
  obtain ⟨u, hu⟩ : ∃ u, u = (bothEnds e).foldl (fun (t : State) f => t.recalOut r.bundle f) s := ⟨_, rfl⟩
  obtain ⟨v, hv⟩ : ∃ v, v = u.setRecal e (some { r with step := 1 }) := ⟨_, rfl⟩
  have rest : Only (Field.outside [.recals, .ofReg .ikl Reg.IKL_BPHY_CAL_OUT]) v ((v.showRecal e 2).lossAll e r.bundle true) :=
    ((Only.refl v).showRecal (hp := Allow.outside (by decide)) ..).lossAll (hg0 := Allow.outside (by decide)) (hg1 := Allow.outside (by decide))
      (hg2 := Allow.outside (by decide)) (hg3 := Allow.outside (by decide)) (hp := Allow.outside (by decide)) ..
  refine .intro (t := (v.showRecal e 2).lossAll e r.bundle true) ?_ ⟨?_, fun f hf => ?_⟩
  · show execRecalStart e s = _
    simp only [execRecalStart, hand, go, confirmed, token, all_, Bool.not_true, Bool.false_eq_true, if_false, ← hu, ← hv]
  · rw [State.recalOf_of_same (rest.keeps (by decide)), hv]
    exact State.recalOf_step hand ..
  · rw [State.calOut_of_same (rest.keeps (by decide)), hv]
    show u.calOut f r.bundle = true
    rw [hu]
    exact foldl_does (P := fun f v => isTray f = false → v.calOut f r.bundle = true) (fun v a k => State.calOut_recalOut k (.inl rfl))
      (fun v a b g k => State.calOut_recalOut k (.inr (g k))) _ s (.inr hf) (isTray_of_bothEnds notTray hf)

theorem does_recalLanetestStart {e : LinkEnd} {r : Recal} (hand : s.recalOf e = some r) (step : r.step = 1)
    (atFrame : s.atFrame (leDie e) = true) (due : 1024 * r.turn + 376 ≤ s.frame (leDie e)) :
    Does (.recalLanetestStart e) s fun t => t.recalOf e = some { r with step := 2 } := by
  have go : (r.step == 1 && s.atFrame (leDie e) && decide (1024 * r.turn + 376 ≤ s.frame (leDie e))) = true := by
    rw [step, atFrame, decide_eq_true due]; rfl
  refine .intro (t := s.setRecal e (some { r with step := 2 })) ?_ (State.recalOf_step hand ..)
  show execRecalLanetestStart e s = _
  simp only [execRecalLanetestStart, hand, go, if_true]

theorem Only.failLanes_recals (h : Only (Field.but .recals) z s) (e : LinkEnd) (b mask : Nat) :
    Only (Field.but .recals) z (s.failLanes e b mask) :=
  h.failLanes e b mask (Allow.but (by decide)) (Allow.but (by decide)) (Allow.but (by decide)) (Allow.but (by decide))
    (Allow.but (by decide)) (Allow.but (by decide))

theorem does_recalReturnMission {e : LinkEnd} (near far : List (List Bool)) {r : Recal} (hand : s.recalOf e = some r) (step : r.step = 2)
    (atFrame : s.atFrame (leDie e) = true) (due : 1024 * r.turn + 1792 ≤ s.frame (leDie e)) :
    Does (.recalReturnMission e near far) s fun t => t.recalOf e = some { r with step := 3 } := by
  have go : (r.step == 2 && s.atFrame (leDie e) && decide (1024 * r.turn + 1792 ≤ s.frame (leDie e))) = true := by
    rw [step, atFrame, decide_eq_true due]; rfl
  obtain ⟨u, hu⟩ : ∃ u, u = s.setRecal e (some { r with step := 3 }) := ⟨_, rfl⟩
  have on : u.recalOf e = some { r with step := 3 } := hu ▸ State.recalOf_step hand ..
  have first := (Only.refl u).failLanes_recals e r.bundle (s.recalFails e r.bundle near)
  unfold Does
  show ∃ t, execRecalReturnMission e near far s = .next t ∧ _
  simp only [execRecalReturnMission, hand, go, if_true, ← hu]
  cases farEnd e with
  | some f => exact ⟨_, rfl, (State.recalOf_of_same (first.failLanes_recals f ..).kept e).trans on⟩
  | none => exact ⟨_, rfl, (State.recalOf_of_same first.kept e).trans on⟩

/-- The end of a recalibration, whatever its lanes came to: the request is gone, its token is back, and the bundle is not out. -/
theorem recalEnd_done (w : State) (e : LinkEnd) (b : Nat) (gone : Bool) {v t : State}
    (hv : v = ((((bothEnds e).foldl (fun (t : State) f => t.recalIn b f) w).returnToken (leDie e) 1 0xFF (leCode e)).setRecal e
      none).showRecal e 3) (ht : t = if gone then v else v.lossAll e b false) :
    t.recalOf e = none ∧ t.hasToken (leDie e) 1 0xFF (leCode e) = false ∧ ∀ f ∈ bothEnds e, t.calOut f b = false := by
  obtain ⟨u, hu⟩ : ∃ u, u = (bothEnds e).foldl (fun (t : State) f => t.recalIn b f) w := ⟨_, rfl⟩
  obtain ⟨x, hx⟩ : ∃ x, x = u.returnToken (leDie e) 1 0xFF (leCode e) := ⟨_, rfl⟩
  have shown : Only (Field.outside [.dies, .recals, .ofReg .ikl Reg.IKL_BPHY_CAL_OUT]) (x.setRecal e none) v := by
    rw [hv, ← hu, ← hx]
    exact (Only.refl _).showRecal (hp := Allow.outside (by decide)) ..
  have back : Only (Field.outside [.recals, .ofReg .ikl Reg.IKL_BPHY_CAL_OUT]) v t := by
    rw [ht]
    exact Only.ite (Only.refl v) ((Only.refl v).lossAll (hg0 := Allow.outside (by decide)) (hg1 := Allow.outside (by decide))
      (hg2 := Allow.outside (by decide)) (hg3 := Allow.outside (by decide)) (hp := Allow.outside (by decide)) ..)
  have power : SamePart DieSt.power x t := by
    have start : SamePart DieSt.power x v := ⟨(SamePart.of_dies (s := x.setRecal e none) (shown.keeps (by decide))).same⟩
    rw [ht]
    exact start.ite (start.lossAll ⟨fun _ _ _ => rfl, fun _ _ => rfl, fun _ _ => rfl, fun _ _ => rfl⟩ ..)
  refine ⟨?_, ?_, fun f hf => ?_⟩
  · rw [State.recalOf_of_same (back.keeps (by decide)), State.recalOf_of_same (shown.keeps (by decide))]
    exact State.recalOf_setRecal _ e none fun y hy => absurd hy (by simp)
  · rw [State.hasToken_of_pow power, hx]
    exact State.hasToken_returnToken ..
  · have out : Only (Field.but (.ofReg .ikl Reg.IKL_BPHY_CAL_OUT)) u x :=
      hx ▸ (Only.refl u).returnToken (hp := Allow.but (by decide)) ..
    rw [State.calOut_of_same (back.keeps (by decide)), State.calOut_of_same (shown.keeps (by decide))]
    show x.calOut f b = false
    rw [State.calOut_of_same out.kept, hu]
    by_cases tray : isTray f = true
    · unfold State.calOut
      rw [tray]; rfl
    · exact foldl_does (P := fun f v => isTray f = false → v.calOut f b = false) (fun v a k => State.calOut_recalIn k (.inl rfl))
        (fun v a b g k => State.calOut_recalIn k (.inr (g k))) _ w (.inr hf) (Bool.not_eq_true _ ▸ tray)

theorem does_recalEnd {e : LinkEnd} (near far : BitVec 21) {r : Recal} (hand : s.recalOf e = some r) (step : r.step = 3)
    (atTurn : s.atTurn (leDie e) = true) (due : r.turn + 2 ≤ s.turn (leDie e)) :
    Does (.recalEnd e near far) s fun t => t.recalOf e = none ∧ t.hasToken (leDie e) 1 0xFF (leCode e) = false ∧
      ∀ f ∈ bothEnds e, t.calOut f r.bundle = false := by
  have go : (r.step != 3 || !s.atTurn (leDie e) || decide (s.turn (leDie e) < r.turn + 2)) = false := by
    rw [step, atTurn, decide_eq_false (Nat.not_lt.mpr due)]; rfl
  unfold Does
  show ∃ t, execRecalEnd e near far s = .next t ∧ _
  simp only [execRecalEnd, hand, go, Bool.false_eq_true, if_false]
  cases farEnd e with
  | some f => exact ⟨_, rfl, recalEnd_done _ e r.bundle _ rfl rfl⟩
  | none => exact ⟨_, rfl, recalEnd_done _ e r.bundle _ rfl rfl⟩

/-- Settles O13, one lemma for each clause. -/
theorem recalibrationCommandsComplete : Obligations.RecalibrationCommandsComplete :=
  ⟨fun _ _ _ _ notTray inst power bundle at_ service serves idle fits early small =>
      does_recalGo notTray inst power bundle at_ service serves idle fits early small,
    fun _ _ _ _ _ _ takes bundle small => does_recalArm takes bundle small,
    fun _ _ _ hand step late silent => does_recalArmDeadline hand step late silent,
    fun _ _ _ hand step atTurn due confirmed token serves notTray _ => does_recalStart hand step atTurn due confirmed token serves notTray,
    fun _ _ _ hand step atFrame due => does_recalLanetestStart hand step atFrame due,
    fun _ near far _ _ hand step atFrame due => does_recalReturnMission near far hand step atFrame due,
    fun _ near far _ _ hand step atTurn due _ => does_recalEnd near far hand step atTurn due⟩

end Sys2Proof.Machine
end

section
/-! Functions are enabled and disabled, and registers are written and read (R8, R14, R418, R421, R498 to R504). -/

namespace Sys2Proof.Machine

variable {s t : State}

/-! ### Enables -/

/-- What an enable sets off may be all but the enables themselves. -/
theorem State.enabled_enableEffect (u : State) (fn fn' : Fn) (d d' : Die) (inst inst' : Nat) (ok : Bool) :
    (u.enableEffect fn d inst ok).enabled fn' d' inst' = u.enabled fn' d' inst' := by
  have parts : ∀ l ∈ [evtRegs, laneMapRegs, laneMapTxRegs, trainRegs, lastRegs, histRegs, ethLinkRegs, attemptRegs, switchRegs],
      Field.ofReg (fnRegs fn').blk (fnRegs fn').enable ∉ l := by cases fn' <;> decide
  have effect : Only (Field.but (.ofReg (fnRegs fn').blk (fnRegs fn').enable)) u (u.enableEffect fn d inst ok) :=
    (Only.refl u).enableEffect fn d inst ok (Allow.but (parts _ (by simp))) (Allow.but (parts _ (by simp)))
      (Allow.but (parts _ (by simp))) (Allow.but (parts _ (by simp))) (Allow.but (parts _ (by simp))) (Allow.but (parts _ (by simp)))
      (Allow.but (parts _ (by simp))) (Allow.but (parts _ (by simp))) (Allow.but (parts _ (by simp)))
      (Allow.but (by cases fn' <;> decide))
  exact State.isF_of_same effect.kept ..

theorem fnRegs_enable_w (fn : Fn) : (fnRegs fn).enable.w ≠ 0 := by cases fn <;> decide

theorem does_functionEnable {d : Die} {fn : Fn} {inst : Fin 4} {ok : Bool} (notRcv : fn ≠ .rcv) (notLdg : ¬(fn = .ldg ∧ d = .cr 1))
    (has : fnOn fn d inst.val = true) (here : s.hasInst d (fnRegs fn).blk inst.val = true) (power : s.powered d (fnRegs fn).blk = true)
    (run : s.heldInReset d (fnRegs fn).blk = false) (off : s.enabled fn d inst.val = false)
    (passes : (s.setF d (fnRegs fn).blk inst.val (fnRegs fn).refused 0).enableCheck fn d inst.val ok = none) :
    Does (.functionEnable d fn inst ok) s fun t => t.enabled fn d inst.val = true ∧ ∃ u : State, u.enabled fn d inst.val = true ∧
      t = u.enableEffect fn d inst.val ok := by
  obtain ⟨u, hu⟩ : ∃ u, u = (s.setF d (fnRegs fn).blk inst.val (fnRegs fn).refused 0).setF d (fnRegs fn).blk inst.val
    (fnRegs fn).enable 1 := ⟨_, rfl⟩
  have on : u.enabled fn d inst.val = true := hu ▸ State.isF_setF_one (fnRegs_enable_w fn)
  have rcv : (fn == .rcv) = false := beq_false_of_ne notRcv
  have ldg : (fn == .ldg && d == .cr 1) = false := by
    rw [Bool.and_eq_false_imp]
    exact fun e => beq_false_of_ne fun g => notLdg ⟨beq_iff_eq.mp e, g⟩
  refine .intro (t := u.enableEffect fn d inst.val ok) ?_ ⟨(State.enabled_enableEffect ..).trans on, u, on, rfl⟩
  show execFunctionEnable d fn inst ok s = _
  simp only [execFunctionEnable, State.enableFn, rcv, ldg, has, here, power, run, off, passes, Bool.or_self, Bool.not_true,
    Bool.false_eq_true, if_false, ← hu]

theorem does_functionDisable {d : Die} {fn : Fn} {inst : Fin 4} (notRcv : fn ≠ .rcv) (has : fnOn fn d inst.val = true)
    (here : s.hasInst d (fnRegs fn).blk inst.val = true) (power : s.powered d (fnRegs fn).blk = true)
    (run : s.heldInReset d (fnRegs fn).blk = false) (free : imageFn fn = true → s.boot.loaded = false) :
    Does (.functionDisable d fn inst) s fun t => t.enabled fn d inst.val = false := by
  have go : (fn == .rcv || !fnOn fn d inst.val || !s.hasInst d (fnRegs fn).blk inst.val || !s.powered d (fnRegs fn).blk) = false := by
    rw [beq_false_of_ne notRcv, has, here, power]; rfl
  have unloaded : (imageFn fn && s.boot.loaded) = false := by
    rw [Bool.and_eq_false_imp]
    exact free
  refine .intro (t := s.clearFn fn d inst.val) ?_ ?_
  · show execFunctionDisable d fn inst s = _
    simp only [execFunctionDisable, State.disableFn, run, go, unloaded, Bool.false_eq_true, if_false]
  · unfold State.clearFn
    split
    · exact State.isF_setF_zero
    · exact Bool.not_eq_true _ ▸ ‹_›

/-! ### The fields of a register that is written -/

/-- The value of a bit field fits the field. -/
theorem bitsOf_mod (v lo w : Nat) : bitsOf v lo w % 2 ^ w = bitsOf v lo w := Nat.mod_mod ..

theorem State.putFld_eq (s : State) (p : Place) (w : Nat) (g : Fld) :
    s.putFld p w g = s ∨ ∃ x, s.putFld p w g = s.setF p.die p.blk p.inst g x p.k := by
  unfold State.putFld
  cases g.acc with
  | rw => dsimp only; split; exacts [.inl rfl, .inr ⟨_, rfl⟩]
  | w1c => exact .inr ⟨_, rfl⟩
  | w1k => dsimp only; split; exacts [.inr ⟨_, rfl⟩, .inl rfl]
  | lck => dsimp only; split; exacts [.inl rfl, .inr ⟨_, rfl⟩]
  | wo => dsimp only; split; exacts [.inr ⟨_, rfl⟩, .inl rfl]
  | ro => exact .inl rfl
  | arm => exact .inl rfl
  | fuse => exact .inl rfl

/-- A write of one field leaves every field of another register or at another bit. -/
theorem State.getF_putFld_of_tag {p : Place} {w : Nat} {g : Fld} {d : Die} {b : Blk} {i k : Nat} {f : Fld}
    (h : regTag b f ≠ regTag p.blk g) : (s.putFld p w g).getF d b i f k = s.getF d b i f k := by
  rcases s.putFld_eq p w g with e | ⟨x, e⟩
  · rw [e]
  · rw [e, State.getF_setF_of_tag h]

/-- What a write leaves in a field depends on that field and on the enable that locks it. -/
theorem State.getF_putFld_congr {p : Place} {f : Fld} (w : Nat) (value : t.getF p.die p.blk p.inst f p.k = s.getF p.die p.blk p.inst f p.k)
    (gate : ∀ fn, gateOf p.blk f = some fn → t.enabled fn p.die p.inst = s.enabled fn p.die p.inst) :
    (t.putFld p w f).getF p.die p.blk p.inst f p.k = (s.putFld p w f).getF p.die p.blk p.inst f p.k := by
  have set_ (x : Nat) : (t.setF p.die p.blk p.inst f x p.k).getF p.die p.blk p.inst f p.k =
      (s.setF p.die p.blk p.inst f x p.k).getF p.die p.blk p.inst f p.k := by rw [State.getF_setF_same, State.getF_setF_same]
  have locks : ((gateOf p.blk f).any fun fn => t.enabled fn p.die p.inst) = (gateOf p.blk f).any fun fn => s.enabled fn p.die p.inst := by
    cases h : gateOf p.blk f with
    | none => rfl
    | some fn => exact gate fn h
  unfold State.putFld
  cases f.acc with
  | rw => dsimp only; split; exacts [value, set_ _]
  | w1c => dsimp only; rw [value]; exact set_ _
  | w1k => dsimp only; split; exacts [set_ _, value]
  | lck => dsimp only; rw [locks]; split; exacts [value, set_ _]
  | wo => dsimp only; split; exacts [set_ _, value]
  | ro => exact value
  | arm => exact value
  | fuse => exact value

theorem gateOf_blk {b : Blk} {f : Fld} {fn : Fn} (h : gateOf b f = some fn) : (fnRegs fn).blk = b :=
  beq_iff_eq.mp (Bool.and_eq_true_iff.mp (List.find?_some (p := fun fn => (fnRegs fn).blk == b && fnOwns fn f.off) h)).1

/-- Among fields each at its own place, none of them an enable, a field is written as if it were alone. -/
theorem State.getF_foldl_putFld {p : Place} {w : Nat} {f : Fld} : ∀ (l : List Fld) (s : State), f ∈ l → (l.map (regTag p.blk)).Nodup →
    (∀ g ∈ l, ∀ fn, (fnRegs fn).blk = p.blk → regTag p.blk (fnRegs fn).enable ≠ regTag p.blk g) →
    (l.foldl (fun (t : State) g => t.putFld p w g) s).getF p.die p.blk p.inst f p.k = (s.putFld p w f).getF p.die p.blk p.inst f p.k
  | [], _, h, _, _ => absurd h List.not_mem_nil
  | g :: l, s, h, apart, enables => by
    obtain ⟨own, rest⟩ := List.nodup_cons.mp apart
    rw [List.foldl_cons]
    rcases List.mem_cons.mp h with rfl | mem
    · refine List.foldlRecOn (motive := fun v : State => v.getF p.die p.blk p.inst f p.k =
        (s.putFld p w f).getF p.die p.blk p.inst f p.k) l _ rfl fun v hv x hx => ?_
      have ne : regTag p.blk f ≠ regTag p.blk x := fun e => own (e ▸ List.mem_map_of_mem hx)
      exact (State.getF_putFld_of_tag ne).trans hv
    · rw [State.getF_foldl_putFld l _ mem rest fun x hx => enables x (List.mem_cons_of_mem _ hx)]
      refine State.getF_putFld_congr w (State.getF_putFld_of_tag fun e => own (e ▸ List.mem_map_of_mem mem)) fun fn gate => ?_
      unfold State.enabled State.isF
      rw [gateOf_blk gate, State.getF_putFld_of_tag (enables g (List.mem_cons_self ..) fn (gateOf_blk gate))]

/-! ### The registers of the tray ports, Ethernet ports, PTP and the thermal block -/

/-- The blocks whose registers do nothing beside their fields. -/
def plainBlks : List Blk := [.trayPort, .ethPort, .ptp, .thm]

theorem plain_nodup : ∀ b ∈ plainBlks, ∀ r ∈ blkRows b, (r.flds.map (regTag b)).Nodup := by decide

/-- Where no field of a row is an enable, none lies at an enable's place. -/
theorem plain_enable (fn : Fn) : ∀ b ∈ plainBlks, ∀ r ∈ blkRows b, (∀ g ∈ r.flds, fnOfEnable b g = none) → ∀ g ∈ r.flds,
    (fnRegs fn).blk = b → regTag b (fnRegs fn).enable ≠ regTag b g := by cases fn <;> decide

/-- No row with an ARM field holds a field that a refusal writes. -/
theorem plain_arm (fn : Fn) : ∀ b ∈ plainBlks, ∀ r ∈ blkRows b, (∃ g ∈ r.flds, g.acc = .arm) → ∀ f ∈ r.flds,
    Field.ofReg b f ∉ evtRegs ++ refusalRegs ++ [.dies, .ofReg (fnRegs fn).blk (fnRegs fn).reason, .ofReg (fnRegs fn).blk (fnRegs fn).refused,
      .ofReg .cfg Reg.CFG_ARM_STATUS_LATE_WR, .shadow] := by cases fn <;> decide

theorem row_of_findPlace {a : Nat} {p : Place} (h : findPlace a = some p) : p.row ∈ blkRows p.blk := by
  unfold findPlace at h
  split at h
  · exact absurd h (by simp)
  · obtain ⟨bi, -, found⟩ := List.exists_of_findSome?_eq_some h
    dsimp only at found
    split at found
    · exact absurd found (by simp)
    · split at found
      · exact absurd found (by simp)
      · obtain ⟨r, hr, at_⟩ := List.exists_of_findSome?_eq_some found
        obtain ⟨k, -, rfl⟩ := Option.map_eq_some_iff.mp at_
        exact hr

/-- A register of those blocks at a Crown die, which holds no enable. -/
structure PlainPlace (p : Place) : Prop where
  blk : p.blk ∈ plainBlks
  crown : ∃ x, p.die = .cr x
  row : p.row ∈ blkRows p.blk
  enables : ∀ g ∈ p.row.flds, fnOfEnable p.blk g = none

namespace PlainPlace

variable {p : Place}

/-- A field that is not ARM keeps its value while the row's ARM fields are taken. -/
theorem getF_armFlds (h : PlainPlace p) {f : Fld} (mem : f ∈ p.row.flds) (u : State) (w : Nat) :
    (u.armFlds p w).getF p.die p.blk p.inst f p.k = u.getF p.die p.blk p.inst f p.k := by
  by_cases arm : ∃ g ∈ p.row.flds, g.acc = .arm
  · have none_ (fn : Fn) := plain_arm fn _ h.blk _ h.row arm f mem
    have parts (fn : Fn) (l : List Field) (hl : ∀ x ∈ l, x ∈ evtRegs ++ refusalRegs ++ [.dies, .ofReg (fnRegs fn).blk (fnRegs fn).reason,
        .ofReg (fnRegs fn).blk (fnRegs fn).refused, .ofReg .cfg Reg.CFG_ARM_STATUS_LATE_WR, .shadow]) :
        Allow (Field.but (.ofReg p.blk f)) l := Allow.but fun k => none_ fn (hl _ k)
    unfold State.armFlds
    dsimp only
    split
    · rfl
    · split
      · exact Field.getF_of_same (((Only.refl u).refuse (hg0 := parts ‹_› _ (by simp +contextual))
          (hg1 := parts ‹_› _ (by simp +contextual)) (hp := parts ‹_› _ (by simp +contextual)) ..).kept) ..
      · split
        · exact Field.getF_of_same (((Only.refl u).bumpF (hp := parts .thm _ (by simp)) ..).kept) ..
        · rfl
  · have none_ : (p.row.flds.filter fun g => g.acc == .arm) = [] :=
      List.filter_eq_nil_iff.mpr fun g hg e => arm ⟨g, hg, beq_iff_eq.mp e⟩
    unfold State.armFlds
    rw [none_]
    rfl

/-- No enable is written there. -/
theorem putEnables (h : PlainPlace p) (u : State) (w : Nat) (ok : Bool) : u.putEnables p w ok = u := by
  unfold State.putEnables
  refine List.foldlRecOn (motive := fun v : State => v = u) p.row.flds _ rfl fun v hv g hg => ?_
  rw [h.enables g hg]
  exact hv

/-- A write there is a write of its fields. -/
theorem regWrite (h : PlainPlace p) (u : State) (w : Nat) (ok : Bool) :
    u.regWrite p w ok = (p.row.flds.foldl (fun (t : State) f => t.putFld p w f) u).armFlds p w := by
  have other {c : Blk} (hc : c ∉ plainBlks) : (p.blk == c) = false := beq_false_of_ne fun e => hc (e ▸ h.blk)
  have tail_ : u.portEmpty p = false ∧ (∀ v : State, v.writeHook p w = v) := by
    obtain ⟨d, b, i, row, k⟩ := p
    obtain ⟨x, rfl⟩ : ∃ x, d = .cr x := h.crown
    have mem : b ∈ plainBlks := h.blk
    simp only [plainBlks, List.mem_cons, List.not_mem_nil, or_false] at mem
    rcases mem with rfl | rfl | rfl | rfl
    all_goals exact ⟨rfl, fun _ => rfl⟩
  obtain ⟨full, noHook⟩ := tail_
  unfold State.regWrite
  simp only [Place.is, other (show Blk.pwr ∉ plainBlks by decide), other (show Blk.cfg ∉ plainBlks by decide),
    other (show Blk.sec ∉ plainBlks by decide), other (show Blk.rcv ∉ plainBlks by decide), other (show Blk.bal ∉ plainBlks by decide),
    other (show Blk.pci ∉ plainBlks by decide), full, Bool.false_and, Bool.or_self, Bool.false_eq_true, if_false, h.putEnables, noHook]
  split
  · exact absurd h.blk (by rw [‹p.blk = _›]; decide)
  · rfl

end PlainPlace

/-! ### Writes of the management space -/

theorem State.msWrite_at {c : Crown} {a w : Nat} {ok : Bool} {p : Place} (place : findPlace a = some p) (crown : ∃ x, p.die = .cr x)
    (here : s.hasInst p.die p.blk p.inst = true) (power : s.powered p.die p.blk = true) :
    s.msWrite c a w ok = (s.noteReserved p.row a w).regWrite p w ok := by
  have noLdg : (a == winBase (.cr 1) + blkOff .ldg 0 && bit w 0) = false := by
    have none_ : findPlace (winBase (.cr 1) + blkOff .ldg 0) = none := by decide
    rw [Bool.and_eq_false_imp]
    exact fun e => absurd (place.symm.trans ((beq_iff_eq.mp e) ▸ none_)) (by simp)
  obtain ⟨d, b, i, row, k⟩ := p
  obtain ⟨x, rfl⟩ : ∃ x, d = .cr x := crown
  have run : s.heldInReset (.cr x) b = false := rfl
  unfold State.msWrite
  simp only [noLdg, place, here, power, run, Bool.not_true, Bool.or_self, Bool.false_eq_true, if_false]

theorem exec_registerWrite_at {c : Crown} {a w : Word} {ok : Bool} {p : Place} (on : s.bar0On c = true) (aligned : a.toNat % 4 = 0)
    (place : findPlace a.toNat = some p) (crown : ∃ x, p.die = .cr x) (here : s.hasInst p.die p.blk p.inst = true)
    (power : s.powered p.die p.blk = true) :
    exec (.registerWrite c a w ok) s = .next ((s.noteReserved p.row a.toNat w.toNat).regWrite p w.toNat ok) := by
  show execRegisterWrite c a w ok s = _
  simp only [execRegisterWrite, on, aligned, Bool.not_true, Bool.false_eq_true, if_false, beq_self_eq_true, if_true,
    State.msWrite_at place crown here power]

/-- A register write to such a place leaves in each field what a write of that field alone leaves. -/
theorem does_registerWrite_field {c : Crown} {a w : Word} {ok : Bool} {p : Place} {f : Fld} (on : s.bar0On c = true)
    (aligned : a.toNat % 4 = 0) (place : findPlace a.toNat = some p) (plain : PlainPlace p)
    (here : s.hasInst p.die p.blk p.inst = true) (power : s.powered p.die p.blk = true) (mem : f ∈ p.row.flds) :
    Does (.registerWrite c a w ok) s fun t =>
      t.getF p.die p.blk p.inst f p.k = (s.putFld p w.toNat f).getF p.die p.blk p.inst f p.k := by
  refine .intro (exec_registerWrite_at on aligned place plain.crown here power) ?_
  rw [plain.regWrite, plain.getF_armFlds mem, State.getF_foldl_putFld _ _ mem (plain_nodup _ plain.blk _ plain.row)
    fun g hg fn hb => plain_enable fn _ plain.blk _ plain.row plain.enables g hg hb]
  exact State.getF_putFld_congr _ rfl fun _ _ => rfl

theorem get_foldl_set_placeKey {p : Place} {w : Nat} {f : Fld} : ∀ (l : List Fld) (u : Tab Nat), f ∈ l → (l.map (regTag p.blk)).Nodup →
    Tab.get 0 (l.foldl (fun (t : Tab Nat) g => Tab.set 0 t (placeKey p g) (bitsOf w g.lo g.w + 1)) u) (placeKey p f) =
      bitsOf w f.lo f.w + 1
  | [], _, h, _ => absurd h List.not_mem_nil
  | g :: l, u, h, apart => by
    obtain ⟨own, rest⟩ := List.nodup_cons.mp apart
    rw [List.foldl_cons]
    rcases List.mem_cons.mp h with rfl | mem
    · refine List.foldlRecOn (motive := fun v : Tab Nat => Tab.get 0 v (placeKey p f) = bitsOf w f.lo f.w + 1) l _
        (Tab.get_set_same ..) fun v hv x hx => ?_
      have ne : regTag p.blk f ≠ regTag p.blk x := fun e => own (e ▸ List.mem_map_of_mem hx)
      exact (Tab.get_set_ne _ _ (fkey_ne_of_tag ne)).trans hv
    · exact get_foldl_set_placeKey l _ mem rest

theorem does_registerWrite_arm {c : Crown} {a w : Word} {ok : Bool} {p : Place} {f : Fld} (on : s.bar0On c = true)
    (aligned : a.toNat % 4 = 0) (place : findPlace a.toNat = some p) (plain : PlainPlace p)
    (here : s.hasInst p.die p.blk p.inst = true) (power : s.powered p.die p.blk = true) (mem : f ∈ p.row.flds)
    (arm : ∀ g ∈ p.row.flds, g.acc = .arm) (free : ∀ g ∈ p.row.flds, s.governed p g = none) (inTime : s.lateWr = false) :
    Does (.registerWrite c a w ok) s fun t => Tab.get 0 t.shadow (placeKey p f) = bitsOf w.toNat f.lo f.w + 1 ∧
      t.getF p.die p.blk p.inst f p.k = s.getF p.die p.blk p.inst f p.k := by
  obtain ⟨u, hu⟩ : ∃ u, u = s.noteReserved p.row a.toNat w.toNat := ⟨_, rfl⟩
  have all_ : (p.row.flds.filter fun g => g.acc == .arm) = p.row.flds :=
    List.filter_eq_self.mpr fun g hg => beq_iff_eq.mpr (arm g hg)
  have some_ : (p.row.flds == []) = false := beq_false_of_ne fun e => List.not_mem_nil (e ▸ mem)
  have ungoverned : p.row.flds.findSome? (u.governed p) = none := List.findSome?_eq_none_iff.mpr fun g hg => hu ▸ free g hg
  have late : u.lateWr = false := hu ▸ inTime
  have unput : p.row.flds.foldl (fun (t : State) g => t.putFld p w.toNat g) u = u := by
    refine List.foldlRecOn (motive := fun v : State => v = u) p.row.flds _ rfl fun v hv g hg => ?_
    unfold State.putFld
    rw [arm g hg]
    exact hv
  refine .intro (exec_registerWrite_at on aligned place plain.crown here power) ?_
  rw [plain.regWrite, ← hu, unput]
  unfold State.armFlds
  simp only [all_, some_, ungoverned, late, Bool.false_eq_true, if_false]
  exact ⟨get_foldl_set_placeKey _ _ mem (plain_nodup _ plain.blk _ plain.row), by rw [hu]; rfl⟩

theorem does_registerWrite_plain {c : Crown} {a w : Word} {ok : Bool} {p : Place} {f : Fld} (on : s.bar0On c = true)
    (place : findPlace a.toNat = some p) (aligned : a.toNat % 4 = 0) (here : s.hasInst p.die p.blk p.inst = true)
    (power : s.powered p.die p.blk = true) (plain : PlainPlace p) (mem : f ∈ p.row.flds) :
    (f.acc = .lck → (∀ fn, gateOf p.blk f = some fn → s.enabled fn p.die p.inst = false) →
      Does (.registerWrite c a w ok) s fun t => t.getF p.die p.blk p.inst f p.k = bitsOf w.toNat f.lo f.w) ∧
    (f.acc = .w1c →
      Does (.registerWrite c a w ok) s fun t =>
        t.getF p.die p.blk p.inst f p.k = andNot (s.getF p.die p.blk p.inst f p.k) (bitsOf w.toNat f.lo f.w) % 2 ^ f.w) ∧
    (f.acc = .w1k → bitsOf w.toNat f.lo f.w = 2 ^ f.w - 1 →
      Does (.registerWrite c a w ok) s fun t => t.getF p.die p.blk p.inst f p.k = 0) ∧
    ((f.acc = .ro ∨ f.acc = .fuse) →
      Does (.registerWrite c a w ok) s fun t => t.getF p.die p.blk p.inst f p.k = s.getF p.die p.blk p.inst f p.k) ∧
    ((∀ g ∈ p.row.flds, g.acc = .arm) → (∀ g ∈ p.row.flds, s.governed p g = none) → s.lateWr = false →
      Does (.registerWrite c a w ok) s fun t => Tab.get 0 t.shadow (placeKey p f) = bitsOf w.toNat f.lo f.w + 1 ∧
        t.getF p.die p.blk p.inst f p.k = s.getF p.die p.blk p.inst f p.k) := by
  obtain ⟨u, wrote, value⟩ := does_registerWrite_field (w := w) (ok := ok) on aligned place plain here power mem
  refine ⟨fun lck open_ => ⟨u, wrote, ?_⟩, fun w1c => ⟨u, wrote, ?_⟩, fun w1k full => ⟨u, wrote, ?_⟩,
    fun fixed => ⟨u, wrote, ?_⟩, fun arm free inTime => does_registerWrite_arm on aligned place plain here power mem arm free inTime⟩
  all_goals
    refine value.trans ?_
    unfold State.putFld
  · have unlocked : ((gateOf p.blk f).any fun fn => s.enabled fn p.die p.inst) = false := by
      cases h : gateOf p.blk f with
      | none => rfl
      | some fn => exact open_ fn h
    simp only [lck, unlocked, Bool.false_eq_true, if_false, State.getF_setF_same, bitsOf_mod]
  · simp only [w1c, State.getF_setF_same]
  · simp only [w1k, full, beq_self_eq_true, if_true, State.getF_setF_same, Nat.zero_mod]
  · rcases fixed with e | e <;> simp only [e]

theorem does_registerWrite_unpowered {c : Crown} {a w : Word} {ok : Bool} {p : Place} (on : s.bar0On c = true)
    (place : findPlace a.toNat = some p) (aligned : a.toNat % 4 = 0) (clear : bit w.toNat 0 = false)
    (off : s.powered p.die p.blk = false) : Does (.registerWrite c a w ok) s fun t => t = s := by
  refine .intro (t := s) ?_ rfl
  show execRegisterWrite c a w ok s = _
  have ignored : s.msWrite c a.toNat w.toNat ok = s := by
    unfold State.msWrite
    simp only [place, clear, off, Bool.and_false, Bool.not_false, Bool.or_true, Bool.false_eq_true, if_false, if_true, ite_self]
  simp only [execRegisterWrite, on, aligned, ignored, Bool.not_true, Bool.false_eq_true, if_false, beq_self_eq_true, if_true]

/-! ### Two register arrays of CR0 -/

/-- The row of the staged values. -/
def stageRow : RegRow := ⟨0x104, 64, 0x8, 1, 4, [Reg.CFG_STAGE_VAL_VALUE]⟩

/-- The row of the flash data. -/
def flDataRow : RegRow := ⟨0x100, 64, 0x4, 1, 4, [Reg.BOOT_FL_DATA_DATA]⟩

/-- Whether an address leads to a place of CR0. -/
def leadsTo (a : Nat) (b : Blk) (row : RegRow) (k : Nat) : Bool :=
  (findPlace a).any fun p => p.die == cr0 && p.blk == b && p.inst == 0 && decide (p.row = row) && p.k == k

theorem findPlace_of_leadsTo {a : Nat} {b : Blk} {row : RegRow} {k : Nat} (h : leadsTo a b row k = true) :
    findPlace a = some ⟨cr0, b, 0, row, k⟩ := by
  unfold leadsTo at h
  cases found : findPlace a with
  | none => rw [found] at h; exact absurd h Bool.false_ne_true
  | some p =>
    rw [found] at h
    obtain ⟨d, b', i, row', k'⟩ := p
    simp only [Option.any_some, Bool.and_eq_true, beq_iff_eq, decide_eq_true_eq] at h
    obtain ⟨⟨⟨⟨rfl, rfl⟩, rfl⟩, rfl⟩, rfl⟩ := h
    rfl

theorem stage_place : ∀ i : Fin 64, leadsTo (0x104 + 8 * i.val) .cfg stageRow (8 * i.val) = true := by decide +kernel

theorem flData_place : ∀ i : Fin 64, leadsTo (0x400100 + 4 * i.val) .boot flDataRow (4 * i.val) = true := by decide +kernel

theorem State.regWrite_stage (u : State) (k w : Nat) (ok : Bool) (inTime : u.lateWr = false) :
    u.regWrite ⟨cr0, .cfg, 0, stageRow, k⟩ w ok = u.setF cr0 .cfg 0 Reg.CFG_STAGE_VAL_VALUE (bitsOf w 0 32) k := by
  unfold State.regWrite
  rw [inTime]
  rfl

theorem State.regWrite_flData (u : State) (k w : Nat) (ok : Bool) :
    u.regWrite ⟨cr0, .boot, 0, flDataRow, k⟩ w ok = u.setF cr0 .boot 0 Reg.BOOT_FL_DATA_DATA (bitsOf w 0 32) k := by
  unfold State.regWrite
  rfl

theorem bitsOf_word (w : Word) : bitsOf w.toNat 0 32 = w.toNat := by
  unfold bitsOf
  rw [Nat.pow_zero, Nat.div_one, Nat.mod_eq_of_lt w.isLt]

theorem does_registerWrite_stage {c : Crown} {a w : Word} {ok : Bool} {i : Nat} (on : s.bar0On c = true) (small : i < 64)
    (at_ : a.toNat = Reg.CFG_STAGE_VAL_VALUE.off + 8 * i) (inTime : s.lateWr = false) :
    Does (.registerWrite c a w ok) s fun t => t.getF cr0 .cfg 0 Reg.CFG_STAGE_VAL_VALUE (8 * i) = w.toNat := by
  have place := findPlace_of_leadsTo (stage_place ⟨i, small⟩)
  have aligned : a.toNat % 4 = 0 := by rw [at_]; show (0x104 + 8 * i) % 4 = 0; omega
  rw [show 0x104 + 8 * (⟨i, small⟩ : Fin 64).val = a.toNat from at_.symm] at place
  refine .intro (exec_registerWrite_at on aligned place ⟨0, rfl⟩ rfl rfl) ?_
  rw [State.regWrite_stage _ _ _ _ (show (s.noteReserved ..).lateWr = false from inTime), State.getF_setF_same, bitsOf_word]
  exact Nat.mod_eq_of_lt w.isLt

/-! ### Reads -/

theorem State.wordRead_stage (u : State) (k : Nat) :
    u.wordRead ⟨cr0, .cfg, 0, stageRow, k⟩ = u.getF cr0 .cfg 0 Reg.CFG_STAGE_VAL_VALUE k % 2 ^ 32 := by
  have field : u.fldRead ⟨cr0, .cfg, 0, stageRow, k⟩ Reg.CFG_STAGE_VAL_VALUE = u.getF cr0 .cfg 0 Reg.CFG_STAGE_VAL_VALUE k := rfl
  unfold State.wordRead
  show [u.fldRead ⟨cr0, .cfg, 0, stageRow, k⟩ Reg.CFG_STAGE_VAL_VALUE % 2 ^ 32 * 2 ^ 0].sum = _
  rw [field, List.sum_singleton, Nat.pow_zero, Nat.mul_one]

theorem does_msRead_stage {c : Crown} {a : Word} {i : Nat} (on : s.bar0On c = true) (small : i < 64)
    (at_ : a.toNat = Reg.CFG_STAGE_VAL_VALUE.off + 8 * i) :
    Does (.msRead c a) s fun t => Tab.get 0 t.rdData (pathCode (.bar0 c)) = s.getF cr0 .cfg 0 Reg.CFG_STAGE_VAL_VALUE (8 * i) % 2 ^ 32 := by
  have place := findPlace_of_leadsTo (stage_place ⟨i, small⟩)
  have addr : a.toNat = 0x104 + 8 * i := at_
  have aligned : a.toNat % 4 = 0 := by omega
  have win : dieOfWin a.toNat = some cr0 := by
    unfold dieOfWin
    rw [show a.toNat / 0x1000000 = 0 by omega]
    rfl
  have noRing : ¬(0x4A0000 ≤ a.toNat % 0x1000000 ∧ a.toNat % 0x1000000 < 0x4C0000) := by omega
  rw [show 0x104 + 8 * (⟨i, small⟩ : Fin 64).val = a.toNat from addr.symm] at place
  have read : s.msRead (.bar0 c) a.toNat = (s.getF cr0 .cfg 0 Reg.CFG_STAGE_VAL_VALUE (8 * i) % 2 ^ 32, s) := by
    unfold State.msRead
    simp only [win, place, noRing, if_false]
    show (none : Option (Nat × State)).getD (s.wordRead ⟨cr0, .cfg, 0, stageRow, 8 * i⟩, s) = _
    rw [Option.getD_none, State.wordRead_stage]
  refine .intro (t := s.putRd (.bar0 c) (s.getF cr0 .cfg 0 Reg.CFG_STAGE_VAL_VALUE (8 * i) % 2 ^ 32)) ?_ (State.rdData_putRd_same ..)
  show execMsRead c a s = _
  simp only [execMsRead, on, aligned, read, Bool.not_true, Bool.false_eq_true, if_false, beq_self_eq_true, if_true]

theorem does_msRead_off {c : Crown} {a : Word} {p : Place} (on : s.bar0On c = true) (aligned : a.toNat % 4 = 0)
    (win : dieOfWin a.toNat = some p.die) (place : findPlace a.toNat = some p) (here : s.hasInst p.die p.blk p.inst = true)
    (crown : ∃ x, p.die = .cr x) (off : s.powered p.die p.blk = false)
    (noRing : ¬(0x4A0000 ≤ a.toNat % 0x1000000 ∧ a.toNat % 0x1000000 < 0x4C0000)) :
    Does (.msRead c a) s fun t => Tab.get 0 t.rdData (pathCode (.bar0 c)) = 0xFFFFFFFF := by
  obtain ⟨d, b, i, row, k⟩ := p
  obtain ⟨x, rfl⟩ : ∃ x, d = .cr x := crown
  have die : s.hasDie (.cr x) = true := (Bool.and_eq_true_iff.mp here).1
  have dead : s.deadRead (.bar0 c) (.cr x) b = some (0xFFFFFFFF, s) := by
    unfold State.deadRead
    simp only [die, off, Bool.not_true, Bool.not_false, Bool.true_or, Bool.false_eq_true, if_false, if_true]
  have read : s.msRead (.bar0 c) a.toNat = (0xFFFFFFFF, s) := by
    unfold State.msRead
    simp only [win, place, noRing, here, dead, if_false, Bool.not_true, Bool.false_eq_true, Option.getD_some]
  refine .intro (t := s.putRd (.bar0 c) 0xFFFFFFFF) ?_ (State.rdData_putRd_same ..)
  show execMsRead c a s = _
  simp only [execMsRead, on, aligned, read, Bool.not_true, Bool.false_eq_true, if_false, beq_self_eq_true, if_true]

/-! ### SMBus -/

theorem does_smbusWrite {a w : Word} (on : s.smOn = true) (writable : smWritable a.toNat = true) :
    Does (.smbusWrite a w true) s fun t => t.boot.smPtr = a.toNat ∧ t.boot.smNack = false ∧
      ∀ i < 64, a.toNat = 0x400100 + 4 * i → t.getF cr0 .boot 0 Reg.BOOT_FL_DATA_DATA (4 * i) = w.toNat := by
  obtain ⟨u, hu⟩ : ∃ u, u = if a.toNat == 0x400000 then (if bit w.toNat 8 then s.restartWrite else s)
    else s.msWrite 0 a.toNat w.toNat true := ⟨_, rfl⟩
  refine .intro (t := { u with boot := { u.boot with smPtr := a.toNat, smNack := false } }) ?_ ⟨rfl, rfl, fun i small at_ => ?_⟩
  · show execSmbusWrite a w true s = _
    simp only [execSmbusWrite, on, writable, Bool.not_true, Bool.or_self, Bool.false_eq_true, if_false, ← hu]
  · have place := findPlace_of_leadsTo (flData_place ⟨i, small⟩)
    rw [show 0x400100 + 4 * (⟨i, small⟩ : Fin 64).val = a.toNat from at_.symm] at place
    have noCtl : (a.toNat == 0x400000) = false := beq_false_of_ne (by omega)
    show u.getF cr0 .boot 0 Reg.BOOT_FL_DATA_DATA (4 * i) = w.toNat
    rw [hu, noCtl, if_neg Bool.false_ne_true, State.msWrite_at place ⟨0, rfl⟩ rfl rfl, State.regWrite_flData, State.getF_setF_same,
      bitsOf_word]
    exact Nat.mod_eq_of_lt w.isLt

theorem does_smbusWrite_bad {a w : Word} {pec : Bool} (on : s.smOn = true) (bad : pec = false ∨ smWritable a.toNat = false) :
    Does (.smbusWrite a w pec) s fun t => t.boot.smNack = true ∧ t.regs = s.regs := by
  have nack : (!pec || !smWritable a.toNat) = true := by rcases bad with e | e <;> simp [e]
  refine .intro (t := { s with boot := { s.boot with smNack := true } }) ?_ ⟨rfl, rfl⟩
  show execSmbusWrite a w pec s = _
  simp only [execSmbusWrite, on, nack, Bool.not_true, Bool.false_eq_true, if_false, if_true]

theorem does_smbusSetPointer {a : Word} (on : s.smOn = true) :
    Does (.smbusSetPointer a true) s fun t => t.boot.smPtr = a.toNat ∧ t.boot.smNack = false := by
  refine .intro (t := { s with boot := { s.boot with smPtr := a.toNat, smNack := false } }) ?_ ⟨rfl, rfl⟩
  show execSmbusSetPointer a true s = _
  simp only [execSmbusSetPointer, on, Bool.not_true, Bool.false_eq_true, if_false]

theorem does_smbusRead_pointer (on : s.smOn = true) :
    Does .smbusRead s fun t => t.boot.smPtr = (s.boot.smPtr + 4) % 2 ^ 32 ∧
      (smSubset s.boot.smPtr = false → t.boot.smOut = some (1, 0)) ∧
      (s.boot.smPtr = 0x40000C → t.boot.smOut.map Prod.fst = some 0) := by
  refine ⟨_, if_neg (by simp [on]), rfl, fun outside => ?_, fun at_ => ?_⟩
  · show some (s.smRead s.boot.smPtr).1 = some (1, 0)
    unfold State.smRead
    rw [outside]
    rfl
  · show some (s.smRead s.boot.smPtr).1.1 = some 0
    unfold State.smRead
    rw [at_]
    rfl

/-- Settles O40, one lemma for each clause. -/
theorem accessCommandsComplete : Obligations.AccessCommandsComplete :=
  ⟨fun _ _ _ _ _ notRcv notLdg has here power run off passes => does_functionEnable notRcv notLdg has here power run off passes,
    fun _ _ _ _ notRcv has here power run free => does_functionDisable notRcv has here power run free,
    fun _ _ _ _ _ _ on small at_ inTime => does_registerWrite_stage on small at_ inTime,
    fun _ _ _ _ _ _ _ on place aligned here power crown blk mem enables =>
      does_registerWrite_plain on place aligned here power ⟨blk, crown, row_of_findPlace place, enables⟩ mem,
    fun _ _ _ _ _ on odd => .intro (exec_registerWrite_of_misaligned on _ _ odd) rfl,
    fun _ _ _ _ _ _ on place aligned clear off => does_registerWrite_unpowered on place aligned clear off,
    fun _ _ _ _ on small at_ => does_msRead_stage on small at_,
    fun _ _ _ _ on aligned win place here crown off noRing => does_msRead_off on aligned win place here crown off noRing,
    fun _ rd _ on => .intro (exec_msBadAccess_of_bar0On on rd) ⟨State.badAccess_count .., fun h => h ▸ State.badAccess_read_allOnes ..⟩,
    fun _ _ _ on writable => does_smbusWrite on writable,
    fun _ _ _ _ on bad => does_smbusWrite_bad on bad,
    fun _ _ on => does_smbusSetPointer on,
    fun _ on => does_smbusRead_pointer on⟩

end Sys2Proof.Machine
end

section
/-! Sideband containers, and the messages that are acknowledged (R73 to R85, R148, R446, R450). -/

namespace Sys2Proof.Machine

variable {s t z : State}

/-! ### Containers that are taken as they come -/

theorem State.lastBox_sbReceive {e : LinkEnd} {r : SbSlot} {box : Nat} {u : State} (h : s.sbReceive e r = (some box, u)) :
    (u.link e).lastBox = box := by
  unfold State.sbReceive at h
  dsimp only at h
  split at h
  · exact absurd (congrArg Prod.fst h) (by simp)
  · split at h
    · exact absurd (congrArg Prod.fst h) (by simp)
    · split at h
      · obtain ⟨same, rfl⟩ := Prod.mk.inj h
        rw [State.link_setLink_same]
        exact Option.some.inj same
      · exact absurd (congrArg Prod.fst h) (by simp)

section
variable {e : LinkEnd} {r : SbSlot} {box : Nat} {u : State} (due : s.slotDue e r.slot = true) (got : s.sbReceive e r = (some box, u))
include due got

theorem does_sidebandContainer_nop (nop : bitsOf box 0 6 = 0) :
    Does (.sidebandContainer e r) s fun t => t = u ∧ (t.link e).lastBox = box := by
  refine .intro (t := u) ?_ ⟨rfl, State.lastBox_sbReceive got⟩
  show execSidebandContainer e r s = _
  simp only [execSidebandContainer, due, got, nop, Bool.not_true, Bool.false_eq_true, if_false]

theorem does_sidebandContainer_map0 (map : bitsOf box 0 6 = 0x1A) : Does (.sidebandContainer e r) s fun t =>
    (t.die (leDie e)).map0 = some (bitsOf box 6 64, bitsOf box 70 32, bitsOf box 102 2) := by
  refine .intro (t := u.takeTaiMap (leDie e) box) ?_ ?_
  · show execSidebandContainer e r s = _
    simp only [execSidebandContainer, due, got, map, Bool.not_true, Bool.false_eq_true, if_false]
  · unfold State.takeTaiMap
    simp only [map, beq_self_eq_true, if_true, State.die_setDie_same]

theorem does_sidebandContainer_map1 (map : bitsOf box 0 6 = 0x1B) : Does (.sidebandContainer e r) s fun t =>
    (t.die (leDie e)).map1 = some (bitsOf box 6 64, bitsOf box 70 2, bit box 72, bit box 73) := by
  refine .intro (t := u.takeTaiMap (leDie e) box) ?_ ?_
  · show execSidebandContainer e r s = _
    simp only [execSidebandContainer, due, got, map, Bool.not_true, Bool.false_eq_true, if_false]
  · unfold State.takeTaiMap
    simp only [map, show (0x1B == 0x1A) = false from rfl, Bool.false_eq_true, if_false, State.die_setDie_same]

end

theorem does_sidebandContainer_heartbeat {m : Mv} {sl : Fin 4} {r : SbSlot} {box : Nat} {u : State}
    (due : s.slotDue (.ikl (.mv m) sl) r.slot = true) (got : s.sbReceive (.ikl (.mv m) sl) r = (some box, u))
    (beats : bitsOf box 0 6 = 0x18) (combined : bitsOf box 6 3 = 2) :
    Does (.sidebandContainer (.ikl (.mv m) sl) r) s fun t => (t.die (.mv m)).combined = bitsOf box 64 32 := by
  refine .intro (t := u.takeHeartbeat (.ikl (.mv m) sl) box) ?_ ?_
  · show execSidebandContainer (.ikl (.mv m) sl) r s = _
    simp only [execSidebandContainer, due, got, beats, combined, Bool.not_true, Bool.false_eq_true, if_false, Nat.reduceBEq, Bool.or_self]
  · unfold State.takeHeartbeat
    simp only [combined, leDie, State.die_setDie_same]

theorem does_sidebandContainer_grant {m : Mv} {sl : Fin 4} {r : SbSlot} {box : Nat} {u : State}
    (due : s.slotDue (.ikl (.mv m) sl) r.slot = true) (got : s.sbReceive (.ikl (.mv m) sl) r = (some box, u))
    (budget : bitsOf box 0 6 = 0x19) (grants : bit box 6 = true) (mine : bitsOf box 7 3 = dieCode (.mv m))
    (fresh : u.staleKind (.mv m) 3 = false) :
    Does (.sidebandContainer (.ikl (.mv m) sl) r) s fun t => (t.die (.mv m)).power.grant = some (bitsOf box 12 32, bitsOf box 44 16) := by
  have noRelay : (dieCode (.mv m) == 5) = false := beq_false_of_ne (Nat.ne_of_lt (Nat.lt_trans m.isLt (by decide)))
  have noReport : (Die.mv m == cr0) = false := rfl
  refine .intro (t := u.takeBudget (.ikl (.mv m) sl) box) ?_ ?_
  · show execSidebandContainer (.ikl (.mv m) sl) r s = _
    simp only [execSidebandContainer, due, got, budget, Bool.not_true, Bool.false_eq_true, if_false]
  · unfold State.takeBudget
    simp only [leDie, mine, noRelay, noReport, grants, fresh, Bool.and_false, Bool.false_and, Bool.false_eq_true, if_false,
      beq_self_eq_true, Bool.not_false, Bool.and_self, if_true]
    exact congrArg PowerSt.grant (State.pow_setPow_same ..)

/-! ### The sideband slots that are sent -/

/-- A slot sent leaves its container and its segment. -/
theorem State.link_sendBox (s : State) (e : LinkEnd) (k box : Nat) :
    ((s.sendBox e k box).link e).lastSb = box ∧ (isTray e = false → ((s.sendBox e k box).link e).lastSeg = sidebandSeg k box) := by
  unfold State.sendBox
  dsimp only
  cases tray : isTray e with
  | true =>
    simp only [if_true]
    unfold State.putStream
    dsimp only
    rw [State.link_setLink_same, State.link_setLink_same]
    exact ⟨rfl, fun h => absurd h Bool.noConfusion⟩
  | false =>
    simp only [Bool.false_eq_true, if_false]
    rw [State.link_setLink_same]
    exact ⟨rfl, fun _ => rfl⟩

theorem State.lastSb_clearNaks (s : State) (e : LinkEnd) (g : Nat) : ((s.clearNaks e g).link e).lastSb = (s.link e).lastSb := by
  unfold State.clearNaks
  refine List.foldlRecOn (motive := fun v : State => (v.link e).lastSb = (s.link e).lastSb) _ _ rfl fun v hv i _ => ?_
  dsimp only
  split
  · unfold State.setBun
    rw [State.link_setLink_same]
    exact hv
  · exact hv

theorem State.nak_clearNaks (s : State) (e : LinkEnd) {b : Nat} (small : b < 8) (has : b < nBundles e) :
    ((s.clearNaks e 0).bun e b).nak = false := by
  unfold State.clearNaks
  refine foldl_does (P := fun b v => b < nBundles e → (v.bun e b).nak = false) (fun v i hi => ?_) (fun v i j hj hlt => ?_) _ s
    (.inr (List.mem_range.mpr small)) has
  · rw [Nat.mul_zero, Nat.zero_add, if_pos hi, State.bun_setBun_same]
  · rw [Nat.mul_zero, Nat.zero_add]
    split
    · by_cases same : j = i
      · rw [same, State.bun_setBun_same]
      · rw [State.bun_setBun_ne _ _ _ same]
        exact hj hlt
    · exact hj hlt

/-- The beat of a slot that is not the first of its frame, as the transmitter reads it. -/
theorem sidebandSlot_at {k : Nat} (first : k ≠ 0) : (64 * k == 0) = false ∧ (64 * k % 64 != 0) = false ∧ 64 * k / 64 = k := by
  refine ⟨beq_false_of_ne (by omega), ?_, Nat.mul_div_cancel_left k (by decide)⟩
  rw [Nat.mul_mod_right]; rfl

section
variable {e : LinkEnd} {k : Nat} (up : s.sbUp e = true) (mode : s.linkMode e < 2) (at_ : s.beat (leDie e) % frameBeats = 64 * k)
include up mode at_

theorem does_sidebandSlotTransmit_ack (slot : k % 4 = 2) : Does (.sidebandSlotTransmit e) s fun t =>
    (t.link e).lastSb = 1 + s.ucAckBody e 0 ∧ ∀ b < 8, b < nBundles e → (t.bun e b).nak = false := by
  refine .intro (t := (s.sendBox e k (1 + s.ucAckBody e 0)).clearNaks e 0) ?_
    ⟨(State.lastSb_clearNaks ..).trans (s.link_sendBox ..).1, fun b small has => State.nak_clearNaks _ e small has⟩
  obtain ⟨later, whole, number⟩ := sidebandSlot_at (k := k) (by rintro rfl; exact absurd slot (by decide))
  show execSidebandSlotTransmit e s = _
  simp only [execSidebandSlotTransmit, at_, later, up, whole, number, slot, decide_eq_false (Nat.not_le.mpr mode), Bool.not_true,
    Bool.or_self, Bool.false_eq_true, if_false, beq_self_eq_true, if_true]

theorem does_sidebandSlotTransmit_credit (slot : k % 4 = 3) (notFp : isFp e = false) : Does (.sidebandSlotTransmit e) s fun t =>
    (t.link e).lastSb = 2 + (s.link e).creditBody := by
  refine .intro (t := s.sendBox e k (2 + (s.link e).creditBody)) ?_ (s.link_sendBox ..).1
  obtain ⟨later, whole, number⟩ := sidebandSlot_at (k := k) (by rintro rfl; exact absurd slot (by decide))
  show execSidebandSlotTransmit e s = _
  simp only [execSidebandSlotTransmit, at_, later, up, whole, number, slot, notFp, decide_eq_false (Nat.not_le.mpr mode), Bool.not_true,
    Bool.or_self, Bool.false_eq_true, if_false, show (3 == 2) = false from rfl, beq_self_eq_true, if_true]

theorem does_sidebandSlotTransmit_idle (first : k ≠ 0) (slot : k % 4 < 2) (empty : (s.link e).q = []) (want : (s.link e).ptrWant = 0)
    (owe : (s.link e).ptrOwe = 0) : Does (.sidebandSlotTransmit e) s fun t =>
    (t.link e).lastSb = 0 ∧ (isTray e = false → (t.link e).lastSeg = sidebandSeg k 0) := by
  have still : s.ptrDue e = s := by
    unfold State.ptrDue
    simp only [want, owe, bne_self_eq_false, Bool.false_and, Bool.false_eq_true, if_false]
  have none_ : sbPick [] k = none := by
    unfold sbPick
    refine List.findSome?_eq_none_iff.mpr fun p _ => rfl
  refine .intro (t := s.sendBox e k 0) ?_ (s.link_sendBox ..)
  obtain ⟨later, whole, number⟩ := sidebandSlot_at first
  show execSidebandSlotTransmit e s = _
  simp only [execSidebandSlotTransmit, at_, later, up, whole, number, beq_false_of_ne (show k % 4 ≠ 2 by omega),
    beq_false_of_ne (show k % 4 ≠ 3 by omega), decide_eq_false (Nat.not_le.mpr mode), Bool.not_true, Bool.or_self, Bool.false_eq_true,
    if_false, still, empty, none_]

end

theorem does_sidebandSlotTransmit_markers {d : Die} {sl : Fin 4} (start : s.beat d % frameBeats = 0) (from_ : stLanetest ≤ s.lst (.ikl d sl))
    (to_ : s.lst (.ikl d sl) ≤ stDegraded) (mode : s.linkMode (.ikl d sl) < 2) (fresh : s.staleAt d 1 Blk.ikl.code sl.val = false) :
    Does (.sidebandSlotTransmit (.ikl d sl)) s fun t => ∀ b, b < nBundles (.ikl d sl) → s.retired (.ikl d sl) b = false →
      (t.link (.ikl d sl)).marks.getD b 0 = s.txMarker (.ikl d sl) b := by
  have sends : s.sendsMarkers (.ikl d sl) = true := by
    have notStale : s.staleAt (leDie (.ikl d sl)) 1 (leBlk (.ikl d sl)).code (leInst (.ikl d sl)) = false := fresh
    unfold State.sendsMarkers
    rw [decide_eq_true (And.intro from_ to_), decide_eq_true mode, notStale, Bool.and_false]
    exact Bool.true_or _
  refine .intro (t := s.sendMarkers (.ikl d sl)) ?_ fun b has on => ?_
  · show execSidebandSlotTransmit (.ikl d sl) s = _
    simp only [execSidebandSlotTransmit, leDie, start, beq_self_eq_true, if_true]
  · unfold State.sendMarkers
    rw [if_pos sends, State.link_setLink_same]
    simp only [isTray, Bool.false_eq_true, if_false]
    rw [List.getD_eq_getElem _ _ (by rw [List.length_map, List.length_range]; exact has), List.getElem_map, List.getElem_range, on,
      if_neg Bool.false_ne_true]

/-! ### Messages that are acknowledged -/

theorem State.unacked_setBun (s : State) (e : LinkEnd) (b : Nat) (x : BundleSt) :
    ((s.setBun e b x).link e).unacked = (s.link e).unacked := by
  unfold State.setBun
  rw [State.link_setLink_same]
  rfl

/-- What an acknowledgement sets off leaves the other messages. -/
theorem State.unacked_ackEffect (s : State) (e : LinkEnd) (m : SbMsg) : ((s.ackEffect e m).link e).unacked = (s.link e).unacked := by
  unfold State.ackEffect
  dsimp only
  split
  · exact State.unacked_setBun ..
  · exact State.unacked_setBun ..
  · unfold State.stopNext
    dsimp only
    split
    · rfl
    · exact State.unacked_setBun ..
  · exact State.unacked_setBun ..
  · rfl

theorem does_sbAck {e : LinkEnd} {r : SbSlot} {box : Nat} {u : State} (takes : s.sbTakes e r 0x03 = (some box, u)) :
    Does (.sbAck e r) s fun t => ∀ x ∈ (t.link e).unacked, ¬(x.mtype = bitsOf box 6 6 ∧ x.mseq = bitsOf box 12 8) := by
  have names (m : SbMsg) : (m.mtype == bitsOf box 6 6 && m.mseq == bitsOf box 12 8) = true ↔
      m.mtype = bitsOf box 6 6 ∧ m.mseq = bitsOf box 12 8 := by simp
  unfold Does
  show ∃ t, execSbAck e r s = .next t ∧ _
  simp only [execSbAck, takes]
  cases found : (u.link e).unacked.find? fun m => m.mtype == bitsOf box 6 6 && m.mseq == bitsOf box 12 8 with
  | none => exact ⟨u, rfl, fun x hx h => List.find?_eq_none.mp found x hx ((names x).mpr h)⟩
  | some m =>
    refine ⟨_, rfl, fun x hx h => ?_⟩
    rw [State.unacked_ackEffect, State.link_setLink_same] at hx
    have other := (List.mem_filter.mp hx).2
    rw [(names x).mpr h] at other
    exact Bool.false_ne_true other

theorem does_sbMessageRepeat (e : LinkEnd) (s : State) : Does (.sbMessageRepeat e) s fun t =>
    ∀ m ∈ (s.link e).unacked, m.last + frameBeats ≤ s.time → s.time < m.first - 1 + turnBeats →
      { m with copies := 1 } ∈ (t.link e).q := by
  refine .intro (t := _) rfl fun m hm late early => ?_
  have counted : ∀ (l : List SbMsg) (v : State), Only (Field.but .links) v
      (l.foldl (fun t _ => t.bumpLf e Reg.IKL_LL_ERR_SB_REPEAT Reg.TRYP_LL_ERR_SB_REPEAT) v) := fun l v =>
    Only.foldl _ (fun _ _ g => g.bumpLf (hp := Allow.but (by decide)) ..) (Only.refl v)
  rw [State.link_of_same (counted ..).kept, State.link_setLink_same]
  exact List.mem_append_right _ (List.mem_map_of_mem (f := fun m : SbMsg => { m with copies := 1 })
    (List.mem_filter.mpr ⟨hm, decide_eq_true ⟨late, early⟩⟩))

/-! ### A message that stays without its acknowledgement -/

theorem exec_sbAckTimeout_late {e : LinkEnd} {m : SbMsg} (mem : m ∈ (s.link e).unacked) (late : m.first - 1 + turnBeats ≤ s.time) :
    exec (.sbAckTimeout e) s = .next (s.linkReturn e 0x3009 true) := by
  have some_ : (s.link e).unacked.any (fun m => decide (m.first - 1 + turnBeats ≤ s.time)) = true :=
    List.any_eq_true.mpr ⟨m, mem, decide_eq_true late⟩
  show execSbAckTimeout e s = _
  rw [execSbAckTimeout, if_pos some_]

theorem State.returning_sbSend (s : State) (e e' : LinkEnd) (mtype body : Nat) :
    ((s.sbSend e' mtype body).link e).returning = (s.link e).returning := by
  unfold State.sbSend
  dsimp only
  by_cases same : e = e'
  · subst same
    split <;> rw [State.link_setLink_same]
  · split <;> rw [State.link_setLink_ne _ _ same]

theorem State.returning_askFpReset (s : State) (e : LinkEnd) (m : Mv) (f : Nat) :
    ((s.askFpReset m f).link e).returning = (s.link e).returning := by
  unfold State.askFpReset
  dsimp only
  split
  · exact State.returning_sbSend ..
  · generalize (if (f == m.val) = true then LinkEnd.ikl (Die.mv m) 1 else LinkEnd.ikl (Die.mv m) 0) = other
    split
    · exact State.returning_sbSend ..
    · rfl

theorem LinkSt.returning_retrain (l : LinkSt) (n : Nat) : (l.retrain n).returning = l.returning :=
  List.foldlRecOn (motive := fun x : LinkSt => x.returning = l.returning) (List.range n) _ rfl fun _ h _ _ => h

/-- An Ikiper link end with attempts left begins anew in `RESET`. -/
theorem State.linkReturn_ikl {d : Die} {sl : Fin 4} {rc : Nat} (why : rc ≠ 0)
    (few : s.getF d .ikl sl.val Reg.IKL_LL_STATUS_ATTEMPTS + 1 < s.trainMax (.ikl d sl))
    (alive : (s.endService (.ikl d sl)).lst (.ikl d sl) ≠ stRetired) :
    (s.linkReturn (.ikl d sl) rc true).lst (.ikl d sl) = stReset ∧
      ((s.linkReturn (.ikl d sl) rc true).link (.ikl d sl)).returning = ((s.endService (.ikl d sl)).link (.ikl d sl)).returning := by
  obtain ⟨u, hu⟩ : ∃ u, u = s.endService (.ikl d sl) := ⟨_, rfl⟩
  obtain ⟨l, hl⟩ : ∃ l, l = (u.link (.ikl d sl)).retrain (nBundles (.ikl d sl) + if isTray (.ikl d sl) then 24 else 0) := ⟨_, rfl⟩
  obtain ⟨v, hv⟩ : ∃ v, v = (u.setLink (.ikl d sl) l).logLink (.ikl d sl) rc := ⟨_, rfl⟩
  obtain ⟨w, hw⟩ : ∃ w, w = v.bumpF d .ikl (leInst (.ikl d sl)) Reg.IKL_LL_STATUS_ATTEMPTS := ⟨_, rfl⟩
  have ended : Only (Field.but (.ofReg .ikl Reg.IKL_LL_STATUS_ATTEMPTS)) s v := by
    rw [hv, hu]
    exact (((Only.refl s).endService (hg0 := Allow.but (by decide)) (hg1 := Allow.but (by decide)) (hg2 := Allow.but (by decide))
      (hg3 := Allow.but (by decide)) (hp := Allow.but (by decide)) ..).setLink (hp := Allow.but (by decide)) ..).logLink
        (hg0 := Allow.but (by decide)) (hp := Allow.but (by decide)) ..
  have left_ : decide (s.trainMax (.ikl d sl) ≤ w.getF d .ikl (leInst (.ikl d sl)) Reg.IKL_LL_STATUS_ATTEMPTS) = false := by
    refine decide_eq_false (Nat.not_le.mpr (lt_of_le_of_lt ?_ few))
    rw [hw, State.getF_bumpF_same, Field.getF_of_same ended.kept]
    exact Nat.min_le_left ..
  have link : w.link (.ikl d sl) = l := by
    have logged : Only (Field.but .links) (u.setLink (.ikl d sl) l) w := by
      rw [hw, hv]
      exact ((Only.refl _).logLink (hg0 := Allow.but (by decide)) (hp := Allow.but (by decide)) ..).bumpF (hp := Allow.but (by decide)) ..
    rw [State.link_of_same logged.kept, State.link_setLink_same]
  have kept : l.returning = (u.link (.ikl d sl)).returning := hl ▸ LinkSt.returning_retrain ..
  have alive' : (u.lst (.ikl d sl) == stRetired) = false := beq_false_of_ne (hu ▸ alive)
  rw [← hu]
  unfold State.linkReturn
  simp only [← hu, ← hl, ← hv, ← hw, beq_false_of_ne why, left_, alive', Bool.true_and, Bool.false_eq_true, if_false, if_true]
  refine ⟨State.lst_toSt _ _ _ (by decide), ?_⟩
  rw [State.toSt_link, ← kept, ← link]
  cases d with
  | cr c => rfl
  | mv m =>
    dsimp only
    split
    · exact State.returning_askFpReset ..
    · rfl

theorem State.endService_idle {e : LinkEnd} (idle : s.inService e = false) : s.endService e = s := by
  unfold State.endService
  rw [idle]; rfl

theorem does_sbAckTimeout_idle {d : Die} {sl : Fin 4} {m : SbMsg} (mem : m ∈ (s.link (.ikl d sl)).unacked)
    (late : m.first - 1 + turnBeats ≤ s.time) (few : s.getF d .ikl sl.val Reg.IKL_LL_STATUS_ATTEMPTS + 1 < s.trainMax (.ikl d sl))
    (idle : s.inService (.ikl d sl) = false) (alive : s.lst (.ikl d sl) ≠ stRetired) :
    Does (.sbAckTimeout (.ikl d sl)) s fun t => t.lst (.ikl d sl) = stReset := by
  exact .intro (exec_sbAckTimeout_late mem late) (State.linkReturn_ikl (by decide) few ((State.endService_idle idle).symm ▸ alive)).1

theorem LinkSt.returning_leaveService (l : LinkSt) (n : Nat) : (l.leaveService n).returning = true :=
  List.foldlRecOn (motive := fun x : LinkSt => x.returning = true) (List.range n) _ rfl fun _ h _ _ => h

/-- An end in service whose bundles all stay leaves service and is to return. -/
theorem State.endService_whole {e : LinkEnd} (service : s.inService e = true) (whole : ∀ b < nBundles e, (s.bun e b).dying = false) :
    s.endService e = s.setLink e ((s.link e).leaveService (nBundles e)) := by
  have none_ : ((List.range (nBundles e)).filter fun b => (s.bun e b).dying) = [] :=
    List.filter_eq_nil_iff.mpr fun b hb => by rw [whole b (List.mem_range.mp hb)]; exact Bool.false_ne_true
  unfold State.endService
  rw [service, none_]
  rfl

theorem nBundles_le (e : LinkEnd) : nBundles e ≤ 16 := by
  unfold nBundles
  split
  · decide
  · split <;> decide

theorem does_sbAckTimeout_service {d : Die} {sl : Fin 4} {m : SbMsg} (mem : m ∈ (s.link (.ikl d sl)).unacked)
    (late : m.first - 1 + turnBeats ≤ s.time) (few : s.getF d .ikl sl.val Reg.IKL_LL_STATUS_ATTEMPTS + 1 < s.trainMax (.ikl d sl))
    (service : s.inService (.ikl d sl) = true) (whole : ∀ b < 16, (s.bun (.ikl d sl) b).dying = false) :
    Does (.sbAckTimeout (.ikl d sl)) s fun t => t.lst (.ikl d sl) = stReset ∧ (t.link (.ikl d sl)).returning = true := by
  have ended := State.endService_whole service fun b hb => whole b (Nat.lt_of_lt_of_le hb (nBundles_le _))
  have alive : (s.endService (.ikl d sl)).lst (.ikl d sl) ≠ stRetired := by
    rw [ended]
    intro retired
    have still : s.lst (.ikl d sl) = stRetired := retired
    unfold State.inService at service
    rw [still] at service
    exact absurd service (by decide)
  obtain ⟨state, returns⟩ := State.linkReturn_ikl (rc := 0x3009) (by decide) few alive
  refine .intro (exec_sbAckTimeout_late mem late) ⟨state, ?_⟩
  rw [returns, ended, State.link_setLink_same]
  exact LinkSt.returning_leaveService ..

/-- A tray port whose link returns listens for its partner. -/
theorem State.lst_linkReturn_tray (s : State) (n : Fin 8) (rc : Nat) (counted : Bool) :
    (s.linkReturn (.tray n) rc counted).lst (.tray n) = stListen := by
  unfold State.linkReturn
  dsimp only
  generalize hv : State.toSt _ _ stListen = v
  have state : v.lst (.tray n) = stListen := hv ▸ State.lst_toSt _ _ _ (by decide)
  split
  · rw [← state]
    exact State.lst_of_same ((Only.refl v).declareTrayLoss (hp := Allow.outside (by decide)) ..) _
  · exact state

theorem does_sbAckTimeout_tray {n : Fin 8} {m : SbMsg} (mem : m ∈ (s.link (.tray n)).unacked) (late : m.first - 1 + turnBeats ≤ s.time) :
    Does (.sbAckTimeout (.tray n)) s fun t => t.lst (.tray n) = stListen :=
  .intro (exec_sbAckTimeout_late mem late) (s.lst_linkReturn_tray ..)

/-- Settles O9, one lemma for each clause. -/
theorem sidebandCommandsComplete : Obligations.SidebandCommandsComplete :=
  ⟨fun _ _ _ _ _ due got nop => does_sidebandContainer_nop due got nop,
    fun _ _ _ _ _ due got map => does_sidebandContainer_map0 due got map,
    fun _ _ _ _ _ due got map => does_sidebandContainer_map1 due got map,
    fun _ _ _ _ _ _ due got beats combined => does_sidebandContainer_heartbeat due got beats combined,
    fun _ _ _ _ _ _ due got budget grants mine fresh => does_sidebandContainer_grant due got budget grants mine fresh,
    fun _ _ _ up mode at_ slot => does_sidebandSlotTransmit_ack up mode at_ slot,
    fun _ _ _ up mode at_ slot notFp => does_sidebandSlotTransmit_credit up mode at_ slot notFp,
    fun _ _ _ up mode at_ first slot empty want owe => does_sidebandSlotTransmit_idle up mode at_ first slot empty want owe,
    fun _ _ _ start from_ to_ mode fresh => does_sidebandSlotTransmit_markers start from_ to_ mode fresh,
    fun _ _ _ _ _ takes => does_sbAck takes,
    fun e s => does_sbMessageRepeat e s,
    fun _ _ _ _ mem late few idle alive => does_sbAckTimeout_idle mem late few idle alive,
    fun _ _ _ _ mem late few service whole => does_sbAckTimeout_service mem late few service whole,
    fun _ _ _ mem late => does_sbAckTimeout_tray mem late⟩

end Sys2Proof.Machine
end

section
/-! Unscheduled traffic (R134 to R142, R167 to R169, R506). -/

namespace Sys2Proof.Machine

variable {s t z : State}

/-! ### A flit passed on -/

theorem State.link_sbSend (s : State) (e : LinkEnd) (mtype body aux copies : Nat) :
    ∃ q n, (s.sbSend e mtype body aux copies).link e = { s.link e with q := q, mseq := n } := by
  unfold State.sbSend
  dsimp only
  split <;> exact ⟨_, _, s.link_setLink_same ..⟩

/-- A credit returned leaves the bundles and what was received last. -/
theorem State.link_returnCredit (s : State) (e : LinkEnd) (chan : Nat) :
    ((s.returnCredit e chan).link e).bundles = (s.link e).bundles ∧ ((s.returnCredit e chan).link e).lastRx = (s.link e).lastRx := by
  obtain ⟨u, hu⟩ : ∃ u, u = s.setLink e { s.link e with
    passed := Tab.set 0 (s.link e).passed chan ((Tab.get 0 (s.link e).passed chan + 1) % 65536) } := ⟨_, rfl⟩
  have link : (u.link e).bundles = (s.link e).bundles ∧ (u.link e).lastRx = (s.link e).lastRx := by
    rw [hu, State.link_setLink_same]
    exact ⟨rfl, rfl⟩
  unfold State.returnCredit
  simp only [← hu]
  unfold State.creditChanged
  split
  · obtain ⟨q, n, sent⟩ := u.link_sbSend e 0x02 0 0 1
    rw [sent]
    exact link
  · exact link

/-- An accepted flit is the last one received, and leaves the bundles. -/
theorem State.link_passFlit (s : State) (e : LinkEnd) (b : Nat) (f : UcFlit) :
    ((s.passFlit e b f).link e).bundles = (s.link e).bundles ∧ ((s.passFlit e b f).link e).lastRx = some f := by
  unfold State.passFlit
  dsimp only
  split
  · rw [State.link_setLink_same]
    exact ⟨rfl, rfl⟩
  · generalize (if f.som = true then s.msgRoute e b f else _) = way
    obtain ⟨dst, sel, via⟩ := way
    dsimp only
    generalize hu : s.setLink e _ = u
    have link : (u.link e).bundles = (s.link e).bundles ∧ (u.link e).lastRx = some f := by
      rw [← hu, State.link_setLink_same]
      exact ⟨rfl, rfl⟩
    split
    · by_cases same : e = leOfCode (dst - 1)
      · rw [← same, State.link_setLink_same]
        exact link
      · rw [State.link_setLink_ne _ _ same]
        exact link
    · obtain ⟨bundles, last⟩ := u.link_returnCredit e f.chan
      exact ⟨bundles.trans link.1, last.trans link.2⟩

theorem State.bun_of_bundles {e : LinkEnd} (h : (t.link e).bundles = (s.link e).bundles) (b : Nat) : t.bun e b = s.bun e b := by
  unfold State.bun LinkSt.bundle
  rw [h]

/-! ### Flits in unscheduled slots -/

section
variable {e : LinkEnd} {b : Fin 16} {lanes : List Nat} {slot frame : Nat} {u : State} (arrived : s.latL e ≤ s.beat (leDie e))
  (at_ : slotAtBeat e ((s.beat (leDie e) - s.latL e) % frameBeats) = some slot)
  (hf : frame = (s.beat (leDie e) - s.latL e) / frameBeats) (service : s.inService e = true) (runs : s.rxStopped e b = false)
  (has : b.val < nBundles e)
include arrived at_ hf service runs has

/-- A delivered slot of a mark other than CAL is decoded, and the flit goes where the mark says. -/
theorem exec_flitReceive {got : Option (Nat × List Byte)} {m : Mark} (mark : s.markOf e 1 b slot frame = m) (noNone : m ≠ .none)
    (noCal : m ≠ .cal) (decoded : s.decodeFlit e b slot frame lanes = (got, u)) :
    exec (.flitReceive e b lanes) s = .next (u.takeSlotFlit e b slot frame m got) := by
  have go : (decide (s.beat (leDie e) < s.latL e) || !s.inService e || s.rxStopped e b || !decide (b.val < nBundles e)) = false := by
    rw [decide_eq_false (Nat.not_lt.mpr arrived), service, runs, decide_eq_true has]; rfl
  show execFlitReceive e b lanes s = _
  simp only [execFlitReceive, at_, go, Bool.false_eq_true, if_false, ← hf, mark]
  cases m with
  | none => exact absurd rfl noNone
  | cal => exact absurd rfl noCal
  | nop => simp only [decoded]
  | uc => simp only [decoded]
  | repair => simp only [decoded]
  | sc tag => simp only [decoded]

theorem exec_flitReceive_uc {got : Option (Nat × List Byte)} (mark : s.markOf e 1 b slot frame = .uc ∨ s.markOf e 1 b slot frame = .repair)
    (decoded : s.decodeFlit e b slot frame lanes = (got, u)) (good : badClass got = false) :
    ∃ repair, exec (.flitReceive e b lanes) s = .next (u.takeUcSlot e b repair got) := by
  rcases mark with mark | mark
  · refine ⟨false, (exec_flitReceive arrived at_ hf service runs has mark (by simp) (by simp) decoded).trans ?_⟩
    unfold State.takeSlotFlit
    rw [good]
    rfl
  · refine ⟨true, (exec_flitReceive arrived at_ hf service runs has mark (by simp) (by simp) decoded).trans ?_⟩
    unfold State.takeSlotFlit
    rw [good]
    rfl

theorem does_flitReceive_uc {header : Nat} {p : List Byte} (mark : s.markOf e 1 b slot frame = .uc ∨ s.markOf e 1 b slot frame = .repair)
    (decoded : s.decodeFlit e b slot frame lanes = (some (header, p), u)) (cls : header % 4 = 2)
    (next_ : bitsOf header 7 9 = (u.bun e b).es) :
    Does (.flitReceive e b lanes) s fun t => (t.bun e b).es = ((u.bun e b).es + 1) % 512 ∧
      (t.link e).lastRx = some ⟨bitsOf header 2 2, bit header 4, bit header 5, 0, p, 0⟩ := by
  have good : badClass (some (header, p)) = false := by
    show (header % 4 == 3) = false
    rw [cls]; rfl
  obtain ⟨repair, run⟩ := exec_flitReceive_uc arrived at_ hf service runs has mark decoded good
  obtain ⟨v, hv⟩ : ∃ v, v = u.setBun e b { u.bun e b with es := ((u.bun e b).es + 1) % 512, drop := false } := ⟨_, rfl⟩
  obtain ⟨f, hf⟩ : ∃ f : UcFlit, f = ⟨bitsOf header 2 2, bit header 4, bit header 5, 0, p, 0⟩ := ⟨_, rfl⟩
  have taken : u.takeUcSlot e b repair (some (header, p)) = v.passFlit e b f := by
    unfold State.takeUcSlot
    simp only [cls]
    unfold State.takeUc
    simp only [next_, beq_self_eq_true, if_true, ← hv, ← hf]
  obtain ⟨bundles, last⟩ := v.link_passFlit e b f
  refine .intro (run.trans (congrArg _ taken)) ⟨?_, last.trans (congrArg _ hf)⟩
  rw [State.bun_of_bundles bundles, hv, State.bun_setBun_same]

theorem does_flitReceive_bad (mark : s.markOf e 1 b slot frame = .uc ∨ s.markOf e 1 b slot frame = .repair)
    (decoded : s.decodeFlit e b slot frame lanes = (none, u)) :
    Does (.flitReceive e b lanes) s fun t => (t.bun e b).nak = true ∧ (t.bun e b).drop = true ∧ (t.bun e b).es = (u.bun e b).es := by
  obtain ⟨repair, run⟩ := exec_flitReceive_uc arrived at_ hf service runs has mark decoded rfl
  refine .intro (t := u.nakUc e b) run ?_
  unfold State.nakUc
  rw [State.bun_setBun_same]
  exact ⟨rfl, rfl, rfl⟩

end

/-! ### Acknowledgements, credits and replay -/

/-- A replay leaves what waits for its acknowledgement, and every other bundle. -/
theorem State.bun_startReplay (s : State) (e : LinkEnd) (b c : Nat) (timeout : Bool) : (s.startReplay e b timeout).bun e c =
    if c = b then { s.bun e b with replayQ := (s.bun e b).unacked.map (·.seq) } else s.bun e c := by
  obtain ⟨u, hu⟩ : ∃ u, u = s.setBun e b { s.bun e b with replayQ := (s.bun e b).unacked.map (·.seq) } := ⟨_, rfl⟩
  have counted : Only (Field.but .links) u (s.startReplay e b timeout) := by
    unfold State.startReplay
    simp only [← hu]
    exact Only.ite (((Only.refl u).bumpLf (hp := Allow.but (by decide)) ..).bumpLf (hp := Allow.but (by decide)) ..)
      ((Only.refl u).bumpLf (hp := Allow.but (by decide)) ..)
  have link : (s.startReplay e b timeout).link e = u.link e := State.link_of_same counted.kept e
  rw [State.bun_of_bundles (congrArg LinkSt.bundles link), hu]
  by_cases same : c = b
  · rw [if_pos same, same]
    exact State.bun_setBun_same ..
  · rw [if_neg same]
    exact State.bun_setBun_ne _ _ _ same

theorem State.bun_takeAckOf_ne (s : State) (e : LinkEnd) {b c ack : Nat} (valid nak : Bool) (h : c ≠ b) :
    (s.takeAckOf e b ack valid nak).bun e c = s.bun e c := by
  unfold State.takeAckOf
  split
  · rfl
  · split
    · unfold State.takeAck
      split
      · rfl
      · dsimp only
        split
        · rw [State.bun_startReplay, if_neg h, State.bun_setBun_ne _ _ _ h]
        · exact State.bun_setBun_ne _ _ _ h
    · split
      · exact State.bun_setBun_ne _ _ _ h
      · rfl

theorem State.unacked_takeAckOf {e : LinkEnd} {b ack es : Nat} {y : BundleSt} (nak : Bool) (has : b < nBundles e)
    (acked : (s.bun e b).acked ack = some (es, y)) : ((s.takeAckOf e b ack true nak).bun e b).unacked = y.unacked := by
  unfold State.takeAckOf
  rw [if_neg (Nat.not_le.mpr has), if_pos rfl]
  unfold State.takeAck
  simp only [acked]
  split
  · rw [State.bun_startReplay, if_pos rfl, State.bun_setBun_same]
  · rw [State.bun_setBun_same]

/-- An acknowledgement frees in each bundle of its group what it names there. -/
theorem State.unacked_foldl_takeAckOf {e : LinkEnd} {box i g es : Nat} {y : BundleSt} (has : 8 * g + i < nBundles e)
    (valid : bit box (72 + i) = true) (l : List Nat) (v : State) (apart : l.Nodup)
    (acked : (v.bun e (8 * g + i)).acked (bitsOf box (8 + 8 * i) 8) = some (es, y)) (mem : i ∈ l) :
    ((l.foldl (fun (u : State) i => u.takeAckOf e (8 * g + i) (bitsOf box (8 + 8 * i) 8) (bit box (72 + i)) (bit box (80 + i)))
      v).bun e (8 * g + i)).unacked = y.unacked := by
  induction l generalizing v with
  | nil => exact absurd mem List.not_mem_nil
  | cons j l ih =>
    obtain ⟨new, rest⟩ := List.nodup_cons.mp apart
    rw [List.foldl_cons]
    by_cases same : i = j
    · subst same
      refine List.foldlRecOn (motive := fun w : State => (w.bun e (8 * g + i)).unacked = y.unacked) l _ ?_ fun w hw k hk => ?_
      · rw [valid]
        exact State.unacked_takeAckOf _ has acked
      · have other : 8 * g + i ≠ 8 * g + k := fun x => new (Nat.add_left_cancel x ▸ hk)
        rw [State.bun_takeAckOf_ne _ _ _ _ other, hw]
    · have other : 8 * g + i ≠ 8 * g + j := fun x => same (Nat.add_left_cancel x)
      refine ih _ rest ?_ ((List.mem_cons.mp mem).resolve_left same)
      rw [State.bun_takeAckOf_ne _ _ _ _ other]
      exact acked

theorem does_ucAck {e : LinkEnd} {r : SbSlot} {box i b es : Nat} {y : BundleSt} {u : State} (takes : s.sbTakes e r 0x01 = (some box, u))
    (small : i < 8) (at_ : b = 8 * bitsOf box 6 1 + i) (has : b < nBundles e) (valid : bit box (72 + i) = true)
    (acked : (u.bun e b).acked (bitsOf box (8 + 8 * i) 8) = some (es, y)) :
    Does (.ucAck e r) s fun t => (t.bun e b).unacked = y.unacked := by
  refine .intro (t := _) ?_ (State.unacked_foldl_takeAckOf (at_ ▸ has) valid (List.range 8) u List.nodup_range (at_ ▸ acked)
    (List.mem_range.mpr small) |> fun h => at_ ▸ h)
  show execUcAck e r s = _
  simp only [execUcAck, takes]

theorem get_foldl_set {f : Nat → Nat} {c : Nat} : ∀ (l : List Nat) (v : Tab Nat), c ∈ l →
    Tab.get 0 (l.foldl (fun (v : Tab Nat) c => Tab.set 0 v c (f c)) v) c = f c
  | [], _, h => absurd h List.not_mem_nil
  | a :: l, v, h => by
    rw [List.foldl_cons]
    by_cases mem : c ∈ l
    · exact get_foldl_set l _ mem
    · have same : c = a := (List.mem_cons.mp h).resolve_right mem
      refine List.foldlRecOn (motive := fun v : Tab Nat => Tab.get 0 v c = f c) l _ (same ▸ Tab.get_set_same ..) fun v hv x hx => ?_
      exact (Tab.get_set_ne _ _ fun (e : c = x) => mem (e ▸ hx)).trans hv

theorem does_credit {e : LinkEnd} {r : SbSlot} {box : Nat} {u : State} (takes : s.sbTakes e r 0x02 = (some box, u)) :
    Does (.credit e r) s fun t => ∀ c < 4, Tab.get 0 (t.link e).reported c = bitsOf box (6 + 16 * c) 16 := by
  refine .intro (t := u.setLink e { u.link e with
    reported := (List.range 4).foldl (fun (v : Tab Nat) c => Tab.set 0 v c (bitsOf box (6 + 16 * c) 16)) (u.link e).reported }) ?_
    fun c small => ?_
  · show execCredit e r s = _
    simp only [execCredit, takes]
  · rw [State.link_setLink_same]
    exact get_foldl_set _ _ (List.mem_range.mpr small)

theorem does_ucReplayTimeout {e : LinkEnd} {b : Fin 16} {x : TxUc} (service : s.inService e = true) (mem : x ∈ (s.bun e b).unacked)
    (late : x.slotAt + s.ucTimeout e ≤ s.ucClock) (idle : (s.bun e b).replayQ = []) (sends : b.val ∈ s.sending e) :
    Does (.ucReplayTimeout e b) s fun t => (t.bun e b).replayQ = (s.bun e b).unacked.map TxUc.seq := by
  have some_ : ((s.bun e b).unacked.any fun u => decide (u.slotAt + s.ucTimeout e ≤ s.ucClock)) = true :=
    List.any_eq_true.mpr ⟨x, mem, decide_eq_true late⟩
  refine .intro (t := s.startReplay e b true) ?_ ?_
  · show execUcReplayTimeout e b s = _
    simp only [execUcReplayTimeout, service, some_, idle, decide_eq_true sends, beq_self_eq_true, Bool.and_self, if_true]
  · rw [State.bun_startReplay, if_pos rfl]

theorem does_ucRequeue {e : LinkEnd} (busy : s.lf e Reg.IKL_LL_STATUS_UC_QUIESCE Reg.TRYP_LL_STATUS_UC_QUIESCE = 1)
    (drained : ∀ b ∈ s.serving e, (s.bun e b).unacked = []) (known : ∀ b ∈ (s.link e).leaving, (s.bun e b).txFinal = true) :
    Does (.ucRequeue e) s fun t => (t.link e).leaving = [] ∧
      (t.link e).requeue = (s.link e).requeue ++ ((s.link e).leaving.map fun b => (s.bun e b).unacked.map (·.flit)).flatten := by
  have drained' : ((s.serving e).all fun b => ((s.link e).bundle b).unacked == []) = true :=
    List.all_eq_true.mpr fun b hb => beq_iff_eq.mpr (drained b hb)
  have known' : ((s.link e).leaving.all fun b => ((s.link e).bundle b).txFinal) = true := List.all_eq_true.mpr known
  obtain ⟨l, hl⟩ : ∃ l, l = (s.link e).leaving.foldl (fun (m : LinkSt) b => m.setBundle b (m.bundle b).requeued) (s.link e) := ⟨_, rfl⟩
  have same : l.requeue = (s.link e).requeue := hl ▸
    List.foldlRecOn (motive := fun x : LinkSt => x.requeue = (s.link e).requeue) (s.link e).leaving _ rfl fun _ h _ _ => h
  obtain ⟨u, hu⟩ : ∃ u, u = s.setLink e { l with
    leaving := [], requeue := l.requeue ++ ((s.link e).leaving.map fun b => ((s.link e).bundle b).unacked.map (·.flit)).flatten } :=
    ⟨_, rfl⟩
  refine .intro (t := u.setLf e Reg.IKL_LL_STATUS_UC_QUIESCE Reg.TRYP_LL_STATUS_UC_QUIESCE 0) ?_ ?_
  · show execUcRequeue e s = _
    simp only [execUcRequeue, busy, drained', known', beq_self_eq_true, Bool.and_self, if_true, ← hl, ← hu]
  · rw [State.setLf, State.setF_link, hu, State.link_setLink_same]
    exact ⟨rfl, by rw [same]; rfl⟩

/-- Settles O11, one lemma for each clause. -/
theorem unscheduledTrafficComplete : Obligations.UnscheduledTrafficComplete :=
  ⟨fun _ _ _ _ _ _ _ _ _ arrived at_ hf service runs has mark decoded cls next_ =>
      does_flitReceive_uc arrived at_ hf service runs has mark decoded cls next_,
    fun _ _ _ _ _ _ _ arrived at_ hf service runs has mark decoded => does_flitReceive_bad arrived at_ hf service runs has mark decoded,
    fun _ _ _ _ _ _ _ _ _ takes small at_ has valid acked => does_ucAck takes small at_ has valid acked,
    fun _ _ _ _ _ takes => does_credit takes,
    fun _ _ _ _ service mem late idle sends => does_ucReplayTimeout service mem late idle sends,
    fun _ _ busy drained known => does_ucRequeue busy drained known⟩

end Sys2Proof.Machine
end

section
/-! Scheduled traffic (R127 to R133, R156, R157). -/

namespace Sys2Proof.Machine

variable {s t z : State}

/-! ### Slots that are sent -/

/-- A flit sent is the last one sent, and the holding store stays. -/
theorem State.link_sendFlit (s : State) (e : LinkEnd) (b slot header : Nat) (p : List Byte) :
    ((s.sendFlit e b slot header p).link e).hold = (s.link e).hold ∧
      ∃ lanes, ((s.sendFlit e b slot header p).link e).lastTx = some ⟨b, header, p, lanes⟩ := by
  unfold State.sendFlit
  dsimp only
  split
  · unfold State.putStream
    dsimp only
    rw [State.link_setLink_same, State.link_setLink_same]
    exact ⟨rfl, _, rfl⟩
  · rw [State.link_setLink_same]
    exact ⟨rfl, _, rfl⟩

theorem State.scPlace_setLink (s : State) (e e' : LinkEnd) (l : LinkSt) (dir tag b slot frame : Nat) :
    (s.setLink e' l).scPlace e dir tag b slot frame = s.scPlace e dir tag b slot frame := by
  have sched : (s.setLink e' l).schedAt = s.schedAt := rfl
  have index : (s.setLink e' l).scIndex e dir tag b slot frame = s.scIndex e dir tag b slot frame := by
    have range : (s.setLink e' l).range = s.range := rfl
    have logical : (s.setLink e' l).logical = s.logical := rfl
    have cadence : (s.setLink e' l).cadence = s.cadence := rfl
    have before : (s.setLink e' l).scBefore = s.scBefore := rfl
    simp only [State.scIndex, sched, range, logical, cadence, before]
  have transfer : (s.setLink e' l).transfer = s.transfer := rfl
  simp only [State.scPlace, sched, index, transfer]

section
variable {e : LinkEnd} {b : Fin 16} {slot : Nat} (at_ : slotAtBeat e (s.beat (leDie e) % frameBeats) = some slot)
  (service : s.inService e = true) (sends : b.val ∈ s.sending e) (power : s.isF cr0 .pwr 0 Reg.PWR_STATUS_PF = false)
include at_ service sends power

theorem does_slotTransmit_sc {tag pa : Nat} {ctx : Nat × Bool} (mark : s.markOf e 0 b slot (s.frame (leDie e)) = .sc tag)
    (runs : (s.link e).scStop = false) (place : s.scPlace e 0 tag b slot (s.frame (leDie e)) = some (pa, ctx)) :
    Does (.slotTransmit e b) s fun t => (t.link e).hold = (s.link e).hold ++
        [⟨b, slot, s.frame (leDie e), s.beat (leDie e), tag, s.rdBytes pa 64⟩] ∧
      ∃ lanes, (t.link e).lastTx = some ⟨b, 1 + tag % 16384 * 4, s.rdBytes pa 64, lanes⟩ := by
  have go : (!s.inService e || !decide (b.val ∈ s.sending e) || s.isF cr0 .pwr 0 Reg.PWR_STATUS_PF) = false := by
    rw [service, decide_eq_true sends, power]; rfl
  obtain ⟨u, hu⟩ : ∃ u, u = s.setBun e b { s.bun e b with lastSlot := s.time + 1 } := ⟨_, rfl⟩
  obtain ⟨h, hh⟩ : ∃ h : ScHeld, h = ⟨b, slot, s.frame (leDie e), s.beat (leDie e), tag, s.rdBytes pa 64⟩ := ⟨_, rfl⟩
  have link : u.link e = (s.link e).setBundle b { s.bun e b with lastSlot := s.time + 1 } := by
    rw [hu, State.setBun, State.link_setLink_same]
  have place' : u.scPlace e 0 tag b slot (s.frame (leDie e)) = some (pa, ctx) := by
    rw [hu, State.setBun, State.scPlace_setLink, place]
  have runs' : (u.link e).scStop = false := by
    rw [link]
    exact runs
  have beat : u.beat (leDie e) = s.beat (leDie e) := by rw [hu]; rfl
  have bytes : u.rdBytes pa 64 = s.rdBytes pa 64 := by rw [hu]; rfl
  obtain ⟨held, lanes, sent⟩ := (u.setLink e { u.link e with hold := (u.link e).hold ++ [h] }).link_sendFlit e b slot
    (1 + tag % 16384 * 4) (s.rdBytes pa 64)
  refine .intro (t := (u.setLink e { u.link e with hold := (u.link e).hold ++ [h] }).sendFlit e b slot (1 + tag % 16384 * 4)
    (s.rdBytes pa 64)) ?_ ⟨?_, lanes, sent⟩
  · show execSlotTransmit e b s = _
    simp only [execSlotTransmit, at_, go, mark, Bool.false_eq_true, if_false, ← hu]
    unfold State.sendSc
    simp only [runs', place', beat, bytes, Bool.false_eq_true, if_false, ← hh]
  · rw [held, State.link_setLink_same, ← hh, link]
    rfl

theorem does_slotTransmit_hack (covered : s.hackCovers e (s.frame (leDie e)) = true) :
    Does (.slotTransmit e b) s fun t => ∃ lanes, (t.link e).lastTx = some ⟨b, 0, List.replicate 64 0, lanes⟩ := by
  have go : (!s.inService e || !decide (b.val ∈ s.sending e) || s.isF cr0 .pwr 0 Reg.PWR_STATUS_PF) = false := by
    rw [service, decide_eq_true sends, power]; rfl
  have mark : s.markOf e 0 b slot (s.frame (leDie e)) = .none := by
    unfold State.markOf
    dsimp only
    rw [covered, if_pos rfl]
  obtain ⟨u, hu⟩ : ∃ u, u = s.setBun e b { s.bun e b with lastSlot := s.time + 1 } := ⟨_, rfl⟩
  refine .intro (t := u.sendNull e b slot) ?_ (u.link_sendFlit ..).2
  show execSlotTransmit e b s = _
  simp only [execSlotTransmit, at_, go, mark, Bool.false_eq_true, if_false, ← hu]

end

/-! ### A flit lands -/

theorem does_flitReceive_sc {e : LinkEnd} {b : Fin 16} {lanes : List Nat} {slot frame tag header pa ctx : Nat} {last : Bool}
    {p : List Byte} {u : State} (arrived : s.latL e ≤ s.beat (leDie e))
    (at_ : slotAtBeat e ((s.beat (leDie e) - s.latL e) % frameBeats) = some slot)
    (hf : frame = (s.beat (leDie e) - s.latL e) / frameBeats) (service : s.inService e = true) (runs : s.rxStopped e b = false)
    (has : b.val < nBundles e) (mark : s.markOf e 1 b slot frame = .sc tag)
    (decoded : s.decodeFlit e b slot frame lanes = (some (header, p), u)) (cls : header % 4 = 1) (own : bitsOf header 2 14 = tag)
    (len : p.length = 64) (place : u.scPlace e 1 tag b slot frame = some (pa, ctx, last)) :
    Does (.flitReceive e b lanes) s fun t => t.rdBytes pa 64 = p ∧ t.poisoned pa = false := by
  have taken : u.takeSlotFlit e b slot frame (.sc tag) (some (header, p)) = u.landSc e tag pa last p := by
    unfold State.takeSlotFlit badClass
    simp only [cls, show (1 == 3) = false from rfl, Bool.false_eq_true, if_false]
    unfold State.takeScSlot
    simp only [cls, own, place, show (1 == 0) = false from rfl, Bool.false_eq_true, if_false, beq_self_eq_true, Bool.and_self, if_true]
  refine .intro ((exec_flitReceive arrived at_ hf service runs has mark (by simp) (by simp) decoded).trans (congrArg _ taken)) ?_
  have written : (u.wrGranule pa p).rdBytes pa 64 = p ∧ (u.wrGranule pa p).poisoned pa = false :=
    ⟨State.rdBytes_wrGranule_of_length _ len, by rw [State.wrGranule, State.poisoned_setPoison, if_pos rfl]⟩
  unfold State.landSc
  dsimp only
  split
  · exact written
  · exact written

/-! ### Re-sends -/

theorem does_scNak {e : LinkEnd} {r : SbSlot} {box : Nat} {h : ScHeld} {u : State} (takes : s.sbTakes e r 0x04 = (some box, u))
    (held : (u.link e).hold.reverse.find? (fun h => h.bundle == bitsOf box 6 4 && h.slot == bitsOf box 10 10 &&
      h.frame % 2 == bitsOf box 20 1) = some h) (new : (h.bundle, h.slot, h.frame) ∉ (u.link e).naked) :
    Does (.scNak e r) s fun t => (t.link e).resend = (u.link e).resend ++ [(h, u.time)] := by
  refine .intro (t := u.setLink e { u.link e with
    resend := (u.link e).resend ++ [(h, u.time)], naked := (u.link e).naked ++ [(h.bundle, h.slot, h.frame)] }) ?_ ?_
  · show execScNak e r s = _
    simp only [execScNak, takes, held, decide_eq_false new, Bool.false_eq_true, if_false]
  · rw [State.link_setLink_same]

theorem does_scHoldExpiry (e : LinkEnd) (s : State) : Does (.scHoldExpiry e) s fun t => ∀ h, h ∈ (t.link e).hold ↔
    h ∈ (s.link e).hold ∧ s.beat (leDie e) < h.slotBeat + s.scHoldBeats e := by
  refine .intro (t := _) rfl fun h => ?_
  rw [State.link_setLink_same]
  exact List.mem_filter.trans (and_congr_right fun _ => decide_eq_true_iff)

/-- A delivery failure poisons its granule, unpoisons none, and leaves the links. -/
theorem State.scFail_poisons (s : State) (e : LinkEnd) (pa ctx : Nat) : Field.same .links s (s.scFail e pa ctx) ∧
    (s.scFail e pa ctx).poisoned pa = true ∧ ∀ a, s.poisoned a = true → (s.scFail e pa ctx).poisoned a = true := by
  have rest : Only (Field.but .poison) (s.setPoison pa true) (s.scFail e pa ctx) := by
    unfold State.scFail
    dsimp only
    have logged := (((Only.refl (s.setPoison pa true)).bumpLf e Reg.IKL_SC_ERR_DOUBLE Reg.TRYP_SC_ERR_DOUBLE 0 (Allow.but (by decide))).logLink
      e 0x4004 [] ctx (Allow.but (x := .poison) (by decide)) (Allow.but (by decide)))
    cases leDie e with
    | mv m =>
      exact (logged.bumpF (.mv m) .mem 0 Reg.MEM_POISON_MADE 0 (Allow.but (by decide))).ctxFault (hg0 := Allow.but (by decide))
        (hg1 := Allow.but (by decide)) (hp := Allow.but (by decide)) ..
    | cr c =>
      exact logged.ctxFault (hg0 := Allow.but (by decide)) (hg1 := Allow.but (by decide))
        (hp := Allow.but (by decide)) ..
  have links : Only (Field.but .links) s (s.scFail e pa ctx) :=
    (Only.refl s).scFail (hg0 := Allow.but (by decide)) (hg1 := Allow.but (by decide)) (hp := Allow.but (by decide)) ..
  refine ⟨links.kept, ?_, fun a h => ?_⟩
  · rw [State.poisoned_of_same rest.kept, State.poisoned_setPoison, if_pos rfl]
  · rw [State.poisoned_of_same rest.kept, State.poisoned_setPoison, h, ite_self]

/-- Delivery failures one after the other. -/
theorem State.foldl_scFail {α : Type} (e : LinkEnd) (land ctx : α → Nat) (l : List α) (s : State) :
    Field.same .links s (l.foldl (fun (t : State) w => t.scFail e (land w) (ctx w)) s) ∧
      (∀ a, s.poisoned a = true → (l.foldl (fun (t : State) w => t.scFail e (land w) (ctx w)) s).poisoned a = true) ∧
      ∀ w ∈ l, (l.foldl (fun (t : State) w => t.scFail e (land w) (ctx w)) s).poisoned (land w) = true := by
  induction l generalizing s with
  | nil => exact ⟨rfl, fun _ h => h, fun _ h => absurd h List.not_mem_nil⟩
  | cons w l ih =>
    obtain ⟨links, own, keeps⟩ := s.scFail_poisons e (land w) (ctx w)
    obtain ⟨links', keeps', rest⟩ := ih (s.scFail e (land w) (ctx w))
    rw [List.foldl_cons]
    refine ⟨Field.same_trans links links', fun a h => keeps' a (keeps a h), fun v hv => ?_⟩
    rcases List.mem_cons.mp hv with rfl | hv
    · exact keeps' _ own
    · exact rest v hv

theorem does_scResendDeadline (e : LinkEnd) (s : State) : Does (.scResendDeadline e) s fun t =>
    (∀ w ∈ (t.link e).wait, s.beat (leDie e) ≤ w.deadline) ∧
      ∀ w ∈ (s.link e).wait, w.deadline < s.beat (leDie e) → t.poisoned w.land = true := by
  obtain ⟨u, hu⟩ : ∃ u, u = s.setLink e { s.link e with
    wait := (s.link e).wait.filter (fun w => !decide (w.deadline < s.beat (leDie e))) } := ⟨_, rfl⟩
  obtain ⟨links, -, poisons⟩ := u.foldl_scFail e ScWait.land ScWait.ctx
    ((s.link e).wait.filter fun w => decide (w.deadline < s.beat (leDie e)))
  refine .intro (t := ((s.link e).wait.filter fun w => decide (w.deadline < s.beat (leDie e))).foldl
    (fun (t : State) w => t.scFail e w.land w.ctx) u) (by rw [hu]; rfl) ⟨fun w hw => ?_, fun w hw late => ?_⟩
  · rw [State.link_of_same links, hu, State.link_setLink_same] at hw
    have kept := (List.mem_filter.mp hw).2
    simpa using kept
  · exact poisons w (List.mem_filter.mpr ⟨hw, decide_eq_true late⟩)

theorem State.poisoned_foldl_setPoison {α : Type} (f : α → Nat) : ∀ (l : List α) (s : State) (a : α), a ∈ l →
    (l.foldl (fun (t : State) p => t.setPoison (f p) true) s).poisoned (f a) = true
  | [], _, _, h => absurd h List.not_mem_nil
  | b :: l, s, a, h => by
    rw [List.foldl_cons]
    rcases List.mem_cons.mp h with rfl | h
    · refine List.foldlRecOn (motive := fun v : State => v.poisoned (f a) = true) l _ ?_ fun v hv x _ => ?_
      · rw [State.poisoned_setPoison, if_pos rfl]
      · rw [State.poisoned_setPoison, hv, ite_self]
    · exact State.poisoned_foldl_setPoison f l _ a h

theorem does_scLostBundleReport {e : LinkEnd} (atFrame : s.atFrame (leDie e) = true) (first : s.frame (leDie e) ≠ 0)
    (new : (s.link e).lostRep ≠ s.frame (leDie e)) : Does (.scLostBundleReport e) s fun t =>
    (t.link e).lostRep = s.frame (leDie e) ∧ ∀ p ∈ s.lostSc e (s.frame (leDie e) - 1), t.poisoned p.1 = true := by
  have go : (!s.atFrame (leDie e) || s.frame (leDie e) == 0 || (s.link e).lostRep == s.frame (leDie e)) = false := by
    rw [atFrame, beq_false_of_ne first, beq_false_of_ne new]; rfl
  obtain ⟨u, hu⟩ : ∃ u, u = s.setLink e { s.link e with lostRep := s.frame (leDie e) } := ⟨_, rfl⟩
  obtain ⟨v, hv⟩ : ∃ v, v = (s.lostSc e (s.frame (leDie e) - 1)).foldl (fun (t : State) p => t.setPoison p.1 true) u := ⟨_, rfl⟩
  have poisoned : ∀ p ∈ s.lostSc e (s.frame (leDie e) - 1), v.poisoned p.1 = true := fun p hp =>
    hv ▸ State.poisoned_foldl_setPoison (fun p : Nat × Nat × Nat => p.1) _ u p hp
  have links : Field.same .links u v := hv ▸ (Only.foldl _ (fun _ _ g => g.setPoison (hp := Allow.but (x := .links) (by decide)) ..)
    (Only.refl u)).kept
  unfold Does
  show ∃ t, execScLostBundleReport e s = .next t ∧ _
  simp only [execScLostBundleReport, go, Bool.false_eq_true, if_false, ← hu, ← hv]
  refine ⟨_, rfl, ?_, fun p hp => ?_⟩
  · rw [State.link_of_same (v.foldl_scFail e (fun p : Nat × Nat × Nat => p.1) (fun p => p.2.1) _).1, State.link_of_same links, hu,
      State.link_setLink_same]
  · exact (v.foldl_scFail e (fun p : Nat × Nat × Nat => p.1) (fun p => p.2.1) _).2.1 _ (poisoned p hp)

/-- Settles O10, one lemma for each clause. -/
theorem scheduledTrafficComplete : Obligations.ScheduledTrafficComplete :=
  ⟨fun _ _ _ _ _ _ _ at_ service sends power mark runs place => does_slotTransmit_sc at_ service sends power mark runs place,
    fun _ _ _ _ at_ service sends power covered => does_slotTransmit_hack at_ service sends power covered,
    fun _ _ _ _ _ _ _ _ _ _ _ _ _ arrived at_ hf service runs has mark decoded cls own len place =>
      does_flitReceive_sc arrived at_ hf service runs has mark decoded cls own len place,
    fun _ _ _ _ _ _ takes held new => does_scNak takes held new,
    fun e s => does_scHoldExpiry e s,
    fun e s => does_scResendDeadline e s,
    fun _ _ atFrame first new => does_scLostBundleReport atFrame first new⟩

end Sys2Proof.Machine
end

section
/-! The gear train: losses join, notices make them known, and the schedule ports (R156 to R176, R206 to R209). -/

namespace Sys2Proof.Machine

variable {s t z : State}

/-! ### Losses join -/

theorem quiet_losses : Quiet DieSt.losses := ⟨fun _ _ _ => rfl, fun _ _ => rfl, fun _ _ => rfl, fun _ _ => rfl⟩

theorem SamePart.selectTrayVariant {α : Type} {f : DieSt → α} (h : SamePart f z s) (q : Quiet f) (c : Crown) :
    SamePart f z (s.selectTrayVariant c) := by
  unfold State.selectTrayVariant
  dsimp only
  split
  · exact h.noFit q ..
  · split
    · exact h
    · unfold State.logSwitch
      exact (((h.noteSched q _).keeps ((Only.refl _).setF (.cr c) .tray 0 Reg.TRY_STATUS_TVARIANT (hp := Allow.but (by decide)) ..)).log
        q ..).keeps ((Only.refl _).set64 (hp := Allow.but (by decide)) ..)

theorem Loss.joined_join {tray : Bool} {b : Nat} {l : Loss} (side : decide (16 ≤ (l.join tray b).link) = tray)
    (due : (l.join tray b).joinAt ≤ b) : (l.join tray b).joined = true := by
  have same : (l.join tray b).link = l.link ∧ (l.join tray b).joinAt = l.joinAt := by
    unfold Loss.join
    split <;> exact ⟨rfl, rfl⟩
  obtain ⟨link, joinAt⟩ := same
  rw [link] at side
  rw [joinAt] at due
  unfold Loss.join
  rw [side, decide_eq_true due, beq_self_eq_true]
  rfl

/-- Where no loss of one side is due that has not joined, those due have joined. -/
theorem joined_of_none_due {p : Loss → Prop} [DecidablePred p] {l : List Loss} (none_ : (l.filter fun x => !x.joined && decide (p x)) = [])
    {x : Loss} (hx : x ∈ l) (due : p x) : x.joined = true := by
  have not_ := List.filter_eq_nil_iff.mp none_ x hx
  rw [decide_eq_true due, Bool.and_true] at not_
  simpa using not_

theorem State.joined_joinLosses {d : Die} {l : Loss} (mem : l ∈ ((s.joinLosses d).die d).losses) (link : l.link < 16)
    (due : l.joinAt ≤ s.beat d) : l.joined = true := by
  unfold State.joinLosses at mem
  dsimp only at mem
  split at mem
  · exact joined_of_none_due (p := fun x => x.link < 16 ∧ x.joinAt ≤ s.beat d) (beq_iff_eq.mp ‹_›) mem ⟨link, due⟩
  · rw [State.die_setDie_same] at mem
    obtain ⟨k, -, rfl⟩ := List.mem_map.mp mem
    exact Loss.joined_join (decide_eq_false (Nat.not_le.mpr link)) due

theorem State.joined_joinTrayLosses {c : Crown} {l : Loss} (mem : l ∈ ((s.joinTrayLosses c).die (.cr c)).losses) (link : 16 ≤ l.link)
    (due : l.joinAt ≤ s.beat (.cr c)) : l.joined = true := by
  unfold State.joinTrayLosses at mem
  dsimp only at mem
  split at mem
  · exact joined_of_none_due (p := fun x => 16 ≤ x.link ∧ x.joinAt ≤ s.beat (.cr c)) (beq_iff_eq.mp ‹_›) mem ⟨link, due⟩
  · rw [State.die_setDie_same] at mem
    obtain ⟨k, -, rfl⟩ := List.mem_map.mp mem
    exact Loss.joined_join (decide_eq_true link) due

theorem does_variantSelect {d : Die} (die : s.hasDie d = true) (atTurn : s.atTurn d = true) :
    Does (.variantSelect d) s fun t => ∀ l ∈ (t.die d).losses, l.link < 16 → l.joinAt ≤ s.beat d → l.joined = true := by
  have same : SamePart DieSt.losses (s.joinLosses d)
      (if (s.joinLosses d).enabled .gtr d then (s.joinLosses d).selectVariant d else s.joinLosses d) :=
    ((SamePart.refl _).selectVariant quiet_losses d).ite (SamePart.refl _)
  refine .intro (t := if (s.joinLosses d).enabled .gtr d then (s.joinLosses d).selectVariant d else s.joinLosses d) ?_
    fun l mem link due => State.joined_joinLosses (same.same d ▸ mem) link due
  show execVariantSelect d s = _
  simp only [execVariantSelect, die, atTurn, Bool.and_self, if_true]

theorem does_trayVariantSelect {c : Crown} (die : s.hasDie (.cr c) = true) (atTurn : s.atTurn (.cr c) = true) :
    Does (.trayVariantSelect c) s fun t =>
      ∀ l ∈ (t.die (.cr c)).losses, 16 ≤ l.link → l.joinAt ≤ s.beat (.cr c) → l.joined = true := by
  obtain ⟨u, hu⟩ : ∃ u, u = s.joinTrayLosses c := ⟨_, rfl⟩
  have same : SamePart DieSt.losses u (if u.enabled .gtr (.cr c) && u.enabled .tray (.cr c) then u.selectTrayVariant c else u) :=
    ((SamePart.refl u).selectTrayVariant quiet_losses c).ite (SamePart.refl u)
  refine .intro (t := if u.enabled .gtr (.cr c) && u.enabled .tray (.cr c) then u.selectTrayVariant c else u) ?_
    fun l mem link due => State.joined_joinTrayLosses (hu ▸ same.same (.cr c) ▸ mem) link due
  show execTrayVariantSelect c s = _
  simp only [execTrayVariantSelect, die, atTurn, Bool.and_self, if_true, ← hu]

/-! ### Notices -/

/-- A new loss is listed, not joined. -/
theorem State.losses_addLoss {d : Die} {link b decl : Nat} (joinAt : Nat)
    (new : ∀ l ∈ (s.die d).losses, ¬(l.link = link ∧ l.bundle = b ∧ l.decl = decl)) :
    ∃ j, ⟨link, b, decl, j, false⟩ ∈ ((s.addLoss d link b decl joinAt).die d).losses := by
  have none_ : (s.die d).losses.any (fun l => l.link == link && l.bundle == b && l.decl == decl) = false :=
    List.any_eq_false.mpr fun l hl h => new l hl (by simpa [and_assoc] using h)
  unfold State.addLoss
  simp only [none_, Bool.false_eq_true, if_false]
  split
  all_goals
    rw [State.die_setDie_same]
    exact ⟨_, List.mem_append_right _ (List.mem_singleton.mpr rfl)⟩

theorem does_lossNotice {e : LinkEnd} {p : List Byte} (code : noticeCode p = 0x47) (link : noticeA p < 12) (bundle : noticeB p < 16)
    (new : ∀ l ∈ (s.die (leDie e)).losses, ¬(l.link = noticeA p ∧ l.bundle = noticeB p ∧ l.decl = noticeDecl p)) :
    Does (.lossNotice e p) s fun t => ∃ j, ⟨noticeA p, noticeB p, noticeDecl p, j, false⟩ ∈ (t.die (leDie e)).losses := by
  have go : (noticeCode p != 0x47 || decide (12 ≤ noticeA p) || decide (16 ≤ noticeB p)) = false := by
    rw [code, decide_eq_false (Nat.not_le.mpr link), decide_eq_false (Nat.not_le.mpr bundle)]; rfl
  have none_ : (s.die (leDie e)).losses.any (fun l => l.link == noticeA p && l.bundle == noticeB p && l.decl == noticeDecl p) = false :=
    List.any_eq_false.mpr fun l hl h => new l hl (by simpa [and_assoc] using h)
  obtain ⟨u, hu⟩ : ∃ u, u = s.bumpF (leDie e) .gtr 0 Reg.GTR_NOTICE_RECEIVED := ⟨_, rfl⟩
  obtain ⟨v, hv⟩ : ∃ v, v = u.addLoss (leDie e) (noticeA p) (noticeB p) (noticeDecl p) (turnAfter 16384 (noticeDecl p)) := ⟨_, rfl⟩
  obtain ⟨j, mem⟩ := State.losses_addLoss (s := u) (turnAfter 16384 (noticeDecl p)) (by rw [hu]; exact new)
  unfold Does
  show ∃ t, execLossNotice e p s = .next t ∧ _
  simp only [execLossNotice, go, none_, Bool.false_eq_true, if_false, ← hu, ← hv]
  refine ⟨_, rfl, j, ?_⟩
  rw [State.die_of_same ((Only.refl v).sendNotice (hp := Allow.but (x := .dies) (by decide)) ..).kept, hv]
  exact mem

theorem State.losses_addTrayLoss {d : Die} {pkg port : Nat} (decl : Nat)
    (new : ∀ l ∈ (s.die d).losses, ¬(l.link = 16 + pkg ∧ l.bundle = port ∧ l.joined = false)) :
    ((s.addTrayLoss d pkg port decl).die d).seenLoss = (s.die d).seenLoss ∧
      ∃ j, ⟨16 + pkg, port, decl, j, false⟩ ∈ ((s.addTrayLoss d pkg port decl).die d).losses := by
  have none_ : (s.die d).losses.any (fun l => l.link == 16 + pkg && l.bundle == port && !l.joined) = false :=
    List.any_eq_false.mpr fun l hl h => new l hl (by simpa [and_assoc] using h)
  unfold State.addTrayLoss
  simp only [none_, Bool.false_eq_true, if_false]
  split
  all_goals
    rw [State.die_setDie_same]
    exact ⟨rfl, _, List.mem_append_right _ (List.mem_singleton.mpr rfl)⟩

theorem does_trayLossNotice {e : LinkEnd} {p : List Byte} {pkg port : Nat} (code : noticeCode p = 0x48) (hpkg : noticeA p % 16 = pkg)
    (hport : noticeB p % 8 = port) (unseen : (16 * pkg + port, noticeDecl p) ∉ (s.die (leDie e)).seenLoss)
    (new : ∀ l ∈ (s.die (leDie e)).losses, ¬(l.link = 16 + pkg ∧ l.bundle = port ∧ l.joined = false)) :
    Does (.trayLossNotice e p) s fun t => (16 * pkg + port, noticeDecl p) ∈ (t.die (leDie e)).seenLoss ∧
      ∃ j, ⟨16 + pkg, port, noticeDecl p, j, false⟩ ∈ (t.die (leDie e)).losses := by
  obtain ⟨u, hu⟩ : ∃ u, u = s.bumpF (leDie e) .gtr 0 Reg.GTR_NOTICE_RECEIVED := ⟨_, rfl⟩
  have die : u.die (leDie e) = s.die (leDie e) := by rw [hu]; rfl
  obtain ⟨v, hv⟩ : ∃ v, v = u.setDie (leDie e) { u.die (leDie e) with
    seenLoss := (u.die (leDie e)).seenLoss ++ [(16 * pkg + port, noticeDecl p)] } := ⟨_, rfl⟩
  have noted : v.die (leDie e) = { u.die (leDie e) with seenLoss := (u.die (leDie e)).seenLoss ++ [(16 * pkg + port, noticeDecl p)] } := by
    rw [hv, State.die_setDie_same]
  obtain ⟨w, hw⟩ : ∃ w, w = v.addTrayLoss (leDie e) pkg port (noticeDecl p) := ⟨_, rfl⟩
  obtain ⟨seen, j, mem⟩ := State.losses_addTrayLoss (s := v) (noticeDecl p) (by rw [noted, die]; exact new)
  unfold Does
  show ∃ t, execTrayLossNotice e p s = .next t ∧ _
  simp only [execTrayLossNotice, code, hpkg, hport, decide_eq_false unseen, bne_self_eq_false, Bool.false_eq_true, if_false, ← hu, ← hv,
    ← hw]
  have same := ((Only.refl w).sendNotice (((traysOf (leDie e)).filter (fun n => s.lst n == stLive) ++ s.ends (leDie e)).filter (· != e))
    (noticePayload 0x0048 pkg port (noticeRc p) (noticeDecl p)) true (Allow.but (x := .dies) (by decide))).kept
  refine ⟨_, rfl, ?_, j, ?_⟩
  · rw [State.die_of_same same, hw, seen, noted]
    exact List.mem_append_right _ (List.mem_singleton.mpr rfl)
  · rw [State.die_of_same same, hw]
    exact mem

/-! ### The schedule ports -/

section
variable {d : Die} {tray : Bool} {sp bank dir slot idx : Nat} (sel : s.portSel d tray = (sp, bank, dir, slot, idx))
  (inSpace : idx < spaceSize sp) (notFixed : ¬(sp = 2 ∧ idx = 0))
include sel inSpace notFixed

/-- A write of a record's last word at a port stores the record, outside the bank in effect. -/
theorem State.tbl_schedWrite (other : bank ≠ s.bank d) (w : Word) :
    (s.schedWrite d tray w.toNat).tbl (storeSpace tray sp) (dieCode d) bank dir slot idx =
    s.getF d (if tray then .tray else .gtr) 0 (if tray then Reg.TRY_TBL_DATA_DATA else Reg.GTR_TBL_DATA_DATA) 0 +
      2 ^ 32 * s.getF d (if tray then .tray else .gtr) 0 (if tray then Reg.TRY_TBL_DATA_DATA else Reg.GTR_TBL_DATA_DATA) 4 +
      2 ^ 64 * s.getF d (if tray then .tray else .gtr) 0 (if tray then Reg.TRY_TBL_DATA_DATA else Reg.GTR_TBL_DATA_DATA) 8 +
      2 ^ 96 * w.toNat := by
  have fixed : (sp == 2 && idx == 0) = false := by
    rw [Bool.and_eq_false_imp]
    exact fun h => beq_false_of_ne fun g => notFixed ⟨beq_iff_eq.mp h, g⟩
  unfold State.schedWrite
  simp only [sel, Nat.not_le.mpr inSpace, beq_false_of_ne other, fixed, Bool.false_eq_true, if_false, Nat.mod_eq_of_lt w.isLt]
  exact Tab.get_set_same ..

theorem State.schedSel_of_portSel : s.schedSel d tray = some (s.tbl (storeSpace tray sp) (dieCode d) bank dir slot idx) := by
  have fixed : (sp == 2 && idx == 0) = false := by
    rw [Bool.and_eq_false_imp]
    exact fun h => beq_false_of_ne fun g => notFixed ⟨beq_iff_eq.mp h, g⟩
  unfold State.schedSel
  simp only [sel, Nat.not_le.mpr inSpace, fixed, Bool.false_eq_true, if_false]

end

theorem does_gtrTableWrite {d : Die} (w : Word) {sp bank dir slot idx : Nat} (die : s.hasDie d = true) (power : s.powered d .gtr = true)
    (sel : s.portSel d false = (sp, bank, dir, slot, idx)) (inSpace : idx < spaceSize sp) (other : bank ≠ s.bank d)
    (notFixed : ¬(sp = 2 ∧ idx = 0)) : Does (.gtrTableWrite d w) s fun t => t.tbl (storeSpace false sp) (dieCode d) bank dir slot idx =
      s.getF d .gtr 0 Reg.GTR_TBL_DATA_DATA 0 + 2 ^ 32 * s.getF d .gtr 0 Reg.GTR_TBL_DATA_DATA 4 +
        2 ^ 64 * s.getF d .gtr 0 Reg.GTR_TBL_DATA_DATA 8 + 2 ^ 96 * w.toNat := by
  refine .intro (t := s.schedWrite d false w.toNat) ?_ (State.tbl_schedWrite sel inSpace notFixed other w)
  show execGtrTableWrite d w s = _
  simp only [execGtrTableWrite, die, power, Bool.and_self, if_true]

theorem does_tryTableWrite {c : Crown} (w : Word) {sp bank dir slot idx : Nat} (die : s.hasDie (.cr c) = true)
    (power : s.powered (.cr c) .tray = true) (sel : s.portSel (.cr c) true = (sp, bank, dir, slot, idx)) (inSpace : idx < spaceSize sp)
    (other : bank ≠ s.bank (.cr c)) (notFixed : ¬(sp = 2 ∧ idx = 0)) :
    Does (.tryTableWrite c w) s fun t => t.tbl (storeSpace true sp) (dieCode (.cr c)) bank dir slot idx =
      s.getF (.cr c) .tray 0 Reg.TRY_TBL_DATA_DATA 0 + 2 ^ 32 * s.getF (.cr c) .tray 0 Reg.TRY_TBL_DATA_DATA 4 +
        2 ^ 64 * s.getF (.cr c) .tray 0 Reg.TRY_TBL_DATA_DATA 8 + 2 ^ 96 * w.toNat := by
  refine .intro (t := s.schedWrite (.cr c) true w.toNat) ?_ (State.tbl_schedWrite sel inSpace notFixed other w)
  show execTryTableWrite c w s = _
  simp only [execTryTableWrite, die, power, Bool.and_self, if_true]

theorem does_gtrTableRead {p : Path} {d : Die} {sp bank dir slot idx : Nat} (alive : s.deadRead p d .gtr = none)
    (sel : s.portSel d false = (sp, bank, dir, slot, idx)) (inSpace : idx < spaceSize sp) (notFixed : ¬(sp = 2 ∧ idx = 0)) :
    Does (.gtrTableRead p d) s fun t => Tab.get 0 t.rdData (pathCode p) =
      s.tbl (storeSpace false sp) (dieCode d) bank dir slot idx % 2 ^ 32 := by
  refine .intro (t := (s.schedRead d false).putRd p ((s.schedRead d false).getF d .gtr 0 Reg.GTR_TBL_DATA_DATA 0)) ?_ ?_
  · show execGtrTableRead p d s = _
    simp only [execGtrTableRead, alive]
  · rw [State.rdData_putRd_same]
    unfold State.schedRead
    rw [State.schedSel_of_portSel sel inSpace notFixed]
    exact (State.getF_loadWords (i := 0) (by decide) _ s 4 (by decide)).trans (by rw [Nat.mul_zero, Nat.pow_zero, Nat.div_one]; rfl)

theorem does_tryTableRead {p : Path} {c : Crown} {sp bank dir slot idx : Nat} (alive : s.deadRead p (.cr c) .tray = none)
    (sel : s.portSel (.cr c) true = (sp, bank, dir, slot, idx)) (inSpace : idx < spaceSize sp) (notFixed : ¬(sp = 2 ∧ idx = 0)) :
    Does (.tryTableRead p c) s fun t => Tab.get 0 t.rdData (pathCode p) =
      s.tbl (storeSpace true sp) (dieCode (.cr c)) bank dir slot idx % 2 ^ 32 := by
  refine .intro (t := (s.schedRead (.cr c) true).putRd p ((s.schedRead (.cr c) true).getF (.cr c) .tray 0 Reg.TRY_TBL_DATA_DATA 0)) ?_ ?_
  · show execTryTableRead p c s = _
    simp only [execTryTableRead, alive]
  · rw [State.rdData_putRd_same]
    unfold State.schedRead
    rw [State.schedSel_of_portSel sel inSpace notFixed]
    exact (State.getF_loadWords (i := 0) (by decide) _ s 4 (by decide)).trans (by rw [Nat.mul_zero, Nat.pow_zero, Nat.div_one]; rfl)

/-- Settles O6, one lemma for each clause. -/
theorem gearTrainCommandsComplete : Obligations.GearTrainCommandsComplete :=
  ⟨fun _ _ die atTurn => does_variantSelect die atTurn,
    fun _ _ die atTurn => does_trayVariantSelect die atTurn,
    fun _ _ _ code link bundle new => does_lossNotice code link bundle new,
    fun _ _ _ _ _ code hpkg hport unseen new => does_trayLossNotice code hpkg hport unseen new,
    fun _ w _ _ _ _ _ _ die power sel inSpace other notFixed => does_gtrTableWrite w die power sel inSpace other notFixed,
    fun _ _ _ _ _ _ _ _ alive sel inSpace notFixed => does_gtrTableRead alive sel inSpace notFixed,
    fun _ w _ _ _ _ _ _ die power sel inSpace other notFixed => does_tryTableWrite w die power sel inSpace other notFixed,
    fun _ _ _ _ _ _ _ _ alive sel inSpace notFixed => does_tryTableRead alive sel inSpace notFixed⟩

end Sys2Proof.Machine
end

section
/-! The watch on a link: error windows, CK, markers, retirement and the limits of training (R71, R72, R82 to R85, R105, R149). -/

namespace Sys2Proof.Machine

variable {s t z : State}

/-! ### Error windows -/

/-- A field set to zero at one place is zero where it was zero before. -/
theorem State.getF_setF_zero {d d' : Die} {b : Blk} {i i' k k' : Nat} {f : Fld}
    (h : s.getF d b i f k = 0 ∨ (d = d' ∧ i = i' ∧ k = k')) : (s.setF d' b i' f 0 k').getF d b i f k = 0 := by
  by_cases same : fkey d b i f k = fkey d' b i' f k'
  · unfold State.getF State.setF
    rw [same]
    exact (Tab.get_set_same ..).trans (Nat.zero_mod _)
  · rcases h with h | ⟨rfl, rfl, rfl⟩
    · exact (State.getF_setF_ne _ same).trans h
    · exact absurd rfl same

/-- The window's count of one lane begins anew. -/
def State.clearWin (s : State) (e : LinkEnd) (b c : Nat) : State :=
  if isTray e then s.setF (leDie e) .trayPort (leInst e) Reg.TRYP_EYE_WIN_ERR 0 (8 * c)
  else s.setF (leDie e) .ikl (leInst e) Reg.IKL_EYE_WIN_ERR 0 (laneOff e b c)

theorem State.winErr_clearWin {e : LinkEnd} {b c b' c' : Nat} (h : s.winErr e b c = 0 ∨ (b = b' ∧ c = c')) :
    (s.clearWin e b' c').winErr e b c = 0 := by
  unfold State.winErr at h ⊢
  unfold State.clearWin
  split
  · rw [if_pos ‹_›] at h
    exact State.getF_setF_zero (h.imp_right fun g => ⟨rfl, rfl, by rw [g.2]⟩)
  · rw [if_neg ‹_›] at h
    exact State.getF_setF_zero (h.imp_right fun g => ⟨rfl, rfl, by rw [g.1, g.2]⟩)

theorem does_errWindowRoll {e : LinkEnd} (atTurn : s.atTurn (leDie e) = true) (due : s.turn (leDie e) % s.errWindow e = 0) :
    Does (.errWindowRoll e) s fun t => ∀ b c, b < nBundles e → c < nLanes e → t.winErr e b c = 0 := by
  have go : (s.atTurn (leDie e) && s.turn (leDie e) % s.errWindow e == 0) = true := by rw [atTurn, due]; rfl
  refine .intro (t := (List.range (nBundles e)).foldl (fun (t : State) b => (List.range (nLanes e)).foldl (fun (u : State) c =>
    u.clearWin e b c) t) s) ?_ fun b c hb hc => ?_
  · show execErrWindowRoll e s = _
    simp only [execErrWindowRoll, go, if_true]
    rfl
  · refine foldl_does (P := fun b v => v.winErr e b c = 0) (fun v b => ?_) (fun v a b h => ?_) _ s (.inr (List.mem_range.mpr hb))
    · exact foldl_does (P := fun c v => v.winErr e b c = 0) (fun v c => State.winErr_clearWin (.inr ⟨rfl, rfl⟩))
        (fun v a c h => State.winErr_clearWin (.inl h)) _ v (.inr (List.mem_range.mpr hc))
    · exact List.foldlRecOn (motive := fun v : State => v.winErr e b c = 0) (List.range (nLanes e)) _ h fun v hv x _ =>
        State.winErr_clearWin (.inl hv)

/-! ### CK counts -/

/-- What keeps to all but some parts keeps to all but some of them. -/
theorem Only.fewer {l l' : List Field} (h : Only (Field.outside l) s t) (hl : ∀ x ∈ l', x ∈ l) : Only (Field.outside l') s t :=
  ⟨fun x hx => h.same x (decide_eq_false (not_not.mpr (hl x (not_not.mp (of_decide_eq_false hx)))))⟩

theorem State.retired_of_same (h : Only (Field.outside [.ofReg .ikl Reg.IKL_BPHY_RETIRED, .ofReg .trayPort
    Reg.TRYP_LANEMAP_RETIRED]) s t) (e : LinkEnd) (b : Nat) : t.retired e b = s.retired e b := by
  cases e with
  | ikl d sl =>
    exact congrArg (· == 1) (Field.getF_of_same (d := d) (i := sl.val) (k := bOff b)
      (h.keeps (x := .ofReg .ikl Reg.IKL_BPHY_RETIRED) (by decide)))
  | tray n =>
    exact congrArg (· == 1) (Field.getF_of_same (d := leDie (.tray n)) (i := leInst (.tray n)) (k := 0)
      (h.keeps (x := .ofReg .trayPort Reg.TRYP_LANEMAP_RETIRED) (by decide)))

theorem State.ckBad_noteCk {e : LinkEnd} {counts : List Nat} {b : Nat} (good : ckOk (counts.getD b 0) = true) (bs : List Nat) (s : State)
    (mem : b ∈ bs) : ((s.noteCk e bs counts).bun e b).ckBad = 0 := by
  unfold State.noteCk
  refine foldl_does (P := fun b v => ckOk (counts.getD b 0) = true → (v.bun e b).ckBad = 0) (fun v b hb => ?_) (fun v a b h hb => ?_) bs s
    (.inr mem) good
  · dsimp only
    rw [State.bun_setBun_same, hb, if_pos rfl]
  · dsimp only
    by_cases same : b = a
    · rw [← same, State.bun_setBun_same, hb, if_pos rfl]
    · rw [State.bun_setBun_ne _ _ _ same]
      exact h hb

/-- What follows a search notes of a bundle only when its lane test began. -/
theorem State.bun_afterSearch (s : State) (e : LinkEnd) (b : Nat) : ∃ n, (s.afterSearch e).bun e b = { s.bun e b with testAt := n } := by
  obtain ⟨all_, hall⟩ : ∃ x, x = (s.live e).all fun b => (s.bun e b).search.mode == 3 := ⟨_, rfl⟩
  obtain ⟨u, hu⟩ : ∃ u, u = if all_ && !isTray e then s.setF (leDie e) .ikl (leInst e) Reg.IKL_CAL_STATUS_MODE (s.calMode e) else s :=
    ⟨_, rfl⟩
  have first : u.bun e b = s.bun e b := by
    rw [hu]
    exact State.bun_of_links (Only.ite ((Only.refl s).setF (hp := Allow.but (by decide)) ..) (Only.refl s)).kept e b
  obtain ⟨v, hv⟩ : ∃ v, v = if all_ && s.lst e == stCalib && s.live e != [] then u.toSt e stLanetest else u := ⟨_, rfl⟩
  have second : v.bun e b = u.bun e b := by
    rw [hv]
    split
    · exact State.bun_of_bundles (by rw [State.toSt_link]) b
    · rfl
  unfold State.afterSearch
  simp only [← hall, ← hu, ← hv]
  split
  · unfold State.startTests
    refine List.foldlRecOn (motive := fun w : State => ∃ n, w.bun e b = { s.bun e b with testAt := n }) _ _
      ⟨_, second.trans first⟩ fun w ⟨n, hw⟩ c _ => ?_
    dsimp only
    split
    · by_cases same : b = c
      · exact ⟨_, by rw [same, State.bun_setBun_same, ← same, hw]⟩
      · exact ⟨n, by rw [State.bun_setBun_ne _ _ _ same, hw]⟩
    · exact ⟨n, hw⟩
  · exact ⟨_, second.trans first⟩

/-- What follows a search leaves the CK of the bundles. -/
theorem State.ckBad_afterSearch (s : State) (e : LinkEnd) (b : Nat) : ((s.afterSearch e).bun e b).ckBad = (s.bun e b).ckBad := by
  obtain ⟨n, noted⟩ := s.bun_afterSearch e b
  rw [noted]

theorem none_of_all_false {p : Nat → Bool} {l : List Nat} (h : ∀ b ∈ l, p b = false) :
    (l != [] && l.all p) = false ∧ l.filter p = [] := by
  refine ⟨?_, List.filter_eq_nil_iff.mpr fun b hb e => Bool.false_ne_true ((h b hb).symm.trans e)⟩
  cases l with
  | nil => rfl
  | cons a l =>
    rw [List.all_cons, h a (List.mem_cons_self ..)]
    rfl

theorem does_ckCountCheck {e : LinkEnd} {counts : List Nat} (notTray : isTray e = false) (atFrame : s.atFrame (leDie e) = true)
    (good : ∀ b ∈ s.live e, bit (s.getF (leDie e) .ikl (leInst e) Reg.IKL_BUNDLE_EN_EN) b = true → ckOk (counts.getD b 0) = true) :
    Does (.ckCountCheck e counts) s fun t => ∀ b ∈ s.live e,
      bit (s.getF (leDie e) .ikl (leInst e) Reg.IKL_BUNDLE_EN_EN) b = true → (t.bun e b).ckBad = 0 := by
  obtain ⟨bs, hbs⟩ : ∃ bs, bs = (s.live e).filter (bit (s.getF (leDie e) .ikl (leInst e) Reg.IKL_BUNDLE_EN_EN)) := ⟨_, rfl⟩
  have all_ : ∀ b ∈ bs, ckOk (counts.getD b 0) = true := fun b hb => by
    rw [hbs] at hb
    exact good b (List.mem_filter.mp hb).1 (List.mem_filter.mp hb).2
  obtain ⟨u, hu⟩ : ∃ u, u = (s.showCk e bs counts).noteCk e bs counts := ⟨_, rfl⟩
  have noted : ∀ b ∈ bs, (u.bun e b).ckBad = 0 := fun b hb => hu ▸ State.ckBad_noteCk (all_ b hb) bs _ hb
  have calib : ∀ b ∈ bs, ((u.ckCalib e bs counts).bun e b).ckBad = 0 := fun b hb => by
    obtain ⟨noPartner, noneLate⟩ := none_of_all_false (l := bs) (p := fun b =>
      (u.bun e b).ckBad != 0 && decide (max ((u.bun e b).ckBad - 1) (u.link e).since + turnBeats ≤ u.time))
      fun c hc => by rw [noted c hc]; rfl
    unfold State.ckCalib
    dsimp only
    rw [noPartner, noneLate]
    split
    · exact absurd ‹_› Bool.false_ne_true
    · split
      · rw [List.foldl_nil, State.ckBad_afterSearch, noted b hb]
      · exact noted b hb
  have service : ∀ b ∈ bs, ((u.ckService e bs counts).bun e b).ckBad = 0 := fun b hb => by
    have noneBad {l : List Nat} (hl : ∀ c ∈ l, c ∈ bs) := none_of_all_false (l := l) (p := fun b => !ckOk (counts.getD b 0))
      fun c hc => by rw [all_ c (hl c hc)]; rfl
    have partner := (noneBad (l := if u.inService e then bs.filter fun b => !u.calOut e b else bs) (by
      split
      · exact fun c hc => (List.mem_filter.mp hc).1
      · exact fun c hc => hc)).1
    unfold State.ckService
    dsimp only
    rw [partner, (noneBad fun c hc => hc).2]
    split
    · exact absurd ‹_› Bool.false_ne_true
    · split
      · rw [List.foldl_nil, State.ckBad_afterSearch, noted b hb]
      · exact noted b hb
  have mem : ∀ b ∈ s.live e, bit (s.getF (leDie e) .ikl (leInst e) Reg.IKL_BUNDLE_EN_EN) b = true → b ∈ bs := fun b hb on => by
    rw [hbs]
    exact List.mem_filter.mpr ⟨hb, on⟩
  have go : (isTray e || !s.atFrame (leDie e)) = false := by rw [notTray, atFrame]; rfl
  unfold Does
  show ∃ t, execCkCountCheck e counts s = .next t ∧ _
  simp only [execCkCountCheck, go, Bool.false_eq_true, if_false, ← hbs, ← hu]
  split
  · exact ⟨_, rfl, fun b hb on => calib b (mem b hb on)⟩
  · split
    · exact ⟨_, rfl, fun b hb on => service b (mem b hb on)⟩
    · exact ⟨_, rfl, fun b hb on => noted b (mem b hb on)⟩

/-! ### Retirement -/

/-- Quiescence notes of a bundle only that it is gone. -/
theorem State.bun_quiesce (s : State) (e : LinkEnd) (l : List Nat) (b : Nat) :
    ∃ f g, (s.quiesce e l).bun e b = { s.bun e b with txFinal := f, gone := g } := by
  have same (v : State) (h : v.bun e b = s.bun e b) : ∃ f g, v.bun e b = { s.bun e b with txFinal := f, gone := g } := ⟨_, _, h⟩
  unfold State.quiesce
  split
  · dsimp only
    generalize hu : State.setLink _ e _ = u
    have link : u.bun e b = s.bun e b := by
      rw [← hu]
      exact State.bun_of_bundles (by rw [State.link_setLink_same]) b
    unfold State.noteGone
    refine List.foldlRecOn (motive := fun v : State => ∃ f g, v.bun e b = { s.bun e b with txFinal := f, gone := g }) _ _ (same u link)
      fun v ⟨f, g, hv⟩ c _ => ?_
    by_cases at_ : b = c
    · rw [at_] at hv ⊢
      rw [State.bun_setBun_same, hv]
      exact ⟨_, _, rfl⟩
    · rw [State.bun_setBun_ne _ _ _ at_]
      exact ⟨f, g, hv⟩
  · exact same s rfl

theorem does_bundleRetire {e : LinkEnd} {r : SbSlot} {box b : Nat} {u : State} (takes : s.sbTakesFirst e r 0x12 = (some box, u))
    (at_ : bitsOf box 14 4 = b) (has : b < nBundles e) (alive : u.retired e b = false) (runs : (u.bun e b).stopAt = none) :
    Does (.bundleRetire e r) s fun t => (t.bun e b).stopAt = some (u.frame (leDie e) + 1) := by
  obtain ⟨f, g, quiet⟩ := u.bun_quiesce e [b] b
  obtain ⟨v, hv⟩ : ∃ v, v = u.quiesce e [b] := ⟨_, rfl⟩
  have kept : Only (Field.outside [.dies, .ofReg .ikl Reg.IKL_BPHY_RETIRED, .ofReg .trayPort Reg.TRYP_LANEMAP_RETIRED]) u v :=
    hv ▸ (Only.refl u).quiesce (hg0 := Allow.outside (by decide)) (hp := Allow.outside (by decide)) ..
  have alive' : v.retired e b = false := (State.retired_of_same (kept.fewer (by decide)) e b).trans alive
  have runs' : (v.bun e b).stopAt = none := by rw [hv, quiet]; exact runs
  have frame : v.frame (leDie e) = u.frame (leDie e) := by
    unfold State.frame State.beat
    rw [State.die_of_same (kept.keeps (x := .dies) (by decide))]
  refine .intro (t := v.setBun e b { v.bun e b with stopAt := some (v.frame (leDie e) + 1) }) ?_ ?_
  · show execBundleRetire e r s = _
    simp only [execBundleRetire, takes, at_, has, if_true, ← hv]
    unfold State.stopNext
    simp only [alive', runs', bne_self_eq_false, Bool.or_self, Bool.false_eq_true, if_false]
  · rw [State.bun_setBun_same, frame]

/-- A bundle as its retirement at an end leaves it. -/
def BundleSt.out (x : BundleSt) (beat time : Nat) : BundleSt :=
  { x with byMax := false, dying := false, stopAt := none, finalEs := x.es, finalOk := true, rxStop := some (x.rxStop.getD beat),
           failed := [], repairs := [], txRepairs := [], loc := 0, uncorr := 0, gone := time + 1 }

theorem State.bun_degrade (s : State) (e : LinkEnd) (b : Nat) : (s.degrade e).bun e b = s.bun e b := by
  have moved (st : Nat) : (s.toSt e st).bun e b = s.bun e b := State.bun_of_bundles (by rw [State.toSt_link]) b
  unfold State.degrade
  split
  · split
    · exact moved _
    · rfl
  · split
    · exact moved _
    · rfl

/-- A retirement at an end changes its own bundle alone. -/
theorem State.bun_markRetired_eq (s : State) (e : LinkEnd) (b c : Nat) :
    (s.markRetired e b).bun e c = (s.setBun e b ((s.bun e b).out (s.beat (leDie e)) s.time)).bun e c := by
  obtain ⟨u, hu⟩ : ∃ u, u = (s.setRetired e b true).setBun e b ((s.bun e b).out (s.beat (leDie e)) s.time) := ⟨_, rfl⟩
  obtain ⟨v, hv⟩ : ∃ v, v = u.setTxMap e b { u.txMapOf e b with retired := true } := ⟨_, rfl⟩
  have mapped : v.bun e c = u.bun e c :=
    State.bun_of_links (hv ▸ (Only.refl u).setTxMap e b { u.txMapOf e b with retired := true } (Allow.but (x := .links) (by decide))).kept e c
  have marked : (s.setRetired e b true).bun e c = s.bun e c :=
    State.bun_of_links ((Only.refl s).setRetired e b true (Allow.but (x := .links) (by decide))).kept e c
  have marks : s.markRetired e b = v.degrade e := by rw [hv, hu]; rfl
  rw [marks, State.bun_degrade, mapped, hu]
  by_cases same : c = b
  · rw [same, State.bun_setBun_same, State.bun_setBun_same]
  · rw [State.bun_setBun_ne _ _ _ same, State.bun_setBun_ne _ _ _ same, marked]

theorem State.bun_markRetired (s : State) (e : LinkEnd) (b : Nat) :
    (s.markRetired e b).bun e b = (s.bun e b).out (s.beat (leDie e)) s.time := by
  rw [State.bun_markRetired_eq, State.bun_setBun_same]

theorem does_bundleTxStop {e : LinkEnd} {b : Fin 16} {f : Nat} (stops : (s.bun e b).stopAt = some f) (atFrame : s.atFrame (leDie e) = true)
    (due : f ≤ s.frame (leDie e)) : Does (.bundleTxStop e b) s fun t => (t.bun e b).stopAt = none ∧ (t.bun e b).dying = false ∧
      (t.bun e b).rxStop = some ((s.bun e b).rxStop.getD (s.beat (leDie e))) ∧
      (t.bun e b).finalEs = (s.bun e b).es ∧ (t.bun e b).finalOk = true := by
  obtain ⟨g, n, quiet⟩ := s.bun_quiesce e [b.val] b
  obtain ⟨u, hu⟩ : ∃ u, u = s.quiesce e [b.val] := ⟨_, rfl⟩
  have kept : Only (Field.but .dies) s u := hu ▸ (Only.refl s).quiesce (hg0 := Allow.but (by decide)) (hp := Allow.but (by decide)) ..
  have beat : u.beat (leDie e) = s.beat (leDie e) := by
    unfold State.beat
    rw [State.die_of_same kept.kept]
  have go : (s.atFrame (leDie e) && decide (f ≤ s.frame (leDie e))) = true := by rw [atFrame, decide_eq_true due]; rfl
  refine .intro (t := u.markRetired e b) ?_ ?_
  · show execBundleTxStop e b s = _
    simp only [execBundleTxStop, stops, go, if_true, ← hu]
  · rw [State.bun_markRetired, beat, hu, quiet]
    exact ⟨rfl, rfl, rfl, rfl, rfl⟩

/-! ### Markers -/

/-- A bundle, or a tray lane, after a marker that passes. -/
def BundleSt.marked (x : BundleSt) (now at_ frame flags : Nat) : BundleSt :=
  { x with lastFrame := frame + 1, goodAt := now + 1, badRun := 0, checked := at_ + 1,
           good := if x.lastFrame == 0 || decide (4 ≤ x.badRun) then 1 else min (x.good + 1) 4,
           cal := bit flags 1, retire := bit flags 2, done := bit flags 3 }

theorem BundleSt.mark_ok {x : BundleSt} {now frame : Nat} (at_ flags : Nat) (ok : x.markOk now frame = true) :
    x.mark now at_ (some (frame, flags)) = (true, x.marked now at_ frame flags) := by
  unfold BundleSt.mark
  dsimp only
  rw [if_pos ok]
  rfl

theorem State.inService_lanetest {e : LinkEnd} (test : s.lst e = stLanetest) : s.inService e = false := by
  unfold State.inService
  rw [test]; rfl

/-- In the lane test a marker's place is not checked. -/
theorem State.markerCheck_lanetest {e : LinkEnd} (test : s.lst e = stLanetest) (off : Int) : s.markerCheck e off = s := by
  unfold State.markerCheck
  simp only [test, s.inService_lanetest test, show (stLanetest == stSync) = false from rfl, Bool.false_eq_true, if_false]

theorem State.lastFrame_stopNext (s : State) (e : LinkEnd) (b : Nat) : ((s.stopNext e b).bun e b).lastFrame = (s.bun e b).lastFrame := by
  unfold State.stopNext
  dsimp only
  split
  · rfl
  · rw [State.bun_setBun_same]

theorem does_frameMarker_ikl {d : Die} {sl : Fin 4} {b : Fin 16} {seg frame flags : Nat} (test : s.lst (.ikl d sl) = stLanetest)
    (has : b.val < nBundles (.ikl d sl)) (alive : s.retired (.ikl d sl) b = false) (reads : readMarker seg = some (frame, flags))
    (ok : (s.bun (.ikl d sl) b).markOk s.time frame = true) :
    Does (.frameMarker (.ikl d sl) b seg) s fun t => (t.bun (.ikl d sl) b).lastFrame = frame + 1 ∧
      (bit flags 3 = true → 3 ≤ (s.bun (.ikl d sl) b).good → (s.bun (.ikl d sl) b).badRun = 0 →
        (s.bun (.ikl d sl) b).lastFrame ≠ 0 → (t.link (.ikl d sl)).gotDone = true) := by
  obtain ⟨y, hy⟩ : ∃ y, y = (s.bun (.ikl d sl) b).marked s.time (s.frame d) frame flags := ⟨_, rfl⟩
  have marks : (s.bun (.ikl d sl) b).mark s.time (s.frame d) (some (frame, flags)) = (true, y) := hy ▸ BundleSt.mark_ok _ _ ok
  obtain ⟨u, hu⟩ : ∃ u, u = if decide (4 ≤ y.badRun) then (s.setBun (.ikl d sl) b y).setLock (.ikl d sl) b false
    else if decide (4 ≤ y.good) then (s.setBun (.ikl d sl) b y).setLock (.ikl d sl) b true else s.setBun (.ikl d sl) b y := ⟨_, rfl⟩
  obtain ⟨v, hv⟩ : ∃ v, v = if y.retire && !u.retired (.ikl d sl) b then (u.setBun (.ikl d sl) b { u.bun (.ikl d sl) b with
      rxStop := some ((u.bun (.ikl d sl) b).rxStop.getD (boundaryAtOrAfter frameBeats (s.beat d + 1))) }).stopNext (.ikl d sl) b
    else u := ⟨_, rfl⟩
  obtain ⟨w, hw⟩ : ∃ w, w = if y.done && v.lst (.ikl d sl) == stLanetest && v.isF d .ikl (leInst (.ikl d sl)) Reg.IKL_BPHY_MARKER_LOCK
      (bOff b) then v.setLink (.ikl d sl) { v.link (.ikl d sl) with gotDone := true } else v := ⟨_, rfl⟩
  have locked : Only (Field.but .links) (s.setBun (.ikl d sl) b y) u := by
    rw [hu]
    exact Only.ite ((Only.refl _).setLock (hp := Allow.but (by decide)) ..)
      (Only.ite ((Only.refl _).setLock (hp := Allow.but (by decide)) ..) (Only.refl _))
  have bun : u.bun (.ikl d sl) b = y := (State.bun_of_links locked.kept ..).trans (State.bun_setBun_same ..)
  have stopped : Only (Field.outside ([.ofReg .ikl Reg.IKL_BPHY_MARKER_LOCK] ++ stateRegs)) u v := by
    rw [hv]
    exact Only.ite (((Only.refl u).setBun (hp := Allow.outside (by decide)) ..).stopNext (hp := Allow.outside (by decide)) ..) (Only.refl u)
  have frames : (v.bun (.ikl d sl) b).lastFrame = frame + 1 := by
    rw [hv]
    split
    · rw [State.lastFrame_stopNext, State.bun_setBun_same, bun, hy]
      rfl
    · rw [bun, hy]
      rfl
  have states : Only (Field.outside stateRegs) s v := by
    have first : Only (Field.outside stateRegs) s (s.setBun (.ikl d sl) b y) := (Only.refl s).setBun (hp := Allow.outside (by decide)) ..
    have second : Only (Field.outside stateRegs) (s.setBun (.ikl d sl) b y) u := by
      rw [hu]
      exact Only.ite ((Only.refl _).setLock (hp := Allow.outside (by decide)) ..)
        (Only.ite ((Only.refl _).setLock (hp := Allow.outside (by decide)) ..) (Only.refl _))
    refine (first.trans second).trans ⟨fun x hx => stopped.same x ?_⟩
    exact decide_eq_false fun h => absurd (of_decide_eq_false hx) fun g => h (List.mem_append_right _ (not_not.mp g))
  have test' : v.lst (.ikl d sl) = stLanetest := (State.lst_of_same states _).trans test
  have test'' : w.lst (.ikl d sl) = stLanetest := by
    rw [hw]
    split
    · exact test'
    · exact test'
  refine .intro (t := w) ?_ ⟨?_, fun done good run last => ?_⟩
  · show execFrameMarker (.ikl d sl) b seg s = _
    have inTest : (decide (s.lst (.ikl d sl) < stLanetest) || decide (stDegraded < s.lst (.ikl d sl))) = false := by rw [test]; rfl
    simp only [execFrameMarker, inTest, decide_eq_true has, alive, Bool.not_false, Bool.and_self, Bool.false_eq_true, if_false, if_true]
    unfold State.iklMarker
    simp only [reads, marks, leDie, Option.isNone_some, Bool.not_true, Bool.false_eq_true, if_false, if_true, ← hu, ← hv, ← hw,
      State.markerCheck_lanetest test'', ite_self]
  · rw [← frames, hw]
    split
    · exact congrArg BundleSt.lastFrame (State.bun_of_bundles (by rw [State.link_setLink_same]) _)
    · rfl
  · have locks : v.isF d .ikl (leInst (.ikl d sl)) Reg.IKL_BPHY_MARKER_LOCK (bOff b) = true := by
      have four : y.good = 4 := by
        rw [hy]
        show (if (s.bun (.ikl d sl) b).lastFrame == 0 || decide (4 ≤ (s.bun (.ikl d sl) b).badRun) then 1
          else min ((s.bun (.ikl d sl) b).good + 1) 4) = 4
        rw [beq_false_of_ne last, run, if_neg (by decide)]
        omega
      have zero : y.badRun = 0 := by rw [hy]; rfl
      rw [State.isF_of_same (stopped.keeps (x := .ofReg .ikl Reg.IKL_BPHY_MARKER_LOCK) (by decide)), hu, four, zero]
      exact State.isF_setF_one (by decide)
    have done' : y.done = true := by rw [hy]; exact done
    have all_ : (y.done && v.lst (.ikl d sl) == stLanetest && v.isF d .ikl (leInst (.ikl d sl)) Reg.IKL_BPHY_MARKER_LOCK (bOff b)) = true := by
      rw [done', test', locks]; rfl
    rw [hw, if_pos all_, State.link_setLink_same]

theorem does_frameMarker_tray {n : Fin 8} {c : Fin 16} {seg frame flags : Nat} (test : s.lst (.tray n) = stLanetest) (small : c.val < 9)
    (reads : readBlock ((logicalLane (.tray n) (s.useMap (.tray n) 0) c).getD c) seg = some (frame, flags))
    (ok : (s.bun (.tray n) (16 + c)).markOk s.time frame = true) :
    Does (.frameMarker (.tray n) c seg) s fun t => (t.bun (.tray n) (16 + c)).lastFrame = frame + 1 ∧
      (t.link (.tray n)).peerBv = bit flags 1 := by
  obtain ⟨y, hy⟩ : ∃ y, y = (s.bun (.tray n) (16 + c)).marked s.time (s.frame (leDie (.tray n))) frame flags := ⟨_, rfl⟩
  have marks : (s.bun (.tray n) (16 + c)).mark s.time (s.frame (leDie (.tray n))) (some (frame, flags)) = (true, y) :=
    hy ▸ BundleSt.mark_ok _ _ ok
  obtain ⟨u, hu⟩ : ∃ u, u = s.setBun (.tray n) (16 + c) y := ⟨_, rfl⟩
  obtain ⟨v, hv⟩ : ∃ v, v = u.setLink (.tray n) { u.link (.tray n) with
      peerBv := bit flags 1, gotDone := (u.link (.tray n)).gotDone || bit flags 3 && u.lst (.tray n) == stLanetest && decide (4 ≤ y.good),
      sigAt := s.time } := ⟨_, rfl⟩
  have test' : v.lst (.tray n) = stLanetest := by rw [hv, hu]; exact test
  have idle : v.inService (.tray n) = false := v.inService_lanetest test'
  have unlocked : v.trayLock n = v := by
    unfold State.trayLock
    simp only [idle, Bool.not_false, Bool.true_or, if_true]
  refine .intro (t := v) ?_ ⟨?_, by rw [hv, State.link_setLink_same]⟩
  · show execFrameMarker (.tray n) c seg s = _
    have inTest : (decide (s.lst (.tray n) < stLanetest) || decide (stDegraded < s.lst (.tray n))) = false := by rw [test]; rfl
    simp only [execFrameMarker, inTest, small, Bool.false_eq_true, if_false, if_true]
    unfold State.trayMarker
    simp only [reads, marks, Option.getD_some, Bool.not_true, Bool.false_eq_true, if_false, ← hu, ← hv, idle, Bool.false_and,
      State.markerCheck_lanetest test', ite_self, unlocked]
  · have same : v.bun (.tray n) (16 + c) = u.bun (.tray n) (16 + c) := by
      rw [hv]
      exact State.bun_of_bundles (by rw [State.link_setLink_same]) _
    rw [same, hu, State.bun_setBun_same, hy]
    rfl

/-! ### The limits of training -/

theorem does_trainingTimeout_ikl {d : Die} {sl : Fin 4} (deskew : s.lst (.ikl d sl) = stDeskew) (late : turnBeats ≤ s.inState (.ikl d sl))
    (few : s.getF d .ikl sl.val Reg.IKL_LL_STATUS_ATTEMPTS + 1 < s.trainMax (.ikl d sl)) :
    Does (.trainingTimeout (.ikl d sl)) s fun t => t.lst (.ikl d sl) = stReset := by
  have idle : s.inService (.ikl d sl) = false := by
    unfold State.inService
    rw [deskew]; rfl
  refine .intro (t := s.linkReturn (.ikl d sl) 0x3009 true) ?_ (State.linkReturn_ikl (by decide) few ?_).1
  · show execTrainingTimeout (.ikl d sl) s = _
    simp only [execTrainingTimeout, deskew, late, if_true, show (stDeskew == stLanetest) = false from rfl, beq_self_eq_true,
      Bool.false_eq_true, if_false]
  · rw [State.endService_idle idle, deskew]
    decide

theorem does_trainingTimeout_tray {n : Fin 8} (deskew : s.lst (.tray n) = stDeskew) (late : turnBeats ≤ s.inState (.tray n)) :
    Does (.trainingTimeout (.tray n)) s fun t => t.lst (.tray n) = stListen := by
  refine .intro (t := s.linkReturn (.tray n) 0x3009 true) ?_ (s.lst_linkReturn_tray ..)
  show execTrainingTimeout (.tray n) s = _
  simp only [execTrainingTimeout, deskew, late, if_true, show (stDeskew == stLanetest) = false from rfl, beq_self_eq_true,
    Bool.false_eq_true, if_false]

/-- Settles O8, one lemma for each clause. -/
theorem linkWatchCommandsComplete : Obligations.LinkWatchCommandsComplete :=
  ⟨fun _ _ atTurn due => does_errWindowRoll atTurn due,
    fun _ _ _ notTray atFrame good => does_ckCountCheck notTray atFrame good,
    fun _ _ _ _ _ _ takes at_ has alive runs => does_bundleRetire takes at_ has alive runs,
    fun _ _ _ _ stops atFrame due => does_bundleTxStop stops atFrame due,
    fun _ _ _ _ _ _ _ test has alive reads ok => does_frameMarker_ikl test has alive reads ok,
    fun _ _ _ _ _ _ test small reads ok => does_frameMarker_tray test small reads ok,
    fun _ _ _ deskew late few => does_trainingTimeout_ikl deskew late few,
    fun _ _ deskew late => does_trainingTimeout_tray deskew late⟩

end Sys2Proof.Machine
end

section
/-! Admission, thermal samples, stale crossings and rails (R54, R361 to R367, R472, R497). -/

namespace Sys2Proof.Machine

variable {s t z : State}

/-! ### What the return of a link end leaves of a die -/

/-- A part of a die that the log, the gear train's notes and the losses it knows are no part of. -/
structure Silent {α : Type} (f : DieSt → α) : Prop extends Quiet f where
  losses : ∀ x l, f { x with losses := l } = f x
  seenLoss : ∀ x l, f { x with seenLoss := l } = f x

theorem silent_power : Silent DieSt.power :=
  ⟨⟨fun _ _ _ => rfl, fun _ _ => rfl, fun _ _ => rfl, fun _ _ => rfl⟩, fun _ _ => rfl, fun _ _ => rfl⟩

theorem silent_stale : Silent DieSt.stale :=
  ⟨⟨fun _ _ _ => rfl, fun _ _ => rfl, fun _ _ => rfl, fun _ _ => rfl⟩, fun _ _ => rfl, fun _ _ => rfl⟩

namespace SamePart

variable {α : Type} {f : DieSt → α}

theorem setF (h : SamePart f z s) (d : Die) (b : Blk) (i : Nat) (g : Fld) (v k : Nat) : SamePart f z (s.setF d b i g v k) :=
  h.trans (of_dies (s.setF_dies ..))

theorem bumpF (h : SamePart f z s) (d : Die) (b : Blk) (i : Nat) (g : Fld) (k : Nat) : SamePart f z (s.bumpF d b i g k) :=
  h.setF ..

theorem toSt (h : SamePart f z s) (e : LinkEnd) (st : Nat) : SamePart f z (s.toSt e st) :=
  h.keeps ((Only.refl s).toSt e st (Allow.but (by decide)) (Allow.but (by decide)) (Allow.but (by decide)))

theorem endService (h : SamePart f z s) (e : LinkEnd) : SamePart f z (s.endService e) :=
  h.keeps ((Only.refl s).endService e (Allow.but (by decide)) (Allow.but (by decide)) (Allow.but (by decide)) (Allow.but (by decide))
    (Allow.but (by decide)))

theorem sendNotice (h : SamePart f z s) (es : List LinkEnd) (payload : List Byte) (fwd : Bool) :
    SamePart f z (s.sendNotice es payload fwd) :=
  h.keeps ((Only.refl s).sendNotice es payload fwd (Allow.but (by decide)))

theorem addLoss (h : SamePart f z s) (q : Silent f) (d : Die) (link b decl joinAt : Nat) : SamePart f z (s.addLoss d link b decl joinAt) := by
  unfold State.addLoss
  refine h.ite (ite ?_ (h.setDie (q.losses ..)))
  exact (h.setF ..).setDie ((q.losses ..).trans (((SamePart.refl s).setF ..).same d).symm)

theorem declareLoss (h : SamePart f z s) (q : Silent f) (e : LinkEnd) (b rc : Nat) : SamePart f z (s.declareLoss e b rc) :=
  (h.addLoss q ..).sendNotice ..

theorem declareTrayLoss (h : SamePart f z s) (q : Silent f) (n : Fin 8) (rc : Nat) : SamePart f z (s.declareTrayLoss n rc) :=
  ((h.setDie (q.seenLoss ..)).addLoss q ..).sendNotice ..

theorem retireAll (h : SamePart f z s) (q : Silent f) (e : LinkEnd) (rc : Nat) : SamePart f z (s.retireAll e rc) :=
  SamePart.foldl _ (fun w b hw => by
    have marked := hw.keeps ((Only.refl w).setRetired e b true (Allow.but (by decide)))
    exact ⟨(marked.declareLoss q e b rc).same⟩) h

theorem linkReturn (h : SamePart f z s) (q : Silent f) (e : LinkEnd) (rc : Nat) (counted ask : Bool) :
    SamePart f z (s.linkReturn e rc counted ask) := by
  have ended (x : LinkSt) : SamePart f z ((s.endService e).setLink e x) := ⟨(h.endService e).same⟩
  cases e with
  | tray n =>
    have told (x : LinkSt) (rc' : Nat) (p : Bool) :
        SamePart f z (if p then ((s.endService (.tray n)).setLink (.tray n) x).logLink (.tray n) rc'
          else (s.endService (.tray n)).setLink (.tray n) x) :=
      ((ended x).log q.toQuiet ..).ite (ended x)
    exact ite (((((told ..).log q.toQuiet ..).setF ..).setF ..).toSt .. |>.declareTrayLoss q ..)
      (((((told ..).log q.toQuiet ..).setF ..).setF ..).toSt ..)
  | ikl d sl =>
    have told (x : LinkSt) := (ended x).ite (p := (rc == 0) = true)
      ((ended x).log q.toQuiet (leDie (.ikl d sl)) (leBlk (.ikl d sl)) (leLog (.ikl d sl)) rc [] 0xFF)
    have tried (x : LinkSt) := ((told x).bumpF d .ikl (leInst (.ikl d sl)) Reg.IKL_LL_STATUS_ATTEMPTS 0).ite (p := counted = true) (told x)
    cases d with
    | cr c => exact ite (((tried _).retireAll q ..).toSt ..) (ite (tried _) ((tried _).toSt ..))
    | mv m =>
      have asked (x : LinkSt) (k : Nat) (p : Bool) :=
        ((tried x).keeps ((Only.refl _).askFpReset m k (Allow.but (by decide)))).ite (p := p = true) (tried x)
      exact ite (((asked _ _ _).retireAll q ..).toSt ..) (ite (asked _ _ _) ((asked _ _ _).toSt ..))

theorem setPow {g : DieSt → α} (h : SamePart g z s) (free : ∀ x p, g { x with power := p } = g x) (d : Die) (p : PowerSt) :
    SamePart g z (s.setPow d p) := h.setDie (free ..)

theorem setThrot (h : SamePart f z s) (q : Quiet f) (d : Die) (on : Bool) : SamePart f z (s.setThrot d on) :=
  ((h.setF ..).log q ..).ite (h.setF ..)

theorem withdraw (h : SamePart f z s) (q : Quiet f) (d : Die) (r : AdmReq) : SamePart f z (s.withdraw d r) := by
  unfold State.withdraw
  dsimp only
  split
  · exact (((h.bumpF ..).log q ..).setF ..).ite ((h.bumpF ..).log q ..)
  · exact ⟨(((h.bumpF ..).log q ..).setF (leDie (leOfCode r.who)) .ikl (leInst (leOfCode r.who)) Reg.IKL_RECAL_STATE 0 0).same⟩
  · exact (h.bumpF ..).log q ..

end SamePart

theorem State.pow_of_samePart (h : SamePart DieSt.power s t) (d : Die) : t.pow d = s.pow d := h.same d

/-! ### Admission -/

theorem does_tokenGrant {d : Die} {r : AdmReq} {rest : List AdmReq} (head : (s.pow d).queue = r :: rest) (cool : s.throttled d = false)
    (fits : (s.pow d).held + r.tok ≤ s.allowance d) :
    Does (.tokenGrant d) s fun t => (t.pow d).lent = (s.pow d).lent ++ [r] ∧ (t.pow d).queue = rest := by
  let given : PowerSt := { s.pow d with queue := rest, lent := (s.pow d).lent ++ [r] }
  refine .intro (t := ((s.setPow d given).showHeld d).bumpF cr0 .pwr 0 Reg.PWR_COUNT_GRANTED) ?_ ?_
  · show execTokenGrant d s = _
    have go : (s.throttled d || decide (s.allowance d < (s.pow d).held + r.tok)) = false := by
      rw [cool, Bool.false_or]; exact decide_eq_false (by omega)
    simp only [execTokenGrant, head, go]
    rfl
  · have same : SamePart DieSt.power (s.setPow d given) (((s.setPow d given).showHeld d).bumpF cr0 .pwr 0 Reg.PWR_COUNT_GRANTED) :=
      ((SamePart.refl _).setF ..).bumpF ..
    rw [State.pow_of_samePart same, State.pow_setPow_same]
    exact ⟨rfl, rfl⟩

theorem does_admissionWaitTimeout (s : State) (d : Die) : Does (.admissionWaitTimeout d) s fun t => ∀ r, r ∈ (t.pow d).queue ↔
    r ∈ (s.pow d).queue ∧ s.time < r.at_ + s.waitLimit * frameBeats := by
  refine .intro rfl fun r => ?_
  rw [State.pow_of_samePart (SamePart.foldl _ (fun w a hw => hw.withdraw silent_power.toQuiet d a) (SamePart.refl _)), State.pow_setPow_same]
  simp [List.mem_filter]

/-! ### Thermal samples -/

theorem runLen_false {c : Prop} [Decidable c] (h : ¬ c) (n : Nat) : runLen (decide c) n = 0 := by
  rw [decide_eq_false h]; rfl

theorem does_thermalSample {d : Die} {tj h0 h1 : Int} (there : s.hasDie d = true) (frame : s.atFrame d = true)
    (fresh : s.staleKind d 2 = false) (tjOk : tj < 110) (h0Ok : h0 < 105) (h1Ok : h1 < 105) :
    Does (.thermalSample d tj h0 h1) s fun t => (t.pow d).hotJ = runLen (decide (s.throtC d ≤ tj)) (s.pow d).hotJ ∧
      (t.pow d).tripJ = 0 ∧ (t.pow d).tripH = 0 := by
  have noTripJ : runLen (decide (110 ≤ tj)) (s.pow d).tripJ = 0 := runLen_false (by omega) _
  cases d with
  | cr c =>
    unfold Does
    show ∃ t, execThermalSample (.cr c) tj h0 h1 s = .next t ∧ _
    simp only [execThermalSample, fresh, there, frame, noTripJ, Bool.not_true, Bool.or_self, Bool.false_eq_true, if_false, Bool.false_and]
    refine ⟨_, rfl, ?_⟩
    rw [if_neg (by exact Bool.false_ne_true), State.pow_of_samePart ((SamePart.refl _).setThrot silent_power.toQuiet ..), State.pow_setPow_same]
    exact ⟨rfl, rfl, rfl⟩
  | mv m =>
    have noTripH : runLen (decide (105 ≤ max h0 (if s.h8 then h1 else 0))) (s.pow (.mv m)).tripH = 0 := runLen_false (by split <;> omega) _
    unfold Does
    show ∃ t, execThermalSample (.mv m) tj h0 h1 s = .next t ∧ _
    simp only [execThermalSample, fresh, there, frame, noTripJ, noTripH, Bool.not_true, Bool.or_self, Bool.false_eq_true, if_false,
      Bool.true_and]
    refine ⟨_, rfl, ?_⟩
    rw [if_neg (by decide), State.pow_of_samePart ((SamePart.refl _).setThrot silent_power.toQuiet ..), State.pow_setPow_same]
    exact ⟨rfl, rfl, rfl⟩

/-! ### Stale crossings -/

theorem State.staleAt_of_samePart (h : SamePart DieSt.stale s t) (d : Die) (kind blk inst : Nat) :
    t.staleAt d kind blk inst = s.staleAt d kind blk inst := by
  unfold State.staleAt; rw [h.same d]

theorem SamePart.endStale (h : SamePart DieSt.stale z s) (d : Die) (kind : Nat) : SamePart DieSt.stale z (s.endStale d kind) := by
  unfold State.endStale
  exact h.ite (((h.setPow (fun _ _ => rfl) ..).setF ..).ite ((h.setPow (fun _ _ => rfl) ..).ite h))

theorem State.staleAt_crossed_same (s : State) (d : Die) (kind blk inst : Nat) :
    (s.crossed d kind blk inst).staleAt d kind blk inst = false := by
  unfold State.crossed State.staleAt
  rw [State.die_setDie_same]
  refine List.any_eq_false.mpr fun y hy e => ?_
  have := (List.mem_filter.mp hy).2
  rw [e] at this
  exact Bool.false_ne_true this

/-- A crossing that is not stale does not become so when another accepts a value. -/
theorem State.staleAt_crossed {d d' : Die} {kind blk inst kind' blk' inst' : Nat} (h : s.staleAt d kind blk inst = false) :
    (s.crossed d' kind' blk' inst').staleAt d kind blk inst = false := by
  unfold State.crossed State.staleAt
  by_cases e : d = d'
  · subst e
    rw [State.die_setDie_same]
    exact List.any_eq_false.mpr fun y hy => List.any_eq_false.mp h y (List.mem_of_mem_filter hy)
  · rw [State.die_setDie_ne _ _ e]
    exact h

/-- The crossings accepted in a list cease to be stale. -/
def State.acceptAll (s : State) (d : Die) (accepted : List (Fin 5 × Nat × Nat)) : State :=
  accepted.foldl (fun (t : State) c => (t.crossed d c.1 c.2.1 c.2.2).endStale d c.1) s

theorem State.staleAt_acceptAll (d : Die) {accepted : List (Fin 5 × Nat × Nat)} {c : Fin 5 × Nat × Nat} (h : c ∈ accepted) :
    (s.acceptAll d accepted).staleAt d c.1 c.2.1 c.2.2 = false := by
  refine foldl_does (P := fun (c : Fin 5 × Nat × Nat) v => v.staleAt d c.1 c.2.1 c.2.2 = false) (fun v a => ?_) (fun v a b hb => ?_)
    accepted s (.inr h)
  · rw [State.staleAt_of_samePart ((SamePart.refl _).endStale ..)]
    exact State.staleAt_crossed_same ..
  · rw [State.staleAt_of_samePart ((SamePart.refl _).endStale ..)]
    exact State.staleAt_crossed hb

/-- A die put on its floor. -/
def State.toFloor (t : State) (d : Die) : State :=
  let t1 := t.setPow d { t.pow d with staleFloor := true }
  let fl := t1.getF cr0 .pwr 0 Reg.PWR_STATUS_FLOOR
  ((t1.setF cr0 .pwr 0 Reg.PWR_DIE_A_ALLOW (t1.floorOf d) (dieOff d)).setF cr0 .pwr 0 Reg.PWR_STATUS_FLOOR
    (setBit fl (dieCode d))).log d .pwr 0 0x8002

/-- What a crossing stale for a turn does to its die. -/
def State.staleStep (t : State) (d : Die) (c : Nat × Nat × Nat × Nat) : State :=
  match c.1 with
  | 1 =>
    let e : LinkEnd := if c.2.1 == 6 then .tray (Fin.ofNat 8 c.2.2.1) else .ikl d (Fin.ofNat 4 c.2.2.1)
    if t.inService e then t.linkReturn e 0 true else t
  | 2 => (t.setPow d { t.pow d with staleThrot := true }).setThrot d true
  | 3 => if (t.pow d).staleFloor then t else t.toFloor d
  | _ => t

theorem execCdcStaleTurnExpiry_eq (s : State) (d : Die) (accepted : List (Fin 5 × Nat × Nat)) : execCdcStaleTurnExpiry d accepted s =
    .next ((((s.acceptAll d accepted).die d).stale.filter fun c => decide (c.2.2.2 + turnBeats ≤ (s.acceptAll d accepted).time)).foldl
      (fun t c => t.staleStep d c) (s.acceptAll d accepted)) := rfl

theorem SamePart.toFloor (h : SamePart DieSt.stale z s) (d : Die) : SamePart DieSt.stale z (s.toFloor d) :=
  (((h.setPow (fun _ _ => rfl) ..).setF ..).setF ..).log silent_stale.toQuiet ..

theorem SamePart.staleStep (h : SamePart DieSt.stale z s) (d : Die) (c : Nat × Nat × Nat × Nat) :
    SamePart DieSt.stale z (s.staleStep d c) := by
  unfold State.staleStep
  dsimp only
  split
  · exact (h.linkReturn silent_stale ..).ite h
  · exact (h.setPow (fun _ _ => rfl) ..).setThrot silent_stale.toQuiet ..
  · exact h.ite (h.toFloor d)
  · exact h

theorem does_cdcStaleTurnExpiry_accepted (s : State) (d : Die) (accepted : List (Fin 5 × Nat × Nat)) :
    Does (.cdcStaleTurnExpiry d accepted) s fun t => ∀ c ∈ accepted, t.staleAt d c.1 c.2.1 c.2.2 = false := by
  refine .intro (execCdcStaleTurnExpiry_eq ..) fun c hc => ?_
  rw [State.staleAt_of_samePart (SamePart.foldl _ (fun w a hw => hw.staleStep d a) (SamePart.refl _))]
  exact State.staleAt_acceptAll d hc

/-- What staleness forced on a die in one state, it forces in the next. -/
structure StillForced (d : Die) (s t : State) : Prop where
  throt : (s.pow d).staleThrot = true → (t.pow d).staleThrot = true
  floor : (s.pow d).staleFloor = true → (t.pow d).staleFloor = true
  throttled : s.throttled d = true → t.throttled d = true

theorem State.throttled_of_same (h : (Field.ofReg .thm Reg.THM_STATUS_THROT).same s t) (d : Die) : t.throttled d = s.throttled d :=
  State.isF_of_same h d 0 0

theorem State.throttled_setThrot (s : State) (d : Die) : (s.setThrot d true).throttled d = true := by
  have set : (s.setF d .thm 0 Reg.THM_STATUS_THROT (b2n true)).throttled d = true := State.isF_setF_one (by decide)
  unfold State.setThrot
  dsimp only
  split
  · rw [State.throttled_of_same (((Only.refl _).log (hg0 := Allow.but (by decide)) (hp := Allow.but (by decide)) ..).kept)]
    exact set
  · exact set

/-- Throttling set, whatever the log takes, leaves the power record of the state it is set on. -/
theorem StillForced.throttle (t : State) (d : Die) :
    StillForced d t ((t.setPow d { t.pow d with staleThrot := true }).setThrot d true) := by
  have power : (((t.setPow d { t.pow d with staleThrot := true }).setThrot d true).pow d) = { t.pow d with staleThrot := true } := by
    rw [State.pow_of_samePart ((SamePart.refl _).setThrot silent_power.toQuiet ..), State.pow_setPow_same]
  refine ⟨fun _ => ?_, fun h => ?_, fun _ => State.throttled_setThrot ..⟩
  · rw [power]
  · rw [power]; exact h

theorem State.pow_toFloor (t : State) (d : Die) : (t.toFloor d).pow d = { t.pow d with staleFloor := true } := by
  unfold State.toFloor
  dsimp only
  rw [State.pow_of_samePart ((((SamePart.refl _).setF ..).setF ..).log silent_power.toQuiet ..), State.pow_setPow_same]

theorem StillForced.toFloor (t : State) (d : Die) : StillForced d t (t.toFloor d) := by
  refine ⟨fun h => ?_, fun _ => ?_, fun h => ?_⟩
  · rw [State.pow_toFloor]; exact h
  · rw [State.pow_toFloor]
  · rw [State.throttled_of_same (s := t)]
    · exact h
    · have first : Only (Field.but (.ofReg .thm Reg.THM_STATUS_THROT)) t (t.setPow d { t.pow d with staleFloor := true }) :=
        (Only.refl t).setPow (hp := Allow.but (by decide)) ..
      exact (((first.setF (hp := Allow.but (by decide)) ..).setF (hp := Allow.but (by decide)) ..).log (hg0 := Allow.but (by decide))
        (hp := Allow.but (by decide)) ..).kept

theorem StillForced.refl (d : Die) (t : State) : StillForced d t t := ⟨id, id, id⟩

theorem StillForced.linkReturn (t : State) (d : Die) (e : LinkEnd) : StillForced d t (t.linkReturn e 0 true) := by
  have power : (t.linkReturn e 0 true).pow d = t.pow d :=
    State.pow_of_samePart ((SamePart.refl t).linkReturn silent_power e 0 true true) d
  have throt : Only (Field.but (.ofReg .thm Reg.THM_STATUS_THROT)) t (t.linkReturn e 0 true) :=
    (Only.refl t).linkReturn e 0 true true (Allow.but (by decide)) (Allow.but (by decide)) (Allow.but (by decide)) (Allow.but (by decide))
      (Allow.but (by decide)) (Allow.but (by decide))
  refine ⟨fun h => ?_, fun h => ?_, fun h => ?_⟩
  · rw [power]; exact h
  · rw [power]; exact h
  · rw [State.throttled_of_same throt.kept]; exact h

theorem StillForced.returned (t : State) (d : Die) (e : LinkEnd) : StillForced d t (if t.inService e then t.linkReturn e 0 true else t) := by
  split
  · exact StillForced.linkReturn ..
  · exact StillForced.refl d t

theorem StillForced.staleStep (t : State) (d : Die) (c : Nat × Nat × Nat × Nat) : StillForced d t (t.staleStep d c) := by
  unfold State.staleStep
  dsimp only
  split
  · exact StillForced.returned t d ..
  · exact StillForced.throttle t d
  · split
    · exact StillForced.refl d t
    · exact StillForced.toFloor t d
  · exact StillForced.refl d t

/-- What a crossing stale for a turn has forced on its die. -/
def State.Forced (t : State) (d : Die) (c : Nat × Nat × Nat × Nat) : Prop :=
  (c.1 = 2 → (t.pow d).staleThrot = true ∧ t.throttled d = true) ∧ (c.1 = 3 → (t.pow d).staleFloor = true)

theorem StillForced.forced {d : Die} {c : Nat × Nat × Nat × Nat} (h : StillForced d s t) (f : s.Forced d c) : t.Forced d c :=
  ⟨fun e => ⟨h.throt (f.1 e).1, h.throttled (f.1 e).2⟩, fun e => h.floor (f.2 e)⟩

theorem State.forced_staleStep (t : State) (d : Die) (c : Nat × Nat × Nat × Nat) : (t.staleStep d c).Forced d c := by
  obtain ⟨kind, place⟩ := c
  refine ⟨fun e => ?_, fun e => ?_⟩
  · obtain rfl : kind = 2 := e
    refine ⟨?_, State.throttled_setThrot ..⟩
    show (((t.setPow d { t.pow d with staleThrot := true }).setThrot d true).pow d).staleThrot = true
    rw [State.pow_of_samePart ((SamePart.refl _).setThrot silent_power.toQuiet ..), State.pow_setPow_same]
  · obtain rfl : kind = 3 := e
    show ((if (t.pow d).staleFloor then t else t.toFloor d).pow d).staleFloor = true
    split
    · assumption
    · rw [State.pow_toFloor]

theorem does_cdcStaleTurnExpiry_forces {d : Die} {c : Nat × Nat × Nat × Nat} (stale : c ∈ (s.die d).stale)
    (due : c.2.2.2 + turnBeats ≤ s.time) : Does (.cdcStaleTurnExpiry d []) s fun t => t.Forced d c := by
  refine .intro (execCdcStaleTurnExpiry_eq ..) ?_
  refine foldl_does (P := fun c v => v.Forced d c) (fun v a => v.forced_staleStep d a) (fun v a b hb => ?_) _ _ (.inr ?_)
  · exact (StillForced.staleStep v d a).forced hb
  · exact List.mem_filter.mpr ⟨stale, decide_eq_true due⟩

/-! ### Rails -/

/-- The sample of one rail. -/
def State.sampleRail (s : State) (v k : Nat) : State :=
  let t1 := s.setF cr0 .pwr 0 Reg.PWR_RAIL_MV v (4 * k)
  if v == 0 then t1
  else
    let l := railLimits k
    let t2 := if v < l.1 then t1.setF cr0 .pwr 0 Reg.PWR_RAIL_LOW 1 (4 * k) else t1
    if l.2 < v then t2.setF cr0 .pwr 0 Reg.PWR_RAIL_HIGH 1 (4 * k) else t2

theorem State.getF_sampleRail (s : State) (v k n : Nat) : (s.sampleRail v k).getF cr0 .pwr 0 Reg.PWR_RAIL_MV n =
    (s.setF cr0 .pwr 0 Reg.PWR_RAIL_MV v (4 * k)).getF cr0 .pwr 0 Reg.PWR_RAIL_MV n := by
  unfold State.sampleRail
  dsimp only
  have low (w : State) : (w.setF cr0 .pwr 0 Reg.PWR_RAIL_LOW 1 (4 * k)).getF cr0 .pwr 0 Reg.PWR_RAIL_MV n =
    w.getF cr0 .pwr 0 Reg.PWR_RAIL_MV n := State.getF_setF_of_tag (by decide)
  have high (w : State) : (w.setF cr0 .pwr 0 Reg.PWR_RAIL_HIGH 1 (4 * k)).getF cr0 .pwr 0 Reg.PWR_RAIL_MV n =
    w.getF cr0 .pwr 0 Reg.PWR_RAIL_MV n := State.getF_setF_of_tag (by decide)
  split
  · rfl
  · split <;> split <;> simp only [low, high]

theorem does_railSample {mv : List Nat} {k : Nat} (frame : s.atFrame cr0 = true) (small : k < 18) (fed : k ≠ 11) (on : s.railOn k = true)
    (fits : mv.getD k 0 < 2 ^ 16) : Does (.railSample mv) s fun t => t.getF cr0 .pwr 0 Reg.PWR_RAIL_MV (4 * k) = mv.getD k 0 := by
  unfold Does
  show ∃ t, execRailSample mv s = .next t ∧ _
  simp only [execRailSample, frame, Bool.not_true, Bool.false_eq_true, if_false]
  refine ⟨_, rfl, ?_⟩
  let volt (k : Nat) : Nat := if k == 11 || !s.railOn k then 0 else mv.getD k 0
  have seen : volt k = mv.getD k 0 := if_neg (by simp [fed, on])
  have shown : (((List.range 18).foldl (fun t a => t.sampleRail (volt a) a) s).getF cr0 .pwr 0 Reg.PWR_RAIL_MV (4 * k)) = mv.getD k 0 := by
    refine foldl_does (P := fun a v => v.getF cr0 .pwr 0 Reg.PWR_RAIL_MV (4 * a) = volt a % 2 ^ 16) (fun v a => ?_) (fun v a b hb => ?_)
      (a := k) _ s (.inr (List.mem_range.mpr small)) |>.trans ?_
    · rw [State.getF_sampleRail]
      exact State.getF_setF_same ..
    · rw [State.getF_sampleRail]
      by_cases e : b = a
      · rw [e]; exact State.getF_setF_same ..
      · rw [State.getF_setF_ne _ (fkey_ne (by decide) (by decide) (.inl (by omega)))]
        exact hb
    · rw [seen, Nat.mod_eq_of_lt fits]
  exact shown

/-- Settles O15, one lemma for each clause. -/
theorem admissionCommandsComplete : Obligations.AdmissionCommandsComplete := by
  unfold Obligations.AdmissionCommandsComplete
  exact ⟨fun d r rest s => does_tokenGrant, fun d s => does_admissionWaitTimeout s d, fun d tj h0 h1 s => does_thermalSample,
    fun d accepted s => does_cdcStaleTurnExpiry_accepted s d accepted, fun d c s => does_cdcStaleTurnExpiry_forces,
    fun mv k s => does_railSample⟩

end Sys2Proof.Machine
end

section
/-! Lane repair (R105 to R111). -/

namespace Sys2Proof.Machine

variable {s t u z : State} {e : LinkEnd}

theorem State.bun_sbSend (s : State) (e : LinkEnd) (mtype body b : Nat) : (s.sbSend e mtype body).bun e b = s.bun e b := by
  obtain ⟨q, n, sent⟩ := s.link_sbSend e mtype body 0 1
  exact State.bun_of_bundles (by rw [sent]) b

theorem nMain_le (e : LinkEnd) : nMain e ≤ nLanes e := by
  unfold nMain nLanes
  split <;> decide

/-! ### The receiver asks for a jewel -/

/-- A lane not yet in repair takes the first free jewel. -/
theorem State.bun_repairLane {b lane eff j : Nat} {js : List Nat} (free : s.freeJewels e b = j :: js) (new : lane ∉ (s.bun e b).failed) :
    ((s.repairLane e b lane eff).bun e b).failed = (s.bun e b).failed ++ [lane] ∧
      ((s.repairLane e b lane eff).bun e b).repairs = (s.bun e b).repairs ++ [⟨lane, j, eff, 0⟩] := by
  have failed : (if decide (lane ∈ (s.bun e b).failed) = true then (s.bun e b).failed else (s.bun e b).failed ++ [lane]) =
      (s.bun e b).failed ++ [lane] := if_neg (by simpa using new)
  unfold State.repairLane
  simp only [free, failed, State.bun_sbSend, State.bun_setBun_same, and_self]

theorem does_laneNoTransition {b : Fin 16} {lane : Fin 21} {ui l j : Nat} {js : List Nat} (serves : s.inService e = true) (long : 256 ≤ ui)
    (small : b.val < nBundles e) (main : lane.val < nMain e) (alive : s.retired e b = false)
    (logical : logicalLane e (s.rxMap e b) lane = some l) (new : l ∉ (s.bun e b).failed) (free : s.freeJewels e b = j :: js) :
    Does (.laneNoTransition e b lane ui) s fun t => (t.bun e b).failed = (s.bun e b).failed ++ [l] ∧
      (t.bun e b).repairs = (s.bun e b).repairs ++ [⟨l, j, turnAfter frameBeats (s.beat (leDie e)) / turnBeats, 0⟩] := by
  refine .intro (t := s.repairLane e b l (turnAfter frameBeats (s.beat (leDie e)) / turnBeats)) ?_ (State.bun_repairLane free new)
  have go : (s.inService e && decide (256 ≤ ui) && decide (b.val < nBundles e ∧ lane.val < nLanes e)) = true := by
    rw [serves, decide_eq_true long, decide_eq_true ⟨small, main.trans_le (nMain_le e)⟩]; rfl
  show execLaneNoTransition e b lane ui s = _
  simp only [execLaneNoTransition, go, if_true, State.failLane, alive, Bool.false_eq_true, if_false, main, logical, decide_eq_false new]

/-! ### The transmitter notes the repair and streams -/

theorem does_laneRepair {r : SbSlot} {box : Nat} (takes : s.sbTakesFirst e r 0x11 = (some box, u)) (small : bitsOf box 14 4 < nBundles e) :
    Does (.laneRepair e r) s fun t => ∃ q ∈ (t.bun e (bitsOf box 14 4)).txRepairs, q.lane = bitsOf box 18 5 ∧
      q.jewel = bitsOf box 23 1 ∧ q.eff = bitsOf box 24 43 ∧ q.mseq = bitsOf box 6 8 := by
  unfold Does
  show ∃ t, execLaneRepair e r s = .next t ∧ _
  simp only [execLaneRepair, takes, small, if_true]
  refine ⟨_, rfl, ?_⟩
  rw [State.bun_setBun_same]
  exact ⟨_, List.mem_append_right _ (List.mem_singleton.mpr rfl), rfl, rfl, rfl, rfl⟩

theorem does_jewelStreamStart {b : Fin 16} (frame : s.atFrame (leDie e) = true) :
    Does (.jewelStreamStart e b) s fun t => ∀ r ∈ (s.bun e b).txRepairs, r.sent ≠ 0 → r.sent ≤ s.frame (leDie e) →
      { r with stream := true } ∈ (t.bun e b).txRepairs := by
  unfold Does
  show ∃ t, execJewelStreamStart e b s = .next t ∧ _
  simp only [execJewelStreamStart, frame, if_true]
  refine ⟨_, rfl, fun r known sent due => ?_⟩
  rw [State.bun_setBun_same]
  refine List.mem_map.mpr ⟨r, known, if_pos ?_⟩
  rw [decide_eq_true due, bne_iff_ne.mpr sent]; rfl

/-! ### Both ends take over -/

theorem State.bun_setRxMap (s : State) (e e' : LinkEnd) (b b' : Nat) (m : LaneMap) : (s.setRxMap e b m).bun e' b' = s.bun e' b' :=
  State.bun_of_links ((Only.refl s).setRxMap e b m (Allow.but (by decide))).kept e' b'

theorem does_laneRepairTakeover {b : Fin 16} {lane j eff ack : Nat} (turn : s.atTurn (leDie e) = true)
    (one : (s.bun e b).repairs = [⟨lane, j, eff, ack⟩]) (due : eff ≤ s.turn (leDie e)) (acked : ack ≠ 0)
    (settled : ack - 1 + frameBeats ≤ s.time) :
    Does (.laneRepairTakeover e b) s fun t => (t.bun e b).repairs = [] ∧ lane ∉ (t.bun e b).failed := by
  have go : (ack != 0 && decide (ack - 1 + frameBeats ≤ s.time)) = true := by
    rw [decide_eq_true settled, bne_iff_ne.mpr acked]; rfl
  unfold Does
  show ∃ t, execLaneRepairTakeover e b s = .next t ∧ _
  simp only [execLaneRepairTakeover, turn, if_true, one, List.foldl_cons, List.foldl_nil, State.takeover, Nat.not_lt.mpr due, if_false, go]
  refine ⟨_, rfl, ?_⟩
  rw [State.bun_setRxMap, State.bun_setBun_same]
  exact ⟨by simp, by simp⟩

/-- A fold that adds what is not yet there ends with every member of its list. -/
theorem mem_foldl_add {α : Type} (f : α → Nat) {a : α} : ∀ (l : List α) (low : List Nat), (f a ∈ low ∨ a ∈ l) →
    f a ∈ l.foldl (fun l r => if decide (f r ∈ l) then l else l ++ [f r]) low
  | [], _, h => h.resolve_right List.not_mem_nil
  | b :: l, low, h => by
    rw [List.foldl_cons]
    refine mem_foldl_add f l _ ?_
    rcases h with h | h
    · left; split
      · exact h
      · exact List.mem_append_left _ h
    · rcases List.mem_cons.mp h with rfl | h
      · left; split
        · exact of_decide_eq_true ‹_›
        · exact List.mem_append_right _ (List.mem_singleton.mpr rfl)
      · exact .inr h

theorem does_laneRepairTxCutover {b : Fin 16} (turn : s.atTurn (leDie e) = true) :
    Does (.laneRepairTxCutover e b) s fun t => ∀ r ∈ (s.bun e b).txRepairs, r.sent ≠ 0 → r.eff ≤ s.turn (leDie e) →
      r.lane ∈ (t.bun e b).low ∧ r ∉ (t.bun e b).txRepairs := by
  unfold Does
  show ∃ t, execLaneRepairTxCutover e b s = .next t ∧ _
  simp only [execLaneRepairTxCutover, turn, if_true]
  refine ⟨_, rfl, fun r known sent reached => ?_⟩
  have due : (r.sent != 0 && decide (r.eff ≤ s.turn (leDie e))) = true := by
    rw [decide_eq_true reached, bne_iff_ne.mpr sent]; rfl
  rw [State.bun_setBun_same]
  refine ⟨mem_foldl_add TxRepair.lane _ _ (.inr (List.mem_filter.mpr ⟨known, due⟩)), fun kept => ?_⟩
  have := (List.mem_filter.mp kept).2
  rw [due] at this
  exact Bool.false_ne_true this

/-! ### A jewel kept centred -/

theorem stepTap_lt {range : Nat} (h : 0 < range) (v : Nat) (dir : Fin 3) : stepTap range v dir < range := by
  unfold stepTap
  omega

theorem does_jewelRecentre {b : Fin 16} {jewel : Fin 2} {delay thresh : Fin 3} {bits : List Bool} {c : Nat} (turn : s.atTurn (leDie e) = true)
    (serves : s.inService e = true) (ikiper : isTray e = false) (small : b.val < nBundles e) (free : jewel.val ∈ s.freeJewels e b)
    (lane : c = nMain e + jewel) : Does (.jewelRecentre e b jewel delay thresh bits) s fun t =>
      t.tap e b c Reg.IKL_COEF_DELAY = stepTap 64 (s.tap e b c Reg.IKL_COEF_DELAY) delay := by
  have go : (s.atTurn (leDie e) && s.inService e && !isTray e && decide (b.val < nBundles e) &&
      decide (jewel.val ∈ s.freeJewels e b)) = true := by
    rw [turn, serves, ikiper, decide_eq_true small, decide_eq_true free]; rfl
  subst lane
  unfold Does
  show ∃ t, execJewelRecentre e b jewel delay thresh bits s = .next t ∧ _
  simp only [execJewelRecentre, go, if_true]
  refine ⟨_, rfl, ?_⟩
  obtain ⟨u, hu⟩ : ∃ u, u = s.setTap e b (nMain e + jewel) Reg.IKL_COEF_DELAY
    (stepTap 64 (s.tap e b (nMain e + jewel) Reg.IKL_COEF_DELAY) delay) := ⟨_, rfl⟩
  rw [← hu]
  have centred : u.tap e b (nMain e + jewel) Reg.IKL_COEF_DELAY = stepTap 64 (s.tap e b (nMain e + jewel) Reg.IKL_COEF_DELAY) delay := by
    rw [hu]
    exact (State.getF_setF_same ..).trans (Nat.mod_eq_of_lt (stepTap_lt (by decide) ..))
  have first : Only (Field.but (.ofReg .ikl Reg.IKL_COEF_DELAY)) u
      (u.setTap e b (nMain e + jewel) Reg.IKL_COEF_THRESH
        (stepTap (threshSteps (isFp e)) (u.tap e b (nMain e + jewel) Reg.IKL_COEF_THRESH) thresh)) :=
    (Only.refl u).setTap (hp := Allow.but (by decide)) ..
  have only := first.countLane e b (nMain e + jewel) (errCount (laneErrs false false (nMain e + jewel) bits)) (Allow.but (by decide))
    (Allow.but (by decide)) (Allow.but (by decide)) (Allow.but (by decide)) (Allow.but (by decide)) (Allow.but (by decide))
  exact (Field.getF_of_same only.kept ..).trans centred

/-- Settles O7, one lemma for each clause. -/
theorem laneRepairCommandsComplete : Obligations.LaneRepairCommandsComplete := by
  unfold Obligations.LaneRepairCommandsComplete
  exact ⟨fun e b lane ui l j js s => does_laneNoTransition, fun e r box u s => does_laneRepair, fun e b s => does_jewelStreamStart,
    fun e b lane j eff ack s => does_laneRepairTakeover, fun e b s => does_laneRepairTxCutover,
    fun e b jewel delay thresh bits c s turn serves ikiper small free lane _ => does_jewelRecentre turn serves ikiper small free lane⟩

end Sys2Proof.Machine
end

section
/-! The training of a link end (R90 to R103, R123, R124, R149, R196). -/

namespace Sys2Proof.Machine

variable {s t u z : State} {e : LinkEnd}

/-! ### The reset of a link end ends -/

/-- What a link end notes of its calibration. -/
def LinkSt.calib (l : LinkSt) : Nat × Nat × Bool := (l.since, l.calAt, l.testDone)

theorem State.calib_setBun (s : State) (e : LinkEnd) (b : Nat) (x : BundleSt) : ((s.setBun e b x).link e).calib = (s.link e).calib := by
  unfold State.setBun
  rw [State.link_setLink_same]
  rfl

theorem State.calib_of_links (h : Field.same .links s t) (e : LinkEnd) : (t.link e).calib = (s.link e).calib := by
  rw [State.link_of_same h]

theorem State.calib_beginFull (s : State) (e : LinkEnd) (b : Nat) (fell : Bool) : ((s.beginFull e b fell).link e).calib = (s.link e).calib := by
  unfold State.beginFull
  dsimp only
  rw [State.calib_setBun]
  refine State.calib_of_links (Only.kept (x := .links) (Only.foldl _ (fun w c hw => ?_) (Only.refl s))) e
  exact ((((((hw.setTap (hp := Allow.but (by decide)) ..).setTap (hp := Allow.but (by decide)) ..).setTap
    (hp := Allow.but (by decide)) ..).setTap (hp := Allow.but (by decide)) ..).setTap (hp := Allow.but (by decide)) ..).setTap
    (hp := Allow.but (by decide)) ..).setTap
    (hp := Allow.but (by decide)) ..

theorem State.calib_beginCal (s : State) (e : LinkEnd) (b : Nat) : ((s.beginCal e b).link e).calib = (s.link e).calib := by
  unfold State.beginCal
  dsimp only
  split
  · exact State.calib_setBun ..
  split
  · exact State.calib_beginFull ..
  split
  · exact State.calib_setBun ..
  split
  · exact State.calib_beginFull ..
  split
  · rw [State.calib_beginFull]
    exact State.calib_of_links ((Only.refl s).logLink e _ _ _ (Allow.but (by decide)) (Allow.but (by decide))).kept e
  · rw [State.calib_setBun]
    exact State.calib_of_links ((Only.refl s).putSeed e b _ (Allow.but (by decide)) (Allow.but (by decide))).kept e

theorem State.calib_enterCalib (s : State) (e : LinkEnd) : ((s.enterCalib e).link e).calib = (s.time, s.time, false) := by
  obtain ⟨v, hv⟩ : ∃ v, v = (if isTray e then s else s.setF (leDie e) .ikl (leInst e) Reg.IKL_CAL_STATUS_DONE 0).measureZref e :=
    ⟨_, rfl⟩
  have time : v.time = s.time := by
    rw [hv]
    exact (((Kept.refl s).ite ((Kept.refl s).setF ..)).measureZref e).clock
  unfold State.enterCalib
  dsimp only
  rw [← hv]
  refine List.foldlRecOn (motive := fun w : State => (w.link e).calib = (s.time, s.time, false)) _ _ ?_ fun w hw b _ => ?_
  · rw [State.toSt_link, State.link_setLink_same]
    exact Prod.ext time rfl
  · rw [State.calib_beginCal]
    exact hw

theorem does_resetRetry (ikiper : isTray e = false) (reset : s.lst e = stReset) (on : s.enabled .cal (leDie e) (leInst e) = true)
    (fp : isFp e = true → (s.link e).jointFree = true ∧ (s.fpLine (linkCode e)).asserted = false)
    (sp : isFp e = false → (s.link e).noPartner = 0 ∨ (s.link e).noPartner - 1 + 16 * turnBeats ≤ s.time) :
    Does (.resetRetry e) s fun t => (t.link e).since = s.time ∧ (t.link e).calAt = s.time ∧ (t.link e).testDone = false := by
  have free : (if isFp e then (s.link e).jointFree && !(s.fpLine (linkCode e)).asserted
      else (s.link e).noPartner == 0 || decide ((s.link e).noPartner - 1 + 16 * turnBeats ≤ s.time)) = true := by
    split
    · rw [(fp ‹_›).1, (fp ‹_›).2]; rfl
    · rcases sp (Bool.eq_false_iff.mpr ‹_›) with h | h
      · rw [h]; rfl
      · rw [decide_eq_true h, Bool.or_true]
  refine .intro (t := s.enterCalib e) ?_ ?_
  · show execResetRetry e s = _
    have go : (!isTray e && s.lst e == stReset && s.enabled .cal (leDie e) (leInst e)) = true := by rw [ikiper, reset, on]; rfl
    simp only [execResetRetry, free, go, Bool.and_self, if_true]
  · have calib := s.calib_enterCalib e
    simp only [LinkSt.calib, Prod.mk.injEq] at calib
    exact calib

/-! ### A point of a search ends -/

/-- Bits set where a test holds. -/
theorem bit_foldl_setBit (p : Nat → Bool) (j : Nat) : ∀ (l : List Nat) (m : Nat),
    bit (l.foldl (fun m c => if p c then setBit m c else m) m) j = (bit m j || (decide (j ∈ l) && p j))
  | [], m => by simp
  | c :: l, m => by
    rw [List.foldl_cons, bit_foldl_setBit p j l]
    by_cases e : c = j
    · subst e
      cases h : p c <;> simp [bit_setBit]
    · have e' : ¬ j = c := fun h => e h.symm
      split <;> simp [bit_setBit, e, e']

theorem bit_zero (j : Nat) : bit 0 j = false := by
  simp [bit]

/-- A lane passes a point when its checker finds no error. -/
theorem bit_passed (code : Nat → Nat) (bits : List (List Bool)) {c : Nat} (h : c < 21) :
    bit ((List.range 21).foldl (fun m c => if bit (errMask false false 21 code bits) c then m else setBit m c) 0) c =
      !(laneErrs false false (code c) (bits.getD c [])).any id := by
  have turned : (fun (m c : Nat) => if bit (errMask false false 21 code bits) c then m else setBit m c) =
      fun m c => if (!bit (errMask false false 21 code bits) c) then setBit m c else m := by
    funext m c
    cases bit (errMask false false 21 code bits) c <;> rfl
  have there : c ∈ List.range 21 := List.mem_range.mpr h
  rw [turned, bit_foldl_setBit, bit_zero, decide_eq_true there, Bool.false_or, Bool.true_and]
  unfold errMask
  rw [bit_foldl_setBit, bit_zero, decide_eq_true there, Bool.false_or, Bool.true_and]

theorem does_searchPointEnd_ikl {b : Fin 16} {bits : List (List Bool)} {eyes taps snr : List Nat} (ikiper : isTray e = false)
    (calib : s.lst e = stCalib) (in_ : s.calOut e b = false) (full : (s.bun e b).search.mode = 1)
    (dwelt : (s.bun e b).search.at_ + s.dwellFrames e * frameBeats ≤ s.time)
    (more : (s.bun e b).search.point + 1 < ((searchPlan (isFp e) false).getD (s.bun e b).search.step (0, 0)).2) :
    Does (.searchPointEnd e b bits eyes taps snr) s fun t => (t.bun e b).search.point = (s.bun e b).search.point + 1 ∧
      (t.bun e b).search.at_ = s.time ∧ ∃ pass, (t.bun e b).search.hist = (pass, 0) :: (s.bun e b).search.hist ∧
        ∀ c < 21, bit pass c = !(laneErrs false false (s.laneCode e b c) (bits.getD c [])).any id := by
  obtain ⟨u, hu⟩ : ∃ u, u = s.compliance e b bits := ⟨_, rfl⟩
  have counted {l : List Field} (h : ∀ y ∈ [Field.ofReg .ikl Reg.IKL_EYE_WIN_ERR, .ofReg .trayPort Reg.TRYP_EYE_WIN_ERR], y ∉ l) :
      Only (Field.outside l) s u := hu ▸ (Only.refl s).compliance e b bits (Allow.outside h)
  have time : u.time = s.time := hu ▸ ((Kept.refl s).compliance e b bits).clock
  have bun : u.bun e b = s.bun e b := State.bun_of_links ((counted (l := [.links]) (by decide)).keeps (by decide)) e b
  have lst : u.lst e = stCalib := (State.lst_of_same (counted (by decide)) e).trans calib
  have in_' : u.calOut e b = false := by
    refine Eq.trans ?_ in_
    cases e with
    | tray n => rfl
    | ikl d sl =>
      exact congrArg (· == 1) (Field.getF_of_same (d := d) (i := sl.val) (k := bOff b)
        ((counted (l := [.ofReg .ikl Reg.IKL_BPHY_CAL_OUT]) (by decide)).keeps (List.mem_singleton.mpr rfl)))
  have code : u.laneCode e b = s.laneCode e b := by
    funext c
    unfold State.laneCode
    rw [lst, calib]
    rfl
  have go : ((s.bun e b).search.mode == 0 || (s.bun e b).search.mode == 3 ||
      !(s.lst e == stCalib || s.lst e == stLanetest || false)) = false := by
    rw [full, calib]; rfl
  have notSeeded : ((s.bun e b).search.mode == 2) = false := by rw [full]; rfl
  unfold Does
  show ∃ t, execSearchPointEnd e b bits eyes taps snr s = .next t ∧ _
  simp only [execSearchPointEnd, go, ikiper, in_, Bool.false_eq_true, if_false, dwelt, if_true, ← hu, State.pointEnd, bun, notSeeded,
    in_', code, more]
  refine ⟨_, rfl, ?_⟩
  rw [State.bun_setBun_same]
  exact ⟨rfl, time, _, rfl, fun c hc => bit_passed (s.laneCode e b) bits hc⟩

/-! ### The adaptation of a tray port ends -/

/-- The taps of a lane that an adaptation found, and what its ratio says of its floor. -/
def State.adaptLane (t : State) (e : LinkEnd) (w q c : Nat) : State :=
  let d := leDie e; let i := leInst e
  let t1 := (((t.setF d .trayPort i Reg.TRYP_COEF_TXPRE (bitsOf w 0 4) (8 * c)).setF d .trayPort i Reg.TRYP_COEF_TXPOST
    (bitsOf w 4 4) (8 * c)).setF d .trayPort i Reg.TRYP_COEF_CTLE (bitsOf w 8 4) (8 * c)).setF d .trayPort i
    Reg.TRYP_COEF_VALID 1 (8 * c)
  let t2 := (t1.setF d .trayPort i Reg.TRYP_EYE_SNR q (8 * c)).setF d .trayPort i Reg.TRYP_EYE_FLOOR_FAIL
    (b2n (decide (q < 175))) (8 * c)
  if q < 175 then t2.logLink e 0x3005 else t2

/-- The lanes of a tray port that are used, adapted. -/
def State.adaptLanes (s : State) (e : LinkEnd) (taps snr : List Nat) : State :=
  ((List.range 9).filter (s.laneUsed e 0)).foldl (fun t c => t.adaptLane e (taps.getD c 0) (snr.getD c 0) c) s

theorem State.trayCal_eq (s : State) (e : LinkEnd) (taps snr : List Nat) : s.trayCal e taps snr =
    ((s.adaptLanes e taps snr).setBun e 0 { (s.adaptLanes e taps snr).bun e 0 with
      search := { ((s.adaptLanes e taps snr).bun e 0).search with mode := 3 } }).afterSearch e := rfl

/-- The tap of a lane that one adaptation leaves: its own after its own, the tap as it was after another's. -/
theorem State.txpre_adaptLane (t : State) (e : LinkEnd) (w q c k : Nat) :
    (t.adaptLane e w q c).getF (leDie e) .trayPort (leInst e) Reg.TRYP_COEF_TXPRE (8 * k) =
      if c = k then bitsOf w 0 4 else t.getF (leDie e) .trayPort (leInst e) Reg.TRYP_COEF_TXPRE (8 * k) := by
  obtain ⟨u, hu⟩ : ∃ u, u = t.setF (leDie e) .trayPort (leInst e) Reg.TRYP_COEF_TXPRE (bitsOf w 0 4) (8 * c) := ⟨_, rfl⟩
  have rest : Only (Field.but (.ofReg .trayPort Reg.TRYP_COEF_TXPRE)) u (t.adaptLane e w q c) := by
    have plain := (((((Only.refl u).setF (hp := Allow.but (x := .ofReg .trayPort Reg.TRYP_COEF_TXPRE) (by decide)) (leDie e) .trayPort (leInst e)
      Reg.TRYP_COEF_TXPOST (bitsOf w 4 4) (8 * c)).setF (hp := Allow.but (by decide)) (leDie e) .trayPort (leInst e) Reg.TRYP_COEF_CTLE
      (bitsOf w 8 4) (8 * c)).setF (hp := Allow.but (by decide)) (leDie e) .trayPort (leInst e) Reg.TRYP_COEF_VALID 1 (8 * c)).setF
      (hp := Allow.but (by decide)) (leDie e) .trayPort (leInst e) Reg.TRYP_EYE_SNR q (8 * c)).setF (hp := Allow.but (by decide)) (leDie e)
      .trayPort (leInst e) Reg.TRYP_EYE_FLOOR_FAIL (b2n (decide (q < 175))) (8 * c)
    unfold State.adaptLane
    dsimp only
    rw [← hu]
    exact (plain.logLink e _ _ _ (Allow.but (by decide)) (Allow.but (by decide))).ite plain
  refine (Field.getF_of_same rest.kept ..).trans ?_
  rw [hu]
  split
  · subst c
    rw [State.getF_setF_same]
    exact Nat.mod_eq_of_lt (Nat.mod_lt _ (by decide))
  · exact State.getF_setF_ne _ (fkey_ne (by decide) (by decide) (.inl (by omega)))

theorem does_searchPointEnd_tray {n : Fin 8} {b : Fin 16} {bits : List (List Bool)} {eyes taps snr : List Nat} {c : Nat}
    (calib : s.lst (.tray n) = stCalib) (adapts : (s.bun (.tray n) b).search.mode = 1) (small : c < 9)
    (used : s.laneUsed (.tray n) 0 c = true) (found : taps.getD c 0 % 16 = c) :
    Does (.searchPointEnd (.tray n) b bits eyes taps snr) s fun t => (t.bun (.tray n) 0).search.mode = 3 ∧
      t.getF (leDie (.tray n)) .trayPort (leInst (.tray n)) Reg.TRYP_COEF_TXPRE (8 * c) = c := by
  have go : ((s.bun (.tray n) b).search.mode == 0 || (s.bun (.tray n) b).search.mode == 3 ||
      !(s.lst (.tray n) == stCalib || s.lst (.tray n) == stLanetest || s.calOut (.tray n) b)) = false := by
    rw [adapts, calib]; rfl
  refine .intro (t := s.trayCal (.tray n) taps snr) ?_ ⟨?_, ?_⟩
  · show execSearchPointEnd (.tray n) b bits eyes taps snr s = _
    simp only [execSearchPointEnd, go, isTray, Bool.false_eq_true, if_false, if_true]
  · rw [State.trayCal_eq]
    obtain ⟨m, after⟩ := State.bun_afterSearch ((s.adaptLanes (.tray n) taps snr).setBun (.tray n) 0
      { (s.adaptLanes (.tray n) taps snr).bun (.tray n) 0 with
        search := { ((s.adaptLanes (.tray n) taps snr).bun (.tray n) 0).search with mode := 3 } }) (.tray n) 0
    rw [after, State.bun_setBun_same]
  · have shown : (s.adaptLanes (.tray n) taps snr).getF (leDie (.tray n)) .trayPort (leInst (.tray n)) Reg.TRYP_COEF_TXPRE (8 * c) = c := by
      refine foldl_does (P := fun c v => bitsOf (taps.getD c 0) 0 4 = c →
        v.getF (leDie (.tray n)) .trayPort (leInst (.tray n)) Reg.TRYP_COEF_TXPRE (8 * c) = c) (fun v a own => ?_) (fun v a b keep own => ?_) _ s
        (.inr (List.mem_filter.mpr ⟨List.mem_range.mpr small, used⟩)) (by simpa [bitsOf] using found)
      · rw [State.txpre_adaptLane, if_pos rfl, own]
      · rw [State.txpre_adaptLane]
        split
        · subst a; exact own
        · exact keep own
    have after : Only (Field.but (.ofReg .trayPort Reg.TRYP_COEF_TXPRE)) (s.adaptLanes (.tray n) taps snr) (s.trayCal (.tray n) taps snr) := by
      rw [State.trayCal_eq]
      exact ((Only.refl _).setBun (hp := Allow.but (by decide)) ..).afterSearch _ (Allow.but (by decide)) (Allow.but (by decide))
        (Allow.but (by decide))
    exact (Field.getF_of_same after.kept ..).trans shown

end Sys2Proof.Machine
end

section
/-! The lane test, the lane maps and the pinning of a link end (R96 to R98, R123, R124, R149). -/

namespace Sys2Proof.Machine

variable {s t u v z : State} {e : LinkEnd}

/-! ### The lane test ends -/

theorem State.live_of_retired (h : ∀ b, t.retired e b = s.retired e b) : t.live e = s.live e := by
  unfold State.live
  simp only [h]

/-- What no lane test that a bundle passes changes. -/
structure Tested (e : LinkEnd) (s t : State) : Prop where
  search : ∀ b, (t.bun e b).search = (s.bun e b).search
  retired : ∀ b, t.retired e b = s.retired e b
  tested : ∀ b, (s.bun e b).tested = true → (t.bun e b).tested = true

theorem Tested.refl (e : LinkEnd) (s : State) : Tested e s s := ⟨fun _ => rfl, fun _ => rfl, fun _ => id⟩

theorem Tested.trans (h : Tested e s t) (g : Tested e t u) : Tested e s u :=
  ⟨fun b => (g.search b).trans (h.search b), fun b => (g.retired b).trans (h.retired b), fun b => g.tested b ∘ h.tested b⟩

theorem Tested.compliance (s : State) (e : LinkEnd) (b : Nat) (bits : List (List Bool)) : Tested e s (s.compliance e b bits) := by
  have same (c : Nat) : (s.compliance e b bits).bun e c = s.bun e c :=
    State.bun_of_links ((Only.refl s).compliance e b bits (Allow.but (x := .links) (by decide))).kept e c
  exact ⟨fun c => by rw [same], State.retired_of_same ((Only.refl s).compliance e b bits (Allow.outside (by decide))) e,
    fun c h => by rw [same]; exact h⟩

/-- A bundle that has no search to repeat passes its test. -/
theorem Tested.testEnd {b : Nat} (mask : Nat) (ok : isTray e = true ∨ (s.bun e b).search.seeded = false) :
    Tested e s (s.testEnd e b mask) ∧ ((s.testEnd e b mask).bun e b).tested = true := by
  obtain ⟨bad, step⟩ : ∃ bad, s.testEnd e b mask = s.setBun e b { s.bun e b with testBad := bad, tested := true } := by
    unfold State.testEnd
    dsimp only
    rw [if_neg (by rcases ok with h | h <;> simp [h])]
    exact ⟨_, rfl⟩
  rw [step]
  refine ⟨⟨fun c => ?_, fun _ => rfl, fun c h => ?_⟩, by rw [State.bun_setBun_same]⟩
  · by_cases same : c = b
    · rw [same, State.bun_setBun_same]
    · rw [State.bun_setBun_ne _ _ _ same]
  · by_cases same : c = b
    · rw [same, State.bun_setBun_same]
    · rw [State.bun_setBun_ne _ _ _ same]; exact h

/-- The end of the lane tests of a list of bundles. -/
def State.testEnds (s : State) (e : LinkEnd) (bits : List (List (List Bool))) (l : List Nat) : State :=
  l.foldl (fun t b => (t.compliance e b (bits.getD b [])).testEnd e b (t.testFails e b (bits.getD b []))) s

theorem Tested.testEnds (bits : List (List (List Bool))) : ∀ (l : List Nat) (s : State),
    (∀ b ∈ l, isTray e = true ∨ (s.bun e b).search.seeded = false) →
    Tested e s (s.testEnds e bits l) ∧ ∀ b ∈ l, ((s.testEnds e bits l).bun e b).tested = true
  | [], s, _ => ⟨Tested.refl e s, fun _ h => absurd h List.not_mem_nil⟩
  | a :: l, s, ok => by
    have first := Tested.compliance s e a (bits.getD a [])
    have own : isTray e = true ∨ ((s.compliance e a (bits.getD a [])).bun e a).search.seeded = false := by
      rw [first.search]; exact ok a List.mem_cons_self
    obtain ⟨one, done⟩ := Tested.testEnd (s.testFails e a (bits.getD a [])) own
    obtain ⟨rest, all_⟩ := Tested.testEnds bits l _ fun b hb => by
      rw [(first.trans one).search]; exact ok b (List.mem_cons_of_mem a hb)
    refine ⟨(first.trans one).trans rest, fun b hb => ?_⟩
    rcases List.mem_cons.mp hb with rfl | hb
    · exact rest.tested _ done
    · exact all_ b hb

theorem does_lanetestEnd {bits : List (List (List Bool))} (tests : s.lst e = stLanetest) (fresh : (s.link e).testDone = false)
    (all_ : ∀ b ∈ s.live e, (s.bun e b).tested = true ∨ (s.bun e b).search.mode = 3 ∧
      (isTray e = true ∨ (s.bun e b).search.seeded = false) ∧ (s.bun e b).testAt ≠ 0 ∧
      (s.bun e b).testAt - 1 + s.testTurns e b * turnBeats ≤ s.time) :
    Does (.lanetestEnd e bits) s fun t => (t.link e).testDone = true ∧ (t.link e).testDoneAt = s.time := by
  obtain ⟨due, hdue⟩ : ∃ due : Nat → Bool, due = fun b =>
    (s.bun e b).search.mode == 3 && !(s.bun e b).tested && (s.bun e b).testAt != 0 &&
    decide ((s.bun e b).testAt - 1 + s.testTurns e b * turnBeats ≤ s.time) := ⟨_, rfl⟩
  have isDue (b : Nat) (live : b ∈ s.live e) (new : (s.bun e b).tested = false) : due b = true := by
    rcases all_ b live with h | ⟨mode, -, at_, time⟩
    · exact absurd (h.symm.trans new) (by decide)
    · rw [hdue]
      simp only [mode, new, bne_iff_ne.mpr at_, decide_eq_true time]
      rfl
  obtain ⟨kept, done⟩ := Tested.testEnds (e := e) (s := s) bits ((s.live e).filter due) fun b hb => by
    obtain ⟨live, now⟩ := List.mem_filter.mp hb
    rcases all_ b live with h | ⟨-, ok, -⟩
    · rw [hdue] at now
      simp [h] at now
    · exact ok
  have everyone : (((s.testEnds e bits ((s.live e).filter due)).live e).all fun b =>
      ((s.testEnds e bits ((s.live e).filter due)).bun e b).tested) = true := by
    rw [State.live_of_retired kept.retired]
    refine List.all_eq_true.mpr fun b live => ?_
    cases new : (s.bun e b).tested with
    | true => exact kept.tested b new
    | false => exact done b (List.mem_filter.mpr ⟨live, isDue b live new⟩)
  have go : (s.lst e == stLanetest && !(s.link e).testDone) = true := by rw [tests, fresh]; rfl
  obtain ⟨v, hv⟩ : ∃ v, v = s.testEnds e bits ((s.live e).filter due) := ⟨_, rfl⟩
  refine .intro (t := v.setLink e { v.link e with testDone := true, testDoneAt := s.time, calibrated := true }) ?_ ?_
  · rw [← hv] at everyone
    have fold := hv
    unfold State.testEnds at fold
    show execLanetestEnd e bits s = _
    simp only [execLanetestEnd, go, if_true, ← hdue, ← fold, everyone]
  · rw [State.link_setLink_same]
    exact ⟨rfl, rfl⟩

/-! ### The lane maps -/

theorem State.rxMap_of_same (h : Only (Field.outside laneMapRegs) s t) (e : LinkEnd) (b : Nat) : t.rxMap e b = s.rxMap e b := by
  have same (fi ft : Fld) (k : Nat) (hi : Field.ofReg .ikl fi ∈ laneMapRegs) (ht : Field.ofReg .trayPort ft ∈ laneMapRegs) :
      t.lf e fi ft k = s.lf e fi ft k := by
    cases e with
    | ikl d sl => exact Field.getF_of_same (h.keeps hi) ..
    | tray n => exact Field.getF_of_same (h.keeps ht) ..
  unfold State.rxMap State.retired
  simp only [same Reg.IKL_LANEMAP_J0_TGT Reg.TRYP_LANEMAP_SPARE_TGT _ (by decide) (by decide),
    same Reg.IKL_LANEMAP_J0_BAD Reg.TRYP_LANEMAP_SPARE_BAD _ (by decide) (by decide),
    same Reg.IKL_LANEMAP_J1_TGT Reg.TRYP_LANEMAP_SPARE_TGT _ (by decide) (by decide),
    same Reg.IKL_LANEMAP_J1_BAD Reg.TRYP_LANEMAP_SPARE_BAD _ (by decide) (by decide),
    same Reg.IKL_LANEMAP_RETIRED Reg.TRYP_LANEMAP_RETIRED _ (by decide) (by decide),
    same Reg.IKL_BPHY_RETIRED Reg.TRYP_LANEMAP_RETIRED _ (by decide) (by decide)]

/-- What the computation of a map that leaves its bundle in service keeps. -/
structure Mapped (e : LinkEnd) (s t : State) : Prop where
  maps : Only (Field.outside laneMapRegs) s t
  testBad : ∀ b, (t.bun e b).testBad = (s.bun e b).testBad

theorem Mapped.computeMap {b : Nat} (h : Mapped e z s) (ok : (laneMapOf e (z.rxMap e b) (z.bun e b).testBad).retired = false) :
    Mapped e z (s.computeMap e b) := by
  rw [← h.testBad, ← State.rxMap_of_same h.maps] at ok
  obtain ⟨l, hl⟩ : ∃ l, l = (List.range (nMain e)).filter fun c =>
    bit (s.bun e b).testBad c && c != (s.rxMap e b).t0 && c != (s.rxMap e b).t1 := ⟨_, rfl⟩
  obtain ⟨v, hv⟩ : ∃ v, v = l.foldl (fun (t : State) _ => t.logLink e 0x3001) s := ⟨_, rfl⟩
  have logged {pt : Field → Bool} {y : State} (g : Only pt y s) (h0 : Allow pt evtRegs) (h1 : Allow pt [.dies]) : Only pt y v :=
    hv ▸ Only.foldl _ (fun w _ hw => hw.logLink e _ _ _ h0 h1) g
  have bun (c : Nat) : v.bun e c = s.bun e c :=
    State.bun_of_links (logged (Only.refl s) (Allow.but (x := .links) (by decide)) (Allow.but (by decide))).kept e c
  unfold State.computeMap
  simp only [ok, Bool.false_eq_true, if_false, ← hl, ← hv]
  refine ⟨((logged h.maps (Allow.outside (by decide)) (Allow.outside (by decide))).setBun (hp := Allow.outside (by decide)) ..).sbSend
    (hp := Allow.outside (by decide)) .., fun c => (?_ : _ = (s.bun e c).testBad).trans (h.testBad c)⟩
  rw [State.bun_sbSend]
  by_cases same : c = b
  · rw [same, State.bun_setBun_same, bun]
  · rw [State.bun_setBun_ne _ _ _ same, bun]

theorem Mapped.computeMaps {l : List Nat} (ok : ∀ b ∈ l, (laneMapOf e (s.rxMap e b) (s.bun e b).testBad).retired = false) :
    Mapped e s (l.foldl (fun (t : State) b => t.computeMap e b) s) :=
  List.foldlRecOn (motive := fun w : State => Mapped e s w) l _ ⟨Only.refl s, fun _ => rfl⟩ fun _ hw b hb => hw.computeMap (ok b hb)

theorem does_lanetestExit (tests : s.lst e = stLanetest) (done : (s.link e).testDone = true) (partner : (s.link e).gotDone = true)
    (frame : s.atFrame (leDie e) = true) (some_ : s.live e ≠ [])
    (ok : ∀ b ∈ s.live e, (laneMapOf e (s.rxMap e b) (s.bun e b).testBad).retired = false) :
    Does (.lanetestExit e) s fun t => t.lst e = stDeskew := by
  have go : (s.lst e == stLanetest && (s.link e).testDone && (s.link e).gotDone && s.atFrame (leDie e)) = true := by
    rw [tests, done, partner, frame]; rfl
  have live : ((s.live e).foldl (fun (t : State) b => t.computeMap e b) s).live e = s.live e :=
    State.live_of_retired (State.retired_of_same ((Mapped.computeMaps ok).maps.fewer (by decide)) e)
  have left : (s.live e == []) = false := beq_eq_false_iff_ne.mpr some_
  unfold Does
  show ∃ t, execLanetestExit e s = .next t ∧ _
  simp only [execLanetestExit, go, if_true, live, left, Bool.false_eq_true, if_false]
  exact ⟨_, rfl, State.lst_toSt _ _ _ (by decide)⟩

theorem does_lanemap {r : SbSlot} {box b : Nat} (takes : s.sbTakesFirst e r 0x10 = (some box, u)) (bundle : bitsOf box 14 4 = b)
    (small : b < nBundles e) : Does (.lanemap e r) s fun t => (t.bun e b).txPend =
      some ⟨bitsOf box 18 5, bit box 23, bitsOf box 24 5, bit box 29, bit box 30⟩ := by
  subst bundle
  unfold Does
  show ∃ t, execLanemap e r s = .next t ∧ _
  simp only [execLanemap, takes, small, if_true]
  refine ⟨_, rfl, ?_⟩
  rw [State.bun_setBun_same]

/-! ### The maps applied -/

/-- The map of a bundle's receiver, applied once acknowledged. -/
def State.applyRx (s : State) (e : LinkEnd) (b : Nat) : State :=
  let x := s.bun e b
  match x.rxPend with
  | some m => if x.mapAcked then
      (s.setRxMap e b { m with retired := m.retired || s.retired e b }).setBun e b
        { x with rxPend := none, rxApplied := true, mapAcked := false }
    else s
  | none => s

/-- The map of a bundle's transmitter, applied once its acknowledgement has arrived. -/
def State.applyTx (s : State) (e : LinkEnd) (b : Nat) : State :=
  let y := s.bun e b
  match y.txPend with
  | some m =>
    if y.txAckAt == 0 || decide (s.time < y.txAckAt - 1) then s
    else
      let s2 := (s.setTxMap e b { m with retired := m.retired || s.retired e b }).setBun e b
        { y with txPend := none, txApplied := true, txAckAt := 0 }
      if m.retired && !s.retired e b then s2.markRetired e b else s2
  | none => s

theorem State.time_applyRx (s : State) (e : LinkEnd) (b : Nat) : (s.applyRx e b).time = s.time := by
  unfold State.applyRx
  dsimp only
  split
  · exact (Kept.ite (((Kept.refl s).setRxMap ..).setBun ..) (Kept.refl s)).clock
  · rfl

theorem State.applyMaps_eq (s : State) (e : LinkEnd) (b : Nat) : s.applyMaps e b = (s.applyRx e b).applyTx e b := by
  unfold State.applyTx
  rw [State.time_applyRx]
  rfl

/-- A bundle with what it notes of the map of its receiver. -/
def BundleSt.noteRx (x : BundleSt) (p : Option LaneMap) (a k : Bool) : BundleSt := { x with rxPend := p, rxApplied := a, mapAcked := k }

/-- A received map applied changes only what its own bundle notes of it. -/
theorem State.bun_applyRx (s : State) (e : LinkEnd) (b : Nat) :
    ∃ p a k, ∀ c, (s.applyRx e b).bun e c = if c = b then (s.bun e b).noteRx p a k else s.bun e c := by
  have same : ∃ p a k, ∀ c, s.bun e c = if c = b then (s.bun e b).noteRx p a k else s.bun e c :=
    ⟨(s.bun e b).rxPend, (s.bun e b).rxApplied, (s.bun e b).mapAcked, fun c => by
      split
      · rw [‹c = b›]; rfl
      · rfl⟩
  unfold State.applyRx
  dsimp only
  split
  · split
    · refine ⟨none, true, false, fun c => ?_⟩
      split
      · rw [‹c = b›, State.bun_setBun_same]; rfl
      · rw [State.bun_setBun_ne _ _ _ ‹c ≠ b›, State.bun_setRxMap]
    · exact same
  · exact same

theorem State.bun_setTxMap (s : State) (e e' : LinkEnd) (b b' : Nat) (m : LaneMap) : (s.setTxMap e b m).bun e' b' = s.bun e' b' :=
  State.bun_of_links ((Only.refl s).setTxMap e b m (Allow.but (by decide))).kept e' b'

theorem State.bun_applyTx_ne (s : State) (e : LinkEnd) {b c : Nat} (h : c ≠ b) : (s.applyTx e b).bun e c = s.bun e c := by
  unfold State.applyTx
  dsimp only
  split
  · split
    · rfl
    · split
      · rw [State.bun_markRetired_eq, State.bun_setBun_ne _ _ _ h, State.bun_setBun_ne _ _ _ h, State.bun_setTxMap]
      · rw [State.bun_setBun_ne _ _ _ h, State.bun_setTxMap]
  · rfl

theorem State.bun_applyMaps_ne (s : State) (e : LinkEnd) {b c : Nat} (h : c ≠ b) : (s.applyMaps e b).bun e c = s.bun e c := by
  obtain ⟨p, a, k, rx⟩ := s.bun_applyRx e b
  rw [State.applyMaps_eq, State.bun_applyTx_ne _ _ h, rx, if_neg h]

/-- The map of a bundle's transmitter is applied. -/
def BundleSt.TxDone (x : BundleSt) : Prop := x.txPend = none ∧ x.txApplied = true

theorem State.txDone_applyMaps {b : Nat} {m : LaneMap} (pend : (s.bun e b).txPend = some m) (acked : (s.bun e b).txAckAt ≠ 0)
    (due : (s.bun e b).txAckAt - 1 ≤ s.time) (stays : m.retired = false) : ((s.applyMaps e b).bun e b).TxDone := by
  obtain ⟨p, a, k, rx⟩ := s.bun_applyRx e b
  have own := (rx b).trans (if_pos rfl)
  have time := s.time_applyRx e b
  rw [State.applyMaps_eq]
  obtain ⟨u, hu⟩ : ∃ u, u = s.applyRx e b := ⟨_, rfl⟩
  rw [← hu] at own time ⊢
  have go : ((u.bun e b).txAckAt == 0 || decide (u.time < (u.bun e b).txAckAt - 1)) = false := by
    rw [own, time]
    show ((s.bun e b).txAckAt == 0 || decide (s.time < (s.bun e b).txAckAt - 1)) = false
    rw [beq_eq_false_iff_ne.mpr acked, decide_eq_false (Nat.not_lt.mpr due)]; rfl
  have pend' : (u.bun e b).txPend = some m := by rw [own]; exact pend
  unfold State.applyTx
  simp only [pend', go, Bool.false_eq_true, if_false, stays, Bool.false_and]
  rw [State.bun_setBun_same]
  exact ⟨rfl, rfl⟩

theorem State.txDone_applyMaps_of_done {b : Nat} (done : (s.bun e b).TxDone) (c : Nat) : ((s.applyMaps e c).bun e b).TxDone := by
  by_cases same : b = c
  · subst c
    obtain ⟨p, a, k, rx⟩ := s.bun_applyRx e b
    have own := (rx b).trans (if_pos rfl)
    have none_ : ((s.applyRx e b).bun e b).txPend = none := by rw [own]; exact done.1
    rw [State.applyMaps_eq]
    unfold State.applyTx
    simp only [none_]
    rw [own]
    exact done
  · rw [State.bun_applyMaps_ne _ _ same]
    exact done

theorem State.txDone_foldl {b : Nat} {m : LaneMap} (pend : (s.bun e b).txPend = some m) (acked : (s.bun e b).txAckAt ≠ 0)
    (due : (s.bun e b).txAckAt - 1 ≤ s.time) (stays : m.retired = false) : ∀ (l : List Nat) (v : State), v.time = s.time →
    ((v.bun e b).TxDone ∨ v.bun e b = s.bun e b ∧ b ∈ l) → ((l.foldl (fun (t : State) c => t.applyMaps e c) v).bun e b).TxDone
  | [], _, _, h => h.resolve_right fun g => List.not_mem_nil g.2
  | c :: l, v, time, h => by
    rw [List.foldl_cons]
    refine State.txDone_foldl pend acked due stays l _ (((Kept.refl v).applyMaps e c).clock.trans time) ?_
    rcases h with h | ⟨same, mem⟩
    · exact .inl (State.txDone_applyMaps_of_done h c)
    · by_cases own : b = c
      · subst c
        exact .inl (State.txDone_applyMaps (same ▸ pend) (same ▸ acked) (by rw [same, time]; exact due) stays)
      · exact .inr ⟨(State.bun_applyMaps_ne _ _ own).trans same, (List.mem_cons.mp mem).resolve_left own⟩

theorem State.bun_enterPin (s : State) (e : LinkEnd) (b : Nat) : (s.enterPin e).bun e b = s.bun e b := by
  have sent (x : Nat) : ((s.toSt e stPin).sbSend e 0x05 x).bun e b = s.bun e b := by
    rw [State.bun_sbSend]
    exact State.bun_of_bundles (by rw [State.toSt_link]) b
  unfold State.enterPin
  dsimp only
  split
  · exact sent _
  · exact (State.bun_of_bundles (by rw [State.link_setLink_same]) b).trans (sent _)

theorem does_lanemapApply {b : Nat} {m : LaneMap} (frame : s.atFrame (leDie e) = true) (small : b < nBundles e)
    (pend : (s.bun e b).txPend = some m) (acked : (s.bun e b).txAckAt ≠ 0) (due : (s.bun e b).txAckAt - 1 ≤ s.time)
    (stays : m.retired = false) : Does (.lanemapApply e) s fun t => (t.bun e b).txPend = none ∧ (t.bun e b).txApplied = true := by
  have done := State.txDone_foldl pend acked due stays (List.range (nBundles e)) s rfl (.inr ⟨rfl, List.mem_range.mpr small⟩)
  unfold Does
  show ∃ t, execLanemapApply e s = .next t ∧ _
  simp only [execLanemapApply, frame, Bool.not_true, Bool.false_eq_true, if_false]
  split
  · refine ⟨_, rfl, ?_⟩
    rw [State.bun_enterPin]
    exact done
  · exact ⟨_, rfl, done⟩

/-! ### Pinning -/

theorem does_pinProbe {r : SbSlot} {box : Nat} (takes : s.sbTakes e r 0x05 = (some box, u)) :
    Does (.pinProbe e r) s fun t => (t.link e).q = (u.link e).q ++ [{ mtype := 0x06, body := bitsOf box 6 8 * 2 ^ 6, aux := u.time }] := by
  refine .intro (t := u.sbSend e 0x06 (bitsOf box 6 8 * 2 ^ 6) u.time) ?_ (u.q_sbSend _ _ _ _ rfl)
  show execPinProbe e r s = _
  simp only [execPinProbe, takes]

/-- How a link end shows that it is pinned. -/
def LinkSt.Pinned (l : LinkSt) : Prop := l.pinned = true ∧ l.probeAt = 0

theorem State.pinned_sync (h : (s.link e).Pinned) (p : Bool) : ((if p then s.toSt e stSync else s).link e).Pinned := by
  split
  · rw [State.toSt_link]; exact h
  · exact h

/-- Depths that every bundle can keep are set. -/
theorem State.pinned_setPins {rt : Int} {later : Nat → Int}
    (deep : ∀ b ∈ s.live e, 1 ≤ depthFor e (s.latL e) (-((2 * (finBeats e : Int) - rt).fdiv 2) + later b)) :
    ((s.setPins e rt later).link e).Pinned := by
  have fits : ((s.live e).any fun b => decide (depthFor e (s.latL e) (-((2 * (finBeats e : Int) - rt).fdiv 2) + later b) < 1)) = false :=
    List.any_eq_false.mpr fun b hb short => absurd (of_decide_eq_true short) (not_lt.mpr (deep b hb))
  unfold State.setPins
  dsimp only
  rw [fits, if_neg Bool.false_ne_true]
  refine State.pinned_sync ?_ _
  rw [State.link_setLink_same]
  exact ⟨rfl, rfl⟩

theorem does_pinEcho {r : SbSlot} {arrivals : List Nat} {box lead : Nat} {rt : Int} (takes : s.sbTakes e r 0x06 = (some box, u))
    (pins : u.lst e = stPin) (probed : (u.link e).probeAt ≠ 0) (own : bitsOf box 6 8 = (u.link e).probeId % 256)
    (first : lead = (if isTray e then 0 else u.getF (leDie e) .ikl (leInst e) Reg.IKL_PHY_STATUS_LEAD))
    (trip : rt = (arrivals.getD lead 0 : Int) - ((u.link e).probeAt - 1 : Nat) - bitsOf box 14 16)
    (deep : ∀ b ∈ u.live e, 1 ≤ depthFor e (u.latL e)
      (-((2 * (finBeats e : Int) - rt).fdiv 2) + ((arrivals.getD b 0 : Int) - arrivals.getD lead 0))) :
    Does (.pinEcho e r arrivals) s fun t => (t.link e).Pinned := by
  have go : (u.lst e == stPin && (u.link e).probeAt != 0 && bitsOf box 6 8 == (u.link e).probeId % 256) = true := by
    rw [pins, bne_iff_ne.mpr probed, own, beq_self_eq_true, beq_self_eq_true]; rfl
  refine .intro (t := u.setPins e rt fun b => (arrivals.getD b 0 : Int) - arrivals.getD lead 0) ?_ (State.pinned_setPins deep)
  subst trip first
  show execPinEcho e r arrivals s = _
  simp only [execPinEcho, takes, go, if_true]

/-- Settles O5, one lemma for each clause. -/
theorem trainingCommandsComplete : Obligations.TrainingCommandsComplete := by
  unfold Obligations.TrainingCommandsComplete
  exact ⟨fun e s => does_resetRetry, fun e b bits eyes taps snr s => does_searchPointEnd_ikl,
    fun n b bits eyes taps snr c s => does_searchPointEnd_tray, fun e bits s => does_lanetestEnd, fun e s => does_lanetestExit,
    fun e r box b u s => does_lanemap, fun e b m s => does_lanemapApply, fun e r box u s => does_pinProbe,
    fun e r arrivals box lead rt u s => does_pinEcho⟩

end Sys2Proof.Machine
end
